-- ==== Sys2Proof/Word.lean ====
section
/-!
DEFINITION. The word types of the hub and their plainest arithmetic: a register word (R134), a record value (R334),
a wrapping sequence number (R502).
-/
namespace Sys2Proof

/-- One register word or one word of a memory window (R134). -/
abbrev Word := BitVec 32

/-- One byte. -/
abbrev Byte := BitVec 8

/-- The 24-bit two's-complement value of a record (R334). -/
abbrev Value := BitVec 24

/-- A 32-bit wrapping sequence number (Table 11.6). -/
abbrev Seq32 := BitVec 32

/-- A 16-bit wrapping sequence number (Table 11.6). -/
abbrev Seq16 := BitVec 16

/-- A 48-bit MAC address (R440). -/
abbrev Mac := BitVec 48

end Sys2Proof
end

