-- ==== Sys2Proof/Syntax.lean ====
section
/-!
DEFINITION. The commands of the hub: one constructor of `Instr` for each row of spec/opcode_table.json, with the operands
that the rules of the row give it, and the plain data types that those operands are made of.
Marked choices: DESIGN CHOICE, log entries 3, 43, 73.
-/
namespace Sys2Proof

/-- An access path: the SPI port, or one of the eight ring session slots (R158, Table 11.11 `path`). -/
inductive Path where
  | spi
  | sess (slot : Fin 8)
deriving DecidableEq, Repr

/-- The seven rails in the order of Table 3.1. -/
inductive Rail where
  | vdd09 | vdd11m | vdd12l | vddio18 | vdda18 | vafe50 | vbk
deriving DecidableEq, Repr

/-- The clocks and PLLs whose loss R98, R99 and CLK.STAT name. -/
inductive Clk where
  | xsys | xtime | corePll | memPll | timePll
deriving DecidableEq, Repr

/-- The four lanes (Table 10.1). -/
inductive Lane where
  | l0 | l1 | l2 | l3
deriving DecidableEq, Repr

/-- What a loss of reference takes down (R102): REFCLK, or the PLL of one lane. -/
inductive RefLoss where
  | refclk
  | lanePll (l : Lane)
deriving DecidableEq, Repr

/-- The driver faults of Table 5.4. -/
inductive ExcFault where
  | currentLimit | compliance | sense
deriving DecidableEq, Repr

/-- The internal supervision channels of R270. -/
inductive HkcSuper where
  | ts (i : Fin 4) | aoref | bgcap | vddq | agnd
deriving DecidableEq, Repr

/-- One record slot: index word, then value word (R335). -/
structure Slot where
  idx : Word
  val : Word
deriving DecidableEq, Repr

/-- The kinds of a quire (Table 8.5). -/
inductive QuireKind where
  | data | notSampled | endQuire
deriving DecidableEq, Repr

/-- A quire: the header fields of Table 8.5 and the record slots (R346). -/
structure Quire where
  stream : Nat
  kind : QuireKind
  hub : Nat
  eccSlots : Nat
  tagged : Bool
  member : Bool
  retx : Bool
  sequence : Seq32
  first : Nat
  slots : List Slot
deriving DecidableEq, Repr

/-- An acknowledgement payload (Table 11.2). -/
structure AckMsg where
  hub : Nat
  stream : Nat
  nackValid : Bool
  a : Seq32
  nackMap : Word
deriving DecidableEq, Repr

/-- A discovery beacon (Table 10.6). -/
structure Beacon where
  serial : Nat
  rooten : Bool
  twinid : Bool
  addressed : Bool
  root : Bool
  seqReset : Bool
  l0Up : Bool
  l1Up : Bool
  address : Nat
  hops : Nat
  modeL0 : Nat
  modeL1 : Nat
  modeL3 : Nat
  generation : Seq32
deriving DecidableEq, Repr

/-- An address assignment (Table 10.6): generation, MAX_FRAME in force, and (serial, address) entries. -/
structure Assignment where
  generation : Seq32
  firstEntry : Nat
  maxFrame : Nat
  entries : List (Nat × Nat)
deriving DecidableEq, Repr

/-- An admission request or release (Table 10.6). Rates are in units of 2⁻¹⁶ records per second. -/
structure AdmRequest where
  request : Nat
  hub : Nat
  stream : Nat
  paired : Bool
  release : Bool
  partner : Nat
  q : Nat
  rate : Nat
deriving DecidableEq, Repr

/-- An admission reply (Table 10.6). -/
structure AdmReply where
  request : Nat
  hub : Nat
  stream : Nat
  result : Nat
  cost : Nat
  room : Int
deriving DecidableEq, Repr

/-- One entry of a ledger report (Table 10.6). -/
structure LedgerItem where
  stream : Nat
  q : Nat
  paired : Bool
  partner : Nat
  rate : Nat
deriving DecidableEq, Repr

/-- A ledger report (Table 10.6). -/
structure LedgerReport where
  hub : Nat
  firstEntry : Nat
  total : Nat
  entries : List LedgerItem
deriving DecidableEq, Repr

/-- A root beacon (Table 10.6). -/
structure RootBeacon where
  generation : Seq32
  serial : Nat
  hops : Nat
  closed : Bool
  rebuilding : Bool
  hubs : Nat
deriving DecidableEq, Repr

/-- A grid-start message (Table 10.6): the index of the whole second S, the root's E, its tracked domain and state. -/
structure GridMsg where
  index : Nat
  epoch : Nat
  tracked : Bool
  servo : Nat
deriving DecidableEq, Repr

/-- A ring trigger (Table 12.5). -/
structure RingTrigger where
  group : Nat
  cause : Nat
  hub : Nat
  ream : Nat
  index : Nat
  segment : Nat
deriving DecidableEq, Repr

/-- A SafeFrame (Table 19.4). `crcOk` says that the CRC-32C of the received frame matches its content. -/
structure SafeMsg where
  conn : Nat
  source : Nat
  dest : Nat
  failSafe : Bool
  timeValid : Bool
  seq : Seq32
  sec : Nat
  ns : Nat
  data : List Byte
  signature : Word
  crcOk : Bool
deriving DecidableEq, Repr

/-- A register-access frame (Table 4.9) with the source MAC that names its session (R181). -/
structure AccessFrame where
  mac : Mac
  version : Nat
  op : Nat
  hub : Nat
  session : Nat
  count : Nat
  seq : Seq16
  address : Nat
  data : List Word
deriving DecidableEq, Repr

/-- A response to a register-access frame: offsets 0 to 11, the status word, the error word, the data (R178). -/
structure AccessResp where
  version : Nat
  op : Nat
  hub : Nat
  session : Nat
  count : Nat
  seq : Seq16
  address : Nat
  status : Word
  error : Word
  data : List Word
deriving DecidableEq, Repr

/-- A PTP Sync as received: times in units of 2⁻¹⁶ ns; `rx` is hub time where the PCS detects the start of the frame, before the
corrections of R46 and R396. -/
structure SyncMsg where
  port : Lane
  domain : Nat
  seq : Seq16
  source : Nat
  twoStep : Bool
  origin : Int
  corr : Int
  rx : Int
deriving DecidableEq, Repr

/-- A PTP Announce with the data that BMCA compares (R388). -/
structure AnnounceMsg where
  port : Lane
  domain : Nat
  source : Nat
  gmId : Nat
  priority1 : Nat
  clockClass : Nat
  accuracy : Nat
  variance : Nat
  priority2 : Nat
  stepsRemoved : Nat
  utcOffset : Nat
  utcValid : Bool
deriving DecidableEq, Repr

/-- A slot of the old active member that is in FAULT, as the handover frame lists it (R833). -/
structure HandoverFault where
  slot : Fin 48
  cause : Nat
  reaction : Nat
deriving DecidableEq, Repr

/-- The handover frame of R829. -/
structure HandoverMsg where
  ns : Nat
  faults : List HandoverFault
deriving DecidableEq, Repr

/-- A mirror frame of R824: engine, mode, and the words carried from the first local byte address on. -/
structure MirrorMsg where
  engine : Fin 12
  mode : Nat
  words : List (Nat × Word)
deriving DecidableEq, Repr

/-- The position of one open stream, as R826 sends it. -/
structure StreamPos where
  stream : Nat
  sequence : Seq32
  first : Nat
  acked : Seq32
deriving DecidableEq, Repr

/-- The snapshot of R842: the words of the engines' areas and the stream positions. -/
structure SnapshotMsg where
  words : List (Fin 12 × Nat × Word)
  streams : List StreamPos
deriving DecidableEq, Repr

/-- The content of a frame, by its Ethertype and subtype (Table 10.5, Table 4.9, Table 9.3). -/
inductive FrameBody where
  | stream (q : Quire)
  | ack (m : AckMsg)
  | beacon (b : Beacon)
  | assignment (a : Assignment)
  | admission (r : AdmRequest)
  | admReply (r : AdmReply)
  | gridStart (g : GridMsg)
  | ledger (r : LedgerReport)
  | rootBeacon (b : RootBeacon)
  | ringTrigger (t : RingTrigger)
  | safe (m : SafeMsg)
  | access (f : AccessFrame)
  | response (r : AccessResp)
  | sync (m : SyncMsg)
  | followUp (domain : Nat) (seq : Seq16) (origin corr : Int)
  | announce (m : AnnounceMsg)
  | delayReq (domain : Nat) (seq : Seq16) (requester : Nat)
  | delayResp (domain : Nat) (seq : Seq16) (requester : Nat) (rx : Int) (corr : Int)
  | pdelayReq (seq : Seq16)
  | pdelayResp (seq : Seq16) (corr : Int)
  | heartbeat (w : Word)
  | mirror (m : MirrorMsg)
  | positions (p : List StreamPos)
  | twinAck (m : AckMsg)
  | handover (m : HandoverMsg)
  | snapshot (m : SnapshotMsg)
  /-- The pairing exchange (Table 20.1): a nonce for the partner, and the answer to the partner's nonce. -/
  | pairing (nonce : BitVec 128) (answer : List Word)
  | ptpUnsupported (domain : Nat)
  | unknownControl
  | other
deriving DecidableEq, Repr

/-- A frame as a port receives it: addresses, HSR tag, state of the FCS, length from destination MAC to FCS. -/
structure RxFrame where
  dst : Mac
  src : Mac
  hsr : Option Seq16
  fcsOk : Bool
  bytes : Nat
  body : FrameBody
deriving DecidableEq, Repr

/-- Sending a request, or answering one that arrived: `rx` is hub time where the PCS detects its start (R388, R394). -/
inductive ReqDir where
  | send
  | answer (seq : Seq16) (requester : Nat) (rx : Int)
deriving DecidableEq, Repr

/-- What the break detectors of an input see at one of the two latching instants of R227, in units of 0.1 mV: the voltages of
AINxP and AINxN, VAFE50, the midpoint of the sense balls of the input's driver; and whether the ball of source A or B of the quad
would rise above VAFE50 − 1.0 V (R218). -/
structure BreakLatch where
  p : Int
  n : Int
  vafe : Int
  mid : Int
  compA : Bool
  compB : Bool
deriving DecidableEq, Repr

/-- What SECDED finds in a queue word as its consumer reads it (R355 to R357). -/
inductive WordErr where
  | sound
  | corrected
  | uncorrectable
deriving DecidableEq, Repr

/-- One conversion as the front end and the slice deliver it (R227, R245, R248): the sixteen bit decisions, the averaged
sense voltage of the input's driver in units of 0.1 mV (R209) and its current in units of 0.25 mA, and what the break detectors
see at the sample-and-hold edge and at the end of the conversion; `ecc` is the state of its word in the converter queue. -/
structure Conversion where
  bits : BitVec 16
  sense : Nat
  current : Nat
  held : BreakLatch
  done : BreakLatch
  ecc : WordErr
deriving DecidableEq, Repr

/-- The coefficients that a calibration measures for a slice (R248): six weights and the offset in units of 1/16 LSB, and
the gain factor in units of 2⁻³⁰. -/
structure SliceCoef where
  weights : List Int
  offset : Int
  gain : Int
deriving DecidableEq, Repr

/-- An edge at an ENC ball (R643, R648): input A, B or Z, its new level, the levels of the other inputs (that of B as R650 reads it),
the first CLKT edge at or after it, in CLKT cycles of hub time, and the code of the interpolator. `together` says that A and B
changed together (R649); `ecc` is the state of the item that it leaves in the edge queue. -/
structure EncEdge where
  input : Fin 3
  level : Bool
  a : Bool
  b : Bool
  coarse : Nat
  code : Fin 256
  together : Bool
  ecc : WordErr
deriving DecidableEq, Repr

/-- An uplink frame of a sensor port (Table 15.5); `good` is false on a CRC error, a code error or a missing comma. -/
structure Uplink where
  good : Bool
  fs : BitVec 16
  ready : Bool
  fault : Bool
  respValid : Bool
  brk : BitVec 24
  slots : List Value
  respTag : Nat
  respCode : Nat
  respData : List Byte
  rtt : Nat
deriving DecidableEq, Repr

/-- An instruction of the test access port (R71, R72). -/
inductive TapInstr where
  | idcode | bypass | samplePreload | otherInstr (code : Nat)
deriving DecidableEq, Repr

/-- What Dawn's read of one slot of the NV store finds (R742, R744): words corrected, words uncorrectable, and whether the CRC of the
content matches. -/
structure NvRead where
  corrected : Nat := 0
  uncorrectable : Nat := 0
  crcOk : Bool := true
deriving DecidableEq, Repr

/-- The BIST tests of Table 21.2 that failed, and the reads of the two slots of the calibration field set (R748). -/
structure BistResult where
  core : Bool
  vat : Bool
  nvm : Bool
  sram : Bool
  failedSlices : List (Fin 32 × Fin 9)
  failedEdges : List (Fin 64)
  failedBands : List (Fin 96)
  cal0 : NvRead
  cal1 : NvRead
deriving DecidableEq, Repr

/-- An error of a queue word found on reading (R355 to R359): a corrected bit, or a double-bit error in the value word or
the index word of a slot or in a header word. -/
inductive QueueErr where
  | corrected
  | value (slot : Nat)
  | index (slot : Nat)
  | header
deriving DecidableEq, Repr

/-- The memory operands of a format-M engine instruction (Table 13.5, R578). -/
structure MemOp where
  d : Fin 16
  a : Fin 16
  st : Fin 4
  off : BitVec 16
deriving DecidableEq, Repr

/-- The commands of the hub, one constructor for each row of the table, in the table's order. An operand with a default is one that
the row does not name and a rule of the spec asks for: an error that SECDED finds, a measured time, what a partner answers. Its
default is the case in which nothing of it is to be told. -/
inductive Instr where
  -- power, clocks, resets
  | vbkApplied
  | railLost (r : Rail)
  | analogRailHoldEnd (r : Rail)
  | vdd12lRestored
  | powerGood
  | pwrenTimeout
  | pwrenRetry
  | clockLost (c : Clk)
  | clockRestored (c : Clk)
  | refclkLost (r : RefLoss)
  | refclkRestored (r : RefLoss)
  | nporLow
  | nporRelease
  | nwake
  | wakeAt
  | nrstreqFall
  | nrstreqHighSample
  | nrstreqDebounced
  | rstreqFailed
  | rstreqRecovered
  | lockstepMismatch
  | watchdog
  | queueFull (q : Nat)
  | warmReset
  | hubReady
  | samplingResumed
  | rstCtrl (p : Path) (v : Word)
  | targetMidnight (p : Path)
  | targetRemoval (p : Path)
  | targetTwilight (p : Path)
  | duskEnd
  | duskLimit
  | faultSrcClear (p : Path) (mask : Word)
  | keeperRelease (gen : Bool) (ball : Nat)
  -- pages and commits
  | commitApplyNow (p : Path) (page : Nat)
  | commitApplyAt (p : Path) (page : Nat)
  | commitCancel (p : Path) (page : Nat)
  | scheduledCommit (page : Nat)
  | pageEnable (p : Path) (page : Nat) (enable : Bool)
  | blockReset (p : Path) (page : Nat)
  | freeze (p : Path) (page : Nat) (on : Bool)
  | errcodeClear (p : Path) (page : Nat) (mask : Word)
  | registerWrite (p : Path) (addr : Nat) (v : Word)
  | loRead (p : Path) (addr : Nat)
  -- host port and ring access
  /-- `cut`: the transaction ends within a further word (R167); `period`: the HSCLK period in ps; `ready`: the first data word is
  ready at its first bit (R169). -/
  | spiRead (addr count : Nat) (cut : Bool := false) (period : Nat := 10000) (ready : Bool := true)
  | spiWrite (addr : Nat) (data : List Word) (partialWord : Bool)
  | spiReadReq (addr len : Nat) (cut : Bool := false)
  | spiFetch (count : Nat) (cut : Bool := false)
  | spiStatus
  | resetPort
  | busyEnd
  | attentionPulse
  | attentionPulseEnd
  | attentionRepeat
  | ringRead (f : AccessFrame)
  | ringWrite (f : AccessFrame)
  | sessionTimeout (slot : Fin 8)
  | queueClear (p : Path) (q : Nat)
  -- converters, ranging, excitation
  | rawRecord (ch : Fin 128) (c : Conversion)
  | rangeStep (ch : Fin 128)
  | breakEnd (ch : Fin 128)
  | burnOutTest (ch : Fin 128) (moved : Bool)
  | swapPhase (ch : Fin 128)
  | excSettleEnd (k : Fin 16)
  | excitationFault (k : Fin 16) (f : ExcFault)
  | rotationStep (core : Fin 32)
  | sliceCalibrationDone (core : Fin 32) (c : SliceCoef)
  | bandEdgeLoad (ain : Fin 96) (ecc : WordErr := .sound)
  | comparatorCrossing (ain : Fin 96) (upper level : Bool)
  | minHoldEnd (slot : Fin 48) (leg : Fin 3)
  | hkcStart (p : Path) (v : Word)
  | hkcResult (code : BitVec 12) (value : BitVec 16)
  | hkcSupervision (ch : HkcSuper) (value : BitVec 16) (agree : Bool)
  | dataRead (p : Path)
  -- filters
  | filteredRecord (ch : Nat)
  /-- `stamp`: the timestamp of the edge after the synchroniser, in units of 2⁻⁶ ns (R45); `ecc`: its word in the queue of pin
  timestamps; the same at `triginEdge`. -/
  | syncEdge (falling : Bool) (stamp : Nat := 0) (ecc : WordErr := .sound)
  | syncSchedule (p : Path)
  | syncCancel (p : Path)
  | syncEffect
  | coefDataWrite (p : Path) (v : Word)
  | coefDataRead (p : Path)
  | polyDataWrite (p : Path) (page : Nat) (v : Word)
  | polyDataRead (p : Path) (page : Nat)
  | redMinRead (p : Path) (page : Nat) (c : Fin 8)
  -- hub time
  | syncMessage (m : SyncMsg)
  | followUp (domain : Nat) (seq : Seq16) (origin corr : Int)
  | delayReq (domain : Nat) (d : ReqDir)
  | delayResp (domain : Nat) (seq : Seq16) (rx : Int) (corr : Int := 0)
  | pdelayReq (port : Lane) (d : ReqDir)
  | pdelayResp (port : Lane) (seq : Seq16) (corr : Int) (rx : Int) (twoStep : Bool)
  | pdelayRespFollowUp (port : Lane) (seq : Seq16) (corr : Int)
  | announce (m : AnnounceMsg)
  | announceTimeout (domain : Bool)
  | domainLost
  | holdLimit
  | rootSyncSend (domain : Bool)
  | rootAnnounceSend (domain : Bool)
  | domSel (p : Path) (v : Word)
  | coarseRefresh
  | gridStartSend
  | gridStart (m : GridMsg)
  | gridStartIndex
  -- lanes and ring
  | linkUp (l : Lane)
  | linkDown (l : Lane)
  | rxWake (l : Lane)
  | prbsInject (p : Path) (l : Lane)
  | ringFrame (port : Lane) (f : RxFrame)
  | l3Frame (f : RxFrame)
  | discoveryBeaconSend
  | discoveryBeacon (port : Lane) (b : Beacon)
  | addressAssignmentSend
  | addressAssignment (a : Assignment)
  | rootBeaconSend
  | rootBeacon (port : Lane) (b : RootBeacon)
  | rootLost
  | rootAlone
  | ringBreak (port : Lane) (westHub eastHub : Nat) (multiple : Bool)
  | admissionRequest (r : AdmRequest)
  | admissionRelease (r : AdmRequest)
  | admissionReply (r : AdmReply)
  | admissionRetry (s : Fin 64)
  | enoroot (s : Fin 64)
  | ledgerReport (r : LedgerReport)
  | ledgerReportSend
  | ledgerRebuilt
  -- streams
  | openStream (p : Path) (s : Nat)
  | closeStream (p : Path) (s : Nat)
  | clearStream (p : Path) (s : Nat)
  | streamStart (s : Fin 64)
  | quireStored (s : Fin 64) (errs : List QueueErr)
  /-- `errs`: what SECDED finds in the words of the stored quire (Table 11.3). -/
  | quireTransmit (s : Fin 64) (errs : List QueueErr := [])
  | acknowledgement (m : AckMsg)
  | seqAcked (p : Path) (s : Fin 64) (a : Seq32)
  | retxAfter (s : Fin 64)
  | tHoldExpiry (s : Fin 64)
  -- commands
  | cmdNop (p : Path) (seq : Seq32) (args : List Word)
  | cmdTransfer (p : Path) (seq : Seq32) (args : List Word)
  | cmdReamStore (p : Path) (seq : Seq32) (args : List Word)
  | cmdCalStore (p : Path) (seq : Seq32) (args : List Word)
  | cmdFuseWrite (p : Path) (seq : Seq32) (args : List Word)
  | cmdZipJob (p : Path) (seq : Seq32) (args : List Word)
  | cmdTableStage (p : Path) (seq : Seq32) (args : List Word)
  | commandExecute
  | persistentStepDone (ok : Bool)
  | transferDone
  | tableStageDone
  | zipJobDone (lost : Option Nat := none)
  | abortJob (p : Path)
  -- capture
  | arm (p : Path) (r : Fin 16)
  | armAt (p : Path) (r : Fin 16)
  | armAtReached (r : Fin 16)
  | disarm (p : Path) (r : Fin 16)
  | reamClear (p : Path) (r : Fin 16)
  | hostTrigger (p : Path) (r : Fin 16)
  | triginEdge (pin : Fin 4) (falling : Bool) (stamp : Nat) (ecc : WordErr := .sound)
  | ringTrigger (t : RingTrigger)
  | triggerDecision (r : Fin 16)
  | autoTrigger (r : Fin 16)
  | holdoffEnd (r : Fin 16)
  | segmentDone (r : Fin 16) (errs : List QueueErr := [])
  -- axis engines
  | bu (k : Fin 12)
  | stageStart (k : Fin 12)
  | limit (k : Fin 12)
  | sramScrub (k : Fin 12) (addr : Nat) (uncorrectable : Bool)
  | nopInstruction (k : Fin 12)
  | sli (k : Fin 12) (d : Fin 16) (imm : BitVec 16)
  | slih (k : Fin 12) (d : Fin 16) (imm : BitVec 16)
  | sadd (k : Fin 12) (d a b : Fin 16)
  | saddi (k : Fin 12) (d a : Fin 16) (imm : BitVec 18)
  | ssub (k : Fin 12) (d a b : Fin 16)
  | sand (k : Fin 12) (d a b : Fin 16)
  | sor (k : Fin 12) (d a b : Fin 16)
  | sshl (k : Fin 12) (d a : Fin 16) (imm : BitVec 10)
  | sshr (k : Fin 12) (d a : Fin 16) (imm : BitVec 10)
  | smul (k : Fin 12) (d a b : Fin 16)
  | sld (k : Fin 12) (m : MemOp)
  | sst (k : Fin 12) (m : MemOp)
  | sget (k : Fin 12) (d : Fin 16) (sel : BitVec 10)
  | br (k : Fin 12) (cond : Fin 16) (a : Fin 16) (target : BitVec 15)
  | lmask (k : Fin 12) (imm : BitVec 10)
  | signal (k : Fin 12)
  | vld (k : Fin 12) (m : MemOp)
  | vldr (k : Fin 12) (m : MemOp)
  | vldi (k : Fin 12) (m : MemOp)
  | vldd (k : Fin 12) (d a b : Fin 16) (st : Fin 4)
  | vst (k : Fin 12) (m : MemOp)
  | vste (k : Fin 12) (m : MemOp)
  | vsplat (k : Fin 12) (d a : Fin 16)
  | vadd (k : Fin 12) (d a b : Fin 16)
  | vsub (k : Fin 12) (d a b : Fin 16)
  | vmul (k : Fin 12) (d a b : Fin 16)
  | vmac (k : Fin 12) (d : Fin 16) (a b : Fin 16) (neg : Bool)
  | aclr (k : Fin 12) (d : Fin 16) (e : BitVec 8)
  | vmova (k : Fin 12) (d : Fin 16) (a : Fin 16)
  | vclamp (k : Fin 12) (d a b c : Fin 16)
  | vneg (k : Fin 12) (d a : Fin 16)
  | vabs (k : Fin 12) (d a : Fin 16)
  | vscl (k : Fin 12) (d a : Fin 16) (e : BitVec 8)
  | vmov (k : Fin 12) (d a : Fin 16)
  | vbc (k : Fin 12) (d a : Fin 16) (j : Fin 4)
  | vcmp (k : Fin 12) (a b : Fin 16) (cond : Fin 8)
  | vsel (k : Fin 12) (d a b : Fin 16)
  | vtst (k : Fin 12) (imm : BitVec 10)
  | norm (k : Fin 12) (d : Fin 16)
  | vtab (k : Fin 12) (d a b c : Fin 16) (interp : Bool)
  | stop (k : Fin 12)
  | illegal (k : Fin 12)
  | runEngine (p : Path) (k : Fin 12)
  | haltEngine (p : Path) (k : Fin 12)
  | clearFault (p : Path) (k : Fin 12)
  | doorbell (p : Path) (k : Fin 12)
  | clearStagingList (p : Path) (k : Fin 12)
  -- motion
  | slotEnable (r : Fin 48)
  | slotRun (r : Fin 48)
  | slotDisable (r : Fin 48)
  | holdTimeout (r : Fin 48)
  | motClearFault (p : Path) (r : Nat)
  | cycleMark (p : Path) (r : Nat)
  | rcLost (r : Fin 48)
  -- edges and sensor ports
  | encEdge (ch : Fin 64) (e : EncEdge)
  | intervalTimeout (ch : Fin 64)
  | ssiTransfer (ch : Fin 64)
  | ssiTransferDone (ch : Fin 64) (idleHigh : Bool) (bits : List Bool)
  | interpolatorTable (ch : Fin 64) (input : Fin 3) (hits : List Nat := [])
  | armReference (p : Path) (ch : Fin 64)
  | loadPreset (p : Path) (ch : Fin 64)
  | clearCounters (p : Path) (ch : Fin 64)
  | downlinkFrame (p : Fin 8)
  /-- `groups`: the code groups abcdeifghj as they arrive, bit a first in each (R665); `rtt` in units of 156.25 ps (R669). -/
  | uplinkFrame (p : Fin 8) (groups : List (BitVec 10)) (rtt : Nat := 0)
  | commandResend (p : Fin 8)
  | sendCommand (p : Path) (port : Fin 8)
  | acceptIdentity (p : Path) (port : Fin 8)
  | retrain (p : Path) (port : Fin 8)
  -- lighting and strobes
  | sendNow (p : Path) (x : Fin 8)
  | sendToLatch (p : Path) (x : Fin 8)
  | cancelSend (p : Path) (x : Fin 8)
  | frameStart (x : Fin 8) (refresh : Bool)
  | frameDone (x : Fin 8)
  | lvlData (p : Path) (w : Option Word)
  | strobeArm (p : Path) (x : Fin 8)
  | strobeDisarm (p : Path) (x : Fin 8)
  | strobeFire (x : Fin 8)
  | strobeEnd (x : Fin 8)
  -- calibration, fuses, access
  | recalibrate (p : Path)
  | calPeriod
  | recalibrationDone (quads : BitVec 32)
  | chal0Read (p : Path)
  | challengeExpiry (p : Path)
  | authEnter (p : Path)
  | authLeave (p : Path)
  | svcTimeout (p : Path)
  | lockoutEnd
  | nsconfAsserted
  | nsconfRelease
  -- safety
  | safeInput (i : Fin 16) (level : Bool)
  | discrepancy (k : Fin 8)
  | testPulse (k : Fin 4)
  | testPulseEnd (k : Fin 4)
  | pulseHoldEnd (k : Fin 4)
  | sfcCycle (flowOk cfgOk : Bool)
  | sfcSelfTest (ok : Bool)
  | lifeSignalLost
  | switchTest (x : Fin 4)
  | switchTestEnd (x : Fin 4)
  | readbackFault (x : Fin 4) (high : Bool)
  | ss1Expiry (x : Fin 4)
  | safeframeSend (c : Fin 32)
  | safeframe (c : Fin 32) (m : SafeMsg)
  | safeframeWatchdog (c : Fin 32)
  | resetFaults (p : Path)
  | resetConnection (p : Path) (c : Fin 32)
  -- twin
  /-- What the pairing exchange shows of the partner, its nonce, and its answer to the nonce of this hub. -/
  | pairingRetry (remote : List Word) (nonce : BitVec 128) (answer : List Word := [])
  | paired
  | heartbeatSend
  | heartbeat (w : Word)
  | partnerLost
  | arbselChange (level : Bool)
  | handoverFrame (m : HandoverMsg)
  | handoverRelease (k : Fin 12)
  | handoverTake (k : Fin 12)
  | arbMismatch
  | mirrorFrameSend (k : Fin 12)
  | mirrorFrame (m : MirrorMsg)
  | snapshot (m : SnapshotMsg)
  | requestRelease (p : Path)
  | cancelRelease (p : Path)
  -- Dawn
  | bistDone (r : BistResult)
  /-- The reads of the two slots of the Ream image (R748). -/
  | reamImageLoaded (slot0 slot1 : NvRead := {})
  | linkWaitExpiry
  | dawnStall (cause : Nat)
  -- rows that the table adds at its end
  | xlpLost
  | xlpRestored
  | excitationFaultEnd (k : Fin 16) (f : ExcFault)
  | prbsCheckerLock (l : Lane)
  | prbsBitError (l : Lane)
  | edgePositionRecord (ch : Fin 64)
  | switchReadback (x : Fin 4) (high level : Bool)
  | releasedNetEdge (gen : Bool) (ball : Nat)
  | stagingReplayDone (k : Fin 12)
  | unknownOpcode (p : Path) (opcode : Nat) (seq : Seq32)
  | tapInstruction (i : TapInstr)
deriving DecidableEq, Repr

end Sys2Proof
end

