-- ==== Sys2Proof/Decode.lean ====
section
/-!
DEFINITION. The command that a word spells. spec/opcode_table.json gives none of its rows any bits: commands reach the hub as
register accesses, frames and events, so no word spells one.
-/

/-- The command that a word of `nbits` bits spells by the bits of the table: the table gives no bits. -/
def Sys2Proof.decodeTableWord (_nbits _w : Nat) : Option Sys2Proof.Instr := none
end

