-- ==== Sys2Proof/Machine/RegMap.lean ====
section
/-!
DEFINITION. The register map of spec/04 (Table 4.2) and of the register tables of every chapter: the address of each
register, and one row per register with its access code (Table 0.3), its reset value, the bits a write can change, the
access level of an RWL register and the field ranges whose violation is refused with ZERO or RANGE (R24, R876).
Marked choices: DESIGN CHOICE, log entry 18.
-/
namespace Sys2Proof.Machine

/-- The access codes of Table 0.3. -/
inductive Acc where
  | ro | rw | rws | w1c | wo | rwl
deriving DecidableEq, Repr

/-- What a zero in a checked field does (R24): it is refused with ZERO, it is accepted whatever the range says, or the
range decides. -/
inductive ZeroRule where
  | reject | allow | ranged
deriving DecidableEq, Repr

/-- A checked field of a register: its place, its zero rule and its range; a signed field is read in two's complement. -/
structure Check where
  lo : Nat
  width : Nat
  zero : ZeroRule
  min : Int
  max : Int
  signed : Bool := false
deriving DecidableEq, Repr

/-- One row of a register table: offset, stride and number of instances in the page, access, reset value, writable bits,
access level of a write, checked fields. -/
structure RegRow where
  off : Nat
  stride : Nat
  count : Nat
  acc : Acc
  reset : Word
  mask : Word
  level : Nat
  checks : List Check
deriving DecidableEq, Repr

/-- The blocks of Table 4.2. -/
inductive Blk where
  | sys | host | pwr | clk | fq | cc | hkc | aout | flt | time | ptp | lane | ring | strm | cmd | vat | capt | ae | mot | edge | sprt | lite | zip | cal | nvm | fuse | jrnl | safe | twin
deriving DecidableEq, Repr

abbrev SYS.DEVICE : Nat := 0x000040
abbrev SYS.STRAPS : Nat := 0x000044
abbrev SYS.SERIAL_LO : Nat := 0x000048
abbrev SYS.SERIAL_HI : Nat := 0x00004c
abbrev SYS.ATTN_MAP (i : Nat) : Nat := 0x000050 + 0x4 * i
abbrev SYS.HUB_ADDR : Nat := 0x000070
abbrev SYS.INT_FAULT : Nat := 0x000074
abbrev SYS.QUEUE_SEL : Nat := 0x000078
abbrev SYS.QUEUE_STAT : Nat := 0x00007c
abbrev SYS.QUEUE_ECC_TOTAL : Nat := 0x000080
abbrev SYS.DAWN_STAT : Nat := 0x000084
abbrev SYS.DAWN_T (i : Nat) : Nat := 0x000088 + 0x4 * i
abbrev HOST.CFG : Nat := 0x001040
abbrev HOST.STAT : Nat := 0x001044
abbrev HOST.ERR_ADDR : Nat := 0x001048
abbrev HOST.XFER_COUNT : Nat := 0x00104c
abbrev HOST.REFUSED_COUNT : Nat := 0x001050
abbrev HOST.SESSION_TIMEOUT : Nat := 0x001054
abbrev HOST.RING_ACCESS : Nat := 0x001058
abbrev PWR.CTRL : Nat := 0x002040
abbrev PWR.STAT : Nat := 0x002044
abbrev PWR.RST_CAUSE : Nat := 0x002048
abbrev PWR.RST_CTRL : Nat := 0x00204c
abbrev PWR.RST_COUNT : Nat := 0x002050
abbrev PWR.LAST_SAMPLED_LO : Nat := 0x002054
abbrev PWR.LAST_SAMPLED_HI : Nat := 0x002058
abbrev PWR.RESUMED_LO : Nat := 0x00205c
abbrev PWR.RESUMED_HI : Nat := 0x002060
abbrev PWR.RSTREQ_STAT : Nat := 0x002064
abbrev PWR.FAULT_SRC : Nat := 0x002068
abbrev PWR.WAKE_CFG : Nat := 0x00206c
abbrev PWR.WAKE_AT : Nat := 0x002070
abbrev PWR.HOLD_STAT : Nat := 0x002074
abbrev PWR.DUSK_LIMIT : Nat := 0x002078
abbrev CLK.STAT : Nat := 0x003040
abbrev CLK.LOSS_COUNT : Nat := 0x003044
abbrev CLK.XTIME_PPM : Nat := 0x003048
abbrev CLK.REFCLK_SPREAD : Nat := 0x00304c
abbrev CLK.XLP_TRIM : Nat := 0x003050
abbrev FQ.IN_CFG (p i : Nat) : Nat := 0x010040 + 0x1000 * p + 0x4 * i
abbrev FQ.IEX_CFG (p : Nat) : Nat := 0x010050 + 0x1000 * p
abbrev FQ.BRK_CFG (p : Nat) : Nat := 0x010054 + 0x1000 * p
abbrev FQ.IN_STAT (p i : Nat) : Nat := 0x010058 + 0x1000 * p + 0x4 * i
abbrev FQ.CLIP_COUNT (p : Nat) : Nat := 0x010068 + 0x1000 * p
abbrev FQ.IEX_STAT (p : Nat) : Nat := 0x01006c + 0x1000 * p
abbrev FQ.EXC_CFG (p : Nat) : Nat := 0x010070 + 0x1000 * p
abbrev FQ.EXC_SETTLE (p : Nat) : Nat := 0x010074 + 0x1000 * p
abbrev FQ.EXC_STAT (p : Nat) : Nat := 0x010078 + 0x1000 * p
abbrev CC.CFG (p : Nat) : Nat := 0x030040 + 0x1000 * p
abbrev CC.ROT_PERIOD (p : Nat) : Nat := 0x030044 + 0x1000 * p
abbrev CC.SLICE_STAT (p : Nat) : Nat := 0x030048 + 0x1000 * p
abbrev CC.ROT_COUNT (p : Nat) : Nat := 0x03004c + 0x1000 * p
abbrev CC.CAL_AGE (p : Nat) : Nat := 0x030050 + 0x1000 * p
abbrev CC.NODATA_COUNT (p : Nat) : Nat := 0x030054 + 0x1000 * p
abbrev CC.BAND_CFG (p i : Nat) : Nat := 0x030060 + 0x1000 * p + 0x10 * i
abbrev CC.BAND_HOST (p i : Nat) : Nat := 0x030064 + 0x1000 * p + 0x10 * i
abbrev CC.BAND_LOADED (p i : Nat) : Nat := 0x030068 + 0x1000 * p + 0x10 * i
abbrev CC.BAND_STAT (p i : Nat) : Nat := 0x03006c + 0x1000 * p + 0x10 * i
abbrev HKC.SEL : Nat := 0x050040
abbrev HKC.START : Nat := 0x050044
abbrev HKC.DATA : Nat := 0x050048
abbrev HKC.STAMP : Nat := 0x05004c
abbrev HKC.TEMP (i : Nat) : Nat := 0x050050 + 0x4 * i
abbrev HKC.TEMP_MAX : Nat := 0x050060
abbrev AOUT.AO_CFG (i : Nat) : Nat := 0x051040 + 0x10 * i
abbrev AOUT.AO_ZERO (i : Nat) : Nat := 0x051044 + 0x10 * i
abbrev AOUT.AO_SPAN (i : Nat) : Nat := 0x051048 + 0x10 * i
abbrev AOUT.AO_VALUE (i : Nat) : Nat := 0x05104c + 0x10 * i
abbrev AOUT.AOREF_STAT : Nat := 0x0510c0
abbrev FLT.COEF_ADDR (p : Nat) : Nat := 0x060040 + 0x1000 * p
abbrev FLT.COEF_DATA (p : Nat) : Nat := 0x060044 + 0x1000 * p
abbrev FLT.POLY_ADDR (p : Nat) : Nat := 0x060048 + 0x1000 * p
abbrev FLT.POLY_DATA (p : Nat) : Nat := 0x06004c + 0x1000 * p
abbrev FLT.SYNC_CFG (p : Nat) : Nat := 0x060050 + 0x1000 * p
abbrev FLT.SYNC_AT_LO (p : Nat) : Nat := 0x060054 + 0x1000 * p
abbrev FLT.SYNC_AT_HI (p : Nat) : Nat := 0x060058 + 0x1000 * p
abbrev FLT.SYNC_CMD (p : Nat) : Nat := 0x06005c + 0x1000 * p
abbrev FLT.SYNC_STAT (p : Nat) : Nat := 0x060060 + 0x1000 * p
abbrev FLT.SYNC_LAST_LO (p : Nat) : Nat := 0x060064 + 0x1000 * p
abbrev FLT.SYNC_LAST_HI (p : Nat) : Nat := 0x060068 + 0x1000 * p
abbrev FLT.MAC_LOAD (p : Nat) : Nat := 0x06006c + 0x1000 * p
abbrev FLT.CH_CFG (p i : Nat) : Nat := 0x060100 + 0x1000 * p + 0x40 * i
abbrev FLT.CH_CIC (p i : Nat) : Nat := 0x060104 + 0x1000 * p + 0x40 * i
abbrev FLT.CH_FIR (p i : Nat) : Nat := 0x060108 + 0x1000 * p + 0x40 * i
abbrev FLT.CH_FIR_DELAY (p i : Nat) : Nat := 0x06010c + 0x1000 * p + 0x40 * i
abbrev FLT.CH_RS_RATIO_LO (p i : Nat) : Nat := 0x060110 + 0x1000 * p + 0x40 * i
abbrev FLT.CH_RS_RATIO_HI (p i : Nat) : Nat := 0x060114 + 0x1000 * p + 0x40 * i
abbrev FLT.CH_LIN (p i : Nat) : Nat := 0x060118 + 0x1000 * p + 0x40 * i
abbrev FLT.CH_RED (p i : Nat) : Nat := 0x06011c + 0x1000 * p + 0x40 * i
abbrev FLT.CH_STAT (p i : Nat) : Nat := 0x060120 + 0x1000 * p + 0x40 * i
abbrev FLT.CH_DELAY (p i : Nat) : Nat := 0x060124 + 0x1000 * p + 0x40 * i
abbrev FLT.CH_LATENCY (p i : Nat) : Nat := 0x060128 + 0x1000 * p + 0x40 * i
abbrev FLT.CH_RED_MIN (p i : Nat) : Nat := 0x06012c + 0x1000 * p + 0x40 * i
abbrev FLT.CH_RED_MAX (p i : Nat) : Nat := 0x060130 + 0x1000 * p + 0x40 * i
abbrev FLT.CH_RED_MEAN (p i : Nat) : Nat := 0x060134 + 0x1000 * p + 0x40 * i
abbrev FLT.CH_RED_RMS (p i : Nat) : Nat := 0x060138 + 0x1000 * p + 0x40 * i
abbrev FLT.CH_RED_INDEX (p i : Nat) : Nat := 0x06013c + 0x1000 * p + 0x40 * i
abbrev TIME.CFG : Nat := 0x090040
abbrev TIME.STAT : Nat := 0x090044
abbrev TIME.HT_SEC_LO : Nat := 0x090048
abbrev TIME.HT_SEC_HI : Nat := 0x09004c
abbrev TIME.HT_NS : Nat := 0x090050
abbrev TIME.HT_FRAC : Nat := 0x090054
abbrev TIME.INDEX_LO : Nat := 0x090058
abbrev TIME.INDEX_HI : Nat := 0x09005c
abbrev TIME.GRID_EPOCH_LO : Nat := 0x090060
abbrev TIME.GRID_EPOCH_HI : Nat := 0x090064
abbrev TIME.GRID_START_LO : Nat := 0x090068
abbrev TIME.GRID_START_HI : Nat := 0x09006c
abbrev TIME.FREQ_WORD : Nat := 0x090070
abbrev TIME.OFFSET : Nat := 0x090074
abbrev TIME.STEP_THRESH : Nat := 0x090078
abbrev TIME.LOCK_THRESH : Nat := 0x09007c
abbrev TIME.SWITCH_WINDOW : Nat := 0x090080
abbrev TIME.SLEW_MAX : Nat := 0x090084
abbrev TIME.HOLD_LIMIT : Nat := 0x090088
abbrev TIME.HOLD_STAT : Nat := 0x09008c
abbrev TIME.STEP_COUNT : Nat := 0x090090
abbrev TIME.LAST_STEP : Nat := 0x090094
abbrev TIME.UTC_OFFSET : Nat := 0x090098
abbrev TIME.PORT_ING_LAT (i : Nat) : Nat := 0x0900a0 + 0x10 * i
abbrev TIME.PORT_EGR_LAT (i : Nat) : Nat := 0x0900a4 + 0x10 * i
abbrev TIME.PORT_ASYM (i : Nat) : Nat := 0x0900a8 + 0x10 * i
abbrev TIME.PORT_DELAY (i : Nat) : Nat := 0x0900ac + 0x10 * i
abbrev PTP.CFG (p : Nat) : Nat := 0x091040 + 0x1000 * p
abbrev PTP.INTERVALS (p : Nat) : Nat := 0x091044 + 0x1000 * p
abbrev PTP.DATASET (p : Nat) : Nat := 0x091048 + 0x1000 * p
abbrev PTP.SERVO_KP (p : Nat) : Nat := 0x09104c + 0x1000 * p
abbrev PTP.SERVO_KI (p : Nat) : Nat := 0x091050 + 0x1000 * p
abbrev PTP.STAT (p : Nat) : Nat := 0x091054 + 0x1000 * p
abbrev PTP.OFFSET (p : Nat) : Nat := 0x091058 + 0x1000 * p
abbrev PTP.FREQ (p : Nat) : Nat := 0x09105c + 0x1000 * p
abbrev PTP.GM_ID_LO (p : Nat) : Nat := 0x091060 + 0x1000 * p
abbrev PTP.GM_ID_HI (p : Nat) : Nat := 0x091064 + 0x1000 * p
abbrev PTP.GM_INFO (p : Nat) : Nat := 0x091068 + 0x1000 * p
abbrev PTP.SYNC_COUNT (p : Nat) : Nat := 0x09106c + 0x1000 * p
abbrev PTP.DISCARD (p : Nat) : Nat := 0x091070 + 0x1000 * p
abbrev PTP.LAST_SEQ (p : Nat) : Nat := 0x091074 + 0x1000 * p
abbrev LANE.CFG (p : Nat) : Nat := 0x098040 + 0x1000 * p
abbrev LANE.STAT (p : Nat) : Nat := 0x098044 + 0x1000 * p
abbrev LANE.PRBS_CFG (p : Nat) : Nat := 0x098048 + 0x1000 * p
abbrev LANE.PRBS_ERR (p : Nat) : Nat := 0x09804c + 0x1000 * p
abbrev LANE.PRBS_BITS_LO (p : Nat) : Nat := 0x098050 + 0x1000 * p
abbrev LANE.PRBS_BITS_HI (p : Nat) : Nat := 0x098054 + 0x1000 * p
abbrev LANE.LINK_COUNT (p : Nat) : Nat := 0x098058 + 0x1000 * p
abbrev LANE.FCS_ERR (p : Nat) : Nat := 0x09805c + 0x1000 * p
abbrev LANE.FEC_STAT (p : Nat) : Nat := 0x098060 + 0x1000 * p
abbrev LANE.RX_PPM (p : Nat) : Nat := 0x098064 + 0x1000 * p
abbrev LANE.TX_FRAMES (p : Nat) : Nat := 0x098068 + 0x1000 * p
abbrev LANE.RX_FRAMES (p : Nat) : Nat := 0x09806c + 0x1000 * p
abbrev RING.CFG : Nat := 0x09c040
abbrev RING.STAT : Nat := 0x09c044
abbrev RING.HUBS : Nat := 0x09c048
abbrev RING.GENERATION : Nat := 0x09c04c
abbrev RING.ROOT_SERIAL_LO : Nat := 0x09c050
abbrev RING.ROOT_SERIAL_HI : Nat := 0x09c054
abbrev RING.MAX_FRAME : Nat := 0x09c058
abbrev RING.RETX_POOL : Nat := 0x09c05c
abbrev RING.HOST_RATE : Nat := 0x09c060
abbrev RING.HOST_MAC_LO : Nat := 0x09c064
abbrev RING.HOST_MAC_HI : Nat := 0x09c068
abbrev RING.LEDGER_CAP : Nat := 0x09c06c
abbrev RING.LEDGER_USED : Nat := 0x09c070
abbrev RING.LEDGER_ENTRIES : Nat := 0x09c074
abbrev RING.ADM_LAST : Nat := 0x09c078
abbrev RING.BREAK_STAT : Nat := 0x09c07c
abbrev RING.DUP_DISCARD : Nat := 0x09c080
abbrev RING.STALE_DISCARD : Nat := 0x09c084
abbrev RING.FWD_COUNT : Nat := 0x09c088
abbrev RING.HOST_DROP : Nat := 0x09c08c
abbrev RING.ADDR_TBL_SEL : Nat := 0x09c090
abbrev RING.ADDR_TBL_LO : Nat := 0x09c094
abbrev RING.ADDR_TBL_HI : Nat := 0x09c098
abbrev STRM.CTRL : Nat := 0x0a0040
abbrev STRM.CHSEL_ADDR : Nat := 0x0a0044
abbrev STRM.CHSEL_DATA : Nat := 0x0a0048
abbrev STRM.OPEN_STAT : Nat := 0x0a004c
abbrev STRM.RETX_AFTER : Nat := 0x0a0050
abbrev STRM.RETX_COUNT : Nat := 0x0a0054
abbrev STRM.ACK_REFUSED : Nat := 0x0a0058
abbrev STRM.STREAM_EVT_LO : Nat := 0x0a005c
abbrev STRM.STREAM_EVT_HI : Nat := 0x0a0060
abbrev STRM.CFG (i : Nat) : Nat := 0x0a0100 + 0x30 * i
abbrev STRM.RATE_LO (i : Nat) : Nat := 0x0a0104 + 0x30 * i
abbrev STRM.RATE_HI (i : Nat) : Nat := 0x0a0108 + 0x30 * i
abbrev STRM.HOLD (i : Nat) : Nat := 0x0a010c + 0x30 * i
abbrev STRM.START_LO (i : Nat) : Nat := 0x0a0110 + 0x30 * i
abbrev STRM.START_HI (i : Nat) : Nat := 0x0a0114 + 0x30 * i
abbrev STRM.STAT (i : Nat) : Nat := 0x0a0118 + 0x30 * i
abbrev STRM.SEQ_SENT (i : Nat) : Nat := 0x0a011c + 0x30 * i
abbrev STRM.SEQ_ACKED (i : Nat) : Nat := 0x0a0120 + 0x30 * i
abbrev STRM.UNACKED (i : Nat) : Nat := 0x0a0124 + 0x30 * i
abbrev STRM.LOST_LO (i : Nat) : Nat := 0x0a0128 + 0x30 * i
abbrev STRM.LOST_HI (i : Nat) : Nat := 0x0a012c + 0x30 * i
abbrev CMD.OPCODE : Nat := 0x0a1040
abbrev CMD.SEQ : Nat := 0x0a1044
abbrev CMD.ARG (i : Nat) : Nat := 0x0a1048 + 0x4 * i
abbrev CMD.SUBMIT : Nat := 0x0a1068
abbrev CMD.NEXT_SEQ : Nat := 0x0a106c
abbrev CMD.PENDING : Nat := 0x0a1070
abbrev CMD.JSEL : Nat := 0x0a1074
abbrev CMD.JOURNAL0 : Nat := 0x0a1078
abbrev CMD.JOURNAL1 : Nat := 0x0a107c
abbrev CMD.JOURNAL2 : Nat := 0x0a1080
abbrev CMD.JOURNAL3 : Nat := 0x0a1084
abbrev VAT.WINDOW_BASE : Nat := 0x0a2040
abbrev VAT.FELT_SIZE : Nat := 0x0a2044
abbrev VAT.REAM_SIZE : Nat := 0x0a2048
abbrev VAT.TABLE_SIZE : Nat := 0x0a204c
abbrev VAT.FELT_FREE : Nat := 0x0a2050
abbrev VAT.ECC_STAT : Nat := 0x0a2054
abbrev VAT.SR_STAT : Nat := 0x0a2058
abbrev CAPT.CTRL : Nat := 0x0a8040
abbrev CAPT.CHSEL_ADDR : Nat := 0x0a8044
abbrev CAPT.CHSEL_DATA : Nat := 0x0a8048
abbrev CAPT.ARM_AT_LO : Nat := 0x0a804c
abbrev CAPT.ARM_AT_HI : Nat := 0x0a8050
abbrev CAPT.RING_WINDOW : Nat := 0x0a8054
abbrev CAPT.REAM_FREE : Nat := 0x0a8058
abbrev CAPT.SEL : Nat := 0x0a805c
abbrev CAPT.SEL_BASE : Nat := 0x0a8060
abbrev CAPT.SEL_SIZE : Nat := 0x0a8064
abbrev CAPT.RING_STAT : Nat := 0x0a8068
abbrev CAPT.TRIG_IGNORED : Nat := 0x0a806c
abbrev CAPT.ARMED : Nat := 0x0a8070
abbrev CAPT.RM_CFG (i : Nat) : Nat := 0x0a8100 + 0x40 * i
abbrev CAPT.RM_TRIG (i : Nat) : Nat := 0x0a8104 + 0x40 * i
abbrev CAPT.RM_LEVEL_A (i : Nat) : Nat := 0x0a8108 + 0x40 * i
abbrev CAPT.RM_LEVEL_B (i : Nat) : Nat := 0x0a810c + 0x40 * i
abbrev CAPT.RM_FLAG_PAT (i : Nat) : Nat := 0x0a8110 + 0x40 * i
abbrev CAPT.RM_FLAG_MASK (i : Nat) : Nat := 0x0a8114 + 0x40 * i
abbrev CAPT.RM_PRE (i : Nat) : Nat := 0x0a8118 + 0x40 * i
abbrev CAPT.RM_POST (i : Nat) : Nat := 0x0a811c + 0x40 * i
abbrev CAPT.RM_HOLDOFF (i : Nat) : Nat := 0x0a8120 + 0x40 * i
abbrev CAPT.RM_AUTO (i : Nat) : Nat := 0x0a8124 + 0x40 * i
abbrev CAPT.RM_MASK (i : Nat) : Nat := 0x0a8128 + 0x40 * i
abbrev CAPT.RM_MASK_LEN (i : Nat) : Nat := 0x0a812c + 0x40 * i
abbrev CAPT.RM_STAT (i : Nat) : Nat := 0x0a8130 + 0x40 * i
abbrev CAPT.RM_SEG_LAST (i : Nat) : Nat := 0x0a8134 + 0x40 * i
abbrev CAPT.RM_TRIG_LO (i : Nat) : Nat := 0x0a8138 + 0x40 * i
abbrev CAPT.RM_TRIG_HI (i : Nat) : Nat := 0x0a813c + 0x40 * i
abbrev AE.CTRL (p : Nat) : Nat := 0x0b0040 + 0x1000 * p
abbrev AE.STAT (p : Nat) : Nat := 0x0b0044 + 0x1000 * p
abbrev AE.BU (p : Nat) : Nat := 0x0b0048 + 0x1000 * p
abbrev AE.CASCADE (p : Nat) : Nat := 0x0b004c + 0x1000 * p
abbrev AE.VECT0 (p : Nat) : Nat := 0x0b0050 + 0x1000 * p
abbrev AE.VECT1 (p : Nat) : Nat := 0x0b0054 + 0x1000 * p
abbrev AE.VECT2 (p : Nat) : Nat := 0x0b0058 + 0x1000 * p
abbrev AE.VECT3 (p : Nat) : Nat := 0x0b005c + 0x1000 * p
abbrev AE.VECT4 (p : Nat) : Nat := 0x0b0060 + 0x1000 * p
abbrev AE.VECT5 (p : Nat) : Nat := 0x0b0064 + 0x1000 * p
abbrev AE.LIMIT (p : Nat) : Nat := 0x0b0068 + 0x1000 * p
abbrev AE.CFG (p : Nat) : Nat := 0x0b006c + 0x1000 * p
abbrev AE.CYCLES (p : Nat) : Nat := 0x0b0070 + 0x1000 * p
abbrev AE.OCCUPANCY (p : Nat) : Nat := 0x0b0074 + 0x1000 * p
abbrev AE.COUNTS (p : Nat) : Nat := 0x0b0078 + 0x1000 * p
abbrev AE.LANE_STAT (p : Nat) : Nat := 0x0b007c + 0x1000 * p
abbrev AE.ECC_STAT (p : Nat) : Nat := 0x0b0080 + 0x1000 * p
abbrev AE.FAULT_INFO (p : Nat) : Nat := 0x0b0084 + 0x1000 * p
abbrev AE.PROG_CRC (p : Nat) : Nat := 0x0b0088 + 0x1000 * p
abbrev AE.SUB_SEL (p : Nat) : Nat := 0x0b008c + 0x1000 * p
abbrev AE.SUB_DATA (p : Nat) : Nat := 0x0b0090 + 0x1000 * p
abbrev AE.STAGE_LIST (p : Nat) : Nat := 0x0b0094 + 0x1000 * p
abbrev MOT.CTRL : Nat := 0x0bc040
abbrev MOT.EN_LO : Nat := 0x0bc044
abbrev MOT.EN_HI : Nat := 0x0bc048
abbrev MOT.FAULT_LO : Nat := 0x0bc04c
abbrev MOT.FAULT_HI : Nat := 0x0bc050
abbrev MOT.GEN_STAT : Nat := 0x0bc054
abbrev MOT.FAULT_SEL : Nat := 0x0bc058
abbrev MOT.FAULT_IDX_LO : Nat := 0x0bc05c
abbrev MOT.FAULT_IDX_HI : Nat := 0x0bc060
abbrev MOT.AX_CFG (i : Nat) : Nat := 0x0bc100 + 0x20 * i
abbrev MOT.AX_BAND (i : Nat) : Nat := 0x0bc104 + 0x20 * i
abbrev MOT.AX_GC (i : Nat) : Nat := 0x0bc108 + 0x20 * i
abbrev MOT.AX_MIN (i : Nat) : Nat := 0x0bc10c + 0x20 * i
abbrev MOT.AX_EDGE (i : Nat) : Nat := 0x0bc110 + 0x20 * i
abbrev MOT.AX_RC (i : Nat) : Nat := 0x0bc114 + 0x20 * i
abbrev MOT.AX_RC_PERIOD (i : Nat) : Nat := 0x0bc118 + 0x20 * i
abbrev MOT.AX_STAT (i : Nat) : Nat := 0x0bc11c + 0x20 * i
abbrev EDGE.CTRL (p : Nat) : Nat := 0x0c0040 + 0x1000 * p
abbrev EDGE.CH_CFG (p i : Nat) : Nat := 0x0c0100 + 0x1000 * p + 0x40 * i
abbrev EDGE.CH_REC (p i : Nat) : Nat := 0x0c0104 + 0x1000 * p + 0x40 * i
abbrev EDGE.CH_TMO (p i : Nat) : Nat := 0x0c0108 + 0x1000 * p + 0x40 * i
abbrev EDGE.CH_VEL (p i : Nat) : Nat := 0x0c010c + 0x1000 * p + 0x40 * i
abbrev EDGE.CH_SSI (p i : Nat) : Nat := 0x0c0110 + 0x1000 * p + 0x40 * i
abbrev EDGE.CH_SSI_T (p i : Nat) : Nat := 0x0c0114 + 0x1000 * p + 0x40 * i
abbrev EDGE.CH_PRESET (p i : Nat) : Nat := 0x0c0118 + 0x1000 * p + 0x40 * i
abbrev EDGE.CH_COUNT (p i : Nat) : Nat := 0x0c011c + 0x1000 * p + 0x40 * i
abbrev EDGE.CH_LAST_IDX (p i : Nat) : Nat := 0x0c0120 + 0x1000 * p + 0x40 * i
abbrev EDGE.CH_LAST_FINE (p i : Nat) : Nat := 0x0c0124 + 0x1000 * p + 0x40 * i
abbrev EDGE.CH_ZCAP_CNT (p i : Nat) : Nat := 0x0c0128 + 0x1000 * p + 0x40 * i
abbrev EDGE.CH_ZCAP_IDX (p i : Nat) : Nat := 0x0c012c + 0x1000 * p + 0x40 * i
abbrev EDGE.CH_IV_LO (p i : Nat) : Nat := 0x0c0130 + 0x1000 * p + 0x40 * i
abbrev EDGE.CH_IV_HI (p i : Nat) : Nat := 0x0c0134 + 0x1000 * p + 0x40 * i
abbrev EDGE.CH_VELOCITY (p i : Nat) : Nat := 0x0c0138 + 0x1000 * p + 0x40 * i
abbrev EDGE.CH_STAT (p i : Nat) : Nat := 0x0c013c + 0x1000 * p + 0x40 * i
abbrev SPRT.CTRL (p : Nat) : Nat := 0x0c8040 + 0x1000 * p
abbrev SPRT.STAT (p : Nat) : Nat := 0x0c8044 + 0x1000 * p
abbrev SPRT.DELAY (p : Nat) : Nat := 0x0c8048 + 0x1000 * p
abbrev SPRT.ASYM (p : Nat) : Nat := 0x0c804c + 0x1000 * p
abbrev SPRT.ADV (p : Nat) : Nat := 0x0c8050 + 0x1000 * p
abbrev SPRT.LATENCY (p : Nat) : Nat := 0x0c8054 + 0x1000 * p
abbrev SPRT.IDENT0 (p : Nat) : Nat := 0x0c8058 + 0x1000 * p
abbrev SPRT.IDENT1 (p : Nat) : Nat := 0x0c805c + 0x1000 * p
abbrev SPRT.IDENT2 (p : Nat) : Nat := 0x0c8060 + 0x1000 * p
abbrev SPRT.IDENT3 (p : Nat) : Nat := 0x0c8064 + 0x1000 * p
abbrev SPRT.CRC_ERR (p : Nat) : Nat := 0x0c8068 + 0x1000 * p
abbrev SPRT.SEQ_ERR (p : Nat) : Nat := 0x0c806c + 0x1000 * p
abbrev SPRT.CMD_OP (p : Nat) : Nat := 0x0c8070 + 0x1000 * p
abbrev SPRT.CMD_ARG (p i : Nat) : Nat := 0x0c8074 + 0x1000 * p + 0x4 * i
abbrev SPRT.RESP_STAT (p : Nat) : Nat := 0x0c8094 + 0x1000 * p
abbrev SPRT.RESP (p i : Nat) : Nat := 0x0c8098 + 0x1000 * p + 0x4 * i
abbrev SPRT.CH_CFG (p i : Nat) : Nat := 0x0c8100 + 0x1000 * p + 0x8 * i
abbrev SPRT.CH_OPT (p i : Nat) : Nat := 0x0c8104 + 0x1000 * p + 0x8 * i
abbrev LITE.CTRL : Nat := 0x0d0040
abbrev LITE.LVL_ADDR : Nat := 0x0d0044
abbrev LITE.LVL_DATA : Nat := 0x0d0048
abbrev LITE.LATCH_AT_LO : Nat := 0x0d004c
abbrev LITE.LATCH_AT_HI : Nat := 0x0d0050
abbrev LITE.STAT : Nat := 0x0d0054
abbrev LITE.ST_CTRL : Nat := 0x0d0058
abbrev LITE.LD_CFG (i : Nat) : Nat := 0x0d0100 + 0x20 * i
abbrev LITE.LD_CURVE (i : Nat) : Nat := 0x0d0104 + 0x20 * i
abbrev LITE.LD_TSRC (i : Nat) : Nat := 0x0d0108 + 0x20 * i
abbrev LITE.LD_TREF (i : Nat) : Nat := 0x0d010c + 0x20 * i
abbrev LITE.LD_TCOEF01 (i : Nat) : Nat := 0x0d0110 + 0x20 * i
abbrev LITE.LD_TCOEF2 (i : Nat) : Nat := 0x0d0114 + 0x20 * i
abbrev LITE.LD_THOST (i : Nat) : Nat := 0x0d0118 + 0x20 * i
abbrev LITE.LD_STAT (i : Nat) : Nat := 0x0d011c + 0x20 * i
abbrev LITE.ST_CFG (i : Nat) : Nat := 0x0d0300 + 0x20 * i
abbrev LITE.ST_AT_LO (i : Nat) : Nat := 0x0d0304 + 0x20 * i
abbrev LITE.ST_AT_HI (i : Nat) : Nat := 0x0d0308 + 0x20 * i
abbrev LITE.ST_OFS (i : Nat) : Nat := 0x0d030c + 0x20 * i
abbrev LITE.ST_WIDTH (i : Nat) : Nat := 0x0d0310 + 0x20 * i
abbrev LITE.ST_PERIOD (i : Nat) : Nat := 0x0d0314 + 0x20 * i
abbrev LITE.ST_DELAY (i : Nat) : Nat := 0x0d0318 + 0x20 * i
abbrev LITE.ST_STAT (i : Nat) : Nat := 0x0d031c + 0x20 * i
abbrev ZIP.CTRL : Nat := 0x0d8040
abbrev ZIP.STAT : Nat := 0x0d8044
abbrev ZIP.JOB_SEQ : Nat := 0x0d8048
abbrev ZIP.IN_USED : Nat := 0x0d804c
abbrev ZIP.OUT_LEN : Nat := 0x0d8050
abbrev ZIP.CHECK : Nat := 0x0d8054
abbrev ZIP.BOUND : Nat := 0x0d8058
abbrev ZIP.JOBS : Nat := 0x0d805c
abbrev CAL.CTRL : Nat := 0x0e0040
abbrev CAL.CFG : Nat := 0x0e0044
abbrev CAL.DT : Nat := 0x0e0048
abbrev CAL.PERIOD : Nat := 0x0e004c
abbrev CAL.STAT : Nat := 0x0e0050
abbrev CAL.QUAD_PASS : Nat := 0x0e0054
abbrev CAL.T_CAL : Nat := 0x0e0058
abbrev CAL.LAST_LO : Nat := 0x0e005c
abbrev CAL.LAST_HI : Nat := 0x0e0060
abbrev CAL.RUNS : Nat := 0x0e0064
abbrev NVM.STAT : Nat := 0x0e1040
abbrev NVM.REAM_SLOT : Nat := 0x0e1044
abbrev NVM.REAM_GEN : Nat := 0x0e1048
abbrev NVM.CAL_SLOT : Nat := 0x0e104c
abbrev NVM.CAL_GEN : Nat := 0x0e1050
abbrev NVM.REAM_LEN : Nat := 0x0e1054
abbrev NVM.REAM_SKIPPED : Nat := 0x0e1058
abbrev NVM.STORE_COUNT : Nat := 0x0e105c
abbrev NVM.ECC_STAT : Nat := 0x0e1060
abbrev FUSE.FIELD_STAT : Nat := 0x0e2040
abbrev FUSE.HUB_ID : Nat := 0x0e2044
abbrev FUSE.TWIN_CHECK : Nat := 0x0e2048
abbrev FUSE.SVC_CHECK : Nat := 0x0e204c
abbrev FUSE.SAFE_LOCK : Nat := 0x0e2050
abbrev FUSE.PART : Nat := 0x0e2054
abbrev FUSE.CHAL (i : Nat) : Nat := 0x0e2058 + 0x4 * i
abbrev FUSE.RESP (i : Nat) : Nat := 0x0e2068 + 0x4 * i
abbrev FUSE.AUTH : Nat := 0x0e2088
abbrev FUSE.AUTH_STAT : Nat := 0x0e208c
abbrev FUSE.SVC_TIMEOUT : Nat := 0x0e2090
abbrev JRNL.SEL : Nat := 0x0e3040
abbrev JRNL.OLDEST : Nat := 0x0e3044
abbrev JRNL.NEWEST : Nat := 0x0e3048
abbrev JRNL.COUNT : Nat := 0x0e304c
abbrev JRNL.ENTRY (i : Nat) : Nat := 0x0e3050 + 0x4 * i
abbrev SAFE.CTRL : Nat := 0x0f0040
abbrev SAFE.TP_CFG : Nat := 0x0f0044
abbrev SAFE.STAT : Nat := 0x0f0048
abbrev SAFE.CFG_CRC : Nat := 0x0f004c
abbrev SAFE.IN_STAT : Nat := 0x0f0050
abbrev SAFE.OUT_STAT : Nat := 0x0f0054
abbrev SAFE.FAULT : Nat := 0x0f0058
abbrev SAFE.SF_FS : Nat := 0x0f005c
abbrev SAFE.PAIR_CFG (i : Nat) : Nat := 0x0f0060 + 0x4 * i
abbrev SAFE.SO_CFG (i : Nat) : Nat := 0x0f0080 + 0x10 * i
abbrev SAFE.SO_SS1 (i : Nat) : Nat := 0x0f0084 + 0x10 * i
abbrev SAFE.SO_RAMP (i : Nat) : Nat := 0x0f0088 + 0x10 * i
abbrev SAFE.SO_VSTOP (i : Nat) : Nat := 0x0f008c + 0x10 * i
abbrev SAFE.MON_CFG (i : Nat) : Nat := 0x0f00c0 + 0x10 * i
abbrev SAFE.MON_VLIM (i : Nat) : Nat := 0x0f00c4 + 0x10 * i
abbrev SAFE.MON_WIN (i : Nat) : Nat := 0x0f00c8 + 0x10 * i
abbrev SAFE.MON_RATIO (i : Nat) : Nat := 0x0f00cc + 0x10 * i
abbrev SAFE.SF_CFG (i : Nat) : Nat := 0x0f0200 + 0x20 * i
abbrev SAFE.SF_IDS (i : Nat) : Nat := 0x0f0204 + 0x20 * i
abbrev SAFE.SF_CONN (i : Nat) : Nat := 0x0f0208 + 0x20 * i
abbrev SAFE.SF_TIME (i : Nat) : Nat := 0x0f020c + 0x20 * i
abbrev SAFE.SF_AGE (i : Nat) : Nat := 0x0f0210 + 0x20 * i
abbrev SAFE.SF_MAP (i : Nat) : Nat := 0x0f0214 + 0x20 * i
abbrev SAFE.SF_STAT (i : Nat) : Nat := 0x0f0218 + 0x20 * i
abbrev SAFE.SF_ERR (i : Nat) : Nat := 0x0f021c + 0x20 * i
abbrev TWIN.CTRL : Nat := 0x0f8040
abbrev TWIN.CFG : Nat := 0x0f8044
abbrev TWIN.STAT : Nat := 0x0f8048
abbrev TWIN.HB_PERIOD : Nat := 0x0f804c
abbrev TWIN.MIRROR_PERIOD : Nat := 0x0f8050
abbrev TWIN.ARB_MAC_LO : Nat := 0x0f8054
abbrev TWIN.ARB_MAC_HI : Nat := 0x0f8058
abbrev TWIN.OFFSET : Nat := 0x0f805c
abbrev TWIN.L2_LOAD : Nat := 0x0f8060
abbrev TWIN.HANDOVER_LO : Nat := 0x0f8064
abbrev TWIN.HANDOVER_HI : Nat := 0x0f8068
abbrev TWIN.COUNTS : Nat := 0x0f806c
abbrev TWIN.HB_MISS : Nat := 0x0f8070
abbrev TWIN.HB_WORD : Nat := 0x0f8074
abbrev TWIN.SNAP_STAT : Nat := 0x0f8078
abbrev TWIN.MIRROR_CFG (i : Nat) : Nat := 0x0f8080 + 0x4 * i

/-- The registers of the SYS page (04_register_model_host.md R187, 08_records_queues.md R361, 21_bringup_limits.md R856). -/
def rowsSYS : List RegRow := [
  ⟨0x040, 0x4, 1, .ro, 0x5384000b, 0xffffffff, 0, []⟩,
  ⟨0x044, 0x4, 1, .ro, 0x0, 0xffffffff, 0, []⟩,
  ⟨0x048, 0x4, 1, .ro, 0x0, 0xffffffff, 0, []⟩,
  ⟨0x04c, 0x4, 1, .ro, 0x0, 0xffffffff, 0, []⟩,
  ⟨0x050, 0x4, 8, .ro, 0x0, 0xffffffff, 0, []⟩,
  ⟨0x070, 0x4, 1, .ro, 0x0, 0xffffffff, 0, []⟩,
  ⟨0x074, 0x4, 1, .w1c, 0x0, 0x3, 0, []⟩,
  ⟨0x078, 0x4, 1, .rw, 0x0, 0x1ff, 0, []⟩,
  ⟨0x07c, 0x4, 1, .ro, 0x0, 0xffffffff, 0, []⟩,
  ⟨0x080, 0x4, 1, .ro, 0x0, 0xffffffff, 0, []⟩,
  ⟨0x084, 0x4, 1, .ro, 0x0, 0xffffffff, 0, []⟩,
  ⟨0x088, 0x4, 8, .ro, 0x0, 0xffffffff, 0, []⟩]

/-- The registers of the HOST page (04_register_model_host.md R186). -/
def rowsHOST : List RegRow := [
  ⟨0x040, 0x4, 1, .rw, 0x1400, 0x11f01, 0, [⟨8, 5, .reject, 8, 31, false⟩]⟩,
  ⟨0x044, 0x4, 1, .ro, 0x0, 0xffffffff, 0, []⟩,
  ⟨0x048, 0x4, 1, .ro, 0x0, 0xffffffff, 0, []⟩,
  ⟨0x04c, 0x4, 1, .ro, 0x0, 0xffffffff, 0, []⟩,
  ⟨0x050, 0x4, 1, .ro, 0x0, 0xffffffff, 0, []⟩,
  ⟨0x054, 0x4, 1, .rw, 0xa, 0xffffffff, 0, [⟨0, 32, .reject, 1, 600, false⟩]⟩,
  ⟨0x058, 0x4, 1, .rwl, 0x1, 0x1, 1, []⟩]

/-- The registers of the PWR page (03_power_clocks_reset.md R131). -/
def rowsPWR : List RegRow := [
  ⟨0x040, 0x4, 1, .rwl, 0x0, 0x7, 1, [⟨0, 3, .ranged, 0, 3, false⟩]⟩,
  ⟨0x044, 0x4, 1, .ro, 0x0, 0xffffffff, 0, []⟩,
  ⟨0x048, 0x4, 1, .ro, 0x0, 0xffffffff, 0, []⟩,
  ⟨0x04c, 0x4, 1, .wo, 0x0, 0xffffffff, 1, []⟩,
  ⟨0x050, 0x4, 1, .ro, 0x0, 0xffffffff, 0, []⟩,
  ⟨0x054, 0x4, 1, .ro, 0x0, 0xffffffff, 0, []⟩,
  ⟨0x058, 0x4, 1, .ro, 0x0, 0xffffffff, 0, []⟩,
  ⟨0x05c, 0x4, 1, .ro, 0x0, 0xffffffff, 0, []⟩,
  ⟨0x060, 0x4, 1, .ro, 0x0, 0xffffffff, 0, []⟩,
  ⟨0x064, 0x4, 1, .ro, 0x0, 0xffffffff, 0, []⟩,
  ⟨0x068, 0x4, 1, .w1c, 0x0, 0x3f, 0, []⟩,
  ⟨0x06c, 0x4, 1, .rwl, 0x1, 0x7, 1, []⟩,
  ⟨0x070, 0x4, 1, .rwl, 0x0, 0xffffffff, 0, []⟩,
  ⟨0x074, 0x4, 1, .ro, 0x0, 0xffffffff, 0, []⟩,
  ⟨0x078, 0x4, 1, .rw, 0xbb8, 0xffffffff, 0, [⟨0, 32, .reject, 1, 60000, false⟩]⟩]

/-- The registers of the CLK page (03_power_clocks_reset.md R133). -/
def rowsCLK : List RegRow := [
  ⟨0x040, 0x4, 1, .ro, 0x0, 0xffffffff, 0, []⟩,
  ⟨0x044, 0x4, 1, .ro, 0x0, 0xffffffff, 0, []⟩,
  ⟨0x048, 0x4, 1, .ro, 0x0, 0xffffffff, 0, []⟩,
  ⟨0x04c, 0x4, 1, .ro, 0x0, 0xffffffff, 0, []⟩,
  ⟨0x050, 0x4, 1, .rwl, 0x10, 0x1f, 1, []⟩]

/-- The registers of the FQ page (05_front_end.md R239). -/
def rowsFQ : List RegRow := [
  ⟨0x040, 0x4, 4, .rws, 0x0, 0xff77ff, 0, [⟨0, 4, .ranged, 0, 8, false⟩, ⟨5, 3, .ranged, 0, 5, false⟩, ⟨8, 3, .ranged, 0, 5, false⟩, ⟨12, 3, .ranged, 0, 5, false⟩]⟩,
  ⟨0x050, 0x4, 1, .rws, 0x1000000, 0xffff0007, 0, [⟨0, 3, .ranged, 0, 6, false⟩, ⟨16, 16, .reject, 16, 65535, false⟩]⟩,
  ⟨0x054, 0x4, 1, .rws, 0x3e8, 0x1ffff, 0, [⟨0, 17, .allow, 100, 100000, false⟩]⟩,
  ⟨0x058, 0x4, 4, .ro, 0x0, 0xffffffff, 0, []⟩,
  ⟨0x068, 0x4, 1, .w1c, 0x0, 0xffffffff, 0, []⟩,
  ⟨0x06c, 0x4, 1, .ro, 0x0, 0xffffffff, 0, []⟩,
  ⟨0x070, 0x4, 1, .rws, 0xfa00000, 0x1fff0003, 0, [⟨16, 13, .ranged, 500, 4500, false⟩]⟩,
  ⟨0x074, 0x4, 1, .rws, 0x14, 0x3ff, 0, [⟨0, 10, .reject, 1, 1000, false⟩]⟩,
  ⟨0x078, 0x4, 1, .ro, 0x0, 0xffffffff, 0, []⟩]

/-- The registers of the CC page (06_converters.md R276). -/
def rowsCC : List RegRow := [
  ⟨0x040, 0x4, 1, .rws, 0x0, 0x3, 0, []⟩,
  ⟨0x044, 0x4, 1, .rw, 0x3e8, 0xfffff, 0, [⟨0, 20, .reject, 1000, 1000000, false⟩]⟩,
  ⟨0x048, 0x4, 1, .ro, 0x1ff8, 0xffffffff, 0, []⟩,
  ⟨0x04c, 0x4, 1, .ro, 0x0, 0xffffffff, 0, []⟩,
  ⟨0x050, 0x4, 1, .ro, 0x0, 0xffffffff, 0, []⟩,
  ⟨0x054, 0x4, 1, .w1c, 0x0, 0xffffffff, 0, []⟩,
  ⟨0x060, 0x10, 4, .rw, 0x0, 0x1, 0, []⟩,
  ⟨0x064, 0x10, 4, .rw, 0x0, 0xfff0fff, 0, []⟩,
  ⟨0x068, 0x10, 4, .ro, 0x0, 0xffffffff, 0, []⟩,
  ⟨0x06c, 0x10, 4, .ro, 0x0, 0xffffffff, 0, []⟩]

/-- The registers of the HKC page (06_converters.md R278). -/
def rowsHKC : List RegRow := [
  ⟨0x040, 0x4, 1, .rw, 0x0, 0x1071f, 0, [⟨0, 5, .ranged, 0, 27, false⟩]⟩,
  ⟨0x044, 0x4, 1, .wo, 0x0, 0xffffffff, 0, [⟨0, 32, .ranged, 1, 1, false⟩]⟩,
  ⟨0x048, 0x4, 1, .ro, 0x0, 0xffffffff, 0, []⟩,
  ⟨0x04c, 0x4, 1, .ro, 0x0, 0xffffffff, 0, []⟩,
  ⟨0x050, 0x4, 4, .ro, 0x0, 0xffffffff, 0, []⟩,
  ⟨0x060, 0x4, 1, .ro, 0x0, 0xffffffff, 0, []⟩]

/-- The registers of the AOUT page (05_front_end.md R241). -/
def rowsAOUT : List RegRow := [
  ⟨0x040, 0x10, 8, .rws, 0x0, 0x1ff000f, 0, [⟨2, 2, .ranged, 0, 2, false⟩]⟩,
  ⟨0x044, 0x10, 8, .rws, 0x0, 0xffffff, 0, []⟩,
  ⟨0x048, 0x10, 8, .rws, 0x7fffff, 0xffffff, 0, []⟩,
  ⟨0x04c, 0x10, 8, .rw, 0x0, 0xffff, 0, []⟩,
  ⟨0x0c0, 0x4, 1, .ro, 0x0, 0xffffffff, 0, []⟩]

/-- The registers of the FLT page (07_filter_chain.md R332). -/
def rowsFLT : List RegRow := [
  ⟨0x040, 0x4, 1, .rw, 0x0, 0x7fff, 0, []⟩,
  ⟨0x044, 0x4, 1, .rw, 0x0, 0xffffff, 0, []⟩,
  ⟨0x048, 0x4, 1, .rw, 0x0, 0x71f, 0, [⟨0, 5, .ranged, 0, 23, false⟩]⟩,
  ⟨0x04c, 0x4, 1, .rws, 0x0, 0xffffffff, 0, []⟩,
  ⟨0x050, 0x4, 1, .rw, 0x0, 0x3, 0, []⟩,
  ⟨0x054, 0x4, 1, .rw, 0x0, 0xffffffff, 0, []⟩,
  ⟨0x058, 0x4, 1, .rw, 0x0, 0xffffffff, 0, []⟩,
  ⟨0x05c, 0x4, 1, .wo, 0x0, 0xffffffff, 0, [⟨0, 32, .ranged, 1, 2, false⟩]⟩,
  ⟨0x060, 0x4, 1, .ro, 0x0, 0xffffffff, 0, []⟩,
  ⟨0x064, 0x4, 1, .ro, 0x0, 0xffffffff, 0, []⟩,
  ⟨0x068, 0x4, 1, .ro, 0x0, 0xffffffff, 0, []⟩,
  ⟨0x06c, 0x4, 1, .ro, 0x0, 0xffffffff, 0, []⟩,
  ⟨0x100, 0x40, 8, .rws, 0x0, 0x37f, 0, [⟨2, 3, .ranged, 0, 5, false⟩, ⟨8, 2, .ranged, 0, 2, false⟩]⟩,
  ⟨0x104, 0x40, 8, .rws, 0x1, 0x7ff, 0, [⟨0, 11, .reject, 1, 1024, false⟩]⟩,
  ⟨0x108, 0x40, 8, .rws, 0x100, 0x7f7f3fff, 0, [⟨8, 5, .reject, 1, 16, false⟩]⟩,
  ⟨0x10c, 0x40, 8, .rws, 0x0, 0xffff, 0, []⟩,
  ⟨0x110, 0x40, 8, .rws, 0x0, 0xffffffff, 0, []⟩,
  ⟨0x114, 0x40, 8, .rws, 0x1, 0xffffffff, 0, [⟨0, 32, .ranged, 0, 1, false⟩]⟩,
  ⟨0x118, 0x40, 8, .rws, 0xa0000, 0x3ff03ff, 0, [⟨16, 10, .reject, 1, 1000, false⟩]⟩,
  ⟨0x11c, 0x40, 8, .rws, 0x0, 0x1ffff, 0, [⟨0, 17, .allow, 1, 65536, false⟩]⟩,
  ⟨0x120, 0x40, 8, .ro, 0x0, 0xffffffff, 0, []⟩,
  ⟨0x124, 0x40, 8, .ro, 0x0, 0xffffffff, 0, []⟩,
  ⟨0x128, 0x40, 8, .ro, 0x0, 0xffffffff, 0, []⟩,
  ⟨0x12c, 0x40, 8, .ro, 0x80000000, 0xffffffff, 0, []⟩,
  ⟨0x130, 0x40, 8, .ro, 0x80000000, 0xffffffff, 0, []⟩,
  ⟨0x134, 0x40, 8, .ro, 0x80000000, 0xffffffff, 0, []⟩,
  ⟨0x138, 0x40, 8, .ro, 0x80000000, 0xffffffff, 0, []⟩,
  ⟨0x13c, 0x40, 8, .ro, 0x0, 0xffffffff, 0, []⟩]

/-- The registers of the TIME page (09_hub_time.md R412). -/
def rowsTIME : List RegRow := [
  ⟨0x040, 0x4, 1, .rw, 0x0, 0x7, 0, []⟩,
  ⟨0x044, 0x4, 1, .ro, 0x0, 0xffffffff, 0, []⟩,
  ⟨0x048, 0x4, 1, .ro, 0x0, 0xffffffff, 0, []⟩,
  ⟨0x04c, 0x4, 1, .ro, 0x0, 0xffffffff, 0, []⟩,
  ⟨0x050, 0x4, 1, .ro, 0x0, 0xffffffff, 0, []⟩,
  ⟨0x054, 0x4, 1, .ro, 0x0, 0xffffffff, 0, []⟩,
  ⟨0x058, 0x4, 1, .ro, 0x0, 0xffffffff, 0, []⟩,
  ⟨0x05c, 0x4, 1, .ro, 0x0, 0xffffffff, 0, []⟩,
  ⟨0x060, 0x4, 1, .rws, 0x0, 0xffffffff, 0, []⟩,
  ⟨0x064, 0x4, 1, .rws, 0x0, 0xffffffff, 0, []⟩,
  ⟨0x068, 0x4, 1, .ro, 0x0, 0xffffffff, 0, []⟩,
  ⟨0x06c, 0x4, 1, .ro, 0x0, 0xffffffff, 0, []⟩,
  ⟨0x070, 0x4, 1, .ro, 0x0, 0xffffffff, 0, []⟩,
  ⟨0x074, 0x4, 1, .ro, 0x0, 0xffffffff, 0, []⟩,
  ⟨0x078, 0x4, 1, .rw, 0x3e8, 0xffffffff, 0, [⟨0, 32, .reject, 100, 1000000000, false⟩]⟩,
  ⟨0x07c, 0x4, 1, .rw, 0xa, 0xffffffff, 0, [⟨0, 32, .reject, 1, 1000, false⟩]⟩,
  ⟨0x080, 0x4, 1, .rw, 0x64, 0xffffffff, 0, [⟨0, 32, .reject, 1, 100000, false⟩]⟩,
  ⟨0x084, 0x4, 1, .rw, 0x64, 0xffffffff, 0, [⟨0, 32, .reject, 1, 200, false⟩]⟩,
  ⟨0x088, 0x4, 1, .rw, 0x3c, 0xffffffff, 0, [⟨0, 32, .reject, 1, 86400, false⟩]⟩,
  ⟨0x08c, 0x4, 1, .ro, 0x0, 0xffffffff, 0, []⟩,
  ⟨0x090, 0x4, 1, .ro, 0x0, 0xffffffff, 0, []⟩,
  ⟨0x094, 0x4, 1, .ro, 0x0, 0xffffffff, 0, []⟩,
  ⟨0x098, 0x4, 1, .ro, 0x0, 0xffffffff, 0, []⟩,
  ⟨0x0a0, 0x10, 4, .ro, 0x0, 0xffffffff, 0, []⟩,
  ⟨0x0a4, 0x10, 4, .ro, 0x0, 0xffffffff, 0, []⟩,
  ⟨0x0a8, 0x10, 4, .rw, 0x0, 0xffffffff, 0, []⟩,
  ⟨0x0ac, 0x10, 4, .ro, 0x0, 0xffffffff, 0, []⟩]

/-- The registers of the PTP page (09_hub_time.md R414). -/
def rowsPTP : List RegRow := [
  ⟨0x040, 0x4, 1, .rw, 0x0, 0x1ff, 0, [⟨0, 8, .ranged, 0, 127, false⟩]⟩,
  ⟨0x044, 0x4, 1, .rw, 0xfc, 0xffffffff, 0, [⟨0, 8, .ranged, -7, 0, true⟩, ⟨8, 8, .ranged, -3, 4, true⟩, ⟨16, 8, .ranged, -4, 5, true⟩, ⟨24, 8, .ranged, -4, 5, true⟩]⟩,
  ⟨0x048, 0x4, 1, .rw, 0x3f88080, 0xfffffff, 0, [⟨24, 4, .reject, 2, 10, false⟩]⟩,
  ⟨0x04c, 0x4, 1, .rw, 0x3e8, 0xffff, 0, [⟨0, 16, .reject, 1, 65535, false⟩]⟩,
  ⟨0x050, 0x4, 1, .rw, 0x10, 0xffff, 0, [⟨0, 16, .reject, 1, 65535, false⟩]⟩,
  ⟨0x054, 0x4, 1, .ro, 0x0, 0xffffffff, 0, []⟩,
  ⟨0x058, 0x4, 1, .ro, 0x0, 0xffffffff, 0, []⟩,
  ⟨0x05c, 0x4, 1, .ro, 0x0, 0xffffffff, 0, []⟩,
  ⟨0x060, 0x4, 1, .ro, 0x0, 0xffffffff, 0, []⟩,
  ⟨0x064, 0x4, 1, .ro, 0x0, 0xffffffff, 0, []⟩,
  ⟨0x068, 0x4, 1, .ro, 0x0, 0xffffffff, 0, []⟩,
  ⟨0x06c, 0x4, 1, .ro, 0x0, 0xffffffff, 0, []⟩,
  ⟨0x070, 0x4, 1, .ro, 0x0, 0xffffffff, 0, []⟩,
  ⟨0x074, 0x4, 1, .ro, 0x0, 0xffffffff, 0, []⟩]

/-- The registers of the LANE page (10_lanes_ring.md R469). -/
def rowsLANE : List RegRow := [
  ⟨0x040, 0x4, 1, .rw, 0x2, 0x377, 0, [⟨0, 2, .ranged, 0, 2, false⟩]⟩,
  ⟨0x044, 0x4, 1, .ro, 0x0, 0xffffffff, 0, []⟩,
  ⟨0x048, 0x4, 1, .rw, 0x0, 0x37, 0, [⟨0, 3, .ranged, 0, 5, false⟩]⟩,
  ⟨0x04c, 0x4, 1, .ro, 0x0, 0xffffffff, 0, []⟩,
  ⟨0x050, 0x4, 1, .ro, 0x0, 0xffffffff, 0, []⟩,
  ⟨0x054, 0x4, 1, .ro, 0x0, 0xffffffff, 0, []⟩,
  ⟨0x058, 0x4, 1, .ro, 0x0, 0xffffffff, 0, []⟩,
  ⟨0x05c, 0x4, 1, .ro, 0x0, 0xffffffff, 0, []⟩,
  ⟨0x060, 0x4, 1, .ro, 0x0, 0xffffffff, 0, []⟩,
  ⟨0x064, 0x4, 1, .ro, 0x0, 0xffffffff, 0, []⟩,
  ⟨0x068, 0x4, 1, .ro, 0x0, 0xffffffff, 0, []⟩,
  ⟨0x06c, 0x4, 1, .ro, 0x0, 0xffffffff, 0, []⟩]

/-- The registers of the RING page (10_lanes_ring.md R471). -/
def rowsRING : List RegRow := [
  ⟨0x040, 0x4, 1, .rwl, 0x1, 0x3, 1, []⟩,
  ⟨0x044, 0x4, 1, .ro, 0x0, 0xffffffff, 0, []⟩,
  ⟨0x048, 0x4, 1, .ro, 0x0, 0xffffffff, 0, []⟩,
  ⟨0x04c, 0x4, 1, .ro, 0x0, 0xffffffff, 0, []⟩,
  ⟨0x050, 0x4, 1, .ro, 0x0, 0xffffffff, 0, []⟩,
  ⟨0x054, 0x4, 1, .ro, 0x0, 0xffffffff, 0, []⟩,
  ⟨0x058, 0x4, 1, .rw, 0x258, 0x7ff, 0, [⟨0, 11, .reject, 128, 1536, false⟩]⟩,
  ⟨0x05c, 0x4, 1, .rw, 0x5, 0x1f, 0, [⟨0, 5, .reject, 1, 20, false⟩]⟩,
  ⟨0x060, 0x4, 1, .rw, 0xfa, 0x7ff, 0, [⟨0, 11, .reject, 10, 1000, false⟩]⟩,
  ⟨0x064, 0x4, 1, .rw, 0xffffffff, 0xffffffff, 0, []⟩,
  ⟨0x068, 0x4, 1, .rw, 0xffff, 0xffff, 0, []⟩,
  ⟨0x06c, 0x4, 1, .ro, 0x0, 0xffffffff, 0, []⟩,
  ⟨0x070, 0x4, 1, .ro, 0x0, 0xffffffff, 0, []⟩,
  ⟨0x074, 0x4, 1, .ro, 0x0, 0xffffffff, 0, []⟩,
  ⟨0x078, 0x4, 1, .ro, 0x0, 0xffffffff, 0, []⟩,
  ⟨0x07c, 0x4, 1, .ro, 0x0, 0xffffffff, 0, []⟩,
  ⟨0x080, 0x4, 1, .ro, 0x0, 0xffffffff, 0, []⟩,
  ⟨0x084, 0x4, 1, .ro, 0x0, 0xffffffff, 0, []⟩,
  ⟨0x088, 0x4, 1, .ro, 0x0, 0xffffffff, 0, []⟩,
  ⟨0x08c, 0x4, 1, .ro, 0x0, 0xffffffff, 0, []⟩,
  ⟨0x090, 0x4, 1, .rw, 0x0, 0x3f, 0, []⟩,
  ⟨0x094, 0x4, 1, .rwl, 0x0, 0xffffffff, 1, []⟩,
  ⟨0x098, 0x4, 1, .rwl, 0x0, 0xffffffff, 1, []⟩]

/-- The registers of the STRM page (11_accepted_work.md R505). -/
def rowsSTRM : List RegRow := [
  ⟨0x040, 0x4, 1, .wo, 0x0, 0xffffffff, 0, []⟩,
  ⟨0x044, 0x4, 1, .rw, 0x0, 0xf3f, 0, [⟨8, 4, .ranged, 0, 11, false⟩]⟩,
  ⟨0x048, 0x4, 1, .rw, 0x0, 0xffffffff, 0, []⟩,
  ⟨0x04c, 0x4, 1, .ro, 0x0, 0xffffffff, 0, []⟩,
  ⟨0x050, 0x4, 1, .rw, 0x32, 0x3ff, 0, [⟨0, 10, .reject, 1, 1000, false⟩]⟩,
  ⟨0x054, 0x4, 1, .ro, 0x0, 0xffffffff, 0, []⟩,
  ⟨0x058, 0x4, 1, .ro, 0x0, 0xffffffff, 0, []⟩,
  ⟨0x05c, 0x4, 1, .w1c, 0x0, 0xffffffff, 0, []⟩,
  ⟨0x060, 0x4, 1, .w1c, 0x0, 0xffffffff, 0, []⟩,
  ⟨0x100, 0x30, 64, .rw, 0x40, 0xffff037f, 0, [⟨0, 7, .reject, 1, 64, false⟩, ⟨8, 2, .ranged, 0, 2, false⟩]⟩,
  ⟨0x104, 0x30, 64, .rw, 0x0, 0xffffffff, 0, []⟩,
  ⟨0x108, 0x30, 64, .rw, 0x0, 0xffffffff, 0, []⟩,
  ⟨0x10c, 0x30, 64, .rw, 0x7d0, 0xffff, 0, [⟨0, 16, .reject, 100, 60000, false⟩]⟩,
  ⟨0x110, 0x30, 64, .rw, 0x0, 0xffffffff, 0, []⟩,
  ⟨0x114, 0x30, 64, .rw, 0x0, 0xffffffff, 0, []⟩,
  ⟨0x118, 0x30, 64, .ro, 0x0, 0xffffffff, 0, []⟩,
  ⟨0x11c, 0x30, 64, .ro, 0x0, 0xffffffff, 0, []⟩,
  ⟨0x120, 0x30, 64, .rw, 0x0, 0xffffffff, 0, []⟩,
  ⟨0x124, 0x30, 64, .ro, 0x0, 0xffffffff, 0, []⟩,
  ⟨0x128, 0x30, 64, .ro, 0x0, 0xffffffff, 0, []⟩,
  ⟨0x12c, 0x30, 64, .ro, 0x0, 0xffffffff, 0, []⟩]

/-- The registers of the CMD page (11_accepted_work.md R507). -/
def rowsCMD : List RegRow := [
  ⟨0x040, 0x4, 1, .rw, 0x0, 0xff, 0, []⟩,
  ⟨0x044, 0x4, 1, .rw, 0x0, 0xffffffff, 0, []⟩,
  ⟨0x048, 0x4, 8, .rw, 0x0, 0xffffffff, 0, []⟩,
  ⟨0x068, 0x4, 1, .wo, 0x0, 0xffffffff, 0, [⟨0, 32, .ranged, 1, 1, false⟩]⟩,
  ⟨0x06c, 0x4, 1, .ro, 0x0, 0xffffffff, 0, []⟩,
  ⟨0x070, 0x4, 1, .ro, 0x0, 0xffffffff, 0, []⟩,
  ⟨0x074, 0x4, 1, .rw, 0x0, 0xffffffff, 0, []⟩,
  ⟨0x078, 0x4, 1, .ro, 0x0, 0xffffffff, 0, []⟩,
  ⟨0x07c, 0x4, 1, .ro, 0x0, 0xffffffff, 0, []⟩,
  ⟨0x080, 0x4, 1, .ro, 0x0, 0xffffffff, 0, []⟩,
  ⟨0x084, 0x4, 1, .ro, 0x0, 0xffffffff, 0, []⟩]

/-- The registers of the VAT page (11_accepted_work.md R503). -/
def rowsVAT : List RegRow := [
  ⟨0x040, 0x4, 1, .rw, 0x0, 0x7ffff000, 0, []⟩,
  ⟨0x044, 0x4, 1, .rws, 0x400, 0xfff, 0, []⟩,
  ⟨0x048, 0x4, 1, .rws, 0x300, 0xfff, 0, []⟩,
  ⟨0x04c, 0x4, 1, .rws, 0x100, 0xfff, 0, []⟩,
  ⟨0x050, 0x4, 1, .ro, 0x4000, 0xffffffff, 0, []⟩,
  ⟨0x054, 0x4, 1, .ro, 0x0, 0xffffffff, 0, []⟩,
  ⟨0x058, 0x4, 1, .ro, 0x0, 0xffffffff, 0, []⟩]

/-- The registers of the CAPT page (12_capture_trigger.md R543). -/
def rowsCAPT : List RegRow := [
  ⟨0x040, 0x4, 1, .wo, 0x0, 0xffffffff, 0, []⟩,
  ⟨0x044, 0x4, 1, .rw, 0x0, 0xf0f, 0, [⟨8, 4, .ranged, 0, 11, false⟩]⟩,
  ⟨0x048, 0x4, 1, .rw, 0x0, 0xffffffff, 0, []⟩,
  ⟨0x04c, 0x4, 1, .rw, 0x0, 0xffffffff, 0, []⟩,
  ⟨0x050, 0x4, 1, .rw, 0x0, 0xffffffff, 0, []⟩,
  ⟨0x054, 0x4, 1, .rw, 0x3e8, 0x3fff, 0, [⟨0, 14, .reject, 10, 10000, false⟩]⟩,
  ⟨0x058, 0x4, 1, .ro, 0x3000, 0xffffffff, 0, []⟩,
  ⟨0x05c, 0x4, 1, .rw, 0x0, 0xf, 0, []⟩,
  ⟨0x060, 0x4, 1, .ro, 0x0, 0xffffffff, 0, []⟩,
  ⟨0x064, 0x4, 1, .ro, 0x0, 0xffffffff, 0, []⟩,
  ⟨0x068, 0x4, 1, .ro, 0x0, 0xffffffff, 0, []⟩,
  ⟨0x06c, 0x4, 1, .ro, 0x0, 0xffffffff, 0, []⟩,
  ⟨0x070, 0x4, 1, .ro, 0x0, 0xffffffff, 0, []⟩,
  ⟨0x100, 0x40, 16, .rw, 0x10000, 0xffffff1f, 0, [⟨16, 16, .reject, 1, 65535, false⟩]⟩,
  ⟨0x104, 0x40, 16, .rw, 0x0, 0x3fffffff, 0, [⟨0, 4, .ranged, 0, 6, false⟩, ⟨13, 2, .ranged, 0, 2, false⟩, ⟨16, 8, .reject, 1, 255, false⟩]⟩,
  ⟨0x108, 0x40, 16, .rw, 0x0, 0xffffff, 0, []⟩,
  ⟨0x10c, 0x40, 16, .rw, 0x0, 0xffffff, 0, []⟩,
  ⟨0x110, 0x40, 16, .rw, 0x0, 0xfffff, 0, []⟩,
  ⟨0x114, 0x40, 16, .rw, 0x0, 0xfffff, 0, []⟩,
  ⟨0x118, 0x40, 16, .rw, 0x0, 0xffffff, 0, []⟩,
  ⟨0x11c, 0x40, 16, .rw, 0x0, 0xffffffff, 0, []⟩,
  ⟨0x120, 0x40, 16, .rw, 0x0, 0x1ffffff, 0, []⟩,
  ⟨0x124, 0x40, 16, .rw, 0x0, 0xffff, 0, [⟨0, 16, .allow, 1, 60000, false⟩]⟩,
  ⟨0x128, 0x40, 16, .rw, 0x0, 0x1ffffff, 0, []⟩,
  ⟨0x12c, 0x40, 16, .rw, 0x0, 0x101ffff, 0, [⟨0, 17, .allow, 1, 65536, false⟩]⟩,
  ⟨0x130, 0x40, 16, .ro, 0x0, 0xffffffff, 0, []⟩,
  ⟨0x134, 0x40, 16, .ro, 0x0, 0xffffffff, 0, []⟩,
  ⟨0x138, 0x40, 16, .ro, 0x0, 0xffffffff, 0, []⟩,
  ⟨0x13c, 0x40, 16, .ro, 0x0, 0xffffffff, 0, []⟩]

/-- The registers of the AE page (13_axis_engines.md R599). -/
def rowsAE : List RegRow := [
  ⟨0x040, 0x4, 1, .wo, 0x0, 0xffffffff, 0, [⟨0, 3, .ranged, 1, 5, false⟩]⟩,
  ⟨0x044, 0x4, 1, .ro, 0x0, 0xffffffff, 0, []⟩,
  ⟨0x048, 0x4, 1, .rws, 0xa, 0x3ff, 0, [⟨0, 10, .reject, 1, 1000, false⟩]⟩,
  ⟨0x04c, 0x4, 1, .rws, 0xa0a, 0x3f3f, 0, [⟨0, 6, .reject, 1, 64, false⟩, ⟨8, 6, .reject, 1, 64, false⟩]⟩,
  ⟨0x050, 0x4, 1, .rw, 0xc000, 0xffff, 0, []⟩,
  ⟨0x054, 0x4, 1, .rw, 0xc004, 0xffff, 0, []⟩,
  ⟨0x058, 0x4, 1, .rw, 0xc008, 0xffff, 0, []⟩,
  ⟨0x05c, 0x4, 1, .rw, 0x400c, 0xffff, 0, []⟩,
  ⟨0x060, 0x4, 1, .rw, 0x4010, 0xffff, 0, []⟩,
  ⟨0x064, 0x4, 1, .rw, 0x4014, 0xffff, 0, []⟩,
  ⟨0x068, 0x4, 1, .rw, 0xfa0, 0xffff, 0, [⟨0, 16, .reject, 16, 65535, false⟩]⟩,
  ⟨0x06c, 0x4, 1, .rw, 0x0, 0x3, 0, []⟩,
  ⟨0x070, 0x4, 1, .ro, 0x0, 0xffffffff, 0, []⟩,
  ⟨0x074, 0x4, 1, .ro, 0x0, 0xffffffff, 0, []⟩,
  ⟨0x078, 0x4, 1, .ro, 0x0, 0xffffffff, 0, []⟩,
  ⟨0x07c, 0x4, 1, .w1c, 0x0, 0xffffffff, 0, []⟩,
  ⟨0x080, 0x4, 1, .ro, 0x0, 0xffffffff, 0, []⟩,
  ⟨0x084, 0x4, 1, .ro, 0x0, 0xffffffff, 0, []⟩,
  ⟨0x088, 0x4, 1, .ro, 0x0, 0xffffffff, 0, []⟩,
  ⟨0x08c, 0x4, 1, .rw, 0x0, 0xf, 0, []⟩,
  ⟨0x090, 0x4, 1, .rw, 0x0, 0x81ff, 0, []⟩,
  ⟨0x094, 0x4, 1, .ro, 0x0, 0xffffffff, 0, []⟩]

/-- The registers of the MOT page (14_motion_loops.md R641). -/
def rowsMOT : List RegRow := [
  ⟨0x040, 0x4, 1, .wo, 0x0, 0xffffffff, 0, []⟩,
  ⟨0x044, 0x4, 1, .ro, 0x0, 0xffffffff, 0, []⟩,
  ⟨0x048, 0x4, 1, .ro, 0x0, 0xffffffff, 0, []⟩,
  ⟨0x04c, 0x4, 1, .ro, 0x0, 0xffffffff, 0, []⟩,
  ⟨0x050, 0x4, 1, .ro, 0x0, 0xffffffff, 0, []⟩,
  ⟨0x054, 0x4, 1, .ro, 0x0, 0xffffffff, 0, []⟩,
  ⟨0x058, 0x4, 1, .rw, 0x0, 0x3f, 0, []⟩,
  ⟨0x05c, 0x4, 1, .ro, 0x0, 0xffffffff, 0, []⟩,
  ⟨0x060, 0x4, 1, .ro, 0x0, 0xffffffff, 0, []⟩,
  ⟨0x100, 0x20, 48, .rws, 0xa040000, 0xfffff3ff, 0, [⟨1, 2, .ranged, 0, 2, false⟩, ⟨4, 2, .ranged, 0, 2, false⟩, ⟨6, 2, .ranged, 0, 1, false⟩, ⟨8, 2, .ranged, 0, 1, false⟩, ⟨12, 4, .ranged, 0, 11, false⟩, ⟨16, 8, .reject, 1, 255, false⟩, ⟨24, 8, .reject, 1, 255, false⟩]⟩,
  ⟨0x104, 0x20, 48, .rws, 0x7f7f7f, 0x7f7f7f, 0, []⟩,
  ⟨0x108, 0x20, 48, .rws, 0xffffff, 0xffffff, 0, []⟩,
  ⟨0x10c, 0x20, 48, .rws, 0x640064, 0xffffffff, 0, [⟨0, 16, .reject, 50, 10000, false⟩, ⟨16, 16, .reject, 50, 10000, false⟩]⟩,
  ⟨0x110, 0x20, 48, .rws, 0x0, 0xbf, 0, []⟩,
  ⟨0x114, 0x20, 48, .rws, 0x0, 0xf3, 0, []⟩,
  ⟨0x118, 0x20, 48, .rws, 0x0, 0x7ffffff, 0, [⟨0, 27, .allow, 100, 100000000, false⟩]⟩,
  ⟨0x11c, 0x20, 48, .ro, 0x0, 0xffffffff, 0, []⟩]

/-- The registers of the EDGE page (15_edges_sensor_ports.md R682). -/
def rowsEDGE : List RegRow := [
  ⟨0x040, 0x4, 1, .wo, 0x0, 0xffffffff, 0, []⟩,
  ⟨0x100, 0x40, 8, .rws, 0x0, 0x1ff7, 0, [⟨0, 3, .ranged, 0, 4, false⟩, ⟨6, 2, .ranged, 0, 2, false⟩]⟩,
  ⟨0x104, 0x40, 8, .rws, 0x1, 0xfffff, 0, [⟨0, 16, .reject, 1, 65535, false⟩]⟩,
  ⟨0x108, 0x40, 8, .rws, 0x2710, 0xffffff, 0, [⟨0, 24, .reject, 1, 16777215, false⟩]⟩,
  ⟨0x10c, 0x40, 8, .rws, 0xa0064, 0xffffffff, 0, [⟨0, 16, .reject, 1, 65535, false⟩, ⟨16, 16, .reject, 1, 65535, false⟩]⟩,
  ⟨0x110, 0x40, 8, .rws, 0xff19, 0xff7fffff, 0, [⟨0, 6, .ranged, 8, 32, false⟩, ⟨16, 7, .allow, 1, 100, false⟩, ⟨24, 8, .reject, 1, 255, false⟩]⟩,
  ⟨0x114, 0x40, 8, .rws, 0x1403e8, 0x3ffffff, 0, [⟨0, 16, .reject, 10, 65535, false⟩]⟩,
  ⟨0x118, 0x40, 8, .rw, 0x0, 0xffffffff, 0, []⟩,
  ⟨0x11c, 0x40, 8, .ro, 0x0, 0xffffffff, 0, []⟩,
  ⟨0x120, 0x40, 8, .ro, 0x0, 0xffffffff, 0, []⟩,
  ⟨0x124, 0x40, 8, .ro, 0x0, 0xffffffff, 0, []⟩,
  ⟨0x128, 0x40, 8, .ro, 0x0, 0xffffffff, 0, []⟩,
  ⟨0x12c, 0x40, 8, .ro, 0x0, 0xffffffff, 0, []⟩,
  ⟨0x130, 0x40, 8, .ro, 0x0, 0xffffffff, 0, []⟩,
  ⟨0x134, 0x40, 8, .ro, 0x0, 0xffffffff, 0, []⟩,
  ⟨0x138, 0x40, 8, .ro, 0x0, 0xffffffff, 0, []⟩,
  ⟨0x13c, 0x40, 8, .ro, 0x0, 0xffffffff, 0, []⟩]

/-- The registers of the SPRT page (15_edges_sensor_ports.md R684). -/
def rowsSPRT : List RegRow := [
  ⟨0x040, 0x4, 1, .wo, 0x0, 0xffffffff, 0, [⟨0, 3, .ranged, 1, 3, false⟩]⟩,
  ⟨0x044, 0x4, 1, .ro, 0x0, 0xffffffff, 0, []⟩,
  ⟨0x048, 0x4, 1, .ro, 0x0, 0xffffffff, 0, []⟩,
  ⟨0x04c, 0x4, 1, .rw, 0x0, 0xffffffff, 0, []⟩,
  ⟨0x050, 0x4, 1, .ro, 0x0, 0xffffffff, 0, []⟩,
  ⟨0x054, 0x4, 1, .ro, 0x0, 0xffffffff, 0, []⟩,
  ⟨0x058, 0x4, 1, .ro, 0x0, 0xffffffff, 0, []⟩,
  ⟨0x05c, 0x4, 1, .ro, 0x0, 0xffffffff, 0, []⟩,
  ⟨0x060, 0x4, 1, .ro, 0x0, 0xffffffff, 0, []⟩,
  ⟨0x064, 0x4, 1, .ro, 0x0, 0xffffffff, 0, []⟩,
  ⟨0x068, 0x4, 1, .ro, 0x0, 0xffffffff, 0, []⟩,
  ⟨0x06c, 0x4, 1, .ro, 0x0, 0xffffffff, 0, []⟩,
  ⟨0x070, 0x4, 1, .rw, 0x0, 0xff, 0, []⟩,
  ⟨0x074, 0x4, 8, .rw, 0x0, 0xffffffff, 0, []⟩,
  ⟨0x094, 0x4, 1, .ro, 0x0, 0xffffffff, 0, []⟩,
  ⟨0x098, 0x4, 4, .ro, 0x0, 0xffffffff, 0, []⟩,
  ⟨0x100, 0x8, 24, .rws, 0x10, 0xfffff1, 0, [⟨4, 20, .reject, 1, 1000000, false⟩]⟩,
  ⟨0x104, 0x8, 24, .rws, 0x0, 0xffffffff, 0, []⟩]

/-- The registers of the LITE page (16_lighting_strobes.md R709). -/
def rowsLITE : List RegRow := [
  ⟨0x040, 0x4, 1, .wo, 0x0, 0xffffffff, 0, []⟩,
  ⟨0x044, 0x4, 1, .rw, 0x0, 0x73ff, 0, [⟨8, 2, .ranged, 0, 2, false⟩]⟩,
  ⟨0x048, 0x4, 1, .rw, 0x0, 0xffff, 0, []⟩,
  ⟨0x04c, 0x4, 1, .rw, 0x0, 0xffffffff, 0, []⟩,
  ⟨0x050, 0x4, 1, .rw, 0x0, 0xffffffff, 0, []⟩,
  ⟨0x054, 0x4, 1, .ro, 0x0, 0xffffffff, 0, []⟩,
  ⟨0x058, 0x4, 1, .wo, 0x0, 0xffffffff, 0, []⟩,
  ⟨0x100, 0x20, 8, .rws, 0x0, 0xffff0fff, 0, [⟨0, 9, .ranged, 0, 256, false⟩, ⟨9, 2, .ranged, 0, 2, false⟩]⟩,
  ⟨0x104, 0x20, 8, .rws, 0x10233, 0x703ff, 0, [⟨0, 10, .ranged, 256, 1024, false⟩, ⟨16, 3, .ranged, 1, 4, false⟩]⟩,
  ⟨0x108, 0x20, 8, .rws, 0x1ff, 0x1ff, 0, []⟩,
  ⟨0x10c, 0x20, 8, .rws, 0x1900, 0xffff, 0, []⟩,
  ⟨0x110, 0x20, 8, .rws, 0x0, 0xffffffff, 0, []⟩,
  ⟨0x114, 0x20, 8, .rws, 0x0, 0xffff, 0, []⟩,
  ⟨0x118, 0x20, 8, .rw, 0x1900, 0xffff, 0, []⟩,
  ⟨0x11c, 0x20, 8, .ro, 0x0, 0xffffffff, 0, []⟩,
  ⟨0x300, 0x20, 8, .rw, 0x0, 0xf3, 0, []⟩,
  ⟨0x304, 0x20, 8, .rw, 0x0, 0xffffffff, 0, []⟩,
  ⟨0x308, 0x20, 8, .rw, 0x0, 0xffffffff, 0, []⟩,
  ⟨0x30c, 0x20, 8, .rw, 0x0, 0x7ff, 0, [⟨0, 11, .ranged, 0, 1279, false⟩]⟩,
  ⟨0x310, 0x20, 8, .rw, 0x0, 0xffffff, 0, [⟨0, 24, .allow, 8, 16777215, false⟩]⟩,
  ⟨0x314, 0x20, 8, .rw, 0x0, 0xffffff, 0, []⟩,
  ⟨0x318, 0x20, 8, .rw, 0x0, 0xffffff, 0, []⟩,
  ⟨0x31c, 0x20, 8, .ro, 0x0, 0xffffffff, 0, []⟩]

/-- The registers of the ZIP page (17_compression.md R730). -/
def rowsZIP : List RegRow := [
  ⟨0x040, 0x4, 1, .wo, 0x0, 0xffffffff, 0, [⟨0, 1, .ranged, 1, 1, false⟩]⟩,
  ⟨0x044, 0x4, 1, .ro, 0x0, 0xffffffff, 0, []⟩,
  ⟨0x048, 0x4, 1, .ro, 0x0, 0xffffffff, 0, []⟩,
  ⟨0x04c, 0x4, 1, .ro, 0x0, 0xffffffff, 0, []⟩,
  ⟨0x050, 0x4, 1, .ro, 0x0, 0xffffffff, 0, []⟩,
  ⟨0x054, 0x4, 1, .ro, 0x1, 0xffffffff, 0, []⟩,
  ⟨0x058, 0x4, 1, .ro, 0x0, 0xffffffff, 0, []⟩,
  ⟨0x05c, 0x4, 1, .ro, 0x0, 0xffffffff, 0, []⟩]

/-- The registers of the CAL page (18_calibration_nv.md R773). -/
def rowsCAL : List RegRow := [
  ⟨0x040, 0x4, 1, .wo, 0x0, 0xffffffff, 0, [⟨0, 1, .ranged, 1, 1, false⟩]⟩,
  ⟨0x044, 0x4, 1, .rwl, 0x0, 0x1, 1, []⟩,
  ⟨0x048, 0x4, 1, .rwl, 0x8, 0x7f, 1, [⟨0, 7, .allow, 1, 100, false⟩]⟩,
  ⟨0x04c, 0x4, 1, .rwl, 0x0, 0x1ffff, 1, [⟨0, 17, .allow, 1, 86400, false⟩]⟩,
  ⟨0x050, 0x4, 1, .ro, 0x2, 0xffffffff, 0, []⟩,
  ⟨0x054, 0x4, 1, .ro, 0xffffffff, 0xffffffff, 0, []⟩,
  ⟨0x058, 0x4, 1, .ro, 0x0, 0xffffffff, 0, []⟩,
  ⟨0x05c, 0x4, 1, .ro, 0x0, 0xffffffff, 0, []⟩,
  ⟨0x060, 0x4, 1, .ro, 0x0, 0xffffffff, 0, []⟩,
  ⟨0x064, 0x4, 1, .ro, 0x0, 0xffffffff, 0, []⟩]

/-- The registers of the NVM page (18_calibration_nv.md R775). -/
def rowsNVM : List RegRow := [
  ⟨0x040, 0x4, 1, .ro, 0x0, 0xffffffff, 0, []⟩,
  ⟨0x044, 0x4, 1, .ro, 0x0, 0xffffffff, 0, []⟩,
  ⟨0x048, 0x4, 1, .ro, 0x0, 0xffffffff, 0, []⟩,
  ⟨0x04c, 0x4, 1, .ro, 0x0, 0xffffffff, 0, []⟩,
  ⟨0x050, 0x4, 1, .ro, 0x0, 0xffffffff, 0, []⟩,
  ⟨0x054, 0x4, 1, .ro, 0x0, 0xffffffff, 0, []⟩,
  ⟨0x058, 0x4, 1, .ro, 0x0, 0xffffffff, 0, []⟩,
  ⟨0x05c, 0x4, 1, .ro, 0x0, 0xffffffff, 0, []⟩,
  ⟨0x060, 0x4, 1, .ro, 0x0, 0xffffffff, 0, []⟩]

/-- The registers of the FUSE page (18_calibration_nv.md R776). -/
def rowsFUSE : List RegRow := [
  ⟨0x040, 0x4, 1, .ro, 0x0, 0xffffffff, 0, []⟩,
  ⟨0x044, 0x4, 1, .ro, 0x0, 0xffffffff, 0, []⟩,
  ⟨0x048, 0x4, 1, .ro, 0x0, 0xffffffff, 0, []⟩,
  ⟨0x04c, 0x4, 1, .ro, 0x0, 0xffffffff, 0, []⟩,
  ⟨0x050, 0x4, 1, .ro, 0x0, 0xffffffff, 0, []⟩,
  ⟨0x054, 0x4, 1, .ro, 0x0, 0xffffffff, 0, []⟩,
  ⟨0x058, 0x4, 4, .ro, 0x0, 0xffffffff, 0, []⟩,
  ⟨0x068, 0x4, 8, .wo, 0x0, 0xffffffff, 0, []⟩,
  ⟨0x088, 0x4, 1, .wo, 0x0, 0xffffffff, 0, [⟨0, 32, .ranged, 0, 1, false⟩]⟩,
  ⟨0x08c, 0x4, 1, .ro, 0x0, 0xffffffff, 0, []⟩,
  ⟨0x090, 0x4, 1, .rw, 0x258, 0xfff, 0, [⟨0, 12, .reject, 60, 3600, false⟩]⟩]

/-- The registers of the JRNL page (18_calibration_nv.md R777). -/
def rowsJRNL : List RegRow := [
  ⟨0x040, 0x4, 1, .rw, 0x0, 0xffffffff, 0, []⟩,
  ⟨0x044, 0x4, 1, .ro, 0x0, 0xffffffff, 0, []⟩,
  ⟨0x048, 0x4, 1, .ro, 0x0, 0xffffffff, 0, []⟩,
  ⟨0x04c, 0x4, 1, .ro, 0x0, 0xffffffff, 0, []⟩,
  ⟨0x050, 0x4, 8, .ro, 0x0, 0xffffffff, 0, []⟩]

/-- The registers of the SAFE page (19_safety.md R814). -/
def rowsSAFE : List RegRow := [
  ⟨0x040, 0x4, 1, .wo, 0x0, 0xffffffff, 0, [⟨0, 3, .ranged, 1, 2, false⟩]⟩,
  ⟨0x044, 0x4, 1, .rws, 0x12c, 0x3ff, 0, [⟨0, 10, .ranged, 100, 1000, false⟩]⟩,
  ⟨0x048, 0x4, 1, .ro, 0x0, 0xffffffff, 0, []⟩,
  ⟨0x04c, 0x4, 1, .ro, 0x0, 0xffffffff, 0, []⟩,
  ⟨0x050, 0x4, 1, .ro, 0x0, 0xffffffff, 0, []⟩,
  ⟨0x054, 0x4, 1, .ro, 0x0, 0xffffffff, 0, []⟩,
  ⟨0x058, 0x4, 1, .ro, 0x0, 0xffffffff, 0, []⟩,
  ⟨0x05c, 0x4, 1, .ro, 0x0, 0xffffffff, 0, []⟩,
  ⟨0x060, 0x4, 8, .rws, 0x140000, 0xff01ff, 0, [⟨16, 8, .reject, 1, 255, false⟩]⟩,
  ⟨0x080, 0x10, 4, .rws, 0x0, 0xff7f, 0, [⟨2, 2, .ranged, 0, 2, false⟩]⟩,
  ⟨0x084, 0x10, 4, .rws, 0x64, 0x7ffff, 0, [⟨0, 16, .reject, 1, 30000, false⟩]⟩,
  ⟨0x088, 0x10, 4, .rws, 0x0, 0xffffff, 0, []⟩,
  ⟨0x08c, 0x10, 4, .rws, 0x0, 0xffffff, 0, []⟩,
  ⟨0x0c0, 0x10, 8, .rws, 0xf00, 0xfffff07, 0, [⟨1, 2, .ranged, 0, 2, false⟩]⟩,
  ⟨0x0c4, 0x10, 8, .rws, 0x0, 0xffffffff, 0, []⟩,
  ⟨0x0c8, 0x10, 8, .rws, 0x0, 0xffffffff, 0, []⟩,
  ⟨0x0cc, 0x10, 8, .rws, 0x10000, 0xffffffff, 0, []⟩,
  ⟨0x200, 0x20, 32, .rws, 0x0, 0x3, 0, []⟩,
  ⟨0x204, 0x20, 32, .rws, 0x0, 0xffff, 0, []⟩,
  ⟨0x208, 0x20, 32, .rws, 0x0, 0xffff, 0, []⟩,
  ⟨0x20c, 0x20, 32, .rws, 0x0, 0xfffffff, 0, [⟨0, 14, .reject, 5, 10000, false⟩, ⟨14, 14, .reject, 1, 10000, false⟩]⟩,
  ⟨0x210, 0x20, 32, .rws, 0x1388, 0xfffff, 0, [⟨0, 20, .reject, 100, 1000000, false⟩]⟩,
  ⟨0x214, 0x20, 32, .rws, 0x0, 0xfff, 0, []⟩,
  ⟨0x218, 0x20, 32, .ro, 0x0, 0xffffffff, 0, []⟩,
  ⟨0x21c, 0x20, 32, .ro, 0x0, 0xffffffff, 0, []⟩]

/-- The registers of the TWIN page (20_twin.md R845). -/
def rowsTWIN : List RegRow := [
  ⟨0x040, 0x4, 1, .wo, 0x0, 0xffffffff, 0, [⟨0, 2, .ranged, 1, 2, false⟩]⟩,
  ⟨0x044, 0x4, 1, .rwl, 0x1, 0x1, 1, []⟩,
  ⟨0x048, 0x4, 1, .ro, 0x0, 0xffffffff, 0, []⟩,
  ⟨0x04c, 0x4, 1, .rw, 0x32, 0x3fff, 0, [⟨0, 14, .allow, 10, 10000, false⟩]⟩,
  ⟨0x050, 0x4, 1, .rw, 0x4, 0x3ff, 0, [⟨0, 10, .reject, 1, 1000, false⟩]⟩,
  ⟨0x054, 0x4, 1, .rw, 0xffffffff, 0xffffffff, 0, []⟩,
  ⟨0x058, 0x4, 1, .rw, 0xffff, 0xffff, 0, []⟩,
  ⟨0x05c, 0x4, 1, .ro, 0x0, 0xffffffff, 0, []⟩,
  ⟨0x060, 0x4, 1, .ro, 0x0, 0xffffffff, 0, []⟩,
  ⟨0x064, 0x4, 1, .ro, 0x0, 0xffffffff, 0, []⟩,
  ⟨0x068, 0x4, 1, .ro, 0x0, 0xffffffff, 0, []⟩,
  ⟨0x06c, 0x4, 1, .ro, 0x0, 0xffffffff, 0, []⟩,
  ⟨0x070, 0x4, 1, .ro, 0x0, 0xffffffff, 0, []⟩,
  ⟨0x074, 0x4, 1, .ro, 0x0, 0xffffffff, 0, []⟩,
  ⟨0x078, 0x4, 1, .ro, 0x0, 0xffffffff, 0, []⟩,
  ⟨0x080, 0x4, 12, .rw, 0x2, 0x3f03, 0, [⟨0, 2, .ranged, 0, 2, false⟩]⟩]

/-- The block that owns a register page, and its instance number (Table 4.2). -/
def blkOfPage (p : Nat) : Option (Blk × Nat) :=
  if p = 0x00 then some (.sys, 0)
  else if p = 0x01 then some (.host, 0)
  else if p = 0x02 then some (.pwr, 0)
  else if p = 0x03 then some (.clk, 0)
  else if 0x10 ≤ p ∧ p < 0x30 then some (.fq, p - 0x10)
  else if 0x30 ≤ p ∧ p < 0x50 then some (.cc, p - 0x30)
  else if p = 0x50 then some (.hkc, 0)
  else if p = 0x51 then some (.aout, 0)
  else if 0x60 ≤ p ∧ p < 0x88 then some (.flt, p - 0x60)
  else if p = 0x90 then some (.time, 0)
  else if 0x91 ≤ p ∧ p < 0x93 then some (.ptp, p - 0x91)
  else if 0x98 ≤ p ∧ p < 0x9c then some (.lane, p - 0x98)
  else if p = 0x9c then some (.ring, 0)
  else if p = 0xa0 then some (.strm, 0)
  else if p = 0xa1 then some (.cmd, 0)
  else if p = 0xa2 then some (.vat, 0)
  else if p = 0xa8 then some (.capt, 0)
  else if 0xb0 ≤ p ∧ p < 0xbc then some (.ae, p - 0xb0)
  else if p = 0xbc then some (.mot, 0)
  else if 0xc0 ≤ p ∧ p < 0xc8 then some (.edge, p - 0xc0)
  else if 0xc8 ≤ p ∧ p < 0xd0 then some (.sprt, p - 0xc8)
  else if p = 0xd0 then some (.lite, 0)
  else if p = 0xd8 then some (.zip, 0)
  else if p = 0xe0 then some (.cal, 0)
  else if p = 0xe1 then some (.nvm, 0)
  else if p = 0xe2 then some (.fuse, 0)
  else if p = 0xe3 then some (.jrnl, 0)
  else if p = 0xf0 then some (.safe, 0)
  else if p = 0xf8 then some (.twin, 0)
  else none

/-- The rows of a block. -/
def rowsOf : Blk → List RegRow
  | .sys => rowsSYS
  | .host => rowsHOST
  | .pwr => rowsPWR
  | .clk => rowsCLK
  | .fq => rowsFQ
  | .cc => rowsCC
  | .hkc => rowsHKC
  | .aout => rowsAOUT
  | .flt => rowsFLT
  | .time => rowsTIME
  | .ptp => rowsPTP
  | .lane => rowsLANE
  | .ring => rowsRING
  | .strm => rowsSTRM
  | .cmd => rowsCMD
  | .vat => rowsVAT
  | .capt => rowsCAPT
  | .ae => rowsAE
  | .mot => rowsMOT
  | .edge => rowsEDGE
  | .sprt => rowsSPRT
  | .lite => rowsLITE
  | .zip => rowsZIP
  | .cal => rowsCAL
  | .nvm => rowsNVM
  | .fuse => rowsFUSE
  | .jrnl => rowsJRNL
  | .safe => rowsSAFE
  | .twin => rowsTWIN

end Sys2Proof.Machine
end

