-- ==== Sys2Proof/Machine/Sparse.lean ====
section
/-!
DEFINITION. Sparse maps from addresses to data in one canonical form: addresses strictly rising, no entry equal to what an
unlisted address reads as. They hold the register file, the Vat, the engines' SRAM and the shadows of the pages.
-/
namespace Sys2Proof.Machine

variable {α : Type}

/-- The entry at address `a`, if the list has one. -/
def sparseFind (l : List (Nat × α)) (a : Nat) : Option α :=
  match l with
  | [] => none
  | (b, v) :: t => if a = b then some v else sparseFind t a

/-- What address `a` reads as: its entry, or `d` where none is listed. -/
def sparseGet (l : List (Nat × α)) (d : α) (a : Nat) : α :=
  (sparseFind l a).getD d

/-- The list without an entry at `a`. -/
def sparseErase (l : List (Nat × α)) (a : Nat) : List (Nat × α) :=
  match l with
  | [] => []
  | (b, w) :: t => if a = b then t else if a < b then (b, w) :: t else (b, w) :: sparseErase t a

/-- The list with the entry `(a, v)`, in the place of any earlier entry at `a`. -/
def sparseSet (l : List (Nat × α)) (a : Nat) (v : α) : List (Nat × α) :=
  match l with
  | [] => [(a, v)]
  | (b, w) :: t =>
    if a < b then (a, v) :: (b, w) :: t
    else if a = b then (a, v) :: t
    else (b, w) :: sparseSet t a v

/-- A write that keeps the canonical form: writing what an unlisted address reads as removes the entry. -/
def sparsePut [DecidableEq α] (l : List (Nat × α)) (d : α) (a : Nat) (v : α) : List (Nat × α) :=
  if v = d then sparseErase l a else sparseSet l a v

/-- The addresses rise strictly, and all lie above `lo`. -/
def sparseAbove (lo : Nat) (l : List (Nat × α)) : Bool :=
  match l with
  | [] => true
  | (b, _) :: t => decide (lo ≤ b) && sparseAbove (b + 1) t

/-- The canonical form, for a map whose unlisted address `a` reads as `d a`. -/
def sparseWf [DecidableEq α] (d : Nat → α) (l : List (Nat × α)) : Bool :=
  sparseAbove 0 l && l.all (fun e => decide (e.2 ≠ d e.1))

end Sys2Proof.Machine
end

