-- ==== Sys2Proof/Config.lean ====
section
/-!
DEFINITION. What one implementation of the hub fixes and the spec does not: the free values. Each is an opaque constant, so
that nothing in Lean knows its value; notes/assumptions names the rule that leaves it open.
Marked choices: DESIGN CHOICE, log entries 6, 7, 8, 9, 10, 11, 14, 17, 78; DEDUCED, log entries 12, 45, 47, 55, 60.
-/
namespace Sys2Proof.Config

/-- A value that the spec leaves open, drawn with the state's counter of free values. -/
opaque freeWord : Nat → Word

/-- The bits of a challenge (R763): four words of the random generator, by the counter of free values. -/
opaque challenge : Nat → BitVec 128

/-- What a register that shows a measurement of the board reads (CLK.XTIME_PPM, CLK.REFCLK_SPREAD, LANEn.RX_PPM,
TWIN.OFFSET): by its address and the tick count. -/
opaque measured : Nat → Nat → Word

/-- The seven SECDED check bits over the 33 bits of a queue word (R351): the spec does not give the code. -/
opaque checkBits : BitVec 33 → BitVec 7

/-- The calibrated input delay of an edge ball, by edge channel and input, in units of 1.25 ns / 256 (R643). -/
opaque ballDelay : Nat → Nat → Nat

/-- The byte at an offset into the history ring of a ream that holds these records (index, channel, word): the spec gives the
ring's place and size (R513) and not the places in it (log entry 55). -/
opaque histByte : Nat → List (Nat × Nat × Word) → BitVec 8

/-- The measured delay of the crossing between a lane clock and CLKT (R46), in units of 20 ps, by 2 × lane + (1 for transmit) and
the tick count. -/
opaque crossing : Nat → Nat → Nat

/-- The part of the RS-FEC latency that varies with the place of a frame in its codeword (R396), in units of 2⁻¹⁶ ns, by
2 × lane + (1 for transmit) and the tick count. -/
opaque fecDelay : Nat → Nat → Nat

/-- The rounding of a housekeeping value in mV (Table 6.4), by channel and code: up or down. -/
opaque roundUp : Nat → Nat → Bool

/-- The taps of the half-band stages in units of 2⁻³², but for the zero ones: 0 for the middle tap, j for the pair at a distance of
2j − 1 from it (R294). The spec gives the response (Table 7.2), not the taps. -/
opaque halfTap : Nat → Int

/-- The taps of the resampler in units of 2⁻³², by phase, 0 to 64, and place in the window of 16, oldest first (R299). The spec gives
the response (Table 7.2), not the taps. -/
opaque rsTap : Nat → Nat → Int

/-- The deviation of a lighting output from its exact value (R694), for the curve word, the level and the factor: taken modulo
3 it gives −1, 0 or +1 LSB. -/
opaque liteError : Nat → Nat → Nat → Nat

/-- The hash of three bytes by which the match finder picks its candidates (R714). -/
opaque zipHash : Nat → Nat → Nat → Nat

/-- The bits of a block coded with dynamic codes (R712), by the block, the output before it, depth and lazy. -/
opaque dynamicBlock : List Nat → List Nat → Nat → Bool → List Bool

/-- The coefficients that a recalibration measures (R734), by a draw and 8 × input + range. -/
opaque recalCoef : Nat → Nat → Int × Int

/-- The offset and gain that a calibration measures of a unit beside the inputs (Table 18.1), by a draw and the number of the unit. -/
opaque unitCoef : Nat → Nat → Int × Int

/-- The coefficients that the foreground calibration of BIST measures in a slice (R259): weights, offset and gain, by a draw and
9 × core + slice. -/
opaque bistSlice : Nat → Nat → List Int × Int × Int

/-- The MAC address of the hub with a HUB_ID (R800): the spec does not say how a producer finds it. -/
opaque peerMac : Nat → Mac

end Sys2Proof.Config
end

