-- ==== Sys2Proof/Machine/State.lean ====
section
/-!
DEFINITION. The state of one hub as plain data: every register, memory, queue, counter, mode and ball that the spec gives
it, the queue of waiting commands, and the reasons a command can stop.
Marked choices: DESIGN CHOICE, log entries 2, 3, 6, 18, 19, 20, 21, 22, 23, 24, 56; DEDUCED, log entries 12, 42, 81; PRESUMED,
log entry 37.
-/
namespace Sys2Proof.Machine

/-- Faults. No rule of the spec stops the hub: a rejected write is refused with ERRCODE and an internal fault is a reset,
both next states. The type has no constructor, so no meaning can end in a fault. -/
inductive Fault where
deriving DecidableEq, Repr

/-- Refusals. -/
inductive Refusal where
  /-- Raised by an arm of exec for a command that has no meaning yet; safe: nothing is claimed of such a command. -/
  | notModelled (mnemonic : String)
deriving DecidableEq, Repr

-- power, clocks, resets, balls

/-- The power states of Table 0.5, with VBK absent and Reset of Table 3.5, and the factory test mode of R73. -/
inductive PowerState where
  | vbkAbsent | midnight | reset | dawn | noon | dusk | twilight | factoryTest
deriving DecidableEq, Repr

/-- The nRSTREQ logic of the always-on domain (R123 to R127). -/
structure RstReq where
  level : Bool := true
  debounce : Bool := false
  counting : Bool := false
  failed : Bool := false
deriving DecidableEq, Repr

/-- Presence of the input clocks and lock of the PLLs (R98, Table 3.12). -/
structure ClkState where
  xsys : Bool := true
  xtime : Bool := true
  xlp : Bool := true
  refclk : Bool := true
  corePll : Bool := true
  memPll : Bool := true
  timePll : Bool := true
  lanePll : List Bool := [true, true, true, true]
deriving DecidableEq, Repr

/-- The warm reset in progress (R120): a request that waits for t0, the running sequence and how far it has come. -/
structure WarmReset where
  requested : Bool := false
  running : Bool := false
  imageLoaded : Bool := false
  ready : Bool := false
  /-- Hub time restarts as unlocked (R101). -/
  timeLost : Bool := false
deriving DecidableEq, Repr

/-- Supplies, power states and resets (spec/03). Rails stand in the order of Table 3.1. -/
structure PwrState where
  st : PowerState := .reset
  rails : List Bool := [false, false, false, false, false, false, true]
  pwren : Bool := true
  pwrenFails : Nat := 0
  railFail : Bool := false
  /-- Midnight was entered with target Removal (R109). -/
  removal : Bool := false
  /-- The target of a Dusk in progress, coded as PWR.CTRL.target. -/
  target : Nat := 0
  duskIncomplete : Bool := false
  rstReq : RstReq := {}
  warm : WarmReset := {}
  /-- Causes gathered since the last reset began, coded as RST_CAUSE. -/
  causes : Nat := 4
  /-- The coarse counter (R105, R387): hub time in units of 2⁻¹⁶ ns when it was last written, if it holds one. -/
  coarse : Option Nat := none
  /-- Seconds that the coarse counter has run alone, for HOLD_STAT. -/
  coarseAge : Nat := 0
  /-- The phase of Dawn in progress (Table 21.1), 11 when complete; the tick count at the power-good instant; the table range of
  the Ream image is still to be copied (R754). -/
  dawnPhase : Nat := 0
  dawnAt : Nat := 0
  tableDue : Bool := true
  /-- A warm reset met the hub before its first grid start: PWR.RESUMED waits for that start (Table 3.10). -/
  resumeDue : Bool := false
deriving DecidableEq, Repr

/-- The levels of the input balls that the hub reads (Tables 2.5, 2.6) and the sampled straps (R74). -/
structure PinState where
  npor : Bool := true
  /-- nSCONF does not count as asserted (R767). -/
  nsconf : Bool := true
  arbsel : Bool := false
  twinid : Bool := false
  rooten : Bool := false
  testen : Bool := false
  strapTwin : Bool := false
  strapRoot : Bool := false
  /-- TRIGIN0 to TRIGIN3, and their changes, newest first: the index of the first tick edge that finds the new levels (R522). -/
  trigin : List Bool := [false, false, false, false]
  triginAt : List (Nat × List Bool) := []
deriving DecidableEq, Repr

/-- A GC or GEN ball (R83, R864): the level it drives, if it drives one, and whether its keeper is engaged, with the level
that the keeper holds. -/
structure Ball where
  drive : Option Bool := none
  keeper : Bool := false
  held : Bool := false
deriving DecidableEq, Repr

-- pages, paths, host port

/-- What a page remembers beside its registers (Table 4.3): an engaged snapshot, a COMMIT = 1 that waits for the next tick edge
(R149), a scheduled commit and the index at which it was written, the result of the last commit, the refusals counted in
ERRCODE. -/
structure PageInfo where
  snapshot : Option (List (Nat × Word)) := none
  soon : Bool := false
  sched : Option Nat := none
  schedFrom : Nat := 0
  applied : Bool := false
  late : Bool := false
  appliedIndex : Nat := 0
  errCount : Nat := 0
deriving DecidableEq, Repr

/-- What the hub holds for one access path: its level (R158), the error since its last status word, its transaction count,
the latched companions of R143. -/
structure PathState where
  service : Bool := false
  err : Bool := false
  /-- The ERRCODE word of the latest refusal of this path, and whether it names a detail (R142, R879). -/
  lastErr : Word := 0
  lastNamed : Bool := false
  tcount : Nat := 0
  latched : List (Nat × Word) := []
  /-- The copies of OPCODE, SEQ and ARG0 to ARG7 (R495). -/
  cmdRegs : List Word := List.replicate 10 0
  /-- The challenge given and not yet used or expired (R763), and the response words written. -/
  challenge : Option (List Word) := none
  response : List Word := List.replicate 8 0
deriving DecidableEq, Repr

/-- A ring session (R181, R182). -/
structure Session where
  mac : Mac
  number : Nat
  lastSeq : Seq16
  stored : AccessResp
deriving DecidableEq, Repr

/-- The host port and the ring sessions (spec/04). -/
structure HostState where
  paths : List PathState := List.replicate 9 {}
  sessions : List (Option Session) := List.replicate 8 none
  /-- The profile in force: 1 for 8-8-8 DTR (R164). -/
  profile : Bool := false
  busy : Bool := false
  /-- The words of a READ_REQ whose busy period runs; the words that wait for FETCH. -/
  req : Option (List Word) := none
  fetch : Option (List Word) := none
  /-- HRDY is low for an attention pulse; a pulse has been given since attn last rose (R175, R177). -/
  pulse : Bool := false
  pulsed : Bool := false
  /-- The bytes that the port has driven in its last transaction, in the order of R165. -/
  out : List Byte := []
deriving DecidableEq, Repr

-- front end and converters

/-- What the hub holds for one analog input (spec/05). -/
structure InputState where
  range : Nat := 0
  /-- A decided range step: its target and the index from which it applies (R198). -/
  step : Option (Nat × Nat) := none
  /-- Consecutive samples below the threshold of R197. -/
  below : Nat := 0
  /-- Raw records still to be marked SETL after a range step, and after an input mode change (Table 8.3). -/
  setlStep : Nat := 0
  setlMode : Nat := 0
  brk : Bool := false
  /-- Consecutive intact raw samples of an input in break (R229). -/
  intact : Nat := 0
  /-- The latest burn-out test showed a movement of more than 20 mV (R225); the break that lasts is under test (R228). -/
  burn : Bool := false
  tested : Bool := false
  /-- One more than the number of the current-swap phase of the newest sample (R221), 0 before one; the sums and counts of the last phase 1 and of the
  phase in progress, the difference d of R222 as a fraction, and whether a complete pair has passed. Sums and d are in units of the
LSB of range 5, so that the ranges of an autoranged input add up. -/
  phase : Nat := 0
  sum1 : Int := 0
  cnt1 : Nat := 0
  sum : Int := 0
  cnt : Nat := 0
  dNum : Int := 0
  dDen : Nat := 1
  pairs : Nat := 0
  /-- The tags of the last record, and the range steps since cold reset. -/
  setl : Bool := false
  xch : Bool := false
  steps : Nat := 0
deriving DecidableEq, Repr

/-- An excitation driver: V_sense in units of 0.1 mV, its current in units of 0.25 mA, the faults of Table 5.4, the index at which
the settling window of R212 ends. -/
structure ExcState where
  sense : Nat := 0
  current : Nat := 0
  limit : Bool := false
  compliance : Bool := false
  senseFault : Bool := false
  settle : Option Nat := none
deriving DecidableEq, Repr

/-- A converter core (spec/06): the slice in each position, the spare, the coefficients, results and retirements of the
nine slices. Weights and offsets are in units of 1/16 LSB, gains in units of 2⁻³⁰. -/
structure CoreState where
  pos : List Nat := [0, 1, 2, 3, 4, 5, 6, 7]
  spare : Nat := 8
  coefs : List SliceCoef :=
    List.replicate 9 ⟨[16384, 32768, 65536, 131072, 262144, 524288], 0, 1073741824⟩
  pass : List Bool := List.replicate 9 true
  retired : List Bool := List.replicate 9 false
  /-- The tick count at the last calibration of each slice. -/
  calAt : List Nat := List.replicate 9 0
  stopped : Bool := false
  /-- The core has fewer passing slices than positions in use (R260). -/
  short : Bool := false
deriving DecidableEq, Repr

/-- The band comparators of one input (R262 to R268): edges in force, edges in the DAC shadow, newest first, each with the index
of its arrival (R50), the comparator states, band-order events, the crossings counted in this period and latched for the last
one, and the changes of the comparator states, newest first: the index of the first tick edge that finds them (R522). -/
structure BandState where
  lower : Nat := 0
  upper : Nat := 0
  shadow : List (Nat × Nat × Nat) := []
  u : Bool := false
  lo : Bool := false
  orderErr : Nat := 0
  countU : Nat := 0
  countL : Nat := 0
  latchU : Nat := 0
  latchL : Nat := 0
  past : List (Nat × Bool × Bool) := []
deriving DecidableEq, Repr

/-- The housekeeping converter: the index at which a single conversion was asked for and waits (R272), the writes of SEL, newest
first, with their indices (R273), the last slot that has given a result, and the history of the four die temperatures, newest
first, with the index of each (R270, R309). -/
structure HkcState where
  single : Option Nat := none
  sels : List (Nat × Word) := []
  last : Option Nat := none
  temps : List (List (Nat × BitVec 16)) := List.replicate 4 []
deriving DecidableEq, Repr

/-- A retransmit output: its present code and whether it stands in fault_mode (R232, R235). -/
structure AoState where
  code : Nat := 0
  fault : Bool := false
deriving DecidableEq, Repr

-- filter chains

/-- For each tag that R313 hands on, and for NODATA, how many inputs ago the stage last took one that carried it. -/
structure Ages where
  setl : Option Nat := none
  brk : Option Nat := none
  clip : Option Nat := none
  xch : Option Nat := none
  nodata : Option Nat := none
  /-- SETL that comes from the refill of a stage (R320, R343). -/
  fill : Option Nat := none
deriving DecidableEq, Repr

/-- The CIC: four integrators and four comb delays modulo 2⁹⁶ (R284), inputs since the last output, inputs whose outputs
are still marked (Table 8.3). -/
structure CicState where
  acc : List Int := [0, 0, 0, 0]
  comb : List Int := [0, 0, 0, 0]
  count : Nat := 0
  fill : Nat := 0
  ages : Ages := {}
deriving DecidableEq, Repr

/-- A stage with a window of inputs (FIR1, a half-band, the resampler): the window, newest first, inputs since the last
output, inputs whose outputs are still marked, by a restart and, apart from it, by a change of taps or of T_in or RATIO (R344). -/
structure FirState where
  hist : List Int := []
  count : Nat := 0
  fill : Nat := 0
  mark : Nat := 0
  ages : Ages := {}
deriving DecidableEq, Repr

/-- An output of a chain: the full index, the output number, the record word (R334). -/
structure OutRec where
  index : Nat
  num : Int
  word : Word
deriving DecidableEq, Repr

/-- The open window of the reductions (R325, R326): outputs counted, and of the usable ones the number, the extremes, the
sum, the sum of squares and the tags. -/
structure RedState where
  running : Bool := false
  used : Nat := 0
  min : Int := 0
  max : Int := 0
  sum : Int := 0
  squares : Nat := 0
  tags : BitVec 8 := 0
deriving DecidableEq, Repr

/-- One filter chain (spec/07). -/
structure ChainState where
  /-- The sample index from which raw records count (R286, R319): those before it do not enter. -/
  origin : Nat := 0
  cic : CicState := {}
  fir : FirState := {}
  hb1 : FirState := {}
  hb2 : FirState := {}
  rs : FirState := {}
  /-- The instant of the last resampler output in ticks, as a fraction (R302). -/
  rsLast : Option (Int × Nat) := none
  /-- After a change of RATIO or T_in: the outputs go on from the last one emitted (R302). -/
  rsCatch : Bool := false
  refilling : Bool := false
  /-- The first output without SETL is still to carry SWP (R320). -/
  swpDue : Bool := false
  /-- The next FIR1 output, or the next chain output, is the first computed with a new set (R291). -/
  swapFir : Bool := false
  swapOut : Bool := false
  /-- The latest swap of sets: its index and the set of the outputs before it (R291). -/
  oldSet : Option (Nat × Nat) := none
  outputs : Nat := 0
  sat : Nat := 0
  red : RedState := {}
  /-- Outputs not yet delivered, oldest first. -/
  queue : List OutRec := []
  /-- Delivered outputs kept for linearised chains that use this one as temperature source, newest first (R309). -/
  recent : List OutRec := []
deriving DecidableEq, Repr

/-- The memories of the filter fabric and the SYNC in wait: coefficient RAM by 256 × set + word, linearisation
coefficients in force and shadow by 24 × chain + coefficient, the scheduled SYNC of R318 and the pin SYNC of R317. -/
structure FltState where
  coef : List (Nat × BitVec 24) := []
  poly : List (Nat × Word) := []
  polyShadow : List (Nat × Word) := []
  syncAt : Option Nat := none
  syncPin : Option Nat := none
deriving DecidableEq, Repr

-- hub time

/-- The servo states of Table 9.1. -/
inductive Servo where
  | unknown | seeded | acquire | locked | holdover | freerun | grandmaster
deriving DecidableEq, Repr

/-- A master heard on L3 (R388): its latest Announce, the tick count of that, and whether two of its Announces have come within
the window of the default BMCA. -/
structure Foreign where
  ann : AnnounceMsg
  at' : Nat
  qualified : Bool
deriving DecidableEq, Repr

/-- The servo and the port data of one PTP domain (R380, R388, R395, R880). Offsets are in units of 2⁻¹⁶ ns. -/
structure DomainState where
  servo : Servo := .unknown
  offset : Int := 0
  lastSeq : Option Seq16 := none
  /-- Consecutive accepted Syncs with |o| below LOCK_THRESH, above 4 × LOCK_THRESH, with o below −STEP_THRESH, above
  STEP_THRESH. -/
  near : Nat := 0
  far : Nat := 0
  early : Nat := 0
  late : Nat := 0
  /-- Consecutive accepted Syncs with |o| above STEP_THRESH, of either sign (R374, R375). -/
  beyond : Nat := 0
  /-- After a switch: the phase difference of the domains is not yet removed (R403). -/
  settling : Bool := false
  /-- The last 16 accepted Syncs, newest first: hub time in units of 2⁻¹⁶ ns and offset (R880). -/
  fits : List (Int × Int) := []
  lost : Bool := false
  /-- The master taken, the masters heard on L3, and the L3 port state coded as PTPx.STAT.l3_state. -/
  master : Option AnnounceMsg := none
  foreign : List Foreign := []
  l3 : Nat := 0
  /-- A two-step Sync that waits for its Follow_Up. -/
  twoStep : Option SyncMsg := none
  /-- Sequence ids of the messages this hub sends: Sync, Announce, Delay_Req. -/
  syncSeq : Seq16 := 0
  annSeq : Seq16 := 0
  reqSeq : Seq16 := 0
  /-- The send time of the Delay_Req in flight. -/
  reqSent : Option Int := none
  /-- t2 − t1 − c of the latest L3 Sync, for the path delay. -/
  syncLeg : Option Int := none
deriving DecidableEq, Repr

/-- The delay machinery of one port (R372, R394): the request in flight, a response that waits for its Follow_Up, the last
16 measurements, newest first, and the path delay that they give, in units of 2⁻¹⁶ ns. -/
structure PortDelay where
  seq : Seq16 := 0
  sent : Option Int := none
  waiting : Option (Seq16 × Int) := none
  meas : List Int := []
  delay : Int := 0
deriving DecidableEq, Repr

/-- Hub time, the servo of the tracked domain and the sample grid (spec/09). -/
structure TimeState where
  /-- Hub time in units of 2⁻¹⁶ ns (R364). -/
  ht : Nat := 0
  /-- Ticks of the T domain since power-on: the measure of every age that the hub reports. -/
  now : Nat := 0
  /-- The frequency word F in units of 10⁻¹² and the integral term I in units of 2⁻¹⁶ × 10⁻¹². -/
  f : Int := 0
  i : Int := 0
  tracked : Bool := false
  switchTo : Option Bool := none
  slewing : Bool := false
  gridStarted : Bool := false
  /-- The index S of a grid start that waits (R407). -/
  gridAt : Option Nat := none
  /-- Sampling is held from a warm reset until it resumes (Table 3.9). -/
  held : Bool := false
  /-- The tick count and the die temperatures at the start of holdover (R384). -/
  holdFrom : Option (Nat × List (BitVec 16)) := none
  /-- The largest change of TS0 to TS3 since holdover began, in units of 1/16 °C (R384). -/
  holdDt : Nat := 0
  doms : List DomainState := [{}, {}]
  ports : List PortDelay := [{}, {}, {}, {}]
deriving DecidableEq, Repr

-- lanes and the ring

/-- One lane (Table 10.10): what its receiver sees, its link, whether it had link before the last reset. -/
structure LaneState where
  signal : Bool := false
  blockLock : Bool := false
  linkUp : Bool := false
  hadLink : Bool := false
  chkLock : Bool := false
deriving DecidableEq, Repr

/-- A frame that the hub has put on a lane: its HSR sequence on the ring, its destination, its content; `good` is false for
a frame completed with an inverted FCS (R436). -/
structure TxFrame where
  lane : Lane
  seq : Option Seq16
  src : Mac
  dst : Mac
  body : FrameBody
  good : Bool := true
deriving DecidableEq, Repr

/-- A duplicate-discard window (R432): 0 for local acceptance, 1 and 2 for forwarding from L0 and from L1; the newest
sequence number and those seen among it and the 4,095 before it. -/
structure Window where
  src : Mac
  use : Nat
  newest : Nat
  seen : List Nat
deriving DecidableEq, Repr

/-- A hub that discovery beacons have shown (R445): its last beacon, its distance in hops to the east (copies that arrive on
L0) and to the west (copies that arrive on L1), the tick count when it was last heard. -/
structure Node where
  beacon : Beacon
  east : Option Nat
  west : Option Nat
  heard : Nat
deriving DecidableEq, Repr

/-- One ledger entry (R456, R458): the stream under the hub that asked first, its partner's address for a pair, which of
the two members hold it. -/
structure LedgerEnt where
  hub : Nat
  stream : Nat
  q : Nat
  rate : Nat
  partner : Option Nat
  own : Bool
  other : Bool
deriving DecidableEq, Repr

/-- The ring (spec/10). -/
structure RingState where
  /-- The hub's own HSR sequence counter, and whether a beacon with seq_reset has left since the reset (R433). -/
  seq : Seq16 := 0
  announced : Bool := false
  address : Option Nat := none
  generation : Seq32 := 0
  /-- The highest generation seen or assigned (R446). -/
  topGen : Seq32 := 0
  root : Bool := false
  rootSerial : Nat := 0
  rootless : Bool := false
  rebuilding : Bool := false
  /-- The rebuilding flag of the last root beacon, and a ledger report that is due (R462). -/
  sawRebuild : Bool := false
  reportDue : Bool := false
  /-- The root was lost and no root beacon has come since (R466). -/
  cut : Bool := false
  closed : Bool := false
  /-- This hub was root when a warm reset began: its ledger is kept (R462). -/
  keptLedger : Bool := false
  windows : List Window := []
  nodes : List Node := []
  /-- Serials and the addresses that the root has assigned (R447 to R451). -/
  table : List (Nat × Nat) := []
  /-- Hops of the root beacon by ring port, and the tick count of its last arrival: L1 (east), L0 (west). -/
  hopsEast : Nat := 0
  hopsWest : Nat := 0
  eastAt : Option Nat := none
  westAt : Option Nat := none
deriving DecidableEq, Repr

/-- The root's ledger and the admission traffic of this hub (R454 to R463). -/
structure AdmState where
  ledger : List LedgerEnt := []
  /-- Requests held while the ledger is rebuilt. -/
  held : List AdmRequest := []
  nextRequest : Nat := 0
  /-- Requests without a reply: request id, stream, tick count of the first sending. -/
  waiting : List (Nat × Nat × Nat) := []
  /-- The token bucket of R439 in units of 1/80 byte, and the tick count up to which it is filled. -/
  bucket : Nat := 768000
  bucketAt : Nat := 0
  /-- The tick count from which the retransmission pool allows the next resend (R461). -/
  retxAt : Nat := 0
  /-- The value of MAX_FRAME in force, from the root's assignment (R437). -/
  maxFrame : Nat := 600
  breakStat : Word := 0
deriving DecidableEq, Repr

-- streams, the Felt, commands

/-- The states of a stream (Table 11.9). -/
inductive StrmSt where
  | idle | checking | requesting | admitted | running | closing | ended
deriving DecidableEq, Repr

/-- A closed quire: its content, the tick counts of its closing, its first and its last sending; `again` asks for another
sending (R486). -/
structure FeltQuire where
  quire : Quire
  closed : Nat
  first : Option Nat := none
  last : Option Nat := none
  again : Bool := false
deriving DecidableEq, Repr

/-- A record that waits for its turn in the order of R473: its full index, its hub channel, its slot; `ecc` says that an
uncorrectable queue word put NODATA there (R357). -/
structure WaitRec where
  idx : Nat
  chan : Nat
  slot : Slot
  ecc : Bool := false
deriving DecidableEq, Repr

/-- The newest record of a channel that has reached a stream: its index and the index of the one that follows it, where the
chain's rate fixes that. -/
structure Mark where
  chan : Nat
  idx : Nat
  next : Option Nat
deriving DecidableEq, Repr

/-- One stream (spec/11). -/
structure StreamState where
  st : StrmSt := .idle
  adm : Nat := 0
  lateStart : Bool := false
  paired : Bool := false
  endCause : Nat := 0
  recovering : Bool := false
  /-- The Felt share S of R478 in units of 64 KiB, and the numbers of its units in the Felt, in order. -/
  share : Nat := 0
  units : List Nat := []
  /-- The start index in force, and q at the opening. -/
  start : Nat := 0
  /-- Records that wait for their turn (R473), and what has come from each channel. -/
  wait : List WaitRec := []
  marks : List Mark := []
  /-- The open quire: the full index of its first record, its slots. -/
  cur : List Slot := []
  curFirst : Nat := 0
  /-- Slots of the open quire that R357 wrote. -/
  curEcc : Nat := 0
  /-- One past the index of the newest record placed, or the start index. -/
  placed : Nat := 0
  /-- The sequence of the next quire; the newest sent and the last acknowledged (R484). -/
  nextSeq : Seq32 := 0
  sent : Seq32 := 0
  acked : Seq32 := 0
  /-- The tick count of the last advance of acked; a resend of the oldest quire has happened since (R486). -/
  ackAt : Nat := 0
  resent : Bool := false
  /-- Closed quires on their way to the Felt (R53), and the quires in the Felt, oldest first. -/
  queue : List FeltQuire := []
  felt : List FeltQuire := []
  /-- The tick count from which the admitted rate allows the next first sending (R461). -/
  paceAt : Nat := 0
  /-- The first index not retained (R489). -/
  lost : Nat := 0
  /-- The end quire has been made (R489, R491). -/
  finished : Bool := false
  /-- The stream waits for a quire boundary of the partner at or after this index (R494). -/
  joining : Option Nat := none
deriving DecidableEq, Repr

/-- The journal states of Table 11.11 that an entry can hold. -/
inductive JState where
  | new | started | step | done | aborted
deriving DecidableEq, Repr

/-- A journal entry (R499, Table 11.11) with the arguments that its execution needs and the level of the path at submission
(Table 18.4). -/
structure JEntry where
  seq : Seq32
  opcode : Nat
  st : JState
  k : Nat
  m : Nat
  status : Nat
  detail : Nat
  persistent : Bool
  interrupted : Bool
  path : Path
  args : List Word
  level : Nat
  /-- The end of Dusk at its limit left the command NEW: it waits for the next reset (R111). -/
  parked : Bool := false
deriving DecidableEq, Repr

/-- The command mailbox (R495 to R501). -/
structure CmdState where
  nextSeq : Seq32 := 1
  /-- The newest 256 accepted commands, oldest first. -/
  journal : List JEntry := []
deriving DecidableEq, Repr

-- reams

/-- The ream states of Table 12.3. -/
inductive ReamSt where
  | idle | prefill | waiting | post | holdoff | done | stopped
deriving DecidableEq, Repr

/-- A trigger candidate (R529): its index, the cause of Table 12.1, its origin, its place in the order of preference, and
pin_frac. -/
structure Cand where
  idx : Nat
  cause : Nat
  hub : Nat
  ream : Nat
  pref : Nat
  frac : Nat
deriving DecidableEq, Repr

/-- A record that a ream holds: full index, hub channel, record word. -/
structure ReamRec where
  idx : Nat
  chan : Nat
  word : Word
deriving DecidableEq, Repr

/-- A segment from its trigger to its header (Table 12.1). -/
structure Segment where
  number : Nat
  cand : Cand
  pre : List ReamRec
  post : List ReamRec := []
  /-- Post records taken so far by each channel, for spill. -/
  taken : List (Nat × Nat) := []
  /-- The greatest index of a post record taken. -/
  last : Nat := 0
  shortPre : Bool := false
  incomplete : Bool := false
  late : Bool := false
  viol : Nat := 0
  firstViol : Option (Nat × Nat × Nat) := none
  /-- A slot holds NODATA by R357. -/
  ecc : Bool := false
deriving DecidableEq, Repr

/-- One ream (spec/12). -/
structure ReamState where
  st : ReamSt := .idle
  cause : Nat := 0
  maskFail : Bool := false
  /-- The arming index n_a, and whether it has been reached. -/
  armIdx : Nat := 0
  started : Bool := false
  /-- Place and size in the Vat, in units of 64 KiB, and the bytes of the history ring with which it starts (R513). -/
  base : Nat := 0
  size : Nat := 0
  ring : Nat := 0
  /-- The history, newest first, and the index of the newest record of the trigger channel that has been evaluated. -/
  hist : List ReamRec := []
  evalIdx : Option Nat := none
  /-- The condition logic: an edge may fire (rising, falling), values for SLOPE, newest first, whether the last record lay
  inside the window, whether the flag condition held. -/
  rise : Bool := false
  fall : Bool := false
  vals : List Int := []
  inside : Option Bool := none
  held : Option Bool := none
  /-- The lowest candidate known (R529), the index at which WAITING began (R535), occurrences still to skip (R533). -/
  cand : Option Cand := none
  waitIdx : Nat := 0
  skip : Nat := 0
  /-- Segments decided, the index of the newest trigger, the segment in POST, segments whose header is not yet written. -/
  decided : Nat := 0
  trigIdx : Nat := 0
  seg : Option Segment := none
  headers : List Segment := []
  segDone : Nat := 0
  segLast : Nat := 0
deriving DecidableEq, Repr

-- the twin

/-- The pair states of STAT.pair (Table 20.7). -/
inductive Pair where
  | unpaired | pairing | snapshot | paired | lost | refused
deriving DecidableEq, Repr

/-- A handover in progress (R828 to R834): n_s, the band-update boundary of each engine, n_h*, the side of this member, the
engines done, the slots in FAULT of the old active member. -/
structure Handover where
  ns : Nat
  bounds : List Nat
  last : Nat
  losing : Bool
  done : List Nat := []
  faults : List HandoverFault := []
deriving DecidableEq, Repr

/-- The twin link (spec/20). -/
structure TwinState where
  pair : Pair := .unpaired
  refuse : Nat := 0
  /-- This member drives the outputs. -/
  active : Bool := false
  partnerAddr : Nat := 0xff
  partnerReady : Bool := false
  partnerActive : Bool := false
  /-- The ARBSEL level acted on. -/
  arbsel : Bool := false
  release : Bool := false
  hbCount : Nat := 0
  /-- Tick counts of the last L2 heartbeat, the last mirror frame and the last measurement of Δ. -/
  hbAt : Option Nat := none
  mirrorAt : Option Nat := none
  offsetAt : Option Nat := none
  handover : Option Handover := none
  /-- The tick count at pairing, for SNAP_STAT. -/
  pairedAt : Nat := 0
  /-- ARBSEL selects this member at n_s and no event of R830 has come yet. -/
  takeAt : Option Nat := none
  /-- The partner's stream positions (R826). -/
  positions : List StreamPos := []
  /-- δ of the latest take of the outputs (R831): by how many CLKT cycles the balls are driven after the tick edge. -/
  delta : Int := 0
deriving DecidableEq, Repr

-- motion

/-- The slot states of Table 14.3. -/
inductive SlotSt where
  | disabled | arming | run | fault
deriving DecidableEq, Repr

/-- One axis slot (spec/14). -/
structure SlotState where
  st : SlotSt := .disabled
  /-- The index of the commit that last changed AXr_CFG.en; the enable comes from the Ream image after a warm reset (R617). -/
  enIdx : Nat := 0
  imageEn : Bool := false
  /-- The index n_e of R614. -/
  armIdx : Nat := 0
  /-- The law acts on the legs: from the entry into RUN until the slot leaves RUN or a HOLD ends. -/
  lawOn : Bool := false
  /-- The legs' states, and whether a minimum-time hold of R607 runs on each. -/
  legs : List Bool := [false, false, false]
  holds : List Bool := [false, false, false]
  cause : Nat := 0
  reaction : Nat := 0
  /-- The index of the tick edge of the fault's detection (FAULT_IDX). -/
  faultIdx : Nat := 0
  /-- The newest raw record of each band channel: full index and record word; consecutive records with CLIP (R618). -/
  recs : List (Nat × Word) := [(0, 0x80000000), (0, 0x80000000), (0, 0x80000000)]
  clips : List Nat := [0, 0, 0]
  /-- The input block shows an edge fault. -/
  edgeFault : Bool := false
  /-- The cycle mark n_m (n_0 for mark 1), valid of the phase word, the counts of R633. -/
  mark : Option Nat := none
  rcValid : Bool := false
  rcLost : Nat := 0
  rcEarly : Nat := 0
deriving DecidableEq, Repr

-- axis engines

/-- The states of AEk.STAT.state (Table 13.11). -/
inductive EngRun where
  | halted | running | fault
deriving DecidableEq, Repr

/-- A vector register: four mantissas and the shared exponent (R548). -/
structure VReg where
  m : List Int := [0, 0, 0, 0]
  e : Int := -128
deriving DecidableEq, Repr

/-- What the scoreboard of R582 tracks: scalar, vector and accumulator registers, an accumulator as seen by VMAC into the
same ACC, P, M, TAG with ND. -/
inductive Res where
  | s (i : Nat) | v (i : Nat) | a (i : Nat) | c (i : Nat) | p | m | t
deriving DecidableEq, Repr

/-- The input block of a boundary: its index, the 64 words of Table 13.3, the four phase words of R565. -/
structure InBlock where
  idx : Nat := 0
  words : List Word := []
  phase : List Word := [0, 0, 0, 0]
deriving DecidableEq, Repr

/-- A running stage (Table 13.1, R546): event, program address, the first cycle on which the next instruction may issue,
the registers, the sticky flags, the scoreboard, the cycle on which its last band-edge word left, the input block it sees. -/
structure EngCtx where
  event : Nat
  pc : Nat
  /-- The twin role of the stage (Table 13.7, R836). -/
  role : Nat := 0
  free : Nat := 3
  s : List Word := List.replicate 16 0
  v : List VReg := List.replicate 16 {}
  acc : List VReg := List.replicate 4 {}
  p : BitVec 4 := 0
  m : BitVec 4 := 15
  tag : List (BitVec 8) := [0, 0, 0, 0]
  nd : BitVec 4 := 0
  ovf : BitVec 4 := 0
  unf : BitVec 4 := 0
  nodata : BitVec 4 := 0
  ready : List (Res × Nat) := []
  lastEdge : Nat := 0
  late : Bool := false
  block : InBlock
deriving DecidableEq, Repr

/-- An entry of an engine's staging list (R597): source, destination, length. -/
structure Staged where
  src : Nat
  dst : Nat
  len : Nat
deriving DecidableEq, Repr

/-- What the kernel keeps of the newest set-point entry consumed (R629): its index, position, velocity and feed-forward words,
and x_ref as a fraction; `seen` is false before the first entry. -/
structure SetPoint where
  seen : Bool := false
  entry : Nat := 0
  pos : Int := 0
  vel : Word := 0
  ff : Word := 0
  refNum : Int := 0
  refDen : Nat := 1
deriving DecidableEq, Repr

/-- One axis engine (spec/13). -/
structure EngineState where
  run : EngRun := .halted
  cause : Nat := 0
  /-- The pending events of Table 13.4. -/
  events : BitVec 6 := 0
  stage : Option EngCtx := none
  /-- The index at which op = 1 was accepted (R590). -/
  startIdx : Nat := 0
  /-- Op = 2 waits for the end of the running stage (R591). -/
  haltReq : Bool := false
  /-- Local SRAM by local byte address of its words; addresses with an uncorrectable error. -/
  sram : List (Nat × Word) := []
  bad : List Nat := []
  /-- Words of the partner that wait for the end of the running stage (R567, R842). -/
  fromTwin : List (Nat × Word) := []
  block : InBlock := {}
  /-- Cycles from the latest BU start event to cycle 0 of the running stage, and whether the engine has been busy since that
  event (OCCUPANCY). -/
  offset : Int := 0
  chain : Bool := false
  /-- Subscriptions of R564: entry words. -/
  subs : List Word := List.replicate 16 0
  staging : List Staged := []
  /-- The replay of R593 has still this many entries to run. -/
  replay : Nat := 0
  /-- Slots whose kernel holds i_cmd at 0 until a new seq comes (R630), and the kernel's working parameter sets (R624). -/
  follow : List Bool := [false, false, false, false]
  params : List (List Word) := [[], [], [], []]
  setpoint : List SetPoint := [{}, {}, {}, {}]
  /-- The first index of the newest machine cycle in which the kernel learned, per slot (rc_cycles). -/
  rcCycle : List (Option Nat) := [none, none, none, none]
deriving DecidableEq, Repr

-- edges and sensor ports

/-- An item of an edge queue (R660): the full index of its event, the second word that the queue holds, the record that R662 makes of
it, and what SECDED finds in that word. -/
structure EdgeItem where
  idx : Nat
  word : Word
  record : Word
  ecc : WordErr := .sound
deriving DecidableEq, Repr

/-- One edge channel (spec/15). Stamps are hub time in units of 1.25 ns / 256. -/
structure EdgeState where
  count : Word := 0
  /-- Counted edges within the velocity window, newest first: stamp and count after the edge. -/
  edges : List (Nat × Word) := []
  /-- The last edge counted up; the velocity of the last boundary in counts per second, as a fraction. -/
  up : Bool := true
  velNum : Int := 0
  velDen : Nat := 1
  zCount : Word := 0
  zIdx : Nat := 0
  armed : Bool := false
  referenced : Bool := false
  /-- The start stamp of an interval, the last interval. -/
  start : Option Nat := none
  interval : Nat := 0
  /-- The stamps of the last A edge and the last B edge (R649). -/
  phaseAt : List (Option Nat) := [none, none]
  quadErr : Bool := false
  ssiErr : Bool := false
  /-- The interpolators of A, B and Z (R645, R646): the code-density table in use, empty before the first one, and whether the last
  table failed. -/
  tables : List (List Nat) := [[], [], []]
  calFail : List Bool := [false, false, false]
  /-- A quadrature or SSI error since the last boundary, and the edge fault of the last boundary (R659). -/
  err : Bool := false
  fault : Bool := false
  /-- The edge queue; events discarded, and the index of the first (R661). -/
  queue : List EdgeItem := []
  lostAt : Option Nat := none
  dropped : Nat := 0
  ignored : Nat := 0
  /-- The next record carries SETL (Table 15.3). -/
  setl : Bool := false
  /-- The index at which the SSI transfer that runs started; the last two words. -/
  ssi : Option Nat := none
  words : List Word := []
deriving DecidableEq, Repr

/-- A sensor-port command in flight (R677). -/
structure SprtCmd where
  tag : Nat
  op : Nat
  args : List Word
  host : Bool
  chan : Nat
  /-- It goes out in the next downlink frame; resends so far; the frame that sent it last. -/
  due : Bool := true
  resends : Nat := 0
  sent : Nat := 0
deriving DecidableEq, Repr

/-- One sensor port (spec/15): delays in units of 2⁻⁸ ns. -/
structure SprtState where
  st : Nat := 0
  /-- Consecutive good frames with ready, consecutive bad frames. -/
  good : Nat := 0
  bad : Nat := 0
  rttSum : Nat := 0
  rttCount : Nat := 0
  delay : Int := 0
  adv : Int := 0
  /-- The number of the last downlink frame, and what it carried: tag, opcode, arguments. -/
  frame : Nat := 0
  down : Nat × Nat × List Word := (0, 0, [])
  /-- Running disparity positive: before and after the last downlink frame, after the last uplink frame (R665). -/
  downFrom : Bool := false
  downEnd : Bool := false
  upEnd : Bool := false
  /-- The newest frame whose sample instant has its records. -/
  recorded : Option Nat := none
  /-- The response data of IDENT, and the serial of the last RUN since cold reset. -/
  ident : List Byte := []
  runSerial : Option Word := none
  cmd : Option SprtCmd := none
  tag : Nat := 0
  /-- SET_CH still to send: channel, arguments; F_a of CONFIG. -/
  sets : List (Nat × List Word) := []
  fa : Nat := 0
  /-- Of each channel: the frame from which its CHj_CFG counts, and the word in force before it (R678). -/
  since : List Nat := List.replicate 24 0
  was : List Word := List.replicate 24 0
  /-- Channels whose SET_CH failed, with F_a (R681). -/
  refused : List (Nat × Nat) := []
  /-- Raw records still to be marked SETL, by channel, and the frame from which they are marked; a link was lost and no RUN has
  followed (R680). -/
  setl : List Nat := List.replicate 24 0
  setlAt : List Nat := List.replicate 24 0
  lost : Bool := false
  fault : Bool := false
  resp : Word := 0
  respData : List Word := [0, 0, 0, 0]
deriving DecidableEq, Repr

-- lighting

/-- One lighting chain (spec/16). -/
structure LiteState where
  /-- The level of the line between symbols: high outside frames while the length is not 0; the tick count since which it is high
  (R692); the tick count at which the last frame started (R698). -/
  line : Bool := false
  since : Nat := 0
  begun : Option Nat := none
  /-- The outputs of the frame that runs, driver 0 first, three per driver; the frames sent. -/
  frame : Option (List Nat) := none
  frames : Nat := 0
  /-- The tick count from which a frame of op = 1 starts; the start index of an op = 2. -/
  due : Option Nat := none
  sched : Option Nat := none
  /-- The temperature factors last computed, in units of 2⁻³¹, and whether they are held (R696, R697). -/
  factors : List Nat := [2147483648, 2147483648, 2147483648]
  hold : Bool := false
deriving DecidableEq, Repr

/-- One strobe (spec/16): armed, the indices of the firings to come, a pulse runs and the hub time of its inactive edge, the
counters. -/
structure StrobeState where
  armed : Bool := false
  fires : List Nat := []
  active : Bool := false
  endsAt : Nat := 0
  firings : Nat := 0
  late : Nat := 0
deriving DecidableEq, Repr

-- calibration, NV store, fuses, change journal

/-- Calibration (spec/18): consecutive agreeing band-gap comparisons since the failure, the per-input coefficients of the set
loaded at Dawn (R739), keyed as State.inCoefs, and the offsets and gains of the units beside the inputs (Table 18.1, R263): excitation
drivers with their sense converters 0 to 15, current sources A and B of the quads 16 to 79, AOUT 80 to 87, band comparators 88 to 183, the HKC 184. -/
structure CalState where
  agree : Nat := 0
  ref : List (Nat × (Int × Int)) := []
  units : List (Nat × (Int × Int)) := []
deriving DecidableEq, Repr

/-- A calibration field set (R749): the per-input coefficients, those of the units of CalState.units and the die temperatures of the
last run. -/
structure CalSet where
  coefs : List (Nat × (Int × Int))
  units : List (Nat × (Int × Int))
  temps : List Word
deriving DecidableEq, Repr

/-- A Ream image (R750): the device word, the table range, the address and value pairs of the registers, those of the
memories that R750 names, the programs of the engines, the bytes of the table range. -/
structure ReamImage where
  device : Word
  base : Nat
  len : Nat
  regs : List (Nat × Word)
  coef : List (Nat × BitVec 24)
  poly : List (Nat × Word)
  strmSel : List (Nat × Word)
  captSel : List (Nat × Word)
  subs : List (List Word)
  addrTable : List (Nat × Nat)
  levels : List (Nat × Nat)
  progs : List (List (Nat × Word))
  table : List Byte
deriving DecidableEq, Repr

/-- A slot of a two-slot object (R744): the generation and the commit word of its header, where it has one; the CRC of the header
matches the content; the content. -/
structure NvSlot (α : Type) where
  gen : Seq32
  commit : Option Seq32
  crcOk : Bool
  content : α
deriving DecidableEq, Repr

/-- The NV store (R742 to R748): the two slots of each object; one never written holds nothing. -/
structure NvState where
  cal : List (Option (NvSlot CalSet)) := [none, none]
  ream : List (Option (NvSlot ReamImage)) := [none, none]
deriving DecidableEq, Repr

/-- A write slot of a fuse field (R755). -/
inductive FuseSlot where
  | blank
  | written (v : Nat)
  | void
deriving DecidableEq, Repr

/-- An entry of the change journal (Table 18.4): its sequence, words 1 to 6, and whether it is of Safety level. -/
structure ChangeEntry where
  seq : Seq32
  words : List Word
  safety : Bool
deriving DecidableEq, Repr

/-- The change journal (R768 to R771), oldest entry first. -/
structure ChangeJournal where
  next : Seq32 := 1
  entries : List ChangeEntry := []
deriving DecidableEq, Repr

-- safety

/-- A pair of safe inputs (R783, R786, R791): its fault, whether both channels have read low together since; the start-up
test, 0 to do, 1 both low, 2 complete; the tick count at which channel A of a reset pair rose. -/
structure SafePair where
  fault : Bool := false
  low : Bool := false
  test : Nat := 0
  since : Option Nat := none
deriving DecidableEq, Repr

/-- An output (R787 to R795): the SFC keeps it on; it waits for a reset; a switch test runs, of the high side or not, a demand
has met it, the next one tests the low side; the SS1 timer, its start, the speed at the demand, cycles below VSTOP;
the readbacks. -/
structure SafeOut where
  on : Bool := false
  waiting : Bool := false
  test : Option Bool := none
  hit : Bool := false
  nextLow : Bool := false
  ss1 : Bool := false
  ss1At : Nat := 0
  v0 : Nat := 0
  slow : Nat := 0
  hsfb : Bool := false
  lsfb : Bool := false
deriving DecidableEq, Repr

/-- A monitor (R796 to R798): the counts of the last five SFC cycles, newest first, of the primary and the check channel, x_0
while it is active, cycles with a deviation, a violation. -/
structure SafeMon where
  prim : List Word := []
  chk : List Word := []
  x0 : Option Word := none
  bad : Nat := 0
  violated : Bool := false
deriving DecidableEq, Repr

/-- A SafeFrame connection (R800 to R807): the sequence sent or last accepted, the fail-safe cause, data byte 0, the counters,
the tick counts of CRC failures, frames accepted since op = 2. -/
structure SafeConn where
  seq : Seq32 := 0
  last : Option Seq32 := none
  cause : Nat := 0
  data : Nat := 0
  accepted : Nat := 0
  crcAt : List Nat := []
  crc : Nat := 0
  dup : Nat := 0
  time : Nat := 0
  reset : Option Nat := none
deriving DecidableEq, Repr

/-- The safety functions (spec/19): the filtered levels of SI0 to SI15, the values held over test pulses, whether a channel has
read low in the pulse that runs, the TP pulses, the SFC's life signal, an HSL configuration that differs. -/
structure SafeState where
  si : List Bool := List.replicate 16 false
  held : List (Option Bool) := List.replicate 16 none
  sawLow : List Bool := List.replicate 16 false
  tp : List Bool := [false, false, false, false]
  life : Bool := false
  cfgBad : Bool := false
  mismatch : Bool := false
  pairs : List SafePair := List.replicate 8 {}
  outs : List SafeOut := List.replicate 4 {}
  mons : List SafeMon := List.replicate 8 {}
  conns : List SafeConn := List.replicate 32 {}
deriving DecidableEq, Repr

/-- The state of one hub. -/
structure State where
  /-- The commands that wait, first in, first out. -/
  pending : List Instr := []
  /-- The registers in force: entries that differ from their reset values (spec/04 to spec/21). -/
  regs : List (Nat × Word) := []
  /-- The shadows of RWS registers that hold an unapplied write (R147). -/
  shadow : List (Nat × Word) := []
  pages : List (Nat × PageInfo) := []
  pwr : PwrState := {}
  clk : ClkState := {}
  pins : PinState := {}
  /-- The instruction in force in the test access port (R71, R72). -/
  tap : TapInstr := .idcode
  gc : List Ball := List.replicate 144 {}
  gen : List Ball := List.replicate 12 {}
  host : HostState := {}
  inputs : List InputState := List.replicate 128 {}
  exc : List ExcState := List.replicate 16 {}
  cores : List CoreState := List.replicate 32 {}
  bands : List BandState := List.replicate 96 {}
  hkc : HkcState := {}
  /-- The corrected and uncorrectable counters of the queues of Table 8.6, by queue number (R355, R357). -/
  queueEcc : List (Nat × (Nat × Nat)) := []
  aout : List AoState := List.replicate 8 {}
  /-- The per-input, per-range coefficients held by calibration (R249, Table 18.1) by 8 × input + range: the offset in units
  of 1/16 LSB and the gain in units of 2⁻³⁰. -/
  inCoefs : List (Nat × (Int × Int)) := []
  chains : List ChainState := List.replicate 320 {}
  flt : FltState := {}
  time : TimeState := {}
  lanes : List LaneState := List.replicate 4 {}
  ring : RingState := {}
  adm : AdmState := {}
  /-- The root's address table (R448) by address: a serial. -/
  addrTable : List (Nat × Nat) := []
  /-- The frames that the hub has sent, oldest first. -/
  sent : List TxFrame := []
  streams : List StreamState := List.replicate 64 {}
  /-- The channel selections of the streams, by 12 × stream + word. -/
  strmSel : List (Nat × Word) := []
  /-- The Vat outside the Felt, whose quires stand in `streams`: an unlisted byte reads as 0. -/
  vat : List Host.Cell := []
  cmd : CmdState := {}
  reams : List ReamState := List.replicate 16 {}
  /-- The channel selections of the reams, by 12 × ream + word, and the newest not-sampled intervals of this hub. -/
  captSel : List (Nat × Word) := []
  gaps : List (Nat × Nat) := []
  twin : TwinState := {}
  slots : List SlotState := List.replicate 48 {}
  engines : List EngineState := List.replicate 12 {}
  edges : List EdgeState := List.replicate 64 {}
  sports : List SprtState := List.replicate 8 {}
  lites : List LiteState := List.replicate 8 {}
  /-- The level memory by 1024 × chain + 4 × driver + colour. -/
  levels : List (Nat × Nat) := []
  strobes : List StrobeState := List.replicate 8 {}
  cal : CalState := {}
  nv : NvState := {}
  /-- The fuse fields of Table 18.3, four write slots each. -/
  fuses : List (List FuseSlot) := List.replicate 4 (List.replicate 4 .blank)
  changes : ChangeJournal := {}
  safe : SafeState := {}
  /-- Inputs whose band comparators failed their trim at BIST (Table 21.2). -/
  badBands : List Nat := []
  /-- The factory serial (Table 4.12) and the ordering code: true for an EDY5384-SB (Table 0.1). -/
  serial : Nat := 1
  partSB : Bool := true
  /-- Draws of free values so far: the argument of the next one. -/
  freeCtr : Nat := 0
deriving DecidableEq, Repr

/-- The hub right after the application of VBK (R103): a cold reset, waiting for the power-good instant. -/
def State.reset : State := {}

end Sys2Proof.Machine
end

