-- ==== Sys2Proof/Machine/Ops.lean ====
section
/-!
DEFINITION. The named operations over the registers and the state that every block shares: bit fields, rounding, reading
and writing registers, events, refusals and their order (R876), counters, sample index and grid.
Marked choices: DESIGN CHOICE, log entries 6, 18, 25, 26, 78; DEDUCED, log entries 33, 36, 71, 72.
-/
namespace Sys2Proof.Machine

-- bit fields and rounding

/-- Bits [lo + n − 1 : lo] of a word, as a number. -/
def fld (w : Word) (lo n : Nat) : Nat := (w.toNat >>> lo) % 2 ^ n

/-- Bit `i` of a word. -/
def bit (w : Word) (i : Nat) : Bool := w.getLsbD i

/-- A number below 2 ^ n read in two's complement. -/
def signExt (n : Nat) (x : Nat) : Int := if x < 2 ^ (n - 1) then x else (x : Int) - 2 ^ n

/-- Bits [lo + n − 1 : lo] of a word, read in two's complement. -/
def sfld (w : Word) (lo n : Nat) : Int := signExt n (fld w lo n)

/-- The word with bits [lo + n − 1 : lo] replaced by the low n bits of `v`. -/
def setFld (w : Word) (lo n v : Nat) : Word :=
  BitVec.ofNat 32 (w.toNat - (fld w lo n) * 2 ^ lo + (v % 2 ^ n) * 2 ^ lo)

/-- A word with bit `i` set where `b` holds. -/
def bitW (i : Nat) (b : Bool) : Word := if b then BitVec.ofNat 32 (2 ^ i) else 0

/-- A word from a number, modulo 2³². -/
def word (n : Nat) : Word := BitVec.ofNat 32 n

/-- A word from an integer, modulo 2³². -/
def wordI (i : Int) : Word := BitVec.ofInt 32 i

/-- A number for a truth value. -/
def b2n (b : Bool) : Nat := if b then 1 else 0

/-- The word whose bit `i` is entry `i` of the list. -/
def bitsWord (l : List Bool) : Word := word (l.foldr (fun b a => 2 * a + b2n b) 0)

/-- Division rounded to nearest with ties away from zero (R249, R284, R287, R315, R326). -/
def roundAway (n : Int) (d : Nat) : Int :=
  if 0 ≤ n then ((2 * n + d) / (2 * d : Int)) else -((2 * (-n) + d) / (2 * d : Int))

/-- Division rounded to nearest with ties to even (R312). -/
def roundEven (n : Int) (d : Nat) : Int :=
  let q := n / (d : Int)
  let r := n % (d : Int)
  if 2 * r < d then q else if (d : Int) < 2 * r then q + 1 else if q % 2 = 0 then q else q + 1

/-- Division rounded up. -/
def ceilDiv (n d : Nat) : Nat := (n + d - 1) / d

/-- An integer held within `lo` and `hi`. -/
def clampI (lo hi x : Int) : Int := if x < lo then lo else if hi < x then hi else x

/-- An integer held within the range of an n-bit two's-complement register. -/
def satS (n : Nat) (x : Int) : Int := clampI (-(2 ^ (n - 1))) (2 ^ (n - 1) - 1) x

/-- Two's complement addition in 96 bits (R284). -/
def wrap96 (x : Int) : Int :=
  let m := x % (2 ^ 96 : Int)
  if m < 2 ^ 95 then m else m - 2 ^ 96

/-- The first entry that is present. -/
def firstSome {α : Type} (l : List (Option α)) : Option α := l.findSome? id

/-- The largest integer whose square is at most `n`, by bisection from the bit length down. -/
def isqrtAux (n : Nat) : Nat → Nat → Nat
  | 0, r => r
  | k + 1, r => if (r + 2 ^ k) * (r + 2 ^ k) ≤ n then isqrtAux n k (r + 2 ^ k) else isqrtAux n k r

/-- Integer square root of a number below 2 ^ 96. -/
def isqrt (n : Nat) : Nat := isqrtAux n 48 0

-- register map

/-- The page of a byte address, and the offset within it. -/
def pageOf (a : Nat) : Nat := a / 0x1000
def offOf (a : Nat) : Nat := a % 0x1000

/-- A row covers an offset when one of its instances lies there. -/
def RegRow.hits (r : RegRow) (o : Nat) : Bool :=
  decide (r.off ≤ o ∧ (o - r.off) % r.stride = 0 ∧ (o - r.off) / r.stride < r.count)

/-- Offsets that exist on some pages of a block only: the driver registers on even FQ pages (R239), the band registers on
CC0 to CC23 (R276), COEF_ADDR to MAC_LOAD on page 0x060 (R332). -/
def offPresent (b : Blk) (inst o : Nat) : Bool :=
  match b with
  | .fq => decide (o < 0x70 ∨ 0x7c ≤ o ∨ inst % 2 = 0)
  | .cc => decide (o < 0x60 ∨ inst < 24)
  | .flt => decide (0x100 ≤ o ∨ inst = 0)
  | _ => true

/-- The row of the register at byte address `a`, if one stands there. -/
def rowAt (a : Nat) : Option RegRow :=
  match blkOfPage (pageOf a) with
  | none => none
  | some (b, inst) =>
    if offPresent b inst (offOf a) then (rowsOf b).find? (fun r => r.hits (offOf a)) else none

/-- The type code of a block (Table 4.2). -/
def typeCode : Blk → Nat
  | .sys => 0x01 | .host => 0x02 | .pwr => 0x03 | .clk => 0x04 | .fq => 0x10 | .cc => 0x11 | .hkc => 0x12
  | .aout => 0x13 | .flt => 0x18 | .time => 0x20 | .ptp => 0x21 | .lane => 0x28 | .ring => 0x29 | .strm => 0x30
  | .cmd => 0x31 | .vat => 0x32 | .capt => 0x38 | .ae => 0x40 | .mot => 0x41 | .edge => 0x48 | .sprt => 0x49
  | .lite => 0x50 | .zip => 0x58 | .cal => 0x60 | .nvm => 0x61 | .fuse => 0x62 | .jrnl => 0x63 | .safe => 0x70
  | .twin => 0x78

/-- The block type of a page, 0 for an absent page. -/
def pageType (p : Nat) : Nat :=
  match blkOfPage p with
  | some (b, _) => typeCode b
  | none => 0

/-- The header registers of Table 4.3, laid out in the order of the table from offset 0: a design choice, since the spec
gives no offsets inside the header. -/
abbrev Hdr.PAGE_ID : Nat := 0x00
abbrev Hdr.PAGE_CTRL : Nat := 0x04
abbrev Hdr.PAGE_STAT : Nat := 0x08
abbrev Hdr.EVT : Nat := 0x0c
abbrev Hdr.EVT_EN : Nat := 0x10
abbrev Hdr.ERRCODE : Nat := 0x14
abbrev Hdr.ACCESS : Nat := 0x18
abbrev Hdr.COMMIT : Nat := 0x1c
abbrev Hdr.APPLY_AT_LO : Nat := 0x20
abbrev Hdr.APPLY_AT_HI : Nat := 0x24
abbrev Hdr.SHADOW_STAT : Nat := 0x28

/-- The address of a header register of page `p`. -/
def hdr (p o : Nat) : Nat := p * 0x1000 + o

/-- What a register holds after reset, before any image: the value of its row; PAGE_CTRL.enable is 1 (a design choice, the
table gives the Ream image as its source). -/
def resetOf (a : Nat) : Word :=
  if offOf a = Hdr.PAGE_CTRL ∧ (blkOfPage (pageOf a)).isSome then 1
  else match rowAt a with
    | some r => r.reset
    | none => 0

/-- The value in force of the register at `a`. -/
def rd (s : State) (a : Nat) : Word := sparseGet s.regs (resetOf a) a

/-- The state with the register at `a` holding `v`. -/
def wr (s : State) (a : Nat) (v : Word) : State := { s with regs := sparsePut s.regs (resetOf a) a v }

/-- Field of the register at `a`. -/
def rdf (s : State) (a lo n : Nat) : Nat := fld (rd s a) lo n

/-- Bit of the register at `a`. -/
def rdb (s : State) (a i : Nat) : Bool := bit (rd s a) i

/-- The 64-bit value of a _LO and _HI pair, _HI at the next address. -/
def rd64 (s : State) (lo : Nat) : Nat := (rd s lo).toNat + 2 ^ 32 * (rd s (lo + 4)).toNat

/-- The state with a 64-bit value in a _LO and _HI pair. -/
def wr64 (s : State) (lo v : Nat) : State := wr (wr s lo (word v)) (lo + 4) (word (v / 2 ^ 32))

/-- A shadow as a write left it, or the value in force (R147). -/
def rdShadow (s : State) (a : Nat) : Word := sparseGet s.shadow (rd s a) a

/-- A field that counts up and saturates. -/
def bumpSat (s : State) (a lo n k : Nat) : State :=
  wr s a (setFld (rd s a) lo n (min (rdf s a lo n + k) (2 ^ n - 1)))

/-- A field that counts up and wraps. -/
def bumpWrap (s : State) (a lo n k : Nat) : State := wr s a (setFld (rd s a) lo n (rdf s a lo n + k))

/-- The state after one draw of a free value: the next draw has another argument. -/
def drawn (s : State) : State := { s with freeCtr := s.freeCtr + 1 }

/-- Sets one event flag of a page (Table 4.3). -/
def evt (s : State) (page i : Nat) : State := wr s (hdr page Hdr.EVT) (rd s (hdr page Hdr.EVT) ||| bitW i true)

/-- Sets one event flag of a page where `c` holds. -/
def evtIf (c : Bool) (s : State) (page i : Nat) : State := if c then evt s page i else s

/-- The block of a page is enabled (Table 4.3). -/
def blkOn (s : State) (page : Nat) : Bool := rdb s (hdr page Hdr.PAGE_CTRL) 0

-- pages of single-page blocks
abbrev pgSYS : Nat := 0x000
abbrev pgHOST : Nat := 0x001
abbrev pgPWR : Nat := 0x002
abbrev pgCLK : Nat := 0x003
abbrev pgFQ (q : Nat) : Nat := 0x010 + q
abbrev pgCC (q : Nat) : Nat := 0x030 + q
abbrev pgHKC : Nat := 0x050
abbrev pgAOUT : Nat := 0x051
abbrev pgFLT (i : Nat) : Nat := 0x060 + i
abbrev pgTIME : Nat := 0x090
abbrev pgPTP (d : Nat) : Nat := 0x091 + d
abbrev pgLANE (l : Nat) : Nat := 0x098 + l
abbrev pgRING : Nat := 0x09c
abbrev pgSTRM : Nat := 0x0a0
abbrev pgCMD : Nat := 0x0a1
abbrev pgVAT : Nat := 0x0a2
abbrev pgCAPT : Nat := 0x0a8
abbrev pgAE (k : Nat) : Nat := 0x0b0 + k
abbrev pgMOT : Nat := 0x0bc
abbrev pgEDGE (i : Nat) : Nat := 0x0c0 + i
abbrev pgSPRT (p : Nat) : Nat := 0x0c8 + p
abbrev pgLITE : Nat := 0x0d0
abbrev pgZIP : Nat := 0x0d8
abbrev pgCAL : Nat := 0x0e0
abbrev pgNVM : Nat := 0x0e1
abbrev pgFUSE : Nat := 0x0e2
abbrev pgJRNL : Nat := 0x0e3
abbrev pgSAFE : Nat := 0x0f0
abbrev pgTWIN : Nat := 0x0f8

-- what pages remember

/-- What page `p` remembers beside its registers. -/
def pinfo (s : State) (p : Nat) : PageInfo := sparseGet s.pages {} p

/-- The state with a change to what page `p` remembers. -/
def onPage (s : State) (p : Nat) (f : PageInfo → PageInfo) : State :=
  { s with pages := sparsePut s.pages {} p (f (pinfo s p)) }

/-- The shadows of page `p` that hold an unapplied write. -/
def pageShadow (s : State) (p : Nat) : List (Nat × Word) := s.shadow.filter (fun e => pageOf e.1 = p)

/-- A commit is scheduled on page `p` (SHADOW_STAT.scheduled). -/
def scheduled (s : State) (p : Nat) : Bool := (pinfo s p).sched.isSome

-- access paths

/-- The place of a path among the nine of HostState. -/
def pathIdx : Path → Nat
  | .spi => 0
  | .sess i => i.val + 1

/-- What the hub holds for a path. -/
def pathOf (s : State) (p : Path) : PathState := s.host.paths.getD (pathIdx p) {}

/-- The state with a change to one path. -/
def onPath (s : State) (p : Path) (f : PathState → PathState) : State :=
  { s with host := { s.host with paths := s.host.paths.modify (pathIdx p) f } }

-- refusals

/-- A reason of Table 4.4 or of a block, with the detail that the reason names (R142). -/
structure Rej where
  reason : Nat
  detail : Option Nat := none
deriving DecidableEq, Repr

abbrev Rsn.ZERO : Nat := 0x01
abbrev Rsn.RANGE : Nat := 0x02
abbrev Rsn.LEVEL : Nat := 0x03
abbrev Rsn.BUSY : Nat := 0x04
abbrev Rsn.LOCKED : Nat := 0x05
abbrev Rsn.RO : Nat := 0x06
abbrev Rsn.PAST : Nat := 0x07
abbrev Rsn.PENDING : Nat := 0x08
abbrev Rsn.PART : Nat := 0x09
abbrev Rsn.NOCODE : Nat := 0x0a
abbrev Rsn.ADDR : Nat := 0x0b
abbrev Rsn.NOGRID : Nat := 0x0c

/-- A refusal where `c` holds. -/
def rejIf (c : Bool) (r : Nat) : Option Rej := if c then some ⟨r, none⟩ else none

/-- Who asks: a path, or none for the Ream image (R753). -/
abbrev Who := Option Path

/-- The ERRCODE word of a refusal (R142): the named detail, or offset and count. A reason above 255 brings a block type of its own
along, that of the chapter which names it. -/
def errWord (typ off count : Nat) (r : Rej) : Word :=
  let own := if r.reason < 256 then r.reason + typ * 2 ^ 8 else r.reason
  match r.detail with
  | some d => word (own + (d % 2 ^ 16) * 2 ^ 16)
  | none => word (own + (off % 2 ^ 12) * 2 ^ 16 + (min count 15) * 2 ^ 28)

/-- The refusal of a word at address `a`, reported on page `p` (R25, R138, Table 4.3). -/
def refuseOn (s : State) (w : Who) (p a : Nat) (r : Rej) : State :=
  let cnt := min 15 ((pinfo s p).errCount + 1)
  let s := onPage s p (fun i => { i with errCount := cnt })
  let e := errWord (pageType p) (offOf a) cnt r
  let s := wr s (hdr p Hdr.ERRCODE) e
  let s := if p = pgHOST then wr s HOST.ERR_ADDR (word a) else s
  match w with
  | none => s
  | some q =>
    let s := onPath s q (fun t => { t with err := true, lastErr := e, lastNamed := r.detail.isSome })
    match q with
    | .spi => bumpSat s HOST.REFUSED_COUNT 0 16 1
    | .sess _ => s

/-- The refusal of a write to the register at `a`, on its own page; ADDR is reported in HOST.ERRCODE (R138). -/
def refuse (s : State) (w : Who) (a : Nat) (r : Rej) : State :=
  refuseOn s w (if r.reason = Rsn.ADDR then pgHOST else pageOf a) a r

/-- A register-page function that is refused where a check fails, and acts otherwise. -/
def checked (s : State) (w : Who) (a : Nat) (c : Option Rej) (act : State → State) : State :=
  match c with
  | some r => refuse s w a r
  | none => act s

-- field checks

/-- The value of a checked field. -/
def Check.val (c : Check) (v : Word) : Int := if c.signed then sfld v c.lo c.width else fld v c.lo c.width

/-- The ZERO refusal of a field (R24). -/
def Check.zeroRej (c : Check) (v : Word) : Option Rej :=
  rejIf (decide (c.val v = 0 ∧ c.zero = .reject)) Rsn.ZERO

/-- The RANGE refusal of a field. -/
def Check.rangeRej (c : Check) (v : Word) : Option Rej :=
  rejIf (decide (¬ (c.val v = 0 ∧ c.zero = .allow) ∧ (c.val v < c.min ∨ c.max < c.val v))) Rsn.RANGE

/-- The ZERO and RANGE checks of a register, ZERO first (R876). -/
def fieldRej (r : RegRow) (v : Word) : Option Rej :=
  firstSome (r.checks.map (fun c => c.zeroRej v) ++ r.checks.map (fun c => c.rangeRej v))

/-- The checks that a block's own chapter adds to a write or a commit, in their places in the order of R876. -/
structure Chk where
  busy : Option Rej := none
  grid : Option Rej := none
  zero : Option Rej := none
  range : Option Rej := none
  spec : Option Rej := none
deriving DecidableEq, Repr

/-- What a write of `v` leaves in a register that held `old`: reserved bits are ignored (R146). -/
def merge (mask old v : Word) : Word := (old &&& ~~~ mask) ||| (v &&& mask)

-- hub time and the sample grid

/-- One tick, 100 ns, in units of 2⁻¹⁶ ns. -/
def tickLen : Nat := 6553600

/-- One CLKT period, 1.25 ns, in units of 2⁻¹⁶ ns. -/
def clktLen : Nat := 81920

/-- E of R404, in ticks. -/
def epoch (s : State) : Nat := rd64 s TIME.GRID_EPOCH_LO

/-- The sample index of a hub time (R404), modulo 2⁶⁴. -/
def indexAt (s : State) (ht : Nat) : Nat := (ht / tickLen + (2 ^ 64 - epoch s % 2 ^ 64)) % 2 ^ 64

/-- The present sample index (R27, R404). -/
def now (s : State) : Nat := indexAt s s.time.ht

/-- The index of the first tick edge at or after a hub time. -/
def edgeFrom (s : State) (ht : Nat) : Nat := indexAt s (ht + (tickLen - 1))

/-- The newest part of a list of dated things, newest first: those that a look back from index `n` can need (R309 looks back the
furthest, by 1.023 s), and one older. -/
def keepSince {α : Type} (at_ : α → Nat) (n : Nat) (l : List α) : List α :=
  l.takeWhile (fun e => decide (n < at_ e + 10230000)) ++ (l.dropWhile (fun e => decide (n < at_ e + 10230000))).take 1

/-- Hub time stands on a tick edge: after a step to a place between two edges, the edge of the present index is stepped over, and
nothing that belongs to a tick edge happens before the next one (R154, R323, R875). -/
def atTick (s : State) : Bool := decide (s.time.ht % tickLen = 0)

/-- The domain that steers F, and its state. -/
def trackedDom (s : State) : DomainState := s.time.doms.getD (b2n s.time.tracked) {}

/-- The servo state of the tracked domain. -/
def servo (s : State) : Servo := (trackedDom s).servo

/-- Hub time has a valid sample grid (R409). -/
def gridValid (s : State) : Bool :=
  s.time.gridStarted && (match servo s with
    | .locked => true | .holdover => true | .grandmaster => true
    | .unknown => false | .seeded => false | .acquire => false | .freerun => false)

/-- The place of a rail in Table 3.1. -/
def railIdx : Rail → Nat
  | .vdd09 => 0 | .vdd11m => 1 | .vdd12l => 2 | .vddio18 => 3 | .vdda18 => 4 | .vafe50 => 5 | .vbk => 6

def railOk (s : State) (r : Rail) : Bool := s.pwr.rails.getD (railIdx r) false

/-- The time PLL is locked: VDDA18 supplies it (Tables 3.2 and 3.4). -/
def timePllOk (s : State) : Bool := s.clk.timePll && railOk s .vdda18

/-- Every clock and PLL of R99 is present and locked. -/
def clocksOk (s : State) : Bool := s.clk.xsys && s.clk.xtime && s.clk.corePll && s.clk.memPll && timePllOk s

/-- A warm reset is held by a rail or a clock (Table 3.2, R99). -/
def warmHeld (s : State) : Bool := !(railOk s .vdda18 && railOk s .vafe50 && clocksOk s)

/-- The sample-and-holds fire: the grid has started (R408), no warm reset holds sampling (R120), the hub runs. -/
def sampling (s : State) : Bool :=
  s.time.gridStarted && !s.time.held && (match s.pwr.st with
    | .noon => true | .dusk => true | .twilight => true | .dawn => true
    | .vbkAbsent => false | .midnight => false | .reset => false | .factoryTest => false)

/-- The hub is in Twilight. -/
def inTwilight (s : State) : Bool := decide (s.pwr.st = .twilight)

/-- Records one nFAULT cause of FAULT_SRC (R129). -/
def faultSrc (s : State) (i : Nat) : State := wr s PWR.FAULT_SRC (rd s PWR.FAULT_SRC ||| bitW i true)

/-- A reason of the block of page `g`, for the ERRCODE of a page of another block. -/
def foreignRsn (g r : Nat) : Nat := r + 256 * pageType g

/-- The compensated timestamp of an edge on a TRIGIN or SYNC ball, in units of 2⁻⁶ ns (R45): two CLKT cycles earlier. -/
def pinStamp (raw : Nat) : Nat := raw - 160

/-- One tick in stamp units of 1.25 ns / 256. -/
def stampTick : Nat := 20480

/-- The sample index of a stamp (R48). -/
def stampIdx (s : State) (t : Nat) : Nat := (t / stampTick + (2 ^ 64 - epoch s % 2 ^ 64)) % 2 ^ 64

-- queues

/-- Counts errors of a queue (R355, R357, R363): the queue's own counters, the totals, the events. -/
def queueError (s : State) (q corr unc : Nat) : State :=
  let o := sparseGet s.queueEcc (0, 0) q
  let n := (min 65535 (o.1 + corr), min 255 (o.2 + unc))
  let s := { s with queueEcc := sparsePut s.queueEcc (0, 0) q n }
  let s := bumpSat (bumpSat s SYS.QUEUE_ECC_TOTAL 0 16 corr) SYS.QUEUE_ECC_TOTAL 16 16 unc
  let s := evtIf (decide (0 < unc)) s pgSYS 0
  evtIf (decide (n.1 = 65535 ∧ o.1 < 65535)) s pgSYS 1

/-- A word of queue `q` is read (R355, R357): a single error is corrected and counted; in place of a word with a double error, which
is counted, the consumer has `lost`, and a draw of a free value is spent. -/
def fromQueue (s : State) (q : Nat) (e : WordErr) (w lost : Word) : State × Word :=
  match e with
  | .sound => (s, w)
  | .corrected => (queueError s q 1 0, w)
  | .uncorrectable => (drawn (queueError s q 0 1), lost)

/-- A pin timestamp as its queue gives it up (Table 8.6): one with a double error is a free value. -/
def readStamp (s : State) (e : WordErr) (stamp : Nat) : State × Nat :=
  match e with
  | .sound => (s, stamp)
  | .corrected => (queueError s 0xc0 1 0, stamp)
  | .uncorrectable => (drawn (queueError s 0xc0 0 1), (Config.freeWord s.freeCtr).toNat)

-- byte orders

/-- The bytes of a word in little-endian order (R22). -/
def busBytes (w : Word) : List Byte := [w.extractLsb' 0 8, w.extractLsb' 8 8, w.extractLsb' 16 8, w.extractLsb' 24 8]

/-- The bytes of a word as numbers, least significant first. -/
def wordBytes (w : Word) : List Nat := [fld w 0 8, fld w 8 8, fld w 16 8, fld w 24 8]

/-- A reflected CRC of 32 bits with polynomial `p` over one byte. -/
def crcByte (p c b : Nat) : Nat :=
  (List.range 8).foldl (fun c _ => if c % 2 = 1 then Nat.xor (c / 2) p else c / 2) (Nat.xor c b)

/-- A reflected CRC of 32 bits over bytes, with initial value and final inversion of all ones. -/
def crcOf (p : Nat) (bytes : List Nat) : Nat := Nat.xor (bytes.foldl (crcByte p) 0xffffffff) 0xffffffff

/-- CRC-32C (R666). -/
def crc32c (bytes : List Nat) : Nat := crcOf 0x82f63b78 bytes

/-- The number that bytes spell, most significant first. -/
def netNat (l : List Byte) : Nat := l.foldl (fun a b => 256 * a + b.toNat) 0

/-- The `n` bytes of a field of a frame, most significant byte first (R23). -/
def netBytes (n v : Nat) : List Byte := (List.range n).map (fun i => BitVec.ofNat 8 (v / 2 ^ (8 * (n - 1 - i))))

end Sys2Proof.Machine
end

