-- ==== Sys2Proof/Machine/F32.lean ====
section
/-!
DEFINITION. IEEE 754 binary32 as the polynomial unit uses it (R306): decoding, rounding to nearest even, the fused
multiply-add, and the conversion of a result to a record value (R312).
-/
namespace Sys2Proof.Machine

/-- A binary32 value: NaN, a signed infinity, or ±m × 2^e. -/
inductive F32 where
  | nan
  | inf (neg : Bool)
  | fin (neg : Bool) (m : Nat) (e : Int)
deriving DecidableEq, Repr

/-- The value of a binary32 word. -/
def F32.ofWord (w : Word) : F32 :=
  let neg := bit w 31
  let ex := fld w 23 8
  let fr := fld w 0 23
  if ex = 255 then (if fr = 0 then .inf neg else .nan)
  else if ex = 0 then .fin neg fr (-149)
  else .fin neg (fr + 2 ^ 23) ((ex : Int) - 150)

/-- ±m × 2^e rounded to 24 significant bits, ties to even, with gradual underflow and overflow to infinity. -/
def F32.round (neg : Bool) (m : Nat) (e : Int) : F32 :=
  if m = 0 then .fin neg 0 (-149)
  else
    let top := max (e + (m.log2 : Int) - 23) (-149)
    let mant : Nat := if top ≤ e then m * 2 ^ (e - top).toNat else (roundEven m (2 ^ (top - e).toNat)).toNat
    let r := if mant = 2 ^ 24 then ((2 ^ 23 : Nat), top + 1) else (mant, top)
    if 2 ^ 23 ≤ r.1 ∧ 104 < r.2 then .inf neg else .fin neg r.1 r.2

/-- a × b + c, rounded once (R306). -/
def F32.fma (a b c : F32) : F32 :=
  match a, b, c with
  | .nan, _, _ => .nan
  | _, .nan, _ => .nan
  | _, _, .nan => .nan
  | .inf na, .inf nb, .inf nc => if (na != nb) = nc then .inf nc else .nan
  | .inf na, .inf nb, .fin _ _ _ => .inf (na != nb)
  | .inf na, .fin nb mb _, .inf nc => if mb = 0 then .nan else if (na != nb) = nc then .inf nc else .nan
  | .inf na, .fin nb mb _, .fin _ _ _ => if mb = 0 then .nan else .inf (na != nb)
  | .fin na ma _, .inf nb, .inf nc => if ma = 0 then .nan else if (na != nb) = nc then .inf nc else .nan
  | .fin na ma _, .inf nb, .fin _ _ _ => if ma = 0 then .nan else .inf (na != nb)
  | .fin _ _ _, .fin _ _ _, .inf nc => .inf nc
  | .fin na ma ea, .fin nb mb eb, .fin nc mc ec =>
    let ep := ea + eb
    let lo := min ep ec
    let p : Int := ((ma * mb : Nat) : Int) * 2 ^ (ep - lo).toNat
    let q : Int := (mc : Int) * 2 ^ (ec - lo).toNat
    let np := na != nb
    let sum := (if np then -p else p) + (if nc then -q else q)
    if sum = 0 then .fin (np && nc) 0 (-149)
    else F32.round (decide (sum < 0)) sum.natAbs lo

/-- An integer × 2^e rounded to binary32. -/
def F32.ofInt (i e : Int) : F32 := F32.round (decide (i < 0)) i.natAbs e

/-- round(y × 2²³), ties to even, as a record value: none for a NaN; saturation is told apart (R312). -/
def F32.toRecord (y : F32) : Option (Int × Bool) :=
  let sat (v : Int) : Int × Bool := (clampI (-8388607) 8388607 v, decide (v < -8388607 ∨ 8388607 < v))
  match y with
  | .nan => none
  | .inf neg => some (if neg then -8388607 else 8388607, true)
  | .fin neg m e =>
    let v : Int := if 0 ≤ e + 23 then (m : Int) * 2 ^ (e + 23).toNat else roundEven m (2 ^ (-(e + 23)).toNat)
    some (sat (if neg then -v else v))

/-- The polynomial of R306 over the coefficients c(i, j) = `c` (4 × i + j). -/
def polyEval (c : Nat → F32) (x t : F32) : F32 :=
  let a (i : Nat) : F32 := F32.fma (F32.fma (F32.fma (c (4 * i + 3)) t (c (4 * i + 2))) t (c (4 * i + 1))) t (c (4 * i))
  F32.fma (F32.fma (F32.fma (F32.fma (F32.fma (a 5) x (a 4)) x (a 3)) x (a 2)) x (a 1)) x (a 0)

end Sys2Proof.Machine
end

