-- ==== Sys2Proof/Machine/Access.lean ====
section
/-!
DEFINITION. Access levels on writes (R158 to R162, R763 to R767), the change journal (R768 to R771) and the gate that every
host write passes (R876, R854).
Marked choices: DEDUCED, log entries 30, 66, 71.
-/
namespace Sys2Proof.Machine

-- levels

/-- Fuse field `f`: the value in force (R755), 0 where the field is blank. -/
def fuseValue (s : State) (f : Nat) : Nat :=
  (s.fuses.getD f []).foldl (fun a x => match x with | .written v => v | .blank => a | .void => a) 0

/-- The field holds a written slot that is not void. -/
def fuseWritten (s : State) (f : Nat) : Bool :=
  (s.fuses.getD f []).any (fun x => match x with | .written _ => true | .blank => false | .void => false)

/-- The safety configuration lock is in force (R762). -/
def safeLocked (s : State) : Bool := decide (fuseValue s 3 ≠ 0)

/-- The level of a path (R158, R767): 0 Operator, 1 Service, 2 Safety. -/
def pathLevel (s : State) (p : Path) : Nat :=
  if (pathOf s p).service then (if !s.pins.nsconf && s.partSB then 2 else 1) else 0

/-- ACCESS.write_level of a page (R808, Table 4.3). -/
def pageLevel (page : Nat) : Nat := if page = pgSAFE then 2 else 0

/-- The level that a write of the register at `a` needs (R159). -/
def regLevel (a : Nat) : Nat :=
  max (pageLevel (pageOf a)) (match rowAt a with | some r => r.level | none => 0)

/-- BIST left the hub in Dawn (R854): writes to most pages are refused. -/
def bistHeld (s : State) (page : Nat) : Bool :=
  decide (rdf s SYS.DAWN_STAT 16 4 ≠ 0 ∧ page ≠ pgSYS ∧ page ≠ pgHOST ∧ page ≠ pgPWR ∧ page ≠ pgCLK ∧ page ≠ pgFUSE)

/-- LEVEL, LOCKED and the BUSY of R854. The Ream image passes the first two (R753). -/
def gateRej (s : State) (w : Who) (a : Nat) : Option Rej :=
  match w with
  | none => none
  | some p => firstSome [
      rejIf (decide (pathLevel s p < regLevel a)) Rsn.LEVEL,
      rejIf (safeLocked s && decide (pageOf a = pgSAFE)) Rsn.LOCKED,
      rejIf (bistHeld s (pageOf a)) Rsn.BUSY]

-- the change journal

/-- The path number of JOURNAL3.path. -/
def pathNum (p : Path) : Nat := pathIdx p

/-- The time quality of Table 18.4. -/
def timeQuality (s : State) : Nat :=
  match servo s with
  | .unknown => 0 | .seeded => 1 | .acquire => 1 | .freerun => 1 | .holdover => 2 | .locked => 3 | .grandmaster => 3

/-- The entries that stay when a new one needs room (R770). -/
def dropEntry (safety : Bool) (l : List ChangeEntry) : List ChangeEntry :=
  if safety then l.drop 1
  else
    let kept := ((l.reverse.filter (·.safety)).take 128).map (·.seq)
    match l.find? (fun e => !(e.safety && kept.contains e.seq)) with
    | some e => l.erase e
    | none => l.drop 1

/-- A new entry (R768 to R771): kind, level, path, word 3 [31:16], word 4, old and new value. -/
def changeEntry (s : State) (kind level : Nat) (p : Path) (top w4 : Nat) (old new : Word) : State :=
  let ns := s.time.ht % (tickLen * 10000000) / 65536
  let e : ChangeEntry :=
    { seq := s.changes.next, safety := decide (level = 2)
      words := [word (s.time.ht / (tickLen * 10000000)), word (ns + 2 ^ 30 * timeQuality s),
        word (kind + 2 ^ 4 * level + 2 ^ 8 * pathNum p + 2 ^ 16 * top), word (w4 % 2 ^ 24), old, new] }
  let full := decide (1024 ≤ s.changes.entries.length)
  let rest := if full then dropEntry e.safety s.changes.entries else s.changes.entries
  let s := { s with changes := { next := s.changes.next + 1, entries := rest ++ [e] } }
  evtIf full (evt s pgJRNL 0) pgJRNL 2

/-- The entry of an accepted write that needs Service or Safety level (R768). -/
def noteWrite (s : State) (w : Who) (a : Nat) (v : Word) : State :=
  match w with
  | none => s
  | some p => if regLevel a = 0 then s else changeEntry s 1 (pathLevel s p) p 0 a (rd s a) v

/-- A write whose entry cannot be stored (R769): the NV store has failed its test (Table 21.2). -/
def entryFails (s : State) (w : Who) (a : Nat) : Bool := w.isSome && decide (regLevel a ≠ 0) && rdb s SYS.DAWN_STAT 18

/-- The refusal of such a write, and the report on the JRNL page (R769). -/
def entryRefused (s : State) (w : Who) (a : Nat) : State :=
  evt (refuseOn (refuse s w a ⟨Rsn.BUSY, none⟩) none pgJRNL a ⟨0x40, none⟩) pgJRNL 1

/-- A write of `v` that has passed its checks (R768, R769): its entry is stored first, where it needs one, then it acts. -/
def entered (s : State) (w : Who) (a : Nat) (v : Word) (act : State → State) : State :=
  if entryFails s w a then entryRefused s w a else act (noteWrite s w a v)

/-- The hub is in Dawn, Noon, Dusk or Twilight. -/
def hubOn (s : State) : Bool :=
  match s.pwr.st with
  | .noon => true | .dusk => true | .twilight => true | .dawn => true
  | .vbkAbsent => false | .midnight => false | .reset => false | .factoryTest => false

/-- Host access is ready (R171, Table 21.1 phase 3): before that, the hub takes nothing from a path. -/
def hostReady (s : State) : Bool := hubOn s && decide (4 ≤ s.pwr.dawnPhase)

/-- What a path asks for is heard: host access is ready; the Ream image is not asked by a path. -/
def heard (s : State) (w : Who) : Bool := w.isNone || hostReady s

/-- A host write to a control register that its own function checks and applies. -/
def gated (s : State) (w : Who) (a : Nat) (act : State → State) : State :=
  if heard s w then checked s w a (gateRej s w a) act else s

/-- A host write of `v` to a control register, with the checks of its block, journalled where its level asks for it. -/
def hostAct (s : State) (w : Who) (a : Nat) (v : Word) (c : Option Rej) (act : State → State) : State :=
  if heard s w then checked s w a (firstSome [gateRej s w a, c]) (fun s => entered s w a v act) else s

/-- A path leaves Service level; other than by a reset it makes an entry of kind 5 (R766). -/
def lapse (s : State) (p : Path) : State :=
  if (pathOf s p).service then
    let s := changeEntry s 5 (pathLevel s p) p 0 0 0 0
    onPath s p (fun t => { t with service := false })
  else s

end Sys2Proof.Machine
end

