-- ==== Sys2Proof/Machine/Front.lean ====
section
/-!
DEFINITION. Analog inputs (spec/05): classes and their checks, automatic ranging, excitation, current swapping, wire breaks,
and the raw record that a conversion gives (R194, R248, R249, Table 8.3).
Marked choices: DESIGN CHOICE, log entries 1, 22, 43; DEDUCED, log entry 75.
-/
namespace Sys2Proof.Machine

/-- The hub drives its outputs: in Noon, and in Dusk when it entered Dusk as the active member (Tables 2.4 and 2.5, R85, R616,
R840). -/
def drivesHub (s : State) : Bool :=
  !s.pwr.warm.running && decide (s.pwr.st = .noon ∨ (s.pwr.st = .dusk ∧ s.twin.active))

-- settings

/-- The settings of AINch in force. -/
def inCfg (s : State) (ch : Nat) : Word := rd s (FQ.IN_CFG (ch / 4) (ch % 4))

/-- The class of an INi_CFG word (Table 5.1). -/
def inClass (w : Word) : Nat := fld w 0 4

abbrev Cls.OFF : Nat := 0
abbrev Cls.VOLT : Nat := 1
abbrev Cls.BRIDGE4 : Nat := 2
abbrev Cls.BRIDGE6 : Nat := 3
abbrev Cls.TC : Nat := 4
abbrev Cls.RES2 : Nat := 5
abbrev Cls.RES3 : Nat := 6
abbrev Cls.RES4 : Nat := 7
abbrev Cls.CURR : Nat := 8

def isBridge (w : Word) : Bool := decide (inClass w = Cls.BRIDGE4 ∨ inClass w = Cls.BRIDGE6)
def isRes (w : Word) : Bool := decide (inClass w = Cls.RES2 ∨ inClass w = Cls.RES3 ∨ inClass w = Cls.RES4)

/-- The classes that the burn-out test covers (Table 5.1). -/
def hasBurnOut (w : Word) : Bool := isRes w || decide (inClass w = Cls.TC)

def fixedRange (w : Word) : Bool := bit w 4
def rangeFixed (w : Word) : Nat := fld w 5 3
def rangeCoarse (w : Word) : Nat := fld w 8 3
def rangeFine (w : Word) : Nat := fld w 12 3
def excSel (w : Word) : Nat := fld w 16 4
def excUse (w : Word) : Bool := bit w 20
def brkEn (w : Word) : Bool := bit w 21
def swapEn (w : Word) : Bool := bit w 22
def iexSrc (w : Word) : Nat := fld w 23 1

/-- Ticks per raw sample of quad `q`, d of R221 and R242. -/
def rawTicks (s : State) (q : Nat) : Nat := 2 ^ rdf s (CC.CFG q) 0 2

/-- The input is assigned as a band channel: some AXr_BAND in force names it (R603). -/
def isBand (s : State) (ch : Nat) : Bool :=
  decide (ch < 96) && (List.range 48).any (fun r => (List.range 3).any (fun i => decide (rdf s (MOT.AX_BAND r) (8 * i) 7 = ch)))

/-- The current sources that an INi_CFG word takes: A, B (R190). -/
def iexUse (w : Word) : Bool × Bool :=
  if inClass w = Cls.RES3 ∨ (inClass w = Cls.RES4 ∧ swapEn w) then (true, true)
  else if inClass w = Cls.RES2 ∨ inClass w = Cls.RES4 then (decide (iexSrc w = 0), decide (iexSrc w = 1))
  else (false, false)

/-- A source of the quad is already taken by another input, as the shadows stand (R190). -/
def iexClash (s : State) (ch : Nat) (w : Word) : Bool :=
  (List.range 4).any (fun i =>
    let o := iexUse (rdShadow s (FQ.IN_CFG (ch / 4) i))
    decide (i ≠ ch % 4) && ((o.1 && (iexUse w).1) || (o.2 && (iexUse w).2)))

/-- The checks of a write of `w` to INi_CFG of AINch (R189, R190, R202, R204, R205, R210, Table 5.10). -/
def inCfgChk (s : State) (ch : Nat) (w : Word) : Chk :=
  { busy := rejIf (isBand s ch && decide (merge 0xff77ff 0 w ≠ rdShadow s (FQ.IN_CFG (ch / 4) (ch % 4)))) Rsn.BUSY
    range := rejIf ((isBridge w && !excUse w) ||
      (swapEn w && !decide (inClass w = Cls.RES3 ∨ inClass w = Cls.RES4))) Rsn.RANGE
    spec := firstSome [
      rejIf (decide (inClass w = Cls.CURR ∧ 96 ≤ ch)) 0x41,
      rejIf (iexClash s ch w) 0x42,
      rejIf (decide (rangeFine w < rangeCoarse w)) 0x43,
      rejIf (decide (inClass w = Cls.CURR) && !fixedRange w) 0x40] }

/-- The checks of a write to the FQ page of quad `q`, offset `o`. -/
def fqChk (s : State) (q o : Nat) (w : Word) : Chk :=
  if 0x40 ≤ o ∧ o < 0x50 then inCfgChk s (4 * q + (o - 0x40) / 4) w else {}

-- one input, one driver

def inputOf (s : State) (ch : Nat) : InputState := s.inputs.getD ch {}
def onInput (s : State) (ch : Nat) (f : InputState → InputState) : State := { s with inputs := s.inputs.modify ch f }
def excOf (s : State) (k : Nat) : ExcState := s.exc.getD k {}
def onExc (s : State) (k : Nat) (f : ExcState → ExcState) : State := { s with exc := s.exc.modify k f }

/-- Driver settings: FQ(2k).EXC_CFG. -/
def excCfg (s : State) (k : Nat) : Word := rd s (FQ.EXC_CFG (2 * k))

/-- The driver is turned on (EXC_CFG.en). -/
def excOn (s : State) (k : Nat) : Bool := bit (excCfg s k) 0

/-- The driver applies its excitation: it is turned on, and the hub is no standby and not in reset (R85, Table 2.4). -/
def excDrives (s : State) (k : Nat) : Bool := excOn s k && drivesHub s

/-- The current sources of a quad carry current (R85, Tables 2.4 and 5.5). -/
def iexDrives (s : State) (q : Nat) : Bool := decide (rdf s (FQ.IEX_CFG q) 0 3 ≠ 0) && drivesHub s
def excLevel (s : State) (k : Nat) : Nat := fld (excCfg s k) 16 13

/-- A settling window of the driver is open at index `n` (R212). -/
def excSettling (s : State) (k n : Nat) : Bool := (excOf s k).settle.any (fun e => decide (n < e))

/-- V_sense lies outside ±10 % of the set level (R214, Table 5.4). -/
def senseOutside (s : State) (k : Nat) : Bool :=
  decide ((excOf s k).sense * 10 < excLevel s k * 90 ∨ excLevel s k * 110 < (excOf s k).sense * 10)

/-- The driver marks XCH on the inputs that use it, at index `n` (R212, R214, R215). -/
def excXch (s : State) (k n : Nat) : Bool :=
  (if inTwilight s then senseOutside s k else !excOn s k) || excSettling s k n ||
    (excOf s k).limit || (excOf s k).compliance

/-- Opens the settling window of a driver at index `n` (R212, R213). -/
def excChange (s : State) (k n : Nat) : State :=
  onExc s k (fun e => { e with settle := some (n + 10 * rdf s (FQ.EXC_SETTLE (2 * k)) 0 10) })

-- slices

/-- The position that converts AINch at index `n` (R244, Table 6.1). -/
def positionOf (s : State) (ch n : Nat) : Nat :=
  2 * (ch % 4) + (if rawTicks s (ch / 4) = 1 then n % 2 else 0)

/-- The corrected result of R248 for one slice and one set of bit decisions. -/
def sliceResult (c : SliceCoef) (d : BitVec 16) : Int :=
  let low : Int := 16 * ((d.toNat % 1024 : Nat) : Int)
  let high := (List.range 6).foldl (fun a i => a + (if d.getLsbD (10 + i) then c.weights.getD i 0 else 0)) (0 : Int)
  clampI (-32767) 32767 (roundAway (c.gain * (high + low - 524288 - c.offset)) (2 ^ 34))

/-- The ratio of R209 and R211 for an input: numerator and denominator. -/
def bridgeRatio (s : State) (w : Word) : Int × Nat :=
  if isBridge w then
    let k := excSel w
    let sign : Int := if bit (excCfg s k) 1 then -1 else 1
    if (excOf s k).sense < excLevel s k then (sign, 1)
    else (sign * ((10 * excLevel s k : Nat) : Int), (excOf s k).sense)
  else (1, 1)

/-- The per-input, per-range coefficients in force. -/
def inCoef (s : State) (ch r : Nat) : Int × Int := sparseGet s.inCoefs (0, 1073741824) (8 * ch + r)

/-- The code of R249: per-input offset and gain, the bridge ratio, one rounding, saturation. -/
def inputCode (s : State) (ch r : Nat) (w : Word) (x : Int) : Int :=
  let c := inCoef s ch r
  let q := bridgeRatio s w
  clampI (-32767) 32767 (roundAway ((16 * x - c.1) * c.2 * q.1) (2 ^ 34 * q.2))

-- ranging

/-- The finest permitted range whose 90 % threshold |x| does not exceed, else the coarsest (R196). `x` is the code in range
`r`; the full scale of range t is 4^(r − t) times that of r. -/
def stepTarget (r coarse fine : Nat) (x : Nat) : Nat :=
  (List.range (fine + 1)).foldl
    (fun best t => if coarse ≤ t ∧ 10 * x * 4 ^ t ≤ 9 * 32768 * 4 ^ r then t else best) coarse

/-- The index from which a step decided at index `n` applies: the first raw sample at least 250 ns later (R198). -/
def stepDue (n d : Nat) : Nat := n + d * ceilDiv 3 d

/-- The range decision on one raw sample (R196, R197, R200). -/
def rangeDecision (i : InputState) (w : Word) (n d : Nat) (code : Int) (setl brk clip : Bool) : InputState :=
  let x := code.natAbs
  if fixedRange w ∨ i.step.isSome then i
  else if setl ∨ brk then { i with below := 0 }
  else if 9 * 32768 < 10 * x ∨ clip then
    let t := if clip then rangeCoarse w else stepTarget i.range (rangeCoarse w) (rangeFine w) x
    { i with below := 0, step := if t = i.range then none else some (t, stepDue n d) }
  else if i.range < rangeFine w ∧ 20 * x < 32768 then
    if 63 ≤ i.below then { i with below := 0, step := some (i.range + 1, stepDue n d) }
    else { i with below := i.below + 1 }
  else { i with below := 0 }

/-- A decided step applies (R198, Table 8.3): two raw records carry SETL. -/
def applyStep (i : InputState) : InputState :=
  match i.step with
  | some (t, _) => { i with range := t, step := none, below := 0, setlStep := 2, steps := i.steps + 1 }
  | none => i

/-- A decided step has come to its index. -/
def stepIsDue (i : InputState) (n : Nat) : Bool := i.step.any (fun t => decide (t.2 ≤ n))

-- wire breaks

/-- A break ends (R229): an autoranged input returns to range_coarse (R201), current swapping starts anew (R223). -/
def breakEnds (i : InputState) (w : Word) : InputState :=
  let moved := !fixedRange w && decide (i.range ≠ rangeCoarse w)
  { i with brk := false, tested := false, intact := 0, dNum := 0, dDen := 1, pairs := 0, sum1 := 0, cnt1 := 0, sum := 0, cnt := 0
           phase := 0, step := none, below := 0
           range := if fixedRange w then i.range else rangeCoarse w
           setlStep := if moved then 2 else i.setlStep
           steps := if moved then i.steps + 1 else i.steps }

/-- The break of an input may end: it has read intact for 16 consecutive raw samples (R229). -/
def breakDue (i : InputState) : Bool := i.brk && decide (16 ≤ i.intact)

/-- Ends the break of AINch and sets EVT.brk_clear. -/
def endBreak (s : State) (ch : Nat) : State :=
  evt (onInput s ch (fun i => breakEnds i (inCfg s ch))) (pgFQ (ch / 4)) (4 + ch % 4)

-- current swapping

/-- swap_len of a quad (R220). -/
def swapLen (s : State) (q : Nat) : Nat := rdf s (FQ.IEX_CFG q) 16 16

/-- The number of the swap phase of index `n` in quad `q` (R221): even numbers are phase 1, odd ones phase 2. -/
def phaseNum (s : State) (q n : Nat) : Nat := n / rawTicks s q / swapLen s q

/-- A phase ends and the next begins (R222, R223): d follows each phase 2; `first` says that the sample is the first of
its phase. -/
def nextPhase (i : InputState) (p : Nat) (first : Bool) : InputState :=
  let i := if i.phase = 0 then i
    else if i.phase % 2 = 1 then { i with sum1 := i.sum, cnt1 := i.cnt }
    else if i.pairs = 0 then i
    else if i.cnt1 = 0 ∨ i.cnt = 0 then { i with pairs := 2 }
    else { i with pairs := 2, dNum := i.sum1 * i.cnt - i.sum * i.cnt1, dDen := i.cnt1 * i.cnt }
  { i with phase := p + 1, sum := 0, cnt := 0
           pairs := if i.pairs = 0 ∧ first ∧ p % 2 = 0 then 1 else i.pairs }

/-- The input swaps its current sources. -/
def swapping (w : Word) : Bool := swapEn w && decide (inClass w = Cls.RES3 ∨ inClass w = Cls.RES4)

/-- Phase bookkeeping at a raw sample of index `n`. -/
def phaseStep (s : State) (ch : Nat) (w : Word) (n : Nat) (i : InputState) : InputState :=
  let q := ch / 4
  if swapping w ∧ i.phase ≠ phaseNum s q n + 1 then
    nextPhase i (phaseNum s q n) (decide ((n / rawTicks s q) % swapLen s q = 0))
  else i

/-- SETL of a current swap (Table 8.3): the first 4 raw records of a phase, and all until a complete pair. -/
def swapSetl (s : State) (ch : Nat) (w : Word) (n : Nat) (i : InputState) : Bool :=
  swapping w && (decide ((n / rawTicks s (ch / 4)) % swapLen s (ch / 4) < 4) || decide (i.pairs < 2))

/-- A code of range `r` in units of the LSB of range 5 (Table 5.2). -/
def fineUnits (r : Nat) (x : Int) : Int := x * 4 ^ (5 - r)

/-- The code that a swapped input records, x − s × d / 2 in the LSB of its range (R222). -/
def swapValue (w : Word) (i : InputState) (x : Int) : Int :=
  if swapping w ∧ i.pairs = 2 then
    let sgn : Int := if i.phase % 2 = 1 then 1 else -1
    clampI (-32767) 32767 (roundAway (2 * i.dDen * fineUnits i.range x - sgn * i.dNum) (2 * i.dDen * 4 ^ (5 - i.range)))
  else x

-- the raw record

/-- The tag byte of Table 8.1. -/
def tagByte (range : Nat) (setl brk clip xch swp : Bool) : Nat :=
  32 * range + 16 * b2n setl + 8 * b2n brk + 4 * b2n clip + 2 * b2n xch + b2n swp

/-- A record word from a 24-bit value and a tag byte (R334). -/
def recWord (v : Int) (tag : Nat) : Word := BitVec.ofInt 32 (v * 256 + (tag : Int))

/-- The value NODATA (R338) with a tag. -/
def nodataWord (tag : Nat) : Word := BitVec.ofNat 32 (0x80000000 + tag % 256)

/-- The value field of a record, read in two's complement. -/
def recVal (w : Word) : Int := sfld w 8 24

/-- The record holds NODATA (R338). -/
def isNodata (w : Word) : Bool := decide (fld w 8 24 = 0x800000)

/-- The sources, A and B, that drive an input at its newest sample (R218, R220): with swapping, RES4 takes them in turn. -/
def iexNow (w : Word) (i : InputState) : Bool × Bool :=
  if inClass w = Cls.RES4 ∧ swapEn w then (decide (i.phase % 2 = 1), decide (i.phase % 2 = 0)) else iexUse w

/-- The sources, A and B, that drive an input and cannot hold their current at one of the latching instants (R218, R227). -/
def iexLost (s : State) (q : Nat) (w : Word) (i : InputState) (c : Conversion) : Bool × Bool :=
  let on := isRes w && iexDrives s q
  (on && (iexNow w i).1 && (c.held.compA || c.done.compA), on && (iexNow w i).2 && (c.held.compB || c.done.compB))

/-- The common-mode window of the class shows a break at one latching instant (Table 5.7). -/
def windowBroken (w : Word) (sense : Nat) (l : BreakLatch) : Bool :=
  if inClass w = Cls.VOLT ∨ inClass w = Cls.CURR then
    decide (l.p < -2000 ∨ l.vafe - 2000 < l.p ∨ l.n < -2000 ∨ l.vafe - 2000 < l.n)
  else isBridge w && decide (4 * (sense : Int) < 10 * (((l.p + l.n - 2 * l.mid).natAbs : Nat) : Int))

/-- IEX_STAT [1:0] after a raw sample of a resistance input: the bits of the sources that drive it (R218, Table 5.9). -/
def iexStat (old : Nat) (use lost : Bool × Bool) : Nat :=
  b2n (if use.1 then lost.1 else decide (old % 2 = 1)) + 2 * b2n (if use.2 then lost.2 else decide (old / 2 % 2 = 1))

/-- The front-end part of one raw sample of AINch at index `n` (R195 to R230): the input's new state, the record word. -/
def rawSample (s : State) (ch n : Nat) (c : Conversion) : State × Word :=
  let q := ch / 4
  let w := inCfg s ch
  let s := if breakDue (inputOf s ch) then endBreak s ch else s
  let i0 := inputOf s ch
  let i1 := phaseStep s ch w n (if stepIsDue i0 n then applyStep i0 else i0)
  let s := if excUse w then onExc s (excSel w) (fun e => { e with sense := c.sense, current := c.current }) else s
  let core := s.cores.getD q {}
  let slice := core.coefs.getD (core.pos.getD (positionOf s ch n) 0) ⟨[], 0, 0⟩
  let code := inputCode s ch i1.range w (sliceResult slice c.bits)
  let lostBy := iexLost s q w i1 c
  let lost := lostBy.1 || lostBy.2
  let usesExc := excUse w
  let k := excSel w
  let broken := windowBroken w c.sense c.held || windowBroken w c.sense c.done || lost ||
    (usesExc && (excOf s k).senseFault) || (hasBurnOut w && brkEn w && i1.burn)
  let brk := broken || i1.brk
  let swS := swapSetl s ch w n i1
  let otherSetl := decide (0 < i1.setlStep) || decide (0 < i1.setlMode) || (usesExc && excSettling s k n)
  let phaseSetl := otherSetl || (swapping w && decide ((n / rawTicks s q) % swapLen s q < 4))
  let setl := otherSetl || swS
  let xch := usesExc && excXch s k n
  let i2 : InputState := if swapping w && !phaseSetl && !brk then
      { i1 with sum := i1.sum + fineUnits i1.range code, cnt := i1.cnt + 1 } else i1
  let val := swapValue w i2 code
  let clip := decide (val = 32767 ∨ val = -32767)
  let tag := tagByte (if fixedRange w then 7 else i2.range) setl brk clip xch false
  let i3 := rangeDecision i2 w n (rawTicks s q) code setl brk clip
  let i4 : InputState := { i3 with
    setlStep := i3.setlStep - 1, setlMode := i3.setlMode - 1
    brk := brk, intact := if broken then 0 else if brk then i3.intact + 1 else 0
    tested := brk && (i3.tested || (hasBurnOut w && brkEn w && decide (rdf s (FQ.BRK_CFG q) 0 17 ≠ 0)))
    setl := setl, xch := xch }
  let s := onInput s ch (fun _ => i4)
  let s := evtIf (broken && !i1.brk) s (pgFQ q) (ch % 4)
  let s := if clip then evt (bumpSat s (FQ.CLIP_COUNT q) (8 * (ch % 4)) 8 1) (pgFQ q) (10 + ch % 4) else s
  let s := if isRes w then
      wr s (FQ.IEX_STAT q) (setFld (rd s (FQ.IEX_STAT q)) 0 2 (iexStat (rdf s (FQ.IEX_STAT q) 0 2) (iexNow w i2) lostBy))
    else s
  let s := evtIf lost s (pgFQ q) 9
  let word := if core.short then nodataWord tag else recWord (val * 256) tag
  let s := if core.short then evt (bumpSat s (CC.NODATA_COUNT q) 0 16 1) (pgCC q) 1 else s
  (s, word)

-- commits of the FQ page

/-- The settings of R201: class, range_mode, range_coarse, range_fine. -/
def rangeSettings (w : Word) : Word := w &&& 0x771f

/-- What a commit that changes INi_CFG from `w0` to `w` does to the input: a change of the settings of R201 cancels a pending
step and starts the range anew (Table 5.8), a change of class or swap_en starts the current swap anew, and every change is
marked (Table 8.3). -/
def inputRestart (i : InputState) (w0 w : Word) : InputState :=
  let cls := decide (inClass w0 ≠ inClass w)
  let anew := decide (rangeSettings w0 ≠ rangeSettings w)
  let i : InputState := { i with
    setlMode := 16, burn := i.burn && !cls, step := if anew then none else i.step, below := if anew then 0 else i.below
    range := if fixedRange w then rangeFixed w else if anew then rangeCoarse w else i.range }
  if cls || (swapEn w0 != swapEn w) then
    { i with dNum := 0, dDen := 1, pairs := 0, sum1 := 0, cnt1 := 0, sum := 0, cnt := 0, phase := 0 }
  else i

/-- The check of a commit of quad `q`'s FQ page (R205): no change of INi_CFG of an assigned input. -/
def fqCommitChk (s : State) (q : Nat) : Chk :=
  { busy := rejIf ((List.range 4).any (fun i => isBand s (4 * q + i) &&
      decide (rdShadow s (FQ.IN_CFG q i) ≠ rd s (FQ.IN_CFG q i)))) Rsn.BUSY }

/-- The effects of a commit of quad `q`'s FQ page at index `n`, from the state `s0` before it. -/
def fqCommitted (s0 s : State) (q n : Nat) : State :=
  let s := (List.range 4).foldl (fun s i =>
    let ch := 4 * q + i
    if inCfg s0 ch = inCfg s ch then s else onInput s ch (fun x => inputRestart x (inCfg s0 ch) (inCfg s ch))) s
  if q % 2 = 0 ∧ (excCfg s0 (q / 2)) ≠ (excCfg s (q / 2)) then excChange s (q / 2) n else s

-- the commands of this chapter

/-- The common frame of an event command: its effect where its condition holds, nothing otherwise. -/
def when (c : Bool) (s : State) (f : State → State) : State := if c then f s else s

/-- RANGE_STEP (R198): the decided step applies at its index. -/
def execRangeStep (ch : Fin 128) (s : State) : Host.Outcome State Fault Refusal :=
  .next (when (stepIsDue (inputOf s ch) (now s)) s (fun s => onInput s ch applyStep))

/-- BREAK_END (R229). -/
def execBreakEnd (ch : Fin 128) (s : State) : Host.Outcome State Fault Refusal :=
  .next (when (breakDue (inputOf s ch)) s (fun s => endBreak s ch))

/-- The burn-out test runs on AINch at the present index (R225, R228). -/
def burnOutNow (s : State) (ch : Nat) : Bool :=
  let p := rdf s (FQ.BRK_CFG (ch / 4)) 0 17
  let i := inputOf s ch
  sampling s && hasBurnOut (inCfg s ch) && brkEn (inCfg s ch) &&
    (decide (p ≠ 0 ∧ now s % (10 * p) = 0) ||
      (i.brk && (i.tested || decide (p ≠ 0)) && decide (now s % rawTicks s (ch / 4) = 0)))

/-- BURN_OUT_TEST (R225): a movement of more than 20 mV declares a break, which the next raw sample carries. -/
def execBurnOutTest (ch : Fin 128) (moved : Bool) (s : State) : Host.Outcome State Fault Refusal :=
  .next (when (burnOutNow s ch) s (fun s => onInput s ch (fun i => { i with burn := moved })))

/-- SWAP_PHASE (R222): the phase of the newest sample has ended. -/
def execSwapPhase (ch : Fin 128) (s : State) : Host.Outcome State Fault Refusal :=
  let w := inCfg s ch
  .next (when (sampling s && swapping w && decide ((inputOf s ch).phase ≠ 0)) s
    (fun s => onInput s ch (phaseStep s ch w (now s))))

/-- EXC_SETTLE_END (R212). -/
def execExcSettleEnd (k : Fin 16) (s : State) : Host.Outcome State Fault Refusal :=
  .next (when ((excOf s k).settle.any (fun e => decide (e ≤ now s))) s
    (fun s => onExc s k (fun e => { e with settle := none })))

/-- EXCITATION_FAULT (R215, R216): only a driver that applies its excitation can reach its current limit or its compliance (R85);
a sense fault counts only with the driver on and no settling window open. -/
def execExcitationFault (k : Fin 16) (f : ExcFault) (s : State) : Host.Outcome State Fault Refusal :=
  .next (match f with
    | .currentLimit => when (excDrives s k) s
        (fun s => evt (onExc s k (fun e => { e with limit := true })) (pgFQ (2 * k)) 8)
    | .compliance => when (excDrives s k) s
        (fun s => evt (onExc s k (fun e => { e with compliance := true })) (pgFQ (2 * k)) 8)
    | .sense => when (excOn s k && !excSettling s k (now s)) s
        (fun s => evt (onExc s k (fun e => { e with senseFault := true })) (pgFQ (2 * k)) 8))

/-- EXCITATION_FAULT_END (R216). -/
def execExcitationFaultEnd (k : Fin 16) (f : ExcFault) (s : State) : Host.Outcome State Fault Refusal :=
  .next (onExc s k (fun e => match f with
    | .currentLimit => { e with limit := false }
    | .compliance => { e with compliance := false }
    | .sense => { e with senseFault := false }))

-- views

/-- INi_STAT (Table 5.10). -/
def inStatView (s : State) (ch : Nat) : Word :=
  let i := inputOf s ch
  word (i.range + 8 * b2n i.brk + 16 * b2n i.setl + 32 * b2n i.xch + 64 * b2n i.step.isSome +
    128 * b2n (isBand s ch) + 2 ^ 16 * (i.steps % 2 ^ 16))

/-- EXC_STAT (Table 5.10): the newest measurement of the driver's own converter. -/
def excStatView (s : State) (k : Nat) : Word :=
  let e := excOf s k
  word (e.sense % 2 ^ 16 + 2 ^ 16 * (e.current % 2 ^ 8) + 2 ^ 24 * b2n e.limit + 2 ^ 25 * b2n e.compliance +
    2 ^ 26 * b2n e.senseFault + 2 ^ 27 * b2n (excSettling s k (now s)))

/-- The computed registers of an FQ page. -/
def fqView (s : State) (q o : Nat) : Option Word :=
  if 0x58 ≤ o ∧ o < 0x68 then some (inStatView s (4 * q + (o - 0x58) / 4))
  else if o = 0x6c then
    some (setFld (rd s (FQ.IEX_STAT q)) 2 1 (if swapLen s q = 0 then 0 else phaseNum s q (now s) % 2))
  else if o = 0x78 then some (excStatView s (q / 2))
  else none

/-- summary.brk and summary.xch of an FQ page. -/
def fqSummary (s : State) (q : Nat) : Nat :=
  (List.range 4).foldl (fun a i =>
    a + b2n (inputOf s (4 * q + i)).brk * 2 ^ i + b2n (inputOf s (4 * q + i)).xch * 2 ^ (4 + i)) 0

end Sys2Proof.Machine
end

