-- ==== Sys2Proof/Machine/Chain.lean ====
section
/-!
DEFINITION. Filter chains (spec/07): scaling, CIC, FIR1, half-bands, resampler, linearisation, tags, restarts, reductions,
budgets, SYNC, and the coefficient memories.
Marked choices: DESIGN CHOICE, log entries 8, 46; DEDUCED, log entries 61, 72.
-/
namespace Sys2Proof.Machine

-- chains and their settings

/-- The chain of a hub channel: 0 to 127 for AIN, 128 to 319 for hub channels 192 to 383 (R279). -/
def chainOfChannel (ch : Nat) : Option Nat :=
  if ch < 128 then some ch else if 192 ≤ ch ∧ ch < 384 then some (ch - 64) else none

/-- The settings of a chain (Table 7.6), with its raw period in ticks. -/
structure ChainCfg where
  en : Bool
  syncEn : Bool
  outRange : Nat
  lin : Bool
  rs : Bool
  hb : Nat
  r : Nat
  n : Nat
  d : Nat
  bank : Bool
  setA : Nat
  setB : Nat
  firDelay : Nat
  ratio : Nat
  tempSrc : Nat
  tempEn : Bool
  tLag : Nat
  w : Nat
  raw : Nat
deriving DecidableEq, Repr

/-- The raw period of chain `c` in ticks: d of R242 for a local channel, div × 1 µs of its sensor-port channel otherwise (R672). -/
def chainRaw (s : State) (c : Nat) : Nat :=
  if c < 128 then rawTicks s (c / 4) else 10 * rdf s (SPRT.CH_CFG ((c - 128) / 24) ((c - 128) % 24)) 4 20

/-- The settings of chain `c` as `g` reads its registers. -/
def chainCfgOf (s : State) (g : Nat → Word) (c : Nat) : ChainCfg :=
  let p := c / 8
  let i := c % 8
  let cfg := g (FLT.CH_CFG p i)
  let fir := g (FLT.CH_FIR p i)
  let lin := g (FLT.CH_LIN p i)
  { en := bit cfg 0, syncEn := bit cfg 1, outRange := fld cfg 2 3, lin := bit cfg 5, rs := bit cfg 6
    hb := fld cfg 8 2, r := fld (g (FLT.CH_CIC p i)) 0 11, n := fld fir 0 8, d := fld fir 8 5
    bank := bit fir 13, setA := fld fir 16 7, setB := fld fir 24 7
    firDelay := fld (g (FLT.CH_FIR_DELAY p i)) 0 16
    ratio := (g (FLT.CH_RS_RATIO_HI p i)).toNat * 2 ^ 32 + (g (FLT.CH_RS_RATIO_LO p i)).toNat
    tempSrc := fld lin 0 9, tempEn := bit lin 9, tLag := fld lin 16 10
    w := fld (g (FLT.CH_RED p i)) 0 17, raw := chainRaw s c }

/-- The settings of chain `c` in force. -/
def chainCfg (s : State) (c : Nat) : ChainCfg := chainCfgOf s (rd s) c

/-- The settings that a commit of FLT page `p` would leave: the page's shadows, and the other pages as they are. -/
def chainCfgNext (s : State) (p c : Nat) : ChainCfg :=
  chainCfgOf s (if c / 8 = p then rdShadow s else rd s) c

/-- The active coefficient set (R290). -/
def ChainCfg.set (k : ChainCfg) : Nat := if k.bank then k.setB else k.setA

/-- Decimation of FIR1; a bypassed FIR1 ignores D (R288). -/
def ChainCfg.dec (k : ChainCfg) : Nat := if k.n = 0 then 1 else k.d

/-- The input periods of FIR1, half-band 1 and the resampler, in ticks. -/
def ChainCfg.firIn (k : ChainCfg) : Nat := k.raw * k.r
def ChainCfg.hbIn (k : ChainCfg) : Nat := k.firIn * k.dec
def ChainCfg.rsIn (k : ChainCfg) : Nat := k.hbIn * 2 ^ k.hb

/-- D_pre in units of 1/256 tick (R299, Table 7.1). -/
def ChainCfg.dPre (k : ChainCfg) : Nat :=
  512 * (k.r - 1) * k.raw + (if k.n = 0 then 0 else k.firDelay * k.firIn) +
    (if 1 ≤ k.hb then 2816 * k.hbIn else 0) + (if 2 ≤ k.hb then 5632 * k.hbIn else 0)

/-- LATENCY in units of 1/256 ns (R303, R304). -/
def ChainCfg.latency (k : ChainCfg) : Nat :=
  if k.rs then 100 * k.dPre + 8 * k.rsIn * 25600 + 5000 * 256
  else 256 * (445 + (if k.n = 0 then 0 else 1000) + 500 * k.hb + (if k.lin then 500 else 0))

/-- CHc_LATENCY: LATENCY in ticks, rounded up. -/
def ChainCfg.latencyTicks (k : ChainCfg) : Nat := ceilDiv k.latency 25600

/-- CHc_DELAY: D_pre in units of 1/16 tick, ties away from zero (R305). -/
def ChainCfg.delay16 (k : ChainCfg) : Nat := (k.dPre + 8) / 16

-- loads

/-- The sum of two fractions, in lowest terms. -/
def addFrac (a b : Nat × Nat) : Nat × Nat :=
  let n := a.1 * b.2 + b.1 * a.2
  let d := a.2 * b.2
  let g := Nat.gcd n d
  if g = 0 then (0, 1) else (n / g, d / g)

/-- The output rate of a chain in records per second, as a fraction. -/
def ChainCfg.outRate (k : ChainCfg) : Nat × Nat :=
  if k.rs then (10000000 * k.ratio, k.rsIn * 2 ^ 32) else (10000000, k.rsIn)

/-- The share of a chain in L_MAC (R329). -/
def ChainCfg.macLoad (k : ChainCfg) : Nat × Nat :=
  if !k.en ∨ k.rsIn = 0 then (0, 1)
  else
    let fir : Nat × Nat := if k.n = 0 then (0, 1) else (k.n * 10000000, k.hbIn)
    let hb1 : Nat × Nat := if 1 ≤ k.hb then (70000000, 2 * k.hbIn) else (0, 1)
    let hb2 : Nat × Nat := if 2 ≤ k.hb then (70000000, 4 * k.hbIn) else (0, 1)
    let rs : Nat × Nat := if k.rs then (320000000 * k.ratio, k.rsIn * 2 ^ 32) else (0, 1)
    addFrac (addFrac fir hb1) (addFrac hb2 rs)

/-- The rate of a temperature source (R330). -/
def tempRate (cfg : Nat → ChainCfg) (src : Nat) : Nat × Nat :=
  match chainOfChannel src with
  | some c => (cfg c).outRate
  | none => (31250, 1)

/-- The share of a chain in L_POLY (R330). -/
def polyLoad (cfg : Nat → ChainCfg) (k : ChainCfg) : Nat × Nat :=
  if !k.en ∨ !k.lin ∨ k.rsIn = 0 then (0, 1)
  else
    let f := k.outRate
    let t := tempRate cfg k.tempSrc
    let m := if t.1 * f.2 < f.1 * t.2 then t else f
    addFrac (5 * f.1, f.2) (if k.tempEn then (18 * m.1, m.2) else (0, 1))

/-- L_MAC over all chains, under the settings that `cfg` gives. -/
def macTotal (cfg : Nat → ChainCfg) : Nat × Nat :=
  (List.range 320).foldl (fun a c => addFrac a (cfg c).macLoad) (0, 1)

/-- L_POLY over all chains. -/
def polyTotal (cfg : Nat → ChainCfg) : Nat × Nat :=
  (List.range 320).foldl (fun a c => addFrac a (polyLoad cfg (cfg c))) (0, 1)

/-- The fraction exceeds a limit. -/
def fracAbove (a : Nat × Nat) (limit : Nat) : Bool := decide (limit * a.2 < a.1)

-- samples and windows

/-- What passes from stage to stage: a working value with 16 fractional bits (R281), tags, NODATA, the full index of the
last raw sample. -/
structure Samp where
  v : Int
  setl : Bool := false
  brk : Bool := false
  clip : Bool := false
  xch : Bool := false
  nodata : Bool := false
  /-- SETL by the refill of a stage of this chain (R343). -/
  fill : Bool := false
  idx : Nat := 0
deriving DecidableEq, Repr

/-- Ages one input further, and zero where the input carries the tag. -/
def Ages.note (a : Ages) (x : Samp) : Ages :=
  let f (o : Option Nat) (b : Bool) : Option Nat := if b then some 0 else o.map (· + 1)
  { setl := f a.setl x.setl, brk := f a.brk x.brk, clip := f a.clip x.clip, xch := f a.xch x.xch
    nodata := f a.nodata x.nodata, fill := f a.fill x.fill }

/-- An output over a window of `w` inputs carries every tag within it (R313, R314), and SETL where the stage refills (`fill`) or marks
it by another row of Table 8.3 (`mark`). -/
def Ages.mark (a : Ages) (w : Nat) (fill mark : Bool) (v : Int) (idx : Nat) : Samp :=
  let f (o : Option Nat) : Bool := o.any (fun n => decide (n < w))
  { v := v, setl := f a.setl || fill || mark, brk := f a.brk, clip := f a.clip, xch := f a.xch, nodata := f a.nodata
    fill := f a.fill || fill, idx := idx }

/-- What a NODATA input contributes to the arithmetic: nothing, since every output over it is NODATA. -/
def Samp.num (x : Samp) : Int := if x.nodata then 0 else x.v

/-- The CIC on one input (R284, R286). -/
def cicStep (r : Nat) (st : CicState) (x : Samp) : CicState × Option Samp :=
  if r ≤ 1 then (st, some x)
  else
    let a1 := wrap96 (st.acc.getD 0 0 + x.num)
    let a2 := wrap96 (st.acc.getD 1 0 + a1)
    let a3 := wrap96 (st.acc.getD 2 0 + a2)
    let a4 := wrap96 (st.acc.getD 3 0 + a3)
    let ages := st.ages.note x
    let st1 : CicState := { st with acc := [a1, a2, a3, a4], count := st.count + 1, fill := st.fill - 1, ages := ages }
    if st1.count < r then (st1, none)
    else
      let c1 := wrap96 (a4 - st.comb.getD 0 0)
      let c2 := wrap96 (c1 - st.comb.getD 1 0)
      let c3 := wrap96 (c2 - st.comb.getD 2 0)
      let c4 := wrap96 (c3 - st.comb.getD 3 0)
      ({ st1 with comb := [a4, c1, c2, c3], count := 0 },
        some (ages.mark (4 * (r - 1) + 1) (decide (0 < st.fill)) false (roundAway c4 (r ^ 4)) x.idx))

/-- A windowed stage takes one input: `w` is its window, `d` its decimation, `f` its arithmetic on the window, newest
first. -/
def firStep (w d : Nat) (f : List Int → Int) (st : FirState) (x : Samp) : FirState × Option Samp :=
  let hist := (x.num :: st.hist).take w
  let ages := st.ages.note x
  let st1 : FirState := { hist := hist, count := st.count + 1, fill := st.fill - 1, mark := st.mark - 1, ages := ages }
  if st1.count < d then (st1, none)
  else ({ st1 with count := 0 }, some (ages.mark w (decide (0 < st.fill)) (decide (0 < st.mark)) (f hist) x.idx))

/-- The sum of products of FIR1 over its window (R287): taps h_i on x_(k − i), gain 2^g, one rounding. -/
def firSum (taps : List Int) (g : Nat) (hist : List Int) : Int :=
  roundAway (2 ^ g * (List.zipWith (· * ·) taps hist).foldl (· + ·) 0) (2 ^ 23)

/-- The 23 values of a half-band window, oldest first, zero before the origin. -/
def window (w : Nat) (hist : List Int) : List Int := (hist ++ List.replicate (w - hist.length) 0).reverse

/-- The word `i` of coefficient set `m` (R287, R292). -/
def coefWord (s : State) (m i : Nat) : BitVec 24 := sparseGet s.flt.coef 0 (256 * m + i)

/-- Tap `i` of a half-band stage (R294): linear phase, 13 of the 23 taps nonzero. -/
def halfBandTap (i : Nat) : Int :=
  let d := if i ≤ 11 then 11 - i else i - 11
  let t := Config.halfTap ((d + 1) / 2)
  if d ≠ 0 ∧ d % 2 = 0 then 0 else if t = 0 then 1 else t

/-- The output of a half-band stage for its window, oldest first, rounded once. -/
def halfBand (l : List Int) : Int :=
  roundAway ((List.zipWith (fun i x => halfBandTap i * x) (List.range 23) l).foldl (· + ·) 0) (2 ^ 32)

/-- The output of the resampler for a phase, the 16 fraction bits after it and its window, oldest first (R299): each tap is
interpolated between the phase and the next, and the sum rounded once. -/
def resample (phase frac : Nat) (l : List Int) : Int :=
  let tap (i : Nat) : Int := Config.rsTap phase i * (65536 - (frac : Int)) + Config.rsTap (phase + 1) i * (frac : Int)
  roundAway ((List.zipWith (fun i x => tap i * x) (List.range 16) l).foldl (· + ·) 0) (2 ^ 48)

/-- The output numbers of the resampler that one input completes: those whose instants lie before `hi`, from the interval of the
newest position on or, after a change of RATIO or T_in, from the last output emitted on (R297, R302). Instants in units of
1 / (256 × RATIO) tick, `den` the output period in them; `last` in ticks, as a fraction. -/
def rsNumbers (last : Option (Int × Nat)) (catching : Bool) (tj hi den ratio : Int) : List Int :=
  let here := -((-tj) / den)
  let lo := match last with
    | none => here
    | some (a, b) =>
      let next := a * 256 * ratio / (b * den) + 1
      if catching then next else max here next
  let top := -((-hi) / den)
  (List.range (top - lo).toNat).map (fun (i : Nat) => lo + (i : Int))

/-- The resampler on one input (R297 to R302): the outputs it completes, with their numbers, and the instant of the last one. An
output whose instant lies intervals back is computed with the history as it was then. -/
def rsStep (k : ChainCfg) (st : FirState) (last : Option (Int × Nat)) (catching : Bool) (x : Samp) :
    FirState × List (Int × Samp) × Option (Int × Nat) :=
  let hist := (x.num :: st.hist).take 16
  let ages := st.ages.note x
  let st1 : FirState := { hist := hist, count := st.count + 1, fill := st.fill - 1, mark := st.mark - 1, ages := ages }
  let m : Int := k.rsIn
  let tj : Int := 256 * (x.idx : Int) - k.dPre - 2048 * m
  let ratio : Int := k.ratio
  let den : Int := 256 * m * 2 ^ 32
  let nums := rsNumbers last catching (tj * ratio) ((tj + 256 * m) * ratio) den ratio
  let out (num : Int) : Int × Samp :=
    let back : Nat := (-((num * den - tj * ratio) / (256 * m * ratio))).toNat
    let pos : Nat := ((num * den - tj * ratio + back * (256 * m * ratio)) * 2 ^ 32 / (ratio * 256 * m)).toNat
    let v := resample (pos / 2 ^ 26) (pos / 2 ^ 10 % 2 ^ 16) (window 16 (hist.drop back))
    let n : Nat := (num * m * 2 ^ 32 / ratio).toNat
    (num, (if back = 0 then ages else st.ages).mark 16 (decide (0 < st.fill)) (decide (0 < st.mark)) v n)
  (st1, nums.map out, match nums.getLast? with
    | some num => some (num * m * 2 ^ 32, k.ratio)
    | none => last)

-- the chain

def chainOf (s : State) (c : Nat) : ChainState := s.chains.getD c {}
def onChain (s : State) (c : Nat) (f : ChainState → ChainState) : State := { s with chains := s.chains.modify c f }

/-- The newest record of a temperature source whose index is at most `limit` (R309): value as a binary32, and its word, 0 for a
die temperature. -/
def tempRecord (s : State) (src limit : Nat) : Option (F32 × Word) :=
  match chainOfChannel src with
  | some c => ((chainOf s c).recent.find? (fun o => decide (o.index ≤ limit))).map (fun o =>
      (F32.ofInt (recVal o.word) (-23), o.word))
  | none => ((s.hkc.temps.getD (src - 0x1f0) []).find? (fun o => decide (o.1 ≤ limit))).map (fun o =>
      (F32.ofInt o.2.toInt (-12), 0))

/-- The linearisation coefficient c_ij of chain `c` (R306). -/
def polyCoef (s : State) (c i : Nat) : F32 := F32.ofWord (sparseGet s.flt.poly 0 (24 * c + i))

/-- Linearisation of a stage output (R306 to R313): the record value if there is one, saturation, the sample's tags. -/
def linearise (s : State) (c : Nat) (k : ChainCfg) (x : Samp) : Option (Int × Bool) × Samp :=
  let xv := F32.ofInt x.v (-39)
  if !k.tempEn then
    (if x.nodata then none else F32.toRecord (polyEval (polyCoef s c) xv (.fin false 0 (-149))), x)
  else match (if k.tLag * 10000 ≤ x.idx then tempRecord s k.tempSrc (x.idx - k.tLag * 10000) else none) with
    | none => (none, x)
    | some (t, w) =>
      let x := { x with setl := x.setl || bit w 4, brk := x.brk || bit w 3, clip := x.clip || bit w 2, xch := x.xch || bit w 1 }
      (if isNodata w || x.nodata then none else F32.toRecord (polyEval (polyCoef s c) xv t), x)

/-- The final rounding of R315: the 24-bit value and whether it saturated. -/
def finalRound (v : Int) : Int × Bool :=
  let y := roundAway v (2 ^ 16)
  (clampI (-8388607) 8388607 y, decide (y < -8388607 ∨ 8388607 < y))

/-- The end of a chain (R283, R311 to R316, R320, R343): the record, put into the chain's queue of outputs. -/
def chainOut (s : State) (c : Nat) (k : ChainCfg) (num : Option Int) (x : Samp) : State :=
  let st := chainOf s c
  let page := pgFLT (c / 8)
  let r : Option (Int × Bool) × Samp :=
    if k.lin then linearise s c k x else (if x.nodata then none else some (finalRound x.v), x)
  let y := r.2
  let sat := r.1.any (·.2)
  let done := st.refilling && !y.fill
  let swp := (st.swpDue && !y.setl) || st.swapOut
  let range := if k.lin then 6 else if c < 128 then k.outRange else 7
  let tag := tagByte range y.setl y.brk (y.clip || sat) y.xch swp
  let w := match r.1 with
    | some (v, _) => recWord v tag
    | none => nodataWord tag
  let o : OutRec := ⟨y.idx, num.getD st.outputs, w⟩
  let s := onChain s c (fun t => { t with
    refilling := t.refilling && y.fill, swpDue := t.swpDue && y.setl, swapOut := false, outputs := t.outputs + 1
    sat := if sat then min 255 (t.sat + 1) else t.sat, queue := t.queue ++ [o] })
  evtIf done (evtIf sat s page (c % 8)) page (8 + c % 8)

/-- One stage output reaches the resampler, or the end of the chain where it is bypassed. -/
def feedRs (s : State) (c : Nat) (k : ChainCfg) (x : Samp) : State :=
  if k.rs then
    let st := chainOf s c
    let r := rsStep k st.rs st.rsLast st.rsCatch x
    let s := onChain s c (fun t => { t with rs := r.1, rsLast := r.2.2, rsCatch := false })
    r.2.1.foldl (fun s e => chainOut s c k (some e.1) e.2) s
  else chainOut s c k none x

def feedHb2 (s : State) (c : Nat) (k : ChainCfg) (x : Samp) : State :=
  if 2 ≤ k.hb then
    let r := firStep 23 2 (fun h => halfBand (window 23 h)) (chainOf s c).hb2 x
    let s := onChain s c (fun t => { t with hb2 := r.1 })
    match r.2 with
    | none => s
    | some y => feedRs s c k y
  else feedRs s c k x

def feedHb1 (s : State) (c : Nat) (k : ChainCfg) (x : Samp) : State :=
  if 1 ≤ k.hb then
    let r := firStep 23 2 (fun h => halfBand (window 23 h)) (chainOf s c).hb1 x
    let s := onChain s c (fun t => { t with hb1 := r.1 })
    match r.2 with
    | none => s
    | some y => feedHb2 s c k y
  else feedHb2 s c k x

/-- The set with which FIR1 computes an output whose newest input has index `n` (R291). -/
def firSet (t : ChainState) (k : ChainCfg) (n : Nat) : Nat :=
  match t.oldSet with
  | some (at', m) => if n < at' then m else k.set
  | none => k.set

/-- FIR1 (R287 to R291): the first output computed with a new set carries SWP at the end of the chain. -/
def feedFir (s : State) (c : Nat) (k : ChainCfg) (x : Samp) : State :=
  if k.n = 0 then feedHb1 s c k x
  else
    let m := firSet (chainOf s c) k x.idx
    let taps := (List.range k.n).map (fun i => (coefWord s m i).toInt)
    let g := (coefWord s m 255).toNat % 16
    let r := firStep k.n k.d (firSum taps g) (chainOf s c).fir x
    let new := r.2.isSome && (chainOf s c).oldSet.all (fun e => decide (e.1 ≤ x.idx))
    let s := onChain s c (fun t => { t with
      fir := r.1, oldSet := if new then none else t.oldSet
      swapOut := t.swapOut || (t.swapFir && new), swapFir := t.swapFir && !new })
    match r.2 with
    | none => s
    | some y => feedHb1 s c k y

/-- A raw record of index `n`, at or after the chain's origin, enters its chain (R280, R282, R286): `v` is the 24-bit value and
`range` its range. -/
def feedChain (s : State) (c range : Nat) (v : Int) (n : Nat) (w : Word) : State :=
  let k := chainCfg s c
  if !k.en ∨ !blkOn s (pgFLT (c / 8)) ∨ n < (chainOf s c).origin then s
  else
    -- u = v × 4^(s − r), with 16 fractional bits
    let u : Int := if c < 128 then v * 4 ^ (8 + k.outRange - range) else v * 65536
    let x : Samp := { v := u, setl := bit w 4, brk := bit w 3, clip := bit w 2, xch := bit w 1
                      nodata := isNodata w, idx := n }
    let r := cicStep k.r (chainOf s c).cic x
    let s := onChain s c (fun t => { t with cic := r.1 })
    match r.2 with
    | none => s
    | some y => feedFir s c k y

-- restarts

/-- A cleared stage, with the inputs whose outputs Table 8.3 marks. -/
def clearCic (k : ChainCfg) : CicState := { fill := if k.r ≤ 1 then 0 else 4 * k.r }
def clearFir (fill : Nat) : FirState := { fill := fill }

/-- The stages after the CIC cleared; RATIO's grid of outputs does not move (R319). -/
def clearAfterCic (k : ChainCfg) (t : ChainState) : ChainState :=
  { t with fir := clearFir k.n, hb1 := clearFir 23, hb2 := clearFir 23, rs := clearFir 15 }

/-- A SYNC or a restart of one chain at index `n` (R319 to R321, R327). -/
def chainRestart (s : State) (c n : Nat) : State :=
  let k := chainCfg s c
  onChain s c (fun t => { clearAfterCic k t with
    origin := n, cic := clearCic k, refilling := true, swpDue := true, swapFir := false, swapOut := false, oldSet := none
    rsCatch := false, outputs := 0, red := {} })

/-- Restarts every enabled chain that `p` picks. -/
def restartChains (s : State) (p : ChainCfg → Bool) (n : Nat) : State :=
  (List.range 320).foldl (fun s c => if (chainCfg s c).en && p (chainCfg s c) then chainRestart s c n else s) s

/-- The first changed stage restarts and every later one is cleared (R322): the chain refills with one SWP at its end (Table
7.3), and the open window is discarded (R327). A restart of the CIC is one of the chain's origin (R286). A change of taps marks the
outputs of the first N inputs and counts apart (R344). -/
def stageRestart (t : ChainState) (o k : ChainCfg) (n : Nat) : ChainState :=
  let anew (t : ChainState) : ChainState := { t with refilling := true, swpDue := true, rsCatch := true, red := {} }
  let t := if o.n ≠ k.n then { t with fir := { t.fir with mark := k.n } } else t
  if o.r ≠ k.r then anew { clearAfterCic k t with
    origin := n, cic := clearCic k, outputs := 0, swapFir := false, swapOut := false, oldSet := none }
  else if o.dec ≠ k.dec then anew { clearAfterCic k t with swapFir := false, swapOut := false, oldSet := none }
  else if o.hb ≠ k.hb then
    anew { t with hb1 := if o.hb = 0 ∨ k.hb = 0 then clearFir 23 else t.hb1, hb2 := clearFir 23, rs := clearFir 15 }
  else t

/-- The resampler clears its history after a change of RATIO or T_in, and goes on from its last output (R302, Table 8.3). -/
def resamplerClear (t : ChainState) : ChainState :=
  { t with rs := { fill := t.rs.fill, mark := 15 }, rsCatch := true, red := {} }

/-- A change of RATIO or T_in (R302); a window of outputs that are no longer consecutive, or of another length, is discarded. -/
def resamplerChange (t : ChainState) (o k : ChainCfg) : ChainState :=
  if o.ratio ≠ k.ratio ∨ o.rs ≠ k.rs ∨ o.raw ≠ k.raw then resamplerClear t
  else if o.w ≠ k.w then { t with red := {} }
  else t

/-- A swap of sets at index `n` (R291): it has its own SWP unless a stage restarts at the same index (Table 7.3). -/
def setSwap (t : ChainState) (o k : ChainCfg) (n : Nat) : ChainState :=
  if o.set = k.set ∨ k.n = 0 then t
  else { t with oldSet := some (n, o.set), swapFir := decide (o.r = k.r ∧ o.dec = k.dec ∧ o.hb = k.hb) }

/-- What a commit does to one chain, from its old to its new settings, at index `n` (R291, R302, R321, R322, Table 8.3). A chain whose
origin is that very index restarts under the new settings, as if they had applied first (Table 7.3). -/
def chainCommitted (s : State) (c : Nat) (o k : ChainCfg) (n : Nat) : State :=
  if !k.en then s
  else if !o.en ∨ (o ≠ k ∧ (chainOf s c).origin = n ∧ (chainOf s c).outputs = 0) then chainRestart s c n
  else onChain s c (fun t => resamplerChange (setSwap (stageRestart t o k n) o k n) o k)

-- commits of the FLT pages

/-- The channel may serve as a temperature source (R308), under the settings that `cfg` gives. -/
def tempSrcOk (cfg : Nat → ChainCfg) (c src : Nat) : Bool :=
  (decide (0x1f0 ≤ src ∧ src ≤ 0x1f3)) ||
    (match chainOfChannel src with
      | some d => decide (d ≠ c) && (cfg d).en && !(cfg d).tempEn
      | none => false)

/-- The latency of a temperature source in units of 1/256 ns (R310). -/
def tempLatency (cfg : Nat → ChainCfg) (src : Nat) : Nat :=
  match chainOfChannel src with
  | some d => (cfg d).latency
  | none => 40000 * 256

/-- The chain uses a temperature source. -/
def usesTemp (k : ChainCfg) : Bool := k.en && k.lin && k.tempEn

/-- A chain uses channel `d` as its temperature source, under the settings that `cfg` gives. -/
def usesSource (cfg : Nat → ChainCfg) (c d : Nat) : Bool :=
  usesTemp (cfg c) && decide (chainOfChannel (cfg c).tempSrc = some d)

/-- A commit of page `p` would disable a source on it that a chain uses, or raise its LATENCY above that chain's lag (R310,
Table 7.3). -/
def sourceHeld (s : State) (p : Nat) : Bool :=
  let cfg := chainCfgNext s p
  (List.range 320).any (fun c =>
    usesTemp (cfg c) && (match chainOfChannel (cfg c).tempSrc with
      | some d => decide (d / 8 = p) && usesSource (chainCfg s) c d &&
          (!(cfg d).en ||
            (decide ((cfg c).tLag * 256000000 < (cfg d).latency) && decide ((chainCfg s d).latency < (cfg d).latency)))
      | none => false))

/-- A commit of page `p` would give temp_en to a source that a chain of another page uses (R308). -/
def sourceTurned (s : State) (p : Nat) : Bool :=
  (List.range 8).any (fun i => (chainCfgNext s p (8 * p + i)).tempEn &&
    (List.range 320).any (fun c => decide (c / 8 ≠ p) && usesSource (chainCfg s) c (8 * p + i)))

/-- The checks of a commit of FLT page `p` (R293, R296, R308, R310, R329, R330). -/
def fltCommitChk (s : State) (p : Nat) : Chk :=
  let cfg := chainCfgNext s p
  let own := (List.range 8).map (fun i => 8 * p + i)
  { busy := rejIf (sourceHeld s p) Rsn.BUSY
    zero := rejIf (own.any (fun c => decide ((cfg c).ratio = 0))) Rsn.ZERO
    range := firstSome [
      rejIf (own.any (fun c => decide ((cfg c).ratio < 65536 ∨ 2 ^ 32 < (cfg c).ratio))) Rsn.RANGE,
      rejIf (own.any (fun c => decide ((cfg c).n ≠ 0 ∧ ((cfg c).n - 1) * 256 < (cfg c).firDelay))) Rsn.RANGE]
    spec := firstSome [
      rejIf (own.any (fun c => (cfg c).tempEn && !tempSrcOk cfg c (cfg c).tempSrc) || sourceTurned s p) 0x43,
      rejIf (own.any (fun c => (cfg c).tempEn &&
        decide ((cfg c).tLag * 256000000 < tempLatency cfg (cfg c).tempSrc))) 0x44,
      rejIf (fracAbove (macTotal cfg) 23040000000) 0x40,
      rejIf (fracAbove (polyTotal cfg) 1440000000) 0x41] }

/-- The effects of a commit of FLT page `p` at index `n`, from the state `s0` before it: the linearisation coefficients of
the page's chains, then each chain's restart or swap. -/
def fltCommitted (s0 s : State) (p n : Nat) : State :=
  let own (e : Nat × Word) : Bool := decide (e.1 / 192 = p)
  let poly := (s.flt.polyShadow.filter own).foldl (fun l e => sparsePut l 0 e.1 e.2) s.flt.poly
  let s := { s with flt := { s.flt with poly := poly, polyShadow := s.flt.polyShadow.filter (fun e => !own e) } }
  (List.range 8).foldl (fun s i => chainCommitted s (8 * p + i) (chainCfg s0 (8 * p + i)) (chainCfg s (8 * p + i)) n) s

/-- The checks of a write to an FLT register (R192, Table 7.6): enabling a chain on an input of class OFF. -/
def fltChk (s : State) (p o : Nat) (w : Word) : Chk :=
  if 0x100 ≤ o ∧ (o - 0x100) % 0x40 = 0 then
    let c := 8 * p + (o - 0x100) / 0x40
    { busy := rejIf (decide (c < 128) && bit w 0 && decide (inClass (inCfg s c) = Cls.OFF)) Rsn.BUSY }
  else {}

-- coefficient memories

/-- A set is active in an enabled chain (R292). -/
def setActive (s : State) (m : Nat) : Bool :=
  (List.range 320).any (fun c => (chainCfg s c).en && decide ((chainCfg s c).set = m))

/-- The checks of a COEF_DATA write (R287, R292). -/
def coefChk (s : State) (w : Word) : Chk :=
  let a := rdf s (FLT.COEF_ADDR 0) 0 15
  { range := rejIf (decide (a % 256 = 255 ∧ 8 < fld w 0 4)) Rsn.RANGE
    spec := rejIf (setActive s (a / 256)) 0x42 }

/-- COEF_ADDR advances by 1. -/
def coefAdvance (s : State) : State :=
  wr s (FLT.COEF_ADDR 0) (word ((rdf s (FLT.COEF_ADDR 0) 0 15 + 1) % 2 ^ 15))

/-- An accepted COEF_DATA write; word 255 holds g in [3:0]. -/
def coefWrite (s : State) (w : Word) : State :=
  let a := rdf s (FLT.COEF_ADDR 0) 0 15
  let v : BitVec 24 := if a % 256 = 255 then BitVec.ofNat 24 (fld w 0 4) else BitVec.ofNat 24 (fld w 0 24)
  coefAdvance { s with flt := { s.flt with coef := sparsePut s.flt.coef 0 a v } }

/-- What COEF_DATA reads. -/
def coefView (s : State) : Word := word (sparseGet s.flt.coef 0 (rdf s (FLT.COEF_ADDR 0) 0 15)).toNat

/-- The place in the coefficient map that POLY_ADDR of FLT page `p` names. -/
def polyKey (s : State) (p : Nat) : Nat :=
  24 * (8 * p + rdf s (FLT.POLY_ADDR p) 8 3) + rdf s (FLT.POLY_ADDR p) 0 5

/-- POLY_ADDR advances, from coefficient 23 to coefficient 0 of the next channel. -/
def polyAdvance (s : State) (p : Nat) : State :=
  let a := rdf s (FLT.POLY_ADDR p) 0 5
  let c := rdf s (FLT.POLY_ADDR p) 8 3
  wr s (FLT.POLY_ADDR p) (word (if a = 23 then ((c + 1) % 8) * 256 else c * 256 + a + 1))

/-- An accepted POLY_DATA write goes to the page's shadow set (R306). -/
def polyWrite (s : State) (p : Nat) (w : Word) : State :=
  polyAdvance { s with flt := { s.flt with polyShadow := sparseSet s.flt.polyShadow (polyKey s p) w } } p

/-- What POLY_DATA reads: the shadow, which equals the value in force where nothing waits (R147). -/
def polyView (s : State) (p : Nat) : Word :=
  sparseGet s.flt.polyShadow (sparseGet s.flt.poly 0 (polyKey s p)) (polyKey s p)

/-- The page holds a linearisation coefficient that no commit has applied. -/
def polyDirty (s : State) (p : Nat) : Bool := s.flt.polyShadow.any (fun e => decide (e.1 / 192 = p))

-- reductions

/-- The record of a reduction value. -/
def redWord (t : BitVec 8) (used : Nat) (v : Int) : Word := if used = 0 then nodataWord 0 else recWord v t.toNat

/-- The RMS of a window: the nearest integer to the root of squares / used, ties away from zero. -/
def rmsOf (squares used : Nat) : Int :=
  let r := isqrt (squares / used)
  if 4 * squares < (2 * r + 1) * (2 * r + 1) * used then r else r + 1

/-- One delivered output enters the open window (R325 to R327). -/
def redStep (s : State) (c : Nat) (o : OutRec) : State :=
  let w := (chainCfg s c).w
  if w = 0 then s
  else
    let r0 := (chainOf s c).red
    let r1 : RedState := if o.num % w = 0 then { running := true } else r0
    let v := recVal o.word
    let r2 : RedState := if isNodata o.word then r1 else
      { r1 with used := r1.used + 1, min := if r1.used = 0 then v else min r1.min v
                max := if r1.used = 0 then v else max r1.max v
                sum := r1.sum + v, squares := r1.squares + v.natAbs ^ 2
                tags := r1.tags ||| BitVec.ofNat 8 (fld o.word 0 8) }
    if !r1.running then s
    else if (o.num + 1) % w = 0 then
      let p := c / 8
      let i := c % 8
      let s := wr s (FLT.CH_RED_MIN p i) (redWord r2.tags r2.used r2.min)
      let s := wr s (FLT.CH_RED_MAX p i) (redWord r2.tags r2.used r2.max)
      let s := wr s (FLT.CH_RED_MEAN p i) (redWord r2.tags r2.used (roundAway r2.sum r2.used))
      let s := wr s (FLT.CH_RED_RMS p i) (redWord r2.tags r2.used (rmsOf r2.squares r2.used))
      let s := wr s (FLT.CH_RED_INDEX p i) (word o.index)
      onChain s c (fun t => { t with red := {} })
    else onChain s c (fun t => { t with red := r2 })

-- SYNC

/-- A SYNC of the hub takes effect at index `n` (R319). -/
def syncNow (s : State) (n : Nat) : State :=
  let s := restartChains s (fun k => k.syncEn) n
  evt (wr64 s (FLT.SYNC_LAST_LO 0) n) (pgFLT 0) 16

/-- SYNC_EDGE (R45, R317): an edge of the enabled polarity schedules a SYNC two ticks after its own, or is counted as ignored. -/
def execSyncEdge (falling : Bool) (s : State) (stamp : Nat := 0) (ecc : WordErr := .sound) : Host.Outcome State Fault Refusal :=
  let cfg := rd s (FLT.SYNC_CFG 0)
  let r := readStamp s ecc (pinStamp stamp)
  .next (when (bit cfg 0 && decide (bit cfg 1 = falling)) r.1 (fun s =>
    if s.flt.syncPin.isSome ∨ s.flt.syncAt.isSome then
      evt (bumpSat s (FLT.SYNC_STAT 0) 8 8 1) (pgFLT 0) 17
    else { s with flt := { s.flt with syncPin := some (indexAt s (r.2 * 1024) + 2) } }))

/-- The checks of SYNC_CMD = 1 (R318). -/
def syncChk (s : State) : Option Rej :=
  firstSome [
    rejIf s.flt.syncAt.isSome Rsn.PENDING,
    rejIf (!gridValid s) Rsn.NOGRID,
    rejIf (decide (rd64 s (FLT.SYNC_AT_LO 0) ≤ now s + 2)) Rsn.PAST]

/-- SYNC_CMD = 1 (R318). -/
def syncSchedule (s : State) (w : Who) : State :=
  checked s w (FLT.SYNC_CMD 0) (syncChk s)
    (fun s => { s with flt := { s.flt with syncAt := some (rd64 s (FLT.SYNC_AT_LO 0)) } })

/-- SYNC_CMD = 2 (R318). -/
def syncCancel (s : State) : State := { s with flt := { s.flt with syncAt := none } }

def execSyncSchedule (p : Path) (s : State) : Host.Outcome State Fault Refusal :=
  .next (gated s (some p) (FLT.SYNC_CMD 0) (fun s => syncSchedule s (some p)))

def execSyncCancel (p : Path) (s : State) : Host.Outcome State Fault Refusal :=
  .next (gated s (some p) (FLT.SYNC_CMD 0) (fun s => syncCancel s))

/-- A waiting SYNC has come to its index, or hub time has stepped over it (R319, R323). -/
def syncIsDue (s : State) : Bool :=
  s.flt.syncPin.any (fun n => decide (n ≤ now s)) || s.flt.syncAt.any (fun n => decide (n ≤ now s))

/-- SYNC_EFFECT (R319, R323). -/
def execSyncEffect (s : State) : Host.Outcome State Fault Refusal :=
  .next (when (syncIsDue s && atTick s) s (fun s =>
    let due (o : Option Nat) : Option Nat := if o.any (fun n => decide (n ≤ now s)) then none else o
    let late := s.flt.syncAt.any (fun n => decide (n < now s))
    let s1 := syncNow { s with flt := { s.flt with syncPin := due s.flt.syncPin, syncAt := due s.flt.syncAt } } (now s)
    wr s1 (FLT.SYNC_STAT 0) (setFld (rd s1 (FLT.SYNC_STAT 0)) 1 1 (b2n late))))

-- views

/-- CHc_STAT (Table 7.6). -/
def chainStatView (s : State) (c : Nat) : Word :=
  let t := chainOf s c
  word (b2n t.refilling + 2 * b2n (chainCfg s c).bank + 2 ^ 8 * t.sat + 2 ^ 16 * (t.outputs % 2 ^ 16))

/-- A load in units of 10⁶ per second, rounded up. -/
def megaUp (a : Nat × Nat) : Nat := ceilDiv a.1 (a.2 * 1000000)

/-- The computed registers of FLT page `p`. -/
def fltView (s : State) (p o : Nat) : Option Word :=
  if o < 0x100 then
    if o = 0x44 then some (coefView s)
    else if o = 0x4c then some (polyView s p)
    else if o = 0x60 then some (setFld (rd s (FLT.SYNC_STAT 0)) 0 1 (b2n s.flt.syncAt.isSome))
    else if o = 0x6c then
      some (word (megaUp (macTotal (chainCfg s)) % 2 ^ 16 + 2 ^ 16 * (megaUp (polyTotal (chainCfg s)) % 2 ^ 16)))
    else none
  else
    let c := 8 * p + (o - 0x100) / 0x40
    let k := (o - 0x100) % 0x40
    if k = 0x20 then some (chainStatView s c)
    else if k = 0x24 then some (if (chainCfg s c).en then word (chainCfg s c).delay16 else 0)
    else if k = 0x28 then some (if (chainCfg s c).en then word (chainCfg s c).latencyTicks else 0)
    else none

/-- summary.refilling of an FLT page. -/
def fltSummary (s : State) (p : Nat) : Nat :=
  (List.range 8).foldl (fun a i => a + b2n (chainOf s (8 * p + i)).refilling * 2 ^ i) 0

end Sys2Proof.Machine
end

