-- ==== Sys2Proof/Machine/Conv.lean ====
section
/-!
DEFINITION. Converter cores, their rotation and calibration, the band comparators and the housekeeping converter (spec/06),
the retransmit outputs (R232 to R238), and the error counters of the queues (R355 to R363).
Marked choices: DEDUCED, log entries 44, 45.
-/
namespace Sys2Proof.Machine

-- cores

def coreOf (s : State) (q : Nat) : CoreState := s.cores.getD q {}
def onCore (s : State) (q : Nat) (f : CoreState → CoreState) : State := { s with cores := s.cores.modify q f }

/-- N_rot of R251, in ticks. -/
def rotTicks (s : State) (q : Nat) : Nat := 10 * rdf s (CC.ROT_PERIOD q) 0 20

/-- The number of the rotation step that takes effect at index `n`, if one does: n_j = j × N_rot + (j mod 8) mod 2 (R251). -/
def rotationAt (s : State) (q n : Nat) : Option Nat :=
  let j := n / rotTicks s q
  if n = j * rotTicks s q + j % 2 then some j else none

/-- The spare takes over position `p`, and the slice that held it becomes the spare (R250, R251). -/
def rotate (c : CoreState) (p : Nat) : CoreState := { c with pos := c.pos.set p c.spare, spare := c.pos.getD p 8 }

/-- ROTATION_STEP (R251, R252). -/
def execRotationStep (core : Fin 32) (s : State) : Host.Outcome State Fault Refusal :=
  .next (match rotationAt s core (now s) with
    | none => s
    | some j => when (sampling s && !(coreOf s core).stopped) s (fun s =>
        wr (onCore s core (fun c => rotate c (j % 8))) (CC.ROT_COUNT core) (rd s (CC.ROT_COUNT core) + 1)))

/-- The pass limits of R256, on the units of SliceCoef. -/
def slicePasses (c : SliceCoef) : Bool :=
  decide (c.offset.natAbs ≤ 1024) && decide (100 * (c.gain - 1073741824).natAbs ≤ 1073741824) &&
    decide (c.weights.length = 6) &&
    (List.range 6).all (fun i => decide (200 * (c.weights.getD i 0 - 2 ^ (14 + i)).natAbs ≤ 2 ^ (14 + i)))

/-- Slices that passed their last calibration and are not retired. -/
def passing (c : CoreState) : Nat := (List.range 9).countP (fun i => c.pass.getD i false && !c.retired.getD i false)

/-- Positions in use by Table 6.1. -/
def positionsUsed (s : State) (q : Nat) : Nat := if rawTicks s q = 1 then 8 else 4

/-- The positions in use by Table 6.1. -/
def usedPositions (s : State) (q : Nat) : List Nat := if rawTicks s q = 1 then List.range 8 else [0, 2, 4, 6]

/-- A slice that may convert: it passed its last calibration and is not retired. -/
def sliceGood (c : CoreState) (i : Nat) : Bool := c.pass.getD i false && !c.retired.getD i false

/-- Position `p` gets a slice that may convert, if one is spare or stands in a position not in use (R257, R260). -/
def fillPosition (used : List Nat) (c : CoreState) (p : Nat) : CoreState :=
  if sliceGood c (c.pos.getD p 8) then c
  else if sliceGood c c.spare then rotate c p
  else match (List.range 8).find? (fun r => !used.contains r && sliceGood c (c.pos.getD r 8)) with
    | some r => { c with pos := (c.pos.set p (c.pos.getD r 8)).set r (c.pos.getD p 8) }
    | none => c

/-- The positions in use of a core whose rotation has stopped hold slices that may convert, as far as there are any. -/
def fillPositions (s : State) (q : Nat) : State :=
  onCore s q (fun c => if c.stopped then (usedPositions s q).foldl (fillPosition (usedPositions s q)) c else c)

/-- Takes note of whether a core has a passing slice for each position in use (R260). -/
def checkShort (s : State) (q : Nat) : State :=
  let s := fillPositions s q
  let short := decide (passing (coreOf s q) < positionsUsed s q)
  let s := onCore s q (fun c => { c with short := short })
  if short then faultSrc s 15 else s

/-- A slice is retired and rotation of its core stops (R257). -/
def retireSlice (s : State) (q i : Nat) : State :=
  let s := onCore s q (fun c => { c with pass := c.pass.set i false, retired := c.retired.set i true, stopped := true })
  checkShort (evt (evt s (pgCC q) 0) (pgCC q) 6) q

/-- SLICE_CALIBRATION_DONE (R254, R256, R257): the spare's new coefficients. -/
def execSliceCalibrationDone (core : Fin 32) (k : SliceCoef) (s : State) : Host.Outcome State Fault Refusal :=
  let c := coreOf s core
  .next (when (!c.stopped) s (fun s =>
    if slicePasses k then
      onCore s core (fun c => { c with coefs := c.coefs.set c.spare k, pass := c.pass.set c.spare true
                                       calAt := c.calAt.set c.spare s.time.now })
    else retireSlice s core c.spare))

/-- The checks of a write to CC page `q`, offset `o` (R247, R260, R264, R268). -/
def ccChk (s : State) (q o : Nat) (w : Word) : Chk :=
  if o = 0x40 then
    { busy := rejIf (decide (fld w 0 2 ≠ fld (rdShadow s (CC.CFG q)) 0 2) &&
        (List.range 4).any (fun i => isBand s (4 * q + i))) Rsn.BUSY
      spec := rejIf (decide (fld w 0 2 = 0 ∧ passing (coreOf s q) < 8)) 0x40 }
  else if 0x60 ≤ o then
    let ch := 4 * q + (o - 0x60) / 0x10
    if o % 0x10 = 0 then
      { busy := rejIf (bit w 0 && isBand s ch) Rsn.BUSY
        spec := rejIf (bit w 0 && !fixedRange (inCfg s ch)) 0x42 }
    else { spec := rejIf (decide (fld w 16 12 < fld w 0 12 + 2)) 0x41 }
  else {}

/-- The check of a commit of CC page `q` (R247, R260): no change of rate while an input is assigned, none that cannot be served. -/
def ccCommitChk (s : State) (q : Nat) : Chk :=
  let r := fld (rdShadow s (CC.CFG q)) 0 2
  let new := decide (r ≠ rdf s (CC.CFG q) 0 2)
  { busy := rejIf (new && (List.range 4).any (fun i => isBand s (4 * q + i))) Rsn.BUSY
    spec := rejIf (new && decide (r = 0 ∧ passing (coreOf s q) < 8)) 0x40 }

/-- The effects of a commit of CC page `q` (R246, R260, R302): a change of rate is an input mode change of all four inputs
and a change of T_in for their chains. -/
def ccCommitted (s0 s : State) (q : Nat) : State :=
  if rawTicks s0 q = rawTicks s q then s
  else
    let s := (List.range 4).foldl (fun s i =>
      let s := onInput s (4 * q + i) (fun x => { x with setlMode := 16 })
      onChain s (4 * q + i) resamplerClear) s
    checkShort s q

/-- SLICE_STAT (Table 6.6). -/
def sliceStatView (c : CoreState) : Word :=
  word ((if c.stopped then 15 else c.spare) +
    (List.range 9).foldl (fun a i => a + b2n (c.pass.getD i false) * 2 ^ (4 + i) +
      b2n (c.retired.getD i false) * 2 ^ (13 + i)) 0 + 2 ^ 24 * b2n c.stopped)

/-- CAL_AGE: the age of the oldest slice calibration in use, in ms, saturating. -/
def calAgeView (s : State) (c : CoreState) : Word :=
  word (min (2 ^ 24 - 1) ((c.pos.foldl (fun a i => max a (s.time.now - c.calAt.getD i 0)) 0) / 10000))

-- band comparators

def bandOf (s : State) (ain : Nat) : BandState := s.bands.getD ain {}
def onBand (s : State) (ain : Nat) (f : BandState → BandState) : State := { s with bands := s.bands.modify ain f }

/-- The input's comparators run on host edges (R268). -/
def bandHost (s : State) (ain : Nat) : Bool := rdb s (CC.BAND_CFG (ain / 4) (ain % 4)) 0

/-- The comparators of an input are on (R268). -/
def comparatorsOn (s : State) (ain : Nat) : Bool := isBand s ain || bandHost s ain

/-- The slot that names an input as a band channel (R603). -/
def bandSlot (s : State) (ain : Nat) : Option Nat :=
  if 96 ≤ ain then none else (List.range 48).find? (fun r => (List.range 3).any (fun i => decide (rdf s (MOT.AX_BAND r) (8 * i) 7 = ain)))

/-- The band-update period of engine `k` in ticks (R568). -/
def buTicks (s : State) (k : Nat) : Nat := rdf s (AE.BU k) 0 10

/-- The present index is a band-update boundary of the input's engine. -/
def bandBoundary (s : State) (ain : Nat) : Bool :=
  match bandSlot s ain with
  | some r => decide (buTicks s (r / 4) ≠ 0 ∧ now s % buTicks s (r / 4) = 0)
  | none => false

/-- A pair of edges reaches the band DACs: it loads, or is rejected by band order (R264). -/
def loadEdges (s : State) (ain lo up : Nat) : State :=
  if up < lo + 2 then
    evt (onBand s ain (fun b => { b with orderErr := min 255 (b.orderErr + 1) })) (pgCC (ain / 4)) (2 + ain % 4)
  else onBand s ain (fun b => { b with lower := lo, upper := up })

/-- A pair of edges arrives in the shadow of a band DAC at index `n` (R50, R51): it replaces a pair that the next boundary would
load with it. -/
def shadowEdges (b : BandState) (n lo up : Nat) : BandState :=
  { b with shadow := (n, lo, up) :: (b.shadow.filter (fun e => decide (e.1 < n))).take 1 }

/-- The host edges of an input that is no band channel are in force while host = 1 (R268). -/
def hostEdges (s : State) (ain : Nat) : State :=
  let h := rd s (CC.BAND_HOST (ain / 4) (ain % 4))
  if bandHost s ain ∧ !isBand s ain ∧ fld h 0 12 + 2 ≤ fld h 16 12 then
    onBand s ain (fun b => { b with lower := fld h 0 12, upper := fld h 16 12 })
  else s

/-- The comparator states after a crossing (R878): U and Lo are never both 1. -/
def bandCross (b : BandState) (upper level : Bool) : BandState :=
  if upper then
    if level ∧ ¬ b.u then { b with u := true, lo := false, countU := b.countU + 1 }
    else if level then b else { b with u := false }
  else if level ∧ ¬ b.lo then { b with lo := true, u := false, countL := b.countL + 1 }
  else if level then b else { b with lo := false }

/-- A crossing in the tick period of index `n`: the next tick edge is the first to find the new states (R522). -/
def bandCrossAt (b : BandState) (n : Nat) (upper level : Bool) : BandState :=
  let b := bandCross b upper level
  { b with past := keepSince (·.1) n ((n + 1, b.u, b.lo) :: b.past) }

/-- The comparator states of a band on the tick edge of index `n`. -/
def bandStatesAt (b : BandState) (n : Nat) : Bool × Bool :=
  ((b.past.find? (fun e => decide (e.1 ≤ n))).map (·.2)).getD (false, false)

/-- BANDi_STAT (Table 6.6); the crossings are those of both comparators in the last band-update period. -/
def bandStatView (b : BandState) : Word :=
  word (b2n b.u + 2 * b2n b.lo + 2 ^ 8 * b.orderErr + 2 ^ 16 * ((b.latchU + b.latchL) % 2 ^ 16))

/-- The computed registers of a CC page. -/
def ccView (s : State) (q o : Nat) : Option Word :=
  if o = 0x48 then some (sliceStatView (coreOf s q))
  else if o = 0x50 then some (calAgeView s (coreOf s q))
  else if 0x60 ≤ o ∧ o < 0xa0 then
    let b := bandOf s (4 * q + (o - 0x60) / 0x10)
    if o % 0x10 = 8 then some (word (b.lower + 2 ^ 16 * b.upper))
    else if o % 0x10 = 0xc then some (bandStatView b) else none
  else none

/-- summary.active: passing slices in positions. -/
def ccSummary (c : CoreState) : Nat := c.pos.countP (fun i => c.pass.getD i false && !c.retired.getD i false)

-- housekeeping converter

/-- The check of HKC.START (R272). -/
def hkcStartChk (s : State) : Chk := { busy := rejIf (s.hkc.single.isSome || rdb s HKC.SEL 16) Rsn.BUSY }

/-- A write of 1 to HKC.START at the present index. -/
def hkcBegin (s : State) : State := { s with hkc := { s.hkc with single := some (now s) } }

/-- A write to HKC.SEL at the present index (R273): the writes that a coming slot can still need are kept. -/
def hkcSelect (s : State) (v : Word) : State :=
  let old := s.hkc.sels
  let keep := old.takeWhile (fun e => decide (now s < e.1 + 2)) ++ (old.dropWhile (fun e => decide (now s < e.1 + 2))).take 1
  { s with hkc := { s.hkc with sels := (now s, v) :: keep } }

/-- HKC_START (R272). -/
def hkcStart (s : State) (w : Who) (v : Word) : State :=
  checked s w HKC.START (firstSome [(hkcStartChk s).busy, rejIf (decide (v ≠ 1)) Rsn.RANGE])
    hkcBegin

def execHkcStart (p : Path) (v : Word) (s : State) : Host.Outcome State Fault Refusal :=
  .next (gated s (some p) HKC.START (fun s => hkcStart s (some p) v))

/-- The slot that has ended last: slot `m` takes the 10 ticks from index 10 × m on. -/
def hkcEnded (s : State) : Option Nat := if 10 ≤ now s then some (now s / 10 - 1) else none

/-- A slot for host software (R270, R271). -/
def hostSlot (m : Nat) : Bool := decide (m % 4 ≠ 3)

/-- The first host slot that starts at least 200 ns after a write at index `n` (R272, R273). -/
def firstHostSlot (n : Nat) : Nat :=
  let m := ceilDiv (n + 2) 10
  if hostSlot m then m else m + 1

/-- SEL as slot `m` uses it (R273). -/
def selAt (s : State) (m : Nat) : Word :=
  match s.hkc.sels.find? (fun e => decide (e.1 + 2 ≤ 10 * m)) with
  | some e => e.2
  | none => 0

/-- The host slot whose result comes now: that of the single conversion once it has ended, or with SEL.cont = 1 the slot that has
just ended. -/
def hkcTurn (s : State) : Option Nat :=
  match hkcEnded s with
  | none => none
  | some m =>
    match s.hkc.single with
    | some n => if firstHostSlot n ≤ m then some (firstHostSlot n) else none
    | none => if hostSlot m && bit (selAt s m) 16 && decide (s.hkc.last ≠ some m) then some m else none

/-- The place of a supervision channel in the turn of R270. -/
def superTurn : HkcSuper → Nat
  | .ts i => i.val
  | .aoref => 4 | .bgcap => 5 | .vddq => 6 | .agnd => 7

/-- The slot that has just ended is one of supervision, converted channel `ch`, and has given no result yet (R270). -/
def superSlot (s : State) (ch : HkcSuper) : Bool :=
  (hkcEnded s).any (fun m => !hostSlot m && decide (m / 4 % 8 = superTurn ch ∧ s.hkc.last ≠ some m))

/-- The factor by which Table 6.4 scales a channel at the multiplexer: one part in 1, 2 or 4. -/
def hkcScale (chan : Nat) : Nat :=
  if chan = 17 ∨ chan = 24 ∨ chan = 26 then 4
  else if chan = 15 ∨ chan = 16 ∨ chan = 18 ∨ (20 ≤ chan ∧ chan < 24) then 2 else 1

/-- DATA.value of a code (R271, Table 6.4): in mV, of which the spec does not say how it is rounded; a die temperature comes from the
sensor, since the spec gives no law for it. -/
def hkcValue (chan code : Nat) (temp : BitVec 16) : Nat :=
  if 8 ≤ chan ∧ chan < 12 then temp.toNat
  else
    let n := code * 1800 * hkcScale chan
    if n % 4096 = 0 then n / 4096 else n / 4096 + b2n (Config.roundUp chan code)

/-- HKC_RESULT (R271 to R274): the result of a host slot replaces DATA. -/
def execHkcResult (code : BitVec 12) (temp : BitVec 16) (s : State) : Host.Outcome State Fault Refusal :=
  .next (match hkcTurn s with
    | none => s
    | some m =>
      let unread := rdb s HKC.DATA 14
      let overrun := unread || rdb s HKC.DATA 15
      let s := wr s HKC.DATA (word (code.toNat + 2 ^ 14 + 2 ^ 15 * b2n overrun +
        2 ^ 16 * hkcValue (fld (selAt s m) 0 5) code.toNat temp))
      let s := wr s HKC.STAMP (word (10 * m))
      let s : State := { s with hkc := { s.hkc with single := none, last := some (max m (s.hkc.last.getD 0)) } }
      evtIf unread (evt s pgHKC 0) pgHKC 1)

/-- A temperature history: newest first, pruned where no lag of R309 can reach. -/
def pruneTemps (n : Nat) (l : List (Nat × BitVec 16)) : List (Nat × BitVec 16) :=
  l.takeWhile (fun e => decide (n < e.1 + 10000000)) ++ (l.dropWhile (fun e => decide (n < e.1 + 10000000))).take 1

/-- A read of HKC.DATA (R274): STAMP is latched for the path, valid and overrun clear. -/
def hkcDataRead (s : State) (p : Path) : State :=
  let s := onPath s p (fun t => { t with latched := sparseSet t.latched HKC.STAMP (rd s HKC.STAMP) })
  wr s HKC.DATA (setFld (rd s HKC.DATA) 14 2 0)

def execDataRead (p : Path) (s : State) : Host.Outcome State Fault Refusal := .next (if hostReady s then hkcDataRead s p else s)

-- retransmit outputs

def onAo (s : State) (x : Nat) (f : AoState → AoState) : State := { s with aout := s.aout.modify x f }

/-- The code of channel mode (R232). -/
def aoCode (zero span v : Int) : Nat :=
  let num := 65536 * (v - zero)
  let den := span - zero
  (clampI 0 65535 (if 0 < den then roundAway num den.toNat else roundAway (-num) (-den).toNat)).toNat

/-- The newest delivered record of a hub channel, if it has one. -/
def newestRecord (s : State) (ch : Nat) : Option Word :=
  match chainOfChannel ch with
  | some c => (chainOf s c).recent.head?.map (·.word)
  | none => none

/-- Output `x` follows the registers in force and the newest record of its source (R232, R235); in register mode it keeps its code. -/
def aoFollow (s : State) (x : Nat) : State :=
  let cfg := rd s (AOUT.AO_CFG x)
  if !bit cfg 1 then onAo s x (fun a => { a with fault := false })
  else match newestRecord s (fld cfg 16 9) with
    | none => s
    | some w =>
      if bit w 3 ∨ isNodata w then
        let s := evtIf (!(s.aout.getD x {}).fault) s pgAOUT (8 + x)
        onAo s x (fun a => { a with
          fault := true, code := if fld cfg 2 2 = 0 then a.code else if fld cfg 2 2 = 1 then 0 else 65535 })
      else onAo s x (fun a => { a with
        fault := false, code := aoCode (sfld (rd s (AOUT.AO_ZERO x)) 0 24) (sfld (rd s (AOUT.AO_SPAN x)) 0 24) (recVal w) })

/-- A delivered record of hub channel `ch` reaches the outputs that name it. -/
def aoDeliver (s : State) (ch : Nat) : State :=
  (List.range 8).foldl (fun s x => if rdb s (AOUT.AO_CFG x) 1 ∧ rdf s (AOUT.AO_CFG x) 16 9 = ch then aoFollow s x else s) s

/-- A commit of the AOUT page: every output follows its new settings. -/
def aoutCommitted (s : State) : State := (List.range 8).foldl aoFollow s

/-- Output x drives its code; otherwise its ball is at AGND through 1 kΩ (R237, R238, Table 5.12). -/
def aoDriven (s : State) (x : Nat) : Bool :=
  rdb s (AOUT.AO_CFG x) 0 && decide (500 ≤ rdf s AOUT.AOREF_STAT 0 16) &&
    decide (s.pwr.st = .noon ∨ (s.pwr.st = .dusk ∧ s.twin.active) ∨ (s.pwr.st = .dawn ∧ 4 ≤ s.pwr.dawnPhase))

/-- The checks of a write to AOUT offset `o` (R234, Table 5.12). -/
def aoutChk (s : State) (o : Nat) (w : Word) : Chk :=
  if 0xc0 ≤ o ∨ o < 0x40 then {}
  else if o % 0x10 = 0 then
    let src := fld w 16 9
    let ok := match chainOfChannel src with
      | some c => (chainCfg s c).en
      | none => false
    { busy := rejIf (bit w 1 && !ok) Rsn.BUSY }
  else {}

/-- AOx_VALUE cannot be written in channel mode (Table 5.12). -/
def aoValueRo (s : State) (o : Nat) : Bool :=
  decide (0x40 ≤ o ∧ o < 0xc0 ∧ o % 0x10 = 0xc) && rdb s (AOUT.AO_CFG ((o - 0x40) / 0x10)) 1

/-- The check of an AOUT commit (R233). -/
def aoutCommitChk (s : State) : Chk :=
  { range := rejIf ((List.range 8).any (fun x =>
      decide (fld (rdShadow s (AOUT.AO_SPAN x)) 0 24 = fld (rdShadow s (AOUT.AO_ZERO x)) 0 24))) Rsn.RANGE }

/-- The computed registers of the AOUT page: AOx_VALUE reads the present code. -/
def aoutView (s : State) (o : Nat) : Option Word :=
  if 0x40 ≤ o ∧ o < 0xc0 ∧ o % 0x10 = 0xc then some (word (s.aout.getD ((o - 0x40) / 0x10) {}).code) else none

-- queues

/-- The queue numbers of Table 8.6 (R362). -/
def queueNamed (q : Nat) : Bool :=
  decide (q < 0x2c ∨ (0x40 ≤ q ∧ q < 0xc1) ∨ (0xc4 ≤ q ∧ q < 0xcd))

/-- The write of QUEUE_SEL with clr = 1 (R361, R362). -/
def queueClear (s : State) (w : Who) (q : Nat) : State :=
  checked s w SYS.QUEUE_SEL (rejIf (!queueNamed q) Rsn.RANGE) (fun s =>
    wr { s with queueEcc := sparsePut s.queueEcc (0, 0) q (0, 0) } SYS.QUEUE_SEL (word q))

def execQueueClear (p : Path) (q : Nat) (s : State) : Host.Outcome State Fault Refusal :=
  .next (gated s (some p) SYS.QUEUE_SEL (fun s => queueClear s (some p) q))

end Sys2Proof.Machine
end

