-- ==== Sys2Proof/Machine/Net.lean ====
section
/-!
DEFINITION. Lanes (spec/10), the frames that the hub inserts into the ring or sends on a lane, the root's ledger (R454 to
R463) and what the hub knows of its ring.
Marked choices: DESIGN CHOICE, log entries 4, 5; DEDUCED, log entry 71.
-/
namespace Sys2Proof.Machine

-- lanes

def laneIdx : Lane → Nat
  | .l0 => 0 | .l1 => 1 | .l2 => 2 | .l3 => 3

def laneOfIdx : Nat → Lane
  | 0 => .l0 | 1 => .l1 | 2 => .l2 | _ => .l3

def laneOf (s : State) (l : Lane) : LaneState := s.lanes.getD (laneIdx l) {}
def onLane (s : State) (l : Lane) (f : LaneState → LaneState) : State := { s with lanes := s.lanes.modify (laneIdx l) f }
def linkUpOn (s : State) (l : Lane) : Bool := (laneOf s l).linkUp

/-- Some ring port has link. -/
def ringLink (s : State) : Bool := rdb s RING.CFG 0 && (linkUpOn s .l0 || linkUpOn s .l1)

/-- L0 and L1 carry ring traffic (Table 10.12). -/
def ringOn (s : State) : Bool := rdb s RING.CFG 0

/-- The hub is paired (R817, Table 20.7). -/
def isPaired (s : State) : Bool := decide (s.twin.pair = .paired ∨ s.twin.pair = .snapshot)

/-- TWIN.STAT.pair (Table 20.7). -/
def Pair.code : Pair → Nat
  | .unpaired => 0 | .pairing => 1 | .snapshot => 2 | .paired => 3 | .lost => 4 | .refused => 5

/-- A lane in use (R425). -/
def laneInUse (s : State) (l : Lane) : Bool :=
  match l with
  | .l0 => ringOn s | .l1 => ringOn s | .l2 => isPaired s | .l3 => s.ring.root

/-- The line rate of a lane mode in b/s (R417), 0 where the lane is off. -/
def modeRate (m : Nat) : Nat := if m = 1 then 10000000000 else if m = 2 then 25000000000 else 0

def laneMode (s : State) (l : Lane) : Nat := rdf s (LANE.CFG (laneIdx l)) 0 2

-- frames

def macOf (serial : Nat) : Mac := BitVec.ofNat 48 (0x02ea * 2 ^ 32 + serial % 2 ^ 32)
def ownMac (s : State) : Mac := macOf s.serial
def ctlMac : Mac := 0x03ea0d000001

/-- A MAC address held in a _LO and _HI pair: low four bytes, first two bytes. -/
def macReg (s : State) (lo : Nat) : Mac := BitVec.ofNat 48 (rdf s (lo + 4) 0 16 * 2 ^ 32 + (rd s lo).toNat)
def hostMac (s : State) : Mac := macReg s RING.HOST_MAC_LO

def isMulticast (m : Mac) : Bool := m.getLsbD 40

/-- The MAC address of the hub that holds address `a`, as the last assignment named it. -/
def macOfAddr (s : State) (a : Nat) : Option Mac := (s.ring.table.find? (fun e => e.2 = a)).map (fun e => macOf e.1)

/-- The MAC belongs to an addressed hub. -/
def isHubMac (s : State) (m : Mac) : Bool := s.ring.table.any (fun e => decide (macOf e.1 = m))

/-- The length of a tagged frame from destination MAC to FCS: 24 bytes of addresses, tag, Ethertype and FCS around the
payload, padded to 64 (R437, R443, Table 4.9). -/
def frameBytes : FrameBody → Nat
  | .stream q => 44 + 8 * q.slots.length
  | .access f => 36 + 4 * f.data.length
  | .response r => 44 + 4 * r.data.length
  | .assignment a => max 64 (36 + 9 * a.entries.length)
  | .ledger r => max 64 (32 + 12 * r.entries.length)
  | .safe m => max 64 (56 + m.data.length)
  | .mirror m => 54 + 4 * m.words.length
  | _ => 64

def isBeacon : FrameBody → Bool
  | .beacon _ => true
  | _ => false

/-- A frame leaves on a lane that has link (R423 counts what a dead link loses at the receiver). -/
def emit (s : State) (f : TxFrame) : State :=
  if linkUpOn s f.lane then bumpWrap { s with sent := s.sent ++ [f] } (LANE.TX_FRAMES (laneIdx f.lane)) 0 32 1 else s

/-- An untagged frame of this hub on one lane. -/
def emitOwn (s : State) (l : Lane) (dst : Mac) (b : FrameBody) : State := emit s ⟨l, none, ownMac s, dst, b, true⟩

/-- The discovery beacon of this hub (R444, Table 10.6). -/
def beaconOf (s : State) (seqReset : Bool) : Beacon :=
  { serial := s.serial, rooten := s.pins.strapRoot, twinid := s.pins.strapTwin, addressed := s.ring.address.isSome
    root := s.ring.root, seqReset := seqReset, l0Up := linkUpOn s .l0, l1Up := linkUpOn s .l1
    address := s.ring.address.getD 0xff, hops := 0, modeL0 := laneMode s .l0, modeL1 := laneMode s .l1
    modeL3 := laneMode s .l3, generation := if s.ring.address.isSome then s.ring.generation else 0 }

/-- A frame inserted into the ring, with its content on each port: the next HSR sequence, on both ports at once (R430). -/
def insertBoth (s : State) (dst : Mac) (b0 b1 : FrameBody) : State :=
  let q := s.ring.seq + 1
  let s := { s with ring := { s.ring with seq := q } }
  emit (emit s ⟨.l0, some q, ownMac s, dst, b0, true⟩) ⟨.l1, some q, ownMac s, dst, b1, true⟩

def insertFrame (s : State) (dst : Mac) (b : FrameBody) : State := insertBoth s dst b b

/-- A discovery beacon, with seq_reset on the first frame after a reset (R433, R444). -/
def sendBeacon (s : State) : State :=
  if !ringOn s || !ringLink s then s
  else
    let b := beaconOf s (!s.ring.announced)
    insertFrame { s with ring := { s.ring with announced := true } } ctlMac (.beacon b)

/-- A frame of this hub towards a ring address (R430, R437, R449): host-bound frames of the root leave on its L3 (R438). -/
def sendRing (s : State) (dst : Mac) (b : FrameBody) : State :=
  if s.ring.address.isNone then s
  else if s.ring.root ∧ dst ≠ ctlMac ∧ !isHubMac s dst then emitOwn s .l3 dst b
  else if !ringOn s || decide (s.adm.maxFrame < frameBytes b) then s
  else insertFrame (if s.ring.announced then s else sendBeacon s) dst b

/-- A frame to the twin on L2 (Table 10.5). -/
def sendTwin (s : State) (b : FrameBody) : State := emitOwn s .l2 ctlMac b

/-- The MAC of the root that this hub knows. -/
def rootMac (s : State) : Mac := macOf s.ring.rootSerial

-- lane commands

/-- LINK_UP (R421): the two ends agree and the lock has held. -/
def linkRise (s : State) (l : Lane) : State :=
  let s := onLane s l (fun x => { x with signal := true, blockLock := true, linkUp := true, hadLink := true })
  evt (bumpSat s (LANE.LINK_COUNT (laneIdx l)) 0 16 1) (pgLANE (laneIdx l)) 0

/-- LINK_DOWN (R422). -/
def linkFall (s : State) (l : Lane) : State :=
  if linkUpOn s l then
    let s := onLane s l (fun x => { x with signal := false, blockLock := false, linkUp := false })
    evt (bumpSat s (LANE.LINK_COUNT (laneIdx l)) 16 16 1) (pgLANE (laneIdx l)) 1
  else s

/-- The lane can link: lane rail and reference present, its mode on, neither direction asleep, no pattern in place of the
PCS (Table 3.2, R102, R424, R426, R427). -/
def laneReady (s : State) (l : Lane) : Bool :=
  let cfg := rd s (LANE.CFG (laneIdx l))
  let prbs := rd s (LANE.PRBS_CFG (laneIdx l))
  s.pwr.rails.getD 2 false && s.clk.refclk && s.clk.lanePll.getD (laneIdx l) false && decide (fld cfg 0 2 ≠ 0) &&
    !bit cfg 4 && !bit cfg 5 && !bit prbs 4 && !bit prbs 5 && !s.pwr.warm.running &&
    (match s.pwr.st with
      | .noon => true | .dusk => true | .twilight => true | .dawn => true
      | .vbkAbsent => false | .midnight => false | .reset => false | .factoryTest => false)

/-- RX_WAKE (R427). -/
def execRxWake (l : Lane) (s : State) : Host.Outcome State Fault Refusal :=
  let a := LANE.CFG (laneIdx l)
  .next (when (rdb s a 5 && rdb s a 6) s (fun s =>
    wr (onLane s l (fun x => { x with signal := true })) a (setFld (rd s a) 5 1 0)))

/-- The checks of a write to a LANE register (R418, R425, R428). -/
def laneChk (s : State) (i o : Nat) (w : Word) : Chk :=
  let l := laneOfIdx i
  if o = 0x40 then
    { busy := rejIf (laneInUse s l && (bit w 4 || bit w 5)) Rsn.BUSY
      range := rejIf (decide (fld w 0 2 = 1) && bit w 2) Rsn.RANGE }
  else if o = 0x48 then { busy := rejIf (laneInUse s l && (bit w 4 || bit w 5)) Rsn.BUSY }
  else {}

/-- The effects of a write to LANE register `o` beside its bits: a change of mode, RS-FEC or sleep retrains or drops the
link, a write to PRBS_CFG clears the counters. -/
def laneWritten (s0 s : State) (i o : Nat) : State :=
  let l := laneOfIdx i
  if o = 0x40 then
    let a := rd s0 (LANE.CFG i)
    let b := rd s (LANE.CFG i)
    if fld a 0 2 ≠ fld b 0 2 ∨ bit a 2 ≠ bit b 2 ∨ bit b 4 ∨ bit b 5 then linkFall s l else s
  else if o = 0x48 then
    let s := wr (wr64 s (LANE.PRBS_BITS_LO i) 0) (LANE.PRBS_ERR i) 0
    let on := rdb s (LANE.PRBS_CFG i) 4 || rdb s (LANE.PRBS_CFG i) 5
    let s := onLane s l (fun x => { x with chkLock := false })
    if on then linkFall s l else s
  else s

/-- PRBS_INJECT (Table 10.10): one bit error goes into the generated pattern; the far end counts it. -/
def execPrbsInject (p : Path) (l : Lane) (s : State) : Host.Outcome State Fault Refusal :=
  let a := LANE.PRBS_CFG (laneIdx l)
  .next (gated s (some p) a (fun s => checked s (some p) a (laneChk s (laneIdx l) 0x48 (rd s a)).busy
    (fun s => laneWritten s s (laneIdx l) 0x48)))

/-- PRBS_CHECKER_LOCK (R424). -/
def execPrbsCheckerLock (l : Lane) (s : State) : Host.Outcome State Fault Refusal :=
  .next (when (rdb s (LANE.PRBS_CFG (laneIdx l)) 5 && decide (rdf s (LANE.PRBS_CFG (laneIdx l)) 0 3 ≠ 0)) s
    (fun s => onLane s l (fun x => { x with chkLock := true })))

/-- The bits on the line of a lane mode up to tick `n` (R417): 10.3125 and 25.78125 Gb/s. -/
def lineBits (mode n : Nat) : Nat := if mode = 1 then n * 8250 / 8 else if mode = 2 then n * 20625 / 8 else 0

/-- The checker counts the bits of a tick (R424). -/
def tickPrbs (s : State) : State :=
  (List.range 4).foldl (fun s i =>
    if (laneOf s (laneOfIdx i)).chkLock && rdb s (LANE.PRBS_CFG i) 5 then
      let m := rdf s (LANE.CFG i) 0 2
      let n := lineBits m s.time.now - lineBits m (s.time.now - 1)
      wr64 s (LANE.PRBS_BITS_LO i) ((rd64 s (LANE.PRBS_BITS_LO i) + n) % 2 ^ 64)
    else s) s

/-- PRBS_BIT_ERROR (R424): a checked bit is wrong. -/
def execPrbsBitError (l : Lane) (s : State) : Host.Outcome State Fault Refusal :=
  let i := laneIdx l
  .next (when ((laneOf s l).chkLock && rdb s (LANE.PRBS_CFG i) 5) s (fun s =>
    evt (bumpSat s (LANE.PRBS_ERR i) 0 32 1) (pgLANE i) 2))

/-- The mode in use: none while the lane has no power (R95). -/
def modeInForce (s : State) (i : Nat) : Nat := if hubOn s && s.pwr.rails.getD 2 false then rdf s (LANE.CFG i) 0 2 else 0

/-- The computed registers of a LANE page. -/
def laneView (s : State) (i o : Nat) : Option Word :=
  let l := laneOf s (laneOfIdx i)
  let cfg := rd s (LANE.CFG i)
  if o = 0x44 then
    some (word (b2n l.signal + 2 * b2n l.blockLock + 4 * b2n (l.linkUp && bit cfg 2) + 8 * b2n l.linkUp +
      16 * b2n (bit cfg 4) + 32 * b2n (bit cfg 5) + 64 * modeInForce s i))
  else if o = 0x48 then some (setFld (rd s (LANE.PRBS_CFG i)) 16 1 (b2n l.chkLock))
  else if o = 0x64 then some (if l.linkUp then Config.measured (LANE.RX_PPM i) s.time.now else 0)
  else none

-- the ledger

/-- The cost of a stream in b/s, as a fraction (R454): `rate` in units of 2⁻¹⁶ records per second. -/
def streamCost (rate q : Nat) : Nat × Nat := (rate * 8 * (max (44 + 8 * q) 64 + 20), q * 65536)

def LedgerEnt.cost (e : LedgerEnt) : Nat × Nat :=
  let c := streamCost e.rate e.q
  if e.partner.isSome then (2 * c.1, c.2) else c

/-- The sum of two fractions with positive denominators. -/
def fracAdd (a b : Nat × Nat) : Nat × Nat :=
  let n := a.1 * b.2 + b.1 * a.2
  let d := a.2 * b.2
  let g := Nat.gcd n d
  if g = 0 then (n, d) else (n / g, d / g)

/-- U of R456. -/
def ledgerUsed (l : List LedgerEnt) : Nat × Nat := l.foldl (fun a e => fracAdd a e.cost) (0, 1)

/-- C of R455: the lowest rate among the configured ring links of the addressed hubs and the root's L3. -/
def ledgerC (s : State) : Nat :=
  let own := [laneMode s .l0, laneMode s .l1, laneMode s .l3]
  let far := (s.ring.nodes.filter (fun n => n.beacon.addressed)).flatMap (fun n => [n.beacon.modeL0, n.beacon.modeL1])
  let rates := ((own ++ far).map modeRate).filter (fun r => decide (r ≠ 0))
  match rates with
  | [] => 0
  | r :: t => t.foldl min r

/-- N_addr of R461: the addressed hubs that this hub knows, itself among them. -/
def addressedHubs (s : State) : Nat :=
  if s.ring.root then max 1 s.ring.table.length else 1 + s.ring.nodes.countP (fun n => n.beacon.addressed)

/-- C as this hub knows it: on a hub that is not root, L3 is the root's, from its beacon (R455). -/
def poolC (s : State) : Nat :=
  if s.ring.root then ledgerC s
  else
    let far := (s.ring.nodes.filter (fun n => n.beacon.addressed)).flatMap (fun n =>
      [n.beacon.modeL0, n.beacon.modeL1] ++ (if n.beacon.root then [n.beacon.modeL3] else []))
    match (([laneMode s .l0, laneMode s .l1] ++ far).map modeRate).filter (fun r => decide (r ≠ 0)) with
    | [] => 0
    | r :: t => t.foldl min r

/-- A of R455. -/
def ledgerA (s : State) : Nat := ledgerC s * (95 - rdf s RING.RETX_POOL 0 5) / 100

/-- The rebuilt or retained sum exceeds A (R462). -/
def overcommitted (s : State) : Bool := s.ring.root && fracAbove' (ledgerUsed s.adm.ledger) (ledgerA s)
where
  fracAbove' (a : Nat × Nat) (limit : Nat) : Bool := decide (limit * a.2 < a.1)

/-- The entry that a request belongs to: its own, or the one its twin partner made (R458). -/
def LedgerEnt.matches (e : LedgerEnt) (r : AdmRequest) : Bool :=
  decide (e.stream = r.stream) &&
    (decide (e.hub = r.hub) || (r.paired && decide (e.hub = r.partner ∧ e.partner = some r.hub)))

/-- The reply to a request, with the cost and the room as Table 10.6 gives them. -/
def replyOf (s : State) (r : AdmRequest) (result : Nat) : AdmReply :=
  let c := streamCost r.rate (max r.q 1)
  let n := if r.paired then 2 * c.1 else c.1
  let u := ledgerUsed s.adm.ledger
  { request := r.request, hub := r.hub, stream := r.stream, result := result, cost := ceilDiv n c.2
    room := (ledgerA s : Int) - (ceilDiv u.1 u.2 : Nat) }

/-- The root's decision on a request (R456 to R458, R462): the new ledger and the result. -/
def decideRequest (s : State) (r : AdmRequest) : List LedgerEnt × Nat :=
  let rest := s.adm.ledger.filter (fun e => !e.matches r)
  let fresh : LedgerEnt := ⟨r.hub, r.stream, r.q, r.rate, if r.paired then some r.partner else none, true, false⟩
  if s.adm.maxFrame < 44 + 8 * r.q then (s.adm.ledger, 4)
  else match s.adm.ledger.find? (fun e => e.matches r) with
    | some e =>
      if e.partner.isSome = r.paired ∧ e.q = r.q ∧ e.rate = r.rate then
        (s.adm.ledger.map (fun x => if x = e then
          (if e.hub = r.hub then { e with own := true } else { e with other := true }) else x), 0)
      else if e.partner.isSome ∧ r.paired then (s.adm.ledger, 3)
      else if overcommitted s then (s.adm.ledger, 6)
      else if overcommitted.fracAbove' (ledgerUsed (fresh :: rest)) (ledgerA s) then (s.adm.ledger, 1)
      else (rest ++ [fresh], 0)
    | none =>
      if overcommitted s then (s.adm.ledger, 6)
      else if overcommitted.fracAbove' (ledgerUsed (fresh :: rest)) (ledgerA s) then (s.adm.ledger, 1)
      else (rest ++ [fresh], 0)

/-- A release at the root (R459). -/
def releaseLedger (l : List LedgerEnt) (r : AdmRequest) : List LedgerEnt :=
  l.filterMap (fun e =>
    if e.stream = r.stream ∧ e.hub = r.hub then
      (if e.partner.isSome && e.other then some { e with own := false } else none)
    else if e.stream = r.stream ∧ e.partner = some r.hub then
      (if e.own then some { e with other := false } else none)
    else some e)

/-- The frame of the largest admitted quire (Table 10.11, MAX_FRAME). -/
def largestFrame (l : List LedgerEnt) : Nat := l.foldl (fun a e => max a (44 + 8 * e.q)) 0

end Sys2Proof.Machine
end

