-- ==== Sys2Proof/Machine/Line.lean ====
section
/-!
DEFINITION. The line code of the sensor ports (R665, R666): 8b/10b code groups with their running disparity, and the 100 symbols of
a frame with their CRC.
Marked choices: PRESUMED, log entry 80.
-/
namespace Sys2Proof.Machine

/-- The six-bit codes abcdei of D0 to D31 at negative disparity, bit a first (IEEE 802.3 Clause 36). -/
def sixNeg : List Nat := [
  0b100111, 0b011101, 0b101101, 0b110001, 0b110101, 0b101001, 0b011001, 0b111000,
  0b111001, 0b100101, 0b010101, 0b110100, 0b001101, 0b101100, 0b011100, 0b010111,
  0b011011, 0b100011, 0b010011, 0b110010, 0b001011, 0b101010, 0b011010, 0b111010,
  0b110011, 0b100110, 0b010110, 0b110110, 0b001110, 0b101110, 0b011110, 0b101011]

/-- The four-bit codes fghj at negative disparity, bit f first. -/
def fourNeg : List Nat := [0b1011, 0b1001, 0b0101, 0b1100, 0b1101, 0b1010, 0b0110, 0b1110]

/-- The ones among the low `n` bits. -/
def onesOf (n x : Nat) : Nat := (List.range n).countP (fun i => x.testBit i)

/-- The disparity after a sub-block of `n` bits: `pos` says that it was positive before (Clause 36). -/
def afterBlock (pos : Bool) (n x : Nat) : Bool :=
  if n < 2 * onesOf n x then true
  else if 2 * onesOf n x < n then false
  else if x = 2 ^ (n / 2) - 1 then true
  else if x = (2 ^ (n / 2) - 1) * 2 ^ (n / 2) then false
  else pos

/-- The six-bit code of D`x`, and the four-bit code `y` after it: `x` decides between the two codes of 7. -/
def sixCode (pos : Bool) (x : Nat) : Nat :=
  let c := sixNeg.getD x 0
  if pos ∧ (2 * onesOf 6 c ≠ 6 ∨ x = 7) then 63 - c else c

def fourCode (pos : Bool) (x y : Nat) : Nat :=
  let alt := decide (y = 7) && (if pos then [11, 13, 14].contains x else [17, 18, 20].contains x)
  let c := if alt then 0b0111 else fourNeg.getD y 0
  if pos ∧ (2 * onesOf 4 c ≠ 4 ∨ y = 3) then 15 - c else c

/-- The code group of a data byte, and the disparity after it. -/
def codeData (pos : Bool) (b : Byte) : Nat × Bool :=
  let x := b.toNat % 32
  let six := sixCode pos x
  let mid := afterBlock pos 6 six
  let four := fourCode mid x (b.toNat / 32)
  (16 * six + four, afterBlock mid 4 four)

/-- K28.5, and the disparity after it. -/
def codeComma (pos : Bool) : Nat × Bool := if pos then (0b1100000101, false) else (0b0011111010, true)

/-- The disparity after a code group, whether or not it is one of the code. -/
def afterGroup (pos : Bool) (g : Nat) : Bool := afterBlock (afterBlock pos 6 (g / 16)) 4 (g % 16)

/-- The byte of a data group: none for a control symbol, for a group out of the code and for one of the other disparity. -/
def decodeData (pos : Bool) (g : Nat) : Option Byte :=
  match (List.range 32).find? (fun x => decide (sixCode pos x = g / 16)) with
  | none => none
  | some x => ((List.range 8).find? (fun y => decide (fourCode (afterBlock pos 6 (g / 16)) x y = g % 16))).map
      (fun y => BitVec.ofNat 8 (32 * y + x))

/-- Data bytes in code, from a disparity on. -/
def codeBytes (pos : Bool) : List Byte → List Nat
  | [] => []
  | b :: t => (codeData pos b).1 :: codeBytes (codeData pos b).2 t

/-- The data bytes of code groups: none where one of them is a code error. -/
def decodeBytes (pos : Bool) : List Nat → Option (List Byte)
  | [] => some []
  | g :: t =>
    match decodeData pos g, decodeBytes (afterGroup pos g) t with
    | some b, some l => some (b :: l)
    | _, _ => none

/-- The four symbols of the CRC over symbols 1 to 95, most significant byte first (R666). -/
def crcSymbols (l : List Byte) : List Byte := netBytes 4 (crc32c (l.map (fun b => b.toNat)))

/-- A frame of 100 symbols with the 95 bytes `l`: comma, bytes, CRC. -/
def portGroups (pos : Bool) (l : List Byte) : List Nat :=
  let c := codeComma pos
  c.1 :: codeBytes c.2 (l ++ crcSymbols l)

/-- The 95 bytes of a frame of code groups: none with a missing comma, a code error or a bad CRC (R665, R666). -/
def portBytes (pos : Bool) (l : List Nat) : Option (List Byte) :=
  match l with
  | [] => none
  | c :: t =>
    if c = (codeComma pos).1 ∧ t.length = 99 then
      match decodeBytes (codeComma pos).2 t with
      | some b => if b.drop 95 = crcSymbols (b.take 95) then some (b.take 95) else none
      | none => none
    else none

/-- The disparity after a list of code groups. -/
def afterGroups (pos : Bool) (l : List Nat) : Bool := l.foldl afterGroup pos

end Sys2Proof.Machine
end

