-- ==== Sys2Proof/Machine/Sprt.lean ====
section
/-!
DEFINITION. Sensor ports (spec/15, R664 to R685): frames, link states, identity, commands, remote records.
Marked choices: DESIGN CHOICE, log entries 2, 16; DEDUCED, log entry 61.
-/
namespace Sys2Proof.Machine

def sprtOf (s : State) (p : Nat) : SprtState := s.sports.getD p {}
def onSprt (s : State) (p : Nat) (f : SprtState → SprtState) : State := { s with sports := s.sports.modify p f }

/-- The port states of Table 15.7. -/
abbrev Sp.OFF : Nat := 0
abbrev Sp.TRAIN : Nat := 1
abbrev Sp.MEASURE : Nat := 2
abbrev Sp.IDENT : Nat := 3
abbrev Sp.CONFIG : Nat := 4
abbrev Sp.RUN : Nat := 5
abbrev Sp.HOLD : Nat := 6

-- the identity (Table 15.6)

def idByte (x : SprtState) (i : Nat) : Nat := (x.ident.getD i 0).toNat
def idHalf (x : SprtState) (i : Nat) : Nat := idByte x i * 256 + idByte x (i + 1)
def idSerial (x : SprtState) : Word := word (idHalf x 4 * 65536 + idHalf x 6)
def idChannels (x : SprtState) : Nat := idByte x 8
def idSamp (x : SprtState) : Nat := idHalf x 9
def idLat (x : SprtState) : Nat := idByte x 11
def idMinDiv (x : SprtState) : Nat := idByte x 12

/-- An identity with version 0x01 and each field within Table 15.6 (R676). -/
def identOk (x : SprtState) : Bool :=
  decide (1 ≤ idChannels x ∧ idChannels x ≤ 24 ∧ 100 ≤ idSamp x ∧ idSamp x ≤ 900 ∧ 1 ≤ idLat x ∧ idLat x ≤ 8 ∧
    idByte x 13 = 1 ∧ idByte x 14 = 0)

-- channels

def spEn (s : State) (p j : Nat) : Bool := rdb s (SPRT.CH_CFG p j) 0

/-- CHj_CFG as it counts for frame `f`: a change counts from its own index (R678). -/
def spCfg (s : State) (p j f : Nat) : Word :=
  let x := sprtOf s p
  if f < x.since.getD j 0 then x.was.getD j 0 else rd s (SPRT.CH_CFG p j)

/-- One remote raw record of channel j for frame `f` (R672, R680): the value word, with its tags, enters the chain. -/
def remoteRecord (s : State) (p j f : Nat) (v : Option Value) (brk : Bool) : State :=
  let x := sprtOf s p
  let setl := decide (0 < x.setl.getD j 0 ∧ x.setlAt.getD j 0 ≤ f)
  let clip := v.any (fun v => decide (v = 0x7fffff ∨ v = 0x800001))
  let tag := tagByte 7 setl brk clip false false
  let val := v.bind (fun v => if v = 0x800000 then none else some v.toInt)
  let w := match val with
    | some i => recWord i tag
    | none => nodataWord tag
  let s := if setl then onSprt s p (fun x => { x with setl := x.setl.modify j (· - 1) }) else s
  match chainOfChannel (192 + 24 * p + j) with
  | some c => feedChain s c 7 (val.getD 0) (10 * f) w
  | none => s

/-- A SET_CH for the channel failed, in force at frame `f` (R681). -/
def chRefused (x : SprtState) (j f : Nat) : Bool := x.refused.any (fun r => decide (r.1 = j ∧ r.2 ≤ f))

/-- The records of frame `f` (R672, R680): samples of `u` where it is given and the port is in RUN, NODATA otherwise. -/
def frameRecords (s : State) (p f : Nat) (u : Option Uplink) : State :=
  if sampling s then
    (List.range 24).foldl (fun s j =>
      let cfg := spCfg s p j f
      if bit cfg 0 ∧ fld cfg 4 20 ≠ 0 ∧ f % max 1 (fld cfg 4 20) = 0 then
        let x := sprtOf s p
        let v := match u with
          | some u => if x.st = Sp.RUN ∧ x.fa ≤ f ∧ !chRefused x j f then u.slots[j]? else none
          | none => none
        remoteRecord s p j f v (v.isSome && u.any (fun u => u.brk.getLsbD j))
      else s) s
  else s

/-- The records of every frame up to `f`: those that no uplink frame brought hold NODATA. -/
def recordsTo (s : State) (p f : Nat) (u : Option Uplink) : State :=
  let x := sprtOf s p
  let from' := match x.recorded with
    | some r => r + 1
    | none => f
  if f < from' then s
  else
    let s := (List.range (f - from')).foldl (fun s i => frameRecords s p (from' + i) none) s
    onSprt (frameRecords s p f u) p (fun x => { x with recorded := some f })

-- commands

/-- A new command takes a new tag, from 1 to 255 (R677). -/
def newCmd (s : State) (p op : Nat) (args : List Word) (host : Bool) (chan : Nat) : State :=
  onSprt s p (fun x =>
    let t := x.tag % 255 + 1
    { x with tag := t, cmd := some { tag := t, op := op, args := args, host := host, chan := chan } })

/-- The arguments of SET_CH (Table 15.6) from the settings `g`: channel and div, option word, F_a. -/
def setChArgs (g : Nat → Word) (p j fa : Nat) : List Word :=
  [word (j * 2 ^ 24 + fld (g (SPRT.CH_CFG p j)) 4 20), g (SPRT.CH_OPT p j), word fa]

/-- CONFIG begins (Table 15.7): SET_CH for every enabled channel; F_a is the hub's own choice of a frame to come. -/
def enterConfig (s : State) (p : Nat) : State :=
  let fa := (sprtOf s p).frame + 1 + (Config.freeWord s.freeCtr).toNat % 1500
  let chans := (List.range 24).filter (fun j => spEn s p j)
  onSprt (drawn s) p (fun x => { x with
    st := Sp.CONFIG, fa := fa, sets := chans.map (fun j => (j, setChArgs (rd s) p j fa)), refused := [] })

/-- The port returns to TRAIN. -/
def enterTrain (s : State) (p : Nat) : State :=
  onSprt s p (fun x => { x with st := Sp.TRAIN, good := 0, bad := 0, rttSum := 0, rttCount := 0, sets := [],
                                cmd := x.cmd.filter (·.host) })

/-- A link loss (R679): counted, reported, back to TRAIN; the first RUN after it is an input mode change (R680). -/
def linkLoss (s : State) (p : Nat) : State :=
  enterTrain (onSprt (evt (bumpSat s (SPRT.SEQ_ERR p) 16 16 1) (pgSPRT p) 0) p (fun x => { x with lost := true })) p

/-- Channels of page `p` whose CHj_CFG or CHj_OPT the settings `g` change. -/
def sprtChanges (s : State) (p : Nat) (g : Nat → Word) : List Nat :=
  (List.range 24).filter (fun j =>
    decide (g (SPRT.CH_CFG p j) ≠ rd s (SPRT.CH_CFG p j) ∨ g (SPRT.CH_OPT p j) ≠ rd s (SPRT.CH_OPT p j)))

/-- A scheduled change of a running port (R678): SET_CH with F_a = APPLY_AT / 10, from the values of `g`. -/
def sprtScheduled (s : State) (p : Nat) (g : Nat → Word) (n : Nat) : State :=
  if (sprtOf s p).st = Sp.RUN then
    let ch := sprtChanges s p g
    onSprt s p (fun x => { x with sets := x.sets ++ ch.map (fun j => (j, setChArgs g p j (n / 10))) })
  else s

/-- RUN begins: the serial is remembered; after a link loss the first 16 raw records from F_a carry SETL (R676,
R680). The channels of a commit that is already scheduled have their SET_CH now (R678). -/
def enterRunSp (s : State) (p : Nat) : State :=
  let s := onSprt s p (fun x => { x with
    st := Sp.RUN, lost := false, runSerial := some (idSerial x)
    setl := if x.lost then List.replicate 24 16 else x.setl
    setlAt := if x.lost then List.replicate 24 x.fa else x.setlAt })
  let s := evt s (pgSPRT p) 1
  match (pinfo s (pgSPRT p)).sched with
  | some n => sprtScheduled s p (rdShadow s) n
  | none => s

/-- The next SET_CH of the list becomes the command in flight. -/
def nextSet (s : State) (p : Nat) : State :=
  let x := sprtOf s p
  if x.cmd.isSome then s
  else match x.sets with
    | [] => s
    | (j, args) :: t => newCmd (onSprt s p (fun x => { x with sets := t })) p 0x02 args false j

/-- ADV moves towards d + D_SAMP by at most 15.625 ps per frame in RUN (R670). -/
def moveAdv (x : SprtState) : SprtState :=
  let target := x.delay + 256 * (idSamp x : Int)
  if x.st = Sp.RUN ∨ x.st = Sp.HOLD then { x with adv := x.adv + clampI (-4) 4 (target - x.adv) }
  else if Sp.IDENT ≤ x.st then { x with adv := target } else x

/-- Symbols 1 to 95 of the last downlink frame (Table 15.4). -/
def downBytes (x : SprtState) : List Byte :=
  netBytes 4 (x.frame % 2 ^ 32) ++ [0] ++ netBytes 1 x.down.1 ++ netBytes 1 x.down.2.1 ++
    ((x.down.2.2.take 8).flatMap (fun w => netBytes 4 w.toNat) ++ List.replicate (32 - 4 * min 8 x.down.2.2.length) 0) ++
    List.replicate 56 0

/-- The code groups of the last downlink frame. -/
def downGroups (x : SprtState) : List Nat := portGroups x.downFrom (downBytes x)

/-- DOWNLINK_FRAME (R665 to R667, R670, R674): the frame of the next sample instant leaves; the disparity goes on from frame to frame. -/
def downlinkFrame (s : State) (p : Nat) : State :=
  if !blkOn s (pgSPRT p) then s
  else
    let f := now s / 10 + 1
    let s := if (sprtOf s p).st = Sp.OFF then enterTrain s p else s
    let x := sprtOf s p
    let s := if x.st = Sp.CONFIG ∧ x.cmd.isNone ∧ x.sets.isEmpty ∧ x.fa ≤ f then enterRunSp s p else s
    let s := nextSet s p
    onSprt s p (fun x =>
      let d := match x.cmd with
        | some c => if c.due then (c.tag, c.op, c.args) else (0, 0, [])
        | none => (0, 0, [])
      let x : SprtState := { x with frame := f, down := d, downFrom := x.downEnd, cmd := x.cmd.map (fun c => { c with due := false, sent := if c.due then f else c.sent }) }
      moveAdv { x with downEnd := afterGroups x.downFrom (downGroups x) })

def execDownlinkFrame (p : Fin 8) (s : State) : Host.Outcome State Fault Refusal := .next (downlinkFrame s p)

-- responses

/-- A SET_CH that was refused or timed out (R681). -/
def setFailed (s : State) (p : Nat) (c : SprtCmd) : State :=
  evt (onSprt s p (fun x => { x with refused := (c.chan, (c.args.getD 2 0).toNat) :: x.refused })) (pgSPRT p) 5

/-- The identity response is checked (R676). -/
def identResponse (s : State) (p : Nat) (data : List Byte) : State :=
  let s := onSprt s p (fun x => { x with ident := data })
  let x := sprtOf s p
  if !identOk x then evt (onSprt s p (fun x => { x with st := Sp.HOLD })) (pgSPRT p) 3
  else if x.runSerial.any (fun r => decide (r ≠ idSerial x)) then
    evt (onSprt s p (fun x => { x with st := Sp.HOLD })) (pgSPRT p) 2
  else enterConfig s p

/-- Four bytes, the first most significant. -/
def beWord (l : List Byte) (i : Nat) : Word :=
  word ((((l.getD i 0).toNat * 256 + (l.getD (i + 1) 0).toNat) * 256 + (l.getD (i + 2) 0).toNat) * 256 + (l.getD (i + 3) 0).toNat)

/-- The response to the command in flight (R676, R677, R681). -/
def sprtResponse (s : State) (p : Nat) (u : Uplink) : State :=
  match (sprtOf s p).cmd with
  | none => s
  | some c =>
    if u.respValid ∧ u.respTag = c.tag then
      let s := onSprt s p (fun x => { x with cmd := none })
      if c.op = 0x01 then
        if (sprtOf s p).st ≠ Sp.IDENT then s
        else if u.respCode = 0 then identResponse s p u.respData
        else evt (onSprt s p (fun x => { x with st := Sp.HOLD })) (pgSPRT p) 3
      else if c.op = 0x02 then
        if u.respCode = 0 then
          onSprt s p (fun x => { x with refused := x.refused.filter (fun r => decide (r.1 ≠ c.chan)) })
        else setFailed s p c
      else
        let data := u.respData.take 15
        evt (onSprt s p (fun x => { x with
          resp := word (c.tag + 2 ^ 8 * (u.respCode % 256) + 2 ^ 16)
          respData := [beWord data 0, beWord data 4, beWord data 8, beWord data 12] })) (pgSPRT p) 6
    else s

/-- COMMAND_RESEND (R677): another sending of the command in flight 100 frames after the last, or its timeout after the third. -/
def execCommandResend (p : Fin 8) (s : State) : Host.Outcome State Fault Refusal :=
  .next (match (sprtOf s p).cmd with
    | none => s
    | some c =>
      if c.due ∨ (sprtOf s p).frame < c.sent + 100 then s
      else if c.resends < 3 then onSprt s p (fun x => { x with cmd := some { c with due := true, resends := c.resends + 1 } })
      else
        let s := onSprt s p (fun x => { x with cmd := none, resp := word (c.tag + 2 ^ 17) })
        if c.op = 0x01 then evt (onSprt s p (fun x => { x with st := Sp.HOLD })) (pgSPRT p) 3
        else if c.op = 0x02 then setFailed s p c
        else evt s (pgSPRT p) 6)

-- the uplink

/-- RTT in units of 156.25 ps enters the average of 256 frames (R669); d outside 0 to 1,000 ns is a link error (R670). -/
def measureRtt (s : State) (p rtt : Nat) : State :=
  let x := sprtOf s p
  if x.rttCount + 1 < 256 then
    onSprt s p (fun x => { x with rttSum := x.rttSum + rtt, rttCount := x.rttCount + 1 })
  else
    -- 156.25 ps is 40 units of 2⁻⁸ ns
    let avg := roundAway (((x.rttSum + rtt) * 40 : Nat) : Int) 256
    let d := roundAway (avg - 51200 + (rd s (SPRT.ASYM p)).toInt) 2
    let s := onSprt s p (fun x => { x with rttSum := 0, rttCount := 0, delay := d })
    if d < 0 ∨ 256000 < d then linkLoss s p
    else if x.st = Sp.MEASURE then newCmd (onSprt s p (fun x => { x with st := Sp.IDENT })) p 0x01 [] false 0
    else s

/-- UPLINK_FRAME (R669, R672 to R681): `u` is the frame that answers the last downlink frame. -/
def uplinkFrame (s : State) (p : Nat) (u : Uplink) : State :=
  let x := sprtOf s p
  if !blkOn s (pgSPRT p) ∨ x.st = Sp.OFF then s
  else
    let lat := idLat x
    let src := x.frame - lat
    let checksSeq := decide (x.st = Sp.CONFIG ∨ x.st = Sp.RUN) || (decide (x.st = Sp.HOLD) && identOk x)
    let seqBad := u.good && checksSeq && decide (u.fs ≠ BitVec.ofNat 16 src)
    let s := if u.good then s else bumpSat s (SPRT.CRC_ERR p) 0 32 1
    let s := if seqBad then bumpSat s (SPRT.SEQ_ERR p) 0 16 1 else s
    if !u.good ∨ seqBad then
      let s := if x.st = Sp.RUN then recordsTo s p src none else s
      let s := onSprt s p (fun x => { x with good := 0, bad := x.bad + 1 })
      if 4 ≤ (sprtOf s p).bad ∧ Sp.TRAIN < x.st then linkLoss s p else s
    else
      let s := onSprt s p (fun x => { x with bad := 0, good := if u.ready then x.good + 1 else 0, fault := u.fault })
      let s := evtIf u.fault s (pgSPRT p) 4
      let s := if x.st = Sp.TRAIN then
          (if 64 ≤ (sprtOf s p).good then onSprt s p (fun x => { x with st := Sp.MEASURE, rttSum := 0, rttCount := 0 }) else s)
        else measureRtt s p u.rtt
      let s := if x.st = Sp.RUN then recordsTo s p src (some u) else s
      sprtResponse s p u

/-- The frame that the 95 bytes of symbols 1 to 95 spell (Table 15.5). -/
def uplinkOf (l : List Byte) (rtt : Nat) : Uplink :=
  let n (k w : Nat) : Nat := netNat ((l.drop (k - 1)).take w)
  { good := true, fs := BitVec.ofNat 16 (n 1 2), ready := (n 3 1).testBit 0, fault := (n 3 1).testBit 1
    respValid := (n 3 1).testBit 2, brk := BitVec.ofNat 24 (n 4 3)
    slots := (List.range 24).map (fun j => BitVec.ofNat 24 (n (7 + 3 * j) 3))
    respTag := n 79 1, respCode := n 80 1, respData := l.drop 80, rtt := rtt }

/-- A frame with a CRC error, a code error or a missing comma: nothing in it counts. -/
def badUplink (rtt : Nat) : Uplink :=
  { good := false, fs := 0, ready := false, fault := false, respValid := false, brk := 0, slots := [], respTag := 0, respCode := 0
    respData := [], rtt := rtt }

/-- The frame that code groups spell on port `p` (R665, R666). -/
def uplinkHeard (s : State) (p : Nat) (l : List (BitVec 10)) (rtt : Nat) : Uplink :=
  match portBytes (sprtOf s p).upEnd (l.map (fun g => g.toNat)) with
  | some b => uplinkOf b rtt
  | none => badUplink rtt

/-- UPLINK_FRAME (R665 to R667): the code groups of a frame and its round trip. -/
def execUplinkFrame (p : Fin 8) (groups : List (BitVec 10)) (s : State) (rtt : Nat := 0) : Host.Outcome State Fault Refusal :=
  .next (uplinkFrame (onSprt s p (fun x => { x with upEnd := afterGroups x.upEnd (groups.map (fun g => g.toNat)) })) p
    (uplinkHeard s p groups rtt))

-- control

/-- SPRT.CTRL op = 1 (R677). -/
def sendCommand (s : State) (w : Who) (p : Nat) : State :=
  let op := rdf s (SPRT.CMD_OP p) 0 8
  checked s w (SPRT.CTRL p) (firstSome [
      rejIf (sprtOf s p).cmd.isSome Rsn.BUSY, rejIf (decide (op = 1 ∨ op = 2)) 0x42]) (fun s =>
    onSprt (newCmd s p op ((List.range 8).map (fun i => rd s (SPRT.CMD_ARG p i))) true 0) p
      (fun x => { x with resp := 0 }))

def execSendCommand (p : Path) (port : Fin 8) (s : State) : Host.Outcome State Fault Refusal :=
  .next (gated s (some p) (SPRT.CTRL port) (fun s => sendCommand s (some p) port))

/-- SPRT.CTRL op = 2: the identity is accepted and the port leaves HOLD. -/
def acceptIdentity (s : State) (p : Nat) : State := if (sprtOf s p).st = Sp.HOLD then enterConfig s p else s

def execAcceptIdentity (p : Path) (port : Fin 8) (s : State) : Host.Outcome State Fault Refusal :=
  .next (gated s (some p) (SPRT.CTRL port) (fun s => acceptIdentity s port))

/-- SPRT.CTRL op = 3. -/
def retrain (s : State) (p : Nat) : State := if (sprtOf s p).st = Sp.OFF then s else enterTrain s p

def execRetrain (p : Path) (port : Fin 8) (s : State) : Host.Outcome State Fault Refusal :=
  .next (gated s (some p) (SPRT.CTRL port) (fun s => retrain s port))

/-- A write of SPRT.CTRL. -/
def sprtCtrl (s : State) (w : Who) (p : Nat) (v : Word) : State :=
  match fld v 0 3 with
  | 1 => sendCommand s w p
  | 2 => acceptIdentity s p
  | _ => retrain s p

/-- A change of the block's enable (R674). -/
def sprtEnable (s : State) (p : Nat) (on : Bool) : State :=
  if on then (if (sprtOf s p).st = Sp.OFF then enterTrain s p else s)
  else onSprt s p (fun x => { x with st := Sp.OFF, good := 0, bad := 0, cmd := none, sets := [] })

-- writes and commits

/-- The checks of a write to SPRT page `p`, offset `o` (R672). -/
def sprtChk (s : State) (p o : Nat) (w : Word) : Chk :=
  if 0x100 ≤ o ∧ o < 0x1c0 ∧ o % 8 = 0 then
    let x := sprtOf s p
    let j := (o - 0x100) / 8
    { spec := rejIf (!x.ident.isEmpty && (decide (fld w 4 20 < idMinDiv x) || (bit w 0 && decide (idChannels x ≤ j)))) 0x41 }
  else {}

/-- The checks of a commit of SPRT page `p` when it is written (R678): `at'` is the index of COMMIT = 2. -/
def sprtCommitChk (s : State) (p : Nat) (g : Nat → Word) (at' : Option (Nat × Nat)) : Chk :=
  let ok := match at' with
    | some (m, n) => decide (n % 10 = 0 ∧ m + 5000 ≤ n)
    | none => false
  { spec := rejIf (decide ((sprtOf s p).st = Sp.RUN) && !(sprtChanges s p g).isEmpty && !ok) 0x40 }

/-- The effect of a commit: an input mode change of the changed channels from the first frame at or after the commit index
(R678, Table 8.3); frames before it keep the settings they had. -/
def sprtCommitted (s0 s : State) (p : Nat) : State :=
  let ch := sprtChanges s0 p (rd s)
  let n := ceilDiv (now s) 10
  let by' {α : Type} (new : Nat → α) (old : List α) (d : α) : List α :=
    (List.range 24).map (fun j => if ch.contains j then new j else old.getD j d)
  let s := ch.foldl (fun s j =>
    let c := 128 + 24 * p + j
    if chainRaw s0 c = chainRaw s c then s else onChain s c resamplerClear) s
  onSprt s p (fun x => { x with
    setl := by' (fun _ => 16) x.setl 0, setlAt := by' (fun _ => n) x.setlAt 0
    since := by' (fun _ => n) x.since 0, was := by' (fun j => rd s0 (SPRT.CH_CFG p j)) x.was 0 })

/-- A sample instant of the ports passes (R680): outside RUN, every enabled channel due in its frame has a record holding NODATA. -/
def tickPorts (s : State) : State :=
  if now s % 10 = 0 then
    (List.range 8).foldl (fun s p => if (sprtOf s p).st = Sp.RUN then s else recordsTo s p (now s / 10) none) s
  else s

-- views

/-- LATENCY (R673): (LAT + 1) µs + d − D_SAMP + 300 ns in ticks, rounded up; 0 before an identity declares LAT and D_SAMP. -/
def latencyTicks (x : SprtState) : Nat :=
  if x.ident.isEmpty then 0 else ceilDiv (((idLat x + 1 : Nat) : Int) * 256000 + x.delay - 256 * (idSamp x : Int) + 76800).toNat 25600

/-- The computed registers of SPRT page `p`. -/
def sprtView (s : State) (p o : Nat) : Option Word :=
  let x := sprtOf s p
  match o with
  | 0x44 => some (word (x.st + 2 ^ 3 * b2n x.fault + 2 ^ 4 * b2n x.cmd.isSome + 2 ^ 8 * x.tag))
  | 0x48 => some (wordI x.delay)
  | 0x50 => some (wordI x.adv)
  | 0x54 => some (word (latencyTicks x))
  | 0x58 => some (beWord x.ident 0)
  | 0x5c => some (beWord x.ident 4)
  | 0x60 => some (word (idChannels x + 2 ^ 8 * idLat x + 2 ^ 16 * idSamp x))
  | 0x64 => some (word (idByte x 13 + 2 ^ 8 * idMinDiv x))
  | 0x94 => some x.resp
  | 0x98 => some (x.respData.getD 0 0)
  | 0x9c => some (x.respData.getD 1 0)
  | 0xa0 => some (x.respData.getD 2 0)
  | 0xa4 => some (x.respData.getD 3 0)
  | _ => none

def sprtSummary (s : State) (p : Nat) : Nat := (sprtOf s p).st

end Sys2Proof.Machine
end

