-- ==== Sys2Proof/Machine/Streams.lean ====
section
/-!
DEFINITION. Streams and the Felt (spec/11): content and order of records, quires, opening, admission results,
acknowledgement, retransmission, hold time and the ends of a stream.
Marked choices: DESIGN CHOICE, log entries 53, 78; DEDUCED, log entry 55.
-/
namespace Sys2Proof.Machine

-- one stream

def strmOf (s : State) (i : Nat) : StreamState := s.streams.getD i {}
def onStrm (s : State) (i : Nat) (f : StreamState → StreamState) : State := { s with streams := s.streams.modify i f }

/-- A change of state sets the stream's bit of STREAM_EVT (Table 11.8). -/
def setSt (s : State) (i : Nat) (st : StrmSt) : State :=
  let a := if i < 32 then STRM.STREAM_EVT_LO else STRM.STREAM_EVT_HI
  let s := wr s a (rd s a ||| bitW (i % 32) true)
  onStrm s i (fun x => { x with st := st })

/-- The word and the bit of a channel in the selection of stream `i`. -/
def chanSel (s : State) (i ch : Nat) : Bool := bit (sparseGet s.strmSel 0 (12 * i + ch / 32)) (ch % 32)
def selChans (s : State) (i : Nat) : List Nat := (List.range 384).filter (fun ch => chanSel s i ch)

def strmQ (s : State) (i : Nat) : Nat := rdf s (STRM.CFG i) 0 7
def strmSource (s : State) (i : Nat) : Nat := rdf s (STRM.CFG i) 8 2
def strmFlush (s : State) (i : Nat) : Nat := rdf s (STRM.CFG i) 16 16
def strmRate (s : State) (i : Nat) : Nat := rd64 s (STRM.RATE_LO i)
def strmHold (s : State) (i : Nat) : Nat := rdf s (STRM.HOLD i) 0 16

/-- The stream takes records: it runs, or completes its open quire before it closes (R491). -/
def takesRecords (x : StreamState) : Bool := decide (x.st = .running ∨ x.st = .closing) && !x.finished

-- rates and shares

/-- rec of an edge channel in force. -/
def edgeRec (s : State) (e : Nat) : Nat := rdf s (EDGE.CH_CFG (e / 8) (e % 8)) 4 2

/-- The greatest record rate of an edge channel (Table 15.2), as a fraction. -/
def edgeRate (s : State) (e : Nat) : Nat × Nat :=
  if edgeRec s e = 0 then (0, 1)
  else if edgeRec s e = 1 then (10000000, max 1 (rdf s (EDGE.CH_REC (e / 8) (e % 8)) 0 16))
  else (5000000, 1)

/-- P of check 5: the greatest rate at which the selection can produce records. -/
def selRate (s : State) (i : Nat) : Nat × Nat :=
  (selChans s i).foldl (fun a ch =>
    match chainOfChannel ch with
    | some c =>
      let k := chainCfg s c
      if strmSource s i = 0 then fracAdd a k.outRate
      else if k.w = 0 then a else fracAdd a (4 * k.outRate.1, k.outRate.2 * k.w)
    | none => if strmSource s i = 0 then fracAdd a (edgeRate s (ch - 128)) else a) (0, 1)

/-- Check 4: channels are selected, and each can produce records. -/
def selOk (s : State) (i : Nat) : Bool :=
  let l := selChans s i
  decide (strmSource s i = 2) || (!l.isEmpty && l.all (fun ch =>
    match chainOfChannel ch with
    | some c => (chainCfg s c).en
    | none => decide (edgeRec s (ch - 128) ≠ 0)))

/-- S of R478 in quires, and in units of 64 KiB. -/
def shareQuires (s : State) (i : Nat) : Nat := ceilDiv (strmRate s i * strmHold s i) (65536000 * max 1 (strmQ s i)) + 2
def shareUnits (s : State) (i : Nat) : Nat := ceilDiv (shareQuires s i * (16 + 8 * strmQ s i)) 65536

/-- FELT_FREE in units of 64 KiB. -/
def feltFree (s : State) : Nat := rdf s VAT.FELT_SIZE 0 12 * 16 - s.streams.foldl (fun a x => a + x.share) 0

/-- The free units of the Felt, lowest first. -/
def freeUnits (s : State) : List Nat :=
  (List.range (rdf s VAT.FELT_SIZE 0 12 * 16)).filter (fun u => s.streams.all (fun x => !(x.units.take x.share).contains u))

-- quires

/-- A record carries SETL, BRK, XCH or CLIP. -/
def Slot.tagged (x : Slot) : Bool := decide (x.val.toNat % 32 / 2 ≠ 0)

def quireCode : QuireKind → Nat
  | .data => 0
  | .notSampled => 1
  | .endQuire => 2

/-- The header of a quire (Table 8.5). -/
def quireHead (q : Quire) : List Word :=
  [word (q.stream * 2 ^ 26 + quireCode q.kind * 2 ^ 24 + q.slots.length % 2 ^ 7 * 2 ^ 16 + q.hub % 2 ^ 6 * 2 ^ 10 +
      q.eccSlots * 2 ^ 4 + b2n q.tagged * 8 + b2n q.member * 4 + b2n q.retx * 2 + b2n (decide (q.eccSlots ≠ 0))),
    q.sequence, word (q.first / 2 ^ 32), word q.first]

/-- The words of a quire: its header, then its slots, each with the index word first (R335, R346). -/
def quireWords (q : Quire) : List Word := quireHead q ++ q.slots.flatMap (fun x => [x.idx, x.val])

/-- A quire of stream `i` with the next sequence, on its way to the Felt (R349); its hub address is that of its first sending. -/
def pushQuire (s : State) (i : Nat) (kind : QuireKind) (first : Nat) (slots : List Slot) : State :=
  let x := strmOf s i
  let q : Quire :=
    { stream := i, kind := kind, hub := s.ring.address.getD 0, eccSlots := if kind = .data then min 63 x.curEcc else 0
      tagged := decide (kind = .data) && slots.any Slot.tagged
      member := s.pins.strapTwin, retx := false, sequence := x.nextSeq, first := first, slots := slots }
  onStrm s i (fun x => { x with nextSeq := x.nextSeq + 1, queue := x.queue ++ [⟨q, s.time.now, none, none, false⟩] })

/-- Closes the open quire, if it holds records. -/
def closeQuire (s : State) (i : Nat) : State :=
  let x := strmOf s i
  if x.cur.isEmpty then s
  else onStrm (pushQuire s i .data x.curFirst x.cur) i (fun x => { x with cur := [], curEcc := 0 })

/-- The index of the first record not placed (R489): of the open quire where that is discarded, of a waiting record, the
next output index of the channels, or one past the newest record placed. -/
def firstUnplaced (x : StreamState) (discard : Bool) : Nat :=
  if discard && !x.cur.isEmpty then x.curFirst
  else match x.wait with
    | r :: _ => r.idx
    | [] =>
      match x.marks.filterMap (·.next) with
      | [] => x.placed
      | n :: t => max x.start (t.foldl min n)

/-- The end quire: no further record is placed (R348, R489, R491). -/
def finishStream (s : State) (i cause : Nat) (discard : Bool) : State :=
  let x := strmOf s i
  let f := firstUnplaced x discard
  let s := pushQuire s i .endQuire f [⟨0, 0⟩]
  onStrm s i (fun x => { x with
    cur := [], curEcc := 0, wait := [], finished := true, endCause := if x.endCause = 0 then cause else x.endCause, lost := f })

-- admission on the requesting hub

/-- The request of stream `i` (R479). -/
def requestOf (s : State) (i id : Nat) (release : Bool) : AdmRequest :=
  { request := id, hub := s.ring.address.getD 0, stream := i, paired := isPaired s, release := release
    partner := if isPaired s then s.twin.partnerAddr else 0xff, q := strmQ s i, rate := strmRate s i }

/-- An admission result reaches the stream (R464, R479, R480, Table 11.1). -/
def admResult (s : State) (i id result : Nat) : State :=
  let s := wr s RING.ADM_LAST (word (result + 2 ^ 8 * i + 2 ^ 16 * (id % 2 ^ 16)))
  let s := { s with adm := { s.adm with waiting := s.adm.waiting.filter (fun w => decide (w.2.1 ≠ i)) } }
  let s := onStrm s i (fun x => { x with adm := result })
  if result = 0 then
    let n := now s
    let st := rd64 s (STRM.START_LO i)
    let late := decide (st ≤ n + 10000)
    let st' := if late then (n / 10000 + 1) * 10000 else st
    let pr := isPaired s
    -- R841: a stream that the partner runs is joined at the partner's position, and START is ignored
    let join := pr && s.twin.positions.any (fun q => decide (q.stream = i))
    let st' := if join then n else st'
    let s := onStrm s i (fun x => { x with
      start := st', placed := st', lateStart := late && !join, paired := pr, joining := if join then some n else none })
    evt (setSt s i .admitted) pgSTRM 0
  else
    let s := onStrm s i (fun x => { x with share := 0 })
    evt (evt (setSt s i .idle) pgSTRM 1) pgRING 5

/-- The root decides one request and replies (R456); a request of its own is answered at once. -/
def rootDecide (s : State) (r : AdmRequest) : State :=
  let d := decideRequest s r
  let s := { s with adm := { s.adm with ledger := d.1 } }
  if s.ring.address = some r.hub then
    match s.adm.waiting.find? (fun w => decide (w.1 = r.request)) with
    | some w => admResult s w.2.1 r.request d.2
    | none => s
  else match macOfAddr s r.hub with
    | some m => sendRing s m (.admReply (replyOf s r d.2))
    | none => s

/-- A request reaches the root: it is held while the ledger is rebuilt (R462). -/
def rootRequest (s : State) (r : AdmRequest) : State :=
  if s.ring.rebuilding then { s with adm := { s.adm with held := s.adm.held ++ [r] } } else rootDecide s r

/-- A release reaches the root (R459). -/
def rootRelease (s : State) (r : AdmRequest) : State :=
  { s with adm := { s.adm with
    ledger := releaseLedger s.adm.ledger r
    held := s.adm.held.filter (fun h => decide (¬ (h.hub = r.hub ∧ h.stream = r.stream))) } }

/-- Sends a request or release to the root, or decides it here on the root. -/
def sendAdm (s : State) (r : AdmRequest) : State :=
  if s.ring.root then (if r.release then rootRelease s r else rootRequest s r)
  else sendRing s (rootMac s) (.admission r)

/-- Releases the admission of stream `i` (R459, R489, R491). -/
def releaseAdm (s : State) (i : Nat) : State :=
  let id := s.adm.nextRequest
  sendAdm { s with adm := { s.adm with nextRequest := (id + 1) % 65536 } } (requestOf s i id true)

-- opening

/-- The checks of Table 11.1 before admission, in its order. -/
def openChk (s : State) (i : Nat) : Option Rej :=
  let p := selRate s i
  firstSome [
    rejIf (decide (64 ≤ i)) 0x40,
    rejIf (decide ((strmOf s i).st ≠ .idle ∨ s.pwr.st = .dusk)) Rsn.BUSY,
    rejIf (decide (strmRate s i = 0)) 0x43,
    rejIf (!selOk s i) 0x44,
    rejIf (decide (strmSource s i ≠ 2 ∧ strmRate s i * p.2 < p.1 * 65536)) 0x42,
    rejIf (decide (feltFree s < shareUnits s i)) 0x41]

/-- STRM.CTRL op 1 (R477 to R479). -/
def openStream (s : State) (w : Who) (i : Nat) : State :=
  match openChk s i with
  | some r => evt (refuse s w STRM.CTRL r) pgSTRM 1
  | none =>
    let sh := shareUnits s i
    let s := onStrm s i (fun x => { share := sh, units := (freeUnits s).take sh, adm := x.adm, sent := 0xFFFFFFFF, acked := 0xFFFFFFFF, ackAt := s.time.now })
    let s := setSt s i .requesting
    let id := s.adm.nextRequest
    if s.ring.address.isNone then admResult s i id 5
    else
      let s := { s with adm := { s.adm with
        nextRequest := (id + 1) % 65536, waiting := s.adm.waiting ++ [(id, i, s.time.now)] } }
      sendAdm s (requestOf s i id false)

def execOpenStream (p : Path) (i : Nat) (s : State) : Host.Outcome State Fault Refusal :=
  .next (gated s (some p) STRM.CTRL (fun s => openStream s (some p) i))

/-- An admitted stream enters RUNNING (R479). -/
def startStream (s : State) (i : Nat) : State := setSt s i .running

/-- STREAM_START (R479). -/
def execStreamStart (i : Fin 64) (s : State) : Host.Outcome State Fault Refusal :=
  .next (when (decide ((strmOf s i).st = .admitted ∧ (strmOf s i).start ≤ now s)) s (fun s => startStream s i))

-- placing records

/-- Places one record into the open quire (R474, R475, R481). -/
def placeRec (s : State) (i : Nat) (r : WaitRec) : State :=
  let x := strmOf s i
  if r.idx < x.start ∨ !takesRecords x then s
  else
    let fl := strmFlush s i
    let s := if fl ≠ 0 ∧ !x.cur.isEmpty ∧ x.curFirst + fl * 1000 ≤ r.idx then closeQuire s i else s
    if (strmOf s i).st = .closing ∧ (strmOf s i).cur.isEmpty then s
    else
      let s := onStrm s i (fun x => { x with
        curFirst := if x.cur.isEmpty then r.idx else x.curFirst, cur := x.cur ++ [r.slot], placed := r.idx + 1
        curEcc := x.curEcc + b2n r.ecc })
      if strmQ s i ≤ (strmOf s i).cur.length then closeQuire s i else s

/-- Post records taken by a channel. -/
def takenOf (g : Segment) (ch : Nat) : Nat := ((g.taken.find? (fun e => decide (e.1 = ch))).map (·.2)).getD 0

/-- The channels that ream `r` still passes to stream `i`, where it spills its open segment into it (R536). -/
def spillChans (s : State) (i r : Nat) : List Nat :=
  match (s.reams.getD r {}).seg with
  | some g =>
    if rdb s (CAPT.RM_CFG r) 4 ∧ rdf s (CAPT.RM_TRIG r) 24 6 = i then
      (List.range 384).filter (fun ch => bit (sparseGet s.captSel 0 (12 * r + ch / 32)) (ch % 32) &&
        decide (takenOf g ch < (rd s (CAPT.RM_POST r)).toNat))
    else []
  | none => []

/-- The channels that a waiting record of stream `i` waits for (R473): the selection, or those of the ream that spills. -/
def awaited (s : State) (i : Nat) : List Nat :=
  if strmSource s i = 2 then (List.range 16).flatMap (fun r => spillChans s i r) else selChans s i

/-- A record of channel `ch` and index `n` comes after the record `r` in the order of R473. -/
def comesAfter (r : WaitRec) (ch n : Nat) : Bool := if ch ≤ r.chan then decide (r.idx < n) else decide (r.idx ≤ n)

/-- The indices of the records that edge channel `e` still holds back: of its open interval, of what it discarded, of the items in
its queue (R660 to R662). -/
def edgeHeld (s : State) (e : Nat) : List Nat :=
  let x := s.edges.getD e {}
  (if edgeRec s e = 3 then x.start.toList.map (stampIdx s) else []) ++ x.lostAt.toList ++ x.queue.map (·.idx)

/-- The ticks within which chain `c` has the input of an index: for a remote channel the bound of R673. -/
def inputTicks (s : State) (c : Nat) : Nat := if c < 128 then 0 else latencyTicks (s.sports.getD ((c - 128) / 24) {})

/-- What a channel can still deliver lies after the record `r` in the order of R473. -/
def chanPast (s : State) (x : StreamState) (r : WaitRec) (ch : Nat) : Bool :=
  (match x.marks.find? (fun m => decide (m.chan = ch)) with
    | some m => decide (r.idx ≤ m.idx) || m.next.any (fun n => comesAfter r ch n)
    | none => false) ||
  (match chainOfChannel ch with
    | some c => decide (r.idx + (chainCfg s c).latencyTicks + inputTicks s c < now s)
    | none => decide (r.idx < now s) && (edgeHeld s (ch - 128)).all (fun n => comesAfter r ch n))

/-- Places every waiting record whose turn has come; `all` places them all. -/
def drainRecs (s : State) (i : Nat) (all : Bool) : Nat → State
  | 0 => s
  | n + 1 =>
    let x := strmOf s i
    match x.wait with
    | [] => s
    | r :: t =>
      if x.st = .closing ∧ x.cur.isEmpty then s
      else if all || (awaited s i).all (fun ch => chanPast s x r ch) then
        drainRecs (onStrm (placeRec s i r) i (fun x => { x with wait := if x.finished then [] else t })) i all n
      else s

/-- A closing stream whose open quire is complete makes its end quire (R491). -/
def closingEnd (s : State) (i : Nat) : State :=
  let x := strmOf s i
  if x.st = .closing ∧ !x.finished ∧ x.cur.isEmpty then finishStream s i 2 false else s

/-- Every waiting record is placed. -/
def flushRecs (s : State) (i : Nat) : State := closingEnd (drainRecs s i true (strmOf s i).wait.length) i

/-- The record in its place among the waiting ones: by index, then by channel (R473). -/
def insertRec (l : List WaitRec) (r : WaitRec) : List WaitRec :=
  match l with
  | [] => [r]
  | h :: t => if r.idx < h.idx ∨ (r.idx = h.idx ∧ r.chan < h.chan) then r :: h :: t else h :: insertRec t r

/-- Records of one channel and one index reach stream `i`; `lost` says that a double error of a queue word put NODATA there. -/
def feedStream (s : State) (i ch idx : Nat) (vals : List Word) (next : Option Nat) (lost : Bool) : State :=
  let s := if (strmOf s i).st = .admitted ∧ (strmOf s i).start ≤ idx then startStream s i else s
  if !takesRecords (strmOf s i) ∨ (strmOf s i).joining.isSome then s
  else
    let s := onStrm s i (fun x => { x with
      wait := vals.foldl (fun l v => insertRec l ⟨idx, ch, ⟨word idx, v⟩, lost⟩) x.wait
      marks := ⟨ch, idx, next⟩ :: x.marks.filter (fun m => decide (m.chan ≠ ch)) })
    closingEnd (drainRecs s i false (strmOf s i).wait.length) i

/-- Records of channel `ch` reach every stream of source `src` that selects it. -/
def feedStreams (s : State) (src ch idx : Nat) (vals : List Word) (next : Option Nat) (lost : Bool) : State :=
  (List.range 64).foldl (fun s i =>
    if strmSource s i = src ∧ (strmOf s i).st ≠ .idle ∧ chanSel s i ch then feedStream s i ch idx vals next lost else s) s

-- not-sampled intervals

/-- An admitted stream whose start index lies at or before `b` runs (R5, R11, R479). -/
def startBy (s : State) (i b : Nat) : State :=
  if (strmOf s i).st = .admitted ∧ (strmOf s i).start ≤ b then startStream s i else s

/-- A not-sampled interval in stream `i` (R348, R493): the open quire closes short, a not-sampled quire follows. -/
def notSampled (s : State) (i a b : Nat) : State :=
  if !takesRecords (strmOf s i) then s
  else
    let s := drainRecs s i true (strmOf s i).wait.length
    let s := closeQuire s i
    let s := if a ≤ b ∧ (strmOf s i).start ≤ b then
        pushQuire s i .notSampled (max a (strmOf s i).start) [⟨word (b / 2 ^ 32), word b⟩] else s
    closingEnd (onStrm s i (fun x => { x with placed := max x.placed (b + 1), marks := [] })) i

/-- Indices `a` to `b` were not sampled by this hub. A member whose partner ran waits for a quire boundary of the partner
instead (R494). -/
def notSampledAll (s : State) (a b : Nat) : State :=
  (List.range 64).foldl (fun s i =>
    let s := startBy s i b
    if (strmOf s i).paired && isPaired s && takesRecords (strmOf s i) then
      onStrm s i (fun x => { x with cur := [], curEcc := 0, wait := [], marks := [], joining := some (b + 1) })
    else notSampled s i a b) s

/-- The partner's position of a stream: this member joins at a quire boundary that it can reach (R494, R841). -/
def joinStream (s : State) (p : StreamPos) : State :=
  match (strmOf s p.stream).joining with
  | none => s
  | some n =>
    if n ≤ p.first then
      onStrm s p.stream (fun x => { x with
        joining := none, nextSeq := p.sequence, start := p.first, placed := p.first, cur := [], curEcc := 0, wait := []
        sent := if x.felt.isEmpty then p.sequence - 1 else x.sent
        acked := if x.felt.isEmpty then p.acked else x.acked })
    else s

-- storing and sending

/-- A slot whose word is lost: NODATA with tag 0, counted in the quire (R357, R358). -/
def loseSlot (q : Quire) (k : Nat) : Quire :=
  let slots := q.slots.modify k (fun x => { x with val := nodataWord 0 })
  { q with slots := slots, eccSlots := min 63 (q.eccSlots + 1), tagged := slots.any Slot.tagged }

/-- The errors of R355 to R359 on the words of a quire; `count` counts corrected and uncorrectable ones. -/
def wordErrors (count : State → Nat → Nat → State) (s : State) (errs : List QueueErr) (q : Quire) : State × Quire :=
  errs.foldl (fun a e => match e with
    | .corrected => (count a.1 1 0, a.2)
    | .header => (count a.1 0 1, a.2)
    | .value k => if k < a.2.slots.length then (count a.1 0 1, loseSlot a.2 k) else a
    | .index k => if k < a.2.slots.length then (count a.1 0 1, loseSlot a.2 k) else a) (s, q)

/-- The errors of a closed quire on its way through its stream queue. -/
def quireErrors (s : State) (i : Nat) (errs : List QueueErr) (q : Quire) : State × Quire :=
  wordErrors (fun s c u => queueError s (0x80 + i) c u) s errs q

/-- Counts errors of Vat words (Table 11.7). -/
def vatError (s : State) (corr unc : Nat) : State :=
  bumpSat (bumpSat s VAT.ECC_STAT 0 16 corr) VAT.ECC_STAT 16 16 unc

/-- The errors of a stored quire as it is read from the Vat (Table 11.3): the Felt holds what they leave. -/
def feltErrors (s : State) (i : Nat) (errs : List QueueErr) (f : FeltQuire) : State × FeltQuire :=
  let r := wordErrors vatError s errs f.quire
  let g : FeltQuire := { f with quire := r.2 }
  (onStrm r.1 i (fun x => { x with felt := x.felt.map (fun h => if h.quire.sequence = f.quire.sequence then g else h) }), g)

/-- The oldest closed quire reaches the Felt (R53). -/
def storeQuire (s : State) (i : Nat) (errs : List QueueErr) : State :=
  match (strmOf s i).queue with
  | [] => s
  | h :: t =>
    let r := quireErrors s i errs h.quire
    onStrm r.1 i (fun x => { x with queue := t, felt := x.felt ++ [{ h with quire := r.2 }] })

/-- QUIRE_STORED (R53, R355 to R359). -/
def execQuireStored (i : Fin 64) (errs : List QueueErr) (s : State) : Host.Outcome State Fault Refusal :=
  .next (storeQuire s i errs)

/-- A frame of this hub can leave towards the host network. -/
def canSend (s : State) : Bool :=
  s.ring.address.isSome && (if s.ring.root then linkUpOn s .l3 || ringLink s else ringLink s) && !s.pwr.warm.running

/-- The bits that a quire takes on the ring (R454). -/
def quireBits (q : Quire) : Nat := 8 * (max (44 + 8 * q.slots.length) 64 + 20)

/-- The ticks that a quire takes at the rate for which stream `i` has been admitted (R454, R461). -/
def paceTicks (s : State) (i : Nat) (q : Quire) : Nat :=
  let c := streamCost (strmRate s i) (strmQ s i)
  ceilDiv (quireBits q * 10000000 * c.2) (max 1 c.1)

/-- The ticks that a resent quire takes at RETX_POOL × C / (100 × N_addr) (R461). -/
def resendTicks (s : State) (q : Quire) : Nat :=
  ceilDiv (quireBits q * 10000000 * (100 * addressedHubs s)) (max 1 (rdf s RING.RETX_POOL 0 5 * poolC s))

/-- Sends the quire of sequence `q` of stream `i`, for the first time or again (R349, R461, R486). -/
def sendQuire (s : State) (i : Nat) (f : FeltQuire) : State :=
  let again := f.first.isSome
  let q : Quire := if again then { f.quire with retx := true } else { f.quire with hub := s.ring.address.getD 0 }
  let s := sendRing s (hostMac s) (.stream q)
  let n := s.time.now
  let s := onStrm s i (fun x =>
    let felt := x.felt.map (fun g => if g.quire.sequence = f.quire.sequence then
      { g with quire := { q with retx := false }, first := if again then g.first else some n, last := some n, again := false } else g)
    { x with felt := felt, sent := if again then x.sent else f.quire.sequence
             paceAt := if again then x.paceAt else max x.paceAt n + paceTicks s i q
             recovering := x.recovering && felt.any (·.again) })
  if again then
    bumpWrap { s with adm := { s.adm with retxAt := max s.adm.retxAt n + resendTicks s q } } STRM.RETX_COUNT 0 32 1
  else evtIf (decide (f.quire.kind = .notSampled)) s pgSTRM 3

/-- A quire may leave for the first time: at the admitted rate, and in any case within 10 µs of its closing (R54, R461). -/
def mayPace (s : State) (x : StreamState) (f : FeltQuire) : Bool :=
  decide (x.paceAt ≤ s.time.now ∨ s.time.now ≤ f.closed + 100)

/-- The quire whose turn it is: the oldest not yet sent, else the oldest that is asked for again (R435), each at its pace (R461). -/
def nextToSend (s : State) (x : StreamState) : Option FeltQuire :=
  match x.felt.find? (fun f => f.first.isNone) with
  | some f => if mayPace s x f then some f else resend
  | none => resend
where
  resend : Option FeltQuire := if s.adm.retxAt ≤ s.time.now then x.felt.find? (·.again) else none

/-- QUIRE_TRANSMIT (R54, R435, R476, Table 11.3). -/
def execQuireTransmit (i : Fin 64) (s : State) (errs : List QueueErr := []) : Host.Outcome State Fault Refusal :=
  .next (when (canSend s) s (fun s =>
    let s := if (strmOf s i).felt.any (fun f => f.first.isNone) then s else storeQuire s i []
    match nextToSend s (strmOf s i) with
    | none => s
    | some f =>
      let r := feltErrors s i errs f
      sendQuire r.1 i r.2))

-- acknowledgement

/-- RETX_AFTER in ticks. -/
def retxTicks (s : State) : Nat := 10000 * rdf s STRM.RETX_AFTER 0 10

/-- A stream with nothing left to acknowledge: a closed one returns to IDLE, an ended one frees its share (R490, R491). -/
def settleStream (s : State) (i : Nat) : State :=
  let x := strmOf s i
  if x.finished ∧ x.felt.isEmpty ∧ x.queue.isEmpty then
    if x.st = .closing then onStrm (setSt s i .idle) i (fun x => { x with share := 0 })
    else onStrm s i (fun x => { x with share := 0 })
  else s

/-- An acknowledgement of `a` with a map of quires asked for again (R482 to R486). The result says whether it was accepted. -/
def ackStream (s : State) (i : Nat) (a : Seq32) (nack : Option Word) : State × Bool :=
  let x := strmOf s i
  let diff := (a - x.acked).toNat
  let open' := (x.sent - x.acked).toNat
  if diff = 0 ∨ diff ≤ open' then
    let late (f : FeltQuire) : Bool := x.resent && f.last.any (fun t => decide (t + retxTicks s < s.time.now))
    let asked (f : FeltQuire) : Bool := nack.any (fun m =>
      let k := (f.quire.sequence - a - 1).toNat
      decide (k < 32) && bit m k && f.first.isSome)
    let felt := if diff = 0 then x.felt else
      (x.felt.filter (fun f => decide (diff < (f.quire.sequence - x.acked).toNat))).map
        (fun f => { f with again := f.again || late f })
    let s := onStrm s i (fun x => { x with
      acked := a, felt := felt.map (fun f => { f with again := f.again || asked f })
      ackAt := if diff = 0 then x.ackAt else s.time.now, resent := x.resent && decide (diff = 0) })
    let s := onStrm s i (fun x => { x with recovering := x.recovering && x.felt.any (·.again) })
    (settleStream s i, true)
  else (evt (bumpSat s STRM.ACK_REFUSED 0 32 1) pgSTRM 4, false)

/-- An acknowledgement from the host: an accepted one goes to the partner (R487). -/
def hostAck (s : State) (i : Nat) (a : Seq32) (nack : Option Word) : State :=
  let r := ackStream s i a nack
  if r.2 && isPaired s then
    sendTwin r.1 (.twinAck ⟨r.1.ring.address.getD 0, i, nack.isSome, a, nack.getD 0⟩) else r.1

/-- ACKNOWLEDGEMENT (R483, R484). -/
def acknowledgement (s : State) (m : AckMsg) : State :=
  if s.ring.address = some m.hub ∧ m.stream < 64 then
    hostAck s m.stream m.a (if m.nackValid then some m.nackMap else none) else s

def execAcknowledgement (m : AckMsg) (s : State) : Host.Outcome State Fault Refusal := .next (acknowledgement s m)

/-- SEQ_ACKED (R482). -/
def execSeqAcked (p : Path) (i : Fin 64) (a : Seq32) (s : State) : Host.Outcome State Fault Refusal :=
  .next (gated s (some p) (STRM.SEQ_ACKED i) (fun s => hostAck s i a none))

/-- RETX_AFTER (R486). -/
def execRetxAfter (i : Fin 64) (s : State) : Host.Outcome State Fault Refusal :=
  .next (match (strmOf s i).felt with
    | [] => s
    | f :: t => when f.first.isSome s (fun s =>
        onStrm s i (fun x => { x with felt := { f with again := true } :: t, resent := true })))

/-- Every unacknowledged quire is sent again after a warm reset or a ring break (R10, R466, R486). -/
def recoverStreams (s : State) : State :=
  { s with streams := s.streams.map (fun x =>
      if x.felt.any (fun f => f.first.isSome) then
        { x with recovering := true, felt := x.felt.map (fun f => { f with again := f.first.isSome }) }
      else x) }

-- the ends of a stream

/-- R489 and R111: the stream ends where it stands. -/
def endStream (s : State) (i cause : Nat) : State :=
  let x := strmOf s i
  let held := decide (x.st = .running ∨ x.st = .admitted)
  let s := if x.finished then s else finishStream s i cause true
  let s := evt (setSt s i .ended) pgSTRM 2
  if held then releaseAdm s i else s

/-- STRM.CTRL op 2 (R491). -/
def closeStream (s : State) (w : Who) (i : Nat) : State :=
  checked s w STRM.CTRL (rejIf (decide (64 ≤ i)) 0x40) (fun s =>
    match (strmOf s i).st with
    | .running => closingEnd (setSt (releaseAdm s i) i .closing) i
    | .admitted => closingEnd (setSt (releaseAdm s i) i .closing) i
    | .requesting =>
      let s := releaseAdm s i
      let s := { s with adm := { s.adm with waiting := s.adm.waiting.filter (fun x => decide (x.2.1 ≠ i)) } }
      onStrm (setSt s i .idle) i (fun x => { x with share := 0 })
    | .idle => s | .checking => s | .closing => s | .ended => s)

def execCloseStream (p : Path) (i : Nat) (s : State) : Host.Outcome State Fault Refusal :=
  .next (gated s (some p) STRM.CTRL (fun s => closeStream s (some p) i))

/-- STRM.CTRL op 3 (R490): an ENDED stream returns to IDLE. -/
def clearStream (s : State) (w : Who) (i : Nat) : State :=
  checked s w STRM.CTRL (rejIf (decide (64 ≤ i)) 0x40) (fun s =>
    if (strmOf s i).st = .ended then
      onStrm (setSt s i .idle) i (fun x => { x with share := 0, felt := [], queue := [], cur := [], curEcc := 0, wait := [] })
    else s)

def execClearStream (p : Path) (i : Nat) (s : State) : Host.Outcome State Fault Refusal :=
  .next (gated s (some p) STRM.CTRL (fun s => clearStream s (some p) i))

/-- STRM.CTRL by its word (Table 11.8). -/
def strmCtrl (s : State) (w : Who) (v : Word) : State :=
  match fld v 8 3 with
  | 1 => openStream s w (fld v 0 7)
  | 2 => closeStream s w (fld v 0 7)
  | 3 => clearStream s w (fld v 0 7)
  | _ => refuse s w STRM.CTRL ⟨Rsn.RANGE, none⟩

-- registers

/-- The checks of a write to the STRM page (R505). -/
def strmChk (s : State) (o : Nat) : Chk :=
  let i := if o = 0x48 then rdf s STRM.CHSEL_ADDR 0 6 else (o - 0x100) / 0x30
  if o = 0x48 ∨ (0x100 ≤ o ∧ (o - 0x100) % 0x30 < 0x18) then
    { busy := rejIf (decide ((strmOf s i).st ≠ .idle)) Rsn.BUSY }
  else {}

/-- A write of CHSEL_DATA. -/
def strmSelWrite (s : State) (v : Word) : State :=
  { s with strmSel := sparsePut s.strmSel 0 (12 * rdf s STRM.CHSEL_ADDR 0 6 + rdf s STRM.CHSEL_ADDR 8 4) v }

def StrmSt.code : StrmSt → Nat
  | .idle => 0 | .checking => 1 | .requesting => 2 | .admitted => 3 | .running => 4 | .closing => 5 | .ended => 6

/-- OPEN: streams not IDLE. -/
def openStreams (s : State) : Nat := s.streams.countP (fun x => decide (x.st ≠ .idle))

/-- The computed registers of the STRM page. -/
def strmView (s : State) (o : Nat) : Option Word :=
  if o = 0x48 then some (sparseGet s.strmSel 0 (12 * rdf s STRM.CHSEL_ADDR 0 6 + rdf s STRM.CHSEL_ADDR 8 4))
  else if o = 0x4c then some (word (openStreams s))
  else if o < 0x100 then none
  else
    let i := (o - 0x100) / 0x30
    let x := strmOf s i
    match (o - 0x100) % 0x30 with
    | 0x0c => some (word (strmHold s i + 2 ^ 16 * min 65535 x.share))
    | 0x18 => some (word (x.st.code + 2 ^ 8 * x.adm + 2 ^ 16 * b2n x.lateStart + 2 ^ 17 * b2n x.paired +
        2 ^ 18 * x.endCause + 2 ^ 20 * b2n x.recovering))
    | 0x1c => some x.sent
    | 0x20 => some x.acked
    | 0x24 =>
      let n := x.felt.length + x.queue.length
      let age := match x.felt ++ x.queue with
        | [] => 0
        | f :: _ => min 255 ((s.time.now - f.closed) / 1000000)
      some (word (n % 2 ^ 24 + 2 ^ 24 * age))
    | 0x28 => some (word x.lost)
    | 0x2c => some (word (x.lost / 2 ^ 32))
    | _ => none

end Sys2Proof.Machine
end

