-- ==== Sys2Proof/Machine/Queues.lean ====
section
/-!
DEFINITION. The queue words of R351 to R356: the end mark, the check bits, the words in which quires and items wait, the count of
the waiting ones and the idle item.
Marked choices: DEDUCED, log entry 42; DESIGN CHOICE, log entry 78.
-/
namespace Sys2Proof.Machine

/-- A queue word (R351): a 32-bit word with the end mark in bit 32, and seven check bits over these. -/
structure QueueWord where
  data : BitVec 33
  check : BitVec 7
deriving DecidableEq, Repr

/-- The word `w` as a queue holds it. -/
def queueWord (w : Word) (last : Bool) : QueueWord :=
  let d := BitVec.ofNat 33 (w.toNat + 2 ^ 32 * b2n last)
  ⟨d, Config.checkBits d⟩

def QueueWord.isEnd (w : QueueWord) : Bool := w.data.getLsbD 32
def QueueWord.word (w : QueueWord) : Word := w.data.setWidth 32

/-- The words of one quire or item: the end mark on the last (R352). -/
def endMarked (l : List Word) : List QueueWord :=
  l.dropLast.map (fun w => queueWord w false) ++ (l.drop (l.length - 1)).map (fun w => queueWord w true)

/-- The words of an edge item (R660), and of queues of quires and of items. -/
def EdgeItem.words (x : EdgeItem) : List Word := [Machine.word x.idx, x.word]
def quireQueue (l : List FeltQuire) : List QueueWord := l.flatMap (fun f => endMarked (quireWords f.quire))
def itemQueue (l : List EdgeItem) : List QueueWord := l.flatMap (fun x => endMarked x.words)

/-- What stands in queue `q` of Table 8.6. Between two commands only the edge queues and the stream queues hold words: the other
queues are emptied by the command that fills them. -/
def queueWords (s : State) (q : Nat) : List QueueWord :=
  if 0x40 ≤ q ∧ q < 0x80 then itemQueue (s.edges.getD (q - 0x40) {}).queue
  else if 0x80 ≤ q ∧ q < 0xc0 then quireQueue (strmOf s (q - 0x80)).queue else []

/-- The quires or items that wait: as many as words with the end mark (R353). -/
def waiting (l : List QueueWord) : Nat := l.countP (·.isEnd)

/-- The idle item (R354). -/
def idleItem : QueueWord := queueWord 0x80000000 true

/-- A read of a queue: its oldest word, or the idle item from an empty queue, which stays empty (R353, R354). -/
def readQueue (l : List QueueWord) : QueueWord × List QueueWord :=
  match l with
  | [] => (idleItem, [])
  | w :: t => (w, t)

/-- The end mark that the place `k` of a word gives it, in a quire of `n` slots or an item of two words (R356). -/
def quireEnd (n k : Nat) : Bool := decide (k + 1 = 4 + 2 * n)
def itemEnd (k : Nat) : Bool := decide (k + 1 = 2)

/-- A word with a double error: the end mark that its place gives, and the word that R357 to R359 put there. -/
def restored (w : Word) (last : Bool) : QueueWord := queueWord w last

end Sys2Proof.Machine
end

