-- ==== Sys2Proof/Machine/Motion.lean ====
section
/-!
DEFINITION. Axis slots (spec/14): the balls of the legs and groups, the hysteretic law, minimum-time holds, the slot
states, faults and reactions, cycle marks, and the checks of a commit of the MOT page.
Marked choices: DEDUCED, log entry 58.
-/
namespace Sys2Proof.Machine

def slotOf (s : State) (r : Nat) : SlotState := s.slots.getD r {}
def onSlot (s : State) (r : Nat) (f : SlotState → SlotState) : State := { s with slots := s.slots.modify r f }
def engOf (s : State) (k : Nat) : EngineState := s.engines.getD k {}
def onEng (s : State) (k : Nat) (f : EngineState → EngineState) : State := { s with engines := s.engines.modify k f }

-- the fields of the slot registers

def cfgKind (w : Word) : Nat := fld w 1 2
def axCfg (s : State) (r : Nat) : Word := rd s (MOT.AX_CFG r)
def axKind (s : State) (r : Nat) : Nat := cfgKind (axCfg s r)
def axGen (s : State) (r : Nat) : Nat := fld (axCfg s r) 12 4
def axBrake (s : State) (r : Nat) : Bool := bit (axCfg s r) 3

/-- Band channels and legs of a kind (Table 14.1). -/
def kindBands (kind : Nat) : Nat := if kind = 1 then 1 else if kind = 2 then 3 else 0
def kindLegs (kind : Nat) : Nat := if kind = 1 then 2 else if kind = 2 then 3 else 0

def bandAin (s : State) (r c : Nat) : Nat := rdf s (MOT.AX_BAND r) (8 * c) 7
def legGc (s : State) (r j : Nat) : Nat := rdf s (MOT.AX_GC r) (8 * j) 8

/-- The slot counts as enabled (R614, STAT.slots): ARMING or RUN. -/
def slotOn (x : SlotState) : Bool := decide (x.st = .arming ∨ x.st = .run)

/-- Some slot of engine `k` is enabled. -/
def engSlots (s : State) (k : Nat) : Nat :=
  (List.range 4).foldl (fun a i => a + b2n (slotOn (slotOf s (4 * k + i))) * 2 ^ i) 0

-- balls

def driveBall (level : Bool) (_ : Ball) : Ball := { drive := some level, keeper := false, held := level }

/-- A released ball keeps its level by the keeper (R864). -/
def releaseBall (b : Ball) : Ball :=
  match b.drive with
  | some l => { drive := none, keeper := true, held := l }
  | none => b

def onGc (s : State) (g : Nat) (f : Ball → Ball) : State := { s with gc := s.gc.modify g f }
def onGen (s : State) (g : Nat) (f : Ball → Ball) : State := { s with gen := s.gen.modify g f }

/-- The hub drives the GC balls of engine `k`: a handover moves them engine by engine (R829, R831). -/
def drivesEng (s : State) (k : Nat) : Bool :=
  match s.twin.handover with
  | some h => if h.losing then drivesHub s && !h.done.contains k else !s.pwr.warm.running && h.done.contains k
  | none => drivesHub s

/-- The level of a gate-enable group (R612). -/
def groupHigh (s : State) (g : Nat) : Bool :=
  (List.range 48).any (fun r => decide (axGen s r = g) &&
    (slotOn (slotOf s r) || decide ((slotOf s r).st = .fault ∧ (slotOf s r).reaction ≠ 0)))

/-- The GC balls of slot `r` follow its legs, where the hub drives them. -/
def syncSlot (s : State) (r : Nat) : State :=
  if drivesEng s (r / 4) then
    (List.range (kindLegs (axKind s r))).foldl
      (fun s j => onGc s (legGc s r j) (driveBall ((slotOf s r).legs.getD j false))) s
  else s

/-- The GEN balls follow the groups, where the hub drives them. -/
def syncGroups (s : State) : State :=
  if drivesHub s then (List.range 12).foldl (fun s g => onGen s g (driveBall (groupHigh s g))) s else s

/-- The GC outputs in use as SSI clocks (R653): edge channel and GC. -/
def ssiClocks (g : Nat → Word) : List (Nat × Nat) :=
  ((List.range 64).filter (fun n => decide (fld (g (EDGE.CH_CFG (n / 8) (n % 8))) 0 3 = 4))).map
    (fun n => (n, fld (g (EDGE.CH_SSI (n / 8) (n % 8))) 8 8))

/-- Every slot and group ball is driven, or released: what a handover moves at n_h*, while the SSI clocks stay until their next
transfer (R829, R835). -/
def takeSlots (s : State) : State := syncGroups ((List.range 48).foldl syncSlot s)
def releaseSlots (s : State) : State :=
  ((List.range 144).filter (fun g => (ssiClocks (rd s)).all (fun c => decide (c.2 ≠ g)))).foldl (fun s g => onGc s g releaseBall)
    { s with gen := s.gen.map releaseBall }

/-- Every slot and group ball is driven, the SSI clocks idle high; or every ball is released. -/
def takeOutputs (s : State) : State := (ssiClocks (rd s)).foldl (fun s c => onGc s c.2 (driveBall true)) (takeSlots s)
def releaseOutputs (s : State) : State := { s with gc := s.gc.map releaseBall, gen := s.gen.map releaseBall }

-- the law

/-- The centre of a voice-coil slot's band is positive (R606). -/
def centrePositive (b : BandState) : Bool := decide (4096 ≤ b.lower + b.upper)

/-- The legs that the law demands (R605, Table 14.2), given what they are. -/
def lawDemand (s : State) (r : Nat) (legs : List Bool) : List Bool :=
  if axKind s r = 2 then
    (List.range 3).map (fun c =>
      let b := bandOf s (bandAin s r c)
      if b.u then false else if b.lo then true else legs.getD c false)
  else if axKind s r = 1 then
    let b := bandOf s (bandAin s r 0)
    if b.lo then (if axBrake s r && !centrePositive b then [false, false, false] else [true, false, false])
    else if b.u then (if axBrake s r && centrePositive b then [false, false, false] else [false, true, false])
    else legs
  else legs

/-- The legs after a demand, with the holds that run (R607 to R609): a held leg waits, and a voice-coil pair changes as one. -/
def demandLegs (kind : Nat) (x : SlotState) (want : List Bool) : List Bool :=
  let ch := (List.range 3).map (fun j => decide (want.getD j false ≠ x.legs.getD j false))
  let held := (List.range 3).map (fun j => ch.getD j false && x.holds.getD j false)
  if kind = 1 then (if held.any id then x.legs else want)
  else (List.range 3).map (fun j => if held.getD j false then x.legs.getD j false else want.getD j false)

/-- The slot's legs take new states; each change starts a hold (R607). -/
def setLegs (s : State) (r : Nat) (legs : List Bool) : State :=
  syncSlot (onSlot s r (fun x => { x with
    legs := legs
    holds := (List.range 3).map (fun j => x.holds.getD j false || decide (legs.getD j false ≠ x.legs.getD j false)) })) r

/-- The law acts on slot `r`. -/
def applyLaw (s : State) (r : Nat) : State :=
  let x := slotOf s r
  if x.lawOn then setLegs s r (demandLegs (axKind s r) x (lawDemand s r x.legs)) else s

/-- The law acts on the slot of which input `ain` is a band channel. -/
def lawOf (s : State) (ain : Nat) : State :=
  match bandSlot s ain with
  | some r => applyLaw s r
  | none => s

/-- COMPARATOR_CROSSING (R265 to R267, R605, R606, R878). -/
def execComparatorCrossing (ain : Fin 96) (upper level : Bool) (s : State) : Host.Outcome State Fault Refusal :=
  .next (when (comparatorsOn s ain) s (fun s =>
    lawOf (onBand s ain (fun b => bandCrossAt b (now s) upper level)) ain))

/-- BAND_EDGE_LOAD (R50 to R52, R264): the newest pair that arrived before the boundary loads, and the
law acts on the comparator states against it (R606, Table 14.11). -/
def execBandEdgeLoad (ain : Fin 96) (s : State) (ecc : WordErr := .sound) : Host.Outcome State Fault Refusal :=
  .next (match (bandOf s ain).shadow.find? (fun e => decide (e.1 < now s)) with
    | none => s
    | some e => when (bandBoundary s ain) s (fun s =>
        let r := fromQueue s (0x20 + (bandSlot s ain).getD 0 / 4) ecc (word (e.2.1 + 2 ^ 16 * e.2.2)) (Config.freeWord s.freeCtr)
        lawOf (loadEdges (onBand r.1 ain (fun b => { b with shadow := b.shadow.filter (fun x => decide (now s ≤ x.1)) })) ain
          (fld r.2 0 12) (fld r.2 16 12)) ain))

/-- MIN_HOLD_END (R607 to R609). -/
def execMinHoldEnd (slot : Fin 48) (leg : Fin 3) (s : State) : Host.Outcome State Fault Refusal :=
  .next (when ((slotOf s slot).holds.getD leg false) s (fun s =>
    applyLaw (onSlot s slot (fun x => { x with holds := x.holds.set leg false })) slot))

-- faults

/-- A source that other chapters assign to FAULT_SRC.block still stands (R130). -/
def blockHolds (s : State) : Bool :=
  s.slots.any (fun x => decide (x.st = .fault)) || s.engines.any (fun e => decide (e.run = .fault)) ||
    decide (fld (rd s SAFE.FAULT) 0 24 ≠ 0) || s.cores.any (fun c => c.short) || rdb s CAL.STAT 2 ||
    (rdb s CAL.CFG 0 && decide (rd s CAL.QUAD_PASS ≠ 0xffffffff)) || s.safe.mismatch

/-- FAULT_SRC.block clears with its last source (R130). -/
def clearBlock (s : State) : State :=
  if blockHolds s then s else wr s PWR.FAULT_SRC (setFld (rd s PWR.FAULT_SRC) 15 1 0)

/-- The reaction that Table 14.4 gives a cause under the slot's settings. -/
def causeReaction (cfg : Word) (cause : Nat) : Nat :=
  if cause = 1 then fld cfg 4 2 else if cause = 2 ∨ cause = 4 then fld cfg 6 2 else if cause = 5 then fld cfg 8 2 else 0

/-- The legs under a reaction (Table 14.5): DISABLE and BRAKE drive them to 0, HOLD leaves the law as it was. -/
def applyReaction (s : State) (r reaction : Nat) : State :=
  let s := onSlot s r (fun x => { x with reaction := reaction })
  if reaction = 2 then s
  else setLegs (onSlot s r (fun x => { x with lawOn := false })) r [false, false, false]

/-- One slot takes a fault cause at index `n` (R618, R620). -/
def faultOne (s : State) (r cause n : Nat) : State :=
  let x := slotOf s r
  let react := causeReaction (axCfg s r) cause
  match x.st with
  | .disabled => s
  | .fault => if react < x.reaction then applyReaction s r react else s
  | _ =>
    let s := onSlot s r (fun x => { x with st := .fault, cause := cause, faultIdx := n })
    applyReaction (faultSrc (evt s pgMOT 0) 15) r react

/-- A slot fault with its effect on the group (R618 to R620, Table 14.5). -/
def slotFault (s : State) (r cause n : Nat) : State :=
  if (slotOf s r).st = .disabled then s
  else
    let before := slotOf s r
    let s := faultOne s r cause n
    let x := slotOf s r
    let s := if x.reaction = 0 ∧ (before.st ≠ .fault ∨ before.reaction ≠ 0) then
        let g := axGen s r
        let s := wr s MOT.GEN_STAT (rd s MOT.GEN_STAT ||| bitW (16 + g) true)
        (List.range 48).foldl (fun s o => if o ≠ r ∧ axGen s o = g then faultOne s o 6 n else s) (evt s pgMOT 4)
      else s
    syncGroups s

/-- The engine's fault reaches its enabled slots (R586, cause ENGINE). -/
def engineSlots (s : State) (k : Nat) : State :=
  (List.range 4).foldl (fun s i => slotFault s (4 * k + i) 1 (now s)) s

/-- A raw record of input `ain` at index `n` reaches its slot (R618). -/
def slotRecord (s : State) (ain n : Nat) (w : Word) : State :=
  match bandSlot s ain with
  | none => s
  | some r =>
    match (List.range 3).find? (fun c => decide (bandAin s r c = ain)) with
    | none => s
    | some c =>
      let s := onSlot s r (fun x => { x with
        recs := x.recs.set c (n, w), clips := x.clips.set c (if bit w 2 then x.clips.getD c 0 + 1 else 0) })
      let s := if bit w 3 then slotFault s r 2 n else s
      let s := if fld (axCfg s r) 16 8 ≤ (slotOf s r).clips.getD c 0 then slotFault s r 3 n else s
      if isNodata w then slotFault s r 4 n else s

/-- The cause of a slot's fault is still present (R621). -/
def causePresent (s : State) (r : Nat) : Bool :=
  let x := slotOf s r
  let recs := x.recs.take (kindBands (axKind s r))
  match x.cause with
  | 1 => decide ((engOf s (r / 4)).run = .fault)
  | 2 => recs.any (fun e => bit e.2 3)
  | 3 => x.clips.any (fun c => decide (fld (axCfg s r) 16 8 ≤ c))
  | 4 => recs.any (fun e => isNodata e.2)
  | 5 => x.edgeFault && rdb s (MOT.AX_EDGE r) 7
  | _ => false

/-- HOLD_TIMEOUT (Table 14.5): the reaction becomes BRAKE. -/
def execHoldTimeout (r : Fin 48) (s : State) : Host.Outcome State Fault Refusal :=
  .next (when (decide ((slotOf s r).st = .fault ∧ (slotOf s r).reaction = 2)) s (fun s => syncGroups (applyReaction s r 1)))

/-- MOT.CTRL op = 1 (R621). -/
def motClearFault (s : State) (w : Who) (r : Nat) : State :=
  checked s w MOT.CTRL (firstSome [
      rejIf (decide ((slotOf s r).st = .fault) &&
        (causePresent s r || decide ((engOf s (r / 4)).run = .fault))) Rsn.BUSY,
      rejIf (decide (47 < r)) Rsn.RANGE]) (fun s =>
    if (slotOf s r).st = .fault then
      let s := wr s (MOT.AX_CFG r) (setFld (rd s (MOT.AX_CFG r)) 0 1 0)
      let s := onSlot s r (fun x => { x with st := .disabled, cause := 0, reaction := 0, lawOn := false, imageEn := false })
      let s := wr s MOT.GEN_STAT (setFld (rd s MOT.GEN_STAT) (16 + axGen s r) 1 0)
      clearBlock (syncGroups s)
    else s)

def execMotClearFault (p : Path) (r : Nat) (s : State) : Host.Outcome State Fault Refusal :=
  .next (gated s (some p) MOT.CTRL (fun s => motClearFault s (some p) r))

-- enabling and disabling

/-- Every present index is a band-update boundary of engine `k`. -/
def buBoundary (s : State) (k : Nat) : Bool := decide (buTicks s k ≠ 0 ∧ now s % buTicks s k = 0)

/-- A TABLE_STAGE into engine `k` is pending, or its replay runs (R593, R613). -/
def staging (s : State) (k : Nat) : Bool :=
  decide (0 < (engOf s k).replay) ||
    s.cmd.journal.any (fun e => decide (e.opcode = 0x21 ∧ (e.args.getD 1 0).toNat = k) &&
      decide (e.st = .new ∨ e.st = .started ∨ e.st = .step))

/-- SLOT_ENABLE (R614, R617): the first boundary at or after the commit index. -/
def execSlotEnable (r : Fin 48) (s : State) : Host.Outcome State Fault Refusal :=
  let x := slotOf s r
  let k := r.val / 4
  let held := x.imageEn && (!gridValid s || decide ((engOf s k).run ≠ .running) || staging s k)
  .next (when (sampling s && bit (axCfg s r) 0 && decide (x.st = .disabled) && buBoundary s k &&
      decide (x.enIdx ≤ now s) && !held) s (fun s =>
    let s := onSlot s r (fun x => { x with
      st := .arming, armIdx := now s, imageEn := false, cause := 0, reaction := 0, clips := [0, 0, 0], lawOn := false })
    syncGroups (setLegs s r [false, false, false])))

/-- A slot enters RUN: the law begins to act (R611). -/
def enterRun (s : State) (r : Nat) : State :=
  applyLaw (evt (onSlot s r (fun x => { x with st := .run, lawOn := true })) pgMOT 1) r

/-- SLOT_RUN (R614): the first boundary at or after n_e + 100 ticks. -/
def execSlotRun (r : Fin 48) (s : State) : Host.Outcome State Fault Refusal :=
  .next (when (decide ((slotOf s r).st = .arming ∧ (slotOf s r).armIdx + 100 ≤ now s) && buBoundary s (r / 4)) s
    (fun s => enterRun s r))

/-- SLOT_DISABLE (R615). -/
def execSlotDisable (r : Fin 48) (s : State) : Host.Outcome State Fault Refusal :=
  .next (when (slotOn (slotOf s r) && !bit (axCfg s r) 0 && buBoundary s (r / 4) &&
      decide ((slotOf s r).enIdx ≤ now s)) s (fun s =>
    let s := onSlot s r (fun x => { x with st := .disabled, lawOn := false })
    syncGroups (setLegs s r [false, false, false])))

-- cycle marks

def rcMark (s : State) (r : Nat) : Nat := rdf s (MOT.AX_RC r) 0 2
def rcPeriod (s : State) (r : Nat) : Nat := rdf s (MOT.AX_RC_PERIOD r) 0 27

/-- A mark of source 2 or 3 at index `n` (R632, R633, Table 14.11). -/
def markSlot (s : State) (r n : Nat) : State :=
  let x := slotOf s r
  let p := rcPeriod s r
  if p = 0 ∨ x.mark = some n then s
  else
    let early := match x.mark with
      | some m => decide (n - m < p - p / 16)
      | none => false
    let s := onSlot s r (fun x => { x with
      mark := some n, rcValid := true, rcEarly := if early then min 255 (x.rcEarly + 1) else x.rcEarly })
    evtIf early s pgMOT 3

/-- MOT.CTRL op = 2 (Table 14.9): the mark falls on the first tick edge after the write. -/
def cycleMark (s : State) (w : Who) (r : Nat) : State :=
  checked s w MOT.CTRL (rejIf (decide (47 < r)) Rsn.RANGE) (fun s =>
    if rcMark s r = 3 then markSlot s r (now s + 1) else s)

def execCycleMark (p : Path) (r : Nat) (s : State) : Host.Outcome State Fault Refusal :=
  .next (gated s (some p) MOT.CTRL (fun s => cycleMark s (some p) r))

/-- A compensated edge at TRIGIN pin in the tick period of index `n` (Table 14.9). -/
def pinMarks (s : State) (pin : Nat) (falling : Bool) (n : Nat) : State :=
  (List.range 48).foldl (fun s r =>
    let w := rd s (MOT.AX_RC r)
    if fld w 0 2 = 2 ∧ fld w 4 2 = pin ∧ bit w 6 = falling then markSlot s r n else s) s

/-- RC_LOST (R633): the phase has reached period + period/16. -/
def execRcLost (r : Fin 48) (s : State) : Host.Outcome State Fault Refusal :=
  let x := slotOf s r
  let p := rcPeriod s r
  .next (when ((decide (rcMark s r = 2 ∨ rcMark s r = 3)) && x.rcValid && decide (0 < p) &&
      x.mark.any (fun m => decide (p + p / 16 ≤ now s - m))) s (fun s =>
    evt (onSlot s r (fun x => { x with rcValid := false, rcLost := min 255 (x.rcLost + 1) })) pgMOT 2))

/-- The phase in ticks at boundary index `n` (Table 14.9). -/
def rcPhase (s : State) (r n : Nat) : Nat :=
  let p := rcPeriod s r
  match (slotOf s r).mark with
  | none => 0
  | some m => if p = 0 ∨ rcMark s r = 0 then 0 else if rcMark s r = 1 then (n - m) % p else (n - m) % 2 ^ 27

/-- valid of the phase word. -/
def rcValid (s : State) (r : Nat) : Bool :=
  decide (0 < rcPeriod s r ∧ rcMark s r ≠ 0) && (slotOf s r).rcValid

/-- The phase word of slot `r` (R565, R632). -/
def phaseWord (s : State) (r n : Nat) : Word :=
  word (rcPhase s r n + 2 ^ 30 * b2n (rdb s (MOT.AX_RC r) 7) + 2 ^ 31 * b2n (rcValid s r))

-- commits

/-- VECT0 to VECT2 of engine `k` select the kernel. -/
def kernelSelected (g : Nat → Word) (k : Nat) : Bool :=
  [AE.VECT0 k, AE.VECT1 k, AE.VECT2 k].all (fun a => decide (0x4000 ≤ fld (g a) 0 15))

/-- The kernel budget of R639 fails for engine `k` under the settings `g`. -/
def overCycles (g : Nat → Word) (k : Nat) : Bool :=
  let kinds := (List.range 4).map (fun i => cfgKind (g (MOT.AX_CFG (4 * k + i))))
  let b := if kinds.any (fun x => decide (x = 2)) then 230 else 160
  kernelSelected g k && kinds.any (fun x => decide (x ≠ 0)) && decide (40 * fld (g (AE.BU k)) 0 10 - 10 < b + 160)

/-- The band channels that the settings `g` name: slot and input (R603). -/
def namedBands (g : Nat → Word) : List (Nat × Nat) :=
  (List.range 48).flatMap (fun r => (List.range (kindBands (cfgKind (g (MOT.AX_CFG r))))).map
    (fun c => (r, fld (g (MOT.AX_BAND r)) (8 * c) 7)))

def namedLegs (g : Nat → Word) : List Nat :=
  (List.range 48).flatMap (fun r => (List.range (kindLegs (cfgKind (g (MOT.AX_CFG r))))).map
    (fun j => fld (g (MOT.AX_GC r)) (8 * j) 8))

/-- No entry occurs twice. -/
def distinct (l : List Nat) : Bool :=
  match l with
  | [] => true
  | a :: t => !t.contains a && distinct t

/-- The entries of slot `r` beyond its kind are not empty, or a needed one names nothing (R602). -/
def badMap (g : Nat → Word) (r : Nat) : Bool :=
  let kind := cfgKind (g (MOT.AX_CFG r))
  (List.range 3).any (fun c => let a := fld (g (MOT.AX_BAND r)) (8 * c) 7
    if c < kindBands kind then decide (95 < a) else decide (a ≠ 0x7f)) ||
  (List.range 3).any (fun j => let a := fld (g (MOT.AX_GC r)) (8 * j) 8
    if j < kindLegs kind then decide (143 < a) else decide (a ≠ 0xff))

/-- The checks of a commit of the MOT page (R602 to R604, R613, R639, R848, Table 14.13), `g` giving the settings it would leave. -/
def motCommitChk (s : State) (g : Nat → Word) : Chk :=
  let slots := List.range 48
  let bands := namedBands g
  let ens := slots.filter (fun r => bit (g (MOT.AX_CFG r)) 0 && !bit (axCfg s r) 0)
  { busy := rejIf (slots.any (fun r => bit (axCfg s r) 0 &&
      decide (g (MOT.AX_BAND r) ≠ rd s (MOT.AX_BAND r) ∨ g (MOT.AX_GC r) ≠ rd s (MOT.AX_GC r) ∨
        cfgKind (g (MOT.AX_CFG r)) ≠ axKind s r))) Rsn.BUSY
    grid := rejIf (!ens.isEmpty && !gridValid s) Rsn.NOGRID
    spec := firstSome [
      rejIf (slots.any (badMap g)) 0x42,
      rejIf (bands.any (fun b => decide (inClass (inCfg s b.2) ≠ Cls.CURR))) 0x40,
      rejIf (bands.any (fun b => s.badBands.contains b.2) || !distinct (bands.map (·.2)) || !distinct (namedLegs g) ||
        (ssiClocks g).any (fun c => (namedLegs g).contains c.2)) 0x41,
      rejIf (bands.any (fun b => decide (fld (g (AE.BU (b.1 / 4))) 0 10 % rawTicks s (b.2 / 4) ≠ 0))) 0x46,
      rejIf (ens.any (fun r => decide ((engOf s (r / 4)).run ≠ .running))) 0x43,
      rejIf (ens.any (fun r => staging s (r / 4))) 0x44,
      rejIf ((List.range 12).any (overCycles g)) 0x45] }

/-- The GC balls that a slot's settings name are released. -/
def releaseLegs (s0 s : State) (r : Nat) : State :=
  (List.range (kindLegs (axKind s0 r))).foldl (fun s j => onGc s (legGc s0 r j) releaseBall) s

/-- The effects of a commit of the MOT page at index `n` on slot `r` (R606, R614, R615, R632). -/
def motSlotCommitted (s0 s : State) (n r : Nat) : State :=
  let s := if bit (axCfg s0 r) 0 ≠ bit (axCfg s r) 0 then
      onSlot s r (fun x => { x with enIdx := n, imageEn := false }) else s
  let s := if axBrake s0 r ≠ axBrake s r then applyLaw s r else s
  let s := if rd s0 (MOT.AX_GC r) ≠ rd s (MOT.AX_GC r) ∨ axKind s0 r ≠ axKind s r then
      syncSlot (onSlot (releaseLegs s0 s r) r (fun x => { x with legs := [false, false, false], holds := [false, false, false] })) r
    else s
  let s := if rd s0 (MOT.AX_BAND r) ≠ rd s (MOT.AX_BAND r) then
      onSlot s r (fun x => { x with
        recs := [(0, 0x80000000), (0, 0x80000000), (0, 0x80000000)], clips := [0, 0, 0] }) else s
  if rcMark s0 r ≠ rcMark s r then
    onSlot s r (fun x => { x with mark := if rcMark s r = 1 then some n else none, rcValid := decide (rcMark s r = 1) })
  else s

/-- The effects of a commit of the MOT page (R603, R612, R614, R615, R632). -/
def motCommitted (s0 s : State) (n : Nat) : State :=
  let s := (List.range 96).foldl (fun s a => if isBand s0 a && !isBand s a then hostEdges s a else s) s
  syncGroups ((List.range 48).foldl (fun s r => motSlotCommitted s0 s n r) s)

-- views

/-- Bits of the slots `lo` to `lo` + 31 for which `p` holds. -/
def slotBits (s : State) (lo : Nat) (p : SlotState → Bool) : Word :=
  word ((List.range 32).foldl (fun a i => a + b2n (decide (lo + i < 48) && p (slotOf s (lo + i))) * 2 ^ i) 0)

def SlotSt.code : SlotSt → Nat
  | .disabled => 0 | .arming => 1 | .run => 2 | .fault => 3

/-- AXr_STAT (Table 14.13); shadow marks a slot whose balls the standby leaves released (R616). -/
def axStatView (s : State) (r : Nat) : Word :=
  let x := slotOf s r
  word (x.st.code + 2 ^ 3 * b2n (inTwilight s && !drivesEng s (r / 4)) + 2 ^ 4 * x.cause + 2 ^ 8 * x.reaction +
    2 ^ 10 * b2n (rcValid s r) + 2 ^ 16 * x.rcLost + 2 ^ 24 * x.rcEarly)

/-- The computed registers of the MOT page. -/
def motView (s : State) (o : Nat) : Option Word :=
  let fi := (slotOf s (rdf s MOT.FAULT_SEL 0 6)).faultIdx
  match o with
  | 0x44 => some (slotBits s 0 slotOn)
  | 0x48 => some (slotBits s 32 slotOn)
  | 0x4c => some (slotBits s 0 (fun x => decide (x.st = .fault)))
  | 0x50 => some (slotBits s 32 (fun x => decide (x.st = .fault)))
  | 0x54 => some (setFld (rd s MOT.GEN_STAT) 0 12
      ((List.range 12).foldl (fun a g => a + b2n (groupHigh s g) * 2 ^ g) 0))
  | 0x5c => some (word fi)
  | 0x60 => some (word (fi / 2 ^ 32))
  | _ => if 0x100 ≤ o ∧ o < 0x700 ∧ (o - 0x100) % 0x20 = 0x1c then some (axStatView s ((o - 0x100) / 0x20)) else none

/-- summary.faults: slots in FAULT. -/
def motSummary (s : State) : Nat := s.slots.countP (fun x => decide (x.st = .fault))

end Sys2Proof.Machine
end

