-- ==== Sys2Proof/Machine/Lite.lean ====
section
/-!
DEFINITION. Lighting chains and strobes (spec/16): level memory, curves, temperature factors, frames, strobe schedules.
Marked choices: DESIGN CHOICE, log entry 9; DEDUCED, log entry 62.
-/
namespace Sys2Proof.Machine

def liteOf (s : State) (x : Nat) : LiteState := s.lites.getD x {}
def onLite (s : State) (x : Nat) (f : LiteState → LiteState) : State := { s with lites := s.lites.modify x f }
def strobeOf (s : State) (x : Nat) : StrobeState := s.strobes.getD x {}
def onStrobe (s : State) (x : Nat) (f : StrobeState → StrobeState) : State := { s with strobes := s.strobes.modify x f }

def ldCfg (s : State) (x : Nat) : Word := rd s (LITE.LD_CFG x)
def ldLength (s : State) (x : Nat) : Nat := fld (ldCfg s x) 0 9

-- curves (R694, Table 16.2)

/-- The largest number below 2 ^ n for which `p` holds, for a `p` that holds from 0 up to some number. -/
def topWhere (p : Nat → Bool) : Nat → Nat → Nat
  | 0, r => r
  | n + 1, r => if p (r + 2 ^ n) then topWhere p n (r + 2 ^ n) else topWhere p n r

/-- y ≤ round(c(in) × k), exactly, for a factor k in units of 2⁻³¹ and y at least 1. -/
def outAtLeast (curve gamma decades lvl k y : Nat) : Bool :=
  -- (2y − 1) × 2³¹ ≤ 2 × c × k
  let h := (2 * y - 1) * 2 ^ 30
  match curve with
  | 0 => decide (h ≤ lvl * k)
  -- c = 65535 × (in / 65535)^(gamma / 256)
  | 1 => decide (h ^ 256 * 65535 ^ gamma ≤ (65535 * k) ^ 256 * lvl ^ gamma)
  -- c = 65535 × (R^(in / 65535) − 1) / (R − 1)
  | _ => decide ((h * (10 ^ decades - 1) + 65535 * k) ^ 65535 ≤ (65535 * k) ^ 65535 * (10 ^ decades) ^ lvl)

/-- The exact rounded output, before the limit of 65,535. -/
def outExact (curve gamma decades lvl k : Nat) : Nat :=
  if lvl = 0 ∨ k = 0 then 0 else topWhere (outAtLeast curve gamma decades lvl k) 17 0

/-- One output (R694): within 1 LSB of the exact value. -/
def liteOut (cfg curveW : Word) (lvl k : Nat) : Nat :=
  let x := outExact (fld cfg 9 2) (fld curveW 0 10) (fld curveW 16 3) lvl k
  min 65535 (x + Config.liteError (fld cfg 9 2 + 4 * curveW.toNat) lvl k % 3 - 1)

-- temperature (R695 to R697)

/-- a_col of chain `x`. -/
def liteCoef (s : State) (x col : Nat) : Int :=
  if col = 0 then sfld (rd s (LITE.LD_TCOEF01 x)) 0 16
  else if col = 1 then sfld (rd s (LITE.LD_TCOEF01 x)) 16 16
  else sfld (rd s (LITE.LD_TCOEF2 x)) 0 16

/-- The factors at a temperature in units of 1/32768 °C (R696), in units of 2⁻³¹. -/
def liteFactors (s : State) (x : Nat) (t : Int) : List Nat :=
  let ref := sfld (rd s (LITE.LD_TREF x)) 0 16 * 128
  (List.range 3).map (fun col => (clampI 0 (4294967296 - 32768) (2147483648 + liteCoef s x col * (t - ref))).toNat)

def ldSource (s : State) (x : Nat) : Nat := rdf s (LITE.LD_TSRC x) 0 9

/-- `w` is the newest record of the source of chain `x` (R695 to R697). -/
def liteTemp (s : State) (x : Nat) (w : Word) : State :=
  if isNodata w ∨ bit w 3 then
    evtIf (!(liteOf s x).hold) (onLite s x (fun l => { l with hold := true })) pgLITE 16
  else onLite s x (fun l => { l with hold := false, factors := liteFactors s x (recVal w) })

/-- A delivered record of hub channel `ch` reaches the chains that take their temperature from it (R695, R697). -/
def liteDeliver (s : State) (ch : Nat) (w : Word) : State :=
  (List.range 8).foldl (fun s x => if ldSource s x = ch then liteTemp s x w else s) s

/-- The newest record of the source of chain `x`, under the settings in force (R695). -/
def liteRefresh (s : State) (x : Nat) : State :=
  match chainOfChannel (ldSource s x) with
  | none => onLite s x (fun l => { l with hold := false })
  | some c =>
    match (chainOf s c).recent with
    | o :: _ => liteTemp s x o.word
    | [] => s

/-- The factors of a frame: 1 without compensation, those of LDx_THOST for source 0x1FF. -/
def frameFactors (s : State) (x : Nat) : List Nat :=
  if !bit (ldCfg s x) 11 then [2147483648, 2147483648, 2147483648]
  else if ldSource s x = 0x1ff then liteFactors s x (sfld (rd s (LITE.LD_THOST x)) 0 16 * 128)
  else (liteOf s x).factors

-- frames

/-- The level of driver `d`, colour `col` of chain `x`. -/
def levelOf (s : State) (x d col : Nat) : Nat := sparseGet s.levels 0 (1024 * x + 4 * d + col)

/-- The outputs of a frame, computed from the copy of R693. -/
def frameOuts (s : State) (x : Nat) : List Nat :=
  let k := frameFactors s x
  (List.range (ldLength s x)).flatMap (fun d => (List.range 3).map (fun col =>
    liteOut (ldCfg s x) (rd s (LITE.LD_CURVE x)) (levelOf s x d col) (k.getD col 0)))

/-- A frame starts (R692, R693). -/
def startFrame (s : State) (x : Nat) : State :=
  onLite s x (fun l => { l with
    frame := some (frameOuts s x), due := none, sched := none, line := true, begun := some s.time.now })

/-- The line has been high for 10 µs (R692). -/
def lineRested (s : State) (l : LiteState) : Bool := l.line && decide (l.since + 100 ≤ s.time.now)

/-- The refresh timer has expired: it counts from the start of the previous frame (R698). -/
def refreshDue (s : State) (x : Nat) : Bool :=
  let r := fld (ldCfg s x) 16 16
  decide (r ≠ 0) && (liteOf s x).begun.all (fun t => decide (t + 10000 * r ≤ s.time.now))

/-- FRAME_START (R692, R698, R701, R702): a refresh falls due, or the frame of op = 1 or op = 2. -/
def execFrameStart (x : Fin 8) (refresh : Bool) (s : State) : Host.Outcome State Fault Refusal :=
  let l := liteOf s x
  let idle := l.frame.isNone && decide (ldLength s x ≠ 0) && lineRested s l
  let go := if refresh then refreshDue s x && l.sched.isNone else l.due.any (fun n => decide (n ≤ s.time.now)) || l.sched.any (fun n => decide (n ≤ now s))
  .next (when (idle && go) s (fun s => startFrame s x))

/-- The ticks that a frame with the outputs `outs` lasts (R692): 4 µs, 76.8 µs for each driver, 24 µs. -/
def frameTicks (outs : List Nat) : Nat := 280 + 256 * outs.length

/-- The apply mark of the frame that runs has ended. -/
def frameOver (s : State) (l : LiteState) : Bool :=
  l.frame.any (fun outs => l.begun.all (fun t => decide (t + frameTicks outs ≤ s.time.now)))

/-- FRAME_DONE (R692, R699). -/
def execFrameDone (x : Fin 8) (s : State) : Host.Outcome State Fault Refusal :=
  .next (when (frameOver s (liteOf s x)) s (fun s =>
    evt (onLite s x (fun l => { l with
      frame := none, frames := (l.frames + 1) % 2 ^ 16, line := decide (ldLength s x ≠ 0), since := s.time.now })) pgLITE x))

/-- The chain cannot take op = 1 or op = 2 (R701). -/
def liteBusy (s : State) (x : Nat) : Option Rej :=
  rejIf ((liteOf s x).frame.isSome || (liteOf s x).sched.isSome || (liteOf s x).due.isSome) Rsn.BUSY

/-- CTRL op = 1 (R698): the frame starts on the first tick edge after the write. -/
def sendNow (s : State) (w : Who) (x : Nat) : State :=
  checked s w LITE.CTRL (liteBusy s x) (fun s =>
    if ldLength s x = 0 then s else onLite s x (fun l => { l with due := some (s.time.now + 1) }))

def execSendNow (p : Path) (x : Fin 8) (s : State) : Host.Outcome State Fault Refusal :=
  .next (gated s (some p) LITE.CTRL (fun s => sendNow s (some p) x))

/-- CTRL op = 2 (R698, R700). -/
def sendToLatch (s : State) (w : Who) (x : Nat) : State :=
  let lead := 280 + 768 * ldLength s x
  let at' := rd64 s LITE.LATCH_AT_LO
  checked s w LITE.CTRL (firstSome [
      liteBusy s x, rejIf (!gridValid s) Rsn.NOGRID, rejIf (decide (at' ≤ now s + 1 + lead)) Rsn.PAST]) (fun s =>
    if ldLength s x = 0 then s else onLite s x (fun l => { l with sched := some (at' - lead) }))

def execSendToLatch (p : Path) (x : Fin 8) (s : State) : Host.Outcome State Fault Refusal :=
  .next (gated s (some p) LITE.CTRL (fun s => sendToLatch s (some p) x))

/-- CTRL op = 3 (R701). -/
def cancelSend (s : State) (x : Nat) : State := onLite s x (fun l => { l with sched := none })

def execCancelSend (p : Path) (x : Fin 8) (s : State) : Host.Outcome State Fault Refusal :=
  .next (gated s (some p) LITE.CTRL (fun s => cancelSend s x))

/-- A write of CTRL. -/
def liteCtrl (s : State) (w : Who) (v : Word) : State :=
  let x := fld v 0 3
  match fld v 8 3 with
  | 1 => sendNow s w x
  | 2 => sendToLatch s w x
  | 3 => cancelSend s x
  | _ => refuse s w LITE.CTRL ⟨Rsn.RANGE, none⟩

-- the level memory

/-- The key of LVL_ADDR in the level memory. -/
def lvlKey (s : State) : Nat :=
  let a := rd s LITE.LVL_ADDR
  1024 * fld a 12 3 + 4 * fld a 0 8 + fld a 8 2

/-- LVL_ADDR advances: colour, then driver, then chain. -/
def lvlAdvance (s : State) : State :=
  let a := rd s LITE.LVL_ADDR
  let col := fld a 8 2
  let d := fld a 0 8
  let x := fld a 12 3
  wr s LITE.LVL_ADDR (if col < 2 then word (d + 2 ^ 8 * (col + 1) + 2 ^ 12 * x)
    else if d < 255 then word (d + 1 + 2 ^ 12 * x) else word (2 ^ 12 * ((x + 1) % 8)))

def lvlRead (s : State) : Word := word (sparseGet s.levels 0 (lvlKey s))
def lvlWrite (s : State) (v : Word) : State :=
  lvlAdvance { s with levels := sparsePut s.levels 0 (lvlKey s) (fld v 0 16) }

/-- LVL_DATA (R709): a write of a level, or a read, and the advance of the address. -/
def execLvlData (p : Path) (w : Option Word) (s : State) : Host.Outcome State Fault Refusal :=
  .next (match w with
    | some v => gated s (some p) LITE.LVL_DATA (fun s => lvlWrite s v)
    | none => if hostReady s then lvlAdvance s else s)

-- strobes

def stCfg (s : State) (x : Nat) : Word := rd s (LITE.ST_CFG x)
def stPeriod (s : State) (x : Nat) : Nat := rdf s (LITE.ST_PERIOD x) 0 24
def stWidth (s : State) (x : Nat) : Nat := rdf s (LITE.ST_WIDTH x) 0 24

/-- A skipped firing (R706). -/
def strobeLate (s : State) (x : Nat) : State :=
  evt (onStrobe s x (fun t => { t with late := min 65535 (t.late + 1) })) pgLITE 17

/-- ST_CTRL op = 1 (R700, R704, R705). -/
def strobeArm (s : State) (w : Who) (x : Nat) : State :=
  let src := bit (stCfg s x) 1
  let at' := rd64 s (LITE.ST_AT_LO x)
  checked s w LITE.ST_CTRL (firstSome [
      rejIf (!src && !gridValid s) Rsn.NOGRID, rejIf (!src && decide (at' ≤ now s + 1)) Rsn.PAST,
      rejIf (decide (stPeriod s x ≠ 0 ∧ stPeriod s x * 80 < stWidth s x + 80)) 0x42]) (fun s =>
    onStrobe s x (fun t => { t with armed := true, fires := if src then [] else [at'] }))

def execStrobeArm (p : Path) (x : Fin 8) (s : State) : Host.Outcome State Fault Refusal :=
  .next (gated s (some p) LITE.ST_CTRL (fun s => strobeArm s (some p) x))

/-- ST_CTRL op = 2 (R704). -/
def strobeDisarm (s : State) (x : Nat) : State := onStrobe s x (fun t => { t with armed := false, fires := [] })

def execStrobeDisarm (p : Path) (x : Fin 8) (s : State) : Host.Outcome State Fault Refusal :=
  .next (gated s (some p) LITE.ST_CTRL (fun s => strobeDisarm s x))

/-- A write of ST_CTRL. -/
def strobeCtrl (s : State) (w : Who) (v : Word) : State :=
  match fld v 8 3 with
  | 1 => strobeArm s w (fld v 0 3)
  | 2 => strobeDisarm s (fld v 0 3)
  | _ => refuse s w LITE.ST_CTRL ⟨Rsn.RANGE, none⟩

/-- An instant among the firings to come, earliest first. -/
def addFire (l : List Nat) (n : Nat) : List Nat :=
  l.takeWhile (fun m => decide (m ≤ n)) ++ n :: l.dropWhile (fun m => decide (m ≤ n))

/-- A segment of ream `r` with trigger index `n`: the armed strobes of src = 1 on that ream fire at n + DELAY, or skip a firing
that has passed (R704, R706). -/
def strobeSegment (s : State) (r n : Nat) : State :=
  (List.range 8).foldl (fun s x =>
    if (strobeOf s x).armed ∧ bit (stCfg s x) 1 ∧ fld (stCfg s x) 4 4 = r then
      let at' := n + rdf s (LITE.ST_DELAY x) 0 24
      if at' < now s then strobeLate s x else onStrobe s x (fun t => { t with fires := addFire t.fires at' })
    else s) s

/-- The firings after one at index `n` (R704). -/
def strobeNext (s : State) (x n : Nat) (rest : List Nat) : State :=
  onStrobe s x (fun t => { t with
    fires := if stPeriod s x ≠ 0 then addFire rest (n + stPeriod s x) else rest
    armed := t.armed && (bit (stCfg s x) 1 || decide (stPeriod s x ≠ 0)) })

/-- t_s of the firing at index `n`, in units of 2⁻¹⁶ ns (R703): OFS counts 78.125 ps, 5,120 units. -/
def strobeTime (s : State) (x n : Nat) : Nat := (epoch s + n) * tickLen + 5120 * rdf s (LITE.ST_OFS x) 0 11

/-- STROBE_FIRE (R703, R706): the instant of the first firing to come, or one that was passed over. -/
def execStrobeFire (x : Fin 8) (s : State) : Host.Outcome State Fault Refusal :=
  .next (match (strobeOf s x).fires with
    | [] => s
    | n :: rest =>
      if now s < n then s
      else
        let t := strobeOf s x
        let s := strobeNext s x n rest
        if stWidth s x = 0 then s
        else if (t.active ∧ strobeTime s x n < t.endsAt) ∨ n < now s then strobeLate s x
        else evt (onStrobe s x (fun t => { t with
          active := true, endsAt := strobeTime s x n + 81920 * stWidth s x, firings := (t.firings + 1) % 2 ^ 16 })) pgLITE (8 + x))

/-- STROBE_END (R703): the inactive edge falls in the present tick period, or before it. -/
def execStrobeEnd (x : Fin 8) (s : State) : Host.Outcome State Fault Refusal :=
  .next (when (decide ((strobeOf s x).endsAt < s.time.ht + tickLen)) s (fun s => onStrobe s x (fun t => { t with active := false })))

/-- The level of ball STx: its pulse on the hub that drives, low in Twilight (R708). -/
def strobeBall (s : State) (x : Nat) : Bool := drivesHub s && ((strobeOf s x).active != bit (stCfg s x) 0)

-- checks, commits, views

/-- The checks of a write to LITE offset `o` (R695, R702, Table 16.5). -/
def liteChk (s : State) (o : Nat) (w : Word) : Chk :=
  if 0x100 ≤ o ∧ o < 0x200 then
    if o % 0x20 = 0 then
      let r := fld w 16 16
      { spec := rejIf (decide (r ≠ 0 ∧ r < ceilDiv (768 * fld w 0 9 + 380) 10000)) 0x41 }
    else if o % 0x20 = 8 then
      let src := fld w 0 9
      let ok := decide (src = 0x1ff) || (match chainOfChannel src with
        | some c => (chainCfg s c).en
        | none => false)
      { spec := rejIf (!ok) 0x40 }
    else {}
  else if 0x300 ≤ o ∧ o < 0x400 ∧ o % 0x20 ≠ 0x1c then
    { busy := rejIf (strobeOf s ((o - 0x300) / 0x20)).armed Rsn.BUSY }
  else {}

/-- The effects of a commit of the LITE page: the lines of idle chains (R686, R702), the factors (R695, R696). -/
def liteCommitted (s : State) : State :=
  (List.range 8).foldl (fun s x =>
    let s := liteRefresh s x
    if (liteOf s x).frame.isNone then
      onLite s x (fun l => { l with
        line := decide (ldLength s x ≠ 0), due := l.due.filter (fun _ => decide (ldLength s x ≠ 0))
        since := if l.line then l.since else s.time.now })
    else s) s

/-- A commit that disables a chain named as temperature source with tcomp_en = 1 is refused (Table 16.3): `en` says whether a
chain would be enabled. -/
def liteHolds (s : State) (p : Nat) (en : Nat → Bool) : Bool :=
  (List.range 8).any (fun x => bit (ldCfg s x) 11 && (match chainOfChannel (ldSource s x) with
    | some c => decide (c / 8 = p) && !en c
    | none => false))

/-- A warm reset ends frames, sends and strobes (Table 16.3). -/
def liteWarm (s : State) : State :=
  { s with
    lites := s.lites.map (fun l => { l with frame := none, due := none, sched := none, line := false })
    strobes := s.strobes.map (fun t => { t with armed := false, fires := [], active := false }) }

def armedStrobes (s : State) : Nat := (List.range 8).foldl (fun a x => a + b2n (strobeOf s x).armed * 2 ^ x) 0

/-- The computed registers of the LITE page. -/
def liteView (s : State) (o : Nat) : Option Word :=
  if o = 0x48 then some (lvlRead s)
  else if o = 0x54 then
    some (word ((List.range 8).foldl (fun a x => a + b2n (liteOf s x).frame.isSome * 2 ^ x +
      b2n (liteOf s x).sched.isSome * 2 ^ (8 + x)) 0 + 2 ^ 16 * armedStrobes s))
  else if 0x100 ≤ o ∧ o < 0x200 ∧ o % 0x20 = 0x1c then
    let l := liteOf s ((o - 0x100) / 0x20)
    some (word (l.frames + 2 ^ 16 * b2n l.hold))
  else if 0x300 ≤ o ∧ o < 0x400 ∧ o % 0x20 = 0x1c then
    let t := strobeOf s ((o - 0x300) / 0x20)
    some (word (t.firings + 2 ^ 16 * t.late))
  else none

end Sys2Proof.Machine
end

