-- ==== Sys2Proof/Machine/Vat.lean ====
section
/-!
DEFINITION. The Vat (R136, R137, R503): byte and word access, its three areas, and memory written word by word as the Vat
window shows it (R22).
Marked choices: DESIGN CHOICE, log entries 23, 53; DEDUCED, log entry 55.
-/
namespace Sys2Proof.Machine

abbrev mib : Nat := 1048576

/-- The bounds of the three areas of the Vat (R503). -/
def feltEnd (s : State) : Nat := rdf s VAT.FELT_SIZE 0 12 * mib
def reamEnd (s : State) : Nat := feltEnd s + rdf s VAT.REAM_SIZE 0 12 * mib
def vatSize : Nat := 2048 * mib

/-- The bytes from `a` on, `n` of them, lie wholly in table storage. -/
def inTable (s : State) (a n : Nat) : Bool := decide (reamEnd s ≤ a ∧ a + n ≤ vatSize ∧ rdf s VAT.TABLE_SIZE 0 12 ≠ 0)

/-- The canonical form of a list of bytes: addresses strictly rising, no byte equal to the 0 that an unlisted address reads as. -/
def Memory.wf (l : List Host.Cell) : Bool := sparseWf (fun _ => 0) l

/-- The bytes that a quire of stream `i` takes in the Felt (R478). -/
def quireSpace (s : State) (i : Nat) : Nat := 16 + 8 * strmQ s i

/-- The quire of stream `i` that stands in place `j` of its share: the share holds the quires of the Felt in turn, by sequence. -/
def quireAt (s : State) (i j : Nat) : Option Quire :=
  let x := strmOf s i
  ((x.felt.find? (fun f => decide (f.quire.sequence.toNat % max 1 (x.share * 65536 / quireSpace s i) = j))).map (·.quire))

/-- The byte of a list of words in the order of register words (R22, R350). -/
def wordsByte (l : List Word) (k : Nat) : Byte := (busBytes (l.getD (k / 4) 0)).getD (k % 4) 0

/-- The byte at address `a` of the Felt: of the quire that stands there, or 0. -/
def feltByte (s : State) (a : Nat) : Byte :=
  match (List.range 64).find? (fun i => ((strmOf s i).units.take (strmOf s i).share).contains (a / 65536)) with
  | none => 0
  | some i =>
    let off := (strmOf s i).units.idxOf (a / 65536) * 65536 + a % 65536
    match quireAt s i (off / quireSpace s i) with
    | some q => wordsByte (quireWords q) (off % quireSpace s i)
    | none => 0

/-- The ream in whose history ring the address `a` lies (R513). -/
def historyAt (s : State) (a : Nat) : Option ReamState :=
  if a < reamEnd s then s.reams.find? (fun x => decide (x.base * 65536 ≤ a ∧ a < x.base * 65536 + x.ring)) else none

/-- The byte at Vat address `a`: the Felt holds the quires of the streams, the history ring of a ream its history; elsewhere a
byte that nothing has written reads 0. -/
def vatByte (s : State) (a : Nat) : Byte :=
  if a < feltEnd s then feltByte s a
  else match historyAt s a with
    | some x => Config.histByte (a - x.base * 65536) (x.hist.map (fun r => (r.idx, r.chan, r.word)))
    | none => sparseGet s.vat 0 a

def vatPut (s : State) (a : Nat) (b : Byte) : State := { s with vat := sparsePut s.vat 0 a b }

/-- The register word at Vat address `a`: its bytes, least significant first (R22). -/
def vatWord (s : State) (a : Nat) : Word :=
  word ((vatByte s a).toNat + 2 ^ 8 * (vatByte s (a + 1)).toNat + 2 ^ 16 * (vatByte s (a + 2)).toNat +
    2 ^ 24 * (vatByte s (a + 3)).toNat)

def vatPutWord (s : State) (a : Nat) (w : Word) : State :=
  (List.range 4).foldl (fun s i => vatPut s (a + i) (BitVec.ofNat 8 (fld w (8 * i) 8))) s

/-- Words stored one after the other from address `a` on. -/
def vatPutWords (s : State) (a : Nat) (l : List Word) : State :=
  (l.foldl (fun (p : State × Nat) w => (vatPutWord p.1 p.2 w, p.2 + 4)) (s, a)).1

/-- `n` bytes from address `a` on. -/
def vatBytes (s : State) (a n : Nat) : List Byte := (List.range n).map (fun i => vatByte s (a + i))

def vatPutBytes (s : State) (a : Nat) (l : List Byte) : State :=
  (l.foldl (fun (p : State × Nat) b => (vatPut p.1 p.2 b, p.2 + 1)) (s, a)).1

end Sys2Proof.Machine
end

