-- ==== Sys2Proof/Machine/Capture.lean ====
section
/-!
DEFINITION. Reams, triggers, ring-wide triggers, hold-off, spill and mask tests (spec/12).
Marked choices: DEDUCED, log entry 55.
-/
namespace Sys2Proof.Machine

-- settings

def reamOf (s : State) (r : Nat) : ReamState := s.reams.getD r {}
def onReam (s : State) (r : Nat) (f : ReamState → ReamState) : State := { s with reams := s.reams.modify r f }

/-- A change of state sets the ream's event bit (Table 12.7). -/
def setReam (s : State) (r : Nat) (st : ReamSt) : State :=
  if (reamOf s r).st = st then s else evt (onReam s r (fun x => { x with st := st })) pgCAPT (16 + r)

def ReamSt.code : ReamSt → Nat
  | .idle => 0 | .prefill => 1 | .waiting => 2 | .post => 3 | .holdoff => 4 | .done => 5 | .stopped => 6

/-- The ream is armed: it runs its history. -/
def reamArmed (x : ReamState) : Bool := decide (x.st = .prefill ∨ x.st = .waiting ∨ x.st = .post ∨ x.st = .holdoff)

def rmCfg (s : State) (r : Nat) : Word := rd s (CAPT.RM_CFG r)
def rmTrig (s : State) (r : Nat) : Word := rd s (CAPT.RM_TRIG r)
def rmRing (s : State) (r : Nat) : Bool := bit (rmCfg s r) 0
def rmSpill (s : State) (r : Nat) : Bool := bit (rmCfg s r) 4
def rmSegments (s : State) (r : Nat) : Nat := fld (rmCfg s r) 16 16
def rmKind (s : State) (r : Nat) : Nat := fld (rmTrig s r) 0 4
def rmSource (s : State) (r : Nat) : Nat := fld (rmTrig s r) 4 9
def rmPol (s : State) (r : Nat) : Nat := fld (rmTrig s r) 13 2
def rmStream (s : State) (r : Nat) : Nat := fld (rmTrig s r) 24 6
def rmPre (s : State) (r : Nat) : Nat := rdf s (CAPT.RM_PRE r) 0 24
def rmPost (s : State) (r : Nat) : Nat := (rd s (CAPT.RM_POST r)).toNat
def rmHold (s : State) (r : Nat) : Nat := rdf s (CAPT.RM_HOLDOFF r) 0 24
def rmHoldEvents (s : State) (r : Nat) : Bool := rdb s (CAPT.RM_HOLDOFF r) 24
def rmMaskLen (s : State) (r : Nat) : Nat := rdf s (CAPT.RM_MASK_LEN r) 0 17
def rmMaskBase (s : State) (r : Nat) : Nat := rdf s (CAPT.RM_MASK r) 0 25 * 64
def ringWindow (s : State) : Nat := 10 * rdf s CAPT.RING_WINDOW 0 14

def reamSel (s : State) (r ch : Nat) : Bool := bit (sparseGet s.captSel 0 (12 * r + ch / 32)) (ch % 32)
def reamChans (s : State) (r : Nat) : List Nat := (List.range 384).filter (fun ch => reamSel s r ch)

/-- The output rate of a hub channel whose chain is enabled (R509). -/
def chanRate (s : State) (ch : Nat) : Option (Nat × Nat) :=
  match chainOfChannel ch with
  | some c => if (chainCfg s c).en then some (chainCfg s c).outRate else none
  | none => none

/-- The output rate that the channels of a ream share. -/
def reamRate (s : State) (r : Nat) : Nat × Nat :=
  match reamChans s r with
  | ch :: _ => (chanRate s ch).getD (0, 1)
  | [] => (0, 1)

/-- ceil(t / T_out) for a time of `t` ticks. -/
def perOut (rate : Nat × Nat) (t : Nat) : Nat := ceilDiv (t * rate.1) (10000000 * max 1 rate.2)

/-- G of R512 and R531. -/
def reamGuard (s : State) (r : Nat) : Nat := if rmRing s r then perOut (reamRate s r) (ringWindow s) else 0

/-- The bytes of the history ring, and of one segment (R512). -/
def histBytes (s : State) (r : Nat) : Nat := 8 * (reamChans s r).length * (rmPre s r + reamGuard s r)
def segBytes (s : State) (r : Nat) : Nat :=
  64 + 8 * (reamChans s r).length * (rmPre s r + (if rmSpill s r then 0 else rmPost s r))

/-- M of R512 in units of 64 KiB. -/
def reamUnits (s : State) (r : Nat) : Nat := ceilDiv (histBytes s r + rmSegments s r * segBytes s r) 65536

def reamFree (s : State) : Nat := rdf s VAT.REAM_SIZE 0 12 * 16 - s.reams.foldl (fun a x => a + x.size) 0

/-- The lowest place in the ream area with `n` free units: the start, or the end of a held ream. -/
def reamPlace (s : State) (n : Nat) : Option Nat :=
  let lo := rdf s VAT.FELT_SIZE 0 12 * 16
  let hi := lo + rdf s VAT.REAM_SIZE 0 12 * 16
  let held := s.reams.filter (fun x => decide (x.size ≠ 0))
  let free (b : Nat) : Bool := decide (b + n ≤ hi) && held.all (fun x => decide (x.base + x.size ≤ b ∨ b + n ≤ x.base))
  let l := (lo :: held.map (fun x => x.base + x.size)).filter free
  match l with
  | [] => none
  | b :: t => some (t.foldl min b)

-- arming

/-- The checks of an arm (R876, R509 to R538): `armAt` for op 2. -/
def armChk (s : State) (r : Nat) (armAt : Option Nat) : Option Rej :=
  let chans := reamChans s r
  let rates := chans.map (chanRate s)
  let k := rmKind s r
  firstSome [
    rejIf (decide ((reamOf s r).st ≠ .idle ∨ s.pwr.st = .dusk)) Rsn.BUSY,
    rejIf (armAt.isSome && !gridValid s) Rsn.NOGRID,
    rejIf (armAt.any (fun n => decide (n ≤ now s + 1))) Rsn.PAST,
    rejIf (decide (k = 6 ∧ 3 < rmSource s r)) Rsn.RANGE,
    rejIf (chans.isEmpty || rates.any (·.isNone)) 0x43,
    rejIf (rates.any (fun x => decide (x.any (fun y => decide (y.1 * (reamRate s r).2 ≠ (reamRate s r).1 * y.2))))) 0x42,
    rejIf (decide (reamFree s < reamUnits s r) || (reamPlace s (reamUnits s r)).isNone) 0x41,
    rejIf (decide (rmPre s r = 0 ∧ rmPost s r = 0)) 0x40,
    rejIf (decide (1 ≤ k ∧ k ≤ 5) && (chanRate s (rmSource s r)).isNone) 0x43,
    rejIf (decide (k = 3 ∧ sfld (rd s (CAPT.RM_LEVEL_A r)) 0 24 < sfld (rd s (CAPT.RM_LEVEL_B r)) 0 24)) 0x47,
    rejIf (rmRing s r && (decide (fld (rmCfg s r) 8 8 = 0) || rmHoldEvents s r || s.ring.address.isNone)) 0x48,
    rejIf (rmRing s r &&
      decide (rmHold s r * 10 * (reamRate s r).1 <
        rmPost s r * 10000000 * (reamRate s r).2 + ringWindow s * (reamRate s r).1)) 0x44,
    rejIf (rmSpill s r &&
      (decide (strmSource s (rmStream s r) ≠ 2 ∨
        ¬ ((strmOf s (rmStream s r)).st = .admitted ∨ (strmOf s (rmStream s r)).st = .running) ∨
        strmRate s (rmStream s r) * (reamRate s r).2 < chans.length * (reamRate s r).1 * 65536) ||
        (List.range 16).any (fun q => decide (q ≠ r) && reamArmed (reamOf s q) && rmSpill s q &&
          decide (rmStream s q = rmStream s r)))) 0x45,
    rejIf (decide (rmMaskLen s r ≠ 0) &&
      (decide (rmPost s r < rmMaskLen s r) || !inTable s (rmMaskBase s r) (8 * chans.length * rmMaskLen s r))) 0x46]

/-- The ream enters WAITING at index `n` (R535). -/
def reamWait (s : State) (r n : Nat) : State :=
  setReam (onReam s r (fun x => { x with waitIdx := n, cand := none })) r .waiting

/-- The ream starts its history at its arming index (R518). -/
def reamStart (s : State) (r : Nat) : State :=
  let s := onReam s r (fun x => { x with started := true })
  if bit (rmCfg s r) 2 ∧ 0 < rmPre s r then s else reamWait s r (reamOf s r).armIdx

/-- CTRL op 1 and op 2 (R517). -/
def armReam (s : State) (w : Who) (r : Nat) (armAt : Option Nat) : State :=
  checked s w CAPT.CTRL (armChk s r armAt) (fun s =>
    let n := armAt.getD (now s + 1)
    let s := onReam s r (fun _ => {
      armIdx := n, base := (reamPlace s (reamUnits s r)).getD 0, size := reamUnits s r, ring := histBytes s r })
    let s := setReam s r .prefill
    if armAt.isNone then reamStart s r else s)

def execArm (p : Path) (r : Fin 16) (s : State) : Host.Outcome State Fault Refusal :=
  .next (gated s (some p) CAPT.CTRL (fun s => armReam s (some p) r none))
def execArmAt (p : Path) (r : Fin 16) (s : State) : Host.Outcome State Fault Refusal :=
  .next (gated s (some p) CAPT.CTRL (fun s => armReam s (some p) r (some (rd64 s CAPT.ARM_AT_LO))))

/-- ARM_AT_REACHED (R518). -/
def execArmAtReached (r : Fin 16) (s : State) : Host.Outcome State Fault Refusal :=
  let x := reamOf s r
  .next (when (decide (x.st = .prefill ∧ x.armIdx ≤ now s) && !x.started) s (fun s => reamStart s r))

-- the Vat image of a segment

/-- The slots of a record list, in the order of R473. -/
def sortRecs (l : List ReamRec) : List ReamRec :=
  l.foldl (fun a r => ins a r) []
where
  ins : List ReamRec → ReamRec → List ReamRec
    | [], r => [r]
    | h :: t, r => if r.idx < h.idx ∨ (r.idx = h.idx ∧ r.chan < h.chan) then r :: h :: t else h :: ins t r

def recWords (l : List ReamRec) : List Word := l.flatMap (fun r => [word r.idx, r.word])

/-- The address of segment `i` of ream `r` (R513). -/
def segAddr (s : State) (r i : Nat) : Nat := (reamOf s r).base * 65536 + histBytes s r + i * segBytes s r

/-- Records of one channel. -/
def ofChan (l : List ReamRec) (ch : Nat) : List ReamRec := l.filter (fun x => decide (x.chan = ch))

/-- The smallest number that `f` gives over a list, 0 for an empty one. -/
def leastOf (l : List Nat) : Nat :=
  match l with
  | [] => 0
  | n :: t => t.foldl min n

/-- The sixteen words of a segment header (Table 12.1). -/
def segHeader (s : State) (r : Nat) (g : Segment) : List Word :=
  let chans := reamChans s r
  let stored := sortRecs (g.pre ++ g.post)
  let preN := leastOf (chans.map (fun ch => (ofChan g.pre ch).length))
  let postN := leastOf (chans.map (fun ch => takenOf g ch))
  let first := match stored with
    | [] => g.cand.idx
    | x :: _ => if preN = 0 then g.cand.idx else x.idx
  let last := stored.foldl (fun a x => max a x.idx) (max first g.last)
  let gap := s.gaps.any (fun p => decide (p.1 ≤ last ∧ first ≤ p.2))
  let v := g.firstViol.getD (0, 0, 0)
  [ word (g.number % 2 ^ 16 + 2 ^ 16 * r + 2 ^ 20 * (g.cand.hub % 64) + 2 ^ 26 * (g.cand.ream % 16)),
    word (g.cand.cause + 2 ^ 4 * b2n g.shortPre + 2 ^ 5 * b2n g.incomplete + 2 ^ 6 * b2n g.late +
      2 ^ 7 * b2n (decide (0 < g.viol)) + 2 ^ 8 * b2n (rmSpill s r) + 2 ^ 9 * b2n g.ecc + 2 ^ 10 * b2n gap + 2 ^ 16 * chans.length),
    word (g.cand.idx / 2 ^ 32), word g.cand.idx, word preN, word postN, word (first / 2 ^ 32), word first,
    word (min g.viol (2 ^ 32 - 1)), word (v.1 % 2 ^ 16 + 2 ^ 16 * v.2.1), word (v.2.2 / 2 ^ 32), word v.2.2,
    word (stored.countP (fun x => isNodata x.word)), word (g.cand.frac % 2 ^ 13), 0, 0 ]

/-- The header of a segment is written (R516). -/
def writeHeader (s : State) (r : Nat) (g : Segment) : State :=
  let s := vatPutWords s (segAddr s r g.number) (segHeader s r g)
  evt (onReam s r (fun x => { x with segLast := g.number, segDone := min 65535 (x.segDone + 1) })) pgCAPT 1

/-- The records that segment `g` stores, in the order of their slots (R514, R536). -/
def segPre (g : Segment) : List ReamRec := sortRecs g.pre
def segPost (s : State) (r : Nat) (g : Segment) : List ReamRec := if rmSpill s r then [] else sortRecs g.post

/-- The slots of segment `g` stand in the Vat. -/
def storeSlots (s : State) (r : Nat) (g : Segment) : State :=
  vatPutWords s (segAddr s r g.number + 64) (recWords (segPre g ++ segPost s r g))

/-- A slot whose Vat word is uncorrectable holds NODATA with tag 0 (R357, Table 11.3). -/
def loseRec (x : ReamRec) : ReamRec := { x with word := nodataWord 0 }

/-- Slot `k` of a segment is lost (R357): its record, and the stored slots with it. -/
def segSlotError (a : State × Segment) (r k : Nat) : State × Segment :=
  let pre := segPre a.2
  let post := segPost a.1 r a.2
  if pre.length + post.length ≤ k then a
  else
    let g := if k < pre.length then { a.2 with pre := pre.modify k loseRec, ecc := true }
      else { a.2 with post := post.modify (k - pre.length) loseRec, ecc := true }
    (storeSlots (vatError a.1 0 1) r g, g)

/-- The errors of the Vat words of a segment (R355, R357, Table 12.1 ecc): each is counted, and a slot that is lost is written
again. -/
def segErrors (s : State) (r : Nat) (errs : List QueueErr) (g : Segment) : State × Segment :=
  errs.foldl (fun a e => match e with
    | .corrected => (vatError a.1 1 0, a.2)
    | .header => (vatError a.1 0 1, a.2)
    | .value k => segSlotError a r k
    | .index k => segSlotError a r k) (s, g)

/-- SEGMENT_DONE (R516). -/
def execSegmentDone (r : Fin 16) (s : State) (errs : List QueueErr := []) : Host.Outcome State Fault Refusal :=
  .next (match (reamOf s r).headers with
    | [] => s
    | g :: t =>
      let e := segErrors (onReam s r (fun x => { x with headers := t })) r errs g
      writeHeader e.1 r e.2)

/-- The segment in POST ends: its header waits to be written. -/
def closeSegment (s : State) (r : Nat) (incomplete : Bool) : State :=
  match (reamOf s r).seg with
  | none => s
  | some g =>
    let g := { g with incomplete := incomplete }
    let s := if rmSpill s r then flushRecs s (rmStream s r) else s
    onReam s r (fun x => { x with seg := none, headers := x.headers ++ [g] })

/-- The ream becomes STOPPED (Table 12.7). -/
def stopReam (s : State) (r cause : Nat) : State :=
  let s := closeSegment s r true
  evt (setReam (onReam s r (fun x => { x with cause := cause, cand := none })) r .stopped) pgCAPT 3

/-- Stream `i` has ended (R489): reams that spill to it stop (Table 12.4). -/
def spillEnded (s : State) (i : Nat) : State :=
  (List.range 16).foldl (fun s r =>
    if (reamOf s r).st = .post ∧ rmSpill s r ∧ rmStream s r = i then stopReam s r 4 else s) s

/-- Stream `i` ends where it stands, and with it what feeds it (R489, R111). -/
def endSpills (s : State) (i cause : Nat) : State := spillEnded (endStream s i cause) i

/-- T_HOLD_EXPIRY (R489). -/
def execTHoldExpiry (i : Fin 64) (s : State) : Host.Outcome State Fault Refusal :=
  let x := strmOf s i
  .next (when (decide (x.st = .running ∨ x.st = .closing) && !x.felt.isEmpty) s (fun s => endSpills s i 1))

/-- The index from which a time hold-off lets triggers pass (R533, R534). -/
def holdEnd (s : State) (r : Nat) : Nat := (reamOf s r).trigIdx + 10 * rmHold s r

/-- The post part is complete (R533, R534, R540): the next state. -/
def segmentEnd (s : State) (r : Nat) : State :=
  let failed := (reamOf s r).seg.any (fun g => decide (0 < g.viol))
  let s := closeSegment s r false
  if failed ∧ bit (rmCfg s r) 3 then stopReam s r 2
  else if rmSegments s r ≤ (reamOf s r).decided then setReam s r .done
  else if s.pwr.st = .dusk then stopReam s r 5
  else if rmHold s r = 0 ∧ !rmRing s r then reamWait s r (now s)
  else if rmHoldEvents s r then setReam (onReam s r (fun x => { x with skip := rmHold s r })) r .holdoff
  else if holdEnd s r ≤ now s ∧ !rmRing s r then reamWait s r (now s)
  else setReam s r .holdoff

/-- HOLDOFF_END (R533, R534). -/
def execHoldoffEnd (r : Fin 16) (s : State) : Host.Outcome State Fault Refusal :=
  .next (when (decide ((reamOf s r).st = .holdoff ∧ holdEnd s r ≤ now s) && !rmHoldEvents s r) s
    (fun s => reamWait s r (holdEnd s r)))

-- post records

/-- The violation test of R539 at position `pos` of channel `ch`. -/
def maskViolates (s : State) (r ch pos : Nat) (w : Word) : Bool :=
  let len := rmMaskLen s r
  if len ≤ pos then false
  else
    let rank := ((reamChans s r).filter (fun c => decide (c < ch))).length
    let a := rmMaskBase s r + 8 * (rank * len + pos)
    let lo := sfld (vatWord s a) 8 24
    let hi := sfld (vatWord s (a + 4)) 8 24
    if isNodata w ∨ bit w 3 then !rdb s (CAPT.RM_MASK_LEN r) 24
    else decide (recVal w < lo ∨ hi < recVal w)

/-- One post record of a ream in POST (R525, R536, R539). -/
def postRecord (s : State) (r : Nat) (x : ReamRec) : State :=
  match (reamOf s r).seg with
  | none => s
  | some g =>
    let n := takenOf g x.chan
    if x.idx < g.cand.idx ∨ rmPost s r ≤ n then s
    else if rmSpill s r ∧ !takesRecords (strmOf s (rmStream s r)) ∧ (strmOf s (rmStream s r)).st ≠ .admitted then stopReam s r 4
    else
      let bad := maskViolates s r x.chan n x.word
      let g' := { g with
        taken := (x.chan, n + 1) :: g.taken.filter (fun e => decide (e.1 ≠ x.chan))
        post := if rmSpill s r then g.post else g.post ++ [x]
        last := max g.last x.idx
        viol := g.viol + b2n bad
        firstViol := if bad ∧ g.viol = 0 then some (n, x.chan, x.idx) else g.firstViol }
      let s := onReam s r (fun t => { t with seg := some g', maskFail := t.maskFail || bad })
      let s := if rmSpill s r then s else storeSlots s r g'
      let s := evtIf (bad && decide (g.viol = 0)) s pgCAPT 2
      let s := if rmSpill s r then feedStream s (rmStream s r) x.chan x.idx [x.word] none false else s
      if (reamChans s r).all (fun ch => decide (rmPost s r ≤ takenOf g' ch)) then segmentEnd s r else s

/-- The trigger is taken: the pre part from the history, then the post records that the history already holds (R520,
R525). -/
def takeTrigger (s : State) (r : Nat) (c : Cand) : State :=
  let x := reamOf s r
  let chans := reamChans s r
  let pre := chans.flatMap (fun ch => ((ofChan x.hist ch).filter (fun h => decide (h.idx < c.idx))).take (rmPre s r))
  let short := chans.any (fun ch => decide ((ofChan pre ch).length < rmPre s r))
  let g : Segment := { number := x.decided, cand := c, pre := pre, shortPre := short }
  let s := onReam s r (fun t => { t with
    seg := some g, decided := t.decided + 1, trigIdx := c.idx, cand := none })
  let s := storeSlots s r g
  let s := strobeSegment s r c.idx
  let s := evtIf (decide (c.cause = 9)) (evt (setReam s r .post) pgCAPT 0) pgCAPT 5
  if rmPost s r = 0 then segmentEnd s r
  else (sortRecs (x.hist.filter (fun h => decide (c.idx ≤ h.idx)))).foldl (fun s h => postRecord s r h) s

-- candidates

/-- Of two candidates, the one that R529 keeps. -/
def betterCand (a b : Cand) : Cand :=
  if a.idx < b.idx then a
  else if b.idx < a.idx then b
  else if a.pref < b.pref ∨ (a.pref = b.pref ∧ a.hub ≤ b.hub) then a else b

/-- A trigger that is skipped or ignored in POST or HOLDOFF (R533). -/
def ignoredTrigger (s : State) : State := bumpSat s CAPT.TRIG_IGNORED 0 32 1

/-- A ring trigger of index `n` for a segment that is decided (R530): an earlier one sets the late flag of the segment, in its header
too where that is written. -/
def ringDecided (s : State) (r segment n : Nat) : State :=
  let x := reamOf s r
  if segment + 1 = x.decided ∧ n < x.trigIdx then
    let late (g : Segment) : Segment := if g.number = segment then { g with late := true } else g
    let written := x.seg.isNone && x.headers.isEmpty
    let a := segAddr s r segment + 4
    let s := onReam s r (fun x => { x with seg := x.seg.map late, headers := x.headers.map late })
    let s := if written then vatPutWord s a (vatWord s a ||| bitW 6 true) else s
    evt (bumpSat s CAPT.RING_STAT 16 16 1) pgCAPT 4
  else bumpSat s CAPT.RING_STAT 0 16 1

/-- What comes after the decision on the edge of R529 changes nothing in the segment (R530, R533). -/
def afterDecision (s : State) (r : Nat) (c : Cand) : State :=
  if c.cause = 8 then ringDecided s r ((reamOf s r).decided - 1) c.idx
  else if c.cause = 9 then s
  else ignoredTrigger s

/-- A ring-wide candidate holds until the edge n_c + W, where it is taken (R529). -/
def nominate (s : State) (r : Nat) (k : Cand) : State :=
  if k.idx + ringWindow s ≤ now s then takeTrigger s r k else onReam s r (fun x => { x with cand := some k })

/-- A candidate for a ream in WAITING (R529): a local ream takes it; a ring-wide ream waits for n_c + W, and from that edge on takes
no other. -/
def candidate (s : State) (r : Nat) (c : Cand) : State :=
  if !rmRing s r then takeTrigger s r c
  else
    match (reamOf s r).cand with
    | some d =>
      if d.idx + ringWindow s ≤ now s then afterDecision (takeTrigger s r d) r c else nominate s r (betterCand d c)
    | none => nominate s r c

/-- The ring trigger frame of R528. -/
def sendTrigger (s : State) (r : Nat) (c : Cand) : State :=
  if rmRing s r ∧ bit (rmCfg s r) 1 then
    sendRing s ctlMac (.ringTrigger ⟨fld (rmCfg s r) 8 8, c.cause, s.ring.address.getD 0, r, c.idx, (reamOf s r).decided⟩)
  else s

/-- A trigger whose index lies before the end of the time hold-off of the segment before (R533). -/
def tooEarly (s : State) (r idx : Nat) : Bool :=
  decide (0 < (reamOf s r).decided ∧ idx < holdEnd s r) && !rmHoldEvents s r

/-- A local kind fires, or the host triggers, which is no occurrence of the condition: `c` is the candidate (R524, R533). -/
def fire (s : State) (r : Nat) (c : Cand) : State :=
  let s := if (reamOf s r).st = .holdoff ∧ !rmHoldEvents s r ∧ holdEnd s r ≤ c.idx then reamWait s r (holdEnd s r) else s
  match (reamOf s r).st with
  | .waiting =>
    if tooEarly s r c.idx then ignoredTrigger s else candidate (sendTrigger s r c) r c
  | .post => ignoredTrigger s
  | .holdoff =>
    let s := ignoredTrigger s
    if rmHoldEvents s r ∧ c.cause ≠ 10 then
      let n := (reamOf s r).skip - 1
      let s := onReam s r (fun x => { x with skip := n })
      if n = 0 then reamWait s r (now s) else s
    else s
  | .prefill => s | .idle => s | .done => s | .stopped => s

def localCand (s : State) (r idx cause frac : Nat) : Cand := ⟨idx, cause, s.ring.address.getD 0, r, 0, frac⟩

-- conditions

/-- The levels of TRIGIN0 to TRIGIN3 on the tick edge of index `n`. -/
def triginLevels (s : State) (n : Nat) : List Bool :=
  ((s.pins.triginAt.find? (fun e => decide (e.1 ≤ n))).map (·.2)).getD []

/-- The flag vector of R522 of a record of index `n`. -/
def flagVector (s : State) (ch n : Nat) (w : Word) : Nat :=
  let bands := if ch < 96 then
      (List.range 4).foldl (fun a i =>
        let q := 4 * (ch / 4) + i
        let b := bandStatesAt (bandOf s q) n
        if comparatorsOn s q then a + 2 ^ (8 + 2 * i) * (b2n b.1 + 2 * b2n b.2) else a) 0
    else 0
  fld w 0 8 + bands + (List.range 4).foldl (fun a i => a + 2 ^ (16 + i) * b2n ((triginLevels s n).getD i false)) 0

/-- One record of the trigger channel is evaluated (R521 to R523): whether the condition fires, and its new history. -/
def evalRecord (s : State) (r n : Nat) (w : Word) (x : ReamState) : Bool × ReamState :=
  let k := rmKind s r
  let pol := rmPol s r
  let a := sfld (rd s (CAPT.RM_LEVEL_A r)) 0 24
  let b := sfld (rd s (CAPT.RM_LEVEL_B r)) 0 24
  let v := recVal w
  let flagged := isNodata w || bit w 4 || bit w 3
  if decide (1 ≤ k ∧ k ≤ 4) && flagged && !rdb s (CAPT.RM_TRIG r) 15 then (false, x)
  else match k with
  | 1 =>
    let hit := if pol = 0 then decide (a ≤ v) else if pol = 1 then decide (v ≤ a) else decide (a ≤ v ∨ v ≤ b)
    (hit && !isNodata w, x)
  | 2 =>
    let h : Int := rdf s (CAPT.RM_LEVEL_B r) 0 24
    let up := x.rise && decide (a ≤ v) && !isNodata w
    let dn := x.fall && decide (v ≤ a) && !isNodata w
    let hit := (up && decide (pol ≠ 1)) || (dn && decide (pol ≠ 0))
    (hit, { x with rise := !up && (x.rise || decide (v ≤ a - h)), fall := !dn && (x.fall || decide (a + h ≤ v)) })
  | 3 =>
    let inn := decide (b ≤ v ∧ v ≤ a)
    let enters := inn && x.inside == some false
    let leaves := !inn && x.inside == some true
    (((enters && decide (pol ≠ 1)) || (leaves && decide (pol ≠ 0))) && !isNodata w, { x with inside := some inn })
  | 4 =>
    let sp := fld (rmTrig s r) 16 8
    let hit := match x.vals[sp - 1]? with
      | some u =>
        (decide (a ≤ v - u) && decide (pol ≠ 1)) || (decide (v - u ≤ -a) && decide (pol ≠ 0))
      | none => false
    (hit && !isNodata w, { x with vals := (v :: x.vals).take 255 })
  | 5 =>
    let m := rdf s (CAPT.RM_FLAG_MASK r) 0 20
    let ok := decide (flagVector s (rmSource s r) n w &&& m = rdf s (CAPT.RM_FLAG_PAT r) 0 20 &&& m)
    (ok && x.held == some false, { x with held := some ok })
  | _ => (false, x)

-- records

/-- The history keeps the newest pre + G records of each channel, and those that follow the last one evaluated (R518). -/
def pruneHist (s : State) (r : Nat) (x : ReamState) (ch : Nat) : List ReamRec :=
  let n := rmPre s r + reamGuard s r
  let own := ofChan x.hist ch
  let fresh := own.filter (fun h => x.evalIdx.any (fun e => decide (e < h.idx)))
  let old := own.filter (fun h => !x.evalIdx.any (fun e => decide (e < h.idx)))
  (fresh ++ old.take n) ++ x.hist.filter (fun h => decide (h.chan ≠ ch))

/-- Every channel holds pre records since n_a (R520). -/
def prefilled (s : State) (r : Nat) : Bool :=
  (reamChans s r).all (fun ch => decide (rmPre s r ≤ (ofChan (reamOf s r).hist ch).length))

/-- A delivered record reaches ream `r` (R518 to R526): first as a record of the trigger channel, then as a record of its
own channel. -/
def reamRecord (s : State) (r : Nat) (x : ReamRec) : State :=
  let t := reamOf s r
  if !reamArmed t ∨ x.idx < t.armIdx then s
  else
    let s := if t.started then s else reamStart s r
    let s := if decide (1 ≤ rmKind s r ∧ rmKind s r ≤ 5) && decide (rmSource s r = x.chan) then
        let e := evalRecord s r x.idx x.word (reamOf s r)
        let s := onReam s r (fun _ => { e.2 with evalIdx := some x.idx })
        if e.1 then fire s r (localCand s r x.idx (rmKind s r) 0) else s
      else s
    if !reamSel s r x.chan then s
    else
      let s := onReam s r (fun t => { t with hist := x :: t.hist })
      let s := if (reamOf s r).st = .post then postRecord s r x else s
      let s := onReam s r (fun t => { t with hist := pruneHist s r t x.chan })
      if (reamOf s r).st = .prefill ∧ prefilled s r then reamWait s r (now s) else s

/-- A delivered record reaches every ream. -/
def reamsRecord (s : State) (ch idx : Nat) (w : Word) : State :=
  (List.range 16).foldl (fun s r => reamRecord s r ⟨idx, ch, w⟩) s

/-- A pin edge reaches every ream with a PIN trigger on it (R521, R524): the stamp in units of 2⁻⁶ ns. -/
def reamsPin (s : State) (pin : Nat) (falling : Bool) (stamp : Nat) : State :=
  let idx := indexAt s (stamp * 1024)
  (List.range 16).foldl (fun s r =>
    if rmKind s r = 6 ∧ rmSource s r = pin ∧ reamArmed (reamOf s r) ∧ (reamOf s r).armIdx ≤ idx ∧
        (rmPol s r = 2 ∨ (rmPol s r = 1) = (falling = true)) then
      fire s r (localCand s r idx 6 (stamp % 6400))
    else s) s

-- the commands

/-- CTRL op 5 (R524). -/
def hostTrigger (s : State) (r : Nat) : State :=
  if reamArmed (reamOf s r) then fire s r { localCand s r (now s + 1) 10 0 with pref := 2 } else s

def execHostTrigger (p : Path) (r : Fin 16) (s : State) : Host.Outcome State Fault Refusal :=
  .next (gated s (some p) CAPT.CTRL (fun s => hostTrigger s r))

/-- AUTO_TRIGGER (R535). -/
def execAutoTrigger (r : Fin 16) (s : State) : Host.Outcome State Fault Refusal :=
  let ms := rdf s (CAPT.RM_AUTO r) 0 16
  let n := (reamOf s r).waitIdx + ms * 10000
  .next (when (decide ((reamOf s r).st = .waiting ∧ ms ≠ 0 ∧ n ≤ now s)) s
    (fun s => candidate s r { localCand s r n 9 0 with pref := 3 }))

/-- TRIGGER_DECISION (R529). -/
def execTriggerDecision (r : Fin 16) (s : State) : Host.Outcome State Fault Refusal :=
  .next (match (reamOf s r).cand with
    | none => s
    | some c => when (decide ((reamOf s r).st = .waiting ∧ c.idx + ringWindow s ≤ now s)) s (fun s => takeTrigger s r c))

/-- A ring trigger reaches one ream of its group (R529, R530). -/
def ringTriggerFor (s : State) (r : Nat) (t : RingTrigger) : State :=
  let x := reamOf s r
  if x.st = .waiting ∧ x.decided ≤ t.segment then
    if t.segment ≠ x.decided then s
    else candidate s r ⟨t.index, 8, t.hub, t.ream, 1, 0⟩
  else ringDecided s r t.segment t.index

/-- RING_TRIGGER (R528 to R530). -/
def ringTriggered (s : State) (t : RingTrigger) : State :=
  (List.range 16).foldl (fun s r =>
    if rmRing s r ∧ (reamOf s r).st ≠ .idle ∧ fld (rmCfg s r) 8 8 = t.group then ringTriggerFor s r t else s) s

def execRingTrigger (t : RingTrigger) (s : State) : Host.Outcome State Fault Refusal := .next (ringTriggered s t)

/-- CTRL op 3 (R519). -/
def disarmReam (s : State) (r : Nat) : State := if reamArmed (reamOf s r) then stopReam s r 1 else s

def execDisarm (p : Path) (r : Fin 16) (s : State) : Host.Outcome State Fault Refusal :=
  .next (gated s (some p) CAPT.CTRL (fun s => disarmReam s r))

/-- CTRL op 4 (R519). -/
def clearReam (s : State) (w : Who) (r : Nat) : State :=
  checked s w CAPT.CTRL (rejIf (decide (¬ ((reamOf s r).st = .done ∨ (reamOf s r).st = .stopped))) Rsn.BUSY)
    (fun s => setReam (onReam s r (fun x => { st := x.st })) r .idle)

def execReamClear (p : Path) (r : Fin 16) (s : State) : Host.Outcome State Fault Refusal :=
  .next (gated s (some p) CAPT.CTRL (fun s => clearReam s (some p) r))

/-- CAPT.CTRL by its word (Table 12.6). -/
def captCtrl (s : State) (w : Who) (v : Word) : State :=
  let r := fld v 0 4
  match fld v 8 3 with
  | 1 => armReam s w r none
  | 2 => armReam s w r (some (rd64 s CAPT.ARM_AT_LO))
  | 3 => disarmReam s r
  | 4 => clearReam s w r
  | 5 => hostTrigger s r
  | _ => refuse s w CAPT.CTRL ⟨Rsn.RANGE, none⟩

-- boundaries

/-- A not-sampled interval of this hub (Table 12.4), kept for the gap flag. -/
def noteGap (s : State) (a b : Nat) : State := { s with gaps := (a, b) :: s.gaps }

/-- Entry into Dusk (Table 12.4). -/
def captDusk (s : State) : State :=
  (List.range 16).foldl (fun s r =>
    if (reamOf s r).st = .prefill ∨ (reamOf s r).st = .waiting ∨ (reamOf s r).st = .holdoff then stopReam s r 5 else s) s

/-- A warm reset (Table 12.4): the header of a segment in POST is written. -/
def captWarm (s : State) : State :=
  (List.range 16).foldl (fun s r =>
    let s := if reamArmed (reamOf s r) then stopReam s r 3 else s
    (reamOf s r).headers.foldl (fun s g => writeHeader s r g) (onReam s r (fun x => { x with headers := [] }))) s

/-- A commit of FLT page `p` that R511 refuses: it disables a selected channel's chain or changes its output period or its
linearisation. -/
def reamHolds (s : State) (p : Nat) : Bool :=
  (List.range 16).any (fun r => decide ((reamOf s r).st ≠ .idle) && (reamChans s r).any (fun ch =>
    match chainOfChannel ch with
    | some c =>
      let a := chainCfg s c
      let b := chainCfgNext s p c
      decide (c / 8 = p) && (!b.en || decide (a.outRate ≠ b.outRate ∨ a.lin ≠ b.lin ∨ (b.lin ∧ (a.tempSrc ≠ b.tempSrc ∨
        a.tempEn ≠ b.tempEn ∨ a.tLag ≠ b.tLag))) || (b.lin && polyDirty s p))
    | none => false))

/-- An envelope that a ream which is not IDLE tests against (R541, R723): base and length in bytes. -/
def envelopes (s : State) : List (Nat × Nat) :=
  (List.range 16).filterMap (fun r =>
    if (reamOf s r).st ≠ .idle ∧ rmMaskLen s r ≠ 0 then
      some (rmMaskBase s r, 8 * (reamChans s r).length * rmMaskLen s r) else none)

/-- The checks of a write to the CAPT page (R511). -/
def captChk (s : State) (o : Nat) : Chk :=
  let r := if o = 0x48 then rdf s CAPT.CHSEL_ADDR 0 4 else (o - 0x100) / 0x40
  if o = 0x48 ∨ 0x100 ≤ o then { busy := rejIf (decide ((reamOf s r).st ≠ .idle)) Rsn.BUSY } else {}

/-- A write of CAPT.CHSEL_DATA. -/
def captSelWrite (s : State) (v : Word) : State :=
  { s with captSel := sparsePut s.captSel 0 (12 * rdf s CAPT.CHSEL_ADDR 0 4 + rdf s CAPT.CHSEL_ADDR 8 4) v }

/-- ARMED: reams not IDLE. -/
def armedBits (s : State) : Nat :=
  (List.range 16).foldl (fun a r => a + b2n (decide ((reamOf s r).st ≠ .idle)) * 2 ^ r) 0

/-- The computed registers of the CAPT page. -/
def captView (s : State) (o : Nat) : Option Word :=
  if o = 0x48 then some (sparseGet s.captSel 0 (12 * rdf s CAPT.CHSEL_ADDR 0 4 + rdf s CAPT.CHSEL_ADDR 8 4))
  else if o = 0x58 then some (word (reamFree s))
  else if o = 0x60 then some (word (reamOf s (rdf s CAPT.SEL 0 4)).base)
  else if o = 0x64 then some (word (reamOf s (rdf s CAPT.SEL 0 4)).size)
  else if o = 0x70 then some (word (armedBits s))
  else if o < 0x100 then none
  else
    let x := reamOf s ((o - 0x100) / 0x40)
    match (o - 0x100) % 0x40 with
    | 0x30 => some (word (x.st.code + 2 ^ 4 * x.cause + 2 ^ 7 * b2n x.maskFail + 2 ^ 16 * x.segDone))
    | 0x34 => some (word x.segLast)
    | 0x38 => some (word x.trigIdx)
    | 0x3c => some (word (x.trigIdx / 2 ^ 32))
    | _ => none

end Sys2Proof.Machine
end

