-- ==== Sys2Proof/Machine/Time.lean ====
section
/-!
DEFINITION. Hub time, the servos of the two domains, network time and the sample grid (spec/09). Offsets and times are in
units of 2⁻¹⁶ ns, the integral term in units of 2⁻¹⁶ × 10⁻¹².
Marked choices: DEDUCED, log entries 47, 49; PRESUMED, log entry 48.
-/
namespace Sys2Proof.Machine

-- domains and ports

def onTime (s : State) (f : TimeState → TimeState) : State := { s with time := f s.time }
def domOf (s : State) (d : Nat) : DomainState := s.time.doms.getD d {}
def onDom (s : State) (d : Nat) (f : DomainState → DomainState) : State :=
  onTime s (fun t => { t with doms := t.doms.modify d f })
def portOf (s : State) (l : Lane) : PortDelay := s.time.ports.getD (laneIdx l) {}
def onPort (s : State) (l : Lane) (f : PortDelay → PortDelay) : State :=
  onTime s (fun t => { t with ports := t.ports.modify (laneIdx l) f })

def domEn (s : State) (d : Nat) : Bool := rdb s (PTP.CFG d) 8
def domNumber (s : State) (d : Nat) : Nat := rdf s (PTP.CFG d) 0 8

/-- The PTP page of an enabled domain number. -/
def domOfNumber (s : State) (n : Nat) : Option Nat :=
  [0, 1].find? (fun d => domEn s d && decide (domNumber s d = n))

/-- The place of the domain that steers F. -/
def trackedIdx (s : State) : Nat := b2n s.time.tracked

/-- A register in units of 2⁻⁸ ns, signed, in units of 2⁻¹⁶ ns. -/
def lat8 (w : Word) : Int := w.toInt * 256

/-- The port latencies of Table 9.4, in units of 2⁻⁸ ns: ingress, egress. -/
def portLat (s : State) (i : Nat) : Nat × Nat :=
  let cfg := rd s (LANE.CFG i)
  if fld cfg 0 2 = 1 then (16640, 12160) else if bit cfg 2 then (28800, 9280) else (10560, 7360)

def ingLat (s : State) (l : Lane) : Int := 256 * ((portLat s (laneIdx l)).1 : Int)
def egrLat (s : State) (l : Lane) : Int := 256 * ((portLat s (laneIdx l)).2 : Int)
def asymOf (s : State) (l : Lane) : Int := lat8 (rd s (TIME.PORT_ASYM (laneIdx l)))
/-- meanLinkDelay of a ring port, meanPathDelay of L3, in units of 2⁻¹⁶ ns. -/
def portDelay (s : State) (l : Lane) : Int := (portOf s l).delay

/-- Hub time as a signed number. -/
def htI (s : State) : Int := s.time.ht

/-- A timestamp at the resolution of R366, 2⁻⁶ ns. -/
def stampGrain (x : Int) : Int := x / 1024 * 1024

/-- The crossing between a lane clock and CLKT as measured (R46), with the varying part of RS-FEC (R396), in units of 2⁻¹⁶ ns. -/
def crossDelay (s : State) (l : Lane) (tx : Bool) : Int :=
  let k := 2 * laneIdx l + b2n tx
  let cfg := rd s (LANE.CFG (laneIdx l))
  (Config.crossing k s.time.now * 131072 / 100 : Nat) +
    (if fld cfg 0 2 = 2 ∧ bit cfg 2 then (Config.fecDelay k s.time.now : Int) else 0)

/-- The timestamp at the balls of a frame that the PCS detects at `raw` (R46, R366, R396). -/
def rxStamp (s : State) (l : Lane) (raw : Int) : Int := stampGrain raw - crossDelay s l false - ingLat s l

/-- The timestamp at the balls of a frame sent now. -/
def txStamp (s : State) (l : Lane) : Int := stampGrain (htI s) + crossDelay s l true + egrLat s l

def lockThresh (s : State) : Int := (rd s TIME.LOCK_THRESH).toNat * 65536
def stepThresh (s : State) : Int := (rd s TIME.STEP_THRESH).toNat * 65536

/-- Root with TIME.CFG.gm_en = 1. -/
def gmAble (s : State) : Bool := s.ring.root && rdb s TIME.CFG 2

-- servo states

def Servo.code : Servo → Nat
  | .unknown => 0 | .seeded => 1 | .acquire => 2 | .locked => 3 | .holdover => 4 | .freerun => 5 | .grandmaster => 6

/-- A domain's servo enters a state: the events of Tables 9.8 and 9.10. -/
def setServo (s : State) (d : Nat) (v : Servo) : State :=
  if (domOf s d).servo = v then s
  else
    let s := onDom s d (fun x => { x with servo := v, near := 0, far := 0 })
    let s := evtIf (decide (v = .locked)) s (pgPTP d) 3
    if d = trackedIdx s then
      evtIf (decide (v = .freerun)) (evtIf (decide (v = .holdover)) (evt s pgTIME 0) pgTIME 2) pgTIME 3
    else s

/-- F = −I, with I as it stands (R371, R383). -/
def holdF (s : State) : Int := clampI (-200000000) 200000000 (-(roundAway s.time.i 65536))

/-- The limit of R371 in units of 10⁻¹². -/
def slewLimit (s : State) : Int := (rd s TIME.SLEW_MAX).toNat * 1000000

-- steps

/-- A whole number as a signed 32-bit word, saturating. -/
def satWord (x : Int) : Word := wordI (satS 32 x)

/-- Hub time moves by `step`, a multiple of 1.25 ns, on one CLKT edge (R365, R875, R377). -/
def stepHub (s : State) (step : Int) : State :=
  let v := s.time.ht
  let land := ((v : Int) + clktLen + step).toNat
  let first := v / tickLen + 1
  let last := ceilDiv land tickLen - 1
  let running := sampling s
  let idx (k : Nat) : Nat := indexAt s (k * tickLen)
  let s := onTime s (fun t => { t with
    ht := land
    doms := t.doms.map (fun x => { x with fits := x.fits.map (fun e => (e.1 + step, e.2 + step)) }) })
  let s := bumpSat s TIME.STEP_COUNT 0 16 1
  let s := evt (wr s TIME.LAST_STEP (satWord (roundAway step 65536))) pgTIME 1
  if s.time.gridStarted then
    let s := if running ∧ first ≤ last then noteGap (notSampledAll s (idx first) (idx last)) (idx first) (idx last) else s
    restartChains s (fun _ => true) (idx (ceilDiv land tickLen))
  else s

/-- −o rounded down to a multiple of 1.25 ns (R376). -/
def stepSize (o : Int) : Int := (-o) / (clktLen : Int) * clktLen

-- the servo of the tracked domain

/-- The update of R373, with the gains of the state, held to the limit of R371. -/
def servoUpdate (s : State) (d : Nat) (o : Int) : State :=
  let acq := decide ((domOf s d).servo = .acquire)
  let kp : Int := rdf s (PTP.SERVO_KP d) 0 16 * (if acq then 4 else 1)
  let ki : Int := rdf s (PTP.SERVO_KI d) 0 16 * (if acq then 16 else 1)
  let i := s.time.i + ki * o
  let dep := clampI (-(slewLimit s)) (slewLimit s) (-(roundAway (kp * o) 65536))
  let s := onTime s (fun t => { t with i := i })
  onTime s (fun t => { t with f := clampI (-200000000) 200000000 (-(roundAway i 65536) + dep) })

/-- The slew of R378: F departs from −I by SLEW_MAX, with the sign that reduces |o|. -/
def slewF (s : State) (o : Int) : State :=
  let dep := if 0 < o then -(slewLimit s) else slewLimit s
  onTime s (fun t => { t with f := clampI (-200000000) 200000000 (-(roundAway t.i 65536) + dep) })

/-- Counts of consecutive Syncs beyond the thresholds of R374 to R378. -/
def countFar (s : State) (d : Nat) (o : Int) : State :=
  onDom s d (fun x => { x with
    beyond := if (stepThresh s).toNat < o.natAbs then x.beyond + 1 else 0
    early := if o < -(stepThresh s) then x.early + 1 else 0
    late := if stepThresh s < o then x.late + 1 else 0 })

/-- Counts toward LOCKED and back to ACQUIRE (Table 9.2). -/
def countNear (s : State) (d : Nat) (o : Int) : State :=
  let s := onDom s d (fun x => { x with
    near := if o.natAbs < (lockThresh s).toNat then x.near + 1 else 0
    far := if 4 * (lockThresh s).toNat < o.natAbs then x.far + 1 else 0 })
  let x := domOf s d
  if x.servo = .acquire ∧ 16 ≤ x.near then setServo s d .locked
  else if x.servo = .locked ∧ 16 ≤ x.far then setServo s d .acquire
  else s

/-- A step or a slew of R378 puts the servo into ACQUIRE; GRANDMASTER has no such transition (Table 9.2). -/
def acquireAgain (s : State) (d : Nat) : State :=
  if (domOf s d).servo = .grandmaster then s else setServo s d .acquire

/-- The tracked servo steps hub time and acquires again (R375, R376, Table 9.2); it takes the remainder. -/
def servoStep (s : State) (d : Nat) (o : Int) : State :=
  let k := stepSize o
  let s := acquireAgain (stepHub (onTime s (fun t => { t with slewing := false })) k) d
  let s := onDom s d (fun x => { x with offset := o + k, early := 0, late := 0, beyond := 0, near := 0, far := 0 })
  servoUpdate s d (o + k)

/-- The phase difference that a switch leaves is still there (R403): |o| beyond 4 × LOCK_THRESH and within SWITCH_WINDOW. -/
def settles (s : State) (o : Int) : Bool :=
  decide (4 * (lockThresh s).toNat < o.natAbs ∧ o.natAbs ≤ (rd s TIME.SWITCH_WINDOW).toNat * 65536)

/-- The state that an accepted Sync of the tracked domain finds (Table 9.2). -/
def syncEnters (s : State) (d : Nat) (o : Int) : State :=
  match (domOf s d).servo with
  | .unknown => setServo s d .acquire
  | .seeded => setServo s d .acquire
  | .freerun => setServo s d .acquire
  | .holdover => setServo s d (if o.natAbs < (lockThresh s).toNat then .locked else .acquire)
  | .acquire => s | .locked => s | .grandmaster => s

/-- One accepted Sync of the tracked domain, with offset `o` (R373 to R381, R403). -/
def trackedSync (s : State) (d : Nat) (o : Int) : State :=
  let was := (domOf s d).servo
  let s := syncEnters s d o
  let on := (domOf s d).settling && settles s o
  let s := onDom s d (fun x => { x with settling := on })
  if on then servoUpdate s d o
  else
    let s := countFar s d o
    let x := domOf s d
    if !s.time.gridStarted ∧ (stepThresh s).toNat < o.natAbs ∧ (was ≠ .locked ∨ 3 ≤ x.beyond) then servoStep s d o
    else if s.time.gridStarted ∧ 3 ≤ x.early then servoStep s d o
    else if s.time.gridStarted ∧ 3 ≤ x.late ∧ !s.time.slewing then
      let s := acquireAgain s d
      slewF (onTime (onDom s d (fun x => { x with late := 0 })) (fun t => { t with slewing := true })) o
    else if s.time.slewing then
      if o.natAbs < (lockThresh s).toNat then
        let s := onTime s (fun t => { t with slewing := false })
        countNear (servoUpdate s d o) d o
      else slewF s o
    else if was = .locked ∧ (stepThresh s).toNat < o.natAbs then
      evt (bumpSat s TIME.STEP_COUNT 16 16 1) pgTIME 7
    else countNear (servoUpdate s d o) d o

-- the servo in shadow

/-- The least-squares rate of R880 over (hub time, offset) pairs, in units of 2⁻¹⁶ × 10⁻¹². -/
def fitRate (l : List (Int × Int)) : Int :=
  let n : Int := l.length
  let sx := l.foldl (fun a e => a + e.1) (0 : Int)
  let sy := l.foldl (fun a e => a + e.2) (0 : Int)
  let sxx := l.foldl (fun a e => a + e.1 * e.1) (0 : Int)
  let sxy := l.foldl (fun a e => a + e.1 * e.2) (0 : Int)
  let den := n * sxx - sx * sx
  if l.length < 2 ∨ den ≤ 0 then 0 else roundAway ((n * sxy - sx * sy) * 1000000000000 * 65536) den.toNat

/-- I_s of R880. -/
def shadowI (s : State) (d : Nat) : Int := s.time.i + fitRate (domOf s d).fits

/-- One accepted Sync of the domain in shadow: its states move by the same thresholds and steer nothing. -/
def shadowSync (s : State) (d : Nat) (o : Int) : State :=
  countNear (syncEnters s d o) d o

/-- The other domain meets R400. -/
def shadowOk (s : State) : Bool :=
  let x := domOf s (1 - trackedIdx s)
  decide (x.servo = .locked ∧ x.offset.natAbs ≤ (rd s TIME.SWITCH_WINDOW).toNat * 65536)

/-- TIME.UTC_OFFSET follows the Announce messages of the tracked domain (R368). -/
def showUtc (s : State) : State :=
  wr s TIME.UTC_OFFSET (match (trackedDom s).master with
    | some m => word (m.utcOffset % 65536 + 65536 * b2n m.utcValid)
    | none => 0)

/-- The switch of R402 at the first accepted Sync of the new domain: the servo goes on from its offset, whose removal leaves the
state as it is (R403). -/
def switchDomain (s : State) (d : Nat) (o : Int) : State :=
  let i := shadowI s d
  let s := onTime s (fun t => { t with i := i, tracked := decide (d = 1), switchTo := none, slewing := false })
  let on := settles s o
  let s := onDom s d (fun x => { x with early := 0, late := 0, beyond := 0, near := 0, far := 0, settling := on })
  servoUpdate (evt (showUtc s) pgTIME 4) d o

/-- An accepted Sync of domain `d` with offset `o` (R372, R402, R880). -/
def acceptSync (s : State) (d : Nat) (seq : Seq16) (o : Int) : State :=
  let s := onDom s d (fun x => { x with
    lastSeq := some seq, offset := o, lost := false, fits := ((htI s, o) :: x.fits).take 16 })
  let s := bumpWrap s (PTP.SYNC_COUNT d) 0 16 1
  let s := wr s (PTP.LAST_SEQ d) (word seq.toNat)
  if d = trackedIdx s then trackedSync s d o
  else if s.time.switchTo = some (decide (d = 1)) then switchDomain s d o
  else shadowSync s d o

/-- The sequence check of R395. -/
def seqNew (last : Option Seq16) (seq : Seq16) : Bool :=
  last.all (fun l => decide (1 ≤ (seq - l).toNat ∧ (seq - l).toNat ≤ 32767))

-- Sync on the ports

/-- The age of a root beacon that still counts for ring_closed (R882), and for the root itself (R452), in ticks. -/
def closedAge : Nat := 30000
def lostAge : Nat := 105000

def within (s : State) (age : Nat) (t : Option Nat) : Bool := t.any (fun t => decide (s.time.now ≤ t + age))

/-- The ring port whose Sync a hub that is not root tracks (R392): fewer hops among the ports where the root is heard. -/
def trackedPort (s : State) : Lane :=
  let p : Lane := if s.ring.hopsEast < s.ring.hopsWest then .l1 else .l0
  let q : Lane := if p = .l0 then .l1 else .l0
  let heard (l : Lane) : Bool := linkUpOn s l && within s closedAge (if l = .l1 then s.ring.eastAt else s.ring.westAt)
  if heard p then p else if heard q then q else if linkUpOn s p || !linkUpOn s q then p else q

/-- A message on L3 for which no page is enabled (R389). -/
def discardPtp (s : State) (d : Nat) : State := bumpSat s (PTP.DISCARD d) 0 16 1

/-- A Sync of domain `d` completes with its origin and correction (R372, R395 to R397). -/
def takeSync (s : State) (d : Nat) (m : SyncMsg) : State :=
  if seqNew (domOf s d).lastSeq m.seq then
    let leg := rxStamp s m.port m.rx - m.origin - m.corr
    let s := onDom s d (fun x => { x with syncLeg := if m.port = .l3 then some leg else x.syncLeg })
    acceptSync s d m.seq (leg - portDelay s m.port)
  else bumpSat s (PTP.DISCARD d) 16 16 1

/-- SYNC_MESSAGE (R372 to R395). -/
def syncMessage (s : State) (m : SyncMsg) : State :=
  match m.port with
  | .l3 =>
    if !s.ring.root then s
    else match domOfNumber s m.domain with
      | none => discardPtp s 0
      | some d =>
        if (domOf s d).l3 = 3 ∧ (domOf s d).master.any (fun a => decide (a.source = m.source)) then
          if m.twoStep then onDom s d (fun x => { x with twoStep := some m }) else takeSync s d m
        else s
  | .l2 => s
  | _ =>
    match domOfNumber s m.domain with
    | none => s
    | some d =>
      if !s.ring.root ∧ m.source = s.ring.rootSerial ∧ m.port = trackedPort s ∧ !s.pwr.warm.running then takeSync s d m else s

/-- FOLLOW_UP (R388): completes a two-step Sync on L3. -/
def followUp (s : State) (domain : Nat) (seq : Seq16) (origin corr : Int) : State :=
  if !s.ring.root then s
  else match domOfNumber s domain with
    | none => discardPtp s 0
    | some d =>
      match (domOf s d).twoStep with
      | none => s
      | some m =>
        if m.seq = seq then
          takeSync (onDom s d (fun x => { x with twoStep := none })) d { m with origin := origin, corr := m.corr + corr }
        else s

def execFollowUp (domain : Nat) (seq : Seq16) (origin corr : Int) (s : State) : Host.Outcome State Fault Refusal :=
  .next (followUp s domain seq origin corr)

/-- A PTP frame on L3, untagged, or as an HSR frame on the ring (Table 9.3, R391). -/
def ptpMac : Mac := 0x011b19000000
def pdelayMac : Mac := 0x0180c200000e

/-- A PTP message of the root on both ring ports, each with its content. -/
def ptpPair (s : State) (b0 b1 : FrameBody) : State :=
  if s.ring.address.isNone || !ringOn s then s else insertBoth (if s.ring.announced then s else sendBeacon s) ptpMac b0 b1

def ptpRing (s : State) (b : FrameBody) : State := ptpPair s b b

/-- DELAY_REQ (R388): the slave sends one, a master answers one. -/
def delayReq (s : State) (domain : Nat) (dir : ReqDir) : State :=
  match domOfNumber s domain with
  | none => if s.ring.root then discardPtp s 0 else s
  | some d =>
    if !s.ring.root then s
    else match dir with
      | .send =>
        if (domOf s d).l3 = 3 then
          let q := (domOf s d).reqSeq + 1
          let s := onDom s d (fun x => { x with reqSeq := q, reqSent := some (txStamp s .l3) })
          emitOwn s .l3 ptpMac (.delayReq domain q s.serial)
        else s
      | .answer seq requester rx =>
        if (domOf s d).l3 = 2 then emitOwn s .l3 ptpMac (.delayResp domain seq requester (rxStamp s .l3 rx) 0) else s

def execDelayReq (domain : Nat) (d : ReqDir) (s : State) : Host.Outcome State Fault Refusal := .next (delayReq s domain d)

/-- A delay in units of 2⁻¹⁶ ns as PORTp_DELAY shows it. -/
def delayWord (x : Int) : Word := satWord (roundAway x 256)

/-- The path delay of a port, as measured and as PORTp_DELAY shows it. -/
def setDelay (s : State) (l : Lane) (m : Int) : State :=
  wr (onPort s l (fun p => { p with delay := m })) (TIME.PORT_DELAY (laneIdx l)) (delayWord m)

/-- DELAY_RESP (R388, R397): meanPathDelay = ((t2 − t1 − c) + (t4 − t3 − c')) / 2, with the asymmetry of L3. -/
def delayResp (s : State) (domain : Nat) (seq : Seq16) (rx corr : Int) : State :=
  match domOfNumber s domain with
  | none => if s.ring.root then discardPtp s 0 else s
  | some d =>
    match (domOf s d).reqSent, (domOf s d).syncLeg with
    | some t3, some leg =>
      if s.ring.root ∧ (domOf s d).l3 = 3 ∧ (domOf s d).reqSeq = seq then
        let m := (leg + (rx - corr - t3)) / 2 + asymOf s .l3
        setDelay (onDom s d (fun x => { x with reqSent := none })) .l3 m
      else s
    | _, _ => s

def execDelayResp (domain : Nat) (seq : Seq16) (rx : Int) (s : State) (corr : Int := 0) : Host.Outcome State Fault Refusal :=
  .next (delayResp s domain seq rx corr)

def isRingPort (l : Lane) : Bool := decide (l = .l0 ∨ l = .l1)

/-- PDELAY_REQ (R394): a ring port sends one, or answers one with a one-step Pdelay_Resp that carries its turnaround. -/
def pdelayReq (s : State) (l : Lane) (dir : ReqDir) : State :=
  if !isRingPort l || !linkUpOn s l then s
  else match dir with
    | .send =>
      let q := (portOf s l).seq + 1
      emitOwn (onPort s l (fun p => { p with seq := q, sent := some (txStamp s l) })) l pdelayMac (.pdelayReq q)
    | .answer seq _ rx => emitOwn s l pdelayMac (.pdelayResp seq (txStamp s l - rxStamp s l rx))

def execPdelayReq (port : Lane) (d : ReqDir) (s : State) : Host.Outcome State Fault Refusal := .next (pdelayReq s port d)

/-- A peer-delay measurement enters the mean of the last 16 (R394, R397). -/
def pdelayMeasured (s : State) (l : Lane) (round : Int) : State :=
  let m := round / 2 + asymOf s l
  let s := onPort s l (fun p => { p with sent := none, waiting := none, meas := (m :: p.meas).take 16 })
  let l16 := (portOf s l).meas
  setDelay s l (roundAway (l16.foldl (· + ·) 0) l16.length)

/-- PDELAY_RESP (R394). -/
def pdelayResp (s : State) (l : Lane) (seq : Seq16) (corr rx : Int) (twoStep : Bool) : State :=
  match (portOf s l).sent with
  | none => s
  | some t1 =>
    if isRingPort l ∧ (portOf s l).seq = seq then
      let round := rxStamp s l rx - t1 - corr
      if twoStep then onPort s l (fun p => { p with waiting := some (seq, round) }) else pdelayMeasured s l round
    else s

def execPdelayResp (port : Lane) (seq : Seq16) (corr rx : Int) (twoStep : Bool) (s : State) :
    Host.Outcome State Fault Refusal := .next (pdelayResp s port seq corr rx twoStep)

/-- PDELAY_RESP_FOLLOW_UP (R388). -/
def execPdelayRespFollowUp (port : Lane) (seq : Seq16) (corr : Int) (s : State) : Host.Outcome State Fault Refusal :=
  .next (match (portOf s port).waiting with
    | none => s
    | some (q, round) => when (decide (q = seq)) s (fun s => pdelayMeasured s port (round - corr)))

-- loss

/-- The largest change of TS0 to TS3 from `temps`. -/
def tempMove (s : State) (temps : List (BitVec 16)) : Nat :=
  (List.range 4).foldl (fun a i =>
    max a ((BitVec.ofNat 16 (rdf s (HKC.TEMP i) 0 16)).toInt - (temps.getD i 0).toInt).natAbs) 0

/-- A new temperature widens the largest change since holdover began (R384). -/
def noteHoldTemp (s : State) : State :=
  match s.time.holdFrom with
  | some (_, temps) => onTime s (fun t => { t with holdDt := max t.holdDt (tempMove s temps) })
  | none => s

/-- The start of holdover (R383, R384): F = −I, the age counts from here. -/
def freezeServo (s : State) : State :=
  let temps := (List.range 4).map (fun i => BitVec.ofNat 16 (rdf s (HKC.TEMP i) 0 16))
  onTime s (fun t => { t with f := holdF s, slewing := false, holdFrom := some (t.now, temps), holdDt := 0 })

/-- The servo of the tracked domain leaves LOCKED or ACQUIRE at a loss (Table 9.2). -/
def servoLost (s : State) : State :=
  let d := trackedIdx s
  match (domOf s d).servo with
  | .locked => setServo (freezeServo s) d .holdover
  | .acquire => setServo (freezeServo s) d (if gmAble s then .grandmaster else .freerun)
  | .unknown => s | .seeded => s | .holdover => s | .freerun => s | .grandmaster => s

/-- TIME.CFG.dom_sel names domain `b`. -/
def nameDomain (s : State) (b : Bool) : State := wr s TIME.CFG (setFld (rd s TIME.CFG) 0 1 (b2n b))

/-- A domain is marked lost. -/
def markLost (s : State) (d : Nat) : State :=
  evt (onDom s d (fun x => { x with lost := true, early := 0, late := 0 })) (pgPTP d) 0

/-- The tracked domain is lost (R381, R382, R401). -/
def domainLost (s : State) : State :=
  let d := trackedIdx s
  if (domOf s d).servo = .locked ∨ (domOf s d).servo = .acquire then
    let s := markLost s d
    if rdb s TIME.CFG 1 && shadowOk s then
      onTime (nameDomain s (decide (d = 0))) (fun t => { t with switchTo := some (decide (d = 0)), slewing := false })
    else servoLost s
  else s

/-- The domain in shadow is lost (R380). A switch to it that waits is dropped; a tracked domain that is lost as well then falls
under R382 (Table 9.5). -/
def shadowLost (s : State) : State :=
  let d := 1 - trackedIdx s
  let s := match (domOf s d).servo with
    | .locked => setServo (markLost s d) d .holdover
    | .acquire => setServo (markLost s d) d .freerun
    | .unknown => s | .seeded => s | .holdover => s | .freerun => s | .grandmaster => s
  if s.time.switchTo.isSome then
    let s := onTime (nameDomain s s.time.tracked) (fun t => { t with switchTo := none })
    if (domOf s (trackedIdx s)).lost then servoLost s else s
  else s

/-- Every port that can carry the domains is down (R382). -/
def portsLost (s : State) : State := domainLost (shadowLost s)

/-- DOMAIN_LOST (R382): three Sync intervals without an accepted Sync. -/
def execDomainLost (s : State) : Host.Outcome State Fault Refusal :=
  .next (domainLost (bumpSat s (PTP.SYNC_COUNT (trackedIdx s)) 16 16 3))

/-- HOLD_LIMIT (R385, Table 9.2). -/
def execHoldLimit (s : State) : Host.Outcome State Fault Refusal :=
  .next (when (decide (servo s = .holdover)) s
    (fun s => setServo s (trackedIdx s) (if gmAble s then .grandmaster else .freerun)))

-- best master

/-- The lexicographic order of two lists of numbers. -/
def lexLt : List Nat → List Nat → Bool
  | [], _ => false
  | _, [] => false
  | a :: x, b :: y => decide (a < b) || (decide (a = b) && lexLt x y)

/-- The order of BMCA on an Announce: attributes, identity, steps, source (R388). -/
def annKey (m : AnnounceMsg) : List Nat :=
  [m.priority1, m.clockClass, m.accuracy, m.variance, m.priority2, m.gmId, m.stepsRemoved, m.source]

/-- The hub's own data set as an Announce would carry it. -/
def ownKey (s : State) (d : Nat) : List Nat :=
  let w := rd s (PTP.DATASET d)
  [fld w 0 8, fld w 16 8, 0xfe, 0xffff, fld w 8 8, s.serial, 0, s.serial]

/-- The state that BMCA gives the L3 port with the best master heard. -/
def bmcaState (s : State) (d : Nat) (best : Option AnnounceMsg) : Nat :=
  match best with
  | none => if gmAble s then 2 else 1
  | some m =>
    let better := lexLt (ownKey s d) (annKey m)
    let cls := rdf s (PTP.DATASET d) 16 8
    if !gmAble s then 3
    else if better then 2
    else if 1 ≤ cls ∧ cls ≤ 127 then 4
    else 3

/-- The L3 port of a domain takes a state (Table 9.10); a slave port ends GRANDMASTER (Table 9.2). -/
def setL3 (s : State) (d v : Nat) : State :=
  let s := evtIf (decide ((domOf s d).l3 ≠ v)) (onDom s d (fun x => { x with l3 := v })) (pgPTP d) 2
  if v = 3 ∧ (domOf s d).servo = .grandmaster then setServo s d .acquire else s

/-- A master is taken for a domain (R388, R368, Table 9.9). -/
def setMaster (s : State) (d : Nat) (m : AnnounceMsg) : State :=
  let changed := (domOf s d).master.all (fun o => decide (o.gmId ≠ m.gmId))
  let s := evtIf changed (onDom s d (fun x => { x with master := some m })) (pgPTP d) 1
  if d = trackedIdx s then showUtc s else s

/-- The announce interval of a domain in ticks (Table 9.10). -/
def announceTicks (s : State) (d : Nat) : Nat :=
  1250000 * 2 ^ (((rd s (PTP.INTERVALS d)).extractLsb' 8 8).toInt + 3).toNat

/-- An Announce enters the masters heard (R388): two of one source within four announce intervals qualify it. -/
def noteForeign (s : State) (d : Nat) (m : AnnounceMsg) : State :=
  let l := (domOf s d).foreign
  let again := l.any (fun e => decide (e.ann.source = m.source ∧ s.time.now ≤ e.at' + 4 * announceTicks s d))
  let keep := l.filter (fun e => decide (e.ann.source ≠ m.source))
  onDom s d (fun x => { x with foreign := keep ++ [⟨m, s.time.now, again⟩] })

/-- The best of the qualified masters heard within four announce intervals, the present one among them (R388). -/
def bestForeign (s : State) (d : Nat) : Option AnnounceMsg :=
  let fresh (e : Foreign) : Bool := decide (s.time.now ≤ e.at' + 4 * announceTicks s d) ||
    (domOf s d).master.any (fun m => decide (m.source = e.ann.source))
  let l := ((domOf s d).foreign.filter (fun e => e.qualified && fresh e)).map (·.ann)
  l.foldl (fun a m => match a with
    | none => some m
    | some o => if lexLt (annKey m) (annKey o) then some m else some o) none

/-- BMCA on L3 decides with the masters heard. -/
def decideL3 (s : State) (d : Nat) : State :=
  match bestForeign s d with
  | some m => setL3 (setMaster s d m) d (bmcaState s d (some m))
  | none => s

/-- ANNOUNCE (R388, R391). -/
def announceHeard (s : State) (m : AnnounceMsg) : State :=
  match m.port with
  | .l3 =>
    if !s.ring.root then s
    else match domOfNumber s m.domain with
      | none => discardPtp s 0
      | some d => if m.source = s.serial ∨ 255 ≤ m.stepsRemoved then s else decideL3 (noteForeign s d m) d
  | .l2 => s
  | _ =>
    match domOfNumber s m.domain with
    | none => s
    | some d => if !s.ring.root ∧ m.source = s.ring.rootSerial then setMaster s d m else s

def execAnnounce (m : AnnounceMsg) (s : State) : Host.Outcome State Fault Refusal := .next (announceHeard s m)

/-- ANNOUNCE_TIMEOUT (R381, R382, Table 9.5). -/
def announceTimeout (s : State) (d : Nat) : State :=
  if !domEn s d then s
  else
    let gone := (domOf s d).master.map (·.source)
    let s := onDom s d (fun x => { x with
      master := none, foreign := x.foreign.filter (fun e => decide (some e.ann.source ≠ gone)) })
    let s := if s.ring.root then
        (if (bestForeign s d).isSome then decideL3 s d else setL3 s d (bmcaState s d none)) else s
    let none' := (domOf s d).master.isNone
    if d = trackedIdx s then
      match (domOf s d).servo with
      | .locked => domainLost s
      | .acquire => domainLost s
      | .unknown => if none' && gmAble s then setServo s d .grandmaster else s
      | .seeded => if none' && gmAble s then setServo s d .grandmaster else s
      | .freerun => if none' && gmAble s then setServo s d .grandmaster else s
      | .holdover => s | .grandmaster => s
    else shadowLost s

def execAnnounceTimeout (domain : Bool) (s : State) : Host.Outcome State Fault Refusal :=
  .next (announceTimeout s (b2n domain))

-- the root as master

/-- The root sends Sync and Announce for a domain (R385, R391). -/
def sendsPtp (s : State) (d : Nat) : Bool :=
  s.ring.root && domEn s d &&
    (decide ((domOf s d).l3 = 3 ∨ (domOf s d).servo = .grandmaster ∨ (domOf s d).servo = .holdover))

/-- ROOT_SYNC_SEND (R391, R392); a master port on L3 sends one-step as well (R388). -/
def execRootSyncSend (domain : Bool) (s : State) : Host.Outcome State Fault Refusal :=
  let d := b2n domain
  .next (when (sendsPtp s d) s (fun s =>
    let q := (domOf s d).syncSeq + 1
    let m (l : Lane) : SyncMsg := ⟨l, domNumber s d, q, s.serial, false, txStamp s l, 0, 0⟩
    let s1 := ptpPair (onDom s d (fun x => { x with syncSeq := q })) (.sync (m .l0)) (.sync (m .l1))
    if (domOf s1 d).l3 = 2 then emitOwn s1 .l3 ptpMac (.sync (m .l3)) else s1))

/-- The Announce of the root (R391): its own data in GRANDMASTER, its master's with one more step otherwise. -/
def rootAnnounce (s : State) (d : Nat) (q : Lane) : AnnounceMsg :=
  let w := rd s (PTP.DATASET d)
  match (domOf s d).master with
  | some m =>
    if (domOf s d).l3 = 3 then { m with port := q, source := s.serial, stepsRemoved := m.stepsRemoved + 1 }
    else ⟨q, domNumber s d, s.serial, s.serial, fld w 0 8, fld w 16 8, 0xfe, 0xffff, fld w 8 8, 0, 0, false⟩
  | none => ⟨q, domNumber s d, s.serial, s.serial, fld w 0 8, fld w 16 8, 0xfe, 0xffff, fld w 8 8, 0, 0, false⟩

/-- ROOT_ANNOUNCE_SEND (R391). -/
def execRootAnnounceSend (domain : Bool) (s : State) : Host.Outcome State Fault Refusal :=
  let d := b2n domain
  .next (when (sendsPtp s d) s (fun s =>
    let s := onDom s d (fun x => { x with annSeq := x.annSeq + 1 })
    let s := ptpRing s (.announce (rootAnnounce s d .l0))
    if (domOf s d).l3 = 2 then emitOwn s .l3 ptpMac (.announce (rootAnnounce s d .l3)) else s))

-- configuration

/-- The checks of a write of TIME.CFG (R400). -/
def domSelChk (s : State) (v : Word) : Option Rej :=
  if bit v 0 = s.time.tracked then none
  else firstSome [
    rejIf (decide ((domOf s (1 - trackedIdx s)).servo ≠ .locked)) 0x41,
    rejIf (!shadowOk s) 0x40]

/-- A write of TIME.CFG (R400 to R402): the switch waits for the first accepted Sync of the new domain. -/
def timeCfgWrite (s : State) (w : Who) (v : Word) : State :=
  checked s w TIME.CFG (domSelChk s v) (fun s =>
    let s := wr s TIME.CFG (v &&& 7)
    onTime s (fun t => { t with switchTo := if bit v 0 = t.tracked then none else some (bit v 0) }))

def execDomSel (p : Path) (v : Word) (s : State) : Host.Outcome State Fault Refusal :=
  .next (gated s (some p) TIME.CFG (fun s => timeCfgWrite s (some p) v))

/-- The check of a write of PTPx.CFG (Table 9.10): the two enabled domains differ. -/
def ptpChk (s : State) (d o : Nat) (w : Word) : Chk :=
  if o = 0x40 then
    { spec := rejIf (bit w 8 && domEn s (1 - d) && decide (fld w 0 8 = domNumber s (1 - d))) 0x40 }
  else {}

/-- The check of a TIME commit (R405): GRID_EPOCH is held while a stream is admitted or a ream armed. -/
def timeCommitChk (s : State) : Chk :=
  let changes := decide (rdShadow s TIME.GRID_EPOCH_LO ≠ rd s TIME.GRID_EPOCH_LO ∨
    rdShadow s TIME.GRID_EPOCH_HI ≠ rd s TIME.GRID_EPOCH_HI)
  let used := s.streams.any (fun x => decide (x.st = .admitted ∨ x.st = .running ∨ x.st = .closing)) ||
    s.reams.any reamArmed
  { busy := rejIf (changes && used) Rsn.BUSY }

/-- The effect of a TIME commit at its edge (R405, R321): a SYNC of every chain at that edge, by its index under the new epoch;
the instants of the resampler outputs already emitted are carried over (R302). -/
def timeCommitted (s0 s : State) : State :=
  if epoch s0 = epoch s then s
  else
    let by' := (BitVec.ofNat 64 (epoch s) - BitVec.ofNat 64 (epoch s0)).toInt
    let s := { s with chains := s.chains.map (fun t => { t with rsLast := t.rsLast.map (fun x => (x.1 - by' * x.2, x.2)) }) }
    restartChains s (fun _ => true) (now s)

-- the always-on coarse counter

/-- COARSE_REFRESH (R387). -/
def execCoarseRefresh (s : State) : Host.Outcome State Fault Refusal :=
  .next (when (s.clk.xlp && s.clk.xtime && timePllOk s && decide (s.pwr.st ≠ .vbkAbsent ∧ s.pwr.st ≠ .midnight ∧ s.pwr.st ≠ .reset)) s
    (fun s => { s with pwr := { s.pwr with coarse := some s.time.ht, coarseAge := 0 } }))

-- the grid

/-- One second in units of 2⁻¹⁶ ns. -/
def secLen : Nat := 65536000000000

/-- GRID_START (R407). -/
def gridStartHeard (s : State) (m : GridMsg) : State :=
  if s.time.gridStarted then s
  else if m.epoch ≠ epoch s then evt s pgTIME 6
  else
    let at' := (m.index + m.epoch) * tickLen
    if (servo s = .locked ∨ servo s = .grandmaster) ∧ !s.time.slewing ∧ s.time.ht + secLen / 10 ≤ at' then
      onTime s (fun t => { t with gridAt := some m.index })
    else s

def execGridStart (m : GridMsg) (s : State) : Host.Outcome State Fault Refusal := .next (gridStartHeard s m)

/-- GRID_START_SEND (R406): the message for the next whole second; the root's own grid follows it too. -/
def execGridStartSend (s : State) : Host.Outcome State Fault Refusal :=
  .next (when s.ring.root s (fun s =>
    let sec := s.time.ht / secLen + 1
    let m : GridMsg := ⟨(sec * 10000000 + (2 ^ 64 - epoch s)) % 2 ^ 64, epoch s, s.time.tracked, (servo s).code⟩
    gridStartHeard (sendRing s ctlMac (.gridStart m)) m))

/-- GRID_START_INDEX (R407, R321): the grid starts at index `n`. After a warm reset of R101, sampling resumes with it (Table 3.9),
and what lies between is marked not sampled (R122). -/
def gridStartIndex (s : State) : State :=
  match s.time.gridAt with
  | none => s
  | some n => when (decide (n ≤ now s) && atTick s && (!s.pwr.warm.timeLost || (s.pwr.warm.ready && !warmHeld s))) s (fun s =>
    let lost := s.pwr.warm.timeLost
    let last := rd64 s PWR.LAST_SAMPLED_LO
    let s := onTime s (fun t => { t with gridStarted := true, gridAt := none, held := false })
    let s := evt (wr64 s TIME.GRID_START_LO n) pgTIME 5
    let s := if lost ∨ s.pwr.resumeDue then wr64 s PWR.RESUMED_LO n else s
    let s : State := { s with pwr := { s.pwr with resumeDue := false } }
    let s := if lost ∧ last + 2 ≤ n then noteGap (notSampledAll s (last + 1) (n - 1)) (last + 1) (n - 1) else s
    let s := if lost then { s with pwr := { s.pwr with warm := {}, dawnPhase := max s.pwr.dawnPhase 10 } } else s
    restartChains s (fun _ => true) n)

-- views

/-- |o| < 1 µs in ACQUIRE or LOCKED. -/
def coarseOk (s : State) : Bool :=
  decide (servo s = .acquire ∨ servo s = .locked) && decide ((trackedDom s).offset.natAbs < 65536000)

/-- The bound of R384 in units of 10 ns, for `t` ticks in holdover and a change `dt` of the temperatures in units of 1/16 °C
(Table 6.7). -/
def holdBound (t dt : Nat) : Nat := ceilDiv (20 * 16000000 + 16 * t + 10 * dt * t) 160000000

/-- HOLD_STAT (Table 9.7). -/
def timeHoldView (s : State) : Word :=
  match servo s, s.time.holdFrom with
  | .holdover, some (n, _) =>
    let t := s.time.now - n
    word (min 65535 (t / 10000000) + 2 ^ 16 * min 65535 (holdBound t s.time.holdDt))
  | _, _ => 0

/-- The TIME.STAT.port code: 0 L0, 1 L1, 2 L3. -/
def portCode (s : State) : Nat := if s.ring.root then 2 else if trackedPort s = .l0 then 0 else 1

/-- The computed registers of the TIME page. -/
def timeView (s : State) (o : Nat) : Option Word :=
  let ht := s.time.ht
  match o with
  | 0x44 => some (word ((servo s).code + 8 * b2n (gridValid s) + 16 * b2n s.time.gridStarted + 32 * b2n (coarseOk s) +
      64 * b2n s.time.tracked + 128 * b2n s.time.slewing + 256 * b2n (shadowOk s) + 512 * portCode s))
  | 0x48 => some (word (ht / secLen))
  | 0x4c => some (word (ht / secLen / 2 ^ 32))
  | 0x50 => some (word (ht % secLen / 65536))
  | 0x54 => some (word (ht % 65536))
  | 0x58 => some (word (now s))
  | 0x5c => some (word (now s / 2 ^ 32))
  | 0x70 => some (wordI s.time.f)
  | 0x74 => some (satWord (roundAway (trackedDom s).offset 256))
  | 0x8c => some (timeHoldView s)
  | _ =>
    if 0xa0 ≤ o ∧ o < 0xe0 then
      if o % 0x10 = 0 then some (word (portLat s ((o - 0xa0) / 0x10)).1)
      else if o % 0x10 = 4 then some (word (portLat s ((o - 0xa0) / 0x10)).2) else none
    else none

/-- The state of the L3 port as PTPx.STAT shows it: disabled on a hub that is not root. -/
def l3View (s : State) (d : Nat) : Nat :=
  if !s.ring.root || !domEn s d then 0 else if (domOf s d).l3 = 0 then 1 else (domOf s d).l3

/-- The servo of domain `d` steers F (Table 9.1): it is the tracked domain's, in ACQUIRE or LOCKED. -/
def steers (s : State) (d : Nat) : Bool :=
  decide (d = trackedIdx s ∧ (servo s = .acquire ∨ servo s = .locked))

/-- The computed registers of PTP page `d`. -/
def ptpView (s : State) (d o : Nat) : Option Word :=
  let x := domOf s d
  match o with
  | 0x54 => some (word (x.servo.code + 16 * l3View s d + 256 * b2n (steers s d)))
  | 0x58 => some (satWord (roundAway x.offset 256))
  | 0x5c => some (satWord (-(roundAway (if d = trackedIdx s then s.time.i else shadowI s d) 65536)))
  | 0x60 => some (word ((x.master.map (·.gmId)).getD 0))
  | 0x64 => some (word ((x.master.map (·.gmId)).getD 0 / 2 ^ 32))
  | 0x68 => some (match x.master with
      | none => 0
      | some m => word (m.clockClass % 256 + 256 * (m.priority1 % 256) + 65536 * (m.stepsRemoved % 65536)))
  | _ => none

end Sys2Proof.Machine
end

