-- ==== Sys2Proof/Machine/Calib.lean ====
section
/-!
DEFINITION. Calibration (spec/18, R732 to R741, R773, R774): recalibration runs, the coefficients that they leave, and the
supervision slots of the housekeeping converter (R270), which feed them.
Marked choices: DESIGN CHOICE, log entry 11; DEDUCED, log entry 64.
-/
namespace Sys2Proof.Machine

def calRunning (s : State) : Bool := rdb s CAL.STAT 0
def calMerged (s : State) : Bool := rdb s CAL.STAT 3
def calBgFail (s : State) : Bool := rdb s CAL.STAT 2

def setCalStat (s : State) (i : Nat) (v : Bool) : State := wr s CAL.STAT (setFld (rd s CAL.STAT) i 1 (b2n v))

/-- A run starts: its index and the temperatures are recorded (R737, R773). -/
def calStart (s : State) : State :=
  let s := setCalStat (setCalStat s 0 true) 3 false
  let s := wr64 s CAL.LAST_LO (now s)
  wr s CAL.T_CAL (word (rdf s (HKC.TEMP 0) 0 16 + 2 ^ 16 * rdf s (HKC.TEMP 1) 0 16))

/-- A trigger of R737: it starts a run, or merges into a further one (R738); none while the band-gap disagrees (R740). -/
def calTrigger (s : State) : State :=
  if calBgFail s then s else if calRunning s then setCalStat s 3 true else calStart s

/-- CAL.CTRL by its word (R737, R773). -/
def calCtrl (s : State) (w : Who) (v : Word) : State :=
  if bit v 0 then calTrigger s else refuse s w CAL.CTRL ⟨Rsn.RANGE, none⟩

/-- RECALIBRATE (R737). -/
def execRecalibrate (p : Path) (s : State) : Host.Outcome State Fault Refusal := .next (gated s (some p) CAL.CTRL calTrigger)

/-- CAL_PERIOD (R737): the period has passed; 0 turns the trigger off. -/
def execCalPeriod (s : State) : Host.Outcome State Fault Refusal :=
  .next (when (decide (rdf s CAL.PERIOD 0 17 ≠ 0)) s calTrigger)

-- coefficients

/-- A measured pair is a passing result (R739): the gain within ±0.2 % of the reference, the offset within ±32 LSB. -/
def calPasses (ref new : Int × Int) : Bool :=
  decide (1000 * (new.2 - ref.2).natAbs ≤ 2 * ref.2.natAbs ∧ new.1.natAbs ≤ 512)

/-- The result for a constant input moves by at most 2 LSB (R735), tested at both ends of the scale. -/
def calSmooth (old new : Int × Int) : Bool :=
  [32767, -32767].all (fun (x : Int) => decide (((16 * x - new.1) * new.2 - (16 * x - old.1) * old.2).natAbs ≤ 2 ^ 35))

/-- The coefficient of one input and range as a run over it leaves it: the measured pair is a free value within the limits. -/
def calCoef (s : State) (draw key : Nat) (smooth : Bool) : Int × Int :=
  let old := sparseGet s.inCoefs (0, 1073741824) key
  let new := Config.recalCoef draw key
  if calPasses (sparseGet s.cal.ref (0, 1073741824) key) new && (!smooth || calSmooth old new) then new else old

/-- New coefficients for the inputs of the quads of `quads`, in every range of R249. -/
def calMeasure (s : State) (quads : Nat → Bool) (smooth : Bool) : State :=
  let draw := s.freeCtr
  let keys := ((List.range 128).filter (fun ch => quads (ch / 4))).flatMap (fun ch => (List.range 8).map (fun r => 8 * ch + r))
  let l := keys.foldl (fun l k => sparsePut l (0, 1073741824) k (calCoef s draw k smooth)) s.inCoefs
  { s with inCoefs := l, freeCtr := draw + 1 }

/-- The band comparator serves a leg of an enabled axis (R263). -/
def bandServes (s : State) (ain : Nat) : Bool :=
  (List.range 48).any (fun r => slotOn (slotOf s r) && (List.range 3).any (fun i => decide (rdf s (MOT.AX_BAND r) (8 * i) 7 = ain)))

/-- New offsets and gains of the units beside the inputs that `which` names (Table 18.1): free values. -/
def calUnits (s : State) (which : Nat → Bool) : State :=
  let draw := s.freeCtr
  let l := ((List.range 185).filter which).foldl (fun l u => sparsePut l (0, 1073741824) u (Config.unitCoef draw u)) s.cal.units
  { s with cal := { s.cal with units := l }, freeCtr := draw + 1 }

/-- The units that a recalibration measures (Table 18.1): a comparator only where its input serves no enabled axis. -/
def recalUnits (s : State) (u : Nat) : Bool := decide (u < 88 ∨ 184 ≤ u) || !bandServes s (u - 88)

/-- RECALIBRATION_DONE (R735 to R741): `quads` has bit q set where quad q passes; a quad whose core has stopped rotation fails. -/
def recalibrationDone (s : State) (quads : BitVec 32) : State :=
  let pass : Nat → Bool := fun q => quads.getLsbD q && !(s.cores.getD q {}).stopped
  let all := (List.range 32).all pass
  let s := calUnits (calMeasure s pass true) (recalUnits s)
  let s := wr s CAL.QUAD_PASS (bitsWord ((List.range 32).map pass))
  let s := setCalStat (setCalStat s 0 false) 1 all
  let s := evt (bumpSat s CAL.RUNS 0 16 1) pgCAL 0
  let s := if all then clearBlock s
    else
      let s := evt (bumpSat s CAL.RUNS 16 16 1) pgCAL 1
      if rdb s CAL.CFG 0 then faultSrc s 15 else s
  if calMerged s then (if calBgFail s then setCalStat s 3 false else calStart s) else s

def execRecalibrationDone (quads : BitVec 32) (s : State) : Host.Outcome State Fault Refusal :=
  .next (when (calRunning s) s (fun s => recalibrationDone s quads))

-- supervision slots

/-- A comparison of the band-gap with the independent reference (R740). -/
def bandGap (s : State) (agree : Bool) : State :=
  if agree then
    let n := s.cal.agree + 1
    let s := { s with cal := { s.cal with agree := min n 1000 } }
    if calBgFail s ∧ 1000 ≤ n then clearBlock (setCalStat s 2 false) else s
  else
    let s := { s with cal := { s.cal with agree := 0 } }
    faultSrc (evt (setCalStat s 2 true) pgCAL 1) 15

/-- The temperature trigger of R737: TEMP0 or TEMP1 has moved by more than CAL.DT, in units of 0.5 °C, since the last run. -/
def calTemp (s : State) : Bool :=
  let dt := rdf s CAL.DT 0 7
  decide (dt ≠ 0) && (List.range 2).any (fun i =>
    decide (8 * dt < (signExt 16 (rdf s (HKC.TEMP i) 0 16) - signExt 16 (rdf s CAL.T_CAL (16 * i) 16)).natAbs))

/-- HKC_SUPERVISION (R270): a supervision slot refreshes a temperature or AOREF_STAT; AOREF below 0.5 V sets aoref_low (R237);
BGCAP is compared with the independent reference; VDDQ and AGND are for internal use. -/
def hkcSupervision (s : State) (ch : HkcSuper) (value : BitVec 16) (agree : Bool) : State :=
  match ch with
  | .ts i =>
    let s := wr s (HKC.TEMP i) (word value.toNat)
    let top := signExt 16 (rdf s HKC.TEMP_MAX 0 16)
    let first := s.hkc.temps.all List.isEmpty
    let s := wr s HKC.TEMP_MAX (wordI (if first ∨ top < value.toInt then value.toInt % 65536 else top % 65536))
    let s := { s with hkc := { s.hkc with temps := s.hkc.temps.modify i (fun l => pruneTemps (now s) ((now s, value) :: l)) } }
    let s := noteHoldTemp s
    if calTemp s then calTrigger s else s
  | .aoref =>
    let s := wr s AOUT.AOREF_STAT (word value.toNat)
    evtIf (decide (value.toNat < 500)) s pgAOUT 0
  | .bgcap => bandGap s agree
  | .vddq => s
  | .agnd => s

def execHkcSupervision (ch : HkcSuper) (value : BitVec 16) (agree : Bool) (s : State) :
    Host.Outcome State Fault Refusal :=
  .next (when (superSlot s ch) s (fun s =>
    hkcSupervision { s with hkc := { s.hkc with last := hkcEnded s } } ch value agree))

def calSummary (s : State) : Nat := rdf s CAL.STAT 1 1

end Sys2Proof.Machine
end

