-- ==== Sys2Proof/Machine/Bfp.lean ====
section
/-!
DEFINITION. Exact fractions and the BFP-24 format of the axis engines (R548 to R556): normalisation with one rounding,
saturation, masked writes, memory words, accumulators, band DAC codes.
-/
namespace Sys2Proof.Machine

/-- An exact fraction; `d` is positive. -/
structure Frac where
  n : Int
  d : Nat
deriving DecidableEq, Repr

namespace Frac

def ofInt (i : Int) : Frac := ⟨i, 1⟩
def zero : Frac := ⟨0, 1⟩
def add (a b : Frac) : Frac := ⟨a.n * b.d + b.n * a.d, a.d * b.d⟩
def neg (a : Frac) : Frac := ⟨-a.n, a.d⟩
def sub (a b : Frac) : Frac := a.add b.neg
def mul (a b : Frac) : Frac := ⟨a.n * b.n, a.d * b.d⟩
def abs (a : Frac) : Frac := ⟨a.n.natAbs, a.d⟩
def lt (a b : Frac) : Bool := decide (a.n * b.d < b.n * a.d)
def le (a b : Frac) : Bool := decide (a.n * b.d ≤ b.n * a.d)
def eqv (a b : Frac) : Bool := decide (a.n * b.d = b.n * a.d)
def max (a b : Frac) : Frac := if a.lt b then b else a
def min (a b : Frac) : Frac := if b.lt a then b else a

/-- a / b; 0 where b is 0, which no use of it meets. -/
def div (a b : Frac) : Frac := if b.n = 0 then zero else ⟨a.n * b.d * b.n.sign, a.d * b.n.natAbs⟩

/-- The fraction times 2ᵏ. -/
def scale (a : Frac) (k : Int) : Frac := if 0 ≤ k then ⟨a.n * 2 ^ k.toNat, a.d⟩ else ⟨a.n, a.d * 2 ^ (-k).toNat⟩

/-- The largest integer not above the fraction. -/
def floor (a : Frac) : Int := a.n / (a.d : Int)

/-- Rounded to nearest, ties away from zero. -/
def round (a : Frac) : Int := roundAway a.n a.d

/-- The smallest e with −2ᵉ ≤ a < 2ᵉ, for a ≠ 0: the exponent at which a fits in 24 bits (R548, R550). -/
def exponent (a : Frac) : Int :=
  let t := a.n.natAbs
  if 0 ≤ a.n then
    if a.d ≤ t then (Nat.log2 (t / a.d) + 1 : Nat) else -(Nat.log2 (ceilDiv a.d t - 1) : Int)
  else if t ≤ a.d then -(Nat.log2 (a.d / t) : Int)
  else (Nat.log2 (ceilDiv t a.d - 1) + 1 : Nat)

end Frac

/-- The largest mantissa. -/
def mantMax : Int := 8388607

/-- The mantissas at exponent `e`. -/
def mantsAt (xs : List Frac) (e : Int) : List Int := xs.map (fun x => (x.scale (23 - e)).round)

def mantFits (m : Int) : Bool := decide (-8388608 ≤ m ∧ m ≤ mantMax)

/-- The result of R550 to R552: mantissas, exponent, lanes that saturated, lanes that underflowed. -/
structure Normed where
  m : List Int
  e : Int
  ovf : List Bool
  unf : List Bool
deriving DecidableEq, Repr

/-- Normalisation (R549 to R552). -/
def normalise (xs : List Frac) : Normed :=
  let no := xs.map (fun _ => false)
  if xs.all (fun x => decide (x.n = 0)) then ⟨xs.map (fun _ => 0), -128, no, no⟩
  else
    let need := xs.foldl (fun a x => if x.n = 0 then a else if a < x.exponent then x.exponent else a) (-100000)
    let low := decide (need < -128)
    let e0 := clampI (-128) 127 need
    let m0 := mantsAt xs e0
    let e := if m0.all mantFits ∨ e0 = 127 then e0 else e0 + 1
    let ms := mantsAt xs e
    ⟨List.zipWith (fun (x : Frac) m => if mantFits m then m else if 0 < x.n then mantMax else -mantMax) xs ms, e,
      ms.map (fun m => !mantFits m),
      List.zipWith (fun (x : Frac) m =>
        low && decide (x.n ≠ 0) && mantFits m && !(Frac.ofInt m).eqv (x.scale (23 - e))) xs ms⟩

/-- The lane values of a vector register (R548). -/
def laneVals (v : VReg) : List Frac := v.m.map (fun m => (Frac.ofInt m).scale (v.e - 23))

/-- A list of lane flags as lane bits. -/
def laneBits (l : List Bool) : BitVec 4 := BitVec.ofNat 4 (l.foldr (fun b a => 2 * a + b2n b) 0)

/-- A masked write of a vector register (R553): the register, the ovf and unf lanes. -/
def packV (old : VReg) (mask : BitVec 4) (xs : List Frac) : VReg × BitVec 4 × BitVec 4 :=
  let kept := laneVals old
  let vals := (List.range 4).map (fun i => if mask.getLsbD i then xs.getD i Frac.zero else kept.getD i Frac.zero)
  let r := normalise vals
  (⟨r.m, r.e⟩, laneBits r.ovf &&& mask, laneBits r.unf &&& mask)

/-- The value of a BFP-24 word (R555). -/
def bfpVal (w : Word) : Frac := if sfld w 8 24 = 0 then Frac.zero else (Frac.ofInt (sfld w 8 24)).scale (sfld w 0 8 - 23)

/-- A BFP-24 word of one value, normalised alone (R555), with its ovf and unf. -/
def bfpWord (x : Frac) : Word × Bool × Bool :=
  let r := normalise [x]
  (wordI (r.m.getD 0 0 * 256 + r.e % 256), r.ovf.getD 0 false, r.unf.getD 0 false)

-- accumulators

/-- Saturation at ±(2⁵⁵ − 1) (R554), and whether it happened. -/
def accSat (x : Int) : Int × Bool :=
  if 2 ^ 55 - 1 < x then (2 ^ 55 - 1, true) else if x < -(2 ^ 55) then (-(2 ^ 55 - 1), true) else (x, false)

/-- One lane of VMAC (R554): the product aligned to E and rounded once, then added. -/
def accLane (e a : Int) (prod : Frac) : Int × Bool :=
  let p := accSat (prod.scale (46 - e)).round
  let r := accSat (a + p.1)
  (r.1, p.2 || r.2)

/-- The lane values of an accumulator (R554). -/
def accVals (v : VReg) : List Frac := v.m.map (fun m => (Frac.ofInt m).scale (v.e - 46))

-- band DAC codes

/-- The code of a band edge (Table 13.6, VSTE). -/
def dacCode (x : Frac) : Nat := (clampI 0 4095 (2048 + (x.mul (Frac.ofInt 2048)).round)).toNat

end Sys2Proof.Machine
end

