-- ==== Sys2Proof/Machine/Engine.lean ====
section
/-!
DEFINITION. Axis engines (spec/13): local memory, faults, the issue of an instruction, the instructions of Table 13.6, and
the host's control of an engine. An instruction command is the issue of that instruction by the running stage of engine k.
Marked choices: DESIGN CHOICE, log entries 24, 56; DEDUCED, log entries 38, 57, 70.
-/
namespace Sys2Proof.Machine

-- local memory

/-- What an unlisted SRAM word reads as: 0, and NODATA for the value word of a subscription (R564). -/
def sramDefault (a : Nat) : Word := if 0x10100 ≤ a ∧ a < 0x10180 ∧ a % 8 = 4 then 0x80000000 else 0

def sramRead (e : EngineState) (a : Nat) : Word := sparseGet e.sram (sramDefault a) a

/-- A word written to SRAM replaces an uncorrectable one. -/
def sramWrite (e : EngineState) (a : Nat) (w : Word) : EngineState :=
  { e with sram := sparsePut e.sram (sramDefault a) a w, bad := e.bad.filter (fun b => decide (b ≠ a)) }

/-- Words that the hub writes between stages (R567, R842): at once, or when the running stage is over. -/
def writeBetween (e : EngineState) (l : List (Nat × Word)) : EngineState :=
  if e.stage.isSome then { e with fromTwin := e.fromTwin ++ l } else l.foldl (fun e w => sramWrite e w.1 w.2) e

/-- No stage runs any more: what has waited for that is written. -/
def stageOver (e : EngineState) : EngineState := writeBetween { e with stage := none, fromTwin := [] } e.fromTwin

def inTables (a : Nat) : Bool := decide (0x20000 ≤ a ∧ a < 0x60000)
def inData (a : Nat) : Bool := decide (0x12000 ≤ a ∧ a < 0x20000)

/-- An engine load may read the address (Table 13.2). -/
def engReads (a : Nat) : Bool := decide ((0x10000 ≤ a ∧ a < 0x10190) ∨ (0x11000 ≤ a ∧ a < 0x60000))

/-- An engine store may write the address (Table 13.2). -/
def engWrites (a : Nat) : Bool := decide ((0x11000 ≤ a ∧ a < 0x11800) ∨ (0x12000 ≤ a ∧ a < 0x60000))

/-- VSTE may write the address. -/
def engPorts (a : Nat) : Bool := decide (0x10400 ≤ a ∧ a < 0x10440)

/-- A word as the engine sees it: the input block and the phases of `b`, SRAM elsewhere. -/
def engWord (e : EngineState) (b : InBlock) (a : Nat) : Word :=
  if 0x10000 ≤ a ∧ a < 0x10100 then b.words.getD ((a - 0x10000) / 4) 0
  else if 0x10180 ≤ a ∧ a < 0x10190 then b.phase.getD ((a - 0x10180) / 4) 0
  else sramRead e a

-- faults

abbrev EngCause.ILLEGAL : Nat := 1
abbrev EngCause.ADDR : Nat := 2
abbrev EngCause.ECC_PROG : Nat := 3
abbrev EngCause.ECC_DATA : Nat := 4
abbrev EngCause.LIMIT : Nat := 5
abbrev EngCause.OVF : Nat := 6
abbrev EngCause.LATE : Nat := 7

/-- An engine fault (R585, R586) at program address `pc`, with the faulting local address. -/
def engFault (s : State) (k cause pc addr : Nat) : State :=
  if (engOf s k).run = .fault then s
  else
    let s := onEng s k (fun e => { stageOver e with run := .fault, cause := cause, events := 0, haltReq := false, chain := false })
    let s := wr s (AE.FAULT_INFO k) (word (pc % 2 ^ 15 + 2 ^ 16 * (addr % 2 ^ 16)))
    engineSlots (faultSrc (evt s (pgAE k) 0) 15) k

-- the issue of an instruction

/-- What an instruction does: it faults, or it leaves a context, stores, port words and the user event. -/
inductive Issue where
  | fault (cause addr : Nat)
  | done (c : EngCtx) (stores ports : List (Nat × Word)) (user : Bool)
deriving DecidableEq, Repr

/-- An instruction that changes the context only. -/
def Issue.ctx (c : EngCtx) : Issue := .done c [] [] false

/-- The cycle on which a resource is ready. -/
def readyAt (c : EngCtx) (r : Res) : Nat := ((c.ready.find? (fun e => decide (e.1 = r))).map (·.2)).getD 0

/-- The cycle on which the instruction issues (R582). -/
def issueCycle (c : EngCtx) (reads : List Res) : Nat := reads.foldl (fun a r => max a (readyAt c r)) c.free

/-- Results become readable (Table 13.6). -/
def markReady (l : List (Res × Nat)) (writes : List (Res × Nat)) (cyc : Nat) : List (Res × Nat) :=
  writes.foldl (fun l w => (w.1, cyc + w.2) :: l.filter (fun e => decide (e.1 ≠ w.1))) l

/-- N_BU of R575. -/
def budget (s : State) (k : Nat) : Int := 40 * (buTicks s k : Int) - 107

/-- A port word enters the band-edge queue (R566) and becomes the shadow of its band DAC (R51). -/
def portWrite (s : State) (k : Nat) (p : Nat × Word) : State :=
  let r := 4 * k + (p.1 - 0x10400) / 16
  let c := p.1 % 16 / 4
  let s := onEng s k (fun e => sramWrite e p.1 p.2)
  if c < kindBands (axKind s r) then
    onBand s (bandAin s r c) (fun b => shadowEdges b (now s) (fld p.2 0 12) (fld p.2 16 12))
  else s

/-- A band-edge word leaves a BU stage on cycle `leave` (R575, R576): the stage may be late. -/
def edgeLeaves (s : State) (k leave : Nat) : State :=
  match (engOf s k).stage with
  | none => s
  | some c =>
    if c.event = 0 then
      let at' := (engOf s k).offset + leave
      let late := decide (budget s k < at')
      let s := onEng s k (fun e => { e with stage := some { c with lastEdge := at'.toNat, late := c.late || late } })
      let s := if late && !c.late then evt (bumpSat s (AE.COUNTS k) 0 16 1) (pgAE k) 1 else s
      if late && rdb s (AE.CFG k) 1 then engFault s k EngCause.LATE (c.pc - 1) 0 else s
    else s

/-- Issues one instruction of the running stage of engine `k`: `legal` is R580's check of its fields, `reads` and `writes`
are what the scoreboard sees (with the latency of each result), `busy` the cycles it occupies, `f` its effect at its issue
cycle. Without a running stage nothing is issued. -/
def issue (s : State) (k : Nat) (legal : Bool) (reads : List Res) (writes : List (Res × Nat)) (busy : Nat)
    (f : EngCtx → Nat → Issue) : State :=
  match (engOf s k).stage with
  | none => s
  | some c =>
    let limit := rdf s (AE.LIMIT k) 0 16
    let cyc := issueCycle c reads
    if limit ≤ c.free then engFault s k EngCause.LIMIT c.pc 0
    else if c.pc < 0x4000 ∧ 4 * c.pc ∈ (engOf s k).bad then engFault s k EngCause.ECC_PROG c.pc 0
    else if !legal then engFault s k EngCause.ILLEGAL c.pc 0
    else if limit ≤ cyc then engFault s k EngCause.LIMIT c.pc 0
    else
      match f { c with pc := (c.pc + 1) % 2 ^ 15, free := cyc + busy } cyc with
      | .fault cause addr => engFault s k cause c.pc addr
      | .done c' stores ports user =>
        if c'.ovf ≠ c.ovf ∧ rdb s (AE.CFG k) 0 then engFault s k EngCause.OVF c.pc 0
        else
          let s := onEng s k (fun e =>
            stores.foldl (fun e w => sramWrite e w.1 w.2)
              { e with stage := some { c' with ready := markReady c'.ready writes cyc } })
          let s := ports.foldl (fun s p => portWrite s k p) s
          let s := if ports.isEmpty then s else edgeLeaves s k (cyc + 2)
          evtIf user s (pgAE k) 7

-- operands

def sOf (c : EngCtx) (i : Nat) : Word := c.s.getD i 0
def vOf (c : EngCtx) (i : Nat) : VReg := c.v.getD i {}
def aOf (c : EngCtx) (i : Nat) : VReg := c.acc.getD i {}

/-- S0 ignores writes (R545). -/
def setS (c : EngCtx) (d : Nat) (w : Word) : EngCtx := if d = 0 then c else { c with s := c.s.set d w }

/-- What a scalar result marks on the scoreboard. -/
def wS (d lat : Nat) : List (Res × Nat) := if d = 0 then [] else [(.s d, lat)]

/-- A masked vector result (R550 to R553). -/
def setV (c : EngCtx) (d : Nat) (mask : BitVec 4) (xs : List Frac) : EngCtx :=
  let r := packV (vOf c d) mask xs
  { c with v := c.v.set d r.1, ovf := c.ovf ||| r.2.1, unf := c.unf ||| r.2.2 }

/-- The stride of a format-M instruction (R578). -/
def strideOf (st : Nat) : Nat := if st = 0 then 4 else if st = 1 then 16 else if st = 2 then 64 else 0x10000

/-- The active lanes. -/
def activeLanes (c : EngCtx) : List Nat := (List.range 4).filter (fun i => c.m.getLsbD i)

/-- The lane addresses of R578: active lanes only. -/
def laneAddrs (c : EngCtx) (base off st : Nat) : List (Nat × Nat) :=
  (activeLanes c).map (fun i => (i, base + 4 * off + i * strideOf st))

/-- The fault of an access (R579): a base off alignment, or an address outside `ok`; a load of a word with an uncorrectable
error faults with ECC_DATA (Table 13.8). -/
def accessFault (e : EngineState) (ok : Nat → Bool) (load : Bool) (base : Nat) (as : List Nat) : Option (Nat × Nat) :=
  if base % 4 ≠ 0 then some (EngCause.ADDR, base)
  else match as.find? (fun a => !ok a) with
    | some a => some (EngCause.ADDR, a)
    | none => if load then (as.find? (fun a => e.bad.contains a)).map (fun a => (EngCause.ECC_DATA, a)) else none

/-- Continues where no fault stands. -/
def orFault (f : Option (Nat × Nat)) (i : Issue) : Issue :=
  match f with
  | some (c, a) => .fault c a
  | none => i

/-- Four lane values from the addresses of the active lanes. -/
def gather (as : List (Nat × Nat)) (f : Nat → Frac) : List Frac :=
  (List.range 4).map (fun i => match as.find? (fun e => decide (e.1 = i)) with
    | some e => f e.2
    | none => Frac.zero)

/-- The scalar operands of an integer instruction. -/
def aluOp (s : State) (k : Nat) (d a b : Nat) (lat : Nat) (f : Word → Word → Word) : State :=
  issue s k true [.s a, .s b] (wS d lat) 1 (fun c _ => .ctx (setS c d (f (sOf c a) (sOf c b))))

def immOp (s : State) (k : Nat) (d a : Nat) (f : Word → Word) : State :=
  issue s k true [.s a] (wS d 1) 1 (fun c _ => .ctx (setS c d (f (sOf c a))))

/-- A masked vector load of format M. -/
def vload (s : State) (k : Nat) (m : MemOp) (lane : Word → Frac) (after : EngCtx → Nat → Word → EngCtx) (ws : List (Res × Nat)) :
    State :=
  let e := engOf s k
  issue s k true [.s m.a, .m] ((.v m.d, 4) :: ws) 1 (fun c _ =>
    let base := (sOf c m.a).toNat
    let as := laneAddrs c base m.off.toNat m.st
    orFault (accessFault e engReads true base (as.map (·.2)))
      (.ctx ((as.foldl (fun c x => after c x.1 (engWord e c.block x.2))
        (setV c m.d c.m (gather as (fun a => lane (engWord e c.block a))))))))

/-- A masked vector instruction on registers: `reads` beside M, the exact lane results. -/
def vecOp (s : State) (k d lat : Nat) (reads : List Res) (f : EngCtx → List Frac) : State :=
  issue s k true (.m :: reads) [(.v d, lat)] 1 (fun c _ => .ctx (setV c d c.m (f c)))

def vec1 (s : State) (k d a lat : Nat) (f : Frac → Frac) : State :=
  vecOp s k d lat [.v a] (fun c => (laneVals (vOf c a)).map f)

def vec2 (s : State) (k d a b lat : Nat) (f : Frac → Frac → Frac) : State :=
  vecOp s k d lat [.v a, .v b] (fun c => List.zipWith f (laneVals (vOf c a)) (laneVals (vOf c b)))

-- scalar instructions

def execNopInstruction (k : Fin 12) (s : State) : Host.Outcome State Fault Refusal :=
  .next (issue s k true [] [] 1 (fun c _ => .ctx c))

def execSli (k : Fin 12) (d : Fin 16) (imm : BitVec 16) (s : State) : Host.Outcome State Fault Refusal :=
  .next (issue s k true [] (wS d 1) 1 (fun c _ => .ctx (setS c d (imm.signExtend 32))))

def execSlih (k : Fin 12) (d : Fin 16) (imm : BitVec 16) (s : State) : Host.Outcome State Fault Refusal :=
  .next (issue s k true [] (wS d 1) 1 (fun c _ => .ctx (setS c d (imm.zeroExtend 32 <<< 16))))

def execSadd (k : Fin 12) (d a b : Fin 16) (s : State) : Host.Outcome State Fault Refusal :=
  .next (aluOp s k d a b 1 (· + ·))

def execSaddi (k : Fin 12) (d a : Fin 16) (imm : BitVec 18) (s : State) : Host.Outcome State Fault Refusal :=
  .next (immOp s k d a (· + imm.signExtend 32))

def execSsub (k : Fin 12) (d a b : Fin 16) (s : State) : Host.Outcome State Fault Refusal :=
  .next (aluOp s k d a b 1 (· - ·))

def execSand (k : Fin 12) (d a b : Fin 16) (s : State) : Host.Outcome State Fault Refusal :=
  .next (aluOp s k d a b 1 (· &&& ·))

def execSor (k : Fin 12) (d a b : Fin 16) (s : State) : Host.Outcome State Fault Refusal :=
  .next (aluOp s k d a b 1 (· ||| ·))

def execSshl (k : Fin 12) (d a : Fin 16) (imm : BitVec 10) (s : State) : Host.Outcome State Fault Refusal :=
  .next (immOp s k d a (· <<< (imm.toNat % 32)))

def execSshr (k : Fin 12) (d a : Fin 16) (imm : BitVec 10) (s : State) : Host.Outcome State Fault Refusal :=
  .next (immOp s k d a (fun w => w.sshiftRight (imm.toNat % 32)))

def execSmul (k : Fin 12) (d a b : Fin 16) (s : State) : Host.Outcome State Fault Refusal :=
  .next (aluOp s k d a b 2 (· * ·))

/-- SLD: lane 0's address alone (R578). -/
def execSld (k : Fin 12) (m : MemOp) (s : State) : Host.Outcome State Fault Refusal :=
  let e := engOf s k
  .next (issue s k true [.s m.a] (wS m.d 3) 1 (fun c _ =>
    let base := (sOf c m.a).toNat
    let a := base + 4 * m.off.toNat
    orFault (accessFault e engReads true base [a]) (.ctx (setS c m.d (engWord e c.block a)))))

def execSst (k : Fin 12) (m : MemOp) (s : State) : Host.Outcome State Fault Refusal :=
  .next (issue s k true [.s m.a, .s m.d] [] 1 (fun c _ =>
    let base := (sOf c m.a).toNat
    let a := base + 4 * m.off.toNat
    orFault (accessFault (engOf s k) engWrites false base [a]) (.done c [(a, sOf c m.d)] [] false)))

/-- The twin role of a stage of engine `k` whose boundary is index `n` (Table 13.7, R836). -/
def twinRole (s : State) (k n : Nat) : Nat :=
  if !isPaired s then 0
  else match s.twin.handover with
    | some h => if h.losing = decide (h.bounds.getD k 0 ≤ n) then 2 else 1
    | none => if drivesHub s then 1 else 2

/-- The values of Table 13.7 (R584). -/
def sgetValue (s : State) (k : Nat) (c : EngCtx) (cyc sel : Nat) : Word :=
  match sel with
  | 0 => word (2 ^ c.event)
  | 1 => word c.block.idx
  | 2 => word (c.block.idx / 2 ^ 32)
  | 3 => word (c.block.idx / buTicks s k)
  | 4 => word cyc
  | 5 => word (engSlots s k)
  | 6 => word c.role
  | 7 => word (c.ovf.toNat + 2 ^ 4 * c.unf.toNat + 2 ^ 8 * c.nodata.toNat)
  | _ => 0

def execSget (k : Fin 12) (d : Fin 16) (sel : BitVec 10) (s : State) : Host.Outcome State Fault Refusal :=
  .next (issue s k true [] (wS d 1) 1 (fun c cyc => .ctx (setS c d (sgetValue s k c cyc sel.toNat))))

/-- The condition of BR. -/
def brTaken (c : EngCtx) (cond a : Nat) : Bool :=
  let x := sOf c a
  match cond with
  | 0 => true
  | 1 => decide (x = 0)
  | 2 => decide (x ≠ 0)
  | 3 => decide (x.toInt < 0)
  | 4 => decide (0 ≤ x.toInt)
  | 5 => decide (c.p ≠ 0)
  | _ => decide (c.p = 0)

def execBr (k : Fin 12) (cond : Fin 16) (a : Fin 16) (target : BitVec 15) (s : State) : Host.Outcome State Fault Refusal :=
  let reads := if cond.val = 0 then [] else if cond.val ≤ 4 then [Res.s a] else [Res.p]
  .next (issue s k (decide (cond.val ≤ 6)) reads [] 1 (fun c cyc =>
    .ctx (if brTaken c cond a then { c with pc := target.toNat, free := cyc + 3 } else c)))

def execLmask (k : Fin 12) (imm : BitVec 10) (s : State) : Host.Outcome State Fault Refusal :=
  let src := imm.toNat / 16 % 4
  let reads := if src = 0 then [] else if src = 3 then [Res.p, Res.m] else [Res.p]
  .next (issue s k true reads [(.m, 1)] 1 (fun c _ =>
    .ctx { c with m := if src = 0 then imm.truncate 4 else if src = 1 then c.p else if src = 2 then ~~~c.p else c.m &&& c.p }))

def execSignal (k : Fin 12) (s : State) : Host.Outcome State Fault Refusal :=
  .next (issue s k true [] [] 1 (fun c _ => .done c [] [] true))

-- vector loads and stores

def execVld (k : Fin 12) (m : MemOp) (s : State) : Host.Outcome State Fault Refusal :=
  .next (vload s k m bfpVal (fun c _ _ => c) [])

/-- The TAG and ND of a lane after a record (R556). -/
def noteRecord (c : EngCtx) (i : Nat) (w : Word) : EngCtx :=
  let b := BitVec.ofNat 4 (2 ^ i)
  { c with
    tag := c.tag.set i (w.truncate 8)
    nd := if isNodata w then c.nd ||| b else c.nd &&& ~~~b
    nodata := if isNodata w then c.nodata ||| b else c.nodata }

/-- VLDR (R556). -/
def execVldr (k : Fin 12) (m : MemOp) (s : State) : Host.Outcome State Fault Refusal :=
  .next (vload s k m (fun w => if isNodata w then Frac.zero else (Frac.ofInt (recVal w)).scale (-23)) noteRecord [(.t, 4)])

def execVldi (k : Fin 12) (m : MemOp) (s : State) : Host.Outcome State Fault Refusal :=
  .next (vload s k m (fun w => Frac.ofInt w.toInt) (fun c _ _ => c) [])

def execVldd (k : Fin 12) (d a b : Fin 16) (st : Fin 4) (s : State) : Host.Outcome State Fault Refusal :=
  let e := engOf s k
  .next (issue s k true [.s a, .s b, .m] [(.v d, 5)] 1 (fun c _ =>
    let la := laneAddrs c (sOf c a).toNat 0 st
    let lb := laneAddrs c (sOf c b).toNat 0 st
    let ld := fun x => engWord e c.block x
    orFault (accessFault e engReads true (sOf c a).toNat (la.map (·.2)))
      (orFault (accessFault e engReads true (sOf c b).toNat (lb.map (·.2)))
        (.ctx (setV c d c.m ((List.range 4).map (fun i =>
          Frac.ofInt (ld ((sOf c a).toNat + i * strideOf st) - ld ((sOf c b).toNat + i * strideOf st)).toInt)))))))

/-- VST (R555): each lane normalised alone. -/
def execVst (k : Fin 12) (m : MemOp) (s : State) : Host.Outcome State Fault Refusal :=
  .next (issue s k true [.s m.a, .v m.d, .m] [] 1 (fun c _ =>
    let base := (sOf c m.a).toNat
    let as := laneAddrs c base m.off.toNat m.st
    let x := fun i => bfpWord ((laneVals (vOf c m.d)).getD i Frac.zero)
    let unf := laneBits ((List.range 4).map (fun i => c.m.getLsbD i && (x i).2.2))
    orFault (accessFault (engOf s k) engWrites false base (as.map (·.2)))
      (.done { c with unf := c.unf ||| unf } (as.map (fun e => (e.2, (x e.1).1))) [] false)))

/-- VSTE (R566): the port words of the active lanes. -/
def execVste (k : Fin 12) (m : MemOp) (s : State) : Host.Outcome State Fault Refusal :=
  .next (issue s k (decide (m.d.val % 2 = 0)) [.s m.a, .v m.d, .v (m.d.val + 1), .m] [] 1 (fun c _ =>
    let base := (sOf c m.a).toNat
    let as := laneAddrs c base m.off.toNat m.st
    let x := fun (v i : Nat) => dacCode ((laneVals (vOf c v)).getD i Frac.zero)
    orFault (accessFault (engOf s k) engPorts false base (as.map (·.2)))
      (.done c [] (as.map (fun e => (e.2, word (x m.d e.1 + 2 ^ 16 * x (m.d.val + 1) e.1)))) false)))

-- vector arithmetic

def execVsplat (k : Fin 12) (d a : Fin 16) (s : State) : Host.Outcome State Fault Refusal :=
  .next (vecOp s k d 2 [.s a] (fun c => List.replicate 4 (Frac.ofInt (sOf c a).toInt)))

def execVadd (k : Fin 12) (d a b : Fin 16) (s : State) : Host.Outcome State Fault Refusal :=
  .next (vec2 s k d a b 2 Frac.add)

def execVsub (k : Fin 12) (d a b : Fin 16) (s : State) : Host.Outcome State Fault Refusal :=
  .next (vec2 s k d a b 2 Frac.sub)

def execVmul (k : Fin 12) (d a b : Fin 16) (s : State) : Host.Outcome State Fault Refusal :=
  .next (vec2 s k d a b 3 Frac.mul)

/-- The accumulator and its saturated lanes after VMAC (R554). -/
def macLanes (c : EngCtx) (d a b : Nat) (neg : Bool) : VReg × List Bool :=
  let acc := aOf c d
  let xa := laneVals (vOf c a)
  let xb := laneVals (vOf c b)
  let r := (List.range 4).map (fun i =>
    if c.m.getLsbD i then
      let p := (xa.getD i Frac.zero).mul (xb.getD i Frac.zero)
      accLane acc.e (acc.m.getD i 0) (if neg then p.neg else p)
    else (acc.m.getD i 0, false))
  (⟨r.map (·.1), acc.e⟩, r.map (·.2))

/-- VMAC (R554). -/
def execVmac (k : Fin 12) (d a b : Fin 16) (neg : Bool) (s : State) : Host.Outcome State Fault Refusal :=
  .next (issue s k (decide (d.val ≤ 3)) [.v a, .v b, .c d, .m] [(.a d, 3), (.c d, 1)] 1 (fun c _ =>
    let r := macLanes c d a b neg
    .ctx { c with acc := c.acc.set d r.1, ovf := c.ovf ||| laneBits r.2 }))

def execAclr (k : Fin 12) (d : Fin 16) (e : BitVec 8) (s : State) : Host.Outcome State Fault Refusal :=
  .next (issue s k (decide (d.val ≤ 3)) [] [(.a d, 1), (.c d, 1)] 1 (fun c _ =>
    .ctx { c with acc := c.acc.set d ⟨[0, 0, 0, 0], e.toInt⟩ }))

def execVmova (k : Fin 12) (d a : Fin 16) (s : State) : Host.Outcome State Fault Refusal :=
  .next (issue s k (decide (a.val ≤ 3)) [.a a, .m] [(.v d, 3)] 1 (fun c _ =>
    .ctx (setV c d c.m (accVals (aOf c a)))))

def execVclamp (k : Fin 12) (d a b c : Fin 16) (s : State) : Host.Outcome State Fault Refusal :=
  .next (vecOp s k d 2 [.v a, .v b, .v c] (fun x =>
    List.zipWith Frac.min (List.zipWith Frac.max (laneVals (vOf x a)) (laneVals (vOf x b))) (laneVals (vOf x c))))

def execVneg (k : Fin 12) (d a : Fin 16) (s : State) : Host.Outcome State Fault Refusal := .next (vec1 s k d a 2 Frac.neg)

def execVabs (k : Fin 12) (d a : Fin 16) (s : State) : Host.Outcome State Fault Refusal := .next (vec1 s k d a 2 Frac.abs)

def execVscl (k : Fin 12) (d a : Fin 16) (e : BitVec 8) (s : State) : Host.Outcome State Fault Refusal :=
  .next (vec1 s k d a 1 (fun x => x.scale e.toInt))

def execVmov (k : Fin 12) (d a : Fin 16) (s : State) : Host.Outcome State Fault Refusal := .next (vec1 s k d a 1 id)

def execVbc (k : Fin 12) (d a : Fin 16) (j : Fin 4) (s : State) : Host.Outcome State Fault Refusal :=
  .next (vecOp s k d 1 [.v a] (fun c => List.replicate 4 ((laneVals (vOf c a)).getD j Frac.zero)))

/-- The comparisons of VCMP, exact. -/
def vcmpHolds (cond : Nat) (x y : Frac) : Bool :=
  match cond with
  | 0 => x.lt y
  | 1 => x.le y
  | 2 => x.eqv y
  | 3 => !x.eqv y
  | 4 => y.le x
  | _ => y.lt x

def execVcmp (k : Fin 12) (a b : Fin 16) (cond : Fin 8) (s : State) : Host.Outcome State Fault Refusal :=
  .next (issue s k (decide (cond.val ≤ 5)) [.v a, .v b] [(.p, 1)] 1 (fun c _ =>
    .ctx { c with p := laneBits (List.zipWith (vcmpHolds cond) (laneVals (vOf c a)) (laneVals (vOf c b))) }))

def execVsel (k : Fin 12) (d a b : Fin 16) (s : State) : Host.Outcome State Fault Refusal :=
  .next (vecOp s k d 2 [.v a, .v b, .p] (fun c => (List.range 4).map (fun i =>
    (laneVals (vOf c (if c.p.getLsbD i then a else b))).getD i Frac.zero)))

def execVtst (k : Fin 12) (imm : BitVec 10) (s : State) : Host.Outcome State Fault Refusal :=
  .next (issue s k true [.t] [(.p, 1)] 1 (fun c _ =>
    .ctx { c with p := laneBits ((List.range 4).map (fun i =>
      decide (c.tag.getD i 0 &&& imm.truncate 8 ≠ 0) || (imm.getLsbD 8 && c.nd.getLsbD i))) }))

/-- NORM: every lane is rewritten by R550. -/
def execNorm (k : Fin 12) (d : Fin 16) (s : State) : Host.Outcome State Fault Refusal :=
  .next (issue s k true [.v d] [(.v d, 1)] 1 (fun c _ => .ctx (setV c d 15 (laneVals (vOf c d)))))

/-- The addresses that VTAB reads for lane `i` (R581). -/
def tabAddrs (x : Frac) (n base i : Nat) (interp : Bool) : List Nat :=
  let j := (x.floor % (n : Int)).toNat
  let row := base + i * 0x10000
  if interp then [row + 4 * j, row + 4 * ((j + 1) % n)] else [row + 4 * j]

/-- The table value at `x` from the words read (R581). -/
def tabValue (x : Frac) (ws : List Frac) : Frac :=
  match ws with
  | [t] => t
  | [t, u] => t.add ((x.sub (Frac.ofInt x.floor)).mul (u.sub t))
  | _ => Frac.zero

/-- VTAB (R581): table of Sc words at Sb. -/
def execVtab (k : Fin 12) (d a b c : Fin 16) (interp : Bool) (s : State) : Host.Outcome State Fault Refusal :=
  let e := engOf s k
  .next (issue s k true [.v a, .s b, .s c, .m] [(.v d, 8)] 2 (fun x _ =>
    let base := (sOf x b).toNat
    let n := (sOf x c).toNat
    let xs := laneVals (vOf x a)
    let addrs := fun i => tabAddrs (xs.getD i Frac.zero) n base i interp
    if n = 0 ∨ 16384 < n then .fault EngCause.ADDR 0
    else orFault (accessFault e inTables true base ((activeLanes x).flatMap addrs))
      (.ctx (setV x d x.m ((List.range 4).map (fun i =>
        tabValue (xs.getD i Frac.zero) ((addrs i).map (fun q => bfpVal (engWord e x.block q)))))))))

-- the end of a stage

/-- A figure with a largest value since the start: [15:0] last, [31:16] max. -/
def noteFigure (s : State) (a v : Nat) : State :=
  wr s a (word (min v 65535 + 2 ^ 16 * max (min v 65535) (rdf s a 16 16)))

/-- The engine becomes HALTED (R591). -/
def haltNow (s : State) (k : Nat) : State :=
  onEng s k (fun e => { e with run := .halted, events := 0, haltReq := false, chain := false })

/-- A stage of event `ev` ends after `cycles` cycles, with the lane flags and the last band-edge cycle that it leaves (R572,
R588, Table 13.11). -/
def endStage (s : State) (k ev cycles lastEdge : Nat) (ovf unf nodata : BitVec 4) : State :=
  let s := onEng s k (fun e => { stageOver e with offset := e.offset + cycles })
  let s := if ev = 0 then noteFigure s (AE.CYCLES k) lastEdge else s
  let s := wr s (AE.LANE_STAT k) (rd s (AE.LANE_STAT k) |||
    word (ovf.toNat + 2 ^ 4 * unf.toNat + 2 ^ 8 * nodata.toNat))
  let s := evtIf (decide (ovf ≠ 0)) s (pgAE k) 3
  let s := evtIf (decide (unf ≠ 0)) s (pgAE k) 4
  let e := engOf s k
  let s := if e.chain ∧ e.events = 0 then
      onEng (noteFigure s (AE.OCCUPANCY k) e.offset.toNat) k (fun e => { e with chain := false })
    else s
  if e.haltReq then haltNow s k else s

/-- STOP (R572, R574): a stage that would still run when its count reaches LIMIT faults. -/
def execStop (k : Fin 12) (s : State) : Host.Outcome State Fault Refusal :=
  .next (match (engOf s k).stage with
    | none => s
    | some c =>
      let limit := rdf s (AE.LIMIT k) 0 16
      if limit ≤ c.free + 3 then engFault s k EngCause.LIMIT c.pc 0
      else if c.pc < 0x4000 ∧ 4 * c.pc ∈ (engOf s k).bad then engFault s k EngCause.ECC_PROG c.pc 0
      else endStage s k c.event (c.free + 4) c.lastEdge c.ovf c.unf c.nodata)

/-- ILLEGAL (R580): an opcode absent from the table. -/
def execIllegal (k : Fin 12) (s : State) : Host.Outcome State Fault Refusal :=
  .next (issue s k false [] [] 1 (fun c _ => .ctx c))

/-- LIMIT (R574): the cycle count of the running stage reaches AEk.LIMIT. -/
def execLimit (k : Fin 12) (s : State) : Host.Outcome State Fault Refusal :=
  .next (match (engOf s k).stage with
    | none => s
    | some c => engFault s k EngCause.LIMIT c.pc 0)

-- scrubbing

/-- The input-block word at local address `a` has an uncorrectable error (R563): a band record, by its index or its value word,
shows NODATA, any other word 0. -/
def spoilBlock (b : InBlock) (a : Nat) : InBlock :=
  let i := (a - 0x10000) / 4
  let o := i % 16
  let v := i / 2 * 2 + 1
  let w := if o < 6 then b.words.set v (setFld (b.words.getD v 0) 8 24 0x800000) else b.words.set i 0
  let f := i / 16 * 16 + 15
  { b with words := w.set f (setFld (w.getD f 0) 8 1 1) }

/-- SRAM_SCRUB (R563, R589, Table 13.8). -/
def execSramScrub (k : Fin 12) (addr : Nat) (uncorrectable : Bool) (s : State) : Host.Outcome State Fault Refusal :=
  let a := addr / 4 * 4
  .next (when (decide (a < 0x60000)) s (fun s =>
    let s := evt s (pgAE k) 5
    if uncorrectable then
      let s := bumpSat s (AE.ECC_STAT k) 16 16 1
      if 0x10000 ≤ a ∧ a < 0x10100 then onEng s k (fun e => { e with block := spoilBlock e.block a })
      else
        let s := onEng s k (fun e => { e with bad := if e.bad.contains a then e.bad else a :: e.bad })
        if a < 0x10000 then engFault s k EngCause.ECC_PROG (a / 4) 0 else s
    else bumpSat s (AE.ECC_STAT k) 0 16 1))

-- events

/-- VECTe of engine `k`. -/
def vectOf (s : State) (k e : Nat) : Word := rd s (AE.VECT0 k + 4 * e)

/-- Raises event `e` of Table 13.4 (R570, R573). -/
def raiseEvent (s : State) (k e : Nat) : State :=
  let x := engOf s k
  if x.run ≠ .running ∨ !bit (vectOf s k e) 15 then s
  else
    let merged := x.events.getLsbD e
    let s := onEng s k (fun x => { x with events := x.events ||| BitVec.ofNat 6 (2 ^ e) })
    if merged then evt (bumpSat s (AE.COUNTS k) 16 16 1) (pgAE k) 2 else s

/-- Whether the transfers of a TABLE_STAGE end on engine `k`: R596's event, and table_done. -/
def tableEvent (s : State) (k : Nat) : State := raiseEvent (evt s (pgAE k) 6) k 3

-- control

/-- PROG_CRC (R590). -/
def progCrc (e : EngineState) : Word := word (crc32c ((List.range 16384).flatMap (fun i => wordBytes (sramRead e (4 * i)))))

/-- Op = 1 (R590). -/
def runEngine (s : State) (w : Who) (k : Nat) : State :=
  checked s w (AE.CTRL k) (rejIf (decide ((engOf s k).run = .fault)) Rsn.BUSY) (fun s =>
    if (engOf s k).run = .halted then
      let s := wr s (AE.PROG_CRC k) (progCrc (engOf s k))
      let s := wr s (AE.CYCLES k) (setFld (rd s (AE.CYCLES k)) 16 16 0)
      let s := wr s (AE.OCCUPANCY k) (setFld (rd s (AE.OCCUPANCY k)) 16 16 0)
      onEng s k (fun e => { stageOver e with run := .running, events := 0, startIdx := now s, offset := 0, chain := false })
    else s)

def execRunEngine (p : Path) (k : Fin 12) (s : State) : Host.Outcome State Fault Refusal :=
  .next (gated s (some p) (AE.CTRL k) (fun s => runEngine s (some p) k))

/-- Op = 2 (R591). -/
def haltEngine (s : State) (w : Who) (k : Nat) : State :=
  checked s w (AE.CTRL k) (rejIf (decide (engSlots s k ≠ 0)) 0x41) (fun s =>
    if (engOf s k).run = .running then
      if (engOf s k).stage.isSome then onEng s k (fun e => { e with haltReq := true }) else haltNow s k
    else s)

def execHaltEngine (p : Path) (k : Fin 12) (s : State) : Host.Outcome State Fault Refusal :=
  .next (gated s (some p) (AE.CTRL k) (fun s => haltEngine s (some p) k))

/-- Op = 3 (R587). -/
def clearFault (s : State) (w : Who) (k : Nat) : State :=
  checked s w (AE.CTRL k) (rejIf (decide (engSlots s k ≠ 0)) 0x41) (fun s =>
    if (engOf s k).run = .fault then clearBlock (onEng s k (fun e => { e with run := .halted, cause := 0 })) else s)

def execClearFault (p : Path) (k : Fin 12) (s : State) : Host.Outcome State Fault Refusal :=
  .next (gated s (some p) (AE.CTRL k) (fun s => clearFault s (some p) k))

/-- Op = 4 (R570). -/
def execDoorbell (p : Path) (k : Fin 12) (s : State) : Host.Outcome State Fault Refusal :=
  .next (gated s (some p) (AE.CTRL k) (fun s => raiseEvent s k 4))

/-- Op = 5 (R597). -/
def clearStaging (s : State) (k : Nat) : State := onEng s k (fun e => { e with staging := [] })

def execClearStagingList (p : Path) (k : Fin 12) (s : State) : Host.Outcome State Fault Refusal :=
  .next (gated s (some p) (AE.CTRL k) (fun s => clearStaging s k))

/-- A write of AEk.CTRL (Table 13.10). -/
def aeCtrl (s : State) (w : Who) (k : Nat) (v : Word) : State :=
  match fld v 0 3 with
  | 1 => runEngine s w k
  | 2 => haltEngine s w k
  | 3 => clearFault s w k
  | 4 => raiseEvent s k 4
  | _ => clearStaging s k

/-- The transfer of a TABLE_STAGE (R594, R596): the words of the Vat at `src` into local memory at `dst`. -/
def stageCopy (s : State) (k src dst len : Nat) : State :=
  let ws := (List.range (len / 4)).map (fun i => (dst + 4 * i, vatWord s (src + 4 * i)))
  onEng s k (fun e => ws.foldl (fun e w => sramWrite e w.1 w.2) e)

/-- STAGING_REPLAY_DONE (R593): the entries of the staging list, replayed in order. -/
def execStagingReplayDone (k : Fin 12) (s : State) : Host.Outcome State Fault Refusal :=
  .next (when (decide (0 < (engOf s k).replay)) s (fun s =>
    let s := (engOf s k).staging.foldl (fun s g => stageCopy s k g.src g.dst g.len) s
    onEng s k (fun e => { e with replay := 0 })))

-- host access

/-- A host read of local address `a` (Table 13.2, R558): a reserved address reads 0. -/
def engHostRead (s : State) (k a : Nat) : Word :=
  let e := engOf s k
  if a < 0x10190 ∨ (0x10400 ≤ a ∧ a < 0x10440) ∨ (0x11000 ≤ a ∧ a < 0x60000) then engWord e e.block a else 0

/-- The refusal of a host write to local address `a` (Table 13.2, R558). -/
def engHostChk (s : State) (k a : Nat) : Option Rej :=
  if a < 0x10000 then rejIf (decide ((engOf s k).run ≠ .halted)) 0x40
  else if inData a then none
  else if inTables a then rejIf (decide (engSlots s k ≠ 0)) Rsn.BUSY
  else if a < 0x10190 ∨ (0x10400 ≤ a ∧ a < 0x10440) ∨ (0x11000 ≤ a ∧ a < 0x12000) then some ⟨Rsn.RO, none⟩
  else some ⟨Rsn.ADDR, none⟩

/-- A host write of one word through the engine's window; a refusal is reported in AEk.ERRCODE (R558). -/
def engHostWrite (s : State) (w : Who) (k a : Nat) (v : Word) : State :=
  match engHostChk s k a with
  | some r => refuseOn s w (pgAE k) a r
  | none => onEng s k (fun e => sramWrite e a v)

-- the AE page

/-- The checks of a write to AE page `k`, offset `o` (R592, Table 13.11). -/
def aeChk (s : State) (k o : Nat) (w : Word) : Chk :=
  if 0x50 ≤ o ∧ o < 0x68 then { spec := rejIf (decide ((engOf s k).run ≠ .halted)) 0x40 }
  else if o = 0x90 then
    let ch := fld w 0 9
    { range := rejIf (decide (¬ (ch < 128 ∨ (192 ≤ ch ∧ ch < 384)))) Rsn.RANGE }
  else {}

/-- A write of SUB_DATA: entry j, whose words an entry with en = 0 empties (R564). -/
def subWrite (s : State) (k : Nat) (v : Word) : State :=
  let j := rdf s (AE.SUB_SEL k) 0 4
  let a := 0x10100 + 8 * j
  let changed := decide ((engOf s k).subs.getD j 0 ≠ v &&& 0x81ff)
  onEng s k (fun e =>
    let e := { e with subs := e.subs.set j (v &&& 0x81ff) }
    if changed then sramWrite (sramWrite e a 0) (a + 4) 0x80000000 else e)

/-- A delivered record of hub channel `ch` reaches the subscriptions (R564). -/
def subDeliver (s : State) (ch : Nat) (idx : Nat) (w : Word) : State :=
  { s with engines := s.engines.map (fun e => (List.range 16).foldl (fun e j =>
      let x := e.subs.getD j 0
      if bit x 15 ∧ fld x 0 9 = ch then sramWrite (sramWrite e (0x10100 + 8 * j) (word idx)) (0x10104 + 8 * j) w else e) e) }

/-- The checks of a commit of AE page `k` (R569, R639), `g` giving the settings it would leave. -/
def aeCommitChk (s : State) (k : Nat) (g : Nat → Word) : Chk :=
  let bands := (namedBands (rd s)).filter (fun b => decide (b.1 / 4 = k))
  { spec := firstSome [
      rejIf (bands.any (fun b => decide (fld (g (AE.BU k)) 0 10 % rawTicks s (b.2 / 4) ≠ 0))) 0x42,
      rejIf (overCycles g k) 0x45] }

def EngRun.code : EngRun → Nat
  | .halted => 0 | .running => 1 | .fault => 2

/-- STAT (Table 13.11). -/
def aeStatView (s : State) (k : Nat) : Word :=
  let e := engOf s k
  word (e.run.code + 2 ^ 4 * (match e.stage with | some c => c.event + 1 | none => 0) + 2 ^ 8 * e.events.toNat +
    2 ^ 16 * engSlots s k + 2 ^ 24 * e.cause)

/-- The computed registers of AE page `k`. -/
def aeView (s : State) (k o : Nat) : Option Word :=
  match o with
  | 0x44 => some (aeStatView s k)
  | 0x90 => some ((engOf s k).subs.getD (rdf s (AE.SUB_SEL k) 0 4) 0)
  | 0x94 => some (word (engOf s k).staging.length)
  | _ => none

/-- PAGE_STAT summary of AE page `k`. -/
def aeSummary (s : State) (k : Nat) : Nat := (engOf s k).run.code + 2 ^ 2 * engSlots s k

end Sys2Proof.Machine
end

