-- ==== Sys2Proof/Machine/Mailbox.lean ====
section
/-!
DEFINITION. The command mailbox (spec/11, R495 to R502, R507, R508): submission, the journal and its entries.
Marked choices: DEDUCED, log entry 54.
-/
namespace Sys2Proof.Machine

-- opcodes (Table 11.5)
abbrev Opc.NOP : Nat := 0x01
abbrev Opc.TRANSFER : Nat := 0x02
abbrev Opc.REAM_STORE : Nat := 0x10
abbrev Opc.CAL_STORE : Nat := 0x11
abbrev Opc.FUSE_WRITE : Nat := 0x12
abbrev Opc.ZIP_JOB : Nat := 0x20
abbrev Opc.TABLE_STAGE : Nat := 0x21

def opcKnown (o : Nat) : Bool :=
  decide (o = 0x01 ∨ o = 0x02 ∨ o = 0x10 ∨ o = 0x11 ∨ o = 0x12 ∨ o = 0x20 ∨ o = 0x21)
def opcPersistent (o : Nat) : Bool := decide (o = 0x10 ∨ o = 0x11 ∨ o = 0x12)
def opcSteps (o : Nat) : Nat := if o = 0x10 ∨ o = 0x11 then 3 else if o = 0x12 then 2 else 1

/-- The level that a command needs (Table 11.5, R761). -/
def opcLevel (o : Nat) (args : List Word) : Nat :=
  if o = 0x12 ∧ args.getD 0 0 = 3 then 2 else if opcPersistent o then 1 else 0

-- results of Table 11.11
abbrev Res.OK : Nat := 0
abbrev Res.ARG : Nat := 1
abbrev Res.INTERRUPTED : Nat := 2
abbrev Res.REFUSED : Nat := 3

-- entries

/-- The entry is NEW, STARTED or STEP k OF m and was not left interrupted (PENDING). -/
def JEntry.live (e : JEntry) : Bool :=
  (match e.st with | .new => true | .started => true | .step => true | .done => false | .aborted => false) && !e.interrupted

/-- The entry executes. -/
def JEntry.runs (e : JEntry) : Bool :=
  (match e.st with | .started => true | .step => true | .new => false | .done => false | .aborted => false) && !e.interrupted

def pendingCount (s : State) : Nat := s.cmd.journal.countP (·.live)

/-- The command that executes. -/
def runningCmd (s : State) : Option JEntry := s.cmd.journal.find? (·.runs)

/-- The command that executes, if its opcode is `o`. -/
def runningOp (s : State) (o : Nat) : Option JEntry := s.cmd.journal.find? (fun e => e.runs && decide (e.opcode = o))

def onEntry (s : State) (q : Seq32) (f : JEntry → JEntry) : State :=
  { s with cmd := { s.cmd with journal := s.cmd.journal.map (fun e => if e.seq = q then f e else e) } }

def JState.code : JState → Nat
  | .new => 0 | .started => 1 | .step => 2 | .done => 3 | .aborted => 4

/-- The entry of kind 2 that the end of a persistent command makes (R768, Table 18.4): for FUSE_WRITE the field and the slot
programmed. The level is that of the path at submission. -/
def changeCmd (s : State) (e : JEntry) (st : JState) (slot : Nat) : State :=
  if e.persistent then
    let fuse := if e.opcode = Opc.FUSE_WRITE then (e.args.getD 0 0).toNat % 4 * 2 ^ 12 + slot % 4 * 2 ^ 14 else 0
    changeEntry s 2 e.level e.path (e.opcode + 2 ^ 8 * st.code + fuse) e.seq.toNat 0 0
  else s

/-- A command ends DONE or ABORTED (Table 11.11). -/
def endCmdSlot (s : State) (e : JEntry) (st : JState) (status detail slot : Nat) : State :=
  let s := onEntry s e.seq (fun x => { x with
    st := st, status := status, detail := detail, k := if st = .done then x.m else x.k })
  evt (changeCmd s e st slot) pgCMD 1

def endCmd (s : State) (e : JEntry) (st : JState) (status detail : Nat) : State := endCmdSlot s e st status detail 0

-- submission

/-- Submits the copies of a path (R495). -/
def submitCmd (s : State) (p : Path) : State :=
  let c := (pathOf s p).cmdRegs
  let o := (c.getD 0 0).toNat % 256
  let q := c.getD 1 0
  let args := c.drop 2
  let b := (s.cmd.nextSeq - 1 - q).toNat
  if q = s.cmd.nextSeq then
    checked s (some p) CMD.SUBMIT (firstSome [
        rejIf (opcKnown o && decide (pathLevel s p < opcLevel o args)) Rsn.LEVEL,
        rejIf (decide (s.pwr.st = .dusk)) Rsn.BUSY,
        rejIf (decide (16 ≤ pendingCount s)) 0x43,
        rejIf (!opcKnown o) 0x42]) (fun s =>
      let e : JEntry := ⟨q, o, .new, 0, opcSteps o, 0, 0, opcPersistent o, false, p, args, pathLevel s p, false⟩
      let l := s.cmd.journal ++ [e]
      let s := { s with cmd := { nextSeq := q + 1, journal := l.drop (l.length - 256) } }
      -- R758
      let s := if o = Opc.FUSE_WRITE then
          onPath s p (fun t => { t with cmdRegs := (((t.cmdRegs.set 3 0).set 4 0).set 5 0).set 6 0 }) else s
      evt s pgCMD 0)
  else if b < 256 then wr s CMD.JSEL q
  else if b < 2 ^ 31 then refuse s (some p) CMD.SUBMIT ⟨0x41, none⟩
  else refuse s (some p) CMD.SUBMIT ⟨0x40, some (s.cmd.nextSeq.toNat % 2 ^ 16)⟩

/-- A path writes opcode, sequence and arguments and then SUBMIT. -/
def submitAs (s : State) (p : Path) (o : Nat) (q : Seq32) (args : List Word) : State :=
  gated s (some p) CMD.SUBMIT (fun s =>
    submitCmd (onPath s p (fun t => { t with
      cmdRegs := [word (o % 256), q] ++ (List.range 8).map (fun i => args.getD i 0) })) p)

def execCmdNop (p : Path) (seq : Seq32) (args : List Word) (s : State) : Host.Outcome State Fault Refusal :=
  .next (submitAs s p Opc.NOP seq args)

def execCmdTransfer (p : Path) (seq : Seq32) (args : List Word) (s : State) : Host.Outcome State Fault Refusal :=
  .next (submitAs s p Opc.TRANSFER seq args)

def execCmdReamStore (p : Path) (seq : Seq32) (args : List Word) (s : State) : Host.Outcome State Fault Refusal :=
  .next (submitAs s p Opc.REAM_STORE seq args)

def execCmdCalStore (p : Path) (seq : Seq32) (args : List Word) (s : State) : Host.Outcome State Fault Refusal :=
  .next (submitAs s p Opc.CAL_STORE seq args)

def execCmdFuseWrite (p : Path) (seq : Seq32) (args : List Word) (s : State) : Host.Outcome State Fault Refusal :=
  .next (submitAs s p Opc.FUSE_WRITE seq args)

def execCmdZipJob (p : Path) (seq : Seq32) (args : List Word) (s : State) : Host.Outcome State Fault Refusal :=
  .next (submitAs s p Opc.ZIP_JOB seq args)

def execCmdTableStage (p : Path) (seq : Seq32) (args : List Word) (s : State) : Host.Outcome State Fault Refusal :=
  .next (submitAs s p Opc.TABLE_STAGE seq args)

/-- UNKNOWN_OPCODE (R495): an opcode absent from Table 11.5. -/
def execUnknownOpcode (p : Path) (opcode : Nat) (seq : Seq32) (s : State) : Host.Outcome State Fault Refusal :=
  .next (if opcKnown (opcode % 256) then s else submitAs s p opcode seq [])

-- resets

/-- The journal after a reset (R500). -/
def journalReset (s : State) : State :=
  { s with cmd := { s.cmd with journal := s.cmd.journal.map (fun e0 =>
      let e := { e0 with parked := false }
      if e.persistent then (if e.runs then { e with interrupted := true } else e)
      else match e.st with
        | .done => e
        | .aborted => e
        | _ => { e with st := .aborted, status := Res.INTERRUPTED, detail := 0 }) } }

-- views

/-- JOURNAL0 to JOURNAL3 of the entry that JSEL selects (Table 11.11). -/
def journalView (s : State) (i : Nat) : Word :=
  match s.cmd.journal.find? (fun e => decide (e.seq = rd s CMD.JSEL)) with
  | none => if i = 0 then rd s CMD.JSEL else if i = 1 then word (7 * 2 ^ 8) else 0
  | some e =>
    match i with
    | 0 => e.seq
    | 1 => word (e.opcode + 2 ^ 8 * e.st.code + 2 ^ 16 * e.k + 2 ^ 24 * e.m)
    | 2 => word (e.status + 2 ^ 8 * e.detail)
    | _ => word (b2n e.persistent + 2 * b2n e.interrupted + 2 ^ 8 * pathNum e.path)

/-- The computed registers of the CMD page, for path `p`. -/
def cmdView (s : State) (p : Path) (o : Nat) : Option Word :=
  if 0x40 ≤ o ∧ o < 0x68 then some ((pathOf s p).cmdRegs.getD ((o - 0x40) / 4) 0)
  else if o = 0x6c then some s.cmd.nextSeq
  else if o = 0x70 then some (word (pendingCount s))
  else if 0x78 ≤ o ∧ o < 0x88 then some (journalView s ((o - 0x78) / 4))
  else none

/-- A write of OPCODE, SEQ or an argument reaches the copy of the path. -/
def cmdRegWrite (s : State) (p : Path) (o : Nat) (v : Word) : State :=
  let i := (o - 0x40) / 4
  onPath s p (fun t => { t with cmdRegs := t.cmdRegs.set i (if i = 0 then v &&& 0xff else v) })

end Sys2Proof.Machine
end

