-- ==== Sys2Proof/Machine/Sha.lean ====
section
/-!
DEFINITION. SHA-256 (FIPS 180-4) and HMAC-SHA-256 (RFC 2104), which R763 and Table 20.1 name. Messages are lists of bytes as numbers
below 256.
Marked choices: DEDUCED, log entry 12.
-/
namespace Sys2Proof.Machine

-- constants: FIPS 180-4 takes them from the roots of the first primes

/-- The largest number below `r + 2 ^ k` whose power `e` does not pass `x`, found bit by bit. -/
def rootBits (e x : Nat) : Nat → Nat → Nat
  | 0, r => r
  | k + 1, r => rootBits e x k (if (r + 2 ^ k) ^ e ≤ x then r + 2 ^ k else r)

/-- The first 32 bits of the fraction of the root of order `e` of `p`. -/
def rootFraction (e p : Nat) : Word := word (rootBits e (p * 2 ^ (32 * e)) 40 0)

/-- The primes below 312, of which there are 64. -/
def shaPrimes : List Nat :=
  (List.range 312).filter (fun p => decide (1 < p) && (List.range 18).all (fun d => decide (d < 2 ∨ p ≤ d ∨ p % d ≠ 0)))

/-- The constants of the rounds, and the hash value that the first block starts from. -/
def roundConstants : List Word := shaPrimes.map (rootFraction 3)
def firstHash : List Word := (shaPrimes.take 8).map (rootFraction 2)

-- one block

/-- The exclusive or of three rotations to the right. -/
def spin (x : Word) (i j k : Nat) : Word := x.rotateRight i ^^^ x.rotateRight j ^^^ x.rotateRight k

/-- The word that follows the sixteen words of a schedule window, oldest first. -/
def scheduleNext (w : List Word) : Word :=
  let a := w.getD 1 0
  let b := w.getD 14 0
  w.getD 0 0 + (a.rotateRight 7 ^^^ a.rotateRight 18 ^^^ (a >>> 3)) + w.getD 9 0 + (b.rotateRight 17 ^^^ b.rotateRight 19 ^^^ (b >>> 10))

/-- One round with its constant and its schedule word, on the eight working variables. -/
def shaRound (v : List Word) (k w : Word) : List Word :=
  let x (i : Nat) : Word := v.getD i 0
  let t := x 7 + spin (x 4) 6 11 25 + ((x 4 &&& x 5) ^^^ (~~~ (x 4) &&& x 6)) + k + w
  let u := spin (x 0) 2 13 22 + ((x 0 &&& x 1) ^^^ (x 0 &&& x 2) ^^^ (x 1 &&& x 2))
  [t + u, x 0, x 1, x 2, x 3 + t, x 4, x 5, x 6]

/-- The rounds: the window of the schedule moves on by a word in each. -/
def shaRounds : List Word → List Word → List Word → List Word
  | [], _, v => v
  | k :: t, w, v => shaRounds t (w.tail ++ [scheduleNext w]) (shaRound v k (w.headD 0))

/-- The words of a message, each of four bytes, most significant first. -/
def messageWords : List Nat → List Word
  | a :: b :: c :: d :: t => word (((a * 256 + b) * 256 + c) * 256 + d) :: messageWords t
  | _ => []

/-- The hash value after the blocks of sixteen words that remain. -/
def shaBlocks : Nat → List Word → List Word → List Word
  | 0, _, h => h
  | n + 1, m, h => shaBlocks n (m.drop 16) (List.zipWith (· + ·) h (shaRounds roundConstants (m.take 16) h))

-- the hash

/-- The word that four bytes spell, and the bytes of a word, most significant first. -/
def beBytesWord (l : List Nat) : Word := word (l.foldl (fun a b => 256 * a + b) 0)
def beWordBytes (w : Word) : List Nat := (netBytes 4 w.toNat).map (fun b => b.toNat)

/-- A message with its padding: a one, zeros, the length in bits in the last eight bytes of a block. -/
def padded (m : List Nat) : List Nat :=
  m ++ 0x80 :: List.replicate (63 - (m.length + 8) % 64) 0 ++ (netBytes 8 (8 * m.length)).map (fun b => b.toNat)

def sha256 (m : List Nat) : List Nat :=
  let w := messageWords (padded m)
  (shaBlocks (w.length / 16) w firstHash).flatMap beWordBytes

/-- HMAC-SHA-256 with a key of at most 64 bytes. -/
def hmac (key m : List Nat) : List Nat :=
  let block (pad : Nat) : List Nat := (key ++ List.replicate (64 - key.length) 0).map (Nat.xor pad)
  sha256 (block 0x5c ++ sha256 (block 0x36 ++ m))

end Sys2Proof.Machine
end

