-- ==== Sys2Proof/Machine/Nv.lean ====
section
/-!
DEFINITION. The NV store (R742 to R754, R775), the fuses (R755 to R762, R776), access levels by challenge and response (R763
to R767) and the registers of the change journal (R777).
Marked choices: DEDUCED, log entries 12, 65, 66.
-/
namespace Sys2Proof.Machine

-- two-slot objects

/-- The commit word of a slot equals its generation: step 3 of its store is complete (R744, R745). -/
def NvSlot.complete {α : Type} (x : NvSlot α) : Bool := decide (x.commit = some x.gen)

/-- A valid slot (R744): the commit word equals the generation, and the CRC matches. -/
def NvSlot.valid {α : Type} (x : NvSlot α) : Bool := x.complete && x.crcOk

/-- Of the slots that satisfy `p`, the one whose generation is ahead (R744). -/
def newestSlot {α : Type} (p : NvSlot α → Bool) (l : List (Option (NvSlot α))) : Option Nat :=
  match (l.getD 0 none).filter p, (l.getD 1 none).filter p with
  | none, none => none
  | some _, none => some 0
  | none, some _ => some 1
  | some a, some b => if decide (1 ≤ (b.gen - a.gen).toNat ∧ (b.gen - a.gen).toNat < 2 ^ 31) then some 1 else some 0

/-- The active slot (R744). -/
def activeSlot {α : Type} (l : List (Option (NvSlot α))) : Option Nat := newestSlot NvSlot.valid l

/-- The active slot with what it holds. -/
def activeOf {α : Type} (l : List (Option (NvSlot α))) : Option (NvSlot α) :=
  match activeSlot l with
  | some i => l.getD i none
  | none => none

/-- The newest complete slot is not valid and the other one serves in its place (R748). -/
def fellBack {α : Type} (l : List (Option (NvSlot α))) : Bool :=
  (activeSlot l).isSome && decide (activeSlot l ≠ newestSlot NvSlot.complete l)

/-- The slot that a store writes (R745). -/
def otherSlot {α : Type} (l : List (Option (NvSlot α))) : Nat :=
  match activeSlot l with
  | some 0 => 1
  | _ => 0

/-- Step 1 of a store (R745): the slot that is not active gets a header without a commit word, one generation on, and the content. -/
def writeSlot {α : Type} (l : List (Option (NvSlot α))) (x : α) : List (Option (NvSlot α)) :=
  l.set (otherSlot l) (some ⟨(match activeOf l with | some a => a.gen | none => 0) + 1, none, true, x⟩)

/-- A change to the slot that a store writes. -/
def onOther {α : Type} (l : List (Option (NvSlot α))) (f : NvSlot α → NvSlot α) : List (Option (NvSlot α)) :=
  l.modify (otherSlot l) (Option.map f)

/-- Step 3 of a store (R745): the commit word. -/
def commitSlot {α : Type} (l : List (Option (NvSlot α))) : List (Option (NvSlot α)) := onOther l (fun x => { x with commit := some x.gen })

/-- Step 2 of a store finds that the CRC of the content fails (R747). -/
def spoilSlot {α : Type} (l : List (Option (NvSlot α))) : List (Option (NvSlot α)) := onOther l (fun x => { x with crcOk := false })

/-- Dawn reads the two slots of an object (R742, R748): a slot with an uncorrectable word, or whose CRC fails, is no longer valid. -/
def readSlots {α : Type} (l : List (Option (NvSlot α))) (r : List NvRead) : List (Option (NvSlot α)) :=
  l.zipWith (fun x y => x.map (fun z => { z with crcOk := z.crcOk && y.crcOk && decide (y.uncorrectable = 0) })) r

/-- The counters of the reads (R742, Table 18.9). -/
def countReads (s : State) (r : List NvRead) : State :=
  let bad := (r.map (·.uncorrectable)).sum
  evtIf (decide (bad ≠ 0)) (bumpSat (bumpSat s NVM.ECC_STAT 0 16 (r.map (·.corrected)).sum) NVM.ECC_STAT 16 16 bad) pgNVM 2

-- the Ream image

/-- A register that the image never holds (R751). -/
def imageSkips (a : Nat) : Bool :=
  let p := pageOf a
  let o := offOf a
  decide (p = pgCMD ∨ a = RING.ADDR_TBL_LO ∨ a = RING.ADDR_TBL_HI ∨ o = Hdr.COMMIT ∨ o = Hdr.APPLY_AT_LO ∨ o = Hdr.APPLY_AT_HI ∨
    a = CAPT.ARM_AT_LO ∨ a = CAPT.ARM_AT_HI ∨ (0x60 ≤ p ∧ p < 0x90 ∧ (o = 0x54 ∨ o = 0x58)) ∨
    a = LITE.LATCH_AT_LO ∨ a = LITE.LATCH_AT_HI ∨ (p = pgLITE ∧ 0x300 ≤ o ∧ ((o - 0x300) % 0x20 = 4 ∨ (o - 0x300) % 0x20 = 8)) ∨
    (p = pgSTRM ∧ 0x100 ≤ o ∧ (o - 0x100) % 0x30 = 0x20))

/-- A register that the image can hold (R750): RW, RWS or RWL, of a block or of the header. -/
def imageReg (a : Nat) : Bool :=
  !imageSkips a &&
    (decide (offOf a = Hdr.PAGE_CTRL ∨ offOf a = Hdr.EVT_EN) ||
      (match rowAt a with
        | some r => (match r.acc with | .rw => true | .rws => true | .rwl => true | .ro => false | .w1c => false | .wo => false)
        | none => false))

/-- The image of the settings in force (R750), with a table range of `len` bytes at `base`. -/
def imageOf (s : State) (base len : Nat) : ReamImage :=
  { device := resetOf SYS.DEVICE, base := base, len := len
    regs := s.regs.filter (fun e => imageReg e.1), coef := s.flt.coef, poly := s.flt.poly
    strmSel := s.strmSel, captSel := s.captSel, subs := s.engines.map (·.subs)
    addrTable := s.addrTable, levels := s.levels
    progs := s.engines.map (fun e => e.sram.filter (fun w => decide (w.1 < 0x10000)))
    table := vatBytes s base len }

/-- The pairs of an image: its registers, and the words of its memories that are not 0. -/
def imagePairs (m : ReamImage) : Nat :=
  m.regs.length + m.coef.length + m.poly.length + m.strmSel.length + m.captSel.length +
    (m.subs.map (fun l => l.countP (fun w => decide (w ≠ 0)))).sum +
    (m.addrTable.map (fun e => 1 + (if e.2 / 2 ^ 32 = 0 then 0 else 1))).sum + m.levels.length

/-- The bytes of an image (REAM_LEN). -/
def imageLen (m : ReamImage) : Nat := 4096 + 8 * imagePairs m + 786432 + m.len

/-- The arguments of REAM_STORE and what it would store (R750, R752). -/
def reamStoreOk (s : State) (args : List Word) : Bool :=
  let a := (args.getD 0 0).toNat
  let n := (args.getD 1 0).toNat
  (args.drop 2).all (fun w => decide (w = 0)) && decide (n % 4 = 0 ∧ n ≤ 2097152) && (decide (n = 0) || inTable s a n) &&
    decide (imagePairs (imageOf s a n) ≤ 16384)

/-- The field set of CAL_STORE (R749). -/
def calSetOf (s : State) : CalSet :=
  { coefs := s.inCoefs, units := s.cal.units, temps := rd s CAL.T_CAL :: (List.range 4).map (fun i => rd s (HKC.TEMP i)) }

-- persistent commands

/-- The detail of a named reason: its code and the type of its page (R508). -/
def namedDetail (code typ : Nat) : Nat := code + 2 ^ 8 * typ

def fuseField (e : JEntry) : Nat := (e.args.getD 0 0).toNat

/-- The next blank slot of a fuse field. -/
def blankSlot (s : State) (f : Nat) : Option Nat :=
  let l := s.fuses.getD f []
  (List.range 4).find? (fun i => decide (l[i]? = some .blank))

/-- The value that FUSE_WRITE programs: the words ARG1 to ARG4, cut to the field's width (Table 18.3, R757). -/
def fuseArg (e : JEntry) : Nat :=
  let w i := (e.args.getD i 0).toNat
  let v := w 1 + 2 ^ 32 * w 2 + 2 ^ 64 * w 3 + 2 ^ 96 * w 4
  if fuseField e = 0 then v % 2 ^ 16 else if fuseField e = 3 then v % 2 ^ 32 else v % 2 ^ 128

def setFuse (s : State) (f i : Nat) (x : FuseSlot) : State :=
  { s with fuses := s.fuses.modify f (fun l => l.set i x) }

/-- A persistent command starts (R497, R749, R750, R752, R760, R761): its checks, and the content of step 1. -/
def persistentBegin (s : State) (e : JEntry) : State :=
  if e.opcode = Opc.REAM_STORE then
    if reamStoreOk s e.args then
      { s with nv := { s.nv with
        ream := writeSlot s.nv.ream (imageOf s (e.args.getD 0 0).toNat (e.args.getD 1 0).toNat) } }
    else endCmd s e .aborted Res.ARG 0
  else if e.opcode = Opc.CAL_STORE then
    if e.args.all (fun w => decide (w = 0)) then
      { s with nv := { s.nv with cal := writeSlot s.nv.cal (calSetOf s) } }
    else endCmd s e .aborted Res.ARG 0
  else if 3 < fuseField e then endCmd s e .aborted Res.ARG 0
  else if fuseField e = 3 ∧ !s.partSB then endCmd s e .aborted Res.REFUSED (namedDetail Rsn.PART 0x62)
  else if (blankSlot s (fuseField e)).isNone then endCmd s e .aborted Res.REFUSED (namedDetail 0x40 0x62)
  else s

/-- Step 3 of a store (R745): the commit word, on which the slot becomes the active one (R746). -/
def storeCommit (s : State) (e : JEntry) : State :=
  if e.opcode = Opc.REAM_STORE then
    evt (bumpSat { s with nv := { s.nv with ream := commitSlot s.nv.ream } } NVM.STORE_COUNT 0 16 1) pgNVM 1
  else evt (bumpSat { s with nv := { s.nv with cal := commitSlot s.nv.cal } } NVM.STORE_COUNT 16 16 1) pgNVM 1

/-- The readback of step 2 fails (R747): the slot that the store writes does not become valid. -/
def storeSpoiled (s : State) (e : JEntry) : State :=
  if e.opcode = Opc.REAM_STORE then { s with nv := { s.nv with ream := spoilSlot s.nv.ream } }
  else { s with nv := { s.nv with cal := spoilSlot s.nv.cal } }

/-- The slot that the running FUSE_WRITE has programmed: the newest that is not blank. -/
def programmedSlot (s : State) (f : Nat) : Nat :=
  let l := s.fuses.getD f []
  (List.range 4).foldl (fun a i => if l[i]? = some .blank then a else i) 0

/-- A step of the running persistent command is complete; `ok` is false where the check of step 2 fails (R745, R747, R757). -/
def stepDone (s : State) (e : JEntry) (ok : Bool) : State :=
  let k := e.k + 1
  let s := onEntry s e.seq (fun x => { x with st := .step, k := k })
  let e := { e with st := .step, k := k }
  if e.opcode = Opc.FUSE_WRITE then
    let f := fuseField e
    if k = 1 then
      match blankSlot s f with
      | some i => evt (setFuse s f i (.written (fuseArg e))) pgFUSE 0
      | none => s
    else
      let i := programmedSlot s f
      if ok then endCmdSlot s e .done Res.OK 0 i
      else endCmdSlot (setFuse s f i .void) e .aborted Res.ARG (namedDetail 0x44 0x62) i
  else if k = 2 ∧ !ok then endCmd (storeSpoiled s e) e .aborted Res.ARG (namedDetail 0x40 0x61)
  else if e.m ≤ k then endCmd (storeCommit s e) e .done Res.OK 0
  else s

/-- PERSISTENT_STEP_DONE (R497). -/
def execPersistentStepDone (ok : Bool) (s : State) : Host.Outcome State Fault Refusal :=
  .next (match runningCmd s with
    | some e => if e.persistent then stepDone s e ok else s
    | none => s)

/-- A reset meets a persistent command in the middle (R500, R746, R759): the slot that a store was writing has no commit word; a fuse
slot that step 1 was programming is void. -/
def nvInterrupt (s : State) : State :=
  match runningOp s Opc.FUSE_WRITE with
  | some e => if e.k = 0 then
      (match blankSlot s (fuseField e) with | some i => setFuse s (fuseField e) i .void | none => s) else s
  | none => s

-- access levels

/-- The 16 bytes of a key, most significant first (R757). -/
def keyBytes (v : Nat) : List Nat := (List.range 16).map (fun i => v / 2 ^ (8 * (15 - i)) % 256)

/-- TWIN_CHECK and SVC_CHECK (R755); a blank key counts as zeros. -/
def keyCheck (s : State) (f : Nat) : Nat := crc32c (keyBytes (fuseValue s f)) % 2 ^ 16

/-- The response that R763 expects from path `p` to challenge `c`. -/
def authResponse (s : State) (p : Path) (c : List Word) : List Word :=
  let msg := c.flatMap beWordBytes ++ beWordBytes (word (s.serial / 2 ^ 32)) ++ beWordBytes (word s.serial) ++ [pathNum p]
  let h := hmac (keyBytes (fuseValue s 2)) msg
  (List.range 8).map (fun i => beBytesWord ((h.drop (4 * i)).take 4))

/-- CHAL0_READ (R763): a fresh challenge, CHAL0 to CHAL3 latched for the path. -/
def chal0Read (s : State) (p : Path) : State :=
  let c := Config.challenge s.freeCtr
  let l : List Word := (List.range 4).map (fun i => c.extractLsb' (32 * (3 - i)) 32)
  let s := drawn s
  onPath s p (fun t => { t with
    challenge := some l
    latched := (List.range 4).foldl (fun m i => sparseSet m (FUSE.CHAL i) (l.getD i 0)) t.latched })

def execChal0Read (p : Path) (s : State) : Host.Outcome State Fault Refusal := .next (if hostReady s then chal0Read s p else s)

/-- CHALLENGE_EXPIRY (R764). -/
def execChallengeExpiry (p : Path) (s : State) : Host.Outcome State Fault Refusal :=
  .next (onPath s p (fun t => { t with challenge := none }))

/-- A refused AUTH = 1: the challenge is used up, the refusal counted and journalled (R764, R765, R768). -/
def authRefused (s : State) (p : Path) (reason : Nat) : State :=
  let s := onPath s p (fun t => { t with challenge := none })
  let s := changeEntry s 4 (pathLevel s p) p 0 FUSE.AUTH 0 0
  let s := refuse (bumpSat s FUSE.AUTH_STAT 16 16 1) (some p) FUSE.AUTH ⟨reason, none⟩
  if reason = 0x41 then
    let s := evt (bumpSat s FUSE.AUTH_STAT 4 4 1) pgFUSE 1
    if 3 ≤ rdf s FUSE.AUTH_STAT 4 4 then evt (wr s FUSE.AUTH_STAT (setFld (rd s FUSE.AUTH_STAT) 2 1 1)) pgFUSE 2 else s
  else evtIf (decide (reason = 0x43)) s pgFUSE 1

/-- AUTH = 1 (R763 to R765). -/
def authEnter (s : State) (p : Path) : State :=
  let t := pathOf s p
  if rdb s FUSE.AUTH_STAT 2 then authRefused s p 0x42
  else match t.challenge with
    | none => authRefused s p 0x43
    | some c =>
      if t.response = authResponse s p c then
        let s := onPath s p (fun t => { t with challenge := none, service := true })
        let s := wr s FUSE.AUTH_STAT (setFld (rd s FUSE.AUTH_STAT) 4 4 0)
        changeEntry s 3 (pathLevel s p) p 0 FUSE.AUTH 0 0
      else authRefused s p 0x41

def execAuthEnter (p : Path) (s : State) : Host.Outcome State Fault Refusal :=
  .next (gated s (some p) FUSE.AUTH (fun s => authEnter s p))

/-- AUTH_LEAVE (R766). -/
def execAuthLeave (p : Path) (s : State) : Host.Outcome State Fault Refusal :=
  .next (gated s (some p) FUSE.AUTH (fun s => lapse s p))

/-- A write of FUSE.AUTH (Table 18.10). -/
def authWrite (s : State) (p : Path) (v : Word) : State :=
  if v = 1 then authEnter s p else if v = 0 then lapse s p else refuse s (some p) FUSE.AUTH ⟨Rsn.RANGE, none⟩

/-- A write of RESP0 to RESP7: the words of one path. -/
def respWrite (s : State) (p : Path) (i : Nat) (v : Word) : State :=
  onPath s p (fun t => { t with response := t.response.set i v })

/-- SVC_TIMEOUT (R766). -/
def execSvcTimeout (p : Path) (s : State) : Host.Outcome State Fault Refusal := .next (lapse s p)

/-- LOCKOUT_END (R765). -/
def execLockoutEnd (s : State) : Host.Outcome State Fault Refusal :=
  .next (when (rdb s FUSE.AUTH_STAT 2) s (fun s =>
    wr s FUSE.AUTH_STAT (setFld (setFld (rd s FUSE.AUTH_STAT) 2 1 0) 4 4 0)))

/-- NSCONF_ASSERTED (R767). -/
def execNsconfAsserted (s : State) : Host.Outcome State Fault Refusal := .next { s with pins := { s.pins with nsconf := false } }

/-- NSCONF_RELEASE (R767). -/
def execNsconfRelease (s : State) : Host.Outcome State Fault Refusal := .next { s with pins := { s.pins with nsconf := true } }

-- views

/-- NVM.STAT.busy: a store runs. -/
def nvBusy (s : State) : Bool := (runningOp s Opc.REAM_STORE).isSome || (runningOp s Opc.CAL_STORE).isSome

def slotView {α : Type} (l : List (Option (NvSlot α))) : Word :=
  let a := (activeSlot l).getD 0
  word (a + 2 * b2n ((l.getD (1 - a) none).any NvSlot.valid))

def genView {α : Type} (l : List (Option (NvSlot α))) : Word :=
  match activeOf l with | some x => x.gen | none => 0

/-- The computed registers of the NVM page. -/
def nvmView (s : State) (o : Nat) : Option Word :=
  match o with
  | 0x40 => some (rd s NVM.STAT ||| bitW 0 (nvBusy s))
  | 0x44 => some (slotView s.nv.ream)
  | 0x48 => some (genView s.nv.ream)
  | 0x4c => some (slotView s.nv.cal)
  | 0x50 => some (genView s.nv.cal)
  | 0x54 => some (match activeOf s.nv.ream with | some x => word (imageLen x.content) | none => 0)
  | _ => none

/-- FIELD_STAT: the slots written and void of field `f`. -/
def fieldStat (s : State) (f : Nat) : Nat :=
  (s.fuses.getD f []).zipIdx.foldl (fun a x => match x.1 with
    | .written _ => a + 2 ^ x.2
    | .void => a + 2 ^ (4 + x.2)
    | .blank => a) 0

/-- The computed registers of the FUSE page, for path `p`. -/
def fuseView (s : State) (p : Path) (o : Nat) : Option Word :=
  match o with
  | 0x40 => some (word ((List.range 4).foldl (fun a f => a + 2 ^ (8 * f) * fieldStat s f) 0))
  | 0x44 => some (word (fuseValue s 0))
  | 0x48 => some (word (keyCheck s 1))
  | 0x4c => some (word (keyCheck s 2))
  | 0x50 => some (word (fuseValue s 3))
  | 0x54 => some (bitW 0 s.partSB)
  | 0x8c => some (word ((rd s FUSE.AUTH_STAT).toNat + pathLevel s p))
  | _ => none

/-- Words 0 to 7 of a change-journal entry (Table 18.4); one that is not held reads kind 0 in every word. -/
def changeWords (s : State) (q : Seq32) : List Word :=
  match s.changes.entries.find? (fun e => decide (e.seq = q)) with
  | some e =>
    let l := e.seq :: e.words
    l ++ [word (crc32c (l.flatMap wordBytes))]
  | none => List.replicate 8 0

/-- The computed registers of the JRNL page. -/
def jrnlView (s : State) (o : Nat) : Option Word :=
  let l := s.changes.entries
  match o with
  | 0x44 => some (match l with | e :: _ => e.seq | [] => 0)
  | 0x48 => some (s.changes.next - 1)
  | 0x4c => some (word (l.length + 2 ^ 16 * l.countP (·.safety)))
  | _ => if 0x50 ≤ o ∧ o < 0x70 then some ((changeWords s (rd s JRNL.SEL)).getD ((o - 0x50) / 4) 0) else none

end Sys2Proof.Machine
end

