-- ==== Sys2Proof/Machine/Deflate.lean ====
section
/-!
DEFINITION. DEFLATE and its zlib wrapper (spec/17, R711 to R721): the decoder with the errors of Table 17.5, the encoder of
R712 and R714, and the delta preconditioner. Bytes are numbers below 256, bits are lists in the order of RFC 1951.
Marked choices: DESIGN CHOICE, log entries 10, 63.
-/
namespace Sys2Proof.Machine

-- error codes of Table 17.5
abbrev ZErr.BTYPE : Nat := 0x01
abbrev ZErr.STORLEN : Nat := 0x02
abbrev ZErr.HUFFDEF : Nat := 0x03
abbrev ZErr.SYMBOL : Nat := 0x04
abbrev ZErr.DIST : Nat := 0x05
abbrev ZErr.TRUNC : Nat := 0x06
abbrev ZErr.LENOVR : Nat := 0x07
abbrev ZErr.ZHDR : Nat := 0x08
abbrev ZErr.ADLER : Nat := 0x09
abbrev ZErr.OUTFULL : Nat := 0x10
abbrev ZErr.ECC : Nat := 0x11
abbrev ZErr.STREAM : Nat := 0x12
abbrev ZErr.ABORT : Nat := 0x13
abbrev ZErr.BADARG : Nat := 0x14

-- bits and bytes

/-- The eight bits of a byte, least significant first. -/
def byteBits (b : Nat) : List Bool := (List.range 8).map (fun i => b.testBit i)

/-- The low `n` bits of a number, least significant first. -/
def lowBits (n v : Nat) : List Bool := (List.range n).map (fun i => v.testBit i)

/-- The low `n` bits of a number, most significant first: a Huffman code. -/
def codeBits (n v : Nat) : List Bool := (lowBits n v).reverse

/-- The number that bits spell, least significant first. -/
def bitsNat (l : List Bool) : Nat := l.foldr (fun b a => 2 * a + (if b then 1 else 0)) 0

/-- The next `n` bits as a number. -/
def takeBits (n : Nat) (l : List Bool) : Option (Nat × List Bool) :=
  if l.length < n then none else some (bitsNat (l.take n), l.drop n)

/-- Bits packed into bytes, the last one filled with zeros. -/
def packBits : Nat → List Bool → List Nat
  | 0, _ => []
  | _ + 1, [] => []
  | fuel + 1, b :: t => bitsNat ((b :: t).take 8) :: packBits fuel ((b :: t).drop 8)

/-- Adler-32 (RFC 1950). -/
def adler32 (l : List Nat) : Nat :=
  let r := l.foldl (fun (a : Nat × Nat) b => ((a.1 + b) % 65521, (a.2 + a.1 + b) % 65521)) (1, 0)
  r.2 * 65536 + r.1

-- codes

/-- A canonical Huffman code: how many codes have each length from 1 to 15, the symbols in code order. -/
structure Huff where
  counts : List Nat
  syms : List Nat
deriving DecidableEq, Repr

def mkHuff (lens : List Nat) : Huff :=
  { counts := (List.range 15).map (fun l => lens.countP (fun x => decide (x = l + 1)))
    syms := (List.range 15).flatMap (fun l =>
      (List.range lens.length).filter (fun i => decide (lens.getD i 0 = l + 1))) }

/-- Codes left over: 0 for a complete code, negative for an over-subscribed one. -/
def Huff.left (h : Huff) : Int := h.counts.foldl (fun (a : Int) (c : Nat) => 2 * a - c) 1

/-- What a code gives next: a symbol, an unused code, or the end of the input. -/
inductive Sym where
  | ok (s : Nat) (rest : List Bool)
  | unused
  | ended
deriving DecidableEq, Repr

def decodeSym (syms : List Nat) : List Nat → Nat → Nat → Nat → List Bool → Sym
  | [], _, _, _, _ => .unused
  | _ :: _, _, _, _, [] => .ended
  | c :: cs, code, first, index, b :: rest =>
    let code := code + (if b then 1 else 0)
    if code < first + c then .ok (syms.getD (index + (code - first)) 0) rest
    else decodeSym syms cs (2 * code) (2 * (first + c)) (index + c) rest

def Huff.next (h : Huff) (bits : List Bool) : Sym := decodeSym h.syms h.counts 0 0 0 bits

/-- Base and extra bits of the length codes 257 to 285 (RFC 1951, 3.2.5). -/
def lenBase : List Nat :=
  [3, 4, 5, 6, 7, 8, 9, 10, 11, 13, 15, 17, 19, 23, 27, 31, 35, 43, 51, 59, 67, 83, 99, 115, 131, 163, 195, 227, 258]
def lenExtra : List Nat :=
  [0, 0, 0, 0, 0, 0, 0, 0, 1, 1, 1, 1, 2, 2, 2, 2, 3, 3, 3, 3, 4, 4, 4, 4, 5, 5, 5, 5, 0]

/-- Base and extra bits of the distance codes. -/
def distBase : List Nat :=
  [1, 2, 3, 4, 5, 7, 9, 13, 17, 25, 33, 49, 65, 97, 129, 193, 257, 385, 513, 769, 1025, 1537, 2049, 3073, 4097, 6145,
   8193, 12289, 16385, 24577]
def distExtra : List Nat :=
  [0, 0, 0, 0, 1, 1, 2, 2, 3, 3, 4, 4, 5, 5, 6, 6, 7, 7, 8, 8, 9, 9, 10, 10, 11, 11, 12, 12, 13, 13]

def fixedLit : Huff :=
  mkHuff (List.replicate 144 8 ++ List.replicate 112 9 ++ List.replicate 24 7 ++ List.replicate 8 8)
def fixedDist : Huff := mkHuff (List.replicate 32 5)

-- decoding

/-- A decoder: output newest first, its length, the bits to come, the most bytes that it may produce. -/
structure Inf where
  out : List Nat
  len : Nat
  bits : List Bool
  cap : Nat
deriving DecidableEq, Repr

/-- A decoder after a part of its work, and the error that stopped it. -/
abbrev InfR := Inf × Option Nat

def infByte (s : Inf) (b : Nat) : InfR :=
  if s.cap ≤ s.len then (s, some ZErr.LENOVR) else ({ s with out := b :: s.out, len := s.len + 1 }, none)

/-- A match of length `n` at distance `d`. -/
def infCopy (d : Nat) : Nat → Inf → InfR
  | 0, s => (s, none)
  | n + 1, s =>
    match infByte s (s.out.getD (d - 1) 0) with
    | (s, none) => infCopy d n s
    | r => r

/-- The extra bits of a code and the decoder behind them. -/
def infExtra (s : Inf) (base n : Nat) : Option (Nat × Inf) :=
  (takeBits n s.bits).map (fun r => (base + r.1, { s with bits := r.2 }))

/-- The distance of a match of length `n`, and the match. -/
def infDist (dist : Huff) (n : Nat) (s : Inf) : InfR :=
  match dist.next s.bits with
  | .ended => (s, some ZErr.TRUNC)
  | .unused => (s, some ZErr.SYMBOL)
  | .ok c rest =>
    if 30 ≤ c then (s, some ZErr.SYMBOL)
    else match infExtra { s with bits := rest } (distBase.getD c 0) (distExtra.getD c 0) with
      | none => (s, some ZErr.TRUNC)
      | some (d, s) => if s.len < d then (s, some ZErr.DIST) else infCopy d n s

/-- The symbols of a compressed block up to its end-of-block code. -/
def infBody (lit dist : Huff) : Nat → Inf → InfR
  | 0, s => (s, some ZErr.TRUNC)
  | fuel + 1, s =>
    match lit.next s.bits with
    | .ended => (s, some ZErr.TRUNC)
    | .unused => (s, some ZErr.SYMBOL)
    | .ok c rest =>
      if c = 256 then ({ s with bits := rest }, none)
      else if 286 ≤ c then (s, some ZErr.SYMBOL)
      else
        let r := if c < 256 then infByte { s with bits := rest } c
          else match infExtra { s with bits := rest } (lenBase.getD (c - 257) 0) (lenExtra.getD (c - 257) 0) with
            | none => (s, some ZErr.TRUNC)
            | some (n, s) => infDist dist n s
        match r with
        | (s, none) => infBody lit dist fuel s
        | r => r

/-- The order of the code-length code lengths. -/
def clOrder : List Nat := [16, 17, 18, 0, 8, 7, 9, 6, 10, 5, 11, 4, 12, 3, 13, 2, 14, 1, 15]

/-- `n` lengths of three bits each, in the order of the code-length code. -/
def clLens : Nat → List Nat → List Bool → List (Nat × Nat) → Option (List (Nat × Nat) × List Bool)
  | 0, _, bits, acc => some (acc, bits)
  | _ + 1, [], bits, acc => some (acc, bits)
  | n + 1, o :: os, bits, acc =>
    match takeBits 3 bits with
    | none => none
    | some (v, rest) => clLens n os rest ((o, v) :: acc)

/-- The code lengths of a dynamic header, newest first, or an error. -/
def codeLens (h : Huff) (total : Nat) : Nat → List Nat → List Bool → Except Nat (List Nat × List Bool)
  | 0, acc, bits => if acc.length = total then .ok (acc, bits) else .error ZErr.HUFFDEF
  | fuel + 1, acc, bits =>
    if acc.length = total then .ok (acc, bits)
    else if total < acc.length then .error ZErr.HUFFDEF
    else match h.next bits with
      | .ended => .error ZErr.TRUNC
      | .unused => .error ZErr.HUFFDEF
      | .ok c rest =>
        if c < 16 then codeLens h total fuel (c :: acc) rest
        else
          let p := if c = 16 then (2, 3) else if c = 17 then (3, 3) else (7, 11)
          match takeBits p.1 rest with
          | none => .error ZErr.TRUNC
          | some (v, rest) =>
            match acc with
            | [] => if c = 16 then .error ZErr.HUFFDEF
              else codeLens h total fuel (List.replicate (p.2 + v) 0) rest
            | a :: t => codeLens h total fuel (List.replicate (p.2 + v) (if c = 16 then a else 0) ++ a :: t) rest

/-- A distance code that RFC 1951 allows: complete, or a single code of one bit, or none. -/
def distOk (h : Huff) : Bool :=
  decide (h.left = 0) || decide (h.counts.foldl (· + ·) 0 = 0) || decide (h.counts.foldl (· + ·) 0 = 1 ∧ h.counts.getD 0 0 = 1)

/-- A dynamic header: its two codes and the bits behind it, or an error. -/
def dynHeader (bits : List Bool) : Except Nat (Huff × Huff × List Bool) :=
  match takeBits 14 bits with
  | none => .error ZErr.TRUNC
  | some (v, rest) =>
    let nlit := v % 32 + 257
    let ndist := v / 32 % 32 + 1
    match clLens (v / 1024 + 4) clOrder rest [] with
    | none => .error ZErr.TRUNC
    | some (cl, rest) =>
      let h := mkHuff ((List.range 19).map (fun i => ((cl.find? (fun e => decide (e.1 = i))).map (·.2)).getD 0))
      if h.left ≠ 0 then .error ZErr.HUFFDEF
      else match codeLens h (nlit + ndist) 320 [] rest with
        | .error e => .error e
        | .ok (lens, rest) =>
          let l := lens.reverse
          let lit := mkHuff (l.take nlit)
          let dist := mkHuff (l.drop nlit)
          if lit.left ≠ 0 || !distOk dist then .error ZErr.HUFFDEF else .ok (lit, dist, rest)

/-- The bytes of a stored block. -/
def infStored : Nat → Inf → InfR
  | 0, s => (s, none)
  | n + 1, s =>
    match takeBits 8 s.bits with
    | none => (s, some ZErr.TRUNC)
    | some (b, rest) =>
      match infByte s b with
      | (t, none) => infStored n { t with bits := rest }
      | r => r

/-- One block behind its three header bits. -/
def infBlock (btype : Nat) (s : Inf) : InfR :=
  match btype with
  | 0 =>
    match takeBits 32 (s.bits.drop (s.bits.length % 8)) with
    | none => (s, some ZErr.TRUNC)
    | some (v, rest) =>
      if v / 65536 + v % 65536 ≠ 65535 then (s, some ZErr.STORLEN) else infStored (v % 65536) { s with bits := rest }
  | 1 => infBody fixedLit fixedDist (s.bits.length + 1) s
  | 2 =>
    match dynHeader s.bits with
    | .error e => (s, some e)
    | .ok (lit, dist, rest) => infBody lit dist (s.bits.length + 1) { s with bits := rest }
  | _ => (s, some ZErr.BTYPE)

/-- The blocks of a stream up to the final one. -/
def infBlocks : Nat → Inf → InfR
  | 0, s => (s, some ZErr.TRUNC)
  | fuel + 1, s =>
    match takeBits 3 s.bits with
    | none => (s, some ZErr.TRUNC)
    | some (v, rest) =>
      match infBlock (v / 2) { s with bits := rest } with
      | (s, none) => if v % 2 = 1 then (s, none) else infBlocks fuel s
      | r => r

/-- What a job over an input gives: output, input bytes consumed, error code, 0 for none. -/
structure ZipResult where
  out : List Nat
  used : Nat
  code : Nat
deriving DecidableEq, Repr

/-- A raw DEFLATE stream of at most `cap` output bytes. -/
def inflateRaw (input : List Nat) (cap : Nat) : InfR :=
  let bits := input.flatMap byteBits
  infBlocks (bits.length + 1) ⟨[], 0, bits, cap⟩

/-- Decompression (R711, Table 17.5). -/
def inflate (input : List Nat) (zlib : Bool) (cap : Nat) : ZipResult :=
  if zlib then
    match input with
    | cmf :: flg :: body =>
      if cmf % 16 ≠ 8 ∨ 7 < cmf / 16 ∨ (cmf * 256 + flg) % 31 ≠ 0 ∨ flg / 32 % 2 = 1 then ⟨[], 2, ZErr.ZHDR⟩
      else
        let r := inflateRaw body cap
        let out := r.1.out.reverse
        let left := r.1.bits.length / 8
        match r.2 with
        | some e => ⟨out, input.length - left, e⟩
        | none =>
          let tail := body.drop (body.length - left)
          if tail.length < 4 then ⟨out, input.length, ZErr.TRUNC⟩
          else if (tail.take 4).foldl (fun a b => 256 * a + b) 0 = adler32 out then ⟨out, input.length - left + 4, 0⟩
          else ⟨out, input.length - left + 4, ZErr.ADLER⟩
    | _ => ⟨[], input.length, ZErr.TRUNC⟩
  else
    let r := inflateRaw input cap
    ⟨r.1.out.reverse, input.length - r.1.bits.length / 8, r.2.getD 0⟩

-- encoding

/-- What a block is coded from: a literal, or a match. -/
inductive Tok where
  | lit (b : Nat)
  | ref (len dist : Nat)
deriving DecidableEq, Repr

/-- How many bytes from `i` and from `j` on agree, at most `n`. -/
def matchLen (data : Array Nat) (i j : Nat) : Nat → Nat
  | 0 => 0
  | n + 1 => if data.getD i 0 = data.getD j 0 then 1 + matchLen data (i + 1) (j + 1) n else 0

/-- The hash of the three bytes at `i`: the spec does not give the function (R714). -/
def hashAt (data : Array Nat) (i : Nat) : Nat := Config.zipHash (data.getD i 0) (data.getD (i + 1) 0) (data.getD (i + 2) 0)

/-- The longest match at `i` among the candidates, the nearest of equals; the search stops at 258. -/
def bestMatch (data : Array Nat) (i maxLen : Nat) (cands : List Nat) : Nat × Nat :=
  cands.foldl (fun best j =>
    if 258 ≤ best.1 then best
    else let n := matchLen data i j maxLen; if best.1 < n then (n, i - j) else best) (0, 0)

/-- The match that R714 finds at `i` in a block that ends at `stop`: length and distance, length 0 for none. -/
def findMatch (data : Array Nat) (depth i stop : Nat) : Nat × Nat :=
  if data.size < i + 3 then (0, 0)
  else
    let near := (List.range (min i 32768)).map (fun d => i - 1 - d)
    let cands := (near.filter (fun j => decide (hashAt data j = hashAt data i))).take depth
    let m := bestMatch data i (min 258 (stop - i)) cands
    if m.1 < 3 then (0, 0) else m

/-- The tokens from `i` to the end of the block (R714). -/
def tokens (data : Array Nat) (depth : Nat) (lz : Bool) (stop : Nat) : Nat → Nat → List Tok
  | 0, _ => []
  | fuel + 1, i =>
    if stop ≤ i then []
    else
      let m := findMatch data depth i stop
      let waits := lz && decide (i + 1 < stop) && decide (m.1 < (findMatch data depth (i + 1) stop).1)
      if m.1 = 0 ∨ waits then .lit (data.getD i 0) :: tokens data depth lz stop fuel (i + 1)
      else .ref m.1 m.2 :: tokens data depth lz stop fuel (i + m.1)

/-- The code of a length or a distance: the last entry of the bases that does not exceed it. -/
def codeOf (bases : List Nat) (v : Nat) : Nat := (bases.takeWhile (fun b => decide (b ≤ v))).length - 1

/-- A fixed literal/length code (RFC 1951, 3.2.6). -/
def fixedCode (s : Nat) : List Bool :=
  if s < 144 then codeBits 8 (48 + s) else if s < 256 then codeBits 9 (400 + (s - 144))
  else if s < 280 then codeBits 7 (s - 256) else codeBits 8 (192 + (s - 280))

def fixedTok : Tok → List Bool
  | .lit b => fixedCode b
  | .ref n d =>
    -- a length of 258 has its own code, behind the range of code 284
    let lc := codeOf lenBase n
    let dc := codeOf distBase d
    fixedCode (257 + lc) ++ lowBits (lenExtra.getD lc 0) (n - lenBase.getD lc 0) ++
      codeBits 5 dc ++ lowBits (distExtra.getD dc 0) (d - distBase.getD dc 0)

/-- A block coded as stored, behind `at'` bits of earlier output. -/
def storedBits (final : Bool) (block : List Nat) (at' : Nat) : List Bool :=
  let head := [final, false, false]
  let n := block.length
  head ++ List.replicate ((8 - (at' + 3) % 8) % 8) false ++ lowBits 16 n ++ lowBits 16 (65535 - n) ++ block.flatMap byteBits

def fixedBits (final : Bool) (toks : List Tok) : List Bool :=
  [final, true, false] ++ toks.flatMap fixedTok ++ fixedCode 256

/-- A block coded as dynamic. The spec gives the limits of the codes, not the codes (R712): the bits behind the block's header
are a free value, taken where they decode to the block behind the output that precedes it, `prior`, newest byte first. -/
def dynamicBits (final : Bool) (block prior : List Nat) (depth : Nat) (lz : Bool) : Option (List Bool) :=
  let b := Config.dynamicBlock block prior depth lz
  match infBlock 2 ⟨prior.take 32768, min prior.length 32768, b, prior.length + block.length⟩ with
  | (s, none) =>
    if s.bits = [] ∧ s.out.take block.length = block.reverse ∧ s.len = min prior.length 32768 + block.length then
      some ([final, false, true] ++ b)
    else none
  | _ => none

/-- The shortest of the three codings, stored before fixed before dynamic (R712). -/
def blockBits (final : Bool) (toks : List Tok) (block prior : List Nat) (depth : Nat) (lz : Bool) (at' : Nat) : List Bool :=
  let st := storedBits final block at'
  let fx := fixedBits final toks
  let two := if st.length ≤ fx.length then st else fx
  match dynamicBits final block prior depth lz with
  | some d => if d.length < two.length then d else two
  | none => two

/-- The blocks from `i` on, of an input of `total` bytes of which `data` is the beginning (R712). -/
def deflateFrom (data : List Nat) (arr : Array Nat) (total depth : Nat) (lz : Bool) : Nat → Nat → List Bool → List Bool
  | 0, _, acc => acc
  | fuel + 1, i, acc =>
    let stop := min (i + 16384) arr.size
    let block := (data.drop i).take (stop - i)
    let toks := tokens arr depth lz stop (stop - i) i
    let acc := acc ++ blockBits (decide (stop = total)) toks block (data.take i).reverse depth lz acc.length
    if stop = arr.size then acc else deflateFrom data arr total depth lz fuel stop acc

/-- The raw DEFLATE output of a compression (R712, R717). -/
def deflateRaw (data : List Nat) (depth : Nat) (lz : Bool) : List Nat :=
  let bits := if data.isEmpty then fixedBits true []
    else deflateFrom data data.toArray data.length depth lz (data.length / 16384 + 1) 0 []
  packBits (bits.length / 8 + 1) bits

/-- The FLG byte of Table 17.2. -/
def zlibFlg (depth : Nat) : Nat := if depth ≤ 3 then 0x01 else if depth ≤ 15 then 0x5e else if depth ≤ 63 then 0x9c else 0xda

/-- The bytes that the blocks before byte `k` of an input give: those that are whole (Table 17.5, ECC). -/
def deflateHead (data : List Nat) (zlib : Bool) (depth : Nat) (lz : Bool) (k : Nat) : List Nat :=
  let head := data.take (k / 16384 * 16384)
  let bits := if head.isEmpty then [] else deflateFrom head head.toArray data.length depth lz (head.length / 16384 + 1) 0 []
  (if zlib then [0x78, zlibFlg depth] else []) ++ packBits (bits.length / 8) bits

/-- Compression (R711 to R717). -/
def deflate (data : List Nat) (zlib : Bool) (depth : Nat) (lz : Bool) : List Nat :=
  let raw := deflateRaw data depth lz
  if zlib then
    let a := adler32 data
    [0x78, zlibFlg depth] ++ raw ++ [a / 2 ^ 24, a / 2 ^ 16 % 256, a / 2 ^ 8 % 256, a % 256]
  else raw

/-- The bound of R716 and R717. -/
def deflateBound (n : Nat) (zlib : Bool) : Nat :=
  (if n = 0 then 2 else n + 5 * ((n + 16383) / 16384)) + (if zlib then 6 else 0)

-- the delta preconditioner

/-- A little-endian number of four bytes, and the bytes of one. -/
def leNat (l : List Nat) : Nat := l.foldr (fun b a => 256 * a + b) 0
def leBytes (n : Nat) : List Nat := [n % 256, n / 256 % 256, n / 65536 % 256, n / 16777216 % 256]

/-- The slots of one period (R718, R720): `prev` holds I and V of each channel's last slot, channel by channel from the one
whose turn it is. -/
def deltaSlots (inverse : Bool) : Nat → List (Nat × Nat) → List Nat → List Nat
  | 0, _, l => l
  | fuel + 1, prev, l =>
    if l.length < 8 then l
    else match prev with
      | [] => l
      | (pi, pv) :: rest =>
        let i := leNat (l.take 4)
        let v := leNat ((l.drop 4).take 4)
        let i' := if inverse then (i + pi) % 2 ^ 32 else (i + 2 ^ 32 - pi) % 2 ^ 32
        let hi := if inverse then (v / 256 + pv / 256) % 2 ^ 24 else (v / 256 + 2 ^ 24 - pv / 256) % 2 ^ 24
        let v' := hi * 256 + v % 256
        let kept := if inverse then (i', v') else (i, v)
        leBytes i' ++ leBytes v' ++ deltaSlots inverse fuel (rest ++ [kept]) (l.drop 8)

/-- R718 and R720 over the whole input, periods of `p` bytes each. -/
def deltaPeriods (inverse : Bool) (h c p : Nat) : Nat → List Nat → List Nat
  | 0, l => l
  | _ + 1, [] => []
  | fuel + 1, a :: t =>
    let l := a :: t
    let n := if p = 0 then l.length else p
    let piece := l.take n
    piece.take h ++ deltaSlots inverse (piece.length / 8 + 1) (List.replicate c (0, 0)) (piece.drop h) ++
      deltaPeriods inverse h c p fuel (l.drop n)

def delta (inverse : Bool) (h c p : Nat) (l : List Nat) : List Nat := deltaPeriods inverse h c p (l.length + 1) l

end Sys2Proof.Machine
end

