-- ==== Sys2Proof/Machine/Kernel.lean ====
section
/-!
DEFINITION. The start of a stage (R571, R572) and the vendor kernel in ROM (R623 to R637): each kernel stage is applied as a
whole. The kernel's formulas are formed exactly, and each word it stores is rounded once as a BFP-24 word.
Marked choices: DESIGN CHOICE, log entry 15.
-/
namespace Sys2Proof.Machine

-- the kernel's memory (Table 14.6)

def kAddr (i off : Nat) : Nat := 0x11000 + 0x100 * i + off
def kWord (e : EngineState) (i off : Nat) : Word := sramRead e (kAddr i off)
def kVal (e : EngineState) (i off : Nat) : Frac := bfpVal (kWord e i off)
def kPut (s : State) (k i off : Nat) (w : Word) : State := onEng s k (fun e => sramWrite e (kAddr i off) w)
def kPutVal (s : State) (k i off : Nat) (x : Frac) : State := kPut s k i off (bfpWord x).1

/-- A word of the working set of slot `i`, by its offset in Table 14.7. -/
def pWord (e : EngineState) (i off : Nat) : Word := (e.params.getD i []).getD (off / 4) 0
def pVal (e : EngineState) (i off : Nat) : Frac := bfpVal (pWord e i off)
def pInt (e : EngineState) (i off : Nat) : Int := (pWord e i off).toInt
def pMode (e : EngineState) (i b : Nat) : Bool := bit (pWord e i 4) b

/-- A clamp between two fractions. -/
def clampF (lo hi x : Frac) : Frac := (x.max lo).min hi

/-- What a step of the kernel gives: its result, or the engine fault that ends it, with its cause and address. -/
abbrev KRes (α : Type) := Except (Nat × Nat) α

/-- The loads of the words at the addresses `as` (Table 13.8). -/
def kLoads (e : EngineState) (as : List Nat) : KRes (List Frac) :=
  match as.find? (fun a => e.bad.contains a) with
  | some a => .error (EngCause.ECC_DATA, a)
  | none => .ok (as.map (fun a => bfpVal (sramRead e a)))

/-- A table of `n` words at word `at'` of the slot's region, read at `x` with interpolation (R581). -/
def kTable (e : EngineState) (i at' : Nat) (n : Nat) (x : Frac) : KRes Frac :=
  if n = 0 ∨ 16384 < n then .error (EngCause.ADDR, 0)
  else (kLoads e (tabAddrs x n (0x20000 + 4 * at') i true)).map (tabValue x)

-- parameters

/-- The checks of Table 14.7, R625 and R636 on the words of a parameter block. -/
def paramsOk (s : State) (r : Nat) (p : List Word) : Bool :=
  let w := fun off => p.getD (off / 4) 0
  let v := fun off => bfpVal (w off)
  let i := fun off => (w off).toInt
  let one := Frac.ofInt 1
  let three := decide (axKind s r = 2)
  let room : Int := if three then 15360 else 16384
  let vel := rdf s (AE.CASCADE (r / 4)) 0 6 * buTicks s (r / 4)
  (!bit (w 4) 1 || bit (w 4) 0) && decide (1 ≤ i 0x0c ∧ i 0x0c ≤ 1000000) &&
    Frac.zero.le (v 0x10) && (v 0x10).le one && (v 0x18).le (v 0x14) && (v 0x14).le (v 0x1c) &&
    (Frac.mk 1 2048).le (v 0x18) && (v 0x18).le (v 0x1c) && decide (1000 ≤ i 0x20 ∧ i 0x20 ≤ 2000000) &&
    Frac.zero.lt (v 0x30) && decide (1 ≤ i 0x38) &&
    decide (0 ≤ i 0x3c ∧ i 0x3c ≤ 16384) && (!bit (w 4) 3 || decide (i 0x3c ≠ 0)) &&
    Frac.zero.le (v 0x40) && (v 0x40).le one && (Frac.mk 1 2).le (v 0x44) && (v 0x44).le one &&
    decide (0 ≤ i 0x48 ∧ i 0x48 ≤ 255) && decide (0 ≤ i 0x50 ∧ 1 ≤ i 0x54) && decide (0 ≤ i 0x5c ∧ 1 ≤ i 0x60) &&
    Frac.zero.lt (v 0x68) && (!three || decide (16 ≤ i 0x6c)) &&
    decide (i 0x3c + i 0x50 + i 0x5c ≤ room) &&
    (!bit (w 4) 3 || decide (i 0x3c * (vel : Int) ≤ (rcPeriod s r : Int)))

/-- A changed seq is taken up or refused (R624); the first set gives the starting half-widths. -/
def takeParams (s : State) (k i : Nat) : State :=
  let e := engOf s k
  let base := 0x12000 + 0x100 * i
  let seq := sramRead e base
  if seq = kWord e i 0 then s
  else
    let p := (List.range 29).map (fun j => sramRead e (base + 4 * j))
    if paramsOk s (4 * k + i) p then
      let first := decide (e.params.getD i [] = [])
      let s := onEng s k (fun e => { e with params := e.params.set i p, follow := e.follow.set i false })
      let s := kPut (kPut s k i 0 seq) k i 4 0
      if first then [0x1c, 0x20, 0x24].foldl (fun s o => kPut s k i o (p.getD 5 0)) s else s
    else kPut s k i 4 1

-- the band update

/-- The centres of R627. -/
def centres (s : State) (k i : Nat) (b : InBlock) : KRes (List Frac) :=
  let e := engOf s k
  let icmd := kVal e i 0x0c
  if axKind s (4 * k + i) = 2 then
    let x := (b.words.getD (16 * i + 12) 0).toInt
    let pitch := pInt e i 0x6c
    let ang := if pitch ≤ 0 then Frac.zero else Frac.mk ((x - pInt e i 0x70) % pitch * 1024) pitch.toNat
    let third := Frac.mk 1024 3
    [ang, ang.sub third, ang.add third].mapM (fun x => (kTable e i 15360 1024 x).map icmd.mul)
  else .ok [icmd]

/-- The crossing count n_c of R628. -/
def crossings (s : State) (k i c : Nat) (b : InBlock) : Nat :=
  let r := 4 * k + i
  let lower := decide (axKind s r = 1) && axBrake s r && !centrePositive (bandOf s (bandAin s r c))
  fld (b.words.getD (16 * i + 6 + 2 * c + b2n lower) 0) 0 16

/-- The half-width of band channel `c`. -/
def halfWidth (e : EngineState) (i c : Nat) : Frac := if pMode e i 2 then kVal e i (0x1c + 4 * c) else pVal e i 0x14

/-- The edges of one band channel (R627): the port word. -/
def edgeWord (z w : Frac) : Word :=
  let lo := Frac.ofInt (-1)
  let hi := Frac.mk 2047 2048
  word (dacCode (clampF lo hi (z.sub w)) + 2 ^ 16 * dacCode (clampF lo hi (z.add w)))

/-- The width update of R628. -/
def adaptWidth (s : State) (k i c : Nat) (b : InBlock) : State :=
  let e := engOf s k
  if pMode e i 2 then
    let n := Frac.ofInt (crossings s k i c b)
    let target := Frac.mk (pInt e i 0x20 * (buTicks s k : Int)) 10000000
    kPutVal s k i (0x1c + 4 * c)
      (clampF (pVal e i 0x18) (pVal e i 0x1c) ((kVal e i (0x1c + 4 * c)).add ((pVal e i 0x24).mul (n.sub target))))
  else kPut s k i (0x1c + 4 * c) (pWord e i 0x14)

/-- The BU stage on slot `i`. -/
def kernelBuSlot (s : State) (k i : Nat) (b : InBlock) : KRes State :=
  let r := 4 * k + i
  if slotOn (slotOf s r) then
    (centres s k i b).map (fun zs =>
      let e := engOf s k
      let s := (List.range (kindBands (axKind s r))).foldl (fun s c =>
        portWrite s k (0x10400 + 0x10 * i + 4 * c, edgeWord (zs.getD c Frac.zero) (halfWidth e i c))) s
      (List.range (kindBands (axKind s r))).foldl (fun s c => adaptWidth s k i c b) s)
  else .ok s

-- position

/-- The set-point entries due at index `n` are consumed (R629). -/
def consume (s : State) (k i n : Nat) : Nat → State
  | 0 => s
  | fuel + 1 =>
    let e := engOf s k
    let rdp := (kWord e i 8).toNat
    if kWord e i 8 = pWord e i 8 then s
    else
      let q := 0x13000 + 0x200 * i + 16 * (rdp % 32)
      let age := (n + 2 ^ 32 - (sramRead e q).toNat) % 2 ^ 32
      if age < 2 ^ 31 then
        let entry : SetPoint := ⟨true, n - age, (sramRead e (q + 4)).toInt, sramRead e (q + 8), sramRead e (q + 12), 0, 1⟩
        let s := onEng s k (fun e => { e with setpoint := e.setpoint.set i entry })
        consume (kPut s k i 8 (word (rdp + 1))) k i n fuel
      else s

/-- The POS stage on slot `i` (R629, R630). The queue's write count is that of the working set. -/
def kernelPosSlot (s : State) (k i : Nat) (b : InBlock) : State :=
  if slotOn (slotOf s (4 * k + i)) then
    let s := consume s k i b.idx 32
    let e := engOf s k
    let sp := e.setpoint.getD i {}
    let age := b.idx - sp.entry
    let late := !sp.seen || decide (pInt e i 0x0c * 10 < (age : Int))
    let vsp := if late then Frac.zero else bfpVal sp.vel
    let xref := if late then Frac.mk sp.refNum sp.refDen
      else (Frac.ofInt sp.pos).add (vsp.mul (Frac.mk age 10000000))
    let s := onEng s k (fun e => { e with setpoint := e.setpoint.set i { sp with refNum := xref.n, refDen := xref.d } })
    let x := (b.words.getD (16 * i + 12) 0).toInt
    let vmax := pVal e i 0x30
    let status := if late then 3 else if kWord e i 4 = 1 then 1 else 0
    if pMode e i 1 then
      let err := xref.sub (Frac.ofInt x)
      let s := kPut s k i 0x14 (wordI err.round)
      let s := kPutVal s k i 0x10 (clampF vmax.neg vmax (((pVal e i 0x34).mul err).add vsp))
      if e.follow.getD i false then kPut s k i 4 2
      else if (Frac.ofInt (pInt e i 0x38)).lt err.abs then
        let s := onEng s k (fun e => { e with follow := e.follow.set i true })
        kPutVal (kPutVal (kPut s k i 4 2) k i 0x0c Frac.zero) k i 0x18 Frac.zero
      else kPut s k i 4 status
    else
      let s := kPutVal s k i 0x10 (clampF vmax.neg vmax vsp)
      if e.follow.getD i false then s else kPut s k i 4 status
  else s

-- velocity

/-- A lookup by position (R637). -/
def spanTable (e : EngineState) (i at' : Nat) (n span origin x : Int) : KRes Frac :=
  if span ≤ 0 then .error (EngCause.ADDR, 0) else kTable e i at' n.toNat (Frac.mk ((x - origin) % span * n) span.toNat)

/-- The table point j of R634. -/
def rcPoint (s : State) (k i : Nat) (b : InBlock) : Frac :=
  Frac.mk ((fld (b.phase.getD i 0) 0 27 * (pInt (engOf s k) i 0x3c).toNat : Nat)) (max 1 (rcPeriod s (4 * k + i)))

/-- The learning step of R635. -/
def learn (s : State) (k i : Nat) (j e_v : Frac) : KRes State :=
  let e := engOf s k
  let n := pInt e i 0x3c
  let m := (j.floor - pInt e i 0x48) % n
  let at' := fun (q : Int) => 0x20000 + 0x10000 * i + 4 * (q % n).toNat
  (kLoads e [at' m, at' (m - 1), at' (m + 1)]).map (fun t =>
    let q := pVal e i 0x44
    let half := ((Frac.ofInt 1).sub q).mul (Frac.mk 1 2)
    let own := (t.getD 0 Frac.zero).add ((pVal e i 0x40).mul ((pVal e i 0x28).mul e_v))
    let v := (q.mul own).add (half.mul ((t.getD 1 Frac.zero).add (t.getD 2 Frac.zero)))
    let c := pVal e i 0x4c
    onEng s k (fun e => sramWrite e (at' m) (bfpWord (clampF c.neg c v)).1))

/-- rc_cycles counts each machine cycle in which the kernel has learned (Table 14.8). -/
def countCycle (s : State) (k i : Nat) (b : InBlock) : State :=
  let start := b.idx - fld (b.phase.getD i 0) 0 27
  if (engOf s k).rcCycle.getD i none = some start then s
  else kPut (onEng s k (fun e => { e with rcCycle := e.rcCycle.set i (some start) })) k i 0x28 (kWord (engOf s k) i 0x28 + 1)

/-- The input block of slot `i` shows nothing that stops learning (R635). -/
def cleanBlock (s : State) (r i : Nat) (b : InBlock) : Bool :=
  decide (fld (b.words.getD (16 * i + 15) 0) 0 8 &&& 0x1e = 0) && !bit (b.words.getD (16 * i + 15) 0) 8 &&
    (List.range (kindBands (axKind s r))).all (fun c => !isNodata (b.words.getD (16 * i + 1 + 2 * c) 0))

/-- u_rc, u_cog and u_fric of R631 at position `x` and velocity `v`, where the repetitive table is read at `j`. -/
def feedForwards (e : EngineState) (i : Nat) (rcOn : Bool) (j v : Frac) (x : Int) : KRes (Frac × Frac × Frac) := do
  let rcn := (pInt e i 0x3c).toNat
  let rc ← if rcOn then kTable e i 0 rcn j else .ok Frac.zero
  let cog ← if pMode e i 5 then spanTable e i rcn (pInt e i 0x50) (pInt e i 0x54) (pInt e i 0x58) x else .ok Frac.zero
  let sgn := if (pVal e i 0x68).le v.abs then Frac.ofInt v.n.sign else v.div (pVal e i 0x68)
  let fric ← if pMode e i 6 then
      (spanTable e i (rcn + (pInt e i 0x50).toNat) (pInt e i 0x5c) (pInt e i 0x60) (pInt e i 0x64) x).map sgn.mul
    else .ok Frac.zero
  return (rc, cog, fric)

/-- The velocity loop of slot `i` with vel_en = 1 (R631, R634, R635, R637). -/
def velocityLoop (s : State) (k i : Nat) (b : InBlock) : KRes State :=
  let r := 4 * k + i
  let e := engOf s k
  let imax := pVal e i 0x10
  let v := bfpVal (b.words.getD (16 * i + 14) 0)
  let x := (b.words.getD (16 * i + 12) 0).toInt
  let ev := (kVal e i 0x10).sub v
  let rcOn := pMode e i 3 && bit (b.phase.getD i 0) 31
  let j := rcPoint s k i b
  match feedForwards e i rcOn j v x with
  | .error f => .error f
  | .ok (rc, cog, fric) =>
    let ff := bfpVal (e.setpoint.getD i {}).ff
    let sum := ((((((pVal e i 0x28).mul ev).add (kVal e i 0x18)).add ff).add rc).add cog).add fric
    let icmd := clampF imax.neg imax sum
    let inside := icmd.abs.lt imax
    let s := kPutVal s k i 0x0c icmd
    let s := if inside then kPutVal s k i 0x18 ((kVal e i 0x18).add ((pVal e i 0x2c).mul ev)) else s
    let learns := rcOn && pMode e i 4 && !bit (b.phase.getD i 0) 30 && decide ((slotOf s r).st = .run) &&
      decide (kWord e i 4 = 0) && inside && cleanBlock s r i b
    if learns then (learn s k i j ev).map (fun s => countCycle s k i b) else .ok s

/-- The VEL stage on slot `i` (R630, R631). -/
def kernelVelSlot (s : State) (k i : Nat) (b : InBlock) : KRes State :=
  let e := engOf s k
  if slotOn (slotOf s (4 * k + i)) then
    if e.follow.getD i false then .ok (kPutVal s k i 0x0c Frac.zero)
    else if pMode e i 0 then velocityLoop s k i b
    else .ok (kPutVal s k i 0x0c (clampF (pVal e i 0x10).neg (pVal e i 0x10) (bfpVal (e.setpoint.getD i {}).ff)))
  else .ok s

-- stages

/-- The kernel's effect in a stage of event `ev` (R624, R627 to R637). -/
def kernelEffect (s : State) (k ev : Nat) (b : InBlock) : KRes State :=
  let slots := [0, 1, 2, 3]
  match ev with
  | 0 => slots.foldlM (fun s i => kernelBuSlot s k i b) (slots.foldl (fun s i => takeParams s k i) s)
  | 1 => .ok (slots.foldl (fun s i => kernelPosSlot s k i b) s)
  | 2 => slots.foldlM (fun s i => kernelVelSlot s k i b) s
  | _ => .ok s

/-- The place of a word in the set-point queue holds an entry that is not consumed (R629). -/
def queuedAt (e : EngineState) (i j : Nat) : Bool :=
  let rdp := kWord e i 8
  decide ((BitVec.ofNat 32 (j + 32 - rdp.toNat % 32) % 32).toNat < (pWord e i 8 - rdp).toNat)

/-- The kernel loads the word at address `a` in a stage of event `ev`, the tables apart: its state, seq in every BU stage and the
other parameters when seq has changed, and the queued set-points in POS. -/
def kernelLoads (s : State) (k ev a : Nat) : Bool :=
  let e := engOf s k
  (List.range 4).any (fun i =>
    let base := 0x12000 + 0x100 * i
    let queue := 0x13000 + 0x200 * i
    let on := slotOn (slotOf s (4 * k + i))
    (on && decide (kAddr i 0 ≤ a ∧ a < kAddr i 0x2c)) ||
      (decide (ev = 0) && (decide (a = base) || (decide (sramRead e base ≠ kWord e i 0 ∧ base < a ∧ a < base + 0x74)))) ||
      (on && decide (ev = 1) && decide (queue ≤ a ∧ a < queue + 0x200) && queuedAt e i ((a - queue) / 16)))

/-- A local word that the stage loads has an uncorrectable error. -/
def kernelBad (s : State) (k ev : Nat) : Option Nat := (engOf s k).bad.find? (kernelLoads s k ev)

/-- The largest cycle counts of Table 14.10: the last band-edge word leaves, the stage ends. -/
def kernelCycles (s : State) (k ev : Nat) : Nat × Nat :=
  let three := (List.range 4).any (fun i => decide (axKind s (4 * k + i) = 2))
  match ev with
  | 0 => if three then (215, 230) else (150, 160)
  | 1 => (0, 40)
  | 2 => (0, 120)
  | _ => (0, 40)

/-- A free value below `n`, and the state that has drawn it. -/
def drawBelow (s : State) (n : Nat) : Nat × State :=
  ((Config.freeWord s.freeCtr).toNat % (max 1 n), drawn s)

/-- A stage of the kernel, as a whole. Its cycle counts are free values within Table 14.10; one that reaches AEk.LIMIT faults (R574)
with all that the stage has stored. -/
def kernelStage (s : State) (k ev : Nat) : State :=
  let b := (engOf s k).block
  let pc := fld (vectOf s k ev) 0 15
  match kernelBad s k ev with
  | some a => engFault s k EngCause.ECC_DATA pc a
  | none =>
    match kernelEffect s k ev b with
    | .error f => engFault s k f.1 pc f.2
    | .ok s =>
      let top := kernelCycles s k ev
      let edges := decide (ev = 0) && decide (engSlots s k ≠ 0)
      let d := drawBelow s (top.2 + 1)
      let stop := d.1
      let d2 := drawBelow d.2 (min top.1 stop + 1)
      let leave := if edges then ((engOf s k).offset + d2.1).toNat else 0
      let late := edges && decide (budget s k < (engOf s k).offset + d2.1)
      let s := if late then evt (bumpSat d2.2 (AE.COUNTS k) 0 16 1) (pgAE k) 1 else d2.2
      if late && rdb s (AE.CFG k) 1 then engFault s k EngCause.LATE pc 0
      else if rdf s (AE.LIMIT k) 0 16 ≤ stop then engFault s k EngCause.LIMIT pc 0
      else endStage s k ev stop leave 0 0 0

/-- The event that an idle engine starts (R571). -/
def nextEvent (s : State) (k : Nat) : Option Nat :=
  match (List.range 5).find? (fun e => (engOf s k).events.getLsbD e) with
  | some e => some e
  | none => if bit (vectOf s k 5) 15 then some 5 else none

/-- A boundary has passed since the engine was started (R590). -/
def pastStart (s : State) (k : Nat) : Bool :=
  decide (0 < buTicks s k ∧ (engOf s k).startIdx / buTicks s k < now s / buTicks s k)

/-- STAGE_START (R546, R571, R572). -/
def execStageStart (k : Fin 12) (s : State) : Host.Outcome State Fault Refusal :=
  let e := engOf s k
  .next (when (decide (e.run = .running) && e.stage.isNone && pastStart s k) s (fun s =>
    match nextEvent s k with
    | none => s
    | some ev =>
      let s := onEng s k (fun e => { e with events := e.events &&& ~~~(BitVec.ofNat 6 (2 ^ ev)) })
      let pc := fld (vectOf s k ev) 0 15
      if 0x4000 ≤ pc then kernelStage s k ev
      else onEng s k (fun e => { e with stage := some { event := ev, pc := pc, role := twinRole s k e.block.idx, block := e.block } })))

end Sys2Proof.Machine
end

