-- ==== Sys2Proof/Machine/Zip.lean ====
section
/-!
DEFINITION. Compression and decompression jobs (spec/17, R711 to R731). The work of a job takes effect as a whole when the
job completes.
Marked choices: DESIGN CHOICE, log entry 63.
-/
namespace Sys2Proof.Machine

-- arguments (Table 17.4)

def zArg (e : JEntry) (i : Nat) : Nat := (e.args.getD i 0).toNat
def zDecompress (e : JEntry) : Bool := bit (e.args.getD 4 0) 0
def zZlib (e : JEntry) : Bool := bit (e.args.getD 4 0) 1
def zDelta (e : JEntry) : Bool := bit (e.args.getD 4 0) 2
def zStream (e : JEntry) : Bool := bit (e.args.getD 4 0) 3
def zLazy (e : JEntry) : Bool := bit (e.args.getD 4 0) 4
def zDepth (e : JEntry) : Nat := fld (e.args.getD 4 0) 8 9
def zC (e : JEntry) : Nat := fld (e.args.getD 5 0) 0 9
def zH (e : JEntry) : Nat := 8 * fld (e.args.getD 5 0) 16 8
def zP (e : JEntry) : Nat := zArg e 6
def zDest (e : JEntry) : Nat := zArg e 2 % 64

/-- Two ranges of bytes, base and length, share a byte. -/
def overlap (a n b m : Nat) : Bool := decide (0 < n ∧ 0 < m ∧ a < b + m ∧ b < a + n)

/-- The ranges of the envelopes of reams that are not IDLE meet `a`, `n`. -/
def meetsEnvelope (s : State) (a n : Nat) : Bool := (envelopes s).any (fun e => overlap a n e.1 e.2)

/-- The stream is named by an armed ream (R723). -/
def spillTarget (s : State) (i : Nat) : Bool :=
  (List.range 16).any (fun r => reamArmed (reamOf s r) && rmSpill s r && decide (rmStream s r = i))

/-- The checks of R723. -/
def zipArgsOk (s : State) (e : JEntry) : Bool :=
  let a0 := zArg e 0
  let n := zArg e 1
  let a2 := zArg e 2
  let cap := zArg e 3
  let st := (strmOf s (zDest e)).st
  decide (a0 + n ≤ vatSize) &&
    (if zStream e then decide (strmSource s (zDest e) = 2 ∧ (st = .admitted ∨ st = .running)) && !spillTarget s (zDest e)
     else inTable s a2 cap && !overlap a2 cap a0 n && !meetsEnvelope s a2 cap) &&
    (zDecompress e || decide (1 ≤ zDepth e ∧ zDepth e ≤ 256)) &&
    (!zDelta e || decide (1 ≤ zC e ∧ zC e ≤ 384 ∧ (zP e = 0 ∨ (zP e % 8 = 0 ∧ zH e + 8 ≤ zP e)))) &&
    decide (zArg e 7 = 0 ∧ e.args.getD 4 0 &&& 0xfffe00e0 = 0 ∧ e.args.getD 5 0 &&& 0xff00fe00 = 0)

/-- JOURNAL2.detail of an error of Table 17.5 (R728). -/
def zipDetail (code : Nat) : Nat := code + 2 ^ 8 * 0x58

/-- The end of a job: journal, code, counters and events (R728, R730, R731). -/
def zipEnd (s : State) (e : JEntry) (code : Nat) : State :=
  let s := if code = 0 then endCmd s e .done Res.OK 0 else endCmd s e .aborted Res.ARG (zipDetail code)
  let s := wr s ZIP.STAT (setFld (rd s ZIP.STAT) 8 8 code)
  if code = 0 then evt (bumpSat s ZIP.JOBS 0 16 1) pgZIP 0 else evt (bumpSat s ZIP.JOBS 16 16 1) pgZIP 1

/-- A job begins: its checks, the registers of the running job, the bound of a compression (R723, R730). -/
def zipBegin (s : State) (e : JEntry) : State :=
  let s := wr (wr (wr (wr s ZIP.JOB_SEQ e.seq) ZIP.IN_USED 0) ZIP.OUT_LEN 0) ZIP.CHECK 1
  if zipArgsOk s e then
    if zDecompress e then s else wr s ZIP.BOUND (word (deflateBound (zArg e 1) (zZlib e)))
  else zipEnd s e ZErr.BADARG

-- the work

/-- What a job produces: its output, the input bytes consumed, the Adler-32 of CHECK, the code. -/
structure ZipRun where
  out : List Nat
  used : Nat
  check : Nat
  code : Nat
deriving DecidableEq, Repr

/-- The whole job over its source as it stands (R712 to R720, Table 17.5). -/
def zipRun (s : State) (e : JEntry) : ZipRun :=
  let src := (vatBytes s (zArg e 0) (zArg e 1)).map (fun b => b.toNat)
  let cap := zArg e 3
  if zDecompress e then
    let r := inflate src (zZlib e) cap
    ⟨if zDelta e then delta true (zH e) (zC e) (zP e) r.out else r.out, r.used, adler32 r.out, r.code⟩
  else
    let data := if zDelta e then delta false (zH e) (zC e) (zP e) src else src
    let o := deflate data (zZlib e) (zDepth e) (zLazy e)
    if cap < o.length then ⟨o.take cap, src.length, adler32 data, ZErr.OUTFULL⟩ else ⟨o, src.length, adler32 data, 0⟩

/-- The job when the source word at byte `k` is uncorrectable (Table 17.5, ECC): an error that comes before it in input order, and
the end of the stream, come first. -/
def zipRunTo (s : State) (e : JEntry) (k : Nat) : ZipRun :=
  let src := (vatBytes s (zArg e 0) (zArg e 1)).map (fun b => b.toNat)
  let cap := zArg e 3
  if zDecompress e then
    let r := inflate (src.take k) (zZlib e) cap
    ⟨if zDelta e then delta true (zH e) (zC e) (zP e) r.out else r.out, r.used, adler32 r.out,
      if r.code = ZErr.TRUNC then ZErr.ECC else r.code⟩
  else
    let data := if zDelta e then delta false (zH e) (zC e) (zP e) src else src
    let o := deflateHead data (zZlib e) (zDepth e) (zLazy e) k
    if cap < o.length then ⟨o.take cap, k, 1, ZErr.OUTFULL⟩ else ⟨o, k, 1, ZErr.ECC⟩

/-- The run of a job: `lost` is the first source word that is uncorrectable, by its place in bytes. -/
def zipRunWith (s : State) (e : JEntry) (lost : Option Nat) : ZipRun :=
  match lost with
  | some k => if k < zArg e 1 then zipRunTo s e (k / 4 * 4) else zipRun s e
  | none => zipRun s e

/-- Four output bytes in a value word, the first in [31:24]; a short last slot is padded with zeros (R726). -/
def zipSlots : Nat → Nat → List Nat → List Slot
  | 0, _, _ => []
  | fuel + 1, off, l =>
    if l.isEmpty then []
    else ⟨word off, beBytesWord [l.getD 0 0, l.getD 1 0, l.getD 2 0, l.getD 3 0]⟩ :: zipSlots fuel (off + 4) (l.drop 4)

/-- The quires of a job's slots (R726): first_hi the command sequence, first_lo the offset of the first byte. -/
def zipQuires (s : State) (i : Nat) (seq : Seq32) (q : Nat) : Nat → List Slot → State
  | 0, _ => s
  | fuel + 1, l =>
    match l with
    | [] => s
    | h :: _ =>
      zipQuires (pushQuire s i .data (seq.toNat * 2 ^ 32 + h.idx.toNat) (l.take q)) i seq q fuel (l.drop q)

/-- Output bytes reach the destination. -/
def zipStore (s : State) (e : JEntry) (out : List Nat) : State :=
  if zStream e then
    let slots := zipSlots (out.length + 1) 0 out
    zipQuires (closeQuire s (zDest e)) (zDest e) e.seq (max 1 (strmQ s (zDest e))) (slots.length + 1) slots
  else vatPutBytes s (zArg e 2) (out.map (fun b => BitVec.ofNat 8 b))

/-- The stream of a job takes slots. -/
def zipStreamRuns (s : State) (e : JEntry) : Bool :=
  !zStream e || takesRecords (strmOf s (zDest e)) && decide ((strmOf s (zDest e)).st = .running)

/-- The stream of a job is still to start (R727). -/
def zipPaced (s : State) (e : JEntry) : Bool := zStream e && decide ((strmOf s (zDest e)).st = .admitted)

/-- How far a compression was read when it stopped, and its CHECK, are not stated. -/
def zipLoose (e : JEntry) (r : ZipRun) : Bool := decide (r.code = ZErr.OUTFULL) || (decide (r.code = ZErr.ECC) && !zDecompress e)

/-- The output of a run, with the state that has drawn what is not stated of it: how much of it a compression that meets an
uncorrectable word has produced. -/
def zipOut (s : State) (e : JEntry) (r : ZipRun) : State × List Nat :=
  if r.code = ZErr.ECC ∧ !zDecompress e then
    let d := drawBelow s (r.out.length + 1)
    (d.2, r.out.take d.1)
  else (s, r.out)

/-- A job completes. -/
def zipFinish (s : State) (e : JEntry) (lost : Option Nat) : State :=
  if zipPaced s e then s
  else if !zipStreamRuns s e then zipEnd s e ZErr.STREAM
  else
    let r := zipRunWith s e lost
    let s := if r.code = ZErr.ECC then vatError s 0 1 else s
    let o := zipOut s e r
    let s := zipStore o.1 e o.2
    let d := drawBelow s (r.used + 1)
    let loose := zipLoose e r
    let s := if loose then d.2 else s
    let s := wr (wr s ZIP.IN_USED (word (if loose then d.1 else r.used))) ZIP.OUT_LEN (word o.2.length)
    let d := drawBelow s (2 ^ 32)
    let s := if loose then d.2 else s
    zipEnd (wr s ZIP.CHECK (word (if loose then d.1 else r.check))) e r.code

/-- A job stops before its end: the bytes produced so far stay (R500, R728, R729); how many they are is a free value. -/
def zipCut (s : State) (e : JEntry) : State :=
  let r := zipRun s e
  let d := drawBelow s (r.out.length + 1)
  let n := if zipPaced s e || !zipStreamRuns s e then 0 else d.1
  let s := zipStore d.2 e (r.out.take n)
  let d := drawBelow s (r.used + 1)
  let k := drawBelow d.2 (2 ^ 32)
  wr (wr (wr k.2 ZIP.OUT_LEN (word n)) ZIP.IN_USED (word d.1)) ZIP.CHECK (word k.1)

/-- ZIP_JOB_DONE. -/
def execZipJobDone (s : State) (lost : Option Nat := none) : Host.Outcome State Fault Refusal :=
  .next (match runningOp s Opc.ZIP_JOB with
    | some e => zipFinish s e lost
    | none => s)

/-- ZIP.CTRL.abort: ends the running job; no effect when idle (R731). -/
def abortJob (s : State) : State :=
  match runningOp s Opc.ZIP_JOB with
  | some e => zipEnd (zipCut s e) e ZErr.ABORT
  | none => s

def execAbortJob (p : Path) (s : State) : Host.Outcome State Fault Refusal :=
  .next (gated s (some p) ZIP.CTRL abortJob)

/-- ZIP.CTRL by its word (Table 17.7). -/
def zipCtrl (s : State) (w : Who) (v : Word) : State :=
  if bit v 0 then abortJob s else refuse s w ZIP.CTRL ⟨Rsn.RANGE, none⟩

/-- A running job is cut short by a warm reset or by the end of Dusk (R500, R729): the journal entry is set by those. -/
def zipInterrupt (s : State) : State :=
  match runningOp s Opc.ZIP_JOB with
  | some e => evt (bumpSat (zipCut s e) ZIP.JOBS 16 16 1) pgZIP 1
  | none => s

/-- The destination of a running job in the Vat (R725): base and length. -/
def zipDest (s : State) : Option (Nat × Nat) :=
  match runningOp s Opc.ZIP_JOB with
  | some e => if zStream e then none else some (zArg e 2, zArg e 3)
  | none => none

/-- The computed registers of the ZIP page. -/
def zipView (s : State) (o : Nat) : Option Word :=
  if o = 0x44 then
    let r := runningOp s Opc.ZIP_JOB
    some (rd s ZIP.STAT ||| bitW 0 r.isSome ||| bitW 1 (r.any (zipPaced s)))
  else none

def zipSummary (s : State) : Nat := b2n (runningOp s Opc.ZIP_JOB).isSome

end Sys2Proof.Machine
end

