-- ==== Sys2Proof/Machine/Cmd.lean ====
section
/-!
DEFINITION. Execution of commands (R496 to R498, R500, R110, R111, R594 to R597).
Marked choices: DEDUCED, log entries 35, 54.
-/
namespace Sys2Proof.Machine

-- TRANSFER

def trSrc (e : JEntry) : Nat := (e.args.getD 0 0).toNat
def trDst (e : JEntry) : Nat := (e.args.getD 1 0).toNat
def trLen (e : JEntry) : Nat := (e.args.getD 2 0).toNat

/-- A TRANSFER starts (R498). -/
def transferBegin (s : State) (e : JEntry) : State :=
  if trLen e = 0 then endCmd s e .done Res.OK 0
  else if inTable s (trDst e) (trLen e) && decide (trSrc e + trLen e ≤ vatSize) then s
  else endCmd s e .aborted Res.ARG 0

/-- TRANSFER_DONE (R498). -/
def execTransferDone (s : State) : Host.Outcome State Fault Refusal :=
  .next (match runningOp s Opc.TRANSFER with
    | some e => endCmd (vatPutBytes s (trDst e) (vatBytes s (trSrc e) (trLen e))) e .done Res.OK 0
    | none => s)

-- TABLE_STAGE

def tsSrc (e : JEntry) : Nat := (e.args.getD 0 0).toNat
def tsEng (e : JEntry) : Nat := (e.args.getD 1 0).toNat
def tsDst (e : JEntry) : Nat := (e.args.getD 2 0).toNat
def tsLen (e : JEntry) : Nat := (e.args.getD 3 0).toNat
def tsKeep (e : JEntry) : Bool := bit (e.args.getD 4 0) 0

/-- The conditions of R594, and room in the staging list (R597). -/
def tableArgsOk (s : State) (e : JEntry) : Bool :=
  decide (tsSrc e % 4 = 0 ∧ tsDst e % 4 = 0 ∧ tsLen e % 4 = 0 ∧ tsEng e < 12 ∧ 0x12000 ≤ tsDst e ∧
    tsDst e + tsLen e ≤ 0x60000) && inTable s (tsSrc e) (tsLen e) &&
    !(tsKeep e && decide (16 ≤ (engOf s (tsEng e)).staging.length))

/-- A TABLE_STAGE starts (R594, R595, R597). -/
def tableBegin (s : State) (e : JEntry) : State :=
  if !tableArgsOk s e then endCmd s e .aborted Res.ARG 0
  else if tsLen e = 0 then endCmd s e .done Res.OK 0
  else s

/-- TABLE_STAGE_DONE (R596, R597). -/
def execTableStageDone (s : State) : Host.Outcome State Fault Refusal :=
  .next (match runningOp s Opc.TABLE_STAGE with
    | some e =>
      let k := tsEng e
      let s := stageCopy s k (tsSrc e) (tsDst e) (tsLen e)
      let g : Staged := ⟨tsSrc e, tsDst e, tsLen e⟩
      let s := if tsKeep e then onEng s k (fun x => { x with staging := (x.staging ++ [g]).take 16 }) else s
      endCmd (tableEvent s k) e .done Res.OK 0
    | none => s)

-- execution

/-- The oldest command that waits to start; those that Dusk left NEW wait for the next reset (R111). -/
def nextCmd (s : State) : Option JEntry := s.cmd.journal.find? (fun e => decide (e.st = .new) && !e.parked)

/-- Commands execute in this power state; a persistent one only once Dawn is over (R500). -/
def cmdMayStart (s : State) (e : JEntry) : Bool :=
  !s.pwr.warm.running && (match s.pwr.st with
    | .noon => true | .dusk => true | .twilight => true | .dawn => !e.persistent
    | .vbkAbsent => false | .midnight => false | .reset => false | .factoryTest => false)

/-- A command starts: STARTED is journaled, then its checks and its first work. -/
def startCmd (s : State) (e : JEntry) : State :=
  let s := onEntry s e.seq (fun x => { x with st := .started })
  let e := { e with st := .started }
  if e.opcode = Opc.NOP then endCmd s e .done Res.OK 0
  else if e.opcode = Opc.TRANSFER then transferBegin s e
  else if e.opcode = Opc.ZIP_JOB then zipBegin s e
  else if e.opcode = Opc.TABLE_STAGE then tableBegin s e
  else persistentBegin s e

/-- COMMAND_EXECUTE (R496). -/
def execCommandExecute (s : State) : Host.Outcome State Fault Refusal :=
  .next (match runningCmd s, nextCmd s with
    | none, some e => if cmdMayStart s e then startCmd s e else s
    | _, _ => s)

-- Dusk

/-- Every command accepted before Dusk has ended (R110). -/
def cmdsEnded (s : State) : Bool := decide (pendingCount s = 0)

/-- The running command at the end of Dusk (R111): a persistent one completes its step; either ends INTERRUPTED. -/
def duskRunning (s : State) : State :=
  match runningCmd s with
  | none => s
  | some e =>
    if e.persistent then
      let s := stepDone s e true
      let s := if (runningCmd s).any (fun x => decide (x.seq = e.seq)) then endCmd s e .aborted Res.INTERRUPTED 0 else s
      onEntry s e.seq (fun x => { x with st := .aborted, status := Res.INTERRUPTED, detail := 0, interrupted := true })
    else endCmd (zipInterrupt s) e .aborted Res.INTERRUPTED 0

/-- The commands at the end of Dusk at its limit (R111): those not yet started keep NEW until the next reset. -/
def duskCommands (s : State) : State :=
  let s := duskRunning s
  { s with cmd := { s.cmd with journal := s.cmd.journal.map (fun e =>
      if e.st = .new then { e with parked := true } else e) } }

/-- The journal and what runs at a reset (R500, R729, R746, R759). -/
def cmdReset (s : State) : State := journalReset (nvInterrupt (zipInterrupt s))

end Sys2Proof.Machine
end

