-- ==== Sys2Proof/Machine/Edge.lean ====
section
/-!
DEFINITION. Edge channels (spec/15, R643 to R663): counting, references, intervals, SSI, the edge queues and records, the
position and velocity words of the input blocks.
Marked choices: DESIGN CHOICE, log entries 2, 53; PRESUMED, log entry 59; DEDUCED, log entry 60.
-/
namespace Sys2Proof.Machine

def edgeOf (s : State) (n : Nat) : EdgeState := s.edges.getD n {}
def onEdge (s : State) (n : Nat) (f : EdgeState → EdgeState) : State := { s with edges := s.edges.modify n f }

def chCfg (s : State) (n : Nat) : Word := rd s (EDGE.CH_CFG (n / 8) (n % 8))
def chMode (s : State) (n : Nat) : Nat := fld (chCfg s n) 0 3
def chRec (s : State) (n : Nat) : Nat := fld (chCfg s n) 4 2
def chSsi (s : State) (n : Nat) : Word := rd s (EDGE.CH_SSI (n / 8) (n % 8))

/-- Stamp units in one second. -/
def stampSec : Nat := 204800000000

/-- The offset of a stamp from the tick edge of its index (R48). -/
def stampFine (t : Nat) : Nat := t % stampTick

/-- The stamp of the tick edge of index `n`. -/
def tickStamp (s : State) (n : Nat) : Nat := (n + epoch s) * stampTick

/-- Some interpolator of the channel has no passing table (R646). -/
def calBad (e : EdgeState) : Bool := e.calFail.any id

/-- The edge fault that records and summaries show (R659). -/
def edgeFault (e : EdgeState) : Bool := e.err || e.fault || calBad e

-- interpolators

/-- The table of an input: before the first one, 256 bins of the same width. -/
def binTable (e : EdgeState) (inp : Nat) : List Nat :=
  let t := e.tables.getD inp []
  if t.isEmpty then List.replicate 256 256 else t

/-- The time from the ball edge to its CLKT edge that a code stands for, in units of 1.25 ns / 256: up to the middle of its bin. A bin
with h of the 65,536 edges is h / 256 units wide (R645). -/
def fineTime (table : List Nat) (code : Nat) : Nat := ((table.take code).foldl (· + ·) 0 + table.getD code 0 / 2) / 256

/-- The timestamp of an edge (R643): the coarse part less the fine part and the input delay of the ball. -/
def edgeStamp (s : State) (n : Nat) (x : EncEdge) : Nat :=
  256 * x.coarse - (fineTime (binTable (edgeOf s n) x.input) x.code + Config.ballDelay n x.input)

/-- Every bin width lies in 0.25 to 4 times the nominal one (R646). -/
def tableOk (hits : List Nat) : Bool := hits.all (fun h => decide (64 ≤ h ∧ h ≤ 1024))

-- queues and records

/-- The tag byte of an edge record (R662): RANGE 7, BRK on an edge fault. -/
def edgeTag (e : EdgeState) (clip : Bool) : Nat := tagByte 7 e.setl (edgeFault e) clip false false

/-- A record of channel `n` reaches the streams. -/
def edgeDeliver (s : State) (n idx : Nat) (w : Word) (lost : Bool) : State := feedStreams s 0 (128 + n) idx [w] none lost

/-- The second word of an item (R660): fine offset, input, falling edge, timeout. -/
def itemWord (t input : Nat) (falling timeout : Bool) : Nat :=
  stampFine t + 2 ^ 16 * input + 2 ^ 18 * b2n falling + 2 ^ 19 * b2n timeout

/-- An item enters the queue (R661): a full queue discards it. -/
def enqueue (s : State) (n idx item : Nat) (val : Option Int) (clip : Bool) (ecc : WordErr) : State :=
  let e := edgeOf s n
  if 127 ≤ e.queue.length then
    evt (onEdge s n (fun e => { e with
      dropped := min 255 (e.dropped + 1), lostAt := some (e.lostAt.getD idx) })) (pgEDGE (n / 8)) 25
  else
    let tag := edgeTag e clip
    let w := match val with
      | some v => recWord v tag
      | none => nodataWord tag
    let lost : List EdgeItem := match e.lostAt with
      | some i => [⟨i, nodataWord 0, nodataWord (tagByte 7 false (edgeFault e) false false false), .sound⟩]
      | none => []
    onEdge s n (fun e => { e with queue := e.queue ++ lost ++ [⟨idx, word item, w, ecc⟩], lostAt := none, setl := false })

/-- Index `n` lies in an interval that the hub reports as not sampled (R11). -/
def inGap (s : State) (n : Nat) : Bool := !sampling s || s.gaps.any (fun g => decide (g.1 ≤ n ∧ n ≤ g.2))

/-- A queue gives up its oldest item, which becomes a record (R357, R661, R662). The queues keep running through a warm reset
(R657); an event of an interval that was not sampled leaves no record (R11). -/
def drainEdge (s : State) (n : Nat) : State :=
  match (edgeOf s n).queue with
  | [] => s
  | x :: t =>
    let r := fromQueue (onEdge s n (fun e => { e with queue := t })) (0x40 + n) x.ecc x.record (nodataWord 0)
    if inGap s x.idx then r.1 else edgeDeliver r.1 n x.idx r.2 (decide (x.ecc = .uncorrectable))

/-- The queues drain one item each in two ticks (R661). -/
def tickEdges (s : State) : State :=
  if s.time.now % 2 = 0 then (List.range 64).foldl drainEdge s else s

/-- An edge of input `i` is queued, with rec = 2, where CHc_CFG.edges picks it (R660). -/
def queueEdge (s : State) (n i : Nat) (falling : Bool) (t : Nat) (ecc : WordErr) : State :=
  let pick := fld (chCfg s n) 6 2
  if chRec s n = 2 ∧ (pick = 2 ∨ (pick = 1 ∧ falling) ∨ (pick = 0 ∧ !falling)) then
    let v := itemWord t i falling false
    enqueue s n (stampIdx s t) v (some (v : Int)) false ecc
  else s

-- counting

/-- An edge fault of channel `n` (R649, R655). -/
def edgeError (s : State) (n : Nat) (quad : Bool) : State :=
  evt (onEdge s n (fun e => { e with quadErr := e.quadErr || quad, ssiErr := e.ssiErr || !quad, err := true }))
    (pgEDGE (n / 8)) (n % 8)

/-- The window of R658 in stamp units. -/
def velWindow (s : State) (n : Nat) : Nat := rdf s (EDGE.CH_VEL (n / 8) (n % 8)) 0 16 * stampTick

/-- The counted edges that a boundary to come can need once an edge at `t` is counted: those of the velocity window of a boundary
up to one band-update period earlier, and one older. -/
def recentEdges (w t : Nat) (l : List (Nat × Word)) : List (Nat × Word) :=
  let near := fun (x : Nat × Word) => decide (t ≤ x.1 + w + 1000 * stampTick)
  l.takeWhile near ++ (l.dropWhile near).take 1

/-- An edge at `t` counts by ±1 (R649); the first one leaves the count before it as a count of long ago. -/
def countEdge (s : State) (n t : Nat) (up : Bool) : State :=
  let w := velWindow s n
  onEdge s n (fun e =>
    let c := if up then e.count + 1 else e.count - 1
    { e with count := c, up := up, edges := (t, c) :: (if e.edges.isEmpty then [(0, e.count)] else recentEdges w t e.edges) })

/-- The count is set (R651): no edge has moved it, and the counts of the edges before move with it. -/
def setCount (e : EdgeState) (v : Word) : EdgeState :=
  { e with count := v, edges := e.edges.map (fun x => (x.1, x.2 + (v - e.count))) }

/-- The CLKT edge of a stamp: the first at or after it. -/
def clktEdge (t : Nat) : Nat := ceilDiv t 256

/-- What the A or B edge on the same CLKT edge as the Z edge at `t` has counted already: it counts after the Z edge (Table 15.3). -/
def countedWith (e : EdgeState) (t : Nat) : Word :=
  match e.edges with
  | x :: _ => if clktEdge x.1 = clktEdge t then (if e.up then 1 else -1) else 0
  | [] => 0

/-- A Z edge of polarity pol_z (R651). -/
def zEdge (s : State) (n t : Nat) : State :=
  let preset := rd s (EDGE.CH_PRESET (n / 8) (n % 8))
  let zreset := bit (chCfg s n) 11
  let s := onEdge s n (fun e =>
    let d := countedWith e t
    let e : EdgeState := { e with zCount := e.count - d, zIdx := stampIdx s t, referenced := e.referenced || e.armed }
    { (if e.armed && zreset then setCount e (preset + d) else e) with armed := false })
  evt s (pgEDGE (n / 8)) (16 + n % 8)

/-- The end of an interval at `t`, or its timeout (R652, R662): its item stands at the start edge. -/
def endInterval (s : State) (n : Nat) (stop : Option Nat) (ecc : WordErr) : State :=
  match (edgeOf s n).start with
  | none => s
  | some t0 =>
    let scale := rdf s (EDGE.CH_REC (n / 8) (n % 8)) 16 4
    let s := onEdge s n (fun e => match stop with
      | some t => { e with start := none, interval := t - t0 }
      | none => { e with start := none })
    let s := match stop with
      | some t => countEdge s n t true
      | none => s
    if chRec s n = 3 then
      match stop with
      | some t =>
        let v := (t - t0) / 2 ^ scale
        enqueue s n (stampIdx s t0) (itemWord t0 0 false false) (some (min v 0x7fffff : Nat)) (decide (0x7fffff < v)) ecc
      | none => enqueue s n (stampIdx s t0) (itemWord t0 0 false true) none false ecc
    else s

def ignoredEdge (s : State) (n : Nat) : State := onEdge s n (fun e => { e with ignored := min 255 (e.ignored + 1) })

/-- An edge of input `inp` at `t` comes within 10 ns of the last edge of the other phase (R649): 2,048 stamp units. -/
def tooClose (e : EdgeState) (inp t : Nat) : Bool :=
  (e.phaseAt.getD (1 - inp) none).any (fun u => decide (t < u + 2048 ∧ u < t + 2048))

/-- An A or B edge in QUAD: A leading B counts up. -/
def quadEdge (s : State) (n : Nat) (inp t : Nat) (a b together : Bool) : State :=
  if inp = 2 then s
  else
    let bad := together || tooClose (edgeOf s n) inp t
    let s := onEdge s n (fun e => { e with phaseAt := e.phaseAt.set inp (some t) })
    if bad then edgeError s n true else countEdge s n t (if inp = 0 then a != b else a == b)

/-- An edge at an ENC ball of channel `n` (R643 to R652, R660). -/
def encEdge (s : State) (n : Nat) (x : EncEdge) : State :=
  let cfg := chCfg s n
  let inp := x.input.val
  let level := x.level != bit cfg (8 + inp)
  let a := if inp = 0 then level else x.a != bit cfg 8
  let b := if inp = 1 then level else x.b != bit cfg 9
  let t := edgeStamp s n x
  match chMode s n with
  | 1 =>
    let s := quadEdge s n inp t a b x.together
    let s := if inp = 2 ∧ level then zEdge s n t else s
    queueEdge s n inp (!level) t x.ecc
  | 2 =>
    let s := if inp = 0 ∧ level then countEdge s n t b else s
    let s := if inp = 2 ∧ level then zEdge s n t else s
    if inp = 1 then s else queueEdge s n inp (!level) t x.ecc
  | 3 =>
    let s := if level then
        if inp = 0 then
          if (edgeOf s n).start.isSome then ignoredEdge s n else onEdge s n (fun e => { e with start := some t })
        else if inp = 1 then
          if (edgeOf s n).start.isSome then endInterval s n (some t) x.ecc else ignoredEdge s n
        else s
      else s
    if inp = 2 then s else queueEdge s n inp (!level) t x.ecc
  | _ => s

/-- ENC_EDGE. -/
def execEncEdge (ch : Fin 64) (e : EncEdge) (s : State) : Host.Outcome State Fault Refusal := .next (encEdge s ch e)

/-- An interval from the start edge at `t0` can have run for CHc_TMO × 100 ns before the next tick (R652). -/
def timedOut (s : State) (n t0 : Nat) : Bool :=
  decide (t0 + rdf s (EDGE.CH_TMO (n / 8) (n % 8)) 0 24 * stampTick < tickStamp s (now s + 1))

/-- INTERVAL_TIMEOUT (R652). -/
def execIntervalTimeout (ch : Fin 64) (s : State) : Host.Outcome State Fault Refusal :=
  .next (when (decide (chMode s ch = 3) && (edgeOf s ch).start.any (timedOut s ch)) s (fun s =>
    evt (endInterval s ch none .sound) (pgEDGE (ch / 8)) (8 + ch % 8)))

/-- EDGE_POSITION_RECORD (R662): count [22:0], every div ticks. -/
def execEdgePositionRecord (ch : Fin 64) (s : State) : Host.Outcome State Fault Refusal :=
  let div := rdf s (EDGE.CH_REC (ch / 8) (ch % 8)) 0 16
  .next (when (sampling s && decide (chMode s ch ≠ 0 ∧ chRec s ch = 1 ∧ 0 < div) && decide (now s % max 1 div = 0)) s
    (fun s =>
      let e := edgeOf s ch
      let s := onEdge s ch (fun e => { e with setl := false })
      edgeDeliver s ch (now s) (recWord (signExt 23 (fld e.count 0 23)) (edgeTag e false)) false))

-- SSI

/-- SSI_TRANSFER (R653, R656, R835, Table 15.3): a transfer starts, or is skipped while one runs; the clock's ball is this hub's, or
is let go, from its start. -/
def execSsiTransfer (ch : Fin 64) (s : State) : Host.Outcome State Fault Refusal :=
  let period := rdf s (EDGE.CH_SSI_T (ch / 8) (ch % 8)) 0 16
  .next (when (decide (chMode s ch = 4) && decide (0 < period ∧ now s % max 1 period = 0)) s (fun s =>
    let s := onGc s (fld (chSsi s ch) 8 8) (if drivesHub s then driveBall true else releaseBall)
    if (edgeOf s ch).ssi.isSome then ignoredEdge s ch else onEdge s ch (fun e => { e with ssi := some (now s) })))

/-- The number that bits spell, most significant first. -/
def bitsVal (l : List Bool) : Nat := l.foldl (fun a b => 2 * a + b2n b) 0

/-- A Gray code read as bits, most significant first. -/
def grayBits (l : List Bool) : List Bool :=
  (l.foldl (fun (a : Bool × List Bool) b => let x := a.1 != b; (x, a.2 ++ [x])) (false, [])).2

/-- SSI_TRANSFER_DONE (R653, R655). -/
def execSsiTransferDone (ch : Fin 64) (idleHigh : Bool) (bits : List Bool) (s : State) :
    Host.Outcome State Fault Refusal :=
  let w := chSsi s ch
  let n := fld w 0 6
  let body := bits.take n
  let parityOk := !bit w 7 || !((bits.take (n + 1)).foldl (fun a b => a != b) false)
  .next (match chMode s ch, (edgeOf s ch).ssi with
    | 4, some at' =>
      let s := onEdge s ch (fun e => { e with ssi := none })
      if !idleHigh ∨ !parityOk then edgeError s ch false
      else
        let v := word (bitsVal (if bit w 6 then grayBits body else body))
        onEdge s ch (fun e => { e with
          count := v, words := v :: e.words.take 1, edges := [((at' + epoch s) * stampTick, v)] })
    | _, _ => s)

-- calibration and control

/-- INTERPOLATOR_TABLE (R645, R646): the bin counts of 65,536 injected edges. A table that fails leaves the last passing one in
use. -/
def execInterpolatorTable (ch : Fin 64) (input : Fin 3) (s : State) (hits : List Nat := []) : Host.Outcome State Fault Refusal :=
  let ok := tableOk hits
  .next (evtIf (!ok) (onEdge s ch (fun e => { e with
    calFail := e.calFail.set input (!ok), tables := if ok then e.tables.set input hits else e.tables })) (pgEDGE (ch / 8)) 24)

/-- EDGE.CTRL op = 1 (R651). -/
def armReference (s : State) (n : Nat) : State := onEdge s n (fun e => { e with armed := true, referenced := false })

def execArmReference (p : Path) (ch : Fin 64) (s : State) : Host.Outcome State Fault Refusal :=
  .next (gated s (some p) (EDGE.CTRL (ch / 8)) (fun s => armReference s ch))

/-- EDGE.CTRL op = 2 (R651). -/
def loadPreset (s : State) (n : Nat) : State :=
  let v := rd s (EDGE.CH_PRESET (n / 8) (n % 8))
  onEdge s n (fun e => setCount e v)

def execLoadPreset (p : Path) (ch : Fin 64) (s : State) : Host.Outcome State Fault Refusal :=
  .next (gated s (some p) (EDGE.CTRL (ch / 8)) (fun s => loadPreset s ch))

/-- EDGE.CTRL op = 3: the channel's counters and error flags. -/
def clearCounters (s : State) (n : Nat) : State :=
  onEdge s n (fun e => { e with dropped := 0, ignored := 0, quadErr := false, ssiErr := false })

def execClearCounters (p : Path) (ch : Fin 64) (s : State) : Host.Outcome State Fault Refusal :=
  .next (gated s (some p) (EDGE.CTRL (ch / 8)) (fun s => clearCounters s ch))

/-- A write of EDGE.CTRL on page `p` (Table 15.8). -/
def edgeCtrl (s : State) (w : Who) (p : Nat) (v : Word) : State :=
  let n := 8 * p + fld v 0 3
  match fld v 8 3 with
  | 1 => armReference s n
  | 2 => loadPreset s n
  | 3 => clearCounters s n
  | _ => refuse s w (EDGE.CTRL p) ⟨Rsn.RANGE, none⟩

-- position and velocity

/-- The velocity of channel `n` at the boundary stamp `tb` (R658), in counts per second. -/
def edgeVelocity (s : State) (n tb : Nat) : Frac :=
  let e := edgeOf s n
  if chMode s n = 4 then
    let period := rdf s (EDGE.CH_SSI_T (n / 8) (n % 8)) 0 16
    match e.words with
    | [a, b] => Frac.mk ((a - b).toInt * 10000000) (max 1 period)
    | _ => Frac.zero
  else
    let stop := rdf s (EDGE.CH_VEL (n / 8) (n % 8)) 16 16 * 1000 * stampTick
    let w := velWindow s n
    let past := e.edges.filter (fun x => decide (x.1 ≤ tb))
    match past with
    | [] => Frac.zero
    | last :: _ =>
      let inWin := past.filter (fun x => decide (0 < x.1 ∧ tb ≤ x.1 + w))
      if stop < tb - last.1 then Frac.zero
      else match inWin.getLast? with
        | some first =>
          if first.1 < last.1 then Frac.mk ((last.2 - first.2).toInt * stampSec) (last.1 - first.1)
          else edgeSlow e last.1 tb
        | none => edgeSlow e last.1 tb
where
  edgeSlow (e : EdgeState) (tl tb : Nat) : Frac :=
    let prev := (Frac.mk e.velNum e.velDen).abs
    let m := if tb ≤ tl then prev else prev.min (Frac.mk stampSec (tb - tl))
    if e.up then m else m.neg

/-- The channel's fault and velocity are formed at a boundary (R658, R659). -/
def edgeBoundary (s : State) (n idx : Nat) : State :=
  let v := edgeVelocity s n (tickStamp s idx)
  onEdge s n (fun e => { e with velNum := v.n, velDen := v.d, fault := e.err || calBad e, err := false })

/-- Position valid (R659). -/
def posValid (s : State) (n : Nat) : Bool :=
  decide (chMode s n = 1 ∨ chMode s n = 2 ∨ chMode s n = 4) && (!bit (chCfg s n) 12 || (edgeOf s n).referenced)

/-- The count at the stamp `tb`, and the last counted edge at or before it: the edges after it are taken off. -/
def countAt (e : EdgeState) (tb : Nat) : Word × Option Nat :=
  match e.edges, e.edges.find? (fun x => decide (x.1 ≤ tb)) with
  | h :: _, some p => (e.count - (h.2 - p.2), some p.1)
  | _, _ => (e.count, none)

/-- Words 0x30, 0x34 and 0x38 of the input block for channel `n` at boundary `idx`, after `edgeBoundary` (R659). -/
def edgeWords (s : State) (n idx : Nat) : List Word :=
  let e := edgeOf s n
  let tb := tickStamp s idx
  let c := countAt e tb
  let v := (Frac.mk e.velNum e.velDen).abs
  let dt := (c.2.map (tb - ·)).getD 0
  let f := (v.mul (Frac.mk (dt * 65536) stampSec)).floor
  [c.1, word ((min f.toNat 65535) * 2 ^ 16 + tagByte 7 false e.fault false false false),
    (bfpWord (Frac.mk e.velNum e.velDen)).1]

-- commits

/-- The checks of a commit of EDGE page `p` (R654, R656, Table 15.9), `g` giving the settings it would leave. -/
def edgeCommitChk (p : Nat) (g : Nat → Word) : Chk :=
  let ssi := (List.range 8).filter (fun c => decide (fld (g (EDGE.CH_CFG p c)) 0 3 = 4))
  let clk := fun c => fld (g (EDGE.CH_SSI p c)) 8 8
  { zero := rejIf (ssi.any (fun c => decide (fld (g (EDGE.CH_SSI p c)) 16 7 = 0))) Rsn.ZERO
    spec := firstSome [
      rejIf (ssi.any (fun c => let w := g (EDGE.CH_SSI p c)
        decide (fld (g (EDGE.CH_SSI_T p c)) 0 16 <
          (fld w 0 6 + fld w 7 1 + 1) * fld w 16 7 + 10 * fld w 24 8))) 0x41,
      rejIf (ssi.any (fun c => decide (143 < clk c) || (namedLegs g).contains (clk c) ||
        (ssiClocks g).any (fun x => decide (x.1 ≠ 8 * p + c ∧ x.2 = clk c)))) 0x40] }

/-- The effects of a commit of EDGE page `p` (Table 15.3, R653). -/
def edgeCommitted (s0 s : State) (p : Nat) : State :=
  (List.range 8).foldl (fun s c =>
    let n := 8 * p + c
    let s := if chMode s0 n ≠ chMode s n then
        onEdge s n (fun e => { e with
          queue := [], lostAt := none, setl := true, start := none, ssi := none })
      else s
    let g0 := fld (chSsi s0 n) 8 8
    let g := fld (chSsi s n) 8 8
    let s := if chMode s0 n = 4 ∧ (chMode s n ≠ 4 ∨ g0 ≠ g) then onGc s g0 releaseBall else s
    if chMode s n = 4 ∧ drivesHub s then onGc s g (driveBall true) else s) s

-- views

/-- CHc_STAT (Table 15.9). -/
def edgeStatView (e : EdgeState) : Word :=
  word (e.queue.length + 2 ^ 8 * e.dropped + 2 ^ 16 * e.ignored + 2 ^ 24 * b2n e.quadErr + 2 ^ 25 * b2n e.ssiErr +
    2 ^ 26 * b2n (calBad e) + 2 ^ 27 * b2n e.referenced)

/-- The computed registers of EDGE page `p`. -/
def edgeView (s : State) (p o : Nat) : Option Word :=
  if o < 0x100 ∨ 0x300 ≤ o then none
  else
    let n := 8 * p + (o - 0x100) / 0x40
    let e := edgeOf s n
    let last := (e.edges.head?.map (·.1))
    match (o - 0x100) % 0x40 with
    | 0x1c => some e.count
    | 0x20 => some (word ((last.map (stampIdx s)).getD 0))
    | 0x24 => some (word ((last.map stampFine).getD 0))
    | 0x28 => some e.zCount
    | 0x2c => some (word e.zIdx)
    | 0x30 => some (word e.interval)
    | 0x34 => some (word (e.interval / 2 ^ 32 % 2 ^ 16))
    | 0x38 => let v := edgeVelocity s n (tickStamp s (now s))
      some (if v.n = 0 then 0 else (bfpWord v).1)
    | 0x3c => some (edgeStatView e)
    | _ => none

/-- summary.fault of EDGE page `p`. -/
def edgeSummary (s : State) (p : Nat) : Nat :=
  (List.range 8).foldl (fun a c => a + b2n (edgeFault (edgeOf s (8 * p + c))) * 2 ^ c) 0

end Sys2Proof.Machine
end

