-- ==== Sys2Proof/Machine/Safe.lean ====
section
/-!
DEFINITION. The safety functions (spec/19): safe inputs, outputs, switch tests, monitors, SafeFrames and the SAFE page.
Marked choices: DESIGN CHOICE, log entry 17; DEDUCED, log entries 64, 67, 68.
-/
namespace Sys2Proof.Machine

-- parts

def onSafe (s : State) (f : SafeState → SafeState) : State := { s with safe := f s.safe }
def pairSt (s : State) (k : Nat) : SafePair := s.safe.pairs.getD k {}
def onPair (s : State) (k : Nat) (f : SafePair → SafePair) : State := onSafe s (fun x => { x with pairs := x.pairs.modify k f })
def outSt (s : State) (x : Nat) : SafeOut := s.safe.outs.getD x {}
def onOut (s : State) (x : Nat) (f : SafeOut → SafeOut) : State := onSafe s (fun t => { t with outs := t.outs.modify x f })
def monSt (s : State) (m : Nat) : SafeMon := s.safe.mons.getD m {}
def onMon (s : State) (m : Nat) (f : SafeMon → SafeMon) : State := onSafe s (fun t => { t with mons := t.mons.modify m f })
def connSt (s : State) (c : Nat) : SafeConn := s.safe.conns.getD c {}
def onConn (s : State) (c : Nat) (f : SafeConn → SafeConn) : State := onSafe s (fun t => { t with conns := t.conns.modify c f })

def pairCfg (s : State) (k : Nat) : Word := rd s (SAFE.PAIR_CFG k)
def pairEn (s : State) (k : Nat) : Bool := bit (pairCfg s k) 0
def pairKind (s : State) (k : Nat) : Nat := fld (pairCfg s k) 1 2
def soCfg (s : State) (x : Nat) : Word := rd s (SAFE.SO_CFG x)
def soEn (s : State) (x : Nat) : Bool := bit (soCfg s x) 0
def soRestart (s : State) (x : Nat) : Bool := bit (soCfg s x) 1
def soStop (s : State) (x : Nat) : Nat := fld (soCfg s x) 2 2
def soResetPair (s : State) (x : Nat) : Nat := fld (soCfg s x) 4 3
def soMask (s : State) (x k : Nat) : Bool := bit (soCfg s x) (8 + k)
def monCfg (s : State) (m : Nat) : Word := rd s (SAFE.MON_CFG m)
def monEn (s : State) (m : Nat) : Bool := bit (monCfg s m) 0
def monNames (s : State) (m x : Nat) : Bool := monEn s m && bit (monCfg s m) (24 + x)
def sfCfg (s : State) (c : Nat) : Word := rd s (SAFE.SF_CFG c)
def sfEn (s : State) (c : Nat) : Bool := bit (sfCfg s c) 0
def sfProduces (s : State) (c : Nat) : Bool := bit (sfCfg s c) 1

/-- The safety functions run: an EDY5384-SB out of reset (R778, R67). -/
def safeOn (s : State) : Bool :=
  s.partSB && s.clk.xsys && !s.pwr.warm.running && (match s.pwr.st with
    | .noon => true | .dusk => true | .twilight => true | .dawn => true
    | .vbkAbsent => false | .midnight => false | .reset => false | .factoryTest => false)

/-- A bit of FAULT is set, with its event (Table 19.8). -/
def safeMark (s : State) (i : Nat) : State := evt (wr s SAFE.FAULT (rd s SAFE.FAULT ||| bitW i true)) pgSAFE 2

/-- A fault of Table 19.1 is one of nFAULT as well (R781). -/
def safeFault (s : State) (i : Nat) : State := faultSrc (safeMark s i) 15

-- inputs

/-- The level of a safe input as both channels use it: filtered, held over test pulses (R782, R785). -/
def siLevel (s : State) (i : Nat) : Bool := (s.safe.held.getD i none).getD (s.safe.si.getD i false)

/-- Pair `k` is in demand (R782, R783, R786). -/
def pairDemand (s : State) (k : Nat) : Bool :=
  pairEn s k && decide (pairKind s k ≠ 3) && ((pairSt s k).fault || !siLevel s (2 * k) || !siLevel s (2 * k + 1))

/-- A pair of the output's mask is in demand. -/
def maskDemand (s : State) (x : Nat) : Bool := (List.range 8).any (fun k => soMask s x k && pairDemand s k)

/-- A consumed SafeFrame bit of the output's map demands (R801, R807). -/
def frameDemand (s : State) (x : Nat) : Bool :=
  (List.range 32).any (fun c =>
    let m := rd s (SAFE.SF_MAP c)
    let d := if (connSt s c).cause = 0 then (connSt s c).data else 0
    sfEn s c && !sfProduces s c && bit m (8 + x) && (List.range 8).any (fun i => bit m i && !d.testBit i))

def outDemand (s : State) (x : Nat) : Bool := maskDemand s x || frameDemand s x

/-- The speed of the primary channel of a monitor, and of its check channel, in counts per second (R796), once 2 ms of counts
are there. -/
def monSpeed (l : List Word) : Option Int :=
  match l[0]?, l[4]? with
  | some a, some b => some ((a - b).toInt * 500)
  | _, _ => none

/-- The SS1 timers of an output start (R793 to R795). -/
def startSs1 (s : State) (x : Nat) : State :=
  if (outSt s x).ss1 then s
  else
    let v := (monSpeed (monSt s (rdf s (SAFE.SO_SS1 x) 16 3)).prim).getD 0
    evt (onOut s x (fun o => { o with ss1 := true, ss1At := s.time.now, v0 := v.natAbs, slow := 0 })) pgSAFE 1

/-- What a demand does at once (R790, R793): it is noted for the SFC where it meets a switch test or starts an STO, and an SS1 stop
begins. -/
def demandSeen (s : State) (x : Nat) : State :=
  if (outSt s x).on && outDemand s x then
    let s := if (outSt s x).test.isSome ∨ soStop s x = 0 then onOut s x (fun o => { o with hit := true }) else s
    if soStop s x = 0 then s else startSs1 s x
  else s

def allDemands (s : State) : State := (List.range 4).foldl demandSeen s

/-- A reset pulse on pair `k` (R786, R792): outputs that wait for it and meet no demand may restart. -/
def resetPulse (s : State) (k : Nat) : State :=
  (List.range 4).foldl (fun s x =>
    if decide (soResetPair s x = k) && !outDemand s x then onOut s x (fun o => { o with waiting := false }) else s) s

/-- Pair `k` after a change of one of its levels (R783, R786, R791). -/
def pairChanged (s : State) (k : Nat) : State :=
  if !pairEn s k then s
  else
    let a := siLevel s (2 * k)
    let b := siLevel s (2 * k + 1)
    if pairKind s k = 3 then
      match (pairSt s k).since, a with
      | none, true => onPair s k (fun p => { p with since := some s.time.now })
      | some t, false =>
        let n := s.time.now - t
        let s := onPair s k (fun p => { p with since := none })
        if 500000 ≤ n ∧ n ≤ 50000000 then resetPulse s k else s
      | _, _ => s
    else
      let s := onPair s k (fun p =>
        let low := p.fault && (p.low || (!a && !b))
        let ends := low && a && b
        { p with
          fault := p.fault && !ends, low := low && !ends
          test := if p.test = 0 ∧ !a ∧ !b then 1 else if p.test = 1 ∧ a ∧ b then 2 else p.test })
      allDemands s

/-- SAFE_INPUT (R782): a level that has passed the filter. -/
def safeInput (s : State) (i : Nat) (level : Bool) : State :=
  if !safeOn s then onSafe s (fun x => { x with si := x.si.set i level })
  else
    let s := onSafe s (fun x => { x with
      si := x.si.set i level, sawLow := if level then x.sawLow else x.sawLow.set i true })
    if (s.safe.held.getD i none).isSome then s else pairChanged s (i / 2)

def execSafeInput (i : Fin 16) (level : Bool) (s : State) : Host.Outcome State Fault Refusal := .next (safeInput s i level)

/-- DISCREPANCY (R783). -/
def execDiscrepancy (k : Fin 8) (s : State) : Host.Outcome State Fault Refusal :=
  .next (when (safeOn s && pairEn s k && decide (pairKind s k ≠ 3) && (siLevel s (2 * k) != siLevel s (2 * k + 1))) s
    (fun s => allDemands (safeFault (onPair s k (fun p => { p with fault := true, low := false })) (12 + k))))

-- test pulses

/-- The channels that TP `k` feeds (R785). -/
def tpChannels (s : State) (k : Nat) : List Nat :=
  (List.range 16).filter (fun i =>
    let c := pairCfg s (i / 2)
    bit c 0 && bit c 4 && decide (fld c (if i % 2 = 0 then 5 else 7) 2 = k))

/-- TEST_PULSE (R784, R785). -/
def execTestPulse (k : Fin 4) (s : State) : Host.Outcome State Fault Refusal :=
  .next (when (safeOn s && decide (now s % 500000 = 125000 * k)) s (fun s =>
    let l := tpChannels s k
    onSafe s (fun x => { x with
      tp := x.tp.set k true
      held := l.foldl (fun h i => h.set i (some (siLevel s i))) x.held
      sawLow := l.foldl (fun h i => h.set i (!x.si.getD i false)) x.sawLow })))

/-- TEST_PULSE_END (R785). -/
def execTestPulseEnd (k : Fin 4) (s : State) : Host.Outcome State Fault Refusal :=
  .next (when (s.safe.tp.getD k false) s (fun s =>
    let s := onSafe s (fun x => { x with tp := x.tp.set k false })
    (tpChannels s k).foldl (fun s i =>
      if (s.safe.held.getD i none).isSome && !s.safe.sawLow.getD i false then
        allDemands (safeFault (onPair s (i / 2) (fun p => { p with fault := true, low := false })) (4 + i / 2))
      else s) s))

/-- PULSE_HOLD_END (R785). -/
def execPulseHoldEnd (k : Fin 4) (s : State) : Host.Outcome State Fault Refusal :=
  .next (when (!s.safe.tp.getD k false) s (fun s =>
    (tpChannels s k).foldl (fun s i =>
      if (s.safe.held.getD i none).isSome then
        pairChanged (onSafe s (fun x => { x with held := x.held.set i none })) (i / 2)
      else s) s))

-- outputs

/-- The commands of the two switches of output `x` (R779, R787, R788, R790). -/
def hsdOn (s : State) (x : Nat) : Bool := safeOn s && (outSt s x).on && decide ((outSt s x).test ≠ some true)
def lsdOn (s : State) (x : Nat) : Bool :=
  safeOn s && s.safe.life && (outSt s x).on && decide ((outSt s x).test ≠ some false) && !((outSt s x).hit && (outSt s x).test.isSome) &&
    !(decide (soStop s x = 0) && maskDemand s x)

/-- The output goes off; a demand makes it wait for a reset where restart is 1 (R792). -/
def outOff (s : State) (x : Nat) (demand : Bool) : State :=
  if (outSt s x).on then
    evtIf demand (onOut s x (fun o => { o with
      on := false, ss1 := false, test := none, hit := false, slow := 0
      waiting := o.waiting || demand && soRestart s x })) pgSAFE 0
  else s

/-- Faults of FAULT that keep output `x` off (Table 19.1, R797). -/
def latchedOff (s : State) (x : Nat) : Bool :=
  let f := rd s SAFE.FAULT
  bit f x || bit f 20 || bit f 21 || (List.range 8).any (fun k => soMask s x k && (bit f (4 + k) || bit f (12 + k))) ||
    (List.range 8).any (fun m => bit f (24 + m) && bit (monCfg s m) (24 + x))

/-- A monitor that names the output is violated or faulted (R787, R797, R798). -/
def monitorStops (s : State) (x : Nat) : Bool :=
  (List.range 8).any (fun m => monNames s m x && ((monSt s m).violated || rdb s SAFE.FAULT (24 + m)))

/-- The start-up test of a pair in the output's mask is still to do (R791). -/
def startPending (s : State) (x : Nat) : Bool :=
  (List.range 8).any (fun k => soMask s x k && bit (pairCfg s k) 3 && decide ((pairSt s k).test ≠ 2))

/-- The conditions of R787, R791 and R792 for output `x`. -/
def mayRun (s : State) (x : Nat) : Bool :=
  safeOn s && s.safe.life && soEn s x && !outDemand s x && !monitorStops s x && !startPending s x &&
    s.time.gridStarted && !(outSt s x).waiting && !latchedOff s x && !s.safe.mismatch

/-- SS1-r: the speed leaves its ramp, or has stayed below VSTOP for 10 ms (R793, R795). -/
def rampStops (s : State) (x : Nat) : Bool :=
  let o := outSt s x
  let m := rdf s (SAFE.SO_SS1 x) 16 3
  decide (soStop s x = 2) && o.ss1 && monEn s m &&
    (match monSpeed (monSt s m).prim with
      | some v =>
        let tol := 256 * rdf s (SAFE.MON_VLIM m) 20 12
        decide ((o.v0 + tol) * 10000 < v.natAbs * 10000 + rdf s (SAFE.SO_RAMP x) 0 24 * (s.time.now - o.ss1At)) ||
          decide (20 ≤ o.slow)
      | none => false)

/-- The cycles for which the speed has stayed below VSTOP. -/
def countSlow (s : State) (x : Nat) : State :=
  let m := rdf s (SAFE.SO_SS1 x) 16 3
  let below := (monSpeed (monSt s m).prim).any (fun v => decide (v.natAbs < rdf s (SAFE.SO_VSTOP x) 0 24))
  onOut s x (fun o => { o with slow := if o.ss1 && monEn s m && below then o.slow + 1 else 0 })

/-- The band-gap disagrees with its reference (R740): every output goes off, and waits for CTRL op = 1 (R781, Table 19.1). -/
def bandGapStops (s : State) : Bool := rdb s CAL.STAT 2

/-- One output in an SFC cycle (R787 to R795). -/
def outCycle (s : State) (x : Nat) : State :=
  if (outSt s x).on then
    let s := countSlow (demandSeen s x) x
    let o := outSt s x
    if bandGapStops s then onOut (outOff s x false) x (fun o => { o with waiting := true })
    else if latchedOff s x || s.safe.mismatch || !soEn s x then outOff s x false
    else if monitorStops s x || o.hit || (decide (soStop s x = 0) && outDemand s x) || rampStops s x then outOff s x true
    else s
  else if mayRun s x && !bandGapStops s then
    evt (onOut s x (fun o => { o with on := true, ss1 := false, test := none, hit := false, nextLow := false })) pgSAFE 4
  else s

-- monitors

/-- Monitor `m` in an SFC cycle (R796 to R798). -/
def monCycle (s : State) (m : Nat) : State :=
  if !monEn s m then onMon s m (fun _ => {})
  else
    let w := monCfg s m
    let p := edgeOf s (fld w 12 6)
    let c := edgeOf s (fld w 18 6)
    let s := onMon s m (fun t => { t with prim := (p.count :: t.prim).take 5, chk := (c.count :: t.chk).take 5 })
    let t := monSt s m
    let tol := 256 * rdf s (SAFE.MON_VLIM m) 20 12
    let lim := rdf s (SAFE.MON_VLIM m) 0 20
    let dev := match monSpeed t.prim, monSpeed t.chk with
      | some a, some b => decide (tol * 65536 < (a * 65536 - b * (rd s (SAFE.MON_RATIO m)).toNat).natAbs)
      | _, _ => false
    let active := decide (fld w 8 4 = 15) || pairDemand s (fld w 8 4)
    let fast := (monSpeed t.prim).any (fun v => decide (lim < v.natAbs))
    let x0 := if active then some (t.x0.getD p.count) else none
    let far := x0.any (fun x => decide ((rd s (SAFE.MON_WIN m)).toNat < (p.count - x).toInt.natAbs))
    let viol := active && (if fld w 1 2 = 0 then fast else if fld w 1 2 = 1 then far || fast else false)
    let bad := if dev then t.bad + 1 else 0
    let s := onMon s m (fun t => { t with x0 := x0, bad := min bad 20, violated := viol })
    let fault := decide (20 ≤ bad) || edgeFault p || edgeFault c
    if fault && !rdb s SAFE.FAULT (24 + m) then safeMark s (24 + m) else s

-- the SFC

/-- SFC_CYCLE (R780, R787): the program-flow check and the comparison of the configurations, monitors, outputs. -/
def sfcCycle (s : State) (flowOk cfgOk : Bool) : State :=
  let s := onSafe s (fun x => { x with life := x.life || flowOk, cfgBad := !cfgOk })
  let s := if cfgOk then s else safeFault s 21
  let s := (List.range 8).foldl monCycle s
  (List.range 4).foldl outCycle s

def execSfcCycle (flowOk cfgOk : Bool) (s : State) : Host.Outcome State Fault Refusal :=
  .next (when (safeOn s) s (fun s => sfcCycle s flowOk cfgOk))

/-- The SFC's life signal is missed (R779, Table 19.1): every output latches off. -/
def lifeLost (s : State) : State :=
  let s := safeFault (onSafe s (fun x => { x with life := false })) 20
  (List.range 4).foldl (fun s x => outOff s x false) s

/-- SFC_SELF_TEST (R780): a failed self-test acts as a stopped SFC (Table 19.1). -/
def execSfcSelfTest (ok : Bool) (s : State) : Host.Outcome State Fault Refusal :=
  .next (when (safeOn s && !ok) s lifeLost)

/-- LIFE_SIGNAL_LOST (R779). -/
def execLifeSignalLost (s : State) : Host.Outcome State Fault Refusal := .next (when (safeOn s) s lifeLost)

-- switch tests and readback

/-- The index at which the switch tests of output `x` begin, modulo 50 ms (R788). -/
def switchIndex (s : State) (x : Nat) : Nat := (62500 + 125000 * x + 250000 * b2n s.pins.strapTwin) % 500000

/-- SWITCH_TEST (R788). -/
def execSwitchTest (x : Fin 4) (s : State) : Host.Outcome State Fault Refusal :=
  let o := outSt s x
  .next (when (safeOn s && o.on && decide (o.test = none) && decide (now s % 500000 = switchIndex s x)) s (fun s =>
    onOut s x (fun o => { o with test := some (!o.nextLow), nextLow := !o.nextLow })))

/-- SWITCH_TEST_END (R788, R790). -/
def execSwitchTestEnd (x : Fin 4) (s : State) : Host.Outcome State Fault Refusal :=
  .next (when ((outSt s x).test.isSome) s (fun s =>
    if (outSt s x).hit then outOff s x true else onOut s x (fun o => { o with test := none })))

/-- SWITCH_READBACK (R789). -/
def execSwitchReadback (x : Fin 4) (high level : Bool) (s : State) : Host.Outcome State Fault Refusal :=
  .next (onOut s x (fun o => if high then { o with hsfb := level } else { o with lsfb := level }))

/-- READBACK_FAULT (R789): a readback differs from its command. -/
def execReadbackFault (x : Fin 4) (high : Bool) (s : State) : Host.Outcome State Fault Refusal :=
  let o := outSt s x
  .next (when (safeOn s && (if high then o.hsfb != hsdOn s x else o.lsfb != lsdOn s x)) s
    (fun s => safeFault (outOff s x false) x))

/-- SS1_EXPIRY (R793, R794). -/
def execSs1Expiry (x : Fin 4) (s : State) : Host.Outcome State Fault Refusal :=
  .next (when (safeOn s && (outSt s x).ss1) s (fun s => outOff s x true))

-- SafeFrames

def ownHubId (s : State) : Nat := fuseValue s 0 % 65536
def sfPeer (s : State) (c : Nat) : Nat := rdf s (SAFE.SF_IDS c) 0 16
def sfId (s : State) (c : Nat) : Nat := rdf s (SAFE.SF_CONN c) 0 16
def sfCycleTime (s : State) (c : Nat) : Nat := rdf s (SAFE.SF_TIME c) 0 14
def sfWd (s : State) (c : Nat) : Nat := rdf s (SAFE.SF_TIME c) 14 14

/-- The connection signature (R802). -/
def sfSignature (s : State) (c : Nat) : Word :=
  let ids := if sfProduces s c then [ownHubId s, sfPeer s c] else [sfPeer s c, ownHubId s]
  word (crc32c (([sfId s c] ++ ids ++ [sfWd s c]).flatMap (fun v => [v / 256 % 256, v % 256])))

/-- This hub's consuming connection of the same peer is in fail-safe (R807). -/
def sfCounterFails (s : State) (c : Nat) : Bool :=
  (List.range 32).any (fun d =>
    sfEn s d && !sfProduces s d && decide (sfPeer s d = sfPeer s c) && decide ((connSt s d).cause ≠ 0))

/-- The safe data of a producer (R801). -/
def safeData (s : State) : List Byte :=
  let byte (n : Nat) (f : Nat → Bool) : Byte := BitVec.ofNat 8 ((List.range n).foldl (fun a i => a + b2n (f i) * 2 ^ i) 0)
  [byte 8 (fun k => !pairDemand s k), byte 4 (fun x => (outSt s x).on),
    byte 8 (fun m => !((monSt s m).violated || rdb s SAFE.FAULT (24 + m)))] ++ List.replicate 13 0

/-- SAFEFRAME_SEND (R800, R804). -/
def execSafeframeSend (c : Fin 32) (s : State) : Host.Outcome State Fault Refusal :=
  .next (when (safeOn s && sfEn s c && sfProduces s c) s (fun s =>
    let q := (connSt s c).seq + 1
    let fs := sfCounterFails s c
    let m : SafeMsg :=
      { conn := sfId s c, source := ownHubId s, dest := sfPeer s c, failSafe := fs, timeValid := gridValid s, seq := q
        sec := s.time.ht / secLen % 2 ^ 32, ns := s.time.ht % secLen / 65536
        data := if fs then List.replicate 16 0 else safeData s, signature := sfSignature s c, crcOk := true }
    sendRing (onConn s c (fun t => { t with seq := q })) (Config.peerMac (sfPeer s c)) (.safe m)))

/-- The connection enters fail-safe; the first cause latches (R807). -/
def failSafe (s : State) (c cause : Nat) : State :=
  if (connSt s c).cause = 0 then
    allDemands (evt (onConn s c (fun t => { t with cause := cause, reset := none })) pgSAFE 3)
  else onConn s c (fun t => { t with reset := t.reset.map (fun _ => 0) })

/-- A frame that is discarded without fail-safe breaks a run of accepted ones (R807). -/
def sfDiscard (s : State) (c : Nat) (f : SafeConn → SafeConn) : State :=
  onConn s c (fun t => { f t with reset := t.reset.map (fun _ => 0) })

/-- The age of a SafeFrame in ns, its send time extended by the nearest second (R805). -/
def sfAge (s : State) (m : SafeMsg) : Int :=
  let ds := (BitVec.ofNat 32 (s.time.ht / secLen) - BitVec.ofNat 32 m.sec).toInt
  ds * 1000000000 + ((s.time.ht % secLen / 65536 : Nat) : Int) - m.ns

/-- The checks of Table 19.5 on a frame for connection `c`. -/
def safeFrame (s : State) (c : Nat) (m : SafeMsg) : State :=
  let t := connSt s c
  let age := sfAge s m
  let diff := match t.last with | some l => (m.seq - l).toNat | none => 1
  if !m.crcOk then
    let recent := (s.time.now :: t.crcAt.filter (fun a => decide (s.time.now < a + 10000000))).take 3
    let s := sfDiscard s c (fun t => { t with crc := min 65535 (t.crc + 1), crcAt := recent })
    if 3 ≤ recent.length then failSafe s c 1 else s
  else if m.dest ≠ ownHubId s ∨ m.source ≠ sfPeer s c ∨ m.conn ≠ sfId s c ∨ m.signature ≠ sfSignature s c then failSafe s c 2
  else if diff = 0 then sfDiscard s c (fun t => { t with dup := min 255 (t.dup + 1) })
  else if 4 < diff then failSafe s c 3
  else if !(m.timeValid && gridValid s) then sfDiscard s c (fun t => { t with time := min 255 (t.time + 1) })
  else if age < -10000 ∨ (rdf s (SAFE.SF_AGE c) 0 20 * 1000 : Nat) < age then failSafe s c 4
  else
    let s := onConn s c (fun t =>
      let n := t.reset.map (· + 1)
      let ends := n.any (fun k => decide (3 ≤ k))
      { t with
        last := some m.seq, data := if m.failSafe then 0 else (m.data.getD 0 0).toNat
        accepted := (t.accepted + 1) % 65536, reset := if ends then none else n, cause := if ends then 0 else t.cause })
    allDemands s

/-- SAFEFRAME (R805). -/
def execSafeframe (c : Fin 32) (m : SafeMsg) (s : State) : Host.Outcome State Fault Refusal :=
  .next (when (safeOn s && sfEn s c && !sfProduces s c) s (fun s => safeFrame s c m))

/-- A SafeFrame from the ring reaches the consuming connections of its identity. -/
def safeFrameRx (s : State) (m : SafeMsg) : State :=
  if !safeOn s then s
  else (List.range 32).foldl (fun s c => if sfEn s c && !sfProduces s c && decide (sfId s c = m.conn) then safeFrame s c m else s) s

/-- SAFEFRAME_WATCHDOG (R806). -/
def execSafeframeWatchdog (c : Fin 32) (s : State) : Host.Outcome State Fault Refusal :=
  .next (when (safeOn s && sfEn s c && !sfProduces s c) s (fun s => failSafe s c 5))

-- resets of faults

/-- The cause of a bit of FAULT has ended (R781). -/
def causeEnded (s : State) (i : Nat) : Bool :=
  if i < 4 then !(outSt s i).hsfb && !(outSt s i).lsfb
  else if i < 12 then !(pairSt s (i - 4)).fault
  else if i < 20 then !(pairSt s (i - 12)).fault
  else if i = 20 then s.safe.life
  else if i = 21 then !s.safe.cfgBad
  else decide ((monSt s (i - 24)).bad < 20) && !edgeFault (edgeOf s (fld (monCfg s (i - 24)) 12 6)) &&
    !edgeFault (edgeOf s (fld (monCfg s (i - 24)) 18 6))

/-- SAFE.CTRL op 1 (R781, R792). -/
def resetFaults (s : State) : State :=
  let f := (List.range 32).foldl (fun w i => if bit w i && causeEnded s i then setFld w i 1 0 else w) (rd s SAFE.FAULT)
  let s := clearBlock (wr s SAFE.FAULT f)
  (List.range 4).foldl (fun s x => if outDemand s x then s else onOut s x (fun o => { o with waiting := false })) s

/-- SAFE.CTRL op 2 (R807). -/
def resetConnection (s : State) (c : Nat) : State :=
  onConn s c (fun t => { t with last := none, reset := if t.cause = 0 then none else some 0 })

/-- R3: a write that would enable a safety function on an EDY5384-IB. -/
def safePart (s : State) : Option Rej := rejIf (!s.partSB) Rsn.PART

/-- SAFE.CTRL by its word (Table 19.7). -/
def safeCtrl (s : State) (w : Who) (v : Word) : State :=
  match fld v 0 3 with
  | 1 => resetFaults s
  | 2 => resetConnection s (fld v 8 5)
  | _ => refuse s w SAFE.CTRL ⟨Rsn.RANGE, none⟩

def execResetFaults (p : Path) (s : State) : Host.Outcome State Fault Refusal :=
  .next (hostAct s (some p) SAFE.CTRL 1 none resetFaults)
def execResetConnection (p : Path) (c : Fin 32) (s : State) : Host.Outcome State Fault Refusal :=
  .next (hostAct s (some p) SAFE.CTRL (word (2 + 256 * c)) none (fun s => resetConnection s c))

-- configuration

/-- The addresses of the RWS registers of the SAFE page, ascending (R809). -/
def safeRegs : List Nat :=
  [SAFE.TP_CFG] ++ (List.range 8).map SAFE.PAIR_CFG ++
    (List.range 4).flatMap (fun x => [SAFE.SO_CFG x, SAFE.SO_SS1 x, SAFE.SO_RAMP x, SAFE.SO_VSTOP x]) ++
    (List.range 8).flatMap (fun m => [SAFE.MON_CFG m, SAFE.MON_VLIM m, SAFE.MON_WIN m, SAFE.MON_RATIO m]) ++
    (List.range 32).flatMap (fun c => [SAFE.SF_CFG c, SAFE.SF_IDS c, SAFE.SF_CONN c, SAFE.SF_TIME c, SAFE.SF_AGE c, SAFE.SF_MAP c])

/-- CFG_CRC (R809). -/
def safeCrc (s : State) : Nat := crc32c (safeRegs.flatMap (fun a => wordBytes (rd s a)))

/-- An SO_CFG, PAIR_CFG, MON_CFG or SF_CFG whose enable bit a write sets (R3). -/
def safeEnables (o : Nat) (v : Word) : Bool :=
  bit v 0 && (decide (0x60 ≤ o ∧ o < 0x80) || decide (0x80 ≤ o ∧ o < 0x200 ∧ o % 16 = 0) ||
    decide (0x200 ≤ o ∧ (o - 0x200) % 0x20 = 0))

/-- The checks of a commit of the SAFE page as a whole, `g` the settings after it (R785, R796, R803, R804, R806, R808). -/
def safeCommitChk (s : State) (g : Nat → Word) : Chk :=
  let sf (c : Nat) := g (SAFE.SF_CFG c)
  let ons := (List.range 32).filter (fun c => bit (sf c) 0)
  { busy := rejIf (s.safe.outs.any (·.on)) Rsn.BUSY
    zero := rejIf (ons.any (fun c => decide (fld (g (SAFE.SF_TIME c)) 0 14 = 0 ∨ fld (g (SAFE.SF_TIME c)) 14 14 = 0))) Rsn.ZERO
    spec := firstSome [
      rejIf ((List.range 8).any (fun k =>
        let w := g (SAFE.PAIR_CFG k)
        bit w 0 && bit w 4 && decide (fld w 5 2 = fld w 7 2))) 0x40,
      rejIf (ons.any (fun c => ons.any (fun d => decide (c ≠ d) && (bit (sf c) 1 == bit (sf d) 1) &&
        decide (fld (g (SAFE.SF_CONN c)) 0 16 = fld (g (SAFE.SF_CONN d)) 0 16)))) 0x41,
      rejIf (decide (ownHubId s = 0) && ons.any (fun c => !sfEn s c)) 0x42,
      rejIf ((List.range 8).any (fun m =>
        let w := g (SAFE.MON_CFG m)
        bit w 0 && decide (fld w 12 6 = fld w 18 6))) 0x43,
      rejIf (ons.any (fun c => !bit (sf c) 1 &&
        decide (10 * fld (g (SAFE.SF_TIME c)) 14 14 < 2 * fld (g (SAFE.SF_TIME c)) 0 14))) 0x44] }

/-- After a commit: connections that it enables start afresh (R805), pairs are evaluated as they now stand. -/
def safeCommitted (s0 s : State) : State :=
  let s := (List.range 32).foldl (fun s c => if sfEn s c && !sfEn s0 c then onConn s c (fun _ => {}) else s) s
  (List.range 8).foldl pairChanged s

/-- The check of R809 at Dawn. -/
def safeDawn (s : State) : State :=
  if s.partSB && safeLocked s && decide (fuseValue s 3 ≠ safeCrc s) then
    faultSrc (onSafe s (fun x => { x with mismatch := true })) 15 else s

/-- A warm reset (Table 19.6, R792): every output off and waiting, SS1 timers discarded. -/
def safeWarm (s : State) : State :=
  onSafe s (fun x => { x with
    held := List.replicate 16 none, sawLow := List.replicate 16 false, tp := [false, false, false, false], life := false
    outs := x.outs.map (fun o => { waiting := true, hsfb := o.hsfb, lsfb := o.lsfb })
    mons := List.replicate 8 {}, conns := List.replicate 32 {} })

-- views

/-- The computed registers of the SAFE page. -/
def safeView (s : State) (o : Nat) : Option Word :=
  let bits (n : Nat) (f : Nat → Bool) : Nat := (List.range n).foldl (fun a i => a + b2n (f i) * 2 ^ i) 0
  if !s.partSB then
    (if o = 0x4c then some (word (safeCrc s)) else if o = 0x48 ∨ o = 0x50 ∨ o = 0x54 ∨ o = 0x5c then some 0 else none)
  else if o = 0x48 then
    some (word (b2n (safeOn s) + 2 * b2n s.safe.mismatch + 4 * b2n s.safe.life +
      16 * bits 4 (fun x => soEn s x && startPending s x)))
  else if o = 0x4c then some (word (safeCrc s))
  else if o = 0x50 then
    some (word (bits 16 (fun i => s.safe.si.getD i false) + 2 ^ 16 * bits 8 (pairDemand s) +
      2 ^ 24 * bits 8 (fun k => (pairSt s k).fault)))
  else if o = 0x54 then
    some (word ((List.range 4).foldl (fun a x => a + 2 ^ (8 * x) *
      (b2n (hsdOn s x) + 2 * b2n (lsdOn s x) + 4 * b2n (outSt s x).hsfb + 8 * b2n (outSt s x).lsfb +
        16 * b2n ((outSt s x).on && decide ((outSt s x).test ≠ some false)) + 32 * b2n (outSt s x).ss1)) 0))
  else if o = 0x5c then some (word (bits 32 (fun c => decide ((connSt s c).cause ≠ 0))))
  else if 0x200 ≤ o then
    let t := connSt s ((o - 0x200) / 0x20)
    let d := if t.cause = 0 then t.data else 0
    if (o - 0x200) % 0x20 = 0x18 then some (word (t.cause + 2 ^ 8 * d + 2 ^ 16 * t.accepted))
    else if (o - 0x200) % 0x20 = 0x1c then some (word (t.crc + 2 ^ 16 * t.dup + 2 ^ 24 * t.time))
    else none
  else none

def safeSummary (s : State) : Nat := (List.range 4).foldl (fun a x => a + b2n (outSt s x).on * 2 ^ x) 0

end Sys2Proof.Machine
end

