-- ==== Sys2Proof/Machine/Sample.lean ====
section
/-!
DEFINITION. The records on their way (spec/01, R49 to R52; spec/07, R303, R304, R325 to R328; spec/13, R561 to R565): raw
records, the input block and the band-update event, filtered records, edges at TRIGIN, and the memory ports of the filters.
Marked choices: DESIGN CHOICE, log entries 43, 46.
-/
namespace Sys2Proof.Machine

-- raw records

/-- A raw record of AINch at index `n` reaches its slot and its chain (R49, R280, R618). -/
def rawDeliver (s : State) (ch n : Nat) (w : Word) : State :=
  feedChain (slotRecord s ch n w) ch (inputOf s ch).range (recVal w) n w

/-- What a tick edge brings first has happened: hub time stands on an edge, and no scheduled commit and no SYNC of an index up to
the present one waits (R148, R318, R875). -/
def edgeSettled (s : State) : Bool :=
  atTick s && s.pages.all (fun e => !e.2.sched.any (fun n => decide (n ≤ now s))) &&
    !(s.flt.syncAt.any (fun n => decide (n ≤ now s)) || s.flt.syncPin.any (fun n => decide (n ≤ now s)))

/-- AINch is sampled at the present index (R242, R404), and its record, which follows the settings of that index (R148), is not yet
there. -/
def sampledNow (s : State) (ch : Nat) : Bool :=
  sampling s && edgeSettled s && decide (inClass (inCfg s ch) ≠ Cls.OFF) && decide (now s % rawTicks s (ch / 4) = 0)

/-- RAW_RECORD (R49, R195 to R230, R245 to R249); a word that the converter queue loses becomes NODATA (R339, R357). -/
def execRawRecord (ch : Fin 128) (c : Conversion) (s : State) : Host.Outcome State Fault Refusal :=
  .next (when (sampledNow s ch) s (fun s =>
    let r := rawSample s ch (now s) c
    let q := fromQueue r.1 (ch / 4) c.ecc r.2 (nodataWord 0)
    rawDeliver q.1 ch (now s) q.2))

-- the input block

/-- AXr_EDGE.ch and AXr_EDGE.en. -/
def slotEdge (s : State) (r : Nat) : Option Nat :=
  if rdb s (MOT.AX_EDGE r) 7 then some (rdf s (MOT.AX_EDGE r) 0 6) else none

/-- Every band channel of engine `k` has its record of index `n` (R49). -/
def bandsReady (s : State) (k n : Nat) : Bool :=
  (List.range 4).all (fun i => (List.range (kindBands (axKind s (4 * k + i)))).all (fun c =>
    decide (((slotOf s (4 * k + i)).recs.getD c (0, 0)).1 = n) &&
      decide (((slotOf s (4 * k + i)).recs.getD c (0, 0)).2 ≠ 0x80000000 ∨ 0 < n)))

/-- The sixteen words of Table 13.3 for slot `r` at boundary `n` (R561, R562, R659). -/
def slotWords (s : State) (r n : Nat) : List Word :=
  let bands := kindBands (axKind s r)
  let x := slotOf s r
  let recs := (List.range 3).flatMap (fun c =>
    if c < bands then [word (x.recs.getD c (0, 0)).1, (x.recs.getD c (0, 0)).2] else [0, 0x80000000])
  let counts := (List.range 3).flatMap (fun c =>
    if c < bands then
      [word (min 65535 (bandOf s (bandAin s r c)).latchU), word (min 65535 (bandOf s (bandAin s r c)).latchL)]
    else [0, 0])
  let tags := (List.range bands).foldl (fun a c => a ||| fld (x.recs.getD c (0, 0)).2 0 8) 0
  match slotEdge s r with
  | some e => recs ++ counts ++ edgeWords s e n ++
      [word (tags + 2 ^ 8 * b2n (edgeOf s e).fault + 2 ^ 9 * b2n (posValid s e))]
  | none => recs ++ counts ++ [0, 0, 0, word tags]

/-- The counts of R267 are latched for the band channels of slot `r`. -/
def latchCounts (s : State) (r : Nat) : State :=
  (List.range (kindBands (axKind s r))).foldl (fun s c =>
    onBand s (bandAin s r c) (fun b => { b with latchU := b.countU, latchL := b.countL, countU := 0, countL := 0 })) s

/-- The edge channels of engine `k`, each once. -/
def engEdges (s : State) (k : Nat) : List Nat :=
  ((List.range 4).filterMap (fun i => slotEdge s (4 * k + i))).eraseDups

/-- The edge fault of the block reaches slot `r` (R618, cause EDGE). -/
def blockEdgeFault (s : State) (r n : Nat) : State :=
  let bad := (slotEdge s r).any (fun e => (edgeOf s e).fault)
  let s := onSlot s r (fun x => { x with edgeFault := bad })
  if bad then slotFault s r 5 n else s

/-- The input block of boundary `n` is written (R561 to R565). -/
def writeBlock (s : State) (k n : Nat) : State :=
  let s := (engEdges s k).foldl (fun s e => edgeBoundary s e n) s
  let s := (List.range 4).foldl (fun s i => latchCounts s (4 * k + i)) s
  let b : InBlock :=
    { idx := n, words := (List.range 4).flatMap (fun i => slotWords s (4 * k + i) n)
      phase := (List.range 4).map (fun i => phaseWord s (4 * k + i) n) }
  let s := onEng s k (fun e => { e with block := b })
  (List.range 4).foldl (fun s i => blockEdgeFault s (4 * k + i) n) s

/-- The start events of boundary `n` (R568, R570, Table 13.4). Cycles are counted from the BU event: a stage that runs then
is taken to be at the cycle on which its next instruction may issue. -/
def boundaryEvents (s : State) (k n : Nat) : State :=
  let b := n / buTicks s k
  let rv := rdf s (AE.CASCADE k) 0 6
  let rp := rdf s (AE.CASCADE k) 8 6
  let s := onEng s k (fun e => { e with
    offset := match e.stage with | some c => -(c.free : Int) | none => 0
    chain := true })
  let s := raiseEvent s k 0
  let s := if b % (rv * rp) = 0 then raiseEvent s k 1 else s
  if b % rv = 0 then raiseEvent s k 2 else s

/-- BU (R49, R561, R568 to R570): on a band-update boundary, when the records of all band channels have arrived. -/
def execBu (k : Fin 12) (s : State) : Host.Outcome State Fault Refusal :=
  let n := now s
  .next (when (sampling s && buBoundary s k && bandsReady s k n) s (fun s =>
    let s := writeBlock s k n
    if (engOf s k).run = .running then boundaryEvents s k n else s))

-- filtered records

/-- The index of output `num` + 1 of chain `c`, where its rate fixes it (R302, R304). -/
def nextIndex (k : ChainCfg) (o : OutRec) : Nat :=
  if k.rs then (((o.num + 1) * k.rsIn * 2 ^ 32) / (max 1 k.ratio : Nat)).toNat else o.index + k.rsIn

/-- The output closes a window of reductions (R325, R327). -/
def redCloses (s : State) (c : Nat) (o : OutRec) : Bool :=
  let w : Int := (chainCfg s c).w
  decide (w ≠ 0) && ((chainOf s c).red.running || decide (o.num % w = 0)) && decide ((o.num + 1) % w = 0)

/-- The four records of a closed window, minimum, maximum, mean and RMS (R326). -/
def redRecords (s : State) (c : Nat) : List Word :=
  let p := c / 8
  let i := c % 8
  [rd s (FLT.CH_RED_MIN p i), rd s (FLT.CH_RED_MAX p i), rd s (FLT.CH_RED_MEAN p i), rd s (FLT.CH_RED_RMS p i)]

/-- One chain output reaches everything that takes records of its channel (R304, R325, R470, R518, R564, R232, R695). -/
def deliverOut (s : State) (c ch : Nat) (o : OutRec) : State :=
  let k := chainCfg s c
  let s := onChain s c (fun t => { t with recent := keepSince (·.index) o.index (o :: t.recent) })
  let next := nextIndex k o
  let s := feedStreams s 0 ch o.index [o.word] (some next) false
  let closes := redCloses s c o
  let s := redStep s c o
  let s := if closes then feedStreams s 1 ch o.index (redRecords s c) none false else s
  let s := reamsRecord s ch o.index o.word
  liteDeliver (subDeliver (aoDeliver s ch) ch o.index o.word) ch o.word

/-- FILTERED_RECORD (R303, R304): the oldest output of the channel's chain that waits is delivered. -/
def filteredRecord (s : State) (ch : Nat) : State :=
  match chainOfChannel ch with
  | none => s
  | some c =>
    match (chainOf s c).queue with
    | [] => s
    | o :: t => deliverOut (onChain s c (fun x => { x with queue := t })) c ch o

def execFilteredRecord (ch : Nat) (s : State) : Host.Outcome State Fault Refusal := .next (filteredRecord s ch)

-- TRIGIN

/-- TRIGIN_EDGE (R45, R48, R521, R524, R632): the edge carries its compensated timestamp in units of 2⁻⁶ ns. -/
def trigEdge (s : State) (pin : Nat) (falling : Bool) (stamp : Nat) : State :=
  let l := s.pins.trigin.set pin (!falling)
  let s := { s with pins := { s.pins with
    trigin := l, triginAt := keepSince (·.1) (now s) ((edgeFrom s (stamp * 1024), l) :: s.pins.triginAt) } }
  if sampling s then reamsPin (pinMarks s pin falling (indexAt s (stamp * 1024))) pin falling stamp else s

def execTriginEdge (pin : Fin 4) (falling : Bool) (stamp : Nat) (s : State) (ecc : WordErr := .sound) :
    Host.Outcome State Fault Refusal :=
  let r := readStamp s ecc (pinStamp stamp)
  .next (trigEdge r.1 pin falling r.2)

end Sys2Proof.Machine
end

