-- ==== Sys2Proof/Machine/Status.lean ====
section
/-!
DEFINITION. What a page and the hub report of themselves: PAGE_STAT (Table 4.3), attention (Table 4.12), the status word of
Table 4.7, and changes of the power state (Table 3.11).
Marked choices: DESIGN CHOICE, log entry 27.
-/
namespace Sys2Proof.Machine

-- power state

/-- PWR.STAT.state. -/
def PowerState.code : PowerState → Nat
  | .dawn => 1 | .noon => 2 | .dusk => 3 | .twilight => 4
  | .vbkAbsent => 0 | .midnight => 0 | .reset => 0 | .factoryTest => 0

/-- A new power state, with EVT.state_change where STAT.state changes. -/
def setPower (s : State) (st : PowerState) : State :=
  evtIf (decide (s.pwr.st.code ≠ st.code)) { s with pwr := { s.pwr with st := st } } pgPWR 0

/-- The hub runs: it is in Dawn, Noon, Dusk or Twilight, and no warm reset holds it. -/
def hubRuns (s : State) : Bool :=
  !s.pwr.warm.running && (match s.pwr.st with
    | .noon => true | .dusk => true | .twilight => true | .dawn => true
    | .vbkAbsent => false | .midnight => false | .reset => false | .factoryTest => false)

-- attention

/-- PAGE_STAT.evt_pending of page `p`. -/
def evtPending (s : State) (p : Nat) : Bool := decide (rd s (hdr p Hdr.EVT) &&& rd s (hdr p Hdr.EVT_EN) ≠ 0)

/-- ATTN_MAPm (Table 4.12). -/
def attnMap (s : State) (m : Nat) : Word :=
  bitsWord ((List.range 32).map (fun i => (blkOfPage (32 * m + i)).isSome && evtPending s (32 * m + i)))

/-- Attention: an event of some page is set and enabled. -/
def attn (s : State) : Bool := (List.range 256).any (fun p => (blkOfPage p).isSome && evtPending s p)

-- the page status

/-- PAGE_STAT.summary of a page, where its chapter defines one. A missing XLP clock shows in bit 16 of SYS: Table 2.7
names the register, not the bit. -/
def pageSummary (s : State) (b : Blk) (i : Nat) : Nat :=
  match b with
  | .sys => b2n (!s.clk.xlp)
  | .fq => fqSummary s i
  | .cc => ccSummary (coreOf s i)
  | .hkc => rdf s HKC.SEL 16 1
  | .flt => fltSummary s i
  | .time => (servo s).code + 2 ^ 3 * b2n (gridValid s)
  | .lane => b2n (linkUpOn s (laneOfIdx i))
  | .ring => b2n s.ring.root + 2 * b2n s.ring.closed
  | .strm => openStreams s
  | .cmd => pendingCount s
  | .capt => armedBits s
  | .ae => aeSummary s i
  | .mot => motSummary s
  | .edge => edgeSummary s i
  | .sprt => sprtSummary s i
  | .lite => armedStrobes s
  | .zip => zipSummary s
  | .cal => calSummary s
  | .nvm => b2n (nvBusy s)
  | .safe => safeSummary s
  | .twin => s.twin.pair.code + 2 ^ 3 * b2n s.twin.active
  | .host => 0 | .pwr => 0 | .clk => 0 | .aout => 0 | .ptp => 0 | .vat => 0 | .fuse => 0 | .jrnl => 0

/-- The block of a page is in fault. -/
def pageFault (s : State) (b : Blk) (i : Nat) : Bool :=
  match b with
  | .cc => (coreOf s i).short
  | .ae => decide ((engOf s i).run = .fault)
  | .mot => decide (motSummary s ≠ 0)
  | .edge => decide (edgeSummary s i ≠ 0)
  | .safe => decide (rd s SAFE.FAULT ≠ 0)
  | .cal => calBgFail s
  | .sys => decide (rd s SYS.INT_FAULT ≠ 0)
  | .pwr => s.pwr.railFail
  | .host => false | .clk => false | .fq => false | .hkc => false | .aout => s.aout.any (·.fault) | .flt => false
  | .time => false | .ptp => false | .lane => false | .ring => false | .strm => false | .cmd => false | .vat => false
  | .capt => false | .sprt => (sprtOf s i).fault | .lite => false | .zip => false | .nvm => false | .fuse => false
  | .jrnl => false | .twin => false

/-- The block of a page is at work. -/
def pageRuns (s : State) (b : Blk) (i : Nat) : Bool :=
  match b with
  | .fq => sampling s | .cc => sampling s | .hkc => sampling s | .aout => sampling s | .flt => sampling s
  | .time => s.time.gridStarted
  | .ptp => domEn s i
  | .lane => linkUpOn s (laneOfIdx i)
  | .ring => s.ring.address.isSome
  | .strm => decide (openStreams s ≠ 0)
  | .cmd => (runningCmd s).isSome
  | .capt => decide (armedBits s ≠ 0)
  | .ae => decide ((engOf s i).run = .running)
  | .mot => s.slots.any slotOn
  | .edge => (List.range 8).any (fun c => decide (chMode s (8 * i + c) ≠ 0))
  | .sprt => decide ((sprtOf s i).st ≠ 0)
  | .lite => decide (armedStrobes s ≠ 0) || s.lites.any (fun l => l.frame.isSome)
  | .zip => decide (zipSummary s ≠ 0)
  | .cal => calRunning s
  | .nvm => nvBusy s
  | .safe => safeOn s
  | .twin => isPaired s
  | .sys => hubRuns s | .host => hubRuns s | .pwr => hubRuns s | .clk => hubRuns s | .vat => hubRuns s
  | .fuse => false | .jrnl => false

/-- The state field of PAGE_STAT. -/
def pageState (s : State) (b : Blk) (i p : Nat) : Nat :=
  if !blkOn s p then 0 else if pageFault s b i then 3 else if pageRuns s b i then 2 else 1

/-- An RWS register of page `p` holds an unapplied write: SHADOW_STAT.dirty. -/
def pageDirty (s : State) (p : Nat) : Bool :=
  s.shadow.any (fun e => decide (pageOf e.1 = p)) || (decide (0x60 ≤ p ∧ p < 0x90) && polyDirty s (p - 0x60))

/-- PAGE_STAT (Table 4.3). -/
def pageStat (s : State) (b : Blk) (i p : Nat) : Word :=
  word (pageState s b i p + 2 ^ 4 * b2n (pinfo s p).snapshot.isSome + 2 ^ 5 * b2n (evtPending s p) +
    2 ^ 6 * b2n (decide (rd s (hdr p Hdr.ERRCODE) ≠ 0)) + 2 ^ 7 * b2n (pageDirty s p || scheduled s p) +
    2 ^ 16 * pageSummary s b i)

-- the status word

/-- A status word (Table 4.7) with the level, err and tcount of a path, and late clear: a late READ adds it (R169, `spiLate`). -/
def statusOf (s : State) (level : Nat) (err : Bool) (tcount : Nat) : Word :=
  word (b2n (attn s) + 2 * b2n err + 2 ^ 3 * b2n s.host.busy + 2 ^ 4 * b2n s.host.fetch.isSome + 2 ^ 5 * level +
    2 ^ 8 * s.pwr.st.code + 2 ^ 16 * (tcount % 256) + 2 ^ 24 * 0xa5)

/-- The status word for path `p`. -/
def statusWord (s : State) (p : Path) : Word :=
  statusOf s (pathLevel s p) (pathOf s p).err (pathOf s p).tcount

/-- The status word leaves: the path's record of refusals starts afresh. -/
def takeStatus (s : State) (p : Path) : State := onPath s p (fun t => { t with err := false })

end Sys2Proof.Machine
end

