-- ==== Sys2Proof/Machine/Twin.lean ====
section
/-!
DEFINITION. Twin operation (spec/20): pairing, heartbeats, mirroring, the handover of the outputs, and the TWIN page.
Marked choices: DESIGN CHOICE, log entry 7; DEDUCED, log entries 12, 69, 70, 71.
-/
namespace Sys2Proof.Machine

def onTwin (s : State) (f : TwinState → TwinState) : State := { s with twin := f s.twin }

def hbPeriod (s : State) : Nat := rdf s TWIN.HB_PERIOD 0 14
def pairEnabled (s : State) : Bool := rdb s TWIN.CFG 0
def mirrorMode (s : State) (k : Nat) : Nat := rdf s (TWIN.MIRROR_CFG k) 0 2
def mirrorLen (s : State) (k : Nat) : Nat := rdf s (TWIN.MIRROR_CFG k) 8 6

/-- Pairing is configured (R853). -/
def pairConfigured (s : State) : Bool := pairEnabled s && decide (hbPeriod s ≠ 0)

/-- ARBSEL, at a level, selects this member (R81). -/
def selects (s : State) (level : Bool) : Bool := level == s.pins.strapTwin

-- pairing

/-- What the pairing exchange shows of the partner (Table 20.1), in order: HB_PERIOD, TWIN_KEY written, TWINID, SYS.DEVICE, its
address or 0xFF, the root's serial low and high, MIRROR_PERIOD, the 12 MIRROR_CFG, the 12 PROG_CRC. -/
def remoteAt (l : List Word) (i : Nat) : Word := l.getD i 0

/-- The answer to a nonce (Table 20.1, R757): HMAC-SHA-256 over its 16 bytes, most significant first, keyed with TWIN_KEY. -/
def pairAnswer (s : State) (nonce : BitVec 128) : List Word :=
  let h := hmac (keyBytes (fuseValue s 1)) (keyBytes nonce.toNat)
  (List.range 8).map (fun i => beBytesWord ((h.drop (4 * i)).take 4))

/-- The first failing condition of Table 20.1 as its refuse code, 0 for none; `keyOk`: the partner's answer checks. -/
def pairRefuse (s : State) (l : List Word) (keyOk : Bool) : Nat :=
  let r := remoteAt l
  if !pairConfigured s || decide (hbPeriod s ≠ (r 0).toNat) then 1
  else if !fuseWritten s 1 || decide (r 1 = 0) then 2
  else if !keyOk then 3
  else if (decide (r 2 ≠ 0)) = s.pins.strapTwin then 4
  else if r 3 ≠ resetOf SYS.DEVICE ∨ s.ring.address.isNone ∨ r 4 = 0xff ∨
      (r 5).toNat + 2 ^ 32 * (r 6).toNat ≠ s.ring.rootSerial then 5
  else if rd s TWIN.MIRROR_PERIOD ≠ r 7 ∨ (List.range 12).any (fun k => decide (rd s (TWIN.MIRROR_CFG k) ≠ r (8 + k))) ∨
      (List.range 12).any (fun k => decide (mirrorMode s k ≠ 0 ∧ progCrc (engOf s k) ≠ r (20 + k))) then 6
  else 0

/-- PAIRING_RETRY (R816): this hub sends a fresh nonce and its answer to the partner's; the partner's answer is judged. -/
def pairingRetry (s : State) (l : List Word) (nonce : BitVec 128) (answer : List Word) : State :=
  let own := Config.challenge s.freeCtr
  let f := pairRefuse s l (decide (answer = pairAnswer s own))
  let s := if fuseWritten s 1 then sendTwin (drawn s) (.pairing own (pairAnswer s nonce)) else s
  onTwin s (fun t => { t with
    refuse := f, pair := if f = 0 then .pairing else .refused
    partnerAddr := if f = 0 then (remoteAt l 4).toNat % 256 else t.partnerAddr })

def execPairingRetry (remote : List Word) (nonce : BitVec 128) (s : State) (answer : List Word := []) :
    Host.Outcome State Fault Refusal :=
  .next (when (!isPaired s && hubRuns s && linkUpOn s .l2 && !bistHeld s pgTWIN) s (fun s => pairingRetry s remote nonce answer))

/-- The position of every open stream (R826). -/
def streamPositions (s : State) : List StreamPos :=
  ((List.range 64).filter (fun i => takesRecords (strmOf s i))).map (fun i =>
    let x := strmOf s i
    ⟨i, x.nextSeq, if x.cur.isEmpty then x.placed else x.curFirst, x.acked⟩)

/-- The areas of local memory that a snapshot replaces (R842): mirror out, data area, table area. -/
def snapArea (a : Nat) : Bool := decide (0x11000 ≤ a ∧ a < 0x11800) || inData a || inTables a

/-- The snapshot of R842: words that read 0 are left out. -/
def snapshotOf (s : State) : SnapshotMsg :=
  { words := (List.finRange 12).flatMap (fun (k : Fin 12) =>
      ((engOf s k).sram.filter (fun w => snapArea w.1)).map (fun w => (k, w.1, w.2)))
    streams := streamPositions s }

/-- PAIRED (R817, R842): a partner that is active sends a snapshot. -/
def pairUp (s : State) : State :=
  let snap := s.twin.partnerActive && !s.twin.active
  let s := evt (onTwin s (fun t => { t with
    pair := if snap then .snapshot else .paired, pairedAt := s.time.now })) pgTWIN 0
  let s := if snap then wr s TWIN.SNAP_STAT 0 else s
  if s.twin.active then sendTwin s (.snapshot (snapshotOf s)) else s

-- heartbeats

/-- This member meets R839. -/
def twinReady (s : State) : Bool :=
  let mp := rdf s TWIN.MIRROR_PERIOD 0 10
  decide (s.twin.pair = .paired) && gridValid s && decide (servo s = .locked) &&
    decide ((rd s TWIN.OFFSET).toInt.natAbs ≤ 5120) && decide (rd s PWR.FAULT_SRC = 0) &&
    (List.range 12).all (fun k => decide (engSlots s k = 0 ∨ (engOf s k).run = .running)) &&
    (s.twin.active || s.twin.mirrorAt.any (fun t => decide (s.time.now ≤ t + 30 * mp)))

/-- An L2 heartbeat arrived within the last 3 periods. -/
def partnerSeen (s : State) : Bool := s.twin.hbAt.any (fun t => decide (s.time.now ≤ t + 30 * hbPeriod s))

/-- The heartbeat word (Table 20.2). -/
def hbWord (s : State) : Word :=
  word (b2n s.twin.active + 2 * b2n (twinReady s) + 2 ^ 2 * b2n s.twin.release + 2 ^ 3 * b2n (partnerSeen s) +
    2 ^ 4 * b2n s.twin.arbsel + 2 ^ 5 * b2n (decide (rd s PWR.FAULT_SRC ≠ 0)) + 2 ^ 6 * b2n s.pins.strapTwin +
    2 ^ 8 * s.pwr.st.code + 2 ^ 16 * keyCheck s 1)

/-- HEARTBEAT_SEND (R819, R820). -/
def heartbeatSend (s : State) : State :=
  let w := hbWord s
  let n := (s.twin.hbCount + 1) % 65536
  let s := wr (onTwin s (fun t => { t with hbCount := n })) TWIN.HB_WORD w
  let s := if s.ring.address.isSome then
      sendRing s (macReg s TWIN.ARB_MAC_LO) (.response
        { version := 1, op := 0x81, hub := s.ring.address.getD 0, session := 0, count := 1, seq := BitVec.ofNat 16 n, address := 0x0f8074
          status := statusWord s .spi, error := 0, data := [w] })
    else s
  if isPaired s ∨ s.twin.pair = .pairing then sendTwin s (.heartbeat w) else s

def execHeartbeatSend (s : State) : Host.Outcome State Fault Refusal :=
  .next (when (hubRuns s && decide (hbPeriod s ≠ 0)) s heartbeatSend)

/-- HEARTBEAT (R821): the heartbeats missed before it are counted; Δ is measured with it (R831). -/
def heartbeatHeard (s : State) (w : Word) : State :=
  if isPaired s ∨ s.twin.pair = .pairing then
    let p := 10 * hbPeriod s
    let missed := match s.twin.hbAt with
      | some t => if p = 0 then 0 else (s.time.now - t + p / 2) / p - 1
      | none => 0
    let s := bumpSat s TWIN.HB_MISS 0 16 missed
    let s := wr s TWIN.OFFSET (Config.measured TWIN.OFFSET s.time.now)
    onTwin s (fun t => { t with
      hbAt := some s.time.now, offsetAt := some s.time.now, partnerActive := bit w 0, partnerReady := bit w 1 })
  else s

-- handover

/-- n_h(k) of R828 for the n_s of the losing member. -/
def handoverBound (s : State) (ns k : Nat) : Nat :=
  let t := buTicks s k
  if t = 0 then ns + 5 else ceilDiv (ns + 5) t * t

/-- n_h* of R828. -/
def handoverLast (s : State) (bounds : List Nat) (ns : Nat) : Nat :=
  let l := (List.range 12).filter (fun k => decide (engSlots s k ≠ 0))
  if l.isEmpty then ns + 5 else l.foldl (fun a k => max a (bounds.getD k 0)) 0

def handoverOf (s : State) (ns : Nat) (losing : Bool) (faults : List HandoverFault) : Handover :=
  let b := (List.range 12).map (handoverBound s ns)
  { ns := ns, bounds := b, last := handoverLast s b ns, losing := losing, faults := faults }

/-- This member takes the outputs at index `n`, its partner being lost (R830). -/
def takeAlone (s : State) (n : Nat) : State :=
  onTwin s (fun t => { t with
    takeAt := none, handover := some { ns := n, bounds := List.replicate 12 n, last := n, losing := false } })

/-- The slots of the old active member that are in FAULT (R833). -/
def faultList (s : State) : List HandoverFault :=
  ((List.finRange 48).filter (fun (r : Fin 48) => decide ((slotOf s r).st = .fault))).map (fun r =>
    ⟨r, (slotOf s r).cause, (slotOf s r).reaction⟩)

/-- This member acts on the level of ARBSEL at index `n` (R828 to R830). -/
def arbAct (s : State) (level : Bool) (n : Nat) : State :=
  let s := onTwin s (fun t => { t with arbsel := level })
  let drives := decide (s.pwr.st = .noon ∨ (s.pwr.st = .dusk ∧ s.twin.active))
  if drives && !selects s level then
    if isPaired s && s.twin.partnerReady then
      let h := handoverOf s n true (faultList s)
      sendTwin (onTwin s (fun t => { t with handover := some h })) (.handover ⟨n, h.faults⟩)
    else evtIf (pairConfigured s) s pgTWIN 3
  else if decide (s.pwr.st = .twilight) && selects s level then
    if isPaired s then onTwin s (fun t => { t with takeAt := some n }) else takeAlone s n
  else onTwin s (fun t => { t with takeAt := none })

/-- ARBSEL has a new stable level (R828); a handover in progress completes first (R844). -/
def arbChange (s : State) (level : Bool) : State :=
  let s := { s with pins := { s.pins with arbsel := level } }
  if s.twin.handover.isSome then s else arbAct s level (now s)

/-- After n_h*, ARBSEL is evaluated again on the next tick edge (R844). -/
def arbAgain (s : State) : State :=
  if s.pins.arbsel = s.twin.arbsel then s else arbAct s s.pins.arbsel (now s + 1)

/-- HANDOVER_FRAME (R830). -/
def handoverHeard (s : State) (m : HandoverMsg) : State :=
  if decide (s.pwr.st = .twilight) && s.twin.handover.isNone && selects s s.pins.arbsel then
    onTwin s (fun t => { t with takeAt := none, handover := some (handoverOf s m.ns false m.faults) })
  else s

def execHandoverFrame (m : HandoverMsg) (s : State) : Host.Outcome State Fault Refusal := .next (handoverHeard s m)

/-- Excitation, RTD currents and burn-out tests move at index `n` (R834). -/
def moveExcitation (s : State) (n : Nat) : State :=
  let s := (List.range 16).foldl (fun s k => if excOn s k then excChange s k n else s) s
  (List.range 128).foldl (fun s ch =>
    let u := iexUse (inCfg s ch)
    if u.1 || u.2 then onInput s ch (fun i => { i with setlMode := 16 }) else s) s

/-- The counters and registers of a completed handover (R838, R846). -/
def handoverDone (s : State) (h : Handover) : State :=
  let s := wr64 s TWIN.HANDOVER_LO h.last
  let s := evt (bumpSat s TWIN.COUNTS 0 16 1) pgTWIN 2
  let s := moveExcitation s h.last
  arbAgain (onTwin s (fun t => { t with handover := none, release := false, takeAt := none }))

/-- Every engine that a slot enables has handed over, and n_h* is reached. -/
def handoverEnds (s : State) (h : Handover) : Bool :=
  decide (h.last ≤ now s) && (List.range 12).all (fun k => decide (engSlots s k = 0) || h.done.contains k)

/-- HANDOVER_RELEASE (R829): engine `k` releases its GC balls; at n_h* the rest goes and the member is the standby. -/
def handoverRelease (s : State) (h : Handover) (k : Nat) : State :=
  let s := (List.range 4).foldl (fun s i =>
    (List.range (kindLegs (axKind s (4 * k + i)))).foldl (fun s j => onGc s (legGc s (4 * k + i) j) releaseBall) s) s
  let h := { h with done := h.done ++ [k] }
  if handoverEnds s h then
    let s := releaseSlots (onTwin s (fun t => { t with active := false }))
    let s := if s.pwr.st = .noon then setPower s .twilight else s
    handoverDone s h
  else onTwin s (fun t => { t with handover := some h })

def execHandoverRelease (k : Fin 12) (s : State) : Host.Outcome State Fault Refusal :=
  .next (match s.twin.handover with
    | some h => if h.losing ∧ (h.bounds.getD k 0 ≤ now s ∨ h.last ≤ now s) ∧ !h.done.contains k.val then
        handoverRelease s h k else s
    | none => s)

/-- The level that the receiver of a ball reads. -/
def Ball.level (b : Ball) : Bool := b.drive.getD b.held

/-- A shadow slot as the new active member takes it (R832, R833). -/
def takeSlot (s : State) (h : Handover) (r : Nat) : State :=
  match h.faults.find? (fun f => decide (f.slot.val = r)) with
  | some f =>
    if (slotOf s r).st = .disabled then s
    else
      let s := onSlot s r (fun x => { x with st := .fault, cause := f.cause, faultIdx := now s })
      applyReaction (faultSrc (evt s pgMOT 0) 15) r (if f.reaction = 0 then 0 else 1)
  | none =>
    if slotOn (slotOf s r) then
      if ((s.gen.getD (axGen s r) {}).level) = false then
        setLegs (onSlot s r (fun x => { x with st := .arming, armIdx := now s, lawOn := false })) r [false, false, false]
      else if (slotOf s r).st = .arming then enterRun s r else s
    else s

/-- δ of R831 in CLKT cycles of 1.25 ns, from Δ in units of 2⁻⁸ ns. -/
def takeDelta (s : State) : Int := -((-((rd s TWIN.OFFSET).toInt + 256)) / 320)

/-- HANDOVER_TAKE (R831 to R833): engine `k` drives; at n_h* the groups follow and the member is the active one. -/
def handoverTake (s : State) (h : Handover) (k : Nat) : State :=
  let s := (List.range 4).foldl (fun s i => takeSlot s h (4 * k + i)) s
  let h := { h with done := h.done ++ [k] }
  let s := onTwin s (fun t => { t with handover := some h, delta := takeDelta s })
  let s := (List.range 4).foldl (fun s i => syncSlot s (4 * k + i)) s
  if handoverEnds s h then
    let rest := (List.range 12).filter (fun j => !h.done.contains j)
    let s := rest.foldl (fun s j => (List.range 4).foldl (fun s i => takeSlot s h (4 * j + i)) s) s
    let s := setPower (onTwin s (fun t => { t with active := true, handover := none })) .noon
    handoverDone (takeSlots s) h
  else s

def execHandoverTake (k : Fin 12) (s : State) : Host.Outcome State Fault Refusal :=
  .next (match s.twin.handover with
    | some h => if !h.losing ∧ (h.bounds.getD k 0 ≤ now s ∨ h.last ≤ now s) ∧ !h.done.contains k.val then
        handoverTake s h k else s
    | none => s)

/-- ARB_MISMATCH (R830, R843): 300 ns after n_s without an event of R830, or a selected member in Dawn beside an active partner. -/
def execArbMismatch (s : State) : Host.Outcome State Fault Refusal :=
  .next (when (s.twin.takeAt.any (fun n => decide (n + 3 ≤ now s)) ||
    (decide (s.pwr.st = .dawn) && isPaired s && selects s s.pins.arbsel && s.twin.partnerActive)) s
    (fun s => evt s pgTWIN 3))

/-- PARTNER_LOST (R821, R830). A stream that waited for the partner's next quire goes on by itself. -/
def partnerLost (s : State) : State :=
  let s := if linkUpOn s .l2 then bumpSat s TWIN.HB_MISS 0 16 3 else s
  let s := evt (bumpSat s TWIN.COUNTS 16 16 1) pgTWIN 1
  let s := onTwin s (fun t => { t with
    pair := .lost, partnerReady := false, partnerActive := false, positions := [], hbAt := none, mirrorAt := none })
  let s : State := { s with streams := s.streams.map (fun x => { x with joining := none }) }
  if decide (s.pwr.st = .twilight) && selects s s.pins.arbsel && s.twin.handover.isNone then
    takeAlone s (max (s.twin.takeAt.getD 0) (now s))
  else s

-- mirroring

/-- Local addresses that mode carries (R824): words of mirror out. -/
def mirrorAddrs (mode len : Nat) : List Nat :=
  if mode = 1 then (List.range (16 * len)).map (fun i => 0x11000 + 4 * i)
  else if mode = 2 then (List.range 4).flatMap (fun i => (List.range 16).map (fun j => 0x11000 + 0x100 * i + 4 * j))
  else []

/-- MIRROR_FRAME_SEND (R824, R826): mirror out goes between stages alone (R567); the stream positions go whatever the mode. -/
def execMirrorFrameSend (k : Fin 12) (s : State) : Host.Outcome State Fault Refusal :=
  .next (when (s.twin.active && isPaired s) s (fun s =>
    let l := (mirrorAddrs (mirrorMode s k) (mirrorLen s k)).map (fun a => (a, sramRead (engOf s k) a))
    let s := if mirrorMode s k ≠ 0 ∧ (engOf s k).stage.isNone then sendTwin s (.mirror ⟨k, mirrorMode s k, l⟩) else s
    sendTwin s (.positions (streamPositions s))))

/-- The words that a mirror frame writes (R824): to mirror in, in mode 2 also to mirror out. -/
def mirrorWords (m : MirrorMsg) : List (Nat × Word) :=
  (m.words.filter (fun w => decide (0x11000 ≤ w.1 ∧ w.1 < 0x11800))).flatMap (fun w =>
    (w.1 + 0x800, w.2) :: (if m.mode = 2 then [w] else []))

/-- MIRROR_FRAME (R824, R567). -/
def mirrorHeard (s : State) (m : MirrorMsg) : State :=
  if isPaired s && !s.twin.active then
    onEng (onTwin s (fun t => { t with mirrorAt := some s.time.now })) m.engine (fun e => writeBetween e (mirrorWords m))
  else s

def execMirrorFrame (m : MirrorMsg) (s : State) : Host.Outcome State Fault Refusal := .next (mirrorHeard s m)

/-- The partner's stream positions arrive (R826). -/
def positionsHeard (s : State) (l : List StreamPos) : State :=
  l.foldl joinStream (onTwin s (fun t => { t with positions := l }))

/-- What a snapshot writes into engine `k`: a word of its areas that the snapshot leaves out reads 0. -/
def snapWords (m : SnapshotMsg) (e : EngineState) (k : Nat) : List (Nat × Word) :=
  (e.sram.filter (fun w => snapArea w.1)).map (fun w => (w.1, 0)) ++
    (m.words.filter (fun w => decide (w.1.val = k) && snapArea w.2.1)).map (fun w => (w.2.1, w.2.2))

/-- SNAPSHOT (R842): each part is written between stages. -/
def snapshotHeard (s : State) (m : SnapshotMsg) : State :=
  if s.twin.pair = .snapshot then
    let s : State := { s with engines := s.engines.zipIdx.map (fun x => writeBetween x.1 (snapWords m x.1 x.2)) }
    let s := positionsHeard s m.streams
    let s := wr s TWIN.SNAP_STAT (word (100 + 2 ^ 16 * min 65535 ((s.time.now - s.twin.pairedAt) / 10000)))
    evt (onTwin s (fun t => { t with pair := .paired })) pgTWIN 4
  else s

def execSnapshot (m : SnapshotMsg) (s : State) : Host.Outcome State Fault Refusal := .next (snapshotHeard s m)

/-- An acknowledgement that the partner has accepted (R487). -/
def twinAckHeard (s : State) (m : AckMsg) : State :=
  if isPaired s ∧ m.stream < 64 then (ackStream s m.stream m.a (if m.nackValid then some m.nackMap else none)).1 else s

-- the TWIN page

/-- TWIN.CTRL (R838). -/
def setRelease (s : State) (b : Bool) : State := onTwin s (fun t => { t with release := b })

def twinCtrl (s : State) (w : Who) (v : Word) : State :=
  match fld v 0 2 with
  | 1 => setRelease s true
  | 2 => setRelease s false
  | _ => refuse s w TWIN.CTRL ⟨Rsn.RANGE, none⟩

def execRequestRelease (p : Path) (s : State) : Host.Outcome State Fault Refusal :=
  .next (gated s (some p) TWIN.CTRL (fun s => setRelease s true))
def execCancelRelease (p : Path) (s : State) : Host.Outcome State Fault Refusal :=
  .next (gated s (some p) TWIN.CTRL (fun s => setRelease s false))

/-- L_L2 of R827 in b/s, for given registers. -/
def l2Load (g : Nat → Word) : Nat :=
  let d (k : Nat) : Nat :=
    let w := g (TWIN.MIRROR_CFG k)
    if fld w 0 2 = 2 then 256 + 54 else if fld w 0 2 = 1 then 64 * fld w 8 6 + 54 else 0
  500000000 + ((List.range 12).map d).sum * 8000000 / max 1 (fld (g TWIN.MIRROR_PERIOD) 0 10)

/-- The rate of L2. -/
def l2Rate (s : State) : Nat := modeRate (laneMode s .l2)

/-- The checks of a write of `v` to the TWIN page (R827, R845). -/
def twinChk (s : State) (o : Nat) (v : Word) : Chk :=
  let a := pgTWIN * 0x1000 + o
  let g : Nat → Word := fun b => if b = a then v else rd s b
  let mir := decide (o = 0x50 ∨ (0x80 ≤ o ∧ o < 0xb0))
  if mir then
    let mode1 := decide (0x80 ≤ o) && decide (fld v 0 2 = 1)
    { busy := rejIf (isPaired s) Rsn.BUSY
      zero := rejIf (mode1 && decide (fld v 8 6 = 0)) Rsn.ZERO
      range := rejIf (mode1 && decide (32 < fld v 8 6)) Rsn.RANGE
      spec := rejIf (decide (l2Rate s ≠ 0 ∧ l2Load (rd s) < l2Load g ∧ 60 * l2Rate s < 100 * l2Load g)) 0x40 }
  else {}

/-- The computed registers of the TWIN page. -/
def twinView (s : State) (o : Nat) : Option Word :=
  if o = 0x48 then
    some (word (s.twin.pair.code + 2 ^ 3 * b2n s.twin.active + 2 ^ 4 * b2n (twinReady s) + 2 ^ 5 * b2n s.twin.partnerReady +
      2 ^ 6 * b2n s.twin.release + 2 ^ 7 * b2n s.twin.arbsel + 2 ^ 8 * s.twin.refuse +
      2 ^ 12 * b2n (s.twin.offsetAt.any (fun t => decide (s.time.now ≤ t + 100000)))))
  else if o = 0x60 then
    let rate := modeRate (modeInForce s (laneIdx .l2))
    some (if rate = 0 then 0 else word (min 65535 (roundAway ((l2Load (rd s) * 1000 : Nat) : Int) rate).toNat))
  else none

end Sys2Proof.Machine
end

