-- ==== Sys2Proof/Machine/Ring.lean ====
section
/-!
DEFINITION. The ring as one hub takes part in it (spec/10): discovery, the root role and addresses, root beacons, the loss
and the break of the ring, admission traffic and ledger reports, the RING page.
Marked choices: DEDUCED, log entries 49, 52.
-/
namespace Sys2Proof.Machine

def onRing (s : State) (f : RingState → RingState) : State := { s with ring := f s.ring }
def onAdm (s : State) (f : AdmState → AdmState) : State := { s with adm := f s.adm }

/-- `g` is higher than `ref` (Table 11.6). -/
def genAhead (g ref : Seq32) : Bool := decide (1 ≤ (g - ref).toNat ∧ (g - ref).toNat < 2 ^ 31)

/-- A generation that a beacon or an assignment shows (R446). -/
def seeGen (s : State) (g : Seq32) : State := onRing s (fun r => { r with topGen := if genAhead g r.topGen then g else r.topGen })

-- the node list

/-- The distance that a copy of a discovery beacon shows: it came from the east on L0, from the west on L1 (R416, R447). -/
def hearNode (s : State) (port : Lane) (b : Beacon) : State :=
  if b.serial = s.serial then s
  else
    let old := s.ring.nodes.find? (fun n => decide (n.beacon.serial = b.serial))
    let n : Node := old.getD ⟨b, none, none, s.time.now⟩
    let n := if port = .l0 then { n with east := some (b.hops + 1) } else { n with west := some (b.hops + 1) }
    onRing s (fun r => { r with nodes := r.nodes.filter (fun x => decide (x.beacon.serial ≠ b.serial)) ++ [n] })

/-- Serials that hold no address. -/
def unaddressed (s : State) : List Nat :=
  (s.ring.nodes.filter (fun n => !s.ring.table.any (fun e => decide (e.1 = n.beacon.serial)))).map (fun n => n.beacon.serial)

/-- RING.HUBS.ring_full (R450). -/
def ringFull (s : State) : Bool := s.ring.root && decide (64 ≤ s.ring.table.length) && !(unaddressed s).isEmpty

/-- A discovery beacon is accepted (R445, R446, R450). -/
def beaconNews (s : State) (b : Beacon) : State :=
  if b.serial = s.serial then s
  else
    let full := ringFull s
    let s := seeGen s b.generation
    let s := onRing s (fun r => { r with
      nodes := r.nodes.map (fun n => if n.beacon.serial = b.serial then { n with beacon := b, heard := s.time.now } else n) })
    evtIf (!full && ringFull s) s pgRING 4

/-- DISCOVERY_BEACON (R445). -/
def execDiscoveryBeacon (port : Lane) (b : Beacon) (s : State) : Host.Outcome State Fault Refusal :=
  .next (when (isRingPort port && ringOn s) s (fun s => beaconNews (hearNode s port b) b))

/-- DISCOVERY_BEACON_SEND (R444). -/
def execDiscoveryBeaconSend (s : State) : Host.Outcome State Fault Refusal := .next (when (hubRuns s) s sendBeacon)

/-- `a` comes before `b` in the rule of R445: ROOTEN high first, then the lower serial. -/
def rootBefore (a b : Bool × Nat) : Bool := if a.1 = b.1 then decide (a.2 < b.2) else a.1

/-- The hub finds itself root (R445). -/
def findsRoot (s : State) : Bool :=
  s.ring.nodes.all (fun n => rootBefore (s.pins.strapRoot, s.serial) (n.beacon.rooten, n.beacon.serial))

-- the ledger reports

/-- The streams of this hub that hold an admission. -/
def ownItems (s : State) : List LedgerItem :=
  ((List.range 64).filter (fun i => decide ((strmOf s i).st = .admitted ∨ (strmOf s i).st = .running))).map (fun i =>
    ⟨i, strmQ s i, (strmOf s i).paired, if (strmOf s i).paired then s.twin.partnerAddr else 0xff, strmRate s i⟩)

/-- One reported stream joins the ledger: under the entry of its pair where the partner has reported it (R458, R462). -/
def mergeItem (l : List LedgerEnt) (hub : Nat) (i : LedgerItem) : List LedgerEnt :=
  let r : AdmRequest := ⟨0, hub, i.stream, i.paired, false, i.partner, i.q, i.rate⟩
  if l.any (fun e => e.matches r) then
    l.map (fun e => if e.matches r then (if e.hub = hub then { e with own := true } else { e with other := true }) else e)
  else l ++ [⟨hub, i.stream, i.q, i.rate, if i.paired then some i.partner else none, true, false⟩]

def mergeReport (s : State) (r : LedgerReport) : State :=
  onAdm s (fun a => { a with ledger := r.entries.foldl (fun l i => mergeItem l r.hub i) a.ledger })

/-- LEDGER_REPORT (R462): taken while the root rebuilds. -/
def ledgerHeard (s : State) (r : LedgerReport) : State := if s.ring.root && s.ring.rebuilding then mergeReport s r else s

def execLedgerReport (r : LedgerReport) (s : State) : Host.Outcome State Fault Refusal := .next (ledgerHeard s r)

/-- The frames of a ledger report: 32 entries each, or as many as MAX_FRAME lets through, and one empty frame for no entry. -/
def reportFrames (s : State) : List LedgerReport :=
  let l := ownItems s
  let per := max 1 (min 32 ((s.adm.maxFrame - 32) / 12))
  (List.range (max 1 (ceilDiv l.length per))).map (fun i =>
    ⟨s.ring.address.getD 0, i * per, l.length, (l.drop (i * per)).take per⟩)

/-- LEDGER_REPORT_SEND (R462). -/
def execLedgerReportSend (s : State) : Host.Outcome State Fault Refusal :=
  .next (when (s.ring.reportDue && s.ring.address.isSome && !s.ring.root) s (fun s =>
    let s := onRing s (fun r => { r with reportDue := false })
    (reportFrames s).foldl (fun s f => sendRing s (rootMac s) (.ledger f)) s))

/-- LEDGER_REBUILT (R462): the held requests are answered. -/
def execLedgerRebuilt (s : State) : Host.Outcome State Fault Refusal :=
  .next (when (s.ring.root && s.ring.rebuilding) s (fun s =>
    let l := s.adm.held
    let s := evt (onAdm (onRing s (fun r => { r with rebuilding := false })) (fun a => { a with held := [] })) pgRING 6
    l.foldl rootDecide s))

-- the root role

/-- RING.HOST_RATE's bucket is full (R439). -/
def bucketCap (s : State) : Nat := 16 * rdf s RING.MAX_FRAME 0 11 * 80
def fillBucket (s : State) : State := onAdm s (fun a => { a with bucket := bucketCap s, bucketAt := s.time.now })

/-- This hub takes the root role (R445, R452, R849): its own settings come into force, its own streams are in its ledger; after
its own warm reset it has kept the ledger (R462). Without a link on L3 no port carries the domains any longer (R382). -/
def takeRoot (s : State) (rebuild : Bool) : State :=
  let alone := !s.ring.root && !linkUpOn s .l3
  let s := evtIf (decide (s.ring.rootSerial ≠ s.serial) || !s.ring.root) s pgRING 1
  let kept := s.ring.keptLedger
  let s := onRing s (fun r => { r with
    root := true, rootSerial := s.serial, rootless := false, rebuilding := rebuild && !kept, cut := false, reportDue := false
    keptLedger := false })
  let s := onAdm s (fun a => { a with
    ledger := if kept then a.ledger else [], held := [], maxFrame := rdf s RING.MAX_FRAME 0 11 })
  let s := fillBucket (if kept then s else mergeReport s ⟨s.ring.address.getD 0, 0, 0, ownItems s⟩)
  if alone then portsLost s else s

/-- This hub gives up the root role to the root with serial `r` (R453). -/
def giveUpRoot (s : State) (r : Nat) : State :=
  let s := onRing s (fun x => { x with root := false, rootSerial := r, rebuilding := false, closed := false, reportDue := true })
  let s := onAdm s (fun a => { a with ledger := [], held := [], breakStat := 0 })
  evt s pgRING 1

-- addresses

/-- The address that R447 or R448 gives a hub among `n`. -/
def wantedAddr (s : State) (n : Nat) (x : Node) : Option Nat :=
  if rdb s RING.CFG 1 then
    (s.addrTable.find? (fun e => decide (e.2 = x.beacon.serial ∧ e.2 ≠ 0))).map (fun e => e.1)
  else match x.east, x.west with
    | some h, _ => some h
    | none, some h => some (n - h)
    | none, none => none

def freeAddr (t : List (Nat × Nat)) : Option Nat := (List.range 64).find? (fun a => !t.any (fun e => decide (e.2 = a)))

/-- A serial enters the table: its wanted address where that is free, the lowest free one otherwise, none where 64 hold one
(R447 to R451). A serial that the table holds keeps its address. -/
def addAddr (t : List (Nat × Nat)) (serial : Nat) (want : Option Nat) : List (Nat × Nat) :=
  if t.any (fun e => decide (e.1 = serial)) then t
  else
    let a := match want with
      | some a => if a < 64 ∧ !t.any (fun e => decide (e.2 = a)) then some a else freeAddr t
      | none => freeAddr t
    match a with
    | some a => t ++ [(serial, a)]
    | none => t

/-- The table sorted by address. -/
def sortTable (t : List (Nat × Nat)) : List (Nat × Nat) :=
  (List.range 64).filterMap (fun a => t.find? (fun e => decide (e.2 = a)))

/-- The root's new table: the root itself first, then the hubs in the order of their addresses. -/
def assignTable (s : State) : List (Nat × Nat) :=
  let n := s.ring.nodes.length + 1
  let own := if rdb s RING.CFG 1 then (s.addrTable.find? (fun e => decide (e.2 = s.serial ∧ s.serial ≠ 0))).map (fun e => e.1) else some 0
  let t := addAddr s.ring.table s.serial own
  let order := (List.range 65).flatMap (fun a =>
    s.ring.nodes.filter (fun x => decide (min 64 ((wantedAddr s n x).getD 64) = a)))
  sortTable (order.foldl (fun t x => addAddr t x.beacon.serial (wantedAddr s n x)) t)

/-- The hub holds address `a` (R449). -/
def holdAddr (s : State) (a : Nat) : State :=
  if s.ring.address = some a then s else evt (onRing s (fun r => { r with address := some a })) pgRING 0

/-- The root assigns addresses and sends them (R446 to R451, R437). -/
def assignAddrs (s : State) : State :=
  let full := ringFull s
  let g := (if genAhead s.ring.generation s.ring.topGen then s.ring.generation else s.ring.topGen) + 1
  let t := assignTable s
  let s := onRing s (fun r => { r with generation := g, topGen := g, table := t })
  let s := onAdm s (fun a => { a with maxFrame := rdf s RING.MAX_FRAME 0 11 })
  let s := match t.find? (fun e => decide (e.1 = s.serial)) with
    | some e => holdAddr s e.2
    | none => s
  let s := evtIf (!full && ringFull s) s pgRING 4
  let per := max 1 (min 32 ((s.adm.maxFrame - 36) / 9))
  (List.range (ceilDiv t.length per)).foldl (fun s i =>
    sendRing s ctlMac (.assignment ⟨g, i * per, s.adm.maxFrame, (t.drop (i * per)).take per⟩)) s

/-- Some ring port carries ring traffic. -/
def ringReady (s : State) : Bool := hubRuns s && ringOn s && ringLink s

/-- ADDRESS_ASSIGNMENT_SEND (R445, R446, R451): a hub that finds itself root takes the role first. -/
def assignmentSend (s : State) : State :=
  if s.ring.root then assignAddrs s
  else if s.ring.address.isNone ∧ findsRoot s then assignAddrs (takeRoot s true)
  else s

/-- An address assignment (R449, Table 10.8): a higher generation starts the table afresh, the same one completes it. -/
def assignmentHeard (s : State) (a : Assignment) : State :=
  if s.ring.root then seeGen s a.generation
  else
    let known := s.ring.address.isSome || !s.ring.table.isEmpty
    if known ∧ a.generation ≠ s.ring.generation ∧ !genAhead a.generation s.ring.generation then s
    else
      let fresh := !known || decide (a.generation ≠ s.ring.generation)
      let s := seeGen s a.generation
      let s := onRing s (fun r => { r with
        generation := a.generation
        table := sortTable ((if fresh then [] else r.table.filter (fun e =>
          !a.entries.any (fun x => decide (x.1 = e.1 ∨ x.2 = e.2)))) ++ a.entries) })
      let s := onAdm s (fun x => { x with maxFrame := a.maxFrame })
      match a.entries.find? (fun e => decide (e.1 = s.serial)) with
      | some e => holdAddr s e.2
      | none => s

-- root beacons

/-- ROOT_BEACON_SEND (R452). -/
def execRootBeaconSend (s : State) : Host.Outcome State Fault Refusal :=
  .next (when (s.ring.root && hubRuns s) s (fun s =>
    sendRing s ctlMac (.rootBeacon ⟨s.ring.generation, s.serial, 0, s.ring.closed, s.ring.rebuilding, s.ring.table.length⟩)))

/-- Both directions reach the root now (R882, R467). -/
def ringCloses (s : State) : State :=
  let c := within s closedAge s.ring.eastAt && within s closedAge s.ring.westAt
  if c ∧ !s.ring.closed then
    let s := onRing s (fun r => { r with closed := true })
    if s.ring.root then evt (onAdm s (fun a => { a with breakStat := 0 })) pgRING 3 else s
  else s

/-- A copy of the root's beacon: its hops and the time of its arrival (R392, R882). -/
def hearRootCopy (s : State) (port : Lane) (b : RootBeacon) : State :=
  if b.serial ≠ s.ring.rootSerial then s
  else
    let t := some s.time.now
    ringCloses (onRing s (fun r =>
      if port = .l1 then { r with eastAt := t, hopsEast := if r.root then r.hopsEast else b.hops }
      else { r with westAt := t, hopsWest := if r.root then r.hopsWest else b.hops }))

/-- A root beacon is accepted (R446, R452, R453, R462, R466). -/
def rootBeaconNews (s : State) (b : RootBeacon) : State :=
  let s := seeGen s b.generation
  if b.serial = s.serial then s
  else if s.ring.root then
    if b.serial < s.serial then giveUpRoot s b.serial
    else onRing s (fun r => { r with rebuilding := true })
  else
    let alive := within s lostAge s.ring.eastAt || within s lostAge s.ring.westAt
    let other := decide (s.ring.rootSerial ≠ b.serial)
    if other && alive && decide (s.ring.rootSerial < b.serial) then s
    else
      let cut := s.ring.cut
      let due := other || (b.rebuilding && !s.ring.sawRebuild)
      let s := onRing s (fun r => { r with
        rootSerial := b.serial, rootless := false, cut := false, sawRebuild := b.rebuilding
        reportDue := r.reportDue || due, keptLedger := false
        eastAt := if other then none else r.eastAt, westAt := if other then none else r.westAt })
      let s := evtIf other s pgRING 1
      if cut then recoverStreams s else s

/-- ROOT_BEACON (R453, R882). -/
def execRootBeacon (port : Lane) (b : RootBeacon) (s : State) : Host.Outcome State Fault Refusal :=
  .next (when (isRingPort port && ringOn s) s (fun s => hearRootCopy (rootBeaconNews s b) port b))

/-- The hubs that may take the role after the loss of the root (R452): this one and those heard within 30 ms, ROOTEN high. -/
def rootCandidates (s : State) : List Nat :=
  ((s.ring.nodes.filter (fun n => n.beacon.rooten && decide (s.time.now ≤ n.heard + 300000) &&
    decide (n.beacon.serial ≠ s.ring.rootSerial))).map (fun n => n.beacon.serial)) ++ (if s.pins.strapRoot then [s.serial] else [])

/-- ROOT_LOST (R452, R466). -/
def execRootLost (s : State) : Host.Outcome State Fault Refusal :=
  .next (when (hubRuns s && !s.ring.root && (s.ring.eastAt.isSome || s.ring.westAt.isSome)) s (fun s =>
    let l := rootCandidates s
    let s := onRing s (fun r => { r with
      cut := true, closed := false, eastAt := none, westAt := none, rootless := l.isEmpty })
    if l.contains s.serial && l.all (fun x => decide (s.serial ≤ x)) && s.ring.address.isSome then takeRoot s true else s))

/-- ROOT_ALONE (R849): no ring link 100 ms after phase 3. -/
def rootAlone (s : State) : State :=
  if hubRuns s && decide (3 ≤ s.pwr.dawnPhase) && !s.ring.root && s.ring.address.isNone && !ringLink s then
    assignAddrs (takeRoot s false) else s

/-- RING_BREAK (R465, R466, R882): BREAK_STAT shows a further break too; the event follows the change of ring_closed. -/
def execRingBreak (_port : Lane) (west east : Nat) (multiple : Bool) (s : State) : Host.Outcome State Fault Refusal :=
  let was := s.ring.closed
  let s := onRing s (fun r => { r with closed := false })
  .next (when s.ring.root s (fun s =>
    let w := word (west % 64 + 2 ^ 8 * (east % 64) + 2 ^ 15 + 2 ^ 16 * b2n multiple)
    evtIf was (onAdm s (fun a => { a with breakStat := w })) pgRING 2))

-- admission traffic

/-- ADMISSION_REQUEST (R456). -/
def execAdmissionRequest (r : AdmRequest) (s : State) : Host.Outcome State Fault Refusal :=
  .next (when s.ring.root s (fun s => rootRequest s r))

/-- ADMISSION_RELEASE (R459). -/
def execAdmissionRelease (r : AdmRequest) (s : State) : Host.Outcome State Fault Refusal :=
  .next (when s.ring.root s (fun s => rootRelease s r))

/-- A frame of Table 10.6 with a request or a release. -/
def admissionHeard (s : State) (r : AdmRequest) : State :=
  if !s.ring.root then s else if r.release then rootRelease s r else rootRequest s r

/-- ADMISSION_REPLY (R479, Table 11.6): it is matched to the pending request by its ID. -/
def replyHeard (s : State) (r : AdmReply) : State :=
  match s.adm.waiting.find? (fun w => decide (w.1 = r.request)) with
  | some w => if s.ring.address = some r.hub ∧ w.2.1 = r.stream then admResult s w.2.1 w.1 r.result else s
  | none => s

def execAdmissionReply (r : AdmReply) (s : State) : Host.Outcome State Fault Refusal := .next (replyHeard s r)

/-- The request of a stream that waits for a reply. -/
def waitingFor (s : State) (i : Nat) : Option (Nat × Nat × Nat) := s.adm.waiting.find? (fun w => decide (w.2.1 = i))

/-- ADMISSION_RETRY (R463). -/
def execAdmissionRetry (i : Fin 64) (s : State) : Host.Outcome State Fault Refusal :=
  .next (match waitingFor s i with
    | some w => sendAdm s (requestOf s i w.1 false)
    | none => s)

/-- ENOROOT (R463). -/
def execEnoroot (i : Fin 64) (s : State) : Host.Outcome State Fault Refusal :=
  .next (match waitingFor s i with
    | some w => admResult s i w.1 2
    | none => s)

-- links

/-- Some port that can carry a domain has link (R382). -/
def domainCarried (s : State) : Bool := if s.ring.root then linkUpOn s .l3 else ringLink s

/-- LINK_DOWN with what follows at once: the loss of the domains (R382) and of the partner (R821). -/
def linkLost (s : State) (l : Lane) : State :=
  if linkUpOn s l then
    let had := domainCarried s
    let s := linkFall s l
    let s := if had && !domainCarried s then portsLost s else s
    if l = .l2 && (isPaired s || decide (s.twin.pair = .pairing)) then partnerLost s else s
  else s

-- the RING page

/-- A write to a RING register that only the root takes (R471). -/
def rootOnly (o : Nat) : Bool := decide (o = 0x58 ∨ o = 0x5c ∨ o = 0x60 ∨ (0x90 ≤ o ∧ o ≤ 0x98))

/-- The table entry at ADDR_TBL_SEL. -/
def tblAt (s : State) : Nat := sparseGet s.addrTable 0 (rdf s RING.ADDR_TBL_SEL 0 6)

/-- The serial that the entry holds after a write of `v` at ADDR_TBL_LO or ADDR_TBL_HI. -/
def tblAfter (s : State) (o : Nat) (v : Word) : Nat :=
  if o = 0x94 then tblAt s / 2 ^ 32 * 2 ^ 32 + v.toNat else tblAt s % 2 ^ 32 + 2 ^ 32 * v.toNat

/-- The checks of a write of `v` to the RING page (R437, R455, R471, Table 10.12). -/
def ringChk (s : State) (w : Who) (o : Nat) (v : Word) : Chk :=
  let a : Nat := ledgerC s * (95 - fld v 0 5) / 100
  { busy := firstSome [
      rejIf (decide (o = 0x58 ∧ fld v 0 11 < largestFrame s.adm.ledger)) Rsn.BUSY,
      rejIf (decide (o = 0x5c) && s.ring.root && overcommitted.fracAbove' (ledgerUsed s.adm.ledger) a) Rsn.BUSY]
    spec := firstSome [
      rejIf (w.isSome && rootOnly o && !s.ring.root) 0x40,
      rejIf (decide (o = 0x94 ∨ o = 0x98) && decide (tblAfter s o v ≠ 0) &&
        s.addrTable.any (fun e => decide (e.1 ≠ rdf s RING.ADDR_TBL_SEL 0 6 ∧ e.2 = tblAfter s o v))) 0x41] }

/-- The effects of a write to the RING page: the table entry, a full bucket, MAX_FRAME of the root in force, the lanes of a
ring that is switched off. -/
def ringWritten (s0 s : State) (o : Nat) (v : Word) : State :=
  if o = 0x94 ∨ o = 0x98 then
    { s with addrTable := sparsePut s.addrTable 0 (rdf s RING.ADDR_TBL_SEL 0 6) (tblAfter s o v) }
  else if (o = 0x58 ∨ o = 0x60) ∧ s.ring.root then
    let s := onAdm s (fun a => { a with maxFrame := rdf s RING.MAX_FRAME 0 11 })
    if rd s0 RING.MAX_FRAME = rd s RING.MAX_FRAME ∧ rd s0 RING.HOST_RATE = rd s RING.HOST_RATE then s else fillBucket s
  else s

/-- The computed registers of the RING page. -/
def ringView (s : State) (o : Nat) : Option Word :=
  let r := s.ring
  let root (n : Nat) : Option Word := some (word (if r.root then n else 0))
  match o with
  | 0x44 => some (word (r.address.getD 0 + 2 ^ 6 * b2n r.address.isSome + 2 ^ 7 * b2n r.root + 2 ^ 8 * b2n r.closed +
      2 ^ 9 * b2n r.rootless + 2 ^ 10 * b2n (overcommitted s) + 2 ^ 11 * b2n r.rebuilding +
      2 ^ 16 * (r.hopsEast % 64) + 2 ^ 24 * (r.hopsWest % 64)))
  | 0x48 => some (word (r.table.length + 2 ^ 8 * min 255 (unaddressed s).length + 2 ^ 16 * b2n (ringFull s)))
  | 0x4c => some r.generation
  | 0x50 => some (word r.rootSerial)
  | 0x54 => some (word (r.rootSerial / 2 ^ 32))
  | 0x6c => root (ledgerA s / 1000000)
  | 0x70 => let u := ledgerUsed s.adm.ledger; root (ceilDiv u.1 (u.2 * 1000000))
  | 0x74 => root s.adm.ledger.length
  | 0x7c => some (if r.root then s.adm.breakStat else 0)
  | 0x94 => some (word (tblAt s))
  | 0x98 => some (word (tblAt s / 2 ^ 32))
  | _ => none

end Sys2Proof.Machine
end

