-- ==== Sys2Proof/Machine/Reset.lean ====
section
/-!
DEFINITION. Supplies, clocks, power states and resets (spec/03), the end of Dawn (R853), the GC and GEN keepers (R864) and
the test access port (R71, R72).
Marked choices: DESIGN CHOICE, log entries 1, 14, 73, 74; DEDUCED, log entries 28, 30, 32, 33, 34, 35, 36; PRESUMED, log entry
37.
-/
namespace Sys2Proof.Machine

def onPwr (s : State) (f : PwrState → PwrState) : State := { s with pwr := f s.pwr }
def onClk (s : State) (f : ClkState → ClkState) : State := { s with clk := f s.clk }
def onRstReq (s : State) (f : RstReq → RstReq) : State := onPwr s (fun p => { p with rstReq := f p.rstReq })

-- balls that the hub drives

/-- HRDY (R171). -/
def hrdy (s : State) : Bool := hostReady s && !s.host.busy && !s.host.pulse

/-- nFAULT is held low (R128). -/
def nFaultLow (s : State) : Bool :=
  decide (rd s PWR.FAULT_SRC ≠ 0) ||
    !(match s.pwr.st with
      | .noon => true | .dusk => true | .twilight => true
      | .dawn => false | .vbkAbsent => false | .midnight => false | .reset => false | .factoryTest => false)

-- rails and clocks

def setRail (s : State) (r : Rail) (v : Bool) : State := onPwr s (fun p => { p with rails := p.rails.set (railIdx r) v })

-- the causes of a reset, by their bits of RST_CAUSE

abbrev Cause.POR : Nat := 0x1
abbrev Cause.RAIL_MAIN : Nat := 0x2
abbrev Cause.VBK : Nat := 0x4
abbrev Cause.MIDNIGHT : Nat := 0x8
abbrev Cause.RSTREQ : Nat := 0x10
abbrev Cause.HOST : Nat := 0x20
abbrev Cause.LOCKSTEP : Nat := 0x40
abbrev Cause.WATCHDOG : Nat := 0x80
abbrev Cause.QUEUE_FULL : Nat := 0x100
abbrev Cause.RAIL_ANALOG : Nat := 0x200
abbrev Cause.CLOCK : Nat := 0x400
abbrev Cause.REMOVAL : Nat := 0x800

def addCauses (a b : Nat) : Nat := a ||| b

/-- The bits of FAULT_SRC for the causes of a reset (Table 3.11, R129): reset, lockstep, watchdog, queue_full, rail, clock. -/
def causeFaults (c : Nat) : Nat :=
  let has (m : Nat) : Nat := b2n (decide (c &&& m ≠ 0))
  has 0x83d + 2 * has Cause.LOCKSTEP + 4 * has Cause.WATCHDOG + 8 * has Cause.QUEUE_FULL +
    16 * has (Cause.RAIL_MAIN + Cause.RAIL_ANALOG) + 32 * has Cause.CLOCK

-- cold resets

/-- Registers that a cold reset keeps: those kept in NV, and those of the always-on domain while VBK is present (R131, Tables
3.8, 3.10, 3.12, 18.9). -/
def coldKeeps (aon : Bool) (a : Nat) : Bool :=
  decide (a = PWR.RST_COUNT ∨ a = NVM.STORE_COUNT) ||
    (aon && decide (a = PWR.WAKE_CFG ∨ a = PWR.WAKE_AT ∨ a = PWR.HOLD_STAT ∨ a = CLK.XLP_TRIM))

/-- A cold reset (R113 to R115, Table 3.8) for causes `c`: the state `st` follows; `aon` says that VBK stays present. -/
def coldReset (s : State) (c : Nat) (aon : Bool) (st : PowerState) : State :=
  let s := cmdReset s
  { pending := s.pending
    regs := s.regs.filter (fun e => coldKeeps aon e.1)
    pwr := { st := st, rails := s.pwr.rails, railFail := aon && s.pwr.railFail
             duskIncomplete := aon && s.pwr.duskIncomplete, causes := c, rstReq := { level := s.pwr.rstReq.level }
             coarse := if aon then s.pwr.coarse else none, coarseAge := if aon then s.pwr.coarseAge else 0 }
    clk := s.clk, pins := s.pins, time := { now := s.time.now }, sent := s.sent
    cmd := s.cmd, nv := s.nv, fuses := s.fuses, changes := s.changes
    serial := s.serial, partSB := s.partSB, freeCtr := s.freeCtr }

/-- A cold reset with VBK present; one that meets another before the power-good instant adds its cause. -/
def coldAgain (s : State) (c : Nat) : State :=
  let c := addCauses c (if s.pwr.st = .reset then s.pwr.causes else 0)
  coldReset s c true .reset

-- the lanes and the domains at a loss

def allLanes : List Lane := [.l0, .l1, .l2, .l3]

/-- Every lane goes down, with what follows (R95, R102). -/
def lanesLost (s : State) : State := allLanes.foldl linkLost s

-- warm-reset requests

/-- The servo of R101: unlocked, seeded from the coarse counter where there is one (R387). -/
def seedTime (s : State) : State :=
  let fresh (v : Servo) : List DomainState := [{ servo := v }, { servo := v }]
  match s.pwr.coarse with
  | some c =>
    if s.clk.xlp then
      let e := (Config.freeWord s.freeCtr).toNat
      let s := drawn s
      onTime s (fun t => { ({ now := t.now } : TimeState) with ht := c + e * 2000000000, doms := fresh .seeded })
    else onTime s (fun t => { ({ now := t.now } : TimeState) with doms := fresh .unknown })
  | none => onTime s (fun t => { ({ now := t.now } : TimeState) with doms := fresh .unknown })

/-- A warm reset is in progress (R119): from t0 until sampling resumes. -/
def warmActive (s : State) : Bool := s.pwr.warm.running || s.pwr.warm.imageLoaded

/-- A warm-reset request for cause `c` (R113, R119, R129); `lost` says that the time PLL has stopped (R101). -/
def requestWarm (s : State) (c : Nat) (lost : Bool) : State :=
  if !hubOn s then s
  else
    let s := wr s PWR.FAULT_SRC (rd s PWR.FAULT_SRC ||| word (causeFaults c))
    if warmActive s then
      let s := wr s PWR.RST_CAUSE (rd s PWR.RST_CAUSE ||| word c)
      if lost && !s.pwr.warm.timeLost then
        seedTime (onPwr s (fun p => { p with warm := { p.warm with timeLost := true } })) else s
    else onPwr s (fun p => { p with
      causes := addCauses p.causes c, warm := { p.warm with requested := true, timeLost := p.warm.timeLost || lost } })

-- rails

/-- RAIL_LOST (R95, Table 3.2). -/
def railLost (s : State) (r : Rail) : State :=
  if s.pwr.st = .vbkAbsent ∨ !railOk s r then s
  else
    let s0 := s
    let s := setRail s r false
    match r with
    | .vbk => coldReset s Cause.VBK false .vbkAbsent
    | .vdd09 => if s0.pwr.st = .midnight then s else coldAgain s Cause.RAIL_MAIN
    | .vdd11m => if s0.pwr.st = .midnight then s else coldAgain s Cause.RAIL_MAIN
    | .vddio18 => if s0.pwr.st = .midnight then s else coldAgain s Cause.RAIL_MAIN
    | .vdda18 => requestWarm s Cause.RAIL_ANALOG true
    | .vafe50 => requestWarm s Cause.RAIL_ANALOG false
    | .vdd12l => if hubOn s then evt (lanesLost s) pgPWR 3 else s

def execRailLost (r : Rail) (s : State) : Host.Outcome State Fault Refusal := .next (railLost s r)

/-- ANALOG_RAIL_HOLD_END (Table 3.2). -/
def execAnalogRailHoldEnd (r : Rail) (s : State) : Host.Outcome State Fault Refusal :=
  .next (when (decide (r = .vdda18 ∨ r = .vafe50)) s (fun s => setRail s r true))

/-- VDD12L_RESTORED (R95, Table 3.11). -/
def execVdd12lRestored (s : State) : Host.Outcome State Fault Refusal :=
  .next (when (!railOk s .vdd12l && hubOn s) s (fun s => evt (setRail s .vdd12l true) pgPWR 3))

/-- VBK_APPLIED (R103, R114, R117): nPOR low at that moment is a cause too, and keeps PWREN high. -/
def execVbkApplied (s : State) : Host.Outcome State Fault Refusal :=
  .next (when (decide (s.pwr.st = .vbkAbsent)) s (fun s =>
    let s := setRail s .vbk true
    let c := addCauses Cause.VBK (if s.pins.npor then 0 else Cause.POR)
    if rdb s PWR.WAKE_CFG 0 || !s.pins.npor then onPwr s (fun p => { p with st := .reset, pwren := true, causes := c })
    else onPwr s (fun p => { p with st := .midnight, pwren := false, causes := c })))

/-- The straps are sampled (R74, R107). -/
def sampleStraps (s : State) : State :=
  { s with pins := { s.pins with strapTwin := s.pins.twinid, strapRoot := s.pins.rooten } }

/-- Hub time at the power-good instant (R108, R387): seeded from the coarse counter where it holds a time, unknown otherwise;
HOLD_STAT after Midnight. -/
def coldTime (s : State) : State :=
  let c0 := s.pwr.coarse
  let s := seedTime s
  match c0 with
  | some c =>
    if s.clk.xlp && decide (s.pwr.causes &&& Cause.MIDNIGHT ≠ 0) then
      let secs := s.pwr.coarseAge + (s.time.ht - c) / secLen
      let u := (Config.freeWord s.freeCtr).toNat % 65536
      wr (drawn s) PWR.HOLD_STAT (word (min 65535 (u + 2 * secs) + 2 ^ 16 * min 65535 secs))
    else s
  | none => s

/-- POWER_GOOD (R92): Dawn begins. -/
def powerGood (s : State) : State :=
  let c := s.pwr.causes
  let s := sampleStraps s
  let s := onPwr s (fun p => { p with rails := [true, true, true, true, true, true, true], pwrenFails := 0, removal := false })
  if s.pins.testen then onPwr s (fun p => { p with st := .factoryTest })
  else
    let s := coldTime s
    let s := wr (bumpSat s PWR.RST_COUNT 16 16 1) PWR.RST_CAUSE (word c)
    let s := wr (wr s PWR.FAULT_SRC (word (causeFaults c))) CLK.LOSS_COUNT 0
    let s := onRstReq s (fun r => { r with counting := !r.level })
    onPwr (setPower s .dawn) (fun p => { p with causes := 0, dawnPhase := 2, dawnAt := s.time.now })

def execPowerGood (s : State) : Host.Outcome State Fault Refusal :=
  .next (when (s.pins.npor && (decide (s.pwr.st = .reset) || (decide (s.pwr.st = .midnight) && s.pwr.pwren))) s powerGood)

/-- The hub waits for its rails with PWREN high (R93). -/
def waitsForRails (s : State) : Bool := s.pins.npor && decide (s.pwr.st = .reset ∨ s.pwr.st = .midnight)

/-- PWREN_TIMEOUT (R93). -/
def execPwrenTimeout (s : State) : Host.Outcome State Fault Refusal :=
  .next (when (waitsForRails s && s.pwr.pwren) s (fun s =>
    onPwr s (fun p => { p with pwren := false, pwrenFails := p.pwrenFails + 1 })))

/-- PWREN_RETRY (R93): after three failed attempts the hub stays in Midnight. -/
def execPwrenRetry (s : State) : Host.Outcome State Fault Refusal :=
  .next (when (waitsForRails s && !s.pwr.pwren && decide (0 < s.pwr.pwrenFails)) s (fun s =>
    if 3 ≤ s.pwr.pwrenFails then onPwr s (fun p => { p with st := .midnight, railFail := true, pwrenFails := 0 })
    else onPwr s (fun p => { p with pwren := true })))

-- clocks

def setClk (s : State) (c : Clk) (v : Bool) : State :=
  onClk s (fun k => match c with
    | .xsys => { k with xsys := v } | .xtime => { k with xtime := v } | .corePll => { k with corePll := v }
    | .memPll => { k with memPll := v } | .timePll => { k with timePll := v })

def clkOk (s : State) (c : Clk) : Bool :=
  match c with
  | .xsys => s.clk.xsys | .xtime => s.clk.xtime | .corePll => s.clk.corePll | .memPll => s.clk.memPll
  | .timePll => s.clk.timePll

/-- CLOCK_LOST (R98, R99, R101). -/
def clockLost (s : State) (c : Clk) : State :=
  if !clkOk s c then s
  else
    let s := setClk s c false
    let s := match c with
      | .xsys => bumpSat s CLK.LOSS_COUNT 0 8 1
      | .xtime => bumpSat s CLK.LOSS_COUNT 8 8 1
      | .corePll => s | .memPll => s | .timePll => s
    requestWarm s Cause.CLOCK (decide (c = .xtime ∨ c = .timePll))

def execClockLost (c : Clk) (s : State) : Host.Outcome State Fault Refusal := .next (clockLost s c)

/-- CLOCK_RESTORED (R99). -/
def execClockRestored (c : Clk) (s : State) : Host.Outcome State Fault Refusal := .next (setClk s c true)

/-- REFCLK_LOST (R102). -/
def refclkLost (s : State) (r : RefLoss) : State :=
  match r with
  | .refclk =>
    if s.clk.refclk then lanesLost (bumpSat (onClk s (fun k => { k with refclk := false })) CLK.LOSS_COUNT 16 8 1) else s
  | .lanePll l => linkLost (onClk s (fun k => { k with lanePll := k.lanePll.set (laneIdx l) false })) l

def execRefclkLost (r : RefLoss) (s : State) : Host.Outcome State Fault Refusal := .next (refclkLost s r)

/-- REFCLK_RESTORED (R102). -/
def execRefclkRestored (r : RefLoss) (s : State) : Host.Outcome State Fault Refusal :=
  .next (onClk s (fun k => match r with
    | .refclk => { k with refclk := true }
    | .lanePll l => { k with lanePll := k.lanePll.set (laneIdx l) true }))

/-- XLP_LOST (R98): the coarse counter stops. -/
def execXlpLost (s : State) : Host.Outcome State Fault Refusal :=
  .next (when s.clk.xlp s (fun s =>
    onPwr (bumpSat (onClk s (fun k => { k with xlp := false })) CLK.LOSS_COUNT 24 8 1) (fun p => { p with coarse := none })))

/-- XLP_RESTORED (R98). -/
def execXlpRestored (s : State) : Host.Outcome State Fault Refusal := .next (onClk s (fun k => { k with xlp := true }))

-- nPOR, nWAKE, the alarm

/-- The causes that a wake from Midnight adds (R107, R109, Table 3.11). -/
def wakeCauses (s : State) : Nat :=
  if s.pwr.st = .midnight then Cause.MIDNIGHT + (if s.pwr.removal then Cause.REMOVAL else 0) else 0

/-- NPOR_LOW (R117, R118). -/
def execNporLow (s : State) : Host.Outcome State Fault Refusal :=
  .next (when s.pins.npor s (fun s =>
    let s := { s with pins := { s.pins with npor := false } }
    if s.pwr.st = .vbkAbsent then s else coldAgain s (addCauses Cause.POR (wakeCauses s))))

/-- NPOR_RELEASE (R73, R74). -/
def execNporRelease (s : State) : Host.Outcome State Fault Refusal :=
  .next (when (!s.pins.npor) s (fun s =>
    let s := { s with pins := { s.pins with npor := true } }
    let s := if s.pwr.rails.all id then sampleStraps s else s
    if s.pins.testen && decide (s.pwr.st = .reset) then onPwr s (fun p => { p with st := .factoryTest }) else s))

/-- A wake from Midnight (R106): PWREN goes high. -/
def wake (s : State) : State :=
  onPwr s (fun p => { p with pwren := true, pwrenFails := 0, causes := addCauses p.causes (wakeCauses s) })

def asleep (s : State) : Bool := decide (s.pwr.st = .midnight) && !s.pwr.pwren && decide (s.pwr.pwrenFails = 0)

/-- NWAKE (R106, R109). -/
def execNwake (s : State) : Host.Outcome State Fault Refusal :=
  .next (when (asleep s && !s.pwr.removal && rdb s PWR.WAKE_CFG 1) s wake)

/-- The first second at or after `c` whose low 32 bits are WAKE_AT. -/
def alarmSec (s : State) (c : Nat) : Nat :=
  let t := c / 2 ^ 32 * 2 ^ 32 + (rd s PWR.WAKE_AT).toNat
  if t < c then t + 2 ^ 32 else t

/-- WAKE_AT (R106): the coarse counter stands at WAKE_AT. -/
def execWakeAt (s : State) : Host.Outcome State Fault Refusal :=
  .next (match s.pwr.coarse with
    | none => s
    | some c => when (asleep s && !s.pwr.removal && rdb s PWR.WAKE_CFG 2 && s.clk.xlp) s (fun s =>
      let t := alarmSec s (ceilDiv c secLen)
      wake (onPwr s (fun p => { p with coarse := some (t * secLen), coarseAge := p.coarseAge + (t * secLen - c) / secLen }))))

-- nRSTREQ

/-- NRSTREQ_FALL (R124, R125, R106). -/
def execNrstreqFall (s : State) : Host.Outcome State Fault Refusal :=
  .next (when s.pwr.rstReq.level s (fun s => onRstReq s (fun r =>
    if hubOn s ∧ !r.failed then { r with level := false, debounce := true, counting := true } else { r with level := false })))

/-- NRSTREQ_HIGH_SAMPLE (R124). -/
def execNrstreqHighSample (s : State) : Host.Outcome State Fault Refusal :=
  .next (onRstReq s (fun r => { r with level := true, debounce := false, counting := false }))

/-- NRSTREQ_DEBOUNCED (R124). -/
def execNrstreqDebounced (s : State) : Host.Outcome State Fault Refusal :=
  .next (when s.pwr.rstReq.debounce s (fun s =>
    requestWarm (onRstReq s (fun r => { r with debounce := false })) Cause.RSTREQ false))

/-- RSTREQ_FAILED (R125). -/
def execRstreqFailed (s : State) : Host.Outcome State Fault Refusal :=
  .next (when s.pwr.rstReq.counting s (fun s =>
    evt (onRstReq s (fun r => { r with failed := true, counting := false, debounce := false })) pgPWR 1))

/-- RSTREQ_RECOVERED (R125). -/
def execRstreqRecovered (s : State) : Host.Outcome State Fault Refusal :=
  .next (when (s.pwr.rstReq.failed && s.pwr.rstReq.level) s (fun s =>
    evt (onRstReq s (fun r => { r with failed := false })) pgPWR 2))

-- internal faults

/-- LOCKSTEP_MISMATCH (R35). -/
def execLockstepMismatch (s : State) : Host.Outcome State Fault Refusal :=
  .next (when (hubOn s) s (fun s => requestWarm (wr s SYS.INT_FAULT (rd s SYS.INT_FAULT ||| 1)) Cause.LOCKSTEP false))

/-- WATCHDOG (R113). -/
def execWatchdog (s : State) : Host.Outcome State Fault Refusal := .next (requestWarm s Cause.WATCHDOG false)

/-- QUEUE_FULL (R43). -/
def execQueueFull (_q : Nat) (s : State) : Host.Outcome State Fault Refusal :=
  .next (when (hubOn s) s (fun s => requestWarm (wr s SYS.INT_FAULT (rd s SYS.INT_FAULT ||| 2)) Cause.QUEUE_FULL false))

-- the warm reset

/-- The servo of a domain at a warm reset that leaves the T domain running (R386). -/
def warmServo (x : DomainState) : DomainState :=
  { x with
    servo := (match x.servo with
      | .locked => .holdover | .acquire => .freerun | .unknown => .unknown | .seeded => .seeded
      | .holdover => .holdover | .freerun => .freerun | .grandmaster => .grandmaster)
    near := 0, far := 0, early := 0, late := 0, beyond := 0, settling := false, twoStep := none, reqSent := none
    master := none, foreign := [], l3 := 0 }

/-- Hub time at t0 (R101, R386): holdover counts from the last accepted Sync. -/
def warmTime (s : State) : State :=
  if s.pwr.warm.timeLost then seedTime s
  else
    let x := trackedDom s
    let age := match x.fits with
      | e :: _ => (htI s - e.1).toNat / tickLen
      | [] => 0
    let temps := (List.range 4).map (fun i => BitVec.ofNat 16 (rdf s (HKC.TEMP i) 0 16))
    onTime s (fun t => { t with
      held := true, slewing := false, switchTo := none, ports := [{}, {}, {}, {}]
      holdFrom := (match x.servo with
        | .locked => some (t.now - age, temps)
        | .holdover => t.holdFrom.map (fun h => (t.now - age, h.2))
        | .unknown => t.holdFrom | .seeded => t.holdFrom | .acquire => t.holdFrom | .freerun => t.holdFrom
        | .grandmaster => t.holdFrom)
      holdDt := if x.servo = .locked then 0 else t.holdDt
      doms := t.doms.map warmServo })

/-- The outputs at t0 (Table 3.9). -/
def warmOutputs (s : State) : State :=
  if isPaired s then releaseOutputs s
  else { s with gc := s.gc.map (fun _ => {}), gen := s.gen.map (driveBall false) }

/-- Streams at t0: records on their way, those of the edge queues among them, are placed and stored, the open quire closes short
(Table 3.9, R9, R10). -/
def warmStreams (s : State) : State :=
  let s := (List.range 64).foldl (fun s e => (edgeOf s e).queue.foldl (fun s _ => drainEdge s e) s) s
  (List.range 64).foldl (fun s i =>
    let s := flushRecs s i
    let s := if takesRecords (strmOf s i) then closeQuire s i else s
    let s := (strmOf s i).queue.foldl (fun s _ => storeQuire s i []) s
    onStrm s i (fun x => { x with wait := [], marks := [], cur := [], curEcc := 0 })) s

/-- The paths at a reset that keeps the ring sessions (R181, R766, Table 3.8). -/
def warmHost (s : State) : State :=
  { s with host := { paths := s.host.paths.map (fun p => { tcount := p.tcount }), sessions := s.host.sessions } }

/-- The lanes at t0: every link down. -/
def warmLanes (s : State) : State :=
  { s with lanes := s.lanes.map (fun l => { hadLink := l.linkUp })
           ring := { root := false, keptLedger := s.ring.root, topGen := s.ring.topGen
                     table := if s.ring.root then s.ring.table else [] }
           adm := { s.adm with held := [], ledger := if s.ring.root then s.adm.ledger else [], breakStat := 0, maxFrame := 600 } }

/-- WARM_RESET (R120, Tables 3.8 and 3.9): t0. -/
def warmReset (s : State) : State :=
  let s := if sampling s then wr64 s PWR.LAST_SAMPLED_LO (now s) else s
  let s := warmOutputs s
  let s := captWarm (liteWarm (safeWarm (cmdReset (warmStreams s))))
  let c := s.pwr.causes
  let s : State := { s with regs := s.regs.filter (fun e => decide (offOf e.1 ≠ Hdr.EVT ∧ offOf e.1 ≠ Hdr.ERRCODE)) }
  let s := wr (bumpSat s PWR.RST_COUNT 0 16 1) PWR.RST_CAUSE (word c)
  let s := wr s VAT.SR_STAT (word (1 + 2 ^ 16 * min 65535 (rdf s VAT.SR_STAT 16 16 + 1)))
  let s := wr s NVM.ECC_STAT 0
  let s := onPwr (setPower s .dawn) (fun p => { p with
    causes := 0, dawnPhase := 2, target := 0, resumeDue := !s.time.gridStarted && !p.warm.timeLost
    warm := { running := true, timeLost := p.warm.timeLost } })
  let s := warmLanes (warmHost (warmTime s))
  { s with
    shadow := [], pages := [], twin := { arbsel := s.twin.arbsel }
    inputs := s.inputs.map (fun i => { steps := i.steps })
    hkc := { s.hkc with single := none, sels := [], last := none }
    aout := List.replicate 8 {}
    chains := List.replicate 320 {}
    flt := { s.flt with polyShadow := [], syncAt := none, syncPin := none }
    slots := List.replicate 48 {}
    engines := s.engines.map (fun e => { staging := e.staging, replay := e.staging.length })
    sports := s.sports.map (fun p => { runSerial := p.runSerial }) }

def execWarmReset (s : State) : Host.Outcome State Fault Refusal :=
  .next (when (s.pwr.warm.requested && !warmActive s && hubOn s) s warmReset)

/-- Every lane that had link before the reset has linked again (R120). -/
def lanesBack (s : State) : Bool := s.lanes.all (fun l => !l.hadLink || l.linkUp)

/-- HUB_READY (R120, R486): the servo runs again and unacknowledged quires are sent again. Where no grid runs, nothing waits to
resume. -/
def execHubReady (s : State) : Host.Outcome State Fault Refusal :=
  .next (when (s.pwr.warm.imageLoaded && !s.pwr.warm.ready && !warmHeld s) s (fun s =>
    let on := s.time.gridStarted || s.pwr.warm.timeLost
    let s := if servo s = .holdover ∨ servo s = .freerun then onTime s (fun t => { t with f := holdF s }) else s
    recoverStreams (onPwr s (fun p => { p with warm := if on then { p.warm with ready := true } else {} }))))

-- the end of Dawn

def setWait (s : State) (v : Nat) : State := wr s SYS.DAWN_STAT (setFld (rd s SYS.DAWN_STAT) 8 4 v)

/-- BIST holds the hub in Dawn (R854). -/
def bistFailed (s : State) : Bool := decide (rdf s SYS.DAWN_STAT 16 4 ≠ 0)

/-- Bring-up is complete (R853, R855). -/
def dawnComplete (s : State) : State :=
  if s.pwr.dawnPhase = 11 then s else evt (setWait (onPwr s (fun p => { p with dawnPhase := 11 })) 0) pgSYS 2

/-- The hub reaches Noon or Twilight (R129, R853, Table 3.5). -/
def dawnDone (s : State) (st : PowerState) : State :=
  let s := onTwin s (fun t => { t with active := decide (st = .noon), arbsel := s.pins.arbsel })
  let s := setWait (setPower s st) 0
  let s := wr s PWR.FAULT_SRC (setFld (rd s PWR.FAULT_SRC) 0 6 0)
  let s := onPwr s (fun p => { p with warm := {} })
  if st = .noon then takeOutputs s else releaseOutputs s

/-- A selected member whose partner is active waits before bring-up completes (R843). -/
def arbWait (s : State) : Bool :=
  pairConfigured s && isPaired s && selects s s.pins.arbsel && s.twin.partnerActive

/-- Phase 9 has ended: bring-up completes and the hub leaves Dawn by R853 and R843, or waits. -/
def leaveDawn (s : State) : State :=
  if s.pwr.st ≠ .dawn ∨ bistFailed s ∨ s.pwr.dawnPhase < 10 then s
  else if arbWait s then (if rdf s SYS.DAWN_STAT 8 4 = 7 then s else evt (setWait s 7) pgTWIN 3)
  else
    let s := dawnComplete s
    let sel := selects s s.pins.arbsel
    if !pairConfigured s then dawnDone s .noon
    else if isPaired s then dawnDone s (if sel then .noon else .twilight)
    else if sel then dawnDone s .noon
    else setWait s 6

/-- Table 8.3, warm reset: every input and every excitation driver that is on count as changed at index `n`. -/
def warmMarks (s : State) (n : Nat) : State :=
  let s : State := { s with inputs := s.inputs.map (fun i => { i with setlMode := 16 }) }
  (List.range 16).foldl (fun s k => if excOn s k then excChange s k n else s) s

/-- Sampling runs again from index `n` (R121, R122, Table 3.9). -/
def resumeAt (s : State) (n : Nat) : State :=
  let last := rd64 s PWR.LAST_SAMPLED_LO
  let s := wr64 s PWR.RESUMED_LO n
  let s := if last + 2 ≤ n then noteGap (notSampledAll s (last + 1) (n - 1)) (last + 1) (n - 1) else s
  let s := onTime s (fun t => { t with held := false })
  let s := onPwr s (fun p => { p with warm := {}, dawnPhase := 10 })
  leaveDawn (restartChains (warmMarks s n) (fun _ => true) n)

/-- SAMPLING_RESUMED (R120): the first index that is a multiple of 10,000 after the hub is ready, once no rail and no clock holds the
reset (R95, R99). -/
def execSamplingResumed (s : State) : Host.Outcome State Fault Refusal :=
  .next (when (s.pwr.warm.ready && !s.pwr.warm.timeLost && !warmHeld s && s.time.held && s.time.gridStarted && atTick s &&
      decide (now s % 10000 = 0)) s
    (fun s => resumeAt s (now s)))

-- Dusk and Midnight

/-- The check of PWR.CTRL.target (Table 3.11, R110). -/
def targetChk (s : State) (t : Nat) : Option Rej :=
  firstSome [
    rejIf (decide (t ≠ 0 ∧ s.pwr.st ≠ .noon ∧ s.pwr.st ≠ .twilight)) Rsn.BUSY,
    rejIf (decide (3 < t)) Rsn.RANGE]

/-- Dusk begins (R110, R840): streams close, reams stop, a paired active member asks for its release. -/
def enterDusk (s : State) (t : Nat) : State :=
  let s := onPwr (wr s PWR.CTRL (word t)) (fun p => { p with target := t, duskIncomplete := false })
  let s := captDusk (setPower s .dusk)
  let s := if isPaired s && s.twin.active then onTwin s (fun t => { t with release := true }) else s
  (List.range 64).foldl (fun s i => closeStream s none i) s

def powerTarget (s : State) (t : Nat) : State := if t = 0 then s else enterDusk s t

/-- PWR.CTRL by its word. -/
def pwrCtrl (s : State) (p : Path) (v : Word) : State :=
  hostAct s (some p) PWR.CTRL v (targetChk s (fld v 0 3)) (fun s => powerTarget s (fld v 0 3))

def execTargetMidnight (p : Path) (s : State) : Host.Outcome State Fault Refusal := .next (pwrCtrl s p 1)
def execTargetRemoval (p : Path) (s : State) : Host.Outcome State Fault Refusal := .next (pwrCtrl s p 2)
def execTargetTwilight (p : Path) (s : State) : Host.Outcome State Fault Refusal := .next (pwrCtrl s p 3)

/-- PWR.RST_CTRL (R113, Table 3.10). -/
def rstCtrl (s : State) (p : Path) (v : Word) : State :=
  hostAct s (some p) PWR.RST_CTRL v (rejIf (decide (v ≠ 0xd0a50001)) Rsn.RANGE) (fun s => requestWarm s Cause.HOST false)

def execRstCtrl (p : Path) (v : Word) (s : State) : Host.Outcome State Fault Refusal := .next (rstCtrl s p v)

/-- Midnight (R105): hub time goes into the coarse counter, PWREN goes low, every other domain is in reset. -/
def enterMidnight (s : State) (removal : Bool) : State :=
  let known := s.clk.xlp
  let c := s.time.ht / 2000000000 * 2000000000
  let s := coldReset s 0 true .midnight
  onPwr s (fun p => { p with
    removal := removal, pwren := false, coarse := if known then some c else none, coarseAge := 0 })

/-- Dusk ends in the state of its target (Table 3.5, R840). -/
def duskOver (s : State) : State :=
  let t := s.pwr.target
  let s := evt (onPwr (wr s PWR.CTRL 0) (fun p => { p with target := 0 })) pgPWR 4
  if t = 1 then enterMidnight s false
  else if t = 2 then enterMidnight s true
  else
    let s := setPower s .twilight
    if s.twin.active then setPower s .noon else s

/-- Every condition of R110 holds. -/
def duskDrained (s : State) : Bool :=
  s.streams.all (fun x => decide (x.st = .idle ∨ x.st = .ended) && x.felt.isEmpty && x.queue.isEmpty) && cmdsEnded s &&
    !nvBusy s && !(s.twin.active && (isPaired s || decide (s.pwr.target = 3)))

/-- DUSK_END (R110). -/
def execDuskEnd (s : State) : Host.Outcome State Fault Refusal :=
  .next (when (decide (s.pwr.st = .dusk) && duskDrained s) s duskOver)

/-- DUSK_LIMIT (R111). -/
def execDuskLimit (s : State) : Host.Outcome State Fault Refusal :=
  .next (when (decide (s.pwr.st = .dusk)) s (fun s =>
    let s := (List.range 64).foldl (fun s i =>
      if (strmOf s i).st = .idle ∨ (strmOf s i).st = .ended then s else endSpills s i 3) s
    duskOver (onPwr (duskCommands s) (fun p => { p with duskIncomplete := true }))))

-- FAULT_SRC

/-- The bits of FAULT_SRC whose cause has ended (R132): the rails whose loss is a cause of Table 3.7 or the clocks are back, the
other causes are over with the reset. -/
def faultEnded (s : State) : Nat :=
  (if s.pwr.warm.running ∨ s.pwr.warm.requested then 0 else 0xf) + (if s.pwr.rails.set (railIdx .vdd12l) true |>.all id then 0x10 else 0) +
    (if clocksOk s then 0x20 else 0)

/-- A write of `mask` to FAULT_SRC (Table 3.11). -/
def faultSrcClear (s : State) (mask : Word) : State :=
  wr s PWR.FAULT_SRC (rd s PWR.FAULT_SRC &&& ~~~ (mask &&& word (faultEnded s)))

def execFaultSrcClear (p : Path) (mask : Word) (s : State) : Host.Outcome State Fault Refusal :=
  .next (gated s (some p) PWR.FAULT_SRC (fun s => faultSrcClear s mask))

-- keepers

def onBall (s : State) (gen : Bool) (b : Nat) (f : Ball → Ball) : State := if gen then onGen s b f else onGc s b f

/-- KEEPER_RELEASE (R864). -/
def execKeeperRelease (gen : Bool) (b : Nat) (s : State) : Host.Outcome State Fault Refusal :=
  .next (onBall s gen b (fun x => if x.drive.isNone then { x with keeper := false } else x))

/-- RELEASED_NET_EDGE (R864). -/
def execReleasedNetEdge (gen : Bool) (b : Nat) (s : State) : Host.Outcome State Fault Refusal :=
  .next (onBall s gen b (fun x => if x.drive.isNone then { x with keeper := true, held := !x.held } else x))

-- the test access port

/-- The instruction in force after `i` is loaded (R72). -/
def tapInForce (s : State) (i : TapInstr) : TapInstr :=
  match i with
  | .idcode => .idcode
  | .bypass => .bypass
  | .samplePreload => .samplePreload
  | .otherInstr c => if s.partSB && fuseWritten s 3 then .bypass else .otherInstr c

/-- TAP_INSTRUCTION (R71, R72). -/
def execTapInstruction (i : TapInstr) (s : State) : Host.Outcome State Fault Refusal := .next { s with tap := tapInForce s i }

-- views

/-- The computed registers of the PWR page. -/
def pwrView (s : State) (o : Nat) : Option Word :=
  match o with
  | 0x44 => some (word (s.pwr.st.code + 2 ^ 3 * b2n s.pwr.duskIncomplete + 2 ^ 4 * b2n s.pwr.railFail) |||
      word (2 ^ 8 * (bitsWord s.pwr.rails).toNat))
  | 0x64 => some (word (b2n s.pwr.rstReq.level + 2 * b2n s.pwr.rstReq.debounce + 4 * b2n s.pwr.rstReq.failed))
  | _ => none

/-- The computed registers of the CLK page. -/
def clkView (s : State) (o : Nat) : Option Word :=
  let k := s.clk
  match o with
  | 0x40 => some (word (b2n k.xsys + 2 * b2n k.xtime + 4 * b2n k.xlp + 8 * b2n k.refclk + 16 * b2n k.corePll +
      32 * b2n k.memPll + 64 * b2n (timePllOk s)) ||| word (2 ^ 8 * (bitsWord k.lanePll).toNat))
  | 0x48 => some (Config.measured CLK.XTIME_PPM s.time.now)
  | 0x4c => some (word (fld (Config.measured CLK.REFCLK_SPREAD s.time.now) 0 24))
  | _ => none

end Sys2Proof.Machine
end

