-- ==== Sys2Proof/Machine/Views.lean ====
section
/-!
DEFINITION. Reads of the register pages (spec/04): the value that each register shows, the latched companions of R143, the
snapshots of R144 and what a read changes.
Marked choices: DEDUCED, log entries 41, 42, 72.
-/
namespace Sys2Proof.Machine

-- values

/-- QUEUE_STAT (Table 8.7) of the queue that QUEUE_SEL names. -/
def queueStatView (s : State) : Word :=
  let q := rdf s SYS.QUEUE_SEL 0 9
  let n := waiting (queueWords s q)
  let e := sparseGet s.queueEcc (0, 0) q
  word (e.1 + 2 ^ 16 * min 255 n + 2 ^ 24 * e.2)

/-- The computed registers of the SYS page (Tables 4.12, 8.7 and 21.4, R76). -/
def sysView (s : State) (o : Nat) : Option Word :=
  if o = 0x44 then
    some (word (b2n s.pins.strapTwin + 2 * b2n s.pins.strapRoot + 2 ^ 8 * b2n s.pins.twinid + 2 ^ 9 * b2n s.pins.rooten))
  else if o = 0x48 then some (word s.serial)
  else if o = 0x4c then some (word (s.serial / 2 ^ 32))
  else if 0x50 ≤ o ∧ o < 0x70 then some (attnMap s ((o - 0x50) / 4))
  else if o = 0x70 then
    some (word (s.ring.address.getD 0 + 2 ^ 8 * b2n s.ring.address.isSome + 2 ^ 9 * b2n s.ring.root))
  else if o = 0x7c then some (queueStatView s)
  else if o = 0x84 then
    some (setFld (setFld (rd s SYS.DAWN_STAT) 0 4 s.pwr.dawnPhase) 4 1 (b2n (decide (s.pwr.dawnPhase = 11))))
  else none

/-- Open ring sessions. -/
def sessionCount (s : State) : Nat := s.host.sessions.countP (·.isSome)

/-- The computed registers of the HOST page (Table 4.11). -/
def hostView (s : State) (o : Nat) : Option Word :=
  if o = 0x44 then some (word (b2n s.host.busy + 2 * b2n s.host.fetch.isSome + 2 ^ 16 * sessionCount s)) else none

/-- The computed registers of the VAT page. -/
def vatView (s : State) (o : Nat) : Option Word := if o = 0x50 then some (word (feltFree s)) else none

/-- The computed registers of block `b`, instance `i`, at offset `o`, for path `p`. -/
def blockView (s : State) (p : Path) (b : Blk) (i o : Nat) : Option Word :=
  match b with
  | .sys => sysView s o
  | .host => hostView s o
  | .pwr => pwrView s o
  | .clk => clkView s o
  | .fq => fqView s i o
  | .cc => ccView s i o
  | .hkc => none
  | .aout => aoutView s o
  | .flt => fltView s i o
  | .time => timeView s o
  | .ptp => ptpView s i o
  | .lane => laneView s i o
  | .ring => ringView s o
  | .strm => strmView s o
  | .cmd => cmdView s p o
  | .vat => vatView s o
  | .capt => captView s o
  | .ae => aeView s i o
  | .mot => motView s o
  | .edge => edgeView s i o
  | .sprt => sprtView s i o
  | .lite => liteView s o
  | .zip => zipView s o
  | .cal => none
  | .nvm => nvmView s o
  | .fuse => fuseView s p o
  | .jrnl => jrnlView s o
  | .safe => safeView s o
  | .twin => twinView s o

/-- SHADOW_STAT (Table 4.3). -/
def shadowStat (s : State) (p : Nat) : Word :=
  let i := pinfo s p
  word (b2n (pageDirty s p) + 2 * b2n i.sched.isSome + 4 * b2n i.applied + 8 * b2n i.late + 16 * (i.appliedIndex % 2 ^ 28))

/-- ACCESS (Table 4.3) of page `g` for path `p`. -/
def accessView (s : State) (p : Path) (g : Nat) : Word :=
  word (pageLevel g + 2 ^ 4 * pathLevel s p + 2 ^ 8 * b2n (safeLocked s && decide (g = pgSAFE)))

/-- The header of page `g`, which holds instance `i` of block `b` (Table 4.3). -/
def headerView (s : State) (p : Path) (b : Blk) (i g o : Nat) : Word :=
  if o = Hdr.PAGE_ID then word (typeCode b * 2 ^ 24 + i * 2 ^ 16 + 0x100)
  else if o = Hdr.PAGE_CTRL then word (b2n (blkOn s g) + 4 * b2n (pinfo s g).snapshot.isSome)
  else if o = Hdr.PAGE_STAT then pageStat s b i g
  else if o = Hdr.ACCESS then accessView s p g
  else if o = Hdr.SHADOW_STAT then shadowStat s g
  else if o = Hdr.EVT ∨ o = Hdr.EVT_EN ∨ o = Hdr.ERRCODE ∨ o = Hdr.APPLY_AT_LO ∨ o = Hdr.APPLY_AT_HI then rd s (hdr g o)
  else 0

/-- What a register with its row shows: its computed value, its shadow where it is RWS (R147), nothing where it is WO. -/
def regView (s : State) (p : Path) (b : Blk) (i a : Nat) (r : RegRow) : Word :=
  match blockView s p b i (offOf a) with
  | some w => w
  | none =>
    match r.acc with
    | .rws => rdShadow s a
    | .wo => 0
    | .ro => rd s a
    | .rw => rd s a
    | .w1c => rd s a
    | .rwl => rd s a

/-- What a read of address `a` of the register pages returns to path `p`, apart from snapshots and latches (R138). -/
def viewAt (s : State) (p : Path) (a : Nat) : Word :=
  match blkOfPage (pageOf a) with
  | none => 0
  | some (b, i) =>
    if offOf a < 0x40 then headerView s p b i (pageOf a) (offOf a)
    else match rowAt a with
      | some r => regView s p b i a r
      | none => 0

-- snapshots

/-- The RO registers of page `g` at offsets 0x040 and above, with their present values (R144). -/
def snapshotPage (s : State) (p : Path) (g : Nat) : List (Nat × Word) :=
  ((List.range 0x3f0).map (fun i => g * 0x1000 + 0x40 + 4 * i)).filterMap (fun a =>
    match rowAt a with
    | some r => if r.acc = .ro then some (a, viewAt s p a) else none
    | none => none)

/-- The value of `a` in the snapshot of its page, where one is held and names it. -/
def frozenAt (s : State) (a : Nat) : Option Word :=
  match (pinfo s (pageOf a)).snapshot with
  | some l => sparseFind l a
  | none => none

-- latches

/-- The offset holds a _LO register whose _HI register follows it. -/
def loOffset (b : Blk) (o : Nat) : Bool :=
  match b with
  | .sys => decide (o = 0x48)
  | .pwr => decide (o = 0x54 ∨ o = 0x5c)
  | .flt => decide (o = 0x54 ∨ o = 0x64 ∨ (0x100 ≤ o ∧ o % 0x40 = 0x10))
  | .time => decide (o = 0x58 ∨ o = 0x60 ∨ o = 0x68)
  | .ptp => decide (o = 0x60)
  | .lane => decide (o = 0x50)
  | .ring => decide (o = 0x50 ∨ o = 0x64 ∨ o = 0x94)
  | .strm => decide (o = 0x5c ∨ (0x100 ≤ o ∧ ((o - 0x100) % 0x30 = 0x4 ∨ (o - 0x100) % 0x30 = 0x10 ∨ (o - 0x100) % 0x30 = 0x28)))
  | .capt => decide (o = 0x4c ∨ (0x100 ≤ o ∧ o % 0x40 = 0x38))
  | .mot => decide (o = 0x44 ∨ o = 0x4c ∨ o = 0x5c)
  | .edge => decide (0x100 ≤ o ∧ o % 0x40 = 0x30)
  | .lite => decide (o = 0x4c ∨ (0x300 ≤ o ∧ o % 0x20 = 0x4))
  | .cal => decide (o = 0x5c)
  | .twin => decide (o = 0x54 ∨ o = 0x64)
  | .host => false | .clk => false | .fq => false | .cc => false | .hkc => false | .aout => false | .cmd => false
  | .vat => false | .ae => false | .sprt => false | .zip => false | .nvm => false | .fuse => false | .jrnl => false
  | .safe => false

/-- The addresses that a read of `a` latches (R143, R274, R328, R367, R777, Table 15.8). -/
def latchedBy (b : Blk) (a : Nat) : List Nat :=
  let o := offOf a
  if o = Hdr.APPLY_AT_LO then [a + 4]
  else if b = .time ∧ o = 0x48 then [a + 4, a + 8, a + 0xc, a + 0x10, a + 0x14]
  else if b = .hkc ∧ o = 0x48 then [a + 4]
  else if b = .flt ∧ 0x100 ≤ o ∧ o % 0x40 = 0x2c then [a + 4, a + 8, a + 0xc, a + 0x10]
  else if b = .edge ∧ 0x100 ≤ o ∧ o < 0x300 ∧ o % 0x40 = 0x1c then (List.range 8).map (fun i => a + 4 + 4 * i)
  else if b = .jrnl ∧ o = 0x50 then (List.range 7).map (fun i => a + 4 + 4 * i)
  else if loOffset b o then [a + 4]
  else []

/-- What a read of address `a` shows where no latch is in force: its snapshot on a frozen page, its present value elsewhere. -/
def shownAt (s : State) (p : Path) (a : Nat) : Word := (frozenAt s a).getD (viewAt s p a)

/-- Latches the companions of `a` for path `p`, as they are shown at this moment. -/
def latchFor (s : State) (p : Path) (b : Blk) (a : Nat) : State :=
  (latchedBy b a).foldl (fun t c => onPath t p (fun x => { x with latched := sparseSet x.latched c (shownAt s p c) })) s

-- reads

/-- What a read of a register changes, beside the latches: the memory ports advance, HKC.DATA loses its flags. -/
def readEffect (s : State) (a : Nat) : State :=
  if a = FLT.COEF_DATA 0 then coefAdvance s
  else if a = LITE.LVL_DATA then lvlAdvance s
  else if a = HKC.DATA then wr s HKC.DATA (setFld (rd s HKC.DATA) 14 2 0)
  else if a = FLT.POLY_DATA 0 then polyAdvance s 0
  else s

/-- A read of FUSE.CHAL0 (R763). -/
def readChal (s : State) (p : Path) : State × Word :=
  let s := chal0Read s p
  let v := sparseGet (pathOf s p).latched 0 (FUSE.CHAL 0)
  (onPath s p (fun t => { t with latched := sparseErase t.latched (FUSE.CHAL 0) }), v)

/-- A read of a register word by path `p` (R134, R138, R143, R144): a latched register shows its latch, once; a frozen one its
snapshot. Either way a _LO register latches its companions. -/
def readReg (s : State) (p : Path) (a : Nat) : State × Word :=
  match blkOfPage (pageOf a) with
  | none => (s, 0)
  | some (b, _) =>
    if a = FUSE.CHAL 0 ∧ (frozenAt s a).isNone then readChal s p
    else match sparseFind (pathOf s p).latched a with
      | some w => (onPath s p (fun t => { t with latched := sparseErase t.latched a }), w)
      | none =>
        match frozenAt s a with
        | some w => (latchFor s p b a, w)
        | none => (readEffect (latchFor s p b a) a, viewAt s p a)

end Sys2Proof.Machine
end

