-- ==== Sys2Proof/Machine/Pages.lean ====
section
/-!
DEFINITION. The page header (spec/04): commits (R147 to R157, R877), the enable, the block reset and the freeze of PAGE_CTRL
(R144, R145).
Marked choices: DESIGN CHOICE, log entry 26; DEDUCED, log entry 41.
-/
namespace Sys2Proof.Machine

-- commits

/-- The settings that a commit of page `g` would leave. -/
def after (s : State) (g : Nat) : Nat → Word := fun a => if pageOf a = g then rdShadow s a else rd s a

/-- The checks of a commit of the VAT page (R504). -/
def vatCommitChk (s : State) (g : Nat → Word) : Chk :=
  let felt := fld (g VAT.FELT_SIZE) 0 12
  let used := s.streams.any (fun x => decide (x.st ≠ .idle)) || s.reams.any reamArmed ||
    s.engines.any (fun e => !e.staging.isEmpty)
  { busy := rejIf used Rsn.BUSY
    zero := rejIf (decide (felt = 0)) Rsn.ZERO
    spec := rejIf (decide (felt + fld (g VAT.REAM_SIZE) 0 12 + fld (g VAT.TABLE_SIZE) 0 12 ≠ 2048)) 0x40 }

/-- The checks of a commit of FLT page `i` (Table 7.6, R511, Table 16.3). -/
def fltPageChk (s : State) (i : Nat) : Chk :=
  let c := fltCommitChk s i
  { c with busy := firstSome [c.busy, rejIf (reamHolds s i) Rsn.BUSY,
      rejIf (liteHolds s i (fun c => (chainCfgNext s i c).en)) Rsn.BUSY] }

/-- Every RWS shadow of page `g` becomes active (R148). -/
def copyShadows (s : State) (g : Nat) : State :=
  (pageShadow s g).foldl (fun t e => wr t e.1 e.2) { s with shadow := s.shadow.filter (fun e => decide (pageOf e.1 ≠ g)) }

/-- A commit of page `g` would raise L_MAC or L_POLY above its limit by raising the rate of a channel (R329, R330): the reasons of the
FLT pages, with their block type. -/
def rateChk (s : State) (g : Nat) : Option Rej :=
  let t := copyShadows s g
  let up (total : (Nat → ChainCfg) → Nat × Nat) (limit : Nat) : Bool :=
    fracAbove (total (chainCfg t)) limit && decide ((total (chainCfg s)).1 * (total (chainCfg t)).2 <
      (total (chainCfg t)).1 * (total (chainCfg s)).2)
  firstSome [rejIf (up macTotal 23040000000) (foreignRsn (pgFLT 0) 0x40), rejIf (up polyTotal 1440000000) (foreignRsn (pgFLT 0) 0x41)]

/-- A check with one more reason of its chapter behind it. -/
def Chk.andSpec (k : Chk) (r : Option Rej) : Chk := { k with spec := k.spec.or r }

/-- The checks of a commit as a whole (R877); for COMMIT = 2, `at'` is the index at its writing and the index that it names. -/
def commitChk (s : State) (b : Blk) (i g : Nat) (at' : Option (Nat × Nat)) : Chk :=
  match b with
  | .fq => fqCommitChk s i
  | .cc => (ccCommitChk s i).andSpec (rateChk s g)
  | .flt => fltPageChk s i
  | .aout => aoutCommitChk s
  | .time => timeCommitChk s
  | .vat => vatCommitChk s (after s g)
  | .ae => aeCommitChk s i (after s g)
  | .mot => motCommitChk s (after s g)
  | .edge => edgeCommitChk i (after s g)
  | .sprt => (sprtCommitChk s i (after s g) at').andSpec (rateChk s g)
  | .safe => safeCommitChk s (after s g)
  | .sys => {} | .host => {} | .pwr => {} | .clk => {} | .hkc => {} | .ptp => {} | .lane => {}
  | .ring => {} | .strm => {} | .cmd => {} | .capt => {} | .lite => {} | .zip => {} | .cal => {} | .nvm => {}
  | .fuse => {} | .jrnl => {} | .twin => {}

/-- A core that was short of slices before a commit and is not after it: FAULT_SRC.block loses that source (R130, R260). -/
def coreServed (s0 s : State) (q : Nat) : State := if (coreOf s0 q).short && !(coreOf s q).short then clearBlock s else s

/-- The effects of a commit at index `n` beyond the new register values, from the state `s0` before it. -/
def commitEffects (s0 s : State) (b : Blk) (i n : Nat) : State :=
  match b with
  | .fq => fqCommitted s0 s i n
  | .cc => coreServed s0 (ccCommitted s0 s i) i
  | .flt => fltCommitted s0 s i n
  | .time => timeCommitted s0 s
  | .mot => motCommitted s0 s n
  | .edge => edgeCommitted s0 s i
  | .sprt => sprtCommitted s0 s i
  | .lite => liteCommitted s
  | .safe => safeCommitted s0 s
  | .aout => aoutCommitted s
  | .sys => s | .host => s | .pwr => s | .clk => s | .hkc => s | .ptp => s | .lane => s | .ring => s
  | .strm => s | .cmd => s | .vat => s | .capt => s | .ae => s | .zip => s | .cal => s | .nvm => s | .fuse => s
  | .jrnl => s | .twin => s

/-- A commit of page `g` is applied at index `n` (R148, R154, R157). -/
def applyCommit (s : State) (b : Blk) (i g n : Nat) (late : Bool) : State :=
  let s1 := onPage (copyShadows s g) g (fun x => { x with applied := true, late := late, appliedIndex := n })
  commitEffects s s1 b i n

/-- The pages on which a COMMIT = 1 waits for the tick edge. -/
def soonPages (s : State) : List Nat := (s.pages.filter (fun e => e.2.soon)).map (·.1)

/-- COMMIT = 1 of page `g` applies on this tick edge, without a second check (R149, R877). -/
def applySoon (s : State) (g : Nat) : State :=
  match blkOfPage g with
  | some (b, i) => applyCommit (onPage s g (fun x => { x with soon := false })) b i g (now s) false
  | none => s

/-- Every COMMIT = 1 that waits applies on the tick edge that has come. -/
def tickCommits (s : State) : State := (soonPages s).foldl applySoon s

/-- The index at which COMMIT = 1 applies (R149). -/
def nextEdge (s : State) : Nat := now s + 1

/-- The refusal of COMMIT = 1 or 2 in the order of R876. -/
def commitRej (s : State) (b : Blk) (i g cmd : Nat) : Option Rej :=
  let at' := rd64 s (hdr g Hdr.APPLY_AT_LO)
  let k := commitChk s b i g (if cmd = 2 then some (now s, at') else none)
  firstSome [
    rejIf (scheduled s g) Rsn.PENDING, k.busy,
    rejIf (decide (cmd = 2) && !gridValid s) Rsn.NOGRID, k.grid,
    rejIf (decide (cmd = 2 ∧ at' ≤ nextEdge s)) Rsn.PAST,
    k.zero, k.range, k.spec]

/-- The last COMMIT write is new: nothing has been applied since (SHADOW_STAT.applied). -/
def commitSeen (s : State) (g : Nat) : State := onPage s g (fun x => { x with applied := false })

/-- A commit is scheduled (R150); on a running sensor port the changed channels get their SET_CH (R678). -/
def scheduleCommit (s : State) (b : Blk) (i g : Nat) : State :=
  let n := rd64 s (hdr g Hdr.APPLY_AT_LO)
  let s := onPage s g (fun x => { x with sched := some n, schedFrom := now s })
  match b with
  | .sprt => sprtScheduled s i (after s g) n
  | _ => s

/-- COMMIT = 3 (R152). -/
def cancelCommit (s : State) (b : Blk) (i g : Nat) : State :=
  let s := onPage { s with shadow := s.shadow.filter (fun e => decide (pageOf e.1 ≠ g)) } g (fun x => { x with sched := none })
  match b with
  | .flt => { s with flt := { s.flt with polyShadow := s.flt.polyShadow.filter (fun e => decide (e.1 / 192 ≠ i)) } }
  | _ => s

/-- What an accepted COMMIT write does (R149, R150, R152): COMMIT = 1 waits for the first tick edge after the write. -/
def commitWrite (s : State) (b : Blk) (i g cmd : Nat) : State :=
  match cmd with
  | 1 => onPage (commitSeen s g) g (fun x => { x with soon := true })
  | 2 => scheduleCommit (commitSeen s g) b i g
  | 3 => cancelCommit (commitSeen s g) b i g
  | _ => s

/-- The second check of a scheduled commit (R877), against the conditions in force at its edge; a lead time of APPLY_AT is that
at the writing of COMMIT = 2. -/
def edgeRej (s : State) (b : Blk) (i g n : Nat) : Option Rej :=
  let k := commitChk s b i g (some ((pinfo s g).schedFrom, n))
  firstSome [k.busy, k.grid, k.zero, k.range, k.spec]

/-- SCHEDULED_COMMIT (R150, R154, R877): the tick edge of the index, or the first one after a step over it. -/
def scheduledCommit (s : State) (g : Nat) : State :=
  match (pinfo s g).sched, blkOfPage g with
  | some n, some (b, i) =>
    if now s < n || !atTick s then s
    else match edgeRej s b i g n with
      | some r => refuse (onPage s g (fun x => { x with sched := none, applied := false })) none (hdr g Hdr.COMMIT) r
      | none => applyCommit (onPage s g (fun x => { x with sched := none })) b i g (now s) (decide (n < now s))
  | _, _ => s

def execScheduledCommit (page : Nat) (s : State) : Host.Outcome State Fault Refusal := .next (scheduledCommit s page)

-- blocks in use (R145)

/-- A stream that the ledger has admitted. -/
def strmAdmitted (x : StreamState) : Bool := decide (x.st = .admitted ∨ x.st = .running ∨ x.st = .closing)

/-- The channels of admitted streams and armed reams. -/
def usedChans (s : State) : List Nat :=
  ((List.range 64).filter (fun i => strmAdmitted (strmOf s i))).flatMap (fun i => selChans s i) ++
    ((List.range 16).filter (fun r => reamArmed (reamOf s r))).flatMap (fun r => reamChans s r)

/-- The chains of the channels of `l`, with the chains that serve them as temperature source. -/
def chainsOf (s : State) (l : List Nat) : List Nat :=
  let own := l.filterMap chainOfChannel
  own ++ own.filterMap (fun c => if usesTemp (chainCfg s c) then chainOfChannel (chainCfg s c).tempSrc else none)

/-- The band channels of enabled slots. -/
def usedBands (s : State) : List Nat :=
  ((List.range 48).filter (fun r => slotOn (slotOf s r))).flatMap (fun r =>
    (List.range (kindBands (axKind s r))).map (fun c => bandAin s r c))

/-- The block carries an admitted stream, an armed ream or an enabled axis. -/
def blockInUse (s : State) (b : Blk) (i : Nat) : Bool :=
  let strm := s.streams.any strmAdmitted
  let capt := s.reams.any reamArmed
  let slots := s.slots.any slotOn
  match b with
  | .fq => (usedBands s).any (fun a => decide (a / 4 = i)) || (chainsOf s (usedChans s)).any (fun c => decide (c < 128 ∧ c / 4 = i))
  | .cc => (usedBands s).any (fun a => decide (a / 4 = i)) || (chainsOf s (usedChans s)).any (fun c => decide (c < 128 ∧ c / 4 = i))
  | .flt => (chainsOf s (usedChans s)).any (fun c => decide (c / 8 = i))
  | .edge => (usedChans s).any (fun c => decide (128 ≤ c ∧ c < 192 ∧ (c - 128) / 8 = i)) ||
      (List.range 48).any (fun r => slotOn (slotOf s r) && (slotEdge s r).any (fun e => decide (e / 8 = i)))
  | .sprt => (chainsOf s (usedChans s)).any (fun c => decide (128 ≤ c ∧ (c - 128) / 24 = i))
  | .time => strm || capt || slots
  | .lane => strm && (decide (i < 2) || (decide (i = 3) && s.ring.root))
  | .ring => strm
  | .strm => strm
  | .vat => strm || capt
  | .capt => capt
  | .ae => decide (engSlots s i ≠ 0)
  | .mot => slots
  | .sys => false | .host => false | .pwr => false | .clk => false | .hkc => false | .aout => false | .ptp => false
  | .cmd => false | .lite => false | .zip => false | .cal => false | .nvm => false | .fuse => false | .jrnl => false
  | .safe => false | .twin => false

/-- The pages that refuse a block reset and a disable (R145). -/
def pageFixed : Blk → Bool
  | .sys => true | .pwr => true | .clk => true | .nvm => true | .fuse => true | .jrnl => true
  | .host => false | .fq => false | .cc => false | .hkc => false | .aout => false | .flt => false | .time => false
  | .ptp => false | .lane => false | .ring => false | .strm => false | .cmd => false | .vat => false | .capt => false
  | .ae => false | .mot => false | .edge => false | .sprt => false | .lite => false | .zip => false | .cal => false
  | .safe => false | .twin => false

-- block resets

/-- Entries `lo` to `lo` + `n` − 1 of a list become `x`. -/
def resetRange {α : Type} (l : List α) (lo n : Nat) (x : α) : List α := (List.range n).foldl (fun l k => l.set (lo + k) x) l

/-- Every slot is disabled and its balls are released. -/
def motIdle (s0 s : State) : State :=
  let s := (List.range 48).foldl (fun s r => releaseLegs s0 s r) s
  syncGroups { s with slots := List.replicate 48 {} }

/-- A halted engine that keeps its memory and its staging list. -/
def engIdle (e : EngineState) : EngineState := { sram := e.sram, bad := e.bad, staging := e.staging }

/-- The ring block idle: no address, no role; the generations seen and the HSR sequence go on. -/
def ringIdle (s : State) : State :=
  { s with ring := { topGen := s.ring.topGen, seq := s.ring.seq, announced := s.ring.announced }, adm := {} }

/-- The block of a page returns to idle, from the state `s0` before its registers were reset. -/
def blockIdle (s0 s : State) (b : Blk) (i : Nat) : State :=
  match b with
  | .host => { s with host := { s.host with req := none, fetch := none, busy := false, pulse := false } }
  | .fq => { s with
      inputs := resetRange s.inputs (4 * i) 4 {}
      exc := if i % 2 = 0 then s.exc.set (i / 2) {} else s.exc }
  | .cc => coreServed s0 (ccCommitted s0 { s with bands := if i < 24 then resetRange s.bands (4 * i) 4 {} else s.bands } i) i
  | .hkc => hkcSelect { s with hkc := { s.hkc with single := none } } 0
  | .aout => { s with aout := List.replicate 8 {} }
  | .flt =>
    let f := { s.flt with polyShadow := s.flt.polyShadow.filter (fun e => decide (e.1 / 192 ≠ i)) }
    { s with chains := resetRange s.chains (8 * i) 8 {}, flt := if i = 0 then { f with syncAt := none, syncPin := none } else f }
  | .ptp => { s with time := { s.time with doms := s.time.doms.set i {} } }
  | .lane => linkLost s (laneOfIdx i)
  | .ring => ringIdle s
  | .strm => { s with streams := List.replicate 64 {}, strmSel := [] }
  | .cmd => { s with host := { s.host with paths := s.host.paths.map (fun p => { p with cmdRegs := List.replicate 10 0 }) } }
  | .capt => { s with reams := List.replicate 16 {}, captSel := [] }
  | .ae => onEng s i engIdle
  | .mot => motIdle s0 s
  | .edge => { edgeCommitted s0 s i with edges := resetRange s.edges (8 * i) 8 {} }
  | .sprt => sprtEnable { s with sports := s.sports.set i { runSerial := (sprtOf s i).runSerial } } i (blkOn s (pgSPRT i))
  | .lite => { liteWarm s with lites := List.replicate 8 {}, strobes := List.replicate 8 {} }
  | .zip => abortJob s
  | .cal => { s with cal := { s.cal with agree := 0 } }
  | .safe => safeWarm s
  | .twin => { s with twin := { active := s.twin.active, arbsel := s.twin.arbsel } }
  | .time => { s with time := { s.time with slewing := false, switchTo := none } }
  | .sys => s | .pwr => s | .clk => s | .vat => s | .nvm => s | .fuse => s | .jrnl => s

/-- block_reset (Table 4.3): the page registers return to their reset values, but for PAGE_CTRL, and the block to idle. -/
def blockReset (s : State) (b : Blk) (i g : Nat) : State :=
  let keep (a : Nat) : Bool := decide (pageOf a ≠ g ∨ a = hdr g Hdr.PAGE_CTRL)
  let info : PageInfo := { snapshot := (pinfo s g).snapshot }
  let s1 : State := { s with
    regs := s.regs.filter (fun e => keep e.1), shadow := s.shadow.filter (fun e => decide (pageOf e.1 ≠ g))
    pages := sparsePut s.pages {} g info }
  let s2 := blockIdle s s1 b i
  match b with
  | .mot => clearBlock s2 | .ae => clearBlock s2 | .cal => clearBlock s2 | .cc => clearBlock s2 | .safe => clearBlock s2
  | _ => s2

-- PAGE_CTRL

/-- The write takes the block out of use: block_reset, or enable from 1 to 0. -/
def ctrlStops (s : State) (g : Nat) (v : Word) : Bool := bit v 1 || (!bit v 0 && blkOn s g)

/-- A block reset would change settings that R205 and R247 hold while an input of the quad is assigned as a band channel. -/
def bandHeld (s : State) (b : Blk) (i : Nat) : Bool :=
  let any := (List.range 4).any (fun k => isBand s (4 * i + k))
  match b with
  | .fq => any
  | .cc => any
  | .sys => false | .host => false | .pwr => false | .clk => false | .hkc => false | .aout => false | .flt => false
  | .time => false | .ptp => false | .lane => false | .ring => false | .strm => false | .cmd => false | .vat => false
  | .capt => false | .ae => false | .mot => false | .edge => false | .sprt => false | .lite => false | .zip => false
  | .cal => false | .nvm => false | .fuse => false | .jrnl => false | .safe => false | .twin => false

/-- The refusal of a PAGE_CTRL write for the block in use (R145, R205, R247). -/
def ctrlBusy (s : State) (b : Blk) (i g : Nat) (v : Word) : Option Rej :=
  rejIf ((ctrlStops s g v && blockInUse s b i) || (bit v 1 && bandHeld s b i)) Rsn.BUSY

/-- freeze (R144): a snapshot is taken when the bit is set and dropped when it is cleared. -/
def setFreeze (s : State) (p : Path) (g : Nat) (on : Bool) : State :=
  if !on then onPage s g (fun x => { x with snapshot := none })
  else if (pinfo s g).snapshot.isSome then s
  else onPage s g (fun x => { x with snapshot := some (snapshotPage s p g) })

/-- enable, with the change of state that the block's chapter gives it (R674). -/
def setEnable (s : State) (b : Blk) (i g : Nat) (on : Bool) : State :=
  let was := blkOn s g
  let s := wr s (hdr g Hdr.PAGE_CTRL) (word (b2n on))
  match b with
  | .sprt => if was = on then s else sprtEnable s i on
  | _ => s

/-- An accepted PAGE_CTRL write (Table 4.3). -/
def ctrlWrite (s : State) (p : Path) (b : Blk) (i g : Nat) (v : Word) : State :=
  let s := setFreeze s p g (bit v 2)
  let s := setEnable s b i g (bit v 0)
  if bit v 1 then blockReset s b i g else s

/-- A write to ERRCODE with any bit set clears it (R141). -/
def errcodeClear (s : State) (g : Nat) (v : Word) : State :=
  if v = 0 then s else onPage (wr s (hdr g Hdr.ERRCODE) 0) g (fun x => { x with errCount := 0 })

end Sys2Proof.Machine
end

