-- ==== Sys2Proof/Machine/HostPort.lean ====
section
/-!
DEFINITION. Writes of the address space in the order of R876, the memory windows (R135 to R137, R723, R725), the Octal SPI
port (R163 to R177) and register access by ring frames (R178 to R185, R879).
Marked choices: DESIGN CHOICE, log entries 4, 13; DEDUCED, log entries 38, 39, 40, 41, 71, 72.
-/
namespace Sys2Proof.Machine

-- writes of block registers

/-- The checks that the chapter of block `b` adds to a write of `v` at offset `o` of instance `i`. -/
def blockChk (s : State) (w : Who) (b : Blk) (i o : Nat) (v : Word) : Chk :=
  match b with
  | .sys => if o = 0x78 then { range := rejIf (!queueNamed (fld v 0 9)) Rsn.RANGE } else {}
  | .pwr => if o = 0x40 then { busy := targetChk s (fld v 0 3) }
      else if o = 0x4c then { range := rejIf (decide (v ≠ 0xd0a50001)) Rsn.RANGE } else {}
  | .fq => fqChk s i o v
  | .cc => ccChk s i o v
  | .hkc => if o = 0x44 then hkcStartChk s else {}
  | .aout => aoutChk s o v
  | .flt => if o = 0x44 then coefChk s v else fltChk s i o v
  | .time => if o = 0x40 then { spec := domSelChk s v } else {}
  | .ptp => ptpChk s i o v
  | .lane => laneChk s i o v
  | .ring => ringChk s w o v
  | .strm => strmChk s o
  | .capt => captChk s o
  | .ae => aeChk s i o v
  | .sprt => sprtChk s i o v
  | .lite => liteChk s o v
  | .twin => twinChk s o v
  | .host => {} | .clk => {} | .cmd => {} | .vat => {} | .mot => {} | .edge => {} | .zip => {} | .cal => {} | .nvm => {}
  | .fuse => {} | .jrnl => {} | .safe => {}

/-- A register that cannot be written now (R876, step 2). -/
def roNow (s : State) (b : Blk) (o : Nat) (r : RegRow) : Bool :=
  decide (r.acc = .ro) || (match b with
    | .aout => aoValueRo s o
    | _ => false)

/-- A safety function that an EDY5384-IB refuses (R3). -/
def partMissing (s : State) (b : Blk) (o : Nat) (v : Word) : Bool :=
  !s.partSB && (match b with
    | .safe => safeEnables o v
    | _ => false)

/-- PENDING (R151): an RWS register of a page with a scheduled commit. -/
def regPending (s : State) (a : Nat) (r : RegRow) : Bool := decide (r.acc = .rws) && scheduled s (pageOf a)

/-- The refusal of a write to the block register at `a`, in the order of R876. -/
def regRej (s : State) (w : Who) (b : Blk) (i a : Nat) (r : RegRow) (v : Word) : Option Rej :=
  let k := blockChk s w b i (offOf a) v
  firstSome ([
    rejIf (roNow s b (offOf a) r) Rsn.RO,
    rejIf (partMissing s b (offOf a) v) Rsn.PART,
    gateRej s w a,
    rejIf (regPending s a r) Rsn.PENDING,
    k.busy, k.grid] ++ r.checks.map (fun c => c.zeroRej v) ++ [k.zero] ++ r.checks.map (fun c => c.rangeRej v) ++
    [k.range, k.spec])

/-- What a write leaves in a register, by its access code (Table 0.3); a pair of the Ream image goes straight into force. -/
def plainWrite (s : State) (w : Who) (a : Nat) (r : RegRow) (v : Word) : State :=
  match r.acc with
  | .rws => if w.isNone then wr s a (merge r.mask (rd s a) v)
      else { s with shadow := sparseSet s.shadow a (merge r.mask (rdShadow s a) v) }
  | .rw => wr s a (merge r.mask (rd s a) v)
  | .rwl => wr s a (merge r.mask (rd s a) v)
  | .w1c => wr s a (rd s a &&& ~~~ (v &&& r.mask))
  | .ro => s
  | .wo => s

/-- A write to MOT.CTRL (Table 14.13). -/
def motCtrl (s : State) (w : Who) (v : Word) : State :=
  match fld v 8 3 with
  | 1 => motClearFault s w (fld v 0 6)
  | 2 => cycleMark s w (fld v 0 6)
  | _ => refuse s w MOT.CTRL ⟨Rsn.RANGE, none⟩

/-- A write to a LANE register, with the loss of a link that it causes. -/
def laneWrite (s0 s : State) (i o : Nat) : State :=
  let l := laneOfIdx i
  let t := laneWritten s0 s i o
  if linkUpOn s l && !linkUpOn t l then laneWritten s0 (linkLost s l) i o else t

/-- A write to a RING register: the ring ports that stop carrying ring traffic take the domains with them. -/
def ringWrite (s0 s : State) (o : Nat) (v : Word) : State :=
  let t := ringWritten s0 s o v
  if domainCarried s0 && !domainCarried t then portsLost t else t

/-- A write of 1 to any bit of a counter clears the register (Tables 5.11 and 6.5). -/
def clearAny (s : State) (a : Nat) (v : Word) : State := if v = 0 then s else wr s a 0

/-- The effect of an accepted write of `v` to the block register at `a`. -/
def regEffect (s : State) (w : Who) (b : Blk) (i a : Nat) (r : RegRow) (v : Word) : State :=
  let o := offOf a
  let t := plainWrite s w a r v
  match b with
  | .sys => if o = 0x78 ∧ bit v 16 then queueClear s w (fld v 0 9) else t
  | .pwr =>
    if o = 0x40 then powerTarget s (fld v 0 3)
    else if o = 0x4c then requestWarm s Cause.HOST false
    else if o = 0x68 then faultSrcClear s v else t
  | .fq => if o = 0x68 then clearAny s a v else t
  | .cc => if o = 0x54 then clearAny s a v
      else if 0x60 ≤ o ∧ o % 0x10 < 8 then hostEdges t (4 * i + (o - 0x60) / 0x10) else t
  | .hkc => if o = 0x44 then hkcBegin s else if o = 0x40 then hkcSelect t (rd t HKC.SEL) else t
  | .aout => if o < 0xc0 ∧ o % 0x10 = 0xc then onAo t ((o - 0x40) / 0x10) (fun x => { x with code := fld v 0 16 }) else t
  | .flt =>
    if o = 0x44 then coefWrite s v
    else if o = 0x4c then polyWrite s i v
    else if o = 0x5c then (if v = 1 then syncSchedule s w else syncCancel s) else t
  | .time => if o = 0x40 then onTime t (fun x => { x with switchTo := if bit v 0 = x.tracked then none else some (bit v 0) })
      else t
  | .lane => laneWrite s t i o
  | .ring => ringWrite s t o v
  | .strm =>
    if o = 0x40 then strmCtrl s w v
    else if o = 0x48 then strmSelWrite s v
    else if 0x100 ≤ o ∧ (o - 0x100) % 0x30 = 0x20 then hostAck s ((o - 0x100) / 0x30) v none else t
  | .cmd => match w with
    | some p => if o < 0x68 then cmdRegWrite s p o v else if o = 0x68 then submitCmd s p else t
    | none => t
  | .capt => if o = 0x40 then captCtrl s w v else if o = 0x48 then captSelWrite s v else t
  | .ae => if o = 0x40 then aeCtrl s w i v else if o = 0x90 then subWrite s i v else t
  | .mot => if o = 0x40 then motCtrl s w v else t
  | .edge => if o = 0x40 then edgeCtrl s w i v else t
  | .sprt => if o = 0x40 then sprtCtrl s w i v else t
  | .lite => if o = 0x40 then liteCtrl s w v else if o = 0x48 then lvlWrite s v else if o = 0x58 then strobeCtrl s w v else t
  | .zip => if o = 0x40 then zipCtrl s w v else t
  | .cal => if o = 0x40 then calCtrl s w v else t
  | .fuse => match w with
    | some p => if 0x68 ≤ o ∧ o < 0x88 then respWrite s p ((o - 0x68) / 4) v else if o = 0x88 then authWrite s p v else t
    | none => t
  | .safe => if o = 0x40 then safeCtrl s w v else t
  | .twin => if o = 0x40 then twinCtrl s w v else t
  | .host => t | .clk => t | .ptp => t | .vat => t | .nvm => t | .jrnl => t

/-- A write to the block register at `a`. -/
def writeReg (s : State) (w : Who) (b : Blk) (i a : Nat) (r : RegRow) (v : Word) : State :=
  checked s w a (regRej s w b i a r v) (fun s => entered s w a v (fun s => regEffect s w b i a r v))

-- writes of header registers

/-- Attention has fallen: the next rise of attn gives a pulse again (R175, R177). -/
def settleAttn (s : State) : State := if attn s then s else { s with host := { s.host with pulsed := false } }

/-- The refusal of a write to header offset `o` of page `g`, in the order of R876. -/
def headerRej (s : State) (w : Who) (b : Blk) (i g o : Nat) (v : Word) : Option Rej :=
  let ro := decide (o = Hdr.PAGE_ID ∨ o = Hdr.PAGE_STAT ∨ o = Hdr.ACCESS ∨ o = Hdr.SHADOW_STAT) ||
    (decide (o = Hdr.PAGE_CTRL) && pageFixed b && ctrlStops s g v)
  let cmd := fld v 0 2
  firstSome [
    rejIf (decide (Hdr.SHADOW_STAT < o)) Rsn.ADDR, rejIf ro Rsn.RO, gateRej s w (hdr g o),
    if o = Hdr.PAGE_CTRL then ctrlBusy s b i g v else none,
    if o = Hdr.COMMIT ∧ (cmd = 1 ∨ cmd = 2) then commitRej s b i g cmd else none]

/-- The effect of an accepted write to header offset `o` of page `g`. -/
def headerEffect (s : State) (w : Who) (b : Blk) (i g o : Nat) (v : Word) : State :=
  if o = Hdr.PAGE_CTRL then
    match w with
    | some p => settleAttn (ctrlWrite s p b i g v)
    | none => setEnable s b i g (bit v 0)
  else if o = Hdr.EVT then settleAttn (wr s (hdr g o) (rd s (hdr g o) &&& ~~~ v))
  else if o = Hdr.EVT_EN then settleAttn (wr s (hdr g o) v)
  else if o = Hdr.ERRCODE then errcodeClear s g v
  else if o = Hdr.COMMIT then (if w.isNone then s else commitWrite s b i g (fld v 0 2))
  else wr s (hdr g o) v

/-- A write to header offset `o` of page `g`. -/
def writeHeaderReg (s : State) (w : Who) (b : Blk) (i g o : Nat) (v : Word) : State :=
  checked s w (hdr g o) (headerRej s w b i g o v) (fun s =>
    entered s w (hdr g o) v (fun s => headerEffect s w b i g o v))

-- windows

/-- Where an address of the memory windows leads (Table 4.1): an engine and a local address, or a Vat address. -/
inductive Win where
  | engine (k a : Nat)
  | vat (a : Nat)
deriving DecidableEq, Repr

/-- The window address `a` (R135, R136). -/
def winOf (s : State) (a : Nat) : Option Win :=
  if 0x400000 ≤ a ∧ a < 0x800000 then some (.engine ((a - 0x400000) / 0x80000) (a % 0x80000))
  else if 0xa00000 ≤ a ∧ a < 0xc00000 then some (.engine (8 + (a - 0xa00000) / 0x80000) (a % 0x80000))
  else if 0x800000 ≤ a ∧ a < 0x900000 then some (.vat ((rd s VAT.WINDOW_BASE).toNat + (a - 0x800000)))
  else none

/-- A read through a window (R135 to R137). -/
def winRead (s : State) (x : Win) : Word :=
  match x with
  | .engine k a => engHostRead s k a
  | .vat a => if a + 4 ≤ vatSize then vatWord s a else 0

/-- Two ranges of bytes meet. -/
def meets (a n b m : Nat) : Bool := decide (a < b + m ∧ b < a + n)

/-- The refusal of a write through the Vat window (R136, R137, R723, R725). -/
def vatHostChk (s : State) (a : Nat) : Option Rej :=
  if vatSize < a + 4 then some ⟨Rsn.ADDR, none⟩
  else if !inTable s a 4 then some ⟨Rsn.LEVEL, none⟩
  else rejIf ((envelopes s).any (fun e => meets a 4 e.1 e.2) || (zipDest s).any (fun e => meets a 4 e.1 e.2)) Rsn.BUSY

/-- A write through a window; refusals go to the page of the block (R558, Table 4.1). -/
def winWrite (s : State) (w : Who) (addr : Nat) (x : Win) (v : Word) : State :=
  match x with
  | .engine k a => if 0x60000 ≤ a then refuse s w addr ⟨Rsn.ADDR, none⟩ else
      if bistHeld s (pgAE k) then refuseOn s w (pgAE k) a ⟨Rsn.BUSY, none⟩ else engHostWrite s w k a v
  | .vat a =>
    match vatHostChk s a with
    | some r => refuseOn s w pgVAT addr r
    | none => if bistHeld s pgVAT then refuseOn s w pgVAT addr ⟨Rsn.BUSY, none⟩ else vatPutWord s a v

-- words

/-- A read of one word (R134, R138). -/
def readWord (s : State) (p : Path) (a : Nat) : State × Word :=
  if a % 4 ≠ 0 then (s, 0)
  else if a < 0x100000 then readReg s p a
  else match winOf s a with
    | some x => (s, winRead s x)
    | none => (s, 0)

/-- A write of one word (R134, R138, R876). -/
def writeWord (s : State) (w : Who) (a : Nat) (v : Word) : State :=
  if a % 4 ≠ 0 then refuse s w a ⟨Rsn.ADDR, none⟩
  else if a < 0x100000 then
    match blkOfPage (pageOf a) with
    | none => refuse s w a ⟨Rsn.ADDR, none⟩
    | some (b, i) =>
      if offOf a < 0x40 then writeHeaderReg s w b i (pageOf a) (offOf a) v
      else match rowAt a with
        | none => refuse s w a ⟨Rsn.ADDR, none⟩
        | some r => writeReg s w b i a r v
  else match winOf s a with
    | some x => winWrite s w a x v
    | none => refuse s w a ⟨Rsn.ADDR, none⟩

/-- A word written by a path, once host access is ready (R171). -/
def hostWrite (s : State) (p : Path) (a : Nat) (v : Word) : State := if hostReady s then writeWord s (some p) a v else s

/-- A word read by a path. -/
def hostRead (s : State) (p : Path) (a : Nat) : State := if hostReady s then (readWord s p a).1 else s

/-- Words read from `a` on, and the state after them. -/
def readWords (s : State) (p : Path) (a : Nat) : Nat → State × List Word
  | 0 => (s, [])
  | n + 1 =>
    let x := readWord s p a
    let y := readWords x.1 p (a + 4) n
    (y.1, x.2 :: y.2)

/-- Words written from `a` on (R162, R167). -/
def writeWords (s : State) (p : Path) (a : Nat) (l : List Word) : State :=
  match l with
  | [] => s
  | v :: t => writeWords (writeWord s (some p) a v) p (a + 4) t

-- commands on registers

def execRegisterWrite (p : Path) (addr : Nat) (v : Word) (s : State) : Host.Outcome State Fault Refusal :=
  .next (hostWrite s p (addr % 2 ^ 24) v)

def execLoRead (p : Path) (addr : Nat) (s : State) : Host.Outcome State Fault Refusal := .next (hostRead s p (addr % 2 ^ 24))

/-- COMMIT = `cmd` on a page. -/
def commitPage (s : State) (p : Path) (page cmd : Nat) : State := hostWrite s p (hdr page Hdr.COMMIT % 2 ^ 24) (word cmd)

def execCommitApplyNow (p : Path) (page : Nat) (s : State) : Host.Outcome State Fault Refusal := .next (commitPage s p page 1)
def execCommitApplyAt (p : Path) (page : Nat) (s : State) : Host.Outcome State Fault Refusal := .next (commitPage s p page 2)
def execCommitCancel (p : Path) (page : Nat) (s : State) : Host.Outcome State Fault Refusal := .next (commitPage s p page 3)

/-- A write of PAGE_CTRL with the bits in force but for those given. -/
def ctrlPage (s : State) (p : Path) (page : Nat) (enable freeze reset : Bool) : State :=
  hostWrite s p (hdr page Hdr.PAGE_CTRL % 2 ^ 24) (word (b2n enable + 2 * b2n reset + 4 * b2n freeze))

def frozen (s : State) (page : Nat) : Bool := (pinfo s page).snapshot.isSome

def execPageEnable (p : Path) (page : Nat) (enable : Bool) (s : State) : Host.Outcome State Fault Refusal :=
  .next (ctrlPage s p page enable (frozen s page) false)
def execBlockReset (p : Path) (page : Nat) (s : State) : Host.Outcome State Fault Refusal :=
  .next (ctrlPage s p page (blkOn s page) (frozen s page) true)
def execFreeze (p : Path) (page : Nat) (on : Bool) (s : State) : Host.Outcome State Fault Refusal :=
  .next (ctrlPage s p page (blkOn s page) on false)
def execErrcodeClear (p : Path) (page : Nat) (mask : Word) (s : State) : Host.Outcome State Fault Refusal :=
  .next (hostWrite s p (hdr page Hdr.ERRCODE % 2 ^ 24) mask)

def execCoefDataWrite (p : Path) (v : Word) (s : State) : Host.Outcome State Fault Refusal :=
  .next (hostWrite s p (FLT.COEF_DATA 0) v)
def execCoefDataRead (p : Path) (s : State) : Host.Outcome State Fault Refusal := .next (hostRead s p (FLT.COEF_DATA 0))
def execPolyDataWrite (p : Path) (page : Nat) (v : Word) (s : State) : Host.Outcome State Fault Refusal :=
  .next (hostWrite s p (FLT.POLY_DATA (page % 40)) v)
def execPolyDataRead (p : Path) (page : Nat) (s : State) : Host.Outcome State Fault Refusal :=
  .next (hostRead s p (FLT.POLY_DATA (page % 40)))
def execRedMinRead (p : Path) (page : Nat) (c : Fin 8) (s : State) : Host.Outcome State Fault Refusal :=
  .next (hostRead s p (FLT.CH_RED_MIN (page % 40) c))

-- the SPI port

abbrev HErr.OVERRUN : Nat := 0x40
abbrev HErr.PARTIAL : Nat := 0x41
abbrev HErr.LATE : Nat := 0x42
abbrev HErr.NOFETCH : Nat := 0x43
abbrev HErr.ESESSION : Nat := 0x44
abbrev HErr.ESEQ : Nat := 0x45
abbrev HErr.NOHUB : Nat := 0x46
abbrev HErr.RINGOFF : Nat := 0x47
abbrev HErr.EFRAME : Nat := 0x48

def onHost (s : State) (f : HostState → HostState) : State := { s with host := f s.host }

/-- A fall of nHCS (R164, R176): the profile of HOST.CFG is in force, an attention pulse ends. -/
def spiStart (s : State) : State := onHost s (fun h => { h with profile := rdb s HOST.CFG 0, pulse := false })

/-- An accepted SPI transaction is counted. -/
def spiCount (s : State) : State :=
  bumpWrap (onPath s .spi (fun t => { t with tcount := t.tcount + 1 })) HOST.XFER_COUNT 0 32 1

/-- A refusal of the SPI port itself, in HOST.ERRCODE. -/
def spiRefuse (s : State) (a r : Nat) : State := refuseOn s (some .spi) pgHOST a ⟨r, none⟩

/-- An SPI command other than STATUS at address `a` (R171, R173): ignored before host access is ready, OVERRUN in a busy period. -/
def spiCommand (s : State) (a : Nat) (act : State → State) : State :=
  if !hostReady s then s
  else
    let s := spiStart s
    if s.host.busy then spiRefuse s a HErr.OVERRUN else act (spiCount s)

/-- The port sends the status word and then `data`, each word in little-endian byte order (R165). -/
def spiSend (s : State) (data : State → State × List Word) : State :=
  let st := statusWord s .spi
  let r := data (takeStatus s .spi)
  onHost r.1 (fun h => { h with out := (st :: r.2).flatMap busBytes })

/-- The status word of a READ whose first data word comes late (Table 4.7). -/
def lateWord (w : Word) : Word := w ||| 4

/-- A READ whose first data word comes late (R169): LATE, late = 1 and 0 for every data word; no word is read. -/
def spiLate (s : State) (a n : Nat) : State :=
  let s := spiRefuse s a HErr.LATE
  onHost (takeStatus s .spi) (fun h => { h with
    out := (lateWord (statusWord s .spi) :: List.replicate n 0).flatMap busBytes })

/-- An address that READ does not serve (R166). -/
def readsWindow (s : State) (a n : Nat) : Bool := (List.range n).any (fun i => (winOf s (a + 4 * i)).isSome)

/-- The dummy cycles of HOST.CFG at an HSCLK period of `period` ps last at least 180 ns (R169). -/
def dummyLasts (s : State) (period : Nat) : Bool := decide (180000 ≤ fld (rd s HOST.CFG) 8 5 * period)

/-- A transaction that ends within a word at `a` discards that word: PARTIAL (R167). -/
def cutWord (s : State) (a : Nat) (cut : Bool) : State := if cut then spiRefuse s a HErr.PARTIAL else s

/-- READ (R166, R167, R169). -/
def spiRead (s : State) (a n : Nat) (cut : Bool) (period : Nat) (ready : Bool) : State :=
  spiCommand s a (fun s => cutWord (
    if readsWindow s a n then
      spiSend (onPath s .spi (fun t => { t with err := true })) (fun s => (s, List.replicate n 0))
    else if !ready && !dummyLasts s period then spiLate s a n
    else spiSend s (fun s => readWords s .spi a n)) (a + 4 * n) cut)

def execSpiRead (addr count : Nat) (s : State) (cut : Bool := false) (period : Nat := 10000) (ready : Bool := true) :
    Host.Outcome State Fault Refusal :=
  .next (spiRead s addr count cut period ready)

/-- WRITE (R162, R167, R172). -/
def spiWrite (s : State) (a : Nat) (l : List Word) (cut : Bool) : State :=
  spiCommand s a (fun s =>
    onHost (cutWord (writeWords s .spi a l) (a + 4 * l.length) cut) (fun h => { h with busy := true }))

def execSpiWrite (addr : Nat) (data : List Word) (cut : Bool) (s : State) : Host.Outcome State Fault Refusal :=
  .next (spiWrite s addr data cut)

/-- READ_REQ (R167, R168, R174): the words are read as one transaction, and buffered when its busy period ends. `cut`: the
transaction ends within its length word, so that no length arrives and nothing is read. -/
def spiReadReq (s : State) (a n : Nat) (cut : Bool) : State :=
  spiCommand s a (fun s =>
    if cut then onHost (cutWord s a true) (fun h => { h with busy := true })
    else if n < 1 ∨ 1024 < n then spiRefuse s a Rsn.RANGE
    else
      let r := readWords s .spi a n
      onHost r.1 (fun h => { h with busy := true, fetch := none, req := some r.2 }))

def execSpiReadReq (addr len : Nat) (s : State) (cut : Bool := false) : Host.Outcome State Fault Refusal :=
  .next (spiReadReq s addr len cut)

/-- Words that the spec leaves open, drawn afresh. -/
def drawWords (s : State) : Nat → State × List Word
  | 0 => (s, [])
  | n + 1 =>
    let r := drawWords (drawn s) n
    (r.1, Config.freeWord s.freeCtr :: r.2)

/-- FETCH of `n` words (R167, R174): what follows the buffered words is open. -/
def spiFetch (s : State) (n : Nat) (cut : Bool) : State :=
  spiCommand s 0 (fun s =>
    match s.host.fetch with
    | none => cutWord (spiSend (spiRefuse s (hdr pgHOST 0) HErr.NOFETCH) (fun s => drawWords s n)) (hdr pgHOST 0) cut
    | some l => onHost (cutWord (spiSend s (fun s =>
        let r := drawWords s (n - l.length)
        (r.1, l.take n ++ r.2))) (hdr pgHOST 0) cut) (fun h => { h with fetch := none }))

def execSpiFetch (count : Nat) (s : State) (cut : Bool := false) : Host.Outcome State Fault Refusal :=
  .next (spiFetch s count cut)

/-- STATUS (R173): always allowed. -/
def spiStatus (s : State) : State := if hostReady s then spiSend (spiCount (spiStart s)) (fun s => (s, [])) else s

def execSpiStatus (s : State) : Host.Outcome State Fault Refusal := .next (spiStatus s)

/-- RESET_PORT (R164): two transactions; the port is in profile 1-1-1 and HOST.CFG.profile with it. -/
def resetPort (s : State) : State :=
  spiCommand s 0 (fun s =>
    let s := wr (spiCount s) HOST.CFG (setFld (rd s HOST.CFG) 0 1 0)
    onHost s (fun h => { h with profile := false }))

def execResetPort (s : State) : Host.Outcome State Fault Refusal := .next (resetPort s)

/-- BUSY_END (R172, R174): the words of a READ_REQ are buffered. -/
def busyEnd (s : State) : State :=
  if !s.host.busy then s
  else onHost s (fun h => { h with busy := false, req := none, fetch := h.req.or h.fetch })

def execBusyEnd (s : State) : Host.Outcome State Fault Refusal := .next (busyEnd s)

/-- ATTENTION_PULSE (R175, R177). -/
def execAttentionPulse (s : State) : Host.Outcome State Fault Refusal :=
  .next (when (hostReady s && attn s && !s.host.busy && !s.host.pulse && !s.host.pulsed) s
    (fun s => onHost s (fun h => { h with pulse := true, pulsed := true })))

/-- ATTENTION_PULSE_END (R175). -/
def execAttentionPulseEnd (s : State) : Host.Outcome State Fault Refusal := .next (onHost s (fun h => { h with pulse := false }))

/-- ATTENTION_REPEAT (R177). -/
def execAttentionRepeat (s : State) : Host.Outcome State Fault Refusal :=
  .next (when (hostReady s && rdb s HOST.CFG 16 && attn s && s.host.pulsed && !s.host.busy && !s.host.pulse) s
    (fun s => onHost s (fun h => { h with pulse := true })))

-- register access by ring frames

/-- The session of a frame (R181). -/
def sessionOf (s : State) (f : AccessFrame) : Option (Fin 8) :=
  (List.finRange 8).find? (fun (k : Fin 8) =>
    (s.host.sessions.getD k none).any (fun x => decide (x.mac = f.mac ∧ x.number = f.session)))

/-- A free session slot. -/
def freeSession (s : State) : Option (Fin 8) :=
  (List.finRange 8).find? (fun (k : Fin 8) => (s.host.sessions.getD k none).isNone)

def setSession (s : State) (k : Nat) (x : Option Session) : State :=
  onHost s (fun h => { h with sessions := h.sessions.set k x })

/-- The response to a frame (R178, Table 4.9). -/
def respond (f : AccessFrame) (status error : Word) (data : List Word) : AccessResp :=
  ⟨1, (f.op + 0x80) % 256, f.hub, f.session, f.count, f.seq, f.address, status, error, data⟩

/-- A ring frame is refused: HOST.ERRCODE and REFUSED_COUNT [31:16]. -/
def frameRefuse (s : State) (f : AccessFrame) (r : Rej) : State :=
  bumpSat (refuseOn s none pgHOST (f.address % 2 ^ 24) r) HOST.REFUSED_COUNT 16 16 1

/-- The error word of a frame that is refused as a whole: the named detail, or the offset of its first word and the number of
its words. -/
def frameError (f : AccessFrame) (r : Rej) : Word := errWord 0x02 (offOf f.address) f.count r

/-- The status word of a response: that of the frame's session, or of a path without one. -/
def frameStatus (s : State) (k : Option (Fin 8)) (err : Bool) : Word :=
  match k with
  | some i => statusOf s (pathLevel s (.sess i)) (err || (pathOf s (.sess i)).err) (pathOf s (.sess i)).tcount
  | none => statusOf s 0 err 0

/-- The refusal of a whole frame, with its answer. -/
def refuseFrame (s : State) (f : AccessFrame) (k : Option (Fin 8)) (r : Rej) : State × AccessResp :=
  let s := frameRefuse s f r
  let st := frameStatus s k true
  let s := match k with
    | some i => takeStatus s (.sess i)
    | none => s
  (s, respond f st (frameError f r) [])

/-- The malformed frames of R879 that are answered: the reason. -/
def frameForm (f : AccessFrame) : Option Nat :=
  if f.count = 0 then some Rsn.ZERO
  else if (f.op ≠ 1 ∧ f.op ≠ 2) ∨ 64 < f.count ∨ 2 ^ 24 ≤ f.address ∨ (f.op = 2 ∧ f.data.length < f.count) then some Rsn.RANGE
  else none

/-- The words of a WRITE frame: the state, the error word of the first refusal and whether it names a detail, the refusals. -/
def frameWrites (s : State) (p : Path) (a : Nat) (l : List Word) : State × Option (Word × Bool) × Nat :=
  match l with
  | [] => (s, none, 0)
  | v :: t =>
    let s1 := writeWord (onPath s p (fun x => { x with err := false })) (some p) a v
    let bad := (pathOf s1 p).err
    let first : Option (Word × Bool) := if bad then some ((pathOf s1 p).lastErr, (pathOf s1 p).lastNamed) else none
    let r := frameWrites s1 p (a + 4) t
    (r.1, first.or r.2.1, r.2.2 + b2n bad)

/-- The error word of a frame whose words were executed (R879). -/
def wordsError (first : Option (Word × Bool)) (n : Nat) : Word :=
  match first with
  | none => 0
  | some (e, named) => if named then e else setFld e 28 4 (min 15 n)

/-- A well-formed frame of session `k` is executed (R162, R179, R182). -/
def runFrame (s : State) (f : AccessFrame) (k : Fin 8) : State × AccessResp :=
  let p : Path := .sess k
  let s := onPath s p (fun t => { t with tcount := t.tcount + 1 })
  if f.op = 2 then
    let was := (pathOf s p).err
    let r := frameWrites s p f.address (f.data.take f.count)
    let bad := was || decide (r.2.2 ≠ 0)
    let st := statusOf r.1 (pathLevel r.1 p) bad (pathOf r.1 p).tcount
    (takeStatus (bumpSat r.1 HOST.REFUSED_COUNT 16 16 (b2n (decide (r.2.2 ≠ 0)))) p,
      respond f st (wordsError r.2.1 r.2.2) [])
  else
    let r := readWords s p f.address f.count
    (takeStatus r.1 p, respond f (statusWord r.1 p) 0 r.2)

/-- A frame for this hub (R178 to R185, R879): the state and the answer, if there is one. -/
def accessFrame (s : State) (f : AccessFrame) : State × Option AccessResp :=
  if f.version ≠ 1 then (bumpSat s HOST.REFUSED_COUNT 16 16 1, none)
  else
    let some' (r : State × AccessResp) : State × Option AccessResp := (r.1, some r.2)
    let k := sessionOf s f
    if !rdb s HOST.RING_ACCESS 0 then some' (refuseFrame s f k ⟨HErr.RINGOFF, none⟩)
    else match frameForm f with
      | some r =>
        let x := refuseFrame s f k ⟨r, none⟩
        (x.1, some { x.2 with error := errWord 0x02 0 1 ⟨r, none⟩ })
      | none =>
        match k with
        | none =>
          match freeSession s with
          | none => some' (refuseFrame s f none ⟨HErr.ESESSION, none⟩)
          | some i =>
            let r := runFrame (onPath s (.sess i) (fun _ => {})) f i
            (setSession r.1 i (some ⟨f.mac, f.session, f.seq, r.2⟩), some r.2)
        | some i =>
          match s.host.sessions.getD i none with
          | none => (s, none)
          | some x =>
            if f.seq = x.lastSeq then (s, some x.stored)
            else if f.seq ≠ x.lastSeq + 1 then some' (refuseFrame s f (some i) ⟨HErr.ESEQ, some (x.lastSeq + 1).toNat⟩)
            else
              let r := runFrame s f i
              (setSession r.1 i (some { x with lastSeq := f.seq, stored := r.2 }), some r.2)

/-- A register-access frame has reached its hub: it is answered the way it came (R178, R438). -/
def accessHeard (s : State) (f : AccessFrame) : State :=
  if !hostReady s || decide (s.ring.address ≠ some f.hub) then s
  else match accessFrame s f with
    | (s, some r) => sendRing s f.mac (.response r)
    | (s, none) => s

def execRingRead (f : AccessFrame) (s : State) : Host.Outcome State Fault Refusal :=
  .next (accessHeard s { f with op := 1, data := [] })
def execRingWrite (f : AccessFrame) (s : State) : Host.Outcome State Fault Refusal :=
  .next (accessHeard s { f with op := 2 })

/-- SESSION_TIMEOUT (R181, R183). -/
def sessionTimeout (s : State) (k : Fin 8) : State :=
  if (s.host.sessions.getD k none).isNone then s
  else setSession (onPath (lapse s (.sess k)) (.sess k) (fun _ => {})) k none

def execSessionTimeout (slot : Fin 8) (s : State) : Host.Outcome State Fault Refusal := .next (sessionTimeout s slot)

end Sys2Proof.Machine
end

