-- ==== Sys2Proof/Machine/Dawn.lean ====
section
/-!
DEFINITION. Dawn (spec/21): BIST, the load of the Ream image (R748, R750 to R754, R116), the phases of Table 21.1 and what holds
them, and the events of other chapters that can end a phase.
Marked choices: DESIGN CHOICE, log entries 2, 11; DEDUCED, log entries 28, 29, 30, 31, 32.
-/
namespace Sys2Proof.Machine

-- phases

/-- DAWN_T of a phase that ends now: ms from the power-good instant (R856). -/
def dawnMs (s : State) : Nat := min (2 ^ 24 - 1) ((s.time.now - s.pwr.dawnAt) / 10000)

/-- The phase in progress ends and the next begins (R847). -/
def endPhase (s : State) : State :=
  let p := s.pwr.dawnPhase
  let s := if 2 ≤ p ∧ p ≤ 9 then wr s (SYS.DAWN_T (p - 2)) (word (dawnMs s)) else s
  setWait (onPwr s (fun x => { x with dawnPhase := p + 1 })) 0

/-- The condition of Table 21.1 that ends the phase in progress. The phases before 4 end with their own commands; a hub that
BIST holds goes no further than phase 5 (R854). -/
def phaseEnds (s : State) : Bool :=
  match s.pwr.dawnPhase with
  | 4 => linkUpOn s .l0 && linkUpOn s .l1
  | 5 => s.ring.address.isSome
  | 6 => !bistFailed s && (isPaired s || !pairConfigured s)
  | 7 => coarseOk s || decide (servo s = .grandmaster)
  | 8 => decide (servo s = .locked ∨ servo s = .grandmaster)
  | 9 => s.time.gridStarted
  | _ => false

/-- At most `n` phases whose conditions hold end one after the other. -/
def dawnRun : Nat → State → State
  | 0, s => s
  | n + 1, s => if phaseEnds s then dawnRun n (endPhase s) else s

/-- A hub in Dawn goes on as far as its conditions allow (R847, R853). -/
def dawnAdvance (s : State) : State :=
  if s.pwr.st = .dawn ∧ !warmActive s then leaveDawn (dawnRun 6 s) else s

-- BIST

/-- DAWN_STAT.bist_core to bist_edge, in bits 16 to 21 (Table 21.4); a warm reset runs no Vat pattern test. -/
def bistBits (s : State) (r : BistResult) : Nat :=
  2 ^ 16 * b2n r.core + 2 ^ 17 * b2n (r.vat && !s.pwr.warm.running) + 2 ^ 18 * b2n r.nvm + 2 ^ 19 * b2n r.sram +
    2 ^ 20 * b2n (!r.failedSlices.isEmpty || !r.failedBands.isEmpty) + 2 ^ 21 * b2n (!r.failedEdges.isEmpty)

/-- The coefficients that the foreground calibration leaves in a slice that passes (R259): a free value within the limits of
R256. -/
def bistSlice (draw core i : Nat) (old : SliceCoef) : SliceCoef :=
  let x := Config.bistSlice draw (9 * core + i)
  let k : SliceCoef := ⟨x.1, x.2.1, x.2.2⟩
  if slicePasses k then k else old

/-- The foreground calibration of all slices (R259, R257): slices retired before stay retired until a cold reset. -/
def bistCores (s : State) (failed : List (Fin 32 × Fin 9)) : State :=
  let draw := s.freeCtr
  let s : State := { s with
    freeCtr := draw + 1
    cores := s.cores.zipIdx.map (fun x => { x.1 with
      coefs := x.1.coefs.zipIdx.map (fun k => if x.1.retired.getD k.2 false then k.1 else bistSlice draw x.2 k.2 k.1)
      calAt := List.replicate 9 s.time.now }) }
  failed.foldl (fun s f => retireSlice s f.1 f.2) s

/-- The calibration set in force (R748): the active slot of the NV store as `r` reads it, the factory calibration where there is none. -/
def loadCalSet (s : State) (r : List NvRead) : State :=
  let l := readSlots s.nv.cal r
  let s := evtIf (fellBack l) (countReads { s with nv := { s.nv with cal := l } } r) pgNVM 0
  match activeOf l with
  | some x =>
    let s := wr s NVM.STAT (setFld (rd s NVM.STAT) 2 1 0)
    { s with inCoefs := x.content.coefs, cal := { s.cal with ref := x.content.coefs, units := x.content.units } }
  | none =>
    let s := wr s NVM.STAT (setFld (rd s NVM.STAT) 2 1 1)
    { s with inCoefs := [], cal := { s.cal with ref := [], units := [] } }

/-- A recalibration that a warm reset has ended starts again after BIST (Table 18.7). -/
def bistRecal (s : State) : State :=
  let was := calRunning s
  let s := wr { s with cal := { s.cal with agree := 0 } } CAL.STAT (resetOf CAL.STAT)
  if was then calStart s else s

/-- Every test of Table 21.2 has run (R848). -/
def bistDone (s : State) (r : BistResult) : State :=
  let s := wr s SYS.DAWN_STAT (rd s SYS.DAWN_STAT ||| word (bistBits s r))
  let s := bistCores s r.failedSlices
  let s : State := { s with badBands := r.failedBands.map (·.val) }
  let s := (List.finRange 64).foldl (fun s (n : Fin 64) =>
    let bad := r.failedEdges.contains n
    evtIf bad (onEdge s n (fun e => { e with calFail := List.replicate 3 bad })) (pgEDGE (n / 8)) 24) s
  endPhase (bistRecal (calUnits (calMeasure (loadCalSet s [r.cal0, r.cal1]) (fun _ => true) false) (fun _ => true)))

/-- BIST_DONE (R848). -/
def execBistDone (r : BistResult) (s : State) : Host.Outcome State Fault Refusal :=
  .next (when (decide (s.pwr.st = .dawn ∧ s.pwr.dawnPhase = 2) && clocksOk s) s (fun s => bistDone s r))

-- the load of the Ream image

/-- Streams that are not IDLE, and reams that are not (R116). -/
def keptStreams (s : State) : List Nat := (List.range 64).filter (fun i => decide ((strmOf s i).st ≠ .idle))
def keptReams (s : State) : List Nat := (List.range 16).filter (fun r => decide ((reamOf s r).st ≠ .idle))

/-- The chains that they select, and the temperature sources of those (R116). -/
def keptChains (s : State) : List Nat :=
  chainsOf s ((keptStreams s).flatMap (fun i => selChans s i) ++ (keptReams s).flatMap (fun r => reamChans s r))

/-- The coefficient sets that those chains name. -/
def keptSets (s : State) : List Nat := (keptChains s).flatMap (fun c => [(chainCfg s c).setA, (chainCfg s c).setB])

/-- Registers that a warm reset keeps although no image names them: what they tell outlives the reset (Table 3.8, R131, R386, R657,
and the tables that say "since cold reset"), or was written by this Dawn. -/
def alwaysKept (a : Nat) : Bool :=
  let p := pageOf a
  let o := offOf a
  decide (o = Hdr.EVT) ||
    (decide (p = pgSYS) && decide (a = SYS.QUEUE_ECC_TOTAL ∨ a = SYS.INT_FAULT ∨ (SYS.DAWN_STAT ≤ a ∧ a ≤ SYS.DAWN_T 7))) ||
    (decide (p = pgPWR) && decide (a = PWR.RST_COUNT ∨ a = PWR.RST_CAUSE ∨ a = PWR.HOLD_STAT ∨ a = PWR.WAKE_CFG ∨
      a = PWR.WAKE_AT ∨ a = PWR.FAULT_SRC ∨ (PWR.LAST_SAMPLED_LO ≤ a ∧ a ≤ PWR.RESUMED_HI))) ||
    decide (a = CLK.LOSS_COUNT ∨ a = CLK.XLP_TRIM ∨ a = HOST.XFER_COUNT ∨ a = VAT.SR_STAT ∨ a = NVM.STAT ∨
      a = NVM.STORE_COUNT ∨ a = NVM.ECC_STAT ∨ a = FUSE.AUTH_STAT ∨ a = CAL.STAT ∨ a = CAL.T_CAL ∨ a = CAL.LAST_LO ∨ a = CAL.LAST_HI) ||
    decide (HKC.TEMP 0 ≤ a ∧ a ≤ HKC.TEMP_MAX) ||
    (match blkOfPage p with
      | some (.cc, _) => decide (o = 0x4c)
      | some (.time, _) => decide (0x40 ≤ o) && (match rowAt a with
          | some r => decide (r.acc = .ro)
          | none => false)
      | _ => false)

/-- The registers that R116 keeps. -/
def r116Kept (streams reams chains : List Nat) (a : Nat) : Bool :=
  let p := pageOf a
  let o := offOf a
  let open' := !streams.isEmpty || !reams.isEmpty
  (decide (p = pgSTRM ∧ 0x100 ≤ o) && streams.contains ((o - 0x100) / 0x30)) ||
    (decide (p = pgCAPT ∧ 0x100 ≤ o) && reams.contains ((o - 0x100) / 0x40)) ||
    (match blkOfPage p with
      | some (.flt, i) => decide (0x100 ≤ o) && chains.contains (8 * i + (o - 0x100) / 0x40)
      | _ => false) ||
    (open' && decide (a = VAT.FELT_SIZE ∨ a = VAT.REAM_SIZE ∨ a = VAT.TABLE_SIZE))

/-- What R116 keeps at a load: registers, streams, reams, chains and coefficient sets; nothing after a cold reset. -/
structure Kept where
  reg : Nat → Bool
  streams : List Nat
  reams : List Nat
  chains : List Nat
  sets : List Nat

def keptOf (s : State) : Kept :=
  if s.pwr.warm.running then
    let st := keptStreams s
    let re := keptReams s
    let ch := keptChains s
    ⟨r116Kept st re ch, st, re, ch, keptSets s⟩
  else ⟨fun _ => false, [], [], [], []⟩

/-- After a warm reset every register but those that `k` keeps and those that outlive it has its reset value, as after a cold one; so have the memories that R750 names. -/
def wipe (s : State) (k : Kept) : State :=
  { s with
    regs := if s.pwr.warm.running then s.regs.filter (fun e => k.reg e.1 || alwaysKept e.1) else s.regs
    shadow := []
    strmSel := s.strmSel.filter (fun e => k.streams.contains (e.1 / 12))
    captSel := s.captSel.filter (fun e => k.reams.contains (e.1 / 12))
    flt := { s.flt with
      coef := s.flt.coef.filter (fun e => k.sets.contains (e.1 / 256))
      poly := s.flt.poly.filter (fun e => k.chains.contains (e.1 / 24)), polyShadow := [] }
    addrTable := [], levels := [] }

/-- One pair of the image (R753): a pair that a check of a write refuses is skipped and counted. -/
def imagePair (s : State) (a : Nat) (v : Word) : State :=
  let skip := bumpSat s NVM.REAM_SKIPPED 0 16 1
  match blkOfPage (pageOf a) with
  | none => skip
  | some (b, i) =>
    if offOf a < 0x40 then
      if (headerRej s none b i (pageOf a) (offOf a) v).isSome then skip else headerEffect s none b i (pageOf a) (offOf a) v
    else match rowAt a with
      | none => skip
      | some r => if (regRej s none b i a r v).isSome then skip else regEffect s none b i a r v

/-- Pairs in ascending order of address. -/
def insertPair (e : Nat × Word) (l : List (Nat × Word)) : List (Nat × Word) :=
  match l with
  | [] => [e]
  | x :: t => if e.1 ≤ x.1 then e :: x :: t else x :: insertPair e t

def sortPairs (l : List (Nat × Word)) : List (Nat × Word) := l.foldr insertPair []

/-- Entries of a sparse list that the load places: those whose key `k` does not keep. -/
def place {α : Type} (old new : List (Nat × α)) (z : α) (keep : Nat → Bool) [DecidableEq α] : List (Nat × α) :=
  new.foldl (fun l e => if keep e.1 then l else sparsePut l z e.1 e.2) old

/-- The memories of the image (R750): their words stand in force before the registers that use them. -/
def loadMemories (s : State) (k : Kept) (m : ReamImage) : State :=
  { s with
    strmSel := place s.strmSel m.strmSel 0 (fun x => k.streams.contains (x / 12))
    captSel := place s.captSel m.captSel 0 (fun x => k.reams.contains (x / 12))
    flt := { s.flt with
      coef := place s.flt.coef m.coef 0 (fun x => k.sets.contains (x / 256))
      poly := place s.flt.poly m.poly 0 (fun x => k.chains.contains (x / 24)) }
    addrTable := m.addrTable, levels := m.levels
    engines := s.engines.zipIdx.map (fun x => { x.1 with
      subs := m.subs.getD x.2 x.1.subs
      sram := (m.progs.getD x.2 []).foldl (fun l e => sparsePut l 0 e.1 e.2) (x.1.sram.filter (fun w => decide (0x10000 ≤ w.1))) }) }

/-- What the new register values bring about on their blocks, page by page, from the state `s0` before the load; the edge
channels have run on under their old settings (R657), and after a warm reset the lighting lines stay low (Table 16.3). -/
def loadEffects (old s0 s : State) : State :=
  let n := now s
  let s := (List.range 256).foldl (fun s p =>
    match blkOfPage p with
    | some (.edge, i) => commitEffects old s .edge i n
    | some (.lite, i) => if s.pwr.warm.running then s else commitEffects s0 s .lite i n
    | some (b, i) => commitEffects s0 s b i n
    | none => s) s
  { s with slots := s.slots.zipIdx.map (fun x => { x.1 with imageEn := bit (axCfg s x.2) 0 }) }

/-- The table range goes back to its place after a cold reset (R754). -/
def loadTable (s : State) (m : ReamImage) : State :=
  let s := wr s NVM.STAT (setFld (rd s NVM.STAT) 3 1 0)
  if !s.pwr.tableDue || decide (m.len = 0) then s
  else if inTable s m.base m.len then vatPutBytes s m.base m.table
  else wr s NVM.STAT (setFld (rd s NVM.STAT) 3 1 1)

/-- The image that this Dawn loads: none while BIST holds the hub (R854), or where its device word differs (R753). -/
def imageToLoad (s : State) : Option ReamImage :=
  match activeOf s.nv.ream with
  | some x => if bistFailed s ∨ x.content.device ≠ resetOf SYS.DEVICE then none else some x.content
  | none => none

/-- The registers and memories as the image sets them (R116, R748, R753, R754). -/
def loadImage (s : State) : State :=
  let k := keptOf s
  let s0 := wipe s k
  match imageToLoad s with
  | none => loadEffects s s0 (wr s0 NVM.STAT (setFld (setFld (rd s0 NVM.STAT) 1 1 1) 3 1 0))
  | some m =>
    let s1 := loadMemories (wr s0 NVM.STAT (setFld (rd s0 NVM.STAT) 1 1 0)) k m
    let pairs := sortPairs (m.regs.filter (fun e => !k.reg e.1))
    let s2 := pairs.foldl (fun s e => imagePair s e.1 e.2) s1
    loadTable (loadEffects s s0 s2) m

/-- DAWN_STAT.ream_fallback (Table 21.4). -/
def noteFallback (s : State) : State :=
  wr s SYS.DAWN_STAT (setFld (rd s SYS.DAWN_STAT) 22 1 (b2n (rdb s NVM.STAT 1 || rdb s (hdr pgNVM Hdr.EVT) 0)))

/-- Phase 3 ends (R753, R120): the image is in force, host access returns. -/
def reamLoaded (s : State) : State :=
  let warm := s.pwr.warm.running
  let s := clearBlock (safeDawn (noteFallback (loadImage s)))
  let s := onPwr s (fun p => { p with
    tableDue := false, dawnPhase := 3
    warm := if warm then { p.warm with running := false, imageLoaded := true } else p.warm })
  if warm then onPwr s (fun p => { p with dawnPhase := 4 }) else dawnAdvance (endPhase s)

/-- Dawn reads the slots of the Ream image (R748). -/
def readImage (s : State) (r : List NvRead) : State :=
  let l := readSlots s.nv.ream r
  evtIf (fellBack l) (countReads { s with nv := { s.nv with ream := l } } r) pgNVM 0

/-- REAM_IMAGE_LOADED (R753): after BIST; a warm reset waits for its rails and clocks (Table 3.2, R99). -/
def execReamImageLoaded (s : State) (slot0 slot1 : NvRead := {}) : Host.Outcome State Fault Refusal :=
  .next (when (decide (s.pwr.st = .dawn ∧ s.pwr.dawnPhase = 3) && (!s.pwr.warm.running || !warmHeld s)) s
    (fun s => reamLoaded (readImage s [slot0, slot1])))

-- waits

/-- LINK_WAIT_EXPIRY (R847, Table 21.1): 15 ms in phase 4, or L2 without link for 100 ms in phase 6. -/
def execLinkWaitExpiry (s : State) : Host.Outcome State Fault Refusal :=
  .next (when (decide (s.pwr.st = .dawn) && !warmActive s &&
      (decide (s.pwr.dawnPhase = 4) || (decide (s.pwr.dawnPhase = 6) && !linkUpOn s .l2 && !bistFailed s))) s
    (fun s => dawnAdvance (endPhase s)))

/-- The wait causes of DAWN_STAT that a phase can show (Tables 21.1 and 21.4). -/
def stallCauses (s : State) : List Nat :=
  if bistFailed s ∧ 6 ≤ s.pwr.dawnPhase then [2]
  else match s.pwr.dawnPhase with
    | 2 => [1, 2] | 4 => [3] | 5 => [4, 5] | 6 => [6] | 7 => [8] | 8 => [8] | 9 => [9] | _ => []

/-- DAWN_STALL (R855): the phase in progress has run beyond its bound. -/
def execDawnStall (cause : Nat) (s : State) : Host.Outcome State Fault Refusal :=
  .next (when (decide (s.pwr.st = .dawn) && !warmActive s && (stallCauses s).contains cause) s
    (fun s => evt (setWait s cause) pgSYS 3))

-- the events of other chapters that can end a phase of Dawn

/-- LINK_UP (R421). -/
def execLinkUp (l : Lane) (s : State) : Host.Outcome State Fault Refusal :=
  .next (when (laneReady s l && !linkUpOn s l) s (fun s => dawnAdvance (linkRise s l)))

/-- LINK_DOWN (R422). -/
def execLinkDown (l : Lane) (s : State) : Host.Outcome State Fault Refusal := .next (dawnAdvance (linkLost s l))

/-- ADDRESS_ASSIGNMENT_SEND (R445, R446, R451). -/
def execAddressAssignmentSend (s : State) : Host.Outcome State Fault Refusal :=
  .next (when (ringReady s) s (fun s => dawnAdvance (assignmentSend s)))

/-- ADDRESS_ASSIGNMENT (R449). -/
def execAddressAssignment (a : Assignment) (s : State) : Host.Outcome State Fault Refusal :=
  .next (when (hubRuns s && ringOn s) s (fun s => dawnAdvance (assignmentHeard s a)))

/-- ROOT_ALONE (R849). -/
def execRootAlone (s : State) : Host.Outcome State Fault Refusal := .next (dawnAdvance (rootAlone s))

/-- SYNC_MESSAGE (R372 to R395). -/
def execSyncMessage (m : SyncMsg) (s : State) : Host.Outcome State Fault Refusal := .next (dawnAdvance (syncMessage s m))

/-- GRID_START_INDEX (R407). -/
def execGridStartIndex (s : State) : Host.Outcome State Fault Refusal :=
  let lost := s.pwr.warm.timeLost
  let t := gridStartIndex s
  .next (dawnAdvance (if lost && !t.pwr.warm.timeLost then warmMarks t (now t) else t))

/-- PAIRED (R817, R842). -/
def execPaired (s : State) : Host.Outcome State Fault Refusal :=
  .next (when (decide (s.twin.pair = .pairing)) s (fun s => dawnAdvance (pairUp s)))

/-- HEARTBEAT (R821). -/
def execHeartbeat (w : Word) (s : State) : Host.Outcome State Fault Refusal := .next (dawnAdvance (heartbeatHeard s w))

/-- PARTNER_LOST (R821, R830). -/
def execPartnerLost (s : State) : Host.Outcome State Fault Refusal :=
  .next (when (isPaired s || decide (s.twin.pair = .pairing)) s (fun s => dawnAdvance (partnerLost s)))

/-- ARBSEL_CHANGE (R828, R853). -/
def execArbselChange (level : Bool) (s : State) : Host.Outcome State Fault Refusal := .next (dawnAdvance (arbChange s level))

end Sys2Proof.Machine
end

