-- ==== Sys2Proof/Machine/Frames.lean ====
section
/-!
DEFINITION. What the hub does with a frame that a lane receives (spec/10): the ring ports as HSR node (R429 to R437, R881), the
root's forwarding between the ring and L3 (R438, R439, R180, R184), the twin link.
Marked choices: DESIGN CHOICE, log entry 16; DEDUCED, log entries 50, 51.
-/
namespace Sys2Proof.Machine

-- duplicate discard

/-- What a window says of a sequence number (R432). -/
inductive Verdict where
  | fresh | dup | stale
deriving DecidableEq, Repr

/-- How far `a` lies ahead of `b`, modulo 65,536. -/
def seqDiff (a b : Nat) : Nat := (a % 65536 + 65536 - b % 65536) % 65536

/-- A sequence number meets a window (R432). -/
def windowStep (w : Window) (q : Nat) : Window × Verdict :=
  let d := seqDiff q w.newest
  if 1 ≤ d ∧ d ≤ 32767 then
    ({ w with newest := q, seen := q :: w.seen.filter (fun x => decide (seqDiff q x ≤ 4095)) }, .fresh)
  else if seqDiff w.newest q ≤ 4095 then
    (if w.seen.contains q then (w, .dup) else ({ w with seen := q :: w.seen }, .fresh))
  else (w, .stale)

/-- The source MACs of a list of windows, most recently used first. -/
def windowSources (l : List Window) : List Mac := (l.map (·.src)).eraseDups

/-- The windows with room for source `m`: of 128 others, the longest idle goes. -/
def windowRoom (l : List Window) (m : Mac) : List Window :=
  let srcs := windowSources l
  if srcs.contains m ∨ srcs.length < 128 then l
  else match srcs.getLast? with
    | some x => l.filter (fun w => decide (w.src ≠ x))
    | none => l

/-- A frame of source `m` and sequence `q` meets its window for one use; the window comes to the front. -/
def windowTake (s : State) (m : Mac) (use q : Nat) : State × Verdict :=
  match s.ring.windows.find? (fun w => decide (w.src = m ∧ w.use = use)) with
  | some w =>
    let r := windowStep w q
    (onRing s (fun x => { x with windows := r.1 :: x.windows.filter (fun y => decide (y.src ≠ m ∨ y.use ≠ use)) }), r.2)
  | none => (onRing s (fun x => { x with windows := ⟨m, use, q, [q]⟩ :: windowRoom x.windows m }), .fresh)

/-- A beacon with seq_reset clears the windows of its source (R433). -/
def clearWindows (s : State) (m : Mac) : State :=
  onRing s (fun x => { x with windows := x.windows.filter (fun w => decide (w.src ≠ m)) })

/-- A discarded frame is counted once: as a duplicate where some window has seen it, as stale otherwise. -/
def countDiscard (s : State) (a b : Verdict) : State :=
  if a = .dup ∨ b = .dup then bumpWrap s RING.DUP_DISCARD 0 32 1
  else if a = .stale ∨ b = .stale then bumpSat s RING.STALE_DISCARD 0 16 1
  else s

/-- An unknown or untagged frame is counted (R442, R881). -/
def countUnknown (s : State) : State := bumpSat s RING.STALE_DISCARD 16 16 1

-- forwarding

/-- The bound of R434 for a lane mode, in units of 2⁻¹⁶ ns (Table 10.4). -/
def residenceBound (s : State) (i : Nat) : Nat :=
  let cfg := rd s (LANE.CFG i)
  let n := 8 * (s.adm.maxFrame + 20) * 65536
  if fld cfg 0 2 = 1 then 400 * 65536 + n / 10
  else if bit cfg 2 then 230 * 65536 + n / 25 else 150 * 65536 + n / 25

/-- The content of a frame as it leaves on the other ring port (R393, R443). -/
def forwardBody (s : State) (port out : Lane) (b : FrameBody) : State × FrameBody :=
  match b with
  | .beacon x => (s, .beacon { x with hops := (x.hops + 1) % 256 })
  | .rootBeacon x => (s, .rootBeacon { x with hops := (x.hops + 1) % 256 })
  | .sync m =>
    let r := (Config.freeWord s.freeCtr).toNat % (residenceBound s (laneIdx out) + 1)
    (drawn s, .sync { m with corr := m.corr + (r : Int) + portDelay s port })
  | _ => (s, b)

def otherPort (port : Lane) : Lane := if port = .l0 then .l1 else .l0

/-- A frame leaves on the other ring port (R431); with `good` false its FCS is inverted (R436). -/
def forwardFrame (s : State) (port : Lane) (f : RxFrame) (good : Bool) : State :=
  let out := otherPort port
  if linkUpOn s out then
    let r := forwardBody s port out f.body
    bumpWrap (emit r.1 ⟨out, f.hsr, f.src, f.dst, r.2, good⟩) RING.FWD_COUNT 0 32 1
  else s

/-- A frame that the root brings into the ring: its own next HSR sequence, the source MAC of the frame (R438). -/
def insertAs (s : State) (f : RxFrame) : State :=
  if !ringOn s || s.ring.address.isNone then s
  else
    let s := if s.ring.announced then s else sendBeacon s
    let q := s.ring.seq + 1
    let s := onRing s (fun r => { r with seq := q })
    bumpWrap (emit (emit s ⟨.l0, some q, f.src, f.dst, f.body, true⟩) ⟨.l1, some q, f.src, f.dst, f.body, true⟩) RING.FWD_COUNT 0 32 1

/-- A ring frame leaves on the root's L3, its tag removed (R438). -/
def forwardL3 (s : State) (f : RxFrame) : State :=
  if linkUpOn s .l3 then bumpWrap (emit s ⟨.l3, none, f.src, f.dst, f.body, true⟩) RING.FWD_COUNT 0 32 1 else s

-- content

def isPtp : FrameBody → Bool
  | .sync _ => true
  | .followUp _ _ _ _ => true
  | .announce _ => true
  | .delayReq _ _ _ => true
  | .delayResp _ _ _ _ _ => true
  | .pdelayReq _ => true
  | .pdelayResp _ _ => true
  | .ptpUnsupported _ => true
  | _ => false

/-- Every copy of a discovery beacon or of a Sync tells something of its direction, accepted or not (R392, R416, R447). -/
def everyCopy (s : State) (port : Lane) (b : FrameBody) : State :=
  match b with
  | .beacon x => hearNode s port x
  | .sync m => syncMessage s { m with port := port }
  | _ => s

/-- So does every copy of a root beacon, after its news (R882). -/
def everyRootCopy (s : State) (port : Lane) (b : FrameBody) : State :=
  match b with
  | .rootBeacon x => hearRootCopy s port x
  | _ => s

/-- What an accepted frame of a ring port, or of L3 at its own MAC, does here (Tables 10.5, 4.9, 9.3). -/
def localFrame (s : State) (port : Lane) (f : RxFrame) : State :=
  match f.body with
  | .ack m => acknowledgement s m
  | .beacon b => beaconNews s b
  | .assignment a => assignmentHeard s a
  | .admission r => admissionHeard s r
  | .admReply r => replyHeard s r
  | .gridStart g => gridStartHeard s g
  | .ledger r => ledgerHeard s r
  | .rootBeacon b => rootBeaconNews s b
  | .ringTrigger t => ringTriggered s t
  | .safe m => safeFrameRx s m
  | .access a => accessHeard s { a with mac := f.src }
  | .announce m => announceHeard s { m with port := port }
  | _ => s

/-- A frame of the twin on L2 (Table 10.5). -/
def twinFrame (s : State) (b : FrameBody) : State :=
  match b with
  | .heartbeat w => heartbeatHeard s w
  | .mirror m => mirrorHeard s m
  | .positions l => positionsHeard s l
  | .twinAck m => twinAckHeard s m
  | .handover m => handoverHeard s m
  | .snapshot m => snapshotHeard s m
  | _ => s

-- ring ports

/-- A received frame is counted on its lane; a bad FCS too (R436). -/
def countRx (s : State) (port : Lane) (ok : Bool) : State :=
  let i := laneIdx port
  let s := bumpWrap s (LANE.RX_FRAMES i) 0 32 1
  if ok then s else evt (bumpSat s (LANE.FCS_ERR i) 0 32 1) (pgLANE i) 3

/-- The root forwards a ring frame to L3 (R438): PTP is the root's own affair. -/
def toL3 (s : State) (f : RxFrame) : Bool :=
  s.ring.root && !isHubMac s f.dst && decide (f.dst ≠ ctlMac ∧ f.dst ≠ ownMac s) && !isPtp f.body

/-- The use number of a port's forwarding window. -/
def fwdUse (port : Lane) : Nat := if port = .l0 then 1 else 2

/-- A tagged frame of another hub with a good FCS (Table 10.3, R432, R438). -/
def taggedFrame (s : State) (port : Lane) (f : RxFrame) (q : Nat) : State :=
  let s := match f.body with
    | .beacon b => if b.seqReset then clearWindows s f.src else s
    | _ => s
  let mine := decide (f.dst = ownMac s)
  let here := mine || isMulticast f.dst
  let up := toL3 s f
  let fw := if mine then (s, Verdict.fresh) else windowTake s f.src (fwdUse port) q
  let ac := if here || up then windowTake fw.1 f.src 0 q else (fw.1, Verdict.fresh)
  let s := countDiscard ac.1 fw.2 ac.2
  let s := if !mine && decide (fw.2 = .fresh) then forwardFrame s port f true else s
  let s := if up && decide (ac.2 = .fresh) then forwardL3 s f else s
  let first := here && decide (ac.2 = .fresh)
  let s := if first && decide (f.body = .unknownControl) then countUnknown s else s
  let s := everyCopy s port f.body
  everyRootCopy (if first then localFrame s port f else s) port f.body

/-- An untagged frame on a ring port: peer delay (R394), or nothing (R881). -/
def untaggedFrame (s : State) (port : Lane) (b : FrameBody) : State :=
  match b with
  | .pdelayReq q => pdelayReq s port (.answer q 0 (htI s))
  | .pdelayResp q c => pdelayResp s port q c (htI s) false
  | _ => countUnknown s

/-- A frame with a bad FCS goes on, inverted, as far as its addresses and its sequence let it (R436). -/
def badFrame (s : State) (port : Lane) (f : RxFrame) : State :=
  match f.hsr with
  | none => s
  | some q =>
    if f.src = ownMac s ∨ f.dst = ownMac s then s
    else
      let r := windowTake s f.src (fwdUse port) q.toNat
      if r.2 = .fresh then forwardFrame r.1 port f false else r.1

/-- A frame on L0 or L1 (R431). A frame of this hub has gone round and is removed; a root notes its returning beacons (R882). -/
def ringPortFrame (s : State) (port : Lane) (f : RxFrame) : State :=
  if !f.fcsOk then badFrame s port f
  else if f.src = ownMac s then
    (match f.body with
      | .rootBeacon b => if s.ring.root then hearRootCopy s port b else s
      | _ => s)
  else match f.hsr with
    | none => untaggedFrame s port f.body
    | some q => taggedFrame s port f q.toNat

/-- RING_FRAME (R431): a frame that L0 or L1 receives, or a twin frame on L2. -/
def ringFrame (s : State) (port : Lane) (f : RxFrame) : State :=
  if !hubRuns s || !linkUpOn s port || decide (port = .l3) then s
  else
    let s := countRx s port f.fcsOk
    dawnAdvance (if port = .l2 then (if f.fcsOk then twinFrame s f.body else s)
      else if ringOn s then ringPortFrame s port f else s)

def execRingFrame (port : Lane) (f : RxFrame) (s : State) : Host.Outcome State Fault Refusal := .next (ringFrame s port f)

-- L3

/-- A PTP message on the root's L3 (R388, R389). -/
def l3Ptp (s : State) (f : RxFrame) : State :=
  let drop (d : Nat) : State := discardPtp s ((domOfNumber s d).getD 0)
  let multi := isMulticast f.dst
  match f.body with
  | .sync m => if multi then syncMessage s { m with port := .l3 } else drop m.domain
  | .followUp d q o c => if multi then followUp s d q o c else drop d
  | .announce m => if multi then announceHeard s { m with port := .l3 } else drop m.domain
  | .delayReq d q r => if multi then delayReq s d (.answer q r (htI s)) else drop d
  | .delayResp d q r x c =>
    if multi then (if r ≠ s.serial ∧ (domOfNumber s d).isSome then s else delayResp s d q x c) else drop d
  | .ptpUnsupported d => drop d
  | _ => s

/-- A dropped frame is counted (R437, R439). -/
def hostDrop (s : State) : State := evt (bumpSat s RING.HOST_DROP 0 32 1) pgRING 7

/-- The bucket of R439 filled up to now, in units of 1/80 byte: HOST_RATE units in each tick. -/
def bucketNow (s : State) : Nat :=
  min (bucketCap s) (s.adm.bucket + rdf s RING.HOST_RATE 0 10 * (s.time.now - s.adm.bucketAt))

/-- A frame of `n` bytes takes its length from the bucket, or finds too little in it. -/
def takeBucket (s : State) (n : Nat) : Option State :=
  let b := bucketNow s
  if 80 * n ≤ b then some (onAdm s (fun a => { a with bucket := b - 80 * n, bucketAt := s.time.now })) else none

/-- A frame from L3 enters the ring within HOST_RATE (R438, R439). -/
def meterFrame (s : State) (f : RxFrame) : State :=
  match takeBucket s f.bytes with
  | some t => insertAs t f
  | none => hostDrop s

/-- A hub that the root cannot reach (R466): more than one link is down and its beacons have not come for 30 ms (R452). -/
def unreachable (s : State) (serial : Nat) : Bool :=
  bit s.adm.breakStat 16 &&
    !s.ring.nodes.any (fun n => decide (n.beacon.serial = serial ∧ s.time.now ≤ n.heard + 300000))

/-- The root answers a frame on L3 in place of its hub. -/
def answerL3 (s : State) (a : AccessFrame) (r : Rej) : State :=
  let s := frameRefuse s a r
  emitOwn s .l3 a.mac (.response (respond a (statusOf s 0 true 0) (frameError a r) []))

/-- The largest count of a register-access frame whose request and response fit into MAX_FRAME (R180). -/
def largestCount (s : State) (op : Nat) : Nat := min 64 ((s.adm.maxFrame - (if op = 2 then 36 else 44)) / 4)

/-- The frame would be longer than MAX_FRAME on the ring, or its response would (R180). -/
def tooLong (s : State) (a : AccessFrame) : Bool :=
  decide (s.adm.maxFrame < (if a.op = 2 then 36 else 44) + 4 * a.count)

/-- A register-access frame on the root's L3 (R180, R184, R449). -/
def l3Access (s : State) (f : RxFrame) (a : AccessFrame) : State :=
  if s.ring.address = some a.hub then accessHeard s a
  else match s.ring.table.find? (fun e => decide (e.2 = a.hub)) with
    | none => answerL3 s a ⟨HErr.NOHUB, none⟩
    | some e =>
      if unreachable s e.1 then answerL3 s a ⟨HErr.NOHUB, none⟩
      else if tooLong s a then answerL3 s a ⟨HErr.EFRAME, some (largestCount s a.op)⟩
      else meterFrame s { f with dst := macOf e.1, body := .access a }

/-- A frame with a good FCS on the root's L3 (R438). -/
def l3Root (s : State) (f : RxFrame) : State :=
  match f.body with
  | .access a => l3Access s f { a with mac := f.src }
  | _ =>
    if isPtp f.body then l3Ptp s f
    else if f.dst = ownMac s then localFrame s .l3 f
    else if isHubMac s f.dst then (if s.adm.maxFrame < f.bytes + 6 then hostDrop s else meterFrame s f)
    else s

/-- L3_FRAME (R438, R390). -/
def l3Frame (s : State) (f : RxFrame) : State :=
  if !hubRuns s || !linkUpOn s .l3 then s
  else
    let s := countRx s .l3 f.fcsOk
    if f.fcsOk && s.ring.root then dawnAdvance (l3Root s f) else s

def execL3Frame (f : RxFrame) (s : State) : Host.Outcome State Fault Refusal := .next (l3Frame s f)

end Sys2Proof.Machine
end

