-- ==== Sys2Proof/Machine/Dispatch.lean ====
section
/-!
DEFINITION. The dispatch of the commands: one arm for each row of spec/opcode_table.json, a direct call of its meaning.
-/
namespace Sys2Proof.Machine

def exec (i : Instr) (s : State) : Host.Outcome State Fault Refusal :=
  match i with
  | .vbkApplied => Sys2Proof.Machine.execVbkApplied s
  | .railLost r => Sys2Proof.Machine.execRailLost r s
  | .analogRailHoldEnd r => Sys2Proof.Machine.execAnalogRailHoldEnd r s
  | .vdd12lRestored => Sys2Proof.Machine.execVdd12lRestored s
  | .powerGood => Sys2Proof.Machine.execPowerGood s
  | .pwrenTimeout => Sys2Proof.Machine.execPwrenTimeout s
  | .pwrenRetry => Sys2Proof.Machine.execPwrenRetry s
  | .clockLost c => Sys2Proof.Machine.execClockLost c s
  | .clockRestored c => Sys2Proof.Machine.execClockRestored c s
  | .refclkLost r => Sys2Proof.Machine.execRefclkLost r s
  | .refclkRestored r => Sys2Proof.Machine.execRefclkRestored r s
  | .nporLow => Sys2Proof.Machine.execNporLow s
  | .nporRelease => Sys2Proof.Machine.execNporRelease s
  | .nwake => Sys2Proof.Machine.execNwake s
  | .wakeAt => Sys2Proof.Machine.execWakeAt s
  | .nrstreqFall => Sys2Proof.Machine.execNrstreqFall s
  | .nrstreqHighSample => Sys2Proof.Machine.execNrstreqHighSample s
  | .nrstreqDebounced => Sys2Proof.Machine.execNrstreqDebounced s
  | .rstreqFailed => Sys2Proof.Machine.execRstreqFailed s
  | .rstreqRecovered => Sys2Proof.Machine.execRstreqRecovered s
  | .lockstepMismatch => Sys2Proof.Machine.execLockstepMismatch s
  | .watchdog => Sys2Proof.Machine.execWatchdog s
  | .queueFull q => Sys2Proof.Machine.execQueueFull q s
  | .warmReset => Sys2Proof.Machine.execWarmReset s
  | .hubReady => Sys2Proof.Machine.execHubReady s
  | .samplingResumed => Sys2Proof.Machine.execSamplingResumed s
  | .rstCtrl p v => Sys2Proof.Machine.execRstCtrl p v s
  | .targetMidnight p => Sys2Proof.Machine.execTargetMidnight p s
  | .targetRemoval p => Sys2Proof.Machine.execTargetRemoval p s
  | .targetTwilight p => Sys2Proof.Machine.execTargetTwilight p s
  | .duskEnd => Sys2Proof.Machine.execDuskEnd s
  | .duskLimit => Sys2Proof.Machine.execDuskLimit s
  | .faultSrcClear p mask => Sys2Proof.Machine.execFaultSrcClear p mask s
  | .keeperRelease gen ball => Sys2Proof.Machine.execKeeperRelease gen ball s
  | .commitApplyNow p page => Sys2Proof.Machine.execCommitApplyNow p page s
  | .commitApplyAt p page => Sys2Proof.Machine.execCommitApplyAt p page s
  | .commitCancel p page => Sys2Proof.Machine.execCommitCancel p page s
  | .scheduledCommit page => Sys2Proof.Machine.execScheduledCommit page s
  | .pageEnable p page enable => Sys2Proof.Machine.execPageEnable p page enable s
  | .blockReset p page => Sys2Proof.Machine.execBlockReset p page s
  | .freeze p page on => Sys2Proof.Machine.execFreeze p page on s
  | .errcodeClear p page mask => Sys2Proof.Machine.execErrcodeClear p page mask s
  | .registerWrite p addr v => Sys2Proof.Machine.execRegisterWrite p addr v s
  | .loRead p addr => Sys2Proof.Machine.execLoRead p addr s
  | .spiRead addr count cut period ready => Sys2Proof.Machine.execSpiRead addr count s cut period ready
  | .spiWrite addr data e => Sys2Proof.Machine.execSpiWrite addr data e s
  | .spiReadReq addr len cut => Sys2Proof.Machine.execSpiReadReq addr len s cut
  | .spiFetch count cut => Sys2Proof.Machine.execSpiFetch count s cut
  | .spiStatus => Sys2Proof.Machine.execSpiStatus s
  | .resetPort => Sys2Proof.Machine.execResetPort s
  | .busyEnd => Sys2Proof.Machine.execBusyEnd s
  | .attentionPulse => Sys2Proof.Machine.execAttentionPulse s
  | .attentionPulseEnd => Sys2Proof.Machine.execAttentionPulseEnd s
  | .attentionRepeat => Sys2Proof.Machine.execAttentionRepeat s
  | .ringRead f => Sys2Proof.Machine.execRingRead f s
  | .ringWrite f => Sys2Proof.Machine.execRingWrite f s
  | .sessionTimeout slot => Sys2Proof.Machine.execSessionTimeout slot s
  | .queueClear p q => Sys2Proof.Machine.execQueueClear p q s
  | .rawRecord ch c => Sys2Proof.Machine.execRawRecord ch c s
  | .rangeStep ch => Sys2Proof.Machine.execRangeStep ch s
  | .breakEnd ch => Sys2Proof.Machine.execBreakEnd ch s
  | .burnOutTest ch moved => Sys2Proof.Machine.execBurnOutTest ch moved s
  | .swapPhase ch => Sys2Proof.Machine.execSwapPhase ch s
  | .excSettleEnd k => Sys2Proof.Machine.execExcSettleEnd k s
  | .excitationFault k f => Sys2Proof.Machine.execExcitationFault k f s
  | .rotationStep core => Sys2Proof.Machine.execRotationStep core s
  | .sliceCalibrationDone core c => Sys2Proof.Machine.execSliceCalibrationDone core c s
  | .bandEdgeLoad ain ecc => Sys2Proof.Machine.execBandEdgeLoad ain s ecc
  | .comparatorCrossing ain upper level => Sys2Proof.Machine.execComparatorCrossing ain upper level s
  | .minHoldEnd slot leg => Sys2Proof.Machine.execMinHoldEnd slot leg s
  | .hkcStart p v => Sys2Proof.Machine.execHkcStart p v s
  | .hkcResult code value => Sys2Proof.Machine.execHkcResult code value s
  | .hkcSupervision ch value agree => Sys2Proof.Machine.execHkcSupervision ch value agree s
  | .dataRead p => Sys2Proof.Machine.execDataRead p s
  | .filteredRecord ch => Sys2Proof.Machine.execFilteredRecord ch s
  | .syncEdge falling stamp ecc => Sys2Proof.Machine.execSyncEdge falling s stamp ecc
  | .syncSchedule p => Sys2Proof.Machine.execSyncSchedule p s
  | .syncCancel p => Sys2Proof.Machine.execSyncCancel p s
  | .syncEffect => Sys2Proof.Machine.execSyncEffect s
  | .coefDataWrite p v => Sys2Proof.Machine.execCoefDataWrite p v s
  | .coefDataRead p => Sys2Proof.Machine.execCoefDataRead p s
  | .polyDataWrite p page v => Sys2Proof.Machine.execPolyDataWrite p page v s
  | .polyDataRead p page => Sys2Proof.Machine.execPolyDataRead p page s
  | .redMinRead p page c => Sys2Proof.Machine.execRedMinRead p page c s
  | .syncMessage m => Sys2Proof.Machine.execSyncMessage m s
  | .followUp domain seq origin corr => Sys2Proof.Machine.execFollowUp domain seq origin corr s
  | .delayReq domain d => Sys2Proof.Machine.execDelayReq domain d s
  | .delayResp domain seq rx corr => Sys2Proof.Machine.execDelayResp domain seq rx s corr
  | .pdelayReq port d => Sys2Proof.Machine.execPdelayReq port d s
  | .pdelayResp port seq corr rx twoStep => Sys2Proof.Machine.execPdelayResp port seq corr rx twoStep s
  | .pdelayRespFollowUp port seq corr => Sys2Proof.Machine.execPdelayRespFollowUp port seq corr s
  | .announce m => Sys2Proof.Machine.execAnnounce m s
  | .announceTimeout domain => Sys2Proof.Machine.execAnnounceTimeout domain s
  | .domainLost => Sys2Proof.Machine.execDomainLost s
  | .holdLimit => Sys2Proof.Machine.execHoldLimit s
  | .rootSyncSend domain => Sys2Proof.Machine.execRootSyncSend domain s
  | .rootAnnounceSend domain => Sys2Proof.Machine.execRootAnnounceSend domain s
  | .domSel p v => Sys2Proof.Machine.execDomSel p v s
  | .coarseRefresh => Sys2Proof.Machine.execCoarseRefresh s
  | .gridStartSend => Sys2Proof.Machine.execGridStartSend s
  | .gridStart m => Sys2Proof.Machine.execGridStart m s
  | .gridStartIndex => Sys2Proof.Machine.execGridStartIndex s
  | .linkUp l => Sys2Proof.Machine.execLinkUp l s
  | .linkDown l => Sys2Proof.Machine.execLinkDown l s
  | .rxWake l => Sys2Proof.Machine.execRxWake l s
  | .prbsInject p l => Sys2Proof.Machine.execPrbsInject p l s
  | .ringFrame port f => Sys2Proof.Machine.execRingFrame port f s
  | .l3Frame f => Sys2Proof.Machine.execL3Frame f s
  | .discoveryBeaconSend => Sys2Proof.Machine.execDiscoveryBeaconSend s
  | .discoveryBeacon port b => Sys2Proof.Machine.execDiscoveryBeacon port b s
  | .addressAssignmentSend => Sys2Proof.Machine.execAddressAssignmentSend s
  | .addressAssignment a => Sys2Proof.Machine.execAddressAssignment a s
  | .rootBeaconSend => Sys2Proof.Machine.execRootBeaconSend s
  | .rootBeacon port b => Sys2Proof.Machine.execRootBeacon port b s
  | .rootLost => Sys2Proof.Machine.execRootLost s
  | .rootAlone => Sys2Proof.Machine.execRootAlone s
  | .ringBreak port westHub eastHub multiple => Sys2Proof.Machine.execRingBreak port westHub eastHub multiple s
  | .admissionRequest r => Sys2Proof.Machine.execAdmissionRequest r s
  | .admissionRelease r => Sys2Proof.Machine.execAdmissionRelease r s
  | .admissionReply r => Sys2Proof.Machine.execAdmissionReply r s
  | .admissionRetry j => Sys2Proof.Machine.execAdmissionRetry j s
  | .enoroot j => Sys2Proof.Machine.execEnoroot j s
  | .ledgerReport r => Sys2Proof.Machine.execLedgerReport r s
  | .ledgerReportSend => Sys2Proof.Machine.execLedgerReportSend s
  | .ledgerRebuilt => Sys2Proof.Machine.execLedgerRebuilt s
  | .openStream p j => Sys2Proof.Machine.execOpenStream p j s
  | .closeStream p j => Sys2Proof.Machine.execCloseStream p j s
  | .clearStream p j => Sys2Proof.Machine.execClearStream p j s
  | .streamStart j => Sys2Proof.Machine.execStreamStart j s
  | .quireStored j errs => Sys2Proof.Machine.execQuireStored j errs s
  | .quireTransmit j errs => Sys2Proof.Machine.execQuireTransmit j s errs
  | .acknowledgement m => Sys2Proof.Machine.execAcknowledgement m s
  | .seqAcked p j a => Sys2Proof.Machine.execSeqAcked p j a s
  | .retxAfter j => Sys2Proof.Machine.execRetxAfter j s
  | .tHoldExpiry j => Sys2Proof.Machine.execTHoldExpiry j s
  | .cmdNop p seq args => Sys2Proof.Machine.execCmdNop p seq args s
  | .cmdTransfer p seq args => Sys2Proof.Machine.execCmdTransfer p seq args s
  | .cmdReamStore p seq args => Sys2Proof.Machine.execCmdReamStore p seq args s
  | .cmdCalStore p seq args => Sys2Proof.Machine.execCmdCalStore p seq args s
  | .cmdFuseWrite p seq args => Sys2Proof.Machine.execCmdFuseWrite p seq args s
  | .cmdZipJob p seq args => Sys2Proof.Machine.execCmdZipJob p seq args s
  | .cmdTableStage p seq args => Sys2Proof.Machine.execCmdTableStage p seq args s
  | .commandExecute => Sys2Proof.Machine.execCommandExecute s
  | .persistentStepDone ok => Sys2Proof.Machine.execPersistentStepDone ok s
  | .transferDone => Sys2Proof.Machine.execTransferDone s
  | .tableStageDone => Sys2Proof.Machine.execTableStageDone s
  | .zipJobDone lost => Sys2Proof.Machine.execZipJobDone s lost
  | .abortJob p => Sys2Proof.Machine.execAbortJob p s
  | .arm p r => Sys2Proof.Machine.execArm p r s
  | .armAt p r => Sys2Proof.Machine.execArmAt p r s
  | .armAtReached r => Sys2Proof.Machine.execArmAtReached r s
  | .disarm p r => Sys2Proof.Machine.execDisarm p r s
  | .reamClear p r => Sys2Proof.Machine.execReamClear p r s
  | .hostTrigger p r => Sys2Proof.Machine.execHostTrigger p r s
  | .triginEdge pin falling stamp ecc => Sys2Proof.Machine.execTriginEdge pin falling stamp s ecc
  | .ringTrigger t => Sys2Proof.Machine.execRingTrigger t s
  | .triggerDecision r => Sys2Proof.Machine.execTriggerDecision r s
  | .autoTrigger r => Sys2Proof.Machine.execAutoTrigger r s
  | .holdoffEnd r => Sys2Proof.Machine.execHoldoffEnd r s
  | .segmentDone r errs => Sys2Proof.Machine.execSegmentDone r s errs
  | .bu k => Sys2Proof.Machine.execBu k s
  | .stageStart k => Sys2Proof.Machine.execStageStart k s
  | .limit k => Sys2Proof.Machine.execLimit k s
  | .sramScrub k addr uncorrectable => Sys2Proof.Machine.execSramScrub k addr uncorrectable s
  | .nopInstruction k => Sys2Proof.Machine.execNopInstruction k s
  | .sli k d imm => Sys2Proof.Machine.execSli k d imm s
  | .slih k d imm => Sys2Proof.Machine.execSlih k d imm s
  | .sadd k d a b => Sys2Proof.Machine.execSadd k d a b s
  | .saddi k d a imm => Sys2Proof.Machine.execSaddi k d a imm s
  | .ssub k d a b => Sys2Proof.Machine.execSsub k d a b s
  | .sand k d a b => Sys2Proof.Machine.execSand k d a b s
  | .sor k d a b => Sys2Proof.Machine.execSor k d a b s
  | .sshl k d a imm => Sys2Proof.Machine.execSshl k d a imm s
  | .sshr k d a imm => Sys2Proof.Machine.execSshr k d a imm s
  | .smul k d a b => Sys2Proof.Machine.execSmul k d a b s
  | .sld k m => Sys2Proof.Machine.execSld k m s
  | .sst k m => Sys2Proof.Machine.execSst k m s
  | .sget k d sel => Sys2Proof.Machine.execSget k d sel s
  | .br k cond a target => Sys2Proof.Machine.execBr k cond a target s
  | .lmask k imm => Sys2Proof.Machine.execLmask k imm s
  | .signal k => Sys2Proof.Machine.execSignal k s
  | .vld k m => Sys2Proof.Machine.execVld k m s
  | .vldr k m => Sys2Proof.Machine.execVldr k m s
  | .vldi k m => Sys2Proof.Machine.execVldi k m s
  | .vldd k d a b st => Sys2Proof.Machine.execVldd k d a b st s
  | .vst k m => Sys2Proof.Machine.execVst k m s
  | .vste k m => Sys2Proof.Machine.execVste k m s
  | .vsplat k d a => Sys2Proof.Machine.execVsplat k d a s
  | .vadd k d a b => Sys2Proof.Machine.execVadd k d a b s
  | .vsub k d a b => Sys2Proof.Machine.execVsub k d a b s
  | .vmul k d a b => Sys2Proof.Machine.execVmul k d a b s
  | .vmac k d a b neg => Sys2Proof.Machine.execVmac k d a b neg s
  | .aclr k d e => Sys2Proof.Machine.execAclr k d e s
  | .vmova k d a => Sys2Proof.Machine.execVmova k d a s
  | .vclamp k d a b c => Sys2Proof.Machine.execVclamp k d a b c s
  | .vneg k d a => Sys2Proof.Machine.execVneg k d a s
  | .vabs k d a => Sys2Proof.Machine.execVabs k d a s
  | .vscl k d a e => Sys2Proof.Machine.execVscl k d a e s
  | .vmov k d a => Sys2Proof.Machine.execVmov k d a s
  | .vbc k d a j => Sys2Proof.Machine.execVbc k d a j s
  | .vcmp k a b cond => Sys2Proof.Machine.execVcmp k a b cond s
  | .vsel k d a b => Sys2Proof.Machine.execVsel k d a b s
  | .vtst k imm => Sys2Proof.Machine.execVtst k imm s
  | .norm k d => Sys2Proof.Machine.execNorm k d s
  | .vtab k d a b c interp => Sys2Proof.Machine.execVtab k d a b c interp s
  | .stop k => Sys2Proof.Machine.execStop k s
  | .illegal k => Sys2Proof.Machine.execIllegal k s
  | .runEngine p k => Sys2Proof.Machine.execRunEngine p k s
  | .haltEngine p k => Sys2Proof.Machine.execHaltEngine p k s
  | .clearFault p k => Sys2Proof.Machine.execClearFault p k s
  | .doorbell p k => Sys2Proof.Machine.execDoorbell p k s
  | .clearStagingList p k => Sys2Proof.Machine.execClearStagingList p k s
  | .slotEnable r => Sys2Proof.Machine.execSlotEnable r s
  | .slotRun r => Sys2Proof.Machine.execSlotRun r s
  | .slotDisable r => Sys2Proof.Machine.execSlotDisable r s
  | .holdTimeout r => Sys2Proof.Machine.execHoldTimeout r s
  | .motClearFault p r => Sys2Proof.Machine.execMotClearFault p r s
  | .cycleMark p r => Sys2Proof.Machine.execCycleMark p r s
  | .rcLost r => Sys2Proof.Machine.execRcLost r s
  | .encEdge ch e => Sys2Proof.Machine.execEncEdge ch e s
  | .intervalTimeout ch => Sys2Proof.Machine.execIntervalTimeout ch s
  | .ssiTransfer ch => Sys2Proof.Machine.execSsiTransfer ch s
  | .ssiTransferDone ch idleHigh bits => Sys2Proof.Machine.execSsiTransferDone ch idleHigh bits s
  | .interpolatorTable ch input hits => Sys2Proof.Machine.execInterpolatorTable ch input s hits
  | .armReference p ch => Sys2Proof.Machine.execArmReference p ch s
  | .loadPreset p ch => Sys2Proof.Machine.execLoadPreset p ch s
  | .clearCounters p ch => Sys2Proof.Machine.execClearCounters p ch s
  | .downlinkFrame p => Sys2Proof.Machine.execDownlinkFrame p s
  | .uplinkFrame p groups rtt => Sys2Proof.Machine.execUplinkFrame p groups s rtt
  | .commandResend p => Sys2Proof.Machine.execCommandResend p s
  | .sendCommand p port => Sys2Proof.Machine.execSendCommand p port s
  | .acceptIdentity p port => Sys2Proof.Machine.execAcceptIdentity p port s
  | .retrain p port => Sys2Proof.Machine.execRetrain p port s
  | .sendNow p x => Sys2Proof.Machine.execSendNow p x s
  | .sendToLatch p x => Sys2Proof.Machine.execSendToLatch p x s
  | .cancelSend p x => Sys2Proof.Machine.execCancelSend p x s
  | .frameStart x refresh => Sys2Proof.Machine.execFrameStart x refresh s
  | .frameDone x => Sys2Proof.Machine.execFrameDone x s
  | .lvlData p w => Sys2Proof.Machine.execLvlData p w s
  | .strobeArm p x => Sys2Proof.Machine.execStrobeArm p x s
  | .strobeDisarm p x => Sys2Proof.Machine.execStrobeDisarm p x s
  | .strobeFire x => Sys2Proof.Machine.execStrobeFire x s
  | .strobeEnd x => Sys2Proof.Machine.execStrobeEnd x s
  | .recalibrate p => Sys2Proof.Machine.execRecalibrate p s
  | .calPeriod => Sys2Proof.Machine.execCalPeriod s
  | .recalibrationDone quads => Sys2Proof.Machine.execRecalibrationDone quads s
  | .chal0Read p => Sys2Proof.Machine.execChal0Read p s
  | .challengeExpiry p => Sys2Proof.Machine.execChallengeExpiry p s
  | .authEnter p => Sys2Proof.Machine.execAuthEnter p s
  | .authLeave p => Sys2Proof.Machine.execAuthLeave p s
  | .svcTimeout p => Sys2Proof.Machine.execSvcTimeout p s
  | .lockoutEnd => Sys2Proof.Machine.execLockoutEnd s
  | .nsconfAsserted => Sys2Proof.Machine.execNsconfAsserted s
  | .nsconfRelease => Sys2Proof.Machine.execNsconfRelease s
  | .safeInput n level => Sys2Proof.Machine.execSafeInput n level s
  | .discrepancy k => Sys2Proof.Machine.execDiscrepancy k s
  | .testPulse k => Sys2Proof.Machine.execTestPulse k s
  | .testPulseEnd k => Sys2Proof.Machine.execTestPulseEnd k s
  | .pulseHoldEnd k => Sys2Proof.Machine.execPulseHoldEnd k s
  | .sfcCycle flowOk cfgOk => Sys2Proof.Machine.execSfcCycle flowOk cfgOk s
  | .sfcSelfTest ok => Sys2Proof.Machine.execSfcSelfTest ok s
  | .lifeSignalLost => Sys2Proof.Machine.execLifeSignalLost s
  | .switchTest x => Sys2Proof.Machine.execSwitchTest x s
  | .switchTestEnd x => Sys2Proof.Machine.execSwitchTestEnd x s
  | .readbackFault x high => Sys2Proof.Machine.execReadbackFault x high s
  | .ss1Expiry x => Sys2Proof.Machine.execSs1Expiry x s
  | .safeframeSend c => Sys2Proof.Machine.execSafeframeSend c s
  | .safeframe c m => Sys2Proof.Machine.execSafeframe c m s
  | .safeframeWatchdog c => Sys2Proof.Machine.execSafeframeWatchdog c s
  | .resetFaults p => Sys2Proof.Machine.execResetFaults p s
  | .resetConnection p c => Sys2Proof.Machine.execResetConnection p c s
  | .pairingRetry remote nonce answer => Sys2Proof.Machine.execPairingRetry remote nonce s answer
  | .paired => Sys2Proof.Machine.execPaired s
  | .heartbeatSend => Sys2Proof.Machine.execHeartbeatSend s
  | .heartbeat w => Sys2Proof.Machine.execHeartbeat w s
  | .partnerLost => Sys2Proof.Machine.execPartnerLost s
  | .arbselChange level => Sys2Proof.Machine.execArbselChange level s
  | .handoverFrame m => Sys2Proof.Machine.execHandoverFrame m s
  | .handoverRelease k => Sys2Proof.Machine.execHandoverRelease k s
  | .handoverTake k => Sys2Proof.Machine.execHandoverTake k s
  | .arbMismatch => Sys2Proof.Machine.execArbMismatch s
  | .mirrorFrameSend k => Sys2Proof.Machine.execMirrorFrameSend k s
  | .mirrorFrame m => Sys2Proof.Machine.execMirrorFrame m s
  | .snapshot m => Sys2Proof.Machine.execSnapshot m s
  | .requestRelease p => Sys2Proof.Machine.execRequestRelease p s
  | .cancelRelease p => Sys2Proof.Machine.execCancelRelease p s
  | .bistDone r => Sys2Proof.Machine.execBistDone r s
  | .reamImageLoaded slot0 slot1 => Sys2Proof.Machine.execReamImageLoaded s slot0 slot1
  | .linkWaitExpiry => Sys2Proof.Machine.execLinkWaitExpiry s
  | .dawnStall cause => Sys2Proof.Machine.execDawnStall cause s
  | .xlpLost => Sys2Proof.Machine.execXlpLost s
  | .xlpRestored => Sys2Proof.Machine.execXlpRestored s
  | .excitationFaultEnd k f => Sys2Proof.Machine.execExcitationFaultEnd k f s
  | .prbsCheckerLock l => Sys2Proof.Machine.execPrbsCheckerLock l s
  | .prbsBitError l => Sys2Proof.Machine.execPrbsBitError l s
  | .edgePositionRecord ch => Sys2Proof.Machine.execEdgePositionRecord ch s
  | .switchReadback x high level => Sys2Proof.Machine.execSwitchReadback x high level s
  | .releasedNetEdge gen ball => Sys2Proof.Machine.execReleasedNetEdge gen ball s
  | .stagingReplayDone k => Sys2Proof.Machine.execStagingReplayDone k s
  | .unknownOpcode p opcode seq => Sys2Proof.Machine.execUnknownOpcode p opcode seq s
  | .tapInstruction n => Sys2Proof.Machine.execTapInstruction n s

end Sys2Proof.Machine
end

