-- ==== Sys2Proof/Machine/Tick.lean ====
section
/-!
DEFINITION. What time alone does while no command waits: one tick of 100 ns. The table has no row for it (a design choice, in the
assumption log).
Marked choices: DESIGN CHOICE, log entry 2.
-/
namespace Sys2Proof.Machine

/-- The T domain runs (R95, R97, Table 3.4): powered, with XTIME and its PLL. -/
def timeRuns (s : State) : Bool := hubOn s && s.clk.xtime && timePllOk s

/-- Hub time at the next tick edge (R404). -/
def nextTick (ht : Nat) : Nat := (ht / tickLen + 1) * tickLen

/-- One tick: hub time and the age count go on, every COMMIT = 1 that waits applies on the edge (R149), the edge queues drain
(R661), the PRBS checkers count their bits (R424), sensor ports outside RUN record NODATA at their sample instants (R680), a hub in
Dawn goes on where it can (R847). -/
def tick (s : State) : State :=
  if timeRuns s then
    dawnAdvance (tickPrbs (tickPorts (tickEdges (tickCommits (onTime s (fun t => { t with ht := nextTick t.ht, now := t.now + 1 }))))))
  else s

end Sys2Proof.Machine
end

