-- ==== Sys2Proof/Machine/LiteLine.lean ====
section
/-!
DEFINITION. The line of a lighting chain (R686 to R692): the symbols of a frame and their times, and what a driver that meets the
spec does with them.
Marked choices: DEDUCED, log entry 81.
-/
namespace Sys2Proof.Machine

/-- A symbol on the line (R686). -/
inductive LineSym where
  | start
  | bit (b : Bool)
  | apply
deriving DecidableEq, Repr

/-- The time for which the line is low, and the time from its falling edge to that of the next symbol of the frame, in ns (R686). -/
def LineSym.lowNs : LineSym → Nat
  | .start => 3200
  | .bit b => if b then 1000 else 400
  | .apply => 24000
def LineSym.ns : LineSym → Nat
  | .start => 4000
  | .bit _ => 1600
  | .apply => 24000

/-- The sixteen bits of an output, most significant first (R691). -/
def outBits (v : Nat) : List Bool := (List.range 16).map (fun i => v.testBit (15 - i))

/-- A frame with the outputs of its drivers, driver 0 first, three per driver (R691, R692). -/
def frameSyms (outs : List Nat) : List LineSym := .start :: (outs.flatMap outBits).map .bit ++ [.apply]

def symsNs (l : List LineSym) : Nat := l.foldl (fun a x => a + x.ns) 0

/-- What a driver takes a low pulse for (R687). -/
inductive Pulse where
  | sym (x : LineSym)
  | down
  | error
deriving DecidableEq, Repr

/-- The class of a low pulse by its length in ns (R687). -/
def pulseOf (ns : Nat) : Pulse :=
  if 200 ≤ ns ∧ ns ≤ 700 then .sym (.bit false)
  else if 800 ≤ ns ∧ ns ≤ 1300 then .sym (.bit true)
  else if 2600 ≤ ns ∧ ns ≤ 4000 then .sym .start
  else if 16000 ≤ ns ∧ ns ≤ 40000 then .sym .apply
  else if 40000 < ns then .down
  else .error

/-- A driver (R688 to R690): the bits it has taken, whether it waits for a start mark, whether it has met a bit error, the 48 bits of
its outputs. -/
structure Driver where
  taken : List Bool := []
  waits : Bool := true
  broken : Bool := false
  outputs : List Bool := List.replicate 48 false
deriving DecidableEq, Repr

/-- The driver discards what it has taken, and waits for a start mark. -/
def Driver.drop (d : Driver) : Driver := { d with taken := [], waits := true, broken := false }

/-- One pulse at the input of a driver: the driver after it, and what it forwards. -/
def Driver.pulse (d : Driver) (p : Pulse) : Driver × Option Pulse :=
  match p with
  | .down => (d.drop, some .down)
  | .error => ({ d with taken := [], broken := true }, none)
  | .sym .start => if d.broken then (d, none) else ({ d with taken := [], waits := false }, some p)
  | .sym (.bit b) =>
    if d.waits ∨ d.broken then (d, none)
    else if d.taken.length < 48 then ({ d with taken := d.taken ++ [b] }, none)
    else (d, some p)
  | .sym .apply =>
    let d' : Driver := if d.taken.length = 48 then { d with outputs := d.taken } else d
    (d'.drop, some p)

/-- The pulses of a frame at the input of a driver: the driver after them, and the pulses at its output. -/
def Driver.run (d : Driver) : List Pulse → Driver × List Pulse
  | [] => (d, [])
  | p :: t =>
    let r := d.pulse p
    let q := Driver.run r.1 t
    (q.1, r.2.toList ++ q.2)

/-- A chain of drivers: each one has the output of the one before it at its input. -/
def chainRun : List Driver → List Pulse → List Driver
  | [], _ => []
  | d :: t, l => let r := d.run l; r.1 :: chainRun t r.2

/-- The pulses that the hub sends in a frame, as a driver hears them. -/
def framePulses (outs : List Nat) : List Pulse := (frameSyms outs).map (fun x => pulseOf x.lowNs)

end Sys2Proof.Machine
end

