-- ==== Sys2Proof/Machine/Wire.lean ====
section
/-!
DEFINITION. What stands on the wires: the command bytes of the SPI port (R163 to R165), and the bytes of the frames whose layout the
spec gives (R22, R23, R178, R346, R429, R430, R443, R476, R483, R528, R800).
Marked choices: DEDUCED, log entry 39; PRESUMED, log entry 79.
-/
namespace Sys2Proof.Machine

-- the SPI port

/-- A transaction of the host port as the host sends it (Table 4.6). -/
inductive SpiCall where
  | read (addr : Nat)
  | write (addr : Nat) (data : List Word) (cut : Bool)
  | readReq (addr len : Nat) (cut : Bool)
  | fetch
  | status
  | resetFirst
  | resetSecond
deriving DecidableEq, Repr

/-- The opcode byte of a transaction (Table 4.6). -/
def SpiCall.opcode : SpiCall → Byte
  | .read _ => 0x0b
  | .write _ _ _ => 0x02
  | .readReq _ _ _ => 0x3b
  | .fetch => 0x6b
  | .status => 0x05
  | .resetFirst => 0x66
  | .resetSecond => 0x99

/-- The command bytes in a profile: in 8-8-8 DTR the opcode and its complement (Tables 4.5 and 4.6). -/
def spiCommandBytes (wide : Bool) (op : Byte) : List Byte := if wide then [op, ~~~ op] else [op]

/-- The address bytes in a profile, most significant first (Table 4.5, R165). -/
def spiAddrBytes (wide : Bool) (a : Nat) : List Byte := netBytes (if wide then 4 else 3) a

/-- The bytes that the host sends in a transaction: command, address, data words in little-endian order (R165). A transaction that
is cut ends one byte into its last word (R167). -/
def spiBytes (wide : Bool) (x : SpiCall) : List Byte :=
  spiCommandBytes wide x.opcode ++ (match x with
    | .read a => spiAddrBytes wide a
    | .write a l cut => spiAddrBytes wide a ++ l.flatMap busBytes ++ (if cut then [0] else [])
    | .readReq a n cut => spiAddrBytes wide a ++ (if cut then [0] else busBytes (word n))
    | .fetch => [] | .status => [] | .resetFirst => [] | .resetSecond => [])

/-- A word from four bytes, least significant first. -/
def busWord (a b c d : Byte) : Word := d ++ c ++ b ++ a

/-- The whole words of a data phase, and whether bytes are left over (R167). -/
def busWords : List Byte → List Word × Bool
  | a :: b :: c :: d :: t => let r := busWords t; (busWord a b c d :: r.1, r.2)
  | [] => ([], false)
  | _ :: _ => ([], true)

/-- The transaction that the bytes after the command spell. -/
def spiRest (wide : Bool) (op : Byte) (l : List Byte) : Option SpiCall :=
  let n := if wide then 4 else 3
  let a := netNat (l.take n)
  let d := busWords (l.drop n)
  let addressed := decide (n ≤ l.length)
  if op = 0x0b ∧ addressed then some (.read a)
  else if op = 0x02 ∧ addressed then some (.write a d.1 d.2)
  else if op = 0x3b ∧ addressed then some (.readReq a (d.1.headD 0).toNat d.1.isEmpty)
  else if op = 0x6b then some .fetch
  else if op = 0x05 then some .status
  else if op = 0x66 then some .resetFirst
  else if op = 0x99 then some .resetSecond
  else none

/-- The transaction that bytes spell in a profile: none for a command that is not supported (R163). -/
def spiParse (wide : Bool) (l : List Byte) : Option SpiCall :=
  match wide, l with
  | false, op :: t => spiRest false op t
  | true, op :: c :: t => if c = ~~~ op then spiRest true op t else none
  | _, _ => none

/-- What the host adds to a transaction by its clock: the words it reads, whether it ends within a word, the period of HSCLK in ps; and
whether the first data word is ready in time (R167, R169). -/
structure SpiClock where
  count : Nat
  cut : Bool
  period : Nat
  ready : Bool
deriving DecidableEq, Repr

/-- The command of a transaction, with the transaction before it: RESET_PORT takes two in a row (Table 4.6). -/
def spiInstr (before : Option SpiCall) (x : SpiCall) (k : SpiClock) : Option Instr :=
  match x with
  | .read a => some (.spiRead a k.count k.cut k.period k.ready)
  | .write a l cut => some (.spiWrite a l cut)
  | .readReq a n cut => some (.spiReadReq a n cut)
  | .fetch => some (.spiFetch k.count k.cut)
  | .status => some .spiStatus
  | .resetFirst => none
  | .resetSecond => if before = some .resetFirst then some .resetPort else none

-- frames

abbrev Eth.ACCESS : Nat := 0x88b5
abbrev Eth.CONTROL : Nat := 0x88b6
abbrev Eth.HSR : Nat := 0x892f

/-- A byte of flags, bit 0 first. -/
def flagByte (l : List Bool) : List Byte := netBytes 1 (bitsWord l).toNat

/-- A frame of Ethertype 0x88B6: the common header of R441, then the payload. -/
def control (subtype : Nat) (payload : List Byte) : Option (Nat × List Byte) :=
  some (Eth.CONTROL, netBytes 1 1 ++ netBytes 1 subtype ++ netBytes 2 payload.length ++ payload)

def words4 (l : List Word) : List Byte := l.flatMap (fun w => netBytes 4 w.toNat)

/-- Table 11.2. -/
def ackBytes (m : AckMsg) : List Byte :=
  netBytes 1 m.hub ++ netBytes 1 m.stream ++ flagByte [m.nackValid] ++ netBytes 1 0 ++ words4 [m.a, m.nackMap]

/-- A request in the layout of Table 10.6. -/
def requestBytes (r : AdmRequest) : List Byte :=
  netBytes 2 r.request ++ netBytes 1 r.hub ++ netBytes 1 r.stream ++ flagByte [r.paired, r.release] ++ netBytes 1 r.partner ++
    netBytes 1 r.q ++ netBytes 1 0 ++ netBytes 8 r.rate

def ledgerBytes (r : LedgerReport) : List Byte :=
  netBytes 1 r.hub ++ netBytes 1 r.firstEntry ++ netBytes 1 r.entries.length ++ netBytes 1 r.total ++
    r.entries.flatMap (fun e => netBytes 1 e.stream ++ netBytes 1 e.q ++ flagByte [e.paired] ++ netBytes 1 e.partner ++ netBytes 8 e.rate)

def beaconBytes (b : Beacon) : List Byte :=
  netBytes 8 b.serial ++ flagByte [b.rooten, b.twinid, b.addressed, b.root, b.seqReset, b.l0Up, b.l1Up] ++
    netBytes 1 b.address ++ netBytes 1 b.hops ++ netBytes 1 (b.modeL0 + 4 * b.modeL1 + 16 * b.modeL3) ++
    netBytes 4 b.generation.toNat

/-- The safe data and the numbers of a SafeFrame: offsets 4 to 43 of Table 19.4. -/
def safeBody (m : SafeMsg) : List Byte :=
  netBytes 2 m.conn ++ netBytes 2 m.source ++ netBytes 2 m.dest ++ flagByte [m.failSafe, m.timeValid] ++ netBytes 1 0 ++
    netBytes 4 m.seq.toNat ++ netBytes 4 m.sec ++ netBytes 4 m.ns ++ m.data ++ netBytes 4 m.signature.toNat

/-- Table 19.4: offsets 4 to 43 and their CRC-32C. -/
def safeBytes (m : SafeMsg) : List Byte :=
  safeBody m ++ netBytes 4 (crc32c ((safeBody m).map (fun b => b.toNat)))

/-- Offsets 0 to 11 of Table 4.9. -/
def accessHead (version op hub session count seq address : Nat) : List Byte :=
  netBytes 1 version ++ netBytes 1 op ++ netBytes 2 hub ++ netBytes 1 session ++ netBytes 1 count ++ netBytes 2 seq ++
    netBytes 4 address

/-- A register-access frame (Table 4.9). -/
def accessBytes (f : AccessFrame) : List Byte :=
  accessHead f.version f.op f.hub f.session f.count f.seq.toNat f.address ++ (if f.op = 2 then words4 f.data else [])

/-- A response: offsets 0 to 11, status word, error word, data words (R178). -/
def responseBytes (r : AccessResp) : List Byte :=
  accessHead r.version r.op r.hub r.session r.count r.seq.toNat r.address ++ words4 (r.status :: r.error :: r.data)

/-- The Ethertype and the payload of a frame whose layout the spec gives: none for the PTP messages, whose layout is that of their
standard, and for the frames of the twin link (Tables 4.9, 8.5, 10.5, 10.6, 11.2, 12.5, 19.4). -/
def payloadOf : FrameBody → Option (Nat × List Byte)
  | .stream q => control 0x01 (words4 (quireWords q))
  | .ack m => control 0x02 (ackBytes m)
  | .beacon b => control 0x10 (beaconBytes b)
  | .assignment a => control 0x11 (netBytes 4 a.generation.toNat ++ netBytes 1 a.firstEntry ++ netBytes 1 a.entries.length ++
      netBytes 2 a.maxFrame ++ a.entries.flatMap (fun e => netBytes 8 e.1 ++ netBytes 1 e.2))
  | .admission r => control 0x12 (requestBytes r)
  | .admReply r => control 0x13 (netBytes 2 r.request ++ netBytes 1 r.hub ++ netBytes 1 r.stream ++ netBytes 1 r.result ++
      netBytes 3 0 ++ netBytes 8 r.cost ++ netBytes 8 (r.room % 2 ^ 64).toNat)
  | .gridStart g => control 0x14 (netBytes 8 g.index ++ netBytes 8 g.epoch ++ netBytes 1 (b2n g.tracked + 2 * g.servo) ++ netBytes 3 0)
  | .ledger r => control 0x15 (ledgerBytes r)
  | .rootBeacon b => control 0x17 (netBytes 4 b.generation.toNat ++ netBytes 8 b.serial ++ netBytes 1 b.hops ++
      flagByte [b.closed, b.rebuilding] ++ netBytes 1 b.hubs ++ netBytes 1 0)
  | .ringTrigger t => control 0x20 (netBytes 1 t.group ++ netBytes 1 t.cause ++ netBytes 1 t.hub ++ netBytes 1 t.ream ++
      netBytes 8 t.index ++ netBytes 4 t.segment ++ netBytes 4 0)
  | .safe m => control 0x40 (safeBytes m)
  | .access f => some (Eth.ACCESS, accessBytes f)
  | .response r => some (Eth.ACCESS, responseBytes r)
  | .sync _ => none | .followUp _ _ _ _ => none | .announce _ => none | .delayReq _ _ _ => none | .delayResp _ _ _ _ _ => none
  | .pdelayReq _ => none | .pdelayResp _ _ => none | .ptpUnsupported _ => none
  | .heartbeat _ => none | .mirror _ => none | .positions _ => none | .twinAck _ => none | .handover _ => none | .snapshot _ => none | .pairing _ _ => none
  | .unknownControl => none | .other => none

/-- Zeros up to 64 bytes from destination MAC to FCS (R443). -/
def padTo (n : Nat) (l : List Byte) : List Byte := l ++ List.replicate (n - l.length) 0

/-- The HSR tag (R429, R430): NetId 0 and the port, the size of what follows the tag's Ethertype, the sequence. -/
def hsrTag (l : Lane) (seq : Seq16) (payload : List Byte) : List Byte :=
  netBytes 2 Eth.HSR ++ netBytes 2 (2 ^ 12 * laneIdx l + (payload.length + 6) % 2 ^ 12) ++ netBytes 2 seq.toNat

/-- The bytes of a frame from destination MAC to the end of the payload. -/
def frameBody (f : TxFrame) (x : Nat × List Byte) : List Byte :=
  let tag := match f.seq with
    | some q => hsrTag f.lane q x.2
    | none => []
  padTo 60 (netBytes 6 f.dst.toNat ++ netBytes 6 f.src.toNat ++ tag ++ netBytes 2 x.1 ++ x.2)

/-- The bytes of a frame from destination MAC to FCS, which is inverted on a frame that proved bad (R436). -/
def frameWire (f : TxFrame) : Option (List Byte) :=
  (payloadOf f.body).map (fun x =>
    let b := frameBody f x
    let c := crcOf 0xedb88320 (b.map (fun x => x.toNat))
    b ++ busBytes (if f.good then word c else ~~~ word c))

-- frames as they arrive

/-- The field of `n` bytes at offset `k` of a payload. -/
def netField (b : List Byte) (k n : Nat) : Nat := netNat ((b.drop k).take n)

/-- The whole words of a part of a payload, most significant byte first. -/
def netWords : List Byte → List Word
  | a :: b :: c :: d :: t => word (netNat [a, b, c, d]) :: netWords t
  | _ => []

/-- The register-access frame that a payload spells (Table 4.9): none below the twelve bytes of its fields. -/
def accessOf (mac : Mac) (b : List Byte) : Option AccessFrame :=
  if b.length < 12 then none
  else
    let op := netField b 1 1
    let count := netField b 5 1
    some { mac := mac, version := netField b 0 1, op := op, hub := netField b 2 2, session := netField b 4 1, count := count
           seq := BitVec.ofNat 16 (netField b 6 2), address := netField b 8 4
           data := if op = 2 then (netWords (b.drop 12)).take count else [] }

end Sys2Proof.Machine
end

