-- ==== Sys2Proof/Safety.lean ====
section
/-!
DEFINITION. What counts as a safe run: no step ends in a fault or a refusal, the sparse lists of the state keep their one
canonical form, the journals keep their bounds, and what is written once stays written.
-/
namespace Sys2Proof.Machine

/-- The outcome is a next state. -/
def goesOn (o : Host.Outcome State Fault Refusal) : Bool :=
  match o with
  | .next _ => true
  | .fault _ => false
  | .refused _ => false

/-- The register file holds its canonical form: addresses strictly rising, no entry equal to the reset value. -/
def regsWf (s : State) : Bool := sparseWf resetOf s.regs

/-- The Vat and the register file hold their canonical forms. -/
def memoryWf (s : State) : Bool := Memory.wf s.vat && regsWf s

/-- The command journal holds at most 256 entries (R499). -/
def journalWithin (s : State) : Bool := decide (s.cmd.journal.length ≤ 256)

/-- The change journal holds at most 1,024 entries (R770). -/
def changesWithin (s : State) : Bool := decide (s.changes.entries.length ≤ 1024)

/-- Write slot `i` of fuse field `f` is not blank (R755). -/
def fuseUsed (s : State) (f i : Nat) : Bool := decide (((s.fuses.getD f [])[i]?).getD .blank ≠ .blank)

/-- A host write by path `p` to the register at `a` passes the gate: host access is ready, neither level, lock nor a hub held in
Dawn refuses it (R159, R762, R854), and the journal entry that its level asks for can be stored (R769). -/
def passes (s : State) (p : Path) (a : Nat) : Prop :=
  hostReady s = true ∧ gateRej s (some p) a = none ∧ entryFails s (some p) a = false

/-- The lengths of the lists that hold a fixed number of like things. -/
def sizes (s : State) : List Nat :=
  [s.gc.length, s.gen.length, s.host.paths.length, s.host.sessions.length, s.inputs.length, s.exc.length,
    s.cores.length, s.bands.length, s.aout.length, s.chains.length, s.time.doms.length, s.time.ports.length,
    s.lanes.length, s.streams.length, s.reams.length, s.slots.length, s.engines.length, s.edges.length,
    s.sports.length, s.lites.length, s.strobes.length, s.fuses.length, s.safe.si.length, s.safe.held.length,
    s.safe.sawLow.length, s.safe.tp.length, s.safe.pairs.length, s.safe.outs.length, s.safe.mons.length,
    s.safe.conns.length]

/-- The hub has 144 GC and 12 GEN balls, nine access paths and eight sessions, 128 inputs, 16 drivers, 32 cores, 96 band inputs,
8 outputs, 320 chains, two PTP domains, four ports and lanes, 64 streams, 16 reams, 48 slots, 12 engines, 64 edge channels,
8 sensor ports, 8 lighting chains, 8 strobes, four fuse fields, and the safety channels of spec/19. -/
def shaped (s : State) : Bool :=
  sizes s == [144, 12, 9, 8, 128, 16, 32, 96, 8, 320, 2, 4, 4, 64, 16, 48, 12, 64, 8, 8, 8, 4, 16, 16, 16, 4, 8, 4, 8, 32]

/-- The forms that every step keeps: the canonical memories, the sizes of the lists and the bounds of the journals. -/
def inForm (s : State) : Bool := memoryWf s && shaped s && journalWithin s && changesWithin s

/-- The parts of the state, one for each field of State. -/
inductive Part where
  | pending | regs | shadow | pages | pwr | clk | pins | tap | gc | gen | host | inputs | exc | cores | bands | hkc
  | queueEcc | aout | inCoefs | chains | flt | time | lanes | ring | adm | addrTable | sent | streams | strmSel |
  vat | cmd | reams | captSel | gaps | twin | slots | engines | edges | sports | lites | levels | strobes | cal | nv
  | fuses | changes | safe | badBands | serial | partSB | freeCtr
deriving DecidableEq, Repr

/-- A part is the same in `t` as in `s`. -/
def Part.same (p : Part) (s t : State) : Prop :=
  match p with
  | .pending => t.pending = s.pending
  | .regs => t.regs = s.regs
  | .shadow => t.shadow = s.shadow
  | .pages => t.pages = s.pages
  | .pwr => t.pwr = s.pwr
  | .clk => t.clk = s.clk
  | .pins => t.pins = s.pins
  | .tap => t.tap = s.tap
  | .gc => t.gc = s.gc
  | .gen => t.gen = s.gen
  | .host => t.host = s.host
  | .inputs => t.inputs = s.inputs
  | .exc => t.exc = s.exc
  | .cores => t.cores = s.cores
  | .bands => t.bands = s.bands
  | .hkc => t.hkc = s.hkc
  | .queueEcc => t.queueEcc = s.queueEcc
  | .aout => t.aout = s.aout
  | .inCoefs => t.inCoefs = s.inCoefs
  | .chains => t.chains = s.chains
  | .flt => t.flt = s.flt
  | .time => t.time = s.time
  | .lanes => t.lanes = s.lanes
  | .ring => t.ring = s.ring
  | .adm => t.adm = s.adm
  | .addrTable => t.addrTable = s.addrTable
  | .sent => t.sent = s.sent
  | .streams => t.streams = s.streams
  | .strmSel => t.strmSel = s.strmSel
  | .vat => t.vat = s.vat
  | .cmd => t.cmd = s.cmd
  | .reams => t.reams = s.reams
  | .captSel => t.captSel = s.captSel
  | .gaps => t.gaps = s.gaps
  | .twin => t.twin = s.twin
  | .slots => t.slots = s.slots
  | .engines => t.engines = s.engines
  | .edges => t.edges = s.edges
  | .sports => t.sports = s.sports
  | .lites => t.lites = s.lites
  | .levels => t.levels = s.levels
  | .strobes => t.strobes = s.strobes
  | .cal => t.cal = s.cal
  | .nv => t.nv = s.nv
  | .fuses => t.fuses = s.fuses
  | .changes => t.changes = s.changes
  | .safe => t.safe = s.safe
  | .badBands => t.badBands = s.badBands
  | .serial => t.serial = s.serial
  | .partSB => t.partSB = s.partSB
  | .freeCtr => t.freeCtr = s.freeCtr

/-- `t` is `s` but for the parts in the list: every other register, memory, queue, counter and mode is unchanged. -/
def SameBut (l : List Part) (s t : State) : Prop := ∀ p, p ∉ l → p.same s t

/-- Every register of `t` reads as in `s`, but for those at the listed addresses. -/
def RegsBut (l : List Nat) (s t : State) : Prop := ∀ a, a ∉ l → rd t a = rd s a

-- footprints

/-- The parts of the state that a command can touch. -/
def footprint (c : Instr) : List Part :=
  match c with
  | .vbkApplied | .analogRailHoldEnd _ | .pwrenTimeout | .pwrenRetry | .nwake | .wakeAt | .nrstreqFall
  | .nrstreqHighSample | .coarseRefresh =>
    [.pwr]
  | .railLost _ | .duskEnd =>
    [.regs, .shadow, .pages, .pwr, .tap, .gc, .gen, .host, .inputs, .exc, .cores, .bands, .hkc, .queueEcc,
     .aout, .inCoefs, .chains, .flt, .time, .lanes, .ring, .adm, .addrTable, .streams, .strmSel, .vat, .cmd,
     .reams, .captSel, .gaps, .twin, .slots, .engines, .edges, .sports, .lites, .levels, .strobes, .cal, .fuses,
     .safe, .badBands, .freeCtr]
  | .vdd12lRestored | .rstreqFailed | .rstreqRecovered =>
    [.regs, .pwr]
  | .powerGood =>
    [.regs, .pwr, .pins, .time, .freeCtr]
  | .clockLost _ =>
    [.regs, .pwr, .clk, .time, .freeCtr]
  | .clockRestored _ | .refclkRestored _ | .xlpRestored =>
    [.clk]
  | .refclkLost _ =>
    [.regs, .clk, .time, .lanes, .streams, .twin]
  | .nporLow =>
    [.regs, .shadow, .pages, .pwr, .pins, .tap, .gc, .gen, .host, .inputs, .exc, .cores, .bands, .hkc,
     .queueEcc, .aout, .inCoefs, .chains, .flt, .time, .lanes, .ring, .adm, .addrTable, .streams, .strmSel,
     .vat, .cmd, .reams, .captSel, .gaps, .twin, .slots, .engines, .edges, .sports, .lites, .levels, .strobes,
     .cal, .fuses, .safe, .badBands, .freeCtr]
  | .nporRelease =>
    [.pwr, .pins]
  | .nrstreqDebounced | .lockstepMismatch | .watchdog | .queueFull _ =>
    [.regs, .pwr, .time, .freeCtr]
  | .warmReset =>
    [.regs, .shadow, .pages, .pwr, .gc, .gen, .host, .inputs, .hkc, .queueEcc, .aout, .chains, .flt, .time,
     .lanes, .ring, .adm, .streams, .vat, .cmd, .reams, .twin, .slots, .engines, .edges, .sports, .lites,
     .strobes, .fuses, .safe, .freeCtr]
  | .hubReady =>
    [.pwr, .time, .streams]
  | .samplingResumed | .gridStartIndex =>
    [.regs, .pwr, .gc, .gen, .inputs, .exc, .chains, .time, .streams, .gaps, .twin]
  | .rstCtrl _ _ =>
    [.regs, .pages, .pwr, .host, .time, .changes, .freeCtr]
  | .targetMidnight _ | .targetRemoval _ | .targetTwilight _ =>
    [.regs, .pages, .pwr, .host, .ring, .adm, .sent, .streams, .reams, .twin, .changes]
  | .duskLimit =>
    [.regs, .shadow, .pages, .pwr, .tap, .gc, .gen, .host, .inputs, .exc, .cores, .bands, .hkc, .queueEcc,
     .aout, .inCoefs, .chains, .flt, .time, .lanes, .ring, .adm, .addrTable, .sent, .streams, .strmSel, .vat,
     .cmd, .reams, .captSel, .gaps, .twin, .slots, .engines, .edges, .sports, .lites, .levels, .strobes, .cal,
     .nv, .fuses, .changes, .safe, .badBands, .freeCtr]
  | .faultSrcClear _ _ | .resetPort | .recalibrate _ =>
    [.regs, .pages, .host]
  | .keeperRelease _ _ | .releasedNetEdge _ _ =>
    [.gc, .gen]
  | .commitApplyNow _ _ | .commitApplyAt _ _ | .commitCancel _ _ | .pageEnable _ _ _ | .blockReset _ _
  | .freeze _ _ _ | .errcodeClear _ _ _ | .registerWrite _ _ _ | .spiWrite _ _ _ | .ringRead _ | .ringWrite _
  | .coefDataWrite _ _ | .polyDataWrite _ _ _ =>
    [.regs, .shadow, .pages, .pwr, .gc, .gen, .host, .inputs, .exc, .cores, .bands, .hkc, .queueEcc, .aout,
     .chains, .flt, .time, .lanes, .ring, .adm, .addrTable, .sent, .streams, .strmSel, .vat, .cmd, .reams,
     .captSel, .twin, .slots, .engines, .edges, .sports, .lites, .levels, .strobes, .cal, .changes, .safe,
     .freeCtr]
  | .scheduledCommit _ =>
    [.regs, .shadow, .pages, .gc, .gen, .host, .inputs, .exc, .cores, .bands, .aout, .chains, .flt, .slots,
     .edges, .sports, .lites, .safe]
  | .loRead _ _ | .coefDataRead _ | .polyDataRead _ _ | .redMinRead _ _ _ =>
    [.regs, .host, .freeCtr]
  | .spiRead _ _ _ _ _ | .spiReadReq _ _ _ | .spiFetch _ _ =>
    [.regs, .pages, .host, .freeCtr]
  | .spiStatus | .dataRead _ =>
    [.regs, .host]
  | .busyEnd | .attentionPulse | .attentionPulseEnd | .attentionRepeat | .challengeExpiry _ =>
    [.host]
  | .sessionTimeout _ | .svcTimeout _ =>
    [.regs, .host, .changes]
  | .queueClear _ _ =>
    [.regs, .pages, .host, .queueEcc]
  | .rawRecord _ _ =>
    [.regs, .gc, .gen, .inputs, .exc, .queueEcc, .chains, .slots, .freeCtr]
  | .rangeStep _ | .burnOutTest _ _ | .swapPhase _ =>
    [.inputs]
  | .breakEnd _ =>
    [.regs, .inputs]
  | .excSettleEnd _ | .excitationFaultEnd _ _ =>
    [.exc]
  | .excitationFault _ _ =>
    [.regs, .exc]
  | .rotationStep _ | .sliceCalibrationDone _ _ =>
    [.regs, .cores]
  | .bandEdgeLoad _ _ =>
    [.regs, .gc, .bands, .queueEcc, .slots, .freeCtr]
  | .comparatorCrossing _ _ _ =>
    [.gc, .bands, .slots]
  | .minHoldEnd _ _ =>
    [.gc, .slots]
  | .hkcStart _ _ =>
    [.regs, .pages, .host, .hkc]
  | .hkcResult _ _ =>
    [.regs, .hkc]
  | .hkcSupervision _ _ _ =>
    [.regs, .hkc, .time, .cal]
  | .filteredRecord _ =>
    [.regs, .aout, .chains, .ring, .sent, .streams, .vat, .reams, .engines, .lites, .strobes]
  | .syncEdge _ _ _ =>
    [.regs, .queueEcc, .flt, .freeCtr]
  | .syncSchedule _ | .syncCancel _ =>
    [.regs, .pages, .host, .flt]
  | .syncEffect =>
    [.regs, .chains, .flt]
  | .syncMessage _ =>
    [.regs, .pwr, .gc, .gen, .chains, .time, .streams, .gaps, .twin]
  | .followUp _ _ _ _ =>
    [.regs, .chains, .time, .streams, .gaps]
  | .delayReq _ _ | .pdelayReq _ _ =>
    [.regs, .time, .sent]
  | .delayResp _ _ _ _ | .pdelayResp _ _ _ _ _ | .pdelayRespFollowUp _ _ _ | .announce _ | .announceTimeout _
  | .domainLost | .holdLimit | .gridStart _ =>
    [.regs, .time]
  | .rootSyncSend _ | .rootAnnounceSend _ | .gridStartSend =>
    [.regs, .time, .ring, .sent]
  | .domSel _ _ =>
    [.regs, .pages, .host, .time]
  | .linkUp _ =>
    [.regs, .pwr, .gc, .gen, .lanes, .twin]
  | .linkDown _ =>
    [.regs, .pwr, .gc, .gen, .time, .lanes, .streams, .twin]
  | .rxWake _ =>
    [.regs, .lanes]
  | .prbsInject _ _ =>
    [.regs, .pages, .host, .lanes]
  | .ringFrame _ _ | .l3Frame _ =>
    [.regs, .shadow, .pages, .pwr, .gc, .gen, .host, .inputs, .exc, .cores, .bands, .hkc, .queueEcc, .aout,
     .chains, .flt, .time, .lanes, .ring, .adm, .addrTable, .sent, .streams, .strmSel, .vat, .cmd, .reams,
     .captSel, .gaps, .twin, .slots, .engines, .edges, .sports, .lites, .levels, .strobes, .cal, .changes,
     .safe, .freeCtr]
  | .discoveryBeaconSend | .rootBeaconSend | .ledgerReportSend =>
    [.regs, .ring, .sent]
  | .discoveryBeacon _ _ =>
    [.regs, .ring]
  | .addressAssignmentSend | .rootAlone =>
    [.regs, .pwr, .gc, .gen, .time, .ring, .adm, .sent, .twin]
  | .addressAssignment _ =>
    [.regs, .pwr, .gc, .gen, .ring, .adm, .twin]
  | .rootBeacon _ _ =>
    [.regs, .ring, .adm, .streams]
  | .rootLost =>
    [.regs, .time, .ring, .adm]
  | .ringBreak _ _ _ _ =>
    [.regs, .ring, .adm]
  | .admissionRequest _ | .admissionRetry _ | .ledgerRebuilt =>
    [.regs, .ring, .adm, .sent, .streams]
  | .admissionRelease _ | .ledgerReport _ =>
    [.adm]
  | .admissionReply _ | .enoroot _ =>
    [.regs, .adm, .streams]
  | .openStream _ _ | .closeStream _ _ =>
    [.regs, .pages, .host, .ring, .adm, .sent, .streams]
  | .clearStream _ _ =>
    [.regs, .pages, .host, .streams]
  | .streamStart _ =>
    [.regs, .streams]
  | .quireStored _ _ =>
    [.regs, .queueEcc, .streams]
  | .quireTransmit _ _ =>
    [.regs, .queueEcc, .ring, .adm, .sent, .streams]
  | .acknowledgement _ =>
    [.regs, .sent, .streams]
  | .seqAcked _ _ _ =>
    [.regs, .pages, .host, .sent, .streams]
  | .retxAfter _ =>
    [.streams]
  | .tHoldExpiry _ =>
    [.regs, .ring, .adm, .sent, .streams, .reams]
  | .cmdNop _ _ _ | .cmdTransfer _ _ _ | .cmdReamStore _ _ _ | .cmdCalStore _ _ _ | .cmdFuseWrite _ _ _
  | .cmdZipJob _ _ _ | .cmdTableStage _ _ _ | .unknownOpcode _ _ _ =>
    [.regs, .pages, .host, .cmd]
  | .commandExecute =>
    [.regs, .cmd, .nv, .changes]
  | .persistentStepDone _ =>
    [.regs, .cmd, .nv, .fuses, .changes]
  | .transferDone =>
    [.regs, .vat, .cmd, .changes]
  | .tableStageDone =>
    [.regs, .cmd, .engines, .changes]
  | .zipJobDone _ =>
    [.regs, .streams, .vat, .cmd, .changes, .freeCtr]
  | .abortJob _ =>
    [.regs, .pages, .host, .streams, .vat, .cmd, .changes, .freeCtr]
  | .arm _ _ | .armAt _ _ | .reamClear _ _ =>
    [.regs, .pages, .host, .reams]
  | .armAtReached _ | .holdoffEnd _ =>
    [.regs, .reams]
  | .disarm _ _ =>
    [.regs, .pages, .host, .streams, .reams]
  | .hostTrigger _ _ =>
    [.regs, .pages, .host, .ring, .sent, .streams, .vat, .reams, .strobes]
  | .triginEdge _ _ _ _ =>
    [.regs, .pins, .queueEcc, .ring, .sent, .streams, .vat, .reams, .slots, .strobes, .freeCtr]
  | .ringTrigger _ | .triggerDecision _ | .autoTrigger _ =>
    [.regs, .streams, .vat, .reams, .strobes]
  | .segmentDone _ _ =>
    [.regs, .vat, .reams]
  | .bu _ =>
    [.regs, .gc, .gen, .bands, .slots, .engines, .edges]
  | .stageStart _ =>
    [.regs, .gc, .gen, .bands, .slots, .engines, .freeCtr]
  | .limit _ | .sramScrub _ _ _ | .stop _ =>
    [.regs, .gc, .gen, .slots, .engines]
  | .nopInstruction _ | .sli _ _ _ | .slih _ _ _ | .sadd _ _ _ _ | .saddi _ _ _ _ | .ssub _ _ _ _
  | .sand _ _ _ _ | .sor _ _ _ _ | .sshl _ _ _ _ | .sshr _ _ _ _ | .smul _ _ _ _ | .sld _ _ | .sst _ _
  | .sget _ _ _ | .br _ _ _ _ | .lmask _ _ | .signal _ | .vld _ _ | .vldr _ _ | .vldi _ _ | .vldd _ _ _ _ _
  | .vst _ _ | .vste _ _ | .vsplat _ _ _ | .vadd _ _ _ _ | .vsub _ _ _ _ | .vmul _ _ _ _ | .vmac _ _ _ _ _
  | .aclr _ _ _ | .vmova _ _ _ | .vclamp _ _ _ _ _ | .vneg _ _ _ | .vabs _ _ _ | .vscl _ _ _ _ | .vmov _ _ _
  | .vbc _ _ _ _ | .vcmp _ _ _ _ | .vsel _ _ _ _ | .vtst _ _ | .norm _ _ | .vtab _ _ _ _ _ _ | .illegal _ =>
    [.regs, .gc, .gen, .bands, .slots, .engines]
  | .runEngine _ _ | .haltEngine _ _ | .clearFault _ _ | .doorbell _ _ | .clearStagingList _ _ =>
    [.regs, .pages, .host, .engines]
  | .slotEnable _ | .slotDisable _ | .holdTimeout _ =>
    [.gc, .gen, .slots]
  | .slotRun _ =>
    [.regs, .gc, .slots]
  | .motClearFault _ _ =>
    [.regs, .pages, .gen, .host, .slots]
  | .cycleMark _ _ =>
    [.regs, .pages, .host, .slots]
  | .rcLost _ =>
    [.regs, .slots]
  | .encEdge _ _ | .intervalTimeout _ | .ssiTransferDone _ _ _ | .interpolatorTable _ _ _ =>
    [.regs, .edges]
  | .ssiTransfer _ =>
    [.gc, .edges]
  | .armReference _ _ | .loadPreset _ _ | .clearCounters _ _ =>
    [.regs, .pages, .host, .edges]
  | .downlinkFrame _ | .commandResend _ =>
    [.regs, .sports]
  | .uplinkFrame _ _ _ =>
    [.regs, .chains, .sports, .freeCtr]
  | .sendCommand _ _ | .retrain _ _ =>
    [.regs, .pages, .host, .sports]
  | .acceptIdentity _ _ =>
    [.regs, .pages, .host, .sports, .freeCtr]
  | .sendNow _ _ | .sendToLatch _ _ | .cancelSend _ _ =>
    [.regs, .pages, .host, .lites]
  | .frameStart _ _ =>
    [.lites]
  | .frameDone _ =>
    [.regs, .lites]
  | .lvlData _ _ =>
    [.regs, .pages, .host, .levels]
  | .strobeArm _ _ | .strobeDisarm _ _ =>
    [.regs, .pages, .host, .strobes]
  | .strobeFire _ =>
    [.regs, .strobes]
  | .strobeEnd _ =>
    [.strobes]
  | .calPeriod | .lockoutEnd | .arbMismatch | .dawnStall _ | .prbsBitError _ =>
    [.regs]
  | .recalibrationDone _ =>
    [.regs, .inCoefs, .cal, .freeCtr]
  | .chal0Read _ =>
    [.host, .freeCtr]
  | .authEnter _ | .authLeave _ =>
    [.regs, .pages, .host, .changes]
  | .nsconfAsserted | .nsconfRelease =>
    [.pins]
  | .safeInput _ _ | .discrepancy _ | .testPulseEnd _ | .pulseHoldEnd _ | .sfcCycle _ _ | .sfcSelfTest _
  | .lifeSignalLost | .switchTestEnd _ | .readbackFault _ _ | .ss1Expiry _ | .safeframe _ _
  | .safeframeWatchdog _ =>
    [.regs, .safe]
  | .testPulse _ | .switchTest _ | .switchReadback _ _ _ =>
    [.safe]
  | .safeframeSend _ =>
    [.regs, .ring, .sent, .safe]
  | .resetFaults _ | .resetConnection _ _ =>
    [.regs, .pages, .host, .changes, .safe]
  | .pairingRetry _ _ _ =>
    [.regs, .pages, .host, .sent, .twin, .freeCtr]
  | .paired =>
    [.regs, .pwr, .gc, .gen, .sent, .twin]
  | .heartbeatSend =>
    [.regs, .ring, .sent, .twin]
  | .heartbeat _ | .linkWaitExpiry =>
    [.regs, .pwr, .gc, .gen, .twin]
  | .partnerLost =>
    [.regs, .pwr, .gc, .gen, .streams, .twin]
  | .arbselChange _ =>
    [.regs, .pwr, .pins, .gc, .gen, .sent, .twin]
  | .handoverFrame _ =>
    [.twin]
  | .handoverRelease _ =>
    [.regs, .pwr, .gc, .gen, .inputs, .exc, .sent, .twin]
  | .handoverTake _ =>
    [.regs, .pwr, .gc, .gen, .inputs, .exc, .sent, .twin, .slots]
  | .mirrorFrameSend _ =>
    [.regs, .sent]
  | .mirrorFrame _ =>
    [.twin, .engines]
  | .snapshot _ =>
    [.regs, .streams, .twin, .engines]
  | .requestRelease _ | .cancelRelease _ =>
    [.regs, .pages, .host, .twin]
  | .bistDone _ =>
    [.regs, .pwr, .cores, .inCoefs, .edges, .cal, .nv, .badBands, .freeCtr]
  | .reamImageLoaded _ _ =>
    [.regs, .shadow, .pages, .pwr, .gc, .gen, .host, .inputs, .exc, .cores, .bands, .hkc, .queueEcc, .aout,
     .chains, .flt, .time, .lanes, .ring, .adm, .addrTable, .sent, .streams, .strmSel, .vat, .cmd, .reams,
     .captSel, .twin, .slots, .engines, .edges, .sports, .lites, .levels, .strobes, .cal, .nv, .changes, .safe,
     .freeCtr]
  | .xlpLost =>
    [.regs, .pwr, .clk]
  | .prbsCheckerLock _ =>
    [.lanes]
  | .edgePositionRecord _ =>
    [.regs, .streams, .edges]
  | .stagingReplayDone _ =>
    [.engines]
  | .tapInstruction _ =>
    [.tap]

-- axis engines

/-- The stage `c` of engine `k` runs and issues an instruction that reads `reads` below LIMIT (R574, R582): its program word is
good. -/
def canIssue (s : State) (k : Nat) (reads : List Res) (c : EngCtx) : Prop :=
  (engOf s k).stage = some c ∧ c.free < rdf s (AE.LIMIT k) 0 16 ∧ issueCycle c reads < rdf s (AE.LIMIT k) 0 16 ∧
    (c.pc < 0x4000 → 4 * c.pc ∉ (engOf s k).bad)

/-- The stage goes on with context `c'` after an instruction that occupied `busy` cycles: nothing but the stage of engine `k`
changes, and of the stage, beside what `c'` says, the program counter, the next free cycle and the scoreboard. -/
def GoesOnWith (s : State) (k : Nat) (i : Instr) (reads : List Res) (busy : Nat) (c c' : EngCtx) : Prop :=
  ∃ u l, exec i s = .next u ∧ SameBut [.engines] s u ∧ (∀ o, o ≠ k → engOf u o = engOf s o) ∧
    engOf u k = { engOf s k with stage := some { c' with
      pc := (c.pc + 1) % 2 ^ 15, free := issueCycle c reads + busy, ready := l } }

/-- The instruction issues and leaves the context `f c`. -/
def Issues (s : State) (k : Nat) (i : Instr) (reads : List Res) (busy : Nat) (f : EngCtx → EngCtx) : Prop :=
  ∀ c, canIssue s k reads c → GoesOnWith s k i reads busy c (f c)

end Sys2Proof.Machine
end

