-- ==== Sys2Proof/Certificates/Slice0/Obligations.lean ====
section
/-!
DEFINITION. The statements for the provers. Each says what commands do to the state of one hub by the rules that its docstring
names; a log entry named there is a choice of the model that the statement rests on.
-/

open Sys2Proof Sys2Proof.Machine

/-- Analog-input events (R198, R229, R225, R222): a decided range step applies at its index and marks two records; a break
ends after 16 intact samples and returns an autoranged input to its coarse range; the burn-out test's answer is kept for the
next sample; the swap phase of the newest sample ends. Only the input concerned changes, and for BREAK_END its EVT flag. The
model's choices in it: log entries 1 and 43. -/
def Obligations.AnalogInputEvents : Prop :=
  ∀ s : State, shaped s = true → memoryWf s = true →
    (∀ (ch : Fin 128) (t n : Nat), (inputOf s ch).step = some (t, n) → n ≤ now s →
      ∃ u, exec (.rangeStep ch) s = .next u ∧ SameBut [.inputs] s u ∧ (∀ o, o ≠ ch.val → inputOf u o = inputOf s o) ∧
        inputOf u ch = { inputOf s ch with
          range := t, step := none, below := 0, setlStep := 2, steps := (inputOf s ch).steps + 1 }) ∧
    (∀ ch : Fin 128, (inputOf s ch).brk = true → 16 ≤ (inputOf s ch).intact →
      ∃ u, exec (.breakEnd ch) s = .next u ∧ SameBut [.inputs, .regs] s u ∧
        RegsBut [hdr (pgFQ (ch.val / 4)) Hdr.EVT] s u ∧
        rd u (hdr (pgFQ (ch.val / 4)) Hdr.EVT) = rd s (hdr (pgFQ (ch.val / 4)) Hdr.EVT) ||| bitW (4 + ch.val % 4) true ∧
        (inputOf u ch).brk = false ∧ (inputOf u ch).pairs = 0 ∧
        (inputOf u ch).range = if fixedRange (inCfg s ch) then (inputOf s ch).range else rangeCoarse (inCfg s ch)) ∧
    (∀ (ch : Fin 128) (moved : Bool), burnOutNow s ch = true →
      ∃ u, exec (.burnOutTest ch moved) s = .next u ∧ SameBut [.inputs] s u ∧
        inputOf u ch = { inputOf s ch with burn := moved }) ∧
    (∀ ch : Fin 128, sampling s = true → swapping (inCfg s ch) = true → (inputOf s ch).phase ≠ 0 →
      (inputOf s ch).phase ≠ phaseNum s (ch.val / 4) (now s) + 1 →
      ∃ u, exec (.swapPhase ch) s = .next u ∧ SameBut [.inputs] s u ∧
        (inputOf u ch).phase = phaseNum s (ch.val / 4) (now s) + 1 ∧ (inputOf u ch).sum = 0 ∧ (inputOf u ch).cnt = 0)

/-- Excitation events (R85, R212, R215, R216): the settling window closes at its index; a current-limit or compliance fault is
taken where the driver drives its balls (a standby and a hub in reset apply no current), a sense fault only with the driver on
and no settling window open, and each counts for nothing otherwise; the end of a fault clears it. The model's choices in it:
log entry 1. -/
def Obligations.ExcitationEvents : Prop :=
  ∀ (s : State) (k : Fin 16), shaped s = true → memoryWf s = true →
    (∀ n, (excOf s k).settle = some n → n ≤ now s →
      exec (.excSettleEnd k) s = .next (onExc s k (fun e => { e with settle := none }))) ∧
    (∀ f : ExcFault, (f = .sense → excOn s k = true ∧ excSettling s k (now s) = false) →
      (f ≠ .sense → excDrives s k = true) →
      ∃ u, exec (.excitationFault k f) s = .next u ∧ SameBut [.exc, .regs] s u ∧
        RegsBut [hdr (pgFQ (2 * k.val)) Hdr.EVT] s u ∧
        rd u (hdr (pgFQ (2 * k.val)) Hdr.EVT) = rd s (hdr (pgFQ (2 * k.val)) Hdr.EVT) ||| bitW 8 true ∧
        excOf u k = (match f with
          | .currentLimit => { excOf s k with limit := true }
          | .compliance => { excOf s k with compliance := true }
          | .sense => { excOf s k with senseFault := true })) ∧
    (∀ f : ExcFault, ∃ u, exec (.excitationFaultEnd k f) s = .next u ∧ SameBut [.exc] s u ∧
        excOf u k = (match f with
          | .currentLimit => { excOf s k with limit := false }
          | .compliance => { excOf s k with compliance := false }
          | .sense => { excOf s k with senseFault := false })) ∧
    ((excOn s k = false ∨ excSettling s k (now s) = true) → exec (.excitationFault k .sense) s = .next s) ∧
    (excDrives s k = false → ∀ f : ExcFault, f ≠ .sense → exec (.excitationFault k f) s = .next s)

/-- A conversion gives one raw record (R195 to R230, R245 to R249): at a sample instant of the input the front end makes the
record and it goes to the input's slot and chain, read from the core's queue (R355 to R357: a corrected word is counted, a
lost one becomes a NODATA record). An input outside its window at either latch of the sample (Table 5.7) is broken. No other
input changes. The model's choices in it: log entry 43. -/
def Obligations.RawRecordTaken : Prop :=
  ∀ (s : State) (ch : Fin 128) (c : Conversion), shaped s = true → sampledNow s ch = true →
    ∃ u, exec (.rawRecord ch c) s = .next u ∧
      (∀ r q, r = rawSample s ch (now s) c → q = fromQueue r.1 (ch.val / 4) c.ecc r.2 (nodataWord 0) →
        u = rawDeliver q.1 ch (now s) q.2) ∧
      SameBut (footprint (.rawRecord ch c)) s u ∧
      (∀ o, o ≠ ch.val → inputOf u o = inputOf s o) ∧
      ((windowBroken (inCfg s ch) c.sense c.held || windowBroken (inCfg s ch) c.sense c.done) = true →
        (inputOf u ch).brk = true ∧ (inputOf u ch).intact = 0)

/-- The record of a conversion on a fixed-range input that neither swaps its sources nor uses a driver, while its core has
passing slices (R248, R249, Table 5.7, Table 8.1): the corrected code in the upper 24 bits, range 7 in the tag, CLIP at full
scale, BRK where an input of the pair stood outside its window at either latch. The model's choices in it: log entries 43 and
75. -/
def Obligations.RawRecordWord : Prop :=
  ∀ (s : State) (ch : Fin 128) (c : Conversion), shaped s = true →
    inClass (inCfg s ch) = Cls.VOLT → fixedRange (inCfg s ch) = true → excUse (inCfg s ch) = false →
    (inputOf s ch).step = none → (inputOf s ch).brk = false → (inputOf s ch).setlStep = 0 → (inputOf s ch).setlMode = 0 →
    (coreOf s (ch.val / 4)).short = false →
    (rawSample s ch (now s) c).2 =
      (let core := coreOf s (ch.val / 4)
       let slice := core.coefs.getD (core.pos.getD (positionOf s ch (now s)) 0) ⟨[], 0, 0⟩
       let code := inputCode s ch (inputOf s ch).range (inCfg s ch) (sliceResult slice c.bits)
       recWord (code * 256) (tagByte 7 false
         (windowBroken (inCfg s ch) c.sense c.held || windowBroken (inCfg s ch) c.sense c.done) (decide (code = 32767 ∨ code = -32767)) false false))

/-- Converter events (R251, R254, R50, R264, R265, R878): a rotation step puts the spare in the position due and counts; a
calibration that passes renews the spare's coefficients, one that fails retires the slice; a band edge pair in the DAC shadow
loads at the first boundary after the index of its arrival when the upper edge is at least two codes above the lower, and is
counted as a band-order error when not; the axis law runs on what stands then; a crossing sets the two states by R878. The
model's choices in it: log entries 1, 11 and 44. -/
def Obligations.ConverterEvents : Prop :=
  ∀ s : State, shaped s = true → memoryWf s = true →
    (∀ (core : Fin 32) (j : Nat), rotationAt s core (now s) = some j → sampling s = true →
      (coreOf s core).stopped = false →
      ∃ u, exec (.rotationStep core) s = .next u ∧ SameBut [.cores, .regs] s u ∧ RegsBut [CC.ROT_COUNT core] s u ∧
        rd u (CC.ROT_COUNT core) = rd s (CC.ROT_COUNT core) + 1 ∧
        coreOf u core = { coreOf s core with
          pos := (coreOf s core).pos.set (j % 8) (coreOf s core).spare, spare := (coreOf s core).pos.getD (j % 8) 8 } ∧
        ∀ o, o ≠ core.val → coreOf u o = coreOf s o) ∧
    (∀ (core : Fin 32) (k : SliceCoef), (coreOf s core).stopped = false →
      (slicePasses k = true → exec (.sliceCalibrationDone core k) s = .next (onCore s core (fun c => { c with
          coefs := c.coefs.set c.spare k, pass := c.pass.set c.spare true
          calAt := c.calAt.set c.spare s.time.now }))) ∧
      (slicePasses k = false →
        exec (.sliceCalibrationDone core k) s = .next (retireSlice s core (coreOf s core).spare))) ∧
    (∀ (ain : Fin 96) (n lo up : Nat), (bandOf s ain).shadow.find? (fun e => decide (e.1 < now s)) = some (n, lo, up) →
      lo < 4096 → up < 4096 → bandBoundary s ain = true →
      ∃ u b, exec (.bandEdgeLoad ain .sound) s = .next u ∧ SameBut [.bands, .gc, .slots, .regs] s u ∧
        b = { bandOf s ain with shadow := (bandOf s ain).shadow.filter (fun x => decide (now s ≤ x.1)) } ∧
        (lo + 2 ≤ up → RegsBut [] s u ∧ bandOf u ain = { b with lower := lo, upper := up }) ∧
        (up < lo + 2 → RegsBut [hdr (pgCC (ain.val / 4)) Hdr.EVT] s u ∧
          bandOf u ain = { b with orderErr := min 255 (b.orderErr + 1) })) ∧
    (∀ (ain : Fin 96) (upper level : Bool), comparatorsOn s ain = true →
      ∃ u b, exec (.comparatorCrossing ain upper level) s = .next u ∧ SameBut [.bands, .gc, .slots] s u ∧
        b = bandCross (bandOf s ain) upper level ∧ bandOf u ain = { b with past := (bandOf u ain).past })

/-- Both states of a comparator pair are never 1 together after a crossing (R878). The model's choices in it: log entry 44. -/
def Obligations.ComparatorStatesExclude : Prop :=
  ∀ (b : BandState) (upper level : Bool), (b.u && b.lo) = false →
    ((bandCross b upper level).u && (bandCross b upper level).lo) = false ∧
    (level = true → (if upper then (bandCross b upper level).u else (bandCross b upper level).lo) = true)

/-- Housekeeping and queue commands (R271 to R274, R351 to R354, R361): HKC.START = 1 requests a single conversion, made in
the first host slot that begins at least 200 ns after the write; its result fills DATA with valid set, overrun set where an
unread result is lost, and STAMP with the slot's index; a read of DATA latches STAMP for its path and clears valid and
overrun; QUEUE_SEL with clr = 1 clears the counters of the queue that it names. As many quires or items wait in a queue as
words with the end mark; an empty one gives the idle item and stays empty. The model's choices in it: log entries 42, 45 and
78. -/
def Obligations.HousekeepingAndQueues : Prop :=
  ((∀ l, waiting (quireQueue l) = l.length) ∧ (∀ l, waiting (itemQueue l) = l.length) ∧
    readQueue [] = (queueWord 0x80000000 true, []) ∧ ∀ w t, readQueue (w :: t) = (w, t)) ∧
  ∀ s : State, shaped s = true → memoryWf s = true →
    (∀ p : Path, passes s p HKC.START → s.hkc.single = none → rdb s HKC.SEL 16 = false →
      exec (.hkcStart p 1) s = .next { s with hkc := { s.hkc with single := some (now s) } }) ∧
    (∀ (code : BitVec 12) (temp : BitVec 16) (m : Nat), hkcTurn s = some m →
      ∃ v, v = wr (wr s HKC.DATA (word (code.toNat + 2 ^ 14 + 2 ^ 15 * b2n (rdb s HKC.DATA 14 || rdb s HKC.DATA 15) +
          2 ^ 16 * hkcValue (fld (selAt s m) 0 5) code.toNat temp))) HKC.STAMP (word (10 * m)) ∧
        exec (.hkcResult code temp) s = .next (evtIf (rdb s HKC.DATA 14)
          (evt { v with hkc := { v.hkc with single := none, last := some (max m (v.hkc.last.getD 0)) } } pgHKC 0) pgHKC 1)) ∧
    (∀ n, s.hkc.single = some n → firstHostSlot n < now s / 10 → hkcTurn s = some (firstHostSlot n)) ∧
    (∀ n, firstHostSlot n % 4 ≠ 3 ∧ n + 2 ≤ 10 * firstHostSlot n) ∧
    (∀ p : Path, hostReady s = true →
      ∃ u, exec (.dataRead p) s = .next u ∧ SameBut [.host, .regs] s u ∧ RegsBut [HKC.DATA] s u ∧
        rd u HKC.DATA = setFld (rd s HKC.DATA) 14 2 0 ∧
        (pathOf u p).latched = sparseSet (pathOf s p).latched HKC.STAMP (rd s HKC.STAMP)) ∧
    (∀ (p : Path) (q : Nat), passes s p SYS.QUEUE_SEL → queueNamed q = true →
      ∃ u, exec (.queueClear p q) s = .next u ∧ SameBut [.queueEcc, .regs] s u ∧ RegsBut [SYS.QUEUE_SEL] s u ∧
        u.queueEcc = sparsePut s.queueEcc (0, 0) q (0, 0) ∧ rd u SYS.QUEUE_SEL = word q)

/-- Supplies and clocks (R92, R93, R95, R98, R99, R101 to R103, R114): applied VBK leads to Midnight or to a cold start by
WAKE_CFG and nPOR, with nPOR among the causes where it is low; power good samples the straps and begins Dawn; a lost main rail
is a cold reset, a lost analog rail or clock a warm-reset request; VDD12L, REFCLK and a lane PLL take lanes down and reset
nothing. The model's choices in it: log entries 19, 34, 36 and 74. -/
def Obligations.SupplyAndClockEvents : Prop :=
  ∀ s : State, shaped s = true → memoryWf s = true →
    (s.pwr.st = .vbkAbsent → exec .vbkApplied s = .next (onPwr s (fun p => { p with
      rails := p.rails.set 6 true, causes := addCauses Cause.VBK (if s.pins.npor then 0 else Cause.POR)
      pwren := rdb s PWR.WAKE_CFG 0 || !s.pins.npor
      st := if rdb s PWR.WAKE_CFG 0 || !s.pins.npor then .reset else .midnight }))) ∧
    (s.pins.npor = true → s.pins.testen = false → (s.pwr.st = .reset ∨ s.pwr.st = .midnight ∧ s.pwr.pwren = true) →
      ∃ u, exec .powerGood s = .next u ∧ u.pwr.st = .dawn ∧ u.pwr.dawnPhase = 2 ∧ u.pwr.causes = 0 ∧
        rd u PWR.RST_CAUSE = word s.pwr.causes ∧ rd u PWR.FAULT_SRC = word (causeFaults s.pwr.causes) ∧
        u.pins = { s.pins with strapTwin := s.pins.twinid, strapRoot := s.pins.rooten } ∧
        rd u CLK.LOSS_COUNT = 0 ∧
        RegsBut [PWR.RST_COUNT, PWR.RST_CAUSE, PWR.FAULT_SRC, PWR.HOLD_STAT, CLK.LOSS_COUNT, hdr pgPWR Hdr.EVT] s u) ∧
    (waitsForRails s = true → s.pwr.pwren = true → exec .pwrenTimeout s =
      .next (onPwr s (fun p => { p with pwren := false, pwrenFails := p.pwrenFails + 1 }))) ∧
    (waitsForRails s = true → s.pwr.pwren = false → 0 < s.pwr.pwrenFails → exec .pwrenRetry s =
      .next (onPwr s (fun p => if 3 ≤ p.pwrenFails then { p with st := .midnight, railFail := true, pwrenFails := 0 }
        else { p with pwren := true }))) ∧
    (∀ r, (r = .vdd09 ∨ r = .vdd11m ∨ r = .vddio18) → s.pwr.st ≠ .vbkAbsent → s.pwr.st ≠ .midnight → railOk s r = true →
      exec (.railLost r) s = .next (coldAgain (setRail s r false) Cause.RAIL_MAIN)) ∧
    (∀ r, (r = .vdda18 ∨ r = .vafe50) → s.pwr.st ≠ .vbkAbsent → railOk s r = true →
      exec (.railLost r) s = .next (requestWarm (setRail s r false) Cause.RAIL_ANALOG (decide (r = .vdda18)))) ∧
    (∀ r, (r = .vdda18 ∨ r = .vafe50) → exec (.analogRailHoldEnd r) s = .next (setRail s r true)) ∧
    (railOk s .vbk = true → s.pwr.st ≠ .vbkAbsent →
      exec (.railLost .vbk) s = .next (coldReset (setRail s .vbk false) Cause.VBK false .vbkAbsent)) ∧
    (railOk s .vdd12l = true → hubOn s = true →
      exec (.railLost .vdd12l) s = .next (evt (lanesLost (setRail s .vdd12l false)) pgPWR 3)) ∧
    (railOk s .vdd12l = false → hubOn s = true →
      exec .vdd12lRestored s = .next (evt (setRail s .vdd12l true) pgPWR 3)) ∧
    (∀ c, clkOk s c = true → ∃ u v, exec (.clockLost c) s = .next u ∧ v.clk = (setClk s c false).clk ∧
      SameBut [.clk, .regs] s v ∧ RegsBut [CLK.LOSS_COUNT] s v ∧
      u = requestWarm v Cause.CLOCK (decide (c = .xtime ∨ c = .timePll))) ∧
    (∀ c, exec (.clockRestored c) s = .next (setClk s c true)) ∧
    (s.clk.refclk = true → exec (.refclkLost .refclk) s =
      .next (lanesLost (bumpSat (onClk s (fun k => { k with refclk := false })) CLK.LOSS_COUNT 16 8 1))) ∧
    (∀ l, exec (.refclkLost (.lanePll l)) s =
      .next (linkLost (onClk s (fun k => { k with lanePll := k.lanePll.set (laneIdx l) false })) l)) ∧
    exec (.refclkRestored .refclk) s = .next (onClk s (fun k => { k with refclk := true })) ∧
    (∀ l, exec (.refclkRestored (.lanePll l)) s =
      .next (onClk s (fun k => { k with lanePll := k.lanePll.set (laneIdx l) true }))) ∧
    (s.clk.xlp = true → exec .xlpLost s = .next (onPwr
      (bumpSat (onClk s (fun k => { k with xlp := false })) CLK.LOSS_COUNT 24 8 1) (fun p => { p with coarse := none }))) ∧
    exec .xlpRestored s = .next (onClk s (fun k => { k with xlp := true }))

/-- A warm-reset request in a running hub (R113, R119, R129): the cause is kept for RST_CAUSE and its FAULT_SRC bits are set;
while a warm reset runs, a request only adds its cause to RST_CAUSE. The model's choices in it: log entry 33. -/
def Obligations.WarmResetRequest : Prop :=
  ∀ (s : State) (c : Nat), memoryWf s = true → hubOn s = true →
    ∃ u, requestWarm s c false = u ∧ SameBut [.pwr, .regs] s u ∧
      rd u PWR.FAULT_SRC = rd s PWR.FAULT_SRC ||| word (causeFaults c) ∧
      (warmActive s = false → RegsBut [PWR.FAULT_SRC] s u ∧ u.pwr.warm.requested = true ∧
        u.pwr.causes = addCauses s.pwr.causes c ∧ u.pwr.warm.timeLost = s.pwr.warm.timeLost) ∧
      (warmActive s = true → RegsBut [PWR.FAULT_SRC, PWR.RST_CAUSE] s u ∧ u.pwr = s.pwr ∧
        rd u PWR.RST_CAUSE = rd s PWR.RST_CAUSE ||| word c) ∧
      (∀ lost, warmActive s = true → ∃ v, requestWarm s c lost = v ∧ SameBut [.pwr, .regs, .time, .freeCtr] s v ∧
        rd v PWR.RST_CAUSE = rd s PWR.RST_CAUSE ||| word c ∧
        v.pwr = { s.pwr with warm := { s.pwr.warm with timeLost := s.pwr.warm.timeLost || lost } }) ∧
      exec .watchdog s = .next (requestWarm s Cause.WATCHDOG false)

/-- Reset and wake inputs (R35, R43, R73, R106, R109, R113, R117, R124, R125): nPOR is a cold reset; nWAKE and the alarm raise
PWREN in Midnight; nRSTREQ asks for a warm reset after its debounce and is declared failed when it stays low; lockstep, the
watchdog, a full queue and PWR.RST_CTRL ask for one. The model's choices in it: log entries 1 and 34. -/
def Obligations.ResetAndWakeInputs : Prop :=
  ∀ s : State, shaped s = true → memoryWf s = true →
    (s.pins.npor = true → s.pwr.st ≠ .vbkAbsent →
      exec .nporLow s = .next (coldAgain { s with pins := { s.pins with npor := false } }
        (addCauses Cause.POR (wakeCauses s)))) ∧
    (s.pins.npor = false → s.pwr.rails = [true, true, true, true, true, true, true] → s.pins.testen = false →
      exec .nporRelease s = .next { s with
        pins := { s.pins with npor := true, strapTwin := s.pins.twinid, strapRoot := s.pins.rooten } }) ∧
    (asleep s = true → s.pwr.removal = false → rdb s PWR.WAKE_CFG 1 = true →
      exec .nwake s = .next (onPwr s (fun p => { p with
        pwren := true, pwrenFails := 0, causes := addCauses p.causes Cause.MIDNIGHT }))) ∧
    (∀ c, s.pwr.coarse = some c → asleep s = true → s.pwr.removal = false → rdb s PWR.WAKE_CFG 2 = true →
      s.clk.xlp = true → ∃ u, exec .wakeAt s = .next u ∧ SameBut [.pwr] s u ∧ u.pwr.pwren = true ∧
        u.pwr.causes = addCauses s.pwr.causes Cause.MIDNIGHT ∧
        u.pwr.coarse = some (alarmSec s (ceilDiv c secLen) * secLen)) ∧
    (s.pwr.rstReq.level = true → hubOn s = true → s.pwr.rstReq.failed = false →
      exec .nrstreqFall s = .next (onRstReq s (fun r => { r with level := false, debounce := true, counting := true }))) ∧
    exec .nrstreqHighSample s = .next (onRstReq s (fun r => { r with level := true, debounce := false, counting := false })) ∧
    (s.pwr.rstReq.debounce = true →
      exec .nrstreqDebounced s = .next (requestWarm (onRstReq s (fun r => { r with debounce := false })) Cause.RSTREQ false)) ∧
    (s.pwr.rstReq.counting = true →
      exec .rstreqFailed s =
        .next (evt (onRstReq s (fun r => { r with failed := true, counting := false, debounce := false })) pgPWR 1)) ∧
    (s.pwr.rstReq.failed = true → s.pwr.rstReq.level = true →
      exec .rstreqRecovered s = .next (evt (onRstReq s (fun r => { r with failed := false })) pgPWR 2)) ∧
    (hubOn s = true → exec .lockstepMismatch s =
      .next (requestWarm (wr s SYS.INT_FAULT (rd s SYS.INT_FAULT ||| 1)) Cause.LOCKSTEP false)) ∧
    (hubOn s = true → exec .watchdog s = .next (requestWarm s Cause.WATCHDOG false)) ∧
    (∀ q, hubOn s = true → exec (.queueFull q) s =
      .next (requestWarm (wr s SYS.INT_FAULT (rd s SYS.INT_FAULT ||| 2)) Cause.QUEUE_FULL false)) ∧
    (∀ p, passes s p PWR.RST_CTRL → exec (.rstCtrl p 0xd0a50001) s =
      .next (requestWarm (noteWrite s (some p) PWR.RST_CTRL 0xd0a50001) Cause.HOST false))

/-- The warm reset (R119 to R122): at t0 the causes are recorded, the hub is back in Dawn and holds sampling, chains and slots
start afresh; once the image is loaded and rails and clocks are good the hub is ready, a servo in holdover or free running
with F = -I (R383); sampling resumes at a tick edge whose index is a multiple of 10,000, with rails and clocks good. The
model's choices in it: log entries 28, 32 and 33. -/
def Obligations.WarmResetSequence : Prop :=
  ∀ s : State, shaped s = true → memoryWf s = true →
    (s.pwr.warm.requested = true → warmActive s = false → hubOn s = true →
      ∃ u, exec .warmReset s = .next u ∧ u.pwr.st = .dawn ∧ u.pwr.dawnPhase = 2 ∧ u.pwr.warm.running = true ∧
        u.pwr.causes = 0 ∧ rd u PWR.RST_CAUSE = word s.pwr.causes ∧ u.shadow = [] ∧
        (s.pwr.warm.timeLost = false → u.time.held = true ∧ u.time.ht = s.time.ht) ∧
        u.chains = List.replicate 320 {} ∧ u.slots = List.replicate 48 {}) ∧
    (∀ t, s.pwr.warm.imageLoaded = true → s.pwr.warm.ready = false → warmHeld s = false →
      t = (if servo s = .holdover ∨ servo s = .freerun then onTime s (fun t => { t with f := holdF s }) else s) →
      exec .hubReady s = .next (recoverStreams (onPwr t (fun p => { p with warm :=
        if s.time.gridStarted || s.pwr.warm.timeLost then { p.warm with ready := true } else {} })))) ∧
    (s.pwr.warm.ready = true → s.pwr.warm.timeLost = false → warmHeld s = false → s.time.held = true →
      s.time.gridStarted = true → atTick s = true → now s % 10000 = 0 →
      ∃ u, exec .samplingResumed s = .next u ∧ u.time.held = false ∧
        u.time.ht = s.time.ht ∧ u.pwr.warm = {} ∧ 10 ≤ u.pwr.dawnPhase)

/-- A cold reset (R113 to R115, Table 3.8): every register outside the kept ones is at its reset value, memories and blocks
are as after power-up; clocks, straps, non-volatile storage, fuses, the change journal and the waiting commands stay. The
model's choices in it: log entries 18, 22, 23, 24 and 34. -/
def Obligations.ColdResetLeaves : Prop :=
  ∀ (s : State) (c : Nat) (aon : Bool) (st : PowerState), memoryWf s = true →
    ∃ u, coldReset s c aon st = u ∧ u.pwr.st = st ∧ u.pwr.causes = c ∧
      (∀ a, coldKeeps aon a = false → rd u a = resetOf a) ∧
      u.vat = [] ∧ u.shadow = [] ∧ u.chains = ({} : State).chains ∧ u.streams = ({} : State).streams ∧
      u.engines = ({} : State).engines ∧ u.lanes = ({} : State).lanes ∧ u.safe = ({} : State).safe ∧
      u.clk = s.clk ∧ u.pins = s.pins ∧ u.changes = s.changes ∧ u.pending = s.pending ∧ u.serial = s.serial

/-- Power targets and Dusk (R103, R105, R109 to R111): an accepted target in Noon or Twilight begins Dusk; a drained Dusk or
the limit ends in the target's state, with EVT bit 4. The model's choices in it: log entry 35. -/
def Obligations.PowerTargets : Prop :=
  ∀ s : State, shaped s = true → memoryWf s = true →
    (∀ p, passes s p PWR.CTRL → (s.pwr.st = .noon ∨ s.pwr.st = .twilight) →
      exec (.targetMidnight p) s = .next (enterDusk (noteWrite s (some p) PWR.CTRL 1) 1) ∧
      exec (.targetRemoval p) s = .next (enterDusk (noteWrite s (some p) PWR.CTRL 2) 2) ∧
      exec (.targetTwilight p) s = .next (enterDusk (noteWrite s (some p) PWR.CTRL 3) 3)) ∧
    (∀ t, t ≠ 0 → ∃ u, enterDusk s t = u ∧ u.pwr.st = .dusk ∧ u.pwr.target = t ∧ u.pwr.duskIncomplete = false) ∧
    (s.pwr.st = .dusk → duskDrained s = true → s.pwr.target = 1 ∨ s.pwr.target = 2 →
      ∃ u, exec .duskEnd s = .next u ∧ u.pwr.st = .midnight ∧ u.pwr.pwren = false ∧
        u.pwr.removal = decide (s.pwr.target = 2)) ∧
    (s.pwr.st = .dusk → duskDrained s = true → s.pwr.target = 3 →
      ∃ u, exec .duskEnd s = .next u ∧ u.pwr.st = .twilight ∧ u.pwr.target = 0 ∧ rd u PWR.CTRL = 0 ∧
        bit (rd u (hdr pgPWR Hdr.EVT)) 4 = true) ∧
    (s.pwr.st = .dusk → s.pwr.target = 1 ∨ s.pwr.target = 2 →
      ∃ u, exec .duskLimit s = .next u ∧ u.pwr.st = .midnight ∧ u.pwr.duskIncomplete = true)

/-- Fault bits, keepers and the TAP (R71, R72, R132, R864): FAULT_SRC clears the bits of ended causes only; a released ball
drops its keeper or keeps the opposite level; in a part SB with SAFE_LOCK written, an instruction other than the three public
ones acts as BYPASS. The model's choices in it: log entries 36 and 37. -/
def Obligations.FaultBitsKeepersTap : Prop :=
  ∀ s : State, shaped s = true → memoryWf s = true →
    (∀ p mask, passes s p PWR.FAULT_SRC → exec (.faultSrcClear p mask) s =
      .next (wr s PWR.FAULT_SRC (rd s PWR.FAULT_SRC &&& ~~~ (mask &&& word (faultEnded s))))) ∧
    (∀ (gen : Bool) (b : Nat), exec (.keeperRelease gen b) s = .next (onBall s gen b (fun x =>
      if x.drive.isNone then { x with keeper := false } else x))) ∧
    (∀ (gen : Bool) (b : Nat), exec (.releasedNetEdge gen b) s = .next (onBall s gen b (fun x =>
      if x.drive.isNone then { x with keeper := true, held := !x.held } else x))) ∧
    (∀ b, b < 144 → ∀ f, (onBall s false b f).gc.getD b {} = f (s.gc.getD b {})) ∧
    (∀ i, exec (.tapInstruction i) s = .next { s with tap := match i with
      | .idcode => .idcode | .bypass => .bypass | .samplePreload => .samplePreload
      | .otherInstr c => if s.partSB && fuseWritten s 3 then .bypass else .otherInstr c })

/-- Register words (R134, R143, R144, R147, R769, R876): a write of a word to a register that no check refuses has the
register's effect, one that a check refuses is reported and has no other, and one that the change journal cannot take is
refused with EJOURNAL; a read of a latched register gives up the latch, a read of any other latches its companions, frozen or
not; the memory ports, POLY_DATA on page FLT0 only (R332), and CH_RED_MIN are reached by their own commands. The model's
choices in it: log entries 25 and 41. -/
def Obligations.RegisterWords : Prop :=
  ∀ (s : State) (p : Path), hostReady s = true →
    (∀ a b i r v, a < 0x100000 → a % 4 = 0 → blkOfPage (pageOf a) = some (b, i) → 0x40 ≤ offOf a → rowAt a = some r →
      (regRej s (some p) b i a r v = none → entryFails s (some p) a = true →
        exec (.registerWrite p a v) s = .next (entryRefused s (some p) a)) ∧
      (regRej s (some p) b i a r v = none → entryFails s (some p) a = false →
        exec (.registerWrite p a v) s = .next (regEffect (noteWrite s (some p) a v) (some p) b i a r v)) ∧
      (passes s p a → b ∈ [.host, .clk, .cmd, .vat, .mot, .edge, .zip, .cal, .nvm, .fuse, .jrnl] → r.acc ≠ .ro →
        (r.acc = .rws → scheduled s (pageOf a) = false) → (∀ c ∈ r.checks, c.zeroRej v = none ∧ c.rangeRej v = none) →
        exec (.registerWrite p a v) s = .next (regEffect (noteWrite s (some p) a v) (some p) b i a r v)) ∧
      (∀ j, regRej s (some p) b i a r v = some j → exec (.registerWrite p a v) s = .next (refuse s (some p) a j)) ∧
      (∀ w, a ≠ FUSE.CHAL 0 → sparseFind (pathOf s p).latched a = some w → exec (.loRead p a) s =
        .next (onPath s p (fun t => { t with latched := sparseErase t.latched a }))) ∧
      (∀ w, frozenAt s a = some w → sparseFind (pathOf s p).latched a = none →
        exec (.loRead p a) s = .next (latchFor s p b a)) ∧
      (frozenAt s a = none → a ≠ FUSE.CHAL 0 → sparseFind (pathOf s p).latched a = none →
        exec (.loRead p a) s = .next (readEffect (latchFor s p b a) a))) ∧
    (∀ g b i v, g < 256 → blkOfPage g = some (b, i) → passes s p (hdr g Hdr.ERRCODE) →
      exec (.errcodeClear p g v) s = .next (errcodeClear (noteWrite s (some p) (hdr g Hdr.ERRCODE) v) g v)) ∧
    (∀ v a, passes s p (FLT.COEF_DATA 0) → a = rdf s (FLT.COEF_ADDR 0) 0 15 → setActive s (a / 256) = false →
      (a % 256 = 255 → fld v 0 4 ≤ 8) →
      exec (.coefDataWrite p v) s = .next (coefWrite (noteWrite s (some p) (FLT.COEF_DATA 0) v) v)) ∧
    (frozenAt s (FLT.COEF_DATA 0) = none → sparseFind (pathOf s p).latched (FLT.COEF_DATA 0) = none →
      exec (.coefDataRead p) s = .next (coefAdvance (latchFor s p .flt (FLT.COEF_DATA 0)))) ∧
    (∀ v, passes s p (FLT.POLY_DATA 0) → scheduled s (pgFLT 0) = false →
      exec (.polyDataWrite p 0 v) s = .next (polyWrite (noteWrite s (some p) (FLT.POLY_DATA 0) v) 0 v)) ∧
    (frozenAt s (FLT.POLY_DATA 0) = none → sparseFind (pathOf s p).latched (FLT.POLY_DATA 0) = none →
      exec (.polyDataRead p 0) s = .next (polyAdvance s 0)) ∧
    (∀ (g : Fin 40) v, 0 < g.val →
      exec (.polyDataWrite p g v) s = .next (refuse s (some p) (FLT.POLY_DATA g) ⟨Rsn.ADDR, none⟩)) ∧
    (∀ g : Fin 40, 0 < g.val → frozenAt s (FLT.POLY_DATA g) = none →
      sparseFind (pathOf s p).latched (FLT.POLY_DATA g) = none → exec (.polyDataRead p g) s = .next s) ∧
    (∀ (g : Fin 40) (c : Fin 8), frozenAt s (FLT.CH_RED_MIN g c) = none →
      sparseFind (pathOf s p).latched (FLT.CH_RED_MIN g c) = none →
      exec (.redMinRead p g c) s = .next (latchFor s p .flt (FLT.CH_RED_MIN g c)))

/-- Commits and PAGE_CTRL (R140, R144, R145, R147 to R154, R877): COMMIT = 1 is carried out on the next edge of the tick,
COMMIT = 2 at APPLY_AT where the grid is valid and the index lies ahead, and COMMIT = 3 drops the shadows and the pending
index; a command that its page's checks or a pending commit do not refuse is taken. A scheduled commit acts on the first tick
edge not before its index, judged again there: a refused one is dropped. A commit that is carried out moves the whole shadow
of the page into its registers. PAGE_CTRL enables, freezes and resets the block of its page. The model's choices in it: log
entries 25, 26 and 41. -/
def Obligations.PageHeaderCommands : Prop :=
  (∀ (s : State) (g : Nat) (b : Blk) (i : Nat) (free : List Blk), g < 256 → blkOfPage g = some (b, i) →
    free = [.sys, .host, .pwr, .clk, .hkc, .ptp, .lane, .ring, .strm, .cmd, .capt, .lite, .zip, .cal, .nvm, .fuse, .jrnl, .twin] →
    (∀ p : Path, passes s p (hdr g Hdr.COMMIT) →
      (scheduled s g = false → commitChk s b i g none = {} ∨ b ∈ free → ∃ t, t = noteWrite s (some p) (hdr g Hdr.COMMIT) 1 ∧
        exec (.commitApplyNow p g) s = .next (onPage (commitSeen t g) g (fun x => { x with soon := true }))) ∧
      (scheduled s g = false → gridValid s = true → now s + 1 < rd64 s (hdr g Hdr.APPLY_AT_LO) →
        commitChk s b i g (some (now s, rd64 s (hdr g Hdr.APPLY_AT_LO))) = {} ∨ b ∈ free →
        ∃ t, t = noteWrite s (some p) (hdr g Hdr.COMMIT) 2 ∧
          exec (.commitApplyAt p g) s = .next (scheduleCommit (commitSeen t g) b i g) ∧
          (b ≠ .sprt → scheduleCommit (commitSeen t g) b i g = onPage (commitSeen t g) g (fun x => { x with
            sched := some (rd64 (commitSeen t g) (hdr g Hdr.APPLY_AT_LO)), schedFrom := now (commitSeen t g) }))) ∧
      (∃ t, t = noteWrite s (some p) (hdr g Hdr.COMMIT) 3 ∧
        exec (.commitCancel p g) s = .next (cancelCommit (commitSeen t g) b i g) ∧
        (b ≠ .flt → cancelCommit (commitSeen t g) b i g = onPage { commitSeen t g with
          shadow := (commitSeen t g).shadow.filter (fun e => decide (pageOf e.1 ≠ g)) } g (fun x => { x with sched := none })) ∧
        ∀ a, pageOf a = g → rdShadow (cancelCommit (commitSeen t g) b i g) a = rd (cancelCommit (commitSeen t g) b i g) a) ∧
      (scheduled s g = true → exec (.commitApplyNow p g) s = .next (refuse s (some p) (hdr g Hdr.COMMIT) ⟨Rsn.PENDING, none⟩) ∧
        exec (.commitApplyAt p g) s = .next (refuse s (some p) (hdr g Hdr.COMMIT) ⟨Rsn.PENDING, none⟩))) ∧
    ((pinfo s g).soon = true → applySoon s g =
      applyCommit (onPage s g (fun x => { x with soon := false })) b i g (now s) false) ∧
    (∀ n, (pinfo s g).sched = some n → atTick s = true → n ≤ now s →
      (edgeRej s b i g n = none ∨ b ∈ free → exec (.scheduledCommit g) s =
        .next (applyCommit (onPage s g (fun x => { x with sched := none })) b i g (now s) (decide (n < now s)))) ∧
      (∀ j, edgeRej s b i g n = some j → exec (.scheduledCommit g) s =
        .next (refuse (onPage s g (fun x => { x with sched := none, applied := false })) none (hdr g Hdr.COMMIT) j))) ∧
    (∀ n late, applyCommit s b i g n late = commitEffects s (onPage (copyShadows s g) g (fun x => { x with
      applied := true, late := late, appliedIndex := n })) b i n) ∧
    (memoryWf s = true → sparseAbove 0 s.shadow = true →
      SameBut [.regs, .shadow] s (copyShadows s g) ∧ (∀ a, pageOf a = g → rd (copyShadows s g) a = rdShadow s a) ∧
      (∀ a, pageOf a = g → rdShadow (copyShadows s g) a = rd (copyShadows s g) a) ∧
      (∀ a, pageOf a ≠ g → rd (copyShadows s g) a = rd s a))) ∧
  (∀ (s : State) (p : Path) (g : Nat) (b : Blk) (i : Nat), g < 256 → blkOfPage g = some (b, i) → passes s p (hdr g Hdr.PAGE_CTRL) →
    (∀ en, en = true ∨ blkOn s g = false ∨ (pageFixed b = false ∧ blockInUse s b i = false) →
      ∃ t, t = noteWrite s (some p) (hdr g Hdr.PAGE_CTRL) (word (b2n en + 2 * b2n false + 4 * b2n (frozen s g))) ∧
        exec (.pageEnable p g en) s = .next (settleAttn (setEnable (setFreeze t p g (frozen s g)) b i g en))) ∧
    (pageFixed b = false → blockInUse s b i = false → bandHeld s b i = false →
      ∃ t, t = noteWrite s (some p) (hdr g Hdr.PAGE_CTRL) (word (b2n (blkOn s g) + 2 * b2n true + 4 * b2n (frozen s g))) ∧
        exec (.blockReset p g) s =
          .next (settleAttn (blockReset (setEnable (setFreeze t p g (frozen s g)) b i g (blkOn s g)) b i g))) ∧
    (∀ on, ∃ t, t = noteWrite s (some p) (hdr g Hdr.PAGE_CTRL) (word (b2n (blkOn s g) + 2 * b2n false + 4 * b2n on)) ∧
      exec (.freeze p g on) s = .next (settleAttn (setEnable (setFreeze t p g on) b i g (blkOn s g)))) ∧
    (∀ en, en = false → blkOn s g = true → pageFixed b = false → blockInUse s b i = true →
      exec (.pageEnable p g en) s = .next (refuse s (some p) (hdr g Hdr.PAGE_CTRL) ⟨Rsn.BUSY, none⟩)))

/-- What an accepted write leaves in a register (R146, R147, Table 0.3): an RW or RWL register takes the bits that the
register has, a W1C register loses the bits written with 1, an RWS register keeps its value in force and holds the bits in its
shadow. The model's choices in it: log entry 71. -/
def Obligations.AccessCodes : Prop :=
  ∀ (s : State) (p : Path) (a : Nat) (r : RegRow) (v : Word), memoryWf s = true →
    ∃ u, plainWrite s (some p) a r v = u ∧
      (r.acc = .rw ∨ r.acc = .rwl → SameBut [.regs] s u ∧ RegsBut [a] s u ∧ rd u a = merge r.mask (rd s a) v) ∧
      (r.acc = .w1c → SameBut [.regs] s u ∧ RegsBut [a] s u ∧ rd u a = rd s a &&& ~~~ (v &&& r.mask)) ∧
      (r.acc = .rws → SameBut [.shadow] s u ∧
        rdShadow u a = merge r.mask (rdShadow s a) v ∧ ∀ c, c ≠ a → rdShadow u c = rdShadow s c) ∧
      (r.acc = .ro ∨ r.acc = .wo → u = s)

/-- A refused write (R25, R138, R142, R876): it changes no register but those that report it and no part but the report:
ERRCODE of the page (ERR_ADDR as well on page HOST), REFUSED_COUNT for the SPI port, and the record of the path. The model's
choices in it: log entries 25 and 38. -/
def Obligations.RefusedWrite : Prop :=
  ∀ (s : State) (p : Path) (a : Nat) (v : Word) (b : Blk) (i : Nat) (r : RegRow) (j : Rej), memoryWf s = true →
    hostReady s = true → a < 0x100000 → a % 4 = 0 → blkOfPage (pageOf a) = some (b, i) → 0x40 ≤ offOf a → rowAt a = some r →
    regRej s (some p) b i a r v = some j → j.reason ≠ Rsn.ADDR →
    ∃ u, exec (.registerWrite p a v) s = .next u ∧ SameBut [.regs, .pages, .host] s u ∧
      RegsBut [hdr (pageOf a) Hdr.ERRCODE, HOST.ERR_ADDR, HOST.REFUSED_COUNT] s u ∧
      rd u (hdr (pageOf a) Hdr.ERRCODE) =
        errWord (pageType (pageOf a)) (offOf a) (min 15 ((pinfo s (pageOf a)).errCount + 1)) j

/-- A word written through the Vat window (R22, R135 to R137): the four bytes at the window's address hold the word, least
significant byte first, and every other byte and every register is as before. The model's choices in it: log entries 23 and
38. -/
def Obligations.VatWindowWrite : Prop :=
  ∀ (s : State) (p : Path) (a x : Nat) (v : Word), memoryWf s = true → hostReady s = true → a < 2 ^ 24 → a % 4 = 0 →
    winOf s a = some (.vat x) → vatHostChk s x = none → bistHeld s pgVAT = false →
    ∃ u, exec (.registerWrite p a v) s = .next u ∧ SameBut [.vat] s u ∧ vatWord u x = v ∧
      (∀ c, c < x ∨ x + 4 ≤ c → vatByte u c = vatByte s c)

/-- SPI transactions (R162 to R177, Tables 4.5 and 4.6): once host access is ready and outside a busy period, READ sends the
status word and the words read, least significant byte first; a READ whose dummy cycles end before its data is ready sends
zeros and status bit late, and is refused with LATE; WRITE and READ_REQ begin a busy period, at whose end the words that
READ_REQ has read are buffered; FETCH sends the buffer once; a transaction that ends within a word discards it and is refused
with PARTIAL; STATUS is always answered; RESET_PORT returns to profile 1-1-1; attention gives a pulse that ends. The bytes of
a transaction in either profile spell it. The model's choices in it: log entries 13, 39 and 79. -/
def Obligations.SpiTransactions : Prop :=
  (∀ wide : Bool, (∀ a, a < 2 ^ (if wide then 32 else 24) →
      spiParse wide (spiBytes wide (.read a)) = some (.read a) ∧
      (∀ l cut, spiParse wide (spiBytes wide (.write a l cut)) = some (.write a l cut)) ∧
      (∀ n, n < 2 ^ 32 → spiParse wide (spiBytes wide (.readReq a n false)) = some (.readReq a n false)) ∧
      spiParse wide (spiBytes wide (.readReq a 0 true)) = some (.readReq a 0 true)) ∧
    ∀ x ∈ [SpiCall.fetch, .status, .resetFirst, .resetSecond], spiParse wide (spiBytes wide x) = some x) ∧
  ∀ (s : State) (t : State), shaped s = true → hostReady s = true → t = spiCount (spiStart s) →
    (s.host.busy = false →
      (∀ a n period ready, readsWindow t a n = false → ready = true ∨ dummyLasts t period = true →
        exec (.spiRead a n false period ready) s = .next (spiSend t (fun t => readWords t .spi a n))) ∧
      (∀ a n period, readsWindow t a n = false → dummyLasts t period = false → ∃ u, exec (.spiRead a n false period false) s = .next u ∧
        u = spiLate t a n ∧
        u.host.out.drop 4 = List.replicate (4 * n) 0) ∧
      (∀ a l, exec (.spiWrite a l false) s = .next (onHost (writeWords t .spi a l) (fun h => { h with busy := true })) ∧
        exec (.spiWrite a l true) s = .next (onHost (spiRefuse (writeWords t .spi a l) (a + 4 * l.length) HErr.PARTIAL)
          (fun h => { h with busy := true }))) ∧
      (∀ a n, 1 ≤ n → n ≤ 1024 → exec (.spiReadReq a n false) s = .next (onHost (readWords t .spi a n).1 (fun h => { h with
        busy := true, fetch := none, req := some (readWords t .spi a n).2 }))) ∧
      (∀ l n, s.host.fetch = some l → n ≤ l.length → ∃ u, exec (.spiFetch n false) s = .next u ∧
        u.host.out = (statusWord t .spi :: l.take n).flatMap busBytes ∧ u.host.fetch = none) ∧
      (∃ u, exec .resetPort s = .next u ∧ u.host.profile = false)) ∧
    (∃ u, exec .spiStatus s = .next u ∧ u.host.out = busBytes (statusWord t .spi) ∧ (pathOf u .spi).err = false) ∧
    (s.host.busy = true → exec .busyEnd s =
      .next (onHost s (fun h => { h with busy := false, req := none, fetch := h.req.or h.fetch }))) ∧
    (attn s = true → s.host.busy = false → s.host.pulse = false → s.host.pulsed = false →
      exec .attentionPulse s = .next (onHost s (fun h => { h with pulse := true, pulsed := true }))) ∧
    exec .attentionPulseEnd s = .next (onHost s (fun h => { h with pulse := false })) ∧
    (attn s = true → rdb s HOST.CFG 16 = true → s.host.pulsed = true → s.host.busy = false → s.host.pulse = false →
      exec .attentionRepeat s = .next (onHost s (fun h => { h with pulse := true })))

/-- Register access by ring frames (R178 to R183): a well-formed frame with the next sequence number of its session is
executed and answered the way it came, a repeated one is answered from the store; a silent session ends. The bytes of Table
4.9 spell the frame. The model's choices in it: log entries 40 and 79. -/
def Obligations.RingAccess : Prop :=
  (∀ f : AccessFrame, f.version < 256 → f.op < 256 → f.hub < 65536 → f.session < 256 → f.count < 256 → f.address < 2 ^ 32 →
    f.data.length = (if f.op = 2 then f.count else 0) → accessOf f.mac (accessBytes f) = some f) ∧
  ∀ (s : State) (f : AccessFrame) (k : Fin 8) (x : Session), shaped s = true → hostReady s = true →
    s.ring.address = some f.hub → f.version = 1 → rdb s HOST.RING_ACCESS 0 = true →
    sessionOf s f = some k → s.host.sessions.getD k none = some x →
    (1 ≤ f.count → f.count ≤ 64 → f.address < 2 ^ 24 → f.seq = x.lastSeq + 1 →
      exec (.ringRead f) s = (let r := runFrame s { f with op := 1, data := [] } k
        .next (sendRing (setSession r.1 k (some { x with lastSeq := f.seq, stored := r.2 })) f.mac (.response r.2)))) ∧
    (1 ≤ f.count → f.count ≤ 64 → f.address < 2 ^ 24 → f.count ≤ f.data.length → f.seq = x.lastSeq + 1 →
      exec (.ringWrite f) s = (let r := runFrame s { f with op := 2 } k
        .next (sendRing (setSession r.1 k (some { x with lastSeq := f.seq, stored := r.2 })) f.mac (.response r.2)))) ∧
    (1 ≤ f.count → f.count ≤ 64 → f.address < 2 ^ 24 → f.count ≤ f.data.length → f.seq = x.lastSeq →
      exec (.ringWrite f) s = .next (sendRing s f.mac (.response x.stored))) ∧
    (∃ u, exec (.sessionTimeout k) s = .next u ∧ u.host.sessions.getD k none = none ∧ pathOf u (.sess k) = {})

/-- Motion slots (R607 to R609, R611, R614, R615, R618 to R621, R632, R633): the end of a hold lets the law act; a slot is
armed, runs and is disabled at band-update boundaries; a HOLD reaction becomes BRAKE; a cleared fault leaves the slot
disabled; a host mark falls on the next tick edge; a lost mark is counted. The model's choices in it: log entries 1 and 58. -/
def Obligations.MotionSlotEvents : Prop :=
  ∀ (s : State) (r : Fin 48), shaped s = true → memoryWf s = true →
    (∀ leg : Fin 3, (slotOf s r).holds.getD leg false = true → exec (.minHoldEnd r leg) s =
      .next (applyLaw (onSlot s r (fun x => { x with holds := x.holds.set leg false })) r)) ∧
    (sampling s = true → bit (axCfg s r) 0 = true → (slotOf s r).st = .disabled → buBoundary s (r / 4) = true →
      (slotOf s r).enIdx ≤ now s → (slotOf s r).imageEn = false →
      ∃ u, exec (.slotEnable r) s = .next u ∧ SameBut [.slots, .gc, .gen] s u ∧ (slotOf u r).st = .arming ∧
        (slotOf u r).armIdx = now s ∧ (slotOf u r).legs = [false, false, false] ∧ (slotOf u r).lawOn = false ∧
        ∀ o, o ≠ r.val → slotOf u o = slotOf s o) ∧
    ((slotOf s r).st = .arming → (slotOf s r).armIdx + 100 ≤ now s → buBoundary s (r / 4) = true →
      exec (.slotRun r) s =
        .next (applyLaw (evt (onSlot s r (fun x => { x with st := .run, lawOn := true })) pgMOT 1) r)) ∧
    (slotOn (slotOf s r) = true → bit (axCfg s r) 0 = false → buBoundary s (r / 4) = true → (slotOf s r).enIdx ≤ now s →
      ∃ u, exec (.slotDisable r) s = .next u ∧ SameBut [.slots, .gc, .gen] s u ∧ (slotOf u r).st = .disabled ∧
        (slotOf u r).legs = [false, false, false] ∧ ∀ o, o ≠ r.val → slotOf u o = slotOf s o) ∧
    ((slotOf s r).st = .fault → (slotOf s r).reaction = 2 →
      exec (.holdTimeout r) s = .next (syncGroups (applyReaction s r 1))) ∧
    (∀ p, passes s p MOT.CTRL → (slotOf s r).st = .fault → causePresent s r = false → (engOf s (r / 4)).run ≠ .fault →
      ∃ u, exec (.motClearFault p r) s = .next u ∧ SameBut [.slots, .gc, .gen, .regs] s u ∧ (slotOf u r).st = .disabled ∧
        (slotOf u r).cause = 0 ∧ RegsBut [MOT.AX_CFG r, MOT.GEN_STAT, PWR.FAULT_SRC] s u) ∧
    (∀ p, passes s p MOT.CTRL → rcMark s r = 3 → exec (.cycleMark p r) s = .next (markSlot s r (now s + 1))) ∧
    (∀ m, (rcMark s r = 2 ∨ rcMark s r = 3) → (slotOf s r).rcValid = true → 0 < rcPeriod s r →
      (slotOf s r).mark = some m → rcPeriod s r + rcPeriod s r / 16 ≤ now s - m →
      exec (.rcLost r) s =
        .next (evt (onSlot s r (fun x => { x with rcValid := false, rcLost := min 255 (x.rcLost + 1) })) pgMOT 2))

/-- Records and edges (R45, R49, R303, R304, R317 to R319, R323, R521, R568): the band-update event writes the input block and
starts a running engine's chain; the oldest waiting output of a chain is delivered; a SYNC edge or command schedules a SYNC
that takes effect on the first tick edge not before its index; an edge at TRIGIN reaches the marks and the reams. The stamp of
a pin edge is the captured one less two CLKT cycles. The model's choices in it: log entries 1 and 46. -/
def Obligations.RecordAndEdgeEvents : Prop :=
  ∀ s : State, shaped s = true → memoryWf s = true →
    (∀ k : Fin 12, sampling s = true → buBoundary s k = true → bandsReady s k (now s) = true →
      (engOf (writeBlock s k (now s)) k).run = .running →
      exec (.bu k) s = .next (boundaryEvents (writeBlock s k (now s)) k (now s))) ∧
    (∀ ch c o t, chainOfChannel ch = some c → (chainOf s c).queue = o :: t →
      exec (.filteredRecord ch) s = .next (deliverOut (onChain s c (fun x => { x with queue := t })) c ch o)) ∧
    (∀ falling stamp, rdb s (FLT.SYNC_CFG 0) 0 = true → rdb s (FLT.SYNC_CFG 0) 1 = falling →
      (s.flt.syncPin = none ∧ s.flt.syncAt = none → exec (.syncEdge falling stamp .sound) s =
        .next { s with flt := { s.flt with syncPin := some (indexAt s ((stamp - 160) * 1024) + 2) } }) ∧
      (s.flt.syncPin ≠ none ∨ s.flt.syncAt ≠ none → exec (.syncEdge falling stamp .sound) s =
        .next (evt (bumpSat s (FLT.SYNC_STAT 0) 8 8 1) (pgFLT 0) 17))) ∧
    (∀ p, passes s p (FLT.SYNC_CMD 0) → s.flt.syncAt = none → gridValid s = true → now s + 2 < rd64 s (FLT.SYNC_AT_LO 0) →
      exec (.syncSchedule p) s =
      .next { s with flt := { s.flt with syncAt := some (rd64 s (FLT.SYNC_AT_LO 0)) } }) ∧
    (∀ p, passes s p (FLT.SYNC_CMD 0) → exec (.syncCancel p) s = .next { s with flt := { s.flt with syncAt := none } }) ∧
    (∀ n, s.flt.syncPin = some n ∨ s.flt.syncAt = some n → n ≤ now s → atTick s = true →
      ∃ u, exec .syncEffect s = .next u ∧ SameBut [.regs, .chains, .flt] s u ∧
        RegsBut [FLT.SYNC_LAST_LO 0, FLT.SYNC_LAST_LO 0 + 4, FLT.SYNC_STAT 0, hdr (pgFLT 0) Hdr.EVT] s u ∧
        rd u (FLT.SYNC_LAST_LO 0) = word (now s)) ∧
    (∀ (pin : Fin 4) (falling : Bool) (stamp : Nat), sampling s = true →
      ∃ l h t, l = s.pins.trigin.set pin (!falling) ∧
        h = keepSince (fun e => e.1) (now s) ((edgeFrom s ((stamp - 160) * 1024), l) :: s.pins.triginAt) ∧
        t = { s with pins := { s.pins with trigin := l, triginAt := h } } ∧
        exec (.triginEdge pin falling stamp .sound) s =
          .next (reamsPin (pinMarks t pin falling (indexAt t ((stamp - 160) * 1024))) pin falling (stamp - 160)))

/-- Lanes (R421, R422, R424, R427): link up and down set the lane's state, its count and its event; RX_WAKE ends the sleep of
a receiver; the checker locks and counts wrong bits; an injected error clears the counters. The model's choices in it: log
entry 5. -/
def Obligations.LaneEvents : Prop :=
  ∀ (s : State) (l : Lane), shaped s = true → memoryWf s = true →
    (laneReady s l = true → linkUpOn s l = false → s.pwr.st ≠ .dawn →
      ∃ u, exec (.linkUp l) s = .next u ∧ SameBut [.lanes, .regs] s u ∧ linkUpOn u l = true ∧
        RegsBut [LANE.LINK_COUNT (laneIdx l), hdr (pgLANE (laneIdx l)) Hdr.EVT] s u) ∧
    (linkUpOn s l = true → s.pwr.st ≠ .dawn → exec (.linkDown l) s = .next (linkLost s l) ∧
      linkUpOn (linkLost s l) l = false) ∧
    (rdb s (LANE.CFG (laneIdx l)) 5 = true → rdb s (LANE.CFG (laneIdx l)) 6 = true → exec (.rxWake l) s =
      .next (wr (onLane s l (fun x => { x with signal := true })) (LANE.CFG (laneIdx l))
        (setFld (rd s (LANE.CFG (laneIdx l))) 5 1 0))) ∧
    (rdb s (LANE.PRBS_CFG (laneIdx l)) 5 = true → rdf s (LANE.PRBS_CFG (laneIdx l)) 0 3 ≠ 0 →
      exec (.prbsCheckerLock l) s = .next (onLane s l (fun x => { x with chkLock := true }))) ∧
    ((laneOf s l).chkLock = true → rdb s (LANE.PRBS_CFG (laneIdx l)) 5 = true →
      ∃ u, exec (.prbsBitError l) s = .next u ∧ SameBut [.regs] s u ∧
        RegsBut [LANE.PRBS_ERR (laneIdx l), hdr (pgLANE (laneIdx l)) Hdr.EVT] s u ∧
        rdf u (LANE.PRBS_ERR (laneIdx l)) 0 32 = min (rdf s (LANE.PRBS_ERR (laneIdx l)) 0 32 + 1) (2 ^ 32 - 1)) ∧
    (∀ p, passes s p (LANE.PRBS_CFG (laneIdx l)) → 
      laneInUse s l = false ∨ (rdb s (LANE.PRBS_CFG (laneIdx l)) 4 = false ∧ rdb s (LANE.PRBS_CFG (laneIdx l)) 5 = false) →
      exec (.prbsInject p l) s = .next (laneWritten s s (laneIdx l) 0x48))

/-- Discovery, addresses and the root (R444 to R449, R452, R453, R465, R849, R882): beacons are sent and heard; a root assigns
addresses and others take theirs; the root's beacons are sent, heard and missed; a break of the ring is noted; a hub without a
ring link takes the role alone. The model's choices in it: log entry 52. -/
def Obligations.RingRoles : Prop :=
  ∀ s : State, s.pwr.st ≠ .dawn →
    (hubRuns s = true → exec .discoveryBeaconSend s = .next (sendBeacon s)) ∧
    (∀ port b, isRingPort port = true → ringOn s = true →
      exec (.discoveryBeacon port b) s = .next (beaconNews (hearNode s port b) b)) ∧
    (ringReady s = true → s.ring.root = true → exec .addressAssignmentSend s = .next (dawnAdvance (assignAddrs s))) ∧
    (ringReady s = true → s.ring.root = false → s.ring.address = none → findsRoot s = true →
      exec .addressAssignmentSend s = .next (dawnAdvance (assignAddrs (takeRoot s true)))) ∧
    (∀ a, hubRuns s = true → ringOn s = true → exec (.addressAssignment a) s = .next (dawnAdvance (assignmentHeard s a))) ∧
    (s.ring.root = true → hubRuns s = true → exec .rootBeaconSend s = .next (sendRing s ctlMac (.rootBeacon
      ⟨s.ring.generation, s.serial, 0, s.ring.closed, s.ring.rebuilding, s.ring.table.length⟩))) ∧
    (∀ port b, isRingPort port = true → ringOn s = true →
      exec (.rootBeacon port b) s = .next (hearRootCopy (rootBeaconNews s b) port b)) ∧
    (hubRuns s = true → s.ring.root = false → s.ring.eastAt.isSome = true ∨ s.ring.westAt.isSome = true →
      (rootCandidates s).contains s.serial = false →
      ∃ u, exec .rootLost s = .next u ∧ SameBut [.ring] s u ∧ u.ring = { s.ring with
        cut := true, closed := false, eastAt := none, westAt := none, rootless := (rootCandidates s).isEmpty }) ∧
    (hubRuns s = true → 3 ≤ s.pwr.dawnPhase → s.ring.root = false → s.ring.address = none → ringLink s = false →
      exec .rootAlone s = .next (dawnAdvance (assignAddrs (takeRoot s false)))) ∧
    (∀ port w e m, s.ring.closed = true → s.ring.root = true → ∃ u, exec (.ringBreak port w e m) s = .next u ∧
      SameBut [.ring, .adm, .regs] s u ∧ RegsBut [hdr pgRING Hdr.EVT] s u ∧ u.ring = { s.ring with closed := false } ∧
      u.adm.breakStat = word (w % 64 + 2 ^ 8 * (e % 64) + 2 ^ 15 + 2 ^ 16 * b2n m))

/-- Admission traffic (R456, R459, R462, R463, R479): the root decides or holds a request and books a release; a reply reaches
the stream that waits for it; a request is sent again, and given up without a root; reports rebuild the ledger, after which
the held requests are answered. The model's choices in it: log entry 1. -/
def Obligations.AdmissionTraffic : Prop :=
  ∀ s : State,
    (∀ r, s.ring.root = true →
      (s.ring.rebuilding = false → exec (.admissionRequest r) s = .next (rootDecide s r)) ∧
      (s.ring.rebuilding = true → exec (.admissionRequest r) s = .next (onAdm s (fun a => { a with held := a.held ++ [r] }))) ∧
      exec (.admissionRelease r) s = .next (onAdm s (fun a => { a with
        ledger := releaseLedger a.ledger r, held := a.held.filter (fun h => decide (¬ (h.hub = r.hub ∧ h.stream = r.stream))) }))) ∧
    (∀ (r : AdmReply) w, s.adm.waiting.find? (fun w => decide (w.1 = r.request)) = some w → s.ring.address = some r.hub →
      w.2.1 = r.stream → exec (.admissionReply r) s = .next (admResult s r.stream r.request r.result)) ∧
    (∀ (i : Fin 64) w, waitingFor s i = some w →
      exec (.admissionRetry i) s = .next (sendAdm s (requestOf s i w.1 false)) ∧
      exec (.enoroot i) s = .next (admResult s i w.1 2)) ∧
    (∀ r, s.ring.root = true → s.ring.rebuilding = true → exec (.ledgerReport r) s = .next (mergeReport s r)) ∧
    (s.ring.reportDue = true → s.ring.address.isSome = true → s.ring.root = false →
      exec .ledgerReportSend s = (let t := onRing s (fun r => { r with reportDue := false })
        .next ((reportFrames t).foldl (fun s f => sendRing s (rootMac s) (.ledger f)) t))) ∧
    (s.ring.root = true → s.ring.rebuilding = true → exec .ledgerRebuilt s = .next (s.adm.held.foldl rootDecide
      (evt (onAdm (onRing s (fun r => { r with rebuilding := false })) (fun a => { a with held := [] })) pgRING 6)))

/-- Received frames (R431, R432, R436, R438): a good frame of another hub on a ring port is counted and handled, one of this
hub's own is removed; a frame with a bad FCS is counted and never reaches this hub's own functions; on L3 the root serves its
host. The model's choices in it: log entries 50 and 51. -/
def Obligations.ReceivedFrames : Prop :=
  ∀ (s : State) (f : RxFrame), shaped s = true → memoryWf s = true → s.pwr.st ≠ .dawn → hubRuns s = true →
    (∀ port, isRingPort port = true → linkUpOn s port = true → ringOn s = true →
      exec (.ringFrame port f) s = .next (dawnAdvance (ringPortFrame (countRx s port f.fcsOk) port f))) ∧
    (∀ port, isRingPort port = true → linkUpOn s port = true → ringOn s = true → f.fcsOk = true → f.src = ownMac s →
      (∀ b, f.body ≠ .rootBeacon b) → ∃ u, exec (.ringFrame port f) s = .next u ∧ SameBut [.regs] s u ∧
        RegsBut [LANE.RX_FRAMES (laneIdx port)] s u ∧
        rd u (LANE.RX_FRAMES (laneIdx port)) = rd s (LANE.RX_FRAMES (laneIdx port)) + 1) ∧
    (linkUpOn s .l2 = true → f.fcsOk = true →
      exec (.ringFrame .l2 f) s = .next (dawnAdvance (twinFrame (countRx s .l2 true) f.body))) ∧
    (linkUpOn s .l3 = true → f.fcsOk = true → s.ring.root = true →
      exec (.l3Frame f) s = .next (dawnAdvance (l3Root (countRx s .l3 true) f)))

/-- Sync messages (R46, R366, R372, R373, R388, R392, R395): the offset of an accepted Sync is o = t2 − t1 − c − d, with t2
captured in steps of 2^-6 ns and freed of the crossing and of the latency of its port (rxStamp); a Sync whose sequence is not
new is discarded and counted and steers nothing; a two-step Sync of the L3 master waits for its Follow_Up; after an update I =
I + Ki × o, with 16 × Ki in ACQUIRE. The model's choices in it: log entry 47. -/
def Obligations.SyncMessages : Prop :=
  ∀ s : State, shaped s = true → memoryWf s = true → s.pwr.st ≠ .dawn →
    (∀ (m : SyncMsg) d, (m.port = .l0 ∨ m.port = .l1) → domOfNumber s m.domain = some d → s.ring.root = false →
      m.source = s.ring.rootSerial → m.port = trackedPort s → s.pwr.warm.running = false →
      (seqNew (domOf s d).lastSeq m.seq = true → exec (.syncMessage m) s = .next (dawnAdvance
        (acceptSync s d m.seq (rxStamp s m.port m.rx - m.origin - m.corr - portDelay s m.port)))) ∧
      rxStamp s m.port m.rx = stampGrain m.rx - crossDelay s m.port false - ingLat s m.port ∧
      (seqNew (domOf s d).lastSeq m.seq = false → ∃ u, exec (.syncMessage m) s = .next u ∧ SameBut [.regs] s u ∧
        RegsBut [PTP.DISCARD d] s u)) ∧
    (∀ (m : SyncMsg) d a, m.port = .l3 → domOfNumber s m.domain = some d → s.ring.root = true → (domOf s d).l3 = 3 →
      (domOf s d).master = some a → a.source = m.source → m.twoStep = true →
      exec (.syncMessage m) s = .next (onDom s d (fun x => { x with twoStep := some m }))) ∧
    (∀ domain seq origin corr d m, s.ring.root = true → domOfNumber s domain = some d → (domOf s d).twoStep = some m →
      m.seq = seq → exec (.followUp domain seq origin corr) s = .next
        (takeSync (onDom s d (fun x => { x with twoStep := none })) d { m with origin := origin, corr := m.corr + corr })) ∧
    (∀ d o, ∃ u, servoUpdate s d o = u ∧ SameBut [.time] s u ∧
      u.time.i = s.time.i + rdf s (PTP.SERVO_KI d) 0 16 * (if (domOf s d).servo = .acquire then 16 else 1) * o)

/-- Delay messages (R388, R394, R397): a slave port on L3 asks and a master port answers; a ring port asks its neighbour and
answers it with its turnaround; a measurement enters the mean of the last 16 and PORT_DELAY of its port. The model's choices
in it: log entry 47. -/
def Obligations.DelayMessages : Prop :=
  ∀ s : State, shaped s = true → memoryWf s = true →
    (∀ domain d, s.ring.root = true → domOfNumber s domain = some d → (domOf s d).l3 = 3 →
      exec (.delayReq domain .send) s = .next (emitOwn (onDom s d (fun x => { x with
        reqSeq := (domOf s d).reqSeq + 1, reqSent := some (txStamp s .l3) })) .l3 ptpMac
          (.delayReq domain ((domOf s d).reqSeq + 1) s.serial))) ∧
    (∀ domain d seq requester rx, s.ring.root = true → domOfNumber s domain = some d → (domOf s d).l3 = 2 →
      exec (.delayReq domain (.answer seq requester rx)) s =
        .next (emitOwn s .l3 ptpMac (.delayResp domain seq requester (rxStamp s .l3 rx) 0))) ∧
    (∀ domain d seq rx corr t3 leg, s.ring.root = true → domOfNumber s domain = some d → (domOf s d).l3 = 3 →
      (domOf s d).reqSeq = seq → (domOf s d).reqSent = some t3 → (domOf s d).syncLeg = some leg →
      ∃ u m, exec (.delayResp domain seq rx corr) s = .next u ∧ SameBut [.time, .regs] s u ∧ RegsBut [TIME.PORT_DELAY 3] s u ∧
        m = (leg + (rx - corr - t3)) / 2 + asymOf s .l3 ∧ portDelay u .l3 = m ∧ rd u (TIME.PORT_DELAY 3) = delayWord m) ∧
    (∀ l, isRingPort l = true → linkUpOn s l = true →
      exec (.pdelayReq l .send) s = .next (emitOwn (onPort s l (fun p => { p with
        seq := (portOf s l).seq + 1, sent := some (txStamp s l) })) l pdelayMac (.pdelayReq ((portOf s l).seq + 1))) ∧
      (∀ seq r rx, exec (.pdelayReq l (.answer seq r rx)) s =
        .next (emitOwn s l pdelayMac (.pdelayResp seq (txStamp s l - rxStamp s l rx))))) ∧
    (∀ l seq corr rx t1, isRingPort l = true → (portOf s l).sent = some t1 → (portOf s l).seq = seq →
      (∃ u, exec (.pdelayResp l seq corr rx false) s = .next u ∧ SameBut [.time, .regs] s u ∧
        RegsBut [TIME.PORT_DELAY (laneIdx l)] s u ∧
        (portOf u l).meas = (((rxStamp s l rx - t1 - corr) / 2 + asymOf s l) :: (portOf s l).meas).take 16) ∧
      exec (.pdelayResp l seq corr rx true) s =
        .next (onPort s l (fun p => { p with waiting := some (seq, rxStamp s l rx - t1 - corr) }))) ∧
    (∀ l seq corr round, (portOf s l).waiting = some (seq, round) →
      exec (.pdelayRespFollowUp l seq corr) s = .next (pdelayMeasured s l (round - corr)))

/-- Masters and the servo's losses (R381 to R383, R385, R387, R388, R391, R400, R402): an Announce from L3 is noted, and the
best qualified foreign master becomes the master of its domain; an Announce of the root's is taken by a ring hub; its timeout
and the loss of the domain end the lock, or with auto_switch ask for the other domain; a holdover ends at its limit; the root
sends Sync and Announce; a change of the tracked domain waits for a Sync of the new one; the coarse counter takes hub time.
The model's choices in it: log entries 48 and 49. -/
def Obligations.MastersAndLosses : Prop :=
  ∀ s : State, shaped s = true → memoryWf s = true →
    (∀ (m : AnnounceMsg) d, s.ring.root = true → m.port = .l3 → domOfNumber s m.domain = some d → m.source ≠ s.serial → m.stepsRemoved < 255 →
      ∃ t, t = noteForeign s d m ∧ (∀ b, bestForeign t d = some b →
          exec (.announce m) s = .next (setL3 (setMaster t d b) d (bmcaState t d (some b)))) ∧
        (bestForeign t d = none → exec (.announce m) s = .next t)) ∧
    (∀ (m : AnnounceMsg) d, s.ring.root = false → (m.port = .l0 ∨ m.port = .l1) → m.source = s.ring.rootSerial →
      domOfNumber s m.domain = some d → exec (.announce m) s = .next (setMaster s d m)) ∧
    (∀ b, domEn s (b2n b) = true → s.ring.root = false → b2n b = trackedIdx s →
      (domOf s (b2n b)).servo = .locked → ∃ gone, gone = (domOf s (b2n b)).master.map (fun m => m.source) ∧
        exec (.announceTimeout b) s = .next (domainLost (onDom s (b2n b) (fun x => { x with
          master := none, foreign := x.foreign.filter (fun e => decide (some e.ann.source ≠ gone)) })))) ∧
    ((servo s = .locked ∨ servo s = .acquire) → (rdb s TIME.CFG 1 && shadowOk s) = false → ∃ u v,
      exec .domainLost s = .next u ∧ v = bumpSat s (PTP.SYNC_COUNT (trackedIdx s)) 16 16 3 ∧ u = domainLost v ∧
      u.time.f = holdF s ∧ (domOf u (trackedIdx s)).servo =
        if servo s = .locked then .holdover else if gmAble s then .grandmaster else .freerun) ∧
    ((servo s = .locked ∨ servo s = .acquire) → (rdb s TIME.CFG 1 && shadowOk s) = true → ∃ u,
      exec .domainLost s = .next u ∧ u.time.f = s.time.f ∧ u.time.switchTo = some (decide (trackedIdx s = 0)) ∧
      (domOf u (trackedIdx s)).servo = servo s) ∧
    (servo s = .holdover → ∃ u, exec .holdLimit s = .next u ∧ SameBut [.time, .regs] s u ∧
      servo u = if gmAble s then .grandmaster else .freerun) ∧
    (∀ b, sendsPtp s (b2n b) = true → (domOf s (b2n b)).l3 ≠ 2 →
      ∃ q m, q = (domOf s (b2n b)).syncSeq + 1 ∧
        m = (fun l : Lane => FrameBody.sync ⟨l, domNumber s (b2n b), q, s.serial, false, txStamp s l, 0, 0⟩) ∧
        exec (.rootSyncSend b) s = .next (ptpPair (onDom s (b2n b) (fun x => { x with syncSeq := q })) (m .l0) (m .l1))) ∧
    (∀ b, sendsPtp s (b2n b) = true → ∃ u v, exec (.rootAnnounceSend b) s = .next u ∧
      v = onDom s (b2n b) (fun x => { x with annSeq := x.annSeq + 1 }) ∧
      (u = ptpRing v (.announce (rootAnnounce v (b2n b) .l0)) ∨
        u = emitOwn (ptpRing v (.announce (rootAnnounce v (b2n b) .l0))) .l3 ptpMac
          (.announce (rootAnnounce (ptpRing v (.announce (rootAnnounce v (b2n b) .l0))) (b2n b) .l3)))) ∧
    (∀ p v, passes s p TIME.CFG → bit v 0 = s.time.tracked ∨ ((domOf s (1 - trackedIdx s)).servo = .locked ∧ shadowOk s = true) → ∃ u, exec (.domSel p v) s = .next u ∧
      SameBut [.regs, .time] s u ∧ RegsBut [TIME.CFG] s u ∧ rd u TIME.CFG = v &&& 7 ∧
      u.time = { s.time with switchTo := if bit v 0 = s.time.tracked then none else some (bit v 0) }) ∧
    (s.clk.xlp = true → s.clk.xtime = true → timePllOk s = true → hubOn s = true → exec .coarseRefresh s =
      .next { s with pwr := { s.pwr with coarse := some s.time.ht, coarseAge := 0 } })

/-- The grid start (R406, R407): the root names the next whole second; a hub that is locked, hears of it at least 100 ms
before and holds the same epoch waits for that index, and starts its grid at its tick edge, the first index after a warm reset
where none ran before it (RESUMED); another epoch sets EVT bit 6 only. The model's choices in it: log entry 49. -/
def Obligations.GridStart : Prop :=
  ∀ s : State, shaped s = true → memoryWf s = true →
    (s.ring.root = true → ∃ m : GridMsg, m.epoch = epoch s ∧
      m.index = ((s.time.ht / secLen + 1) * 10000000 + (2 ^ 64 - epoch s)) % 2 ^ 64 ∧
      exec .gridStartSend s = .next (gridStartHeard (sendRing s ctlMac (.gridStart m)) m)) ∧
    (∀ m : GridMsg, s.time.gridStarted = false →
      (m.epoch ≠ epoch s → exec (.gridStart m) s = .next (evt s pgTIME 6)) ∧
      (m.epoch = epoch s → servo s = .locked ∨ servo s = .grandmaster → s.time.slewing = false →
        s.time.ht + secLen / 10 ≤ (m.index + m.epoch) * tickLen →
        exec (.gridStart m) s = .next (onTime s (fun t => { t with gridAt := some m.index })))) ∧
    (∀ n, s.time.gridAt = some n → n ≤ now s → atTick s = true → s.pwr.warm.timeLost = false → s.pwr.st ≠ .dawn →
      ∃ u, exec .gridStartIndex s = .next u ∧ SameBut [.time, .regs, .chains, .pwr] s u ∧
        u.time = { s.time with gridStarted := true, gridAt := none, held := false } ∧ u.pwr = { s.pwr with resumeDue := false } ∧
        RegsBut [TIME.GRID_START_LO, TIME.GRID_START_LO + 4, hdr pgTIME Hdr.EVT, PWR.RESUMED_LO, PWR.RESUMED_LO + 4] s u ∧
        (s.pwr.resumeDue = true → rd u PWR.RESUMED_LO = word n ∧ rd u (PWR.RESUMED_LO + 4) = word (n / 2 ^ 32)) ∧
        rd u TIME.GRID_START_LO = word n ∧ rd u (TIME.GRID_START_LO + 4) = word (n / 2 ^ 32))

/-- Opening and closing of streams (R477 to R479, R490, R491): OPEN runs the checks of Table 11.1 in their order, books the
share and asks the root, or ends with ENOADDR on a hub without address; an admitted stream runs from its start index; CLOSE
releases the admission and lets the open quire complete; CLEAR returns an ended stream to IDLE with nothing stored. The
model's choices in it: log entry 53. -/
def Obligations.StreamOpening : Prop :=
  ∀ (s : State) (p : Path) (i : Nat), shaped s = true → memoryWf s = true → passes s p STRM.CTRL →
    (∀ r, openChk s i = some r →
      exec (.openStream p i) s = .next (evt (refuse s (some p) STRM.CTRL r) pgSTRM 1)) ∧
    (i < 64 → (strmOf s i).st = .idle → s.pwr.st ≠ .dusk → strmRate s i ≠ 0 → selOk s i = true →
      strmSource s i = 2 ∨ (selRate s i).1 * 65536 ≤ strmRate s i * (selRate s i).2 → shareUnits s i ≤ feltFree s → ∃ t : State,
      t = setSt (onStrm s i (fun x =>
        { share := shareUnits s i, units := (freeUnits s).take (shareUnits s i), adm := x.adm, sent := 0xFFFFFFFF, acked := 0xFFFFFFFF, ackAt := s.time.now })) i .requesting ∧
      (s.ring.address = none → exec (.openStream p i) s = .next (admResult t i s.adm.nextRequest 5)) ∧
      (s.ring.address ≠ none → ∃ u : State, exec (.openStream p i) s = .next (sendAdm u (requestOf u i s.adm.nextRequest false)) ∧
        SameBut [.adm] t u ∧ u.adm = { s.adm with
          nextRequest := (s.adm.nextRequest + 1) % 65536, waiting := s.adm.waiting ++ [(s.adm.nextRequest, i, s.time.now)] })) ∧
    (64 ≤ i → exec (.closeStream p i) s = .next (refuse s (some p) STRM.CTRL ⟨0x40, none⟩) ∧
      exec (.clearStream p i) s = .next (refuse s (some p) STRM.CTRL ⟨0x40, none⟩)) ∧
    (i < 64 →
      ((strmOf s i).st = .running ∨ (strmOf s i).st = .admitted → exec (.closeStream p i) s =
        .next (closingEnd (setSt (releaseAdm s i) i .closing) i)) ∧
      ((strmOf s i).st = .requesting → ∃ u, exec (.closeStream p i) s = .next u ∧ (strmOf u i).st = .idle ∧
        (strmOf u i).share = 0) ∧
      ((strmOf s i).st = .idle ∨ (strmOf s i).st = .closing ∨ (strmOf s i).st = .ended →
        exec (.closeStream p i) s = .next s) ∧
      ((strmOf s i).st = .ended → ∃ u, exec (.clearStream p i) s = .next u ∧ SameBut [.streams, .regs] s u ∧
        (strmOf u i).st = .idle ∧ (strmOf u i).share = 0 ∧ (strmOf u i).felt = [] ∧ (∀ o, o ≠ i → strmOf u o = strmOf s o) ∧
        RegsBut [STRM.STREAM_EVT_LO, STRM.STREAM_EVT_HI] s u) ∧
      ((strmOf s i).st ≠ .ended → exec (.clearStream p i) s = .next s)) ∧
    (∀ j : Fin 64, (strmOf s j).st = .admitted → (strmOf s j).start ≤ now s →
      ∃ u, exec (.streamStart j) s = .next u ∧ SameBut [.streams, .regs] s u ∧
        strmOf u j = { strmOf s j with st := .running } ∧ (∀ o, o ≠ j.val → strmOf u o = strmOf s o) ∧
        RegsBut [STRM.STREAM_EVT_LO, STRM.STREAM_EVT_HI] s u)

/-- Quires on their way (R53, R349, R461, R482 to R486, R489): the oldest closed quire reaches the Felt; the first unsent one
leaves where the admitted rate allows it, before one that is asked for again, which the retransmission meter of the hub holds
back; an acknowledgement frees what it covers, and one out of range is refused; RETX_AFTER asks for the oldest again; the hold
time ends the stream. The model's choices in it: log entries 53 and 78. -/
def Obligations.StreamDelivery : Prop :=
  ∀ (s : State) (i : Fin 64), shaped s = true → memoryWf s = true →
    (∀ h t, (strmOf s i).queue = h :: t → exec (.quireStored i []) s = .next (onStrm s i (fun x => { x with
      queue := t, felt := x.felt ++ [h] }))) ∧
    (∀ errs, exec (.quireStored i errs) s = .next (storeQuire s i errs)) ∧
    (∀ f errs, canSend s = true → (strmOf s i).felt.find? (fun f => f.first.isNone) = some f → mayPace s (strmOf s i) f = true →
      exec (.quireTransmit i errs) s = .next (sendQuire (feltErrors s i errs f).1 i (feltErrors s i errs f).2)) ∧
    (∀ f, (feltErrors s i [] f).2 = f) ∧
    (∀ f errs, canSend s = true → (∀ f ∈ (strmOf s i).felt, f.first.isNone = false) → (strmOf s i).queue = [] →
      (strmOf s i).felt.find? (·.again) = some f → s.adm.retxAt ≤ s.time.now →
      exec (.quireTransmit i errs) s = .next (sendQuire (feltErrors s i errs f).1 i (feltErrors s i errs f).2)) ∧
    (∀ m : AckMsg, s.ring.address = some m.hub → m.stream < 64 → exec (.acknowledgement m) s =
      .next (hostAck s m.stream m.a (if m.nackValid then some m.nackMap else none))) ∧
    (∀ p a, passes s p (STRM.SEQ_ACKED i) → exec (.seqAcked p i a) s = .next (hostAck s i a none)) ∧
    (∀ (a : Seq32) nack, ((strmOf s i).sent - (strmOf s i).acked).toNat < (a - (strmOf s i).acked).toNat →
      ∃ u, hostAck s i a nack = u ∧ SameBut [.regs] s u ∧ RegsBut [STRM.ACK_REFUSED, hdr pgSTRM Hdr.EVT] s u ∧
        rd u STRM.ACK_REFUSED = setFld (rd s STRM.ACK_REFUSED) 0 32 (min (rdf s STRM.ACK_REFUSED 0 32 + 1) (2 ^ 32 - 1))) ∧
    (∀ f t, (strmOf s i).felt = f :: t → f.first.isSome = true → ∃ u, exec (.retxAfter i) s = .next u ∧
      SameBut [.streams] s u ∧ (strmOf u i).felt = { f with again := true } :: t ∧ (strmOf u i).resent = true ∧
      ∀ o, o ≠ i.val → strmOf u o = strmOf s o) ∧
    ((strmOf s i).st = .running ∨ (strmOf s i).st = .closing → (strmOf s i).felt ≠ [] →
      exec (.tHoldExpiry i) s = .next (endSpills s i 1))

/-- Submission of commands (R495, R499): a path's OPCODE, SEQ and arguments are its own; the next sequence is accepted,
appends one NEW entry and steps the sequence; one of the last 256 is not repeated but selected; an older one and one ahead are
refused; an opcode that Table 11.5 does not have is refused. The model's choices in it: log entries 21 and 54. -/
def Obligations.CommandSubmission : Prop :=
  ∀ (s : State) (p : Path) (o : Nat) (seq : Seq32) (args : List Word), shaped s = true → memoryWf s = true →
    passes s p CMD.SUBMIT →
    ((exec (.cmdNop p seq args) s = .next (submitAs s p 0x01 seq args)) ∧
      (exec (.cmdTransfer p seq args) s = .next (submitAs s p 0x02 seq args)) ∧
      (exec (.cmdReamStore p seq args) s = .next (submitAs s p 0x10 seq args)) ∧
      (exec (.cmdCalStore p seq args) s = .next (submitAs s p 0x11 seq args)) ∧
      (exec (.cmdFuseWrite p seq args) s = .next (submitAs s p 0x12 seq args)) ∧
      (exec (.cmdZipJob p seq args) s = .next (submitAs s p 0x20 seq args)) ∧
      (exec (.cmdTableStage p seq args) s = .next (submitAs s p 0x21 seq args))) ∧
    (opcKnown (o % 256) = false → exec (.unknownOpcode p o seq) s = .next (submitAs s p o seq [])) ∧
    ∃ t : State, t = onPath s p (fun t => { t with
        cmdRegs := [word (o % 256), seq] ++ (List.range 8).map (fun i => args.getD i 0) }) ∧
      (seq = s.cmd.nextSeq → opcKnown (o % 256) = true → opcLevel (o % 256) ((List.range 8).map (fun i => args.getD i 0)) ≤ pathLevel t p →
        s.pwr.st ≠ .dusk → pendingCount s < 16 → ∃ u e, submitAs s p o seq args = u ∧ SameBut [.cmd, .host, .regs] s u ∧
          RegsBut [hdr pgCMD Hdr.EVT] s u ∧ u.cmd.nextSeq = seq + 1 ∧ e.seq = seq ∧ e.opcode = o % 256 ∧ e.st = .new ∧
          e.path = p ∧ u.cmd.journal = (s.cmd.journal ++ [e]).drop ((s.cmd.journal ++ [e]).length - 256)) ∧
      (seq = s.cmd.nextSeq → opcKnown (o % 256) = false → s.pwr.st ≠ .dusk → pendingCount s < 16 →
        submitAs s p o seq args = refuse t (some p) CMD.SUBMIT ⟨0x42, none⟩) ∧
      (seq ≠ s.cmd.nextSeq → (s.cmd.nextSeq - 1 - seq).toNat < 256 → submitAs s p o seq args = wr t CMD.JSEL seq) ∧
      (seq ≠ s.cmd.nextSeq → 256 ≤ (s.cmd.nextSeq - 1 - seq).toNat → (s.cmd.nextSeq - 1 - seq).toNat < 2 ^ 31 →
        submitAs s p o seq args = refuse t (some p) CMD.SUBMIT ⟨0x41, none⟩) ∧
      (seq ≠ s.cmd.nextSeq → 2 ^ 31 ≤ (s.cmd.nextSeq - 1 - seq).toNat →
        submitAs s p o seq args = refuse t (some p) CMD.SUBMIT ⟨0x40, some (s.cmd.nextSeq.toNat % 2 ^ 16)⟩)

/-- Execution of commands (R496 to R498, R596, R728, R731, R745, R757): one command at a time starts; a TRANSFER copies its
bytes as they stood and no other; a completed step of a persistent command is journalled; a job of the Zip stores its output
or is aborted; a table reaches its engine. The model's choices in it: log entries 54 and 63. -/
def Obligations.CommandExecution : Prop :=
  ∀ (s : State), memoryWf s = true →
    (∀ e, runningCmd s = none → nextCmd s = some e → cmdMayStart s e = true →
      exec .commandExecute s = .next (startCmd s e) ∧
      (e.opcode = 0x01 → startCmd s e = endCmd (onEntry s e.seq (fun x => { x with st := .started }))
        { e with st := .started } .done 0 0)) ∧
    (∀ e, runningOp s 0x02 = some e → inTable s (trDst e) (trLen e) = true →
      ∃ u, exec .transferDone s = .next u ∧ SameBut [.vat, .cmd, .regs, .changes, .freeCtr] s u ∧
        (∀ j, j < trLen e → vatByte u (trDst e + j) = vatByte s (trSrc e + j)) ∧
        ∀ a, a < trDst e ∨ trDst e + trLen e ≤ a → vatByte u a = vatByte s a) ∧
    (∀ e ok, runningCmd s = some e → e.persistent = true → exec (.persistentStepDone ok) s = .next (stepDone s e ok)) ∧
    (∀ e, runningOp s 0x21 = some e → ∃ t : State, exec .tableStageDone s = .next (endCmd (tableEvent t (tsEng e)) e .done 0 0) ∧
      (tsKeep e = false → t = stageCopy s (tsEng e) (tsSrc e) (tsDst e) (tsLen e)) ∧
      (tsKeep e = true → t = onEng (stageCopy s (tsEng e) (tsSrc e) (tsDst e) (tsLen e)) (tsEng e) (fun x => { x with
        staging := (x.staging ++ [(⟨tsSrc e, tsDst e, tsLen e⟩ : Staged)]).take 16 }))) ∧
    (∀ e lost, runningOp s 0x20 = some e → exec (.zipJobDone lost) s = .next (zipFinish s e lost)) ∧
    (∀ e, runningOp s 0x20 = some e → zipStreamRuns s e = true → zipPaced s e = false → zStream e = false →
      (zipRun s e).code ≠ ZErr.OUTFULL → (zipRun s e).code ≠ ZErr.ECC → ∃ t : State, exec (.zipJobDone none) s = .next (zipEnd t e (zipRun s e).code) ∧
        t = wr (wr (wr (vatPutBytes s (zArg e 2) ((zipRun s e).out.map (fun b => BitVec.ofNat 8 b))) ZIP.IN_USED
          (word (zipRun s e).used)) ZIP.OUT_LEN (word (zipRun s e).out.length)) ZIP.CHECK (word (zipRun s e).check)) ∧
    (∀ p e, passes s p ZIP.CTRL → runningOp s 0x20 = some e →
      exec (.abortJob p) s = .next (zipEnd (zipCut s e) e ZErr.ABORT)) ∧
    (∀ p, passes s p ZIP.CTRL → runningOp s 0x20 = none → exec (.abortJob p) s = .next s)

/-- Reams (R517 to R519, R524, R529, R530, R533 to R535): arming sets the ream's area, its start index and PREFILL; DISARM
stops it, CLEAR returns a DONE or STOPPED ream to IDLE and is refused with BUSY otherwise; a trigger in WAITING is taken or
becomes the candidate, one in POST and one stamped before the end of a hold-off by time are counted as ignored; the best
candidate is taken at n_c + W. The model's choices in it: log entry 55. -/
def Obligations.ReamCommands : Prop :=
  ∀ (s : State) (p : Path) (r : Fin 16), shaped s = true → memoryWf s = true →
    (passes s p CAPT.CTRL → armChk s r none = none ∨ ((reamOf s r).st = .idle ∧ s.pwr.st ≠ .dusk ∧ reamChans s r ≠ [] ∧
      (∀ ch ∈ reamChans s r, ∃ x, chanRate s ch = some x ∧ x.1 * (reamRate s r).2 = (reamRate s r).1 * x.2) ∧
      reamUnits s r ≤ reamFree s ∧ reamPlace s (reamUnits s r) ≠ none ∧ (rmPre s r ≠ 0 ∨ rmPost s r ≠ 0) ∧
      rmKind s r = 0 ∧ rmRing s r = false ∧ rmSpill s r = false ∧ rmMaskLen s r = 0) →
      ∃ t : State, exec (.arm p r) s = .next (reamStart t r) ∧
      SameBut [.reams, .regs] s t ∧ (reamOf t r).st = .prefill ∧ (reamOf t r).armIdx = now s + 1 ∧
      (reamOf t r).size = reamUnits s r ∧ ∀ o, o ≠ r.val → reamOf t o = reamOf s o) ∧
    (passes s p CAPT.CTRL → armChk s r (some (rd64 s CAPT.ARM_AT_LO)) = none ∨ (gridValid s = true ∧
      now s + 1 < rd64 s CAPT.ARM_AT_LO ∧ (reamOf s r).st = .idle ∧ s.pwr.st ≠ .dusk ∧ reamChans s r ≠ [] ∧
      (∀ ch ∈ reamChans s r, ∃ x, chanRate s ch = some x ∧ x.1 * (reamRate s r).2 = (reamRate s r).1 * x.2) ∧
      reamUnits s r ≤ reamFree s ∧ reamPlace s (reamUnits s r) ≠ none ∧ (rmPre s r ≠ 0 ∨ rmPost s r ≠ 0) ∧
      rmKind s r = 0 ∧ rmRing s r = false ∧ rmSpill s r = false ∧ rmMaskLen s r = 0) → ∃ t : State,
      exec (.armAt p r) s = .next t ∧ SameBut [.reams, .regs] s t ∧ (reamOf t r).st = .prefill ∧
      (reamOf t r).armIdx = rd64 s CAPT.ARM_AT_LO ∧ ∀ o, o ≠ r.val → reamOf t o = reamOf s o) ∧
    ((reamOf s r).st = .prefill → (reamOf s r).armIdx ≤ now s → (reamOf s r).started = false →
      exec (.armAtReached r) s = .next (reamStart s r)) ∧
    (passes s p CAPT.CTRL → reamArmed (reamOf s r) = true → exec (.disarm p r) s = .next (stopReam s r 1) ∧
      (reamOf (stopReam s r 1) r).st = .stopped ∧ (reamOf (stopReam s r 1) r).cause = 1) ∧
    (passes s p CAPT.CTRL → (reamOf s r).st = .done ∨ (reamOf s r).st = .stopped → ∃ u, exec (.reamClear p r) s = .next u ∧
      SameBut [.reams, .regs] s u ∧ reamOf u r = { st := .idle } ∧ ∀ o, o ≠ r.val → reamOf u o = reamOf s o) ∧
    (passes s p CAPT.CTRL → (reamOf s r).st ≠ .done → (reamOf s r).st ≠ .stopped →
      exec (.reamClear p r) s = .next (refuse s (some p) CAPT.CTRL ⟨Rsn.BUSY, none⟩)) ∧
    (passes s p CAPT.CTRL →
      ((reamOf s r).st = .waiting → tooEarly s r (now s + 1) = true →
        exec (.hostTrigger p r) s = .next (bumpSat s CAPT.TRIG_IGNORED 0 32 1)) ∧
      ((reamOf s r).st = .waiting → tooEarly s r (now s + 1) = false → exec (.hostTrigger p r) s = .next (candidate
        (sendTrigger s r { localCand s r (now s + 1) 10 0 with pref := 2 }) r { localCand s r (now s + 1) 10 0 with pref := 2 })) ∧
      ((reamOf s r).st = .post → exec (.hostTrigger p r) s = .next (bumpSat s CAPT.TRIG_IGNORED 0 32 1)) ∧
      (reamArmed (reamOf s r) = false → exec (.hostTrigger p r) s = .next s)) ∧
    (∀ c, rmRing s r = false → candidate s r c = takeTrigger s r c) ∧
    (∀ c, (reamOf s r).st = .waiting → (reamOf s r).cand = some c → c.idx + ringWindow s ≤ now s →
      exec (.triggerDecision r) s = .next (takeTrigger s r c)) ∧
    ((reamOf s r).st = .waiting → rdf s (CAPT.RM_AUTO r) 0 16 ≠ 0 →
      (reamOf s r).waitIdx + rdf s (CAPT.RM_AUTO r) 0 16 * 10000 ≤ now s → exec (.autoTrigger r) s = .next (candidate s r
        { localCand s r ((reamOf s r).waitIdx + rdf s (CAPT.RM_AUTO r) 0 16 * 10000) 9 0 with pref := 3 })) ∧
    ((reamOf s r).st = .holdoff → holdEnd s r ≤ now s → rmHoldEvents s r = false → ∃ u, exec (.holdoffEnd r) s = .next u ∧
      SameBut [.reams, .regs] s u ∧ (reamOf u r).st = .waiting ∧ (reamOf u r).waitIdx = holdEnd s r ∧
      ∀ o, o ≠ r.val → reamOf u o = reamOf s o)

/-- Segments and ring triggers (R516, R528 to R530, Table 12.1): the header of the oldest complete segment is written; a ring
trigger reaches the ring-wide reams of its group; for the segment before, an earlier index is counted late, another is counted
stale, and one of a segment still to come is left alone. The model's choices in it: log entry 55. -/
def Obligations.SegmentsAndRingTriggers : Prop :=
  ∀ s : State, shaped s = true → memoryWf s = true →
    (∀ (r : Fin 16) g t, (reamOf s r).headers = g :: t → ∃ u x, exec (.segmentDone r []) s = .next u ∧
      x = onReam s r (fun y => { y with headers := t }) ∧ u = writeHeader x r g ∧
      SameBut [.reams, .regs, .vat] s u ∧ (reamOf u r).segLast = g.number ∧
      (reamOf u r).segDone = min 65535 ((reamOf s r).segDone + 1) ∧ RegsBut [hdr pgCAPT Hdr.EVT] s u) ∧
    (∀ t, exec (.ringTrigger t) s = .next (ringTriggered s t)) ∧
    (∀ t, (∀ r, r < 16 → rmRing s r = false ∨ (reamOf s r).st = .idle ∨ fld (rmCfg s r) 8 8 ≠ t.group) →
      exec (.ringTrigger t) s = .next s) ∧
    (∀ (r : Fin 16) t, (reamOf s r).st = .waiting → t.segment = (reamOf s r).decided →
      ringTriggerFor s r t = candidate s r ⟨t.index, 8, t.hub, t.ream, 1, 0⟩) ∧
    (∀ (r : Fin 16) t, (reamOf s r).st = .waiting → (reamOf s r).decided < t.segment → ringTriggerFor s r t = s) ∧
    (∀ (r : Fin 16) t, (reamOf s r).st ≠ .waiting ∨ t.segment < (reamOf s r).decided →
      t.segment + 1 ≠ (reamOf s r).decided ∨ (reamOf s r).trigIdx ≤ t.index →
      ringTriggerFor s r t = bumpSat s CAPT.RING_STAT 0 16 1)

/-- Scalar instructions (R545, R547, R578, R584, Table 13.6): NOP, the immediates, the integer arithmetic modulo 2³², the
shifts by the immediate modulo 32, SGET and LMASK leave the context that the rule says, S0 keeps 0 as the destination, and
nothing else changes. The model's choices in it: log entry 56. -/
def Obligations.EngineScalar : Prop :=
  ∀ (s : State) (k : Fin 12) (d a b : Fin 16), shaped s = true →
    Issues s k (.nopInstruction k) [] 1 id ∧
    (∀ imm, Issues s k (.sli k d imm) [] 1 (fun c => setS c d (imm.signExtend 32))) ∧
    (∀ imm, Issues s k (.slih k d imm) [] 1 (fun c => setS c d (imm.zeroExtend 32 <<< 16))) ∧
    Issues s k (.sadd k d a b) [.s a, .s b] 1 (fun c => setS c d (sOf c a + sOf c b)) ∧
    Issues s k (.ssub k d a b) [.s a, .s b] 1 (fun c => setS c d (sOf c a - sOf c b)) ∧
    Issues s k (.sand k d a b) [.s a, .s b] 1 (fun c => setS c d (sOf c a &&& sOf c b)) ∧
    Issues s k (.sor k d a b) [.s a, .s b] 1 (fun c => setS c d (sOf c a ||| sOf c b)) ∧
    Issues s k (.smul k d a b) [.s a, .s b] 1 (fun c => setS c d (sOf c a * sOf c b)) ∧
    (∀ imm, Issues s k (.saddi k d a imm) [.s a] 1 (fun c => setS c d (sOf c a + imm.signExtend 32))) ∧
    (∀ imm, Issues s k (.sshl k d a imm) [.s a] 1 (fun c => setS c d (sOf c a <<< (imm.toNat % 32)))) ∧
    (∀ imm, Issues s k (.sshr k d a imm) [.s a] 1 (fun c => setS c d ((sOf c a).sshiftRight (imm.toNat % 32)))) ∧
    (∀ sel, Issues s k (.sget k d sel) [] 1 (fun c => setS c d (sgetValue s k { c with
      pc := (c.pc + 1) % 2 ^ 15, free := issueCycle c [] + 1 } (issueCycle c []) sel.toNat))) ∧
    (∀ imm : BitVec 10, imm.toNat / 16 % 4 = 0 → Issues s k (.lmask k imm) [] 1 (fun c => { c with m := imm.truncate 4 })) ∧
    (∀ imm : BitVec 10, imm.toNat / 16 % 4 = 1 → Issues s k (.lmask k imm) [.p] 1 (fun c => { c with m := c.p })) ∧
    (∀ imm : BitVec 10, imm.toNat / 16 % 4 = 2 → Issues s k (.lmask k imm) [.p] 1 (fun c => { c with m := ~~~c.p })) ∧
    (∀ imm : BitVec 10, imm.toNat / 16 % 4 = 3 → Issues s k (.lmask k imm) [.p, .m] 1 (fun c => { c with m := c.m &&& c.p })) ∧
    (∀ c w, (setS c 0 w) = c)

/-- Vector instructions on registers (R550 to R555, Table 13.6), with the engine's overflow fault off: each masked one packs
the exact lane values under M, and the others leave the masks, accumulators and predicates that the rule says. The model's
choices in it: log entry 56. -/
def Obligations.EngineVector : Prop :=
  ∀ (s : State) (k : Fin 12) (d a b x : Fin 16), shaped s = true → rdb s (AE.CFG k) 0 = false →
    Issues s k (.vsplat k d a) [.m, .s a] 1 (fun c => setV c d c.m (List.replicate 4 (Frac.ofInt (sOf c a).toInt))) ∧
    Issues s k (.vadd k d a b) [.m, .v a, .v b] 1 (fun c =>
      setV c d c.m (List.zipWith Frac.add (laneVals (vOf c a)) (laneVals (vOf c b)))) ∧
    Issues s k (.vsub k d a b) [.m, .v a, .v b] 1 (fun c =>
      setV c d c.m (List.zipWith Frac.sub (laneVals (vOf c a)) (laneVals (vOf c b)))) ∧
    Issues s k (.vmul k d a b) [.m, .v a, .v b] 1 (fun c =>
      setV c d c.m (List.zipWith Frac.mul (laneVals (vOf c a)) (laneVals (vOf c b)))) ∧
    (∀ neg, d.val ≤ 3 → Issues s k (.vmac k d a b neg) [.v a, .v b, .c d, .m] 1 (fun c => { c with
      acc := c.acc.set d (macLanes c d a b neg).1, ovf := c.ovf ||| laneBits (macLanes c d a b neg).2 })) ∧
    (∀ e : BitVec 8, d.val ≤ 3 → Issues s k (.aclr k d e) [] 1 (fun c => { c with acc := c.acc.set d ⟨[0, 0, 0, 0], e.toInt⟩ })) ∧
    (a.val ≤ 3 → Issues s k (.vmova k d a) [.a a, .m] 1 (fun c => setV c d c.m (accVals (aOf c a)))) ∧
    Issues s k (.vclamp k d a b x) [.m, .v a, .v b, .v x] 1 (fun c => setV c d c.m
      (List.zipWith Frac.min (List.zipWith Frac.max (laneVals (vOf c a)) (laneVals (vOf c b))) (laneVals (vOf c x)))) ∧
    Issues s k (.vneg k d a) [.m, .v a] 1 (fun c => setV c d c.m ((laneVals (vOf c a)).map Frac.neg)) ∧
    Issues s k (.vabs k d a) [.m, .v a] 1 (fun c => setV c d c.m ((laneVals (vOf c a)).map Frac.abs)) ∧
    (∀ e : BitVec 8, Issues s k (.vscl k d a e) [.m, .v a] 1 (fun c =>
      setV c d c.m ((laneVals (vOf c a)).map (fun y => y.scale e.toInt)))) ∧
    Issues s k (.vmov k d a) [.m, .v a] 1 (fun c => setV c d c.m ((laneVals (vOf c a)).map id)) ∧
    (∀ j : Fin 4, Issues s k (.vbc k d a j) [.m, .v a] 1 (fun c =>
      setV c d c.m (List.replicate 4 ((laneVals (vOf c a)).getD j Frac.zero)))) ∧
    (∀ cond : Fin 8, cond.val ≤ 5 → Issues s k (.vcmp k a b cond) [.v a, .v b] 1 (fun c => { c with
      p := laneBits (List.zipWith (vcmpHolds cond) (laneVals (vOf c a)) (laneVals (vOf c b))) })) ∧
    Issues s k (.vsel k d a b) [.m, .v a, .v b, .p] 1 (fun c => setV c d c.m ((List.range 4).map (fun i =>
      (laneVals (vOf c (if c.p.getLsbD i then a else b))).getD i Frac.zero))) ∧
    (∀ imm : BitVec 10, Issues s k (.vtst k imm) [.t] 1 (fun c => { c with p := laneBits ((List.range 4).map (fun i =>
      decide (c.tag.getD i 0 &&& imm.truncate 8 ≠ 0) || (imm.getLsbD 8 && c.nd.getLsbD i))) })) ∧
    Issues s k (.norm k d) [.v d] 1 (fun c => setV c d 15 (laneVals (vOf c d)))

/-- Loads and stores (R555, R556, R566, R578, R579, R581): without an access fault a load puts the words at its lane addresses
into the active lanes and a store writes them to local memory, and no other word of it; a fault of the access faults the
engine. The model's choices in it: log entries 24 and 56. -/
def Obligations.EngineMemory : Prop :=
  ∀ (s : State) (k : Fin 12) (m : MemOp) (c : EngCtx), shaped s = true → rdb s (AE.CFG k) 0 = false →
    (canIssue s k [.s m.a] c → accessFault (engOf s k) engReads true (sOf c m.a).toNat [(sOf c m.a).toNat + 4 * m.off.toNat] = none →
      GoesOnWith s k (.sld k m) [.s m.a] 1 c
        (setS c m.d (engWord (engOf s k) c.block ((sOf c m.a).toNat + 4 * m.off.toNat)))) ∧
    (∀ f : Nat × Nat, canIssue s k [.s m.a] c →
      accessFault (engOf s k) engReads true (sOf c m.a).toNat [(sOf c m.a).toNat + 4 * m.off.toNat] = some f →
      exec (.sld k m) s = .next (engFault s k f.1 c.pc f.2)) ∧
    (canIssue s k [.s m.a, .s m.d] c →
      accessFault (engOf s k) engWrites false (sOf c m.a).toNat [(sOf c m.a).toNat + 4 * m.off.toNat] = none →
      ∃ u, exec (.sst k m) s = .next u ∧ SameBut [.engines] s u ∧ (∀ o, o ≠ k.val → engOf u o = engOf s o) ∧
        (engOf u k).sram = (sramWrite (engOf s k) ((sOf c m.a).toNat + 4 * m.off.toNat) (sOf c m.d)).sram) ∧
    ∀ as, as = laneAddrs c (sOf c m.a).toNat m.off.toNat m.st →
      (canIssue s k [.s m.a, .m] c → accessFault (engOf s k) engReads true (sOf c m.a).toNat (as.map (·.2)) = none →
        GoesOnWith s k (.vld k m) [.s m.a, .m] 1 c
          (setV c m.d c.m (gather as (fun q => bfpVal (engWord (engOf s k) c.block q)))) ∧
        GoesOnWith s k (.vldi k m) [.s m.a, .m] 1 c
          (setV c m.d c.m (gather as (fun q => Frac.ofInt (engWord (engOf s k) c.block q).toInt))) ∧
        ∃ u, exec (.vldr k m) s = .next u ∧ SameBut [.engines] s u ∧ (∀ o, o ≠ k.val → engOf u o = engOf s o)) ∧
      (canIssue s k [.s m.a, .v m.d, .m] c → accessFault (engOf s k) engWrites false (sOf c m.a).toNat (as.map (·.2)) = none →
        ∃ u, exec (.vst k m) s = .next u ∧ SameBut [.engines] s u ∧ (∀ o, o ≠ k.val → engOf u o = engOf s o) ∧
          (engOf u k).sram = (as.foldl (fun e q => sramWrite e q.2
            (bfpWord ((laneVals (vOf c m.d)).getD q.1 Frac.zero)).1) (engOf s k)).sram) ∧
      (canIssue s k [.s m.a, .v m.d, .v (m.d.val + 1), .m] c → m.d.val % 2 = 0 →
        accessFault (engOf s k) engPorts false (sOf c m.a).toNat (as.map (·.2)) = none → as = [] →
        GoesOnWith s k (.vste k m) [.s m.a, .v m.d, .v (m.d.val + 1), .m] 1 c c) ∧
      (canIssue s k [.s m.a, .v m.d, .v (m.d.val + 1), .m] c → m.d.val % 2 = 0 →
        accessFault (engOf s k) engPorts false (sOf c m.a).toNat (as.map (·.2)) = none →
        ∃ u, exec (.vste k m) s = .next u ∧ SameBut (footprint (.vste k m)) s u)

/-- Flow and stages of an engine (R546, R571, R572, R574, R578, R580, R581, R584): BR goes to its target where its condition
holds and on otherwise; SIGNAL sets the user event; STOP ends the stage, an unknown opcode and LIMIT fault the engine; the
first pending event starts the next stage; VLDD and VTAB put what their rules say into the active lanes. The model's choices
in it: log entries 15, 56 and 57. -/
def Obligations.EngineFlow : Prop :=
  ∀ (s : State) (k : Fin 12) (c : EngCtx), shaped s = true → rdb s (AE.CFG k) 0 = false →
    (∀ (a : Fin 16) target, canIssue s k [] c → ∃ u c', exec (.br k 0 a target) s = .next u ∧ SameBut [.engines] s u ∧
      (engOf u k).stage = some c' ∧ c'.pc = target.toNat ∧ c'.free = issueCycle c [] + 3 ∧ c'.s = c.s ∧ c'.v = c.v) ∧
    (∀ (cond a : Fin 16) target, 1 ≤ cond.val → cond.val ≤ 4 → canIssue s k [.s a] c → ∃ u c', exec (.br k cond a target) s = .next u ∧
      SameBut [.engines] s u ∧ (engOf u k).stage = some c' ∧
      c'.pc = if brTaken c cond a then target.toNat else (c.pc + 1) % 2 ^ 15) ∧
    (∀ (cond a : Fin 16) target, 5 ≤ cond.val → cond.val ≤ 6 → canIssue s k [.p] c → ∃ u c', exec (.br k cond a target) s = .next u ∧
      SameBut [.engines] s u ∧ (engOf u k).stage = some c' ∧
      c'.pc = if brTaken c cond a then target.toNat else (c.pc + 1) % 2 ^ 15) ∧
    (canIssue s k [] c → ∃ u v, exec (.signal k) s = .next (evt u (pgAE k) 7) ∧ SameBut [.engines] s u ∧
      engOf u k = { engOf s k with stage := some v } ∧ v.s = c.s ∧ v.pc = (c.pc + 1) % 2 ^ 15) ∧
    (canIssue s k [] c → exec (.illegal k) s = .next (engFault s k EngCause.ILLEGAL c.pc 0)) ∧
    ((engOf s k).stage = some c →
      exec (.limit k) s = .next (engFault s k EngCause.LIMIT c.pc 0) ∧
      (c.free + 3 < rdf s (AE.LIMIT k) 0 16 → 4 * c.pc ∉ (engOf s k).bad → exec (.stop k) s =
        .next (endStage s k c.event (c.free + 4) c.lastEdge c.ovf c.unf c.nodata))) ∧
    (∀ ev, (engOf s k).run = .running → (engOf s k).stage = none → pastStart s k = true → nextEvent s k = some ev →
      (0x4000 ≤ fld (vectOf s k ev) 0 15 → exec (.stageStart k) s = .next (kernelStage (onEng s k (fun e => { e with
        events := e.events &&& ~~~(BitVec.ofNat 6 (2 ^ ev)) })) k ev)) ∧
      (fld (vectOf s k ev) 0 15 < 0x4000 → ∃ u, exec (.stageStart k) s = .next u ∧ SameBut [.engines] s u ∧
        (∀ o, o ≠ k.val → engOf u o = engOf s o) ∧ engOf u k = { engOf s k with
          events := (engOf s k).events &&& ~~~(BitVec.ofNat 6 (2 ^ ev))
          stage := some { event := ev, pc := fld (vectOf s k ev) 0 15, role := twinRole s k (engOf s k).block.idx
                          block := (engOf s k).block } })) ∧
    (∀ (d a b : Fin 16) (st : Fin 4), canIssue s k [.s a, .s b, .m] c →
      accessFault (engOf s k) engReads true (sOf c a).toNat ((laneAddrs c (sOf c a).toNat 0 st).map (·.2)) = none →
      accessFault (engOf s k) engReads true (sOf c b).toNat ((laneAddrs c (sOf c b).toNat 0 st).map (·.2)) = none →
      GoesOnWith s k (.vldd k d a b st) [.s a, .s b, .m] 1 c (setV c d c.m ((List.range 4).map (fun i =>
        Frac.ofInt (engWord (engOf s k) c.block ((sOf c a).toNat + i * strideOf st) -
          engWord (engOf s k) c.block ((sOf c b).toNat + i * strideOf st)).toInt)))) ∧
    (∀ (d a b x : Fin 16) (interp : Bool) adr, canIssue s k [.v a, .s b, .s x, .m] c → 0 < (sOf c x).toNat →
      (sOf c x).toNat ≤ 16384 →
      adr = (fun i => tabAddrs ((laneVals (vOf c a)).getD i Frac.zero) (sOf c x).toNat (sOf c b).toNat i interp) →
      accessFault (engOf s k) inTables true (sOf c b).toNat ((activeLanes c).flatMap adr) = none →
      GoesOnWith s k (.vtab k d a b x interp) [.v a, .s b, .s x, .m] 2 c (setV c d c.m ((List.range 4).map (fun i =>
        tabValue ((laneVals (vOf c a)).getD i Frac.zero) ((adr i).map (fun q => bfpVal (engWord (engOf s k) c.block q)))))))

/-- The host's control of an engine (R563, R570, R587, R589 to R593, R597): RUN, HALT, CLEAR_FAULT, DOORBELL and the staging
list, each with its refusal; scrubbing counts what it finds, and an uncorrectable program word faults the engine. The model's
choices in it: log entry 56. -/
def Obligations.EngineControl : Prop :=
  ∀ (s : State) (p : Path) (k : Fin 12), shaped s = true → memoryWf s = true →
    (passes s p (AE.CTRL k) →
      ((engOf s k).run = .halted → ∃ u, exec (.runEngine p k) s = .next u ∧ SameBut [.engines, .regs] s u ∧
        (engOf u k).run = .running ∧ (engOf u k).startIdx = now s ∧ (∀ o, o ≠ k.val → engOf u o = engOf s o) ∧
        RegsBut [AE.PROG_CRC k, AE.CYCLES k, AE.OCCUPANCY k] s u ∧ rd u (AE.PROG_CRC k) = progCrc (engOf s k)) ∧
      ((engOf s k).run = .fault → exec (.runEngine p k) s = .next (refuse s (some p) (AE.CTRL k) ⟨Rsn.BUSY, none⟩)) ∧
      (engSlots s k ≠ 0 → exec (.haltEngine p k) s = .next (refuse s (some p) (AE.CTRL k) ⟨0x41, none⟩) ∧
        exec (.clearFault p k) s = .next (refuse s (some p) (AE.CTRL k) ⟨0x41, none⟩)) ∧
      (engSlots s k = 0 → (engOf s k).run = .running →
        ((engOf s k).stage = none → ∃ u, exec (.haltEngine p k) s = .next u ∧ SameBut [.engines] s u ∧
          (engOf u k).run = .halted ∧ ∀ o, o ≠ k.val → engOf u o = engOf s o) ∧
        ((engOf s k).stage ≠ none → exec (.haltEngine p k) s = .next (onEng s k (fun e => { e with haltReq := true })))) ∧
      (engSlots s k = 0 → (engOf s k).run = .fault → exec (.clearFault p k) s =
        .next (clearBlock (onEng s k (fun e => { e with run := .halted, cause := 0 })))) ∧
      exec (.doorbell p k) s = .next (raiseEvent s k 4) ∧
      (∃ u, exec (.clearStagingList p k) s = .next u ∧ SameBut [.engines] s u ∧ (engOf u k).staging = [] ∧
        ∀ o, o ≠ k.val → engOf u o = engOf s o)) ∧
    (∀ e, e < 6 → (engOf s k).run = .running → bit (vectOf s k e) 15 = true → (engOf s k).events.getLsbD e = false →
      raiseEvent s k e = onEng s k (fun x => { x with events := x.events ||| BitVec.ofNat 6 (2 ^ e) })) ∧
    (0 < (engOf s k).replay → ∃ t, exec (.stagingReplayDone k) s = .next (onEng t k (fun e => { e with replay := 0 })) ∧
      t = (engOf s k).staging.foldl (fun s g => stageCopy s k g.src g.dst g.len) s) ∧
    (∀ addr, addr / 4 * 4 < 0x60000 →
      exec (.sramScrub k addr false) s = .next (bumpSat (evt s (pgAE k) 5) (AE.ECC_STAT k) 0 16 1) ∧
      (addr / 4 * 4 < 0x10000 → (engOf s k).bad.contains (addr / 4 * 4) = false →
        exec (.sramScrub k addr true) s = .next (engFault (onEng (bumpSat (evt s (pgAE k) 5) (AE.ECC_STAT k) 16 16 1) k
          (fun e => { e with bad := addr / 4 * 4 :: e.bad })) k EngCause.ECC_PROG (addr / 4 * 4 / 4) 0)))

/-- Edge channels (R644 to R656, R662): with edge records off, an edge at A in QUAD counts by one in the direction the levels
give and an edge too close sets QUAD_ERR; INTERVAL measures from its start to its stop and ends at its timeout; an SSI
transfer starts, is skipped while one runs, and its word becomes the count; a position record is delivered; an interpolator
table that fails sets its flag and leaves the table in use; the controls set what they name. The model's choices in it: log
entries 1, 59 and 60. -/
def Obligations.EdgeChannels : Prop :=
  ∀ (s : State) (p : Path) (ch : Fin 64), shaped s = true → memoryWf s = true →
    (∀ e : EncEdge, chMode s ch = 1 → chRec s ch ≠ 2 → e.input.val = 0 → e.together = false →
      tooClose (edgeOf s ch) 0 (edgeStamp s ch e) = false →
      ∃ u up, exec (.encEdge ch e) s = .next u ∧ SameBut [.edges] s u ∧
        up = ((e.level != bit (chCfg s ch) 8) != (e.b != bit (chCfg s ch) 9)) ∧
        (edgeOf u ch).count = (if up then (edgeOf s ch).count + 1 else (edgeOf s ch).count - 1) ∧ (edgeOf u ch).up = up ∧
        ∀ o, o ≠ ch.val → edgeOf u o = edgeOf s o) ∧
    (∀ e : EncEdge, chMode s ch = 1 → chRec s ch ≠ 2 → e.input.val ≠ 2 →
      (e.together = true ∨ tooClose (edgeOf s ch) e.input (edgeStamp s ch e) = true) → exec (.encEdge ch e) s =
        .next (edgeError (onEdge s ch (fun x => { x with phaseAt := x.phaseAt.set e.input (some (edgeStamp s ch e)) })) ch true)) ∧
    (∀ (e : EncEdge) t0, chMode s ch = 3 → chRec s ch ≠ 2 → chRec s ch ≠ 3 → e.input.val = 1 →
      (e.level != bit (chCfg s ch) 9) = true → (edgeOf s ch).start = some t0 → ∃ u, exec (.encEdge ch e) s = .next u ∧
        SameBut [.edges] s u ∧ (edgeOf u ch).interval = edgeStamp s ch e - t0 ∧
        (edgeOf u ch).start = none ∧ (edgeOf u ch).count = (edgeOf s ch).count + 1) ∧
    (chMode s ch = 0 → ∀ e, exec (.encEdge ch e) s = .next s) ∧
    (∀ t0, chMode s ch = 3 → (edgeOf s ch).start = some t0 →
      (t0 + rdf s (EDGE.CH_TMO (ch / 8) (ch % 8)) 0 24 * stampTick < tickStamp s (now s + 1) → exec (.intervalTimeout ch) s =
        .next (evt (endInterval s ch none .sound) (pgEDGE (ch / 8)) (8 + ch % 8))) ∧
      (tickStamp s (now s + 1) ≤ t0 + rdf s (EDGE.CH_TMO (ch / 8) (ch % 8)) 0 24 * stampTick →
        exec (.intervalTimeout ch) s = .next s)) ∧
    (chMode s ch = 4 → 0 < rdf s (EDGE.CH_SSI_T (ch / 8) (ch % 8)) 0 16 →
      now s % rdf s (EDGE.CH_SSI_T (ch / 8) (ch % 8)) 0 16 = 0 → ∃ t : State,
      t = onGc s (fld (chSsi s ch) 8 8) (if drivesHub s then driveBall true else releaseBall) ∧
      ((edgeOf s ch).ssi = none → exec (.ssiTransfer ch) s = .next (onEdge t ch (fun e => { e with ssi := some (now s) }))) ∧
      ((edgeOf s ch).ssi ≠ none → exec (.ssiTransfer ch) s = .next (ignoredEdge t ch))) ∧
    (∀ at' bits, chMode s ch = 4 → (edgeOf s ch).ssi = some at' → bit (chSsi s ch) 7 = false →
      (∃ u, exec (.ssiTransferDone ch true bits) s = .next u ∧ SameBut [.edges] s u ∧ (edgeOf u ch).ssi = none ∧
        (edgeOf u ch).count = word (bitsVal (if bit (chSsi s ch) 6 then grayBits (bits.take (fld (chSsi s ch) 0 6))
          else bits.take (fld (chSsi s ch) 0 6)))) ∧
      exec (.ssiTransferDone ch false bits) s = .next (edgeError (onEdge s ch (fun e => { e with ssi := none })) ch false)) ∧
    (sampling s = true → chMode s ch ≠ 0 → chRec s ch = 1 → 0 < rdf s (EDGE.CH_REC (ch / 8) (ch % 8)) 0 16 →
      now s % rdf s (EDGE.CH_REC (ch / 8) (ch % 8)) 0 16 = 0 → exec (.edgePositionRecord ch) s =
        .next (edgeDeliver (onEdge s ch (fun e => { e with setl := false })) ch (now s)
          (recWord (signExt 23 (fld (edgeOf s ch).count 0 23)) (edgeTag (edgeOf s ch) false)) false)) ∧
    (∀ (i : Fin 3) hits, (tableOk hits = false → ∃ u, exec (.interpolatorTable ch i hits) s = .next u ∧
        SameBut [.edges, .regs] s u ∧ edgeOf u ch = { edgeOf s ch with calFail := (edgeOf s ch).calFail.set i true } ∧
        RegsBut [hdr (pgEDGE (ch / 8)) Hdr.EVT] s u) ∧
      (tableOk hits = true → ∃ u, exec (.interpolatorTable ch i hits) s = .next u ∧ SameBut [.edges] s u ∧ edgeOf u ch =
        { edgeOf s ch with calFail := (edgeOf s ch).calFail.set i false, tables := (edgeOf s ch).tables.set i hits })) ∧
    (passes s p (EDGE.CTRL (ch / 8)) →
      (∃ u, exec (.armReference p ch) s = .next u ∧ SameBut [.edges] s u ∧
        edgeOf u ch = { edgeOf s ch with armed := true, referenced := false } ∧ ∀ o, o ≠ ch.val → edgeOf u o = edgeOf s o) ∧
      (∃ u, exec (.loadPreset p ch) s = .next u ∧ SameBut [.edges] s u ∧
        edgeOf u ch = setCount (edgeOf s ch) (rd s (EDGE.CH_PRESET (ch / 8) (ch % 8))) ∧
        ∀ o, o ≠ ch.val → edgeOf u o = edgeOf s o) ∧
      (∃ u, exec (.clearCounters p ch) s = .next u ∧ SameBut [.edges] s u ∧
        edgeOf u ch = { edgeOf s ch with dropped := 0, ignored := 0, quadErr := false, ssiErr := false } ∧
        ∀ o, o ≠ ch.val → edgeOf u o = edgeOf s o))

/-- Sensor ports (R665 to R667, R669, R672, R674, R676, R677, R679): a disabled block sends and hears nothing; a frame with a
bad CRC is counted, and 64 good ones in a row with ready set end TRAIN; a command is resent three times, 100 frames after its
last sending, and then times out; SEND_COMMAND needs no other in flight; ACCEPT_IDENTITY leaves HOLD; RETRAIN returns to
TRAIN. The code groups of a frame, from either disparity, bring its 95 bytes to the port. The model's choices in it: log
entries 16, 61 and 80. -/
def Obligations.SensorPorts : Prop :=
  (∀ (pos : Bool) (l : List Byte), l.length = 95 → portBytes pos (portGroups pos l) = some l) ∧
  (∀ (s : State) (q : Fin 8) (l : List Byte) rtt, l.length = 95 →
    uplinkHeard s q ((portGroups (sprtOf s q).upEnd l).map (BitVec.ofNat 10)) rtt = uplinkOf l rtt) ∧
  ∀ (s : State) (p : Path) (q : Fin 8), shaped s = true → memoryWf s = true →
    (blkOn s (pgSPRT q) = false → exec (.downlinkFrame q) s = .next s ∧ ∀ g rtt, exec (.uplinkFrame q g rtt) s = .next
      (onSprt s q (fun x => { x with upEnd := afterGroups x.upEnd (g.map (fun y => y.toNat)) }))) ∧
    (blkOn s (pgSPRT q) = true → ∃ u, exec (.downlinkFrame q) s = .next u ∧ SameBut (footprint (.downlinkFrame q)) s u ∧
      (sprtOf u q).frame = now s / 10 + 1) ∧
    (∀ g rtt, blkOn s (pgSPRT q) = true → (sprtOf s q).st = Sp.TRAIN → (uplinkHeard s q g rtt).good = false →
      ∃ t, exec (.uplinkFrame q g rtt) s = .next t ∧ SameBut [.regs, .sports] s t ∧ RegsBut [SPRT.CRC_ERR q] s t ∧
        rd t (SPRT.CRC_ERR q) = setFld (rd s (SPRT.CRC_ERR q)) 0 32 (min (rdf s (SPRT.CRC_ERR q) 0 32 + 1) (2 ^ 32 - 1)) ∧
        (sprtOf t q).good = 0 ∧ (sprtOf t q).bad = (sprtOf s q).bad + 1 ∧ (sprtOf t q).st = Sp.TRAIN) ∧
    (∀ g rtt u, u = uplinkHeard s q g rtt → blkOn s (pgSPRT q) = true → (sprtOf s q).st = Sp.TRAIN → u.good = true →
      (sprtOf s q).cmd = none → ∃ t n, exec (.uplinkFrame q g rtt) s = .next t ∧ SameBut [.regs, .sports] s t ∧
        RegsBut [hdr (pgSPRT q) Hdr.EVT] s t ∧ n = (if u.ready then (sprtOf s q).good + 1 else 0) ∧ (sprtOf t q).good = n ∧
        (sprtOf t q).bad = 0 ∧ (sprtOf t q).fault = u.fault ∧ (sprtOf t q).st = if 64 ≤ n then Sp.MEASURE else Sp.TRAIN) ∧
    (∀ c, (sprtOf s q).cmd = some c → c.due = false → c.sent + 100 ≤ (sprtOf s q).frame →
      (c.resends < 3 → ∃ u, exec (.commandResend q) s = .next u ∧ SameBut [.sports] s u ∧
        sprtOf u q = { sprtOf s q with cmd := some { c with due := true, resends := c.resends + 1 } } ∧
        ∀ o, o ≠ q.val → sprtOf u o = sprtOf s o) ∧
      (3 ≤ c.resends → c.op ≠ 1 → c.op ≠ 2 → exec (.commandResend q) s = .next (evt (onSprt s q (fun x => { x with
        cmd := none, resp := word (c.tag + 2 ^ 17) })) (pgSPRT q) 6))) ∧
    (passes s p (SPRT.CTRL q) →
      ((sprtOf s q).cmd ≠ none → exec (.sendCommand p q) s = .next (refuse s (some p) (SPRT.CTRL q) ⟨Rsn.BUSY, none⟩)) ∧
      ((sprtOf s q).cmd = none → rdf s (SPRT.CMD_OP q) 0 8 ≠ 1 → rdf s (SPRT.CMD_OP q) 0 8 ≠ 2 →
        ∃ u c, exec (.sendCommand p q) s = .next u ∧ SameBut [.sports] s u ∧ (sprtOf u q).cmd = some c ∧
          c.tag = (sprtOf s q).tag % 255 + 1 ∧ c.op = rdf s (SPRT.CMD_OP q) 0 8 ∧ c.host = true ∧
          c.args = (List.range 8).map (fun i => rd s (SPRT.CMD_ARG q i)) ∧ (sprtOf u q).resp = 0 ∧ ∀ o, o ≠ q.val → sprtOf u o = sprtOf s o) ∧
      ((sprtOf s q).st = Sp.HOLD → ∃ u, exec (.acceptIdentity p q) s = .next u ∧ SameBut [.sports, .freeCtr] s u ∧
        (sprtOf u q).st = Sp.CONFIG) ∧
      ((sprtOf s q).st ≠ Sp.HOLD → exec (.acceptIdentity p q) s = .next s) ∧
      ((sprtOf s q).st ≠ Sp.OFF → ∃ u, exec (.retrain p q) s = .next u ∧ SameBut [.sports] s u ∧
        (sprtOf u q).st = Sp.TRAIN ∧ ∀ o, o ≠ q.val → sprtOf u o = sprtOf s o) ∧
      ((sprtOf s q).st = Sp.OFF → exec (.retrain p q) s = .next s))

/-- Lighting chains and strobes (R686 to R692, R693, R698 to R706, R709): a send is refused while one runs or waits, falls due
at the next tick or at its latch, and can be cancelled; a frame starts with the outputs of R694 after 10 µs of rest, lasts 4
µs, 76.8 µs for each driver and 24 µs, and is counted at its end; LVL_DATA writes one level and advances the address; a strobe
is armed, fires at its index for its width, or is counted late. A frame brings each driver of a chain its three outputs. The
model's choices in it: log entries 9, 62 and 81. -/
def Obligations.LightingAndStrobes : Prop :=
  (∀ (ds : List Driver) (outs : List Nat), (∀ d ∈ ds, d.broken = false) → outs.length = 3 * ds.length →
    chainRun ds (framePulses outs) =
      (List.range ds.length).map (fun i => ⟨[], true, false, ((outs.drop (3 * i)).take 3).flatMap outBits⟩)) ∧
  ∀ (s : State) (p : Path) (x : Fin 8), shaped s = true → memoryWf s = true →
    (passes s p LITE.CTRL →
      ((liteOf s x).frame ≠ none → exec (.sendNow p x) s = .next (refuse s (some p) LITE.CTRL ⟨Rsn.BUSY, none⟩) ∧
        exec (.sendToLatch p x) s = .next (refuse s (some p) LITE.CTRL ⟨Rsn.BUSY, none⟩)) ∧
      ((liteOf s x).frame = none → (liteOf s x).sched = none → (liteOf s x).due = none → ldLength s x ≠ 0 →
        exec (.sendNow p x) s = .next (onLite s x (fun l => { l with due := some (s.time.now + 1) })) ∧
        (gridValid s = true → now s + 1 + (280 + 768 * ldLength s x) < rd64 s LITE.LATCH_AT_LO → exec (.sendToLatch p x) s =
          .next (onLite s x (fun l => { l with sched := some (rd64 s LITE.LATCH_AT_LO - (280 + 768 * ldLength s x)) }))) ∧
        (gridValid s = false →
          exec (.sendToLatch p x) s = .next (refuse s (some p) LITE.CTRL ⟨Rsn.NOGRID, none⟩))) ∧
      exec (.cancelSend p x) s = .next (onLite s x (fun l => { l with sched := none }))) ∧
    ((liteOf s x).frame = none → ldLength s x ≠ 0 → lineRested s (liteOf s x) = true →
      (∀ n, (liteOf s x).due = some n → n ≤ s.time.now → exec (.frameStart x false) s = .next (startFrame s x)) ∧
      (refreshDue s x = true → (liteOf s x).sched = none → exec (.frameStart x true) s = .next (startFrame s x)) ∧
      SameBut [.lites] s (startFrame s x) ∧ (liteOf (startFrame s x) x).frame = some (frameOuts s x) ∧
      (liteOf (startFrame s x) x).begun = some s.time.now) ∧
    (∀ outs t, (liteOf s x).frame = some outs → (liteOf s x).begun = some t →
      (s.time.now < t + 280 + 256 * outs.length → exec (.frameDone x) s = .next s) ∧
      (t + 280 + 256 * outs.length ≤ s.time.now → ∃ u, exec (.frameDone x) s = .next u ∧ SameBut [.lites, .regs] s u ∧ (liteOf u x).frame = none ∧
      (liteOf u x).frames = ((liteOf s x).frames + 1) % 2 ^ 16 ∧ (∀ o, o ≠ x.val → liteOf u o = liteOf s o) ∧
      RegsBut [hdr pgLITE Hdr.EVT] s u)) ∧
    (∀ v, passes s p LITE.LVL_DATA → ∃ u, exec (.lvlData p (some v)) s = .next u ∧ SameBut [.levels, .regs] s u ∧
      u.levels = sparsePut s.levels 0 (lvlKey s) (fld v 0 16) ∧ RegsBut [LITE.LVL_ADDR] s u) ∧
    (hostReady s = true → exec (.lvlData p none) s = .next (lvlAdvance s)) ∧
    (passes s p LITE.ST_CTRL →
      (bit (stCfg s x) 1 = true → stPeriod s x = 0 → ∃ u, exec (.strobeArm p x) s = .next u ∧ SameBut [.strobes] s u ∧
        (strobeOf u x).armed = true ∧ (strobeOf u x).fires = []) ∧
      (bit (stCfg s x) 1 = false → gridValid s = true → now s + 1 < rd64 s (LITE.ST_AT_LO x) → stPeriod s x = 0 →
        ∃ u, exec (.strobeArm p x) s = .next u ∧ SameBut [.strobes] s u ∧ (strobeOf u x).armed = true ∧
          (strobeOf u x).fires = [rd64 s (LITE.ST_AT_LO x)]) ∧
      (∃ u, exec (.strobeDisarm p x) s = .next u ∧ SameBut [.strobes] s u ∧ (strobeOf u x).armed = false ∧
        (strobeOf u x).fires = [])) ∧
    (∀ n rest, (strobeOf s x).fires = n :: rest → stWidth s x ≠ 0 →
      (n = now s → ((strobeOf s x).active = false ∨ (strobeOf s x).endsAt ≤ strobeTime s x n) → ∃ u, exec (.strobeFire x) s = .next u ∧ SameBut [.strobes, .regs] s u ∧
        (strobeOf u x).active = true ∧ (strobeOf u x).endsAt = strobeTime s x n + 81920 * stWidth s x ∧ (strobeOf u x).firings = ((strobeOf s x).firings + 1) % 2 ^ 16 ∧
        RegsBut [hdr pgLITE Hdr.EVT] s u) ∧
      (n < now s ∨ (n = now s ∧ (strobeOf s x).active = true ∧ strobeTime s x n < (strobeOf s x).endsAt) →
        exec (.strobeFire x) s = .next (strobeLate (strobeNext s x n rest) x))) ∧
    ((strobeOf s x).endsAt < s.time.ht + tickLen → ∃ u, exec (.strobeEnd x) s = .next u ∧ SameBut [.strobes] s u ∧
      (strobeOf u x).active = false ∧ ∀ o, o ≠ x.val → strobeOf u o = strobeOf s o) ∧
    (s.time.ht + tickLen ≤ (strobeOf s x).endsAt → exec (.strobeEnd x) s = .next s)

/-- Calibration (R237, R270, R737, R738, R740, R773): a trigger starts a run with its index and temperatures, merges into a
further run while one runs, and does nothing while the band-gap disagrees; the end of a run counts it; the supervision slots
refresh the temperatures and AOREF_STAT. The model's choices in it: log entries 11 and 64. -/
def Obligations.CalibrationRuns : Prop :=
  ∀ (s : State) (p : Path), shaped s = true → memoryWf s = true →
    (passes s p CAL.CTRL → exec (.recalibrate p) s = .next (calTrigger s)) ∧
    (rdf s CAL.PERIOD 0 17 ≠ 0 → exec .calPeriod s = .next (calTrigger s)) ∧ (rdf s CAL.PERIOD 0 17 = 0 → exec .calPeriod s = .next s) ∧
    (calBgFail s = true → calTrigger s = s) ∧
    (calBgFail s = false → calRunning s = true → calTrigger s = wr s CAL.STAT (setFld (rd s CAL.STAT) 3 1 1)) ∧
    (calBgFail s = false → calRunning s = false → ∃ u, calTrigger s = u ∧ SameBut [.regs] s u ∧
      RegsBut [CAL.STAT, CAL.LAST_LO, CAL.LAST_LO + 4, CAL.T_CAL] s u ∧ rd u CAL.LAST_LO = word (now s) ∧
      rd u (CAL.LAST_LO + 4) = word (now s / 2 ^ 32) ∧
      rd u CAL.T_CAL = word (rdf s (HKC.TEMP 0) 0 16 + 2 ^ 16 * rdf s (HKC.TEMP 1) 0 16)) ∧
    (∀ quads, calRunning s = true → exec (.recalibrationDone quads) s = .next (recalibrationDone s quads)) ∧
    (∀ quads, calRunning s = false → exec (.recalibrationDone quads) s = .next s) ∧
    (∀ ch v b, superSlot s ch = false → exec (.hkcSupervision ch v b) s = .next s) ∧
    (∀ (i : Fin 4) v b, superSlot s (.ts i) = true → ∃ u, exec (.hkcSupervision (.ts i) v b) s = .next u ∧
      SameBut [.regs, .hkc, .time] s u ∧ RegsBut [HKC.TEMP i, HKC.TEMP_MAX, CAL.STAT, CAL.LAST_LO, CAL.LAST_LO + 4, CAL.T_CAL] s u ∧
      rd u (HKC.TEMP i) = word v.toNat ∧ u.hkc.last = hkcEnded s) ∧
    (∀ t : State, t = { s with hkc := { s.hkc with last := hkcEnded s } } →
      (∀ v b, superSlot s .aoref = true → ∃ u, exec (.hkcSupervision .aoref v b) s = .next u ∧ SameBut [.regs] t u ∧
        RegsBut [AOUT.AOREF_STAT, hdr pgAOUT Hdr.EVT] t u ∧ rd u AOUT.AOREF_STAT = word v.toNat) ∧
      (∀ v, superSlot s .bgcap = true → exec (.hkcSupervision .bgcap v false) s =
        .next (faultSrc (evt (setCalStat { t with cal := { t.cal with agree := 0 } } 2 true) pgCAL 1) 15)) ∧
      (∀ v, superSlot s .bgcap = true → calBgFail s = false → exec (.hkcSupervision .bgcap v true) s =
        .next { t with cal := { t.cal with agree := min (t.cal.agree + 1) 1000 } }) ∧
      (∀ v b, superSlot s .vddq = true → exec (.hkcSupervision .vddq v b) s = .next t) ∧
      (∀ v b, superSlot s .agnd = true → exec (.hkcSupervision .agnd v b) s = .next t))

/-- Access levels (R763 to R767): reading CHAL0 draws a fresh challenge for the path; the right response enters Service level,
clears the failures and is journalled; a wrong one, one without challenge and one in the lockout are refused; leaving, the
timeout and the level's expiry end it; the lockout's end clears its bit and count; nSCONF is the pin's level. The model's
choices in it: log entries 12 and 66. -/
def Obligations.ServiceAccess : Prop :=
  ∀ (s : State) (p : Path), shaped s = true → memoryWf s = true →
    (hostReady s = true → ∃ u l, exec (.chal0Read p) s = .next u ∧ SameBut [.host, .freeCtr] s u ∧
      u.freeCtr = s.freeCtr + 1 ∧ (pathOf u p).challenge = some l ∧ l.length = 4 ∧ ∀ q, q ≠ p → pathOf u q = pathOf s q) ∧
    (∃ u, exec (.challengeExpiry p) s = .next u ∧ SameBut [.host] s u ∧ (pathOf u p).challenge = none ∧
      ∀ q, q ≠ p → pathOf u q = pathOf s q) ∧
    (passes s p FUSE.AUTH →
      (rdb s FUSE.AUTH_STAT 2 = true → exec (.authEnter p) s = .next (authRefused s p 0x42)) ∧
      (rdb s FUSE.AUTH_STAT 2 = false → (pathOf s p).challenge = none →
        exec (.authEnter p) s = .next (authRefused s p 0x43)) ∧
      (∀ c, rdb s FUSE.AUTH_STAT 2 = false → (pathOf s p).challenge = some c →
        ((pathOf s p).response ≠ authResponse s p c → exec (.authEnter p) s = .next (authRefused s p 0x41)) ∧
        ((pathOf s p).response = authResponse s p c → ∃ u, exec (.authEnter p) s = .next u ∧
          SameBut [.host, .regs, .changes] s u ∧ (pathOf u p).service = true ∧ (pathOf u p).challenge = none ∧
          (∀ q, q ≠ p → pathOf u q = pathOf s q) ∧ RegsBut [FUSE.AUTH_STAT, hdr pgJRNL Hdr.EVT] s u ∧
          rd u FUSE.AUTH_STAT = setFld (rd s FUSE.AUTH_STAT) 4 4 0)) ∧
      exec (.authLeave p) s = .next (lapse s p)) ∧
    exec (.svcTimeout p) s = .next (lapse s p) ∧
    ((pathOf s p).service = true → (pathOf (lapse s p) p).service = false ∧ SameBut [.host, .regs, .changes] s (lapse s p)) ∧
    ((pathOf s p).service = false → lapse s p = s) ∧
    (rdb s FUSE.AUTH_STAT 2 = true → ∃ u, exec .lockoutEnd s = .next u ∧ SameBut [.regs] s u ∧ RegsBut [FUSE.AUTH_STAT] s u ∧
      rd u FUSE.AUTH_STAT = setFld (setFld (rd s FUSE.AUTH_STAT) 2 1 0) 4 4 0) ∧
    (∃ u, exec .nsconfAsserted s = .next u ∧ SameBut [.pins] s u ∧ u.pins = { s.pins with nsconf := false }) ∧
    (∃ u, exec .nsconfRelease s = .next u ∧ SameBut [.pins] s u ∧ u.pins = { s.pins with nsconf := true })

/-- Safe inputs and outputs (R779 to R795): a filtered level is stored and judged; two levels that differ for the discrepancy
time fault their pair; a test pulse begins and ends, a channel that has not read low in it faults its pair, and the values
held over it are let go; the SFC's cycle runs the monitors and outputs; a lost life signal or a failed self-test turns every
output off; a switch test runs, and a readback that differs from its command latches its output off. The model's choices in
it: log entries 1 and 67. -/
def Obligations.SafeInputsAndOutputs : Prop :=
  ∀ (s : State), shaped s = true → memoryWf s = true →
    (∀ (i : Fin 16) level, safeOn s = false → ∃ u, exec (.safeInput i level) s = .next u ∧ SameBut [.safe] s u ∧
      u.safe = { s.safe with si := s.safe.si.set i level }) ∧
    (∀ (i : Fin 16) level, safeOn s = true → s.safe.held.getD i none = none → exec (.safeInput i level) s = .next (pairChanged
      (onSafe s (fun x => { x with
        si := x.si.set i level, sawLow := if level then x.sawLow else x.sawLow.set i true })) (i / 2))) ∧
    (∀ k : Fin 8, safeOn s = true → pairEn s k = true → pairKind s k ≠ 3 → siLevel s (2 * k) ≠ siLevel s (2 * k + 1) →
      exec (.discrepancy k) s =
        .next (allDemands (safeFault (onPair s k (fun p => { p with fault := true, low := false })) (12 + k)))) ∧
    (∀ k : Fin 4, safeOn s = true → now s % 500000 = 125000 * k → ∃ u, exec (.testPulse k) s = .next u ∧ SameBut [.safe] s u ∧
      u.safe.tp = s.safe.tp.set k true ∧ u.safe.si = s.safe.si ∧ u.safe.outs = s.safe.outs ∧ u.safe.pairs = s.safe.pairs) ∧
    (∀ k : Fin 4, s.safe.tp.getD k false = true →
      (∀ i ∈ tpChannels s k, s.safe.held.getD i none = none ∨ s.safe.sawLow.getD i false = true) →
      exec (.testPulseEnd k) s = .next (onSafe s (fun x => { x with tp := x.tp.set k false }))) ∧
    (∀ (k : Fin 4) i, tpChannels s k = [i] → s.safe.held.getD i none ≠ none →
      (s.safe.tp.getD k false = true → s.safe.sawLow.getD i false = false → ∃ t, t = onSafe s (fun x => { x with tp := x.tp.set k false }) ∧
        exec (.testPulseEnd k) s = .next (allDemands (safeFault (onPair t (i / 2) (fun p => { p with fault := true, low := false }))
          (4 + i / 2)))) ∧
      (s.safe.tp.getD k false = false → exec (.pulseHoldEnd k) s =
        .next (pairChanged (onSafe s (fun x => { x with held := x.held.set i none })) (i / 2)))) ∧
    (∀ k : Fin 4, s.safe.tp.getD k false = false → (∀ i ∈ tpChannels s k, s.safe.held.getD i none = none) →
      exec (.pulseHoldEnd k) s = .next s) ∧
    (∀ f c, safeOn s = true → exec (.sfcCycle f c) s = .next (sfcCycle s f c)) ∧
    (safeOn s = true → exec (.sfcSelfTest false) s = .next (lifeLost s) ∧ exec .lifeSignalLost s = .next (lifeLost s)) ∧
    exec (.sfcSelfTest true) s = .next s ∧
    (∀ x : Fin 4, safeOn s = true →
      ((outSt s x).on = true → (outSt s x).test = none → now s % 500000 = switchIndex s x →
        ∃ u, exec (.switchTest x) s = .next u ∧ SameBut [.safe] s u ∧ (outSt u x).test = some (!(outSt s x).nextLow) ∧
          (outSt u x).hit = (outSt s x).hit ∧ ∀ o, o ≠ x.val → outSt u o = outSt s o) ∧
      ((outSt s x).test ≠ none → (outSt s x).hit = false → ∃ u, exec (.switchTestEnd x) s = .next u ∧ SameBut [.safe] s u ∧
        outSt u x = { outSt s x with test := none } ∧ ∀ o, o ≠ x.val → outSt u o = outSt s o) ∧
      ((outSt s x).test ≠ none → (outSt s x).hit = true → exec (.switchTestEnd x) s = .next (outOff s x true)) ∧
      ((outSt s x).hsfb ≠ hsdOn s x → exec (.readbackFault x true) s = .next (safeFault (outOff s x false) x)) ∧
      ((outSt s x).lsfb ≠ lsdOn s x → exec (.readbackFault x false) s = .next (safeFault (outOff s x false) x)) ∧
      ((outSt s x).ss1 = true → exec (.ss1Expiry x) s = .next (outOff s x true)) ∧
      ((outSt s x).on = true → ∀ d, (outSt (outOff s x d) x).on = false)) ∧
    (∀ (x : Fin 4) level, ∃ u v, exec (.switchReadback x true level) s = .next u ∧ exec (.switchReadback x false level) s = .next v ∧
      SameBut [.safe] s u ∧ SameBut [.safe] s v ∧ outSt u x = { outSt s x with hsfb := level } ∧
      outSt v x = { outSt s x with lsfb := level })

/-- SafeFrames and resets (R781, R800, R801, R804 to R807): a producer sends its next sequence with its data; a consumer
accepts a frame that passes every check of Table 19.5, discards a duplicate, and enters fail-safe on a wrong identity; the
first cause latches; the watchdog is cause 5; RESET_FAULTS and RESET_CONNECTION act where their level lets them. The model's
choices in it: log entries 17, 67 and 68. -/
def Obligations.SafeFramesAndResets : Prop :=
  ∀ (s : State) (c : Fin 32), shaped s = true → memoryWf s = true →
    (safeOn s = true → sfEn s c = true → sfProduces s c = true → sfCounterFails s c = false → gridValid s = true →
      ∃ t m, exec (.safeframeSend c) s = .next (sendRing t (Config.peerMac (sfPeer s c)) (.safe m)) ∧
        SameBut [.safe] s t ∧ connSt t c = { connSt s c with seq := (connSt s c).seq + 1 } ∧
        (∀ o, o ≠ c.val → connSt t o = connSt s o) ∧ m.seq = (connSt s c).seq + 1 ∧ m.conn = sfId s c ∧
        m.source = ownHubId s ∧ m.dest = sfPeer s c ∧ m.data = safeData s ∧ m.signature = sfSignature s c) ∧
    (∀ m, safeOn s = true → sfEn s c = true → sfProduces s c = false → exec (.safeframe c m) s = .next (safeFrame s c m)) ∧
    (∀ m : SafeMsg, m.crcOk = true → m.dest ≠ ownHubId s → safeFrame s c m = failSafe s c 2) ∧
    (∀ (m : SafeMsg) l, m.crcOk = true → m.dest = ownHubId s → m.source = sfPeer s c → m.conn = sfId s c →
      m.signature = sfSignature s c → (connSt s c).last = some l →
      ((m.seq - l).toNat = 0 → ∃ u, safeFrame s c m = u ∧ SameBut [.safe] s u ∧
        (connSt u c).dup = min 255 ((connSt s c).dup + 1) ∧ (connSt u c).data = (connSt s c).data) ∧
      (4 < (m.seq - l).toNat → safeFrame s c m = failSafe s c 3) ∧
      (1 ≤ (m.seq - l).toNat → (m.seq - l).toNat ≤ 4 → m.timeValid = true → gridValid s = true → -10000 ≤ sfAge s m →
        sfAge s m ≤ (rdf s (SAFE.SF_AGE c) 0 20 * 1000 : Nat) → (connSt s c).reset = none → ∃ t, safeFrame s c m = allDemands t ∧
          SameBut [.safe] s t ∧ connSt t c = { connSt s c with
            last := some m.seq, data := if m.failSafe then 0 else (m.data.getD 0 0).toNat
            accepted := ((connSt s c).accepted + 1) % 65536 } ∧ ∀ o, o ≠ c.val → connSt t o = connSt s o)) ∧
    (safeOn s = true → sfEn s c = true → sfProduces s c = false → exec (.safeframeWatchdog c) s = .next (failSafe s c 5)) ∧
    (∀ cause, (connSt s c).cause = 0 → failSafe s c cause =
      allDemands (evt (onConn s c (fun t => { t with cause := cause, reset := none })) pgSAFE 3)) ∧
    (∀ p, passes s p SAFE.CTRL →
      exec (.resetFaults p) s = .next (resetFaults (noteWrite s (some p) SAFE.CTRL 1)) ∧
      exec (.resetConnection p c) s =
        .next (resetConnection (noteWrite s (some p) SAFE.CTRL (word (2 + 256 * c))) c)) ∧
    (∃ u, resetConnection s c = u ∧ SameBut [.safe] s u ∧
      connSt u c = { connSt s c with last := none, reset := if (connSt s c).cause = 0 then none else some 0 } ∧
      ∀ o, o ≠ c.val → connSt u o = connSt s o)

/-- Pairing, heartbeats and mirroring (R816, R817, R819, R821, R824, R842): a retry shows the first failing condition of Table
20.1 or begins the pairing; a completed pairing sets EVT.paired, and EVT.snapshot_done follows the snapshot where the partner
has been active alone; each heartbeat carries the word of Table 20.2 and is counted; a heard heartbeat shows what the partner
is; a lost partner leaves the hub unpaired; mirror frames go between stages alone, and the standby of a pair writes their
words then. The model's choices in it: log entries 7, 12, 69 and 70. -/
def Obligations.TwinPairing : Prop :=
  ∀ s : State,
    (∀ l nonce answer f, isPaired s = false → hubRuns s = true → linkUpOn s .l2 = true → bistHeld s pgTWIN = false →
      f = pairRefuse s l (decide (answer = pairAnswer s (Config.challenge s.freeCtr))) →
      ∃ u, exec (.pairingRetry l nonce answer) s = .next u ∧ SameBut [.twin, .regs, .sent, .freeCtr] s u ∧
        (f = 0 → u.twin = { s.twin with refuse := 0, pair := .pairing, partnerAddr := (remoteAt l 4).toNat % 256 }) ∧
        (f ≠ 0 → u.twin = { s.twin with refuse := f, pair := .refused }) ∧
        (fuseWritten s 1 = false → SameBut [.twin] s u)) ∧
    (s.twin.pair = .pairing → exec .paired s = .next (dawnAdvance (pairUp s))) ∧
    (s.twin.pair = .pairing → s.pwr.st ≠ .dawn → s.twin.active = false →
      ∃ u, exec .paired s = .next u ∧ SameBut [.twin, .regs] s u ∧
        u.twin = { s.twin with pair := if s.twin.partnerActive then .snapshot else .paired, pairedAt := s.time.now }) ∧
    (hubRuns s = true → hbPeriod s ≠ 0 → ∃ u, exec .heartbeatSend s = .next u ∧ SameBut [.regs, .twin, .ring, .sent] s u ∧
      u.twin = { s.twin with hbCount := (s.twin.hbCount + 1) % 65536 }) ∧
    (∀ w, exec (.heartbeat w) s = .next (dawnAdvance (heartbeatHeard s w))) ∧
    (∀ w, isPaired s = true → SameBut [.regs, .twin] s (heartbeatHeard s w) ∧ (heartbeatHeard s w).twin =
      { s.twin with
        hbAt := some s.time.now, offsetAt := some s.time.now, partnerActive := bit w 0, partnerReady := bit w 1 }) ∧
    (isPaired s = true → exec .partnerLost s = .next (dawnAdvance (partnerLost s)) ∧ (partnerLost s).twin.pair = .lost ∧
      SameBut [.regs, .twin, .streams] s (partnerLost s)) ∧
    (∀ k : Fin 12, s.twin.active = true → isPaired s = true →
      (mirrorMode s k ≠ 0 → (engOf s k).stage = none → exec (.mirrorFrameSend k) s =
        .next (sendTwin (sendTwin s (.mirror ⟨k, mirrorMode s k,
          (mirrorAddrs (mirrorMode s k) (mirrorLen s k)).map (fun a => (a, sramRead (engOf s k) a))⟩))
          (.positions (streamPositions s)))) ∧
      (mirrorMode s k = 0 ∨ (engOf s k).stage ≠ none → exec (.mirrorFrameSend k) s =
        .next (sendTwin s (.positions (streamPositions s))))) ∧
    (∀ m, shaped s = true → isPaired s = true → s.twin.active = false → ∃ u, exec (.mirrorFrame m) s = .next u ∧
      SameBut [.twin, .engines] s u ∧ u.twin = { s.twin with mirrorAt := some s.time.now } ∧
      ((engOf s m.engine).stage = none →
        engOf u m.engine = (mirrorWords m).foldl (fun e w => sramWrite e w.1 w.2) (engOf s m.engine)) ∧
      ((engOf s m.engine).stage ≠ none → ∀ a, sramRead (engOf u m.engine) a = sramRead (engOf s m.engine) a) ∧
      ∀ k, k ≠ m.engine.val → engOf u k = engOf s k) ∧
    (∀ m, s.twin.pair = .snapshot → ∃ u, exec (.snapshot m) s = .next u ∧ SameBut [.regs, .twin, .engines, .streams] s u ∧
      u.twin = { s.twin with pair := .paired, positions := m.streams })

/-- Handover (R828 to R830, R838, R843): a member acts on ARBSEL at its own index; the losing member sends the handover frame
only to a partner that is paired and ready, and otherwise keeps every output and sets EVT.arb_mismatch; the selected member
takes the instants of the frame; each engine hands over at its bound; TWIN.CTRL sets and clears release_req. The model's
choices in it: log entry 70. -/
def Obligations.TwinHandover : Prop :=
  ∀ s : State,
    (∀ level, exec (.arbselChange level) s = .next (dawnAdvance (arbChange s level))) ∧
    (∀ level, s.pwr.st = .noon → s.twin.handover = none → selects s level = false →
      (isPaired s = true → s.twin.partnerReady = true → (arbChange s level).twin =
        { s.twin with arbsel := level, handover := some (handoverOf s (now s) true (faultList s)) }) ∧
      ((isPaired s && s.twin.partnerReady) = false → pairConfigured s = true → ∃ t, arbChange s level = evt t pgTWIN 3 ∧
        SameBut [.pins, .twin] s t ∧ t.twin = { s.twin with arbsel := level } ∧ t.pins = { s.pins with arbsel := level })) ∧
    (∀ level, s.pwr.st = .twilight → s.twin.handover = none → selects s level = true →
      (isPaired s = true → (arbChange s level).twin = { s.twin with arbsel := level, takeAt := some (now s) }) ∧
      (isPaired s = false → ∃ h, (arbChange s level).twin = { s.twin with arbsel := level, takeAt := none, handover := some h } ∧
        h.ns = now s ∧ h.last = now s ∧ h.losing = false)) ∧
    (∀ m, s.pwr.st = .twilight → s.twin.handover = none → selects s s.pins.arbsel = true →
      ∃ u, exec (.handoverFrame m) s = .next u ∧ SameBut [.twin] s u ∧
        u.twin = { s.twin with takeAt := none, handover := some (handoverOf s m.ns false m.faults) }) ∧
    (∀ (k : Fin 12) h, s.twin.handover = some h → (h.bounds.getD k 0 ≤ now s ∨ h.last ≤ now s) → h.done.contains k.val = false →
      (h.losing = true → exec (.handoverRelease k) s = .next (handoverRelease s h k)) ∧
      (h.losing = false → exec (.handoverTake k) s = .next (handoverTake s h k))) ∧
    (∀ n, s.twin.takeAt = some n → n + 3 ≤ now s → exec .arbMismatch s = .next (evt s pgTWIN 3)) ∧
    (s.pwr.st = .dawn → isPaired s = true → selects s s.pins.arbsel = true → s.twin.partnerActive = true →
      exec .arbMismatch s = .next (evt s pgTWIN 3)) ∧
    (∀ p, passes s p TWIN.CTRL →
      exec (.requestRelease p) s = .next { s with twin := { s.twin with release := true } } ∧
      exec (.cancelRelease p) s = .next { s with twin := { s.twin with release := false } })

/-- Bring-up (R744 to R748, R753, R847 to R849, R854, R855): the self-test ends phase 2 with its results in DAWN_STAT; the
load of the image ends phase 3, after a cold reset and after a warm one; the waits of phases 4 and 6 end at their bounds; a
phase that runs beyond its bound sets EVT.dawn_stall and shows the cause. A store leaves the active slot as it is up to its
commit word, and also where the check of its content fails; with the commit word the new content is active; a slot that Dawn
reads with a fault is not. The model's choices in it: log entries 11, 28, 29 and 31. -/
def Obligations.BringUp : Prop :=
  (∀ s : State, s.pwr.st = .dawn →
    (∀ r, s.pwr.dawnPhase = 2 → clocksOk s = true → exec (.bistDone r) s = .next (bistDone s r)) ∧
    (∀ r, s.pwr.dawnPhase = 2 → (bistDone s r).pwr.dawnPhase = 3) ∧
    (s.pwr.dawnPhase = 3 → s.pwr.warm.running = false → ∀ a c, exec (.reamImageLoaded a c) s =
      .next (reamLoaded (readImage s [a, c]))) ∧
    (s.pwr.dawnPhase = 3 → s.pwr.warm.running = true → warmHeld s = false → ∀ a c, ∃ u,
      exec (.reamImageLoaded a c) s = .next u ∧
      u.pwr.dawnPhase = 4 ∧ u.pwr.warm.running = false ∧ u.pwr.warm.imageLoaded = true ∧ u.pwr.tableDue = false) ∧
    (warmActive s = false → (s.pwr.dawnPhase = 4 ∨ (s.pwr.dawnPhase = 6 ∧ linkUpOn s .l2 = false ∧ bistFailed s = false)) →
      exec .linkWaitExpiry s = .next (dawnAdvance (endPhase s)) ∧ (endPhase s).pwr.dawnPhase = s.pwr.dawnPhase + 1) ∧
    (∀ cause, warmActive s = false → cause ∈ stallCauses s → regsWf s = true → ∃ u, exec (.dawnStall cause) s = .next u ∧
      SameBut [.regs] s u ∧ RegsBut [SYS.DAWN_STAT, hdr pgSYS Hdr.EVT] s u ∧
      rd u SYS.DAWN_STAT = setFld (rd s SYS.DAWN_STAT) 8 4 cause ∧
      rd u (hdr pgSYS Hdr.EVT) = rd s (hdr pgSYS Hdr.EVT) ||| 8#32)) ∧
  (∀ (l : List (Option (NvSlot ReamImage))) (x : ReamImage) (g : Word), l.length = 2 → (activeOf l).elim 0 (·.gen) = g →
    activeOf (writeSlot l x) = activeOf l ∧ activeOf (commitSlot (writeSlot l x)) = some ⟨g + 1, some (g + 1), true, x⟩ ∧
    activeOf (spoilSlot (writeSlot l x)) = activeOf l ∧
    (∀ (r : List NvRead) i y, activeSlot (readSlots l r) = some i → r[i]? = some y → y.crcOk = true ∧ y.uncorrectable = 0))

/-- A step takes the command at the front of the queue: it is exec of that command on the state with the queue's rest. The
model's choices in it: log entry 3. -/
def Obligations.StepRunsTheFrontCommand : Prop :=
  ∀ (c : Instr) (s : State), step (s.withFront c) = exec c s

/-- No step ends in a fault or a refusal: the specification gives every command an effect. The tick of an idle step is the
model's choice (log entry 2). The model's choices in it: log entries 1 and 2. -/
def Obligations.EveryStepGoesOn : Prop :=
  ∀ s : State, goesOn (step s) = true ∧ ∀ c, ∃ u, exec c s = .next u ∧ u.pending = s.pending

/-- The frame of every command: outside the parts in its footprint, the whole state is as before. -/
def Obligations.CommandFootprints : Prop :=
  ∀ (c : Instr) (s u : State), exec c s = .next u → SameBut (footprint c) s u

/-- The state right after reset has every form that the steps keep, no command waits in it, and SYS.DEVICE reads 0x5384000B
(R2). The model's choices in it: log entry 18. -/
def Obligations.ResetInForm : Prop :=
  inForm State.reset = true ∧ State.reset.pending = [] ∧ rd State.reset SYS.DEVICE = 0x5384000b#32

/-- Every step keeps the forms: the Vat and the register file in their canonical form, the numbers of channels, slots, streams
and engines as the specification gives them, at most 256 command journal entries (R499) and 1,024 change journal entries
(R768). -/
def Obligations.StepKeepsForms : Prop :=
  ∀ s u : State, inForm s = true → step s = .next u → inForm u = true

/-- Written once, and for ever (R755, R756, R759): a fuse slot that is written or void is never blank again, whatever command
or reset comes; the identity of the part does not change; no value of a free draw is drawn twice. The model's choices in it:
log entries 6 and 65. -/
def Obligations.FusesWrittenOnce : Prop :=
  ∀ s u : State, step s = .next u →
    (∀ f i, fuseUsed s f i = true → fuseUsed u f i = true) ∧ u.serial = s.serial ∧ u.partSB = s.partSB ∧ s.freeCtr ≤ u.freeCtr

/-- A write of 1 to any bit of ERRCODE clears the whole register (R141). A write of 0 leaves it as it is. No other register
changes, but for the event of the change journal on a page whose writes are journalled. The model's choices in it: log entry
25. -/
def Obligations.ErrcodeCleared : Prop :=
  ∀ (s : State) (p : Path) (g : Nat) (b : Blk) (i : Nat) (v : Word), memoryWf s = true → hostReady s = true → g < 256 →
    blkOfPage g = some (b, i) → gateRej s (some p) (hdr g Hdr.ERRCODE) = none →
    entryFails s (some p) (hdr g Hdr.ERRCODE) = false →
    ∃ u, exec (.errcodeClear p g v) s = .next u ∧ SameBut [.regs, .pages, .changes] s u ∧
      RegsBut [hdr g Hdr.ERRCODE, hdr pgJRNL Hdr.EVT] s u ∧
      (v ≠ 0 → rd u (hdr g Hdr.ERRCODE) = 0) ∧ (v = 0 → rd u (hdr g Hdr.ERRCODE) = rd s (hdr g Hdr.ERRCODE))

/-- TRANSFER (R498): one with ARG2 = 0 ends DONE with result OK, one whose destination lies outside table storage ends ABORTED
with result ARG, and neither moves data; both stand in the journal from their acceptance on. -/
def Obligations.TransferOfNothing : Prop :=
  ∀ s : State,
    (∀ e, runningCmd s = none → nextCmd s = some e → cmdMayStart s e = true → e.opcode = 0x02 →
      (trLen e = 0 → ∃ u, exec .commandExecute s = .next u ∧ u.vat = s.vat ∧ SameBut [.cmd, .regs, .changes] s u ∧
        ∀ x ∈ u.cmd.journal, x.seq = e.seq → x.st = .done ∧ x.status = Res.OK ∧ x.detail = 0) ∧
      (trLen e ≠ 0 → inTable s (trDst e) (trLen e) = false → ∃ u, exec .commandExecute s = .next u ∧ u.vat = s.vat ∧
        SameBut [.cmd, .regs, .changes] s u ∧
        ∀ x ∈ u.cmd.journal, x.seq = e.seq → x.st = .aborted ∧ x.status = Res.ARG ∧ x.detail = 0) ∧
      (∀ u, exec .commandExecute s = .next u → u.cmd.journal.map (·.seq) = s.cmd.journal.map (·.seq))) ∧
    (∀ p args, shaped s = true → passes s p CMD.SUBMIT → s.pwr.st ≠ .dusk → pendingCount s < 16 →
      ∃ u e, exec (.cmdTransfer p s.cmd.nextSeq args) s = .next u ∧ e ∈ u.cmd.journal ∧ e.seq = s.cmd.nextSeq ∧
        e.opcode = 0x02 ∧ e.st = .new ∧ u.cmd.nextSeq = s.cmd.nextSeq + 1 ∧ u.vat = s.vat)
end

