-- ==== Sys2Proof/Laws/Keeps.lean ====
section
/-!
SUPPORT. What every operation of the hub keeps: the queue of waiting commands, the identity of the part, the canonical form of
the Vat and of the register file, the bounds of the journals, the fuses once written, the order of the draws of free values.
One lemma for each operation that answers a state; the lemmas of the other files of this family build on these.
-/
namespace Sys2Proof.Machine

/-- `t` follows from `s` by an operation that keeps what every command keeps. -/
structure Keeps (s t : State) : Prop where
  queue : t.pending = s.pending
  serial : t.serial = s.serial
  part : t.partSB = s.partSB
  canonical : memoryWf s = true → memoryWf t = true
  draws : s.freeCtr ≤ t.freeCtr
  journal : journalWithin s = true → journalWithin t = true
  changes : changesWithin s = true → changesWithin t = true
  fuses : ∀ f i, fuseUsed s f i = true → fuseUsed t f i = true

theorem Keeps.refl (s : State) : Keeps s s :=
  ⟨rfl, rfl, rfl, id, Nat.le_refl _, id, id, fun _ _ => id⟩

theorem Keeps.trans {s t u : State} (h : Keeps s t) (g : Keeps t u) : Keeps s u :=
  ⟨g.queue.trans h.queue, g.serial.trans h.serial, g.part.trans h.part, g.canonical ∘ h.canonical,
    Nat.le_trans h.draws g.draws, g.journal ∘ h.journal, g.changes ∘ h.changes, fun f i => g.fuses f i ∘ h.fuses f i⟩

/-- An operation that leaves the fields alone of which Keeps speaks. -/
theorem Keeps.same {u s t : State} (h : Keeps u s) (hp : t.pending = s.pending) (hr : t.regs = s.regs)
    (hv : t.vat = s.vat) (hc : t.cmd = s.cmd) (hf : t.fuses = s.fuses) (hg : t.changes = s.changes)
    (hs : t.serial = s.serial) (hb : t.partSB = s.partSB) (hd : t.freeCtr = s.freeCtr) : Keeps u t := by
  refine h.trans ⟨hp, hs, hb, fun m => ?_, Nat.le_of_eq hd.symm, fun j => ?_, fun j => ?_, fun f i j => ?_⟩
  · simpa only [memoryWf, regsWf, hr, hv] using m
  · simpa only [journalWithin, hc] using j
  · simpa only [changesWithin, hg] using j
  · simpa only [fuseUsed, hf] using j

/-- The same, for a state written as a record: the base is read off its fields. -/
theorem Keeps.record {u s : State}
    {shadow : List (Nat × Word)} {pages : List (Nat × PageInfo)} {pwr : PwrState} {clk : ClkState} {pins : PinState}
      {tap : TapInstr} {gc : List Ball} {gen : List Ball} {host : HostState} {inputs : List InputState} {exc : List
      ExcState} {cores : List CoreState} {bands : List BandState} {hkc : HkcState} {queueEcc : List (Nat × (Nat ×
      Nat))} {aout : List AoState} {inCoefs : List (Nat × (Int × Int))} {chains : List ChainState} {flt : FltState}
      {time : TimeState} {lanes : List LaneState} {ring : RingState} {adm : AdmState} {addrTable : List (Nat × Nat)}
      {sent : List TxFrame} {streams : List StreamState} {strmSel : List (Nat × Word)} {reams : List ReamState}
      {captSel : List (Nat × Word)} {gaps : List (Nat × Nat)} {twin : TwinState} {slots : List SlotState} {engines :
      List EngineState} {edges : List EdgeState} {sports : List SprtState} {lites : List LiteState} {levels : List
      (Nat × Nat)} {strobes : List StrobeState} {cal : CalState} {nv : NvState} {safe : SafeState} {badBands : List
      Nat}
    (h : Keeps u s) :
    Keeps u (State.mk
      s.pending s.regs shadow pages pwr clk pins tap gc gen host inputs exc cores bands hkc queueEcc aout inCoefs
        chains flt time lanes ring adm addrTable sent streams strmSel s.vat s.cmd reams captSel gaps twin slots
        engines edges sports lites levels strobes cal nv s.fuses s.changes safe badBands s.serial s.partSB s.freeCtr) :=
  h.same rfl rfl rfl rfl rfl rfl rfl rfl rfl

theorem keeps_ite {u x y : State} {c : Prop} [Decidable c] (hx : Keeps u x) (hy : Keeps u y) :
    Keeps u (if c then x else y) := by
  split <;> assumption

theorem keeps_ite_fst {β : Type} {u : State} {x y : State × β} {c : Prop} [Decidable c] (hx : Keeps u x.1)
    (hy : Keeps u y.1) : Keeps u (if c then x else y).1 := by
  split <;> assumption

theorem keeps_foldl {β : Type} {u s : State} {f : State → β → State} {l : List β} (h : Keeps u s)
    (hf : ∀ x b, Keeps u x → Keeps u (f x b)) : Keeps u (l.foldl f s) := by
  induction l generalizing s with
  | nil => exact h
  | cons b t ih => exact ih (hf s b h)

theorem keeps_foldl_fst {β γ : Type} {u : State} {f : State × γ → β → State × γ} {l : List β} {p : State × γ}
    (h : Keeps u p.1) (hf : ∀ x b, Keeps u x.1 → Keeps u (f x b).1) : Keeps u (l.foldl f p).1 := by
  induction l generalizing p with
  | nil => exact h
  | cons b t ih => exact ih (hf p b h)

/-- An operation that may stop keeps what Keeps says where it answers a state. -/
def KeepsSome (u : State) (o : Option State) : Prop := ∀ t, o = some t → Keeps u t

theorem KeepsSome.some {u s : State} (h : Keeps u s) : KeepsSome u (some s) := by
  intro t ht
  cases ht
  exact h

theorem KeepsSome.none (u : State) : KeepsSome u none := by
  intro t ht
  cases ht

theorem KeepsSome.ite {u : State} {x y : Option State} {c : Prop} [Decidable c] (hx : KeepsSome u x)
    (hy : KeepsSome u y) : KeepsSome u (if c then x else y) := by
  split <;> assumption

theorem KeepsSome.bind {u : State} {o : Option State} {f : State → Option State} (h : KeepsSome u o)
    (hf : ∀ x, Keeps u x → KeepsSome u (f x)) : KeepsSome u (o.bind f) := by
  cases o with
  | none => exact KeepsSome.none u
  | some x => exact hf x (h x rfl)

theorem KeepsSome.foldl {u : State} {f : Option State → Nat → Option State} {l : List Nat} {o : Option State}
    (h : KeepsSome u o) (hf : ∀ x i, KeepsSome u x → KeepsSome u (f x i)) : KeepsSome u (l.foldl f o) := by
  induction l generalizing o with
  | nil => exact h
  | cons i l ih => exact ih (hf o i h)

/-- Every state that an operation answers, where it does not stop, has the property. -/
def OkAll (P : State → Prop) (r : Except (Nat × Nat) State) : Prop := ∀ t, r = .ok t → P t

theorem OkAll.ok {P : State → Prop} {s : State} (h : P s) : OkAll P (.ok s) := by
  intro t ht
  cases ht
  exact h

theorem OkAll.error (P : State → Prop) (e : Nat × Nat) : OkAll P (.error e) := by
  intro t ht
  cases ht

theorem OkAll.ite {P : State → Prop} {x y : Except (Nat × Nat) State} {c : Prop} [Decidable c] (hx : OkAll P x)
    (hy : OkAll P y) : OkAll P (if c then x else y) := by
  split <;> assumption

theorem OkAll.map {β : Type} {P : State → Prop} {r : Except (Nat × Nat) β} {f : β → State} (h : ∀ x, P (f x)) :
    OkAll P (r.map f) := by
  cases r with
  | error e => exact OkAll.error P e
  | ok x => exact OkAll.ok (h x)

theorem OkAll.mapState {P : State → Prop} {r : Except (Nat × Nat) State} {f : State → State} (h : OkAll P r)
    (hf : ∀ x, P x → P (f x)) : OkAll P (r.map f) := by
  cases r with
  | error e => exact OkAll.error P e
  | ok x => exact OkAll.ok (hf x (h x rfl))

theorem OkAll.foldlM {P : State → Prop} {f : State → Nat → Except (Nat × Nat) State} {l : List Nat} {s : State} (h : P s)
    (hf : ∀ x i, P x → OkAll P (f x i)) : OkAll P (l.foldlM f s) := by
  induction l generalizing s with
  | nil => exact OkAll.ok h
  | cons i l ih =>
    rw [List.foldlM_cons]
    cases hx : f s i with
    | error e => exact OkAll.error P e
    | ok x => exact ih (hf s i h x hx)

-- the canonical form of sparse lists

variable {α : Type}

theorem sparseAbove_mono {l : List (Nat × α)} {a b : Nat} (h : a ≤ b) (hb : sparseAbove b l = true) :
    sparseAbove a l = true := by
  cases l with
  | nil => rfl
  | cons e t =>
    simp only [sparseAbove, Bool.and_eq_true, decide_eq_true_eq] at hb ⊢
    exact ⟨Nat.le_trans h hb.1, hb.2⟩

theorem sparseAbove_erase {l : List (Nat × α)} {a lo : Nat} (h : sparseAbove lo l = true) :
    sparseAbove lo (sparseErase l a) = true := by
  induction l generalizing lo with
  | nil => rfl
  | cons e t ih =>
    obtain ⟨b, w⟩ := e
    simp only [sparseAbove, Bool.and_eq_true, decide_eq_true_eq] at h
    simp only [sparseErase]
    split
    · exact sparseAbove_mono (by omega) h.2
    · split
      · simpa [sparseAbove] using h
      · simpa [sparseAbove] using ⟨h.1, ih h.2⟩

theorem sparseAbove_set {l : List (Nat × α)} {a lo : Nat} {v : α} (h : sparseAbove lo l = true) (ha : lo ≤ a) :
    sparseAbove lo (sparseSet l a v) = true := by
  induction l generalizing lo with
  | nil => simpa [sparseSet, sparseAbove] using ha
  | cons e t ih =>
    obtain ⟨b, w⟩ := e
    simp only [sparseAbove, Bool.and_eq_true, decide_eq_true_eq] at h
    simp only [sparseSet]
    split
    · simp only [sparseAbove, Bool.and_eq_true, decide_eq_true_eq]
      exact ⟨ha, by omega, h.2⟩
    · split
      · rename_i hn he
        subst he
        simpa [sparseAbove] using h
      · simp only [sparseAbove, Bool.and_eq_true, decide_eq_true_eq]
        exact ⟨h.1, ih h.2 (by omega)⟩

theorem sparseErase_subset {l : List (Nat × α)} {a : Nat} {e : Nat × α} (h : e ∈ sparseErase l a) : e ∈ l := by
  induction l with
  | nil => exact h
  | cons b t ih =>
    simp only [sparseErase] at h
    split at h
    · exact List.mem_cons_of_mem _ h
    · split at h
      · exact h
      · rcases List.mem_cons.1 h with h | h
        · exact h ▸ List.mem_cons_self
        · exact List.mem_cons_of_mem _ (ih h)

theorem sparseSet_mem {l : List (Nat × α)} {a : Nat} {v : α} {e : Nat × α} (h : e ∈ sparseSet l a v) :
    e = (a, v) ∨ e ∈ l := by
  induction l with
  | nil => simpa [sparseSet] using h
  | cons b t ih =>
    simp only [sparseSet] at h
    split at h
    · rcases List.mem_cons.1 h with h | h
      · exact .inl h
      · exact .inr h
    · split at h
      · rcases List.mem_cons.1 h with h | h
        · exact .inl h
        · exact .inr (List.mem_cons_of_mem _ h)
      · rcases List.mem_cons.1 h with h | h
        · exact .inr (h ▸ List.mem_cons_self)
        · exact (ih h).imp id (List.mem_cons_of_mem _)

/-- A write keeps the canonical form. -/
theorem sparsePut_wf [DecidableEq α] {d : Nat → α} {l : List (Nat × α)} (a : Nat) (v : α) (h : sparseWf d l = true) :
    sparseWf d (sparsePut l (d a) a v) = true := by
  simp only [sparseWf, Bool.and_eq_true, List.all_eq_true, decide_eq_true_eq] at h ⊢
  unfold sparsePut
  split
  · exact ⟨sparseAbove_erase h.1, fun e he => h.2 e (sparseErase_subset he)⟩
  · rename_i hv
    refine ⟨sparseAbove_set h.1 (Nat.zero_le _), fun e he => ?_⟩
    rcases sparseSet_mem he with rfl | he
    · exact hv
    · exact h.2 e he

theorem sparseAbove_filter {l : List (Nat × α)} {lo : Nat} (p : Nat × α → Bool) (h : sparseAbove lo l = true) :
    sparseAbove lo (l.filter p) = true := by
  induction l generalizing lo with
  | nil => rfl
  | cons e t ih =>
    simp only [sparseAbove, Bool.and_eq_true, decide_eq_true_eq] at h
    simp only [List.filter]
    split
    · simpa [sparseAbove] using ⟨h.1, ih h.2⟩
    · exact ih (sparseAbove_mono (by omega) h.2)

/-- Dropping entries keeps the canonical form. -/
theorem sparseWf_filter [DecidableEq α] {d : Nat → α} {l : List (Nat × α)} (p : Nat × α → Bool)
    (h : sparseWf d l = true) : sparseWf d (l.filter p) = true := by
  simp only [sparseWf, Bool.and_eq_true, List.all_eq_true, decide_eq_true_eq] at h ⊢
  exact ⟨sparseAbove_filter p h.1, fun e he => h.2 e ((List.mem_filter.1 he).1)⟩

-- reading after writing

theorem sparseFind_none_of_above {l : List (Nat × α)} {a lo : Nat} (h : sparseAbove lo l = true) (ha : a < lo) :
    sparseFind l a = none := by
  induction l generalizing lo with
  | nil => rfl
  | cons e t ih =>
    simp only [sparseAbove, Bool.and_eq_true, decide_eq_true_eq] at h
    rw [sparseFind, if_neg (by omega)]
    exact ih h.2 (by omega)

theorem sparseFind_set_same (l : List (Nat × α)) (a : Nat) (v : α) : sparseFind (sparseSet l a v) a = some v := by
  induction l with
  | nil => simp [sparseSet, sparseFind]
  | cons e t ih =>
    obtain ⟨b, w⟩ := e
    simp only [sparseSet]
    split
    · simp [sparseFind]
    · split
      · simp [sparseFind]
      · rename_i h1 h2
        simpa [sparseFind, h2] using ih

theorem sparseFind_set_other {l : List (Nat × α)} {a b : Nat} (v : α) (h : b ≠ a) :
    sparseFind (sparseSet l a v) b = sparseFind l b := by
  induction l with
  | nil => simp [sparseSet, sparseFind, h]
  | cons e t ih =>
    obtain ⟨c, w⟩ := e
    simp only [sparseSet]
    split
    · simp [sparseFind, h]
    · split
      · rename_i h2
        subst h2
        simp [sparseFind, h]
      · simp only [sparseFind, ih]

theorem sparseFind_erase_other {l : List (Nat × α)} {a b : Nat} (h : b ≠ a) :
    sparseFind (sparseErase l a) b = sparseFind l b := by
  induction l with
  | nil => rfl
  | cons e t ih =>
    obtain ⟨c, w⟩ := e
    simp only [sparseErase]
    split
    · rename_i h2
      subst h2
      simp [sparseFind, h]
    · split
      · rfl
      · simp only [sparseFind, ih]

theorem sparseFind_erase_same {l : List (Nat × α)} {lo : Nat} (a : Nat) (h : sparseAbove lo l = true) :
    sparseFind (sparseErase l a) a = none := by
  induction l generalizing lo with
  | nil => rfl
  | cons e t ih =>
    obtain ⟨c, w⟩ := e
    simp only [sparseAbove, Bool.and_eq_true, decide_eq_true_eq] at h
    simp only [sparseErase]
    split
    · exact sparseFind_none_of_above h.2 (by omega)
    · split
      · rename_i h1 h2
        rw [sparseFind, if_neg h1]
        exact sparseFind_none_of_above h.2 (by omega)
      · rename_i h1 h2
        rw [sparseFind, if_neg h1]
        exact ih h.2

/-- A read after a write to the same address gives the value written. -/
theorem sparseGet_put_same [DecidableEq α] {l : List (Nat × α)} {d : α} {lo : Nat} (a : Nat) (v : α)
    (h : sparseAbove lo l = true) : sparseGet (sparsePut l d a v) d a = v := by
  unfold sparsePut sparseGet
  split
  · rename_i hv
    rw [sparseFind_erase_same a h, hv]
    rfl
  · rw [sparseFind_set_same]
    rfl

/-- A write leaves every other address alone. -/
theorem sparseGet_put_other [DecidableEq α] {l : List (Nat × α)} {d d' : α} {a b : Nat} (v : α) (h : b ≠ a) :
    sparseGet (sparsePut l d a v) d' b = sparseGet l d' b := by
  unfold sparsePut sparseGet
  split
  · rw [sparseFind_erase_other h]
  · rw [sparseFind_set_other v h]

-- the operations that write what Keeps speaks of

theorem keeps_wr {u s : State} {a : Nat} {v : Word} (h : Keeps u s) : Keeps u (wr s a v) := by
  refine h.trans ⟨rfl, rfl, rfl, fun m => ?_, Nat.le_refl _, id, id, fun _ _ => id⟩
  simp only [memoryWf, regsWf, Bool.and_eq_true] at m ⊢
  exact ⟨m.1, sparsePut_wf a v m.2⟩

theorem keeps_vatPut {u s : State} {a : Nat} {b : Byte} (h : Keeps u s) : Keeps u (vatPut s a b) := by
  refine h.trans ⟨rfl, rfl, rfl, fun m => ?_, Nat.le_refl _, id, id, fun _ _ => id⟩
  simp only [memoryWf, Memory.wf, Bool.and_eq_true] at m ⊢
  exact ⟨sparsePut_wf (d := fun _ => (0 : Byte)) a b m.1, m.2⟩

/-- Dropping registers keeps the canonical form. -/
theorem keeps_regs_filter {u s : State} (p : Nat × Word → Bool) (h : Keeps u s) :
    Keeps u { s with regs := s.regs.filter p } := by
  refine h.trans ⟨rfl, rfl, rfl, fun m => ?_, Nat.le_refl _, id, id, fun _ _ => id⟩
  simp only [memoryWf, regsWf, Bool.and_eq_true] at m ⊢
  exact ⟨m.1, sparseWf_filter p m.2⟩

/-- A change of the command journal that keeps its bound. -/
theorem Keeps.setCmd {u s : State} {c : CmdState} (h : Keeps u s)
    (hc : s.cmd.journal.length ≤ 256 → c.journal.length ≤ 256) : Keeps u { s with cmd := c } := by
  refine h.trans ⟨rfl, rfl, rfl, id, Nat.le_refl _, fun j => ?_, id, fun _ _ => id⟩
  simp only [journalWithin, decide_eq_true_eq] at j ⊢
  exact hc j

/-- A change of the fuses that leaves no used slot blank. -/
theorem Keeps.setFuses {u s : State} {l : List (List FuseSlot)} (h : Keeps u s)
    (hl : ∀ f i, fuseUsed s f i = true → fuseUsed { s with fuses := l } f i = true) : Keeps u { s with fuses := l } :=
  h.trans ⟨rfl, rfl, rfl, id, Nat.le_refl _, id, id, hl⟩

/-- A draw of a free value, with any change to the fields of which Keeps does not speak. -/
theorem Keeps.draw {u s t : State} (h : Keeps u s) (hp : t.pending = s.pending) (hr : t.regs = s.regs)
    (hv : t.vat = s.vat) (hc : t.cmd = s.cmd) (hf : t.fuses = s.fuses) (hg : t.changes = s.changes)
    (hs : t.serial = s.serial) (hb : t.partSB = s.partSB) (hd : t.freeCtr = s.freeCtr + 1) : Keeps u t := by
  have k : Keeps u { s with freeCtr := s.freeCtr + 1 } :=
    h.trans ⟨rfl, rfl, rfl, id, Nat.le_succ _, id, id, fun _ _ => id⟩
  exact k.same hp hr hv hc hf hg hs hb hd

/-- The same, for a state written as a record, with a draw. -/
theorem Keeps.recordDraw {u s : State}
    {shadow : List (Nat × Word)} {pages : List (Nat × PageInfo)} {pwr : PwrState} {clk : ClkState} {pins : PinState}
      {tap : TapInstr} {gc : List Ball} {gen : List Ball} {host : HostState} {inputs : List InputState} {exc : List
      ExcState} {cores : List CoreState} {bands : List BandState} {hkc : HkcState} {queueEcc : List (Nat × (Nat ×
      Nat))} {aout : List AoState} {inCoefs : List (Nat × (Int × Int))} {chains : List ChainState} {flt : FltState}
      {time : TimeState} {lanes : List LaneState} {ring : RingState} {adm : AdmState} {addrTable : List (Nat × Nat)}
      {sent : List TxFrame} {streams : List StreamState} {strmSel : List (Nat × Word)} {reams : List ReamState}
      {captSel : List (Nat × Word)} {gaps : List (Nat × Nat)} {twin : TwinState} {slots : List SlotState} {engines :
      List EngineState} {edges : List EdgeState} {sports : List SprtState} {lites : List LiteState} {levels : List
      (Nat × Nat)} {strobes : List StrobeState} {cal : CalState} {nv : NvState} {safe : SafeState} {badBands : List
      Nat}
    (h : Keeps u s) :
    Keeps u (State.mk
      s.pending s.regs shadow pages pwr clk pins tap gc gen host inputs exc cores bands hkc queueEcc aout inCoefs
        chains flt time lanes ring adm addrTable sent streams strmSel s.vat s.cmd reams captSel gaps twin slots
        engines edges sports lites levels strobes cal nv s.fuses s.changes safe badBands s.serial s.partSB
        (s.freeCtr + 1)) :=
  h.draw rfl rfl rfl rfl rfl rfl rfl rfl rfl

/-- The same, for a state written as a record that drops registers. -/
theorem Keeps.recordFilter {u s : State}
    {shadow : List (Nat × Word)} {pages : List (Nat × PageInfo)} {pwr : PwrState} {clk : ClkState} {pins : PinState}
      {tap : TapInstr} {gc : List Ball} {gen : List Ball} {host : HostState} {inputs : List InputState} {exc : List
      ExcState} {cores : List CoreState} {bands : List BandState} {hkc : HkcState} {queueEcc : List (Nat × (Nat ×
      Nat))} {aout : List AoState} {inCoefs : List (Nat × (Int × Int))} {chains : List ChainState} {flt : FltState}
      {time : TimeState} {lanes : List LaneState} {ring : RingState} {adm : AdmState} {addrTable : List (Nat × Nat)}
      {sent : List TxFrame} {streams : List StreamState} {strmSel : List (Nat × Word)} {reams : List ReamState}
      {captSel : List (Nat × Word)} {gaps : List (Nat × Nat)} {twin : TwinState} {slots : List SlotState} {engines :
      List EngineState} {edges : List EdgeState} {sports : List SprtState} {lites : List LiteState} {levels : List
      (Nat × Nat)} {strobes : List StrobeState} {cal : CalState} {nv : NvState} {safe : SafeState} {badBands : List
      Nat}
    {p : Nat × Word → Bool} (h : Keeps u s) :
    Keeps u (State.mk
      s.pending (s.regs.filter p) shadow pages pwr clk pins tap gc gen host inputs exc cores bands hkc queueEcc aout inCoefs
        chains flt time lanes ring adm addrTable sent streams strmSel s.vat s.cmd reams captSel gaps twin slots
        engines edges sports lites levels strobes cal nv s.fuses s.changes safe badBands s.serial s.partSB
        s.freeCtr) :=
  (keeps_regs_filter p h).same rfl rfl rfl rfl rfl rfl rfl rfl rfl

end Sys2Proof.Machine
end

