-- ==== Sys2Proof/Laws/Frame.lean ====
section
/-!
SUPPORT. What operations leave alone: SameBut, kept by composition. One lemma for each operation that answers a state stands in the
files of this family; the list of each lemma is all that the operation can touch.
-/
namespace Sys2Proof.Machine

theorem Part.same_refl (p : Part) (s : State) : p.same s s := by
  cases p <;> rfl

theorem Part.same_trans {p : Part} {s t u : State} (h : p.same s t) (g : p.same t u) : p.same s u := by
  cases p <;> exact g.trans h

theorem SameBut.refl (l : List Part) (s : State) : SameBut l s s := fun p _ => p.same_refl s

theorem SameBut.trans {l : List Part} {s t u : State} (h : SameBut l s t) (g : SameBut l t u) : SameBut l s u :=
  fun p hp => Part.same_trans (h p hp) (g p hp)

theorem SameBut.mono {l m : List Part} {s t : State} (hl : l ⊆ m) (h : SameBut l s t) : SameBut m s t :=
  fun p hp => h p (fun hq => hp (hl hq))

theorem sameBut_ite {l : List Part} {u x y : State} {c : Prop} [Decidable c] (hx : SameBut l u x) (hy : SameBut l u y) :
    SameBut l u (if c then x else y) := by
  split <;> assumption

theorem sameBut_ite_fst {l : List Part} {β : Type} {u : State} {x y : State × β} {c : Prop} [Decidable c]
    (hx : SameBut l u x.1) (hy : SameBut l u y.1) : SameBut l u (if c then x else y).1 := by
  split <;> assumption

theorem sameBut_foldl {l : List Part} {β : Type} {u s : State} {f : State → β → State} {bs : List β}
    (h : SameBut l u s) (hf : ∀ x b, SameBut l u x → SameBut l u (f x b)) : SameBut l u (bs.foldl f s) := by
  induction bs generalizing s with
  | nil => exact h
  | cons b t ih => exact ih (hf s b h)

theorem sameBut_foldl_fst {l : List Part} {β γ : Type} {u : State} {f : State × γ → β → State × γ} {bs : List β}
    {p : State × γ} (h : SameBut l u p.1) (hf : ∀ x b, SameBut l u x.1 → SameBut l u (f x b).1) :
    SameBut l u (bs.foldl f p).1 := by
  induction bs generalizing p with
  | nil => exact h
  | cons b t ih => exact ih (hf p b h)

/-- The same of an operation that may stop. -/
def SameButSome (l : List Part) (u : State) (o : Option State) : Prop := ∀ t, o = some t → SameBut l u t

theorem SameButSome.some {l : List Part} {u s : State} (h : SameBut l u s) : SameButSome l u (some s) := by
  intro t ht
  cases ht
  exact h

theorem SameButSome.none (l : List Part) (u : State) : SameButSome l u none := by
  intro t ht
  cases ht

theorem SameButSome.ite {l : List Part} {u : State} {x y : Option State} {c : Prop} [Decidable c]
    (hx : SameButSome l u x) (hy : SameButSome l u y) : SameButSome l u (if c then x else y) := by
  split <;> assumption

theorem SameButSome.bind {l : List Part} {u : State} {o : Option State} {f : State → Option State}
    (h : SameButSome l u o) (hf : ∀ x, SameBut l u x → SameButSome l u (f x)) : SameButSome l u (o.bind f) := by
  cases o with
  | none => exact SameButSome.none l u
  | some x => exact hf x (h x rfl)

theorem SameButSome.foldl {l : List Part} {u : State} {f : Option State → Nat → Option State} {is : List Nat}
    {o : Option State} (h : SameButSome l u o) (hf : ∀ x i, SameButSome l u x → SameButSome l u (f x i)) :
    SameButSome l u (is.foldl f o) := by
  induction is generalizing o with
  | nil => exact h
  | cons i t ih => exact ih (hf o i h)

-- the record updates

theorem SameBut.set_addrTable {l : List Part} {u s : State}
    {addrTable : List (Nat × Nat)}
    (hl : [.addrTable] ⊆ l) (h : SameBut l u s) :
    SameBut l u (State.mk
      s.pending s.regs s.shadow s.pages s.pwr s.clk s.pins s.tap s.gc s.gen s.host s.inputs s.exc s.cores s.bands
        s.hkc s.queueEcc s.aout s.inCoefs s.chains s.flt s.time s.lanes s.ring s.adm addrTable s.sent s.streams
        s.strmSel s.vat s.cmd s.reams s.captSel s.gaps s.twin s.slots s.engines s.edges s.sports s.lites s.levels
        s.strobes s.cal s.nv s.fuses s.changes s.safe s.badBands s.serial s.partSB s.freeCtr) := by
  refine h.trans (fun p hp => ?_)
  have hn := fun h => hp (hl h)
  cases p <;> first | rfl | exact absurd (by decide) hn

theorem SameBut.set_adm {l : List Part} {u s : State}
    {adm : AdmState}
    (hl : [.adm] ⊆ l) (h : SameBut l u s) :
    SameBut l u (State.mk
      s.pending s.regs s.shadow s.pages s.pwr s.clk s.pins s.tap s.gc s.gen s.host s.inputs s.exc s.cores s.bands
        s.hkc s.queueEcc s.aout s.inCoefs s.chains s.flt s.time s.lanes s.ring adm s.addrTable s.sent s.streams
        s.strmSel s.vat s.cmd s.reams s.captSel s.gaps s.twin s.slots s.engines s.edges s.sports s.lites s.levels
        s.strobes s.cal s.nv s.fuses s.changes s.safe s.badBands s.serial s.partSB s.freeCtr) := by
  refine h.trans (fun p hp => ?_)
  have hn := fun h => hp (hl h)
  cases p <;> first | rfl | exact absurd (by decide) hn

theorem SameBut.set_aout {l : List Part} {u s : State}
    {aout : List AoState}
    (hl : [.aout] ⊆ l) (h : SameBut l u s) :
    SameBut l u (State.mk
      s.pending s.regs s.shadow s.pages s.pwr s.clk s.pins s.tap s.gc s.gen s.host s.inputs s.exc s.cores s.bands
        s.hkc s.queueEcc aout s.inCoefs s.chains s.flt s.time s.lanes s.ring s.adm s.addrTable s.sent s.streams
        s.strmSel s.vat s.cmd s.reams s.captSel s.gaps s.twin s.slots s.engines s.edges s.sports s.lites s.levels
        s.strobes s.cal s.nv s.fuses s.changes s.safe s.badBands s.serial s.partSB s.freeCtr) := by
  refine h.trans (fun p hp => ?_)
  have hn := fun h => hp (hl h)
  cases p <;> first | rfl | exact absurd (by decide) hn

theorem SameBut.set_badBands {l : List Part} {u s : State}
    {badBands : List Nat}
    (hl : [.badBands] ⊆ l) (h : SameBut l u s) :
    SameBut l u (State.mk
      s.pending s.regs s.shadow s.pages s.pwr s.clk s.pins s.tap s.gc s.gen s.host s.inputs s.exc s.cores s.bands
        s.hkc s.queueEcc s.aout s.inCoefs s.chains s.flt s.time s.lanes s.ring s.adm s.addrTable s.sent s.streams
        s.strmSel s.vat s.cmd s.reams s.captSel s.gaps s.twin s.slots s.engines s.edges s.sports s.lites s.levels
        s.strobes s.cal s.nv s.fuses s.changes s.safe badBands s.serial s.partSB s.freeCtr) := by
  refine h.trans (fun p hp => ?_)
  have hn := fun h => hp (hl h)
  cases p <;> first | rfl | exact absurd (by decide) hn

theorem SameBut.set_bands {l : List Part} {u s : State}
    {bands : List BandState}
    (hl : [.bands] ⊆ l) (h : SameBut l u s) :
    SameBut l u (State.mk
      s.pending s.regs s.shadow s.pages s.pwr s.clk s.pins s.tap s.gc s.gen s.host s.inputs s.exc s.cores bands
        s.hkc s.queueEcc s.aout s.inCoefs s.chains s.flt s.time s.lanes s.ring s.adm s.addrTable s.sent s.streams
        s.strmSel s.vat s.cmd s.reams s.captSel s.gaps s.twin s.slots s.engines s.edges s.sports s.lites s.levels
        s.strobes s.cal s.nv s.fuses s.changes s.safe s.badBands s.serial s.partSB s.freeCtr) := by
  refine h.trans (fun p hp => ?_)
  have hn := fun h => hp (hl h)
  cases p <;> first | rfl | exact absurd (by decide) hn

theorem SameBut.set_cal {l : List Part} {u s : State}
    {cal : CalState}
    (hl : [.cal] ⊆ l) (h : SameBut l u s) :
    SameBut l u (State.mk
      s.pending s.regs s.shadow s.pages s.pwr s.clk s.pins s.tap s.gc s.gen s.host s.inputs s.exc s.cores s.bands
        s.hkc s.queueEcc s.aout s.inCoefs s.chains s.flt s.time s.lanes s.ring s.adm s.addrTable s.sent s.streams
        s.strmSel s.vat s.cmd s.reams s.captSel s.gaps s.twin s.slots s.engines s.edges s.sports s.lites s.levels
        s.strobes cal s.nv s.fuses s.changes s.safe s.badBands s.serial s.partSB s.freeCtr) := by
  refine h.trans (fun p hp => ?_)
  have hn := fun h => hp (hl h)
  cases p <;> first | rfl | exact absurd (by decide) hn

theorem SameBut.set_captSel {l : List Part} {u s : State}
    {captSel : List (Nat × Word)}
    (hl : [.captSel] ⊆ l) (h : SameBut l u s) :
    SameBut l u (State.mk
      s.pending s.regs s.shadow s.pages s.pwr s.clk s.pins s.tap s.gc s.gen s.host s.inputs s.exc s.cores s.bands
        s.hkc s.queueEcc s.aout s.inCoefs s.chains s.flt s.time s.lanes s.ring s.adm s.addrTable s.sent s.streams
        s.strmSel s.vat s.cmd s.reams captSel s.gaps s.twin s.slots s.engines s.edges s.sports s.lites s.levels
        s.strobes s.cal s.nv s.fuses s.changes s.safe s.badBands s.serial s.partSB s.freeCtr) := by
  refine h.trans (fun p hp => ?_)
  have hn := fun h => hp (hl h)
  cases p <;> first | rfl | exact absurd (by decide) hn

theorem SameBut.set_chains {l : List Part} {u s : State}
    {chains : List ChainState}
    (hl : [.chains] ⊆ l) (h : SameBut l u s) :
    SameBut l u (State.mk
      s.pending s.regs s.shadow s.pages s.pwr s.clk s.pins s.tap s.gc s.gen s.host s.inputs s.exc s.cores s.bands
        s.hkc s.queueEcc s.aout s.inCoefs chains s.flt s.time s.lanes s.ring s.adm s.addrTable s.sent s.streams
        s.strmSel s.vat s.cmd s.reams s.captSel s.gaps s.twin s.slots s.engines s.edges s.sports s.lites s.levels
        s.strobes s.cal s.nv s.fuses s.changes s.safe s.badBands s.serial s.partSB s.freeCtr) := by
  refine h.trans (fun p hp => ?_)
  have hn := fun h => hp (hl h)
  cases p <;> first | rfl | exact absurd (by decide) hn

theorem SameBut.set_changes {l : List Part} {u s : State}
    {changes : ChangeJournal}
    (hl : [.changes] ⊆ l) (h : SameBut l u s) :
    SameBut l u (State.mk
      s.pending s.regs s.shadow s.pages s.pwr s.clk s.pins s.tap s.gc s.gen s.host s.inputs s.exc s.cores s.bands
        s.hkc s.queueEcc s.aout s.inCoefs s.chains s.flt s.time s.lanes s.ring s.adm s.addrTable s.sent s.streams
        s.strmSel s.vat s.cmd s.reams s.captSel s.gaps s.twin s.slots s.engines s.edges s.sports s.lites s.levels
        s.strobes s.cal s.nv s.fuses changes s.safe s.badBands s.serial s.partSB s.freeCtr) := by
  refine h.trans (fun p hp => ?_)
  have hn := fun h => hp (hl h)
  cases p <;> first | rfl | exact absurd (by decide) hn

theorem SameBut.set_clk {l : List Part} {u s : State}
    {clk : ClkState}
    (hl : [.clk] ⊆ l) (h : SameBut l u s) :
    SameBut l u (State.mk
      s.pending s.regs s.shadow s.pages s.pwr clk s.pins s.tap s.gc s.gen s.host s.inputs s.exc s.cores s.bands
        s.hkc s.queueEcc s.aout s.inCoefs s.chains s.flt s.time s.lanes s.ring s.adm s.addrTable s.sent s.streams
        s.strmSel s.vat s.cmd s.reams s.captSel s.gaps s.twin s.slots s.engines s.edges s.sports s.lites s.levels
        s.strobes s.cal s.nv s.fuses s.changes s.safe s.badBands s.serial s.partSB s.freeCtr) := by
  refine h.trans (fun p hp => ?_)
  have hn := fun h => hp (hl h)
  cases p <;> first | rfl | exact absurd (by decide) hn

theorem SameBut.set_cmd {l : List Part} {u s : State}
    {cmd : CmdState}
    (hl : [.cmd] ⊆ l) (h : SameBut l u s) :
    SameBut l u (State.mk
      s.pending s.regs s.shadow s.pages s.pwr s.clk s.pins s.tap s.gc s.gen s.host s.inputs s.exc s.cores s.bands
        s.hkc s.queueEcc s.aout s.inCoefs s.chains s.flt s.time s.lanes s.ring s.adm s.addrTable s.sent s.streams
        s.strmSel s.vat cmd s.reams s.captSel s.gaps s.twin s.slots s.engines s.edges s.sports s.lites s.levels
        s.strobes s.cal s.nv s.fuses s.changes s.safe s.badBands s.serial s.partSB s.freeCtr) := by
  refine h.trans (fun p hp => ?_)
  have hn := fun h => hp (hl h)
  cases p <;> first | rfl | exact absurd (by decide) hn

theorem SameBut.set_cores {l : List Part} {u s : State}
    {cores : List CoreState}
    (hl : [.cores] ⊆ l) (h : SameBut l u s) :
    SameBut l u (State.mk
      s.pending s.regs s.shadow s.pages s.pwr s.clk s.pins s.tap s.gc s.gen s.host s.inputs s.exc cores s.bands
        s.hkc s.queueEcc s.aout s.inCoefs s.chains s.flt s.time s.lanes s.ring s.adm s.addrTable s.sent s.streams
        s.strmSel s.vat s.cmd s.reams s.captSel s.gaps s.twin s.slots s.engines s.edges s.sports s.lites s.levels
        s.strobes s.cal s.nv s.fuses s.changes s.safe s.badBands s.serial s.partSB s.freeCtr) := by
  refine h.trans (fun p hp => ?_)
  have hn := fun h => hp (hl h)
  cases p <;> first | rfl | exact absurd (by decide) hn

theorem SameBut.set_edges {l : List Part} {u s : State}
    {edges : List EdgeState}
    (hl : [.edges] ⊆ l) (h : SameBut l u s) :
    SameBut l u (State.mk
      s.pending s.regs s.shadow s.pages s.pwr s.clk s.pins s.tap s.gc s.gen s.host s.inputs s.exc s.cores s.bands
        s.hkc s.queueEcc s.aout s.inCoefs s.chains s.flt s.time s.lanes s.ring s.adm s.addrTable s.sent s.streams
        s.strmSel s.vat s.cmd s.reams s.captSel s.gaps s.twin s.slots s.engines edges s.sports s.lites s.levels
        s.strobes s.cal s.nv s.fuses s.changes s.safe s.badBands s.serial s.partSB s.freeCtr) := by
  refine h.trans (fun p hp => ?_)
  have hn := fun h => hp (hl h)
  cases p <;> first | rfl | exact absurd (by decide) hn

theorem SameBut.set_engines {l : List Part} {u s : State}
    {engines : List EngineState}
    (hl : [.engines] ⊆ l) (h : SameBut l u s) :
    SameBut l u (State.mk
      s.pending s.regs s.shadow s.pages s.pwr s.clk s.pins s.tap s.gc s.gen s.host s.inputs s.exc s.cores s.bands
        s.hkc s.queueEcc s.aout s.inCoefs s.chains s.flt s.time s.lanes s.ring s.adm s.addrTable s.sent s.streams
        s.strmSel s.vat s.cmd s.reams s.captSel s.gaps s.twin s.slots engines s.edges s.sports s.lites s.levels
        s.strobes s.cal s.nv s.fuses s.changes s.safe s.badBands s.serial s.partSB s.freeCtr) := by
  refine h.trans (fun p hp => ?_)
  have hn := fun h => hp (hl h)
  cases p <;> first | rfl | exact absurd (by decide) hn

theorem SameBut.set_exc {l : List Part} {u s : State}
    {exc : List ExcState}
    (hl : [.exc] ⊆ l) (h : SameBut l u s) :
    SameBut l u (State.mk
      s.pending s.regs s.shadow s.pages s.pwr s.clk s.pins s.tap s.gc s.gen s.host s.inputs exc s.cores s.bands
        s.hkc s.queueEcc s.aout s.inCoefs s.chains s.flt s.time s.lanes s.ring s.adm s.addrTable s.sent s.streams
        s.strmSel s.vat s.cmd s.reams s.captSel s.gaps s.twin s.slots s.engines s.edges s.sports s.lites s.levels
        s.strobes s.cal s.nv s.fuses s.changes s.safe s.badBands s.serial s.partSB s.freeCtr) := by
  refine h.trans (fun p hp => ?_)
  have hn := fun h => hp (hl h)
  cases p <;> first | rfl | exact absurd (by decide) hn

theorem SameBut.set_flt {l : List Part} {u s : State}
    {flt : FltState}
    (hl : [.flt] ⊆ l) (h : SameBut l u s) :
    SameBut l u (State.mk
      s.pending s.regs s.shadow s.pages s.pwr s.clk s.pins s.tap s.gc s.gen s.host s.inputs s.exc s.cores s.bands
        s.hkc s.queueEcc s.aout s.inCoefs s.chains flt s.time s.lanes s.ring s.adm s.addrTable s.sent s.streams
        s.strmSel s.vat s.cmd s.reams s.captSel s.gaps s.twin s.slots s.engines s.edges s.sports s.lites s.levels
        s.strobes s.cal s.nv s.fuses s.changes s.safe s.badBands s.serial s.partSB s.freeCtr) := by
  refine h.trans (fun p hp => ?_)
  have hn := fun h => hp (hl h)
  cases p <;> first | rfl | exact absurd (by decide) hn

theorem SameBut.set_freeCtr {l : List Part} {u s : State}
    {freeCtr : Nat}
    (hl : [.freeCtr] ⊆ l) (h : SameBut l u s) :
    SameBut l u (State.mk
      s.pending s.regs s.shadow s.pages s.pwr s.clk s.pins s.tap s.gc s.gen s.host s.inputs s.exc s.cores s.bands
        s.hkc s.queueEcc s.aout s.inCoefs s.chains s.flt s.time s.lanes s.ring s.adm s.addrTable s.sent s.streams
        s.strmSel s.vat s.cmd s.reams s.captSel s.gaps s.twin s.slots s.engines s.edges s.sports s.lites s.levels
        s.strobes s.cal s.nv s.fuses s.changes s.safe s.badBands s.serial s.partSB freeCtr) := by
  refine h.trans (fun p hp => ?_)
  have hn := fun h => hp (hl h)
  cases p <;> first | rfl | exact absurd (by decide) hn

theorem SameBut.set_fuses {l : List Part} {u s : State}
    {fuses : List (List FuseSlot)}
    (hl : [.fuses] ⊆ l) (h : SameBut l u s) :
    SameBut l u (State.mk
      s.pending s.regs s.shadow s.pages s.pwr s.clk s.pins s.tap s.gc s.gen s.host s.inputs s.exc s.cores s.bands
        s.hkc s.queueEcc s.aout s.inCoefs s.chains s.flt s.time s.lanes s.ring s.adm s.addrTable s.sent s.streams
        s.strmSel s.vat s.cmd s.reams s.captSel s.gaps s.twin s.slots s.engines s.edges s.sports s.lites s.levels
        s.strobes s.cal s.nv fuses s.changes s.safe s.badBands s.serial s.partSB s.freeCtr) := by
  refine h.trans (fun p hp => ?_)
  have hn := fun h => hp (hl h)
  cases p <;> first | rfl | exact absurd (by decide) hn

theorem SameBut.set_gaps {l : List Part} {u s : State}
    {gaps : List (Nat × Nat)}
    (hl : [.gaps] ⊆ l) (h : SameBut l u s) :
    SameBut l u (State.mk
      s.pending s.regs s.shadow s.pages s.pwr s.clk s.pins s.tap s.gc s.gen s.host s.inputs s.exc s.cores s.bands
        s.hkc s.queueEcc s.aout s.inCoefs s.chains s.flt s.time s.lanes s.ring s.adm s.addrTable s.sent s.streams
        s.strmSel s.vat s.cmd s.reams s.captSel gaps s.twin s.slots s.engines s.edges s.sports s.lites s.levels
        s.strobes s.cal s.nv s.fuses s.changes s.safe s.badBands s.serial s.partSB s.freeCtr) := by
  refine h.trans (fun p hp => ?_)
  have hn := fun h => hp (hl h)
  cases p <;> first | rfl | exact absurd (by decide) hn

theorem SameBut.set_gc {l : List Part} {u s : State}
    {gc : List Ball}
    (hl : [.gc] ⊆ l) (h : SameBut l u s) :
    SameBut l u (State.mk
      s.pending s.regs s.shadow s.pages s.pwr s.clk s.pins s.tap gc s.gen s.host s.inputs s.exc s.cores s.bands
        s.hkc s.queueEcc s.aout s.inCoefs s.chains s.flt s.time s.lanes s.ring s.adm s.addrTable s.sent s.streams
        s.strmSel s.vat s.cmd s.reams s.captSel s.gaps s.twin s.slots s.engines s.edges s.sports s.lites s.levels
        s.strobes s.cal s.nv s.fuses s.changes s.safe s.badBands s.serial s.partSB s.freeCtr) := by
  refine h.trans (fun p hp => ?_)
  have hn := fun h => hp (hl h)
  cases p <;> first | rfl | exact absurd (by decide) hn

theorem SameBut.set_gen {l : List Part} {u s : State}
    {gen : List Ball}
    (hl : [.gen] ⊆ l) (h : SameBut l u s) :
    SameBut l u (State.mk
      s.pending s.regs s.shadow s.pages s.pwr s.clk s.pins s.tap s.gc gen s.host s.inputs s.exc s.cores s.bands
        s.hkc s.queueEcc s.aout s.inCoefs s.chains s.flt s.time s.lanes s.ring s.adm s.addrTable s.sent s.streams
        s.strmSel s.vat s.cmd s.reams s.captSel s.gaps s.twin s.slots s.engines s.edges s.sports s.lites s.levels
        s.strobes s.cal s.nv s.fuses s.changes s.safe s.badBands s.serial s.partSB s.freeCtr) := by
  refine h.trans (fun p hp => ?_)
  have hn := fun h => hp (hl h)
  cases p <;> first | rfl | exact absurd (by decide) hn

theorem SameBut.set_hkc {l : List Part} {u s : State}
    {hkc : HkcState}
    (hl : [.hkc] ⊆ l) (h : SameBut l u s) :
    SameBut l u (State.mk
      s.pending s.regs s.shadow s.pages s.pwr s.clk s.pins s.tap s.gc s.gen s.host s.inputs s.exc s.cores s.bands
        hkc s.queueEcc s.aout s.inCoefs s.chains s.flt s.time s.lanes s.ring s.adm s.addrTable s.sent s.streams
        s.strmSel s.vat s.cmd s.reams s.captSel s.gaps s.twin s.slots s.engines s.edges s.sports s.lites s.levels
        s.strobes s.cal s.nv s.fuses s.changes s.safe s.badBands s.serial s.partSB s.freeCtr) := by
  refine h.trans (fun p hp => ?_)
  have hn := fun h => hp (hl h)
  cases p <;> first | rfl | exact absurd (by decide) hn

theorem SameBut.set_host {l : List Part} {u s : State}
    {host : HostState}
    (hl : [.host] ⊆ l) (h : SameBut l u s) :
    SameBut l u (State.mk
      s.pending s.regs s.shadow s.pages s.pwr s.clk s.pins s.tap s.gc s.gen host s.inputs s.exc s.cores s.bands
        s.hkc s.queueEcc s.aout s.inCoefs s.chains s.flt s.time s.lanes s.ring s.adm s.addrTable s.sent s.streams
        s.strmSel s.vat s.cmd s.reams s.captSel s.gaps s.twin s.slots s.engines s.edges s.sports s.lites s.levels
        s.strobes s.cal s.nv s.fuses s.changes s.safe s.badBands s.serial s.partSB s.freeCtr) := by
  refine h.trans (fun p hp => ?_)
  have hn := fun h => hp (hl h)
  cases p <;> first | rfl | exact absurd (by decide) hn

theorem SameBut.set_inputs {l : List Part} {u s : State}
    {inputs : List InputState}
    (hl : [.inputs] ⊆ l) (h : SameBut l u s) :
    SameBut l u (State.mk
      s.pending s.regs s.shadow s.pages s.pwr s.clk s.pins s.tap s.gc s.gen s.host inputs s.exc s.cores s.bands
        s.hkc s.queueEcc s.aout s.inCoefs s.chains s.flt s.time s.lanes s.ring s.adm s.addrTable s.sent s.streams
        s.strmSel s.vat s.cmd s.reams s.captSel s.gaps s.twin s.slots s.engines s.edges s.sports s.lites s.levels
        s.strobes s.cal s.nv s.fuses s.changes s.safe s.badBands s.serial s.partSB s.freeCtr) := by
  refine h.trans (fun p hp => ?_)
  have hn := fun h => hp (hl h)
  cases p <;> first | rfl | exact absurd (by decide) hn

theorem SameBut.set_lanes {l : List Part} {u s : State}
    {lanes : List LaneState}
    (hl : [.lanes] ⊆ l) (h : SameBut l u s) :
    SameBut l u (State.mk
      s.pending s.regs s.shadow s.pages s.pwr s.clk s.pins s.tap s.gc s.gen s.host s.inputs s.exc s.cores s.bands
        s.hkc s.queueEcc s.aout s.inCoefs s.chains s.flt s.time lanes s.ring s.adm s.addrTable s.sent s.streams
        s.strmSel s.vat s.cmd s.reams s.captSel s.gaps s.twin s.slots s.engines s.edges s.sports s.lites s.levels
        s.strobes s.cal s.nv s.fuses s.changes s.safe s.badBands s.serial s.partSB s.freeCtr) := by
  refine h.trans (fun p hp => ?_)
  have hn := fun h => hp (hl h)
  cases p <;> first | rfl | exact absurd (by decide) hn

theorem SameBut.set_levels {l : List Part} {u s : State}
    {levels : List (Nat × Nat)}
    (hl : [.levels] ⊆ l) (h : SameBut l u s) :
    SameBut l u (State.mk
      s.pending s.regs s.shadow s.pages s.pwr s.clk s.pins s.tap s.gc s.gen s.host s.inputs s.exc s.cores s.bands
        s.hkc s.queueEcc s.aout s.inCoefs s.chains s.flt s.time s.lanes s.ring s.adm s.addrTable s.sent s.streams
        s.strmSel s.vat s.cmd s.reams s.captSel s.gaps s.twin s.slots s.engines s.edges s.sports s.lites levels
        s.strobes s.cal s.nv s.fuses s.changes s.safe s.badBands s.serial s.partSB s.freeCtr) := by
  refine h.trans (fun p hp => ?_)
  have hn := fun h => hp (hl h)
  cases p <;> first | rfl | exact absurd (by decide) hn

theorem SameBut.set_lites {l : List Part} {u s : State}
    {lites : List LiteState}
    (hl : [.lites] ⊆ l) (h : SameBut l u s) :
    SameBut l u (State.mk
      s.pending s.regs s.shadow s.pages s.pwr s.clk s.pins s.tap s.gc s.gen s.host s.inputs s.exc s.cores s.bands
        s.hkc s.queueEcc s.aout s.inCoefs s.chains s.flt s.time s.lanes s.ring s.adm s.addrTable s.sent s.streams
        s.strmSel s.vat s.cmd s.reams s.captSel s.gaps s.twin s.slots s.engines s.edges s.sports lites s.levels
        s.strobes s.cal s.nv s.fuses s.changes s.safe s.badBands s.serial s.partSB s.freeCtr) := by
  refine h.trans (fun p hp => ?_)
  have hn := fun h => hp (hl h)
  cases p <;> first | rfl | exact absurd (by decide) hn

theorem SameBut.set_nv {l : List Part} {u s : State}
    {nv : NvState}
    (hl : [.nv] ⊆ l) (h : SameBut l u s) :
    SameBut l u (State.mk
      s.pending s.regs s.shadow s.pages s.pwr s.clk s.pins s.tap s.gc s.gen s.host s.inputs s.exc s.cores s.bands
        s.hkc s.queueEcc s.aout s.inCoefs s.chains s.flt s.time s.lanes s.ring s.adm s.addrTable s.sent s.streams
        s.strmSel s.vat s.cmd s.reams s.captSel s.gaps s.twin s.slots s.engines s.edges s.sports s.lites s.levels
        s.strobes s.cal nv s.fuses s.changes s.safe s.badBands s.serial s.partSB s.freeCtr) := by
  refine h.trans (fun p hp => ?_)
  have hn := fun h => hp (hl h)
  cases p <;> first | rfl | exact absurd (by decide) hn

theorem SameBut.set_pages {l : List Part} {u s : State}
    {pages : List (Nat × PageInfo)}
    (hl : [.pages] ⊆ l) (h : SameBut l u s) :
    SameBut l u (State.mk
      s.pending s.regs s.shadow pages s.pwr s.clk s.pins s.tap s.gc s.gen s.host s.inputs s.exc s.cores s.bands
        s.hkc s.queueEcc s.aout s.inCoefs s.chains s.flt s.time s.lanes s.ring s.adm s.addrTable s.sent s.streams
        s.strmSel s.vat s.cmd s.reams s.captSel s.gaps s.twin s.slots s.engines s.edges s.sports s.lites s.levels
        s.strobes s.cal s.nv s.fuses s.changes s.safe s.badBands s.serial s.partSB s.freeCtr) := by
  refine h.trans (fun p hp => ?_)
  have hn := fun h => hp (hl h)
  cases p <;> first | rfl | exact absurd (by decide) hn

theorem SameBut.set_pending {l : List Part} {u s : State}
    {pending : List Instr}
    (hl : [.pending] ⊆ l) (h : SameBut l u s) :
    SameBut l u (State.mk
      pending s.regs s.shadow s.pages s.pwr s.clk s.pins s.tap s.gc s.gen s.host s.inputs s.exc s.cores s.bands
        s.hkc s.queueEcc s.aout s.inCoefs s.chains s.flt s.time s.lanes s.ring s.adm s.addrTable s.sent s.streams
        s.strmSel s.vat s.cmd s.reams s.captSel s.gaps s.twin s.slots s.engines s.edges s.sports s.lites s.levels
        s.strobes s.cal s.nv s.fuses s.changes s.safe s.badBands s.serial s.partSB s.freeCtr) := by
  refine h.trans (fun p hp => ?_)
  have hn := fun h => hp (hl h)
  cases p <;> first | rfl | exact absurd (by decide) hn

theorem SameBut.set_pins {l : List Part} {u s : State}
    {pins : PinState}
    (hl : [.pins] ⊆ l) (h : SameBut l u s) :
    SameBut l u (State.mk
      s.pending s.regs s.shadow s.pages s.pwr s.clk pins s.tap s.gc s.gen s.host s.inputs s.exc s.cores s.bands
        s.hkc s.queueEcc s.aout s.inCoefs s.chains s.flt s.time s.lanes s.ring s.adm s.addrTable s.sent s.streams
        s.strmSel s.vat s.cmd s.reams s.captSel s.gaps s.twin s.slots s.engines s.edges s.sports s.lites s.levels
        s.strobes s.cal s.nv s.fuses s.changes s.safe s.badBands s.serial s.partSB s.freeCtr) := by
  refine h.trans (fun p hp => ?_)
  have hn := fun h => hp (hl h)
  cases p <;> first | rfl | exact absurd (by decide) hn

theorem SameBut.set_pwr {l : List Part} {u s : State}
    {pwr : PwrState}
    (hl : [.pwr] ⊆ l) (h : SameBut l u s) :
    SameBut l u (State.mk
      s.pending s.regs s.shadow s.pages pwr s.clk s.pins s.tap s.gc s.gen s.host s.inputs s.exc s.cores s.bands
        s.hkc s.queueEcc s.aout s.inCoefs s.chains s.flt s.time s.lanes s.ring s.adm s.addrTable s.sent s.streams
        s.strmSel s.vat s.cmd s.reams s.captSel s.gaps s.twin s.slots s.engines s.edges s.sports s.lites s.levels
        s.strobes s.cal s.nv s.fuses s.changes s.safe s.badBands s.serial s.partSB s.freeCtr) := by
  refine h.trans (fun p hp => ?_)
  have hn := fun h => hp (hl h)
  cases p <;> first | rfl | exact absurd (by decide) hn

theorem SameBut.set_queueEcc {l : List Part} {u s : State}
    {queueEcc : List (Nat × (Nat × Nat))}
    (hl : [.queueEcc] ⊆ l) (h : SameBut l u s) :
    SameBut l u (State.mk
      s.pending s.regs s.shadow s.pages s.pwr s.clk s.pins s.tap s.gc s.gen s.host s.inputs s.exc s.cores s.bands
        s.hkc queueEcc s.aout s.inCoefs s.chains s.flt s.time s.lanes s.ring s.adm s.addrTable s.sent s.streams
        s.strmSel s.vat s.cmd s.reams s.captSel s.gaps s.twin s.slots s.engines s.edges s.sports s.lites s.levels
        s.strobes s.cal s.nv s.fuses s.changes s.safe s.badBands s.serial s.partSB s.freeCtr) := by
  refine h.trans (fun p hp => ?_)
  have hn := fun h => hp (hl h)
  cases p <;> first | rfl | exact absurd (by decide) hn

theorem SameBut.set_reams {l : List Part} {u s : State}
    {reams : List ReamState}
    (hl : [.reams] ⊆ l) (h : SameBut l u s) :
    SameBut l u (State.mk
      s.pending s.regs s.shadow s.pages s.pwr s.clk s.pins s.tap s.gc s.gen s.host s.inputs s.exc s.cores s.bands
        s.hkc s.queueEcc s.aout s.inCoefs s.chains s.flt s.time s.lanes s.ring s.adm s.addrTable s.sent s.streams
        s.strmSel s.vat s.cmd reams s.captSel s.gaps s.twin s.slots s.engines s.edges s.sports s.lites s.levels
        s.strobes s.cal s.nv s.fuses s.changes s.safe s.badBands s.serial s.partSB s.freeCtr) := by
  refine h.trans (fun p hp => ?_)
  have hn := fun h => hp (hl h)
  cases p <;> first | rfl | exact absurd (by decide) hn

theorem SameBut.set_regs {l : List Part} {u s : State}
    {regs : List (Nat × Word)}
    (hl : [.regs] ⊆ l) (h : SameBut l u s) :
    SameBut l u (State.mk
      s.pending regs s.shadow s.pages s.pwr s.clk s.pins s.tap s.gc s.gen s.host s.inputs s.exc s.cores s.bands
        s.hkc s.queueEcc s.aout s.inCoefs s.chains s.flt s.time s.lanes s.ring s.adm s.addrTable s.sent s.streams
        s.strmSel s.vat s.cmd s.reams s.captSel s.gaps s.twin s.slots s.engines s.edges s.sports s.lites s.levels
        s.strobes s.cal s.nv s.fuses s.changes s.safe s.badBands s.serial s.partSB s.freeCtr) := by
  refine h.trans (fun p hp => ?_)
  have hn := fun h => hp (hl h)
  cases p <;> first | rfl | exact absurd (by decide) hn

theorem SameBut.set_ring {l : List Part} {u s : State}
    {ring : RingState}
    (hl : [.ring] ⊆ l) (h : SameBut l u s) :
    SameBut l u (State.mk
      s.pending s.regs s.shadow s.pages s.pwr s.clk s.pins s.tap s.gc s.gen s.host s.inputs s.exc s.cores s.bands
        s.hkc s.queueEcc s.aout s.inCoefs s.chains s.flt s.time s.lanes ring s.adm s.addrTable s.sent s.streams
        s.strmSel s.vat s.cmd s.reams s.captSel s.gaps s.twin s.slots s.engines s.edges s.sports s.lites s.levels
        s.strobes s.cal s.nv s.fuses s.changes s.safe s.badBands s.serial s.partSB s.freeCtr) := by
  refine h.trans (fun p hp => ?_)
  have hn := fun h => hp (hl h)
  cases p <;> first | rfl | exact absurd (by decide) hn

theorem SameBut.set_safe {l : List Part} {u s : State}
    {safe : SafeState}
    (hl : [.safe] ⊆ l) (h : SameBut l u s) :
    SameBut l u (State.mk
      s.pending s.regs s.shadow s.pages s.pwr s.clk s.pins s.tap s.gc s.gen s.host s.inputs s.exc s.cores s.bands
        s.hkc s.queueEcc s.aout s.inCoefs s.chains s.flt s.time s.lanes s.ring s.adm s.addrTable s.sent s.streams
        s.strmSel s.vat s.cmd s.reams s.captSel s.gaps s.twin s.slots s.engines s.edges s.sports s.lites s.levels
        s.strobes s.cal s.nv s.fuses s.changes safe s.badBands s.serial s.partSB s.freeCtr) := by
  refine h.trans (fun p hp => ?_)
  have hn := fun h => hp (hl h)
  cases p <;> first | rfl | exact absurd (by decide) hn

theorem SameBut.set_sent {l : List Part} {u s : State}
    {sent : List TxFrame}
    (hl : [.sent] ⊆ l) (h : SameBut l u s) :
    SameBut l u (State.mk
      s.pending s.regs s.shadow s.pages s.pwr s.clk s.pins s.tap s.gc s.gen s.host s.inputs s.exc s.cores s.bands
        s.hkc s.queueEcc s.aout s.inCoefs s.chains s.flt s.time s.lanes s.ring s.adm s.addrTable sent s.streams
        s.strmSel s.vat s.cmd s.reams s.captSel s.gaps s.twin s.slots s.engines s.edges s.sports s.lites s.levels
        s.strobes s.cal s.nv s.fuses s.changes s.safe s.badBands s.serial s.partSB s.freeCtr) := by
  refine h.trans (fun p hp => ?_)
  have hn := fun h => hp (hl h)
  cases p <;> first | rfl | exact absurd (by decide) hn

theorem SameBut.set_shadow {l : List Part} {u s : State}
    {shadow : List (Nat × Word)}
    (hl : [.shadow] ⊆ l) (h : SameBut l u s) :
    SameBut l u (State.mk
      s.pending s.regs shadow s.pages s.pwr s.clk s.pins s.tap s.gc s.gen s.host s.inputs s.exc s.cores s.bands
        s.hkc s.queueEcc s.aout s.inCoefs s.chains s.flt s.time s.lanes s.ring s.adm s.addrTable s.sent s.streams
        s.strmSel s.vat s.cmd s.reams s.captSel s.gaps s.twin s.slots s.engines s.edges s.sports s.lites s.levels
        s.strobes s.cal s.nv s.fuses s.changes s.safe s.badBands s.serial s.partSB s.freeCtr) := by
  refine h.trans (fun p hp => ?_)
  have hn := fun h => hp (hl h)
  cases p <;> first | rfl | exact absurd (by decide) hn

theorem SameBut.set_slots {l : List Part} {u s : State}
    {slots : List SlotState}
    (hl : [.slots] ⊆ l) (h : SameBut l u s) :
    SameBut l u (State.mk
      s.pending s.regs s.shadow s.pages s.pwr s.clk s.pins s.tap s.gc s.gen s.host s.inputs s.exc s.cores s.bands
        s.hkc s.queueEcc s.aout s.inCoefs s.chains s.flt s.time s.lanes s.ring s.adm s.addrTable s.sent s.streams
        s.strmSel s.vat s.cmd s.reams s.captSel s.gaps s.twin slots s.engines s.edges s.sports s.lites s.levels
        s.strobes s.cal s.nv s.fuses s.changes s.safe s.badBands s.serial s.partSB s.freeCtr) := by
  refine h.trans (fun p hp => ?_)
  have hn := fun h => hp (hl h)
  cases p <;> first | rfl | exact absurd (by decide) hn

theorem SameBut.set_sports {l : List Part} {u s : State}
    {sports : List SprtState}
    (hl : [.sports] ⊆ l) (h : SameBut l u s) :
    SameBut l u (State.mk
      s.pending s.regs s.shadow s.pages s.pwr s.clk s.pins s.tap s.gc s.gen s.host s.inputs s.exc s.cores s.bands
        s.hkc s.queueEcc s.aout s.inCoefs s.chains s.flt s.time s.lanes s.ring s.adm s.addrTable s.sent s.streams
        s.strmSel s.vat s.cmd s.reams s.captSel s.gaps s.twin s.slots s.engines s.edges sports s.lites s.levels
        s.strobes s.cal s.nv s.fuses s.changes s.safe s.badBands s.serial s.partSB s.freeCtr) := by
  refine h.trans (fun p hp => ?_)
  have hn := fun h => hp (hl h)
  cases p <;> first | rfl | exact absurd (by decide) hn

theorem SameBut.set_streams {l : List Part} {u s : State}
    {streams : List StreamState}
    (hl : [.streams] ⊆ l) (h : SameBut l u s) :
    SameBut l u (State.mk
      s.pending s.regs s.shadow s.pages s.pwr s.clk s.pins s.tap s.gc s.gen s.host s.inputs s.exc s.cores s.bands
        s.hkc s.queueEcc s.aout s.inCoefs s.chains s.flt s.time s.lanes s.ring s.adm s.addrTable s.sent streams
        s.strmSel s.vat s.cmd s.reams s.captSel s.gaps s.twin s.slots s.engines s.edges s.sports s.lites s.levels
        s.strobes s.cal s.nv s.fuses s.changes s.safe s.badBands s.serial s.partSB s.freeCtr) := by
  refine h.trans (fun p hp => ?_)
  have hn := fun h => hp (hl h)
  cases p <;> first | rfl | exact absurd (by decide) hn

theorem SameBut.set_strmSel {l : List Part} {u s : State}
    {strmSel : List (Nat × Word)}
    (hl : [.strmSel] ⊆ l) (h : SameBut l u s) :
    SameBut l u (State.mk
      s.pending s.regs s.shadow s.pages s.pwr s.clk s.pins s.tap s.gc s.gen s.host s.inputs s.exc s.cores s.bands
        s.hkc s.queueEcc s.aout s.inCoefs s.chains s.flt s.time s.lanes s.ring s.adm s.addrTable s.sent s.streams
        strmSel s.vat s.cmd s.reams s.captSel s.gaps s.twin s.slots s.engines s.edges s.sports s.lites s.levels
        s.strobes s.cal s.nv s.fuses s.changes s.safe s.badBands s.serial s.partSB s.freeCtr) := by
  refine h.trans (fun p hp => ?_)
  have hn := fun h => hp (hl h)
  cases p <;> first | rfl | exact absurd (by decide) hn

theorem SameBut.set_strobes {l : List Part} {u s : State}
    {strobes : List StrobeState}
    (hl : [.strobes] ⊆ l) (h : SameBut l u s) :
    SameBut l u (State.mk
      s.pending s.regs s.shadow s.pages s.pwr s.clk s.pins s.tap s.gc s.gen s.host s.inputs s.exc s.cores s.bands
        s.hkc s.queueEcc s.aout s.inCoefs s.chains s.flt s.time s.lanes s.ring s.adm s.addrTable s.sent s.streams
        s.strmSel s.vat s.cmd s.reams s.captSel s.gaps s.twin s.slots s.engines s.edges s.sports s.lites s.levels
        strobes s.cal s.nv s.fuses s.changes s.safe s.badBands s.serial s.partSB s.freeCtr) := by
  refine h.trans (fun p hp => ?_)
  have hn := fun h => hp (hl h)
  cases p <;> first | rfl | exact absurd (by decide) hn

theorem SameBut.set_tap {l : List Part} {u s : State}
    {tap : TapInstr}
    (hl : [.tap] ⊆ l) (h : SameBut l u s) :
    SameBut l u (State.mk
      s.pending s.regs s.shadow s.pages s.pwr s.clk s.pins tap s.gc s.gen s.host s.inputs s.exc s.cores s.bands
        s.hkc s.queueEcc s.aout s.inCoefs s.chains s.flt s.time s.lanes s.ring s.adm s.addrTable s.sent s.streams
        s.strmSel s.vat s.cmd s.reams s.captSel s.gaps s.twin s.slots s.engines s.edges s.sports s.lites s.levels
        s.strobes s.cal s.nv s.fuses s.changes s.safe s.badBands s.serial s.partSB s.freeCtr) := by
  refine h.trans (fun p hp => ?_)
  have hn := fun h => hp (hl h)
  cases p <;> first | rfl | exact absurd (by decide) hn

theorem SameBut.set_time {l : List Part} {u s : State}
    {time : TimeState}
    (hl : [.time] ⊆ l) (h : SameBut l u s) :
    SameBut l u (State.mk
      s.pending s.regs s.shadow s.pages s.pwr s.clk s.pins s.tap s.gc s.gen s.host s.inputs s.exc s.cores s.bands
        s.hkc s.queueEcc s.aout s.inCoefs s.chains s.flt time s.lanes s.ring s.adm s.addrTable s.sent s.streams
        s.strmSel s.vat s.cmd s.reams s.captSel s.gaps s.twin s.slots s.engines s.edges s.sports s.lites s.levels
        s.strobes s.cal s.nv s.fuses s.changes s.safe s.badBands s.serial s.partSB s.freeCtr) := by
  refine h.trans (fun p hp => ?_)
  have hn := fun h => hp (hl h)
  cases p <;> first | rfl | exact absurd (by decide) hn

theorem SameBut.set_twin {l : List Part} {u s : State}
    {twin : TwinState}
    (hl : [.twin] ⊆ l) (h : SameBut l u s) :
    SameBut l u (State.mk
      s.pending s.regs s.shadow s.pages s.pwr s.clk s.pins s.tap s.gc s.gen s.host s.inputs s.exc s.cores s.bands
        s.hkc s.queueEcc s.aout s.inCoefs s.chains s.flt s.time s.lanes s.ring s.adm s.addrTable s.sent s.streams
        s.strmSel s.vat s.cmd s.reams s.captSel s.gaps twin s.slots s.engines s.edges s.sports s.lites s.levels
        s.strobes s.cal s.nv s.fuses s.changes s.safe s.badBands s.serial s.partSB s.freeCtr) := by
  refine h.trans (fun p hp => ?_)
  have hn := fun h => hp (hl h)
  cases p <;> first | rfl | exact absurd (by decide) hn

theorem SameBut.set_vat {l : List Part} {u s : State}
    {vat : List Host.Cell}
    (hl : [.vat] ⊆ l) (h : SameBut l u s) :
    SameBut l u (State.mk
      s.pending s.regs s.shadow s.pages s.pwr s.clk s.pins s.tap s.gc s.gen s.host s.inputs s.exc s.cores s.bands
        s.hkc s.queueEcc s.aout s.inCoefs s.chains s.flt s.time s.lanes s.ring s.adm s.addrTable s.sent s.streams
        s.strmSel vat s.cmd s.reams s.captSel s.gaps s.twin s.slots s.engines s.edges s.sports s.lites s.levels
        s.strobes s.cal s.nv s.fuses s.changes s.safe s.badBands s.serial s.partSB s.freeCtr) := by
  refine h.trans (fun p hp => ?_)
  have hn := fun h => hp (hl h)
  cases p <;> first | rfl | exact absurd (by decide) hn

theorem SameBut.set_cal_freeCtr {l : List Part} {u s : State}
    {cal : CalState} {freeCtr : Nat}
    (hl : [.cal, .freeCtr] ⊆ l) (h : SameBut l u s) :
    SameBut l u (State.mk
      s.pending s.regs s.shadow s.pages s.pwr s.clk s.pins s.tap s.gc s.gen s.host s.inputs s.exc s.cores s.bands
        s.hkc s.queueEcc s.aout s.inCoefs s.chains s.flt s.time s.lanes s.ring s.adm s.addrTable s.sent s.streams
        s.strmSel s.vat s.cmd s.reams s.captSel s.gaps s.twin s.slots s.engines s.edges s.sports s.lites s.levels
        s.strobes cal s.nv s.fuses s.changes s.safe s.badBands s.serial s.partSB freeCtr) := by
  refine h.trans (fun p hp => ?_)
  have hn := fun h => hp (hl h)
  cases p <;> first | rfl | exact absurd (by decide) hn

theorem SameBut.set_chains_flt {l : List Part} {u s : State}
    {chains : List ChainState} {flt : FltState}
    (hl : [.chains, .flt] ⊆ l) (h : SameBut l u s) :
    SameBut l u (State.mk
      s.pending s.regs s.shadow s.pages s.pwr s.clk s.pins s.tap s.gc s.gen s.host s.inputs s.exc s.cores s.bands
        s.hkc s.queueEcc s.aout s.inCoefs chains flt s.time s.lanes s.ring s.adm s.addrTable s.sent s.streams
        s.strmSel s.vat s.cmd s.reams s.captSel s.gaps s.twin s.slots s.engines s.edges s.sports s.lites s.levels
        s.strobes s.cal s.nv s.fuses s.changes s.safe s.badBands s.serial s.partSB s.freeCtr) := by
  refine h.trans (fun p hp => ?_)
  have hn := fun h => hp (hl h)
  cases p <;> first | rfl | exact absurd (by decide) hn

theorem SameBut.set_cores_freeCtr {l : List Part} {u s : State}
    {cores : List CoreState} {freeCtr : Nat}
    (hl : [.cores, .freeCtr] ⊆ l) (h : SameBut l u s) :
    SameBut l u (State.mk
      s.pending s.regs s.shadow s.pages s.pwr s.clk s.pins s.tap s.gc s.gen s.host s.inputs s.exc cores s.bands
        s.hkc s.queueEcc s.aout s.inCoefs s.chains s.flt s.time s.lanes s.ring s.adm s.addrTable s.sent s.streams
        s.strmSel s.vat s.cmd s.reams s.captSel s.gaps s.twin s.slots s.engines s.edges s.sports s.lites s.levels
        s.strobes s.cal s.nv s.fuses s.changes s.safe s.badBands s.serial s.partSB freeCtr) := by
  refine h.trans (fun p hp => ?_)
  have hn := fun h => hp (hl h)
  cases p <;> first | rfl | exact absurd (by decide) hn

theorem SameBut.set_gc_gen {l : List Part} {u s : State}
    {gc : List Ball} {gen : List Ball}
    (hl : [.gc, .gen] ⊆ l) (h : SameBut l u s) :
    SameBut l u (State.mk
      s.pending s.regs s.shadow s.pages s.pwr s.clk s.pins s.tap gc gen s.host s.inputs s.exc s.cores s.bands s.hkc
        s.queueEcc s.aout s.inCoefs s.chains s.flt s.time s.lanes s.ring s.adm s.addrTable s.sent s.streams
        s.strmSel s.vat s.cmd s.reams s.captSel s.gaps s.twin s.slots s.engines s.edges s.sports s.lites s.levels
        s.strobes s.cal s.nv s.fuses s.changes s.safe s.badBands s.serial s.partSB s.freeCtr) := by
  refine h.trans (fun p hp => ?_)
  have hn := fun h => hp (hl h)
  cases p <;> first | rfl | exact absurd (by decide) hn

theorem SameBut.set_inCoefs_cal {l : List Part} {u s : State}
    {inCoefs : List (Nat × (Int × Int))} {cal : CalState}
    (hl : [.inCoefs, .cal] ⊆ l) (h : SameBut l u s) :
    SameBut l u (State.mk
      s.pending s.regs s.shadow s.pages s.pwr s.clk s.pins s.tap s.gc s.gen s.host s.inputs s.exc s.cores s.bands
        s.hkc s.queueEcc s.aout inCoefs s.chains s.flt s.time s.lanes s.ring s.adm s.addrTable s.sent s.streams
        s.strmSel s.vat s.cmd s.reams s.captSel s.gaps s.twin s.slots s.engines s.edges s.sports s.lites s.levels
        s.strobes cal s.nv s.fuses s.changes s.safe s.badBands s.serial s.partSB s.freeCtr) := by
  refine h.trans (fun p hp => ?_)
  have hn := fun h => hp (hl h)
  cases p <;> first | rfl | exact absurd (by decide) hn

theorem SameBut.set_inCoefs_freeCtr {l : List Part} {u s : State}
    {inCoefs : List (Nat × (Int × Int))} {freeCtr : Nat}
    (hl : [.inCoefs, .freeCtr] ⊆ l) (h : SameBut l u s) :
    SameBut l u (State.mk
      s.pending s.regs s.shadow s.pages s.pwr s.clk s.pins s.tap s.gc s.gen s.host s.inputs s.exc s.cores s.bands
        s.hkc s.queueEcc s.aout inCoefs s.chains s.flt s.time s.lanes s.ring s.adm s.addrTable s.sent s.streams
        s.strmSel s.vat s.cmd s.reams s.captSel s.gaps s.twin s.slots s.engines s.edges s.sports s.lites s.levels
        s.strobes s.cal s.nv s.fuses s.changes s.safe s.badBands s.serial s.partSB freeCtr) := by
  refine h.trans (fun p hp => ?_)
  have hn := fun h => hp (hl h)
  cases p <;> first | rfl | exact absurd (by decide) hn

theorem SameBut.set_inputs_exc {l : List Part} {u s : State}
    {inputs : List InputState} {exc : List ExcState}
    (hl : [.inputs, .exc] ⊆ l) (h : SameBut l u s) :
    SameBut l u (State.mk
      s.pending s.regs s.shadow s.pages s.pwr s.clk s.pins s.tap s.gc s.gen s.host inputs exc s.cores s.bands s.hkc
        s.queueEcc s.aout s.inCoefs s.chains s.flt s.time s.lanes s.ring s.adm s.addrTable s.sent s.streams
        s.strmSel s.vat s.cmd s.reams s.captSel s.gaps s.twin s.slots s.engines s.edges s.sports s.lites s.levels
        s.strobes s.cal s.nv s.fuses s.changes s.safe s.badBands s.serial s.partSB s.freeCtr) := by
  refine h.trans (fun p hp => ?_)
  have hn := fun h => hp (hl h)
  cases p <;> first | rfl | exact absurd (by decide) hn

theorem SameBut.set_lites_strobes {l : List Part} {u s : State}
    {lites : List LiteState} {strobes : List StrobeState}
    (hl : [.lites, .strobes] ⊆ l) (h : SameBut l u s) :
    SameBut l u (State.mk
      s.pending s.regs s.shadow s.pages s.pwr s.clk s.pins s.tap s.gc s.gen s.host s.inputs s.exc s.cores s.bands
        s.hkc s.queueEcc s.aout s.inCoefs s.chains s.flt s.time s.lanes s.ring s.adm s.addrTable s.sent s.streams
        s.strmSel s.vat s.cmd s.reams s.captSel s.gaps s.twin s.slots s.engines s.edges s.sports lites s.levels
        strobes s.cal s.nv s.fuses s.changes s.safe s.badBands s.serial s.partSB s.freeCtr) := by
  refine h.trans (fun p hp => ?_)
  have hn := fun h => hp (hl h)
  cases p <;> first | rfl | exact absurd (by decide) hn

theorem SameBut.set_reams_captSel {l : List Part} {u s : State}
    {reams : List ReamState} {captSel : List (Nat × Word)}
    (hl : [.reams, .captSel] ⊆ l) (h : SameBut l u s) :
    SameBut l u (State.mk
      s.pending s.regs s.shadow s.pages s.pwr s.clk s.pins s.tap s.gc s.gen s.host s.inputs s.exc s.cores s.bands
        s.hkc s.queueEcc s.aout s.inCoefs s.chains s.flt s.time s.lanes s.ring s.adm s.addrTable s.sent s.streams
        s.strmSel s.vat s.cmd reams captSel s.gaps s.twin s.slots s.engines s.edges s.sports s.lites s.levels
        s.strobes s.cal s.nv s.fuses s.changes s.safe s.badBands s.serial s.partSB s.freeCtr) := by
  refine h.trans (fun p hp => ?_)
  have hn := fun h => hp (hl h)
  cases p <;> first | rfl | exact absurd (by decide) hn

theorem SameBut.set_ring_adm {l : List Part} {u s : State}
    {ring : RingState} {adm : AdmState}
    (hl : [.ring, .adm] ⊆ l) (h : SameBut l u s) :
    SameBut l u (State.mk
      s.pending s.regs s.shadow s.pages s.pwr s.clk s.pins s.tap s.gc s.gen s.host s.inputs s.exc s.cores s.bands
        s.hkc s.queueEcc s.aout s.inCoefs s.chains s.flt s.time s.lanes ring adm s.addrTable s.sent s.streams
        s.strmSel s.vat s.cmd s.reams s.captSel s.gaps s.twin s.slots s.engines s.edges s.sports s.lites s.levels
        s.strobes s.cal s.nv s.fuses s.changes s.safe s.badBands s.serial s.partSB s.freeCtr) := by
  refine h.trans (fun p hp => ?_)
  have hn := fun h => hp (hl h)
  cases p <;> first | rfl | exact absurd (by decide) hn

theorem SameBut.set_streams_strmSel {l : List Part} {u s : State}
    {streams : List StreamState} {strmSel : List (Nat × Word)}
    (hl : [.streams, .strmSel] ⊆ l) (h : SameBut l u s) :
    SameBut l u (State.mk
      s.pending s.regs s.shadow s.pages s.pwr s.clk s.pins s.tap s.gc s.gen s.host s.inputs s.exc s.cores s.bands
        s.hkc s.queueEcc s.aout s.inCoefs s.chains s.flt s.time s.lanes s.ring s.adm s.addrTable s.sent streams
        strmSel s.vat s.cmd s.reams s.captSel s.gaps s.twin s.slots s.engines s.edges s.sports s.lites s.levels
        s.strobes s.cal s.nv s.fuses s.changes s.safe s.badBands s.serial s.partSB s.freeCtr) := by
  refine h.trans (fun p hp => ?_)
  have hn := fun h => hp (hl h)
  cases p <;> first | rfl | exact absurd (by decide) hn

theorem SameBut.set_lanes_ring_adm {l : List Part} {u s : State}
    {lanes : List LaneState} {ring : RingState} {adm : AdmState}
    (hl : [.lanes, .ring, .adm] ⊆ l) (h : SameBut l u s) :
    SameBut l u (State.mk
      s.pending s.regs s.shadow s.pages s.pwr s.clk s.pins s.tap s.gc s.gen s.host s.inputs s.exc s.cores s.bands
        s.hkc s.queueEcc s.aout s.inCoefs s.chains s.flt s.time lanes ring adm s.addrTable s.sent s.streams
        s.strmSel s.vat s.cmd s.reams s.captSel s.gaps s.twin s.slots s.engines s.edges s.sports s.lites s.levels
        s.strobes s.cal s.nv s.fuses s.changes s.safe s.badBands s.serial s.partSB s.freeCtr) := by
  refine h.trans (fun p hp => ?_)
  have hn := fun h => hp (hl h)
  cases p <;> first | rfl | exact absurd (by decide) hn

theorem SameBut.set_regs_shadow_pages {l : List Part} {u s : State}
    {regs : List (Nat × Word)} {shadow : List (Nat × Word)} {pages : List (Nat × PageInfo)}
    (hl : [.regs, .shadow, .pages] ⊆ l) (h : SameBut l u s) :
    SameBut l u (State.mk
      s.pending regs shadow pages s.pwr s.clk s.pins s.tap s.gc s.gen s.host s.inputs s.exc s.cores s.bands s.hkc
        s.queueEcc s.aout s.inCoefs s.chains s.flt s.time s.lanes s.ring s.adm s.addrTable s.sent s.streams
        s.strmSel s.vat s.cmd s.reams s.captSel s.gaps s.twin s.slots s.engines s.edges s.sports s.lites s.levels
        s.strobes s.cal s.nv s.fuses s.changes s.safe s.badBands s.serial s.partSB s.freeCtr) := by
  refine h.trans (fun p hp => ?_)
  have hn := fun h => hp (hl h)
  cases p <;> first | rfl | exact absurd (by decide) hn

theorem SameBut.set_flt_addrTable_strmSel_captSel_engines_levels {l : List Part} {u s : State}
    {flt : FltState} {addrTable : List (Nat × Nat)} {strmSel : List (Nat × Word)} {captSel : List (Nat × Word)}
      {engines : List EngineState} {levels : List (Nat × Nat)}
    (hl : [.flt, .addrTable, .strmSel, .captSel, .engines, .levels] ⊆ l) (h : SameBut l u s) :
    SameBut l u (State.mk
      s.pending s.regs s.shadow s.pages s.pwr s.clk s.pins s.tap s.gc s.gen s.host s.inputs s.exc s.cores s.bands
        s.hkc s.queueEcc s.aout s.inCoefs s.chains flt s.time s.lanes s.ring s.adm addrTable s.sent s.streams
        strmSel s.vat s.cmd s.reams captSel s.gaps s.twin s.slots engines s.edges s.sports s.lites levels s.strobes
        s.cal s.nv s.fuses s.changes s.safe s.badBands s.serial s.partSB s.freeCtr) := by
  refine h.trans (fun p hp => ?_)
  have hn := fun h => hp (hl h)
  cases p <;> first | rfl | exact absurd (by decide) hn

theorem SameBut.set_regs_shadow_flt_addrTable_strmSel_captSel_levels {l : List Part} {u s : State}
    {regs : List (Nat × Word)} {shadow : List (Nat × Word)} {flt : FltState} {addrTable : List (Nat × Nat)} {strmSel
      : List (Nat × Word)} {captSel : List (Nat × Word)} {levels : List (Nat × Nat)}
    (hl : [.regs, .shadow, .flt, .addrTable, .strmSel, .captSel, .levels] ⊆ l) (h : SameBut l u s) :
    SameBut l u (State.mk
      s.pending regs shadow s.pages s.pwr s.clk s.pins s.tap s.gc s.gen s.host s.inputs s.exc s.cores s.bands s.hkc
        s.queueEcc s.aout s.inCoefs s.chains flt s.time s.lanes s.ring s.adm addrTable s.sent s.streams strmSel
        s.vat s.cmd s.reams captSel s.gaps s.twin s.slots s.engines s.edges s.sports s.lites levels s.strobes s.cal
        s.nv s.fuses s.changes s.safe s.badBands s.serial s.partSB s.freeCtr) := by
  refine h.trans (fun p hp => ?_)
  have hn := fun h => hp (hl h)
  cases p <;> first | rfl | exact absurd (by decide) hn

theorem SameBut.set_shadow_pages_inputs_hkc_aout_chains_flt_twin_slots_engines_sports {l : List Part} {u s : State}
    {shadow : List (Nat × Word)} {pages : List (Nat × PageInfo)} {inputs : List InputState} {hkc : HkcState} {aout :
      List AoState} {chains : List ChainState} {flt : FltState} {twin : TwinState} {slots : List SlotState} {engines
      : List EngineState} {sports : List SprtState}
    (hl : [.shadow, .pages, .inputs, .hkc, .aout, .chains, .flt, .twin, .slots, .engines, .sports] ⊆ l) (h : SameBut l u s) :
    SameBut l u (State.mk
      s.pending s.regs shadow pages s.pwr s.clk s.pins s.tap s.gc s.gen s.host inputs s.exc s.cores s.bands hkc
        s.queueEcc aout s.inCoefs chains flt s.time s.lanes s.ring s.adm s.addrTable s.sent s.streams s.strmSel
        s.vat s.cmd s.reams s.captSel s.gaps twin slots engines s.edges sports s.lites s.levels s.strobes s.cal s.nv
        s.fuses s.changes s.safe s.badBands s.serial s.partSB s.freeCtr) := by
  refine h.trans (fun p hp => ?_)
  have hn := fun h => hp (hl h)
  cases p <;> first | rfl | exact absurd (by decide) hn

-- writing registers and the Vat

theorem frame_wr {l : List Part} {u s : State} {a : Nat} {v : Word} (hl : [.regs] ⊆ l) (h : SameBut l u s) :
    SameBut l u (wr s a v) := SameBut.set_regs hl h

theorem frame_vatPut {l : List Part} {u s : State} {a : Nat} {b : Byte} (hl : [.vat] ⊆ l) (h : SameBut l u s) :
    SameBut l u (vatPut s a b) := SameBut.set_vat hl h

end Sys2Proof.Machine
end

