-- ==== Sys2Proof/Laws/FrameOps.lean ====
section
/-!
SUPPORT. What every operation of Machine/Ops.lean leaves alone (SameBut): one lemma for each operation that answers a state.
-/
set_option linter.all false

namespace Sys2Proof.Machine

theorem frame_wr64 {fp : List Part} {u0 : State} (s : State) (lo v : Nat)
    (hfp : [.regs] ⊆ fp) (h0 : SameBut fp u0 s) :
    SameBut fp u0 (wr64 s lo v) := by
  unfold wr64
  repeat'
    first
    | with_reducible assumption | exact List.Subset.trans (by decide) hfp | with_reducible apply frame_wr

theorem frame_bumpSat {fp : List Part} {u0 : State} (s : State) (a lo n k : Nat)
    (hfp : [.regs] ⊆ fp) (h0 : SameBut fp u0 s) :
    SameBut fp u0 (bumpSat s a lo n k) := by
  unfold bumpSat
  repeat'
    first
    | with_reducible assumption | exact List.Subset.trans (by decide) hfp | with_reducible apply frame_wr

theorem frame_bumpWrap {fp : List Part} {u0 : State} (s : State) (a lo n k : Nat)
    (hfp : [.regs] ⊆ fp) (h0 : SameBut fp u0 s) :
    SameBut fp u0 (bumpWrap s a lo n k) := by
  unfold bumpWrap
  repeat'
    first
    | with_reducible assumption | exact List.Subset.trans (by decide) hfp | with_reducible apply frame_wr

theorem frame_drawn {fp : List Part} {u0 : State} (s : State)
    (hfp : [.freeCtr] ⊆ fp) (h0 : SameBut fp u0 s) :
    SameBut fp u0 (drawn s) := by
  unfold drawn
  repeat'
    first
    | with_reducible assumption | exact List.Subset.trans (by decide) hfp
    | with_reducible apply SameBut.set_freeCtr

theorem frame_evt {fp : List Part} {u0 : State} (s : State) (page i : Nat)
    (hfp : [.regs] ⊆ fp) (h0 : SameBut fp u0 s) :
    SameBut fp u0 (evt s page i) := by
  unfold evt
  repeat'
    first
    | with_reducible assumption | exact List.Subset.trans (by decide) hfp | with_reducible apply frame_wr

theorem frame_evtIf {fp : List Part} {u0 : State} (c : Bool) (s : State) (page i : Nat)
    (hfp : [.regs] ⊆ fp) (h0 : SameBut fp u0 s) :
    SameBut fp u0 (evtIf c s page i) := by
  unfold evtIf
  repeat'
    first
    | with_reducible assumption | exact List.Subset.trans (by decide) hfp | with_reducible apply sameBut_ite
    | with_reducible apply frame_evt

theorem frame_onPage {fp : List Part} {u0 : State} (s : State) (p : Nat) (f : PageInfo → PageInfo)
    (hfp : [.pages] ⊆ fp) (h0 : SameBut fp u0 s) :
    SameBut fp u0 (onPage s p f) := by
  unfold onPage
  repeat'
    first
    | with_reducible assumption | exact List.Subset.trans (by decide) hfp
    | with_reducible apply SameBut.set_pages

theorem frame_onPath {fp : List Part} {u0 : State} (s : State) (p : Path) (f : PathState → PathState)
    (hfp : [.host] ⊆ fp) (h0 : SameBut fp u0 s) :
    SameBut fp u0 (onPath s p f) := by
  unfold onPath
  repeat'
    first
    | with_reducible assumption | exact List.Subset.trans (by decide) hfp
    | with_reducible apply SameBut.set_host

theorem frame_refuseOn {fp : List Part} {u0 : State} (s : State) (w : Who) (p a : Nat) (r : Rej)
    (hfp : [.regs, .pages, .host] ⊆ fp) (h0 : SameBut fp u0 s) :
    SameBut fp u0 (refuseOn s w p a r) := by
  unfold refuseOn
  dsimp only
  repeat'
    first
    | with_reducible assumption | exact List.Subset.trans (by decide) hfp | with_reducible intro _
    | with_reducible apply sameBut_ite | with_reducible apply frame_onPage | with_reducible apply frame_wr
    | with_reducible apply frame_onPath | with_reducible apply frame_bumpSat | split | dsimp only

theorem frame_refuse {fp : List Part} {u0 : State} (s : State) (w : Who) (a : Nat) (r : Rej)
    (hfp : [.regs, .pages, .host] ⊆ fp) (h0 : SameBut fp u0 s) :
    SameBut fp u0 (refuse s w a r) := by
  unfold refuse
  repeat'
    first
    | with_reducible assumption | exact List.Subset.trans (by decide) hfp | with_reducible apply sameBut_ite
    | with_reducible apply frame_refuseOn

theorem frame_checked {fp : List Part} {u0 : State} (s : State) (w : Who) (a : Nat) (c : Option Rej) (act : State →
    State) (hact : ∀ x, SameBut fp u0 x → SameBut fp u0 (act x))
    (hfp : [.regs, .pages, .host] ⊆ fp) (h0 : SameBut fp u0 s) :
    SameBut fp u0 (checked s w a c act) := by
  unfold checked
  repeat'
    first
    | with_reducible assumption | exact List.Subset.trans (by decide) hfp | with_reducible apply frame_refuse
    | with_reducible apply hact | split

theorem frame_faultSrc {fp : List Part} {u0 : State} (s : State) (i : Nat)
    (hfp : [.regs] ⊆ fp) (h0 : SameBut fp u0 s) :
    SameBut fp u0 (faultSrc s i) := by
  unfold faultSrc
  repeat'
    first
    | with_reducible assumption | exact List.Subset.trans (by decide) hfp | with_reducible apply frame_wr

theorem frame_queueError {fp : List Part} {u0 : State} (s : State) (q corr unc : Nat)
    (hfp : [.regs, .queueEcc] ⊆ fp) (h0 : SameBut fp u0 s) :
    SameBut fp u0 (queueError s q corr unc) := by
  unfold queueError
  dsimp only
  repeat'
    first
    | with_reducible assumption | exact List.Subset.trans (by decide) hfp | with_reducible apply frame_bumpSat
    | with_reducible apply frame_evtIf | with_reducible apply SameBut.set_queueEcc | dsimp only

theorem frame_fromQueue {fp : List Part} {u0 : State} (s : State) (q : Nat) (e : WordErr) (w lost : Word)
    (hfp : [.regs, .queueEcc, .freeCtr] ⊆ fp) (h0 : SameBut fp u0 s) :
    SameBut fp u0 (fromQueue s q e w lost).1 := by
  unfold fromQueue
  repeat'
    first
    | with_reducible assumption | exact List.Subset.trans (by decide) hfp
    | with_reducible apply frame_queueError | with_reducible apply frame_drawn | split

theorem frame_readStamp {fp : List Part} {u0 : State} (s : State) (e : WordErr) (stamp : Nat)
    (hfp : [.regs, .queueEcc, .freeCtr] ⊆ fp) (h0 : SameBut fp u0 s) :
    SameBut fp u0 (readStamp s e stamp).1 := by
  unfold readStamp
  repeat'
    first
    | with_reducible assumption | exact List.Subset.trans (by decide) hfp
    | with_reducible apply frame_queueError | with_reducible apply frame_drawn | split

end Sys2Proof.Machine
end

