-- ==== Sys2Proof/Laws/FrameAccess.lean ====
section
/-!
SUPPORT. What every operation of Machine/Access.lean leaves alone (SameBut): one lemma for each operation that answers a state.
-/
set_option linter.all false

namespace Sys2Proof.Machine

theorem frame_changeEntry {fp : List Part} {u0 : State} (s : State) (kind level : Nat) (p : Path) (top w4 : Nat) (old
    new : Word)
    (hfp : [.regs, .changes] ⊆ fp) (h0 : SameBut fp u0 s) :
    SameBut fp u0 (changeEntry s kind level p top w4 old new) := by
  unfold changeEntry
  dsimp only
  repeat'
    first
    | with_reducible assumption | exact List.Subset.trans (by decide) hfp | with_reducible apply sameBut_ite
    | with_reducible apply frame_evtIf | with_reducible apply frame_evt
    | with_reducible apply SameBut.set_changes | dsimp only

theorem frame_noteWrite {fp : List Part} {u0 : State} (s : State) (w : Who) (a : Nat) (v : Word)
    (hfp : [.regs, .changes] ⊆ fp) (h0 : SameBut fp u0 s) :
    SameBut fp u0 (noteWrite s w a v) := by
  unfold noteWrite
  repeat'
    first
    | with_reducible assumption | exact List.Subset.trans (by decide) hfp | with_reducible apply sameBut_ite
    | with_reducible apply frame_changeEntry | split

theorem frame_entryRefused {fp : List Part} {u0 : State} (s : State) (w : Who) (a : Nat)
    (hfp : [.regs, .pages, .host] ⊆ fp) (h0 : SameBut fp u0 s) :
    SameBut fp u0 (entryRefused s w a) := by
  unfold entryRefused
  repeat'
    first
    | with_reducible assumption | exact List.Subset.trans (by decide) hfp | with_reducible apply frame_evt
    | with_reducible apply frame_refuseOn | with_reducible apply frame_refuse

theorem frame_entered {fp : List Part} {u0 : State} (s : State) (w : Who) (a : Nat) (v : Word) (act : State → State)
    (hact : ∀ x, SameBut fp u0 x → SameBut fp u0 (act x))
    (hfp : [.regs, .pages, .host, .changes] ⊆ fp) (h0 : SameBut fp u0 s) :
    SameBut fp u0 (entered s w a v act) := by
  unfold entered
  repeat'
    first
    | with_reducible assumption | exact List.Subset.trans (by decide) hfp | with_reducible apply sameBut_ite
    | with_reducible apply frame_entryRefused | with_reducible apply frame_noteWrite
    | with_reducible apply hact

theorem frame_gated {fp : List Part} {u0 : State} (s : State) (w : Who) (a : Nat) (act : State → State) (hact : ∀ x,
    SameBut fp u0 x → SameBut fp u0 (act x))
    (hfp : [.regs, .pages, .host] ⊆ fp) (h0 : SameBut fp u0 s) :
    SameBut fp u0 (gated s w a act) := by
  unfold gated
  repeat'
    first
    | with_reducible assumption | exact List.Subset.trans (by decide) hfp | with_reducible intro _
    | with_reducible apply sameBut_ite | with_reducible apply frame_checked | with_reducible apply hact

theorem frame_hostAct {fp : List Part} {u0 : State} (s : State) (w : Who) (a : Nat) (v : Word) (c : Option Rej) (act
    : State → State) (hact : ∀ x, SameBut fp u0 x → SameBut fp u0 (act x))
    (hfp : [.regs, .pages, .host, .changes] ⊆ fp) (h0 : SameBut fp u0 s) :
    SameBut fp u0 (hostAct s w a v c act) := by
  unfold hostAct
  repeat'
    first
    | with_reducible assumption | exact List.Subset.trans (by decide) hfp | with_reducible intro _
    | with_reducible apply sameBut_ite | with_reducible apply frame_checked
    | with_reducible apply frame_entered | with_reducible apply hact | dsimp only

theorem frame_lapse {fp : List Part} {u0 : State} (s : State) (p : Path)
    (hfp : [.regs, .host, .changes] ⊆ fp) (h0 : SameBut fp u0 s) :
    SameBut fp u0 (lapse s p) := by
  unfold lapse
  dsimp only
  repeat'
    first
    | with_reducible assumption | exact List.Subset.trans (by decide) hfp | with_reducible intro _
    | with_reducible apply sameBut_ite | with_reducible apply frame_changeEntry
    | with_reducible apply frame_onPath | dsimp only

end Sys2Proof.Machine
end

