-- ==== Sys2Proof/Laws/FrameFront.lean ====
section
/-!
SUPPORT. What every operation of Machine/Front.lean leaves alone (SameBut): one lemma for each operation that answers a state.
-/
set_option linter.all false

namespace Sys2Proof.Machine

theorem frame_onInput {fp : List Part} {u0 : State} (s : State) (ch : Nat) (f : InputState → InputState)
    (hfp : [.inputs] ⊆ fp) (h0 : SameBut fp u0 s) :
    SameBut fp u0 (onInput s ch f) := by
  unfold onInput
  repeat'
    first
    | with_reducible assumption | exact List.Subset.trans (by decide) hfp
    | with_reducible apply SameBut.set_inputs

theorem frame_onExc {fp : List Part} {u0 : State} (s : State) (k : Nat) (f : ExcState → ExcState)
    (hfp : [.exc] ⊆ fp) (h0 : SameBut fp u0 s) :
    SameBut fp u0 (onExc s k f) := by
  unfold onExc
  repeat'
    first
    | with_reducible assumption | exact List.Subset.trans (by decide) hfp
    | with_reducible apply SameBut.set_exc

theorem frame_excChange {fp : List Part} {u0 : State} (s : State) (k n : Nat)
    (hfp : [.exc] ⊆ fp) (h0 : SameBut fp u0 s) :
    SameBut fp u0 (excChange s k n) := by
  unfold excChange
  repeat'
    first
    | with_reducible assumption | exact List.Subset.trans (by decide) hfp | with_reducible intro _
    | with_reducible apply frame_onExc | dsimp only

theorem frame_endBreak {fp : List Part} {u0 : State} (s : State) (ch : Nat)
    (hfp : [.regs, .inputs] ⊆ fp) (h0 : SameBut fp u0 s) :
    SameBut fp u0 (endBreak s ch) := by
  unfold endBreak
  repeat'
    first
    | with_reducible assumption | exact List.Subset.trans (by decide) hfp | with_reducible intro _
    | with_reducible apply frame_evt | with_reducible apply frame_onInput | dsimp only

theorem frame_rawSample {fp : List Part} {u0 : State} (s : State) (ch n : Nat) (c : Conversion)
    (hfp : [.regs, .inputs, .exc] ⊆ fp) (h0 : SameBut fp u0 s) :
    SameBut fp u0 (rawSample s ch n c).1 := by
  unfold rawSample
  dsimp only
  repeat'
    first
    | with_reducible assumption | exact List.Subset.trans (by decide) hfp | with_reducible intro _
    | with_reducible apply sameBut_ite | with_reducible apply sameBut_ite_fst
    | with_reducible apply frame_endBreak | with_reducible apply frame_onExc
    | with_reducible apply frame_onInput | with_reducible apply frame_evtIf | with_reducible apply frame_evt
    | with_reducible apply frame_bumpSat | with_reducible apply frame_wr | dsimp only

theorem frame_fqCommitted {fp : List Part} {u0 : State} (s0 s : State) (q n : Nat)
    (hfp : [.inputs, .exc] ⊆ fp) (h0 : SameBut fp u0 s) :
    SameBut fp u0 (fqCommitted s0 s q n) := by
  unfold fqCommitted
  dsimp only
  repeat'
    first
    | with_reducible assumption | exact List.Subset.trans (by decide) hfp | with_reducible intro _
    | with_reducible apply sameBut_ite | with_reducible apply sameBut_foldl
    | with_reducible apply frame_onInput | with_reducible apply frame_excChange | dsimp only

theorem frame_when {fp : List Part} {u0 : State} (c : Bool) (s : State) (f : State → State) (hf : ∀ x, SameBut fp u0
    x → SameBut fp u0 (f x))
    (hfp : [] ⊆ fp) (h0 : SameBut fp u0 s) :
    SameBut fp u0 (when c s f) := by
  unfold when
  repeat'
    first
    | with_reducible assumption | exact List.Subset.trans (by decide) hfp | with_reducible apply sameBut_ite
    | with_reducible apply hf

theorem frame_execRangeStep (ch : Fin 128) (s : State) :
    ∃ s', execRangeStep ch s = .next s' ∧ SameBut [.inputs] s s' := by
  refine ⟨_, rfl, ?_⟩
  repeat'
    first
    | with_reducible assumption | with_reducible exact SameBut.refl _ _ | decide | with_reducible intro _
    | with_reducible apply frame_when | with_reducible apply frame_onInput | dsimp only

theorem frame_execBreakEnd (ch : Fin 128) (s : State) :
    ∃ s', execBreakEnd ch s = .next s' ∧ SameBut [.regs, .inputs] s s' := by
  refine ⟨_, rfl, ?_⟩
  repeat'
    first
    | with_reducible assumption | with_reducible exact SameBut.refl _ _ | decide | with_reducible intro _
    | with_reducible apply frame_when | with_reducible apply frame_endBreak | dsimp only

theorem frame_execBurnOutTest (ch : Fin 128) (moved : Bool) (s : State) :
    ∃ s', execBurnOutTest ch moved s = .next s' ∧ SameBut [.inputs] s s' := by
  refine ⟨_, rfl, ?_⟩
  repeat'
    first
    | with_reducible assumption | with_reducible exact SameBut.refl _ _ | decide | with_reducible intro _
    | with_reducible apply frame_when | with_reducible apply frame_onInput | dsimp only

theorem frame_execSwapPhase (ch : Fin 128) (s : State) :
    ∃ s', execSwapPhase ch s = .next s' ∧ SameBut [.inputs] s s' := by
  refine ⟨_, rfl, ?_⟩
  repeat'
    first
    | with_reducible assumption | with_reducible exact SameBut.refl _ _ | decide | with_reducible intro _
    | with_reducible apply frame_when | with_reducible apply frame_onInput | dsimp only

theorem frame_execExcSettleEnd (k : Fin 16) (s : State) :
    ∃ s', execExcSettleEnd k s = .next s' ∧ SameBut [.exc] s s' := by
  refine ⟨_, rfl, ?_⟩
  repeat'
    first
    | with_reducible assumption | with_reducible exact SameBut.refl _ _ | decide | with_reducible intro _
    | with_reducible apply frame_when | with_reducible apply frame_onExc | dsimp only

theorem frame_execExcitationFault (k : Fin 16) (f : ExcFault) (s : State) :
    ∃ s', execExcitationFault k f s = .next s' ∧ SameBut [.regs, .exc] s s' := by
  refine ⟨_, rfl, ?_⟩
  repeat'
    first
    | with_reducible assumption | with_reducible exact SameBut.refl _ _ | decide | with_reducible intro _
    | with_reducible apply frame_when | with_reducible apply frame_evt | with_reducible apply frame_onExc
    | split | dsimp only

theorem frame_execExcitationFaultEnd (k : Fin 16) (f : ExcFault) (s : State) :
    ∃ s', execExcitationFaultEnd k f s = .next s' ∧ SameBut [.exc] s s' := by
  refine ⟨_, rfl, ?_⟩
  repeat'
    first
    | with_reducible assumption | with_reducible exact SameBut.refl _ _ | decide | with_reducible intro _
    | with_reducible apply frame_onExc | split | dsimp only

end Sys2Proof.Machine
end

