-- ==== Sys2Proof/Laws/FrameChain.lean ====
section
/-!
SUPPORT. What every operation of Machine/Chain.lean leaves alone (SameBut): one lemma for each operation that answers a state.
-/
set_option linter.all false

namespace Sys2Proof.Machine

theorem frame_onChain {fp : List Part} {u0 : State} (s : State) (c : Nat) (f : ChainState → ChainState)
    (hfp : [.chains] ⊆ fp) (h0 : SameBut fp u0 s) :
    SameBut fp u0 (onChain s c f) := by
  unfold onChain
  repeat'
    first
    | with_reducible assumption | exact List.Subset.trans (by decide) hfp
    | with_reducible apply SameBut.set_chains

theorem frame_chainOut {fp : List Part} {u0 : State} (s : State) (c : Nat) (k : ChainCfg) (num : Option Int) (x :
    Samp)
    (hfp : [.regs, .chains] ⊆ fp) (h0 : SameBut fp u0 s) :
    SameBut fp u0 (chainOut s c k num x) := by
  unfold chainOut
  dsimp only
  repeat'
    first
    | with_reducible assumption | exact List.Subset.trans (by decide) hfp | with_reducible intro _
    | with_reducible apply sameBut_ite | with_reducible apply frame_onChain | with_reducible apply frame_evtIf
    | split | dsimp only

theorem frame_feedRs {fp : List Part} {u0 : State} (s : State) (c : Nat) (k : ChainCfg) (x : Samp)
    (hfp : [.regs, .chains] ⊆ fp) (h0 : SameBut fp u0 s) :
    SameBut fp u0 (feedRs s c k x) := by
  unfold feedRs
  dsimp only
  repeat'
    first
    | with_reducible assumption | exact List.Subset.trans (by decide) hfp | with_reducible intro _
    | with_reducible apply sameBut_ite | with_reducible apply sameBut_foldl
    | with_reducible apply frame_onChain | with_reducible apply frame_chainOut | dsimp only

theorem frame_feedHb2 {fp : List Part} {u0 : State} (s : State) (c : Nat) (k : ChainCfg) (x : Samp)
    (hfp : [.regs, .chains] ⊆ fp) (h0 : SameBut fp u0 s) :
    SameBut fp u0 (feedHb2 s c k x) := by
  unfold feedHb2
  dsimp only
  repeat'
    first
    | with_reducible assumption | exact List.Subset.trans (by decide) hfp | with_reducible intro _
    | with_reducible apply sameBut_ite | with_reducible apply frame_onChain | with_reducible apply frame_feedRs
    | split | dsimp only

theorem frame_feedHb1 {fp : List Part} {u0 : State} (s : State) (c : Nat) (k : ChainCfg) (x : Samp)
    (hfp : [.regs, .chains] ⊆ fp) (h0 : SameBut fp u0 s) :
    SameBut fp u0 (feedHb1 s c k x) := by
  unfold feedHb1
  dsimp only
  repeat'
    first
    | with_reducible assumption | exact List.Subset.trans (by decide) hfp | with_reducible intro _
    | with_reducible apply sameBut_ite | with_reducible apply frame_onChain
    | with_reducible apply frame_feedHb2 | split | dsimp only

theorem frame_feedFir {fp : List Part} {u0 : State} (s : State) (c : Nat) (k : ChainCfg) (x : Samp)
    (hfp : [.regs, .chains] ⊆ fp) (h0 : SameBut fp u0 s) :
    SameBut fp u0 (feedFir s c k x) := by
  unfold feedFir
  dsimp only
  repeat'
    first
    | with_reducible assumption | exact List.Subset.trans (by decide) hfp | with_reducible intro _
    | with_reducible apply sameBut_ite | with_reducible apply frame_feedHb1
    | with_reducible apply frame_onChain | split | dsimp only

theorem frame_feedChain {fp : List Part} {u0 : State} (s : State) (c range : Nat) (v : Int) (n : Nat) (w : Word)
    (hfp : [.regs, .chains] ⊆ fp) (h0 : SameBut fp u0 s) :
    SameBut fp u0 (feedChain s c range v n w) := by
  unfold feedChain
  dsimp only
  repeat'
    first
    | with_reducible assumption | exact List.Subset.trans (by decide) hfp | with_reducible intro _
    | with_reducible apply sameBut_ite | with_reducible apply frame_onChain
    | with_reducible apply frame_feedFir | split | dsimp only

theorem frame_chainRestart {fp : List Part} {u0 : State} (s : State) (c n : Nat)
    (hfp : [.chains] ⊆ fp) (h0 : SameBut fp u0 s) :
    SameBut fp u0 (chainRestart s c n) := by
  unfold chainRestart
  dsimp only
  repeat'
    first
    | with_reducible assumption | exact List.Subset.trans (by decide) hfp | with_reducible intro _
    | with_reducible apply frame_onChain | dsimp only

theorem frame_restartChains {fp : List Part} {u0 : State} (s : State) (p : ChainCfg → Bool) (n : Nat)
    (hfp : [.chains] ⊆ fp) (h0 : SameBut fp u0 s) :
    SameBut fp u0 (restartChains s p n) := by
  unfold restartChains
  repeat'
    first
    | with_reducible assumption | exact List.Subset.trans (by decide) hfp | with_reducible intro _
    | with_reducible apply sameBut_ite | with_reducible apply sameBut_foldl
    | with_reducible apply frame_chainRestart | dsimp only

theorem frame_chainCommitted {fp : List Part} {u0 : State} (s : State) (c : Nat) (o k : ChainCfg) (n : Nat)
    (hfp : [.chains] ⊆ fp) (h0 : SameBut fp u0 s) :
    SameBut fp u0 (chainCommitted s c o k n) := by
  unfold chainCommitted
  repeat'
    first
    | with_reducible assumption | exact List.Subset.trans (by decide) hfp | with_reducible intro _
    | with_reducible apply sameBut_ite | with_reducible apply frame_chainRestart
    | with_reducible apply frame_onChain | dsimp only

theorem frame_fltCommitted {fp : List Part} {u0 : State} (s0 s : State) (p n : Nat)
    (hfp : [.chains, .flt] ⊆ fp) (h0 : SameBut fp u0 s) :
    SameBut fp u0 (fltCommitted s0 s p n) := by
  unfold fltCommitted
  dsimp only
  repeat'
    first
    | with_reducible assumption | exact List.Subset.trans (by decide) hfp | with_reducible intro _
    | with_reducible apply sameBut_foldl | with_reducible apply frame_chainCommitted
    | with_reducible apply SameBut.set_flt | dsimp only

theorem frame_coefAdvance {fp : List Part} {u0 : State} (s : State)
    (hfp : [.regs] ⊆ fp) (h0 : SameBut fp u0 s) :
    SameBut fp u0 (coefAdvance s) := by
  unfold coefAdvance
  repeat'
    first
    | with_reducible assumption | exact List.Subset.trans (by decide) hfp | with_reducible apply frame_wr

theorem frame_coefWrite {fp : List Part} {u0 : State} (s : State) (w : Word)
    (hfp : [.regs, .flt] ⊆ fp) (h0 : SameBut fp u0 s) :
    SameBut fp u0 (coefWrite s w) := by
  unfold coefWrite
  dsimp only
  repeat'
    first
    | with_reducible assumption | exact List.Subset.trans (by decide) hfp | with_reducible apply sameBut_ite
    | with_reducible apply frame_coefAdvance | with_reducible apply SameBut.set_flt | dsimp only

theorem frame_polyAdvance {fp : List Part} {u0 : State} (s : State) (p : Nat)
    (hfp : [.regs] ⊆ fp) (h0 : SameBut fp u0 s) :
    SameBut fp u0 (polyAdvance s p) := by
  unfold polyAdvance
  dsimp only
  repeat'
    first
    | with_reducible assumption | exact List.Subset.trans (by decide) hfp | with_reducible apply sameBut_ite
    | with_reducible apply frame_wr | dsimp only

theorem frame_polyWrite {fp : List Part} {u0 : State} (s : State) (p : Nat) (w : Word)
    (hfp : [.regs, .flt] ⊆ fp) (h0 : SameBut fp u0 s) :
    SameBut fp u0 (polyWrite s p w) := by
  unfold polyWrite
  repeat'
    first
    | with_reducible assumption | exact List.Subset.trans (by decide) hfp
    | with_reducible apply frame_polyAdvance | with_reducible apply SameBut.set_flt

theorem frame_redStep {fp : List Part} {u0 : State} (s : State) (c : Nat) (o : OutRec)
    (hfp : [.regs, .chains] ⊆ fp) (h0 : SameBut fp u0 s) :
    SameBut fp u0 (redStep s c o) := by
  unfold redStep
  dsimp only
  repeat'
    first
    | with_reducible assumption | exact List.Subset.trans (by decide) hfp | with_reducible intro _
    | with_reducible apply sameBut_ite | with_reducible apply frame_wr | with_reducible apply frame_onChain
    | dsimp only

theorem frame_syncNow {fp : List Part} {u0 : State} (s : State) (n : Nat)
    (hfp : [.regs, .chains] ⊆ fp) (h0 : SameBut fp u0 s) :
    SameBut fp u0 (syncNow s n) := by
  unfold syncNow
  dsimp only
  repeat'
    first
    | with_reducible assumption | exact List.Subset.trans (by decide) hfp | with_reducible intro _
    | with_reducible apply frame_restartChains | with_reducible apply frame_evt
    | with_reducible apply frame_wr64 | dsimp only

theorem frame_execSyncEdge (falling : Bool) (s : State) (stamp : Nat) (ecc : WordErr) :
    ∃ s', execSyncEdge falling s stamp ecc = .next s' ∧ SameBut [.regs, .queueEcc, .flt, .freeCtr] s s' := by
  refine ⟨_, rfl, ?_⟩
  repeat'
    first
    | with_reducible assumption | with_reducible exact SameBut.refl _ _ | decide | with_reducible intro _
    | with_reducible apply sameBut_ite | with_reducible apply frame_readStamp | with_reducible apply frame_when
    | with_reducible apply frame_evt | with_reducible apply frame_bumpSat
    | with_reducible apply SameBut.set_flt | dsimp only

theorem frame_syncSchedule {fp : List Part} {u0 : State} (s : State) (w : Who)
    (hfp : [.regs, .pages, .host, .flt] ⊆ fp) (h0 : SameBut fp u0 s) :
    SameBut fp u0 (syncSchedule s w) := by
  unfold syncSchedule
  repeat'
    first
    | with_reducible assumption | exact List.Subset.trans (by decide) hfp | with_reducible intro _
    | with_reducible apply frame_checked | with_reducible apply SameBut.set_flt | dsimp only

theorem frame_syncCancel {fp : List Part} {u0 : State} (s : State)
    (hfp : [.flt] ⊆ fp) (h0 : SameBut fp u0 s) :
    SameBut fp u0 (syncCancel s) := by
  unfold syncCancel
  repeat'
    first
    | with_reducible assumption | exact List.Subset.trans (by decide) hfp
    | with_reducible apply SameBut.set_flt

theorem frame_execSyncSchedule (p : Path) (s : State) :
    ∃ s', execSyncSchedule p s = .next s' ∧ SameBut [.regs, .pages, .host, .flt] s s' := by
  refine ⟨_, rfl, ?_⟩
  repeat'
    first
    | with_reducible assumption | with_reducible exact SameBut.refl _ _ | decide | with_reducible intro _
    | with_reducible apply frame_gated | with_reducible apply frame_syncSchedule | dsimp only

theorem frame_execSyncCancel (p : Path) (s : State) :
    ∃ s', execSyncCancel p s = .next s' ∧ SameBut [.regs, .pages, .host, .flt] s s' := by
  refine ⟨_, rfl, ?_⟩
  repeat'
    first
    | with_reducible assumption | with_reducible exact SameBut.refl _ _ | decide | with_reducible intro _
    | with_reducible apply frame_gated | with_reducible apply frame_syncCancel | dsimp only

theorem frame_execSyncEffect (s : State) :
    ∃ s', execSyncEffect s = .next s' ∧ SameBut [.regs, .chains, .flt] s s' := by
  refine ⟨_, rfl, ?_⟩
  repeat'
    first
    | with_reducible assumption | with_reducible exact SameBut.refl _ _ | decide | with_reducible intro _
    | with_reducible apply sameBut_ite | with_reducible apply frame_when | with_reducible apply frame_syncNow
    | with_reducible apply frame_wr | with_reducible apply SameBut.set_flt | dsimp only

end Sys2Proof.Machine
end

