-- ==== Sys2Proof/Laws/FrameConv.lean ====
section
/-!
SUPPORT. What every operation of Machine/Conv.lean leaves alone (SameBut): one lemma for each operation that answers a state.
-/
set_option linter.all false

namespace Sys2Proof.Machine

theorem frame_onCore {fp : List Part} {u0 : State} (s : State) (q : Nat) (f : CoreState → CoreState)
    (hfp : [.cores] ⊆ fp) (h0 : SameBut fp u0 s) :
    SameBut fp u0 (onCore s q f) := by
  unfold onCore
  repeat'
    first
    | with_reducible assumption | exact List.Subset.trans (by decide) hfp
    | with_reducible apply SameBut.set_cores

theorem frame_execRotationStep (core : Fin 32) (s : State) :
    ∃ s', execRotationStep core s = .next s' ∧ SameBut [.regs, .cores] s s' := by
  refine ⟨_, rfl, ?_⟩
  repeat'
    first
    | with_reducible assumption | with_reducible exact SameBut.refl _ _ | decide | with_reducible intro _
    | with_reducible apply frame_when | with_reducible apply frame_wr | with_reducible apply frame_onCore
    | split | dsimp only

theorem frame_fillPositions {fp : List Part} {u0 : State} (s : State) (q : Nat)
    (hfp : [.cores] ⊆ fp) (h0 : SameBut fp u0 s) :
    SameBut fp u0 (fillPositions s q) := by
  unfold fillPositions
  repeat'
    first
    | with_reducible assumption | exact List.Subset.trans (by decide) hfp | with_reducible intro _
    | with_reducible apply sameBut_ite | with_reducible apply sameBut_foldl | with_reducible apply frame_onCore
    | dsimp only

theorem frame_checkShort {fp : List Part} {u0 : State} (s : State) (q : Nat)
    (hfp : [.regs, .cores] ⊆ fp) (h0 : SameBut fp u0 s) :
    SameBut fp u0 (checkShort s q) := by
  unfold checkShort
  dsimp only
  repeat'
    first
    | with_reducible assumption | exact List.Subset.trans (by decide) hfp | with_reducible intro _
    | with_reducible apply sameBut_ite | with_reducible apply frame_fillPositions
    | with_reducible apply frame_onCore | with_reducible apply frame_faultSrc | dsimp only

theorem frame_retireSlice {fp : List Part} {u0 : State} (s : State) (q i : Nat)
    (hfp : [.regs, .cores] ⊆ fp) (h0 : SameBut fp u0 s) :
    SameBut fp u0 (retireSlice s q i) := by
  unfold retireSlice
  dsimp only
  repeat'
    first
    | with_reducible assumption | exact List.Subset.trans (by decide) hfp | with_reducible intro _
    | with_reducible apply frame_onCore | with_reducible apply frame_checkShort
    | with_reducible apply frame_evt | dsimp only

theorem frame_execSliceCalibrationDone (core : Fin 32) (k : SliceCoef) (s : State) :
    ∃ s', execSliceCalibrationDone core k s = .next s' ∧ SameBut [.regs, .cores] s s' := by
  refine ⟨_, rfl, ?_⟩
  repeat'
    first
    | with_reducible assumption | with_reducible exact SameBut.refl _ _ | decide | with_reducible intro _
    | with_reducible apply sameBut_ite | with_reducible apply frame_when | with_reducible apply frame_onCore
    | with_reducible apply frame_retireSlice | dsimp only

theorem frame_ccCommitted {fp : List Part} {u0 : State} (s0 s : State) (q : Nat)
    (hfp : [.regs, .inputs, .cores, .chains] ⊆ fp) (h0 : SameBut fp u0 s) :
    SameBut fp u0 (ccCommitted s0 s q) := by
  unfold ccCommitted
  dsimp only
  repeat'
    first
    | with_reducible assumption | exact List.Subset.trans (by decide) hfp | with_reducible intro _
    | with_reducible apply sameBut_ite | with_reducible apply sameBut_foldl
    | with_reducible apply frame_onInput | with_reducible apply frame_onChain
    | with_reducible apply frame_checkShort | dsimp only

theorem frame_onBand {fp : List Part} {u0 : State} (s : State) (ain : Nat) (f : BandState → BandState)
    (hfp : [.bands] ⊆ fp) (h0 : SameBut fp u0 s) :
    SameBut fp u0 (onBand s ain f) := by
  unfold onBand
  repeat'
    first
    | with_reducible assumption | exact List.Subset.trans (by decide) hfp
    | with_reducible apply SameBut.set_bands

theorem frame_loadEdges {fp : List Part} {u0 : State} (s : State) (ain lo up : Nat)
    (hfp : [.regs, .bands] ⊆ fp) (h0 : SameBut fp u0 s) :
    SameBut fp u0 (loadEdges s ain lo up) := by
  unfold loadEdges
  repeat'
    first
    | with_reducible assumption | exact List.Subset.trans (by decide) hfp | with_reducible intro _
    | with_reducible apply sameBut_ite | with_reducible apply frame_evt | with_reducible apply frame_onBand
    | dsimp only

theorem frame_hostEdges {fp : List Part} {u0 : State} (s : State) (ain : Nat)
    (hfp : [.bands] ⊆ fp) (h0 : SameBut fp u0 s) :
    SameBut fp u0 (hostEdges s ain) := by
  unfold hostEdges
  dsimp only
  repeat'
    first
    | with_reducible assumption | exact List.Subset.trans (by decide) hfp | with_reducible intro _
    | with_reducible apply sameBut_ite | with_reducible apply frame_onBand | dsimp only

theorem frame_hkcBegin {fp : List Part} {u0 : State} (s : State)
    (hfp : [.hkc] ⊆ fp) (h0 : SameBut fp u0 s) :
    SameBut fp u0 (hkcBegin s) := by
  unfold hkcBegin
  repeat'
    first
    | with_reducible assumption | exact List.Subset.trans (by decide) hfp
    | with_reducible apply SameBut.set_hkc

theorem frame_hkcSelect {fp : List Part} {u0 : State} (s : State) (v : Word)
    (hfp : [.hkc] ⊆ fp) (h0 : SameBut fp u0 s) :
    SameBut fp u0 (hkcSelect s v) := by
  unfold hkcSelect
  dsimp only
  repeat'
    first
    | with_reducible assumption | exact List.Subset.trans (by decide) hfp | with_reducible intro _
    | with_reducible apply SameBut.set_hkc | dsimp only

theorem frame_hkcStart {fp : List Part} {u0 : State} (s : State) (w : Who) (v : Word)
    (hfp : [.regs, .pages, .host, .hkc] ⊆ fp) (h0 : SameBut fp u0 s) :
    SameBut fp u0 (hkcStart s w v) := by
  unfold hkcStart
  repeat'
    first
    | with_reducible assumption | exact List.Subset.trans (by decide) hfp | with_reducible intro _
    | with_reducible apply frame_checked | with_reducible apply frame_hkcBegin

theorem frame_execHkcStart (p : Path) (v : Word) (s : State) :
    ∃ s', execHkcStart p v s = .next s' ∧ SameBut [.regs, .pages, .host, .hkc] s s' := by
  refine ⟨_, rfl, ?_⟩
  repeat'
    first
    | with_reducible assumption | with_reducible exact SameBut.refl _ _ | decide | with_reducible intro _
    | with_reducible apply frame_gated | with_reducible apply frame_hkcStart | dsimp only

theorem frame_execHkcResult (code : BitVec 12) (temp : BitVec 16) (s : State) :
    ∃ s', execHkcResult code temp s = .next s' ∧ SameBut [.regs, .hkc] s s' := by
  refine ⟨_, rfl, ?_⟩
  repeat'
    first
    | with_reducible assumption | with_reducible exact SameBut.refl _ _ | decide
    | with_reducible apply frame_wr | with_reducible apply frame_evtIf | with_reducible apply frame_evt | split
    | with_reducible apply SameBut.set_hkc | dsimp only

theorem frame_hkcDataRead {fp : List Part} {u0 : State} (s : State) (p : Path)
    (hfp : [.regs, .host] ⊆ fp) (h0 : SameBut fp u0 s) :
    SameBut fp u0 (hkcDataRead s p) := by
  unfold hkcDataRead
  dsimp only
  repeat'
    first
    | with_reducible assumption | exact List.Subset.trans (by decide) hfp | with_reducible intro _
    | with_reducible apply frame_onPath | with_reducible apply frame_wr | dsimp only

theorem frame_execDataRead (p : Path) (s : State) :
    ∃ s', execDataRead p s = .next s' ∧ SameBut [.regs, .host] s s' := by
  refine ⟨_, rfl, ?_⟩
  repeat'
    first
    | with_reducible assumption | with_reducible exact SameBut.refl _ _ | decide
    | with_reducible apply sameBut_ite | with_reducible apply frame_hkcDataRead

theorem frame_onAo {fp : List Part} {u0 : State} (s : State) (x : Nat) (f : AoState → AoState)
    (hfp : [.aout] ⊆ fp) (h0 : SameBut fp u0 s) :
    SameBut fp u0 (onAo s x f) := by
  unfold onAo
  repeat'
    first
    | with_reducible assumption | exact List.Subset.trans (by decide) hfp
    | with_reducible apply SameBut.set_aout

theorem frame_aoFollow {fp : List Part} {u0 : State} (s : State) (x : Nat)
    (hfp : [.regs, .aout] ⊆ fp) (h0 : SameBut fp u0 s) :
    SameBut fp u0 (aoFollow s x) := by
  unfold aoFollow
  dsimp only
  repeat'
    first
    | with_reducible assumption | exact List.Subset.trans (by decide) hfp | with_reducible intro _
    | with_reducible apply sameBut_ite | with_reducible apply frame_onAo | with_reducible apply frame_evtIf
    | split | dsimp only

theorem frame_aoDeliver {fp : List Part} {u0 : State} (s : State) (ch : Nat)
    (hfp : [.regs, .aout] ⊆ fp) (h0 : SameBut fp u0 s) :
    SameBut fp u0 (aoDeliver s ch) := by
  unfold aoDeliver
  repeat'
    first
    | with_reducible assumption | exact List.Subset.trans (by decide) hfp | with_reducible intro _
    | with_reducible apply sameBut_ite | with_reducible apply sameBut_foldl
    | with_reducible apply frame_aoFollow | dsimp only

theorem frame_aoutCommitted {fp : List Part} {u0 : State} (s : State)
    (hfp : [.regs, .aout] ⊆ fp) (h0 : SameBut fp u0 s) :
    SameBut fp u0 (aoutCommitted s) := by
  unfold aoutCommitted
  repeat'
    first
    | with_reducible assumption | exact List.Subset.trans (by decide) hfp | with_reducible intro _
    | with_reducible apply sameBut_foldl | with_reducible apply frame_aoFollow

theorem frame_queueClear {fp : List Part} {u0 : State} (s : State) (w : Who) (q : Nat)
    (hfp : [.regs, .pages, .host, .queueEcc] ⊆ fp) (h0 : SameBut fp u0 s) :
    SameBut fp u0 (queueClear s w q) := by
  unfold queueClear
  repeat'
    first
    | with_reducible assumption | exact List.Subset.trans (by decide) hfp | with_reducible intro _
    | with_reducible apply frame_checked | with_reducible apply frame_wr
    | with_reducible apply SameBut.set_queueEcc | dsimp only

theorem frame_execQueueClear (p : Path) (q : Nat) (s : State) :
    ∃ s', execQueueClear p q s = .next s' ∧ SameBut [.regs, .pages, .host, .queueEcc] s s' := by
  refine ⟨_, rfl, ?_⟩
  repeat'
    first
    | with_reducible assumption | with_reducible exact SameBut.refl _ _ | decide | with_reducible intro _
    | with_reducible apply frame_gated | with_reducible apply frame_queueClear | dsimp only

end Sys2Proof.Machine
end

