-- ==== Sys2Proof/Laws/FrameMotion.lean ====
section
/-!
SUPPORT. What every operation of Machine/Motion.lean leaves alone (SameBut): one lemma for each operation that answers a state.
-/
set_option linter.all false

namespace Sys2Proof.Machine

theorem frame_onSlot {fp : List Part} {u0 : State} (s : State) (r : Nat) (f : SlotState → SlotState)
    (hfp : [.slots] ⊆ fp) (h0 : SameBut fp u0 s) :
    SameBut fp u0 (onSlot s r f) := by
  unfold onSlot
  repeat'
    first
    | with_reducible assumption | exact List.Subset.trans (by decide) hfp
    | with_reducible apply SameBut.set_slots

theorem frame_onEng {fp : List Part} {u0 : State} (s : State) (k : Nat) (f : EngineState → EngineState)
    (hfp : [.engines] ⊆ fp) (h0 : SameBut fp u0 s) :
    SameBut fp u0 (onEng s k f) := by
  unfold onEng
  repeat'
    first
    | with_reducible assumption | exact List.Subset.trans (by decide) hfp
    | with_reducible apply SameBut.set_engines

theorem frame_onGc {fp : List Part} {u0 : State} (s : State) (g : Nat) (f : Ball → Ball)
    (hfp : [.gc] ⊆ fp) (h0 : SameBut fp u0 s) :
    SameBut fp u0 (onGc s g f) := by
  unfold onGc
  repeat'
    first
    | with_reducible assumption | exact List.Subset.trans (by decide) hfp | with_reducible apply SameBut.set_gc

theorem frame_onGen {fp : List Part} {u0 : State} (s : State) (g : Nat) (f : Ball → Ball)
    (hfp : [.gen] ⊆ fp) (h0 : SameBut fp u0 s) :
    SameBut fp u0 (onGen s g f) := by
  unfold onGen
  repeat'
    first
    | with_reducible assumption | exact List.Subset.trans (by decide) hfp
    | with_reducible apply SameBut.set_gen

theorem frame_syncSlot {fp : List Part} {u0 : State} (s : State) (r : Nat)
    (hfp : [.gc] ⊆ fp) (h0 : SameBut fp u0 s) :
    SameBut fp u0 (syncSlot s r) := by
  unfold syncSlot
  repeat'
    first
    | with_reducible assumption | exact List.Subset.trans (by decide) hfp | with_reducible intro _
    | with_reducible apply sameBut_ite | with_reducible apply sameBut_foldl | with_reducible apply frame_onGc
    | dsimp only

theorem frame_syncGroups {fp : List Part} {u0 : State} (s : State)
    (hfp : [.gen] ⊆ fp) (h0 : SameBut fp u0 s) :
    SameBut fp u0 (syncGroups s) := by
  unfold syncGroups
  repeat'
    first
    | with_reducible assumption | exact List.Subset.trans (by decide) hfp | with_reducible intro _
    | with_reducible apply sameBut_ite | with_reducible apply sameBut_foldl | with_reducible apply frame_onGen
    | dsimp only

theorem frame_takeSlots {fp : List Part} {u0 : State} (s : State)
    (hfp : [.gc, .gen] ⊆ fp) (h0 : SameBut fp u0 s) :
    SameBut fp u0 (takeSlots s) := by
  unfold takeSlots
  repeat'
    first
    | with_reducible assumption | exact List.Subset.trans (by decide) hfp | with_reducible intro _
    | with_reducible apply sameBut_foldl | with_reducible apply frame_syncGroups
    | with_reducible apply frame_syncSlot

theorem frame_releaseSlots {fp : List Part} {u0 : State} (s : State)
    (hfp : [.gc, .gen] ⊆ fp) (h0 : SameBut fp u0 s) :
    SameBut fp u0 (releaseSlots s) := by
  unfold releaseSlots
  repeat'
    first
    | with_reducible assumption | exact List.Subset.trans (by decide) hfp | with_reducible intro _
    | with_reducible apply sameBut_foldl | with_reducible apply frame_onGc
    | with_reducible apply SameBut.set_gen | dsimp only

theorem frame_takeOutputs {fp : List Part} {u0 : State} (s : State)
    (hfp : [.gc, .gen] ⊆ fp) (h0 : SameBut fp u0 s) :
    SameBut fp u0 (takeOutputs s) := by
  unfold takeOutputs
  repeat'
    first
    | with_reducible assumption | exact List.Subset.trans (by decide) hfp | with_reducible intro _
    | with_reducible apply sameBut_foldl | with_reducible apply frame_onGc
    | with_reducible apply frame_takeSlots | dsimp only

theorem frame_releaseOutputs {fp : List Part} {u0 : State} (s : State)
    (hfp : [.gc, .gen] ⊆ fp) (h0 : SameBut fp u0 s) :
    SameBut fp u0 (releaseOutputs s) := by
  unfold releaseOutputs
  repeat'
    first
    | with_reducible assumption | exact List.Subset.trans (by decide) hfp
    | with_reducible apply SameBut.set_gc_gen

theorem frame_setLegs {fp : List Part} {u0 : State} (s : State) (r : Nat) (legs : List Bool)
    (hfp : [.gc, .slots] ⊆ fp) (h0 : SameBut fp u0 s) :
    SameBut fp u0 (setLegs s r legs) := by
  unfold setLegs
  repeat'
    first
    | with_reducible assumption | exact List.Subset.trans (by decide) hfp | with_reducible intro _
    | with_reducible apply frame_syncSlot | with_reducible apply frame_onSlot | dsimp only

theorem frame_applyLaw {fp : List Part} {u0 : State} (s : State) (r : Nat)
    (hfp : [.gc, .slots] ⊆ fp) (h0 : SameBut fp u0 s) :
    SameBut fp u0 (applyLaw s r) := by
  unfold applyLaw
  dsimp only
  repeat'
    first
    | with_reducible assumption | exact List.Subset.trans (by decide) hfp | with_reducible apply sameBut_ite
    | with_reducible apply frame_setLegs | dsimp only

theorem frame_lawOf {fp : List Part} {u0 : State} (s : State) (ain : Nat)
    (hfp : [.gc, .slots] ⊆ fp) (h0 : SameBut fp u0 s) :
    SameBut fp u0 (lawOf s ain) := by
  unfold lawOf
  repeat'
    first
    | with_reducible assumption | exact List.Subset.trans (by decide) hfp | with_reducible apply frame_applyLaw
    | split

theorem frame_execComparatorCrossing (ain : Fin 96) (upper level : Bool) (s : State) :
    ∃ s', execComparatorCrossing ain upper level s = .next s' ∧ SameBut [.gc, .bands, .slots] s s' := by
  refine ⟨_, rfl, ?_⟩
  repeat'
    first
    | with_reducible assumption | with_reducible exact SameBut.refl _ _ | decide | with_reducible intro _
    | with_reducible apply frame_when | with_reducible apply frame_lawOf | with_reducible apply frame_onBand
    | dsimp only

theorem frame_execBandEdgeLoad (ain : Fin 96) (s : State) (ecc : WordErr) :
    ∃ s', execBandEdgeLoad ain s ecc = .next s' ∧ SameBut [.regs, .gc, .bands, .queueEcc, .slots, .freeCtr] s s' := by
  refine ⟨_, rfl, ?_⟩
  repeat'
    first
    | with_reducible assumption | with_reducible exact SameBut.refl _ _ | decide | with_reducible intro _
    | with_reducible apply frame_when | with_reducible apply frame_fromQueue | with_reducible apply frame_lawOf
    | with_reducible apply frame_loadEdges | with_reducible apply frame_onBand | split | dsimp only

theorem frame_execMinHoldEnd (slot : Fin 48) (leg : Fin 3) (s : State) :
    ∃ s', execMinHoldEnd slot leg s = .next s' ∧ SameBut [.gc, .slots] s s' := by
  refine ⟨_, rfl, ?_⟩
  repeat'
    first
    | with_reducible assumption | with_reducible exact SameBut.refl _ _ | decide | with_reducible intro _
    | with_reducible apply frame_when | with_reducible apply frame_applyLaw | with_reducible apply frame_onSlot
    | dsimp only

theorem frame_clearBlock {fp : List Part} {u0 : State} (s : State)
    (hfp : [.regs] ⊆ fp) (h0 : SameBut fp u0 s) :
    SameBut fp u0 (clearBlock s) := by
  unfold clearBlock
  repeat'
    first
    | with_reducible assumption | exact List.Subset.trans (by decide) hfp | with_reducible apply sameBut_ite
    | with_reducible apply frame_wr

theorem frame_applyReaction {fp : List Part} {u0 : State} (s : State) (r reaction : Nat)
    (hfp : [.gc, .slots] ⊆ fp) (h0 : SameBut fp u0 s) :
    SameBut fp u0 (applyReaction s r reaction) := by
  unfold applyReaction
  dsimp only
  repeat'
    first
    | with_reducible assumption | exact List.Subset.trans (by decide) hfp | with_reducible intro _
    | with_reducible apply sameBut_ite | with_reducible apply frame_onSlot | with_reducible apply frame_setLegs
    | dsimp only

theorem frame_faultOne {fp : List Part} {u0 : State} (s : State) (r cause n : Nat)
    (hfp : [.regs, .gc, .slots] ⊆ fp) (h0 : SameBut fp u0 s) :
    SameBut fp u0 (faultOne s r cause n) := by
  unfold faultOne
  dsimp only
  repeat'
    first
    | with_reducible assumption | exact List.Subset.trans (by decide) hfp | with_reducible intro _
    | with_reducible apply sameBut_ite | with_reducible apply frame_applyReaction
    | with_reducible apply frame_onSlot | with_reducible apply frame_faultSrc | with_reducible apply frame_evt
    | split | dsimp only

theorem frame_slotFault {fp : List Part} {u0 : State} (s : State) (r cause n : Nat)
    (hfp : [.regs, .gc, .gen, .slots] ⊆ fp) (h0 : SameBut fp u0 s) :
    SameBut fp u0 (slotFault s r cause n) := by
  unfold slotFault
  dsimp only
  repeat'
    first
    | with_reducible assumption | exact List.Subset.trans (by decide) hfp | with_reducible intro _
    | with_reducible apply sameBut_ite | with_reducible apply sameBut_foldl
    | with_reducible apply frame_faultOne | with_reducible apply frame_wr | with_reducible apply frame_evt
    | with_reducible apply frame_syncGroups | dsimp only

theorem frame_engineSlots {fp : List Part} {u0 : State} (s : State) (k : Nat)
    (hfp : [.regs, .gc, .gen, .slots] ⊆ fp) (h0 : SameBut fp u0 s) :
    SameBut fp u0 (engineSlots s k) := by
  unfold engineSlots
  repeat'
    first
    | with_reducible assumption | exact List.Subset.trans (by decide) hfp | with_reducible intro _
    | with_reducible apply sameBut_foldl | with_reducible apply frame_slotFault | dsimp only

theorem frame_slotRecord {fp : List Part} {u0 : State} (s : State) (ain n : Nat) (w : Word)
    (hfp : [.regs, .gc, .gen, .slots] ⊆ fp) (h0 : SameBut fp u0 s) :
    SameBut fp u0 (slotRecord s ain n w) := by
  unfold slotRecord
  dsimp only
  repeat'
    first
    | with_reducible assumption | exact List.Subset.trans (by decide) hfp | with_reducible intro _
    | with_reducible apply sameBut_ite | with_reducible apply frame_onSlot
    | with_reducible apply frame_slotFault | split | dsimp only

theorem frame_execHoldTimeout (r : Fin 48) (s : State) :
    ∃ s', execHoldTimeout r s = .next s' ∧ SameBut [.gc, .gen, .slots] s s' := by
  refine ⟨_, rfl, ?_⟩
  repeat'
    first
    | with_reducible assumption | with_reducible exact SameBut.refl _ _ | decide | with_reducible intro _
    | with_reducible apply frame_when | with_reducible apply frame_syncGroups
    | with_reducible apply frame_applyReaction | dsimp only

theorem frame_motClearFault {fp : List Part} {u0 : State} (s : State) (w : Who) (r : Nat)
    (hfp : [.regs, .pages, .gen, .host, .slots] ⊆ fp) (h0 : SameBut fp u0 s) :
    SameBut fp u0 (motClearFault s w r) := by
  unfold motClearFault
  dsimp only
  repeat'
    first
    | with_reducible assumption | exact List.Subset.trans (by decide) hfp | with_reducible intro _
    | with_reducible apply sameBut_ite | with_reducible apply frame_checked | with_reducible apply frame_wr
    | with_reducible apply frame_onSlot | with_reducible apply frame_clearBlock
    | with_reducible apply frame_syncGroups | dsimp only

theorem frame_execMotClearFault (p : Path) (r : Nat) (s : State) :
    ∃ s', execMotClearFault p r s = .next s' ∧ SameBut [.regs, .pages, .gen, .host, .slots] s s' := by
  refine ⟨_, rfl, ?_⟩
  repeat'
    first
    | with_reducible assumption | with_reducible exact SameBut.refl _ _ | decide | with_reducible intro _
    | with_reducible apply frame_gated | with_reducible apply frame_motClearFault | dsimp only

theorem frame_execSlotEnable (r : Fin 48) (s : State) :
    ∃ s', execSlotEnable r s = .next s' ∧ SameBut [.gc, .gen, .slots] s s' := by
  refine ⟨_, rfl, ?_⟩
  repeat'
    first
    | with_reducible assumption | with_reducible exact SameBut.refl _ _ | decide | with_reducible intro _
    | with_reducible apply frame_when | with_reducible apply frame_onSlot
    | with_reducible apply frame_syncGroups | with_reducible apply frame_setLegs | dsimp only

theorem frame_enterRun {fp : List Part} {u0 : State} (s : State) (r : Nat)
    (hfp : [.regs, .gc, .slots] ⊆ fp) (h0 : SameBut fp u0 s) :
    SameBut fp u0 (enterRun s r) := by
  unfold enterRun
  repeat'
    first
    | with_reducible assumption | exact List.Subset.trans (by decide) hfp | with_reducible intro _
    | with_reducible apply frame_applyLaw | with_reducible apply frame_evt | with_reducible apply frame_onSlot
    | dsimp only

theorem frame_execSlotRun (r : Fin 48) (s : State) :
    ∃ s', execSlotRun r s = .next s' ∧ SameBut [.regs, .gc, .slots] s s' := by
  refine ⟨_, rfl, ?_⟩
  repeat'
    first
    | with_reducible assumption | with_reducible exact SameBut.refl _ _ | decide | with_reducible intro _
    | with_reducible apply frame_when | with_reducible apply frame_enterRun | dsimp only

theorem frame_execSlotDisable (r : Fin 48) (s : State) :
    ∃ s', execSlotDisable r s = .next s' ∧ SameBut [.gc, .gen, .slots] s s' := by
  refine ⟨_, rfl, ?_⟩
  repeat'
    first
    | with_reducible assumption | with_reducible exact SameBut.refl _ _ | decide | with_reducible intro _
    | with_reducible apply frame_when | with_reducible apply frame_onSlot
    | with_reducible apply frame_syncGroups | with_reducible apply frame_setLegs | dsimp only

theorem frame_markSlot {fp : List Part} {u0 : State} (s : State) (r n : Nat)
    (hfp : [.regs, .slots] ⊆ fp) (h0 : SameBut fp u0 s) :
    SameBut fp u0 (markSlot s r n) := by
  unfold markSlot
  dsimp only
  repeat'
    first
    | with_reducible assumption | exact List.Subset.trans (by decide) hfp | with_reducible intro _
    | with_reducible apply sameBut_ite | with_reducible apply frame_onSlot | with_reducible apply frame_evtIf
    | split | dsimp only

theorem frame_cycleMark {fp : List Part} {u0 : State} (s : State) (w : Who) (r : Nat)
    (hfp : [.regs, .pages, .host, .slots] ⊆ fp) (h0 : SameBut fp u0 s) :
    SameBut fp u0 (cycleMark s w r) := by
  unfold cycleMark
  repeat'
    first
    | with_reducible assumption | exact List.Subset.trans (by decide) hfp | with_reducible intro _
    | with_reducible apply sameBut_ite | with_reducible apply frame_checked
    | with_reducible apply frame_markSlot | dsimp only

theorem frame_execCycleMark (p : Path) (r : Nat) (s : State) :
    ∃ s', execCycleMark p r s = .next s' ∧ SameBut [.regs, .pages, .host, .slots] s s' := by
  refine ⟨_, rfl, ?_⟩
  repeat'
    first
    | with_reducible assumption | with_reducible exact SameBut.refl _ _ | decide | with_reducible intro _
    | with_reducible apply frame_gated | with_reducible apply frame_cycleMark | dsimp only

theorem frame_pinMarks {fp : List Part} {u0 : State} (s : State) (pin : Nat) (falling : Bool) (n : Nat)
    (hfp : [.regs, .slots] ⊆ fp) (h0 : SameBut fp u0 s) :
    SameBut fp u0 (pinMarks s pin falling n) := by
  unfold pinMarks
  dsimp only
  repeat'
    first
    | with_reducible assumption | exact List.Subset.trans (by decide) hfp | with_reducible intro _
    | with_reducible apply sameBut_ite | with_reducible apply sameBut_foldl
    | with_reducible apply frame_markSlot | dsimp only

theorem frame_execRcLost (r : Fin 48) (s : State) :
    ∃ s', execRcLost r s = .next s' ∧ SameBut [.regs, .slots] s s' := by
  refine ⟨_, rfl, ?_⟩
  repeat'
    first
    | with_reducible assumption | with_reducible exact SameBut.refl _ _ | decide | with_reducible intro _
    | with_reducible apply frame_when | with_reducible apply frame_evt | with_reducible apply frame_onSlot
    | dsimp only

theorem frame_releaseLegs {fp : List Part} {u0 : State} (s0 s : State) (r : Nat)
    (hfp : [.gc] ⊆ fp) (h0 : SameBut fp u0 s) :
    SameBut fp u0 (releaseLegs s0 s r) := by
  unfold releaseLegs
  repeat'
    first
    | with_reducible assumption | exact List.Subset.trans (by decide) hfp | with_reducible intro _
    | with_reducible apply sameBut_foldl | with_reducible apply frame_onGc | dsimp only

theorem frame_motSlotCommitted {fp : List Part} {u0 : State} (s0 s : State) (n r : Nat)
    (hfp : [.gc, .slots] ⊆ fp) (h0 : SameBut fp u0 s) :
    SameBut fp u0 (motSlotCommitted s0 s n r) := by
  unfold motSlotCommitted
  dsimp only
  repeat'
    first
    | with_reducible assumption | exact List.Subset.trans (by decide) hfp | with_reducible intro _
    | with_reducible apply sameBut_ite | with_reducible apply frame_onSlot
    | with_reducible apply frame_applyLaw | with_reducible apply frame_syncSlot
    | with_reducible apply frame_releaseLegs | dsimp only

theorem frame_motCommitted {fp : List Part} {u0 : State} (s0 s : State) (n : Nat)
    (hfp : [.gc, .gen, .bands, .slots] ⊆ fp) (h0 : SameBut fp u0 s) :
    SameBut fp u0 (motCommitted s0 s n) := by
  unfold motCommitted
  dsimp only
  repeat'
    first
    | with_reducible assumption | exact List.Subset.trans (by decide) hfp | with_reducible intro _
    | with_reducible apply sameBut_ite | with_reducible apply sameBut_foldl
    | with_reducible apply frame_hostEdges | with_reducible apply frame_syncGroups
    | with_reducible apply frame_motSlotCommitted | dsimp only

end Sys2Proof.Machine
end

