-- ==== Sys2Proof/Laws/FrameLite.lean ====
section
/-!
SUPPORT. What every operation of Machine/Lite.lean leaves alone (SameBut): one lemma for each operation that answers a state.
-/
set_option linter.all false

namespace Sys2Proof.Machine

theorem frame_onLite {fp : List Part} {u0 : State} (s : State) (x : Nat) (f : LiteState → LiteState)
    (hfp : [.lites] ⊆ fp) (h0 : SameBut fp u0 s) :
    SameBut fp u0 (onLite s x f) := by
  unfold onLite
  repeat'
    first
    | with_reducible assumption | exact List.Subset.trans (by decide) hfp
    | with_reducible apply SameBut.set_lites

theorem frame_onStrobe {fp : List Part} {u0 : State} (s : State) (x : Nat) (f : StrobeState → StrobeState)
    (hfp : [.strobes] ⊆ fp) (h0 : SameBut fp u0 s) :
    SameBut fp u0 (onStrobe s x f) := by
  unfold onStrobe
  repeat'
    first
    | with_reducible assumption | exact List.Subset.trans (by decide) hfp
    | with_reducible apply SameBut.set_strobes

theorem frame_liteTemp {fp : List Part} {u0 : State} (s : State) (x : Nat) (w : Word)
    (hfp : [.regs, .lites] ⊆ fp) (h0 : SameBut fp u0 s) :
    SameBut fp u0 (liteTemp s x w) := by
  unfold liteTemp
  repeat'
    first
    | with_reducible assumption | exact List.Subset.trans (by decide) hfp | with_reducible intro _
    | with_reducible apply sameBut_ite | with_reducible apply frame_evtIf | with_reducible apply frame_onLite
    | dsimp only

theorem frame_liteDeliver {fp : List Part} {u0 : State} (s : State) (ch : Nat) (w : Word)
    (hfp : [.regs, .lites] ⊆ fp) (h0 : SameBut fp u0 s) :
    SameBut fp u0 (liteDeliver s ch w) := by
  unfold liteDeliver
  repeat'
    first
    | with_reducible assumption | exact List.Subset.trans (by decide) hfp | with_reducible intro _
    | with_reducible apply sameBut_ite | with_reducible apply sameBut_foldl
    | with_reducible apply frame_liteTemp | dsimp only

theorem frame_liteRefresh {fp : List Part} {u0 : State} (s : State) (x : Nat)
    (hfp : [.regs, .lites] ⊆ fp) (h0 : SameBut fp u0 s) :
    SameBut fp u0 (liteRefresh s x) := by
  unfold liteRefresh
  repeat'
    first
    | with_reducible assumption | exact List.Subset.trans (by decide) hfp | with_reducible intro _
    | with_reducible apply frame_onLite | with_reducible apply frame_liteTemp | split | dsimp only

theorem frame_startFrame {fp : List Part} {u0 : State} (s : State) (x : Nat)
    (hfp : [.lites] ⊆ fp) (h0 : SameBut fp u0 s) :
    SameBut fp u0 (startFrame s x) := by
  unfold startFrame
  repeat'
    first
    | with_reducible assumption | exact List.Subset.trans (by decide) hfp | with_reducible intro _
    | with_reducible apply frame_onLite | dsimp only

theorem frame_execFrameStart (x : Fin 8) (refresh : Bool) (s : State) :
    ∃ s', execFrameStart x refresh s = .next s' ∧ SameBut [.lites] s s' := by
  refine ⟨_, rfl, ?_⟩
  repeat'
    first
    | with_reducible assumption | with_reducible exact SameBut.refl _ _ | decide | with_reducible intro _
    | with_reducible apply sameBut_ite | with_reducible apply frame_when
    | with_reducible apply frame_startFrame | dsimp only

theorem frame_execFrameDone (x : Fin 8) (s : State) :
    ∃ s', execFrameDone x s = .next s' ∧ SameBut [.regs, .lites] s s' := by
  refine ⟨_, rfl, ?_⟩
  repeat'
    first
    | with_reducible assumption | with_reducible exact SameBut.refl _ _ | decide | with_reducible intro _
    | with_reducible apply frame_when | with_reducible apply frame_evt | with_reducible apply frame_onLite
    | dsimp only

theorem frame_sendNow {fp : List Part} {u0 : State} (s : State) (w : Who) (x : Nat)
    (hfp : [.regs, .pages, .host, .lites] ⊆ fp) (h0 : SameBut fp u0 s) :
    SameBut fp u0 (sendNow s w x) := by
  unfold sendNow
  repeat'
    first
    | with_reducible assumption | exact List.Subset.trans (by decide) hfp | with_reducible intro _
    | with_reducible apply sameBut_ite | with_reducible apply frame_checked | with_reducible apply frame_onLite
    | dsimp only

theorem frame_execSendNow (p : Path) (x : Fin 8) (s : State) :
    ∃ s', execSendNow p x s = .next s' ∧ SameBut [.regs, .pages, .host, .lites] s s' := by
  refine ⟨_, rfl, ?_⟩
  repeat'
    first
    | with_reducible assumption | with_reducible exact SameBut.refl _ _ | decide | with_reducible intro _
    | with_reducible apply frame_gated | with_reducible apply frame_sendNow | dsimp only

theorem frame_sendToLatch {fp : List Part} {u0 : State} (s : State) (w : Who) (x : Nat)
    (hfp : [.regs, .pages, .host, .lites] ⊆ fp) (h0 : SameBut fp u0 s) :
    SameBut fp u0 (sendToLatch s w x) := by
  unfold sendToLatch
  dsimp only
  repeat'
    first
    | with_reducible assumption | exact List.Subset.trans (by decide) hfp | with_reducible intro _
    | with_reducible apply sameBut_ite | with_reducible apply frame_checked | with_reducible apply frame_onLite
    | dsimp only

theorem frame_execSendToLatch (p : Path) (x : Fin 8) (s : State) :
    ∃ s', execSendToLatch p x s = .next s' ∧ SameBut [.regs, .pages, .host, .lites] s s' := by
  refine ⟨_, rfl, ?_⟩
  repeat'
    first
    | with_reducible assumption | with_reducible exact SameBut.refl _ _ | decide | with_reducible intro _
    | with_reducible apply frame_gated | with_reducible apply frame_sendToLatch | dsimp only

theorem frame_cancelSend {fp : List Part} {u0 : State} (s : State) (x : Nat)
    (hfp : [.lites] ⊆ fp) (h0 : SameBut fp u0 s) :
    SameBut fp u0 (cancelSend s x) := by
  unfold cancelSend
  repeat'
    first
    | with_reducible assumption | exact List.Subset.trans (by decide) hfp | with_reducible intro _
    | with_reducible apply frame_onLite | dsimp only

theorem frame_execCancelSend (p : Path) (x : Fin 8) (s : State) :
    ∃ s', execCancelSend p x s = .next s' ∧ SameBut [.regs, .pages, .host, .lites] s s' := by
  refine ⟨_, rfl, ?_⟩
  repeat'
    first
    | with_reducible assumption | with_reducible exact SameBut.refl _ _ | decide | with_reducible intro _
    | with_reducible apply frame_gated | with_reducible apply frame_cancelSend | dsimp only

theorem frame_liteCtrl {fp : List Part} {u0 : State} (s : State) (w : Who) (v : Word)
    (hfp : [.regs, .pages, .host, .lites] ⊆ fp) (h0 : SameBut fp u0 s) :
    SameBut fp u0 (liteCtrl s w v) := by
  unfold liteCtrl
  dsimp only
  repeat'
    first
    | with_reducible assumption | exact List.Subset.trans (by decide) hfp | with_reducible apply frame_sendNow
    | with_reducible apply frame_sendToLatch | with_reducible apply frame_cancelSend
    | with_reducible apply frame_refuse | split | dsimp only

theorem frame_lvlAdvance {fp : List Part} {u0 : State} (s : State)
    (hfp : [.regs] ⊆ fp) (h0 : SameBut fp u0 s) :
    SameBut fp u0 (lvlAdvance s) := by
  unfold lvlAdvance
  dsimp only
  repeat'
    first
    | with_reducible assumption | exact List.Subset.trans (by decide) hfp | with_reducible apply sameBut_ite
    | with_reducible apply frame_wr | dsimp only

theorem frame_lvlWrite {fp : List Part} {u0 : State} (s : State) (v : Word)
    (hfp : [.regs, .levels] ⊆ fp) (h0 : SameBut fp u0 s) :
    SameBut fp u0 (lvlWrite s v) := by
  unfold lvlWrite
  repeat'
    first
    | with_reducible assumption | exact List.Subset.trans (by decide) hfp
    | with_reducible apply frame_lvlAdvance | with_reducible apply SameBut.set_levels

theorem frame_execLvlData (p : Path) (w : Option Word) (s : State) :
    ∃ s', execLvlData p w s = .next s' ∧ SameBut [.regs, .pages, .host, .levels] s s' := by
  refine ⟨_, rfl, ?_⟩
  repeat'
    first
    | with_reducible assumption | with_reducible exact SameBut.refl _ _ | decide | with_reducible intro _
    | with_reducible apply sameBut_ite | with_reducible apply frame_gated | with_reducible apply frame_lvlWrite
    | with_reducible apply frame_lvlAdvance | split | dsimp only

theorem frame_strobeLate {fp : List Part} {u0 : State} (s : State) (x : Nat)
    (hfp : [.regs, .strobes] ⊆ fp) (h0 : SameBut fp u0 s) :
    SameBut fp u0 (strobeLate s x) := by
  unfold strobeLate
  repeat'
    first
    | with_reducible assumption | exact List.Subset.trans (by decide) hfp | with_reducible intro _
    | with_reducible apply frame_evt | with_reducible apply frame_onStrobe | dsimp only

theorem frame_strobeArm {fp : List Part} {u0 : State} (s : State) (w : Who) (x : Nat)
    (hfp : [.regs, .pages, .host, .strobes] ⊆ fp) (h0 : SameBut fp u0 s) :
    SameBut fp u0 (strobeArm s w x) := by
  unfold strobeArm
  dsimp only
  repeat'
    first
    | with_reducible assumption | exact List.Subset.trans (by decide) hfp | with_reducible intro _
    | with_reducible apply sameBut_ite | with_reducible apply frame_checked
    | with_reducible apply frame_onStrobe | dsimp only

theorem frame_execStrobeArm (p : Path) (x : Fin 8) (s : State) :
    ∃ s', execStrobeArm p x s = .next s' ∧ SameBut [.regs, .pages, .host, .strobes] s s' := by
  refine ⟨_, rfl, ?_⟩
  repeat'
    first
    | with_reducible assumption | with_reducible exact SameBut.refl _ _ | decide | with_reducible intro _
    | with_reducible apply frame_gated | with_reducible apply frame_strobeArm | dsimp only

theorem frame_strobeDisarm {fp : List Part} {u0 : State} (s : State) (x : Nat)
    (hfp : [.strobes] ⊆ fp) (h0 : SameBut fp u0 s) :
    SameBut fp u0 (strobeDisarm s x) := by
  unfold strobeDisarm
  repeat'
    first
    | with_reducible assumption | exact List.Subset.trans (by decide) hfp | with_reducible intro _
    | with_reducible apply frame_onStrobe | dsimp only

theorem frame_execStrobeDisarm (p : Path) (x : Fin 8) (s : State) :
    ∃ s', execStrobeDisarm p x s = .next s' ∧ SameBut [.regs, .pages, .host, .strobes] s s' := by
  refine ⟨_, rfl, ?_⟩
  repeat'
    first
    | with_reducible assumption | with_reducible exact SameBut.refl _ _ | decide | with_reducible intro _
    | with_reducible apply frame_gated | with_reducible apply frame_strobeDisarm | dsimp only

theorem frame_strobeCtrl {fp : List Part} {u0 : State} (s : State) (w : Who) (v : Word)
    (hfp : [.regs, .pages, .host, .strobes] ⊆ fp) (h0 : SameBut fp u0 s) :
    SameBut fp u0 (strobeCtrl s w v) := by
  unfold strobeCtrl
  repeat'
    first
    | with_reducible assumption | exact List.Subset.trans (by decide) hfp
    | with_reducible apply frame_strobeArm | with_reducible apply frame_strobeDisarm
    | with_reducible apply frame_refuse | split

theorem frame_strobeSegment {fp : List Part} {u0 : State} (s : State) (r n : Nat)
    (hfp : [.regs, .strobes] ⊆ fp) (h0 : SameBut fp u0 s) :
    SameBut fp u0 (strobeSegment s r n) := by
  unfold strobeSegment
  dsimp only
  repeat'
    first
    | with_reducible assumption | exact List.Subset.trans (by decide) hfp | with_reducible intro _
    | with_reducible apply sameBut_ite | with_reducible apply sameBut_foldl
    | with_reducible apply frame_strobeLate | with_reducible apply frame_onStrobe | dsimp only

theorem frame_strobeNext {fp : List Part} {u0 : State} (s : State) (x n : Nat) (rest : List Nat)
    (hfp : [.strobes] ⊆ fp) (h0 : SameBut fp u0 s) :
    SameBut fp u0 (strobeNext s x n rest) := by
  unfold strobeNext
  repeat'
    first
    | with_reducible assumption | exact List.Subset.trans (by decide) hfp | with_reducible intro _
    | with_reducible apply sameBut_ite | with_reducible apply frame_onStrobe | dsimp only

theorem frame_execStrobeFire (x : Fin 8) (s : State) :
    ∃ s', execStrobeFire x s = .next s' ∧ SameBut [.regs, .strobes] s s' := by
  refine ⟨_, rfl, ?_⟩
  repeat'
    first
    | with_reducible assumption | with_reducible exact SameBut.refl _ _ | decide | with_reducible intro _
    | with_reducible apply sameBut_ite | with_reducible apply frame_strobeNext
    | with_reducible apply frame_strobeLate | with_reducible apply frame_evt
    | with_reducible apply frame_onStrobe | split | dsimp only

theorem frame_execStrobeEnd (x : Fin 8) (s : State) :
    ∃ s', execStrobeEnd x s = .next s' ∧ SameBut [.strobes] s s' := by
  refine ⟨_, rfl, ?_⟩
  repeat'
    first
    | with_reducible assumption | with_reducible exact SameBut.refl _ _ | decide | with_reducible intro _
    | with_reducible apply frame_when | with_reducible apply frame_onStrobe | dsimp only

theorem frame_liteCommitted {fp : List Part} {u0 : State} (s : State)
    (hfp : [.regs, .lites] ⊆ fp) (h0 : SameBut fp u0 s) :
    SameBut fp u0 (liteCommitted s) := by
  unfold liteCommitted
  dsimp only
  repeat'
    first
    | with_reducible assumption | exact List.Subset.trans (by decide) hfp | with_reducible intro _
    | with_reducible apply sameBut_ite | with_reducible apply sameBut_foldl
    | with_reducible apply frame_liteRefresh | with_reducible apply frame_onLite | dsimp only

theorem frame_liteWarm {fp : List Part} {u0 : State} (s : State)
    (hfp : [.lites, .strobes] ⊆ fp) (h0 : SameBut fp u0 s) :
    SameBut fp u0 (liteWarm s) := by
  unfold liteWarm
  repeat'
    first
    | with_reducible assumption | exact List.Subset.trans (by decide) hfp | with_reducible intro _
    | with_reducible apply SameBut.set_lites_strobes | dsimp only

end Sys2Proof.Machine
end

