-- ==== Sys2Proof/Laws/FrameNet.lean ====
section
/-!
SUPPORT. What every operation of Machine/Net.lean leaves alone (SameBut): one lemma for each operation that answers a state.
-/
set_option linter.all false

namespace Sys2Proof.Machine

theorem frame_onLane {fp : List Part} {u0 : State} (s : State) (l : Lane) (f : LaneState → LaneState)
    (hfp : [.lanes] ⊆ fp) (h0 : SameBut fp u0 s) :
    SameBut fp u0 (onLane s l f) := by
  unfold onLane
  repeat'
    first
    | with_reducible assumption | exact List.Subset.trans (by decide) hfp
    | with_reducible apply SameBut.set_lanes

theorem frame_emit {fp : List Part} {u0 : State} (s : State) (f : TxFrame)
    (hfp : [.regs, .sent] ⊆ fp) (h0 : SameBut fp u0 s) :
    SameBut fp u0 (emit s f) := by
  unfold emit
  repeat'
    first
    | with_reducible assumption | exact List.Subset.trans (by decide) hfp | with_reducible apply sameBut_ite
    | with_reducible apply frame_bumpWrap | with_reducible apply SameBut.set_sent

theorem frame_emitOwn {fp : List Part} {u0 : State} (s : State) (l : Lane) (dst : Mac) (b : FrameBody)
    (hfp : [.regs, .sent] ⊆ fp) (h0 : SameBut fp u0 s) :
    SameBut fp u0 (emitOwn s l dst b) := by
  unfold emitOwn
  repeat'
    first
    | with_reducible assumption | exact List.Subset.trans (by decide) hfp | with_reducible apply frame_emit

theorem frame_insertBoth {fp : List Part} {u0 : State} (s : State) (dst : Mac) (b0 b1 : FrameBody)
    (hfp : [.regs, .ring, .sent] ⊆ fp) (h0 : SameBut fp u0 s) :
    SameBut fp u0 (insertBoth s dst b0 b1) := by
  unfold insertBoth
  dsimp only
  repeat'
    first
    | with_reducible assumption | exact List.Subset.trans (by decide) hfp | with_reducible apply frame_emit
    | with_reducible apply SameBut.set_ring | dsimp only

theorem frame_insertFrame {fp : List Part} {u0 : State} (s : State) (dst : Mac) (b : FrameBody)
    (hfp : [.regs, .ring, .sent] ⊆ fp) (h0 : SameBut fp u0 s) :
    SameBut fp u0 (insertFrame s dst b) := by
  unfold insertFrame
  repeat'
    first
    | with_reducible assumption | exact List.Subset.trans (by decide) hfp
    | with_reducible apply frame_insertBoth

theorem frame_sendBeacon {fp : List Part} {u0 : State} (s : State)
    (hfp : [.regs, .ring, .sent] ⊆ fp) (h0 : SameBut fp u0 s) :
    SameBut fp u0 (sendBeacon s) := by
  unfold sendBeacon
  dsimp only
  repeat'
    first
    | with_reducible assumption | exact List.Subset.trans (by decide) hfp | with_reducible apply sameBut_ite
    | with_reducible apply frame_insertFrame | with_reducible apply SameBut.set_ring | dsimp only

theorem frame_sendRing {fp : List Part} {u0 : State} (s : State) (dst : Mac) (b : FrameBody)
    (hfp : [.regs, .ring, .sent] ⊆ fp) (h0 : SameBut fp u0 s) :
    SameBut fp u0 (sendRing s dst b) := by
  unfold sendRing
  repeat'
    first
    | with_reducible assumption | exact List.Subset.trans (by decide) hfp | with_reducible apply sameBut_ite
    | with_reducible apply frame_emitOwn | with_reducible apply frame_insertFrame
    | with_reducible apply frame_sendBeacon

theorem frame_sendTwin {fp : List Part} {u0 : State} (s : State) (b : FrameBody)
    (hfp : [.regs, .sent] ⊆ fp) (h0 : SameBut fp u0 s) :
    SameBut fp u0 (sendTwin s b) := by
  unfold sendTwin
  repeat'
    first
    | with_reducible assumption | exact List.Subset.trans (by decide) hfp | with_reducible apply frame_emitOwn

theorem frame_linkRise {fp : List Part} {u0 : State} (s : State) (l : Lane)
    (hfp : [.regs, .lanes] ⊆ fp) (h0 : SameBut fp u0 s) :
    SameBut fp u0 (linkRise s l) := by
  unfold linkRise
  dsimp only
  repeat'
    first
    | with_reducible assumption | exact List.Subset.trans (by decide) hfp | with_reducible intro _
    | with_reducible apply frame_onLane | with_reducible apply frame_evt | with_reducible apply frame_bumpSat
    | dsimp only

theorem frame_linkFall {fp : List Part} {u0 : State} (s : State) (l : Lane)
    (hfp : [.regs, .lanes] ⊆ fp) (h0 : SameBut fp u0 s) :
    SameBut fp u0 (linkFall s l) := by
  unfold linkFall
  dsimp only
  repeat'
    first
    | with_reducible assumption | exact List.Subset.trans (by decide) hfp | with_reducible intro _
    | with_reducible apply sameBut_ite | with_reducible apply frame_onLane | with_reducible apply frame_evt
    | with_reducible apply frame_bumpSat | dsimp only

theorem frame_execRxWake (l : Lane) (s : State) :
    ∃ s', execRxWake l s = .next s' ∧ SameBut [.regs, .lanes] s s' := by
  refine ⟨_, rfl, ?_⟩
  repeat'
    first
    | with_reducible assumption | with_reducible exact SameBut.refl _ _ | decide | with_reducible intro _
    | with_reducible apply frame_when | with_reducible apply frame_wr | with_reducible apply frame_onLane
    | dsimp only

theorem frame_laneWritten {fp : List Part} {u0 : State} (s0 s : State) (i o : Nat)
    (hfp : [.regs, .lanes] ⊆ fp) (h0 : SameBut fp u0 s) :
    SameBut fp u0 (laneWritten s0 s i o) := by
  unfold laneWritten
  dsimp only
  repeat'
    first
    | with_reducible assumption | exact List.Subset.trans (by decide) hfp | with_reducible intro _
    | with_reducible apply sameBut_ite | with_reducible apply frame_linkFall | with_reducible apply frame_wr
    | with_reducible apply frame_wr64 | with_reducible apply frame_onLane | dsimp only

theorem frame_execPrbsInject (p : Path) (l : Lane) (s : State) :
    ∃ s', execPrbsInject p l s = .next s' ∧ SameBut [.regs, .pages, .host, .lanes] s s' := by
  refine ⟨_, rfl, ?_⟩
  repeat'
    first
    | with_reducible assumption | with_reducible exact SameBut.refl _ _ | decide | with_reducible intro _
    | with_reducible apply frame_gated | with_reducible apply frame_checked
    | with_reducible apply frame_laneWritten | dsimp only

theorem frame_execPrbsCheckerLock (l : Lane) (s : State) :
    ∃ s', execPrbsCheckerLock l s = .next s' ∧ SameBut [.lanes] s s' := by
  refine ⟨_, rfl, ?_⟩
  repeat'
    first
    | with_reducible assumption | with_reducible exact SameBut.refl _ _ | decide | with_reducible intro _
    | with_reducible apply frame_when | with_reducible apply frame_onLane | dsimp only

theorem frame_tickPrbs {fp : List Part} {u0 : State} (s : State)
    (hfp : [.regs] ⊆ fp) (h0 : SameBut fp u0 s) :
    SameBut fp u0 (tickPrbs s) := by
  unfold tickPrbs
  dsimp only
  repeat'
    first
    | with_reducible assumption | exact List.Subset.trans (by decide) hfp | with_reducible intro _
    | with_reducible apply sameBut_ite | with_reducible apply sameBut_foldl | with_reducible apply frame_wr64
    | dsimp only

theorem frame_execPrbsBitError (l : Lane) (s : State) :
    ∃ s', execPrbsBitError l s = .next s' ∧ SameBut [.regs] s s' := by
  refine ⟨_, rfl, ?_⟩
  repeat'
    first
    | with_reducible assumption | with_reducible exact SameBut.refl _ _ | decide | with_reducible intro _
    | with_reducible apply frame_when | with_reducible apply frame_evt | with_reducible apply frame_bumpSat
    | dsimp only

end Sys2Proof.Machine
end

