-- ==== Sys2Proof/Laws/FrameSprt.lean ====
section
/-!
SUPPORT. What every operation of Machine/Sprt.lean leaves alone (SameBut): one lemma for each operation that answers a state.
-/
set_option linter.all false

namespace Sys2Proof.Machine

theorem frame_onSprt {fp : List Part} {u0 : State} (s : State) (p : Nat) (f : SprtState → SprtState)
    (hfp : [.sports] ⊆ fp) (h0 : SameBut fp u0 s) :
    SameBut fp u0 (onSprt s p f) := by
  unfold onSprt
  repeat'
    first
    | with_reducible assumption | exact List.Subset.trans (by decide) hfp
    | with_reducible apply SameBut.set_sports

theorem frame_remoteRecord {fp : List Part} {u0 : State} (s : State) (p j f : Nat) (v : Option Value) (brk : Bool)
    (hfp : [.regs, .chains, .sports] ⊆ fp) (h0 : SameBut fp u0 s) :
    SameBut fp u0 (remoteRecord s p j f v brk) := by
  unfold remoteRecord
  dsimp only
  repeat'
    first
    | with_reducible assumption | exact List.Subset.trans (by decide) hfp | with_reducible intro _
    | with_reducible apply sameBut_ite | with_reducible apply frame_onSprt
    | with_reducible apply frame_feedChain | split | dsimp only

theorem frame_frameRecords {fp : List Part} {u0 : State} (s : State) (p f : Nat) (u : Option Uplink)
    (hfp : [.regs, .chains, .sports] ⊆ fp) (h0 : SameBut fp u0 s) :
    SameBut fp u0 (frameRecords s p f u) := by
  unfold frameRecords
  dsimp only
  repeat'
    first
    | with_reducible assumption | exact List.Subset.trans (by decide) hfp | with_reducible intro _
    | with_reducible apply sameBut_ite | with_reducible apply sameBut_foldl
    | with_reducible apply frame_remoteRecord | split | dsimp only

theorem frame_recordsTo {fp : List Part} {u0 : State} (s : State) (p f : Nat) (u : Option Uplink)
    (hfp : [.regs, .chains, .sports] ⊆ fp) (h0 : SameBut fp u0 s) :
    SameBut fp u0 (recordsTo s p f u) := by
  unfold recordsTo
  dsimp only
  repeat'
    first
    | with_reducible assumption | exact List.Subset.trans (by decide) hfp | with_reducible intro _
    | with_reducible apply sameBut_ite | with_reducible apply sameBut_foldl
    | with_reducible apply frame_frameRecords | with_reducible apply frame_onSprt | split | dsimp only

theorem frame_newCmd {fp : List Part} {u0 : State} (s : State) (p op : Nat) (args : List Word) (host : Bool) (chan :
    Nat)
    (hfp : [.sports] ⊆ fp) (h0 : SameBut fp u0 s) :
    SameBut fp u0 (newCmd s p op args host chan) := by
  unfold newCmd
  dsimp only
  repeat'
    first
    | with_reducible assumption | exact List.Subset.trans (by decide) hfp | with_reducible intro _
    | with_reducible apply frame_onSprt | dsimp only

theorem frame_enterConfig {fp : List Part} {u0 : State} (s : State) (p : Nat)
    (hfp : [.sports, .freeCtr] ⊆ fp) (h0 : SameBut fp u0 s) :
    SameBut fp u0 (enterConfig s p) := by
  unfold enterConfig
  dsimp only
  repeat'
    first
    | with_reducible assumption | exact List.Subset.trans (by decide) hfp | with_reducible intro _
    | with_reducible apply frame_onSprt | with_reducible apply frame_drawn | dsimp only

theorem frame_enterTrain {fp : List Part} {u0 : State} (s : State) (p : Nat)
    (hfp : [.sports] ⊆ fp) (h0 : SameBut fp u0 s) :
    SameBut fp u0 (enterTrain s p) := by
  unfold enterTrain
  repeat'
    first
    | with_reducible assumption | exact List.Subset.trans (by decide) hfp | with_reducible intro _
    | with_reducible apply frame_onSprt | dsimp only

theorem frame_linkLoss {fp : List Part} {u0 : State} (s : State) (p : Nat)
    (hfp : [.regs, .sports] ⊆ fp) (h0 : SameBut fp u0 s) :
    SameBut fp u0 (linkLoss s p) := by
  unfold linkLoss
  repeat'
    first
    | with_reducible assumption | exact List.Subset.trans (by decide) hfp | with_reducible intro _
    | with_reducible apply frame_enterTrain | with_reducible apply frame_onSprt
    | with_reducible apply frame_evt | with_reducible apply frame_bumpSat | dsimp only

theorem frame_sprtScheduled {fp : List Part} {u0 : State} (s : State) (p : Nat) (g : Nat → Word) (n : Nat)
    (hfp : [.sports] ⊆ fp) (h0 : SameBut fp u0 s) :
    SameBut fp u0 (sprtScheduled s p g n) := by
  unfold sprtScheduled
  dsimp only
  repeat'
    first
    | with_reducible assumption | exact List.Subset.trans (by decide) hfp | with_reducible intro _
    | with_reducible apply sameBut_ite | with_reducible apply frame_onSprt | dsimp only

theorem frame_enterRunSp {fp : List Part} {u0 : State} (s : State) (p : Nat)
    (hfp : [.regs, .sports] ⊆ fp) (h0 : SameBut fp u0 s) :
    SameBut fp u0 (enterRunSp s p) := by
  unfold enterRunSp
  dsimp only
  repeat'
    first
    | with_reducible assumption | exact List.Subset.trans (by decide) hfp | with_reducible intro _
    | with_reducible apply sameBut_ite | with_reducible apply frame_onSprt | with_reducible apply frame_evt
    | with_reducible apply frame_sprtScheduled | split | dsimp only

theorem frame_nextSet {fp : List Part} {u0 : State} (s : State) (p : Nat)
    (hfp : [.sports] ⊆ fp) (h0 : SameBut fp u0 s) :
    SameBut fp u0 (nextSet s p) := by
  unfold nextSet
  dsimp only
  repeat'
    first
    | with_reducible assumption | exact List.Subset.trans (by decide) hfp | with_reducible intro _
    | with_reducible apply sameBut_ite | with_reducible apply frame_newCmd | with_reducible apply frame_onSprt
    | split | dsimp only

theorem frame_downlinkFrame {fp : List Part} {u0 : State} (s : State) (p : Nat)
    (hfp : [.regs, .sports] ⊆ fp) (h0 : SameBut fp u0 s) :
    SameBut fp u0 (downlinkFrame s p) := by
  unfold downlinkFrame
  dsimp only
  repeat'
    first
    | with_reducible assumption | exact List.Subset.trans (by decide) hfp | with_reducible intro _
    | with_reducible apply sameBut_ite | with_reducible apply frame_enterTrain
    | with_reducible apply frame_enterRunSp | with_reducible apply frame_nextSet
    | with_reducible apply frame_onSprt | split | dsimp only

theorem frame_execDownlinkFrame (p : Fin 8) (s : State) :
    ∃ s', execDownlinkFrame p s = .next s' ∧ SameBut [.regs, .sports] s s' := by
  refine ⟨_, rfl, ?_⟩
  repeat'
    first
    | with_reducible assumption | with_reducible exact SameBut.refl _ _ | decide
    | with_reducible apply frame_downlinkFrame

theorem frame_setFailed {fp : List Part} {u0 : State} (s : State) (p : Nat) (c : SprtCmd)
    (hfp : [.regs, .sports] ⊆ fp) (h0 : SameBut fp u0 s) :
    SameBut fp u0 (setFailed s p c) := by
  unfold setFailed
  repeat'
    first
    | with_reducible assumption | exact List.Subset.trans (by decide) hfp | with_reducible intro _
    | with_reducible apply frame_evt | with_reducible apply frame_onSprt | dsimp only

theorem frame_identResponse {fp : List Part} {u0 : State} (s : State) (p : Nat) (data : List Byte)
    (hfp : [.regs, .sports, .freeCtr] ⊆ fp) (h0 : SameBut fp u0 s) :
    SameBut fp u0 (identResponse s p data) := by
  unfold identResponse
  dsimp only
  repeat'
    first
    | with_reducible assumption | exact List.Subset.trans (by decide) hfp | with_reducible intro _
    | with_reducible apply sameBut_ite | with_reducible apply frame_onSprt | with_reducible apply frame_evt
    | with_reducible apply frame_enterConfig | dsimp only

theorem frame_sprtResponse {fp : List Part} {u0 : State} (s : State) (p : Nat) (u : Uplink)
    (hfp : [.regs, .sports, .freeCtr] ⊆ fp) (h0 : SameBut fp u0 s) :
    SameBut fp u0 (sprtResponse s p u) := by
  unfold sprtResponse
  dsimp only
  repeat'
    first
    | with_reducible assumption | exact List.Subset.trans (by decide) hfp | with_reducible intro _
    | with_reducible apply sameBut_ite | with_reducible apply frame_onSprt
    | with_reducible apply frame_identResponse | with_reducible apply frame_evt
    | with_reducible apply frame_setFailed | split | dsimp only

theorem frame_execCommandResend (p : Fin 8) (s : State) :
    ∃ s', execCommandResend p s = .next s' ∧ SameBut [.regs, .sports] s s' := by
  refine ⟨_, rfl, ?_⟩
  repeat'
    first
    | with_reducible assumption | with_reducible exact SameBut.refl _ _ | decide | with_reducible intro _
    | with_reducible apply sameBut_ite | with_reducible apply frame_onSprt | with_reducible apply frame_evt
    | with_reducible apply frame_setFailed | split | dsimp only

theorem frame_measureRtt {fp : List Part} {u0 : State} (s : State) (p rtt : Nat)
    (hfp : [.regs, .sports] ⊆ fp) (h0 : SameBut fp u0 s) :
    SameBut fp u0 (measureRtt s p rtt) := by
  unfold measureRtt
  dsimp only
  repeat'
    first
    | with_reducible assumption | exact List.Subset.trans (by decide) hfp | with_reducible intro _
    | with_reducible apply sameBut_ite | with_reducible apply frame_onSprt
    | with_reducible apply frame_linkLoss | with_reducible apply frame_newCmd | dsimp only

theorem frame_uplinkFrame {fp : List Part} {u0 : State} (s : State) (p : Nat) (u : Uplink)
    (hfp : [.regs, .chains, .sports, .freeCtr] ⊆ fp) (h0 : SameBut fp u0 s) :
    SameBut fp u0 (uplinkFrame s p u) := by
  unfold uplinkFrame
  dsimp only
  repeat'
    first
    | with_reducible assumption | exact List.Subset.trans (by decide) hfp | with_reducible intro _
    | with_reducible apply sameBut_ite | with_reducible apply frame_bumpSat
    | with_reducible apply frame_recordsTo | with_reducible apply frame_onSprt
    | with_reducible apply frame_linkLoss | with_reducible apply frame_evtIf
    | with_reducible apply frame_measureRtt | with_reducible apply frame_sprtResponse | dsimp only

theorem frame_execUplinkFrame (p : Fin 8) (groups : List (BitVec 10)) (s : State) (rtt : Nat) :
    ∃ s', execUplinkFrame p groups s rtt = .next s' ∧ SameBut [.regs, .chains, .sports, .freeCtr] s s' := by
  refine ⟨_, rfl, ?_⟩
  repeat'
    first
    | with_reducible assumption | with_reducible exact SameBut.refl _ _ | decide | with_reducible intro _
    | with_reducible apply frame_uplinkFrame | with_reducible apply frame_onSprt | dsimp only

theorem frame_sendCommand {fp : List Part} {u0 : State} (s : State) (w : Who) (p : Nat)
    (hfp : [.regs, .pages, .host, .sports] ⊆ fp) (h0 : SameBut fp u0 s) :
    SameBut fp u0 (sendCommand s w p) := by
  unfold sendCommand
  dsimp only
  repeat'
    first
    | with_reducible assumption | exact List.Subset.trans (by decide) hfp | with_reducible intro _
    | with_reducible apply frame_checked | with_reducible apply frame_onSprt
    | with_reducible apply frame_newCmd | dsimp only

theorem frame_execSendCommand (p : Path) (port : Fin 8) (s : State) :
    ∃ s', execSendCommand p port s = .next s' ∧ SameBut [.regs, .pages, .host, .sports] s s' := by
  refine ⟨_, rfl, ?_⟩
  repeat'
    first
    | with_reducible assumption | with_reducible exact SameBut.refl _ _ | decide | with_reducible intro _
    | with_reducible apply frame_gated | with_reducible apply frame_sendCommand | dsimp only

theorem frame_acceptIdentity {fp : List Part} {u0 : State} (s : State) (p : Nat)
    (hfp : [.sports, .freeCtr] ⊆ fp) (h0 : SameBut fp u0 s) :
    SameBut fp u0 (acceptIdentity s p) := by
  unfold acceptIdentity
  repeat'
    first
    | with_reducible assumption | exact List.Subset.trans (by decide) hfp | with_reducible apply sameBut_ite
    | with_reducible apply frame_enterConfig

theorem frame_execAcceptIdentity (p : Path) (port : Fin 8) (s : State) :
    ∃ s', execAcceptIdentity p port s = .next s' ∧ SameBut [.regs, .pages, .host, .sports, .freeCtr] s s' := by
  refine ⟨_, rfl, ?_⟩
  repeat'
    first
    | with_reducible assumption | with_reducible exact SameBut.refl _ _ | decide | with_reducible intro _
    | with_reducible apply frame_gated | with_reducible apply frame_acceptIdentity | dsimp only

theorem frame_retrain {fp : List Part} {u0 : State} (s : State) (p : Nat)
    (hfp : [.sports] ⊆ fp) (h0 : SameBut fp u0 s) :
    SameBut fp u0 (retrain s p) := by
  unfold retrain
  repeat'
    first
    | with_reducible assumption | exact List.Subset.trans (by decide) hfp | with_reducible apply sameBut_ite
    | with_reducible apply frame_enterTrain

theorem frame_execRetrain (p : Path) (port : Fin 8) (s : State) :
    ∃ s', execRetrain p port s = .next s' ∧ SameBut [.regs, .pages, .host, .sports] s s' := by
  refine ⟨_, rfl, ?_⟩
  repeat'
    first
    | with_reducible assumption | with_reducible exact SameBut.refl _ _ | decide | with_reducible intro _
    | with_reducible apply frame_gated | with_reducible apply frame_retrain | dsimp only

theorem frame_sprtCtrl {fp : List Part} {u0 : State} (s : State) (w : Who) (p : Nat) (v : Word)
    (hfp : [.regs, .pages, .host, .sports, .freeCtr] ⊆ fp) (h0 : SameBut fp u0 s) :
    SameBut fp u0 (sprtCtrl s w p v) := by
  unfold sprtCtrl
  repeat'
    first
    | with_reducible assumption | exact List.Subset.trans (by decide) hfp
    | with_reducible apply frame_sendCommand | with_reducible apply frame_acceptIdentity
    | with_reducible apply frame_retrain | split

theorem frame_sprtEnable {fp : List Part} {u0 : State} (s : State) (p : Nat) (on : Bool)
    (hfp : [.sports] ⊆ fp) (h0 : SameBut fp u0 s) :
    SameBut fp u0 (sprtEnable s p on) := by
  unfold sprtEnable
  repeat'
    first
    | with_reducible assumption | exact List.Subset.trans (by decide) hfp | with_reducible intro _
    | with_reducible apply sameBut_ite | with_reducible apply frame_enterTrain
    | with_reducible apply frame_onSprt | dsimp only

theorem frame_sprtCommitted {fp : List Part} {u0 : State} (s0 s : State) (p : Nat)
    (hfp : [.chains, .sports] ⊆ fp) (h0 : SameBut fp u0 s) :
    SameBut fp u0 (sprtCommitted s0 s p) := by
  unfold sprtCommitted
  dsimp only
  repeat'
    first
    | with_reducible assumption | exact List.Subset.trans (by decide) hfp | with_reducible intro _
    | with_reducible apply sameBut_ite | with_reducible apply sameBut_foldl
    | with_reducible apply frame_onChain | with_reducible apply frame_onSprt | dsimp only

theorem frame_tickPorts {fp : List Part} {u0 : State} (s : State)
    (hfp : [.regs, .chains, .sports] ⊆ fp) (h0 : SameBut fp u0 s) :
    SameBut fp u0 (tickPorts s) := by
  unfold tickPorts
  repeat'
    first
    | with_reducible assumption | exact List.Subset.trans (by decide) hfp | with_reducible intro _
    | with_reducible apply sameBut_ite | with_reducible apply sameBut_foldl
    | with_reducible apply frame_recordsTo | dsimp only

end Sys2Proof.Machine
end

