-- ==== Sys2Proof/Laws/FrameStreams.lean ====
section
/-!
SUPPORT. What every operation of Machine/Streams.lean leaves alone (SameBut): one lemma for each operation that answers a state.
-/
set_option linter.all false

namespace Sys2Proof.Machine

theorem frame_onStrm {fp : List Part} {u0 : State} (s : State) (i : Nat) (f : StreamState → StreamState)
    (hfp : [.streams] ⊆ fp) (h0 : SameBut fp u0 s) :
    SameBut fp u0 (onStrm s i f) := by
  unfold onStrm
  repeat'
    first
    | with_reducible assumption | exact List.Subset.trans (by decide) hfp
    | with_reducible apply SameBut.set_streams

theorem frame_setSt {fp : List Part} {u0 : State} (s : State) (i : Nat) (st : StrmSt)
    (hfp : [.regs, .streams] ⊆ fp) (h0 : SameBut fp u0 s) :
    SameBut fp u0 (setSt s i st) := by
  unfold setSt
  dsimp only
  repeat'
    first
    | with_reducible assumption | exact List.Subset.trans (by decide) hfp | with_reducible intro _
    | with_reducible apply sameBut_ite | with_reducible apply frame_wr | with_reducible apply frame_onStrm
    | dsimp only

theorem frame_pushQuire {fp : List Part} {u0 : State} (s : State) (i : Nat) (kind : QuireKind) (first : Nat) (slots :
    List Slot)
    (hfp : [.streams] ⊆ fp) (h0 : SameBut fp u0 s) :
    SameBut fp u0 (pushQuire s i kind first slots) := by
  unfold pushQuire
  dsimp only
  repeat'
    first
    | with_reducible assumption | exact List.Subset.trans (by decide) hfp | with_reducible intro _
    | with_reducible apply sameBut_ite | with_reducible apply frame_onStrm | dsimp only

theorem frame_closeQuire {fp : List Part} {u0 : State} (s : State) (i : Nat)
    (hfp : [.streams] ⊆ fp) (h0 : SameBut fp u0 s) :
    SameBut fp u0 (closeQuire s i) := by
  unfold closeQuire
  dsimp only
  repeat'
    first
    | with_reducible assumption | exact List.Subset.trans (by decide) hfp | with_reducible intro _
    | with_reducible apply sameBut_ite | with_reducible apply frame_onStrm
    | with_reducible apply frame_pushQuire | dsimp only

theorem frame_finishStream {fp : List Part} {u0 : State} (s : State) (i cause : Nat) (discard : Bool)
    (hfp : [.streams] ⊆ fp) (h0 : SameBut fp u0 s) :
    SameBut fp u0 (finishStream s i cause discard) := by
  unfold finishStream
  dsimp only
  repeat'
    first
    | with_reducible assumption | exact List.Subset.trans (by decide) hfp | with_reducible intro _
    | with_reducible apply sameBut_ite | with_reducible apply frame_pushQuire
    | with_reducible apply frame_onStrm | dsimp only

theorem frame_admResult {fp : List Part} {u0 : State} (s : State) (i id result : Nat)
    (hfp : [.regs, .adm, .streams] ⊆ fp) (h0 : SameBut fp u0 s) :
    SameBut fp u0 (admResult s i id result) := by
  unfold admResult
  dsimp only
  repeat'
    first
    | with_reducible assumption | exact List.Subset.trans (by decide) hfp | with_reducible intro _
    | with_reducible apply sameBut_ite | with_reducible apply frame_wr | with_reducible apply frame_onStrm
    | with_reducible apply frame_evt | with_reducible apply frame_setSt | with_reducible apply SameBut.set_adm
    | dsimp only

theorem frame_rootDecide {fp : List Part} {u0 : State} (s : State) (r : AdmRequest)
    (hfp : [.regs, .ring, .adm, .sent, .streams] ⊆ fp) (h0 : SameBut fp u0 s) :
    SameBut fp u0 (rootDecide s r) := by
  unfold rootDecide
  dsimp only
  repeat'
    first
    | with_reducible assumption | exact List.Subset.trans (by decide) hfp | with_reducible intro _
    | with_reducible apply sameBut_ite | with_reducible apply frame_admResult
    | with_reducible apply frame_sendRing | split | with_reducible apply SameBut.set_adm | dsimp only

theorem frame_rootRequest {fp : List Part} {u0 : State} (s : State) (r : AdmRequest)
    (hfp : [.regs, .ring, .adm, .sent, .streams] ⊆ fp) (h0 : SameBut fp u0 s) :
    SameBut fp u0 (rootRequest s r) := by
  unfold rootRequest
  repeat'
    first
    | with_reducible assumption | exact List.Subset.trans (by decide) hfp | with_reducible apply sameBut_ite
    | with_reducible apply frame_rootDecide | with_reducible apply SameBut.set_adm

theorem frame_rootRelease {fp : List Part} {u0 : State} (s : State) (r : AdmRequest)
    (hfp : [.adm] ⊆ fp) (h0 : SameBut fp u0 s) :
    SameBut fp u0 (rootRelease s r) := by
  unfold rootRelease
  repeat'
    first
    | with_reducible assumption | exact List.Subset.trans (by decide) hfp | with_reducible intro _
    | with_reducible apply SameBut.set_adm | dsimp only

theorem frame_sendAdm {fp : List Part} {u0 : State} (s : State) (r : AdmRequest)
    (hfp : [.regs, .ring, .adm, .sent, .streams] ⊆ fp) (h0 : SameBut fp u0 s) :
    SameBut fp u0 (sendAdm s r) := by
  unfold sendAdm
  repeat'
    first
    | with_reducible assumption | exact List.Subset.trans (by decide) hfp | with_reducible apply sameBut_ite
    | with_reducible apply frame_rootRelease | with_reducible apply frame_rootRequest
    | with_reducible apply frame_sendRing

theorem frame_releaseAdm {fp : List Part} {u0 : State} (s : State) (i : Nat)
    (hfp : [.regs, .ring, .adm, .sent, .streams] ⊆ fp) (h0 : SameBut fp u0 s) :
    SameBut fp u0 (releaseAdm s i) := by
  unfold releaseAdm
  dsimp only
  repeat'
    first
    | with_reducible assumption | exact List.Subset.trans (by decide) hfp | with_reducible apply frame_sendAdm
    | with_reducible apply SameBut.set_adm | dsimp only

theorem frame_openStream {fp : List Part} {u0 : State} (s : State) (w : Who) (i : Nat)
    (hfp : [.regs, .pages, .host, .ring, .adm, .sent, .streams] ⊆ fp) (h0 : SameBut fp u0 s) :
    SameBut fp u0 (openStream s w i) := by
  unfold openStream
  dsimp only
  repeat'
    first
    | with_reducible assumption | exact List.Subset.trans (by decide) hfp | with_reducible intro _
    | with_reducible apply sameBut_ite | with_reducible apply frame_evt | with_reducible apply frame_refuse
    | with_reducible apply frame_onStrm | with_reducible apply frame_setSt
    | with_reducible apply frame_admResult | with_reducible apply frame_sendAdm | split
    | with_reducible apply SameBut.set_adm | dsimp only

theorem frame_execOpenStream (p : Path) (i : Nat) (s : State) :
    ∃ s', execOpenStream p i s = .next s' ∧ SameBut [.regs, .pages, .host, .ring, .adm, .sent, .streams] s s' := by
  refine ⟨_, rfl, ?_⟩
  repeat'
    first
    | with_reducible assumption | with_reducible exact SameBut.refl _ _ | decide | with_reducible intro _
    | with_reducible apply frame_gated | with_reducible apply frame_openStream | dsimp only

theorem frame_startStream {fp : List Part} {u0 : State} (s : State) (i : Nat)
    (hfp : [.regs, .streams] ⊆ fp) (h0 : SameBut fp u0 s) :
    SameBut fp u0 (startStream s i) := by
  unfold startStream
  repeat'
    first
    | with_reducible assumption | exact List.Subset.trans (by decide) hfp | with_reducible apply frame_setSt

theorem frame_execStreamStart (i : Fin 64) (s : State) :
    ∃ s', execStreamStart i s = .next s' ∧ SameBut [.regs, .streams] s s' := by
  refine ⟨_, rfl, ?_⟩
  repeat'
    first
    | with_reducible assumption | with_reducible exact SameBut.refl _ _ | decide | with_reducible intro _
    | with_reducible apply frame_when | with_reducible apply frame_startStream | dsimp only

theorem frame_placeRec {fp : List Part} {u0 : State} (s : State) (i : Nat) (r : WaitRec)
    (hfp : [.streams] ⊆ fp) (h0 : SameBut fp u0 s) :
    SameBut fp u0 (placeRec s i r) := by
  unfold placeRec
  dsimp only
  repeat'
    first
    | with_reducible assumption | exact List.Subset.trans (by decide) hfp | with_reducible intro _
    | with_reducible apply sameBut_ite | with_reducible apply frame_closeQuire
    | with_reducible apply frame_onStrm | dsimp only

theorem frame_drainRecs {fp : List Part} {u0 : State} (s : State) (i : Nat) (all : Bool) (n : Nat)
    (hfp : [.streams] ⊆ fp) (h0 : SameBut fp u0 s) : SameBut fp u0 (drainRecs s i all n) := by
  induction n generalizing s with
  | zero => exact h0
  | succ n ih =>
    unfold drainRecs
    dsimp only
    split
    · exact h0
    · repeat'
        first
        | with_reducible assumption | exact List.Subset.trans (by decide) hfp | with_reducible apply sameBut_ite
        | with_reducible apply ih | with_reducible apply frame_onStrm | with_reducible apply frame_placeRec

theorem frame_closingEnd {fp : List Part} {u0 : State} (s : State) (i : Nat)
    (hfp : [.streams] ⊆ fp) (h0 : SameBut fp u0 s) :
    SameBut fp u0 (closingEnd s i) := by
  unfold closingEnd
  dsimp only
  repeat'
    first
    | with_reducible assumption | exact List.Subset.trans (by decide) hfp | with_reducible apply sameBut_ite
    | with_reducible apply frame_finishStream | dsimp only

theorem frame_flushRecs {fp : List Part} {u0 : State} (s : State) (i : Nat)
    (hfp : [.streams] ⊆ fp) (h0 : SameBut fp u0 s) :
    SameBut fp u0 (flushRecs s i) := by
  unfold flushRecs
  repeat'
    first
    | with_reducible assumption | exact List.Subset.trans (by decide) hfp
    | with_reducible apply frame_closingEnd | with_reducible apply frame_drainRecs

theorem frame_feedStream {fp : List Part} {u0 : State} (s : State) (i ch idx : Nat) (vals : List Word) (next : Option
    Nat) (lost : Bool)
    (hfp : [.regs, .streams] ⊆ fp) (h0 : SameBut fp u0 s) :
    SameBut fp u0 (feedStream s i ch idx vals next lost) := by
  unfold feedStream
  dsimp only
  repeat'
    first
    | with_reducible assumption | exact List.Subset.trans (by decide) hfp | with_reducible intro _
    | with_reducible apply sameBut_ite | with_reducible apply sameBut_foldl
    | with_reducible apply frame_startStream | with_reducible apply frame_onStrm
    | with_reducible apply frame_closingEnd | with_reducible apply frame_drainRecs | dsimp only

theorem frame_feedStreams {fp : List Part} {u0 : State} (s : State) (src ch idx : Nat) (vals : List Word) (next :
    Option Nat) (lost : Bool)
    (hfp : [.regs, .streams] ⊆ fp) (h0 : SameBut fp u0 s) :
    SameBut fp u0 (feedStreams s src ch idx vals next lost) := by
  unfold feedStreams
  repeat'
    first
    | with_reducible assumption | exact List.Subset.trans (by decide) hfp | with_reducible intro _
    | with_reducible apply sameBut_ite | with_reducible apply sameBut_foldl
    | with_reducible apply frame_feedStream | dsimp only

theorem frame_startBy {fp : List Part} {u0 : State} (s : State) (i b : Nat)
    (hfp : [.regs, .streams] ⊆ fp) (h0 : SameBut fp u0 s) :
    SameBut fp u0 (startBy s i b) := by
  unfold startBy
  repeat'
    first
    | with_reducible assumption | exact List.Subset.trans (by decide) hfp | with_reducible apply sameBut_ite
    | with_reducible apply frame_startStream

theorem frame_notSampled {fp : List Part} {u0 : State} (s : State) (i a b : Nat)
    (hfp : [.streams] ⊆ fp) (h0 : SameBut fp u0 s) :
    SameBut fp u0 (notSampled s i a b) := by
  unfold notSampled
  dsimp only
  repeat'
    first
    | with_reducible assumption | exact List.Subset.trans (by decide) hfp | with_reducible intro _
    | with_reducible apply sameBut_ite | with_reducible apply frame_drainRecs
    | with_reducible apply frame_closeQuire | with_reducible apply frame_pushQuire
    | with_reducible apply frame_closingEnd | with_reducible apply frame_onStrm | dsimp only

theorem frame_notSampledAll {fp : List Part} {u0 : State} (s : State) (a b : Nat)
    (hfp : [.regs, .streams] ⊆ fp) (h0 : SameBut fp u0 s) :
    SameBut fp u0 (notSampledAll s a b) := by
  unfold notSampledAll
  dsimp only
  repeat'
    first
    | with_reducible assumption | exact List.Subset.trans (by decide) hfp | with_reducible intro _
    | with_reducible apply sameBut_ite | with_reducible apply sameBut_foldl
    | with_reducible apply frame_startBy | with_reducible apply frame_onStrm
    | with_reducible apply frame_notSampled | dsimp only

theorem frame_joinStream {fp : List Part} {u0 : State} (s : State) (p : StreamPos)
    (hfp : [.streams] ⊆ fp) (h0 : SameBut fp u0 s) :
    SameBut fp u0 (joinStream s p) := by
  unfold joinStream
  repeat'
    first
    | with_reducible assumption | exact List.Subset.trans (by decide) hfp | with_reducible intro _
    | with_reducible apply sameBut_ite | with_reducible apply frame_onStrm | split | dsimp only

theorem frame_wordErrors {fp : List Part} {u0 : State} (count : State → Nat → Nat → State) (s : State) (errs : List
    QueueErr) (q : Quire) (hcount : ∀ x y z, SameBut fp u0 x → SameBut fp u0 (count x y z))
    (hfp : [] ⊆ fp) (h0 : SameBut fp u0 s) :
    SameBut fp u0 (wordErrors count s errs q).1 := by
  unfold wordErrors
  repeat'
    first
    | with_reducible assumption | exact List.Subset.trans (by decide) hfp | with_reducible intro _
    | with_reducible apply sameBut_ite | with_reducible apply sameBut_ite_fst
    | with_reducible apply sameBut_foldl | with_reducible apply sameBut_foldl_fst | with_reducible apply hcount
    | split | dsimp only

theorem frame_quireErrors {fp : List Part} {u0 : State} (s : State) (i : Nat) (errs : List QueueErr) (q : Quire)
    (hfp : [.regs, .queueEcc] ⊆ fp) (h0 : SameBut fp u0 s) :
    SameBut fp u0 (quireErrors s i errs q).1 := by
  unfold quireErrors
  repeat'
    first
    | with_reducible assumption | exact List.Subset.trans (by decide) hfp | with_reducible intro _
    | with_reducible apply frame_wordErrors | with_reducible apply frame_queueError | dsimp only

theorem frame_vatError {fp : List Part} {u0 : State} (s : State) (corr unc : Nat)
    (hfp : [.regs] ⊆ fp) (h0 : SameBut fp u0 s) :
    SameBut fp u0 (vatError s corr unc) := by
  unfold vatError
  repeat'
    first
    | with_reducible assumption | exact List.Subset.trans (by decide) hfp | with_reducible apply frame_bumpSat

theorem frame_feltErrors {fp : List Part} {u0 : State} (s : State) (i : Nat) (errs : List QueueErr) (f : FeltQuire)
    (hfp : [.regs, .streams] ⊆ fp) (h0 : SameBut fp u0 s) :
    SameBut fp u0 (feltErrors s i errs f).1 := by
  unfold feltErrors
  dsimp only
  repeat'
    first
    | with_reducible assumption | exact List.Subset.trans (by decide) hfp | with_reducible intro _
    | with_reducible apply sameBut_ite | with_reducible apply sameBut_ite_fst
    | with_reducible apply frame_wordErrors | with_reducible apply frame_vatError
    | with_reducible apply frame_onStrm | dsimp only

theorem frame_storeQuire {fp : List Part} {u0 : State} (s : State) (i : Nat) (errs : List QueueErr)
    (hfp : [.regs, .queueEcc, .streams] ⊆ fp) (h0 : SameBut fp u0 s) :
    SameBut fp u0 (storeQuire s i errs) := by
  unfold storeQuire
  dsimp only
  repeat'
    first
    | with_reducible assumption | exact List.Subset.trans (by decide) hfp | with_reducible intro _
    | with_reducible apply frame_quireErrors | with_reducible apply frame_onStrm | split | dsimp only

theorem frame_execQuireStored (i : Fin 64) (errs : List QueueErr) (s : State) :
    ∃ s', execQuireStored i errs s = .next s' ∧ SameBut [.regs, .queueEcc, .streams] s s' := by
  refine ⟨_, rfl, ?_⟩
  repeat'
    first
    | with_reducible assumption | with_reducible exact SameBut.refl _ _ | decide
    | with_reducible apply frame_storeQuire

theorem frame_sendQuire {fp : List Part} {u0 : State} (s : State) (i : Nat) (f : FeltQuire)
    (hfp : [.regs, .ring, .adm, .sent, .streams] ⊆ fp) (h0 : SameBut fp u0 s) :
    SameBut fp u0 (sendQuire s i f) := by
  unfold sendQuire
  dsimp only
  repeat'
    first
    | with_reducible assumption | exact List.Subset.trans (by decide) hfp | with_reducible intro _
    | with_reducible apply sameBut_ite | with_reducible apply frame_sendRing
    | with_reducible apply frame_onStrm | with_reducible apply frame_bumpWrap
    | with_reducible apply frame_evtIf | with_reducible apply frame_notSampled
    | with_reducible apply SameBut.set_adm | dsimp only

theorem frame_execQuireTransmit (i : Fin 64) (s : State) (errs : List QueueErr) :
    ∃ s', execQuireTransmit i s errs = .next s' ∧ SameBut [.regs, .queueEcc, .ring, .adm, .sent, .streams] s s' := by
  refine ⟨_, rfl, ?_⟩
  repeat'
    first
    | with_reducible assumption | with_reducible exact SameBut.refl _ _ | decide | with_reducible intro _
    | with_reducible apply sameBut_ite | with_reducible apply frame_when
    | with_reducible apply frame_storeQuire | with_reducible apply frame_feltErrors
    | with_reducible apply frame_sendQuire | split | dsimp only

theorem frame_settleStream {fp : List Part} {u0 : State} (s : State) (i : Nat)
    (hfp : [.regs, .streams] ⊆ fp) (h0 : SameBut fp u0 s) :
    SameBut fp u0 (settleStream s i) := by
  unfold settleStream
  dsimp only
  repeat'
    first
    | with_reducible assumption | exact List.Subset.trans (by decide) hfp | with_reducible intro _
    | with_reducible apply sameBut_ite | with_reducible apply frame_onStrm | with_reducible apply frame_setSt
    | dsimp only

theorem frame_ackStream {fp : List Part} {u0 : State} (s : State) (i : Nat) (a : Seq32) (nack : Option Word)
    (hfp : [.regs, .streams] ⊆ fp) (h0 : SameBut fp u0 s) :
    SameBut fp u0 (ackStream s i a nack).1 := by
  unfold ackStream
  dsimp only
  repeat'
    first
    | with_reducible assumption | exact List.Subset.trans (by decide) hfp | with_reducible intro _
    | with_reducible apply sameBut_ite | with_reducible apply sameBut_ite_fst
    | with_reducible apply frame_onStrm | with_reducible apply frame_settleStream
    | with_reducible apply frame_evt | with_reducible apply frame_bumpSat | dsimp only

theorem frame_hostAck {fp : List Part} {u0 : State} (s : State) (i : Nat) (a : Seq32) (nack : Option Word)
    (hfp : [.regs, .sent, .streams] ⊆ fp) (h0 : SameBut fp u0 s) :
    SameBut fp u0 (hostAck s i a nack) := by
  unfold hostAck
  dsimp only
  repeat'
    first
    | with_reducible assumption | exact List.Subset.trans (by decide) hfp | with_reducible apply sameBut_ite
    | with_reducible apply frame_ackStream | with_reducible apply frame_sendTwin | dsimp only

theorem frame_acknowledgement {fp : List Part} {u0 : State} (s : State) (m : AckMsg)
    (hfp : [.regs, .sent, .streams] ⊆ fp) (h0 : SameBut fp u0 s) :
    SameBut fp u0 (acknowledgement s m) := by
  unfold acknowledgement
  repeat'
    first
    | with_reducible assumption | exact List.Subset.trans (by decide) hfp | with_reducible apply sameBut_ite
    | with_reducible apply frame_hostAck

theorem frame_execAcknowledgement (m : AckMsg) (s : State) :
    ∃ s', execAcknowledgement m s = .next s' ∧ SameBut [.regs, .sent, .streams] s s' := by
  refine ⟨_, rfl, ?_⟩
  repeat'
    first
    | with_reducible assumption | with_reducible exact SameBut.refl _ _ | decide
    | with_reducible apply frame_acknowledgement

theorem frame_execSeqAcked (p : Path) (i : Fin 64) (a : Seq32) (s : State) :
    ∃ s', execSeqAcked p i a s = .next s' ∧ SameBut [.regs, .pages, .host, .sent, .streams] s s' := by
  refine ⟨_, rfl, ?_⟩
  repeat'
    first
    | with_reducible assumption | with_reducible exact SameBut.refl _ _ | decide | with_reducible intro _
    | with_reducible apply frame_gated | with_reducible apply frame_hostAck | dsimp only

theorem frame_execRetxAfter (i : Fin 64) (s : State) :
    ∃ s', execRetxAfter i s = .next s' ∧ SameBut [.streams] s s' := by
  refine ⟨_, rfl, ?_⟩
  repeat'
    first
    | with_reducible assumption | with_reducible exact SameBut.refl _ _ | decide | with_reducible intro _
    | with_reducible apply frame_when | with_reducible apply frame_onStrm | split | dsimp only

theorem frame_recoverStreams {fp : List Part} {u0 : State} (s : State)
    (hfp : [.streams] ⊆ fp) (h0 : SameBut fp u0 s) :
    SameBut fp u0 (recoverStreams s) := by
  unfold recoverStreams
  repeat'
    first
    | with_reducible assumption | exact List.Subset.trans (by decide) hfp | with_reducible intro _
    | with_reducible apply sameBut_ite | with_reducible apply SameBut.set_streams | dsimp only

theorem frame_endStream {fp : List Part} {u0 : State} (s : State) (i cause : Nat)
    (hfp : [.regs, .ring, .adm, .sent, .streams] ⊆ fp) (h0 : SameBut fp u0 s) :
    SameBut fp u0 (endStream s i cause) := by
  unfold endStream
  dsimp only
  repeat'
    first
    | with_reducible assumption | exact List.Subset.trans (by decide) hfp | with_reducible apply sameBut_ite
    | with_reducible apply frame_finishStream | with_reducible apply frame_evt
    | with_reducible apply frame_setSt | with_reducible apply frame_releaseAdm | dsimp only

theorem frame_closeStream {fp : List Part} {u0 : State} (s : State) (w : Who) (i : Nat)
    (hfp : [.regs, .pages, .host, .ring, .adm, .sent, .streams] ⊆ fp) (h0 : SameBut fp u0 s) :
    SameBut fp u0 (closeStream s w i) := by
  unfold closeStream
  dsimp only
  repeat'
    first
    | with_reducible assumption | exact List.Subset.trans (by decide) hfp | with_reducible intro _
    | with_reducible apply frame_checked | with_reducible apply frame_closingEnd
    | with_reducible apply frame_setSt | with_reducible apply frame_releaseAdm
    | with_reducible apply frame_onStrm | split | with_reducible apply SameBut.set_adm | dsimp only

theorem frame_execCloseStream (p : Path) (i : Nat) (s : State) :
    ∃ s', execCloseStream p i s = .next s' ∧ SameBut [.regs, .pages, .host, .ring, .adm, .sent, .streams] s s' := by
  refine ⟨_, rfl, ?_⟩
  repeat'
    first
    | with_reducible assumption | with_reducible exact SameBut.refl _ _ | decide | with_reducible intro _
    | with_reducible apply frame_gated | with_reducible apply frame_closeStream | dsimp only

theorem frame_clearStream {fp : List Part} {u0 : State} (s : State) (w : Who) (i : Nat)
    (hfp : [.regs, .pages, .host, .streams] ⊆ fp) (h0 : SameBut fp u0 s) :
    SameBut fp u0 (clearStream s w i) := by
  unfold clearStream
  repeat'
    first
    | with_reducible assumption | exact List.Subset.trans (by decide) hfp | with_reducible intro _
    | with_reducible apply sameBut_ite | with_reducible apply frame_checked | with_reducible apply frame_onStrm
    | with_reducible apply frame_setSt | dsimp only

theorem frame_execClearStream (p : Path) (i : Nat) (s : State) :
    ∃ s', execClearStream p i s = .next s' ∧ SameBut [.regs, .pages, .host, .streams] s s' := by
  refine ⟨_, rfl, ?_⟩
  repeat'
    first
    | with_reducible assumption | with_reducible exact SameBut.refl _ _ | decide | with_reducible intro _
    | with_reducible apply frame_gated | with_reducible apply frame_clearStream | dsimp only

theorem frame_strmCtrl {fp : List Part} {u0 : State} (s : State) (w : Who) (v : Word)
    (hfp : [.regs, .pages, .host, .ring, .adm, .sent, .streams] ⊆ fp) (h0 : SameBut fp u0 s) :
    SameBut fp u0 (strmCtrl s w v) := by
  unfold strmCtrl
  repeat'
    first
    | with_reducible assumption | exact List.Subset.trans (by decide) hfp
    | with_reducible apply frame_openStream | with_reducible apply frame_closeStream
    | with_reducible apply frame_clearStream | with_reducible apply frame_refuse | split

theorem frame_strmSelWrite {fp : List Part} {u0 : State} (s : State) (v : Word)
    (hfp : [.strmSel] ⊆ fp) (h0 : SameBut fp u0 s) :
    SameBut fp u0 (strmSelWrite s v) := by
  unfold strmSelWrite
  repeat'
    first
    | with_reducible assumption | exact List.Subset.trans (by decide) hfp
    | with_reducible apply SameBut.set_strmSel

end Sys2Proof.Machine
end

