-- ==== Sys2Proof/Laws/FrameVat.lean ====
section
/-!
SUPPORT. What every operation of Machine/Vat.lean leaves alone (SameBut): one lemma for each operation that answers a state.
-/
set_option linter.all false

namespace Sys2Proof.Machine

theorem frame_vatPutWord {fp : List Part} {u0 : State} (s : State) (a : Nat) (w : Word)
    (hfp : [.vat] ⊆ fp) (h0 : SameBut fp u0 s) :
    SameBut fp u0 (vatPutWord s a w) := by
  unfold vatPutWord
  repeat'
    first
    | with_reducible assumption | exact List.Subset.trans (by decide) hfp | with_reducible intro _
    | with_reducible apply sameBut_foldl | with_reducible apply frame_vatPut | dsimp only

theorem frame_vatPutWords {fp : List Part} {u0 : State} (s : State) (a : Nat) (l : List Word)
    (hfp : [.vat] ⊆ fp) (h0 : SameBut fp u0 s) :
    SameBut fp u0 (vatPutWords s a l) := by
  unfold vatPutWords
  repeat'
    first
    | with_reducible assumption | exact List.Subset.trans (by decide) hfp | with_reducible intro _
    | with_reducible apply sameBut_foldl | with_reducible apply sameBut_foldl_fst
    | with_reducible apply frame_vatPutWord | dsimp only

theorem frame_vatPutBytes {fp : List Part} {u0 : State} (s : State) (a : Nat) (l : List Byte)
    (hfp : [.vat] ⊆ fp) (h0 : SameBut fp u0 s) :
    SameBut fp u0 (vatPutBytes s a l) := by
  unfold vatPutBytes
  repeat'
    first
    | with_reducible assumption | exact List.Subset.trans (by decide) hfp | with_reducible intro _
    | with_reducible apply sameBut_foldl | with_reducible apply sameBut_foldl_fst
    | with_reducible apply frame_vatPut | dsimp only

end Sys2Proof.Machine
end

