-- ==== Sys2Proof/Laws/FrameCapture.lean ====
section
/-!
SUPPORT. What every operation of Machine/Capture.lean leaves alone (SameBut): one lemma for each operation that answers a state.
-/
set_option linter.all false

namespace Sys2Proof.Machine

theorem frame_onReam {fp : List Part} {u0 : State} (s : State) (r : Nat) (f : ReamState → ReamState)
    (hfp : [.reams] ⊆ fp) (h0 : SameBut fp u0 s) :
    SameBut fp u0 (onReam s r f) := by
  unfold onReam
  repeat'
    first
    | with_reducible assumption | exact List.Subset.trans (by decide) hfp
    | with_reducible apply SameBut.set_reams

theorem frame_setReam {fp : List Part} {u0 : State} (s : State) (r : Nat) (st : ReamSt)
    (hfp : [.regs, .reams] ⊆ fp) (h0 : SameBut fp u0 s) :
    SameBut fp u0 (setReam s r st) := by
  unfold setReam
  repeat'
    first
    | with_reducible assumption | exact List.Subset.trans (by decide) hfp | with_reducible intro _
    | with_reducible apply sameBut_ite | with_reducible apply frame_evt | with_reducible apply frame_onReam
    | dsimp only

theorem frame_reamWait {fp : List Part} {u0 : State} (s : State) (r n : Nat)
    (hfp : [.regs, .reams] ⊆ fp) (h0 : SameBut fp u0 s) :
    SameBut fp u0 (reamWait s r n) := by
  unfold reamWait
  repeat'
    first
    | with_reducible assumption | exact List.Subset.trans (by decide) hfp | with_reducible intro _
    | with_reducible apply frame_setReam | with_reducible apply frame_onReam | dsimp only

theorem frame_reamStart {fp : List Part} {u0 : State} (s : State) (r : Nat)
    (hfp : [.regs, .reams] ⊆ fp) (h0 : SameBut fp u0 s) :
    SameBut fp u0 (reamStart s r) := by
  unfold reamStart
  dsimp only
  repeat'
    first
    | with_reducible assumption | exact List.Subset.trans (by decide) hfp | with_reducible intro _
    | with_reducible apply sameBut_ite | with_reducible apply frame_onReam
    | with_reducible apply frame_reamWait | dsimp only

theorem frame_armReam {fp : List Part} {u0 : State} (s : State) (w : Who) (r : Nat) (armAt : Option Nat)
    (hfp : [.regs, .pages, .host, .reams] ⊆ fp) (h0 : SameBut fp u0 s) :
    SameBut fp u0 (armReam s w r armAt) := by
  unfold armReam
  dsimp only
  repeat'
    first
    | with_reducible assumption | exact List.Subset.trans (by decide) hfp | with_reducible intro _
    | with_reducible apply sameBut_ite | with_reducible apply frame_checked | with_reducible apply frame_onReam
    | with_reducible apply frame_setReam | with_reducible apply frame_reamStart | dsimp only

theorem frame_execArm (p : Path) (r : Fin 16) (s : State) :
    ∃ s', execArm p r s = .next s' ∧ SameBut [.regs, .pages, .host, .reams] s s' := by
  refine ⟨_, rfl, ?_⟩
  repeat'
    first
    | with_reducible assumption | with_reducible exact SameBut.refl _ _ | decide | with_reducible intro _
    | with_reducible apply frame_gated | with_reducible apply frame_armReam | dsimp only

theorem frame_execArmAt (p : Path) (r : Fin 16) (s : State) :
    ∃ s', execArmAt p r s = .next s' ∧ SameBut [.regs, .pages, .host, .reams] s s' := by
  refine ⟨_, rfl, ?_⟩
  repeat'
    first
    | with_reducible assumption | with_reducible exact SameBut.refl _ _ | decide | with_reducible intro _
    | with_reducible apply frame_gated | with_reducible apply frame_armReam | dsimp only

theorem frame_execArmAtReached (r : Fin 16) (s : State) :
    ∃ s', execArmAtReached r s = .next s' ∧ SameBut [.regs, .reams] s s' := by
  refine ⟨_, rfl, ?_⟩
  repeat'
    first
    | with_reducible assumption | with_reducible exact SameBut.refl _ _ | decide | with_reducible intro _
    | with_reducible apply frame_when | with_reducible apply frame_reamStart | dsimp only

theorem frame_writeHeader {fp : List Part} {u0 : State} (s : State) (r : Nat) (g : Segment)
    (hfp : [.regs, .vat, .reams] ⊆ fp) (h0 : SameBut fp u0 s) :
    SameBut fp u0 (writeHeader s r g) := by
  unfold writeHeader
  dsimp only
  repeat'
    first
    | with_reducible assumption | exact List.Subset.trans (by decide) hfp | with_reducible intro _
    | with_reducible apply frame_vatPutWords | with_reducible apply frame_evt
    | with_reducible apply frame_onReam | dsimp only

theorem frame_storeSlots {fp : List Part} {u0 : State} (s : State) (r : Nat) (g : Segment)
    (hfp : [.vat] ⊆ fp) (h0 : SameBut fp u0 s) :
    SameBut fp u0 (storeSlots s r g) := by
  unfold storeSlots
  repeat'
    first
    | with_reducible assumption | exact List.Subset.trans (by decide) hfp
    | with_reducible apply frame_vatPutWords

theorem frame_segSlotError {fp : List Part} {u0 : State} (a : State × Segment) (r k : Nat)
    (hfp : [.regs, .vat] ⊆ fp) (h0 : SameBut fp u0 a.1) :
    SameBut fp u0 (segSlotError a r k).1 := by
  unfold segSlotError
  dsimp only
  repeat'
    first
    | with_reducible assumption | exact List.Subset.trans (by decide) hfp | with_reducible apply sameBut_ite
    | with_reducible apply sameBut_ite_fst | with_reducible apply frame_storeSlots
    | with_reducible apply frame_vatError | dsimp only

theorem frame_segErrors {fp : List Part} {u0 : State} (s : State) (r : Nat) (errs : List QueueErr) (g : Segment)
    (hfp : [.regs, .vat] ⊆ fp) (h0 : SameBut fp u0 s) :
    SameBut fp u0 (segErrors s r errs g).1 := by
  unfold segErrors
  repeat'
    first
    | with_reducible assumption | exact List.Subset.trans (by decide) hfp | with_reducible intro _
    | with_reducible apply sameBut_foldl | with_reducible apply sameBut_foldl_fst
    | with_reducible apply frame_vatError | with_reducible apply frame_segSlotError | split | dsimp only

theorem frame_execSegmentDone (r : Fin 16) (s : State) (errs : List QueueErr) :
    ∃ s', execSegmentDone r s errs = .next s' ∧ SameBut [.regs, .vat, .reams] s s' := by
  refine ⟨_, rfl, ?_⟩
  repeat'
    first
    | with_reducible assumption | with_reducible exact SameBut.refl _ _ | decide | with_reducible intro _
    | with_reducible apply frame_segErrors | with_reducible apply frame_onReam
    | with_reducible apply frame_writeHeader | split | dsimp only

theorem frame_closeSegment {fp : List Part} {u0 : State} (s : State) (r : Nat) (incomplete : Bool)
    (hfp : [.streams, .reams] ⊆ fp) (h0 : SameBut fp u0 s) :
    SameBut fp u0 (closeSegment s r incomplete) := by
  unfold closeSegment
  dsimp only
  repeat'
    first
    | with_reducible assumption | exact List.Subset.trans (by decide) hfp | with_reducible intro _
    | with_reducible apply sameBut_ite | with_reducible apply frame_flushRecs
    | with_reducible apply frame_onReam | split | dsimp only

theorem frame_stopReam {fp : List Part} {u0 : State} (s : State) (r cause : Nat)
    (hfp : [.regs, .streams, .reams] ⊆ fp) (h0 : SameBut fp u0 s) :
    SameBut fp u0 (stopReam s r cause) := by
  unfold stopReam
  dsimp only
  repeat'
    first
    | with_reducible assumption | exact List.Subset.trans (by decide) hfp | with_reducible intro _
    | with_reducible apply frame_closeSegment | with_reducible apply frame_evt
    | with_reducible apply frame_setReam | with_reducible apply frame_onReam | dsimp only

theorem frame_spillEnded {fp : List Part} {u0 : State} (s : State) (i : Nat)
    (hfp : [.regs, .streams, .reams] ⊆ fp) (h0 : SameBut fp u0 s) :
    SameBut fp u0 (spillEnded s i) := by
  unfold spillEnded
  repeat'
    first
    | with_reducible assumption | exact List.Subset.trans (by decide) hfp | with_reducible intro _
    | with_reducible apply sameBut_ite | with_reducible apply sameBut_foldl
    | with_reducible apply frame_stopReam | dsimp only

theorem frame_endSpills {fp : List Part} {u0 : State} (s : State) (i cause : Nat)
    (hfp : [.regs, .ring, .adm, .sent, .streams, .reams] ⊆ fp) (h0 : SameBut fp u0 s) :
    SameBut fp u0 (endSpills s i cause) := by
  unfold endSpills
  repeat'
    first
    | with_reducible assumption | exact List.Subset.trans (by decide) hfp
    | with_reducible apply frame_spillEnded | with_reducible apply frame_endStream

theorem frame_execTHoldExpiry (i : Fin 64) (s : State) :
    ∃ s', execTHoldExpiry i s = .next s' ∧ SameBut [.regs, .ring, .adm, .sent, .streams, .reams] s s' := by
  refine ⟨_, rfl, ?_⟩
  repeat'
    first
    | with_reducible assumption | with_reducible exact SameBut.refl _ _ | decide | with_reducible intro _
    | with_reducible apply frame_when | with_reducible apply frame_endSpills | dsimp only

theorem frame_segmentEnd {fp : List Part} {u0 : State} (s : State) (r : Nat)
    (hfp : [.regs, .streams, .reams] ⊆ fp) (h0 : SameBut fp u0 s) :
    SameBut fp u0 (segmentEnd s r) := by
  unfold segmentEnd
  dsimp only
  repeat'
    first
    | with_reducible assumption | exact List.Subset.trans (by decide) hfp | with_reducible intro _
    | with_reducible apply sameBut_ite | with_reducible apply frame_closeSegment
    | with_reducible apply frame_stopReam | with_reducible apply frame_setReam
    | with_reducible apply frame_reamWait | with_reducible apply frame_onReam | dsimp only

theorem frame_execHoldoffEnd (r : Fin 16) (s : State) :
    ∃ s', execHoldoffEnd r s = .next s' ∧ SameBut [.regs, .reams] s s' := by
  refine ⟨_, rfl, ?_⟩
  repeat'
    first
    | with_reducible assumption | with_reducible exact SameBut.refl _ _ | decide | with_reducible intro _
    | with_reducible apply frame_when | with_reducible apply frame_reamWait | dsimp only

theorem frame_postRecord {fp : List Part} {u0 : State} (s : State) (r : Nat) (x : ReamRec)
    (hfp : [.regs, .streams, .vat, .reams] ⊆ fp) (h0 : SameBut fp u0 s) :
    SameBut fp u0 (postRecord s r x) := by
  unfold postRecord
  dsimp only
  repeat'
    first
    | with_reducible assumption | exact List.Subset.trans (by decide) hfp | with_reducible intro _
    | with_reducible apply sameBut_ite | with_reducible apply frame_stopReam
    | with_reducible apply frame_onReam | with_reducible apply frame_storeSlots
    | with_reducible apply frame_evtIf | with_reducible apply frame_feedStream
    | with_reducible apply frame_segmentEnd | split | dsimp only

theorem frame_takeTrigger {fp : List Part} {u0 : State} (s : State) (r : Nat) (c : Cand)
    (hfp : [.regs, .streams, .vat, .reams, .strobes] ⊆ fp) (h0 : SameBut fp u0 s) :
    SameBut fp u0 (takeTrigger s r c) := by
  unfold takeTrigger
  dsimp only
  repeat'
    first
    | with_reducible assumption | exact List.Subset.trans (by decide) hfp | with_reducible intro _
    | with_reducible apply sameBut_ite | with_reducible apply sameBut_foldl | with_reducible apply frame_onReam
    | with_reducible apply frame_storeSlots | with_reducible apply frame_strobeSegment
    | with_reducible apply frame_evtIf | with_reducible apply frame_evt | with_reducible apply frame_setReam
    | with_reducible apply frame_segmentEnd | with_reducible apply frame_postRecord | dsimp only

theorem frame_ignoredTrigger {fp : List Part} {u0 : State} (s : State)
    (hfp : [.regs] ⊆ fp) (h0 : SameBut fp u0 s) :
    SameBut fp u0 (ignoredTrigger s) := by
  unfold ignoredTrigger
  repeat'
    first
    | with_reducible assumption | exact List.Subset.trans (by decide) hfp | with_reducible apply frame_bumpSat

theorem frame_ringDecided {fp : List Part} {u0 : State} (s : State) (r segment n : Nat)
    (hfp : [.regs, .vat, .reams] ⊆ fp) (h0 : SameBut fp u0 s) :
    SameBut fp u0 (ringDecided s r segment n) := by
  unfold ringDecided
  dsimp only
  repeat'
    first
    | with_reducible assumption | exact List.Subset.trans (by decide) hfp | with_reducible intro _
    | with_reducible apply sameBut_ite | with_reducible apply frame_onReam
    | with_reducible apply frame_vatPutWord | with_reducible apply frame_evt
    | with_reducible apply frame_bumpSat | dsimp only

theorem frame_afterDecision {fp : List Part} {u0 : State} (s : State) (r : Nat) (c : Cand)
    (hfp : [.regs, .vat, .reams] ⊆ fp) (h0 : SameBut fp u0 s) :
    SameBut fp u0 (afterDecision s r c) := by
  unfold afterDecision
  repeat'
    first
    | with_reducible assumption | exact List.Subset.trans (by decide) hfp | with_reducible apply sameBut_ite
    | with_reducible apply frame_ringDecided | with_reducible apply frame_ignoredTrigger

theorem frame_nominate {fp : List Part} {u0 : State} (s : State) (r : Nat) (k : Cand)
    (hfp : [.regs, .streams, .vat, .reams, .strobes] ⊆ fp) (h0 : SameBut fp u0 s) :
    SameBut fp u0 (nominate s r k) := by
  unfold nominate
  repeat'
    first
    | with_reducible assumption | exact List.Subset.trans (by decide) hfp | with_reducible intro _
    | with_reducible apply sameBut_ite | with_reducible apply frame_takeTrigger
    | with_reducible apply frame_onReam | dsimp only

theorem frame_candidate {fp : List Part} {u0 : State} (s : State) (r : Nat) (c : Cand)
    (hfp : [.regs, .streams, .vat, .reams, .strobes] ⊆ fp) (h0 : SameBut fp u0 s) :
    SameBut fp u0 (candidate s r c) := by
  unfold candidate
  repeat'
    first
    | with_reducible assumption | exact List.Subset.trans (by decide) hfp | with_reducible apply sameBut_ite
    | with_reducible apply frame_takeTrigger | with_reducible apply frame_afterDecision
    | with_reducible apply frame_nominate | split

theorem frame_sendTrigger {fp : List Part} {u0 : State} (s : State) (r : Nat) (c : Cand)
    (hfp : [.regs, .ring, .sent] ⊆ fp) (h0 : SameBut fp u0 s) :
    SameBut fp u0 (sendTrigger s r c) := by
  unfold sendTrigger
  repeat'
    first
    | with_reducible assumption | exact List.Subset.trans (by decide) hfp | with_reducible apply sameBut_ite
    | with_reducible apply frame_sendRing

theorem frame_fire {fp : List Part} {u0 : State} (s : State) (r : Nat) (c : Cand)
    (hfp : [.regs, .ring, .sent, .streams, .vat, .reams, .strobes] ⊆ fp) (h0 : SameBut fp u0 s) :
    SameBut fp u0 (fire s r c) := by
  unfold fire
  dsimp only
  repeat'
    first
    | with_reducible assumption | exact List.Subset.trans (by decide) hfp | with_reducible intro _
    | with_reducible apply sameBut_ite | with_reducible apply frame_reamWait
    | with_reducible apply frame_ignoredTrigger | with_reducible apply frame_candidate
    | with_reducible apply frame_sendTrigger | with_reducible apply frame_onReam | split | dsimp only

theorem frame_reamRecord {fp : List Part} {u0 : State} (s : State) (r : Nat) (x : ReamRec)
    (hfp : [.regs, .ring, .sent, .streams, .vat, .reams, .strobes] ⊆ fp) (h0 : SameBut fp u0 s) :
    SameBut fp u0 (reamRecord s r x) := by
  unfold reamRecord
  dsimp only
  repeat'
    first
    | with_reducible assumption | exact List.Subset.trans (by decide) hfp | with_reducible intro _
    | with_reducible apply sameBut_ite | with_reducible apply frame_reamStart
    | with_reducible apply frame_onReam | with_reducible apply frame_fire
    | with_reducible apply frame_postRecord | with_reducible apply frame_reamWait | dsimp only

theorem frame_reamsRecord {fp : List Part} {u0 : State} (s : State) (ch idx : Nat) (w : Word)
    (hfp : [.regs, .ring, .sent, .streams, .vat, .reams, .strobes] ⊆ fp) (h0 : SameBut fp u0 s) :
    SameBut fp u0 (reamsRecord s ch idx w) := by
  unfold reamsRecord
  repeat'
    first
    | with_reducible assumption | exact List.Subset.trans (by decide) hfp | with_reducible intro _
    | with_reducible apply sameBut_foldl | with_reducible apply frame_reamRecord | dsimp only

theorem frame_reamsPin {fp : List Part} {u0 : State} (s : State) (pin : Nat) (falling : Bool) (stamp : Nat)
    (hfp : [.regs, .ring, .sent, .streams, .vat, .reams, .strobes] ⊆ fp) (h0 : SameBut fp u0 s) :
    SameBut fp u0 (reamsPin s pin falling stamp) := by
  unfold reamsPin
  dsimp only
  repeat'
    first
    | with_reducible assumption | exact List.Subset.trans (by decide) hfp | with_reducible intro _
    | with_reducible apply sameBut_ite | with_reducible apply sameBut_foldl | with_reducible apply frame_fire
    | dsimp only

theorem frame_hostTrigger {fp : List Part} {u0 : State} (s : State) (r : Nat)
    (hfp : [.regs, .ring, .sent, .streams, .vat, .reams, .strobes] ⊆ fp) (h0 : SameBut fp u0 s) :
    SameBut fp u0 (hostTrigger s r) := by
  unfold hostTrigger
  repeat'
    first
    | with_reducible assumption | exact List.Subset.trans (by decide) hfp | with_reducible apply sameBut_ite
    | with_reducible apply frame_fire

theorem frame_execHostTrigger (p : Path) (r : Fin 16) (s : State) :
    ∃ s', execHostTrigger p r s = .next s' ∧ SameBut [.regs, .pages, .host, .ring, .sent, .streams, .vat, .reams,
        .strobes] s s' := by
  refine ⟨_, rfl, ?_⟩
  repeat'
    first
    | with_reducible assumption | with_reducible exact SameBut.refl _ _ | decide | with_reducible intro _
    | with_reducible apply frame_gated | with_reducible apply frame_hostTrigger | dsimp only

theorem frame_execAutoTrigger (r : Fin 16) (s : State) :
    ∃ s', execAutoTrigger r s = .next s' ∧ SameBut [.regs, .streams, .vat, .reams, .strobes] s s' := by
  refine ⟨_, rfl, ?_⟩
  repeat'
    first
    | with_reducible assumption | with_reducible exact SameBut.refl _ _ | decide | with_reducible intro _
    | with_reducible apply frame_when | with_reducible apply frame_candidate | dsimp only

theorem frame_execTriggerDecision (r : Fin 16) (s : State) :
    ∃ s', execTriggerDecision r s = .next s' ∧ SameBut [.regs, .streams, .vat, .reams, .strobes] s s' := by
  refine ⟨_, rfl, ?_⟩
  repeat'
    first
    | with_reducible assumption | with_reducible exact SameBut.refl _ _ | decide | with_reducible intro _
    | with_reducible apply frame_when | with_reducible apply frame_takeTrigger | split | dsimp only

theorem frame_ringTriggerFor {fp : List Part} {u0 : State} (s : State) (r : Nat) (t : RingTrigger)
    (hfp : [.regs, .streams, .vat, .reams, .strobes] ⊆ fp) (h0 : SameBut fp u0 s) :
    SameBut fp u0 (ringTriggerFor s r t) := by
  unfold ringTriggerFor
  dsimp only
  repeat'
    first
    | with_reducible assumption | exact List.Subset.trans (by decide) hfp | with_reducible apply sameBut_ite
    | with_reducible apply frame_candidate | with_reducible apply frame_ringDecided | dsimp only

theorem frame_ringTriggered {fp : List Part} {u0 : State} (s : State) (t : RingTrigger)
    (hfp : [.regs, .streams, .vat, .reams, .strobes] ⊆ fp) (h0 : SameBut fp u0 s) :
    SameBut fp u0 (ringTriggered s t) := by
  unfold ringTriggered
  repeat'
    first
    | with_reducible assumption | exact List.Subset.trans (by decide) hfp | with_reducible intro _
    | with_reducible apply sameBut_ite | with_reducible apply sameBut_foldl
    | with_reducible apply frame_ringTriggerFor | dsimp only

theorem frame_execRingTrigger (t : RingTrigger) (s : State) :
    ∃ s', execRingTrigger t s = .next s' ∧ SameBut [.regs, .streams, .vat, .reams, .strobes] s s' := by
  refine ⟨_, rfl, ?_⟩
  repeat'
    first
    | with_reducible assumption | with_reducible exact SameBut.refl _ _ | decide
    | with_reducible apply frame_ringTriggered

theorem frame_disarmReam {fp : List Part} {u0 : State} (s : State) (r : Nat)
    (hfp : [.regs, .streams, .reams] ⊆ fp) (h0 : SameBut fp u0 s) :
    SameBut fp u0 (disarmReam s r) := by
  unfold disarmReam
  repeat'
    first
    | with_reducible assumption | exact List.Subset.trans (by decide) hfp | with_reducible apply sameBut_ite
    | with_reducible apply frame_stopReam

theorem frame_execDisarm (p : Path) (r : Fin 16) (s : State) :
    ∃ s', execDisarm p r s = .next s' ∧ SameBut [.regs, .pages, .host, .streams, .reams] s s' := by
  refine ⟨_, rfl, ?_⟩
  repeat'
    first
    | with_reducible assumption | with_reducible exact SameBut.refl _ _ | decide | with_reducible intro _
    | with_reducible apply frame_gated | with_reducible apply frame_disarmReam | dsimp only

theorem frame_clearReam {fp : List Part} {u0 : State} (s : State) (w : Who) (r : Nat)
    (hfp : [.regs, .pages, .host, .reams] ⊆ fp) (h0 : SameBut fp u0 s) :
    SameBut fp u0 (clearReam s w r) := by
  unfold clearReam
  repeat'
    first
    | with_reducible assumption | exact List.Subset.trans (by decide) hfp | with_reducible intro _
    | with_reducible apply frame_checked | with_reducible apply frame_setReam
    | with_reducible apply frame_onReam | dsimp only

theorem frame_execReamClear (p : Path) (r : Fin 16) (s : State) :
    ∃ s', execReamClear p r s = .next s' ∧ SameBut [.regs, .pages, .host, .reams] s s' := by
  refine ⟨_, rfl, ?_⟩
  repeat'
    first
    | with_reducible assumption | with_reducible exact SameBut.refl _ _ | decide | with_reducible intro _
    | with_reducible apply frame_gated | with_reducible apply frame_clearReam | dsimp only

theorem frame_captCtrl {fp : List Part} {u0 : State} (s : State) (w : Who) (v : Word)
    (hfp : [.regs, .pages, .host, .ring, .sent, .streams, .vat, .reams, .strobes] ⊆ fp) (h0 : SameBut fp u0 s) :
    SameBut fp u0 (captCtrl s w v) := by
  unfold captCtrl
  dsimp only
  repeat'
    first
    | with_reducible assumption | exact List.Subset.trans (by decide) hfp | with_reducible apply frame_armReam
    | with_reducible apply frame_disarmReam | with_reducible apply frame_clearReam
    | with_reducible apply frame_hostTrigger | with_reducible apply frame_refuse | split | dsimp only

theorem frame_noteGap {fp : List Part} {u0 : State} (s : State) (a b : Nat)
    (hfp : [.gaps] ⊆ fp) (h0 : SameBut fp u0 s) :
    SameBut fp u0 (noteGap s a b) := by
  unfold noteGap
  repeat'
    first
    | with_reducible assumption | exact List.Subset.trans (by decide) hfp
    | with_reducible apply SameBut.set_gaps

theorem frame_captDusk {fp : List Part} {u0 : State} (s : State)
    (hfp : [.regs, .streams, .reams] ⊆ fp) (h0 : SameBut fp u0 s) :
    SameBut fp u0 (captDusk s) := by
  unfold captDusk
  repeat'
    first
    | with_reducible assumption | exact List.Subset.trans (by decide) hfp | with_reducible intro _
    | with_reducible apply sameBut_ite | with_reducible apply sameBut_foldl
    | with_reducible apply frame_stopReam | dsimp only

theorem frame_captWarm {fp : List Part} {u0 : State} (s : State)
    (hfp : [.regs, .streams, .vat, .reams] ⊆ fp) (h0 : SameBut fp u0 s) :
    SameBut fp u0 (captWarm s) := by
  unfold captWarm
  dsimp only
  repeat'
    first
    | with_reducible assumption | exact List.Subset.trans (by decide) hfp | with_reducible intro _
    | with_reducible apply sameBut_ite | with_reducible apply sameBut_foldl
    | with_reducible apply frame_stopReam | with_reducible apply frame_writeHeader
    | with_reducible apply frame_onReam | dsimp only

theorem frame_captSelWrite {fp : List Part} {u0 : State} (s : State) (v : Word)
    (hfp : [.captSel] ⊆ fp) (h0 : SameBut fp u0 s) :
    SameBut fp u0 (captSelWrite s v) := by
  unfold captSelWrite
  repeat'
    first
    | with_reducible assumption | exact List.Subset.trans (by decide) hfp
    | with_reducible apply SameBut.set_captSel

end Sys2Proof.Machine
end

