-- ==== Sys2Proof/Laws/FrameTime.lean ====
section
/-!
SUPPORT. What every operation of Machine/Time.lean leaves alone (SameBut): one lemma for each operation that answers a state.
-/
set_option linter.all false

namespace Sys2Proof.Machine

theorem frame_onTime {fp : List Part} {u0 : State} (s : State) (f : TimeState → TimeState)
    (hfp : [.time] ⊆ fp) (h0 : SameBut fp u0 s) :
    SameBut fp u0 (onTime s f) := by
  unfold onTime
  repeat'
    first
    | with_reducible assumption | exact List.Subset.trans (by decide) hfp
    | with_reducible apply SameBut.set_time

theorem frame_onDom {fp : List Part} {u0 : State} (s : State) (d : Nat) (f : DomainState → DomainState)
    (hfp : [.time] ⊆ fp) (h0 : SameBut fp u0 s) :
    SameBut fp u0 (onDom s d f) := by
  unfold onDom
  repeat'
    first
    | with_reducible assumption | exact List.Subset.trans (by decide) hfp | with_reducible intro _
    | with_reducible apply frame_onTime | dsimp only

theorem frame_onPort {fp : List Part} {u0 : State} (s : State) (l : Lane) (f : PortDelay → PortDelay)
    (hfp : [.time] ⊆ fp) (h0 : SameBut fp u0 s) :
    SameBut fp u0 (onPort s l f) := by
  unfold onPort
  repeat'
    first
    | with_reducible assumption | exact List.Subset.trans (by decide) hfp | with_reducible intro _
    | with_reducible apply frame_onTime | dsimp only

theorem frame_setServo {fp : List Part} {u0 : State} (s : State) (d : Nat) (v : Servo)
    (hfp : [.regs, .time] ⊆ fp) (h0 : SameBut fp u0 s) :
    SameBut fp u0 (setServo s d v) := by
  unfold setServo
  dsimp only
  repeat'
    first
    | with_reducible assumption | exact List.Subset.trans (by decide) hfp | with_reducible intro _
    | with_reducible apply sameBut_ite | with_reducible apply frame_onDom | with_reducible apply frame_evtIf
    | with_reducible apply frame_evt | dsimp only

theorem frame_stepHub {fp : List Part} {u0 : State} (s : State) (step : Int)
    (hfp : [.regs, .chains, .time, .streams, .gaps] ⊆ fp) (h0 : SameBut fp u0 s) :
    SameBut fp u0 (stepHub s step) := by
  unfold stepHub
  dsimp only
  repeat'
    first
    | with_reducible assumption | exact List.Subset.trans (by decide) hfp | with_reducible intro _
    | with_reducible apply sameBut_ite | with_reducible apply frame_onTime | with_reducible apply frame_bumpSat
    | with_reducible apply frame_evt | with_reducible apply frame_wr | with_reducible apply frame_noteGap
    | with_reducible apply frame_notSampledAll | with_reducible apply frame_restartChains | dsimp only

theorem frame_servoUpdate {fp : List Part} {u0 : State} (s : State) (d : Nat) (o : Int)
    (hfp : [.time] ⊆ fp) (h0 : SameBut fp u0 s) :
    SameBut fp u0 (servoUpdate s d o) := by
  unfold servoUpdate
  dsimp only
  repeat'
    first
    | with_reducible assumption | exact List.Subset.trans (by decide) hfp | with_reducible intro _
    | with_reducible apply sameBut_ite | with_reducible apply frame_onTime | dsimp only

theorem frame_slewF {fp : List Part} {u0 : State} (s : State) (o : Int)
    (hfp : [.time] ⊆ fp) (h0 : SameBut fp u0 s) :
    SameBut fp u0 (slewF s o) := by
  unfold slewF
  dsimp only
  repeat'
    first
    | with_reducible assumption | exact List.Subset.trans (by decide) hfp | with_reducible intro _
    | with_reducible apply sameBut_ite | with_reducible apply frame_onTime | dsimp only

theorem frame_countFar {fp : List Part} {u0 : State} (s : State) (d : Nat) (o : Int)
    (hfp : [.time] ⊆ fp) (h0 : SameBut fp u0 s) :
    SameBut fp u0 (countFar s d o) := by
  unfold countFar
  repeat'
    first
    | with_reducible assumption | exact List.Subset.trans (by decide) hfp | with_reducible intro _
    | with_reducible apply sameBut_ite | with_reducible apply frame_onDom | dsimp only

theorem frame_countNear {fp : List Part} {u0 : State} (s : State) (d : Nat) (o : Int)
    (hfp : [.regs, .time] ⊆ fp) (h0 : SameBut fp u0 s) :
    SameBut fp u0 (countNear s d o) := by
  unfold countNear
  dsimp only
  repeat'
    first
    | with_reducible assumption | exact List.Subset.trans (by decide) hfp | with_reducible intro _
    | with_reducible apply sameBut_ite | with_reducible apply frame_onDom | with_reducible apply frame_setServo
    | dsimp only

theorem frame_acquireAgain {fp : List Part} {u0 : State} (s : State) (d : Nat)
    (hfp : [.regs, .time] ⊆ fp) (h0 : SameBut fp u0 s) :
    SameBut fp u0 (acquireAgain s d) := by
  unfold acquireAgain
  repeat'
    first
    | with_reducible assumption | exact List.Subset.trans (by decide) hfp | with_reducible apply sameBut_ite
    | with_reducible apply frame_setServo

theorem frame_servoStep {fp : List Part} {u0 : State} (s : State) (d : Nat) (o : Int)
    (hfp : [.regs, .chains, .time, .streams, .gaps] ⊆ fp) (h0 : SameBut fp u0 s) :
    SameBut fp u0 (servoStep s d o) := by
  unfold servoStep
  dsimp only
  repeat'
    first
    | with_reducible assumption | exact List.Subset.trans (by decide) hfp | with_reducible intro _
    | with_reducible apply frame_acquireAgain | with_reducible apply frame_stepHub
    | with_reducible apply frame_onTime | with_reducible apply frame_onDom
    | with_reducible apply frame_servoUpdate | dsimp only

theorem frame_syncEnters {fp : List Part} {u0 : State} (s : State) (d : Nat) (o : Int)
    (hfp : [.regs, .time] ⊆ fp) (h0 : SameBut fp u0 s) :
    SameBut fp u0 (syncEnters s d o) := by
  unfold syncEnters
  repeat'
    first
    | with_reducible assumption | exact List.Subset.trans (by decide) hfp | with_reducible apply sameBut_ite
    | with_reducible apply frame_setServo | split

theorem frame_trackedSync {fp : List Part} {u0 : State} (s : State) (d : Nat) (o : Int)
    (hfp : [.regs, .chains, .time, .streams, .gaps] ⊆ fp) (h0 : SameBut fp u0 s) :
    SameBut fp u0 (trackedSync s d o) := by
  unfold trackedSync
  dsimp only
  repeat'
    first
    | with_reducible assumption | exact List.Subset.trans (by decide) hfp | with_reducible intro _
    | with_reducible apply sameBut_ite | with_reducible apply frame_syncEnters
    | with_reducible apply frame_onDom | with_reducible apply frame_servoUpdate
    | with_reducible apply frame_countFar | with_reducible apply frame_servoStep
    | with_reducible apply frame_acquireAgain | with_reducible apply frame_slewF
    | with_reducible apply frame_onTime | with_reducible apply frame_countNear | with_reducible apply frame_evt
    | with_reducible apply frame_bumpSat | dsimp only

theorem frame_shadowSync {fp : List Part} {u0 : State} (s : State) (d : Nat) (o : Int)
    (hfp : [.regs, .time] ⊆ fp) (h0 : SameBut fp u0 s) :
    SameBut fp u0 (shadowSync s d o) := by
  unfold shadowSync
  repeat'
    first
    | with_reducible assumption | exact List.Subset.trans (by decide) hfp
    | with_reducible apply frame_countNear | with_reducible apply frame_syncEnters

theorem frame_showUtc {fp : List Part} {u0 : State} (s : State)
    (hfp : [.regs] ⊆ fp) (h0 : SameBut fp u0 s) :
    SameBut fp u0 (showUtc s) := by
  unfold showUtc
  repeat'
    first
    | with_reducible assumption | exact List.Subset.trans (by decide) hfp | with_reducible apply frame_wr
    | split

theorem frame_switchDomain {fp : List Part} {u0 : State} (s : State) (d : Nat) (o : Int)
    (hfp : [.regs, .time] ⊆ fp) (h0 : SameBut fp u0 s) :
    SameBut fp u0 (switchDomain s d o) := by
  unfold switchDomain
  dsimp only
  repeat'
    first
    | with_reducible assumption | exact List.Subset.trans (by decide) hfp | with_reducible intro _
    | with_reducible apply frame_onTime | with_reducible apply frame_onDom
    | with_reducible apply frame_servoUpdate | with_reducible apply frame_evt
    | with_reducible apply frame_showUtc | dsimp only

theorem frame_acceptSync {fp : List Part} {u0 : State} (s : State) (d : Nat) (seq : Seq16) (o : Int)
    (hfp : [.regs, .chains, .time, .streams, .gaps] ⊆ fp) (h0 : SameBut fp u0 s) :
    SameBut fp u0 (acceptSync s d seq o) := by
  unfold acceptSync
  dsimp only
  repeat'
    first
    | with_reducible assumption | exact List.Subset.trans (by decide) hfp | with_reducible intro _
    | with_reducible apply sameBut_ite | with_reducible apply frame_onDom | with_reducible apply frame_bumpWrap
    | with_reducible apply frame_wr | with_reducible apply frame_trackedSync
    | with_reducible apply frame_switchDomain | with_reducible apply frame_shadowSync | dsimp only

theorem frame_discardPtp {fp : List Part} {u0 : State} (s : State) (d : Nat)
    (hfp : [.regs] ⊆ fp) (h0 : SameBut fp u0 s) :
    SameBut fp u0 (discardPtp s d) := by
  unfold discardPtp
  repeat'
    first
    | with_reducible assumption | exact List.Subset.trans (by decide) hfp | with_reducible apply frame_bumpSat

theorem frame_takeSync {fp : List Part} {u0 : State} (s : State) (d : Nat) (m : SyncMsg)
    (hfp : [.regs, .chains, .time, .streams, .gaps] ⊆ fp) (h0 : SameBut fp u0 s) :
    SameBut fp u0 (takeSync s d m) := by
  unfold takeSync
  dsimp only
  repeat'
    first
    | with_reducible assumption | exact List.Subset.trans (by decide) hfp | with_reducible intro _
    | with_reducible apply sameBut_ite | with_reducible apply frame_onDom
    | with_reducible apply frame_acceptSync | with_reducible apply frame_bumpSat | dsimp only

theorem frame_syncMessage {fp : List Part} {u0 : State} (s : State) (m : SyncMsg)
    (hfp : [.regs, .chains, .time, .streams, .gaps] ⊆ fp) (h0 : SameBut fp u0 s) :
    SameBut fp u0 (syncMessage s m) := by
  unfold syncMessage
  repeat'
    first
    | with_reducible assumption | exact List.Subset.trans (by decide) hfp | with_reducible intro _
    | with_reducible apply sameBut_ite | with_reducible apply frame_discardPtp
    | with_reducible apply frame_onDom | with_reducible apply frame_takeSync | split | dsimp only

theorem frame_followUp {fp : List Part} {u0 : State} (s : State) (domain : Nat) (seq : Seq16) (origin corr : Int)
    (hfp : [.regs, .chains, .time, .streams, .gaps] ⊆ fp) (h0 : SameBut fp u0 s) :
    SameBut fp u0 (followUp s domain seq origin corr) := by
  unfold followUp
  repeat'
    first
    | with_reducible assumption | exact List.Subset.trans (by decide) hfp | with_reducible intro _
    | with_reducible apply sameBut_ite | with_reducible apply frame_discardPtp
    | with_reducible apply frame_takeSync | with_reducible apply frame_onDom | split | dsimp only

theorem frame_execFollowUp (domain : Nat) (seq : Seq16) (origin corr : Int) (s : State) :
    ∃ s', execFollowUp domain seq origin corr s = .next s' ∧ SameBut [.regs, .chains, .time, .streams, .gaps] s s' :=
        by
  refine ⟨_, rfl, ?_⟩
  repeat'
    first
    | with_reducible assumption | with_reducible exact SameBut.refl _ _ | decide
    | with_reducible apply frame_followUp

theorem frame_ptpPair {fp : List Part} {u0 : State} (s : State) (b0 b1 : FrameBody)
    (hfp : [.regs, .ring, .sent] ⊆ fp) (h0 : SameBut fp u0 s) :
    SameBut fp u0 (ptpPair s b0 b1) := by
  unfold ptpPair
  repeat'
    first
    | with_reducible assumption | exact List.Subset.trans (by decide) hfp | with_reducible apply sameBut_ite
    | with_reducible apply frame_insertBoth | with_reducible apply frame_sendBeacon

theorem frame_ptpRing {fp : List Part} {u0 : State} (s : State) (b : FrameBody)
    (hfp : [.regs, .ring, .sent] ⊆ fp) (h0 : SameBut fp u0 s) :
    SameBut fp u0 (ptpRing s b) := by
  unfold ptpRing
  repeat'
    first
    | with_reducible assumption | exact List.Subset.trans (by decide) hfp | with_reducible apply frame_ptpPair

theorem frame_delayReq {fp : List Part} {u0 : State} (s : State) (domain : Nat) (dir : ReqDir)
    (hfp : [.regs, .time, .sent] ⊆ fp) (h0 : SameBut fp u0 s) :
    SameBut fp u0 (delayReq s domain dir) := by
  unfold delayReq
  dsimp only
  repeat'
    first
    | with_reducible assumption | exact List.Subset.trans (by decide) hfp | with_reducible intro _
    | with_reducible apply sameBut_ite | with_reducible apply frame_discardPtp
    | with_reducible apply frame_onDom | with_reducible apply frame_emitOwn
    | with_reducible apply frame_delayResp | split | dsimp only

theorem frame_execDelayReq (domain : Nat) (d : ReqDir) (s : State) :
    ∃ s', execDelayReq domain d s = .next s' ∧ SameBut [.regs, .time, .sent] s s' := by
  refine ⟨_, rfl, ?_⟩
  repeat'
    first
    | with_reducible assumption | with_reducible exact SameBut.refl _ _ | decide
    | with_reducible apply frame_delayReq

theorem frame_setDelay {fp : List Part} {u0 : State} (s : State) (l : Lane) (m : Int)
    (hfp : [.regs, .time] ⊆ fp) (h0 : SameBut fp u0 s) :
    SameBut fp u0 (setDelay s l m) := by
  unfold setDelay
  repeat'
    first
    | with_reducible assumption | exact List.Subset.trans (by decide) hfp | with_reducible intro _
    | with_reducible apply frame_wr | with_reducible apply frame_onPort | dsimp only

theorem frame_delayResp {fp : List Part} {u0 : State} (s : State) (domain : Nat) (seq : Seq16) (rx corr : Int)
    (hfp : [.regs, .time] ⊆ fp) (h0 : SameBut fp u0 s) :
    SameBut fp u0 (delayResp s domain seq rx corr) := by
  unfold delayResp
  dsimp only
  repeat'
    first
    | with_reducible assumption | exact List.Subset.trans (by decide) hfp | with_reducible intro _
    | with_reducible apply sameBut_ite | with_reducible apply frame_discardPtp
    | with_reducible apply frame_setDelay | with_reducible apply frame_onDom | split | dsimp only

theorem frame_execDelayResp (domain : Nat) (seq : Seq16) (rx : Int) (s : State) (corr : Int) :
    ∃ s', execDelayResp domain seq rx s corr = .next s' ∧ SameBut [.regs, .time] s s' := by
  refine ⟨_, rfl, ?_⟩
  repeat'
    first
    | with_reducible assumption | with_reducible exact SameBut.refl _ _ | decide
    | with_reducible apply frame_delayResp

theorem frame_pdelayReq {fp : List Part} {u0 : State} (s : State) (l : Lane) (dir : ReqDir)
    (hfp : [.regs, .time, .sent] ⊆ fp) (h0 : SameBut fp u0 s) :
    SameBut fp u0 (pdelayReq s l dir) := by
  unfold pdelayReq
  dsimp only
  repeat'
    first
    | with_reducible assumption | exact List.Subset.trans (by decide) hfp | with_reducible intro _
    | with_reducible apply sameBut_ite | with_reducible apply frame_emitOwn | with_reducible apply frame_onPort
    | with_reducible apply frame_pdelayResp | split | dsimp only

theorem frame_execPdelayReq (port : Lane) (d : ReqDir) (s : State) :
    ∃ s', execPdelayReq port d s = .next s' ∧ SameBut [.regs, .time, .sent] s s' := by
  refine ⟨_, rfl, ?_⟩
  repeat'
    first
    | with_reducible assumption | with_reducible exact SameBut.refl _ _ | decide
    | with_reducible apply frame_pdelayReq

theorem frame_pdelayMeasured {fp : List Part} {u0 : State} (s : State) (l : Lane) (round : Int)
    (hfp : [.regs, .time] ⊆ fp) (h0 : SameBut fp u0 s) :
    SameBut fp u0 (pdelayMeasured s l round) := by
  unfold pdelayMeasured
  dsimp only
  repeat'
    first
    | with_reducible assumption | exact List.Subset.trans (by decide) hfp | with_reducible intro _
    | with_reducible apply sameBut_foldl | with_reducible apply frame_onPort
    | with_reducible apply frame_setDelay | dsimp only

theorem frame_pdelayResp {fp : List Part} {u0 : State} (s : State) (l : Lane) (seq : Seq16) (corr rx : Int) (twoStep
    : Bool)
    (hfp : [.regs, .time] ⊆ fp) (h0 : SameBut fp u0 s) :
    SameBut fp u0 (pdelayResp s l seq corr rx twoStep) := by
  unfold pdelayResp
  dsimp only
  repeat'
    first
    | with_reducible assumption | exact List.Subset.trans (by decide) hfp | with_reducible intro _
    | with_reducible apply sameBut_ite | with_reducible apply frame_onPort
    | with_reducible apply frame_pdelayMeasured | split | dsimp only

theorem frame_execPdelayResp (port : Lane) (seq : Seq16) (corr rx : Int) (twoStep : Bool) (s : State) :
    ∃ s', execPdelayResp port seq corr rx twoStep s = .next s' ∧ SameBut [.regs, .time] s s' := by
  refine ⟨_, rfl, ?_⟩
  repeat'
    first
    | with_reducible assumption | with_reducible exact SameBut.refl _ _ | decide
    | with_reducible apply frame_pdelayResp

theorem frame_execPdelayRespFollowUp (port : Lane) (seq : Seq16) (corr : Int) (s : State) :
    ∃ s', execPdelayRespFollowUp port seq corr s = .next s' ∧ SameBut [.regs, .time] s s' := by
  refine ⟨_, rfl, ?_⟩
  repeat'
    first
    | with_reducible assumption | with_reducible exact SameBut.refl _ _ | decide | with_reducible intro _
    | with_reducible apply frame_when | with_reducible apply frame_pdelayMeasured | split | dsimp only

theorem frame_noteHoldTemp {fp : List Part} {u0 : State} (s : State)
    (hfp : [.time] ⊆ fp) (h0 : SameBut fp u0 s) :
    SameBut fp u0 (noteHoldTemp s) := by
  unfold noteHoldTemp
  repeat'
    first
    | with_reducible assumption | exact List.Subset.trans (by decide) hfp | with_reducible intro _
    | with_reducible apply frame_onTime | split | dsimp only

theorem frame_freezeServo {fp : List Part} {u0 : State} (s : State)
    (hfp : [.time] ⊆ fp) (h0 : SameBut fp u0 s) :
    SameBut fp u0 (freezeServo s) := by
  unfold freezeServo
  dsimp only
  repeat'
    first
    | with_reducible assumption | exact List.Subset.trans (by decide) hfp | with_reducible intro _
    | with_reducible apply frame_onTime | dsimp only

theorem frame_servoLost {fp : List Part} {u0 : State} (s : State)
    (hfp : [.regs, .time] ⊆ fp) (h0 : SameBut fp u0 s) :
    SameBut fp u0 (servoLost s) := by
  unfold servoLost
  dsimp only
  repeat'
    first
    | with_reducible assumption | exact List.Subset.trans (by decide) hfp | with_reducible apply sameBut_ite
    | with_reducible apply frame_setServo | with_reducible apply frame_freezeServo | split | dsimp only

theorem frame_nameDomain {fp : List Part} {u0 : State} (s : State) (b : Bool)
    (hfp : [.regs] ⊆ fp) (h0 : SameBut fp u0 s) :
    SameBut fp u0 (nameDomain s b) := by
  unfold nameDomain
  repeat'
    first
    | with_reducible assumption | exact List.Subset.trans (by decide) hfp | with_reducible apply frame_wr

theorem frame_markLost {fp : List Part} {u0 : State} (s : State) (d : Nat)
    (hfp : [.regs, .time] ⊆ fp) (h0 : SameBut fp u0 s) :
    SameBut fp u0 (markLost s d) := by
  unfold markLost
  repeat'
    first
    | with_reducible assumption | exact List.Subset.trans (by decide) hfp | with_reducible intro _
    | with_reducible apply frame_evt | with_reducible apply frame_onDom | dsimp only

theorem frame_domainLost {fp : List Part} {u0 : State} (s : State)
    (hfp : [.regs, .time] ⊆ fp) (h0 : SameBut fp u0 s) :
    SameBut fp u0 (domainLost s) := by
  unfold domainLost
  dsimp only
  repeat'
    first
    | with_reducible assumption | exact List.Subset.trans (by decide) hfp | with_reducible intro _
    | with_reducible apply sameBut_ite | with_reducible apply frame_markLost
    | with_reducible apply frame_onTime | with_reducible apply frame_nameDomain
    | with_reducible apply frame_servoLost | dsimp only

theorem frame_shadowLost {fp : List Part} {u0 : State} (s : State)
    (hfp : [.regs, .time] ⊆ fp) (h0 : SameBut fp u0 s) :
    SameBut fp u0 (shadowLost s) := by
  unfold shadowLost
  dsimp only
  repeat'
    first
    | with_reducible assumption | exact List.Subset.trans (by decide) hfp | with_reducible intro _
    | with_reducible apply sameBut_ite | with_reducible apply frame_setServo
    | with_reducible apply frame_markLost | with_reducible apply frame_onTime
    | with_reducible apply frame_nameDomain | with_reducible apply frame_servoLost | split | dsimp only

theorem frame_portsLost {fp : List Part} {u0 : State} (s : State)
    (hfp : [.regs, .time] ⊆ fp) (h0 : SameBut fp u0 s) :
    SameBut fp u0 (portsLost s) := by
  unfold portsLost
  repeat'
    first
    | with_reducible assumption | exact List.Subset.trans (by decide) hfp
    | with_reducible apply frame_domainLost | with_reducible apply frame_shadowLost

theorem frame_execDomainLost (s : State) :
    ∃ s', execDomainLost s = .next s' ∧ SameBut [.regs, .time] s s' := by
  refine ⟨_, rfl, ?_⟩
  repeat'
    first
    | with_reducible assumption | with_reducible exact SameBut.refl _ _ | decide
    | with_reducible apply frame_domainLost | with_reducible apply frame_bumpSat

theorem frame_execHoldLimit (s : State) :
    ∃ s', execHoldLimit s = .next s' ∧ SameBut [.regs, .time] s s' := by
  refine ⟨_, rfl, ?_⟩
  repeat'
    first
    | with_reducible assumption | with_reducible exact SameBut.refl _ _ | decide | with_reducible intro _
    | with_reducible apply sameBut_ite | with_reducible apply frame_when | with_reducible apply frame_setServo
    | dsimp only

theorem frame_setL3 {fp : List Part} {u0 : State} (s : State) (d v : Nat)
    (hfp : [.regs, .time] ⊆ fp) (h0 : SameBut fp u0 s) :
    SameBut fp u0 (setL3 s d v) := by
  unfold setL3
  dsimp only
  repeat'
    first
    | with_reducible assumption | exact List.Subset.trans (by decide) hfp | with_reducible intro _
    | with_reducible apply sameBut_ite | with_reducible apply frame_evtIf | with_reducible apply frame_onDom
    | with_reducible apply frame_setServo | dsimp only

theorem frame_setMaster {fp : List Part} {u0 : State} (s : State) (d : Nat) (m : AnnounceMsg)
    (hfp : [.regs, .time] ⊆ fp) (h0 : SameBut fp u0 s) :
    SameBut fp u0 (setMaster s d m) := by
  unfold setMaster
  dsimp only
  repeat'
    first
    | with_reducible assumption | exact List.Subset.trans (by decide) hfp | with_reducible intro _
    | with_reducible apply sameBut_ite | with_reducible apply frame_evtIf | with_reducible apply frame_onDom
    | with_reducible apply frame_showUtc | dsimp only

theorem frame_noteForeign {fp : List Part} {u0 : State} (s : State) (d : Nat) (m : AnnounceMsg)
    (hfp : [.time] ⊆ fp) (h0 : SameBut fp u0 s) :
    SameBut fp u0 (noteForeign s d m) := by
  unfold noteForeign
  dsimp only
  repeat'
    first
    | with_reducible assumption | exact List.Subset.trans (by decide) hfp | with_reducible intro _
    | with_reducible apply frame_onDom | dsimp only

theorem frame_decideL3 {fp : List Part} {u0 : State} (s : State) (d : Nat)
    (hfp : [.regs, .time] ⊆ fp) (h0 : SameBut fp u0 s) :
    SameBut fp u0 (decideL3 s d) := by
  unfold decideL3
  repeat'
    first
    | with_reducible assumption | exact List.Subset.trans (by decide) hfp | with_reducible apply frame_setL3
    | with_reducible apply frame_setMaster | split

theorem frame_announceHeard {fp : List Part} {u0 : State} (s : State) (m : AnnounceMsg)
    (hfp : [.regs, .time] ⊆ fp) (h0 : SameBut fp u0 s) :
    SameBut fp u0 (announceHeard s m) := by
  unfold announceHeard
  repeat'
    first
    | with_reducible assumption | exact List.Subset.trans (by decide) hfp | with_reducible apply sameBut_ite
    | with_reducible apply frame_discardPtp | with_reducible apply frame_decideL3
    | with_reducible apply frame_noteForeign | with_reducible apply frame_setMaster | split

theorem frame_execAnnounce (m : AnnounceMsg) (s : State) :
    ∃ s', execAnnounce m s = .next s' ∧ SameBut [.regs, .time] s s' := by
  refine ⟨_, rfl, ?_⟩
  repeat'
    first
    | with_reducible assumption | with_reducible exact SameBut.refl _ _ | decide
    | with_reducible apply frame_announceHeard

theorem frame_announceTimeout {fp : List Part} {u0 : State} (s : State) (d : Nat)
    (hfp : [.regs, .time] ⊆ fp) (h0 : SameBut fp u0 s) :
    SameBut fp u0 (announceTimeout s d) := by
  unfold announceTimeout
  dsimp only
  repeat'
    first
    | with_reducible assumption | exact List.Subset.trans (by decide) hfp | with_reducible intro _
    | with_reducible apply sameBut_ite | with_reducible apply frame_onDom | with_reducible apply frame_decideL3
    | with_reducible apply frame_setL3 | with_reducible apply frame_domainLost
    | with_reducible apply frame_setServo | with_reducible apply frame_shadowLost | split | dsimp only

theorem frame_execAnnounceTimeout (domain : Bool) (s : State) :
    ∃ s', execAnnounceTimeout domain s = .next s' ∧ SameBut [.regs, .time] s s' := by
  refine ⟨_, rfl, ?_⟩
  repeat'
    first
    | with_reducible assumption | with_reducible exact SameBut.refl _ _ | decide
    | with_reducible apply frame_announceTimeout

theorem frame_execRootSyncSend (domain : Bool) (s : State) :
    ∃ s', execRootSyncSend domain s = .next s' ∧ SameBut [.regs, .time, .ring, .sent] s s' := by
  refine ⟨_, rfl, ?_⟩
  repeat'
    first
    | with_reducible assumption | with_reducible exact SameBut.refl _ _ | decide | with_reducible intro _
    | with_reducible apply sameBut_ite | with_reducible apply frame_when | with_reducible apply frame_ptpPair
    | with_reducible apply frame_onDom | with_reducible apply frame_emitOwn | dsimp only

theorem frame_execRootAnnounceSend (domain : Bool) (s : State) :
    ∃ s', execRootAnnounceSend domain s = .next s' ∧ SameBut [.regs, .time, .ring, .sent] s s' := by
  refine ⟨_, rfl, ?_⟩
  repeat'
    first
    | with_reducible assumption | with_reducible exact SameBut.refl _ _ | decide | with_reducible intro _
    | with_reducible apply sameBut_ite | with_reducible apply frame_when | with_reducible apply frame_onDom
    | with_reducible apply frame_ptpRing | with_reducible apply frame_emitOwn | dsimp only

theorem frame_timeCfgWrite {fp : List Part} {u0 : State} (s : State) (w : Who) (v : Word)
    (hfp : [.regs, .pages, .host, .time] ⊆ fp) (h0 : SameBut fp u0 s) :
    SameBut fp u0 (timeCfgWrite s w v) := by
  unfold timeCfgWrite
  dsimp only
  repeat'
    first
    | with_reducible assumption | exact List.Subset.trans (by decide) hfp | with_reducible intro _
    | with_reducible apply sameBut_ite | with_reducible apply frame_checked | with_reducible apply frame_wr
    | with_reducible apply frame_onTime | dsimp only

theorem frame_execDomSel (p : Path) (v : Word) (s : State) :
    ∃ s', execDomSel p v s = .next s' ∧ SameBut [.regs, .pages, .host, .time] s s' := by
  refine ⟨_, rfl, ?_⟩
  repeat'
    first
    | with_reducible assumption | with_reducible exact SameBut.refl _ _ | decide | with_reducible intro _
    | with_reducible apply frame_gated | with_reducible apply frame_timeCfgWrite | dsimp only

theorem frame_timeCommitted {fp : List Part} {u0 : State} (s0 s : State)
    (hfp : [.chains] ⊆ fp) (h0 : SameBut fp u0 s) :
    SameBut fp u0 (timeCommitted s0 s) := by
  unfold timeCommitted
  dsimp only
  repeat'
    first
    | with_reducible assumption | exact List.Subset.trans (by decide) hfp | with_reducible intro _
    | with_reducible apply sameBut_ite | with_reducible apply frame_restartChains
    | with_reducible apply SameBut.set_chains | dsimp only

theorem frame_execCoarseRefresh (s : State) :
    ∃ s', execCoarseRefresh s = .next s' ∧ SameBut [.pwr] s s' := by
  refine ⟨_, rfl, ?_⟩
  repeat'
    first
    | with_reducible assumption | with_reducible exact SameBut.refl _ _ | decide | with_reducible intro _
    | with_reducible apply frame_when | with_reducible apply SameBut.set_pwr | dsimp only

theorem frame_gridStartHeard {fp : List Part} {u0 : State} (s : State) (m : GridMsg)
    (hfp : [.regs, .time] ⊆ fp) (h0 : SameBut fp u0 s) :
    SameBut fp u0 (gridStartHeard s m) := by
  unfold gridStartHeard
  dsimp only
  repeat'
    first
    | with_reducible assumption | exact List.Subset.trans (by decide) hfp | with_reducible intro _
    | with_reducible apply sameBut_ite | with_reducible apply frame_evt | with_reducible apply frame_onTime
    | dsimp only

theorem frame_execGridStart (m : GridMsg) (s : State) :
    ∃ s', execGridStart m s = .next s' ∧ SameBut [.regs, .time] s s' := by
  refine ⟨_, rfl, ?_⟩
  repeat'
    first
    | with_reducible assumption | with_reducible exact SameBut.refl _ _ | decide
    | with_reducible apply frame_gridStartHeard

theorem frame_execGridStartSend (s : State) :
    ∃ s', execGridStartSend s = .next s' ∧ SameBut [.regs, .time, .ring, .sent] s s' := by
  refine ⟨_, rfl, ?_⟩
  repeat'
    first
    | with_reducible assumption | with_reducible exact SameBut.refl _ _ | decide | with_reducible intro _
    | with_reducible apply frame_when | with_reducible apply frame_gridStartHeard
    | with_reducible apply frame_sendRing | dsimp only

theorem frame_gridStartIndex {fp : List Part} {u0 : State} (s : State)
    (hfp : [.regs, .pwr, .chains, .time, .streams, .gaps] ⊆ fp) (h0 : SameBut fp u0 s) :
    SameBut fp u0 (gridStartIndex s) := by
  unfold gridStartIndex
  dsimp only
  repeat'
    first
    | with_reducible assumption | exact List.Subset.trans (by decide) hfp | with_reducible intro _
    | with_reducible apply sameBut_ite | with_reducible apply frame_when | with_reducible apply frame_onTime
    | with_reducible apply frame_evt | with_reducible apply frame_wr64 | with_reducible apply frame_noteGap
    | with_reducible apply frame_notSampledAll | with_reducible apply frame_restartChains | split
    | with_reducible apply SameBut.set_pwr | dsimp only

end Sys2Proof.Machine
end

