-- ==== Sys2Proof/Laws/FrameCalib.lean ====
section
/-!
SUPPORT. What every operation of Machine/Calib.lean leaves alone (SameBut): one lemma for each operation that answers a state.
-/
set_option linter.all false

namespace Sys2Proof.Machine

theorem frame_setCalStat {fp : List Part} {u0 : State} (s : State) (i : Nat) (v : Bool)
    (hfp : [.regs] ⊆ fp) (h0 : SameBut fp u0 s) :
    SameBut fp u0 (setCalStat s i v) := by
  unfold setCalStat
  repeat'
    first
    | with_reducible assumption | exact List.Subset.trans (by decide) hfp | with_reducible apply frame_wr

theorem frame_calStart {fp : List Part} {u0 : State} (s : State)
    (hfp : [.regs] ⊆ fp) (h0 : SameBut fp u0 s) :
    SameBut fp u0 (calStart s) := by
  unfold calStart
  dsimp only
  repeat'
    first
    | with_reducible assumption | exact List.Subset.trans (by decide) hfp
    | with_reducible apply frame_setCalStat | with_reducible apply frame_wr64 | with_reducible apply frame_wr
    | dsimp only

theorem frame_calTrigger {fp : List Part} {u0 : State} (s : State)
    (hfp : [.regs] ⊆ fp) (h0 : SameBut fp u0 s) :
    SameBut fp u0 (calTrigger s) := by
  unfold calTrigger
  repeat'
    first
    | with_reducible assumption | exact List.Subset.trans (by decide) hfp | with_reducible apply sameBut_ite
    | with_reducible apply frame_setCalStat | with_reducible apply frame_calStart

theorem frame_calCtrl {fp : List Part} {u0 : State} (s : State) (w : Who) (v : Word)
    (hfp : [.regs, .pages, .host] ⊆ fp) (h0 : SameBut fp u0 s) :
    SameBut fp u0 (calCtrl s w v) := by
  unfold calCtrl
  repeat'
    first
    | with_reducible assumption | exact List.Subset.trans (by decide) hfp | with_reducible apply sameBut_ite
    | with_reducible apply frame_calTrigger | with_reducible apply frame_refuse

theorem frame_execRecalibrate (p : Path) (s : State) :
    ∃ s', execRecalibrate p s = .next s' ∧ SameBut [.regs, .pages, .host] s s' := by
  refine ⟨_, rfl, ?_⟩
  repeat'
    first
    | with_reducible assumption | with_reducible exact SameBut.refl _ _ | decide | with_reducible intro _
    | with_reducible apply frame_gated | with_reducible apply frame_calTrigger

theorem frame_execCalPeriod (s : State) :
    ∃ s', execCalPeriod s = .next s' ∧ SameBut [.regs] s s' := by
  refine ⟨_, rfl, ?_⟩
  repeat'
    first
    | with_reducible assumption | with_reducible exact SameBut.refl _ _ | decide | with_reducible intro _
    | with_reducible apply frame_when | with_reducible apply frame_calTrigger

theorem frame_calMeasure {fp : List Part} {u0 : State} (s : State) (quads : Nat → Bool) (smooth : Bool)
    (hfp : [.inCoefs, .freeCtr] ⊆ fp) (h0 : SameBut fp u0 s) :
    SameBut fp u0 (calMeasure s quads smooth) := by
  unfold calMeasure
  dsimp only
  repeat'
    first
    | with_reducible assumption | exact List.Subset.trans (by decide) hfp | with_reducible intro _
    | with_reducible apply sameBut_foldl | with_reducible apply SameBut.set_inCoefs_freeCtr | dsimp only

theorem frame_calUnits {fp : List Part} {u0 : State} (s : State) (which : Nat → Bool)
    (hfp : [.cal, .freeCtr] ⊆ fp) (h0 : SameBut fp u0 s) :
    SameBut fp u0 (calUnits s which) := by
  unfold calUnits
  dsimp only
  repeat'
    first
    | with_reducible assumption | exact List.Subset.trans (by decide) hfp | with_reducible intro _
    | with_reducible apply sameBut_foldl | with_reducible apply SameBut.set_cal_freeCtr | dsimp only

theorem frame_recalibrationDone {fp : List Part} {u0 : State} (s : State) (quads : BitVec 32)
    (hfp : [.regs, .inCoefs, .cal, .freeCtr] ⊆ fp) (h0 : SameBut fp u0 s) :
    SameBut fp u0 (recalibrationDone s quads) := by
  unfold recalibrationDone
  dsimp only
  repeat'
    first
    | with_reducible assumption | exact List.Subset.trans (by decide) hfp | with_reducible intro _
    | with_reducible apply sameBut_ite | with_reducible apply frame_calUnits
    | with_reducible apply frame_calMeasure | with_reducible apply frame_wr
    | with_reducible apply frame_setCalStat | with_reducible apply frame_evt
    | with_reducible apply frame_bumpSat | with_reducible apply frame_clearBlock
    | with_reducible apply frame_faultSrc | with_reducible apply frame_calStart | dsimp only

theorem frame_execRecalibrationDone (quads : BitVec 32) (s : State) :
    ∃ s', execRecalibrationDone quads s = .next s' ∧ SameBut [.regs, .inCoefs, .cal, .freeCtr] s s' := by
  refine ⟨_, rfl, ?_⟩
  repeat'
    first
    | with_reducible assumption | with_reducible exact SameBut.refl _ _ | decide | with_reducible intro _
    | with_reducible apply frame_when | with_reducible apply frame_recalibrationDone | dsimp only

theorem frame_bandGap {fp : List Part} {u0 : State} (s : State) (agree : Bool)
    (hfp : [.regs, .cal] ⊆ fp) (h0 : SameBut fp u0 s) :
    SameBut fp u0 (bandGap s agree) := by
  unfold bandGap
  dsimp only
  repeat'
    first
    | with_reducible assumption | exact List.Subset.trans (by decide) hfp | with_reducible apply sameBut_ite
    | with_reducible apply frame_clearBlock | with_reducible apply frame_setCalStat
    | with_reducible apply frame_faultSrc | with_reducible apply frame_evt
    | with_reducible apply SameBut.set_cal | dsimp only

theorem frame_hkcSupervision {fp : List Part} {u0 : State} (s : State) (ch : HkcSuper) (value : BitVec 16) (agree :
    Bool)
    (hfp : [.regs, .hkc, .time, .cal] ⊆ fp) (h0 : SameBut fp u0 s) :
    SameBut fp u0 (hkcSupervision s ch value agree) := by
  unfold hkcSupervision
  dsimp only
  repeat'
    first
    | with_reducible assumption | exact List.Subset.trans (by decide) hfp | with_reducible intro _
    | with_reducible apply sameBut_ite | with_reducible apply frame_wr
    | with_reducible apply frame_noteHoldTemp | with_reducible apply frame_calTrigger
    | with_reducible apply frame_evtIf | with_reducible apply frame_bandGap | split
    | with_reducible apply SameBut.set_hkc | dsimp only

theorem frame_execHkcSupervision (ch : HkcSuper) (value : BitVec 16) (agree : Bool) (s : State) :
    ∃ s', execHkcSupervision ch value agree s = .next s' ∧ SameBut [.regs, .hkc, .time, .cal] s s' := by
  refine ⟨_, rfl, ?_⟩
  repeat'
    first
    | with_reducible assumption | with_reducible exact SameBut.refl _ _ | decide | with_reducible intro _
    | with_reducible apply frame_when | with_reducible apply frame_hkcSupervision
    | with_reducible apply SameBut.set_hkc | dsimp only

end Sys2Proof.Machine
end

