-- ==== Sys2Proof/Laws/FrameEngine.lean ====
section
/-!
SUPPORT. What every operation of Machine/Engine.lean leaves alone (SameBut): one lemma for each operation that answers a state.
-/
set_option linter.all false

namespace Sys2Proof.Machine

theorem frame_engFault {fp : List Part} {u0 : State} (s : State) (k cause pc addr : Nat)
    (hfp : [.regs, .gc, .gen, .slots, .engines] ⊆ fp) (h0 : SameBut fp u0 s) :
    SameBut fp u0 (engFault s k cause pc addr) := by
  unfold engFault
  dsimp only
  repeat'
    first
    | with_reducible assumption | exact List.Subset.trans (by decide) hfp | with_reducible intro _
    | with_reducible apply sameBut_ite | with_reducible apply frame_onEng | with_reducible apply frame_wr
    | with_reducible apply frame_engineSlots | with_reducible apply frame_faultSrc
    | with_reducible apply frame_evt | dsimp only

theorem frame_portWrite {fp : List Part} {u0 : State} (s : State) (k : Nat) (p : Nat × Word)
    (hfp : [.bands, .engines] ⊆ fp) (h0 : SameBut fp u0 s) :
    SameBut fp u0 (portWrite s k p) := by
  unfold portWrite
  dsimp only
  repeat'
    first
    | with_reducible assumption | exact List.Subset.trans (by decide) hfp | with_reducible intro _
    | with_reducible apply sameBut_ite | with_reducible apply frame_onEng | with_reducible apply frame_onBand
    | dsimp only

theorem frame_edgeLeaves {fp : List Part} {u0 : State} (s : State) (k leave : Nat)
    (hfp : [.regs, .gc, .gen, .slots, .engines] ⊆ fp) (h0 : SameBut fp u0 s) :
    SameBut fp u0 (edgeLeaves s k leave) := by
  unfold edgeLeaves
  dsimp only
  repeat'
    first
    | with_reducible assumption | exact List.Subset.trans (by decide) hfp | with_reducible intro _
    | with_reducible apply sameBut_ite | with_reducible apply frame_onEng | with_reducible apply frame_evt
    | with_reducible apply frame_bumpSat | with_reducible apply frame_engFault | split | dsimp only

theorem frame_issue {fp : List Part} {u0 : State} (s : State) (k : Nat) (legal : Bool) (reads : List Res) (writes :
    List (Res × Nat)) (busy : Nat) (f : EngCtx → Nat → Issue)
    (hfp : [.regs, .gc, .gen, .bands, .slots, .engines] ⊆ fp) (h0 : SameBut fp u0 s) :
    SameBut fp u0 (issue s k legal reads writes busy f) := by
  unfold issue
  dsimp only
  repeat'
    first
    | with_reducible assumption | exact List.Subset.trans (by decide) hfp | with_reducible intro _
    | with_reducible apply sameBut_ite | with_reducible apply sameBut_foldl
    | with_reducible apply frame_engFault | with_reducible apply frame_onEng
    | with_reducible apply frame_portWrite | with_reducible apply frame_edgeLeaves
    | with_reducible apply frame_evtIf | split | dsimp only

theorem frame_aluOp {fp : List Part} {u0 : State} (s : State) (k : Nat) (d a b : Nat) (lat : Nat) (f : Word → Word →
    Word)
    (hfp : [.regs, .gc, .gen, .bands, .slots, .engines] ⊆ fp) (h0 : SameBut fp u0 s) :
    SameBut fp u0 (aluOp s k d a b lat f) := by
  unfold aluOp
  repeat'
    first
    | with_reducible assumption | exact List.Subset.trans (by decide) hfp | with_reducible intro _
    | with_reducible apply frame_issue | dsimp only

theorem frame_immOp {fp : List Part} {u0 : State} (s : State) (k : Nat) (d a : Nat) (f : Word → Word)
    (hfp : [.regs, .gc, .gen, .bands, .slots, .engines] ⊆ fp) (h0 : SameBut fp u0 s) :
    SameBut fp u0 (immOp s k d a f) := by
  unfold immOp
  repeat'
    first
    | with_reducible assumption | exact List.Subset.trans (by decide) hfp | with_reducible intro _
    | with_reducible apply frame_issue | dsimp only

theorem frame_vload {fp : List Part} {u0 : State} (s : State) (k : Nat) (m : MemOp) (lane : Word → Frac) (after :
    EngCtx → Nat → Word → EngCtx) (ws : List (Res × Nat))
    (hfp : [.regs, .gc, .gen, .bands, .slots, .engines] ⊆ fp) (h0 : SameBut fp u0 s) :
    SameBut fp u0 (vload s k m lane after ws) := by
  unfold vload
  dsimp only
  repeat'
    first
    | with_reducible assumption | exact List.Subset.trans (by decide) hfp | with_reducible intro _
    | with_reducible apply sameBut_foldl | with_reducible apply frame_issue | dsimp only

theorem frame_vecOp {fp : List Part} {u0 : State} (s : State) (k d lat : Nat) (reads : List Res) (f : EngCtx → List
    Frac)
    (hfp : [.regs, .gc, .gen, .bands, .slots, .engines] ⊆ fp) (h0 : SameBut fp u0 s) :
    SameBut fp u0 (vecOp s k d lat reads f) := by
  unfold vecOp
  repeat'
    first
    | with_reducible assumption | exact List.Subset.trans (by decide) hfp | with_reducible intro _
    | with_reducible apply frame_issue | dsimp only

theorem frame_vec1 {fp : List Part} {u0 : State} (s : State) (k d a lat : Nat) (f : Frac → Frac)
    (hfp : [.regs, .gc, .gen, .bands, .slots, .engines] ⊆ fp) (h0 : SameBut fp u0 s) :
    SameBut fp u0 (vec1 s k d a lat f) := by
  unfold vec1
  repeat'
    first
    | with_reducible assumption | exact List.Subset.trans (by decide) hfp | with_reducible intro _
    | with_reducible apply frame_vecOp | dsimp only

theorem frame_vec2 {fp : List Part} {u0 : State} (s : State) (k d a b lat : Nat) (f : Frac → Frac → Frac)
    (hfp : [.regs, .gc, .gen, .bands, .slots, .engines] ⊆ fp) (h0 : SameBut fp u0 s) :
    SameBut fp u0 (vec2 s k d a b lat f) := by
  unfold vec2
  repeat'
    first
    | with_reducible assumption | exact List.Subset.trans (by decide) hfp | with_reducible intro _
    | with_reducible apply frame_vecOp | dsimp only

theorem frame_execNopInstruction (k : Fin 12) (s : State) :
    ∃ s', execNopInstruction k s = .next s' ∧ SameBut [.regs, .gc, .gen, .bands, .slots, .engines] s s' := by
  refine ⟨_, rfl, ?_⟩
  repeat'
    first
    | with_reducible assumption | with_reducible exact SameBut.refl _ _ | decide | with_reducible intro _
    | with_reducible apply frame_issue | dsimp only

theorem frame_execSli (k : Fin 12) (d : Fin 16) (imm : BitVec 16) (s : State) :
    ∃ s', execSli k d imm s = .next s' ∧ SameBut [.regs, .gc, .gen, .bands, .slots, .engines] s s' := by
  refine ⟨_, rfl, ?_⟩
  repeat'
    first
    | with_reducible assumption | with_reducible exact SameBut.refl _ _ | decide | with_reducible intro _
    | with_reducible apply frame_issue | dsimp only

theorem frame_execSlih (k : Fin 12) (d : Fin 16) (imm : BitVec 16) (s : State) :
    ∃ s', execSlih k d imm s = .next s' ∧ SameBut [.regs, .gc, .gen, .bands, .slots, .engines] s s' := by
  refine ⟨_, rfl, ?_⟩
  repeat'
    first
    | with_reducible assumption | with_reducible exact SameBut.refl _ _ | decide | with_reducible intro _
    | with_reducible apply frame_issue | dsimp only

theorem frame_execSadd (k : Fin 12) (d a b : Fin 16) (s : State) :
    ∃ s', execSadd k d a b s = .next s' ∧ SameBut [.regs, .gc, .gen, .bands, .slots, .engines] s s' := by
  refine ⟨_, rfl, ?_⟩
  repeat'
    first
    | with_reducible assumption | with_reducible exact SameBut.refl _ _ | decide
    | with_reducible apply frame_aluOp

theorem frame_execSaddi (k : Fin 12) (d a : Fin 16) (imm : BitVec 18) (s : State) :
    ∃ s', execSaddi k d a imm s = .next s' ∧ SameBut [.regs, .gc, .gen, .bands, .slots, .engines] s s' := by
  refine ⟨_, rfl, ?_⟩
  repeat'
    first
    | with_reducible assumption | with_reducible exact SameBut.refl _ _ | decide
    | with_reducible apply frame_immOp

theorem frame_execSsub (k : Fin 12) (d a b : Fin 16) (s : State) :
    ∃ s', execSsub k d a b s = .next s' ∧ SameBut [.regs, .gc, .gen, .bands, .slots, .engines] s s' := by
  refine ⟨_, rfl, ?_⟩
  repeat'
    first
    | with_reducible assumption | with_reducible exact SameBut.refl _ _ | decide
    | with_reducible apply frame_aluOp

theorem frame_execSand (k : Fin 12) (d a b : Fin 16) (s : State) :
    ∃ s', execSand k d a b s = .next s' ∧ SameBut [.regs, .gc, .gen, .bands, .slots, .engines] s s' := by
  refine ⟨_, rfl, ?_⟩
  repeat'
    first
    | with_reducible assumption | with_reducible exact SameBut.refl _ _ | decide
    | with_reducible apply frame_aluOp

theorem frame_execSor (k : Fin 12) (d a b : Fin 16) (s : State) :
    ∃ s', execSor k d a b s = .next s' ∧ SameBut [.regs, .gc, .gen, .bands, .slots, .engines] s s' := by
  refine ⟨_, rfl, ?_⟩
  repeat'
    first
    | with_reducible assumption | with_reducible exact SameBut.refl _ _ | decide
    | with_reducible apply frame_aluOp

theorem frame_execSshl (k : Fin 12) (d a : Fin 16) (imm : BitVec 10) (s : State) :
    ∃ s', execSshl k d a imm s = .next s' ∧ SameBut [.regs, .gc, .gen, .bands, .slots, .engines] s s' := by
  refine ⟨_, rfl, ?_⟩
  repeat'
    first
    | with_reducible assumption | with_reducible exact SameBut.refl _ _ | decide
    | with_reducible apply frame_immOp

theorem frame_execSshr (k : Fin 12) (d a : Fin 16) (imm : BitVec 10) (s : State) :
    ∃ s', execSshr k d a imm s = .next s' ∧ SameBut [.regs, .gc, .gen, .bands, .slots, .engines] s s' := by
  refine ⟨_, rfl, ?_⟩
  repeat'
    first
    | with_reducible assumption | with_reducible exact SameBut.refl _ _ | decide | with_reducible intro _
    | with_reducible apply frame_immOp | dsimp only

theorem frame_execSmul (k : Fin 12) (d a b : Fin 16) (s : State) :
    ∃ s', execSmul k d a b s = .next s' ∧ SameBut [.regs, .gc, .gen, .bands, .slots, .engines] s s' := by
  refine ⟨_, rfl, ?_⟩
  repeat'
    first
    | with_reducible assumption | with_reducible exact SameBut.refl _ _ | decide
    | with_reducible apply frame_aluOp

theorem frame_execSld (k : Fin 12) (m : MemOp) (s : State) :
    ∃ s', execSld k m s = .next s' ∧ SameBut [.regs, .gc, .gen, .bands, .slots, .engines] s s' := by
  refine ⟨_, rfl, ?_⟩
  repeat'
    first
    | with_reducible assumption | with_reducible exact SameBut.refl _ _ | decide | with_reducible intro _
    | with_reducible apply frame_issue | dsimp only

theorem frame_execSst (k : Fin 12) (m : MemOp) (s : State) :
    ∃ s', execSst k m s = .next s' ∧ SameBut [.regs, .gc, .gen, .bands, .slots, .engines] s s' := by
  refine ⟨_, rfl, ?_⟩
  repeat'
    first
    | with_reducible assumption | with_reducible exact SameBut.refl _ _ | decide | with_reducible intro _
    | with_reducible apply frame_issue | dsimp only

theorem frame_execSget (k : Fin 12) (d : Fin 16) (sel : BitVec 10) (s : State) :
    ∃ s', execSget k d sel s = .next s' ∧ SameBut [.regs, .gc, .gen, .bands, .slots, .engines] s s' := by
  refine ⟨_, rfl, ?_⟩
  repeat'
    first
    | with_reducible assumption | with_reducible exact SameBut.refl _ _ | decide | with_reducible intro _
    | with_reducible apply frame_issue | dsimp only

theorem frame_execBr (k : Fin 12) (cond : Fin 16) (a : Fin 16) (target : BitVec 15) (s : State) :
    ∃ s', execBr k cond a target s = .next s' ∧ SameBut [.regs, .gc, .gen, .bands, .slots, .engines] s s' := by
  refine ⟨_, rfl, ?_⟩
  repeat'
    first
    | with_reducible assumption | with_reducible exact SameBut.refl _ _ | decide | with_reducible intro _
    | with_reducible apply sameBut_ite | with_reducible apply frame_issue | dsimp only

theorem frame_execLmask (k : Fin 12) (imm : BitVec 10) (s : State) :
    ∃ s', execLmask k imm s = .next s' ∧ SameBut [.regs, .gc, .gen, .bands, .slots, .engines] s s' := by
  refine ⟨_, rfl, ?_⟩
  repeat'
    first
    | with_reducible assumption | with_reducible exact SameBut.refl _ _ | decide | with_reducible intro _
    | with_reducible apply sameBut_ite | with_reducible apply frame_issue | dsimp only

theorem frame_execSignal (k : Fin 12) (s : State) :
    ∃ s', execSignal k s = .next s' ∧ SameBut [.regs, .gc, .gen, .bands, .slots, .engines] s s' := by
  refine ⟨_, rfl, ?_⟩
  repeat'
    first
    | with_reducible assumption | with_reducible exact SameBut.refl _ _ | decide | with_reducible intro _
    | with_reducible apply frame_issue | dsimp only

theorem frame_execVld (k : Fin 12) (m : MemOp) (s : State) :
    ∃ s', execVld k m s = .next s' ∧ SameBut [.regs, .gc, .gen, .bands, .slots, .engines] s s' := by
  refine ⟨_, rfl, ?_⟩
  repeat'
    first
    | with_reducible assumption | with_reducible exact SameBut.refl _ _ | decide | with_reducible intro _
    | with_reducible apply frame_vload | dsimp only

theorem frame_execVldr (k : Fin 12) (m : MemOp) (s : State) :
    ∃ s', execVldr k m s = .next s' ∧ SameBut [.regs, .gc, .gen, .bands, .slots, .engines] s s' := by
  refine ⟨_, rfl, ?_⟩
  repeat'
    first
    | with_reducible assumption | with_reducible exact SameBut.refl _ _ | decide | with_reducible intro _
    | with_reducible apply sameBut_ite | with_reducible apply frame_vload | dsimp only

theorem frame_execVldi (k : Fin 12) (m : MemOp) (s : State) :
    ∃ s', execVldi k m s = .next s' ∧ SameBut [.regs, .gc, .gen, .bands, .slots, .engines] s s' := by
  refine ⟨_, rfl, ?_⟩
  repeat'
    first
    | with_reducible assumption | with_reducible exact SameBut.refl _ _ | decide | with_reducible intro _
    | with_reducible apply frame_vload | dsimp only

theorem frame_execVldd (k : Fin 12) (d a b : Fin 16) (st : Fin 4) (s : State) :
    ∃ s', execVldd k d a b st s = .next s' ∧ SameBut [.regs, .gc, .gen, .bands, .slots, .engines] s s' := by
  refine ⟨_, rfl, ?_⟩
  repeat'
    first
    | with_reducible assumption | with_reducible exact SameBut.refl _ _ | decide | with_reducible intro _
    | with_reducible apply frame_issue | dsimp only

theorem frame_execVst (k : Fin 12) (m : MemOp) (s : State) :
    ∃ s', execVst k m s = .next s' ∧ SameBut [.regs, .gc, .gen, .bands, .slots, .engines] s s' := by
  refine ⟨_, rfl, ?_⟩
  repeat'
    first
    | with_reducible assumption | with_reducible exact SameBut.refl _ _ | decide | with_reducible intro _
    | with_reducible apply frame_issue | dsimp only

theorem frame_execVste (k : Fin 12) (m : MemOp) (s : State) :
    ∃ s', execVste k m s = .next s' ∧ SameBut [.regs, .gc, .gen, .bands, .slots, .engines] s s' := by
  refine ⟨_, rfl, ?_⟩
  repeat'
    first
    | with_reducible assumption | with_reducible exact SameBut.refl _ _ | decide | with_reducible intro _
    | with_reducible apply frame_issue | dsimp only

theorem frame_execVsplat (k : Fin 12) (d a : Fin 16) (s : State) :
    ∃ s', execVsplat k d a s = .next s' ∧ SameBut [.regs, .gc, .gen, .bands, .slots, .engines] s s' := by
  refine ⟨_, rfl, ?_⟩
  repeat'
    first
    | with_reducible assumption | with_reducible exact SameBut.refl _ _ | decide | with_reducible intro _
    | with_reducible apply frame_vecOp | dsimp only

theorem frame_execVadd (k : Fin 12) (d a b : Fin 16) (s : State) :
    ∃ s', execVadd k d a b s = .next s' ∧ SameBut [.regs, .gc, .gen, .bands, .slots, .engines] s s' := by
  refine ⟨_, rfl, ?_⟩
  repeat'
    first
    | with_reducible assumption | with_reducible exact SameBut.refl _ _ | decide
    | with_reducible apply frame_vec2

theorem frame_execVsub (k : Fin 12) (d a b : Fin 16) (s : State) :
    ∃ s', execVsub k d a b s = .next s' ∧ SameBut [.regs, .gc, .gen, .bands, .slots, .engines] s s' := by
  refine ⟨_, rfl, ?_⟩
  repeat'
    first
    | with_reducible assumption | with_reducible exact SameBut.refl _ _ | decide
    | with_reducible apply frame_vec2

theorem frame_execVmul (k : Fin 12) (d a b : Fin 16) (s : State) :
    ∃ s', execVmul k d a b s = .next s' ∧ SameBut [.regs, .gc, .gen, .bands, .slots, .engines] s s' := by
  refine ⟨_, rfl, ?_⟩
  repeat'
    first
    | with_reducible assumption | with_reducible exact SameBut.refl _ _ | decide
    | with_reducible apply frame_vec2

theorem frame_execVmac (k : Fin 12) (d a b : Fin 16) (neg : Bool) (s : State) :
    ∃ s', execVmac k d a b neg s = .next s' ∧ SameBut [.regs, .gc, .gen, .bands, .slots, .engines] s s' := by
  refine ⟨_, rfl, ?_⟩
  repeat'
    first
    | with_reducible assumption | with_reducible exact SameBut.refl _ _ | decide | with_reducible intro _
    | with_reducible apply frame_issue | dsimp only

theorem frame_execAclr (k : Fin 12) (d : Fin 16) (e : BitVec 8) (s : State) :
    ∃ s', execAclr k d e s = .next s' ∧ SameBut [.regs, .gc, .gen, .bands, .slots, .engines] s s' := by
  refine ⟨_, rfl, ?_⟩
  repeat'
    first
    | with_reducible assumption | with_reducible exact SameBut.refl _ _ | decide | with_reducible intro _
    | with_reducible apply frame_issue | dsimp only

theorem frame_execVmova (k : Fin 12) (d a : Fin 16) (s : State) :
    ∃ s', execVmova k d a s = .next s' ∧ SameBut [.regs, .gc, .gen, .bands, .slots, .engines] s s' := by
  refine ⟨_, rfl, ?_⟩
  repeat'
    first
    | with_reducible assumption | with_reducible exact SameBut.refl _ _ | decide | with_reducible intro _
    | with_reducible apply frame_issue | dsimp only

theorem frame_execVclamp (k : Fin 12) (d a b c : Fin 16) (s : State) :
    ∃ s', execVclamp k d a b c s = .next s' ∧ SameBut [.regs, .gc, .gen, .bands, .slots, .engines] s s' := by
  refine ⟨_, rfl, ?_⟩
  repeat'
    first
    | with_reducible assumption | with_reducible exact SameBut.refl _ _ | decide | with_reducible intro _
    | with_reducible apply frame_vecOp | dsimp only

theorem frame_execVneg (k : Fin 12) (d a : Fin 16) (s : State) :
    ∃ s', execVneg k d a s = .next s' ∧ SameBut [.regs, .gc, .gen, .bands, .slots, .engines] s s' := by
  refine ⟨_, rfl, ?_⟩
  repeat'
    first
    | with_reducible assumption | with_reducible exact SameBut.refl _ _ | decide
    | with_reducible apply frame_vec1

theorem frame_execVabs (k : Fin 12) (d a : Fin 16) (s : State) :
    ∃ s', execVabs k d a s = .next s' ∧ SameBut [.regs, .gc, .gen, .bands, .slots, .engines] s s' := by
  refine ⟨_, rfl, ?_⟩
  repeat'
    first
    | with_reducible assumption | with_reducible exact SameBut.refl _ _ | decide
    | with_reducible apply frame_vec1

theorem frame_execVscl (k : Fin 12) (d a : Fin 16) (e : BitVec 8) (s : State) :
    ∃ s', execVscl k d a e s = .next s' ∧ SameBut [.regs, .gc, .gen, .bands, .slots, .engines] s s' := by
  refine ⟨_, rfl, ?_⟩
  repeat'
    first
    | with_reducible assumption | with_reducible exact SameBut.refl _ _ | decide | with_reducible intro _
    | with_reducible apply frame_vec1 | dsimp only

theorem frame_execVmov (k : Fin 12) (d a : Fin 16) (s : State) :
    ∃ s', execVmov k d a s = .next s' ∧ SameBut [.regs, .gc, .gen, .bands, .slots, .engines] s s' := by
  refine ⟨_, rfl, ?_⟩
  repeat'
    first
    | with_reducible assumption | with_reducible exact SameBut.refl _ _ | decide
    | with_reducible apply frame_vec1

theorem frame_execVbc (k : Fin 12) (d a : Fin 16) (j : Fin 4) (s : State) :
    ∃ s', execVbc k d a j s = .next s' ∧ SameBut [.regs, .gc, .gen, .bands, .slots, .engines] s s' := by
  refine ⟨_, rfl, ?_⟩
  repeat'
    first
    | with_reducible assumption | with_reducible exact SameBut.refl _ _ | decide | with_reducible intro _
    | with_reducible apply frame_vecOp | dsimp only

theorem frame_execVcmp (k : Fin 12) (a b : Fin 16) (cond : Fin 8) (s : State) :
    ∃ s', execVcmp k a b cond s = .next s' ∧ SameBut [.regs, .gc, .gen, .bands, .slots, .engines] s s' := by
  refine ⟨_, rfl, ?_⟩
  repeat'
    first
    | with_reducible assumption | with_reducible exact SameBut.refl _ _ | decide | with_reducible intro _
    | with_reducible apply frame_issue | dsimp only

theorem frame_execVsel (k : Fin 12) (d a b : Fin 16) (s : State) :
    ∃ s', execVsel k d a b s = .next s' ∧ SameBut [.regs, .gc, .gen, .bands, .slots, .engines] s s' := by
  refine ⟨_, rfl, ?_⟩
  repeat'
    first
    | with_reducible assumption | with_reducible exact SameBut.refl _ _ | decide | with_reducible intro _
    | with_reducible apply sameBut_ite | with_reducible apply frame_vecOp | dsimp only

theorem frame_execVtst (k : Fin 12) (imm : BitVec 10) (s : State) :
    ∃ s', execVtst k imm s = .next s' ∧ SameBut [.regs, .gc, .gen, .bands, .slots, .engines] s s' := by
  refine ⟨_, rfl, ?_⟩
  repeat'
    first
    | with_reducible assumption | with_reducible exact SameBut.refl _ _ | decide | with_reducible intro _
    | with_reducible apply frame_issue | dsimp only

theorem frame_execNorm (k : Fin 12) (d : Fin 16) (s : State) :
    ∃ s', execNorm k d s = .next s' ∧ SameBut [.regs, .gc, .gen, .bands, .slots, .engines] s s' := by
  refine ⟨_, rfl, ?_⟩
  repeat'
    first
    | with_reducible assumption | with_reducible exact SameBut.refl _ _ | decide | with_reducible intro _
    | with_reducible apply frame_issue | dsimp only

theorem frame_execVtab (k : Fin 12) (d a b c : Fin 16) (interp : Bool) (s : State) :
    ∃ s', execVtab k d a b c interp s = .next s' ∧ SameBut [.regs, .gc, .gen, .bands, .slots, .engines] s s' := by
  refine ⟨_, rfl, ?_⟩
  repeat'
    first
    | with_reducible assumption | with_reducible exact SameBut.refl _ _ | decide | with_reducible intro _
    | with_reducible apply sameBut_ite | with_reducible apply frame_issue | dsimp only

theorem frame_noteFigure {fp : List Part} {u0 : State} (s : State) (a v : Nat)
    (hfp : [.regs] ⊆ fp) (h0 : SameBut fp u0 s) :
    SameBut fp u0 (noteFigure s a v) := by
  unfold noteFigure
  repeat'
    first
    | with_reducible assumption | exact List.Subset.trans (by decide) hfp | with_reducible apply frame_wr

theorem frame_haltNow {fp : List Part} {u0 : State} (s : State) (k : Nat)
    (hfp : [.engines] ⊆ fp) (h0 : SameBut fp u0 s) :
    SameBut fp u0 (haltNow s k) := by
  unfold haltNow
  repeat'
    first
    | with_reducible assumption | exact List.Subset.trans (by decide) hfp | with_reducible intro _
    | with_reducible apply frame_onEng | dsimp only

theorem frame_endStage {fp : List Part} {u0 : State} (s : State) (k ev cycles lastEdge : Nat) (ovf unf nodata :
    BitVec 4)
    (hfp : [.regs, .engines] ⊆ fp) (h0 : SameBut fp u0 s) :
    SameBut fp u0 (endStage s k ev cycles lastEdge ovf unf nodata) := by
  unfold endStage
  dsimp only
  repeat'
    first
    | with_reducible assumption | exact List.Subset.trans (by decide) hfp | with_reducible intro _
    | with_reducible apply sameBut_ite | with_reducible apply frame_onEng
    | with_reducible apply frame_noteFigure | with_reducible apply frame_wr | with_reducible apply frame_evtIf
    | with_reducible apply frame_haltNow | dsimp only

theorem frame_execStop (k : Fin 12) (s : State) :
    ∃ s', execStop k s = .next s' ∧ SameBut [.regs, .gc, .gen, .slots, .engines] s s' := by
  refine ⟨_, rfl, ?_⟩
  repeat'
    first
    | with_reducible assumption | with_reducible exact SameBut.refl _ _ | decide
    | with_reducible apply sameBut_ite | with_reducible apply frame_engFault
    | with_reducible apply frame_endStage | split | dsimp only

theorem frame_execIllegal (k : Fin 12) (s : State) :
    ∃ s', execIllegal k s = .next s' ∧ SameBut [.regs, .gc, .gen, .bands, .slots, .engines] s s' := by
  refine ⟨_, rfl, ?_⟩
  repeat'
    first
    | with_reducible assumption | with_reducible exact SameBut.refl _ _ | decide | with_reducible intro _
    | with_reducible apply frame_issue | dsimp only

theorem frame_execLimit (k : Fin 12) (s : State) :
    ∃ s', execLimit k s = .next s' ∧ SameBut [.regs, .gc, .gen, .slots, .engines] s s' := by
  refine ⟨_, rfl, ?_⟩
  repeat'
    first
    | with_reducible assumption | with_reducible exact SameBut.refl _ _ | decide
    | with_reducible apply frame_engFault | split

theorem frame_execSramScrub (k : Fin 12) (addr : Nat) (uncorrectable : Bool) (s : State) :
    ∃ s', execSramScrub k addr uncorrectable s = .next s' ∧ SameBut [.regs, .gc, .gen, .slots, .engines] s s' := by
  refine ⟨_, rfl, ?_⟩
  repeat'
    first
    | with_reducible assumption | with_reducible exact SameBut.refl _ _ | decide | with_reducible intro _
    | with_reducible apply sameBut_ite | with_reducible apply frame_when | with_reducible apply frame_evt
    | with_reducible apply frame_bumpSat | with_reducible apply frame_onEng
    | with_reducible apply frame_engFault | dsimp only

theorem frame_raiseEvent {fp : List Part} {u0 : State} (s : State) (k e : Nat)
    (hfp : [.regs, .engines] ⊆ fp) (h0 : SameBut fp u0 s) :
    SameBut fp u0 (raiseEvent s k e) := by
  unfold raiseEvent
  dsimp only
  repeat'
    first
    | with_reducible assumption | exact List.Subset.trans (by decide) hfp | with_reducible intro _
    | with_reducible apply sameBut_ite | with_reducible apply frame_onEng | with_reducible apply frame_evt
    | with_reducible apply frame_bumpSat | dsimp only

theorem frame_tableEvent {fp : List Part} {u0 : State} (s : State) (k : Nat)
    (hfp : [.regs, .engines] ⊆ fp) (h0 : SameBut fp u0 s) :
    SameBut fp u0 (tableEvent s k) := by
  unfold tableEvent
  repeat'
    first
    | with_reducible assumption | exact List.Subset.trans (by decide) hfp
    | with_reducible apply frame_raiseEvent | with_reducible apply frame_evt

theorem frame_runEngine {fp : List Part} {u0 : State} (s : State) (w : Who) (k : Nat)
    (hfp : [.regs, .pages, .host, .engines] ⊆ fp) (h0 : SameBut fp u0 s) :
    SameBut fp u0 (runEngine s w k) := by
  unfold runEngine
  dsimp only
  repeat'
    first
    | with_reducible assumption | exact List.Subset.trans (by decide) hfp | with_reducible intro _
    | with_reducible apply sameBut_ite | with_reducible apply frame_checked | with_reducible apply frame_wr
    | with_reducible apply frame_onEng | dsimp only

theorem frame_execRunEngine (p : Path) (k : Fin 12) (s : State) :
    ∃ s', execRunEngine p k s = .next s' ∧ SameBut [.regs, .pages, .host, .engines] s s' := by
  refine ⟨_, rfl, ?_⟩
  repeat'
    first
    | with_reducible assumption | with_reducible exact SameBut.refl _ _ | decide | with_reducible intro _
    | with_reducible apply frame_gated | with_reducible apply frame_runEngine | dsimp only

theorem frame_haltEngine {fp : List Part} {u0 : State} (s : State) (w : Who) (k : Nat)
    (hfp : [.regs, .pages, .host, .engines] ⊆ fp) (h0 : SameBut fp u0 s) :
    SameBut fp u0 (haltEngine s w k) := by
  unfold haltEngine
  repeat'
    first
    | with_reducible assumption | exact List.Subset.trans (by decide) hfp | with_reducible intro _
    | with_reducible apply sameBut_ite | with_reducible apply frame_checked | with_reducible apply frame_onEng
    | with_reducible apply frame_haltNow | dsimp only

theorem frame_execHaltEngine (p : Path) (k : Fin 12) (s : State) :
    ∃ s', execHaltEngine p k s = .next s' ∧ SameBut [.regs, .pages, .host, .engines] s s' := by
  refine ⟨_, rfl, ?_⟩
  repeat'
    first
    | with_reducible assumption | with_reducible exact SameBut.refl _ _ | decide | with_reducible intro _
    | with_reducible apply frame_gated | with_reducible apply frame_haltEngine | dsimp only

theorem frame_clearFault {fp : List Part} {u0 : State} (s : State) (w : Who) (k : Nat)
    (hfp : [.regs, .pages, .host, .engines] ⊆ fp) (h0 : SameBut fp u0 s) :
    SameBut fp u0 (clearFault s w k) := by
  unfold clearFault
  repeat'
    first
    | with_reducible assumption | exact List.Subset.trans (by decide) hfp | with_reducible intro _
    | with_reducible apply sameBut_ite | with_reducible apply frame_checked
    | with_reducible apply frame_clearBlock | with_reducible apply frame_onEng | dsimp only

theorem frame_execClearFault (p : Path) (k : Fin 12) (s : State) :
    ∃ s', execClearFault p k s = .next s' ∧ SameBut [.regs, .pages, .host, .engines] s s' := by
  refine ⟨_, rfl, ?_⟩
  repeat'
    first
    | with_reducible assumption | with_reducible exact SameBut.refl _ _ | decide | with_reducible intro _
    | with_reducible apply frame_gated | with_reducible apply frame_clearFault | dsimp only

theorem frame_execDoorbell (p : Path) (k : Fin 12) (s : State) :
    ∃ s', execDoorbell p k s = .next s' ∧ SameBut [.regs, .pages, .host, .engines] s s' := by
  refine ⟨_, rfl, ?_⟩
  repeat'
    first
    | with_reducible assumption | with_reducible exact SameBut.refl _ _ | decide | with_reducible intro _
    | with_reducible apply frame_gated | with_reducible apply frame_raiseEvent | dsimp only

theorem frame_clearStaging {fp : List Part} {u0 : State} (s : State) (k : Nat)
    (hfp : [.engines] ⊆ fp) (h0 : SameBut fp u0 s) :
    SameBut fp u0 (clearStaging s k) := by
  unfold clearStaging
  repeat'
    first
    | with_reducible assumption | exact List.Subset.trans (by decide) hfp | with_reducible intro _
    | with_reducible apply frame_onEng | dsimp only

theorem frame_execClearStagingList (p : Path) (k : Fin 12) (s : State) :
    ∃ s', execClearStagingList p k s = .next s' ∧ SameBut [.regs, .pages, .host, .engines] s s' := by
  refine ⟨_, rfl, ?_⟩
  repeat'
    first
    | with_reducible assumption | with_reducible exact SameBut.refl _ _ | decide | with_reducible intro _
    | with_reducible apply frame_gated | with_reducible apply frame_clearStaging | dsimp only

theorem frame_aeCtrl {fp : List Part} {u0 : State} (s : State) (w : Who) (k : Nat) (v : Word)
    (hfp : [.regs, .pages, .host, .engines] ⊆ fp) (h0 : SameBut fp u0 s) :
    SameBut fp u0 (aeCtrl s w k v) := by
  unfold aeCtrl
  repeat'
    first
    | with_reducible assumption | exact List.Subset.trans (by decide) hfp
    | with_reducible apply frame_runEngine | with_reducible apply frame_haltEngine
    | with_reducible apply frame_clearFault | with_reducible apply frame_raiseEvent
    | with_reducible apply frame_clearStaging | split

theorem frame_stageCopy {fp : List Part} {u0 : State} (s : State) (k src dst len : Nat)
    (hfp : [.engines] ⊆ fp) (h0 : SameBut fp u0 s) :
    SameBut fp u0 (stageCopy s k src dst len) := by
  unfold stageCopy
  dsimp only
  repeat'
    first
    | with_reducible assumption | exact List.Subset.trans (by decide) hfp | with_reducible intro _
    | with_reducible apply sameBut_foldl | with_reducible apply frame_onEng | dsimp only

theorem frame_execStagingReplayDone (k : Fin 12) (s : State) :
    ∃ s', execStagingReplayDone k s = .next s' ∧ SameBut [.engines] s s' := by
  refine ⟨_, rfl, ?_⟩
  repeat'
    first
    | with_reducible assumption | with_reducible exact SameBut.refl _ _ | decide | with_reducible intro _
    | with_reducible apply sameBut_foldl | with_reducible apply frame_when
    | with_reducible apply frame_stageCopy | with_reducible apply frame_onEng | dsimp only

theorem frame_engHostWrite {fp : List Part} {u0 : State} (s : State) (w : Who) (k a : Nat) (v : Word)
    (hfp : [.regs, .pages, .host, .engines] ⊆ fp) (h0 : SameBut fp u0 s) :
    SameBut fp u0 (engHostWrite s w k a v) := by
  unfold engHostWrite
  repeat'
    first
    | with_reducible assumption | exact List.Subset.trans (by decide) hfp | with_reducible intro _
    | with_reducible apply frame_refuseOn | with_reducible apply frame_onEng | split | dsimp only

theorem frame_subWrite {fp : List Part} {u0 : State} (s : State) (k : Nat) (v : Word)
    (hfp : [.engines] ⊆ fp) (h0 : SameBut fp u0 s) :
    SameBut fp u0 (subWrite s k v) := by
  unfold subWrite
  dsimp only
  repeat'
    first
    | with_reducible assumption | exact List.Subset.trans (by decide) hfp | with_reducible intro _
    | with_reducible apply sameBut_ite | with_reducible apply frame_onEng | dsimp only

theorem frame_subDeliver {fp : List Part} {u0 : State} (s : State) (ch : Nat) (idx : Nat) (w : Word)
    (hfp : [.engines] ⊆ fp) (h0 : SameBut fp u0 s) :
    SameBut fp u0 (subDeliver s ch idx w) := by
  unfold subDeliver
  dsimp only
  repeat'
    first
    | with_reducible assumption | exact List.Subset.trans (by decide) hfp | with_reducible intro _
    | with_reducible apply sameBut_ite | with_reducible apply sameBut_foldl
    | with_reducible apply SameBut.set_engines | dsimp only

end Sys2Proof.Machine
end

