-- ==== Sys2Proof/Laws/FrameMailbox.lean ====
section
/-!
SUPPORT. What every operation of Machine/Mailbox.lean leaves alone (SameBut): one lemma for each operation that answers a state.
-/
set_option linter.all false

namespace Sys2Proof.Machine

theorem frame_onEntry {fp : List Part} {u0 : State} (s : State) (q : Seq32) (f : JEntry → JEntry)
    (hfp : [.cmd] ⊆ fp) (h0 : SameBut fp u0 s) :
    SameBut fp u0 (onEntry s q f) := by
  unfold onEntry
  repeat'
    first
    | with_reducible assumption | exact List.Subset.trans (by decide) hfp | with_reducible intro _
    | with_reducible apply sameBut_ite | with_reducible apply SameBut.set_cmd | dsimp only

theorem frame_changeCmd {fp : List Part} {u0 : State} (s : State) (e : JEntry) (st : JState) (slot : Nat)
    (hfp : [.regs, .changes] ⊆ fp) (h0 : SameBut fp u0 s) :
    SameBut fp u0 (changeCmd s e st slot) := by
  unfold changeCmd
  dsimp only
  repeat'
    first
    | with_reducible assumption | exact List.Subset.trans (by decide) hfp | with_reducible apply sameBut_ite
    | with_reducible apply frame_changeEntry | dsimp only

theorem frame_endCmdSlot {fp : List Part} {u0 : State} (s : State) (e : JEntry) (st : JState) (status detail slot :
    Nat)
    (hfp : [.regs, .cmd, .changes] ⊆ fp) (h0 : SameBut fp u0 s) :
    SameBut fp u0 (endCmdSlot s e st status detail slot) := by
  unfold endCmdSlot
  dsimp only
  repeat'
    first
    | with_reducible assumption | exact List.Subset.trans (by decide) hfp | with_reducible intro _
    | with_reducible apply sameBut_ite | with_reducible apply frame_onEntry | with_reducible apply frame_evt
    | with_reducible apply frame_changeCmd | dsimp only

theorem frame_endCmd {fp : List Part} {u0 : State} (s : State) (e : JEntry) (st : JState) (status detail : Nat)
    (hfp : [.regs, .cmd, .changes] ⊆ fp) (h0 : SameBut fp u0 s) :
    SameBut fp u0 (endCmd s e st status detail) := by
  unfold endCmd
  repeat'
    first
    | with_reducible assumption | exact List.Subset.trans (by decide) hfp
    | with_reducible apply frame_endCmdSlot

theorem frame_submitCmd {fp : List Part} {u0 : State} (s : State) (p : Path)
    (hfp : [.regs, .pages, .host, .cmd] ⊆ fp) (h0 : SameBut fp u0 s) :
    SameBut fp u0 (submitCmd s p) := by
  unfold submitCmd
  dsimp only
  repeat'
    first
    | with_reducible assumption | exact List.Subset.trans (by decide) hfp | with_reducible intro _
    | with_reducible apply sameBut_ite | with_reducible apply frame_checked | with_reducible apply frame_onPath
    | with_reducible apply frame_evt | with_reducible apply frame_wr | with_reducible apply frame_refuse
    | with_reducible apply SameBut.set_cmd | dsimp only

theorem frame_submitAs {fp : List Part} {u0 : State} (s : State) (p : Path) (o : Nat) (q : Seq32) (args : List Word)
    (hfp : [.regs, .pages, .host, .cmd] ⊆ fp) (h0 : SameBut fp u0 s) :
    SameBut fp u0 (submitAs s p o q args) := by
  unfold submitAs
  repeat'
    first
    | with_reducible assumption | exact List.Subset.trans (by decide) hfp | with_reducible intro _
    | with_reducible apply frame_gated | with_reducible apply frame_submitCmd
    | with_reducible apply frame_onPath | dsimp only

theorem frame_execCmdNop (p : Path) (seq : Seq32) (args : List Word) (s : State) :
    ∃ s', execCmdNop p seq args s = .next s' ∧ SameBut [.regs, .pages, .host, .cmd] s s' := by
  refine ⟨_, rfl, ?_⟩
  repeat'
    first
    | with_reducible assumption | with_reducible exact SameBut.refl _ _ | decide
    | with_reducible apply frame_submitAs

theorem frame_execCmdTransfer (p : Path) (seq : Seq32) (args : List Word) (s : State) :
    ∃ s', execCmdTransfer p seq args s = .next s' ∧ SameBut [.regs, .pages, .host, .cmd] s s' := by
  refine ⟨_, rfl, ?_⟩
  repeat'
    first
    | with_reducible assumption | with_reducible exact SameBut.refl _ _ | decide
    | with_reducible apply frame_submitAs

theorem frame_execCmdReamStore (p : Path) (seq : Seq32) (args : List Word) (s : State) :
    ∃ s', execCmdReamStore p seq args s = .next s' ∧ SameBut [.regs, .pages, .host, .cmd] s s' := by
  refine ⟨_, rfl, ?_⟩
  repeat'
    first
    | with_reducible assumption | with_reducible exact SameBut.refl _ _ | decide
    | with_reducible apply frame_submitAs

theorem frame_execCmdCalStore (p : Path) (seq : Seq32) (args : List Word) (s : State) :
    ∃ s', execCmdCalStore p seq args s = .next s' ∧ SameBut [.regs, .pages, .host, .cmd] s s' := by
  refine ⟨_, rfl, ?_⟩
  repeat'
    first
    | with_reducible assumption | with_reducible exact SameBut.refl _ _ | decide
    | with_reducible apply frame_submitAs

theorem frame_execCmdFuseWrite (p : Path) (seq : Seq32) (args : List Word) (s : State) :
    ∃ s', execCmdFuseWrite p seq args s = .next s' ∧ SameBut [.regs, .pages, .host, .cmd] s s' := by
  refine ⟨_, rfl, ?_⟩
  repeat'
    first
    | with_reducible assumption | with_reducible exact SameBut.refl _ _ | decide
    | with_reducible apply frame_submitAs

theorem frame_execCmdZipJob (p : Path) (seq : Seq32) (args : List Word) (s : State) :
    ∃ s', execCmdZipJob p seq args s = .next s' ∧ SameBut [.regs, .pages, .host, .cmd] s s' := by
  refine ⟨_, rfl, ?_⟩
  repeat'
    first
    | with_reducible assumption | with_reducible exact SameBut.refl _ _ | decide
    | with_reducible apply frame_submitAs

theorem frame_execCmdTableStage (p : Path) (seq : Seq32) (args : List Word) (s : State) :
    ∃ s', execCmdTableStage p seq args s = .next s' ∧ SameBut [.regs, .pages, .host, .cmd] s s' := by
  refine ⟨_, rfl, ?_⟩
  repeat'
    first
    | with_reducible assumption | with_reducible exact SameBut.refl _ _ | decide
    | with_reducible apply frame_submitAs

theorem frame_execUnknownOpcode (p : Path) (opcode : Nat) (seq : Seq32) (s : State) :
    ∃ s', execUnknownOpcode p opcode seq s = .next s' ∧ SameBut [.regs, .pages, .host, .cmd] s s' := by
  refine ⟨_, rfl, ?_⟩
  repeat'
    first
    | with_reducible assumption | with_reducible exact SameBut.refl _ _ | decide
    | with_reducible apply sameBut_ite | with_reducible apply frame_submitAs

theorem frame_journalReset {fp : List Part} {u0 : State} (s : State)
    (hfp : [.cmd] ⊆ fp) (h0 : SameBut fp u0 s) :
    SameBut fp u0 (journalReset s) := by
  unfold journalReset
  dsimp only
  repeat'
    first
    | with_reducible assumption | exact List.Subset.trans (by decide) hfp | with_reducible intro _
    | with_reducible apply sameBut_ite | split | with_reducible apply SameBut.set_cmd | dsimp only

theorem frame_cmdRegWrite {fp : List Part} {u0 : State} (s : State) (p : Path) (o : Nat) (v : Word)
    (hfp : [.host] ⊆ fp) (h0 : SameBut fp u0 s) :
    SameBut fp u0 (cmdRegWrite s p o v) := by
  unfold cmdRegWrite
  dsimp only
  repeat'
    first
    | with_reducible assumption | exact List.Subset.trans (by decide) hfp | with_reducible intro _
    | with_reducible apply sameBut_ite | with_reducible apply frame_onPath | dsimp only

end Sys2Proof.Machine
end

