-- ==== Sys2Proof/Laws/FrameNv.lean ====
section
/-!
SUPPORT. What every operation of Machine/Nv.lean leaves alone (SameBut): one lemma for each operation that answers a state.
-/
set_option linter.all false

namespace Sys2Proof.Machine

theorem frame_countReads {fp : List Part} {u0 : State} (s : State) (r : List NvRead)
    (hfp : [.regs] ⊆ fp) (h0 : SameBut fp u0 s) :
    SameBut fp u0 (countReads s r) := by
  unfold countReads
  dsimp only
  repeat'
    first
    | with_reducible assumption | exact List.Subset.trans (by decide) hfp | with_reducible apply frame_evtIf
    | with_reducible apply frame_bumpSat | dsimp only

theorem frame_setFuse {fp : List Part} {u0 : State} (s : State) (f i : Nat) (x : FuseSlot)
    (hfp : [.fuses] ⊆ fp) (h0 : SameBut fp u0 s) :
    SameBut fp u0 (setFuse s f i x) := by
  unfold setFuse
  repeat'
    first
    | with_reducible assumption | exact List.Subset.trans (by decide) hfp | with_reducible intro _
    | with_reducible apply SameBut.set_fuses | dsimp only

theorem frame_persistentBegin {fp : List Part} {u0 : State} (s : State) (e : JEntry)
    (hfp : [.regs, .cmd, .nv, .changes] ⊆ fp) (h0 : SameBut fp u0 s) :
    SameBut fp u0 (persistentBegin s e) := by
  unfold persistentBegin
  repeat'
    first
    | with_reducible assumption | exact List.Subset.trans (by decide) hfp | with_reducible intro _
    | with_reducible apply sameBut_ite | with_reducible apply frame_endCmd
    | with_reducible apply SameBut.set_nv | dsimp only

theorem frame_storeCommit {fp : List Part} {u0 : State} (s : State) (e : JEntry)
    (hfp : [.regs, .nv] ⊆ fp) (h0 : SameBut fp u0 s) :
    SameBut fp u0 (storeCommit s e) := by
  unfold storeCommit
  repeat'
    first
    | with_reducible assumption | exact List.Subset.trans (by decide) hfp | with_reducible apply sameBut_ite
    | with_reducible apply frame_evt | with_reducible apply frame_bumpSat | with_reducible apply SameBut.set_nv

theorem frame_storeSpoiled {fp : List Part} {u0 : State} (s : State) (e : JEntry)
    (hfp : [.nv] ⊆ fp) (h0 : SameBut fp u0 s) :
    SameBut fp u0 (storeSpoiled s e) := by
  unfold storeSpoiled
  repeat'
    first
    | with_reducible assumption | exact List.Subset.trans (by decide) hfp | with_reducible apply sameBut_ite
    | with_reducible apply SameBut.set_nv

theorem frame_stepDone {fp : List Part} {u0 : State} (s : State) (e : JEntry) (ok : Bool)
    (hfp : [.regs, .cmd, .nv, .fuses, .changes] ⊆ fp) (h0 : SameBut fp u0 s) :
    SameBut fp u0 (stepDone s e ok) := by
  unfold stepDone
  dsimp only
  repeat'
    first
    | with_reducible assumption | exact List.Subset.trans (by decide) hfp | with_reducible intro _
    | with_reducible apply sameBut_ite | with_reducible apply frame_onEntry | with_reducible apply frame_evt
    | with_reducible apply frame_setFuse | with_reducible apply frame_endCmdSlot
    | with_reducible apply frame_endCmd | with_reducible apply frame_storeSpoiled
    | with_reducible apply frame_storeCommit | split | dsimp only

theorem frame_execPersistentStepDone (ok : Bool) (s : State) :
    ∃ s', execPersistentStepDone ok s = .next s' ∧ SameBut [.regs, .cmd, .nv, .fuses, .changes] s s' := by
  refine ⟨_, rfl, ?_⟩
  repeat'
    first
    | with_reducible assumption | with_reducible exact SameBut.refl _ _ | decide
    | with_reducible apply sameBut_ite | with_reducible apply frame_stepDone | split

theorem frame_nvInterrupt {fp : List Part} {u0 : State} (s : State)
    (hfp : [.fuses] ⊆ fp) (h0 : SameBut fp u0 s) :
    SameBut fp u0 (nvInterrupt s) := by
  unfold nvInterrupt
  repeat'
    first
    | with_reducible assumption | exact List.Subset.trans (by decide) hfp | with_reducible apply sameBut_ite
    | with_reducible apply frame_setFuse | split

theorem frame_chal0Read {fp : List Part} {u0 : State} (s : State) (p : Path)
    (hfp : [.host, .freeCtr] ⊆ fp) (h0 : SameBut fp u0 s) :
    SameBut fp u0 (chal0Read s p) := by
  unfold chal0Read
  dsimp only
  repeat'
    first
    | with_reducible assumption | exact List.Subset.trans (by decide) hfp | with_reducible intro _
    | with_reducible apply sameBut_foldl | with_reducible apply frame_drawn | with_reducible apply frame_onPath
    | dsimp only

theorem frame_execChal0Read (p : Path) (s : State) :
    ∃ s', execChal0Read p s = .next s' ∧ SameBut [.host, .freeCtr] s s' := by
  refine ⟨_, rfl, ?_⟩
  repeat'
    first
    | with_reducible assumption | with_reducible exact SameBut.refl _ _ | decide
    | with_reducible apply sameBut_ite | with_reducible apply frame_chal0Read

theorem frame_execChallengeExpiry (p : Path) (s : State) :
    ∃ s', execChallengeExpiry p s = .next s' ∧ SameBut [.host] s s' := by
  refine ⟨_, rfl, ?_⟩
  repeat'
    first
    | with_reducible assumption | with_reducible exact SameBut.refl _ _ | decide | with_reducible intro _
    | with_reducible apply frame_onPath | dsimp only

theorem frame_authRefused {fp : List Part} {u0 : State} (s : State) (p : Path) (reason : Nat)
    (hfp : [.regs, .pages, .host, .changes] ⊆ fp) (h0 : SameBut fp u0 s) :
    SameBut fp u0 (authRefused s p reason) := by
  unfold authRefused
  dsimp only
  repeat'
    first
    | with_reducible assumption | exact List.Subset.trans (by decide) hfp | with_reducible intro _
    | with_reducible apply sameBut_ite | with_reducible apply frame_onPath
    | with_reducible apply frame_changeEntry | with_reducible apply frame_refuse
    | with_reducible apply frame_bumpSat | with_reducible apply frame_evt | with_reducible apply frame_wr
    | with_reducible apply frame_evtIf | dsimp only

theorem frame_authEnter {fp : List Part} {u0 : State} (s : State) (p : Path)
    (hfp : [.regs, .pages, .host, .changes] ⊆ fp) (h0 : SameBut fp u0 s) :
    SameBut fp u0 (authEnter s p) := by
  unfold authEnter
  dsimp only
  repeat'
    first
    | with_reducible assumption | exact List.Subset.trans (by decide) hfp | with_reducible intro _
    | with_reducible apply sameBut_ite | with_reducible apply frame_authRefused
    | with_reducible apply frame_onPath | with_reducible apply frame_wr
    | with_reducible apply frame_changeEntry | split | dsimp only

theorem frame_execAuthEnter (p : Path) (s : State) :
    ∃ s', execAuthEnter p s = .next s' ∧ SameBut [.regs, .pages, .host, .changes] s s' := by
  refine ⟨_, rfl, ?_⟩
  repeat'
    first
    | with_reducible assumption | with_reducible exact SameBut.refl _ _ | decide | with_reducible intro _
    | with_reducible apply frame_gated | with_reducible apply frame_authEnter | dsimp only

theorem frame_execAuthLeave (p : Path) (s : State) :
    ∃ s', execAuthLeave p s = .next s' ∧ SameBut [.regs, .pages, .host, .changes] s s' := by
  refine ⟨_, rfl, ?_⟩
  repeat'
    first
    | with_reducible assumption | with_reducible exact SameBut.refl _ _ | decide | with_reducible intro _
    | with_reducible apply frame_gated | with_reducible apply frame_lapse | dsimp only

theorem frame_authWrite {fp : List Part} {u0 : State} (s : State) (p : Path) (v : Word)
    (hfp : [.regs, .pages, .host, .changes] ⊆ fp) (h0 : SameBut fp u0 s) :
    SameBut fp u0 (authWrite s p v) := by
  unfold authWrite
  repeat'
    first
    | with_reducible assumption | exact List.Subset.trans (by decide) hfp | with_reducible apply sameBut_ite
    | with_reducible apply frame_authEnter | with_reducible apply frame_lapse
    | with_reducible apply frame_refuse

theorem frame_respWrite {fp : List Part} {u0 : State} (s : State) (p : Path) (i : Nat) (v : Word)
    (hfp : [.host] ⊆ fp) (h0 : SameBut fp u0 s) :
    SameBut fp u0 (respWrite s p i v) := by
  unfold respWrite
  repeat'
    first
    | with_reducible assumption | exact List.Subset.trans (by decide) hfp | with_reducible intro _
    | with_reducible apply frame_onPath | dsimp only

theorem frame_execSvcTimeout (p : Path) (s : State) :
    ∃ s', execSvcTimeout p s = .next s' ∧ SameBut [.regs, .host, .changes] s s' := by
  refine ⟨_, rfl, ?_⟩
  repeat'
    first
    | with_reducible assumption | with_reducible exact SameBut.refl _ _ | decide
    | with_reducible apply frame_lapse

theorem frame_execLockoutEnd (s : State) :
    ∃ s', execLockoutEnd s = .next s' ∧ SameBut [.regs] s s' := by
  refine ⟨_, rfl, ?_⟩
  repeat'
    first
    | with_reducible assumption | with_reducible exact SameBut.refl _ _ | decide | with_reducible intro _
    | with_reducible apply frame_when | with_reducible apply frame_wr | dsimp only

theorem frame_execNsconfAsserted (s : State) :
    ∃ s', execNsconfAsserted s = .next s' ∧ SameBut [.pins] s s' := by
  refine ⟨_, rfl, ?_⟩
  repeat'
    first
    | with_reducible assumption | with_reducible exact SameBut.refl _ _ | decide
    | with_reducible apply SameBut.set_pins

theorem frame_execNsconfRelease (s : State) :
    ∃ s', execNsconfRelease s = .next s' ∧ SameBut [.pins] s s' := by
  refine ⟨_, rfl, ?_⟩
  repeat'
    first
    | with_reducible assumption | with_reducible exact SameBut.refl _ _ | decide
    | with_reducible apply SameBut.set_pins

end Sys2Proof.Machine
end

