-- ==== Sys2Proof/Laws/FrameKernel.lean ====
section
/-!
SUPPORT. What every operation of Machine/Kernel.lean leaves alone (SameBut): one lemma for each operation that answers a state.
-/
set_option linter.all false

namespace Sys2Proof.Machine

theorem frame_kPut {fp : List Part} {u0 : State} (s : State) (k i off : Nat) (w : Word)
    (hfp : [.engines] ⊆ fp) (h0 : SameBut fp u0 s) :
    SameBut fp u0 (kPut s k i off w) := by
  unfold kPut
  repeat'
    first
    | with_reducible assumption | exact List.Subset.trans (by decide) hfp | with_reducible intro _
    | with_reducible apply frame_onEng | dsimp only

theorem frame_kPutVal {fp : List Part} {u0 : State} (s : State) (k i off : Nat) (x : Frac)
    (hfp : [.engines] ⊆ fp) (h0 : SameBut fp u0 s) :
    SameBut fp u0 (kPutVal s k i off x) := by
  unfold kPutVal
  repeat'
    first
    | with_reducible assumption | exact List.Subset.trans (by decide) hfp | with_reducible apply frame_kPut

theorem frame_takeParams {fp : List Part} {u0 : State} (s : State) (k i : Nat)
    (hfp : [.engines] ⊆ fp) (h0 : SameBut fp u0 s) :
    SameBut fp u0 (takeParams s k i) := by
  unfold takeParams
  dsimp only
  repeat'
    first
    | with_reducible assumption | exact List.Subset.trans (by decide) hfp | with_reducible intro _
    | with_reducible apply sameBut_ite | with_reducible apply sameBut_foldl | with_reducible apply frame_onEng
    | with_reducible apply frame_kPut | dsimp only

theorem frame_adaptWidth {fp : List Part} {u0 : State} (s : State) (k i c : Nat) (b : InBlock)
    (hfp : [.engines] ⊆ fp) (h0 : SameBut fp u0 s) :
    SameBut fp u0 (adaptWidth s k i c b) := by
  unfold adaptWidth
  dsimp only
  repeat'
    first
    | with_reducible assumption | exact List.Subset.trans (by decide) hfp | with_reducible apply sameBut_ite
    | with_reducible apply frame_kPutVal | with_reducible apply frame_kPut | dsimp only

theorem frame_kernelBuSlot {fp : List Part} {u0 s : State} {k i : Nat} {b : InBlock}
    (hfp : [.bands, .engines] ⊆ fp) (h0 : SameBut fp u0 s) : OkAll (SameBut fp u0) (kernelBuSlot s k i b) := by
  unfold kernelBuSlot
  dsimp only
  refine OkAll.ite (OkAll.map (fun zs => ?_)) (OkAll.ok h0)
  repeat'
    first
    | with_reducible assumption | exact List.Subset.trans (by decide) hfp | with_reducible intro _
    | with_reducible apply sameBut_foldl | with_reducible apply frame_adaptWidth
    | with_reducible apply frame_portWrite

theorem frame_consume {fp : List Part} {u0 : State} (s : State) (k i n fuel : Nat)
    (hfp : [.engines] ⊆ fp) (h0 : SameBut fp u0 s) : SameBut fp u0 (consume s k i n fuel) := by
  induction fuel generalizing s with
  | zero => exact h0
  | succ fuel ih =>
    unfold consume
    dsimp only
    repeat'
      first
      | with_reducible assumption | exact List.Subset.trans (by decide) hfp | with_reducible apply sameBut_ite
      | with_reducible apply ih | with_reducible apply frame_kPut | with_reducible apply frame_onEng

theorem frame_kernelPosSlot {fp : List Part} {u0 : State} (s : State) (k i : Nat) (b : InBlock)
    (hfp : [.engines] ⊆ fp) (h0 : SameBut fp u0 s) :
    SameBut fp u0 (kernelPosSlot s k i b) := by
  unfold kernelPosSlot
  dsimp only
  repeat'
    first
    | with_reducible assumption | exact List.Subset.trans (by decide) hfp | with_reducible intro _
    | with_reducible apply sameBut_ite | with_reducible apply frame_consume | with_reducible apply frame_onEng
    | with_reducible apply frame_kPut | with_reducible apply frame_kPutVal | dsimp only

theorem frame_learn {fp : List Part} {u0 s : State} {k i : Nat} {j e : Frac}
    (hfp : [.engines] ⊆ fp) (h0 : SameBut fp u0 s) : OkAll (SameBut fp u0) (learn s k i j e) :=
  OkAll.map (fun _ => frame_onEng _ _ _ (List.Subset.trans (by decide) hfp) h0)

theorem frame_countCycle {fp : List Part} {u0 : State} (s : State) (k i : Nat) (b : InBlock)
    (hfp : [.engines] ⊆ fp) (h0 : SameBut fp u0 s) :
    SameBut fp u0 (countCycle s k i b) := by
  unfold countCycle
  dsimp only
  repeat'
    first
    | with_reducible assumption | exact List.Subset.trans (by decide) hfp | with_reducible intro _
    | with_reducible apply sameBut_ite | with_reducible apply frame_kPut | with_reducible apply frame_onEng
    | dsimp only

theorem frame_velocityLoop {fp : List Part} {u0 s : State} {k i : Nat} {b : InBlock}
    (hfp : [.engines] ⊆ fp) (h0 : SameBut fp u0 s) : OkAll (SameBut fp u0) (velocityLoop s k i b) := by
  have sub : ∀ {l : List Part}, l ⊆ [.engines] → l ⊆ fp := fun h => List.Subset.trans h hfp
  unfold velocityLoop
  extract_lets r e imax v x ev rcOn j
  split
  · exact OkAll.error _ _
  · dsimp only
    refine OkAll.ite (OkAll.mapState (frame_learn (sub (by decide)) ?_)
      (fun x hx => frame_countCycle _ _ _ _ (sub (by decide)) hx)) (OkAll.ok ?_)
    all_goals
      repeat'
        first
        | with_reducible assumption | exact List.Subset.trans (by decide) hfp | with_reducible apply sameBut_ite
        | with_reducible apply frame_kPutVal

theorem frame_kernelVelSlot {fp : List Part} {u0 s : State} {k i : Nat} {b : InBlock}
    (hfp : [.engines] ⊆ fp) (h0 : SameBut fp u0 s) : OkAll (SameBut fp u0) (kernelVelSlot s k i b) := by
  have sub : ∀ {l : List Part}, l ⊆ [.engines] → l ⊆ fp := fun h => List.Subset.trans h hfp
  unfold kernelVelSlot
  extract_lets e
  have hz : ∀ v, OkAll (SameBut fp u0) (.ok (kPutVal s k i 0x0c v)) := fun v =>
    OkAll.ok (frame_kPutVal _ _ _ _ _ (sub (by decide)) h0)
  exact OkAll.ite (OkAll.ite (hz _) (OkAll.ite (frame_velocityLoop (sub (by decide)) h0) (hz _))) (OkAll.ok h0)

theorem frame_kernelEffect {fp : List Part} {u0 s : State} {k ev : Nat} {b : InBlock}
    (hfp : [.bands, .engines] ⊆ fp) (h0 : SameBut fp u0 s) : OkAll (SameBut fp u0) (kernelEffect s k ev b) := by
  have sub : ∀ {l : List Part}, l ⊆ [.bands, .engines] → l ⊆ fp := fun h => List.Subset.trans h hfp
  unfold kernelEffect
  dsimp only
  split
  · exact OkAll.foldlM (sameBut_foldl h0 (fun x i hx => frame_takeParams x k i (sub (by decide)) hx))
      (fun x i hx => frame_kernelBuSlot (sub (by decide)) hx)
  · exact OkAll.ok (sameBut_foldl h0 (fun x i hx => frame_kernelPosSlot x k i b (sub (by decide)) hx))
  · exact OkAll.foldlM h0 (fun x i hx => frame_kernelVelSlot (sub (by decide)) hx)
  · exact OkAll.ok h0

theorem frame_drawBelow {fp : List Part} {u0 : State} (s : State) (n : Nat)
    (hfp : [.freeCtr] ⊆ fp) (h0 : SameBut fp u0 s) :
    SameBut fp u0 (drawBelow s n).2 := by
  unfold drawBelow
  repeat'
    first
    | with_reducible assumption | exact List.Subset.trans (by decide) hfp | with_reducible apply frame_drawn

theorem frame_kernelStage {fp : List Part} {u0 : State} (s : State) (k ev : Nat)
    (hfp : [.regs, .gc, .gen, .bands, .slots, .engines, .freeCtr] ⊆ fp) (h0 : SameBut fp u0 s) : SameBut fp u0
        (kernelStage s k ev) := by
  have sub : ∀ {l : List Part}, l ⊆ [.regs, .gc, .gen, .bands, .slots, .engines, .freeCtr] → l ⊆ fp := fun h =>
      List.Subset.trans h hfp
  unfold kernelStage
  dsimp only
  split
  · exact frame_engFault _ _ _ _ _ (sub (by decide)) h0
  · split
    · exact frame_engFault _ _ _ _ _ (sub (by decide)) h0
    · rename_i t ht
      have hk : SameBut fp u0 t := frame_kernelEffect (sub (by decide)) h0 t ht
      repeat'
        first
        | with_reducible assumption | exact List.Subset.trans (by decide) hfp | with_reducible apply sameBut_ite
        | with_reducible apply frame_engFault | with_reducible apply frame_endStage | with_reducible apply frame_evt
        | with_reducible apply frame_bumpSat | with_reducible apply frame_drawBelow

theorem frame_execStageStart (k : Fin 12) (s : State) :
    ∃ s', execStageStart k s = .next s' ∧ SameBut [.regs, .gc, .gen, .bands, .slots, .engines, .freeCtr] s s' := by
  refine ⟨_, rfl, ?_⟩
  repeat'
    first
    | with_reducible assumption | with_reducible exact SameBut.refl _ _ | decide | with_reducible intro _
    | with_reducible apply sameBut_ite | with_reducible apply frame_when | with_reducible apply frame_onEng
    | with_reducible apply frame_kernelStage | split | dsimp only

end Sys2Proof.Machine
end

