-- ==== Sys2Proof/Laws/FrameZip.lean ====
section
/-!
SUPPORT. What every operation of Machine/Zip.lean leaves alone (SameBut): one lemma for each operation that answers a state.
-/
set_option linter.all false

namespace Sys2Proof.Machine

theorem frame_zipEnd {fp : List Part} {u0 : State} (s : State) (e : JEntry) (code : Nat)
    (hfp : [.regs, .cmd, .changes] ⊆ fp) (h0 : SameBut fp u0 s) :
    SameBut fp u0 (zipEnd s e code) := by
  unfold zipEnd
  dsimp only
  repeat'
    first
    | with_reducible assumption | exact List.Subset.trans (by decide) hfp | with_reducible apply sameBut_ite
    | with_reducible apply frame_endCmd | with_reducible apply frame_wr | with_reducible apply frame_evt
    | with_reducible apply frame_bumpSat | dsimp only

theorem frame_zipBegin {fp : List Part} {u0 : State} (s : State) (e : JEntry)
    (hfp : [.regs, .cmd, .changes] ⊆ fp) (h0 : SameBut fp u0 s) :
    SameBut fp u0 (zipBegin s e) := by
  unfold zipBegin
  dsimp only
  repeat'
    first
    | with_reducible assumption | exact List.Subset.trans (by decide) hfp | with_reducible apply sameBut_ite
    | with_reducible apply frame_wr | with_reducible apply frame_zipEnd | dsimp only

theorem frame_zipQuires {fp : List Part} {u0 : State} (s : State) (i : Nat) (seq : Seq32) (q n : Nat)
    (l : List Slot) (hfp : [.streams] ⊆ fp) (h0 : SameBut fp u0 s) :
    SameBut fp u0 (zipQuires s i seq q n l) := by
  induction n generalizing s l with
  | zero => exact h0
  | succ n ih =>
    unfold zipQuires
    split
    · exact h0
    · exact ih _ _ (frame_pushQuire _ _ _ _ _ (List.Subset.trans (by decide) hfp) h0)

theorem frame_zipStore {fp : List Part} {u0 : State} (s : State) (e : JEntry) (out : List Nat)
    (hfp : [.streams, .vat] ⊆ fp) (h0 : SameBut fp u0 s) :
    SameBut fp u0 (zipStore s e out) := by
  unfold zipStore
  dsimp only
  repeat'
    first
    | with_reducible assumption | exact List.Subset.trans (by decide) hfp | with_reducible intro _
    | with_reducible apply sameBut_ite | with_reducible apply frame_zipQuires
    | with_reducible apply frame_closeQuire | with_reducible apply frame_vatPutBytes | dsimp only

theorem frame_zipOut {fp : List Part} {u0 : State} (s : State) (e : JEntry) (r : ZipRun)
    (hfp : [.freeCtr] ⊆ fp) (h0 : SameBut fp u0 s) :
    SameBut fp u0 (zipOut s e r).1 := by
  unfold zipOut
  dsimp only
  repeat'
    first
    | with_reducible assumption | exact List.Subset.trans (by decide) hfp | with_reducible apply sameBut_ite
    | with_reducible apply sameBut_ite_fst | with_reducible apply frame_drawBelow | dsimp only

theorem frame_zipFinish {fp : List Part} {u0 : State} (s : State) (e : JEntry) (lost : Option Nat)
    (hfp : [.regs, .streams, .vat, .cmd, .changes, .freeCtr] ⊆ fp) (h0 : SameBut fp u0 s) :
    SameBut fp u0 (zipFinish s e lost) := by
  unfold zipFinish
  dsimp only
  repeat'
    first
    | with_reducible assumption | exact List.Subset.trans (by decide) hfp | with_reducible apply sameBut_ite
    | with_reducible apply frame_zipEnd | with_reducible apply frame_vatError
    | with_reducible apply frame_zipOut | with_reducible apply frame_zipStore
    | with_reducible apply frame_drawBelow | with_reducible apply frame_wr | dsimp only

theorem frame_zipCut {fp : List Part} {u0 : State} (s : State) (e : JEntry)
    (hfp : [.regs, .streams, .vat, .freeCtr] ⊆ fp) (h0 : SameBut fp u0 s) :
    SameBut fp u0 (zipCut s e) := by
  unfold zipCut
  dsimp only
  repeat'
    first
    | with_reducible assumption | exact List.Subset.trans (by decide) hfp | with_reducible apply sameBut_ite
    | with_reducible apply frame_drawBelow | with_reducible apply frame_zipStore
    | with_reducible apply frame_wr | dsimp only

theorem frame_execZipJobDone (s : State) (lost : Option Nat) :
    ∃ s', execZipJobDone s lost = .next s' ∧ SameBut [.regs, .streams, .vat, .cmd, .changes, .freeCtr] s s' := by
  refine ⟨_, rfl, ?_⟩
  repeat'
    first
    | with_reducible assumption | with_reducible exact SameBut.refl _ _ | decide
    | with_reducible apply frame_zipFinish | split

theorem frame_abortJob {fp : List Part} {u0 : State} (s : State)
    (hfp : [.regs, .streams, .vat, .cmd, .changes, .freeCtr] ⊆ fp) (h0 : SameBut fp u0 s) :
    SameBut fp u0 (abortJob s) := by
  unfold abortJob
  repeat'
    first
    | with_reducible assumption | exact List.Subset.trans (by decide) hfp | with_reducible apply frame_zipEnd
    | with_reducible apply frame_zipCut | split

theorem frame_execAbortJob (p : Path) (s : State) :
    ∃ s', execAbortJob p s = .next s' ∧ SameBut [.regs, .pages, .host, .streams, .vat, .cmd, .changes, .freeCtr] s s'
        := by
  refine ⟨_, rfl, ?_⟩
  repeat'
    first
    | with_reducible assumption | with_reducible exact SameBut.refl _ _ | decide | with_reducible intro _
    | with_reducible apply frame_gated | with_reducible apply frame_abortJob

theorem frame_zipCtrl {fp : List Part} {u0 : State} (s : State) (w : Who) (v : Word)
    (hfp : [.regs, .pages, .host, .streams, .vat, .cmd, .changes, .freeCtr] ⊆ fp) (h0 : SameBut fp u0 s) :
    SameBut fp u0 (zipCtrl s w v) := by
  unfold zipCtrl
  repeat'
    first
    | with_reducible assumption | exact List.Subset.trans (by decide) hfp | with_reducible apply sameBut_ite
    | with_reducible apply frame_abortJob | with_reducible apply frame_refuse

theorem frame_zipInterrupt {fp : List Part} {u0 : State} (s : State)
    (hfp : [.regs, .streams, .vat, .freeCtr] ⊆ fp) (h0 : SameBut fp u0 s) :
    SameBut fp u0 (zipInterrupt s) := by
  unfold zipInterrupt
  repeat'
    first
    | with_reducible assumption | exact List.Subset.trans (by decide) hfp | with_reducible apply frame_evt
    | with_reducible apply frame_bumpSat | with_reducible apply frame_zipCut | split

end Sys2Proof.Machine
end

