-- ==== Sys2Proof/Laws/FrameCmd.lean ====
section
/-!
SUPPORT. What every operation of Machine/Cmd.lean leaves alone (SameBut): one lemma for each operation that answers a state.
-/
set_option linter.all false

namespace Sys2Proof.Machine

theorem frame_transferBegin {fp : List Part} {u0 : State} (s : State) (e : JEntry)
    (hfp : [.regs, .cmd, .changes] ⊆ fp) (h0 : SameBut fp u0 s) :
    SameBut fp u0 (transferBegin s e) := by
  unfold transferBegin
  repeat'
    first
    | with_reducible assumption | exact List.Subset.trans (by decide) hfp | with_reducible apply sameBut_ite
    | with_reducible apply frame_endCmd

theorem frame_execTransferDone (s : State) :
    ∃ s', execTransferDone s = .next s' ∧ SameBut [.regs, .vat, .cmd, .changes] s s' := by
  refine ⟨_, rfl, ?_⟩
  repeat'
    first
    | with_reducible assumption | with_reducible exact SameBut.refl _ _ | decide
    | with_reducible apply frame_endCmd | with_reducible apply frame_vatPutBytes | split

theorem frame_tableBegin {fp : List Part} {u0 : State} (s : State) (e : JEntry)
    (hfp : [.regs, .cmd, .changes] ⊆ fp) (h0 : SameBut fp u0 s) :
    SameBut fp u0 (tableBegin s e) := by
  unfold tableBegin
  repeat'
    first
    | with_reducible assumption | exact List.Subset.trans (by decide) hfp | with_reducible apply sameBut_ite
    | with_reducible apply frame_endCmd

theorem frame_execTableStageDone (s : State) :
    ∃ s', execTableStageDone s = .next s' ∧ SameBut [.regs, .cmd, .engines, .changes] s s' := by
  refine ⟨_, rfl, ?_⟩
  repeat'
    first
    | with_reducible assumption | with_reducible exact SameBut.refl _ _ | decide | with_reducible intro _
    | with_reducible apply sameBut_ite | with_reducible apply frame_stageCopy
    | with_reducible apply frame_onEng | with_reducible apply frame_endCmd
    | with_reducible apply frame_tableEvent | split | dsimp only

theorem frame_startCmd {fp : List Part} {u0 : State} (s : State) (e : JEntry)
    (hfp : [.regs, .cmd, .nv, .changes] ⊆ fp) (h0 : SameBut fp u0 s) :
    SameBut fp u0 (startCmd s e) := by
  unfold startCmd
  dsimp only
  repeat'
    first
    | with_reducible assumption | exact List.Subset.trans (by decide) hfp | with_reducible intro _
    | with_reducible apply sameBut_ite | with_reducible apply frame_onEntry | with_reducible apply frame_endCmd
    | with_reducible apply frame_transferBegin | with_reducible apply frame_zipBegin
    | with_reducible apply frame_tableBegin | with_reducible apply frame_persistentBegin | dsimp only

theorem frame_execCommandExecute (s : State) :
    ∃ s', execCommandExecute s = .next s' ∧ SameBut [.regs, .cmd, .nv, .changes] s s' := by
  refine ⟨_, rfl, ?_⟩
  repeat'
    first
    | with_reducible assumption | with_reducible exact SameBut.refl _ _ | decide
    | with_reducible apply sameBut_ite | with_reducible apply frame_startCmd | split

theorem frame_duskRunning {fp : List Part} {u0 : State} (s : State)
    (hfp : [.regs, .streams, .vat, .cmd, .nv, .fuses, .changes, .freeCtr] ⊆ fp) (h0 : SameBut fp u0 s) :
    SameBut fp u0 (duskRunning s) := by
  unfold duskRunning
  dsimp only
  repeat'
    first
    | with_reducible assumption | exact List.Subset.trans (by decide) hfp | with_reducible intro _
    | with_reducible apply sameBut_ite | with_reducible apply frame_stepDone
    | with_reducible apply frame_endCmd | with_reducible apply frame_onEntry
    | with_reducible apply frame_zipInterrupt | split | dsimp only

theorem frame_duskCommands {fp : List Part} {u0 : State} (s : State)
    (hfp : [.regs, .streams, .vat, .cmd, .nv, .fuses, .changes, .freeCtr] ⊆ fp) (h0 : SameBut fp u0 s) :
    SameBut fp u0 (duskCommands s) := by
  unfold duskCommands
  dsimp only
  repeat'
    first
    | with_reducible assumption | exact List.Subset.trans (by decide) hfp | with_reducible intro _
    | with_reducible apply sameBut_ite | with_reducible apply frame_duskRunning
    | with_reducible apply SameBut.set_cmd | dsimp only

theorem frame_cmdReset {fp : List Part} {u0 : State} (s : State)
    (hfp : [.regs, .streams, .vat, .cmd, .fuses, .freeCtr] ⊆ fp) (h0 : SameBut fp u0 s) :
    SameBut fp u0 (cmdReset s) := by
  unfold cmdReset
  repeat'
    first
    | with_reducible assumption | exact List.Subset.trans (by decide) hfp
    | with_reducible apply frame_journalReset | with_reducible apply frame_nvInterrupt
    | with_reducible apply frame_zipInterrupt

end Sys2Proof.Machine
end

