-- ==== Sys2Proof/Laws/FrameEdge.lean ====
section
/-!
SUPPORT. What every operation of Machine/Edge.lean leaves alone (SameBut): one lemma for each operation that answers a state.
-/
set_option linter.all false

namespace Sys2Proof.Machine

theorem frame_onEdge {fp : List Part} {u0 : State} (s : State) (n : Nat) (f : EdgeState → EdgeState)
    (hfp : [.edges] ⊆ fp) (h0 : SameBut fp u0 s) :
    SameBut fp u0 (onEdge s n f) := by
  unfold onEdge
  repeat'
    first
    | with_reducible assumption | exact List.Subset.trans (by decide) hfp
    | with_reducible apply SameBut.set_edges

theorem frame_edgeDeliver {fp : List Part} {u0 : State} (s : State) (n idx : Nat) (w : Word) (lost : Bool)
    (hfp : [.regs, .streams] ⊆ fp) (h0 : SameBut fp u0 s) :
    SameBut fp u0 (edgeDeliver s n idx w lost) := by
  unfold edgeDeliver
  repeat'
    first
    | with_reducible assumption | exact List.Subset.trans (by decide) hfp
    | with_reducible apply frame_feedStreams

theorem frame_enqueue {fp : List Part} {u0 : State} (s : State) (n idx item : Nat) (val : Option Int) (clip : Bool)
    (ecc : WordErr)
    (hfp : [.regs, .edges] ⊆ fp) (h0 : SameBut fp u0 s) :
    SameBut fp u0 (enqueue s n idx item val clip ecc) := by
  unfold enqueue
  dsimp only
  repeat'
    first
    | with_reducible assumption | exact List.Subset.trans (by decide) hfp | with_reducible intro _
    | with_reducible apply sameBut_ite | with_reducible apply frame_evt | with_reducible apply frame_onEdge
    | split | dsimp only

theorem frame_drainEdge {fp : List Part} {u0 : State} (s : State) (n : Nat)
    (hfp : [.regs, .queueEcc, .streams, .edges, .freeCtr] ⊆ fp) (h0 : SameBut fp u0 s) :
    SameBut fp u0 (drainEdge s n) := by
  unfold drainEdge
  dsimp only
  repeat'
    first
    | with_reducible assumption | exact List.Subset.trans (by decide) hfp | with_reducible intro _
    | with_reducible apply sameBut_ite | with_reducible apply frame_fromQueue
    | with_reducible apply frame_onEdge | with_reducible apply frame_edgeDeliver | split | dsimp only

theorem frame_tickEdges {fp : List Part} {u0 : State} (s : State)
    (hfp : [.regs, .queueEcc, .streams, .edges, .freeCtr] ⊆ fp) (h0 : SameBut fp u0 s) :
    SameBut fp u0 (tickEdges s) := by
  unfold tickEdges
  repeat'
    first
    | with_reducible assumption | exact List.Subset.trans (by decide) hfp | with_reducible intro _
    | with_reducible apply sameBut_ite | with_reducible apply sameBut_foldl
    | with_reducible apply frame_drainEdge

theorem frame_queueEdge {fp : List Part} {u0 : State} (s : State) (n i : Nat) (falling : Bool) (t : Nat) (ecc :
    WordErr)
    (hfp : [.regs, .edges] ⊆ fp) (h0 : SameBut fp u0 s) :
    SameBut fp u0 (queueEdge s n i falling t ecc) := by
  unfold queueEdge
  dsimp only
  repeat'
    first
    | with_reducible assumption | exact List.Subset.trans (by decide) hfp | with_reducible apply sameBut_ite
    | with_reducible apply frame_enqueue | dsimp only

theorem frame_edgeError {fp : List Part} {u0 : State} (s : State) (n : Nat) (quad : Bool)
    (hfp : [.regs, .edges] ⊆ fp) (h0 : SameBut fp u0 s) :
    SameBut fp u0 (edgeError s n quad) := by
  unfold edgeError
  repeat'
    first
    | with_reducible assumption | exact List.Subset.trans (by decide) hfp | with_reducible intro _
    | with_reducible apply frame_evt | with_reducible apply frame_onEdge | dsimp only

theorem frame_countEdge {fp : List Part} {u0 : State} (s : State) (n t : Nat) (up : Bool)
    (hfp : [.edges] ⊆ fp) (h0 : SameBut fp u0 s) :
    SameBut fp u0 (countEdge s n t up) := by
  unfold countEdge
  dsimp only
  repeat'
    first
    | with_reducible assumption | exact List.Subset.trans (by decide) hfp | with_reducible intro _
    | with_reducible apply sameBut_ite | with_reducible apply frame_onEdge | dsimp only

theorem frame_zEdge {fp : List Part} {u0 : State} (s : State) (n t : Nat)
    (hfp : [.regs, .edges] ⊆ fp) (h0 : SameBut fp u0 s) :
    SameBut fp u0 (zEdge s n t) := by
  unfold zEdge
  dsimp only
  repeat'
    first
    | with_reducible assumption | exact List.Subset.trans (by decide) hfp | with_reducible intro _
    | with_reducible apply sameBut_ite | with_reducible apply frame_onEdge | with_reducible apply frame_evt
    | dsimp only

theorem frame_endInterval {fp : List Part} {u0 : State} (s : State) (n : Nat) (stop : Option Nat) (ecc : WordErr)
    (hfp : [.regs, .edges] ⊆ fp) (h0 : SameBut fp u0 s) :
    SameBut fp u0 (endInterval s n stop ecc) := by
  unfold endInterval
  dsimp only
  repeat'
    first
    | with_reducible assumption | exact List.Subset.trans (by decide) hfp | with_reducible intro _
    | with_reducible apply sameBut_ite | with_reducible apply frame_onEdge
    | with_reducible apply frame_countEdge | with_reducible apply frame_enqueue | split | dsimp only

theorem frame_ignoredEdge {fp : List Part} {u0 : State} (s : State) (n : Nat)
    (hfp : [.edges] ⊆ fp) (h0 : SameBut fp u0 s) :
    SameBut fp u0 (ignoredEdge s n) := by
  unfold ignoredEdge
  repeat'
    first
    | with_reducible assumption | exact List.Subset.trans (by decide) hfp | with_reducible intro _
    | with_reducible apply frame_onEdge | dsimp only

theorem frame_quadEdge {fp : List Part} {u0 : State} (s : State) (n : Nat) (inp t : Nat) (a b together : Bool)
    (hfp : [.regs, .edges] ⊆ fp) (h0 : SameBut fp u0 s) :
    SameBut fp u0 (quadEdge s n inp t a b together) := by
  unfold quadEdge
  dsimp only
  repeat'
    first
    | with_reducible assumption | exact List.Subset.trans (by decide) hfp | with_reducible intro _
    | with_reducible apply sameBut_ite | with_reducible apply frame_onEdge
    | with_reducible apply frame_edgeError | with_reducible apply frame_countEdge | dsimp only

theorem frame_encEdge {fp : List Part} {u0 : State} (s : State) (n : Nat) (x : EncEdge)
    (hfp : [.regs, .edges] ⊆ fp) (h0 : SameBut fp u0 s) :
    SameBut fp u0 (encEdge s n x) := by
  unfold encEdge
  dsimp only
  repeat'
    first
    | with_reducible assumption | exact List.Subset.trans (by decide) hfp | with_reducible intro _
    | with_reducible apply sameBut_ite | with_reducible apply frame_quadEdge | with_reducible apply frame_zEdge
    | with_reducible apply frame_queueEdge | with_reducible apply frame_countEdge
    | with_reducible apply frame_ignoredEdge | with_reducible apply frame_onEdge
    | with_reducible apply frame_endInterval | split | dsimp only

theorem frame_execEncEdge (ch : Fin 64) (e : EncEdge) (s : State) :
    ∃ s', execEncEdge ch e s = .next s' ∧ SameBut [.regs, .edges] s s' := by
  refine ⟨_, rfl, ?_⟩
  repeat'
    first
    | with_reducible assumption | with_reducible exact SameBut.refl _ _ | decide
    | with_reducible apply frame_encEdge

theorem frame_execIntervalTimeout (ch : Fin 64) (s : State) :
    ∃ s', execIntervalTimeout ch s = .next s' ∧ SameBut [.regs, .edges] s s' := by
  refine ⟨_, rfl, ?_⟩
  repeat'
    first
    | with_reducible assumption | with_reducible exact SameBut.refl _ _ | decide | with_reducible intro _
    | with_reducible apply frame_when | with_reducible apply frame_evt | with_reducible apply frame_endInterval
    | dsimp only

theorem frame_execEdgePositionRecord (ch : Fin 64) (s : State) :
    ∃ s', execEdgePositionRecord ch s = .next s' ∧ SameBut [.regs, .streams, .edges] s s' := by
  refine ⟨_, rfl, ?_⟩
  repeat'
    first
    | with_reducible assumption | with_reducible exact SameBut.refl _ _ | decide | with_reducible intro _
    | with_reducible apply frame_when | with_reducible apply frame_onEdge
    | with_reducible apply frame_edgeDeliver | dsimp only

theorem frame_execSsiTransfer (ch : Fin 64) (s : State) :
    ∃ s', execSsiTransfer ch s = .next s' ∧ SameBut [.gc, .edges] s s' := by
  refine ⟨_, rfl, ?_⟩
  repeat'
    first
    | with_reducible assumption | with_reducible exact SameBut.refl _ _ | decide | with_reducible intro _
    | with_reducible apply sameBut_ite | with_reducible apply frame_when | with_reducible apply frame_onGc
    | with_reducible apply frame_ignoredEdge | with_reducible apply frame_onEdge | dsimp only

theorem frame_execSsiTransferDone (ch : Fin 64) (idleHigh : Bool) (bits : List Bool) (s : State) :
    ∃ s', execSsiTransferDone ch idleHigh bits s = .next s' ∧ SameBut [.regs, .edges] s s' := by
  refine ⟨_, rfl, ?_⟩
  repeat'
    first
    | with_reducible assumption | with_reducible exact SameBut.refl _ _ | decide | with_reducible intro _
    | with_reducible apply sameBut_ite | with_reducible apply sameBut_foldl | with_reducible apply frame_onEdge
    | with_reducible apply frame_edgeError | split | dsimp only

theorem frame_execInterpolatorTable (ch : Fin 64) (input : Fin 3) (s : State) (hits : List Nat) :
    ∃ s', execInterpolatorTable ch input s hits = .next s' ∧ SameBut [.regs, .edges] s s' := by
  refine ⟨_, rfl, ?_⟩
  repeat'
    first
    | with_reducible assumption | with_reducible exact SameBut.refl _ _ | decide | with_reducible intro _
    | with_reducible apply sameBut_ite | with_reducible apply frame_evtIf | with_reducible apply frame_onEdge
    | dsimp only

theorem frame_armReference {fp : List Part} {u0 : State} (s : State) (n : Nat)
    (hfp : [.edges] ⊆ fp) (h0 : SameBut fp u0 s) :
    SameBut fp u0 (armReference s n) := by
  unfold armReference
  repeat'
    first
    | with_reducible assumption | exact List.Subset.trans (by decide) hfp | with_reducible intro _
    | with_reducible apply frame_onEdge | dsimp only

theorem frame_execArmReference (p : Path) (ch : Fin 64) (s : State) :
    ∃ s', execArmReference p ch s = .next s' ∧ SameBut [.regs, .pages, .host, .edges] s s' := by
  refine ⟨_, rfl, ?_⟩
  repeat'
    first
    | with_reducible assumption | with_reducible exact SameBut.refl _ _ | decide | with_reducible intro _
    | with_reducible apply frame_gated | with_reducible apply frame_armReference | dsimp only

theorem frame_loadPreset {fp : List Part} {u0 : State} (s : State) (n : Nat)
    (hfp : [.edges] ⊆ fp) (h0 : SameBut fp u0 s) :
    SameBut fp u0 (loadPreset s n) := by
  unfold loadPreset
  dsimp only
  repeat'
    first
    | with_reducible assumption | exact List.Subset.trans (by decide) hfp | with_reducible intro _
    | with_reducible apply frame_onEdge | dsimp only

theorem frame_execLoadPreset (p : Path) (ch : Fin 64) (s : State) :
    ∃ s', execLoadPreset p ch s = .next s' ∧ SameBut [.regs, .pages, .host, .edges] s s' := by
  refine ⟨_, rfl, ?_⟩
  repeat'
    first
    | with_reducible assumption | with_reducible exact SameBut.refl _ _ | decide | with_reducible intro _
    | with_reducible apply frame_gated | with_reducible apply frame_loadPreset | dsimp only

theorem frame_clearCounters {fp : List Part} {u0 : State} (s : State) (n : Nat)
    (hfp : [.edges] ⊆ fp) (h0 : SameBut fp u0 s) :
    SameBut fp u0 (clearCounters s n) := by
  unfold clearCounters
  repeat'
    first
    | with_reducible assumption | exact List.Subset.trans (by decide) hfp | with_reducible intro _
    | with_reducible apply frame_onEdge | dsimp only

theorem frame_execClearCounters (p : Path) (ch : Fin 64) (s : State) :
    ∃ s', execClearCounters p ch s = .next s' ∧ SameBut [.regs, .pages, .host, .edges] s s' := by
  refine ⟨_, rfl, ?_⟩
  repeat'
    first
    | with_reducible assumption | with_reducible exact SameBut.refl _ _ | decide | with_reducible intro _
    | with_reducible apply frame_gated | with_reducible apply frame_clearCounters | dsimp only

theorem frame_edgeCtrl {fp : List Part} {u0 : State} (s : State) (w : Who) (p : Nat) (v : Word)
    (hfp : [.regs, .pages, .host, .edges] ⊆ fp) (h0 : SameBut fp u0 s) :
    SameBut fp u0 (edgeCtrl s w p v) := by
  unfold edgeCtrl
  dsimp only
  repeat'
    first
    | with_reducible assumption | exact List.Subset.trans (by decide) hfp
    | with_reducible apply frame_armReference | with_reducible apply frame_loadPreset
    | with_reducible apply frame_clearCounters | with_reducible apply frame_refuse | split | dsimp only

theorem frame_edgeBoundary {fp : List Part} {u0 : State} (s : State) (n idx : Nat)
    (hfp : [.edges] ⊆ fp) (h0 : SameBut fp u0 s) :
    SameBut fp u0 (edgeBoundary s n idx) := by
  unfold edgeBoundary
  dsimp only
  repeat'
    first
    | with_reducible assumption | exact List.Subset.trans (by decide) hfp | with_reducible intro _
    | with_reducible apply frame_onEdge | dsimp only

theorem frame_edgeCommitted {fp : List Part} {u0 : State} (s0 s : State) (p : Nat)
    (hfp : [.gc, .edges] ⊆ fp) (h0 : SameBut fp u0 s) :
    SameBut fp u0 (edgeCommitted s0 s p) := by
  unfold edgeCommitted
  dsimp only
  repeat'
    first
    | with_reducible assumption | exact List.Subset.trans (by decide) hfp | with_reducible intro _
    | with_reducible apply sameBut_ite | with_reducible apply sameBut_foldl | with_reducible apply frame_onEdge
    | with_reducible apply frame_onGc | dsimp only

end Sys2Proof.Machine
end

