-- ==== Sys2Proof/Laws/FrameSafe.lean ====
section
/-!
SUPPORT. What every operation of Machine/Safe.lean leaves alone (SameBut): one lemma for each operation that answers a state.
-/
set_option linter.all false

namespace Sys2Proof.Machine

theorem frame_onSafe {fp : List Part} {u0 : State} (s : State) (f : SafeState → SafeState)
    (hfp : [.safe] ⊆ fp) (h0 : SameBut fp u0 s) :
    SameBut fp u0 (onSafe s f) := by
  unfold onSafe
  repeat'
    first
    | with_reducible assumption | exact List.Subset.trans (by decide) hfp
    | with_reducible apply SameBut.set_safe

theorem frame_onPair {fp : List Part} {u0 : State} (s : State) (k : Nat) (f : SafePair → SafePair)
    (hfp : [.safe] ⊆ fp) (h0 : SameBut fp u0 s) :
    SameBut fp u0 (onPair s k f) := by
  unfold onPair
  repeat'
    first
    | with_reducible assumption | exact List.Subset.trans (by decide) hfp | with_reducible intro _
    | with_reducible apply frame_onSafe | dsimp only

theorem frame_onOut {fp : List Part} {u0 : State} (s : State) (x : Nat) (f : SafeOut → SafeOut)
    (hfp : [.safe] ⊆ fp) (h0 : SameBut fp u0 s) :
    SameBut fp u0 (onOut s x f) := by
  unfold onOut
  repeat'
    first
    | with_reducible assumption | exact List.Subset.trans (by decide) hfp | with_reducible intro _
    | with_reducible apply frame_onSafe | dsimp only

theorem frame_onMon {fp : List Part} {u0 : State} (s : State) (m : Nat) (f : SafeMon → SafeMon)
    (hfp : [.safe] ⊆ fp) (h0 : SameBut fp u0 s) :
    SameBut fp u0 (onMon s m f) := by
  unfold onMon
  repeat'
    first
    | with_reducible assumption | exact List.Subset.trans (by decide) hfp | with_reducible intro _
    | with_reducible apply frame_onSafe | dsimp only

theorem frame_onConn {fp : List Part} {u0 : State} (s : State) (c : Nat) (f : SafeConn → SafeConn)
    (hfp : [.safe] ⊆ fp) (h0 : SameBut fp u0 s) :
    SameBut fp u0 (onConn s c f) := by
  unfold onConn
  repeat'
    first
    | with_reducible assumption | exact List.Subset.trans (by decide) hfp | with_reducible intro _
    | with_reducible apply frame_onSafe | dsimp only

theorem frame_safeMark {fp : List Part} {u0 : State} (s : State) (i : Nat)
    (hfp : [.regs] ⊆ fp) (h0 : SameBut fp u0 s) :
    SameBut fp u0 (safeMark s i) := by
  unfold safeMark
  repeat'
    first
    | with_reducible assumption | exact List.Subset.trans (by decide) hfp | with_reducible apply frame_evt
    | with_reducible apply frame_wr

theorem frame_safeFault {fp : List Part} {u0 : State} (s : State) (i : Nat)
    (hfp : [.regs] ⊆ fp) (h0 : SameBut fp u0 s) :
    SameBut fp u0 (safeFault s i) := by
  unfold safeFault
  repeat'
    first
    | with_reducible assumption | exact List.Subset.trans (by decide) hfp | with_reducible apply frame_faultSrc
    | with_reducible apply frame_safeMark

theorem frame_startSs1 {fp : List Part} {u0 : State} (s : State) (x : Nat)
    (hfp : [.regs, .safe] ⊆ fp) (h0 : SameBut fp u0 s) :
    SameBut fp u0 (startSs1 s x) := by
  unfold startSs1
  dsimp only
  repeat'
    first
    | with_reducible assumption | exact List.Subset.trans (by decide) hfp | with_reducible intro _
    | with_reducible apply sameBut_ite | with_reducible apply frame_evt | with_reducible apply frame_onOut
    | dsimp only

theorem frame_demandSeen {fp : List Part} {u0 : State} (s : State) (x : Nat)
    (hfp : [.regs, .safe] ⊆ fp) (h0 : SameBut fp u0 s) :
    SameBut fp u0 (demandSeen s x) := by
  unfold demandSeen
  dsimp only
  repeat'
    first
    | with_reducible assumption | exact List.Subset.trans (by decide) hfp | with_reducible intro _
    | with_reducible apply sameBut_ite | with_reducible apply frame_onOut | with_reducible apply frame_startSs1
    | dsimp only

theorem frame_allDemands {fp : List Part} {u0 : State} (s : State)
    (hfp : [.regs, .safe] ⊆ fp) (h0 : SameBut fp u0 s) :
    SameBut fp u0 (allDemands s) := by
  unfold allDemands
  repeat'
    first
    | with_reducible assumption | exact List.Subset.trans (by decide) hfp | with_reducible intro _
    | with_reducible apply sameBut_foldl | with_reducible apply frame_demandSeen

theorem frame_resetPulse {fp : List Part} {u0 : State} (s : State) (k : Nat)
    (hfp : [.safe] ⊆ fp) (h0 : SameBut fp u0 s) :
    SameBut fp u0 (resetPulse s k) := by
  unfold resetPulse
  repeat'
    first
    | with_reducible assumption | exact List.Subset.trans (by decide) hfp | with_reducible intro _
    | with_reducible apply sameBut_ite | with_reducible apply sameBut_foldl | with_reducible apply frame_onOut
    | dsimp only

theorem frame_pairChanged {fp : List Part} {u0 : State} (s : State) (k : Nat)
    (hfp : [.regs, .safe] ⊆ fp) (h0 : SameBut fp u0 s) :
    SameBut fp u0 (pairChanged s k) := by
  unfold pairChanged
  dsimp only
  repeat'
    first
    | with_reducible assumption | exact List.Subset.trans (by decide) hfp | with_reducible intro _
    | with_reducible apply sameBut_ite | with_reducible apply frame_onPair
    | with_reducible apply frame_resetPulse | with_reducible apply frame_allDemands | split | dsimp only

theorem frame_safeInput {fp : List Part} {u0 : State} (s : State) (i : Nat) (level : Bool)
    (hfp : [.regs, .safe] ⊆ fp) (h0 : SameBut fp u0 s) :
    SameBut fp u0 (safeInput s i level) := by
  unfold safeInput
  dsimp only
  repeat'
    first
    | with_reducible assumption | exact List.Subset.trans (by decide) hfp | with_reducible intro _
    | with_reducible apply sameBut_ite | with_reducible apply frame_onSafe
    | with_reducible apply frame_pairChanged | dsimp only

theorem frame_execSafeInput (i : Fin 16) (level : Bool) (s : State) :
    ∃ s', execSafeInput i level s = .next s' ∧ SameBut [.regs, .safe] s s' := by
  refine ⟨_, rfl, ?_⟩
  repeat'
    first
    | with_reducible assumption | with_reducible exact SameBut.refl _ _ | decide
    | with_reducible apply frame_safeInput

theorem frame_execDiscrepancy (k : Fin 8) (s : State) :
    ∃ s', execDiscrepancy k s = .next s' ∧ SameBut [.regs, .safe] s s' := by
  refine ⟨_, rfl, ?_⟩
  repeat'
    first
    | with_reducible assumption | with_reducible exact SameBut.refl _ _ | decide | with_reducible intro _
    | with_reducible apply frame_when | with_reducible apply frame_allDemands
    | with_reducible apply frame_safeFault | with_reducible apply frame_onPair | dsimp only

theorem frame_execTestPulse (k : Fin 4) (s : State) :
    ∃ s', execTestPulse k s = .next s' ∧ SameBut [.safe] s s' := by
  refine ⟨_, rfl, ?_⟩
  repeat'
    first
    | with_reducible assumption | with_reducible exact SameBut.refl _ _ | decide | with_reducible intro _
    | with_reducible apply sameBut_foldl | with_reducible apply frame_when | with_reducible apply frame_onSafe
    | dsimp only

theorem frame_execTestPulseEnd (k : Fin 4) (s : State) :
    ∃ s', execTestPulseEnd k s = .next s' ∧ SameBut [.regs, .safe] s s' := by
  refine ⟨_, rfl, ?_⟩
  repeat'
    first
    | with_reducible assumption | with_reducible exact SameBut.refl _ _ | decide | with_reducible intro _
    | with_reducible apply sameBut_ite | with_reducible apply sameBut_foldl | with_reducible apply frame_when
    | with_reducible apply frame_onSafe | with_reducible apply frame_allDemands
    | with_reducible apply frame_safeFault | with_reducible apply frame_onPair | dsimp only

theorem frame_execPulseHoldEnd (k : Fin 4) (s : State) :
    ∃ s', execPulseHoldEnd k s = .next s' ∧ SameBut [.regs, .safe] s s' := by
  refine ⟨_, rfl, ?_⟩
  repeat'
    first
    | with_reducible assumption | with_reducible exact SameBut.refl _ _ | decide | with_reducible intro _
    | with_reducible apply sameBut_ite | with_reducible apply sameBut_foldl | with_reducible apply frame_when
    | with_reducible apply frame_pairChanged | with_reducible apply frame_onSafe | dsimp only

theorem frame_outOff {fp : List Part} {u0 : State} (s : State) (x : Nat) (demand : Bool)
    (hfp : [.regs, .safe] ⊆ fp) (h0 : SameBut fp u0 s) :
    SameBut fp u0 (outOff s x demand) := by
  unfold outOff
  repeat'
    first
    | with_reducible assumption | exact List.Subset.trans (by decide) hfp | with_reducible intro _
    | with_reducible apply sameBut_ite | with_reducible apply frame_evtIf | with_reducible apply frame_onOut
    | dsimp only

theorem frame_countSlow {fp : List Part} {u0 : State} (s : State) (x : Nat)
    (hfp : [.safe] ⊆ fp) (h0 : SameBut fp u0 s) :
    SameBut fp u0 (countSlow s x) := by
  unfold countSlow
  dsimp only
  repeat'
    first
    | with_reducible assumption | exact List.Subset.trans (by decide) hfp | with_reducible intro _
    | with_reducible apply sameBut_ite | with_reducible apply frame_onOut | dsimp only

theorem frame_outCycle {fp : List Part} {u0 : State} (s : State) (x : Nat)
    (hfp : [.regs, .safe] ⊆ fp) (h0 : SameBut fp u0 s) :
    SameBut fp u0 (outCycle s x) := by
  unfold outCycle
  dsimp only
  repeat'
    first
    | with_reducible assumption | exact List.Subset.trans (by decide) hfp | with_reducible intro _
    | with_reducible apply sameBut_ite | with_reducible apply frame_countSlow
    | with_reducible apply frame_demandSeen | with_reducible apply frame_onOut
    | with_reducible apply frame_outOff | with_reducible apply frame_evt | dsimp only

theorem frame_monCycle {fp : List Part} {u0 : State} (s : State) (m : Nat)
    (hfp : [.regs, .safe] ⊆ fp) (h0 : SameBut fp u0 s) :
    SameBut fp u0 (monCycle s m) := by
  unfold monCycle
  dsimp only
  repeat'
    first
    | with_reducible assumption | exact List.Subset.trans (by decide) hfp | with_reducible intro _
    | with_reducible apply sameBut_ite | with_reducible apply frame_onMon | with_reducible apply frame_safeMark
    | split | dsimp only

theorem frame_sfcCycle {fp : List Part} {u0 : State} (s : State) (flowOk cfgOk : Bool)
    (hfp : [.regs, .safe] ⊆ fp) (h0 : SameBut fp u0 s) :
    SameBut fp u0 (sfcCycle s flowOk cfgOk) := by
  unfold sfcCycle
  dsimp only
  repeat'
    first
    | with_reducible assumption | exact List.Subset.trans (by decide) hfp | with_reducible intro _
    | with_reducible apply sameBut_ite | with_reducible apply sameBut_foldl | with_reducible apply frame_onSafe
    | with_reducible apply frame_safeFault | with_reducible apply frame_monCycle
    | with_reducible apply frame_outCycle | dsimp only

theorem frame_execSfcCycle (flowOk cfgOk : Bool) (s : State) :
    ∃ s', execSfcCycle flowOk cfgOk s = .next s' ∧ SameBut [.regs, .safe] s s' := by
  refine ⟨_, rfl, ?_⟩
  repeat'
    first
    | with_reducible assumption | with_reducible exact SameBut.refl _ _ | decide | with_reducible intro _
    | with_reducible apply frame_when | with_reducible apply frame_sfcCycle | dsimp only

theorem frame_lifeLost {fp : List Part} {u0 : State} (s : State)
    (hfp : [.regs, .safe] ⊆ fp) (h0 : SameBut fp u0 s) :
    SameBut fp u0 (lifeLost s) := by
  unfold lifeLost
  dsimp only
  repeat'
    first
    | with_reducible assumption | exact List.Subset.trans (by decide) hfp | with_reducible intro _
    | with_reducible apply sameBut_foldl | with_reducible apply frame_safeFault
    | with_reducible apply frame_onSafe | with_reducible apply frame_outOff | dsimp only

theorem frame_execSfcSelfTest (ok : Bool) (s : State) :
    ∃ s', execSfcSelfTest ok s = .next s' ∧ SameBut [.regs, .safe] s s' := by
  refine ⟨_, rfl, ?_⟩
  repeat'
    first
    | with_reducible assumption | with_reducible exact SameBut.refl _ _ | decide | with_reducible intro _
    | with_reducible apply frame_when | with_reducible apply frame_lifeLost

theorem frame_execLifeSignalLost (s : State) :
    ∃ s', execLifeSignalLost s = .next s' ∧ SameBut [.regs, .safe] s s' := by
  refine ⟨_, rfl, ?_⟩
  repeat'
    first
    | with_reducible assumption | with_reducible exact SameBut.refl _ _ | decide | with_reducible intro _
    | with_reducible apply frame_when | with_reducible apply frame_lifeLost

theorem frame_execSwitchTest (x : Fin 4) (s : State) :
    ∃ s', execSwitchTest x s = .next s' ∧ SameBut [.safe] s s' := by
  refine ⟨_, rfl, ?_⟩
  repeat'
    first
    | with_reducible assumption | with_reducible exact SameBut.refl _ _ | decide | with_reducible intro _
    | with_reducible apply frame_when | with_reducible apply frame_onOut | dsimp only

theorem frame_execSwitchTestEnd (x : Fin 4) (s : State) :
    ∃ s', execSwitchTestEnd x s = .next s' ∧ SameBut [.regs, .safe] s s' := by
  refine ⟨_, rfl, ?_⟩
  repeat'
    first
    | with_reducible assumption | with_reducible exact SameBut.refl _ _ | decide | with_reducible intro _
    | with_reducible apply sameBut_ite | with_reducible apply frame_when | with_reducible apply frame_outOff
    | with_reducible apply frame_onOut | dsimp only

theorem frame_execSwitchReadback (x : Fin 4) (high level : Bool) (s : State) :
    ∃ s', execSwitchReadback x high level s = .next s' ∧ SameBut [.safe] s s' := by
  refine ⟨_, rfl, ?_⟩
  repeat'
    first
    | with_reducible assumption | with_reducible exact SameBut.refl _ _ | decide | with_reducible intro _
    | with_reducible apply sameBut_ite | with_reducible apply frame_onOut | dsimp only

theorem frame_execReadbackFault (x : Fin 4) (high : Bool) (s : State) :
    ∃ s', execReadbackFault x high s = .next s' ∧ SameBut [.regs, .safe] s s' := by
  refine ⟨_, rfl, ?_⟩
  repeat'
    first
    | with_reducible assumption | with_reducible exact SameBut.refl _ _ | decide | with_reducible intro _
    | with_reducible apply sameBut_ite | with_reducible apply frame_when | with_reducible apply frame_safeFault
    | with_reducible apply frame_outOff | dsimp only

theorem frame_execSs1Expiry (x : Fin 4) (s : State) :
    ∃ s', execSs1Expiry x s = .next s' ∧ SameBut [.regs, .safe] s s' := by
  refine ⟨_, rfl, ?_⟩
  repeat'
    first
    | with_reducible assumption | with_reducible exact SameBut.refl _ _ | decide | with_reducible intro _
    | with_reducible apply frame_when | with_reducible apply frame_outOff | dsimp only

theorem frame_execSafeframeSend (c : Fin 32) (s : State) :
    ∃ s', execSafeframeSend c s = .next s' ∧ SameBut [.regs, .ring, .sent, .safe] s s' := by
  refine ⟨_, rfl, ?_⟩
  repeat'
    first
    | with_reducible assumption | with_reducible exact SameBut.refl _ _ | decide | with_reducible intro _
    | with_reducible apply sameBut_ite | with_reducible apply frame_when | with_reducible apply frame_failSafe
    | with_reducible apply frame_sendRing | with_reducible apply frame_onConn | dsimp only

theorem frame_failSafe {fp : List Part} {u0 : State} (s : State) (c cause : Nat)
    (hfp : [.regs, .safe] ⊆ fp) (h0 : SameBut fp u0 s) :
    SameBut fp u0 (failSafe s c cause) := by
  unfold failSafe
  repeat'
    first
    | with_reducible assumption | exact List.Subset.trans (by decide) hfp | with_reducible intro _
    | with_reducible apply sameBut_ite | with_reducible apply frame_allDemands | with_reducible apply frame_evt
    | with_reducible apply frame_onConn | dsimp only

theorem frame_sfDiscard {fp : List Part} {u0 : State} (s : State) (c : Nat) (f : SafeConn → SafeConn)
    (hfp : [.safe] ⊆ fp) (h0 : SameBut fp u0 s) :
    SameBut fp u0 (sfDiscard s c f) := by
  unfold sfDiscard
  repeat'
    first
    | with_reducible assumption | exact List.Subset.trans (by decide) hfp | with_reducible intro _
    | with_reducible apply frame_onConn | dsimp only

theorem frame_safeFrame {fp : List Part} {u0 : State} (s : State) (c : Nat) (m : SafeMsg)
    (hfp : [.regs, .safe] ⊆ fp) (h0 : SameBut fp u0 s) :
    SameBut fp u0 (safeFrame s c m) := by
  unfold safeFrame
  dsimp only
  repeat'
    first
    | with_reducible assumption | exact List.Subset.trans (by decide) hfp | with_reducible intro _
    | with_reducible apply sameBut_ite | with_reducible apply frame_sfDiscard
    | with_reducible apply frame_failSafe | with_reducible apply frame_onConn
    | with_reducible apply frame_allDemands | split | dsimp only

theorem frame_execSafeframe (c : Fin 32) (m : SafeMsg) (s : State) :
    ∃ s', execSafeframe c m s = .next s' ∧ SameBut [.regs, .safe] s s' := by
  refine ⟨_, rfl, ?_⟩
  repeat'
    first
    | with_reducible assumption | with_reducible exact SameBut.refl _ _ | decide | with_reducible intro _
    | with_reducible apply frame_when | with_reducible apply frame_safeFrame | dsimp only

theorem frame_safeFrameRx {fp : List Part} {u0 : State} (s : State) (m : SafeMsg)
    (hfp : [.regs, .safe] ⊆ fp) (h0 : SameBut fp u0 s) :
    SameBut fp u0 (safeFrameRx s m) := by
  unfold safeFrameRx
  repeat'
    first
    | with_reducible assumption | exact List.Subset.trans (by decide) hfp | with_reducible intro _
    | with_reducible apply sameBut_ite | with_reducible apply sameBut_foldl
    | with_reducible apply frame_safeFrame | dsimp only

theorem frame_execSafeframeWatchdog (c : Fin 32) (s : State) :
    ∃ s', execSafeframeWatchdog c s = .next s' ∧ SameBut [.regs, .safe] s s' := by
  refine ⟨_, rfl, ?_⟩
  repeat'
    first
    | with_reducible assumption | with_reducible exact SameBut.refl _ _ | decide | with_reducible intro _
    | with_reducible apply frame_when | with_reducible apply frame_failSafe | dsimp only

theorem frame_resetFaults {fp : List Part} {u0 : State} (s : State)
    (hfp : [.regs, .safe] ⊆ fp) (h0 : SameBut fp u0 s) :
    SameBut fp u0 (resetFaults s) := by
  unfold resetFaults
  dsimp only
  repeat'
    first
    | with_reducible assumption | exact List.Subset.trans (by decide) hfp | with_reducible intro _
    | with_reducible apply sameBut_ite | with_reducible apply sameBut_foldl
    | with_reducible apply frame_clearBlock | with_reducible apply frame_wr | with_reducible apply frame_onOut
    | dsimp only

theorem frame_resetConnection {fp : List Part} {u0 : State} (s : State) (c : Nat)
    (hfp : [.safe] ⊆ fp) (h0 : SameBut fp u0 s) :
    SameBut fp u0 (resetConnection s c) := by
  unfold resetConnection
  repeat'
    first
    | with_reducible assumption | exact List.Subset.trans (by decide) hfp | with_reducible intro _
    | with_reducible apply sameBut_ite | with_reducible apply frame_onConn | dsimp only

theorem frame_safeCtrl {fp : List Part} {u0 : State} (s : State) (w : Who) (v : Word)
    (hfp : [.regs, .pages, .host, .safe] ⊆ fp) (h0 : SameBut fp u0 s) :
    SameBut fp u0 (safeCtrl s w v) := by
  unfold safeCtrl
  repeat'
    first
    | with_reducible assumption | exact List.Subset.trans (by decide) hfp
    | with_reducible apply frame_resetFaults | with_reducible apply frame_resetConnection
    | with_reducible apply frame_refuse | split

theorem frame_execResetFaults (p : Path) (s : State) :
    ∃ s', execResetFaults p s = .next s' ∧ SameBut [.regs, .pages, .host, .changes, .safe] s s' := by
  refine ⟨_, rfl, ?_⟩
  repeat'
    first
    | with_reducible assumption | with_reducible exact SameBut.refl _ _ | decide | with_reducible intro _
    | with_reducible apply frame_hostAct | with_reducible apply frame_resetFaults

theorem frame_execResetConnection (p : Path) (c : Fin 32) (s : State) :
    ∃ s', execResetConnection p c s = .next s' ∧ SameBut [.regs, .pages, .host, .changes, .safe] s s' := by
  refine ⟨_, rfl, ?_⟩
  repeat'
    first
    | with_reducible assumption | with_reducible exact SameBut.refl _ _ | decide | with_reducible intro _
    | with_reducible apply frame_hostAct | with_reducible apply frame_resetConnection | dsimp only

theorem frame_safeCommitted {fp : List Part} {u0 : State} (s0 s : State)
    (hfp : [.regs, .safe] ⊆ fp) (h0 : SameBut fp u0 s) :
    SameBut fp u0 (safeCommitted s0 s) := by
  unfold safeCommitted
  dsimp only
  repeat'
    first
    | with_reducible assumption | exact List.Subset.trans (by decide) hfp | with_reducible intro _
    | with_reducible apply sameBut_ite | with_reducible apply sameBut_foldl | with_reducible apply frame_onConn
    | with_reducible apply frame_pairChanged | dsimp only

theorem frame_safeDawn {fp : List Part} {u0 : State} (s : State)
    (hfp : [.regs, .safe] ⊆ fp) (h0 : SameBut fp u0 s) :
    SameBut fp u0 (safeDawn s) := by
  unfold safeDawn
  repeat'
    first
    | with_reducible assumption | exact List.Subset.trans (by decide) hfp | with_reducible intro _
    | with_reducible apply sameBut_ite | with_reducible apply frame_faultSrc
    | with_reducible apply frame_onSafe | dsimp only

theorem frame_safeWarm {fp : List Part} {u0 : State} (s : State)
    (hfp : [.safe] ⊆ fp) (h0 : SameBut fp u0 s) :
    SameBut fp u0 (safeWarm s) := by
  unfold safeWarm
  repeat'
    first
    | with_reducible assumption | exact List.Subset.trans (by decide) hfp | with_reducible intro _
    | with_reducible apply frame_onSafe | dsimp only

end Sys2Proof.Machine
end

