-- ==== Sys2Proof/Laws/FrameSample.lean ====
section
/-!
SUPPORT. What every operation of Machine/Sample.lean leaves alone (SameBut): one lemma for each operation that answers a state.
-/
set_option linter.all false

namespace Sys2Proof.Machine

theorem frame_rawDeliver {fp : List Part} {u0 : State} (s : State) (ch n : Nat) (w : Word)
    (hfp : [.regs, .gc, .gen, .chains, .slots] ⊆ fp) (h0 : SameBut fp u0 s) :
    SameBut fp u0 (rawDeliver s ch n w) := by
  unfold rawDeliver
  repeat'
    first
    | with_reducible assumption | exact List.Subset.trans (by decide) hfp
    | with_reducible apply frame_feedChain | with_reducible apply frame_slotRecord

theorem frame_execRawRecord (ch : Fin 128) (c : Conversion) (s : State) :
    ∃ s', execRawRecord ch c s = .next s' ∧ SameBut [.regs, .gc, .gen, .inputs, .exc, .queueEcc, .chains, .slots,
        .freeCtr] s s' := by
  refine ⟨_, rfl, ?_⟩
  repeat'
    first
    | with_reducible assumption | with_reducible exact SameBut.refl _ _ | decide | with_reducible intro _
    | with_reducible apply frame_when | with_reducible apply frame_rawSample
    | with_reducible apply frame_fromQueue | with_reducible apply frame_rawDeliver | dsimp only

theorem frame_latchCounts {fp : List Part} {u0 : State} (s : State) (r : Nat)
    (hfp : [.bands] ⊆ fp) (h0 : SameBut fp u0 s) :
    SameBut fp u0 (latchCounts s r) := by
  unfold latchCounts
  repeat'
    first
    | with_reducible assumption | exact List.Subset.trans (by decide) hfp | with_reducible intro _
    | with_reducible apply sameBut_foldl | with_reducible apply frame_onBand | dsimp only

theorem frame_blockEdgeFault {fp : List Part} {u0 : State} (s : State) (r n : Nat)
    (hfp : [.regs, .gc, .gen, .slots] ⊆ fp) (h0 : SameBut fp u0 s) :
    SameBut fp u0 (blockEdgeFault s r n) := by
  unfold blockEdgeFault
  dsimp only
  repeat'
    first
    | with_reducible assumption | exact List.Subset.trans (by decide) hfp | with_reducible intro _
    | with_reducible apply sameBut_ite | with_reducible apply frame_onSlot
    | with_reducible apply frame_slotFault | dsimp only

theorem frame_writeBlock {fp : List Part} {u0 : State} (s : State) (k n : Nat)
    (hfp : [.regs, .gc, .gen, .bands, .slots, .engines, .edges] ⊆ fp) (h0 : SameBut fp u0 s) :
    SameBut fp u0 (writeBlock s k n) := by
  unfold writeBlock
  dsimp only
  repeat'
    first
    | with_reducible assumption | exact List.Subset.trans (by decide) hfp | with_reducible intro _
    | with_reducible apply sameBut_foldl | with_reducible apply frame_edgeBoundary
    | with_reducible apply frame_latchCounts | with_reducible apply frame_onEng
    | with_reducible apply frame_blockEdgeFault | dsimp only

theorem frame_boundaryEvents {fp : List Part} {u0 : State} (s : State) (k n : Nat)
    (hfp : [.regs, .engines] ⊆ fp) (h0 : SameBut fp u0 s) :
    SameBut fp u0 (boundaryEvents s k n) := by
  unfold boundaryEvents
  dsimp only
  repeat'
    first
    | with_reducible assumption | exact List.Subset.trans (by decide) hfp | with_reducible intro _
    | with_reducible apply sameBut_ite | with_reducible apply frame_onEng
    | with_reducible apply frame_raiseEvent | split | dsimp only

theorem frame_execBu (k : Fin 12) (s : State) :
    ∃ s', execBu k s = .next s' ∧ SameBut [.regs, .gc, .gen, .bands, .slots, .engines, .edges] s s' := by
  refine ⟨_, rfl, ?_⟩
  repeat'
    first
    | with_reducible assumption | with_reducible exact SameBut.refl _ _ | decide | with_reducible intro _
    | with_reducible apply sameBut_ite | with_reducible apply frame_when
    | with_reducible apply frame_writeBlock | with_reducible apply frame_boundaryEvents | dsimp only

theorem frame_deliverOut {fp : List Part} {u0 : State} (s : State) (c ch : Nat) (o : OutRec)
    (hfp : [.regs, .aout, .chains, .ring, .sent, .streams, .vat, .reams, .engines, .lites, .strobes] ⊆ fp) (h0 :
        SameBut fp u0 s) :
    SameBut fp u0 (deliverOut s c ch o) := by
  unfold deliverOut
  dsimp only
  repeat'
    first
    | with_reducible assumption | exact List.Subset.trans (by decide) hfp | with_reducible intro _
    | with_reducible apply sameBut_ite | with_reducible apply frame_onChain
    | with_reducible apply frame_feedStreams | with_reducible apply frame_redStep
    | with_reducible apply frame_reamsRecord | with_reducible apply frame_liteDeliver
    | with_reducible apply frame_subDeliver | with_reducible apply frame_aoDeliver | dsimp only

theorem frame_filteredRecord {fp : List Part} {u0 : State} (s : State) (ch : Nat)
    (hfp : [.regs, .aout, .chains, .ring, .sent, .streams, .vat, .reams, .engines, .lites, .strobes] ⊆ fp) (h0 :
        SameBut fp u0 s) :
    SameBut fp u0 (filteredRecord s ch) := by
  unfold filteredRecord
  repeat'
    first
    | with_reducible assumption | exact List.Subset.trans (by decide) hfp | with_reducible intro _
    | with_reducible apply frame_deliverOut | with_reducible apply frame_onChain | split | dsimp only

theorem frame_execFilteredRecord (ch : Nat) (s : State) :
    ∃ s', execFilteredRecord ch s = .next s' ∧ SameBut [.regs, .aout, .chains, .ring, .sent, .streams, .vat, .reams,
        .engines, .lites, .strobes] s s' := by
  refine ⟨_, rfl, ?_⟩
  repeat'
    first
    | with_reducible assumption | with_reducible exact SameBut.refl _ _ | decide
    | with_reducible apply frame_filteredRecord

theorem frame_trigEdge {fp : List Part} {u0 : State} (s : State) (pin : Nat) (falling : Bool) (stamp : Nat)
    (hfp : [.regs, .pins, .ring, .sent, .streams, .vat, .reams, .slots, .strobes] ⊆ fp) (h0 : SameBut fp u0 s) :
    SameBut fp u0 (trigEdge s pin falling stamp) := by
  unfold trigEdge
  dsimp only
  repeat'
    first
    | with_reducible assumption | exact List.Subset.trans (by decide) hfp | with_reducible apply sameBut_ite
    | with_reducible apply frame_reamsPin | with_reducible apply frame_pinMarks
    | with_reducible apply SameBut.set_pins | dsimp only

theorem frame_execTriginEdge (pin : Fin 4) (falling : Bool) (stamp : Nat) (s : State) (ecc : WordErr) :
    ∃ s', execTriginEdge pin falling stamp s ecc = .next s' ∧ SameBut [.regs, .pins, .queueEcc, .ring, .sent,
        .streams, .vat, .reams, .slots, .strobes, .freeCtr] s s' := by
  refine ⟨_, rfl, ?_⟩
  repeat'
    first
    | with_reducible assumption | with_reducible exact SameBut.refl _ _ | decide
    | with_reducible apply frame_readStamp | with_reducible apply frame_trigEdge | dsimp only

end Sys2Proof.Machine
end

