-- ==== Sys2Proof/Laws/FrameStatus.lean ====
section
/-!
SUPPORT. What every operation of Machine/Status.lean leaves alone (SameBut): one lemma for each operation that answers a state.
-/
set_option linter.all false

namespace Sys2Proof.Machine

theorem frame_setPower {fp : List Part} {u0 : State} (s : State) (st : PowerState)
    (hfp : [.regs, .pwr] ⊆ fp) (h0 : SameBut fp u0 s) :
    SameBut fp u0 (setPower s st) := by
  unfold setPower
  repeat'
    first
    | with_reducible assumption | exact List.Subset.trans (by decide) hfp | with_reducible apply frame_evtIf
    | with_reducible apply SameBut.set_pwr

theorem frame_takeStatus {fp : List Part} {u0 : State} (s : State) (p : Path)
    (hfp : [.host] ⊆ fp) (h0 : SameBut fp u0 s) :
    SameBut fp u0 (takeStatus s p) := by
  unfold takeStatus
  repeat'
    first
    | with_reducible assumption | exact List.Subset.trans (by decide) hfp | with_reducible intro _
    | with_reducible apply frame_onPath | dsimp only

end Sys2Proof.Machine
end

