-- ==== Sys2Proof/Laws/FrameTwin.lean ====
section
/-!
SUPPORT. What every operation of Machine/Twin.lean leaves alone (SameBut): one lemma for each operation that answers a state.
-/
set_option linter.all false

namespace Sys2Proof.Machine

theorem frame_onTwin {fp : List Part} {u0 : State} (s : State) (f : TwinState → TwinState)
    (hfp : [.twin] ⊆ fp) (h0 : SameBut fp u0 s) :
    SameBut fp u0 (onTwin s f) := by
  unfold onTwin
  repeat'
    first
    | with_reducible assumption | exact List.Subset.trans (by decide) hfp
    | with_reducible apply SameBut.set_twin

theorem frame_pairingRetry {fp : List Part} {u0 : State} (s : State) (l : List Word) (nonce : BitVec 128) (answer :
    List Word)
    (hfp : [.regs, .pages, .host, .sent, .twin, .freeCtr] ⊆ fp) (h0 : SameBut fp u0 s) :
    SameBut fp u0 (pairingRetry s l nonce answer) := by
  unfold pairingRetry
  dsimp only
  repeat'
    first
    | with_reducible assumption | exact List.Subset.trans (by decide) hfp | with_reducible intro _
    | with_reducible apply sameBut_ite | with_reducible apply frame_sendTwin | with_reducible apply frame_drawn
    | with_reducible apply frame_onTwin | with_reducible apply frame_refuse | dsimp only

theorem frame_execPairingRetry (remote : List Word) (nonce : BitVec 128) (s : State) (answer : List Word) :
    ∃ s', execPairingRetry remote nonce s answer = .next s' ∧ SameBut [.regs, .pages, .host, .sent, .twin, .freeCtr]
        s s' := by
  refine ⟨_, rfl, ?_⟩
  repeat'
    first
    | with_reducible assumption | with_reducible exact SameBut.refl _ _ | decide | with_reducible intro _
    | with_reducible apply frame_when | with_reducible apply frame_pairingRetry | dsimp only

theorem frame_pairUp {fp : List Part} {u0 : State} (s : State)
    (hfp : [.regs, .sent, .twin] ⊆ fp) (h0 : SameBut fp u0 s) :
    SameBut fp u0 (pairUp s) := by
  unfold pairUp
  dsimp only
  repeat'
    first
    | with_reducible assumption | exact List.Subset.trans (by decide) hfp | with_reducible intro _
    | with_reducible apply sameBut_ite | with_reducible apply frame_evt | with_reducible apply frame_onTwin
    | with_reducible apply frame_wr | with_reducible apply frame_sendTwin | dsimp only

theorem frame_heartbeatSend {fp : List Part} {u0 : State} (s : State)
    (hfp : [.regs, .ring, .sent, .twin] ⊆ fp) (h0 : SameBut fp u0 s) :
    SameBut fp u0 (heartbeatSend s) := by
  unfold heartbeatSend
  dsimp only
  repeat'
    first
    | with_reducible assumption | exact List.Subset.trans (by decide) hfp | with_reducible intro _
    | with_reducible apply sameBut_ite | with_reducible apply frame_wr | with_reducible apply frame_onTwin
    | with_reducible apply frame_sendRing | with_reducible apply frame_sendTwin | dsimp only

theorem frame_execHeartbeatSend (s : State) :
    ∃ s', execHeartbeatSend s = .next s' ∧ SameBut [.regs, .ring, .sent, .twin] s s' := by
  refine ⟨_, rfl, ?_⟩
  repeat'
    first
    | with_reducible assumption | with_reducible exact SameBut.refl _ _ | decide | with_reducible intro _
    | with_reducible apply frame_when | with_reducible apply frame_heartbeatSend

theorem frame_heartbeatHeard {fp : List Part} {u0 : State} (s : State) (w : Word)
    (hfp : [.regs, .twin] ⊆ fp) (h0 : SameBut fp u0 s) :
    SameBut fp u0 (heartbeatHeard s w) := by
  unfold heartbeatHeard
  dsimp only
  repeat'
    first
    | with_reducible assumption | exact List.Subset.trans (by decide) hfp | with_reducible intro _
    | with_reducible apply sameBut_ite | with_reducible apply frame_bumpSat | with_reducible apply frame_wr
    | with_reducible apply frame_onTwin | split | dsimp only

theorem frame_takeAlone {fp : List Part} {u0 : State} (s : State) (n : Nat)
    (hfp : [.twin] ⊆ fp) (h0 : SameBut fp u0 s) :
    SameBut fp u0 (takeAlone s n) := by
  unfold takeAlone
  repeat'
    first
    | with_reducible assumption | exact List.Subset.trans (by decide) hfp | with_reducible intro _
    | with_reducible apply frame_onTwin | dsimp only

theorem frame_arbAct {fp : List Part} {u0 : State} (s : State) (level : Bool) (n : Nat)
    (hfp : [.regs, .sent, .twin] ⊆ fp) (h0 : SameBut fp u0 s) :
    SameBut fp u0 (arbAct s level n) := by
  unfold arbAct
  dsimp only
  repeat'
    first
    | with_reducible assumption | exact List.Subset.trans (by decide) hfp | with_reducible intro _
    | with_reducible apply sameBut_ite | with_reducible apply frame_onTwin
    | with_reducible apply frame_sendTwin | with_reducible apply frame_evtIf
    | with_reducible apply frame_takeAlone | dsimp only

theorem frame_arbChange {fp : List Part} {u0 : State} (s : State) (level : Bool)
    (hfp : [.regs, .pins, .sent, .twin] ⊆ fp) (h0 : SameBut fp u0 s) :
    SameBut fp u0 (arbChange s level) := by
  unfold arbChange
  dsimp only
  repeat'
    first
    | with_reducible assumption | exact List.Subset.trans (by decide) hfp | with_reducible apply sameBut_ite
    | with_reducible apply frame_arbAct | with_reducible apply SameBut.set_pins | dsimp only

theorem frame_arbAgain {fp : List Part} {u0 : State} (s : State)
    (hfp : [.regs, .sent, .twin] ⊆ fp) (h0 : SameBut fp u0 s) :
    SameBut fp u0 (arbAgain s) := by
  unfold arbAgain
  repeat'
    first
    | with_reducible assumption | exact List.Subset.trans (by decide) hfp | with_reducible apply sameBut_ite
    | with_reducible apply frame_arbAct

theorem frame_handoverHeard {fp : List Part} {u0 : State} (s : State) (m : HandoverMsg)
    (hfp : [.twin] ⊆ fp) (h0 : SameBut fp u0 s) :
    SameBut fp u0 (handoverHeard s m) := by
  unfold handoverHeard
  repeat'
    first
    | with_reducible assumption | exact List.Subset.trans (by decide) hfp | with_reducible intro _
    | with_reducible apply sameBut_ite | with_reducible apply frame_onTwin | dsimp only

theorem frame_execHandoverFrame (m : HandoverMsg) (s : State) :
    ∃ s', execHandoverFrame m s = .next s' ∧ SameBut [.twin] s s' := by
  refine ⟨_, rfl, ?_⟩
  repeat'
    first
    | with_reducible assumption | with_reducible exact SameBut.refl _ _ | decide
    | with_reducible apply frame_handoverHeard

theorem frame_moveExcitation {fp : List Part} {u0 : State} (s : State) (n : Nat)
    (hfp : [.inputs, .exc] ⊆ fp) (h0 : SameBut fp u0 s) :
    SameBut fp u0 (moveExcitation s n) := by
  unfold moveExcitation
  dsimp only
  repeat'
    first
    | with_reducible assumption | exact List.Subset.trans (by decide) hfp | with_reducible intro _
    | with_reducible apply sameBut_ite | with_reducible apply sameBut_foldl
    | with_reducible apply frame_excChange | with_reducible apply frame_onInput | dsimp only

theorem frame_handoverDone {fp : List Part} {u0 : State} (s : State) (h : Handover)
    (hfp : [.regs, .inputs, .exc, .sent, .twin] ⊆ fp) (h0 : SameBut fp u0 s) :
    SameBut fp u0 (handoverDone s h) := by
  unfold handoverDone
  dsimp only
  repeat'
    first
    | with_reducible assumption | exact List.Subset.trans (by decide) hfp | with_reducible intro _
    | with_reducible apply frame_wr64 | with_reducible apply frame_evt | with_reducible apply frame_bumpSat
    | with_reducible apply frame_moveExcitation | with_reducible apply frame_arbAgain
    | with_reducible apply frame_onTwin | dsimp only

theorem frame_handoverRelease {fp : List Part} {u0 : State} (s : State) (h : Handover) (k : Nat)
    (hfp : [.regs, .pwr, .gc, .gen, .inputs, .exc, .sent, .twin] ⊆ fp) (h0 : SameBut fp u0 s) :
    SameBut fp u0 (handoverRelease s h k) := by
  unfold handoverRelease
  dsimp only
  repeat'
    first
    | with_reducible assumption | exact List.Subset.trans (by decide) hfp | with_reducible intro _
    | with_reducible apply sameBut_ite | with_reducible apply sameBut_foldl | with_reducible apply frame_onGc
    | with_reducible apply frame_releaseSlots | with_reducible apply frame_onTwin
    | with_reducible apply frame_setPower | with_reducible apply frame_handoverDone | dsimp only

theorem frame_execHandoverRelease (k : Fin 12) (s : State) :
    ∃ s', execHandoverRelease k s = .next s' ∧ SameBut [.regs, .pwr, .gc, .gen, .inputs, .exc, .sent, .twin] s s' :=
        by
  refine ⟨_, rfl, ?_⟩
  repeat'
    first
    | with_reducible assumption | with_reducible exact SameBut.refl _ _ | decide
    | with_reducible apply sameBut_ite | with_reducible apply frame_handoverRelease | split

theorem frame_takeSlot {fp : List Part} {u0 : State} (s : State) (h : Handover) (r : Nat)
    (hfp : [.regs, .gc, .slots] ⊆ fp) (h0 : SameBut fp u0 s) :
    SameBut fp u0 (takeSlot s h r) := by
  unfold takeSlot
  dsimp only
  repeat'
    first
    | with_reducible assumption | exact List.Subset.trans (by decide) hfp | with_reducible intro _
    | with_reducible apply sameBut_ite | with_reducible apply frame_onSlot
    | with_reducible apply frame_applyReaction | with_reducible apply frame_faultSrc
    | with_reducible apply frame_evt | with_reducible apply frame_setLegs | with_reducible apply frame_enterRun
    | split | dsimp only

theorem frame_handoverTake {fp : List Part} {u0 : State} (s : State) (h : Handover) (k : Nat)
    (hfp : [.regs, .pwr, .gc, .gen, .inputs, .exc, .sent, .twin, .slots] ⊆ fp) (h0 : SameBut fp u0 s) :
    SameBut fp u0 (handoverTake s h k) := by
  unfold handoverTake
  dsimp only
  repeat'
    first
    | with_reducible assumption | exact List.Subset.trans (by decide) hfp | with_reducible intro _
    | with_reducible apply sameBut_ite | with_reducible apply sameBut_foldl
    | with_reducible apply frame_takeSlot | with_reducible apply frame_onTwin
    | with_reducible apply frame_syncSlot | with_reducible apply frame_setPower
    | with_reducible apply frame_handoverDone | with_reducible apply frame_takeSlots | dsimp only

theorem frame_execHandoverTake (k : Fin 12) (s : State) :
    ∃ s', execHandoverTake k s = .next s' ∧ SameBut [.regs, .pwr, .gc, .gen, .inputs, .exc, .sent, .twin, .slots] s
        s' := by
  refine ⟨_, rfl, ?_⟩
  repeat'
    first
    | with_reducible assumption | with_reducible exact SameBut.refl _ _ | decide
    | with_reducible apply sameBut_ite | with_reducible apply frame_handoverTake | split

theorem frame_execArbMismatch (s : State) :
    ∃ s', execArbMismatch s = .next s' ∧ SameBut [.regs] s s' := by
  refine ⟨_, rfl, ?_⟩
  repeat'
    first
    | with_reducible assumption | with_reducible exact SameBut.refl _ _ | decide | with_reducible intro _
    | with_reducible apply frame_when | with_reducible apply frame_evt | dsimp only

theorem frame_partnerLost {fp : List Part} {u0 : State} (s : State)
    (hfp : [.regs, .streams, .twin] ⊆ fp) (h0 : SameBut fp u0 s) :
    SameBut fp u0 (partnerLost s) := by
  unfold partnerLost
  dsimp only
  repeat'
    first
    | with_reducible assumption | exact List.Subset.trans (by decide) hfp | with_reducible intro _
    | with_reducible apply sameBut_ite | with_reducible apply frame_bumpSat | with_reducible apply frame_evt
    | with_reducible apply frame_onTwin | with_reducible apply frame_takeAlone
    | with_reducible apply SameBut.set_streams | dsimp only

theorem frame_execMirrorFrameSend (k : Fin 12) (s : State) :
    ∃ s', execMirrorFrameSend k s = .next s' ∧ SameBut [.regs, .sent] s s' := by
  refine ⟨_, rfl, ?_⟩
  repeat'
    first
    | with_reducible assumption | with_reducible exact SameBut.refl _ _ | decide | with_reducible intro _
    | with_reducible apply sameBut_ite | with_reducible apply frame_when | with_reducible apply frame_sendTwin
    | dsimp only

theorem frame_mirrorHeard {fp : List Part} {u0 : State} (s : State) (m : MirrorMsg)
    (hfp : [.twin, .engines] ⊆ fp) (h0 : SameBut fp u0 s) :
    SameBut fp u0 (mirrorHeard s m) := by
  unfold mirrorHeard
  repeat'
    first
    | with_reducible assumption | exact List.Subset.trans (by decide) hfp | with_reducible intro _
    | with_reducible apply sameBut_ite | with_reducible apply frame_onEng | with_reducible apply frame_onTwin
    | dsimp only

theorem frame_execMirrorFrame (m : MirrorMsg) (s : State) :
    ∃ s', execMirrorFrame m s = .next s' ∧ SameBut [.twin, .engines] s s' := by
  refine ⟨_, rfl, ?_⟩
  repeat'
    first
    | with_reducible assumption | with_reducible exact SameBut.refl _ _ | decide
    | with_reducible apply frame_mirrorHeard

theorem frame_positionsHeard {fp : List Part} {u0 : State} (s : State) (l : List StreamPos)
    (hfp : [.streams, .twin] ⊆ fp) (h0 : SameBut fp u0 s) :
    SameBut fp u0 (positionsHeard s l) := by
  unfold positionsHeard
  repeat'
    first
    | with_reducible assumption | exact List.Subset.trans (by decide) hfp | with_reducible intro _
    | with_reducible apply sameBut_foldl | with_reducible apply frame_joinStream
    | with_reducible apply frame_onTwin | dsimp only

theorem frame_snapshotHeard {fp : List Part} {u0 : State} (s : State) (m : SnapshotMsg)
    (hfp : [.regs, .streams, .twin, .engines] ⊆ fp) (h0 : SameBut fp u0 s) :
    SameBut fp u0 (snapshotHeard s m) := by
  unfold snapshotHeard
  dsimp only
  repeat'
    first
    | with_reducible assumption | exact List.Subset.trans (by decide) hfp | with_reducible intro _
    | with_reducible apply sameBut_ite | with_reducible apply frame_positionsHeard
    | with_reducible apply frame_wr | with_reducible apply frame_evt | with_reducible apply frame_onTwin
    | with_reducible apply SameBut.set_engines | dsimp only

theorem frame_execSnapshot (m : SnapshotMsg) (s : State) :
    ∃ s', execSnapshot m s = .next s' ∧ SameBut [.regs, .streams, .twin, .engines] s s' := by
  refine ⟨_, rfl, ?_⟩
  repeat'
    first
    | with_reducible assumption | with_reducible exact SameBut.refl _ _ | decide
    | with_reducible apply frame_snapshotHeard

theorem frame_twinAckHeard {fp : List Part} {u0 : State} (s : State) (m : AckMsg)
    (hfp : [.regs, .streams] ⊆ fp) (h0 : SameBut fp u0 s) :
    SameBut fp u0 (twinAckHeard s m) := by
  unfold twinAckHeard
  repeat'
    first
    | with_reducible assumption | exact List.Subset.trans (by decide) hfp | with_reducible apply sameBut_ite
    | with_reducible apply frame_ackStream

theorem frame_setRelease {fp : List Part} {u0 : State} (s : State) (b : Bool)
    (hfp : [.twin] ⊆ fp) (h0 : SameBut fp u0 s) :
    SameBut fp u0 (setRelease s b) := by
  unfold setRelease
  repeat'
    first
    | with_reducible assumption | exact List.Subset.trans (by decide) hfp | with_reducible intro _
    | with_reducible apply frame_onTwin | dsimp only

theorem frame_twinCtrl {fp : List Part} {u0 : State} (s : State) (w : Who) (v : Word)
    (hfp : [.regs, .pages, .host, .twin] ⊆ fp) (h0 : SameBut fp u0 s) :
    SameBut fp u0 (twinCtrl s w v) := by
  unfold twinCtrl
  repeat'
    first
    | with_reducible assumption | exact List.Subset.trans (by decide) hfp
    | with_reducible apply frame_setRelease | with_reducible apply frame_refuse | split

theorem frame_execRequestRelease (p : Path) (s : State) :
    ∃ s', execRequestRelease p s = .next s' ∧ SameBut [.regs, .pages, .host, .twin] s s' := by
  refine ⟨_, rfl, ?_⟩
  repeat'
    first
    | with_reducible assumption | with_reducible exact SameBut.refl _ _ | decide | with_reducible intro _
    | with_reducible apply frame_gated | with_reducible apply frame_setRelease | dsimp only

theorem frame_execCancelRelease (p : Path) (s : State) :
    ∃ s', execCancelRelease p s = .next s' ∧ SameBut [.regs, .pages, .host, .twin] s s' := by
  refine ⟨_, rfl, ?_⟩
  repeat'
    first
    | with_reducible assumption | with_reducible exact SameBut.refl _ _ | decide | with_reducible intro _
    | with_reducible apply frame_gated | with_reducible apply frame_setRelease | dsimp only

end Sys2Proof.Machine
end

