-- ==== Sys2Proof/Laws/FrameRing.lean ====
section
/-!
SUPPORT. What every operation of Machine/Ring.lean leaves alone (SameBut): one lemma for each operation that answers a state.
-/
set_option linter.all false

namespace Sys2Proof.Machine

theorem frame_onRing {fp : List Part} {u0 : State} (s : State) (f : RingState → RingState)
    (hfp : [.ring] ⊆ fp) (h0 : SameBut fp u0 s) :
    SameBut fp u0 (onRing s f) := by
  unfold onRing
  repeat'
    first
    | with_reducible assumption | exact List.Subset.trans (by decide) hfp
    | with_reducible apply SameBut.set_ring

theorem frame_onAdm {fp : List Part} {u0 : State} (s : State) (f : AdmState → AdmState)
    (hfp : [.adm] ⊆ fp) (h0 : SameBut fp u0 s) :
    SameBut fp u0 (onAdm s f) := by
  unfold onAdm
  repeat'
    first
    | with_reducible assumption | exact List.Subset.trans (by decide) hfp
    | with_reducible apply SameBut.set_adm

theorem frame_seeGen {fp : List Part} {u0 : State} (s : State) (g : Seq32)
    (hfp : [.ring] ⊆ fp) (h0 : SameBut fp u0 s) :
    SameBut fp u0 (seeGen s g) := by
  unfold seeGen
  repeat'
    first
    | with_reducible assumption | exact List.Subset.trans (by decide) hfp | with_reducible intro _
    | with_reducible apply sameBut_ite | with_reducible apply frame_onRing | dsimp only

theorem frame_hearNode {fp : List Part} {u0 : State} (s : State) (port : Lane) (b : Beacon)
    (hfp : [.ring] ⊆ fp) (h0 : SameBut fp u0 s) :
    SameBut fp u0 (hearNode s port b) := by
  unfold hearNode
  dsimp only
  repeat'
    first
    | with_reducible assumption | exact List.Subset.trans (by decide) hfp | with_reducible intro _
    | with_reducible apply sameBut_ite | with_reducible apply frame_onRing | dsimp only

theorem frame_beaconNews {fp : List Part} {u0 : State} (s : State) (b : Beacon)
    (hfp : [.regs, .ring] ⊆ fp) (h0 : SameBut fp u0 s) :
    SameBut fp u0 (beaconNews s b) := by
  unfold beaconNews
  dsimp only
  repeat'
    first
    | with_reducible assumption | exact List.Subset.trans (by decide) hfp | with_reducible intro _
    | with_reducible apply sameBut_ite | with_reducible apply frame_seeGen | with_reducible apply frame_onRing
    | with_reducible apply frame_evtIf | dsimp only

theorem frame_execDiscoveryBeacon (port : Lane) (b : Beacon) (s : State) :
    ∃ s', execDiscoveryBeacon port b s = .next s' ∧ SameBut [.regs, .ring] s s' := by
  refine ⟨_, rfl, ?_⟩
  repeat'
    first
    | with_reducible assumption | with_reducible exact SameBut.refl _ _ | decide | with_reducible intro _
    | with_reducible apply frame_when | with_reducible apply frame_beaconNews
    | with_reducible apply frame_hearNode | dsimp only

theorem frame_execDiscoveryBeaconSend (s : State) :
    ∃ s', execDiscoveryBeaconSend s = .next s' ∧ SameBut [.regs, .ring, .sent] s s' := by
  refine ⟨_, rfl, ?_⟩
  repeat'
    first
    | with_reducible assumption | with_reducible exact SameBut.refl _ _ | decide | with_reducible intro _
    | with_reducible apply frame_when | with_reducible apply frame_sendBeacon

theorem frame_mergeReport {fp : List Part} {u0 : State} (s : State) (r : LedgerReport)
    (hfp : [.adm] ⊆ fp) (h0 : SameBut fp u0 s) :
    SameBut fp u0 (mergeReport s r) := by
  unfold mergeReport
  repeat'
    first
    | with_reducible assumption | exact List.Subset.trans (by decide) hfp | with_reducible intro _
    | with_reducible apply sameBut_foldl | with_reducible apply frame_onAdm | dsimp only

theorem frame_ledgerHeard {fp : List Part} {u0 : State} (s : State) (r : LedgerReport)
    (hfp : [.adm] ⊆ fp) (h0 : SameBut fp u0 s) :
    SameBut fp u0 (ledgerHeard s r) := by
  unfold ledgerHeard
  repeat'
    first
    | with_reducible assumption | exact List.Subset.trans (by decide) hfp | with_reducible apply sameBut_ite
    | with_reducible apply frame_mergeReport

theorem frame_execLedgerReport (r : LedgerReport) (s : State) :
    ∃ s', execLedgerReport r s = .next s' ∧ SameBut [.adm] s s' := by
  refine ⟨_, rfl, ?_⟩
  repeat'
    first
    | with_reducible assumption | with_reducible exact SameBut.refl _ _ | decide
    | with_reducible apply frame_ledgerHeard

theorem frame_execLedgerReportSend (s : State) :
    ∃ s', execLedgerReportSend s = .next s' ∧ SameBut [.regs, .ring, .sent] s s' := by
  refine ⟨_, rfl, ?_⟩
  repeat'
    first
    | with_reducible assumption | with_reducible exact SameBut.refl _ _ | decide | with_reducible intro _
    | with_reducible apply sameBut_foldl | with_reducible apply frame_when | with_reducible apply frame_onRing
    | with_reducible apply frame_sendRing | dsimp only

theorem frame_execLedgerRebuilt (s : State) :
    ∃ s', execLedgerRebuilt s = .next s' ∧ SameBut [.regs, .ring, .adm, .sent, .streams] s s' := by
  refine ⟨_, rfl, ?_⟩
  repeat'
    first
    | with_reducible assumption | with_reducible exact SameBut.refl _ _ | decide | with_reducible intro _
    | with_reducible apply sameBut_foldl | with_reducible apply frame_when | with_reducible apply frame_evt
    | with_reducible apply frame_onAdm | with_reducible apply frame_onRing
    | with_reducible apply frame_rootDecide | dsimp only

theorem frame_fillBucket {fp : List Part} {u0 : State} (s : State)
    (hfp : [.adm] ⊆ fp) (h0 : SameBut fp u0 s) :
    SameBut fp u0 (fillBucket s) := by
  unfold fillBucket
  repeat'
    first
    | with_reducible assumption | exact List.Subset.trans (by decide) hfp | with_reducible intro _
    | with_reducible apply frame_onAdm | dsimp only

theorem frame_takeRoot {fp : List Part} {u0 : State} (s : State) (rebuild : Bool)
    (hfp : [.regs, .time, .ring, .adm] ⊆ fp) (h0 : SameBut fp u0 s) :
    SameBut fp u0 (takeRoot s rebuild) := by
  unfold takeRoot
  dsimp only
  repeat'
    first
    | with_reducible assumption | exact List.Subset.trans (by decide) hfp | with_reducible intro _
    | with_reducible apply sameBut_ite | with_reducible apply frame_evtIf | with_reducible apply frame_onRing
    | with_reducible apply frame_onAdm | with_reducible apply frame_fillBucket
    | with_reducible apply frame_mergeReport | with_reducible apply frame_portsLost | dsimp only

theorem frame_giveUpRoot {fp : List Part} {u0 : State} (s : State) (r : Nat)
    (hfp : [.regs, .ring, .adm] ⊆ fp) (h0 : SameBut fp u0 s) :
    SameBut fp u0 (giveUpRoot s r) := by
  unfold giveUpRoot
  dsimp only
  repeat'
    first
    | with_reducible assumption | exact List.Subset.trans (by decide) hfp | with_reducible intro _
    | with_reducible apply frame_onRing | with_reducible apply frame_onAdm | with_reducible apply frame_evt
    | dsimp only

theorem frame_holdAddr {fp : List Part} {u0 : State} (s : State) (a : Nat)
    (hfp : [.regs, .ring] ⊆ fp) (h0 : SameBut fp u0 s) :
    SameBut fp u0 (holdAddr s a) := by
  unfold holdAddr
  repeat'
    first
    | with_reducible assumption | exact List.Subset.trans (by decide) hfp | with_reducible intro _
    | with_reducible apply sameBut_ite | with_reducible apply frame_evt | with_reducible apply frame_onRing
    | dsimp only

theorem frame_assignAddrs {fp : List Part} {u0 : State} (s : State)
    (hfp : [.regs, .ring, .adm, .sent] ⊆ fp) (h0 : SameBut fp u0 s) :
    SameBut fp u0 (assignAddrs s) := by
  unfold assignAddrs
  dsimp only
  repeat'
    first
    | with_reducible assumption | exact List.Subset.trans (by decide) hfp | with_reducible intro _
    | with_reducible apply sameBut_ite | with_reducible apply sameBut_foldl | with_reducible apply frame_onRing
    | with_reducible apply frame_onAdm | with_reducible apply frame_holdAddr | with_reducible apply frame_evtIf
    | with_reducible apply frame_sendRing | split | dsimp only

theorem frame_assignmentSend {fp : List Part} {u0 : State} (s : State)
    (hfp : [.regs, .time, .ring, .adm, .sent] ⊆ fp) (h0 : SameBut fp u0 s) :
    SameBut fp u0 (assignmentSend s) := by
  unfold assignmentSend
  repeat'
    first
    | with_reducible assumption | exact List.Subset.trans (by decide) hfp | with_reducible apply sameBut_ite
    | with_reducible apply frame_assignAddrs | with_reducible apply frame_takeRoot

theorem frame_assignmentHeard {fp : List Part} {u0 : State} (s : State) (a : Assignment)
    (hfp : [.regs, .ring, .adm] ⊆ fp) (h0 : SameBut fp u0 s) :
    SameBut fp u0 (assignmentHeard s a) := by
  unfold assignmentHeard
  dsimp only
  repeat'
    first
    | with_reducible assumption | exact List.Subset.trans (by decide) hfp | with_reducible intro _
    | with_reducible apply sameBut_ite | with_reducible apply frame_seeGen | with_reducible apply frame_onRing
    | with_reducible apply frame_onAdm | with_reducible apply frame_holdAddr | split | dsimp only

theorem frame_execRootBeaconSend (s : State) :
    ∃ s', execRootBeaconSend s = .next s' ∧ SameBut [.regs, .ring, .sent] s s' := by
  refine ⟨_, rfl, ?_⟩
  repeat'
    first
    | with_reducible assumption | with_reducible exact SameBut.refl _ _ | decide | with_reducible intro _
    | with_reducible apply frame_when | with_reducible apply frame_sendRing | dsimp only

theorem frame_ringCloses {fp : List Part} {u0 : State} (s : State)
    (hfp : [.regs, .ring, .adm] ⊆ fp) (h0 : SameBut fp u0 s) :
    SameBut fp u0 (ringCloses s) := by
  unfold ringCloses
  dsimp only
  repeat'
    first
    | with_reducible assumption | exact List.Subset.trans (by decide) hfp | with_reducible intro _
    | with_reducible apply sameBut_ite | with_reducible apply frame_onRing | with_reducible apply frame_evt
    | with_reducible apply frame_onAdm | dsimp only

theorem frame_hearRootCopy {fp : List Part} {u0 : State} (s : State) (port : Lane) (b : RootBeacon)
    (hfp : [.regs, .ring, .adm] ⊆ fp) (h0 : SameBut fp u0 s) :
    SameBut fp u0 (hearRootCopy s port b) := by
  unfold hearRootCopy
  dsimp only
  repeat'
    first
    | with_reducible assumption | exact List.Subset.trans (by decide) hfp | with_reducible intro _
    | with_reducible apply sameBut_ite | with_reducible apply frame_ringCloses
    | with_reducible apply frame_onRing | dsimp only

theorem frame_rootBeaconNews {fp : List Part} {u0 : State} (s : State) (b : RootBeacon)
    (hfp : [.regs, .ring, .adm, .streams] ⊆ fp) (h0 : SameBut fp u0 s) :
    SameBut fp u0 (rootBeaconNews s b) := by
  unfold rootBeaconNews
  dsimp only
  repeat'
    first
    | with_reducible assumption | exact List.Subset.trans (by decide) hfp | with_reducible intro _
    | with_reducible apply sameBut_ite | with_reducible apply frame_seeGen
    | with_reducible apply frame_giveUpRoot | with_reducible apply frame_onRing
    | with_reducible apply frame_evtIf | with_reducible apply frame_recoverStreams | dsimp only

theorem frame_execRootBeacon (port : Lane) (b : RootBeacon) (s : State) :
    ∃ s', execRootBeacon port b s = .next s' ∧ SameBut [.regs, .ring, .adm, .streams] s s' := by
  refine ⟨_, rfl, ?_⟩
  repeat'
    first
    | with_reducible assumption | with_reducible exact SameBut.refl _ _ | decide | with_reducible intro _
    | with_reducible apply frame_when | with_reducible apply frame_hearRootCopy
    | with_reducible apply frame_rootBeaconNews | dsimp only

theorem frame_execRootLost (s : State) :
    ∃ s', execRootLost s = .next s' ∧ SameBut [.regs, .time, .ring, .adm] s s' := by
  refine ⟨_, rfl, ?_⟩
  repeat'
    first
    | with_reducible assumption | with_reducible exact SameBut.refl _ _ | decide | with_reducible intro _
    | with_reducible apply sameBut_ite | with_reducible apply frame_when | with_reducible apply frame_onRing
    | with_reducible apply frame_takeRoot | dsimp only

theorem frame_rootAlone {fp : List Part} {u0 : State} (s : State)
    (hfp : [.regs, .time, .ring, .adm, .sent] ⊆ fp) (h0 : SameBut fp u0 s) :
    SameBut fp u0 (rootAlone s) := by
  unfold rootAlone
  repeat'
    first
    | with_reducible assumption | exact List.Subset.trans (by decide) hfp | with_reducible apply sameBut_ite
    | with_reducible apply frame_assignAddrs | with_reducible apply frame_takeRoot

theorem frame_execRingBreak (_port : Lane) (west east : Nat) (multiple : Bool) (s : State) :
    ∃ s', execRingBreak _port west east multiple s = .next s' ∧ SameBut [.regs, .ring, .adm] s s' := by
  refine ⟨_, rfl, ?_⟩
  repeat'
    first
    | with_reducible assumption | with_reducible exact SameBut.refl _ _ | decide | with_reducible intro _
    | with_reducible apply frame_onRing | with_reducible apply frame_when | with_reducible apply frame_evtIf
    | with_reducible apply frame_onAdm | dsimp only

theorem frame_execAdmissionRequest (r : AdmRequest) (s : State) :
    ∃ s', execAdmissionRequest r s = .next s' ∧ SameBut [.regs, .ring, .adm, .sent, .streams] s s' := by
  refine ⟨_, rfl, ?_⟩
  repeat'
    first
    | with_reducible assumption | with_reducible exact SameBut.refl _ _ | decide | with_reducible intro _
    | with_reducible apply frame_when | with_reducible apply frame_rootRequest | dsimp only

theorem frame_execAdmissionRelease (r : AdmRequest) (s : State) :
    ∃ s', execAdmissionRelease r s = .next s' ∧ SameBut [.adm] s s' := by
  refine ⟨_, rfl, ?_⟩
  repeat'
    first
    | with_reducible assumption | with_reducible exact SameBut.refl _ _ | decide | with_reducible intro _
    | with_reducible apply frame_when | with_reducible apply frame_rootRelease | dsimp only

theorem frame_admissionHeard {fp : List Part} {u0 : State} (s : State) (r : AdmRequest)
    (hfp : [.regs, .ring, .adm, .sent, .streams] ⊆ fp) (h0 : SameBut fp u0 s) :
    SameBut fp u0 (admissionHeard s r) := by
  unfold admissionHeard
  repeat'
    first
    | with_reducible assumption | exact List.Subset.trans (by decide) hfp | with_reducible apply sameBut_ite
    | with_reducible apply frame_rootRelease | with_reducible apply frame_rootRequest

theorem frame_replyHeard {fp : List Part} {u0 : State} (s : State) (r : AdmReply)
    (hfp : [.regs, .adm, .streams] ⊆ fp) (h0 : SameBut fp u0 s) :
    SameBut fp u0 (replyHeard s r) := by
  unfold replyHeard
  repeat'
    first
    | with_reducible assumption | exact List.Subset.trans (by decide) hfp | with_reducible intro _
    | with_reducible apply sameBut_ite | with_reducible apply frame_admResult | split | dsimp only

theorem frame_execAdmissionReply (r : AdmReply) (s : State) :
    ∃ s', execAdmissionReply r s = .next s' ∧ SameBut [.regs, .adm, .streams] s s' := by
  refine ⟨_, rfl, ?_⟩
  repeat'
    first
    | with_reducible assumption | with_reducible exact SameBut.refl _ _ | decide
    | with_reducible apply frame_replyHeard

theorem frame_execAdmissionRetry (i : Fin 64) (s : State) :
    ∃ s', execAdmissionRetry i s = .next s' ∧ SameBut [.regs, .ring, .adm, .sent, .streams] s s' := by
  refine ⟨_, rfl, ?_⟩
  repeat'
    first
    | with_reducible assumption | with_reducible exact SameBut.refl _ _ | decide
    | with_reducible apply frame_sendAdm | split

theorem frame_execEnoroot (i : Fin 64) (s : State) :
    ∃ s', execEnoroot i s = .next s' ∧ SameBut [.regs, .adm, .streams] s s' := by
  refine ⟨_, rfl, ?_⟩
  repeat'
    first
    | with_reducible assumption | with_reducible exact SameBut.refl _ _ | decide
    | with_reducible apply frame_admResult | split

theorem frame_linkLost {fp : List Part} {u0 : State} (s : State) (l : Lane)
    (hfp : [.regs, .time, .lanes, .streams, .twin] ⊆ fp) (h0 : SameBut fp u0 s) :
    SameBut fp u0 (linkLost s l) := by
  unfold linkLost
  dsimp only
  repeat'
    first
    | with_reducible assumption | exact List.Subset.trans (by decide) hfp | with_reducible apply sameBut_ite
    | with_reducible apply frame_linkFall | with_reducible apply frame_portsLost
    | with_reducible apply frame_partnerLost | dsimp only

theorem frame_ringWritten {fp : List Part} {u0 : State} (s0 s : State) (o : Nat) (v : Word)
    (hfp : [.adm, .addrTable] ⊆ fp) (h0 : SameBut fp u0 s) :
    SameBut fp u0 (ringWritten s0 s o v) := by
  unfold ringWritten
  dsimp only
  repeat'
    first
    | with_reducible assumption | exact List.Subset.trans (by decide) hfp | with_reducible intro _
    | with_reducible apply sameBut_ite | with_reducible apply frame_onAdm
    | with_reducible apply frame_fillBucket | with_reducible apply SameBut.set_addrTable | dsimp only

end Sys2Proof.Machine
end

