-- ==== Sys2Proof/Laws/FrameReset.lean ====
section
/-!
SUPPORT. What every operation of Machine/Reset.lean leaves alone (SameBut): one lemma for each operation that answers a state.
-/
set_option linter.all false

namespace Sys2Proof.Machine

theorem frame_onPwr {fp : List Part} {u0 : State} (s : State) (f : PwrState → PwrState)
    (hfp : [.pwr] ⊆ fp) (h0 : SameBut fp u0 s) :
    SameBut fp u0 (onPwr s f) := by
  unfold onPwr
  repeat'
    first
    | with_reducible assumption | exact List.Subset.trans (by decide) hfp
    | with_reducible apply SameBut.set_pwr

theorem frame_onClk {fp : List Part} {u0 : State} (s : State) (f : ClkState → ClkState)
    (hfp : [.clk] ⊆ fp) (h0 : SameBut fp u0 s) :
    SameBut fp u0 (onClk s f) := by
  unfold onClk
  repeat'
    first
    | with_reducible assumption | exact List.Subset.trans (by decide) hfp
    | with_reducible apply SameBut.set_clk

theorem frame_onRstReq {fp : List Part} {u0 : State} (s : State) (f : RstReq → RstReq)
    (hfp : [.pwr] ⊆ fp) (h0 : SameBut fp u0 s) :
    SameBut fp u0 (onRstReq s f) := by
  unfold onRstReq
  repeat'
    first
    | with_reducible assumption | exact List.Subset.trans (by decide) hfp | with_reducible intro _
    | with_reducible apply frame_onPwr | dsimp only

theorem frame_setRail {fp : List Part} {u0 : State} (s : State) (r : Rail) (v : Bool)
    (hfp : [.pwr] ⊆ fp) (h0 : SameBut fp u0 s) :
    SameBut fp u0 (setRail s r v) := by
  unfold setRail
  repeat'
    first
    | with_reducible assumption | exact List.Subset.trans (by decide) hfp | with_reducible intro _
    | with_reducible apply frame_onPwr | dsimp only

theorem frame_coldReset {fp : List Part} {u0 : State} (s : State) (c : Nat) (aon : Bool) (st : PowerState)
    (hfp : [.regs, .shadow, .pages, .pwr, .tap, .gc, .gen, .host, .inputs, .exc, .cores, .bands, .hkc, .queueEcc,
        .aout, .inCoefs, .chains, .flt, .time, .lanes, .ring, .adm, .addrTable, .streams, .strmSel, .vat, .cmd,
            .reams, .captSel, .gaps, .twin, .slots, .engines, .edges, .sports, .lites, .levels, .strobes, .cal,
                .fuses, .safe, .badBands, .freeCtr] ⊆ fp) (h0 : SameBut fp u0 s) :
    SameBut fp u0 (coldReset s c aon st) := by
  refine h0.trans (SameBut.mono hfp ((frame_cmdReset s (by decide) (SameBut.refl _ s)).trans (fun p hp => ?_)))
  cases p <;> first | rfl | exact absurd (by decide) hp

theorem frame_coldAgain {fp : List Part} {u0 : State} (s : State) (c : Nat)
    (hfp : [.regs, .shadow, .pages, .pwr, .tap, .gc, .gen, .host, .inputs, .exc, .cores, .bands, .hkc, .queueEcc,
        .aout, .inCoefs, .chains, .flt, .time, .lanes, .ring, .adm, .addrTable, .streams, .strmSel, .vat, .cmd,
            .reams, .captSel, .gaps, .twin, .slots, .engines, .edges, .sports, .lites, .levels, .strobes, .cal,
                .fuses, .safe, .badBands, .freeCtr] ⊆ fp) (h0 : SameBut fp u0 s) :
    SameBut fp u0 (coldAgain s c) := by
  unfold coldAgain
  dsimp only
  repeat'
    first
    | with_reducible assumption | exact List.Subset.trans (by decide) hfp | with_reducible apply sameBut_ite
    | with_reducible apply frame_coldReset | dsimp only

theorem frame_lanesLost {fp : List Part} {u0 : State} (s : State)
    (hfp : [.regs, .time, .lanes, .streams, .twin] ⊆ fp) (h0 : SameBut fp u0 s) :
    SameBut fp u0 (lanesLost s) := by
  unfold lanesLost
  repeat'
    first
    | with_reducible assumption | exact List.Subset.trans (by decide) hfp | with_reducible intro _
    | with_reducible apply sameBut_foldl | with_reducible apply frame_linkLost

theorem frame_seedTime {fp : List Part} {u0 : State} (s : State)
    (hfp : [.time, .freeCtr] ⊆ fp) (h0 : SameBut fp u0 s) :
    SameBut fp u0 (seedTime s) := by
  unfold seedTime
  dsimp only
  repeat'
    first
    | with_reducible assumption | exact List.Subset.trans (by decide) hfp | with_reducible intro _
    | with_reducible apply sameBut_ite | with_reducible apply frame_drawn | with_reducible apply frame_onTime
    | split | dsimp only

theorem frame_requestWarm {fp : List Part} {u0 : State} (s : State) (c : Nat) (lost : Bool)
    (hfp : [.regs, .pwr, .time, .freeCtr] ⊆ fp) (h0 : SameBut fp u0 s) :
    SameBut fp u0 (requestWarm s c lost) := by
  unfold requestWarm
  dsimp only
  repeat'
    first
    | with_reducible assumption | exact List.Subset.trans (by decide) hfp | with_reducible intro _
    | with_reducible apply sameBut_ite | with_reducible apply frame_wr | with_reducible apply frame_seedTime
    | with_reducible apply frame_onPwr | dsimp only

theorem frame_railLost {fp : List Part} {u0 : State} (s : State) (r : Rail)
    (hfp : [.regs, .shadow, .pages, .pwr, .tap, .gc, .gen, .host, .inputs, .exc, .cores, .bands, .hkc, .queueEcc,
        .aout, .inCoefs, .chains, .flt, .time, .lanes, .ring, .adm, .addrTable, .streams, .strmSel, .vat, .cmd,
            .reams, .captSel, .gaps, .twin, .slots, .engines, .edges, .sports, .lites, .levels, .strobes, .cal,
                .fuses, .safe, .badBands, .freeCtr] ⊆ fp) (h0 : SameBut fp u0 s) :
    SameBut fp u0 (railLost s r) := by
  unfold railLost
  dsimp only
  repeat'
    first
    | with_reducible assumption | exact List.Subset.trans (by decide) hfp | with_reducible apply sameBut_ite
    | with_reducible apply frame_setRail | with_reducible apply frame_coldReset
    | with_reducible apply frame_coldAgain | with_reducible apply frame_requestWarm
    | with_reducible apply frame_evt | with_reducible apply frame_lanesLost | split | dsimp only

theorem frame_execRailLost (r : Rail) (s : State) :
    ∃ s', execRailLost r s = .next s' ∧ SameBut [.regs, .shadow, .pages, .pwr, .tap, .gc, .gen, .host, .inputs, .exc,
        .cores, .bands, .hkc, .queueEcc, .aout, .inCoefs, .chains, .flt, .time, .lanes, .ring, .adm, .addrTable,
            .streams, .strmSel, .vat, .cmd, .reams, .captSel, .gaps, .twin, .slots, .engines, .edges, .sports,
                .lites, .levels, .strobes, .cal, .fuses, .safe, .badBands, .freeCtr] s s' := by
  refine ⟨_, rfl, ?_⟩
  repeat'
    first
    | with_reducible assumption | with_reducible exact SameBut.refl _ _ | decide
    | with_reducible apply frame_railLost

theorem frame_execAnalogRailHoldEnd (r : Rail) (s : State) :
    ∃ s', execAnalogRailHoldEnd r s = .next s' ∧ SameBut [.pwr] s s' := by
  refine ⟨_, rfl, ?_⟩
  repeat'
    first
    | with_reducible assumption | with_reducible exact SameBut.refl _ _ | decide | with_reducible intro _
    | with_reducible apply frame_when | with_reducible apply frame_setRail | dsimp only

theorem frame_execVdd12lRestored (s : State) :
    ∃ s', execVdd12lRestored s = .next s' ∧ SameBut [.regs, .pwr] s s' := by
  refine ⟨_, rfl, ?_⟩
  repeat'
    first
    | with_reducible assumption | with_reducible exact SameBut.refl _ _ | decide | with_reducible intro _
    | with_reducible apply frame_when | with_reducible apply frame_evt | with_reducible apply frame_setRail
    | dsimp only

theorem frame_execVbkApplied (s : State) :
    ∃ s', execVbkApplied s = .next s' ∧ SameBut [.pwr] s s' := by
  refine ⟨_, rfl, ?_⟩
  repeat'
    first
    | with_reducible assumption | with_reducible exact SameBut.refl _ _ | decide | with_reducible intro _
    | with_reducible apply sameBut_ite | with_reducible apply frame_when | with_reducible apply frame_setRail
    | with_reducible apply frame_onPwr | dsimp only

theorem frame_sampleStraps {fp : List Part} {u0 : State} (s : State)
    (hfp : [.pins] ⊆ fp) (h0 : SameBut fp u0 s) :
    SameBut fp u0 (sampleStraps s) := by
  unfold sampleStraps
  repeat'
    first
    | with_reducible assumption | exact List.Subset.trans (by decide) hfp
    | with_reducible apply SameBut.set_pins

theorem frame_coldTime {fp : List Part} {u0 : State} (s : State)
    (hfp : [.regs, .time, .freeCtr] ⊆ fp) (h0 : SameBut fp u0 s) :
    SameBut fp u0 (coldTime s) := by
  unfold coldTime
  dsimp only
  repeat'
    first
    | with_reducible assumption | exact List.Subset.trans (by decide) hfp | with_reducible apply sameBut_ite
    | with_reducible apply frame_seedTime | with_reducible apply frame_wr | with_reducible apply frame_drawn
    | split | dsimp only

theorem frame_powerGood {fp : List Part} {u0 : State} (s : State)
    (hfp : [.regs, .pwr, .pins, .time, .freeCtr] ⊆ fp) (h0 : SameBut fp u0 s) :
    SameBut fp u0 (powerGood s) := by
  unfold powerGood
  dsimp only
  repeat'
    first
    | with_reducible assumption | exact List.Subset.trans (by decide) hfp | with_reducible intro _
    | with_reducible apply sameBut_ite | with_reducible apply frame_sampleStraps
    | with_reducible apply frame_onPwr | with_reducible apply frame_coldTime | with_reducible apply frame_wr
    | with_reducible apply frame_bumpSat | with_reducible apply frame_onRstReq
    | with_reducible apply frame_setPower | dsimp only

theorem frame_execPowerGood (s : State) :
    ∃ s', execPowerGood s = .next s' ∧ SameBut [.regs, .pwr, .pins, .time, .freeCtr] s s' := by
  refine ⟨_, rfl, ?_⟩
  repeat'
    first
    | with_reducible assumption | with_reducible exact SameBut.refl _ _ | decide | with_reducible intro _
    | with_reducible apply frame_when | with_reducible apply frame_powerGood

theorem frame_execPwrenTimeout (s : State) :
    ∃ s', execPwrenTimeout s = .next s' ∧ SameBut [.pwr] s s' := by
  refine ⟨_, rfl, ?_⟩
  repeat'
    first
    | with_reducible assumption | with_reducible exact SameBut.refl _ _ | decide | with_reducible intro _
    | with_reducible apply frame_when | with_reducible apply frame_onPwr | dsimp only

theorem frame_execPwrenRetry (s : State) :
    ∃ s', execPwrenRetry s = .next s' ∧ SameBut [.pwr] s s' := by
  refine ⟨_, rfl, ?_⟩
  repeat'
    first
    | with_reducible assumption | with_reducible exact SameBut.refl _ _ | decide | with_reducible intro _
    | with_reducible apply sameBut_ite | with_reducible apply frame_when | with_reducible apply frame_onPwr
    | dsimp only

theorem frame_setClk {fp : List Part} {u0 : State} (s : State) (c : Clk) (v : Bool)
    (hfp : [.clk] ⊆ fp) (h0 : SameBut fp u0 s) :
    SameBut fp u0 (setClk s c v) := by
  unfold setClk
  repeat'
    first
    | with_reducible assumption | exact List.Subset.trans (by decide) hfp | with_reducible intro _
    | with_reducible apply frame_onClk | split | dsimp only

theorem frame_clockLost {fp : List Part} {u0 : State} (s : State) (c : Clk)
    (hfp : [.regs, .pwr, .clk, .time, .freeCtr] ⊆ fp) (h0 : SameBut fp u0 s) :
    SameBut fp u0 (clockLost s c) := by
  unfold clockLost
  dsimp only
  repeat'
    first
    | with_reducible assumption | exact List.Subset.trans (by decide) hfp | with_reducible apply sameBut_ite
    | with_reducible apply frame_setClk | with_reducible apply frame_bumpSat
    | with_reducible apply frame_requestWarm | split | dsimp only

theorem frame_execClockLost (c : Clk) (s : State) :
    ∃ s', execClockLost c s = .next s' ∧ SameBut [.regs, .pwr, .clk, .time, .freeCtr] s s' := by
  refine ⟨_, rfl, ?_⟩
  repeat'
    first
    | with_reducible assumption | with_reducible exact SameBut.refl _ _ | decide
    | with_reducible apply frame_clockLost

theorem frame_execClockRestored (c : Clk) (s : State) :
    ∃ s', execClockRestored c s = .next s' ∧ SameBut [.clk] s s' := by
  refine ⟨_, rfl, ?_⟩
  repeat'
    first
    | with_reducible assumption | with_reducible exact SameBut.refl _ _ | decide
    | with_reducible apply frame_setClk

theorem frame_refclkLost {fp : List Part} {u0 : State} (s : State) (r : RefLoss)
    (hfp : [.regs, .clk, .time, .lanes, .streams, .twin] ⊆ fp) (h0 : SameBut fp u0 s) :
    SameBut fp u0 (refclkLost s r) := by
  unfold refclkLost
  repeat'
    first
    | with_reducible assumption | exact List.Subset.trans (by decide) hfp | with_reducible intro _
    | with_reducible apply sameBut_ite | with_reducible apply frame_lanesLost
    | with_reducible apply frame_bumpSat | with_reducible apply frame_onClk
    | with_reducible apply frame_linkLost | split | dsimp only

theorem frame_execRefclkLost (r : RefLoss) (s : State) :
    ∃ s', execRefclkLost r s = .next s' ∧ SameBut [.regs, .clk, .time, .lanes, .streams, .twin] s s' := by
  refine ⟨_, rfl, ?_⟩
  repeat'
    first
    | with_reducible assumption | with_reducible exact SameBut.refl _ _ | decide
    | with_reducible apply frame_refclkLost

theorem frame_execRefclkRestored (r : RefLoss) (s : State) :
    ∃ s', execRefclkRestored r s = .next s' ∧ SameBut [.clk] s s' := by
  refine ⟨_, rfl, ?_⟩
  repeat'
    first
    | with_reducible assumption | with_reducible exact SameBut.refl _ _ | decide | with_reducible intro _
    | with_reducible apply frame_onClk | split | dsimp only

theorem frame_execXlpLost (s : State) :
    ∃ s', execXlpLost s = .next s' ∧ SameBut [.regs, .pwr, .clk] s s' := by
  refine ⟨_, rfl, ?_⟩
  repeat'
    first
    | with_reducible assumption | with_reducible exact SameBut.refl _ _ | decide | with_reducible intro _
    | with_reducible apply frame_when | with_reducible apply frame_onPwr | with_reducible apply frame_bumpSat
    | with_reducible apply frame_onClk | dsimp only

theorem frame_execXlpRestored (s : State) :
    ∃ s', execXlpRestored s = .next s' ∧ SameBut [.clk] s s' := by
  refine ⟨_, rfl, ?_⟩
  repeat'
    first
    | with_reducible assumption | with_reducible exact SameBut.refl _ _ | decide | with_reducible intro _
    | with_reducible apply frame_onClk | dsimp only

theorem frame_execNporLow (s : State) :
    ∃ s', execNporLow s = .next s' ∧ SameBut [.regs, .shadow, .pages, .pwr, .pins, .tap, .gc, .gen, .host, .inputs,
        .exc, .cores, .bands, .hkc, .queueEcc, .aout, .inCoefs, .chains, .flt, .time, .lanes, .ring, .adm,
            .addrTable, .streams, .strmSel, .vat, .cmd, .reams, .captSel, .gaps, .twin, .slots, .engines, .edges,
                .sports, .lites, .levels, .strobes, .cal, .fuses, .safe, .badBands, .freeCtr] s s' := by
  refine ⟨_, rfl, ?_⟩
  repeat'
    first
    | with_reducible assumption | with_reducible exact SameBut.refl _ _ | decide | with_reducible intro _
    | with_reducible apply sameBut_ite | with_reducible apply frame_when | with_reducible apply frame_coldAgain
    | with_reducible apply SameBut.set_pins | dsimp only

theorem frame_execNporRelease (s : State) :
    ∃ s', execNporRelease s = .next s' ∧ SameBut [.pwr, .pins] s s' := by
  refine ⟨_, rfl, ?_⟩
  repeat'
    first
    | with_reducible assumption | with_reducible exact SameBut.refl _ _ | decide | with_reducible intro _
    | with_reducible apply sameBut_ite | with_reducible apply frame_when
    | with_reducible apply frame_sampleStraps | with_reducible apply frame_onPwr
    | with_reducible apply SameBut.set_pins | dsimp only

theorem frame_wake {fp : List Part} {u0 : State} (s : State)
    (hfp : [.pwr] ⊆ fp) (h0 : SameBut fp u0 s) :
    SameBut fp u0 (wake s) := by
  unfold wake
  repeat'
    first
    | with_reducible assumption | exact List.Subset.trans (by decide) hfp | with_reducible intro _
    | with_reducible apply frame_onPwr | dsimp only

theorem frame_execNwake (s : State) :
    ∃ s', execNwake s = .next s' ∧ SameBut [.pwr] s s' := by
  refine ⟨_, rfl, ?_⟩
  repeat'
    first
    | with_reducible assumption | with_reducible exact SameBut.refl _ _ | decide | with_reducible intro _
    | with_reducible apply frame_when | with_reducible apply frame_wake

theorem frame_execWakeAt (s : State) :
    ∃ s', execWakeAt s = .next s' ∧ SameBut [.pwr] s s' := by
  refine ⟨_, rfl, ?_⟩
  repeat'
    first
    | with_reducible assumption | with_reducible exact SameBut.refl _ _ | decide | with_reducible intro _
    | with_reducible apply frame_when | with_reducible apply frame_wake | with_reducible apply frame_onPwr
    | split | dsimp only

theorem frame_execNrstreqFall (s : State) :
    ∃ s', execNrstreqFall s = .next s' ∧ SameBut [.pwr] s s' := by
  refine ⟨_, rfl, ?_⟩
  repeat'
    first
    | with_reducible assumption | with_reducible exact SameBut.refl _ _ | decide | with_reducible intro _
    | with_reducible apply sameBut_ite | with_reducible apply frame_when | with_reducible apply frame_onRstReq
    | dsimp only

theorem frame_execNrstreqHighSample (s : State) :
    ∃ s', execNrstreqHighSample s = .next s' ∧ SameBut [.pwr] s s' := by
  refine ⟨_, rfl, ?_⟩
  repeat'
    first
    | with_reducible assumption | with_reducible exact SameBut.refl _ _ | decide | with_reducible intro _
    | with_reducible apply frame_onRstReq | dsimp only

theorem frame_execNrstreqDebounced (s : State) :
    ∃ s', execNrstreqDebounced s = .next s' ∧ SameBut [.regs, .pwr, .time, .freeCtr] s s' := by
  refine ⟨_, rfl, ?_⟩
  repeat'
    first
    | with_reducible assumption | with_reducible exact SameBut.refl _ _ | decide | with_reducible intro _
    | with_reducible apply frame_when | with_reducible apply frame_requestWarm
    | with_reducible apply frame_onRstReq | dsimp only

theorem frame_execRstreqFailed (s : State) :
    ∃ s', execRstreqFailed s = .next s' ∧ SameBut [.regs, .pwr] s s' := by
  refine ⟨_, rfl, ?_⟩
  repeat'
    first
    | with_reducible assumption | with_reducible exact SameBut.refl _ _ | decide | with_reducible intro _
    | with_reducible apply frame_when | with_reducible apply frame_evt | with_reducible apply frame_onRstReq
    | dsimp only

theorem frame_execRstreqRecovered (s : State) :
    ∃ s', execRstreqRecovered s = .next s' ∧ SameBut [.regs, .pwr] s s' := by
  refine ⟨_, rfl, ?_⟩
  repeat'
    first
    | with_reducible assumption | with_reducible exact SameBut.refl _ _ | decide | with_reducible intro _
    | with_reducible apply frame_when | with_reducible apply frame_evt | with_reducible apply frame_onRstReq
    | dsimp only

theorem frame_execLockstepMismatch (s : State) :
    ∃ s', execLockstepMismatch s = .next s' ∧ SameBut [.regs, .pwr, .time, .freeCtr] s s' := by
  refine ⟨_, rfl, ?_⟩
  repeat'
    first
    | with_reducible assumption | with_reducible exact SameBut.refl _ _ | decide | with_reducible intro _
    | with_reducible apply frame_when | with_reducible apply frame_requestWarm | with_reducible apply frame_wr
    | dsimp only

theorem frame_execWatchdog (s : State) :
    ∃ s', execWatchdog s = .next s' ∧ SameBut [.regs, .pwr, .time, .freeCtr] s s' := by
  refine ⟨_, rfl, ?_⟩
  repeat'
    first
    | with_reducible assumption | with_reducible exact SameBut.refl _ _ | decide
    | with_reducible apply frame_requestWarm

theorem frame_execQueueFull (_q : Nat) (s : State) :
    ∃ s', execQueueFull _q s = .next s' ∧ SameBut [.regs, .pwr, .time, .freeCtr] s s' := by
  refine ⟨_, rfl, ?_⟩
  repeat'
    first
    | with_reducible assumption | with_reducible exact SameBut.refl _ _ | decide | with_reducible intro _
    | with_reducible apply frame_when | with_reducible apply frame_requestWarm | with_reducible apply frame_wr
    | dsimp only

theorem frame_warmTime {fp : List Part} {u0 : State} (s : State)
    (hfp : [.time, .freeCtr] ⊆ fp) (h0 : SameBut fp u0 s) :
    SameBut fp u0 (warmTime s) := by
  unfold warmTime
  dsimp only
  repeat'
    first
    | with_reducible assumption | exact List.Subset.trans (by decide) hfp | with_reducible intro _
    | with_reducible apply sameBut_ite | with_reducible apply frame_seedTime
    | with_reducible apply frame_onTime | split | dsimp only

theorem frame_warmOutputs {fp : List Part} {u0 : State} (s : State)
    (hfp : [.gc, .gen] ⊆ fp) (h0 : SameBut fp u0 s) :
    SameBut fp u0 (warmOutputs s) := by
  unfold warmOutputs
  repeat'
    first
    | with_reducible assumption | exact List.Subset.trans (by decide) hfp | with_reducible intro _
    | with_reducible apply sameBut_ite | with_reducible apply frame_releaseOutputs
    | with_reducible apply SameBut.set_gc_gen | dsimp only

theorem frame_warmStreams {fp : List Part} {u0 : State} (s : State)
    (hfp : [.regs, .queueEcc, .streams, .edges, .freeCtr] ⊆ fp) (h0 : SameBut fp u0 s) :
    SameBut fp u0 (warmStreams s) := by
  unfold warmStreams
  dsimp only
  repeat'
    first
    | with_reducible assumption | exact List.Subset.trans (by decide) hfp | with_reducible intro _
    | with_reducible apply sameBut_ite | with_reducible apply sameBut_foldl
    | with_reducible apply frame_drainEdge | with_reducible apply frame_flushRecs
    | with_reducible apply frame_closeQuire | with_reducible apply frame_storeQuire
    | with_reducible apply frame_onStrm | dsimp only

theorem frame_warmHost {fp : List Part} {u0 : State} (s : State)
    (hfp : [.host] ⊆ fp) (h0 : SameBut fp u0 s) :
    SameBut fp u0 (warmHost s) := by
  unfold warmHost
  repeat'
    first
    | with_reducible assumption | exact List.Subset.trans (by decide) hfp | with_reducible intro _
    | with_reducible apply SameBut.set_host | dsimp only

theorem frame_warmLanes {fp : List Part} {u0 : State} (s : State)
    (hfp : [.lanes, .ring, .adm] ⊆ fp) (h0 : SameBut fp u0 s) :
    SameBut fp u0 (warmLanes s) := by
  unfold warmLanes
  repeat'
    first
    | with_reducible assumption | exact List.Subset.trans (by decide) hfp | with_reducible intro _
    | with_reducible apply sameBut_ite | with_reducible apply SameBut.set_lanes_ring_adm | dsimp only

theorem frame_warmReset {fp : List Part} {u0 : State} (s : State)
    (hfp : [.regs, .shadow, .pages, .pwr, .gc, .gen, .host, .inputs, .hkc, .queueEcc, .aout, .chains, .flt, .time,
        .lanes, .ring, .adm, .streams, .vat, .cmd, .reams, .twin, .slots, .engines, .edges, .sports, .lites,
            .strobes, .fuses, .safe, .freeCtr] ⊆ fp) (h0 : SameBut fp u0 s) :
    SameBut fp u0 (warmReset s) := by
  unfold warmReset
  dsimp only
  repeat'
    first
    | with_reducible assumption | exact List.Subset.trans (by decide) hfp | with_reducible intro _
    | with_reducible apply sameBut_ite | with_reducible apply frame_wr64
    | with_reducible apply frame_warmOutputs | with_reducible apply frame_captWarm
    | with_reducible apply frame_liteWarm | with_reducible apply frame_safeWarm
    | with_reducible apply frame_cmdReset | with_reducible apply frame_warmStreams
    | with_reducible apply frame_wr | with_reducible apply frame_bumpSat | with_reducible apply frame_onPwr
    | with_reducible apply frame_setPower | with_reducible apply frame_warmLanes
    | with_reducible apply frame_warmHost | with_reducible apply frame_warmTime
    | with_reducible apply SameBut.set_shadow_pages_inputs_hkc_aout_chains_flt_twin_slots_engines_sports
    | with_reducible apply SameBut.set_regs | dsimp only

theorem frame_execWarmReset (s : State) :
    ∃ s', execWarmReset s = .next s' ∧ SameBut [.regs, .shadow, .pages, .pwr, .gc, .gen, .host, .inputs, .hkc,
        .queueEcc, .aout, .chains, .flt, .time, .lanes, .ring, .adm, .streams, .vat, .cmd, .reams, .twin, .slots,
            .engines, .edges, .sports, .lites, .strobes, .fuses, .safe, .freeCtr] s s' := by
  refine ⟨_, rfl, ?_⟩
  repeat'
    first
    | with_reducible assumption | with_reducible exact SameBut.refl _ _ | decide | with_reducible intro _
    | with_reducible apply frame_when | with_reducible apply frame_warmReset

theorem frame_execHubReady (s : State) :
    ∃ s', execHubReady s = .next s' ∧ SameBut [.pwr, .time, .streams] s s' := by
  refine ⟨_, rfl, ?_⟩
  repeat'
    first
    | with_reducible assumption | with_reducible exact SameBut.refl _ _ | decide | with_reducible intro _
    | with_reducible apply sameBut_ite | with_reducible apply frame_when | with_reducible apply frame_onTime
    | with_reducible apply frame_recoverStreams | with_reducible apply frame_onPwr | dsimp only

theorem frame_setWait {fp : List Part} {u0 : State} (s : State) (v : Nat)
    (hfp : [.regs] ⊆ fp) (h0 : SameBut fp u0 s) :
    SameBut fp u0 (setWait s v) := by
  unfold setWait
  repeat'
    first
    | with_reducible assumption | exact List.Subset.trans (by decide) hfp | with_reducible apply frame_wr

theorem frame_dawnComplete {fp : List Part} {u0 : State} (s : State)
    (hfp : [.regs, .pwr] ⊆ fp) (h0 : SameBut fp u0 s) :
    SameBut fp u0 (dawnComplete s) := by
  unfold dawnComplete
  repeat'
    first
    | with_reducible assumption | exact List.Subset.trans (by decide) hfp | with_reducible intro _
    | with_reducible apply sameBut_ite | with_reducible apply frame_evt | with_reducible apply frame_setWait
    | with_reducible apply frame_onPwr | dsimp only

theorem frame_dawnDone {fp : List Part} {u0 : State} (s : State) (st : PowerState)
    (hfp : [.regs, .pwr, .gc, .gen, .twin] ⊆ fp) (h0 : SameBut fp u0 s) :
    SameBut fp u0 (dawnDone s st) := by
  unfold dawnDone
  dsimp only
  repeat'
    first
    | with_reducible assumption | exact List.Subset.trans (by decide) hfp | with_reducible intro _
    | with_reducible apply sameBut_ite | with_reducible apply frame_onTwin | with_reducible apply frame_setWait
    | with_reducible apply frame_setPower | with_reducible apply frame_wr | with_reducible apply frame_onPwr
    | with_reducible apply frame_takeOutputs | with_reducible apply frame_releaseOutputs | dsimp only

theorem frame_leaveDawn {fp : List Part} {u0 : State} (s : State)
    (hfp : [.regs, .pwr, .gc, .gen, .twin] ⊆ fp) (h0 : SameBut fp u0 s) :
    SameBut fp u0 (leaveDawn s) := by
  unfold leaveDawn
  dsimp only
  repeat'
    first
    | with_reducible assumption | exact List.Subset.trans (by decide) hfp | with_reducible apply sameBut_ite
    | with_reducible apply frame_evt | with_reducible apply frame_setWait
    | with_reducible apply frame_dawnComplete | with_reducible apply frame_dawnDone | dsimp only

theorem frame_warmMarks {fp : List Part} {u0 : State} (s : State) (n : Nat)
    (hfp : [.inputs, .exc] ⊆ fp) (h0 : SameBut fp u0 s) :
    SameBut fp u0 (warmMarks s n) := by
  unfold warmMarks
  dsimp only
  repeat'
    first
    | with_reducible assumption | exact List.Subset.trans (by decide) hfp | with_reducible intro _
    | with_reducible apply sameBut_ite | with_reducible apply sameBut_foldl
    | with_reducible apply frame_excChange | with_reducible apply SameBut.set_inputs | dsimp only

theorem frame_resumeAt {fp : List Part} {u0 : State} (s : State) (n : Nat)
    (hfp : [.regs, .pwr, .gc, .gen, .inputs, .exc, .chains, .time, .streams, .gaps, .twin] ⊆ fp) (h0 : SameBut fp u0
        s) :
    SameBut fp u0 (resumeAt s n) := by
  unfold resumeAt
  dsimp only
  repeat'
    first
    | with_reducible assumption | exact List.Subset.trans (by decide) hfp | with_reducible intro _
    | with_reducible apply sameBut_ite | with_reducible apply frame_wr64 | with_reducible apply frame_noteGap
    | with_reducible apply frame_notSampledAll | with_reducible apply frame_onTime
    | with_reducible apply frame_onPwr | with_reducible apply frame_leaveDawn
    | with_reducible apply frame_restartChains | with_reducible apply frame_warmMarks | dsimp only

theorem frame_execSamplingResumed (s : State) :
    ∃ s', execSamplingResumed s = .next s' ∧ SameBut [.regs, .pwr, .gc, .gen, .inputs, .exc, .chains, .time,
        .streams, .gaps, .twin] s s' := by
  refine ⟨_, rfl, ?_⟩
  repeat'
    first
    | with_reducible assumption | with_reducible exact SameBut.refl _ _ | decide | with_reducible intro _
    | with_reducible apply frame_when | with_reducible apply frame_resumeAt | dsimp only

theorem frame_enterDusk {fp : List Part} {u0 : State} (s : State) (t : Nat)
    (hfp : [.regs, .pages, .pwr, .host, .ring, .adm, .sent, .streams, .reams, .twin] ⊆ fp) (h0 : SameBut fp u0 s) :
    SameBut fp u0 (enterDusk s t) := by
  unfold enterDusk
  dsimp only
  repeat'
    first
    | with_reducible assumption | exact List.Subset.trans (by decide) hfp | with_reducible intro _
    | with_reducible apply sameBut_ite | with_reducible apply sameBut_foldl | with_reducible apply frame_onPwr
    | with_reducible apply frame_wr | with_reducible apply frame_captDusk | with_reducible apply frame_setPower
    | with_reducible apply frame_onTwin | with_reducible apply frame_closeStream | dsimp only

theorem frame_powerTarget {fp : List Part} {u0 : State} (s : State) (t : Nat)
    (hfp : [.regs, .pages, .pwr, .host, .ring, .adm, .sent, .streams, .reams, .twin] ⊆ fp) (h0 : SameBut fp u0 s) :
    SameBut fp u0 (powerTarget s t) := by
  unfold powerTarget
  repeat'
    first
    | with_reducible assumption | exact List.Subset.trans (by decide) hfp | with_reducible apply sameBut_ite
    | with_reducible apply frame_enterDusk

theorem frame_pwrCtrl {fp : List Part} {u0 : State} (s : State) (p : Path) (v : Word)
    (hfp : [.regs, .pages, .pwr, .host, .ring, .adm, .sent, .streams, .reams, .twin, .changes] ⊆ fp) (h0 : SameBut fp
        u0 s) :
    SameBut fp u0 (pwrCtrl s p v) := by
  unfold pwrCtrl
  repeat'
    first
    | with_reducible assumption | exact List.Subset.trans (by decide) hfp | with_reducible intro _
    | with_reducible apply frame_hostAct | with_reducible apply frame_powerTarget | dsimp only

theorem frame_execTargetMidnight (p : Path) (s : State) :
    ∃ s', execTargetMidnight p s = .next s' ∧ SameBut [.regs, .pages, .pwr, .host, .ring, .adm, .sent, .streams,
        .reams, .twin, .changes] s s' := by
  refine ⟨_, rfl, ?_⟩
  repeat'
    first
    | with_reducible assumption | with_reducible exact SameBut.refl _ _ | decide
    | with_reducible apply frame_pwrCtrl

theorem frame_execTargetRemoval (p : Path) (s : State) :
    ∃ s', execTargetRemoval p s = .next s' ∧ SameBut [.regs, .pages, .pwr, .host, .ring, .adm, .sent, .streams,
        .reams, .twin, .changes] s s' := by
  refine ⟨_, rfl, ?_⟩
  repeat'
    first
    | with_reducible assumption | with_reducible exact SameBut.refl _ _ | decide
    | with_reducible apply frame_pwrCtrl

theorem frame_execTargetTwilight (p : Path) (s : State) :
    ∃ s', execTargetTwilight p s = .next s' ∧ SameBut [.regs, .pages, .pwr, .host, .ring, .adm, .sent, .streams,
        .reams, .twin, .changes] s s' := by
  refine ⟨_, rfl, ?_⟩
  repeat'
    first
    | with_reducible assumption | with_reducible exact SameBut.refl _ _ | decide
    | with_reducible apply frame_pwrCtrl

theorem frame_rstCtrl {fp : List Part} {u0 : State} (s : State) (p : Path) (v : Word)
    (hfp : [.regs, .pages, .pwr, .host, .time, .changes, .freeCtr] ⊆ fp) (h0 : SameBut fp u0 s) :
    SameBut fp u0 (rstCtrl s p v) := by
  unfold rstCtrl
  repeat'
    first
    | with_reducible assumption | exact List.Subset.trans (by decide) hfp | with_reducible intro _
    | with_reducible apply frame_hostAct | with_reducible apply frame_requestWarm | dsimp only

theorem frame_execRstCtrl (p : Path) (v : Word) (s : State) :
    ∃ s', execRstCtrl p v s = .next s' ∧ SameBut [.regs, .pages, .pwr, .host, .time, .changes, .freeCtr] s s' := by
  refine ⟨_, rfl, ?_⟩
  repeat'
    first
    | with_reducible assumption | with_reducible exact SameBut.refl _ _ | decide
    | with_reducible apply frame_rstCtrl

theorem frame_enterMidnight {fp : List Part} {u0 : State} (s : State) (removal : Bool)
    (hfp : [.regs, .shadow, .pages, .pwr, .tap, .gc, .gen, .host, .inputs, .exc, .cores, .bands, .hkc, .queueEcc,
        .aout, .inCoefs, .chains, .flt, .time, .lanes, .ring, .adm, .addrTable, .streams, .strmSel, .vat, .cmd,
            .reams, .captSel, .gaps, .twin, .slots, .engines, .edges, .sports, .lites, .levels, .strobes, .cal,
                .fuses, .safe, .badBands, .freeCtr] ⊆ fp) (h0 : SameBut fp u0 s) :
    SameBut fp u0 (enterMidnight s removal) := by
  unfold enterMidnight
  dsimp only
  repeat'
    first
    | with_reducible assumption | exact List.Subset.trans (by decide) hfp | with_reducible intro _
    | with_reducible apply sameBut_ite | with_reducible apply frame_coldReset
    | with_reducible apply frame_onPwr | dsimp only

theorem frame_duskOver {fp : List Part} {u0 : State} (s : State)
    (hfp : [.regs, .shadow, .pages, .pwr, .tap, .gc, .gen, .host, .inputs, .exc, .cores, .bands, .hkc, .queueEcc,
        .aout, .inCoefs, .chains, .flt, .time, .lanes, .ring, .adm, .addrTable, .streams, .strmSel, .vat, .cmd,
            .reams, .captSel, .gaps, .twin, .slots, .engines, .edges, .sports, .lites, .levels, .strobes, .cal,
                .fuses, .safe, .badBands, .freeCtr] ⊆ fp) (h0 : SameBut fp u0 s) :
    SameBut fp u0 (duskOver s) := by
  unfold duskOver
  dsimp only
  repeat'
    first
    | with_reducible assumption | exact List.Subset.trans (by decide) hfp | with_reducible intro _
    | with_reducible apply sameBut_ite | with_reducible apply frame_evt | with_reducible apply frame_onPwr
    | with_reducible apply frame_wr | with_reducible apply frame_enterMidnight
    | with_reducible apply frame_setPower | dsimp only

theorem frame_execDuskEnd (s : State) :
    ∃ s', execDuskEnd s = .next s' ∧ SameBut [.regs, .shadow, .pages, .pwr, .tap, .gc, .gen, .host, .inputs, .exc,
        .cores, .bands, .hkc, .queueEcc, .aout, .inCoefs, .chains, .flt, .time, .lanes, .ring, .adm, .addrTable,
            .streams, .strmSel, .vat, .cmd, .reams, .captSel, .gaps, .twin, .slots, .engines, .edges, .sports,
                .lites, .levels, .strobes, .cal, .fuses, .safe, .badBands, .freeCtr] s s' := by
  refine ⟨_, rfl, ?_⟩
  repeat'
    first
    | with_reducible assumption | with_reducible exact SameBut.refl _ _ | decide | with_reducible intro _
    | with_reducible apply frame_when | with_reducible apply frame_duskOver

theorem frame_execDuskLimit (s : State) :
    ∃ s', execDuskLimit s = .next s' ∧ SameBut [.regs, .shadow, .pages, .pwr, .tap, .gc, .gen, .host, .inputs, .exc,
        .cores, .bands, .hkc, .queueEcc, .aout, .inCoefs, .chains, .flt, .time, .lanes, .ring, .adm, .addrTable,
            .sent, .streams, .strmSel, .vat, .cmd, .reams, .captSel, .gaps, .twin, .slots, .engines, .edges, .sports,
                .lites, .levels, .strobes, .cal, .nv, .fuses, .changes, .safe, .badBands, .freeCtr] s s' := by
  refine ⟨_, rfl, ?_⟩
  repeat'
    first
    | with_reducible assumption | with_reducible exact SameBut.refl _ _ | decide | with_reducible intro _
    | with_reducible apply sameBut_ite | with_reducible apply sameBut_foldl | with_reducible apply frame_when
    | with_reducible apply frame_endSpills | with_reducible apply frame_duskOver
    | with_reducible apply frame_onPwr | with_reducible apply frame_duskCommands | dsimp only

theorem frame_faultSrcClear {fp : List Part} {u0 : State} (s : State) (mask : Word)
    (hfp : [.regs] ⊆ fp) (h0 : SameBut fp u0 s) :
    SameBut fp u0 (faultSrcClear s mask) := by
  unfold faultSrcClear
  repeat'
    first
    | with_reducible assumption | exact List.Subset.trans (by decide) hfp | with_reducible apply frame_wr

theorem frame_execFaultSrcClear (p : Path) (mask : Word) (s : State) :
    ∃ s', execFaultSrcClear p mask s = .next s' ∧ SameBut [.regs, .pages, .host] s s' := by
  refine ⟨_, rfl, ?_⟩
  repeat'
    first
    | with_reducible assumption | with_reducible exact SameBut.refl _ _ | decide | with_reducible intro _
    | with_reducible apply frame_gated | with_reducible apply frame_faultSrcClear | dsimp only

theorem frame_onBall {fp : List Part} {u0 : State} (s : State) (gen : Bool) (b : Nat) (f : Ball → Ball)
    (hfp : [.gc, .gen] ⊆ fp) (h0 : SameBut fp u0 s) :
    SameBut fp u0 (onBall s gen b f) := by
  unfold onBall
  repeat'
    first
    | with_reducible assumption | exact List.Subset.trans (by decide) hfp | with_reducible apply sameBut_ite
    | with_reducible apply frame_onGen | with_reducible apply frame_onGc

theorem frame_execKeeperRelease (gen : Bool) (b : Nat) (s : State) :
    ∃ s', execKeeperRelease gen b s = .next s' ∧ SameBut [.gc, .gen] s s' := by
  refine ⟨_, rfl, ?_⟩
  repeat'
    first
    | with_reducible assumption | with_reducible exact SameBut.refl _ _ | decide | with_reducible intro _
    | with_reducible apply sameBut_ite | with_reducible apply frame_onBall | dsimp only

theorem frame_execReleasedNetEdge (gen : Bool) (b : Nat) (s : State) :
    ∃ s', execReleasedNetEdge gen b s = .next s' ∧ SameBut [.gc, .gen] s s' := by
  refine ⟨_, rfl, ?_⟩
  repeat'
    first
    | with_reducible assumption | with_reducible exact SameBut.refl _ _ | decide | with_reducible intro _
    | with_reducible apply sameBut_ite | with_reducible apply frame_onBall | dsimp only

theorem frame_execTapInstruction (i : TapInstr) (s : State) :
    ∃ s', execTapInstruction i s = .next s' ∧ SameBut [.tap] s s' := by
  refine ⟨_, rfl, ?_⟩
  repeat'
    first
    | with_reducible assumption | with_reducible exact SameBut.refl _ _ | decide
    | with_reducible apply SameBut.set_tap

end Sys2Proof.Machine
end

