-- ==== Sys2Proof/Laws/FrameViews.lean ====
section
/-!
SUPPORT. What every operation of Machine/Views.lean leaves alone (SameBut): one lemma for each operation that answers a state.
-/
set_option linter.all false

namespace Sys2Proof.Machine

theorem frame_latchFor {fp : List Part} {u0 : State} (s : State) (p : Path) (b : Blk) (a : Nat)
    (hfp : [.host] ⊆ fp) (h0 : SameBut fp u0 s) :
    SameBut fp u0 (latchFor s p b a) := by
  unfold latchFor
  repeat'
    first
    | with_reducible assumption | exact List.Subset.trans (by decide) hfp | with_reducible intro _
    | with_reducible apply sameBut_foldl | with_reducible apply frame_onPath | dsimp only

theorem frame_readEffect {fp : List Part} {u0 : State} (s : State) (a : Nat)
    (hfp : [.regs] ⊆ fp) (h0 : SameBut fp u0 s) :
    SameBut fp u0 (readEffect s a) := by
  unfold readEffect
  repeat'
    first
    | with_reducible assumption | exact List.Subset.trans (by decide) hfp | with_reducible apply sameBut_ite
    | with_reducible apply frame_coefAdvance | with_reducible apply frame_lvlAdvance
    | with_reducible apply frame_wr | with_reducible apply frame_polyAdvance

theorem frame_readChal {fp : List Part} {u0 : State} (s : State) (p : Path)
    (hfp : [.host, .freeCtr] ⊆ fp) (h0 : SameBut fp u0 s) :
    SameBut fp u0 (readChal s p).1 := by
  unfold readChal
  dsimp only
  repeat'
    first
    | with_reducible assumption | exact List.Subset.trans (by decide) hfp | with_reducible intro _
    | with_reducible apply frame_chal0Read | with_reducible apply frame_onPath | dsimp only

theorem frame_readReg {fp : List Part} {u0 : State} (s : State) (p : Path) (a : Nat)
    (hfp : [.regs, .host, .freeCtr] ⊆ fp) (h0 : SameBut fp u0 s) :
    SameBut fp u0 (readReg s p a).1 := by
  unfold readReg
  repeat'
    first
    | with_reducible assumption | exact List.Subset.trans (by decide) hfp | with_reducible intro _
    | with_reducible apply sameBut_ite | with_reducible apply sameBut_ite_fst
    | with_reducible apply frame_readChal | with_reducible apply frame_onPath
    | with_reducible apply frame_latchFor | with_reducible apply frame_readEffect | split | dsimp only

end Sys2Proof.Machine
end

