-- ==== Sys2Proof/Laws/FramePages.lean ====
section
/-!
SUPPORT. What every operation of Machine/Pages.lean leaves alone (SameBut): one lemma for each operation that answers a state.
-/
set_option linter.all false

namespace Sys2Proof.Machine

theorem frame_copyShadows {fp : List Part} {u0 : State} (s : State) (g : Nat)
    (hfp : [.regs, .shadow] ⊆ fp) (h0 : SameBut fp u0 s) :
    SameBut fp u0 (copyShadows s g) := by
  unfold copyShadows
  repeat'
    first
    | with_reducible assumption | exact List.Subset.trans (by decide) hfp | with_reducible intro _
    | with_reducible apply sameBut_foldl | with_reducible apply frame_wr
    | with_reducible apply SameBut.set_shadow | dsimp only

theorem frame_coreServed {fp : List Part} {u0 : State} (s0 s : State) (q : Nat)
    (hfp : [.regs] ⊆ fp) (h0 : SameBut fp u0 s) :
    SameBut fp u0 (coreServed s0 s q) := by
  unfold coreServed
  repeat'
    first
    | with_reducible assumption | exact List.Subset.trans (by decide) hfp | with_reducible apply sameBut_ite
    | with_reducible apply frame_clearBlock

theorem frame_commitEffects {fp : List Part} {u0 : State} (s0 s : State) (b : Blk) (i n : Nat)
    (hfp : [.regs, .gc, .gen, .inputs, .exc, .cores, .bands, .aout, .chains, .flt, .slots, .edges, .sports, .lites,
        .safe] ⊆ fp) (h0 : SameBut fp u0 s) :
    SameBut fp u0 (commitEffects s0 s b i n) := by
  unfold commitEffects
  repeat'
    first
    | with_reducible assumption | exact List.Subset.trans (by decide) hfp
    | with_reducible apply frame_fqCommitted | with_reducible apply frame_coreServed
    | with_reducible apply frame_ccCommitted | with_reducible apply frame_fltCommitted
    | with_reducible apply frame_timeCommitted | with_reducible apply frame_motCommitted
    | with_reducible apply frame_edgeCommitted | with_reducible apply frame_sprtCommitted
    | with_reducible apply frame_liteCommitted | with_reducible apply frame_safeCommitted
    | with_reducible apply frame_aoutCommitted | split

theorem frame_applyCommit {fp : List Part} {u0 : State} (s : State) (b : Blk) (i g n : Nat) (late : Bool)
    (hfp : [.regs, .shadow, .pages, .gc, .gen, .inputs, .exc, .cores, .bands, .aout, .chains, .flt, .slots, .edges,
        .sports, .lites, .safe] ⊆ fp) (h0 : SameBut fp u0 s) :
    SameBut fp u0 (applyCommit s b i g n late) := by
  unfold applyCommit
  dsimp only
  repeat'
    first
    | with_reducible assumption | exact List.Subset.trans (by decide) hfp | with_reducible intro _
    | with_reducible apply frame_onPage | with_reducible apply frame_copyShadows
    | with_reducible apply frame_commitEffects | dsimp only

theorem frame_applySoon {fp : List Part} {u0 : State} (s : State) (g : Nat)
    (hfp : [.regs, .shadow, .pages, .gc, .gen, .inputs, .exc, .cores, .bands, .aout, .chains, .flt, .slots, .edges,
        .sports, .lites, .safe] ⊆ fp) (h0 : SameBut fp u0 s) :
    SameBut fp u0 (applySoon s g) := by
  unfold applySoon
  repeat'
    first
    | with_reducible assumption | exact List.Subset.trans (by decide) hfp | with_reducible intro _
    | with_reducible apply frame_applyCommit | with_reducible apply frame_onPage | split | dsimp only

theorem frame_tickCommits {fp : List Part} {u0 : State} (s : State)
    (hfp : [.regs, .shadow, .pages, .gc, .gen, .inputs, .exc, .cores, .bands, .aout, .chains, .flt, .slots, .edges,
        .sports, .lites, .safe] ⊆ fp) (h0 : SameBut fp u0 s) :
    SameBut fp u0 (tickCommits s) := by
  unfold tickCommits
  repeat'
    first
    | with_reducible assumption | exact List.Subset.trans (by decide) hfp | with_reducible intro _
    | with_reducible apply sameBut_foldl | with_reducible apply frame_applySoon

theorem frame_commitSeen {fp : List Part} {u0 : State} (s : State) (g : Nat)
    (hfp : [.pages] ⊆ fp) (h0 : SameBut fp u0 s) :
    SameBut fp u0 (commitSeen s g) := by
  unfold commitSeen
  repeat'
    first
    | with_reducible assumption | exact List.Subset.trans (by decide) hfp | with_reducible intro _
    | with_reducible apply frame_onPage | dsimp only

theorem frame_scheduleCommit {fp : List Part} {u0 : State} (s : State) (b : Blk) (i g : Nat)
    (hfp : [.pages, .sports] ⊆ fp) (h0 : SameBut fp u0 s) :
    SameBut fp u0 (scheduleCommit s b i g) := by
  unfold scheduleCommit
  dsimp only
  repeat'
    first
    | with_reducible assumption | exact List.Subset.trans (by decide) hfp | with_reducible intro _
    | with_reducible apply frame_onPage | with_reducible apply frame_sprtScheduled | split | dsimp only

theorem frame_cancelCommit {fp : List Part} {u0 : State} (s : State) (b : Blk) (i g : Nat)
    (hfp : [.shadow, .pages, .flt] ⊆ fp) (h0 : SameBut fp u0 s) :
    SameBut fp u0 (cancelCommit s b i g) := by
  unfold cancelCommit
  dsimp only
  repeat'
    first
    | with_reducible assumption | exact List.Subset.trans (by decide) hfp | with_reducible intro _
    | with_reducible apply frame_onPage | split | with_reducible apply SameBut.set_shadow
    | with_reducible apply SameBut.set_flt | dsimp only

theorem frame_commitWrite {fp : List Part} {u0 : State} (s : State) (b : Blk) (i g cmd : Nat)
    (hfp : [.shadow, .pages, .flt, .sports] ⊆ fp) (h0 : SameBut fp u0 s) :
    SameBut fp u0 (commitWrite s b i g cmd) := by
  unfold commitWrite
  repeat'
    first
    | with_reducible assumption | exact List.Subset.trans (by decide) hfp | with_reducible intro _
    | with_reducible apply frame_onPage | with_reducible apply frame_commitSeen
    | with_reducible apply frame_scheduleCommit | with_reducible apply frame_cancelCommit | split | dsimp only

theorem frame_scheduledCommit {fp : List Part} {u0 : State} (s : State) (g : Nat)
    (hfp : [.regs, .shadow, .pages, .gc, .gen, .host, .inputs, .exc, .cores, .bands, .aout, .chains, .flt, .slots,
        .edges, .sports, .lites, .safe] ⊆ fp) (h0 : SameBut fp u0 s) :
    SameBut fp u0 (scheduledCommit s g) := by
  unfold scheduledCommit
  repeat'
    first
    | with_reducible assumption | exact List.Subset.trans (by decide) hfp | with_reducible intro _
    | with_reducible apply sameBut_ite | with_reducible apply frame_refuse | with_reducible apply frame_onPage
    | with_reducible apply frame_applyCommit | split | dsimp only

theorem frame_execScheduledCommit (page : Nat) (s : State) :
    ∃ s', execScheduledCommit page s = .next s' ∧ SameBut [.regs, .shadow, .pages, .gc, .gen, .host, .inputs, .exc,
        .cores, .bands, .aout, .chains, .flt, .slots, .edges, .sports, .lites, .safe] s s' := by
  refine ⟨_, rfl, ?_⟩
  repeat'
    first
    | with_reducible assumption | with_reducible exact SameBut.refl _ _ | decide
    | with_reducible apply frame_scheduledCommit

theorem frame_motIdle {fp : List Part} {u0 : State} (s0 s : State)
    (hfp : [.gc, .gen, .slots] ⊆ fp) (h0 : SameBut fp u0 s) :
    SameBut fp u0 (motIdle s0 s) := by
  unfold motIdle
  dsimp only
  repeat'
    first
    | with_reducible assumption | exact List.Subset.trans (by decide) hfp | with_reducible intro _
    | with_reducible apply sameBut_foldl | with_reducible apply frame_releaseLegs
    | with_reducible apply frame_syncGroups | with_reducible apply SameBut.set_slots | dsimp only

theorem frame_ringIdle {fp : List Part} {u0 : State} (s : State)
    (hfp : [.ring, .adm] ⊆ fp) (h0 : SameBut fp u0 s) :
    SameBut fp u0 (ringIdle s) := by
  unfold ringIdle
  repeat'
    first
    | with_reducible assumption | exact List.Subset.trans (by decide) hfp
    | with_reducible apply SameBut.set_ring_adm

theorem frame_blockIdle {fp : List Part} {u0 : State} (s0 s : State) (b : Blk) (i : Nat)
    (hfp : [.regs, .gc, .gen, .host, .inputs, .exc, .cores, .bands, .hkc, .aout, .chains, .flt, .time, .lanes, .ring,
        .adm, .streams, .strmSel, .vat, .cmd, .reams, .captSel, .twin, .slots, .engines, .edges, .sports, .lites,
            .strobes, .cal, .changes, .safe, .freeCtr] ⊆ fp) (h0 : SameBut fp u0 s) :
    SameBut fp u0 (blockIdle s0 s b i) := by
  unfold blockIdle
  dsimp only
  repeat'
    first
    | with_reducible assumption | exact List.Subset.trans (by decide) hfp | with_reducible intro _
    | with_reducible apply sameBut_ite | with_reducible apply frame_coreServed
    | with_reducible apply frame_ccCommitted | with_reducible apply frame_hkcSelect
    | with_reducible apply frame_linkLost | with_reducible apply frame_ringIdle
    | with_reducible apply frame_onEng | with_reducible apply frame_motIdle
    | with_reducible apply frame_edgeCommitted | with_reducible apply frame_sprtEnable
    | with_reducible apply frame_liteWarm | with_reducible apply frame_abortJob
    | with_reducible apply frame_safeWarm | split | with_reducible apply SameBut.set_twin
    | with_reducible apply SameBut.set_time | with_reducible apply SameBut.set_host
    | with_reducible apply SameBut.set_streams_strmSel | with_reducible apply SameBut.set_hkc
    | with_reducible apply SameBut.set_lites_strobes | with_reducible apply SameBut.set_cal
    | with_reducible apply SameBut.set_sports | with_reducible apply SameBut.set_edges
    | with_reducible apply SameBut.set_reams_captSel | with_reducible apply SameBut.set_chains_flt
    | with_reducible apply SameBut.set_bands | with_reducible apply SameBut.set_inputs_exc
    | with_reducible apply SameBut.set_aout | dsimp only

theorem frame_blockReset {fp : List Part} {u0 : State} (s : State) (b : Blk) (i g : Nat)
    (hfp : [.regs, .shadow, .pages, .gc, .gen, .host, .inputs, .exc, .cores, .bands, .hkc, .aout, .chains, .flt,
        .time, .lanes, .ring, .adm, .streams, .strmSel, .vat, .cmd, .reams, .captSel, .twin, .slots, .engines,
            .edges, .sports, .lites, .strobes, .cal, .changes, .safe, .freeCtr] ⊆ fp) (h0 : SameBut fp u0 s) :
    SameBut fp u0 (blockReset s b i g) := by
  unfold blockReset
  dsimp only
  repeat'
    first
    | with_reducible assumption | exact List.Subset.trans (by decide) hfp | with_reducible intro _
    | with_reducible apply frame_blockIdle | with_reducible apply frame_clearBlock | split
    | with_reducible apply SameBut.set_regs_shadow_pages | dsimp only

theorem frame_setFreeze {fp : List Part} {u0 : State} (s : State) (p : Path) (g : Nat) (on : Bool)
    (hfp : [.pages] ⊆ fp) (h0 : SameBut fp u0 s) :
    SameBut fp u0 (setFreeze s p g on) := by
  unfold setFreeze
  repeat'
    first
    | with_reducible assumption | exact List.Subset.trans (by decide) hfp | with_reducible intro _
    | with_reducible apply sameBut_ite | with_reducible apply frame_onPage | dsimp only

theorem frame_setEnable {fp : List Part} {u0 : State} (s : State) (b : Blk) (i g : Nat) (on : Bool)
    (hfp : [.regs, .sports] ⊆ fp) (h0 : SameBut fp u0 s) :
    SameBut fp u0 (setEnable s b i g on) := by
  unfold setEnable
  dsimp only
  repeat'
    first
    | with_reducible assumption | exact List.Subset.trans (by decide) hfp | with_reducible apply sameBut_ite
    | with_reducible apply frame_wr | with_reducible apply frame_sprtEnable | split | dsimp only

theorem frame_ctrlWrite {fp : List Part} {u0 : State} (s : State) (p : Path) (b : Blk) (i g : Nat) (v : Word)
    (hfp : [.regs, .shadow, .pages, .gc, .gen, .host, .inputs, .exc, .cores, .bands, .hkc, .aout, .chains, .flt,
        .time, .lanes, .ring, .adm, .streams, .strmSel, .vat, .cmd, .reams, .captSel, .twin, .slots, .engines,
            .edges, .sports, .lites, .strobes, .cal, .changes, .safe, .freeCtr] ⊆ fp) (h0 : SameBut fp u0 s) :
    SameBut fp u0 (ctrlWrite s p b i g v) := by
  unfold ctrlWrite
  dsimp only
  repeat'
    first
    | with_reducible assumption | exact List.Subset.trans (by decide) hfp | with_reducible apply sameBut_ite
    | with_reducible apply frame_setFreeze | with_reducible apply frame_setEnable
    | with_reducible apply frame_blockReset | dsimp only

theorem frame_errcodeClear {fp : List Part} {u0 : State} (s : State) (g : Nat) (v : Word)
    (hfp : [.regs, .pages] ⊆ fp) (h0 : SameBut fp u0 s) :
    SameBut fp u0 (errcodeClear s g v) := by
  unfold errcodeClear
  repeat'
    first
    | with_reducible assumption | exact List.Subset.trans (by decide) hfp | with_reducible intro _
    | with_reducible apply sameBut_ite | with_reducible apply frame_onPage | with_reducible apply frame_wr
    | dsimp only

end Sys2Proof.Machine
end

