-- ==== Sys2Proof/Laws/FrameHostPort.lean ====
section
/-!
SUPPORT. What every operation of Machine/HostPort.lean leaves alone (SameBut): one lemma for each operation that answers a state.
-/
set_option linter.all false

namespace Sys2Proof.Machine

theorem frame_plainWrite {fp : List Part} {u0 : State} (s : State) (w : Who) (a : Nat) (r : RegRow) (v : Word)
    (hfp : [.regs, .shadow] ⊆ fp) (h0 : SameBut fp u0 s) :
    SameBut fp u0 (plainWrite s w a r v) := by
  unfold plainWrite
  repeat'
    first
    | with_reducible assumption | exact List.Subset.trans (by decide) hfp | with_reducible apply sameBut_ite
    | with_reducible apply frame_wr | split | with_reducible apply SameBut.set_shadow

theorem frame_motCtrl {fp : List Part} {u0 : State} (s : State) (w : Who) (v : Word)
    (hfp : [.regs, .pages, .gen, .host, .slots] ⊆ fp) (h0 : SameBut fp u0 s) :
    SameBut fp u0 (motCtrl s w v) := by
  unfold motCtrl
  repeat'
    first
    | with_reducible assumption | exact List.Subset.trans (by decide) hfp
    | with_reducible apply frame_motClearFault | with_reducible apply frame_cycleMark
    | with_reducible apply frame_refuse | split

theorem frame_laneWrite {fp : List Part} {u0 : State} (s0 s : State) (i o : Nat)
    (hfp : [.regs, .time, .lanes, .streams, .twin] ⊆ fp) (h0 : SameBut fp u0 s) :
    SameBut fp u0 (laneWrite s0 s i o) := by
  unfold laneWrite
  dsimp only
  repeat'
    first
    | with_reducible assumption | exact List.Subset.trans (by decide) hfp | with_reducible apply sameBut_ite
    | with_reducible apply frame_laneWritten | with_reducible apply frame_linkLost | dsimp only

theorem frame_ringWrite {fp : List Part} {u0 : State} (s0 s : State) (o : Nat) (v : Word)
    (hfp : [.regs, .time, .adm, .addrTable] ⊆ fp) (h0 : SameBut fp u0 s) :
    SameBut fp u0 (ringWrite s0 s o v) := by
  unfold ringWrite
  dsimp only
  repeat'
    first
    | with_reducible assumption | exact List.Subset.trans (by decide) hfp | with_reducible apply sameBut_ite
    | with_reducible apply frame_ringWritten | with_reducible apply frame_portsLost | dsimp only

theorem frame_clearAny {fp : List Part} {u0 : State} (s : State) (a : Nat) (v : Word)
    (hfp : [.regs] ⊆ fp) (h0 : SameBut fp u0 s) :
    SameBut fp u0 (clearAny s a v) := by
  unfold clearAny
  repeat'
    first
    | with_reducible assumption | exact List.Subset.trans (by decide) hfp | with_reducible apply sameBut_ite
    | with_reducible apply frame_wr

theorem frame_regEffect {fp : List Part} {u0 : State} (s : State) (w : Who) (b : Blk) (i a : Nat) (r : RegRow) (v :
    Word)
    (hfp : [.regs, .shadow, .pages, .pwr, .gen, .host, .bands, .hkc, .queueEcc, .aout, .flt, .time, .lanes, .ring,
        .adm, .addrTable, .sent, .streams, .strmSel, .vat, .cmd, .reams, .captSel, .twin, .slots, .engines, .edges,
            .sports, .lites, .levels, .strobes, .changes, .safe, .freeCtr] ⊆ fp) (h0 : SameBut fp u0 s) :
    SameBut fp u0 (regEffect s w b i a r v) := by
  unfold regEffect
  dsimp only
  repeat'
    first
    | with_reducible assumption | exact List.Subset.trans (by decide) hfp | with_reducible intro _
    | with_reducible apply sameBut_ite | with_reducible apply frame_plainWrite
    | with_reducible apply frame_queueClear | with_reducible apply frame_powerTarget
    | with_reducible apply frame_requestWarm | with_reducible apply frame_faultSrcClear
    | with_reducible apply frame_clearAny | with_reducible apply frame_hostEdges
    | with_reducible apply frame_hkcBegin | with_reducible apply frame_hkcSelect
    | with_reducible apply frame_onAo | with_reducible apply frame_coefWrite
    | with_reducible apply frame_polyWrite | with_reducible apply frame_syncSchedule
    | with_reducible apply frame_syncCancel | with_reducible apply frame_onTime
    | with_reducible apply frame_laneWrite | with_reducible apply frame_ringWrite
    | with_reducible apply frame_strmCtrl | with_reducible apply frame_strmSelWrite
    | with_reducible apply frame_hostAck | with_reducible apply frame_cmdRegWrite
    | with_reducible apply frame_submitCmd | with_reducible apply frame_captCtrl
    | with_reducible apply frame_captSelWrite | with_reducible apply frame_aeCtrl
    | with_reducible apply frame_subWrite | with_reducible apply frame_motCtrl
    | with_reducible apply frame_edgeCtrl | with_reducible apply frame_sprtCtrl
    | with_reducible apply frame_liteCtrl | with_reducible apply frame_lvlWrite
    | with_reducible apply frame_strobeCtrl | with_reducible apply frame_zipCtrl
    | with_reducible apply frame_calCtrl | with_reducible apply frame_respWrite
    | with_reducible apply frame_authWrite | with_reducible apply frame_safeCtrl
    | with_reducible apply frame_twinCtrl | split | dsimp only

theorem frame_writeReg {fp : List Part} {u0 : State} (s : State) (w : Who) (b : Blk) (i a : Nat) (r : RegRow) (v :
    Word)
    (hfp : [.regs, .shadow, .pages, .pwr, .gen, .host, .bands, .hkc, .queueEcc, .aout, .flt, .time, .lanes, .ring,
        .adm, .addrTable, .sent, .streams, .strmSel, .vat, .cmd, .reams, .captSel, .twin, .slots, .engines, .edges,
            .sports, .lites, .levels, .strobes, .changes, .safe, .freeCtr] ⊆ fp) (h0 : SameBut fp u0 s) :
    SameBut fp u0 (writeReg s w b i a r v) := by
  unfold writeReg
  repeat'
    first
    | with_reducible assumption | exact List.Subset.trans (by decide) hfp | with_reducible intro _
    | with_reducible apply frame_checked | with_reducible apply frame_entered
    | with_reducible apply frame_regEffect | dsimp only

theorem frame_settleAttn {fp : List Part} {u0 : State} (s : State)
    (hfp : [.host] ⊆ fp) (h0 : SameBut fp u0 s) :
    SameBut fp u0 (settleAttn s) := by
  unfold settleAttn
  repeat'
    first
    | with_reducible assumption | exact List.Subset.trans (by decide) hfp | with_reducible apply sameBut_ite
    | with_reducible apply SameBut.set_host

theorem frame_headerEffect {fp : List Part} {u0 : State} (s : State) (w : Who) (b : Blk) (i g o : Nat) (v : Word)
    (hfp : [.regs, .shadow, .pages, .gc, .gen, .host, .inputs, .exc, .cores, .bands, .hkc, .aout, .chains, .flt,
        .time, .lanes, .ring, .adm, .streams, .strmSel, .vat, .cmd, .reams, .captSel, .twin, .slots, .engines,
            .edges, .sports, .lites, .strobes, .cal, .changes, .safe, .freeCtr] ⊆ fp) (h0 : SameBut fp u0 s) :
    SameBut fp u0 (headerEffect s w b i g o v) := by
  unfold headerEffect
  repeat'
    first
    | with_reducible assumption | exact List.Subset.trans (by decide) hfp | with_reducible apply sameBut_ite
    | with_reducible apply frame_settleAttn | with_reducible apply frame_ctrlWrite
    | with_reducible apply frame_setEnable | with_reducible apply frame_wr
    | with_reducible apply frame_errcodeClear | with_reducible apply frame_commitWrite | split

theorem frame_writeHeaderReg {fp : List Part} {u0 : State} (s : State) (w : Who) (b : Blk) (i g o : Nat) (v : Word)
    (hfp : [.regs, .shadow, .pages, .gc, .gen, .host, .inputs, .exc, .cores, .bands, .hkc, .aout, .chains, .flt,
        .time, .lanes, .ring, .adm, .streams, .strmSel, .vat, .cmd, .reams, .captSel, .twin, .slots, .engines,
            .edges, .sports, .lites, .strobes, .cal, .changes, .safe, .freeCtr] ⊆ fp) (h0 : SameBut fp u0 s) :
    SameBut fp u0 (writeHeaderReg s w b i g o v) := by
  unfold writeHeaderReg
  repeat'
    first
    | with_reducible assumption | exact List.Subset.trans (by decide) hfp | with_reducible intro _
    | with_reducible apply frame_checked | with_reducible apply frame_entered
    | with_reducible apply frame_headerEffect | dsimp only

theorem frame_winWrite {fp : List Part} {u0 : State} (s : State) (w : Who) (addr : Nat) (x : Win) (v : Word)
    (hfp : [.regs, .pages, .host, .vat, .engines] ⊆ fp) (h0 : SameBut fp u0 s) :
    SameBut fp u0 (winWrite s w addr x v) := by
  unfold winWrite
  repeat'
    first
    | with_reducible assumption | exact List.Subset.trans (by decide) hfp | with_reducible apply sameBut_ite
    | with_reducible apply frame_refuse | with_reducible apply frame_refuseOn
    | with_reducible apply frame_engHostWrite | with_reducible apply frame_vatPutWord | split

theorem frame_readWord {fp : List Part} {u0 : State} (s : State) (p : Path) (a : Nat)
    (hfp : [.regs, .host, .freeCtr] ⊆ fp) (h0 : SameBut fp u0 s) :
    SameBut fp u0 (readWord s p a).1 := by
  unfold readWord
  repeat'
    first
    | with_reducible assumption | exact List.Subset.trans (by decide) hfp | with_reducible apply sameBut_ite
    | with_reducible apply sameBut_ite_fst | with_reducible apply frame_readReg | split

theorem frame_writeWord {fp : List Part} {u0 : State} (s : State) (w : Who) (a : Nat) (v : Word)
    (hfp : [.regs, .shadow, .pages, .pwr, .gc, .gen, .host, .inputs, .exc, .cores, .bands, .hkc, .queueEcc, .aout,
        .chains, .flt, .time, .lanes, .ring, .adm, .addrTable, .sent, .streams, .strmSel, .vat, .cmd, .reams,
            .captSel, .twin, .slots, .engines, .edges, .sports, .lites, .levels, .strobes, .cal, .changes, .safe,
                .freeCtr] ⊆ fp) (h0 : SameBut fp u0 s) :
    SameBut fp u0 (writeWord s w a v) := by
  unfold writeWord
  repeat'
    first
    | with_reducible assumption | exact List.Subset.trans (by decide) hfp | with_reducible apply sameBut_ite
    | with_reducible apply frame_refuse | with_reducible apply frame_writeHeaderReg
    | with_reducible apply frame_writeReg | with_reducible apply frame_winWrite | split

theorem frame_hostWrite {fp : List Part} {u0 : State} (s : State) (p : Path) (a : Nat) (v : Word)
    (hfp : [.regs, .shadow, .pages, .pwr, .gc, .gen, .host, .inputs, .exc, .cores, .bands, .hkc, .queueEcc, .aout,
        .chains, .flt, .time, .lanes, .ring, .adm, .addrTable, .sent, .streams, .strmSel, .vat, .cmd, .reams,
            .captSel, .twin, .slots, .engines, .edges, .sports, .lites, .levels, .strobes, .cal, .changes, .safe,
                .freeCtr] ⊆ fp) (h0 : SameBut fp u0 s) :
    SameBut fp u0 (hostWrite s p a v) := by
  unfold hostWrite
  repeat'
    first
    | with_reducible assumption | exact List.Subset.trans (by decide) hfp | with_reducible apply sameBut_ite
    | with_reducible apply frame_writeWord

theorem frame_hostRead {fp : List Part} {u0 : State} (s : State) (p : Path) (a : Nat)
    (hfp : [.regs, .host, .freeCtr] ⊆ fp) (h0 : SameBut fp u0 s) :
    SameBut fp u0 (hostRead s p a) := by
  unfold hostRead
  repeat'
    first
    | with_reducible assumption | exact List.Subset.trans (by decide) hfp | with_reducible apply sameBut_ite
    | with_reducible apply frame_readWord

theorem frame_readWords {fp : List Part} {u0 : State} (s : State) (p : Path) (a n : Nat)
    (hfp : [.regs, .host, .freeCtr] ⊆ fp) (h0 : SameBut fp u0 s) : SameBut fp u0 (readWords s p a n).1 := by
  induction n generalizing s a with
  | zero => exact h0
  | succ n ih => exact ih _ _ (frame_readWord s p a (List.Subset.trans (by decide) hfp) h0)

theorem frame_writeWords {fp : List Part} {u0 : State} (s : State) (p : Path) (a : Nat) (l : List Word)
    (hfp : [.regs, .shadow, .pages, .pwr, .gc, .gen, .host, .inputs, .exc, .cores, .bands, .hkc, .queueEcc, .aout,
        .chains, .flt, .time, .lanes, .ring, .adm, .addrTable, .sent, .streams, .strmSel, .vat, .cmd, .reams,
            .captSel, .twin, .slots, .engines, .edges, .sports, .lites, .levels, .strobes, .cal, .changes, .safe,
                .freeCtr] ⊆ fp)
    (h0 : SameBut fp u0 s) : SameBut fp u0 (writeWords s p a l) := by
  induction l generalizing s a with
  | nil => exact h0
  | cons v t ih => exact ih _ _ (frame_writeWord s (some p) a v (List.Subset.trans (by decide) hfp) h0)

theorem frame_execRegisterWrite (p : Path) (addr : Nat) (v : Word) (s : State) :
    ∃ s', execRegisterWrite p addr v s = .next s' ∧ SameBut [.regs, .shadow, .pages, .pwr, .gc, .gen, .host, .inputs,
        .exc, .cores, .bands, .hkc, .queueEcc, .aout, .chains, .flt, .time, .lanes, .ring, .adm, .addrTable, .sent,
            .streams, .strmSel, .vat, .cmd, .reams, .captSel, .twin, .slots, .engines, .edges, .sports, .lites,
                .levels, .strobes, .cal, .changes, .safe, .freeCtr] s s' := by
  refine ⟨_, rfl, ?_⟩
  repeat'
    first
    | with_reducible assumption | with_reducible exact SameBut.refl _ _ | decide
    | with_reducible apply frame_hostWrite

theorem frame_execLoRead (p : Path) (addr : Nat) (s : State) :
    ∃ s', execLoRead p addr s = .next s' ∧ SameBut [.regs, .host, .freeCtr] s s' := by
  refine ⟨_, rfl, ?_⟩
  repeat'
    first
    | with_reducible assumption | with_reducible exact SameBut.refl _ _ | decide
    | with_reducible apply frame_hostRead

theorem frame_commitPage {fp : List Part} {u0 : State} (s : State) (p : Path) (page cmd : Nat)
    (hfp : [.regs, .shadow, .pages, .pwr, .gc, .gen, .host, .inputs, .exc, .cores, .bands, .hkc, .queueEcc, .aout,
        .chains, .flt, .time, .lanes, .ring, .adm, .addrTable, .sent, .streams, .strmSel, .vat, .cmd, .reams,
            .captSel, .twin, .slots, .engines, .edges, .sports, .lites, .levels, .strobes, .cal, .changes, .safe,
                .freeCtr] ⊆ fp) (h0 : SameBut fp u0 s) :
    SameBut fp u0 (commitPage s p page cmd) := by
  unfold commitPage
  repeat'
    first
    | with_reducible assumption | exact List.Subset.trans (by decide) hfp
    | with_reducible apply frame_hostWrite

theorem frame_execCommitApplyNow (p : Path) (page : Nat) (s : State) :
    ∃ s', execCommitApplyNow p page s = .next s' ∧ SameBut [.regs, .shadow, .pages, .pwr, .gc, .gen, .host, .inputs,
        .exc, .cores, .bands, .hkc, .queueEcc, .aout, .chains, .flt, .time, .lanes, .ring, .adm, .addrTable, .sent,
            .streams, .strmSel, .vat, .cmd, .reams, .captSel, .twin, .slots, .engines, .edges, .sports, .lites,
                .levels, .strobes, .cal, .changes, .safe, .freeCtr] s s' := by
  refine ⟨_, rfl, ?_⟩
  repeat'
    first
    | with_reducible assumption | with_reducible exact SameBut.refl _ _ | decide
    | with_reducible apply frame_commitPage

theorem frame_execCommitApplyAt (p : Path) (page : Nat) (s : State) :
    ∃ s', execCommitApplyAt p page s = .next s' ∧ SameBut [.regs, .shadow, .pages, .pwr, .gc, .gen, .host, .inputs,
        .exc, .cores, .bands, .hkc, .queueEcc, .aout, .chains, .flt, .time, .lanes, .ring, .adm, .addrTable, .sent,
            .streams, .strmSel, .vat, .cmd, .reams, .captSel, .twin, .slots, .engines, .edges, .sports, .lites,
                .levels, .strobes, .cal, .changes, .safe, .freeCtr] s s' := by
  refine ⟨_, rfl, ?_⟩
  repeat'
    first
    | with_reducible assumption | with_reducible exact SameBut.refl _ _ | decide
    | with_reducible apply frame_commitPage

theorem frame_execCommitCancel (p : Path) (page : Nat) (s : State) :
    ∃ s', execCommitCancel p page s = .next s' ∧ SameBut [.regs, .shadow, .pages, .pwr, .gc, .gen, .host, .inputs,
        .exc, .cores, .bands, .hkc, .queueEcc, .aout, .chains, .flt, .time, .lanes, .ring, .adm, .addrTable, .sent,
            .streams, .strmSel, .vat, .cmd, .reams, .captSel, .twin, .slots, .engines, .edges, .sports, .lites,
                .levels, .strobes, .cal, .changes, .safe, .freeCtr] s s' := by
  refine ⟨_, rfl, ?_⟩
  repeat'
    first
    | with_reducible assumption | with_reducible exact SameBut.refl _ _ | decide
    | with_reducible apply frame_commitPage

theorem frame_ctrlPage {fp : List Part} {u0 : State} (s : State) (p : Path) (page : Nat) (enable freeze reset : Bool)
    (hfp : [.regs, .shadow, .pages, .pwr, .gc, .gen, .host, .inputs, .exc, .cores, .bands, .hkc, .queueEcc, .aout,
        .chains, .flt, .time, .lanes, .ring, .adm, .addrTable, .sent, .streams, .strmSel, .vat, .cmd, .reams,
            .captSel, .twin, .slots, .engines, .edges, .sports, .lites, .levels, .strobes, .cal, .changes, .safe,
                .freeCtr] ⊆ fp) (h0 : SameBut fp u0 s) :
    SameBut fp u0 (ctrlPage s p page enable freeze reset) := by
  unfold ctrlPage
  repeat'
    first
    | with_reducible assumption | exact List.Subset.trans (by decide) hfp
    | with_reducible apply frame_hostWrite

theorem frame_execPageEnable (p : Path) (page : Nat) (enable : Bool) (s : State) :
    ∃ s', execPageEnable p page enable s = .next s' ∧ SameBut [.regs, .shadow, .pages, .pwr, .gc, .gen, .host,
        .inputs, .exc, .cores, .bands, .hkc, .queueEcc, .aout, .chains, .flt, .time, .lanes, .ring, .adm, .addrTable,
            .sent, .streams, .strmSel, .vat, .cmd, .reams, .captSel, .twin, .slots, .engines, .edges, .sports,
                .lites, .levels, .strobes, .cal, .changes, .safe, .freeCtr] s s' := by
  refine ⟨_, rfl, ?_⟩
  repeat'
    first
    | with_reducible assumption | with_reducible exact SameBut.refl _ _ | decide
    | with_reducible apply frame_ctrlPage

theorem frame_execBlockReset (p : Path) (page : Nat) (s : State) :
    ∃ s', execBlockReset p page s = .next s' ∧ SameBut [.regs, .shadow, .pages, .pwr, .gc, .gen, .host, .inputs,
        .exc, .cores, .bands, .hkc, .queueEcc, .aout, .chains, .flt, .time, .lanes, .ring, .adm, .addrTable, .sent,
            .streams, .strmSel, .vat, .cmd, .reams, .captSel, .twin, .slots, .engines, .edges, .sports, .lites,
                .levels, .strobes, .cal, .changes, .safe, .freeCtr] s s' := by
  refine ⟨_, rfl, ?_⟩
  repeat'
    first
    | with_reducible assumption | with_reducible exact SameBut.refl _ _ | decide
    | with_reducible apply frame_ctrlPage

theorem frame_execFreeze (p : Path) (page : Nat) (on : Bool) (s : State) :
    ∃ s', execFreeze p page on s = .next s' ∧ SameBut [.regs, .shadow, .pages, .pwr, .gc, .gen, .host, .inputs, .exc,
        .cores, .bands, .hkc, .queueEcc, .aout, .chains, .flt, .time, .lanes, .ring, .adm, .addrTable, .sent,
            .streams, .strmSel, .vat, .cmd, .reams, .captSel, .twin, .slots, .engines, .edges, .sports, .lites,
                .levels, .strobes, .cal, .changes, .safe, .freeCtr] s s' := by
  refine ⟨_, rfl, ?_⟩
  repeat'
    first
    | with_reducible assumption | with_reducible exact SameBut.refl _ _ | decide
    | with_reducible apply frame_ctrlPage

theorem frame_execErrcodeClear (p : Path) (page : Nat) (mask : Word) (s : State) :
    ∃ s', execErrcodeClear p page mask s = .next s' ∧ SameBut [.regs, .shadow, .pages, .pwr, .gc, .gen, .host,
        .inputs, .exc, .cores, .bands, .hkc, .queueEcc, .aout, .chains, .flt, .time, .lanes, .ring, .adm, .addrTable,
            .sent, .streams, .strmSel, .vat, .cmd, .reams, .captSel, .twin, .slots, .engines, .edges, .sports,
                .lites, .levels, .strobes, .cal, .changes, .safe, .freeCtr] s s' := by
  refine ⟨_, rfl, ?_⟩
  repeat'
    first
    | with_reducible assumption | with_reducible exact SameBut.refl _ _ | decide
    | with_reducible apply frame_hostWrite

theorem frame_execCoefDataWrite (p : Path) (v : Word) (s : State) :
    ∃ s', execCoefDataWrite p v s = .next s' ∧ SameBut [.regs, .shadow, .pages, .pwr, .gc, .gen, .host, .inputs,
        .exc, .cores, .bands, .hkc, .queueEcc, .aout, .chains, .flt, .time, .lanes, .ring, .adm, .addrTable, .sent,
            .streams, .strmSel, .vat, .cmd, .reams, .captSel, .twin, .slots, .engines, .edges, .sports, .lites,
                .levels, .strobes, .cal, .changes, .safe, .freeCtr] s s' := by
  refine ⟨_, rfl, ?_⟩
  repeat'
    first
    | with_reducible assumption | with_reducible exact SameBut.refl _ _ | decide
    | with_reducible apply frame_hostWrite

theorem frame_execCoefDataRead (p : Path) (s : State) :
    ∃ s', execCoefDataRead p s = .next s' ∧ SameBut [.regs, .host, .freeCtr] s s' := by
  refine ⟨_, rfl, ?_⟩
  repeat'
    first
    | with_reducible assumption | with_reducible exact SameBut.refl _ _ | decide
    | with_reducible apply frame_hostRead

theorem frame_execPolyDataWrite (p : Path) (page : Nat) (v : Word) (s : State) :
    ∃ s', execPolyDataWrite p page v s = .next s' ∧ SameBut [.regs, .shadow, .pages, .pwr, .gc, .gen, .host, .inputs,
        .exc, .cores, .bands, .hkc, .queueEcc, .aout, .chains, .flt, .time, .lanes, .ring, .adm, .addrTable, .sent,
            .streams, .strmSel, .vat, .cmd, .reams, .captSel, .twin, .slots, .engines, .edges, .sports, .lites,
                .levels, .strobes, .cal, .changes, .safe, .freeCtr] s s' := by
  refine ⟨_, rfl, ?_⟩
  repeat'
    first
    | with_reducible assumption | with_reducible exact SameBut.refl _ _ | decide
    | with_reducible apply frame_hostWrite

theorem frame_execPolyDataRead (p : Path) (page : Nat) (s : State) :
    ∃ s', execPolyDataRead p page s = .next s' ∧ SameBut [.regs, .host, .freeCtr] s s' := by
  refine ⟨_, rfl, ?_⟩
  repeat'
    first
    | with_reducible assumption | with_reducible exact SameBut.refl _ _ | decide
    | with_reducible apply frame_hostRead

theorem frame_execRedMinRead (p : Path) (page : Nat) (c : Fin 8) (s : State) :
    ∃ s', execRedMinRead p page c s = .next s' ∧ SameBut [.regs, .host, .freeCtr] s s' := by
  refine ⟨_, rfl, ?_⟩
  repeat'
    first
    | with_reducible assumption | with_reducible exact SameBut.refl _ _ | decide
    | with_reducible apply frame_hostRead

theorem frame_onHost {fp : List Part} {u0 : State} (s : State) (f : HostState → HostState)
    (hfp : [.host] ⊆ fp) (h0 : SameBut fp u0 s) :
    SameBut fp u0 (onHost s f) := by
  unfold onHost
  repeat'
    first
    | with_reducible assumption | exact List.Subset.trans (by decide) hfp
    | with_reducible apply SameBut.set_host

theorem frame_spiStart {fp : List Part} {u0 : State} (s : State)
    (hfp : [.host] ⊆ fp) (h0 : SameBut fp u0 s) :
    SameBut fp u0 (spiStart s) := by
  unfold spiStart
  repeat'
    first
    | with_reducible assumption | exact List.Subset.trans (by decide) hfp | with_reducible intro _
    | with_reducible apply frame_onHost | dsimp only

theorem frame_spiCount {fp : List Part} {u0 : State} (s : State)
    (hfp : [.regs, .host] ⊆ fp) (h0 : SameBut fp u0 s) :
    SameBut fp u0 (spiCount s) := by
  unfold spiCount
  repeat'
    first
    | with_reducible assumption | exact List.Subset.trans (by decide) hfp | with_reducible intro _
    | with_reducible apply frame_bumpWrap | with_reducible apply frame_onPath | dsimp only

theorem frame_spiRefuse {fp : List Part} {u0 : State} (s : State) (a r : Nat)
    (hfp : [.regs, .pages, .host] ⊆ fp) (h0 : SameBut fp u0 s) :
    SameBut fp u0 (spiRefuse s a r) := by
  unfold spiRefuse
  repeat'
    first
    | with_reducible assumption | exact List.Subset.trans (by decide) hfp | with_reducible apply frame_refuseOn

theorem frame_spiCommand {fp : List Part} {u0 : State} (s : State) (a : Nat) (act : State → State) (hact : ∀ x,
    SameBut fp u0 x → SameBut fp u0 (act x))
    (hfp : [.regs, .pages, .host] ⊆ fp) (h0 : SameBut fp u0 s) :
    SameBut fp u0 (spiCommand s a act) := by
  unfold spiCommand
  dsimp only
  repeat'
    first
    | with_reducible assumption | exact List.Subset.trans (by decide) hfp | with_reducible apply sameBut_ite
    | with_reducible apply frame_spiStart | with_reducible apply frame_spiRefuse
    | with_reducible apply frame_spiCount | with_reducible apply hact | dsimp only

theorem frame_spiSend {fp : List Part} {u0 : State} (s : State) (data : State → State × List Word) (hdata : ∀ x,
    SameBut fp u0 x → SameBut fp u0 (data x).1)
    (hfp : [.host] ⊆ fp) (h0 : SameBut fp u0 s) :
    SameBut fp u0 (spiSend s data) := by
  unfold spiSend
  dsimp only
  repeat'
    first
    | with_reducible assumption | exact List.Subset.trans (by decide) hfp | with_reducible intro _
    | with_reducible apply frame_takeStatus | with_reducible apply frame_onHost | with_reducible apply hdata
    | dsimp only

theorem frame_spiLate {fp : List Part} {u0 : State} (s : State) (a n : Nat)
    (hfp : [.regs, .pages, .host] ⊆ fp) (h0 : SameBut fp u0 s) :
    SameBut fp u0 (spiLate s a n) := by
  unfold spiLate
  dsimp only
  repeat'
    first
    | with_reducible assumption | exact List.Subset.trans (by decide) hfp | with_reducible intro _
    | with_reducible apply frame_spiRefuse | with_reducible apply frame_onHost
    | with_reducible apply frame_takeStatus | dsimp only

theorem frame_cutWord {fp : List Part} {u0 : State} (s : State) (a : Nat) (cut : Bool)
    (hfp : [.regs, .pages, .host] ⊆ fp) (h0 : SameBut fp u0 s) :
    SameBut fp u0 (cutWord s a cut) := by
  unfold cutWord
  repeat'
    first
    | with_reducible assumption | exact List.Subset.trans (by decide) hfp | with_reducible apply sameBut_ite
    | with_reducible apply frame_spiRefuse

theorem frame_spiRead {fp : List Part} {u0 : State} (s : State) (a n : Nat) (cut : Bool) (period : Nat) (ready : Bool)
    (hfp : [.regs, .pages, .host, .freeCtr] ⊆ fp) (h0 : SameBut fp u0 s) :
    SameBut fp u0 (spiRead s a n cut period ready) := by
  unfold spiRead
  repeat'
    first
    | with_reducible assumption | exact List.Subset.trans (by decide) hfp | with_reducible intro _
    | with_reducible apply sameBut_ite | with_reducible apply frame_spiCommand
    | with_reducible apply frame_cutWord | with_reducible apply frame_spiSend
    | with_reducible apply frame_onPath | with_reducible apply frame_spiLate
    | with_reducible apply frame_readWords | dsimp only

theorem frame_execSpiRead (addr count : Nat) (s : State) (cut : Bool) (period : Nat) (ready : Bool) :
    ∃ s', execSpiRead addr count s cut period ready = .next s' ∧ SameBut [.regs, .pages, .host, .freeCtr] s s' := by
  refine ⟨_, rfl, ?_⟩
  repeat'
    first
    | with_reducible assumption | with_reducible exact SameBut.refl _ _ | decide
    | with_reducible apply frame_spiRead

theorem frame_spiWrite {fp : List Part} {u0 : State} (s : State) (a : Nat) (l : List Word) (cut : Bool)
    (hfp : [.regs, .shadow, .pages, .pwr, .gc, .gen, .host, .inputs, .exc, .cores, .bands, .hkc, .queueEcc, .aout,
        .chains, .flt, .time, .lanes, .ring, .adm, .addrTable, .sent, .streams, .strmSel, .vat, .cmd, .reams,
            .captSel, .twin, .slots, .engines, .edges, .sports, .lites, .levels, .strobes, .cal, .changes, .safe,
                .freeCtr] ⊆ fp) (h0 : SameBut fp u0 s) :
    SameBut fp u0 (spiWrite s a l cut) := by
  unfold spiWrite
  repeat'
    first
    | with_reducible assumption | exact List.Subset.trans (by decide) hfp | with_reducible intro _
    | with_reducible apply frame_spiCommand | with_reducible apply frame_onHost
    | with_reducible apply frame_cutWord | with_reducible apply frame_writeWords | dsimp only

theorem frame_execSpiWrite (addr : Nat) (data : List Word) (cut : Bool) (s : State) :
    ∃ s', execSpiWrite addr data cut s = .next s' ∧ SameBut [.regs, .shadow, .pages, .pwr, .gc, .gen, .host, .inputs,
        .exc, .cores, .bands, .hkc, .queueEcc, .aout, .chains, .flt, .time, .lanes, .ring, .adm, .addrTable, .sent,
            .streams, .strmSel, .vat, .cmd, .reams, .captSel, .twin, .slots, .engines, .edges, .sports, .lites,
                .levels, .strobes, .cal, .changes, .safe, .freeCtr] s s' := by
  refine ⟨_, rfl, ?_⟩
  repeat'
    first
    | with_reducible assumption | with_reducible exact SameBut.refl _ _ | decide
    | with_reducible apply frame_spiWrite

theorem frame_spiReadReq {fp : List Part} {u0 : State} (s : State) (a n : Nat) (cut : Bool)
    (hfp : [.regs, .pages, .host, .freeCtr] ⊆ fp) (h0 : SameBut fp u0 s) :
    SameBut fp u0 (spiReadReq s a n cut) := by
  unfold spiReadReq
  dsimp only
  repeat'
    first
    | with_reducible assumption | exact List.Subset.trans (by decide) hfp | with_reducible intro _
    | with_reducible apply sameBut_ite | with_reducible apply frame_spiCommand
    | with_reducible apply frame_onHost | with_reducible apply frame_cutWord
    | with_reducible apply frame_spiRefuse | with_reducible apply frame_readWords | dsimp only

theorem frame_execSpiReadReq (addr len : Nat) (s : State) (cut : Bool) :
    ∃ s', execSpiReadReq addr len s cut = .next s' ∧ SameBut [.regs, .pages, .host, .freeCtr] s s' := by
  refine ⟨_, rfl, ?_⟩
  repeat'
    first
    | with_reducible assumption | with_reducible exact SameBut.refl _ _ | decide
    | with_reducible apply frame_spiReadReq

theorem frame_drawWords {fp : List Part} {u0 : State} (s : State) (n : Nat)
    (hfp : [.freeCtr] ⊆ fp) (h0 : SameBut fp u0 s) : SameBut fp u0 (drawWords s n).1 := by
  induction n generalizing s with
  | zero => exact h0
  | succ n ih => exact ih _ (SameBut.set_freeCtr hfp h0)

theorem frame_spiFetch {fp : List Part} {u0 : State} (s : State) (n : Nat) (cut : Bool)
    (hfp : [.regs, .pages, .host, .freeCtr] ⊆ fp) (h0 : SameBut fp u0 s) :
    SameBut fp u0 (spiFetch s n cut) := by
  unfold spiFetch
  dsimp only
  repeat'
    first
    | with_reducible assumption | exact List.Subset.trans (by decide) hfp | with_reducible intro _
    | with_reducible apply frame_spiCommand | with_reducible apply frame_cutWord
    | with_reducible apply frame_spiSend | with_reducible apply frame_spiRefuse
    | with_reducible apply frame_drawWords | with_reducible apply frame_onHost | split | dsimp only

theorem frame_execSpiFetch (count : Nat) (s : State) (cut : Bool) :
    ∃ s', execSpiFetch count s cut = .next s' ∧ SameBut [.regs, .pages, .host, .freeCtr] s s' := by
  refine ⟨_, rfl, ?_⟩
  repeat'
    first
    | with_reducible assumption | with_reducible exact SameBut.refl _ _ | decide
    | with_reducible apply frame_spiFetch

theorem frame_spiStatus {fp : List Part} {u0 : State} (s : State)
    (hfp : [.regs, .host] ⊆ fp) (h0 : SameBut fp u0 s) :
    SameBut fp u0 (spiStatus s) := by
  unfold spiStatus
  repeat'
    first
    | with_reducible assumption | exact List.Subset.trans (by decide) hfp | with_reducible intro _
    | with_reducible apply sameBut_ite | with_reducible apply frame_spiSend
    | with_reducible apply frame_spiCount | with_reducible apply frame_spiStart | dsimp only

theorem frame_execSpiStatus (s : State) :
    ∃ s', execSpiStatus s = .next s' ∧ SameBut [.regs, .host] s s' := by
  refine ⟨_, rfl, ?_⟩
  repeat'
    first
    | with_reducible assumption | with_reducible exact SameBut.refl _ _ | decide
    | with_reducible apply frame_spiStatus

theorem frame_resetPort {fp : List Part} {u0 : State} (s : State)
    (hfp : [.regs, .pages, .host] ⊆ fp) (h0 : SameBut fp u0 s) :
    SameBut fp u0 (resetPort s) := by
  unfold resetPort
  dsimp only
  repeat'
    first
    | with_reducible assumption | exact List.Subset.trans (by decide) hfp | with_reducible intro _
    | with_reducible apply frame_spiCommand | with_reducible apply frame_wr
    | with_reducible apply frame_spiCount | with_reducible apply frame_onHost | dsimp only

theorem frame_execResetPort (s : State) :
    ∃ s', execResetPort s = .next s' ∧ SameBut [.regs, .pages, .host] s s' := by
  refine ⟨_, rfl, ?_⟩
  repeat'
    first
    | with_reducible assumption | with_reducible exact SameBut.refl _ _ | decide
    | with_reducible apply frame_resetPort

theorem frame_busyEnd {fp : List Part} {u0 : State} (s : State)
    (hfp : [.host] ⊆ fp) (h0 : SameBut fp u0 s) :
    SameBut fp u0 (busyEnd s) := by
  unfold busyEnd
  repeat'
    first
    | with_reducible assumption | exact List.Subset.trans (by decide) hfp | with_reducible intro _
    | with_reducible apply sameBut_ite | with_reducible apply frame_onHost | dsimp only

theorem frame_execBusyEnd (s : State) :
    ∃ s', execBusyEnd s = .next s' ∧ SameBut [.host] s s' := by
  refine ⟨_, rfl, ?_⟩
  repeat'
    first
    | with_reducible assumption | with_reducible exact SameBut.refl _ _ | decide
    | with_reducible apply frame_busyEnd

theorem frame_execAttentionPulse (s : State) :
    ∃ s', execAttentionPulse s = .next s' ∧ SameBut [.host] s s' := by
  refine ⟨_, rfl, ?_⟩
  repeat'
    first
    | with_reducible assumption | with_reducible exact SameBut.refl _ _ | decide | with_reducible intro _
    | with_reducible apply frame_when | with_reducible apply frame_onHost | dsimp only

theorem frame_execAttentionPulseEnd (s : State) :
    ∃ s', execAttentionPulseEnd s = .next s' ∧ SameBut [.host] s s' := by
  refine ⟨_, rfl, ?_⟩
  repeat'
    first
    | with_reducible assumption | with_reducible exact SameBut.refl _ _ | decide | with_reducible intro _
    | with_reducible apply frame_onHost | dsimp only

theorem frame_execAttentionRepeat (s : State) :
    ∃ s', execAttentionRepeat s = .next s' ∧ SameBut [.host] s s' := by
  refine ⟨_, rfl, ?_⟩
  repeat'
    first
    | with_reducible assumption | with_reducible exact SameBut.refl _ _ | decide | with_reducible intro _
    | with_reducible apply frame_when | with_reducible apply frame_onHost | dsimp only

theorem frame_setSession {fp : List Part} {u0 : State} (s : State) (k : Nat) (x : Option Session)
    (hfp : [.host] ⊆ fp) (h0 : SameBut fp u0 s) :
    SameBut fp u0 (setSession s k x) := by
  unfold setSession
  repeat'
    first
    | with_reducible assumption | exact List.Subset.trans (by decide) hfp | with_reducible intro _
    | with_reducible apply frame_onHost | dsimp only

theorem frame_frameRefuse {fp : List Part} {u0 : State} (s : State) (f : AccessFrame) (r : Rej)
    (hfp : [.regs, .pages, .host] ⊆ fp) (h0 : SameBut fp u0 s) :
    SameBut fp u0 (frameRefuse s f r) := by
  unfold frameRefuse
  repeat'
    first
    | with_reducible assumption | exact List.Subset.trans (by decide) hfp | with_reducible apply frame_bumpSat
    | with_reducible apply frame_refuseOn

theorem frame_refuseFrame {fp : List Part} {u0 : State} (s : State) (f : AccessFrame) (k : Option (Fin 8)) (r : Rej)
    (hfp : [.regs, .pages, .host] ⊆ fp) (h0 : SameBut fp u0 s) :
    SameBut fp u0 (refuseFrame s f k r).1 := by
  unfold refuseFrame
  dsimp only
  repeat'
    first
    | with_reducible assumption | exact List.Subset.trans (by decide) hfp
    | with_reducible apply frame_frameRefuse | with_reducible apply frame_takeStatus | split | dsimp only

theorem frame_frameWrites {fp : List Part} {u0 : State} (s : State) (p : Path) (a : Nat) (l : List Word)
    (hfp : [.regs, .shadow, .pages, .pwr, .gc, .gen, .host, .inputs, .exc, .cores, .bands, .hkc, .queueEcc, .aout,
        .chains, .flt, .time, .lanes, .ring, .adm, .addrTable, .sent, .streams, .strmSel, .vat, .cmd, .reams,
            .captSel, .twin, .slots, .engines, .edges, .sports, .lites, .levels, .strobes, .cal, .changes, .safe,
                .freeCtr] ⊆ fp)
    (h0 : SameBut fp u0 s) : SameBut fp u0 (frameWrites s p a l).1 := by
  have sub : ∀ {l : List Part}, l ⊆ [.regs, .shadow, .pages, .pwr, .gc, .gen, .host, .inputs, .exc, .cores, .bands,
      .hkc, .queueEcc, .aout, .chains, .flt, .time, .lanes, .ring, .adm, .addrTable, .sent, .streams, .strmSel, .vat,
          .cmd, .reams, .captSel, .twin, .slots, .engines, .edges, .sports, .lites, .levels, .strobes, .cal,
              .changes, .safe, .freeCtr] → l ⊆ fp := fun h => List.Subset.trans h hfp
  induction l generalizing s a with
  | nil => exact h0
  | cons v t ih =>
    exact ih _ _ (frame_writeWord _ (some p) a v (sub (by decide)) (frame_onPath s p _ (sub (by decide)) h0))

theorem frame_runFrame {fp : List Part} {u0 : State} (s : State) (f : AccessFrame) (k : Fin 8)
    (hfp : [.regs, .shadow, .pages, .pwr, .gc, .gen, .host, .inputs, .exc, .cores, .bands, .hkc, .queueEcc, .aout,
        .chains, .flt, .time, .lanes, .ring, .adm, .addrTable, .sent, .streams, .strmSel, .vat, .cmd, .reams,
            .captSel, .twin, .slots, .engines, .edges, .sports, .lites, .levels, .strobes, .cal, .changes, .safe,
                .freeCtr] ⊆ fp) (h0 : SameBut fp u0 s) :
    SameBut fp u0 (runFrame s f k).1 := by
  unfold runFrame
  dsimp only
  repeat'
    first
    | with_reducible assumption | exact List.Subset.trans (by decide) hfp | with_reducible intro _
    | with_reducible apply sameBut_ite | with_reducible apply sameBut_ite_fst
    | with_reducible apply frame_onPath | with_reducible apply frame_frameWrites
    | with_reducible apply frame_takeStatus | with_reducible apply frame_bumpSat
    | with_reducible apply frame_readWords | dsimp only

theorem frame_accessFrame {fp : List Part} {u0 : State} (s : State) (f : AccessFrame)
    (hfp : [.regs, .shadow, .pages, .pwr, .gc, .gen, .host, .inputs, .exc, .cores, .bands, .hkc, .queueEcc, .aout,
        .chains, .flt, .time, .lanes, .ring, .adm, .addrTable, .sent, .streams, .strmSel, .vat, .cmd, .reams,
            .captSel, .twin, .slots, .engines, .edges, .sports, .lites, .levels, .strobes, .cal, .changes, .safe,
                .freeCtr] ⊆ fp) (h0 : SameBut fp u0 s) :
    SameBut fp u0 (accessFrame s f).1 := by
  unfold accessFrame
  dsimp only
  repeat'
    first
    | with_reducible assumption | exact List.Subset.trans (by decide) hfp | with_reducible intro _
    | with_reducible apply sameBut_ite | with_reducible apply sameBut_ite_fst
    | with_reducible apply frame_bumpSat | with_reducible apply frame_refuseFrame
    | with_reducible apply frame_runFrame | with_reducible apply frame_onPath
    | with_reducible apply frame_setSession | split | dsimp only

theorem frame_accessHeard {fp : List Part} {u0 : State} (s : State) (f : AccessFrame)
    (hfp : [.regs, .shadow, .pages, .pwr, .gc, .gen, .host, .inputs, .exc, .cores, .bands, .hkc, .queueEcc, .aout,
        .chains, .flt, .time, .lanes, .ring, .adm, .addrTable, .sent, .streams, .strmSel, .vat, .cmd, .reams,
            .captSel, .twin, .slots, .engines, .edges, .sports, .lites, .levels, .strobes, .cal, .changes, .safe,
                .freeCtr] ⊆ fp)
    (h0 : SameBut fp u0 s) : SameBut fp u0 (accessHeard s f) := by
  have sub : ∀ {l : List Part}, l ⊆ [.regs, .shadow, .pages, .pwr, .gc, .gen, .host, .inputs, .exc, .cores, .bands,
      .hkc, .queueEcc, .aout, .chains, .flt, .time, .lanes, .ring, .adm, .addrTable, .sent, .streams, .strmSel, .vat,
          .cmd, .reams, .captSel, .twin, .slots, .engines, .edges, .sports, .lites, .levels, .strobes, .cal,
              .changes, .safe, .freeCtr] → l ⊆ fp := fun h => List.Subset.trans h hfp
  unfold accessHeard
  refine sameBut_ite h0 ?_
  have hk := frame_accessFrame s f (sub (by decide)) h0
  split <;> rename_i he <;> rw [he] at hk
  · exact frame_sendRing _ _ _ (sub (by decide)) hk
  · exact hk

theorem frame_execRingRead (f : AccessFrame) (s : State) :
    ∃ s', execRingRead f s = .next s' ∧ SameBut [.regs, .shadow, .pages, .pwr, .gc, .gen, .host, .inputs, .exc,
        .cores, .bands, .hkc, .queueEcc, .aout, .chains, .flt, .time, .lanes, .ring, .adm, .addrTable, .sent,
            .streams, .strmSel, .vat, .cmd, .reams, .captSel, .twin, .slots, .engines, .edges, .sports, .lites,
                .levels, .strobes, .cal, .changes, .safe, .freeCtr] s s' := by
  refine ⟨_, rfl, ?_⟩
  repeat'
    first
    | with_reducible assumption | with_reducible exact SameBut.refl _ _ | decide
    | with_reducible apply frame_accessHeard

theorem frame_execRingWrite (f : AccessFrame) (s : State) :
    ∃ s', execRingWrite f s = .next s' ∧ SameBut [.regs, .shadow, .pages, .pwr, .gc, .gen, .host, .inputs, .exc,
        .cores, .bands, .hkc, .queueEcc, .aout, .chains, .flt, .time, .lanes, .ring, .adm, .addrTable, .sent,
            .streams, .strmSel, .vat, .cmd, .reams, .captSel, .twin, .slots, .engines, .edges, .sports, .lites,
                .levels, .strobes, .cal, .changes, .safe, .freeCtr] s s' := by
  refine ⟨_, rfl, ?_⟩
  repeat'
    first
    | with_reducible assumption | with_reducible exact SameBut.refl _ _ | decide
    | with_reducible apply frame_accessHeard

theorem frame_sessionTimeout {fp : List Part} {u0 : State} (s : State) (k : Fin 8)
    (hfp : [.regs, .host, .changes] ⊆ fp) (h0 : SameBut fp u0 s) :
    SameBut fp u0 (sessionTimeout s k) := by
  unfold sessionTimeout
  repeat'
    first
    | with_reducible assumption | exact List.Subset.trans (by decide) hfp | with_reducible intro _
    | with_reducible apply sameBut_ite | with_reducible apply frame_setSession
    | with_reducible apply frame_onPath | with_reducible apply frame_lapse | dsimp only

theorem frame_execSessionTimeout (slot : Fin 8) (s : State) :
    ∃ s', execSessionTimeout slot s = .next s' ∧ SameBut [.regs, .host, .changes] s s' := by
  refine ⟨_, rfl, ?_⟩
  repeat'
    first
    | with_reducible assumption | with_reducible exact SameBut.refl _ _ | decide
    | with_reducible apply frame_sessionTimeout

end Sys2Proof.Machine
end

