-- ==== Sys2Proof/Laws/FrameDawn.lean ====
section
/-!
SUPPORT. What every operation of Machine/Dawn.lean leaves alone (SameBut): one lemma for each operation that answers a state.
-/
set_option linter.all false

namespace Sys2Proof.Machine

theorem frame_endPhase {fp : List Part} {u0 : State} (s : State)
    (hfp : [.regs, .pwr] ⊆ fp) (h0 : SameBut fp u0 s) :
    SameBut fp u0 (endPhase s) := by
  unfold endPhase
  dsimp only
  repeat'
    first
    | with_reducible assumption | exact List.Subset.trans (by decide) hfp | with_reducible intro _
    | with_reducible apply sameBut_ite | with_reducible apply frame_wr | with_reducible apply frame_setWait
    | with_reducible apply frame_onPwr | dsimp only

theorem frame_dawnRun {fp : List Part} {u0 s : State} (n : Nat) (hfp : [.regs, .pwr] ⊆ fp)
    (h0 : SameBut fp u0 s) : SameBut fp u0 (dawnRun n s) := by
  induction n generalizing s with
  | zero => exact h0
  | succ n ih => exact sameBut_ite (ih (frame_endPhase s (List.Subset.trans (by decide) hfp) h0)) h0

theorem frame_dawnAdvance {fp : List Part} {u0 : State} (s : State)
    (hfp : [.regs, .pwr, .gc, .gen, .twin] ⊆ fp) (h0 : SameBut fp u0 s) :
    SameBut fp u0 (dawnAdvance s) := by
  unfold dawnAdvance
  repeat'
    first
    | with_reducible assumption | exact List.Subset.trans (by decide) hfp | with_reducible apply sameBut_ite
    | with_reducible apply frame_leaveDawn | with_reducible apply frame_dawnRun

theorem frame_bistCores {fp : List Part} {u0 : State} (s : State) (failed : List (Fin 32 × Fin 9))
    (hfp : [.regs, .cores, .freeCtr] ⊆ fp) (h0 : SameBut fp u0 s) :
    SameBut fp u0 (bistCores s failed) := by
  unfold bistCores
  dsimp only
  repeat'
    first
    | with_reducible assumption | exact List.Subset.trans (by decide) hfp | with_reducible intro _
    | with_reducible apply sameBut_ite | with_reducible apply sameBut_foldl
    | with_reducible apply frame_retireSlice | with_reducible apply SameBut.set_cores_freeCtr | dsimp only

theorem frame_loadCalSet {fp : List Part} {u0 : State} (s : State) (r : List NvRead)
    (hfp : [.regs, .inCoefs, .cal, .nv] ⊆ fp) (h0 : SameBut fp u0 s) :
    SameBut fp u0 (loadCalSet s r) := by
  unfold loadCalSet
  dsimp only
  repeat'
    first
    | with_reducible assumption | exact List.Subset.trans (by decide) hfp | with_reducible apply frame_evtIf
    | with_reducible apply frame_countReads | with_reducible apply frame_wr | split
    | with_reducible apply SameBut.set_inCoefs_cal | with_reducible apply SameBut.set_nv | dsimp only

theorem frame_bistRecal {fp : List Part} {u0 : State} (s : State)
    (hfp : [.regs, .cal] ⊆ fp) (h0 : SameBut fp u0 s) :
    SameBut fp u0 (bistRecal s) := by
  unfold bistRecal
  dsimp only
  repeat'
    first
    | with_reducible assumption | exact List.Subset.trans (by decide) hfp | with_reducible apply sameBut_ite
    | with_reducible apply frame_wr | with_reducible apply frame_calStart
    | with_reducible apply SameBut.set_cal | dsimp only

theorem frame_bistDone {fp : List Part} {u0 : State} (s : State) (r : BistResult)
    (hfp : [.regs, .pwr, .cores, .inCoefs, .edges, .cal, .nv, .badBands, .freeCtr] ⊆ fp) (h0 : SameBut fp u0 s) :
    SameBut fp u0 (bistDone s r) := by
  unfold bistDone
  dsimp only
  repeat'
    first
    | with_reducible assumption | exact List.Subset.trans (by decide) hfp | with_reducible intro _
    | with_reducible apply sameBut_foldl | with_reducible apply frame_wr | with_reducible apply frame_bistCores
    | with_reducible apply frame_evtIf | with_reducible apply frame_onEdge
    | with_reducible apply frame_endPhase | with_reducible apply frame_bistRecal
    | with_reducible apply frame_calUnits | with_reducible apply frame_calMeasure
    | with_reducible apply frame_loadCalSet | with_reducible apply SameBut.set_badBands | dsimp only

theorem frame_execBistDone (r : BistResult) (s : State) :
    ∃ s', execBistDone r s = .next s' ∧ SameBut [.regs, .pwr, .cores, .inCoefs, .edges, .cal, .nv, .badBands,
        .freeCtr] s s' := by
  refine ⟨_, rfl, ?_⟩
  repeat'
    first
    | with_reducible assumption | with_reducible exact SameBut.refl _ _ | decide | with_reducible intro _
    | with_reducible apply frame_when | with_reducible apply frame_bistDone | dsimp only

theorem frame_wipe {fp : List Part} {u0 : State} (s : State) (k : Kept)
    (hfp : [.regs, .shadow, .flt, .addrTable, .strmSel, .captSel, .levels] ⊆ fp) (h0 : SameBut fp u0 s) :
    SameBut fp u0 (wipe s k) := by
  unfold wipe
  repeat'
    first
    | with_reducible assumption | exact List.Subset.trans (by decide) hfp | with_reducible intro _
    | with_reducible apply sameBut_ite
    | with_reducible apply SameBut.set_regs_shadow_flt_addrTable_strmSel_captSel_levels | dsimp only

theorem frame_imagePair {fp : List Part} {u0 : State} (s : State) (a : Nat) (v : Word)
    (hfp : [.regs, .shadow, .pages, .pwr, .gc, .gen, .host, .inputs, .exc, .cores, .bands, .hkc, .queueEcc, .aout,
        .chains, .flt, .time, .lanes, .ring, .adm, .addrTable, .sent, .streams, .strmSel, .vat, .cmd, .reams,
            .captSel, .twin, .slots, .engines, .edges, .sports, .lites, .levels, .strobes, .cal, .changes, .safe,
                .freeCtr] ⊆ fp) (h0 : SameBut fp u0 s) :
    SameBut fp u0 (imagePair s a v) := by
  unfold imagePair
  dsimp only
  repeat'
    first
    | with_reducible assumption | exact List.Subset.trans (by decide) hfp | with_reducible apply sameBut_ite
    | with_reducible apply frame_bumpSat | with_reducible apply frame_headerEffect
    | with_reducible apply frame_regEffect | split | dsimp only

theorem frame_loadMemories {fp : List Part} {u0 : State} (s : State) (k : Kept) (m : ReamImage)
    (hfp : [.flt, .addrTable, .strmSel, .captSel, .engines, .levels] ⊆ fp) (h0 : SameBut fp u0 s) :
    SameBut fp u0 (loadMemories s k m) := by
  unfold loadMemories
  repeat'
    first
    | with_reducible assumption | exact List.Subset.trans (by decide) hfp | with_reducible intro _
    | with_reducible apply sameBut_foldl
    | with_reducible apply SameBut.set_flt_addrTable_strmSel_captSel_engines_levels | dsimp only

theorem frame_loadEffects {fp : List Part} {u0 : State} (old s0 s : State)
    (hfp : [.regs, .gc, .gen, .inputs, .exc, .cores, .bands, .aout, .chains, .flt, .slots, .edges, .sports, .lites,
        .safe] ⊆ fp) (h0 : SameBut fp u0 s) :
    SameBut fp u0 (loadEffects old s0 s) := by
  unfold loadEffects
  dsimp only
  repeat'
    first
    | with_reducible assumption | exact List.Subset.trans (by decide) hfp | with_reducible intro _
    | with_reducible apply sameBut_ite | with_reducible apply sameBut_foldl
    | with_reducible apply frame_commitEffects | split | with_reducible apply SameBut.set_slots | dsimp only

theorem frame_loadTable {fp : List Part} {u0 : State} (s : State) (m : ReamImage)
    (hfp : [.regs, .vat] ⊆ fp) (h0 : SameBut fp u0 s) :
    SameBut fp u0 (loadTable s m) := by
  unfold loadTable
  dsimp only
  repeat'
    first
    | with_reducible assumption | exact List.Subset.trans (by decide) hfp | with_reducible apply sameBut_ite
    | with_reducible apply frame_wr | with_reducible apply frame_vatPutBytes | dsimp only

theorem frame_loadImage {fp : List Part} {u0 : State} (s : State)
    (hfp : [.regs, .shadow, .pages, .pwr, .gc, .gen, .host, .inputs, .exc, .cores, .bands, .hkc, .queueEcc, .aout,
        .chains, .flt, .time, .lanes, .ring, .adm, .addrTable, .sent, .streams, .strmSel, .vat, .cmd, .reams,
            .captSel, .twin, .slots, .engines, .edges, .sports, .lites, .levels, .strobes, .cal, .changes, .safe,
                .freeCtr] ⊆ fp) (h0 : SameBut fp u0 s) :
    SameBut fp u0 (loadImage s) := by
  unfold loadImage
  dsimp only
  repeat'
    first
    | with_reducible assumption | exact List.Subset.trans (by decide) hfp | with_reducible intro _
    | with_reducible apply sameBut_foldl | with_reducible apply frame_wipe
    | with_reducible apply frame_loadEffects | with_reducible apply frame_wr
    | with_reducible apply frame_loadMemories | with_reducible apply frame_imagePair
    | with_reducible apply frame_loadTable | split | dsimp only

theorem frame_noteFallback {fp : List Part} {u0 : State} (s : State)
    (hfp : [.regs] ⊆ fp) (h0 : SameBut fp u0 s) :
    SameBut fp u0 (noteFallback s) := by
  unfold noteFallback
  repeat'
    first
    | with_reducible assumption | exact List.Subset.trans (by decide) hfp | with_reducible apply frame_wr

theorem frame_reamLoaded {fp : List Part} {u0 : State} (s : State)
    (hfp : [.regs, .shadow, .pages, .pwr, .gc, .gen, .host, .inputs, .exc, .cores, .bands, .hkc, .queueEcc, .aout,
        .chains, .flt, .time, .lanes, .ring, .adm, .addrTable, .sent, .streams, .strmSel, .vat, .cmd, .reams,
            .captSel, .twin, .slots, .engines, .edges, .sports, .lites, .levels, .strobes, .cal, .changes, .safe,
                .freeCtr] ⊆ fp) (h0 : SameBut fp u0 s) :
    SameBut fp u0 (reamLoaded s) := by
  unfold reamLoaded
  dsimp only
  repeat'
    first
    | with_reducible assumption | exact List.Subset.trans (by decide) hfp | with_reducible intro _
    | with_reducible apply sameBut_ite | with_reducible apply frame_clearBlock
    | with_reducible apply frame_safeDawn | with_reducible apply frame_noteFallback
    | with_reducible apply frame_loadImage | with_reducible apply frame_onPwr
    | with_reducible apply frame_dawnAdvance | with_reducible apply frame_endPhase | dsimp only

theorem frame_readImage {fp : List Part} {u0 : State} (s : State) (r : List NvRead)
    (hfp : [.regs, .nv] ⊆ fp) (h0 : SameBut fp u0 s) :
    SameBut fp u0 (readImage s r) := by
  unfold readImage
  dsimp only
  repeat'
    first
    | with_reducible assumption | exact List.Subset.trans (by decide) hfp | with_reducible apply frame_evtIf
    | with_reducible apply frame_countReads | with_reducible apply SameBut.set_nv | dsimp only

theorem frame_execReamImageLoaded (s : State) (slot0 slot1 : NvRead) :
    ∃ s', execReamImageLoaded s slot0 slot1 = .next s' ∧ SameBut [.regs, .shadow, .pages, .pwr, .gc, .gen, .host,
        .inputs, .exc, .cores, .bands, .hkc, .queueEcc, .aout, .chains, .flt, .time, .lanes, .ring, .adm, .addrTable,
            .sent, .streams, .strmSel, .vat, .cmd, .reams, .captSel, .twin, .slots, .engines, .edges, .sports,
                .lites, .levels, .strobes, .cal, .nv, .changes, .safe, .freeCtr] s s' := by
  refine ⟨_, rfl, ?_⟩
  repeat'
    first
    | with_reducible assumption | with_reducible exact SameBut.refl _ _ | decide | with_reducible intro _
    | with_reducible apply frame_when | with_reducible apply frame_reamLoaded
    | with_reducible apply frame_readImage | dsimp only

theorem frame_execLinkWaitExpiry (s : State) :
    ∃ s', execLinkWaitExpiry s = .next s' ∧ SameBut [.regs, .pwr, .gc, .gen, .twin] s s' := by
  refine ⟨_, rfl, ?_⟩
  repeat'
    first
    | with_reducible assumption | with_reducible exact SameBut.refl _ _ | decide | with_reducible intro _
    | with_reducible apply frame_when | with_reducible apply frame_dawnAdvance
    | with_reducible apply frame_endPhase | dsimp only

theorem frame_execDawnStall (cause : Nat) (s : State) :
    ∃ s', execDawnStall cause s = .next s' ∧ SameBut [.regs] s s' := by
  refine ⟨_, rfl, ?_⟩
  repeat'
    first
    | with_reducible assumption | with_reducible exact SameBut.refl _ _ | decide | with_reducible intro _
    | with_reducible apply frame_when | with_reducible apply frame_evt | with_reducible apply frame_setWait
    | dsimp only

theorem frame_execLinkUp (l : Lane) (s : State) :
    ∃ s', execLinkUp l s = .next s' ∧ SameBut [.regs, .pwr, .gc, .gen, .lanes, .twin] s s' := by
  refine ⟨_, rfl, ?_⟩
  repeat'
    first
    | with_reducible assumption | with_reducible exact SameBut.refl _ _ | decide | with_reducible intro _
    | with_reducible apply frame_when | with_reducible apply frame_dawnAdvance
    | with_reducible apply frame_linkRise | dsimp only

theorem frame_execLinkDown (l : Lane) (s : State) :
    ∃ s', execLinkDown l s = .next s' ∧ SameBut [.regs, .pwr, .gc, .gen, .time, .lanes, .streams, .twin] s s' := by
  refine ⟨_, rfl, ?_⟩
  repeat'
    first
    | with_reducible assumption | with_reducible exact SameBut.refl _ _ | decide
    | with_reducible apply frame_dawnAdvance | with_reducible apply frame_linkLost

theorem frame_execAddressAssignmentSend (s : State) :
    ∃ s', execAddressAssignmentSend s = .next s' ∧ SameBut [.regs, .pwr, .gc, .gen, .time, .ring, .adm, .sent, .twin]
        s s' := by
  refine ⟨_, rfl, ?_⟩
  repeat'
    first
    | with_reducible assumption | with_reducible exact SameBut.refl _ _ | decide | with_reducible intro _
    | with_reducible apply frame_when | with_reducible apply frame_dawnAdvance
    | with_reducible apply frame_assignmentSend | dsimp only

theorem frame_execAddressAssignment (a : Assignment) (s : State) :
    ∃ s', execAddressAssignment a s = .next s' ∧ SameBut [.regs, .pwr, .gc, .gen, .ring, .adm, .twin] s s' := by
  refine ⟨_, rfl, ?_⟩
  repeat'
    first
    | with_reducible assumption | with_reducible exact SameBut.refl _ _ | decide | with_reducible intro _
    | with_reducible apply frame_when | with_reducible apply frame_dawnAdvance
    | with_reducible apply frame_assignmentHeard | dsimp only

theorem frame_execRootAlone (s : State) :
    ∃ s', execRootAlone s = .next s' ∧ SameBut [.regs, .pwr, .gc, .gen, .time, .ring, .adm, .sent, .twin] s s' := by
  refine ⟨_, rfl, ?_⟩
  repeat'
    first
    | with_reducible assumption | with_reducible exact SameBut.refl _ _ | decide
    | with_reducible apply frame_dawnAdvance | with_reducible apply frame_rootAlone

theorem frame_execSyncMessage (m : SyncMsg) (s : State) :
    ∃ s', execSyncMessage m s = .next s' ∧ SameBut [.regs, .pwr, .gc, .gen, .chains, .time, .streams, .gaps, .twin] s
        s' := by
  refine ⟨_, rfl, ?_⟩
  repeat'
    first
    | with_reducible assumption | with_reducible exact SameBut.refl _ _ | decide
    | with_reducible apply frame_dawnAdvance | with_reducible apply frame_syncMessage

theorem frame_execGridStartIndex (s : State) :
    ∃ s', execGridStartIndex s = .next s' ∧ SameBut [.regs, .pwr, .gc, .gen, .inputs, .exc, .chains, .time, .streams,
        .gaps, .twin] s s' := by
  refine ⟨_, rfl, ?_⟩
  repeat'
    first
    | with_reducible assumption | with_reducible exact SameBut.refl _ _ | decide
    | with_reducible apply sameBut_ite | with_reducible apply frame_gridStartIndex
    | with_reducible apply frame_dawnAdvance | with_reducible apply frame_warmMarks | dsimp only

theorem frame_execPaired (s : State) :
    ∃ s', execPaired s = .next s' ∧ SameBut [.regs, .pwr, .gc, .gen, .sent, .twin] s s' := by
  refine ⟨_, rfl, ?_⟩
  repeat'
    first
    | with_reducible assumption | with_reducible exact SameBut.refl _ _ | decide | with_reducible intro _
    | with_reducible apply frame_when | with_reducible apply frame_dawnAdvance
    | with_reducible apply frame_pairUp | dsimp only

theorem frame_execHeartbeat (w : Word) (s : State) :
    ∃ s', execHeartbeat w s = .next s' ∧ SameBut [.regs, .pwr, .gc, .gen, .twin] s s' := by
  refine ⟨_, rfl, ?_⟩
  repeat'
    first
    | with_reducible assumption | with_reducible exact SameBut.refl _ _ | decide
    | with_reducible apply frame_dawnAdvance | with_reducible apply frame_heartbeatHeard

theorem frame_execPartnerLost (s : State) :
    ∃ s', execPartnerLost s = .next s' ∧ SameBut [.regs, .pwr, .gc, .gen, .streams, .twin] s s' := by
  refine ⟨_, rfl, ?_⟩
  repeat'
    first
    | with_reducible assumption | with_reducible exact SameBut.refl _ _ | decide | with_reducible intro _
    | with_reducible apply frame_when | with_reducible apply frame_dawnAdvance
    | with_reducible apply frame_partnerLost | dsimp only

theorem frame_execArbselChange (level : Bool) (s : State) :
    ∃ s', execArbselChange level s = .next s' ∧ SameBut [.regs, .pwr, .pins, .gc, .gen, .sent, .twin] s s' := by
  refine ⟨_, rfl, ?_⟩
  repeat'
    first
    | with_reducible assumption | with_reducible exact SameBut.refl _ _ | decide
    | with_reducible apply frame_dawnAdvance | with_reducible apply frame_arbChange

end Sys2Proof.Machine
end

