-- ==== Sys2Proof/Laws/FrameFrames.lean ====
section
/-!
SUPPORT. What every operation of Machine/Frames.lean leaves alone (SameBut): one lemma for each operation that answers a state.
-/
set_option linter.all false

namespace Sys2Proof.Machine

theorem frame_windowTake {fp : List Part} {u0 : State} (s : State) (m : Mac) (use q : Nat)
    (hfp : [.ring] ⊆ fp) (h0 : SameBut fp u0 s) :
    SameBut fp u0 (windowTake s m use q).1 := by
  unfold windowTake
  dsimp only
  repeat'
    first
    | with_reducible assumption | exact List.Subset.trans (by decide) hfp | with_reducible intro _
    | with_reducible apply frame_onRing | split | dsimp only

theorem frame_clearWindows {fp : List Part} {u0 : State} (s : State) (m : Mac)
    (hfp : [.ring] ⊆ fp) (h0 : SameBut fp u0 s) :
    SameBut fp u0 (clearWindows s m) := by
  unfold clearWindows
  repeat'
    first
    | with_reducible assumption | exact List.Subset.trans (by decide) hfp | with_reducible intro _
    | with_reducible apply frame_onRing | dsimp only

theorem frame_countDiscard {fp : List Part} {u0 : State} (s : State) (a b : Verdict)
    (hfp : [.regs] ⊆ fp) (h0 : SameBut fp u0 s) :
    SameBut fp u0 (countDiscard s a b) := by
  unfold countDiscard
  repeat'
    first
    | with_reducible assumption | exact List.Subset.trans (by decide) hfp | with_reducible apply sameBut_ite
    | with_reducible apply frame_bumpWrap | with_reducible apply frame_bumpSat

theorem frame_countUnknown {fp : List Part} {u0 : State} (s : State)
    (hfp : [.regs] ⊆ fp) (h0 : SameBut fp u0 s) :
    SameBut fp u0 (countUnknown s) := by
  unfold countUnknown
  repeat'
    first
    | with_reducible assumption | exact List.Subset.trans (by decide) hfp | with_reducible apply frame_bumpSat

theorem frame_forwardBody {fp : List Part} {u0 : State} (s : State) (port out : Lane) (b : FrameBody)
    (hfp : [.freeCtr] ⊆ fp) (h0 : SameBut fp u0 s) :
    SameBut fp u0 (forwardBody s port out b).1 := by
  unfold forwardBody
  dsimp only
  repeat'
    first
    | with_reducible assumption | exact List.Subset.trans (by decide) hfp | with_reducible apply frame_drawn
    | split | dsimp only

theorem frame_forwardFrame {fp : List Part} {u0 : State} (s : State) (port : Lane) (f : RxFrame) (good : Bool)
    (hfp : [.regs, .sent, .freeCtr] ⊆ fp) (h0 : SameBut fp u0 s) :
    SameBut fp u0 (forwardFrame s port f good) := by
  unfold forwardFrame
  dsimp only
  repeat'
    first
    | with_reducible assumption | exact List.Subset.trans (by decide) hfp | with_reducible apply sameBut_ite
    | with_reducible apply frame_forwardBody | with_reducible apply frame_bumpWrap
    | with_reducible apply frame_emit | dsimp only

theorem frame_insertAs {fp : List Part} {u0 : State} (s : State) (f : RxFrame)
    (hfp : [.regs, .ring, .sent] ⊆ fp) (h0 : SameBut fp u0 s) :
    SameBut fp u0 (insertAs s f) := by
  unfold insertAs
  dsimp only
  repeat'
    first
    | with_reducible assumption | exact List.Subset.trans (by decide) hfp | with_reducible intro _
    | with_reducible apply sameBut_ite | with_reducible apply frame_sendBeacon
    | with_reducible apply frame_onRing | with_reducible apply frame_bumpWrap | with_reducible apply frame_emit
    | dsimp only

theorem frame_forwardL3 {fp : List Part} {u0 : State} (s : State) (f : RxFrame)
    (hfp : [.regs, .sent] ⊆ fp) (h0 : SameBut fp u0 s) :
    SameBut fp u0 (forwardL3 s f) := by
  unfold forwardL3
  repeat'
    first
    | with_reducible assumption | exact List.Subset.trans (by decide) hfp | with_reducible apply sameBut_ite
    | with_reducible apply frame_bumpWrap | with_reducible apply frame_emit

theorem frame_everyCopy {fp : List Part} {u0 : State} (s : State) (port : Lane) (b : FrameBody)
    (hfp : [.regs, .chains, .time, .ring, .streams, .gaps] ⊆ fp) (h0 : SameBut fp u0 s) :
    SameBut fp u0 (everyCopy s port b) := by
  unfold everyCopy
  repeat'
    first
    | with_reducible assumption | exact List.Subset.trans (by decide) hfp | with_reducible apply frame_hearNode
    | with_reducible apply frame_syncMessage | split

theorem frame_everyRootCopy {fp : List Part} {u0 : State} (s : State) (port : Lane) (b : FrameBody)
    (hfp : [.regs, .ring, .adm] ⊆ fp) (h0 : SameBut fp u0 s) :
    SameBut fp u0 (everyRootCopy s port b) := by
  unfold everyRootCopy
  repeat'
    first
    | with_reducible assumption | exact List.Subset.trans (by decide) hfp
    | with_reducible apply frame_hearRootCopy | split

theorem frame_localFrame {fp : List Part} {u0 : State} (s : State) (port : Lane) (f : RxFrame)
    (hfp : [.regs, .shadow, .pages, .pwr, .gc, .gen, .host, .inputs, .exc, .cores, .bands, .hkc, .queueEcc, .aout,
        .chains, .flt, .time, .lanes, .ring, .adm, .addrTable, .sent, .streams, .strmSel, .vat, .cmd, .reams,
            .captSel, .twin, .slots, .engines, .edges, .sports, .lites, .levels, .strobes, .cal, .changes, .safe,
                .freeCtr] ⊆ fp) (h0 : SameBut fp u0 s) :
    SameBut fp u0 (localFrame s port f) := by
  unfold localFrame
  repeat'
    first
    | with_reducible assumption | exact List.Subset.trans (by decide) hfp
    | with_reducible apply frame_acknowledgement | with_reducible apply frame_beaconNews
    | with_reducible apply frame_assignmentHeard | with_reducible apply frame_admissionHeard
    | with_reducible apply frame_replyHeard | with_reducible apply frame_gridStartHeard
    | with_reducible apply frame_ledgerHeard | with_reducible apply frame_rootBeaconNews
    | with_reducible apply frame_ringTriggered | with_reducible apply frame_safeFrameRx
    | with_reducible apply frame_accessHeard | with_reducible apply frame_announceHeard | split

theorem frame_twinFrame {fp : List Part} {u0 : State} (s : State) (b : FrameBody)
    (hfp : [.regs, .streams, .twin, .engines] ⊆ fp) (h0 : SameBut fp u0 s) :
    SameBut fp u0 (twinFrame s b) := by
  unfold twinFrame
  repeat'
    first
    | with_reducible assumption | exact List.Subset.trans (by decide) hfp
    | with_reducible apply frame_heartbeatHeard | with_reducible apply frame_mirrorHeard
    | with_reducible apply frame_positionsHeard | with_reducible apply frame_twinAckHeard
    | with_reducible apply frame_handoverHeard | with_reducible apply frame_snapshotHeard | split

theorem frame_countRx {fp : List Part} {u0 : State} (s : State) (port : Lane) (ok : Bool)
    (hfp : [.regs] ⊆ fp) (h0 : SameBut fp u0 s) :
    SameBut fp u0 (countRx s port ok) := by
  unfold countRx
  dsimp only
  repeat'
    first
    | with_reducible assumption | exact List.Subset.trans (by decide) hfp | with_reducible apply sameBut_ite
    | with_reducible apply frame_bumpWrap | with_reducible apply frame_evt | with_reducible apply frame_bumpSat
    | dsimp only

theorem frame_taggedFrame {fp : List Part} {u0 : State} (s : State) (port : Lane) (f : RxFrame) (q : Nat)
    (hfp : [.regs, .shadow, .pages, .pwr, .gc, .gen, .host, .inputs, .exc, .cores, .bands, .hkc, .queueEcc, .aout,
        .chains, .flt, .time, .lanes, .ring, .adm, .addrTable, .sent, .streams, .strmSel, .vat, .cmd, .reams,
            .captSel, .gaps, .twin, .slots, .engines, .edges, .sports, .lites, .levels, .strobes, .cal, .changes,
                .safe, .freeCtr] ⊆ fp) (h0 : SameBut fp u0 s) :
    SameBut fp u0 (taggedFrame s port f q) := by
  unfold taggedFrame
  dsimp only
  repeat'
    first
    | with_reducible assumption | exact List.Subset.trans (by decide) hfp | with_reducible apply sameBut_ite
    | with_reducible apply frame_clearWindows | with_reducible apply frame_windowTake
    | with_reducible apply frame_countDiscard | with_reducible apply frame_forwardFrame
    | with_reducible apply frame_forwardL3 | with_reducible apply frame_countUnknown
    | with_reducible apply frame_everyCopy | with_reducible apply frame_everyRootCopy
    | with_reducible apply frame_localFrame | split | dsimp only

theorem frame_untaggedFrame {fp : List Part} {u0 : State} (s : State) (port : Lane) (b : FrameBody)
    (hfp : [.regs, .time, .sent] ⊆ fp) (h0 : SameBut fp u0 s) :
    SameBut fp u0 (untaggedFrame s port b) := by
  unfold untaggedFrame
  repeat'
    first
    | with_reducible assumption | exact List.Subset.trans (by decide) hfp
    | with_reducible apply frame_pdelayReq | with_reducible apply frame_pdelayResp
    | with_reducible apply frame_countUnknown | split

theorem frame_badFrame {fp : List Part} {u0 : State} (s : State) (port : Lane) (f : RxFrame)
    (hfp : [.regs, .ring, .sent, .freeCtr] ⊆ fp) (h0 : SameBut fp u0 s) :
    SameBut fp u0 (badFrame s port f) := by
  unfold badFrame
  dsimp only
  repeat'
    first
    | with_reducible assumption | exact List.Subset.trans (by decide) hfp | with_reducible apply sameBut_ite
    | with_reducible apply frame_windowTake | with_reducible apply frame_forwardFrame | split | dsimp only

theorem frame_ringPortFrame {fp : List Part} {u0 : State} (s : State) (port : Lane) (f : RxFrame)
    (hfp : [.regs, .shadow, .pages, .pwr, .gc, .gen, .host, .inputs, .exc, .cores, .bands, .hkc, .queueEcc, .aout,
        .chains, .flt, .time, .lanes, .ring, .adm, .addrTable, .sent, .streams, .strmSel, .vat, .cmd, .reams,
            .captSel, .gaps, .twin, .slots, .engines, .edges, .sports, .lites, .levels, .strobes, .cal, .changes,
                .safe, .freeCtr] ⊆ fp) (h0 : SameBut fp u0 s) :
    SameBut fp u0 (ringPortFrame s port f) := by
  unfold ringPortFrame
  repeat'
    first
    | with_reducible assumption | exact List.Subset.trans (by decide) hfp | with_reducible apply sameBut_ite
    | with_reducible apply frame_badFrame | with_reducible apply frame_hearRootCopy
    | with_reducible apply frame_untaggedFrame | with_reducible apply frame_taggedFrame | split

theorem frame_ringFrame {fp : List Part} {u0 : State} (s : State) (port : Lane) (f : RxFrame)
    (hfp : [.regs, .shadow, .pages, .pwr, .gc, .gen, .host, .inputs, .exc, .cores, .bands, .hkc, .queueEcc, .aout,
        .chains, .flt, .time, .lanes, .ring, .adm, .addrTable, .sent, .streams, .strmSel, .vat, .cmd, .reams,
            .captSel, .gaps, .twin, .slots, .engines, .edges, .sports, .lites, .levels, .strobes, .cal, .changes,
                .safe, .freeCtr] ⊆ fp) (h0 : SameBut fp u0 s) :
    SameBut fp u0 (ringFrame s port f) := by
  unfold ringFrame
  dsimp only
  repeat'
    first
    | with_reducible assumption | exact List.Subset.trans (by decide) hfp | with_reducible apply sameBut_ite
    | with_reducible apply frame_countRx | with_reducible apply frame_dawnAdvance
    | with_reducible apply frame_twinFrame | with_reducible apply frame_ringPortFrame | dsimp only

theorem frame_execRingFrame (port : Lane) (f : RxFrame) (s : State) :
    ∃ s', execRingFrame port f s = .next s' ∧ SameBut [.regs, .shadow, .pages, .pwr, .gc, .gen, .host, .inputs, .exc,
        .cores, .bands, .hkc, .queueEcc, .aout, .chains, .flt, .time, .lanes, .ring, .adm, .addrTable, .sent,
            .streams, .strmSel, .vat, .cmd, .reams, .captSel, .gaps, .twin, .slots, .engines, .edges, .sports,
                .lites, .levels, .strobes, .cal, .changes, .safe, .freeCtr] s s' := by
  refine ⟨_, rfl, ?_⟩
  repeat'
    first
    | with_reducible assumption | with_reducible exact SameBut.refl _ _ | decide
    | with_reducible apply frame_ringFrame

theorem frame_l3Ptp {fp : List Part} {u0 : State} (s : State) (f : RxFrame)
    (hfp : [.regs, .chains, .time, .sent, .streams, .gaps] ⊆ fp) (h0 : SameBut fp u0 s) :
    SameBut fp u0 (l3Ptp s f) := by
  unfold l3Ptp
  dsimp only
  repeat'
    first
    | with_reducible assumption | exact List.Subset.trans (by decide) hfp | with_reducible apply sameBut_ite
    | with_reducible apply frame_discardPtp | with_reducible apply frame_syncMessage
    | with_reducible apply frame_followUp | with_reducible apply frame_announceHeard
    | with_reducible apply frame_delayReq | with_reducible apply frame_delayResp | split | dsimp only

theorem frame_hostDrop {fp : List Part} {u0 : State} (s : State)
    (hfp : [.regs] ⊆ fp) (h0 : SameBut fp u0 s) :
    SameBut fp u0 (hostDrop s) := by
  unfold hostDrop
  repeat'
    first
    | with_reducible assumption | exact List.Subset.trans (by decide) hfp | with_reducible apply frame_evt
    | with_reducible apply frame_bumpSat

theorem frame_takeBucket {fp : List Part} {u0 s : State} {n : Nat} (hfp : [.adm] ⊆ fp)
    (h0 : SameBut fp u0 s) : SameButSome fp u0 (takeBucket s n) :=
  SameButSome.ite (SameButSome.some (frame_onAdm s _ hfp h0)) (SameButSome.none fp u0)

theorem frame_meterFrame {fp : List Part} {u0 : State} (s : State) (f : RxFrame)
    (hfp : [.regs, .ring, .adm, .sent] ⊆ fp) (h0 : SameBut fp u0 s) : SameBut fp u0 (meterFrame s f) := by
  have sub : ∀ {l : List Part}, l ⊆ [.regs, .ring, .adm, .sent] → l ⊆ fp := fun h => List.Subset.trans h hfp
  unfold meterFrame
  split
  · rename_i t ht
    exact frame_insertAs _ _ (sub (by decide)) (frame_takeBucket (sub (by decide)) h0 t ht)
  · exact frame_hostDrop _ (sub (by decide)) h0

theorem frame_answerL3 {fp : List Part} {u0 : State} (s : State) (a : AccessFrame) (r : Rej)
    (hfp : [.regs, .pages, .host, .sent] ⊆ fp) (h0 : SameBut fp u0 s) :
    SameBut fp u0 (answerL3 s a r) := by
  unfold answerL3
  dsimp only
  repeat'
    first
    | with_reducible assumption | exact List.Subset.trans (by decide) hfp
    | with_reducible apply frame_frameRefuse | with_reducible apply frame_emitOwn | dsimp only

theorem frame_l3Access {fp : List Part} {u0 : State} (s : State) (f : RxFrame) (a : AccessFrame)
    (hfp : [.regs, .shadow, .pages, .pwr, .gc, .gen, .host, .inputs, .exc, .cores, .bands, .hkc, .queueEcc, .aout,
        .chains, .flt, .time, .lanes, .ring, .adm, .addrTable, .sent, .streams, .strmSel, .vat, .cmd, .reams,
            .captSel, .twin, .slots, .engines, .edges, .sports, .lites, .levels, .strobes, .cal, .changes, .safe,
                .freeCtr] ⊆ fp) (h0 : SameBut fp u0 s) :
    SameBut fp u0 (l3Access s f a) := by
  unfold l3Access
  repeat'
    first
    | with_reducible assumption | exact List.Subset.trans (by decide) hfp | with_reducible intro _
    | with_reducible apply sameBut_ite | with_reducible apply frame_accessHeard
    | with_reducible apply frame_answerL3 | with_reducible apply frame_meterFrame | split | dsimp only

theorem frame_l3Root {fp : List Part} {u0 : State} (s : State) (f : RxFrame)
    (hfp : [.regs, .shadow, .pages, .pwr, .gc, .gen, .host, .inputs, .exc, .cores, .bands, .hkc, .queueEcc, .aout,
        .chains, .flt, .time, .lanes, .ring, .adm, .addrTable, .sent, .streams, .strmSel, .vat, .cmd, .reams,
            .captSel, .gaps, .twin, .slots, .engines, .edges, .sports, .lites, .levels, .strobes, .cal, .changes,
                .safe, .freeCtr] ⊆ fp) (h0 : SameBut fp u0 s) :
    SameBut fp u0 (l3Root s f) := by
  unfold l3Root
  repeat'
    first
    | with_reducible assumption | exact List.Subset.trans (by decide) hfp | with_reducible apply sameBut_ite
    | with_reducible apply frame_l3Access | with_reducible apply frame_l3Ptp
    | with_reducible apply frame_localFrame | with_reducible apply frame_hostDrop
    | with_reducible apply frame_meterFrame | split

theorem frame_l3Frame {fp : List Part} {u0 : State} (s : State) (f : RxFrame)
    (hfp : [.regs, .shadow, .pages, .pwr, .gc, .gen, .host, .inputs, .exc, .cores, .bands, .hkc, .queueEcc, .aout,
        .chains, .flt, .time, .lanes, .ring, .adm, .addrTable, .sent, .streams, .strmSel, .vat, .cmd, .reams,
            .captSel, .gaps, .twin, .slots, .engines, .edges, .sports, .lites, .levels, .strobes, .cal, .changes,
                .safe, .freeCtr] ⊆ fp) (h0 : SameBut fp u0 s) :
    SameBut fp u0 (l3Frame s f) := by
  unfold l3Frame
  dsimp only
  repeat'
    first
    | with_reducible assumption | exact List.Subset.trans (by decide) hfp | with_reducible apply sameBut_ite
    | with_reducible apply frame_countRx | with_reducible apply frame_dawnAdvance
    | with_reducible apply frame_l3Root | dsimp only

theorem frame_execL3Frame (f : RxFrame) (s : State) :
    ∃ s', execL3Frame f s = .next s' ∧ SameBut [.regs, .shadow, .pages, .pwr, .gc, .gen, .host, .inputs, .exc,
        .cores, .bands, .hkc, .queueEcc, .aout, .chains, .flt, .time, .lanes, .ring, .adm, .addrTable, .sent,
            .streams, .strmSel, .vat, .cmd, .reams, .captSel, .gaps, .twin, .slots, .engines, .edges, .sports,
                .lites, .levels, .strobes, .cal, .changes, .safe, .freeCtr] s s' := by
  refine ⟨_, rfl, ?_⟩
  repeat'
    first
    | with_reducible assumption | with_reducible exact SameBut.refl _ _ | decide
    | with_reducible apply frame_l3Frame

end Sys2Proof.Machine
end

