-- ==== Sys2Proof/Laws/FrameTick.lean ====
section
/-!
SUPPORT. What every operation of Machine/Tick.lean leaves alone (SameBut): one lemma for each operation that answers a state.
-/
set_option linter.all false

namespace Sys2Proof.Machine

theorem frame_tick {fp : List Part} {u0 : State} (s : State)
    (hfp : [.regs, .shadow, .pages, .pwr, .gc, .gen, .inputs, .exc, .cores, .bands, .queueEcc, .aout, .chains, .flt,
        .time, .streams, .twin, .slots, .edges, .sports, .lites, .safe, .freeCtr] ⊆ fp) (h0 : SameBut fp u0 s) :
    SameBut fp u0 (tick s) := by
  unfold tick
  repeat'
    first
    | with_reducible assumption | exact List.Subset.trans (by decide) hfp | with_reducible intro _
    | with_reducible apply sameBut_ite | with_reducible apply frame_dawnAdvance
    | with_reducible apply frame_tickPrbs | with_reducible apply frame_tickPorts
    | with_reducible apply frame_tickEdges | with_reducible apply frame_tickCommits
    | with_reducible apply frame_onTime | dsimp only

end Sys2Proof.Machine
end

