-- ==== Sys2Proof/Laws/FrameStep.lean ====
section
/-!
SUPPORT. What each command can touch, and that it touches nothing else.
-/
set_option linter.all false

namespace Sys2Proof.Machine

/-- A command touches nothing outside its footprint. -/
theorem exec_sameBut (c : Instr) (s : State) : ∃ t, exec c s = .next t ∧ SameBut (footprint c) s t := by
  cases c with
  | vbkApplied => exact frame_execVbkApplied s
  | railLost r => exact frame_execRailLost r s
  | analogRailHoldEnd r => exact frame_execAnalogRailHoldEnd r s
  | vdd12lRestored => exact frame_execVdd12lRestored s
  | powerGood => exact frame_execPowerGood s
  | pwrenTimeout => exact frame_execPwrenTimeout s
  | pwrenRetry => exact frame_execPwrenRetry s
  | clockLost c => exact frame_execClockLost c s
  | clockRestored c => exact frame_execClockRestored c s
  | refclkLost r => exact frame_execRefclkLost r s
  | refclkRestored r => exact frame_execRefclkRestored r s
  | nporLow => exact frame_execNporLow s
  | nporRelease => exact frame_execNporRelease s
  | nwake => exact frame_execNwake s
  | wakeAt => exact frame_execWakeAt s
  | nrstreqFall => exact frame_execNrstreqFall s
  | nrstreqHighSample => exact frame_execNrstreqHighSample s
  | nrstreqDebounced => exact frame_execNrstreqDebounced s
  | rstreqFailed => exact frame_execRstreqFailed s
  | rstreqRecovered => exact frame_execRstreqRecovered s
  | lockstepMismatch => exact frame_execLockstepMismatch s
  | watchdog => exact frame_execWatchdog s
  | queueFull q => exact frame_execQueueFull q s
  | warmReset => exact frame_execWarmReset s
  | hubReady => exact frame_execHubReady s
  | samplingResumed => exact frame_execSamplingResumed s
  | rstCtrl p v => exact frame_execRstCtrl p v s
  | targetMidnight p => exact frame_execTargetMidnight p s
  | targetRemoval p => exact frame_execTargetRemoval p s
  | targetTwilight p => exact frame_execTargetTwilight p s
  | duskEnd => exact frame_execDuskEnd s
  | duskLimit => exact frame_execDuskLimit s
  | faultSrcClear p mask => exact frame_execFaultSrcClear p mask s
  | keeperRelease gen ball => exact frame_execKeeperRelease gen ball s
  | commitApplyNow p page => exact frame_execCommitApplyNow p page s
  | commitApplyAt p page => exact frame_execCommitApplyAt p page s
  | commitCancel p page => exact frame_execCommitCancel p page s
  | scheduledCommit page => exact frame_execScheduledCommit page s
  | pageEnable p page enable => exact frame_execPageEnable p page enable s
  | blockReset p page => exact frame_execBlockReset p page s
  | freeze p page on => exact frame_execFreeze p page on s
  | errcodeClear p page mask => exact frame_execErrcodeClear p page mask s
  | registerWrite p addr v => exact frame_execRegisterWrite p addr v s
  | loRead p addr => exact frame_execLoRead p addr s
  | spiRead addr count cut period ready => exact frame_execSpiRead addr count s cut period ready
  | spiWrite addr data e => exact frame_execSpiWrite addr data e s
  | spiReadReq addr len cut => exact frame_execSpiReadReq addr len s cut
  | spiFetch count cut => exact frame_execSpiFetch count s cut
  | spiStatus => exact frame_execSpiStatus s
  | resetPort => exact frame_execResetPort s
  | busyEnd => exact frame_execBusyEnd s
  | attentionPulse => exact frame_execAttentionPulse s
  | attentionPulseEnd => exact frame_execAttentionPulseEnd s
  | attentionRepeat => exact frame_execAttentionRepeat s
  | ringRead f => exact frame_execRingRead f s
  | ringWrite f => exact frame_execRingWrite f s
  | sessionTimeout slot => exact frame_execSessionTimeout slot s
  | queueClear p q => exact frame_execQueueClear p q s
  | rawRecord ch c => exact frame_execRawRecord ch c s
  | rangeStep ch => exact frame_execRangeStep ch s
  | breakEnd ch => exact frame_execBreakEnd ch s
  | burnOutTest ch moved => exact frame_execBurnOutTest ch moved s
  | swapPhase ch => exact frame_execSwapPhase ch s
  | excSettleEnd k => exact frame_execExcSettleEnd k s
  | excitationFault k f => exact frame_execExcitationFault k f s
  | rotationStep core => exact frame_execRotationStep core s
  | sliceCalibrationDone core c => exact frame_execSliceCalibrationDone core c s
  | bandEdgeLoad ain ecc => exact frame_execBandEdgeLoad ain s ecc
  | comparatorCrossing ain upper level => exact frame_execComparatorCrossing ain upper level s
  | minHoldEnd slot leg => exact frame_execMinHoldEnd slot leg s
  | hkcStart p v => exact frame_execHkcStart p v s
  | hkcResult code value => exact frame_execHkcResult code value s
  | hkcSupervision ch value agree => exact frame_execHkcSupervision ch value agree s
  | dataRead p => exact frame_execDataRead p s
  | filteredRecord ch => exact frame_execFilteredRecord ch s
  | syncEdge falling stamp ecc => exact frame_execSyncEdge falling s stamp ecc
  | syncSchedule p => exact frame_execSyncSchedule p s
  | syncCancel p => exact frame_execSyncCancel p s
  | syncEffect => exact frame_execSyncEffect s
  | coefDataWrite p v => exact frame_execCoefDataWrite p v s
  | coefDataRead p => exact frame_execCoefDataRead p s
  | polyDataWrite p page v => exact frame_execPolyDataWrite p page v s
  | polyDataRead p page => exact frame_execPolyDataRead p page s
  | redMinRead p page c => exact frame_execRedMinRead p page c s
  | syncMessage m => exact frame_execSyncMessage m s
  | followUp domain seq origin corr => exact frame_execFollowUp domain seq origin corr s
  | delayReq domain d => exact frame_execDelayReq domain d s
  | delayResp domain seq rx corr => exact frame_execDelayResp domain seq rx s corr
  | pdelayReq port d => exact frame_execPdelayReq port d s
  | pdelayResp port seq corr rx twoStep => exact frame_execPdelayResp port seq corr rx twoStep s
  | pdelayRespFollowUp port seq corr => exact frame_execPdelayRespFollowUp port seq corr s
  | announce m => exact frame_execAnnounce m s
  | announceTimeout domain => exact frame_execAnnounceTimeout domain s
  | domainLost => exact frame_execDomainLost s
  | holdLimit => exact frame_execHoldLimit s
  | rootSyncSend domain => exact frame_execRootSyncSend domain s
  | rootAnnounceSend domain => exact frame_execRootAnnounceSend domain s
  | domSel p v => exact frame_execDomSel p v s
  | coarseRefresh => exact frame_execCoarseRefresh s
  | gridStartSend => exact frame_execGridStartSend s
  | gridStart m => exact frame_execGridStart m s
  | gridStartIndex => exact frame_execGridStartIndex s
  | linkUp l => exact frame_execLinkUp l s
  | linkDown l => exact frame_execLinkDown l s
  | rxWake l => exact frame_execRxWake l s
  | prbsInject p l => exact frame_execPrbsInject p l s
  | ringFrame port f => exact frame_execRingFrame port f s
  | l3Frame f => exact frame_execL3Frame f s
  | discoveryBeaconSend => exact frame_execDiscoveryBeaconSend s
  | discoveryBeacon port b => exact frame_execDiscoveryBeacon port b s
  | addressAssignmentSend => exact frame_execAddressAssignmentSend s
  | addressAssignment a => exact frame_execAddressAssignment a s
  | rootBeaconSend => exact frame_execRootBeaconSend s
  | rootBeacon port b => exact frame_execRootBeacon port b s
  | rootLost => exact frame_execRootLost s
  | rootAlone => exact frame_execRootAlone s
  | ringBreak port westHub eastHub multiple => exact frame_execRingBreak port westHub eastHub multiple s
  | admissionRequest r => exact frame_execAdmissionRequest r s
  | admissionRelease r => exact frame_execAdmissionRelease r s
  | admissionReply r => exact frame_execAdmissionReply r s
  | admissionRetry j => exact frame_execAdmissionRetry j s
  | enoroot j => exact frame_execEnoroot j s
  | ledgerReport r => exact frame_execLedgerReport r s
  | ledgerReportSend => exact frame_execLedgerReportSend s
  | ledgerRebuilt => exact frame_execLedgerRebuilt s
  | openStream p j => exact frame_execOpenStream p j s
  | closeStream p j => exact frame_execCloseStream p j s
  | clearStream p j => exact frame_execClearStream p j s
  | streamStart j => exact frame_execStreamStart j s
  | quireStored j errs => exact frame_execQuireStored j errs s
  | quireTransmit j errs => exact frame_execQuireTransmit j s errs
  | acknowledgement m => exact frame_execAcknowledgement m s
  | seqAcked p j a => exact frame_execSeqAcked p j a s
  | retxAfter j => exact frame_execRetxAfter j s
  | tHoldExpiry j => exact frame_execTHoldExpiry j s
  | cmdNop p seq args => exact frame_execCmdNop p seq args s
  | cmdTransfer p seq args => exact frame_execCmdTransfer p seq args s
  | cmdReamStore p seq args => exact frame_execCmdReamStore p seq args s
  | cmdCalStore p seq args => exact frame_execCmdCalStore p seq args s
  | cmdFuseWrite p seq args => exact frame_execCmdFuseWrite p seq args s
  | cmdZipJob p seq args => exact frame_execCmdZipJob p seq args s
  | cmdTableStage p seq args => exact frame_execCmdTableStage p seq args s
  | commandExecute => exact frame_execCommandExecute s
  | persistentStepDone ok => exact frame_execPersistentStepDone ok s
  | transferDone => exact frame_execTransferDone s
  | tableStageDone => exact frame_execTableStageDone s
  | zipJobDone lost => exact frame_execZipJobDone s lost
  | abortJob p => exact frame_execAbortJob p s
  | arm p r => exact frame_execArm p r s
  | armAt p r => exact frame_execArmAt p r s
  | armAtReached r => exact frame_execArmAtReached r s
  | disarm p r => exact frame_execDisarm p r s
  | reamClear p r => exact frame_execReamClear p r s
  | hostTrigger p r => exact frame_execHostTrigger p r s
  | triginEdge pin falling stamp ecc => exact frame_execTriginEdge pin falling stamp s ecc
  | ringTrigger t => exact frame_execRingTrigger t s
  | triggerDecision r => exact frame_execTriggerDecision r s
  | autoTrigger r => exact frame_execAutoTrigger r s
  | holdoffEnd r => exact frame_execHoldoffEnd r s
  | segmentDone r errs => exact frame_execSegmentDone r s errs
  | bu k => exact frame_execBu k s
  | stageStart k => exact frame_execStageStart k s
  | limit k => exact frame_execLimit k s
  | sramScrub k addr uncorrectable => exact frame_execSramScrub k addr uncorrectable s
  | nopInstruction k => exact frame_execNopInstruction k s
  | sli k d imm => exact frame_execSli k d imm s
  | slih k d imm => exact frame_execSlih k d imm s
  | sadd k d a b => exact frame_execSadd k d a b s
  | saddi k d a imm => exact frame_execSaddi k d a imm s
  | ssub k d a b => exact frame_execSsub k d a b s
  | sand k d a b => exact frame_execSand k d a b s
  | sor k d a b => exact frame_execSor k d a b s
  | sshl k d a imm => exact frame_execSshl k d a imm s
  | sshr k d a imm => exact frame_execSshr k d a imm s
  | smul k d a b => exact frame_execSmul k d a b s
  | sld k m => exact frame_execSld k m s
  | sst k m => exact frame_execSst k m s
  | sget k d sel => exact frame_execSget k d sel s
  | br k cond a target => exact frame_execBr k cond a target s
  | lmask k imm => exact frame_execLmask k imm s
  | signal k => exact frame_execSignal k s
  | vld k m => exact frame_execVld k m s
  | vldr k m => exact frame_execVldr k m s
  | vldi k m => exact frame_execVldi k m s
  | vldd k d a b st => exact frame_execVldd k d a b st s
  | vst k m => exact frame_execVst k m s
  | vste k m => exact frame_execVste k m s
  | vsplat k d a => exact frame_execVsplat k d a s
  | vadd k d a b => exact frame_execVadd k d a b s
  | vsub k d a b => exact frame_execVsub k d a b s
  | vmul k d a b => exact frame_execVmul k d a b s
  | vmac k d a b neg => exact frame_execVmac k d a b neg s
  | aclr k d e => exact frame_execAclr k d e s
  | vmova k d a => exact frame_execVmova k d a s
  | vclamp k d a b c => exact frame_execVclamp k d a b c s
  | vneg k d a => exact frame_execVneg k d a s
  | vabs k d a => exact frame_execVabs k d a s
  | vscl k d a e => exact frame_execVscl k d a e s
  | vmov k d a => exact frame_execVmov k d a s
  | vbc k d a j => exact frame_execVbc k d a j s
  | vcmp k a b cond => exact frame_execVcmp k a b cond s
  | vsel k d a b => exact frame_execVsel k d a b s
  | vtst k imm => exact frame_execVtst k imm s
  | norm k d => exact frame_execNorm k d s
  | vtab k d a b c interp => exact frame_execVtab k d a b c interp s
  | stop k => exact frame_execStop k s
  | illegal k => exact frame_execIllegal k s
  | runEngine p k => exact frame_execRunEngine p k s
  | haltEngine p k => exact frame_execHaltEngine p k s
  | clearFault p k => exact frame_execClearFault p k s
  | doorbell p k => exact frame_execDoorbell p k s
  | clearStagingList p k => exact frame_execClearStagingList p k s
  | slotEnable r => exact frame_execSlotEnable r s
  | slotRun r => exact frame_execSlotRun r s
  | slotDisable r => exact frame_execSlotDisable r s
  | holdTimeout r => exact frame_execHoldTimeout r s
  | motClearFault p r => exact frame_execMotClearFault p r s
  | cycleMark p r => exact frame_execCycleMark p r s
  | rcLost r => exact frame_execRcLost r s
  | encEdge ch e => exact frame_execEncEdge ch e s
  | intervalTimeout ch => exact frame_execIntervalTimeout ch s
  | ssiTransfer ch => exact frame_execSsiTransfer ch s
  | ssiTransferDone ch idleHigh bits => exact frame_execSsiTransferDone ch idleHigh bits s
  | interpolatorTable ch input hits => exact frame_execInterpolatorTable ch input s hits
  | armReference p ch => exact frame_execArmReference p ch s
  | loadPreset p ch => exact frame_execLoadPreset p ch s
  | clearCounters p ch => exact frame_execClearCounters p ch s
  | downlinkFrame p => exact frame_execDownlinkFrame p s
  | uplinkFrame p groups rtt => exact frame_execUplinkFrame p groups s rtt
  | commandResend p => exact frame_execCommandResend p s
  | sendCommand p port => exact frame_execSendCommand p port s
  | acceptIdentity p port => exact frame_execAcceptIdentity p port s
  | retrain p port => exact frame_execRetrain p port s
  | sendNow p x => exact frame_execSendNow p x s
  | sendToLatch p x => exact frame_execSendToLatch p x s
  | cancelSend p x => exact frame_execCancelSend p x s
  | frameStart x refresh => exact frame_execFrameStart x refresh s
  | frameDone x => exact frame_execFrameDone x s
  | lvlData p w => exact frame_execLvlData p w s
  | strobeArm p x => exact frame_execStrobeArm p x s
  | strobeDisarm p x => exact frame_execStrobeDisarm p x s
  | strobeFire x => exact frame_execStrobeFire x s
  | strobeEnd x => exact frame_execStrobeEnd x s
  | recalibrate p => exact frame_execRecalibrate p s
  | calPeriod => exact frame_execCalPeriod s
  | recalibrationDone quads => exact frame_execRecalibrationDone quads s
  | chal0Read p => exact frame_execChal0Read p s
  | challengeExpiry p => exact frame_execChallengeExpiry p s
  | authEnter p => exact frame_execAuthEnter p s
  | authLeave p => exact frame_execAuthLeave p s
  | svcTimeout p => exact frame_execSvcTimeout p s
  | lockoutEnd => exact frame_execLockoutEnd s
  | nsconfAsserted => exact frame_execNsconfAsserted s
  | nsconfRelease => exact frame_execNsconfRelease s
  | safeInput n level => exact frame_execSafeInput n level s
  | discrepancy k => exact frame_execDiscrepancy k s
  | testPulse k => exact frame_execTestPulse k s
  | testPulseEnd k => exact frame_execTestPulseEnd k s
  | pulseHoldEnd k => exact frame_execPulseHoldEnd k s
  | sfcCycle flowOk cfgOk => exact frame_execSfcCycle flowOk cfgOk s
  | sfcSelfTest ok => exact frame_execSfcSelfTest ok s
  | lifeSignalLost => exact frame_execLifeSignalLost s
  | switchTest x => exact frame_execSwitchTest x s
  | switchTestEnd x => exact frame_execSwitchTestEnd x s
  | readbackFault x high => exact frame_execReadbackFault x high s
  | ss1Expiry x => exact frame_execSs1Expiry x s
  | safeframeSend c => exact frame_execSafeframeSend c s
  | safeframe c m => exact frame_execSafeframe c m s
  | safeframeWatchdog c => exact frame_execSafeframeWatchdog c s
  | resetFaults p => exact frame_execResetFaults p s
  | resetConnection p c => exact frame_execResetConnection p c s
  | pairingRetry remote nonce answer => exact frame_execPairingRetry remote nonce s answer
  | paired => exact frame_execPaired s
  | heartbeatSend => exact frame_execHeartbeatSend s
  | heartbeat w => exact frame_execHeartbeat w s
  | partnerLost => exact frame_execPartnerLost s
  | arbselChange level => exact frame_execArbselChange level s
  | handoverFrame m => exact frame_execHandoverFrame m s
  | handoverRelease k => exact frame_execHandoverRelease k s
  | handoverTake k => exact frame_execHandoverTake k s
  | arbMismatch => exact frame_execArbMismatch s
  | mirrorFrameSend k => exact frame_execMirrorFrameSend k s
  | mirrorFrame m => exact frame_execMirrorFrame m s
  | snapshot m => exact frame_execSnapshot m s
  | requestRelease p => exact frame_execRequestRelease p s
  | cancelRelease p => exact frame_execCancelRelease p s
  | bistDone r => exact frame_execBistDone r s
  | reamImageLoaded slot0 slot1 => exact frame_execReamImageLoaded s slot0 slot1
  | linkWaitExpiry => exact frame_execLinkWaitExpiry s
  | dawnStall cause => exact frame_execDawnStall cause s
  | xlpLost => exact frame_execXlpLost s
  | xlpRestored => exact frame_execXlpRestored s
  | excitationFaultEnd k f => exact frame_execExcitationFaultEnd k f s
  | prbsCheckerLock l => exact frame_execPrbsCheckerLock l s
  | prbsBitError l => exact frame_execPrbsBitError l s
  | edgePositionRecord ch => exact frame_execEdgePositionRecord ch s
  | switchReadback x high level => exact frame_execSwitchReadback x high level s
  | releasedNetEdge gen ball => exact frame_execReleasedNetEdge gen ball s
  | stagingReplayDone k => exact frame_execStagingReplayDone k s
  | unknownOpcode p opcode seq => exact frame_execUnknownOpcode p opcode seq s
  | tapInstruction n => exact frame_execTapInstruction n s

end Sys2Proof.Machine
end

