-- ==== Sys2Proof/Laws/KeepsOps.lean ====
section
/-!
SUPPORT. What every operation of Machine/Ops.lean keeps (Keeps): one lemma for each operation that answers a state.
-/
set_option linter.all false

namespace Sys2Proof.Machine

theorem keeps_wr64 {u0 : State} (s : State) (lo v : Nat) (h0 : Keeps u0 s) :
    Keeps u0 (wr64 s lo v) := by
  unfold wr64
  repeat'
    first
    | with_reducible assumption | with_reducible apply keeps_wr

theorem keeps_bumpSat {u0 : State} (s : State) (a lo n k : Nat) (h0 : Keeps u0 s) :
    Keeps u0 (bumpSat s a lo n k) := by
  unfold bumpSat
  repeat'
    first
    | with_reducible assumption | with_reducible apply keeps_wr

theorem keeps_bumpWrap {u0 : State} (s : State) (a lo n k : Nat) (h0 : Keeps u0 s) :
    Keeps u0 (bumpWrap s a lo n k) := by
  unfold bumpWrap
  repeat'
    first
    | with_reducible assumption | with_reducible apply keeps_wr

theorem keeps_drawn {u0 : State} (s : State) (h0 : Keeps u0 s) :
    Keeps u0 (drawn s) := by
  unfold drawn
  repeat'
    first
    | with_reducible assumption | with_reducible apply Keeps.record | with_reducible apply Keeps.recordDraw

theorem keeps_evt {u0 : State} (s : State) (page i : Nat) (h0 : Keeps u0 s) :
    Keeps u0 (evt s page i) := by
  unfold evt
  repeat'
    first
    | with_reducible assumption | with_reducible apply keeps_wr

theorem keeps_evtIf {u0 : State} (c : Bool) (s : State) (page i : Nat) (h0 : Keeps u0 s) :
    Keeps u0 (evtIf c s page i) := by
  unfold evtIf
  repeat'
    first
    | with_reducible assumption | with_reducible apply keeps_ite | with_reducible apply keeps_evt

theorem keeps_onPage {u0 : State} (s : State) (p : Nat) (f : PageInfo → PageInfo) (h0 : Keeps u0 s) :
    Keeps u0 (onPage s p f) := by
  unfold onPage
  repeat'
    first
    | with_reducible assumption | with_reducible apply Keeps.record

theorem keeps_onPath {u0 : State} (s : State) (p : Path) (f : PathState → PathState) (h0 : Keeps u0 s) :
    Keeps u0 (onPath s p f) := by
  unfold onPath
  repeat'
    first
    | with_reducible assumption | with_reducible apply Keeps.record

theorem keeps_refuseOn {u0 : State} (s : State) (w : Who) (p a : Nat) (r : Rej) (h0 : Keeps u0 s) :
    Keeps u0 (refuseOn s w p a r) := by
  unfold refuseOn
  dsimp only
  repeat'
    first
    | with_reducible assumption | (intro _) | with_reducible apply keeps_ite
    | with_reducible apply keeps_onPage | with_reducible apply keeps_wr | with_reducible apply keeps_onPath
    | with_reducible apply keeps_bumpSat | split | dsimp only

theorem keeps_refuse {u0 : State} (s : State) (w : Who) (a : Nat) (r : Rej) (h0 : Keeps u0 s) :
    Keeps u0 (refuse s w a r) := by
  unfold refuse
  repeat'
    first
    | with_reducible assumption | with_reducible apply keeps_ite | with_reducible apply keeps_refuseOn

theorem keeps_checked {u0 : State} (s : State) (w : Who) (a : Nat) (c : Option Rej) (act : State → State) (hact : ∀
    x, Keeps u0 x → Keeps u0 (act x)) (h0 : Keeps u0 s) :
    Keeps u0 (checked s w a c act) := by
  unfold checked
  repeat'
    first
    | with_reducible assumption | with_reducible apply keeps_refuse | with_reducible apply hact | split

theorem keeps_faultSrc {u0 : State} (s : State) (i : Nat) (h0 : Keeps u0 s) :
    Keeps u0 (faultSrc s i) := by
  unfold faultSrc
  repeat'
    first
    | with_reducible assumption | with_reducible apply keeps_wr

theorem keeps_queueError {u0 : State} (s : State) (q corr unc : Nat) (h0 : Keeps u0 s) :
    Keeps u0 (queueError s q corr unc) := by
  unfold queueError
  dsimp only
  repeat'
    first
    | with_reducible assumption | with_reducible apply keeps_bumpSat | with_reducible apply keeps_evtIf
    | with_reducible apply Keeps.record | dsimp only

theorem keeps_fromQueue {u0 : State} (s : State) (q : Nat) (e : WordErr) (w lost : Word) (h0 : Keeps u0 s) :
    Keeps u0 (fromQueue s q e w lost).1 := by
  unfold fromQueue
  repeat'
    first
    | with_reducible assumption | with_reducible apply keeps_queueError | with_reducible apply keeps_drawn
    | split

theorem keeps_readStamp {u0 : State} (s : State) (e : WordErr) (stamp : Nat) (h0 : Keeps u0 s) :
    Keeps u0 (readStamp s e stamp).1 := by
  unfold readStamp
  repeat'
    first
    | with_reducible assumption | with_reducible apply keeps_queueError | with_reducible apply keeps_drawn
    | split | with_reducible apply Keeps.recordDraw

end Sys2Proof.Machine
end

