-- ==== Sys2Proof/Laws/KeepsAccess.lean ====
section
/-!
SUPPORT. What every operation of Machine/Access.lean keeps (Keeps): one lemma for each operation that answers a state.
-/
set_option linter.all false

namespace Sys2Proof.Machine

/-- A full change journal drops one entry for a new one (R770). -/
theorem dropEntry_length (b : Bool) (l : List ChangeEntry) : (dropEntry b l).length = l.length - 1 := by
  unfold dropEntry
  split
  · simp
  · dsimp only
    split
    · rename_i e he
      exact List.length_erase_of_mem (List.mem_of_find?_eq_some he)
    · simp

theorem keeps_changeEntry {u0 : State} (s : State) (kind level : Nat) (p : Path) (top w4 : Nat) (old new : Word)
    (h0 : Keeps u0 s) : Keeps u0 (changeEntry s kind level p top w4 old new) := by
  unfold changeEntry
  dsimp only
  apply keeps_evtIf
  apply keeps_evt
  refine h0.trans ⟨rfl, rfl, rfl, id, Nat.le_refl _, id, fun c => ?_, fun _ _ => id⟩
  simp only [changesWithin, decide_eq_true_eq, List.length_append, List.length_cons, List.length_nil] at c ⊢
  split
  · rename_i hf
    have hf : 1024 ≤ s.changes.entries.length := by simpa using hf
    rw [dropEntry_length]
    omega
  · rename_i hf
    have hf : ¬ 1024 ≤ s.changes.entries.length := by simpa using hf
    omega

theorem keeps_noteWrite {u0 : State} (s : State) (w : Who) (a : Nat) (v : Word) (h0 : Keeps u0 s) :
    Keeps u0 (noteWrite s w a v) := by
  unfold noteWrite
  repeat'
    first
    | with_reducible assumption | with_reducible apply keeps_ite | with_reducible apply keeps_changeEntry
    | split

theorem keeps_entryRefused {u0 : State} (s : State) (w : Who) (a : Nat) (h0 : Keeps u0 s) :
    Keeps u0 (entryRefused s w a) := by
  unfold entryRefused
  repeat'
    first
    | with_reducible assumption | with_reducible apply keeps_evt | with_reducible apply keeps_refuseOn
    | with_reducible apply keeps_refuse

theorem keeps_entered {u0 : State} (s : State) (w : Who) (a : Nat) (v : Word) (act : State → State) (hact : ∀ x,
    Keeps u0 x → Keeps u0 (act x)) (h0 : Keeps u0 s) :
    Keeps u0 (entered s w a v act) := by
  unfold entered
  repeat'
    first
    | with_reducible assumption | with_reducible apply keeps_ite | with_reducible apply keeps_entryRefused
    | with_reducible apply keeps_noteWrite | with_reducible apply hact

theorem keeps_gated {u0 : State} (s : State) (w : Who) (a : Nat) (act : State → State) (hact : ∀ x, Keeps u0 x →
    Keeps u0 (act x)) (h0 : Keeps u0 s) :
    Keeps u0 (gated s w a act) := by
  unfold gated
  repeat'
    first
    | with_reducible assumption | with_reducible apply keeps_ite | with_reducible apply keeps_checked
    | with_reducible apply hact

theorem keeps_hostAct {u0 : State} (s : State) (w : Who) (a : Nat) (v : Word) (c : Option Rej) (act : State → State)
    (hact : ∀ x, Keeps u0 x → Keeps u0 (act x)) (h0 : Keeps u0 s) :
    Keeps u0 (hostAct s w a v c act) := by
  unfold hostAct
  repeat'
    first
    | with_reducible assumption | (intro _) | with_reducible apply keeps_ite
    | with_reducible apply keeps_checked | with_reducible apply keeps_entered | with_reducible apply hact
    | dsimp only

theorem keeps_lapse {u0 : State} (s : State) (p : Path) (h0 : Keeps u0 s) :
    Keeps u0 (lapse s p) := by
  unfold lapse
  dsimp only
  repeat'
    first
    | with_reducible assumption | (intro _) | with_reducible apply keeps_ite
    | with_reducible apply keeps_changeEntry | with_reducible apply keeps_onPath | dsimp only

end Sys2Proof.Machine
end

