-- ==== Sys2Proof/Laws/KeepsFront.lean ====
section
/-!
SUPPORT. What every operation of Machine/Front.lean keeps (Keeps): one lemma for each operation that answers a state.
-/
set_option linter.all false

namespace Sys2Proof.Machine

theorem keeps_onInput {u0 : State} (s : State) (ch : Nat) (f : InputState → InputState) (h0 : Keeps u0 s) :
    Keeps u0 (onInput s ch f) := by
  unfold onInput
  repeat'
    first
    | with_reducible assumption | with_reducible apply Keeps.record

theorem keeps_onExc {u0 : State} (s : State) (k : Nat) (f : ExcState → ExcState) (h0 : Keeps u0 s) :
    Keeps u0 (onExc s k f) := by
  unfold onExc
  repeat'
    first
    | with_reducible assumption | with_reducible apply Keeps.record

theorem keeps_excChange {u0 : State} (s : State) (k n : Nat) (h0 : Keeps u0 s) :
    Keeps u0 (excChange s k n) := by
  unfold excChange
  repeat'
    first
    | with_reducible assumption | (intro _) | with_reducible apply keeps_onExc | dsimp only

theorem keeps_endBreak {u0 : State} (s : State) (ch : Nat) (h0 : Keeps u0 s) :
    Keeps u0 (endBreak s ch) := by
  unfold endBreak
  repeat'
    first
    | with_reducible assumption | (intro _) | with_reducible apply keeps_evt
    | with_reducible apply keeps_onInput | dsimp only

theorem keeps_rawSample {u0 : State} (s : State) (ch n : Nat) (c : Conversion) (h0 : Keeps u0 s) :
    Keeps u0 (rawSample s ch n c).1 := by
  unfold rawSample
  dsimp only
  repeat'
    first
    | with_reducible assumption | (intro _) | with_reducible apply keeps_ite
    | with_reducible apply keeps_ite_fst | with_reducible apply keeps_endBreak
    | with_reducible apply keeps_onExc | with_reducible apply keeps_onInput | with_reducible apply keeps_evtIf
    | with_reducible apply keeps_evt | with_reducible apply keeps_bumpSat | with_reducible apply keeps_wr
    | dsimp only

theorem keeps_fqCommitted {u0 : State} (s0 s : State) (q n : Nat) (h0 : Keeps u0 s) :
    Keeps u0 (fqCommitted s0 s q n) := by
  unfold fqCommitted
  dsimp only
  repeat'
    first
    | with_reducible assumption | (intro _) | with_reducible apply keeps_ite | with_reducible apply keeps_foldl
    | with_reducible apply keeps_onInput | with_reducible apply keeps_excChange | dsimp only

theorem keeps_when {u0 : State} (c : Bool) (s : State) (f : State → State) (hf : ∀ x, Keeps u0 x → Keeps u0 (f x))
    (h0 : Keeps u0 s) :
    Keeps u0 (when c s f) := by
  unfold when
  repeat'
    first
    | with_reducible assumption | with_reducible apply keeps_ite | with_reducible apply hf

theorem keeps_execRangeStep (ch : Fin 128) (s : State) :
    ∃ s', execRangeStep ch s = .next s' ∧ Keeps s s' := by
  refine ⟨_, rfl, ?_⟩
  repeat'
    first
    | with_reducible assumption | with_reducible exact Keeps.refl _ | (intro _)
    | with_reducible apply keeps_when | with_reducible apply keeps_onInput | dsimp only

theorem keeps_execBreakEnd (ch : Fin 128) (s : State) :
    ∃ s', execBreakEnd ch s = .next s' ∧ Keeps s s' := by
  refine ⟨_, rfl, ?_⟩
  repeat'
    first
    | with_reducible assumption | with_reducible exact Keeps.refl _ | (intro _)
    | with_reducible apply keeps_when | with_reducible apply keeps_endBreak | dsimp only

theorem keeps_execBurnOutTest (ch : Fin 128) (moved : Bool) (s : State) :
    ∃ s', execBurnOutTest ch moved s = .next s' ∧ Keeps s s' := by
  refine ⟨_, rfl, ?_⟩
  repeat'
    first
    | with_reducible assumption | with_reducible exact Keeps.refl _ | (intro _)
    | with_reducible apply keeps_when | with_reducible apply keeps_onInput | dsimp only

theorem keeps_execSwapPhase (ch : Fin 128) (s : State) :
    ∃ s', execSwapPhase ch s = .next s' ∧ Keeps s s' := by
  refine ⟨_, rfl, ?_⟩
  repeat'
    first
    | with_reducible assumption | with_reducible exact Keeps.refl _ | (intro _)
    | with_reducible apply keeps_when | with_reducible apply keeps_onInput | dsimp only

theorem keeps_execExcSettleEnd (k : Fin 16) (s : State) :
    ∃ s', execExcSettleEnd k s = .next s' ∧ Keeps s s' := by
  refine ⟨_, rfl, ?_⟩
  repeat'
    first
    | with_reducible assumption | with_reducible exact Keeps.refl _ | (intro _)
    | with_reducible apply keeps_when | with_reducible apply keeps_onExc | dsimp only

theorem keeps_execExcitationFault (k : Fin 16) (f : ExcFault) (s : State) :
    ∃ s', execExcitationFault k f s = .next s' ∧ Keeps s s' := by
  refine ⟨_, rfl, ?_⟩
  repeat'
    first
    | with_reducible assumption | with_reducible exact Keeps.refl _ | (intro _)
    | with_reducible apply keeps_when | with_reducible apply keeps_evt | with_reducible apply keeps_onExc
    | split | dsimp only

theorem keeps_execExcitationFaultEnd (k : Fin 16) (f : ExcFault) (s : State) :
    ∃ s', execExcitationFaultEnd k f s = .next s' ∧ Keeps s s' := by
  refine ⟨_, rfl, ?_⟩
  repeat'
    first
    | with_reducible assumption | with_reducible exact Keeps.refl _ | (intro _)
    | with_reducible apply keeps_onExc | split | dsimp only

end Sys2Proof.Machine
end

