-- ==== Sys2Proof/Laws/KeepsChain.lean ====
section
/-!
SUPPORT. What every operation of Machine/Chain.lean keeps (Keeps): one lemma for each operation that answers a state.
-/
set_option linter.all false

namespace Sys2Proof.Machine

theorem keeps_onChain {u0 : State} (s : State) (c : Nat) (f : ChainState → ChainState) (h0 : Keeps u0 s) :
    Keeps u0 (onChain s c f) := by
  unfold onChain
  repeat'
    first
    | with_reducible assumption | with_reducible apply Keeps.record

theorem keeps_chainOut {u0 : State} (s : State) (c : Nat) (k : ChainCfg) (num : Option Int) (x : Samp) (h0 : Keeps u0
    s) :
    Keeps u0 (chainOut s c k num x) := by
  unfold chainOut
  dsimp only
  repeat'
    first
    | with_reducible assumption | (intro _) | with_reducible apply keeps_ite
    | with_reducible apply keeps_onChain | with_reducible apply keeps_evtIf | split | dsimp only

theorem keeps_feedRs {u0 : State} (s : State) (c : Nat) (k : ChainCfg) (x : Samp) (h0 : Keeps u0 s) :
    Keeps u0 (feedRs s c k x) := by
  unfold feedRs
  dsimp only
  repeat'
    first
    | with_reducible assumption | (intro _) | with_reducible apply keeps_ite | with_reducible apply keeps_foldl
    | with_reducible apply keeps_onChain | with_reducible apply keeps_chainOut | dsimp only

theorem keeps_feedHb2 {u0 : State} (s : State) (c : Nat) (k : ChainCfg) (x : Samp) (h0 : Keeps u0 s) :
    Keeps u0 (feedHb2 s c k x) := by
  unfold feedHb2
  dsimp only
  repeat'
    first
    | with_reducible assumption | (intro _) | with_reducible apply keeps_ite
    | with_reducible apply keeps_onChain | with_reducible apply keeps_feedRs | split | dsimp only

theorem keeps_feedHb1 {u0 : State} (s : State) (c : Nat) (k : ChainCfg) (x : Samp) (h0 : Keeps u0 s) :
    Keeps u0 (feedHb1 s c k x) := by
  unfold feedHb1
  dsimp only
  repeat'
    first
    | with_reducible assumption | (intro _) | with_reducible apply keeps_ite
    | with_reducible apply keeps_onChain | with_reducible apply keeps_feedHb2 | split | dsimp only

theorem keeps_feedFir {u0 : State} (s : State) (c : Nat) (k : ChainCfg) (x : Samp) (h0 : Keeps u0 s) :
    Keeps u0 (feedFir s c k x) := by
  unfold feedFir
  dsimp only
  repeat'
    first
    | with_reducible assumption | (intro _) | with_reducible apply keeps_ite
    | with_reducible apply keeps_feedHb1 | with_reducible apply keeps_onChain | split | dsimp only

theorem keeps_feedChain {u0 : State} (s : State) (c range : Nat) (v : Int) (n : Nat) (w : Word) (h0 : Keeps u0 s) :
    Keeps u0 (feedChain s c range v n w) := by
  unfold feedChain
  dsimp only
  repeat'
    first
    | with_reducible assumption | (intro _) | with_reducible apply keeps_ite
    | with_reducible apply keeps_onChain | with_reducible apply keeps_feedFir | split | dsimp only

theorem keeps_chainRestart {u0 : State} (s : State) (c n : Nat) (h0 : Keeps u0 s) :
    Keeps u0 (chainRestart s c n) := by
  unfold chainRestart
  dsimp only
  repeat'
    first
    | with_reducible assumption | (intro _) | with_reducible apply keeps_onChain
    | with_reducible apply Keeps.record | dsimp only

theorem keeps_restartChains {u0 : State} (s : State) (p : ChainCfg → Bool) (n : Nat) (h0 : Keeps u0 s) :
    Keeps u0 (restartChains s p n) := by
  unfold restartChains
  repeat'
    first
    | with_reducible assumption | (intro _) | with_reducible apply keeps_ite | with_reducible apply keeps_foldl
    | with_reducible apply keeps_chainRestart | dsimp only

theorem keeps_chainCommitted {u0 : State} (s : State) (c : Nat) (o k : ChainCfg) (n : Nat) (h0 : Keeps u0 s) :
    Keeps u0 (chainCommitted s c o k n) := by
  unfold chainCommitted
  repeat'
    first
    | with_reducible assumption | (intro _) | with_reducible apply keeps_ite
    | with_reducible apply keeps_chainRestart | with_reducible apply keeps_onChain | dsimp only

theorem keeps_fltCommitted {u0 : State} (s0 s : State) (p n : Nat) (h0 : Keeps u0 s) :
    Keeps u0 (fltCommitted s0 s p n) := by
  unfold fltCommitted
  dsimp only
  repeat'
    first
    | with_reducible assumption | (intro _) | with_reducible apply keeps_foldl
    | with_reducible apply keeps_chainCommitted | with_reducible apply Keeps.record | dsimp only

theorem keeps_coefAdvance {u0 : State} (s : State) (h0 : Keeps u0 s) :
    Keeps u0 (coefAdvance s) := by
  unfold coefAdvance
  repeat'
    first
    | with_reducible assumption | with_reducible apply keeps_wr

theorem keeps_coefWrite {u0 : State} (s : State) (w : Word) (h0 : Keeps u0 s) :
    Keeps u0 (coefWrite s w) := by
  unfold coefWrite
  dsimp only
  repeat'
    first
    | with_reducible assumption | with_reducible apply keeps_ite | with_reducible apply keeps_coefAdvance
    | with_reducible apply Keeps.record | dsimp only

theorem keeps_polyAdvance {u0 : State} (s : State) (p : Nat) (h0 : Keeps u0 s) :
    Keeps u0 (polyAdvance s p) := by
  unfold polyAdvance
  dsimp only
  repeat'
    first
    | with_reducible assumption | with_reducible apply keeps_ite | with_reducible apply keeps_wr | dsimp only

theorem keeps_polyWrite {u0 : State} (s : State) (p : Nat) (w : Word) (h0 : Keeps u0 s) :
    Keeps u0 (polyWrite s p w) := by
  unfold polyWrite
  repeat'
    first
    | with_reducible assumption | with_reducible apply keeps_polyAdvance | with_reducible apply Keeps.record

theorem keeps_redStep {u0 : State} (s : State) (c : Nat) (o : OutRec) (h0 : Keeps u0 s) :
    Keeps u0 (redStep s c o) := by
  unfold redStep
  dsimp only
  repeat'
    first
    | with_reducible assumption | (intro _) | with_reducible apply keeps_ite | with_reducible apply keeps_wr
    | with_reducible apply keeps_onChain | dsimp only

theorem keeps_syncNow {u0 : State} (s : State) (n : Nat) (h0 : Keeps u0 s) :
    Keeps u0 (syncNow s n) := by
  unfold syncNow
  dsimp only
  repeat'
    first
    | with_reducible assumption | (intro _) | with_reducible apply keeps_restartChains
    | with_reducible apply keeps_evt | with_reducible apply keeps_wr64 | dsimp only

theorem keeps_execSyncEdge (falling : Bool) (s : State) (stamp : Nat) (ecc : WordErr) :
    ∃ s', execSyncEdge falling s stamp ecc = .next s' ∧ Keeps s s' := by
  refine ⟨_, rfl, ?_⟩
  repeat'
    first
    | with_reducible assumption | with_reducible exact Keeps.refl _ | (intro _)
    | with_reducible apply keeps_ite | with_reducible apply keeps_readStamp | with_reducible apply keeps_when
    | with_reducible apply keeps_evt | with_reducible apply keeps_bumpSat | with_reducible apply Keeps.record
    | dsimp only

theorem keeps_syncSchedule {u0 : State} (s : State) (w : Who) (h0 : Keeps u0 s) :
    Keeps u0 (syncSchedule s w) := by
  unfold syncSchedule
  repeat'
    first
    | with_reducible assumption | (intro _) | with_reducible apply keeps_checked
    | with_reducible apply Keeps.record | dsimp only

theorem keeps_syncCancel {u0 : State} (s : State) (h0 : Keeps u0 s) :
    Keeps u0 (syncCancel s) := by
  unfold syncCancel
  repeat'
    first
    | with_reducible assumption | with_reducible apply Keeps.record

theorem keeps_execSyncSchedule (p : Path) (s : State) :
    ∃ s', execSyncSchedule p s = .next s' ∧ Keeps s s' := by
  refine ⟨_, rfl, ?_⟩
  repeat'
    first
    | with_reducible assumption | with_reducible exact Keeps.refl _ | (intro _)
    | with_reducible apply keeps_gated | with_reducible apply keeps_syncSchedule | dsimp only

theorem keeps_execSyncCancel (p : Path) (s : State) :
    ∃ s', execSyncCancel p s = .next s' ∧ Keeps s s' := by
  refine ⟨_, rfl, ?_⟩
  repeat'
    first
    | with_reducible assumption | with_reducible exact Keeps.refl _ | (intro _)
    | with_reducible apply keeps_gated | with_reducible apply keeps_syncCancel | dsimp only

theorem keeps_execSyncEffect (s : State) :
    ∃ s', execSyncEffect s = .next s' ∧ Keeps s s' := by
  refine ⟨_, rfl, ?_⟩
  repeat'
    first
    | with_reducible assumption | with_reducible exact Keeps.refl _ | (intro _)
    | with_reducible apply keeps_ite | with_reducible apply keeps_when | with_reducible apply keeps_syncNow
    | with_reducible apply keeps_wr | with_reducible apply Keeps.record | dsimp only

end Sys2Proof.Machine
end

