-- ==== Sys2Proof/Laws/KeepsConv.lean ====
section
/-!
SUPPORT. What every operation of Machine/Conv.lean keeps (Keeps): one lemma for each operation that answers a state.
-/
set_option linter.all false

namespace Sys2Proof.Machine

theorem keeps_onCore {u0 : State} (s : State) (q : Nat) (f : CoreState → CoreState) (h0 : Keeps u0 s) :
    Keeps u0 (onCore s q f) := by
  unfold onCore
  repeat'
    first
    | with_reducible assumption | with_reducible apply Keeps.record

theorem keeps_execRotationStep (core : Fin 32) (s : State) :
    ∃ s', execRotationStep core s = .next s' ∧ Keeps s s' := by
  refine ⟨_, rfl, ?_⟩
  repeat'
    first
    | with_reducible assumption | with_reducible exact Keeps.refl _ | (intro _)
    | with_reducible apply keeps_when | with_reducible apply keeps_wr | with_reducible apply keeps_onCore
    | split | dsimp only

theorem keeps_fillPositions {u0 : State} (s : State) (q : Nat) (h0 : Keeps u0 s) :
    Keeps u0 (fillPositions s q) := by
  unfold fillPositions
  repeat'
    first
    | with_reducible assumption | (intro _) | with_reducible apply keeps_ite | with_reducible apply keeps_foldl
    | with_reducible apply keeps_onCore | dsimp only

theorem keeps_checkShort {u0 : State} (s : State) (q : Nat) (h0 : Keeps u0 s) :
    Keeps u0 (checkShort s q) := by
  unfold checkShort
  dsimp only
  repeat'
    first
    | with_reducible assumption | (intro _) | with_reducible apply keeps_ite
    | with_reducible apply keeps_fillPositions | with_reducible apply keeps_onCore
    | with_reducible apply keeps_faultSrc | dsimp only

theorem keeps_retireSlice {u0 : State} (s : State) (q i : Nat) (h0 : Keeps u0 s) :
    Keeps u0 (retireSlice s q i) := by
  unfold retireSlice
  dsimp only
  repeat'
    first
    | with_reducible assumption | (intro _) | with_reducible apply keeps_onCore
    | with_reducible apply keeps_checkShort | with_reducible apply keeps_evt | dsimp only

theorem keeps_execSliceCalibrationDone (core : Fin 32) (k : SliceCoef) (s : State) :
    ∃ s', execSliceCalibrationDone core k s = .next s' ∧ Keeps s s' := by
  refine ⟨_, rfl, ?_⟩
  repeat'
    first
    | with_reducible assumption | with_reducible exact Keeps.refl _ | (intro _)
    | with_reducible apply keeps_ite | with_reducible apply keeps_when | with_reducible apply keeps_onCore
    | with_reducible apply keeps_retireSlice | dsimp only

theorem keeps_ccCommitted {u0 : State} (s0 s : State) (q : Nat) (h0 : Keeps u0 s) :
    Keeps u0 (ccCommitted s0 s q) := by
  unfold ccCommitted
  dsimp only
  repeat'
    first
    | with_reducible assumption | (intro _) | with_reducible apply keeps_ite | with_reducible apply keeps_foldl
    | with_reducible apply keeps_onInput | with_reducible apply keeps_onChain
    | with_reducible apply keeps_checkShort | dsimp only

theorem keeps_onBand {u0 : State} (s : State) (ain : Nat) (f : BandState → BandState) (h0 : Keeps u0 s) :
    Keeps u0 (onBand s ain f) := by
  unfold onBand
  repeat'
    first
    | with_reducible assumption | with_reducible apply Keeps.record

theorem keeps_loadEdges {u0 : State} (s : State) (ain lo up : Nat) (h0 : Keeps u0 s) :
    Keeps u0 (loadEdges s ain lo up) := by
  unfold loadEdges
  repeat'
    first
    | with_reducible assumption | (intro _) | with_reducible apply keeps_ite | with_reducible apply keeps_evt
    | with_reducible apply keeps_onBand | dsimp only

theorem keeps_hostEdges {u0 : State} (s : State) (ain : Nat) (h0 : Keeps u0 s) :
    Keeps u0 (hostEdges s ain) := by
  unfold hostEdges
  dsimp only
  repeat'
    first
    | with_reducible assumption | (intro _) | with_reducible apply keeps_ite
    | with_reducible apply keeps_onBand | dsimp only

theorem keeps_hkcBegin {u0 : State} (s : State) (h0 : Keeps u0 s) :
    Keeps u0 (hkcBegin s) := by
  unfold hkcBegin
  repeat'
    first
    | with_reducible assumption | with_reducible apply Keeps.record

theorem keeps_hkcSelect {u0 : State} (s : State) (v : Word) (h0 : Keeps u0 s) :
    Keeps u0 (hkcSelect s v) := by
  unfold hkcSelect
  dsimp only
  repeat'
    first
    | with_reducible assumption | (intro _) | with_reducible apply Keeps.record | dsimp only

theorem keeps_hkcStart {u0 : State} (s : State) (w : Who) (v : Word) (h0 : Keeps u0 s) :
    Keeps u0 (hkcStart s w v) := by
  unfold hkcStart
  repeat'
    first
    | with_reducible assumption | with_reducible apply keeps_checked | with_reducible apply keeps_hkcBegin

theorem keeps_execHkcStart (p : Path) (v : Word) (s : State) :
    ∃ s', execHkcStart p v s = .next s' ∧ Keeps s s' := by
  refine ⟨_, rfl, ?_⟩
  repeat'
    first
    | with_reducible assumption | with_reducible exact Keeps.refl _ | (intro _)
    | with_reducible apply keeps_gated | with_reducible apply keeps_hkcStart | dsimp only

theorem keeps_execHkcResult (code : BitVec 12) (temp : BitVec 16) (s : State) :
    ∃ s', execHkcResult code temp s = .next s' ∧ Keeps s s' := by
  refine ⟨_, rfl, ?_⟩
  repeat'
    first
    | with_reducible assumption | with_reducible exact Keeps.refl _ | with_reducible apply keeps_wr
    | with_reducible apply keeps_evtIf | with_reducible apply keeps_evt | split
    | with_reducible apply Keeps.record | dsimp only

theorem keeps_hkcDataRead {u0 : State} (s : State) (p : Path) (h0 : Keeps u0 s) :
    Keeps u0 (hkcDataRead s p) := by
  unfold hkcDataRead
  dsimp only
  repeat'
    first
    | with_reducible assumption | (intro _) | with_reducible apply keeps_onPath | with_reducible apply keeps_wr
    | dsimp only

theorem keeps_execDataRead (p : Path) (s : State) :
    ∃ s', execDataRead p s = .next s' ∧ Keeps s s' := by
  refine ⟨_, rfl, ?_⟩
  repeat'
    first
    | with_reducible assumption | with_reducible exact Keeps.refl _ | with_reducible apply keeps_ite
    | with_reducible apply keeps_hkcDataRead

theorem keeps_onAo {u0 : State} (s : State) (x : Nat) (f : AoState → AoState) (h0 : Keeps u0 s) :
    Keeps u0 (onAo s x f) := by
  unfold onAo
  repeat'
    first
    | with_reducible assumption | with_reducible apply Keeps.record

theorem keeps_aoFollow {u0 : State} (s : State) (x : Nat) (h0 : Keeps u0 s) :
    Keeps u0 (aoFollow s x) := by
  unfold aoFollow
  dsimp only
  repeat'
    first
    | with_reducible assumption | (intro _) | with_reducible apply keeps_ite | with_reducible apply keeps_onAo
    | with_reducible apply keeps_evtIf | split | dsimp only

theorem keeps_aoDeliver {u0 : State} (s : State) (ch : Nat) (h0 : Keeps u0 s) :
    Keeps u0 (aoDeliver s ch) := by
  unfold aoDeliver
  repeat'
    first
    | with_reducible assumption | (intro _) | with_reducible apply keeps_ite | with_reducible apply keeps_foldl
    | with_reducible apply keeps_aoFollow | dsimp only

theorem keeps_aoutCommitted {u0 : State} (s : State) (h0 : Keeps u0 s) :
    Keeps u0 (aoutCommitted s) := by
  unfold aoutCommitted
  repeat'
    first
    | with_reducible assumption | (intro _) | with_reducible apply keeps_foldl
    | with_reducible apply keeps_aoFollow

theorem keeps_queueClear {u0 : State} (s : State) (w : Who) (q : Nat) (h0 : Keeps u0 s) :
    Keeps u0 (queueClear s w q) := by
  unfold queueClear
  repeat'
    first
    | with_reducible assumption | (intro _) | with_reducible apply keeps_checked
    | with_reducible apply keeps_wr | with_reducible apply Keeps.record | dsimp only

theorem keeps_execQueueClear (p : Path) (q : Nat) (s : State) :
    ∃ s', execQueueClear p q s = .next s' ∧ Keeps s s' := by
  refine ⟨_, rfl, ?_⟩
  repeat'
    first
    | with_reducible assumption | with_reducible exact Keeps.refl _ | (intro _)
    | with_reducible apply keeps_gated | with_reducible apply keeps_queueClear | dsimp only

end Sys2Proof.Machine
end

