-- ==== Sys2Proof/Laws/KeepsMotion.lean ====
section
/-!
SUPPORT. What every operation of Machine/Motion.lean keeps (Keeps): one lemma for each operation that answers a state.
-/
set_option linter.all false

namespace Sys2Proof.Machine

theorem keeps_onSlot {u0 : State} (s : State) (r : Nat) (f : SlotState → SlotState) (h0 : Keeps u0 s) :
    Keeps u0 (onSlot s r f) := by
  unfold onSlot
  repeat'
    first
    | with_reducible assumption | with_reducible apply Keeps.record

theorem keeps_onEng {u0 : State} (s : State) (k : Nat) (f : EngineState → EngineState) (h0 : Keeps u0 s) :
    Keeps u0 (onEng s k f) := by
  unfold onEng
  repeat'
    first
    | with_reducible assumption | with_reducible apply Keeps.record

theorem keeps_onGc {u0 : State} (s : State) (g : Nat) (f : Ball → Ball) (h0 : Keeps u0 s) :
    Keeps u0 (onGc s g f) := by
  unfold onGc
  repeat'
    first
    | with_reducible assumption | with_reducible apply Keeps.record

theorem keeps_onGen {u0 : State} (s : State) (g : Nat) (f : Ball → Ball) (h0 : Keeps u0 s) :
    Keeps u0 (onGen s g f) := by
  unfold onGen
  repeat'
    first
    | with_reducible assumption | with_reducible apply Keeps.record

theorem keeps_syncSlot {u0 : State} (s : State) (r : Nat) (h0 : Keeps u0 s) :
    Keeps u0 (syncSlot s r) := by
  unfold syncSlot
  repeat'
    first
    | with_reducible assumption | (intro _) | with_reducible apply keeps_ite | with_reducible apply keeps_foldl
    | with_reducible apply keeps_onGc | dsimp only

theorem keeps_syncGroups {u0 : State} (s : State) (h0 : Keeps u0 s) :
    Keeps u0 (syncGroups s) := by
  unfold syncGroups
  repeat'
    first
    | with_reducible assumption | (intro _) | with_reducible apply keeps_ite | with_reducible apply keeps_foldl
    | with_reducible apply keeps_onGen | dsimp only

theorem keeps_takeSlots {u0 : State} (s : State) (h0 : Keeps u0 s) :
    Keeps u0 (takeSlots s) := by
  unfold takeSlots
  repeat'
    first
    | with_reducible assumption | (intro _) | with_reducible apply keeps_foldl
    | with_reducible apply keeps_syncGroups | with_reducible apply keeps_syncSlot

theorem keeps_releaseSlots {u0 : State} (s : State) (h0 : Keeps u0 s) :
    Keeps u0 (releaseSlots s) := by
  unfold releaseSlots
  repeat'
    first
    | with_reducible assumption | (intro _) | with_reducible apply keeps_foldl
    | with_reducible apply keeps_onGc | with_reducible apply Keeps.record | dsimp only

theorem keeps_takeOutputs {u0 : State} (s : State) (h0 : Keeps u0 s) :
    Keeps u0 (takeOutputs s) := by
  unfold takeOutputs
  repeat'
    first
    | with_reducible assumption | (intro _) | with_reducible apply keeps_foldl
    | with_reducible apply keeps_onGc | with_reducible apply keeps_takeSlots | dsimp only

theorem keeps_releaseOutputs {u0 : State} (s : State) (h0 : Keeps u0 s) :
    Keeps u0 (releaseOutputs s) := by
  unfold releaseOutputs
  repeat'
    first
    | with_reducible assumption | with_reducible apply Keeps.record

theorem keeps_setLegs {u0 : State} (s : State) (r : Nat) (legs : List Bool) (h0 : Keeps u0 s) :
    Keeps u0 (setLegs s r legs) := by
  unfold setLegs
  repeat'
    first
    | with_reducible assumption | (intro _) | with_reducible apply keeps_syncSlot
    | with_reducible apply keeps_onSlot | dsimp only

theorem keeps_applyLaw {u0 : State} (s : State) (r : Nat) (h0 : Keeps u0 s) :
    Keeps u0 (applyLaw s r) := by
  unfold applyLaw
  dsimp only
  repeat'
    first
    | with_reducible assumption | with_reducible apply keeps_ite | with_reducible apply keeps_setLegs
    | dsimp only

theorem keeps_lawOf {u0 : State} (s : State) (ain : Nat) (h0 : Keeps u0 s) :
    Keeps u0 (lawOf s ain) := by
  unfold lawOf
  repeat'
    first
    | with_reducible assumption | with_reducible apply keeps_applyLaw | split

theorem keeps_execComparatorCrossing (ain : Fin 96) (upper level : Bool) (s : State) :
    ∃ s', execComparatorCrossing ain upper level s = .next s' ∧ Keeps s s' := by
  refine ⟨_, rfl, ?_⟩
  repeat'
    first
    | with_reducible assumption | with_reducible exact Keeps.refl _ | (intro _)
    | with_reducible apply keeps_when | with_reducible apply keeps_lawOf | with_reducible apply keeps_onBand
    | dsimp only

theorem keeps_execBandEdgeLoad (ain : Fin 96) (s : State) (ecc : WordErr) :
    ∃ s', execBandEdgeLoad ain s ecc = .next s' ∧ Keeps s s' := by
  refine ⟨_, rfl, ?_⟩
  repeat'
    first
    | with_reducible assumption | with_reducible exact Keeps.refl _ | (intro _)
    | with_reducible apply keeps_when | with_reducible apply keeps_fromQueue | with_reducible apply keeps_lawOf
    | with_reducible apply keeps_loadEdges | with_reducible apply keeps_onBand | split
    | with_reducible apply Keeps.recordDraw | dsimp only

theorem keeps_execMinHoldEnd (slot : Fin 48) (leg : Fin 3) (s : State) :
    ∃ s', execMinHoldEnd slot leg s = .next s' ∧ Keeps s s' := by
  refine ⟨_, rfl, ?_⟩
  repeat'
    first
    | with_reducible assumption | with_reducible exact Keeps.refl _ | (intro _)
    | with_reducible apply keeps_when | with_reducible apply keeps_applyLaw | with_reducible apply keeps_onSlot
    | dsimp only

theorem keeps_clearBlock {u0 : State} (s : State) (h0 : Keeps u0 s) :
    Keeps u0 (clearBlock s) := by
  unfold clearBlock
  repeat'
    first
    | with_reducible assumption | with_reducible apply keeps_ite | with_reducible apply keeps_wr

theorem keeps_applyReaction {u0 : State} (s : State) (r reaction : Nat) (h0 : Keeps u0 s) :
    Keeps u0 (applyReaction s r reaction) := by
  unfold applyReaction
  dsimp only
  repeat'
    first
    | with_reducible assumption | (intro _) | with_reducible apply keeps_ite
    | with_reducible apply keeps_onSlot | with_reducible apply keeps_setLegs | dsimp only

theorem keeps_faultOne {u0 : State} (s : State) (r cause n : Nat) (h0 : Keeps u0 s) :
    Keeps u0 (faultOne s r cause n) := by
  unfold faultOne
  dsimp only
  repeat'
    first
    | with_reducible assumption | (intro _) | with_reducible apply keeps_ite
    | with_reducible apply keeps_applyReaction | with_reducible apply keeps_onSlot
    | with_reducible apply keeps_faultSrc | with_reducible apply keeps_evt | split | dsimp only

theorem keeps_slotFault {u0 : State} (s : State) (r cause n : Nat) (h0 : Keeps u0 s) :
    Keeps u0 (slotFault s r cause n) := by
  unfold slotFault
  dsimp only
  repeat'
    first
    | with_reducible assumption | (intro _) | with_reducible apply keeps_ite | with_reducible apply keeps_foldl
    | with_reducible apply keeps_faultOne | with_reducible apply keeps_wr | with_reducible apply keeps_evt
    | with_reducible apply keeps_syncGroups | dsimp only

theorem keeps_engineSlots {u0 : State} (s : State) (k : Nat) (h0 : Keeps u0 s) :
    Keeps u0 (engineSlots s k) := by
  unfold engineSlots
  repeat'
    first
    | with_reducible assumption | (intro _) | with_reducible apply keeps_foldl
    | with_reducible apply keeps_slotFault | dsimp only

theorem keeps_slotRecord {u0 : State} (s : State) (ain n : Nat) (w : Word) (h0 : Keeps u0 s) :
    Keeps u0 (slotRecord s ain n w) := by
  unfold slotRecord
  dsimp only
  repeat'
    first
    | with_reducible assumption | (intro _) | with_reducible apply keeps_ite
    | with_reducible apply keeps_onSlot | with_reducible apply keeps_slotFault | split | dsimp only

theorem keeps_execHoldTimeout (r : Fin 48) (s : State) :
    ∃ s', execHoldTimeout r s = .next s' ∧ Keeps s s' := by
  refine ⟨_, rfl, ?_⟩
  repeat'
    first
    | with_reducible assumption | with_reducible exact Keeps.refl _ | (intro _)
    | with_reducible apply keeps_when | with_reducible apply keeps_syncGroups
    | with_reducible apply keeps_applyReaction | dsimp only

theorem keeps_motClearFault {u0 : State} (s : State) (w : Who) (r : Nat) (h0 : Keeps u0 s) :
    Keeps u0 (motClearFault s w r) := by
  unfold motClearFault
  dsimp only
  repeat'
    first
    | with_reducible assumption | (intro _) | with_reducible apply keeps_ite
    | with_reducible apply keeps_checked | with_reducible apply keeps_wr | with_reducible apply keeps_onSlot
    | with_reducible apply keeps_clearBlock | with_reducible apply keeps_syncGroups | dsimp only

theorem keeps_execMotClearFault (p : Path) (r : Nat) (s : State) :
    ∃ s', execMotClearFault p r s = .next s' ∧ Keeps s s' := by
  refine ⟨_, rfl, ?_⟩
  repeat'
    first
    | with_reducible assumption | with_reducible exact Keeps.refl _ | (intro _)
    | with_reducible apply keeps_gated | with_reducible apply keeps_motClearFault | dsimp only

theorem keeps_execSlotEnable (r : Fin 48) (s : State) :
    ∃ s', execSlotEnable r s = .next s' ∧ Keeps s s' := by
  refine ⟨_, rfl, ?_⟩
  repeat'
    first
    | with_reducible assumption | with_reducible exact Keeps.refl _ | (intro _)
    | with_reducible apply keeps_when | with_reducible apply keeps_onSlot
    | with_reducible apply keeps_syncGroups | with_reducible apply keeps_setLegs | dsimp only

theorem keeps_enterRun {u0 : State} (s : State) (r : Nat) (h0 : Keeps u0 s) :
    Keeps u0 (enterRun s r) := by
  unfold enterRun
  repeat'
    first
    | with_reducible assumption | (intro _) | with_reducible apply keeps_applyLaw
    | with_reducible apply keeps_evt | with_reducible apply keeps_onSlot | dsimp only

theorem keeps_execSlotRun (r : Fin 48) (s : State) :
    ∃ s', execSlotRun r s = .next s' ∧ Keeps s s' := by
  refine ⟨_, rfl, ?_⟩
  repeat'
    first
    | with_reducible assumption | with_reducible exact Keeps.refl _ | (intro _)
    | with_reducible apply keeps_when | with_reducible apply keeps_enterRun | dsimp only

theorem keeps_execSlotDisable (r : Fin 48) (s : State) :
    ∃ s', execSlotDisable r s = .next s' ∧ Keeps s s' := by
  refine ⟨_, rfl, ?_⟩
  repeat'
    first
    | with_reducible assumption | with_reducible exact Keeps.refl _ | (intro _)
    | with_reducible apply keeps_when | with_reducible apply keeps_onSlot
    | with_reducible apply keeps_syncGroups | with_reducible apply keeps_setLegs | dsimp only

theorem keeps_markSlot {u0 : State} (s : State) (r n : Nat) (h0 : Keeps u0 s) :
    Keeps u0 (markSlot s r n) := by
  unfold markSlot
  dsimp only
  repeat'
    first
    | with_reducible assumption | (intro _) | with_reducible apply keeps_ite
    | with_reducible apply keeps_onSlot | with_reducible apply keeps_evtIf | split | dsimp only

theorem keeps_cycleMark {u0 : State} (s : State) (w : Who) (r : Nat) (h0 : Keeps u0 s) :
    Keeps u0 (cycleMark s w r) := by
  unfold cycleMark
  repeat'
    first
    | with_reducible assumption | (intro _) | with_reducible apply keeps_ite
    | with_reducible apply keeps_checked | with_reducible apply keeps_markSlot | dsimp only

theorem keeps_execCycleMark (p : Path) (r : Nat) (s : State) :
    ∃ s', execCycleMark p r s = .next s' ∧ Keeps s s' := by
  refine ⟨_, rfl, ?_⟩
  repeat'
    first
    | with_reducible assumption | with_reducible exact Keeps.refl _ | (intro _)
    | with_reducible apply keeps_gated | with_reducible apply keeps_cycleMark | dsimp only

theorem keeps_pinMarks {u0 : State} (s : State) (pin : Nat) (falling : Bool) (n : Nat) (h0 : Keeps u0 s) :
    Keeps u0 (pinMarks s pin falling n) := by
  unfold pinMarks
  dsimp only
  repeat'
    first
    | with_reducible assumption | (intro _) | with_reducible apply keeps_ite | with_reducible apply keeps_foldl
    | with_reducible apply keeps_markSlot | dsimp only

theorem keeps_execRcLost (r : Fin 48) (s : State) :
    ∃ s', execRcLost r s = .next s' ∧ Keeps s s' := by
  refine ⟨_, rfl, ?_⟩
  repeat'
    first
    | with_reducible assumption | with_reducible exact Keeps.refl _ | (intro _)
    | with_reducible apply keeps_when | with_reducible apply keeps_evt | with_reducible apply keeps_onSlot
    | dsimp only

theorem keeps_releaseLegs {u0 : State} (s0 s : State) (r : Nat) (h0 : Keeps u0 s) :
    Keeps u0 (releaseLegs s0 s r) := by
  unfold releaseLegs
  repeat'
    first
    | with_reducible assumption | (intro _) | with_reducible apply keeps_foldl
    | with_reducible apply keeps_onGc | dsimp only

theorem keeps_motSlotCommitted {u0 : State} (s0 s : State) (n r : Nat) (h0 : Keeps u0 s) :
    Keeps u0 (motSlotCommitted s0 s n r) := by
  unfold motSlotCommitted
  dsimp only
  repeat'
    first
    | with_reducible assumption | (intro _) | with_reducible apply keeps_ite
    | with_reducible apply keeps_onSlot | with_reducible apply keeps_applyLaw
    | with_reducible apply keeps_syncSlot | with_reducible apply keeps_releaseLegs | dsimp only

theorem keeps_motCommitted {u0 : State} (s0 s : State) (n : Nat) (h0 : Keeps u0 s) :
    Keeps u0 (motCommitted s0 s n) := by
  unfold motCommitted
  dsimp only
  repeat'
    first
    | with_reducible assumption | (intro _) | with_reducible apply keeps_ite | with_reducible apply keeps_foldl
    | with_reducible apply keeps_hostEdges | with_reducible apply keeps_syncGroups
    | with_reducible apply keeps_motSlotCommitted | dsimp only

end Sys2Proof.Machine
end

