-- ==== Sys2Proof/Laws/KeepsLite.lean ====
section
/-!
SUPPORT. What every operation of Machine/Lite.lean keeps (Keeps): one lemma for each operation that answers a state.
-/
set_option linter.all false

namespace Sys2Proof.Machine

theorem keeps_onLite {u0 : State} (s : State) (x : Nat) (f : LiteState → LiteState) (h0 : Keeps u0 s) :
    Keeps u0 (onLite s x f) := by
  unfold onLite
  repeat'
    first
    | with_reducible assumption | with_reducible apply Keeps.record

theorem keeps_onStrobe {u0 : State} (s : State) (x : Nat) (f : StrobeState → StrobeState) (h0 : Keeps u0 s) :
    Keeps u0 (onStrobe s x f) := by
  unfold onStrobe
  repeat'
    first
    | with_reducible assumption | with_reducible apply Keeps.record

theorem keeps_liteTemp {u0 : State} (s : State) (x : Nat) (w : Word) (h0 : Keeps u0 s) :
    Keeps u0 (liteTemp s x w) := by
  unfold liteTemp
  repeat'
    first
    | with_reducible assumption | (intro _) | with_reducible apply keeps_ite | with_reducible apply keeps_evtIf
    | with_reducible apply keeps_onLite | dsimp only

theorem keeps_liteDeliver {u0 : State} (s : State) (ch : Nat) (w : Word) (h0 : Keeps u0 s) :
    Keeps u0 (liteDeliver s ch w) := by
  unfold liteDeliver
  repeat'
    first
    | with_reducible assumption | (intro _) | with_reducible apply keeps_ite | with_reducible apply keeps_foldl
    | with_reducible apply keeps_liteTemp | dsimp only

theorem keeps_liteRefresh {u0 : State} (s : State) (x : Nat) (h0 : Keeps u0 s) :
    Keeps u0 (liteRefresh s x) := by
  unfold liteRefresh
  repeat'
    first
    | with_reducible assumption | (intro _) | with_reducible apply keeps_onLite
    | with_reducible apply keeps_liteTemp | split | dsimp only

theorem keeps_startFrame {u0 : State} (s : State) (x : Nat) (h0 : Keeps u0 s) :
    Keeps u0 (startFrame s x) := by
  unfold startFrame
  repeat'
    first
    | with_reducible assumption | (intro _) | with_reducible apply keeps_onLite | dsimp only

theorem keeps_execFrameStart (x : Fin 8) (refresh : Bool) (s : State) :
    ∃ s', execFrameStart x refresh s = .next s' ∧ Keeps s s' := by
  refine ⟨_, rfl, ?_⟩
  repeat'
    first
    | with_reducible assumption | with_reducible exact Keeps.refl _ | (intro _)
    | with_reducible apply keeps_ite | with_reducible apply keeps_when | with_reducible apply keeps_startFrame
    | dsimp only

theorem keeps_execFrameDone (x : Fin 8) (s : State) :
    ∃ s', execFrameDone x s = .next s' ∧ Keeps s s' := by
  refine ⟨_, rfl, ?_⟩
  repeat'
    first
    | with_reducible assumption | with_reducible exact Keeps.refl _ | (intro _)
    | with_reducible apply keeps_when | with_reducible apply keeps_evt | with_reducible apply keeps_onLite
    | dsimp only

theorem keeps_sendNow {u0 : State} (s : State) (w : Who) (x : Nat) (h0 : Keeps u0 s) :
    Keeps u0 (sendNow s w x) := by
  unfold sendNow
  repeat'
    first
    | with_reducible assumption | (intro _) | with_reducible apply keeps_ite
    | with_reducible apply keeps_checked | with_reducible apply keeps_onLite | dsimp only

theorem keeps_execSendNow (p : Path) (x : Fin 8) (s : State) :
    ∃ s', execSendNow p x s = .next s' ∧ Keeps s s' := by
  refine ⟨_, rfl, ?_⟩
  repeat'
    first
    | with_reducible assumption | with_reducible exact Keeps.refl _ | (intro _)
    | with_reducible apply keeps_gated | with_reducible apply keeps_sendNow | dsimp only

theorem keeps_sendToLatch {u0 : State} (s : State) (w : Who) (x : Nat) (h0 : Keeps u0 s) :
    Keeps u0 (sendToLatch s w x) := by
  unfold sendToLatch
  dsimp only
  repeat'
    first
    | with_reducible assumption | (intro _) | with_reducible apply keeps_ite
    | with_reducible apply keeps_checked | with_reducible apply keeps_onLite | dsimp only

theorem keeps_execSendToLatch (p : Path) (x : Fin 8) (s : State) :
    ∃ s', execSendToLatch p x s = .next s' ∧ Keeps s s' := by
  refine ⟨_, rfl, ?_⟩
  repeat'
    first
    | with_reducible assumption | with_reducible exact Keeps.refl _ | (intro _)
    | with_reducible apply keeps_gated | with_reducible apply keeps_sendToLatch | dsimp only

theorem keeps_cancelSend {u0 : State} (s : State) (x : Nat) (h0 : Keeps u0 s) :
    Keeps u0 (cancelSend s x) := by
  unfold cancelSend
  repeat'
    first
    | with_reducible assumption | (intro _) | with_reducible apply keeps_onLite | dsimp only

theorem keeps_execCancelSend (p : Path) (x : Fin 8) (s : State) :
    ∃ s', execCancelSend p x s = .next s' ∧ Keeps s s' := by
  refine ⟨_, rfl, ?_⟩
  repeat'
    first
    | with_reducible assumption | with_reducible exact Keeps.refl _ | (intro _)
    | with_reducible apply keeps_gated | with_reducible apply keeps_cancelSend | dsimp only

theorem keeps_liteCtrl {u0 : State} (s : State) (w : Who) (v : Word) (h0 : Keeps u0 s) :
    Keeps u0 (liteCtrl s w v) := by
  unfold liteCtrl
  dsimp only
  repeat'
    first
    | with_reducible assumption | with_reducible apply keeps_sendNow | with_reducible apply keeps_sendToLatch
    | with_reducible apply keeps_cancelSend | with_reducible apply keeps_refuse | split | dsimp only

theorem keeps_lvlAdvance {u0 : State} (s : State) (h0 : Keeps u0 s) :
    Keeps u0 (lvlAdvance s) := by
  unfold lvlAdvance
  dsimp only
  repeat'
    first
    | with_reducible assumption | with_reducible apply keeps_ite | with_reducible apply keeps_wr | dsimp only

theorem keeps_lvlWrite {u0 : State} (s : State) (v : Word) (h0 : Keeps u0 s) :
    Keeps u0 (lvlWrite s v) := by
  unfold lvlWrite
  repeat'
    first
    | with_reducible assumption | with_reducible apply keeps_lvlAdvance | with_reducible apply Keeps.record

theorem keeps_execLvlData (p : Path) (w : Option Word) (s : State) :
    ∃ s', execLvlData p w s = .next s' ∧ Keeps s s' := by
  refine ⟨_, rfl, ?_⟩
  repeat'
    first
    | with_reducible assumption | with_reducible exact Keeps.refl _ | (intro _)
    | with_reducible apply keeps_ite | with_reducible apply keeps_gated | with_reducible apply keeps_lvlWrite
    | with_reducible apply keeps_lvlAdvance | split | dsimp only

theorem keeps_strobeLate {u0 : State} (s : State) (x : Nat) (h0 : Keeps u0 s) :
    Keeps u0 (strobeLate s x) := by
  unfold strobeLate
  repeat'
    first
    | with_reducible assumption | (intro _) | with_reducible apply keeps_evt
    | with_reducible apply keeps_onStrobe | dsimp only

theorem keeps_strobeArm {u0 : State} (s : State) (w : Who) (x : Nat) (h0 : Keeps u0 s) :
    Keeps u0 (strobeArm s w x) := by
  unfold strobeArm
  dsimp only
  repeat'
    first
    | with_reducible assumption | (intro _) | with_reducible apply keeps_ite
    | with_reducible apply keeps_checked | with_reducible apply keeps_onStrobe | dsimp only

theorem keeps_execStrobeArm (p : Path) (x : Fin 8) (s : State) :
    ∃ s', execStrobeArm p x s = .next s' ∧ Keeps s s' := by
  refine ⟨_, rfl, ?_⟩
  repeat'
    first
    | with_reducible assumption | with_reducible exact Keeps.refl _ | (intro _)
    | with_reducible apply keeps_gated | with_reducible apply keeps_strobeArm | dsimp only

theorem keeps_strobeDisarm {u0 : State} (s : State) (x : Nat) (h0 : Keeps u0 s) :
    Keeps u0 (strobeDisarm s x) := by
  unfold strobeDisarm
  repeat'
    first
    | with_reducible assumption | (intro _) | with_reducible apply keeps_onStrobe | dsimp only

theorem keeps_execStrobeDisarm (p : Path) (x : Fin 8) (s : State) :
    ∃ s', execStrobeDisarm p x s = .next s' ∧ Keeps s s' := by
  refine ⟨_, rfl, ?_⟩
  repeat'
    first
    | with_reducible assumption | with_reducible exact Keeps.refl _ | (intro _)
    | with_reducible apply keeps_gated | with_reducible apply keeps_strobeDisarm | dsimp only

theorem keeps_strobeCtrl {u0 : State} (s : State) (w : Who) (v : Word) (h0 : Keeps u0 s) :
    Keeps u0 (strobeCtrl s w v) := by
  unfold strobeCtrl
  repeat'
    first
    | with_reducible assumption | with_reducible apply keeps_strobeArm
    | with_reducible apply keeps_strobeDisarm | with_reducible apply keeps_refuse | split

theorem keeps_strobeSegment {u0 : State} (s : State) (r n : Nat) (h0 : Keeps u0 s) :
    Keeps u0 (strobeSegment s r n) := by
  unfold strobeSegment
  dsimp only
  repeat'
    first
    | with_reducible assumption | (intro _) | with_reducible apply keeps_ite | with_reducible apply keeps_foldl
    | with_reducible apply keeps_strobeLate | with_reducible apply keeps_onStrobe | dsimp only

theorem keeps_strobeNext {u0 : State} (s : State) (x n : Nat) (rest : List Nat) (h0 : Keeps u0 s) :
    Keeps u0 (strobeNext s x n rest) := by
  unfold strobeNext
  repeat'
    first
    | with_reducible assumption | (intro _) | with_reducible apply keeps_ite
    | with_reducible apply keeps_onStrobe | dsimp only

theorem keeps_execStrobeFire (x : Fin 8) (s : State) :
    ∃ s', execStrobeFire x s = .next s' ∧ Keeps s s' := by
  refine ⟨_, rfl, ?_⟩
  repeat'
    first
    | with_reducible assumption | with_reducible exact Keeps.refl _ | (intro _)
    | with_reducible apply keeps_ite | with_reducible apply keeps_strobeNext
    | with_reducible apply keeps_strobeLate | with_reducible apply keeps_evt
    | with_reducible apply keeps_onStrobe | split | dsimp only

theorem keeps_execStrobeEnd (x : Fin 8) (s : State) :
    ∃ s', execStrobeEnd x s = .next s' ∧ Keeps s s' := by
  refine ⟨_, rfl, ?_⟩
  repeat'
    first
    | with_reducible assumption | with_reducible exact Keeps.refl _ | (intro _)
    | with_reducible apply keeps_when | with_reducible apply keeps_onStrobe | dsimp only

theorem keeps_liteCommitted {u0 : State} (s : State) (h0 : Keeps u0 s) :
    Keeps u0 (liteCommitted s) := by
  unfold liteCommitted
  dsimp only
  repeat'
    first
    | with_reducible assumption | (intro _) | with_reducible apply keeps_ite | with_reducible apply keeps_foldl
    | with_reducible apply keeps_liteRefresh | with_reducible apply keeps_onLite | dsimp only

theorem keeps_liteWarm {u0 : State} (s : State) (h0 : Keeps u0 s) :
    Keeps u0 (liteWarm s) := by
  unfold liteWarm
  repeat'
    first
    | with_reducible assumption | (intro _) | with_reducible apply Keeps.record | dsimp only

end Sys2Proof.Machine
end

