-- ==== Sys2Proof/Laws/KeepsNet.lean ====
section
/-!
SUPPORT. What every operation of Machine/Net.lean keeps (Keeps): one lemma for each operation that answers a state.
-/
set_option linter.all false

namespace Sys2Proof.Machine

theorem keeps_onLane {u0 : State} (s : State) (l : Lane) (f : LaneState → LaneState) (h0 : Keeps u0 s) :
    Keeps u0 (onLane s l f) := by
  unfold onLane
  repeat'
    first
    | with_reducible assumption | with_reducible apply Keeps.record

theorem keeps_emit {u0 : State} (s : State) (f : TxFrame) (h0 : Keeps u0 s) :
    Keeps u0 (emit s f) := by
  unfold emit
  repeat'
    first
    | with_reducible assumption | with_reducible apply keeps_ite | with_reducible apply keeps_bumpWrap
    | with_reducible apply Keeps.record

theorem keeps_emitOwn {u0 : State} (s : State) (l : Lane) (dst : Mac) (b : FrameBody) (h0 : Keeps u0 s) :
    Keeps u0 (emitOwn s l dst b) := by
  unfold emitOwn
  repeat'
    first
    | with_reducible assumption | with_reducible apply keeps_emit

theorem keeps_insertBoth {u0 : State} (s : State) (dst : Mac) (b0 b1 : FrameBody) (h0 : Keeps u0 s) :
    Keeps u0 (insertBoth s dst b0 b1) := by
  unfold insertBoth
  dsimp only
  repeat'
    first
    | with_reducible assumption | with_reducible apply keeps_emit | with_reducible apply Keeps.record
    | dsimp only

theorem keeps_insertFrame {u0 : State} (s : State) (dst : Mac) (b : FrameBody) (h0 : Keeps u0 s) :
    Keeps u0 (insertFrame s dst b) := by
  unfold insertFrame
  repeat'
    first
    | with_reducible assumption | with_reducible apply keeps_insertBoth

theorem keeps_sendBeacon {u0 : State} (s : State) (h0 : Keeps u0 s) :
    Keeps u0 (sendBeacon s) := by
  unfold sendBeacon
  dsimp only
  repeat'
    first
    | with_reducible assumption | with_reducible apply keeps_ite | with_reducible apply keeps_insertFrame
    | with_reducible apply Keeps.record | dsimp only

theorem keeps_sendRing {u0 : State} (s : State) (dst : Mac) (b : FrameBody) (h0 : Keeps u0 s) :
    Keeps u0 (sendRing s dst b) := by
  unfold sendRing
  repeat'
    first
    | with_reducible assumption | with_reducible apply keeps_ite | with_reducible apply keeps_emitOwn
    | with_reducible apply keeps_insertFrame | with_reducible apply keeps_sendBeacon

theorem keeps_sendTwin {u0 : State} (s : State) (b : FrameBody) (h0 : Keeps u0 s) :
    Keeps u0 (sendTwin s b) := by
  unfold sendTwin
  repeat'
    first
    | with_reducible assumption | with_reducible apply keeps_emitOwn

theorem keeps_linkRise {u0 : State} (s : State) (l : Lane) (h0 : Keeps u0 s) :
    Keeps u0 (linkRise s l) := by
  unfold linkRise
  dsimp only
  repeat'
    first
    | with_reducible assumption | (intro _) | with_reducible apply keeps_onLane
    | with_reducible apply keeps_evt | with_reducible apply keeps_bumpSat | dsimp only

theorem keeps_linkFall {u0 : State} (s : State) (l : Lane) (h0 : Keeps u0 s) :
    Keeps u0 (linkFall s l) := by
  unfold linkFall
  dsimp only
  repeat'
    first
    | with_reducible assumption | (intro _) | with_reducible apply keeps_ite
    | with_reducible apply keeps_onLane | with_reducible apply keeps_evt | with_reducible apply keeps_bumpSat
    | dsimp only

theorem keeps_execRxWake (l : Lane) (s : State) :
    ∃ s', execRxWake l s = .next s' ∧ Keeps s s' := by
  refine ⟨_, rfl, ?_⟩
  repeat'
    first
    | with_reducible assumption | with_reducible exact Keeps.refl _ | (intro _)
    | with_reducible apply keeps_when | with_reducible apply keeps_wr | with_reducible apply keeps_onLane
    | dsimp only

theorem keeps_laneWritten {u0 : State} (s0 s : State) (i o : Nat) (h0 : Keeps u0 s) :
    Keeps u0 (laneWritten s0 s i o) := by
  unfold laneWritten
  dsimp only
  repeat'
    first
    | with_reducible assumption | (intro _) | with_reducible apply keeps_ite
    | with_reducible apply keeps_linkFall | with_reducible apply keeps_wr | with_reducible apply keeps_wr64
    | with_reducible apply keeps_onLane | dsimp only

theorem keeps_execPrbsInject (p : Path) (l : Lane) (s : State) :
    ∃ s', execPrbsInject p l s = .next s' ∧ Keeps s s' := by
  refine ⟨_, rfl, ?_⟩
  repeat'
    first
    | with_reducible assumption | with_reducible exact Keeps.refl _ | (intro _)
    | with_reducible apply keeps_gated | with_reducible apply keeps_checked
    | with_reducible apply keeps_laneWritten | dsimp only

theorem keeps_execPrbsCheckerLock (l : Lane) (s : State) :
    ∃ s', execPrbsCheckerLock l s = .next s' ∧ Keeps s s' := by
  refine ⟨_, rfl, ?_⟩
  repeat'
    first
    | with_reducible assumption | with_reducible exact Keeps.refl _ | (intro _)
    | with_reducible apply keeps_when | with_reducible apply keeps_onLane | dsimp only

theorem keeps_tickPrbs {u0 : State} (s : State) (h0 : Keeps u0 s) :
    Keeps u0 (tickPrbs s) := by
  unfold tickPrbs
  dsimp only
  repeat'
    first
    | with_reducible assumption | (intro _) | with_reducible apply keeps_ite | with_reducible apply keeps_foldl
    | with_reducible apply keeps_wr64 | dsimp only

theorem keeps_execPrbsBitError (l : Lane) (s : State) :
    ∃ s', execPrbsBitError l s = .next s' ∧ Keeps s s' := by
  refine ⟨_, rfl, ?_⟩
  repeat'
    first
    | with_reducible assumption | with_reducible exact Keeps.refl _ | (intro _)
    | with_reducible apply keeps_when | with_reducible apply keeps_evt | with_reducible apply keeps_bumpSat
    | dsimp only

end Sys2Proof.Machine
end

