-- ==== Sys2Proof/Laws/KeepsSprt.lean ====
section
/-!
SUPPORT. What every operation of Machine/Sprt.lean keeps (Keeps): one lemma for each operation that answers a state.
-/
set_option linter.all false

namespace Sys2Proof.Machine

theorem keeps_onSprt {u0 : State} (s : State) (p : Nat) (f : SprtState → SprtState) (h0 : Keeps u0 s) :
    Keeps u0 (onSprt s p f) := by
  unfold onSprt
  repeat'
    first
    | with_reducible assumption | with_reducible apply Keeps.record

theorem keeps_remoteRecord {u0 : State} (s : State) (p j f : Nat) (v : Option Value) (brk : Bool) (h0 : Keeps u0 s) :
    Keeps u0 (remoteRecord s p j f v brk) := by
  unfold remoteRecord
  dsimp only
  repeat'
    first
    | with_reducible assumption | (intro _) | with_reducible apply keeps_ite
    | with_reducible apply keeps_onSprt | with_reducible apply keeps_feedChain | split | dsimp only

theorem keeps_frameRecords {u0 : State} (s : State) (p f : Nat) (u : Option Uplink) (h0 : Keeps u0 s) :
    Keeps u0 (frameRecords s p f u) := by
  unfold frameRecords
  dsimp only
  repeat'
    first
    | with_reducible assumption | (intro _) | with_reducible apply keeps_ite | with_reducible apply keeps_foldl
    | with_reducible apply keeps_remoteRecord | split | dsimp only

theorem keeps_recordsTo {u0 : State} (s : State) (p f : Nat) (u : Option Uplink) (h0 : Keeps u0 s) :
    Keeps u0 (recordsTo s p f u) := by
  unfold recordsTo
  dsimp only
  repeat'
    first
    | with_reducible assumption | (intro _) | with_reducible apply keeps_ite | with_reducible apply keeps_foldl
    | with_reducible apply keeps_frameRecords | with_reducible apply keeps_onSprt | split | dsimp only

theorem keeps_newCmd {u0 : State} (s : State) (p op : Nat) (args : List Word) (host : Bool) (chan : Nat) (h0 : Keeps
    u0 s) :
    Keeps u0 (newCmd s p op args host chan) := by
  unfold newCmd
  dsimp only
  repeat'
    first
    | with_reducible assumption | (intro _) | with_reducible apply keeps_onSprt | dsimp only

theorem keeps_enterConfig {u0 : State} (s : State) (p : Nat) (h0 : Keeps u0 s) :
    Keeps u0 (enterConfig s p) := by
  unfold enterConfig
  dsimp only
  repeat'
    first
    | with_reducible assumption | (intro _) | with_reducible apply keeps_onSprt
    | with_reducible apply keeps_drawn | with_reducible apply Keeps.recordDraw | dsimp only

theorem keeps_enterTrain {u0 : State} (s : State) (p : Nat) (h0 : Keeps u0 s) :
    Keeps u0 (enterTrain s p) := by
  unfold enterTrain
  repeat'
    first
    | with_reducible assumption | (intro _) | with_reducible apply keeps_onSprt | dsimp only

theorem keeps_linkLoss {u0 : State} (s : State) (p : Nat) (h0 : Keeps u0 s) :
    Keeps u0 (linkLoss s p) := by
  unfold linkLoss
  repeat'
    first
    | with_reducible assumption | (intro _) | with_reducible apply keeps_enterTrain
    | with_reducible apply keeps_onSprt | with_reducible apply keeps_evt | with_reducible apply keeps_bumpSat
    | dsimp only

theorem keeps_sprtScheduled {u0 : State} (s : State) (p : Nat) (g : Nat → Word) (n : Nat) (h0 : Keeps u0 s) :
    Keeps u0 (sprtScheduled s p g n) := by
  unfold sprtScheduled
  dsimp only
  repeat'
    first
    | with_reducible assumption | (intro _) | with_reducible apply keeps_ite
    | with_reducible apply keeps_onSprt | dsimp only

theorem keeps_enterRunSp {u0 : State} (s : State) (p : Nat) (h0 : Keeps u0 s) :
    Keeps u0 (enterRunSp s p) := by
  unfold enterRunSp
  dsimp only
  repeat'
    first
    | with_reducible assumption | (intro _) | with_reducible apply keeps_ite
    | with_reducible apply keeps_onSprt | with_reducible apply keeps_evt
    | with_reducible apply keeps_sprtScheduled | split | dsimp only

theorem keeps_nextSet {u0 : State} (s : State) (p : Nat) (h0 : Keeps u0 s) :
    Keeps u0 (nextSet s p) := by
  unfold nextSet
  dsimp only
  repeat'
    first
    | with_reducible assumption | (intro _) | with_reducible apply keeps_ite
    | with_reducible apply keeps_newCmd | with_reducible apply keeps_onSprt | split | dsimp only

theorem keeps_downlinkFrame {u0 : State} (s : State) (p : Nat) (h0 : Keeps u0 s) :
    Keeps u0 (downlinkFrame s p) := by
  unfold downlinkFrame
  dsimp only
  repeat'
    first
    | with_reducible assumption | (intro _) | with_reducible apply keeps_ite
    | with_reducible apply keeps_enterTrain | with_reducible apply keeps_enterRunSp
    | with_reducible apply keeps_nextSet | with_reducible apply keeps_onSprt | split | dsimp only

theorem keeps_execDownlinkFrame (p : Fin 8) (s : State) :
    ∃ s', execDownlinkFrame p s = .next s' ∧ Keeps s s' := by
  refine ⟨_, rfl, ?_⟩
  repeat'
    first
    | with_reducible assumption | with_reducible exact Keeps.refl _ | with_reducible apply keeps_downlinkFrame

theorem keeps_setFailed {u0 : State} (s : State) (p : Nat) (c : SprtCmd) (h0 : Keeps u0 s) :
    Keeps u0 (setFailed s p c) := by
  unfold setFailed
  repeat'
    first
    | with_reducible assumption | (intro _) | with_reducible apply keeps_evt
    | with_reducible apply keeps_onSprt | dsimp only

theorem keeps_identResponse {u0 : State} (s : State) (p : Nat) (data : List Byte) (h0 : Keeps u0 s) :
    Keeps u0 (identResponse s p data) := by
  unfold identResponse
  dsimp only
  repeat'
    first
    | with_reducible assumption | (intro _) | with_reducible apply keeps_ite
    | with_reducible apply keeps_onSprt | with_reducible apply keeps_evt
    | with_reducible apply keeps_enterConfig | dsimp only

theorem keeps_sprtResponse {u0 : State} (s : State) (p : Nat) (u : Uplink) (h0 : Keeps u0 s) :
    Keeps u0 (sprtResponse s p u) := by
  unfold sprtResponse
  dsimp only
  repeat'
    first
    | with_reducible assumption | (intro _) | with_reducible apply keeps_ite
    | with_reducible apply keeps_onSprt | with_reducible apply keeps_identResponse
    | with_reducible apply keeps_evt | with_reducible apply keeps_setFailed | split | dsimp only

theorem keeps_execCommandResend (p : Fin 8) (s : State) :
    ∃ s', execCommandResend p s = .next s' ∧ Keeps s s' := by
  refine ⟨_, rfl, ?_⟩
  repeat'
    first
    | with_reducible assumption | with_reducible exact Keeps.refl _ | (intro _)
    | with_reducible apply keeps_ite | with_reducible apply keeps_onSprt | with_reducible apply keeps_evt
    | with_reducible apply keeps_setFailed | split | dsimp only

theorem keeps_measureRtt {u0 : State} (s : State) (p rtt : Nat) (h0 : Keeps u0 s) :
    Keeps u0 (measureRtt s p rtt) := by
  unfold measureRtt
  dsimp only
  repeat'
    first
    | with_reducible assumption | (intro _) | with_reducible apply keeps_ite
    | with_reducible apply keeps_onSprt | with_reducible apply keeps_linkLoss
    | with_reducible apply keeps_newCmd | dsimp only

theorem keeps_uplinkFrame {u0 : State} (s : State) (p : Nat) (u : Uplink) (h0 : Keeps u0 s) :
    Keeps u0 (uplinkFrame s p u) := by
  unfold uplinkFrame
  dsimp only
  repeat'
    first
    | with_reducible assumption | (intro _) | with_reducible apply keeps_ite
    | with_reducible apply keeps_bumpSat | with_reducible apply keeps_recordsTo
    | with_reducible apply keeps_onSprt | with_reducible apply keeps_linkLoss
    | with_reducible apply keeps_evtIf | with_reducible apply keeps_measureRtt
    | with_reducible apply keeps_sprtResponse | dsimp only

theorem keeps_execUplinkFrame (p : Fin 8) (groups : List (BitVec 10)) (s : State) (rtt : Nat) :
    ∃ s', execUplinkFrame p groups s rtt = .next s' ∧ Keeps s s' := by
  refine ⟨_, rfl, ?_⟩
  repeat'
    first
    | with_reducible assumption | with_reducible exact Keeps.refl _ | (intro _)
    | with_reducible apply keeps_uplinkFrame | with_reducible apply keeps_onSprt | dsimp only

theorem keeps_sendCommand {u0 : State} (s : State) (w : Who) (p : Nat) (h0 : Keeps u0 s) :
    Keeps u0 (sendCommand s w p) := by
  unfold sendCommand
  dsimp only
  repeat'
    first
    | with_reducible assumption | (intro _) | with_reducible apply keeps_checked
    | with_reducible apply keeps_onSprt | with_reducible apply keeps_newCmd | dsimp only

theorem keeps_execSendCommand (p : Path) (port : Fin 8) (s : State) :
    ∃ s', execSendCommand p port s = .next s' ∧ Keeps s s' := by
  refine ⟨_, rfl, ?_⟩
  repeat'
    first
    | with_reducible assumption | with_reducible exact Keeps.refl _ | (intro _)
    | with_reducible apply keeps_gated | with_reducible apply keeps_sendCommand | dsimp only

theorem keeps_acceptIdentity {u0 : State} (s : State) (p : Nat) (h0 : Keeps u0 s) :
    Keeps u0 (acceptIdentity s p) := by
  unfold acceptIdentity
  repeat'
    first
    | with_reducible assumption | with_reducible apply keeps_ite | with_reducible apply keeps_enterConfig

theorem keeps_execAcceptIdentity (p : Path) (port : Fin 8) (s : State) :
    ∃ s', execAcceptIdentity p port s = .next s' ∧ Keeps s s' := by
  refine ⟨_, rfl, ?_⟩
  repeat'
    first
    | with_reducible assumption | with_reducible exact Keeps.refl _ | (intro _)
    | with_reducible apply keeps_gated | with_reducible apply keeps_acceptIdentity | dsimp only

theorem keeps_retrain {u0 : State} (s : State) (p : Nat) (h0 : Keeps u0 s) :
    Keeps u0 (retrain s p) := by
  unfold retrain
  repeat'
    first
    | with_reducible assumption | with_reducible apply keeps_ite | with_reducible apply keeps_enterTrain

theorem keeps_execRetrain (p : Path) (port : Fin 8) (s : State) :
    ∃ s', execRetrain p port s = .next s' ∧ Keeps s s' := by
  refine ⟨_, rfl, ?_⟩
  repeat'
    first
    | with_reducible assumption | with_reducible exact Keeps.refl _ | (intro _)
    | with_reducible apply keeps_gated | with_reducible apply keeps_retrain | dsimp only

theorem keeps_sprtCtrl {u0 : State} (s : State) (w : Who) (p : Nat) (v : Word) (h0 : Keeps u0 s) :
    Keeps u0 (sprtCtrl s w p v) := by
  unfold sprtCtrl
  repeat'
    first
    | with_reducible assumption | with_reducible apply keeps_sendCommand
    | with_reducible apply keeps_acceptIdentity | with_reducible apply keeps_retrain | split

theorem keeps_sprtEnable {u0 : State} (s : State) (p : Nat) (on : Bool) (h0 : Keeps u0 s) :
    Keeps u0 (sprtEnable s p on) := by
  unfold sprtEnable
  repeat'
    first
    | with_reducible assumption | (intro _) | with_reducible apply keeps_ite
    | with_reducible apply keeps_enterTrain | with_reducible apply keeps_onSprt | dsimp only

theorem keeps_sprtCommitted {u0 : State} (s0 s : State) (p : Nat) (h0 : Keeps u0 s) :
    Keeps u0 (sprtCommitted s0 s p) := by
  unfold sprtCommitted
  dsimp only
  repeat'
    first
    | with_reducible assumption | (intro _) | with_reducible apply keeps_ite | with_reducible apply keeps_foldl
    | with_reducible apply keeps_onChain | with_reducible apply keeps_onSprt | dsimp only

theorem keeps_tickPorts {u0 : State} (s : State) (h0 : Keeps u0 s) :
    Keeps u0 (tickPorts s) := by
  unfold tickPorts
  repeat'
    first
    | with_reducible assumption | (intro _) | with_reducible apply keeps_ite | with_reducible apply keeps_foldl
    | with_reducible apply keeps_recordsTo | dsimp only

end Sys2Proof.Machine
end

