-- ==== Sys2Proof/Laws/KeepsStreams.lean ====
section
/-!
SUPPORT. What every operation of Machine/Streams.lean keeps (Keeps): one lemma for each operation that answers a state.
-/
set_option linter.all false

namespace Sys2Proof.Machine

theorem keeps_onStrm {u0 : State} (s : State) (i : Nat) (f : StreamState → StreamState) (h0 : Keeps u0 s) :
    Keeps u0 (onStrm s i f) := by
  unfold onStrm
  repeat'
    first
    | with_reducible assumption | with_reducible apply Keeps.record

theorem keeps_setSt {u0 : State} (s : State) (i : Nat) (st : StrmSt) (h0 : Keeps u0 s) :
    Keeps u0 (setSt s i st) := by
  unfold setSt
  dsimp only
  repeat'
    first
    | with_reducible assumption | (intro _) | with_reducible apply keeps_ite | with_reducible apply keeps_wr
    | with_reducible apply keeps_onStrm | dsimp only

theorem keeps_pushQuire {u0 : State} (s : State) (i : Nat) (kind : QuireKind) (first : Nat) (slots : List Slot) (h0 :
    Keeps u0 s) :
    Keeps u0 (pushQuire s i kind first slots) := by
  unfold pushQuire
  dsimp only
  repeat'
    first
    | with_reducible assumption | (intro _) | with_reducible apply keeps_ite
    | with_reducible apply keeps_onStrm | dsimp only

theorem keeps_closeQuire {u0 : State} (s : State) (i : Nat) (h0 : Keeps u0 s) :
    Keeps u0 (closeQuire s i) := by
  unfold closeQuire
  dsimp only
  repeat'
    first
    | with_reducible assumption | (intro _) | with_reducible apply keeps_ite
    | with_reducible apply keeps_onStrm | with_reducible apply keeps_pushQuire | dsimp only

theorem keeps_finishStream {u0 : State} (s : State) (i cause : Nat) (discard : Bool) (h0 : Keeps u0 s) :
    Keeps u0 (finishStream s i cause discard) := by
  unfold finishStream
  dsimp only
  repeat'
    first
    | with_reducible assumption | (intro _) | with_reducible apply keeps_ite
    | with_reducible apply keeps_pushQuire | with_reducible apply keeps_onStrm | dsimp only

theorem keeps_admResult {u0 : State} (s : State) (i id result : Nat) (h0 : Keeps u0 s) :
    Keeps u0 (admResult s i id result) := by
  unfold admResult
  dsimp only
  repeat'
    first
    | with_reducible assumption | (intro _) | with_reducible apply keeps_ite | with_reducible apply keeps_wr
    | with_reducible apply keeps_onStrm | with_reducible apply keeps_evt | with_reducible apply keeps_setSt
    | with_reducible apply Keeps.record | dsimp only

theorem keeps_rootDecide {u0 : State} (s : State) (r : AdmRequest) (h0 : Keeps u0 s) :
    Keeps u0 (rootDecide s r) := by
  unfold rootDecide
  dsimp only
  repeat'
    first
    | with_reducible assumption | (intro _) | with_reducible apply keeps_ite
    | with_reducible apply keeps_admResult | with_reducible apply keeps_sendRing | split
    | with_reducible apply Keeps.record | dsimp only

theorem keeps_rootRequest {u0 : State} (s : State) (r : AdmRequest) (h0 : Keeps u0 s) :
    Keeps u0 (rootRequest s r) := by
  unfold rootRequest
  repeat'
    first
    | with_reducible assumption | with_reducible apply keeps_ite | with_reducible apply keeps_rootDecide
    | with_reducible apply Keeps.record

theorem keeps_rootRelease {u0 : State} (s : State) (r : AdmRequest) (h0 : Keeps u0 s) :
    Keeps u0 (rootRelease s r) := by
  unfold rootRelease
  repeat'
    first
    | with_reducible assumption | (intro _) | with_reducible apply Keeps.record | dsimp only

theorem keeps_sendAdm {u0 : State} (s : State) (r : AdmRequest) (h0 : Keeps u0 s) :
    Keeps u0 (sendAdm s r) := by
  unfold sendAdm
  repeat'
    first
    | with_reducible assumption | with_reducible apply keeps_ite | with_reducible apply keeps_rootRelease
    | with_reducible apply keeps_rootRequest | with_reducible apply keeps_sendRing

theorem keeps_releaseAdm {u0 : State} (s : State) (i : Nat) (h0 : Keeps u0 s) :
    Keeps u0 (releaseAdm s i) := by
  unfold releaseAdm
  dsimp only
  repeat'
    first
    | with_reducible assumption | with_reducible apply keeps_sendAdm | with_reducible apply Keeps.record
    | dsimp only

theorem keeps_openStream {u0 : State} (s : State) (w : Who) (i : Nat) (h0 : Keeps u0 s) :
    Keeps u0 (openStream s w i) := by
  unfold openStream
  dsimp only
  repeat'
    first
    | with_reducible assumption | (intro _) | with_reducible apply keeps_ite | with_reducible apply keeps_evt
    | with_reducible apply keeps_refuse | with_reducible apply keeps_onStrm | with_reducible apply keeps_setSt
    | with_reducible apply keeps_admResult | with_reducible apply keeps_sendAdm | split
    | with_reducible apply Keeps.record | dsimp only

theorem keeps_execOpenStream (p : Path) (i : Nat) (s : State) :
    ∃ s', execOpenStream p i s = .next s' ∧ Keeps s s' := by
  refine ⟨_, rfl, ?_⟩
  repeat'
    first
    | with_reducible assumption | with_reducible exact Keeps.refl _ | (intro _)
    | with_reducible apply keeps_gated | with_reducible apply keeps_openStream | dsimp only

theorem keeps_startStream {u0 : State} (s : State) (i : Nat) (h0 : Keeps u0 s) :
    Keeps u0 (startStream s i) := by
  unfold startStream
  repeat'
    first
    | with_reducible assumption | with_reducible apply keeps_setSt

theorem keeps_execStreamStart (i : Fin 64) (s : State) :
    ∃ s', execStreamStart i s = .next s' ∧ Keeps s s' := by
  refine ⟨_, rfl, ?_⟩
  repeat'
    first
    | with_reducible assumption | with_reducible exact Keeps.refl _ | (intro _)
    | with_reducible apply keeps_when | with_reducible apply keeps_startStream | dsimp only

theorem keeps_placeRec {u0 : State} (s : State) (i : Nat) (r : WaitRec) (h0 : Keeps u0 s) :
    Keeps u0 (placeRec s i r) := by
  unfold placeRec
  dsimp only
  repeat'
    first
    | with_reducible assumption | (intro _) | with_reducible apply keeps_ite
    | with_reducible apply keeps_closeQuire | with_reducible apply keeps_onStrm | dsimp only

theorem keeps_drainRecs {u0 : State} (s : State) (i : Nat) (all : Bool) (n : Nat) (h0 : Keeps u0 s) :
    Keeps u0 (drainRecs s i all n) := by
  induction n generalizing s with
  | zero => exact h0
  | succ n ih =>
    unfold drainRecs
    dsimp only
    split
    · exact h0
    · repeat'
        first
        | with_reducible assumption | with_reducible apply keeps_ite | with_reducible apply ih
        | with_reducible apply keeps_onStrm | with_reducible apply keeps_placeRec

theorem keeps_closingEnd {u0 : State} (s : State) (i : Nat) (h0 : Keeps u0 s) :
    Keeps u0 (closingEnd s i) := by
  unfold closingEnd
  dsimp only
  repeat'
    first
    | with_reducible assumption | with_reducible apply keeps_ite | with_reducible apply keeps_finishStream
    | dsimp only

theorem keeps_flushRecs {u0 : State} (s : State) (i : Nat) (h0 : Keeps u0 s) :
    Keeps u0 (flushRecs s i) := by
  unfold flushRecs
  repeat'
    first
    | with_reducible assumption | with_reducible apply keeps_closingEnd | with_reducible apply keeps_drainRecs

theorem keeps_feedStream {u0 : State} (s : State) (i ch idx : Nat) (vals : List Word) (next : Option Nat) (lost :
    Bool) (h0 : Keeps u0 s) :
    Keeps u0 (feedStream s i ch idx vals next lost) := by
  unfold feedStream
  dsimp only
  repeat'
    first
    | with_reducible assumption | (intro _) | with_reducible apply keeps_ite | with_reducible apply keeps_foldl
    | with_reducible apply keeps_startStream | with_reducible apply keeps_onStrm
    | with_reducible apply keeps_closingEnd | with_reducible apply keeps_drainRecs | dsimp only

theorem keeps_feedStreams {u0 : State} (s : State) (src ch idx : Nat) (vals : List Word) (next : Option Nat) (lost :
    Bool) (h0 : Keeps u0 s) :
    Keeps u0 (feedStreams s src ch idx vals next lost) := by
  unfold feedStreams
  repeat'
    first
    | with_reducible assumption | (intro _) | with_reducible apply keeps_ite | with_reducible apply keeps_foldl
    | with_reducible apply keeps_feedStream | dsimp only

theorem keeps_startBy {u0 : State} (s : State) (i b : Nat) (h0 : Keeps u0 s) :
    Keeps u0 (startBy s i b) := by
  unfold startBy
  repeat'
    first
    | with_reducible assumption | with_reducible apply keeps_ite | with_reducible apply keeps_startStream

theorem keeps_notSampled {u0 : State} (s : State) (i a b : Nat) (h0 : Keeps u0 s) :
    Keeps u0 (notSampled s i a b) := by
  unfold notSampled
  dsimp only
  repeat'
    first
    | with_reducible assumption | (intro _) | with_reducible apply keeps_ite
    | with_reducible apply keeps_drainRecs | with_reducible apply keeps_closeQuire
    | with_reducible apply keeps_pushQuire | with_reducible apply keeps_closingEnd
    | with_reducible apply keeps_onStrm | dsimp only

theorem keeps_notSampledAll {u0 : State} (s : State) (a b : Nat) (h0 : Keeps u0 s) :
    Keeps u0 (notSampledAll s a b) := by
  unfold notSampledAll
  dsimp only
  repeat'
    first
    | with_reducible assumption | (intro _) | with_reducible apply keeps_ite | with_reducible apply keeps_foldl
    | with_reducible apply keeps_startBy | with_reducible apply keeps_onStrm
    | with_reducible apply keeps_notSampled | dsimp only

theorem keeps_joinStream {u0 : State} (s : State) (p : StreamPos) (h0 : Keeps u0 s) :
    Keeps u0 (joinStream s p) := by
  unfold joinStream
  repeat'
    first
    | with_reducible assumption | (intro _) | with_reducible apply keeps_ite
    | with_reducible apply keeps_onStrm | split | dsimp only

theorem keeps_wordErrors {u0 : State} (count : State → Nat → Nat → State) (s : State) (errs : List QueueErr) (q :
    Quire) (hcount : ∀ x y z, Keeps u0 x → Keeps u0 (count x y z)) (h0 : Keeps u0 s) :
    Keeps u0 (wordErrors count s errs q).1 := by
  unfold wordErrors
  repeat'
    first
    | with_reducible assumption | (intro _) | with_reducible apply keeps_ite
    | with_reducible apply keeps_ite_fst | with_reducible apply keeps_foldl
    | with_reducible apply keeps_foldl_fst | with_reducible apply hcount | split | dsimp only

theorem keeps_quireErrors {u0 : State} (s : State) (i : Nat) (errs : List QueueErr) (q : Quire) (h0 : Keeps u0 s) :
    Keeps u0 (quireErrors s i errs q).1 := by
  unfold quireErrors
  repeat'
    first
    | with_reducible assumption | (intro _) | with_reducible apply keeps_wordErrors
    | with_reducible apply keeps_queueError | dsimp only

theorem keeps_vatError {u0 : State} (s : State) (corr unc : Nat) (h0 : Keeps u0 s) :
    Keeps u0 (vatError s corr unc) := by
  unfold vatError
  repeat'
    first
    | with_reducible assumption | with_reducible apply keeps_bumpSat

theorem keeps_feltErrors {u0 : State} (s : State) (i : Nat) (errs : List QueueErr) (f : FeltQuire) (h0 : Keeps u0 s) :
    Keeps u0 (feltErrors s i errs f).1 := by
  unfold feltErrors
  dsimp only
  repeat'
    first
    | with_reducible assumption | (intro _) | with_reducible apply keeps_ite
    | with_reducible apply keeps_ite_fst | with_reducible apply keeps_wordErrors
    | with_reducible apply keeps_vatError | with_reducible apply keeps_onStrm | dsimp only

theorem keeps_storeQuire {u0 : State} (s : State) (i : Nat) (errs : List QueueErr) (h0 : Keeps u0 s) :
    Keeps u0 (storeQuire s i errs) := by
  unfold storeQuire
  dsimp only
  repeat'
    first
    | with_reducible assumption | (intro _) | with_reducible apply keeps_quireErrors
    | with_reducible apply keeps_onStrm | split | dsimp only

theorem keeps_execQuireStored (i : Fin 64) (errs : List QueueErr) (s : State) :
    ∃ s', execQuireStored i errs s = .next s' ∧ Keeps s s' := by
  refine ⟨_, rfl, ?_⟩
  repeat'
    first
    | with_reducible assumption | with_reducible exact Keeps.refl _ | with_reducible apply keeps_storeQuire

theorem keeps_sendQuire {u0 : State} (s : State) (i : Nat) (f : FeltQuire) (h0 : Keeps u0 s) :
    Keeps u0 (sendQuire s i f) := by
  unfold sendQuire
  dsimp only
  repeat'
    first
    | with_reducible assumption | (intro _) | with_reducible apply keeps_ite
    | with_reducible apply keeps_sendRing | with_reducible apply keeps_onStrm
    | with_reducible apply keeps_bumpWrap | with_reducible apply keeps_evtIf
    | with_reducible apply keeps_notSampled | with_reducible apply Keeps.record | dsimp only

theorem keeps_execQuireTransmit (i : Fin 64) (s : State) (errs : List QueueErr) :
    ∃ s', execQuireTransmit i s errs = .next s' ∧ Keeps s s' := by
  refine ⟨_, rfl, ?_⟩
  repeat'
    first
    | with_reducible assumption | with_reducible exact Keeps.refl _ | (intro _)
    | with_reducible apply keeps_ite | with_reducible apply keeps_when | with_reducible apply keeps_storeQuire
    | with_reducible apply keeps_feltErrors | with_reducible apply keeps_sendQuire | split | dsimp only

theorem keeps_settleStream {u0 : State} (s : State) (i : Nat) (h0 : Keeps u0 s) :
    Keeps u0 (settleStream s i) := by
  unfold settleStream
  dsimp only
  repeat'
    first
    | with_reducible assumption | (intro _) | with_reducible apply keeps_ite
    | with_reducible apply keeps_onStrm | with_reducible apply keeps_setSt | dsimp only

theorem keeps_ackStream {u0 : State} (s : State) (i : Nat) (a : Seq32) (nack : Option Word) (h0 : Keeps u0 s) :
    Keeps u0 (ackStream s i a nack).1 := by
  unfold ackStream
  dsimp only
  repeat'
    first
    | with_reducible assumption | (intro _) | with_reducible apply keeps_ite
    | with_reducible apply keeps_ite_fst | with_reducible apply keeps_onStrm
    | with_reducible apply keeps_settleStream | with_reducible apply keeps_evt
    | with_reducible apply keeps_bumpSat | dsimp only

theorem keeps_hostAck {u0 : State} (s : State) (i : Nat) (a : Seq32) (nack : Option Word) (h0 : Keeps u0 s) :
    Keeps u0 (hostAck s i a nack) := by
  unfold hostAck
  dsimp only
  repeat'
    first
    | with_reducible assumption | with_reducible apply keeps_ite | with_reducible apply keeps_ackStream
    | with_reducible apply keeps_sendTwin | dsimp only

theorem keeps_acknowledgement {u0 : State} (s : State) (m : AckMsg) (h0 : Keeps u0 s) :
    Keeps u0 (acknowledgement s m) := by
  unfold acknowledgement
  repeat'
    first
    | with_reducible assumption | with_reducible apply keeps_ite | with_reducible apply keeps_hostAck

theorem keeps_execAcknowledgement (m : AckMsg) (s : State) :
    ∃ s', execAcknowledgement m s = .next s' ∧ Keeps s s' := by
  refine ⟨_, rfl, ?_⟩
  repeat'
    first
    | with_reducible assumption | with_reducible exact Keeps.refl _
    | with_reducible apply keeps_acknowledgement

theorem keeps_execSeqAcked (p : Path) (i : Fin 64) (a : Seq32) (s : State) :
    ∃ s', execSeqAcked p i a s = .next s' ∧ Keeps s s' := by
  refine ⟨_, rfl, ?_⟩
  repeat'
    first
    | with_reducible assumption | with_reducible exact Keeps.refl _ | (intro _)
    | with_reducible apply keeps_gated | with_reducible apply keeps_hostAck | dsimp only

theorem keeps_execRetxAfter (i : Fin 64) (s : State) :
    ∃ s', execRetxAfter i s = .next s' ∧ Keeps s s' := by
  refine ⟨_, rfl, ?_⟩
  repeat'
    first
    | with_reducible assumption | with_reducible exact Keeps.refl _ | (intro _)
    | with_reducible apply keeps_when | with_reducible apply keeps_onStrm | split | dsimp only

theorem keeps_recoverStreams {u0 : State} (s : State) (h0 : Keeps u0 s) :
    Keeps u0 (recoverStreams s) := by
  unfold recoverStreams
  repeat'
    first
    | with_reducible assumption | (intro _) | with_reducible apply keeps_ite
    | with_reducible apply Keeps.record | dsimp only

theorem keeps_endStream {u0 : State} (s : State) (i cause : Nat) (h0 : Keeps u0 s) :
    Keeps u0 (endStream s i cause) := by
  unfold endStream
  dsimp only
  repeat'
    first
    | with_reducible assumption | with_reducible apply keeps_ite | with_reducible apply keeps_finishStream
    | with_reducible apply keeps_evt | with_reducible apply keeps_setSt | with_reducible apply keeps_releaseAdm
    | dsimp only

theorem keeps_closeStream {u0 : State} (s : State) (w : Who) (i : Nat) (h0 : Keeps u0 s) :
    Keeps u0 (closeStream s w i) := by
  unfold closeStream
  dsimp only
  repeat'
    first
    | with_reducible assumption | (intro _) | with_reducible apply keeps_checked
    | with_reducible apply keeps_closingEnd | with_reducible apply keeps_setSt
    | with_reducible apply keeps_releaseAdm | with_reducible apply keeps_onStrm | split
    | with_reducible apply Keeps.record | dsimp only

theorem keeps_execCloseStream (p : Path) (i : Nat) (s : State) :
    ∃ s', execCloseStream p i s = .next s' ∧ Keeps s s' := by
  refine ⟨_, rfl, ?_⟩
  repeat'
    first
    | with_reducible assumption | with_reducible exact Keeps.refl _ | (intro _)
    | with_reducible apply keeps_gated | with_reducible apply keeps_closeStream | dsimp only

theorem keeps_clearStream {u0 : State} (s : State) (w : Who) (i : Nat) (h0 : Keeps u0 s) :
    Keeps u0 (clearStream s w i) := by
  unfold clearStream
  repeat'
    first
    | with_reducible assumption | (intro _) | with_reducible apply keeps_ite
    | with_reducible apply keeps_checked | with_reducible apply keeps_onStrm | with_reducible apply keeps_setSt
    | dsimp only

theorem keeps_execClearStream (p : Path) (i : Nat) (s : State) :
    ∃ s', execClearStream p i s = .next s' ∧ Keeps s s' := by
  refine ⟨_, rfl, ?_⟩
  repeat'
    first
    | with_reducible assumption | with_reducible exact Keeps.refl _ | (intro _)
    | with_reducible apply keeps_gated | with_reducible apply keeps_clearStream | dsimp only

theorem keeps_strmCtrl {u0 : State} (s : State) (w : Who) (v : Word) (h0 : Keeps u0 s) :
    Keeps u0 (strmCtrl s w v) := by
  unfold strmCtrl
  repeat'
    first
    | with_reducible assumption | with_reducible apply keeps_openStream
    | with_reducible apply keeps_closeStream | with_reducible apply keeps_clearStream
    | with_reducible apply keeps_refuse | split

theorem keeps_strmSelWrite {u0 : State} (s : State) (v : Word) (h0 : Keeps u0 s) :
    Keeps u0 (strmSelWrite s v) := by
  unfold strmSelWrite
  repeat'
    first
    | with_reducible assumption | with_reducible apply Keeps.record

end Sys2Proof.Machine
end

