-- ==== Sys2Proof/Laws/KeepsVat.lean ====
section
/-!
SUPPORT. What every operation of Machine/Vat.lean keeps (Keeps): one lemma for each operation that answers a state.
-/
set_option linter.all false

namespace Sys2Proof.Machine

theorem keeps_vatPutWord {u0 : State} (s : State) (a : Nat) (w : Word) (h0 : Keeps u0 s) :
    Keeps u0 (vatPutWord s a w) := by
  unfold vatPutWord
  repeat'
    first
    | with_reducible assumption | (intro _) | with_reducible apply keeps_foldl
    | with_reducible apply keeps_vatPut | dsimp only

theorem keeps_vatPutWords {u0 : State} (s : State) (a : Nat) (l : List Word) (h0 : Keeps u0 s) :
    Keeps u0 (vatPutWords s a l) := by
  unfold vatPutWords
  repeat'
    first
    | with_reducible assumption | (intro _) | with_reducible apply keeps_foldl
    | with_reducible apply keeps_foldl_fst | with_reducible apply keeps_vatPutWord | dsimp only

theorem keeps_vatPutBytes {u0 : State} (s : State) (a : Nat) (l : List Byte) (h0 : Keeps u0 s) :
    Keeps u0 (vatPutBytes s a l) := by
  unfold vatPutBytes
  repeat'
    first
    | with_reducible assumption | (intro _) | with_reducible apply keeps_foldl
    | with_reducible apply keeps_foldl_fst | with_reducible apply keeps_vatPut | dsimp only

end Sys2Proof.Machine
end

