-- ==== Sys2Proof/Laws/KeepsCapture.lean ====
section
/-!
SUPPORT. What every operation of Machine/Capture.lean keeps (Keeps): one lemma for each operation that answers a state.
-/
set_option linter.all false

namespace Sys2Proof.Machine

theorem keeps_onReam {u0 : State} (s : State) (r : Nat) (f : ReamState → ReamState) (h0 : Keeps u0 s) :
    Keeps u0 (onReam s r f) := by
  unfold onReam
  repeat'
    first
    | with_reducible assumption | with_reducible apply Keeps.record

theorem keeps_setReam {u0 : State} (s : State) (r : Nat) (st : ReamSt) (h0 : Keeps u0 s) :
    Keeps u0 (setReam s r st) := by
  unfold setReam
  repeat'
    first
    | with_reducible assumption | (intro _) | with_reducible apply keeps_ite | with_reducible apply keeps_evt
    | with_reducible apply keeps_onReam | dsimp only

theorem keeps_reamWait {u0 : State} (s : State) (r n : Nat) (h0 : Keeps u0 s) :
    Keeps u0 (reamWait s r n) := by
  unfold reamWait
  repeat'
    first
    | with_reducible assumption | (intro _) | with_reducible apply keeps_setReam
    | with_reducible apply keeps_onReam | dsimp only

theorem keeps_reamStart {u0 : State} (s : State) (r : Nat) (h0 : Keeps u0 s) :
    Keeps u0 (reamStart s r) := by
  unfold reamStart
  dsimp only
  repeat'
    first
    | with_reducible assumption | (intro _) | with_reducible apply keeps_ite
    | with_reducible apply keeps_onReam | with_reducible apply keeps_reamWait | dsimp only

theorem keeps_armReam {u0 : State} (s : State) (w : Who) (r : Nat) (armAt : Option Nat) (h0 : Keeps u0 s) :
    Keeps u0 (armReam s w r armAt) := by
  unfold armReam
  dsimp only
  repeat'
    first
    | with_reducible assumption | (intro _) | with_reducible apply keeps_ite
    | with_reducible apply keeps_checked | with_reducible apply keeps_onReam
    | with_reducible apply keeps_setReam | with_reducible apply keeps_reamStart | dsimp only

theorem keeps_execArm (p : Path) (r : Fin 16) (s : State) :
    ∃ s', execArm p r s = .next s' ∧ Keeps s s' := by
  refine ⟨_, rfl, ?_⟩
  repeat'
    first
    | with_reducible assumption | with_reducible exact Keeps.refl _ | (intro _)
    | with_reducible apply keeps_gated | with_reducible apply keeps_armReam | dsimp only

theorem keeps_execArmAt (p : Path) (r : Fin 16) (s : State) :
    ∃ s', execArmAt p r s = .next s' ∧ Keeps s s' := by
  refine ⟨_, rfl, ?_⟩
  repeat'
    first
    | with_reducible assumption | with_reducible exact Keeps.refl _ | (intro _)
    | with_reducible apply keeps_gated | with_reducible apply keeps_armReam | dsimp only

theorem keeps_execArmAtReached (r : Fin 16) (s : State) :
    ∃ s', execArmAtReached r s = .next s' ∧ Keeps s s' := by
  refine ⟨_, rfl, ?_⟩
  repeat'
    first
    | with_reducible assumption | with_reducible exact Keeps.refl _ | (intro _)
    | with_reducible apply keeps_when | with_reducible apply keeps_reamStart | dsimp only

theorem keeps_writeHeader {u0 : State} (s : State) (r : Nat) (g : Segment) (h0 : Keeps u0 s) :
    Keeps u0 (writeHeader s r g) := by
  unfold writeHeader
  dsimp only
  repeat'
    first
    | with_reducible assumption | (intro _) | with_reducible apply keeps_vatPutWords
    | with_reducible apply keeps_evt | with_reducible apply keeps_onReam | dsimp only

theorem keeps_storeSlots {u0 : State} (s : State) (r : Nat) (g : Segment) (h0 : Keeps u0 s) :
    Keeps u0 (storeSlots s r g) := by
  unfold storeSlots
  repeat'
    first
    | with_reducible assumption | with_reducible apply keeps_vatPutWords

theorem keeps_segSlotError {u0 : State} (a : State × Segment) (r k : Nat) (h0 : Keeps u0 a.1) :
    Keeps u0 (segSlotError a r k).1 := by
  unfold segSlotError
  dsimp only
  repeat'
    first
    | with_reducible assumption | with_reducible apply keeps_ite | with_reducible apply keeps_ite_fst
    | with_reducible apply keeps_storeSlots | with_reducible apply keeps_vatError | dsimp only

theorem keeps_segErrors {u0 : State} (s : State) (r : Nat) (errs : List QueueErr) (g : Segment) (h0 : Keeps u0 s) :
    Keeps u0 (segErrors s r errs g).1 := by
  unfold segErrors
  repeat'
    first
    | with_reducible assumption | (intro _) | with_reducible apply keeps_foldl
    | with_reducible apply keeps_foldl_fst | with_reducible apply keeps_vatError
    | with_reducible apply keeps_segSlotError | split | dsimp only

theorem keeps_execSegmentDone (r : Fin 16) (s : State) (errs : List QueueErr) :
    ∃ s', execSegmentDone r s errs = .next s' ∧ Keeps s s' := by
  refine ⟨_, rfl, ?_⟩
  repeat'
    first
    | with_reducible assumption | with_reducible exact Keeps.refl _ | (intro _)
    | with_reducible apply keeps_segErrors | with_reducible apply keeps_onReam
    | with_reducible apply keeps_writeHeader | split | dsimp only

theorem keeps_closeSegment {u0 : State} (s : State) (r : Nat) (incomplete : Bool) (h0 : Keeps u0 s) :
    Keeps u0 (closeSegment s r incomplete) := by
  unfold closeSegment
  dsimp only
  repeat'
    first
    | with_reducible assumption | (intro _) | with_reducible apply keeps_ite
    | with_reducible apply keeps_flushRecs | with_reducible apply keeps_onReam | split | dsimp only

theorem keeps_stopReam {u0 : State} (s : State) (r cause : Nat) (h0 : Keeps u0 s) :
    Keeps u0 (stopReam s r cause) := by
  unfold stopReam
  dsimp only
  repeat'
    first
    | with_reducible assumption | (intro _) | with_reducible apply keeps_closeSegment
    | with_reducible apply keeps_evt | with_reducible apply keeps_setReam | with_reducible apply keeps_onReam
    | dsimp only

theorem keeps_spillEnded {u0 : State} (s : State) (i : Nat) (h0 : Keeps u0 s) :
    Keeps u0 (spillEnded s i) := by
  unfold spillEnded
  repeat'
    first
    | with_reducible assumption | (intro _) | with_reducible apply keeps_ite | with_reducible apply keeps_foldl
    | with_reducible apply keeps_stopReam | dsimp only

theorem keeps_endSpills {u0 : State} (s : State) (i cause : Nat) (h0 : Keeps u0 s) :
    Keeps u0 (endSpills s i cause) := by
  unfold endSpills
  repeat'
    first
    | with_reducible assumption | with_reducible apply keeps_spillEnded | with_reducible apply keeps_endStream

theorem keeps_execTHoldExpiry (i : Fin 64) (s : State) :
    ∃ s', execTHoldExpiry i s = .next s' ∧ Keeps s s' := by
  refine ⟨_, rfl, ?_⟩
  repeat'
    first
    | with_reducible assumption | with_reducible exact Keeps.refl _ | (intro _)
    | with_reducible apply keeps_when | with_reducible apply keeps_endSpills | dsimp only

theorem keeps_segmentEnd {u0 : State} (s : State) (r : Nat) (h0 : Keeps u0 s) :
    Keeps u0 (segmentEnd s r) := by
  unfold segmentEnd
  dsimp only
  repeat'
    first
    | with_reducible assumption | (intro _) | with_reducible apply keeps_ite
    | with_reducible apply keeps_closeSegment | with_reducible apply keeps_stopReam
    | with_reducible apply keeps_setReam | with_reducible apply keeps_reamWait
    | with_reducible apply keeps_onReam | dsimp only

theorem keeps_execHoldoffEnd (r : Fin 16) (s : State) :
    ∃ s', execHoldoffEnd r s = .next s' ∧ Keeps s s' := by
  refine ⟨_, rfl, ?_⟩
  repeat'
    first
    | with_reducible assumption | with_reducible exact Keeps.refl _ | (intro _)
    | with_reducible apply keeps_when | with_reducible apply keeps_reamWait | dsimp only

theorem keeps_postRecord {u0 : State} (s : State) (r : Nat) (x : ReamRec) (h0 : Keeps u0 s) :
    Keeps u0 (postRecord s r x) := by
  unfold postRecord
  dsimp only
  repeat'
    first
    | with_reducible assumption | (intro _) | with_reducible apply keeps_ite
    | with_reducible apply keeps_stopReam | with_reducible apply keeps_onReam
    | with_reducible apply keeps_storeSlots | with_reducible apply keeps_evtIf
    | with_reducible apply keeps_feedStream | with_reducible apply keeps_segmentEnd | split | dsimp only

theorem keeps_takeTrigger {u0 : State} (s : State) (r : Nat) (c : Cand) (h0 : Keeps u0 s) :
    Keeps u0 (takeTrigger s r c) := by
  unfold takeTrigger
  dsimp only
  repeat'
    first
    | with_reducible assumption | (intro _) | with_reducible apply keeps_ite | with_reducible apply keeps_foldl
    | with_reducible apply keeps_onReam | with_reducible apply keeps_storeSlots
    | with_reducible apply keeps_strobeSegment | with_reducible apply keeps_evtIf
    | with_reducible apply keeps_evt | with_reducible apply keeps_setReam
    | with_reducible apply keeps_segmentEnd | with_reducible apply keeps_postRecord | dsimp only

theorem keeps_ignoredTrigger {u0 : State} (s : State) (h0 : Keeps u0 s) :
    Keeps u0 (ignoredTrigger s) := by
  unfold ignoredTrigger
  repeat'
    first
    | with_reducible assumption | with_reducible apply keeps_bumpSat

theorem keeps_ringDecided {u0 : State} (s : State) (r segment n : Nat) (h0 : Keeps u0 s) :
    Keeps u0 (ringDecided s r segment n) := by
  unfold ringDecided
  dsimp only
  repeat'
    first
    | with_reducible assumption | (intro _) | with_reducible apply keeps_ite
    | with_reducible apply keeps_onReam | with_reducible apply keeps_vatPutWord
    | with_reducible apply keeps_evt | with_reducible apply keeps_bumpSat | dsimp only

theorem keeps_afterDecision {u0 : State} (s : State) (r : Nat) (c : Cand) (h0 : Keeps u0 s) :
    Keeps u0 (afterDecision s r c) := by
  unfold afterDecision
  repeat'
    first
    | with_reducible assumption | with_reducible apply keeps_ite | with_reducible apply keeps_ringDecided
    | with_reducible apply keeps_ignoredTrigger

theorem keeps_nominate {u0 : State} (s : State) (r : Nat) (k : Cand) (h0 : Keeps u0 s) :
    Keeps u0 (nominate s r k) := by
  unfold nominate
  repeat'
    first
    | with_reducible assumption | (intro _) | with_reducible apply keeps_ite
    | with_reducible apply keeps_takeTrigger | with_reducible apply keeps_onReam | dsimp only

theorem keeps_candidate {u0 : State} (s : State) (r : Nat) (c : Cand) (h0 : Keeps u0 s) :
    Keeps u0 (candidate s r c) := by
  unfold candidate
  repeat'
    first
    | with_reducible assumption | with_reducible apply keeps_ite | with_reducible apply keeps_takeTrigger
    | with_reducible apply keeps_afterDecision | with_reducible apply keeps_nominate | split

theorem keeps_sendTrigger {u0 : State} (s : State) (r : Nat) (c : Cand) (h0 : Keeps u0 s) :
    Keeps u0 (sendTrigger s r c) := by
  unfold sendTrigger
  repeat'
    first
    | with_reducible assumption | with_reducible apply keeps_ite | with_reducible apply keeps_sendRing

theorem keeps_fire {u0 : State} (s : State) (r : Nat) (c : Cand) (h0 : Keeps u0 s) :
    Keeps u0 (fire s r c) := by
  unfold fire
  dsimp only
  repeat'
    first
    | with_reducible assumption | (intro _) | with_reducible apply keeps_ite
    | with_reducible apply keeps_reamWait | with_reducible apply keeps_ignoredTrigger
    | with_reducible apply keeps_candidate | with_reducible apply keeps_sendTrigger
    | with_reducible apply keeps_onReam | split | dsimp only

theorem keeps_reamRecord {u0 : State} (s : State) (r : Nat) (x : ReamRec) (h0 : Keeps u0 s) :
    Keeps u0 (reamRecord s r x) := by
  unfold reamRecord
  dsimp only
  repeat'
    first
    | with_reducible assumption | (intro _) | with_reducible apply keeps_ite
    | with_reducible apply keeps_reamStart | with_reducible apply keeps_onReam
    | with_reducible apply keeps_fire | with_reducible apply keeps_postRecord
    | with_reducible apply keeps_reamWait | dsimp only

theorem keeps_reamsRecord {u0 : State} (s : State) (ch idx : Nat) (w : Word) (h0 : Keeps u0 s) :
    Keeps u0 (reamsRecord s ch idx w) := by
  unfold reamsRecord
  repeat'
    first
    | with_reducible assumption | (intro _) | with_reducible apply keeps_foldl
    | with_reducible apply keeps_reamRecord | dsimp only

theorem keeps_reamsPin {u0 : State} (s : State) (pin : Nat) (falling : Bool) (stamp : Nat) (h0 : Keeps u0 s) :
    Keeps u0 (reamsPin s pin falling stamp) := by
  unfold reamsPin
  dsimp only
  repeat'
    first
    | with_reducible assumption | (intro _) | with_reducible apply keeps_ite | with_reducible apply keeps_foldl
    | with_reducible apply keeps_fire | dsimp only

theorem keeps_hostTrigger {u0 : State} (s : State) (r : Nat) (h0 : Keeps u0 s) :
    Keeps u0 (hostTrigger s r) := by
  unfold hostTrigger
  repeat'
    first
    | with_reducible assumption | with_reducible apply keeps_ite | with_reducible apply keeps_fire
    | with_reducible apply Keeps.record

theorem keeps_execHostTrigger (p : Path) (r : Fin 16) (s : State) :
    ∃ s', execHostTrigger p r s = .next s' ∧ Keeps s s' := by
  refine ⟨_, rfl, ?_⟩
  repeat'
    first
    | with_reducible assumption | with_reducible exact Keeps.refl _ | (intro _)
    | with_reducible apply keeps_gated | with_reducible apply keeps_hostTrigger | dsimp only

theorem keeps_execAutoTrigger (r : Fin 16) (s : State) :
    ∃ s', execAutoTrigger r s = .next s' ∧ Keeps s s' := by
  refine ⟨_, rfl, ?_⟩
  repeat'
    first
    | with_reducible assumption | with_reducible exact Keeps.refl _ | (intro _)
    | with_reducible apply keeps_when | with_reducible apply keeps_candidate
    | with_reducible apply Keeps.record | dsimp only

theorem keeps_execTriggerDecision (r : Fin 16) (s : State) :
    ∃ s', execTriggerDecision r s = .next s' ∧ Keeps s s' := by
  refine ⟨_, rfl, ?_⟩
  repeat'
    first
    | with_reducible assumption | with_reducible exact Keeps.refl _ | (intro _)
    | with_reducible apply keeps_when | with_reducible apply keeps_takeTrigger | split | dsimp only

theorem keeps_ringTriggerFor {u0 : State} (s : State) (r : Nat) (t : RingTrigger) (h0 : Keeps u0 s) :
    Keeps u0 (ringTriggerFor s r t) := by
  unfold ringTriggerFor
  dsimp only
  repeat'
    first
    | with_reducible assumption | with_reducible apply keeps_ite | with_reducible apply keeps_candidate
    | with_reducible apply keeps_ringDecided | dsimp only

theorem keeps_ringTriggered {u0 : State} (s : State) (t : RingTrigger) (h0 : Keeps u0 s) :
    Keeps u0 (ringTriggered s t) := by
  unfold ringTriggered
  repeat'
    first
    | with_reducible assumption | (intro _) | with_reducible apply keeps_ite | with_reducible apply keeps_foldl
    | with_reducible apply keeps_ringTriggerFor | dsimp only

theorem keeps_execRingTrigger (t : RingTrigger) (s : State) :
    ∃ s', execRingTrigger t s = .next s' ∧ Keeps s s' := by
  refine ⟨_, rfl, ?_⟩
  repeat'
    first
    | with_reducible assumption | with_reducible exact Keeps.refl _ | with_reducible apply keeps_ringTriggered

theorem keeps_disarmReam {u0 : State} (s : State) (r : Nat) (h0 : Keeps u0 s) :
    Keeps u0 (disarmReam s r) := by
  unfold disarmReam
  repeat'
    first
    | with_reducible assumption | with_reducible apply keeps_ite | with_reducible apply keeps_stopReam

theorem keeps_execDisarm (p : Path) (r : Fin 16) (s : State) :
    ∃ s', execDisarm p r s = .next s' ∧ Keeps s s' := by
  refine ⟨_, rfl, ?_⟩
  repeat'
    first
    | with_reducible assumption | with_reducible exact Keeps.refl _ | (intro _)
    | with_reducible apply keeps_gated | with_reducible apply keeps_disarmReam | dsimp only

theorem keeps_clearReam {u0 : State} (s : State) (w : Who) (r : Nat) (h0 : Keeps u0 s) :
    Keeps u0 (clearReam s w r) := by
  unfold clearReam
  repeat'
    first
    | with_reducible assumption | (intro _) | with_reducible apply keeps_checked
    | with_reducible apply keeps_setReam | with_reducible apply keeps_onReam | dsimp only

theorem keeps_execReamClear (p : Path) (r : Fin 16) (s : State) :
    ∃ s', execReamClear p r s = .next s' ∧ Keeps s s' := by
  refine ⟨_, rfl, ?_⟩
  repeat'
    first
    | with_reducible assumption | with_reducible exact Keeps.refl _ | (intro _)
    | with_reducible apply keeps_gated | with_reducible apply keeps_clearReam | dsimp only

theorem keeps_captCtrl {u0 : State} (s : State) (w : Who) (v : Word) (h0 : Keeps u0 s) :
    Keeps u0 (captCtrl s w v) := by
  unfold captCtrl
  dsimp only
  repeat'
    first
    | with_reducible assumption | with_reducible apply keeps_armReam | with_reducible apply keeps_disarmReam
    | with_reducible apply keeps_clearReam | with_reducible apply keeps_hostTrigger
    | with_reducible apply keeps_refuse | split | dsimp only

theorem keeps_noteGap {u0 : State} (s : State) (a b : Nat) (h0 : Keeps u0 s) :
    Keeps u0 (noteGap s a b) := by
  unfold noteGap
  repeat'
    first
    | with_reducible assumption | with_reducible apply Keeps.record

theorem keeps_captDusk {u0 : State} (s : State) (h0 : Keeps u0 s) :
    Keeps u0 (captDusk s) := by
  unfold captDusk
  repeat'
    first
    | with_reducible assumption | (intro _) | with_reducible apply keeps_ite | with_reducible apply keeps_foldl
    | with_reducible apply keeps_stopReam | dsimp only

theorem keeps_captWarm {u0 : State} (s : State) (h0 : Keeps u0 s) :
    Keeps u0 (captWarm s) := by
  unfold captWarm
  dsimp only
  repeat'
    first
    | with_reducible assumption | (intro _) | with_reducible apply keeps_ite | with_reducible apply keeps_foldl
    | with_reducible apply keeps_stopReam | with_reducible apply keeps_writeHeader
    | with_reducible apply keeps_onReam | dsimp only

theorem keeps_captSelWrite {u0 : State} (s : State) (v : Word) (h0 : Keeps u0 s) :
    Keeps u0 (captSelWrite s v) := by
  unfold captSelWrite
  repeat'
    first
    | with_reducible assumption | with_reducible apply Keeps.record

end Sys2Proof.Machine
end

