-- ==== Sys2Proof/Laws/KeepsTime.lean ====
section
/-!
SUPPORT. What every operation of Machine/Time.lean keeps (Keeps): one lemma for each operation that answers a state.
-/
set_option linter.all false

namespace Sys2Proof.Machine

theorem keeps_onTime {u0 : State} (s : State) (f : TimeState → TimeState) (h0 : Keeps u0 s) :
    Keeps u0 (onTime s f) := by
  unfold onTime
  repeat'
    first
    | with_reducible assumption | with_reducible apply Keeps.record

theorem keeps_onDom {u0 : State} (s : State) (d : Nat) (f : DomainState → DomainState) (h0 : Keeps u0 s) :
    Keeps u0 (onDom s d f) := by
  unfold onDom
  repeat'
    first
    | with_reducible assumption | (intro _) | with_reducible apply keeps_onTime | dsimp only

theorem keeps_onPort {u0 : State} (s : State) (l : Lane) (f : PortDelay → PortDelay) (h0 : Keeps u0 s) :
    Keeps u0 (onPort s l f) := by
  unfold onPort
  repeat'
    first
    | with_reducible assumption | (intro _) | with_reducible apply keeps_onTime | dsimp only

theorem keeps_setServo {u0 : State} (s : State) (d : Nat) (v : Servo) (h0 : Keeps u0 s) :
    Keeps u0 (setServo s d v) := by
  unfold setServo
  dsimp only
  repeat'
    first
    | with_reducible assumption | (intro _) | with_reducible apply keeps_ite | with_reducible apply keeps_onDom
    | with_reducible apply keeps_evtIf | with_reducible apply keeps_evt | dsimp only

theorem keeps_stepHub {u0 : State} (s : State) (step : Int) (h0 : Keeps u0 s) :
    Keeps u0 (stepHub s step) := by
  unfold stepHub
  dsimp only
  repeat'
    first
    | with_reducible assumption | (intro _) | with_reducible apply keeps_ite
    | with_reducible apply keeps_onTime | with_reducible apply keeps_bumpSat | with_reducible apply keeps_evt
    | with_reducible apply keeps_wr | with_reducible apply keeps_noteGap
    | with_reducible apply keeps_notSampledAll | with_reducible apply keeps_restartChains | dsimp only

theorem keeps_servoUpdate {u0 : State} (s : State) (d : Nat) (o : Int) (h0 : Keeps u0 s) :
    Keeps u0 (servoUpdate s d o) := by
  unfold servoUpdate
  dsimp only
  repeat'
    first
    | with_reducible assumption | (intro _) | with_reducible apply keeps_ite
    | with_reducible apply keeps_onTime | dsimp only

theorem keeps_slewF {u0 : State} (s : State) (o : Int) (h0 : Keeps u0 s) :
    Keeps u0 (slewF s o) := by
  unfold slewF
  dsimp only
  repeat'
    first
    | with_reducible assumption | (intro _) | with_reducible apply keeps_ite
    | with_reducible apply keeps_onTime | dsimp only

theorem keeps_countFar {u0 : State} (s : State) (d : Nat) (o : Int) (h0 : Keeps u0 s) :
    Keeps u0 (countFar s d o) := by
  unfold countFar
  repeat'
    first
    | with_reducible assumption | (intro _) | with_reducible apply keeps_ite | with_reducible apply keeps_onDom
    | dsimp only

theorem keeps_countNear {u0 : State} (s : State) (d : Nat) (o : Int) (h0 : Keeps u0 s) :
    Keeps u0 (countNear s d o) := by
  unfold countNear
  dsimp only
  repeat'
    first
    | with_reducible assumption | (intro _) | with_reducible apply keeps_ite | with_reducible apply keeps_onDom
    | with_reducible apply keeps_setServo | dsimp only

theorem keeps_acquireAgain {u0 : State} (s : State) (d : Nat) (h0 : Keeps u0 s) :
    Keeps u0 (acquireAgain s d) := by
  unfold acquireAgain
  repeat'
    first
    | with_reducible assumption | with_reducible apply keeps_ite | with_reducible apply keeps_setServo

theorem keeps_servoStep {u0 : State} (s : State) (d : Nat) (o : Int) (h0 : Keeps u0 s) :
    Keeps u0 (servoStep s d o) := by
  unfold servoStep
  dsimp only
  repeat'
    first
    | with_reducible assumption | (intro _) | with_reducible apply keeps_acquireAgain
    | with_reducible apply keeps_stepHub | with_reducible apply keeps_onTime | with_reducible apply keeps_onDom
    | with_reducible apply keeps_servoUpdate | dsimp only

theorem keeps_syncEnters {u0 : State} (s : State) (d : Nat) (o : Int) (h0 : Keeps u0 s) :
    Keeps u0 (syncEnters s d o) := by
  unfold syncEnters
  repeat'
    first
    | with_reducible assumption | with_reducible apply keeps_ite | with_reducible apply keeps_setServo | split

theorem keeps_trackedSync {u0 : State} (s : State) (d : Nat) (o : Int) (h0 : Keeps u0 s) :
    Keeps u0 (trackedSync s d o) := by
  unfold trackedSync
  dsimp only
  repeat'
    first
    | with_reducible assumption | (intro _) | with_reducible apply keeps_ite
    | with_reducible apply keeps_syncEnters | with_reducible apply keeps_onDom
    | with_reducible apply keeps_servoUpdate | with_reducible apply keeps_countFar
    | with_reducible apply keeps_servoStep | with_reducible apply keeps_acquireAgain
    | with_reducible apply keeps_slewF | with_reducible apply keeps_onTime
    | with_reducible apply keeps_countNear | with_reducible apply keeps_evt
    | with_reducible apply keeps_bumpSat | dsimp only

theorem keeps_shadowSync {u0 : State} (s : State) (d : Nat) (o : Int) (h0 : Keeps u0 s) :
    Keeps u0 (shadowSync s d o) := by
  unfold shadowSync
  repeat'
    first
    | with_reducible assumption | with_reducible apply keeps_countNear | with_reducible apply keeps_syncEnters

theorem keeps_showUtc {u0 : State} (s : State) (h0 : Keeps u0 s) :
    Keeps u0 (showUtc s) := by
  unfold showUtc
  repeat'
    first
    | with_reducible assumption | with_reducible apply keeps_wr | split

theorem keeps_switchDomain {u0 : State} (s : State) (d : Nat) (o : Int) (h0 : Keeps u0 s) :
    Keeps u0 (switchDomain s d o) := by
  unfold switchDomain
  dsimp only
  repeat'
    first
    | with_reducible assumption | (intro _) | with_reducible apply keeps_onTime
    | with_reducible apply keeps_onDom | with_reducible apply keeps_servoUpdate
    | with_reducible apply keeps_evt | with_reducible apply keeps_showUtc | dsimp only

theorem keeps_acceptSync {u0 : State} (s : State) (d : Nat) (seq : Seq16) (o : Int) (h0 : Keeps u0 s) :
    Keeps u0 (acceptSync s d seq o) := by
  unfold acceptSync
  dsimp only
  repeat'
    first
    | with_reducible assumption | (intro _) | with_reducible apply keeps_ite | with_reducible apply keeps_onDom
    | with_reducible apply keeps_bumpWrap | with_reducible apply keeps_wr
    | with_reducible apply keeps_trackedSync | with_reducible apply keeps_switchDomain
    | with_reducible apply keeps_shadowSync | dsimp only

theorem keeps_discardPtp {u0 : State} (s : State) (d : Nat) (h0 : Keeps u0 s) :
    Keeps u0 (discardPtp s d) := by
  unfold discardPtp
  repeat'
    first
    | with_reducible assumption | with_reducible apply keeps_bumpSat

theorem keeps_takeSync {u0 : State} (s : State) (d : Nat) (m : SyncMsg) (h0 : Keeps u0 s) :
    Keeps u0 (takeSync s d m) := by
  unfold takeSync
  dsimp only
  repeat'
    first
    | with_reducible assumption | (intro _) | with_reducible apply keeps_ite | with_reducible apply keeps_onDom
    | with_reducible apply keeps_acceptSync | with_reducible apply keeps_bumpSat | dsimp only

theorem keeps_syncMessage {u0 : State} (s : State) (m : SyncMsg) (h0 : Keeps u0 s) :
    Keeps u0 (syncMessage s m) := by
  unfold syncMessage
  repeat'
    first
    | with_reducible assumption | (intro _) | with_reducible apply keeps_ite
    | with_reducible apply keeps_discardPtp | with_reducible apply keeps_onDom
    | with_reducible apply keeps_takeSync | split | dsimp only

theorem keeps_followUp {u0 : State} (s : State) (domain : Nat) (seq : Seq16) (origin corr : Int) (h0 : Keeps u0 s) :
    Keeps u0 (followUp s domain seq origin corr) := by
  unfold followUp
  repeat'
    first
    | with_reducible assumption | (intro _) | with_reducible apply keeps_ite
    | with_reducible apply keeps_discardPtp | with_reducible apply keeps_takeSync
    | with_reducible apply keeps_onDom | split | dsimp only

theorem keeps_execFollowUp (domain : Nat) (seq : Seq16) (origin corr : Int) (s : State) :
    ∃ s', execFollowUp domain seq origin corr s = .next s' ∧ Keeps s s' := by
  refine ⟨_, rfl, ?_⟩
  repeat'
    first
    | with_reducible assumption | with_reducible exact Keeps.refl _ | with_reducible apply keeps_followUp

theorem keeps_ptpPair {u0 : State} (s : State) (b0 b1 : FrameBody) (h0 : Keeps u0 s) :
    Keeps u0 (ptpPair s b0 b1) := by
  unfold ptpPair
  repeat'
    first
    | with_reducible assumption | with_reducible apply keeps_ite | with_reducible apply keeps_insertBoth
    | with_reducible apply keeps_sendBeacon

theorem keeps_ptpRing {u0 : State} (s : State) (b : FrameBody) (h0 : Keeps u0 s) :
    Keeps u0 (ptpRing s b) := by
  unfold ptpRing
  repeat'
    first
    | with_reducible assumption | with_reducible apply keeps_ptpPair

theorem keeps_delayReq {u0 : State} (s : State) (domain : Nat) (dir : ReqDir) (h0 : Keeps u0 s) :
    Keeps u0 (delayReq s domain dir) := by
  unfold delayReq
  dsimp only
  repeat'
    first
    | with_reducible assumption | (intro _) | with_reducible apply keeps_ite
    | with_reducible apply keeps_discardPtp | with_reducible apply keeps_onDom
    | with_reducible apply keeps_emitOwn | with_reducible apply keeps_delayResp | split | dsimp only

theorem keeps_execDelayReq (domain : Nat) (d : ReqDir) (s : State) :
    ∃ s', execDelayReq domain d s = .next s' ∧ Keeps s s' := by
  refine ⟨_, rfl, ?_⟩
  repeat'
    first
    | with_reducible assumption | with_reducible exact Keeps.refl _ | with_reducible apply keeps_delayReq

theorem keeps_setDelay {u0 : State} (s : State) (l : Lane) (m : Int) (h0 : Keeps u0 s) :
    Keeps u0 (setDelay s l m) := by
  unfold setDelay
  repeat'
    first
    | with_reducible assumption | (intro _) | with_reducible apply keeps_wr | with_reducible apply keeps_onPort
    | dsimp only

theorem keeps_delayResp {u0 : State} (s : State) (domain : Nat) (seq : Seq16) (rx corr : Int) (h0 : Keeps u0 s) :
    Keeps u0 (delayResp s domain seq rx corr) := by
  unfold delayResp
  dsimp only
  repeat'
    first
    | with_reducible assumption | (intro _) | with_reducible apply keeps_ite
    | with_reducible apply keeps_discardPtp | with_reducible apply keeps_setDelay
    | with_reducible apply keeps_onDom | split | dsimp only

theorem keeps_execDelayResp (domain : Nat) (seq : Seq16) (rx : Int) (s : State) (corr : Int) :
    ∃ s', execDelayResp domain seq rx s corr = .next s' ∧ Keeps s s' := by
  refine ⟨_, rfl, ?_⟩
  repeat'
    first
    | with_reducible assumption | with_reducible exact Keeps.refl _ | with_reducible apply keeps_delayResp

theorem keeps_pdelayReq {u0 : State} (s : State) (l : Lane) (dir : ReqDir) (h0 : Keeps u0 s) :
    Keeps u0 (pdelayReq s l dir) := by
  unfold pdelayReq
  dsimp only
  repeat'
    first
    | with_reducible assumption | (intro _) | with_reducible apply keeps_ite
    | with_reducible apply keeps_emitOwn | with_reducible apply keeps_onPort
    | with_reducible apply keeps_pdelayResp | split | dsimp only

theorem keeps_execPdelayReq (port : Lane) (d : ReqDir) (s : State) :
    ∃ s', execPdelayReq port d s = .next s' ∧ Keeps s s' := by
  refine ⟨_, rfl, ?_⟩
  repeat'
    first
    | with_reducible assumption | with_reducible exact Keeps.refl _ | with_reducible apply keeps_pdelayReq

theorem keeps_pdelayMeasured {u0 : State} (s : State) (l : Lane) (round : Int) (h0 : Keeps u0 s) :
    Keeps u0 (pdelayMeasured s l round) := by
  unfold pdelayMeasured
  dsimp only
  repeat'
    first
    | with_reducible assumption | (intro _) | with_reducible apply keeps_foldl
    | with_reducible apply keeps_onPort | with_reducible apply keeps_setDelay | dsimp only

theorem keeps_pdelayResp {u0 : State} (s : State) (l : Lane) (seq : Seq16) (corr rx : Int) (twoStep : Bool) (h0 :
    Keeps u0 s) :
    Keeps u0 (pdelayResp s l seq corr rx twoStep) := by
  unfold pdelayResp
  dsimp only
  repeat'
    first
    | with_reducible assumption | (intro _) | with_reducible apply keeps_ite
    | with_reducible apply keeps_onPort | with_reducible apply keeps_pdelayMeasured | split | dsimp only

theorem keeps_execPdelayResp (port : Lane) (seq : Seq16) (corr rx : Int) (twoStep : Bool) (s : State) :
    ∃ s', execPdelayResp port seq corr rx twoStep s = .next s' ∧ Keeps s s' := by
  refine ⟨_, rfl, ?_⟩
  repeat'
    first
    | with_reducible assumption | with_reducible exact Keeps.refl _ | with_reducible apply keeps_pdelayResp

theorem keeps_execPdelayRespFollowUp (port : Lane) (seq : Seq16) (corr : Int) (s : State) :
    ∃ s', execPdelayRespFollowUp port seq corr s = .next s' ∧ Keeps s s' := by
  refine ⟨_, rfl, ?_⟩
  repeat'
    first
    | with_reducible assumption | with_reducible exact Keeps.refl _ | (intro _)
    | with_reducible apply keeps_when | with_reducible apply keeps_pdelayMeasured | split | dsimp only

theorem keeps_noteHoldTemp {u0 : State} (s : State) (h0 : Keeps u0 s) :
    Keeps u0 (noteHoldTemp s) := by
  unfold noteHoldTemp
  repeat'
    first
    | with_reducible assumption | (intro _) | with_reducible apply keeps_onTime | split | dsimp only

theorem keeps_freezeServo {u0 : State} (s : State) (h0 : Keeps u0 s) :
    Keeps u0 (freezeServo s) := by
  unfold freezeServo
  dsimp only
  repeat'
    first
    | with_reducible assumption | (intro _) | with_reducible apply keeps_onTime | dsimp only

theorem keeps_servoLost {u0 : State} (s : State) (h0 : Keeps u0 s) :
    Keeps u0 (servoLost s) := by
  unfold servoLost
  dsimp only
  repeat'
    first
    | with_reducible assumption | with_reducible apply keeps_ite | with_reducible apply keeps_setServo
    | with_reducible apply keeps_freezeServo | split | dsimp only

theorem keeps_nameDomain {u0 : State} (s : State) (b : Bool) (h0 : Keeps u0 s) :
    Keeps u0 (nameDomain s b) := by
  unfold nameDomain
  repeat'
    first
    | with_reducible assumption | with_reducible apply keeps_wr

theorem keeps_markLost {u0 : State} (s : State) (d : Nat) (h0 : Keeps u0 s) :
    Keeps u0 (markLost s d) := by
  unfold markLost
  repeat'
    first
    | with_reducible assumption | (intro _) | with_reducible apply keeps_evt | with_reducible apply keeps_onDom
    | dsimp only

theorem keeps_domainLost {u0 : State} (s : State) (h0 : Keeps u0 s) :
    Keeps u0 (domainLost s) := by
  unfold domainLost
  dsimp only
  repeat'
    first
    | with_reducible assumption | (intro _) | with_reducible apply keeps_ite
    | with_reducible apply keeps_markLost | with_reducible apply keeps_onTime
    | with_reducible apply keeps_nameDomain | with_reducible apply keeps_servoLost | dsimp only

theorem keeps_shadowLost {u0 : State} (s : State) (h0 : Keeps u0 s) :
    Keeps u0 (shadowLost s) := by
  unfold shadowLost
  dsimp only
  repeat'
    first
    | with_reducible assumption | (intro _) | with_reducible apply keeps_ite
    | with_reducible apply keeps_setServo | with_reducible apply keeps_markLost
    | with_reducible apply keeps_onTime | with_reducible apply keeps_nameDomain
    | with_reducible apply keeps_servoLost | split | dsimp only

theorem keeps_portsLost {u0 : State} (s : State) (h0 : Keeps u0 s) :
    Keeps u0 (portsLost s) := by
  unfold portsLost
  repeat'
    first
    | with_reducible assumption | with_reducible apply keeps_domainLost | with_reducible apply keeps_shadowLost

theorem keeps_execDomainLost (s : State) :
    ∃ s', execDomainLost s = .next s' ∧ Keeps s s' := by
  refine ⟨_, rfl, ?_⟩
  repeat'
    first
    | with_reducible assumption | with_reducible exact Keeps.refl _ | with_reducible apply keeps_domainLost
    | with_reducible apply keeps_bumpSat

theorem keeps_execHoldLimit (s : State) :
    ∃ s', execHoldLimit s = .next s' ∧ Keeps s s' := by
  refine ⟨_, rfl, ?_⟩
  repeat'
    first
    | with_reducible assumption | with_reducible exact Keeps.refl _ | (intro _)
    | with_reducible apply keeps_ite | with_reducible apply keeps_when | with_reducible apply keeps_setServo
    | dsimp only

theorem keeps_setL3 {u0 : State} (s : State) (d v : Nat) (h0 : Keeps u0 s) :
    Keeps u0 (setL3 s d v) := by
  unfold setL3
  dsimp only
  repeat'
    first
    | with_reducible assumption | (intro _) | with_reducible apply keeps_ite | with_reducible apply keeps_evtIf
    | with_reducible apply keeps_onDom | with_reducible apply keeps_setServo | dsimp only

theorem keeps_setMaster {u0 : State} (s : State) (d : Nat) (m : AnnounceMsg) (h0 : Keeps u0 s) :
    Keeps u0 (setMaster s d m) := by
  unfold setMaster
  dsimp only
  repeat'
    first
    | with_reducible assumption | (intro _) | with_reducible apply keeps_ite | with_reducible apply keeps_evtIf
    | with_reducible apply keeps_onDom | with_reducible apply keeps_showUtc | dsimp only

theorem keeps_noteForeign {u0 : State} (s : State) (d : Nat) (m : AnnounceMsg) (h0 : Keeps u0 s) :
    Keeps u0 (noteForeign s d m) := by
  unfold noteForeign
  dsimp only
  repeat'
    first
    | with_reducible assumption | (intro _) | with_reducible apply keeps_onDom | dsimp only

theorem keeps_decideL3 {u0 : State} (s : State) (d : Nat) (h0 : Keeps u0 s) :
    Keeps u0 (decideL3 s d) := by
  unfold decideL3
  repeat'
    first
    | with_reducible assumption | with_reducible apply keeps_setL3 | with_reducible apply keeps_setMaster
    | split

theorem keeps_announceHeard {u0 : State} (s : State) (m : AnnounceMsg) (h0 : Keeps u0 s) :
    Keeps u0 (announceHeard s m) := by
  unfold announceHeard
  repeat'
    first
    | with_reducible assumption | with_reducible apply keeps_ite | with_reducible apply keeps_discardPtp
    | with_reducible apply keeps_decideL3 | with_reducible apply keeps_noteForeign
    | with_reducible apply keeps_setMaster | split

theorem keeps_execAnnounce (m : AnnounceMsg) (s : State) :
    ∃ s', execAnnounce m s = .next s' ∧ Keeps s s' := by
  refine ⟨_, rfl, ?_⟩
  repeat'
    first
    | with_reducible assumption | with_reducible exact Keeps.refl _ | with_reducible apply keeps_announceHeard

theorem keeps_announceTimeout {u0 : State} (s : State) (d : Nat) (h0 : Keeps u0 s) :
    Keeps u0 (announceTimeout s d) := by
  unfold announceTimeout
  dsimp only
  repeat'
    first
    | with_reducible assumption | (intro _) | with_reducible apply keeps_ite | with_reducible apply keeps_onDom
    | with_reducible apply keeps_decideL3 | with_reducible apply keeps_setL3
    | with_reducible apply keeps_domainLost | with_reducible apply keeps_setServo
    | with_reducible apply keeps_shadowLost | split | dsimp only

theorem keeps_execAnnounceTimeout (domain : Bool) (s : State) :
    ∃ s', execAnnounceTimeout domain s = .next s' ∧ Keeps s s' := by
  refine ⟨_, rfl, ?_⟩
  repeat'
    first
    | with_reducible assumption | with_reducible exact Keeps.refl _
    | with_reducible apply keeps_announceTimeout

theorem keeps_execRootSyncSend (domain : Bool) (s : State) :
    ∃ s', execRootSyncSend domain s = .next s' ∧ Keeps s s' := by
  refine ⟨_, rfl, ?_⟩
  repeat'
    first
    | with_reducible assumption | with_reducible exact Keeps.refl _ | (intro _)
    | with_reducible apply keeps_ite | with_reducible apply keeps_when | with_reducible apply keeps_ptpPair
    | with_reducible apply keeps_onDom | with_reducible apply keeps_emitOwn | dsimp only

theorem keeps_execRootAnnounceSend (domain : Bool) (s : State) :
    ∃ s', execRootAnnounceSend domain s = .next s' ∧ Keeps s s' := by
  refine ⟨_, rfl, ?_⟩
  repeat'
    first
    | with_reducible assumption | with_reducible exact Keeps.refl _ | (intro _)
    | with_reducible apply keeps_ite | with_reducible apply keeps_when | with_reducible apply keeps_onDom
    | with_reducible apply keeps_ptpRing | with_reducible apply keeps_emitOwn | dsimp only

theorem keeps_timeCfgWrite {u0 : State} (s : State) (w : Who) (v : Word) (h0 : Keeps u0 s) :
    Keeps u0 (timeCfgWrite s w v) := by
  unfold timeCfgWrite
  dsimp only
  repeat'
    first
    | with_reducible assumption | (intro _) | with_reducible apply keeps_ite
    | with_reducible apply keeps_checked | with_reducible apply keeps_wr | with_reducible apply keeps_onTime
    | dsimp only

theorem keeps_execDomSel (p : Path) (v : Word) (s : State) :
    ∃ s', execDomSel p v s = .next s' ∧ Keeps s s' := by
  refine ⟨_, rfl, ?_⟩
  repeat'
    first
    | with_reducible assumption | with_reducible exact Keeps.refl _ | (intro _)
    | with_reducible apply keeps_gated | with_reducible apply keeps_timeCfgWrite | dsimp only

theorem keeps_timeCommitted {u0 : State} (s0 s : State) (h0 : Keeps u0 s) :
    Keeps u0 (timeCommitted s0 s) := by
  unfold timeCommitted
  dsimp only
  repeat'
    first
    | with_reducible assumption | (intro _) | with_reducible apply keeps_ite
    | with_reducible apply keeps_restartChains | with_reducible apply Keeps.record | dsimp only

theorem keeps_execCoarseRefresh (s : State) :
    ∃ s', execCoarseRefresh s = .next s' ∧ Keeps s s' := by
  refine ⟨_, rfl, ?_⟩
  repeat'
    first
    | with_reducible assumption | with_reducible exact Keeps.refl _ | (intro _)
    | with_reducible apply keeps_when | with_reducible apply Keeps.record | dsimp only

theorem keeps_gridStartHeard {u0 : State} (s : State) (m : GridMsg) (h0 : Keeps u0 s) :
    Keeps u0 (gridStartHeard s m) := by
  unfold gridStartHeard
  dsimp only
  repeat'
    first
    | with_reducible assumption | (intro _) | with_reducible apply keeps_ite | with_reducible apply keeps_evt
    | with_reducible apply keeps_onTime | dsimp only

theorem keeps_execGridStart (m : GridMsg) (s : State) :
    ∃ s', execGridStart m s = .next s' ∧ Keeps s s' := by
  refine ⟨_, rfl, ?_⟩
  repeat'
    first
    | with_reducible assumption | with_reducible exact Keeps.refl _ | with_reducible apply keeps_gridStartHeard

theorem keeps_execGridStartSend (s : State) :
    ∃ s', execGridStartSend s = .next s' ∧ Keeps s s' := by
  refine ⟨_, rfl, ?_⟩
  repeat'
    first
    | with_reducible assumption | with_reducible exact Keeps.refl _ | (intro _)
    | with_reducible apply keeps_when | with_reducible apply keeps_gridStartHeard
    | with_reducible apply keeps_sendRing | dsimp only

theorem keeps_gridStartIndex {u0 : State} (s : State) (h0 : Keeps u0 s) :
    Keeps u0 (gridStartIndex s) := by
  unfold gridStartIndex
  dsimp only
  repeat'
    first
    | with_reducible assumption | (intro _) | with_reducible apply keeps_ite | with_reducible apply keeps_when
    | with_reducible apply keeps_onTime | with_reducible apply keeps_evt | with_reducible apply keeps_wr64
    | with_reducible apply keeps_noteGap | with_reducible apply keeps_notSampledAll
    | with_reducible apply keeps_restartChains | split | with_reducible apply Keeps.record | dsimp only

end Sys2Proof.Machine
end

