-- ==== Sys2Proof/Laws/KeepsCalib.lean ====
section
/-!
SUPPORT. What every operation of Machine/Calib.lean keeps (Keeps): one lemma for each operation that answers a state.
-/
set_option linter.all false

namespace Sys2Proof.Machine

theorem keeps_setCalStat {u0 : State} (s : State) (i : Nat) (v : Bool) (h0 : Keeps u0 s) :
    Keeps u0 (setCalStat s i v) := by
  unfold setCalStat
  repeat'
    first
    | with_reducible assumption | with_reducible apply keeps_wr

theorem keeps_calStart {u0 : State} (s : State) (h0 : Keeps u0 s) :
    Keeps u0 (calStart s) := by
  unfold calStart
  dsimp only
  repeat'
    first
    | with_reducible assumption | with_reducible apply keeps_setCalStat | with_reducible apply keeps_wr64
    | with_reducible apply keeps_wr | dsimp only

theorem keeps_calTrigger {u0 : State} (s : State) (h0 : Keeps u0 s) :
    Keeps u0 (calTrigger s) := by
  unfold calTrigger
  repeat'
    first
    | with_reducible assumption | with_reducible apply keeps_ite | with_reducible apply keeps_setCalStat
    | with_reducible apply keeps_calStart

theorem keeps_calCtrl {u0 : State} (s : State) (w : Who) (v : Word) (h0 : Keeps u0 s) :
    Keeps u0 (calCtrl s w v) := by
  unfold calCtrl
  repeat'
    first
    | with_reducible assumption | with_reducible apply keeps_ite | with_reducible apply keeps_calTrigger
    | with_reducible apply keeps_refuse

theorem keeps_execRecalibrate (p : Path) (s : State) :
    ∃ s', execRecalibrate p s = .next s' ∧ Keeps s s' := by
  refine ⟨_, rfl, ?_⟩
  repeat'
    first
    | with_reducible assumption | with_reducible exact Keeps.refl _ | with_reducible apply keeps_gated
    | with_reducible apply keeps_calTrigger

theorem keeps_execCalPeriod (s : State) :
    ∃ s', execCalPeriod s = .next s' ∧ Keeps s s' := by
  refine ⟨_, rfl, ?_⟩
  repeat'
    first
    | with_reducible assumption | with_reducible exact Keeps.refl _ | with_reducible apply keeps_when
    | with_reducible apply keeps_calTrigger

theorem keeps_calMeasure {u0 : State} (s : State) (quads : Nat → Bool) (smooth : Bool) (h0 : Keeps u0 s) :
    Keeps u0 (calMeasure s quads smooth) := by
  unfold calMeasure
  dsimp only
  repeat'
    first
    | with_reducible assumption | (intro _) | with_reducible apply keeps_foldl
    | with_reducible apply Keeps.record | with_reducible apply Keeps.recordDraw | dsimp only

theorem keeps_calUnits {u0 : State} (s : State) (which : Nat → Bool) (h0 : Keeps u0 s) :
    Keeps u0 (calUnits s which) := by
  unfold calUnits
  dsimp only
  repeat'
    first
    | with_reducible assumption | (intro _) | with_reducible apply keeps_foldl
    | with_reducible apply Keeps.record | with_reducible apply Keeps.recordDraw | dsimp only

theorem keeps_recalibrationDone {u0 : State} (s : State) (quads : BitVec 32) (h0 : Keeps u0 s) :
    Keeps u0 (recalibrationDone s quads) := by
  unfold recalibrationDone
  dsimp only
  repeat'
    first
    | with_reducible assumption | (intro _) | with_reducible apply keeps_ite
    | with_reducible apply keeps_calUnits | with_reducible apply keeps_calMeasure
    | with_reducible apply keeps_wr | with_reducible apply keeps_setCalStat | with_reducible apply keeps_evt
    | with_reducible apply keeps_bumpSat | with_reducible apply keeps_clearBlock
    | with_reducible apply keeps_faultSrc | with_reducible apply keeps_calStart | dsimp only

theorem keeps_execRecalibrationDone (quads : BitVec 32) (s : State) :
    ∃ s', execRecalibrationDone quads s = .next s' ∧ Keeps s s' := by
  refine ⟨_, rfl, ?_⟩
  repeat'
    first
    | with_reducible assumption | with_reducible exact Keeps.refl _ | (intro _)
    | with_reducible apply keeps_when | with_reducible apply keeps_recalibrationDone | dsimp only

theorem keeps_bandGap {u0 : State} (s : State) (agree : Bool) (h0 : Keeps u0 s) :
    Keeps u0 (bandGap s agree) := by
  unfold bandGap
  dsimp only
  repeat'
    first
    | with_reducible assumption | with_reducible apply keeps_ite | with_reducible apply keeps_clearBlock
    | with_reducible apply keeps_setCalStat | with_reducible apply keeps_faultSrc
    | with_reducible apply keeps_evt | with_reducible apply Keeps.record | dsimp only

theorem keeps_hkcSupervision {u0 : State} (s : State) (ch : HkcSuper) (value : BitVec 16) (agree : Bool) (h0 : Keeps
    u0 s) :
    Keeps u0 (hkcSupervision s ch value agree) := by
  unfold hkcSupervision
  dsimp only
  repeat'
    first
    | with_reducible assumption | (intro _) | with_reducible apply keeps_ite | with_reducible apply keeps_wr
    | with_reducible apply keeps_noteHoldTemp | with_reducible apply keeps_calTrigger
    | with_reducible apply keeps_evtIf | with_reducible apply keeps_bandGap | split
    | with_reducible apply Keeps.record | dsimp only

theorem keeps_execHkcSupervision (ch : HkcSuper) (value : BitVec 16) (agree : Bool) (s : State) :
    ∃ s', execHkcSupervision ch value agree s = .next s' ∧ Keeps s s' := by
  refine ⟨_, rfl, ?_⟩
  repeat'
    first
    | with_reducible assumption | with_reducible exact Keeps.refl _ | (intro _)
    | with_reducible apply keeps_when | with_reducible apply keeps_hkcSupervision
    | with_reducible apply Keeps.record | dsimp only

end Sys2Proof.Machine
end

