-- ==== Sys2Proof/Laws/KeepsEngine.lean ====
section
/-!
SUPPORT. What every operation of Machine/Engine.lean keeps (Keeps): one lemma for each operation that answers a state.
-/
set_option linter.all false

namespace Sys2Proof.Machine

theorem keeps_engFault {u0 : State} (s : State) (k cause pc addr : Nat) (h0 : Keeps u0 s) :
    Keeps u0 (engFault s k cause pc addr) := by
  unfold engFault
  dsimp only
  repeat'
    first
    | with_reducible assumption | (intro _) | with_reducible apply keeps_ite | with_reducible apply keeps_onEng
    | with_reducible apply keeps_wr | with_reducible apply keeps_engineSlots
    | with_reducible apply keeps_faultSrc | with_reducible apply keeps_evt | with_reducible apply Keeps.record
    | dsimp only

theorem keeps_portWrite {u0 : State} (s : State) (k : Nat) (p : Nat × Word) (h0 : Keeps u0 s) :
    Keeps u0 (portWrite s k p) := by
  unfold portWrite
  dsimp only
  repeat'
    first
    | with_reducible assumption | (intro _) | with_reducible apply keeps_ite | with_reducible apply keeps_onEng
    | with_reducible apply keeps_onBand | dsimp only

theorem keeps_edgeLeaves {u0 : State} (s : State) (k leave : Nat) (h0 : Keeps u0 s) :
    Keeps u0 (edgeLeaves s k leave) := by
  unfold edgeLeaves
  dsimp only
  repeat'
    first
    | with_reducible assumption | (intro _) | with_reducible apply keeps_ite | with_reducible apply keeps_onEng
    | with_reducible apply keeps_evt | with_reducible apply keeps_bumpSat | with_reducible apply keeps_engFault
    | split | dsimp only

theorem keeps_issue {u0 : State} (s : State) (k : Nat) (legal : Bool) (reads : List Res) (writes : List (Res × Nat))
    (busy : Nat) (f : EngCtx → Nat → Issue) (h0 : Keeps u0 s) :
    Keeps u0 (issue s k legal reads writes busy f) := by
  unfold issue
  dsimp only
  repeat'
    first
    | with_reducible assumption | (intro _) | with_reducible apply keeps_ite | with_reducible apply keeps_foldl
    | with_reducible apply keeps_engFault | with_reducible apply keeps_onEng
    | with_reducible apply keeps_portWrite | with_reducible apply keeps_edgeLeaves
    | with_reducible apply keeps_evtIf | split | dsimp only

theorem keeps_aluOp {u0 : State} (s : State) (k : Nat) (d a b : Nat) (lat : Nat) (f : Word → Word → Word) (h0 : Keeps
    u0 s) :
    Keeps u0 (aluOp s k d a b lat f) := by
  unfold aluOp
  repeat'
    first
    | with_reducible assumption | (intro _) | with_reducible apply keeps_issue | dsimp only

theorem keeps_immOp {u0 : State} (s : State) (k : Nat) (d a : Nat) (f : Word → Word) (h0 : Keeps u0 s) :
    Keeps u0 (immOp s k d a f) := by
  unfold immOp
  repeat'
    first
    | with_reducible assumption | (intro _) | with_reducible apply keeps_issue | dsimp only

theorem keeps_vload {u0 : State} (s : State) (k : Nat) (m : MemOp) (lane : Word → Frac) (after : EngCtx → Nat → Word
    → EngCtx) (ws : List (Res × Nat)) (h0 : Keeps u0 s) :
    Keeps u0 (vload s k m lane after ws) := by
  unfold vload
  dsimp only
  repeat'
    first
    | with_reducible assumption | (intro _) | with_reducible apply keeps_foldl
    | with_reducible apply keeps_issue | dsimp only

theorem keeps_vecOp {u0 : State} (s : State) (k d lat : Nat) (reads : List Res) (f : EngCtx → List Frac) (h0 : Keeps
    u0 s) :
    Keeps u0 (vecOp s k d lat reads f) := by
  unfold vecOp
  repeat'
    first
    | with_reducible assumption | (intro _) | with_reducible apply keeps_issue | dsimp only

theorem keeps_vec1 {u0 : State} (s : State) (k d a lat : Nat) (f : Frac → Frac) (h0 : Keeps u0 s) :
    Keeps u0 (vec1 s k d a lat f) := by
  unfold vec1
  repeat'
    first
    | with_reducible assumption | (intro _) | with_reducible apply keeps_vecOp | dsimp only

theorem keeps_vec2 {u0 : State} (s : State) (k d a b lat : Nat) (f : Frac → Frac → Frac) (h0 : Keeps u0 s) :
    Keeps u0 (vec2 s k d a b lat f) := by
  unfold vec2
  repeat'
    first
    | with_reducible assumption | (intro _) | with_reducible apply keeps_vecOp | dsimp only

theorem keeps_execNopInstruction (k : Fin 12) (s : State) :
    ∃ s', execNopInstruction k s = .next s' ∧ Keeps s s' := by
  refine ⟨_, rfl, ?_⟩
  repeat'
    first
    | with_reducible assumption | with_reducible exact Keeps.refl _ | (intro _)
    | with_reducible apply keeps_issue | dsimp only

theorem keeps_execSli (k : Fin 12) (d : Fin 16) (imm : BitVec 16) (s : State) :
    ∃ s', execSli k d imm s = .next s' ∧ Keeps s s' := by
  refine ⟨_, rfl, ?_⟩
  repeat'
    first
    | with_reducible assumption | with_reducible exact Keeps.refl _ | (intro _)
    | with_reducible apply keeps_issue | dsimp only

theorem keeps_execSlih (k : Fin 12) (d : Fin 16) (imm : BitVec 16) (s : State) :
    ∃ s', execSlih k d imm s = .next s' ∧ Keeps s s' := by
  refine ⟨_, rfl, ?_⟩
  repeat'
    first
    | with_reducible assumption | with_reducible exact Keeps.refl _ | (intro _)
    | with_reducible apply keeps_issue | dsimp only

theorem keeps_execSadd (k : Fin 12) (d a b : Fin 16) (s : State) :
    ∃ s', execSadd k d a b s = .next s' ∧ Keeps s s' := by
  refine ⟨_, rfl, ?_⟩
  repeat'
    first
    | with_reducible assumption | with_reducible exact Keeps.refl _ | with_reducible apply keeps_aluOp

theorem keeps_execSaddi (k : Fin 12) (d a : Fin 16) (imm : BitVec 18) (s : State) :
    ∃ s', execSaddi k d a imm s = .next s' ∧ Keeps s s' := by
  refine ⟨_, rfl, ?_⟩
  repeat'
    first
    | with_reducible assumption | with_reducible exact Keeps.refl _ | with_reducible apply keeps_immOp

theorem keeps_execSsub (k : Fin 12) (d a b : Fin 16) (s : State) :
    ∃ s', execSsub k d a b s = .next s' ∧ Keeps s s' := by
  refine ⟨_, rfl, ?_⟩
  repeat'
    first
    | with_reducible assumption | with_reducible exact Keeps.refl _ | with_reducible apply keeps_aluOp

theorem keeps_execSand (k : Fin 12) (d a b : Fin 16) (s : State) :
    ∃ s', execSand k d a b s = .next s' ∧ Keeps s s' := by
  refine ⟨_, rfl, ?_⟩
  repeat'
    first
    | with_reducible assumption | with_reducible exact Keeps.refl _ | with_reducible apply keeps_aluOp

theorem keeps_execSor (k : Fin 12) (d a b : Fin 16) (s : State) :
    ∃ s', execSor k d a b s = .next s' ∧ Keeps s s' := by
  refine ⟨_, rfl, ?_⟩
  repeat'
    first
    | with_reducible assumption | with_reducible exact Keeps.refl _ | with_reducible apply keeps_aluOp

theorem keeps_execSshl (k : Fin 12) (d a : Fin 16) (imm : BitVec 10) (s : State) :
    ∃ s', execSshl k d a imm s = .next s' ∧ Keeps s s' := by
  refine ⟨_, rfl, ?_⟩
  repeat'
    first
    | with_reducible assumption | with_reducible exact Keeps.refl _ | with_reducible apply keeps_immOp

theorem keeps_execSshr (k : Fin 12) (d a : Fin 16) (imm : BitVec 10) (s : State) :
    ∃ s', execSshr k d a imm s = .next s' ∧ Keeps s s' := by
  refine ⟨_, rfl, ?_⟩
  repeat'
    first
    | with_reducible assumption | with_reducible exact Keeps.refl _ | (intro _)
    | with_reducible apply keeps_immOp | dsimp only

theorem keeps_execSmul (k : Fin 12) (d a b : Fin 16) (s : State) :
    ∃ s', execSmul k d a b s = .next s' ∧ Keeps s s' := by
  refine ⟨_, rfl, ?_⟩
  repeat'
    first
    | with_reducible assumption | with_reducible exact Keeps.refl _ | with_reducible apply keeps_aluOp

theorem keeps_execSld (k : Fin 12) (m : MemOp) (s : State) :
    ∃ s', execSld k m s = .next s' ∧ Keeps s s' := by
  refine ⟨_, rfl, ?_⟩
  repeat'
    first
    | with_reducible assumption | with_reducible exact Keeps.refl _ | (intro _)
    | with_reducible apply keeps_issue | dsimp only

theorem keeps_execSst (k : Fin 12) (m : MemOp) (s : State) :
    ∃ s', execSst k m s = .next s' ∧ Keeps s s' := by
  refine ⟨_, rfl, ?_⟩
  repeat'
    first
    | with_reducible assumption | with_reducible exact Keeps.refl _ | (intro _)
    | with_reducible apply keeps_issue | dsimp only

theorem keeps_execSget (k : Fin 12) (d : Fin 16) (sel : BitVec 10) (s : State) :
    ∃ s', execSget k d sel s = .next s' ∧ Keeps s s' := by
  refine ⟨_, rfl, ?_⟩
  repeat'
    first
    | with_reducible assumption | with_reducible exact Keeps.refl _ | (intro _)
    | with_reducible apply keeps_issue | dsimp only

theorem keeps_execBr (k : Fin 12) (cond : Fin 16) (a : Fin 16) (target : BitVec 15) (s : State) :
    ∃ s', execBr k cond a target s = .next s' ∧ Keeps s s' := by
  refine ⟨_, rfl, ?_⟩
  repeat'
    first
    | with_reducible assumption | with_reducible exact Keeps.refl _ | (intro _)
    | with_reducible apply keeps_ite | with_reducible apply keeps_issue | dsimp only

theorem keeps_execLmask (k : Fin 12) (imm : BitVec 10) (s : State) :
    ∃ s', execLmask k imm s = .next s' ∧ Keeps s s' := by
  refine ⟨_, rfl, ?_⟩
  repeat'
    first
    | with_reducible assumption | with_reducible exact Keeps.refl _ | (intro _)
    | with_reducible apply keeps_ite | with_reducible apply keeps_issue | dsimp only

theorem keeps_execSignal (k : Fin 12) (s : State) :
    ∃ s', execSignal k s = .next s' ∧ Keeps s s' := by
  refine ⟨_, rfl, ?_⟩
  repeat'
    first
    | with_reducible assumption | with_reducible exact Keeps.refl _ | (intro _)
    | with_reducible apply keeps_issue | dsimp only

theorem keeps_execVld (k : Fin 12) (m : MemOp) (s : State) :
    ∃ s', execVld k m s = .next s' ∧ Keeps s s' := by
  refine ⟨_, rfl, ?_⟩
  repeat'
    first
    | with_reducible assumption | with_reducible exact Keeps.refl _ | (intro _)
    | with_reducible apply keeps_vload | dsimp only

theorem keeps_execVldr (k : Fin 12) (m : MemOp) (s : State) :
    ∃ s', execVldr k m s = .next s' ∧ Keeps s s' := by
  refine ⟨_, rfl, ?_⟩
  repeat'
    first
    | with_reducible assumption | with_reducible exact Keeps.refl _ | (intro _)
    | with_reducible apply keeps_ite | with_reducible apply keeps_vload | dsimp only

theorem keeps_execVldi (k : Fin 12) (m : MemOp) (s : State) :
    ∃ s', execVldi k m s = .next s' ∧ Keeps s s' := by
  refine ⟨_, rfl, ?_⟩
  repeat'
    first
    | with_reducible assumption | with_reducible exact Keeps.refl _ | (intro _)
    | with_reducible apply keeps_vload | dsimp only

theorem keeps_execVldd (k : Fin 12) (d a b : Fin 16) (st : Fin 4) (s : State) :
    ∃ s', execVldd k d a b st s = .next s' ∧ Keeps s s' := by
  refine ⟨_, rfl, ?_⟩
  repeat'
    first
    | with_reducible assumption | with_reducible exact Keeps.refl _ | (intro _)
    | with_reducible apply keeps_issue | dsimp only

theorem keeps_execVst (k : Fin 12) (m : MemOp) (s : State) :
    ∃ s', execVst k m s = .next s' ∧ Keeps s s' := by
  refine ⟨_, rfl, ?_⟩
  repeat'
    first
    | with_reducible assumption | with_reducible exact Keeps.refl _ | (intro _)
    | with_reducible apply keeps_issue | dsimp only

theorem keeps_execVste (k : Fin 12) (m : MemOp) (s : State) :
    ∃ s', execVste k m s = .next s' ∧ Keeps s s' := by
  refine ⟨_, rfl, ?_⟩
  repeat'
    first
    | with_reducible assumption | with_reducible exact Keeps.refl _ | (intro _)
    | with_reducible apply keeps_issue | dsimp only

theorem keeps_execVsplat (k : Fin 12) (d a : Fin 16) (s : State) :
    ∃ s', execVsplat k d a s = .next s' ∧ Keeps s s' := by
  refine ⟨_, rfl, ?_⟩
  repeat'
    first
    | with_reducible assumption | with_reducible exact Keeps.refl _ | (intro _)
    | with_reducible apply keeps_vecOp | dsimp only

theorem keeps_execVadd (k : Fin 12) (d a b : Fin 16) (s : State) :
    ∃ s', execVadd k d a b s = .next s' ∧ Keeps s s' := by
  refine ⟨_, rfl, ?_⟩
  repeat'
    first
    | with_reducible assumption | with_reducible exact Keeps.refl _ | with_reducible apply keeps_vec2

theorem keeps_execVsub (k : Fin 12) (d a b : Fin 16) (s : State) :
    ∃ s', execVsub k d a b s = .next s' ∧ Keeps s s' := by
  refine ⟨_, rfl, ?_⟩
  repeat'
    first
    | with_reducible assumption | with_reducible exact Keeps.refl _ | with_reducible apply keeps_vec2

theorem keeps_execVmul (k : Fin 12) (d a b : Fin 16) (s : State) :
    ∃ s', execVmul k d a b s = .next s' ∧ Keeps s s' := by
  refine ⟨_, rfl, ?_⟩
  repeat'
    first
    | with_reducible assumption | with_reducible exact Keeps.refl _ | with_reducible apply keeps_vec2

theorem keeps_execVmac (k : Fin 12) (d a b : Fin 16) (neg : Bool) (s : State) :
    ∃ s', execVmac k d a b neg s = .next s' ∧ Keeps s s' := by
  refine ⟨_, rfl, ?_⟩
  repeat'
    first
    | with_reducible assumption | with_reducible exact Keeps.refl _ | (intro _)
    | with_reducible apply keeps_issue | dsimp only

theorem keeps_execAclr (k : Fin 12) (d : Fin 16) (e : BitVec 8) (s : State) :
    ∃ s', execAclr k d e s = .next s' ∧ Keeps s s' := by
  refine ⟨_, rfl, ?_⟩
  repeat'
    first
    | with_reducible assumption | with_reducible exact Keeps.refl _ | (intro _)
    | with_reducible apply keeps_issue | dsimp only

theorem keeps_execVmova (k : Fin 12) (d a : Fin 16) (s : State) :
    ∃ s', execVmova k d a s = .next s' ∧ Keeps s s' := by
  refine ⟨_, rfl, ?_⟩
  repeat'
    first
    | with_reducible assumption | with_reducible exact Keeps.refl _ | (intro _)
    | with_reducible apply keeps_issue | dsimp only

theorem keeps_execVclamp (k : Fin 12) (d a b c : Fin 16) (s : State) :
    ∃ s', execVclamp k d a b c s = .next s' ∧ Keeps s s' := by
  refine ⟨_, rfl, ?_⟩
  repeat'
    first
    | with_reducible assumption | with_reducible exact Keeps.refl _ | (intro _)
    | with_reducible apply keeps_vecOp | dsimp only

theorem keeps_execVneg (k : Fin 12) (d a : Fin 16) (s : State) :
    ∃ s', execVneg k d a s = .next s' ∧ Keeps s s' := by
  refine ⟨_, rfl, ?_⟩
  repeat'
    first
    | with_reducible assumption | with_reducible exact Keeps.refl _ | with_reducible apply keeps_vec1

theorem keeps_execVabs (k : Fin 12) (d a : Fin 16) (s : State) :
    ∃ s', execVabs k d a s = .next s' ∧ Keeps s s' := by
  refine ⟨_, rfl, ?_⟩
  repeat'
    first
    | with_reducible assumption | with_reducible exact Keeps.refl _ | with_reducible apply keeps_vec1

theorem keeps_execVscl (k : Fin 12) (d a : Fin 16) (e : BitVec 8) (s : State) :
    ∃ s', execVscl k d a e s = .next s' ∧ Keeps s s' := by
  refine ⟨_, rfl, ?_⟩
  repeat'
    first
    | with_reducible assumption | with_reducible exact Keeps.refl _ | (intro _)
    | with_reducible apply keeps_vec1 | dsimp only

theorem keeps_execVmov (k : Fin 12) (d a : Fin 16) (s : State) :
    ∃ s', execVmov k d a s = .next s' ∧ Keeps s s' := by
  refine ⟨_, rfl, ?_⟩
  repeat'
    first
    | with_reducible assumption | with_reducible exact Keeps.refl _ | with_reducible apply keeps_vec1

theorem keeps_execVbc (k : Fin 12) (d a : Fin 16) (j : Fin 4) (s : State) :
    ∃ s', execVbc k d a j s = .next s' ∧ Keeps s s' := by
  refine ⟨_, rfl, ?_⟩
  repeat'
    first
    | with_reducible assumption | with_reducible exact Keeps.refl _ | (intro _)
    | with_reducible apply keeps_vecOp | dsimp only

theorem keeps_execVcmp (k : Fin 12) (a b : Fin 16) (cond : Fin 8) (s : State) :
    ∃ s', execVcmp k a b cond s = .next s' ∧ Keeps s s' := by
  refine ⟨_, rfl, ?_⟩
  repeat'
    first
    | with_reducible assumption | with_reducible exact Keeps.refl _ | (intro _)
    | with_reducible apply keeps_issue | dsimp only

theorem keeps_execVsel (k : Fin 12) (d a b : Fin 16) (s : State) :
    ∃ s', execVsel k d a b s = .next s' ∧ Keeps s s' := by
  refine ⟨_, rfl, ?_⟩
  repeat'
    first
    | with_reducible assumption | with_reducible exact Keeps.refl _ | (intro _)
    | with_reducible apply keeps_ite | with_reducible apply keeps_vecOp | dsimp only

theorem keeps_execVtst (k : Fin 12) (imm : BitVec 10) (s : State) :
    ∃ s', execVtst k imm s = .next s' ∧ Keeps s s' := by
  refine ⟨_, rfl, ?_⟩
  repeat'
    first
    | with_reducible assumption | with_reducible exact Keeps.refl _ | (intro _)
    | with_reducible apply keeps_issue | dsimp only

theorem keeps_execNorm (k : Fin 12) (d : Fin 16) (s : State) :
    ∃ s', execNorm k d s = .next s' ∧ Keeps s s' := by
  refine ⟨_, rfl, ?_⟩
  repeat'
    first
    | with_reducible assumption | with_reducible exact Keeps.refl _ | (intro _)
    | with_reducible apply keeps_issue | dsimp only

theorem keeps_execVtab (k : Fin 12) (d a b c : Fin 16) (interp : Bool) (s : State) :
    ∃ s', execVtab k d a b c interp s = .next s' ∧ Keeps s s' := by
  refine ⟨_, rfl, ?_⟩
  repeat'
    first
    | with_reducible assumption | with_reducible exact Keeps.refl _ | (intro _)
    | with_reducible apply keeps_ite | with_reducible apply keeps_issue | dsimp only

theorem keeps_noteFigure {u0 : State} (s : State) (a v : Nat) (h0 : Keeps u0 s) :
    Keeps u0 (noteFigure s a v) := by
  unfold noteFigure
  repeat'
    first
    | with_reducible assumption | with_reducible apply keeps_wr

theorem keeps_haltNow {u0 : State} (s : State) (k : Nat) (h0 : Keeps u0 s) :
    Keeps u0 (haltNow s k) := by
  unfold haltNow
  repeat'
    first
    | with_reducible assumption | (intro _) | with_reducible apply keeps_onEng | dsimp only

theorem keeps_endStage {u0 : State} (s : State) (k ev cycles lastEdge : Nat) (ovf unf nodata : BitVec 4) (h0 : Keeps
    u0 s) :
    Keeps u0 (endStage s k ev cycles lastEdge ovf unf nodata) := by
  unfold endStage
  dsimp only
  repeat'
    first
    | with_reducible assumption | (intro _) | with_reducible apply keeps_ite | with_reducible apply keeps_onEng
    | with_reducible apply keeps_noteFigure | with_reducible apply keeps_wr | with_reducible apply keeps_evtIf
    | with_reducible apply keeps_haltNow | with_reducible apply Keeps.record | dsimp only

theorem keeps_execStop (k : Fin 12) (s : State) :
    ∃ s', execStop k s = .next s' ∧ Keeps s s' := by
  refine ⟨_, rfl, ?_⟩
  repeat'
    first
    | with_reducible assumption | with_reducible exact Keeps.refl _ | with_reducible apply keeps_ite
    | with_reducible apply keeps_engFault | with_reducible apply keeps_endStage | split | dsimp only

theorem keeps_execIllegal (k : Fin 12) (s : State) :
    ∃ s', execIllegal k s = .next s' ∧ Keeps s s' := by
  refine ⟨_, rfl, ?_⟩
  repeat'
    first
    | with_reducible assumption | with_reducible exact Keeps.refl _ | (intro _)
    | with_reducible apply keeps_issue | dsimp only

theorem keeps_execLimit (k : Fin 12) (s : State) :
    ∃ s', execLimit k s = .next s' ∧ Keeps s s' := by
  refine ⟨_, rfl, ?_⟩
  repeat'
    first
    | with_reducible assumption | with_reducible exact Keeps.refl _ | with_reducible apply keeps_engFault
    | split

theorem keeps_execSramScrub (k : Fin 12) (addr : Nat) (uncorrectable : Bool) (s : State) :
    ∃ s', execSramScrub k addr uncorrectable s = .next s' ∧ Keeps s s' := by
  refine ⟨_, rfl, ?_⟩
  repeat'
    first
    | with_reducible assumption | with_reducible exact Keeps.refl _ | (intro _)
    | with_reducible apply keeps_ite | with_reducible apply keeps_when | with_reducible apply keeps_evt
    | with_reducible apply keeps_bumpSat | with_reducible apply keeps_onEng
    | with_reducible apply keeps_engFault | dsimp only

theorem keeps_raiseEvent {u0 : State} (s : State) (k e : Nat) (h0 : Keeps u0 s) :
    Keeps u0 (raiseEvent s k e) := by
  unfold raiseEvent
  dsimp only
  repeat'
    first
    | with_reducible assumption | (intro _) | with_reducible apply keeps_ite | with_reducible apply keeps_onEng
    | with_reducible apply keeps_evt | with_reducible apply keeps_bumpSat | dsimp only

theorem keeps_tableEvent {u0 : State} (s : State) (k : Nat) (h0 : Keeps u0 s) :
    Keeps u0 (tableEvent s k) := by
  unfold tableEvent
  repeat'
    first
    | with_reducible assumption | with_reducible apply keeps_raiseEvent | with_reducible apply keeps_evt

theorem keeps_runEngine {u0 : State} (s : State) (w : Who) (k : Nat) (h0 : Keeps u0 s) :
    Keeps u0 (runEngine s w k) := by
  unfold runEngine
  dsimp only
  repeat'
    first
    | with_reducible assumption | (intro _) | with_reducible apply keeps_ite
    | with_reducible apply keeps_checked | with_reducible apply keeps_wr | with_reducible apply keeps_onEng
    | with_reducible apply Keeps.record | dsimp only

theorem keeps_execRunEngine (p : Path) (k : Fin 12) (s : State) :
    ∃ s', execRunEngine p k s = .next s' ∧ Keeps s s' := by
  refine ⟨_, rfl, ?_⟩
  repeat'
    first
    | with_reducible assumption | with_reducible exact Keeps.refl _ | (intro _)
    | with_reducible apply keeps_gated | with_reducible apply keeps_runEngine | dsimp only

theorem keeps_haltEngine {u0 : State} (s : State) (w : Who) (k : Nat) (h0 : Keeps u0 s) :
    Keeps u0 (haltEngine s w k) := by
  unfold haltEngine
  repeat'
    first
    | with_reducible assumption | (intro _) | with_reducible apply keeps_ite
    | with_reducible apply keeps_checked | with_reducible apply keeps_onEng
    | with_reducible apply keeps_haltNow | dsimp only

theorem keeps_execHaltEngine (p : Path) (k : Fin 12) (s : State) :
    ∃ s', execHaltEngine p k s = .next s' ∧ Keeps s s' := by
  refine ⟨_, rfl, ?_⟩
  repeat'
    first
    | with_reducible assumption | with_reducible exact Keeps.refl _ | (intro _)
    | with_reducible apply keeps_gated | with_reducible apply keeps_haltEngine | dsimp only

theorem keeps_clearFault {u0 : State} (s : State) (w : Who) (k : Nat) (h0 : Keeps u0 s) :
    Keeps u0 (clearFault s w k) := by
  unfold clearFault
  repeat'
    first
    | with_reducible assumption | (intro _) | with_reducible apply keeps_ite
    | with_reducible apply keeps_checked | with_reducible apply keeps_clearBlock
    | with_reducible apply keeps_onEng | dsimp only

theorem keeps_execClearFault (p : Path) (k : Fin 12) (s : State) :
    ∃ s', execClearFault p k s = .next s' ∧ Keeps s s' := by
  refine ⟨_, rfl, ?_⟩
  repeat'
    first
    | with_reducible assumption | with_reducible exact Keeps.refl _ | (intro _)
    | with_reducible apply keeps_gated | with_reducible apply keeps_clearFault | dsimp only

theorem keeps_execDoorbell (p : Path) (k : Fin 12) (s : State) :
    ∃ s', execDoorbell p k s = .next s' ∧ Keeps s s' := by
  refine ⟨_, rfl, ?_⟩
  repeat'
    first
    | with_reducible assumption | with_reducible exact Keeps.refl _ | (intro _)
    | with_reducible apply keeps_gated | with_reducible apply keeps_raiseEvent | dsimp only

theorem keeps_clearStaging {u0 : State} (s : State) (k : Nat) (h0 : Keeps u0 s) :
    Keeps u0 (clearStaging s k) := by
  unfold clearStaging
  repeat'
    first
    | with_reducible assumption | (intro _) | with_reducible apply keeps_onEng | dsimp only

theorem keeps_execClearStagingList (p : Path) (k : Fin 12) (s : State) :
    ∃ s', execClearStagingList p k s = .next s' ∧ Keeps s s' := by
  refine ⟨_, rfl, ?_⟩
  repeat'
    first
    | with_reducible assumption | with_reducible exact Keeps.refl _ | (intro _)
    | with_reducible apply keeps_gated | with_reducible apply keeps_clearStaging | dsimp only

theorem keeps_aeCtrl {u0 : State} (s : State) (w : Who) (k : Nat) (v : Word) (h0 : Keeps u0 s) :
    Keeps u0 (aeCtrl s w k v) := by
  unfold aeCtrl
  repeat'
    first
    | with_reducible assumption | with_reducible apply keeps_runEngine | with_reducible apply keeps_haltEngine
    | with_reducible apply keeps_clearFault | with_reducible apply keeps_raiseEvent
    | with_reducible apply keeps_clearStaging | split

theorem keeps_stageCopy {u0 : State} (s : State) (k src dst len : Nat) (h0 : Keeps u0 s) :
    Keeps u0 (stageCopy s k src dst len) := by
  unfold stageCopy
  dsimp only
  repeat'
    first
    | with_reducible assumption | (intro _) | with_reducible apply keeps_foldl
    | with_reducible apply keeps_onEng | dsimp only

theorem keeps_execStagingReplayDone (k : Fin 12) (s : State) :
    ∃ s', execStagingReplayDone k s = .next s' ∧ Keeps s s' := by
  refine ⟨_, rfl, ?_⟩
  repeat'
    first
    | with_reducible assumption | with_reducible exact Keeps.refl _ | (intro _)
    | with_reducible apply keeps_foldl | with_reducible apply keeps_when | with_reducible apply keeps_stageCopy
    | with_reducible apply keeps_onEng | dsimp only

theorem keeps_engHostWrite {u0 : State} (s : State) (w : Who) (k a : Nat) (v : Word) (h0 : Keeps u0 s) :
    Keeps u0 (engHostWrite s w k a v) := by
  unfold engHostWrite
  repeat'
    first
    | with_reducible assumption | (intro _) | with_reducible apply keeps_refuseOn
    | with_reducible apply keeps_onEng | split | dsimp only

theorem keeps_subWrite {u0 : State} (s : State) (k : Nat) (v : Word) (h0 : Keeps u0 s) :
    Keeps u0 (subWrite s k v) := by
  unfold subWrite
  dsimp only
  repeat'
    first
    | with_reducible assumption | (intro _) | with_reducible apply keeps_ite | with_reducible apply keeps_onEng
    | dsimp only

theorem keeps_subDeliver {u0 : State} (s : State) (ch : Nat) (idx : Nat) (w : Word) (h0 : Keeps u0 s) :
    Keeps u0 (subDeliver s ch idx w) := by
  unfold subDeliver
  dsimp only
  repeat'
    first
    | with_reducible assumption | (intro _) | with_reducible apply keeps_ite | with_reducible apply keeps_foldl
    | with_reducible apply Keeps.record | dsimp only

end Sys2Proof.Machine
end

