-- ==== Sys2Proof/Laws/KeepsMailbox.lean ====
section
/-!
SUPPORT. What every operation of Machine/Mailbox.lean keeps (Keeps): one lemma for each operation that answers a state.
-/
set_option linter.all false

namespace Sys2Proof.Machine

theorem keeps_onEntry {u0 : State} (s : State) (q : Seq32) (f : JEntry → JEntry) (h0 : Keeps u0 s) :
    Keeps u0 (onEntry s q f) := by
  unfold onEntry
  repeat'
    first
    | with_reducible assumption | (intro _) | with_reducible apply keeps_ite
    | (refine Keeps.setCmd ?_ (fun j => by simp only [List.length_map, List.length_drop, List.length_append]; omega))
    | dsimp only

theorem keeps_changeCmd {u0 : State} (s : State) (e : JEntry) (st : JState) (slot : Nat) (h0 : Keeps u0 s) :
    Keeps u0 (changeCmd s e st slot) := by
  unfold changeCmd
  dsimp only
  repeat'
    first
    | with_reducible assumption | with_reducible apply keeps_ite | with_reducible apply keeps_changeEntry
    | dsimp only

theorem keeps_endCmdSlot {u0 : State} (s : State) (e : JEntry) (st : JState) (status detail slot : Nat) (h0 : Keeps
    u0 s) :
    Keeps u0 (endCmdSlot s e st status detail slot) := by
  unfold endCmdSlot
  dsimp only
  repeat'
    first
    | with_reducible assumption | (intro _) | with_reducible apply keeps_ite
    | with_reducible apply keeps_onEntry | with_reducible apply keeps_evt
    | with_reducible apply keeps_changeCmd | dsimp only

theorem keeps_endCmd {u0 : State} (s : State) (e : JEntry) (st : JState) (status detail : Nat) (h0 : Keeps u0 s) :
    Keeps u0 (endCmd s e st status detail) := by
  unfold endCmd
  repeat'
    first
    | with_reducible assumption | with_reducible apply keeps_endCmdSlot

theorem keeps_submitCmd {u0 : State} (s : State) (p : Path) (h0 : Keeps u0 s) :
    Keeps u0 (submitCmd s p) := by
  unfold submitCmd
  dsimp only
  repeat'
    first
    | with_reducible assumption | (intro _) | with_reducible apply keeps_ite
    | with_reducible apply keeps_checked | with_reducible apply keeps_onPath | with_reducible apply keeps_evt
    | with_reducible apply keeps_wr | with_reducible apply keeps_refuse
    | (refine Keeps.setCmd ?_ (fun j => by simp only [List.length_map, List.length_drop, List.length_append]; omega))
    | dsimp only

theorem keeps_submitAs {u0 : State} (s : State) (p : Path) (o : Nat) (q : Seq32) (args : List Word) (h0 : Keeps u0 s)
    :
    Keeps u0 (submitAs s p o q args) := by
  unfold submitAs
  repeat'
    first
    | with_reducible assumption | (intro _) | with_reducible apply keeps_gated
    | with_reducible apply keeps_submitCmd | with_reducible apply keeps_onPath | dsimp only

theorem keeps_execCmdNop (p : Path) (seq : Seq32) (args : List Word) (s : State) :
    ∃ s', execCmdNop p seq args s = .next s' ∧ Keeps s s' := by
  refine ⟨_, rfl, ?_⟩
  repeat'
    first
    | with_reducible assumption | with_reducible exact Keeps.refl _ | with_reducible apply keeps_submitAs

theorem keeps_execCmdTransfer (p : Path) (seq : Seq32) (args : List Word) (s : State) :
    ∃ s', execCmdTransfer p seq args s = .next s' ∧ Keeps s s' := by
  refine ⟨_, rfl, ?_⟩
  repeat'
    first
    | with_reducible assumption | with_reducible exact Keeps.refl _ | with_reducible apply keeps_submitAs

theorem keeps_execCmdReamStore (p : Path) (seq : Seq32) (args : List Word) (s : State) :
    ∃ s', execCmdReamStore p seq args s = .next s' ∧ Keeps s s' := by
  refine ⟨_, rfl, ?_⟩
  repeat'
    first
    | with_reducible assumption | with_reducible exact Keeps.refl _ | with_reducible apply keeps_submitAs

theorem keeps_execCmdCalStore (p : Path) (seq : Seq32) (args : List Word) (s : State) :
    ∃ s', execCmdCalStore p seq args s = .next s' ∧ Keeps s s' := by
  refine ⟨_, rfl, ?_⟩
  repeat'
    first
    | with_reducible assumption | with_reducible exact Keeps.refl _ | with_reducible apply keeps_submitAs

theorem keeps_execCmdFuseWrite (p : Path) (seq : Seq32) (args : List Word) (s : State) :
    ∃ s', execCmdFuseWrite p seq args s = .next s' ∧ Keeps s s' := by
  refine ⟨_, rfl, ?_⟩
  repeat'
    first
    | with_reducible assumption | with_reducible exact Keeps.refl _ | with_reducible apply keeps_submitAs

theorem keeps_execCmdZipJob (p : Path) (seq : Seq32) (args : List Word) (s : State) :
    ∃ s', execCmdZipJob p seq args s = .next s' ∧ Keeps s s' := by
  refine ⟨_, rfl, ?_⟩
  repeat'
    first
    | with_reducible assumption | with_reducible exact Keeps.refl _ | with_reducible apply keeps_submitAs

theorem keeps_execCmdTableStage (p : Path) (seq : Seq32) (args : List Word) (s : State) :
    ∃ s', execCmdTableStage p seq args s = .next s' ∧ Keeps s s' := by
  refine ⟨_, rfl, ?_⟩
  repeat'
    first
    | with_reducible assumption | with_reducible exact Keeps.refl _ | with_reducible apply keeps_submitAs

theorem keeps_execUnknownOpcode (p : Path) (opcode : Nat) (seq : Seq32) (s : State) :
    ∃ s', execUnknownOpcode p opcode seq s = .next s' ∧ Keeps s s' := by
  refine ⟨_, rfl, ?_⟩
  repeat'
    first
    | with_reducible assumption | with_reducible exact Keeps.refl _ | with_reducible apply keeps_ite
    | with_reducible apply keeps_submitAs

theorem keeps_journalReset {u0 : State} (s : State) (h0 : Keeps u0 s) :
    Keeps u0 (journalReset s) := by
  unfold journalReset
  dsimp only
  repeat'
    first
    | with_reducible assumption | (intro _) | with_reducible apply keeps_ite | split
    | (refine Keeps.setCmd ?_ (fun j => by simp only [List.length_map, List.length_drop, List.length_append]; omega))
    | dsimp only

theorem keeps_cmdRegWrite {u0 : State} (s : State) (p : Path) (o : Nat) (v : Word) (h0 : Keeps u0 s) :
    Keeps u0 (cmdRegWrite s p o v) := by
  unfold cmdRegWrite
  dsimp only
  repeat'
    first
    | with_reducible assumption | (intro _) | with_reducible apply keeps_ite
    | with_reducible apply keeps_onPath | dsimp only

end Sys2Proof.Machine
end

