-- ==== Sys2Proof/Laws/KeepsNv.lean ====
section
/-!
SUPPORT. What every operation of Machine/Nv.lean keeps (Keeps): one lemma for each operation that answers a state.
-/
set_option linter.all false

namespace Sys2Proof.Machine

theorem keeps_countReads {u0 : State} (s : State) (r : List NvRead) (h0 : Keeps u0 s) :
    Keeps u0 (countReads s r) := by
  unfold countReads
  dsimp only
  repeat'
    first
    | with_reducible assumption | with_reducible apply keeps_evtIf | with_reducible apply keeps_bumpSat
    | dsimp only

theorem fuseUsed_setFuse {s : State} {f i : Nat} {x : FuseSlot} (hx : x ≠ .blank) (g j : Nat)
    (h : fuseUsed s g j = true) : fuseUsed (setFuse s f i x) g j = true := by
  simp only [fuseUsed, decide_eq_true_eq] at h ⊢
  simp only [setFuse, List.getD_eq_getElem?_getD, List.getElem?_modify] at h ⊢
  by_cases hf : f = g
  · subst hf
    cases hl : s.fuses[f]? with
    | none => simp [hl] at h
    | some l =>
      simp only [hl, Option.getD_some, if_pos, Option.map_eq_map, Option.map_some, List.getElem?_set] at h ⊢
      split
      · rename_i e
        subst e
        split
        · simpa using hx
        · rename_i hn
          rw [List.getElem?_eq_none (by omega)] at h
          exact absurd rfl h
      · exact h
  · simpa [hf] using h

theorem keeps_setFuse {u0 : State} {s : State} {f i : Nat} {x : FuseSlot} (hx : x ≠ .blank) (h0 : Keeps u0 s) :
    Keeps u0 (setFuse s f i x) :=
  h0.setFuses (fun g j h => fuseUsed_setFuse hx g j h)

theorem keeps_setFuse_written {u0 : State} {s : State} {f i v : Nat} (h0 : Keeps u0 s) :
    Keeps u0 (setFuse s f i (.written v)) :=
  keeps_setFuse FuseSlot.noConfusion h0

theorem keeps_setFuse_void {u0 : State} {s : State} {f i : Nat} (h0 : Keeps u0 s) : Keeps u0 (setFuse s f i .void) :=
  keeps_setFuse FuseSlot.noConfusion h0

theorem keeps_persistentBegin {u0 : State} (s : State) (e : JEntry) (h0 : Keeps u0 s) :
    Keeps u0 (persistentBegin s e) := by
  unfold persistentBegin
  repeat'
    first
    | with_reducible assumption | (intro _) | with_reducible apply keeps_ite
    | with_reducible apply keeps_endCmd | with_reducible apply Keeps.record | dsimp only

theorem keeps_storeCommit {u0 : State} (s : State) (e : JEntry) (h0 : Keeps u0 s) :
    Keeps u0 (storeCommit s e) := by
  unfold storeCommit
  repeat'
    first
    | with_reducible assumption | with_reducible apply keeps_ite | with_reducible apply keeps_evt
    | with_reducible apply keeps_bumpSat | with_reducible apply Keeps.record

theorem keeps_storeSpoiled {u0 : State} (s : State) (e : JEntry) (h0 : Keeps u0 s) :
    Keeps u0 (storeSpoiled s e) := by
  unfold storeSpoiled
  repeat'
    first
    | with_reducible assumption | with_reducible apply keeps_ite | with_reducible apply Keeps.record

theorem keeps_stepDone {u0 : State} (s : State) (e : JEntry) (ok : Bool) (h0 : Keeps u0 s) :
    Keeps u0 (stepDone s e ok) := by
  unfold stepDone
  dsimp only
  repeat'
    first
    | with_reducible assumption | (intro _) | with_reducible apply keeps_ite
    | with_reducible apply keeps_onEntry | with_reducible apply keeps_evt
    | with_reducible apply keeps_setFuse_written | with_reducible apply keeps_setFuse_void
    | with_reducible apply keeps_endCmdSlot | with_reducible apply keeps_endCmd
    | with_reducible apply keeps_storeSpoiled | with_reducible apply keeps_storeCommit | split | dsimp only

theorem keeps_execPersistentStepDone (ok : Bool) (s : State) :
    ∃ s', execPersistentStepDone ok s = .next s' ∧ Keeps s s' := by
  refine ⟨_, rfl, ?_⟩
  repeat'
    first
    | with_reducible assumption | with_reducible exact Keeps.refl _ | with_reducible apply keeps_ite
    | with_reducible apply keeps_stepDone | split

theorem keeps_nvInterrupt {u0 : State} (s : State) (h0 : Keeps u0 s) :
    Keeps u0 (nvInterrupt s) := by
  unfold nvInterrupt
  repeat'
    first
    | with_reducible assumption | with_reducible apply keeps_ite
    | with_reducible apply keeps_setFuse_written | with_reducible apply keeps_setFuse_void | split

theorem keeps_chal0Read {u0 : State} (s : State) (p : Path) (h0 : Keeps u0 s) :
    Keeps u0 (chal0Read s p) := by
  unfold chal0Read
  dsimp only
  repeat'
    first
    | with_reducible assumption | (intro _) | with_reducible apply keeps_foldl
    | with_reducible apply keeps_drawn | with_reducible apply keeps_onPath
    | with_reducible apply Keeps.recordDraw | dsimp only

theorem keeps_execChal0Read (p : Path) (s : State) :
    ∃ s', execChal0Read p s = .next s' ∧ Keeps s s' := by
  refine ⟨_, rfl, ?_⟩
  repeat'
    first
    | with_reducible assumption | with_reducible exact Keeps.refl _ | with_reducible apply keeps_ite
    | with_reducible apply keeps_chal0Read

theorem keeps_execChallengeExpiry (p : Path) (s : State) :
    ∃ s', execChallengeExpiry p s = .next s' ∧ Keeps s s' := by
  refine ⟨_, rfl, ?_⟩
  repeat'
    first
    | with_reducible assumption | with_reducible exact Keeps.refl _ | (intro _)
    | with_reducible apply keeps_onPath | dsimp only

theorem keeps_authRefused {u0 : State} (s : State) (p : Path) (reason : Nat) (h0 : Keeps u0 s) :
    Keeps u0 (authRefused s p reason) := by
  unfold authRefused
  dsimp only
  repeat'
    first
    | with_reducible assumption | (intro _) | with_reducible apply keeps_ite
    | with_reducible apply keeps_onPath | with_reducible apply keeps_changeEntry
    | with_reducible apply keeps_refuse | with_reducible apply keeps_bumpSat | with_reducible apply keeps_evt
    | with_reducible apply keeps_wr | with_reducible apply keeps_evtIf | dsimp only

theorem keeps_authEnter {u0 : State} (s : State) (p : Path) (h0 : Keeps u0 s) :
    Keeps u0 (authEnter s p) := by
  unfold authEnter
  dsimp only
  repeat'
    first
    | with_reducible assumption | (intro _) | with_reducible apply keeps_ite
    | with_reducible apply keeps_authRefused | with_reducible apply keeps_onPath
    | with_reducible apply keeps_wr | with_reducible apply keeps_changeEntry | split | dsimp only

theorem keeps_execAuthEnter (p : Path) (s : State) :
    ∃ s', execAuthEnter p s = .next s' ∧ Keeps s s' := by
  refine ⟨_, rfl, ?_⟩
  repeat'
    first
    | with_reducible assumption | with_reducible exact Keeps.refl _ | (intro _)
    | with_reducible apply keeps_gated | with_reducible apply keeps_authEnter | dsimp only

theorem keeps_execAuthLeave (p : Path) (s : State) :
    ∃ s', execAuthLeave p s = .next s' ∧ Keeps s s' := by
  refine ⟨_, rfl, ?_⟩
  repeat'
    first
    | with_reducible assumption | with_reducible exact Keeps.refl _ | (intro _)
    | with_reducible apply keeps_gated | with_reducible apply keeps_lapse | dsimp only

theorem keeps_authWrite {u0 : State} (s : State) (p : Path) (v : Word) (h0 : Keeps u0 s) :
    Keeps u0 (authWrite s p v) := by
  unfold authWrite
  repeat'
    first
    | with_reducible assumption | with_reducible apply keeps_ite | with_reducible apply keeps_authEnter
    | with_reducible apply keeps_lapse | with_reducible apply keeps_refuse

theorem keeps_respWrite {u0 : State} (s : State) (p : Path) (i : Nat) (v : Word) (h0 : Keeps u0 s) :
    Keeps u0 (respWrite s p i v) := by
  unfold respWrite
  repeat'
    first
    | with_reducible assumption | (intro _) | with_reducible apply keeps_onPath | dsimp only

theorem keeps_execSvcTimeout (p : Path) (s : State) :
    ∃ s', execSvcTimeout p s = .next s' ∧ Keeps s s' := by
  refine ⟨_, rfl, ?_⟩
  repeat'
    first
    | with_reducible assumption | with_reducible exact Keeps.refl _ | with_reducible apply keeps_lapse

theorem keeps_execLockoutEnd (s : State) :
    ∃ s', execLockoutEnd s = .next s' ∧ Keeps s s' := by
  refine ⟨_, rfl, ?_⟩
  repeat'
    first
    | with_reducible assumption | with_reducible exact Keeps.refl _ | (intro _)
    | with_reducible apply keeps_when | with_reducible apply keeps_wr | dsimp only

theorem keeps_execNsconfAsserted (s : State) :
    ∃ s', execNsconfAsserted s = .next s' ∧ Keeps s s' := by
  refine ⟨_, rfl, ?_⟩
  repeat'
    first
    | with_reducible assumption | with_reducible exact Keeps.refl _ | with_reducible apply Keeps.record

theorem keeps_execNsconfRelease (s : State) :
    ∃ s', execNsconfRelease s = .next s' ∧ Keeps s s' := by
  refine ⟨_, rfl, ?_⟩
  repeat'
    first
    | with_reducible assumption | with_reducible exact Keeps.refl _ | with_reducible apply Keeps.record

end Sys2Proof.Machine
end

