-- ==== Sys2Proof/Laws/KeepsKernel.lean ====
section
/-!
SUPPORT. What every operation of Machine/Kernel.lean keeps (Keeps): one lemma for each operation that answers a state.
-/
set_option linter.all false

namespace Sys2Proof.Machine

theorem keeps_kPut {u0 : State} (s : State) (k i off : Nat) (w : Word) (h0 : Keeps u0 s) :
    Keeps u0 (kPut s k i off w) := by
  unfold kPut
  repeat'
    first
    | with_reducible assumption | (intro _) | with_reducible apply keeps_onEng | dsimp only

theorem keeps_kPutVal {u0 : State} (s : State) (k i off : Nat) (x : Frac) (h0 : Keeps u0 s) :
    Keeps u0 (kPutVal s k i off x) := by
  unfold kPutVal
  repeat'
    first
    | with_reducible assumption | with_reducible apply keeps_kPut

theorem keeps_takeParams {u0 : State} (s : State) (k i : Nat) (h0 : Keeps u0 s) :
    Keeps u0 (takeParams s k i) := by
  unfold takeParams
  dsimp only
  repeat'
    first
    | with_reducible assumption | (intro _) | with_reducible apply keeps_ite | with_reducible apply keeps_foldl
    | with_reducible apply keeps_onEng | with_reducible apply keeps_kPut | dsimp only

theorem keeps_adaptWidth {u0 : State} (s : State) (k i c : Nat) (b : InBlock) (h0 : Keeps u0 s) :
    Keeps u0 (adaptWidth s k i c b) := by
  unfold adaptWidth
  dsimp only
  repeat'
    first
    | with_reducible assumption | with_reducible apply keeps_ite | with_reducible apply keeps_kPutVal
    | with_reducible apply keeps_kPut | dsimp only

theorem keeps_kernelBuSlot {u0 s : State} {k i : Nat} {b : InBlock} (h0 : Keeps u0 s) :
    OkAll (Keeps u0) (kernelBuSlot s k i b) := by
  unfold kernelBuSlot
  dsimp only
  refine OkAll.ite (OkAll.map (fun zs => ?_)) (OkAll.ok h0)
  repeat'
    first
    | with_reducible assumption | (intro _) | with_reducible apply keeps_foldl
    | with_reducible apply keeps_adaptWidth | with_reducible apply keeps_portWrite

theorem keeps_consume {u0 : State} (s : State) (k i n fuel : Nat) (h0 : Keeps u0 s) :
    Keeps u0 (consume s k i n fuel) := by
  induction fuel generalizing s with
  | zero => exact h0
  | succ fuel ih =>
    unfold consume
    dsimp only
    repeat'
      first
      | with_reducible assumption | with_reducible apply keeps_ite | with_reducible apply ih
      | with_reducible apply keeps_kPut | with_reducible apply keeps_onEng

theorem keeps_kernelPosSlot {u0 : State} (s : State) (k i : Nat) (b : InBlock) (h0 : Keeps u0 s) :
    Keeps u0 (kernelPosSlot s k i b) := by
  unfold kernelPosSlot
  dsimp only
  repeat'
    first
    | with_reducible assumption | (intro _) | with_reducible apply keeps_ite
    | with_reducible apply keeps_consume | with_reducible apply keeps_onEng | with_reducible apply keeps_kPut
    | with_reducible apply keeps_kPutVal | dsimp only

theorem keeps_learn {u0 s : State} {k i : Nat} {j e : Frac} (h0 : Keeps u0 s) :
    OkAll (Keeps u0) (learn s k i j e) :=
  OkAll.map (fun _ => keeps_onEng _ _ _ h0)

theorem keeps_countCycle {u0 : State} (s : State) (k i : Nat) (b : InBlock) (h0 : Keeps u0 s) :
    Keeps u0 (countCycle s k i b) := by
  unfold countCycle
  dsimp only
  repeat'
    first
    | with_reducible assumption | (intro _) | with_reducible apply keeps_ite | with_reducible apply keeps_kPut
    | with_reducible apply keeps_onEng | dsimp only

theorem keeps_velocityLoop {u0 s : State} {k i : Nat} {b : InBlock} (h0 : Keeps u0 s) :
    OkAll (Keeps u0) (velocityLoop s k i b) := by
  unfold velocityLoop
  extract_lets r e imax v x ev rcOn j
  split
  · exact OkAll.error _ _
  · dsimp only
    refine OkAll.ite (OkAll.mapState (keeps_learn ?_) (fun x hx => keeps_countCycle _ _ _ _ hx)) (OkAll.ok ?_)
    all_goals
      repeat'
        first
        | with_reducible assumption | with_reducible apply keeps_ite | with_reducible apply keeps_kPutVal

theorem keeps_kernelVelSlot {u0 s : State} {k i : Nat} {b : InBlock} (h0 : Keeps u0 s) :
    OkAll (Keeps u0) (kernelVelSlot s k i b) := by
  unfold kernelVelSlot
  extract_lets e
  have hz : ∀ v, OkAll (Keeps u0) (.ok (kPutVal s k i 0x0c v)) := fun v => OkAll.ok (keeps_kPutVal _ _ _ _ _ h0)
  exact OkAll.ite (OkAll.ite (hz _) (OkAll.ite (keeps_velocityLoop h0) (hz _))) (OkAll.ok h0)

theorem keeps_kernelEffect {u0 s : State} {k ev : Nat} {b : InBlock} (h0 : Keeps u0 s) :
    OkAll (Keeps u0) (kernelEffect s k ev b) := by
  unfold kernelEffect
  dsimp only
  split
  · exact OkAll.foldlM (keeps_foldl h0 (fun x i hx => keeps_takeParams x k i hx)) (fun x i hx => keeps_kernelBuSlot hx)
  · exact OkAll.ok (keeps_foldl h0 (fun x i hx => keeps_kernelPosSlot x k i b hx))
  · exact OkAll.foldlM h0 (fun x i hx => keeps_kernelVelSlot hx)
  · exact OkAll.ok h0

theorem keeps_drawBelow {u0 : State} (s : State) (n : Nat) (h0 : Keeps u0 s) :
    Keeps u0 (drawBelow s n).2 := by
  unfold drawBelow
  repeat'
    first
    | with_reducible assumption | with_reducible apply keeps_drawn | with_reducible apply Keeps.recordDraw

theorem keeps_kernelStage {u0 : State} (s : State) (k ev : Nat) (h0 : Keeps u0 s) :
    Keeps u0 (kernelStage s k ev) := by
  unfold kernelStage
  dsimp only
  split
  · exact keeps_engFault _ _ _ _ _ h0
  · split
    · exact keeps_engFault _ _ _ _ _ h0
    · rename_i t ht
      have hk : Keeps u0 t := keeps_kernelEffect h0 t ht
      repeat'
        first
        | with_reducible assumption | with_reducible apply keeps_ite | with_reducible apply keeps_engFault
        | with_reducible apply keeps_endStage | with_reducible apply keeps_evt
        | with_reducible apply keeps_bumpSat | with_reducible apply keeps_drawBelow

theorem keeps_execStageStart (k : Fin 12) (s : State) :
    ∃ s', execStageStart k s = .next s' ∧ Keeps s s' := by
  refine ⟨_, rfl, ?_⟩
  repeat'
    first
    | with_reducible assumption | with_reducible exact Keeps.refl _ | (intro _)
    | with_reducible apply keeps_ite | with_reducible apply keeps_when | with_reducible apply keeps_onEng
    | with_reducible apply keeps_kernelStage | split | dsimp only

end Sys2Proof.Machine
end

