-- ==== Sys2Proof/Laws/KeepsZip.lean ====
section
/-!
SUPPORT. What every operation of Machine/Zip.lean keeps (Keeps): one lemma for each operation that answers a state.
-/
set_option linter.all false

namespace Sys2Proof.Machine

theorem keeps_zipEnd {u0 : State} (s : State) (e : JEntry) (code : Nat) (h0 : Keeps u0 s) :
    Keeps u0 (zipEnd s e code) := by
  unfold zipEnd
  dsimp only
  repeat'
    first
    | with_reducible assumption | with_reducible apply keeps_ite | with_reducible apply keeps_endCmd
    | with_reducible apply keeps_wr | with_reducible apply keeps_evt | with_reducible apply keeps_bumpSat
    | dsimp only

theorem keeps_zipBegin {u0 : State} (s : State) (e : JEntry) (h0 : Keeps u0 s) :
    Keeps u0 (zipBegin s e) := by
  unfold zipBegin
  dsimp only
  repeat'
    first
    | with_reducible assumption | with_reducible apply keeps_ite | with_reducible apply keeps_wr
    | with_reducible apply keeps_zipEnd | dsimp only

theorem keeps_zipQuires {u0 : State} (s : State) (i : Nat) (seq : Seq32) (q n : Nat) (l : List Slot)
    (h0 : Keeps u0 s) : Keeps u0 (zipQuires s i seq q n l) := by
  induction n generalizing s l with
  | zero => exact h0
  | succ n ih =>
    unfold zipQuires
    split
    · exact h0
    · exact ih _ _ (keeps_pushQuire _ _ _ _ _ h0)

theorem keeps_zipStore {u0 : State} (s : State) (e : JEntry) (out : List Nat) (h0 : Keeps u0 s) :
    Keeps u0 (zipStore s e out) := by
  unfold zipStore
  dsimp only
  repeat'
    first
    | with_reducible assumption | (intro _) | with_reducible apply keeps_ite
    | with_reducible apply keeps_zipQuires | with_reducible apply keeps_closeQuire
    | with_reducible apply keeps_vatPutBytes | dsimp only

theorem keeps_zipOut {u0 : State} (s : State) (e : JEntry) (r : ZipRun) (h0 : Keeps u0 s) :
    Keeps u0 (zipOut s e r).1 := by
  unfold zipOut
  dsimp only
  repeat'
    first
    | with_reducible assumption | with_reducible apply keeps_ite | with_reducible apply keeps_ite_fst
    | with_reducible apply keeps_drawBelow | dsimp only

theorem keeps_zipFinish {u0 : State} (s : State) (e : JEntry) (lost : Option Nat) (h0 : Keeps u0 s) :
    Keeps u0 (zipFinish s e lost) := by
  unfold zipFinish
  dsimp only
  repeat'
    first
    | with_reducible assumption | with_reducible apply keeps_ite | with_reducible apply keeps_zipEnd
    | with_reducible apply keeps_vatError | with_reducible apply keeps_zipOut
    | with_reducible apply keeps_zipStore | with_reducible apply keeps_drawBelow
    | with_reducible apply keeps_wr | dsimp only

theorem keeps_zipCut {u0 : State} (s : State) (e : JEntry) (h0 : Keeps u0 s) :
    Keeps u0 (zipCut s e) := by
  unfold zipCut
  dsimp only
  repeat'
    first
    | with_reducible assumption | with_reducible apply keeps_ite | with_reducible apply keeps_drawBelow
    | with_reducible apply keeps_zipStore | with_reducible apply keeps_wr | dsimp only

theorem keeps_execZipJobDone (s : State) (lost : Option Nat) :
    ∃ s', execZipJobDone s lost = .next s' ∧ Keeps s s' := by
  refine ⟨_, rfl, ?_⟩
  repeat'
    first
    | with_reducible assumption | with_reducible exact Keeps.refl _ | with_reducible apply keeps_zipFinish
    | split

theorem keeps_abortJob {u0 : State} (s : State) (h0 : Keeps u0 s) :
    Keeps u0 (abortJob s) := by
  unfold abortJob
  repeat'
    first
    | with_reducible assumption | with_reducible apply keeps_zipEnd | with_reducible apply keeps_zipCut | split

theorem keeps_execAbortJob (p : Path) (s : State) :
    ∃ s', execAbortJob p s = .next s' ∧ Keeps s s' := by
  refine ⟨_, rfl, ?_⟩
  repeat'
    first
    | with_reducible assumption | with_reducible exact Keeps.refl _ | with_reducible apply keeps_gated
    | with_reducible apply keeps_abortJob

theorem keeps_zipCtrl {u0 : State} (s : State) (w : Who) (v : Word) (h0 : Keeps u0 s) :
    Keeps u0 (zipCtrl s w v) := by
  unfold zipCtrl
  repeat'
    first
    | with_reducible assumption | with_reducible apply keeps_ite | with_reducible apply keeps_abortJob
    | with_reducible apply keeps_refuse

theorem keeps_zipInterrupt {u0 : State} (s : State) (h0 : Keeps u0 s) :
    Keeps u0 (zipInterrupt s) := by
  unfold zipInterrupt
  repeat'
    first
    | with_reducible assumption | with_reducible apply keeps_evt | with_reducible apply keeps_bumpSat
    | with_reducible apply keeps_zipCut | split

end Sys2Proof.Machine
end

