-- ==== Sys2Proof/Laws/KeepsCmd.lean ====
section
/-!
SUPPORT. What every operation of Machine/Cmd.lean keeps (Keeps): one lemma for each operation that answers a state.
-/
set_option linter.all false

namespace Sys2Proof.Machine

theorem keeps_transferBegin {u0 : State} (s : State) (e : JEntry) (h0 : Keeps u0 s) :
    Keeps u0 (transferBegin s e) := by
  unfold transferBegin
  repeat'
    first
    | with_reducible assumption | with_reducible apply keeps_ite | with_reducible apply keeps_endCmd

theorem keeps_execTransferDone (s : State) :
    ∃ s', execTransferDone s = .next s' ∧ Keeps s s' := by
  refine ⟨_, rfl, ?_⟩
  repeat'
    first
    | with_reducible assumption | with_reducible exact Keeps.refl _ | with_reducible apply keeps_endCmd
    | with_reducible apply keeps_vatPutBytes | split

theorem keeps_tableBegin {u0 : State} (s : State) (e : JEntry) (h0 : Keeps u0 s) :
    Keeps u0 (tableBegin s e) := by
  unfold tableBegin
  repeat'
    first
    | with_reducible assumption | with_reducible apply keeps_ite | with_reducible apply keeps_endCmd

theorem keeps_execTableStageDone (s : State) :
    ∃ s', execTableStageDone s = .next s' ∧ Keeps s s' := by
  refine ⟨_, rfl, ?_⟩
  repeat'
    first
    | with_reducible assumption | with_reducible exact Keeps.refl _ | (intro _)
    | with_reducible apply keeps_ite | with_reducible apply keeps_stageCopy | with_reducible apply keeps_onEng
    | with_reducible apply keeps_endCmd | with_reducible apply keeps_tableEvent | split | dsimp only

theorem keeps_startCmd {u0 : State} (s : State) (e : JEntry) (h0 : Keeps u0 s) :
    Keeps u0 (startCmd s e) := by
  unfold startCmd
  dsimp only
  repeat'
    first
    | with_reducible assumption | (intro _) | with_reducible apply keeps_ite
    | with_reducible apply keeps_onEntry | with_reducible apply keeps_endCmd
    | with_reducible apply keeps_transferBegin | with_reducible apply keeps_zipBegin
    | with_reducible apply keeps_tableBegin | with_reducible apply keeps_persistentBegin | dsimp only

theorem keeps_execCommandExecute (s : State) :
    ∃ s', execCommandExecute s = .next s' ∧ Keeps s s' := by
  refine ⟨_, rfl, ?_⟩
  repeat'
    first
    | with_reducible assumption | with_reducible exact Keeps.refl _ | with_reducible apply keeps_ite
    | with_reducible apply keeps_startCmd | split

theorem keeps_duskRunning {u0 : State} (s : State) (h0 : Keeps u0 s) :
    Keeps u0 (duskRunning s) := by
  unfold duskRunning
  dsimp only
  repeat'
    first
    | with_reducible assumption | (intro _) | with_reducible apply keeps_ite
    | with_reducible apply keeps_stepDone | with_reducible apply keeps_endCmd
    | with_reducible apply keeps_onEntry | with_reducible apply keeps_zipInterrupt | split | dsimp only

theorem keeps_duskCommands {u0 : State} (s : State) (h0 : Keeps u0 s) :
    Keeps u0 (duskCommands s) := by
  unfold duskCommands
  dsimp only
  repeat'
    first
    | with_reducible assumption | (intro _) | with_reducible apply keeps_ite
    | with_reducible apply keeps_duskRunning
    | (refine Keeps.setCmd ?_ (fun j => by simp only [List.length_map, List.length_drop, List.length_append]; omega))
    | dsimp only

theorem keeps_cmdReset {u0 : State} (s : State) (h0 : Keeps u0 s) :
    Keeps u0 (cmdReset s) := by
  unfold cmdReset
  repeat'
    first
    | with_reducible assumption | with_reducible apply keeps_journalReset
    | with_reducible apply keeps_nvInterrupt | with_reducible apply keeps_zipInterrupt

end Sys2Proof.Machine
end

