-- ==== Sys2Proof/Laws/KeepsEdge.lean ====
section
/-!
SUPPORT. What every operation of Machine/Edge.lean keeps (Keeps): one lemma for each operation that answers a state.
-/
set_option linter.all false

namespace Sys2Proof.Machine

theorem keeps_onEdge {u0 : State} (s : State) (n : Nat) (f : EdgeState → EdgeState) (h0 : Keeps u0 s) :
    Keeps u0 (onEdge s n f) := by
  unfold onEdge
  repeat'
    first
    | with_reducible assumption | with_reducible apply Keeps.record

theorem keeps_edgeDeliver {u0 : State} (s : State) (n idx : Nat) (w : Word) (lost : Bool) (h0 : Keeps u0 s) :
    Keeps u0 (edgeDeliver s n idx w lost) := by
  unfold edgeDeliver
  repeat'
    first
    | with_reducible assumption | with_reducible apply keeps_feedStreams

theorem keeps_enqueue {u0 : State} (s : State) (n idx item : Nat) (val : Option Int) (clip : Bool) (ecc : WordErr)
    (h0 : Keeps u0 s) :
    Keeps u0 (enqueue s n idx item val clip ecc) := by
  unfold enqueue
  dsimp only
  repeat'
    first
    | with_reducible assumption | (intro _) | with_reducible apply keeps_ite | with_reducible apply keeps_evt
    | with_reducible apply keeps_onEdge | split | dsimp only

theorem keeps_drainEdge {u0 : State} (s : State) (n : Nat) (h0 : Keeps u0 s) :
    Keeps u0 (drainEdge s n) := by
  unfold drainEdge
  dsimp only
  repeat'
    first
    | with_reducible assumption | (intro _) | with_reducible apply keeps_ite
    | with_reducible apply keeps_fromQueue | with_reducible apply keeps_onEdge
    | with_reducible apply keeps_edgeDeliver | split | dsimp only

theorem keeps_tickEdges {u0 : State} (s : State) (h0 : Keeps u0 s) :
    Keeps u0 (tickEdges s) := by
  unfold tickEdges
  repeat'
    first
    | with_reducible assumption | (intro _) | with_reducible apply keeps_ite | with_reducible apply keeps_foldl
    | with_reducible apply keeps_drainEdge

theorem keeps_queueEdge {u0 : State} (s : State) (n i : Nat) (falling : Bool) (t : Nat) (ecc : WordErr) (h0 : Keeps
    u0 s) :
    Keeps u0 (queueEdge s n i falling t ecc) := by
  unfold queueEdge
  dsimp only
  repeat'
    first
    | with_reducible assumption | with_reducible apply keeps_ite | with_reducible apply keeps_enqueue
    | dsimp only

theorem keeps_edgeError {u0 : State} (s : State) (n : Nat) (quad : Bool) (h0 : Keeps u0 s) :
    Keeps u0 (edgeError s n quad) := by
  unfold edgeError
  repeat'
    first
    | with_reducible assumption | (intro _) | with_reducible apply keeps_evt
    | with_reducible apply keeps_onEdge | dsimp only

theorem keeps_countEdge {u0 : State} (s : State) (n t : Nat) (up : Bool) (h0 : Keeps u0 s) :
    Keeps u0 (countEdge s n t up) := by
  unfold countEdge
  dsimp only
  repeat'
    first
    | with_reducible assumption | (intro _) | with_reducible apply keeps_ite
    | with_reducible apply keeps_onEdge | dsimp only

theorem keeps_zEdge {u0 : State} (s : State) (n t : Nat) (h0 : Keeps u0 s) :
    Keeps u0 (zEdge s n t) := by
  unfold zEdge
  dsimp only
  repeat'
    first
    | with_reducible assumption | (intro _) | with_reducible apply keeps_ite
    | with_reducible apply keeps_onEdge | with_reducible apply keeps_evt | with_reducible apply Keeps.record
    | dsimp only

theorem keeps_endInterval {u0 : State} (s : State) (n : Nat) (stop : Option Nat) (ecc : WordErr) (h0 : Keeps u0 s) :
    Keeps u0 (endInterval s n stop ecc) := by
  unfold endInterval
  dsimp only
  repeat'
    first
    | with_reducible assumption | (intro _) | with_reducible apply keeps_ite
    | with_reducible apply keeps_onEdge | with_reducible apply keeps_countEdge
    | with_reducible apply keeps_enqueue | split | dsimp only

theorem keeps_ignoredEdge {u0 : State} (s : State) (n : Nat) (h0 : Keeps u0 s) :
    Keeps u0 (ignoredEdge s n) := by
  unfold ignoredEdge
  repeat'
    first
    | with_reducible assumption | (intro _) | with_reducible apply keeps_onEdge | dsimp only

theorem keeps_quadEdge {u0 : State} (s : State) (n : Nat) (inp t : Nat) (a b together : Bool) (h0 : Keeps u0 s) :
    Keeps u0 (quadEdge s n inp t a b together) := by
  unfold quadEdge
  dsimp only
  repeat'
    first
    | with_reducible assumption | (intro _) | with_reducible apply keeps_ite
    | with_reducible apply keeps_onEdge | with_reducible apply keeps_edgeError
    | with_reducible apply keeps_countEdge | dsimp only

theorem keeps_encEdge {u0 : State} (s : State) (n : Nat) (x : EncEdge) (h0 : Keeps u0 s) :
    Keeps u0 (encEdge s n x) := by
  unfold encEdge
  dsimp only
  repeat'
    first
    | with_reducible assumption | (intro _) | with_reducible apply keeps_ite
    | with_reducible apply keeps_quadEdge | with_reducible apply keeps_zEdge
    | with_reducible apply keeps_queueEdge | with_reducible apply keeps_countEdge
    | with_reducible apply keeps_ignoredEdge | with_reducible apply keeps_onEdge
    | with_reducible apply keeps_endInterval | split | dsimp only

theorem keeps_execEncEdge (ch : Fin 64) (e : EncEdge) (s : State) :
    ∃ s', execEncEdge ch e s = .next s' ∧ Keeps s s' := by
  refine ⟨_, rfl, ?_⟩
  repeat'
    first
    | with_reducible assumption | with_reducible exact Keeps.refl _ | with_reducible apply keeps_encEdge

theorem keeps_execIntervalTimeout (ch : Fin 64) (s : State) :
    ∃ s', execIntervalTimeout ch s = .next s' ∧ Keeps s s' := by
  refine ⟨_, rfl, ?_⟩
  repeat'
    first
    | with_reducible assumption | with_reducible exact Keeps.refl _ | (intro _)
    | with_reducible apply keeps_when | with_reducible apply keeps_evt | with_reducible apply keeps_endInterval
    | dsimp only

theorem keeps_execEdgePositionRecord (ch : Fin 64) (s : State) :
    ∃ s', execEdgePositionRecord ch s = .next s' ∧ Keeps s s' := by
  refine ⟨_, rfl, ?_⟩
  repeat'
    first
    | with_reducible assumption | with_reducible exact Keeps.refl _ | (intro _)
    | with_reducible apply keeps_when | with_reducible apply keeps_onEdge
    | with_reducible apply keeps_edgeDeliver | dsimp only

theorem keeps_execSsiTransfer (ch : Fin 64) (s : State) :
    ∃ s', execSsiTransfer ch s = .next s' ∧ Keeps s s' := by
  refine ⟨_, rfl, ?_⟩
  repeat'
    first
    | with_reducible assumption | with_reducible exact Keeps.refl _ | (intro _)
    | with_reducible apply keeps_ite | with_reducible apply keeps_when | with_reducible apply keeps_onGc
    | with_reducible apply keeps_ignoredEdge | with_reducible apply keeps_onEdge | dsimp only

theorem keeps_execSsiTransferDone (ch : Fin 64) (idleHigh : Bool) (bits : List Bool) (s : State) :
    ∃ s', execSsiTransferDone ch idleHigh bits s = .next s' ∧ Keeps s s' := by
  refine ⟨_, rfl, ?_⟩
  repeat'
    first
    | with_reducible assumption | with_reducible exact Keeps.refl _ | (intro _)
    | with_reducible apply keeps_ite | with_reducible apply keeps_foldl | with_reducible apply keeps_onEdge
    | with_reducible apply keeps_edgeError | split | dsimp only

theorem keeps_execInterpolatorTable (ch : Fin 64) (input : Fin 3) (s : State) (hits : List Nat) :
    ∃ s', execInterpolatorTable ch input s hits = .next s' ∧ Keeps s s' := by
  refine ⟨_, rfl, ?_⟩
  repeat'
    first
    | with_reducible assumption | with_reducible exact Keeps.refl _ | (intro _)
    | with_reducible apply keeps_ite | with_reducible apply keeps_evtIf | with_reducible apply keeps_onEdge
    | dsimp only

theorem keeps_armReference {u0 : State} (s : State) (n : Nat) (h0 : Keeps u0 s) :
    Keeps u0 (armReference s n) := by
  unfold armReference
  repeat'
    first
    | with_reducible assumption | (intro _) | with_reducible apply keeps_onEdge | dsimp only

theorem keeps_execArmReference (p : Path) (ch : Fin 64) (s : State) :
    ∃ s', execArmReference p ch s = .next s' ∧ Keeps s s' := by
  refine ⟨_, rfl, ?_⟩
  repeat'
    first
    | with_reducible assumption | with_reducible exact Keeps.refl _ | (intro _)
    | with_reducible apply keeps_gated | with_reducible apply keeps_armReference | dsimp only

theorem keeps_loadPreset {u0 : State} (s : State) (n : Nat) (h0 : Keeps u0 s) :
    Keeps u0 (loadPreset s n) := by
  unfold loadPreset
  dsimp only
  repeat'
    first
    | with_reducible assumption | (intro _) | with_reducible apply keeps_onEdge | dsimp only

theorem keeps_execLoadPreset (p : Path) (ch : Fin 64) (s : State) :
    ∃ s', execLoadPreset p ch s = .next s' ∧ Keeps s s' := by
  refine ⟨_, rfl, ?_⟩
  repeat'
    first
    | with_reducible assumption | with_reducible exact Keeps.refl _ | (intro _)
    | with_reducible apply keeps_gated | with_reducible apply keeps_loadPreset | dsimp only

theorem keeps_clearCounters {u0 : State} (s : State) (n : Nat) (h0 : Keeps u0 s) :
    Keeps u0 (clearCounters s n) := by
  unfold clearCounters
  repeat'
    first
    | with_reducible assumption | (intro _) | with_reducible apply keeps_onEdge | dsimp only

theorem keeps_execClearCounters (p : Path) (ch : Fin 64) (s : State) :
    ∃ s', execClearCounters p ch s = .next s' ∧ Keeps s s' := by
  refine ⟨_, rfl, ?_⟩
  repeat'
    first
    | with_reducible assumption | with_reducible exact Keeps.refl _ | (intro _)
    | with_reducible apply keeps_gated | with_reducible apply keeps_clearCounters | dsimp only

theorem keeps_edgeCtrl {u0 : State} (s : State) (w : Who) (p : Nat) (v : Word) (h0 : Keeps u0 s) :
    Keeps u0 (edgeCtrl s w p v) := by
  unfold edgeCtrl
  dsimp only
  repeat'
    first
    | with_reducible assumption | with_reducible apply keeps_armReference
    | with_reducible apply keeps_loadPreset | with_reducible apply keeps_clearCounters
    | with_reducible apply keeps_refuse | split | dsimp only

theorem keeps_edgeBoundary {u0 : State} (s : State) (n idx : Nat) (h0 : Keeps u0 s) :
    Keeps u0 (edgeBoundary s n idx) := by
  unfold edgeBoundary
  dsimp only
  repeat'
    first
    | with_reducible assumption | (intro _) | with_reducible apply keeps_onEdge | dsimp only

theorem keeps_edgeCommitted {u0 : State} (s0 s : State) (p : Nat) (h0 : Keeps u0 s) :
    Keeps u0 (edgeCommitted s0 s p) := by
  unfold edgeCommitted
  dsimp only
  repeat'
    first
    | with_reducible assumption | (intro _) | with_reducible apply keeps_ite | with_reducible apply keeps_foldl
    | with_reducible apply keeps_onEdge | with_reducible apply keeps_onGc | dsimp only

end Sys2Proof.Machine
end

