-- ==== Sys2Proof/Laws/KeepsSafe.lean ====
section
/-!
SUPPORT. What every operation of Machine/Safe.lean keeps (Keeps): one lemma for each operation that answers a state.
-/
set_option linter.all false

namespace Sys2Proof.Machine

theorem keeps_onSafe {u0 : State} (s : State) (f : SafeState → SafeState) (h0 : Keeps u0 s) :
    Keeps u0 (onSafe s f) := by
  unfold onSafe
  repeat'
    first
    | with_reducible assumption | with_reducible apply Keeps.record

theorem keeps_onPair {u0 : State} (s : State) (k : Nat) (f : SafePair → SafePair) (h0 : Keeps u0 s) :
    Keeps u0 (onPair s k f) := by
  unfold onPair
  repeat'
    first
    | with_reducible assumption | (intro _) | with_reducible apply keeps_onSafe | dsimp only

theorem keeps_onOut {u0 : State} (s : State) (x : Nat) (f : SafeOut → SafeOut) (h0 : Keeps u0 s) :
    Keeps u0 (onOut s x f) := by
  unfold onOut
  repeat'
    first
    | with_reducible assumption | (intro _) | with_reducible apply keeps_onSafe | dsimp only

theorem keeps_onMon {u0 : State} (s : State) (m : Nat) (f : SafeMon → SafeMon) (h0 : Keeps u0 s) :
    Keeps u0 (onMon s m f) := by
  unfold onMon
  repeat'
    first
    | with_reducible assumption | (intro _) | with_reducible apply keeps_onSafe | dsimp only

theorem keeps_onConn {u0 : State} (s : State) (c : Nat) (f : SafeConn → SafeConn) (h0 : Keeps u0 s) :
    Keeps u0 (onConn s c f) := by
  unfold onConn
  repeat'
    first
    | with_reducible assumption | (intro _) | with_reducible apply keeps_onSafe | dsimp only

theorem keeps_safeMark {u0 : State} (s : State) (i : Nat) (h0 : Keeps u0 s) :
    Keeps u0 (safeMark s i) := by
  unfold safeMark
  repeat'
    first
    | with_reducible assumption | with_reducible apply keeps_evt | with_reducible apply keeps_wr

theorem keeps_safeFault {u0 : State} (s : State) (i : Nat) (h0 : Keeps u0 s) :
    Keeps u0 (safeFault s i) := by
  unfold safeFault
  repeat'
    first
    | with_reducible assumption | with_reducible apply keeps_faultSrc | with_reducible apply keeps_safeMark

theorem keeps_startSs1 {u0 : State} (s : State) (x : Nat) (h0 : Keeps u0 s) :
    Keeps u0 (startSs1 s x) := by
  unfold startSs1
  dsimp only
  repeat'
    first
    | with_reducible assumption | (intro _) | with_reducible apply keeps_ite | with_reducible apply keeps_evt
    | with_reducible apply keeps_onOut | dsimp only

theorem keeps_demandSeen {u0 : State} (s : State) (x : Nat) (h0 : Keeps u0 s) :
    Keeps u0 (demandSeen s x) := by
  unfold demandSeen
  dsimp only
  repeat'
    first
    | with_reducible assumption | (intro _) | with_reducible apply keeps_ite | with_reducible apply keeps_onOut
    | with_reducible apply keeps_startSs1 | dsimp only

theorem keeps_allDemands {u0 : State} (s : State) (h0 : Keeps u0 s) :
    Keeps u0 (allDemands s) := by
  unfold allDemands
  repeat'
    first
    | with_reducible assumption | (intro _) | with_reducible apply keeps_foldl
    | with_reducible apply keeps_demandSeen

theorem keeps_resetPulse {u0 : State} (s : State) (k : Nat) (h0 : Keeps u0 s) :
    Keeps u0 (resetPulse s k) := by
  unfold resetPulse
  repeat'
    first
    | with_reducible assumption | (intro _) | with_reducible apply keeps_ite | with_reducible apply keeps_foldl
    | with_reducible apply keeps_onOut | dsimp only

theorem keeps_pairChanged {u0 : State} (s : State) (k : Nat) (h0 : Keeps u0 s) :
    Keeps u0 (pairChanged s k) := by
  unfold pairChanged
  dsimp only
  repeat'
    first
    | with_reducible assumption | (intro _) | with_reducible apply keeps_ite
    | with_reducible apply keeps_onPair | with_reducible apply keeps_resetPulse
    | with_reducible apply keeps_allDemands | split | dsimp only

theorem keeps_safeInput {u0 : State} (s : State) (i : Nat) (level : Bool) (h0 : Keeps u0 s) :
    Keeps u0 (safeInput s i level) := by
  unfold safeInput
  dsimp only
  repeat'
    first
    | with_reducible assumption | (intro _) | with_reducible apply keeps_ite
    | with_reducible apply keeps_onSafe | with_reducible apply keeps_pairChanged | dsimp only

theorem keeps_execSafeInput (i : Fin 16) (level : Bool) (s : State) :
    ∃ s', execSafeInput i level s = .next s' ∧ Keeps s s' := by
  refine ⟨_, rfl, ?_⟩
  repeat'
    first
    | with_reducible assumption | with_reducible exact Keeps.refl _ | with_reducible apply keeps_safeInput

theorem keeps_execDiscrepancy (k : Fin 8) (s : State) :
    ∃ s', execDiscrepancy k s = .next s' ∧ Keeps s s' := by
  refine ⟨_, rfl, ?_⟩
  repeat'
    first
    | with_reducible assumption | with_reducible exact Keeps.refl _ | (intro _)
    | with_reducible apply keeps_when | with_reducible apply keeps_allDemands
    | with_reducible apply keeps_safeFault | with_reducible apply keeps_onPair | dsimp only

theorem keeps_execTestPulse (k : Fin 4) (s : State) :
    ∃ s', execTestPulse k s = .next s' ∧ Keeps s s' := by
  refine ⟨_, rfl, ?_⟩
  repeat'
    first
    | with_reducible assumption | with_reducible exact Keeps.refl _ | (intro _)
    | with_reducible apply keeps_foldl | with_reducible apply keeps_when | with_reducible apply keeps_onSafe
    | dsimp only

theorem keeps_execTestPulseEnd (k : Fin 4) (s : State) :
    ∃ s', execTestPulseEnd k s = .next s' ∧ Keeps s s' := by
  refine ⟨_, rfl, ?_⟩
  repeat'
    first
    | with_reducible assumption | with_reducible exact Keeps.refl _ | (intro _)
    | with_reducible apply keeps_ite | with_reducible apply keeps_foldl | with_reducible apply keeps_when
    | with_reducible apply keeps_onSafe | with_reducible apply keeps_allDemands
    | with_reducible apply keeps_safeFault | with_reducible apply keeps_onPair | dsimp only

theorem keeps_execPulseHoldEnd (k : Fin 4) (s : State) :
    ∃ s', execPulseHoldEnd k s = .next s' ∧ Keeps s s' := by
  refine ⟨_, rfl, ?_⟩
  repeat'
    first
    | with_reducible assumption | with_reducible exact Keeps.refl _ | (intro _)
    | with_reducible apply keeps_ite | with_reducible apply keeps_foldl | with_reducible apply keeps_when
    | with_reducible apply keeps_pairChanged | with_reducible apply keeps_onSafe | dsimp only

theorem keeps_outOff {u0 : State} (s : State) (x : Nat) (demand : Bool) (h0 : Keeps u0 s) :
    Keeps u0 (outOff s x demand) := by
  unfold outOff
  repeat'
    first
    | with_reducible assumption | (intro _) | with_reducible apply keeps_ite | with_reducible apply keeps_evtIf
    | with_reducible apply keeps_onOut | dsimp only

theorem keeps_countSlow {u0 : State} (s : State) (x : Nat) (h0 : Keeps u0 s) :
    Keeps u0 (countSlow s x) := by
  unfold countSlow
  dsimp only
  repeat'
    first
    | with_reducible assumption | (intro _) | with_reducible apply keeps_ite | with_reducible apply keeps_onOut
    | dsimp only

theorem keeps_outCycle {u0 : State} (s : State) (x : Nat) (h0 : Keeps u0 s) :
    Keeps u0 (outCycle s x) := by
  unfold outCycle
  dsimp only
  repeat'
    first
    | with_reducible assumption | (intro _) | with_reducible apply keeps_ite
    | with_reducible apply keeps_countSlow | with_reducible apply keeps_demandSeen
    | with_reducible apply keeps_onOut | with_reducible apply keeps_outOff | with_reducible apply keeps_evt
    | dsimp only

theorem keeps_monCycle {u0 : State} (s : State) (m : Nat) (h0 : Keeps u0 s) :
    Keeps u0 (monCycle s m) := by
  unfold monCycle
  dsimp only
  repeat'
    first
    | with_reducible assumption | (intro _) | with_reducible apply keeps_ite | with_reducible apply keeps_onMon
    | with_reducible apply keeps_safeMark | split | dsimp only

theorem keeps_sfcCycle {u0 : State} (s : State) (flowOk cfgOk : Bool) (h0 : Keeps u0 s) :
    Keeps u0 (sfcCycle s flowOk cfgOk) := by
  unfold sfcCycle
  dsimp only
  repeat'
    first
    | with_reducible assumption | (intro _) | with_reducible apply keeps_ite | with_reducible apply keeps_foldl
    | with_reducible apply keeps_onSafe | with_reducible apply keeps_safeFault
    | with_reducible apply keeps_monCycle | with_reducible apply keeps_outCycle | dsimp only

theorem keeps_execSfcCycle (flowOk cfgOk : Bool) (s : State) :
    ∃ s', execSfcCycle flowOk cfgOk s = .next s' ∧ Keeps s s' := by
  refine ⟨_, rfl, ?_⟩
  repeat'
    first
    | with_reducible assumption | with_reducible exact Keeps.refl _ | (intro _)
    | with_reducible apply keeps_when | with_reducible apply keeps_sfcCycle | dsimp only

theorem keeps_lifeLost {u0 : State} (s : State) (h0 : Keeps u0 s) :
    Keeps u0 (lifeLost s) := by
  unfold lifeLost
  dsimp only
  repeat'
    first
    | with_reducible assumption | (intro _) | with_reducible apply keeps_foldl
    | with_reducible apply keeps_safeFault | with_reducible apply keeps_onSafe
    | with_reducible apply keeps_outOff | dsimp only

theorem keeps_execSfcSelfTest (ok : Bool) (s : State) :
    ∃ s', execSfcSelfTest ok s = .next s' ∧ Keeps s s' := by
  refine ⟨_, rfl, ?_⟩
  repeat'
    first
    | with_reducible assumption | with_reducible exact Keeps.refl _ | with_reducible apply keeps_when
    | with_reducible apply keeps_lifeLost

theorem keeps_execLifeSignalLost (s : State) :
    ∃ s', execLifeSignalLost s = .next s' ∧ Keeps s s' := by
  refine ⟨_, rfl, ?_⟩
  repeat'
    first
    | with_reducible assumption | with_reducible exact Keeps.refl _ | with_reducible apply keeps_when
    | with_reducible apply keeps_lifeLost

theorem keeps_execSwitchTest (x : Fin 4) (s : State) :
    ∃ s', execSwitchTest x s = .next s' ∧ Keeps s s' := by
  refine ⟨_, rfl, ?_⟩
  repeat'
    first
    | with_reducible assumption | with_reducible exact Keeps.refl _ | (intro _)
    | with_reducible apply keeps_when | with_reducible apply keeps_onOut | dsimp only

theorem keeps_execSwitchTestEnd (x : Fin 4) (s : State) :
    ∃ s', execSwitchTestEnd x s = .next s' ∧ Keeps s s' := by
  refine ⟨_, rfl, ?_⟩
  repeat'
    first
    | with_reducible assumption | with_reducible exact Keeps.refl _ | (intro _)
    | with_reducible apply keeps_ite | with_reducible apply keeps_when | with_reducible apply keeps_outOff
    | with_reducible apply keeps_onOut | dsimp only

theorem keeps_execSwitchReadback (x : Fin 4) (high level : Bool) (s : State) :
    ∃ s', execSwitchReadback x high level s = .next s' ∧ Keeps s s' := by
  refine ⟨_, rfl, ?_⟩
  repeat'
    first
    | with_reducible assumption | with_reducible exact Keeps.refl _ | (intro _)
    | with_reducible apply keeps_ite | with_reducible apply keeps_onOut | dsimp only

theorem keeps_execReadbackFault (x : Fin 4) (high : Bool) (s : State) :
    ∃ s', execReadbackFault x high s = .next s' ∧ Keeps s s' := by
  refine ⟨_, rfl, ?_⟩
  repeat'
    first
    | with_reducible assumption | with_reducible exact Keeps.refl _ | (intro _)
    | with_reducible apply keeps_ite | with_reducible apply keeps_when | with_reducible apply keeps_safeFault
    | with_reducible apply keeps_outOff | dsimp only

theorem keeps_execSs1Expiry (x : Fin 4) (s : State) :
    ∃ s', execSs1Expiry x s = .next s' ∧ Keeps s s' := by
  refine ⟨_, rfl, ?_⟩
  repeat'
    first
    | with_reducible assumption | with_reducible exact Keeps.refl _ | (intro _)
    | with_reducible apply keeps_when | with_reducible apply keeps_outOff | dsimp only

theorem keeps_execSafeframeSend (c : Fin 32) (s : State) :
    ∃ s', execSafeframeSend c s = .next s' ∧ Keeps s s' := by
  refine ⟨_, rfl, ?_⟩
  repeat'
    first
    | with_reducible assumption | with_reducible exact Keeps.refl _ | (intro _)
    | with_reducible apply keeps_ite | with_reducible apply keeps_when | with_reducible apply keeps_failSafe
    | with_reducible apply keeps_sendRing | with_reducible apply keeps_onConn | dsimp only

theorem keeps_failSafe {u0 : State} (s : State) (c cause : Nat) (h0 : Keeps u0 s) :
    Keeps u0 (failSafe s c cause) := by
  unfold failSafe
  repeat'
    first
    | with_reducible assumption | (intro _) | with_reducible apply keeps_ite
    | with_reducible apply keeps_allDemands | with_reducible apply keeps_evt
    | with_reducible apply keeps_onConn | dsimp only

theorem keeps_sfDiscard {u0 : State} (s : State) (c : Nat) (f : SafeConn → SafeConn) (h0 : Keeps u0 s) :
    Keeps u0 (sfDiscard s c f) := by
  unfold sfDiscard
  repeat'
    first
    | with_reducible assumption | (intro _) | with_reducible apply keeps_onConn
    | with_reducible apply Keeps.record | dsimp only

theorem keeps_safeFrame {u0 : State} (s : State) (c : Nat) (m : SafeMsg) (h0 : Keeps u0 s) :
    Keeps u0 (safeFrame s c m) := by
  unfold safeFrame
  dsimp only
  repeat'
    first
    | with_reducible assumption | (intro _) | with_reducible apply keeps_ite
    | with_reducible apply keeps_sfDiscard | with_reducible apply keeps_failSafe
    | with_reducible apply keeps_onConn | with_reducible apply keeps_allDemands | split | dsimp only

theorem keeps_execSafeframe (c : Fin 32) (m : SafeMsg) (s : State) :
    ∃ s', execSafeframe c m s = .next s' ∧ Keeps s s' := by
  refine ⟨_, rfl, ?_⟩
  repeat'
    first
    | with_reducible assumption | with_reducible exact Keeps.refl _ | (intro _)
    | with_reducible apply keeps_when | with_reducible apply keeps_safeFrame | dsimp only

theorem keeps_safeFrameRx {u0 : State} (s : State) (m : SafeMsg) (h0 : Keeps u0 s) :
    Keeps u0 (safeFrameRx s m) := by
  unfold safeFrameRx
  repeat'
    first
    | with_reducible assumption | (intro _) | with_reducible apply keeps_ite | with_reducible apply keeps_foldl
    | with_reducible apply keeps_safeFrame | dsimp only

theorem keeps_execSafeframeWatchdog (c : Fin 32) (s : State) :
    ∃ s', execSafeframeWatchdog c s = .next s' ∧ Keeps s s' := by
  refine ⟨_, rfl, ?_⟩
  repeat'
    first
    | with_reducible assumption | with_reducible exact Keeps.refl _ | (intro _)
    | with_reducible apply keeps_when | with_reducible apply keeps_failSafe | dsimp only

theorem keeps_resetFaults {u0 : State} (s : State) (h0 : Keeps u0 s) :
    Keeps u0 (resetFaults s) := by
  unfold resetFaults
  dsimp only
  repeat'
    first
    | with_reducible assumption | (intro _) | with_reducible apply keeps_ite | with_reducible apply keeps_foldl
    | with_reducible apply keeps_clearBlock | with_reducible apply keeps_wr | with_reducible apply keeps_onOut
    | dsimp only

theorem keeps_resetConnection {u0 : State} (s : State) (c : Nat) (h0 : Keeps u0 s) :
    Keeps u0 (resetConnection s c) := by
  unfold resetConnection
  repeat'
    first
    | with_reducible assumption | (intro _) | with_reducible apply keeps_ite
    | with_reducible apply keeps_onConn | dsimp only

theorem keeps_safeCtrl {u0 : State} (s : State) (w : Who) (v : Word) (h0 : Keeps u0 s) :
    Keeps u0 (safeCtrl s w v) := by
  unfold safeCtrl
  repeat'
    first
    | with_reducible assumption | with_reducible apply keeps_resetFaults
    | with_reducible apply keeps_resetConnection | with_reducible apply keeps_refuse | split

theorem keeps_execResetFaults (p : Path) (s : State) :
    ∃ s', execResetFaults p s = .next s' ∧ Keeps s s' := by
  refine ⟨_, rfl, ?_⟩
  repeat'
    first
    | with_reducible assumption | with_reducible exact Keeps.refl _ | with_reducible apply keeps_hostAct
    | with_reducible apply keeps_resetFaults

theorem keeps_execResetConnection (p : Path) (c : Fin 32) (s : State) :
    ∃ s', execResetConnection p c s = .next s' ∧ Keeps s s' := by
  refine ⟨_, rfl, ?_⟩
  repeat'
    first
    | with_reducible assumption | with_reducible exact Keeps.refl _ | (intro _)
    | with_reducible apply keeps_hostAct | with_reducible apply keeps_resetConnection | dsimp only

theorem keeps_safeCommitted {u0 : State} (s0 s : State) (h0 : Keeps u0 s) :
    Keeps u0 (safeCommitted s0 s) := by
  unfold safeCommitted
  dsimp only
  repeat'
    first
    | with_reducible assumption | (intro _) | with_reducible apply keeps_ite | with_reducible apply keeps_foldl
    | with_reducible apply keeps_onConn | with_reducible apply keeps_pairChanged | dsimp only

theorem keeps_safeDawn {u0 : State} (s : State) (h0 : Keeps u0 s) :
    Keeps u0 (safeDawn s) := by
  unfold safeDawn
  repeat'
    first
    | with_reducible assumption | (intro _) | with_reducible apply keeps_ite
    | with_reducible apply keeps_faultSrc | with_reducible apply keeps_onSafe | dsimp only

theorem keeps_safeWarm {u0 : State} (s : State) (h0 : Keeps u0 s) :
    Keeps u0 (safeWarm s) := by
  unfold safeWarm
  repeat'
    first
    | with_reducible assumption | (intro _) | with_reducible apply keeps_onSafe | dsimp only

end Sys2Proof.Machine
end

