-- ==== Sys2Proof/Laws/KeepsSample.lean ====
section
/-!
SUPPORT. What every operation of Machine/Sample.lean keeps (Keeps): one lemma for each operation that answers a state.
-/
set_option linter.all false

namespace Sys2Proof.Machine

theorem keeps_rawDeliver {u0 : State} (s : State) (ch n : Nat) (w : Word) (h0 : Keeps u0 s) :
    Keeps u0 (rawDeliver s ch n w) := by
  unfold rawDeliver
  repeat'
    first
    | with_reducible assumption | with_reducible apply keeps_feedChain | with_reducible apply keeps_slotRecord

theorem keeps_execRawRecord (ch : Fin 128) (c : Conversion) (s : State) :
    ∃ s', execRawRecord ch c s = .next s' ∧ Keeps s s' := by
  refine ⟨_, rfl, ?_⟩
  repeat'
    first
    | with_reducible assumption | with_reducible exact Keeps.refl _ | (intro _)
    | with_reducible apply keeps_when | with_reducible apply keeps_rawSample
    | with_reducible apply keeps_fromQueue | with_reducible apply keeps_rawDeliver | dsimp only

theorem keeps_latchCounts {u0 : State} (s : State) (r : Nat) (h0 : Keeps u0 s) :
    Keeps u0 (latchCounts s r) := by
  unfold latchCounts
  repeat'
    first
    | with_reducible assumption | (intro _) | with_reducible apply keeps_foldl
    | with_reducible apply keeps_onBand | dsimp only

theorem keeps_blockEdgeFault {u0 : State} (s : State) (r n : Nat) (h0 : Keeps u0 s) :
    Keeps u0 (blockEdgeFault s r n) := by
  unfold blockEdgeFault
  dsimp only
  repeat'
    first
    | with_reducible assumption | (intro _) | with_reducible apply keeps_ite
    | with_reducible apply keeps_onSlot | with_reducible apply keeps_slotFault | dsimp only

theorem keeps_writeBlock {u0 : State} (s : State) (k n : Nat) (h0 : Keeps u0 s) :
    Keeps u0 (writeBlock s k n) := by
  unfold writeBlock
  dsimp only
  repeat'
    first
    | with_reducible assumption | (intro _) | with_reducible apply keeps_foldl
    | with_reducible apply keeps_edgeBoundary | with_reducible apply keeps_latchCounts
    | with_reducible apply keeps_onEng | with_reducible apply keeps_blockEdgeFault | dsimp only

theorem keeps_boundaryEvents {u0 : State} (s : State) (k n : Nat) (h0 : Keeps u0 s) :
    Keeps u0 (boundaryEvents s k n) := by
  unfold boundaryEvents
  dsimp only
  repeat'
    first
    | with_reducible assumption | (intro _) | with_reducible apply keeps_ite | with_reducible apply keeps_onEng
    | with_reducible apply keeps_raiseEvent | split | with_reducible apply Keeps.record | dsimp only

theorem keeps_execBu (k : Fin 12) (s : State) :
    ∃ s', execBu k s = .next s' ∧ Keeps s s' := by
  refine ⟨_, rfl, ?_⟩
  repeat'
    first
    | with_reducible assumption | with_reducible exact Keeps.refl _ | (intro _)
    | with_reducible apply keeps_ite | with_reducible apply keeps_when | with_reducible apply keeps_writeBlock
    | with_reducible apply keeps_boundaryEvents | dsimp only

theorem keeps_deliverOut {u0 : State} (s : State) (c ch : Nat) (o : OutRec) (h0 : Keeps u0 s) :
    Keeps u0 (deliverOut s c ch o) := by
  unfold deliverOut
  dsimp only
  repeat'
    first
    | with_reducible assumption | (intro _) | with_reducible apply keeps_ite
    | with_reducible apply keeps_onChain | with_reducible apply keeps_feedStreams
    | with_reducible apply keeps_redStep | with_reducible apply keeps_reamsRecord
    | with_reducible apply keeps_liteDeliver | with_reducible apply keeps_subDeliver
    | with_reducible apply keeps_aoDeliver | dsimp only

theorem keeps_filteredRecord {u0 : State} (s : State) (ch : Nat) (h0 : Keeps u0 s) :
    Keeps u0 (filteredRecord s ch) := by
  unfold filteredRecord
  repeat'
    first
    | with_reducible assumption | (intro _) | with_reducible apply keeps_deliverOut
    | with_reducible apply keeps_onChain | split | dsimp only

theorem keeps_execFilteredRecord (ch : Nat) (s : State) :
    ∃ s', execFilteredRecord ch s = .next s' ∧ Keeps s s' := by
  refine ⟨_, rfl, ?_⟩
  repeat'
    first
    | with_reducible assumption | with_reducible exact Keeps.refl _ | with_reducible apply keeps_filteredRecord

theorem keeps_trigEdge {u0 : State} (s : State) (pin : Nat) (falling : Bool) (stamp : Nat) (h0 : Keeps u0 s) :
    Keeps u0 (trigEdge s pin falling stamp) := by
  unfold trigEdge
  dsimp only
  repeat'
    first
    | with_reducible assumption | with_reducible apply keeps_ite | with_reducible apply keeps_reamsPin
    | with_reducible apply keeps_pinMarks | with_reducible apply Keeps.record | dsimp only

theorem keeps_execTriginEdge (pin : Fin 4) (falling : Bool) (stamp : Nat) (s : State) (ecc : WordErr) :
    ∃ s', execTriginEdge pin falling stamp s ecc = .next s' ∧ Keeps s s' := by
  refine ⟨_, rfl, ?_⟩
  repeat'
    first
    | with_reducible assumption | with_reducible exact Keeps.refl _ | with_reducible apply keeps_readStamp
    | with_reducible apply keeps_trigEdge | dsimp only

end Sys2Proof.Machine
end

