-- ==== Sys2Proof/Laws/KeepsStatus.lean ====
section
/-!
SUPPORT. What every operation of Machine/Status.lean keeps (Keeps): one lemma for each operation that answers a state.
-/
set_option linter.all false

namespace Sys2Proof.Machine

theorem keeps_setPower {u0 : State} (s : State) (st : PowerState) (h0 : Keeps u0 s) :
    Keeps u0 (setPower s st) := by
  unfold setPower
  repeat'
    first
    | with_reducible assumption | with_reducible apply keeps_evtIf | with_reducible apply Keeps.record

theorem keeps_takeStatus {u0 : State} (s : State) (p : Path) (h0 : Keeps u0 s) :
    Keeps u0 (takeStatus s p) := by
  unfold takeStatus
  repeat'
    first
    | with_reducible assumption | (intro _) | with_reducible apply keeps_onPath | dsimp only

end Sys2Proof.Machine
end

