-- ==== Sys2Proof/Laws/KeepsTwin.lean ====
section
/-!
SUPPORT. What every operation of Machine/Twin.lean keeps (Keeps): one lemma for each operation that answers a state.
-/
set_option linter.all false

namespace Sys2Proof.Machine

theorem keeps_onTwin {u0 : State} (s : State) (f : TwinState → TwinState) (h0 : Keeps u0 s) :
    Keeps u0 (onTwin s f) := by
  unfold onTwin
  repeat'
    first
    | with_reducible assumption | with_reducible apply Keeps.record

theorem keeps_pairingRetry {u0 : State} (s : State) (l : List Word) (nonce : BitVec 128) (answer : List Word) (h0 :
    Keeps u0 s) :
    Keeps u0 (pairingRetry s l nonce answer) := by
  unfold pairingRetry
  dsimp only
  repeat'
    first
    | with_reducible assumption | (intro _) | with_reducible apply keeps_ite
    | with_reducible apply keeps_sendTwin | with_reducible apply keeps_drawn
    | with_reducible apply keeps_onTwin | with_reducible apply keeps_refuse
    | with_reducible apply Keeps.recordDraw | dsimp only

theorem keeps_execPairingRetry (remote : List Word) (nonce : BitVec 128) (s : State) (answer : List Word) :
    ∃ s', execPairingRetry remote nonce s answer = .next s' ∧ Keeps s s' := by
  refine ⟨_, rfl, ?_⟩
  repeat'
    first
    | with_reducible assumption | with_reducible exact Keeps.refl _ | (intro _)
    | with_reducible apply keeps_when | with_reducible apply keeps_pairingRetry | dsimp only

theorem keeps_pairUp {u0 : State} (s : State) (h0 : Keeps u0 s) :
    Keeps u0 (pairUp s) := by
  unfold pairUp
  dsimp only
  repeat'
    first
    | with_reducible assumption | (intro _) | with_reducible apply keeps_ite | with_reducible apply keeps_evt
    | with_reducible apply keeps_onTwin | with_reducible apply keeps_wr | with_reducible apply keeps_sendTwin
    | dsimp only

theorem keeps_heartbeatSend {u0 : State} (s : State) (h0 : Keeps u0 s) :
    Keeps u0 (heartbeatSend s) := by
  unfold heartbeatSend
  dsimp only
  repeat'
    first
    | with_reducible assumption | (intro _) | with_reducible apply keeps_ite | with_reducible apply keeps_wr
    | with_reducible apply keeps_onTwin | with_reducible apply keeps_sendRing
    | with_reducible apply keeps_sendTwin | dsimp only

theorem keeps_execHeartbeatSend (s : State) :
    ∃ s', execHeartbeatSend s = .next s' ∧ Keeps s s' := by
  refine ⟨_, rfl, ?_⟩
  repeat'
    first
    | with_reducible assumption | with_reducible exact Keeps.refl _ | with_reducible apply keeps_when
    | with_reducible apply keeps_heartbeatSend

theorem keeps_heartbeatHeard {u0 : State} (s : State) (w : Word) (h0 : Keeps u0 s) :
    Keeps u0 (heartbeatHeard s w) := by
  unfold heartbeatHeard
  dsimp only
  repeat'
    first
    | with_reducible assumption | (intro _) | with_reducible apply keeps_ite
    | with_reducible apply keeps_bumpSat | with_reducible apply keeps_wr | with_reducible apply keeps_onTwin
    | split | dsimp only

theorem keeps_takeAlone {u0 : State} (s : State) (n : Nat) (h0 : Keeps u0 s) :
    Keeps u0 (takeAlone s n) := by
  unfold takeAlone
  repeat'
    first
    | with_reducible assumption | (intro _) | with_reducible apply keeps_onTwin | dsimp only

theorem keeps_arbAct {u0 : State} (s : State) (level : Bool) (n : Nat) (h0 : Keeps u0 s) :
    Keeps u0 (arbAct s level n) := by
  unfold arbAct
  dsimp only
  repeat'
    first
    | with_reducible assumption | (intro _) | with_reducible apply keeps_ite
    | with_reducible apply keeps_onTwin | with_reducible apply keeps_sendTwin
    | with_reducible apply keeps_evtIf | with_reducible apply keeps_takeAlone | dsimp only

theorem keeps_arbChange {u0 : State} (s : State) (level : Bool) (h0 : Keeps u0 s) :
    Keeps u0 (arbChange s level) := by
  unfold arbChange
  dsimp only
  repeat'
    first
    | with_reducible assumption | with_reducible apply keeps_ite | with_reducible apply keeps_arbAct
    | with_reducible apply Keeps.record | dsimp only

theorem keeps_arbAgain {u0 : State} (s : State) (h0 : Keeps u0 s) :
    Keeps u0 (arbAgain s) := by
  unfold arbAgain
  repeat'
    first
    | with_reducible assumption | with_reducible apply keeps_ite | with_reducible apply keeps_arbAct

theorem keeps_handoverHeard {u0 : State} (s : State) (m : HandoverMsg) (h0 : Keeps u0 s) :
    Keeps u0 (handoverHeard s m) := by
  unfold handoverHeard
  repeat'
    first
    | with_reducible assumption | (intro _) | with_reducible apply keeps_ite
    | with_reducible apply keeps_onTwin | dsimp only

theorem keeps_execHandoverFrame (m : HandoverMsg) (s : State) :
    ∃ s', execHandoverFrame m s = .next s' ∧ Keeps s s' := by
  refine ⟨_, rfl, ?_⟩
  repeat'
    first
    | with_reducible assumption | with_reducible exact Keeps.refl _ | with_reducible apply keeps_handoverHeard

theorem keeps_moveExcitation {u0 : State} (s : State) (n : Nat) (h0 : Keeps u0 s) :
    Keeps u0 (moveExcitation s n) := by
  unfold moveExcitation
  dsimp only
  repeat'
    first
    | with_reducible assumption | (intro _) | with_reducible apply keeps_ite | with_reducible apply keeps_foldl
    | with_reducible apply keeps_excChange | with_reducible apply keeps_onInput | dsimp only

theorem keeps_handoverDone {u0 : State} (s : State) (h : Handover) (h0 : Keeps u0 s) :
    Keeps u0 (handoverDone s h) := by
  unfold handoverDone
  dsimp only
  repeat'
    first
    | with_reducible assumption | (intro _) | with_reducible apply keeps_wr64 | with_reducible apply keeps_evt
    | with_reducible apply keeps_bumpSat | with_reducible apply keeps_moveExcitation
    | with_reducible apply keeps_arbAgain | with_reducible apply keeps_onTwin | dsimp only

theorem keeps_handoverRelease {u0 : State} (s : State) (h : Handover) (k : Nat) (h0 : Keeps u0 s) :
    Keeps u0 (handoverRelease s h k) := by
  unfold handoverRelease
  dsimp only
  repeat'
    first
    | with_reducible assumption | (intro _) | with_reducible apply keeps_ite | with_reducible apply keeps_foldl
    | with_reducible apply keeps_onGc | with_reducible apply keeps_releaseSlots
    | with_reducible apply keeps_onTwin | with_reducible apply keeps_setPower
    | with_reducible apply keeps_handoverDone | dsimp only

theorem keeps_execHandoverRelease (k : Fin 12) (s : State) :
    ∃ s', execHandoverRelease k s = .next s' ∧ Keeps s s' := by
  refine ⟨_, rfl, ?_⟩
  repeat'
    first
    | with_reducible assumption | with_reducible exact Keeps.refl _ | with_reducible apply keeps_ite
    | with_reducible apply keeps_handoverRelease | split

theorem keeps_takeSlot {u0 : State} (s : State) (h : Handover) (r : Nat) (h0 : Keeps u0 s) :
    Keeps u0 (takeSlot s h r) := by
  unfold takeSlot
  dsimp only
  repeat'
    first
    | with_reducible assumption | (intro _) | with_reducible apply keeps_ite
    | with_reducible apply keeps_onSlot | with_reducible apply keeps_applyReaction
    | with_reducible apply keeps_faultSrc | with_reducible apply keeps_evt | with_reducible apply keeps_setLegs
    | with_reducible apply keeps_enterRun | split | dsimp only

theorem keeps_handoverTake {u0 : State} (s : State) (h : Handover) (k : Nat) (h0 : Keeps u0 s) :
    Keeps u0 (handoverTake s h k) := by
  unfold handoverTake
  dsimp only
  repeat'
    first
    | with_reducible assumption | (intro _) | with_reducible apply keeps_ite | with_reducible apply keeps_foldl
    | with_reducible apply keeps_takeSlot | with_reducible apply keeps_onTwin
    | with_reducible apply keeps_syncSlot | with_reducible apply keeps_setPower
    | with_reducible apply keeps_handoverDone | with_reducible apply keeps_takeSlots | dsimp only

theorem keeps_execHandoverTake (k : Fin 12) (s : State) :
    ∃ s', execHandoverTake k s = .next s' ∧ Keeps s s' := by
  refine ⟨_, rfl, ?_⟩
  repeat'
    first
    | with_reducible assumption | with_reducible exact Keeps.refl _ | with_reducible apply keeps_ite
    | with_reducible apply keeps_handoverTake | split

theorem keeps_execArbMismatch (s : State) :
    ∃ s', execArbMismatch s = .next s' ∧ Keeps s s' := by
  refine ⟨_, rfl, ?_⟩
  repeat'
    first
    | with_reducible assumption | with_reducible exact Keeps.refl _ | (intro _)
    | with_reducible apply keeps_when | with_reducible apply keeps_evt | dsimp only

theorem keeps_partnerLost {u0 : State} (s : State) (h0 : Keeps u0 s) :
    Keeps u0 (partnerLost s) := by
  unfold partnerLost
  dsimp only
  repeat'
    first
    | with_reducible assumption | (intro _) | with_reducible apply keeps_ite
    | with_reducible apply keeps_bumpSat | with_reducible apply keeps_evt | with_reducible apply keeps_onTwin
    | with_reducible apply keeps_takeAlone | with_reducible apply Keeps.record | dsimp only

theorem keeps_execMirrorFrameSend (k : Fin 12) (s : State) :
    ∃ s', execMirrorFrameSend k s = .next s' ∧ Keeps s s' := by
  refine ⟨_, rfl, ?_⟩
  repeat'
    first
    | with_reducible assumption | with_reducible exact Keeps.refl _ | (intro _)
    | with_reducible apply keeps_ite | with_reducible apply keeps_when | with_reducible apply keeps_sendTwin
    | dsimp only

theorem keeps_mirrorHeard {u0 : State} (s : State) (m : MirrorMsg) (h0 : Keeps u0 s) :
    Keeps u0 (mirrorHeard s m) := by
  unfold mirrorHeard
  repeat'
    first
    | with_reducible assumption | (intro _) | with_reducible apply keeps_ite | with_reducible apply keeps_onEng
    | with_reducible apply keeps_onTwin | dsimp only

theorem keeps_execMirrorFrame (m : MirrorMsg) (s : State) :
    ∃ s', execMirrorFrame m s = .next s' ∧ Keeps s s' := by
  refine ⟨_, rfl, ?_⟩
  repeat'
    first
    | with_reducible assumption | with_reducible exact Keeps.refl _ | with_reducible apply keeps_mirrorHeard

theorem keeps_positionsHeard {u0 : State} (s : State) (l : List StreamPos) (h0 : Keeps u0 s) :
    Keeps u0 (positionsHeard s l) := by
  unfold positionsHeard
  repeat'
    first
    | with_reducible assumption | (intro _) | with_reducible apply keeps_foldl
    | with_reducible apply keeps_joinStream | with_reducible apply keeps_onTwin | dsimp only

theorem keeps_snapshotHeard {u0 : State} (s : State) (m : SnapshotMsg) (h0 : Keeps u0 s) :
    Keeps u0 (snapshotHeard s m) := by
  unfold snapshotHeard
  dsimp only
  repeat'
    first
    | with_reducible assumption | (intro _) | with_reducible apply keeps_ite
    | with_reducible apply keeps_positionsHeard | with_reducible apply keeps_wr
    | with_reducible apply keeps_evt | with_reducible apply keeps_onTwin | with_reducible apply Keeps.record
    | dsimp only

theorem keeps_execSnapshot (m : SnapshotMsg) (s : State) :
    ∃ s', execSnapshot m s = .next s' ∧ Keeps s s' := by
  refine ⟨_, rfl, ?_⟩
  repeat'
    first
    | with_reducible assumption | with_reducible exact Keeps.refl _ | with_reducible apply keeps_snapshotHeard

theorem keeps_twinAckHeard {u0 : State} (s : State) (m : AckMsg) (h0 : Keeps u0 s) :
    Keeps u0 (twinAckHeard s m) := by
  unfold twinAckHeard
  repeat'
    first
    | with_reducible assumption | with_reducible apply keeps_ite | with_reducible apply keeps_ackStream

theorem keeps_setRelease {u0 : State} (s : State) (b : Bool) (h0 : Keeps u0 s) :
    Keeps u0 (setRelease s b) := by
  unfold setRelease
  repeat'
    first
    | with_reducible assumption | (intro _) | with_reducible apply keeps_onTwin | dsimp only

theorem keeps_twinCtrl {u0 : State} (s : State) (w : Who) (v : Word) (h0 : Keeps u0 s) :
    Keeps u0 (twinCtrl s w v) := by
  unfold twinCtrl
  repeat'
    first
    | with_reducible assumption | with_reducible apply keeps_setRelease | with_reducible apply keeps_refuse
    | split

theorem keeps_execRequestRelease (p : Path) (s : State) :
    ∃ s', execRequestRelease p s = .next s' ∧ Keeps s s' := by
  refine ⟨_, rfl, ?_⟩
  repeat'
    first
    | with_reducible assumption | with_reducible exact Keeps.refl _ | (intro _)
    | with_reducible apply keeps_gated | with_reducible apply keeps_setRelease | dsimp only

theorem keeps_execCancelRelease (p : Path) (s : State) :
    ∃ s', execCancelRelease p s = .next s' ∧ Keeps s s' := by
  refine ⟨_, rfl, ?_⟩
  repeat'
    first
    | with_reducible assumption | with_reducible exact Keeps.refl _ | (intro _)
    | with_reducible apply keeps_gated | with_reducible apply keeps_setRelease | dsimp only

end Sys2Proof.Machine
end

