-- ==== Sys2Proof/Laws/KeepsRing.lean ====
section
/-!
SUPPORT. What every operation of Machine/Ring.lean keeps (Keeps): one lemma for each operation that answers a state.
-/
set_option linter.all false

namespace Sys2Proof.Machine

theorem keeps_onRing {u0 : State} (s : State) (f : RingState → RingState) (h0 : Keeps u0 s) :
    Keeps u0 (onRing s f) := by
  unfold onRing
  repeat'
    first
    | with_reducible assumption | with_reducible apply Keeps.record

theorem keeps_onAdm {u0 : State} (s : State) (f : AdmState → AdmState) (h0 : Keeps u0 s) :
    Keeps u0 (onAdm s f) := by
  unfold onAdm
  repeat'
    first
    | with_reducible assumption | with_reducible apply Keeps.record

theorem keeps_seeGen {u0 : State} (s : State) (g : Seq32) (h0 : Keeps u0 s) :
    Keeps u0 (seeGen s g) := by
  unfold seeGen
  repeat'
    first
    | with_reducible assumption | (intro _) | with_reducible apply keeps_ite
    | with_reducible apply keeps_onRing | dsimp only

theorem keeps_hearNode {u0 : State} (s : State) (port : Lane) (b : Beacon) (h0 : Keeps u0 s) :
    Keeps u0 (hearNode s port b) := by
  unfold hearNode
  dsimp only
  repeat'
    first
    | with_reducible assumption | (intro _) | with_reducible apply keeps_ite
    | with_reducible apply keeps_onRing | dsimp only

theorem keeps_beaconNews {u0 : State} (s : State) (b : Beacon) (h0 : Keeps u0 s) :
    Keeps u0 (beaconNews s b) := by
  unfold beaconNews
  dsimp only
  repeat'
    first
    | with_reducible assumption | (intro _) | with_reducible apply keeps_ite
    | with_reducible apply keeps_seeGen | with_reducible apply keeps_onRing | with_reducible apply keeps_evtIf
    | dsimp only

theorem keeps_execDiscoveryBeacon (port : Lane) (b : Beacon) (s : State) :
    ∃ s', execDiscoveryBeacon port b s = .next s' ∧ Keeps s s' := by
  refine ⟨_, rfl, ?_⟩
  repeat'
    first
    | with_reducible assumption | with_reducible exact Keeps.refl _ | (intro _)
    | with_reducible apply keeps_when | with_reducible apply keeps_beaconNews
    | with_reducible apply keeps_hearNode | dsimp only

theorem keeps_execDiscoveryBeaconSend (s : State) :
    ∃ s', execDiscoveryBeaconSend s = .next s' ∧ Keeps s s' := by
  refine ⟨_, rfl, ?_⟩
  repeat'
    first
    | with_reducible assumption | with_reducible exact Keeps.refl _ | with_reducible apply keeps_when
    | with_reducible apply keeps_sendBeacon

theorem keeps_mergeReport {u0 : State} (s : State) (r : LedgerReport) (h0 : Keeps u0 s) :
    Keeps u0 (mergeReport s r) := by
  unfold mergeReport
  repeat'
    first
    | with_reducible assumption | (intro _) | with_reducible apply keeps_foldl
    | with_reducible apply keeps_onAdm | dsimp only

theorem keeps_ledgerHeard {u0 : State} (s : State) (r : LedgerReport) (h0 : Keeps u0 s) :
    Keeps u0 (ledgerHeard s r) := by
  unfold ledgerHeard
  repeat'
    first
    | with_reducible assumption | with_reducible apply keeps_ite | with_reducible apply keeps_mergeReport

theorem keeps_execLedgerReport (r : LedgerReport) (s : State) :
    ∃ s', execLedgerReport r s = .next s' ∧ Keeps s s' := by
  refine ⟨_, rfl, ?_⟩
  repeat'
    first
    | with_reducible assumption | with_reducible exact Keeps.refl _ | with_reducible apply keeps_ledgerHeard

theorem keeps_execLedgerReportSend (s : State) :
    ∃ s', execLedgerReportSend s = .next s' ∧ Keeps s s' := by
  refine ⟨_, rfl, ?_⟩
  repeat'
    first
    | with_reducible assumption | with_reducible exact Keeps.refl _ | (intro _)
    | with_reducible apply keeps_foldl | with_reducible apply keeps_when | with_reducible apply keeps_onRing
    | with_reducible apply keeps_sendRing | dsimp only

theorem keeps_execLedgerRebuilt (s : State) :
    ∃ s', execLedgerRebuilt s = .next s' ∧ Keeps s s' := by
  refine ⟨_, rfl, ?_⟩
  repeat'
    first
    | with_reducible assumption | with_reducible exact Keeps.refl _ | (intro _)
    | with_reducible apply keeps_foldl | with_reducible apply keeps_when | with_reducible apply keeps_evt
    | with_reducible apply keeps_onAdm | with_reducible apply keeps_onRing
    | with_reducible apply keeps_rootDecide | dsimp only

theorem keeps_fillBucket {u0 : State} (s : State) (h0 : Keeps u0 s) :
    Keeps u0 (fillBucket s) := by
  unfold fillBucket
  repeat'
    first
    | with_reducible assumption | (intro _) | with_reducible apply keeps_onAdm | dsimp only

theorem keeps_takeRoot {u0 : State} (s : State) (rebuild : Bool) (h0 : Keeps u0 s) :
    Keeps u0 (takeRoot s rebuild) := by
  unfold takeRoot
  dsimp only
  repeat'
    first
    | with_reducible assumption | (intro _) | with_reducible apply keeps_ite | with_reducible apply keeps_evtIf
    | with_reducible apply keeps_onRing | with_reducible apply keeps_onAdm
    | with_reducible apply keeps_fillBucket | with_reducible apply keeps_mergeReport
    | with_reducible apply keeps_portsLost | dsimp only

theorem keeps_giveUpRoot {u0 : State} (s : State) (r : Nat) (h0 : Keeps u0 s) :
    Keeps u0 (giveUpRoot s r) := by
  unfold giveUpRoot
  dsimp only
  repeat'
    first
    | with_reducible assumption | (intro _) | with_reducible apply keeps_onRing
    | with_reducible apply keeps_onAdm | with_reducible apply keeps_evt | dsimp only

theorem keeps_holdAddr {u0 : State} (s : State) (a : Nat) (h0 : Keeps u0 s) :
    Keeps u0 (holdAddr s a) := by
  unfold holdAddr
  repeat'
    first
    | with_reducible assumption | (intro _) | with_reducible apply keeps_ite | with_reducible apply keeps_evt
    | with_reducible apply keeps_onRing | dsimp only

theorem keeps_assignAddrs {u0 : State} (s : State) (h0 : Keeps u0 s) :
    Keeps u0 (assignAddrs s) := by
  unfold assignAddrs
  dsimp only
  repeat'
    first
    | with_reducible assumption | (intro _) | with_reducible apply keeps_ite | with_reducible apply keeps_foldl
    | with_reducible apply keeps_onRing | with_reducible apply keeps_onAdm
    | with_reducible apply keeps_holdAddr | with_reducible apply keeps_evtIf
    | with_reducible apply keeps_sendRing | split | dsimp only

theorem keeps_assignmentSend {u0 : State} (s : State) (h0 : Keeps u0 s) :
    Keeps u0 (assignmentSend s) := by
  unfold assignmentSend
  repeat'
    first
    | with_reducible assumption | with_reducible apply keeps_ite | with_reducible apply keeps_assignAddrs
    | with_reducible apply keeps_takeRoot

theorem keeps_assignmentHeard {u0 : State} (s : State) (a : Assignment) (h0 : Keeps u0 s) :
    Keeps u0 (assignmentHeard s a) := by
  unfold assignmentHeard
  dsimp only
  repeat'
    first
    | with_reducible assumption | (intro _) | with_reducible apply keeps_ite
    | with_reducible apply keeps_seeGen | with_reducible apply keeps_onRing | with_reducible apply keeps_onAdm
    | with_reducible apply keeps_holdAddr | split | dsimp only

theorem keeps_execRootBeaconSend (s : State) :
    ∃ s', execRootBeaconSend s = .next s' ∧ Keeps s s' := by
  refine ⟨_, rfl, ?_⟩
  repeat'
    first
    | with_reducible assumption | with_reducible exact Keeps.refl _ | (intro _)
    | with_reducible apply keeps_when | with_reducible apply keeps_sendRing | dsimp only

theorem keeps_ringCloses {u0 : State} (s : State) (h0 : Keeps u0 s) :
    Keeps u0 (ringCloses s) := by
  unfold ringCloses
  dsimp only
  repeat'
    first
    | with_reducible assumption | (intro _) | with_reducible apply keeps_ite
    | with_reducible apply keeps_onRing | with_reducible apply keeps_evt | with_reducible apply keeps_onAdm
    | dsimp only

theorem keeps_hearRootCopy {u0 : State} (s : State) (port : Lane) (b : RootBeacon) (h0 : Keeps u0 s) :
    Keeps u0 (hearRootCopy s port b) := by
  unfold hearRootCopy
  dsimp only
  repeat'
    first
    | with_reducible assumption | (intro _) | with_reducible apply keeps_ite
    | with_reducible apply keeps_ringCloses | with_reducible apply keeps_onRing | dsimp only

theorem keeps_rootBeaconNews {u0 : State} (s : State) (b : RootBeacon) (h0 : Keeps u0 s) :
    Keeps u0 (rootBeaconNews s b) := by
  unfold rootBeaconNews
  dsimp only
  repeat'
    first
    | with_reducible assumption | (intro _) | with_reducible apply keeps_ite
    | with_reducible apply keeps_seeGen | with_reducible apply keeps_giveUpRoot
    | with_reducible apply keeps_onRing | with_reducible apply keeps_evtIf
    | with_reducible apply keeps_recoverStreams | dsimp only

theorem keeps_execRootBeacon (port : Lane) (b : RootBeacon) (s : State) :
    ∃ s', execRootBeacon port b s = .next s' ∧ Keeps s s' := by
  refine ⟨_, rfl, ?_⟩
  repeat'
    first
    | with_reducible assumption | with_reducible exact Keeps.refl _ | (intro _)
    | with_reducible apply keeps_when | with_reducible apply keeps_hearRootCopy
    | with_reducible apply keeps_rootBeaconNews | dsimp only

theorem keeps_execRootLost (s : State) :
    ∃ s', execRootLost s = .next s' ∧ Keeps s s' := by
  refine ⟨_, rfl, ?_⟩
  repeat'
    first
    | with_reducible assumption | with_reducible exact Keeps.refl _ | (intro _)
    | with_reducible apply keeps_ite | with_reducible apply keeps_when | with_reducible apply keeps_onRing
    | with_reducible apply keeps_takeRoot | dsimp only

theorem keeps_rootAlone {u0 : State} (s : State) (h0 : Keeps u0 s) :
    Keeps u0 (rootAlone s) := by
  unfold rootAlone
  repeat'
    first
    | with_reducible assumption | with_reducible apply keeps_ite | with_reducible apply keeps_assignAddrs
    | with_reducible apply keeps_takeRoot

theorem keeps_execRingBreak (_port : Lane) (west east : Nat) (multiple : Bool) (s : State) :
    ∃ s', execRingBreak _port west east multiple s = .next s' ∧ Keeps s s' := by
  refine ⟨_, rfl, ?_⟩
  repeat'
    first
    | with_reducible assumption | with_reducible exact Keeps.refl _ | (intro _)
    | with_reducible apply keeps_onRing | with_reducible apply keeps_when | with_reducible apply keeps_evtIf
    | with_reducible apply keeps_onAdm | dsimp only

theorem keeps_execAdmissionRequest (r : AdmRequest) (s : State) :
    ∃ s', execAdmissionRequest r s = .next s' ∧ Keeps s s' := by
  refine ⟨_, rfl, ?_⟩
  repeat'
    first
    | with_reducible assumption | with_reducible exact Keeps.refl _ | (intro _)
    | with_reducible apply keeps_when | with_reducible apply keeps_rootRequest | dsimp only

theorem keeps_execAdmissionRelease (r : AdmRequest) (s : State) :
    ∃ s', execAdmissionRelease r s = .next s' ∧ Keeps s s' := by
  refine ⟨_, rfl, ?_⟩
  repeat'
    first
    | with_reducible assumption | with_reducible exact Keeps.refl _ | (intro _)
    | with_reducible apply keeps_when | with_reducible apply keeps_rootRelease | dsimp only

theorem keeps_admissionHeard {u0 : State} (s : State) (r : AdmRequest) (h0 : Keeps u0 s) :
    Keeps u0 (admissionHeard s r) := by
  unfold admissionHeard
  repeat'
    first
    | with_reducible assumption | with_reducible apply keeps_ite | with_reducible apply keeps_rootRelease
    | with_reducible apply keeps_rootRequest

theorem keeps_replyHeard {u0 : State} (s : State) (r : AdmReply) (h0 : Keeps u0 s) :
    Keeps u0 (replyHeard s r) := by
  unfold replyHeard
  repeat'
    first
    | with_reducible assumption | (intro _) | with_reducible apply keeps_ite
    | with_reducible apply keeps_admResult | split | dsimp only

theorem keeps_execAdmissionReply (r : AdmReply) (s : State) :
    ∃ s', execAdmissionReply r s = .next s' ∧ Keeps s s' := by
  refine ⟨_, rfl, ?_⟩
  repeat'
    first
    | with_reducible assumption | with_reducible exact Keeps.refl _ | with_reducible apply keeps_replyHeard

theorem keeps_execAdmissionRetry (i : Fin 64) (s : State) :
    ∃ s', execAdmissionRetry i s = .next s' ∧ Keeps s s' := by
  refine ⟨_, rfl, ?_⟩
  repeat'
    first
    | with_reducible assumption | with_reducible exact Keeps.refl _ | with_reducible apply keeps_sendAdm
    | split

theorem keeps_execEnoroot (i : Fin 64) (s : State) :
    ∃ s', execEnoroot i s = .next s' ∧ Keeps s s' := by
  refine ⟨_, rfl, ?_⟩
  repeat'
    first
    | with_reducible assumption | with_reducible exact Keeps.refl _ | with_reducible apply keeps_admResult
    | split

theorem keeps_linkLost {u0 : State} (s : State) (l : Lane) (h0 : Keeps u0 s) :
    Keeps u0 (linkLost s l) := by
  unfold linkLost
  dsimp only
  repeat'
    first
    | with_reducible assumption | with_reducible apply keeps_ite | with_reducible apply keeps_linkFall
    | with_reducible apply keeps_portsLost | with_reducible apply keeps_partnerLost | dsimp only

theorem keeps_ringWritten {u0 : State} (s0 s : State) (o : Nat) (v : Word) (h0 : Keeps u0 s) :
    Keeps u0 (ringWritten s0 s o v) := by
  unfold ringWritten
  dsimp only
  repeat'
    first
    | with_reducible assumption | (intro _) | with_reducible apply keeps_ite | with_reducible apply keeps_onAdm
    | with_reducible apply keeps_fillBucket | with_reducible apply Keeps.record | dsimp only

end Sys2Proof.Machine
end

