-- ==== Sys2Proof/Laws/KeepsReset.lean ====
section
/-!
SUPPORT. What every operation of Machine/Reset.lean keeps (Keeps): one lemma for each operation that answers a state.
-/
set_option linter.all false

namespace Sys2Proof.Machine

theorem keeps_onPwr {u0 : State} (s : State) (f : PwrState → PwrState) (h0 : Keeps u0 s) :
    Keeps u0 (onPwr s f) := by
  unfold onPwr
  repeat'
    first
    | with_reducible assumption | with_reducible apply Keeps.record

theorem keeps_onClk {u0 : State} (s : State) (f : ClkState → ClkState) (h0 : Keeps u0 s) :
    Keeps u0 (onClk s f) := by
  unfold onClk
  repeat'
    first
    | with_reducible assumption | with_reducible apply Keeps.record

theorem keeps_onRstReq {u0 : State} (s : State) (f : RstReq → RstReq) (h0 : Keeps u0 s) :
    Keeps u0 (onRstReq s f) := by
  unfold onRstReq
  repeat'
    first
    | with_reducible assumption | (intro _) | with_reducible apply keeps_onPwr | dsimp only

theorem keeps_setRail {u0 : State} (s : State) (r : Rail) (v : Bool) (h0 : Keeps u0 s) :
    Keeps u0 (setRail s r v) := by
  unfold setRail
  repeat'
    first
    | with_reducible assumption | (intro _) | with_reducible apply keeps_onPwr | dsimp only

theorem keeps_coldReset {u0 : State} (s : State) (c : Nat) (aon : Bool) (st : PowerState) (h0 : Keeps u0 s) :
    Keeps u0 (coldReset s c aon st) := by
  unfold coldReset
  dsimp only
  refine (keeps_cmdReset s h0).trans ⟨rfl, rfl, rfl, fun m => ?_, Nat.le_refl _, id, id, fun _ _ => id⟩
  simp only [memoryWf, regsWf, Bool.and_eq_true] at m ⊢
  exact ⟨rfl, sparseWf_filter _ m.2⟩

theorem keeps_coldAgain {u0 : State} (s : State) (c : Nat) (h0 : Keeps u0 s) :
    Keeps u0 (coldAgain s c) := by
  unfold coldAgain
  dsimp only
  repeat'
    first
    | with_reducible assumption | with_reducible apply keeps_ite | with_reducible apply keeps_coldReset
    | dsimp only

theorem keeps_lanesLost {u0 : State} (s : State) (h0 : Keeps u0 s) :
    Keeps u0 (lanesLost s) := by
  unfold lanesLost
  repeat'
    first
    | with_reducible assumption | (intro _) | with_reducible apply keeps_foldl
    | with_reducible apply keeps_linkLost

theorem keeps_seedTime {u0 : State} (s : State) (h0 : Keeps u0 s) :
    Keeps u0 (seedTime s) := by
  unfold seedTime
  dsimp only
  repeat'
    first
    | with_reducible assumption | (intro _) | with_reducible apply keeps_ite | with_reducible apply keeps_drawn
    | with_reducible apply keeps_onTime | split | with_reducible apply Keeps.recordDraw | dsimp only

theorem keeps_requestWarm {u0 : State} (s : State) (c : Nat) (lost : Bool) (h0 : Keeps u0 s) :
    Keeps u0 (requestWarm s c lost) := by
  unfold requestWarm
  dsimp only
  repeat'
    first
    | with_reducible assumption | (intro _) | with_reducible apply keeps_ite | with_reducible apply keeps_wr
    | with_reducible apply keeps_seedTime | with_reducible apply keeps_onPwr | dsimp only

theorem keeps_railLost {u0 : State} (s : State) (r : Rail) (h0 : Keeps u0 s) :
    Keeps u0 (railLost s r) := by
  unfold railLost
  dsimp only
  repeat'
    first
    | with_reducible assumption | with_reducible apply keeps_ite | with_reducible apply keeps_setRail
    | with_reducible apply keeps_coldReset | with_reducible apply keeps_coldAgain
    | with_reducible apply keeps_requestWarm | with_reducible apply keeps_evt
    | with_reducible apply keeps_lanesLost | split | dsimp only

theorem keeps_execRailLost (r : Rail) (s : State) :
    ∃ s', execRailLost r s = .next s' ∧ Keeps s s' := by
  refine ⟨_, rfl, ?_⟩
  repeat'
    first
    | with_reducible assumption | with_reducible exact Keeps.refl _ | with_reducible apply keeps_railLost

theorem keeps_execAnalogRailHoldEnd (r : Rail) (s : State) :
    ∃ s', execAnalogRailHoldEnd r s = .next s' ∧ Keeps s s' := by
  refine ⟨_, rfl, ?_⟩
  repeat'
    first
    | with_reducible assumption | with_reducible exact Keeps.refl _ | (intro _)
    | with_reducible apply keeps_when | with_reducible apply keeps_setRail | dsimp only

theorem keeps_execVdd12lRestored (s : State) :
    ∃ s', execVdd12lRestored s = .next s' ∧ Keeps s s' := by
  refine ⟨_, rfl, ?_⟩
  repeat'
    first
    | with_reducible assumption | with_reducible exact Keeps.refl _ | (intro _)
    | with_reducible apply keeps_when | with_reducible apply keeps_evt | with_reducible apply keeps_setRail
    | dsimp only

theorem keeps_execVbkApplied (s : State) :
    ∃ s', execVbkApplied s = .next s' ∧ Keeps s s' := by
  refine ⟨_, rfl, ?_⟩
  repeat'
    first
    | with_reducible assumption | with_reducible exact Keeps.refl _ | (intro _)
    | with_reducible apply keeps_ite | with_reducible apply keeps_when | with_reducible apply keeps_setRail
    | with_reducible apply keeps_onPwr | dsimp only

theorem keeps_sampleStraps {u0 : State} (s : State) (h0 : Keeps u0 s) :
    Keeps u0 (sampleStraps s) := by
  unfold sampleStraps
  repeat'
    first
    | with_reducible assumption | with_reducible apply Keeps.record

theorem keeps_coldTime {u0 : State} (s : State) (h0 : Keeps u0 s) :
    Keeps u0 (coldTime s) := by
  unfold coldTime
  dsimp only
  repeat'
    first
    | with_reducible assumption | with_reducible apply keeps_ite | with_reducible apply keeps_seedTime
    | with_reducible apply keeps_wr | with_reducible apply keeps_drawn | split
    | with_reducible apply Keeps.recordDraw | dsimp only

theorem keeps_powerGood {u0 : State} (s : State) (h0 : Keeps u0 s) :
    Keeps u0 (powerGood s) := by
  unfold powerGood
  dsimp only
  repeat'
    first
    | with_reducible assumption | (intro _) | with_reducible apply keeps_ite
    | with_reducible apply keeps_sampleStraps | with_reducible apply keeps_onPwr
    | with_reducible apply keeps_coldTime | with_reducible apply keeps_wr | with_reducible apply keeps_bumpSat
    | with_reducible apply keeps_onRstReq | with_reducible apply keeps_setPower | dsimp only

theorem keeps_execPowerGood (s : State) :
    ∃ s', execPowerGood s = .next s' ∧ Keeps s s' := by
  refine ⟨_, rfl, ?_⟩
  repeat'
    first
    | with_reducible assumption | with_reducible exact Keeps.refl _ | with_reducible apply keeps_when
    | with_reducible apply keeps_powerGood

theorem keeps_execPwrenTimeout (s : State) :
    ∃ s', execPwrenTimeout s = .next s' ∧ Keeps s s' := by
  refine ⟨_, rfl, ?_⟩
  repeat'
    first
    | with_reducible assumption | with_reducible exact Keeps.refl _ | (intro _)
    | with_reducible apply keeps_when | with_reducible apply keeps_onPwr | dsimp only

theorem keeps_execPwrenRetry (s : State) :
    ∃ s', execPwrenRetry s = .next s' ∧ Keeps s s' := by
  refine ⟨_, rfl, ?_⟩
  repeat'
    first
    | with_reducible assumption | with_reducible exact Keeps.refl _ | (intro _)
    | with_reducible apply keeps_ite | with_reducible apply keeps_when | with_reducible apply keeps_onPwr
    | dsimp only

theorem keeps_setClk {u0 : State} (s : State) (c : Clk) (v : Bool) (h0 : Keeps u0 s) :
    Keeps u0 (setClk s c v) := by
  unfold setClk
  repeat'
    first
    | with_reducible assumption | (intro _) | with_reducible apply keeps_onClk | split | dsimp only

theorem keeps_clockLost {u0 : State} (s : State) (c : Clk) (h0 : Keeps u0 s) :
    Keeps u0 (clockLost s c) := by
  unfold clockLost
  dsimp only
  repeat'
    first
    | with_reducible assumption | with_reducible apply keeps_ite | with_reducible apply keeps_setClk
    | with_reducible apply keeps_bumpSat | with_reducible apply keeps_requestWarm | split | dsimp only

theorem keeps_execClockLost (c : Clk) (s : State) :
    ∃ s', execClockLost c s = .next s' ∧ Keeps s s' := by
  refine ⟨_, rfl, ?_⟩
  repeat'
    first
    | with_reducible assumption | with_reducible exact Keeps.refl _ | with_reducible apply keeps_clockLost

theorem keeps_execClockRestored (c : Clk) (s : State) :
    ∃ s', execClockRestored c s = .next s' ∧ Keeps s s' := by
  refine ⟨_, rfl, ?_⟩
  repeat'
    first
    | with_reducible assumption | with_reducible exact Keeps.refl _ | with_reducible apply keeps_setClk

theorem keeps_refclkLost {u0 : State} (s : State) (r : RefLoss) (h0 : Keeps u0 s) :
    Keeps u0 (refclkLost s r) := by
  unfold refclkLost
  repeat'
    first
    | with_reducible assumption | (intro _) | with_reducible apply keeps_ite
    | with_reducible apply keeps_lanesLost | with_reducible apply keeps_bumpSat
    | with_reducible apply keeps_onClk | with_reducible apply keeps_linkLost | split | dsimp only

theorem keeps_execRefclkLost (r : RefLoss) (s : State) :
    ∃ s', execRefclkLost r s = .next s' ∧ Keeps s s' := by
  refine ⟨_, rfl, ?_⟩
  repeat'
    first
    | with_reducible assumption | with_reducible exact Keeps.refl _ | with_reducible apply keeps_refclkLost

theorem keeps_execRefclkRestored (r : RefLoss) (s : State) :
    ∃ s', execRefclkRestored r s = .next s' ∧ Keeps s s' := by
  refine ⟨_, rfl, ?_⟩
  repeat'
    first
    | with_reducible assumption | with_reducible exact Keeps.refl _ | (intro _)
    | with_reducible apply keeps_onClk | split | dsimp only

theorem keeps_execXlpLost (s : State) :
    ∃ s', execXlpLost s = .next s' ∧ Keeps s s' := by
  refine ⟨_, rfl, ?_⟩
  repeat'
    first
    | with_reducible assumption | with_reducible exact Keeps.refl _ | (intro _)
    | with_reducible apply keeps_when | with_reducible apply keeps_onPwr | with_reducible apply keeps_bumpSat
    | with_reducible apply keeps_onClk | dsimp only

theorem keeps_execXlpRestored (s : State) :
    ∃ s', execXlpRestored s = .next s' ∧ Keeps s s' := by
  refine ⟨_, rfl, ?_⟩
  repeat'
    first
    | with_reducible assumption | with_reducible exact Keeps.refl _ | (intro _)
    | with_reducible apply keeps_onClk | dsimp only

theorem keeps_execNporLow (s : State) :
    ∃ s', execNporLow s = .next s' ∧ Keeps s s' := by
  refine ⟨_, rfl, ?_⟩
  repeat'
    first
    | with_reducible assumption | with_reducible exact Keeps.refl _ | (intro _)
    | with_reducible apply keeps_ite | with_reducible apply keeps_when | with_reducible apply keeps_coldAgain
    | with_reducible apply Keeps.record | dsimp only

theorem keeps_execNporRelease (s : State) :
    ∃ s', execNporRelease s = .next s' ∧ Keeps s s' := by
  refine ⟨_, rfl, ?_⟩
  repeat'
    first
    | with_reducible assumption | with_reducible exact Keeps.refl _ | (intro _)
    | with_reducible apply keeps_ite | with_reducible apply keeps_when
    | with_reducible apply keeps_sampleStraps | with_reducible apply keeps_onPwr
    | with_reducible apply Keeps.record | dsimp only

theorem keeps_wake {u0 : State} (s : State) (h0 : Keeps u0 s) :
    Keeps u0 (wake s) := by
  unfold wake
  repeat'
    first
    | with_reducible assumption | (intro _) | with_reducible apply keeps_onPwr | dsimp only

theorem keeps_execNwake (s : State) :
    ∃ s', execNwake s = .next s' ∧ Keeps s s' := by
  refine ⟨_, rfl, ?_⟩
  repeat'
    first
    | with_reducible assumption | with_reducible exact Keeps.refl _ | with_reducible apply keeps_when
    | with_reducible apply keeps_wake

theorem keeps_execWakeAt (s : State) :
    ∃ s', execWakeAt s = .next s' ∧ Keeps s s' := by
  refine ⟨_, rfl, ?_⟩
  repeat'
    first
    | with_reducible assumption | with_reducible exact Keeps.refl _ | (intro _)
    | with_reducible apply keeps_when | with_reducible apply keeps_wake | with_reducible apply keeps_onPwr
    | split | dsimp only

theorem keeps_execNrstreqFall (s : State) :
    ∃ s', execNrstreqFall s = .next s' ∧ Keeps s s' := by
  refine ⟨_, rfl, ?_⟩
  repeat'
    first
    | with_reducible assumption | with_reducible exact Keeps.refl _ | (intro _)
    | with_reducible apply keeps_ite | with_reducible apply keeps_when | with_reducible apply keeps_onRstReq
    | dsimp only

theorem keeps_execNrstreqHighSample (s : State) :
    ∃ s', execNrstreqHighSample s = .next s' ∧ Keeps s s' := by
  refine ⟨_, rfl, ?_⟩
  repeat'
    first
    | with_reducible assumption | with_reducible exact Keeps.refl _ | (intro _)
    | with_reducible apply keeps_onRstReq | dsimp only

theorem keeps_execNrstreqDebounced (s : State) :
    ∃ s', execNrstreqDebounced s = .next s' ∧ Keeps s s' := by
  refine ⟨_, rfl, ?_⟩
  repeat'
    first
    | with_reducible assumption | with_reducible exact Keeps.refl _ | (intro _)
    | with_reducible apply keeps_when | with_reducible apply keeps_requestWarm
    | with_reducible apply keeps_onRstReq | dsimp only

theorem keeps_execRstreqFailed (s : State) :
    ∃ s', execRstreqFailed s = .next s' ∧ Keeps s s' := by
  refine ⟨_, rfl, ?_⟩
  repeat'
    first
    | with_reducible assumption | with_reducible exact Keeps.refl _ | (intro _)
    | with_reducible apply keeps_when | with_reducible apply keeps_evt | with_reducible apply keeps_onRstReq
    | dsimp only

theorem keeps_execRstreqRecovered (s : State) :
    ∃ s', execRstreqRecovered s = .next s' ∧ Keeps s s' := by
  refine ⟨_, rfl, ?_⟩
  repeat'
    first
    | with_reducible assumption | with_reducible exact Keeps.refl _ | (intro _)
    | with_reducible apply keeps_when | with_reducible apply keeps_evt | with_reducible apply keeps_onRstReq
    | dsimp only

theorem keeps_execLockstepMismatch (s : State) :
    ∃ s', execLockstepMismatch s = .next s' ∧ Keeps s s' := by
  refine ⟨_, rfl, ?_⟩
  repeat'
    first
    | with_reducible assumption | with_reducible exact Keeps.refl _ | (intro _)
    | with_reducible apply keeps_when | with_reducible apply keeps_requestWarm | with_reducible apply keeps_wr
    | dsimp only

theorem keeps_execWatchdog (s : State) :
    ∃ s', execWatchdog s = .next s' ∧ Keeps s s' := by
  refine ⟨_, rfl, ?_⟩
  repeat'
    first
    | with_reducible assumption | with_reducible exact Keeps.refl _ | with_reducible apply keeps_requestWarm

theorem keeps_execQueueFull (_q : Nat) (s : State) :
    ∃ s', execQueueFull _q s = .next s' ∧ Keeps s s' := by
  refine ⟨_, rfl, ?_⟩
  repeat'
    first
    | with_reducible assumption | with_reducible exact Keeps.refl _ | (intro _)
    | with_reducible apply keeps_when | with_reducible apply keeps_requestWarm | with_reducible apply keeps_wr
    | dsimp only

theorem keeps_warmTime {u0 : State} (s : State) (h0 : Keeps u0 s) :
    Keeps u0 (warmTime s) := by
  unfold warmTime
  dsimp only
  repeat'
    first
    | with_reducible assumption | (intro _) | with_reducible apply keeps_ite
    | with_reducible apply keeps_seedTime | with_reducible apply keeps_onTime | split | dsimp only

theorem keeps_warmOutputs {u0 : State} (s : State) (h0 : Keeps u0 s) :
    Keeps u0 (warmOutputs s) := by
  unfold warmOutputs
  repeat'
    first
    | with_reducible assumption | (intro _) | with_reducible apply keeps_ite
    | with_reducible apply keeps_releaseOutputs | with_reducible apply Keeps.record | dsimp only

theorem keeps_warmStreams {u0 : State} (s : State) (h0 : Keeps u0 s) :
    Keeps u0 (warmStreams s) := by
  unfold warmStreams
  dsimp only
  repeat'
    first
    | with_reducible assumption | (intro _) | with_reducible apply keeps_ite | with_reducible apply keeps_foldl
    | with_reducible apply keeps_drainEdge | with_reducible apply keeps_flushRecs
    | with_reducible apply keeps_closeQuire | with_reducible apply keeps_storeQuire
    | with_reducible apply keeps_onStrm | dsimp only

theorem keeps_warmHost {u0 : State} (s : State) (h0 : Keeps u0 s) :
    Keeps u0 (warmHost s) := by
  unfold warmHost
  repeat'
    first
    | with_reducible assumption | (intro _) | with_reducible apply Keeps.record | dsimp only

theorem keeps_warmLanes {u0 : State} (s : State) (h0 : Keeps u0 s) :
    Keeps u0 (warmLanes s) := by
  unfold warmLanes
  repeat'
    first
    | with_reducible assumption | (intro _) | with_reducible apply keeps_ite
    | with_reducible apply Keeps.record | dsimp only

theorem keeps_warmReset {u0 : State} (s : State) (h0 : Keeps u0 s) :
    Keeps u0 (warmReset s) := by
  unfold warmReset
  dsimp only
  repeat'
    first
    | with_reducible assumption | (intro _) | with_reducible apply keeps_ite | with_reducible apply keeps_wr64
    | with_reducible apply keeps_warmOutputs | with_reducible apply keeps_captWarm
    | with_reducible apply keeps_liteWarm | with_reducible apply keeps_safeWarm
    | with_reducible apply keeps_cmdReset | with_reducible apply keeps_warmStreams
    | with_reducible apply keeps_wr | with_reducible apply keeps_bumpSat | with_reducible apply keeps_onPwr
    | with_reducible apply keeps_setPower | with_reducible apply keeps_warmLanes
    | with_reducible apply keeps_warmHost | with_reducible apply keeps_warmTime
    | with_reducible apply Keeps.record | with_reducible apply Keeps.recordFilter | dsimp only

theorem keeps_execWarmReset (s : State) :
    ∃ s', execWarmReset s = .next s' ∧ Keeps s s' := by
  refine ⟨_, rfl, ?_⟩
  repeat'
    first
    | with_reducible assumption | with_reducible exact Keeps.refl _ | with_reducible apply keeps_when
    | with_reducible apply keeps_warmReset

theorem keeps_execHubReady (s : State) :
    ∃ s', execHubReady s = .next s' ∧ Keeps s s' := by
  refine ⟨_, rfl, ?_⟩
  repeat'
    first
    | with_reducible assumption | with_reducible exact Keeps.refl _ | (intro _)
    | with_reducible apply keeps_ite | with_reducible apply keeps_when | with_reducible apply keeps_onTime
    | with_reducible apply keeps_recoverStreams | with_reducible apply keeps_onPwr | dsimp only

theorem keeps_setWait {u0 : State} (s : State) (v : Nat) (h0 : Keeps u0 s) :
    Keeps u0 (setWait s v) := by
  unfold setWait
  repeat'
    first
    | with_reducible assumption | with_reducible apply keeps_wr

theorem keeps_dawnComplete {u0 : State} (s : State) (h0 : Keeps u0 s) :
    Keeps u0 (dawnComplete s) := by
  unfold dawnComplete
  repeat'
    first
    | with_reducible assumption | (intro _) | with_reducible apply keeps_ite | with_reducible apply keeps_evt
    | with_reducible apply keeps_setWait | with_reducible apply keeps_onPwr | dsimp only

theorem keeps_dawnDone {u0 : State} (s : State) (st : PowerState) (h0 : Keeps u0 s) :
    Keeps u0 (dawnDone s st) := by
  unfold dawnDone
  dsimp only
  repeat'
    first
    | with_reducible assumption | (intro _) | with_reducible apply keeps_ite
    | with_reducible apply keeps_onTwin | with_reducible apply keeps_setWait
    | with_reducible apply keeps_setPower | with_reducible apply keeps_wr | with_reducible apply keeps_onPwr
    | with_reducible apply keeps_takeOutputs | with_reducible apply keeps_releaseOutputs | dsimp only

theorem keeps_leaveDawn {u0 : State} (s : State) (h0 : Keeps u0 s) :
    Keeps u0 (leaveDawn s) := by
  unfold leaveDawn
  dsimp only
  repeat'
    first
    | with_reducible assumption | with_reducible apply keeps_ite | with_reducible apply keeps_evt
    | with_reducible apply keeps_setWait | with_reducible apply keeps_dawnComplete
    | with_reducible apply keeps_dawnDone | dsimp only

theorem keeps_warmMarks {u0 : State} (s : State) (n : Nat) (h0 : Keeps u0 s) :
    Keeps u0 (warmMarks s n) := by
  unfold warmMarks
  dsimp only
  repeat'
    first
    | with_reducible assumption | (intro _) | with_reducible apply keeps_ite | with_reducible apply keeps_foldl
    | with_reducible apply keeps_excChange | with_reducible apply Keeps.record | dsimp only

theorem keeps_resumeAt {u0 : State} (s : State) (n : Nat) (h0 : Keeps u0 s) :
    Keeps u0 (resumeAt s n) := by
  unfold resumeAt
  dsimp only
  repeat'
    first
    | with_reducible assumption | (intro _) | with_reducible apply keeps_ite | with_reducible apply keeps_wr64
    | with_reducible apply keeps_noteGap | with_reducible apply keeps_notSampledAll
    | with_reducible apply keeps_onTime | with_reducible apply keeps_onPwr
    | with_reducible apply keeps_leaveDawn | with_reducible apply keeps_restartChains
    | with_reducible apply keeps_warmMarks | dsimp only

theorem keeps_execSamplingResumed (s : State) :
    ∃ s', execSamplingResumed s = .next s' ∧ Keeps s s' := by
  refine ⟨_, rfl, ?_⟩
  repeat'
    first
    | with_reducible assumption | with_reducible exact Keeps.refl _ | (intro _)
    | with_reducible apply keeps_when | with_reducible apply keeps_resumeAt | dsimp only

theorem keeps_enterDusk {u0 : State} (s : State) (t : Nat) (h0 : Keeps u0 s) :
    Keeps u0 (enterDusk s t) := by
  unfold enterDusk
  dsimp only
  repeat'
    first
    | with_reducible assumption | (intro _) | with_reducible apply keeps_ite | with_reducible apply keeps_foldl
    | with_reducible apply keeps_onPwr | with_reducible apply keeps_wr | with_reducible apply keeps_captDusk
    | with_reducible apply keeps_setPower | with_reducible apply keeps_onTwin
    | with_reducible apply keeps_closeStream | dsimp only

theorem keeps_powerTarget {u0 : State} (s : State) (t : Nat) (h0 : Keeps u0 s) :
    Keeps u0 (powerTarget s t) := by
  unfold powerTarget
  repeat'
    first
    | with_reducible assumption | with_reducible apply keeps_ite | with_reducible apply keeps_enterDusk

theorem keeps_pwrCtrl {u0 : State} (s : State) (p : Path) (v : Word) (h0 : Keeps u0 s) :
    Keeps u0 (pwrCtrl s p v) := by
  unfold pwrCtrl
  repeat'
    first
    | with_reducible assumption | (intro _) | with_reducible apply keeps_hostAct
    | with_reducible apply keeps_powerTarget | dsimp only

theorem keeps_execTargetMidnight (p : Path) (s : State) :
    ∃ s', execTargetMidnight p s = .next s' ∧ Keeps s s' := by
  refine ⟨_, rfl, ?_⟩
  repeat'
    first
    | with_reducible assumption | with_reducible exact Keeps.refl _ | with_reducible apply keeps_pwrCtrl

theorem keeps_execTargetRemoval (p : Path) (s : State) :
    ∃ s', execTargetRemoval p s = .next s' ∧ Keeps s s' := by
  refine ⟨_, rfl, ?_⟩
  repeat'
    first
    | with_reducible assumption | with_reducible exact Keeps.refl _ | with_reducible apply keeps_pwrCtrl

theorem keeps_execTargetTwilight (p : Path) (s : State) :
    ∃ s', execTargetTwilight p s = .next s' ∧ Keeps s s' := by
  refine ⟨_, rfl, ?_⟩
  repeat'
    first
    | with_reducible assumption | with_reducible exact Keeps.refl _ | with_reducible apply keeps_pwrCtrl

theorem keeps_rstCtrl {u0 : State} (s : State) (p : Path) (v : Word) (h0 : Keeps u0 s) :
    Keeps u0 (rstCtrl s p v) := by
  unfold rstCtrl
  repeat'
    first
    | with_reducible assumption | (intro _) | with_reducible apply keeps_hostAct
    | with_reducible apply keeps_requestWarm | dsimp only

theorem keeps_execRstCtrl (p : Path) (v : Word) (s : State) :
    ∃ s', execRstCtrl p v s = .next s' ∧ Keeps s s' := by
  refine ⟨_, rfl, ?_⟩
  repeat'
    first
    | with_reducible assumption | with_reducible exact Keeps.refl _ | with_reducible apply keeps_rstCtrl

theorem keeps_enterMidnight {u0 : State} (s : State) (removal : Bool) (h0 : Keeps u0 s) :
    Keeps u0 (enterMidnight s removal) := by
  unfold enterMidnight
  dsimp only
  repeat'
    first
    | with_reducible assumption | (intro _) | with_reducible apply keeps_ite
    | with_reducible apply keeps_coldReset | with_reducible apply keeps_onPwr | dsimp only

theorem keeps_duskOver {u0 : State} (s : State) (h0 : Keeps u0 s) :
    Keeps u0 (duskOver s) := by
  unfold duskOver
  dsimp only
  repeat'
    first
    | with_reducible assumption | (intro _) | with_reducible apply keeps_ite | with_reducible apply keeps_evt
    | with_reducible apply keeps_onPwr | with_reducible apply keeps_wr
    | with_reducible apply keeps_enterMidnight | with_reducible apply keeps_setPower | dsimp only

theorem keeps_execDuskEnd (s : State) :
    ∃ s', execDuskEnd s = .next s' ∧ Keeps s s' := by
  refine ⟨_, rfl, ?_⟩
  repeat'
    first
    | with_reducible assumption | with_reducible exact Keeps.refl _ | with_reducible apply keeps_when
    | with_reducible apply keeps_duskOver

theorem keeps_execDuskLimit (s : State) :
    ∃ s', execDuskLimit s = .next s' ∧ Keeps s s' := by
  refine ⟨_, rfl, ?_⟩
  repeat'
    first
    | with_reducible assumption | with_reducible exact Keeps.refl _ | (intro _)
    | with_reducible apply keeps_ite | with_reducible apply keeps_foldl | with_reducible apply keeps_when
    | with_reducible apply keeps_endSpills | with_reducible apply keeps_duskOver
    | with_reducible apply keeps_onPwr | with_reducible apply keeps_duskCommands | dsimp only

theorem keeps_faultSrcClear {u0 : State} (s : State) (mask : Word) (h0 : Keeps u0 s) :
    Keeps u0 (faultSrcClear s mask) := by
  unfold faultSrcClear
  repeat'
    first
    | with_reducible assumption | with_reducible apply keeps_wr

theorem keeps_execFaultSrcClear (p : Path) (mask : Word) (s : State) :
    ∃ s', execFaultSrcClear p mask s = .next s' ∧ Keeps s s' := by
  refine ⟨_, rfl, ?_⟩
  repeat'
    first
    | with_reducible assumption | with_reducible exact Keeps.refl _ | (intro _)
    | with_reducible apply keeps_gated | with_reducible apply keeps_faultSrcClear | dsimp only

theorem keeps_onBall {u0 : State} (s : State) (gen : Bool) (b : Nat) (f : Ball → Ball) (h0 : Keeps u0 s) :
    Keeps u0 (onBall s gen b f) := by
  unfold onBall
  repeat'
    first
    | with_reducible assumption | with_reducible apply keeps_ite | with_reducible apply keeps_onGen
    | with_reducible apply keeps_onGc

theorem keeps_execKeeperRelease (gen : Bool) (b : Nat) (s : State) :
    ∃ s', execKeeperRelease gen b s = .next s' ∧ Keeps s s' := by
  refine ⟨_, rfl, ?_⟩
  repeat'
    first
    | with_reducible assumption | with_reducible exact Keeps.refl _ | (intro _)
    | with_reducible apply keeps_ite | with_reducible apply keeps_onBall | dsimp only

theorem keeps_execReleasedNetEdge (gen : Bool) (b : Nat) (s : State) :
    ∃ s', execReleasedNetEdge gen b s = .next s' ∧ Keeps s s' := by
  refine ⟨_, rfl, ?_⟩
  repeat'
    first
    | with_reducible assumption | with_reducible exact Keeps.refl _ | (intro _)
    | with_reducible apply keeps_ite | with_reducible apply keeps_onBall | dsimp only

theorem keeps_execTapInstruction (i : TapInstr) (s : State) :
    ∃ s', execTapInstruction i s = .next s' ∧ Keeps s s' := by
  refine ⟨_, rfl, ?_⟩
  repeat'
    first
    | with_reducible assumption | with_reducible exact Keeps.refl _ | with_reducible apply Keeps.record

end Sys2Proof.Machine
end

