-- ==== Sys2Proof/Laws/KeepsViews.lean ====
section
/-!
SUPPORT. What every operation of Machine/Views.lean keeps (Keeps): one lemma for each operation that answers a state.
-/
set_option linter.all false

namespace Sys2Proof.Machine

theorem keeps_latchFor {u0 : State} (s : State) (p : Path) (b : Blk) (a : Nat) (h0 : Keeps u0 s) :
    Keeps u0 (latchFor s p b a) := by
  unfold latchFor
  repeat'
    first
    | with_reducible assumption | (intro _) | with_reducible apply keeps_foldl
    | with_reducible apply keeps_onPath | dsimp only

theorem keeps_readEffect {u0 : State} (s : State) (a : Nat) (h0 : Keeps u0 s) :
    Keeps u0 (readEffect s a) := by
  unfold readEffect
  repeat'
    first
    | with_reducible assumption | with_reducible apply keeps_ite | with_reducible apply keeps_coefAdvance
    | with_reducible apply keeps_lvlAdvance | with_reducible apply keeps_wr
    | with_reducible apply keeps_polyAdvance

theorem keeps_readChal {u0 : State} (s : State) (p : Path) (h0 : Keeps u0 s) :
    Keeps u0 (readChal s p).1 := by
  unfold readChal
  dsimp only
  repeat'
    first
    | with_reducible assumption | (intro _) | with_reducible apply keeps_chal0Read
    | with_reducible apply keeps_onPath | dsimp only

theorem keeps_readReg {u0 : State} (s : State) (p : Path) (a : Nat) (h0 : Keeps u0 s) :
    Keeps u0 (readReg s p a).1 := by
  unfold readReg
  repeat'
    first
    | with_reducible assumption | (intro _) | with_reducible apply keeps_ite
    | with_reducible apply keeps_ite_fst | with_reducible apply keeps_readChal
    | with_reducible apply keeps_onPath | with_reducible apply keeps_latchFor
    | with_reducible apply keeps_readEffect | split | dsimp only

end Sys2Proof.Machine
end

