-- ==== Sys2Proof/Laws/KeepsPages.lean ====
section
/-!
SUPPORT. What every operation of Machine/Pages.lean keeps (Keeps): one lemma for each operation that answers a state.
-/
set_option linter.all false

namespace Sys2Proof.Machine

theorem keeps_copyShadows {u0 : State} (s : State) (g : Nat) (h0 : Keeps u0 s) :
    Keeps u0 (copyShadows s g) := by
  unfold copyShadows
  repeat'
    first
    | with_reducible assumption | (intro _) | with_reducible apply keeps_foldl | with_reducible apply keeps_wr
    | with_reducible apply Keeps.record | dsimp only

theorem keeps_coreServed {u0 : State} (s0 s : State) (q : Nat) (h0 : Keeps u0 s) :
    Keeps u0 (coreServed s0 s q) := by
  unfold coreServed
  repeat'
    first
    | with_reducible assumption | with_reducible apply keeps_ite | with_reducible apply keeps_clearBlock

theorem keeps_commitEffects {u0 : State} (s0 s : State) (b : Blk) (i n : Nat) (h0 : Keeps u0 s) :
    Keeps u0 (commitEffects s0 s b i n) := by
  unfold commitEffects
  repeat'
    first
    | with_reducible assumption | with_reducible apply keeps_fqCommitted
    | with_reducible apply keeps_coreServed | with_reducible apply keeps_ccCommitted
    | with_reducible apply keeps_fltCommitted | with_reducible apply keeps_timeCommitted
    | with_reducible apply keeps_motCommitted | with_reducible apply keeps_edgeCommitted
    | with_reducible apply keeps_sprtCommitted | with_reducible apply keeps_liteCommitted
    | with_reducible apply keeps_safeCommitted | with_reducible apply keeps_aoutCommitted | split

theorem keeps_applyCommit {u0 : State} (s : State) (b : Blk) (i g n : Nat) (late : Bool) (h0 : Keeps u0 s) :
    Keeps u0 (applyCommit s b i g n late) := by
  unfold applyCommit
  dsimp only
  repeat'
    first
    | with_reducible assumption | (intro _) | with_reducible apply keeps_onPage
    | with_reducible apply keeps_copyShadows | with_reducible apply keeps_commitEffects | dsimp only

theorem keeps_applySoon {u0 : State} (s : State) (g : Nat) (h0 : Keeps u0 s) :
    Keeps u0 (applySoon s g) := by
  unfold applySoon
  repeat'
    first
    | with_reducible assumption | (intro _) | with_reducible apply keeps_applyCommit
    | with_reducible apply keeps_onPage | split | dsimp only

theorem keeps_tickCommits {u0 : State} (s : State) (h0 : Keeps u0 s) :
    Keeps u0 (tickCommits s) := by
  unfold tickCommits
  repeat'
    first
    | with_reducible assumption | (intro _) | with_reducible apply keeps_foldl
    | with_reducible apply keeps_applySoon

theorem keeps_commitSeen {u0 : State} (s : State) (g : Nat) (h0 : Keeps u0 s) :
    Keeps u0 (commitSeen s g) := by
  unfold commitSeen
  repeat'
    first
    | with_reducible assumption | (intro _) | with_reducible apply keeps_onPage | dsimp only

theorem keeps_scheduleCommit {u0 : State} (s : State) (b : Blk) (i g : Nat) (h0 : Keeps u0 s) :
    Keeps u0 (scheduleCommit s b i g) := by
  unfold scheduleCommit
  dsimp only
  repeat'
    first
    | with_reducible assumption | (intro _) | with_reducible apply keeps_onPage
    | with_reducible apply keeps_sprtScheduled | split | dsimp only

theorem keeps_cancelCommit {u0 : State} (s : State) (b : Blk) (i g : Nat) (h0 : Keeps u0 s) :
    Keeps u0 (cancelCommit s b i g) := by
  unfold cancelCommit
  dsimp only
  repeat'
    first
    | with_reducible assumption | (intro _) | with_reducible apply keeps_onPage | split
    | with_reducible apply Keeps.record | dsimp only

theorem keeps_commitWrite {u0 : State} (s : State) (b : Blk) (i g cmd : Nat) (h0 : Keeps u0 s) :
    Keeps u0 (commitWrite s b i g cmd) := by
  unfold commitWrite
  repeat'
    first
    | with_reducible assumption | (intro _) | with_reducible apply keeps_onPage
    | with_reducible apply keeps_commitSeen | with_reducible apply keeps_scheduleCommit
    | with_reducible apply keeps_cancelCommit | split | dsimp only

theorem keeps_scheduledCommit {u0 : State} (s : State) (g : Nat) (h0 : Keeps u0 s) :
    Keeps u0 (scheduledCommit s g) := by
  unfold scheduledCommit
  repeat'
    first
    | with_reducible assumption | (intro _) | with_reducible apply keeps_ite
    | with_reducible apply keeps_refuse | with_reducible apply keeps_onPage
    | with_reducible apply keeps_applyCommit | split | dsimp only

theorem keeps_execScheduledCommit (page : Nat) (s : State) :
    ∃ s', execScheduledCommit page s = .next s' ∧ Keeps s s' := by
  refine ⟨_, rfl, ?_⟩
  repeat'
    first
    | with_reducible assumption | with_reducible exact Keeps.refl _
    | with_reducible apply keeps_scheduledCommit

theorem keeps_motIdle {u0 : State} (s0 s : State) (h0 : Keeps u0 s) :
    Keeps u0 (motIdle s0 s) := by
  unfold motIdle
  dsimp only
  repeat'
    first
    | with_reducible assumption | (intro _) | with_reducible apply keeps_foldl
    | with_reducible apply keeps_releaseLegs | with_reducible apply keeps_syncGroups
    | with_reducible apply Keeps.record | dsimp only

theorem keeps_ringIdle {u0 : State} (s : State) (h0 : Keeps u0 s) :
    Keeps u0 (ringIdle s) := by
  unfold ringIdle
  repeat'
    first
    | with_reducible assumption | with_reducible apply Keeps.record

theorem keeps_blockIdle {u0 : State} (s0 s : State) (b : Blk) (i : Nat) (h0 : Keeps u0 s) :
    Keeps u0 (blockIdle s0 s b i) := by
  unfold blockIdle
  dsimp only
  repeat'
    first
    | with_reducible assumption | (intro _) | with_reducible apply keeps_ite
    | with_reducible apply keeps_coreServed | with_reducible apply keeps_ccCommitted
    | with_reducible apply keeps_hkcSelect | with_reducible apply keeps_linkLost
    | with_reducible apply keeps_ringIdle | with_reducible apply keeps_onEng
    | with_reducible apply keeps_motIdle | with_reducible apply keeps_edgeCommitted
    | with_reducible apply keeps_sprtEnable | with_reducible apply keeps_liteWarm
    | with_reducible apply keeps_abortJob | with_reducible apply keeps_safeWarm | split
    | with_reducible apply Keeps.record | dsimp only

theorem keeps_blockReset {u0 : State} (s : State) (b : Blk) (i g : Nat) (h0 : Keeps u0 s) :
    Keeps u0 (blockReset s b i g) := by
  unfold blockReset
  dsimp only
  repeat'
    first
    | with_reducible assumption | (intro _) | with_reducible apply keeps_blockIdle
    | with_reducible apply keeps_clearBlock | split | with_reducible apply Keeps.record
    | with_reducible apply Keeps.recordFilter | dsimp only

theorem keeps_setFreeze {u0 : State} (s : State) (p : Path) (g : Nat) (on : Bool) (h0 : Keeps u0 s) :
    Keeps u0 (setFreeze s p g on) := by
  unfold setFreeze
  repeat'
    first
    | with_reducible assumption | (intro _) | with_reducible apply keeps_ite
    | with_reducible apply keeps_onPage | dsimp only

theorem keeps_setEnable {u0 : State} (s : State) (b : Blk) (i g : Nat) (on : Bool) (h0 : Keeps u0 s) :
    Keeps u0 (setEnable s b i g on) := by
  unfold setEnable
  dsimp only
  repeat'
    first
    | with_reducible assumption | with_reducible apply keeps_ite | with_reducible apply keeps_wr
    | with_reducible apply keeps_sprtEnable | split | dsimp only

theorem keeps_ctrlWrite {u0 : State} (s : State) (p : Path) (b : Blk) (i g : Nat) (v : Word) (h0 : Keeps u0 s) :
    Keeps u0 (ctrlWrite s p b i g v) := by
  unfold ctrlWrite
  dsimp only
  repeat'
    first
    | with_reducible assumption | with_reducible apply keeps_ite | with_reducible apply keeps_setFreeze
    | with_reducible apply keeps_setEnable | with_reducible apply keeps_blockReset | dsimp only

theorem keeps_errcodeClear {u0 : State} (s : State) (g : Nat) (v : Word) (h0 : Keeps u0 s) :
    Keeps u0 (errcodeClear s g v) := by
  unfold errcodeClear
  repeat'
    first
    | with_reducible assumption | (intro _) | with_reducible apply keeps_ite
    | with_reducible apply keeps_onPage | with_reducible apply keeps_wr | dsimp only

end Sys2Proof.Machine
end

