-- ==== Sys2Proof/Laws/KeepsHostPort.lean ====
section
/-!
SUPPORT. What every operation of Machine/HostPort.lean keeps (Keeps): one lemma for each operation that answers a state.
-/
set_option linter.all false

namespace Sys2Proof.Machine

theorem keeps_plainWrite {u0 : State} (s : State) (w : Who) (a : Nat) (r : RegRow) (v : Word) (h0 : Keeps u0 s) :
    Keeps u0 (plainWrite s w a r v) := by
  unfold plainWrite
  repeat'
    first
    | with_reducible assumption | with_reducible apply keeps_ite | with_reducible apply keeps_wr | split
    | with_reducible apply Keeps.record

theorem keeps_motCtrl {u0 : State} (s : State) (w : Who) (v : Word) (h0 : Keeps u0 s) :
    Keeps u0 (motCtrl s w v) := by
  unfold motCtrl
  repeat'
    first
    | with_reducible assumption | with_reducible apply keeps_motClearFault
    | with_reducible apply keeps_cycleMark | with_reducible apply keeps_refuse | split

theorem keeps_laneWrite {u0 : State} (s0 s : State) (i o : Nat) (h0 : Keeps u0 s) :
    Keeps u0 (laneWrite s0 s i o) := by
  unfold laneWrite
  dsimp only
  repeat'
    first
    | with_reducible assumption | with_reducible apply keeps_ite | with_reducible apply keeps_laneWritten
    | with_reducible apply keeps_linkLost | dsimp only

theorem keeps_ringWrite {u0 : State} (s0 s : State) (o : Nat) (v : Word) (h0 : Keeps u0 s) :
    Keeps u0 (ringWrite s0 s o v) := by
  unfold ringWrite
  dsimp only
  repeat'
    first
    | with_reducible assumption | with_reducible apply keeps_ite | with_reducible apply keeps_ringWritten
    | with_reducible apply keeps_portsLost | dsimp only

theorem keeps_clearAny {u0 : State} (s : State) (a : Nat) (v : Word) (h0 : Keeps u0 s) :
    Keeps u0 (clearAny s a v) := by
  unfold clearAny
  repeat'
    first
    | with_reducible assumption | with_reducible apply keeps_ite | with_reducible apply keeps_wr

theorem keeps_regEffect {u0 : State} (s : State) (w : Who) (b : Blk) (i a : Nat) (r : RegRow) (v : Word) (h0 : Keeps
    u0 s) :
    Keeps u0 (regEffect s w b i a r v) := by
  unfold regEffect
  dsimp only
  repeat'
    first
    | with_reducible assumption | (intro _) | with_reducible apply keeps_ite
    | with_reducible apply keeps_plainWrite | with_reducible apply keeps_queueClear
    | with_reducible apply keeps_powerTarget | with_reducible apply keeps_requestWarm
    | with_reducible apply keeps_faultSrcClear | with_reducible apply keeps_clearAny
    | with_reducible apply keeps_hostEdges | with_reducible apply keeps_hkcBegin
    | with_reducible apply keeps_hkcSelect | with_reducible apply keeps_onAo
    | with_reducible apply keeps_coefWrite | with_reducible apply keeps_polyWrite
    | with_reducible apply keeps_syncSchedule | with_reducible apply keeps_syncCancel
    | with_reducible apply keeps_onTime | with_reducible apply keeps_laneWrite
    | with_reducible apply keeps_ringWrite | with_reducible apply keeps_strmCtrl
    | with_reducible apply keeps_strmSelWrite | with_reducible apply keeps_hostAck
    | with_reducible apply keeps_cmdRegWrite | with_reducible apply keeps_submitCmd
    | with_reducible apply keeps_captCtrl | with_reducible apply keeps_captSelWrite
    | with_reducible apply keeps_aeCtrl | with_reducible apply keeps_subWrite
    | with_reducible apply keeps_motCtrl | with_reducible apply keeps_edgeCtrl
    | with_reducible apply keeps_sprtCtrl | with_reducible apply keeps_liteCtrl
    | with_reducible apply keeps_lvlWrite | with_reducible apply keeps_strobeCtrl
    | with_reducible apply keeps_zipCtrl | with_reducible apply keeps_calCtrl
    | with_reducible apply keeps_respWrite | with_reducible apply keeps_authWrite
    | with_reducible apply keeps_safeCtrl | with_reducible apply keeps_twinCtrl | split | dsimp only

theorem keeps_writeReg {u0 : State} (s : State) (w : Who) (b : Blk) (i a : Nat) (r : RegRow) (v : Word) (h0 : Keeps
    u0 s) :
    Keeps u0 (writeReg s w b i a r v) := by
  unfold writeReg
  repeat'
    first
    | with_reducible assumption | (intro _) | with_reducible apply keeps_checked
    | with_reducible apply keeps_entered | with_reducible apply keeps_regEffect | dsimp only

theorem keeps_settleAttn {u0 : State} (s : State) (h0 : Keeps u0 s) :
    Keeps u0 (settleAttn s) := by
  unfold settleAttn
  repeat'
    first
    | with_reducible assumption | with_reducible apply keeps_ite | with_reducible apply Keeps.record

theorem keeps_headerEffect {u0 : State} (s : State) (w : Who) (b : Blk) (i g o : Nat) (v : Word) (h0 : Keeps u0 s) :
    Keeps u0 (headerEffect s w b i g o v) := by
  unfold headerEffect
  repeat'
    first
    | with_reducible assumption | with_reducible apply keeps_ite | with_reducible apply keeps_settleAttn
    | with_reducible apply keeps_ctrlWrite | with_reducible apply keeps_setEnable
    | with_reducible apply keeps_wr | with_reducible apply keeps_errcodeClear
    | with_reducible apply keeps_commitWrite | split

theorem keeps_writeHeaderReg {u0 : State} (s : State) (w : Who) (b : Blk) (i g o : Nat) (v : Word) (h0 : Keeps u0 s) :
    Keeps u0 (writeHeaderReg s w b i g o v) := by
  unfold writeHeaderReg
  repeat'
    first
    | with_reducible assumption | (intro _) | with_reducible apply keeps_checked
    | with_reducible apply keeps_entered | with_reducible apply keeps_headerEffect | dsimp only

theorem keeps_winWrite {u0 : State} (s : State) (w : Who) (addr : Nat) (x : Win) (v : Word) (h0 : Keeps u0 s) :
    Keeps u0 (winWrite s w addr x v) := by
  unfold winWrite
  repeat'
    first
    | with_reducible assumption | with_reducible apply keeps_ite | with_reducible apply keeps_refuse
    | with_reducible apply keeps_refuseOn | with_reducible apply keeps_engHostWrite
    | with_reducible apply keeps_vatPutWord | split

theorem keeps_readWord {u0 : State} (s : State) (p : Path) (a : Nat) (h0 : Keeps u0 s) :
    Keeps u0 (readWord s p a).1 := by
  unfold readWord
  repeat'
    first
    | with_reducible assumption | with_reducible apply keeps_ite | with_reducible apply keeps_ite_fst
    | with_reducible apply keeps_readReg | split

theorem keeps_writeWord {u0 : State} (s : State) (w : Who) (a : Nat) (v : Word) (h0 : Keeps u0 s) :
    Keeps u0 (writeWord s w a v) := by
  unfold writeWord
  repeat'
    first
    | with_reducible assumption | with_reducible apply keeps_ite | with_reducible apply keeps_refuse
    | with_reducible apply keeps_writeHeaderReg | with_reducible apply keeps_writeReg
    | with_reducible apply keeps_winWrite | split

theorem keeps_hostWrite {u0 : State} (s : State) (p : Path) (a : Nat) (v : Word) (h0 : Keeps u0 s) :
    Keeps u0 (hostWrite s p a v) := by
  unfold hostWrite
  repeat'
    first
    | with_reducible assumption | with_reducible apply keeps_ite | with_reducible apply keeps_writeWord

theorem keeps_hostRead {u0 : State} (s : State) (p : Path) (a : Nat) (h0 : Keeps u0 s) :
    Keeps u0 (hostRead s p a) := by
  unfold hostRead
  repeat'
    first
    | with_reducible assumption | with_reducible apply keeps_ite | with_reducible apply keeps_readWord

theorem keeps_readWords {u0 : State} (s : State) (p : Path) (a n : Nat) (h0 : Keeps u0 s) :
    Keeps u0 (readWords s p a n).1 := by
  induction n generalizing s a with
  | zero => exact h0
  | succ n ih => exact ih _ _ (keeps_readWord s p a h0)

theorem keeps_writeWords {u0 : State} (s : State) (p : Path) (a : Nat) (l : List Word) (h0 : Keeps u0 s) :
    Keeps u0 (writeWords s p a l) := by
  induction l generalizing s a with
  | nil => exact h0
  | cons v t ih => exact ih _ _ (keeps_writeWord s (some p) a v h0)

theorem keeps_execRegisterWrite (p : Path) (addr : Nat) (v : Word) (s : State) :
    ∃ s', execRegisterWrite p addr v s = .next s' ∧ Keeps s s' := by
  refine ⟨_, rfl, ?_⟩
  repeat'
    first
    | with_reducible assumption | with_reducible exact Keeps.refl _ | with_reducible apply keeps_hostWrite

theorem keeps_execLoRead (p : Path) (addr : Nat) (s : State) :
    ∃ s', execLoRead p addr s = .next s' ∧ Keeps s s' := by
  refine ⟨_, rfl, ?_⟩
  repeat'
    first
    | with_reducible assumption | with_reducible exact Keeps.refl _ | with_reducible apply keeps_hostRead

theorem keeps_commitPage {u0 : State} (s : State) (p : Path) (page cmd : Nat) (h0 : Keeps u0 s) :
    Keeps u0 (commitPage s p page cmd) := by
  unfold commitPage
  repeat'
    first
    | with_reducible assumption | with_reducible apply keeps_hostWrite

theorem keeps_execCommitApplyNow (p : Path) (page : Nat) (s : State) :
    ∃ s', execCommitApplyNow p page s = .next s' ∧ Keeps s s' := by
  refine ⟨_, rfl, ?_⟩
  repeat'
    first
    | with_reducible assumption | with_reducible exact Keeps.refl _ | with_reducible apply keeps_commitPage

theorem keeps_execCommitApplyAt (p : Path) (page : Nat) (s : State) :
    ∃ s', execCommitApplyAt p page s = .next s' ∧ Keeps s s' := by
  refine ⟨_, rfl, ?_⟩
  repeat'
    first
    | with_reducible assumption | with_reducible exact Keeps.refl _ | with_reducible apply keeps_commitPage

theorem keeps_execCommitCancel (p : Path) (page : Nat) (s : State) :
    ∃ s', execCommitCancel p page s = .next s' ∧ Keeps s s' := by
  refine ⟨_, rfl, ?_⟩
  repeat'
    first
    | with_reducible assumption | with_reducible exact Keeps.refl _ | with_reducible apply keeps_commitPage

theorem keeps_ctrlPage {u0 : State} (s : State) (p : Path) (page : Nat) (enable freeze reset : Bool) (h0 : Keeps u0
    s) :
    Keeps u0 (ctrlPage s p page enable freeze reset) := by
  unfold ctrlPage
  repeat'
    first
    | with_reducible assumption | with_reducible apply keeps_hostWrite

theorem keeps_execPageEnable (p : Path) (page : Nat) (enable : Bool) (s : State) :
    ∃ s', execPageEnable p page enable s = .next s' ∧ Keeps s s' := by
  refine ⟨_, rfl, ?_⟩
  repeat'
    first
    | with_reducible assumption | with_reducible exact Keeps.refl _ | with_reducible apply keeps_ctrlPage

theorem keeps_execBlockReset (p : Path) (page : Nat) (s : State) :
    ∃ s', execBlockReset p page s = .next s' ∧ Keeps s s' := by
  refine ⟨_, rfl, ?_⟩
  repeat'
    first
    | with_reducible assumption | with_reducible exact Keeps.refl _ | with_reducible apply keeps_ctrlPage

theorem keeps_execFreeze (p : Path) (page : Nat) (on : Bool) (s : State) :
    ∃ s', execFreeze p page on s = .next s' ∧ Keeps s s' := by
  refine ⟨_, rfl, ?_⟩
  repeat'
    first
    | with_reducible assumption | with_reducible exact Keeps.refl _ | with_reducible apply keeps_ctrlPage

theorem keeps_execErrcodeClear (p : Path) (page : Nat) (mask : Word) (s : State) :
    ∃ s', execErrcodeClear p page mask s = .next s' ∧ Keeps s s' := by
  refine ⟨_, rfl, ?_⟩
  repeat'
    first
    | with_reducible assumption | with_reducible exact Keeps.refl _ | with_reducible apply keeps_hostWrite

theorem keeps_execCoefDataWrite (p : Path) (v : Word) (s : State) :
    ∃ s', execCoefDataWrite p v s = .next s' ∧ Keeps s s' := by
  refine ⟨_, rfl, ?_⟩
  repeat'
    first
    | with_reducible assumption | with_reducible exact Keeps.refl _ | with_reducible apply keeps_hostWrite

theorem keeps_execCoefDataRead (p : Path) (s : State) :
    ∃ s', execCoefDataRead p s = .next s' ∧ Keeps s s' := by
  refine ⟨_, rfl, ?_⟩
  repeat'
    first
    | with_reducible assumption | with_reducible exact Keeps.refl _ | with_reducible apply keeps_hostRead

theorem keeps_execPolyDataWrite (p : Path) (page : Nat) (v : Word) (s : State) :
    ∃ s', execPolyDataWrite p page v s = .next s' ∧ Keeps s s' := by
  refine ⟨_, rfl, ?_⟩
  repeat'
    first
    | with_reducible assumption | with_reducible exact Keeps.refl _ | with_reducible apply keeps_hostWrite

theorem keeps_execPolyDataRead (p : Path) (page : Nat) (s : State) :
    ∃ s', execPolyDataRead p page s = .next s' ∧ Keeps s s' := by
  refine ⟨_, rfl, ?_⟩
  repeat'
    first
    | with_reducible assumption | with_reducible exact Keeps.refl _ | with_reducible apply keeps_hostRead

theorem keeps_execRedMinRead (p : Path) (page : Nat) (c : Fin 8) (s : State) :
    ∃ s', execRedMinRead p page c s = .next s' ∧ Keeps s s' := by
  refine ⟨_, rfl, ?_⟩
  repeat'
    first
    | with_reducible assumption | with_reducible exact Keeps.refl _ | with_reducible apply keeps_hostRead

theorem keeps_onHost {u0 : State} (s : State) (f : HostState → HostState) (h0 : Keeps u0 s) :
    Keeps u0 (onHost s f) := by
  unfold onHost
  repeat'
    first
    | with_reducible assumption | with_reducible apply Keeps.record

theorem keeps_spiStart {u0 : State} (s : State) (h0 : Keeps u0 s) :
    Keeps u0 (spiStart s) := by
  unfold spiStart
  repeat'
    first
    | with_reducible assumption | (intro _) | with_reducible apply keeps_onHost | dsimp only

theorem keeps_spiCount {u0 : State} (s : State) (h0 : Keeps u0 s) :
    Keeps u0 (spiCount s) := by
  unfold spiCount
  repeat'
    first
    | with_reducible assumption | (intro _) | with_reducible apply keeps_bumpWrap
    | with_reducible apply keeps_onPath | dsimp only

theorem keeps_spiRefuse {u0 : State} (s : State) (a r : Nat) (h0 : Keeps u0 s) :
    Keeps u0 (spiRefuse s a r) := by
  unfold spiRefuse
  repeat'
    first
    | with_reducible assumption | with_reducible apply keeps_refuseOn

theorem keeps_spiCommand {u0 : State} (s : State) (a : Nat) (act : State → State) (hact : ∀ x, Keeps u0 x → Keeps u0
    (act x)) (h0 : Keeps u0 s) :
    Keeps u0 (spiCommand s a act) := by
  unfold spiCommand
  dsimp only
  repeat'
    first
    | with_reducible assumption | with_reducible apply keeps_ite | with_reducible apply keeps_spiStart
    | with_reducible apply keeps_spiRefuse | with_reducible apply keeps_spiCount | with_reducible apply hact
    | dsimp only

theorem keeps_spiSend {u0 : State} (s : State) (data : State → State × List Word) (hdata : ∀ x, Keeps u0 x → Keeps u0
    (data x).1) (h0 : Keeps u0 s) :
    Keeps u0 (spiSend s data) := by
  unfold spiSend
  dsimp only
  repeat'
    first
    | with_reducible assumption | (intro _) | with_reducible apply keeps_takeStatus
    | with_reducible apply keeps_onHost | with_reducible apply hdata | dsimp only

theorem keeps_spiLate {u0 : State} (s : State) (a n : Nat) (h0 : Keeps u0 s) :
    Keeps u0 (spiLate s a n) := by
  unfold spiLate
  dsimp only
  repeat'
    first
    | with_reducible assumption | (intro _) | with_reducible apply keeps_spiRefuse
    | with_reducible apply keeps_onHost | with_reducible apply keeps_takeStatus | dsimp only

theorem keeps_cutWord {u0 : State} (s : State) (a : Nat) (cut : Bool) (h0 : Keeps u0 s) :
    Keeps u0 (cutWord s a cut) := by
  unfold cutWord
  repeat'
    first
    | with_reducible assumption | with_reducible apply keeps_ite | with_reducible apply keeps_spiRefuse

theorem keeps_spiRead {u0 : State} (s : State) (a n : Nat) (cut : Bool) (period : Nat) (ready : Bool) (h0 : Keeps u0
    s) :
    Keeps u0 (spiRead s a n cut period ready) := by
  unfold spiRead
  repeat'
    first
    | with_reducible assumption | (intro _) | with_reducible apply keeps_ite
    | with_reducible apply keeps_spiCommand | with_reducible apply keeps_cutWord
    | with_reducible apply keeps_spiSend | with_reducible apply keeps_onPath
    | with_reducible apply keeps_spiLate | with_reducible apply keeps_readWords | dsimp only

theorem keeps_execSpiRead (addr count : Nat) (s : State) (cut : Bool) (period : Nat) (ready : Bool) :
    ∃ s', execSpiRead addr count s cut period ready = .next s' ∧ Keeps s s' := by
  refine ⟨_, rfl, ?_⟩
  repeat'
    first
    | with_reducible assumption | with_reducible exact Keeps.refl _ | with_reducible apply keeps_spiRead

theorem keeps_spiWrite {u0 : State} (s : State) (a : Nat) (l : List Word) (cut : Bool) (h0 : Keeps u0 s) :
    Keeps u0 (spiWrite s a l cut) := by
  unfold spiWrite
  repeat'
    first
    | with_reducible assumption | (intro _) | with_reducible apply keeps_spiCommand
    | with_reducible apply keeps_onHost | with_reducible apply keeps_cutWord
    | with_reducible apply keeps_writeWords | dsimp only

theorem keeps_execSpiWrite (addr : Nat) (data : List Word) (cut : Bool) (s : State) :
    ∃ s', execSpiWrite addr data cut s = .next s' ∧ Keeps s s' := by
  refine ⟨_, rfl, ?_⟩
  repeat'
    first
    | with_reducible assumption | with_reducible exact Keeps.refl _ | with_reducible apply keeps_spiWrite

theorem keeps_spiReadReq {u0 : State} (s : State) (a n : Nat) (cut : Bool) (h0 : Keeps u0 s) :
    Keeps u0 (spiReadReq s a n cut) := by
  unfold spiReadReq
  dsimp only
  repeat'
    first
    | with_reducible assumption | (intro _) | with_reducible apply keeps_ite
    | with_reducible apply keeps_spiCommand | with_reducible apply keeps_onHost
    | with_reducible apply keeps_cutWord | with_reducible apply keeps_spiRefuse
    | with_reducible apply keeps_readWords | dsimp only

theorem keeps_execSpiReadReq (addr len : Nat) (s : State) (cut : Bool) :
    ∃ s', execSpiReadReq addr len s cut = .next s' ∧ Keeps s s' := by
  refine ⟨_, rfl, ?_⟩
  repeat'
    first
    | with_reducible assumption | with_reducible exact Keeps.refl _ | with_reducible apply keeps_spiReadReq

theorem keeps_drawWords {u0 : State} (s : State) (n : Nat) (h0 : Keeps u0 s) :
    Keeps u0 (drawWords s n).1 := by
  induction n generalizing s with
  | zero => exact h0
  | succ n ih => exact ih _ (Keeps.recordDraw h0)

theorem keeps_spiFetch {u0 : State} (s : State) (n : Nat) (cut : Bool) (h0 : Keeps u0 s) :
    Keeps u0 (spiFetch s n cut) := by
  unfold spiFetch
  dsimp only
  repeat'
    first
    | with_reducible assumption | (intro _) | with_reducible apply keeps_spiCommand
    | with_reducible apply keeps_cutWord | with_reducible apply keeps_spiSend
    | with_reducible apply keeps_spiRefuse | with_reducible apply keeps_drawWords
    | with_reducible apply keeps_onHost | split | dsimp only

theorem keeps_execSpiFetch (count : Nat) (s : State) (cut : Bool) :
    ∃ s', execSpiFetch count s cut = .next s' ∧ Keeps s s' := by
  refine ⟨_, rfl, ?_⟩
  repeat'
    first
    | with_reducible assumption | with_reducible exact Keeps.refl _ | with_reducible apply keeps_spiFetch

theorem keeps_spiStatus {u0 : State} (s : State) (h0 : Keeps u0 s) :
    Keeps u0 (spiStatus s) := by
  unfold spiStatus
  repeat'
    first
    | with_reducible assumption | (intro _) | with_reducible apply keeps_ite
    | with_reducible apply keeps_spiSend | with_reducible apply keeps_spiCount
    | with_reducible apply keeps_spiStart | dsimp only

theorem keeps_execSpiStatus (s : State) :
    ∃ s', execSpiStatus s = .next s' ∧ Keeps s s' := by
  refine ⟨_, rfl, ?_⟩
  repeat'
    first
    | with_reducible assumption | with_reducible exact Keeps.refl _ | with_reducible apply keeps_spiStatus

theorem keeps_resetPort {u0 : State} (s : State) (h0 : Keeps u0 s) :
    Keeps u0 (resetPort s) := by
  unfold resetPort
  dsimp only
  repeat'
    first
    | with_reducible assumption | (intro _) | with_reducible apply keeps_spiCommand
    | with_reducible apply keeps_wr | with_reducible apply keeps_spiCount | with_reducible apply keeps_onHost
    | dsimp only

theorem keeps_execResetPort (s : State) :
    ∃ s', execResetPort s = .next s' ∧ Keeps s s' := by
  refine ⟨_, rfl, ?_⟩
  repeat'
    first
    | with_reducible assumption | with_reducible exact Keeps.refl _ | with_reducible apply keeps_resetPort

theorem keeps_busyEnd {u0 : State} (s : State) (h0 : Keeps u0 s) :
    Keeps u0 (busyEnd s) := by
  unfold busyEnd
  repeat'
    first
    | with_reducible assumption | (intro _) | with_reducible apply keeps_ite
    | with_reducible apply keeps_onHost | dsimp only

theorem keeps_execBusyEnd (s : State) :
    ∃ s', execBusyEnd s = .next s' ∧ Keeps s s' := by
  refine ⟨_, rfl, ?_⟩
  repeat'
    first
    | with_reducible assumption | with_reducible exact Keeps.refl _ | with_reducible apply keeps_busyEnd

theorem keeps_execAttentionPulse (s : State) :
    ∃ s', execAttentionPulse s = .next s' ∧ Keeps s s' := by
  refine ⟨_, rfl, ?_⟩
  repeat'
    first
    | with_reducible assumption | with_reducible exact Keeps.refl _ | (intro _)
    | with_reducible apply keeps_when | with_reducible apply keeps_onHost | dsimp only

theorem keeps_execAttentionPulseEnd (s : State) :
    ∃ s', execAttentionPulseEnd s = .next s' ∧ Keeps s s' := by
  refine ⟨_, rfl, ?_⟩
  repeat'
    first
    | with_reducible assumption | with_reducible exact Keeps.refl _ | (intro _)
    | with_reducible apply keeps_onHost | dsimp only

theorem keeps_execAttentionRepeat (s : State) :
    ∃ s', execAttentionRepeat s = .next s' ∧ Keeps s s' := by
  refine ⟨_, rfl, ?_⟩
  repeat'
    first
    | with_reducible assumption | with_reducible exact Keeps.refl _ | (intro _)
    | with_reducible apply keeps_when | with_reducible apply keeps_onHost | dsimp only

theorem keeps_setSession {u0 : State} (s : State) (k : Nat) (x : Option Session) (h0 : Keeps u0 s) :
    Keeps u0 (setSession s k x) := by
  unfold setSession
  repeat'
    first
    | with_reducible assumption | (intro _) | with_reducible apply keeps_onHost | dsimp only

theorem keeps_frameRefuse {u0 : State} (s : State) (f : AccessFrame) (r : Rej) (h0 : Keeps u0 s) :
    Keeps u0 (frameRefuse s f r) := by
  unfold frameRefuse
  repeat'
    first
    | with_reducible assumption | with_reducible apply keeps_bumpSat | with_reducible apply keeps_refuseOn

theorem keeps_refuseFrame {u0 : State} (s : State) (f : AccessFrame) (k : Option (Fin 8)) (r : Rej) (h0 : Keeps u0 s)
    :
    Keeps u0 (refuseFrame s f k r).1 := by
  unfold refuseFrame
  dsimp only
  repeat'
    first
    | with_reducible assumption | with_reducible apply keeps_frameRefuse
    | with_reducible apply keeps_takeStatus | split | dsimp only

theorem keeps_frameWrites {u0 : State} (s : State) (p : Path) (a : Nat) (l : List Word) (h0 : Keeps u0 s) :
    Keeps u0 (frameWrites s p a l).1 := by
  induction l generalizing s a with
  | nil => exact h0
  | cons v t ih => exact ih _ _ (keeps_writeWord _ (some p) a v (keeps_onPath s p _ h0))

theorem keeps_runFrame {u0 : State} (s : State) (f : AccessFrame) (k : Fin 8) (h0 : Keeps u0 s) :
    Keeps u0 (runFrame s f k).1 := by
  unfold runFrame
  dsimp only
  repeat'
    first
    | with_reducible assumption | (intro _) | with_reducible apply keeps_ite
    | with_reducible apply keeps_ite_fst | with_reducible apply keeps_onPath
    | with_reducible apply keeps_frameWrites | with_reducible apply keeps_takeStatus
    | with_reducible apply keeps_bumpSat | with_reducible apply keeps_readWords | dsimp only

theorem keeps_accessFrame {u0 : State} (s : State) (f : AccessFrame) (h0 : Keeps u0 s) :
    Keeps u0 (accessFrame s f).1 := by
  unfold accessFrame
  dsimp only
  repeat'
    first
    | with_reducible assumption | (intro _) | with_reducible apply keeps_ite
    | with_reducible apply keeps_ite_fst | with_reducible apply keeps_bumpSat
    | with_reducible apply keeps_refuseFrame | with_reducible apply keeps_runFrame
    | with_reducible apply keeps_onPath | with_reducible apply keeps_setSession | split | dsimp only

theorem keeps_accessHeard {u0 : State} (s : State) (f : AccessFrame) (h0 : Keeps u0 s) :
    Keeps u0 (accessHeard s f) := by
  unfold accessHeard
  refine keeps_ite h0 ?_
  have hk := keeps_accessFrame s f h0
  split <;> rename_i he <;> rw [he] at hk
  · exact keeps_sendRing _ _ _ hk
  · exact hk

theorem keeps_execRingRead (f : AccessFrame) (s : State) :
    ∃ s', execRingRead f s = .next s' ∧ Keeps s s' := by
  refine ⟨_, rfl, ?_⟩
  repeat'
    first
    | with_reducible assumption | with_reducible exact Keeps.refl _ | with_reducible apply keeps_accessHeard

theorem keeps_execRingWrite (f : AccessFrame) (s : State) :
    ∃ s', execRingWrite f s = .next s' ∧ Keeps s s' := by
  refine ⟨_, rfl, ?_⟩
  repeat'
    first
    | with_reducible assumption | with_reducible exact Keeps.refl _ | with_reducible apply keeps_accessHeard

theorem keeps_sessionTimeout {u0 : State} (s : State) (k : Fin 8) (h0 : Keeps u0 s) :
    Keeps u0 (sessionTimeout s k) := by
  unfold sessionTimeout
  repeat'
    first
    | with_reducible assumption | (intro _) | with_reducible apply keeps_ite
    | with_reducible apply keeps_setSession | with_reducible apply keeps_onPath
    | with_reducible apply keeps_lapse | dsimp only

theorem keeps_execSessionTimeout (slot : Fin 8) (s : State) :
    ∃ s', execSessionTimeout slot s = .next s' ∧ Keeps s s' := by
  refine ⟨_, rfl, ?_⟩
  repeat'
    first
    | with_reducible assumption | with_reducible exact Keeps.refl _ | with_reducible apply keeps_sessionTimeout

end Sys2Proof.Machine
end

