-- ==== Sys2Proof/Laws/KeepsDawn.lean ====
section
/-!
SUPPORT. What every operation of Machine/Dawn.lean keeps (Keeps): one lemma for each operation that answers a state.
-/
set_option linter.all false

namespace Sys2Proof.Machine

theorem keeps_endPhase {u0 : State} (s : State) (h0 : Keeps u0 s) :
    Keeps u0 (endPhase s) := by
  unfold endPhase
  dsimp only
  repeat'
    first
    | with_reducible assumption | (intro _) | with_reducible apply keeps_ite | with_reducible apply keeps_wr
    | with_reducible apply keeps_setWait | with_reducible apply keeps_onPwr | dsimp only

theorem keeps_dawnRun {u0 s : State} (n : Nat) (h0 : Keeps u0 s) : Keeps u0 (dawnRun n s) := by
  induction n generalizing s with
  | zero => exact h0
  | succ n ih => exact keeps_ite (ih (keeps_endPhase s h0)) h0

theorem keeps_dawnAdvance {u0 : State} (s : State) (h0 : Keeps u0 s) :
    Keeps u0 (dawnAdvance s) := by
  unfold dawnAdvance
  repeat'
    first
    | with_reducible assumption | with_reducible apply keeps_ite | with_reducible apply keeps_leaveDawn
    | with_reducible apply keeps_dawnRun

theorem keeps_bistCores {u0 : State} (s : State) (failed : List (Fin 32 × Fin 9)) (h0 : Keeps u0 s) :
    Keeps u0 (bistCores s failed) := by
  unfold bistCores
  dsimp only
  repeat'
    first
    | with_reducible assumption | (intro _) | with_reducible apply keeps_ite | with_reducible apply keeps_foldl
    | with_reducible apply keeps_retireSlice | with_reducible apply Keeps.record
    | with_reducible apply Keeps.recordDraw | dsimp only

theorem keeps_loadCalSet {u0 : State} (s : State) (r : List NvRead) (h0 : Keeps u0 s) :
    Keeps u0 (loadCalSet s r) := by
  unfold loadCalSet
  dsimp only
  repeat'
    first
    | with_reducible assumption | with_reducible apply keeps_evtIf | with_reducible apply keeps_countReads
    | with_reducible apply keeps_wr | split | with_reducible apply Keeps.record | dsimp only

theorem keeps_bistRecal {u0 : State} (s : State) (h0 : Keeps u0 s) :
    Keeps u0 (bistRecal s) := by
  unfold bistRecal
  dsimp only
  repeat'
    first
    | with_reducible assumption | with_reducible apply keeps_ite | with_reducible apply keeps_wr
    | with_reducible apply keeps_calStart | with_reducible apply Keeps.record | dsimp only

theorem keeps_bistDone {u0 : State} (s : State) (r : BistResult) (h0 : Keeps u0 s) :
    Keeps u0 (bistDone s r) := by
  unfold bistDone
  dsimp only
  repeat'
    first
    | with_reducible assumption | (intro _) | with_reducible apply keeps_foldl | with_reducible apply keeps_wr
    | with_reducible apply keeps_bistCores | with_reducible apply keeps_evtIf
    | with_reducible apply keeps_onEdge | with_reducible apply keeps_endPhase
    | with_reducible apply keeps_bistRecal | with_reducible apply keeps_calUnits
    | with_reducible apply keeps_calMeasure | with_reducible apply keeps_loadCalSet
    | with_reducible apply Keeps.record | dsimp only

theorem keeps_execBistDone (r : BistResult) (s : State) :
    ∃ s', execBistDone r s = .next s' ∧ Keeps s s' := by
  refine ⟨_, rfl, ?_⟩
  repeat'
    first
    | with_reducible assumption | with_reducible exact Keeps.refl _ | (intro _)
    | with_reducible apply keeps_when | with_reducible apply keeps_bistDone | dsimp only

theorem keeps_wipe {u0 : State} (s : State) (k : Kept) (h0 : Keeps u0 s) : Keeps u0 (wipe s k) := by
  have hf : Keeps u0 { s with regs := (if s.pwr.warm.running then
        s.regs.filter (fun e => k.reg e.1 || alwaysKept e.1) else s.regs) } := by
    split
    · exact keeps_regs_filter _ h0
    · exact h0
  unfold wipe
  exact hf.same rfl rfl rfl rfl rfl rfl rfl rfl rfl

theorem keeps_imagePair {u0 : State} (s : State) (a : Nat) (v : Word) (h0 : Keeps u0 s) :
    Keeps u0 (imagePair s a v) := by
  unfold imagePair
  dsimp only
  repeat'
    first
    | with_reducible assumption | with_reducible apply keeps_ite | with_reducible apply keeps_bumpSat
    | with_reducible apply keeps_headerEffect | with_reducible apply keeps_regEffect | split | dsimp only

theorem keeps_loadMemories {u0 : State} (s : State) (k : Kept) (m : ReamImage) (h0 : Keeps u0 s) :
    Keeps u0 (loadMemories s k m) := by
  unfold loadMemories
  repeat'
    first
    | with_reducible assumption | (intro _) | with_reducible apply keeps_foldl
    | with_reducible apply Keeps.record | dsimp only

theorem keeps_loadEffects {u0 : State} (old s0 s : State) (h0 : Keeps u0 s) :
    Keeps u0 (loadEffects old s0 s) := by
  unfold loadEffects
  dsimp only
  repeat'
    first
    | with_reducible assumption | (intro _) | with_reducible apply keeps_ite | with_reducible apply keeps_foldl
    | with_reducible apply keeps_commitEffects | split | with_reducible apply Keeps.record | dsimp only

theorem keeps_loadTable {u0 : State} (s : State) (m : ReamImage) (h0 : Keeps u0 s) :
    Keeps u0 (loadTable s m) := by
  unfold loadTable
  dsimp only
  repeat'
    first
    | with_reducible assumption | with_reducible apply keeps_ite | with_reducible apply keeps_wr
    | with_reducible apply keeps_vatPutBytes | dsimp only

theorem keeps_loadImage {u0 : State} (s : State) (h0 : Keeps u0 s) :
    Keeps u0 (loadImage s) := by
  unfold loadImage
  dsimp only
  repeat'
    first
    | with_reducible assumption | (intro _) | with_reducible apply keeps_foldl
    | with_reducible apply keeps_wipe | with_reducible apply keeps_loadEffects | with_reducible apply keeps_wr
    | with_reducible apply keeps_loadMemories | with_reducible apply keeps_imagePair
    | with_reducible apply keeps_loadTable | split | with_reducible apply Keeps.recordFilter | dsimp only

theorem keeps_noteFallback {u0 : State} (s : State) (h0 : Keeps u0 s) :
    Keeps u0 (noteFallback s) := by
  unfold noteFallback
  repeat'
    first
    | with_reducible assumption | with_reducible apply keeps_wr

theorem keeps_reamLoaded {u0 : State} (s : State) (h0 : Keeps u0 s) :
    Keeps u0 (reamLoaded s) := by
  unfold reamLoaded
  dsimp only
  repeat'
    first
    | with_reducible assumption | (intro _) | with_reducible apply keeps_ite
    | with_reducible apply keeps_clearBlock | with_reducible apply keeps_safeDawn
    | with_reducible apply keeps_noteFallback | with_reducible apply keeps_loadImage
    | with_reducible apply keeps_onPwr | with_reducible apply keeps_dawnAdvance
    | with_reducible apply keeps_endPhase | dsimp only

theorem keeps_readImage {u0 : State} (s : State) (r : List NvRead) (h0 : Keeps u0 s) :
    Keeps u0 (readImage s r) := by
  unfold readImage
  dsimp only
  repeat'
    first
    | with_reducible assumption | with_reducible apply keeps_evtIf | with_reducible apply keeps_countReads
    | with_reducible apply Keeps.record | dsimp only

theorem keeps_execReamImageLoaded (s : State) (slot0 slot1 : NvRead) :
    ∃ s', execReamImageLoaded s slot0 slot1 = .next s' ∧ Keeps s s' := by
  refine ⟨_, rfl, ?_⟩
  repeat'
    first
    | with_reducible assumption | with_reducible exact Keeps.refl _ | (intro _)
    | with_reducible apply keeps_when | with_reducible apply keeps_reamLoaded
    | with_reducible apply keeps_readImage | dsimp only

theorem keeps_execLinkWaitExpiry (s : State) :
    ∃ s', execLinkWaitExpiry s = .next s' ∧ Keeps s s' := by
  refine ⟨_, rfl, ?_⟩
  repeat'
    first
    | with_reducible assumption | with_reducible exact Keeps.refl _ | (intro _)
    | with_reducible apply keeps_when | with_reducible apply keeps_dawnAdvance
    | with_reducible apply keeps_endPhase | dsimp only

theorem keeps_execDawnStall (cause : Nat) (s : State) :
    ∃ s', execDawnStall cause s = .next s' ∧ Keeps s s' := by
  refine ⟨_, rfl, ?_⟩
  repeat'
    first
    | with_reducible assumption | with_reducible exact Keeps.refl _ | (intro _)
    | with_reducible apply keeps_when | with_reducible apply keeps_evt | with_reducible apply keeps_setWait
    | dsimp only

theorem keeps_execLinkUp (l : Lane) (s : State) :
    ∃ s', execLinkUp l s = .next s' ∧ Keeps s s' := by
  refine ⟨_, rfl, ?_⟩
  repeat'
    first
    | with_reducible assumption | with_reducible exact Keeps.refl _ | (intro _)
    | with_reducible apply keeps_when | with_reducible apply keeps_dawnAdvance
    | with_reducible apply keeps_linkRise | dsimp only

theorem keeps_execLinkDown (l : Lane) (s : State) :
    ∃ s', execLinkDown l s = .next s' ∧ Keeps s s' := by
  refine ⟨_, rfl, ?_⟩
  repeat'
    first
    | with_reducible assumption | with_reducible exact Keeps.refl _ | with_reducible apply keeps_dawnAdvance
    | with_reducible apply keeps_linkLost

theorem keeps_execAddressAssignmentSend (s : State) :
    ∃ s', execAddressAssignmentSend s = .next s' ∧ Keeps s s' := by
  refine ⟨_, rfl, ?_⟩
  repeat'
    first
    | with_reducible assumption | with_reducible exact Keeps.refl _ | (intro _)
    | with_reducible apply keeps_when | with_reducible apply keeps_dawnAdvance
    | with_reducible apply keeps_assignmentSend | dsimp only

theorem keeps_execAddressAssignment (a : Assignment) (s : State) :
    ∃ s', execAddressAssignment a s = .next s' ∧ Keeps s s' := by
  refine ⟨_, rfl, ?_⟩
  repeat'
    first
    | with_reducible assumption | with_reducible exact Keeps.refl _ | (intro _)
    | with_reducible apply keeps_when | with_reducible apply keeps_dawnAdvance
    | with_reducible apply keeps_assignmentHeard | dsimp only

theorem keeps_execRootAlone (s : State) :
    ∃ s', execRootAlone s = .next s' ∧ Keeps s s' := by
  refine ⟨_, rfl, ?_⟩
  repeat'
    first
    | with_reducible assumption | with_reducible exact Keeps.refl _ | with_reducible apply keeps_dawnAdvance
    | with_reducible apply keeps_rootAlone

theorem keeps_execSyncMessage (m : SyncMsg) (s : State) :
    ∃ s', execSyncMessage m s = .next s' ∧ Keeps s s' := by
  refine ⟨_, rfl, ?_⟩
  repeat'
    first
    | with_reducible assumption | with_reducible exact Keeps.refl _ | with_reducible apply keeps_dawnAdvance
    | with_reducible apply keeps_syncMessage

theorem keeps_execGridStartIndex (s : State) :
    ∃ s', execGridStartIndex s = .next s' ∧ Keeps s s' := by
  refine ⟨_, rfl, ?_⟩
  repeat'
    first
    | with_reducible assumption | with_reducible exact Keeps.refl _ | with_reducible apply keeps_ite
    | with_reducible apply keeps_gridStartIndex | with_reducible apply keeps_dawnAdvance
    | with_reducible apply keeps_warmMarks | dsimp only

theorem keeps_execPaired (s : State) :
    ∃ s', execPaired s = .next s' ∧ Keeps s s' := by
  refine ⟨_, rfl, ?_⟩
  repeat'
    first
    | with_reducible assumption | with_reducible exact Keeps.refl _ | (intro _)
    | with_reducible apply keeps_when | with_reducible apply keeps_dawnAdvance
    | with_reducible apply keeps_pairUp | dsimp only

theorem keeps_execHeartbeat (w : Word) (s : State) :
    ∃ s', execHeartbeat w s = .next s' ∧ Keeps s s' := by
  refine ⟨_, rfl, ?_⟩
  repeat'
    first
    | with_reducible assumption | with_reducible exact Keeps.refl _ | with_reducible apply keeps_dawnAdvance
    | with_reducible apply keeps_heartbeatHeard

theorem keeps_execPartnerLost (s : State) :
    ∃ s', execPartnerLost s = .next s' ∧ Keeps s s' := by
  refine ⟨_, rfl, ?_⟩
  repeat'
    first
    | with_reducible assumption | with_reducible exact Keeps.refl _ | (intro _)
    | with_reducible apply keeps_when | with_reducible apply keeps_dawnAdvance
    | with_reducible apply keeps_partnerLost | dsimp only

theorem keeps_execArbselChange (level : Bool) (s : State) :
    ∃ s', execArbselChange level s = .next s' ∧ Keeps s s' := by
  refine ⟨_, rfl, ?_⟩
  repeat'
    first
    | with_reducible assumption | with_reducible exact Keeps.refl _ | with_reducible apply keeps_dawnAdvance
    | with_reducible apply keeps_arbChange

end Sys2Proof.Machine
end

