-- ==== Sys2Proof/Laws/KeepsFrames.lean ====
section
/-!
SUPPORT. What every operation of Machine/Frames.lean keeps (Keeps): one lemma for each operation that answers a state.
-/
set_option linter.all false

namespace Sys2Proof.Machine

theorem keeps_windowTake {u0 : State} (s : State) (m : Mac) (use q : Nat) (h0 : Keeps u0 s) :
    Keeps u0 (windowTake s m use q).1 := by
  unfold windowTake
  dsimp only
  repeat'
    first
    | with_reducible assumption | (intro _) | with_reducible apply keeps_onRing | split | dsimp only

theorem keeps_clearWindows {u0 : State} (s : State) (m : Mac) (h0 : Keeps u0 s) :
    Keeps u0 (clearWindows s m) := by
  unfold clearWindows
  repeat'
    first
    | with_reducible assumption | (intro _) | with_reducible apply keeps_onRing | dsimp only

theorem keeps_countDiscard {u0 : State} (s : State) (a b : Verdict) (h0 : Keeps u0 s) :
    Keeps u0 (countDiscard s a b) := by
  unfold countDiscard
  repeat'
    first
    | with_reducible assumption | with_reducible apply keeps_ite | with_reducible apply keeps_bumpWrap
    | with_reducible apply keeps_bumpSat

theorem keeps_countUnknown {u0 : State} (s : State) (h0 : Keeps u0 s) :
    Keeps u0 (countUnknown s) := by
  unfold countUnknown
  repeat'
    first
    | with_reducible assumption | with_reducible apply keeps_bumpSat

theorem keeps_forwardBody {u0 : State} (s : State) (port out : Lane) (b : FrameBody) (h0 : Keeps u0 s) :
    Keeps u0 (forwardBody s port out b).1 := by
  unfold forwardBody
  dsimp only
  repeat'
    first
    | with_reducible assumption | with_reducible apply keeps_drawn | split
    | with_reducible apply Keeps.recordDraw | dsimp only

theorem keeps_forwardFrame {u0 : State} (s : State) (port : Lane) (f : RxFrame) (good : Bool) (h0 : Keeps u0 s) :
    Keeps u0 (forwardFrame s port f good) := by
  unfold forwardFrame
  dsimp only
  repeat'
    first
    | with_reducible assumption | with_reducible apply keeps_ite | with_reducible apply keeps_forwardBody
    | with_reducible apply keeps_bumpWrap | with_reducible apply keeps_emit | dsimp only

theorem keeps_insertAs {u0 : State} (s : State) (f : RxFrame) (h0 : Keeps u0 s) :
    Keeps u0 (insertAs s f) := by
  unfold insertAs
  dsimp only
  repeat'
    first
    | with_reducible assumption | (intro _) | with_reducible apply keeps_ite
    | with_reducible apply keeps_sendBeacon | with_reducible apply keeps_onRing
    | with_reducible apply keeps_bumpWrap | with_reducible apply keeps_emit | dsimp only

theorem keeps_forwardL3 {u0 : State} (s : State) (f : RxFrame) (h0 : Keeps u0 s) :
    Keeps u0 (forwardL3 s f) := by
  unfold forwardL3
  repeat'
    first
    | with_reducible assumption | with_reducible apply keeps_ite | with_reducible apply keeps_bumpWrap
    | with_reducible apply keeps_emit

theorem keeps_everyCopy {u0 : State} (s : State) (port : Lane) (b : FrameBody) (h0 : Keeps u0 s) :
    Keeps u0 (everyCopy s port b) := by
  unfold everyCopy
  repeat'
    first
    | with_reducible assumption | with_reducible apply keeps_hearNode | with_reducible apply keeps_syncMessage
    | split

theorem keeps_everyRootCopy {u0 : State} (s : State) (port : Lane) (b : FrameBody) (h0 : Keeps u0 s) :
    Keeps u0 (everyRootCopy s port b) := by
  unfold everyRootCopy
  repeat'
    first
    | with_reducible assumption | with_reducible apply keeps_hearRootCopy | split

theorem keeps_localFrame {u0 : State} (s : State) (port : Lane) (f : RxFrame) (h0 : Keeps u0 s) :
    Keeps u0 (localFrame s port f) := by
  unfold localFrame
  repeat'
    first
    | with_reducible assumption | with_reducible apply keeps_acknowledgement
    | with_reducible apply keeps_beaconNews | with_reducible apply keeps_assignmentHeard
    | with_reducible apply keeps_admissionHeard | with_reducible apply keeps_replyHeard
    | with_reducible apply keeps_gridStartHeard | with_reducible apply keeps_ledgerHeard
    | with_reducible apply keeps_rootBeaconNews | with_reducible apply keeps_ringTriggered
    | with_reducible apply keeps_safeFrameRx | with_reducible apply keeps_accessHeard
    | with_reducible apply keeps_announceHeard | split

theorem keeps_twinFrame {u0 : State} (s : State) (b : FrameBody) (h0 : Keeps u0 s) :
    Keeps u0 (twinFrame s b) := by
  unfold twinFrame
  repeat'
    first
    | with_reducible assumption | with_reducible apply keeps_heartbeatHeard
    | with_reducible apply keeps_mirrorHeard | with_reducible apply keeps_positionsHeard
    | with_reducible apply keeps_twinAckHeard | with_reducible apply keeps_handoverHeard
    | with_reducible apply keeps_snapshotHeard | split

theorem keeps_countRx {u0 : State} (s : State) (port : Lane) (ok : Bool) (h0 : Keeps u0 s) :
    Keeps u0 (countRx s port ok) := by
  unfold countRx
  dsimp only
  repeat'
    first
    | with_reducible assumption | with_reducible apply keeps_ite | with_reducible apply keeps_bumpWrap
    | with_reducible apply keeps_evt | with_reducible apply keeps_bumpSat | dsimp only

theorem keeps_taggedFrame {u0 : State} (s : State) (port : Lane) (f : RxFrame) (q : Nat) (h0 : Keeps u0 s) :
    Keeps u0 (taggedFrame s port f q) := by
  unfold taggedFrame
  dsimp only
  repeat'
    first
    | with_reducible assumption | with_reducible apply keeps_ite | with_reducible apply keeps_clearWindows
    | with_reducible apply keeps_windowTake | with_reducible apply keeps_countDiscard
    | with_reducible apply keeps_forwardFrame | with_reducible apply keeps_forwardL3
    | with_reducible apply keeps_countUnknown | with_reducible apply keeps_everyCopy
    | with_reducible apply keeps_everyRootCopy | with_reducible apply keeps_localFrame | split | dsimp only

theorem keeps_untaggedFrame {u0 : State} (s : State) (port : Lane) (b : FrameBody) (h0 : Keeps u0 s) :
    Keeps u0 (untaggedFrame s port b) := by
  unfold untaggedFrame
  repeat'
    first
    | with_reducible assumption | with_reducible apply keeps_pdelayReq | with_reducible apply keeps_pdelayResp
    | with_reducible apply keeps_countUnknown | split

theorem keeps_badFrame {u0 : State} (s : State) (port : Lane) (f : RxFrame) (h0 : Keeps u0 s) :
    Keeps u0 (badFrame s port f) := by
  unfold badFrame
  dsimp only
  repeat'
    first
    | with_reducible assumption | with_reducible apply keeps_ite | with_reducible apply keeps_windowTake
    | with_reducible apply keeps_forwardFrame | split | dsimp only

theorem keeps_ringPortFrame {u0 : State} (s : State) (port : Lane) (f : RxFrame) (h0 : Keeps u0 s) :
    Keeps u0 (ringPortFrame s port f) := by
  unfold ringPortFrame
  repeat'
    first
    | with_reducible assumption | with_reducible apply keeps_ite | with_reducible apply keeps_badFrame
    | with_reducible apply keeps_hearRootCopy | with_reducible apply keeps_untaggedFrame
    | with_reducible apply keeps_taggedFrame | split

theorem keeps_ringFrame {u0 : State} (s : State) (port : Lane) (f : RxFrame) (h0 : Keeps u0 s) :
    Keeps u0 (ringFrame s port f) := by
  unfold ringFrame
  dsimp only
  repeat'
    first
    | with_reducible assumption | with_reducible apply keeps_ite | with_reducible apply keeps_countRx
    | with_reducible apply keeps_dawnAdvance | with_reducible apply keeps_twinFrame
    | with_reducible apply keeps_ringPortFrame | dsimp only

theorem keeps_execRingFrame (port : Lane) (f : RxFrame) (s : State) :
    ∃ s', execRingFrame port f s = .next s' ∧ Keeps s s' := by
  refine ⟨_, rfl, ?_⟩
  repeat'
    first
    | with_reducible assumption | with_reducible exact Keeps.refl _ | with_reducible apply keeps_ringFrame

theorem keeps_l3Ptp {u0 : State} (s : State) (f : RxFrame) (h0 : Keeps u0 s) :
    Keeps u0 (l3Ptp s f) := by
  unfold l3Ptp
  dsimp only
  repeat'
    first
    | with_reducible assumption | with_reducible apply keeps_ite | with_reducible apply keeps_discardPtp
    | with_reducible apply keeps_syncMessage | with_reducible apply keeps_followUp
    | with_reducible apply keeps_announceHeard | with_reducible apply keeps_delayReq
    | with_reducible apply keeps_delayResp | split | dsimp only

theorem keeps_hostDrop {u0 : State} (s : State) (h0 : Keeps u0 s) :
    Keeps u0 (hostDrop s) := by
  unfold hostDrop
  repeat'
    first
    | with_reducible assumption | with_reducible apply keeps_evt | with_reducible apply keeps_bumpSat

theorem keeps_takeBucket {u0 s : State} {n : Nat} (h0 : Keeps u0 s) : KeepsSome u0 (takeBucket s n) :=
  KeepsSome.ite (KeepsSome.some (keeps_onAdm s _ h0)) (KeepsSome.none u0)

theorem keeps_meterFrame {u0 : State} (s : State) (f : RxFrame) (h0 : Keeps u0 s) : Keeps u0 (meterFrame s f) := by
  unfold meterFrame
  split
  · rename_i t ht
    exact keeps_insertAs _ _ (keeps_takeBucket h0 t ht)
  · exact keeps_hostDrop _ h0

theorem keeps_answerL3 {u0 : State} (s : State) (a : AccessFrame) (r : Rej) (h0 : Keeps u0 s) :
    Keeps u0 (answerL3 s a r) := by
  unfold answerL3
  dsimp only
  repeat'
    first
    | with_reducible assumption | with_reducible apply keeps_frameRefuse | with_reducible apply keeps_emitOwn
    | dsimp only

theorem keeps_l3Access {u0 : State} (s : State) (f : RxFrame) (a : AccessFrame) (h0 : Keeps u0 s) :
    Keeps u0 (l3Access s f a) := by
  unfold l3Access
  repeat'
    first
    | with_reducible assumption | (intro _) | with_reducible apply keeps_ite
    | with_reducible apply keeps_accessHeard | with_reducible apply keeps_answerL3
    | with_reducible apply keeps_meterFrame | split | dsimp only

theorem keeps_l3Root {u0 : State} (s : State) (f : RxFrame) (h0 : Keeps u0 s) :
    Keeps u0 (l3Root s f) := by
  unfold l3Root
  repeat'
    first
    | with_reducible assumption | with_reducible apply keeps_ite | with_reducible apply keeps_l3Access
    | with_reducible apply keeps_l3Ptp | with_reducible apply keeps_localFrame
    | with_reducible apply keeps_hostDrop | with_reducible apply keeps_meterFrame | split

theorem keeps_l3Frame {u0 : State} (s : State) (f : RxFrame) (h0 : Keeps u0 s) :
    Keeps u0 (l3Frame s f) := by
  unfold l3Frame
  dsimp only
  repeat'
    first
    | with_reducible assumption | with_reducible apply keeps_ite | with_reducible apply keeps_countRx
    | with_reducible apply keeps_dawnAdvance | with_reducible apply keeps_l3Root | dsimp only

theorem keeps_execL3Frame (f : RxFrame) (s : State) :
    ∃ s', execL3Frame f s = .next s' ∧ Keeps s s' := by
  refine ⟨_, rfl, ?_⟩
  repeat'
    first
    | with_reducible assumption | with_reducible exact Keeps.refl _ | with_reducible apply keeps_l3Frame

end Sys2Proof.Machine
end

