-- ==== Sys2Proof/Laws/KeepsTick.lean ====
section
/-!
SUPPORT. What every operation of Machine/Tick.lean keeps (Keeps): one lemma for each operation that answers a state.
-/
set_option linter.all false

namespace Sys2Proof.Machine

theorem keeps_tick {u0 : State} (s : State) (h0 : Keeps u0 s) :
    Keeps u0 (tick s) := by
  unfold tick
  repeat'
    first
    | with_reducible assumption | (intro _) | with_reducible apply keeps_ite
    | with_reducible apply keeps_dawnAdvance | with_reducible apply keeps_tickPrbs
    | with_reducible apply keeps_tickPorts | with_reducible apply keeps_tickEdges
    | with_reducible apply keeps_tickCommits | with_reducible apply keeps_onTime | dsimp only

end Sys2Proof.Machine
end

