-- ==== Sys2Proof/Laws/KeepsStep.lean ====
section
/-!
SUPPORT. Every command answers a next state and keeps what Keeps says.
-/
namespace Sys2Proof.Machine

/-- Every command goes on, and keeps what every operation keeps. -/
theorem exec_keeps (c : Instr) (s : State) : ∃ t, exec c s = .next t ∧ Keeps s t := by
  cases c with
  | vbkApplied => exact keeps_execVbkApplied s
  | railLost r => exact keeps_execRailLost r s
  | analogRailHoldEnd r => exact keeps_execAnalogRailHoldEnd r s
  | vdd12lRestored => exact keeps_execVdd12lRestored s
  | powerGood => exact keeps_execPowerGood s
  | pwrenTimeout => exact keeps_execPwrenTimeout s
  | pwrenRetry => exact keeps_execPwrenRetry s
  | clockLost c => exact keeps_execClockLost c s
  | clockRestored c => exact keeps_execClockRestored c s
  | refclkLost r => exact keeps_execRefclkLost r s
  | refclkRestored r => exact keeps_execRefclkRestored r s
  | nporLow => exact keeps_execNporLow s
  | nporRelease => exact keeps_execNporRelease s
  | nwake => exact keeps_execNwake s
  | wakeAt => exact keeps_execWakeAt s
  | nrstreqFall => exact keeps_execNrstreqFall s
  | nrstreqHighSample => exact keeps_execNrstreqHighSample s
  | nrstreqDebounced => exact keeps_execNrstreqDebounced s
  | rstreqFailed => exact keeps_execRstreqFailed s
  | rstreqRecovered => exact keeps_execRstreqRecovered s
  | lockstepMismatch => exact keeps_execLockstepMismatch s
  | watchdog => exact keeps_execWatchdog s
  | queueFull q => exact keeps_execQueueFull q s
  | warmReset => exact keeps_execWarmReset s
  | hubReady => exact keeps_execHubReady s
  | samplingResumed => exact keeps_execSamplingResumed s
  | rstCtrl p v => exact keeps_execRstCtrl p v s
  | targetMidnight p => exact keeps_execTargetMidnight p s
  | targetRemoval p => exact keeps_execTargetRemoval p s
  | targetTwilight p => exact keeps_execTargetTwilight p s
  | duskEnd => exact keeps_execDuskEnd s
  | duskLimit => exact keeps_execDuskLimit s
  | faultSrcClear p mask => exact keeps_execFaultSrcClear p mask s
  | keeperRelease gen ball => exact keeps_execKeeperRelease gen ball s
  | commitApplyNow p page => exact keeps_execCommitApplyNow p page s
  | commitApplyAt p page => exact keeps_execCommitApplyAt p page s
  | commitCancel p page => exact keeps_execCommitCancel p page s
  | scheduledCommit page => exact keeps_execScheduledCommit page s
  | pageEnable p page enable => exact keeps_execPageEnable p page enable s
  | blockReset p page => exact keeps_execBlockReset p page s
  | freeze p page on => exact keeps_execFreeze p page on s
  | errcodeClear p page mask => exact keeps_execErrcodeClear p page mask s
  | registerWrite p addr v => exact keeps_execRegisterWrite p addr v s
  | loRead p addr => exact keeps_execLoRead p addr s
  | spiRead addr count cut period ready => exact keeps_execSpiRead addr count s cut period ready
  | spiWrite addr data e => exact keeps_execSpiWrite addr data e s
  | spiReadReq addr len cut => exact keeps_execSpiReadReq addr len s cut
  | spiFetch count cut => exact keeps_execSpiFetch count s cut
  | spiStatus => exact keeps_execSpiStatus s
  | resetPort => exact keeps_execResetPort s
  | busyEnd => exact keeps_execBusyEnd s
  | attentionPulse => exact keeps_execAttentionPulse s
  | attentionPulseEnd => exact keeps_execAttentionPulseEnd s
  | attentionRepeat => exact keeps_execAttentionRepeat s
  | ringRead f => exact keeps_execRingRead f s
  | ringWrite f => exact keeps_execRingWrite f s
  | sessionTimeout slot => exact keeps_execSessionTimeout slot s
  | queueClear p q => exact keeps_execQueueClear p q s
  | rawRecord ch c => exact keeps_execRawRecord ch c s
  | rangeStep ch => exact keeps_execRangeStep ch s
  | breakEnd ch => exact keeps_execBreakEnd ch s
  | burnOutTest ch moved => exact keeps_execBurnOutTest ch moved s
  | swapPhase ch => exact keeps_execSwapPhase ch s
  | excSettleEnd k => exact keeps_execExcSettleEnd k s
  | excitationFault k f => exact keeps_execExcitationFault k f s
  | rotationStep core => exact keeps_execRotationStep core s
  | sliceCalibrationDone core c => exact keeps_execSliceCalibrationDone core c s
  | bandEdgeLoad ain ecc => exact keeps_execBandEdgeLoad ain s ecc
  | comparatorCrossing ain upper level => exact keeps_execComparatorCrossing ain upper level s
  | minHoldEnd slot leg => exact keeps_execMinHoldEnd slot leg s
  | hkcStart p v => exact keeps_execHkcStart p v s
  | hkcResult code value => exact keeps_execHkcResult code value s
  | hkcSupervision ch value agree => exact keeps_execHkcSupervision ch value agree s
  | dataRead p => exact keeps_execDataRead p s
  | filteredRecord ch => exact keeps_execFilteredRecord ch s
  | syncEdge falling stamp ecc => exact keeps_execSyncEdge falling s stamp ecc
  | syncSchedule p => exact keeps_execSyncSchedule p s
  | syncCancel p => exact keeps_execSyncCancel p s
  | syncEffect => exact keeps_execSyncEffect s
  | coefDataWrite p v => exact keeps_execCoefDataWrite p v s
  | coefDataRead p => exact keeps_execCoefDataRead p s
  | polyDataWrite p page v => exact keeps_execPolyDataWrite p page v s
  | polyDataRead p page => exact keeps_execPolyDataRead p page s
  | redMinRead p page c => exact keeps_execRedMinRead p page c s
  | syncMessage m => exact keeps_execSyncMessage m s
  | followUp domain seq origin corr => exact keeps_execFollowUp domain seq origin corr s
  | delayReq domain d => exact keeps_execDelayReq domain d s
  | delayResp domain seq rx corr => exact keeps_execDelayResp domain seq rx s corr
  | pdelayReq port d => exact keeps_execPdelayReq port d s
  | pdelayResp port seq corr rx twoStep => exact keeps_execPdelayResp port seq corr rx twoStep s
  | pdelayRespFollowUp port seq corr => exact keeps_execPdelayRespFollowUp port seq corr s
  | announce m => exact keeps_execAnnounce m s
  | announceTimeout domain => exact keeps_execAnnounceTimeout domain s
  | domainLost => exact keeps_execDomainLost s
  | holdLimit => exact keeps_execHoldLimit s
  | rootSyncSend domain => exact keeps_execRootSyncSend domain s
  | rootAnnounceSend domain => exact keeps_execRootAnnounceSend domain s
  | domSel p v => exact keeps_execDomSel p v s
  | coarseRefresh => exact keeps_execCoarseRefresh s
  | gridStartSend => exact keeps_execGridStartSend s
  | gridStart m => exact keeps_execGridStart m s
  | gridStartIndex => exact keeps_execGridStartIndex s
  | linkUp l => exact keeps_execLinkUp l s
  | linkDown l => exact keeps_execLinkDown l s
  | rxWake l => exact keeps_execRxWake l s
  | prbsInject p l => exact keeps_execPrbsInject p l s
  | ringFrame port f => exact keeps_execRingFrame port f s
  | l3Frame f => exact keeps_execL3Frame f s
  | discoveryBeaconSend => exact keeps_execDiscoveryBeaconSend s
  | discoveryBeacon port b => exact keeps_execDiscoveryBeacon port b s
  | addressAssignmentSend => exact keeps_execAddressAssignmentSend s
  | addressAssignment a => exact keeps_execAddressAssignment a s
  | rootBeaconSend => exact keeps_execRootBeaconSend s
  | rootBeacon port b => exact keeps_execRootBeacon port b s
  | rootLost => exact keeps_execRootLost s
  | rootAlone => exact keeps_execRootAlone s
  | ringBreak port westHub eastHub multiple => exact keeps_execRingBreak port westHub eastHub multiple s
  | admissionRequest r => exact keeps_execAdmissionRequest r s
  | admissionRelease r => exact keeps_execAdmissionRelease r s
  | admissionReply r => exact keeps_execAdmissionReply r s
  | admissionRetry j => exact keeps_execAdmissionRetry j s
  | enoroot j => exact keeps_execEnoroot j s
  | ledgerReport r => exact keeps_execLedgerReport r s
  | ledgerReportSend => exact keeps_execLedgerReportSend s
  | ledgerRebuilt => exact keeps_execLedgerRebuilt s
  | openStream p j => exact keeps_execOpenStream p j s
  | closeStream p j => exact keeps_execCloseStream p j s
  | clearStream p j => exact keeps_execClearStream p j s
  | streamStart j => exact keeps_execStreamStart j s
  | quireStored j errs => exact keeps_execQuireStored j errs s
  | quireTransmit j errs => exact keeps_execQuireTransmit j s errs
  | acknowledgement m => exact keeps_execAcknowledgement m s
  | seqAcked p j a => exact keeps_execSeqAcked p j a s
  | retxAfter j => exact keeps_execRetxAfter j s
  | tHoldExpiry j => exact keeps_execTHoldExpiry j s
  | cmdNop p seq args => exact keeps_execCmdNop p seq args s
  | cmdTransfer p seq args => exact keeps_execCmdTransfer p seq args s
  | cmdReamStore p seq args => exact keeps_execCmdReamStore p seq args s
  | cmdCalStore p seq args => exact keeps_execCmdCalStore p seq args s
  | cmdFuseWrite p seq args => exact keeps_execCmdFuseWrite p seq args s
  | cmdZipJob p seq args => exact keeps_execCmdZipJob p seq args s
  | cmdTableStage p seq args => exact keeps_execCmdTableStage p seq args s
  | commandExecute => exact keeps_execCommandExecute s
  | persistentStepDone ok => exact keeps_execPersistentStepDone ok s
  | transferDone => exact keeps_execTransferDone s
  | tableStageDone => exact keeps_execTableStageDone s
  | zipJobDone lost => exact keeps_execZipJobDone s lost
  | abortJob p => exact keeps_execAbortJob p s
  | arm p r => exact keeps_execArm p r s
  | armAt p r => exact keeps_execArmAt p r s
  | armAtReached r => exact keeps_execArmAtReached r s
  | disarm p r => exact keeps_execDisarm p r s
  | reamClear p r => exact keeps_execReamClear p r s
  | hostTrigger p r => exact keeps_execHostTrigger p r s
  | triginEdge pin falling stamp ecc => exact keeps_execTriginEdge pin falling stamp s ecc
  | ringTrigger t => exact keeps_execRingTrigger t s
  | triggerDecision r => exact keeps_execTriggerDecision r s
  | autoTrigger r => exact keeps_execAutoTrigger r s
  | holdoffEnd r => exact keeps_execHoldoffEnd r s
  | segmentDone r errs => exact keeps_execSegmentDone r s errs
  | bu k => exact keeps_execBu k s
  | stageStart k => exact keeps_execStageStart k s
  | limit k => exact keeps_execLimit k s
  | sramScrub k addr uncorrectable => exact keeps_execSramScrub k addr uncorrectable s
  | nopInstruction k => exact keeps_execNopInstruction k s
  | sli k d imm => exact keeps_execSli k d imm s
  | slih k d imm => exact keeps_execSlih k d imm s
  | sadd k d a b => exact keeps_execSadd k d a b s
  | saddi k d a imm => exact keeps_execSaddi k d a imm s
  | ssub k d a b => exact keeps_execSsub k d a b s
  | sand k d a b => exact keeps_execSand k d a b s
  | sor k d a b => exact keeps_execSor k d a b s
  | sshl k d a imm => exact keeps_execSshl k d a imm s
  | sshr k d a imm => exact keeps_execSshr k d a imm s
  | smul k d a b => exact keeps_execSmul k d a b s
  | sld k m => exact keeps_execSld k m s
  | sst k m => exact keeps_execSst k m s
  | sget k d sel => exact keeps_execSget k d sel s
  | br k cond a target => exact keeps_execBr k cond a target s
  | lmask k imm => exact keeps_execLmask k imm s
  | signal k => exact keeps_execSignal k s
  | vld k m => exact keeps_execVld k m s
  | vldr k m => exact keeps_execVldr k m s
  | vldi k m => exact keeps_execVldi k m s
  | vldd k d a b st => exact keeps_execVldd k d a b st s
  | vst k m => exact keeps_execVst k m s
  | vste k m => exact keeps_execVste k m s
  | vsplat k d a => exact keeps_execVsplat k d a s
  | vadd k d a b => exact keeps_execVadd k d a b s
  | vsub k d a b => exact keeps_execVsub k d a b s
  | vmul k d a b => exact keeps_execVmul k d a b s
  | vmac k d a b neg => exact keeps_execVmac k d a b neg s
  | aclr k d e => exact keeps_execAclr k d e s
  | vmova k d a => exact keeps_execVmova k d a s
  | vclamp k d a b c => exact keeps_execVclamp k d a b c s
  | vneg k d a => exact keeps_execVneg k d a s
  | vabs k d a => exact keeps_execVabs k d a s
  | vscl k d a e => exact keeps_execVscl k d a e s
  | vmov k d a => exact keeps_execVmov k d a s
  | vbc k d a j => exact keeps_execVbc k d a j s
  | vcmp k a b cond => exact keeps_execVcmp k a b cond s
  | vsel k d a b => exact keeps_execVsel k d a b s
  | vtst k imm => exact keeps_execVtst k imm s
  | norm k d => exact keeps_execNorm k d s
  | vtab k d a b c interp => exact keeps_execVtab k d a b c interp s
  | stop k => exact keeps_execStop k s
  | illegal k => exact keeps_execIllegal k s
  | runEngine p k => exact keeps_execRunEngine p k s
  | haltEngine p k => exact keeps_execHaltEngine p k s
  | clearFault p k => exact keeps_execClearFault p k s
  | doorbell p k => exact keeps_execDoorbell p k s
  | clearStagingList p k => exact keeps_execClearStagingList p k s
  | slotEnable r => exact keeps_execSlotEnable r s
  | slotRun r => exact keeps_execSlotRun r s
  | slotDisable r => exact keeps_execSlotDisable r s
  | holdTimeout r => exact keeps_execHoldTimeout r s
  | motClearFault p r => exact keeps_execMotClearFault p r s
  | cycleMark p r => exact keeps_execCycleMark p r s
  | rcLost r => exact keeps_execRcLost r s
  | encEdge ch e => exact keeps_execEncEdge ch e s
  | intervalTimeout ch => exact keeps_execIntervalTimeout ch s
  | ssiTransfer ch => exact keeps_execSsiTransfer ch s
  | ssiTransferDone ch idleHigh bits => exact keeps_execSsiTransferDone ch idleHigh bits s
  | interpolatorTable ch input hits => exact keeps_execInterpolatorTable ch input s hits
  | armReference p ch => exact keeps_execArmReference p ch s
  | loadPreset p ch => exact keeps_execLoadPreset p ch s
  | clearCounters p ch => exact keeps_execClearCounters p ch s
  | downlinkFrame p => exact keeps_execDownlinkFrame p s
  | uplinkFrame p groups rtt => exact keeps_execUplinkFrame p groups s rtt
  | commandResend p => exact keeps_execCommandResend p s
  | sendCommand p port => exact keeps_execSendCommand p port s
  | acceptIdentity p port => exact keeps_execAcceptIdentity p port s
  | retrain p port => exact keeps_execRetrain p port s
  | sendNow p x => exact keeps_execSendNow p x s
  | sendToLatch p x => exact keeps_execSendToLatch p x s
  | cancelSend p x => exact keeps_execCancelSend p x s
  | frameStart x refresh => exact keeps_execFrameStart x refresh s
  | frameDone x => exact keeps_execFrameDone x s
  | lvlData p w => exact keeps_execLvlData p w s
  | strobeArm p x => exact keeps_execStrobeArm p x s
  | strobeDisarm p x => exact keeps_execStrobeDisarm p x s
  | strobeFire x => exact keeps_execStrobeFire x s
  | strobeEnd x => exact keeps_execStrobeEnd x s
  | recalibrate p => exact keeps_execRecalibrate p s
  | calPeriod => exact keeps_execCalPeriod s
  | recalibrationDone quads => exact keeps_execRecalibrationDone quads s
  | chal0Read p => exact keeps_execChal0Read p s
  | challengeExpiry p => exact keeps_execChallengeExpiry p s
  | authEnter p => exact keeps_execAuthEnter p s
  | authLeave p => exact keeps_execAuthLeave p s
  | svcTimeout p => exact keeps_execSvcTimeout p s
  | lockoutEnd => exact keeps_execLockoutEnd s
  | nsconfAsserted => exact keeps_execNsconfAsserted s
  | nsconfRelease => exact keeps_execNsconfRelease s
  | safeInput n level => exact keeps_execSafeInput n level s
  | discrepancy k => exact keeps_execDiscrepancy k s
  | testPulse k => exact keeps_execTestPulse k s
  | testPulseEnd k => exact keeps_execTestPulseEnd k s
  | pulseHoldEnd k => exact keeps_execPulseHoldEnd k s
  | sfcCycle flowOk cfgOk => exact keeps_execSfcCycle flowOk cfgOk s
  | sfcSelfTest ok => exact keeps_execSfcSelfTest ok s
  | lifeSignalLost => exact keeps_execLifeSignalLost s
  | switchTest x => exact keeps_execSwitchTest x s
  | switchTestEnd x => exact keeps_execSwitchTestEnd x s
  | readbackFault x high => exact keeps_execReadbackFault x high s
  | ss1Expiry x => exact keeps_execSs1Expiry x s
  | safeframeSend c => exact keeps_execSafeframeSend c s
  | safeframe c m => exact keeps_execSafeframe c m s
  | safeframeWatchdog c => exact keeps_execSafeframeWatchdog c s
  | resetFaults p => exact keeps_execResetFaults p s
  | resetConnection p c => exact keeps_execResetConnection p c s
  | pairingRetry remote nonce answer => exact keeps_execPairingRetry remote nonce s answer
  | paired => exact keeps_execPaired s
  | heartbeatSend => exact keeps_execHeartbeatSend s
  | heartbeat w => exact keeps_execHeartbeat w s
  | partnerLost => exact keeps_execPartnerLost s
  | arbselChange level => exact keeps_execArbselChange level s
  | handoverFrame m => exact keeps_execHandoverFrame m s
  | handoverRelease k => exact keeps_execHandoverRelease k s
  | handoverTake k => exact keeps_execHandoverTake k s
  | arbMismatch => exact keeps_execArbMismatch s
  | mirrorFrameSend k => exact keeps_execMirrorFrameSend k s
  | mirrorFrame m => exact keeps_execMirrorFrame m s
  | snapshot m => exact keeps_execSnapshot m s
  | requestRelease p => exact keeps_execRequestRelease p s
  | cancelRelease p => exact keeps_execCancelRelease p s
  | bistDone r => exact keeps_execBistDone r s
  | reamImageLoaded slot0 slot1 => exact keeps_execReamImageLoaded s slot0 slot1
  | linkWaitExpiry => exact keeps_execLinkWaitExpiry s
  | dawnStall cause => exact keeps_execDawnStall cause s
  | xlpLost => exact keeps_execXlpLost s
  | xlpRestored => exact keeps_execXlpRestored s
  | excitationFaultEnd k f => exact keeps_execExcitationFaultEnd k f s
  | prbsCheckerLock l => exact keeps_execPrbsCheckerLock l s
  | prbsBitError l => exact keeps_execPrbsBitError l s
  | edgePositionRecord ch => exact keeps_execEdgePositionRecord ch s
  | switchReadback x high level => exact keeps_execSwitchReadback x high level s
  | releasedNetEdge gen ball => exact keeps_execReleasedNetEdge gen ball s
  | stagingReplayDone k => exact keeps_execStagingReplayDone k s
  | unknownOpcode p opcode seq => exact keeps_execUnknownOpcode p opcode seq s
  | tapInstruction n => exact keeps_execTapInstruction n s

end Sys2Proof.Machine
end

