-- ==== Sys2Proof/Laws/Shape.lean ====
section
/-!
SUPPORT. Every operation keeps the lengths of the lists that hold a fixed number of like things.
-/
namespace Sys2Proof.Machine

/-- `shaped`, field by field. -/
structure Shaped (s : State) : Prop where
  gc : s.gc.length = 144
  gen : s.gen.length = 12
  host_paths : s.host.paths.length = 9
  host_sessions : s.host.sessions.length = 8
  inputs : s.inputs.length = 128
  exc : s.exc.length = 16
  cores : s.cores.length = 32
  bands : s.bands.length = 96
  aout : s.aout.length = 8
  chains : s.chains.length = 320
  time_doms : s.time.doms.length = 2
  time_ports : s.time.ports.length = 4
  lanes : s.lanes.length = 4
  streams : s.streams.length = 64
  reams : s.reams.length = 16
  slots : s.slots.length = 48
  engines : s.engines.length = 12
  edges : s.edges.length = 64
  sports : s.sports.length = 8
  lites : s.lites.length = 8
  strobes : s.strobes.length = 8
  fuses : s.fuses.length = 4
  safe_si : s.safe.si.length = 16
  safe_held : s.safe.held.length = 16
  safe_sawLow : s.safe.sawLow.length = 16
  safe_tp : s.safe.tp.length = 4
  safe_pairs : s.safe.pairs.length = 8
  safe_outs : s.safe.outs.length = 4
  safe_mons : s.safe.mons.length = 8
  safe_conns : s.safe.conns.length = 32

theorem shaped_iff (s : State) : shaped s = true ↔ Shaped s := by
  constructor
  · intro h
    simp only [shaped, sizes, beq_iff_eq, List.cons.injEq, and_true] at h
    constructor <;> simp only [h]
  · intro h
    simp only [shaped, sizes, beq_iff_eq, List.cons.injEq, and_true]
    exact ⟨h.gc, h.gen, h.host_paths, h.host_sessions, h.inputs, h.exc, h.cores, h.bands, h.aout, h.chains, h.time_doms, h.time_ports, h.lanes, h.streams, h.reams, h.slots, h.engines, h.edges, h.sports, h.lites, h.strobes, h.fuses, h.safe_si, h.safe_held, h.safe_sawLow, h.safe_tp, h.safe_pairs, h.safe_outs, h.safe_mons, h.safe_conns⟩

theorem shaped_ite {x y : State} {c : Prop} [Decidable c] (hx : Shaped x) (hy : Shaped y) :
    Shaped (if c then x else y) := by
  split <;> assumption

theorem shaped_ite_fst {β : Type} {x y : State × β} {c : Prop} [Decidable c] (hx : Shaped x.1) (hy : Shaped y.1) :
    Shaped (if c then x else y).1 := by
  split <;> assumption

theorem shaped_foldl {β : Type} {s : State} {f : State → β → State} {bs : List β} (h : Shaped s)
    (hf : ∀ x b, Shaped x → Shaped (f x b)) : Shaped (bs.foldl f s) := by
  induction bs generalizing s with
  | nil => exact h
  | cons b t ih => exact ih (hf s b h)

theorem shaped_foldl_fst {β γ : Type} {f : State × γ → β → State × γ} {bs : List β} {p : State × γ} (h : Shaped p.1)
    (hf : ∀ x b, Shaped x.1 → Shaped (f x b).1) : Shaped (bs.foldl f p).1 := by
  induction bs generalizing p with
  | nil => exact h
  | cons b t ih => exact ih (hf p b h)

/-- The same of an operation that may stop. -/
def ShapedSome (o : Option State) : Prop := ∀ t, o = some t → Shaped t

theorem ShapedSome.some {s : State} (h : Shaped s) : ShapedSome (some s) := by
  intro t ht
  cases ht
  exact h

theorem ShapedSome.none : ShapedSome none := by
  intro t ht
  cases ht

theorem ShapedSome.ite {x y : Option State} {c : Prop} [Decidable c] (hx : ShapedSome x) (hy : ShapedSome y) :
    ShapedSome (if c then x else y) := by
  split <;> assumption

theorem ShapedSome.bind {o : Option State} {f : State → Option State} (h : ShapedSome o)
    (hf : ∀ x, Shaped x → ShapedSome (f x)) : ShapedSome (o.bind f) := by
  cases o with
  | none => exact ShapedSome.none
  | some x => exact hf x (h x rfl)

theorem ShapedSome.foldl {f : Option State → Nat → Option State} {is : List Nat} {o : Option State}
    (h : ShapedSome o) (hf : ∀ x i, ShapedSome x → ShapedSome (f x i)) : ShapedSome (is.foldl f o) := by
  induction is generalizing o with
  | nil => exact h
  | cons i t ih => exact ih (hf o i h)

theorem length_foldl_set {α : Type} (v : Nat → α) (is : List Nat) (l : List α) :
    (is.foldl (fun h i => h.set i (v i)) l).length = l.length := by
  induction is generalizing l with
  | nil => rfl
  | cons i t ih => rw [List.foldl_cons, ih, List.length_set]

-- the record updates

theorem Shaped.set_addrTable {s : State}
    {addrTable : List (Nat × Nat)}
    (h : Shaped s) :
    Shaped (State.mk
      s.pending s.regs s.shadow s.pages s.pwr s.clk s.pins s.tap s.gc s.gen s.host s.inputs s.exc s.cores s.bands
        s.hkc s.queueEcc s.aout s.inCoefs s.chains s.flt s.time s.lanes s.ring s.adm addrTable s.sent s.streams
        s.strmSel s.vat s.cmd s.reams s.captSel s.gaps s.twin s.slots s.engines s.edges s.sports s.lites s.levels
        s.strobes s.cal s.nv s.fuses s.changes s.safe s.badBands s.serial s.partSB s.freeCtr) :=
  ⟨h.gc, h.gen, h.host_paths, h.host_sessions, h.inputs, h.exc, h.cores, h.bands, h.aout, h.chains, h.time_doms,
    h.time_ports, h.lanes, h.streams, h.reams, h.slots, h.engines, h.edges, h.sports, h.lites, h.strobes, h.fuses,
    h.safe_si, h.safe_held, h.safe_sawLow, h.safe_tp, h.safe_pairs, h.safe_outs, h.safe_mons, h.safe_conns⟩

theorem Shaped.set_adm {s : State}
    {adm : AdmState}
    (h : Shaped s) :
    Shaped (State.mk
      s.pending s.regs s.shadow s.pages s.pwr s.clk s.pins s.tap s.gc s.gen s.host s.inputs s.exc s.cores s.bands
        s.hkc s.queueEcc s.aout s.inCoefs s.chains s.flt s.time s.lanes s.ring adm s.addrTable s.sent s.streams
        s.strmSel s.vat s.cmd s.reams s.captSel s.gaps s.twin s.slots s.engines s.edges s.sports s.lites s.levels
        s.strobes s.cal s.nv s.fuses s.changes s.safe s.badBands s.serial s.partSB s.freeCtr) :=
  ⟨h.gc, h.gen, h.host_paths, h.host_sessions, h.inputs, h.exc, h.cores, h.bands, h.aout, h.chains, h.time_doms,
    h.time_ports, h.lanes, h.streams, h.reams, h.slots, h.engines, h.edges, h.sports, h.lites, h.strobes, h.fuses,
    h.safe_si, h.safe_held, h.safe_sawLow, h.safe_tp, h.safe_pairs, h.safe_outs, h.safe_mons, h.safe_conns⟩

theorem Shaped.set_aout {s : State}
    {aout : List AoState}
    (h : Shaped s)
    (hn : Shaped s → aout.length = 8) :
    Shaped (State.mk
      s.pending s.regs s.shadow s.pages s.pwr s.clk s.pins s.tap s.gc s.gen s.host s.inputs s.exc s.cores s.bands
        s.hkc s.queueEcc aout s.inCoefs s.chains s.flt s.time s.lanes s.ring s.adm s.addrTable s.sent s.streams
        s.strmSel s.vat s.cmd s.reams s.captSel s.gaps s.twin s.slots s.engines s.edges s.sports s.lites s.levels
        s.strobes s.cal s.nv s.fuses s.changes s.safe s.badBands s.serial s.partSB s.freeCtr) :=
  ⟨h.gc, h.gen, h.host_paths, h.host_sessions, h.inputs, h.exc, h.cores, h.bands, (hn h), h.chains, h.time_doms,
    h.time_ports, h.lanes, h.streams, h.reams, h.slots, h.engines, h.edges, h.sports, h.lites, h.strobes, h.fuses,
    h.safe_si, h.safe_held, h.safe_sawLow, h.safe_tp, h.safe_pairs, h.safe_outs, h.safe_mons, h.safe_conns⟩

theorem Shaped.set_badBands {s : State}
    {badBands : List Nat}
    (h : Shaped s) :
    Shaped (State.mk
      s.pending s.regs s.shadow s.pages s.pwr s.clk s.pins s.tap s.gc s.gen s.host s.inputs s.exc s.cores s.bands
        s.hkc s.queueEcc s.aout s.inCoefs s.chains s.flt s.time s.lanes s.ring s.adm s.addrTable s.sent s.streams
        s.strmSel s.vat s.cmd s.reams s.captSel s.gaps s.twin s.slots s.engines s.edges s.sports s.lites s.levels
        s.strobes s.cal s.nv s.fuses s.changes s.safe badBands s.serial s.partSB s.freeCtr) :=
  ⟨h.gc, h.gen, h.host_paths, h.host_sessions, h.inputs, h.exc, h.cores, h.bands, h.aout, h.chains, h.time_doms,
    h.time_ports, h.lanes, h.streams, h.reams, h.slots, h.engines, h.edges, h.sports, h.lites, h.strobes, h.fuses,
    h.safe_si, h.safe_held, h.safe_sawLow, h.safe_tp, h.safe_pairs, h.safe_outs, h.safe_mons, h.safe_conns⟩

theorem Shaped.set_bands {s : State}
    {bands : List BandState}
    (h : Shaped s)
    (hn : Shaped s → bands.length = 96) :
    Shaped (State.mk
      s.pending s.regs s.shadow s.pages s.pwr s.clk s.pins s.tap s.gc s.gen s.host s.inputs s.exc s.cores bands
        s.hkc s.queueEcc s.aout s.inCoefs s.chains s.flt s.time s.lanes s.ring s.adm s.addrTable s.sent s.streams
        s.strmSel s.vat s.cmd s.reams s.captSel s.gaps s.twin s.slots s.engines s.edges s.sports s.lites s.levels
        s.strobes s.cal s.nv s.fuses s.changes s.safe s.badBands s.serial s.partSB s.freeCtr) :=
  ⟨h.gc, h.gen, h.host_paths, h.host_sessions, h.inputs, h.exc, h.cores, (hn h), h.aout, h.chains, h.time_doms,
    h.time_ports, h.lanes, h.streams, h.reams, h.slots, h.engines, h.edges, h.sports, h.lites, h.strobes, h.fuses,
    h.safe_si, h.safe_held, h.safe_sawLow, h.safe_tp, h.safe_pairs, h.safe_outs, h.safe_mons, h.safe_conns⟩

theorem Shaped.set_cal {s : State}
    {cal : CalState}
    (h : Shaped s) :
    Shaped (State.mk
      s.pending s.regs s.shadow s.pages s.pwr s.clk s.pins s.tap s.gc s.gen s.host s.inputs s.exc s.cores s.bands
        s.hkc s.queueEcc s.aout s.inCoefs s.chains s.flt s.time s.lanes s.ring s.adm s.addrTable s.sent s.streams
        s.strmSel s.vat s.cmd s.reams s.captSel s.gaps s.twin s.slots s.engines s.edges s.sports s.lites s.levels
        s.strobes cal s.nv s.fuses s.changes s.safe s.badBands s.serial s.partSB s.freeCtr) :=
  ⟨h.gc, h.gen, h.host_paths, h.host_sessions, h.inputs, h.exc, h.cores, h.bands, h.aout, h.chains, h.time_doms,
    h.time_ports, h.lanes, h.streams, h.reams, h.slots, h.engines, h.edges, h.sports, h.lites, h.strobes, h.fuses,
    h.safe_si, h.safe_held, h.safe_sawLow, h.safe_tp, h.safe_pairs, h.safe_outs, h.safe_mons, h.safe_conns⟩

theorem Shaped.set_captSel {s : State}
    {captSel : List (Nat × Word)}
    (h : Shaped s) :
    Shaped (State.mk
      s.pending s.regs s.shadow s.pages s.pwr s.clk s.pins s.tap s.gc s.gen s.host s.inputs s.exc s.cores s.bands
        s.hkc s.queueEcc s.aout s.inCoefs s.chains s.flt s.time s.lanes s.ring s.adm s.addrTable s.sent s.streams
        s.strmSel s.vat s.cmd s.reams captSel s.gaps s.twin s.slots s.engines s.edges s.sports s.lites s.levels
        s.strobes s.cal s.nv s.fuses s.changes s.safe s.badBands s.serial s.partSB s.freeCtr) :=
  ⟨h.gc, h.gen, h.host_paths, h.host_sessions, h.inputs, h.exc, h.cores, h.bands, h.aout, h.chains, h.time_doms,
    h.time_ports, h.lanes, h.streams, h.reams, h.slots, h.engines, h.edges, h.sports, h.lites, h.strobes, h.fuses,
    h.safe_si, h.safe_held, h.safe_sawLow, h.safe_tp, h.safe_pairs, h.safe_outs, h.safe_mons, h.safe_conns⟩

theorem Shaped.set_chains {s : State}
    {chains : List ChainState}
    (h : Shaped s)
    (hn : Shaped s → chains.length = 320) :
    Shaped (State.mk
      s.pending s.regs s.shadow s.pages s.pwr s.clk s.pins s.tap s.gc s.gen s.host s.inputs s.exc s.cores s.bands
        s.hkc s.queueEcc s.aout s.inCoefs chains s.flt s.time s.lanes s.ring s.adm s.addrTable s.sent s.streams
        s.strmSel s.vat s.cmd s.reams s.captSel s.gaps s.twin s.slots s.engines s.edges s.sports s.lites s.levels
        s.strobes s.cal s.nv s.fuses s.changes s.safe s.badBands s.serial s.partSB s.freeCtr) :=
  ⟨h.gc, h.gen, h.host_paths, h.host_sessions, h.inputs, h.exc, h.cores, h.bands, h.aout, (hn h), h.time_doms,
    h.time_ports, h.lanes, h.streams, h.reams, h.slots, h.engines, h.edges, h.sports, h.lites, h.strobes, h.fuses,
    h.safe_si, h.safe_held, h.safe_sawLow, h.safe_tp, h.safe_pairs, h.safe_outs, h.safe_mons, h.safe_conns⟩

theorem Shaped.set_changes {s : State}
    {changes : ChangeJournal}
    (h : Shaped s) :
    Shaped (State.mk
      s.pending s.regs s.shadow s.pages s.pwr s.clk s.pins s.tap s.gc s.gen s.host s.inputs s.exc s.cores s.bands
        s.hkc s.queueEcc s.aout s.inCoefs s.chains s.flt s.time s.lanes s.ring s.adm s.addrTable s.sent s.streams
        s.strmSel s.vat s.cmd s.reams s.captSel s.gaps s.twin s.slots s.engines s.edges s.sports s.lites s.levels
        s.strobes s.cal s.nv s.fuses changes s.safe s.badBands s.serial s.partSB s.freeCtr) :=
  ⟨h.gc, h.gen, h.host_paths, h.host_sessions, h.inputs, h.exc, h.cores, h.bands, h.aout, h.chains, h.time_doms,
    h.time_ports, h.lanes, h.streams, h.reams, h.slots, h.engines, h.edges, h.sports, h.lites, h.strobes, h.fuses,
    h.safe_si, h.safe_held, h.safe_sawLow, h.safe_tp, h.safe_pairs, h.safe_outs, h.safe_mons, h.safe_conns⟩

theorem Shaped.set_clk {s : State}
    {clk : ClkState}
    (h : Shaped s) :
    Shaped (State.mk
      s.pending s.regs s.shadow s.pages s.pwr clk s.pins s.tap s.gc s.gen s.host s.inputs s.exc s.cores s.bands
        s.hkc s.queueEcc s.aout s.inCoefs s.chains s.flt s.time s.lanes s.ring s.adm s.addrTable s.sent s.streams
        s.strmSel s.vat s.cmd s.reams s.captSel s.gaps s.twin s.slots s.engines s.edges s.sports s.lites s.levels
        s.strobes s.cal s.nv s.fuses s.changes s.safe s.badBands s.serial s.partSB s.freeCtr) :=
  ⟨h.gc, h.gen, h.host_paths, h.host_sessions, h.inputs, h.exc, h.cores, h.bands, h.aout, h.chains, h.time_doms,
    h.time_ports, h.lanes, h.streams, h.reams, h.slots, h.engines, h.edges, h.sports, h.lites, h.strobes, h.fuses,
    h.safe_si, h.safe_held, h.safe_sawLow, h.safe_tp, h.safe_pairs, h.safe_outs, h.safe_mons, h.safe_conns⟩

theorem Shaped.set_cmd {s : State}
    {cmd : CmdState}
    (h : Shaped s) :
    Shaped (State.mk
      s.pending s.regs s.shadow s.pages s.pwr s.clk s.pins s.tap s.gc s.gen s.host s.inputs s.exc s.cores s.bands
        s.hkc s.queueEcc s.aout s.inCoefs s.chains s.flt s.time s.lanes s.ring s.adm s.addrTable s.sent s.streams
        s.strmSel s.vat cmd s.reams s.captSel s.gaps s.twin s.slots s.engines s.edges s.sports s.lites s.levels
        s.strobes s.cal s.nv s.fuses s.changes s.safe s.badBands s.serial s.partSB s.freeCtr) :=
  ⟨h.gc, h.gen, h.host_paths, h.host_sessions, h.inputs, h.exc, h.cores, h.bands, h.aout, h.chains, h.time_doms,
    h.time_ports, h.lanes, h.streams, h.reams, h.slots, h.engines, h.edges, h.sports, h.lites, h.strobes, h.fuses,
    h.safe_si, h.safe_held, h.safe_sawLow, h.safe_tp, h.safe_pairs, h.safe_outs, h.safe_mons, h.safe_conns⟩

theorem Shaped.set_cores {s : State}
    {cores : List CoreState}
    (h : Shaped s)
    (hn : Shaped s → cores.length = 32) :
    Shaped (State.mk
      s.pending s.regs s.shadow s.pages s.pwr s.clk s.pins s.tap s.gc s.gen s.host s.inputs s.exc cores s.bands
        s.hkc s.queueEcc s.aout s.inCoefs s.chains s.flt s.time s.lanes s.ring s.adm s.addrTable s.sent s.streams
        s.strmSel s.vat s.cmd s.reams s.captSel s.gaps s.twin s.slots s.engines s.edges s.sports s.lites s.levels
        s.strobes s.cal s.nv s.fuses s.changes s.safe s.badBands s.serial s.partSB s.freeCtr) :=
  ⟨h.gc, h.gen, h.host_paths, h.host_sessions, h.inputs, h.exc, (hn h), h.bands, h.aout, h.chains, h.time_doms,
    h.time_ports, h.lanes, h.streams, h.reams, h.slots, h.engines, h.edges, h.sports, h.lites, h.strobes, h.fuses,
    h.safe_si, h.safe_held, h.safe_sawLow, h.safe_tp, h.safe_pairs, h.safe_outs, h.safe_mons, h.safe_conns⟩

theorem Shaped.set_edges {s : State}
    {edges : List EdgeState}
    (h : Shaped s)
    (hn : Shaped s → edges.length = 64) :
    Shaped (State.mk
      s.pending s.regs s.shadow s.pages s.pwr s.clk s.pins s.tap s.gc s.gen s.host s.inputs s.exc s.cores s.bands
        s.hkc s.queueEcc s.aout s.inCoefs s.chains s.flt s.time s.lanes s.ring s.adm s.addrTable s.sent s.streams
        s.strmSel s.vat s.cmd s.reams s.captSel s.gaps s.twin s.slots s.engines edges s.sports s.lites s.levels
        s.strobes s.cal s.nv s.fuses s.changes s.safe s.badBands s.serial s.partSB s.freeCtr) :=
  ⟨h.gc, h.gen, h.host_paths, h.host_sessions, h.inputs, h.exc, h.cores, h.bands, h.aout, h.chains, h.time_doms,
    h.time_ports, h.lanes, h.streams, h.reams, h.slots, h.engines, (hn h), h.sports, h.lites, h.strobes, h.fuses,
    h.safe_si, h.safe_held, h.safe_sawLow, h.safe_tp, h.safe_pairs, h.safe_outs, h.safe_mons, h.safe_conns⟩

theorem Shaped.set_engines {s : State}
    {engines : List EngineState}
    (h : Shaped s)
    (hn : Shaped s → engines.length = 12) :
    Shaped (State.mk
      s.pending s.regs s.shadow s.pages s.pwr s.clk s.pins s.tap s.gc s.gen s.host s.inputs s.exc s.cores s.bands
        s.hkc s.queueEcc s.aout s.inCoefs s.chains s.flt s.time s.lanes s.ring s.adm s.addrTable s.sent s.streams
        s.strmSel s.vat s.cmd s.reams s.captSel s.gaps s.twin s.slots engines s.edges s.sports s.lites s.levels
        s.strobes s.cal s.nv s.fuses s.changes s.safe s.badBands s.serial s.partSB s.freeCtr) :=
  ⟨h.gc, h.gen, h.host_paths, h.host_sessions, h.inputs, h.exc, h.cores, h.bands, h.aout, h.chains, h.time_doms,
    h.time_ports, h.lanes, h.streams, h.reams, h.slots, (hn h), h.edges, h.sports, h.lites, h.strobes, h.fuses,
    h.safe_si, h.safe_held, h.safe_sawLow, h.safe_tp, h.safe_pairs, h.safe_outs, h.safe_mons, h.safe_conns⟩

theorem Shaped.set_exc {s : State}
    {exc : List ExcState}
    (h : Shaped s)
    (hn : Shaped s → exc.length = 16) :
    Shaped (State.mk
      s.pending s.regs s.shadow s.pages s.pwr s.clk s.pins s.tap s.gc s.gen s.host s.inputs exc s.cores s.bands
        s.hkc s.queueEcc s.aout s.inCoefs s.chains s.flt s.time s.lanes s.ring s.adm s.addrTable s.sent s.streams
        s.strmSel s.vat s.cmd s.reams s.captSel s.gaps s.twin s.slots s.engines s.edges s.sports s.lites s.levels
        s.strobes s.cal s.nv s.fuses s.changes s.safe s.badBands s.serial s.partSB s.freeCtr) :=
  ⟨h.gc, h.gen, h.host_paths, h.host_sessions, h.inputs, (hn h), h.cores, h.bands, h.aout, h.chains, h.time_doms,
    h.time_ports, h.lanes, h.streams, h.reams, h.slots, h.engines, h.edges, h.sports, h.lites, h.strobes, h.fuses,
    h.safe_si, h.safe_held, h.safe_sawLow, h.safe_tp, h.safe_pairs, h.safe_outs, h.safe_mons, h.safe_conns⟩

theorem Shaped.set_flt {s : State}
    {flt : FltState}
    (h : Shaped s) :
    Shaped (State.mk
      s.pending s.regs s.shadow s.pages s.pwr s.clk s.pins s.tap s.gc s.gen s.host s.inputs s.exc s.cores s.bands
        s.hkc s.queueEcc s.aout s.inCoefs s.chains flt s.time s.lanes s.ring s.adm s.addrTable s.sent s.streams
        s.strmSel s.vat s.cmd s.reams s.captSel s.gaps s.twin s.slots s.engines s.edges s.sports s.lites s.levels
        s.strobes s.cal s.nv s.fuses s.changes s.safe s.badBands s.serial s.partSB s.freeCtr) :=
  ⟨h.gc, h.gen, h.host_paths, h.host_sessions, h.inputs, h.exc, h.cores, h.bands, h.aout, h.chains, h.time_doms,
    h.time_ports, h.lanes, h.streams, h.reams, h.slots, h.engines, h.edges, h.sports, h.lites, h.strobes, h.fuses,
    h.safe_si, h.safe_held, h.safe_sawLow, h.safe_tp, h.safe_pairs, h.safe_outs, h.safe_mons, h.safe_conns⟩

theorem Shaped.set_freeCtr {s : State}
    {freeCtr : Nat}
    (h : Shaped s) :
    Shaped (State.mk
      s.pending s.regs s.shadow s.pages s.pwr s.clk s.pins s.tap s.gc s.gen s.host s.inputs s.exc s.cores s.bands
        s.hkc s.queueEcc s.aout s.inCoefs s.chains s.flt s.time s.lanes s.ring s.adm s.addrTable s.sent s.streams
        s.strmSel s.vat s.cmd s.reams s.captSel s.gaps s.twin s.slots s.engines s.edges s.sports s.lites s.levels
        s.strobes s.cal s.nv s.fuses s.changes s.safe s.badBands s.serial s.partSB freeCtr) :=
  ⟨h.gc, h.gen, h.host_paths, h.host_sessions, h.inputs, h.exc, h.cores, h.bands, h.aout, h.chains, h.time_doms,
    h.time_ports, h.lanes, h.streams, h.reams, h.slots, h.engines, h.edges, h.sports, h.lites, h.strobes, h.fuses,
    h.safe_si, h.safe_held, h.safe_sawLow, h.safe_tp, h.safe_pairs, h.safe_outs, h.safe_mons, h.safe_conns⟩

theorem Shaped.set_cal_freeCtr {s : State}
    {cal : CalState} {freeCtr : Nat}
    (h : Shaped s) :
    Shaped (State.mk
      s.pending s.regs s.shadow s.pages s.pwr s.clk s.pins s.tap s.gc s.gen s.host s.inputs s.exc s.cores s.bands
        s.hkc s.queueEcc s.aout s.inCoefs s.chains s.flt s.time s.lanes s.ring s.adm s.addrTable s.sent s.streams
        s.strmSel s.vat s.cmd s.reams s.captSel s.gaps s.twin s.slots s.engines s.edges s.sports s.lites s.levels
        s.strobes cal s.nv s.fuses s.changes s.safe s.badBands s.serial s.partSB freeCtr) :=
  ⟨h.gc, h.gen, h.host_paths, h.host_sessions, h.inputs, h.exc, h.cores, h.bands, h.aout, h.chains, h.time_doms,
    h.time_ports, h.lanes, h.streams, h.reams, h.slots, h.engines, h.edges, h.sports, h.lites, h.strobes, h.fuses,
    h.safe_si, h.safe_held, h.safe_sawLow, h.safe_tp, h.safe_pairs, h.safe_outs, h.safe_mons, h.safe_conns⟩

theorem Shaped.set_fuses {s : State}
    {fuses : List (List FuseSlot)}
    (h : Shaped s)
    (hn : Shaped s → fuses.length = 4) :
    Shaped (State.mk
      s.pending s.regs s.shadow s.pages s.pwr s.clk s.pins s.tap s.gc s.gen s.host s.inputs s.exc s.cores s.bands
        s.hkc s.queueEcc s.aout s.inCoefs s.chains s.flt s.time s.lanes s.ring s.adm s.addrTable s.sent s.streams
        s.strmSel s.vat s.cmd s.reams s.captSel s.gaps s.twin s.slots s.engines s.edges s.sports s.lites s.levels
        s.strobes s.cal s.nv fuses s.changes s.safe s.badBands s.serial s.partSB s.freeCtr) :=
  ⟨h.gc, h.gen, h.host_paths, h.host_sessions, h.inputs, h.exc, h.cores, h.bands, h.aout, h.chains, h.time_doms,
    h.time_ports, h.lanes, h.streams, h.reams, h.slots, h.engines, h.edges, h.sports, h.lites, h.strobes, (hn h),
    h.safe_si, h.safe_held, h.safe_sawLow, h.safe_tp, h.safe_pairs, h.safe_outs, h.safe_mons, h.safe_conns⟩

theorem Shaped.set_gaps {s : State}
    {gaps : List (Nat × Nat)}
    (h : Shaped s) :
    Shaped (State.mk
      s.pending s.regs s.shadow s.pages s.pwr s.clk s.pins s.tap s.gc s.gen s.host s.inputs s.exc s.cores s.bands
        s.hkc s.queueEcc s.aout s.inCoefs s.chains s.flt s.time s.lanes s.ring s.adm s.addrTable s.sent s.streams
        s.strmSel s.vat s.cmd s.reams s.captSel gaps s.twin s.slots s.engines s.edges s.sports s.lites s.levels
        s.strobes s.cal s.nv s.fuses s.changes s.safe s.badBands s.serial s.partSB s.freeCtr) :=
  ⟨h.gc, h.gen, h.host_paths, h.host_sessions, h.inputs, h.exc, h.cores, h.bands, h.aout, h.chains, h.time_doms,
    h.time_ports, h.lanes, h.streams, h.reams, h.slots, h.engines, h.edges, h.sports, h.lites, h.strobes, h.fuses,
    h.safe_si, h.safe_held, h.safe_sawLow, h.safe_tp, h.safe_pairs, h.safe_outs, h.safe_mons, h.safe_conns⟩

theorem Shaped.set_gc {s : State}
    {gc : List Ball}
    (h : Shaped s)
    (hn : Shaped s → gc.length = 144) :
    Shaped (State.mk
      s.pending s.regs s.shadow s.pages s.pwr s.clk s.pins s.tap gc s.gen s.host s.inputs s.exc s.cores s.bands
        s.hkc s.queueEcc s.aout s.inCoefs s.chains s.flt s.time s.lanes s.ring s.adm s.addrTable s.sent s.streams
        s.strmSel s.vat s.cmd s.reams s.captSel s.gaps s.twin s.slots s.engines s.edges s.sports s.lites s.levels
        s.strobes s.cal s.nv s.fuses s.changes s.safe s.badBands s.serial s.partSB s.freeCtr) :=
  ⟨(hn h), h.gen, h.host_paths, h.host_sessions, h.inputs, h.exc, h.cores, h.bands, h.aout, h.chains, h.time_doms,
    h.time_ports, h.lanes, h.streams, h.reams, h.slots, h.engines, h.edges, h.sports, h.lites, h.strobes, h.fuses,
    h.safe_si, h.safe_held, h.safe_sawLow, h.safe_tp, h.safe_pairs, h.safe_outs, h.safe_mons, h.safe_conns⟩

theorem Shaped.set_gen {s : State}
    {gen : List Ball}
    (h : Shaped s)
    (hn : Shaped s → gen.length = 12) :
    Shaped (State.mk
      s.pending s.regs s.shadow s.pages s.pwr s.clk s.pins s.tap s.gc gen s.host s.inputs s.exc s.cores s.bands
        s.hkc s.queueEcc s.aout s.inCoefs s.chains s.flt s.time s.lanes s.ring s.adm s.addrTable s.sent s.streams
        s.strmSel s.vat s.cmd s.reams s.captSel s.gaps s.twin s.slots s.engines s.edges s.sports s.lites s.levels
        s.strobes s.cal s.nv s.fuses s.changes s.safe s.badBands s.serial s.partSB s.freeCtr) :=
  ⟨h.gc, (hn h), h.host_paths, h.host_sessions, h.inputs, h.exc, h.cores, h.bands, h.aout, h.chains, h.time_doms,
    h.time_ports, h.lanes, h.streams, h.reams, h.slots, h.engines, h.edges, h.sports, h.lites, h.strobes, h.fuses,
    h.safe_si, h.safe_held, h.safe_sawLow, h.safe_tp, h.safe_pairs, h.safe_outs, h.safe_mons, h.safe_conns⟩

theorem Shaped.set_hkc {s : State}
    {hkc : HkcState}
    (h : Shaped s) :
    Shaped (State.mk
      s.pending s.regs s.shadow s.pages s.pwr s.clk s.pins s.tap s.gc s.gen s.host s.inputs s.exc s.cores s.bands
        hkc s.queueEcc s.aout s.inCoefs s.chains s.flt s.time s.lanes s.ring s.adm s.addrTable s.sent s.streams
        s.strmSel s.vat s.cmd s.reams s.captSel s.gaps s.twin s.slots s.engines s.edges s.sports s.lites s.levels
        s.strobes s.cal s.nv s.fuses s.changes s.safe s.badBands s.serial s.partSB s.freeCtr) :=
  ⟨h.gc, h.gen, h.host_paths, h.host_sessions, h.inputs, h.exc, h.cores, h.bands, h.aout, h.chains, h.time_doms,
    h.time_ports, h.lanes, h.streams, h.reams, h.slots, h.engines, h.edges, h.sports, h.lites, h.strobes, h.fuses,
    h.safe_si, h.safe_held, h.safe_sawLow, h.safe_tp, h.safe_pairs, h.safe_outs, h.safe_mons, h.safe_conns⟩

theorem Shaped.set_host {s : State}
    {host : HostState}
    (h : Shaped s)
    (hn : Shaped s → host.paths.length = 9 ∧ host.sessions.length = 8) :
    Shaped (State.mk
      s.pending s.regs s.shadow s.pages s.pwr s.clk s.pins s.tap s.gc s.gen host s.inputs s.exc s.cores s.bands
        s.hkc s.queueEcc s.aout s.inCoefs s.chains s.flt s.time s.lanes s.ring s.adm s.addrTable s.sent s.streams
        s.strmSel s.vat s.cmd s.reams s.captSel s.gaps s.twin s.slots s.engines s.edges s.sports s.lites s.levels
        s.strobes s.cal s.nv s.fuses s.changes s.safe s.badBands s.serial s.partSB s.freeCtr) :=
  ⟨h.gc, h.gen, (hn h).1, (hn h).2, h.inputs, h.exc, h.cores, h.bands, h.aout, h.chains, h.time_doms, h.time_ports,
    h.lanes, h.streams, h.reams, h.slots, h.engines, h.edges, h.sports, h.lites, h.strobes, h.fuses, h.safe_si,
    h.safe_held, h.safe_sawLow, h.safe_tp, h.safe_pairs, h.safe_outs, h.safe_mons, h.safe_conns⟩

theorem Shaped.set_inputs {s : State}
    {inputs : List InputState}
    (h : Shaped s)
    (hn : Shaped s → inputs.length = 128) :
    Shaped (State.mk
      s.pending s.regs s.shadow s.pages s.pwr s.clk s.pins s.tap s.gc s.gen s.host inputs s.exc s.cores s.bands
        s.hkc s.queueEcc s.aout s.inCoefs s.chains s.flt s.time s.lanes s.ring s.adm s.addrTable s.sent s.streams
        s.strmSel s.vat s.cmd s.reams s.captSel s.gaps s.twin s.slots s.engines s.edges s.sports s.lites s.levels
        s.strobes s.cal s.nv s.fuses s.changes s.safe s.badBands s.serial s.partSB s.freeCtr) :=
  ⟨h.gc, h.gen, h.host_paths, h.host_sessions, (hn h), h.exc, h.cores, h.bands, h.aout, h.chains, h.time_doms,
    h.time_ports, h.lanes, h.streams, h.reams, h.slots, h.engines, h.edges, h.sports, h.lites, h.strobes, h.fuses,
    h.safe_si, h.safe_held, h.safe_sawLow, h.safe_tp, h.safe_pairs, h.safe_outs, h.safe_mons, h.safe_conns⟩

theorem Shaped.set_lanes {s : State}
    {lanes : List LaneState}
    (h : Shaped s)
    (hn : Shaped s → lanes.length = 4) :
    Shaped (State.mk
      s.pending s.regs s.shadow s.pages s.pwr s.clk s.pins s.tap s.gc s.gen s.host s.inputs s.exc s.cores s.bands
        s.hkc s.queueEcc s.aout s.inCoefs s.chains s.flt s.time lanes s.ring s.adm s.addrTable s.sent s.streams
        s.strmSel s.vat s.cmd s.reams s.captSel s.gaps s.twin s.slots s.engines s.edges s.sports s.lites s.levels
        s.strobes s.cal s.nv s.fuses s.changes s.safe s.badBands s.serial s.partSB s.freeCtr) :=
  ⟨h.gc, h.gen, h.host_paths, h.host_sessions, h.inputs, h.exc, h.cores, h.bands, h.aout, h.chains, h.time_doms,
    h.time_ports, (hn h), h.streams, h.reams, h.slots, h.engines, h.edges, h.sports, h.lites, h.strobes, h.fuses,
    h.safe_si, h.safe_held, h.safe_sawLow, h.safe_tp, h.safe_pairs, h.safe_outs, h.safe_mons, h.safe_conns⟩

theorem Shaped.set_levels {s : State}
    {levels : List (Nat × Nat)}
    (h : Shaped s) :
    Shaped (State.mk
      s.pending s.regs s.shadow s.pages s.pwr s.clk s.pins s.tap s.gc s.gen s.host s.inputs s.exc s.cores s.bands
        s.hkc s.queueEcc s.aout s.inCoefs s.chains s.flt s.time s.lanes s.ring s.adm s.addrTable s.sent s.streams
        s.strmSel s.vat s.cmd s.reams s.captSel s.gaps s.twin s.slots s.engines s.edges s.sports s.lites levels
        s.strobes s.cal s.nv s.fuses s.changes s.safe s.badBands s.serial s.partSB s.freeCtr) :=
  ⟨h.gc, h.gen, h.host_paths, h.host_sessions, h.inputs, h.exc, h.cores, h.bands, h.aout, h.chains, h.time_doms,
    h.time_ports, h.lanes, h.streams, h.reams, h.slots, h.engines, h.edges, h.sports, h.lites, h.strobes, h.fuses,
    h.safe_si, h.safe_held, h.safe_sawLow, h.safe_tp, h.safe_pairs, h.safe_outs, h.safe_mons, h.safe_conns⟩

theorem Shaped.set_lites {s : State}
    {lites : List LiteState}
    (h : Shaped s)
    (hn : Shaped s → lites.length = 8) :
    Shaped (State.mk
      s.pending s.regs s.shadow s.pages s.pwr s.clk s.pins s.tap s.gc s.gen s.host s.inputs s.exc s.cores s.bands
        s.hkc s.queueEcc s.aout s.inCoefs s.chains s.flt s.time s.lanes s.ring s.adm s.addrTable s.sent s.streams
        s.strmSel s.vat s.cmd s.reams s.captSel s.gaps s.twin s.slots s.engines s.edges s.sports lites s.levels
        s.strobes s.cal s.nv s.fuses s.changes s.safe s.badBands s.serial s.partSB s.freeCtr) :=
  ⟨h.gc, h.gen, h.host_paths, h.host_sessions, h.inputs, h.exc, h.cores, h.bands, h.aout, h.chains, h.time_doms,
    h.time_ports, h.lanes, h.streams, h.reams, h.slots, h.engines, h.edges, h.sports, (hn h), h.strobes, h.fuses,
    h.safe_si, h.safe_held, h.safe_sawLow, h.safe_tp, h.safe_pairs, h.safe_outs, h.safe_mons, h.safe_conns⟩

theorem Shaped.set_nv {s : State}
    {nv : NvState}
    (h : Shaped s) :
    Shaped (State.mk
      s.pending s.regs s.shadow s.pages s.pwr s.clk s.pins s.tap s.gc s.gen s.host s.inputs s.exc s.cores s.bands
        s.hkc s.queueEcc s.aout s.inCoefs s.chains s.flt s.time s.lanes s.ring s.adm s.addrTable s.sent s.streams
        s.strmSel s.vat s.cmd s.reams s.captSel s.gaps s.twin s.slots s.engines s.edges s.sports s.lites s.levels
        s.strobes s.cal nv s.fuses s.changes s.safe s.badBands s.serial s.partSB s.freeCtr) :=
  ⟨h.gc, h.gen, h.host_paths, h.host_sessions, h.inputs, h.exc, h.cores, h.bands, h.aout, h.chains, h.time_doms,
    h.time_ports, h.lanes, h.streams, h.reams, h.slots, h.engines, h.edges, h.sports, h.lites, h.strobes, h.fuses,
    h.safe_si, h.safe_held, h.safe_sawLow, h.safe_tp, h.safe_pairs, h.safe_outs, h.safe_mons, h.safe_conns⟩

theorem Shaped.set_pages {s : State}
    {pages : List (Nat × PageInfo)}
    (h : Shaped s) :
    Shaped (State.mk
      s.pending s.regs s.shadow pages s.pwr s.clk s.pins s.tap s.gc s.gen s.host s.inputs s.exc s.cores s.bands
        s.hkc s.queueEcc s.aout s.inCoefs s.chains s.flt s.time s.lanes s.ring s.adm s.addrTable s.sent s.streams
        s.strmSel s.vat s.cmd s.reams s.captSel s.gaps s.twin s.slots s.engines s.edges s.sports s.lites s.levels
        s.strobes s.cal s.nv s.fuses s.changes s.safe s.badBands s.serial s.partSB s.freeCtr) :=
  ⟨h.gc, h.gen, h.host_paths, h.host_sessions, h.inputs, h.exc, h.cores, h.bands, h.aout, h.chains, h.time_doms,
    h.time_ports, h.lanes, h.streams, h.reams, h.slots, h.engines, h.edges, h.sports, h.lites, h.strobes, h.fuses,
    h.safe_si, h.safe_held, h.safe_sawLow, h.safe_tp, h.safe_pairs, h.safe_outs, h.safe_mons, h.safe_conns⟩

theorem Shaped.set_pending {s : State}
    {pending : List Instr}
    (h : Shaped s) :
    Shaped (State.mk
      pending s.regs s.shadow s.pages s.pwr s.clk s.pins s.tap s.gc s.gen s.host s.inputs s.exc s.cores s.bands
        s.hkc s.queueEcc s.aout s.inCoefs s.chains s.flt s.time s.lanes s.ring s.adm s.addrTable s.sent s.streams
        s.strmSel s.vat s.cmd s.reams s.captSel s.gaps s.twin s.slots s.engines s.edges s.sports s.lites s.levels
        s.strobes s.cal s.nv s.fuses s.changes s.safe s.badBands s.serial s.partSB s.freeCtr) :=
  ⟨h.gc, h.gen, h.host_paths, h.host_sessions, h.inputs, h.exc, h.cores, h.bands, h.aout, h.chains, h.time_doms,
    h.time_ports, h.lanes, h.streams, h.reams, h.slots, h.engines, h.edges, h.sports, h.lites, h.strobes, h.fuses,
    h.safe_si, h.safe_held, h.safe_sawLow, h.safe_tp, h.safe_pairs, h.safe_outs, h.safe_mons, h.safe_conns⟩

theorem Shaped.set_pins {s : State}
    {pins : PinState}
    (h : Shaped s) :
    Shaped (State.mk
      s.pending s.regs s.shadow s.pages s.pwr s.clk pins s.tap s.gc s.gen s.host s.inputs s.exc s.cores s.bands
        s.hkc s.queueEcc s.aout s.inCoefs s.chains s.flt s.time s.lanes s.ring s.adm s.addrTable s.sent s.streams
        s.strmSel s.vat s.cmd s.reams s.captSel s.gaps s.twin s.slots s.engines s.edges s.sports s.lites s.levels
        s.strobes s.cal s.nv s.fuses s.changes s.safe s.badBands s.serial s.partSB s.freeCtr) :=
  ⟨h.gc, h.gen, h.host_paths, h.host_sessions, h.inputs, h.exc, h.cores, h.bands, h.aout, h.chains, h.time_doms,
    h.time_ports, h.lanes, h.streams, h.reams, h.slots, h.engines, h.edges, h.sports, h.lites, h.strobes, h.fuses,
    h.safe_si, h.safe_held, h.safe_sawLow, h.safe_tp, h.safe_pairs, h.safe_outs, h.safe_mons, h.safe_conns⟩

theorem Shaped.set_pwr {s : State}
    {pwr : PwrState}
    (h : Shaped s) :
    Shaped (State.mk
      s.pending s.regs s.shadow s.pages pwr s.clk s.pins s.tap s.gc s.gen s.host s.inputs s.exc s.cores s.bands
        s.hkc s.queueEcc s.aout s.inCoefs s.chains s.flt s.time s.lanes s.ring s.adm s.addrTable s.sent s.streams
        s.strmSel s.vat s.cmd s.reams s.captSel s.gaps s.twin s.slots s.engines s.edges s.sports s.lites s.levels
        s.strobes s.cal s.nv s.fuses s.changes s.safe s.badBands s.serial s.partSB s.freeCtr) :=
  ⟨h.gc, h.gen, h.host_paths, h.host_sessions, h.inputs, h.exc, h.cores, h.bands, h.aout, h.chains, h.time_doms,
    h.time_ports, h.lanes, h.streams, h.reams, h.slots, h.engines, h.edges, h.sports, h.lites, h.strobes, h.fuses,
    h.safe_si, h.safe_held, h.safe_sawLow, h.safe_tp, h.safe_pairs, h.safe_outs, h.safe_mons, h.safe_conns⟩

theorem Shaped.set_queueEcc {s : State}
    {queueEcc : List (Nat × (Nat × Nat))}
    (h : Shaped s) :
    Shaped (State.mk
      s.pending s.regs s.shadow s.pages s.pwr s.clk s.pins s.tap s.gc s.gen s.host s.inputs s.exc s.cores s.bands
        s.hkc queueEcc s.aout s.inCoefs s.chains s.flt s.time s.lanes s.ring s.adm s.addrTable s.sent s.streams
        s.strmSel s.vat s.cmd s.reams s.captSel s.gaps s.twin s.slots s.engines s.edges s.sports s.lites s.levels
        s.strobes s.cal s.nv s.fuses s.changes s.safe s.badBands s.serial s.partSB s.freeCtr) :=
  ⟨h.gc, h.gen, h.host_paths, h.host_sessions, h.inputs, h.exc, h.cores, h.bands, h.aout, h.chains, h.time_doms,
    h.time_ports, h.lanes, h.streams, h.reams, h.slots, h.engines, h.edges, h.sports, h.lites, h.strobes, h.fuses,
    h.safe_si, h.safe_held, h.safe_sawLow, h.safe_tp, h.safe_pairs, h.safe_outs, h.safe_mons, h.safe_conns⟩

theorem Shaped.set_reams {s : State}
    {reams : List ReamState}
    (h : Shaped s)
    (hn : Shaped s → reams.length = 16) :
    Shaped (State.mk
      s.pending s.regs s.shadow s.pages s.pwr s.clk s.pins s.tap s.gc s.gen s.host s.inputs s.exc s.cores s.bands
        s.hkc s.queueEcc s.aout s.inCoefs s.chains s.flt s.time s.lanes s.ring s.adm s.addrTable s.sent s.streams
        s.strmSel s.vat s.cmd reams s.captSel s.gaps s.twin s.slots s.engines s.edges s.sports s.lites s.levels
        s.strobes s.cal s.nv s.fuses s.changes s.safe s.badBands s.serial s.partSB s.freeCtr) :=
  ⟨h.gc, h.gen, h.host_paths, h.host_sessions, h.inputs, h.exc, h.cores, h.bands, h.aout, h.chains, h.time_doms,
    h.time_ports, h.lanes, h.streams, (hn h), h.slots, h.engines, h.edges, h.sports, h.lites, h.strobes, h.fuses,
    h.safe_si, h.safe_held, h.safe_sawLow, h.safe_tp, h.safe_pairs, h.safe_outs, h.safe_mons, h.safe_conns⟩

theorem Shaped.set_regs {s : State}
    {regs : List (Nat × Word)}
    (h : Shaped s) :
    Shaped (State.mk
      s.pending regs s.shadow s.pages s.pwr s.clk s.pins s.tap s.gc s.gen s.host s.inputs s.exc s.cores s.bands
        s.hkc s.queueEcc s.aout s.inCoefs s.chains s.flt s.time s.lanes s.ring s.adm s.addrTable s.sent s.streams
        s.strmSel s.vat s.cmd s.reams s.captSel s.gaps s.twin s.slots s.engines s.edges s.sports s.lites s.levels
        s.strobes s.cal s.nv s.fuses s.changes s.safe s.badBands s.serial s.partSB s.freeCtr) :=
  ⟨h.gc, h.gen, h.host_paths, h.host_sessions, h.inputs, h.exc, h.cores, h.bands, h.aout, h.chains, h.time_doms,
    h.time_ports, h.lanes, h.streams, h.reams, h.slots, h.engines, h.edges, h.sports, h.lites, h.strobes, h.fuses,
    h.safe_si, h.safe_held, h.safe_sawLow, h.safe_tp, h.safe_pairs, h.safe_outs, h.safe_mons, h.safe_conns⟩

theorem Shaped.set_ring {s : State}
    {ring : RingState}
    (h : Shaped s) :
    Shaped (State.mk
      s.pending s.regs s.shadow s.pages s.pwr s.clk s.pins s.tap s.gc s.gen s.host s.inputs s.exc s.cores s.bands
        s.hkc s.queueEcc s.aout s.inCoefs s.chains s.flt s.time s.lanes ring s.adm s.addrTable s.sent s.streams
        s.strmSel s.vat s.cmd s.reams s.captSel s.gaps s.twin s.slots s.engines s.edges s.sports s.lites s.levels
        s.strobes s.cal s.nv s.fuses s.changes s.safe s.badBands s.serial s.partSB s.freeCtr) :=
  ⟨h.gc, h.gen, h.host_paths, h.host_sessions, h.inputs, h.exc, h.cores, h.bands, h.aout, h.chains, h.time_doms,
    h.time_ports, h.lanes, h.streams, h.reams, h.slots, h.engines, h.edges, h.sports, h.lites, h.strobes, h.fuses,
    h.safe_si, h.safe_held, h.safe_sawLow, h.safe_tp, h.safe_pairs, h.safe_outs, h.safe_mons, h.safe_conns⟩

theorem Shaped.set_safe {s : State}
    {safe : SafeState}
    (h : Shaped s)
    (hn : Shaped s → safe.si.length = 16 ∧ safe.held.length = 16 ∧ safe.sawLow.length = 16 ∧ safe.tp.length = 4 ∧
      safe.pairs.length = 8 ∧ safe.outs.length = 4 ∧ safe.mons.length = 8 ∧ safe.conns.length = 32) :
    Shaped (State.mk
      s.pending s.regs s.shadow s.pages s.pwr s.clk s.pins s.tap s.gc s.gen s.host s.inputs s.exc s.cores s.bands
        s.hkc s.queueEcc s.aout s.inCoefs s.chains s.flt s.time s.lanes s.ring s.adm s.addrTable s.sent s.streams
        s.strmSel s.vat s.cmd s.reams s.captSel s.gaps s.twin s.slots s.engines s.edges s.sports s.lites s.levels
        s.strobes s.cal s.nv s.fuses s.changes safe s.badBands s.serial s.partSB s.freeCtr) :=
  ⟨h.gc, h.gen, h.host_paths, h.host_sessions, h.inputs, h.exc, h.cores, h.bands, h.aout, h.chains, h.time_doms,
    h.time_ports, h.lanes, h.streams, h.reams, h.slots, h.engines, h.edges, h.sports, h.lites, h.strobes, h.fuses,
    (hn h).1, (hn h).2.1, (hn h).2.2.1, (hn h).2.2.2.1, (hn h).2.2.2.2.1, (hn h).2.2.2.2.2.1, (hn h).2.2.2.2.2.2.1,
    (hn h).2.2.2.2.2.2.2⟩

theorem Shaped.set_sent {s : State}
    {sent : List TxFrame}
    (h : Shaped s) :
    Shaped (State.mk
      s.pending s.regs s.shadow s.pages s.pwr s.clk s.pins s.tap s.gc s.gen s.host s.inputs s.exc s.cores s.bands
        s.hkc s.queueEcc s.aout s.inCoefs s.chains s.flt s.time s.lanes s.ring s.adm s.addrTable sent s.streams
        s.strmSel s.vat s.cmd s.reams s.captSel s.gaps s.twin s.slots s.engines s.edges s.sports s.lites s.levels
        s.strobes s.cal s.nv s.fuses s.changes s.safe s.badBands s.serial s.partSB s.freeCtr) :=
  ⟨h.gc, h.gen, h.host_paths, h.host_sessions, h.inputs, h.exc, h.cores, h.bands, h.aout, h.chains, h.time_doms,
    h.time_ports, h.lanes, h.streams, h.reams, h.slots, h.engines, h.edges, h.sports, h.lites, h.strobes, h.fuses,
    h.safe_si, h.safe_held, h.safe_sawLow, h.safe_tp, h.safe_pairs, h.safe_outs, h.safe_mons, h.safe_conns⟩

theorem Shaped.set_shadow {s : State}
    {shadow : List (Nat × Word)}
    (h : Shaped s) :
    Shaped (State.mk
      s.pending s.regs shadow s.pages s.pwr s.clk s.pins s.tap s.gc s.gen s.host s.inputs s.exc s.cores s.bands
        s.hkc s.queueEcc s.aout s.inCoefs s.chains s.flt s.time s.lanes s.ring s.adm s.addrTable s.sent s.streams
        s.strmSel s.vat s.cmd s.reams s.captSel s.gaps s.twin s.slots s.engines s.edges s.sports s.lites s.levels
        s.strobes s.cal s.nv s.fuses s.changes s.safe s.badBands s.serial s.partSB s.freeCtr) :=
  ⟨h.gc, h.gen, h.host_paths, h.host_sessions, h.inputs, h.exc, h.cores, h.bands, h.aout, h.chains, h.time_doms,
    h.time_ports, h.lanes, h.streams, h.reams, h.slots, h.engines, h.edges, h.sports, h.lites, h.strobes, h.fuses,
    h.safe_si, h.safe_held, h.safe_sawLow, h.safe_tp, h.safe_pairs, h.safe_outs, h.safe_mons, h.safe_conns⟩

theorem Shaped.set_slots {s : State}
    {slots : List SlotState}
    (h : Shaped s)
    (hn : Shaped s → slots.length = 48) :
    Shaped (State.mk
      s.pending s.regs s.shadow s.pages s.pwr s.clk s.pins s.tap s.gc s.gen s.host s.inputs s.exc s.cores s.bands
        s.hkc s.queueEcc s.aout s.inCoefs s.chains s.flt s.time s.lanes s.ring s.adm s.addrTable s.sent s.streams
        s.strmSel s.vat s.cmd s.reams s.captSel s.gaps s.twin slots s.engines s.edges s.sports s.lites s.levels
        s.strobes s.cal s.nv s.fuses s.changes s.safe s.badBands s.serial s.partSB s.freeCtr) :=
  ⟨h.gc, h.gen, h.host_paths, h.host_sessions, h.inputs, h.exc, h.cores, h.bands, h.aout, h.chains, h.time_doms,
    h.time_ports, h.lanes, h.streams, h.reams, (hn h), h.engines, h.edges, h.sports, h.lites, h.strobes, h.fuses,
    h.safe_si, h.safe_held, h.safe_sawLow, h.safe_tp, h.safe_pairs, h.safe_outs, h.safe_mons, h.safe_conns⟩

theorem Shaped.set_sports {s : State}
    {sports : List SprtState}
    (h : Shaped s)
    (hn : Shaped s → sports.length = 8) :
    Shaped (State.mk
      s.pending s.regs s.shadow s.pages s.pwr s.clk s.pins s.tap s.gc s.gen s.host s.inputs s.exc s.cores s.bands
        s.hkc s.queueEcc s.aout s.inCoefs s.chains s.flt s.time s.lanes s.ring s.adm s.addrTable s.sent s.streams
        s.strmSel s.vat s.cmd s.reams s.captSel s.gaps s.twin s.slots s.engines s.edges sports s.lites s.levels
        s.strobes s.cal s.nv s.fuses s.changes s.safe s.badBands s.serial s.partSB s.freeCtr) :=
  ⟨h.gc, h.gen, h.host_paths, h.host_sessions, h.inputs, h.exc, h.cores, h.bands, h.aout, h.chains, h.time_doms,
    h.time_ports, h.lanes, h.streams, h.reams, h.slots, h.engines, h.edges, (hn h), h.lites, h.strobes, h.fuses,
    h.safe_si, h.safe_held, h.safe_sawLow, h.safe_tp, h.safe_pairs, h.safe_outs, h.safe_mons, h.safe_conns⟩

theorem Shaped.set_streams {s : State}
    {streams : List StreamState}
    (h : Shaped s)
    (hn : Shaped s → streams.length = 64) :
    Shaped (State.mk
      s.pending s.regs s.shadow s.pages s.pwr s.clk s.pins s.tap s.gc s.gen s.host s.inputs s.exc s.cores s.bands
        s.hkc s.queueEcc s.aout s.inCoefs s.chains s.flt s.time s.lanes s.ring s.adm s.addrTable s.sent streams
        s.strmSel s.vat s.cmd s.reams s.captSel s.gaps s.twin s.slots s.engines s.edges s.sports s.lites s.levels
        s.strobes s.cal s.nv s.fuses s.changes s.safe s.badBands s.serial s.partSB s.freeCtr) :=
  ⟨h.gc, h.gen, h.host_paths, h.host_sessions, h.inputs, h.exc, h.cores, h.bands, h.aout, h.chains, h.time_doms,
    h.time_ports, h.lanes, (hn h), h.reams, h.slots, h.engines, h.edges, h.sports, h.lites, h.strobes, h.fuses,
    h.safe_si, h.safe_held, h.safe_sawLow, h.safe_tp, h.safe_pairs, h.safe_outs, h.safe_mons, h.safe_conns⟩

theorem Shaped.set_strmSel {s : State}
    {strmSel : List (Nat × Word)}
    (h : Shaped s) :
    Shaped (State.mk
      s.pending s.regs s.shadow s.pages s.pwr s.clk s.pins s.tap s.gc s.gen s.host s.inputs s.exc s.cores s.bands
        s.hkc s.queueEcc s.aout s.inCoefs s.chains s.flt s.time s.lanes s.ring s.adm s.addrTable s.sent s.streams
        strmSel s.vat s.cmd s.reams s.captSel s.gaps s.twin s.slots s.engines s.edges s.sports s.lites s.levels
        s.strobes s.cal s.nv s.fuses s.changes s.safe s.badBands s.serial s.partSB s.freeCtr) :=
  ⟨h.gc, h.gen, h.host_paths, h.host_sessions, h.inputs, h.exc, h.cores, h.bands, h.aout, h.chains, h.time_doms,
    h.time_ports, h.lanes, h.streams, h.reams, h.slots, h.engines, h.edges, h.sports, h.lites, h.strobes, h.fuses,
    h.safe_si, h.safe_held, h.safe_sawLow, h.safe_tp, h.safe_pairs, h.safe_outs, h.safe_mons, h.safe_conns⟩

theorem Shaped.set_strobes {s : State}
    {strobes : List StrobeState}
    (h : Shaped s)
    (hn : Shaped s → strobes.length = 8) :
    Shaped (State.mk
      s.pending s.regs s.shadow s.pages s.pwr s.clk s.pins s.tap s.gc s.gen s.host s.inputs s.exc s.cores s.bands
        s.hkc s.queueEcc s.aout s.inCoefs s.chains s.flt s.time s.lanes s.ring s.adm s.addrTable s.sent s.streams
        s.strmSel s.vat s.cmd s.reams s.captSel s.gaps s.twin s.slots s.engines s.edges s.sports s.lites s.levels
        strobes s.cal s.nv s.fuses s.changes s.safe s.badBands s.serial s.partSB s.freeCtr) :=
  ⟨h.gc, h.gen, h.host_paths, h.host_sessions, h.inputs, h.exc, h.cores, h.bands, h.aout, h.chains, h.time_doms,
    h.time_ports, h.lanes, h.streams, h.reams, h.slots, h.engines, h.edges, h.sports, h.lites, (hn h), h.fuses,
    h.safe_si, h.safe_held, h.safe_sawLow, h.safe_tp, h.safe_pairs, h.safe_outs, h.safe_mons, h.safe_conns⟩

theorem Shaped.set_tap {s : State}
    {tap : TapInstr}
    (h : Shaped s) :
    Shaped (State.mk
      s.pending s.regs s.shadow s.pages s.pwr s.clk s.pins tap s.gc s.gen s.host s.inputs s.exc s.cores s.bands
        s.hkc s.queueEcc s.aout s.inCoefs s.chains s.flt s.time s.lanes s.ring s.adm s.addrTable s.sent s.streams
        s.strmSel s.vat s.cmd s.reams s.captSel s.gaps s.twin s.slots s.engines s.edges s.sports s.lites s.levels
        s.strobes s.cal s.nv s.fuses s.changes s.safe s.badBands s.serial s.partSB s.freeCtr) :=
  ⟨h.gc, h.gen, h.host_paths, h.host_sessions, h.inputs, h.exc, h.cores, h.bands, h.aout, h.chains, h.time_doms,
    h.time_ports, h.lanes, h.streams, h.reams, h.slots, h.engines, h.edges, h.sports, h.lites, h.strobes, h.fuses,
    h.safe_si, h.safe_held, h.safe_sawLow, h.safe_tp, h.safe_pairs, h.safe_outs, h.safe_mons, h.safe_conns⟩

theorem Shaped.set_time {s : State}
    {time : TimeState}
    (h : Shaped s)
    (hn : Shaped s → time.doms.length = 2 ∧ time.ports.length = 4) :
    Shaped (State.mk
      s.pending s.regs s.shadow s.pages s.pwr s.clk s.pins s.tap s.gc s.gen s.host s.inputs s.exc s.cores s.bands
        s.hkc s.queueEcc s.aout s.inCoefs s.chains s.flt time s.lanes s.ring s.adm s.addrTable s.sent s.streams
        s.strmSel s.vat s.cmd s.reams s.captSel s.gaps s.twin s.slots s.engines s.edges s.sports s.lites s.levels
        s.strobes s.cal s.nv s.fuses s.changes s.safe s.badBands s.serial s.partSB s.freeCtr) :=
  ⟨h.gc, h.gen, h.host_paths, h.host_sessions, h.inputs, h.exc, h.cores, h.bands, h.aout, h.chains, (hn h).1, (hn
    h).2, h.lanes, h.streams, h.reams, h.slots, h.engines, h.edges, h.sports, h.lites, h.strobes, h.fuses,
    h.safe_si, h.safe_held, h.safe_sawLow, h.safe_tp, h.safe_pairs, h.safe_outs, h.safe_mons, h.safe_conns⟩

theorem Shaped.set_twin {s : State}
    {twin : TwinState}
    (h : Shaped s) :
    Shaped (State.mk
      s.pending s.regs s.shadow s.pages s.pwr s.clk s.pins s.tap s.gc s.gen s.host s.inputs s.exc s.cores s.bands
        s.hkc s.queueEcc s.aout s.inCoefs s.chains s.flt s.time s.lanes s.ring s.adm s.addrTable s.sent s.streams
        s.strmSel s.vat s.cmd s.reams s.captSel s.gaps twin s.slots s.engines s.edges s.sports s.lites s.levels
        s.strobes s.cal s.nv s.fuses s.changes s.safe s.badBands s.serial s.partSB s.freeCtr) :=
  ⟨h.gc, h.gen, h.host_paths, h.host_sessions, h.inputs, h.exc, h.cores, h.bands, h.aout, h.chains, h.time_doms,
    h.time_ports, h.lanes, h.streams, h.reams, h.slots, h.engines, h.edges, h.sports, h.lites, h.strobes, h.fuses,
    h.safe_si, h.safe_held, h.safe_sawLow, h.safe_tp, h.safe_pairs, h.safe_outs, h.safe_mons, h.safe_conns⟩

theorem Shaped.set_vat {s : State}
    {vat : List Host.Cell}
    (h : Shaped s) :
    Shaped (State.mk
      s.pending s.regs s.shadow s.pages s.pwr s.clk s.pins s.tap s.gc s.gen s.host s.inputs s.exc s.cores s.bands
        s.hkc s.queueEcc s.aout s.inCoefs s.chains s.flt s.time s.lanes s.ring s.adm s.addrTable s.sent s.streams
        s.strmSel vat s.cmd s.reams s.captSel s.gaps s.twin s.slots s.engines s.edges s.sports s.lites s.levels
        s.strobes s.cal s.nv s.fuses s.changes s.safe s.badBands s.serial s.partSB s.freeCtr) :=
  ⟨h.gc, h.gen, h.host_paths, h.host_sessions, h.inputs, h.exc, h.cores, h.bands, h.aout, h.chains, h.time_doms,
    h.time_ports, h.lanes, h.streams, h.reams, h.slots, h.engines, h.edges, h.sports, h.lites, h.strobes, h.fuses,
    h.safe_si, h.safe_held, h.safe_sawLow, h.safe_tp, h.safe_pairs, h.safe_outs, h.safe_mons, h.safe_conns⟩

theorem Shaped.set_chains_flt {s : State}
    {chains : List ChainState} {flt : FltState}
    (h : Shaped s)
    (hn : Shaped s → chains.length = 320) :
    Shaped (State.mk
      s.pending s.regs s.shadow s.pages s.pwr s.clk s.pins s.tap s.gc s.gen s.host s.inputs s.exc s.cores s.bands
        s.hkc s.queueEcc s.aout s.inCoefs chains flt s.time s.lanes s.ring s.adm s.addrTable s.sent s.streams
        s.strmSel s.vat s.cmd s.reams s.captSel s.gaps s.twin s.slots s.engines s.edges s.sports s.lites s.levels
        s.strobes s.cal s.nv s.fuses s.changes s.safe s.badBands s.serial s.partSB s.freeCtr) :=
  ⟨h.gc, h.gen, h.host_paths, h.host_sessions, h.inputs, h.exc, h.cores, h.bands, h.aout, (hn h), h.time_doms,
    h.time_ports, h.lanes, h.streams, h.reams, h.slots, h.engines, h.edges, h.sports, h.lites, h.strobes, h.fuses,
    h.safe_si, h.safe_held, h.safe_sawLow, h.safe_tp, h.safe_pairs, h.safe_outs, h.safe_mons, h.safe_conns⟩

theorem Shaped.set_cores_freeCtr {s : State}
    {cores : List CoreState} {freeCtr : Nat}
    (h : Shaped s)
    (hn : Shaped s → cores.length = 32) :
    Shaped (State.mk
      s.pending s.regs s.shadow s.pages s.pwr s.clk s.pins s.tap s.gc s.gen s.host s.inputs s.exc cores s.bands
        s.hkc s.queueEcc s.aout s.inCoefs s.chains s.flt s.time s.lanes s.ring s.adm s.addrTable s.sent s.streams
        s.strmSel s.vat s.cmd s.reams s.captSel s.gaps s.twin s.slots s.engines s.edges s.sports s.lites s.levels
        s.strobes s.cal s.nv s.fuses s.changes s.safe s.badBands s.serial s.partSB freeCtr) :=
  ⟨h.gc, h.gen, h.host_paths, h.host_sessions, h.inputs, h.exc, (hn h), h.bands, h.aout, h.chains, h.time_doms,
    h.time_ports, h.lanes, h.streams, h.reams, h.slots, h.engines, h.edges, h.sports, h.lites, h.strobes, h.fuses,
    h.safe_si, h.safe_held, h.safe_sawLow, h.safe_tp, h.safe_pairs, h.safe_outs, h.safe_mons, h.safe_conns⟩

theorem Shaped.set_gc_gen {s : State}
    {gc : List Ball} {gen : List Ball}
    (h : Shaped s)
    (hn : Shaped s → gc.length = 144 ∧ gen.length = 12) :
    Shaped (State.mk
      s.pending s.regs s.shadow s.pages s.pwr s.clk s.pins s.tap gc gen s.host s.inputs s.exc s.cores s.bands s.hkc
        s.queueEcc s.aout s.inCoefs s.chains s.flt s.time s.lanes s.ring s.adm s.addrTable s.sent s.streams
        s.strmSel s.vat s.cmd s.reams s.captSel s.gaps s.twin s.slots s.engines s.edges s.sports s.lites s.levels
        s.strobes s.cal s.nv s.fuses s.changes s.safe s.badBands s.serial s.partSB s.freeCtr) :=
  ⟨(hn h).1, (hn h).2, h.host_paths, h.host_sessions, h.inputs, h.exc, h.cores, h.bands, h.aout, h.chains,
    h.time_doms, h.time_ports, h.lanes, h.streams, h.reams, h.slots, h.engines, h.edges, h.sports, h.lites,
    h.strobes, h.fuses, h.safe_si, h.safe_held, h.safe_sawLow, h.safe_tp, h.safe_pairs, h.safe_outs, h.safe_mons,
    h.safe_conns⟩

theorem Shaped.set_inCoefs_cal {s : State}
    {inCoefs : List (Nat × (Int × Int))} {cal : CalState}
    (h : Shaped s) :
    Shaped (State.mk
      s.pending s.regs s.shadow s.pages s.pwr s.clk s.pins s.tap s.gc s.gen s.host s.inputs s.exc s.cores s.bands
        s.hkc s.queueEcc s.aout inCoefs s.chains s.flt s.time s.lanes s.ring s.adm s.addrTable s.sent s.streams
        s.strmSel s.vat s.cmd s.reams s.captSel s.gaps s.twin s.slots s.engines s.edges s.sports s.lites s.levels
        s.strobes cal s.nv s.fuses s.changes s.safe s.badBands s.serial s.partSB s.freeCtr) :=
  ⟨h.gc, h.gen, h.host_paths, h.host_sessions, h.inputs, h.exc, h.cores, h.bands, h.aout, h.chains, h.time_doms,
    h.time_ports, h.lanes, h.streams, h.reams, h.slots, h.engines, h.edges, h.sports, h.lites, h.strobes, h.fuses,
    h.safe_si, h.safe_held, h.safe_sawLow, h.safe_tp, h.safe_pairs, h.safe_outs, h.safe_mons, h.safe_conns⟩

theorem Shaped.set_inCoefs_freeCtr {s : State}
    {inCoefs : List (Nat × (Int × Int))} {freeCtr : Nat}
    (h : Shaped s) :
    Shaped (State.mk
      s.pending s.regs s.shadow s.pages s.pwr s.clk s.pins s.tap s.gc s.gen s.host s.inputs s.exc s.cores s.bands
        s.hkc s.queueEcc s.aout inCoefs s.chains s.flt s.time s.lanes s.ring s.adm s.addrTable s.sent s.streams
        s.strmSel s.vat s.cmd s.reams s.captSel s.gaps s.twin s.slots s.engines s.edges s.sports s.lites s.levels
        s.strobes s.cal s.nv s.fuses s.changes s.safe s.badBands s.serial s.partSB freeCtr) :=
  ⟨h.gc, h.gen, h.host_paths, h.host_sessions, h.inputs, h.exc, h.cores, h.bands, h.aout, h.chains, h.time_doms,
    h.time_ports, h.lanes, h.streams, h.reams, h.slots, h.engines, h.edges, h.sports, h.lites, h.strobes, h.fuses,
    h.safe_si, h.safe_held, h.safe_sawLow, h.safe_tp, h.safe_pairs, h.safe_outs, h.safe_mons, h.safe_conns⟩

theorem Shaped.set_inputs_exc {s : State}
    {inputs : List InputState} {exc : List ExcState}
    (h : Shaped s)
    (hn : Shaped s → inputs.length = 128 ∧ exc.length = 16) :
    Shaped (State.mk
      s.pending s.regs s.shadow s.pages s.pwr s.clk s.pins s.tap s.gc s.gen s.host inputs exc s.cores s.bands s.hkc
        s.queueEcc s.aout s.inCoefs s.chains s.flt s.time s.lanes s.ring s.adm s.addrTable s.sent s.streams
        s.strmSel s.vat s.cmd s.reams s.captSel s.gaps s.twin s.slots s.engines s.edges s.sports s.lites s.levels
        s.strobes s.cal s.nv s.fuses s.changes s.safe s.badBands s.serial s.partSB s.freeCtr) :=
  ⟨h.gc, h.gen, h.host_paths, h.host_sessions, (hn h).1, (hn h).2, h.cores, h.bands, h.aout, h.chains, h.time_doms,
    h.time_ports, h.lanes, h.streams, h.reams, h.slots, h.engines, h.edges, h.sports, h.lites, h.strobes, h.fuses,
    h.safe_si, h.safe_held, h.safe_sawLow, h.safe_tp, h.safe_pairs, h.safe_outs, h.safe_mons, h.safe_conns⟩

theorem Shaped.set_lites_strobes {s : State}
    {lites : List LiteState} {strobes : List StrobeState}
    (h : Shaped s)
    (hn : Shaped s → lites.length = 8 ∧ strobes.length = 8) :
    Shaped (State.mk
      s.pending s.regs s.shadow s.pages s.pwr s.clk s.pins s.tap s.gc s.gen s.host s.inputs s.exc s.cores s.bands
        s.hkc s.queueEcc s.aout s.inCoefs s.chains s.flt s.time s.lanes s.ring s.adm s.addrTable s.sent s.streams
        s.strmSel s.vat s.cmd s.reams s.captSel s.gaps s.twin s.slots s.engines s.edges s.sports lites s.levels
        strobes s.cal s.nv s.fuses s.changes s.safe s.badBands s.serial s.partSB s.freeCtr) :=
  ⟨h.gc, h.gen, h.host_paths, h.host_sessions, h.inputs, h.exc, h.cores, h.bands, h.aout, h.chains, h.time_doms,
    h.time_ports, h.lanes, h.streams, h.reams, h.slots, h.engines, h.edges, h.sports, (hn h).1, (hn h).2, h.fuses,
    h.safe_si, h.safe_held, h.safe_sawLow, h.safe_tp, h.safe_pairs, h.safe_outs, h.safe_mons, h.safe_conns⟩

theorem Shaped.set_reams_captSel {s : State}
    {reams : List ReamState} {captSel : List (Nat × Word)}
    (h : Shaped s)
    (hn : Shaped s → reams.length = 16) :
    Shaped (State.mk
      s.pending s.regs s.shadow s.pages s.pwr s.clk s.pins s.tap s.gc s.gen s.host s.inputs s.exc s.cores s.bands
        s.hkc s.queueEcc s.aout s.inCoefs s.chains s.flt s.time s.lanes s.ring s.adm s.addrTable s.sent s.streams
        s.strmSel s.vat s.cmd reams captSel s.gaps s.twin s.slots s.engines s.edges s.sports s.lites s.levels
        s.strobes s.cal s.nv s.fuses s.changes s.safe s.badBands s.serial s.partSB s.freeCtr) :=
  ⟨h.gc, h.gen, h.host_paths, h.host_sessions, h.inputs, h.exc, h.cores, h.bands, h.aout, h.chains, h.time_doms,
    h.time_ports, h.lanes, h.streams, (hn h), h.slots, h.engines, h.edges, h.sports, h.lites, h.strobes, h.fuses,
    h.safe_si, h.safe_held, h.safe_sawLow, h.safe_tp, h.safe_pairs, h.safe_outs, h.safe_mons, h.safe_conns⟩

theorem Shaped.set_ring_adm {s : State}
    {ring : RingState} {adm : AdmState}
    (h : Shaped s) :
    Shaped (State.mk
      s.pending s.regs s.shadow s.pages s.pwr s.clk s.pins s.tap s.gc s.gen s.host s.inputs s.exc s.cores s.bands
        s.hkc s.queueEcc s.aout s.inCoefs s.chains s.flt s.time s.lanes ring adm s.addrTable s.sent s.streams
        s.strmSel s.vat s.cmd s.reams s.captSel s.gaps s.twin s.slots s.engines s.edges s.sports s.lites s.levels
        s.strobes s.cal s.nv s.fuses s.changes s.safe s.badBands s.serial s.partSB s.freeCtr) :=
  ⟨h.gc, h.gen, h.host_paths, h.host_sessions, h.inputs, h.exc, h.cores, h.bands, h.aout, h.chains, h.time_doms,
    h.time_ports, h.lanes, h.streams, h.reams, h.slots, h.engines, h.edges, h.sports, h.lites, h.strobes, h.fuses,
    h.safe_si, h.safe_held, h.safe_sawLow, h.safe_tp, h.safe_pairs, h.safe_outs, h.safe_mons, h.safe_conns⟩

theorem Shaped.set_streams_strmSel {s : State}
    {streams : List StreamState} {strmSel : List (Nat × Word)}
    (h : Shaped s)
    (hn : Shaped s → streams.length = 64) :
    Shaped (State.mk
      s.pending s.regs s.shadow s.pages s.pwr s.clk s.pins s.tap s.gc s.gen s.host s.inputs s.exc s.cores s.bands
        s.hkc s.queueEcc s.aout s.inCoefs s.chains s.flt s.time s.lanes s.ring s.adm s.addrTable s.sent streams
        strmSel s.vat s.cmd s.reams s.captSel s.gaps s.twin s.slots s.engines s.edges s.sports s.lites s.levels
        s.strobes s.cal s.nv s.fuses s.changes s.safe s.badBands s.serial s.partSB s.freeCtr) :=
  ⟨h.gc, h.gen, h.host_paths, h.host_sessions, h.inputs, h.exc, h.cores, h.bands, h.aout, h.chains, h.time_doms,
    h.time_ports, h.lanes, (hn h), h.reams, h.slots, h.engines, h.edges, h.sports, h.lites, h.strobes, h.fuses,
    h.safe_si, h.safe_held, h.safe_sawLow, h.safe_tp, h.safe_pairs, h.safe_outs, h.safe_mons, h.safe_conns⟩

theorem Shaped.set_lanes_ring_adm {s : State}
    {lanes : List LaneState} {ring : RingState} {adm : AdmState}
    (h : Shaped s)
    (hn : Shaped s → lanes.length = 4) :
    Shaped (State.mk
      s.pending s.regs s.shadow s.pages s.pwr s.clk s.pins s.tap s.gc s.gen s.host s.inputs s.exc s.cores s.bands
        s.hkc s.queueEcc s.aout s.inCoefs s.chains s.flt s.time lanes ring adm s.addrTable s.sent s.streams
        s.strmSel s.vat s.cmd s.reams s.captSel s.gaps s.twin s.slots s.engines s.edges s.sports s.lites s.levels
        s.strobes s.cal s.nv s.fuses s.changes s.safe s.badBands s.serial s.partSB s.freeCtr) :=
  ⟨h.gc, h.gen, h.host_paths, h.host_sessions, h.inputs, h.exc, h.cores, h.bands, h.aout, h.chains, h.time_doms,
    h.time_ports, (hn h), h.streams, h.reams, h.slots, h.engines, h.edges, h.sports, h.lites, h.strobes, h.fuses,
    h.safe_si, h.safe_held, h.safe_sawLow, h.safe_tp, h.safe_pairs, h.safe_outs, h.safe_mons, h.safe_conns⟩

theorem Shaped.set_regs_shadow_pages {s : State}
    {regs : List (Nat × Word)} {shadow : List (Nat × Word)} {pages : List (Nat × PageInfo)}
    (h : Shaped s) :
    Shaped (State.mk
      s.pending regs shadow pages s.pwr s.clk s.pins s.tap s.gc s.gen s.host s.inputs s.exc s.cores s.bands s.hkc
        s.queueEcc s.aout s.inCoefs s.chains s.flt s.time s.lanes s.ring s.adm s.addrTable s.sent s.streams
        s.strmSel s.vat s.cmd s.reams s.captSel s.gaps s.twin s.slots s.engines s.edges s.sports s.lites s.levels
        s.strobes s.cal s.nv s.fuses s.changes s.safe s.badBands s.serial s.partSB s.freeCtr) :=
  ⟨h.gc, h.gen, h.host_paths, h.host_sessions, h.inputs, h.exc, h.cores, h.bands, h.aout, h.chains, h.time_doms,
    h.time_ports, h.lanes, h.streams, h.reams, h.slots, h.engines, h.edges, h.sports, h.lites, h.strobes, h.fuses,
    h.safe_si, h.safe_held, h.safe_sawLow, h.safe_tp, h.safe_pairs, h.safe_outs, h.safe_mons, h.safe_conns⟩

theorem Shaped.set_flt_addrTable_strmSel_captSel_engines_levels {s : State}
    {flt : FltState} {addrTable : List (Nat × Nat)} {strmSel : List (Nat × Word)} {captSel : List (Nat × Word)}
      {engines : List EngineState} {levels : List (Nat × Nat)}
    (h : Shaped s)
    (hn : Shaped s → engines.length = 12) :
    Shaped (State.mk
      s.pending s.regs s.shadow s.pages s.pwr s.clk s.pins s.tap s.gc s.gen s.host s.inputs s.exc s.cores s.bands
        s.hkc s.queueEcc s.aout s.inCoefs s.chains flt s.time s.lanes s.ring s.adm addrTable s.sent s.streams
        strmSel s.vat s.cmd s.reams captSel s.gaps s.twin s.slots engines s.edges s.sports s.lites levels s.strobes
        s.cal s.nv s.fuses s.changes s.safe s.badBands s.serial s.partSB s.freeCtr) :=
  ⟨h.gc, h.gen, h.host_paths, h.host_sessions, h.inputs, h.exc, h.cores, h.bands, h.aout, h.chains, h.time_doms,
    h.time_ports, h.lanes, h.streams, h.reams, h.slots, (hn h), h.edges, h.sports, h.lites, h.strobes, h.fuses,
    h.safe_si, h.safe_held, h.safe_sawLow, h.safe_tp, h.safe_pairs, h.safe_outs, h.safe_mons, h.safe_conns⟩

theorem Shaped.set_regs_shadow_flt_addrTable_strmSel_captSel_levels {s : State}
    {regs : List (Nat × Word)} {shadow : List (Nat × Word)} {flt : FltState} {addrTable : List (Nat × Nat)} {strmSel
      : List (Nat × Word)} {captSel : List (Nat × Word)} {levels : List (Nat × Nat)}
    (h : Shaped s) :
    Shaped (State.mk
      s.pending regs shadow s.pages s.pwr s.clk s.pins s.tap s.gc s.gen s.host s.inputs s.exc s.cores s.bands s.hkc
        s.queueEcc s.aout s.inCoefs s.chains flt s.time s.lanes s.ring s.adm addrTable s.sent s.streams strmSel
        s.vat s.cmd s.reams captSel s.gaps s.twin s.slots s.engines s.edges s.sports s.lites levels s.strobes s.cal
        s.nv s.fuses s.changes s.safe s.badBands s.serial s.partSB s.freeCtr) :=
  ⟨h.gc, h.gen, h.host_paths, h.host_sessions, h.inputs, h.exc, h.cores, h.bands, h.aout, h.chains, h.time_doms,
    h.time_ports, h.lanes, h.streams, h.reams, h.slots, h.engines, h.edges, h.sports, h.lites, h.strobes, h.fuses,
    h.safe_si, h.safe_held, h.safe_sawLow, h.safe_tp, h.safe_pairs, h.safe_outs, h.safe_mons, h.safe_conns⟩

theorem Shaped.set_shadow_pages_inputs_hkc_aout_chains_flt_twin_slots_engines_sports {s : State}
    {shadow : List (Nat × Word)} {pages : List (Nat × PageInfo)} {inputs : List InputState} {hkc : HkcState} {aout :
      List AoState} {chains : List ChainState} {flt : FltState} {twin : TwinState} {slots : List SlotState} {engines
      : List EngineState} {sports : List SprtState}
    (h : Shaped s)
    (hn : Shaped s → inputs.length = 128 ∧ aout.length = 8 ∧ chains.length = 320 ∧ slots.length = 48 ∧
      engines.length = 12 ∧ sports.length = 8) :
    Shaped (State.mk
      s.pending s.regs shadow pages s.pwr s.clk s.pins s.tap s.gc s.gen s.host inputs s.exc s.cores s.bands hkc
        s.queueEcc aout s.inCoefs chains flt s.time s.lanes s.ring s.adm s.addrTable s.sent s.streams s.strmSel
        s.vat s.cmd s.reams s.captSel s.gaps twin slots engines s.edges sports s.lites s.levels s.strobes s.cal s.nv
        s.fuses s.changes s.safe s.badBands s.serial s.partSB s.freeCtr) :=
  ⟨h.gc, h.gen, h.host_paths, h.host_sessions, (hn h).1, h.exc, h.cores, h.bands, (hn h).2.1, (hn h).2.2.1,
    h.time_doms, h.time_ports, h.lanes, h.streams, h.reams, (hn h).2.2.2.1, (hn h).2.2.2.2.1, h.edges, (hn
    h).2.2.2.2.2, h.lites, h.strobes, h.fuses, h.safe_si, h.safe_held, h.safe_sawLow, h.safe_tp, h.safe_pairs,
    h.safe_outs, h.safe_mons, h.safe_conns⟩

theorem shaped_wr {s : State} {a : Nat} {v : Word} (h : Shaped s) : Shaped (wr s a v) := Shaped.set_regs h

theorem shaped_vatPut {s : State} {a : Nat} {b : Byte} (h : Shaped s) : Shaped (vatPut s a b) := Shaped.set_vat h

end Sys2Proof.Machine
end

