-- ==== Sys2Proof/Laws/State.lean ====
section
/-!
SUPPORT. The fields of the state after each of its updates: what the updated field holds, and that every other field is as before.
-/
namespace Sys2Proof.Machine

@[simp] theorem wr_pending (s : State) (a : Nat) (v : Word) : (wr s a v).pending = s.pending := rfl
@[simp] theorem wr_regs (s : State) (a : Nat) (v : Word) :
    (wr s a v).regs = sparsePut s.regs (resetOf a) a v := rfl
@[simp] theorem wr_shadow (s : State) (a : Nat) (v : Word) : (wr s a v).shadow = s.shadow := rfl
@[simp] theorem wr_pages (s : State) (a : Nat) (v : Word) : (wr s a v).pages = s.pages := rfl
@[simp] theorem wr_pwr (s : State) (a : Nat) (v : Word) : (wr s a v).pwr = s.pwr := rfl
@[simp] theorem wr_clk (s : State) (a : Nat) (v : Word) : (wr s a v).clk = s.clk := rfl
@[simp] theorem wr_pins (s : State) (a : Nat) (v : Word) : (wr s a v).pins = s.pins := rfl
@[simp] theorem wr_tap (s : State) (a : Nat) (v : Word) : (wr s a v).tap = s.tap := rfl
@[simp] theorem wr_gc (s : State) (a : Nat) (v : Word) : (wr s a v).gc = s.gc := rfl
@[simp] theorem wr_gen (s : State) (a : Nat) (v : Word) : (wr s a v).gen = s.gen := rfl
@[simp] theorem wr_host (s : State) (a : Nat) (v : Word) : (wr s a v).host = s.host := rfl
@[simp] theorem wr_inputs (s : State) (a : Nat) (v : Word) : (wr s a v).inputs = s.inputs := rfl
@[simp] theorem wr_exc (s : State) (a : Nat) (v : Word) : (wr s a v).exc = s.exc := rfl
@[simp] theorem wr_cores (s : State) (a : Nat) (v : Word) : (wr s a v).cores = s.cores := rfl
@[simp] theorem wr_bands (s : State) (a : Nat) (v : Word) : (wr s a v).bands = s.bands := rfl
@[simp] theorem wr_hkc (s : State) (a : Nat) (v : Word) : (wr s a v).hkc = s.hkc := rfl
@[simp] theorem wr_queueEcc (s : State) (a : Nat) (v : Word) : (wr s a v).queueEcc = s.queueEcc := rfl
@[simp] theorem wr_aout (s : State) (a : Nat) (v : Word) : (wr s a v).aout = s.aout := rfl
@[simp] theorem wr_inCoefs (s : State) (a : Nat) (v : Word) : (wr s a v).inCoefs = s.inCoefs := rfl
@[simp] theorem wr_chains (s : State) (a : Nat) (v : Word) : (wr s a v).chains = s.chains := rfl
@[simp] theorem wr_flt (s : State) (a : Nat) (v : Word) : (wr s a v).flt = s.flt := rfl
@[simp] theorem wr_time (s : State) (a : Nat) (v : Word) : (wr s a v).time = s.time := rfl
@[simp] theorem wr_lanes (s : State) (a : Nat) (v : Word) : (wr s a v).lanes = s.lanes := rfl
@[simp] theorem wr_ring (s : State) (a : Nat) (v : Word) : (wr s a v).ring = s.ring := rfl
@[simp] theorem wr_adm (s : State) (a : Nat) (v : Word) : (wr s a v).adm = s.adm := rfl
@[simp] theorem wr_addrTable (s : State) (a : Nat) (v : Word) : (wr s a v).addrTable = s.addrTable := rfl
@[simp] theorem wr_sent (s : State) (a : Nat) (v : Word) : (wr s a v).sent = s.sent := rfl
@[simp] theorem wr_streams (s : State) (a : Nat) (v : Word) : (wr s a v).streams = s.streams := rfl
@[simp] theorem wr_strmSel (s : State) (a : Nat) (v : Word) : (wr s a v).strmSel = s.strmSel := rfl
@[simp] theorem wr_vat (s : State) (a : Nat) (v : Word) : (wr s a v).vat = s.vat := rfl
@[simp] theorem wr_cmd (s : State) (a : Nat) (v : Word) : (wr s a v).cmd = s.cmd := rfl
@[simp] theorem wr_reams (s : State) (a : Nat) (v : Word) : (wr s a v).reams = s.reams := rfl
@[simp] theorem wr_captSel (s : State) (a : Nat) (v : Word) : (wr s a v).captSel = s.captSel := rfl
@[simp] theorem wr_gaps (s : State) (a : Nat) (v : Word) : (wr s a v).gaps = s.gaps := rfl
@[simp] theorem wr_twin (s : State) (a : Nat) (v : Word) : (wr s a v).twin = s.twin := rfl
@[simp] theorem wr_slots (s : State) (a : Nat) (v : Word) : (wr s a v).slots = s.slots := rfl
@[simp] theorem wr_engines (s : State) (a : Nat) (v : Word) : (wr s a v).engines = s.engines := rfl
@[simp] theorem wr_edges (s : State) (a : Nat) (v : Word) : (wr s a v).edges = s.edges := rfl
@[simp] theorem wr_sports (s : State) (a : Nat) (v : Word) : (wr s a v).sports = s.sports := rfl
@[simp] theorem wr_lites (s : State) (a : Nat) (v : Word) : (wr s a v).lites = s.lites := rfl
@[simp] theorem wr_levels (s : State) (a : Nat) (v : Word) : (wr s a v).levels = s.levels := rfl
@[simp] theorem wr_strobes (s : State) (a : Nat) (v : Word) : (wr s a v).strobes = s.strobes := rfl
@[simp] theorem wr_cal (s : State) (a : Nat) (v : Word) : (wr s a v).cal = s.cal := rfl
@[simp] theorem wr_nv (s : State) (a : Nat) (v : Word) : (wr s a v).nv = s.nv := rfl
@[simp] theorem wr_fuses (s : State) (a : Nat) (v : Word) : (wr s a v).fuses = s.fuses := rfl
@[simp] theorem wr_changes (s : State) (a : Nat) (v : Word) : (wr s a v).changes = s.changes := rfl
@[simp] theorem wr_safe (s : State) (a : Nat) (v : Word) : (wr s a v).safe = s.safe := rfl
@[simp] theorem wr_badBands (s : State) (a : Nat) (v : Word) : (wr s a v).badBands = s.badBands := rfl
@[simp] theorem wr_serial (s : State) (a : Nat) (v : Word) : (wr s a v).serial = s.serial := rfl
@[simp] theorem wr_partSB (s : State) (a : Nat) (v : Word) : (wr s a v).partSB = s.partSB := rfl
@[simp] theorem wr_freeCtr (s : State) (a : Nat) (v : Word) : (wr s a v).freeCtr = s.freeCtr := rfl

@[simp] theorem vatPut_pending (s : State) (a : Nat) (b : Byte) : (vatPut s a b).pending = s.pending := rfl
@[simp] theorem vatPut_regs (s : State) (a : Nat) (b : Byte) : (vatPut s a b).regs = s.regs := rfl
@[simp] theorem vatPut_shadow (s : State) (a : Nat) (b : Byte) : (vatPut s a b).shadow = s.shadow := rfl
@[simp] theorem vatPut_pages (s : State) (a : Nat) (b : Byte) : (vatPut s a b).pages = s.pages := rfl
@[simp] theorem vatPut_pwr (s : State) (a : Nat) (b : Byte) : (vatPut s a b).pwr = s.pwr := rfl
@[simp] theorem vatPut_clk (s : State) (a : Nat) (b : Byte) : (vatPut s a b).clk = s.clk := rfl
@[simp] theorem vatPut_pins (s : State) (a : Nat) (b : Byte) : (vatPut s a b).pins = s.pins := rfl
@[simp] theorem vatPut_tap (s : State) (a : Nat) (b : Byte) : (vatPut s a b).tap = s.tap := rfl
@[simp] theorem vatPut_gc (s : State) (a : Nat) (b : Byte) : (vatPut s a b).gc = s.gc := rfl
@[simp] theorem vatPut_gen (s : State) (a : Nat) (b : Byte) : (vatPut s a b).gen = s.gen := rfl
@[simp] theorem vatPut_host (s : State) (a : Nat) (b : Byte) : (vatPut s a b).host = s.host := rfl
@[simp] theorem vatPut_inputs (s : State) (a : Nat) (b : Byte) : (vatPut s a b).inputs = s.inputs := rfl
@[simp] theorem vatPut_exc (s : State) (a : Nat) (b : Byte) : (vatPut s a b).exc = s.exc := rfl
@[simp] theorem vatPut_cores (s : State) (a : Nat) (b : Byte) : (vatPut s a b).cores = s.cores := rfl
@[simp] theorem vatPut_bands (s : State) (a : Nat) (b : Byte) : (vatPut s a b).bands = s.bands := rfl
@[simp] theorem vatPut_hkc (s : State) (a : Nat) (b : Byte) : (vatPut s a b).hkc = s.hkc := rfl
@[simp] theorem vatPut_queueEcc (s : State) (a : Nat) (b : Byte) : (vatPut s a b).queueEcc = s.queueEcc := rfl
@[simp] theorem vatPut_aout (s : State) (a : Nat) (b : Byte) : (vatPut s a b).aout = s.aout := rfl
@[simp] theorem vatPut_inCoefs (s : State) (a : Nat) (b : Byte) : (vatPut s a b).inCoefs = s.inCoefs := rfl
@[simp] theorem vatPut_chains (s : State) (a : Nat) (b : Byte) : (vatPut s a b).chains = s.chains := rfl
@[simp] theorem vatPut_flt (s : State) (a : Nat) (b : Byte) : (vatPut s a b).flt = s.flt := rfl
@[simp] theorem vatPut_time (s : State) (a : Nat) (b : Byte) : (vatPut s a b).time = s.time := rfl
@[simp] theorem vatPut_lanes (s : State) (a : Nat) (b : Byte) : (vatPut s a b).lanes = s.lanes := rfl
@[simp] theorem vatPut_ring (s : State) (a : Nat) (b : Byte) : (vatPut s a b).ring = s.ring := rfl
@[simp] theorem vatPut_adm (s : State) (a : Nat) (b : Byte) : (vatPut s a b).adm = s.adm := rfl
@[simp] theorem vatPut_addrTable (s : State) (a : Nat) (b : Byte) : (vatPut s a b).addrTable = s.addrTable := rfl
@[simp] theorem vatPut_sent (s : State) (a : Nat) (b : Byte) : (vatPut s a b).sent = s.sent := rfl
@[simp] theorem vatPut_streams (s : State) (a : Nat) (b : Byte) : (vatPut s a b).streams = s.streams := rfl
@[simp] theorem vatPut_strmSel (s : State) (a : Nat) (b : Byte) : (vatPut s a b).strmSel = s.strmSel := rfl
@[simp] theorem vatPut_vat (s : State) (a : Nat) (b : Byte) :
    (vatPut s a b).vat = sparsePut s.vat 0 a b := rfl
@[simp] theorem vatPut_cmd (s : State) (a : Nat) (b : Byte) : (vatPut s a b).cmd = s.cmd := rfl
@[simp] theorem vatPut_reams (s : State) (a : Nat) (b : Byte) : (vatPut s a b).reams = s.reams := rfl
@[simp] theorem vatPut_captSel (s : State) (a : Nat) (b : Byte) : (vatPut s a b).captSel = s.captSel := rfl
@[simp] theorem vatPut_gaps (s : State) (a : Nat) (b : Byte) : (vatPut s a b).gaps = s.gaps := rfl
@[simp] theorem vatPut_twin (s : State) (a : Nat) (b : Byte) : (vatPut s a b).twin = s.twin := rfl
@[simp] theorem vatPut_slots (s : State) (a : Nat) (b : Byte) : (vatPut s a b).slots = s.slots := rfl
@[simp] theorem vatPut_engines (s : State) (a : Nat) (b : Byte) : (vatPut s a b).engines = s.engines := rfl
@[simp] theorem vatPut_edges (s : State) (a : Nat) (b : Byte) : (vatPut s a b).edges = s.edges := rfl
@[simp] theorem vatPut_sports (s : State) (a : Nat) (b : Byte) : (vatPut s a b).sports = s.sports := rfl
@[simp] theorem vatPut_lites (s : State) (a : Nat) (b : Byte) : (vatPut s a b).lites = s.lites := rfl
@[simp] theorem vatPut_levels (s : State) (a : Nat) (b : Byte) : (vatPut s a b).levels = s.levels := rfl
@[simp] theorem vatPut_strobes (s : State) (a : Nat) (b : Byte) : (vatPut s a b).strobes = s.strobes := rfl
@[simp] theorem vatPut_cal (s : State) (a : Nat) (b : Byte) : (vatPut s a b).cal = s.cal := rfl
@[simp] theorem vatPut_nv (s : State) (a : Nat) (b : Byte) : (vatPut s a b).nv = s.nv := rfl
@[simp] theorem vatPut_fuses (s : State) (a : Nat) (b : Byte) : (vatPut s a b).fuses = s.fuses := rfl
@[simp] theorem vatPut_changes (s : State) (a : Nat) (b : Byte) : (vatPut s a b).changes = s.changes := rfl
@[simp] theorem vatPut_safe (s : State) (a : Nat) (b : Byte) : (vatPut s a b).safe = s.safe := rfl
@[simp] theorem vatPut_badBands (s : State) (a : Nat) (b : Byte) : (vatPut s a b).badBands = s.badBands := rfl
@[simp] theorem vatPut_serial (s : State) (a : Nat) (b : Byte) : (vatPut s a b).serial = s.serial := rfl
@[simp] theorem vatPut_partSB (s : State) (a : Nat) (b : Byte) : (vatPut s a b).partSB = s.partSB := rfl
@[simp] theorem vatPut_freeCtr (s : State) (a : Nat) (b : Byte) : (vatPut s a b).freeCtr = s.freeCtr := rfl
@[simp] theorem vatPut_rd (s : State) (a : Nat) (b : Byte) (i : Nat) : rd (vatPut s a b) i = rd s i := rfl

@[simp] theorem onPage_pending (s : State) (p : Nat) (f : PageInfo → PageInfo) : (onPage s p f).pending = s.pending
    := rfl
@[simp] theorem onPage_regs (s : State) (p : Nat) (f : PageInfo → PageInfo) : (onPage s p f).regs = s.regs := rfl
@[simp] theorem onPage_shadow (s : State) (p : Nat) (f : PageInfo → PageInfo) : (onPage s p f).shadow = s.shadow :=
    rfl
@[simp] theorem onPage_pages (s : State) (p : Nat) (f : PageInfo → PageInfo) :
    (onPage s p f).pages = sparsePut s.pages {} p (f (pinfo s p)) := rfl
@[simp] theorem onPage_pwr (s : State) (p : Nat) (f : PageInfo → PageInfo) : (onPage s p f).pwr = s.pwr := rfl
@[simp] theorem onPage_clk (s : State) (p : Nat) (f : PageInfo → PageInfo) : (onPage s p f).clk = s.clk := rfl
@[simp] theorem onPage_pins (s : State) (p : Nat) (f : PageInfo → PageInfo) : (onPage s p f).pins = s.pins := rfl
@[simp] theorem onPage_tap (s : State) (p : Nat) (f : PageInfo → PageInfo) : (onPage s p f).tap = s.tap := rfl
@[simp] theorem onPage_gc (s : State) (p : Nat) (f : PageInfo → PageInfo) : (onPage s p f).gc = s.gc := rfl
@[simp] theorem onPage_gen (s : State) (p : Nat) (f : PageInfo → PageInfo) : (onPage s p f).gen = s.gen := rfl
@[simp] theorem onPage_host (s : State) (p : Nat) (f : PageInfo → PageInfo) : (onPage s p f).host = s.host := rfl
@[simp] theorem onPage_inputs (s : State) (p : Nat) (f : PageInfo → PageInfo) : (onPage s p f).inputs = s.inputs :=
    rfl
@[simp] theorem onPage_exc (s : State) (p : Nat) (f : PageInfo → PageInfo) : (onPage s p f).exc = s.exc := rfl
@[simp] theorem onPage_cores (s : State) (p : Nat) (f : PageInfo → PageInfo) : (onPage s p f).cores = s.cores := rfl
@[simp] theorem onPage_bands (s : State) (p : Nat) (f : PageInfo → PageInfo) : (onPage s p f).bands = s.bands := rfl
@[simp] theorem onPage_hkc (s : State) (p : Nat) (f : PageInfo → PageInfo) : (onPage s p f).hkc = s.hkc := rfl
@[simp] theorem onPage_queueEcc (s : State) (p : Nat) (f : PageInfo → PageInfo) : (onPage s p f).queueEcc =
    s.queueEcc := rfl
@[simp] theorem onPage_aout (s : State) (p : Nat) (f : PageInfo → PageInfo) : (onPage s p f).aout = s.aout := rfl
@[simp] theorem onPage_inCoefs (s : State) (p : Nat) (f : PageInfo → PageInfo) : (onPage s p f).inCoefs = s.inCoefs
    := rfl
@[simp] theorem onPage_chains (s : State) (p : Nat) (f : PageInfo → PageInfo) : (onPage s p f).chains = s.chains :=
    rfl
@[simp] theorem onPage_flt (s : State) (p : Nat) (f : PageInfo → PageInfo) : (onPage s p f).flt = s.flt := rfl
@[simp] theorem onPage_time (s : State) (p : Nat) (f : PageInfo → PageInfo) : (onPage s p f).time = s.time := rfl
@[simp] theorem onPage_lanes (s : State) (p : Nat) (f : PageInfo → PageInfo) : (onPage s p f).lanes = s.lanes := rfl
@[simp] theorem onPage_ring (s : State) (p : Nat) (f : PageInfo → PageInfo) : (onPage s p f).ring = s.ring := rfl
@[simp] theorem onPage_adm (s : State) (p : Nat) (f : PageInfo → PageInfo) : (onPage s p f).adm = s.adm := rfl
@[simp] theorem onPage_addrTable (s : State) (p : Nat) (f : PageInfo → PageInfo) : (onPage s p f).addrTable =
    s.addrTable := rfl
@[simp] theorem onPage_sent (s : State) (p : Nat) (f : PageInfo → PageInfo) : (onPage s p f).sent = s.sent := rfl
@[simp] theorem onPage_streams (s : State) (p : Nat) (f : PageInfo → PageInfo) : (onPage s p f).streams = s.streams
    := rfl
@[simp] theorem onPage_strmSel (s : State) (p : Nat) (f : PageInfo → PageInfo) : (onPage s p f).strmSel = s.strmSel
    := rfl
@[simp] theorem onPage_vat (s : State) (p : Nat) (f : PageInfo → PageInfo) : (onPage s p f).vat = s.vat := rfl
@[simp] theorem onPage_cmd (s : State) (p : Nat) (f : PageInfo → PageInfo) : (onPage s p f).cmd = s.cmd := rfl
@[simp] theorem onPage_reams (s : State) (p : Nat) (f : PageInfo → PageInfo) : (onPage s p f).reams = s.reams := rfl
@[simp] theorem onPage_captSel (s : State) (p : Nat) (f : PageInfo → PageInfo) : (onPage s p f).captSel = s.captSel
    := rfl
@[simp] theorem onPage_gaps (s : State) (p : Nat) (f : PageInfo → PageInfo) : (onPage s p f).gaps = s.gaps := rfl
@[simp] theorem onPage_twin (s : State) (p : Nat) (f : PageInfo → PageInfo) : (onPage s p f).twin = s.twin := rfl
@[simp] theorem onPage_slots (s : State) (p : Nat) (f : PageInfo → PageInfo) : (onPage s p f).slots = s.slots := rfl
@[simp] theorem onPage_engines (s : State) (p : Nat) (f : PageInfo → PageInfo) : (onPage s p f).engines = s.engines
    := rfl
@[simp] theorem onPage_edges (s : State) (p : Nat) (f : PageInfo → PageInfo) : (onPage s p f).edges = s.edges := rfl
@[simp] theorem onPage_sports (s : State) (p : Nat) (f : PageInfo → PageInfo) : (onPage s p f).sports = s.sports :=
    rfl
@[simp] theorem onPage_lites (s : State) (p : Nat) (f : PageInfo → PageInfo) : (onPage s p f).lites = s.lites := rfl
@[simp] theorem onPage_levels (s : State) (p : Nat) (f : PageInfo → PageInfo) : (onPage s p f).levels = s.levels :=
    rfl
@[simp] theorem onPage_strobes (s : State) (p : Nat) (f : PageInfo → PageInfo) : (onPage s p f).strobes = s.strobes
    := rfl
@[simp] theorem onPage_cal (s : State) (p : Nat) (f : PageInfo → PageInfo) : (onPage s p f).cal = s.cal := rfl
@[simp] theorem onPage_nv (s : State) (p : Nat) (f : PageInfo → PageInfo) : (onPage s p f).nv = s.nv := rfl
@[simp] theorem onPage_fuses (s : State) (p : Nat) (f : PageInfo → PageInfo) : (onPage s p f).fuses = s.fuses := rfl
@[simp] theorem onPage_changes (s : State) (p : Nat) (f : PageInfo → PageInfo) : (onPage s p f).changes = s.changes
    := rfl
@[simp] theorem onPage_safe (s : State) (p : Nat) (f : PageInfo → PageInfo) : (onPage s p f).safe = s.safe := rfl
@[simp] theorem onPage_badBands (s : State) (p : Nat) (f : PageInfo → PageInfo) : (onPage s p f).badBands =
    s.badBands := rfl
@[simp] theorem onPage_serial (s : State) (p : Nat) (f : PageInfo → PageInfo) : (onPage s p f).serial = s.serial :=
    rfl
@[simp] theorem onPage_partSB (s : State) (p : Nat) (f : PageInfo → PageInfo) : (onPage s p f).partSB = s.partSB :=
    rfl
@[simp] theorem onPage_freeCtr (s : State) (p : Nat) (f : PageInfo → PageInfo) : (onPage s p f).freeCtr = s.freeCtr
    := rfl
@[simp] theorem onPage_rd (s : State) (p : Nat) (f : PageInfo → PageInfo) (i : Nat) : rd (onPage s p f) i = rd s i :=
    rfl

@[simp] theorem onPath_pending (s : State) (p : Path) (f : PathState → PathState) : (onPath s p f).pending =
    s.pending := rfl
@[simp] theorem onPath_regs (s : State) (p : Path) (f : PathState → PathState) : (onPath s p f).regs = s.regs := rfl
@[simp] theorem onPath_shadow (s : State) (p : Path) (f : PathState → PathState) : (onPath s p f).shadow = s.shadow
    := rfl
@[simp] theorem onPath_pages (s : State) (p : Path) (f : PathState → PathState) : (onPath s p f).pages = s.pages :=
    rfl
@[simp] theorem onPath_pwr (s : State) (p : Path) (f : PathState → PathState) : (onPath s p f).pwr = s.pwr := rfl
@[simp] theorem onPath_clk (s : State) (p : Path) (f : PathState → PathState) : (onPath s p f).clk = s.clk := rfl
@[simp] theorem onPath_pins (s : State) (p : Path) (f : PathState → PathState) : (onPath s p f).pins = s.pins := rfl
@[simp] theorem onPath_tap (s : State) (p : Path) (f : PathState → PathState) : (onPath s p f).tap = s.tap := rfl
@[simp] theorem onPath_gc (s : State) (p : Path) (f : PathState → PathState) : (onPath s p f).gc = s.gc := rfl
@[simp] theorem onPath_gen (s : State) (p : Path) (f : PathState → PathState) : (onPath s p f).gen = s.gen := rfl
@[simp] theorem onPath_host (s : State) (p : Path) (f : PathState → PathState) :
    (onPath s p f).host = { s.host with paths := s.host.paths.modify (pathIdx p) f } := rfl
@[simp] theorem onPath_inputs (s : State) (p : Path) (f : PathState → PathState) : (onPath s p f).inputs = s.inputs
    := rfl
@[simp] theorem onPath_exc (s : State) (p : Path) (f : PathState → PathState) : (onPath s p f).exc = s.exc := rfl
@[simp] theorem onPath_cores (s : State) (p : Path) (f : PathState → PathState) : (onPath s p f).cores = s.cores :=
    rfl
@[simp] theorem onPath_bands (s : State) (p : Path) (f : PathState → PathState) : (onPath s p f).bands = s.bands :=
    rfl
@[simp] theorem onPath_hkc (s : State) (p : Path) (f : PathState → PathState) : (onPath s p f).hkc = s.hkc := rfl
@[simp] theorem onPath_queueEcc (s : State) (p : Path) (f : PathState → PathState) : (onPath s p f).queueEcc =
    s.queueEcc := rfl
@[simp] theorem onPath_aout (s : State) (p : Path) (f : PathState → PathState) : (onPath s p f).aout = s.aout := rfl
@[simp] theorem onPath_inCoefs (s : State) (p : Path) (f : PathState → PathState) : (onPath s p f).inCoefs =
    s.inCoefs := rfl
@[simp] theorem onPath_chains (s : State) (p : Path) (f : PathState → PathState) : (onPath s p f).chains = s.chains
    := rfl
@[simp] theorem onPath_flt (s : State) (p : Path) (f : PathState → PathState) : (onPath s p f).flt = s.flt := rfl
@[simp] theorem onPath_time (s : State) (p : Path) (f : PathState → PathState) : (onPath s p f).time = s.time := rfl
@[simp] theorem onPath_lanes (s : State) (p : Path) (f : PathState → PathState) : (onPath s p f).lanes = s.lanes :=
    rfl
@[simp] theorem onPath_ring (s : State) (p : Path) (f : PathState → PathState) : (onPath s p f).ring = s.ring := rfl
@[simp] theorem onPath_adm (s : State) (p : Path) (f : PathState → PathState) : (onPath s p f).adm = s.adm := rfl
@[simp] theorem onPath_addrTable (s : State) (p : Path) (f : PathState → PathState) : (onPath s p f).addrTable =
    s.addrTable := rfl
@[simp] theorem onPath_sent (s : State) (p : Path) (f : PathState → PathState) : (onPath s p f).sent = s.sent := rfl
@[simp] theorem onPath_streams (s : State) (p : Path) (f : PathState → PathState) : (onPath s p f).streams =
    s.streams := rfl
@[simp] theorem onPath_strmSel (s : State) (p : Path) (f : PathState → PathState) : (onPath s p f).strmSel =
    s.strmSel := rfl
@[simp] theorem onPath_vat (s : State) (p : Path) (f : PathState → PathState) : (onPath s p f).vat = s.vat := rfl
@[simp] theorem onPath_cmd (s : State) (p : Path) (f : PathState → PathState) : (onPath s p f).cmd = s.cmd := rfl
@[simp] theorem onPath_reams (s : State) (p : Path) (f : PathState → PathState) : (onPath s p f).reams = s.reams :=
    rfl
@[simp] theorem onPath_captSel (s : State) (p : Path) (f : PathState → PathState) : (onPath s p f).captSel =
    s.captSel := rfl
@[simp] theorem onPath_gaps (s : State) (p : Path) (f : PathState → PathState) : (onPath s p f).gaps = s.gaps := rfl
@[simp] theorem onPath_twin (s : State) (p : Path) (f : PathState → PathState) : (onPath s p f).twin = s.twin := rfl
@[simp] theorem onPath_slots (s : State) (p : Path) (f : PathState → PathState) : (onPath s p f).slots = s.slots :=
    rfl
@[simp] theorem onPath_engines (s : State) (p : Path) (f : PathState → PathState) : (onPath s p f).engines =
    s.engines := rfl
@[simp] theorem onPath_edges (s : State) (p : Path) (f : PathState → PathState) : (onPath s p f).edges = s.edges :=
    rfl
@[simp] theorem onPath_sports (s : State) (p : Path) (f : PathState → PathState) : (onPath s p f).sports = s.sports
    := rfl
@[simp] theorem onPath_lites (s : State) (p : Path) (f : PathState → PathState) : (onPath s p f).lites = s.lites :=
    rfl
@[simp] theorem onPath_levels (s : State) (p : Path) (f : PathState → PathState) : (onPath s p f).levels = s.levels
    := rfl
@[simp] theorem onPath_strobes (s : State) (p : Path) (f : PathState → PathState) : (onPath s p f).strobes =
    s.strobes := rfl
@[simp] theorem onPath_cal (s : State) (p : Path) (f : PathState → PathState) : (onPath s p f).cal = s.cal := rfl
@[simp] theorem onPath_nv (s : State) (p : Path) (f : PathState → PathState) : (onPath s p f).nv = s.nv := rfl
@[simp] theorem onPath_fuses (s : State) (p : Path) (f : PathState → PathState) : (onPath s p f).fuses = s.fuses :=
    rfl
@[simp] theorem onPath_changes (s : State) (p : Path) (f : PathState → PathState) : (onPath s p f).changes =
    s.changes := rfl
@[simp] theorem onPath_safe (s : State) (p : Path) (f : PathState → PathState) : (onPath s p f).safe = s.safe := rfl
@[simp] theorem onPath_badBands (s : State) (p : Path) (f : PathState → PathState) : (onPath s p f).badBands =
    s.badBands := rfl
@[simp] theorem onPath_serial (s : State) (p : Path) (f : PathState → PathState) : (onPath s p f).serial = s.serial
    := rfl
@[simp] theorem onPath_partSB (s : State) (p : Path) (f : PathState → PathState) : (onPath s p f).partSB = s.partSB
    := rfl
@[simp] theorem onPath_freeCtr (s : State) (p : Path) (f : PathState → PathState) : (onPath s p f).freeCtr =
    s.freeCtr := rfl
@[simp] theorem onPath_rd (s : State) (p : Path) (f : PathState → PathState) (i : Nat) : rd (onPath s p f) i = rd s i
    := rfl

@[simp] theorem onHost_pending (s : State) (f : HostState → HostState) : (onHost s f).pending = s.pending := rfl
@[simp] theorem onHost_regs (s : State) (f : HostState → HostState) : (onHost s f).regs = s.regs := rfl
@[simp] theorem onHost_shadow (s : State) (f : HostState → HostState) : (onHost s f).shadow = s.shadow := rfl
@[simp] theorem onHost_pages (s : State) (f : HostState → HostState) : (onHost s f).pages = s.pages := rfl
@[simp] theorem onHost_pwr (s : State) (f : HostState → HostState) : (onHost s f).pwr = s.pwr := rfl
@[simp] theorem onHost_clk (s : State) (f : HostState → HostState) : (onHost s f).clk = s.clk := rfl
@[simp] theorem onHost_pins (s : State) (f : HostState → HostState) : (onHost s f).pins = s.pins := rfl
@[simp] theorem onHost_tap (s : State) (f : HostState → HostState) : (onHost s f).tap = s.tap := rfl
@[simp] theorem onHost_gc (s : State) (f : HostState → HostState) : (onHost s f).gc = s.gc := rfl
@[simp] theorem onHost_gen (s : State) (f : HostState → HostState) : (onHost s f).gen = s.gen := rfl
@[simp] theorem onHost_host (s : State) (f : HostState → HostState) :
    (onHost s f).host = f s.host := rfl
@[simp] theorem onHost_inputs (s : State) (f : HostState → HostState) : (onHost s f).inputs = s.inputs := rfl
@[simp] theorem onHost_exc (s : State) (f : HostState → HostState) : (onHost s f).exc = s.exc := rfl
@[simp] theorem onHost_cores (s : State) (f : HostState → HostState) : (onHost s f).cores = s.cores := rfl
@[simp] theorem onHost_bands (s : State) (f : HostState → HostState) : (onHost s f).bands = s.bands := rfl
@[simp] theorem onHost_hkc (s : State) (f : HostState → HostState) : (onHost s f).hkc = s.hkc := rfl
@[simp] theorem onHost_queueEcc (s : State) (f : HostState → HostState) : (onHost s f).queueEcc = s.queueEcc := rfl
@[simp] theorem onHost_aout (s : State) (f : HostState → HostState) : (onHost s f).aout = s.aout := rfl
@[simp] theorem onHost_inCoefs (s : State) (f : HostState → HostState) : (onHost s f).inCoefs = s.inCoefs := rfl
@[simp] theorem onHost_chains (s : State) (f : HostState → HostState) : (onHost s f).chains = s.chains := rfl
@[simp] theorem onHost_flt (s : State) (f : HostState → HostState) : (onHost s f).flt = s.flt := rfl
@[simp] theorem onHost_time (s : State) (f : HostState → HostState) : (onHost s f).time = s.time := rfl
@[simp] theorem onHost_lanes (s : State) (f : HostState → HostState) : (onHost s f).lanes = s.lanes := rfl
@[simp] theorem onHost_ring (s : State) (f : HostState → HostState) : (onHost s f).ring = s.ring := rfl
@[simp] theorem onHost_adm (s : State) (f : HostState → HostState) : (onHost s f).adm = s.adm := rfl
@[simp] theorem onHost_addrTable (s : State) (f : HostState → HostState) : (onHost s f).addrTable = s.addrTable := rfl
@[simp] theorem onHost_sent (s : State) (f : HostState → HostState) : (onHost s f).sent = s.sent := rfl
@[simp] theorem onHost_streams (s : State) (f : HostState → HostState) : (onHost s f).streams = s.streams := rfl
@[simp] theorem onHost_strmSel (s : State) (f : HostState → HostState) : (onHost s f).strmSel = s.strmSel := rfl
@[simp] theorem onHost_vat (s : State) (f : HostState → HostState) : (onHost s f).vat = s.vat := rfl
@[simp] theorem onHost_cmd (s : State) (f : HostState → HostState) : (onHost s f).cmd = s.cmd := rfl
@[simp] theorem onHost_reams (s : State) (f : HostState → HostState) : (onHost s f).reams = s.reams := rfl
@[simp] theorem onHost_captSel (s : State) (f : HostState → HostState) : (onHost s f).captSel = s.captSel := rfl
@[simp] theorem onHost_gaps (s : State) (f : HostState → HostState) : (onHost s f).gaps = s.gaps := rfl
@[simp] theorem onHost_twin (s : State) (f : HostState → HostState) : (onHost s f).twin = s.twin := rfl
@[simp] theorem onHost_slots (s : State) (f : HostState → HostState) : (onHost s f).slots = s.slots := rfl
@[simp] theorem onHost_engines (s : State) (f : HostState → HostState) : (onHost s f).engines = s.engines := rfl
@[simp] theorem onHost_edges (s : State) (f : HostState → HostState) : (onHost s f).edges = s.edges := rfl
@[simp] theorem onHost_sports (s : State) (f : HostState → HostState) : (onHost s f).sports = s.sports := rfl
@[simp] theorem onHost_lites (s : State) (f : HostState → HostState) : (onHost s f).lites = s.lites := rfl
@[simp] theorem onHost_levels (s : State) (f : HostState → HostState) : (onHost s f).levels = s.levels := rfl
@[simp] theorem onHost_strobes (s : State) (f : HostState → HostState) : (onHost s f).strobes = s.strobes := rfl
@[simp] theorem onHost_cal (s : State) (f : HostState → HostState) : (onHost s f).cal = s.cal := rfl
@[simp] theorem onHost_nv (s : State) (f : HostState → HostState) : (onHost s f).nv = s.nv := rfl
@[simp] theorem onHost_fuses (s : State) (f : HostState → HostState) : (onHost s f).fuses = s.fuses := rfl
@[simp] theorem onHost_changes (s : State) (f : HostState → HostState) : (onHost s f).changes = s.changes := rfl
@[simp] theorem onHost_safe (s : State) (f : HostState → HostState) : (onHost s f).safe = s.safe := rfl
@[simp] theorem onHost_badBands (s : State) (f : HostState → HostState) : (onHost s f).badBands = s.badBands := rfl
@[simp] theorem onHost_serial (s : State) (f : HostState → HostState) : (onHost s f).serial = s.serial := rfl
@[simp] theorem onHost_partSB (s : State) (f : HostState → HostState) : (onHost s f).partSB = s.partSB := rfl
@[simp] theorem onHost_freeCtr (s : State) (f : HostState → HostState) : (onHost s f).freeCtr = s.freeCtr := rfl
@[simp] theorem onHost_rd (s : State) (f : HostState → HostState) (i : Nat) : rd (onHost s f) i = rd s i := rfl

@[simp] theorem onInput_pending (s : State) (ch : Nat) (f : InputState → InputState) : (onInput s ch f).pending =
    s.pending := rfl
@[simp] theorem onInput_regs (s : State) (ch : Nat) (f : InputState → InputState) : (onInput s ch f).regs = s.regs :=
    rfl
@[simp] theorem onInput_shadow (s : State) (ch : Nat) (f : InputState → InputState) : (onInput s ch f).shadow =
    s.shadow := rfl
@[simp] theorem onInput_pages (s : State) (ch : Nat) (f : InputState → InputState) : (onInput s ch f).pages = s.pages
    := rfl
@[simp] theorem onInput_pwr (s : State) (ch : Nat) (f : InputState → InputState) : (onInput s ch f).pwr = s.pwr := rfl
@[simp] theorem onInput_clk (s : State) (ch : Nat) (f : InputState → InputState) : (onInput s ch f).clk = s.clk := rfl
@[simp] theorem onInput_pins (s : State) (ch : Nat) (f : InputState → InputState) : (onInput s ch f).pins = s.pins :=
    rfl
@[simp] theorem onInput_tap (s : State) (ch : Nat) (f : InputState → InputState) : (onInput s ch f).tap = s.tap := rfl
@[simp] theorem onInput_gc (s : State) (ch : Nat) (f : InputState → InputState) : (onInput s ch f).gc = s.gc := rfl
@[simp] theorem onInput_gen (s : State) (ch : Nat) (f : InputState → InputState) : (onInput s ch f).gen = s.gen := rfl
@[simp] theorem onInput_host (s : State) (ch : Nat) (f : InputState → InputState) : (onInput s ch f).host = s.host :=
    rfl
@[simp] theorem onInput_inputs (s : State) (ch : Nat) (f : InputState → InputState) :
    (onInput s ch f).inputs = s.inputs.modify ch f := rfl
@[simp] theorem onInput_exc (s : State) (ch : Nat) (f : InputState → InputState) : (onInput s ch f).exc = s.exc := rfl
@[simp] theorem onInput_cores (s : State) (ch : Nat) (f : InputState → InputState) : (onInput s ch f).cores = s.cores
    := rfl
@[simp] theorem onInput_bands (s : State) (ch : Nat) (f : InputState → InputState) : (onInput s ch f).bands = s.bands
    := rfl
@[simp] theorem onInput_hkc (s : State) (ch : Nat) (f : InputState → InputState) : (onInput s ch f).hkc = s.hkc := rfl
@[simp] theorem onInput_queueEcc (s : State) (ch : Nat) (f : InputState → InputState) : (onInput s ch f).queueEcc =
    s.queueEcc := rfl
@[simp] theorem onInput_aout (s : State) (ch : Nat) (f : InputState → InputState) : (onInput s ch f).aout = s.aout :=
    rfl
@[simp] theorem onInput_inCoefs (s : State) (ch : Nat) (f : InputState → InputState) : (onInput s ch f).inCoefs =
    s.inCoefs := rfl
@[simp] theorem onInput_chains (s : State) (ch : Nat) (f : InputState → InputState) : (onInput s ch f).chains =
    s.chains := rfl
@[simp] theorem onInput_flt (s : State) (ch : Nat) (f : InputState → InputState) : (onInput s ch f).flt = s.flt := rfl
@[simp] theorem onInput_time (s : State) (ch : Nat) (f : InputState → InputState) : (onInput s ch f).time = s.time :=
    rfl
@[simp] theorem onInput_lanes (s : State) (ch : Nat) (f : InputState → InputState) : (onInput s ch f).lanes = s.lanes
    := rfl
@[simp] theorem onInput_ring (s : State) (ch : Nat) (f : InputState → InputState) : (onInput s ch f).ring = s.ring :=
    rfl
@[simp] theorem onInput_adm (s : State) (ch : Nat) (f : InputState → InputState) : (onInput s ch f).adm = s.adm := rfl
@[simp] theorem onInput_addrTable (s : State) (ch : Nat) (f : InputState → InputState) : (onInput s ch f).addrTable =
    s.addrTable := rfl
@[simp] theorem onInput_sent (s : State) (ch : Nat) (f : InputState → InputState) : (onInput s ch f).sent = s.sent :=
    rfl
@[simp] theorem onInput_streams (s : State) (ch : Nat) (f : InputState → InputState) : (onInput s ch f).streams =
    s.streams := rfl
@[simp] theorem onInput_strmSel (s : State) (ch : Nat) (f : InputState → InputState) : (onInput s ch f).strmSel =
    s.strmSel := rfl
@[simp] theorem onInput_vat (s : State) (ch : Nat) (f : InputState → InputState) : (onInput s ch f).vat = s.vat := rfl
@[simp] theorem onInput_cmd (s : State) (ch : Nat) (f : InputState → InputState) : (onInput s ch f).cmd = s.cmd := rfl
@[simp] theorem onInput_reams (s : State) (ch : Nat) (f : InputState → InputState) : (onInput s ch f).reams = s.reams
    := rfl
@[simp] theorem onInput_captSel (s : State) (ch : Nat) (f : InputState → InputState) : (onInput s ch f).captSel =
    s.captSel := rfl
@[simp] theorem onInput_gaps (s : State) (ch : Nat) (f : InputState → InputState) : (onInput s ch f).gaps = s.gaps :=
    rfl
@[simp] theorem onInput_twin (s : State) (ch : Nat) (f : InputState → InputState) : (onInput s ch f).twin = s.twin :=
    rfl
@[simp] theorem onInput_slots (s : State) (ch : Nat) (f : InputState → InputState) : (onInput s ch f).slots = s.slots
    := rfl
@[simp] theorem onInput_engines (s : State) (ch : Nat) (f : InputState → InputState) : (onInput s ch f).engines =
    s.engines := rfl
@[simp] theorem onInput_edges (s : State) (ch : Nat) (f : InputState → InputState) : (onInput s ch f).edges = s.edges
    := rfl
@[simp] theorem onInput_sports (s : State) (ch : Nat) (f : InputState → InputState) : (onInput s ch f).sports =
    s.sports := rfl
@[simp] theorem onInput_lites (s : State) (ch : Nat) (f : InputState → InputState) : (onInput s ch f).lites = s.lites
    := rfl
@[simp] theorem onInput_levels (s : State) (ch : Nat) (f : InputState → InputState) : (onInput s ch f).levels =
    s.levels := rfl
@[simp] theorem onInput_strobes (s : State) (ch : Nat) (f : InputState → InputState) : (onInput s ch f).strobes =
    s.strobes := rfl
@[simp] theorem onInput_cal (s : State) (ch : Nat) (f : InputState → InputState) : (onInput s ch f).cal = s.cal := rfl
@[simp] theorem onInput_nv (s : State) (ch : Nat) (f : InputState → InputState) : (onInput s ch f).nv = s.nv := rfl
@[simp] theorem onInput_fuses (s : State) (ch : Nat) (f : InputState → InputState) : (onInput s ch f).fuses = s.fuses
    := rfl
@[simp] theorem onInput_changes (s : State) (ch : Nat) (f : InputState → InputState) : (onInput s ch f).changes =
    s.changes := rfl
@[simp] theorem onInput_safe (s : State) (ch : Nat) (f : InputState → InputState) : (onInput s ch f).safe = s.safe :=
    rfl
@[simp] theorem onInput_badBands (s : State) (ch : Nat) (f : InputState → InputState) : (onInput s ch f).badBands =
    s.badBands := rfl
@[simp] theorem onInput_serial (s : State) (ch : Nat) (f : InputState → InputState) : (onInput s ch f).serial =
    s.serial := rfl
@[simp] theorem onInput_partSB (s : State) (ch : Nat) (f : InputState → InputState) : (onInput s ch f).partSB =
    s.partSB := rfl
@[simp] theorem onInput_freeCtr (s : State) (ch : Nat) (f : InputState → InputState) : (onInput s ch f).freeCtr =
    s.freeCtr := rfl
@[simp] theorem onInput_rd (s : State) (ch : Nat) (f : InputState → InputState) (i : Nat) : rd (onInput s ch f) i =
    rd s i := rfl

@[simp] theorem onExc_pending (s : State) (k : Nat) (f : ExcState → ExcState) : (onExc s k f).pending = s.pending :=
    rfl
@[simp] theorem onExc_regs (s : State) (k : Nat) (f : ExcState → ExcState) : (onExc s k f).regs = s.regs := rfl
@[simp] theorem onExc_shadow (s : State) (k : Nat) (f : ExcState → ExcState) : (onExc s k f).shadow = s.shadow := rfl
@[simp] theorem onExc_pages (s : State) (k : Nat) (f : ExcState → ExcState) : (onExc s k f).pages = s.pages := rfl
@[simp] theorem onExc_pwr (s : State) (k : Nat) (f : ExcState → ExcState) : (onExc s k f).pwr = s.pwr := rfl
@[simp] theorem onExc_clk (s : State) (k : Nat) (f : ExcState → ExcState) : (onExc s k f).clk = s.clk := rfl
@[simp] theorem onExc_pins (s : State) (k : Nat) (f : ExcState → ExcState) : (onExc s k f).pins = s.pins := rfl
@[simp] theorem onExc_tap (s : State) (k : Nat) (f : ExcState → ExcState) : (onExc s k f).tap = s.tap := rfl
@[simp] theorem onExc_gc (s : State) (k : Nat) (f : ExcState → ExcState) : (onExc s k f).gc = s.gc := rfl
@[simp] theorem onExc_gen (s : State) (k : Nat) (f : ExcState → ExcState) : (onExc s k f).gen = s.gen := rfl
@[simp] theorem onExc_host (s : State) (k : Nat) (f : ExcState → ExcState) : (onExc s k f).host = s.host := rfl
@[simp] theorem onExc_inputs (s : State) (k : Nat) (f : ExcState → ExcState) : (onExc s k f).inputs = s.inputs := rfl
@[simp] theorem onExc_exc (s : State) (k : Nat) (f : ExcState → ExcState) :
    (onExc s k f).exc = s.exc.modify k f := rfl
@[simp] theorem onExc_cores (s : State) (k : Nat) (f : ExcState → ExcState) : (onExc s k f).cores = s.cores := rfl
@[simp] theorem onExc_bands (s : State) (k : Nat) (f : ExcState → ExcState) : (onExc s k f).bands = s.bands := rfl
@[simp] theorem onExc_hkc (s : State) (k : Nat) (f : ExcState → ExcState) : (onExc s k f).hkc = s.hkc := rfl
@[simp] theorem onExc_queueEcc (s : State) (k : Nat) (f : ExcState → ExcState) : (onExc s k f).queueEcc = s.queueEcc
    := rfl
@[simp] theorem onExc_aout (s : State) (k : Nat) (f : ExcState → ExcState) : (onExc s k f).aout = s.aout := rfl
@[simp] theorem onExc_inCoefs (s : State) (k : Nat) (f : ExcState → ExcState) : (onExc s k f).inCoefs = s.inCoefs :=
    rfl
@[simp] theorem onExc_chains (s : State) (k : Nat) (f : ExcState → ExcState) : (onExc s k f).chains = s.chains := rfl
@[simp] theorem onExc_flt (s : State) (k : Nat) (f : ExcState → ExcState) : (onExc s k f).flt = s.flt := rfl
@[simp] theorem onExc_time (s : State) (k : Nat) (f : ExcState → ExcState) : (onExc s k f).time = s.time := rfl
@[simp] theorem onExc_lanes (s : State) (k : Nat) (f : ExcState → ExcState) : (onExc s k f).lanes = s.lanes := rfl
@[simp] theorem onExc_ring (s : State) (k : Nat) (f : ExcState → ExcState) : (onExc s k f).ring = s.ring := rfl
@[simp] theorem onExc_adm (s : State) (k : Nat) (f : ExcState → ExcState) : (onExc s k f).adm = s.adm := rfl
@[simp] theorem onExc_addrTable (s : State) (k : Nat) (f : ExcState → ExcState) : (onExc s k f).addrTable =
    s.addrTable := rfl
@[simp] theorem onExc_sent (s : State) (k : Nat) (f : ExcState → ExcState) : (onExc s k f).sent = s.sent := rfl
@[simp] theorem onExc_streams (s : State) (k : Nat) (f : ExcState → ExcState) : (onExc s k f).streams = s.streams :=
    rfl
@[simp] theorem onExc_strmSel (s : State) (k : Nat) (f : ExcState → ExcState) : (onExc s k f).strmSel = s.strmSel :=
    rfl
@[simp] theorem onExc_vat (s : State) (k : Nat) (f : ExcState → ExcState) : (onExc s k f).vat = s.vat := rfl
@[simp] theorem onExc_cmd (s : State) (k : Nat) (f : ExcState → ExcState) : (onExc s k f).cmd = s.cmd := rfl
@[simp] theorem onExc_reams (s : State) (k : Nat) (f : ExcState → ExcState) : (onExc s k f).reams = s.reams := rfl
@[simp] theorem onExc_captSel (s : State) (k : Nat) (f : ExcState → ExcState) : (onExc s k f).captSel = s.captSel :=
    rfl
@[simp] theorem onExc_gaps (s : State) (k : Nat) (f : ExcState → ExcState) : (onExc s k f).gaps = s.gaps := rfl
@[simp] theorem onExc_twin (s : State) (k : Nat) (f : ExcState → ExcState) : (onExc s k f).twin = s.twin := rfl
@[simp] theorem onExc_slots (s : State) (k : Nat) (f : ExcState → ExcState) : (onExc s k f).slots = s.slots := rfl
@[simp] theorem onExc_engines (s : State) (k : Nat) (f : ExcState → ExcState) : (onExc s k f).engines = s.engines :=
    rfl
@[simp] theorem onExc_edges (s : State) (k : Nat) (f : ExcState → ExcState) : (onExc s k f).edges = s.edges := rfl
@[simp] theorem onExc_sports (s : State) (k : Nat) (f : ExcState → ExcState) : (onExc s k f).sports = s.sports := rfl
@[simp] theorem onExc_lites (s : State) (k : Nat) (f : ExcState → ExcState) : (onExc s k f).lites = s.lites := rfl
@[simp] theorem onExc_levels (s : State) (k : Nat) (f : ExcState → ExcState) : (onExc s k f).levels = s.levels := rfl
@[simp] theorem onExc_strobes (s : State) (k : Nat) (f : ExcState → ExcState) : (onExc s k f).strobes = s.strobes :=
    rfl
@[simp] theorem onExc_cal (s : State) (k : Nat) (f : ExcState → ExcState) : (onExc s k f).cal = s.cal := rfl
@[simp] theorem onExc_nv (s : State) (k : Nat) (f : ExcState → ExcState) : (onExc s k f).nv = s.nv := rfl
@[simp] theorem onExc_fuses (s : State) (k : Nat) (f : ExcState → ExcState) : (onExc s k f).fuses = s.fuses := rfl
@[simp] theorem onExc_changes (s : State) (k : Nat) (f : ExcState → ExcState) : (onExc s k f).changes = s.changes :=
    rfl
@[simp] theorem onExc_safe (s : State) (k : Nat) (f : ExcState → ExcState) : (onExc s k f).safe = s.safe := rfl
@[simp] theorem onExc_badBands (s : State) (k : Nat) (f : ExcState → ExcState) : (onExc s k f).badBands = s.badBands
    := rfl
@[simp] theorem onExc_serial (s : State) (k : Nat) (f : ExcState → ExcState) : (onExc s k f).serial = s.serial := rfl
@[simp] theorem onExc_partSB (s : State) (k : Nat) (f : ExcState → ExcState) : (onExc s k f).partSB = s.partSB := rfl
@[simp] theorem onExc_freeCtr (s : State) (k : Nat) (f : ExcState → ExcState) : (onExc s k f).freeCtr = s.freeCtr :=
    rfl
@[simp] theorem onExc_rd (s : State) (k : Nat) (f : ExcState → ExcState) (i : Nat) : rd (onExc s k f) i = rd s i :=
    rfl

@[simp] theorem onLane_pending (s : State) (l : Lane) (f : LaneState → LaneState) : (onLane s l f).pending =
    s.pending := rfl
@[simp] theorem onLane_regs (s : State) (l : Lane) (f : LaneState → LaneState) : (onLane s l f).regs = s.regs := rfl
@[simp] theorem onLane_shadow (s : State) (l : Lane) (f : LaneState → LaneState) : (onLane s l f).shadow = s.shadow
    := rfl
@[simp] theorem onLane_pages (s : State) (l : Lane) (f : LaneState → LaneState) : (onLane s l f).pages = s.pages :=
    rfl
@[simp] theorem onLane_pwr (s : State) (l : Lane) (f : LaneState → LaneState) : (onLane s l f).pwr = s.pwr := rfl
@[simp] theorem onLane_clk (s : State) (l : Lane) (f : LaneState → LaneState) : (onLane s l f).clk = s.clk := rfl
@[simp] theorem onLane_pins (s : State) (l : Lane) (f : LaneState → LaneState) : (onLane s l f).pins = s.pins := rfl
@[simp] theorem onLane_tap (s : State) (l : Lane) (f : LaneState → LaneState) : (onLane s l f).tap = s.tap := rfl
@[simp] theorem onLane_gc (s : State) (l : Lane) (f : LaneState → LaneState) : (onLane s l f).gc = s.gc := rfl
@[simp] theorem onLane_gen (s : State) (l : Lane) (f : LaneState → LaneState) : (onLane s l f).gen = s.gen := rfl
@[simp] theorem onLane_host (s : State) (l : Lane) (f : LaneState → LaneState) : (onLane s l f).host = s.host := rfl
@[simp] theorem onLane_inputs (s : State) (l : Lane) (f : LaneState → LaneState) : (onLane s l f).inputs = s.inputs
    := rfl
@[simp] theorem onLane_exc (s : State) (l : Lane) (f : LaneState → LaneState) : (onLane s l f).exc = s.exc := rfl
@[simp] theorem onLane_cores (s : State) (l : Lane) (f : LaneState → LaneState) : (onLane s l f).cores = s.cores :=
    rfl
@[simp] theorem onLane_bands (s : State) (l : Lane) (f : LaneState → LaneState) : (onLane s l f).bands = s.bands :=
    rfl
@[simp] theorem onLane_hkc (s : State) (l : Lane) (f : LaneState → LaneState) : (onLane s l f).hkc = s.hkc := rfl
@[simp] theorem onLane_queueEcc (s : State) (l : Lane) (f : LaneState → LaneState) : (onLane s l f).queueEcc =
    s.queueEcc := rfl
@[simp] theorem onLane_aout (s : State) (l : Lane) (f : LaneState → LaneState) : (onLane s l f).aout = s.aout := rfl
@[simp] theorem onLane_inCoefs (s : State) (l : Lane) (f : LaneState → LaneState) : (onLane s l f).inCoefs =
    s.inCoefs := rfl
@[simp] theorem onLane_chains (s : State) (l : Lane) (f : LaneState → LaneState) : (onLane s l f).chains = s.chains
    := rfl
@[simp] theorem onLane_flt (s : State) (l : Lane) (f : LaneState → LaneState) : (onLane s l f).flt = s.flt := rfl
@[simp] theorem onLane_time (s : State) (l : Lane) (f : LaneState → LaneState) : (onLane s l f).time = s.time := rfl
@[simp] theorem onLane_lanes (s : State) (l : Lane) (f : LaneState → LaneState) :
    (onLane s l f).lanes = s.lanes.modify (laneIdx l) f := rfl
@[simp] theorem onLane_ring (s : State) (l : Lane) (f : LaneState → LaneState) : (onLane s l f).ring = s.ring := rfl
@[simp] theorem onLane_adm (s : State) (l : Lane) (f : LaneState → LaneState) : (onLane s l f).adm = s.adm := rfl
@[simp] theorem onLane_addrTable (s : State) (l : Lane) (f : LaneState → LaneState) : (onLane s l f).addrTable =
    s.addrTable := rfl
@[simp] theorem onLane_sent (s : State) (l : Lane) (f : LaneState → LaneState) : (onLane s l f).sent = s.sent := rfl
@[simp] theorem onLane_streams (s : State) (l : Lane) (f : LaneState → LaneState) : (onLane s l f).streams =
    s.streams := rfl
@[simp] theorem onLane_strmSel (s : State) (l : Lane) (f : LaneState → LaneState) : (onLane s l f).strmSel =
    s.strmSel := rfl
@[simp] theorem onLane_vat (s : State) (l : Lane) (f : LaneState → LaneState) : (onLane s l f).vat = s.vat := rfl
@[simp] theorem onLane_cmd (s : State) (l : Lane) (f : LaneState → LaneState) : (onLane s l f).cmd = s.cmd := rfl
@[simp] theorem onLane_reams (s : State) (l : Lane) (f : LaneState → LaneState) : (onLane s l f).reams = s.reams :=
    rfl
@[simp] theorem onLane_captSel (s : State) (l : Lane) (f : LaneState → LaneState) : (onLane s l f).captSel =
    s.captSel := rfl
@[simp] theorem onLane_gaps (s : State) (l : Lane) (f : LaneState → LaneState) : (onLane s l f).gaps = s.gaps := rfl
@[simp] theorem onLane_twin (s : State) (l : Lane) (f : LaneState → LaneState) : (onLane s l f).twin = s.twin := rfl
@[simp] theorem onLane_slots (s : State) (l : Lane) (f : LaneState → LaneState) : (onLane s l f).slots = s.slots :=
    rfl
@[simp] theorem onLane_engines (s : State) (l : Lane) (f : LaneState → LaneState) : (onLane s l f).engines =
    s.engines := rfl
@[simp] theorem onLane_edges (s : State) (l : Lane) (f : LaneState → LaneState) : (onLane s l f).edges = s.edges :=
    rfl
@[simp] theorem onLane_sports (s : State) (l : Lane) (f : LaneState → LaneState) : (onLane s l f).sports = s.sports
    := rfl
@[simp] theorem onLane_lites (s : State) (l : Lane) (f : LaneState → LaneState) : (onLane s l f).lites = s.lites :=
    rfl
@[simp] theorem onLane_levels (s : State) (l : Lane) (f : LaneState → LaneState) : (onLane s l f).levels = s.levels
    := rfl
@[simp] theorem onLane_strobes (s : State) (l : Lane) (f : LaneState → LaneState) : (onLane s l f).strobes =
    s.strobes := rfl
@[simp] theorem onLane_cal (s : State) (l : Lane) (f : LaneState → LaneState) : (onLane s l f).cal = s.cal := rfl
@[simp] theorem onLane_nv (s : State) (l : Lane) (f : LaneState → LaneState) : (onLane s l f).nv = s.nv := rfl
@[simp] theorem onLane_fuses (s : State) (l : Lane) (f : LaneState → LaneState) : (onLane s l f).fuses = s.fuses :=
    rfl
@[simp] theorem onLane_changes (s : State) (l : Lane) (f : LaneState → LaneState) : (onLane s l f).changes =
    s.changes := rfl
@[simp] theorem onLane_safe (s : State) (l : Lane) (f : LaneState → LaneState) : (onLane s l f).safe = s.safe := rfl
@[simp] theorem onLane_badBands (s : State) (l : Lane) (f : LaneState → LaneState) : (onLane s l f).badBands =
    s.badBands := rfl
@[simp] theorem onLane_serial (s : State) (l : Lane) (f : LaneState → LaneState) : (onLane s l f).serial = s.serial
    := rfl
@[simp] theorem onLane_partSB (s : State) (l : Lane) (f : LaneState → LaneState) : (onLane s l f).partSB = s.partSB
    := rfl
@[simp] theorem onLane_freeCtr (s : State) (l : Lane) (f : LaneState → LaneState) : (onLane s l f).freeCtr =
    s.freeCtr := rfl
@[simp] theorem onLane_rd (s : State) (l : Lane) (f : LaneState → LaneState) (i : Nat) : rd (onLane s l f) i = rd s i
    := rfl

@[simp] theorem onChain_pending (s : State) (c : Nat) (f : ChainState → ChainState) : (onChain s c f).pending =
    s.pending := rfl
@[simp] theorem onChain_regs (s : State) (c : Nat) (f : ChainState → ChainState) : (onChain s c f).regs = s.regs :=
    rfl
@[simp] theorem onChain_shadow (s : State) (c : Nat) (f : ChainState → ChainState) : (onChain s c f).shadow =
    s.shadow := rfl
@[simp] theorem onChain_pages (s : State) (c : Nat) (f : ChainState → ChainState) : (onChain s c f).pages = s.pages
    := rfl
@[simp] theorem onChain_pwr (s : State) (c : Nat) (f : ChainState → ChainState) : (onChain s c f).pwr = s.pwr := rfl
@[simp] theorem onChain_clk (s : State) (c : Nat) (f : ChainState → ChainState) : (onChain s c f).clk = s.clk := rfl
@[simp] theorem onChain_pins (s : State) (c : Nat) (f : ChainState → ChainState) : (onChain s c f).pins = s.pins :=
    rfl
@[simp] theorem onChain_tap (s : State) (c : Nat) (f : ChainState → ChainState) : (onChain s c f).tap = s.tap := rfl
@[simp] theorem onChain_gc (s : State) (c : Nat) (f : ChainState → ChainState) : (onChain s c f).gc = s.gc := rfl
@[simp] theorem onChain_gen (s : State) (c : Nat) (f : ChainState → ChainState) : (onChain s c f).gen = s.gen := rfl
@[simp] theorem onChain_host (s : State) (c : Nat) (f : ChainState → ChainState) : (onChain s c f).host = s.host :=
    rfl
@[simp] theorem onChain_inputs (s : State) (c : Nat) (f : ChainState → ChainState) : (onChain s c f).inputs =
    s.inputs := rfl
@[simp] theorem onChain_exc (s : State) (c : Nat) (f : ChainState → ChainState) : (onChain s c f).exc = s.exc := rfl
@[simp] theorem onChain_cores (s : State) (c : Nat) (f : ChainState → ChainState) : (onChain s c f).cores = s.cores
    := rfl
@[simp] theorem onChain_bands (s : State) (c : Nat) (f : ChainState → ChainState) : (onChain s c f).bands = s.bands
    := rfl
@[simp] theorem onChain_hkc (s : State) (c : Nat) (f : ChainState → ChainState) : (onChain s c f).hkc = s.hkc := rfl
@[simp] theorem onChain_queueEcc (s : State) (c : Nat) (f : ChainState → ChainState) : (onChain s c f).queueEcc =
    s.queueEcc := rfl
@[simp] theorem onChain_aout (s : State) (c : Nat) (f : ChainState → ChainState) : (onChain s c f).aout = s.aout :=
    rfl
@[simp] theorem onChain_inCoefs (s : State) (c : Nat) (f : ChainState → ChainState) : (onChain s c f).inCoefs =
    s.inCoefs := rfl
@[simp] theorem onChain_chains (s : State) (c : Nat) (f : ChainState → ChainState) :
    (onChain s c f).chains = s.chains.modify c f := rfl
@[simp] theorem onChain_flt (s : State) (c : Nat) (f : ChainState → ChainState) : (onChain s c f).flt = s.flt := rfl
@[simp] theorem onChain_time (s : State) (c : Nat) (f : ChainState → ChainState) : (onChain s c f).time = s.time :=
    rfl
@[simp] theorem onChain_lanes (s : State) (c : Nat) (f : ChainState → ChainState) : (onChain s c f).lanes = s.lanes
    := rfl
@[simp] theorem onChain_ring (s : State) (c : Nat) (f : ChainState → ChainState) : (onChain s c f).ring = s.ring :=
    rfl
@[simp] theorem onChain_adm (s : State) (c : Nat) (f : ChainState → ChainState) : (onChain s c f).adm = s.adm := rfl
@[simp] theorem onChain_addrTable (s : State) (c : Nat) (f : ChainState → ChainState) : (onChain s c f).addrTable =
    s.addrTable := rfl
@[simp] theorem onChain_sent (s : State) (c : Nat) (f : ChainState → ChainState) : (onChain s c f).sent = s.sent :=
    rfl
@[simp] theorem onChain_streams (s : State) (c : Nat) (f : ChainState → ChainState) : (onChain s c f).streams =
    s.streams := rfl
@[simp] theorem onChain_strmSel (s : State) (c : Nat) (f : ChainState → ChainState) : (onChain s c f).strmSel =
    s.strmSel := rfl
@[simp] theorem onChain_vat (s : State) (c : Nat) (f : ChainState → ChainState) : (onChain s c f).vat = s.vat := rfl
@[simp] theorem onChain_cmd (s : State) (c : Nat) (f : ChainState → ChainState) : (onChain s c f).cmd = s.cmd := rfl
@[simp] theorem onChain_reams (s : State) (c : Nat) (f : ChainState → ChainState) : (onChain s c f).reams = s.reams
    := rfl
@[simp] theorem onChain_captSel (s : State) (c : Nat) (f : ChainState → ChainState) : (onChain s c f).captSel =
    s.captSel := rfl
@[simp] theorem onChain_gaps (s : State) (c : Nat) (f : ChainState → ChainState) : (onChain s c f).gaps = s.gaps :=
    rfl
@[simp] theorem onChain_twin (s : State) (c : Nat) (f : ChainState → ChainState) : (onChain s c f).twin = s.twin :=
    rfl
@[simp] theorem onChain_slots (s : State) (c : Nat) (f : ChainState → ChainState) : (onChain s c f).slots = s.slots
    := rfl
@[simp] theorem onChain_engines (s : State) (c : Nat) (f : ChainState → ChainState) : (onChain s c f).engines =
    s.engines := rfl
@[simp] theorem onChain_edges (s : State) (c : Nat) (f : ChainState → ChainState) : (onChain s c f).edges = s.edges
    := rfl
@[simp] theorem onChain_sports (s : State) (c : Nat) (f : ChainState → ChainState) : (onChain s c f).sports =
    s.sports := rfl
@[simp] theorem onChain_lites (s : State) (c : Nat) (f : ChainState → ChainState) : (onChain s c f).lites = s.lites
    := rfl
@[simp] theorem onChain_levels (s : State) (c : Nat) (f : ChainState → ChainState) : (onChain s c f).levels =
    s.levels := rfl
@[simp] theorem onChain_strobes (s : State) (c : Nat) (f : ChainState → ChainState) : (onChain s c f).strobes =
    s.strobes := rfl
@[simp] theorem onChain_cal (s : State) (c : Nat) (f : ChainState → ChainState) : (onChain s c f).cal = s.cal := rfl
@[simp] theorem onChain_nv (s : State) (c : Nat) (f : ChainState → ChainState) : (onChain s c f).nv = s.nv := rfl
@[simp] theorem onChain_fuses (s : State) (c : Nat) (f : ChainState → ChainState) : (onChain s c f).fuses = s.fuses
    := rfl
@[simp] theorem onChain_changes (s : State) (c : Nat) (f : ChainState → ChainState) : (onChain s c f).changes =
    s.changes := rfl
@[simp] theorem onChain_safe (s : State) (c : Nat) (f : ChainState → ChainState) : (onChain s c f).safe = s.safe :=
    rfl
@[simp] theorem onChain_badBands (s : State) (c : Nat) (f : ChainState → ChainState) : (onChain s c f).badBands =
    s.badBands := rfl
@[simp] theorem onChain_serial (s : State) (c : Nat) (f : ChainState → ChainState) : (onChain s c f).serial =
    s.serial := rfl
@[simp] theorem onChain_partSB (s : State) (c : Nat) (f : ChainState → ChainState) : (onChain s c f).partSB =
    s.partSB := rfl
@[simp] theorem onChain_freeCtr (s : State) (c : Nat) (f : ChainState → ChainState) : (onChain s c f).freeCtr =
    s.freeCtr := rfl
@[simp] theorem onChain_rd (s : State) (c : Nat) (f : ChainState → ChainState) (i : Nat) : rd (onChain s c f) i = rd
    s i := rfl

@[simp] theorem onCore_pending (s : State) (q : Nat) (f : CoreState → CoreState) : (onCore s q f).pending = s.pending
    := rfl
@[simp] theorem onCore_regs (s : State) (q : Nat) (f : CoreState → CoreState) : (onCore s q f).regs = s.regs := rfl
@[simp] theorem onCore_shadow (s : State) (q : Nat) (f : CoreState → CoreState) : (onCore s q f).shadow = s.shadow :=
    rfl
@[simp] theorem onCore_pages (s : State) (q : Nat) (f : CoreState → CoreState) : (onCore s q f).pages = s.pages := rfl
@[simp] theorem onCore_pwr (s : State) (q : Nat) (f : CoreState → CoreState) : (onCore s q f).pwr = s.pwr := rfl
@[simp] theorem onCore_clk (s : State) (q : Nat) (f : CoreState → CoreState) : (onCore s q f).clk = s.clk := rfl
@[simp] theorem onCore_pins (s : State) (q : Nat) (f : CoreState → CoreState) : (onCore s q f).pins = s.pins := rfl
@[simp] theorem onCore_tap (s : State) (q : Nat) (f : CoreState → CoreState) : (onCore s q f).tap = s.tap := rfl
@[simp] theorem onCore_gc (s : State) (q : Nat) (f : CoreState → CoreState) : (onCore s q f).gc = s.gc := rfl
@[simp] theorem onCore_gen (s : State) (q : Nat) (f : CoreState → CoreState) : (onCore s q f).gen = s.gen := rfl
@[simp] theorem onCore_host (s : State) (q : Nat) (f : CoreState → CoreState) : (onCore s q f).host = s.host := rfl
@[simp] theorem onCore_inputs (s : State) (q : Nat) (f : CoreState → CoreState) : (onCore s q f).inputs = s.inputs :=
    rfl
@[simp] theorem onCore_exc (s : State) (q : Nat) (f : CoreState → CoreState) : (onCore s q f).exc = s.exc := rfl
@[simp] theorem onCore_cores (s : State) (q : Nat) (f : CoreState → CoreState) :
    (onCore s q f).cores = s.cores.modify q f := rfl
@[simp] theorem onCore_bands (s : State) (q : Nat) (f : CoreState → CoreState) : (onCore s q f).bands = s.bands := rfl
@[simp] theorem onCore_hkc (s : State) (q : Nat) (f : CoreState → CoreState) : (onCore s q f).hkc = s.hkc := rfl
@[simp] theorem onCore_queueEcc (s : State) (q : Nat) (f : CoreState → CoreState) : (onCore s q f).queueEcc =
    s.queueEcc := rfl
@[simp] theorem onCore_aout (s : State) (q : Nat) (f : CoreState → CoreState) : (onCore s q f).aout = s.aout := rfl
@[simp] theorem onCore_inCoefs (s : State) (q : Nat) (f : CoreState → CoreState) : (onCore s q f).inCoefs = s.inCoefs
    := rfl
@[simp] theorem onCore_chains (s : State) (q : Nat) (f : CoreState → CoreState) : (onCore s q f).chains = s.chains :=
    rfl
@[simp] theorem onCore_flt (s : State) (q : Nat) (f : CoreState → CoreState) : (onCore s q f).flt = s.flt := rfl
@[simp] theorem onCore_time (s : State) (q : Nat) (f : CoreState → CoreState) : (onCore s q f).time = s.time := rfl
@[simp] theorem onCore_lanes (s : State) (q : Nat) (f : CoreState → CoreState) : (onCore s q f).lanes = s.lanes := rfl
@[simp] theorem onCore_ring (s : State) (q : Nat) (f : CoreState → CoreState) : (onCore s q f).ring = s.ring := rfl
@[simp] theorem onCore_adm (s : State) (q : Nat) (f : CoreState → CoreState) : (onCore s q f).adm = s.adm := rfl
@[simp] theorem onCore_addrTable (s : State) (q : Nat) (f : CoreState → CoreState) : (onCore s q f).addrTable =
    s.addrTable := rfl
@[simp] theorem onCore_sent (s : State) (q : Nat) (f : CoreState → CoreState) : (onCore s q f).sent = s.sent := rfl
@[simp] theorem onCore_streams (s : State) (q : Nat) (f : CoreState → CoreState) : (onCore s q f).streams = s.streams
    := rfl
@[simp] theorem onCore_strmSel (s : State) (q : Nat) (f : CoreState → CoreState) : (onCore s q f).strmSel = s.strmSel
    := rfl
@[simp] theorem onCore_vat (s : State) (q : Nat) (f : CoreState → CoreState) : (onCore s q f).vat = s.vat := rfl
@[simp] theorem onCore_cmd (s : State) (q : Nat) (f : CoreState → CoreState) : (onCore s q f).cmd = s.cmd := rfl
@[simp] theorem onCore_reams (s : State) (q : Nat) (f : CoreState → CoreState) : (onCore s q f).reams = s.reams := rfl
@[simp] theorem onCore_captSel (s : State) (q : Nat) (f : CoreState → CoreState) : (onCore s q f).captSel = s.captSel
    := rfl
@[simp] theorem onCore_gaps (s : State) (q : Nat) (f : CoreState → CoreState) : (onCore s q f).gaps = s.gaps := rfl
@[simp] theorem onCore_twin (s : State) (q : Nat) (f : CoreState → CoreState) : (onCore s q f).twin = s.twin := rfl
@[simp] theorem onCore_slots (s : State) (q : Nat) (f : CoreState → CoreState) : (onCore s q f).slots = s.slots := rfl
@[simp] theorem onCore_engines (s : State) (q : Nat) (f : CoreState → CoreState) : (onCore s q f).engines = s.engines
    := rfl
@[simp] theorem onCore_edges (s : State) (q : Nat) (f : CoreState → CoreState) : (onCore s q f).edges = s.edges := rfl
@[simp] theorem onCore_sports (s : State) (q : Nat) (f : CoreState → CoreState) : (onCore s q f).sports = s.sports :=
    rfl
@[simp] theorem onCore_lites (s : State) (q : Nat) (f : CoreState → CoreState) : (onCore s q f).lites = s.lites := rfl
@[simp] theorem onCore_levels (s : State) (q : Nat) (f : CoreState → CoreState) : (onCore s q f).levels = s.levels :=
    rfl
@[simp] theorem onCore_strobes (s : State) (q : Nat) (f : CoreState → CoreState) : (onCore s q f).strobes = s.strobes
    := rfl
@[simp] theorem onCore_cal (s : State) (q : Nat) (f : CoreState → CoreState) : (onCore s q f).cal = s.cal := rfl
@[simp] theorem onCore_nv (s : State) (q : Nat) (f : CoreState → CoreState) : (onCore s q f).nv = s.nv := rfl
@[simp] theorem onCore_fuses (s : State) (q : Nat) (f : CoreState → CoreState) : (onCore s q f).fuses = s.fuses := rfl
@[simp] theorem onCore_changes (s : State) (q : Nat) (f : CoreState → CoreState) : (onCore s q f).changes = s.changes
    := rfl
@[simp] theorem onCore_safe (s : State) (q : Nat) (f : CoreState → CoreState) : (onCore s q f).safe = s.safe := rfl
@[simp] theorem onCore_badBands (s : State) (q : Nat) (f : CoreState → CoreState) : (onCore s q f).badBands =
    s.badBands := rfl
@[simp] theorem onCore_serial (s : State) (q : Nat) (f : CoreState → CoreState) : (onCore s q f).serial = s.serial :=
    rfl
@[simp] theorem onCore_partSB (s : State) (q : Nat) (f : CoreState → CoreState) : (onCore s q f).partSB = s.partSB :=
    rfl
@[simp] theorem onCore_freeCtr (s : State) (q : Nat) (f : CoreState → CoreState) : (onCore s q f).freeCtr = s.freeCtr
    := rfl
@[simp] theorem onCore_rd (s : State) (q : Nat) (f : CoreState → CoreState) (i : Nat) : rd (onCore s q f) i = rd s i
    := rfl

@[simp] theorem onBand_pending (s : State) (ain : Nat) (f : BandState → BandState) : (onBand s ain f).pending =
    s.pending := rfl
@[simp] theorem onBand_regs (s : State) (ain : Nat) (f : BandState → BandState) : (onBand s ain f).regs = s.regs :=
    rfl
@[simp] theorem onBand_shadow (s : State) (ain : Nat) (f : BandState → BandState) : (onBand s ain f).shadow =
    s.shadow := rfl
@[simp] theorem onBand_pages (s : State) (ain : Nat) (f : BandState → BandState) : (onBand s ain f).pages = s.pages
    := rfl
@[simp] theorem onBand_pwr (s : State) (ain : Nat) (f : BandState → BandState) : (onBand s ain f).pwr = s.pwr := rfl
@[simp] theorem onBand_clk (s : State) (ain : Nat) (f : BandState → BandState) : (onBand s ain f).clk = s.clk := rfl
@[simp] theorem onBand_pins (s : State) (ain : Nat) (f : BandState → BandState) : (onBand s ain f).pins = s.pins :=
    rfl
@[simp] theorem onBand_tap (s : State) (ain : Nat) (f : BandState → BandState) : (onBand s ain f).tap = s.tap := rfl
@[simp] theorem onBand_gc (s : State) (ain : Nat) (f : BandState → BandState) : (onBand s ain f).gc = s.gc := rfl
@[simp] theorem onBand_gen (s : State) (ain : Nat) (f : BandState → BandState) : (onBand s ain f).gen = s.gen := rfl
@[simp] theorem onBand_host (s : State) (ain : Nat) (f : BandState → BandState) : (onBand s ain f).host = s.host :=
    rfl
@[simp] theorem onBand_inputs (s : State) (ain : Nat) (f : BandState → BandState) : (onBand s ain f).inputs =
    s.inputs := rfl
@[simp] theorem onBand_exc (s : State) (ain : Nat) (f : BandState → BandState) : (onBand s ain f).exc = s.exc := rfl
@[simp] theorem onBand_cores (s : State) (ain : Nat) (f : BandState → BandState) : (onBand s ain f).cores = s.cores
    := rfl
@[simp] theorem onBand_bands (s : State) (ain : Nat) (f : BandState → BandState) :
    (onBand s ain f).bands = s.bands.modify ain f := rfl
@[simp] theorem onBand_hkc (s : State) (ain : Nat) (f : BandState → BandState) : (onBand s ain f).hkc = s.hkc := rfl
@[simp] theorem onBand_queueEcc (s : State) (ain : Nat) (f : BandState → BandState) : (onBand s ain f).queueEcc =
    s.queueEcc := rfl
@[simp] theorem onBand_aout (s : State) (ain : Nat) (f : BandState → BandState) : (onBand s ain f).aout = s.aout :=
    rfl
@[simp] theorem onBand_inCoefs (s : State) (ain : Nat) (f : BandState → BandState) : (onBand s ain f).inCoefs =
    s.inCoefs := rfl
@[simp] theorem onBand_chains (s : State) (ain : Nat) (f : BandState → BandState) : (onBand s ain f).chains =
    s.chains := rfl
@[simp] theorem onBand_flt (s : State) (ain : Nat) (f : BandState → BandState) : (onBand s ain f).flt = s.flt := rfl
@[simp] theorem onBand_time (s : State) (ain : Nat) (f : BandState → BandState) : (onBand s ain f).time = s.time :=
    rfl
@[simp] theorem onBand_lanes (s : State) (ain : Nat) (f : BandState → BandState) : (onBand s ain f).lanes = s.lanes
    := rfl
@[simp] theorem onBand_ring (s : State) (ain : Nat) (f : BandState → BandState) : (onBand s ain f).ring = s.ring :=
    rfl
@[simp] theorem onBand_adm (s : State) (ain : Nat) (f : BandState → BandState) : (onBand s ain f).adm = s.adm := rfl
@[simp] theorem onBand_addrTable (s : State) (ain : Nat) (f : BandState → BandState) : (onBand s ain f).addrTable =
    s.addrTable := rfl
@[simp] theorem onBand_sent (s : State) (ain : Nat) (f : BandState → BandState) : (onBand s ain f).sent = s.sent :=
    rfl
@[simp] theorem onBand_streams (s : State) (ain : Nat) (f : BandState → BandState) : (onBand s ain f).streams =
    s.streams := rfl
@[simp] theorem onBand_strmSel (s : State) (ain : Nat) (f : BandState → BandState) : (onBand s ain f).strmSel =
    s.strmSel := rfl
@[simp] theorem onBand_vat (s : State) (ain : Nat) (f : BandState → BandState) : (onBand s ain f).vat = s.vat := rfl
@[simp] theorem onBand_cmd (s : State) (ain : Nat) (f : BandState → BandState) : (onBand s ain f).cmd = s.cmd := rfl
@[simp] theorem onBand_reams (s : State) (ain : Nat) (f : BandState → BandState) : (onBand s ain f).reams = s.reams
    := rfl
@[simp] theorem onBand_captSel (s : State) (ain : Nat) (f : BandState → BandState) : (onBand s ain f).captSel =
    s.captSel := rfl
@[simp] theorem onBand_gaps (s : State) (ain : Nat) (f : BandState → BandState) : (onBand s ain f).gaps = s.gaps :=
    rfl
@[simp] theorem onBand_twin (s : State) (ain : Nat) (f : BandState → BandState) : (onBand s ain f).twin = s.twin :=
    rfl
@[simp] theorem onBand_slots (s : State) (ain : Nat) (f : BandState → BandState) : (onBand s ain f).slots = s.slots
    := rfl
@[simp] theorem onBand_engines (s : State) (ain : Nat) (f : BandState → BandState) : (onBand s ain f).engines =
    s.engines := rfl
@[simp] theorem onBand_edges (s : State) (ain : Nat) (f : BandState → BandState) : (onBand s ain f).edges = s.edges
    := rfl
@[simp] theorem onBand_sports (s : State) (ain : Nat) (f : BandState → BandState) : (onBand s ain f).sports =
    s.sports := rfl
@[simp] theorem onBand_lites (s : State) (ain : Nat) (f : BandState → BandState) : (onBand s ain f).lites = s.lites
    := rfl
@[simp] theorem onBand_levels (s : State) (ain : Nat) (f : BandState → BandState) : (onBand s ain f).levels =
    s.levels := rfl
@[simp] theorem onBand_strobes (s : State) (ain : Nat) (f : BandState → BandState) : (onBand s ain f).strobes =
    s.strobes := rfl
@[simp] theorem onBand_cal (s : State) (ain : Nat) (f : BandState → BandState) : (onBand s ain f).cal = s.cal := rfl
@[simp] theorem onBand_nv (s : State) (ain : Nat) (f : BandState → BandState) : (onBand s ain f).nv = s.nv := rfl
@[simp] theorem onBand_fuses (s : State) (ain : Nat) (f : BandState → BandState) : (onBand s ain f).fuses = s.fuses
    := rfl
@[simp] theorem onBand_changes (s : State) (ain : Nat) (f : BandState → BandState) : (onBand s ain f).changes =
    s.changes := rfl
@[simp] theorem onBand_safe (s : State) (ain : Nat) (f : BandState → BandState) : (onBand s ain f).safe = s.safe :=
    rfl
@[simp] theorem onBand_badBands (s : State) (ain : Nat) (f : BandState → BandState) : (onBand s ain f).badBands =
    s.badBands := rfl
@[simp] theorem onBand_serial (s : State) (ain : Nat) (f : BandState → BandState) : (onBand s ain f).serial =
    s.serial := rfl
@[simp] theorem onBand_partSB (s : State) (ain : Nat) (f : BandState → BandState) : (onBand s ain f).partSB =
    s.partSB := rfl
@[simp] theorem onBand_freeCtr (s : State) (ain : Nat) (f : BandState → BandState) : (onBand s ain f).freeCtr =
    s.freeCtr := rfl
@[simp] theorem onBand_rd (s : State) (ain : Nat) (f : BandState → BandState) (i : Nat) : rd (onBand s ain f) i = rd
    s i := rfl

@[simp] theorem onAo_pending (s : State) (x : Nat) (f : AoState → AoState) : (onAo s x f).pending = s.pending := rfl
@[simp] theorem onAo_regs (s : State) (x : Nat) (f : AoState → AoState) : (onAo s x f).regs = s.regs := rfl
@[simp] theorem onAo_shadow (s : State) (x : Nat) (f : AoState → AoState) : (onAo s x f).shadow = s.shadow := rfl
@[simp] theorem onAo_pages (s : State) (x : Nat) (f : AoState → AoState) : (onAo s x f).pages = s.pages := rfl
@[simp] theorem onAo_pwr (s : State) (x : Nat) (f : AoState → AoState) : (onAo s x f).pwr = s.pwr := rfl
@[simp] theorem onAo_clk (s : State) (x : Nat) (f : AoState → AoState) : (onAo s x f).clk = s.clk := rfl
@[simp] theorem onAo_pins (s : State) (x : Nat) (f : AoState → AoState) : (onAo s x f).pins = s.pins := rfl
@[simp] theorem onAo_tap (s : State) (x : Nat) (f : AoState → AoState) : (onAo s x f).tap = s.tap := rfl
@[simp] theorem onAo_gc (s : State) (x : Nat) (f : AoState → AoState) : (onAo s x f).gc = s.gc := rfl
@[simp] theorem onAo_gen (s : State) (x : Nat) (f : AoState → AoState) : (onAo s x f).gen = s.gen := rfl
@[simp] theorem onAo_host (s : State) (x : Nat) (f : AoState → AoState) : (onAo s x f).host = s.host := rfl
@[simp] theorem onAo_inputs (s : State) (x : Nat) (f : AoState → AoState) : (onAo s x f).inputs = s.inputs := rfl
@[simp] theorem onAo_exc (s : State) (x : Nat) (f : AoState → AoState) : (onAo s x f).exc = s.exc := rfl
@[simp] theorem onAo_cores (s : State) (x : Nat) (f : AoState → AoState) : (onAo s x f).cores = s.cores := rfl
@[simp] theorem onAo_bands (s : State) (x : Nat) (f : AoState → AoState) : (onAo s x f).bands = s.bands := rfl
@[simp] theorem onAo_hkc (s : State) (x : Nat) (f : AoState → AoState) : (onAo s x f).hkc = s.hkc := rfl
@[simp] theorem onAo_queueEcc (s : State) (x : Nat) (f : AoState → AoState) : (onAo s x f).queueEcc = s.queueEcc :=
    rfl
@[simp] theorem onAo_aout (s : State) (x : Nat) (f : AoState → AoState) :
    (onAo s x f).aout = s.aout.modify x f := rfl
@[simp] theorem onAo_inCoefs (s : State) (x : Nat) (f : AoState → AoState) : (onAo s x f).inCoefs = s.inCoefs := rfl
@[simp] theorem onAo_chains (s : State) (x : Nat) (f : AoState → AoState) : (onAo s x f).chains = s.chains := rfl
@[simp] theorem onAo_flt (s : State) (x : Nat) (f : AoState → AoState) : (onAo s x f).flt = s.flt := rfl
@[simp] theorem onAo_time (s : State) (x : Nat) (f : AoState → AoState) : (onAo s x f).time = s.time := rfl
@[simp] theorem onAo_lanes (s : State) (x : Nat) (f : AoState → AoState) : (onAo s x f).lanes = s.lanes := rfl
@[simp] theorem onAo_ring (s : State) (x : Nat) (f : AoState → AoState) : (onAo s x f).ring = s.ring := rfl
@[simp] theorem onAo_adm (s : State) (x : Nat) (f : AoState → AoState) : (onAo s x f).adm = s.adm := rfl
@[simp] theorem onAo_addrTable (s : State) (x : Nat) (f : AoState → AoState) : (onAo s x f).addrTable = s.addrTable
    := rfl
@[simp] theorem onAo_sent (s : State) (x : Nat) (f : AoState → AoState) : (onAo s x f).sent = s.sent := rfl
@[simp] theorem onAo_streams (s : State) (x : Nat) (f : AoState → AoState) : (onAo s x f).streams = s.streams := rfl
@[simp] theorem onAo_strmSel (s : State) (x : Nat) (f : AoState → AoState) : (onAo s x f).strmSel = s.strmSel := rfl
@[simp] theorem onAo_vat (s : State) (x : Nat) (f : AoState → AoState) : (onAo s x f).vat = s.vat := rfl
@[simp] theorem onAo_cmd (s : State) (x : Nat) (f : AoState → AoState) : (onAo s x f).cmd = s.cmd := rfl
@[simp] theorem onAo_reams (s : State) (x : Nat) (f : AoState → AoState) : (onAo s x f).reams = s.reams := rfl
@[simp] theorem onAo_captSel (s : State) (x : Nat) (f : AoState → AoState) : (onAo s x f).captSel = s.captSel := rfl
@[simp] theorem onAo_gaps (s : State) (x : Nat) (f : AoState → AoState) : (onAo s x f).gaps = s.gaps := rfl
@[simp] theorem onAo_twin (s : State) (x : Nat) (f : AoState → AoState) : (onAo s x f).twin = s.twin := rfl
@[simp] theorem onAo_slots (s : State) (x : Nat) (f : AoState → AoState) : (onAo s x f).slots = s.slots := rfl
@[simp] theorem onAo_engines (s : State) (x : Nat) (f : AoState → AoState) : (onAo s x f).engines = s.engines := rfl
@[simp] theorem onAo_edges (s : State) (x : Nat) (f : AoState → AoState) : (onAo s x f).edges = s.edges := rfl
@[simp] theorem onAo_sports (s : State) (x : Nat) (f : AoState → AoState) : (onAo s x f).sports = s.sports := rfl
@[simp] theorem onAo_lites (s : State) (x : Nat) (f : AoState → AoState) : (onAo s x f).lites = s.lites := rfl
@[simp] theorem onAo_levels (s : State) (x : Nat) (f : AoState → AoState) : (onAo s x f).levels = s.levels := rfl
@[simp] theorem onAo_strobes (s : State) (x : Nat) (f : AoState → AoState) : (onAo s x f).strobes = s.strobes := rfl
@[simp] theorem onAo_cal (s : State) (x : Nat) (f : AoState → AoState) : (onAo s x f).cal = s.cal := rfl
@[simp] theorem onAo_nv (s : State) (x : Nat) (f : AoState → AoState) : (onAo s x f).nv = s.nv := rfl
@[simp] theorem onAo_fuses (s : State) (x : Nat) (f : AoState → AoState) : (onAo s x f).fuses = s.fuses := rfl
@[simp] theorem onAo_changes (s : State) (x : Nat) (f : AoState → AoState) : (onAo s x f).changes = s.changes := rfl
@[simp] theorem onAo_safe (s : State) (x : Nat) (f : AoState → AoState) : (onAo s x f).safe = s.safe := rfl
@[simp] theorem onAo_badBands (s : State) (x : Nat) (f : AoState → AoState) : (onAo s x f).badBands = s.badBands :=
    rfl
@[simp] theorem onAo_serial (s : State) (x : Nat) (f : AoState → AoState) : (onAo s x f).serial = s.serial := rfl
@[simp] theorem onAo_partSB (s : State) (x : Nat) (f : AoState → AoState) : (onAo s x f).partSB = s.partSB := rfl
@[simp] theorem onAo_freeCtr (s : State) (x : Nat) (f : AoState → AoState) : (onAo s x f).freeCtr = s.freeCtr := rfl
@[simp] theorem onAo_rd (s : State) (x : Nat) (f : AoState → AoState) (i : Nat) : rd (onAo s x f) i = rd s i := rfl

@[simp] theorem onSlot_pending (s : State) (r : Nat) (f : SlotState → SlotState) : (onSlot s r f).pending = s.pending
    := rfl
@[simp] theorem onSlot_regs (s : State) (r : Nat) (f : SlotState → SlotState) : (onSlot s r f).regs = s.regs := rfl
@[simp] theorem onSlot_shadow (s : State) (r : Nat) (f : SlotState → SlotState) : (onSlot s r f).shadow = s.shadow :=
    rfl
@[simp] theorem onSlot_pages (s : State) (r : Nat) (f : SlotState → SlotState) : (onSlot s r f).pages = s.pages := rfl
@[simp] theorem onSlot_pwr (s : State) (r : Nat) (f : SlotState → SlotState) : (onSlot s r f).pwr = s.pwr := rfl
@[simp] theorem onSlot_clk (s : State) (r : Nat) (f : SlotState → SlotState) : (onSlot s r f).clk = s.clk := rfl
@[simp] theorem onSlot_pins (s : State) (r : Nat) (f : SlotState → SlotState) : (onSlot s r f).pins = s.pins := rfl
@[simp] theorem onSlot_tap (s : State) (r : Nat) (f : SlotState → SlotState) : (onSlot s r f).tap = s.tap := rfl
@[simp] theorem onSlot_gc (s : State) (r : Nat) (f : SlotState → SlotState) : (onSlot s r f).gc = s.gc := rfl
@[simp] theorem onSlot_gen (s : State) (r : Nat) (f : SlotState → SlotState) : (onSlot s r f).gen = s.gen := rfl
@[simp] theorem onSlot_host (s : State) (r : Nat) (f : SlotState → SlotState) : (onSlot s r f).host = s.host := rfl
@[simp] theorem onSlot_inputs (s : State) (r : Nat) (f : SlotState → SlotState) : (onSlot s r f).inputs = s.inputs :=
    rfl
@[simp] theorem onSlot_exc (s : State) (r : Nat) (f : SlotState → SlotState) : (onSlot s r f).exc = s.exc := rfl
@[simp] theorem onSlot_cores (s : State) (r : Nat) (f : SlotState → SlotState) : (onSlot s r f).cores = s.cores := rfl
@[simp] theorem onSlot_bands (s : State) (r : Nat) (f : SlotState → SlotState) : (onSlot s r f).bands = s.bands := rfl
@[simp] theorem onSlot_hkc (s : State) (r : Nat) (f : SlotState → SlotState) : (onSlot s r f).hkc = s.hkc := rfl
@[simp] theorem onSlot_queueEcc (s : State) (r : Nat) (f : SlotState → SlotState) : (onSlot s r f).queueEcc =
    s.queueEcc := rfl
@[simp] theorem onSlot_aout (s : State) (r : Nat) (f : SlotState → SlotState) : (onSlot s r f).aout = s.aout := rfl
@[simp] theorem onSlot_inCoefs (s : State) (r : Nat) (f : SlotState → SlotState) : (onSlot s r f).inCoefs = s.inCoefs
    := rfl
@[simp] theorem onSlot_chains (s : State) (r : Nat) (f : SlotState → SlotState) : (onSlot s r f).chains = s.chains :=
    rfl
@[simp] theorem onSlot_flt (s : State) (r : Nat) (f : SlotState → SlotState) : (onSlot s r f).flt = s.flt := rfl
@[simp] theorem onSlot_time (s : State) (r : Nat) (f : SlotState → SlotState) : (onSlot s r f).time = s.time := rfl
@[simp] theorem onSlot_lanes (s : State) (r : Nat) (f : SlotState → SlotState) : (onSlot s r f).lanes = s.lanes := rfl
@[simp] theorem onSlot_ring (s : State) (r : Nat) (f : SlotState → SlotState) : (onSlot s r f).ring = s.ring := rfl
@[simp] theorem onSlot_adm (s : State) (r : Nat) (f : SlotState → SlotState) : (onSlot s r f).adm = s.adm := rfl
@[simp] theorem onSlot_addrTable (s : State) (r : Nat) (f : SlotState → SlotState) : (onSlot s r f).addrTable =
    s.addrTable := rfl
@[simp] theorem onSlot_sent (s : State) (r : Nat) (f : SlotState → SlotState) : (onSlot s r f).sent = s.sent := rfl
@[simp] theorem onSlot_streams (s : State) (r : Nat) (f : SlotState → SlotState) : (onSlot s r f).streams = s.streams
    := rfl
@[simp] theorem onSlot_strmSel (s : State) (r : Nat) (f : SlotState → SlotState) : (onSlot s r f).strmSel = s.strmSel
    := rfl
@[simp] theorem onSlot_vat (s : State) (r : Nat) (f : SlotState → SlotState) : (onSlot s r f).vat = s.vat := rfl
@[simp] theorem onSlot_cmd (s : State) (r : Nat) (f : SlotState → SlotState) : (onSlot s r f).cmd = s.cmd := rfl
@[simp] theorem onSlot_reams (s : State) (r : Nat) (f : SlotState → SlotState) : (onSlot s r f).reams = s.reams := rfl
@[simp] theorem onSlot_captSel (s : State) (r : Nat) (f : SlotState → SlotState) : (onSlot s r f).captSel = s.captSel
    := rfl
@[simp] theorem onSlot_gaps (s : State) (r : Nat) (f : SlotState → SlotState) : (onSlot s r f).gaps = s.gaps := rfl
@[simp] theorem onSlot_twin (s : State) (r : Nat) (f : SlotState → SlotState) : (onSlot s r f).twin = s.twin := rfl
@[simp] theorem onSlot_slots (s : State) (r : Nat) (f : SlotState → SlotState) :
    (onSlot s r f).slots = s.slots.modify r f := rfl
@[simp] theorem onSlot_engines (s : State) (r : Nat) (f : SlotState → SlotState) : (onSlot s r f).engines = s.engines
    := rfl
@[simp] theorem onSlot_edges (s : State) (r : Nat) (f : SlotState → SlotState) : (onSlot s r f).edges = s.edges := rfl
@[simp] theorem onSlot_sports (s : State) (r : Nat) (f : SlotState → SlotState) : (onSlot s r f).sports = s.sports :=
    rfl
@[simp] theorem onSlot_lites (s : State) (r : Nat) (f : SlotState → SlotState) : (onSlot s r f).lites = s.lites := rfl
@[simp] theorem onSlot_levels (s : State) (r : Nat) (f : SlotState → SlotState) : (onSlot s r f).levels = s.levels :=
    rfl
@[simp] theorem onSlot_strobes (s : State) (r : Nat) (f : SlotState → SlotState) : (onSlot s r f).strobes = s.strobes
    := rfl
@[simp] theorem onSlot_cal (s : State) (r : Nat) (f : SlotState → SlotState) : (onSlot s r f).cal = s.cal := rfl
@[simp] theorem onSlot_nv (s : State) (r : Nat) (f : SlotState → SlotState) : (onSlot s r f).nv = s.nv := rfl
@[simp] theorem onSlot_fuses (s : State) (r : Nat) (f : SlotState → SlotState) : (onSlot s r f).fuses = s.fuses := rfl
@[simp] theorem onSlot_changes (s : State) (r : Nat) (f : SlotState → SlotState) : (onSlot s r f).changes = s.changes
    := rfl
@[simp] theorem onSlot_safe (s : State) (r : Nat) (f : SlotState → SlotState) : (onSlot s r f).safe = s.safe := rfl
@[simp] theorem onSlot_badBands (s : State) (r : Nat) (f : SlotState → SlotState) : (onSlot s r f).badBands =
    s.badBands := rfl
@[simp] theorem onSlot_serial (s : State) (r : Nat) (f : SlotState → SlotState) : (onSlot s r f).serial = s.serial :=
    rfl
@[simp] theorem onSlot_partSB (s : State) (r : Nat) (f : SlotState → SlotState) : (onSlot s r f).partSB = s.partSB :=
    rfl
@[simp] theorem onSlot_freeCtr (s : State) (r : Nat) (f : SlotState → SlotState) : (onSlot s r f).freeCtr = s.freeCtr
    := rfl
@[simp] theorem onSlot_rd (s : State) (r : Nat) (f : SlotState → SlotState) (i : Nat) : rd (onSlot s r f) i = rd s i
    := rfl

@[simp] theorem onEng_pending (s : State) (k : Nat) (f : EngineState → EngineState) : (onEng s k f).pending =
    s.pending := rfl
@[simp] theorem onEng_regs (s : State) (k : Nat) (f : EngineState → EngineState) : (onEng s k f).regs = s.regs := rfl
@[simp] theorem onEng_shadow (s : State) (k : Nat) (f : EngineState → EngineState) : (onEng s k f).shadow = s.shadow
    := rfl
@[simp] theorem onEng_pages (s : State) (k : Nat) (f : EngineState → EngineState) : (onEng s k f).pages = s.pages :=
    rfl
@[simp] theorem onEng_pwr (s : State) (k : Nat) (f : EngineState → EngineState) : (onEng s k f).pwr = s.pwr := rfl
@[simp] theorem onEng_clk (s : State) (k : Nat) (f : EngineState → EngineState) : (onEng s k f).clk = s.clk := rfl
@[simp] theorem onEng_pins (s : State) (k : Nat) (f : EngineState → EngineState) : (onEng s k f).pins = s.pins := rfl
@[simp] theorem onEng_tap (s : State) (k : Nat) (f : EngineState → EngineState) : (onEng s k f).tap = s.tap := rfl
@[simp] theorem onEng_gc (s : State) (k : Nat) (f : EngineState → EngineState) : (onEng s k f).gc = s.gc := rfl
@[simp] theorem onEng_gen (s : State) (k : Nat) (f : EngineState → EngineState) : (onEng s k f).gen = s.gen := rfl
@[simp] theorem onEng_host (s : State) (k : Nat) (f : EngineState → EngineState) : (onEng s k f).host = s.host := rfl
@[simp] theorem onEng_inputs (s : State) (k : Nat) (f : EngineState → EngineState) : (onEng s k f).inputs = s.inputs
    := rfl
@[simp] theorem onEng_exc (s : State) (k : Nat) (f : EngineState → EngineState) : (onEng s k f).exc = s.exc := rfl
@[simp] theorem onEng_cores (s : State) (k : Nat) (f : EngineState → EngineState) : (onEng s k f).cores = s.cores :=
    rfl
@[simp] theorem onEng_bands (s : State) (k : Nat) (f : EngineState → EngineState) : (onEng s k f).bands = s.bands :=
    rfl
@[simp] theorem onEng_hkc (s : State) (k : Nat) (f : EngineState → EngineState) : (onEng s k f).hkc = s.hkc := rfl
@[simp] theorem onEng_queueEcc (s : State) (k : Nat) (f : EngineState → EngineState) : (onEng s k f).queueEcc =
    s.queueEcc := rfl
@[simp] theorem onEng_aout (s : State) (k : Nat) (f : EngineState → EngineState) : (onEng s k f).aout = s.aout := rfl
@[simp] theorem onEng_inCoefs (s : State) (k : Nat) (f : EngineState → EngineState) : (onEng s k f).inCoefs =
    s.inCoefs := rfl
@[simp] theorem onEng_chains (s : State) (k : Nat) (f : EngineState → EngineState) : (onEng s k f).chains = s.chains
    := rfl
@[simp] theorem onEng_flt (s : State) (k : Nat) (f : EngineState → EngineState) : (onEng s k f).flt = s.flt := rfl
@[simp] theorem onEng_time (s : State) (k : Nat) (f : EngineState → EngineState) : (onEng s k f).time = s.time := rfl
@[simp] theorem onEng_lanes (s : State) (k : Nat) (f : EngineState → EngineState) : (onEng s k f).lanes = s.lanes :=
    rfl
@[simp] theorem onEng_ring (s : State) (k : Nat) (f : EngineState → EngineState) : (onEng s k f).ring = s.ring := rfl
@[simp] theorem onEng_adm (s : State) (k : Nat) (f : EngineState → EngineState) : (onEng s k f).adm = s.adm := rfl
@[simp] theorem onEng_addrTable (s : State) (k : Nat) (f : EngineState → EngineState) : (onEng s k f).addrTable =
    s.addrTable := rfl
@[simp] theorem onEng_sent (s : State) (k : Nat) (f : EngineState → EngineState) : (onEng s k f).sent = s.sent := rfl
@[simp] theorem onEng_streams (s : State) (k : Nat) (f : EngineState → EngineState) : (onEng s k f).streams =
    s.streams := rfl
@[simp] theorem onEng_strmSel (s : State) (k : Nat) (f : EngineState → EngineState) : (onEng s k f).strmSel =
    s.strmSel := rfl
@[simp] theorem onEng_vat (s : State) (k : Nat) (f : EngineState → EngineState) : (onEng s k f).vat = s.vat := rfl
@[simp] theorem onEng_cmd (s : State) (k : Nat) (f : EngineState → EngineState) : (onEng s k f).cmd = s.cmd := rfl
@[simp] theorem onEng_reams (s : State) (k : Nat) (f : EngineState → EngineState) : (onEng s k f).reams = s.reams :=
    rfl
@[simp] theorem onEng_captSel (s : State) (k : Nat) (f : EngineState → EngineState) : (onEng s k f).captSel =
    s.captSel := rfl
@[simp] theorem onEng_gaps (s : State) (k : Nat) (f : EngineState → EngineState) : (onEng s k f).gaps = s.gaps := rfl
@[simp] theorem onEng_twin (s : State) (k : Nat) (f : EngineState → EngineState) : (onEng s k f).twin = s.twin := rfl
@[simp] theorem onEng_slots (s : State) (k : Nat) (f : EngineState → EngineState) : (onEng s k f).slots = s.slots :=
    rfl
@[simp] theorem onEng_engines (s : State) (k : Nat) (f : EngineState → EngineState) :
    (onEng s k f).engines = s.engines.modify k f := rfl
@[simp] theorem onEng_edges (s : State) (k : Nat) (f : EngineState → EngineState) : (onEng s k f).edges = s.edges :=
    rfl
@[simp] theorem onEng_sports (s : State) (k : Nat) (f : EngineState → EngineState) : (onEng s k f).sports = s.sports
    := rfl
@[simp] theorem onEng_lites (s : State) (k : Nat) (f : EngineState → EngineState) : (onEng s k f).lites = s.lites :=
    rfl
@[simp] theorem onEng_levels (s : State) (k : Nat) (f : EngineState → EngineState) : (onEng s k f).levels = s.levels
    := rfl
@[simp] theorem onEng_strobes (s : State) (k : Nat) (f : EngineState → EngineState) : (onEng s k f).strobes =
    s.strobes := rfl
@[simp] theorem onEng_cal (s : State) (k : Nat) (f : EngineState → EngineState) : (onEng s k f).cal = s.cal := rfl
@[simp] theorem onEng_nv (s : State) (k : Nat) (f : EngineState → EngineState) : (onEng s k f).nv = s.nv := rfl
@[simp] theorem onEng_fuses (s : State) (k : Nat) (f : EngineState → EngineState) : (onEng s k f).fuses = s.fuses :=
    rfl
@[simp] theorem onEng_changes (s : State) (k : Nat) (f : EngineState → EngineState) : (onEng s k f).changes =
    s.changes := rfl
@[simp] theorem onEng_safe (s : State) (k : Nat) (f : EngineState → EngineState) : (onEng s k f).safe = s.safe := rfl
@[simp] theorem onEng_badBands (s : State) (k : Nat) (f : EngineState → EngineState) : (onEng s k f).badBands =
    s.badBands := rfl
@[simp] theorem onEng_serial (s : State) (k : Nat) (f : EngineState → EngineState) : (onEng s k f).serial = s.serial
    := rfl
@[simp] theorem onEng_partSB (s : State) (k : Nat) (f : EngineState → EngineState) : (onEng s k f).partSB = s.partSB
    := rfl
@[simp] theorem onEng_freeCtr (s : State) (k : Nat) (f : EngineState → EngineState) : (onEng s k f).freeCtr =
    s.freeCtr := rfl
@[simp] theorem onEng_rd (s : State) (k : Nat) (f : EngineState → EngineState) (i : Nat) : rd (onEng s k f) i = rd s
    i := rfl

@[simp] theorem onGc_pending (s : State) (g : Nat) (f : Ball → Ball) : (onGc s g f).pending = s.pending := rfl
@[simp] theorem onGc_regs (s : State) (g : Nat) (f : Ball → Ball) : (onGc s g f).regs = s.regs := rfl
@[simp] theorem onGc_shadow (s : State) (g : Nat) (f : Ball → Ball) : (onGc s g f).shadow = s.shadow := rfl
@[simp] theorem onGc_pages (s : State) (g : Nat) (f : Ball → Ball) : (onGc s g f).pages = s.pages := rfl
@[simp] theorem onGc_pwr (s : State) (g : Nat) (f : Ball → Ball) : (onGc s g f).pwr = s.pwr := rfl
@[simp] theorem onGc_clk (s : State) (g : Nat) (f : Ball → Ball) : (onGc s g f).clk = s.clk := rfl
@[simp] theorem onGc_pins (s : State) (g : Nat) (f : Ball → Ball) : (onGc s g f).pins = s.pins := rfl
@[simp] theorem onGc_tap (s : State) (g : Nat) (f : Ball → Ball) : (onGc s g f).tap = s.tap := rfl
@[simp] theorem onGc_gc (s : State) (g : Nat) (f : Ball → Ball) :
    (onGc s g f).gc = s.gc.modify g f := rfl
@[simp] theorem onGc_gen (s : State) (g : Nat) (f : Ball → Ball) : (onGc s g f).gen = s.gen := rfl
@[simp] theorem onGc_host (s : State) (g : Nat) (f : Ball → Ball) : (onGc s g f).host = s.host := rfl
@[simp] theorem onGc_inputs (s : State) (g : Nat) (f : Ball → Ball) : (onGc s g f).inputs = s.inputs := rfl
@[simp] theorem onGc_exc (s : State) (g : Nat) (f : Ball → Ball) : (onGc s g f).exc = s.exc := rfl
@[simp] theorem onGc_cores (s : State) (g : Nat) (f : Ball → Ball) : (onGc s g f).cores = s.cores := rfl
@[simp] theorem onGc_bands (s : State) (g : Nat) (f : Ball → Ball) : (onGc s g f).bands = s.bands := rfl
@[simp] theorem onGc_hkc (s : State) (g : Nat) (f : Ball → Ball) : (onGc s g f).hkc = s.hkc := rfl
@[simp] theorem onGc_queueEcc (s : State) (g : Nat) (f : Ball → Ball) : (onGc s g f).queueEcc = s.queueEcc := rfl
@[simp] theorem onGc_aout (s : State) (g : Nat) (f : Ball → Ball) : (onGc s g f).aout = s.aout := rfl
@[simp] theorem onGc_inCoefs (s : State) (g : Nat) (f : Ball → Ball) : (onGc s g f).inCoefs = s.inCoefs := rfl
@[simp] theorem onGc_chains (s : State) (g : Nat) (f : Ball → Ball) : (onGc s g f).chains = s.chains := rfl
@[simp] theorem onGc_flt (s : State) (g : Nat) (f : Ball → Ball) : (onGc s g f).flt = s.flt := rfl
@[simp] theorem onGc_time (s : State) (g : Nat) (f : Ball → Ball) : (onGc s g f).time = s.time := rfl
@[simp] theorem onGc_lanes (s : State) (g : Nat) (f : Ball → Ball) : (onGc s g f).lanes = s.lanes := rfl
@[simp] theorem onGc_ring (s : State) (g : Nat) (f : Ball → Ball) : (onGc s g f).ring = s.ring := rfl
@[simp] theorem onGc_adm (s : State) (g : Nat) (f : Ball → Ball) : (onGc s g f).adm = s.adm := rfl
@[simp] theorem onGc_addrTable (s : State) (g : Nat) (f : Ball → Ball) : (onGc s g f).addrTable = s.addrTable := rfl
@[simp] theorem onGc_sent (s : State) (g : Nat) (f : Ball → Ball) : (onGc s g f).sent = s.sent := rfl
@[simp] theorem onGc_streams (s : State) (g : Nat) (f : Ball → Ball) : (onGc s g f).streams = s.streams := rfl
@[simp] theorem onGc_strmSel (s : State) (g : Nat) (f : Ball → Ball) : (onGc s g f).strmSel = s.strmSel := rfl
@[simp] theorem onGc_vat (s : State) (g : Nat) (f : Ball → Ball) : (onGc s g f).vat = s.vat := rfl
@[simp] theorem onGc_cmd (s : State) (g : Nat) (f : Ball → Ball) : (onGc s g f).cmd = s.cmd := rfl
@[simp] theorem onGc_reams (s : State) (g : Nat) (f : Ball → Ball) : (onGc s g f).reams = s.reams := rfl
@[simp] theorem onGc_captSel (s : State) (g : Nat) (f : Ball → Ball) : (onGc s g f).captSel = s.captSel := rfl
@[simp] theorem onGc_gaps (s : State) (g : Nat) (f : Ball → Ball) : (onGc s g f).gaps = s.gaps := rfl
@[simp] theorem onGc_twin (s : State) (g : Nat) (f : Ball → Ball) : (onGc s g f).twin = s.twin := rfl
@[simp] theorem onGc_slots (s : State) (g : Nat) (f : Ball → Ball) : (onGc s g f).slots = s.slots := rfl
@[simp] theorem onGc_engines (s : State) (g : Nat) (f : Ball → Ball) : (onGc s g f).engines = s.engines := rfl
@[simp] theorem onGc_edges (s : State) (g : Nat) (f : Ball → Ball) : (onGc s g f).edges = s.edges := rfl
@[simp] theorem onGc_sports (s : State) (g : Nat) (f : Ball → Ball) : (onGc s g f).sports = s.sports := rfl
@[simp] theorem onGc_lites (s : State) (g : Nat) (f : Ball → Ball) : (onGc s g f).lites = s.lites := rfl
@[simp] theorem onGc_levels (s : State) (g : Nat) (f : Ball → Ball) : (onGc s g f).levels = s.levels := rfl
@[simp] theorem onGc_strobes (s : State) (g : Nat) (f : Ball → Ball) : (onGc s g f).strobes = s.strobes := rfl
@[simp] theorem onGc_cal (s : State) (g : Nat) (f : Ball → Ball) : (onGc s g f).cal = s.cal := rfl
@[simp] theorem onGc_nv (s : State) (g : Nat) (f : Ball → Ball) : (onGc s g f).nv = s.nv := rfl
@[simp] theorem onGc_fuses (s : State) (g : Nat) (f : Ball → Ball) : (onGc s g f).fuses = s.fuses := rfl
@[simp] theorem onGc_changes (s : State) (g : Nat) (f : Ball → Ball) : (onGc s g f).changes = s.changes := rfl
@[simp] theorem onGc_safe (s : State) (g : Nat) (f : Ball → Ball) : (onGc s g f).safe = s.safe := rfl
@[simp] theorem onGc_badBands (s : State) (g : Nat) (f : Ball → Ball) : (onGc s g f).badBands = s.badBands := rfl
@[simp] theorem onGc_serial (s : State) (g : Nat) (f : Ball → Ball) : (onGc s g f).serial = s.serial := rfl
@[simp] theorem onGc_partSB (s : State) (g : Nat) (f : Ball → Ball) : (onGc s g f).partSB = s.partSB := rfl
@[simp] theorem onGc_freeCtr (s : State) (g : Nat) (f : Ball → Ball) : (onGc s g f).freeCtr = s.freeCtr := rfl
@[simp] theorem onGc_rd (s : State) (g : Nat) (f : Ball → Ball) (i : Nat) : rd (onGc s g f) i = rd s i := rfl

@[simp] theorem onGen_pending (s : State) (g : Nat) (f : Ball → Ball) : (onGen s g f).pending = s.pending := rfl
@[simp] theorem onGen_regs (s : State) (g : Nat) (f : Ball → Ball) : (onGen s g f).regs = s.regs := rfl
@[simp] theorem onGen_shadow (s : State) (g : Nat) (f : Ball → Ball) : (onGen s g f).shadow = s.shadow := rfl
@[simp] theorem onGen_pages (s : State) (g : Nat) (f : Ball → Ball) : (onGen s g f).pages = s.pages := rfl
@[simp] theorem onGen_pwr (s : State) (g : Nat) (f : Ball → Ball) : (onGen s g f).pwr = s.pwr := rfl
@[simp] theorem onGen_clk (s : State) (g : Nat) (f : Ball → Ball) : (onGen s g f).clk = s.clk := rfl
@[simp] theorem onGen_pins (s : State) (g : Nat) (f : Ball → Ball) : (onGen s g f).pins = s.pins := rfl
@[simp] theorem onGen_tap (s : State) (g : Nat) (f : Ball → Ball) : (onGen s g f).tap = s.tap := rfl
@[simp] theorem onGen_gc (s : State) (g : Nat) (f : Ball → Ball) : (onGen s g f).gc = s.gc := rfl
@[simp] theorem onGen_gen (s : State) (g : Nat) (f : Ball → Ball) :
    (onGen s g f).gen = s.gen.modify g f := rfl
@[simp] theorem onGen_host (s : State) (g : Nat) (f : Ball → Ball) : (onGen s g f).host = s.host := rfl
@[simp] theorem onGen_inputs (s : State) (g : Nat) (f : Ball → Ball) : (onGen s g f).inputs = s.inputs := rfl
@[simp] theorem onGen_exc (s : State) (g : Nat) (f : Ball → Ball) : (onGen s g f).exc = s.exc := rfl
@[simp] theorem onGen_cores (s : State) (g : Nat) (f : Ball → Ball) : (onGen s g f).cores = s.cores := rfl
@[simp] theorem onGen_bands (s : State) (g : Nat) (f : Ball → Ball) : (onGen s g f).bands = s.bands := rfl
@[simp] theorem onGen_hkc (s : State) (g : Nat) (f : Ball → Ball) : (onGen s g f).hkc = s.hkc := rfl
@[simp] theorem onGen_queueEcc (s : State) (g : Nat) (f : Ball → Ball) : (onGen s g f).queueEcc = s.queueEcc := rfl
@[simp] theorem onGen_aout (s : State) (g : Nat) (f : Ball → Ball) : (onGen s g f).aout = s.aout := rfl
@[simp] theorem onGen_inCoefs (s : State) (g : Nat) (f : Ball → Ball) : (onGen s g f).inCoefs = s.inCoefs := rfl
@[simp] theorem onGen_chains (s : State) (g : Nat) (f : Ball → Ball) : (onGen s g f).chains = s.chains := rfl
@[simp] theorem onGen_flt (s : State) (g : Nat) (f : Ball → Ball) : (onGen s g f).flt = s.flt := rfl
@[simp] theorem onGen_time (s : State) (g : Nat) (f : Ball → Ball) : (onGen s g f).time = s.time := rfl
@[simp] theorem onGen_lanes (s : State) (g : Nat) (f : Ball → Ball) : (onGen s g f).lanes = s.lanes := rfl
@[simp] theorem onGen_ring (s : State) (g : Nat) (f : Ball → Ball) : (onGen s g f).ring = s.ring := rfl
@[simp] theorem onGen_adm (s : State) (g : Nat) (f : Ball → Ball) : (onGen s g f).adm = s.adm := rfl
@[simp] theorem onGen_addrTable (s : State) (g : Nat) (f : Ball → Ball) : (onGen s g f).addrTable = s.addrTable := rfl
@[simp] theorem onGen_sent (s : State) (g : Nat) (f : Ball → Ball) : (onGen s g f).sent = s.sent := rfl
@[simp] theorem onGen_streams (s : State) (g : Nat) (f : Ball → Ball) : (onGen s g f).streams = s.streams := rfl
@[simp] theorem onGen_strmSel (s : State) (g : Nat) (f : Ball → Ball) : (onGen s g f).strmSel = s.strmSel := rfl
@[simp] theorem onGen_vat (s : State) (g : Nat) (f : Ball → Ball) : (onGen s g f).vat = s.vat := rfl
@[simp] theorem onGen_cmd (s : State) (g : Nat) (f : Ball → Ball) : (onGen s g f).cmd = s.cmd := rfl
@[simp] theorem onGen_reams (s : State) (g : Nat) (f : Ball → Ball) : (onGen s g f).reams = s.reams := rfl
@[simp] theorem onGen_captSel (s : State) (g : Nat) (f : Ball → Ball) : (onGen s g f).captSel = s.captSel := rfl
@[simp] theorem onGen_gaps (s : State) (g : Nat) (f : Ball → Ball) : (onGen s g f).gaps = s.gaps := rfl
@[simp] theorem onGen_twin (s : State) (g : Nat) (f : Ball → Ball) : (onGen s g f).twin = s.twin := rfl
@[simp] theorem onGen_slots (s : State) (g : Nat) (f : Ball → Ball) : (onGen s g f).slots = s.slots := rfl
@[simp] theorem onGen_engines (s : State) (g : Nat) (f : Ball → Ball) : (onGen s g f).engines = s.engines := rfl
@[simp] theorem onGen_edges (s : State) (g : Nat) (f : Ball → Ball) : (onGen s g f).edges = s.edges := rfl
@[simp] theorem onGen_sports (s : State) (g : Nat) (f : Ball → Ball) : (onGen s g f).sports = s.sports := rfl
@[simp] theorem onGen_lites (s : State) (g : Nat) (f : Ball → Ball) : (onGen s g f).lites = s.lites := rfl
@[simp] theorem onGen_levels (s : State) (g : Nat) (f : Ball → Ball) : (onGen s g f).levels = s.levels := rfl
@[simp] theorem onGen_strobes (s : State) (g : Nat) (f : Ball → Ball) : (onGen s g f).strobes = s.strobes := rfl
@[simp] theorem onGen_cal (s : State) (g : Nat) (f : Ball → Ball) : (onGen s g f).cal = s.cal := rfl
@[simp] theorem onGen_nv (s : State) (g : Nat) (f : Ball → Ball) : (onGen s g f).nv = s.nv := rfl
@[simp] theorem onGen_fuses (s : State) (g : Nat) (f : Ball → Ball) : (onGen s g f).fuses = s.fuses := rfl
@[simp] theorem onGen_changes (s : State) (g : Nat) (f : Ball → Ball) : (onGen s g f).changes = s.changes := rfl
@[simp] theorem onGen_safe (s : State) (g : Nat) (f : Ball → Ball) : (onGen s g f).safe = s.safe := rfl
@[simp] theorem onGen_badBands (s : State) (g : Nat) (f : Ball → Ball) : (onGen s g f).badBands = s.badBands := rfl
@[simp] theorem onGen_serial (s : State) (g : Nat) (f : Ball → Ball) : (onGen s g f).serial = s.serial := rfl
@[simp] theorem onGen_partSB (s : State) (g : Nat) (f : Ball → Ball) : (onGen s g f).partSB = s.partSB := rfl
@[simp] theorem onGen_freeCtr (s : State) (g : Nat) (f : Ball → Ball) : (onGen s g f).freeCtr = s.freeCtr := rfl
@[simp] theorem onGen_rd (s : State) (g : Nat) (f : Ball → Ball) (i : Nat) : rd (onGen s g f) i = rd s i := rfl

@[simp] theorem onLite_pending (s : State) (x : Nat) (f : LiteState → LiteState) : (onLite s x f).pending = s.pending
    := rfl
@[simp] theorem onLite_regs (s : State) (x : Nat) (f : LiteState → LiteState) : (onLite s x f).regs = s.regs := rfl
@[simp] theorem onLite_shadow (s : State) (x : Nat) (f : LiteState → LiteState) : (onLite s x f).shadow = s.shadow :=
    rfl
@[simp] theorem onLite_pages (s : State) (x : Nat) (f : LiteState → LiteState) : (onLite s x f).pages = s.pages := rfl
@[simp] theorem onLite_pwr (s : State) (x : Nat) (f : LiteState → LiteState) : (onLite s x f).pwr = s.pwr := rfl
@[simp] theorem onLite_clk (s : State) (x : Nat) (f : LiteState → LiteState) : (onLite s x f).clk = s.clk := rfl
@[simp] theorem onLite_pins (s : State) (x : Nat) (f : LiteState → LiteState) : (onLite s x f).pins = s.pins := rfl
@[simp] theorem onLite_tap (s : State) (x : Nat) (f : LiteState → LiteState) : (onLite s x f).tap = s.tap := rfl
@[simp] theorem onLite_gc (s : State) (x : Nat) (f : LiteState → LiteState) : (onLite s x f).gc = s.gc := rfl
@[simp] theorem onLite_gen (s : State) (x : Nat) (f : LiteState → LiteState) : (onLite s x f).gen = s.gen := rfl
@[simp] theorem onLite_host (s : State) (x : Nat) (f : LiteState → LiteState) : (onLite s x f).host = s.host := rfl
@[simp] theorem onLite_inputs (s : State) (x : Nat) (f : LiteState → LiteState) : (onLite s x f).inputs = s.inputs :=
    rfl
@[simp] theorem onLite_exc (s : State) (x : Nat) (f : LiteState → LiteState) : (onLite s x f).exc = s.exc := rfl
@[simp] theorem onLite_cores (s : State) (x : Nat) (f : LiteState → LiteState) : (onLite s x f).cores = s.cores := rfl
@[simp] theorem onLite_bands (s : State) (x : Nat) (f : LiteState → LiteState) : (onLite s x f).bands = s.bands := rfl
@[simp] theorem onLite_hkc (s : State) (x : Nat) (f : LiteState → LiteState) : (onLite s x f).hkc = s.hkc := rfl
@[simp] theorem onLite_queueEcc (s : State) (x : Nat) (f : LiteState → LiteState) : (onLite s x f).queueEcc =
    s.queueEcc := rfl
@[simp] theorem onLite_aout (s : State) (x : Nat) (f : LiteState → LiteState) : (onLite s x f).aout = s.aout := rfl
@[simp] theorem onLite_inCoefs (s : State) (x : Nat) (f : LiteState → LiteState) : (onLite s x f).inCoefs = s.inCoefs
    := rfl
@[simp] theorem onLite_chains (s : State) (x : Nat) (f : LiteState → LiteState) : (onLite s x f).chains = s.chains :=
    rfl
@[simp] theorem onLite_flt (s : State) (x : Nat) (f : LiteState → LiteState) : (onLite s x f).flt = s.flt := rfl
@[simp] theorem onLite_time (s : State) (x : Nat) (f : LiteState → LiteState) : (onLite s x f).time = s.time := rfl
@[simp] theorem onLite_lanes (s : State) (x : Nat) (f : LiteState → LiteState) : (onLite s x f).lanes = s.lanes := rfl
@[simp] theorem onLite_ring (s : State) (x : Nat) (f : LiteState → LiteState) : (onLite s x f).ring = s.ring := rfl
@[simp] theorem onLite_adm (s : State) (x : Nat) (f : LiteState → LiteState) : (onLite s x f).adm = s.adm := rfl
@[simp] theorem onLite_addrTable (s : State) (x : Nat) (f : LiteState → LiteState) : (onLite s x f).addrTable =
    s.addrTable := rfl
@[simp] theorem onLite_sent (s : State) (x : Nat) (f : LiteState → LiteState) : (onLite s x f).sent = s.sent := rfl
@[simp] theorem onLite_streams (s : State) (x : Nat) (f : LiteState → LiteState) : (onLite s x f).streams = s.streams
    := rfl
@[simp] theorem onLite_strmSel (s : State) (x : Nat) (f : LiteState → LiteState) : (onLite s x f).strmSel = s.strmSel
    := rfl
@[simp] theorem onLite_vat (s : State) (x : Nat) (f : LiteState → LiteState) : (onLite s x f).vat = s.vat := rfl
@[simp] theorem onLite_cmd (s : State) (x : Nat) (f : LiteState → LiteState) : (onLite s x f).cmd = s.cmd := rfl
@[simp] theorem onLite_reams (s : State) (x : Nat) (f : LiteState → LiteState) : (onLite s x f).reams = s.reams := rfl
@[simp] theorem onLite_captSel (s : State) (x : Nat) (f : LiteState → LiteState) : (onLite s x f).captSel = s.captSel
    := rfl
@[simp] theorem onLite_gaps (s : State) (x : Nat) (f : LiteState → LiteState) : (onLite s x f).gaps = s.gaps := rfl
@[simp] theorem onLite_twin (s : State) (x : Nat) (f : LiteState → LiteState) : (onLite s x f).twin = s.twin := rfl
@[simp] theorem onLite_slots (s : State) (x : Nat) (f : LiteState → LiteState) : (onLite s x f).slots = s.slots := rfl
@[simp] theorem onLite_engines (s : State) (x : Nat) (f : LiteState → LiteState) : (onLite s x f).engines = s.engines
    := rfl
@[simp] theorem onLite_edges (s : State) (x : Nat) (f : LiteState → LiteState) : (onLite s x f).edges = s.edges := rfl
@[simp] theorem onLite_sports (s : State) (x : Nat) (f : LiteState → LiteState) : (onLite s x f).sports = s.sports :=
    rfl
@[simp] theorem onLite_lites (s : State) (x : Nat) (f : LiteState → LiteState) :
    (onLite s x f).lites = s.lites.modify x f := rfl
@[simp] theorem onLite_levels (s : State) (x : Nat) (f : LiteState → LiteState) : (onLite s x f).levels = s.levels :=
    rfl
@[simp] theorem onLite_strobes (s : State) (x : Nat) (f : LiteState → LiteState) : (onLite s x f).strobes = s.strobes
    := rfl
@[simp] theorem onLite_cal (s : State) (x : Nat) (f : LiteState → LiteState) : (onLite s x f).cal = s.cal := rfl
@[simp] theorem onLite_nv (s : State) (x : Nat) (f : LiteState → LiteState) : (onLite s x f).nv = s.nv := rfl
@[simp] theorem onLite_fuses (s : State) (x : Nat) (f : LiteState → LiteState) : (onLite s x f).fuses = s.fuses := rfl
@[simp] theorem onLite_changes (s : State) (x : Nat) (f : LiteState → LiteState) : (onLite s x f).changes = s.changes
    := rfl
@[simp] theorem onLite_safe (s : State) (x : Nat) (f : LiteState → LiteState) : (onLite s x f).safe = s.safe := rfl
@[simp] theorem onLite_badBands (s : State) (x : Nat) (f : LiteState → LiteState) : (onLite s x f).badBands =
    s.badBands := rfl
@[simp] theorem onLite_serial (s : State) (x : Nat) (f : LiteState → LiteState) : (onLite s x f).serial = s.serial :=
    rfl
@[simp] theorem onLite_partSB (s : State) (x : Nat) (f : LiteState → LiteState) : (onLite s x f).partSB = s.partSB :=
    rfl
@[simp] theorem onLite_freeCtr (s : State) (x : Nat) (f : LiteState → LiteState) : (onLite s x f).freeCtr = s.freeCtr
    := rfl
@[simp] theorem onLite_rd (s : State) (x : Nat) (f : LiteState → LiteState) (i : Nat) : rd (onLite s x f) i = rd s i
    := rfl

@[simp] theorem onStrobe_pending (s : State) (x : Nat) (f : StrobeState → StrobeState) : (onStrobe s x f).pending =
    s.pending := rfl
@[simp] theorem onStrobe_regs (s : State) (x : Nat) (f : StrobeState → StrobeState) : (onStrobe s x f).regs = s.regs
    := rfl
@[simp] theorem onStrobe_shadow (s : State) (x : Nat) (f : StrobeState → StrobeState) : (onStrobe s x f).shadow =
    s.shadow := rfl
@[simp] theorem onStrobe_pages (s : State) (x : Nat) (f : StrobeState → StrobeState) : (onStrobe s x f).pages =
    s.pages := rfl
@[simp] theorem onStrobe_pwr (s : State) (x : Nat) (f : StrobeState → StrobeState) : (onStrobe s x f).pwr = s.pwr :=
    rfl
@[simp] theorem onStrobe_clk (s : State) (x : Nat) (f : StrobeState → StrobeState) : (onStrobe s x f).clk = s.clk :=
    rfl
@[simp] theorem onStrobe_pins (s : State) (x : Nat) (f : StrobeState → StrobeState) : (onStrobe s x f).pins = s.pins
    := rfl
@[simp] theorem onStrobe_tap (s : State) (x : Nat) (f : StrobeState → StrobeState) : (onStrobe s x f).tap = s.tap :=
    rfl
@[simp] theorem onStrobe_gc (s : State) (x : Nat) (f : StrobeState → StrobeState) : (onStrobe s x f).gc = s.gc := rfl
@[simp] theorem onStrobe_gen (s : State) (x : Nat) (f : StrobeState → StrobeState) : (onStrobe s x f).gen = s.gen :=
    rfl
@[simp] theorem onStrobe_host (s : State) (x : Nat) (f : StrobeState → StrobeState) : (onStrobe s x f).host = s.host
    := rfl
@[simp] theorem onStrobe_inputs (s : State) (x : Nat) (f : StrobeState → StrobeState) : (onStrobe s x f).inputs =
    s.inputs := rfl
@[simp] theorem onStrobe_exc (s : State) (x : Nat) (f : StrobeState → StrobeState) : (onStrobe s x f).exc = s.exc :=
    rfl
@[simp] theorem onStrobe_cores (s : State) (x : Nat) (f : StrobeState → StrobeState) : (onStrobe s x f).cores =
    s.cores := rfl
@[simp] theorem onStrobe_bands (s : State) (x : Nat) (f : StrobeState → StrobeState) : (onStrobe s x f).bands =
    s.bands := rfl
@[simp] theorem onStrobe_hkc (s : State) (x : Nat) (f : StrobeState → StrobeState) : (onStrobe s x f).hkc = s.hkc :=
    rfl
@[simp] theorem onStrobe_queueEcc (s : State) (x : Nat) (f : StrobeState → StrobeState) : (onStrobe s x f).queueEcc =
    s.queueEcc := rfl
@[simp] theorem onStrobe_aout (s : State) (x : Nat) (f : StrobeState → StrobeState) : (onStrobe s x f).aout = s.aout
    := rfl
@[simp] theorem onStrobe_inCoefs (s : State) (x : Nat) (f : StrobeState → StrobeState) : (onStrobe s x f).inCoefs =
    s.inCoefs := rfl
@[simp] theorem onStrobe_chains (s : State) (x : Nat) (f : StrobeState → StrobeState) : (onStrobe s x f).chains =
    s.chains := rfl
@[simp] theorem onStrobe_flt (s : State) (x : Nat) (f : StrobeState → StrobeState) : (onStrobe s x f).flt = s.flt :=
    rfl
@[simp] theorem onStrobe_time (s : State) (x : Nat) (f : StrobeState → StrobeState) : (onStrobe s x f).time = s.time
    := rfl
@[simp] theorem onStrobe_lanes (s : State) (x : Nat) (f : StrobeState → StrobeState) : (onStrobe s x f).lanes =
    s.lanes := rfl
@[simp] theorem onStrobe_ring (s : State) (x : Nat) (f : StrobeState → StrobeState) : (onStrobe s x f).ring = s.ring
    := rfl
@[simp] theorem onStrobe_adm (s : State) (x : Nat) (f : StrobeState → StrobeState) : (onStrobe s x f).adm = s.adm :=
    rfl
@[simp] theorem onStrobe_addrTable (s : State) (x : Nat) (f : StrobeState → StrobeState) : (onStrobe s x f).addrTable
    = s.addrTable := rfl
@[simp] theorem onStrobe_sent (s : State) (x : Nat) (f : StrobeState → StrobeState) : (onStrobe s x f).sent = s.sent
    := rfl
@[simp] theorem onStrobe_streams (s : State) (x : Nat) (f : StrobeState → StrobeState) : (onStrobe s x f).streams =
    s.streams := rfl
@[simp] theorem onStrobe_strmSel (s : State) (x : Nat) (f : StrobeState → StrobeState) : (onStrobe s x f).strmSel =
    s.strmSel := rfl
@[simp] theorem onStrobe_vat (s : State) (x : Nat) (f : StrobeState → StrobeState) : (onStrobe s x f).vat = s.vat :=
    rfl
@[simp] theorem onStrobe_cmd (s : State) (x : Nat) (f : StrobeState → StrobeState) : (onStrobe s x f).cmd = s.cmd :=
    rfl
@[simp] theorem onStrobe_reams (s : State) (x : Nat) (f : StrobeState → StrobeState) : (onStrobe s x f).reams =
    s.reams := rfl
@[simp] theorem onStrobe_captSel (s : State) (x : Nat) (f : StrobeState → StrobeState) : (onStrobe s x f).captSel =
    s.captSel := rfl
@[simp] theorem onStrobe_gaps (s : State) (x : Nat) (f : StrobeState → StrobeState) : (onStrobe s x f).gaps = s.gaps
    := rfl
@[simp] theorem onStrobe_twin (s : State) (x : Nat) (f : StrobeState → StrobeState) : (onStrobe s x f).twin = s.twin
    := rfl
@[simp] theorem onStrobe_slots (s : State) (x : Nat) (f : StrobeState → StrobeState) : (onStrobe s x f).slots =
    s.slots := rfl
@[simp] theorem onStrobe_engines (s : State) (x : Nat) (f : StrobeState → StrobeState) : (onStrobe s x f).engines =
    s.engines := rfl
@[simp] theorem onStrobe_edges (s : State) (x : Nat) (f : StrobeState → StrobeState) : (onStrobe s x f).edges =
    s.edges := rfl
@[simp] theorem onStrobe_sports (s : State) (x : Nat) (f : StrobeState → StrobeState) : (onStrobe s x f).sports =
    s.sports := rfl
@[simp] theorem onStrobe_lites (s : State) (x : Nat) (f : StrobeState → StrobeState) : (onStrobe s x f).lites =
    s.lites := rfl
@[simp] theorem onStrobe_levels (s : State) (x : Nat) (f : StrobeState → StrobeState) : (onStrobe s x f).levels =
    s.levels := rfl
@[simp] theorem onStrobe_strobes (s : State) (x : Nat) (f : StrobeState → StrobeState) :
    (onStrobe s x f).strobes = s.strobes.modify x f := rfl
@[simp] theorem onStrobe_cal (s : State) (x : Nat) (f : StrobeState → StrobeState) : (onStrobe s x f).cal = s.cal :=
    rfl
@[simp] theorem onStrobe_nv (s : State) (x : Nat) (f : StrobeState → StrobeState) : (onStrobe s x f).nv = s.nv := rfl
@[simp] theorem onStrobe_fuses (s : State) (x : Nat) (f : StrobeState → StrobeState) : (onStrobe s x f).fuses =
    s.fuses := rfl
@[simp] theorem onStrobe_changes (s : State) (x : Nat) (f : StrobeState → StrobeState) : (onStrobe s x f).changes =
    s.changes := rfl
@[simp] theorem onStrobe_safe (s : State) (x : Nat) (f : StrobeState → StrobeState) : (onStrobe s x f).safe = s.safe
    := rfl
@[simp] theorem onStrobe_badBands (s : State) (x : Nat) (f : StrobeState → StrobeState) : (onStrobe s x f).badBands =
    s.badBands := rfl
@[simp] theorem onStrobe_serial (s : State) (x : Nat) (f : StrobeState → StrobeState) : (onStrobe s x f).serial =
    s.serial := rfl
@[simp] theorem onStrobe_partSB (s : State) (x : Nat) (f : StrobeState → StrobeState) : (onStrobe s x f).partSB =
    s.partSB := rfl
@[simp] theorem onStrobe_freeCtr (s : State) (x : Nat) (f : StrobeState → StrobeState) : (onStrobe s x f).freeCtr =
    s.freeCtr := rfl
@[simp] theorem onStrobe_rd (s : State) (x : Nat) (f : StrobeState → StrobeState) (i : Nat) : rd (onStrobe s x f) i =
    rd s i := rfl

@[simp] theorem onStrm_pending (s : State) (i : Nat) (f : StreamState → StreamState) : (onStrm s i f).pending =
    s.pending := rfl
@[simp] theorem onStrm_regs (s : State) (i : Nat) (f : StreamState → StreamState) : (onStrm s i f).regs = s.regs :=
    rfl
@[simp] theorem onStrm_shadow (s : State) (i : Nat) (f : StreamState → StreamState) : (onStrm s i f).shadow =
    s.shadow := rfl
@[simp] theorem onStrm_pages (s : State) (i : Nat) (f : StreamState → StreamState) : (onStrm s i f).pages = s.pages
    := rfl
@[simp] theorem onStrm_pwr (s : State) (i : Nat) (f : StreamState → StreamState) : (onStrm s i f).pwr = s.pwr := rfl
@[simp] theorem onStrm_clk (s : State) (i : Nat) (f : StreamState → StreamState) : (onStrm s i f).clk = s.clk := rfl
@[simp] theorem onStrm_pins (s : State) (i : Nat) (f : StreamState → StreamState) : (onStrm s i f).pins = s.pins :=
    rfl
@[simp] theorem onStrm_tap (s : State) (i : Nat) (f : StreamState → StreamState) : (onStrm s i f).tap = s.tap := rfl
@[simp] theorem onStrm_gc (s : State) (i : Nat) (f : StreamState → StreamState) : (onStrm s i f).gc = s.gc := rfl
@[simp] theorem onStrm_gen (s : State) (i : Nat) (f : StreamState → StreamState) : (onStrm s i f).gen = s.gen := rfl
@[simp] theorem onStrm_host (s : State) (i : Nat) (f : StreamState → StreamState) : (onStrm s i f).host = s.host :=
    rfl
@[simp] theorem onStrm_inputs (s : State) (i : Nat) (f : StreamState → StreamState) : (onStrm s i f).inputs =
    s.inputs := rfl
@[simp] theorem onStrm_exc (s : State) (i : Nat) (f : StreamState → StreamState) : (onStrm s i f).exc = s.exc := rfl
@[simp] theorem onStrm_cores (s : State) (i : Nat) (f : StreamState → StreamState) : (onStrm s i f).cores = s.cores
    := rfl
@[simp] theorem onStrm_bands (s : State) (i : Nat) (f : StreamState → StreamState) : (onStrm s i f).bands = s.bands
    := rfl
@[simp] theorem onStrm_hkc (s : State) (i : Nat) (f : StreamState → StreamState) : (onStrm s i f).hkc = s.hkc := rfl
@[simp] theorem onStrm_queueEcc (s : State) (i : Nat) (f : StreamState → StreamState) : (onStrm s i f).queueEcc =
    s.queueEcc := rfl
@[simp] theorem onStrm_aout (s : State) (i : Nat) (f : StreamState → StreamState) : (onStrm s i f).aout = s.aout :=
    rfl
@[simp] theorem onStrm_inCoefs (s : State) (i : Nat) (f : StreamState → StreamState) : (onStrm s i f).inCoefs =
    s.inCoefs := rfl
@[simp] theorem onStrm_chains (s : State) (i : Nat) (f : StreamState → StreamState) : (onStrm s i f).chains =
    s.chains := rfl
@[simp] theorem onStrm_flt (s : State) (i : Nat) (f : StreamState → StreamState) : (onStrm s i f).flt = s.flt := rfl
@[simp] theorem onStrm_time (s : State) (i : Nat) (f : StreamState → StreamState) : (onStrm s i f).time = s.time :=
    rfl
@[simp] theorem onStrm_lanes (s : State) (i : Nat) (f : StreamState → StreamState) : (onStrm s i f).lanes = s.lanes
    := rfl
@[simp] theorem onStrm_ring (s : State) (i : Nat) (f : StreamState → StreamState) : (onStrm s i f).ring = s.ring :=
    rfl
@[simp] theorem onStrm_adm (s : State) (i : Nat) (f : StreamState → StreamState) : (onStrm s i f).adm = s.adm := rfl
@[simp] theorem onStrm_addrTable (s : State) (i : Nat) (f : StreamState → StreamState) : (onStrm s i f).addrTable =
    s.addrTable := rfl
@[simp] theorem onStrm_sent (s : State) (i : Nat) (f : StreamState → StreamState) : (onStrm s i f).sent = s.sent :=
    rfl
@[simp] theorem onStrm_streams (s : State) (i : Nat) (f : StreamState → StreamState) :
    (onStrm s i f).streams = s.streams.modify i f := rfl
@[simp] theorem onStrm_strmSel (s : State) (i : Nat) (f : StreamState → StreamState) : (onStrm s i f).strmSel =
    s.strmSel := rfl
@[simp] theorem onStrm_vat (s : State) (i : Nat) (f : StreamState → StreamState) : (onStrm s i f).vat = s.vat := rfl
@[simp] theorem onStrm_cmd (s : State) (i : Nat) (f : StreamState → StreamState) : (onStrm s i f).cmd = s.cmd := rfl
@[simp] theorem onStrm_reams (s : State) (i : Nat) (f : StreamState → StreamState) : (onStrm s i f).reams = s.reams
    := rfl
@[simp] theorem onStrm_captSel (s : State) (i : Nat) (f : StreamState → StreamState) : (onStrm s i f).captSel =
    s.captSel := rfl
@[simp] theorem onStrm_gaps (s : State) (i : Nat) (f : StreamState → StreamState) : (onStrm s i f).gaps = s.gaps :=
    rfl
@[simp] theorem onStrm_twin (s : State) (i : Nat) (f : StreamState → StreamState) : (onStrm s i f).twin = s.twin :=
    rfl
@[simp] theorem onStrm_slots (s : State) (i : Nat) (f : StreamState → StreamState) : (onStrm s i f).slots = s.slots
    := rfl
@[simp] theorem onStrm_engines (s : State) (i : Nat) (f : StreamState → StreamState) : (onStrm s i f).engines =
    s.engines := rfl
@[simp] theorem onStrm_edges (s : State) (i : Nat) (f : StreamState → StreamState) : (onStrm s i f).edges = s.edges
    := rfl
@[simp] theorem onStrm_sports (s : State) (i : Nat) (f : StreamState → StreamState) : (onStrm s i f).sports =
    s.sports := rfl
@[simp] theorem onStrm_lites (s : State) (i : Nat) (f : StreamState → StreamState) : (onStrm s i f).lites = s.lites
    := rfl
@[simp] theorem onStrm_levels (s : State) (i : Nat) (f : StreamState → StreamState) : (onStrm s i f).levels =
    s.levels := rfl
@[simp] theorem onStrm_strobes (s : State) (i : Nat) (f : StreamState → StreamState) : (onStrm s i f).strobes =
    s.strobes := rfl
@[simp] theorem onStrm_cal (s : State) (i : Nat) (f : StreamState → StreamState) : (onStrm s i f).cal = s.cal := rfl
@[simp] theorem onStrm_nv (s : State) (i : Nat) (f : StreamState → StreamState) : (onStrm s i f).nv = s.nv := rfl
@[simp] theorem onStrm_fuses (s : State) (i : Nat) (f : StreamState → StreamState) : (onStrm s i f).fuses = s.fuses
    := rfl
@[simp] theorem onStrm_changes (s : State) (i : Nat) (f : StreamState → StreamState) : (onStrm s i f).changes =
    s.changes := rfl
@[simp] theorem onStrm_safe (s : State) (i : Nat) (f : StreamState → StreamState) : (onStrm s i f).safe = s.safe :=
    rfl
@[simp] theorem onStrm_badBands (s : State) (i : Nat) (f : StreamState → StreamState) : (onStrm s i f).badBands =
    s.badBands := rfl
@[simp] theorem onStrm_serial (s : State) (i : Nat) (f : StreamState → StreamState) : (onStrm s i f).serial =
    s.serial := rfl
@[simp] theorem onStrm_partSB (s : State) (i : Nat) (f : StreamState → StreamState) : (onStrm s i f).partSB =
    s.partSB := rfl
@[simp] theorem onStrm_freeCtr (s : State) (i : Nat) (f : StreamState → StreamState) : (onStrm s i f).freeCtr =
    s.freeCtr := rfl
@[simp] theorem onStrm_rd (s : State) (i : Nat) (f : StreamState → StreamState) (j : Nat) : rd (onStrm s i f) j = rd
    s j := rfl

@[simp] theorem onReam_pending (s : State) (r : Nat) (f : ReamState → ReamState) : (onReam s r f).pending = s.pending
    := rfl
@[simp] theorem onReam_regs (s : State) (r : Nat) (f : ReamState → ReamState) : (onReam s r f).regs = s.regs := rfl
@[simp] theorem onReam_shadow (s : State) (r : Nat) (f : ReamState → ReamState) : (onReam s r f).shadow = s.shadow :=
    rfl
@[simp] theorem onReam_pages (s : State) (r : Nat) (f : ReamState → ReamState) : (onReam s r f).pages = s.pages := rfl
@[simp] theorem onReam_pwr (s : State) (r : Nat) (f : ReamState → ReamState) : (onReam s r f).pwr = s.pwr := rfl
@[simp] theorem onReam_clk (s : State) (r : Nat) (f : ReamState → ReamState) : (onReam s r f).clk = s.clk := rfl
@[simp] theorem onReam_pins (s : State) (r : Nat) (f : ReamState → ReamState) : (onReam s r f).pins = s.pins := rfl
@[simp] theorem onReam_tap (s : State) (r : Nat) (f : ReamState → ReamState) : (onReam s r f).tap = s.tap := rfl
@[simp] theorem onReam_gc (s : State) (r : Nat) (f : ReamState → ReamState) : (onReam s r f).gc = s.gc := rfl
@[simp] theorem onReam_gen (s : State) (r : Nat) (f : ReamState → ReamState) : (onReam s r f).gen = s.gen := rfl
@[simp] theorem onReam_host (s : State) (r : Nat) (f : ReamState → ReamState) : (onReam s r f).host = s.host := rfl
@[simp] theorem onReam_inputs (s : State) (r : Nat) (f : ReamState → ReamState) : (onReam s r f).inputs = s.inputs :=
    rfl
@[simp] theorem onReam_exc (s : State) (r : Nat) (f : ReamState → ReamState) : (onReam s r f).exc = s.exc := rfl
@[simp] theorem onReam_cores (s : State) (r : Nat) (f : ReamState → ReamState) : (onReam s r f).cores = s.cores := rfl
@[simp] theorem onReam_bands (s : State) (r : Nat) (f : ReamState → ReamState) : (onReam s r f).bands = s.bands := rfl
@[simp] theorem onReam_hkc (s : State) (r : Nat) (f : ReamState → ReamState) : (onReam s r f).hkc = s.hkc := rfl
@[simp] theorem onReam_queueEcc (s : State) (r : Nat) (f : ReamState → ReamState) : (onReam s r f).queueEcc =
    s.queueEcc := rfl
@[simp] theorem onReam_aout (s : State) (r : Nat) (f : ReamState → ReamState) : (onReam s r f).aout = s.aout := rfl
@[simp] theorem onReam_inCoefs (s : State) (r : Nat) (f : ReamState → ReamState) : (onReam s r f).inCoefs = s.inCoefs
    := rfl
@[simp] theorem onReam_chains (s : State) (r : Nat) (f : ReamState → ReamState) : (onReam s r f).chains = s.chains :=
    rfl
@[simp] theorem onReam_flt (s : State) (r : Nat) (f : ReamState → ReamState) : (onReam s r f).flt = s.flt := rfl
@[simp] theorem onReam_time (s : State) (r : Nat) (f : ReamState → ReamState) : (onReam s r f).time = s.time := rfl
@[simp] theorem onReam_lanes (s : State) (r : Nat) (f : ReamState → ReamState) : (onReam s r f).lanes = s.lanes := rfl
@[simp] theorem onReam_ring (s : State) (r : Nat) (f : ReamState → ReamState) : (onReam s r f).ring = s.ring := rfl
@[simp] theorem onReam_adm (s : State) (r : Nat) (f : ReamState → ReamState) : (onReam s r f).adm = s.adm := rfl
@[simp] theorem onReam_addrTable (s : State) (r : Nat) (f : ReamState → ReamState) : (onReam s r f).addrTable =
    s.addrTable := rfl
@[simp] theorem onReam_sent (s : State) (r : Nat) (f : ReamState → ReamState) : (onReam s r f).sent = s.sent := rfl
@[simp] theorem onReam_streams (s : State) (r : Nat) (f : ReamState → ReamState) : (onReam s r f).streams = s.streams
    := rfl
@[simp] theorem onReam_strmSel (s : State) (r : Nat) (f : ReamState → ReamState) : (onReam s r f).strmSel = s.strmSel
    := rfl
@[simp] theorem onReam_vat (s : State) (r : Nat) (f : ReamState → ReamState) : (onReam s r f).vat = s.vat := rfl
@[simp] theorem onReam_cmd (s : State) (r : Nat) (f : ReamState → ReamState) : (onReam s r f).cmd = s.cmd := rfl
@[simp] theorem onReam_reams (s : State) (r : Nat) (f : ReamState → ReamState) :
    (onReam s r f).reams = s.reams.modify r f := rfl
@[simp] theorem onReam_captSel (s : State) (r : Nat) (f : ReamState → ReamState) : (onReam s r f).captSel = s.captSel
    := rfl
@[simp] theorem onReam_gaps (s : State) (r : Nat) (f : ReamState → ReamState) : (onReam s r f).gaps = s.gaps := rfl
@[simp] theorem onReam_twin (s : State) (r : Nat) (f : ReamState → ReamState) : (onReam s r f).twin = s.twin := rfl
@[simp] theorem onReam_slots (s : State) (r : Nat) (f : ReamState → ReamState) : (onReam s r f).slots = s.slots := rfl
@[simp] theorem onReam_engines (s : State) (r : Nat) (f : ReamState → ReamState) : (onReam s r f).engines = s.engines
    := rfl
@[simp] theorem onReam_edges (s : State) (r : Nat) (f : ReamState → ReamState) : (onReam s r f).edges = s.edges := rfl
@[simp] theorem onReam_sports (s : State) (r : Nat) (f : ReamState → ReamState) : (onReam s r f).sports = s.sports :=
    rfl
@[simp] theorem onReam_lites (s : State) (r : Nat) (f : ReamState → ReamState) : (onReam s r f).lites = s.lites := rfl
@[simp] theorem onReam_levels (s : State) (r : Nat) (f : ReamState → ReamState) : (onReam s r f).levels = s.levels :=
    rfl
@[simp] theorem onReam_strobes (s : State) (r : Nat) (f : ReamState → ReamState) : (onReam s r f).strobes = s.strobes
    := rfl
@[simp] theorem onReam_cal (s : State) (r : Nat) (f : ReamState → ReamState) : (onReam s r f).cal = s.cal := rfl
@[simp] theorem onReam_nv (s : State) (r : Nat) (f : ReamState → ReamState) : (onReam s r f).nv = s.nv := rfl
@[simp] theorem onReam_fuses (s : State) (r : Nat) (f : ReamState → ReamState) : (onReam s r f).fuses = s.fuses := rfl
@[simp] theorem onReam_changes (s : State) (r : Nat) (f : ReamState → ReamState) : (onReam s r f).changes = s.changes
    := rfl
@[simp] theorem onReam_safe (s : State) (r : Nat) (f : ReamState → ReamState) : (onReam s r f).safe = s.safe := rfl
@[simp] theorem onReam_badBands (s : State) (r : Nat) (f : ReamState → ReamState) : (onReam s r f).badBands =
    s.badBands := rfl
@[simp] theorem onReam_serial (s : State) (r : Nat) (f : ReamState → ReamState) : (onReam s r f).serial = s.serial :=
    rfl
@[simp] theorem onReam_partSB (s : State) (r : Nat) (f : ReamState → ReamState) : (onReam s r f).partSB = s.partSB :=
    rfl
@[simp] theorem onReam_freeCtr (s : State) (r : Nat) (f : ReamState → ReamState) : (onReam s r f).freeCtr = s.freeCtr
    := rfl
@[simp] theorem onReam_rd (s : State) (r : Nat) (f : ReamState → ReamState) (i : Nat) : rd (onReam s r f) i = rd s i
    := rfl

@[simp] theorem onTime_pending (s : State) (f : TimeState → TimeState) : (onTime s f).pending = s.pending := rfl
@[simp] theorem onTime_regs (s : State) (f : TimeState → TimeState) : (onTime s f).regs = s.regs := rfl
@[simp] theorem onTime_shadow (s : State) (f : TimeState → TimeState) : (onTime s f).shadow = s.shadow := rfl
@[simp] theorem onTime_pages (s : State) (f : TimeState → TimeState) : (onTime s f).pages = s.pages := rfl
@[simp] theorem onTime_pwr (s : State) (f : TimeState → TimeState) : (onTime s f).pwr = s.pwr := rfl
@[simp] theorem onTime_clk (s : State) (f : TimeState → TimeState) : (onTime s f).clk = s.clk := rfl
@[simp] theorem onTime_pins (s : State) (f : TimeState → TimeState) : (onTime s f).pins = s.pins := rfl
@[simp] theorem onTime_tap (s : State) (f : TimeState → TimeState) : (onTime s f).tap = s.tap := rfl
@[simp] theorem onTime_gc (s : State) (f : TimeState → TimeState) : (onTime s f).gc = s.gc := rfl
@[simp] theorem onTime_gen (s : State) (f : TimeState → TimeState) : (onTime s f).gen = s.gen := rfl
@[simp] theorem onTime_host (s : State) (f : TimeState → TimeState) : (onTime s f).host = s.host := rfl
@[simp] theorem onTime_inputs (s : State) (f : TimeState → TimeState) : (onTime s f).inputs = s.inputs := rfl
@[simp] theorem onTime_exc (s : State) (f : TimeState → TimeState) : (onTime s f).exc = s.exc := rfl
@[simp] theorem onTime_cores (s : State) (f : TimeState → TimeState) : (onTime s f).cores = s.cores := rfl
@[simp] theorem onTime_bands (s : State) (f : TimeState → TimeState) : (onTime s f).bands = s.bands := rfl
@[simp] theorem onTime_hkc (s : State) (f : TimeState → TimeState) : (onTime s f).hkc = s.hkc := rfl
@[simp] theorem onTime_queueEcc (s : State) (f : TimeState → TimeState) : (onTime s f).queueEcc = s.queueEcc := rfl
@[simp] theorem onTime_aout (s : State) (f : TimeState → TimeState) : (onTime s f).aout = s.aout := rfl
@[simp] theorem onTime_inCoefs (s : State) (f : TimeState → TimeState) : (onTime s f).inCoefs = s.inCoefs := rfl
@[simp] theorem onTime_chains (s : State) (f : TimeState → TimeState) : (onTime s f).chains = s.chains := rfl
@[simp] theorem onTime_flt (s : State) (f : TimeState → TimeState) : (onTime s f).flt = s.flt := rfl
@[simp] theorem onTime_time (s : State) (f : TimeState → TimeState) :
    (onTime s f).time = f s.time := rfl
@[simp] theorem onTime_lanes (s : State) (f : TimeState → TimeState) : (onTime s f).lanes = s.lanes := rfl
@[simp] theorem onTime_ring (s : State) (f : TimeState → TimeState) : (onTime s f).ring = s.ring := rfl
@[simp] theorem onTime_adm (s : State) (f : TimeState → TimeState) : (onTime s f).adm = s.adm := rfl
@[simp] theorem onTime_addrTable (s : State) (f : TimeState → TimeState) : (onTime s f).addrTable = s.addrTable := rfl
@[simp] theorem onTime_sent (s : State) (f : TimeState → TimeState) : (onTime s f).sent = s.sent := rfl
@[simp] theorem onTime_streams (s : State) (f : TimeState → TimeState) : (onTime s f).streams = s.streams := rfl
@[simp] theorem onTime_strmSel (s : State) (f : TimeState → TimeState) : (onTime s f).strmSel = s.strmSel := rfl
@[simp] theorem onTime_vat (s : State) (f : TimeState → TimeState) : (onTime s f).vat = s.vat := rfl
@[simp] theorem onTime_cmd (s : State) (f : TimeState → TimeState) : (onTime s f).cmd = s.cmd := rfl
@[simp] theorem onTime_reams (s : State) (f : TimeState → TimeState) : (onTime s f).reams = s.reams := rfl
@[simp] theorem onTime_captSel (s : State) (f : TimeState → TimeState) : (onTime s f).captSel = s.captSel := rfl
@[simp] theorem onTime_gaps (s : State) (f : TimeState → TimeState) : (onTime s f).gaps = s.gaps := rfl
@[simp] theorem onTime_twin (s : State) (f : TimeState → TimeState) : (onTime s f).twin = s.twin := rfl
@[simp] theorem onTime_slots (s : State) (f : TimeState → TimeState) : (onTime s f).slots = s.slots := rfl
@[simp] theorem onTime_engines (s : State) (f : TimeState → TimeState) : (onTime s f).engines = s.engines := rfl
@[simp] theorem onTime_edges (s : State) (f : TimeState → TimeState) : (onTime s f).edges = s.edges := rfl
@[simp] theorem onTime_sports (s : State) (f : TimeState → TimeState) : (onTime s f).sports = s.sports := rfl
@[simp] theorem onTime_lites (s : State) (f : TimeState → TimeState) : (onTime s f).lites = s.lites := rfl
@[simp] theorem onTime_levels (s : State) (f : TimeState → TimeState) : (onTime s f).levels = s.levels := rfl
@[simp] theorem onTime_strobes (s : State) (f : TimeState → TimeState) : (onTime s f).strobes = s.strobes := rfl
@[simp] theorem onTime_cal (s : State) (f : TimeState → TimeState) : (onTime s f).cal = s.cal := rfl
@[simp] theorem onTime_nv (s : State) (f : TimeState → TimeState) : (onTime s f).nv = s.nv := rfl
@[simp] theorem onTime_fuses (s : State) (f : TimeState → TimeState) : (onTime s f).fuses = s.fuses := rfl
@[simp] theorem onTime_changes (s : State) (f : TimeState → TimeState) : (onTime s f).changes = s.changes := rfl
@[simp] theorem onTime_safe (s : State) (f : TimeState → TimeState) : (onTime s f).safe = s.safe := rfl
@[simp] theorem onTime_badBands (s : State) (f : TimeState → TimeState) : (onTime s f).badBands = s.badBands := rfl
@[simp] theorem onTime_serial (s : State) (f : TimeState → TimeState) : (onTime s f).serial = s.serial := rfl
@[simp] theorem onTime_partSB (s : State) (f : TimeState → TimeState) : (onTime s f).partSB = s.partSB := rfl
@[simp] theorem onTime_freeCtr (s : State) (f : TimeState → TimeState) : (onTime s f).freeCtr = s.freeCtr := rfl
@[simp] theorem onTime_rd (s : State) (f : TimeState → TimeState) (i : Nat) : rd (onTime s f) i = rd s i := rfl

@[simp] theorem onEdge_pending (s : State) (n : Nat) (f : EdgeState → EdgeState) : (onEdge s n f).pending = s.pending
    := rfl
@[simp] theorem onEdge_regs (s : State) (n : Nat) (f : EdgeState → EdgeState) : (onEdge s n f).regs = s.regs := rfl
@[simp] theorem onEdge_shadow (s : State) (n : Nat) (f : EdgeState → EdgeState) : (onEdge s n f).shadow = s.shadow :=
    rfl
@[simp] theorem onEdge_pages (s : State) (n : Nat) (f : EdgeState → EdgeState) : (onEdge s n f).pages = s.pages := rfl
@[simp] theorem onEdge_pwr (s : State) (n : Nat) (f : EdgeState → EdgeState) : (onEdge s n f).pwr = s.pwr := rfl
@[simp] theorem onEdge_clk (s : State) (n : Nat) (f : EdgeState → EdgeState) : (onEdge s n f).clk = s.clk := rfl
@[simp] theorem onEdge_pins (s : State) (n : Nat) (f : EdgeState → EdgeState) : (onEdge s n f).pins = s.pins := rfl
@[simp] theorem onEdge_tap (s : State) (n : Nat) (f : EdgeState → EdgeState) : (onEdge s n f).tap = s.tap := rfl
@[simp] theorem onEdge_gc (s : State) (n : Nat) (f : EdgeState → EdgeState) : (onEdge s n f).gc = s.gc := rfl
@[simp] theorem onEdge_gen (s : State) (n : Nat) (f : EdgeState → EdgeState) : (onEdge s n f).gen = s.gen := rfl
@[simp] theorem onEdge_host (s : State) (n : Nat) (f : EdgeState → EdgeState) : (onEdge s n f).host = s.host := rfl
@[simp] theorem onEdge_inputs (s : State) (n : Nat) (f : EdgeState → EdgeState) : (onEdge s n f).inputs = s.inputs :=
    rfl
@[simp] theorem onEdge_exc (s : State) (n : Nat) (f : EdgeState → EdgeState) : (onEdge s n f).exc = s.exc := rfl
@[simp] theorem onEdge_cores (s : State) (n : Nat) (f : EdgeState → EdgeState) : (onEdge s n f).cores = s.cores := rfl
@[simp] theorem onEdge_bands (s : State) (n : Nat) (f : EdgeState → EdgeState) : (onEdge s n f).bands = s.bands := rfl
@[simp] theorem onEdge_hkc (s : State) (n : Nat) (f : EdgeState → EdgeState) : (onEdge s n f).hkc = s.hkc := rfl
@[simp] theorem onEdge_queueEcc (s : State) (n : Nat) (f : EdgeState → EdgeState) : (onEdge s n f).queueEcc =
    s.queueEcc := rfl
@[simp] theorem onEdge_aout (s : State) (n : Nat) (f : EdgeState → EdgeState) : (onEdge s n f).aout = s.aout := rfl
@[simp] theorem onEdge_inCoefs (s : State) (n : Nat) (f : EdgeState → EdgeState) : (onEdge s n f).inCoefs = s.inCoefs
    := rfl
@[simp] theorem onEdge_chains (s : State) (n : Nat) (f : EdgeState → EdgeState) : (onEdge s n f).chains = s.chains :=
    rfl
@[simp] theorem onEdge_flt (s : State) (n : Nat) (f : EdgeState → EdgeState) : (onEdge s n f).flt = s.flt := rfl
@[simp] theorem onEdge_time (s : State) (n : Nat) (f : EdgeState → EdgeState) : (onEdge s n f).time = s.time := rfl
@[simp] theorem onEdge_lanes (s : State) (n : Nat) (f : EdgeState → EdgeState) : (onEdge s n f).lanes = s.lanes := rfl
@[simp] theorem onEdge_ring (s : State) (n : Nat) (f : EdgeState → EdgeState) : (onEdge s n f).ring = s.ring := rfl
@[simp] theorem onEdge_adm (s : State) (n : Nat) (f : EdgeState → EdgeState) : (onEdge s n f).adm = s.adm := rfl
@[simp] theorem onEdge_addrTable (s : State) (n : Nat) (f : EdgeState → EdgeState) : (onEdge s n f).addrTable =
    s.addrTable := rfl
@[simp] theorem onEdge_sent (s : State) (n : Nat) (f : EdgeState → EdgeState) : (onEdge s n f).sent = s.sent := rfl
@[simp] theorem onEdge_streams (s : State) (n : Nat) (f : EdgeState → EdgeState) : (onEdge s n f).streams = s.streams
    := rfl
@[simp] theorem onEdge_strmSel (s : State) (n : Nat) (f : EdgeState → EdgeState) : (onEdge s n f).strmSel = s.strmSel
    := rfl
@[simp] theorem onEdge_vat (s : State) (n : Nat) (f : EdgeState → EdgeState) : (onEdge s n f).vat = s.vat := rfl
@[simp] theorem onEdge_cmd (s : State) (n : Nat) (f : EdgeState → EdgeState) : (onEdge s n f).cmd = s.cmd := rfl
@[simp] theorem onEdge_reams (s : State) (n : Nat) (f : EdgeState → EdgeState) : (onEdge s n f).reams = s.reams := rfl
@[simp] theorem onEdge_captSel (s : State) (n : Nat) (f : EdgeState → EdgeState) : (onEdge s n f).captSel = s.captSel
    := rfl
@[simp] theorem onEdge_gaps (s : State) (n : Nat) (f : EdgeState → EdgeState) : (onEdge s n f).gaps = s.gaps := rfl
@[simp] theorem onEdge_twin (s : State) (n : Nat) (f : EdgeState → EdgeState) : (onEdge s n f).twin = s.twin := rfl
@[simp] theorem onEdge_slots (s : State) (n : Nat) (f : EdgeState → EdgeState) : (onEdge s n f).slots = s.slots := rfl
@[simp] theorem onEdge_engines (s : State) (n : Nat) (f : EdgeState → EdgeState) : (onEdge s n f).engines = s.engines
    := rfl
@[simp] theorem onEdge_edges (s : State) (n : Nat) (f : EdgeState → EdgeState) :
    (onEdge s n f).edges = s.edges.modify n f := rfl
@[simp] theorem onEdge_sports (s : State) (n : Nat) (f : EdgeState → EdgeState) : (onEdge s n f).sports = s.sports :=
    rfl
@[simp] theorem onEdge_lites (s : State) (n : Nat) (f : EdgeState → EdgeState) : (onEdge s n f).lites = s.lites := rfl
@[simp] theorem onEdge_levels (s : State) (n : Nat) (f : EdgeState → EdgeState) : (onEdge s n f).levels = s.levels :=
    rfl
@[simp] theorem onEdge_strobes (s : State) (n : Nat) (f : EdgeState → EdgeState) : (onEdge s n f).strobes = s.strobes
    := rfl
@[simp] theorem onEdge_cal (s : State) (n : Nat) (f : EdgeState → EdgeState) : (onEdge s n f).cal = s.cal := rfl
@[simp] theorem onEdge_nv (s : State) (n : Nat) (f : EdgeState → EdgeState) : (onEdge s n f).nv = s.nv := rfl
@[simp] theorem onEdge_fuses (s : State) (n : Nat) (f : EdgeState → EdgeState) : (onEdge s n f).fuses = s.fuses := rfl
@[simp] theorem onEdge_changes (s : State) (n : Nat) (f : EdgeState → EdgeState) : (onEdge s n f).changes = s.changes
    := rfl
@[simp] theorem onEdge_safe (s : State) (n : Nat) (f : EdgeState → EdgeState) : (onEdge s n f).safe = s.safe := rfl
@[simp] theorem onEdge_badBands (s : State) (n : Nat) (f : EdgeState → EdgeState) : (onEdge s n f).badBands =
    s.badBands := rfl
@[simp] theorem onEdge_serial (s : State) (n : Nat) (f : EdgeState → EdgeState) : (onEdge s n f).serial = s.serial :=
    rfl
@[simp] theorem onEdge_partSB (s : State) (n : Nat) (f : EdgeState → EdgeState) : (onEdge s n f).partSB = s.partSB :=
    rfl
@[simp] theorem onEdge_freeCtr (s : State) (n : Nat) (f : EdgeState → EdgeState) : (onEdge s n f).freeCtr = s.freeCtr
    := rfl
@[simp] theorem onEdge_rd (s : State) (n : Nat) (f : EdgeState → EdgeState) (i : Nat) : rd (onEdge s n f) i = rd s i
    := rfl

@[simp] theorem onSprt_pending (s : State) (p : Nat) (f : SprtState → SprtState) : (onSprt s p f).pending = s.pending
    := rfl
@[simp] theorem onSprt_regs (s : State) (p : Nat) (f : SprtState → SprtState) : (onSprt s p f).regs = s.regs := rfl
@[simp] theorem onSprt_shadow (s : State) (p : Nat) (f : SprtState → SprtState) : (onSprt s p f).shadow = s.shadow :=
    rfl
@[simp] theorem onSprt_pages (s : State) (p : Nat) (f : SprtState → SprtState) : (onSprt s p f).pages = s.pages := rfl
@[simp] theorem onSprt_pwr (s : State) (p : Nat) (f : SprtState → SprtState) : (onSprt s p f).pwr = s.pwr := rfl
@[simp] theorem onSprt_clk (s : State) (p : Nat) (f : SprtState → SprtState) : (onSprt s p f).clk = s.clk := rfl
@[simp] theorem onSprt_pins (s : State) (p : Nat) (f : SprtState → SprtState) : (onSprt s p f).pins = s.pins := rfl
@[simp] theorem onSprt_tap (s : State) (p : Nat) (f : SprtState → SprtState) : (onSprt s p f).tap = s.tap := rfl
@[simp] theorem onSprt_gc (s : State) (p : Nat) (f : SprtState → SprtState) : (onSprt s p f).gc = s.gc := rfl
@[simp] theorem onSprt_gen (s : State) (p : Nat) (f : SprtState → SprtState) : (onSprt s p f).gen = s.gen := rfl
@[simp] theorem onSprt_host (s : State) (p : Nat) (f : SprtState → SprtState) : (onSprt s p f).host = s.host := rfl
@[simp] theorem onSprt_inputs (s : State) (p : Nat) (f : SprtState → SprtState) : (onSprt s p f).inputs = s.inputs :=
    rfl
@[simp] theorem onSprt_exc (s : State) (p : Nat) (f : SprtState → SprtState) : (onSprt s p f).exc = s.exc := rfl
@[simp] theorem onSprt_cores (s : State) (p : Nat) (f : SprtState → SprtState) : (onSprt s p f).cores = s.cores := rfl
@[simp] theorem onSprt_bands (s : State) (p : Nat) (f : SprtState → SprtState) : (onSprt s p f).bands = s.bands := rfl
@[simp] theorem onSprt_hkc (s : State) (p : Nat) (f : SprtState → SprtState) : (onSprt s p f).hkc = s.hkc := rfl
@[simp] theorem onSprt_queueEcc (s : State) (p : Nat) (f : SprtState → SprtState) : (onSprt s p f).queueEcc =
    s.queueEcc := rfl
@[simp] theorem onSprt_aout (s : State) (p : Nat) (f : SprtState → SprtState) : (onSprt s p f).aout = s.aout := rfl
@[simp] theorem onSprt_inCoefs (s : State) (p : Nat) (f : SprtState → SprtState) : (onSprt s p f).inCoefs = s.inCoefs
    := rfl
@[simp] theorem onSprt_chains (s : State) (p : Nat) (f : SprtState → SprtState) : (onSprt s p f).chains = s.chains :=
    rfl
@[simp] theorem onSprt_flt (s : State) (p : Nat) (f : SprtState → SprtState) : (onSprt s p f).flt = s.flt := rfl
@[simp] theorem onSprt_time (s : State) (p : Nat) (f : SprtState → SprtState) : (onSprt s p f).time = s.time := rfl
@[simp] theorem onSprt_lanes (s : State) (p : Nat) (f : SprtState → SprtState) : (onSprt s p f).lanes = s.lanes := rfl
@[simp] theorem onSprt_ring (s : State) (p : Nat) (f : SprtState → SprtState) : (onSprt s p f).ring = s.ring := rfl
@[simp] theorem onSprt_adm (s : State) (p : Nat) (f : SprtState → SprtState) : (onSprt s p f).adm = s.adm := rfl
@[simp] theorem onSprt_addrTable (s : State) (p : Nat) (f : SprtState → SprtState) : (onSprt s p f).addrTable =
    s.addrTable := rfl
@[simp] theorem onSprt_sent (s : State) (p : Nat) (f : SprtState → SprtState) : (onSprt s p f).sent = s.sent := rfl
@[simp] theorem onSprt_streams (s : State) (p : Nat) (f : SprtState → SprtState) : (onSprt s p f).streams = s.streams
    := rfl
@[simp] theorem onSprt_strmSel (s : State) (p : Nat) (f : SprtState → SprtState) : (onSprt s p f).strmSel = s.strmSel
    := rfl
@[simp] theorem onSprt_vat (s : State) (p : Nat) (f : SprtState → SprtState) : (onSprt s p f).vat = s.vat := rfl
@[simp] theorem onSprt_cmd (s : State) (p : Nat) (f : SprtState → SprtState) : (onSprt s p f).cmd = s.cmd := rfl
@[simp] theorem onSprt_reams (s : State) (p : Nat) (f : SprtState → SprtState) : (onSprt s p f).reams = s.reams := rfl
@[simp] theorem onSprt_captSel (s : State) (p : Nat) (f : SprtState → SprtState) : (onSprt s p f).captSel = s.captSel
    := rfl
@[simp] theorem onSprt_gaps (s : State) (p : Nat) (f : SprtState → SprtState) : (onSprt s p f).gaps = s.gaps := rfl
@[simp] theorem onSprt_twin (s : State) (p : Nat) (f : SprtState → SprtState) : (onSprt s p f).twin = s.twin := rfl
@[simp] theorem onSprt_slots (s : State) (p : Nat) (f : SprtState → SprtState) : (onSprt s p f).slots = s.slots := rfl
@[simp] theorem onSprt_engines (s : State) (p : Nat) (f : SprtState → SprtState) : (onSprt s p f).engines = s.engines
    := rfl
@[simp] theorem onSprt_edges (s : State) (p : Nat) (f : SprtState → SprtState) : (onSprt s p f).edges = s.edges := rfl
@[simp] theorem onSprt_sports (s : State) (p : Nat) (f : SprtState → SprtState) :
    (onSprt s p f).sports = s.sports.modify p f := rfl
@[simp] theorem onSprt_lites (s : State) (p : Nat) (f : SprtState → SprtState) : (onSprt s p f).lites = s.lites := rfl
@[simp] theorem onSprt_levels (s : State) (p : Nat) (f : SprtState → SprtState) : (onSprt s p f).levels = s.levels :=
    rfl
@[simp] theorem onSprt_strobes (s : State) (p : Nat) (f : SprtState → SprtState) : (onSprt s p f).strobes = s.strobes
    := rfl
@[simp] theorem onSprt_cal (s : State) (p : Nat) (f : SprtState → SprtState) : (onSprt s p f).cal = s.cal := rfl
@[simp] theorem onSprt_nv (s : State) (p : Nat) (f : SprtState → SprtState) : (onSprt s p f).nv = s.nv := rfl
@[simp] theorem onSprt_fuses (s : State) (p : Nat) (f : SprtState → SprtState) : (onSprt s p f).fuses = s.fuses := rfl
@[simp] theorem onSprt_changes (s : State) (p : Nat) (f : SprtState → SprtState) : (onSprt s p f).changes = s.changes
    := rfl
@[simp] theorem onSprt_safe (s : State) (p : Nat) (f : SprtState → SprtState) : (onSprt s p f).safe = s.safe := rfl
@[simp] theorem onSprt_badBands (s : State) (p : Nat) (f : SprtState → SprtState) : (onSprt s p f).badBands =
    s.badBands := rfl
@[simp] theorem onSprt_serial (s : State) (p : Nat) (f : SprtState → SprtState) : (onSprt s p f).serial = s.serial :=
    rfl
@[simp] theorem onSprt_partSB (s : State) (p : Nat) (f : SprtState → SprtState) : (onSprt s p f).partSB = s.partSB :=
    rfl
@[simp] theorem onSprt_freeCtr (s : State) (p : Nat) (f : SprtState → SprtState) : (onSprt s p f).freeCtr = s.freeCtr
    := rfl
@[simp] theorem onSprt_rd (s : State) (p : Nat) (f : SprtState → SprtState) (i : Nat) : rd (onSprt s p f) i = rd s i
    := rfl

@[simp] theorem onSafe_pending (s : State) (f : SafeState → SafeState) : (onSafe s f).pending = s.pending := rfl
@[simp] theorem onSafe_regs (s : State) (f : SafeState → SafeState) : (onSafe s f).regs = s.regs := rfl
@[simp] theorem onSafe_shadow (s : State) (f : SafeState → SafeState) : (onSafe s f).shadow = s.shadow := rfl
@[simp] theorem onSafe_pages (s : State) (f : SafeState → SafeState) : (onSafe s f).pages = s.pages := rfl
@[simp] theorem onSafe_pwr (s : State) (f : SafeState → SafeState) : (onSafe s f).pwr = s.pwr := rfl
@[simp] theorem onSafe_clk (s : State) (f : SafeState → SafeState) : (onSafe s f).clk = s.clk := rfl
@[simp] theorem onSafe_pins (s : State) (f : SafeState → SafeState) : (onSafe s f).pins = s.pins := rfl
@[simp] theorem onSafe_tap (s : State) (f : SafeState → SafeState) : (onSafe s f).tap = s.tap := rfl
@[simp] theorem onSafe_gc (s : State) (f : SafeState → SafeState) : (onSafe s f).gc = s.gc := rfl
@[simp] theorem onSafe_gen (s : State) (f : SafeState → SafeState) : (onSafe s f).gen = s.gen := rfl
@[simp] theorem onSafe_host (s : State) (f : SafeState → SafeState) : (onSafe s f).host = s.host := rfl
@[simp] theorem onSafe_inputs (s : State) (f : SafeState → SafeState) : (onSafe s f).inputs = s.inputs := rfl
@[simp] theorem onSafe_exc (s : State) (f : SafeState → SafeState) : (onSafe s f).exc = s.exc := rfl
@[simp] theorem onSafe_cores (s : State) (f : SafeState → SafeState) : (onSafe s f).cores = s.cores := rfl
@[simp] theorem onSafe_bands (s : State) (f : SafeState → SafeState) : (onSafe s f).bands = s.bands := rfl
@[simp] theorem onSafe_hkc (s : State) (f : SafeState → SafeState) : (onSafe s f).hkc = s.hkc := rfl
@[simp] theorem onSafe_queueEcc (s : State) (f : SafeState → SafeState) : (onSafe s f).queueEcc = s.queueEcc := rfl
@[simp] theorem onSafe_aout (s : State) (f : SafeState → SafeState) : (onSafe s f).aout = s.aout := rfl
@[simp] theorem onSafe_inCoefs (s : State) (f : SafeState → SafeState) : (onSafe s f).inCoefs = s.inCoefs := rfl
@[simp] theorem onSafe_chains (s : State) (f : SafeState → SafeState) : (onSafe s f).chains = s.chains := rfl
@[simp] theorem onSafe_flt (s : State) (f : SafeState → SafeState) : (onSafe s f).flt = s.flt := rfl
@[simp] theorem onSafe_time (s : State) (f : SafeState → SafeState) : (onSafe s f).time = s.time := rfl
@[simp] theorem onSafe_lanes (s : State) (f : SafeState → SafeState) : (onSafe s f).lanes = s.lanes := rfl
@[simp] theorem onSafe_ring (s : State) (f : SafeState → SafeState) : (onSafe s f).ring = s.ring := rfl
@[simp] theorem onSafe_adm (s : State) (f : SafeState → SafeState) : (onSafe s f).adm = s.adm := rfl
@[simp] theorem onSafe_addrTable (s : State) (f : SafeState → SafeState) : (onSafe s f).addrTable = s.addrTable := rfl
@[simp] theorem onSafe_sent (s : State) (f : SafeState → SafeState) : (onSafe s f).sent = s.sent := rfl
@[simp] theorem onSafe_streams (s : State) (f : SafeState → SafeState) : (onSafe s f).streams = s.streams := rfl
@[simp] theorem onSafe_strmSel (s : State) (f : SafeState → SafeState) : (onSafe s f).strmSel = s.strmSel := rfl
@[simp] theorem onSafe_vat (s : State) (f : SafeState → SafeState) : (onSafe s f).vat = s.vat := rfl
@[simp] theorem onSafe_cmd (s : State) (f : SafeState → SafeState) : (onSafe s f).cmd = s.cmd := rfl
@[simp] theorem onSafe_reams (s : State) (f : SafeState → SafeState) : (onSafe s f).reams = s.reams := rfl
@[simp] theorem onSafe_captSel (s : State) (f : SafeState → SafeState) : (onSafe s f).captSel = s.captSel := rfl
@[simp] theorem onSafe_gaps (s : State) (f : SafeState → SafeState) : (onSafe s f).gaps = s.gaps := rfl
@[simp] theorem onSafe_twin (s : State) (f : SafeState → SafeState) : (onSafe s f).twin = s.twin := rfl
@[simp] theorem onSafe_slots (s : State) (f : SafeState → SafeState) : (onSafe s f).slots = s.slots := rfl
@[simp] theorem onSafe_engines (s : State) (f : SafeState → SafeState) : (onSafe s f).engines = s.engines := rfl
@[simp] theorem onSafe_edges (s : State) (f : SafeState → SafeState) : (onSafe s f).edges = s.edges := rfl
@[simp] theorem onSafe_sports (s : State) (f : SafeState → SafeState) : (onSafe s f).sports = s.sports := rfl
@[simp] theorem onSafe_lites (s : State) (f : SafeState → SafeState) : (onSafe s f).lites = s.lites := rfl
@[simp] theorem onSafe_levels (s : State) (f : SafeState → SafeState) : (onSafe s f).levels = s.levels := rfl
@[simp] theorem onSafe_strobes (s : State) (f : SafeState → SafeState) : (onSafe s f).strobes = s.strobes := rfl
@[simp] theorem onSafe_cal (s : State) (f : SafeState → SafeState) : (onSafe s f).cal = s.cal := rfl
@[simp] theorem onSafe_nv (s : State) (f : SafeState → SafeState) : (onSafe s f).nv = s.nv := rfl
@[simp] theorem onSafe_fuses (s : State) (f : SafeState → SafeState) : (onSafe s f).fuses = s.fuses := rfl
@[simp] theorem onSafe_changes (s : State) (f : SafeState → SafeState) : (onSafe s f).changes = s.changes := rfl
@[simp] theorem onSafe_safe (s : State) (f : SafeState → SafeState) :
    (onSafe s f).safe = f s.safe := rfl
@[simp] theorem onSafe_badBands (s : State) (f : SafeState → SafeState) : (onSafe s f).badBands = s.badBands := rfl
@[simp] theorem onSafe_serial (s : State) (f : SafeState → SafeState) : (onSafe s f).serial = s.serial := rfl
@[simp] theorem onSafe_partSB (s : State) (f : SafeState → SafeState) : (onSafe s f).partSB = s.partSB := rfl
@[simp] theorem onSafe_freeCtr (s : State) (f : SafeState → SafeState) : (onSafe s f).freeCtr = s.freeCtr := rfl
@[simp] theorem onSafe_rd (s : State) (f : SafeState → SafeState) (i : Nat) : rd (onSafe s f) i = rd s i := rfl

@[simp] theorem onTwin_pending (s : State) (f : TwinState → TwinState) : (onTwin s f).pending = s.pending := rfl
@[simp] theorem onTwin_regs (s : State) (f : TwinState → TwinState) : (onTwin s f).regs = s.regs := rfl
@[simp] theorem onTwin_shadow (s : State) (f : TwinState → TwinState) : (onTwin s f).shadow = s.shadow := rfl
@[simp] theorem onTwin_pages (s : State) (f : TwinState → TwinState) : (onTwin s f).pages = s.pages := rfl
@[simp] theorem onTwin_pwr (s : State) (f : TwinState → TwinState) : (onTwin s f).pwr = s.pwr := rfl
@[simp] theorem onTwin_clk (s : State) (f : TwinState → TwinState) : (onTwin s f).clk = s.clk := rfl
@[simp] theorem onTwin_pins (s : State) (f : TwinState → TwinState) : (onTwin s f).pins = s.pins := rfl
@[simp] theorem onTwin_tap (s : State) (f : TwinState → TwinState) : (onTwin s f).tap = s.tap := rfl
@[simp] theorem onTwin_gc (s : State) (f : TwinState → TwinState) : (onTwin s f).gc = s.gc := rfl
@[simp] theorem onTwin_gen (s : State) (f : TwinState → TwinState) : (onTwin s f).gen = s.gen := rfl
@[simp] theorem onTwin_host (s : State) (f : TwinState → TwinState) : (onTwin s f).host = s.host := rfl
@[simp] theorem onTwin_inputs (s : State) (f : TwinState → TwinState) : (onTwin s f).inputs = s.inputs := rfl
@[simp] theorem onTwin_exc (s : State) (f : TwinState → TwinState) : (onTwin s f).exc = s.exc := rfl
@[simp] theorem onTwin_cores (s : State) (f : TwinState → TwinState) : (onTwin s f).cores = s.cores := rfl
@[simp] theorem onTwin_bands (s : State) (f : TwinState → TwinState) : (onTwin s f).bands = s.bands := rfl
@[simp] theorem onTwin_hkc (s : State) (f : TwinState → TwinState) : (onTwin s f).hkc = s.hkc := rfl
@[simp] theorem onTwin_queueEcc (s : State) (f : TwinState → TwinState) : (onTwin s f).queueEcc = s.queueEcc := rfl
@[simp] theorem onTwin_aout (s : State) (f : TwinState → TwinState) : (onTwin s f).aout = s.aout := rfl
@[simp] theorem onTwin_inCoefs (s : State) (f : TwinState → TwinState) : (onTwin s f).inCoefs = s.inCoefs := rfl
@[simp] theorem onTwin_chains (s : State) (f : TwinState → TwinState) : (onTwin s f).chains = s.chains := rfl
@[simp] theorem onTwin_flt (s : State) (f : TwinState → TwinState) : (onTwin s f).flt = s.flt := rfl
@[simp] theorem onTwin_time (s : State) (f : TwinState → TwinState) : (onTwin s f).time = s.time := rfl
@[simp] theorem onTwin_lanes (s : State) (f : TwinState → TwinState) : (onTwin s f).lanes = s.lanes := rfl
@[simp] theorem onTwin_ring (s : State) (f : TwinState → TwinState) : (onTwin s f).ring = s.ring := rfl
@[simp] theorem onTwin_adm (s : State) (f : TwinState → TwinState) : (onTwin s f).adm = s.adm := rfl
@[simp] theorem onTwin_addrTable (s : State) (f : TwinState → TwinState) : (onTwin s f).addrTable = s.addrTable := rfl
@[simp] theorem onTwin_sent (s : State) (f : TwinState → TwinState) : (onTwin s f).sent = s.sent := rfl
@[simp] theorem onTwin_streams (s : State) (f : TwinState → TwinState) : (onTwin s f).streams = s.streams := rfl
@[simp] theorem onTwin_strmSel (s : State) (f : TwinState → TwinState) : (onTwin s f).strmSel = s.strmSel := rfl
@[simp] theorem onTwin_vat (s : State) (f : TwinState → TwinState) : (onTwin s f).vat = s.vat := rfl
@[simp] theorem onTwin_cmd (s : State) (f : TwinState → TwinState) : (onTwin s f).cmd = s.cmd := rfl
@[simp] theorem onTwin_reams (s : State) (f : TwinState → TwinState) : (onTwin s f).reams = s.reams := rfl
@[simp] theorem onTwin_captSel (s : State) (f : TwinState → TwinState) : (onTwin s f).captSel = s.captSel := rfl
@[simp] theorem onTwin_gaps (s : State) (f : TwinState → TwinState) : (onTwin s f).gaps = s.gaps := rfl
@[simp] theorem onTwin_twin (s : State) (f : TwinState → TwinState) :
    (onTwin s f).twin = f s.twin := rfl
@[simp] theorem onTwin_slots (s : State) (f : TwinState → TwinState) : (onTwin s f).slots = s.slots := rfl
@[simp] theorem onTwin_engines (s : State) (f : TwinState → TwinState) : (onTwin s f).engines = s.engines := rfl
@[simp] theorem onTwin_edges (s : State) (f : TwinState → TwinState) : (onTwin s f).edges = s.edges := rfl
@[simp] theorem onTwin_sports (s : State) (f : TwinState → TwinState) : (onTwin s f).sports = s.sports := rfl
@[simp] theorem onTwin_lites (s : State) (f : TwinState → TwinState) : (onTwin s f).lites = s.lites := rfl
@[simp] theorem onTwin_levels (s : State) (f : TwinState → TwinState) : (onTwin s f).levels = s.levels := rfl
@[simp] theorem onTwin_strobes (s : State) (f : TwinState → TwinState) : (onTwin s f).strobes = s.strobes := rfl
@[simp] theorem onTwin_cal (s : State) (f : TwinState → TwinState) : (onTwin s f).cal = s.cal := rfl
@[simp] theorem onTwin_nv (s : State) (f : TwinState → TwinState) : (onTwin s f).nv = s.nv := rfl
@[simp] theorem onTwin_fuses (s : State) (f : TwinState → TwinState) : (onTwin s f).fuses = s.fuses := rfl
@[simp] theorem onTwin_changes (s : State) (f : TwinState → TwinState) : (onTwin s f).changes = s.changes := rfl
@[simp] theorem onTwin_safe (s : State) (f : TwinState → TwinState) : (onTwin s f).safe = s.safe := rfl
@[simp] theorem onTwin_badBands (s : State) (f : TwinState → TwinState) : (onTwin s f).badBands = s.badBands := rfl
@[simp] theorem onTwin_serial (s : State) (f : TwinState → TwinState) : (onTwin s f).serial = s.serial := rfl
@[simp] theorem onTwin_partSB (s : State) (f : TwinState → TwinState) : (onTwin s f).partSB = s.partSB := rfl
@[simp] theorem onTwin_freeCtr (s : State) (f : TwinState → TwinState) : (onTwin s f).freeCtr = s.freeCtr := rfl
@[simp] theorem onTwin_rd (s : State) (f : TwinState → TwinState) (i : Nat) : rd (onTwin s f) i = rd s i := rfl

@[simp] theorem onRing_pending (s : State) (f : RingState → RingState) : (onRing s f).pending = s.pending := rfl
@[simp] theorem onRing_regs (s : State) (f : RingState → RingState) : (onRing s f).regs = s.regs := rfl
@[simp] theorem onRing_shadow (s : State) (f : RingState → RingState) : (onRing s f).shadow = s.shadow := rfl
@[simp] theorem onRing_pages (s : State) (f : RingState → RingState) : (onRing s f).pages = s.pages := rfl
@[simp] theorem onRing_pwr (s : State) (f : RingState → RingState) : (onRing s f).pwr = s.pwr := rfl
@[simp] theorem onRing_clk (s : State) (f : RingState → RingState) : (onRing s f).clk = s.clk := rfl
@[simp] theorem onRing_pins (s : State) (f : RingState → RingState) : (onRing s f).pins = s.pins := rfl
@[simp] theorem onRing_tap (s : State) (f : RingState → RingState) : (onRing s f).tap = s.tap := rfl
@[simp] theorem onRing_gc (s : State) (f : RingState → RingState) : (onRing s f).gc = s.gc := rfl
@[simp] theorem onRing_gen (s : State) (f : RingState → RingState) : (onRing s f).gen = s.gen := rfl
@[simp] theorem onRing_host (s : State) (f : RingState → RingState) : (onRing s f).host = s.host := rfl
@[simp] theorem onRing_inputs (s : State) (f : RingState → RingState) : (onRing s f).inputs = s.inputs := rfl
@[simp] theorem onRing_exc (s : State) (f : RingState → RingState) : (onRing s f).exc = s.exc := rfl
@[simp] theorem onRing_cores (s : State) (f : RingState → RingState) : (onRing s f).cores = s.cores := rfl
@[simp] theorem onRing_bands (s : State) (f : RingState → RingState) : (onRing s f).bands = s.bands := rfl
@[simp] theorem onRing_hkc (s : State) (f : RingState → RingState) : (onRing s f).hkc = s.hkc := rfl
@[simp] theorem onRing_queueEcc (s : State) (f : RingState → RingState) : (onRing s f).queueEcc = s.queueEcc := rfl
@[simp] theorem onRing_aout (s : State) (f : RingState → RingState) : (onRing s f).aout = s.aout := rfl
@[simp] theorem onRing_inCoefs (s : State) (f : RingState → RingState) : (onRing s f).inCoefs = s.inCoefs := rfl
@[simp] theorem onRing_chains (s : State) (f : RingState → RingState) : (onRing s f).chains = s.chains := rfl
@[simp] theorem onRing_flt (s : State) (f : RingState → RingState) : (onRing s f).flt = s.flt := rfl
@[simp] theorem onRing_time (s : State) (f : RingState → RingState) : (onRing s f).time = s.time := rfl
@[simp] theorem onRing_lanes (s : State) (f : RingState → RingState) : (onRing s f).lanes = s.lanes := rfl
@[simp] theorem onRing_ring (s : State) (f : RingState → RingState) :
    (onRing s f).ring = f s.ring := rfl
@[simp] theorem onRing_adm (s : State) (f : RingState → RingState) : (onRing s f).adm = s.adm := rfl
@[simp] theorem onRing_addrTable (s : State) (f : RingState → RingState) : (onRing s f).addrTable = s.addrTable := rfl
@[simp] theorem onRing_sent (s : State) (f : RingState → RingState) : (onRing s f).sent = s.sent := rfl
@[simp] theorem onRing_streams (s : State) (f : RingState → RingState) : (onRing s f).streams = s.streams := rfl
@[simp] theorem onRing_strmSel (s : State) (f : RingState → RingState) : (onRing s f).strmSel = s.strmSel := rfl
@[simp] theorem onRing_vat (s : State) (f : RingState → RingState) : (onRing s f).vat = s.vat := rfl
@[simp] theorem onRing_cmd (s : State) (f : RingState → RingState) : (onRing s f).cmd = s.cmd := rfl
@[simp] theorem onRing_reams (s : State) (f : RingState → RingState) : (onRing s f).reams = s.reams := rfl
@[simp] theorem onRing_captSel (s : State) (f : RingState → RingState) : (onRing s f).captSel = s.captSel := rfl
@[simp] theorem onRing_gaps (s : State) (f : RingState → RingState) : (onRing s f).gaps = s.gaps := rfl
@[simp] theorem onRing_twin (s : State) (f : RingState → RingState) : (onRing s f).twin = s.twin := rfl
@[simp] theorem onRing_slots (s : State) (f : RingState → RingState) : (onRing s f).slots = s.slots := rfl
@[simp] theorem onRing_engines (s : State) (f : RingState → RingState) : (onRing s f).engines = s.engines := rfl
@[simp] theorem onRing_edges (s : State) (f : RingState → RingState) : (onRing s f).edges = s.edges := rfl
@[simp] theorem onRing_sports (s : State) (f : RingState → RingState) : (onRing s f).sports = s.sports := rfl
@[simp] theorem onRing_lites (s : State) (f : RingState → RingState) : (onRing s f).lites = s.lites := rfl
@[simp] theorem onRing_levels (s : State) (f : RingState → RingState) : (onRing s f).levels = s.levels := rfl
@[simp] theorem onRing_strobes (s : State) (f : RingState → RingState) : (onRing s f).strobes = s.strobes := rfl
@[simp] theorem onRing_cal (s : State) (f : RingState → RingState) : (onRing s f).cal = s.cal := rfl
@[simp] theorem onRing_nv (s : State) (f : RingState → RingState) : (onRing s f).nv = s.nv := rfl
@[simp] theorem onRing_fuses (s : State) (f : RingState → RingState) : (onRing s f).fuses = s.fuses := rfl
@[simp] theorem onRing_changes (s : State) (f : RingState → RingState) : (onRing s f).changes = s.changes := rfl
@[simp] theorem onRing_safe (s : State) (f : RingState → RingState) : (onRing s f).safe = s.safe := rfl
@[simp] theorem onRing_badBands (s : State) (f : RingState → RingState) : (onRing s f).badBands = s.badBands := rfl
@[simp] theorem onRing_serial (s : State) (f : RingState → RingState) : (onRing s f).serial = s.serial := rfl
@[simp] theorem onRing_partSB (s : State) (f : RingState → RingState) : (onRing s f).partSB = s.partSB := rfl
@[simp] theorem onRing_freeCtr (s : State) (f : RingState → RingState) : (onRing s f).freeCtr = s.freeCtr := rfl
@[simp] theorem onRing_rd (s : State) (f : RingState → RingState) (i : Nat) : rd (onRing s f) i = rd s i := rfl

@[simp] theorem onAdm_pending (s : State) (f : AdmState → AdmState) : (onAdm s f).pending = s.pending := rfl
@[simp] theorem onAdm_regs (s : State) (f : AdmState → AdmState) : (onAdm s f).regs = s.regs := rfl
@[simp] theorem onAdm_shadow (s : State) (f : AdmState → AdmState) : (onAdm s f).shadow = s.shadow := rfl
@[simp] theorem onAdm_pages (s : State) (f : AdmState → AdmState) : (onAdm s f).pages = s.pages := rfl
@[simp] theorem onAdm_pwr (s : State) (f : AdmState → AdmState) : (onAdm s f).pwr = s.pwr := rfl
@[simp] theorem onAdm_clk (s : State) (f : AdmState → AdmState) : (onAdm s f).clk = s.clk := rfl
@[simp] theorem onAdm_pins (s : State) (f : AdmState → AdmState) : (onAdm s f).pins = s.pins := rfl
@[simp] theorem onAdm_tap (s : State) (f : AdmState → AdmState) : (onAdm s f).tap = s.tap := rfl
@[simp] theorem onAdm_gc (s : State) (f : AdmState → AdmState) : (onAdm s f).gc = s.gc := rfl
@[simp] theorem onAdm_gen (s : State) (f : AdmState → AdmState) : (onAdm s f).gen = s.gen := rfl
@[simp] theorem onAdm_host (s : State) (f : AdmState → AdmState) : (onAdm s f).host = s.host := rfl
@[simp] theorem onAdm_inputs (s : State) (f : AdmState → AdmState) : (onAdm s f).inputs = s.inputs := rfl
@[simp] theorem onAdm_exc (s : State) (f : AdmState → AdmState) : (onAdm s f).exc = s.exc := rfl
@[simp] theorem onAdm_cores (s : State) (f : AdmState → AdmState) : (onAdm s f).cores = s.cores := rfl
@[simp] theorem onAdm_bands (s : State) (f : AdmState → AdmState) : (onAdm s f).bands = s.bands := rfl
@[simp] theorem onAdm_hkc (s : State) (f : AdmState → AdmState) : (onAdm s f).hkc = s.hkc := rfl
@[simp] theorem onAdm_queueEcc (s : State) (f : AdmState → AdmState) : (onAdm s f).queueEcc = s.queueEcc := rfl
@[simp] theorem onAdm_aout (s : State) (f : AdmState → AdmState) : (onAdm s f).aout = s.aout := rfl
@[simp] theorem onAdm_inCoefs (s : State) (f : AdmState → AdmState) : (onAdm s f).inCoefs = s.inCoefs := rfl
@[simp] theorem onAdm_chains (s : State) (f : AdmState → AdmState) : (onAdm s f).chains = s.chains := rfl
@[simp] theorem onAdm_flt (s : State) (f : AdmState → AdmState) : (onAdm s f).flt = s.flt := rfl
@[simp] theorem onAdm_time (s : State) (f : AdmState → AdmState) : (onAdm s f).time = s.time := rfl
@[simp] theorem onAdm_lanes (s : State) (f : AdmState → AdmState) : (onAdm s f).lanes = s.lanes := rfl
@[simp] theorem onAdm_ring (s : State) (f : AdmState → AdmState) : (onAdm s f).ring = s.ring := rfl
@[simp] theorem onAdm_adm (s : State) (f : AdmState → AdmState) :
    (onAdm s f).adm = f s.adm := rfl
@[simp] theorem onAdm_addrTable (s : State) (f : AdmState → AdmState) : (onAdm s f).addrTable = s.addrTable := rfl
@[simp] theorem onAdm_sent (s : State) (f : AdmState → AdmState) : (onAdm s f).sent = s.sent := rfl
@[simp] theorem onAdm_streams (s : State) (f : AdmState → AdmState) : (onAdm s f).streams = s.streams := rfl
@[simp] theorem onAdm_strmSel (s : State) (f : AdmState → AdmState) : (onAdm s f).strmSel = s.strmSel := rfl
@[simp] theorem onAdm_vat (s : State) (f : AdmState → AdmState) : (onAdm s f).vat = s.vat := rfl
@[simp] theorem onAdm_cmd (s : State) (f : AdmState → AdmState) : (onAdm s f).cmd = s.cmd := rfl
@[simp] theorem onAdm_reams (s : State) (f : AdmState → AdmState) : (onAdm s f).reams = s.reams := rfl
@[simp] theorem onAdm_captSel (s : State) (f : AdmState → AdmState) : (onAdm s f).captSel = s.captSel := rfl
@[simp] theorem onAdm_gaps (s : State) (f : AdmState → AdmState) : (onAdm s f).gaps = s.gaps := rfl
@[simp] theorem onAdm_twin (s : State) (f : AdmState → AdmState) : (onAdm s f).twin = s.twin := rfl
@[simp] theorem onAdm_slots (s : State) (f : AdmState → AdmState) : (onAdm s f).slots = s.slots := rfl
@[simp] theorem onAdm_engines (s : State) (f : AdmState → AdmState) : (onAdm s f).engines = s.engines := rfl
@[simp] theorem onAdm_edges (s : State) (f : AdmState → AdmState) : (onAdm s f).edges = s.edges := rfl
@[simp] theorem onAdm_sports (s : State) (f : AdmState → AdmState) : (onAdm s f).sports = s.sports := rfl
@[simp] theorem onAdm_lites (s : State) (f : AdmState → AdmState) : (onAdm s f).lites = s.lites := rfl
@[simp] theorem onAdm_levels (s : State) (f : AdmState → AdmState) : (onAdm s f).levels = s.levels := rfl
@[simp] theorem onAdm_strobes (s : State) (f : AdmState → AdmState) : (onAdm s f).strobes = s.strobes := rfl
@[simp] theorem onAdm_cal (s : State) (f : AdmState → AdmState) : (onAdm s f).cal = s.cal := rfl
@[simp] theorem onAdm_nv (s : State) (f : AdmState → AdmState) : (onAdm s f).nv = s.nv := rfl
@[simp] theorem onAdm_fuses (s : State) (f : AdmState → AdmState) : (onAdm s f).fuses = s.fuses := rfl
@[simp] theorem onAdm_changes (s : State) (f : AdmState → AdmState) : (onAdm s f).changes = s.changes := rfl
@[simp] theorem onAdm_safe (s : State) (f : AdmState → AdmState) : (onAdm s f).safe = s.safe := rfl
@[simp] theorem onAdm_badBands (s : State) (f : AdmState → AdmState) : (onAdm s f).badBands = s.badBands := rfl
@[simp] theorem onAdm_serial (s : State) (f : AdmState → AdmState) : (onAdm s f).serial = s.serial := rfl
@[simp] theorem onAdm_partSB (s : State) (f : AdmState → AdmState) : (onAdm s f).partSB = s.partSB := rfl
@[simp] theorem onAdm_freeCtr (s : State) (f : AdmState → AdmState) : (onAdm s f).freeCtr = s.freeCtr := rfl
@[simp] theorem onAdm_rd (s : State) (f : AdmState → AdmState) (i : Nat) : rd (onAdm s f) i = rd s i := rfl

@[simp] theorem onPwr_pending (s : State) (f : PwrState → PwrState) : (onPwr s f).pending = s.pending := rfl
@[simp] theorem onPwr_regs (s : State) (f : PwrState → PwrState) : (onPwr s f).regs = s.regs := rfl
@[simp] theorem onPwr_shadow (s : State) (f : PwrState → PwrState) : (onPwr s f).shadow = s.shadow := rfl
@[simp] theorem onPwr_pages (s : State) (f : PwrState → PwrState) : (onPwr s f).pages = s.pages := rfl
@[simp] theorem onPwr_pwr (s : State) (f : PwrState → PwrState) :
    (onPwr s f).pwr = f s.pwr := rfl
@[simp] theorem onPwr_clk (s : State) (f : PwrState → PwrState) : (onPwr s f).clk = s.clk := rfl
@[simp] theorem onPwr_pins (s : State) (f : PwrState → PwrState) : (onPwr s f).pins = s.pins := rfl
@[simp] theorem onPwr_tap (s : State) (f : PwrState → PwrState) : (onPwr s f).tap = s.tap := rfl
@[simp] theorem onPwr_gc (s : State) (f : PwrState → PwrState) : (onPwr s f).gc = s.gc := rfl
@[simp] theorem onPwr_gen (s : State) (f : PwrState → PwrState) : (onPwr s f).gen = s.gen := rfl
@[simp] theorem onPwr_host (s : State) (f : PwrState → PwrState) : (onPwr s f).host = s.host := rfl
@[simp] theorem onPwr_inputs (s : State) (f : PwrState → PwrState) : (onPwr s f).inputs = s.inputs := rfl
@[simp] theorem onPwr_exc (s : State) (f : PwrState → PwrState) : (onPwr s f).exc = s.exc := rfl
@[simp] theorem onPwr_cores (s : State) (f : PwrState → PwrState) : (onPwr s f).cores = s.cores := rfl
@[simp] theorem onPwr_bands (s : State) (f : PwrState → PwrState) : (onPwr s f).bands = s.bands := rfl
@[simp] theorem onPwr_hkc (s : State) (f : PwrState → PwrState) : (onPwr s f).hkc = s.hkc := rfl
@[simp] theorem onPwr_queueEcc (s : State) (f : PwrState → PwrState) : (onPwr s f).queueEcc = s.queueEcc := rfl
@[simp] theorem onPwr_aout (s : State) (f : PwrState → PwrState) : (onPwr s f).aout = s.aout := rfl
@[simp] theorem onPwr_inCoefs (s : State) (f : PwrState → PwrState) : (onPwr s f).inCoefs = s.inCoefs := rfl
@[simp] theorem onPwr_chains (s : State) (f : PwrState → PwrState) : (onPwr s f).chains = s.chains := rfl
@[simp] theorem onPwr_flt (s : State) (f : PwrState → PwrState) : (onPwr s f).flt = s.flt := rfl
@[simp] theorem onPwr_time (s : State) (f : PwrState → PwrState) : (onPwr s f).time = s.time := rfl
@[simp] theorem onPwr_lanes (s : State) (f : PwrState → PwrState) : (onPwr s f).lanes = s.lanes := rfl
@[simp] theorem onPwr_ring (s : State) (f : PwrState → PwrState) : (onPwr s f).ring = s.ring := rfl
@[simp] theorem onPwr_adm (s : State) (f : PwrState → PwrState) : (onPwr s f).adm = s.adm := rfl
@[simp] theorem onPwr_addrTable (s : State) (f : PwrState → PwrState) : (onPwr s f).addrTable = s.addrTable := rfl
@[simp] theorem onPwr_sent (s : State) (f : PwrState → PwrState) : (onPwr s f).sent = s.sent := rfl
@[simp] theorem onPwr_streams (s : State) (f : PwrState → PwrState) : (onPwr s f).streams = s.streams := rfl
@[simp] theorem onPwr_strmSel (s : State) (f : PwrState → PwrState) : (onPwr s f).strmSel = s.strmSel := rfl
@[simp] theorem onPwr_vat (s : State) (f : PwrState → PwrState) : (onPwr s f).vat = s.vat := rfl
@[simp] theorem onPwr_cmd (s : State) (f : PwrState → PwrState) : (onPwr s f).cmd = s.cmd := rfl
@[simp] theorem onPwr_reams (s : State) (f : PwrState → PwrState) : (onPwr s f).reams = s.reams := rfl
@[simp] theorem onPwr_captSel (s : State) (f : PwrState → PwrState) : (onPwr s f).captSel = s.captSel := rfl
@[simp] theorem onPwr_gaps (s : State) (f : PwrState → PwrState) : (onPwr s f).gaps = s.gaps := rfl
@[simp] theorem onPwr_twin (s : State) (f : PwrState → PwrState) : (onPwr s f).twin = s.twin := rfl
@[simp] theorem onPwr_slots (s : State) (f : PwrState → PwrState) : (onPwr s f).slots = s.slots := rfl
@[simp] theorem onPwr_engines (s : State) (f : PwrState → PwrState) : (onPwr s f).engines = s.engines := rfl
@[simp] theorem onPwr_edges (s : State) (f : PwrState → PwrState) : (onPwr s f).edges = s.edges := rfl
@[simp] theorem onPwr_sports (s : State) (f : PwrState → PwrState) : (onPwr s f).sports = s.sports := rfl
@[simp] theorem onPwr_lites (s : State) (f : PwrState → PwrState) : (onPwr s f).lites = s.lites := rfl
@[simp] theorem onPwr_levels (s : State) (f : PwrState → PwrState) : (onPwr s f).levels = s.levels := rfl
@[simp] theorem onPwr_strobes (s : State) (f : PwrState → PwrState) : (onPwr s f).strobes = s.strobes := rfl
@[simp] theorem onPwr_cal (s : State) (f : PwrState → PwrState) : (onPwr s f).cal = s.cal := rfl
@[simp] theorem onPwr_nv (s : State) (f : PwrState → PwrState) : (onPwr s f).nv = s.nv := rfl
@[simp] theorem onPwr_fuses (s : State) (f : PwrState → PwrState) : (onPwr s f).fuses = s.fuses := rfl
@[simp] theorem onPwr_changes (s : State) (f : PwrState → PwrState) : (onPwr s f).changes = s.changes := rfl
@[simp] theorem onPwr_safe (s : State) (f : PwrState → PwrState) : (onPwr s f).safe = s.safe := rfl
@[simp] theorem onPwr_badBands (s : State) (f : PwrState → PwrState) : (onPwr s f).badBands = s.badBands := rfl
@[simp] theorem onPwr_serial (s : State) (f : PwrState → PwrState) : (onPwr s f).serial = s.serial := rfl
@[simp] theorem onPwr_partSB (s : State) (f : PwrState → PwrState) : (onPwr s f).partSB = s.partSB := rfl
@[simp] theorem onPwr_freeCtr (s : State) (f : PwrState → PwrState) : (onPwr s f).freeCtr = s.freeCtr := rfl
@[simp] theorem onPwr_rd (s : State) (f : PwrState → PwrState) (i : Nat) : rd (onPwr s f) i = rd s i := rfl

@[simp] theorem onClk_pending (s : State) (f : ClkState → ClkState) : (onClk s f).pending = s.pending := rfl
@[simp] theorem onClk_regs (s : State) (f : ClkState → ClkState) : (onClk s f).regs = s.regs := rfl
@[simp] theorem onClk_shadow (s : State) (f : ClkState → ClkState) : (onClk s f).shadow = s.shadow := rfl
@[simp] theorem onClk_pages (s : State) (f : ClkState → ClkState) : (onClk s f).pages = s.pages := rfl
@[simp] theorem onClk_pwr (s : State) (f : ClkState → ClkState) : (onClk s f).pwr = s.pwr := rfl
@[simp] theorem onClk_clk (s : State) (f : ClkState → ClkState) :
    (onClk s f).clk = f s.clk := rfl
@[simp] theorem onClk_pins (s : State) (f : ClkState → ClkState) : (onClk s f).pins = s.pins := rfl
@[simp] theorem onClk_tap (s : State) (f : ClkState → ClkState) : (onClk s f).tap = s.tap := rfl
@[simp] theorem onClk_gc (s : State) (f : ClkState → ClkState) : (onClk s f).gc = s.gc := rfl
@[simp] theorem onClk_gen (s : State) (f : ClkState → ClkState) : (onClk s f).gen = s.gen := rfl
@[simp] theorem onClk_host (s : State) (f : ClkState → ClkState) : (onClk s f).host = s.host := rfl
@[simp] theorem onClk_inputs (s : State) (f : ClkState → ClkState) : (onClk s f).inputs = s.inputs := rfl
@[simp] theorem onClk_exc (s : State) (f : ClkState → ClkState) : (onClk s f).exc = s.exc := rfl
@[simp] theorem onClk_cores (s : State) (f : ClkState → ClkState) : (onClk s f).cores = s.cores := rfl
@[simp] theorem onClk_bands (s : State) (f : ClkState → ClkState) : (onClk s f).bands = s.bands := rfl
@[simp] theorem onClk_hkc (s : State) (f : ClkState → ClkState) : (onClk s f).hkc = s.hkc := rfl
@[simp] theorem onClk_queueEcc (s : State) (f : ClkState → ClkState) : (onClk s f).queueEcc = s.queueEcc := rfl
@[simp] theorem onClk_aout (s : State) (f : ClkState → ClkState) : (onClk s f).aout = s.aout := rfl
@[simp] theorem onClk_inCoefs (s : State) (f : ClkState → ClkState) : (onClk s f).inCoefs = s.inCoefs := rfl
@[simp] theorem onClk_chains (s : State) (f : ClkState → ClkState) : (onClk s f).chains = s.chains := rfl
@[simp] theorem onClk_flt (s : State) (f : ClkState → ClkState) : (onClk s f).flt = s.flt := rfl
@[simp] theorem onClk_time (s : State) (f : ClkState → ClkState) : (onClk s f).time = s.time := rfl
@[simp] theorem onClk_lanes (s : State) (f : ClkState → ClkState) : (onClk s f).lanes = s.lanes := rfl
@[simp] theorem onClk_ring (s : State) (f : ClkState → ClkState) : (onClk s f).ring = s.ring := rfl
@[simp] theorem onClk_adm (s : State) (f : ClkState → ClkState) : (onClk s f).adm = s.adm := rfl
@[simp] theorem onClk_addrTable (s : State) (f : ClkState → ClkState) : (onClk s f).addrTable = s.addrTable := rfl
@[simp] theorem onClk_sent (s : State) (f : ClkState → ClkState) : (onClk s f).sent = s.sent := rfl
@[simp] theorem onClk_streams (s : State) (f : ClkState → ClkState) : (onClk s f).streams = s.streams := rfl
@[simp] theorem onClk_strmSel (s : State) (f : ClkState → ClkState) : (onClk s f).strmSel = s.strmSel := rfl
@[simp] theorem onClk_vat (s : State) (f : ClkState → ClkState) : (onClk s f).vat = s.vat := rfl
@[simp] theorem onClk_cmd (s : State) (f : ClkState → ClkState) : (onClk s f).cmd = s.cmd := rfl
@[simp] theorem onClk_reams (s : State) (f : ClkState → ClkState) : (onClk s f).reams = s.reams := rfl
@[simp] theorem onClk_captSel (s : State) (f : ClkState → ClkState) : (onClk s f).captSel = s.captSel := rfl
@[simp] theorem onClk_gaps (s : State) (f : ClkState → ClkState) : (onClk s f).gaps = s.gaps := rfl
@[simp] theorem onClk_twin (s : State) (f : ClkState → ClkState) : (onClk s f).twin = s.twin := rfl
@[simp] theorem onClk_slots (s : State) (f : ClkState → ClkState) : (onClk s f).slots = s.slots := rfl
@[simp] theorem onClk_engines (s : State) (f : ClkState → ClkState) : (onClk s f).engines = s.engines := rfl
@[simp] theorem onClk_edges (s : State) (f : ClkState → ClkState) : (onClk s f).edges = s.edges := rfl
@[simp] theorem onClk_sports (s : State) (f : ClkState → ClkState) : (onClk s f).sports = s.sports := rfl
@[simp] theorem onClk_lites (s : State) (f : ClkState → ClkState) : (onClk s f).lites = s.lites := rfl
@[simp] theorem onClk_levels (s : State) (f : ClkState → ClkState) : (onClk s f).levels = s.levels := rfl
@[simp] theorem onClk_strobes (s : State) (f : ClkState → ClkState) : (onClk s f).strobes = s.strobes := rfl
@[simp] theorem onClk_cal (s : State) (f : ClkState → ClkState) : (onClk s f).cal = s.cal := rfl
@[simp] theorem onClk_nv (s : State) (f : ClkState → ClkState) : (onClk s f).nv = s.nv := rfl
@[simp] theorem onClk_fuses (s : State) (f : ClkState → ClkState) : (onClk s f).fuses = s.fuses := rfl
@[simp] theorem onClk_changes (s : State) (f : ClkState → ClkState) : (onClk s f).changes = s.changes := rfl
@[simp] theorem onClk_safe (s : State) (f : ClkState → ClkState) : (onClk s f).safe = s.safe := rfl
@[simp] theorem onClk_badBands (s : State) (f : ClkState → ClkState) : (onClk s f).badBands = s.badBands := rfl
@[simp] theorem onClk_serial (s : State) (f : ClkState → ClkState) : (onClk s f).serial = s.serial := rfl
@[simp] theorem onClk_partSB (s : State) (f : ClkState → ClkState) : (onClk s f).partSB = s.partSB := rfl
@[simp] theorem onClk_freeCtr (s : State) (f : ClkState → ClkState) : (onClk s f).freeCtr = s.freeCtr := rfl
@[simp] theorem onClk_rd (s : State) (f : ClkState → ClkState) (i : Nat) : rd (onClk s f) i = rd s i := rfl

@[simp] theorem drawn_pending (s : State) : (drawn s).pending = s.pending := rfl
@[simp] theorem drawn_regs (s : State) : (drawn s).regs = s.regs := rfl
@[simp] theorem drawn_shadow (s : State) : (drawn s).shadow = s.shadow := rfl
@[simp] theorem drawn_pages (s : State) : (drawn s).pages = s.pages := rfl
@[simp] theorem drawn_pwr (s : State) : (drawn s).pwr = s.pwr := rfl
@[simp] theorem drawn_clk (s : State) : (drawn s).clk = s.clk := rfl
@[simp] theorem drawn_pins (s : State) : (drawn s).pins = s.pins := rfl
@[simp] theorem drawn_tap (s : State) : (drawn s).tap = s.tap := rfl
@[simp] theorem drawn_gc (s : State) : (drawn s).gc = s.gc := rfl
@[simp] theorem drawn_gen (s : State) : (drawn s).gen = s.gen := rfl
@[simp] theorem drawn_host (s : State) : (drawn s).host = s.host := rfl
@[simp] theorem drawn_inputs (s : State) : (drawn s).inputs = s.inputs := rfl
@[simp] theorem drawn_exc (s : State) : (drawn s).exc = s.exc := rfl
@[simp] theorem drawn_cores (s : State) : (drawn s).cores = s.cores := rfl
@[simp] theorem drawn_bands (s : State) : (drawn s).bands = s.bands := rfl
@[simp] theorem drawn_hkc (s : State) : (drawn s).hkc = s.hkc := rfl
@[simp] theorem drawn_queueEcc (s : State) : (drawn s).queueEcc = s.queueEcc := rfl
@[simp] theorem drawn_aout (s : State) : (drawn s).aout = s.aout := rfl
@[simp] theorem drawn_inCoefs (s : State) : (drawn s).inCoefs = s.inCoefs := rfl
@[simp] theorem drawn_chains (s : State) : (drawn s).chains = s.chains := rfl
@[simp] theorem drawn_flt (s : State) : (drawn s).flt = s.flt := rfl
@[simp] theorem drawn_time (s : State) : (drawn s).time = s.time := rfl
@[simp] theorem drawn_lanes (s : State) : (drawn s).lanes = s.lanes := rfl
@[simp] theorem drawn_ring (s : State) : (drawn s).ring = s.ring := rfl
@[simp] theorem drawn_adm (s : State) : (drawn s).adm = s.adm := rfl
@[simp] theorem drawn_addrTable (s : State) : (drawn s).addrTable = s.addrTable := rfl
@[simp] theorem drawn_sent (s : State) : (drawn s).sent = s.sent := rfl
@[simp] theorem drawn_streams (s : State) : (drawn s).streams = s.streams := rfl
@[simp] theorem drawn_strmSel (s : State) : (drawn s).strmSel = s.strmSel := rfl
@[simp] theorem drawn_vat (s : State) : (drawn s).vat = s.vat := rfl
@[simp] theorem drawn_cmd (s : State) : (drawn s).cmd = s.cmd := rfl
@[simp] theorem drawn_reams (s : State) : (drawn s).reams = s.reams := rfl
@[simp] theorem drawn_captSel (s : State) : (drawn s).captSel = s.captSel := rfl
@[simp] theorem drawn_gaps (s : State) : (drawn s).gaps = s.gaps := rfl
@[simp] theorem drawn_twin (s : State) : (drawn s).twin = s.twin := rfl
@[simp] theorem drawn_slots (s : State) : (drawn s).slots = s.slots := rfl
@[simp] theorem drawn_engines (s : State) : (drawn s).engines = s.engines := rfl
@[simp] theorem drawn_edges (s : State) : (drawn s).edges = s.edges := rfl
@[simp] theorem drawn_sports (s : State) : (drawn s).sports = s.sports := rfl
@[simp] theorem drawn_lites (s : State) : (drawn s).lites = s.lites := rfl
@[simp] theorem drawn_levels (s : State) : (drawn s).levels = s.levels := rfl
@[simp] theorem drawn_strobes (s : State) : (drawn s).strobes = s.strobes := rfl
@[simp] theorem drawn_cal (s : State) : (drawn s).cal = s.cal := rfl
@[simp] theorem drawn_nv (s : State) : (drawn s).nv = s.nv := rfl
@[simp] theorem drawn_fuses (s : State) : (drawn s).fuses = s.fuses := rfl
@[simp] theorem drawn_changes (s : State) : (drawn s).changes = s.changes := rfl
@[simp] theorem drawn_safe (s : State) : (drawn s).safe = s.safe := rfl
@[simp] theorem drawn_badBands (s : State) : (drawn s).badBands = s.badBands := rfl
@[simp] theorem drawn_serial (s : State) : (drawn s).serial = s.serial := rfl
@[simp] theorem drawn_partSB (s : State) : (drawn s).partSB = s.partSB := rfl
@[simp] theorem drawn_freeCtr (s : State) : (drawn s).freeCtr = s.freeCtr + 1 := rfl

end Sys2Proof.Machine
end

