-- ==== Sys2Proof/Laws/Ops.lean ====
section
/-!
SUPPORT. The laws of the shared operations: a register, a byte of the Vat or an entry of a list read after a write; the gate of host
writes where it lets a write pass; the frame of one register write.
-/
namespace Sys2Proof.Machine

-- registers

theorem regsWf_above {s : State} (h : regsWf s = true) : sparseAbove 0 s.regs = true := by
  simp only [regsWf, sparseWf, Bool.and_eq_true] at h
  exact h.1

theorem regsWf_wr {s : State} (a : Nat) (v : Word) (h : regsWf s = true) : regsWf (wr s a v) = true :=
  sparsePut_wf a v h

/-- A register reads what was written. -/
theorem rd_wr_same {s : State} (a : Nat) (v : Word) (h : regsWf s = true) : rd (wr s a v) a = v :=
  sparseGet_put_same a v (regsWf_above h)

/-- A write leaves every other register alone. -/
theorem rd_wr_other {s : State} {a b : Nat} (v : Word) (h : b ≠ a) : rd (wr s a v) b = rd s b :=
  sparseGet_put_other v h

theorem regsBut_wr (s : State) (a : Nat) (v : Word) : RegsBut [a] s (wr s a v) := by
  intro b hb
  exact rd_wr_other v (by simpa using hb)

theorem RegsBut.refl (l : List Nat) (s : State) : RegsBut l s s := fun _ _ => rfl

theorem RegsBut.trans {l : List Nat} {s t u : State} (h : RegsBut l s t) (g : RegsBut l t u) : RegsBut l s u :=
  fun a ha => (g a ha).trans (h a ha)

theorem RegsBut.mono {l m : List Nat} {s t : State} (hl : l ⊆ m) (h : RegsBut l s t) : RegsBut m s t :=
  fun a ha => h a (fun hq => ha (hl hq))

/-- An event flag set in a page, read back. -/
theorem rd_evt {s : State} (p i : Nat) (h : regsWf s = true) :
    rd (evt s p i) (hdr p Hdr.EVT) = rd s (hdr p Hdr.EVT) ||| bitW i true :=
  rd_wr_same _ _ h

theorem regsBut_evt (s : State) (p i : Nat) : RegsBut [hdr p Hdr.EVT] s (evt s p i) := regsBut_wr s _ _

-- the Vat

/-- A byte written outside the Felt and the history rings reads back. -/
theorem vatByte_put_same {s : State} (a : Nat) (b : Byte) (h : Memory.wf s.vat = true) (hf : feltEnd s ≤ a)
    (hh : historyAt s a = none) : vatByte (vatPut s a b) a = b := by
  have hf : ¬ a < feltEnd (vatPut s a b) := Nat.not_lt.mpr hf
  have hh : historyAt (vatPut s a b) a = none := hh
  simp only [Memory.wf, sparseWf, Bool.and_eq_true] at h
  simp only [vatByte, hf, if_false, hh]
  exact sparseGet_put_same a b h.1

theorem strm_cfg_off : ∀ i, i < 64 → 0x40 ≤ offOf (STRM.CFG i) := by decide

theorem feltEnd_congr {s t : State} (hg : ∀ a, 0x40 ≤ offOf a → rd t a = rd s a) : feltEnd t = feltEnd s := by
  unfold feltEnd rdf; rw [hg VAT.FELT_SIZE (by decide)]

theorem reamEnd_congr {s t : State} (hg : ∀ a, 0x40 ≤ offOf a → rd t a = rd s a) : reamEnd t = reamEnd s := by
  unfold reamEnd rdf; rw [feltEnd_congr hg, hg VAT.REAM_SIZE (by decide)]

theorem quireSpace_congr {s t : State} (hg : ∀ a, 0x40 ≤ offOf a → rd t a = rd s a) {i : Nat} (hi : i < 64) :
    quireSpace t i = quireSpace s i := by
  unfold quireSpace strmQ rdf; rw [hg (STRM.CFG i) (strm_cfg_off i hi)]

theorem feltByte_congr {s t : State} (hs : ∀ i, strmOf t i = strmOf s i)
    (hg : ∀ a, 0x40 ≤ offOf a → rd t a = rd s a) (a : Nat) : feltByte t a = feltByte s a := by
  have e : ∀ i j, i < 64 → quireAt t i j = quireAt s i j := fun i j hi => by
    unfold quireAt; rw [hs i, quireSpace_congr hg hi]
  unfold feltByte
  simp only [hs]
  split
  · rfl
  · rename_i i hi
    have : i < 64 := by simpa using List.mem_of_find?_eq_some hi
    rw [quireSpace_congr hg this, e i _ this]

theorem historyAt_congr {s t : State} (a : Nat) (he : reamEnd t = reamEnd s) (hr : t.reams = s.reams) :
    historyAt t a = historyAt s a := by
  simp only [historyAt, he, hr]

theorem vatByte_of {s t : State} (a : Nat) (hf : feltEnd t = feltEnd s) (hb : feltByte t a = feltByte s a)
    (hh : historyAt t a = historyAt s a) (hv : t.vat = s.vat) : vatByte t a = vatByte s a := by
  simp only [vatByte, hf, hb, hh, hv]

theorem strmOf_congr {s t : State} (hs : t.streams = s.streams) (i : Nat) : strmOf t i = strmOf s i := by
  unfold strmOf; rw [hs]

/-- What the byte at an address of the Vat depends on: the stored bytes, the streams and reams, and no page header. -/
theorem vatByte_congr {s t : State} (hv : t.vat = s.vat) (hs : t.streams = s.streams) (hr : t.reams = s.reams)
    (hg : ∀ a, 0x40 ≤ offOf a → rd t a = rd s a) (a : Nat) : vatByte t a = vatByte s a :=
  vatByte_of a (feltEnd_congr hg) (feltByte_congr (strmOf_congr hs) hg a) (historyAt_congr a (reamEnd_congr hg) hr) hv

theorem vatByte_put_other {s : State} {a c : Nat} (b : Byte) (h : c ≠ a) : vatByte (vatPut s a b) c = vatByte s c := by
  have e : sparseGet (vatPut s a b).vat 0 c = sparseGet s.vat 0 c := sparseGet_put_other b h
  have eh : historyAt (vatPut s a b) c = historyAt s c := rfl
  have ef : feltByte (vatPut s a b) c = feltByte s c := rfl
  have en : feltEnd (vatPut s a b) = feltEnd s := rfl
  simp only [vatByte, e, eh, ef, en]

/-- A write to the Vat keeps its canonical form. -/
theorem vatPut_wf {s : State} (a : Nat) (b : Byte) (h : Memory.wf s.vat = true) : Memory.wf (vatPut s a b).vat = true :=
  sparsePut_wf (d := fun _ => (0 : Byte)) a b h

-- entries of lists

theorem getD_modify_same {α : Type} {l : List α} {i : Nat} (f : α → α) (d : α) (h : i < l.length) :
    (l.modify i f).getD i d = f (l.getD i d) := by
  simp [List.getD_eq_getElem?_getD, List.getElem?_eq_getElem h]

theorem getD_modify_other {α : Type} {l : List α} {i j : Nat} (f : α → α) (d : α) (h : j ≠ i) :
    (l.modify i f).getD j d = l.getD j d := by
  simp [List.getD_eq_getElem?_getD, Ne.symm h]

theorem inputOf_same {s : State} {ch : Nat} (f : InputState → InputState) (hs : Shaped s) (h : ch < 128) :
    inputOf (onInput s ch f) ch = f (inputOf s ch) := getD_modify_same f {} (hs.inputs ▸ h)
theorem inputOf_other {s : State} {ch o : Nat} (f : InputState → InputState) (h : o ≠ ch) :
    inputOf (onInput s ch f) o = inputOf s o := getD_modify_other f {} h

theorem excOf_same {s : State} {k : Nat} (f : ExcState → ExcState) (hs : Shaped s) (h : k < 16) :
    excOf (onExc s k f) k = f (excOf s k) := getD_modify_same f {} (hs.exc ▸ h)
theorem excOf_other {s : State} {k o : Nat} (f : ExcState → ExcState) (h : o ≠ k) :
    excOf (onExc s k f) o = excOf s o := getD_modify_other f {} h

theorem coreOf_same {s : State} {q : Nat} (f : CoreState → CoreState) (hs : Shaped s) (h : q < 32) :
    coreOf (onCore s q f) q = f (coreOf s q) := getD_modify_same f {} (hs.cores ▸ h)
theorem coreOf_other {s : State} {q o : Nat} (f : CoreState → CoreState) (h : o ≠ q) :
    coreOf (onCore s q f) o = coreOf s o := getD_modify_other f {} h

theorem bandOf_same {s : State} {a : Nat} (f : BandState → BandState) (hs : Shaped s) (h : a < 96) :
    bandOf (onBand s a f) a = f (bandOf s a) := getD_modify_same f {} (hs.bands ▸ h)
theorem bandOf_other {s : State} {a o : Nat} (f : BandState → BandState) (h : o ≠ a) :
    bandOf (onBand s a f) o = bandOf s o := getD_modify_other f {} h

theorem chainOf_same {s : State} {c : Nat} (f : ChainState → ChainState) (hs : Shaped s) (h : c < 320) :
    chainOf (onChain s c f) c = f (chainOf s c) := getD_modify_same f {} (hs.chains ▸ h)
theorem chainOf_other {s : State} {c o : Nat} (f : ChainState → ChainState) (h : o ≠ c) :
    chainOf (onChain s c f) o = chainOf s o := getD_modify_other f {} h

theorem slotOf_same {s : State} {r : Nat} (f : SlotState → SlotState) (hs : Shaped s) (h : r < 48) :
    slotOf (onSlot s r f) r = f (slotOf s r) := getD_modify_same f {} (hs.slots ▸ h)
theorem slotOf_other {s : State} {r o : Nat} (f : SlotState → SlotState) (h : o ≠ r) :
    slotOf (onSlot s r f) o = slotOf s o := getD_modify_other f {} h

theorem engOf_same {s : State} {k : Nat} (f : EngineState → EngineState) (hs : Shaped s) (h : k < 12) :
    engOf (onEng s k f) k = f (engOf s k) := getD_modify_same f {} (hs.engines ▸ h)
theorem engOf_other {s : State} {k o : Nat} (f : EngineState → EngineState) (h : o ≠ k) :
    engOf (onEng s k f) o = engOf s o := getD_modify_other f {} h

theorem liteOf_same {s : State} {x : Nat} (f : LiteState → LiteState) (hs : Shaped s) (h : x < 8) :
    liteOf (onLite s x f) x = f (liteOf s x) := getD_modify_same f {} (hs.lites ▸ h)
theorem liteOf_other {s : State} {x o : Nat} (f : LiteState → LiteState) (h : o ≠ x) :
    liteOf (onLite s x f) o = liteOf s o := getD_modify_other f {} h

theorem strobeOf_same {s : State} {x : Nat} (f : StrobeState → StrobeState) (hs : Shaped s) (h : x < 8) :
    strobeOf (onStrobe s x f) x = f (strobeOf s x) := getD_modify_same f {} (hs.strobes ▸ h)
theorem strobeOf_other {s : State} {x o : Nat} (f : StrobeState → StrobeState) (h : o ≠ x) :
    strobeOf (onStrobe s x f) o = strobeOf s o := getD_modify_other f {} h

theorem strmOf_same {s : State} {i : Nat} (f : StreamState → StreamState) (hs : Shaped s) (h : i < 64) :
    strmOf (onStrm s i f) i = f (strmOf s i) := getD_modify_same f {} (hs.streams ▸ h)
theorem strmOf_other {s : State} {i o : Nat} (f : StreamState → StreamState) (h : o ≠ i) :
    strmOf (onStrm s i f) o = strmOf s o := getD_modify_other f {} h

theorem reamOf_same {s : State} {r : Nat} (f : ReamState → ReamState) (hs : Shaped s) (h : r < 16) :
    reamOf (onReam s r f) r = f (reamOf s r) := getD_modify_same f {} (hs.reams ▸ h)
theorem reamOf_other {s : State} {r o : Nat} (f : ReamState → ReamState) (h : o ≠ r) :
    reamOf (onReam s r f) o = reamOf s o := getD_modify_other f {} h

theorem edgeOf_same {s : State} {n : Nat} (f : EdgeState → EdgeState) (hs : Shaped s) (h : n < 64) :
    edgeOf (onEdge s n f) n = f (edgeOf s n) := getD_modify_same f {} (hs.edges ▸ h)
theorem edgeOf_other {s : State} {n o : Nat} (f : EdgeState → EdgeState) (h : o ≠ n) :
    edgeOf (onEdge s n f) o = edgeOf s o := getD_modify_other f {} h

theorem sprtOf_same {s : State} {p : Nat} (f : SprtState → SprtState) (hs : Shaped s) (h : p < 8) :
    sprtOf (onSprt s p f) p = f (sprtOf s p) := getD_modify_same f {} (hs.sports ▸ h)
theorem sprtOf_other {s : State} {p o : Nat} (f : SprtState → SprtState) (h : o ≠ p) :
    sprtOf (onSprt s p f) o = sprtOf s o := getD_modify_other f {} h

theorem pathIdx_lt (p : Path) : pathIdx p < 9 := by
  cases p with
  | spi => decide
  | sess i => exact Nat.succ_lt_succ i.isLt

theorem pathIdx_inj {p q : Path} (h : pathIdx p = pathIdx q) : p = q := by
  cases p with
  | spi => cases q with
    | spi => rfl
    | sess i => simp [pathIdx] at h
  | sess i => cases q with
    | spi => simp [pathIdx] at h
    | sess j =>
      simp only [pathIdx, Nat.add_right_cancel_iff] at h
      rw [Fin.ext h]

theorem pathOf_same {s : State} (p : Path) (f : PathState → PathState) (hs : Shaped s) :
    pathOf (onPath s p f) p = f (pathOf s p) := getD_modify_same f {} (hs.host_paths ▸ pathIdx_lt p)
theorem pathOf_other {s : State} {p q : Path} (f : PathState → PathState) (h : q ≠ p) :
    pathOf (onPath s p f) q = pathOf s q := getD_modify_other f {} (fun e => h (pathIdx_inj e))

-- the common frames of commands

@[simp] theorem when_true (s : State) (f : State → State) : when true s f = f s := rfl
@[simp] theorem when_false (s : State) (f : State → State) : when false s f = s := rfl

/-- A check that does not fail lets the function act. -/
@[simp] theorem checked_none (s : State) (w : Who) (a : Nat) (act : State → State) : checked s w a none act = act s := rfl

/-- A refused check reports the reason and does nothing else. -/
@[simp] theorem checked_some (s : State) (w : Who) (a : Nat) (r : Rej) (act : State → State) :
    checked s w a (some r) act = refuse s w a r := rfl

/-- The gate lets a host write pass. -/
theorem gated_pass {s : State} {w : Who} {a : Nat} (act : State → State) (hw : heard s w = true)
    (hg : gateRej s w a = none) : gated s w a act = act s := by
  simp [gated, hw, hg]

theorem hostAct_pass {s : State} {w : Who} {a : Nat} {v : Word} {c : Option Rej} (act : State → State)
    (hw : heard s w = true) (hg : gateRej s w a = none) (hc : c = none) (he : entryFails s w a = false) :
    hostAct s w a v c act = act (noteWrite s w a v) := by
  simp [hostAct, entered, hw, hg, hc, he, firstSome]

end Sys2Proof.Machine
end

