-- ==== Sys2Proof/Laws/Regs.lean ====
section
/-!
SUPPORT. Reading registers: an update of another part leaves every register as it reads, and a counter or an event flag changes
its own register only.
-/
namespace Sys2Proof.Machine

/-- States with the same register file read the same. -/
theorem rd_congr {s t : State} (h : t.regs = s.regs) (a : Nat) : rd t a = rd s a := by simp only [rd, h]

theorem regsBut_of_same {s t : State} (l : List Nat) (h : t.regs = s.regs) : RegsBut l s t := fun a _ => rd_congr h a

theorem regsBut_then {s t u : State} {a : Nat} {v : Word} {l : List Nat} (h : RegsBut l s t) (ha : a ∈ l)
    (hu : u = wr t a v) : RegsBut l s u := by
  intro b hb
  have hne : b ≠ a := fun e => hb (by rw [e]; exact ha)
  rw [hu, rd_wr_other v hne]
  exact h b hb

theorem rd_bumpSat_same {s : State} (a lo n k : Nat) (h : regsWf s = true) :
    rd (bumpSat s a lo n k) a = setFld (rd s a) lo n (min (rdf s a lo n + k) (2 ^ n - 1)) := rd_wr_same _ _ h

theorem rd_bumpSat_other {s : State} {a b : Nat} (lo n k : Nat) (h : b ≠ a) : rd (bumpSat s a lo n k) b = rd s b :=
  rd_wr_other _ h

theorem rd_bumpWrap_same {s : State} (a lo n k : Nat) (h : regsWf s = true) :
    rd (bumpWrap s a lo n k) a = setFld (rd s a) lo n (rdf s a lo n + k) := rd_wr_same _ _ h

theorem rd_bumpWrap_other {s : State} {a b : Nat} (lo n k : Nat) (h : b ≠ a) : rd (bumpWrap s a lo n k) b = rd s b :=
  rd_wr_other _ h

theorem rd_evt_other {s : State} {b : Nat} (p i : Nat) (h : b ≠ hdr p Hdr.EVT) : rd (evt s p i) b = rd s b := rd_wr_other _ h

theorem regsBut_evtIf (c : Bool) (s : State) (p i : Nat) : RegsBut [hdr p Hdr.EVT] s (evtIf c s p i) := by
  cases c
  · exact RegsBut.refl _ _
  · exact regsBut_evt s p i

theorem regsWf_evt {s : State} (p i : Nat) (h : regsWf s = true) : regsWf (evt s p i) = true := regsWf_wr _ _ h

theorem regsWf_bumpSat {s : State} (a lo n k : Nat) (h : regsWf s = true) : regsWf (bumpSat s a lo n k) = true :=
  regsWf_wr _ _ h

theorem regsWf_congr {s t : State} (h : t.regs = s.regs) : regsWf t = regsWf s := by simp only [regsWf, h]

@[simp] theorem rd_vatPut (s : State) (a : Nat) (b : Byte) (rg : Nat) :
    rd (vatPut s a b) rg = rd s rg := rfl
@[simp] theorem regsWf_vatPut (s : State) (a : Nat) (b : Byte) :
    regsWf (vatPut s a b) = regsWf s := rfl
@[simp] theorem rd_onPage (s : State) (p : Nat) (f : PageInfo → PageInfo) (rg : Nat) :
    rd (onPage s p f) rg = rd s rg := rfl
@[simp] theorem regsWf_onPage (s : State) (p : Nat) (f : PageInfo → PageInfo) :
    regsWf (onPage s p f) = regsWf s := rfl
@[simp] theorem rd_onPath (s : State) (p : Path) (f : PathState → PathState) (rg : Nat) :
    rd (onPath s p f) rg = rd s rg := rfl
@[simp] theorem regsWf_onPath (s : State) (p : Path) (f : PathState → PathState) :
    regsWf (onPath s p f) = regsWf s := rfl
@[simp] theorem rd_onHost (s : State) (f : HostState → HostState) (rg : Nat) :
    rd (onHost s f) rg = rd s rg := rfl
@[simp] theorem regsWf_onHost (s : State) (f : HostState → HostState) :
    regsWf (onHost s f) = regsWf s := rfl
@[simp] theorem rd_onInput (s : State) (ch : Nat) (f : InputState → InputState) (rg : Nat) :
    rd (onInput s ch f) rg = rd s rg := rfl
@[simp] theorem regsWf_onInput (s : State) (ch : Nat) (f : InputState → InputState) :
    regsWf (onInput s ch f) = regsWf s := rfl
@[simp] theorem rd_onExc (s : State) (k : Nat) (f : ExcState → ExcState) (rg : Nat) :
    rd (onExc s k f) rg = rd s rg := rfl
@[simp] theorem regsWf_onExc (s : State) (k : Nat) (f : ExcState → ExcState) :
    regsWf (onExc s k f) = regsWf s := rfl
@[simp] theorem rd_onLane (s : State) (l : Lane) (f : LaneState → LaneState) (rg : Nat) :
    rd (onLane s l f) rg = rd s rg := rfl
@[simp] theorem regsWf_onLane (s : State) (l : Lane) (f : LaneState → LaneState) :
    regsWf (onLane s l f) = regsWf s := rfl
@[simp] theorem rd_onChain (s : State) (c : Nat) (f : ChainState → ChainState) (rg : Nat) :
    rd (onChain s c f) rg = rd s rg := rfl
@[simp] theorem regsWf_onChain (s : State) (c : Nat) (f : ChainState → ChainState) :
    regsWf (onChain s c f) = regsWf s := rfl
@[simp] theorem rd_onCore (s : State) (q : Nat) (f : CoreState → CoreState) (rg : Nat) :
    rd (onCore s q f) rg = rd s rg := rfl
@[simp] theorem regsWf_onCore (s : State) (q : Nat) (f : CoreState → CoreState) :
    regsWf (onCore s q f) = regsWf s := rfl
@[simp] theorem rd_onBand (s : State) (ain : Nat) (f : BandState → BandState) (rg : Nat) :
    rd (onBand s ain f) rg = rd s rg := rfl
@[simp] theorem regsWf_onBand (s : State) (ain : Nat) (f : BandState → BandState) :
    regsWf (onBand s ain f) = regsWf s := rfl
@[simp] theorem rd_onAo (s : State) (x : Nat) (f : AoState → AoState) (rg : Nat) :
    rd (onAo s x f) rg = rd s rg := rfl
@[simp] theorem regsWf_onAo (s : State) (x : Nat) (f : AoState → AoState) :
    regsWf (onAo s x f) = regsWf s := rfl
@[simp] theorem rd_onSlot (s : State) (r : Nat) (f : SlotState → SlotState) (rg : Nat) :
    rd (onSlot s r f) rg = rd s rg := rfl
@[simp] theorem regsWf_onSlot (s : State) (r : Nat) (f : SlotState → SlotState) :
    regsWf (onSlot s r f) = regsWf s := rfl
@[simp] theorem rd_onEng (s : State) (k : Nat) (f : EngineState → EngineState) (rg : Nat) :
    rd (onEng s k f) rg = rd s rg := rfl
@[simp] theorem regsWf_onEng (s : State) (k : Nat) (f : EngineState → EngineState) :
    regsWf (onEng s k f) = regsWf s := rfl
@[simp] theorem rd_onGc (s : State) (g : Nat) (f : Ball → Ball) (rg : Nat) :
    rd (onGc s g f) rg = rd s rg := rfl
@[simp] theorem regsWf_onGc (s : State) (g : Nat) (f : Ball → Ball) :
    regsWf (onGc s g f) = regsWf s := rfl
@[simp] theorem rd_onGen (s : State) (g : Nat) (f : Ball → Ball) (rg : Nat) :
    rd (onGen s g f) rg = rd s rg := rfl
@[simp] theorem regsWf_onGen (s : State) (g : Nat) (f : Ball → Ball) :
    regsWf (onGen s g f) = regsWf s := rfl
@[simp] theorem rd_onLite (s : State) (x : Nat) (f : LiteState → LiteState) (rg : Nat) :
    rd (onLite s x f) rg = rd s rg := rfl
@[simp] theorem regsWf_onLite (s : State) (x : Nat) (f : LiteState → LiteState) :
    regsWf (onLite s x f) = regsWf s := rfl
@[simp] theorem rd_onStrobe (s : State) (x : Nat) (f : StrobeState → StrobeState) (rg : Nat) :
    rd (onStrobe s x f) rg = rd s rg := rfl
@[simp] theorem regsWf_onStrobe (s : State) (x : Nat) (f : StrobeState → StrobeState) :
    regsWf (onStrobe s x f) = regsWf s := rfl
@[simp] theorem rd_onStrm (s : State) (i : Nat) (f : StreamState → StreamState) (rg : Nat) :
    rd (onStrm s i f) rg = rd s rg := rfl
@[simp] theorem regsWf_onStrm (s : State) (i : Nat) (f : StreamState → StreamState) :
    regsWf (onStrm s i f) = regsWf s := rfl
@[simp] theorem rd_onReam (s : State) (r : Nat) (f : ReamState → ReamState) (rg : Nat) :
    rd (onReam s r f) rg = rd s rg := rfl
@[simp] theorem regsWf_onReam (s : State) (r : Nat) (f : ReamState → ReamState) :
    regsWf (onReam s r f) = regsWf s := rfl
@[simp] theorem rd_onTime (s : State) (f : TimeState → TimeState) (rg : Nat) :
    rd (onTime s f) rg = rd s rg := rfl
@[simp] theorem regsWf_onTime (s : State) (f : TimeState → TimeState) :
    regsWf (onTime s f) = regsWf s := rfl
@[simp] theorem rd_onEdge (s : State) (n : Nat) (f : EdgeState → EdgeState) (rg : Nat) :
    rd (onEdge s n f) rg = rd s rg := rfl
@[simp] theorem regsWf_onEdge (s : State) (n : Nat) (f : EdgeState → EdgeState) :
    regsWf (onEdge s n f) = regsWf s := rfl
@[simp] theorem rd_onSprt (s : State) (p : Nat) (f : SprtState → SprtState) (rg : Nat) :
    rd (onSprt s p f) rg = rd s rg := rfl
@[simp] theorem regsWf_onSprt (s : State) (p : Nat) (f : SprtState → SprtState) :
    regsWf (onSprt s p f) = regsWf s := rfl
@[simp] theorem rd_onSafe (s : State) (f : SafeState → SafeState) (rg : Nat) :
    rd (onSafe s f) rg = rd s rg := rfl
@[simp] theorem regsWf_onSafe (s : State) (f : SafeState → SafeState) :
    regsWf (onSafe s f) = regsWf s := rfl
@[simp] theorem rd_onTwin (s : State) (f : TwinState → TwinState) (rg : Nat) :
    rd (onTwin s f) rg = rd s rg := rfl
@[simp] theorem regsWf_onTwin (s : State) (f : TwinState → TwinState) :
    regsWf (onTwin s f) = regsWf s := rfl
@[simp] theorem rd_onRing (s : State) (f : RingState → RingState) (rg : Nat) :
    rd (onRing s f) rg = rd s rg := rfl
@[simp] theorem regsWf_onRing (s : State) (f : RingState → RingState) :
    regsWf (onRing s f) = regsWf s := rfl
@[simp] theorem rd_onAdm (s : State) (f : AdmState → AdmState) (rg : Nat) :
    rd (onAdm s f) rg = rd s rg := rfl
@[simp] theorem regsWf_onAdm (s : State) (f : AdmState → AdmState) :
    regsWf (onAdm s f) = regsWf s := rfl
@[simp] theorem rd_onPwr (s : State) (f : PwrState → PwrState) (rg : Nat) :
    rd (onPwr s f) rg = rd s rg := rfl
@[simp] theorem regsWf_onPwr (s : State) (f : PwrState → PwrState) :
    regsWf (onPwr s f) = regsWf s := rfl
@[simp] theorem rd_onClk (s : State) (f : ClkState → ClkState) (rg : Nat) :
    rd (onClk s f) rg = rd s rg := rfl
@[simp] theorem regsWf_onClk (s : State) (f : ClkState → ClkState) :
    regsWf (onClk s f) = regsWf s := rfl
@[simp] theorem rd_drawn (s : State) (rg : Nat) : rd (drawn s) rg = rd s rg := rfl
@[simp] theorem regsWf_drawn (s : State) : regsWf (drawn s) = regsWf s := rfl

end Sys2Proof.Machine
end

