-- ==== Sys2Proof/Laws/ShapeOps.lean ====
section
/-!
SUPPORT. Every operation of Machine/Ops.lean keeps the lengths of the lists of fixed size (Shaped).
-/
set_option linter.all false

namespace Sys2Proof.Machine

theorem shaped_wr64 (s : State) (lo v : Nat) (h0 : Shaped s) :
    Shaped (wr64 s lo v) := by
  unfold wr64
  repeat'
    first
    | with_reducible assumption | with_reducible apply shaped_wr

theorem shaped_bumpSat (s : State) (a lo n k : Nat) (h0 : Shaped s) :
    Shaped (bumpSat s a lo n k) := by
  unfold bumpSat
  repeat'
    first
    | with_reducible assumption | with_reducible apply shaped_wr

theorem shaped_bumpWrap (s : State) (a lo n k : Nat) (h0 : Shaped s) :
    Shaped (bumpWrap s a lo n k) := by
  unfold bumpWrap
  repeat'
    first
    | with_reducible assumption | with_reducible apply shaped_wr

theorem shaped_drawn (s : State) (h0 : Shaped s) :
    Shaped (drawn s) := by
  unfold drawn
  repeat'
    first
    | with_reducible assumption | with_reducible apply Shaped.set_freeCtr

theorem shaped_evt (s : State) (page i : Nat) (h0 : Shaped s) :
    Shaped (evt s page i) := by
  unfold evt
  repeat'
    first
    | with_reducible assumption | with_reducible apply shaped_wr

theorem shaped_evtIf (c : Bool) (s : State) (page i : Nat) (h0 : Shaped s) :
    Shaped (evtIf c s page i) := by
  unfold evtIf
  repeat'
    first
    | with_reducible assumption | with_reducible apply shaped_ite | with_reducible apply shaped_evt

theorem shaped_onPage (s : State) (p : Nat) (f : PageInfo → PageInfo) (h0 : Shaped s) :
    Shaped (onPage s p f) := by
  unfold onPage
  repeat'
    first
    | with_reducible assumption | with_reducible apply Shaped.set_pages

theorem shaped_onPath (s : State) (p : Path) (f : PathState → PathState) (h0 : Shaped s) :
    Shaped (onPath s p f) := by
  unfold onPath
  repeat'
    first
    | with_reducible assumption
    | (with_reducible refine Shaped.set_host ?_ (fun hb => by simp [hb.host_paths, hb.host_sessions]))

theorem shaped_refuseOn (s : State) (w : Who) (p a : Nat) (r : Rej) (h0 : Shaped s) :
    Shaped (refuseOn s w p a r) := by
  unfold refuseOn
  dsimp only
  repeat'
    first
    | with_reducible assumption | with_reducible intro _ | with_reducible apply shaped_ite
    | with_reducible apply shaped_onPage | with_reducible apply shaped_wr | with_reducible apply shaped_onPath
    | with_reducible apply shaped_bumpSat | split | dsimp only

theorem shaped_refuse (s : State) (w : Who) (a : Nat) (r : Rej) (h0 : Shaped s) :
    Shaped (refuse s w a r) := by
  unfold refuse
  repeat'
    first
    | with_reducible assumption | with_reducible apply shaped_ite | with_reducible apply shaped_refuseOn

theorem shaped_checked (s : State) (w : Who) (a : Nat) (c : Option Rej) (act : State → State) (hact : ∀ x, Shaped x →
    Shaped (act x)) (h0 : Shaped s) :
    Shaped (checked s w a c act) := by
  unfold checked
  repeat'
    first
    | with_reducible assumption | with_reducible apply shaped_refuse | with_reducible apply hact | split

theorem shaped_faultSrc (s : State) (i : Nat) (h0 : Shaped s) :
    Shaped (faultSrc s i) := by
  unfold faultSrc
  repeat'
    first
    | with_reducible assumption | with_reducible apply shaped_wr

theorem shaped_queueError (s : State) (q corr unc : Nat) (h0 : Shaped s) :
    Shaped (queueError s q corr unc) := by
  unfold queueError
  dsimp only
  repeat'
    first
    | with_reducible assumption | with_reducible apply shaped_bumpSat | with_reducible apply shaped_evtIf
    | with_reducible apply Shaped.set_queueEcc | dsimp only

theorem shaped_fromQueue (s : State) (q : Nat) (e : WordErr) (w lost : Word) (h0 : Shaped s) :
    Shaped (fromQueue s q e w lost).1 := by
  unfold fromQueue
  repeat'
    first
    | with_reducible assumption | with_reducible apply shaped_queueError | with_reducible apply shaped_drawn
    | split

theorem shaped_readStamp (s : State) (e : WordErr) (stamp : Nat) (h0 : Shaped s) :
    Shaped (readStamp s e stamp).1 := by
  unfold readStamp
  repeat'
    first
    | with_reducible assumption | with_reducible apply shaped_queueError | with_reducible apply shaped_drawn
    | split

end Sys2Proof.Machine
end

