-- ==== Sys2Proof/Laws/ShapeAccess.lean ====
section
/-!
SUPPORT. Every operation of Machine/Access.lean keeps the lengths of the lists of fixed size (Shaped).
-/
set_option linter.all false

namespace Sys2Proof.Machine

theorem shaped_changeEntry (s : State) (kind level : Nat) (p : Path) (top w4 : Nat) (old new : Word) (h0 : Shaped s) :
    Shaped (changeEntry s kind level p top w4 old new) := by
  unfold changeEntry
  dsimp only
  repeat'
    first
    | with_reducible assumption | with_reducible apply shaped_ite | with_reducible apply shaped_evtIf
    | with_reducible apply shaped_evt | with_reducible apply Shaped.set_changes | dsimp only

theorem shaped_noteWrite (s : State) (w : Who) (a : Nat) (v : Word) (h0 : Shaped s) :
    Shaped (noteWrite s w a v) := by
  unfold noteWrite
  repeat'
    first
    | with_reducible assumption | with_reducible apply shaped_ite | with_reducible apply shaped_changeEntry
    | split

theorem shaped_entryRefused (s : State) (w : Who) (a : Nat) (h0 : Shaped s) :
    Shaped (entryRefused s w a) := by
  unfold entryRefused
  repeat'
    first
    | with_reducible assumption | with_reducible apply shaped_evt | with_reducible apply shaped_refuseOn
    | with_reducible apply shaped_refuse

theorem shaped_entered (s : State) (w : Who) (a : Nat) (v : Word) (act : State → State) (hact : ∀ x, Shaped x →
    Shaped (act x)) (h0 : Shaped s) :
    Shaped (entered s w a v act) := by
  unfold entered
  repeat'
    first
    | with_reducible assumption | with_reducible apply shaped_ite | with_reducible apply shaped_entryRefused
    | with_reducible apply shaped_noteWrite | with_reducible apply hact

theorem shaped_gated (s : State) (w : Who) (a : Nat) (act : State → State) (hact : ∀ x, Shaped x → Shaped (act x))
    (h0 : Shaped s) :
    Shaped (gated s w a act) := by
  unfold gated
  repeat'
    first
    | with_reducible assumption | with_reducible intro _ | with_reducible apply shaped_ite
    | with_reducible apply shaped_checked | with_reducible apply hact

theorem shaped_hostAct (s : State) (w : Who) (a : Nat) (v : Word) (c : Option Rej) (act : State → State) (hact : ∀ x,
    Shaped x → Shaped (act x)) (h0 : Shaped s) :
    Shaped (hostAct s w a v c act) := by
  unfold hostAct
  repeat'
    first
    | with_reducible assumption | with_reducible intro _ | with_reducible apply shaped_ite
    | with_reducible apply shaped_checked | with_reducible apply shaped_entered | with_reducible apply hact
    | dsimp only

theorem shaped_lapse (s : State) (p : Path) (h0 : Shaped s) :
    Shaped (lapse s p) := by
  unfold lapse
  dsimp only
  repeat'
    first
    | with_reducible assumption | with_reducible intro _ | with_reducible apply shaped_ite
    | with_reducible apply shaped_changeEntry | with_reducible apply shaped_onPath | dsimp only

end Sys2Proof.Machine
end

