-- ==== Sys2Proof/Laws/ShapeFront.lean ====
section
/-!
SUPPORT. Every operation of Machine/Front.lean keeps the lengths of the lists of fixed size (Shaped).
-/
set_option linter.all false

namespace Sys2Proof.Machine

theorem shaped_onInput (s : State) (ch : Nat) (f : InputState → InputState) (h0 : Shaped s) :
    Shaped (onInput s ch f) := by
  unfold onInput
  repeat'
    first
    | with_reducible assumption
    | (with_reducible refine Shaped.set_inputs ?_ (fun hb => by simpa using hb.inputs))

theorem shaped_onExc (s : State) (k : Nat) (f : ExcState → ExcState) (h0 : Shaped s) :
    Shaped (onExc s k f) := by
  unfold onExc
  repeat'
    first
    | with_reducible assumption | (with_reducible refine Shaped.set_exc ?_ (fun hb => by simpa using hb.exc))

theorem shaped_excChange (s : State) (k n : Nat) (h0 : Shaped s) :
    Shaped (excChange s k n) := by
  unfold excChange
  repeat'
    first
    | with_reducible assumption | with_reducible intro _ | with_reducible apply shaped_onExc | dsimp only

theorem shaped_endBreak (s : State) (ch : Nat) (h0 : Shaped s) :
    Shaped (endBreak s ch) := by
  unfold endBreak
  repeat'
    first
    | with_reducible assumption | with_reducible intro _ | with_reducible apply shaped_evt
    | with_reducible apply shaped_onInput | dsimp only

theorem shaped_rawSample (s : State) (ch n : Nat) (c : Conversion) (h0 : Shaped s) :
    Shaped (rawSample s ch n c).1 := by
  unfold rawSample
  dsimp only
  repeat'
    first
    | with_reducible assumption | with_reducible intro _ | with_reducible apply shaped_ite
    | with_reducible apply shaped_ite_fst | with_reducible apply shaped_endBreak
    | with_reducible apply shaped_onExc | with_reducible apply shaped_onInput
    | with_reducible apply shaped_evtIf | with_reducible apply shaped_evt | with_reducible apply shaped_bumpSat
    | with_reducible apply shaped_wr | dsimp only

theorem shaped_fqCommitted (s0 s : State) (q n : Nat) (h0 : Shaped s) :
    Shaped (fqCommitted s0 s q n) := by
  unfold fqCommitted
  dsimp only
  repeat'
    first
    | with_reducible assumption | with_reducible intro _ | with_reducible apply shaped_ite
    | with_reducible apply shaped_foldl | with_reducible apply shaped_onInput
    | with_reducible apply shaped_excChange | dsimp only

theorem shaped_when (c : Bool) (s : State) (f : State → State) (hf : ∀ x, Shaped x → Shaped (f x)) (h0 : Shaped s) :
    Shaped (when c s f) := by
  unfold when
  repeat'
    first
    | with_reducible assumption | with_reducible apply shaped_ite | with_reducible apply hf

theorem shaped_execRangeStep (ch : Fin 128) (s : State) (h0 : Shaped s) :
    ∃ s', execRangeStep ch s = .next s' ∧ Shaped s' := by
  refine ⟨_, rfl, ?_⟩
  repeat'
    first
    | with_reducible assumption | with_reducible intro _ | with_reducible apply shaped_when
    | with_reducible apply shaped_onInput | dsimp only

theorem shaped_execBreakEnd (ch : Fin 128) (s : State) (h0 : Shaped s) :
    ∃ s', execBreakEnd ch s = .next s' ∧ Shaped s' := by
  refine ⟨_, rfl, ?_⟩
  repeat'
    first
    | with_reducible assumption | with_reducible intro _ | with_reducible apply shaped_when
    | with_reducible apply shaped_endBreak | dsimp only

theorem shaped_execBurnOutTest (ch : Fin 128) (moved : Bool) (s : State) (h0 : Shaped s) :
    ∃ s', execBurnOutTest ch moved s = .next s' ∧ Shaped s' := by
  refine ⟨_, rfl, ?_⟩
  repeat'
    first
    | with_reducible assumption | with_reducible intro _ | with_reducible apply shaped_when
    | with_reducible apply shaped_onInput | dsimp only

theorem shaped_execSwapPhase (ch : Fin 128) (s : State) (h0 : Shaped s) :
    ∃ s', execSwapPhase ch s = .next s' ∧ Shaped s' := by
  refine ⟨_, rfl, ?_⟩
  repeat'
    first
    | with_reducible assumption | with_reducible intro _ | with_reducible apply shaped_when
    | with_reducible apply shaped_onInput | dsimp only

theorem shaped_execExcSettleEnd (k : Fin 16) (s : State) (h0 : Shaped s) :
    ∃ s', execExcSettleEnd k s = .next s' ∧ Shaped s' := by
  refine ⟨_, rfl, ?_⟩
  repeat'
    first
    | with_reducible assumption | with_reducible intro _ | with_reducible apply shaped_when
    | with_reducible apply shaped_onExc | dsimp only

theorem shaped_execExcitationFault (k : Fin 16) (f : ExcFault) (s : State) (h0 : Shaped s) :
    ∃ s', execExcitationFault k f s = .next s' ∧ Shaped s' := by
  refine ⟨_, rfl, ?_⟩
  repeat'
    first
    | with_reducible assumption | with_reducible intro _ | with_reducible apply shaped_when
    | with_reducible apply shaped_evt | with_reducible apply shaped_onExc | split | dsimp only

theorem shaped_execExcitationFaultEnd (k : Fin 16) (f : ExcFault) (s : State) (h0 : Shaped s) :
    ∃ s', execExcitationFaultEnd k f s = .next s' ∧ Shaped s' := by
  refine ⟨_, rfl, ?_⟩
  repeat'
    first
    | with_reducible assumption | with_reducible intro _ | with_reducible apply shaped_onExc | split
    | dsimp only

end Sys2Proof.Machine
end

