-- ==== Sys2Proof/Laws/ShapeChain.lean ====
section
/-!
SUPPORT. Every operation of Machine/Chain.lean keeps the lengths of the lists of fixed size (Shaped).
-/
set_option linter.all false

namespace Sys2Proof.Machine

theorem shaped_onChain (s : State) (c : Nat) (f : ChainState → ChainState) (h0 : Shaped s) :
    Shaped (onChain s c f) := by
  unfold onChain
  repeat'
    first
    | with_reducible assumption
    | (with_reducible refine Shaped.set_chains ?_ (fun hb => by simpa using hb.chains))

theorem shaped_chainOut (s : State) (c : Nat) (k : ChainCfg) (num : Option Int) (x : Samp) (h0 : Shaped s) :
    Shaped (chainOut s c k num x) := by
  unfold chainOut
  dsimp only
  repeat'
    first
    | with_reducible assumption | with_reducible intro _ | with_reducible apply shaped_ite
    | with_reducible apply shaped_onChain | with_reducible apply shaped_evtIf | split | dsimp only

theorem shaped_feedRs (s : State) (c : Nat) (k : ChainCfg) (x : Samp) (h0 : Shaped s) :
    Shaped (feedRs s c k x) := by
  unfold feedRs
  dsimp only
  repeat'
    first
    | with_reducible assumption | with_reducible intro _ | with_reducible apply shaped_ite
    | with_reducible apply shaped_foldl | with_reducible apply shaped_onChain
    | with_reducible apply shaped_chainOut | dsimp only

theorem shaped_feedHb2 (s : State) (c : Nat) (k : ChainCfg) (x : Samp) (h0 : Shaped s) :
    Shaped (feedHb2 s c k x) := by
  unfold feedHb2
  dsimp only
  repeat'
    first
    | with_reducible assumption | with_reducible intro _ | with_reducible apply shaped_ite
    | with_reducible apply shaped_onChain | with_reducible apply shaped_feedRs | split | dsimp only

theorem shaped_feedHb1 (s : State) (c : Nat) (k : ChainCfg) (x : Samp) (h0 : Shaped s) :
    Shaped (feedHb1 s c k x) := by
  unfold feedHb1
  dsimp only
  repeat'
    first
    | with_reducible assumption | with_reducible intro _ | with_reducible apply shaped_ite
    | with_reducible apply shaped_onChain | with_reducible apply shaped_feedHb2 | split | dsimp only

theorem shaped_feedFir (s : State) (c : Nat) (k : ChainCfg) (x : Samp) (h0 : Shaped s) :
    Shaped (feedFir s c k x) := by
  unfold feedFir
  dsimp only
  repeat'
    first
    | with_reducible assumption | with_reducible intro _ | with_reducible apply shaped_ite
    | with_reducible apply shaped_feedHb1 | with_reducible apply shaped_onChain | split | dsimp only

theorem shaped_feedChain (s : State) (c range : Nat) (v : Int) (n : Nat) (w : Word) (h0 : Shaped s) :
    Shaped (feedChain s c range v n w) := by
  unfold feedChain
  dsimp only
  repeat'
    first
    | with_reducible assumption | with_reducible intro _ | with_reducible apply shaped_ite
    | with_reducible apply shaped_onChain | with_reducible apply shaped_feedFir | split | dsimp only

theorem shaped_chainRestart (s : State) (c n : Nat) (h0 : Shaped s) :
    Shaped (chainRestart s c n) := by
  unfold chainRestart
  dsimp only
  repeat'
    first
    | with_reducible assumption | with_reducible intro _ | with_reducible apply shaped_onChain | dsimp only

theorem shaped_restartChains (s : State) (p : ChainCfg → Bool) (n : Nat) (h0 : Shaped s) :
    Shaped (restartChains s p n) := by
  unfold restartChains
  repeat'
    first
    | with_reducible assumption | with_reducible intro _ | with_reducible apply shaped_ite
    | with_reducible apply shaped_foldl | with_reducible apply shaped_chainRestart | dsimp only

theorem shaped_chainCommitted (s : State) (c : Nat) (o k : ChainCfg) (n : Nat) (h0 : Shaped s) :
    Shaped (chainCommitted s c o k n) := by
  unfold chainCommitted
  repeat'
    first
    | with_reducible assumption | with_reducible intro _ | with_reducible apply shaped_ite
    | with_reducible apply shaped_chainRestart | with_reducible apply shaped_onChain | dsimp only

theorem shaped_fltCommitted (s0 s : State) (p n : Nat) (h0 : Shaped s) :
    Shaped (fltCommitted s0 s p n) := by
  unfold fltCommitted
  dsimp only
  repeat'
    first
    | with_reducible assumption | with_reducible intro _ | with_reducible apply shaped_foldl
    | with_reducible apply shaped_chainCommitted | with_reducible apply Shaped.set_flt | dsimp only

theorem shaped_coefAdvance (s : State) (h0 : Shaped s) :
    Shaped (coefAdvance s) := by
  unfold coefAdvance
  repeat'
    first
    | with_reducible assumption | with_reducible apply shaped_wr

theorem shaped_coefWrite (s : State) (w : Word) (h0 : Shaped s) :
    Shaped (coefWrite s w) := by
  unfold coefWrite
  dsimp only
  repeat'
    first
    | with_reducible assumption | with_reducible apply shaped_ite | with_reducible apply shaped_coefAdvance
    | with_reducible apply Shaped.set_flt | dsimp only

theorem shaped_polyAdvance (s : State) (p : Nat) (h0 : Shaped s) :
    Shaped (polyAdvance s p) := by
  unfold polyAdvance
  dsimp only
  repeat'
    first
    | with_reducible assumption | with_reducible apply shaped_ite | with_reducible apply shaped_wr | dsimp only

theorem shaped_polyWrite (s : State) (p : Nat) (w : Word) (h0 : Shaped s) :
    Shaped (polyWrite s p w) := by
  unfold polyWrite
  repeat'
    first
    | with_reducible assumption | with_reducible apply shaped_polyAdvance | with_reducible apply Shaped.set_flt

theorem shaped_redStep (s : State) (c : Nat) (o : OutRec) (h0 : Shaped s) :
    Shaped (redStep s c o) := by
  unfold redStep
  dsimp only
  repeat'
    first
    | with_reducible assumption | with_reducible intro _ | with_reducible apply shaped_ite
    | with_reducible apply shaped_wr | with_reducible apply shaped_onChain | dsimp only

theorem shaped_syncNow (s : State) (n : Nat) (h0 : Shaped s) :
    Shaped (syncNow s n) := by
  unfold syncNow
  dsimp only
  repeat'
    first
    | with_reducible assumption | with_reducible intro _ | with_reducible apply shaped_restartChains
    | with_reducible apply shaped_evt | with_reducible apply shaped_wr64 | dsimp only

theorem shaped_execSyncEdge (falling : Bool) (s : State) (stamp : Nat) (ecc : WordErr) (h0 : Shaped s) :
    ∃ s', execSyncEdge falling s stamp ecc = .next s' ∧ Shaped s' := by
  refine ⟨_, rfl, ?_⟩
  repeat'
    first
    | with_reducible assumption | with_reducible intro _ | with_reducible apply shaped_ite
    | with_reducible apply shaped_readStamp | with_reducible apply shaped_when
    | with_reducible apply shaped_evt | with_reducible apply shaped_bumpSat
    | with_reducible apply Shaped.set_flt | dsimp only

theorem shaped_syncSchedule (s : State) (w : Who) (h0 : Shaped s) :
    Shaped (syncSchedule s w) := by
  unfold syncSchedule
  repeat'
    first
    | with_reducible assumption | with_reducible intro _ | with_reducible apply shaped_checked
    | with_reducible apply Shaped.set_flt | dsimp only

theorem shaped_syncCancel (s : State) (h0 : Shaped s) :
    Shaped (syncCancel s) := by
  unfold syncCancel
  repeat'
    first
    | with_reducible assumption | with_reducible apply Shaped.set_flt

theorem shaped_execSyncSchedule (p : Path) (s : State) (h0 : Shaped s) :
    ∃ s', execSyncSchedule p s = .next s' ∧ Shaped s' := by
  refine ⟨_, rfl, ?_⟩
  repeat'
    first
    | with_reducible assumption | with_reducible intro _ | with_reducible apply shaped_gated
    | with_reducible apply shaped_syncSchedule | dsimp only

theorem shaped_execSyncCancel (p : Path) (s : State) (h0 : Shaped s) :
    ∃ s', execSyncCancel p s = .next s' ∧ Shaped s' := by
  refine ⟨_, rfl, ?_⟩
  repeat'
    first
    | with_reducible assumption | with_reducible intro _ | with_reducible apply shaped_gated
    | with_reducible apply shaped_syncCancel | dsimp only

theorem shaped_execSyncEffect (s : State) (h0 : Shaped s) :
    ∃ s', execSyncEffect s = .next s' ∧ Shaped s' := by
  refine ⟨_, rfl, ?_⟩
  repeat'
    first
    | with_reducible assumption | with_reducible intro _ | with_reducible apply shaped_ite
    | with_reducible apply shaped_when | with_reducible apply shaped_syncNow | with_reducible apply shaped_wr
    | with_reducible apply Shaped.set_flt | dsimp only

end Sys2Proof.Machine
end

