-- ==== Sys2Proof/Laws/ShapeConv.lean ====
section
/-!
SUPPORT. Every operation of Machine/Conv.lean keeps the lengths of the lists of fixed size (Shaped).
-/
set_option linter.all false

namespace Sys2Proof.Machine

theorem shaped_onCore (s : State) (q : Nat) (f : CoreState → CoreState) (h0 : Shaped s) :
    Shaped (onCore s q f) := by
  unfold onCore
  repeat'
    first
    | with_reducible assumption
    | (with_reducible refine Shaped.set_cores ?_ (fun hb => by simpa using hb.cores))

theorem shaped_execRotationStep (core : Fin 32) (s : State) (h0 : Shaped s) :
    ∃ s', execRotationStep core s = .next s' ∧ Shaped s' := by
  refine ⟨_, rfl, ?_⟩
  repeat'
    first
    | with_reducible assumption | with_reducible intro _ | with_reducible apply shaped_when
    | with_reducible apply shaped_wr | with_reducible apply shaped_onCore | split | dsimp only

theorem shaped_fillPositions (s : State) (q : Nat) (h0 : Shaped s) :
    Shaped (fillPositions s q) := by
  unfold fillPositions
  repeat'
    first
    | with_reducible assumption | with_reducible intro _ | with_reducible apply shaped_ite
    | with_reducible apply shaped_foldl | with_reducible apply shaped_onCore | dsimp only

theorem shaped_checkShort (s : State) (q : Nat) (h0 : Shaped s) :
    Shaped (checkShort s q) := by
  unfold checkShort
  dsimp only
  repeat'
    first
    | with_reducible assumption | with_reducible intro _ | with_reducible apply shaped_ite
    | with_reducible apply shaped_fillPositions | with_reducible apply shaped_onCore
    | with_reducible apply shaped_faultSrc | dsimp only

theorem shaped_retireSlice (s : State) (q i : Nat) (h0 : Shaped s) :
    Shaped (retireSlice s q i) := by
  unfold retireSlice
  dsimp only
  repeat'
    first
    | with_reducible assumption | with_reducible intro _ | with_reducible apply shaped_onCore
    | with_reducible apply shaped_checkShort | with_reducible apply shaped_evt | dsimp only

theorem shaped_execSliceCalibrationDone (core : Fin 32) (k : SliceCoef) (s : State) (h0 : Shaped s) :
    ∃ s', execSliceCalibrationDone core k s = .next s' ∧ Shaped s' := by
  refine ⟨_, rfl, ?_⟩
  repeat'
    first
    | with_reducible assumption | with_reducible intro _ | with_reducible apply shaped_ite
    | with_reducible apply shaped_when | with_reducible apply shaped_onCore
    | with_reducible apply shaped_retireSlice | dsimp only

theorem shaped_ccCommitted (s0 s : State) (q : Nat) (h0 : Shaped s) :
    Shaped (ccCommitted s0 s q) := by
  unfold ccCommitted
  dsimp only
  repeat'
    first
    | with_reducible assumption | with_reducible intro _ | with_reducible apply shaped_ite
    | with_reducible apply shaped_foldl | with_reducible apply shaped_onInput
    | with_reducible apply shaped_onChain | with_reducible apply shaped_checkShort | dsimp only

theorem shaped_onBand (s : State) (ain : Nat) (f : BandState → BandState) (h0 : Shaped s) :
    Shaped (onBand s ain f) := by
  unfold onBand
  repeat'
    first
    | with_reducible assumption
    | (with_reducible refine Shaped.set_bands ?_ (fun hb => by simpa using hb.bands))

theorem shaped_loadEdges (s : State) (ain lo up : Nat) (h0 : Shaped s) :
    Shaped (loadEdges s ain lo up) := by
  unfold loadEdges
  repeat'
    first
    | with_reducible assumption | with_reducible intro _ | with_reducible apply shaped_ite
    | with_reducible apply shaped_evt | with_reducible apply shaped_onBand | dsimp only

theorem shaped_hostEdges (s : State) (ain : Nat) (h0 : Shaped s) :
    Shaped (hostEdges s ain) := by
  unfold hostEdges
  dsimp only
  repeat'
    first
    | with_reducible assumption | with_reducible intro _ | with_reducible apply shaped_ite
    | with_reducible apply shaped_onBand | dsimp only

theorem shaped_hkcBegin (s : State) (h0 : Shaped s) :
    Shaped (hkcBegin s) := by
  unfold hkcBegin
  repeat'
    first
    | with_reducible assumption | with_reducible apply Shaped.set_hkc

theorem shaped_hkcSelect (s : State) (v : Word) (h0 : Shaped s) :
    Shaped (hkcSelect s v) := by
  unfold hkcSelect
  dsimp only
  repeat'
    first
    | with_reducible assumption | with_reducible intro _ | with_reducible apply Shaped.set_hkc | dsimp only

theorem shaped_hkcStart (s : State) (w : Who) (v : Word) (h0 : Shaped s) :
    Shaped (hkcStart s w v) := by
  unfold hkcStart
  repeat'
    first
    | with_reducible assumption | with_reducible intro _ | with_reducible apply shaped_checked
    | with_reducible apply shaped_hkcBegin

theorem shaped_execHkcStart (p : Path) (v : Word) (s : State) (h0 : Shaped s) :
    ∃ s', execHkcStart p v s = .next s' ∧ Shaped s' := by
  refine ⟨_, rfl, ?_⟩
  repeat'
    first
    | with_reducible assumption | with_reducible intro _ | with_reducible apply shaped_gated
    | with_reducible apply shaped_hkcStart | dsimp only

theorem shaped_execHkcResult (code : BitVec 12) (temp : BitVec 16) (s : State) (h0 : Shaped s) :
    ∃ s', execHkcResult code temp s = .next s' ∧ Shaped s' := by
  refine ⟨_, rfl, ?_⟩
  repeat'
    first
    | with_reducible assumption | with_reducible apply shaped_wr | with_reducible apply shaped_evtIf
    | with_reducible apply shaped_evt | split | with_reducible apply Shaped.set_hkc | dsimp only

theorem shaped_hkcDataRead (s : State) (p : Path) (h0 : Shaped s) :
    Shaped (hkcDataRead s p) := by
  unfold hkcDataRead
  dsimp only
  repeat'
    first
    | with_reducible assumption | with_reducible intro _ | with_reducible apply shaped_onPath
    | with_reducible apply shaped_wr | dsimp only

theorem shaped_execDataRead (p : Path) (s : State) (h0 : Shaped s) :
    ∃ s', execDataRead p s = .next s' ∧ Shaped s' := by
  refine ⟨_, rfl, ?_⟩
  repeat'
    first
    | with_reducible assumption | with_reducible apply shaped_ite | with_reducible apply shaped_hkcDataRead

theorem shaped_onAo (s : State) (x : Nat) (f : AoState → AoState) (h0 : Shaped s) :
    Shaped (onAo s x f) := by
  unfold onAo
  repeat'
    first
    | with_reducible assumption | (with_reducible refine Shaped.set_aout ?_ (fun hb => by simpa using hb.aout))

theorem shaped_aoFollow (s : State) (x : Nat) (h0 : Shaped s) :
    Shaped (aoFollow s x) := by
  unfold aoFollow
  dsimp only
  repeat'
    first
    | with_reducible assumption | with_reducible intro _ | with_reducible apply shaped_ite
    | with_reducible apply shaped_onAo | with_reducible apply shaped_evtIf | split | dsimp only

theorem shaped_aoDeliver (s : State) (ch : Nat) (h0 : Shaped s) :
    Shaped (aoDeliver s ch) := by
  unfold aoDeliver
  repeat'
    first
    | with_reducible assumption | with_reducible intro _ | with_reducible apply shaped_ite
    | with_reducible apply shaped_foldl | with_reducible apply shaped_aoFollow | dsimp only

theorem shaped_aoutCommitted (s : State) (h0 : Shaped s) :
    Shaped (aoutCommitted s) := by
  unfold aoutCommitted
  repeat'
    first
    | with_reducible assumption | with_reducible intro _ | with_reducible apply shaped_foldl
    | with_reducible apply shaped_aoFollow

theorem shaped_queueClear (s : State) (w : Who) (q : Nat) (h0 : Shaped s) :
    Shaped (queueClear s w q) := by
  unfold queueClear
  repeat'
    first
    | with_reducible assumption | with_reducible intro _ | with_reducible apply shaped_checked
    | with_reducible apply shaped_wr | with_reducible apply Shaped.set_queueEcc | dsimp only

theorem shaped_execQueueClear (p : Path) (q : Nat) (s : State) (h0 : Shaped s) :
    ∃ s', execQueueClear p q s = .next s' ∧ Shaped s' := by
  refine ⟨_, rfl, ?_⟩
  repeat'
    first
    | with_reducible assumption | with_reducible intro _ | with_reducible apply shaped_gated
    | with_reducible apply shaped_queueClear | dsimp only

end Sys2Proof.Machine
end

