-- ==== Sys2Proof/Laws/ShapeMotion.lean ====
section
/-!
SUPPORT. Every operation of Machine/Motion.lean keeps the lengths of the lists of fixed size (Shaped).
-/
set_option linter.all false

namespace Sys2Proof.Machine

theorem shaped_onSlot (s : State) (r : Nat) (f : SlotState → SlotState) (h0 : Shaped s) :
    Shaped (onSlot s r f) := by
  unfold onSlot
  repeat'
    first
    | with_reducible assumption
    | (with_reducible refine Shaped.set_slots ?_ (fun hb => by simpa using hb.slots))

theorem shaped_onEng (s : State) (k : Nat) (f : EngineState → EngineState) (h0 : Shaped s) :
    Shaped (onEng s k f) := by
  unfold onEng
  repeat'
    first
    | with_reducible assumption
    | (with_reducible refine Shaped.set_engines ?_ (fun hb => by simpa using hb.engines))

theorem shaped_onGc (s : State) (g : Nat) (f : Ball → Ball) (h0 : Shaped s) :
    Shaped (onGc s g f) := by
  unfold onGc
  repeat'
    first
    | with_reducible assumption | (with_reducible refine Shaped.set_gc ?_ (fun hb => by simpa using hb.gc))

theorem shaped_onGen (s : State) (g : Nat) (f : Ball → Ball) (h0 : Shaped s) :
    Shaped (onGen s g f) := by
  unfold onGen
  repeat'
    first
    | with_reducible assumption | (with_reducible refine Shaped.set_gen ?_ (fun hb => by simpa using hb.gen))

theorem shaped_syncSlot (s : State) (r : Nat) (h0 : Shaped s) :
    Shaped (syncSlot s r) := by
  unfold syncSlot
  repeat'
    first
    | with_reducible assumption | with_reducible intro _ | with_reducible apply shaped_ite
    | with_reducible apply shaped_foldl | with_reducible apply shaped_onGc | dsimp only

theorem shaped_syncGroups (s : State) (h0 : Shaped s) :
    Shaped (syncGroups s) := by
  unfold syncGroups
  repeat'
    first
    | with_reducible assumption | with_reducible intro _ | with_reducible apply shaped_ite
    | with_reducible apply shaped_foldl | with_reducible apply shaped_onGen | dsimp only

theorem shaped_takeSlots (s : State) (h0 : Shaped s) :
    Shaped (takeSlots s) := by
  unfold takeSlots
  repeat'
    first
    | with_reducible assumption | with_reducible intro _ | with_reducible apply shaped_foldl
    | with_reducible apply shaped_syncGroups | with_reducible apply shaped_syncSlot

theorem shaped_releaseSlots (s : State) (h0 : Shaped s) :
    Shaped (releaseSlots s) := by
  unfold releaseSlots
  repeat'
    first
    | with_reducible assumption | with_reducible intro _ | with_reducible apply shaped_foldl
    | with_reducible apply shaped_onGc
    | (with_reducible refine Shaped.set_gen ?_ (fun hb => by simpa using hb.gen)) | dsimp only

theorem shaped_takeOutputs (s : State) (h0 : Shaped s) :
    Shaped (takeOutputs s) := by
  unfold takeOutputs
  repeat'
    first
    | with_reducible assumption | with_reducible intro _ | with_reducible apply shaped_foldl
    | with_reducible apply shaped_onGc | with_reducible apply shaped_takeSlots | dsimp only

theorem shaped_releaseOutputs (s : State) (h0 : Shaped s) :
    Shaped (releaseOutputs s) := by
  unfold releaseOutputs
  repeat'
    first
    | with_reducible assumption
    | (with_reducible refine Shaped.set_gc_gen ?_ (fun hb => by simp [hb.gc, hb.gen]))

theorem shaped_setLegs (s : State) (r : Nat) (legs : List Bool) (h0 : Shaped s) :
    Shaped (setLegs s r legs) := by
  unfold setLegs
  repeat'
    first
    | with_reducible assumption | with_reducible intro _ | with_reducible apply shaped_syncSlot
    | with_reducible apply shaped_onSlot | dsimp only

theorem shaped_applyLaw (s : State) (r : Nat) (h0 : Shaped s) :
    Shaped (applyLaw s r) := by
  unfold applyLaw
  dsimp only
  repeat'
    first
    | with_reducible assumption | with_reducible apply shaped_ite | with_reducible apply shaped_setLegs
    | dsimp only

theorem shaped_lawOf (s : State) (ain : Nat) (h0 : Shaped s) :
    Shaped (lawOf s ain) := by
  unfold lawOf
  repeat'
    first
    | with_reducible assumption | with_reducible apply shaped_applyLaw | split

theorem shaped_execComparatorCrossing (ain : Fin 96) (upper level : Bool) (s : State) (h0 : Shaped s) :
    ∃ s', execComparatorCrossing ain upper level s = .next s' ∧ Shaped s' := by
  refine ⟨_, rfl, ?_⟩
  repeat'
    first
    | with_reducible assumption | with_reducible intro _ | with_reducible apply shaped_when
    | with_reducible apply shaped_lawOf | with_reducible apply shaped_onBand | dsimp only

theorem shaped_execBandEdgeLoad (ain : Fin 96) (s : State) (ecc : WordErr) (h0 : Shaped s) :
    ∃ s', execBandEdgeLoad ain s ecc = .next s' ∧ Shaped s' := by
  refine ⟨_, rfl, ?_⟩
  repeat'
    first
    | with_reducible assumption | with_reducible intro _ | with_reducible apply shaped_when
    | with_reducible apply shaped_fromQueue | with_reducible apply shaped_lawOf
    | with_reducible apply shaped_loadEdges | with_reducible apply shaped_onBand | split | dsimp only

theorem shaped_execMinHoldEnd (slot : Fin 48) (leg : Fin 3) (s : State) (h0 : Shaped s) :
    ∃ s', execMinHoldEnd slot leg s = .next s' ∧ Shaped s' := by
  refine ⟨_, rfl, ?_⟩
  repeat'
    first
    | with_reducible assumption | with_reducible intro _ | with_reducible apply shaped_when
    | with_reducible apply shaped_applyLaw | with_reducible apply shaped_onSlot | dsimp only

theorem shaped_clearBlock (s : State) (h0 : Shaped s) :
    Shaped (clearBlock s) := by
  unfold clearBlock
  repeat'
    first
    | with_reducible assumption | with_reducible apply shaped_ite | with_reducible apply shaped_wr

theorem shaped_applyReaction (s : State) (r reaction : Nat) (h0 : Shaped s) :
    Shaped (applyReaction s r reaction) := by
  unfold applyReaction
  dsimp only
  repeat'
    first
    | with_reducible assumption | with_reducible intro _ | with_reducible apply shaped_ite
    | with_reducible apply shaped_onSlot | with_reducible apply shaped_setLegs | dsimp only

theorem shaped_faultOne (s : State) (r cause n : Nat) (h0 : Shaped s) :
    Shaped (faultOne s r cause n) := by
  unfold faultOne
  dsimp only
  repeat'
    first
    | with_reducible assumption | with_reducible intro _ | with_reducible apply shaped_ite
    | with_reducible apply shaped_applyReaction | with_reducible apply shaped_onSlot
    | with_reducible apply shaped_faultSrc | with_reducible apply shaped_evt | split | dsimp only

theorem shaped_slotFault (s : State) (r cause n : Nat) (h0 : Shaped s) :
    Shaped (slotFault s r cause n) := by
  unfold slotFault
  dsimp only
  repeat'
    first
    | with_reducible assumption | with_reducible intro _ | with_reducible apply shaped_ite
    | with_reducible apply shaped_foldl | with_reducible apply shaped_faultOne | with_reducible apply shaped_wr
    | with_reducible apply shaped_evt | with_reducible apply shaped_syncGroups | dsimp only

theorem shaped_engineSlots (s : State) (k : Nat) (h0 : Shaped s) :
    Shaped (engineSlots s k) := by
  unfold engineSlots
  repeat'
    first
    | with_reducible assumption | with_reducible intro _ | with_reducible apply shaped_foldl
    | with_reducible apply shaped_slotFault | dsimp only

theorem shaped_slotRecord (s : State) (ain n : Nat) (w : Word) (h0 : Shaped s) :
    Shaped (slotRecord s ain n w) := by
  unfold slotRecord
  dsimp only
  repeat'
    first
    | with_reducible assumption | with_reducible intro _ | with_reducible apply shaped_ite
    | with_reducible apply shaped_onSlot | with_reducible apply shaped_slotFault | split | dsimp only

theorem shaped_execHoldTimeout (r : Fin 48) (s : State) (h0 : Shaped s) :
    ∃ s', execHoldTimeout r s = .next s' ∧ Shaped s' := by
  refine ⟨_, rfl, ?_⟩
  repeat'
    first
    | with_reducible assumption | with_reducible intro _ | with_reducible apply shaped_when
    | with_reducible apply shaped_syncGroups | with_reducible apply shaped_applyReaction | dsimp only

theorem shaped_motClearFault (s : State) (w : Who) (r : Nat) (h0 : Shaped s) :
    Shaped (motClearFault s w r) := by
  unfold motClearFault
  dsimp only
  repeat'
    first
    | with_reducible assumption | with_reducible intro _ | with_reducible apply shaped_ite
    | with_reducible apply shaped_checked | with_reducible apply shaped_wr | with_reducible apply shaped_onSlot
    | with_reducible apply shaped_clearBlock | with_reducible apply shaped_syncGroups | dsimp only

theorem shaped_execMotClearFault (p : Path) (r : Nat) (s : State) (h0 : Shaped s) :
    ∃ s', execMotClearFault p r s = .next s' ∧ Shaped s' := by
  refine ⟨_, rfl, ?_⟩
  repeat'
    first
    | with_reducible assumption | with_reducible intro _ | with_reducible apply shaped_gated
    | with_reducible apply shaped_motClearFault | dsimp only

theorem shaped_execSlotEnable (r : Fin 48) (s : State) (h0 : Shaped s) :
    ∃ s', execSlotEnable r s = .next s' ∧ Shaped s' := by
  refine ⟨_, rfl, ?_⟩
  repeat'
    first
    | with_reducible assumption | with_reducible intro _ | with_reducible apply shaped_when
    | with_reducible apply shaped_onSlot | with_reducible apply shaped_syncGroups
    | with_reducible apply shaped_setLegs | dsimp only

theorem shaped_enterRun (s : State) (r : Nat) (h0 : Shaped s) :
    Shaped (enterRun s r) := by
  unfold enterRun
  repeat'
    first
    | with_reducible assumption | with_reducible intro _ | with_reducible apply shaped_applyLaw
    | with_reducible apply shaped_evt | with_reducible apply shaped_onSlot | dsimp only

theorem shaped_execSlotRun (r : Fin 48) (s : State) (h0 : Shaped s) :
    ∃ s', execSlotRun r s = .next s' ∧ Shaped s' := by
  refine ⟨_, rfl, ?_⟩
  repeat'
    first
    | with_reducible assumption | with_reducible intro _ | with_reducible apply shaped_when
    | with_reducible apply shaped_enterRun | dsimp only

theorem shaped_execSlotDisable (r : Fin 48) (s : State) (h0 : Shaped s) :
    ∃ s', execSlotDisable r s = .next s' ∧ Shaped s' := by
  refine ⟨_, rfl, ?_⟩
  repeat'
    first
    | with_reducible assumption | with_reducible intro _ | with_reducible apply shaped_when
    | with_reducible apply shaped_onSlot | with_reducible apply shaped_syncGroups
    | with_reducible apply shaped_setLegs | dsimp only

theorem shaped_markSlot (s : State) (r n : Nat) (h0 : Shaped s) :
    Shaped (markSlot s r n) := by
  unfold markSlot
  dsimp only
  repeat'
    first
    | with_reducible assumption | with_reducible intro _ | with_reducible apply shaped_ite
    | with_reducible apply shaped_onSlot | with_reducible apply shaped_evtIf | split | dsimp only

theorem shaped_cycleMark (s : State) (w : Who) (r : Nat) (h0 : Shaped s) :
    Shaped (cycleMark s w r) := by
  unfold cycleMark
  repeat'
    first
    | with_reducible assumption | with_reducible intro _ | with_reducible apply shaped_ite
    | with_reducible apply shaped_checked | with_reducible apply shaped_markSlot | dsimp only

theorem shaped_execCycleMark (p : Path) (r : Nat) (s : State) (h0 : Shaped s) :
    ∃ s', execCycleMark p r s = .next s' ∧ Shaped s' := by
  refine ⟨_, rfl, ?_⟩
  repeat'
    first
    | with_reducible assumption | with_reducible intro _ | with_reducible apply shaped_gated
    | with_reducible apply shaped_cycleMark | dsimp only

theorem shaped_pinMarks (s : State) (pin : Nat) (falling : Bool) (n : Nat) (h0 : Shaped s) :
    Shaped (pinMarks s pin falling n) := by
  unfold pinMarks
  dsimp only
  repeat'
    first
    | with_reducible assumption | with_reducible intro _ | with_reducible apply shaped_ite
    | with_reducible apply shaped_foldl | with_reducible apply shaped_markSlot | dsimp only

theorem shaped_execRcLost (r : Fin 48) (s : State) (h0 : Shaped s) :
    ∃ s', execRcLost r s = .next s' ∧ Shaped s' := by
  refine ⟨_, rfl, ?_⟩
  repeat'
    first
    | with_reducible assumption | with_reducible intro _ | with_reducible apply shaped_when
    | with_reducible apply shaped_evt | with_reducible apply shaped_onSlot | dsimp only

theorem shaped_releaseLegs (s0 s : State) (r : Nat) (h0 : Shaped s) :
    Shaped (releaseLegs s0 s r) := by
  unfold releaseLegs
  repeat'
    first
    | with_reducible assumption | with_reducible intro _ | with_reducible apply shaped_foldl
    | with_reducible apply shaped_onGc | dsimp only

theorem shaped_motSlotCommitted (s0 s : State) (n r : Nat) (h0 : Shaped s) :
    Shaped (motSlotCommitted s0 s n r) := by
  unfold motSlotCommitted
  dsimp only
  repeat'
    first
    | with_reducible assumption | with_reducible intro _ | with_reducible apply shaped_ite
    | with_reducible apply shaped_onSlot | with_reducible apply shaped_applyLaw
    | with_reducible apply shaped_syncSlot | with_reducible apply shaped_releaseLegs | dsimp only

theorem shaped_motCommitted (s0 s : State) (n : Nat) (h0 : Shaped s) :
    Shaped (motCommitted s0 s n) := by
  unfold motCommitted
  dsimp only
  repeat'
    first
    | with_reducible assumption | with_reducible intro _ | with_reducible apply shaped_ite
    | with_reducible apply shaped_foldl | with_reducible apply shaped_hostEdges
    | with_reducible apply shaped_syncGroups | with_reducible apply shaped_motSlotCommitted | dsimp only

end Sys2Proof.Machine
end

