-- ==== Sys2Proof/Laws/ShapeLite.lean ====
section
/-!
SUPPORT. Every operation of Machine/Lite.lean keeps the lengths of the lists of fixed size (Shaped).
-/
set_option linter.all false

namespace Sys2Proof.Machine

theorem shaped_onLite (s : State) (x : Nat) (f : LiteState → LiteState) (h0 : Shaped s) :
    Shaped (onLite s x f) := by
  unfold onLite
  repeat'
    first
    | with_reducible assumption
    | (with_reducible refine Shaped.set_lites ?_ (fun hb => by simpa using hb.lites))

theorem shaped_onStrobe (s : State) (x : Nat) (f : StrobeState → StrobeState) (h0 : Shaped s) :
    Shaped (onStrobe s x f) := by
  unfold onStrobe
  repeat'
    first
    | with_reducible assumption
    | (with_reducible refine Shaped.set_strobes ?_ (fun hb => by simpa using hb.strobes))

theorem shaped_liteTemp (s : State) (x : Nat) (w : Word) (h0 : Shaped s) :
    Shaped (liteTemp s x w) := by
  unfold liteTemp
  repeat'
    first
    | with_reducible assumption | with_reducible intro _ | with_reducible apply shaped_ite
    | with_reducible apply shaped_evtIf | with_reducible apply shaped_onLite | dsimp only

theorem shaped_liteDeliver (s : State) (ch : Nat) (w : Word) (h0 : Shaped s) :
    Shaped (liteDeliver s ch w) := by
  unfold liteDeliver
  repeat'
    first
    | with_reducible assumption | with_reducible intro _ | with_reducible apply shaped_ite
    | with_reducible apply shaped_foldl | with_reducible apply shaped_liteTemp | dsimp only

theorem shaped_liteRefresh (s : State) (x : Nat) (h0 : Shaped s) :
    Shaped (liteRefresh s x) := by
  unfold liteRefresh
  repeat'
    first
    | with_reducible assumption | with_reducible intro _ | with_reducible apply shaped_onLite
    | with_reducible apply shaped_liteTemp | split | dsimp only

theorem shaped_startFrame (s : State) (x : Nat) (h0 : Shaped s) :
    Shaped (startFrame s x) := by
  unfold startFrame
  repeat'
    first
    | with_reducible assumption | with_reducible intro _ | with_reducible apply shaped_onLite | dsimp only

theorem shaped_execFrameStart (x : Fin 8) (refresh : Bool) (s : State) (h0 : Shaped s) :
    ∃ s', execFrameStart x refresh s = .next s' ∧ Shaped s' := by
  refine ⟨_, rfl, ?_⟩
  repeat'
    first
    | with_reducible assumption | with_reducible intro _ | with_reducible apply shaped_ite
    | with_reducible apply shaped_when | with_reducible apply shaped_startFrame | dsimp only

theorem shaped_execFrameDone (x : Fin 8) (s : State) (h0 : Shaped s) :
    ∃ s', execFrameDone x s = .next s' ∧ Shaped s' := by
  refine ⟨_, rfl, ?_⟩
  repeat'
    first
    | with_reducible assumption | with_reducible intro _ | with_reducible apply shaped_when
    | with_reducible apply shaped_evt | with_reducible apply shaped_onLite | dsimp only

theorem shaped_sendNow (s : State) (w : Who) (x : Nat) (h0 : Shaped s) :
    Shaped (sendNow s w x) := by
  unfold sendNow
  repeat'
    first
    | with_reducible assumption | with_reducible intro _ | with_reducible apply shaped_ite
    | with_reducible apply shaped_checked | with_reducible apply shaped_onLite | dsimp only

theorem shaped_execSendNow (p : Path) (x : Fin 8) (s : State) (h0 : Shaped s) :
    ∃ s', execSendNow p x s = .next s' ∧ Shaped s' := by
  refine ⟨_, rfl, ?_⟩
  repeat'
    first
    | with_reducible assumption | with_reducible intro _ | with_reducible apply shaped_gated
    | with_reducible apply shaped_sendNow | dsimp only

theorem shaped_sendToLatch (s : State) (w : Who) (x : Nat) (h0 : Shaped s) :
    Shaped (sendToLatch s w x) := by
  unfold sendToLatch
  dsimp only
  repeat'
    first
    | with_reducible assumption | with_reducible intro _ | with_reducible apply shaped_ite
    | with_reducible apply shaped_checked | with_reducible apply shaped_onLite | dsimp only

theorem shaped_execSendToLatch (p : Path) (x : Fin 8) (s : State) (h0 : Shaped s) :
    ∃ s', execSendToLatch p x s = .next s' ∧ Shaped s' := by
  refine ⟨_, rfl, ?_⟩
  repeat'
    first
    | with_reducible assumption | with_reducible intro _ | with_reducible apply shaped_gated
    | with_reducible apply shaped_sendToLatch | dsimp only

theorem shaped_cancelSend (s : State) (x : Nat) (h0 : Shaped s) :
    Shaped (cancelSend s x) := by
  unfold cancelSend
  repeat'
    first
    | with_reducible assumption | with_reducible intro _ | with_reducible apply shaped_onLite | dsimp only

theorem shaped_execCancelSend (p : Path) (x : Fin 8) (s : State) (h0 : Shaped s) :
    ∃ s', execCancelSend p x s = .next s' ∧ Shaped s' := by
  refine ⟨_, rfl, ?_⟩
  repeat'
    first
    | with_reducible assumption | with_reducible intro _ | with_reducible apply shaped_gated
    | with_reducible apply shaped_cancelSend | dsimp only

theorem shaped_liteCtrl (s : State) (w : Who) (v : Word) (h0 : Shaped s) :
    Shaped (liteCtrl s w v) := by
  unfold liteCtrl
  dsimp only
  repeat'
    first
    | with_reducible assumption | with_reducible apply shaped_sendNow | with_reducible apply shaped_sendToLatch
    | with_reducible apply shaped_cancelSend | with_reducible apply shaped_refuse | split | dsimp only

theorem shaped_lvlAdvance (s : State) (h0 : Shaped s) :
    Shaped (lvlAdvance s) := by
  unfold lvlAdvance
  dsimp only
  repeat'
    first
    | with_reducible assumption | with_reducible apply shaped_ite | with_reducible apply shaped_wr | dsimp only

theorem shaped_lvlWrite (s : State) (v : Word) (h0 : Shaped s) :
    Shaped (lvlWrite s v) := by
  unfold lvlWrite
  repeat'
    first
    | with_reducible assumption | with_reducible apply shaped_lvlAdvance
    | with_reducible apply Shaped.set_levels

theorem shaped_execLvlData (p : Path) (w : Option Word) (s : State) (h0 : Shaped s) :
    ∃ s', execLvlData p w s = .next s' ∧ Shaped s' := by
  refine ⟨_, rfl, ?_⟩
  repeat'
    first
    | with_reducible assumption | with_reducible intro _ | with_reducible apply shaped_ite
    | with_reducible apply shaped_gated | with_reducible apply shaped_lvlWrite
    | with_reducible apply shaped_lvlAdvance | split | dsimp only

theorem shaped_strobeLate (s : State) (x : Nat) (h0 : Shaped s) :
    Shaped (strobeLate s x) := by
  unfold strobeLate
  repeat'
    first
    | with_reducible assumption | with_reducible intro _ | with_reducible apply shaped_evt
    | with_reducible apply shaped_onStrobe | dsimp only

theorem shaped_strobeArm (s : State) (w : Who) (x : Nat) (h0 : Shaped s) :
    Shaped (strobeArm s w x) := by
  unfold strobeArm
  dsimp only
  repeat'
    first
    | with_reducible assumption | with_reducible intro _ | with_reducible apply shaped_ite
    | with_reducible apply shaped_checked | with_reducible apply shaped_onStrobe | dsimp only

theorem shaped_execStrobeArm (p : Path) (x : Fin 8) (s : State) (h0 : Shaped s) :
    ∃ s', execStrobeArm p x s = .next s' ∧ Shaped s' := by
  refine ⟨_, rfl, ?_⟩
  repeat'
    first
    | with_reducible assumption | with_reducible intro _ | with_reducible apply shaped_gated
    | with_reducible apply shaped_strobeArm | dsimp only

theorem shaped_strobeDisarm (s : State) (x : Nat) (h0 : Shaped s) :
    Shaped (strobeDisarm s x) := by
  unfold strobeDisarm
  repeat'
    first
    | with_reducible assumption | with_reducible intro _ | with_reducible apply shaped_onStrobe | dsimp only

theorem shaped_execStrobeDisarm (p : Path) (x : Fin 8) (s : State) (h0 : Shaped s) :
    ∃ s', execStrobeDisarm p x s = .next s' ∧ Shaped s' := by
  refine ⟨_, rfl, ?_⟩
  repeat'
    first
    | with_reducible assumption | with_reducible intro _ | with_reducible apply shaped_gated
    | with_reducible apply shaped_strobeDisarm | dsimp only

theorem shaped_strobeCtrl (s : State) (w : Who) (v : Word) (h0 : Shaped s) :
    Shaped (strobeCtrl s w v) := by
  unfold strobeCtrl
  repeat'
    first
    | with_reducible assumption | with_reducible apply shaped_strobeArm
    | with_reducible apply shaped_strobeDisarm | with_reducible apply shaped_refuse | split

theorem shaped_strobeSegment (s : State) (r n : Nat) (h0 : Shaped s) :
    Shaped (strobeSegment s r n) := by
  unfold strobeSegment
  dsimp only
  repeat'
    first
    | with_reducible assumption | with_reducible intro _ | with_reducible apply shaped_ite
    | with_reducible apply shaped_foldl | with_reducible apply shaped_strobeLate
    | with_reducible apply shaped_onStrobe | dsimp only

theorem shaped_strobeNext (s : State) (x n : Nat) (rest : List Nat) (h0 : Shaped s) :
    Shaped (strobeNext s x n rest) := by
  unfold strobeNext
  repeat'
    first
    | with_reducible assumption | with_reducible intro _ | with_reducible apply shaped_ite
    | with_reducible apply shaped_onStrobe | dsimp only

theorem shaped_execStrobeFire (x : Fin 8) (s : State) (h0 : Shaped s) :
    ∃ s', execStrobeFire x s = .next s' ∧ Shaped s' := by
  refine ⟨_, rfl, ?_⟩
  repeat'
    first
    | with_reducible assumption | with_reducible intro _ | with_reducible apply shaped_ite
    | with_reducible apply shaped_strobeNext | with_reducible apply shaped_strobeLate
    | with_reducible apply shaped_evt | with_reducible apply shaped_onStrobe | split | dsimp only

theorem shaped_execStrobeEnd (x : Fin 8) (s : State) (h0 : Shaped s) :
    ∃ s', execStrobeEnd x s = .next s' ∧ Shaped s' := by
  refine ⟨_, rfl, ?_⟩
  repeat'
    first
    | with_reducible assumption | with_reducible intro _ | with_reducible apply shaped_when
    | with_reducible apply shaped_onStrobe | dsimp only

theorem shaped_liteCommitted (s : State) (h0 : Shaped s) :
    Shaped (liteCommitted s) := by
  unfold liteCommitted
  dsimp only
  repeat'
    first
    | with_reducible assumption | with_reducible intro _ | with_reducible apply shaped_ite
    | with_reducible apply shaped_foldl | with_reducible apply shaped_liteRefresh
    | with_reducible apply shaped_onLite | dsimp only

theorem shaped_liteWarm (s : State) (h0 : Shaped s) :
    Shaped (liteWarm s) := by
  unfold liteWarm
  repeat'
    first
    | with_reducible assumption | with_reducible intro _
    | (with_reducible refine Shaped.set_lites_strobes ?_ (fun hb => by simp [hb.lites, hb.strobes]))
    | dsimp only

end Sys2Proof.Machine
end

