-- ==== Sys2Proof/Laws/ShapeNet.lean ====
section
/-!
SUPPORT. Every operation of Machine/Net.lean keeps the lengths of the lists of fixed size (Shaped).
-/
set_option linter.all false

namespace Sys2Proof.Machine

theorem shaped_onLane (s : State) (l : Lane) (f : LaneState → LaneState) (h0 : Shaped s) :
    Shaped (onLane s l f) := by
  unfold onLane
  repeat'
    first
    | with_reducible assumption
    | (with_reducible refine Shaped.set_lanes ?_ (fun hb => by simpa using hb.lanes))

theorem shaped_emit (s : State) (f : TxFrame) (h0 : Shaped s) :
    Shaped (emit s f) := by
  unfold emit
  repeat'
    first
    | with_reducible assumption | with_reducible apply shaped_ite | with_reducible apply shaped_bumpWrap
    | with_reducible apply Shaped.set_sent

theorem shaped_emitOwn (s : State) (l : Lane) (dst : Mac) (b : FrameBody) (h0 : Shaped s) :
    Shaped (emitOwn s l dst b) := by
  unfold emitOwn
  repeat'
    first
    | with_reducible assumption | with_reducible apply shaped_emit

theorem shaped_insertBoth (s : State) (dst : Mac) (b0 b1 : FrameBody) (h0 : Shaped s) :
    Shaped (insertBoth s dst b0 b1) := by
  unfold insertBoth
  dsimp only
  repeat'
    first
    | with_reducible assumption | with_reducible apply shaped_emit | with_reducible apply Shaped.set_ring
    | dsimp only

theorem shaped_insertFrame (s : State) (dst : Mac) (b : FrameBody) (h0 : Shaped s) :
    Shaped (insertFrame s dst b) := by
  unfold insertFrame
  repeat'
    first
    | with_reducible assumption | with_reducible apply shaped_insertBoth

theorem shaped_sendBeacon (s : State) (h0 : Shaped s) :
    Shaped (sendBeacon s) := by
  unfold sendBeacon
  dsimp only
  repeat'
    first
    | with_reducible assumption | with_reducible apply shaped_ite | with_reducible apply shaped_insertFrame
    | with_reducible apply Shaped.set_ring | dsimp only

theorem shaped_sendRing (s : State) (dst : Mac) (b : FrameBody) (h0 : Shaped s) :
    Shaped (sendRing s dst b) := by
  unfold sendRing
  repeat'
    first
    | with_reducible assumption | with_reducible apply shaped_ite | with_reducible apply shaped_emitOwn
    | with_reducible apply shaped_insertFrame | with_reducible apply shaped_sendBeacon

theorem shaped_sendTwin (s : State) (b : FrameBody) (h0 : Shaped s) :
    Shaped (sendTwin s b) := by
  unfold sendTwin
  repeat'
    first
    | with_reducible assumption | with_reducible apply shaped_emitOwn

theorem shaped_linkRise (s : State) (l : Lane) (h0 : Shaped s) :
    Shaped (linkRise s l) := by
  unfold linkRise
  dsimp only
  repeat'
    first
    | with_reducible assumption | with_reducible intro _ | with_reducible apply shaped_onLane
    | with_reducible apply shaped_evt | with_reducible apply shaped_bumpSat | dsimp only

theorem shaped_linkFall (s : State) (l : Lane) (h0 : Shaped s) :
    Shaped (linkFall s l) := by
  unfold linkFall
  dsimp only
  repeat'
    first
    | with_reducible assumption | with_reducible intro _ | with_reducible apply shaped_ite
    | with_reducible apply shaped_onLane | with_reducible apply shaped_evt
    | with_reducible apply shaped_bumpSat | dsimp only

theorem shaped_execRxWake (l : Lane) (s : State) (h0 : Shaped s) :
    ∃ s', execRxWake l s = .next s' ∧ Shaped s' := by
  refine ⟨_, rfl, ?_⟩
  repeat'
    first
    | with_reducible assumption | with_reducible intro _ | with_reducible apply shaped_when
    | with_reducible apply shaped_wr | with_reducible apply shaped_onLane | dsimp only

theorem shaped_laneWritten (s0 s : State) (i o : Nat) (h0 : Shaped s) :
    Shaped (laneWritten s0 s i o) := by
  unfold laneWritten
  dsimp only
  repeat'
    first
    | with_reducible assumption | with_reducible intro _ | with_reducible apply shaped_ite
    | with_reducible apply shaped_linkFall | with_reducible apply shaped_wr | with_reducible apply shaped_wr64
    | with_reducible apply shaped_onLane | dsimp only

theorem shaped_execPrbsInject (p : Path) (l : Lane) (s : State) (h0 : Shaped s) :
    ∃ s', execPrbsInject p l s = .next s' ∧ Shaped s' := by
  refine ⟨_, rfl, ?_⟩
  repeat'
    first
    | with_reducible assumption | with_reducible intro _ | with_reducible apply shaped_gated
    | with_reducible apply shaped_checked | with_reducible apply shaped_laneWritten | dsimp only

theorem shaped_execPrbsCheckerLock (l : Lane) (s : State) (h0 : Shaped s) :
    ∃ s', execPrbsCheckerLock l s = .next s' ∧ Shaped s' := by
  refine ⟨_, rfl, ?_⟩
  repeat'
    first
    | with_reducible assumption | with_reducible intro _ | with_reducible apply shaped_when
    | with_reducible apply shaped_onLane | dsimp only

theorem shaped_tickPrbs (s : State) (h0 : Shaped s) :
    Shaped (tickPrbs s) := by
  unfold tickPrbs
  dsimp only
  repeat'
    first
    | with_reducible assumption | with_reducible intro _ | with_reducible apply shaped_ite
    | with_reducible apply shaped_foldl | with_reducible apply shaped_wr64 | dsimp only

theorem shaped_execPrbsBitError (l : Lane) (s : State) (h0 : Shaped s) :
    ∃ s', execPrbsBitError l s = .next s' ∧ Shaped s' := by
  refine ⟨_, rfl, ?_⟩
  repeat'
    first
    | with_reducible assumption | with_reducible intro _ | with_reducible apply shaped_when
    | with_reducible apply shaped_evt | with_reducible apply shaped_bumpSat | dsimp only

end Sys2Proof.Machine
end

