-- ==== Sys2Proof/Laws/ShapeSprt.lean ====
section
/-!
SUPPORT. Every operation of Machine/Sprt.lean keeps the lengths of the lists of fixed size (Shaped).
-/
set_option linter.all false

namespace Sys2Proof.Machine

theorem shaped_onSprt (s : State) (p : Nat) (f : SprtState → SprtState) (h0 : Shaped s) :
    Shaped (onSprt s p f) := by
  unfold onSprt
  repeat'
    first
    | with_reducible assumption
    | (with_reducible refine Shaped.set_sports ?_ (fun hb => by simpa using hb.sports))

theorem shaped_remoteRecord (s : State) (p j f : Nat) (v : Option Value) (brk : Bool) (h0 : Shaped s) :
    Shaped (remoteRecord s p j f v brk) := by
  unfold remoteRecord
  dsimp only
  repeat'
    first
    | with_reducible assumption | with_reducible intro _ | with_reducible apply shaped_ite
    | with_reducible apply shaped_onSprt | with_reducible apply shaped_feedChain | split | dsimp only

theorem shaped_frameRecords (s : State) (p f : Nat) (u : Option Uplink) (h0 : Shaped s) :
    Shaped (frameRecords s p f u) := by
  unfold frameRecords
  dsimp only
  repeat'
    first
    | with_reducible assumption | with_reducible intro _ | with_reducible apply shaped_ite
    | with_reducible apply shaped_foldl | with_reducible apply shaped_remoteRecord | split | dsimp only

theorem shaped_recordsTo (s : State) (p f : Nat) (u : Option Uplink) (h0 : Shaped s) :
    Shaped (recordsTo s p f u) := by
  unfold recordsTo
  dsimp only
  repeat'
    first
    | with_reducible assumption | with_reducible intro _ | with_reducible apply shaped_ite
    | with_reducible apply shaped_foldl | with_reducible apply shaped_frameRecords
    | with_reducible apply shaped_onSprt | split | dsimp only

theorem shaped_newCmd (s : State) (p op : Nat) (args : List Word) (host : Bool) (chan : Nat) (h0 : Shaped s) :
    Shaped (newCmd s p op args host chan) := by
  unfold newCmd
  dsimp only
  repeat'
    first
    | with_reducible assumption | with_reducible intro _ | with_reducible apply shaped_onSprt | dsimp only

theorem shaped_enterConfig (s : State) (p : Nat) (h0 : Shaped s) :
    Shaped (enterConfig s p) := by
  unfold enterConfig
  dsimp only
  repeat'
    first
    | with_reducible assumption | with_reducible intro _ | with_reducible apply shaped_onSprt
    | with_reducible apply shaped_drawn | dsimp only

theorem shaped_enterTrain (s : State) (p : Nat) (h0 : Shaped s) :
    Shaped (enterTrain s p) := by
  unfold enterTrain
  repeat'
    first
    | with_reducible assumption | with_reducible intro _ | with_reducible apply shaped_onSprt | dsimp only

theorem shaped_linkLoss (s : State) (p : Nat) (h0 : Shaped s) :
    Shaped (linkLoss s p) := by
  unfold linkLoss
  repeat'
    first
    | with_reducible assumption | with_reducible intro _ | with_reducible apply shaped_enterTrain
    | with_reducible apply shaped_onSprt | with_reducible apply shaped_evt
    | with_reducible apply shaped_bumpSat | dsimp only

theorem shaped_sprtScheduled (s : State) (p : Nat) (g : Nat → Word) (n : Nat) (h0 : Shaped s) :
    Shaped (sprtScheduled s p g n) := by
  unfold sprtScheduled
  dsimp only
  repeat'
    first
    | with_reducible assumption | with_reducible intro _ | with_reducible apply shaped_ite
    | with_reducible apply shaped_onSprt | dsimp only

theorem shaped_enterRunSp (s : State) (p : Nat) (h0 : Shaped s) :
    Shaped (enterRunSp s p) := by
  unfold enterRunSp
  dsimp only
  repeat'
    first
    | with_reducible assumption | with_reducible intro _ | with_reducible apply shaped_ite
    | with_reducible apply shaped_onSprt | with_reducible apply shaped_evt
    | with_reducible apply shaped_sprtScheduled | split | dsimp only

theorem shaped_nextSet (s : State) (p : Nat) (h0 : Shaped s) :
    Shaped (nextSet s p) := by
  unfold nextSet
  dsimp only
  repeat'
    first
    | with_reducible assumption | with_reducible intro _ | with_reducible apply shaped_ite
    | with_reducible apply shaped_newCmd | with_reducible apply shaped_onSprt | split | dsimp only

theorem shaped_downlinkFrame (s : State) (p : Nat) (h0 : Shaped s) :
    Shaped (downlinkFrame s p) := by
  unfold downlinkFrame
  dsimp only
  repeat'
    first
    | with_reducible assumption | with_reducible intro _ | with_reducible apply shaped_ite
    | with_reducible apply shaped_enterTrain | with_reducible apply shaped_enterRunSp
    | with_reducible apply shaped_nextSet | with_reducible apply shaped_onSprt | split | dsimp only

theorem shaped_execDownlinkFrame (p : Fin 8) (s : State) (h0 : Shaped s) :
    ∃ s', execDownlinkFrame p s = .next s' ∧ Shaped s' := by
  refine ⟨_, rfl, ?_⟩
  repeat'
    first
    | with_reducible assumption | with_reducible apply shaped_downlinkFrame

theorem shaped_setFailed (s : State) (p : Nat) (c : SprtCmd) (h0 : Shaped s) :
    Shaped (setFailed s p c) := by
  unfold setFailed
  repeat'
    first
    | with_reducible assumption | with_reducible intro _ | with_reducible apply shaped_evt
    | with_reducible apply shaped_onSprt | dsimp only

theorem shaped_identResponse (s : State) (p : Nat) (data : List Byte) (h0 : Shaped s) :
    Shaped (identResponse s p data) := by
  unfold identResponse
  dsimp only
  repeat'
    first
    | with_reducible assumption | with_reducible intro _ | with_reducible apply shaped_ite
    | with_reducible apply shaped_onSprt | with_reducible apply shaped_evt
    | with_reducible apply shaped_enterConfig | dsimp only

theorem shaped_sprtResponse (s : State) (p : Nat) (u : Uplink) (h0 : Shaped s) :
    Shaped (sprtResponse s p u) := by
  unfold sprtResponse
  dsimp only
  repeat'
    first
    | with_reducible assumption | with_reducible intro _ | with_reducible apply shaped_ite
    | with_reducible apply shaped_onSprt | with_reducible apply shaped_identResponse
    | with_reducible apply shaped_evt | with_reducible apply shaped_setFailed | split | dsimp only

theorem shaped_execCommandResend (p : Fin 8) (s : State) (h0 : Shaped s) :
    ∃ s', execCommandResend p s = .next s' ∧ Shaped s' := by
  refine ⟨_, rfl, ?_⟩
  repeat'
    first
    | with_reducible assumption | with_reducible intro _ | with_reducible apply shaped_ite
    | with_reducible apply shaped_onSprt | with_reducible apply shaped_evt
    | with_reducible apply shaped_setFailed | split | dsimp only

theorem shaped_measureRtt (s : State) (p rtt : Nat) (h0 : Shaped s) :
    Shaped (measureRtt s p rtt) := by
  unfold measureRtt
  dsimp only
  repeat'
    first
    | with_reducible assumption | with_reducible intro _ | with_reducible apply shaped_ite
    | with_reducible apply shaped_onSprt | with_reducible apply shaped_linkLoss
    | with_reducible apply shaped_newCmd | dsimp only

theorem shaped_uplinkFrame (s : State) (p : Nat) (u : Uplink) (h0 : Shaped s) :
    Shaped (uplinkFrame s p u) := by
  unfold uplinkFrame
  dsimp only
  repeat'
    first
    | with_reducible assumption | with_reducible intro _ | with_reducible apply shaped_ite
    | with_reducible apply shaped_bumpSat | with_reducible apply shaped_recordsTo
    | with_reducible apply shaped_onSprt | with_reducible apply shaped_linkLoss
    | with_reducible apply shaped_evtIf | with_reducible apply shaped_measureRtt
    | with_reducible apply shaped_sprtResponse | dsimp only

theorem shaped_execUplinkFrame (p : Fin 8) (groups : List (BitVec 10)) (s : State) (rtt : Nat) (h0 : Shaped s) :
    ∃ s', execUplinkFrame p groups s rtt = .next s' ∧ Shaped s' := by
  refine ⟨_, rfl, ?_⟩
  repeat'
    first
    | with_reducible assumption | with_reducible intro _ | with_reducible apply shaped_uplinkFrame
    | with_reducible apply shaped_onSprt | dsimp only

theorem shaped_sendCommand (s : State) (w : Who) (p : Nat) (h0 : Shaped s) :
    Shaped (sendCommand s w p) := by
  unfold sendCommand
  dsimp only
  repeat'
    first
    | with_reducible assumption | with_reducible intro _ | with_reducible apply shaped_checked
    | with_reducible apply shaped_onSprt | with_reducible apply shaped_newCmd | dsimp only

theorem shaped_execSendCommand (p : Path) (port : Fin 8) (s : State) (h0 : Shaped s) :
    ∃ s', execSendCommand p port s = .next s' ∧ Shaped s' := by
  refine ⟨_, rfl, ?_⟩
  repeat'
    first
    | with_reducible assumption | with_reducible intro _ | with_reducible apply shaped_gated
    | with_reducible apply shaped_sendCommand | dsimp only

theorem shaped_acceptIdentity (s : State) (p : Nat) (h0 : Shaped s) :
    Shaped (acceptIdentity s p) := by
  unfold acceptIdentity
  repeat'
    first
    | with_reducible assumption | with_reducible apply shaped_ite | with_reducible apply shaped_enterConfig

theorem shaped_execAcceptIdentity (p : Path) (port : Fin 8) (s : State) (h0 : Shaped s) :
    ∃ s', execAcceptIdentity p port s = .next s' ∧ Shaped s' := by
  refine ⟨_, rfl, ?_⟩
  repeat'
    first
    | with_reducible assumption | with_reducible intro _ | with_reducible apply shaped_gated
    | with_reducible apply shaped_acceptIdentity | dsimp only

theorem shaped_retrain (s : State) (p : Nat) (h0 : Shaped s) :
    Shaped (retrain s p) := by
  unfold retrain
  repeat'
    first
    | with_reducible assumption | with_reducible apply shaped_ite | with_reducible apply shaped_enterTrain

theorem shaped_execRetrain (p : Path) (port : Fin 8) (s : State) (h0 : Shaped s) :
    ∃ s', execRetrain p port s = .next s' ∧ Shaped s' := by
  refine ⟨_, rfl, ?_⟩
  repeat'
    first
    | with_reducible assumption | with_reducible intro _ | with_reducible apply shaped_gated
    | with_reducible apply shaped_retrain | dsimp only

theorem shaped_sprtCtrl (s : State) (w : Who) (p : Nat) (v : Word) (h0 : Shaped s) :
    Shaped (sprtCtrl s w p v) := by
  unfold sprtCtrl
  repeat'
    first
    | with_reducible assumption | with_reducible apply shaped_sendCommand
    | with_reducible apply shaped_acceptIdentity | with_reducible apply shaped_retrain | split

theorem shaped_sprtEnable (s : State) (p : Nat) (on : Bool) (h0 : Shaped s) :
    Shaped (sprtEnable s p on) := by
  unfold sprtEnable
  repeat'
    first
    | with_reducible assumption | with_reducible intro _ | with_reducible apply shaped_ite
    | with_reducible apply shaped_enterTrain | with_reducible apply shaped_onSprt | dsimp only

theorem shaped_sprtCommitted (s0 s : State) (p : Nat) (h0 : Shaped s) :
    Shaped (sprtCommitted s0 s p) := by
  unfold sprtCommitted
  dsimp only
  repeat'
    first
    | with_reducible assumption | with_reducible intro _ | with_reducible apply shaped_ite
    | with_reducible apply shaped_foldl | with_reducible apply shaped_onChain
    | with_reducible apply shaped_onSprt | dsimp only

theorem shaped_tickPorts (s : State) (h0 : Shaped s) :
    Shaped (tickPorts s) := by
  unfold tickPorts
  repeat'
    first
    | with_reducible assumption | with_reducible intro _ | with_reducible apply shaped_ite
    | with_reducible apply shaped_foldl | with_reducible apply shaped_recordsTo | dsimp only

end Sys2Proof.Machine
end

