-- ==== Sys2Proof/Laws/ShapeStreams.lean ====
section
/-!
SUPPORT. Every operation of Machine/Streams.lean keeps the lengths of the lists of fixed size (Shaped).
-/
set_option linter.all false

namespace Sys2Proof.Machine

theorem shaped_onStrm (s : State) (i : Nat) (f : StreamState → StreamState) (h0 : Shaped s) :
    Shaped (onStrm s i f) := by
  unfold onStrm
  repeat'
    first
    | with_reducible assumption
    | (with_reducible refine Shaped.set_streams ?_ (fun hb => by simpa using hb.streams))

theorem shaped_setSt (s : State) (i : Nat) (st : StrmSt) (h0 : Shaped s) :
    Shaped (setSt s i st) := by
  unfold setSt
  dsimp only
  repeat'
    first
    | with_reducible assumption | with_reducible intro _ | with_reducible apply shaped_ite
    | with_reducible apply shaped_wr | with_reducible apply shaped_onStrm | dsimp only

theorem shaped_pushQuire (s : State) (i : Nat) (kind : QuireKind) (first : Nat) (slots : List Slot) (h0 : Shaped s) :
    Shaped (pushQuire s i kind first slots) := by
  unfold pushQuire
  dsimp only
  repeat'
    first
    | with_reducible assumption | with_reducible intro _ | with_reducible apply shaped_ite
    | with_reducible apply shaped_onStrm | dsimp only

theorem shaped_closeQuire (s : State) (i : Nat) (h0 : Shaped s) :
    Shaped (closeQuire s i) := by
  unfold closeQuire
  dsimp only
  repeat'
    first
    | with_reducible assumption | with_reducible intro _ | with_reducible apply shaped_ite
    | with_reducible apply shaped_onStrm | with_reducible apply shaped_pushQuire | dsimp only

theorem shaped_finishStream (s : State) (i cause : Nat) (discard : Bool) (h0 : Shaped s) :
    Shaped (finishStream s i cause discard) := by
  unfold finishStream
  dsimp only
  repeat'
    first
    | with_reducible assumption | with_reducible intro _ | with_reducible apply shaped_ite
    | with_reducible apply shaped_pushQuire | with_reducible apply shaped_onStrm | dsimp only

theorem shaped_admResult (s : State) (i id result : Nat) (h0 : Shaped s) :
    Shaped (admResult s i id result) := by
  unfold admResult
  dsimp only
  repeat'
    first
    | with_reducible assumption | with_reducible intro _ | with_reducible apply shaped_ite
    | with_reducible apply shaped_wr | with_reducible apply shaped_onStrm | with_reducible apply shaped_evt
    | with_reducible apply shaped_setSt | with_reducible apply Shaped.set_adm | dsimp only

theorem shaped_rootDecide (s : State) (r : AdmRequest) (h0 : Shaped s) :
    Shaped (rootDecide s r) := by
  unfold rootDecide
  dsimp only
  repeat'
    first
    | with_reducible assumption | with_reducible intro _ | with_reducible apply shaped_ite
    | with_reducible apply shaped_admResult | with_reducible apply shaped_sendRing | split
    | with_reducible apply Shaped.set_adm | dsimp only

theorem shaped_rootRequest (s : State) (r : AdmRequest) (h0 : Shaped s) :
    Shaped (rootRequest s r) := by
  unfold rootRequest
  repeat'
    first
    | with_reducible assumption | with_reducible apply shaped_ite | with_reducible apply shaped_rootDecide
    | with_reducible apply Shaped.set_adm

theorem shaped_rootRelease (s : State) (r : AdmRequest) (h0 : Shaped s) :
    Shaped (rootRelease s r) := by
  unfold rootRelease
  repeat'
    first
    | with_reducible assumption | with_reducible intro _ | with_reducible apply Shaped.set_adm | dsimp only

theorem shaped_sendAdm (s : State) (r : AdmRequest) (h0 : Shaped s) :
    Shaped (sendAdm s r) := by
  unfold sendAdm
  repeat'
    first
    | with_reducible assumption | with_reducible apply shaped_ite | with_reducible apply shaped_rootRelease
    | with_reducible apply shaped_rootRequest | with_reducible apply shaped_sendRing

theorem shaped_releaseAdm (s : State) (i : Nat) (h0 : Shaped s) :
    Shaped (releaseAdm s i) := by
  unfold releaseAdm
  dsimp only
  repeat'
    first
    | with_reducible assumption | with_reducible apply shaped_sendAdm | with_reducible apply Shaped.set_adm
    | dsimp only

theorem shaped_openStream (s : State) (w : Who) (i : Nat) (h0 : Shaped s) :
    Shaped (openStream s w i) := by
  unfold openStream
  dsimp only
  repeat'
    first
    | with_reducible assumption | with_reducible intro _ | with_reducible apply shaped_ite
    | with_reducible apply shaped_evt | with_reducible apply shaped_refuse | with_reducible apply shaped_onStrm
    | with_reducible apply shaped_setSt | with_reducible apply shaped_admResult
    | with_reducible apply shaped_sendAdm | split | with_reducible apply Shaped.set_adm | dsimp only

theorem shaped_execOpenStream (p : Path) (i : Nat) (s : State) (h0 : Shaped s) :
    ∃ s', execOpenStream p i s = .next s' ∧ Shaped s' := by
  refine ⟨_, rfl, ?_⟩
  repeat'
    first
    | with_reducible assumption | with_reducible intro _ | with_reducible apply shaped_gated
    | with_reducible apply shaped_openStream | dsimp only

theorem shaped_startStream (s : State) (i : Nat) (h0 : Shaped s) :
    Shaped (startStream s i) := by
  unfold startStream
  repeat'
    first
    | with_reducible assumption | with_reducible apply shaped_setSt

theorem shaped_execStreamStart (i : Fin 64) (s : State) (h0 : Shaped s) :
    ∃ s', execStreamStart i s = .next s' ∧ Shaped s' := by
  refine ⟨_, rfl, ?_⟩
  repeat'
    first
    | with_reducible assumption | with_reducible intro _ | with_reducible apply shaped_when
    | with_reducible apply shaped_startStream | dsimp only

theorem shaped_placeRec (s : State) (i : Nat) (r : WaitRec) (h0 : Shaped s) :
    Shaped (placeRec s i r) := by
  unfold placeRec
  dsimp only
  repeat'
    first
    | with_reducible assumption | with_reducible intro _ | with_reducible apply shaped_ite
    | with_reducible apply shaped_closeQuire | with_reducible apply shaped_onStrm | dsimp only

theorem shaped_drainRecs  (s : State) (i : Nat) (all : Bool) (n : Nat)
    (h0 : Shaped s) : Shaped (drainRecs s i all n) := by
  induction n generalizing s with
  | zero => exact h0
  | succ n ih =>
    unfold drainRecs
    dsimp only
    split
    · exact h0
    · repeat'
        first
        | with_reducible assumption | with_reducible apply shaped_ite
        | with_reducible apply ih | with_reducible apply shaped_onStrm | with_reducible apply shaped_placeRec

theorem shaped_closingEnd (s : State) (i : Nat) (h0 : Shaped s) :
    Shaped (closingEnd s i) := by
  unfold closingEnd
  dsimp only
  repeat'
    first
    | with_reducible assumption | with_reducible apply shaped_ite | with_reducible apply shaped_finishStream
    | dsimp only

theorem shaped_flushRecs (s : State) (i : Nat) (h0 : Shaped s) :
    Shaped (flushRecs s i) := by
  unfold flushRecs
  repeat'
    first
    | with_reducible assumption | with_reducible apply shaped_closingEnd
    | with_reducible apply shaped_drainRecs

theorem shaped_feedStream (s : State) (i ch idx : Nat) (vals : List Word) (next : Option Nat) (lost : Bool) (h0 :
    Shaped s) :
    Shaped (feedStream s i ch idx vals next lost) := by
  unfold feedStream
  dsimp only
  repeat'
    first
    | with_reducible assumption | with_reducible intro _ | with_reducible apply shaped_ite
    | with_reducible apply shaped_foldl | with_reducible apply shaped_startStream
    | with_reducible apply shaped_onStrm | with_reducible apply shaped_closingEnd
    | with_reducible apply shaped_drainRecs | dsimp only

theorem shaped_feedStreams (s : State) (src ch idx : Nat) (vals : List Word) (next : Option Nat) (lost : Bool) (h0 :
    Shaped s) :
    Shaped (feedStreams s src ch idx vals next lost) := by
  unfold feedStreams
  repeat'
    first
    | with_reducible assumption | with_reducible intro _ | with_reducible apply shaped_ite
    | with_reducible apply shaped_foldl | with_reducible apply shaped_feedStream | dsimp only

theorem shaped_startBy (s : State) (i b : Nat) (h0 : Shaped s) :
    Shaped (startBy s i b) := by
  unfold startBy
  repeat'
    first
    | with_reducible assumption | with_reducible apply shaped_ite | with_reducible apply shaped_startStream

theorem shaped_notSampled (s : State) (i a b : Nat) (h0 : Shaped s) :
    Shaped (notSampled s i a b) := by
  unfold notSampled
  dsimp only
  repeat'
    first
    | with_reducible assumption | with_reducible intro _ | with_reducible apply shaped_ite
    | with_reducible apply shaped_drainRecs | with_reducible apply shaped_closeQuire
    | with_reducible apply shaped_pushQuire | with_reducible apply shaped_closingEnd
    | with_reducible apply shaped_onStrm | dsimp only

theorem shaped_notSampledAll (s : State) (a b : Nat) (h0 : Shaped s) :
    Shaped (notSampledAll s a b) := by
  unfold notSampledAll
  dsimp only
  repeat'
    first
    | with_reducible assumption | with_reducible intro _ | with_reducible apply shaped_ite
    | with_reducible apply shaped_foldl | with_reducible apply shaped_startBy
    | with_reducible apply shaped_onStrm | with_reducible apply shaped_notSampled | dsimp only

theorem shaped_joinStream (s : State) (p : StreamPos) (h0 : Shaped s) :
    Shaped (joinStream s p) := by
  unfold joinStream
  repeat'
    first
    | with_reducible assumption | with_reducible intro _ | with_reducible apply shaped_ite
    | with_reducible apply shaped_onStrm | split | dsimp only

theorem shaped_wordErrors (count : State → Nat → Nat → State) (s : State) (errs : List QueueErr) (q : Quire) (hcount
    : ∀ x y z, Shaped x → Shaped (count x y z)) (h0 : Shaped s) :
    Shaped (wordErrors count s errs q).1 := by
  unfold wordErrors
  repeat'
    first
    | with_reducible assumption | with_reducible intro _ | with_reducible apply shaped_ite
    | with_reducible apply shaped_ite_fst | with_reducible apply shaped_foldl
    | with_reducible apply shaped_foldl_fst | with_reducible apply hcount | split | dsimp only

theorem shaped_quireErrors (s : State) (i : Nat) (errs : List QueueErr) (q : Quire) (h0 : Shaped s) :
    Shaped (quireErrors s i errs q).1 := by
  unfold quireErrors
  repeat'
    first
    | with_reducible assumption | with_reducible intro _ | with_reducible apply shaped_wordErrors
    | with_reducible apply shaped_queueError | dsimp only

theorem shaped_vatError (s : State) (corr unc : Nat) (h0 : Shaped s) :
    Shaped (vatError s corr unc) := by
  unfold vatError
  repeat'
    first
    | with_reducible assumption | with_reducible apply shaped_bumpSat

theorem shaped_feltErrors (s : State) (i : Nat) (errs : List QueueErr) (f : FeltQuire) (h0 : Shaped s) :
    Shaped (feltErrors s i errs f).1 := by
  unfold feltErrors
  dsimp only
  repeat'
    first
    | with_reducible assumption | with_reducible intro _ | with_reducible apply shaped_ite
    | with_reducible apply shaped_ite_fst | with_reducible apply shaped_wordErrors
    | with_reducible apply shaped_vatError | with_reducible apply shaped_onStrm | dsimp only

theorem shaped_storeQuire (s : State) (i : Nat) (errs : List QueueErr) (h0 : Shaped s) :
    Shaped (storeQuire s i errs) := by
  unfold storeQuire
  dsimp only
  repeat'
    first
    | with_reducible assumption | with_reducible intro _ | with_reducible apply shaped_quireErrors
    | with_reducible apply shaped_onStrm | split | dsimp only

theorem shaped_execQuireStored (i : Fin 64) (errs : List QueueErr) (s : State) (h0 : Shaped s) :
    ∃ s', execQuireStored i errs s = .next s' ∧ Shaped s' := by
  refine ⟨_, rfl, ?_⟩
  repeat'
    first
    | with_reducible assumption | with_reducible apply shaped_storeQuire

theorem shaped_sendQuire (s : State) (i : Nat) (f : FeltQuire) (h0 : Shaped s) :
    Shaped (sendQuire s i f) := by
  unfold sendQuire
  dsimp only
  repeat'
    first
    | with_reducible assumption | with_reducible intro _ | with_reducible apply shaped_ite
    | with_reducible apply shaped_sendRing | with_reducible apply shaped_onStrm
    | with_reducible apply shaped_bumpWrap | with_reducible apply shaped_evtIf
    | with_reducible apply shaped_notSampled | with_reducible apply Shaped.set_adm | dsimp only

theorem shaped_execQuireTransmit (i : Fin 64) (s : State) (errs : List QueueErr) (h0 : Shaped s) :
    ∃ s', execQuireTransmit i s errs = .next s' ∧ Shaped s' := by
  refine ⟨_, rfl, ?_⟩
  repeat'
    first
    | with_reducible assumption | with_reducible intro _ | with_reducible apply shaped_ite
    | with_reducible apply shaped_when | with_reducible apply shaped_storeQuire
    | with_reducible apply shaped_feltErrors | with_reducible apply shaped_sendQuire | split | dsimp only

theorem shaped_settleStream (s : State) (i : Nat) (h0 : Shaped s) :
    Shaped (settleStream s i) := by
  unfold settleStream
  dsimp only
  repeat'
    first
    | with_reducible assumption | with_reducible intro _ | with_reducible apply shaped_ite
    | with_reducible apply shaped_onStrm | with_reducible apply shaped_setSt | dsimp only

theorem shaped_ackStream (s : State) (i : Nat) (a : Seq32) (nack : Option Word) (h0 : Shaped s) :
    Shaped (ackStream s i a nack).1 := by
  unfold ackStream
  dsimp only
  repeat'
    first
    | with_reducible assumption | with_reducible intro _ | with_reducible apply shaped_ite
    | with_reducible apply shaped_ite_fst | with_reducible apply shaped_onStrm
    | with_reducible apply shaped_settleStream | with_reducible apply shaped_evt
    | with_reducible apply shaped_bumpSat | dsimp only

theorem shaped_hostAck (s : State) (i : Nat) (a : Seq32) (nack : Option Word) (h0 : Shaped s) :
    Shaped (hostAck s i a nack) := by
  unfold hostAck
  dsimp only
  repeat'
    first
    | with_reducible assumption | with_reducible apply shaped_ite | with_reducible apply shaped_ackStream
    | with_reducible apply shaped_sendTwin | dsimp only

theorem shaped_acknowledgement (s : State) (m : AckMsg) (h0 : Shaped s) :
    Shaped (acknowledgement s m) := by
  unfold acknowledgement
  repeat'
    first
    | with_reducible assumption | with_reducible apply shaped_ite | with_reducible apply shaped_hostAck

theorem shaped_execAcknowledgement (m : AckMsg) (s : State) (h0 : Shaped s) :
    ∃ s', execAcknowledgement m s = .next s' ∧ Shaped s' := by
  refine ⟨_, rfl, ?_⟩
  repeat'
    first
    | with_reducible assumption | with_reducible apply shaped_acknowledgement

theorem shaped_execSeqAcked (p : Path) (i : Fin 64) (a : Seq32) (s : State) (h0 : Shaped s) :
    ∃ s', execSeqAcked p i a s = .next s' ∧ Shaped s' := by
  refine ⟨_, rfl, ?_⟩
  repeat'
    first
    | with_reducible assumption | with_reducible intro _ | with_reducible apply shaped_gated
    | with_reducible apply shaped_hostAck | dsimp only

theorem shaped_execRetxAfter (i : Fin 64) (s : State) (h0 : Shaped s) :
    ∃ s', execRetxAfter i s = .next s' ∧ Shaped s' := by
  refine ⟨_, rfl, ?_⟩
  repeat'
    first
    | with_reducible assumption | with_reducible intro _ | with_reducible apply shaped_when
    | with_reducible apply shaped_onStrm | split | dsimp only

theorem shaped_recoverStreams (s : State) (h0 : Shaped s) :
    Shaped (recoverStreams s) := by
  unfold recoverStreams
  repeat'
    first
    | with_reducible assumption | with_reducible intro _ | with_reducible apply shaped_ite
    | (with_reducible refine Shaped.set_streams ?_ (fun hb => by simpa using hb.streams)) | dsimp only

theorem shaped_endStream (s : State) (i cause : Nat) (h0 : Shaped s) :
    Shaped (endStream s i cause) := by
  unfold endStream
  dsimp only
  repeat'
    first
    | with_reducible assumption | with_reducible apply shaped_ite | with_reducible apply shaped_finishStream
    | with_reducible apply shaped_evt | with_reducible apply shaped_setSt
    | with_reducible apply shaped_releaseAdm | dsimp only

theorem shaped_closeStream (s : State) (w : Who) (i : Nat) (h0 : Shaped s) :
    Shaped (closeStream s w i) := by
  unfold closeStream
  dsimp only
  repeat'
    first
    | with_reducible assumption | with_reducible intro _ | with_reducible apply shaped_checked
    | with_reducible apply shaped_closingEnd | with_reducible apply shaped_setSt
    | with_reducible apply shaped_releaseAdm | with_reducible apply shaped_onStrm | split
    | with_reducible apply Shaped.set_adm | dsimp only

theorem shaped_execCloseStream (p : Path) (i : Nat) (s : State) (h0 : Shaped s) :
    ∃ s', execCloseStream p i s = .next s' ∧ Shaped s' := by
  refine ⟨_, rfl, ?_⟩
  repeat'
    first
    | with_reducible assumption | with_reducible intro _ | with_reducible apply shaped_gated
    | with_reducible apply shaped_closeStream | dsimp only

theorem shaped_clearStream (s : State) (w : Who) (i : Nat) (h0 : Shaped s) :
    Shaped (clearStream s w i) := by
  unfold clearStream
  repeat'
    first
    | with_reducible assumption | with_reducible intro _ | with_reducible apply shaped_ite
    | with_reducible apply shaped_checked | with_reducible apply shaped_onStrm
    | with_reducible apply shaped_setSt | dsimp only

theorem shaped_execClearStream (p : Path) (i : Nat) (s : State) (h0 : Shaped s) :
    ∃ s', execClearStream p i s = .next s' ∧ Shaped s' := by
  refine ⟨_, rfl, ?_⟩
  repeat'
    first
    | with_reducible assumption | with_reducible intro _ | with_reducible apply shaped_gated
    | with_reducible apply shaped_clearStream | dsimp only

theorem shaped_strmCtrl (s : State) (w : Who) (v : Word) (h0 : Shaped s) :
    Shaped (strmCtrl s w v) := by
  unfold strmCtrl
  repeat'
    first
    | with_reducible assumption | with_reducible apply shaped_openStream
    | with_reducible apply shaped_closeStream | with_reducible apply shaped_clearStream
    | with_reducible apply shaped_refuse | split

theorem shaped_strmSelWrite (s : State) (v : Word) (h0 : Shaped s) :
    Shaped (strmSelWrite s v) := by
  unfold strmSelWrite
  repeat'
    first
    | with_reducible assumption | with_reducible apply Shaped.set_strmSel

end Sys2Proof.Machine
end

