-- ==== Sys2Proof/Laws/ShapeVat.lean ====
section
/-!
SUPPORT. Every operation of Machine/Vat.lean keeps the lengths of the lists of fixed size (Shaped).
-/
set_option linter.all false

namespace Sys2Proof.Machine

theorem shaped_vatPutWord (s : State) (a : Nat) (w : Word) (h0 : Shaped s) :
    Shaped (vatPutWord s a w) := by
  unfold vatPutWord
  repeat'
    first
    | with_reducible assumption | with_reducible intro _ | with_reducible apply shaped_foldl
    | with_reducible apply shaped_vatPut | dsimp only

theorem shaped_vatPutWords (s : State) (a : Nat) (l : List Word) (h0 : Shaped s) :
    Shaped (vatPutWords s a l) := by
  unfold vatPutWords
  repeat'
    first
    | with_reducible assumption | with_reducible intro _ | with_reducible apply shaped_foldl
    | with_reducible apply shaped_foldl_fst | with_reducible apply shaped_vatPutWord | dsimp only

theorem shaped_vatPutBytes (s : State) (a : Nat) (l : List Byte) (h0 : Shaped s) :
    Shaped (vatPutBytes s a l) := by
  unfold vatPutBytes
  repeat'
    first
    | with_reducible assumption | with_reducible intro _ | with_reducible apply shaped_foldl
    | with_reducible apply shaped_foldl_fst | with_reducible apply shaped_vatPut | dsimp only

end Sys2Proof.Machine
end

