-- ==== Sys2Proof/Laws/ShapeCapture.lean ====
section
/-!
SUPPORT. Every operation of Machine/Capture.lean keeps the lengths of the lists of fixed size (Shaped).
-/
set_option linter.all false

namespace Sys2Proof.Machine

theorem shaped_onReam (s : State) (r : Nat) (f : ReamState → ReamState) (h0 : Shaped s) :
    Shaped (onReam s r f) := by
  unfold onReam
  repeat'
    first
    | with_reducible assumption
    | (with_reducible refine Shaped.set_reams ?_ (fun hb => by simpa using hb.reams))

theorem shaped_setReam (s : State) (r : Nat) (st : ReamSt) (h0 : Shaped s) :
    Shaped (setReam s r st) := by
  unfold setReam
  repeat'
    first
    | with_reducible assumption | with_reducible intro _ | with_reducible apply shaped_ite
    | with_reducible apply shaped_evt | with_reducible apply shaped_onReam | dsimp only

theorem shaped_reamWait (s : State) (r n : Nat) (h0 : Shaped s) :
    Shaped (reamWait s r n) := by
  unfold reamWait
  repeat'
    first
    | with_reducible assumption | with_reducible intro _ | with_reducible apply shaped_setReam
    | with_reducible apply shaped_onReam | dsimp only

theorem shaped_reamStart (s : State) (r : Nat) (h0 : Shaped s) :
    Shaped (reamStart s r) := by
  unfold reamStart
  dsimp only
  repeat'
    first
    | with_reducible assumption | with_reducible intro _ | with_reducible apply shaped_ite
    | with_reducible apply shaped_onReam | with_reducible apply shaped_reamWait | dsimp only

theorem shaped_armReam (s : State) (w : Who) (r : Nat) (armAt : Option Nat) (h0 : Shaped s) :
    Shaped (armReam s w r armAt) := by
  unfold armReam
  dsimp only
  repeat'
    first
    | with_reducible assumption | with_reducible intro _ | with_reducible apply shaped_ite
    | with_reducible apply shaped_checked | with_reducible apply shaped_onReam
    | with_reducible apply shaped_setReam | with_reducible apply shaped_reamStart | dsimp only

theorem shaped_execArm (p : Path) (r : Fin 16) (s : State) (h0 : Shaped s) :
    ∃ s', execArm p r s = .next s' ∧ Shaped s' := by
  refine ⟨_, rfl, ?_⟩
  repeat'
    first
    | with_reducible assumption | with_reducible intro _ | with_reducible apply shaped_gated
    | with_reducible apply shaped_armReam | dsimp only

theorem shaped_execArmAt (p : Path) (r : Fin 16) (s : State) (h0 : Shaped s) :
    ∃ s', execArmAt p r s = .next s' ∧ Shaped s' := by
  refine ⟨_, rfl, ?_⟩
  repeat'
    first
    | with_reducible assumption | with_reducible intro _ | with_reducible apply shaped_gated
    | with_reducible apply shaped_armReam | dsimp only

theorem shaped_execArmAtReached (r : Fin 16) (s : State) (h0 : Shaped s) :
    ∃ s', execArmAtReached r s = .next s' ∧ Shaped s' := by
  refine ⟨_, rfl, ?_⟩
  repeat'
    first
    | with_reducible assumption | with_reducible intro _ | with_reducible apply shaped_when
    | with_reducible apply shaped_reamStart | dsimp only

theorem shaped_writeHeader (s : State) (r : Nat) (g : Segment) (h0 : Shaped s) :
    Shaped (writeHeader s r g) := by
  unfold writeHeader
  dsimp only
  repeat'
    first
    | with_reducible assumption | with_reducible intro _ | with_reducible apply shaped_vatPutWords
    | with_reducible apply shaped_evt | with_reducible apply shaped_onReam | dsimp only

theorem shaped_storeSlots (s : State) (r : Nat) (g : Segment) (h0 : Shaped s) :
    Shaped (storeSlots s r g) := by
  unfold storeSlots
  repeat'
    first
    | with_reducible assumption | with_reducible apply shaped_vatPutWords

theorem shaped_segSlotError (a : State × Segment) (r k : Nat) (h0 : Shaped a.1) :
    Shaped (segSlotError a r k).1 := by
  unfold segSlotError
  dsimp only
  repeat'
    first
    | with_reducible assumption | with_reducible apply shaped_ite | with_reducible apply shaped_ite_fst
    | with_reducible apply shaped_storeSlots | with_reducible apply shaped_vatError | dsimp only

theorem shaped_segErrors (s : State) (r : Nat) (errs : List QueueErr) (g : Segment) (h0 : Shaped s) :
    Shaped (segErrors s r errs g).1 := by
  unfold segErrors
  repeat'
    first
    | with_reducible assumption | with_reducible intro _ | with_reducible apply shaped_foldl
    | with_reducible apply shaped_foldl_fst | with_reducible apply shaped_vatError
    | with_reducible apply shaped_segSlotError | split | dsimp only

theorem shaped_execSegmentDone (r : Fin 16) (s : State) (errs : List QueueErr) (h0 : Shaped s) :
    ∃ s', execSegmentDone r s errs = .next s' ∧ Shaped s' := by
  refine ⟨_, rfl, ?_⟩
  repeat'
    first
    | with_reducible assumption | with_reducible intro _ | with_reducible apply shaped_segErrors
    | with_reducible apply shaped_onReam | with_reducible apply shaped_writeHeader | split | dsimp only

theorem shaped_closeSegment (s : State) (r : Nat) (incomplete : Bool) (h0 : Shaped s) :
    Shaped (closeSegment s r incomplete) := by
  unfold closeSegment
  dsimp only
  repeat'
    first
    | with_reducible assumption | with_reducible intro _ | with_reducible apply shaped_ite
    | with_reducible apply shaped_flushRecs | with_reducible apply shaped_onReam | split | dsimp only

theorem shaped_stopReam (s : State) (r cause : Nat) (h0 : Shaped s) :
    Shaped (stopReam s r cause) := by
  unfold stopReam
  dsimp only
  repeat'
    first
    | with_reducible assumption | with_reducible intro _ | with_reducible apply shaped_closeSegment
    | with_reducible apply shaped_evt | with_reducible apply shaped_setReam
    | with_reducible apply shaped_onReam | dsimp only

theorem shaped_spillEnded (s : State) (i : Nat) (h0 : Shaped s) :
    Shaped (spillEnded s i) := by
  unfold spillEnded
  repeat'
    first
    | with_reducible assumption | with_reducible intro _ | with_reducible apply shaped_ite
    | with_reducible apply shaped_foldl | with_reducible apply shaped_stopReam | dsimp only

theorem shaped_endSpills (s : State) (i cause : Nat) (h0 : Shaped s) :
    Shaped (endSpills s i cause) := by
  unfold endSpills
  repeat'
    first
    | with_reducible assumption | with_reducible apply shaped_spillEnded
    | with_reducible apply shaped_endStream

theorem shaped_execTHoldExpiry (i : Fin 64) (s : State) (h0 : Shaped s) :
    ∃ s', execTHoldExpiry i s = .next s' ∧ Shaped s' := by
  refine ⟨_, rfl, ?_⟩
  repeat'
    first
    | with_reducible assumption | with_reducible intro _ | with_reducible apply shaped_when
    | with_reducible apply shaped_endSpills | dsimp only

theorem shaped_segmentEnd (s : State) (r : Nat) (h0 : Shaped s) :
    Shaped (segmentEnd s r) := by
  unfold segmentEnd
  dsimp only
  repeat'
    first
    | with_reducible assumption | with_reducible intro _ | with_reducible apply shaped_ite
    | with_reducible apply shaped_closeSegment | with_reducible apply shaped_stopReam
    | with_reducible apply shaped_setReam | with_reducible apply shaped_reamWait
    | with_reducible apply shaped_onReam | dsimp only

theorem shaped_execHoldoffEnd (r : Fin 16) (s : State) (h0 : Shaped s) :
    ∃ s', execHoldoffEnd r s = .next s' ∧ Shaped s' := by
  refine ⟨_, rfl, ?_⟩
  repeat'
    first
    | with_reducible assumption | with_reducible intro _ | with_reducible apply shaped_when
    | with_reducible apply shaped_reamWait | dsimp only

theorem shaped_postRecord (s : State) (r : Nat) (x : ReamRec) (h0 : Shaped s) :
    Shaped (postRecord s r x) := by
  unfold postRecord
  dsimp only
  repeat'
    first
    | with_reducible assumption | with_reducible intro _ | with_reducible apply shaped_ite
    | with_reducible apply shaped_stopReam | with_reducible apply shaped_onReam
    | with_reducible apply shaped_storeSlots | with_reducible apply shaped_evtIf
    | with_reducible apply shaped_feedStream | with_reducible apply shaped_segmentEnd | split | dsimp only

theorem shaped_takeTrigger (s : State) (r : Nat) (c : Cand) (h0 : Shaped s) :
    Shaped (takeTrigger s r c) := by
  unfold takeTrigger
  dsimp only
  repeat'
    first
    | with_reducible assumption | with_reducible intro _ | with_reducible apply shaped_ite
    | with_reducible apply shaped_foldl | with_reducible apply shaped_onReam
    | with_reducible apply shaped_storeSlots | with_reducible apply shaped_strobeSegment
    | with_reducible apply shaped_evtIf | with_reducible apply shaped_evt | with_reducible apply shaped_setReam
    | with_reducible apply shaped_segmentEnd | with_reducible apply shaped_postRecord | dsimp only

theorem shaped_ignoredTrigger (s : State) (h0 : Shaped s) :
    Shaped (ignoredTrigger s) := by
  unfold ignoredTrigger
  repeat'
    first
    | with_reducible assumption | with_reducible apply shaped_bumpSat

theorem shaped_ringDecided (s : State) (r segment n : Nat) (h0 : Shaped s) :
    Shaped (ringDecided s r segment n) := by
  unfold ringDecided
  dsimp only
  repeat'
    first
    | with_reducible assumption | with_reducible intro _ | with_reducible apply shaped_ite
    | with_reducible apply shaped_onReam | with_reducible apply shaped_vatPutWord
    | with_reducible apply shaped_evt | with_reducible apply shaped_bumpSat | dsimp only

theorem shaped_afterDecision (s : State) (r : Nat) (c : Cand) (h0 : Shaped s) :
    Shaped (afterDecision s r c) := by
  unfold afterDecision
  repeat'
    first
    | with_reducible assumption | with_reducible apply shaped_ite | with_reducible apply shaped_ringDecided
    | with_reducible apply shaped_ignoredTrigger

theorem shaped_nominate (s : State) (r : Nat) (k : Cand) (h0 : Shaped s) :
    Shaped (nominate s r k) := by
  unfold nominate
  repeat'
    first
    | with_reducible assumption | with_reducible intro _ | with_reducible apply shaped_ite
    | with_reducible apply shaped_takeTrigger | with_reducible apply shaped_onReam | dsimp only

theorem shaped_candidate (s : State) (r : Nat) (c : Cand) (h0 : Shaped s) :
    Shaped (candidate s r c) := by
  unfold candidate
  repeat'
    first
    | with_reducible assumption | with_reducible apply shaped_ite | with_reducible apply shaped_takeTrigger
    | with_reducible apply shaped_afterDecision | with_reducible apply shaped_nominate | split

theorem shaped_sendTrigger (s : State) (r : Nat) (c : Cand) (h0 : Shaped s) :
    Shaped (sendTrigger s r c) := by
  unfold sendTrigger
  repeat'
    first
    | with_reducible assumption | with_reducible apply shaped_ite | with_reducible apply shaped_sendRing

theorem shaped_fire (s : State) (r : Nat) (c : Cand) (h0 : Shaped s) :
    Shaped (fire s r c) := by
  unfold fire
  dsimp only
  repeat'
    first
    | with_reducible assumption | with_reducible intro _ | with_reducible apply shaped_ite
    | with_reducible apply shaped_reamWait | with_reducible apply shaped_ignoredTrigger
    | with_reducible apply shaped_candidate | with_reducible apply shaped_sendTrigger
    | with_reducible apply shaped_onReam | split | dsimp only

theorem shaped_reamRecord (s : State) (r : Nat) (x : ReamRec) (h0 : Shaped s) :
    Shaped (reamRecord s r x) := by
  unfold reamRecord
  dsimp only
  repeat'
    first
    | with_reducible assumption | with_reducible intro _ | with_reducible apply shaped_ite
    | with_reducible apply shaped_reamStart | with_reducible apply shaped_onReam
    | with_reducible apply shaped_fire | with_reducible apply shaped_postRecord
    | with_reducible apply shaped_reamWait | dsimp only

theorem shaped_reamsRecord (s : State) (ch idx : Nat) (w : Word) (h0 : Shaped s) :
    Shaped (reamsRecord s ch idx w) := by
  unfold reamsRecord
  repeat'
    first
    | with_reducible assumption | with_reducible intro _ | with_reducible apply shaped_foldl
    | with_reducible apply shaped_reamRecord | dsimp only

theorem shaped_reamsPin (s : State) (pin : Nat) (falling : Bool) (stamp : Nat) (h0 : Shaped s) :
    Shaped (reamsPin s pin falling stamp) := by
  unfold reamsPin
  dsimp only
  repeat'
    first
    | with_reducible assumption | with_reducible intro _ | with_reducible apply shaped_ite
    | with_reducible apply shaped_foldl | with_reducible apply shaped_fire | dsimp only

theorem shaped_hostTrigger (s : State) (r : Nat) (h0 : Shaped s) :
    Shaped (hostTrigger s r) := by
  unfold hostTrigger
  repeat'
    first
    | with_reducible assumption | with_reducible apply shaped_ite | with_reducible apply shaped_fire

theorem shaped_execHostTrigger (p : Path) (r : Fin 16) (s : State) (h0 : Shaped s) :
    ∃ s', execHostTrigger p r s = .next s' ∧ Shaped s' := by
  refine ⟨_, rfl, ?_⟩
  repeat'
    first
    | with_reducible assumption | with_reducible intro _ | with_reducible apply shaped_gated
    | with_reducible apply shaped_hostTrigger | dsimp only

theorem shaped_execAutoTrigger (r : Fin 16) (s : State) (h0 : Shaped s) :
    ∃ s', execAutoTrigger r s = .next s' ∧ Shaped s' := by
  refine ⟨_, rfl, ?_⟩
  repeat'
    first
    | with_reducible assumption | with_reducible intro _ | with_reducible apply shaped_when
    | with_reducible apply shaped_candidate | dsimp only

theorem shaped_execTriggerDecision (r : Fin 16) (s : State) (h0 : Shaped s) :
    ∃ s', execTriggerDecision r s = .next s' ∧ Shaped s' := by
  refine ⟨_, rfl, ?_⟩
  repeat'
    first
    | with_reducible assumption | with_reducible intro _ | with_reducible apply shaped_when
    | with_reducible apply shaped_takeTrigger | split | dsimp only

theorem shaped_ringTriggerFor (s : State) (r : Nat) (t : RingTrigger) (h0 : Shaped s) :
    Shaped (ringTriggerFor s r t) := by
  unfold ringTriggerFor
  dsimp only
  repeat'
    first
    | with_reducible assumption | with_reducible apply shaped_ite | with_reducible apply shaped_candidate
    | with_reducible apply shaped_ringDecided | dsimp only

theorem shaped_ringTriggered (s : State) (t : RingTrigger) (h0 : Shaped s) :
    Shaped (ringTriggered s t) := by
  unfold ringTriggered
  repeat'
    first
    | with_reducible assumption | with_reducible intro _ | with_reducible apply shaped_ite
    | with_reducible apply shaped_foldl | with_reducible apply shaped_ringTriggerFor | dsimp only

theorem shaped_execRingTrigger (t : RingTrigger) (s : State) (h0 : Shaped s) :
    ∃ s', execRingTrigger t s = .next s' ∧ Shaped s' := by
  refine ⟨_, rfl, ?_⟩
  repeat'
    first
    | with_reducible assumption | with_reducible apply shaped_ringTriggered

theorem shaped_disarmReam (s : State) (r : Nat) (h0 : Shaped s) :
    Shaped (disarmReam s r) := by
  unfold disarmReam
  repeat'
    first
    | with_reducible assumption | with_reducible apply shaped_ite | with_reducible apply shaped_stopReam

theorem shaped_execDisarm (p : Path) (r : Fin 16) (s : State) (h0 : Shaped s) :
    ∃ s', execDisarm p r s = .next s' ∧ Shaped s' := by
  refine ⟨_, rfl, ?_⟩
  repeat'
    first
    | with_reducible assumption | with_reducible intro _ | with_reducible apply shaped_gated
    | with_reducible apply shaped_disarmReam | dsimp only

theorem shaped_clearReam (s : State) (w : Who) (r : Nat) (h0 : Shaped s) :
    Shaped (clearReam s w r) := by
  unfold clearReam
  repeat'
    first
    | with_reducible assumption | with_reducible intro _ | with_reducible apply shaped_checked
    | with_reducible apply shaped_setReam | with_reducible apply shaped_onReam | dsimp only

theorem shaped_execReamClear (p : Path) (r : Fin 16) (s : State) (h0 : Shaped s) :
    ∃ s', execReamClear p r s = .next s' ∧ Shaped s' := by
  refine ⟨_, rfl, ?_⟩
  repeat'
    first
    | with_reducible assumption | with_reducible intro _ | with_reducible apply shaped_gated
    | with_reducible apply shaped_clearReam | dsimp only

theorem shaped_captCtrl (s : State) (w : Who) (v : Word) (h0 : Shaped s) :
    Shaped (captCtrl s w v) := by
  unfold captCtrl
  dsimp only
  repeat'
    first
    | with_reducible assumption | with_reducible apply shaped_armReam | with_reducible apply shaped_disarmReam
    | with_reducible apply shaped_clearReam | with_reducible apply shaped_hostTrigger
    | with_reducible apply shaped_refuse | split | dsimp only

theorem shaped_noteGap (s : State) (a b : Nat) (h0 : Shaped s) :
    Shaped (noteGap s a b) := by
  unfold noteGap
  repeat'
    first
    | with_reducible assumption | with_reducible apply Shaped.set_gaps

theorem shaped_captDusk (s : State) (h0 : Shaped s) :
    Shaped (captDusk s) := by
  unfold captDusk
  repeat'
    first
    | with_reducible assumption | with_reducible intro _ | with_reducible apply shaped_ite
    | with_reducible apply shaped_foldl | with_reducible apply shaped_stopReam | dsimp only

theorem shaped_captWarm (s : State) (h0 : Shaped s) :
    Shaped (captWarm s) := by
  unfold captWarm
  dsimp only
  repeat'
    first
    | with_reducible assumption | with_reducible intro _ | with_reducible apply shaped_ite
    | with_reducible apply shaped_foldl | with_reducible apply shaped_stopReam
    | with_reducible apply shaped_writeHeader | with_reducible apply shaped_onReam | dsimp only

theorem shaped_captSelWrite (s : State) (v : Word) (h0 : Shaped s) :
    Shaped (captSelWrite s v) := by
  unfold captSelWrite
  repeat'
    first
    | with_reducible assumption | with_reducible apply Shaped.set_captSel

end Sys2Proof.Machine
end

