-- ==== Sys2Proof/Laws/ShapeTime.lean ====
section
/-!
SUPPORT. Every operation of Machine/Time.lean keeps the lengths of the lists of fixed size (Shaped).
-/
set_option linter.all false

namespace Sys2Proof.Machine

theorem shaped_onTime (s : State) (f : TimeState → TimeState)
    (hf : ∀ t, t.doms.length = 2 → t.ports.length = 4 → (f t).doms.length = 2 ∧ (f t).ports.length = 4)
    (h0 : Shaped s) : Shaped (onTime s f) := by
  unfold onTime
  exact Shaped.set_time h0 (fun hb => hf _ hb.time_doms hb.time_ports)

theorem shaped_onDom (s : State) (d : Nat) (f : DomainState → DomainState) (h0 : Shaped s) :
    Shaped (onDom s d f) := by
  unfold onDom
  repeat'
    first
    | with_reducible assumption | with_reducible intro _
    | (with_reducible refine shaped_onTime _ _ (fun t h1 h2 => by simp [h1, h2]) ?_) | dsimp only

theorem shaped_onPort (s : State) (l : Lane) (f : PortDelay → PortDelay) (h0 : Shaped s) :
    Shaped (onPort s l f) := by
  unfold onPort
  repeat'
    first
    | with_reducible assumption | with_reducible intro _
    | (with_reducible refine shaped_onTime _ _ (fun t h1 h2 => by simp [h1, h2]) ?_) | dsimp only

theorem shaped_setServo (s : State) (d : Nat) (v : Servo) (h0 : Shaped s) :
    Shaped (setServo s d v) := by
  unfold setServo
  dsimp only
  repeat'
    first
    | with_reducible assumption | with_reducible intro _ | with_reducible apply shaped_ite
    | with_reducible apply shaped_onDom | with_reducible apply shaped_evtIf | with_reducible apply shaped_evt
    | dsimp only

theorem shaped_stepHub (s : State) (step : Int) (h0 : Shaped s) :
    Shaped (stepHub s step) := by
  unfold stepHub
  dsimp only
  repeat'
    first
    | with_reducible assumption | with_reducible intro _ | with_reducible apply shaped_ite
    | (with_reducible refine shaped_onTime _ _ (fun t h1 h2 => by simp [h1, h2]) ?_)
    | with_reducible apply shaped_bumpSat | with_reducible apply shaped_evt | with_reducible apply shaped_wr
    | with_reducible apply shaped_noteGap | with_reducible apply shaped_notSampledAll
    | with_reducible apply shaped_restartChains | dsimp only

theorem shaped_servoUpdate (s : State) (d : Nat) (o : Int) (h0 : Shaped s) :
    Shaped (servoUpdate s d o) := by
  unfold servoUpdate
  dsimp only
  repeat'
    first
    | with_reducible assumption | with_reducible intro _ | with_reducible apply shaped_ite
    | (with_reducible refine shaped_onTime _ _ (fun t h1 h2 => by simp [h1, h2]) ?_) | dsimp only

theorem shaped_slewF (s : State) (o : Int) (h0 : Shaped s) :
    Shaped (slewF s o) := by
  unfold slewF
  dsimp only
  repeat'
    first
    | with_reducible assumption | with_reducible intro _ | with_reducible apply shaped_ite
    | (with_reducible refine shaped_onTime _ _ (fun t h1 h2 => by simp [h1, h2]) ?_) | dsimp only

theorem shaped_countFar (s : State) (d : Nat) (o : Int) (h0 : Shaped s) :
    Shaped (countFar s d o) := by
  unfold countFar
  repeat'
    first
    | with_reducible assumption | with_reducible intro _ | with_reducible apply shaped_ite
    | with_reducible apply shaped_onDom | dsimp only

theorem shaped_countNear (s : State) (d : Nat) (o : Int) (h0 : Shaped s) :
    Shaped (countNear s d o) := by
  unfold countNear
  dsimp only
  repeat'
    first
    | with_reducible assumption | with_reducible intro _ | with_reducible apply shaped_ite
    | with_reducible apply shaped_onDom | with_reducible apply shaped_setServo | dsimp only

theorem shaped_acquireAgain (s : State) (d : Nat) (h0 : Shaped s) :
    Shaped (acquireAgain s d) := by
  unfold acquireAgain
  repeat'
    first
    | with_reducible assumption | with_reducible apply shaped_ite | with_reducible apply shaped_setServo

theorem shaped_servoStep (s : State) (d : Nat) (o : Int) (h0 : Shaped s) :
    Shaped (servoStep s d o) := by
  unfold servoStep
  dsimp only
  repeat'
    first
    | with_reducible assumption | with_reducible intro _ | with_reducible apply shaped_acquireAgain
    | with_reducible apply shaped_stepHub
    | (with_reducible refine shaped_onTime _ _ (fun t h1 h2 => by simp [h1, h2]) ?_)
    | with_reducible apply shaped_onDom | with_reducible apply shaped_servoUpdate | dsimp only

theorem shaped_syncEnters (s : State) (d : Nat) (o : Int) (h0 : Shaped s) :
    Shaped (syncEnters s d o) := by
  unfold syncEnters
  repeat'
    first
    | with_reducible assumption | with_reducible apply shaped_ite | with_reducible apply shaped_setServo
    | split

theorem shaped_trackedSync (s : State) (d : Nat) (o : Int) (h0 : Shaped s) :
    Shaped (trackedSync s d o) := by
  unfold trackedSync
  dsimp only
  repeat'
    first
    | with_reducible assumption | with_reducible intro _ | with_reducible apply shaped_ite
    | with_reducible apply shaped_syncEnters | with_reducible apply shaped_onDom
    | with_reducible apply shaped_servoUpdate | with_reducible apply shaped_countFar
    | with_reducible apply shaped_servoStep | with_reducible apply shaped_acquireAgain
    | with_reducible apply shaped_slewF
    | (with_reducible refine shaped_onTime _ _ (fun t h1 h2 => by simp [h1, h2]) ?_)
    | with_reducible apply shaped_countNear | with_reducible apply shaped_evt
    | with_reducible apply shaped_bumpSat | dsimp only

theorem shaped_shadowSync (s : State) (d : Nat) (o : Int) (h0 : Shaped s) :
    Shaped (shadowSync s d o) := by
  unfold shadowSync
  repeat'
    first
    | with_reducible assumption | with_reducible apply shaped_countNear
    | with_reducible apply shaped_syncEnters

theorem shaped_showUtc (s : State) (h0 : Shaped s) :
    Shaped (showUtc s) := by
  unfold showUtc
  repeat'
    first
    | with_reducible assumption | with_reducible apply shaped_wr | split

theorem shaped_switchDomain (s : State) (d : Nat) (o : Int) (h0 : Shaped s) :
    Shaped (switchDomain s d o) := by
  unfold switchDomain
  dsimp only
  repeat'
    first
    | with_reducible assumption | with_reducible intro _
    | (with_reducible refine shaped_onTime _ _ (fun t h1 h2 => by simp [h1, h2]) ?_)
    | with_reducible apply shaped_onDom | with_reducible apply shaped_servoUpdate
    | with_reducible apply shaped_evt | with_reducible apply shaped_showUtc | dsimp only

theorem shaped_acceptSync (s : State) (d : Nat) (seq : Seq16) (o : Int) (h0 : Shaped s) :
    Shaped (acceptSync s d seq o) := by
  unfold acceptSync
  dsimp only
  repeat'
    first
    | with_reducible assumption | with_reducible intro _ | with_reducible apply shaped_ite
    | with_reducible apply shaped_onDom | with_reducible apply shaped_bumpWrap | with_reducible apply shaped_wr
    | with_reducible apply shaped_trackedSync | with_reducible apply shaped_switchDomain
    | with_reducible apply shaped_shadowSync | dsimp only

theorem shaped_discardPtp (s : State) (d : Nat) (h0 : Shaped s) :
    Shaped (discardPtp s d) := by
  unfold discardPtp
  repeat'
    first
    | with_reducible assumption | with_reducible apply shaped_bumpSat

theorem shaped_takeSync (s : State) (d : Nat) (m : SyncMsg) (h0 : Shaped s) :
    Shaped (takeSync s d m) := by
  unfold takeSync
  dsimp only
  repeat'
    first
    | with_reducible assumption | with_reducible intro _ | with_reducible apply shaped_ite
    | with_reducible apply shaped_onDom | with_reducible apply shaped_acceptSync
    | with_reducible apply shaped_bumpSat | dsimp only

theorem shaped_syncMessage (s : State) (m : SyncMsg) (h0 : Shaped s) :
    Shaped (syncMessage s m) := by
  unfold syncMessage
  repeat'
    first
    | with_reducible assumption | with_reducible intro _ | with_reducible apply shaped_ite
    | with_reducible apply shaped_discardPtp | with_reducible apply shaped_onDom
    | with_reducible apply shaped_takeSync | split | dsimp only

theorem shaped_followUp (s : State) (domain : Nat) (seq : Seq16) (origin corr : Int) (h0 : Shaped s) :
    Shaped (followUp s domain seq origin corr) := by
  unfold followUp
  repeat'
    first
    | with_reducible assumption | with_reducible intro _ | with_reducible apply shaped_ite
    | with_reducible apply shaped_discardPtp | with_reducible apply shaped_takeSync
    | with_reducible apply shaped_onDom | split | dsimp only

theorem shaped_execFollowUp (domain : Nat) (seq : Seq16) (origin corr : Int) (s : State) (h0 : Shaped s) :
    ∃ s', execFollowUp domain seq origin corr s = .next s' ∧ Shaped s' := by
  refine ⟨_, rfl, ?_⟩
  repeat'
    first
    | with_reducible assumption | with_reducible apply shaped_followUp

theorem shaped_ptpPair (s : State) (b0 b1 : FrameBody) (h0 : Shaped s) :
    Shaped (ptpPair s b0 b1) := by
  unfold ptpPair
  repeat'
    first
    | with_reducible assumption | with_reducible apply shaped_ite | with_reducible apply shaped_insertBoth
    | with_reducible apply shaped_sendBeacon

theorem shaped_ptpRing (s : State) (b : FrameBody) (h0 : Shaped s) :
    Shaped (ptpRing s b) := by
  unfold ptpRing
  repeat'
    first
    | with_reducible assumption | with_reducible apply shaped_ptpPair

theorem shaped_delayReq (s : State) (domain : Nat) (dir : ReqDir) (h0 : Shaped s) :
    Shaped (delayReq s domain dir) := by
  unfold delayReq
  dsimp only
  repeat'
    first
    | with_reducible assumption | with_reducible intro _ | with_reducible apply shaped_ite
    | with_reducible apply shaped_discardPtp | with_reducible apply shaped_onDom
    | with_reducible apply shaped_emitOwn | with_reducible apply shaped_delayResp | split | dsimp only

theorem shaped_execDelayReq (domain : Nat) (d : ReqDir) (s : State) (h0 : Shaped s) :
    ∃ s', execDelayReq domain d s = .next s' ∧ Shaped s' := by
  refine ⟨_, rfl, ?_⟩
  repeat'
    first
    | with_reducible assumption | with_reducible apply shaped_delayReq

theorem shaped_setDelay (s : State) (l : Lane) (m : Int) (h0 : Shaped s) :
    Shaped (setDelay s l m) := by
  unfold setDelay
  repeat'
    first
    | with_reducible assumption | with_reducible intro _ | with_reducible apply shaped_wr
    | with_reducible apply shaped_onPort | dsimp only

theorem shaped_delayResp (s : State) (domain : Nat) (seq : Seq16) (rx corr : Int) (h0 : Shaped s) :
    Shaped (delayResp s domain seq rx corr) := by
  unfold delayResp
  dsimp only
  repeat'
    first
    | with_reducible assumption | with_reducible intro _ | with_reducible apply shaped_ite
    | with_reducible apply shaped_discardPtp | with_reducible apply shaped_setDelay
    | with_reducible apply shaped_onDom | split | dsimp only

theorem shaped_execDelayResp (domain : Nat) (seq : Seq16) (rx : Int) (s : State) (corr : Int) (h0 : Shaped s) :
    ∃ s', execDelayResp domain seq rx s corr = .next s' ∧ Shaped s' := by
  refine ⟨_, rfl, ?_⟩
  repeat'
    first
    | with_reducible assumption | with_reducible apply shaped_delayResp

theorem shaped_pdelayReq (s : State) (l : Lane) (dir : ReqDir) (h0 : Shaped s) :
    Shaped (pdelayReq s l dir) := by
  unfold pdelayReq
  dsimp only
  repeat'
    first
    | with_reducible assumption | with_reducible intro _ | with_reducible apply shaped_ite
    | with_reducible apply shaped_emitOwn | with_reducible apply shaped_onPort
    | with_reducible apply shaped_pdelayResp | split | dsimp only

theorem shaped_execPdelayReq (port : Lane) (d : ReqDir) (s : State) (h0 : Shaped s) :
    ∃ s', execPdelayReq port d s = .next s' ∧ Shaped s' := by
  refine ⟨_, rfl, ?_⟩
  repeat'
    first
    | with_reducible assumption | with_reducible apply shaped_pdelayReq

theorem shaped_pdelayMeasured (s : State) (l : Lane) (round : Int) (h0 : Shaped s) :
    Shaped (pdelayMeasured s l round) := by
  unfold pdelayMeasured
  dsimp only
  repeat'
    first
    | with_reducible assumption | with_reducible intro _ | with_reducible apply shaped_foldl
    | with_reducible apply shaped_onPort | with_reducible apply shaped_setDelay | dsimp only

theorem shaped_pdelayResp (s : State) (l : Lane) (seq : Seq16) (corr rx : Int) (twoStep : Bool) (h0 : Shaped s) :
    Shaped (pdelayResp s l seq corr rx twoStep) := by
  unfold pdelayResp
  dsimp only
  repeat'
    first
    | with_reducible assumption | with_reducible intro _ | with_reducible apply shaped_ite
    | with_reducible apply shaped_onPort | with_reducible apply shaped_pdelayMeasured | split | dsimp only

theorem shaped_execPdelayResp (port : Lane) (seq : Seq16) (corr rx : Int) (twoStep : Bool) (s : State) (h0 : Shaped
    s) :
    ∃ s', execPdelayResp port seq corr rx twoStep s = .next s' ∧ Shaped s' := by
  refine ⟨_, rfl, ?_⟩
  repeat'
    first
    | with_reducible assumption | with_reducible apply shaped_pdelayResp

theorem shaped_execPdelayRespFollowUp (port : Lane) (seq : Seq16) (corr : Int) (s : State) (h0 : Shaped s) :
    ∃ s', execPdelayRespFollowUp port seq corr s = .next s' ∧ Shaped s' := by
  refine ⟨_, rfl, ?_⟩
  repeat'
    first
    | with_reducible assumption | with_reducible intro _ | with_reducible apply shaped_when
    | with_reducible apply shaped_pdelayMeasured | split | dsimp only

theorem shaped_noteHoldTemp (s : State) (h0 : Shaped s) :
    Shaped (noteHoldTemp s) := by
  unfold noteHoldTemp
  repeat'
    first
    | with_reducible assumption | with_reducible intro _
    | (with_reducible refine shaped_onTime _ _ (fun t h1 h2 => by simp [h1, h2]) ?_) | split | dsimp only

theorem shaped_freezeServo (s : State) (h0 : Shaped s) :
    Shaped (freezeServo s) := by
  unfold freezeServo
  dsimp only
  repeat'
    first
    | with_reducible assumption | with_reducible intro _
    | (with_reducible refine shaped_onTime _ _ (fun t h1 h2 => by simp [h1, h2]) ?_) | dsimp only

theorem shaped_servoLost (s : State) (h0 : Shaped s) :
    Shaped (servoLost s) := by
  unfold servoLost
  dsimp only
  repeat'
    first
    | with_reducible assumption | with_reducible apply shaped_ite | with_reducible apply shaped_setServo
    | with_reducible apply shaped_freezeServo | split | dsimp only

theorem shaped_nameDomain (s : State) (b : Bool) (h0 : Shaped s) :
    Shaped (nameDomain s b) := by
  unfold nameDomain
  repeat'
    first
    | with_reducible assumption | with_reducible apply shaped_wr

theorem shaped_markLost (s : State) (d : Nat) (h0 : Shaped s) :
    Shaped (markLost s d) := by
  unfold markLost
  repeat'
    first
    | with_reducible assumption | with_reducible intro _ | with_reducible apply shaped_evt
    | with_reducible apply shaped_onDom | dsimp only

theorem shaped_domainLost (s : State) (h0 : Shaped s) :
    Shaped (domainLost s) := by
  unfold domainLost
  dsimp only
  repeat'
    first
    | with_reducible assumption | with_reducible intro _ | with_reducible apply shaped_ite
    | with_reducible apply shaped_markLost
    | (with_reducible refine shaped_onTime _ _ (fun t h1 h2 => by simp [h1, h2]) ?_)
    | with_reducible apply shaped_nameDomain | with_reducible apply shaped_servoLost | dsimp only

theorem shaped_shadowLost (s : State) (h0 : Shaped s) :
    Shaped (shadowLost s) := by
  unfold shadowLost
  dsimp only
  repeat'
    first
    | with_reducible assumption | with_reducible intro _ | with_reducible apply shaped_ite
    | with_reducible apply shaped_setServo | with_reducible apply shaped_markLost
    | (with_reducible refine shaped_onTime _ _ (fun t h1 h2 => by simp [h1, h2]) ?_)
    | with_reducible apply shaped_nameDomain | with_reducible apply shaped_servoLost | split | dsimp only

theorem shaped_portsLost (s : State) (h0 : Shaped s) :
    Shaped (portsLost s) := by
  unfold portsLost
  repeat'
    first
    | with_reducible assumption | with_reducible apply shaped_domainLost
    | with_reducible apply shaped_shadowLost

theorem shaped_execDomainLost (s : State) (h0 : Shaped s) :
    ∃ s', execDomainLost s = .next s' ∧ Shaped s' := by
  refine ⟨_, rfl, ?_⟩
  repeat'
    first
    | with_reducible assumption | with_reducible apply shaped_domainLost | with_reducible apply shaped_bumpSat

theorem shaped_execHoldLimit (s : State) (h0 : Shaped s) :
    ∃ s', execHoldLimit s = .next s' ∧ Shaped s' := by
  refine ⟨_, rfl, ?_⟩
  repeat'
    first
    | with_reducible assumption | with_reducible intro _ | with_reducible apply shaped_ite
    | with_reducible apply shaped_when | with_reducible apply shaped_setServo | dsimp only

theorem shaped_setL3 (s : State) (d v : Nat) (h0 : Shaped s) :
    Shaped (setL3 s d v) := by
  unfold setL3
  dsimp only
  repeat'
    first
    | with_reducible assumption | with_reducible intro _ | with_reducible apply shaped_ite
    | with_reducible apply shaped_evtIf | with_reducible apply shaped_onDom
    | with_reducible apply shaped_setServo | dsimp only

theorem shaped_setMaster (s : State) (d : Nat) (m : AnnounceMsg) (h0 : Shaped s) :
    Shaped (setMaster s d m) := by
  unfold setMaster
  dsimp only
  repeat'
    first
    | with_reducible assumption | with_reducible intro _ | with_reducible apply shaped_ite
    | with_reducible apply shaped_evtIf | with_reducible apply shaped_onDom
    | with_reducible apply shaped_showUtc | dsimp only

theorem shaped_noteForeign (s : State) (d : Nat) (m : AnnounceMsg) (h0 : Shaped s) :
    Shaped (noteForeign s d m) := by
  unfold noteForeign
  dsimp only
  repeat'
    first
    | with_reducible assumption | with_reducible intro _ | with_reducible apply shaped_onDom | dsimp only

theorem shaped_decideL3 (s : State) (d : Nat) (h0 : Shaped s) :
    Shaped (decideL3 s d) := by
  unfold decideL3
  repeat'
    first
    | with_reducible assumption | with_reducible apply shaped_setL3 | with_reducible apply shaped_setMaster
    | split

theorem shaped_announceHeard (s : State) (m : AnnounceMsg) (h0 : Shaped s) :
    Shaped (announceHeard s m) := by
  unfold announceHeard
  repeat'
    first
    | with_reducible assumption | with_reducible apply shaped_ite | with_reducible apply shaped_discardPtp
    | with_reducible apply shaped_decideL3 | with_reducible apply shaped_noteForeign
    | with_reducible apply shaped_setMaster | split

theorem shaped_execAnnounce (m : AnnounceMsg) (s : State) (h0 : Shaped s) :
    ∃ s', execAnnounce m s = .next s' ∧ Shaped s' := by
  refine ⟨_, rfl, ?_⟩
  repeat'
    first
    | with_reducible assumption | with_reducible apply shaped_announceHeard

theorem shaped_announceTimeout (s : State) (d : Nat) (h0 : Shaped s) :
    Shaped (announceTimeout s d) := by
  unfold announceTimeout
  dsimp only
  repeat'
    first
    | with_reducible assumption | with_reducible intro _ | with_reducible apply shaped_ite
    | with_reducible apply shaped_onDom | with_reducible apply shaped_decideL3
    | with_reducible apply shaped_setL3 | with_reducible apply shaped_domainLost
    | with_reducible apply shaped_setServo | with_reducible apply shaped_shadowLost | split | dsimp only

theorem shaped_execAnnounceTimeout (domain : Bool) (s : State) (h0 : Shaped s) :
    ∃ s', execAnnounceTimeout domain s = .next s' ∧ Shaped s' := by
  refine ⟨_, rfl, ?_⟩
  repeat'
    first
    | with_reducible assumption | with_reducible apply shaped_announceTimeout

theorem shaped_execRootSyncSend (domain : Bool) (s : State) (h0 : Shaped s) :
    ∃ s', execRootSyncSend domain s = .next s' ∧ Shaped s' := by
  refine ⟨_, rfl, ?_⟩
  repeat'
    first
    | with_reducible assumption | with_reducible intro _ | with_reducible apply shaped_ite
    | with_reducible apply shaped_when | with_reducible apply shaped_ptpPair
    | with_reducible apply shaped_onDom | with_reducible apply shaped_emitOwn | dsimp only

theorem shaped_execRootAnnounceSend (domain : Bool) (s : State) (h0 : Shaped s) :
    ∃ s', execRootAnnounceSend domain s = .next s' ∧ Shaped s' := by
  refine ⟨_, rfl, ?_⟩
  repeat'
    first
    | with_reducible assumption | with_reducible intro _ | with_reducible apply shaped_ite
    | with_reducible apply shaped_when | with_reducible apply shaped_onDom
    | with_reducible apply shaped_ptpRing | with_reducible apply shaped_emitOwn | dsimp only

theorem shaped_timeCfgWrite (s : State) (w : Who) (v : Word) (h0 : Shaped s) :
    Shaped (timeCfgWrite s w v) := by
  unfold timeCfgWrite
  dsimp only
  repeat'
    first
    | with_reducible assumption | with_reducible intro _ | with_reducible apply shaped_ite
    | with_reducible apply shaped_checked | with_reducible apply shaped_wr
    | (with_reducible refine shaped_onTime _ _ (fun t h1 h2 => by simp [h1, h2]) ?_) | dsimp only

theorem shaped_execDomSel (p : Path) (v : Word) (s : State) (h0 : Shaped s) :
    ∃ s', execDomSel p v s = .next s' ∧ Shaped s' := by
  refine ⟨_, rfl, ?_⟩
  repeat'
    first
    | with_reducible assumption | with_reducible intro _ | with_reducible apply shaped_gated
    | with_reducible apply shaped_timeCfgWrite | dsimp only

theorem shaped_timeCommitted (s0 s : State) (h0 : Shaped s) :
    Shaped (timeCommitted s0 s) := by
  unfold timeCommitted
  dsimp only
  repeat'
    first
    | with_reducible assumption | with_reducible intro _ | with_reducible apply shaped_ite
    | with_reducible apply shaped_restartChains
    | (with_reducible refine Shaped.set_chains ?_ (fun hb => by simpa using hb.chains)) | dsimp only

theorem shaped_execCoarseRefresh (s : State) (h0 : Shaped s) :
    ∃ s', execCoarseRefresh s = .next s' ∧ Shaped s' := by
  refine ⟨_, rfl, ?_⟩
  repeat'
    first
    | with_reducible assumption | with_reducible intro _ | with_reducible apply shaped_when
    | with_reducible apply Shaped.set_pwr | dsimp only

theorem shaped_gridStartHeard (s : State) (m : GridMsg) (h0 : Shaped s) :
    Shaped (gridStartHeard s m) := by
  unfold gridStartHeard
  dsimp only
  repeat'
    first
    | with_reducible assumption | with_reducible intro _ | with_reducible apply shaped_ite
    | with_reducible apply shaped_evt
    | (with_reducible refine shaped_onTime _ _ (fun t h1 h2 => by simp [h1, h2]) ?_) | dsimp only

theorem shaped_execGridStart (m : GridMsg) (s : State) (h0 : Shaped s) :
    ∃ s', execGridStart m s = .next s' ∧ Shaped s' := by
  refine ⟨_, rfl, ?_⟩
  repeat'
    first
    | with_reducible assumption | with_reducible apply shaped_gridStartHeard

theorem shaped_execGridStartSend (s : State) (h0 : Shaped s) :
    ∃ s', execGridStartSend s = .next s' ∧ Shaped s' := by
  refine ⟨_, rfl, ?_⟩
  repeat'
    first
    | with_reducible assumption | with_reducible intro _ | with_reducible apply shaped_when
    | with_reducible apply shaped_gridStartHeard | with_reducible apply shaped_sendRing | dsimp only

theorem shaped_gridStartIndex (s : State) (h0 : Shaped s) :
    Shaped (gridStartIndex s) := by
  unfold gridStartIndex
  dsimp only
  repeat'
    first
    | with_reducible assumption | with_reducible intro _ | with_reducible apply shaped_ite
    | with_reducible apply shaped_when
    | (with_reducible refine shaped_onTime _ _ (fun t h1 h2 => by simp [h1, h2]) ?_)
    | with_reducible apply shaped_evt | with_reducible apply shaped_wr64 | with_reducible apply shaped_noteGap
    | with_reducible apply shaped_notSampledAll | with_reducible apply shaped_restartChains | split
    | with_reducible apply Shaped.set_pwr | dsimp only

end Sys2Proof.Machine
end

