-- ==== Sys2Proof/Laws/ShapeCalib.lean ====
section
/-!
SUPPORT. Every operation of Machine/Calib.lean keeps the lengths of the lists of fixed size (Shaped).
-/
set_option linter.all false

namespace Sys2Proof.Machine

theorem shaped_setCalStat (s : State) (i : Nat) (v : Bool) (h0 : Shaped s) :
    Shaped (setCalStat s i v) := by
  unfold setCalStat
  repeat'
    first
    | with_reducible assumption | with_reducible apply shaped_wr

theorem shaped_calStart (s : State) (h0 : Shaped s) :
    Shaped (calStart s) := by
  unfold calStart
  dsimp only
  repeat'
    first
    | with_reducible assumption | with_reducible apply shaped_setCalStat | with_reducible apply shaped_wr64
    | with_reducible apply shaped_wr | dsimp only

theorem shaped_calTrigger (s : State) (h0 : Shaped s) :
    Shaped (calTrigger s) := by
  unfold calTrigger
  repeat'
    first
    | with_reducible assumption | with_reducible apply shaped_ite | with_reducible apply shaped_setCalStat
    | with_reducible apply shaped_calStart

theorem shaped_calCtrl (s : State) (w : Who) (v : Word) (h0 : Shaped s) :
    Shaped (calCtrl s w v) := by
  unfold calCtrl
  repeat'
    first
    | with_reducible assumption | with_reducible apply shaped_ite | with_reducible apply shaped_calTrigger
    | with_reducible apply shaped_refuse

theorem shaped_execRecalibrate (p : Path) (s : State) (h0 : Shaped s) :
    ∃ s', execRecalibrate p s = .next s' ∧ Shaped s' := by
  refine ⟨_, rfl, ?_⟩
  repeat'
    first
    | with_reducible assumption | with_reducible intro _ | with_reducible apply shaped_gated
    | with_reducible apply shaped_calTrigger

theorem shaped_execCalPeriod (s : State) (h0 : Shaped s) :
    ∃ s', execCalPeriod s = .next s' ∧ Shaped s' := by
  refine ⟨_, rfl, ?_⟩
  repeat'
    first
    | with_reducible assumption | with_reducible intro _ | with_reducible apply shaped_when
    | with_reducible apply shaped_calTrigger

theorem shaped_calMeasure (s : State) (quads : Nat → Bool) (smooth : Bool) (h0 : Shaped s) :
    Shaped (calMeasure s quads smooth) := by
  unfold calMeasure
  dsimp only
  repeat'
    first
    | with_reducible assumption | with_reducible intro _ | with_reducible apply shaped_foldl
    | with_reducible apply Shaped.set_inCoefs_freeCtr | dsimp only

theorem shaped_calUnits (s : State) (which : Nat → Bool) (h0 : Shaped s) :
    Shaped (calUnits s which) := by
  unfold calUnits
  dsimp only
  repeat'
    first
    | with_reducible assumption | with_reducible intro _ | with_reducible apply shaped_foldl
    | with_reducible apply Shaped.set_cal_freeCtr | dsimp only

theorem shaped_recalibrationDone (s : State) (quads : BitVec 32) (h0 : Shaped s) :
    Shaped (recalibrationDone s quads) := by
  unfold recalibrationDone
  dsimp only
  repeat'
    first
    | with_reducible assumption | with_reducible intro _ | with_reducible apply shaped_ite
    | with_reducible apply shaped_calUnits | with_reducible apply shaped_calMeasure
    | with_reducible apply shaped_wr | with_reducible apply shaped_setCalStat | with_reducible apply shaped_evt
    | with_reducible apply shaped_bumpSat | with_reducible apply shaped_clearBlock
    | with_reducible apply shaped_faultSrc | with_reducible apply shaped_calStart | dsimp only

theorem shaped_execRecalibrationDone (quads : BitVec 32) (s : State) (h0 : Shaped s) :
    ∃ s', execRecalibrationDone quads s = .next s' ∧ Shaped s' := by
  refine ⟨_, rfl, ?_⟩
  repeat'
    first
    | with_reducible assumption | with_reducible intro _ | with_reducible apply shaped_when
    | with_reducible apply shaped_recalibrationDone | dsimp only

theorem shaped_bandGap (s : State) (agree : Bool) (h0 : Shaped s) :
    Shaped (bandGap s agree) := by
  unfold bandGap
  dsimp only
  repeat'
    first
    | with_reducible assumption | with_reducible apply shaped_ite | with_reducible apply shaped_clearBlock
    | with_reducible apply shaped_setCalStat | with_reducible apply shaped_faultSrc
    | with_reducible apply shaped_evt | with_reducible apply Shaped.set_cal | dsimp only

theorem shaped_hkcSupervision (s : State) (ch : HkcSuper) (value : BitVec 16) (agree : Bool) (h0 : Shaped s) :
    Shaped (hkcSupervision s ch value agree) := by
  unfold hkcSupervision
  dsimp only
  repeat'
    first
    | with_reducible assumption | with_reducible intro _ | with_reducible apply shaped_ite
    | with_reducible apply shaped_wr | with_reducible apply shaped_noteHoldTemp
    | with_reducible apply shaped_calTrigger | with_reducible apply shaped_evtIf
    | with_reducible apply shaped_bandGap | split | with_reducible apply Shaped.set_hkc | dsimp only

theorem shaped_execHkcSupervision (ch : HkcSuper) (value : BitVec 16) (agree : Bool) (s : State) (h0 : Shaped s) :
    ∃ s', execHkcSupervision ch value agree s = .next s' ∧ Shaped s' := by
  refine ⟨_, rfl, ?_⟩
  repeat'
    first
    | with_reducible assumption | with_reducible intro _ | with_reducible apply shaped_when
    | with_reducible apply shaped_hkcSupervision | with_reducible apply Shaped.set_hkc | dsimp only

end Sys2Proof.Machine
end

