-- ==== Sys2Proof/Laws/ShapeEngine.lean ====
section
/-!
SUPPORT. Every operation of Machine/Engine.lean keeps the lengths of the lists of fixed size (Shaped).
-/
set_option linter.all false

namespace Sys2Proof.Machine

theorem shaped_engFault (s : State) (k cause pc addr : Nat) (h0 : Shaped s) :
    Shaped (engFault s k cause pc addr) := by
  unfold engFault
  dsimp only
  repeat'
    first
    | with_reducible assumption | with_reducible intro _ | with_reducible apply shaped_ite
    | with_reducible apply shaped_onEng | with_reducible apply shaped_wr
    | with_reducible apply shaped_engineSlots | with_reducible apply shaped_faultSrc
    | with_reducible apply shaped_evt | dsimp only

theorem shaped_portWrite (s : State) (k : Nat) (p : Nat × Word) (h0 : Shaped s) :
    Shaped (portWrite s k p) := by
  unfold portWrite
  dsimp only
  repeat'
    first
    | with_reducible assumption | with_reducible intro _ | with_reducible apply shaped_ite
    | with_reducible apply shaped_onEng | with_reducible apply shaped_onBand | dsimp only

theorem shaped_edgeLeaves (s : State) (k leave : Nat) (h0 : Shaped s) :
    Shaped (edgeLeaves s k leave) := by
  unfold edgeLeaves
  dsimp only
  repeat'
    first
    | with_reducible assumption | with_reducible intro _ | with_reducible apply shaped_ite
    | with_reducible apply shaped_onEng | with_reducible apply shaped_evt | with_reducible apply shaped_bumpSat
    | with_reducible apply shaped_engFault | split | dsimp only

theorem shaped_issue (s : State) (k : Nat) (legal : Bool) (reads : List Res) (writes : List (Res × Nat)) (busy : Nat)
    (f : EngCtx → Nat → Issue) (h0 : Shaped s) :
    Shaped (issue s k legal reads writes busy f) := by
  unfold issue
  dsimp only
  repeat'
    first
    | with_reducible assumption | with_reducible intro _ | with_reducible apply shaped_ite
    | with_reducible apply shaped_foldl | with_reducible apply shaped_engFault
    | with_reducible apply shaped_onEng | with_reducible apply shaped_portWrite
    | with_reducible apply shaped_edgeLeaves | with_reducible apply shaped_evtIf | split | dsimp only

theorem shaped_aluOp (s : State) (k : Nat) (d a b : Nat) (lat : Nat) (f : Word → Word → Word) (h0 : Shaped s) :
    Shaped (aluOp s k d a b lat f) := by
  unfold aluOp
  repeat'
    first
    | with_reducible assumption | with_reducible intro _ | with_reducible apply shaped_issue | dsimp only

theorem shaped_immOp (s : State) (k : Nat) (d a : Nat) (f : Word → Word) (h0 : Shaped s) :
    Shaped (immOp s k d a f) := by
  unfold immOp
  repeat'
    first
    | with_reducible assumption | with_reducible intro _ | with_reducible apply shaped_issue | dsimp only

theorem shaped_vload (s : State) (k : Nat) (m : MemOp) (lane : Word → Frac) (after : EngCtx → Nat → Word → EngCtx)
    (ws : List (Res × Nat)) (h0 : Shaped s) :
    Shaped (vload s k m lane after ws) := by
  unfold vload
  dsimp only
  repeat'
    first
    | with_reducible assumption | with_reducible intro _ | with_reducible apply shaped_foldl
    | with_reducible apply shaped_issue | dsimp only

theorem shaped_vecOp (s : State) (k d lat : Nat) (reads : List Res) (f : EngCtx → List Frac) (h0 : Shaped s) :
    Shaped (vecOp s k d lat reads f) := by
  unfold vecOp
  repeat'
    first
    | with_reducible assumption | with_reducible intro _ | with_reducible apply shaped_issue | dsimp only

theorem shaped_vec1 (s : State) (k d a lat : Nat) (f : Frac → Frac) (h0 : Shaped s) :
    Shaped (vec1 s k d a lat f) := by
  unfold vec1
  repeat'
    first
    | with_reducible assumption | with_reducible intro _ | with_reducible apply shaped_vecOp | dsimp only

theorem shaped_vec2 (s : State) (k d a b lat : Nat) (f : Frac → Frac → Frac) (h0 : Shaped s) :
    Shaped (vec2 s k d a b lat f) := by
  unfold vec2
  repeat'
    first
    | with_reducible assumption | with_reducible intro _ | with_reducible apply shaped_vecOp | dsimp only

theorem shaped_execNopInstruction (k : Fin 12) (s : State) (h0 : Shaped s) :
    ∃ s', execNopInstruction k s = .next s' ∧ Shaped s' := by
  refine ⟨_, rfl, ?_⟩
  repeat'
    first
    | with_reducible assumption | with_reducible intro _ | with_reducible apply shaped_issue | dsimp only

theorem shaped_execSli (k : Fin 12) (d : Fin 16) (imm : BitVec 16) (s : State) (h0 : Shaped s) :
    ∃ s', execSli k d imm s = .next s' ∧ Shaped s' := by
  refine ⟨_, rfl, ?_⟩
  repeat'
    first
    | with_reducible assumption | with_reducible intro _ | with_reducible apply shaped_issue | dsimp only

theorem shaped_execSlih (k : Fin 12) (d : Fin 16) (imm : BitVec 16) (s : State) (h0 : Shaped s) :
    ∃ s', execSlih k d imm s = .next s' ∧ Shaped s' := by
  refine ⟨_, rfl, ?_⟩
  repeat'
    first
    | with_reducible assumption | with_reducible intro _ | with_reducible apply shaped_issue | dsimp only

theorem shaped_execSadd (k : Fin 12) (d a b : Fin 16) (s : State) (h0 : Shaped s) :
    ∃ s', execSadd k d a b s = .next s' ∧ Shaped s' := by
  refine ⟨_, rfl, ?_⟩
  repeat'
    first
    | with_reducible assumption | with_reducible apply shaped_aluOp

theorem shaped_execSaddi (k : Fin 12) (d a : Fin 16) (imm : BitVec 18) (s : State) (h0 : Shaped s) :
    ∃ s', execSaddi k d a imm s = .next s' ∧ Shaped s' := by
  refine ⟨_, rfl, ?_⟩
  repeat'
    first
    | with_reducible assumption | with_reducible apply shaped_immOp

theorem shaped_execSsub (k : Fin 12) (d a b : Fin 16) (s : State) (h0 : Shaped s) :
    ∃ s', execSsub k d a b s = .next s' ∧ Shaped s' := by
  refine ⟨_, rfl, ?_⟩
  repeat'
    first
    | with_reducible assumption | with_reducible apply shaped_aluOp

theorem shaped_execSand (k : Fin 12) (d a b : Fin 16) (s : State) (h0 : Shaped s) :
    ∃ s', execSand k d a b s = .next s' ∧ Shaped s' := by
  refine ⟨_, rfl, ?_⟩
  repeat'
    first
    | with_reducible assumption | with_reducible apply shaped_aluOp

theorem shaped_execSor (k : Fin 12) (d a b : Fin 16) (s : State) (h0 : Shaped s) :
    ∃ s', execSor k d a b s = .next s' ∧ Shaped s' := by
  refine ⟨_, rfl, ?_⟩
  repeat'
    first
    | with_reducible assumption | with_reducible apply shaped_aluOp

theorem shaped_execSshl (k : Fin 12) (d a : Fin 16) (imm : BitVec 10) (s : State) (h0 : Shaped s) :
    ∃ s', execSshl k d a imm s = .next s' ∧ Shaped s' := by
  refine ⟨_, rfl, ?_⟩
  repeat'
    first
    | with_reducible assumption | with_reducible apply shaped_immOp

theorem shaped_execSshr (k : Fin 12) (d a : Fin 16) (imm : BitVec 10) (s : State) (h0 : Shaped s) :
    ∃ s', execSshr k d a imm s = .next s' ∧ Shaped s' := by
  refine ⟨_, rfl, ?_⟩
  repeat'
    first
    | with_reducible assumption | with_reducible intro _ | with_reducible apply shaped_immOp | dsimp only

theorem shaped_execSmul (k : Fin 12) (d a b : Fin 16) (s : State) (h0 : Shaped s) :
    ∃ s', execSmul k d a b s = .next s' ∧ Shaped s' := by
  refine ⟨_, rfl, ?_⟩
  repeat'
    first
    | with_reducible assumption | with_reducible apply shaped_aluOp

theorem shaped_execSld (k : Fin 12) (m : MemOp) (s : State) (h0 : Shaped s) :
    ∃ s', execSld k m s = .next s' ∧ Shaped s' := by
  refine ⟨_, rfl, ?_⟩
  repeat'
    first
    | with_reducible assumption | with_reducible intro _ | with_reducible apply shaped_issue | dsimp only

theorem shaped_execSst (k : Fin 12) (m : MemOp) (s : State) (h0 : Shaped s) :
    ∃ s', execSst k m s = .next s' ∧ Shaped s' := by
  refine ⟨_, rfl, ?_⟩
  repeat'
    first
    | with_reducible assumption | with_reducible intro _ | with_reducible apply shaped_issue | dsimp only

theorem shaped_execSget (k : Fin 12) (d : Fin 16) (sel : BitVec 10) (s : State) (h0 : Shaped s) :
    ∃ s', execSget k d sel s = .next s' ∧ Shaped s' := by
  refine ⟨_, rfl, ?_⟩
  repeat'
    first
    | with_reducible assumption | with_reducible intro _ | with_reducible apply shaped_issue | dsimp only

theorem shaped_execBr (k : Fin 12) (cond : Fin 16) (a : Fin 16) (target : BitVec 15) (s : State) (h0 : Shaped s) :
    ∃ s', execBr k cond a target s = .next s' ∧ Shaped s' := by
  refine ⟨_, rfl, ?_⟩
  repeat'
    first
    | with_reducible assumption | with_reducible intro _ | with_reducible apply shaped_ite
    | with_reducible apply shaped_issue | dsimp only

theorem shaped_execLmask (k : Fin 12) (imm : BitVec 10) (s : State) (h0 : Shaped s) :
    ∃ s', execLmask k imm s = .next s' ∧ Shaped s' := by
  refine ⟨_, rfl, ?_⟩
  repeat'
    first
    | with_reducible assumption | with_reducible intro _ | with_reducible apply shaped_ite
    | with_reducible apply shaped_issue | dsimp only

theorem shaped_execSignal (k : Fin 12) (s : State) (h0 : Shaped s) :
    ∃ s', execSignal k s = .next s' ∧ Shaped s' := by
  refine ⟨_, rfl, ?_⟩
  repeat'
    first
    | with_reducible assumption | with_reducible intro _ | with_reducible apply shaped_issue | dsimp only

theorem shaped_execVld (k : Fin 12) (m : MemOp) (s : State) (h0 : Shaped s) :
    ∃ s', execVld k m s = .next s' ∧ Shaped s' := by
  refine ⟨_, rfl, ?_⟩
  repeat'
    first
    | with_reducible assumption | with_reducible intro _ | with_reducible apply shaped_vload | dsimp only

theorem shaped_execVldr (k : Fin 12) (m : MemOp) (s : State) (h0 : Shaped s) :
    ∃ s', execVldr k m s = .next s' ∧ Shaped s' := by
  refine ⟨_, rfl, ?_⟩
  repeat'
    first
    | with_reducible assumption | with_reducible intro _ | with_reducible apply shaped_ite
    | with_reducible apply shaped_vload | dsimp only

theorem shaped_execVldi (k : Fin 12) (m : MemOp) (s : State) (h0 : Shaped s) :
    ∃ s', execVldi k m s = .next s' ∧ Shaped s' := by
  refine ⟨_, rfl, ?_⟩
  repeat'
    first
    | with_reducible assumption | with_reducible intro _ | with_reducible apply shaped_vload | dsimp only

theorem shaped_execVldd (k : Fin 12) (d a b : Fin 16) (st : Fin 4) (s : State) (h0 : Shaped s) :
    ∃ s', execVldd k d a b st s = .next s' ∧ Shaped s' := by
  refine ⟨_, rfl, ?_⟩
  repeat'
    first
    | with_reducible assumption | with_reducible intro _ | with_reducible apply shaped_issue | dsimp only

theorem shaped_execVst (k : Fin 12) (m : MemOp) (s : State) (h0 : Shaped s) :
    ∃ s', execVst k m s = .next s' ∧ Shaped s' := by
  refine ⟨_, rfl, ?_⟩
  repeat'
    first
    | with_reducible assumption | with_reducible intro _ | with_reducible apply shaped_issue | dsimp only

theorem shaped_execVste (k : Fin 12) (m : MemOp) (s : State) (h0 : Shaped s) :
    ∃ s', execVste k m s = .next s' ∧ Shaped s' := by
  refine ⟨_, rfl, ?_⟩
  repeat'
    first
    | with_reducible assumption | with_reducible intro _ | with_reducible apply shaped_issue | dsimp only

theorem shaped_execVsplat (k : Fin 12) (d a : Fin 16) (s : State) (h0 : Shaped s) :
    ∃ s', execVsplat k d a s = .next s' ∧ Shaped s' := by
  refine ⟨_, rfl, ?_⟩
  repeat'
    first
    | with_reducible assumption | with_reducible intro _ | with_reducible apply shaped_vecOp | dsimp only

theorem shaped_execVadd (k : Fin 12) (d a b : Fin 16) (s : State) (h0 : Shaped s) :
    ∃ s', execVadd k d a b s = .next s' ∧ Shaped s' := by
  refine ⟨_, rfl, ?_⟩
  repeat'
    first
    | with_reducible assumption | with_reducible apply shaped_vec2

theorem shaped_execVsub (k : Fin 12) (d a b : Fin 16) (s : State) (h0 : Shaped s) :
    ∃ s', execVsub k d a b s = .next s' ∧ Shaped s' := by
  refine ⟨_, rfl, ?_⟩
  repeat'
    first
    | with_reducible assumption | with_reducible apply shaped_vec2

theorem shaped_execVmul (k : Fin 12) (d a b : Fin 16) (s : State) (h0 : Shaped s) :
    ∃ s', execVmul k d a b s = .next s' ∧ Shaped s' := by
  refine ⟨_, rfl, ?_⟩
  repeat'
    first
    | with_reducible assumption | with_reducible apply shaped_vec2

theorem shaped_execVmac (k : Fin 12) (d a b : Fin 16) (neg : Bool) (s : State) (h0 : Shaped s) :
    ∃ s', execVmac k d a b neg s = .next s' ∧ Shaped s' := by
  refine ⟨_, rfl, ?_⟩
  repeat'
    first
    | with_reducible assumption | with_reducible intro _ | with_reducible apply shaped_issue | dsimp only

theorem shaped_execAclr (k : Fin 12) (d : Fin 16) (e : BitVec 8) (s : State) (h0 : Shaped s) :
    ∃ s', execAclr k d e s = .next s' ∧ Shaped s' := by
  refine ⟨_, rfl, ?_⟩
  repeat'
    first
    | with_reducible assumption | with_reducible intro _ | with_reducible apply shaped_issue | dsimp only

theorem shaped_execVmova (k : Fin 12) (d a : Fin 16) (s : State) (h0 : Shaped s) :
    ∃ s', execVmova k d a s = .next s' ∧ Shaped s' := by
  refine ⟨_, rfl, ?_⟩
  repeat'
    first
    | with_reducible assumption | with_reducible intro _ | with_reducible apply shaped_issue | dsimp only

theorem shaped_execVclamp (k : Fin 12) (d a b c : Fin 16) (s : State) (h0 : Shaped s) :
    ∃ s', execVclamp k d a b c s = .next s' ∧ Shaped s' := by
  refine ⟨_, rfl, ?_⟩
  repeat'
    first
    | with_reducible assumption | with_reducible intro _ | with_reducible apply shaped_vecOp | dsimp only

theorem shaped_execVneg (k : Fin 12) (d a : Fin 16) (s : State) (h0 : Shaped s) :
    ∃ s', execVneg k d a s = .next s' ∧ Shaped s' := by
  refine ⟨_, rfl, ?_⟩
  repeat'
    first
    | with_reducible assumption | with_reducible apply shaped_vec1

theorem shaped_execVabs (k : Fin 12) (d a : Fin 16) (s : State) (h0 : Shaped s) :
    ∃ s', execVabs k d a s = .next s' ∧ Shaped s' := by
  refine ⟨_, rfl, ?_⟩
  repeat'
    first
    | with_reducible assumption | with_reducible apply shaped_vec1

theorem shaped_execVscl (k : Fin 12) (d a : Fin 16) (e : BitVec 8) (s : State) (h0 : Shaped s) :
    ∃ s', execVscl k d a e s = .next s' ∧ Shaped s' := by
  refine ⟨_, rfl, ?_⟩
  repeat'
    first
    | with_reducible assumption | with_reducible intro _ | with_reducible apply shaped_vec1 | dsimp only

theorem shaped_execVmov (k : Fin 12) (d a : Fin 16) (s : State) (h0 : Shaped s) :
    ∃ s', execVmov k d a s = .next s' ∧ Shaped s' := by
  refine ⟨_, rfl, ?_⟩
  repeat'
    first
    | with_reducible assumption | with_reducible apply shaped_vec1

theorem shaped_execVbc (k : Fin 12) (d a : Fin 16) (j : Fin 4) (s : State) (h0 : Shaped s) :
    ∃ s', execVbc k d a j s = .next s' ∧ Shaped s' := by
  refine ⟨_, rfl, ?_⟩
  repeat'
    first
    | with_reducible assumption | with_reducible intro _ | with_reducible apply shaped_vecOp | dsimp only

theorem shaped_execVcmp (k : Fin 12) (a b : Fin 16) (cond : Fin 8) (s : State) (h0 : Shaped s) :
    ∃ s', execVcmp k a b cond s = .next s' ∧ Shaped s' := by
  refine ⟨_, rfl, ?_⟩
  repeat'
    first
    | with_reducible assumption | with_reducible intro _ | with_reducible apply shaped_issue | dsimp only

theorem shaped_execVsel (k : Fin 12) (d a b : Fin 16) (s : State) (h0 : Shaped s) :
    ∃ s', execVsel k d a b s = .next s' ∧ Shaped s' := by
  refine ⟨_, rfl, ?_⟩
  repeat'
    first
    | with_reducible assumption | with_reducible intro _ | with_reducible apply shaped_ite
    | with_reducible apply shaped_vecOp | dsimp only

theorem shaped_execVtst (k : Fin 12) (imm : BitVec 10) (s : State) (h0 : Shaped s) :
    ∃ s', execVtst k imm s = .next s' ∧ Shaped s' := by
  refine ⟨_, rfl, ?_⟩
  repeat'
    first
    | with_reducible assumption | with_reducible intro _ | with_reducible apply shaped_issue | dsimp only

theorem shaped_execNorm (k : Fin 12) (d : Fin 16) (s : State) (h0 : Shaped s) :
    ∃ s', execNorm k d s = .next s' ∧ Shaped s' := by
  refine ⟨_, rfl, ?_⟩
  repeat'
    first
    | with_reducible assumption | with_reducible intro _ | with_reducible apply shaped_issue | dsimp only

theorem shaped_execVtab (k : Fin 12) (d a b c : Fin 16) (interp : Bool) (s : State) (h0 : Shaped s) :
    ∃ s', execVtab k d a b c interp s = .next s' ∧ Shaped s' := by
  refine ⟨_, rfl, ?_⟩
  repeat'
    first
    | with_reducible assumption | with_reducible intro _ | with_reducible apply shaped_ite
    | with_reducible apply shaped_issue | dsimp only

theorem shaped_noteFigure (s : State) (a v : Nat) (h0 : Shaped s) :
    Shaped (noteFigure s a v) := by
  unfold noteFigure
  repeat'
    first
    | with_reducible assumption | with_reducible apply shaped_wr

theorem shaped_haltNow (s : State) (k : Nat) (h0 : Shaped s) :
    Shaped (haltNow s k) := by
  unfold haltNow
  repeat'
    first
    | with_reducible assumption | with_reducible intro _ | with_reducible apply shaped_onEng | dsimp only

theorem shaped_endStage (s : State) (k ev cycles lastEdge : Nat) (ovf unf nodata : BitVec 4) (h0 : Shaped s) :
    Shaped (endStage s k ev cycles lastEdge ovf unf nodata) := by
  unfold endStage
  dsimp only
  repeat'
    first
    | with_reducible assumption | with_reducible intro _ | with_reducible apply shaped_ite
    | with_reducible apply shaped_onEng | with_reducible apply shaped_noteFigure
    | with_reducible apply shaped_wr | with_reducible apply shaped_evtIf | with_reducible apply shaped_haltNow
    | dsimp only

theorem shaped_execStop (k : Fin 12) (s : State) (h0 : Shaped s) :
    ∃ s', execStop k s = .next s' ∧ Shaped s' := by
  refine ⟨_, rfl, ?_⟩
  repeat'
    first
    | with_reducible assumption | with_reducible apply shaped_ite | with_reducible apply shaped_engFault
    | with_reducible apply shaped_endStage | split | dsimp only

theorem shaped_execIllegal (k : Fin 12) (s : State) (h0 : Shaped s) :
    ∃ s', execIllegal k s = .next s' ∧ Shaped s' := by
  refine ⟨_, rfl, ?_⟩
  repeat'
    first
    | with_reducible assumption | with_reducible intro _ | with_reducible apply shaped_issue | dsimp only

theorem shaped_execLimit (k : Fin 12) (s : State) (h0 : Shaped s) :
    ∃ s', execLimit k s = .next s' ∧ Shaped s' := by
  refine ⟨_, rfl, ?_⟩
  repeat'
    first
    | with_reducible assumption | with_reducible apply shaped_engFault | split

theorem shaped_execSramScrub (k : Fin 12) (addr : Nat) (uncorrectable : Bool) (s : State) (h0 : Shaped s) :
    ∃ s', execSramScrub k addr uncorrectable s = .next s' ∧ Shaped s' := by
  refine ⟨_, rfl, ?_⟩
  repeat'
    first
    | with_reducible assumption | with_reducible intro _ | with_reducible apply shaped_ite
    | with_reducible apply shaped_when | with_reducible apply shaped_evt | with_reducible apply shaped_bumpSat
    | with_reducible apply shaped_onEng | with_reducible apply shaped_engFault | dsimp only

theorem shaped_raiseEvent (s : State) (k e : Nat) (h0 : Shaped s) :
    Shaped (raiseEvent s k e) := by
  unfold raiseEvent
  dsimp only
  repeat'
    first
    | with_reducible assumption | with_reducible intro _ | with_reducible apply shaped_ite
    | with_reducible apply shaped_onEng | with_reducible apply shaped_evt | with_reducible apply shaped_bumpSat
    | dsimp only

theorem shaped_tableEvent (s : State) (k : Nat) (h0 : Shaped s) :
    Shaped (tableEvent s k) := by
  unfold tableEvent
  repeat'
    first
    | with_reducible assumption | with_reducible apply shaped_raiseEvent | with_reducible apply shaped_evt

theorem shaped_runEngine (s : State) (w : Who) (k : Nat) (h0 : Shaped s) :
    Shaped (runEngine s w k) := by
  unfold runEngine
  dsimp only
  repeat'
    first
    | with_reducible assumption | with_reducible intro _ | with_reducible apply shaped_ite
    | with_reducible apply shaped_checked | with_reducible apply shaped_wr | with_reducible apply shaped_onEng
    | dsimp only

theorem shaped_execRunEngine (p : Path) (k : Fin 12) (s : State) (h0 : Shaped s) :
    ∃ s', execRunEngine p k s = .next s' ∧ Shaped s' := by
  refine ⟨_, rfl, ?_⟩
  repeat'
    first
    | with_reducible assumption | with_reducible intro _ | with_reducible apply shaped_gated
    | with_reducible apply shaped_runEngine | dsimp only

theorem shaped_haltEngine (s : State) (w : Who) (k : Nat) (h0 : Shaped s) :
    Shaped (haltEngine s w k) := by
  unfold haltEngine
  repeat'
    first
    | with_reducible assumption | with_reducible intro _ | with_reducible apply shaped_ite
    | with_reducible apply shaped_checked | with_reducible apply shaped_onEng
    | with_reducible apply shaped_haltNow | dsimp only

theorem shaped_execHaltEngine (p : Path) (k : Fin 12) (s : State) (h0 : Shaped s) :
    ∃ s', execHaltEngine p k s = .next s' ∧ Shaped s' := by
  refine ⟨_, rfl, ?_⟩
  repeat'
    first
    | with_reducible assumption | with_reducible intro _ | with_reducible apply shaped_gated
    | with_reducible apply shaped_haltEngine | dsimp only

theorem shaped_clearFault (s : State) (w : Who) (k : Nat) (h0 : Shaped s) :
    Shaped (clearFault s w k) := by
  unfold clearFault
  repeat'
    first
    | with_reducible assumption | with_reducible intro _ | with_reducible apply shaped_ite
    | with_reducible apply shaped_checked | with_reducible apply shaped_clearBlock
    | with_reducible apply shaped_onEng | dsimp only

theorem shaped_execClearFault (p : Path) (k : Fin 12) (s : State) (h0 : Shaped s) :
    ∃ s', execClearFault p k s = .next s' ∧ Shaped s' := by
  refine ⟨_, rfl, ?_⟩
  repeat'
    first
    | with_reducible assumption | with_reducible intro _ | with_reducible apply shaped_gated
    | with_reducible apply shaped_clearFault | dsimp only

theorem shaped_execDoorbell (p : Path) (k : Fin 12) (s : State) (h0 : Shaped s) :
    ∃ s', execDoorbell p k s = .next s' ∧ Shaped s' := by
  refine ⟨_, rfl, ?_⟩
  repeat'
    first
    | with_reducible assumption | with_reducible intro _ | with_reducible apply shaped_gated
    | with_reducible apply shaped_raiseEvent | dsimp only

theorem shaped_clearStaging (s : State) (k : Nat) (h0 : Shaped s) :
    Shaped (clearStaging s k) := by
  unfold clearStaging
  repeat'
    first
    | with_reducible assumption | with_reducible intro _ | with_reducible apply shaped_onEng | dsimp only

theorem shaped_execClearStagingList (p : Path) (k : Fin 12) (s : State) (h0 : Shaped s) :
    ∃ s', execClearStagingList p k s = .next s' ∧ Shaped s' := by
  refine ⟨_, rfl, ?_⟩
  repeat'
    first
    | with_reducible assumption | with_reducible intro _ | with_reducible apply shaped_gated
    | with_reducible apply shaped_clearStaging | dsimp only

theorem shaped_aeCtrl (s : State) (w : Who) (k : Nat) (v : Word) (h0 : Shaped s) :
    Shaped (aeCtrl s w k v) := by
  unfold aeCtrl
  repeat'
    first
    | with_reducible assumption | with_reducible apply shaped_runEngine
    | with_reducible apply shaped_haltEngine | with_reducible apply shaped_clearFault
    | with_reducible apply shaped_raiseEvent | with_reducible apply shaped_clearStaging | split

theorem shaped_stageCopy (s : State) (k src dst len : Nat) (h0 : Shaped s) :
    Shaped (stageCopy s k src dst len) := by
  unfold stageCopy
  dsimp only
  repeat'
    first
    | with_reducible assumption | with_reducible intro _ | with_reducible apply shaped_foldl
    | with_reducible apply shaped_onEng | dsimp only

theorem shaped_execStagingReplayDone (k : Fin 12) (s : State) (h0 : Shaped s) :
    ∃ s', execStagingReplayDone k s = .next s' ∧ Shaped s' := by
  refine ⟨_, rfl, ?_⟩
  repeat'
    first
    | with_reducible assumption | with_reducible intro _ | with_reducible apply shaped_foldl
    | with_reducible apply shaped_when | with_reducible apply shaped_stageCopy
    | with_reducible apply shaped_onEng | dsimp only

theorem shaped_engHostWrite (s : State) (w : Who) (k a : Nat) (v : Word) (h0 : Shaped s) :
    Shaped (engHostWrite s w k a v) := by
  unfold engHostWrite
  repeat'
    first
    | with_reducible assumption | with_reducible intro _ | with_reducible apply shaped_refuseOn
    | with_reducible apply shaped_onEng | split | dsimp only

theorem shaped_subWrite (s : State) (k : Nat) (v : Word) (h0 : Shaped s) :
    Shaped (subWrite s k v) := by
  unfold subWrite
  dsimp only
  repeat'
    first
    | with_reducible assumption | with_reducible intro _ | with_reducible apply shaped_ite
    | with_reducible apply shaped_onEng | dsimp only

theorem shaped_subDeliver (s : State) (ch : Nat) (idx : Nat) (w : Word) (h0 : Shaped s) :
    Shaped (subDeliver s ch idx w) := by
  unfold subDeliver
  dsimp only
  repeat'
    first
    | with_reducible assumption | with_reducible intro _ | with_reducible apply shaped_ite
    | with_reducible apply shaped_foldl
    | (with_reducible refine Shaped.set_engines ?_ (fun hb => by simpa using hb.engines)) | dsimp only

end Sys2Proof.Machine
end

