-- ==== Sys2Proof/Laws/ShapeMailbox.lean ====
section
/-!
SUPPORT. Every operation of Machine/Mailbox.lean keeps the lengths of the lists of fixed size (Shaped).
-/
set_option linter.all false

namespace Sys2Proof.Machine

theorem shaped_onEntry (s : State) (q : Seq32) (f : JEntry → JEntry) (h0 : Shaped s) :
    Shaped (onEntry s q f) := by
  unfold onEntry
  repeat'
    first
    | with_reducible assumption | with_reducible intro _ | with_reducible apply shaped_ite
    | with_reducible apply Shaped.set_cmd | dsimp only

theorem shaped_changeCmd (s : State) (e : JEntry) (st : JState) (slot : Nat) (h0 : Shaped s) :
    Shaped (changeCmd s e st slot) := by
  unfold changeCmd
  dsimp only
  repeat'
    first
    | with_reducible assumption | with_reducible apply shaped_ite | with_reducible apply shaped_changeEntry
    | dsimp only

theorem shaped_endCmdSlot (s : State) (e : JEntry) (st : JState) (status detail slot : Nat) (h0 : Shaped s) :
    Shaped (endCmdSlot s e st status detail slot) := by
  unfold endCmdSlot
  dsimp only
  repeat'
    first
    | with_reducible assumption | with_reducible intro _ | with_reducible apply shaped_ite
    | with_reducible apply shaped_onEntry | with_reducible apply shaped_evt
    | with_reducible apply shaped_changeCmd | dsimp only

theorem shaped_endCmd (s : State) (e : JEntry) (st : JState) (status detail : Nat) (h0 : Shaped s) :
    Shaped (endCmd s e st status detail) := by
  unfold endCmd
  repeat'
    first
    | with_reducible assumption | with_reducible apply shaped_endCmdSlot

theorem shaped_submitCmd (s : State) (p : Path) (h0 : Shaped s) :
    Shaped (submitCmd s p) := by
  unfold submitCmd
  dsimp only
  repeat'
    first
    | with_reducible assumption | with_reducible intro _ | with_reducible apply shaped_ite
    | with_reducible apply shaped_checked | with_reducible apply shaped_onPath
    | with_reducible apply shaped_evt | with_reducible apply shaped_wr | with_reducible apply shaped_refuse
    | with_reducible apply Shaped.set_cmd | dsimp only

theorem shaped_submitAs (s : State) (p : Path) (o : Nat) (q : Seq32) (args : List Word) (h0 : Shaped s) :
    Shaped (submitAs s p o q args) := by
  unfold submitAs
  repeat'
    first
    | with_reducible assumption | with_reducible intro _ | with_reducible apply shaped_gated
    | with_reducible apply shaped_submitCmd | with_reducible apply shaped_onPath | dsimp only

theorem shaped_execCmdNop (p : Path) (seq : Seq32) (args : List Word) (s : State) (h0 : Shaped s) :
    ∃ s', execCmdNop p seq args s = .next s' ∧ Shaped s' := by
  refine ⟨_, rfl, ?_⟩
  repeat'
    first
    | with_reducible assumption | with_reducible apply shaped_submitAs

theorem shaped_execCmdTransfer (p : Path) (seq : Seq32) (args : List Word) (s : State) (h0 : Shaped s) :
    ∃ s', execCmdTransfer p seq args s = .next s' ∧ Shaped s' := by
  refine ⟨_, rfl, ?_⟩
  repeat'
    first
    | with_reducible assumption | with_reducible apply shaped_submitAs

theorem shaped_execCmdReamStore (p : Path) (seq : Seq32) (args : List Word) (s : State) (h0 : Shaped s) :
    ∃ s', execCmdReamStore p seq args s = .next s' ∧ Shaped s' := by
  refine ⟨_, rfl, ?_⟩
  repeat'
    first
    | with_reducible assumption | with_reducible apply shaped_submitAs

theorem shaped_execCmdCalStore (p : Path) (seq : Seq32) (args : List Word) (s : State) (h0 : Shaped s) :
    ∃ s', execCmdCalStore p seq args s = .next s' ∧ Shaped s' := by
  refine ⟨_, rfl, ?_⟩
  repeat'
    first
    | with_reducible assumption | with_reducible apply shaped_submitAs

theorem shaped_execCmdFuseWrite (p : Path) (seq : Seq32) (args : List Word) (s : State) (h0 : Shaped s) :
    ∃ s', execCmdFuseWrite p seq args s = .next s' ∧ Shaped s' := by
  refine ⟨_, rfl, ?_⟩
  repeat'
    first
    | with_reducible assumption | with_reducible apply shaped_submitAs

theorem shaped_execCmdZipJob (p : Path) (seq : Seq32) (args : List Word) (s : State) (h0 : Shaped s) :
    ∃ s', execCmdZipJob p seq args s = .next s' ∧ Shaped s' := by
  refine ⟨_, rfl, ?_⟩
  repeat'
    first
    | with_reducible assumption | with_reducible apply shaped_submitAs

theorem shaped_execCmdTableStage (p : Path) (seq : Seq32) (args : List Word) (s : State) (h0 : Shaped s) :
    ∃ s', execCmdTableStage p seq args s = .next s' ∧ Shaped s' := by
  refine ⟨_, rfl, ?_⟩
  repeat'
    first
    | with_reducible assumption | with_reducible apply shaped_submitAs

theorem shaped_execUnknownOpcode (p : Path) (opcode : Nat) (seq : Seq32) (s : State) (h0 : Shaped s) :
    ∃ s', execUnknownOpcode p opcode seq s = .next s' ∧ Shaped s' := by
  refine ⟨_, rfl, ?_⟩
  repeat'
    first
    | with_reducible assumption | with_reducible apply shaped_ite | with_reducible apply shaped_submitAs

theorem shaped_journalReset (s : State) (h0 : Shaped s) :
    Shaped (journalReset s) := by
  unfold journalReset
  dsimp only
  repeat'
    first
    | with_reducible assumption | with_reducible intro _ | with_reducible apply shaped_ite | split
    | with_reducible apply Shaped.set_cmd | dsimp only

theorem shaped_cmdRegWrite (s : State) (p : Path) (o : Nat) (v : Word) (h0 : Shaped s) :
    Shaped (cmdRegWrite s p o v) := by
  unfold cmdRegWrite
  dsimp only
  repeat'
    first
    | with_reducible assumption | with_reducible intro _ | with_reducible apply shaped_ite
    | with_reducible apply shaped_onPath | dsimp only

end Sys2Proof.Machine
end

