-- ==== Sys2Proof/Laws/ShapeNv.lean ====
section
/-!
SUPPORT. Every operation of Machine/Nv.lean keeps the lengths of the lists of fixed size (Shaped).
-/
set_option linter.all false

namespace Sys2Proof.Machine

theorem shaped_countReads (s : State) (r : List NvRead) (h0 : Shaped s) :
    Shaped (countReads s r) := by
  unfold countReads
  dsimp only
  repeat'
    first
    | with_reducible assumption | with_reducible apply shaped_evtIf | with_reducible apply shaped_bumpSat
    | dsimp only

theorem shaped_setFuse (s : State) (f i : Nat) (x : FuseSlot) (h0 : Shaped s) :
    Shaped (setFuse s f i x) := by
  unfold setFuse
  repeat'
    first
    | with_reducible assumption | with_reducible intro _
    | (with_reducible refine Shaped.set_fuses ?_ (fun hb => by simpa using hb.fuses)) | dsimp only

theorem shaped_persistentBegin (s : State) (e : JEntry) (h0 : Shaped s) :
    Shaped (persistentBegin s e) := by
  unfold persistentBegin
  repeat'
    first
    | with_reducible assumption | with_reducible intro _ | with_reducible apply shaped_ite
    | with_reducible apply shaped_endCmd | with_reducible apply Shaped.set_nv | dsimp only

theorem shaped_storeCommit (s : State) (e : JEntry) (h0 : Shaped s) :
    Shaped (storeCommit s e) := by
  unfold storeCommit
  repeat'
    first
    | with_reducible assumption | with_reducible apply shaped_ite | with_reducible apply shaped_evt
    | with_reducible apply shaped_bumpSat | with_reducible apply Shaped.set_nv

theorem shaped_storeSpoiled (s : State) (e : JEntry) (h0 : Shaped s) :
    Shaped (storeSpoiled s e) := by
  unfold storeSpoiled
  repeat'
    first
    | with_reducible assumption | with_reducible apply shaped_ite | with_reducible apply Shaped.set_nv

theorem shaped_stepDone (s : State) (e : JEntry) (ok : Bool) (h0 : Shaped s) :
    Shaped (stepDone s e ok) := by
  unfold stepDone
  dsimp only
  repeat'
    first
    | with_reducible assumption | with_reducible intro _ | with_reducible apply shaped_ite
    | with_reducible apply shaped_onEntry | with_reducible apply shaped_evt
    | with_reducible apply shaped_setFuse | with_reducible apply shaped_endCmdSlot
    | with_reducible apply shaped_endCmd | with_reducible apply shaped_storeSpoiled
    | with_reducible apply shaped_storeCommit | split | dsimp only

theorem shaped_execPersistentStepDone (ok : Bool) (s : State) (h0 : Shaped s) :
    ∃ s', execPersistentStepDone ok s = .next s' ∧ Shaped s' := by
  refine ⟨_, rfl, ?_⟩
  repeat'
    first
    | with_reducible assumption | with_reducible apply shaped_ite | with_reducible apply shaped_stepDone
    | split

theorem shaped_nvInterrupt (s : State) (h0 : Shaped s) :
    Shaped (nvInterrupt s) := by
  unfold nvInterrupt
  repeat'
    first
    | with_reducible assumption | with_reducible apply shaped_ite | with_reducible apply shaped_setFuse | split

theorem shaped_chal0Read (s : State) (p : Path) (h0 : Shaped s) :
    Shaped (chal0Read s p) := by
  unfold chal0Read
  dsimp only
  repeat'
    first
    | with_reducible assumption | with_reducible intro _ | with_reducible apply shaped_foldl
    | with_reducible apply shaped_drawn | with_reducible apply shaped_onPath | dsimp only

theorem shaped_execChal0Read (p : Path) (s : State) (h0 : Shaped s) :
    ∃ s', execChal0Read p s = .next s' ∧ Shaped s' := by
  refine ⟨_, rfl, ?_⟩
  repeat'
    first
    | with_reducible assumption | with_reducible apply shaped_ite | with_reducible apply shaped_chal0Read

theorem shaped_execChallengeExpiry (p : Path) (s : State) (h0 : Shaped s) :
    ∃ s', execChallengeExpiry p s = .next s' ∧ Shaped s' := by
  refine ⟨_, rfl, ?_⟩
  repeat'
    first
    | with_reducible assumption | with_reducible intro _ | with_reducible apply shaped_onPath | dsimp only

theorem shaped_authRefused (s : State) (p : Path) (reason : Nat) (h0 : Shaped s) :
    Shaped (authRefused s p reason) := by
  unfold authRefused
  dsimp only
  repeat'
    first
    | with_reducible assumption | with_reducible intro _ | with_reducible apply shaped_ite
    | with_reducible apply shaped_onPath | with_reducible apply shaped_changeEntry
    | with_reducible apply shaped_refuse | with_reducible apply shaped_bumpSat
    | with_reducible apply shaped_evt | with_reducible apply shaped_wr | with_reducible apply shaped_evtIf
    | dsimp only

theorem shaped_authEnter (s : State) (p : Path) (h0 : Shaped s) :
    Shaped (authEnter s p) := by
  unfold authEnter
  dsimp only
  repeat'
    first
    | with_reducible assumption | with_reducible intro _ | with_reducible apply shaped_ite
    | with_reducible apply shaped_authRefused | with_reducible apply shaped_onPath
    | with_reducible apply shaped_wr | with_reducible apply shaped_changeEntry | split | dsimp only

theorem shaped_execAuthEnter (p : Path) (s : State) (h0 : Shaped s) :
    ∃ s', execAuthEnter p s = .next s' ∧ Shaped s' := by
  refine ⟨_, rfl, ?_⟩
  repeat'
    first
    | with_reducible assumption | with_reducible intro _ | with_reducible apply shaped_gated
    | with_reducible apply shaped_authEnter | dsimp only

theorem shaped_execAuthLeave (p : Path) (s : State) (h0 : Shaped s) :
    ∃ s', execAuthLeave p s = .next s' ∧ Shaped s' := by
  refine ⟨_, rfl, ?_⟩
  repeat'
    first
    | with_reducible assumption | with_reducible intro _ | with_reducible apply shaped_gated
    | with_reducible apply shaped_lapse | dsimp only

theorem shaped_authWrite (s : State) (p : Path) (v : Word) (h0 : Shaped s) :
    Shaped (authWrite s p v) := by
  unfold authWrite
  repeat'
    first
    | with_reducible assumption | with_reducible apply shaped_ite | with_reducible apply shaped_authEnter
    | with_reducible apply shaped_lapse | with_reducible apply shaped_refuse

theorem shaped_respWrite (s : State) (p : Path) (i : Nat) (v : Word) (h0 : Shaped s) :
    Shaped (respWrite s p i v) := by
  unfold respWrite
  repeat'
    first
    | with_reducible assumption | with_reducible intro _ | with_reducible apply shaped_onPath | dsimp only

theorem shaped_execSvcTimeout (p : Path) (s : State) (h0 : Shaped s) :
    ∃ s', execSvcTimeout p s = .next s' ∧ Shaped s' := by
  refine ⟨_, rfl, ?_⟩
  repeat'
    first
    | with_reducible assumption | with_reducible apply shaped_lapse

theorem shaped_execLockoutEnd (s : State) (h0 : Shaped s) :
    ∃ s', execLockoutEnd s = .next s' ∧ Shaped s' := by
  refine ⟨_, rfl, ?_⟩
  repeat'
    first
    | with_reducible assumption | with_reducible intro _ | with_reducible apply shaped_when
    | with_reducible apply shaped_wr | dsimp only

theorem shaped_execNsconfAsserted (s : State) (h0 : Shaped s) :
    ∃ s', execNsconfAsserted s = .next s' ∧ Shaped s' := by
  refine ⟨_, rfl, ?_⟩
  repeat'
    first
    | with_reducible assumption | with_reducible apply Shaped.set_pins

theorem shaped_execNsconfRelease (s : State) (h0 : Shaped s) :
    ∃ s', execNsconfRelease s = .next s' ∧ Shaped s' := by
  refine ⟨_, rfl, ?_⟩
  repeat'
    first
    | with_reducible assumption | with_reducible apply Shaped.set_pins

end Sys2Proof.Machine
end

