-- ==== Sys2Proof/Laws/ShapeKernel.lean ====
section
/-!
SUPPORT. Every operation of Machine/Kernel.lean keeps the lengths of the lists of fixed size (Shaped).
-/
set_option linter.all false

namespace Sys2Proof.Machine

theorem shaped_kPut (s : State) (k i off : Nat) (w : Word) (h0 : Shaped s) :
    Shaped (kPut s k i off w) := by
  unfold kPut
  repeat'
    first
    | with_reducible assumption | with_reducible intro _ | with_reducible apply shaped_onEng | dsimp only

theorem shaped_kPutVal (s : State) (k i off : Nat) (x : Frac) (h0 : Shaped s) :
    Shaped (kPutVal s k i off x) := by
  unfold kPutVal
  repeat'
    first
    | with_reducible assumption | with_reducible apply shaped_kPut

theorem shaped_takeParams (s : State) (k i : Nat) (h0 : Shaped s) :
    Shaped (takeParams s k i) := by
  unfold takeParams
  dsimp only
  repeat'
    first
    | with_reducible assumption | with_reducible intro _ | with_reducible apply shaped_ite
    | with_reducible apply shaped_foldl | with_reducible apply shaped_onEng | with_reducible apply shaped_kPut
    | dsimp only

theorem shaped_adaptWidth (s : State) (k i c : Nat) (b : InBlock) (h0 : Shaped s) :
    Shaped (adaptWidth s k i c b) := by
  unfold adaptWidth
  dsimp only
  repeat'
    first
    | with_reducible assumption | with_reducible apply shaped_ite | with_reducible apply shaped_kPutVal
    | with_reducible apply shaped_kPut | dsimp only

theorem shaped_kernelBuSlot {s : State} {k i : Nat} {b : InBlock}
    (h0 : Shaped s) : OkAll (Shaped) (kernelBuSlot s k i b) := by
  unfold kernelBuSlot
  dsimp only
  refine OkAll.ite (OkAll.map (fun zs => ?_)) (OkAll.ok h0)
  repeat'
    first
    | with_reducible assumption | with_reducible intro _
    | with_reducible apply shaped_foldl | with_reducible apply shaped_adaptWidth
    | with_reducible apply shaped_portWrite

theorem shaped_consume  (s : State) (k i n fuel : Nat)
    (h0 : Shaped s) : Shaped (consume s k i n fuel) := by
  induction fuel generalizing s with
  | zero => exact h0
  | succ fuel ih =>
    unfold consume
    dsimp only
    repeat'
      first
      | with_reducible assumption | with_reducible apply shaped_ite
      | with_reducible apply ih | with_reducible apply shaped_kPut | with_reducible apply shaped_onEng

theorem shaped_kernelPosSlot (s : State) (k i : Nat) (b : InBlock) (h0 : Shaped s) :
    Shaped (kernelPosSlot s k i b) := by
  unfold kernelPosSlot
  dsimp only
  repeat'
    first
    | with_reducible assumption | with_reducible intro _ | with_reducible apply shaped_ite
    | with_reducible apply shaped_consume | with_reducible apply shaped_onEng
    | with_reducible apply shaped_kPut | with_reducible apply shaped_kPutVal | dsimp only

theorem shaped_learn {s : State} {k i : Nat} {j e : Frac}
    (h0 : Shaped s) : OkAll (Shaped) (learn s k i j e) :=
  OkAll.map (fun _ => shaped_onEng _ _ _ h0)

theorem shaped_countCycle (s : State) (k i : Nat) (b : InBlock) (h0 : Shaped s) :
    Shaped (countCycle s k i b) := by
  unfold countCycle
  dsimp only
  repeat'
    first
    | with_reducible assumption | with_reducible intro _ | with_reducible apply shaped_ite
    | with_reducible apply shaped_kPut | with_reducible apply shaped_onEng | dsimp only

theorem shaped_velocityLoop {s : State} {k i : Nat} {b : InBlock}
    (h0 : Shaped s) : OkAll (Shaped) (velocityLoop s k i b) := by
  unfold velocityLoop
  extract_lets r e imax v x ev rcOn j
  split
  · exact OkAll.error _ _
  · dsimp only
    refine OkAll.ite (OkAll.mapState (shaped_learn ?_)
      (fun x hx => shaped_countCycle _ _ _ _ hx)) (OkAll.ok ?_)
    all_goals
      repeat'
        first
        | with_reducible assumption | with_reducible apply shaped_ite
        | with_reducible apply shaped_kPutVal

theorem shaped_kernelVelSlot {s : State} {k i : Nat} {b : InBlock}
    (h0 : Shaped s) : OkAll (Shaped) (kernelVelSlot s k i b) := by
  unfold kernelVelSlot
  extract_lets e
  have hz : ∀ v, OkAll (Shaped) (.ok (kPutVal s k i 0x0c v)) := fun v =>
    OkAll.ok (shaped_kPutVal _ _ _ _ _ h0)
  exact OkAll.ite (OkAll.ite (hz _) (OkAll.ite (shaped_velocityLoop h0) (hz _))) (OkAll.ok h0)

theorem shaped_kernelEffect {s : State} {k ev : Nat} {b : InBlock}
    (h0 : Shaped s) : OkAll (Shaped) (kernelEffect s k ev b) := by
  unfold kernelEffect
  dsimp only
  split
  · exact OkAll.foldlM (shaped_foldl h0 (fun x i hx => shaped_takeParams x k i hx))
      (fun x i hx => shaped_kernelBuSlot hx)
  · exact OkAll.ok (shaped_foldl h0 (fun x i hx => shaped_kernelPosSlot x k i b hx))
  · exact OkAll.foldlM h0 (fun x i hx => shaped_kernelVelSlot hx)
  · exact OkAll.ok h0

theorem shaped_drawBelow (s : State) (n : Nat) (h0 : Shaped s) :
    Shaped (drawBelow s n).2 := by
  unfold drawBelow
  repeat'
    first
    | with_reducible assumption | with_reducible apply shaped_drawn

theorem shaped_kernelStage  (s : State) (k ev : Nat)
    (h0 : Shaped s) : Shaped (kernelStage s k ev) := by
  unfold kernelStage
  dsimp only
  split
  · exact shaped_engFault _ _ _ _ _ h0
  · split
    · exact shaped_engFault _ _ _ _ _ h0
    · rename_i t ht
      have hk : Shaped t := shaped_kernelEffect h0 t ht
      repeat'
        first
        | with_reducible assumption | with_reducible apply shaped_ite
        | with_reducible apply shaped_engFault | with_reducible apply shaped_endStage | with_reducible apply shaped_evt
        | with_reducible apply shaped_bumpSat | with_reducible apply shaped_drawBelow

theorem shaped_execStageStart (k : Fin 12) (s : State) (h0 : Shaped s) :
    ∃ s', execStageStart k s = .next s' ∧ Shaped s' := by
  refine ⟨_, rfl, ?_⟩
  repeat'
    first
    | with_reducible assumption | with_reducible intro _ | with_reducible apply shaped_ite
    | with_reducible apply shaped_when | with_reducible apply shaped_onEng
    | with_reducible apply shaped_kernelStage | split | dsimp only

end Sys2Proof.Machine
end

