-- ==== Sys2Proof/Laws/ShapeZip.lean ====
section
/-!
SUPPORT. Every operation of Machine/Zip.lean keeps the lengths of the lists of fixed size (Shaped).
-/
set_option linter.all false

namespace Sys2Proof.Machine

theorem shaped_zipEnd (s : State) (e : JEntry) (code : Nat) (h0 : Shaped s) :
    Shaped (zipEnd s e code) := by
  unfold zipEnd
  dsimp only
  repeat'
    first
    | with_reducible assumption | with_reducible apply shaped_ite | with_reducible apply shaped_endCmd
    | with_reducible apply shaped_wr | with_reducible apply shaped_evt | with_reducible apply shaped_bumpSat
    | dsimp only

theorem shaped_zipBegin (s : State) (e : JEntry) (h0 : Shaped s) :
    Shaped (zipBegin s e) := by
  unfold zipBegin
  dsimp only
  repeat'
    first
    | with_reducible assumption | with_reducible apply shaped_ite | with_reducible apply shaped_wr
    | with_reducible apply shaped_zipEnd | dsimp only

theorem shaped_zipQuires  (s : State) (i : Nat) (seq : Seq32) (q n : Nat)
    (l : List Slot) (h0 : Shaped s) :
    Shaped (zipQuires s i seq q n l) := by
  induction n generalizing s l with
  | zero => exact h0
  | succ n ih =>
    unfold zipQuires
    split
    · exact h0
    · exact ih _ _ (shaped_pushQuire _ _ _ _ _ h0)

theorem shaped_zipStore (s : State) (e : JEntry) (out : List Nat) (h0 : Shaped s) :
    Shaped (zipStore s e out) := by
  unfold zipStore
  dsimp only
  repeat'
    first
    | with_reducible assumption | with_reducible intro _ | with_reducible apply shaped_ite
    | with_reducible apply shaped_zipQuires | with_reducible apply shaped_closeQuire
    | with_reducible apply shaped_vatPutBytes | dsimp only

theorem shaped_zipOut (s : State) (e : JEntry) (r : ZipRun) (h0 : Shaped s) :
    Shaped (zipOut s e r).1 := by
  unfold zipOut
  dsimp only
  repeat'
    first
    | with_reducible assumption | with_reducible apply shaped_ite | with_reducible apply shaped_ite_fst
    | with_reducible apply shaped_drawBelow | dsimp only

theorem shaped_zipFinish (s : State) (e : JEntry) (lost : Option Nat) (h0 : Shaped s) :
    Shaped (zipFinish s e lost) := by
  unfold zipFinish
  dsimp only
  repeat'
    first
    | with_reducible assumption | with_reducible apply shaped_ite | with_reducible apply shaped_zipEnd
    | with_reducible apply shaped_vatError | with_reducible apply shaped_zipOut
    | with_reducible apply shaped_zipStore | with_reducible apply shaped_drawBelow
    | with_reducible apply shaped_wr | dsimp only

theorem shaped_zipCut (s : State) (e : JEntry) (h0 : Shaped s) :
    Shaped (zipCut s e) := by
  unfold zipCut
  dsimp only
  repeat'
    first
    | with_reducible assumption | with_reducible apply shaped_ite | with_reducible apply shaped_drawBelow
    | with_reducible apply shaped_zipStore | with_reducible apply shaped_wr | dsimp only

theorem shaped_execZipJobDone (s : State) (lost : Option Nat) (h0 : Shaped s) :
    ∃ s', execZipJobDone s lost = .next s' ∧ Shaped s' := by
  refine ⟨_, rfl, ?_⟩
  repeat'
    first
    | with_reducible assumption | with_reducible apply shaped_zipFinish | split

theorem shaped_abortJob (s : State) (h0 : Shaped s) :
    Shaped (abortJob s) := by
  unfold abortJob
  repeat'
    first
    | with_reducible assumption | with_reducible apply shaped_zipEnd | with_reducible apply shaped_zipCut
    | split

theorem shaped_execAbortJob (p : Path) (s : State) (h0 : Shaped s) :
    ∃ s', execAbortJob p s = .next s' ∧ Shaped s' := by
  refine ⟨_, rfl, ?_⟩
  repeat'
    first
    | with_reducible assumption | with_reducible intro _ | with_reducible apply shaped_gated
    | with_reducible apply shaped_abortJob

theorem shaped_zipCtrl (s : State) (w : Who) (v : Word) (h0 : Shaped s) :
    Shaped (zipCtrl s w v) := by
  unfold zipCtrl
  repeat'
    first
    | with_reducible assumption | with_reducible apply shaped_ite | with_reducible apply shaped_abortJob
    | with_reducible apply shaped_refuse

theorem shaped_zipInterrupt (s : State) (h0 : Shaped s) :
    Shaped (zipInterrupt s) := by
  unfold zipInterrupt
  repeat'
    first
    | with_reducible assumption | with_reducible apply shaped_evt | with_reducible apply shaped_bumpSat
    | with_reducible apply shaped_zipCut | split

end Sys2Proof.Machine
end

