-- ==== Sys2Proof/Laws/ShapeCmd.lean ====
section
/-!
SUPPORT. Every operation of Machine/Cmd.lean keeps the lengths of the lists of fixed size (Shaped).
-/
set_option linter.all false

namespace Sys2Proof.Machine

theorem shaped_transferBegin (s : State) (e : JEntry) (h0 : Shaped s) :
    Shaped (transferBegin s e) := by
  unfold transferBegin
  repeat'
    first
    | with_reducible assumption | with_reducible apply shaped_ite | with_reducible apply shaped_endCmd

theorem shaped_execTransferDone (s : State) (h0 : Shaped s) :
    ∃ s', execTransferDone s = .next s' ∧ Shaped s' := by
  refine ⟨_, rfl, ?_⟩
  repeat'
    first
    | with_reducible assumption | with_reducible apply shaped_endCmd | with_reducible apply shaped_vatPutBytes
    | split

theorem shaped_tableBegin (s : State) (e : JEntry) (h0 : Shaped s) :
    Shaped (tableBegin s e) := by
  unfold tableBegin
  repeat'
    first
    | with_reducible assumption | with_reducible apply shaped_ite | with_reducible apply shaped_endCmd

theorem shaped_execTableStageDone (s : State) (h0 : Shaped s) :
    ∃ s', execTableStageDone s = .next s' ∧ Shaped s' := by
  refine ⟨_, rfl, ?_⟩
  repeat'
    first
    | with_reducible assumption | with_reducible intro _ | with_reducible apply shaped_ite
    | with_reducible apply shaped_stageCopy | with_reducible apply shaped_onEng
    | with_reducible apply shaped_endCmd | with_reducible apply shaped_tableEvent | split | dsimp only

theorem shaped_startCmd (s : State) (e : JEntry) (h0 : Shaped s) :
    Shaped (startCmd s e) := by
  unfold startCmd
  dsimp only
  repeat'
    first
    | with_reducible assumption | with_reducible intro _ | with_reducible apply shaped_ite
    | with_reducible apply shaped_onEntry | with_reducible apply shaped_endCmd
    | with_reducible apply shaped_transferBegin | with_reducible apply shaped_zipBegin
    | with_reducible apply shaped_tableBegin | with_reducible apply shaped_persistentBegin | dsimp only

theorem shaped_execCommandExecute (s : State) (h0 : Shaped s) :
    ∃ s', execCommandExecute s = .next s' ∧ Shaped s' := by
  refine ⟨_, rfl, ?_⟩
  repeat'
    first
    | with_reducible assumption | with_reducible apply shaped_ite | with_reducible apply shaped_startCmd
    | split

theorem shaped_duskRunning (s : State) (h0 : Shaped s) :
    Shaped (duskRunning s) := by
  unfold duskRunning
  dsimp only
  repeat'
    first
    | with_reducible assumption | with_reducible intro _ | with_reducible apply shaped_ite
    | with_reducible apply shaped_stepDone | with_reducible apply shaped_endCmd
    | with_reducible apply shaped_onEntry | with_reducible apply shaped_zipInterrupt | split | dsimp only

theorem shaped_duskCommands (s : State) (h0 : Shaped s) :
    Shaped (duskCommands s) := by
  unfold duskCommands
  dsimp only
  repeat'
    first
    | with_reducible assumption | with_reducible intro _ | with_reducible apply shaped_ite
    | with_reducible apply shaped_duskRunning | with_reducible apply Shaped.set_cmd | dsimp only

theorem shaped_cmdReset (s : State) (h0 : Shaped s) :
    Shaped (cmdReset s) := by
  unfold cmdReset
  repeat'
    first
    | with_reducible assumption | with_reducible apply shaped_journalReset
    | with_reducible apply shaped_nvInterrupt | with_reducible apply shaped_zipInterrupt

end Sys2Proof.Machine
end

