-- ==== Sys2Proof/Laws/ShapeEdge.lean ====
section
/-!
SUPPORT. Every operation of Machine/Edge.lean keeps the lengths of the lists of fixed size (Shaped).
-/
set_option linter.all false

namespace Sys2Proof.Machine

theorem shaped_onEdge (s : State) (n : Nat) (f : EdgeState → EdgeState) (h0 : Shaped s) :
    Shaped (onEdge s n f) := by
  unfold onEdge
  repeat'
    first
    | with_reducible assumption
    | (with_reducible refine Shaped.set_edges ?_ (fun hb => by simpa using hb.edges))

theorem shaped_edgeDeliver (s : State) (n idx : Nat) (w : Word) (lost : Bool) (h0 : Shaped s) :
    Shaped (edgeDeliver s n idx w lost) := by
  unfold edgeDeliver
  repeat'
    first
    | with_reducible assumption | with_reducible apply shaped_feedStreams

theorem shaped_enqueue (s : State) (n idx item : Nat) (val : Option Int) (clip : Bool) (ecc : WordErr) (h0 : Shaped
    s) :
    Shaped (enqueue s n idx item val clip ecc) := by
  unfold enqueue
  dsimp only
  repeat'
    first
    | with_reducible assumption | with_reducible intro _ | with_reducible apply shaped_ite
    | with_reducible apply shaped_evt | with_reducible apply shaped_onEdge | split | dsimp only

theorem shaped_drainEdge (s : State) (n : Nat) (h0 : Shaped s) :
    Shaped (drainEdge s n) := by
  unfold drainEdge
  dsimp only
  repeat'
    first
    | with_reducible assumption | with_reducible intro _ | with_reducible apply shaped_ite
    | with_reducible apply shaped_fromQueue | with_reducible apply shaped_onEdge
    | with_reducible apply shaped_edgeDeliver | split | dsimp only

theorem shaped_tickEdges (s : State) (h0 : Shaped s) :
    Shaped (tickEdges s) := by
  unfold tickEdges
  repeat'
    first
    | with_reducible assumption | with_reducible intro _ | with_reducible apply shaped_ite
    | with_reducible apply shaped_foldl | with_reducible apply shaped_drainEdge

theorem shaped_queueEdge (s : State) (n i : Nat) (falling : Bool) (t : Nat) (ecc : WordErr) (h0 : Shaped s) :
    Shaped (queueEdge s n i falling t ecc) := by
  unfold queueEdge
  dsimp only
  repeat'
    first
    | with_reducible assumption | with_reducible apply shaped_ite | with_reducible apply shaped_enqueue
    | dsimp only

theorem shaped_edgeError (s : State) (n : Nat) (quad : Bool) (h0 : Shaped s) :
    Shaped (edgeError s n quad) := by
  unfold edgeError
  repeat'
    first
    | with_reducible assumption | with_reducible intro _ | with_reducible apply shaped_evt
    | with_reducible apply shaped_onEdge | dsimp only

theorem shaped_countEdge (s : State) (n t : Nat) (up : Bool) (h0 : Shaped s) :
    Shaped (countEdge s n t up) := by
  unfold countEdge
  dsimp only
  repeat'
    first
    | with_reducible assumption | with_reducible intro _ | with_reducible apply shaped_ite
    | with_reducible apply shaped_onEdge | dsimp only

theorem shaped_zEdge (s : State) (n t : Nat) (h0 : Shaped s) :
    Shaped (zEdge s n t) := by
  unfold zEdge
  dsimp only
  repeat'
    first
    | with_reducible assumption | with_reducible intro _ | with_reducible apply shaped_ite
    | with_reducible apply shaped_onEdge | with_reducible apply shaped_evt | dsimp only

theorem shaped_endInterval (s : State) (n : Nat) (stop : Option Nat) (ecc : WordErr) (h0 : Shaped s) :
    Shaped (endInterval s n stop ecc) := by
  unfold endInterval
  dsimp only
  repeat'
    first
    | with_reducible assumption | with_reducible intro _ | with_reducible apply shaped_ite
    | with_reducible apply shaped_onEdge | with_reducible apply shaped_countEdge
    | with_reducible apply shaped_enqueue | split | dsimp only

theorem shaped_ignoredEdge (s : State) (n : Nat) (h0 : Shaped s) :
    Shaped (ignoredEdge s n) := by
  unfold ignoredEdge
  repeat'
    first
    | with_reducible assumption | with_reducible intro _ | with_reducible apply shaped_onEdge | dsimp only

theorem shaped_quadEdge (s : State) (n : Nat) (inp t : Nat) (a b together : Bool) (h0 : Shaped s) :
    Shaped (quadEdge s n inp t a b together) := by
  unfold quadEdge
  dsimp only
  repeat'
    first
    | with_reducible assumption | with_reducible intro _ | with_reducible apply shaped_ite
    | with_reducible apply shaped_onEdge | with_reducible apply shaped_edgeError
    | with_reducible apply shaped_countEdge | dsimp only

theorem shaped_encEdge (s : State) (n : Nat) (x : EncEdge) (h0 : Shaped s) :
    Shaped (encEdge s n x) := by
  unfold encEdge
  dsimp only
  repeat'
    first
    | with_reducible assumption | with_reducible intro _ | with_reducible apply shaped_ite
    | with_reducible apply shaped_quadEdge | with_reducible apply shaped_zEdge
    | with_reducible apply shaped_queueEdge | with_reducible apply shaped_countEdge
    | with_reducible apply shaped_ignoredEdge | with_reducible apply shaped_onEdge
    | with_reducible apply shaped_endInterval | split | dsimp only

theorem shaped_execEncEdge (ch : Fin 64) (e : EncEdge) (s : State) (h0 : Shaped s) :
    ∃ s', execEncEdge ch e s = .next s' ∧ Shaped s' := by
  refine ⟨_, rfl, ?_⟩
  repeat'
    first
    | with_reducible assumption | with_reducible apply shaped_encEdge

theorem shaped_execIntervalTimeout (ch : Fin 64) (s : State) (h0 : Shaped s) :
    ∃ s', execIntervalTimeout ch s = .next s' ∧ Shaped s' := by
  refine ⟨_, rfl, ?_⟩
  repeat'
    first
    | with_reducible assumption | with_reducible intro _ | with_reducible apply shaped_when
    | with_reducible apply shaped_evt | with_reducible apply shaped_endInterval | dsimp only

theorem shaped_execEdgePositionRecord (ch : Fin 64) (s : State) (h0 : Shaped s) :
    ∃ s', execEdgePositionRecord ch s = .next s' ∧ Shaped s' := by
  refine ⟨_, rfl, ?_⟩
  repeat'
    first
    | with_reducible assumption | with_reducible intro _ | with_reducible apply shaped_when
    | with_reducible apply shaped_onEdge | with_reducible apply shaped_edgeDeliver | dsimp only

theorem shaped_execSsiTransfer (ch : Fin 64) (s : State) (h0 : Shaped s) :
    ∃ s', execSsiTransfer ch s = .next s' ∧ Shaped s' := by
  refine ⟨_, rfl, ?_⟩
  repeat'
    first
    | with_reducible assumption | with_reducible intro _ | with_reducible apply shaped_ite
    | with_reducible apply shaped_when | with_reducible apply shaped_onGc
    | with_reducible apply shaped_ignoredEdge | with_reducible apply shaped_onEdge | dsimp only

theorem shaped_execSsiTransferDone (ch : Fin 64) (idleHigh : Bool) (bits : List Bool) (s : State) (h0 : Shaped s) :
    ∃ s', execSsiTransferDone ch idleHigh bits s = .next s' ∧ Shaped s' := by
  refine ⟨_, rfl, ?_⟩
  repeat'
    first
    | with_reducible assumption | with_reducible intro _ | with_reducible apply shaped_ite
    | with_reducible apply shaped_foldl | with_reducible apply shaped_onEdge
    | with_reducible apply shaped_edgeError | split | dsimp only

theorem shaped_execInterpolatorTable (ch : Fin 64) (input : Fin 3) (s : State) (hits : List Nat) (h0 : Shaped s) :
    ∃ s', execInterpolatorTable ch input s hits = .next s' ∧ Shaped s' := by
  refine ⟨_, rfl, ?_⟩
  repeat'
    first
    | with_reducible assumption | with_reducible intro _ | with_reducible apply shaped_ite
    | with_reducible apply shaped_evtIf | with_reducible apply shaped_onEdge | dsimp only

theorem shaped_armReference (s : State) (n : Nat) (h0 : Shaped s) :
    Shaped (armReference s n) := by
  unfold armReference
  repeat'
    first
    | with_reducible assumption | with_reducible intro _ | with_reducible apply shaped_onEdge | dsimp only

theorem shaped_execArmReference (p : Path) (ch : Fin 64) (s : State) (h0 : Shaped s) :
    ∃ s', execArmReference p ch s = .next s' ∧ Shaped s' := by
  refine ⟨_, rfl, ?_⟩
  repeat'
    first
    | with_reducible assumption | with_reducible intro _ | with_reducible apply shaped_gated
    | with_reducible apply shaped_armReference | dsimp only

theorem shaped_loadPreset (s : State) (n : Nat) (h0 : Shaped s) :
    Shaped (loadPreset s n) := by
  unfold loadPreset
  dsimp only
  repeat'
    first
    | with_reducible assumption | with_reducible intro _ | with_reducible apply shaped_onEdge | dsimp only

theorem shaped_execLoadPreset (p : Path) (ch : Fin 64) (s : State) (h0 : Shaped s) :
    ∃ s', execLoadPreset p ch s = .next s' ∧ Shaped s' := by
  refine ⟨_, rfl, ?_⟩
  repeat'
    first
    | with_reducible assumption | with_reducible intro _ | with_reducible apply shaped_gated
    | with_reducible apply shaped_loadPreset | dsimp only

theorem shaped_clearCounters (s : State) (n : Nat) (h0 : Shaped s) :
    Shaped (clearCounters s n) := by
  unfold clearCounters
  repeat'
    first
    | with_reducible assumption | with_reducible intro _ | with_reducible apply shaped_onEdge | dsimp only

theorem shaped_execClearCounters (p : Path) (ch : Fin 64) (s : State) (h0 : Shaped s) :
    ∃ s', execClearCounters p ch s = .next s' ∧ Shaped s' := by
  refine ⟨_, rfl, ?_⟩
  repeat'
    first
    | with_reducible assumption | with_reducible intro _ | with_reducible apply shaped_gated
    | with_reducible apply shaped_clearCounters | dsimp only

theorem shaped_edgeCtrl (s : State) (w : Who) (p : Nat) (v : Word) (h0 : Shaped s) :
    Shaped (edgeCtrl s w p v) := by
  unfold edgeCtrl
  dsimp only
  repeat'
    first
    | with_reducible assumption | with_reducible apply shaped_armReference
    | with_reducible apply shaped_loadPreset | with_reducible apply shaped_clearCounters
    | with_reducible apply shaped_refuse | split | dsimp only

theorem shaped_edgeBoundary (s : State) (n idx : Nat) (h0 : Shaped s) :
    Shaped (edgeBoundary s n idx) := by
  unfold edgeBoundary
  dsimp only
  repeat'
    first
    | with_reducible assumption | with_reducible intro _ | with_reducible apply shaped_onEdge | dsimp only

theorem shaped_edgeCommitted (s0 s : State) (p : Nat) (h0 : Shaped s) :
    Shaped (edgeCommitted s0 s p) := by
  unfold edgeCommitted
  dsimp only
  repeat'
    first
    | with_reducible assumption | with_reducible intro _ | with_reducible apply shaped_ite
    | with_reducible apply shaped_foldl | with_reducible apply shaped_onEdge | with_reducible apply shaped_onGc
    | dsimp only

end Sys2Proof.Machine
end

