-- ==== Sys2Proof/Laws/ShapeSafe.lean ====
section
/-!
SUPPORT. Every operation of Machine/Safe.lean keeps the lengths of the lists of fixed size (Shaped).
-/
set_option linter.all false

namespace Sys2Proof.Machine

theorem shaped_onSafe (s : State) (f : SafeState → SafeState)
    (hf : ∀ t, t.si.length = 16 ∧ t.held.length = 16 ∧ t.sawLow.length = 16 ∧ t.tp.length = 4 ∧ t.pairs.length = 8 ∧
        t.outs.length = 4 ∧ t.mons.length = 8 ∧ t.conns.length = 32 → (f t).si.length = 16 ∧ (f t).held.length = 16 ∧
            (f t).sawLow.length = 16 ∧ (f t).tp.length = 4 ∧ (f t).pairs.length = 8 ∧ (f t).outs.length = 4 ∧ (f
                t).mons.length = 8 ∧ (f t).conns.length = 32)
    (h0 : Shaped s) : Shaped (onSafe s f) := by
  unfold onSafe
  exact Shaped.set_safe h0 (fun hb => hf _ ⟨hb.safe_si, hb.safe_held, hb.safe_sawLow, hb.safe_tp, hb.safe_pairs,
      hb.safe_outs, hb.safe_mons, hb.safe_conns⟩)

theorem shaped_onPair (s : State) (k : Nat) (f : SafePair → SafePair) (h0 : Shaped s) :
    Shaped (onPair s k f) := by
  unfold onPair
  repeat'
    first
    | with_reducible assumption | with_reducible intro _
    | (with_reducible refine shaped_onSafe _ _ (fun t h1 => by simp [h1]) ?_) | dsimp only

theorem shaped_onOut (s : State) (x : Nat) (f : SafeOut → SafeOut) (h0 : Shaped s) :
    Shaped (onOut s x f) := by
  unfold onOut
  repeat'
    first
    | with_reducible assumption | with_reducible intro _
    | (with_reducible refine shaped_onSafe _ _ (fun t h1 => by simp [h1]) ?_) | dsimp only

theorem shaped_onMon (s : State) (m : Nat) (f : SafeMon → SafeMon) (h0 : Shaped s) :
    Shaped (onMon s m f) := by
  unfold onMon
  repeat'
    first
    | with_reducible assumption | with_reducible intro _
    | (with_reducible refine shaped_onSafe _ _ (fun t h1 => by simp [h1]) ?_) | dsimp only

theorem shaped_onConn (s : State) (c : Nat) (f : SafeConn → SafeConn) (h0 : Shaped s) :
    Shaped (onConn s c f) := by
  unfold onConn
  repeat'
    first
    | with_reducible assumption | with_reducible intro _
    | (with_reducible refine shaped_onSafe _ _ (fun t h1 => by simp [h1]) ?_) | dsimp only

theorem shaped_safeMark (s : State) (i : Nat) (h0 : Shaped s) :
    Shaped (safeMark s i) := by
  unfold safeMark
  repeat'
    first
    | with_reducible assumption | with_reducible apply shaped_evt | with_reducible apply shaped_wr

theorem shaped_safeFault (s : State) (i : Nat) (h0 : Shaped s) :
    Shaped (safeFault s i) := by
  unfold safeFault
  repeat'
    first
    | with_reducible assumption | with_reducible apply shaped_faultSrc | with_reducible apply shaped_safeMark

theorem shaped_startSs1 (s : State) (x : Nat) (h0 : Shaped s) :
    Shaped (startSs1 s x) := by
  unfold startSs1
  dsimp only
  repeat'
    first
    | with_reducible assumption | with_reducible intro _ | with_reducible apply shaped_ite
    | with_reducible apply shaped_evt | with_reducible apply shaped_onOut | dsimp only

theorem shaped_demandSeen (s : State) (x : Nat) (h0 : Shaped s) :
    Shaped (demandSeen s x) := by
  unfold demandSeen
  dsimp only
  repeat'
    first
    | with_reducible assumption | with_reducible intro _ | with_reducible apply shaped_ite
    | with_reducible apply shaped_onOut | with_reducible apply shaped_startSs1 | dsimp only

theorem shaped_allDemands (s : State) (h0 : Shaped s) :
    Shaped (allDemands s) := by
  unfold allDemands
  repeat'
    first
    | with_reducible assumption | with_reducible intro _ | with_reducible apply shaped_foldl
    | with_reducible apply shaped_demandSeen

theorem shaped_resetPulse (s : State) (k : Nat) (h0 : Shaped s) :
    Shaped (resetPulse s k) := by
  unfold resetPulse
  repeat'
    first
    | with_reducible assumption | with_reducible intro _ | with_reducible apply shaped_ite
    | with_reducible apply shaped_foldl | with_reducible apply shaped_onOut | dsimp only

theorem shaped_pairChanged (s : State) (k : Nat) (h0 : Shaped s) :
    Shaped (pairChanged s k) := by
  unfold pairChanged
  dsimp only
  repeat'
    first
    | with_reducible assumption | with_reducible intro _ | with_reducible apply shaped_ite
    | with_reducible apply shaped_onPair | with_reducible apply shaped_resetPulse
    | with_reducible apply shaped_allDemands | split | dsimp only

theorem shaped_safeInput (s : State) (i : Nat) (level : Bool) (h0 : Shaped s) :
    Shaped (safeInput s i level) := by
  unfold safeInput
  dsimp only
  repeat'
    first
    | with_reducible assumption | with_reducible intro _ | with_reducible apply shaped_ite
    | (with_reducible refine shaped_onSafe _ _ (fun t h1 => by simp [h1] <;> split <;> simp [h1]) ?_)
    | with_reducible apply shaped_pairChanged | dsimp only

theorem shaped_execSafeInput (i : Fin 16) (level : Bool) (s : State) (h0 : Shaped s) :
    ∃ s', execSafeInput i level s = .next s' ∧ Shaped s' := by
  refine ⟨_, rfl, ?_⟩
  repeat'
    first
    | with_reducible assumption | with_reducible apply shaped_safeInput

theorem shaped_execDiscrepancy (k : Fin 8) (s : State) (h0 : Shaped s) :
    ∃ s', execDiscrepancy k s = .next s' ∧ Shaped s' := by
  refine ⟨_, rfl, ?_⟩
  repeat'
    first
    | with_reducible assumption | with_reducible intro _ | with_reducible apply shaped_when
    | with_reducible apply shaped_allDemands | with_reducible apply shaped_safeFault
    | with_reducible apply shaped_onPair | dsimp only

theorem shaped_execTestPulse (k : Fin 4) (s : State) (h0 : Shaped s) :
    ∃ s', execTestPulse k s = .next s' ∧ Shaped s' := by
  refine ⟨_, rfl, ?_⟩
  repeat'
    first
    | with_reducible assumption | with_reducible intro _ | with_reducible apply shaped_foldl
    | with_reducible apply shaped_when
    | (with_reducible refine shaped_onSafe _ _ (fun t h1 => by simp [h1, length_foldl_set]) ?_) | dsimp only

theorem shaped_execTestPulseEnd (k : Fin 4) (s : State) (h0 : Shaped s) :
    ∃ s', execTestPulseEnd k s = .next s' ∧ Shaped s' := by
  refine ⟨_, rfl, ?_⟩
  repeat'
    first
    | with_reducible assumption | with_reducible intro _ | with_reducible apply shaped_ite
    | with_reducible apply shaped_foldl | with_reducible apply shaped_when
    | (with_reducible refine shaped_onSafe _ _ (fun t h1 => by simp [h1]) ?_)
    | with_reducible apply shaped_allDemands | with_reducible apply shaped_safeFault
    | with_reducible apply shaped_onPair | dsimp only

theorem shaped_execPulseHoldEnd (k : Fin 4) (s : State) (h0 : Shaped s) :
    ∃ s', execPulseHoldEnd k s = .next s' ∧ Shaped s' := by
  refine ⟨_, rfl, ?_⟩
  repeat'
    first
    | with_reducible assumption | with_reducible intro _ | with_reducible apply shaped_ite
    | with_reducible apply shaped_foldl | with_reducible apply shaped_when
    | with_reducible apply shaped_pairChanged
    | (with_reducible refine shaped_onSafe _ _ (fun t h1 => by simp [h1]) ?_) | dsimp only

theorem shaped_outOff (s : State) (x : Nat) (demand : Bool) (h0 : Shaped s) :
    Shaped (outOff s x demand) := by
  unfold outOff
  repeat'
    first
    | with_reducible assumption | with_reducible intro _ | with_reducible apply shaped_ite
    | with_reducible apply shaped_evtIf | with_reducible apply shaped_onOut | dsimp only

theorem shaped_countSlow (s : State) (x : Nat) (h0 : Shaped s) :
    Shaped (countSlow s x) := by
  unfold countSlow
  dsimp only
  repeat'
    first
    | with_reducible assumption | with_reducible intro _ | with_reducible apply shaped_ite
    | with_reducible apply shaped_onOut | dsimp only

theorem shaped_outCycle (s : State) (x : Nat) (h0 : Shaped s) :
    Shaped (outCycle s x) := by
  unfold outCycle
  dsimp only
  repeat'
    first
    | with_reducible assumption | with_reducible intro _ | with_reducible apply shaped_ite
    | with_reducible apply shaped_countSlow | with_reducible apply shaped_demandSeen
    | with_reducible apply shaped_onOut | with_reducible apply shaped_outOff | with_reducible apply shaped_evt
    | dsimp only

theorem shaped_monCycle (s : State) (m : Nat) (h0 : Shaped s) :
    Shaped (monCycle s m) := by
  unfold monCycle
  dsimp only
  repeat'
    first
    | with_reducible assumption | with_reducible intro _ | with_reducible apply shaped_ite
    | with_reducible apply shaped_onMon | with_reducible apply shaped_safeMark | split | dsimp only

theorem shaped_sfcCycle (s : State) (flowOk cfgOk : Bool) (h0 : Shaped s) :
    Shaped (sfcCycle s flowOk cfgOk) := by
  unfold sfcCycle
  dsimp only
  repeat'
    first
    | with_reducible assumption | with_reducible intro _ | with_reducible apply shaped_ite
    | with_reducible apply shaped_foldl
    | (with_reducible refine shaped_onSafe _ _ (fun t h1 => by simp [h1]) ?_)
    | with_reducible apply shaped_safeFault | with_reducible apply shaped_monCycle
    | with_reducible apply shaped_outCycle | dsimp only

theorem shaped_execSfcCycle (flowOk cfgOk : Bool) (s : State) (h0 : Shaped s) :
    ∃ s', execSfcCycle flowOk cfgOk s = .next s' ∧ Shaped s' := by
  refine ⟨_, rfl, ?_⟩
  repeat'
    first
    | with_reducible assumption | with_reducible intro _ | with_reducible apply shaped_when
    | with_reducible apply shaped_sfcCycle | dsimp only

theorem shaped_lifeLost (s : State) (h0 : Shaped s) :
    Shaped (lifeLost s) := by
  unfold lifeLost
  dsimp only
  repeat'
    first
    | with_reducible assumption | with_reducible intro _ | with_reducible apply shaped_foldl
    | with_reducible apply shaped_safeFault
    | (with_reducible refine shaped_onSafe _ _ (fun t h1 => by simp [h1]) ?_)
    | with_reducible apply shaped_outOff | dsimp only

theorem shaped_execSfcSelfTest (ok : Bool) (s : State) (h0 : Shaped s) :
    ∃ s', execSfcSelfTest ok s = .next s' ∧ Shaped s' := by
  refine ⟨_, rfl, ?_⟩
  repeat'
    first
    | with_reducible assumption | with_reducible intro _ | with_reducible apply shaped_when
    | with_reducible apply shaped_lifeLost

theorem shaped_execLifeSignalLost (s : State) (h0 : Shaped s) :
    ∃ s', execLifeSignalLost s = .next s' ∧ Shaped s' := by
  refine ⟨_, rfl, ?_⟩
  repeat'
    first
    | with_reducible assumption | with_reducible intro _ | with_reducible apply shaped_when
    | with_reducible apply shaped_lifeLost

theorem shaped_execSwitchTest (x : Fin 4) (s : State) (h0 : Shaped s) :
    ∃ s', execSwitchTest x s = .next s' ∧ Shaped s' := by
  refine ⟨_, rfl, ?_⟩
  repeat'
    first
    | with_reducible assumption | with_reducible intro _ | with_reducible apply shaped_when
    | with_reducible apply shaped_onOut | dsimp only

theorem shaped_execSwitchTestEnd (x : Fin 4) (s : State) (h0 : Shaped s) :
    ∃ s', execSwitchTestEnd x s = .next s' ∧ Shaped s' := by
  refine ⟨_, rfl, ?_⟩
  repeat'
    first
    | with_reducible assumption | with_reducible intro _ | with_reducible apply shaped_ite
    | with_reducible apply shaped_when | with_reducible apply shaped_outOff | with_reducible apply shaped_onOut
    | dsimp only

theorem shaped_execSwitchReadback (x : Fin 4) (high level : Bool) (s : State) (h0 : Shaped s) :
    ∃ s', execSwitchReadback x high level s = .next s' ∧ Shaped s' := by
  refine ⟨_, rfl, ?_⟩
  repeat'
    first
    | with_reducible assumption | with_reducible intro _ | with_reducible apply shaped_ite
    | with_reducible apply shaped_onOut | dsimp only

theorem shaped_execReadbackFault (x : Fin 4) (high : Bool) (s : State) (h0 : Shaped s) :
    ∃ s', execReadbackFault x high s = .next s' ∧ Shaped s' := by
  refine ⟨_, rfl, ?_⟩
  repeat'
    first
    | with_reducible assumption | with_reducible intro _ | with_reducible apply shaped_ite
    | with_reducible apply shaped_when | with_reducible apply shaped_safeFault
    | with_reducible apply shaped_outOff | dsimp only

theorem shaped_execSs1Expiry (x : Fin 4) (s : State) (h0 : Shaped s) :
    ∃ s', execSs1Expiry x s = .next s' ∧ Shaped s' := by
  refine ⟨_, rfl, ?_⟩
  repeat'
    first
    | with_reducible assumption | with_reducible intro _ | with_reducible apply shaped_when
    | with_reducible apply shaped_outOff | dsimp only

theorem shaped_execSafeframeSend (c : Fin 32) (s : State) (h0 : Shaped s) :
    ∃ s', execSafeframeSend c s = .next s' ∧ Shaped s' := by
  refine ⟨_, rfl, ?_⟩
  repeat'
    first
    | with_reducible assumption | with_reducible intro _ | with_reducible apply shaped_ite
    | with_reducible apply shaped_when | with_reducible apply shaped_failSafe
    | with_reducible apply shaped_sendRing | with_reducible apply shaped_onConn | dsimp only

theorem shaped_failSafe (s : State) (c cause : Nat) (h0 : Shaped s) :
    Shaped (failSafe s c cause) := by
  unfold failSafe
  repeat'
    first
    | with_reducible assumption | with_reducible intro _ | with_reducible apply shaped_ite
    | with_reducible apply shaped_allDemands | with_reducible apply shaped_evt
    | with_reducible apply shaped_onConn | dsimp only

theorem shaped_sfDiscard (s : State) (c : Nat) (f : SafeConn → SafeConn) (h0 : Shaped s) :
    Shaped (sfDiscard s c f) := by
  unfold sfDiscard
  repeat'
    first
    | with_reducible assumption | with_reducible intro _ | with_reducible apply shaped_onConn | dsimp only

theorem shaped_safeFrame (s : State) (c : Nat) (m : SafeMsg) (h0 : Shaped s) :
    Shaped (safeFrame s c m) := by
  unfold safeFrame
  dsimp only
  repeat'
    first
    | with_reducible assumption | with_reducible intro _ | with_reducible apply shaped_ite
    | with_reducible apply shaped_sfDiscard | with_reducible apply shaped_failSafe
    | with_reducible apply shaped_onConn | with_reducible apply shaped_allDemands | split | dsimp only

theorem shaped_execSafeframe (c : Fin 32) (m : SafeMsg) (s : State) (h0 : Shaped s) :
    ∃ s', execSafeframe c m s = .next s' ∧ Shaped s' := by
  refine ⟨_, rfl, ?_⟩
  repeat'
    first
    | with_reducible assumption | with_reducible intro _ | with_reducible apply shaped_when
    | with_reducible apply shaped_safeFrame | dsimp only

theorem shaped_safeFrameRx (s : State) (m : SafeMsg) (h0 : Shaped s) :
    Shaped (safeFrameRx s m) := by
  unfold safeFrameRx
  repeat'
    first
    | with_reducible assumption | with_reducible intro _ | with_reducible apply shaped_ite
    | with_reducible apply shaped_foldl | with_reducible apply shaped_safeFrame | dsimp only

theorem shaped_execSafeframeWatchdog (c : Fin 32) (s : State) (h0 : Shaped s) :
    ∃ s', execSafeframeWatchdog c s = .next s' ∧ Shaped s' := by
  refine ⟨_, rfl, ?_⟩
  repeat'
    first
    | with_reducible assumption | with_reducible intro _ | with_reducible apply shaped_when
    | with_reducible apply shaped_failSafe | dsimp only

theorem shaped_resetFaults (s : State) (h0 : Shaped s) :
    Shaped (resetFaults s) := by
  unfold resetFaults
  dsimp only
  repeat'
    first
    | with_reducible assumption | with_reducible intro _ | with_reducible apply shaped_ite
    | with_reducible apply shaped_foldl | with_reducible apply shaped_clearBlock
    | with_reducible apply shaped_wr | with_reducible apply shaped_onOut | dsimp only

theorem shaped_resetConnection (s : State) (c : Nat) (h0 : Shaped s) :
    Shaped (resetConnection s c) := by
  unfold resetConnection
  repeat'
    first
    | with_reducible assumption | with_reducible intro _ | with_reducible apply shaped_ite
    | with_reducible apply shaped_onConn | dsimp only

theorem shaped_safeCtrl (s : State) (w : Who) (v : Word) (h0 : Shaped s) :
    Shaped (safeCtrl s w v) := by
  unfold safeCtrl
  repeat'
    first
    | with_reducible assumption | with_reducible apply shaped_resetFaults
    | with_reducible apply shaped_resetConnection | with_reducible apply shaped_refuse | split

theorem shaped_execResetFaults (p : Path) (s : State) (h0 : Shaped s) :
    ∃ s', execResetFaults p s = .next s' ∧ Shaped s' := by
  refine ⟨_, rfl, ?_⟩
  repeat'
    first
    | with_reducible assumption | with_reducible intro _ | with_reducible apply shaped_hostAct
    | with_reducible apply shaped_resetFaults

theorem shaped_execResetConnection (p : Path) (c : Fin 32) (s : State) (h0 : Shaped s) :
    ∃ s', execResetConnection p c s = .next s' ∧ Shaped s' := by
  refine ⟨_, rfl, ?_⟩
  repeat'
    first
    | with_reducible assumption | with_reducible intro _ | with_reducible apply shaped_hostAct
    | with_reducible apply shaped_resetConnection | dsimp only

theorem shaped_safeCommitted (s0 s : State) (h0 : Shaped s) :
    Shaped (safeCommitted s0 s) := by
  unfold safeCommitted
  dsimp only
  repeat'
    first
    | with_reducible assumption | with_reducible intro _ | with_reducible apply shaped_ite
    | with_reducible apply shaped_foldl | with_reducible apply shaped_onConn
    | with_reducible apply shaped_pairChanged | dsimp only

theorem shaped_safeDawn (s : State) (h0 : Shaped s) :
    Shaped (safeDawn s) := by
  unfold safeDawn
  repeat'
    first
    | with_reducible assumption | with_reducible intro _ | with_reducible apply shaped_ite
    | with_reducible apply shaped_faultSrc
    | (with_reducible refine shaped_onSafe _ _ (fun t h1 => by simp [h1]) ?_) | dsimp only

theorem shaped_safeWarm (s : State) (h0 : Shaped s) :
    Shaped (safeWarm s) := by
  unfold safeWarm
  repeat'
    first
    | with_reducible assumption | with_reducible intro _
    | (with_reducible refine shaped_onSafe _ _ (fun t h1 => by simp [h1]) ?_) | dsimp only

end Sys2Proof.Machine
end

