-- ==== Sys2Proof/Laws/ShapeSample.lean ====
section
/-!
SUPPORT. Every operation of Machine/Sample.lean keeps the lengths of the lists of fixed size (Shaped).
-/
set_option linter.all false

namespace Sys2Proof.Machine

theorem shaped_rawDeliver (s : State) (ch n : Nat) (w : Word) (h0 : Shaped s) :
    Shaped (rawDeliver s ch n w) := by
  unfold rawDeliver
  repeat'
    first
    | with_reducible assumption | with_reducible apply shaped_feedChain
    | with_reducible apply shaped_slotRecord

theorem shaped_execRawRecord (ch : Fin 128) (c : Conversion) (s : State) (h0 : Shaped s) :
    ∃ s', execRawRecord ch c s = .next s' ∧ Shaped s' := by
  refine ⟨_, rfl, ?_⟩
  repeat'
    first
    | with_reducible assumption | with_reducible intro _ | with_reducible apply shaped_when
    | with_reducible apply shaped_rawSample | with_reducible apply shaped_fromQueue
    | with_reducible apply shaped_rawDeliver | dsimp only

theorem shaped_latchCounts (s : State) (r : Nat) (h0 : Shaped s) :
    Shaped (latchCounts s r) := by
  unfold latchCounts
  repeat'
    first
    | with_reducible assumption | with_reducible intro _ | with_reducible apply shaped_foldl
    | with_reducible apply shaped_onBand | dsimp only

theorem shaped_blockEdgeFault (s : State) (r n : Nat) (h0 : Shaped s) :
    Shaped (blockEdgeFault s r n) := by
  unfold blockEdgeFault
  dsimp only
  repeat'
    first
    | with_reducible assumption | with_reducible intro _ | with_reducible apply shaped_ite
    | with_reducible apply shaped_onSlot | with_reducible apply shaped_slotFault | dsimp only

theorem shaped_writeBlock (s : State) (k n : Nat) (h0 : Shaped s) :
    Shaped (writeBlock s k n) := by
  unfold writeBlock
  dsimp only
  repeat'
    first
    | with_reducible assumption | with_reducible intro _ | with_reducible apply shaped_foldl
    | with_reducible apply shaped_edgeBoundary | with_reducible apply shaped_latchCounts
    | with_reducible apply shaped_onEng | with_reducible apply shaped_blockEdgeFault | dsimp only

theorem shaped_boundaryEvents (s : State) (k n : Nat) (h0 : Shaped s) :
    Shaped (boundaryEvents s k n) := by
  unfold boundaryEvents
  dsimp only
  repeat'
    first
    | with_reducible assumption | with_reducible intro _ | with_reducible apply shaped_ite
    | with_reducible apply shaped_onEng | with_reducible apply shaped_raiseEvent | split | dsimp only

theorem shaped_execBu (k : Fin 12) (s : State) (h0 : Shaped s) :
    ∃ s', execBu k s = .next s' ∧ Shaped s' := by
  refine ⟨_, rfl, ?_⟩
  repeat'
    first
    | with_reducible assumption | with_reducible intro _ | with_reducible apply shaped_ite
    | with_reducible apply shaped_when | with_reducible apply shaped_writeBlock
    | with_reducible apply shaped_boundaryEvents | dsimp only

theorem shaped_deliverOut (s : State) (c ch : Nat) (o : OutRec) (h0 : Shaped s) :
    Shaped (deliverOut s c ch o) := by
  unfold deliverOut
  dsimp only
  repeat'
    first
    | with_reducible assumption | with_reducible intro _ | with_reducible apply shaped_ite
    | with_reducible apply shaped_onChain | with_reducible apply shaped_feedStreams
    | with_reducible apply shaped_redStep | with_reducible apply shaped_reamsRecord
    | with_reducible apply shaped_liteDeliver | with_reducible apply shaped_subDeliver
    | with_reducible apply shaped_aoDeliver | dsimp only

theorem shaped_filteredRecord (s : State) (ch : Nat) (h0 : Shaped s) :
    Shaped (filteredRecord s ch) := by
  unfold filteredRecord
  repeat'
    first
    | with_reducible assumption | with_reducible intro _ | with_reducible apply shaped_deliverOut
    | with_reducible apply shaped_onChain | split | dsimp only

theorem shaped_execFilteredRecord (ch : Nat) (s : State) (h0 : Shaped s) :
    ∃ s', execFilteredRecord ch s = .next s' ∧ Shaped s' := by
  refine ⟨_, rfl, ?_⟩
  repeat'
    first
    | with_reducible assumption | with_reducible apply shaped_filteredRecord

theorem shaped_trigEdge (s : State) (pin : Nat) (falling : Bool) (stamp : Nat) (h0 : Shaped s) :
    Shaped (trigEdge s pin falling stamp) := by
  unfold trigEdge
  dsimp only
  repeat'
    first
    | with_reducible assumption | with_reducible apply shaped_ite | with_reducible apply shaped_reamsPin
    | with_reducible apply shaped_pinMarks | with_reducible apply Shaped.set_pins | dsimp only

theorem shaped_execTriginEdge (pin : Fin 4) (falling : Bool) (stamp : Nat) (s : State) (ecc : WordErr) (h0 : Shaped
    s) :
    ∃ s', execTriginEdge pin falling stamp s ecc = .next s' ∧ Shaped s' := by
  refine ⟨_, rfl, ?_⟩
  repeat'
    first
    | with_reducible assumption | with_reducible apply shaped_readStamp | with_reducible apply shaped_trigEdge
    | dsimp only

end Sys2Proof.Machine
end

