-- ==== Sys2Proof/Laws/ShapeStatus.lean ====
section
/-!
SUPPORT. Every operation of Machine/Status.lean keeps the lengths of the lists of fixed size (Shaped).
-/
set_option linter.all false

namespace Sys2Proof.Machine

theorem shaped_setPower (s : State) (st : PowerState) (h0 : Shaped s) :
    Shaped (setPower s st) := by
  unfold setPower
  repeat'
    first
    | with_reducible assumption | with_reducible apply shaped_evtIf | with_reducible apply Shaped.set_pwr

theorem shaped_takeStatus (s : State) (p : Path) (h0 : Shaped s) :
    Shaped (takeStatus s p) := by
  unfold takeStatus
  repeat'
    first
    | with_reducible assumption | with_reducible intro _ | with_reducible apply shaped_onPath | dsimp only

end Sys2Proof.Machine
end

