-- ==== Sys2Proof/Laws/ShapeTwin.lean ====
section
/-!
SUPPORT. Every operation of Machine/Twin.lean keeps the lengths of the lists of fixed size (Shaped).
-/
set_option linter.all false

namespace Sys2Proof.Machine

theorem shaped_onTwin (s : State) (f : TwinState → TwinState) (h0 : Shaped s) :
    Shaped (onTwin s f) := by
  unfold onTwin
  repeat'
    first
    | with_reducible assumption | with_reducible apply Shaped.set_twin

theorem shaped_pairingRetry (s : State) (l : List Word) (nonce : BitVec 128) (answer : List Word) (h0 : Shaped s) :
    Shaped (pairingRetry s l nonce answer) := by
  unfold pairingRetry
  dsimp only
  repeat'
    first
    | with_reducible assumption | with_reducible intro _ | with_reducible apply shaped_ite
    | with_reducible apply shaped_sendTwin | with_reducible apply shaped_drawn
    | with_reducible apply shaped_onTwin | with_reducible apply shaped_refuse | dsimp only

theorem shaped_execPairingRetry (remote : List Word) (nonce : BitVec 128) (s : State) (answer : List Word) (h0 :
    Shaped s) :
    ∃ s', execPairingRetry remote nonce s answer = .next s' ∧ Shaped s' := by
  refine ⟨_, rfl, ?_⟩
  repeat'
    first
    | with_reducible assumption | with_reducible intro _ | with_reducible apply shaped_when
    | with_reducible apply shaped_pairingRetry | dsimp only

theorem shaped_pairUp (s : State) (h0 : Shaped s) :
    Shaped (pairUp s) := by
  unfold pairUp
  dsimp only
  repeat'
    first
    | with_reducible assumption | with_reducible intro _ | with_reducible apply shaped_ite
    | with_reducible apply shaped_evt | with_reducible apply shaped_onTwin | with_reducible apply shaped_wr
    | with_reducible apply shaped_sendTwin | dsimp only

theorem shaped_heartbeatSend (s : State) (h0 : Shaped s) :
    Shaped (heartbeatSend s) := by
  unfold heartbeatSend
  dsimp only
  repeat'
    first
    | with_reducible assumption | with_reducible intro _ | with_reducible apply shaped_ite
    | with_reducible apply shaped_wr | with_reducible apply shaped_onTwin
    | with_reducible apply shaped_sendRing | with_reducible apply shaped_sendTwin | dsimp only

theorem shaped_execHeartbeatSend (s : State) (h0 : Shaped s) :
    ∃ s', execHeartbeatSend s = .next s' ∧ Shaped s' := by
  refine ⟨_, rfl, ?_⟩
  repeat'
    first
    | with_reducible assumption | with_reducible intro _ | with_reducible apply shaped_when
    | with_reducible apply shaped_heartbeatSend

theorem shaped_heartbeatHeard (s : State) (w : Word) (h0 : Shaped s) :
    Shaped (heartbeatHeard s w) := by
  unfold heartbeatHeard
  dsimp only
  repeat'
    first
    | with_reducible assumption | with_reducible intro _ | with_reducible apply shaped_ite
    | with_reducible apply shaped_bumpSat | with_reducible apply shaped_wr | with_reducible apply shaped_onTwin
    | split | dsimp only

theorem shaped_takeAlone (s : State) (n : Nat) (h0 : Shaped s) :
    Shaped (takeAlone s n) := by
  unfold takeAlone
  repeat'
    first
    | with_reducible assumption | with_reducible intro _ | with_reducible apply shaped_onTwin | dsimp only

theorem shaped_arbAct (s : State) (level : Bool) (n : Nat) (h0 : Shaped s) :
    Shaped (arbAct s level n) := by
  unfold arbAct
  dsimp only
  repeat'
    first
    | with_reducible assumption | with_reducible intro _ | with_reducible apply shaped_ite
    | with_reducible apply shaped_onTwin | with_reducible apply shaped_sendTwin
    | with_reducible apply shaped_evtIf | with_reducible apply shaped_takeAlone | dsimp only

theorem shaped_arbChange (s : State) (level : Bool) (h0 : Shaped s) :
    Shaped (arbChange s level) := by
  unfold arbChange
  dsimp only
  repeat'
    first
    | with_reducible assumption | with_reducible apply shaped_ite | with_reducible apply shaped_arbAct
    | with_reducible apply Shaped.set_pins | dsimp only

theorem shaped_arbAgain (s : State) (h0 : Shaped s) :
    Shaped (arbAgain s) := by
  unfold arbAgain
  repeat'
    first
    | with_reducible assumption | with_reducible apply shaped_ite | with_reducible apply shaped_arbAct

theorem shaped_handoverHeard (s : State) (m : HandoverMsg) (h0 : Shaped s) :
    Shaped (handoverHeard s m) := by
  unfold handoverHeard
  repeat'
    first
    | with_reducible assumption | with_reducible intro _ | with_reducible apply shaped_ite
    | with_reducible apply shaped_onTwin | dsimp only

theorem shaped_execHandoverFrame (m : HandoverMsg) (s : State) (h0 : Shaped s) :
    ∃ s', execHandoverFrame m s = .next s' ∧ Shaped s' := by
  refine ⟨_, rfl, ?_⟩
  repeat'
    first
    | with_reducible assumption | with_reducible apply shaped_handoverHeard

theorem shaped_moveExcitation (s : State) (n : Nat) (h0 : Shaped s) :
    Shaped (moveExcitation s n) := by
  unfold moveExcitation
  dsimp only
  repeat'
    first
    | with_reducible assumption | with_reducible intro _ | with_reducible apply shaped_ite
    | with_reducible apply shaped_foldl | with_reducible apply shaped_excChange
    | with_reducible apply shaped_onInput | dsimp only

theorem shaped_handoverDone (s : State) (h : Handover) (h0 : Shaped s) :
    Shaped (handoverDone s h) := by
  unfold handoverDone
  dsimp only
  repeat'
    first
    | with_reducible assumption | with_reducible intro _ | with_reducible apply shaped_wr64
    | with_reducible apply shaped_evt | with_reducible apply shaped_bumpSat
    | with_reducible apply shaped_moveExcitation | with_reducible apply shaped_arbAgain
    | with_reducible apply shaped_onTwin | dsimp only

theorem shaped_handoverRelease (s : State) (h : Handover) (k : Nat) (h0 : Shaped s) :
    Shaped (handoverRelease s h k) := by
  unfold handoverRelease
  dsimp only
  repeat'
    first
    | with_reducible assumption | with_reducible intro _ | with_reducible apply shaped_ite
    | with_reducible apply shaped_foldl | with_reducible apply shaped_onGc
    | with_reducible apply shaped_releaseSlots | with_reducible apply shaped_onTwin
    | with_reducible apply shaped_setPower | with_reducible apply shaped_handoverDone | dsimp only

theorem shaped_execHandoverRelease (k : Fin 12) (s : State) (h0 : Shaped s) :
    ∃ s', execHandoverRelease k s = .next s' ∧ Shaped s' := by
  refine ⟨_, rfl, ?_⟩
  repeat'
    first
    | with_reducible assumption | with_reducible apply shaped_ite | with_reducible apply shaped_handoverRelease
    | split

theorem shaped_takeSlot (s : State) (h : Handover) (r : Nat) (h0 : Shaped s) :
    Shaped (takeSlot s h r) := by
  unfold takeSlot
  dsimp only
  repeat'
    first
    | with_reducible assumption | with_reducible intro _ | with_reducible apply shaped_ite
    | with_reducible apply shaped_onSlot | with_reducible apply shaped_applyReaction
    | with_reducible apply shaped_faultSrc | with_reducible apply shaped_evt
    | with_reducible apply shaped_setLegs | with_reducible apply shaped_enterRun | split | dsimp only

theorem shaped_handoverTake (s : State) (h : Handover) (k : Nat) (h0 : Shaped s) :
    Shaped (handoverTake s h k) := by
  unfold handoverTake
  dsimp only
  repeat'
    first
    | with_reducible assumption | with_reducible intro _ | with_reducible apply shaped_ite
    | with_reducible apply shaped_foldl | with_reducible apply shaped_takeSlot
    | with_reducible apply shaped_onTwin | with_reducible apply shaped_syncSlot
    | with_reducible apply shaped_setPower | with_reducible apply shaped_handoverDone
    | with_reducible apply shaped_takeSlots | dsimp only

theorem shaped_execHandoverTake (k : Fin 12) (s : State) (h0 : Shaped s) :
    ∃ s', execHandoverTake k s = .next s' ∧ Shaped s' := by
  refine ⟨_, rfl, ?_⟩
  repeat'
    first
    | with_reducible assumption | with_reducible apply shaped_ite | with_reducible apply shaped_handoverTake
    | split

theorem shaped_execArbMismatch (s : State) (h0 : Shaped s) :
    ∃ s', execArbMismatch s = .next s' ∧ Shaped s' := by
  refine ⟨_, rfl, ?_⟩
  repeat'
    first
    | with_reducible assumption | with_reducible intro _ | with_reducible apply shaped_when
    | with_reducible apply shaped_evt | dsimp only

theorem shaped_partnerLost (s : State) (h0 : Shaped s) :
    Shaped (partnerLost s) := by
  unfold partnerLost
  dsimp only
  repeat'
    first
    | with_reducible assumption | with_reducible intro _ | with_reducible apply shaped_ite
    | with_reducible apply shaped_bumpSat | with_reducible apply shaped_evt
    | with_reducible apply shaped_onTwin | with_reducible apply shaped_takeAlone
    | (with_reducible refine Shaped.set_streams ?_ (fun hb => by simpa using hb.streams)) | dsimp only

theorem shaped_execMirrorFrameSend (k : Fin 12) (s : State) (h0 : Shaped s) :
    ∃ s', execMirrorFrameSend k s = .next s' ∧ Shaped s' := by
  refine ⟨_, rfl, ?_⟩
  repeat'
    first
    | with_reducible assumption | with_reducible intro _ | with_reducible apply shaped_ite
    | with_reducible apply shaped_when | with_reducible apply shaped_sendTwin | dsimp only

theorem shaped_mirrorHeard (s : State) (m : MirrorMsg) (h0 : Shaped s) :
    Shaped (mirrorHeard s m) := by
  unfold mirrorHeard
  repeat'
    first
    | with_reducible assumption | with_reducible intro _ | with_reducible apply shaped_ite
    | with_reducible apply shaped_onEng | with_reducible apply shaped_onTwin | dsimp only

theorem shaped_execMirrorFrame (m : MirrorMsg) (s : State) (h0 : Shaped s) :
    ∃ s', execMirrorFrame m s = .next s' ∧ Shaped s' := by
  refine ⟨_, rfl, ?_⟩
  repeat'
    first
    | with_reducible assumption | with_reducible apply shaped_mirrorHeard

theorem shaped_positionsHeard (s : State) (l : List StreamPos) (h0 : Shaped s) :
    Shaped (positionsHeard s l) := by
  unfold positionsHeard
  repeat'
    first
    | with_reducible assumption | with_reducible intro _ | with_reducible apply shaped_foldl
    | with_reducible apply shaped_joinStream | with_reducible apply shaped_onTwin | dsimp only

theorem shaped_snapshotHeard (s : State) (m : SnapshotMsg) (h0 : Shaped s) :
    Shaped (snapshotHeard s m) := by
  unfold snapshotHeard
  dsimp only
  repeat'
    first
    | with_reducible assumption | with_reducible intro _ | with_reducible apply shaped_ite
    | with_reducible apply shaped_positionsHeard | with_reducible apply shaped_wr
    | with_reducible apply shaped_evt | with_reducible apply shaped_onTwin
    | (with_reducible refine Shaped.set_engines ?_ (fun hb => by simpa using hb.engines)) | dsimp only

theorem shaped_execSnapshot (m : SnapshotMsg) (s : State) (h0 : Shaped s) :
    ∃ s', execSnapshot m s = .next s' ∧ Shaped s' := by
  refine ⟨_, rfl, ?_⟩
  repeat'
    first
    | with_reducible assumption | with_reducible apply shaped_snapshotHeard

theorem shaped_twinAckHeard (s : State) (m : AckMsg) (h0 : Shaped s) :
    Shaped (twinAckHeard s m) := by
  unfold twinAckHeard
  repeat'
    first
    | with_reducible assumption | with_reducible apply shaped_ite | with_reducible apply shaped_ackStream

theorem shaped_setRelease (s : State) (b : Bool) (h0 : Shaped s) :
    Shaped (setRelease s b) := by
  unfold setRelease
  repeat'
    first
    | with_reducible assumption | with_reducible intro _ | with_reducible apply shaped_onTwin | dsimp only

theorem shaped_twinCtrl (s : State) (w : Who) (v : Word) (h0 : Shaped s) :
    Shaped (twinCtrl s w v) := by
  unfold twinCtrl
  repeat'
    first
    | with_reducible assumption | with_reducible apply shaped_setRelease | with_reducible apply shaped_refuse
    | split

theorem shaped_execRequestRelease (p : Path) (s : State) (h0 : Shaped s) :
    ∃ s', execRequestRelease p s = .next s' ∧ Shaped s' := by
  refine ⟨_, rfl, ?_⟩
  repeat'
    first
    | with_reducible assumption | with_reducible intro _ | with_reducible apply shaped_gated
    | with_reducible apply shaped_setRelease | dsimp only

theorem shaped_execCancelRelease (p : Path) (s : State) (h0 : Shaped s) :
    ∃ s', execCancelRelease p s = .next s' ∧ Shaped s' := by
  refine ⟨_, rfl, ?_⟩
  repeat'
    first
    | with_reducible assumption | with_reducible intro _ | with_reducible apply shaped_gated
    | with_reducible apply shaped_setRelease | dsimp only

end Sys2Proof.Machine
end

