-- ==== Sys2Proof/Laws/ShapeRing.lean ====
section
/-!
SUPPORT. Every operation of Machine/Ring.lean keeps the lengths of the lists of fixed size (Shaped).
-/
set_option linter.all false

namespace Sys2Proof.Machine

theorem shaped_onRing (s : State) (f : RingState → RingState) (h0 : Shaped s) :
    Shaped (onRing s f) := by
  unfold onRing
  repeat'
    first
    | with_reducible assumption | with_reducible apply Shaped.set_ring

theorem shaped_onAdm (s : State) (f : AdmState → AdmState) (h0 : Shaped s) :
    Shaped (onAdm s f) := by
  unfold onAdm
  repeat'
    first
    | with_reducible assumption | with_reducible apply Shaped.set_adm

theorem shaped_seeGen (s : State) (g : Seq32) (h0 : Shaped s) :
    Shaped (seeGen s g) := by
  unfold seeGen
  repeat'
    first
    | with_reducible assumption | with_reducible intro _ | with_reducible apply shaped_ite
    | with_reducible apply shaped_onRing | dsimp only

theorem shaped_hearNode (s : State) (port : Lane) (b : Beacon) (h0 : Shaped s) :
    Shaped (hearNode s port b) := by
  unfold hearNode
  dsimp only
  repeat'
    first
    | with_reducible assumption | with_reducible intro _ | with_reducible apply shaped_ite
    | with_reducible apply shaped_onRing | dsimp only

theorem shaped_beaconNews (s : State) (b : Beacon) (h0 : Shaped s) :
    Shaped (beaconNews s b) := by
  unfold beaconNews
  dsimp only
  repeat'
    first
    | with_reducible assumption | with_reducible intro _ | with_reducible apply shaped_ite
    | with_reducible apply shaped_seeGen | with_reducible apply shaped_onRing
    | with_reducible apply shaped_evtIf | dsimp only

theorem shaped_execDiscoveryBeacon (port : Lane) (b : Beacon) (s : State) (h0 : Shaped s) :
    ∃ s', execDiscoveryBeacon port b s = .next s' ∧ Shaped s' := by
  refine ⟨_, rfl, ?_⟩
  repeat'
    first
    | with_reducible assumption | with_reducible intro _ | with_reducible apply shaped_when
    | with_reducible apply shaped_beaconNews | with_reducible apply shaped_hearNode | dsimp only

theorem shaped_execDiscoveryBeaconSend (s : State) (h0 : Shaped s) :
    ∃ s', execDiscoveryBeaconSend s = .next s' ∧ Shaped s' := by
  refine ⟨_, rfl, ?_⟩
  repeat'
    first
    | with_reducible assumption | with_reducible intro _ | with_reducible apply shaped_when
    | with_reducible apply shaped_sendBeacon

theorem shaped_mergeReport (s : State) (r : LedgerReport) (h0 : Shaped s) :
    Shaped (mergeReport s r) := by
  unfold mergeReport
  repeat'
    first
    | with_reducible assumption | with_reducible intro _ | with_reducible apply shaped_foldl
    | with_reducible apply shaped_onAdm | dsimp only

theorem shaped_ledgerHeard (s : State) (r : LedgerReport) (h0 : Shaped s) :
    Shaped (ledgerHeard s r) := by
  unfold ledgerHeard
  repeat'
    first
    | with_reducible assumption | with_reducible apply shaped_ite | with_reducible apply shaped_mergeReport

theorem shaped_execLedgerReport (r : LedgerReport) (s : State) (h0 : Shaped s) :
    ∃ s', execLedgerReport r s = .next s' ∧ Shaped s' := by
  refine ⟨_, rfl, ?_⟩
  repeat'
    first
    | with_reducible assumption | with_reducible apply shaped_ledgerHeard

theorem shaped_execLedgerReportSend (s : State) (h0 : Shaped s) :
    ∃ s', execLedgerReportSend s = .next s' ∧ Shaped s' := by
  refine ⟨_, rfl, ?_⟩
  repeat'
    first
    | with_reducible assumption | with_reducible intro _ | with_reducible apply shaped_foldl
    | with_reducible apply shaped_when | with_reducible apply shaped_onRing
    | with_reducible apply shaped_sendRing | dsimp only

theorem shaped_execLedgerRebuilt (s : State) (h0 : Shaped s) :
    ∃ s', execLedgerRebuilt s = .next s' ∧ Shaped s' := by
  refine ⟨_, rfl, ?_⟩
  repeat'
    first
    | with_reducible assumption | with_reducible intro _ | with_reducible apply shaped_foldl
    | with_reducible apply shaped_when | with_reducible apply shaped_evt | with_reducible apply shaped_onAdm
    | with_reducible apply shaped_onRing | with_reducible apply shaped_rootDecide | dsimp only

theorem shaped_fillBucket (s : State) (h0 : Shaped s) :
    Shaped (fillBucket s) := by
  unfold fillBucket
  repeat'
    first
    | with_reducible assumption | with_reducible intro _ | with_reducible apply shaped_onAdm | dsimp only

theorem shaped_takeRoot (s : State) (rebuild : Bool) (h0 : Shaped s) :
    Shaped (takeRoot s rebuild) := by
  unfold takeRoot
  dsimp only
  repeat'
    first
    | with_reducible assumption | with_reducible intro _ | with_reducible apply shaped_ite
    | with_reducible apply shaped_evtIf | with_reducible apply shaped_onRing
    | with_reducible apply shaped_onAdm | with_reducible apply shaped_fillBucket
    | with_reducible apply shaped_mergeReport | with_reducible apply shaped_portsLost | dsimp only

theorem shaped_giveUpRoot (s : State) (r : Nat) (h0 : Shaped s) :
    Shaped (giveUpRoot s r) := by
  unfold giveUpRoot
  dsimp only
  repeat'
    first
    | with_reducible assumption | with_reducible intro _ | with_reducible apply shaped_onRing
    | with_reducible apply shaped_onAdm | with_reducible apply shaped_evt | dsimp only

theorem shaped_holdAddr (s : State) (a : Nat) (h0 : Shaped s) :
    Shaped (holdAddr s a) := by
  unfold holdAddr
  repeat'
    first
    | with_reducible assumption | with_reducible intro _ | with_reducible apply shaped_ite
    | with_reducible apply shaped_evt | with_reducible apply shaped_onRing | dsimp only

theorem shaped_assignAddrs (s : State) (h0 : Shaped s) :
    Shaped (assignAddrs s) := by
  unfold assignAddrs
  dsimp only
  repeat'
    first
    | with_reducible assumption | with_reducible intro _ | with_reducible apply shaped_ite
    | with_reducible apply shaped_foldl | with_reducible apply shaped_onRing
    | with_reducible apply shaped_onAdm | with_reducible apply shaped_holdAddr
    | with_reducible apply shaped_evtIf | with_reducible apply shaped_sendRing | split | dsimp only

theorem shaped_assignmentSend (s : State) (h0 : Shaped s) :
    Shaped (assignmentSend s) := by
  unfold assignmentSend
  repeat'
    first
    | with_reducible assumption | with_reducible apply shaped_ite | with_reducible apply shaped_assignAddrs
    | with_reducible apply shaped_takeRoot

theorem shaped_assignmentHeard (s : State) (a : Assignment) (h0 : Shaped s) :
    Shaped (assignmentHeard s a) := by
  unfold assignmentHeard
  dsimp only
  repeat'
    first
    | with_reducible assumption | with_reducible intro _ | with_reducible apply shaped_ite
    | with_reducible apply shaped_seeGen | with_reducible apply shaped_onRing
    | with_reducible apply shaped_onAdm | with_reducible apply shaped_holdAddr | split | dsimp only

theorem shaped_execRootBeaconSend (s : State) (h0 : Shaped s) :
    ∃ s', execRootBeaconSend s = .next s' ∧ Shaped s' := by
  refine ⟨_, rfl, ?_⟩
  repeat'
    first
    | with_reducible assumption | with_reducible intro _ | with_reducible apply shaped_when
    | with_reducible apply shaped_sendRing | dsimp only

theorem shaped_ringCloses (s : State) (h0 : Shaped s) :
    Shaped (ringCloses s) := by
  unfold ringCloses
  dsimp only
  repeat'
    first
    | with_reducible assumption | with_reducible intro _ | with_reducible apply shaped_ite
    | with_reducible apply shaped_onRing | with_reducible apply shaped_evt | with_reducible apply shaped_onAdm
    | dsimp only

theorem shaped_hearRootCopy (s : State) (port : Lane) (b : RootBeacon) (h0 : Shaped s) :
    Shaped (hearRootCopy s port b) := by
  unfold hearRootCopy
  dsimp only
  repeat'
    first
    | with_reducible assumption | with_reducible intro _ | with_reducible apply shaped_ite
    | with_reducible apply shaped_ringCloses | with_reducible apply shaped_onRing | dsimp only

theorem shaped_rootBeaconNews (s : State) (b : RootBeacon) (h0 : Shaped s) :
    Shaped (rootBeaconNews s b) := by
  unfold rootBeaconNews
  dsimp only
  repeat'
    first
    | with_reducible assumption | with_reducible intro _ | with_reducible apply shaped_ite
    | with_reducible apply shaped_seeGen | with_reducible apply shaped_giveUpRoot
    | with_reducible apply shaped_onRing | with_reducible apply shaped_evtIf
    | with_reducible apply shaped_recoverStreams | dsimp only

theorem shaped_execRootBeacon (port : Lane) (b : RootBeacon) (s : State) (h0 : Shaped s) :
    ∃ s', execRootBeacon port b s = .next s' ∧ Shaped s' := by
  refine ⟨_, rfl, ?_⟩
  repeat'
    first
    | with_reducible assumption | with_reducible intro _ | with_reducible apply shaped_when
    | with_reducible apply shaped_hearRootCopy | with_reducible apply shaped_rootBeaconNews | dsimp only

theorem shaped_execRootLost (s : State) (h0 : Shaped s) :
    ∃ s', execRootLost s = .next s' ∧ Shaped s' := by
  refine ⟨_, rfl, ?_⟩
  repeat'
    first
    | with_reducible assumption | with_reducible intro _ | with_reducible apply shaped_ite
    | with_reducible apply shaped_when | with_reducible apply shaped_onRing
    | with_reducible apply shaped_takeRoot | dsimp only

theorem shaped_rootAlone (s : State) (h0 : Shaped s) :
    Shaped (rootAlone s) := by
  unfold rootAlone
  repeat'
    first
    | with_reducible assumption | with_reducible apply shaped_ite | with_reducible apply shaped_assignAddrs
    | with_reducible apply shaped_takeRoot

theorem shaped_execRingBreak (_port : Lane) (west east : Nat) (multiple : Bool) (s : State) (h0 : Shaped s) :
    ∃ s', execRingBreak _port west east multiple s = .next s' ∧ Shaped s' := by
  refine ⟨_, rfl, ?_⟩
  repeat'
    first
    | with_reducible assumption | with_reducible intro _ | with_reducible apply shaped_onRing
    | with_reducible apply shaped_when | with_reducible apply shaped_evtIf | with_reducible apply shaped_onAdm
    | dsimp only

theorem shaped_execAdmissionRequest (r : AdmRequest) (s : State) (h0 : Shaped s) :
    ∃ s', execAdmissionRequest r s = .next s' ∧ Shaped s' := by
  refine ⟨_, rfl, ?_⟩
  repeat'
    first
    | with_reducible assumption | with_reducible intro _ | with_reducible apply shaped_when
    | with_reducible apply shaped_rootRequest | dsimp only

theorem shaped_execAdmissionRelease (r : AdmRequest) (s : State) (h0 : Shaped s) :
    ∃ s', execAdmissionRelease r s = .next s' ∧ Shaped s' := by
  refine ⟨_, rfl, ?_⟩
  repeat'
    first
    | with_reducible assumption | with_reducible intro _ | with_reducible apply shaped_when
    | with_reducible apply shaped_rootRelease | dsimp only

theorem shaped_admissionHeard (s : State) (r : AdmRequest) (h0 : Shaped s) :
    Shaped (admissionHeard s r) := by
  unfold admissionHeard
  repeat'
    first
    | with_reducible assumption | with_reducible apply shaped_ite | with_reducible apply shaped_rootRelease
    | with_reducible apply shaped_rootRequest

theorem shaped_replyHeard (s : State) (r : AdmReply) (h0 : Shaped s) :
    Shaped (replyHeard s r) := by
  unfold replyHeard
  repeat'
    first
    | with_reducible assumption | with_reducible intro _ | with_reducible apply shaped_ite
    | with_reducible apply shaped_admResult | split | dsimp only

theorem shaped_execAdmissionReply (r : AdmReply) (s : State) (h0 : Shaped s) :
    ∃ s', execAdmissionReply r s = .next s' ∧ Shaped s' := by
  refine ⟨_, rfl, ?_⟩
  repeat'
    first
    | with_reducible assumption | with_reducible apply shaped_replyHeard

theorem shaped_execAdmissionRetry (i : Fin 64) (s : State) (h0 : Shaped s) :
    ∃ s', execAdmissionRetry i s = .next s' ∧ Shaped s' := by
  refine ⟨_, rfl, ?_⟩
  repeat'
    first
    | with_reducible assumption | with_reducible apply shaped_sendAdm | split

theorem shaped_execEnoroot (i : Fin 64) (s : State) (h0 : Shaped s) :
    ∃ s', execEnoroot i s = .next s' ∧ Shaped s' := by
  refine ⟨_, rfl, ?_⟩
  repeat'
    first
    | with_reducible assumption | with_reducible apply shaped_admResult | split

theorem shaped_linkLost (s : State) (l : Lane) (h0 : Shaped s) :
    Shaped (linkLost s l) := by
  unfold linkLost
  dsimp only
  repeat'
    first
    | with_reducible assumption | with_reducible apply shaped_ite | with_reducible apply shaped_linkFall
    | with_reducible apply shaped_portsLost | with_reducible apply shaped_partnerLost | dsimp only

theorem shaped_ringWritten (s0 s : State) (o : Nat) (v : Word) (h0 : Shaped s) :
    Shaped (ringWritten s0 s o v) := by
  unfold ringWritten
  dsimp only
  repeat'
    first
    | with_reducible assumption | with_reducible intro _ | with_reducible apply shaped_ite
    | with_reducible apply shaped_onAdm | with_reducible apply shaped_fillBucket
    | with_reducible apply Shaped.set_addrTable | dsimp only

end Sys2Proof.Machine
end

