-- ==== Sys2Proof/Laws/ShapeReset.lean ====
section
/-!
SUPPORT. Every operation of Machine/Reset.lean keeps the lengths of the lists of fixed size (Shaped).
-/
set_option linter.all false

namespace Sys2Proof.Machine

theorem shaped_onPwr (s : State) (f : PwrState → PwrState) (h0 : Shaped s) :
    Shaped (onPwr s f) := by
  unfold onPwr
  repeat'
    first
    | with_reducible assumption | with_reducible apply Shaped.set_pwr

theorem shaped_onClk (s : State) (f : ClkState → ClkState) (h0 : Shaped s) :
    Shaped (onClk s f) := by
  unfold onClk
  repeat'
    first
    | with_reducible assumption | with_reducible apply Shaped.set_clk

theorem shaped_onRstReq (s : State) (f : RstReq → RstReq) (h0 : Shaped s) :
    Shaped (onRstReq s f) := by
  unfold onRstReq
  repeat'
    first
    | with_reducible assumption | with_reducible intro _ | with_reducible apply shaped_onPwr | dsimp only

theorem shaped_setRail (s : State) (r : Rail) (v : Bool) (h0 : Shaped s) :
    Shaped (setRail s r v) := by
  unfold setRail
  repeat'
    first
    | with_reducible assumption | with_reducible intro _ | with_reducible apply shaped_onPwr | dsimp only

theorem shaped_coldReset (s : State) (c : Nat) (aon : Bool) (st : PowerState) (h0 : Shaped s) :
    Shaped (coldReset s c aon st) := by
  have h := shaped_cmdReset s h0
  unfold coldReset
  constructor <;> first | exact List.length_replicate | rfl | exact h.fuses

theorem shaped_coldAgain (s : State) (c : Nat) (h0 : Shaped s) :
    Shaped (coldAgain s c) := by
  unfold coldAgain
  dsimp only
  repeat'
    first
    | with_reducible assumption | with_reducible apply shaped_ite | with_reducible apply shaped_coldReset
    | dsimp only

theorem shaped_lanesLost (s : State) (h0 : Shaped s) :
    Shaped (lanesLost s) := by
  unfold lanesLost
  repeat'
    first
    | with_reducible assumption | with_reducible intro _ | with_reducible apply shaped_foldl
    | with_reducible apply shaped_linkLost

theorem shaped_seedTime (s : State) (h0 : Shaped s) :
    Shaped (seedTime s) := by
  unfold seedTime
  dsimp only
  repeat'
    first
    | with_reducible assumption | with_reducible intro _ | with_reducible apply shaped_ite
    | with_reducible apply shaped_drawn
    | (with_reducible refine shaped_onTime _ _ (fun t h1 h2 => by simp [h1, h2]) ?_) | split | dsimp only

theorem shaped_requestWarm (s : State) (c : Nat) (lost : Bool) (h0 : Shaped s) :
    Shaped (requestWarm s c lost) := by
  unfold requestWarm
  dsimp only
  repeat'
    first
    | with_reducible assumption | with_reducible intro _ | with_reducible apply shaped_ite
    | with_reducible apply shaped_wr | with_reducible apply shaped_seedTime | with_reducible apply shaped_onPwr
    | dsimp only

theorem shaped_railLost (s : State) (r : Rail) (h0 : Shaped s) :
    Shaped (railLost s r) := by
  unfold railLost
  dsimp only
  repeat'
    first
    | with_reducible assumption | with_reducible apply shaped_ite | with_reducible apply shaped_setRail
    | with_reducible apply shaped_coldReset | with_reducible apply shaped_coldAgain
    | with_reducible apply shaped_requestWarm | with_reducible apply shaped_evt
    | with_reducible apply shaped_lanesLost | split | dsimp only

theorem shaped_execRailLost (r : Rail) (s : State) (h0 : Shaped s) :
    ∃ s', execRailLost r s = .next s' ∧ Shaped s' := by
  refine ⟨_, rfl, ?_⟩
  repeat'
    first
    | with_reducible assumption | with_reducible apply shaped_railLost

theorem shaped_execAnalogRailHoldEnd (r : Rail) (s : State) (h0 : Shaped s) :
    ∃ s', execAnalogRailHoldEnd r s = .next s' ∧ Shaped s' := by
  refine ⟨_, rfl, ?_⟩
  repeat'
    first
    | with_reducible assumption | with_reducible intro _ | with_reducible apply shaped_when
    | with_reducible apply shaped_setRail | dsimp only

theorem shaped_execVdd12lRestored (s : State) (h0 : Shaped s) :
    ∃ s', execVdd12lRestored s = .next s' ∧ Shaped s' := by
  refine ⟨_, rfl, ?_⟩
  repeat'
    first
    | with_reducible assumption | with_reducible intro _ | with_reducible apply shaped_when
    | with_reducible apply shaped_evt | with_reducible apply shaped_setRail | dsimp only

theorem shaped_execVbkApplied (s : State) (h0 : Shaped s) :
    ∃ s', execVbkApplied s = .next s' ∧ Shaped s' := by
  refine ⟨_, rfl, ?_⟩
  repeat'
    first
    | with_reducible assumption | with_reducible intro _ | with_reducible apply shaped_ite
    | with_reducible apply shaped_when | with_reducible apply shaped_setRail
    | with_reducible apply shaped_onPwr | dsimp only

theorem shaped_sampleStraps (s : State) (h0 : Shaped s) :
    Shaped (sampleStraps s) := by
  unfold sampleStraps
  repeat'
    first
    | with_reducible assumption | with_reducible apply Shaped.set_pins

theorem shaped_coldTime (s : State) (h0 : Shaped s) :
    Shaped (coldTime s) := by
  unfold coldTime
  dsimp only
  repeat'
    first
    | with_reducible assumption | with_reducible apply shaped_ite | with_reducible apply shaped_seedTime
    | with_reducible apply shaped_wr | with_reducible apply shaped_drawn | split | dsimp only

theorem shaped_powerGood (s : State) (h0 : Shaped s) :
    Shaped (powerGood s) := by
  unfold powerGood
  dsimp only
  repeat'
    first
    | with_reducible assumption | with_reducible intro _ | with_reducible apply shaped_ite
    | with_reducible apply shaped_sampleStraps | with_reducible apply shaped_onPwr
    | with_reducible apply shaped_coldTime | with_reducible apply shaped_wr
    | with_reducible apply shaped_bumpSat | with_reducible apply shaped_onRstReq
    | with_reducible apply shaped_setPower | dsimp only

theorem shaped_execPowerGood (s : State) (h0 : Shaped s) :
    ∃ s', execPowerGood s = .next s' ∧ Shaped s' := by
  refine ⟨_, rfl, ?_⟩
  repeat'
    first
    | with_reducible assumption | with_reducible intro _ | with_reducible apply shaped_when
    | with_reducible apply shaped_powerGood

theorem shaped_execPwrenTimeout (s : State) (h0 : Shaped s) :
    ∃ s', execPwrenTimeout s = .next s' ∧ Shaped s' := by
  refine ⟨_, rfl, ?_⟩
  repeat'
    first
    | with_reducible assumption | with_reducible intro _ | with_reducible apply shaped_when
    | with_reducible apply shaped_onPwr | dsimp only

theorem shaped_execPwrenRetry (s : State) (h0 : Shaped s) :
    ∃ s', execPwrenRetry s = .next s' ∧ Shaped s' := by
  refine ⟨_, rfl, ?_⟩
  repeat'
    first
    | with_reducible assumption | with_reducible intro _ | with_reducible apply shaped_ite
    | with_reducible apply shaped_when | with_reducible apply shaped_onPwr | dsimp only

theorem shaped_setClk (s : State) (c : Clk) (v : Bool) (h0 : Shaped s) :
    Shaped (setClk s c v) := by
  unfold setClk
  repeat'
    first
    | with_reducible assumption | with_reducible intro _ | with_reducible apply shaped_onClk | split
    | dsimp only

theorem shaped_clockLost (s : State) (c : Clk) (h0 : Shaped s) :
    Shaped (clockLost s c) := by
  unfold clockLost
  dsimp only
  repeat'
    first
    | with_reducible assumption | with_reducible apply shaped_ite | with_reducible apply shaped_setClk
    | with_reducible apply shaped_bumpSat | with_reducible apply shaped_requestWarm | split | dsimp only

theorem shaped_execClockLost (c : Clk) (s : State) (h0 : Shaped s) :
    ∃ s', execClockLost c s = .next s' ∧ Shaped s' := by
  refine ⟨_, rfl, ?_⟩
  repeat'
    first
    | with_reducible assumption | with_reducible apply shaped_clockLost

theorem shaped_execClockRestored (c : Clk) (s : State) (h0 : Shaped s) :
    ∃ s', execClockRestored c s = .next s' ∧ Shaped s' := by
  refine ⟨_, rfl, ?_⟩
  repeat'
    first
    | with_reducible assumption | with_reducible apply shaped_setClk

theorem shaped_refclkLost (s : State) (r : RefLoss) (h0 : Shaped s) :
    Shaped (refclkLost s r) := by
  unfold refclkLost
  repeat'
    first
    | with_reducible assumption | with_reducible intro _ | with_reducible apply shaped_ite
    | with_reducible apply shaped_lanesLost | with_reducible apply shaped_bumpSat
    | with_reducible apply shaped_onClk | with_reducible apply shaped_linkLost | split | dsimp only

theorem shaped_execRefclkLost (r : RefLoss) (s : State) (h0 : Shaped s) :
    ∃ s', execRefclkLost r s = .next s' ∧ Shaped s' := by
  refine ⟨_, rfl, ?_⟩
  repeat'
    first
    | with_reducible assumption | with_reducible apply shaped_refclkLost

theorem shaped_execRefclkRestored (r : RefLoss) (s : State) (h0 : Shaped s) :
    ∃ s', execRefclkRestored r s = .next s' ∧ Shaped s' := by
  refine ⟨_, rfl, ?_⟩
  repeat'
    first
    | with_reducible assumption | with_reducible intro _ | with_reducible apply shaped_onClk | split
    | dsimp only

theorem shaped_execXlpLost (s : State) (h0 : Shaped s) :
    ∃ s', execXlpLost s = .next s' ∧ Shaped s' := by
  refine ⟨_, rfl, ?_⟩
  repeat'
    first
    | with_reducible assumption | with_reducible intro _ | with_reducible apply shaped_when
    | with_reducible apply shaped_onPwr | with_reducible apply shaped_bumpSat
    | with_reducible apply shaped_onClk | dsimp only

theorem shaped_execXlpRestored (s : State) (h0 : Shaped s) :
    ∃ s', execXlpRestored s = .next s' ∧ Shaped s' := by
  refine ⟨_, rfl, ?_⟩
  repeat'
    first
    | with_reducible assumption | with_reducible intro _ | with_reducible apply shaped_onClk | dsimp only

theorem shaped_execNporLow (s : State) (h0 : Shaped s) :
    ∃ s', execNporLow s = .next s' ∧ Shaped s' := by
  refine ⟨_, rfl, ?_⟩
  repeat'
    first
    | with_reducible assumption | with_reducible intro _ | with_reducible apply shaped_ite
    | with_reducible apply shaped_when | with_reducible apply shaped_coldAgain
    | with_reducible apply Shaped.set_pins | dsimp only

theorem shaped_execNporRelease (s : State) (h0 : Shaped s) :
    ∃ s', execNporRelease s = .next s' ∧ Shaped s' := by
  refine ⟨_, rfl, ?_⟩
  repeat'
    first
    | with_reducible assumption | with_reducible intro _ | with_reducible apply shaped_ite
    | with_reducible apply shaped_when | with_reducible apply shaped_sampleStraps
    | with_reducible apply shaped_onPwr | with_reducible apply Shaped.set_pins | dsimp only

theorem shaped_wake (s : State) (h0 : Shaped s) :
    Shaped (wake s) := by
  unfold wake
  repeat'
    first
    | with_reducible assumption | with_reducible intro _ | with_reducible apply shaped_onPwr | dsimp only

theorem shaped_execNwake (s : State) (h0 : Shaped s) :
    ∃ s', execNwake s = .next s' ∧ Shaped s' := by
  refine ⟨_, rfl, ?_⟩
  repeat'
    first
    | with_reducible assumption | with_reducible intro _ | with_reducible apply shaped_when
    | with_reducible apply shaped_wake

theorem shaped_execWakeAt (s : State) (h0 : Shaped s) :
    ∃ s', execWakeAt s = .next s' ∧ Shaped s' := by
  refine ⟨_, rfl, ?_⟩
  repeat'
    first
    | with_reducible assumption | with_reducible intro _ | with_reducible apply shaped_when
    | with_reducible apply shaped_wake | with_reducible apply shaped_onPwr | split | dsimp only

theorem shaped_execNrstreqFall (s : State) (h0 : Shaped s) :
    ∃ s', execNrstreqFall s = .next s' ∧ Shaped s' := by
  refine ⟨_, rfl, ?_⟩
  repeat'
    first
    | with_reducible assumption | with_reducible intro _ | with_reducible apply shaped_ite
    | with_reducible apply shaped_when | with_reducible apply shaped_onRstReq | dsimp only

theorem shaped_execNrstreqHighSample (s : State) (h0 : Shaped s) :
    ∃ s', execNrstreqHighSample s = .next s' ∧ Shaped s' := by
  refine ⟨_, rfl, ?_⟩
  repeat'
    first
    | with_reducible assumption | with_reducible intro _ | with_reducible apply shaped_onRstReq | dsimp only

theorem shaped_execNrstreqDebounced (s : State) (h0 : Shaped s) :
    ∃ s', execNrstreqDebounced s = .next s' ∧ Shaped s' := by
  refine ⟨_, rfl, ?_⟩
  repeat'
    first
    | with_reducible assumption | with_reducible intro _ | with_reducible apply shaped_when
    | with_reducible apply shaped_requestWarm | with_reducible apply shaped_onRstReq | dsimp only

theorem shaped_execRstreqFailed (s : State) (h0 : Shaped s) :
    ∃ s', execRstreqFailed s = .next s' ∧ Shaped s' := by
  refine ⟨_, rfl, ?_⟩
  repeat'
    first
    | with_reducible assumption | with_reducible intro _ | with_reducible apply shaped_when
    | with_reducible apply shaped_evt | with_reducible apply shaped_onRstReq | dsimp only

theorem shaped_execRstreqRecovered (s : State) (h0 : Shaped s) :
    ∃ s', execRstreqRecovered s = .next s' ∧ Shaped s' := by
  refine ⟨_, rfl, ?_⟩
  repeat'
    first
    | with_reducible assumption | with_reducible intro _ | with_reducible apply shaped_when
    | with_reducible apply shaped_evt | with_reducible apply shaped_onRstReq | dsimp only

theorem shaped_execLockstepMismatch (s : State) (h0 : Shaped s) :
    ∃ s', execLockstepMismatch s = .next s' ∧ Shaped s' := by
  refine ⟨_, rfl, ?_⟩
  repeat'
    first
    | with_reducible assumption | with_reducible intro _ | with_reducible apply shaped_when
    | with_reducible apply shaped_requestWarm | with_reducible apply shaped_wr | dsimp only

theorem shaped_execWatchdog (s : State) (h0 : Shaped s) :
    ∃ s', execWatchdog s = .next s' ∧ Shaped s' := by
  refine ⟨_, rfl, ?_⟩
  repeat'
    first
    | with_reducible assumption | with_reducible apply shaped_requestWarm

theorem shaped_execQueueFull (_q : Nat) (s : State) (h0 : Shaped s) :
    ∃ s', execQueueFull _q s = .next s' ∧ Shaped s' := by
  refine ⟨_, rfl, ?_⟩
  repeat'
    first
    | with_reducible assumption | with_reducible intro _ | with_reducible apply shaped_when
    | with_reducible apply shaped_requestWarm | with_reducible apply shaped_wr | dsimp only

theorem shaped_warmTime (s : State) (h0 : Shaped s) :
    Shaped (warmTime s) := by
  unfold warmTime
  dsimp only
  repeat'
    first
    | with_reducible assumption | with_reducible intro _ | with_reducible apply shaped_ite
    | with_reducible apply shaped_seedTime
    | (with_reducible refine shaped_onTime _ _ (fun t h1 h2 => by simp [h1, h2]) ?_) | split | dsimp only

theorem shaped_warmOutputs (s : State) (h0 : Shaped s) :
    Shaped (warmOutputs s) := by
  unfold warmOutputs
  repeat'
    first
    | with_reducible assumption | with_reducible intro _ | with_reducible apply shaped_ite
    | with_reducible apply shaped_releaseOutputs
    | (with_reducible refine Shaped.set_gc_gen ?_ (fun hb => by simp [hb.gc, hb.gen])) | dsimp only

theorem shaped_warmStreams (s : State) (h0 : Shaped s) :
    Shaped (warmStreams s) := by
  unfold warmStreams
  dsimp only
  repeat'
    first
    | with_reducible assumption | with_reducible intro _ | with_reducible apply shaped_ite
    | with_reducible apply shaped_foldl | with_reducible apply shaped_drainEdge
    | with_reducible apply shaped_flushRecs | with_reducible apply shaped_closeQuire
    | with_reducible apply shaped_storeQuire | with_reducible apply shaped_onStrm | dsimp only

theorem shaped_warmHost (s : State) (h0 : Shaped s) :
    Shaped (warmHost s) := by
  unfold warmHost
  repeat'
    first
    | with_reducible assumption | with_reducible intro _
    | (with_reducible refine Shaped.set_host ?_ (fun hb => by simp [hb.host_paths, hb.host_sessions]))
    | dsimp only

theorem shaped_warmLanes (s : State) (h0 : Shaped s) :
    Shaped (warmLanes s) := by
  unfold warmLanes
  repeat'
    first
    | with_reducible assumption | with_reducible intro _ | with_reducible apply shaped_ite
    | (with_reducible refine Shaped.set_lanes_ring_adm ?_ (fun hb => by simpa using hb.lanes)) | dsimp only

theorem shaped_warmReset (s : State) (h0 : Shaped s) :
    Shaped (warmReset s) := by
  unfold warmReset
  dsimp only
  repeat'
    first
    | with_reducible assumption | with_reducible intro _ | with_reducible apply shaped_ite
    | with_reducible apply shaped_wr64 | with_reducible apply shaped_warmOutputs
    | with_reducible apply shaped_captWarm | with_reducible apply shaped_liteWarm
    | with_reducible apply shaped_safeWarm | with_reducible apply shaped_cmdReset
    | with_reducible apply shaped_warmStreams | with_reducible apply shaped_wr
    | with_reducible apply shaped_bumpSat | with_reducible apply shaped_onPwr
    | with_reducible apply shaped_setPower | with_reducible apply shaped_warmLanes
    | with_reducible apply shaped_warmHost | with_reducible apply shaped_warmTime
    | (with_reducible refine Shaped.set_shadow_pages_inputs_hkc_aout_chains_flt_twin_slots_engines_sports ?_ (fun hb
        => by simp only [List.length_replicate, List.length_map, and_self, hb.inputs, hb.aout, hb.chains, hb.slots,
            hb.engines, hb.sports]))
    | with_reducible apply Shaped.set_regs | dsimp only

theorem shaped_execWarmReset (s : State) (h0 : Shaped s) :
    ∃ s', execWarmReset s = .next s' ∧ Shaped s' := by
  refine ⟨_, rfl, ?_⟩
  repeat'
    first
    | with_reducible assumption | with_reducible intro _ | with_reducible apply shaped_when
    | with_reducible apply shaped_warmReset

theorem shaped_execHubReady (s : State) (h0 : Shaped s) :
    ∃ s', execHubReady s = .next s' ∧ Shaped s' := by
  refine ⟨_, rfl, ?_⟩
  repeat'
    first
    | with_reducible assumption | with_reducible intro _ | with_reducible apply shaped_ite
    | with_reducible apply shaped_when
    | (with_reducible refine shaped_onTime _ _ (fun t h1 h2 => by simp [h1, h2]) ?_)
    | with_reducible apply shaped_recoverStreams | with_reducible apply shaped_onPwr | dsimp only

theorem shaped_setWait (s : State) (v : Nat) (h0 : Shaped s) :
    Shaped (setWait s v) := by
  unfold setWait
  repeat'
    first
    | with_reducible assumption | with_reducible apply shaped_wr

theorem shaped_dawnComplete (s : State) (h0 : Shaped s) :
    Shaped (dawnComplete s) := by
  unfold dawnComplete
  repeat'
    first
    | with_reducible assumption | with_reducible intro _ | with_reducible apply shaped_ite
    | with_reducible apply shaped_evt | with_reducible apply shaped_setWait | with_reducible apply shaped_onPwr
    | dsimp only

theorem shaped_dawnDone (s : State) (st : PowerState) (h0 : Shaped s) :
    Shaped (dawnDone s st) := by
  unfold dawnDone
  dsimp only
  repeat'
    first
    | with_reducible assumption | with_reducible intro _ | with_reducible apply shaped_ite
    | with_reducible apply shaped_onTwin | with_reducible apply shaped_setWait
    | with_reducible apply shaped_setPower | with_reducible apply shaped_wr | with_reducible apply shaped_onPwr
    | with_reducible apply shaped_takeOutputs | with_reducible apply shaped_releaseOutputs | dsimp only

theorem shaped_leaveDawn (s : State) (h0 : Shaped s) :
    Shaped (leaveDawn s) := by
  unfold leaveDawn
  dsimp only
  repeat'
    first
    | with_reducible assumption | with_reducible apply shaped_ite | with_reducible apply shaped_evt
    | with_reducible apply shaped_setWait | with_reducible apply shaped_dawnComplete
    | with_reducible apply shaped_dawnDone | dsimp only

theorem shaped_warmMarks (s : State) (n : Nat) (h0 : Shaped s) :
    Shaped (warmMarks s n) := by
  unfold warmMarks
  dsimp only
  repeat'
    first
    | with_reducible assumption | with_reducible intro _ | with_reducible apply shaped_ite
    | with_reducible apply shaped_foldl | with_reducible apply shaped_excChange
    | (with_reducible refine Shaped.set_inputs ?_ (fun hb => by simpa using hb.inputs)) | dsimp only

theorem shaped_resumeAt (s : State) (n : Nat) (h0 : Shaped s) :
    Shaped (resumeAt s n) := by
  unfold resumeAt
  dsimp only
  repeat'
    first
    | with_reducible assumption | with_reducible intro _ | with_reducible apply shaped_ite
    | with_reducible apply shaped_wr64 | with_reducible apply shaped_noteGap
    | with_reducible apply shaped_notSampledAll
    | (with_reducible refine shaped_onTime _ _ (fun t h1 h2 => by simp [h1, h2]) ?_)
    | with_reducible apply shaped_onPwr | with_reducible apply shaped_leaveDawn
    | with_reducible apply shaped_restartChains | with_reducible apply shaped_warmMarks | dsimp only

theorem shaped_execSamplingResumed (s : State) (h0 : Shaped s) :
    ∃ s', execSamplingResumed s = .next s' ∧ Shaped s' := by
  refine ⟨_, rfl, ?_⟩
  repeat'
    first
    | with_reducible assumption | with_reducible intro _ | with_reducible apply shaped_when
    | with_reducible apply shaped_resumeAt | dsimp only

theorem shaped_enterDusk (s : State) (t : Nat) (h0 : Shaped s) :
    Shaped (enterDusk s t) := by
  unfold enterDusk
  dsimp only
  repeat'
    first
    | with_reducible assumption | with_reducible intro _ | with_reducible apply shaped_ite
    | with_reducible apply shaped_foldl | with_reducible apply shaped_onPwr | with_reducible apply shaped_wr
    | with_reducible apply shaped_captDusk | with_reducible apply shaped_setPower
    | with_reducible apply shaped_onTwin | with_reducible apply shaped_closeStream | dsimp only

theorem shaped_powerTarget (s : State) (t : Nat) (h0 : Shaped s) :
    Shaped (powerTarget s t) := by
  unfold powerTarget
  repeat'
    first
    | with_reducible assumption | with_reducible apply shaped_ite | with_reducible apply shaped_enterDusk

theorem shaped_pwrCtrl (s : State) (p : Path) (v : Word) (h0 : Shaped s) :
    Shaped (pwrCtrl s p v) := by
  unfold pwrCtrl
  repeat'
    first
    | with_reducible assumption | with_reducible intro _ | with_reducible apply shaped_hostAct
    | with_reducible apply shaped_powerTarget | dsimp only

theorem shaped_execTargetMidnight (p : Path) (s : State) (h0 : Shaped s) :
    ∃ s', execTargetMidnight p s = .next s' ∧ Shaped s' := by
  refine ⟨_, rfl, ?_⟩
  repeat'
    first
    | with_reducible assumption | with_reducible apply shaped_pwrCtrl

theorem shaped_execTargetRemoval (p : Path) (s : State) (h0 : Shaped s) :
    ∃ s', execTargetRemoval p s = .next s' ∧ Shaped s' := by
  refine ⟨_, rfl, ?_⟩
  repeat'
    first
    | with_reducible assumption | with_reducible apply shaped_pwrCtrl

theorem shaped_execTargetTwilight (p : Path) (s : State) (h0 : Shaped s) :
    ∃ s', execTargetTwilight p s = .next s' ∧ Shaped s' := by
  refine ⟨_, rfl, ?_⟩
  repeat'
    first
    | with_reducible assumption | with_reducible apply shaped_pwrCtrl

theorem shaped_rstCtrl (s : State) (p : Path) (v : Word) (h0 : Shaped s) :
    Shaped (rstCtrl s p v) := by
  unfold rstCtrl
  repeat'
    first
    | with_reducible assumption | with_reducible intro _ | with_reducible apply shaped_hostAct
    | with_reducible apply shaped_requestWarm | dsimp only

theorem shaped_execRstCtrl (p : Path) (v : Word) (s : State) (h0 : Shaped s) :
    ∃ s', execRstCtrl p v s = .next s' ∧ Shaped s' := by
  refine ⟨_, rfl, ?_⟩
  repeat'
    first
    | with_reducible assumption | with_reducible apply shaped_rstCtrl

theorem shaped_enterMidnight (s : State) (removal : Bool) (h0 : Shaped s) :
    Shaped (enterMidnight s removal) := by
  unfold enterMidnight
  dsimp only
  repeat'
    first
    | with_reducible assumption | with_reducible intro _ | with_reducible apply shaped_ite
    | with_reducible apply shaped_coldReset | with_reducible apply shaped_onPwr | dsimp only

theorem shaped_duskOver (s : State) (h0 : Shaped s) :
    Shaped (duskOver s) := by
  unfold duskOver
  dsimp only
  repeat'
    first
    | with_reducible assumption | with_reducible intro _ | with_reducible apply shaped_ite
    | with_reducible apply shaped_evt | with_reducible apply shaped_onPwr | with_reducible apply shaped_wr
    | with_reducible apply shaped_enterMidnight | with_reducible apply shaped_setPower | dsimp only

theorem shaped_execDuskEnd (s : State) (h0 : Shaped s) :
    ∃ s', execDuskEnd s = .next s' ∧ Shaped s' := by
  refine ⟨_, rfl, ?_⟩
  repeat'
    first
    | with_reducible assumption | with_reducible intro _ | with_reducible apply shaped_when
    | with_reducible apply shaped_duskOver

theorem shaped_execDuskLimit (s : State) (h0 : Shaped s) :
    ∃ s', execDuskLimit s = .next s' ∧ Shaped s' := by
  refine ⟨_, rfl, ?_⟩
  repeat'
    first
    | with_reducible assumption | with_reducible intro _ | with_reducible apply shaped_ite
    | with_reducible apply shaped_foldl | with_reducible apply shaped_when
    | with_reducible apply shaped_endSpills | with_reducible apply shaped_duskOver
    | with_reducible apply shaped_onPwr | with_reducible apply shaped_duskCommands | dsimp only

theorem shaped_faultSrcClear (s : State) (mask : Word) (h0 : Shaped s) :
    Shaped (faultSrcClear s mask) := by
  unfold faultSrcClear
  repeat'
    first
    | with_reducible assumption | with_reducible apply shaped_wr

theorem shaped_execFaultSrcClear (p : Path) (mask : Word) (s : State) (h0 : Shaped s) :
    ∃ s', execFaultSrcClear p mask s = .next s' ∧ Shaped s' := by
  refine ⟨_, rfl, ?_⟩
  repeat'
    first
    | with_reducible assumption | with_reducible intro _ | with_reducible apply shaped_gated
    | with_reducible apply shaped_faultSrcClear | dsimp only

theorem shaped_onBall (s : State) (gen : Bool) (b : Nat) (f : Ball → Ball) (h0 : Shaped s) :
    Shaped (onBall s gen b f) := by
  unfold onBall
  repeat'
    first
    | with_reducible assumption | with_reducible apply shaped_ite | with_reducible apply shaped_onGen
    | with_reducible apply shaped_onGc

theorem shaped_execKeeperRelease (gen : Bool) (b : Nat) (s : State) (h0 : Shaped s) :
    ∃ s', execKeeperRelease gen b s = .next s' ∧ Shaped s' := by
  refine ⟨_, rfl, ?_⟩
  repeat'
    first
    | with_reducible assumption | with_reducible intro _ | with_reducible apply shaped_ite
    | with_reducible apply shaped_onBall | dsimp only

theorem shaped_execReleasedNetEdge (gen : Bool) (b : Nat) (s : State) (h0 : Shaped s) :
    ∃ s', execReleasedNetEdge gen b s = .next s' ∧ Shaped s' := by
  refine ⟨_, rfl, ?_⟩
  repeat'
    first
    | with_reducible assumption | with_reducible intro _ | with_reducible apply shaped_ite
    | with_reducible apply shaped_onBall | dsimp only

theorem shaped_execTapInstruction (i : TapInstr) (s : State) (h0 : Shaped s) :
    ∃ s', execTapInstruction i s = .next s' ∧ Shaped s' := by
  refine ⟨_, rfl, ?_⟩
  repeat'
    first
    | with_reducible assumption | with_reducible apply Shaped.set_tap

end Sys2Proof.Machine
end

