-- ==== Sys2Proof/Laws/ShapeViews.lean ====
section
/-!
SUPPORT. Every operation of Machine/Views.lean keeps the lengths of the lists of fixed size (Shaped).
-/
set_option linter.all false

namespace Sys2Proof.Machine

theorem shaped_latchFor (s : State) (p : Path) (b : Blk) (a : Nat) (h0 : Shaped s) :
    Shaped (latchFor s p b a) := by
  unfold latchFor
  repeat'
    first
    | with_reducible assumption | with_reducible intro _ | with_reducible apply shaped_foldl
    | with_reducible apply shaped_onPath | dsimp only

theorem shaped_readEffect (s : State) (a : Nat) (h0 : Shaped s) :
    Shaped (readEffect s a) := by
  unfold readEffect
  repeat'
    first
    | with_reducible assumption | with_reducible apply shaped_ite | with_reducible apply shaped_coefAdvance
    | with_reducible apply shaped_lvlAdvance | with_reducible apply shaped_wr
    | with_reducible apply shaped_polyAdvance

theorem shaped_readChal (s : State) (p : Path) (h0 : Shaped s) :
    Shaped (readChal s p).1 := by
  unfold readChal
  dsimp only
  repeat'
    first
    | with_reducible assumption | with_reducible intro _ | with_reducible apply shaped_chal0Read
    | with_reducible apply shaped_onPath | dsimp only

theorem shaped_readReg (s : State) (p : Path) (a : Nat) (h0 : Shaped s) :
    Shaped (readReg s p a).1 := by
  unfold readReg
  repeat'
    first
    | with_reducible assumption | with_reducible intro _ | with_reducible apply shaped_ite
    | with_reducible apply shaped_ite_fst | with_reducible apply shaped_readChal
    | with_reducible apply shaped_onPath | with_reducible apply shaped_latchFor
    | with_reducible apply shaped_readEffect | split | dsimp only

end Sys2Proof.Machine
end

