-- ==== Sys2Proof/Laws/ShapePages.lean ====
section
/-!
SUPPORT. Every operation of Machine/Pages.lean keeps the lengths of the lists of fixed size (Shaped).
-/
set_option linter.all false

namespace Sys2Proof.Machine

theorem shaped_copyShadows (s : State) (g : Nat) (h0 : Shaped s) :
    Shaped (copyShadows s g) := by
  unfold copyShadows
  repeat'
    first
    | with_reducible assumption | with_reducible intro _ | with_reducible apply shaped_foldl
    | with_reducible apply shaped_wr | with_reducible apply Shaped.set_shadow | dsimp only

theorem shaped_coreServed (s0 s : State) (q : Nat) (h0 : Shaped s) :
    Shaped (coreServed s0 s q) := by
  unfold coreServed
  repeat'
    first
    | with_reducible assumption | with_reducible apply shaped_ite | with_reducible apply shaped_clearBlock

theorem shaped_commitEffects (s0 s : State) (b : Blk) (i n : Nat) (h0 : Shaped s) :
    Shaped (commitEffects s0 s b i n) := by
  unfold commitEffects
  repeat'
    first
    | with_reducible assumption | with_reducible apply shaped_fqCommitted
    | with_reducible apply shaped_coreServed | with_reducible apply shaped_ccCommitted
    | with_reducible apply shaped_fltCommitted | with_reducible apply shaped_timeCommitted
    | with_reducible apply shaped_motCommitted | with_reducible apply shaped_edgeCommitted
    | with_reducible apply shaped_sprtCommitted | with_reducible apply shaped_liteCommitted
    | with_reducible apply shaped_safeCommitted | with_reducible apply shaped_aoutCommitted | split

theorem shaped_applyCommit (s : State) (b : Blk) (i g n : Nat) (late : Bool) (h0 : Shaped s) :
    Shaped (applyCommit s b i g n late) := by
  unfold applyCommit
  dsimp only
  repeat'
    first
    | with_reducible assumption | with_reducible intro _ | with_reducible apply shaped_onPage
    | with_reducible apply shaped_copyShadows | with_reducible apply shaped_commitEffects | dsimp only

theorem shaped_applySoon (s : State) (g : Nat) (h0 : Shaped s) :
    Shaped (applySoon s g) := by
  unfold applySoon
  repeat'
    first
    | with_reducible assumption | with_reducible intro _ | with_reducible apply shaped_applyCommit
    | with_reducible apply shaped_onPage | split | dsimp only

theorem shaped_tickCommits (s : State) (h0 : Shaped s) :
    Shaped (tickCommits s) := by
  unfold tickCommits
  repeat'
    first
    | with_reducible assumption | with_reducible intro _ | with_reducible apply shaped_foldl
    | with_reducible apply shaped_applySoon

theorem shaped_commitSeen (s : State) (g : Nat) (h0 : Shaped s) :
    Shaped (commitSeen s g) := by
  unfold commitSeen
  repeat'
    first
    | with_reducible assumption | with_reducible intro _ | with_reducible apply shaped_onPage | dsimp only

theorem shaped_scheduleCommit (s : State) (b : Blk) (i g : Nat) (h0 : Shaped s) :
    Shaped (scheduleCommit s b i g) := by
  unfold scheduleCommit
  dsimp only
  repeat'
    first
    | with_reducible assumption | with_reducible intro _ | with_reducible apply shaped_onPage
    | with_reducible apply shaped_sprtScheduled | split | dsimp only

theorem shaped_cancelCommit (s : State) (b : Blk) (i g : Nat) (h0 : Shaped s) :
    Shaped (cancelCommit s b i g) := by
  unfold cancelCommit
  dsimp only
  repeat'
    first
    | with_reducible assumption | with_reducible intro _ | with_reducible apply shaped_onPage | split
    | with_reducible apply Shaped.set_flt | with_reducible apply Shaped.set_shadow | dsimp only

theorem shaped_commitWrite (s : State) (b : Blk) (i g cmd : Nat) (h0 : Shaped s) :
    Shaped (commitWrite s b i g cmd) := by
  unfold commitWrite
  repeat'
    first
    | with_reducible assumption | with_reducible intro _ | with_reducible apply shaped_onPage
    | with_reducible apply shaped_commitSeen | with_reducible apply shaped_scheduleCommit
    | with_reducible apply shaped_cancelCommit | split | dsimp only

theorem shaped_scheduledCommit (s : State) (g : Nat) (h0 : Shaped s) :
    Shaped (scheduledCommit s g) := by
  unfold scheduledCommit
  repeat'
    first
    | with_reducible assumption | with_reducible intro _ | with_reducible apply shaped_ite
    | with_reducible apply shaped_refuse | with_reducible apply shaped_onPage
    | with_reducible apply shaped_applyCommit | split | dsimp only

theorem shaped_execScheduledCommit (page : Nat) (s : State) (h0 : Shaped s) :
    ∃ s', execScheduledCommit page s = .next s' ∧ Shaped s' := by
  refine ⟨_, rfl, ?_⟩
  repeat'
    first
    | with_reducible assumption | with_reducible apply shaped_scheduledCommit

theorem shaped_motIdle (s0 s : State) (h0 : Shaped s) :
    Shaped (motIdle s0 s) := by
  unfold motIdle
  dsimp only
  repeat'
    first
    | with_reducible assumption | with_reducible intro _ | with_reducible apply shaped_foldl
    | with_reducible apply shaped_releaseLegs | with_reducible apply shaped_syncGroups
    | (with_reducible refine Shaped.set_slots ?_ (fun hb => by simpa using hb.slots)) | dsimp only

theorem shaped_ringIdle (s : State) (h0 : Shaped s) :
    Shaped (ringIdle s) := by
  unfold ringIdle
  repeat'
    first
    | with_reducible assumption | with_reducible apply Shaped.set_ring_adm

theorem length_resetRange {α : Type} (l : List α) (lo n : Nat) (x : α) : (resetRange l lo n x).length = l.length := by
  unfold resetRange
  induction List.range n generalizing l with
  | nil => rfl
  | cons k t ih => rw [List.foldl_cons, ih, List.length_set]

theorem shaped_blockIdle (s0 s : State) (b : Blk) (i : Nat) (h0 : Shaped s) : Shaped (blockIdle s0 s b i) := by
  unfold blockIdle
  split
  case h_1 => exact Shaped.set_host h0 (fun hb => ⟨hb.host_paths, hb.host_sessions⟩)
  case h_2 =>
    refine Shaped.set_inputs_exc h0 (fun hb => ⟨by rw [length_resetRange, hb.inputs], ?_⟩)
    split
    · rw [List.length_set, hb.exc]
    · exact hb.exc
  case h_3 =>
    refine shaped_coreServed _ _ _ (shaped_ccCommitted _ _ _ (Shaped.set_bands h0 (fun hb => ?_)))
    split
    · rw [length_resetRange, hb.bands]
    · exact hb.bands
  case h_4 => exact shaped_hkcSelect _ _ (Shaped.set_hkc h0)
  case h_5 => exact Shaped.set_aout h0 (fun _ => rfl)
  case h_6 => exact Shaped.set_chains_flt h0 (fun hb => by rw [length_resetRange, hb.chains])
  case h_7 => exact Shaped.set_time h0 (fun hb => ⟨by simp only [List.length_set, hb.time_doms], hb.time_ports⟩)
  case h_8 => exact shaped_linkLost _ _ h0
  case h_9 => exact shaped_ringIdle _ h0
  case h_10 => exact Shaped.set_streams_strmSel h0 (fun _ => List.length_replicate)
  case h_11 => exact Shaped.set_host h0 (fun hb => ⟨by simp only [List.length_map, hb.host_paths], hb.host_sessions⟩)
  case h_12 => exact Shaped.set_reams_captSel h0 (fun _ => List.length_replicate)
  case h_13 => exact shaped_onEng _ _ _ h0
  case h_14 => exact shaped_motIdle _ _ h0
  case h_15 =>
    exact Shaped.set_edges (shaped_edgeCommitted _ _ _ h0) (fun _ => by rw [length_resetRange, h0.edges])
  case h_16 =>
    exact shaped_sprtEnable _ _ _ (Shaped.set_sports h0 (fun hb => by simp only [List.length_set, hb.sports]))
  case h_17 =>
    exact Shaped.set_lites_strobes (shaped_liteWarm _ h0) (fun _ => ⟨List.length_replicate, List.length_replicate⟩)
  case h_18 => exact shaped_abortJob _ h0
  case h_19 => exact Shaped.set_cal h0
  case h_20 => exact shaped_safeWarm _ h0
  case h_21 => exact Shaped.set_twin h0
  case h_22 => exact Shaped.set_time h0 (fun hb => ⟨hb.time_doms, hb.time_ports⟩)
  all_goals exact h0

theorem shaped_blockReset (s : State) (b : Blk) (i g : Nat) (h0 : Shaped s) :
    Shaped (blockReset s b i g) := by
  unfold blockReset
  dsimp only
  repeat'
    first
    | with_reducible assumption | with_reducible intro _ | with_reducible apply shaped_blockIdle
    | with_reducible apply shaped_clearBlock | split | with_reducible apply Shaped.set_regs_shadow_pages
    | dsimp only

theorem shaped_setFreeze (s : State) (p : Path) (g : Nat) (on : Bool) (h0 : Shaped s) :
    Shaped (setFreeze s p g on) := by
  unfold setFreeze
  repeat'
    first
    | with_reducible assumption | with_reducible intro _ | with_reducible apply shaped_ite
    | with_reducible apply shaped_onPage | dsimp only

theorem shaped_setEnable (s : State) (b : Blk) (i g : Nat) (on : Bool) (h0 : Shaped s) :
    Shaped (setEnable s b i g on) := by
  unfold setEnable
  dsimp only
  repeat'
    first
    | with_reducible assumption | with_reducible apply shaped_ite | with_reducible apply shaped_wr
    | with_reducible apply shaped_sprtEnable | split | dsimp only

theorem shaped_ctrlWrite (s : State) (p : Path) (b : Blk) (i g : Nat) (v : Word) (h0 : Shaped s) :
    Shaped (ctrlWrite s p b i g v) := by
  unfold ctrlWrite
  dsimp only
  repeat'
    first
    | with_reducible assumption | with_reducible apply shaped_ite | with_reducible apply shaped_setFreeze
    | with_reducible apply shaped_setEnable | with_reducible apply shaped_blockReset | dsimp only

theorem shaped_errcodeClear (s : State) (g : Nat) (v : Word) (h0 : Shaped s) :
    Shaped (errcodeClear s g v) := by
  unfold errcodeClear
  repeat'
    first
    | with_reducible assumption | with_reducible intro _ | with_reducible apply shaped_ite
    | with_reducible apply shaped_onPage | with_reducible apply shaped_wr | dsimp only

end Sys2Proof.Machine
end

