-- ==== Sys2Proof/Laws/ShapeHostPort.lean ====
section
/-!
SUPPORT. Every operation of Machine/HostPort.lean keeps the lengths of the lists of fixed size (Shaped).
-/
set_option linter.all false

namespace Sys2Proof.Machine

theorem shaped_plainWrite (s : State) (w : Who) (a : Nat) (r : RegRow) (v : Word) (h0 : Shaped s) :
    Shaped (plainWrite s w a r v) := by
  unfold plainWrite
  repeat'
    first
    | with_reducible assumption | with_reducible apply shaped_ite | with_reducible apply shaped_wr | split
    | with_reducible apply Shaped.set_shadow

theorem shaped_motCtrl (s : State) (w : Who) (v : Word) (h0 : Shaped s) :
    Shaped (motCtrl s w v) := by
  unfold motCtrl
  repeat'
    first
    | with_reducible assumption | with_reducible apply shaped_motClearFault
    | with_reducible apply shaped_cycleMark | with_reducible apply shaped_refuse | split

theorem shaped_laneWrite (s0 s : State) (i o : Nat) (h0 : Shaped s) :
    Shaped (laneWrite s0 s i o) := by
  unfold laneWrite
  dsimp only
  repeat'
    first
    | with_reducible assumption | with_reducible apply shaped_ite | with_reducible apply shaped_laneWritten
    | with_reducible apply shaped_linkLost | dsimp only

theorem shaped_ringWrite (s0 s : State) (o : Nat) (v : Word) (h0 : Shaped s) :
    Shaped (ringWrite s0 s o v) := by
  unfold ringWrite
  dsimp only
  repeat'
    first
    | with_reducible assumption | with_reducible apply shaped_ite | with_reducible apply shaped_ringWritten
    | with_reducible apply shaped_portsLost | dsimp only

theorem shaped_clearAny (s : State) (a : Nat) (v : Word) (h0 : Shaped s) :
    Shaped (clearAny s a v) := by
  unfold clearAny
  repeat'
    first
    | with_reducible assumption | with_reducible apply shaped_ite | with_reducible apply shaped_wr

theorem shaped_regEffect (s : State) (w : Who) (b : Blk) (i a : Nat) (r : RegRow) (v : Word) (h0 : Shaped s) :
    Shaped (regEffect s w b i a r v) := by
  unfold regEffect
  dsimp only
  repeat'
    first
    | with_reducible assumption | with_reducible intro _ | with_reducible apply shaped_ite
    | with_reducible apply shaped_plainWrite | with_reducible apply shaped_queueClear
    | with_reducible apply shaped_powerTarget | with_reducible apply shaped_requestWarm
    | with_reducible apply shaped_faultSrcClear | with_reducible apply shaped_clearAny
    | with_reducible apply shaped_hostEdges | with_reducible apply shaped_hkcBegin
    | with_reducible apply shaped_hkcSelect | with_reducible apply shaped_onAo
    | with_reducible apply shaped_coefWrite | with_reducible apply shaped_polyWrite
    | with_reducible apply shaped_syncSchedule | with_reducible apply shaped_syncCancel
    | (with_reducible refine shaped_onTime _ _ (fun t h1 h2 => by simp [h1, h2]) ?_)
    | with_reducible apply shaped_laneWrite | with_reducible apply shaped_ringWrite
    | with_reducible apply shaped_strmCtrl | with_reducible apply shaped_strmSelWrite
    | with_reducible apply shaped_hostAck | with_reducible apply shaped_cmdRegWrite
    | with_reducible apply shaped_submitCmd | with_reducible apply shaped_captCtrl
    | with_reducible apply shaped_captSelWrite | with_reducible apply shaped_aeCtrl
    | with_reducible apply shaped_subWrite | with_reducible apply shaped_motCtrl
    | with_reducible apply shaped_edgeCtrl | with_reducible apply shaped_sprtCtrl
    | with_reducible apply shaped_liteCtrl | with_reducible apply shaped_lvlWrite
    | with_reducible apply shaped_strobeCtrl | with_reducible apply shaped_zipCtrl
    | with_reducible apply shaped_calCtrl | with_reducible apply shaped_respWrite
    | with_reducible apply shaped_authWrite | with_reducible apply shaped_safeCtrl
    | with_reducible apply shaped_twinCtrl | split | dsimp only

theorem shaped_writeReg (s : State) (w : Who) (b : Blk) (i a : Nat) (r : RegRow) (v : Word) (h0 : Shaped s) :
    Shaped (writeReg s w b i a r v) := by
  unfold writeReg
  repeat'
    first
    | with_reducible assumption | with_reducible intro _ | with_reducible apply shaped_checked
    | with_reducible apply shaped_entered | with_reducible apply shaped_regEffect | dsimp only

theorem shaped_settleAttn (s : State) (h0 : Shaped s) :
    Shaped (settleAttn s) := by
  unfold settleAttn
  repeat'
    first
    | with_reducible assumption | with_reducible apply shaped_ite
    | (with_reducible refine Shaped.set_host ?_ (fun hb => by simp [hb.host_paths, hb.host_sessions]))

theorem shaped_headerEffect (s : State) (w : Who) (b : Blk) (i g o : Nat) (v : Word) (h0 : Shaped s) :
    Shaped (headerEffect s w b i g o v) := by
  unfold headerEffect
  repeat'
    first
    | with_reducible assumption | with_reducible apply shaped_ite | with_reducible apply shaped_settleAttn
    | with_reducible apply shaped_ctrlWrite | with_reducible apply shaped_setEnable
    | with_reducible apply shaped_wr | with_reducible apply shaped_errcodeClear
    | with_reducible apply shaped_commitWrite | split

theorem shaped_writeHeaderReg (s : State) (w : Who) (b : Blk) (i g o : Nat) (v : Word) (h0 : Shaped s) :
    Shaped (writeHeaderReg s w b i g o v) := by
  unfold writeHeaderReg
  repeat'
    first
    | with_reducible assumption | with_reducible intro _ | with_reducible apply shaped_checked
    | with_reducible apply shaped_entered | with_reducible apply shaped_headerEffect | dsimp only

theorem shaped_winWrite (s : State) (w : Who) (addr : Nat) (x : Win) (v : Word) (h0 : Shaped s) :
    Shaped (winWrite s w addr x v) := by
  unfold winWrite
  repeat'
    first
    | with_reducible assumption | with_reducible apply shaped_ite | with_reducible apply shaped_refuse
    | with_reducible apply shaped_refuseOn | with_reducible apply shaped_engHostWrite
    | with_reducible apply shaped_vatPutWord | split

theorem shaped_readWord (s : State) (p : Path) (a : Nat) (h0 : Shaped s) :
    Shaped (readWord s p a).1 := by
  unfold readWord
  repeat'
    first
    | with_reducible assumption | with_reducible apply shaped_ite | with_reducible apply shaped_ite_fst
    | with_reducible apply shaped_readReg | split

theorem shaped_writeWord (s : State) (w : Who) (a : Nat) (v : Word) (h0 : Shaped s) :
    Shaped (writeWord s w a v) := by
  unfold writeWord
  repeat'
    first
    | with_reducible assumption | with_reducible apply shaped_ite | with_reducible apply shaped_refuse
    | with_reducible apply shaped_writeHeaderReg | with_reducible apply shaped_writeReg
    | with_reducible apply shaped_winWrite | split

theorem shaped_hostWrite (s : State) (p : Path) (a : Nat) (v : Word) (h0 : Shaped s) :
    Shaped (hostWrite s p a v) := by
  unfold hostWrite
  repeat'
    first
    | with_reducible assumption | with_reducible apply shaped_ite | with_reducible apply shaped_writeWord

theorem shaped_hostRead (s : State) (p : Path) (a : Nat) (h0 : Shaped s) :
    Shaped (hostRead s p a) := by
  unfold hostRead
  repeat'
    first
    | with_reducible assumption | with_reducible apply shaped_ite | with_reducible apply shaped_readWord

theorem shaped_readWords  (s : State) (p : Path) (a n : Nat)
    (h0 : Shaped s) : Shaped (readWords s p a n).1 := by
  induction n generalizing s a with
  | zero => exact h0
  | succ n ih => exact ih _ _ (shaped_readWord s p a h0)

theorem shaped_writeWords  (s : State) (p : Path) (a : Nat) (l : List Word)
    (h0 : Shaped s) : Shaped (writeWords s p a l) := by
  induction l generalizing s a with
  | nil => exact h0
  | cons v t ih => exact ih _ _ (shaped_writeWord s (some p) a v h0)

theorem shaped_execRegisterWrite (p : Path) (addr : Nat) (v : Word) (s : State) (h0 : Shaped s) :
    ∃ s', execRegisterWrite p addr v s = .next s' ∧ Shaped s' := by
  refine ⟨_, rfl, ?_⟩
  repeat'
    first
    | with_reducible assumption | with_reducible apply shaped_hostWrite

theorem shaped_execLoRead (p : Path) (addr : Nat) (s : State) (h0 : Shaped s) :
    ∃ s', execLoRead p addr s = .next s' ∧ Shaped s' := by
  refine ⟨_, rfl, ?_⟩
  repeat'
    first
    | with_reducible assumption | with_reducible apply shaped_hostRead

theorem shaped_commitPage (s : State) (p : Path) (page cmd : Nat) (h0 : Shaped s) :
    Shaped (commitPage s p page cmd) := by
  unfold commitPage
  repeat'
    first
    | with_reducible assumption | with_reducible apply shaped_hostWrite

theorem shaped_execCommitApplyNow (p : Path) (page : Nat) (s : State) (h0 : Shaped s) :
    ∃ s', execCommitApplyNow p page s = .next s' ∧ Shaped s' := by
  refine ⟨_, rfl, ?_⟩
  repeat'
    first
    | with_reducible assumption | with_reducible apply shaped_commitPage

theorem shaped_execCommitApplyAt (p : Path) (page : Nat) (s : State) (h0 : Shaped s) :
    ∃ s', execCommitApplyAt p page s = .next s' ∧ Shaped s' := by
  refine ⟨_, rfl, ?_⟩
  repeat'
    first
    | with_reducible assumption | with_reducible apply shaped_commitPage

theorem shaped_execCommitCancel (p : Path) (page : Nat) (s : State) (h0 : Shaped s) :
    ∃ s', execCommitCancel p page s = .next s' ∧ Shaped s' := by
  refine ⟨_, rfl, ?_⟩
  repeat'
    first
    | with_reducible assumption | with_reducible apply shaped_commitPage

theorem shaped_ctrlPage (s : State) (p : Path) (page : Nat) (enable freeze reset : Bool) (h0 : Shaped s) :
    Shaped (ctrlPage s p page enable freeze reset) := by
  unfold ctrlPage
  repeat'
    first
    | with_reducible assumption | with_reducible apply shaped_hostWrite

theorem shaped_execPageEnable (p : Path) (page : Nat) (enable : Bool) (s : State) (h0 : Shaped s) :
    ∃ s', execPageEnable p page enable s = .next s' ∧ Shaped s' := by
  refine ⟨_, rfl, ?_⟩
  repeat'
    first
    | with_reducible assumption | with_reducible apply shaped_ctrlPage

theorem shaped_execBlockReset (p : Path) (page : Nat) (s : State) (h0 : Shaped s) :
    ∃ s', execBlockReset p page s = .next s' ∧ Shaped s' := by
  refine ⟨_, rfl, ?_⟩
  repeat'
    first
    | with_reducible assumption | with_reducible apply shaped_ctrlPage

theorem shaped_execFreeze (p : Path) (page : Nat) (on : Bool) (s : State) (h0 : Shaped s) :
    ∃ s', execFreeze p page on s = .next s' ∧ Shaped s' := by
  refine ⟨_, rfl, ?_⟩
  repeat'
    first
    | with_reducible assumption | with_reducible apply shaped_ctrlPage

theorem shaped_execErrcodeClear (p : Path) (page : Nat) (mask : Word) (s : State) (h0 : Shaped s) :
    ∃ s', execErrcodeClear p page mask s = .next s' ∧ Shaped s' := by
  refine ⟨_, rfl, ?_⟩
  repeat'
    first
    | with_reducible assumption | with_reducible apply shaped_hostWrite

theorem shaped_execCoefDataWrite (p : Path) (v : Word) (s : State) (h0 : Shaped s) :
    ∃ s', execCoefDataWrite p v s = .next s' ∧ Shaped s' := by
  refine ⟨_, rfl, ?_⟩
  repeat'
    first
    | with_reducible assumption | with_reducible apply shaped_hostWrite

theorem shaped_execCoefDataRead (p : Path) (s : State) (h0 : Shaped s) :
    ∃ s', execCoefDataRead p s = .next s' ∧ Shaped s' := by
  refine ⟨_, rfl, ?_⟩
  repeat'
    first
    | with_reducible assumption | with_reducible apply shaped_hostRead

theorem shaped_execPolyDataWrite (p : Path) (page : Nat) (v : Word) (s : State) (h0 : Shaped s) :
    ∃ s', execPolyDataWrite p page v s = .next s' ∧ Shaped s' := by
  refine ⟨_, rfl, ?_⟩
  repeat'
    first
    | with_reducible assumption | with_reducible apply shaped_hostWrite

theorem shaped_execPolyDataRead (p : Path) (page : Nat) (s : State) (h0 : Shaped s) :
    ∃ s', execPolyDataRead p page s = .next s' ∧ Shaped s' := by
  refine ⟨_, rfl, ?_⟩
  repeat'
    first
    | with_reducible assumption | with_reducible apply shaped_hostRead

theorem shaped_execRedMinRead (p : Path) (page : Nat) (c : Fin 8) (s : State) (h0 : Shaped s) :
    ∃ s', execRedMinRead p page c s = .next s' ∧ Shaped s' := by
  refine ⟨_, rfl, ?_⟩
  repeat'
    first
    | with_reducible assumption | with_reducible apply shaped_hostRead

theorem shaped_onHost (s : State) (f : HostState → HostState)
    (hf : ∀ t, t.paths.length = 9 → t.sessions.length = 8 → (f t).paths.length = 9 ∧ (f t).sessions.length = 8)
    (h0 : Shaped s) : Shaped (onHost s f) := by
  unfold onHost
  exact Shaped.set_host h0 (fun hb => hf _ hb.host_paths hb.host_sessions)

theorem shaped_spiStart (s : State) (h0 : Shaped s) :
    Shaped (spiStart s) := by
  unfold spiStart
  repeat'
    first
    | with_reducible assumption | with_reducible intro _
    | (with_reducible refine shaped_onHost _ _ (fun t h1 h2 => by simp [h1, h2]) ?_) | dsimp only

theorem shaped_spiCount (s : State) (h0 : Shaped s) :
    Shaped (spiCount s) := by
  unfold spiCount
  repeat'
    first
    | with_reducible assumption | with_reducible intro _ | with_reducible apply shaped_bumpWrap
    | with_reducible apply shaped_onPath | dsimp only

theorem shaped_spiRefuse (s : State) (a r : Nat) (h0 : Shaped s) :
    Shaped (spiRefuse s a r) := by
  unfold spiRefuse
  repeat'
    first
    | with_reducible assumption | with_reducible apply shaped_refuseOn

theorem shaped_spiCommand (s : State) (a : Nat) (act : State → State) (hact : ∀ x, Shaped x → Shaped (act x)) (h0 :
    Shaped s) :
    Shaped (spiCommand s a act) := by
  unfold spiCommand
  dsimp only
  repeat'
    first
    | with_reducible assumption | with_reducible apply shaped_ite | with_reducible apply shaped_spiStart
    | with_reducible apply shaped_spiRefuse | with_reducible apply shaped_spiCount | with_reducible apply hact
    | dsimp only

theorem shaped_spiSend (s : State) (data : State → State × List Word) (hdata : ∀ x, Shaped x → Shaped (data x).1) (h0
    : Shaped s) :
    Shaped (spiSend s data) := by
  unfold spiSend
  dsimp only
  repeat'
    first
    | with_reducible assumption | with_reducible intro _ | with_reducible apply shaped_takeStatus
    | (with_reducible refine shaped_onHost _ _ (fun t h1 h2 => by simp [h1, h2]) ?_)
    | with_reducible apply hdata | dsimp only

theorem shaped_spiLate (s : State) (a n : Nat) (h0 : Shaped s) :
    Shaped (spiLate s a n) := by
  unfold spiLate
  dsimp only
  repeat'
    first
    | with_reducible assumption | with_reducible intro _ | with_reducible apply shaped_spiRefuse
    | (with_reducible refine shaped_onHost _ _ (fun t h1 h2 => by simp [h1, h2]) ?_)
    | with_reducible apply shaped_takeStatus | dsimp only

theorem shaped_cutWord (s : State) (a : Nat) (cut : Bool) (h0 : Shaped s) :
    Shaped (cutWord s a cut) := by
  unfold cutWord
  repeat'
    first
    | with_reducible assumption | with_reducible apply shaped_ite | with_reducible apply shaped_spiRefuse

theorem shaped_spiRead (s : State) (a n : Nat) (cut : Bool) (period : Nat) (ready : Bool) (h0 : Shaped s) :
    Shaped (spiRead s a n cut period ready) := by
  unfold spiRead
  repeat'
    first
    | with_reducible assumption | with_reducible intro _ | with_reducible apply shaped_ite
    | with_reducible apply shaped_spiCommand | with_reducible apply shaped_cutWord
    | with_reducible apply shaped_spiSend | with_reducible apply shaped_onPath
    | with_reducible apply shaped_spiLate | with_reducible apply shaped_readWords | dsimp only

theorem shaped_execSpiRead (addr count : Nat) (s : State) (cut : Bool) (period : Nat) (ready : Bool) (h0 : Shaped s) :
    ∃ s', execSpiRead addr count s cut period ready = .next s' ∧ Shaped s' := by
  refine ⟨_, rfl, ?_⟩
  repeat'
    first
    | with_reducible assumption | with_reducible apply shaped_spiRead

theorem shaped_spiWrite (s : State) (a : Nat) (l : List Word) (cut : Bool) (h0 : Shaped s) :
    Shaped (spiWrite s a l cut) := by
  unfold spiWrite
  repeat'
    first
    | with_reducible assumption | with_reducible intro _ | with_reducible apply shaped_spiCommand
    | (with_reducible refine shaped_onHost _ _ (fun t h1 h2 => by simp [h1, h2]) ?_)
    | with_reducible apply shaped_cutWord | with_reducible apply shaped_writeWords | dsimp only

theorem shaped_execSpiWrite (addr : Nat) (data : List Word) (cut : Bool) (s : State) (h0 : Shaped s) :
    ∃ s', execSpiWrite addr data cut s = .next s' ∧ Shaped s' := by
  refine ⟨_, rfl, ?_⟩
  repeat'
    first
    | with_reducible assumption | with_reducible apply shaped_spiWrite

theorem shaped_spiReadReq (s : State) (a n : Nat) (cut : Bool) (h0 : Shaped s) :
    Shaped (spiReadReq s a n cut) := by
  unfold spiReadReq
  dsimp only
  repeat'
    first
    | with_reducible assumption | with_reducible intro _ | with_reducible apply shaped_ite
    | with_reducible apply shaped_spiCommand
    | (with_reducible refine shaped_onHost _ _ (fun t h1 h2 => by simp [h1, h2]) ?_)
    | with_reducible apply shaped_cutWord | with_reducible apply shaped_spiRefuse
    | with_reducible apply shaped_readWords | dsimp only

theorem shaped_execSpiReadReq (addr len : Nat) (s : State) (cut : Bool) (h0 : Shaped s) :
    ∃ s', execSpiReadReq addr len s cut = .next s' ∧ Shaped s' := by
  refine ⟨_, rfl, ?_⟩
  repeat'
    first
    | with_reducible assumption | with_reducible apply shaped_spiReadReq

theorem shaped_drawWords  (s : State) (n : Nat)
    (h0 : Shaped s) : Shaped (drawWords s n).1 := by
  induction n generalizing s with
  | zero => exact h0
  | succ n ih => exact ih _ (Shaped.set_freeCtr h0)

theorem shaped_spiFetch (s : State) (n : Nat) (cut : Bool) (h0 : Shaped s) :
    Shaped (spiFetch s n cut) := by
  unfold spiFetch
  dsimp only
  repeat'
    first
    | with_reducible assumption | with_reducible intro _ | with_reducible apply shaped_spiCommand
    | with_reducible apply shaped_cutWord | with_reducible apply shaped_spiSend
    | with_reducible apply shaped_spiRefuse | with_reducible apply shaped_drawWords
    | (with_reducible refine shaped_onHost _ _ (fun t h1 h2 => by simp [h1, h2]) ?_) | split | dsimp only

theorem shaped_execSpiFetch (count : Nat) (s : State) (cut : Bool) (h0 : Shaped s) :
    ∃ s', execSpiFetch count s cut = .next s' ∧ Shaped s' := by
  refine ⟨_, rfl, ?_⟩
  repeat'
    first
    | with_reducible assumption | with_reducible apply shaped_spiFetch

theorem shaped_spiStatus (s : State) (h0 : Shaped s) :
    Shaped (spiStatus s) := by
  unfold spiStatus
  repeat'
    first
    | with_reducible assumption | with_reducible intro _ | with_reducible apply shaped_ite
    | with_reducible apply shaped_spiSend | with_reducible apply shaped_spiCount
    | with_reducible apply shaped_spiStart | dsimp only

theorem shaped_execSpiStatus (s : State) (h0 : Shaped s) :
    ∃ s', execSpiStatus s = .next s' ∧ Shaped s' := by
  refine ⟨_, rfl, ?_⟩
  repeat'
    first
    | with_reducible assumption | with_reducible apply shaped_spiStatus

theorem shaped_resetPort (s : State) (h0 : Shaped s) :
    Shaped (resetPort s) := by
  unfold resetPort
  dsimp only
  repeat'
    first
    | with_reducible assumption | with_reducible intro _ | with_reducible apply shaped_spiCommand
    | with_reducible apply shaped_wr | with_reducible apply shaped_spiCount
    | (with_reducible refine shaped_onHost _ _ (fun t h1 h2 => by simp [h1, h2]) ?_) | dsimp only

theorem shaped_execResetPort (s : State) (h0 : Shaped s) :
    ∃ s', execResetPort s = .next s' ∧ Shaped s' := by
  refine ⟨_, rfl, ?_⟩
  repeat'
    first
    | with_reducible assumption | with_reducible apply shaped_resetPort

theorem shaped_busyEnd (s : State) (h0 : Shaped s) :
    Shaped (busyEnd s) := by
  unfold busyEnd
  repeat'
    first
    | with_reducible assumption | with_reducible intro _ | with_reducible apply shaped_ite
    | (with_reducible refine shaped_onHost _ _ (fun t h1 h2 => by simp [h1, h2]) ?_) | dsimp only

theorem shaped_execBusyEnd (s : State) (h0 : Shaped s) :
    ∃ s', execBusyEnd s = .next s' ∧ Shaped s' := by
  refine ⟨_, rfl, ?_⟩
  repeat'
    first
    | with_reducible assumption | with_reducible apply shaped_busyEnd

theorem shaped_execAttentionPulse (s : State) (h0 : Shaped s) :
    ∃ s', execAttentionPulse s = .next s' ∧ Shaped s' := by
  refine ⟨_, rfl, ?_⟩
  repeat'
    first
    | with_reducible assumption | with_reducible intro _ | with_reducible apply shaped_when
    | (with_reducible refine shaped_onHost _ _ (fun t h1 h2 => by simp [h1, h2]) ?_) | dsimp only

theorem shaped_execAttentionPulseEnd (s : State) (h0 : Shaped s) :
    ∃ s', execAttentionPulseEnd s = .next s' ∧ Shaped s' := by
  refine ⟨_, rfl, ?_⟩
  repeat'
    first
    | with_reducible assumption | with_reducible intro _
    | (with_reducible refine shaped_onHost _ _ (fun t h1 h2 => by simp [h1, h2]) ?_) | dsimp only

theorem shaped_execAttentionRepeat (s : State) (h0 : Shaped s) :
    ∃ s', execAttentionRepeat s = .next s' ∧ Shaped s' := by
  refine ⟨_, rfl, ?_⟩
  repeat'
    first
    | with_reducible assumption | with_reducible intro _ | with_reducible apply shaped_when
    | (with_reducible refine shaped_onHost _ _ (fun t h1 h2 => by simp [h1, h2]) ?_) | dsimp only

theorem shaped_setSession (s : State) (k : Nat) (x : Option Session) (h0 : Shaped s) :
    Shaped (setSession s k x) := by
  unfold setSession
  repeat'
    first
    | with_reducible assumption | with_reducible intro _
    | (with_reducible refine shaped_onHost _ _ (fun t h1 h2 => by simp [h1, h2]) ?_) | dsimp only

theorem shaped_frameRefuse (s : State) (f : AccessFrame) (r : Rej) (h0 : Shaped s) :
    Shaped (frameRefuse s f r) := by
  unfold frameRefuse
  repeat'
    first
    | with_reducible assumption | with_reducible apply shaped_bumpSat | with_reducible apply shaped_refuseOn

theorem shaped_refuseFrame (s : State) (f : AccessFrame) (k : Option (Fin 8)) (r : Rej) (h0 : Shaped s) :
    Shaped (refuseFrame s f k r).1 := by
  unfold refuseFrame
  dsimp only
  repeat'
    first
    | with_reducible assumption | with_reducible apply shaped_frameRefuse
    | with_reducible apply shaped_takeStatus | split | dsimp only

theorem shaped_frameWrites  (s : State) (p : Path) (a : Nat) (l : List Word)
    (h0 : Shaped s) : Shaped (frameWrites s p a l).1 := by
  induction l generalizing s a with
  | nil => exact h0
  | cons v t ih =>
    exact ih _ _ (shaped_writeWord _ (some p) a v (shaped_onPath s p _ h0))

theorem shaped_runFrame (s : State) (f : AccessFrame) (k : Fin 8) (h0 : Shaped s) :
    Shaped (runFrame s f k).1 := by
  unfold runFrame
  dsimp only
  repeat'
    first
    | with_reducible assumption | with_reducible intro _ | with_reducible apply shaped_ite
    | with_reducible apply shaped_ite_fst | with_reducible apply shaped_onPath
    | with_reducible apply shaped_frameWrites | with_reducible apply shaped_takeStatus
    | with_reducible apply shaped_bumpSat | with_reducible apply shaped_readWords | dsimp only

theorem shaped_accessFrame (s : State) (f : AccessFrame) (h0 : Shaped s) :
    Shaped (accessFrame s f).1 := by
  unfold accessFrame
  dsimp only
  repeat'
    first
    | with_reducible assumption | with_reducible intro _ | with_reducible apply shaped_ite
    | with_reducible apply shaped_ite_fst | with_reducible apply shaped_bumpSat
    | with_reducible apply shaped_refuseFrame | with_reducible apply shaped_runFrame
    | with_reducible apply shaped_onPath | with_reducible apply shaped_setSession | split | dsimp only

theorem shaped_accessHeard  (s : State) (f : AccessFrame)
    (h0 : Shaped s) : Shaped (accessHeard s f) := by
  unfold accessHeard
  refine shaped_ite h0 ?_
  have hk := shaped_accessFrame s f h0
  split <;> rename_i he <;> rw [he] at hk
  · exact shaped_sendRing _ _ _ hk
  · exact hk

theorem shaped_execRingRead (f : AccessFrame) (s : State) (h0 : Shaped s) :
    ∃ s', execRingRead f s = .next s' ∧ Shaped s' := by
  refine ⟨_, rfl, ?_⟩
  repeat'
    first
    | with_reducible assumption | with_reducible apply shaped_accessHeard

theorem shaped_execRingWrite (f : AccessFrame) (s : State) (h0 : Shaped s) :
    ∃ s', execRingWrite f s = .next s' ∧ Shaped s' := by
  refine ⟨_, rfl, ?_⟩
  repeat'
    first
    | with_reducible assumption | with_reducible apply shaped_accessHeard

theorem shaped_sessionTimeout (s : State) (k : Fin 8) (h0 : Shaped s) :
    Shaped (sessionTimeout s k) := by
  unfold sessionTimeout
  repeat'
    first
    | with_reducible assumption | with_reducible intro _ | with_reducible apply shaped_ite
    | with_reducible apply shaped_setSession | with_reducible apply shaped_onPath
    | with_reducible apply shaped_lapse | dsimp only

theorem shaped_execSessionTimeout (slot : Fin 8) (s : State) (h0 : Shaped s) :
    ∃ s', execSessionTimeout slot s = .next s' ∧ Shaped s' := by
  refine ⟨_, rfl, ?_⟩
  repeat'
    first
    | with_reducible assumption | with_reducible apply shaped_sessionTimeout

end Sys2Proof.Machine
end

