-- ==== Sys2Proof/Laws/ShapeDawn.lean ====
section
/-!
SUPPORT. Every operation of Machine/Dawn.lean keeps the lengths of the lists of fixed size (Shaped).
-/
set_option linter.all false

namespace Sys2Proof.Machine

theorem shaped_endPhase (s : State) (h0 : Shaped s) :
    Shaped (endPhase s) := by
  unfold endPhase
  dsimp only
  repeat'
    first
    | with_reducible assumption | with_reducible intro _ | with_reducible apply shaped_ite
    | with_reducible apply shaped_wr | with_reducible apply shaped_setWait | with_reducible apply shaped_onPwr
    | dsimp only

theorem shaped_dawnRun {s : State} (n : Nat) (h0 : Shaped s) : Shaped (dawnRun n s) := by
  induction n generalizing s with
  | zero => exact h0
  | succ n ih => exact shaped_ite (ih (shaped_endPhase s h0)) h0

theorem shaped_dawnAdvance (s : State) (h0 : Shaped s) :
    Shaped (dawnAdvance s) := by
  unfold dawnAdvance
  repeat'
    first
    | with_reducible assumption | with_reducible apply shaped_ite | with_reducible apply shaped_leaveDawn
    | with_reducible apply shaped_dawnRun

theorem shaped_bistCores (s : State) (failed : List (Fin 32 × Fin 9)) (h0 : Shaped s) :
    Shaped (bistCores s failed) := by
  unfold bistCores
  dsimp only
  repeat'
    first
    | with_reducible assumption | with_reducible intro _ | with_reducible apply shaped_ite
    | with_reducible apply shaped_foldl | with_reducible apply shaped_retireSlice
    | (with_reducible refine Shaped.set_cores_freeCtr ?_ (fun hb => by simpa using hb.cores)) | dsimp only

theorem shaped_loadCalSet (s : State) (r : List NvRead) (h0 : Shaped s) :
    Shaped (loadCalSet s r) := by
  unfold loadCalSet
  dsimp only
  repeat'
    first
    | with_reducible assumption | with_reducible apply shaped_evtIf | with_reducible apply shaped_countReads
    | with_reducible apply shaped_wr | split | with_reducible apply Shaped.set_inCoefs_cal
    | with_reducible apply Shaped.set_nv | dsimp only

theorem shaped_bistRecal (s : State) (h0 : Shaped s) :
    Shaped (bistRecal s) := by
  unfold bistRecal
  dsimp only
  repeat'
    first
    | with_reducible assumption | with_reducible apply shaped_ite | with_reducible apply shaped_wr
    | with_reducible apply shaped_calStart | with_reducible apply Shaped.set_cal | dsimp only

theorem shaped_bistDone (s : State) (r : BistResult) (h0 : Shaped s) :
    Shaped (bistDone s r) := by
  unfold bistDone
  dsimp only
  repeat'
    first
    | with_reducible assumption | with_reducible intro _ | with_reducible apply shaped_foldl
    | with_reducible apply shaped_wr | with_reducible apply shaped_bistCores
    | with_reducible apply shaped_evtIf | with_reducible apply shaped_onEdge
    | with_reducible apply shaped_endPhase | with_reducible apply shaped_bistRecal
    | with_reducible apply shaped_calUnits | with_reducible apply shaped_calMeasure
    | with_reducible apply shaped_loadCalSet | with_reducible apply Shaped.set_badBands | dsimp only

theorem shaped_execBistDone (r : BistResult) (s : State) (h0 : Shaped s) :
    ∃ s', execBistDone r s = .next s' ∧ Shaped s' := by
  refine ⟨_, rfl, ?_⟩
  repeat'
    first
    | with_reducible assumption | with_reducible intro _ | with_reducible apply shaped_when
    | with_reducible apply shaped_bistDone | dsimp only

theorem shaped_wipe (s : State) (k : Kept) (h0 : Shaped s) :
    Shaped (wipe s k) := by
  unfold wipe
  repeat'
    first
    | with_reducible assumption | with_reducible intro _ | with_reducible apply shaped_ite
    | with_reducible apply Shaped.set_regs_shadow_flt_addrTable_strmSel_captSel_levels | dsimp only

theorem shaped_imagePair (s : State) (a : Nat) (v : Word) (h0 : Shaped s) :
    Shaped (imagePair s a v) := by
  unfold imagePair
  dsimp only
  repeat'
    first
    | with_reducible assumption | with_reducible apply shaped_ite | with_reducible apply shaped_bumpSat
    | with_reducible apply shaped_headerEffect | with_reducible apply shaped_regEffect | split | dsimp only

theorem shaped_loadMemories (s : State) (k : Kept) (m : ReamImage) (h0 : Shaped s) :
    Shaped (loadMemories s k m) := by
  unfold loadMemories
  repeat'
    first
    | with_reducible assumption | with_reducible intro _ | with_reducible apply shaped_foldl
    | (with_reducible refine Shaped.set_flt_addrTable_strmSel_captSel_engines_levels ?_ (fun hb => by simpa using
        hb.engines))
    | dsimp only

theorem shaped_loadEffects (old s0 s : State) (h0 : Shaped s) :
    Shaped (loadEffects old s0 s) := by
  unfold loadEffects
  dsimp only
  repeat'
    first
    | with_reducible assumption | with_reducible intro _ | with_reducible apply shaped_ite
    | with_reducible apply shaped_foldl | with_reducible apply shaped_commitEffects | split
    | (with_reducible refine Shaped.set_slots ?_ (fun hb => by simpa using hb.slots)) | dsimp only

theorem shaped_loadTable (s : State) (m : ReamImage) (h0 : Shaped s) :
    Shaped (loadTable s m) := by
  unfold loadTable
  dsimp only
  repeat'
    first
    | with_reducible assumption | with_reducible apply shaped_ite | with_reducible apply shaped_wr
    | with_reducible apply shaped_vatPutBytes | dsimp only

theorem shaped_loadImage (s : State) (h0 : Shaped s) :
    Shaped (loadImage s) := by
  unfold loadImage
  dsimp only
  repeat'
    first
    | with_reducible assumption | with_reducible intro _ | with_reducible apply shaped_foldl
    | with_reducible apply shaped_wipe | with_reducible apply shaped_loadEffects
    | with_reducible apply shaped_wr | with_reducible apply shaped_loadMemories
    | with_reducible apply shaped_imagePair | with_reducible apply shaped_loadTable | split | dsimp only

theorem shaped_noteFallback (s : State) (h0 : Shaped s) :
    Shaped (noteFallback s) := by
  unfold noteFallback
  repeat'
    first
    | with_reducible assumption | with_reducible apply shaped_wr

theorem shaped_reamLoaded (s : State) (h0 : Shaped s) :
    Shaped (reamLoaded s) := by
  unfold reamLoaded
  dsimp only
  repeat'
    first
    | with_reducible assumption | with_reducible intro _ | with_reducible apply shaped_ite
    | with_reducible apply shaped_clearBlock | with_reducible apply shaped_safeDawn
    | with_reducible apply shaped_noteFallback | with_reducible apply shaped_loadImage
    | with_reducible apply shaped_onPwr | with_reducible apply shaped_dawnAdvance
    | with_reducible apply shaped_endPhase | dsimp only

theorem shaped_readImage (s : State) (r : List NvRead) (h0 : Shaped s) :
    Shaped (readImage s r) := by
  unfold readImage
  dsimp only
  repeat'
    first
    | with_reducible assumption | with_reducible apply shaped_evtIf | with_reducible apply shaped_countReads
    | with_reducible apply Shaped.set_nv | dsimp only

theorem shaped_execReamImageLoaded (s : State) (slot0 slot1 : NvRead) (h0 : Shaped s) :
    ∃ s', execReamImageLoaded s slot0 slot1 = .next s' ∧ Shaped s' := by
  refine ⟨_, rfl, ?_⟩
  repeat'
    first
    | with_reducible assumption | with_reducible intro _ | with_reducible apply shaped_when
    | with_reducible apply shaped_reamLoaded | with_reducible apply shaped_readImage | dsimp only

theorem shaped_execLinkWaitExpiry (s : State) (h0 : Shaped s) :
    ∃ s', execLinkWaitExpiry s = .next s' ∧ Shaped s' := by
  refine ⟨_, rfl, ?_⟩
  repeat'
    first
    | with_reducible assumption | with_reducible intro _ | with_reducible apply shaped_when
    | with_reducible apply shaped_dawnAdvance | with_reducible apply shaped_endPhase | dsimp only

theorem shaped_execDawnStall (cause : Nat) (s : State) (h0 : Shaped s) :
    ∃ s', execDawnStall cause s = .next s' ∧ Shaped s' := by
  refine ⟨_, rfl, ?_⟩
  repeat'
    first
    | with_reducible assumption | with_reducible intro _ | with_reducible apply shaped_when
    | with_reducible apply shaped_evt | with_reducible apply shaped_setWait | dsimp only

theorem shaped_execLinkUp (l : Lane) (s : State) (h0 : Shaped s) :
    ∃ s', execLinkUp l s = .next s' ∧ Shaped s' := by
  refine ⟨_, rfl, ?_⟩
  repeat'
    first
    | with_reducible assumption | with_reducible intro _ | with_reducible apply shaped_when
    | with_reducible apply shaped_dawnAdvance | with_reducible apply shaped_linkRise | dsimp only

theorem shaped_execLinkDown (l : Lane) (s : State) (h0 : Shaped s) :
    ∃ s', execLinkDown l s = .next s' ∧ Shaped s' := by
  refine ⟨_, rfl, ?_⟩
  repeat'
    first
    | with_reducible assumption | with_reducible apply shaped_dawnAdvance
    | with_reducible apply shaped_linkLost

theorem shaped_execAddressAssignmentSend (s : State) (h0 : Shaped s) :
    ∃ s', execAddressAssignmentSend s = .next s' ∧ Shaped s' := by
  refine ⟨_, rfl, ?_⟩
  repeat'
    first
    | with_reducible assumption | with_reducible intro _ | with_reducible apply shaped_when
    | with_reducible apply shaped_dawnAdvance | with_reducible apply shaped_assignmentSend | dsimp only

theorem shaped_execAddressAssignment (a : Assignment) (s : State) (h0 : Shaped s) :
    ∃ s', execAddressAssignment a s = .next s' ∧ Shaped s' := by
  refine ⟨_, rfl, ?_⟩
  repeat'
    first
    | with_reducible assumption | with_reducible intro _ | with_reducible apply shaped_when
    | with_reducible apply shaped_dawnAdvance | with_reducible apply shaped_assignmentHeard | dsimp only

theorem shaped_execRootAlone (s : State) (h0 : Shaped s) :
    ∃ s', execRootAlone s = .next s' ∧ Shaped s' := by
  refine ⟨_, rfl, ?_⟩
  repeat'
    first
    | with_reducible assumption | with_reducible apply shaped_dawnAdvance
    | with_reducible apply shaped_rootAlone

theorem shaped_execSyncMessage (m : SyncMsg) (s : State) (h0 : Shaped s) :
    ∃ s', execSyncMessage m s = .next s' ∧ Shaped s' := by
  refine ⟨_, rfl, ?_⟩
  repeat'
    first
    | with_reducible assumption | with_reducible apply shaped_dawnAdvance
    | with_reducible apply shaped_syncMessage

theorem shaped_execGridStartIndex (s : State) (h0 : Shaped s) :
    ∃ s', execGridStartIndex s = .next s' ∧ Shaped s' := by
  refine ⟨_, rfl, ?_⟩
  repeat'
    first
    | with_reducible assumption | with_reducible apply shaped_ite | with_reducible apply shaped_gridStartIndex
    | with_reducible apply shaped_dawnAdvance | with_reducible apply shaped_warmMarks | dsimp only

theorem shaped_execPaired (s : State) (h0 : Shaped s) :
    ∃ s', execPaired s = .next s' ∧ Shaped s' := by
  refine ⟨_, rfl, ?_⟩
  repeat'
    first
    | with_reducible assumption | with_reducible intro _ | with_reducible apply shaped_when
    | with_reducible apply shaped_dawnAdvance | with_reducible apply shaped_pairUp | dsimp only

theorem shaped_execHeartbeat (w : Word) (s : State) (h0 : Shaped s) :
    ∃ s', execHeartbeat w s = .next s' ∧ Shaped s' := by
  refine ⟨_, rfl, ?_⟩
  repeat'
    first
    | with_reducible assumption | with_reducible apply shaped_dawnAdvance
    | with_reducible apply shaped_heartbeatHeard

theorem shaped_execPartnerLost (s : State) (h0 : Shaped s) :
    ∃ s', execPartnerLost s = .next s' ∧ Shaped s' := by
  refine ⟨_, rfl, ?_⟩
  repeat'
    first
    | with_reducible assumption | with_reducible intro _ | with_reducible apply shaped_when
    | with_reducible apply shaped_dawnAdvance | with_reducible apply shaped_partnerLost | dsimp only

theorem shaped_execArbselChange (level : Bool) (s : State) (h0 : Shaped s) :
    ∃ s', execArbselChange level s = .next s' ∧ Shaped s' := by
  refine ⟨_, rfl, ?_⟩
  repeat'
    first
    | with_reducible assumption | with_reducible apply shaped_dawnAdvance
    | with_reducible apply shaped_arbChange

end Sys2Proof.Machine
end

