-- ==== Sys2Proof/Laws/ShapeFrames.lean ====
section
/-!
SUPPORT. Every operation of Machine/Frames.lean keeps the lengths of the lists of fixed size (Shaped).
-/
set_option linter.all false

namespace Sys2Proof.Machine

theorem shaped_windowTake (s : State) (m : Mac) (use q : Nat) (h0 : Shaped s) :
    Shaped (windowTake s m use q).1 := by
  unfold windowTake
  dsimp only
  repeat'
    first
    | with_reducible assumption | with_reducible intro _ | with_reducible apply shaped_onRing | split
    | dsimp only

theorem shaped_clearWindows (s : State) (m : Mac) (h0 : Shaped s) :
    Shaped (clearWindows s m) := by
  unfold clearWindows
  repeat'
    first
    | with_reducible assumption | with_reducible intro _ | with_reducible apply shaped_onRing | dsimp only

theorem shaped_countDiscard (s : State) (a b : Verdict) (h0 : Shaped s) :
    Shaped (countDiscard s a b) := by
  unfold countDiscard
  repeat'
    first
    | with_reducible assumption | with_reducible apply shaped_ite | with_reducible apply shaped_bumpWrap
    | with_reducible apply shaped_bumpSat

theorem shaped_countUnknown (s : State) (h0 : Shaped s) :
    Shaped (countUnknown s) := by
  unfold countUnknown
  repeat'
    first
    | with_reducible assumption | with_reducible apply shaped_bumpSat

theorem shaped_forwardBody (s : State) (port out : Lane) (b : FrameBody) (h0 : Shaped s) :
    Shaped (forwardBody s port out b).1 := by
  unfold forwardBody
  dsimp only
  repeat'
    first
    | with_reducible assumption | with_reducible apply shaped_drawn | split | dsimp only

theorem shaped_forwardFrame (s : State) (port : Lane) (f : RxFrame) (good : Bool) (h0 : Shaped s) :
    Shaped (forwardFrame s port f good) := by
  unfold forwardFrame
  dsimp only
  repeat'
    first
    | with_reducible assumption | with_reducible apply shaped_ite | with_reducible apply shaped_forwardBody
    | with_reducible apply shaped_bumpWrap | with_reducible apply shaped_emit | dsimp only

theorem shaped_insertAs (s : State) (f : RxFrame) (h0 : Shaped s) :
    Shaped (insertAs s f) := by
  unfold insertAs
  dsimp only
  repeat'
    first
    | with_reducible assumption | with_reducible intro _ | with_reducible apply shaped_ite
    | with_reducible apply shaped_sendBeacon | with_reducible apply shaped_onRing
    | with_reducible apply shaped_bumpWrap | with_reducible apply shaped_emit | dsimp only

theorem shaped_forwardL3 (s : State) (f : RxFrame) (h0 : Shaped s) :
    Shaped (forwardL3 s f) := by
  unfold forwardL3
  repeat'
    first
    | with_reducible assumption | with_reducible apply shaped_ite | with_reducible apply shaped_bumpWrap
    | with_reducible apply shaped_emit

theorem shaped_everyCopy (s : State) (port : Lane) (b : FrameBody) (h0 : Shaped s) :
    Shaped (everyCopy s port b) := by
  unfold everyCopy
  repeat'
    first
    | with_reducible assumption | with_reducible apply shaped_hearNode
    | with_reducible apply shaped_syncMessage | split

theorem shaped_everyRootCopy (s : State) (port : Lane) (b : FrameBody) (h0 : Shaped s) :
    Shaped (everyRootCopy s port b) := by
  unfold everyRootCopy
  repeat'
    first
    | with_reducible assumption | with_reducible apply shaped_hearRootCopy | split

theorem shaped_localFrame (s : State) (port : Lane) (f : RxFrame) (h0 : Shaped s) :
    Shaped (localFrame s port f) := by
  unfold localFrame
  repeat'
    first
    | with_reducible assumption | with_reducible apply shaped_acknowledgement
    | with_reducible apply shaped_beaconNews | with_reducible apply shaped_assignmentHeard
    | with_reducible apply shaped_admissionHeard | with_reducible apply shaped_replyHeard
    | with_reducible apply shaped_gridStartHeard | with_reducible apply shaped_ledgerHeard
    | with_reducible apply shaped_rootBeaconNews | with_reducible apply shaped_ringTriggered
    | with_reducible apply shaped_safeFrameRx | with_reducible apply shaped_accessHeard
    | with_reducible apply shaped_announceHeard | split

theorem shaped_twinFrame (s : State) (b : FrameBody) (h0 : Shaped s) :
    Shaped (twinFrame s b) := by
  unfold twinFrame
  repeat'
    first
    | with_reducible assumption | with_reducible apply shaped_heartbeatHeard
    | with_reducible apply shaped_mirrorHeard | with_reducible apply shaped_positionsHeard
    | with_reducible apply shaped_twinAckHeard | with_reducible apply shaped_handoverHeard
    | with_reducible apply shaped_snapshotHeard | split

theorem shaped_countRx (s : State) (port : Lane) (ok : Bool) (h0 : Shaped s) :
    Shaped (countRx s port ok) := by
  unfold countRx
  dsimp only
  repeat'
    first
    | with_reducible assumption | with_reducible apply shaped_ite | with_reducible apply shaped_bumpWrap
    | with_reducible apply shaped_evt | with_reducible apply shaped_bumpSat | dsimp only

theorem shaped_taggedFrame (s : State) (port : Lane) (f : RxFrame) (q : Nat) (h0 : Shaped s) :
    Shaped (taggedFrame s port f q) := by
  unfold taggedFrame
  dsimp only
  repeat'
    first
    | with_reducible assumption | with_reducible apply shaped_ite | with_reducible apply shaped_clearWindows
    | with_reducible apply shaped_windowTake | with_reducible apply shaped_countDiscard
    | with_reducible apply shaped_forwardFrame | with_reducible apply shaped_forwardL3
    | with_reducible apply shaped_countUnknown | with_reducible apply shaped_everyCopy
    | with_reducible apply shaped_everyRootCopy | with_reducible apply shaped_localFrame | split | dsimp only

theorem shaped_untaggedFrame (s : State) (port : Lane) (b : FrameBody) (h0 : Shaped s) :
    Shaped (untaggedFrame s port b) := by
  unfold untaggedFrame
  repeat'
    first
    | with_reducible assumption | with_reducible apply shaped_pdelayReq
    | with_reducible apply shaped_pdelayResp | with_reducible apply shaped_countUnknown | split

theorem shaped_badFrame (s : State) (port : Lane) (f : RxFrame) (h0 : Shaped s) :
    Shaped (badFrame s port f) := by
  unfold badFrame
  dsimp only
  repeat'
    first
    | with_reducible assumption | with_reducible apply shaped_ite | with_reducible apply shaped_windowTake
    | with_reducible apply shaped_forwardFrame | split | dsimp only

theorem shaped_ringPortFrame (s : State) (port : Lane) (f : RxFrame) (h0 : Shaped s) :
    Shaped (ringPortFrame s port f) := by
  unfold ringPortFrame
  repeat'
    first
    | with_reducible assumption | with_reducible apply shaped_ite | with_reducible apply shaped_badFrame
    | with_reducible apply shaped_hearRootCopy | with_reducible apply shaped_untaggedFrame
    | with_reducible apply shaped_taggedFrame | split

theorem shaped_ringFrame (s : State) (port : Lane) (f : RxFrame) (h0 : Shaped s) :
    Shaped (ringFrame s port f) := by
  unfold ringFrame
  dsimp only
  repeat'
    first
    | with_reducible assumption | with_reducible apply shaped_ite | with_reducible apply shaped_countRx
    | with_reducible apply shaped_dawnAdvance | with_reducible apply shaped_twinFrame
    | with_reducible apply shaped_ringPortFrame | dsimp only

theorem shaped_execRingFrame (port : Lane) (f : RxFrame) (s : State) (h0 : Shaped s) :
    ∃ s', execRingFrame port f s = .next s' ∧ Shaped s' := by
  refine ⟨_, rfl, ?_⟩
  repeat'
    first
    | with_reducible assumption | with_reducible apply shaped_ringFrame

theorem shaped_l3Ptp (s : State) (f : RxFrame) (h0 : Shaped s) :
    Shaped (l3Ptp s f) := by
  unfold l3Ptp
  dsimp only
  repeat'
    first
    | with_reducible assumption | with_reducible apply shaped_ite | with_reducible apply shaped_discardPtp
    | with_reducible apply shaped_syncMessage | with_reducible apply shaped_followUp
    | with_reducible apply shaped_announceHeard | with_reducible apply shaped_delayReq
    | with_reducible apply shaped_delayResp | split | dsimp only

theorem shaped_hostDrop (s : State) (h0 : Shaped s) :
    Shaped (hostDrop s) := by
  unfold hostDrop
  repeat'
    first
    | with_reducible assumption | with_reducible apply shaped_evt | with_reducible apply shaped_bumpSat

theorem shaped_takeBucket {s : State} {n : Nat} (h0 : Shaped s) : ShapedSome (takeBucket s n) :=
  ShapedSome.ite (ShapedSome.some (shaped_onAdm s _ h0)) (ShapedSome.none)

theorem shaped_meterFrame  (s : State) (f : RxFrame)
    (h0 : Shaped s) : Shaped (meterFrame s f) := by
  unfold meterFrame
  split
  · rename_i t ht
    exact shaped_insertAs _ _ (shaped_takeBucket h0 t ht)
  · exact shaped_hostDrop _ h0

theorem shaped_answerL3 (s : State) (a : AccessFrame) (r : Rej) (h0 : Shaped s) :
    Shaped (answerL3 s a r) := by
  unfold answerL3
  dsimp only
  repeat'
    first
    | with_reducible assumption | with_reducible apply shaped_frameRefuse | with_reducible apply shaped_emitOwn
    | dsimp only

theorem shaped_l3Access (s : State) (f : RxFrame) (a : AccessFrame) (h0 : Shaped s) :
    Shaped (l3Access s f a) := by
  unfold l3Access
  repeat'
    first
    | with_reducible assumption | with_reducible intro _ | with_reducible apply shaped_ite
    | with_reducible apply shaped_accessHeard | with_reducible apply shaped_answerL3
    | with_reducible apply shaped_meterFrame | split | dsimp only

theorem shaped_l3Root (s : State) (f : RxFrame) (h0 : Shaped s) :
    Shaped (l3Root s f) := by
  unfold l3Root
  repeat'
    first
    | with_reducible assumption | with_reducible apply shaped_ite | with_reducible apply shaped_l3Access
    | with_reducible apply shaped_l3Ptp | with_reducible apply shaped_localFrame
    | with_reducible apply shaped_hostDrop | with_reducible apply shaped_meterFrame | split

theorem shaped_l3Frame (s : State) (f : RxFrame) (h0 : Shaped s) :
    Shaped (l3Frame s f) := by
  unfold l3Frame
  dsimp only
  repeat'
    first
    | with_reducible assumption | with_reducible apply shaped_ite | with_reducible apply shaped_countRx
    | with_reducible apply shaped_dawnAdvance | with_reducible apply shaped_l3Root | dsimp only

theorem shaped_execL3Frame (f : RxFrame) (s : State) (h0 : Shaped s) :
    ∃ s', execL3Frame f s = .next s' ∧ Shaped s' := by
  refine ⟨_, rfl, ?_⟩
  repeat'
    first
    | with_reducible assumption | with_reducible apply shaped_l3Frame

end Sys2Proof.Machine
end

