-- ==== Sys2Proof/Laws/ShapeTick.lean ====
section
/-!
SUPPORT. Every operation of Machine/Tick.lean keeps the lengths of the lists of fixed size (Shaped).
-/
set_option linter.all false

namespace Sys2Proof.Machine

theorem shaped_tick (s : State) (h0 : Shaped s) :
    Shaped (tick s) := by
  unfold tick
  repeat'
    first
    | with_reducible assumption | with_reducible intro _ | with_reducible apply shaped_ite
    | with_reducible apply shaped_dawnAdvance | with_reducible apply shaped_tickPrbs
    | with_reducible apply shaped_tickPorts | with_reducible apply shaped_tickEdges
    | with_reducible apply shaped_tickCommits
    | (with_reducible refine shaped_onTime _ _ (fun t h1 h2 => by simp [h1, h2]) ?_) | dsimp only

end Sys2Proof.Machine
end

