-- ==== Sys2Proof/Laws/ShapeStep.lean ====
section
/-!
SUPPORT. Every command keeps the lengths of the lists of fixed size.
-/
set_option linter.all false

namespace Sys2Proof.Machine

/-- Every command keeps the lengths of the lists of fixed size. -/
theorem exec_shaped (c : Instr) (s : State) (h : Shaped s) : ∃ t, exec c s = .next t ∧ Shaped t := by
  cases c with
  | vbkApplied => exact shaped_execVbkApplied s h
  | railLost r => exact shaped_execRailLost r s h
  | analogRailHoldEnd r => exact shaped_execAnalogRailHoldEnd r s h
  | vdd12lRestored => exact shaped_execVdd12lRestored s h
  | powerGood => exact shaped_execPowerGood s h
  | pwrenTimeout => exact shaped_execPwrenTimeout s h
  | pwrenRetry => exact shaped_execPwrenRetry s h
  | clockLost c => exact shaped_execClockLost c s h
  | clockRestored c => exact shaped_execClockRestored c s h
  | refclkLost r => exact shaped_execRefclkLost r s h
  | refclkRestored r => exact shaped_execRefclkRestored r s h
  | nporLow => exact shaped_execNporLow s h
  | nporRelease => exact shaped_execNporRelease s h
  | nwake => exact shaped_execNwake s h
  | wakeAt => exact shaped_execWakeAt s h
  | nrstreqFall => exact shaped_execNrstreqFall s h
  | nrstreqHighSample => exact shaped_execNrstreqHighSample s h
  | nrstreqDebounced => exact shaped_execNrstreqDebounced s h
  | rstreqFailed => exact shaped_execRstreqFailed s h
  | rstreqRecovered => exact shaped_execRstreqRecovered s h
  | lockstepMismatch => exact shaped_execLockstepMismatch s h
  | watchdog => exact shaped_execWatchdog s h
  | queueFull q => exact shaped_execQueueFull q s h
  | warmReset => exact shaped_execWarmReset s h
  | hubReady => exact shaped_execHubReady s h
  | samplingResumed => exact shaped_execSamplingResumed s h
  | rstCtrl p v => exact shaped_execRstCtrl p v s h
  | targetMidnight p => exact shaped_execTargetMidnight p s h
  | targetRemoval p => exact shaped_execTargetRemoval p s h
  | targetTwilight p => exact shaped_execTargetTwilight p s h
  | duskEnd => exact shaped_execDuskEnd s h
  | duskLimit => exact shaped_execDuskLimit s h
  | faultSrcClear p mask => exact shaped_execFaultSrcClear p mask s h
  | keeperRelease gen ball => exact shaped_execKeeperRelease gen ball s h
  | commitApplyNow p page => exact shaped_execCommitApplyNow p page s h
  | commitApplyAt p page => exact shaped_execCommitApplyAt p page s h
  | commitCancel p page => exact shaped_execCommitCancel p page s h
  | scheduledCommit page => exact shaped_execScheduledCommit page s h
  | pageEnable p page enable => exact shaped_execPageEnable p page enable s h
  | blockReset p page => exact shaped_execBlockReset p page s h
  | freeze p page on => exact shaped_execFreeze p page on s h
  | errcodeClear p page mask => exact shaped_execErrcodeClear p page mask s h
  | registerWrite p addr v => exact shaped_execRegisterWrite p addr v s h
  | loRead p addr => exact shaped_execLoRead p addr s h
  | spiRead addr count cut period ready => exact shaped_execSpiRead addr count s cut period ready h
  | spiWrite addr data e => exact shaped_execSpiWrite addr data e s h
  | spiReadReq addr len cut => exact shaped_execSpiReadReq addr len s cut h
  | spiFetch count cut => exact shaped_execSpiFetch count s cut h
  | spiStatus => exact shaped_execSpiStatus s h
  | resetPort => exact shaped_execResetPort s h
  | busyEnd => exact shaped_execBusyEnd s h
  | attentionPulse => exact shaped_execAttentionPulse s h
  | attentionPulseEnd => exact shaped_execAttentionPulseEnd s h
  | attentionRepeat => exact shaped_execAttentionRepeat s h
  | ringRead f => exact shaped_execRingRead f s h
  | ringWrite f => exact shaped_execRingWrite f s h
  | sessionTimeout slot => exact shaped_execSessionTimeout slot s h
  | queueClear p q => exact shaped_execQueueClear p q s h
  | rawRecord ch c => exact shaped_execRawRecord ch c s h
  | rangeStep ch => exact shaped_execRangeStep ch s h
  | breakEnd ch => exact shaped_execBreakEnd ch s h
  | burnOutTest ch moved => exact shaped_execBurnOutTest ch moved s h
  | swapPhase ch => exact shaped_execSwapPhase ch s h
  | excSettleEnd k => exact shaped_execExcSettleEnd k s h
  | excitationFault k f => exact shaped_execExcitationFault k f s h
  | rotationStep core => exact shaped_execRotationStep core s h
  | sliceCalibrationDone core c => exact shaped_execSliceCalibrationDone core c s h
  | bandEdgeLoad ain ecc => exact shaped_execBandEdgeLoad ain s ecc h
  | comparatorCrossing ain upper level => exact shaped_execComparatorCrossing ain upper level s h
  | minHoldEnd slot leg => exact shaped_execMinHoldEnd slot leg s h
  | hkcStart p v => exact shaped_execHkcStart p v s h
  | hkcResult code value => exact shaped_execHkcResult code value s h
  | hkcSupervision ch value agree => exact shaped_execHkcSupervision ch value agree s h
  | dataRead p => exact shaped_execDataRead p s h
  | filteredRecord ch => exact shaped_execFilteredRecord ch s h
  | syncEdge falling stamp ecc => exact shaped_execSyncEdge falling s stamp ecc h
  | syncSchedule p => exact shaped_execSyncSchedule p s h
  | syncCancel p => exact shaped_execSyncCancel p s h
  | syncEffect => exact shaped_execSyncEffect s h
  | coefDataWrite p v => exact shaped_execCoefDataWrite p v s h
  | coefDataRead p => exact shaped_execCoefDataRead p s h
  | polyDataWrite p page v => exact shaped_execPolyDataWrite p page v s h
  | polyDataRead p page => exact shaped_execPolyDataRead p page s h
  | redMinRead p page c => exact shaped_execRedMinRead p page c s h
  | syncMessage m => exact shaped_execSyncMessage m s h
  | followUp domain seq origin corr => exact shaped_execFollowUp domain seq origin corr s h
  | delayReq domain d => exact shaped_execDelayReq domain d s h
  | delayResp domain seq rx corr => exact shaped_execDelayResp domain seq rx s corr h
  | pdelayReq port d => exact shaped_execPdelayReq port d s h
  | pdelayResp port seq corr rx twoStep => exact shaped_execPdelayResp port seq corr rx twoStep s h
  | pdelayRespFollowUp port seq corr => exact shaped_execPdelayRespFollowUp port seq corr s h
  | announce m => exact shaped_execAnnounce m s h
  | announceTimeout domain => exact shaped_execAnnounceTimeout domain s h
  | domainLost => exact shaped_execDomainLost s h
  | holdLimit => exact shaped_execHoldLimit s h
  | rootSyncSend domain => exact shaped_execRootSyncSend domain s h
  | rootAnnounceSend domain => exact shaped_execRootAnnounceSend domain s h
  | domSel p v => exact shaped_execDomSel p v s h
  | coarseRefresh => exact shaped_execCoarseRefresh s h
  | gridStartSend => exact shaped_execGridStartSend s h
  | gridStart m => exact shaped_execGridStart m s h
  | gridStartIndex => exact shaped_execGridStartIndex s h
  | linkUp l => exact shaped_execLinkUp l s h
  | linkDown l => exact shaped_execLinkDown l s h
  | rxWake l => exact shaped_execRxWake l s h
  | prbsInject p l => exact shaped_execPrbsInject p l s h
  | ringFrame port f => exact shaped_execRingFrame port f s h
  | l3Frame f => exact shaped_execL3Frame f s h
  | discoveryBeaconSend => exact shaped_execDiscoveryBeaconSend s h
  | discoveryBeacon port b => exact shaped_execDiscoveryBeacon port b s h
  | addressAssignmentSend => exact shaped_execAddressAssignmentSend s h
  | addressAssignment a => exact shaped_execAddressAssignment a s h
  | rootBeaconSend => exact shaped_execRootBeaconSend s h
  | rootBeacon port b => exact shaped_execRootBeacon port b s h
  | rootLost => exact shaped_execRootLost s h
  | rootAlone => exact shaped_execRootAlone s h
  | ringBreak port westHub eastHub multiple => exact shaped_execRingBreak port westHub eastHub multiple s h
  | admissionRequest r => exact shaped_execAdmissionRequest r s h
  | admissionRelease r => exact shaped_execAdmissionRelease r s h
  | admissionReply r => exact shaped_execAdmissionReply r s h
  | admissionRetry j => exact shaped_execAdmissionRetry j s h
  | enoroot j => exact shaped_execEnoroot j s h
  | ledgerReport r => exact shaped_execLedgerReport r s h
  | ledgerReportSend => exact shaped_execLedgerReportSend s h
  | ledgerRebuilt => exact shaped_execLedgerRebuilt s h
  | openStream p j => exact shaped_execOpenStream p j s h
  | closeStream p j => exact shaped_execCloseStream p j s h
  | clearStream p j => exact shaped_execClearStream p j s h
  | streamStart j => exact shaped_execStreamStart j s h
  | quireStored j errs => exact shaped_execQuireStored j errs s h
  | quireTransmit j errs => exact shaped_execQuireTransmit j s errs h
  | acknowledgement m => exact shaped_execAcknowledgement m s h
  | seqAcked p j a => exact shaped_execSeqAcked p j a s h
  | retxAfter j => exact shaped_execRetxAfter j s h
  | tHoldExpiry j => exact shaped_execTHoldExpiry j s h
  | cmdNop p seq args => exact shaped_execCmdNop p seq args s h
  | cmdTransfer p seq args => exact shaped_execCmdTransfer p seq args s h
  | cmdReamStore p seq args => exact shaped_execCmdReamStore p seq args s h
  | cmdCalStore p seq args => exact shaped_execCmdCalStore p seq args s h
  | cmdFuseWrite p seq args => exact shaped_execCmdFuseWrite p seq args s h
  | cmdZipJob p seq args => exact shaped_execCmdZipJob p seq args s h
  | cmdTableStage p seq args => exact shaped_execCmdTableStage p seq args s h
  | commandExecute => exact shaped_execCommandExecute s h
  | persistentStepDone ok => exact shaped_execPersistentStepDone ok s h
  | transferDone => exact shaped_execTransferDone s h
  | tableStageDone => exact shaped_execTableStageDone s h
  | zipJobDone lost => exact shaped_execZipJobDone s lost h
  | abortJob p => exact shaped_execAbortJob p s h
  | arm p r => exact shaped_execArm p r s h
  | armAt p r => exact shaped_execArmAt p r s h
  | armAtReached r => exact shaped_execArmAtReached r s h
  | disarm p r => exact shaped_execDisarm p r s h
  | reamClear p r => exact shaped_execReamClear p r s h
  | hostTrigger p r => exact shaped_execHostTrigger p r s h
  | triginEdge pin falling stamp ecc => exact shaped_execTriginEdge pin falling stamp s ecc h
  | ringTrigger t => exact shaped_execRingTrigger t s h
  | triggerDecision r => exact shaped_execTriggerDecision r s h
  | autoTrigger r => exact shaped_execAutoTrigger r s h
  | holdoffEnd r => exact shaped_execHoldoffEnd r s h
  | segmentDone r errs => exact shaped_execSegmentDone r s errs h
  | bu k => exact shaped_execBu k s h
  | stageStart k => exact shaped_execStageStart k s h
  | limit k => exact shaped_execLimit k s h
  | sramScrub k addr uncorrectable => exact shaped_execSramScrub k addr uncorrectable s h
  | nopInstruction k => exact shaped_execNopInstruction k s h
  | sli k d imm => exact shaped_execSli k d imm s h
  | slih k d imm => exact shaped_execSlih k d imm s h
  | sadd k d a b => exact shaped_execSadd k d a b s h
  | saddi k d a imm => exact shaped_execSaddi k d a imm s h
  | ssub k d a b => exact shaped_execSsub k d a b s h
  | sand k d a b => exact shaped_execSand k d a b s h
  | sor k d a b => exact shaped_execSor k d a b s h
  | sshl k d a imm => exact shaped_execSshl k d a imm s h
  | sshr k d a imm => exact shaped_execSshr k d a imm s h
  | smul k d a b => exact shaped_execSmul k d a b s h
  | sld k m => exact shaped_execSld k m s h
  | sst k m => exact shaped_execSst k m s h
  | sget k d sel => exact shaped_execSget k d sel s h
  | br k cond a target => exact shaped_execBr k cond a target s h
  | lmask k imm => exact shaped_execLmask k imm s h
  | signal k => exact shaped_execSignal k s h
  | vld k m => exact shaped_execVld k m s h
  | vldr k m => exact shaped_execVldr k m s h
  | vldi k m => exact shaped_execVldi k m s h
  | vldd k d a b st => exact shaped_execVldd k d a b st s h
  | vst k m => exact shaped_execVst k m s h
  | vste k m => exact shaped_execVste k m s h
  | vsplat k d a => exact shaped_execVsplat k d a s h
  | vadd k d a b => exact shaped_execVadd k d a b s h
  | vsub k d a b => exact shaped_execVsub k d a b s h
  | vmul k d a b => exact shaped_execVmul k d a b s h
  | vmac k d a b neg => exact shaped_execVmac k d a b neg s h
  | aclr k d e => exact shaped_execAclr k d e s h
  | vmova k d a => exact shaped_execVmova k d a s h
  | vclamp k d a b c => exact shaped_execVclamp k d a b c s h
  | vneg k d a => exact shaped_execVneg k d a s h
  | vabs k d a => exact shaped_execVabs k d a s h
  | vscl k d a e => exact shaped_execVscl k d a e s h
  | vmov k d a => exact shaped_execVmov k d a s h
  | vbc k d a j => exact shaped_execVbc k d a j s h
  | vcmp k a b cond => exact shaped_execVcmp k a b cond s h
  | vsel k d a b => exact shaped_execVsel k d a b s h
  | vtst k imm => exact shaped_execVtst k imm s h
  | norm k d => exact shaped_execNorm k d s h
  | vtab k d a b c interp => exact shaped_execVtab k d a b c interp s h
  | stop k => exact shaped_execStop k s h
  | illegal k => exact shaped_execIllegal k s h
  | runEngine p k => exact shaped_execRunEngine p k s h
  | haltEngine p k => exact shaped_execHaltEngine p k s h
  | clearFault p k => exact shaped_execClearFault p k s h
  | doorbell p k => exact shaped_execDoorbell p k s h
  | clearStagingList p k => exact shaped_execClearStagingList p k s h
  | slotEnable r => exact shaped_execSlotEnable r s h
  | slotRun r => exact shaped_execSlotRun r s h
  | slotDisable r => exact shaped_execSlotDisable r s h
  | holdTimeout r => exact shaped_execHoldTimeout r s h
  | motClearFault p r => exact shaped_execMotClearFault p r s h
  | cycleMark p r => exact shaped_execCycleMark p r s h
  | rcLost r => exact shaped_execRcLost r s h
  | encEdge ch e => exact shaped_execEncEdge ch e s h
  | intervalTimeout ch => exact shaped_execIntervalTimeout ch s h
  | ssiTransfer ch => exact shaped_execSsiTransfer ch s h
  | ssiTransferDone ch idleHigh bits => exact shaped_execSsiTransferDone ch idleHigh bits s h
  | interpolatorTable ch input hits => exact shaped_execInterpolatorTable ch input s hits h
  | armReference p ch => exact shaped_execArmReference p ch s h
  | loadPreset p ch => exact shaped_execLoadPreset p ch s h
  | clearCounters p ch => exact shaped_execClearCounters p ch s h
  | downlinkFrame p => exact shaped_execDownlinkFrame p s h
  | uplinkFrame p groups rtt => exact shaped_execUplinkFrame p groups s rtt h
  | commandResend p => exact shaped_execCommandResend p s h
  | sendCommand p port => exact shaped_execSendCommand p port s h
  | acceptIdentity p port => exact shaped_execAcceptIdentity p port s h
  | retrain p port => exact shaped_execRetrain p port s h
  | sendNow p x => exact shaped_execSendNow p x s h
  | sendToLatch p x => exact shaped_execSendToLatch p x s h
  | cancelSend p x => exact shaped_execCancelSend p x s h
  | frameStart x refresh => exact shaped_execFrameStart x refresh s h
  | frameDone x => exact shaped_execFrameDone x s h
  | lvlData p w => exact shaped_execLvlData p w s h
  | strobeArm p x => exact shaped_execStrobeArm p x s h
  | strobeDisarm p x => exact shaped_execStrobeDisarm p x s h
  | strobeFire x => exact shaped_execStrobeFire x s h
  | strobeEnd x => exact shaped_execStrobeEnd x s h
  | recalibrate p => exact shaped_execRecalibrate p s h
  | calPeriod => exact shaped_execCalPeriod s h
  | recalibrationDone quads => exact shaped_execRecalibrationDone quads s h
  | chal0Read p => exact shaped_execChal0Read p s h
  | challengeExpiry p => exact shaped_execChallengeExpiry p s h
  | authEnter p => exact shaped_execAuthEnter p s h
  | authLeave p => exact shaped_execAuthLeave p s h
  | svcTimeout p => exact shaped_execSvcTimeout p s h
  | lockoutEnd => exact shaped_execLockoutEnd s h
  | nsconfAsserted => exact shaped_execNsconfAsserted s h
  | nsconfRelease => exact shaped_execNsconfRelease s h
  | safeInput n level => exact shaped_execSafeInput n level s h
  | discrepancy k => exact shaped_execDiscrepancy k s h
  | testPulse k => exact shaped_execTestPulse k s h
  | testPulseEnd k => exact shaped_execTestPulseEnd k s h
  | pulseHoldEnd k => exact shaped_execPulseHoldEnd k s h
  | sfcCycle flowOk cfgOk => exact shaped_execSfcCycle flowOk cfgOk s h
  | sfcSelfTest ok => exact shaped_execSfcSelfTest ok s h
  | lifeSignalLost => exact shaped_execLifeSignalLost s h
  | switchTest x => exact shaped_execSwitchTest x s h
  | switchTestEnd x => exact shaped_execSwitchTestEnd x s h
  | readbackFault x high => exact shaped_execReadbackFault x high s h
  | ss1Expiry x => exact shaped_execSs1Expiry x s h
  | safeframeSend c => exact shaped_execSafeframeSend c s h
  | safeframe c m => exact shaped_execSafeframe c m s h
  | safeframeWatchdog c => exact shaped_execSafeframeWatchdog c s h
  | resetFaults p => exact shaped_execResetFaults p s h
  | resetConnection p c => exact shaped_execResetConnection p c s h
  | pairingRetry remote nonce answer => exact shaped_execPairingRetry remote nonce s answer h
  | paired => exact shaped_execPaired s h
  | heartbeatSend => exact shaped_execHeartbeatSend s h
  | heartbeat w => exact shaped_execHeartbeat w s h
  | partnerLost => exact shaped_execPartnerLost s h
  | arbselChange level => exact shaped_execArbselChange level s h
  | handoverFrame m => exact shaped_execHandoverFrame m s h
  | handoverRelease k => exact shaped_execHandoverRelease k s h
  | handoverTake k => exact shaped_execHandoverTake k s h
  | arbMismatch => exact shaped_execArbMismatch s h
  | mirrorFrameSend k => exact shaped_execMirrorFrameSend k s h
  | mirrorFrame m => exact shaped_execMirrorFrame m s h
  | snapshot m => exact shaped_execSnapshot m s h
  | requestRelease p => exact shaped_execRequestRelease p s h
  | cancelRelease p => exact shaped_execCancelRelease p s h
  | bistDone r => exact shaped_execBistDone r s h
  | reamImageLoaded slot0 slot1 => exact shaped_execReamImageLoaded s slot0 slot1 h
  | linkWaitExpiry => exact shaped_execLinkWaitExpiry s h
  | dawnStall cause => exact shaped_execDawnStall cause s h
  | xlpLost => exact shaped_execXlpLost s h
  | xlpRestored => exact shaped_execXlpRestored s h
  | excitationFaultEnd k f => exact shaped_execExcitationFaultEnd k f s h
  | prbsCheckerLock l => exact shaped_execPrbsCheckerLock l s h
  | prbsBitError l => exact shaped_execPrbsBitError l s h
  | edgePositionRecord ch => exact shaped_execEdgePositionRecord ch s h
  | switchReadback x high level => exact shaped_execSwitchReadback x high level s h
  | releasedNetEdge gen ball => exact shaped_execReleasedNetEdge gen ball s h
  | stagingReplayDone k => exact shaped_execStagingReplayDone k s h
  | unknownOpcode p opcode seq => exact shaped_execUnknownOpcode p opcode seq s h
  | tapInstruction n => exact shaped_execTapInstruction n s h

end Sys2Proof.Machine
end

