-- ==== Sys2Proof/Machine/Balls.lean ====
section
/-!
DEFINITION. The state of every output ball and the test access port (spec/02, Tables 2.4 to 2.6, R63 to R72), as functions of the
state of the hub.
Marked choices: DESIGN CHOICE, log entries 3, 73; PRESUMED, log entry 37; DEDUCED, log entry 77.
-/
namespace Sys2Proof.Machine

/-- What an output ball does: high impedance, held by its keeper at a level, driven to a level, tied to AGND through 1 kΩ, carrying the
signal of its block, at electrical idle or differential 0. -/
inductive Drive where
  | highZ
  | keeper (level : Bool)
  | level (high : Bool)
  | agnd
  | signal
  | idle
deriving DecidableEq, Repr

/-- The balls of Tables 2.4 to 2.6; inputs are named for the boundary scan (R71). -/
inductive BallId where
  | ain (ch : Fin 128) | exc (k : Fin 16) | excSense (k : Fin 16) | iexA (q : Fin 32) | iexB (q : Fin 32)
  | aout (x : Fin 8) | aoref | auxin (i : Fin 8)
  | enc (n : Fin 64) (input : Fin 3) | spTx (p : Fin 8) | spRx (p : Fin 8) | gc (b : Fin 144) | gen (b : Fin 12)
  | ld (x : Fin 8) | st (x : Fin 8) | trigin (i : Fin 4) | sync | si (i : Fin 16) | tp (k : Fin 4)
  | hsd (x : Fin 4) | lsd (x : Fin 4) | hsfb (x : Fin 4) | lsfb (x : Fin 4) | nsconf
  | laneTx (l : Lane) | laneRx (l : Lane) | refclk | nhcs | hsclk | hio (i : Fin 8) | hdqs | hrdy
  | npor | nrstreq | nwake | pwren | nfault | arbsel | twinid | rooten
  | tck | tms | tdi | tdo | ntrst | testen
deriving DecidableEq, Repr

/-- A ball of the GC or GEN group. -/
def Ball.out (b : Ball) : Drive :=
  match b.drive with
  | some l => .level l
  | none => if b.keeper then .keeper b.held else .highZ

/-- TPk drives high but for its pulses, and low on an EDY5384-IB, in reset and wherever the safety functions do not run (R67, R784). -/
def tpLevel (s : State) (k : Nat) : Bool := safeOn s && !s.safe.tp.getD k false

/-- LDx is low wherever the hub does not drive its outputs (R65). -/
def ldLevel (s : State) (x : Nat) : Bool := drivesHub s && (liteOf s x).line

/-- A sensor port transmits while its page is enabled, on the standby as well; otherwise its pair stands at differential 0 (R65, R674). -/
def spSends (s : State) (p : Nat) : Bool := hubOn s && !s.pwr.warm.running && blkOn s (pgSPRT p)

/-- The state of an output ball (Tables 2.4 to 2.6); an input is at high impedance. -/
def ballOut (s : State) (b : BallId) : Drive :=
  match b with
  | .exc k => if excDrives s k then .signal else .highZ
  | .iexA q => if iexDrives s q then .signal else .highZ
  | .iexB q => if iexDrives s q then .signal else .highZ
  | .aout x => if aoDriven s x then .signal else .agnd
  | .spTx p => if spSends s p then .signal else .idle
  | .gc b => ((s.gc.getD b {} : Ball)).out
  | .gen b => ((s.gen.getD b {} : Ball)).out
  | .ld x => .level (ldLevel s x)
  | .st x => .level (strobeBall s x)
  | .tp k => .level (tpLevel s k)
  | .hsd x => .level (hsdOn s x)
  | .lsd x => .level (lsdOn s x)
  | .laneTx l => if laneReady s l then .signal else .idle
  | .hrdy => .level (hrdy s)
  | .pwren => .level s.pwr.pwren
  | .nfault => if nFaultLow s then .level false else .highZ
  | .hio _ => .highZ | .hdqs => .highZ | .tdo => .highZ
  | .ain _ => .highZ | .excSense _ => .highZ | .aoref => .highZ | .auxin _ => .highZ | .enc _ _ => .highZ | .spRx _ => .highZ
  | .trigin _ => .highZ | .sync => .highZ | .si _ => .highZ | .hsfb _ => .highZ | .lsfb _ => .highZ | .nsconf => .highZ
  | .laneRx _ => .highZ | .refclk => .highZ | .nhcs => .highZ | .hsclk => .highZ | .npor => .highZ | .nrstreq => .highZ
  | .nwake => .highZ | .arbsel => .highZ | .twinid => .highZ | .rooten => .highZ | .tck => .highZ | .tms => .highZ
  | .tdi => .highZ | .ntrst => .highZ | .testen => .highZ

-- the test access port

/-- The balls that the boundary scan covers, in the order of Tables 2.5 and 2.6 (R71): every digital one but the lane, REFCLK and
oscillator balls. The four balls of IEEE 1149.1 itself and nTRST are no cells of it. -/
def scanBalls : List BallId :=
  (List.finRange 64).flatMap (fun n => (List.finRange 3).map (.enc n)) ++
  (List.finRange 8).map .spTx ++ (List.finRange 8).map .spRx ++ (List.finRange 144).map .gc ++ (List.finRange 12).map .gen ++
  (List.finRange 8).map .ld ++ (List.finRange 8).map .st ++ (List.finRange 4).map .trigin ++ [.sync] ++
  (List.finRange 16).map .si ++ (List.finRange 4).map .tp ++ (List.finRange 4).map .hsd ++ (List.finRange 4).map .lsd ++
  (List.finRange 4).map .hsfb ++ (List.finRange 4).map .lsfb ++ [.nsconf] ++
  [.nhcs, .hsclk] ++ (List.finRange 8).map .hio ++ [.hdqs, .hrdy, .npor, .nrstreq, .nwake, .pwren, .nfault, .arbsel, .twinid, .rooten,
    .testen]

/-- The level of an input ball that the state holds. -/
def inputLevel (s : State) (b : BallId) : Option Bool :=
  match b with
  | .trigin i => s.pins.trigin[(i : Nat)]?
  | .si i => s.safe.si[(i : Nat)]?
  | .hsfb x => some (outSt s x).hsfb
  | .lsfb x => some (outSt s x).lsfb
  | .npor => some s.pins.npor
  | .nsconf => some s.pins.nsconf
  | .arbsel => some s.pins.arbsel
  | .twinid => some s.pins.twinid
  | .rooten => some s.pins.rooten
  | .testen => some s.pins.testen
  | _ => none

/-- What SAMPLE captures at a ball: the level that the hub drives or holds, or that of the input; none where only the board knows it. -/
def scanLevel (s : State) (b : BallId) : Option Bool :=
  match ballOut s b with
  | .level h => some h
  | .keeper h => some h
  | .highZ => inputLevel s b
  | .agnd => none | .signal => none | .idle => none

/-- The data register that the instruction in force selects (IEEE 1149.1, R71), the bit shifted out first at the head. -/
def tapData (s : State) : Option (List (Option Bool)) :=
  match s.tap with
  | .idcode => some ((List.range 32).map (fun i => some ((0x5384000b : Word).getLsbD i)))
  | .bypass => some [some false]
  | .samplePreload => some (scanBalls.map (scanLevel s))
  | .otherInstr _ => none

end Sys2Proof.Machine
end

