-- ==== Sys2Proof/Machine/Response.lean ====
section
/-!
DEFINITION. The responses of the fixed filters (R295, Table 7.2) as conditions on the free taps: no definition of the machine rests on
them, a claim may take them as a premise. Frequencies in units of the input rate of the stage.
Marked choices: DEDUCED, log entry 76.
-/
namespace Sys2Proof.Machine

/-- The amplitude of a gain that lies between two numbers of decibels. -/
def Gain (h : ℝ) (lo hi : ℝ) : Prop := (10 : ℝ) ^ (lo / 20) ≤ |h| ∧ |h| ≤ (10 : ℝ) ^ (hi / 20)

/-- Two half-band taps are equal where they lie at the same distance from the middle one; the response of the stage at `f` is `h`. -/
def HalfBandAt (f h : ℝ) : Prop :=
  h * 2 ^ 32 = ((List.range 23).map (fun i => (halfBandTap i : ℝ) * Real.cos (2 * Real.pi * f * ((i : ℝ) - 11)))).sum

/-- R295 for the half-band stages: ripple within ±0.002 dB up to 0.13, at least 80 dB down from 0.37. -/
def HalfBandResponse : Prop :=
  ∀ f h : ℝ, HalfBandAt f h →
    (0 ≤ f → f ≤ 13 / 100 → Gain h (-2 / 1000) (2 / 1000)) ∧
    (37 / 100 ≤ f → f ≤ 1 / 2 → |h| ≤ (10 : ℝ) ^ (-4 : ℝ))

/-- The response of the interpolator, phase by phase: tap `i` of phase `p` lies `i − 7 − p / 64` inputs from the output's instant. -/
def InterpolatorAt (f h : ℝ) : Prop :=
  h * 2 ^ 38 = ((List.range 64).map (fun p => ((List.range 16).map (fun i =>
    (Config.rsTap p i : ℝ) * Real.cos (2 * Real.pi * f * ((i : ℝ) - 7 - (p : ℝ) / 64)))).sum)).sum

/-- R295 for the resampler: ripple within ±0.02 dB up to 0.35, at least 70 dB down from 0.65. -/
def InterpolatorResponse : Prop :=
  ∀ f h : ℝ, InterpolatorAt f h →
    (0 ≤ f → f ≤ 35 / 100 → Gain h (-2 / 100) (2 / 100)) ∧ (65 / 100 ≤ f → |h| ≤ (10 : ℝ) ^ (-7 / 2 : ℝ))

/-- R295, phase interpolation: a full-scale tone at 0.35 is met within −96 dBFS at every instant between two inputs. -/
def PhaseError : Prop :=
  ∀ (p frac : Nat) (a : ℝ), p < 64 → frac < 65536 →
    |((List.range 16).map (fun i =>
        ((Config.rsTap p i : ℝ) * (65536 - frac) + (Config.rsTap (p + 1) i : ℝ) * frac) / 2 ^ 48 *
          Real.sin (a + 2 * Real.pi * (35 / 100) * (i : ℝ)))).sum -
      Real.sin (a + 2 * Real.pi * (35 / 100) * (7 + ((p : ℝ) + frac / 65536) / 64))| ≤ (10 : ℝ) ^ (-96 / 20 : ℝ)

end Sys2Proof.Machine
end

