-- ==== Sys2Proof/WellFormed.lean ====
section
/-!
DEFINITION. Well-formed commands: every operand within the width or the shape that the spec gives it. A command whose value the
hub itself judges (a refused field value, a reserved address) is well formed.
Marked choices: DESIGN CHOICE, log entries 3, 23, 73.
-/
namespace Sys2Proof

/-- A byte address of the 24-bit map (R134). -/
def addrOk (a : Nat) : Bool := decide (a < 2 ^ 24)

/-- A value of one byte: a PTP domain, an opcode. -/
def byteOk (n : Nat) : Bool := decide (n < 256)

/-- A hub address (Table 4.9). -/
def hubOk (h : Nat) : Bool := decide (h < 64)

/-- The stream field of STRM.CTRL, seven bits. -/
def streamOk (s : Nat) : Bool := decide (s < 128)

/-- A ball of the GC (144) or GEN (12) group. -/
def ballOk (gen : Bool) (ball : Nat) : Bool := decide (ball < if gen then 12 else 144)

/-- The opcodes of Table 11.5. -/
def namedOpcode (o : Nat) : Bool := [0x01, 0x02, 0x10, 0x11, 0x12, 0x20, 0x21].contains o

/-- The field widths of Table 4.9; a frame that R879 answers as malformed is well formed. -/
def AccessFrame.wf (f : AccessFrame) : Bool :=
  byteOk f.version && byteOk f.op && decide (f.hub < 2 ^ 16) && byteOk f.session && byteOk f.count && decide (f.address < 2 ^ 32)

/-- The shape of Table 15.5. -/
def Uplink.wf (u : Uplink) : Bool :=
  decide (u.slots.length = 24) && decide (u.respData.length = 15) && byteOk u.respTag && byteOk u.respCode

/-- The operands of a command fit. -/
def Instr.wellFormed : Instr → Bool
  | .queueFull q => decide (q < 256)
  | .keeperRelease gen ball => ballOk gen ball
  | .commitApplyNow _ page => decide (page < 4096)
  | .commitApplyAt _ page => decide (page < 4096)
  | .commitCancel _ page => decide (page < 4096)
  | .scheduledCommit page => decide (page < 4096)
  | .pageEnable _ page _ => decide (page < 4096)
  | .blockReset _ page => decide (page < 4096)
  | .freeze _ page _ => decide (page < 4096)
  | .errcodeClear _ page _ => decide (page < 4096)
  | .registerWrite _ addr _ => addrOk addr
  | .loRead _ addr => addrOk addr
  | .spiRead addr _ _ _ _ => decide (addr < 2 ^ 32)
  | .spiWrite addr _ _ => decide (addr < 2 ^ 32)
  | .spiReadReq addr _ _ => decide (addr < 2 ^ 32)
  | .ringRead f => f.wf
  | .ringWrite f => f.wf
  | .queueClear _ q => decide (q < 256)
  | .sliceCalibrationDone _ c => decide (c.weights.length = 6)
  | .filteredRecord ch => decide (ch < 128 ∨ 192 ≤ ch ∧ ch < 384)
  | .polyDataWrite _ page _ => decide (page < 40)
  | .polyDataRead _ page => decide (page < 40)
  | .redMinRead _ page _ => decide (page < 40)
  | .syncMessage m => byteOk m.domain
  | .followUp domain _ _ _ => byteOk domain
  | .delayReq domain _ => byteOk domain
  | .delayResp domain _ _ _ => byteOk domain
  | .announce m => byteOk m.domain
  | .ringFrame _ f => decide (f.bytes < 65536)
  | .l3Frame f => decide (f.bytes < 65536)
  | .discoveryBeacon _ b => decide (b.serial < 2 ^ 64)
  | .addressAssignment a => a.entries.all (fun e => hubOk e.2)
  | .rootBeacon _ b => decide (b.serial < 2 ^ 64)
  | .ringBreak _ westHub eastHub _ => hubOk westHub && hubOk eastHub
  | .admissionRequest r => hubOk r.hub && streamOk r.stream
  | .admissionRelease r => hubOk r.hub && streamOk r.stream
  | .admissionReply r => hubOk r.hub && streamOk r.stream
  | .ledgerReport r => hubOk r.hub
  | .openStream _ s => streamOk s
  | .closeStream _ s => streamOk s
  | .clearStream _ s => streamOk s
  | .acknowledgement m => hubOk m.hub && streamOk m.stream
  | .cmdNop _ _ args => decide (args.length = 8)
  | .cmdTransfer _ _ args => decide (args.length = 8)
  | .cmdReamStore _ _ args => decide (args.length = 8)
  | .cmdCalStore _ _ args => decide (args.length = 8)
  | .cmdFuseWrite _ _ args => decide (args.length = 8)
  | .cmdZipJob _ _ args => decide (args.length = 8)
  | .cmdTableStage _ _ args => decide (args.length = 8)
  | .ringTrigger t => hubOk t.hub
  | .sramScrub _ addr _ => decide (addr % 4 = 0)
  | .motClearFault _ r => decide (r < 64)
  | .cycleMark _ r => decide (r < 64)
  | .ssiTransferDone _ _ bits => decide (bits.length ≤ 33)
  | .interpolatorTable _ _ hits => decide (hits.length = 256 ∧ hits.foldl (· + ·) 0 = 65536)
  | .uplinkFrame _ groups _ => decide (groups.length = 100)
  | .pairingRetry remote _ answer => decide (remote.length = 32 ∧ answer.length = 8)
  | .dawnStall cause => decide (cause < 16)
  | .releasedNetEdge gen ball => ballOk gen ball
  | .unknownOpcode _ opcode _ => byteOk opcode && ! namedOpcode opcode
  | .vbkApplied | .railLost _ | .analogRailHoldEnd _ | .vdd12lRestored | .powerGood | .pwrenTimeout | .pwrenRetry
  | .clockLost _ | .clockRestored _ | .refclkLost _ | .refclkRestored _ | .nporLow | .nporRelease | .nwake | .wakeAt
  | .nrstreqFall | .nrstreqHighSample | .nrstreqDebounced | .rstreqFailed | .rstreqRecovered | .lockstepMismatch
  | .watchdog | .warmReset | .hubReady | .samplingResumed | .rstCtrl _ _ | .targetMidnight _ | .targetRemoval _
  | .targetTwilight _ | .duskEnd | .duskLimit | .faultSrcClear _ _ | .spiFetch _ _ | .spiStatus | .resetPort
  | .busyEnd | .attentionPulse | .attentionPulseEnd | .attentionRepeat | .sessionTimeout _ | .rawRecord _ _
  | .rangeStep _ | .breakEnd _ | .burnOutTest _ _ | .swapPhase _ | .excSettleEnd _ | .excitationFault _ _
  | .rotationStep _ | .bandEdgeLoad _ _ | .comparatorCrossing _ _ _ | .minHoldEnd _ _ | .hkcStart _ _
  | .hkcResult _ _ | .hkcSupervision _ _ _ | .dataRead _ | .syncEdge _ _ _ | .syncSchedule _ | .syncCancel _
  | .syncEffect | .coefDataWrite _ _ | .coefDataRead _ | .pdelayReq _ _ | .pdelayResp _ _ _ _ _
  | .pdelayRespFollowUp _ _ _ | .announceTimeout _ | .domainLost | .holdLimit | .rootSyncSend _ | .rootAnnounceSend _
  | .domSel _ _ | .coarseRefresh | .gridStartSend | .gridStart _ | .gridStartIndex | .linkUp _ | .linkDown _
  | .rxWake _ | .prbsInject _ _ | .discoveryBeaconSend | .addressAssignmentSend | .rootBeaconSend | .rootLost
  | .rootAlone | .admissionRetry _ | .enoroot _ | .ledgerReportSend | .ledgerRebuilt | .streamStart _
  | .quireStored _ _ | .quireTransmit _ _ | .seqAcked _ _ _ | .retxAfter _ | .tHoldExpiry _ | .commandExecute
  | .persistentStepDone _ | .transferDone | .tableStageDone | .zipJobDone _ | .abortJob _ | .arm _ _ | .armAt _ _
  | .armAtReached _ | .disarm _ _ | .reamClear _ _ | .hostTrigger _ _ | .triginEdge _ _ _ _ | .triggerDecision _
  | .autoTrigger _ | .holdoffEnd _ | .segmentDone _ _ | .bu _ | .stageStart _ | .limit _ | .nopInstruction _
  | .sli _ _ _ | .slih _ _ _ | .sadd _ _ _ _ | .saddi _ _ _ _ | .ssub _ _ _ _ | .sand _ _ _ _ | .sor _ _ _ _
  | .sshl _ _ _ _ | .sshr _ _ _ _ | .smul _ _ _ _ | .sld _ _ | .sst _ _ | .sget _ _ _ | .br _ _ _ _ | .lmask _ _
  | .signal _ | .vld _ _ | .vldr _ _ | .vldi _ _ | .vldd _ _ _ _ _ | .vst _ _ | .vste _ _ | .vsplat _ _ _
  | .vadd _ _ _ _ | .vsub _ _ _ _ | .vmul _ _ _ _ | .vmac _ _ _ _ _ | .aclr _ _ _ | .vmova _ _ _ | .vclamp _ _ _ _ _
  | .vneg _ _ _ | .vabs _ _ _ | .vscl _ _ _ _ | .vmov _ _ _ | .vbc _ _ _ _ | .vcmp _ _ _ _ | .vsel _ _ _ _
  | .vtst _ _ | .norm _ _ | .vtab _ _ _ _ _ _ | .stop _ | .illegal _ | .runEngine _ _ | .haltEngine _ _
  | .clearFault _ _ | .doorbell _ _ | .clearStagingList _ _ | .slotEnable _ | .slotRun _ | .slotDisable _
  | .holdTimeout _ | .rcLost _ | .encEdge _ _ | .intervalTimeout _ | .ssiTransfer _ | .armReference _ _
  | .loadPreset _ _ | .clearCounters _ _ | .downlinkFrame _ | .commandResend _ | .sendCommand _ _
  | .acceptIdentity _ _ | .retrain _ _ | .sendNow _ _ | .sendToLatch _ _ | .cancelSend _ _ | .frameStart _ _
  | .frameDone _ | .lvlData _ _ | .strobeArm _ _ | .strobeDisarm _ _ | .strobeFire _ | .strobeEnd _ | .recalibrate _
  | .calPeriod | .recalibrationDone _ | .chal0Read _ | .challengeExpiry _ | .authEnter _ | .authLeave _
  | .svcTimeout _ | .lockoutEnd | .nsconfAsserted | .nsconfRelease | .safeInput _ _ | .discrepancy _ | .testPulse _
  | .testPulseEnd _ | .pulseHoldEnd _ | .sfcCycle _ _ | .sfcSelfTest _ | .lifeSignalLost | .switchTest _
  | .switchTestEnd _ | .readbackFault _ _ | .ss1Expiry _ | .safeframeSend _ | .safeframe _ _ | .safeframeWatchdog _
  | .resetFaults _ | .resetConnection _ _ | .paired | .heartbeatSend | .heartbeat _ | .partnerLost | .arbselChange _
  | .handoverFrame _ | .handoverRelease _ | .handoverTake _ | .arbMismatch | .mirrorFrameSend _ | .mirrorFrame _
  | .snapshot _ | .requestRelease _ | .cancelRelease _ | .bistDone _ | .reamImageLoaded _ _ | .linkWaitExpiry
  | .xlpLost | .xlpRestored | .excitationFaultEnd _ _ | .prbsCheckerLock _ | .prbsBitError _ | .edgePositionRecord _
  | .switchReadback _ _ _ | .stagingReplayDone _ | .tapInstruction _ => true

end Sys2Proof
end

