-- ==== Sys2Proof/Tests/Slice0.lean ====
section
/-!
SUPPORT. Tests. For each statement of Certificates/Slice0/Obligations.lean a theorem `test_hyp_…` shows states and operands that
meet its hypotheses, clause by clause; the others check one field after one command against a figure of the spec.
-/
set_option Elab.async false
set_option linter.all false

namespace Sys2Proof.Tests
open Sys2Proof.Machine

/-- A hub in Noon at a sample index, its grid running, its time locked. -/
def noonAt (n : Nat) : State :=
  { pwr := { st := .noon, rails := List.replicate 7 true, dawnPhase := 11, tableDue := false }
    time := { ht := n * tickLen, now := n, gridStarted := true, doms := [{ servo := .locked }, {}] } }

def noon : State := noonAt 0

/-- The state with registers set to values. -/
def having (s : State) (l : List (Nat × Word)) : State := l.foldl (fun s e => wr s e.1 e.2) s

/-- The path is at Service level. -/
def service (s : State) (p : Path) : State := onPath s p (fun t => { t with service := true })

/-- The common premises: sizes and canonical forms. -/
def sound (s : State) : Bool := shaped s && memoryWf s

/-- `passes`, decided. -/
def open? (s : State) (p : Path) (a : Nat) : Bool := hostReady s && (gateRej s (some p) a).isNone && !entryFails s (some p) a

theorem passes_of_open (s : State) (p : Path) (a : Nat) (h : open? s p a = true) : passes s p a := by
  simpa [open?, passes, and_assoc] using h

/-- The state after a command, the state before it where it does not go on. -/
def after (c : Instr) (s : State) : State :=
  match exec c s with
  | .next u => u
  | .fault _ => s
  | .refused _ => s

-- spec/05, spec/06

/-- An RES4 input that swaps its currents, tests for burn-out and ranges by itself. -/
def resInput (n : Nat) : State := having (noonAt n) [(FQ.IN_CFG 0 1, word (7 + 2 ^ 21 + 2 ^ 22))]

theorem test_hyp_analog_input_events :
    (let s := onInput (noonAt 100) 127 (fun i => { i with step := some (3, 100) })
     sound s = true ∧ (inputOf s 127).step = some (3, 100) ∧ 100 ≤ now s) ∧
    (let s := onInput noon 0 (fun i => { i with brk := true, intact := 16 })
     sound s = true ∧ (inputOf s 0).brk = true ∧ 16 ≤ (inputOf s 0).intact) ∧
    (let s := resInput 10000
     sound s = true ∧ burnOutNow s 1 = true) ∧
    (let s := onInput (resInput 10000) 1 (fun i => { i with phase := 7 })
     sound s = true ∧ sampling s = true ∧ swapping (inCfg s 1) = true ∧ (inputOf s 1).phase ≠ 0 ∧
       (inputOf s 1).phase ≠ phaseNum s 0 (now s) + 1) := by decide +kernel

theorem test_hyp_excitation_events :
    (let s := onExc (noonAt 20) 15 (fun e => { e with settle := some 20 })
     sound s = true ∧ (excOf s 15).settle = some 20 ∧ 20 ≤ now s) ∧
    (let s := having noon [(FQ.EXC_CFG 0, rd noon (FQ.EXC_CFG 0) ||| 1)]
     sound s = true ∧ excOn s 0 = true ∧ excSettling s 0 (now s) = false) ∧
    excOn noon 0 = false ∧
    (let s := having noon [(FQ.EXC_CFG 30, rd noon (FQ.EXC_CFG 30) ||| 1)]
     sound s = true ∧ excDrives s 15 = true) ∧
    excDrives noon 0 = false := by decide +kernel

theorem test_hyp_raw_record :
    (let s := having noon [(FQ.IN_CFG 31 3, word (1 + 16))]
     sound s = true ∧ sampledNow s 127 = true ∧ inClass (inCfg s 127) = Cls.VOLT ∧ fixedRange (inCfg s 127) = true ∧
       excUse (inCfg s 127) = false ∧ (inputOf s 127).step = none ∧ (inputOf s 127).brk = false ∧
       (inputOf s 127).setlStep = 0 ∧ (inputOf s 127).setlMode = 0 ∧ (coreOf s 31).short = false ∧
       windowBroken (inCfg s 127) 0 ⟨-2001, 0, 50000, 0, true, true⟩ = true ∧ windowBroken (inCfg s 127) 0 ⟨-2000, 48000, 50000, 0, true, true⟩ = false) := by
  decide +kernel

/-- A slot that names an input as its band channel. -/
def banded (n : Nat) : State := having (noonAt n) [(MOT.AX_BAND 0, word (95 + 127 * 2 ^ 8 + 127 * 2 ^ 16))]

theorem test_hyp_converter_events :
    (let s := noonAt 10001
     sound s = true ∧ sampling s = true ∧ (coreOf s 31).stopped = false ∧ (rotationAt s 31 (now s)).isSome = true) ∧
    slicePasses ⟨[16384, 32768, 65536, 131072, 262144, 524288], 1024, 1073741824⟩ = true ∧
    slicePasses ⟨[16384, 32768, 65536, 131072, 262144, 524288], 1025, 1073741824⟩ = false ∧
    (let s := onBand (banded 10) 95 (fun b => { b with shadow := [(9, 100, 102)] })
     sound s = true ∧ (bandOf s 95).shadow.find? (fun e => decide (e.1 < now s)) = some (9, 100, 102) ∧ bandBoundary s 95 = true ∧ comparatorsOn s 95 = true) ∧
    (let s := onBand (banded 10) 95 (fun b => { b with shadow := [(9, 100, 101)] })
     (bandOf s 95).shadow.find? (fun e => decide (e.1 < now s)) = some (9, 100, 101) ∧ bandBoundary s 95 = true) := by decide +kernel

theorem test_hyp_comparator_states : ((({} : BandState).u && ({} : BandState).lo) = false) := by decide

theorem test_hyp_housekeeping :
    (sound noon = true ∧ hostReady noon = true ∧ gateRej noon (some .spi) HKC.START = none ∧ noon.hkc.single = none ∧
      rdb noon HKC.SEL 16 = false ∧ gateRej noon (some .spi) SYS.QUEUE_SEL = none ∧ queueNamed 1 = true) ∧
    (let s : State := { (noonAt 30) with hkc := { single := some 8 } }
     sound s = true ∧ s.hkc.single = some 8 ∧ firstHostSlot 8 < now s / 10 ∧ hkcTurn s = some 1) ∧
    firstHostSlot 9 = 2 ∧ firstHostSlot 20 = 4 := by decide +kernel

/-- R250, R251: at index 0 the spare takes position 0, and the slice that held it is the spare. -/
theorem test_rotation_moves_the_spare :
    (coreOf (after (.rotationStep 0) (noonAt 0)) 0).spare = 0 ∧ (coreOf (after (.rotationStep 0) (noonAt 0)) 0).pos.getD 0 9 = 8 := by
  decide +kernel

-- spec/03, spec/02

/-- A hub that waits for its rails. -/
def waiting (pwren : Bool) (fails : Nat) : State := { pwr := { pwren := pwren, pwrenFails := fails } }

theorem test_hyp_supply_and_clock_events :
    (let s : State := { pwr := { st := .vbkAbsent } }
     sound s = true ∧ s.pwr.st = .vbkAbsent) ∧
    (let s := State.reset
     sound s = true ∧ s.pins.npor = true ∧ s.pins.testen = false ∧ s.pwr.st = .reset ∧ railOk s .vbk = true ∧ s.pwr.st ≠ .vbkAbsent) ∧
    (let s : State := { pwr := { st := .midnight, pwren := true } }
     sound s = true ∧ s.pins.npor = true ∧ s.pins.testen = false ∧ s.pwr.st = .midnight ∧ s.pwr.pwren = true) ∧
    (waitsForRails (waiting true 0) = true ∧ (waiting true 0).pwr.pwren = true) ∧
    (waitsForRails (waiting false 1) = true ∧ (waiting false 1).pwr.pwren = false ∧ 0 < (waiting false 1).pwr.pwrenFails) ∧
    (sound noon = true ∧ [Rail.vdd09, .vdd11m, .vddio18, .vdda18, .vafe50, .vdd12l].all (railOk noon) = true ∧ hubOn noon = true) ∧
    (let s := setRail noon .vdd12l false
     sound s = true ∧ railOk s .vdd12l = false ∧ hubOn s = true) ∧
    clkOk noon .xsys = true ∧ clkOk noon .timePll = true ∧ noon.clk.refclk = true ∧ noon.clk.xlp = true := by decide +kernel

/-- A hub whose warm reset has reached a point. -/
def warm (w : WarmReset) : State :=
  { (noonAt 20000) with
    pwr := { st := .dawn, rails := List.replicate 7 true, dawnPhase := 5, warm := w }
    time := { (noonAt 20000).time with held := true } }

theorem test_hyp_warm_reset_request :
    (memoryWf noon = true ∧ hubOn noon = true ∧ warmActive noon = false) ∧
    (memoryWf (warm { running := true }) = true ∧ hubOn (warm { running := true }) = true ∧
      warmActive (warm { running := true }) = true) ∧
    warmActive (warm { imageLoaded := true }) = true := by decide +kernel

theorem test_hyp_reset_and_wake_inputs :
    (sound noon = true ∧ noon.pins.npor = true ∧ noon.pwr.st ≠ .vbkAbsent ∧ hubOn noon = true ∧ noon.pwr.rstReq.level = true ∧
      noon.pwr.rstReq.failed = false) ∧
    (let s : State := { noon with pins := { npor := false } }
     sound s = true ∧ s.pins.npor = false ∧ s.pwr.rails = [true, true, true, true, true, true, true] ∧ s.pins.testen = false) ∧
    (let s : State := having { pwr := { st := .midnight, pwren := false, coarse := some 0 } } [(PWR.WAKE_CFG, 7)]
     sound s = true ∧ asleep s = true ∧ s.pwr.removal = false ∧ rdb s PWR.WAKE_CFG 1 = true ∧ rdb s PWR.WAKE_CFG 2 = true ∧
       s.pwr.coarse = some 0 ∧ s.clk.xlp = true) ∧
    (let s := onRstReq noon (fun r => { r with level := false, debounce := true, counting := true })
     sound s = true ∧ s.pwr.rstReq.debounce = true ∧ s.pwr.rstReq.counting = true) ∧
    (let s := onRstReq noon (fun r => { r with failed := true })
     sound s = true ∧ s.pwr.rstReq.failed = true ∧ s.pwr.rstReq.level = true) ∧
    open? (service noon .spi) .spi PWR.RST_CTRL = true := by decide +kernel

theorem test_hyp_warm_reset_sequence :
    (let s := onPwr noon (fun p => { p with warm := { requested := true } })
     sound s = true ∧ s.pwr.warm.requested = true ∧ warmActive s = false ∧ hubOn s = true ∧ s.pwr.warm.timeLost = false) ∧
    (let s := warm { imageLoaded := true }
     sound s = true ∧ s.pwr.warm.imageLoaded = true ∧ s.pwr.warm.ready = false ∧ warmHeld s = false ∧ s.time.gridStarted = true) ∧
    (let s := warm { imageLoaded := true, ready := true }
     sound s = true ∧ s.pwr.warm.ready = true ∧ s.pwr.warm.timeLost = false ∧ s.time.held = true ∧ s.time.gridStarted = true ∧
       now s % 10000 = 0 ∧ atTick s = true ∧ warmHeld s = false) := by decide +kernel

theorem test_hyp_cold_reset : memoryWf noon = true := by decide +kernel

/-- A hub in Dusk with a target. -/
def dusk (target : Nat) : State := { pwr := { st := .dusk, rails := List.replicate 7 true, target := target, dawnPhase := 11 } }

theorem test_hyp_power_targets :
    (sound noon = true ∧ open? (service noon .spi) .spi PWR.CTRL = true ∧ (service noon .spi).pwr.st = .noon ∧
      sound (service noon .spi) = true) ∧
    (let s := service { noon with pwr := { noon.pwr with st := .twilight } } .spi
     sound s = true ∧ open? s .spi PWR.CTRL = true ∧ s.pwr.st = .twilight) ∧
    (sound (dusk 1) = true ∧ (dusk 1).pwr.st = .dusk ∧ duskDrained (dusk 1) = true ∧ (dusk 1).pwr.target = 1) ∧
    (let s : State := { dusk 3 with twin := { pair := .paired } }
     sound s = true ∧ s.pwr.st = .dusk ∧ duskDrained s = true ∧ s.pwr.target = 3) := by decide +kernel

theorem test_hyp_fault_bits :
    (let s := service noon .spi
     sound s = true ∧ open? s .spi PWR.FAULT_SRC = true) ∧ (143 : Nat) < 144 := by decide +kernel

/-- R119: a request during a warm reset adds its cause to RST_CAUSE and starts no second reset. -/
theorem test_watchdog_in_a_warm_reset :
    rd (after .watchdog (warm { running := true })) PWR.RST_CAUSE = word Cause.WATCHDOG ∧
    (after .watchdog (warm { running := true })).pwr.warm.requested = false := by decide +kernel

-- spec/04

/-- The refusal of a host write of `v` at `a` by SPI, where the register stands in the map. -/
def spiRej (s : State) (a : Nat) (v : Word) : Option (Option Rej) :=
  match blkOfPage (pageOf a), rowAt a with
  | some (b, i), some r => some (regRej s (some .spi) b i a r v)
  | _, _ => none

/-- The block and number of a page. -/
def onBlk (g : Nat) (f : Blk → Nat → Bool) : Bool :=
  match blkOfPage g with
  | some (b, i) => f b i
  | none => false

/-- BIST has shown that the NV store has failed. -/
def nvFailed : State := having (service noon .spi) [(SYS.DAWN_STAT, 0x40000)]

/-- A write of `v` at `a` meets the conditions of a register without checks of its own. -/
def freeWrite (s : State) (a : Nat) (v : Word) : Bool :=
  open? s .spi a && (match rowAt a with
    | some r => decide (r.acc ≠ .ro) && (decide (r.acc ≠ .rws) || !scheduled s (pageOf a)) &&
        r.checks.all (fun c => (c.zeroRej v).isNone && (c.rangeRej v).isNone)
    | none => false)

theorem test_hyp_register_words :
    (hostReady noon = true ∧ spiRej noon HOST.SESSION_TIMEOUT 5 = some none ∧ entryFails noon (some .spi) HOST.SESSION_TIMEOUT = false ∧
      open? noon .spi (hdr 0 Hdr.ERRCODE) = true) ∧
    (hostReady nvFailed = true ∧ spiRej nvFailed PWR.WAKE_CFG 1 = some none ∧ entryFails nvFailed (some .spi) PWR.WAKE_CFG = true) ∧
    (freeWrite noon HOST.SESSION_TIMEOUT 5 = true ∧ freeWrite noon (MOT.AX_RC 47) 0 = true ∧ freeWrite noon (EDGE.CH_CFG 7 7) 0 = true) ∧
    ((spiRej noon HOST.SESSION_TIMEOUT 0).any (·.isSome) = true) ∧
    (HOST.SESSION_TIMEOUT < 0x100000 ∧ HOST.SESSION_TIMEOUT % 4 = 0 ∧ 0x40 ≤ offOf HOST.SESSION_TIMEOUT) ∧
    (frozenAt noon HOST.SESSION_TIMEOUT = none ∧ HOST.SESSION_TIMEOUT ≠ FUSE.CHAL 0 ∧
      sparseFind (pathOf noon .spi).latched HOST.SESSION_TIMEOUT = none) ∧
    (let s := onPage noon pgTIME (fun x => { x with snapshot := some [(TIME.GRID_START_LO, 1)] })
     frozenAt s TIME.GRID_START_LO = some 1 ∧ sparseFind (pathOf s .spi).latched TIME.GRID_START_LO = none) ∧
    (let s := onPath noon .spi (fun t => { t with latched := [(TIME.GRID_START_LO + 4, 7)] })
     frozenAt s (TIME.GRID_START_LO + 4) = none ∧ sparseFind (pathOf s .spi).latched (TIME.GRID_START_LO + 4) = some 7) ∧
    (let s := having noon [(FLT.COEF_ADDR 0, 0x7ff)]
     open? s .spi (FLT.COEF_DATA 0) = true ∧ rdf s (FLT.COEF_ADDR 0) 0 15 = 0x7ff ∧ setActive s 7 = false ∧ fld 8 0 4 = 8) ∧
    (open? noon .spi (FLT.POLY_DATA 0) = true ∧ scheduled noon (pgFLT 0) = false) ∧
    (∀ g : Fin 40, frozenAt noon (FLT.POLY_DATA g) = none ∧ sparseFind (pathOf noon .spi).latched (FLT.POLY_DATA g) = none) ∧
    (frozenAt noon (FLT.COEF_DATA 0) = none ∧ sparseFind (pathOf noon .spi).latched (FLT.COEF_DATA 0) = none ∧
      frozenAt noon (FLT.CH_RED_MIN 39 7) = none ∧ sparseFind (pathOf noon .spi).latched (FLT.CH_RED_MIN 39 7) = none) := by
  decide +kernel

/-- The conditions on PAGE_CTRL hold for page `g` of `s`: its block is not in use, is in use, and can be reset. -/
def pageFree (s : State) (g : Nat) : Bool := onBlk g (fun b i => !pageFixed b && !blockInUse s b i && !bandHeld s b i)
def pageUsed (s : State) (g : Nat) : Bool := blkOn s g && onBlk g (fun b i => !pageFixed b && blockInUse s b i)

theorem test_hyp_page_header_commands :
    (open? noon .spi (hdr 0x60 Hdr.COMMIT) = true ∧ scheduled noon 0x60 = false ∧
      onBlk 0x60 (fun b i => decide (commitChk noon b i 0x60 none = {})) = true) ∧
    (let s := having noon [(hdr 0x60 Hdr.APPLY_AT_LO, 2)]
     open? s .spi (hdr 0x60 Hdr.COMMIT) = true ∧ scheduled s 0x60 = false ∧ gridValid s = true ∧
       now s + 1 < rd64 s (hdr 0x60 Hdr.APPLY_AT_LO) ∧
       onBlk 0x60 (fun b i => decide (commitChk s b i 0x60 (some (now s, rd64 s (hdr 0x60 Hdr.APPLY_AT_LO))) = {})) = true) ∧
    (open? noon .spi (hdr pgHOST Hdr.COMMIT) = true ∧ onBlk pgHOST (fun b _ => decide (b = .host)) = true ∧
      onBlk 0x60 (fun b _ => decide (b = .flt)) = true ∧ onBlk (pgSPRT 7) (fun b _ => decide (b = .sprt)) = true) ∧
    (let s := onPage noon 0x60 (fun x => { x with sched := some 100 })
     scheduled s 0x60 = true ∧ open? s .spi (hdr 0x60 Hdr.COMMIT) = true) ∧
    (pinfo (onPage noon 0x60 (fun x => { x with soon := true })) 0x60).soon = true ∧
    (let s := onPage (noonAt 100) 0x60 (fun x => { x with sched := some 100 })
     (pinfo s 0x60).sched = some 100 ∧ atTick s = true ∧ 100 ≤ now s ∧ onBlk 0x60 (fun b i => (edgeRej s b i 0x60 100).isNone) = true ∧
       memoryWf s = true ∧ sparseAbove 0 s.shadow = true) ∧
    (let s : State := { onPage (noonAt 100) pgVAT (fun x => { x with sched := some 100 }) with shadow := [(VAT.FELT_SIZE, 0)] }
     (pinfo s pgVAT).sched = some 100 ∧ atTick s = true ∧ onBlk pgVAT (fun b i => (edgeRej s b i pgVAT 100).isSome) = true) ∧
    (open? noon .spi (hdr 0x60 Hdr.PAGE_CTRL) = true ∧ pageFree noon 0x60 = true ∧
      blkOn (having noon [(hdr 0x60 Hdr.PAGE_CTRL, 0)]) 0x60 = false) ∧
    (let s := onSlot noon 0 (fun _ => { st := .run })
     open? s .spi (hdr pgMOT Hdr.PAGE_CTRL) = true ∧ pageUsed s pgMOT = true) := by
  decide +kernel

theorem test_hyp_access_codes : memoryWf noon = true ∧ ((rowAt HOST.SESSION_TIMEOUT).map (·.acc)) = some .rw ∧
    ((rowAt PWR.CTRL).map (·.acc)) = some .rwl ∧ ((rowAt (FQ.IN_CFG 0 0)).map (·.acc)) = some .rws ∧
    ((rowAt PWR.FAULT_SRC).map (·.acc)) = some .w1c ∧ ((rowAt PWR.STAT).map (·.acc)) = some .ro ∧
    ((rowAt PWR.RST_CTRL).map (·.acc)) = some .wo := by decide +kernel

theorem test_hyp_refused_write : memoryWf noon = true ∧ hostReady noon = true ∧
    (spiRej noon HOST.SESSION_TIMEOUT 0).any (fun j => j.any (fun j => decide (j.reason ≠ Rsn.ADDR))) = true := by decide +kernel

/-- The Vat window stands on table storage. -/
def windowed : State := having noon [(VAT.WINDOW_BASE, 0x70000000)]

theorem test_hyp_vat_window_write : memoryWf windowed = true ∧ hostReady windowed = true ∧
    winOf windowed 0x8ffffc = some (.vat 0x700ffffc) ∧ vatHostChk windowed 0x700ffffc = none ∧ bistHeld windowed pgVAT = false := by
  decide +kernel

theorem test_hyp_spi_transactions :
    (let t := spiCount (spiStart noon)
     sound noon = true ∧ hostReady noon = true ∧ noon.host.busy = false ∧ readsWindow t 0 64 = false ∧ dummyLasts t 0 = false ∧
       dummyLasts t 180000 = true) ∧
    (let s := onHost noon (fun h => { h with fetch := some [1, 2] })
     s.host.fetch = some [1, 2] ∧ (2 : Nat) ≤ [1, 2].length ∧ s.host.busy = false ∧ hostReady s = true) ∧
    (let s := onHost noon (fun h => { h with busy := true, req := some [1, 2, 3] })
     sound s = true ∧ s.host.busy = true ∧ s.host.req = some [1, 2, 3]) ∧
    (let s := onHost noon (fun h => { h with busy := true })
     s.host.busy = true ∧ s.host.req = none) ∧
    (let s := having noon [(hdr 0 Hdr.EVT, 1), (hdr 0 Hdr.EVT_EN, 1), (HOST.CFG, rd noon HOST.CFG ||| 0x10000)]
     sound s = true ∧ attn s = true ∧ s.host.busy = false ∧ s.host.pulse = false ∧ s.host.pulsed = false) ∧
    (let s := onHost (having noon [(hdr 0 Hdr.EVT, 1), (hdr 0 Hdr.EVT_EN, 1), (HOST.CFG, rd noon HOST.CFG ||| 0x10000)])
        (fun h => { h with pulsed := true })
     attn s = true ∧ rdb s HOST.CFG 16 = true ∧ s.host.pulsed = true ∧ s.host.busy = false ∧ s.host.pulse = false) := by
  decide +kernel

/-- A frame of session 3 of some host, to the hub at address 5. -/
def accFrame (op : Nat) (seq : Seq16) : AccessFrame := ⟨0x020000000001, 1, op, 5, 3, 1, seq, 0x1054, if op = 2 then [5] else []⟩

/-- A hub at address 5 with that session in slot 0, its last sequence 9. -/
def sessioned : State :=
  setSession { noon with ring := { address := some 5 } } 0 (some ⟨0x020000000001, 3, 9, ⟨1, 0x81, 5, 3, 1, 9, 0, 0, 0, []⟩⟩)

theorem test_hyp_ring_access : sound sessioned = true ∧ hostReady sessioned = true ∧
    sessioned.ring.address = some (accFrame 1 10).hub ∧ (accFrame 1 10).version = 1 ∧ rdb sessioned HOST.RING_ACCESS 0 = true ∧
    sessionOf sessioned (accFrame 1 10) = some 0 ∧ (sessioned.host.sessions.getD 0 none).any (fun x => decide (x.lastSeq = 9)) = true ∧
    1 ≤ (accFrame 1 10).count ∧ (accFrame 1 10).count ≤ 64 ∧ (accFrame 1 10).address < 2 ^ 24 ∧
    (accFrame 2 10).count ≤ (accFrame 2 10).data.length ∧
    (accFrame 2 10).seq = 9 + 1 ∧ (accFrame 1 10).seq = 9 + 1 ∧ (accFrame 2 9).seq = 9 := by decide +kernel

/-- R136, R22: a word written through the window stands in the Vat, least significant byte first. -/
theorem test_window_little_endian :
    vatByte (after (.registerWrite .spi 0x800000 0x11223344) windowed) 0x70000000 = 0x44 ∧
    vatByte (after (.registerWrite .spi 0x800000 0x11223344) windowed) 0x70000003 = 0x11 := by decide +kernel

/-- R137: the window refuses a write to the Felt with LEVEL, in VAT.ERRCODE. -/
theorem test_window_refuses_the_felt :
    rdf (after (.registerWrite .spi 0x800000 1) noon) (hdr pgVAT Hdr.ERRCODE) 0 8 = Rsn.LEVEL ∧
    (after (.registerWrite .spi 0x800000 1) noon).vat = [] := by decide +kernel

/-- R141: a write of 1 to one bit of ERRCODE clears all of it. -/
theorem test_errcode_clear :
    rd (after (.errcodeClear .spi pgHOST 0x80000000) (after (.registerWrite .spi HOST.SESSION_TIMEOUT 0) noon)) (hdr pgHOST Hdr.ERRCODE) = 0 ∧
    rd (after (.registerWrite .spi HOST.SESSION_TIMEOUT 0) noon) (hdr pgHOST Hdr.ERRCODE) ≠ 0 := by decide +kernel

/-- R147: an RWS write stands in the shadow until a commit. -/
theorem test_rws_write_waits_for_commit :
    rd (after (.registerWrite .spi (FQ.IN_CFG 0 0) 0x11) noon) (FQ.IN_CFG 0 0) = 0 ∧
    rdShadow (after (.registerWrite .spi (FQ.IN_CFG 0 0) 0x11) noon) (FQ.IN_CFG 0 0) = 0x11 := by decide +kernel

/-- Table 4.7: the status word of a hub in Noon at Operator level after one transaction. -/
theorem test_status_word : (after .spiStatus noon).host.out = [0x00, 0x02, 0x01, 0xa5] := by decide +kernel


/-- R332: POLY_DATA exists on page FLT0 only. -/
theorem test_poly_data_on_one_page :
    rdf (after (.polyDataWrite .spi 1 5) noon) (hdr pgHOST Hdr.ERRCODE) 0 8 = Rsn.ADDR ∧
    rd (after (.polyDataWrite .spi 0 5) noon) (FLT.POLY_ADDR 0) = 1 := by decide +kernel
-- spec/14, spec/08, spec/10

/-- The state with one slot replaced. -/
def slotted (s : State) (r : Nat) (x : SlotState) : State := onSlot s r (fun _ => x)

/-- An engine that runs. -/
def runs (s : State) (k : Nat) : State := onEng s k (fun e => { e with run := .running })

/-- The hub's lane has link. -/
def linked (s : State) (l : Lane) : State := onLane s l (fun x => { x with linkUp := true })

/-- A hub on the ring, linked on L0, L2 and L3, at address 5, which is the root or not. -/
def ringed (root : Bool) : State :=
  let s := linked (linked (linked (having noon [(RING.CFG, 1)]) .l0) .l2) .l3
  { s with ring := { s.ring with root := root, address := some 5, rootSerial := 9 } }

def aBeacon : Beacon := ⟨7, false, false, false, false, false, true, true, 255, 1, 1, 1, 0, 0⟩

def aRequest : AdmRequest := ⟨1, 6, 2, false, false, 0, 100, 65536⟩

/-- A frame with this body. -/
def rx (src : Mac) (b : FrameBody) : RxFrame := ⟨ctlMac, src, some 4, true, 100, b⟩

theorem test_hyp_motion_slot_events :
    (let s := slotted noon 47 { holds := [false, false, true] }; sound s = true ∧ (slotOf s 47).holds.getD (2 : Fin 3) false = true) ∧
    (let s := having noon [(AE.BU 11, 10), (MOT.AX_CFG 47, 3)]; sound s = true ∧ sampling s = true ∧ bit (axCfg s 47) 0 = true ∧ (slotOf s 47).st = .disabled ∧ buBoundary s (47 / 4) = true ∧ (slotOf s 47).enIdx ≤ now s ∧ (slotOf s 47).imageEn = false) ∧
    (let s := slotted (having (noonAt 100) [(AE.BU 11, 10)]) 47 { st := .arming, armIdx := 0 }; (slotOf s 47).st = .arming ∧ (slotOf s 47).armIdx + 100 ≤ now s ∧ buBoundary s (47 / 4) = true) ∧
    (let s := slotted (having (noonAt 100) [(AE.BU 11, 10)]) 47 { st := .run }; slotOn (slotOf s 47) = true ∧ bit (axCfg s 47) 0 = false ∧ buBoundary s (47 / 4) = true ∧ (slotOf s 47).enIdx ≤ now s) ∧
    (let s := slotted noon 0 { st := .fault, reaction := 2 }; (slotOf s 0).st = .fault ∧ (slotOf s 0).reaction = 2) ∧
    (let s := slotted noon 0 { st := .fault, cause := 4 }; sound s = true ∧ open? s .spi MOT.CTRL = true ∧ (slotOf s 0).st = .fault ∧ causePresent s 0 = false ∧ (engOf s (0 / 4)).run ≠ .fault) ∧
    (let s := having noon [(MOT.AX_RC 0, 3)]; open? s .spi MOT.CTRL = true ∧ rcMark s 0 = 3) ∧
    (let s := slotted (having (noonAt 200) [(MOT.AX_RC 0, 2), (MOT.AX_RC_PERIOD 0, 100)]) 0 { rcValid := true, mark := some 50 }; rcMark s 0 = 2 ∧ (slotOf s 0).rcValid = true ∧ 0 < rcPeriod s 0 ∧ (slotOf s 0).mark = some 50 ∧ rcPeriod s 0 + rcPeriod s 0 / 16 ≤ now s - 50) := by decide +kernel


theorem test_hyp_record_and_edge_events :
    (let s := runs (having noon [(AE.BU 11, 10)]) 11; sound s = true ∧ sampling s = true ∧ buBoundary s 11 = true ∧ bandsReady s 11 (now s) = true ∧ (engOf (writeBlock s 11 (now s)) 11).run = .running) ∧
    (let s := onChain noon 319 (fun x => { x with queue := [⟨1, 0, 5⟩] }); chainOfChannel 383 = some 319 ∧ (chainOf s 319).queue = [⟨1, 0, 5⟩]) ∧
    (let s := having noon [(FLT.SYNC_CFG 0, 3)]; rdb s (FLT.SYNC_CFG 0) 0 = true ∧ rdb s (FLT.SYNC_CFG 0) 1 = true ∧ s.flt.syncPin = none ∧ s.flt.syncAt = none) ∧
    (let s : State := { having noon [(FLT.SYNC_CFG 0, 1)] with flt := { syncPin := some 3 } }; rdb s (FLT.SYNC_CFG 0) 0 = true ∧ rdb s (FLT.SYNC_CFG 0) 1 = false ∧ s.flt.syncPin ≠ none) ∧
    (let s := having noon [(FLT.SYNC_AT_LO 0, 3)]; open? s .spi (FLT.SYNC_CMD 0) = true ∧ s.flt.syncAt = none ∧ gridValid s = true ∧ now s + 2 < rd64 s (FLT.SYNC_AT_LO 0)) ∧
    (let s : State := { noon with flt := { syncPin := some 0 } }; sound s = true ∧ s.flt.syncPin = some 0 ∧ 0 ≤ now s ∧ atTick s = true) ∧
    (sampling noon = true) := by decide +kernel


theorem test_hyp_lane_events :
    (let s := having noon [(LANE.CFG 3, 1)]; sound s = true ∧ laneReady s .l3 = true ∧ linkUpOn s .l3 = false ∧ s.pwr.st ≠ .dawn) ∧
    (let s := linked noon .l0; linkUpOn s .l0 = true ∧ s.pwr.st ≠ .dawn) ∧
    (let s := having noon [(LANE.CFG 0, 0x61)]; rdb s (LANE.CFG (laneIdx .l0)) 5 = true ∧ rdb s (LANE.CFG (laneIdx .l0)) 6 = true) ∧
    (let s := having noon [(LANE.PRBS_CFG 1, 0x21)]; rdb s (LANE.PRBS_CFG (laneIdx .l1)) 5 = true ∧ rdf s (LANE.PRBS_CFG (laneIdx .l1)) 0 3 ≠ 0) ∧
    (let s := onLane (having noon [(LANE.PRBS_CFG 1, 0x21)]) .l1 (fun x => { x with chkLock := true }); sound s = true ∧ (laneOf s .l1).chkLock = true ∧ rdb s (LANE.PRBS_CFG (laneIdx .l1)) 5 = true) ∧
    (open? noon .spi (LANE.PRBS_CFG (laneIdx .l2)) = true ∧ laneInUse noon .l2 = false) ∧
    (let s := ringed true; laneInUse s .l0 = true ∧ rdb s (LANE.PRBS_CFG (laneIdx .l0)) 4 = false ∧ rdb s (LANE.PRBS_CFG (laneIdx .l0)) 5 = false) := by decide +kernel


theorem test_hyp_ring_roles :
    (noon.pwr.st ≠ .dawn ∧ hubRuns noon = true) ∧
    (isRingPort .l1 = true ∧ ringOn (ringed false) = true ∧ (ringed false).pwr.st ≠ .dawn) ∧
    (ringReady (ringed true) = true ∧ (ringed true).ring.root = true ∧ hubRuns (ringed true) = true) ∧
    (let s := linked (having noon [(RING.CFG, 1)]) .l0; ringReady s = true ∧ s.ring.root = false ∧ s.ring.address = none ∧ findsRoot s = true) ∧
    (let s := onRing (ringed false) (fun r => { r with eastAt := some 0 }); hubRuns s = true ∧ s.ring.root = false ∧ s.ring.eastAt.isSome = true ∧ (rootCandidates s).contains s.serial = false) ∧
    (let s := having noon [(RING.CFG, 1)]; hubRuns s = true ∧ 3 ≤ s.pwr.dawnPhase ∧ s.ring.root = false ∧ s.ring.address = none ∧ ringLink s = false) ∧
    (let s := onRing (ringed true) (fun r => { r with closed := true }); s.ring.closed = true ∧ s.ring.root = true) := by decide +kernel


theorem test_hyp_admission_traffic :
    ((ringed true).ring.root = true ∧ (ringed true).ring.rebuilding = false) ∧
    (let s := onRing (ringed true) (fun r => { r with rebuilding := true }); s.ring.root = true ∧ s.ring.rebuilding = true) ∧
    (let s := onAdm (ringed false) (fun a => { a with waiting := [(1, 2, 0)] }); s.adm.waiting.find? (fun w => decide (w.1 = (⟨1, 5, 2, 0, 10, 0⟩ : AdmReply).request)) = some (1, 2, 0) ∧ s.ring.address = some 5 ∧ waitingFor s 2 = some (1, 2, 0)) ∧
    (let s := onRing (ringed false) (fun r => { r with reportDue := true }); s.ring.reportDue = true ∧ s.ring.address.isSome = true ∧ s.ring.root = false) := by decide +kernel


theorem test_hyp_received_frames :
    (let s := ringed true; sound s = true ∧ s.pwr.st ≠ .dawn ∧ hubRuns s = true ∧ isRingPort .l0 = true ∧ linkUpOn s .l0 = true ∧ ringOn s = true ∧ linkUpOn s .l2 = true ∧ linkUpOn s .l3 = true ∧ s.ring.root = true) ∧
    (let f := rx (ownMac (ringed true)) (.beacon aBeacon); f.fcsOk = true ∧ f.src = ownMac (ringed true) ∧ (match f.body with | .rootBeacon _ => false | _ => true) = true) := by decide +kernel


/-- R614: a slot that arms runs 100 indices later, and EVT.run (bit 1) of page MOT is set. -/
theorem test_slot_runs :
    let s := slotted (having (noonAt 100) [(AE.BU 11, 10)]) 47 { st := .arming, armIdx := 0 }
    (slotOf (after (.slotRun 47) s) 47).st = .run := by decide +kernel

/-- R317: an edge at SYNC of the configured polarity takes effect two indices later; its stamp holds two CLKT cycles that R45 takes off. -/
theorem test_sync_edge : (after (.syncEdge false 256160 .sound) (having (noonAt 40) [(FLT.SYNC_CFG 0, 1)])).flt.syncPin = some 42 := by
  decide +kernel

/-- R438: a frame of the hub's own is counted and removed. -/
theorem test_own_frame_removed :
    (after (.ringFrame .l0 (rx (ownMac (ringed true)) (.beacon aBeacon))) (ringed true)).sent = [] ∧
    rd (after (.ringFrame .l0 (rx (ownMac (ringed true)) (.beacon aBeacon))) (ringed true)) (LANE.RX_FRAMES 0) = 1 := by
  decide +kernel

/-- R456: the root answers a request of the hub itself; a held one waits for the ledger. -/
theorem test_request_held :
    (after (.admissionRequest aRequest) (onRing (ringed true) (fun r => { r with rebuilding := true }))).adm.held = [aRequest] := by
  decide +kernel
-- spec/09, spec/11

/-- A hub on the ring with PTP domain 0 in use, whose root has serial 9. -/
def timed (root : Bool) (d : DomainState) : State :=
  let s := having (ringed root) [(PTP.CFG 0, 0x100)]
  { s with time := { s.time with doms := [d, {}] } }

def aSync (port : Lane) : SyncMsg := ⟨port, 0, 5, 9, true, 0, 0, 1000⟩

def anAnnounce (port : Lane) : AnnounceMsg := ⟨port, 0, 9, 9, 128, 6, 0x21, 0x4e5d, 128, 0, 37, true⟩

theorem test_hyp_sync_messages :
    (let s := timed false { lastSeq := some 4 }; sound s = true ∧ s.pwr.st ≠ .dawn ∧ domOfNumber s 0 = some 0 ∧ s.ring.root = false ∧ (aSync (trackedPort s)).source = s.ring.rootSerial ∧ (trackedPort s = .l0 ∨ trackedPort s = .l1) ∧ s.pwr.warm.running = false ∧ seqNew (domOf s 0).lastSeq 5 = true ∧ seqNew (domOf s 0).lastSeq 4 = false) ∧
    (let s := timed true { l3 := 3, master := some (anAnnounce .l3) }; s.pwr.st ≠ .dawn ∧ domOfNumber s (aSync .l3).domain = some 0 ∧ s.ring.root = true ∧ (domOf s 0).l3 = 3 ∧ (domOf s 0).master = some (anAnnounce .l3) ∧ (anAnnounce .l3).source = (aSync .l3).source ∧ (aSync .l3).twoStep = true) ∧
    (let s := timed true { twoStep := some (aSync .l3) }; s.ring.root = true ∧ domOfNumber s 0 = some 0 ∧ (domOf s 0).twoStep = some (aSync .l3) ∧ (aSync .l3).seq = 5) := by decide +kernel


theorem test_hyp_delay_messages :
    (let s := timed true { l3 := 3, reqSeq := 7, reqSent := some 100, syncLeg := some 50 }; sound s = true ∧ s.ring.root = true ∧ domOfNumber s 0 = some 0 ∧ (domOf s 0).l3 = 3 ∧ (domOf s 0).reqSeq = 7 ∧ (domOf s 0).reqSent = some 100 ∧ (domOf s 0).syncLeg = some 50) ∧
    (let s := timed true { l3 := 2 }; s.ring.root = true ∧ domOfNumber s 0 = some 0 ∧ (domOf s 0).l3 = 2) ∧
    (isRingPort .l0 = true ∧ linkUpOn (ringed false) .l0 = true) ∧
    (let s := onPort noon .l1 (fun p => { p with seq := 3, sent := some 100 }); isRingPort .l1 = true ∧ (portOf s .l1).sent = some 100 ∧ (portOf s .l1).seq = 3) ∧
    ((portOf (onPort noon .l1 (fun p => { p with waiting := some (3, 7) })) .l1).waiting = some (3, 7)) := by decide +kernel


theorem test_hyp_masters_and_losses :
    (let s := timed true {}; sound s = true ∧ s.pwr.st ≠ .dawn ∧ s.ring.root = true ∧ (anAnnounce .l3).port = .l3 ∧ domOfNumber s 0 = some 0 ∧ (anAnnounce .l3).source ≠ s.serial ∧ (anAnnounce .l3).stepsRemoved < 255 ∧ bestForeign (noteForeign s 0 (anAnnounce .l3)) 0 = none) ∧
    (let s := noteForeign (timed true {}) 0 (anAnnounce .l3); bestForeign (noteForeign s 0 (anAnnounce .l3)) 0 = some (anAnnounce .l3)) ∧
    (let s := timed false {}; s.ring.root = false ∧ (anAnnounce .l1).source = s.ring.rootSerial ∧ domOfNumber s 0 = some 0) ∧
    (let s := timed false { servo := .locked }; domEn s (b2n false) = true ∧ s.ring.root = false ∧ b2n false = trackedIdx s ∧ (domOf s (b2n false)).servo = .locked) ∧
    ((domOf (timed false { servo := .acquire }) (trackedIdx (timed false { servo := .acquire }))).servo = .acquire) ∧
    (let s := timed false { servo := .locked }; servo s = .locked ∧ (rdb s TIME.CFG 1 && shadowOk s) = false) ∧
    (let s := having { timed false {} with time := { (timed false {}).time with doms := [{ servo := .locked }, { servo := .locked }] } } [(TIME.CFG, 2)]; servo s = .locked ∧ (rdb s TIME.CFG 1 && shadowOk s) = true) ∧
    (servo (timed false { servo := .holdover }) = .holdover) ∧
    (let s := timed true { l3 := 3 }; sendsPtp s (b2n false) = true ∧ (domOf s (b2n false)).l3 ≠ 2) ∧
    (let s := { service noon .spi with time := { (service noon .spi).time with doms := [{}, { servo := .locked }] } }; sound s = true ∧ open? s .spi TIME.CFG = true ∧ bit 1 0 ≠ s.time.tracked ∧ (domOf s (1 - trackedIdx s)).servo = .locked ∧ shadowOk s = true ∧ bit 0 0 = s.time.tracked) ∧
    (noon.clk.xlp = true ∧ noon.clk.xtime = true ∧ timePllOk noon = true ∧ hubOn noon = true) := by decide +kernel


theorem test_hyp_grid_start :
    (sound (ringed true) = true ∧ (ringed true).pwr.st ≠ .dawn ∧ (ringed true).ring.root = true) ∧
    (let s : State := { noon with time := { noon.time with gridStarted := false } }; s.time.gridStarted = false ∧ (⟨10000000, 1, false, 3⟩ : GridMsg).epoch ≠ epoch s ∧ (⟨10000000, 0, false, 3⟩ : GridMsg).epoch = epoch s ∧ servo s = .locked ∧ s.time.slewing = false ∧ s.time.ht + secLen / 10 ≤ (10000000 + 0) * tickLen) ∧
    (let s : State := { noonAt 100 with time := { (noonAt 100).time with gridStarted := false, gridAt := some 100 } }; s.time.gridAt = some 100 ∧ 100 ≤ now s ∧ atTick s = true ∧ s.pwr.warm.timeLost = false ∧ s.pwr.st ≠ .dawn) ∧
    ((onPwr noon (fun p => { p with resumeDue := true })).pwr.resumeDue = true) := by decide +kernel


/-- A hub whose stream 63 is ready to open: raw source 2, one record per second, a Felt of 64 MiB. -/
def opening : State := having (ringed false) [(STRM.CFG 63, 0x210), (STRM.RATE_LO 63, 0x10000), (VAT.FELT_SIZE, 64)]

def aQuire (n : Seq32) : FeltQuire := ⟨⟨63, .data, 5, 0, false, false, false, n, 0, []⟩, 0, none, none, false⟩

/-- Stream 63 as given. -/
def streamed (x : StreamState) : State := { ringed false with streams := (ringed false).streams.set 63 x }

theorem test_hyp_stream_opening :
    (sound opening = true ∧ open? opening .spi STRM.CTRL = true ∧ (strmOf opening 63).st = .idle ∧ opening.pwr.st ≠ .dusk ∧ strmRate opening 63 ≠ 0 ∧ selOk opening 63 = true ∧ strmSource opening 63 = 2 ∧ shareUnits opening 63 ≤ feltFree opening ∧ opening.ring.address ≠ none) ∧
    (let s : State := { opening with ring := {} }; open? s .spi STRM.CTRL = true ∧ (strmOf s 63).st = .idle ∧ selOk s 63 = true ∧ s.ring.address = none) ∧
    (let s : State := { having opening [(FLT.CH_CFG 0 0, 1), (FQ.IN_CFG 0 0, 0x11), (STRM.CFG 63, 0x10), (STRM.RATE_LO 63, 0x96800000), (STRM.RATE_LO 63 + 4, 0x98), (VAT.FELT_SIZE, 1024)] with strmSel := [(12 * 63, 1)] }; strmSource s 63 = 0 ∧ selOk s 63 = true ∧ (selRate s 63).1 * 65536 = strmRate s 63 * (selRate s 63).2 ∧ shareUnits s 63 ≤ feltFree s) ∧
    ((openChk opening 64).isSome = true ∧ (openChk noon 0).isSome = true) ∧
    ((strmOf (streamed { st := .running }) 63).st = .running ∧ open? (streamed { st := .running }) .spi STRM.CTRL = true) ∧
    ((strmOf (streamed { st := .requesting }) 63).st = .requesting ∧ (strmOf (streamed { st := .ended }) 63).st = .ended) ∧
    ((strmOf (streamed { st := .admitted }) 63).st = .admitted ∧ (strmOf (streamed { st := .admitted }) 63).start ≤ now (streamed { st := .admitted })) := by decide +kernel


theorem test_hyp_stream_delivery :
    (let s := streamed { st := .running, queue := [aQuire 0] }; sound s = true ∧ (strmOf s 63).queue = [aQuire 0]) ∧
    (let s := streamed { st := .running, felt := [aQuire 0] }; canSend s = true ∧ (strmOf s 63).felt.find? (fun f => f.first.isNone) = some (aQuire 0) ∧ mayPace s (strmOf s 63) (aQuire 0) = true ∧ takesRecords (strmOf s 63) = true ∧ (strmOf s 63).felt ≠ []) ∧
    (let q : FeltQuire := { aQuire 0 with first := some 0, again := true }; let s := streamed { st := .running, felt := [q] }; canSend s = true ∧ ((strmOf s 63).felt.all (fun f => !f.first.isNone)) = true ∧ (strmOf s 63).queue = [] ∧ (strmOf s 63).felt.find? (·.again) = some q ∧ s.adm.retxAt ≤ s.time.now ∧ (strmOf s 63).felt = [q] ∧ q.first.isSome = true) ∧
    (let s := streamed { st := .running, sent := 3, acked := 1 }; s.ring.address = some 5 ∧ open? s .spi (STRM.SEQ_ACKED 63) = true ∧ ((strmOf s 63).sent - (strmOf s 63).acked).toNat < ((4 : Seq32) - (strmOf s 63).acked).toNat) := by decide +kernel


/-- R484: an acknowledgement beyond the newest quire sent is refused and counted. -/
theorem test_ack_refused :
    rd (after (.seqAcked .spi 63 4) (streamed { st := .running, sent := 3, acked := 1 })) STRM.ACK_REFUSED = 1 := by decide +kernel

/-- Table 11.1: OPEN of stream 64 is refused with reason 0x40, and that of a stream without a rate with 0x43. -/
theorem test_open_refusals :
    rdf (after (.openStream .spi 64) opening) (hdr pgSTRM Hdr.ERRCODE) 0 8 = 0x40 ∧
    rdf (after (.openStream .spi 0) opening) (hdr pgSTRM Hdr.ERRCODE) 0 8 = 0x43 := by decide +kernel

/-- R478: an open stream asks the root. -/
theorem test_open_asks : (strmOf (after (.openStream .spi 63) opening) 63).st = .requesting ∧
    (after (.openStream .spi 63) opening).adm.waiting.length = 1 := by decide +kernel
-- spec/11, spec/12

/-- A command journal entry. -/
def entry (op : Nat) (st : JState) (args : List Word) : JEntry := ⟨1, op, st, 0, 0, 0, 0, false, false, .spi, args, 0, false⟩

/-- A hub with one command in its journal, table storage from the first byte of the Vat on. -/
def commanded (e : JEntry) : State := { having noon [(VAT.TABLE_SIZE, 2048), (VAT.FELT_SIZE, 0), (VAT.REAM_SIZE, 0)] with
  cmd := { nextSeq := 2, journal := [e] } }

def copyCmd (st : JState) (dst : Word) (len : Word) : JEntry := entry 0x02 st [0, dst, len, 0, 0, 0, 0, 0]

def zipCmd : JEntry := entry 0x20 .started [0, 0, 4096, 64, 0, 0, 0, 0]

theorem test_hyp_command_submission :
    (sound noon = true ∧ open? noon .spi CMD.SUBMIT = true ∧ opcKnown (0x103 % 256) = false ∧ opcKnown (0x101 % 256) = true ∧ opcLevel (0x101 % 256) ((List.range 8).map (fun i => ([] : List Word).getD i 0)) ≤ pathLevel noon .spi ∧ noon.pwr.st ≠ .dusk ∧ pendingCount noon < 16) ∧
    ((1 : Seq32) = noon.cmd.nextSeq ∧ (0 : Seq32) ≠ noon.cmd.nextSeq ∧ (noon.cmd.nextSeq - 1 - 0).toNat < 256) ∧
    (let s : State := { noon with cmd := { nextSeq := 300 } }; (43 : Seq32) ≠ s.cmd.nextSeq ∧ 256 ≤ (s.cmd.nextSeq - 1 - 43).toNat ∧ (s.cmd.nextSeq - 1 - 43).toNat < 2 ^ 31 ∧ (s.cmd.nextSeq - 1 - 44).toNat < 256) ∧
    ((2 : Seq32) ≠ noon.cmd.nextSeq ∧ 2 ^ 31 ≤ (noon.cmd.nextSeq - 1 - 2).toNat) := by decide +kernel


theorem test_hyp_command_execution :
    (let s := commanded (entry 0x01 .new []); memoryWf s = true ∧ runningCmd s = none ∧ nextCmd s = some (entry 0x01 .new []) ∧ cmdMayStart s (entry 0x01 .new []) = true) ∧
    (let e := copyCmd .started 4096 64; memoryWf (commanded e) = true ∧ runningOp (commanded e) 0x02 = some e ∧ trLen e = 64) ∧
    (let e : JEntry := { entry 0x10 .started [] with persistent := true }; runningCmd (commanded e) = some e ∧ e.persistent = true) ∧
    (let e := entry 0x21 .started [0, 11, 0x10000, 64, 1, 0, 0, 0]; runningOp (commanded e) 0x21 = some e ∧ tsKeep e = true) ∧
    (let e := entry 0x21 .started [0, 11, 0x10000, 64, 0, 0, 0, 0]; runningOp (commanded e) 0x21 = some e ∧ tsKeep e = false) ∧
    (let s := commanded zipCmd; runningOp s 0x20 = some zipCmd ∧ zipStreamRuns s zipCmd = true ∧ zipPaced s zipCmd = false ∧ zStream zipCmd = false ∧ (zipRun s zipCmd).code ≠ ZErr.OUTFULL ∧ (zipRun s zipCmd).code ≠ ZErr.ECC ∧ open? s .spi ZIP.CTRL = true) ∧
    (open? noon .spi ZIP.CTRL = true ∧ runningOp noon 0x20 = none) := by decide +kernel


theorem test_hyp_transfer_of_nothing :
    (let e := copyCmd .new 4096 0; runningCmd (commanded e) = none ∧ nextCmd (commanded e) = some e ∧ cmdMayStart (commanded e) e = true ∧ e.opcode = 0x02 ∧ trLen e = 0) ∧
    (let e := copyCmd .new 0x80000000 64; runningCmd (commanded e) = none ∧ nextCmd (commanded e) = some e ∧ cmdMayStart (commanded e) e = true ∧ e.opcode = 0x02 ∧ trLen e ≠ 0 ∧ inTable (commanded e) (trDst e) (trLen e) = false) := by decide +kernel


/-- Channel 0 enabled and selected by ream 15; 10 samples after a trigger; 1 MiB of the Vat for reams. -/
def reaming (x : ReamState) : State :=
  let s := having noon [(FLT.CH_CFG 0 0, 1), (CAPT.RM_POST 15, 10), (CAPT.RM_CFG 15, 0x10000), (VAT.REAM_SIZE, 1), (CAPT.ARM_AT_LO, 5)]
  { s with captSel := [(12 * 15, 1)], reams := s.reams.set 15 x }

/-- The same at a later sample index. -/
def reamingAt (n : Nat) (x : ReamState) : State := { reaming x with time := (noonAt n).time }

/-- The conditions on a ream that records all it selects, from one source without ring or mask. -/
def plainReam (s : State) (r : Nat) : Bool :=
  decide ((reamOf s r).st = .idle ∧ s.pwr.st ≠ .dusk ∧ reamChans s r ≠ [] ∧ reamUnits s r ≤ reamFree s ∧
    reamPlace s (reamUnits s r) ≠ none ∧ (rmPre s r ≠ 0 ∨ rmPost s r ≠ 0) ∧ rmKind s r = 0 ∧ rmRing s r = false ∧
    rmSpill s r = false ∧ rmMaskLen s r = 0) &&
  (reamChans s r).all (fun ch => (chanRate s ch).any (fun x => decide (x.1 * (reamRate s r).2 = (reamRate s r).1 * x.2)))

theorem test_hyp_ream_commands :
    (sound (reaming {}) = true ∧ open? (reaming {}) .spi CAPT.CTRL = true ∧ armChk (reaming {}) 15 none = none ∧ plainReam (reaming {}) 15 = true) ∧
    (armChk (reaming {}) 15 (some (rd64 (reaming {}) CAPT.ARM_AT_LO)) = none ∧ rd64 (reaming {}) CAPT.ARM_AT_LO = 5 ∧ gridValid (reaming {}) = true ∧ now (reaming {}) + 1 < 5) ∧
    (let s := reaming { st := .waiting }; tooEarly s 15 (now s + 1) = false ∧ tooEarly (reaming { st := .waiting, decided := 1, trigIdx := 50 }) 15 1 = true) ∧
    (let s := reamingAt 5 { st := .prefill, armIdx := 5 }; (reamOf s 15).st = .prefill ∧ (reamOf s 15).armIdx ≤ now s ∧ (reamOf s 15).started = false ∧ reamArmed (reamOf s 15) = true) ∧
    ((reamOf (reaming { st := .done }) 15).st = .done ∧ (reamOf (reaming { st := .stopped }) 15).st = .stopped ∧ (reamOf (reaming { st := .post }) 15).st = .post ∧ reamArmed (reamOf (reaming {}) 15) = false) ∧
    (let s := reamingAt 100000 { st := .waiting, cand := some ⟨50, 1, 5, 15, 0, 0⟩ }; rmRing s 15 = false ∧ (reamOf s 15).st = .waiting ∧ (reamOf s 15).cand = some ⟨50, 1, 5, 15, 0, 0⟩ ∧ 50 + ringWindow s ≤ now s) ∧
    (let s := having (reamingAt 10000 { st := .waiting, waitIdx := 0 }) [(CAPT.RM_AUTO 15, 1)]; (reamOf s 15).st = .waiting ∧ rdf s (CAPT.RM_AUTO 15) 0 16 ≠ 0 ∧ (reamOf s 15).waitIdx + rdf s (CAPT.RM_AUTO 15) 0 16 * 10000 ≤ now s) ∧
    (let s := reamingAt 100 { st := .holdoff, trigIdx := 50 }; (reamOf s 15).st = .holdoff ∧ holdEnd s 15 ≤ now s ∧ rmHoldEvents s 15 = false) := by decide +kernel


def aSegment : Segment := { number := 1, cand := ⟨50, 1, 5, 15, 0, 0⟩, pre := [] }

def aTrigger (n seg : Nat) : RingTrigger := ⟨3, 1, 6, 2, n, seg⟩

theorem test_hyp_segments_and_ring_triggers :
    (let s := reaming { st := .done, headers := [aSegment] }; sound s = true ∧ (reamOf s 15).headers = [aSegment]) ∧
    ((∀ r : Fin 16, rmRing noon r = false)) ∧
    (let s := reaming { st := .waiting, decided := 2 }; (reamOf s 15).st = .waiting ∧ (aTrigger 50 2).segment = (reamOf s 15).decided ∧ (reamOf s 15).decided < (aTrigger 50 3).segment ∧ (aTrigger 50 0).segment < (reamOf s 15).decided ∧ (aTrigger 50 0).segment + 1 ≠ (reamOf s 15).decided) ∧
    (let s := reaming { st := .post, decided := 2, trigIdx := 40 }; (reamOf s 15).st ≠ .waiting ∧ (aTrigger 50 1).segment + 1 = (reamOf s 15).decided ∧ (reamOf s 15).trigIdx ≤ (aTrigger 50 1).index) := by decide +kernel


/-- R498: four bytes copied. -/
theorem test_transfer :
    let e := copyCmd .started 4096 4
    let s := { commanded e with vat := [(0, 1), (3, 4)] }
    vatByte (after .transferDone s) 4096 = 1 ∧ vatByte (after .transferDone s) 4099 = 4 := by decide +kernel

/-- R495: NOP takes sequence 1 and stands in the journal as NEW. -/
theorem test_nop_accepted :
    (after (.cmdNop .spi 1 []) noon).cmd.nextSeq = 2 ∧
    (after (.cmdNop .spi 1 []) noon).cmd.journal.map (fun e => (e.seq, e.opcode, e.st)) = [(1, 1, .new)] := by decide +kernel

/-- R517, R519: a ream armed with pre = 0 leaves PREFILL for WAITING at its arming index. -/
theorem test_armed_ream_waits : (reamOf (after (.arm .spi 15) (reaming {})) 15).st = .waiting := by decide +kernel

-- spec/13, spec/15, spec/16

/-- `canIssue`, decided. -/
def may (s : State) (k : Nat) (reads : List Res) (c : EngCtx) : Bool :=
  decide ((engOf s k).stage = some c) && decide (c.free < rdf s (AE.LIMIT k) 0 16) &&
    decide (issueCycle c reads < rdf s (AE.LIMIT k) 0 16) && (decide (0x4000 ≤ c.pc) || !(engOf s k).bad.contains (4 * c.pc))

theorem canIssue_of_may (s : State) (k : Nat) (reads : List Res) (c : EngCtx) (h : may s k reads c = true) :
    canIssue s k reads c := by
  simp only [may, Bool.and_eq_true, decide_eq_true_eq, Bool.or_eq_true, Bool.not_eq_true', List.contains_eq_mem,
    decide_eq_false_iff_not] at h
  exact ⟨h.1.1.1, h.1.1.2, h.1.2, fun hp => h.2.resolve_left (by omega)⟩

/-- A stage of event 5 with scalars 1 to 3 set: a base in data memory, one among the edge ports, a table of four entries. -/
def aStage : EngCtx := { event := 5, pc := 7, block := {}, s := [0, 0x12000, 0x10400, 0x20000, 4] ++ List.replicate 11 0 }

/-- Engine 11 running that stage. -/
def staged (c : EngCtx) : State := onEng (having noon [(AE.LIMIT 11, 4000)]) 11 (fun e => { e with run := .running, stage := some c })

def allReads : List Res := [.p, .m, .t] ++ (List.range 16).flatMap (fun i => [.s i, .v i, .a i, .c i])

theorem test_hyp_engine_scalar :
    (sound (staged aStage) = true ∧ may (staged aStage) 11 [] aStage = true ∧ may (staged aStage) 11 allReads aStage = true) ∧
    ((5 : BitVec 10).toNat / 16 % 4 = 0 ∧ (21 : BitVec 10).toNat / 16 % 4 = 1 ∧ (37 : BitVec 10).toNat / 16 % 4 = 2 ∧ (53 : BitVec 10).toNat / 16 % 4 = 3) := by decide +kernel


theorem test_hyp_engine_vector :
    (rdb (staged aStage) (AE.CFG 11) 0 = false ∧ (3 : Fin 16).val ≤ 3 ∧ (5 : Fin 8).val ≤ 5) := by decide +kernel


def op (d a : Fin 16) (off : BitVec 16) : MemOp := ⟨d, a, 0, off⟩

theorem test_hyp_engine_memory :
    (let s := staged aStage; rdb s (AE.CFG 11) 0 = false ∧ may s 11 allReads aStage = true ∧ accessFault (engOf s 11) engReads true (sOf aStage 1).toNat [(sOf aStage 1).toNat + 4 * (3 : BitVec 16).toNat] = none ∧ accessFault (engOf s 11) engWrites false (sOf aStage 1).toNat [(sOf aStage 1).toNat + 4 * (3 : BitVec 16).toNat] = none) ∧
    (let s := staged aStage; (accessFault (engOf s 11) engReads true (sOf aStage 0).toNat [(sOf aStage 0).toNat + 0]).isSome = true) ∧
    (let s := staged aStage; let l := laneAddrs aStage (sOf aStage 1).toNat 3 0; l.length = 4 ∧ accessFault (engOf s 11) engReads true (sOf aStage 1).toNat (l.map (·.2)) = none ∧ accessFault (engOf s 11) engWrites false (sOf aStage 1).toNat (l.map (·.2)) = none) ∧
    (let s := staged aStage; let l := laneAddrs aStage (sOf aStage 2).toNat 0 0; (4 : Fin 16).val % 2 = 0 ∧ accessFault (engOf s 11) engPorts false (sOf aStage 2).toNat (l.map (·.2)) = none) ∧
    (let c : EngCtx := { aStage with m := 0 }; may (staged c) 11 allReads c = true ∧ laneAddrs c (sOf c 2).toNat 0 0 = []) := by decide +kernel


/-- Engine 11 with a pending event 4 whose vector is the word given. -/
def eventful (v : Word) : State :=
  onEng (having (noonAt 100) [(AE.BU 11, 10), (AE.VECT0 11 + 16, v)]) 11 (fun e => { e with run := .running, events := 16 })

theorem test_hyp_engine_flow :
    (let s := staged aStage; may s 11 allReads aStage = true ∧ aStage.free + 3 < rdf s (AE.LIMIT 11) 0 16 ∧ 4 * aStage.pc ∉ (engOf s 11).bad) ∧
    (let s := eventful 0xC000; (engOf s 11).run = .running ∧ (engOf s 11).stage = none ∧ pastStart s 11 = true ∧ nextEvent s 11 = some 4 ∧ 0x4000 ≤ fld (vectOf s 11 4) 0 15) ∧
    (let s := eventful 0x8010; (engOf s 11).run = .running ∧ (engOf s 11).stage = none ∧ pastStart s 11 = true ∧ nextEvent s 11 = some 4 ∧ fld (vectOf s 11 4) 0 15 < 0x4000) ∧
    (let s := staged aStage; accessFault (engOf s 11) engReads true (sOf aStage 1).toNat ((laneAddrs aStage (sOf aStage 1).toNat 0 0).map (·.2)) = none) ∧
    (let s := staged aStage; 0 < (sOf aStage 4).toNat ∧ (sOf aStage 4).toNat ≤ 16384 ∧ accessFault (engOf s 11) inTables true (sOf aStage 3).toNat ((activeLanes aStage).flatMap (fun i => tabAddrs ((laneVals (vOf aStage 0)).getD i Frac.zero) (sOf aStage 4).toNat (sOf aStage 3).toNat i true)) = none) := by decide +kernel


theorem test_hyp_engine_control :
    (sound noon = true ∧ open? noon .spi (AE.CTRL 11) = true ∧ (engOf noon 11).run = .halted ∧ engSlots noon 11 = 0) ∧
    (let s := onEng noon 11 (fun e => { e with run := .fault }); open? s .spi (AE.CTRL 11) = true ∧ (engOf s 11).run = .fault ∧ engSlots s 11 = 0) ∧
    (engSlots (slotted noon 47 { st := .run }) 11 ≠ 0) ∧
    (engSlots (staged aStage) 11 = 0 ∧ (engOf (staged aStage) 11).run = .running ∧ (engOf (staged aStage) 11).stage ≠ none) ∧
    ((engOf (eventful 0) 11).run = .running ∧ (engOf (eventful 0) 11).stage = none) ∧
    (let s := having (runs noon 11) [(AE.VECT0 11, 0x8010)]; (engOf s 11).run = .running ∧ bit (vectOf s 11 0) 15 = true ∧ (engOf s 11).events.getLsbD 0 = false) ∧
    (let s := onEng noon 11 (fun e => { e with replay := 1, staging := [⟨0, 0x12000, 4⟩] }); 0 < (engOf s 11).replay) ∧
    (0x5ffff / 4 * 4 < 0x60000 ∧ 0xffff / 4 * 4 < 0x10000 ∧ (engOf noon 11).bad.contains (0xffff / 4 * 4) = false) := by decide +kernel


/-- Channel 63 with a configuration. -/
def edged (cfg : Word) (x : EdgeState) : State := { having (noonAt 100) [(EDGE.CH_CFG 7 7, cfg)] with edges := noon.edges.set 63 x }

def anEdge (i : Fin 3) (together : Bool) : EncEdge :=
  { input := i, level := true, a := true, b := false, coarse := 5000, code := 255, together := together, ecc := .sound }

theorem test_hyp_edge_channels :
    (sound (edged 1 {}) = true ∧ chMode (edged 1 {}) 63 = 1 ∧ chRec (edged 1 {}) 63 ≠ 2 ∧ (anEdge 0 false).input.val = 0 ∧ (anEdge 0 false).together = false ∧ tooClose ({} : EdgeState) 0 5000 = false ∧ (anEdge 1 true).input.val ≠ 2 ∧ (anEdge 1 true).together = true ∧ tooClose { phaseAt := [some 7047, none, none] } 1 5000 = true ∧ tooClose { phaseAt := [some 7048, none, none] } 1 5000 = false) ∧
    (let s := edged 3 { start := some 1000 }; chMode s 63 = 3 ∧ chRec s 63 ≠ 2 ∧ chRec s 63 ≠ 3 ∧ (anEdge 1 false).input.val = 1 ∧ ((anEdge 1 false).level != bit (chCfg s 63) 9) = true ∧ (edgeOf s 63).start = some 1000) ∧
    (let s := having (edged 3 { start := some 1000 }) [(EDGE.CH_TMO 7 7, 3)]; chMode s 63 = 3 ∧ (edgeOf s 63).start = some 1000 ∧ 1000 + rdf s (EDGE.CH_TMO ((63 : Fin 64) / 8) ((63 : Fin 64) % 8)) 0 24 * stampTick < tickStamp s (now s + 1)) ∧
    (let s := having (edged 3 { start := some 1000 }) [(EDGE.CH_TMO 7 7, 0xffffff)]; chMode s 63 = 3 ∧ (edgeOf s 63).start = some 1000 ∧ tickStamp s (now s + 1) ≤ 1000 + rdf s (EDGE.CH_TMO ((63 : Fin 64) / 8) ((63 : Fin 64) % 8)) 0 24 * stampTick) ∧
    (chMode (edged 0 {}) 63 = 0) ∧
    (let s := having (edged 4 {}) [(EDGE.CH_SSI_T 7 7, 100)]; chMode s 63 = 4 ∧ 0 < rdf s (EDGE.CH_SSI_T ((63 : Fin 64) / 8) ((63 : Fin 64) % 8)) 0 16 ∧ now s % rdf s (EDGE.CH_SSI_T ((63 : Fin 64) / 8) ((63 : Fin 64) % 8)) 0 16 = 0 ∧ (edgeOf s 63).ssi = none ∧ drivesHub s = true) ∧
    (let s := having (edged 4 { ssi := some 0 }) [(EDGE.CH_SSI_T 7 7, 100)]; chMode s 63 = 4 ∧ 0 < rdf s (EDGE.CH_SSI_T ((63 : Fin 64) / 8) ((63 : Fin 64) % 8)) 0 16 ∧ (edgeOf s 63).ssi = some 0 ∧ bit (chSsi s 63) 7 = false) ∧
    (let s := having (edged 0x11 {}) [(EDGE.CH_REC 7 7, 100)]; sampling s = true ∧ chMode s 63 ≠ 0 ∧ chRec s 63 = 1 ∧ 0 < rdf s (EDGE.CH_REC ((63 : Fin 64) / 8) ((63 : Fin 64) % 8)) 0 16 ∧ now s % rdf s (EDGE.CH_REC ((63 : Fin 64) / 8) ((63 : Fin 64) % 8)) 0 16 = 0) ∧
    (open? noon .spi (EDGE.CTRL ((63 : Fin 64) / 8)) = true) := by decide +kernel


/-- Port 7, its block enabled or not. -/
def ported (on : Bool) (x : SprtState) : State :=
  { having noon [(hdr (pgSPRT 7) Hdr.PAGE_CTRL, word (b2n on))] with sports := noon.sports.set 7 x }

/-- The code groups of an uplink frame with ready set and nothing else in it. -/
def upFrame : List (BitVec 10) := (portGroups false ([0, 0, 1] ++ List.replicate 92 0)).map (BitVec.ofNat 10)

/-- A frame of zeros on the line is no frame. -/
def noFrame : List (BitVec 10) := List.replicate 100 0

theorem test_hyp_sensor_ports :
    (sound (ported false {}) = true ∧ blkOn (ported false {}) (pgSPRT 7) = false ∧ blkOn (ported true {}) (pgSPRT 7) = true) ∧
    (let s := ported true { st := Sp.TRAIN }; blkOn s (pgSPRT 7) = true ∧ (sprtOf s 7).st = Sp.TRAIN ∧ (sprtOf s 7).cmd = none ∧ (uplinkHeard s 7 noFrame 0).good = false ∧ (uplinkHeard s 7 upFrame 0).good = true ∧ (uplinkHeard s 7 upFrame 0).ready = true) ∧
    (let c : SprtCmd := { tag := 1, op := 5, args := [], host := true, chan := 0, due := false, resends := 2 }; (sprtOf (ported true { cmd := some c, frame := 100 }) 7).cmd = some c ∧ c.due = false ∧ c.sent + 100 ≤ (sprtOf (ported true { cmd := some c, frame := 100 }) 7).frame ∧ c.resends < 3) ∧
    (let c : SprtCmd := { tag := 1, op := 5, args := [], host := true, chan := 0, due := false, resends := 3 }; (sprtOf (ported true { cmd := some c, frame := 100 }) 7).cmd = some c ∧ c.due = false ∧ c.sent + 100 ≤ (sprtOf (ported true { cmd := some c, frame := 100 }) 7).frame ∧ 3 ≤ c.resends ∧ c.op ≠ 1 ∧ c.op ≠ 2 ∧ open? (ported true { cmd := some c }) .spi (SPRT.CTRL 7) = true) ∧
    (let s := having (ported true {}) [(SPRT.CMD_OP 7, 5)]; open? s .spi (SPRT.CTRL 7) = true ∧ (sprtOf s 7).cmd = none ∧ rdf s (SPRT.CMD_OP 7) 0 8 ≠ 1 ∧ rdf s (SPRT.CMD_OP 7) 0 8 ≠ 2 ∧ (sprtOf s 7).st = Sp.OFF) ∧
    ((sprtOf (ported true { st := Sp.HOLD }) 7).st = Sp.HOLD ∧ Sp.HOLD ≠ Sp.OFF) := by decide +kernel


/-- Chain 7 with one driver, and strobe 7 as given. -/
def lit (x : LiteState) (st : StrobeState) : State :=
  { having (noonAt 100) [(LITE.LD_CFG 7, 0x10001), (LITE.LATCH_AT_LO, 1150), (LITE.ST_WIDTH 7, 8), (LITE.ST_AT_LO 7, 500)] with
    lites := noon.lites.set 7 x, strobes := noon.strobes.set 7 st }

theorem test_hyp_lighting_and_strobes :
    (let s := lit { frame := some [0, 0, 0] } {}; sound s = true ∧ open? s .spi LITE.CTRL = true ∧ (liteOf s 7).frame ≠ none) ∧
    (let s := lit { frame := some [0, 0, 0], begun := some 0 } {}; (liteOf s 7).frame = some [0, 0, 0] ∧ (liteOf s 7).begun = some 0 ∧ s.time.now < 0 + 280 + 256 * [0, 0, 0].length ∧ (0 + 280 + 256 * [0, 0, 0].length) ≤ (noonAt 1048).time.now) ∧
    (let s := lit {} {}; open? s .spi LITE.CTRL = true ∧ (liteOf s 7).frame = none ∧ (liteOf s 7).sched = none ∧ (liteOf s 7).due = none ∧ ldLength s 7 = 1 ∧ gridValid s = true ∧ now s + 1 + (280 + 768 * ldLength s 7) < rd64 s LITE.LATCH_AT_LO) ∧
    (gridValid State.reset = false) ∧
    (let s := lit { due := some 100, line := true } {}; (liteOf s 7).frame = none ∧ (liteOf s 7).due = some 100 ∧ 100 ≤ s.time.now ∧ ldLength s 7 ≠ 0 ∧ lineRested s (liteOf s 7) = true ∧ refreshDue s 7 = true ∧ (liteOf s 7).sched = none) ∧
    (let s := lit {} {}; open? s .spi LITE.LVL_DATA = true ∧ open? s .spi LITE.ST_CTRL = true ∧ hostReady s = true ∧ stPeriod s 7 = 0 ∧ bit (stCfg s 7) 1 = false ∧ now s + 1 < rd64 s (LITE.ST_AT_LO 7)) ∧
    (let s := having (lit {} {}) [(LITE.ST_CFG 7, 2)]; bit (stCfg s 7) 1 = true ∧ stPeriod s 7 = 0) ∧
    (let s := lit {} { armed := true, fires := [100] }; (strobeOf s 7).fires = 100 :: [] ∧ stWidth s 7 ≠ 0 ∧ (100 : Nat) = now s ∧ (strobeOf s 7).active = false) ∧
    (let s := lit {} { armed := true, active := true, endsAt := 100 * tickLen + 1, fires := [100] }; (strobeOf s 7).fires = 100 :: [] ∧ stWidth s 7 ≠ 0 ∧ (100 : Nat) = now s ∧ strobeTime s 7 100 < (strobeOf s 7).endsAt ∧ strobeTime (lit {} { active := true, endsAt := 100 * tickLen, fires := [100] }) 7 100 = 100 * tickLen) ∧
    (let s := lit {} { armed := true, fires := [50] }; (strobeOf s 7).fires = 50 :: [] ∧ stWidth s 7 ≠ 0 ∧ 50 < now s) ∧
    (let s := lit {} { active := true, endsAt := 101 * tickLen }; (strobeOf s 7).endsAt = s.time.ht + tickLen ∧ (strobeOf (lit {} { active := true, endsAt := 101 * tickLen - 1 }) 7).endsAt < s.time.ht + tickLen) := by decide +kernel


/-- R546: SADDI adds a sign-extended immediate, and S0 keeps 0. -/
theorem test_saddi :
    ((engOf (after (.saddi 11 5 1 0x3ffff#18) (staged aStage)) 11).stage.map (fun c => c.s.getD 5 0)) = some 0x11fff ∧
    ((engOf (after (.saddi 11 0 1 1#18) (staged aStage)) 11).stage.map (fun c => c.s.getD 0 9)) = some 0 := by decide +kernel

/-- R649: an edge at A with B low counts up. -/
theorem test_quad_counts : (edgeOf (after (.encEdge 63 (anEdge 0 false)) (edged 1 {})) 63).count = 1 := by decide +kernel

/-- R698: a second SEND while a frame runs is refused with BUSY. -/
theorem test_send_busy :
    rdf (after (.sendNow .spi 7) (lit { frame := some [0, 0, 0] } {})) (hdr pgLITE Hdr.ERRCODE) 0 8 = Rsn.BUSY := by decide +kernel
-- spec/18, spec/19, spec/20, spec/21

/-- SPI at Safety level. -/
def secured (s : State) : State := { service s .spi with pins := { (service s .spi).pins with nsconf := false } }

/-- Challenge 1, 2, 3, 4 given by SPI, with a response. -/
def challenged (r : List Word) : State := onPath noon .spi (fun t => { t with challenge := some [1, 2, 3, 4], response := r })

/-- The right response of that hub, with no access key written. -/
def goodResponse : List Word := authResponse noon .spi [1, 2, 3, 4]

theorem test_hyp_calibration_runs :
    (sound (service noon .spi) = true ∧ open? (service noon .spi) .spi CAL.CTRL = true ∧ calBgFail noon = false ∧ calRunning noon = false) ∧
    (rdf (having noon [(CAL.PERIOD, 0x1ffff)]) CAL.PERIOD 0 17 ≠ 0 ∧ rdf (having noon [(CAL.PERIOD, 0)]) CAL.PERIOD 0 17 = 0) ∧
    (calBgFail (having noon [(CAL.STAT, 4)]) = true ∧ calRunning (having noon [(CAL.STAT, 1)]) = true ∧ calBgFail (having noon [(CAL.STAT, 1)]) = false) ∧
    (superSlot noon (.ts 0) = false ∧ superSlot (noonAt 40) (.ts 0) = true ∧ superSlot (noonAt 160) (.ts 3) = true ∧ superSlot (noonAt 200) .aoref = true ∧ superSlot (noonAt 240) .bgcap = true ∧ superSlot (noonAt 280) .vddq = true ∧ superSlot (noonAt 329) .agnd = true) := by decide +kernel


theorem test_hyp_service_access :
    (sound noon = true ∧ hostReady noon = true ∧ open? noon .spi FUSE.AUTH = true ∧ rdb noon FUSE.AUTH_STAT 2 = false ∧ (pathOf noon .spi).challenge = none) ∧
    (rdb (having noon [(FUSE.AUTH_STAT, 4)]) FUSE.AUTH_STAT 2 = true) ∧
    (let s := challenged []; open? s .spi FUSE.AUTH = true ∧ rdb s FUSE.AUTH_STAT 2 = false ∧ (pathOf s .spi).challenge = some [1, 2, 3, 4] ∧ (pathOf s .spi).response ≠ authResponse s .spi [1, 2, 3, 4]) ∧
    (let s := challenged goodResponse; open? s .spi FUSE.AUTH = true ∧ rdb s FUSE.AUTH_STAT 2 = false ∧ (pathOf s .spi).challenge = some [1, 2, 3, 4] ∧ (pathOf s .spi).response = authResponse s .spi [1, 2, 3, 4]) ∧
    ((pathOf (service noon .spi) .spi).service = true ∧ (pathOf noon .spi).service = false) := by decide +kernel


/-- Output 3 as given. -/
def outed (x : SafeOut) : State := { noonAt 0 with safe := { noon.safe with outs := noon.safe.outs.set 3 x, life := true } }

theorem test_hyp_safe_inputs_and_outputs :
    (sound noon = true ∧ safeOn noon = true ∧ noon.safe.held.getD (15 : Fin 16) none = none) ∧
    (let s : State := { noon with partSB := false }; sound s = true ∧ safeOn s = false) ∧
    (let s : State := { having noon [(SAFE.PAIR_CFG 7, 1)] with safe := { noon.safe with si := noon.safe.si.set 14 true } }; safeOn s = true ∧ pairEn s 7 = true ∧ pairKind s 7 ≠ 3 ∧ siLevel s (2 * 7) ≠ siLevel s (2 * 7 + 1)) ∧
    (safeOn (noonAt 375000) = true ∧ now (noonAt 375000) % 500000 = 125000 * 3) ∧
    (let s : State := { noon with safe := { noon.safe with tp := [false, false, false, true] } }; s.safe.tp.getD (3 : Fin 4) false = true ∧ s.safe.tp.getD (0 : Fin 4) false = false ∧ (tpChannels s 3).all (fun i => decide (s.safe.held.getD i none = none)) = true) ∧
    (let s : State := { having noon [(SAFE.PAIR_CFG 7, 0x131)] with safe := { noon.safe with tp := [false, true, false, false], held := noon.safe.held.set 14 (some true) } }; tpChannels s 1 = [14] ∧ s.safe.held.getD 14 none ≠ none ∧ s.safe.tp.getD (1 : Fin 4) false = true ∧ s.safe.sawLow.getD 14 false = false) ∧
    (let s : State := { having noon [(SAFE.PAIR_CFG 7, 0x131)] with safe := { noon.safe with held := noon.safe.held.set 14 (some true) } }; tpChannels s 1 = [14] ∧ s.safe.tp.getD (1 : Fin 4) false = false) ∧
    (let s : State := { outed { on := true } with time := (noonAt 437500).time }; safeOn s = true ∧ (outSt s 3).on = true ∧ (outSt s 3).test = none ∧ now s % 500000 = switchIndex s 3 ∧ (outSt s 3).hsfb ≠ hsdOn s 3 ∧ (outSt s 3).lsfb ≠ lsdOn s 3) ∧
    ((outSt (outed { on := true, test := some true }) 3).test ≠ none ∧ (outSt (outed { on := true, test := some true }) 3).hit = false) ∧
    ((outSt (outed { on := true, test := some true, hit := true }) 3).test ≠ none ∧ (outSt (outed { on := true, test := some true, hit := true }) 3).hit = true) ∧
    ((outSt (outed { on := true, ss1 := true }) 3).ss1 = true) := by decide +kernel


/-- Connection 31, a consumer or a producer, as given. -/
def connected (cfg : Word) (x : SafeConn) : State :=
  { having noon [(SAFE.SF_CFG 31, cfg), (SAFE.SF_AGE 31, 100)] with safe := { noon.safe with conns := noon.safe.conns.set 31 x } }

/-- A frame of that connection with a sequence. -/
def aSafe (dest : Nat) (seq : Seq32) : SafeMsg := ⟨0, 0, dest, false, true, seq, 0, 0, [1, 0, 0, 0, 0, 0, 0, 0], sfSignature (connected 1 {}) 31, true⟩

theorem test_hyp_safe_frames_and_resets :
    (let s := connected 3 {}; sound s = true ∧ safeOn s = true ∧ sfEn s 31 = true ∧ sfProduces s 31 = true ∧ sfCounterFails s 31 = false ∧ gridValid s = true) ∧
    (let s := connected 1 {}; safeOn s = true ∧ sfEn s 31 = true ∧ sfProduces s 31 = false ∧ (aSafe 9 1).crcOk = true ∧ (aSafe 9 1).dest ≠ ownHubId s ∧ (connSt s 31).cause = 0) ∧
    (let s := connected 1 { last := some 7 }; let m := aSafe (ownHubId s) 7; m.crcOk = true ∧ m.dest = ownHubId s ∧ m.source = sfPeer s 31 ∧ m.conn = sfId s 31 ∧ m.signature = sfSignature s 31 ∧ (connSt s 31).last = some 7 ∧ (m.seq - 7).toNat = 0) ∧
    (let s := connected 1 { last := some 7 }; 4 < ((aSafe (ownHubId s) 12).seq - 7).toNat) ∧
    (let s := connected 1 { last := some 7 }; let m := aSafe (ownHubId s) 11; (m.seq - 7).toNat = 4 ∧ m.timeValid = true ∧ gridValid s = true ∧ -10000 ≤ sfAge s m ∧ sfAge s m ≤ (rdf s (SAFE.SF_AGE 31) 0 20 * 1000 : Nat) ∧ (connSt s 31).reset = none) ∧
    (open? (secured noon) .spi SAFE.CTRL = true) := by decide +kernel


/-- A hub whose twin stands as given, in a power state, with its heartbeat configured. -/
def twinned (st : PowerState) (x : TwinState) : State :=
  { having (ringed false) [(TWIN.HB_PERIOD, 10), (TWIN.CFG, 1), (TWIN.MIRROR_CFG 11, 1)] with
    twin := x, pwr := { noon.pwr with st := st, dawnPhase := if st = .dawn then 2 else 11 } }

/-- A hub whose TWIN_KEY is written. -/
def keyed (s : State) : State := { s with fuses := [[.blank, .blank, .blank, .blank], [.written 7, .blank, .blank, .blank], [.blank, .blank, .blank, .blank], [.blank, .blank, .blank, .blank]] }

/-- What the exchange shows of a partner that fits, no engine mirrored: TWINID high, address 6, the same root and settings. -/
def aPartner (s : State) : List Word :=
  [10, 1, 1, 0x5384000b, 6, 9, 0, rd s TWIN.MIRROR_PERIOD] ++ (List.range 12).map (fun k => rd s (TWIN.MIRROR_CFG k)) ++
    List.replicate 12 0

theorem test_hyp_twin_pairing :
    (let s := having (keyed (twinned .noon {})) ((List.range 12).map (fun k => (TWIN.MIRROR_CFG k, 0))); isPaired s = false ∧ hubRuns s = true ∧ linkUpOn s .l2 = true ∧ bistHeld s pgTWIN = false ∧ pairRefuse s (aPartner s) true = 0 ∧ pairRefuse s (aPartner s) false = 3 ∧ fuseWritten (twinned .noon {}) 1 = false) ∧
    (let s := twinned .noon {}; isPaired s = false ∧ hubRuns s = true ∧ linkUpOn s .l2 = true ∧ bistHeld s pgTWIN = false ∧ hbPeriod s ≠ 0) ∧
    (let s := twinned .twilight { pair := .pairing }; s.twin.pair = .pairing ∧ s.pwr.st ≠ .dawn ∧ s.twin.active = false) ∧
    (isPaired (twinned .noon { pair := .paired }) = true) ∧
    (let s := twinned .noon { pair := .paired, active := true }; s.twin.active = true ∧ isPaired s = true ∧ mirrorMode s 11 ≠ 0 ∧ (engOf s 11).stage = none ∧ mirrorMode (having s [(TWIN.MIRROR_CFG 0, 0)]) 0 = 0 ∧ (engOf (onEng s 11 (fun e => { e with stage := some aStage })) 11).stage ≠ none) ∧
    (let s := twinned .twilight { pair := .snapshot }; isPaired s = true ∧ s.twin.active = false ∧ s.twin.pair = .snapshot ∧ shaped s = true) := by decide +kernel


/-- A handover of every engine at index 0. -/
def aHandover (losing : Bool) : Handover := { ns := 0, bounds := List.replicate 12 0, last := 0, losing := losing }

theorem test_hyp_twin_handover :
    (let s := twinned .noon { pair := .paired, partnerReady := true }; s.pwr.st = .noon ∧ s.twin.handover = none ∧ selects s true = false ∧ isPaired s = true ∧ s.twin.partnerReady = true) ∧
    (let s := twinned .noon {}; s.pwr.st = .noon ∧ s.twin.handover = none ∧ selects s true = false ∧ (isPaired s && s.twin.partnerReady) = false ∧ pairConfigured s = true) ∧
    (let s := twinned .twilight { pair := .paired }; s.pwr.st = .twilight ∧ s.twin.handover = none ∧ selects s false = true ∧ isPaired s = true ∧ selects s s.pins.arbsel = true) ∧
    (let s := twinned .twilight {}; s.pwr.st = .twilight ∧ s.twin.handover = none ∧ selects s false = true ∧ isPaired s = false) ∧
    (let s := twinned .noon { handover := some (aHandover true) }; s.twin.handover = some (aHandover true) ∧ (aHandover true).bounds.getD (11 : Fin 12) 0 ≤ now s ∧ (aHandover true).done.contains 11 = false ∧ (aHandover true).losing = true ∧ (aHandover false).losing = false) ∧
    ((twinned .twilight { takeAt := some 3 }).twin.takeAt = some 3 ∧ 3 + 3 ≤ now (noonAt 6)) ∧
    (let s := twinned .dawn { pair := .paired, partnerActive := true }; s.pwr.st = .dawn ∧ isPaired s = true ∧ selects s s.pins.arbsel = true ∧ s.twin.partnerActive = true) ∧
    (open? noon .spi TWIN.CTRL = true) := by decide +kernel


/-- A hub in a phase of Dawn. -/
def dawning (phase : Nat) (w : WarmReset) : State :=
  { pwr := { st := .dawn, rails := List.replicate 7 true, dawnPhase := phase, warm := w } }

theorem test_hyp_bring_up :
    ((dawning 2 {}).pwr.st = .dawn ∧ (dawning 2 {}).pwr.dawnPhase = 2 ∧ clocksOk (dawning 2 {}) = true) ∧
    ((dawning 3 {}).pwr.dawnPhase = 3 ∧ (dawning 3 {}).pwr.warm.running = false) ∧
    (let s := dawning 3 { running := true }; s.pwr.dawnPhase = 3 ∧ s.pwr.warm.running = true ∧ warmHeld s = false) ∧
    (warmActive (dawning 4 {}) = false ∧ (dawning 4 {}).pwr.dawnPhase = 4) ∧
    (let s := dawning 6 {}; warmActive s = false ∧ s.pwr.dawnPhase = 6 ∧ linkUpOn s .l2 = false ∧ bistFailed s = false) ∧
    (let s := dawning 9 {}; warmActive s = false ∧ 9 ∈ stallCauses s ∧ regsWf s = true) ∧
    (let l : List (Option (NvSlot ReamImage)) := [some ⟨4, some 4, true, imageOf noon 0 0⟩, none]; l.length = 2 ∧ ((activeOf l).elim 0 (·.gen)) = 4 ∧ activeSlot (readSlots l [⟨0, 0, true⟩, ⟨0, 0, true⟩]) = some 0 ∧ activeSlot (readSlots l [⟨0, 1, true⟩, ⟨0, 0, true⟩]) = none) := by decide +kernel


theorem test_hyp_errcode_cleared :
    (let s := having noon [(hdr 0 Hdr.ERRCODE, 0x0104)]; memoryWf s = true ∧ hostReady s = true ∧ onBlk 0 (fun _ _ => true) = true ∧ gateRej s (some .spi) (hdr 0 Hdr.ERRCODE) = none ∧ entryFails s (some .spi) (hdr 0 Hdr.ERRCODE) = false) := by decide +kernel


theorem test_hyp_invariants :
    (inForm noon = true ∧ goesOn (step (noon.withFront .watchdog)) = true ∧ goesOn (exec .watchdog noon) = true) ∧
    (fuseUsed { noon with fuses := [[.written 7, .blank, .blank, .blank], [.blank, .blank, .blank, .blank], [.blank, .blank, .blank, .blank], [.void, .blank, .blank, .blank]] } 3 0 = true) := by decide +kernel


/-- R764: the right response enters Service level and uses up the challenge. -/
theorem test_service_level :
    (pathOf (after (.authEnter .spi) (challenged goodResponse)) .spi).service = true ∧
    (pathOf (after (.authEnter .spi) (challenged goodResponse)) .spi).challenge = none := by decide +kernel

/-- R806, Table 19.5: a frame to another hub is cause 2. -/
theorem test_foreign_safeframe : (connSt (after (.safeframe 31 (aSafe 9 1)) (connected 1 {})) 31).cause = 2 := by decide +kernel

/-- R828: an unpaired hub in Noon that ARBSEL no longer selects sets EVT bit 3 of page TWIN and keeps its outputs. -/
theorem test_arb_mismatch :
    rdb (after (.arbselChange true) (twinned .noon {})) (hdr pgTWIN Hdr.EVT) 3 = true := by decide +kernel

/-- R2: the device word. -/
theorem test_device : rd State.reset SYS.DEVICE = 0x5384000b#32 := by decide +kernel
-- WellFormed: an ill-formed term for each check, which the check refuses, beside a well-formed one at the bound

def aQueueCmd (n : Nat) : Instr := .queueClear .spi n

theorem test_wf_pages_and_addresses :
    ((Instr.queueFull 256).wellFormed, (Instr.queueFull 255).wellFormed) = (false, true) ∧
    ((aQueueCmd 256).wellFormed, (aQueueCmd 255).wellFormed) = (false, true) ∧
    ((Instr.keeperRelease true 12).wellFormed, (Instr.keeperRelease true 11).wellFormed) = (false, true) ∧
    ((Instr.keeperRelease false 144).wellFormed, (Instr.keeperRelease false 143).wellFormed) = (false, true) ∧
    ((Instr.releasedNetEdge true 12).wellFormed, (Instr.releasedNetEdge false 143).wellFormed) = (false, true) ∧
    [Instr.commitApplyNow .spi 4096, .commitApplyAt .spi 4096, .commitCancel .spi 4096, .scheduledCommit 4096,
      .pageEnable .spi 4096 true, .blockReset .spi 4096, .freeze .spi 4096 true, .errcodeClear .spi 4096 1,
      .polyDataWrite .spi 40 0, .polyDataRead .spi 40, .redMinRead .spi 40 0].all (fun c => !c.wellFormed) = true ∧
    [Instr.commitApplyNow .spi 4095, .commitApplyAt .spi 4095, .commitCancel .spi 4095, .scheduledCommit 4095,
      .pageEnable .spi 4095 true, .blockReset .spi 4095, .freeze .spi 4095 true, .errcodeClear .spi 4095 1,
      .polyDataWrite .spi 39 0, .polyDataRead .spi 39, .redMinRead .spi 39 7].all (·.wellFormed) = true ∧
    [Instr.registerWrite .spi 0x1000000 0, .loRead .spi 0x1000000, .spiRead 0x100000000 1 false 0 true, .spiWrite 0x100000000 [] false,
      .spiReadReq 0x100000000 1 false].all (fun c => !c.wellFormed) = true ∧
    [Instr.registerWrite .spi 0xffffff 0, .loRead .spi 0xffffff, .spiRead 0xffffffff 1 false 0 true, .spiWrite 0xffffffff [] false,
      .spiReadReq 0xffffffff 1 false].all (·.wellFormed) = true := by decide +kernel

theorem test_wf_frames :
    [{ accFrame 1 0 with version := 256 }, { accFrame 1 0 with op := 256 }, { accFrame 1 0 with hub := 65536 },
      { accFrame 1 0 with session := 256 }, { accFrame 1 0 with count := 256 }, { accFrame 1 0 with address := 2 ^ 32 }].all
      (fun f => !(Instr.ringRead f).wellFormed && !(Instr.ringWrite f).wellFormed) = true ∧
    ((Instr.ringRead (accFrame 1 0)).wellFormed, (Instr.ringWrite (accFrame 2 0)).wellFormed) = (true, true) ∧
    ((Instr.ringFrame .l0 { rx 1 (.beacon aBeacon) with bytes := 65536 }).wellFormed,
      (Instr.l3Frame { rx 1 (.beacon aBeacon) with bytes := 65536 }).wellFormed,
      (Instr.ringFrame .l0 (rx 1 (.beacon aBeacon))).wellFormed, (Instr.l3Frame (rx 1 (.beacon aBeacon))).wellFormed) =
      (false, false, true, true) ∧
    ((Instr.discoveryBeacon .l0 { aBeacon with serial := 2 ^ 64 }).wellFormed,
      (Instr.discoveryBeacon .l0 aBeacon).wellFormed) = (false, true) ∧
    ((Instr.rootBeacon .l0 ⟨0, 2 ^ 64, 0, true, false, 1⟩).wellFormed, (Instr.rootBeacon .l0 ⟨0, 1, 0, true, false, 1⟩).wellFormed) =
      (false, true) ∧
    ((Instr.addressAssignment ⟨1, 0, 600, [(1, 64)]⟩).wellFormed, (Instr.addressAssignment ⟨1, 0, 600, [(1, 63)]⟩).wellFormed) =
      (false, true) ∧
    ((Instr.ringBreak .l0 64 0 true).wellFormed, (Instr.ringBreak .l0 0 64 true).wellFormed, (Instr.ringBreak .l0 63 63 true).wellFormed) =
      (false, false, true) ∧
    [{ aRequest with hub := 64 }, { aRequest with stream := 128 }].all (fun r => !(Instr.admissionRequest r).wellFormed &&
      !(Instr.admissionRelease r).wellFormed) = true ∧
    ((Instr.admissionRequest aRequest).wellFormed, (Instr.admissionRelease aRequest).wellFormed) = (true, true) ∧
    ((Instr.admissionReply ⟨1, 64, 2, 0, 10, 0⟩).wellFormed, (Instr.admissionReply ⟨1, 63, 127, 0, 10, 0⟩).wellFormed) = (false, true) ∧
    ((Instr.acknowledgement ⟨64, 0, false, 0, 0⟩).wellFormed, (Instr.acknowledgement ⟨0, 128, false, 0, 0⟩).wellFormed,
      (Instr.acknowledgement ⟨63, 127, false, 0, 0⟩).wellFormed) = (false, false, true) ∧
    ((Instr.ringTrigger { aTrigger 0 0 with hub := 64 }).wellFormed, (Instr.ringTrigger (aTrigger 0 0)).wellFormed) = (false, true) ∧
    ((Instr.syncMessage { aSync .l0 with domain := 256 }).wellFormed, (Instr.syncMessage (aSync .l0)).wellFormed) = (false, true) ∧
    ((Instr.announce { anAnnounce .l3 with domain := 256 }).wellFormed, (Instr.announce (anAnnounce .l3)).wellFormed) = (false, true) ∧
    [Instr.followUp 256 0 0 0, .delayReq 256 .send, .delayResp 256 0 0 0].all (fun c => !c.wellFormed) = true ∧
    [Instr.followUp 255 0 0 0, .delayReq 255 .send, .delayResp 255 0 0 0].all (·.wellFormed) = true := by decide +kernel

theorem test_wf_commands :
    [Instr.cmdNop .spi 1, .cmdTransfer .spi 1, .cmdReamStore .spi 1, .cmdCalStore .spi 1, .cmdFuseWrite .spi 1, .cmdZipJob .spi 1,
      .cmdTableStage .spi 1].all (fun c => !(c []).wellFormed && (c (List.replicate 8 0)).wellFormed) = true ∧
    ((Instr.unknownOpcode .spi 256 1).wellFormed, (Instr.unknownOpcode .spi 0x20 1).wellFormed,
      (Instr.unknownOpcode .spi 255 1).wellFormed) = (false, false, true) ∧
    [Instr.openStream .spi 128, .closeStream .spi 128, .clearStream .spi 128, .motClearFault .spi 64, .cycleMark .spi 64,
      .filteredRecord 128, .filteredRecord 384, .sramScrub 0 2 false, .ssiTransferDone 0 true (List.replicate 34 false),
      .pairingRetry [] 0 (List.replicate 8 0), .pairingRetry (List.replicate 32 0) 0 [], .dawnStall 16].all (fun c => !c.wellFormed) = true ∧
    [Instr.openStream .spi 127, .closeStream .spi 127, .clearStream .spi 127, .motClearFault .spi 63, .cycleMark .spi 63,
      .filteredRecord 127, .filteredRecord 192, .filteredRecord 383, .sramScrub 0 4 false,
      .ssiTransferDone 0 true (List.replicate 33 false), .pairingRetry (List.replicate 32 0) 0 (List.replicate 8 0), .dawnStall 15].all
      (·.wellFormed) = true ∧
    ((Instr.uplinkFrame 0 noFrame 0).wellFormed, (Instr.uplinkFrame 0 (noFrame.drop 1) 0).wellFormed) = (true, false) ∧
    ((Instr.interpolatorTable 0 2 (List.replicate 256 256)).wellFormed, (Instr.interpolatorTable 0 2 (List.replicate 256 255)).wellFormed,
      (Instr.interpolatorTable 0 2 [65536]).wellFormed) = (true, false, false) ∧
    ((Instr.sliceCalibrationDone 0 { weights := [], offset := 0, gain := 0 }).wellFormed,
      (Instr.sliceCalibrationDone 0 { weights := List.replicate 6 0, offset := 0, gain := 0 }).wellFormed) = (false, true) ∧
    ((Instr.ledgerReport ⟨64, 0, 1, []⟩).wellFormed, (Instr.ledgerReport ⟨63, 0, 1, []⟩).wellFormed) = (false, true) := by
  decide +kernel

/-- The worked example of R827: 12 engines in mode 2 at 4 µs on 25GBASE-R. -/
theorem test_l2_load_of_the_worked_example : twinView noon 0x60 = some 318 := by decide +kernel

/-- No AXr_BAND names AIN127: 0x7F means none (R602). -/
theorem test_no_band_is_no_input : isBand noon 127 = false ∧ bandSlot noon 127 = none := by decide +kernel

/-- R665, IEEE 802.3 Clause 36: K28.5 and D0.0 at negative disparity. -/
theorem test_line_code : codeComma false = (0b0011111010, true) ∧ codeData false 0 = (0b1001110100, false) := by decide +kernel

/-- Tables 4.5 and 4.6: the bytes of a READ in both profiles. -/
theorem test_spi_bytes : spiBytes false (.read 0x1234) = [0x0b, 0x00, 0x12, 0x34] ∧
    spiBytes true (.read 0x1234) = [0x0b, 0xf4, 0x00, 0x00, 0x12, 0x34] := by decide +kernel

/-- R71: the IDCODE register, least significant bit first. -/
theorem test_idcode : tapData State.reset = some ((List.range 32).map (fun i => some ((0x5384000b : Word).getLsbD i))) := by
  decide +kernel

/-- R692: a frame to one driver lasts 4 µs, 76.8 µs and 24 µs. -/
theorem test_frame_time : symsNs (frameSyms [0, 65535, 1]) = 4000 + 76800 + 24000 := by decide +kernel

/-- R169: a READ whose data comes too late sends zeros, with late in its status word. -/
theorem test_late_read : (after (.spiRead 0x1040 1 false 0 false) noon).host.out = [0x06, 0x02, 0x01, 0xa5, 0, 0, 0, 0] := by
  decide +kernel

/-- RingAccess, SensorPorts and LightingAndStrobes: what the clauses on the bytes of a frame, the symbols of a port and the pulses of
a chain ask, met by frames that carry something. -/
theorem test_hyp_wire_clauses :
    (∀ f ∈ [accFrame 1 0, accFrame 2 7], f.version < 256 ∧ f.op < 256 ∧ f.hub < 65536 ∧ f.session < 256 ∧ f.count < 256 ∧
      f.address < 2 ^ 32 ∧ f.data.length = (if f.op = 2 then f.count else 0) ∧ accessOf f.mac (accessBytes f) = some f) ∧
    ((List.range 95).map (BitVec.ofNat 8)).length = 95 ∧
    (∀ d ∈ [({} : Driver), {}], d.broken = false) ∧ [1, 2, 3, 4, 5, 65535].length = 3 * [({} : Driver), {}].length := by decide +kernel

/-- The table gives no bits, so no word spells a command. -/
theorem test_no_word_spells_a_command : decodeTableWord 32 1 = none ∧ State.reset.withFetchWord 32 1 = State.reset := by decide +kernel

end Sys2Proof.Tests
end

section
/-!
PROOF. Warm-reset requests (R113, R119, R129): what `requestWarm` answers in a running hub, with no warm reset running and while
one runs, and the settling of O9 from it.
-/
namespace Sys2Proof.Machine

-- the two register updates of a request

/-- The hub with the FAULT_SRC bits of cause `c` set (R129). -/
def faultsNoted (s : State) (c : Nat) : State := wr s PWR.FAULT_SRC (rd s PWR.FAULT_SRC ||| word (causeFaults c))

/-- The hub whose running warm reset has taken in a request for cause `c`: FAULT_SRC and RST_CAUSE are updated (R119, R129). -/
def causeMerged (s : State) (c : Nat) : State :=
  wr (faultsNoted s c) PWR.RST_CAUSE (rd (faultsNoted s c) PWR.RST_CAUSE ||| word c)

theorem rst_cause_ne_fault_src : PWR.RST_CAUSE ≠ PWR.FAULT_SRC := by decide

theorem regsWf_of_memoryWf {s : State} (h : memoryWf s = true) : regsWf s = true := by
  simp only [memoryWf, Bool.and_eq_true] at h
  exact h.2

@[simp] theorem warmActive_wr (s : State) (a : Nat) (v : Word) : warmActive (wr s a v) = warmActive s := rfl

@[simp] theorem faultsNoted_pwr (s : State) (c : Nat) : (faultsNoted s c).pwr = s.pwr := rfl

@[simp] theorem causeMerged_pwr (s : State) (c : Nat) : (causeMerged s c).pwr = s.pwr := rfl

theorem rd_faultsNoted_same {s : State} (c : Nat) (h : regsWf s = true) :
    rd (faultsNoted s c) PWR.FAULT_SRC = rd s PWR.FAULT_SRC ||| word (causeFaults c) := rd_wr_same _ _ h

theorem regsBut_faultsNoted (s : State) (c : Nat) : RegsBut [PWR.FAULT_SRC] s (faultsNoted s c) := regsBut_wr _ _ _

theorem sameBut_faultsNoted (s : State) (c : Nat) : SameBut [.pwr, .regs] s (faultsNoted s c) :=
  frame_wr (by decide) (SameBut.refl _ _)

theorem rd_causeMerged_faultSrc {s : State} (c : Nat) (h : regsWf s = true) :
    rd (causeMerged s c) PWR.FAULT_SRC = rd s PWR.FAULT_SRC ||| word (causeFaults c) :=
  (rd_wr_other _ rst_cause_ne_fault_src.symm).trans (rd_faultsNoted_same c h)

theorem rd_causeMerged_rstCause {s : State} (c : Nat) (h : regsWf s = true) :
    rd (causeMerged s c) PWR.RST_CAUSE = rd s PWR.RST_CAUSE ||| word c := by
  have hkept : rd (faultsNoted s c) PWR.RST_CAUSE = rd s PWR.RST_CAUSE := rd_wr_other _ rst_cause_ne_fault_src
  have hwf : regsWf (faultsNoted s c) = true := regsWf_wr _ _ h
  rw [causeMerged, rd_wr_same _ _ hwf, hkept]

theorem regsBut_causeMerged (s : State) (c : Nat) : RegsBut [PWR.FAULT_SRC, PWR.RST_CAUSE] s (causeMerged s c) :=
  ((regsBut_faultsNoted s c).mono (by decide)).trans ((regsBut_wr _ _ _).mono (by decide))

theorem sameBut_causeMerged (s : State) (c : Nat) : SameBut [.pwr, .regs] s (causeMerged s c) :=
  frame_wr (by decide) (sameBut_faultsNoted s c)

-- the time restarted as unlocked (R101)

theorem sameBut_seedTime (s : State) : SameBut [.time, .freeCtr] s (seedTime s) :=
  frame_seedTime s (by decide) (SameBut.refl _ _)

@[simp] theorem seedTime_pwr (s : State) : (seedTime s).pwr = s.pwr := sameBut_seedTime s .pwr (by decide)

@[simp] theorem rd_seedTime (s : State) (a : Nat) : rd (seedTime s) a = rd s a :=
  rd_congr (sameBut_seedTime s .regs (by decide)) a

-- what a request does in a running hub

/-- With no warm reset running, a request keeps its cause for RST_CAUSE and asks for one. -/
theorem requestWarm_of_not_active {s : State} (c : Nat) (lost : Bool) (hon : hubOn s = true) (hw : warmActive s = false) :
    requestWarm s c lost = onPwr (faultsNoted s c) (fun p => { p with
      causes := addCauses p.causes c, warm := { p.warm with requested := true, timeLost := p.warm.timeLost || lost } }) := by
  simp [requestWarm, faultsNoted, hon, hw]

/-- While a warm reset runs, a request merges into it: its cause goes to RST_CAUSE, and the time starts afresh where the time PLL
is lost for the first time. -/
theorem requestWarm_of_active {s : State} (c : Nat) (lost : Bool) (hon : hubOn s = true) (hw : warmActive s = true) :
    requestWarm s c lost =
      if lost && !s.pwr.warm.timeLost then
        seedTime (onPwr (causeMerged s c) (fun p => { p with warm := { p.warm with timeLost := true } }))
      else causeMerged s c := by
  simp [requestWarm, causeMerged, faultsNoted, hon, hw]

theorem requestWarm_of_active_kept {s : State} (c : Nat) (hon : hubOn s = true) (hw : warmActive s = true) :
    requestWarm s c false = causeMerged s c := by
  simp [requestWarm_of_active c false hon hw]

/-- A merged request changes nothing of the warm reset but the note that the time is lost. -/
theorem requestWarm_pwr_of_active {s : State} (c : Nat) (lost : Bool) (hon : hubOn s = true) (hw : warmActive s = true) :
    (requestWarm s c lost).pwr =
      { s.pwr with warm := { s.pwr.warm with timeLost := s.pwr.warm.timeLost || lost } } := by
  rw [requestWarm_of_active c lost hon hw]
  split
  case isTrue hfirst =>
    have hlost : lost = true := (Bool.and_eq_true_iff.1 hfirst).1
    simp [hlost]
  case isFalse hkept =>
    have hsame : (s.pwr.warm.timeLost || lost) = s.pwr.warm.timeLost := by
      cases lost <;> simp_all
    rw [hsame, causeMerged_pwr]

theorem rd_rstCause_requestWarm_of_active {s : State} (c : Nat) (lost : Bool) (hwf : regsWf s = true)
    (hon : hubOn s = true) (hw : warmActive s = true) :
    rd (requestWarm s c lost) PWR.RST_CAUSE = rd s PWR.RST_CAUSE ||| word c := by
  rw [requestWarm_of_active c lost hon hw, ← rd_causeMerged_rstCause c hwf]
  split
  · rw [rd_seedTime, rd_onPwr]
  · rfl

theorem rd_faultSrc_requestWarm {s : State} (c : Nat) (hwf : regsWf s = true) (hon : hubOn s = true) :
    rd (requestWarm s c false) PWR.FAULT_SRC = rd s PWR.FAULT_SRC ||| word (causeFaults c) := by
  cases hw : warmActive s with
  | false =>
    rw [requestWarm_of_not_active c false hon hw, rd_onPwr]
    exact rd_faultsNoted_same c hwf
  | true =>
    rw [requestWarm_of_active_kept c hon hw]
    exact rd_causeMerged_faultSrc c hwf

/-- A request that loses no time PLL touches the registers and the power state only. -/
theorem sameBut_requestWarm {s : State} (c : Nat) (hon : hubOn s = true) :
    SameBut [.pwr, .regs] s (requestWarm s c false) := by
  cases hw : warmActive s with
  | false =>
    rw [requestWarm_of_not_active c false hon hw]
    exact frame_onPwr _ _ (by decide) (sameBut_faultsNoted s c)
  | true =>
    rw [requestWarm_of_active_kept c hon hw]
    exact sameBut_causeMerged s c

/-- Settles O9: the two cases of a request, by whether a warm reset runs. -/
theorem warmResetRequest : Obligations.WarmResetRequest := by
  unfold Obligations.WarmResetRequest
  intro s c hmem hon
  have hwf := regsWf_of_memoryWf hmem
  refine ⟨_, rfl, sameBut_requestWarm c hon, rd_faultSrc_requestWarm c hwf hon, ?_, ?_, ?_, rfl⟩
  · intro hw
    rw [requestWarm_of_not_active c false hon hw]
    exact ⟨regsBut_faultsNoted s c, rfl, rfl, Bool.or_false _⟩
  · intro hw
    rw [requestWarm_of_active_kept c hon hw]
    exact ⟨regsBut_causeMerged s c, rfl, rd_causeMerged_rstCause c hwf⟩
  · intro lost hw
    exact ⟨_, rfl, frame_requestWarm s c lost (by decide) (SameBut.refl _ _),
      rd_rstCause_requestWarm_of_active c lost hwf hon hw, requestWarm_pwr_of_active c lost hon hw⟩

end Sys2Proof.Machine
end

section
/-!
PROOF. Host writes to ERRCODE (R141): the header write that passes its gate, the entry that its page's journal may take (R768),
the clear itself, and the settling of O59 from these.
-/
namespace Sys2Proof.Machine

-- the address of a header register

theorem pageOf_hdr {g o : Nat} (ho : o < 0x1000) : pageOf (hdr g o) = g := by
  unfold pageOf hdr
  omega

theorem offOf_hdr {g o : Nat} (ho : o < 0x1000) : offOf (hdr g o) = o := by
  unfold offOf hdr
  omega

/-- The register pages lie below 0x100000 (Table 4.1). -/
theorem hdr_lt {g o : Nat} (hg : g < 256) (ho : o < 0x1000) : hdr g o < 0x100000 := by
  unfold hdr
  omega

/-- Two header registers at different offsets have different addresses, on one page or on two. -/
theorem hdr_ne_of_off_ne {g k o q : Nat} (ho : o < 0x1000) (hq : q < 0x1000) (h : o ≠ q) : hdr g o ≠ hdr k q := by
  intro he
  exact h (by rw [← offOf_hdr (g := g) ho, he, offOf_hdr hq])

-- a header write that passes its checks

/-- A word written to a header register of a page that is present goes to that register. -/
theorem writeWord_hdr {s : State} {w : Who} {g o i : Nat} {b : Blk} (v : Word) (hg : g < 256) (ho : o < 0x40)
    (halign : o % 4 = 0) (hb : blkOfPage g = some (b, i)) :
    writeWord s w (hdr g o) v = writeHeaderReg s w b i g o v := by
  have hsmall : o < 0x1000 := by omega
  have haligned : hdr g o % 4 = 0 := by unfold hdr; omega
  simp only [writeWord, haligned, hdr_lt hg hsmall, pageOf_hdr hsmall, offOf_hdr hsmall, hb, ho, ne_eq, not_true_eq_false,
    if_true, if_false]

/-- A header write that no check refuses, and whose journal entry can be stored, acts on the state that holds the entry. -/
theorem writeHeaderReg_accepted {s : State} {w : Who} {b : Blk} {i g o : Nat} {v : Word}
    (hrej : headerRej s w b i g o v = none) (hentry : entryFails s w (hdr g o) = false) :
    writeHeaderReg s w b i g o v = headerEffect (noteWrite s w (hdr g o) v) w b i g o v := by
  simp [writeHeaderReg, entered, hrej, hentry]

/-- A write to ERRCODE meets no check but the gate. -/
theorem headerRej_errcode (s : State) (w : Who) (b : Blk) (i g : Nat) (v : Word) :
    headerRej s w b i g Hdr.ERRCODE v = gateRej s w (hdr g Hdr.ERRCODE) := by
  have hinside : ¬ Hdr.SHADOW_STAT < Hdr.ERRCODE := by decide
  cases hgate : gateRej s w (hdr g Hdr.ERRCODE) <;> simp [headerRej, firstSome, rejIf, hinside, hgate]

theorem headerEffect_errcode (s : State) (w : Who) (b : Blk) (i g : Nat) (v : Word) :
    headerEffect s w b i g Hdr.ERRCODE v = errcodeClear s g v := rfl

theorem exec_errcodeClear {s : State} {p : Path} {g : Nat} (v : Word) (hready : hostReady s = true) (hg : g < 256) :
    exec (.errcodeClear p g v) s = .next (writeWord s (some p) (hdr g Hdr.ERRCODE) v) := by
  have haddr : hdr g Hdr.ERRCODE % 2 ^ 24 = hdr g Hdr.ERRCODE :=
    Nat.mod_eq_of_lt (Nat.lt_trans (hdr_lt hg (by decide)) (by decide))
  show Host.Outcome.next (hostWrite s p (hdr g Hdr.ERRCODE % 2 ^ 24) v) = _
  rw [haddr, hostWrite, if_pos hready]

/-- A write to ERRCODE that passes its gate stores its entry, then clears. -/
theorem exec_errcodeClear_accepted {s : State} {p : Path} {g i : Nat} {b : Blk} (v : Word) (hready : hostReady s = true)
    (hg : g < 256) (hb : blkOfPage g = some (b, i)) (hgate : gateRej s (some p) (hdr g Hdr.ERRCODE) = none)
    (hentry : entryFails s (some p) (hdr g Hdr.ERRCODE) = false) :
    exec (.errcodeClear p g v) s = .next (errcodeClear (noteWrite s (some p) (hdr g Hdr.ERRCODE) v) g v) := by
  have hrej : headerRej s (some p) b i g Hdr.ERRCODE v = none := (headerRej_errcode s _ b i g v).trans hgate
  rw [exec_errcodeClear v hready hg, writeWord_hdr v hg (by decide) (by decide) hb, writeHeaderReg_accepted hrej hentry,
    headerEffect_errcode]

-- the entry of the change journal

/-- A new entry of the change journal touches no register but the events of page JRNL. -/
theorem regsBut_changeEntry (s : State) (kind level : Nat) (p : Path) (top w4 : Nat) (old new : Word) :
    RegsBut [hdr pgJRNL Hdr.EVT] s (changeEntry s kind level p top w4 old new) :=
  RegsBut.trans (regsBut_of_same _ rfl) ((regsBut_evt _ pgJRNL 0).trans (regsBut_evtIf _ _ pgJRNL 2))

theorem regsBut_noteWrite (s : State) (w : Who) (a : Nat) (v : Word) :
    RegsBut [hdr pgJRNL Hdr.EVT] s (noteWrite s w a v) := by
  unfold noteWrite
  split
  · exact RegsBut.refl _ _
  · split
    · exact RegsBut.refl _ _
    · exact regsBut_changeEntry _ _ _ _ _ _ _ _

theorem sameBut_noteWrite (s : State) (w : Who) (a : Nat) (v : Word) : SameBut [.regs, .changes] s (noteWrite s w a v) :=
  frame_noteWrite s w a v (List.Subset.refl _) (SameBut.refl _ _)

theorem memoryWf_noteWrite {s : State} (w : Who) (a : Nat) (v : Word) (h : memoryWf s = true) :
    memoryWf (noteWrite s w a v) = true :=
  (keeps_noteWrite s w a v (Keeps.refl s)).canonical h

theorem rd_errcode_noteWrite (s : State) (w : Who) (a : Nat) (v : Word) (g : Nat) :
    rd (noteWrite s w a v) (hdr g Hdr.ERRCODE) = rd s (hdr g Hdr.ERRCODE) := by
  have hne : hdr g Hdr.ERRCODE ≠ hdr pgJRNL Hdr.EVT := hdr_ne_of_off_ne (by decide) (by decide) (by decide)
  exact regsBut_noteWrite s w a v _ (by simpa using hne)

-- the clear (R141)

@[simp] theorem errcodeClear_zero (s : State) (g : Nat) : errcodeClear s g 0 = s := rfl

theorem rd_errcodeClear_same {s : State} (g : Nat) {v : Word} (hwf : regsWf s = true) (hv : v ≠ 0) :
    rd (errcodeClear s g v) (hdr g Hdr.ERRCODE) = 0 := by
  rw [errcodeClear, if_neg hv, rd_onPage]
  exact rd_wr_same _ _ hwf

theorem regsBut_errcodeClear (s : State) (g : Nat) (v : Word) : RegsBut [hdr g Hdr.ERRCODE] s (errcodeClear s g v) := by
  unfold errcodeClear
  split
  · exact RegsBut.refl _ _
  · exact (regsBut_wr s (hdr g Hdr.ERRCODE) 0).trans (regsBut_of_same _ rfl)

theorem sameBut_errcodeClear (s : State) (g : Nat) (v : Word) : SameBut [.regs, .pages] s (errcodeClear s g v) :=
  frame_errcodeClear s g v (List.Subset.refl _) (SameBut.refl _ _)

/-- Settles O59: the entry leaves ERRCODE as it is, and the clear after it sets ERRCODE to 0 exactly where a bit is 1. -/
theorem errcodeCleared : Obligations.ErrcodeCleared := by
  unfold Obligations.ErrcodeCleared
  intro s p g b i v hmem hready hg hb hgate hentry
  have hwf : regsWf (noteWrite s (some p) (hdr g Hdr.ERRCODE) v) = true :=
    regsWf_of_memoryWf (memoryWf_noteWrite _ _ _ hmem)
  refine ⟨_, exec_errcodeClear_accepted v hready hg hb hgate hentry, ?_, ?_, rd_errcodeClear_same g hwf, ?_⟩
  · exact ((sameBut_noteWrite s _ _ v).mono (by decide)).trans ((sameBut_errcodeClear _ g v).mono (by decide))
  · exact ((regsBut_noteWrite s _ _ v).mono (by simp)).trans ((regsBut_errcodeClear _ g v).mono (by simp))
  · rintro rfl
    rw [errcodeClear_zero, rd_errcode_noteWrite]

end Sys2Proof.Machine
end

section
/-!
PROOF. TRANSFER with nothing to move (R495, R496, R498): what a submission that no check refuses adds to the journal, what the
start and the end of a command do to its entries, the TRANSFER that ends at its start, and the settling of O60 from these.
-/
namespace Sys2Proof.Machine

-- submission (R495)

/-- The journal entry of a command that path `p` submits with the next sequence and the arguments in its copies. -/
def acceptedEntry (s : State) (p : Path) (o : Nat) (args : List Word) : JEntry :=
  ⟨s.cmd.nextSeq, o, .new, 0, opcSteps o, 0, 0, opcPersistent o, false, p, args, pathLevel s p, false⟩

/-- The journal, which holds the newest 256 entries, after it has taken one more. -/
def withNewest (l : List JEntry) (e : JEntry) : List JEntry := (l ++ [e]).drop ((l ++ [e]).length - 256)

/-- The newest entry is never among those that give way. -/
theorem mem_withNewest (l : List JEntry) (e : JEntry) : e ∈ withNewest l e := by
  have hle : (l ++ [e]).length - 256 ≤ l.length := by
    rw [List.length_append, List.length_singleton]
    omega
  rw [withNewest, List.drop_append_of_le_length hle]
  exact List.mem_append_right _ (List.mem_singleton_self e)

/-- The argument words that a submission writes to its path's copies. -/
def argCopies (args : List Word) : List Word := (List.range 8).map (fun i => args.getD i 0)

/-- The state in which path `p` holds the copies of opcode, sequence and arguments that it submits. -/
def copiesWritten (s : State) (p : Path) (o : Nat) (q : Seq32) (args : List Word) : State :=
  onPath s p (fun t => { t with cmdRegs := word (o % 256) :: q :: argCopies args })

theorem word_byte_toNat {o : Nat} (ho : o < 256) : (word (o % 256)).toNat % 256 = o := by
  simp only [word, BitVec.toNat_ofNat]
  omega

theorem opcKnown_lt {o : Nat} (h : opcKnown o = true) : o < 256 := by
  simp only [opcKnown, decide_eq_true_eq] at h
  omega

/-- Copies that hold the next sequence and that no check refuses: the sequence is taken, and their entry is the newest of the
journal. -/
theorem cmd_submitCmd_accepted {s : State} {p : Path} {o : Nat} {args : List Word}
    (hregs : (pathOf s p).cmdRegs = word (o % 256) :: s.cmd.nextSeq :: args) (hknown : opcKnown o = true)
    (hlevel : opcLevel o args ≤ pathLevel s p) (hdusk : s.pwr.st ≠ .dusk) (hroom : pendingCount s < 16) :
    (submitCmd s p).cmd = ⟨s.cmd.nextSeq + 1, withNewest s.cmd.journal (acceptedEntry s p o args)⟩ := by
  have hbyte : (word (o % 256)).toNat % 256 = o := word_byte_toNat (opcKnown_lt hknown)
  have hchecks : firstSome [rejIf (opcKnown o && decide (pathLevel s p < opcLevel o args)) Rsn.LEVEL,
      rejIf (decide (s.pwr.st = .dusk)) Rsn.BUSY, rejIf (decide (16 ≤ pendingCount s)) 0x43,
      rejIf (!opcKnown o) 0x42] = none := by
    simp [firstSome, rejIf, hknown, hdusk, Nat.not_lt.2 hlevel, Nat.not_le.2 hroom]
  simp only [submitCmd, hregs, List.getD_cons_zero, List.getD_cons_succ, List.drop_succ_cons, List.drop_zero, hbyte,
    if_true, hchecks, checked_none]
  split <;> rfl

theorem submitAs_pass {s : State} {p : Path} (o : Nat) (q : Seq32) (args : List Word) (h : passes s p CMD.SUBMIT) :
    submitAs s p o q args = submitCmd (copiesWritten s p o q args) p := by
  obtain ⟨hready, hgate, -⟩ := h
  exact gated_pass _ (by simp [heard, hready]) hgate

theorem cmdRegs_copiesWritten {s : State} {p : Path} {o : Nat} (q : Seq32) (args : List Word) (hs : Shaped s) :
    (pathOf (copiesWritten s p o q args) p).cmdRegs = word (o % 256) :: q :: argCopies args := by
  rw [copiesWritten, pathOf_same _ _ hs]

theorem pathLevel_copiesWritten {s : State} {p : Path} {o : Nat} (q : Seq32) (args : List Word) (hs : Shaped s) :
    pathLevel (copiesWritten s p o q args) p = pathLevel s p := by
  rw [pathLevel, copiesWritten, pathOf_same _ _ hs]
  rfl

/-- A submission with the next sequence that no check refuses takes that sequence and adds its entry to the journal. -/
theorem cmd_submitAs_accepted {s : State} {p : Path} {o : Nat} (args : List Word) (hs : Shaped s)
    (hpass : passes s p CMD.SUBMIT) (hknown : opcKnown o = true) (hlevel : opcLevel o (argCopies args) ≤ pathLevel s p)
    (hdusk : s.pwr.st ≠ .dusk) (hroom : pendingCount s < 16) :
    (submitAs s p o s.cmd.nextSeq args).cmd =
      ⟨s.cmd.nextSeq + 1, withNewest s.cmd.journal (acceptedEntry s p o (argCopies args))⟩ := by
  have hkept : pathLevel (copiesWritten s p o s.cmd.nextSeq args) p = pathLevel s p := pathLevel_copiesWritten _ args hs
  have hentry : acceptedEntry (copiesWritten s p o s.cmd.nextSeq args) p o (argCopies args) =
      acceptedEntry s p o (argCopies args) := by
    rw [acceptedEntry, hkept]
    rfl
  rw [submitAs_pass _ _ _ hpass, ← hentry]
  exact cmd_submitCmd_accepted (cmdRegs_copiesWritten _ args hs) hknown (hkept ▸ hlevel) hdusk hroom

-- the entries of a command

theorem seqs_onEntry (s : State) (q : Seq32) {f : JEntry → JEntry} (hf : ∀ x, (f x).seq = x.seq) :
    (onEntry s q f).cmd.journal.map (·.seq) = s.cmd.journal.map (·.seq) := by
  simp only [onEntry, List.map_map]
  refine List.map_congr_left fun x _ => ?_
  simp only [Function.comp_apply]
  split
  · exact hf x
  · rfl

/-- An entry of the sequence concerned has taken the change. -/
theorem mem_onEntry_of_seq {s : State} {q : Seq32} {f : JEntry → JEntry} {x : JEntry}
    (hx : x ∈ (onEntry s q f).cmd.journal) (hq : x.seq = q) : ∃ y, x = f y := by
  obtain ⟨y, -, rfl⟩ := List.mem_map.1 hx
  split at hq
  case isTrue hy => exact ⟨y, if_pos hy⟩
  case isFalse hy => exact absurd hq hy

-- the end of a command (Table 11.11)

/-- The entry of a command that has ended. -/
def JEntry.ended (st : JState) (status detail : Nat) (x : JEntry) : JEntry :=
  { x with st := st, status := status, detail := detail, k := if st = .done then x.m else x.k }

theorem cmd_endCmd (s : State) (e : JEntry) (st : JState) (status detail : Nat) :
    (endCmd s e st status detail).cmd = (onEntry s e.seq (JEntry.ended st status detail)).cmd := by
  have hcmd : (changeCmd (onEntry s e.seq (JEntry.ended st status detail)) e st 0).cmd =
      (onEntry s e.seq (JEntry.ended st status detail)).cmd :=
    frame_changeCmd _ e st 0 (List.Subset.refl _) (SameBut.refl _ _) .cmd (by decide)
  exact hcmd

theorem seqs_endCmd (s : State) (e : JEntry) (st : JState) (status detail : Nat) :
    (endCmd s e st status detail).cmd.journal.map (·.seq) = s.cmd.journal.map (·.seq) := by
  rw [cmd_endCmd]
  exact seqs_onEntry s e.seq fun _ => rfl

/-- Every entry of the sequence of an ended command holds its end and its result. -/
theorem ended_of_mem_endCmd {s : State} {e x : JEntry} {st : JState} {status detail : Nat}
    (hx : x ∈ (endCmd s e st status detail).cmd.journal) (hq : x.seq = e.seq) :
    x.st = st ∧ x.status = status ∧ x.detail = detail := by
  rw [cmd_endCmd] at hx
  obtain ⟨y, rfl⟩ := mem_onEntry_of_seq hx hq
  exact ⟨rfl, rfl, rfl⟩

-- the start of a TRANSFER (R496, R498)

/-- The state that has journalled STARTED for the command of sequence `q`. -/
def started (s : State) (q : Seq32) : State := onEntry s q (fun x => { x with st := .started })

theorem seqs_started (s : State) (q : Seq32) : (started s q).cmd.journal.map (·.seq) = s.cmd.journal.map (·.seq) :=
  seqs_onEntry s q fun _ => rfl

theorem sameBut_started (s : State) (q : Seq32) : SameBut [.cmd] s (started s q) :=
  frame_onEntry s q _ (List.Subset.refl _) (SameBut.refl _ _)

theorem exec_commandExecute_start {s : State} {e : JEntry} (hidle : runningCmd s = none) (hnext : nextCmd s = some e)
    (hmay : cmdMayStart s e = true) : exec .commandExecute s = .next (startCmd s e) := by
  show Host.Outcome.next _ = _
  simp only [hidle, hnext, hmay, if_true]

theorem startCmd_transfer {s : State} {e : JEntry} (ho : e.opcode = Opc.TRANSFER) :
    startCmd s e = transferBegin (started s e.seq) { e with st := .started } := by
  simp [startCmd, started, ho]

theorem transferBegin_empty {s : State} {e : JEntry} (hlen : trLen e = 0) :
    transferBegin s e = endCmd s e .done Res.OK 0 := if_pos hlen

theorem transferBegin_outside {s : State} {e : JEntry} (hlen : trLen e ≠ 0)
    (hout : inTable s (trDst e) (trLen e) = false) : transferBegin s e = endCmd s e .aborted Res.ARG 0 := by
  simp [transferBegin, hlen, hout]

theorem startCmd_transfer_empty {s : State} {e : JEntry} (ho : e.opcode = Opc.TRANSFER) (hlen : trLen e = 0) :
    startCmd s e = endCmd (started s e.seq) { e with st := .started } .done Res.OK 0 := by
  rw [startCmd_transfer ho]
  exact transferBegin_empty hlen

theorem startCmd_transfer_outside {s : State} {e : JEntry} (ho : e.opcode = Opc.TRANSFER) (hlen : trLen e ≠ 0)
    (hout : inTable s (trDst e) (trLen e) = false) :
    startCmd s e = endCmd (started s e.seq) { e with st := .started } .aborted Res.ARG 0 := by
  rw [startCmd_transfer ho]
  exact transferBegin_outside hlen hout

/-- The start of a TRANSFER keeps the journal's sequences, whether it ends at once or runs. -/
theorem seqs_startCmd_transfer {s : State} {e : JEntry} (ho : e.opcode = Opc.TRANSFER) :
    (startCmd s e).cmd.journal.map (·.seq) = s.cmd.journal.map (·.seq) := by
  rw [startCmd_transfer ho, transferBegin]
  split
  · exact (seqs_endCmd _ _ _ _ _).trans (seqs_started s e.seq)
  · split
    · exact seqs_started s e.seq
    · exact (seqs_endCmd _ _ _ _ _).trans (seqs_started s e.seq)

/-- A command that ends at its start changes the mailbox, the registers and the change journal only. -/
theorem sameBut_endCmd_started (s : State) (e : JEntry) (st : JState) (status detail : Nat) :
    SameBut [.cmd, .regs, .changes] s (endCmd (started s e.seq) { e with st := .started } st status detail) :=
  frame_endCmd _ _ st status detail (by decide) ((sameBut_started s e.seq).mono (by decide))

/-- Settles O60: a TRANSFER of length 0 and one whose destination lies outside table storage end at their start, and the entry
of an accepted TRANSFER is the newest of the journal. -/
theorem transferOfNothing : Obligations.TransferOfNothing := by
  unfold Obligations.TransferOfNothing
  refine fun s => ⟨fun e hidle hnext hmay ho => ?_, fun p args hshape hpass hdusk hroom => ?_⟩
  · have hexec := exec_commandExecute_start hidle hnext hmay
    refine ⟨fun hlen => ?_, fun hlen hout => ?_, fun u hu => ?_⟩
    · rw [startCmd_transfer_empty ho hlen] at hexec
      have hsame := sameBut_endCmd_started s e .done Res.OK 0
      exact ⟨_, hexec, hsame .vat (by decide), hsame, fun x hx hq => ended_of_mem_endCmd hx hq⟩
    · rw [startCmd_transfer_outside ho hlen hout] at hexec
      have hsame := sameBut_endCmd_started s e .aborted Res.ARG 0
      exact ⟨_, hexec, hsame .vat (by decide), hsame, fun x hx hq => ended_of_mem_endCmd hx hq⟩
    · obtain rfl : startCmd s e = u := by simpa [hexec] using hu
      exact seqs_startCmd_transfer ho
  · have hcmd := cmd_submitAs_accepted (o := Opc.TRANSFER) args ((shaped_iff s).1 hshape) hpass (by decide) (Nat.zero_le _)
      hdusk hroom
    have hvat : (submitAs s p Opc.TRANSFER s.cmd.nextSeq args).vat = s.vat :=
      frame_submitAs s p Opc.TRANSFER _ args (List.Subset.refl _) (SameBut.refl _ _) .vat (by decide)
    have hmem : acceptedEntry s p Opc.TRANSFER (argCopies args) ∈
        (submitAs s p Opc.TRANSFER s.cmd.nextSeq args).cmd.journal := by
      simp only [hcmd, mem_withNewest]
    exact ⟨_, _, rfl, hmem, rfl, rfl, rfl, congrArg CmdState.nextSeq hcmd, hvat⟩

end Sys2Proof.Machine
end

section
/-!
PROOF. What every step keeps: the forms of memories, sizes and journals (O57), the fuses and the identity of the part (O58), the
footprint of each command (O55), and that every step goes on (O54); the state after reset has the forms (O56).
-/
namespace Sys2Proof.Machine

/-- A command answers one state, which keeps what every operation keeps. -/
theorem keeps_of_exec {c : Instr} {s u : State} (h : exec c s = .next u) : Keeps s u := by
  obtain ⟨t, ht, hk⟩ := exec_keeps c s
  obtain rfl : t = u := by simpa [ht] using h
  exact hk

theorem shaped_of_exec {c : Instr} {s u : State} (hs : Shaped s) (h : exec c s = .next u) : Shaped u := by
  obtain ⟨t, ht, hshape⟩ := exec_shaped c s hs
  obtain rfl : t = u := by simpa [ht] using h
  exact hshape

theorem sameBut_of_exec {c : Instr} {s u : State} (h : exec c s = .next u) : SameBut (footprint c) s u := by
  obtain ⟨t, ht, hsame⟩ := exec_sameBut c s
  obtain rfl : t = u := by simpa [ht] using h
  exact hsame

/-- What a step does: a waiting command runs on the queue's rest, or a tick passes. -/
theorem step_cases {s u : State} (h : step s = .next u) :
    (∃ c rest, s.pending = c :: rest ∧ exec c { s with pending := rest } = .next u) ∨ (s.pending = [] ∧ u = tick s) := by
  unfold step at h
  split at h
  · next c rest hq => exact .inl ⟨c, rest, hq, h⟩
  · next hq => exact .inr ⟨hq, by simpa using h.symm⟩

/-- A property of single states that commands and the tick keep, and that does not look at the queue, is kept by every step. -/
theorem step_induction {P : State → Prop} {s u : State} (h : step s = .next u) (hs : P s)
    (hqueue : ∀ l, P s → P { s with pending := l }) (hexec : ∀ c t v, P t → exec c t = .next v → P v)
    (htick : P s → P (tick s)) : P u := by
  rcases step_cases h with ⟨c, rest, -, hu⟩ | ⟨-, rfl⟩
  · exact hexec c _ u (hqueue rest hs) hu
  · exact htick hs

/-- What two states have in common but for the queue: the part of Keeps that every step keeps. -/
structure Lasting (s u : State) : Prop where
  serial : u.serial = s.serial
  part : u.partSB = s.partSB
  draws : s.freeCtr ≤ u.freeCtr
  fuses : ∀ f i, fuseUsed s f i = true → fuseUsed u f i = true

theorem Keeps.lasting {s u : State} (h : Keeps s u) : Lasting s u := ⟨h.serial, h.part, h.draws, h.fuses⟩

theorem lasting_of_step {s u : State} (h : step s = .next u) : Lasting s u := by
  rcases step_cases h with ⟨c, rest, -, hu⟩ | ⟨-, rfl⟩
  · obtain ⟨hserial, hpart, hdraws, hfuses⟩ := (keeps_of_exec hu).lasting
    exact ⟨hserial, hpart, hdraws, hfuses⟩
  · exact (keeps_tick s (Keeps.refl s)).lasting

theorem inForm_iff (s : State) :
    inForm s = true ↔ memoryWf s = true ∧ Shaped s ∧ journalWithin s = true ∧ changesWithin s = true := by
  simp only [inForm, Bool.and_eq_true, shaped_iff, and_assoc]

theorem Keeps.inForm {s u : State} (h : Keeps s u) (hshape : Shaped s → Shaped u) (hs : inForm s = true) :
    inForm u = true := by
  obtain ⟨hmem, hshaped, hjournal, hchanges⟩ := (inForm_iff s).1 hs
  exact (inForm_iff u).2 ⟨h.canonical hmem, hshape hshaped, h.journal hjournal, h.changes hchanges⟩

/-- Settles O57: the forms do not look at the queue, and every command and the tick keep them. -/
theorem stepKeepsForms : Obligations.StepKeepsForms := by
  unfold Obligations.StepKeepsForms
  intro s u hs hstep
  exact step_induction (P := fun t => inForm t = true) hstep hs (fun _ h => h)
    (fun c t v ht hv => (keeps_of_exec hv).inForm (fun hshape => shaped_of_exec hshape hv) ht)
    ((keeps_tick s (Keeps.refl s)).inForm (shaped_tick s))

/-- Settles O58: every command and the tick keep used fuse slots, the identity of the part and the order of draws. -/
theorem fusesWrittenOnce : Obligations.FusesWrittenOnce := by
  unfold Obligations.FusesWrittenOnce
  intro s u hstep
  obtain ⟨hserial, hpart, hdraws, hfuses⟩ := lasting_of_step hstep
  exact ⟨hfuses, hserial, hpart, hdraws⟩

theorem goesOn_step (s : State) : goesOn (step s) = true := by
  unfold step
  split
  · next c rest _ =>
    obtain ⟨t, ht, -⟩ := exec_keeps c { s with pending := rest }
    rw [ht]
    rfl
  · rfl

/-- Settles O54: every command answers a next state and leaves the queue alone. -/
theorem everyStepGoesOn : Obligations.EveryStepGoesOn := by
  unfold Obligations.EveryStepGoesOn
  refine fun s => ⟨goesOn_step s, fun c => ?_⟩
  obtain ⟨t, ht, hk⟩ := exec_keeps c s
  exact ⟨t, ht, hk.queue⟩

/-- Settles O55: the frame of each command, by its own frame lemma. -/
theorem commandFootprints : Obligations.CommandFootprints := by
  unfold Obligations.CommandFootprints
  exact fun _ _ _ h => sameBut_of_exec h

/-- Settles O53: the command in front is the one that the step takes. -/
theorem stepRunsTheFrontCommand : Obligations.StepRunsTheFrontCommand := by
  unfold Obligations.StepRunsTheFrontCommand
  exact fun _ _ => rfl

theorem shaped_reset : Shaped State.reset := by
  have h {α : Type} (n : Nat) (a : α) : (List.replicate n a).length = n := List.length_replicate
  exact ⟨h _ _, h _ _, h _ _, h _ _, h _ _, h _ _, h _ _, h _ _, h _ _, h _ _, rfl, rfl, h _ _, h _ _, h _ _, h _ _,
    h _ _, h _ _, h _ _, h _ _, h _ _, h _ _, h _ _, h _ _, h _ _, rfl, h _ _, h _ _, h _ _, h _ _⟩

/-- Settles O56: the lists of the reset state have their lengths, and it holds no register, no byte and no entry. -/
theorem resetInForm : Obligations.ResetInForm := by
  unfold Obligations.ResetInForm
  exact ⟨(inForm_iff _).2 ⟨rfl, shaped_reset, rfl, rfl⟩, rfl, by decide⟩

end Sys2Proof.Machine
end

section
/-!
PROOF. Rules that many statements share: the frame of a command whose condition holds, a host write that passes its gate, the
fields that an event flag or a counter leaves alone.
-/
namespace Sys2Proof.Machine

-- the frame of an event command

theorem when_of {c : Bool} {s : State} {f : State → State} (h : c = true) : when c s f = f s := by
  rw [h, when_true]

theorem when_not {c : Bool} {s : State} {f : State → State} (h : c = false) : when c s f = s := by
  rw [h, when_false]

-- a host write that passes its gate

theorem heard_of_passes {s : State} {p : Path} {a : Nat} (h : passes s p a) : heard s (some p) = true := by
  obtain ⟨hready, -, -⟩ := h
  simp [heard, hready]

theorem gated_of_passes {s : State} {p : Path} {a : Nat} (act : State → State) (h : passes s p a) :
    gated s (some p) a act = act s := by
  have hheard := heard_of_passes h
  obtain ⟨-, hgate, -⟩ := h
  exact gated_pass act hheard hgate

theorem hostAct_of_passes {s : State} {p : Path} {a : Nat} {v : Word} {c : Option Rej} (act : State → State)
    (h : passes s p a) (hc : c = none) : hostAct s (some p) a v c act = act (noteWrite s (some p) a v) := by
  have hheard := heard_of_passes h
  obtain ⟨-, hgate, hentry⟩ := h
  exact hostAct_pass act hheard hgate hc hentry

theorem rejIf_false (r : Nat) : rejIf false r = none := rfl

@[simp] theorem rejIf_eq_none {c : Bool} {r : Nat} : rejIf c r = none ↔ c = false := by
  cases c <;> simp [rejIf]

/-- A register that needs no level is written without an entry in the change journal. -/
theorem noteWrite_of_level_zero {s : State} {w : Who} {a : Nat} {v : Word} (h : regLevel a = 0) :
    noteWrite s w a v = s := by
  unfold noteWrite
  split
  · rfl
  · exact if_pos h

-- events and counters leave every part but the registers alone

theorem sameBut_evt {l : List Part} (s : State) (p i : Nat) (h : [.regs] ⊆ l) : SameBut l s (evt s p i) :=
  frame_evt s p i h (SameBut.refl l s)

theorem sameBut_evtIf {l : List Part} (c : Bool) (s : State) (p i : Nat) (h : [.regs] ⊆ l) : SameBut l s (evtIf c s p i) :=
  frame_evtIf c s p i h (SameBut.refl l s)

theorem sameBut_bumpSat {l : List Part} (s : State) (a lo n k : Nat) (h : [.regs] ⊆ l) : SameBut l s (bumpSat s a lo n k) :=
  frame_bumpSat s a lo n k h (SameBut.refl l s)

theorem sameBut_wr {l : List Part} (s : State) (a : Nat) (v : Word) (h : [.regs] ⊆ l) : SameBut l s (wr s a v) :=
  frame_wr h (SameBut.refl l s)

theorem regsBut_bumpSat (s : State) (a lo n k : Nat) : RegsBut [a] s (bumpSat s a lo n k) := regsBut_wr s a _

/-- Registers after an operation that leaves the register file alone and a chain of register writes. -/
theorem RegsBut.of_sameBut {l : List Part} {m : List Nat} {s t : State} (h : SameBut l s t) (hl : Part.regs ∉ l) : RegsBut m s t :=
  regsBut_of_same m (h .regs hl)

theorem rd_of_sameBut {l : List Part} {s t : State} (h : SameBut l s t) (hl : Part.regs ∉ l) (a : Nat) : rd t a = rd s a :=
  rd_congr (h .regs hl) a

end Sys2Proof.Machine
end

section
/-!
PROOF. The analog front end (spec/05): what each event of an input or a driver leaves in it, the one raw record of a conversion and
its word, and the settling of O1 to O4 from these.
-/
namespace Sys2Proof.Machine

-- analog-input events (R198, R222, R225, R229)

theorem applyStep_of_step {i : InputState} {t n : Nat} (h : i.step = some (t, n)) :
    applyStep i = { i with range := t, step := none, below := 0, setlStep := 2, steps := i.steps + 1 } := by
  simp [applyStep, h]

theorem exec_rangeStep_due {s : State} {ch : Fin 128} {t n : Nat} (hstep : (inputOf s ch).step = some (t, n))
    (hn : n ≤ now s) : exec (.rangeStep ch) s = .next (onInput s ch applyStep) := by
  have hdue : stepIsDue (inputOf s ch) (now s) = true := by simp [stepIsDue, hstep, hn]
  exact congrArg _ (when_of hdue)

theorem exec_breakEnd_due {s : State} {ch : Fin 128} (hbrk : (inputOf s ch).brk = true) (hintact : 16 ≤ (inputOf s ch).intact) :
    exec (.breakEnd ch) s = .next (endBreak s ch) := by
  have hdue : breakDue (inputOf s ch) = true := by simp [breakDue, hbrk, hintact]
  exact congrArg _ (when_of hdue)

theorem exec_burnOutTest_now {s : State} {ch : Fin 128} (moved : Bool) (h : burnOutNow s ch = true) :
    exec (.burnOutTest ch moved) s = .next (onInput s ch (fun i => { i with burn := moved })) := congrArg _ (when_of h)

theorem exec_swapPhase_now {s : State} {ch : Fin 128} (hsampling : sampling s = true) (hswap : swapping (inCfg s ch) = true)
    (hphase : (inputOf s ch).phase ≠ 0) :
    exec (.swapPhase ch) s = .next (onInput s ch (phaseStep s ch (inCfg s ch) (now s))) := by
  have hnow : (sampling s && swapping (inCfg s ch) && decide ((inputOf s ch).phase ≠ 0)) = true := by
    simp [hsampling, hswap, hphase]
  exact congrArg _ (when_of hnow)

theorem inputOf_endBreak {s : State} {ch : Nat} (hs : Shaped s) (h : ch < 128) :
    inputOf (endBreak s ch) ch = breakEnds (inputOf s ch) (inCfg s ch) := inputOf_same _ hs h

/-- A phase that has ended gives way to that of the present index, with its sums begun anew. -/
theorem phaseStep_of_ne {s : State} {ch n : Nat} {w : Word} {i : InputState} (hswap : swapping w = true)
    (hne : i.phase ≠ phaseNum s (ch / 4) n + 1) :
    (phaseStep s ch w n i).phase = phaseNum s (ch / 4) n + 1 ∧ (phaseStep s ch w n i).sum = 0 ∧
      (phaseStep s ch w n i).cnt = 0 := by
  simp only [phaseStep, hswap, true_and]
  rw [if_pos hne]
  exact ⟨rfl, rfl, rfl⟩

theorem sameBut_onInput (s : State) (ch : Nat) (f : InputState → InputState) : SameBut [.inputs] s (onInput s ch f) :=
  frame_onInput s ch f (List.Subset.refl _) (SameBut.refl _ _)

/-- Settles O1: each event acts where its condition holds, and the input read back is the one it leaves. -/
theorem analogInputEvents : Obligations.AnalogInputEvents := by
  unfold Obligations.AnalogInputEvents
  intro s hshape hmem
  have hs := (shaped_iff s).1 hshape
  have hwf := regsWf_of_memoryWf hmem
  refine ⟨fun ch t n hstep hn => ?_, fun ch hbrk hintact => ?_, fun ch moved hnow => ?_, fun ch hsam hswap h0 hne => ?_⟩
  · exact ⟨_, exec_rangeStep_due hstep hn, sameBut_onInput s ch _, fun o ho => inputOf_other _ ho,
      (inputOf_same _ hs ch.isLt).trans (applyStep_of_step hstep)⟩
  · have hin := inputOf_endBreak hs ch.isLt
    refine ⟨_, exec_breakEnd_due hbrk hintact, frame_endBreak s ch (by decide) (SameBut.refl _ _), regsBut_evt _ _ _,
      rd_evt _ _ hwf, ?_, ?_, ?_⟩ <;> rw [hin] <;> rfl
  · exact ⟨_, exec_burnOutTest_now moved hnow, sameBut_onInput s ch _, inputOf_same _ hs ch.isLt⟩
  · refine ⟨_, exec_swapPhase_now hsam hswap h0, sameBut_onInput s ch _, ?_⟩
    rw [inputOf_same _ hs ch.isLt]
    exact phaseStep_of_ne hswap hne

-- excitation events (R212, R215, R216)

/-- A driver with a fault taken. -/
def ExcState.taking (e : ExcState) : ExcFault → ExcState
  | .currentLimit => { e with limit := true }
  | .compliance => { e with compliance := true }
  | .sense => { e with senseFault := true }

/-- A fault counts where the driver can have it. -/
def faultCounts (s : State) (k : Nat) : ExcFault → Bool
  | .sense => excOn s k && !excSettling s k (now s)
  | .currentLimit => excDrives s k
  | .compliance => excDrives s k

theorem exec_excitationFault (k : Fin 16) (f : ExcFault) (s : State) : exec (.excitationFault k f) s =
    .next (when (faultCounts s k f) s (fun s => evt (onExc s k (fun e => e.taking f)) (pgFQ (2 * k)) 8)) := by
  cases f <;> rfl

theorem excOf_taking {s : State} {k : Nat} (f : ExcFault) (hs : Shaped s) (h : k < 16) :
    excOf (evt (onExc s k (fun e => e.taking f)) (pgFQ (2 * k)) 8) k = (excOf s k).taking f := excOf_same _ hs h

/-- Settles O2: a fault is taken exactly where it counts, and its end and the window's end change their own driver. -/
theorem excitationEvents : Obligations.ExcitationEvents := by
  unfold Obligations.ExcitationEvents
  intro s k hshape hmem
  have hs := (shaped_iff s).1 hshape
  have hwf := regsWf_of_memoryWf hmem
  refine ⟨fun n hn hle => ?_, fun f hsense hother => ?_, fun f => ?_, fun h => ?_, fun h f hf => ?_⟩
  · have hdue : (excOf s k).settle.any (fun e => decide (e ≤ now s)) = true := by simp [hn, hle]
    exact congrArg _ (when_of hdue)
  · have hcounts : faultCounts s k f = true := by
      cases f with
      | sense => simpa [faultCounts] using hsense rfl
      | currentLimit => exact hother (by decide)
      | compliance => exact hother (by decide)
    have hexec : exec (.excitationFault k f) s = .next (evt (onExc s k (fun e => e.taking f)) (pgFQ (2 * k)) 8) := by
      rw [exec_excitationFault, when_of hcounts]
    refine ⟨_, hexec, ?_, regsBut_evt _ _ _, rd_evt _ _ hwf, ?_⟩
    · exact frame_evt _ _ _ (by decide) (frame_onExc s k _ (by decide) (SameBut.refl _ _))
    · rw [excOf_taking f hs k.isLt]
      cases f <;> rfl
  · exact ⟨_, rfl, frame_onExc s k _ (by decide) (SameBut.refl _ _), excOf_same _ hs k.isLt⟩
  · have hnot : faultCounts s k .sense = false := by
      rcases h with h | h <;> simp [faultCounts, h]
    rw [exec_excitationFault, when_not hnot]
  · have hnot : faultCounts s k f = false := by
      cases f with
      | sense => exact absurd rfl hf
      | currentLimit => exact h
      | compliance => exact h
    rw [exec_excitationFault, when_not hnot]

-- the raw record (R195 to R230, R248, R249)

/-- An input outside its window at either latch of a conversion (Table 5.7). -/
def outsideWindow (s : State) (ch : Nat) (c : Conversion) : Bool :=
  windowBroken (inCfg s ch) c.sense c.held || windowBroken (inCfg s ch) c.sense c.done

theorem modify_const {α : Type} (l : List α) (i : Nat) (a : α) : l.modify i (fun _ => a) = l.set i a := by
  induction l generalizing i with
  | nil => simp
  | cons x l ih => cases i with
    | zero => rfl
    | succ i => simp [ih]

theorem set_modify_same {α : Type} (l : List α) (i : Nat) (f : α → α) (a : α) : (l.modify i f).set i a = l.set i a := by
  induction l generalizing i with
  | nil => simp
  | cons x l ih => cases i with
    | zero => rfl
    | succ i => simp [ih]

/-- A conversion gives its own input a new state, and that is broken where the input stood outside its window. -/
theorem inputs_rawSample (s : State) (ch n : Nat) (c : Conversion) :
    ∃ i, (rawSample s ch n c).1.inputs = s.inputs.set ch i ∧ (outsideWindow s ch c = true → i.brk = true ∧ i.intact = 0) := by
  unfold rawSample
  extract_lets q w s1 i0 i1 s2 core slice code lostBy lost usesExc k broken brk swS otherSetl phaseSetl setl xch i2 val clip
    tag i3 i4 s3 s4 s5 s6 s7 word s8
  have hs2 : s2.inputs = s1.inputs := by
    simp only [s2]
    split <;> rfl
  have hs1 : s1.inputs.set ch i4 = s.inputs.set ch i4 := by
    simp only [s1]
    split
    · exact set_modify_same _ _ _ _
    · rfl
  have hs3 : s3.inputs = s.inputs.set ch i4 := by
    rw [← hs1, ← hs2]
    exact modify_const _ _ _
  have h4 : SameBut [.regs] s3 s4 := sameBut_evtIf _ _ _ _ (by decide)
  have h5 : SameBut [.regs] s4 s5 :=
    sameBut_ite (frame_evt _ _ _ (by decide) (sameBut_bumpSat _ _ _ _ _ (by decide))) (SameBut.refl _ _)
  have h6 : SameBut [.regs] s5 s6 := sameBut_ite (sameBut_wr _ _ _ (by decide)) (SameBut.refl _ _)
  have h7 : SameBut [.regs] s6 s7 := sameBut_evtIf _ _ _ _ (by decide)
  have h8 : SameBut [.regs] s7 s8 :=
    sameBut_ite (frame_evt _ _ _ (by decide) (sameBut_bumpSat _ _ _ _ _ (by decide))) (SameBut.refl _ _)
  have hlast : s8.inputs = s3.inputs := (h4.trans (h5.trans (h6.trans (h7.trans h8)))) .inputs (by decide)
  refine ⟨i4, hlast.trans hs3, fun hout => ?_⟩
  have hbroken : broken = true := by
    simp only [outsideWindow] at hout
    simp only [broken, w, hout, Bool.true_or]
  simp [i4, brk, hbroken]

theorem inputOf_set_same {s t : State} {ch : Nat} {i : InputState} (h : t.inputs = s.inputs.set ch i) (hs : Shaped s)
    (hch : ch < 128) : inputOf t ch = i := by
  simp [inputOf, h, List.getD_eq_getElem?_getD, hs.inputs, hch]

theorem inputOf_set_other {s t : State} {ch o : Nat} {i : InputState} (h : t.inputs = s.inputs.set ch i) (ho : o ≠ ch) :
    inputOf t o = inputOf s o := by
  simp [inputOf, h, List.getD_eq_getElem?_getD, List.getElem?_set_ne ho.symm]

/-- The record on its way: through the queue of its core to the input's slot and chain. -/
def recordTaken (s : State) (ch : Nat) (c : Conversion) : State :=
  let r := rawSample s ch (now s) c
  let q := fromQueue r.1 (ch / 4) c.ecc r.2 (nodataWord 0)
  rawDeliver q.1 ch (now s) q.2

theorem exec_rawRecord_sampled {s : State} {ch : Fin 128} (c : Conversion) (h : sampledNow s ch = true) :
    exec (.rawRecord ch c) s = .next (recordTaken s ch c) := congrArg _ (when_of h)

theorem inputs_recordTaken (s : State) (ch : Nat) (c : Conversion) :
    (recordTaken s ch c).inputs = (rawSample s ch (now s) c).1.inputs := by
  have hsame : SameBut [.regs, .gc, .gen, .chains, .slots, .queueEcc, .freeCtr] (rawSample s ch (now s) c).1
      (recordTaken s ch c) :=
    frame_rawDeliver _ _ _ _ (by decide) (frame_fromQueue _ _ _ _ _ (by decide) (SameBut.refl _ _))
  exact hsame .inputs (by decide)

/-- Settles O3: the record is made and delivered, and only its own input takes a new state. -/
theorem rawRecordTaken : Obligations.RawRecordTaken := by
  unfold Obligations.RawRecordTaken
  intro s ch c hshape hsampled
  have hs := (shaped_iff s).1 hshape
  have hexec := exec_rawRecord_sampled c hsampled
  obtain ⟨i, hi, hbroken⟩ := inputs_rawSample s ch (now s) c
  have hinputs := (inputs_recordTaken s ch c).trans hi
  refine ⟨_, hexec, ?_, sameBut_of_exec hexec, fun o ho => inputOf_set_other hinputs ho, ?_⟩
  · rintro r q rfl rfl
    rfl
  · rw [inputOf_set_same hinputs hs ch.isLt]
    exact hbroken

-- the record word (R248, R249, Table 8.1)

/-- A voltage input keeps its code as it is: it neither swaps sources nor tests for burn-out nor uses a ratio. -/
theorem classes_of_volt {w : Word} (h : inClass w = Cls.VOLT) :
    swapping w = false ∧ isRes w = false ∧ hasBurnOut w = false := by
  simp [swapping, isRes, hasBurnOut, h]

/-- Settles O4: on a fixed-range voltage input at rest the word is the corrected code with its tag. -/
theorem rawRecordWord : Obligations.RawRecordWord := by
  unfold Obligations.RawRecordWord
  intro s ch c _ hclass hfixed huse hstep hbrk hsetl hmode hshort
  obtain ⟨hswap, hres, hburn⟩ := classes_of_volt hclass
  have hdue : breakDue (inputOf s ch) = false := by simp [breakDue, hbrk]
  have hnone : stepIsDue (inputOf s ch) (now s) = false := by simp [stepIsDue, hstep]
  have hcore : s.cores.getD (ch / 4) {} = coreOf s (ch / 4) := rfl
  simp only [rawSample, hdue, hnone, hswap, hres, hburn, huse, hfixed, hsetl, hmode, hbrk, phaseStep, swapSetl, swapValue,
    iexLost, ↓hcore, hshort, Bool.false_eq_true, if_false, if_true, false_and, Bool.false_and, Bool.or_false, decide_false,
    Nat.lt_irrefl]

end Sys2Proof.Machine
end

section
/-!
PROOF. Converters and comparators (spec/06): the rotation of a core, the calibration of its spare, the band edges and the crossings,
the housekeeping converter and the queues (spec/08), and the settling of O5 to O7 from these.
-/
namespace Sys2Proof.Machine

-- cores (R251, R254)

theorem exec_rotationStep_due {s : State} {core : Fin 32} {j : Nat} (hj : rotationAt s core (now s) = some j)
    (hsampling : sampling s = true) (hrotates : (coreOf s core).stopped = false) : exec (.rotationStep core) s =
      .next (wr (onCore s core (fun c => rotate c (j % 8))) (CC.ROT_COUNT core) (rd s (CC.ROT_COUNT core) + 1)) := by
  have hdue : (sampling s && !(coreOf s core).stopped) = true := by simp [hsampling, hrotates]
  show Host.Outcome.next _ = _
  simp only [hj]
  exact congrArg _ (when_of hdue)

theorem exec_sliceCalibrationDone {s : State} {core : Fin 32} (k : SliceCoef) (hrotates : (coreOf s core).stopped = false) :
    exec (.sliceCalibrationDone core k) s = .next (if slicePasses k then
      onCore s core (fun c => { c with
        coefs := c.coefs.set c.spare k, pass := c.pass.set c.spare true, calAt := c.calAt.set c.spare s.time.now })
      else retireSlice s core (coreOf s core).spare) := by
  have hdue : (!(coreOf s core).stopped) = true := by simp [hrotates]
  exact congrArg _ (when_of hdue)

-- band edges (R50, R264)

theorem fld_pair_low {lo : Nat} (up : Nat) (hlo : lo < 4096) : fld (word (lo + 2 ^ 16 * up)) 0 12 = lo := by
  simp only [fld, word, BitVec.toNat_ofNat, Nat.shiftRight_eq_div_pow]
  omega

theorem fld_pair_high {lo up : Nat} (hlo : lo < 4096) (hup : up < 4096) : fld (word (lo + 2 ^ 16 * up)) 16 12 = up := by
  simp only [fld, word, BitVec.toNat_ofNat, Nat.shiftRight_eq_div_pow]
  omega

/-- The edges of the index of a boundary leave the DAC shadow. -/
def edgesTaken (s : State) (ain : Nat) : State :=
  onBand s ain (fun b => { b with shadow := b.shadow.filter (fun x => decide (now s ≤ x.1)) })

/-- An edge pair that its queue gives up intact loads or is rejected, and the law acts on it. -/
theorem exec_bandEdgeLoad_sound {s : State} {ain : Fin 96} {n lo up : Nat}
    (hfind : (bandOf s ain).shadow.find? (fun e => decide (e.1 < now s)) = some (n, lo, up)) (hlo : lo < 4096)
    (hup : up < 4096) (hboundary : bandBoundary s ain = true) :
    exec (.bandEdgeLoad ain .sound) s = .next (lawOf (loadEdges (edgesTaken s ain) ain lo up) ain) := by
  show Host.Outcome.next _ = _
  simp only [hfind, hboundary, when_true, fromQueue, fld_pair_low up hlo, fld_pair_high hlo hup]
  rfl

theorem sameBut_lawOf (s : State) (ain : Nat) : SameBut [.gc, .slots] s (lawOf s ain) :=
  frame_lawOf s ain (List.Subset.refl _) (SameBut.refl _ _)

theorem bandOf_lawOf (s : State) (ain o : Nat) : bandOf (lawOf s ain) o = bandOf s o := by
  have hbands : (lawOf s ain).bands = s.bands := sameBut_lawOf s ain .bands (by decide)
  simp only [bandOf, hbands]

theorem regsBut_lawOf (s : State) (ain : Nat) : RegsBut [] s (lawOf s ain) :=
  regsBut_of_same [] ((sameBut_lawOf s ain) .regs (by decide))

theorem loadEdges_in_order {lo up : Nat} (s : State) (ain : Nat) (h : lo + 2 ≤ up) :
    loadEdges s ain lo up = onBand s ain (fun b => { b with lower := lo, upper := up }) := if_neg (by omega)

theorem loadEdges_out_of_order {lo up : Nat} (s : State) (ain : Nat) (h : up < lo + 2) : loadEdges s ain lo up =
    evt (onBand s ain (fun b => { b with orderErr := min 255 (b.orderErr + 1) })) (pgCC (ain / 4)) (2 + ain % 4) := if_pos h

theorem sameBut_edgesLoaded (s : State) (ain lo up : Nat) :
    SameBut [.bands, .gc, .slots, .regs] s (lawOf (loadEdges (edgesTaken s ain) ain lo up) ain) :=
  frame_lawOf _ _ (by decide) (frame_loadEdges _ _ _ _ (by decide) (frame_onBand _ _ _ (by decide) (SameBut.refl _ _)))

-- comparators (R265 to R267, R878)

/-- Settles O6: a crossing to 1 of a state that is 0 clears the other state of the pair, one to 0 clears its own, and one to 1 of a
state that is 1 finds the other at 0. -/
theorem comparatorStatesExclude : Obligations.ComparatorStatesExclude := by
  unfold Obligations.ComparatorStatesExclude
  intro b upper level hboth
  have hupper : b.u = true → b.lo = false := by simpa using hboth
  have hlower : b.lo = true → b.u = false := fun h => Bool.eq_false_iff.2 fun hu => by simp [hupper hu] at h
  cases upper with
  | true => cases level with
    | true => by_cases hu : b.u = true <;> simp [bandCross, hu, hupper]
    | false => simp [bandCross]
  | false => cases level with
    | true => by_cases hl : b.lo = true <;> simp [bandCross, hl, hlower]
    | false => simp [bandCross]

theorem exec_comparatorCrossing_on {s : State} {ain : Fin 96} (upper level : Bool) (h : comparatorsOn s ain = true) :
    exec (.comparatorCrossing ain upper level) s =
      .next (lawOf (onBand s ain (fun b => bandCrossAt b (now s) upper level)) ain) := congrArg _ (when_of h)

/-- Settles O5: each event with its effect on its core or band, and the law's frame around the band events. -/
theorem converterEvents : Obligations.ConverterEvents := by
  unfold Obligations.ConverterEvents
  intro s hshape hmem
  have hs := (shaped_iff s).1 hshape
  have hwf := regsWf_of_memoryWf hmem
  refine ⟨fun core j hj hsampling hrotates => ?_, fun core k hrotates => ⟨fun hpass => ?_, fun hfail => ?_⟩,
    fun ain n lo up hfind hlo hup hboundary => ?_, fun ain upper level hon => ?_⟩
  · refine ⟨_, exec_rotationStep_due hj hsampling hrotates, frame_wr (by decide) (frame_onCore s core _ (by decide)
      (SameBut.refl _ _)), regsBut_wr _ _ _, rd_wr_same _ _ hwf, coreOf_same _ hs core.isLt, fun o ho => coreOf_other _ ho⟩
  · rw [exec_sliceCalibrationDone k hrotates, if_pos hpass]
  · rw [exec_sliceCalibrationDone k hrotates, if_neg (by simp [hfail])]
  · have hband := bandOf_same (s := s) (a := ain)
      (fun b => { b with shadow := b.shadow.filter (fun x => decide (now s ≤ x.1)) }) hs ain.isLt
    have hs' : Shaped (edgesTaken s ain) := shaped_onBand s ain _ hs
    refine ⟨_, _, exec_bandEdgeLoad_sound hfind hlo hup hboundary, sameBut_edgesLoaded s ain lo up, rfl, fun h => ?_,
      fun h => ?_⟩
    · rw [loadEdges_in_order _ _ h, bandOf_lawOf, bandOf_same _ hs' ain.isLt]
      exact ⟨regsBut_lawOf _ _, by rw [edgesTaken, hband]⟩
    · rw [loadEdges_out_of_order _ _ h, bandOf_lawOf]
      refine ⟨RegsBut.trans (regsBut_evt _ _ _) ((regsBut_lawOf _ _).mono (by simp)), ?_⟩
      refine (bandOf_same _ hs' ain.isLt).trans ?_
      rw [edgesTaken, hband]
  · refine ⟨_, _, exec_comparatorCrossing_on upper level hon, ?_, rfl, ?_⟩
    · exact frame_lawOf _ _ (by decide) (frame_onBand _ _ _ (by decide) (SameBut.refl _ _))
    · rw [bandOf_lawOf, bandOf_same _ hs ain.isLt]
      rfl

-- queue words (R351 to R354)

@[simp] theorem queueWord_isEnd (w : Word) (last : Bool) : (queueWord w last).isEnd = last := by
  have hw : w.toNat.testBit 32 = false := Nat.testBit_lt_two_pow w.isLt
  have hbit : (w.toNat + 2 ^ 32 * b2n last).testBit 32 = last := by
    cases last with
    | false => simpa [b2n] using hw
    | true => rw [b2n, if_pos rfl, Nat.mul_one, Nat.add_comm, Nat.testBit_two_pow_add_eq, hw, Bool.not_false]
  rw [queueWord, QueueWord.isEnd, BitVec.getLsbD_ofNat, hbit]
  exact Bool.and_eq_right_iff_imp.2 fun _ => by decide

/-- The words of a quire or an item hold one end mark. -/
theorem waiting_endMarked {l : List Word} (h : l ≠ []) : waiting (endMarked l) = 1 := by
  have hlast : (l.drop (l.length - 1)).length = 1 := by
    have := List.length_pos_iff.2 h
    rw [List.length_drop]
    omega
  obtain ⟨w, hw⟩ := List.length_eq_one_iff.1 hlast
  have hfront : (l.dropLast.map (fun w => queueWord w false)).countP (·.isEnd) = 0 :=
    List.countP_eq_zero.2 fun x hx => by
      obtain ⟨y, -, rfl⟩ := List.mem_map.1 hx
      simp
  rw [waiting, endMarked, List.countP_append, hfront, hw]
  simp

theorem waiting_flatMap {α : Type} (l : List α) (f : α → List QueueWord) (h : ∀ x, waiting (f x) = 1) :
    waiting (l.flatMap f) = l.length := by
  induction l with
  | nil => rfl
  | cons x l ih =>
    have happend : waiting ((x :: l).flatMap f) = waiting (f x) + waiting (l.flatMap f) := by
      simp [waiting, List.flatMap_cons, List.countP_append]
    rw [happend, h, ih, List.length_cons, Nat.add_comm]

-- the housekeeping converter (R271 to R274)

theorem exec_hkcStart_one {s : State} {p : Path} (hpass : passes s p HKC.START) (hsingle : s.hkc.single = none)
    (hcont : rdb s HKC.SEL 16 = false) : exec (.hkcStart p 1) s = .next (hkcBegin s) := by
  show Host.Outcome.next _ = _
  rw [gated_of_passes _ hpass]
  simp [hkcStart, hkcStartChk, hsingle, hcont, firstSome, rejIf]

theorem hkcTurn_of_single {s : State} {n : Nat} (hn : s.hkc.single = some n) (hended : firstHostSlot n < now s / 10) :
    hkcTurn s = some (firstHostSlot n) := by
  have hten : 10 ≤ now s := by omega
  have hle : firstHostSlot n ≤ now s / 10 - 1 := by omega
  simp [hkcTurn, hkcEnded, hten, hn, hle]

theorem firstHostSlot_bounds (n : Nat) : firstHostSlot n % 4 ≠ 3 ∧ n + 2 ≤ 10 * firstHostSlot n := by
  have hreach : n + 2 ≤ 10 * ceilDiv (n + 2) 10 := by
    unfold ceilDiv
    omega
  by_cases h : ceilDiv (n + 2) 10 % 4 = 3
  · have hnext : firstHostSlot n = ceilDiv (n + 2) 10 + 1 := by simp [firstHostSlot, hostSlot, h]
    omega
  · have hthis : firstHostSlot n = ceilDiv (n + 2) 10 := by simp [firstHostSlot, hostSlot, h]
    omega

theorem exec_dataRead_ready {s : State} (p : Path) (h : hostReady s = true) :
    exec (.dataRead p) s = .next (hkcDataRead s p) := congrArg _ (if_pos h)

theorem exec_queueClear_named {s : State} {p : Path} {q : Nat} (hpass : passes s p SYS.QUEUE_SEL)
    (hq : queueNamed q = true) : exec (.queueClear p q) s =
      .next (wr { s with queueEcc := sparsePut s.queueEcc (0, 0) q (0, 0) } SYS.QUEUE_SEL (word q)) := by
  show Host.Outcome.next _ = _
  rw [gated_of_passes _ hpass]
  simp [queueClear, hq, rejIf]

/-- Settles O7: the queues by the end marks of their words, the converter and the counters command by command. -/
theorem housekeepingAndQueues : Obligations.HousekeepingAndQueues := by
  unfold Obligations.HousekeepingAndQueues
  refine ⟨⟨fun l => waiting_flatMap l _ fun f => waiting_endMarked (by simp [quireWords, quireHead]),
    fun l => waiting_flatMap l _ fun x => waiting_endMarked (by simp [EdgeItem.words]), rfl, fun _ _ => rfl⟩, ?_⟩
  intro s hshape hmem
  have hs := (shaped_iff s).1 hshape
  have hwf := regsWf_of_memoryWf hmem
  refine ⟨fun p hpass hsingle hcont => exec_hkcStart_one hpass hsingle hcont, fun code temp m hm => ⟨_, rfl, ?_⟩,
    fun n hn hended => hkcTurn_of_single hn hended, firstHostSlot_bounds, fun p hready => ?_, fun p q hpass hq => ?_⟩
  · show Host.Outcome.next _ = _
    simp only [hm]
  · refine ⟨_, exec_dataRead_ready p hready, frame_hkcDataRead s p (by decide) (SameBut.refl _ _), regsBut_wr _ _ _,
      rd_wr_same _ _ hwf, ?_⟩
    exact congrArg PathState.latched (pathOf_same p _ hs)
  · exact ⟨_, exec_queueClear_named hpass hq, frame_wr (by decide) (SameBut.set_queueEcc (by decide) (SameBut.refl _ _)),
      regsBut_wr _ _ _, rfl, rd_wr_same _ _ hwf⟩

end Sys2Proof.Machine
end

section
/-!
PROOF. Supplies and clocks (R92, R93, R95, R98 to R103, R114): what the power-good instant leaves, each loss and return of a rail or a
clock, and the settling of O8 from these.
-/
namespace Sys2Proof.Machine

-- the power state

theorem setPower_pwr (s : State) (st : PowerState) : (setPower s st).pwr = { s.pwr with st := st } := by
  unfold setPower evtIf
  split <;> rfl

theorem regsBut_setPower (s : State) (st : PowerState) : RegsBut [hdr pgPWR Hdr.EVT] s (setPower s st) :=
  (regsBut_of_same (s := s) (t := { s with pwr := { s.pwr with st := st } }) _ rfl).trans (regsBut_evtIf _ _ _ _)

-- the power-good instant (R92, R107, R108)

/-- The hub with its straps sampled and every rail valid. -/
def supplied (s : State) : State :=
  onPwr (sampleStraps s) (fun p => { p with
    rails := [true, true, true, true, true, true, true], pwrenFails := 0, removal := false })

/-- The registers that show the causes `c` of a cold reset. -/
def causesShown (s : State) (c : Nat) : State :=
  wr (wr (wr (bumpSat s PWR.RST_COUNT 16 16 1) PWR.RST_CAUSE (word c)) PWR.FAULT_SRC (word (causeFaults c))) CLK.LOSS_COUNT 0

/-- The hub at the power-good instant, before Dawn begins. -/
def poweredUp (s : State) : State :=
  onRstReq (causesShown (coldTime (supplied s)) s.pwr.causes) (fun r => { r with counting := !r.level })

/-- Dawn begins. -/
def dawnBegun (s : State) : State :=
  onPwr (setPower s .dawn) (fun p => { p with causes := 0, dawnPhase := 2, dawnAt := s.time.now })

theorem powerGood_eq {s : State} (htest : s.pins.testen = false) : powerGood s = dawnBegun (poweredUp s) := by
  have hsplit : powerGood s = if (supplied s).pins.testen then onPwr (supplied s) (fun p => { p with st := .factoryTest })
      else dawnBegun (poweredUp s) := rfl
  have htest' : (supplied s).pins.testen = false := htest
  rw [hsplit, htest']
  exact if_neg Bool.false_ne_true

theorem regsBut_coldTime (s : State) : RegsBut [PWR.HOLD_STAT] s (coldTime s) := by
  have hseed : RegsBut [PWR.HOLD_STAT] s (seedTime s) := fun a _ => rd_seedTime s a
  cases hc : s.pwr.coarse with
  | none => simpa only [coldTime, hc] using hseed
  | some c =>
    simp only [coldTime, hc]
    split
    · exact hseed.trans (regsBut_wr (drawn (seedTime s)) _ _)
    · exact hseed

theorem regsBut_causesShown (s : State) (c : Nat) :
    RegsBut [PWR.RST_COUNT, PWR.RST_CAUSE, PWR.FAULT_SRC, CLK.LOSS_COUNT] s (causesShown s c) :=
  ((regsBut_bumpSat s _ _ _ _).mono (by decide)).trans (((regsBut_wr _ _ _).mono (by decide)).trans
    (((regsBut_wr _ _ _).mono (by decide)).trans ((regsBut_wr _ _ _).mono (by decide))))

theorem rd_causesShown {s : State} (c : Nat) (hwf : regsWf s = true) :
    rd (causesShown s c) PWR.RST_CAUSE = word c ∧ rd (causesShown s c) PWR.FAULT_SRC = word (causeFaults c) ∧
      rd (causesShown s c) CLK.LOSS_COUNT = 0 := by
  have h1 := regsWf_bumpSat PWR.RST_COUNT 16 16 1 hwf
  have h2 := regsWf_wr PWR.RST_CAUSE (word c) h1
  have h3 := regsWf_wr PWR.FAULT_SRC (word (causeFaults c)) h2
  refine ⟨?_, ?_, rd_wr_same _ _ h3⟩
  · rw [causesShown, rd_wr_other _ (by decide), rd_wr_other _ (by decide), rd_wr_same _ _ h1]
  · rw [causesShown, rd_wr_other _ (by decide), rd_wr_same _ _ h2]

theorem regsBut_supplied (s : State) : RegsBut [] s (supplied s) := regsBut_of_same _ rfl

theorem rd_poweredUp (s : State) (a : Nat) : rd (poweredUp s) a = rd (causesShown (coldTime (supplied s)) s.pwr.causes) a :=
  rd_onPwr _ _ a

theorem sameBut_poweredUp (s : State) : SameBut [.regs, .time, .freeCtr, .pwr] (supplied s) (poweredUp s) := by
  have htime : SameBut [.regs, .time, .freeCtr, .pwr] (supplied s) (coldTime (supplied s)) :=
    frame_coldTime _ (by decide) (SameBut.refl _ _)
  have hshown : SameBut [.regs, .time, .freeCtr, .pwr] (coldTime (supplied s))
      (causesShown (coldTime (supplied s)) s.pwr.causes) :=
    frame_wr (by decide) (frame_wr (by decide) (frame_wr (by decide) (sameBut_bumpSat _ _ _ _ _ (by decide))))
  exact htime.trans (hshown.trans (frame_onPwr _ _ (by decide) (SameBut.refl _ _)))

theorem dawnBegun_pwr (s : State) :
    (dawnBegun s).pwr = { s.pwr with st := .dawn, causes := 0, dawnPhase := 2, dawnAt := s.time.now } := by
  simp only [dawnBegun, onPwr, setPower_pwr]

theorem sameBut_dawnBegun (s : State) : SameBut [.regs, .pwr] s (dawnBegun s) :=
  frame_onPwr _ _ (by decide) (frame_setPower s _ (by decide) (SameBut.refl _ _))

theorem regsBut_dawnBegun (s : State) : RegsBut [hdr pgPWR Hdr.EVT] s (dawnBegun s) :=
  (regsBut_setPower s .dawn).trans (regsBut_of_same _ rfl)

/-- The straps are those of the power-good instant. -/
theorem pins_dawnBegun_poweredUp (s : State) : (dawnBegun (poweredUp s)).pins =
    { s.pins with strapTwin := s.pins.twinid, strapRoot := s.pins.rooten } :=
  Eq.trans (sameBut_dawnBegun (poweredUp s) .pins (by decide)) (sameBut_poweredUp s .pins (by decide))

/-- Dawn begins with the causes of the reset in their registers and no loss of a clock counted. -/
theorem rd_dawnBegun_poweredUp {s : State} (hmem : memoryWf s = true) :
    rd (dawnBegun (poweredUp s)) PWR.RST_CAUSE = word s.pwr.causes ∧
      rd (dawnBegun (poweredUp s)) PWR.FAULT_SRC = word (causeFaults s.pwr.causes) ∧
      rd (dawnBegun (poweredUp s)) CLK.LOSS_COUNT = 0 := by
  have hk : Keeps s (coldTime (supplied s)) := keeps_coldTime _ (keeps_onPwr _ _ (Keeps.record (Keeps.refl s)))
  obtain ⟨hcause, hfault, hloss⟩ := rd_causesShown s.pwr.causes (regsWf_of_memoryWf (hk.canonical hmem))
  have hkept := regsBut_dawnBegun (poweredUp s)
  have hread : ∀ a, a ∉ [hdr pgPWR Hdr.EVT] → rd (dawnBegun (poweredUp s)) a =
      rd (causesShown (coldTime (supplied s)) s.pwr.causes) a := fun a ha => (hkept a ha).trans (rd_poweredUp s a)
  exact ⟨(hread _ (by decide)).trans hcause, (hread _ (by decide)).trans hfault, (hread _ (by decide)).trans hloss⟩

theorem regsBut_dawnBegun_poweredUp (s : State) : RegsBut [PWR.RST_COUNT, PWR.RST_CAUSE, PWR.FAULT_SRC, PWR.HOLD_STAT,
    CLK.LOSS_COUNT, hdr pgPWR Hdr.EVT] s (dawnBegun (poweredUp s)) := by
  have htime : RegsBut [PWR.HOLD_STAT] s (coldTime (supplied s)) :=
    ((regsBut_supplied s).mono (by decide)).trans (regsBut_coldTime _)
  have hshown : RegsBut [PWR.RST_COUNT, PWR.RST_CAUSE, PWR.FAULT_SRC, CLK.LOSS_COUNT] (coldTime (supplied s)) (poweredUp s) :=
    fun a ha => (rd_poweredUp s a).trans (regsBut_causesShown _ _ a ha)
  exact (htime.mono (by decide)).trans ((hshown.mono (by decide)).trans ((regsBut_dawnBegun _).mono (by decide)))

-- rails (R95, Table 3.2)

theorem hubOn_vbk {s : State} (h : hubOn s = true) : s.pwr.st ≠ .vbkAbsent := by
  intro hst
  simp [hubOn, hst] at h

/-- The loss of a main rail outside Midnight is a cold reset. -/
theorem railLost_main {s : State} {r : Rail} (hr : r = .vdd09 ∨ r = .vdd11m ∨ r = .vddio18) (hvbk : s.pwr.st ≠ .vbkAbsent)
    (hawake : s.pwr.st ≠ .midnight) (hok : railOk s r = true) :
    railLost s r = coldAgain (setRail s r false) Cause.RAIL_MAIN := by
  rcases hr with rfl | rfl | rfl <;> simp [railLost, hvbk, hawake, hok]

theorem railLost_analog {s : State} {r : Rail} (hr : r = .vdda18 ∨ r = .vafe50) (hvbk : s.pwr.st ≠ .vbkAbsent)
    (hok : railOk s r = true) :
    railLost s r = requestWarm (setRail s r false) Cause.RAIL_ANALOG (decide (r = .vdda18)) := by
  rcases hr with rfl | rfl <;> simp [railLost, hvbk, hok]

theorem railLost_vbk {s : State} (hvbk : s.pwr.st ≠ .vbkAbsent) (hok : railOk s .vbk = true) :
    railLost s .vbk = coldReset (setRail s .vbk false) Cause.VBK false .vbkAbsent := by
  simp [railLost, hvbk, hok]

theorem railLost_lanes {s : State} (hon : hubOn s = true) (hok : railOk s .vdd12l = true) :
    railLost s .vdd12l = evt (lanesLost (setRail s .vdd12l false)) pgPWR 3 := by
  have hon' : hubOn (setRail s .vdd12l false) = true := hon
  simp [railLost, hubOn_vbk hon, hok, hon']

-- clocks (R98, R99, R101)

/-- The hub that has lost a clock, with the loss counted where LOSS_COUNT has a field for it. -/
def clockGone (s : State) (c : Clk) : State :=
  match c with
  | .xsys => bumpSat (setClk s .xsys false) CLK.LOSS_COUNT 0 8 1
  | .xtime => bumpSat (setClk s .xtime false) CLK.LOSS_COUNT 8 8 1
  | .corePll => setClk s .corePll false
  | .memPll => setClk s .memPll false
  | .timePll => setClk s .timePll false

theorem clockLost_of_ok {s : State} {c : Clk} (h : clkOk s c = true) :
    clockLost s c = requestWarm (clockGone s c) Cause.CLOCK (decide (c = .xtime ∨ c = .timePll)) := by
  cases c <;> simp [clockLost, h, clockGone]

theorem clockGone_clk (s : State) (c : Clk) : (clockGone s c).clk = (setClk s c false).clk := by
  cases c <;> rfl

theorem sameBut_setClk (s : State) (c : Clk) (v : Bool) : SameBut [.clk, .regs] s (setClk s c v) :=
  frame_setClk s c v (by decide) (SameBut.refl _ _)

theorem sameBut_clockGone (s : State) (c : Clk) : SameBut [.clk, .regs] s (clockGone s c) := by
  cases c with
  | xsys => exact frame_bumpSat _ _ _ _ _ (by decide) (sameBut_setClk s _ _)
  | xtime => exact frame_bumpSat _ _ _ _ _ (by decide) (sameBut_setClk s _ _)
  | corePll => exact sameBut_setClk s _ _
  | memPll => exact sameBut_setClk s _ _
  | timePll => exact sameBut_setClk s _ _

theorem regsBut_clockGone (s : State) (c : Clk) : RegsBut [CLK.LOSS_COUNT] s (clockGone s c) := by
  cases c with
  | xsys => exact regsBut_bumpSat (setClk s .xsys false) _ _ _ _
  | xtime => exact regsBut_bumpSat (setClk s .xtime false) _ _ _ _
  | corePll => exact RegsBut.refl _ s
  | memPll => exact RegsBut.refl _ s
  | timePll => exact RegsBut.refl _ s

-- VBK and PWREN (R93, R103, R114, R117)

theorem exec_vbkApplied_absent {s : State} (h : s.pwr.st = .vbkAbsent) : exec .vbkApplied s = .next (onPwr s (fun p => { p with
      rails := p.rails.set 6 true, causes := addCauses Cause.VBK (if s.pins.npor then 0 else Cause.POR)
      pwren := rdb s PWR.WAKE_CFG 0 || !s.pins.npor
      st := if rdb s PWR.WAKE_CFG 0 || !s.pins.npor then .reset else .midnight })) := by
  refine congrArg _ ((when_of (by simp [h])).trans ?_)
  by_cases hcold : (rdb s PWR.WAKE_CFG 0 || !s.pins.npor) = true
  · rw [hcold]
    exact if_pos hcold
  · rw [Bool.eq_false_iff.2 hcold]
    exact if_neg hcold

theorem exec_pwrenRetry_failed {s : State} (hwaits : waitsForRails s = true) (hlow : s.pwr.pwren = false)
    (hfails : 0 < s.pwr.pwrenFails) : exec .pwrenRetry s =
      .next (onPwr s (fun p => if 3 ≤ p.pwrenFails then { p with st := .midnight, railFail := true, pwrenFails := 0 }
        else { p with pwren := true })) := by
  refine congrArg _ ((when_of (by simp [hwaits, hlow, hfails])).trans ?_)
  by_cases h3 : 3 ≤ s.pwr.pwrenFails
  · simp only [onPwr, h3, if_true]
  · simp only [onPwr, h3, if_false]

theorem exec_powerGood_supplied {s : State} (hnpor : s.pins.npor = true) (htest : s.pins.testen = false)
    (hst : s.pwr.st = .reset ∨ s.pwr.st = .midnight ∧ s.pwr.pwren = true) :
    exec .powerGood s = .next (dawnBegun (poweredUp s)) := by
  have hwaits : (s.pins.npor && (decide (s.pwr.st = .reset) || (decide (s.pwr.st = .midnight) && s.pwr.pwren))) = true := by
    rcases hst with hst | ⟨hst, hhigh⟩
    · simp [hnpor, hst]
    · simp [hnpor, hst, hhigh]
  exact congrArg _ ((when_of hwaits).trans (powerGood_eq htest))

/-- Settles O8: each supply or clock event by the function that the rules give it, under the condition that lets it happen. -/
theorem supplyAndClockEvents : Obligations.SupplyAndClockEvents := by
  unfold Obligations.SupplyAndClockEvents
  intro s hshape hmem
  refine ⟨exec_vbkApplied_absent, fun hnpor htest hst => ?_, fun hwaits hhigh => congrArg _ (when_of (by simp [hwaits, hhigh])),
    exec_pwrenRetry_failed, fun r hr hvbk hawake hok => congrArg _ (railLost_main hr hvbk hawake hok),
    fun r hr hvbk hok => congrArg _ (railLost_analog hr hvbk hok), fun r hr => congrArg _ (when_of (decide_eq_true hr)),
    fun hok hvbk => congrArg _ (railLost_vbk hvbk hok), fun hok hon => congrArg _ (railLost_lanes hon hok),
    fun hok hon => congrArg _ (when_of (by simp [hok, hon])), fun c hok => ?_, fun _ => rfl,
    fun hok => congrArg _ (if_pos hok), fun _ => rfl, rfl, fun _ => rfl, fun hok => congrArg _ (when_of hok), rfl⟩
  · have hpwr := dawnBegun_pwr (poweredUp s)
    obtain ⟨hcause, hfault, hloss⟩ := rd_dawnBegun_poweredUp hmem
    refine ⟨_, exec_powerGood_supplied hnpor htest hst, ?_, ?_, ?_, hcause, hfault, pins_dawnBegun_poweredUp s, hloss,
      regsBut_dawnBegun_poweredUp s⟩ <;> rw [hpwr]
  · exact ⟨_, clockGone s c, rfl, clockGone_clk s c, sameBut_clockGone s c, regsBut_clockGone s c, clockLost_of_ok hok⟩

end Sys2Proof.Machine
end

section
/-!
PROOF. Resets (R113 to R125, R132, R864): the reset and wake inputs, what a cold reset leaves, the keepers and the TAP; the settling
of O10, O12 and O14.
-/
namespace Sys2Proof.Machine

-- reset and wake inputs (R106, R117, R124, R125)

theorem asleep_midnight {s : State} (h : asleep s = true) : s.pwr.st = .midnight := by
  simp only [asleep, Bool.and_eq_true, decide_eq_true_eq] at h
  obtain ⟨⟨hst, -⟩, -⟩ := h
  exact hst

/-- A wake from Midnight other than from removal has the one cause MIDNIGHT. -/
theorem wakeCauses_asleep {s : State} (h : asleep s = true) (hremoval : s.pwr.removal = false) :
    wakeCauses s = Cause.MIDNIGHT := by
  simp [wakeCauses, asleep_midnight h, hremoval]

theorem exec_nporLow_powered {s : State} (hnpor : s.pins.npor = true) (hvbk : s.pwr.st ≠ .vbkAbsent) : exec .nporLow s =
    .next (coldAgain { s with pins := { s.pins with npor := false } } (addCauses Cause.POR (wakeCauses s))) := by
  refine congrArg _ ((when_of hnpor).trans ?_)
  exact if_neg hvbk

theorem exec_nporRelease_powered {s : State} (hnpor : s.pins.npor = false)
    (hrails : s.pwr.rails = [true, true, true, true, true, true, true]) (htest : s.pins.testen = false) :
    exec .nporRelease s = .next { s with
      pins := { s.pins with npor := true, strapTwin := s.pins.twinid, strapRoot := s.pins.rooten } } := by
  refine congrArg _ ((when_of (by simp [hnpor])).trans ?_)
  simp [hrails, htest, sampleStraps]

theorem exec_nwake_asleep {s : State} (hasleep : asleep s = true) (hremoval : s.pwr.removal = false)
    (hwake : rdb s PWR.WAKE_CFG 1 = true) : exec .nwake s = .next (onPwr s (fun p => { p with
      pwren := true, pwrenFails := 0, causes := addCauses p.causes Cause.MIDNIGHT })) := by
  refine congrArg _ ((when_of (by simp [hasleep, hremoval, hwake])).trans ?_)
  rw [wake, wakeCauses_asleep hasleep hremoval]

/-- The hub with its coarse counter at the second of the alarm. -/
def atAlarm (s : State) (c : Nat) : State :=
  onPwr s (fun p => { p with
    coarse := some (alarmSec s (ceilDiv c secLen) * secLen)
    coarseAge := p.coarseAge + (alarmSec s (ceilDiv c secLen) * secLen - c) / secLen })

theorem exec_wakeAt_asleep {s : State} {c : Nat} (hcoarse : s.pwr.coarse = some c) (hasleep : asleep s = true)
    (hremoval : s.pwr.removal = false) (hwake : rdb s PWR.WAKE_CFG 2 = true) (hxlp : s.clk.xlp = true) :
    exec .wakeAt s = .next (wake (atAlarm s c)) := by
  show Host.Outcome.next _ = _
  simp only [hcoarse, hasleep, hremoval, hwake, hxlp, Bool.not_false, Bool.and_self, when_true]
  rfl

theorem wake_pwr {s : State} (hasleep : asleep s = true) (hremoval : s.pwr.removal = false) : (wake s).pwr =
    { s.pwr with pwren := true, pwrenFails := 0, causes := addCauses s.pwr.causes Cause.MIDNIGHT } := by
  rw [wake, wakeCauses_asleep hasleep hremoval]
  rfl

theorem exec_nrstreqFall_running {s : State} (hlevel : s.pwr.rstReq.level = true) (hon : hubOn s = true)
    (hfailed : s.pwr.rstReq.failed = false) : exec .nrstreqFall s =
      .next (onRstReq s (fun r => { r with level := false, debounce := true, counting := true })) := by
  refine congrArg _ ((when_of hlevel).trans ?_)
  simp [onRstReq, onPwr, hon, hfailed]

theorem exec_rstCtrl_key {s : State} {p : Path} (h : passes s p PWR.RST_CTRL) : exec (.rstCtrl p 0xd0a50001) s =
    .next (requestWarm (noteWrite s (some p) PWR.RST_CTRL 0xd0a50001) Cause.HOST false) :=
  congrArg _ (hostAct_of_passes _ h rfl)

/-- Settles O10: each input acts by its rule under the condition that lets it. -/
theorem resetAndWakeInputs : Obligations.ResetAndWakeInputs := by
  unfold Obligations.ResetAndWakeInputs
  intro s _ _
  refine ⟨exec_nporLow_powered, exec_nporRelease_powered, exec_nwake_asleep, fun c hcoarse hasleep hremoval hwake hxlp => ?_,
    exec_nrstreqFall_running, rfl, fun h => congrArg _ (when_of h), fun h => congrArg _ (when_of h),
    fun hfailed hlevel => congrArg _ (when_of (by simp [hfailed, hlevel])), fun hon => congrArg _ (when_of hon), fun _ => rfl,
    fun q hon => congrArg _ (when_of hon), fun p hpass => exec_rstCtrl_key hpass⟩
  have hpwr := wake_pwr (s := atAlarm s c) hasleep hremoval
  refine ⟨_, exec_wakeAt_asleep hcoarse hasleep hremoval hwake hxlp,
    frame_wake _ (by decide) (frame_onPwr s _ (by decide) (SameBut.refl _ _)), ?_, ?_, ?_⟩ <;> rw [hpwr] <;> rfl

-- the cold reset (R113 to R115, Table 3.8)

theorem sparseFind_filter_none {α : Type} {l : List (Nat × α)} {k : Nat → Bool} {a : Nat} (h : k a = false) :
    sparseFind (l.filter (fun e => k e.1)) a = none := by
  induction l with
  | nil => rfl
  | cons e t ih =>
    rw [List.filter_cons]
    split
    next hkept =>
      have hne : a ≠ e.1 := fun heq => by simp [← heq, h] at hkept
      rw [sparseFind, if_neg hne, ih]
    next => exact ih

/-- A register that a cold reset does not keep reads its reset value. -/
theorem rd_coldReset {s : State} {c a : Nat} {aon : Bool} {st : PowerState} (h : coldKeeps aon a = false) :
    rd (coldReset s c aon st) a = resetOf a := by
  have hnone : sparseFind (coldReset s c aon st).regs a = none := sparseFind_filter_none h
  rw [rd, sparseGet, hnone]
  rfl

theorem sameBut_cmdReset (s : State) : SameBut [.regs, .streams, .vat, .cmd, .fuses, .freeCtr] s (cmdReset s) :=
  frame_cmdReset s (List.Subset.refl _) (SameBut.refl _ _)

/-- Settles O12: a cold reset is built from what it keeps. -/
theorem coldResetLeaves : Obligations.ColdResetLeaves := by
  unfold Obligations.ColdResetLeaves
  intro s c aon st _
  have hsame := sameBut_cmdReset s
  exact ⟨_, rfl, rfl, rfl, fun a ha => rd_coldReset ha, rfl, rfl, rfl, rfl, rfl, rfl, rfl, hsame .clk (by decide),
    hsame .pins (by decide), hsame .changes (by decide), hsame .pending (by decide), hsame .serial (by decide)⟩

-- fault bits, keepers, the TAP (R71, R72, R132, R864)

/-- Settles O14: each of these commands is its own function of the state. -/
theorem faultBitsKeepersTap : Obligations.FaultBitsKeepersTap := by
  unfold Obligations.FaultBitsKeepersTap
  intro s hshape _
  have hs := (shaped_iff s).1 hshape
  refine ⟨fun p mask hpass => congrArg _ (gated_of_passes _ hpass), fun _ _ => rfl, fun _ _ => rfl,
    fun b hb f => getD_modify_same f {} (hs.gc ▸ hb), fun i => ?_⟩
  cases i <;> rfl

end Sys2Proof.Machine
end

section
/-!
PROOF. The warm reset from t0 to the resumption of sampling (R119 to R123); the settling of O11.
-/
namespace Sys2Proof.Machine

-- the stages of a warm reset

/-- What a warm reset does to outputs, streams, commands and records before it touches the registers. -/
def warmStored (s : State) : State :=
  captWarm (liteWarm (safeWarm (cmdReset (warmStreams (warmOutputs (if sampling s then wr64 s PWR.LAST_SAMPLED_LO (now s) else s))))))

/-- The registers that a warm reset drops. -/
def warmDropped (s : State) : State :=
  { s with regs := s.regs.filter (fun e => decide (offOf e.1 ≠ Hdr.EVT ∧ offOf e.1 ≠ Hdr.ERRCODE)) }

/-- The record of the causes. -/
def warmRecorded (s : State) : State := wr (bumpSat s PWR.RST_COUNT 0 16 1) PWR.RST_CAUSE (word s.pwr.causes)

/-- The counts of errors that start afresh. -/
def warmCounted (s : State) : State :=
  wr (wr s VAT.SR_STAT (word (1 + 2 ^ 16 * min 65535 (rdf s VAT.SR_STAT 16 16 + 1)))) NVM.ECC_STAT 0

/-- The hub back in Dawn. -/
def warmDawn (s : State) : State :=
  onPwr (setPower s .dawn) (fun p => { p with
    causes := 0, dawnPhase := 2, target := 0, resumeDue := !s.time.gridStarted && !p.warm.timeLost
    warm := { running := true, timeLost := p.warm.timeLost } })

/-- The blocks that start afresh. -/
def warmBlocks (s : State) : State :=
  { s with
    shadow := [], pages := [], twin := { arbsel := s.twin.arbsel }
    inputs := s.inputs.map (fun i => { steps := i.steps })
    hkc := { s.hkc with single := none, sels := [], last := none }
    aout := List.replicate 8 {}
    chains := List.replicate 320 {}
    flt := { s.flt with polyShadow := [], syncAt := none, syncPin := none }
    slots := List.replicate 48 {}
    engines := s.engines.map (fun e => { staging := e.staging, replay := e.staging.length })
    sports := s.sports.map (fun p => { runSerial := p.runSerial }) }

theorem warmReset_eq (s : State) : warmReset s =
    warmBlocks (warmLanes (warmHost (warmTime (warmDawn (warmCounted (warmRecorded (warmDropped (warmStored s)))))))) := by
  unfold warmReset
  extract_lets a1 a2 a3 c a4 a5 a6 a7 a8 a9
  have h3 : a3 = warmStored s := rfl
  clear_value a3
  have h5 : a5 = warmRecorded (warmDropped a3) := rfl
  clear_value a5
  have h7 : a7 = warmCounted a5 := rfl
  clear_value a7
  have h8 : a8 = warmDawn a7 := rfl
  have h9 : a9 = warmLanes (warmHost (warmTime a8)) := rfl
  clear_value a9
  rw [← h3, ← h5, ← h7, ← h8, ← h9]
  rfl

-- what each stage leaves

theorem sameBut_warmStored (s : State) : SameBut [.regs, .queueEcc, .streams, .edges, .freeCtr, .vat, .cmd, .fuses, .reams,
    .lites, .strobes, .safe, .gc, .gen] s (warmStored s) := by
  refine frame_captWarm _ (by decide) (frame_liteWarm _ (by decide) (frame_safeWarm _ (by decide) (frame_cmdReset _ (by decide)
    (frame_warmStreams _ (by decide) (frame_warmOutputs _ (by decide) ?_)))))
  split
  · exact frame_wr64 _ _ _ (by decide) (SameBut.refl _ _)
  · exact SameBut.refl _ _

theorem keeps_warmStored (s : State) : Keeps s (warmStored s) := by
  refine keeps_captWarm _ (keeps_liteWarm _ (keeps_safeWarm _ (keeps_cmdReset _ (keeps_warmStreams _ (keeps_warmOutputs _ ?_)))))
  split
  · exact keeps_wr64 _ _ _ (Keeps.refl s)
  · exact Keeps.refl s

theorem regsWf_warmDropped_warmStored {s : State} (hmem : memoryWf s = true) : regsWf (warmDropped (warmStored s)) = true :=
  regsWf_of_memoryWf ((keeps_regs_filter _ (keeps_warmStored s)).canonical hmem)

/-- The registers dropped and the causes recorded. -/
def warmShown (s : State) : State := warmCounted (warmRecorded (warmDropped s))

theorem sameBut_warmShown (s : State) : SameBut [.regs] s (warmShown s) :=
  frame_wr (by decide) (frame_wr (by decide) (frame_wr (by decide) (frame_bumpSat _ _ _ _ _ (by decide)
    (SameBut.set_regs (by decide) (SameBut.refl _ _)))))

theorem rd_rstCause_warmShown {s : State} (hwf : regsWf (warmDropped s) = true) :
    rd (warmShown s) PWR.RST_CAUSE = word s.pwr.causes := by
  have hcounted : RegsBut [VAT.SR_STAT, NVM.ECC_STAT] (warmRecorded (warmDropped s)) (warmShown s) :=
    ((regsBut_wr _ _ _).mono (by decide)).trans ((regsBut_wr _ _ _).mono (by decide))
  rw [hcounted _ (by decide)]
  exact rd_wr_same _ _ (regsWf_bumpSat _ _ _ _ hwf)

theorem warmDawn_pwr (s : State) : (warmDawn s).pwr = { s.pwr with
    st := .dawn, causes := 0, dawnPhase := 2, target := 0
    resumeDue := !s.time.gridStarted && !s.pwr.warm.timeLost
    warm := { running := true, timeLost := s.pwr.warm.timeLost } } := by
  have hpwr := setPower_pwr s .dawn
  simp [warmDawn, onPwr, hpwr]

theorem sameBut_warmDawn (s : State) : SameBut [.regs, .pwr] s (warmDawn s) :=
  frame_onPwr _ _ (by decide) (frame_setPower _ _ (by decide) (SameBut.refl _ _))

theorem rd_warmDawn (s : State) {a : Nat} (ha : a ∉ [hdr pgPWR Hdr.EVT]) : rd (warmDawn s) a = rd s a :=
  (rd_onPwr _ _ a).trans (regsBut_setPower s .dawn a ha)

theorem warmTime_kept {s : State} (h : s.pwr.warm.timeLost = false) :
    (warmTime s).time.held = true ∧ (warmTime s).time.ht = s.time.ht := by
  simp [warmTime, h, onTime]

/-- The hub at t0 with the causes recorded, back in Dawn. -/
def warmBegun (s : State) : State := warmDawn (warmShown (warmStored s))

/-- The parts of the hub that the time base, the host ports and the lanes of a warm reset change. -/
theorem sameBut_warmRest (s : State) : SameBut [.time, .freeCtr, .host, .lanes, .ring, .adm] s (warmLanes (warmHost (warmTime s))) :=
  frame_warmLanes _ (by decide) (frame_warmHost _ (by decide) (frame_warmTime _ (by decide) (SameBut.refl _ _)))

theorem warmReset_stages (s : State) : warmReset s = warmBlocks (warmLanes (warmHost (warmTime (warmBegun s)))) := warmReset_eq s

theorem sameBut_warmShown_warmStored (s : State) : SameBut [.regs, .queueEcc, .streams, .edges, .freeCtr, .vat, .cmd, .fuses,
    .reams, .lites, .strobes, .safe, .gc, .gen] s (warmShown (warmStored s)) :=
  (sameBut_warmStored s).trans ((sameBut_warmShown _).mono (by decide))

theorem warmBlocks_pwr (s : State) : (warmBlocks s).pwr = s.pwr := rfl

theorem warmBlocks_time (s : State) : (warmBlocks s).time = s.time := rfl

theorem rd_warmBlocks (s : State) (a : Nat) : rd (warmBlocks s) a = rd s a := rfl

theorem warmReset_pwr (s : State) : (warmReset s).pwr = (warmBegun s).pwr := by
  rw [warmReset_stages, warmBlocks_pwr]
  exact sameBut_warmRest (warmBegun s) .pwr (by decide)

theorem rd_warmReset (s : State) (a : Nat) : rd (warmReset s) a = rd (warmBegun s) a := by
  rw [warmReset_stages, rd_warmBlocks]
  exact rd_of_sameBut (sameBut_warmRest (warmBegun s)) (by decide) a

theorem warmReset_time (s : State) : (warmReset s).time = (warmTime (warmBegun s)).time := by
  rw [warmReset_stages, warmBlocks_time]
  exact frame_warmLanes (fp := [.host, .lanes, .ring, .adm]) _ (by decide) (frame_warmHost _ (by decide) (SameBut.refl _ _)) .time
    (by decide)

theorem warmBegun_time (s : State) : (warmBegun s).time = s.time := by
  have hdawn : (warmBegun s).time = (warmShown (warmStored s)).time := sameBut_warmDawn _ .time (by decide)
  exact hdawn.trans (sameBut_warmShown_warmStored s .time (by decide))

theorem warmShown_warmStored_pwr (s : State) : (warmShown (warmStored s)).pwr = s.pwr :=
  sameBut_warmShown_warmStored s .pwr (by decide)

theorem rd_rstCause_warmReset {s : State} (hmem : memoryWf s = true) : rd (warmReset s) PWR.RST_CAUSE = word s.pwr.causes := by
  have hpwr : (warmStored s).pwr = s.pwr := sameBut_warmStored s .pwr (by decide)
  rw [rd_warmReset, warmBegun, rd_warmDawn _ (by decide), rd_rstCause_warmShown (regsWf_warmDropped_warmStored hmem), hpwr]

theorem warmBegun_pwr (s : State) : (warmBegun s).pwr.st = .dawn ∧ (warmBegun s).pwr.dawnPhase = 2 ∧
    (warmBegun s).pwr.causes = 0 ∧ (warmBegun s).pwr.warm = { running := true, timeLost := s.pwr.warm.timeLost } := by
  rw [warmBegun, warmDawn_pwr, warmShown_warmStored_pwr]
  exact ⟨rfl, rfl, rfl, rfl⟩

/-- The warm reset at t0, for O11. -/
theorem warmReset_leaves {s : State} (hmem : memoryWf s = true) :
    (warmReset s).pwr.st = .dawn ∧ (warmReset s).pwr.dawnPhase = 2 ∧ (warmReset s).pwr.warm.running = true ∧
      (warmReset s).pwr.causes = 0 ∧ rd (warmReset s) PWR.RST_CAUSE = word s.pwr.causes ∧ (warmReset s).shadow = [] ∧
      (s.pwr.warm.timeLost = false → (warmReset s).time.held = true ∧ (warmReset s).time.ht = s.time.ht) ∧
      (warmReset s).chains = List.replicate 320 {} ∧ (warmReset s).slots = List.replicate 48 {} := by
  obtain ⟨hst, hphase, hcauses, hwarm⟩ := warmBegun_pwr s
  rw [warmReset_pwr, hwarm]
  refine ⟨hst, hphase, rfl, hcauses, rd_rstCause_warmReset hmem, rfl, fun hlost => ?_, rfl, rfl⟩
  rw [warmReset_time, ← warmBegun_time s]
  exact warmTime_kept (by rw [hwarm]; exact hlost)

-- the resumption of sampling (R120, R123)

/-- The record of a resumption: the time base no longer held, the warm reset over, the chains restarted. -/
def resumed (s : State) (n : Nat) : State :=
  restartChains (warmMarks (onPwr (onTime s (fun t => { t with held := false })) (fun p => { p with warm := {}, dawnPhase := 10 })) n)
    (fun _ => true) n

/-- The samples lost since the last one are noted. -/
def lostNoted (s : State) (last n : Nat) : State :=
  if last + 2 ≤ n then noteGap (notSampledAll s (last + 1) (n - 1)) (last + 1) (n - 1) else s

theorem resumeAt_eq (s : State) (n : Nat) : resumeAt s n =
    leaveDawn (resumed (lostNoted (wr64 s PWR.RESUMED_LO n) (rd64 s PWR.LAST_SAMPLED_LO) n) n) := rfl

theorem sameBut_lostNoted (s : State) (last n : Nat) : SameBut [.regs, .streams, .gaps] s (lostNoted s last n) := by
  unfold lostNoted
  split
  · exact frame_noteGap _ _ _ (by decide) (frame_notSampledAll _ _ _ (by decide) (SameBut.refl _ _))
  · exact SameBut.refl _ _

theorem sameBut_restarted (s : State) (n : Nat) : SameBut [.inputs, .exc, .chains] s
    (restartChains (warmMarks s n) (fun _ => true) n) :=
  frame_restartChains _ _ _ (by decide) (frame_warmMarks _ _ (by decide) (SameBut.refl _ _))

theorem resumed_pwr (s : State) (n : Nat) : (resumed s n).pwr = { s.pwr with warm := {}, dawnPhase := 10 } :=
  sameBut_restarted _ n .pwr (by decide)

theorem resumed_time (s : State) (n : Nat) : (resumed s n).time = { s.time with held := false } :=
  sameBut_restarted _ n .time (by decide)

/-- The warm reset is over and Dawn has come to its last phases. -/
def WarmOver (s : State) : Prop := s.pwr.warm = {} ∧ 10 ≤ s.pwr.dawnPhase

theorem WarmOver.of_pwr {s t : State} (h : WarmOver s) (hpwr : t.pwr = s.pwr) : WarmOver t := by
  unfold WarmOver at *
  rwa [hpwr]

theorem setWait_pwr (s : State) (v : Nat) : (setWait s v).pwr = s.pwr := rfl

theorem evt_pwr (s : State) (p i : Nat) : (evt s p i).pwr = s.pwr := rfl

theorem warmOver_dawnDone {s : State} {st : PowerState} (h : WarmOver s) : WarmOver (dawnDone s st) := by
  have hset := setPower_pwr (onTwin s (fun t => { t with active := decide (st = .noon), arbsel := s.pins.arbsel })) st
  have hdone : (dawnDone s st).pwr = { s.pwr with st := st, warm := {} } := by
    have hlast (x : State) : (if st = .noon then takeOutputs x else releaseOutputs x).pwr = x.pwr := by
      split
      · exact (frame_takeOutputs x (List.Subset.refl _) (SameBut.refl _ _)) .pwr (by decide)
      · rfl
    refine (hlast _).trans ?_
    exact congrArg (fun p : PwrState => { p with warm := {} }) hset
  obtain ⟨-, hphase⟩ := h
  unfold WarmOver
  rw [hdone]
  exact ⟨rfl, hphase⟩

theorem warmOver_dawnComplete {s : State} (h : WarmOver s) : WarmOver (dawnComplete s) := by
  obtain ⟨hwarm, -⟩ := id h
  unfold dawnComplete
  split
  · exact h
  · exact ⟨hwarm, (by decide : 10 ≤ 11)⟩

theorem warmOver_leaveDawn {s : State} (h : WarmOver s) : WarmOver (leaveDawn s) := by
  have hcomplete := warmOver_dawnComplete h
  unfold leaveDawn
  split
  · exact h
  · split
    · split
      · exact h
      · exact h.of_pwr ((evt_pwr _ _ _).trans (setWait_pwr _ _))
    · dsimp only
      split
      · exact warmOver_dawnDone hcomplete
      · split
        · exact warmOver_dawnDone hcomplete
        · split
          · exact warmOver_dawnDone hcomplete
          · exact hcomplete.of_pwr (setWait_pwr _ _)

theorem warmOver_resumeAt (s : State) (n : Nat) : WarmOver (resumeAt s n) := by
  rw [resumeAt_eq]
  refine warmOver_leaveDawn ?_
  unfold WarmOver
  rw [resumed_pwr]
  exact ⟨rfl, Nat.le_refl _⟩

theorem resumeAt_time (s : State) (n : Nat) : (resumeAt s n).time = { s.time with held := false } := by
  have hleave (x : State) : (leaveDawn x).time = x.time :=
    (frame_leaveDawn x (List.Subset.refl _) (SameBut.refl _ _)) .time (by decide)
  have hlost : (lostNoted (wr64 s PWR.RESUMED_LO n) (rd64 s PWR.LAST_SAMPLED_LO) n).time = s.time :=
    sameBut_lostNoted _ _ _ .time (by decide)
  rw [resumeAt_eq, hleave, resumed_time, hlost]

/-- Settles O11: the stages of the warm reset, the hub ready, and the resumption at an index of the grid. -/
theorem warmResetSequence : Obligations.WarmResetSequence := by
  unfold Obligations.WarmResetSequence
  intro s _ hmem
  refine ⟨fun hrequested hactive hon =>
    ⟨_, congrArg Host.Outcome.next (when_of (by simp [hrequested, hactive, hon])), warmReset_leaves hmem⟩,
    fun t himage hready hheld ht => ?_, fun hready hlost hwarm hheld hgrid htick hindex => ?_⟩
  · subst ht
    exact congrArg _ (when_of (by simp [himage, hready, hheld]))
  · have htime := resumeAt_time s (now s)
    obtain ⟨hover, hphase⟩ := warmOver_resumeAt s (now s)
    refine ⟨_, congrArg Host.Outcome.next (when_of (by simp [hready, hlost, hwarm, hheld, hgrid, htick, hindex])), ?_, ?_, hover, hphase⟩
    · rw [htime]
    · rw [htime]

end Sys2Proof.Machine
end

section
/-!
PROOF. Power targets, Dusk and its end (R105, R109 to R111, Table 3.5); the settling of O13.
-/
namespace Sys2Proof.Machine

-- a target begins Dusk

theorem targetChk_none {s : State} {t : Nat} (hst : s.pwr.st = .noon ∨ s.pwr.st = .twilight) (ht : t ≤ 3) :
    targetChk s t = none := by
  have hover : ¬ 3 < t := Nat.not_lt.mpr ht
  rcases hst with hst | hst <;> simp [targetChk, firstSome, rejIf, hst, hover]

theorem pwrCtrl_of_passes {s : State} {p : Path} {v : Word} (h : passes s p PWR.CTRL)
    (hst : s.pwr.st = .noon ∨ s.pwr.st = .twilight) (ht : fld v 0 3 ≠ 0) (h3 : fld v 0 3 ≤ 3) :
    pwrCtrl s p v = enterDusk (noteWrite s (some p) PWR.CTRL v) (fld v 0 3) := by
  rw [pwrCtrl, hostAct_of_passes _ h (targetChk_none hst h3), powerTarget, if_neg ht]

/-- The hub in Dusk with its target. -/
def duskTargeted (s : State) (t : Nat) : State :=
  setPower (onPwr (wr s PWR.CTRL (word t)) (fun p => { p with target := t, duskIncomplete := false })) .dusk

/-- The active member of a pair asks for its release. -/
def duskReleased (s : State) : State :=
  if isPaired s && s.twin.active then onTwin s (fun t => { t with release := true }) else s

theorem enterDusk_eq (s : State) (t : Nat) :
    enterDusk s t = (List.range 64).foldl (fun s i => closeStream s none i) (duskReleased (captDusk (duskTargeted s t))) := by
  unfold enterDusk
  extract_lets s1 s2 s3
  have h1 : s2 = captDusk (duskTargeted s t) := rfl
  clear_value s2
  have h3 : s3 = duskReleased s2 := rfl
  rw [h3, h1]

theorem sameBut_duskReleased (s : State) : SameBut [.twin] s (duskReleased s) := by
  unfold duskReleased
  split
  · exact frame_onTwin _ _ (by decide) (SameBut.refl _ _)
  · exact SameBut.refl _ _

theorem duskTargeted_pwr (s : State) (t : Nat) :
    (duskTargeted s t).pwr = { s.pwr with st := .dusk, target := t, duskIncomplete := false } :=
  setPower_pwr _ _

/-- Closing the streams in Dusk changes no power state. -/
theorem closeStreams_pwr (s : State) (l : List Nat) : (l.foldl (fun s i => closeStream s none i) s).pwr = s.pwr := by
  induction l generalizing s with
  | nil => rfl
  | cons i l ih =>
    rw [List.foldl_cons, ih]
    exact frame_closeStream s none i (List.Subset.refl _) (SameBut.refl _ _) .pwr (by decide)

theorem enterDusk_pwr (s : State) (t : Nat) :
    (enterDusk s t).pwr = { s.pwr with st := .dusk, target := t, duskIncomplete := false } := by
  rw [enterDusk_eq, closeStreams_pwr, ← duskTargeted_pwr]
  exact ((frame_captDusk (duskTargeted s t) (by decide) (SameBut.refl [.regs, .streams, .reams, .twin] _)).trans
    ((sameBut_duskReleased _).mono (by decide))) .pwr (by decide)

-- Dusk ends

theorem coldReset_pwr (s : State) (c : Nat) (aon : Bool) (st : PowerState) : (coldReset s c aon st).pwr =
    { st := st, rails := s.pwr.rails, railFail := aon && s.pwr.railFail, duskIncomplete := aon && s.pwr.duskIncomplete, causes := c
      rstReq := { level := s.pwr.rstReq.level }, coarse := if aon then s.pwr.coarse else none
      coarseAge := if aon then s.pwr.coarseAge else 0 } := by
  have hpwr : (cmdReset s).pwr = s.pwr := sameBut_cmdReset s .pwr (by decide)
  rw [← hpwr]
  rfl

theorem enterMidnight_pwr (s : State) (removal : Bool) : (enterMidnight s removal).pwr.st = .midnight ∧
    (enterMidnight s removal).pwr.pwren = false ∧ (enterMidnight s removal).pwr.removal = removal ∧
    (enterMidnight s removal).pwr.duskIncomplete = s.pwr.duskIncomplete := by
  have hpwr : (enterMidnight s removal).pwr = { (coldReset s 0 true .midnight).pwr with
    removal := removal, pwren := false
    coarse := if s.clk.xlp then some (s.time.ht / 2000000000 * 2000000000) else none, coarseAge := 0 } := rfl
  rw [hpwr, coldReset_pwr]
  exact ⟨rfl, rfl, rfl, rfl⟩

/-- Dusk is over: its target is met and EVT bit 4 is set. -/
def duskLeft (s : State) : State := evt (onPwr (wr s PWR.CTRL 0) (fun p => { p with target := 0 })) pgPWR 4

theorem duskLeft_pwr (s : State) : (duskLeft s).pwr = { s.pwr with target := 0 } := rfl

theorem duskOver_midnight {s : State} (h : s.pwr.target = 1 ∨ s.pwr.target = 2) :
    duskOver s = enterMidnight (duskLeft s) (decide (s.pwr.target = 2)) := by
  rcases h with h | h <;> simp [duskOver, duskLeft, h]

theorem duskOver_twilight {s : State} (h : s.pwr.target = 3) (hactive : s.twin.active = false) :
    duskOver s = setPower (duskLeft s) .twilight := by
  have hkept : (setPower (duskLeft s) .twilight).twin.active = false :=
    (congrArg TwinState.active (frame_setPower (duskLeft s) .twilight (List.Subset.refl _) (SameBut.refl _ _) .twin
      (by decide))).trans hactive
  have hsplit : duskOver s = if s.pwr.target = 1 then enterMidnight (duskLeft s) false
      else if s.pwr.target = 2 then enterMidnight (duskLeft s) true
      else if (setPower (duskLeft s) .twilight).twin.active then setPower (setPower (duskLeft s) .twilight) .noon
      else setPower (duskLeft s) .twilight := rfl
  rw [hsplit, hkept, h]
  rfl

theorem duskOver_midnight_pwr {s : State} (h : s.pwr.target = 1 ∨ s.pwr.target = 2) : (duskOver s).pwr.st = .midnight ∧
    (duskOver s).pwr.pwren = false ∧ (duskOver s).pwr.removal = decide (s.pwr.target = 2) ∧
    (duskOver s).pwr.duskIncomplete = s.pwr.duskIncomplete := by
  rw [duskOver_midnight h]
  exact enterMidnight_pwr (duskLeft s) _

theorem duskDrained_active {s : State} (h : duskDrained s = true) (htarget : s.pwr.target = 3) : s.twin.active = false := by
  unfold duskDrained at h
  rw [htarget] at h
  simp only [Bool.and_eq_true, Bool.not_eq_true'] at h
  obtain ⟨-, hrelease⟩ := h
  simpa using hrelease

/-- An event flag that is set stays set when another is. -/
theorem bit_evt_of_bit {s : State} {page i j : Nat} (hwf : regsWf s = true) (h : bit (rd s (hdr page Hdr.EVT)) j = true) :
    bit (rd (evt s page i) (hdr page Hdr.EVT)) j = true := by
  rw [rd_evt _ _ hwf]
  simp only [bit] at h
  simp [bit, h]

theorem bit_evtIf_of_bit {s : State} {c : Bool} {page i j : Nat} (hwf : regsWf s = true)
    (h : bit (rd s (hdr page Hdr.EVT)) j = true) : bit (rd (evtIf c s page i) (hdr page Hdr.EVT)) j = true := by
  cases c
  · exact h
  · exact bit_evt_of_bit hwf h

theorem bit_evt_same {s : State} {page i : Nat} (hwf : regsWf s = true) (hi : i < 32) :
    bit (rd (evt s page i) (hdr page Hdr.EVT)) i = true := by
  rw [rd_evt _ _ hwf]
  have hbit : (BitVec.ofNat 32 (2 ^ i)).getLsbD i = true := by
    rw [BitVec.getLsbD_ofNat, Nat.testBit_two_pow_self, decide_eq_true hi]
    rfl
  simp only [bit, bitW, if_true, BitVec.getLsbD_or, hbit, Bool.or_true]

theorem duskOver_twilight_leaves {s : State} (hwf : regsWf s = true) (h : s.pwr.target = 3) (hactive : s.twin.active = false) :
    (duskOver s).pwr.st = .twilight ∧ (duskOver s).pwr.target = 0 ∧ rd (duskOver s) PWR.CTRL = 0 ∧
      bit (rd (duskOver s) (hdr pgPWR Hdr.EVT)) 4 = true := by
  have hcleared : regsWf (onPwr (wr s PWR.CTRL 0) (fun p => { p with target := 0 })) = true :=
    (regsWf_onPwr _ _).trans (regsWf_wr _ _ hwf)
  have hctrl : rd (duskLeft s) PWR.CTRL = 0 :=
    (rd_evt_other pgPWR 4 (by decide)).trans ((rd_onPwr _ _ _).trans (rd_wr_same _ _ hwf))
  rw [duskOver_twilight h hactive, setPower_pwr, regsBut_setPower _ _ _ (by decide), hctrl]
  exact ⟨rfl, rfl, rfl, bit_evtIf_of_bit (s := { duskLeft s with pwr := { (duskLeft s).pwr with st := .twilight } })
    (regsWf_evt _ _ hcleared) (bit_evt_same hcleared (by decide))⟩

/-- The spills of the streams that still run end when Dusk runs out. -/
def duskSpillsEnded (s : State) : State :=
  (List.range 64).foldl (fun s i =>
    if (strmOf s i).st = .idle ∨ (strmOf s i).st = .ended then s else endSpills s i 3) s

/-- Dusk at its limit: nothing runs on, and the state is marked incomplete. -/
def duskCut (s : State) : State := onPwr (duskCommands (duskSpillsEnded s)) (fun p => { p with duskIncomplete := true })

theorem duskSpillsEnded_pwr (s : State) : (duskSpillsEnded s).pwr = s.pwr :=
  sameBut_foldl (l := [.regs, .ring, .adm, .sent, .streams, .reams]) (SameBut.refl _ s) (fun x i hx => by
    split
    · exact hx
    · exact frame_endSpills x i 3 (List.Subset.refl _) hx) .pwr (by decide)

theorem duskCut_pwr (s : State) : (duskCut s).pwr = { s.pwr with duskIncomplete := true } := by
  have hcommands : (duskCommands (duskSpillsEnded s)).pwr = (duskSpillsEnded s).pwr :=
    frame_duskCommands _ (List.Subset.refl _) (SameBut.refl _ _) .pwr (by decide)
  have hcut : (duskCut s).pwr = { (duskCommands (duskSpillsEnded s)).pwr with duskIncomplete := true } := rfl
  rw [hcut, hcommands, duskSpillsEnded_pwr]

theorem exec_duskLimit {s : State} (h : s.pwr.st = .dusk) : exec .duskLimit s = .next (duskOver (duskCut s)) :=
  congrArg Host.Outcome.next (when_of (f := fun s => duskOver (duskCut s)) (by simp [h]))

/-- Settles O13: a target begins Dusk; Dusk drained or at its limit ends in the state of its target. -/
theorem powerTargets : Obligations.PowerTargets := by
  unfold Obligations.PowerTargets
  intro s _ hmem
  refine ⟨fun p hpass hst => ⟨congrArg Host.Outcome.next (pwrCtrl_of_passes hpass hst (by decide) (by decide)),
    congrArg Host.Outcome.next (pwrCtrl_of_passes hpass hst (by decide) (by decide)),
    congrArg Host.Outcome.next (pwrCtrl_of_passes hpass hst (by decide) (by decide))⟩, fun t _ => ⟨_, rfl, ?_⟩, fun hst hdrained htarget => ?_,
    fun hst hdrained htarget => ?_, fun hst htarget => ?_⟩
  · rw [enterDusk_pwr]
    exact ⟨rfl, rfl, rfl⟩
  · obtain ⟨hmidnight, hpwren, hremoval, -⟩ := duskOver_midnight_pwr htarget
    exact ⟨_, congrArg Host.Outcome.next (when_of (by simp [hst, hdrained])), hmidnight, hpwren, hremoval⟩
  · exact ⟨_, congrArg Host.Outcome.next (when_of (by simp [hst, hdrained])),
      duskOver_twilight_leaves (regsWf_of_memoryWf hmem) htarget (duskDrained_active hdrained htarget)⟩
  · have hpwr := duskCut_pwr s
    obtain ⟨hmidnight, -, -, hincomplete⟩ := duskOver_midnight_pwr (s := duskCut s) (by rw [hpwr]; exact htarget)
    rw [hpwr] at hincomplete
    exact ⟨_, exec_duskLimit hst, hmidnight, hincomplete⟩

end Sys2Proof.Machine
end

section
/-!
PROOF. Register words (R134 to R138, R142 to R147, R769, R876): the checks of a write in their order, the effect of an access code,
reads and their latches, the Vat window; the settling of O15, O17, O18 and O19.
-/
namespace Sys2Proof.Machine

-- checks in their order

theorem firstSome_eq_none {α : Type} {l : List (Option α)} : firstSome l = none ↔ ∀ x ∈ l, x = none := by
  simp [firstSome, List.findSome?_eq_none_iff]

-- words by address

/-- An address of the register pages goes through the 24 address bits of a command as it is. -/
theorem addr_mod {a : Nat} (ha : a < 0x100000) : a % 2 ^ 24 = a := Nat.mod_eq_of_lt (Nat.lt_trans ha (by decide))

theorem exec_registerWrite {s : State} {p : Path} {a : Nat} (v : Word) (hready : hostReady s = true) (ha : a < 2 ^ 24) :
    exec (.registerWrite p a v) s = .next (writeWord s (some p) a v) := by
  show Host.Outcome.next (hostWrite s p (a % 2 ^ 24) v) = _
  rw [Nat.mod_eq_of_lt ha, hostWrite, if_pos hready]

/-- A word written to a register of a block goes to that register. -/
theorem writeWord_reg {s : State} {w : Who} {a i : Nat} {b : Blk} {r : RegRow} (v : Word) (ha : a < 0x100000) (halign : a % 4 = 0)
    (hb : blkOfPage (pageOf a) = some (b, i)) (ho : 0x40 ≤ offOf a) (hrow : rowAt a = some r) :
    writeWord s w a v = writeReg s w b i a r v := by
  have hbody : ¬ offOf a < 0x40 := Nat.not_lt.mpr ho
  simp [writeWord, halign, ha, hb, hbody, hrow]

theorem writeWord_noRow {s : State} {w : Who} {a i : Nat} {b : Blk} (v : Word) (ha : a < 0x100000) (halign : a % 4 = 0)
    (hb : blkOfPage (pageOf a) = some (b, i)) (ho : 0x40 ≤ offOf a) (hrow : rowAt a = none) :
    writeWord s w a v = refuse s w a ⟨Rsn.ADDR, none⟩ := by
  have hbody : ¬ offOf a < 0x40 := Nat.not_lt.mpr ho
  simp [writeWord, halign, ha, hb, hbody, hrow]

theorem writeReg_accepted {s : State} {w : Who} {b : Blk} {i a : Nat} {r : RegRow} {v : Word}
    (hrej : regRej s w b i a r v = none) (hentry : entryFails s w a = false) :
    writeReg s w b i a r v = regEffect (noteWrite s w a v) w b i a r v := by
  simp [writeReg, entered, hrej, hentry]

theorem writeReg_unentered {s : State} {w : Who} {b : Blk} {i a : Nat} {r : RegRow} {v : Word}
    (hrej : regRej s w b i a r v = none) (hentry : entryFails s w a = true) : writeReg s w b i a r v = entryRefused s w a := by
  simp [writeReg, entered, hrej, hentry]

theorem writeReg_refused {s : State} {w : Who} {b : Blk} {i a : Nat} {r : RegRow} {v : Word} {j : Rej}
    (hrej : regRej s w b i a r v = some j) : writeReg s w b i a r v = refuse s w a j := by
  simp [writeReg, hrej]

/-- The checks of a write to a register whose row meets it, whose gate lets it pass and whose block adds none. -/
theorem regRej_none {s : State} {w : Who} {b : Blk} {i a : Nat} {r : RegRow} {v : Word} (hro : roNow s b (offOf a) r = false)
    (hpart : partMissing s b (offOf a) v = false) (hgate : gateRej s w a = none) (hpending : regPending s a r = false)
    (hblock : blockChk s w b i (offOf a) v = {}) (hchecks : ∀ c ∈ r.checks, c.zeroRej v = none ∧ c.rangeRej v = none) :
    regRej s w b i a r v = none := by
  rw [regRej, firstSome_eq_none]
  intro x hx
  simp only [hro, hpart, hgate, hpending, hblock, rejIf_false, List.mem_append, List.mem_cons, List.mem_map, List.not_mem_nil,
    or_false] at hx
  rcases hx with (((hx | ⟨c, hc, rfl⟩) | hx) | ⟨c, hc, rfl⟩) | hx
  · rcases hx with hx | hx | hx | hx | hx | hx <;> exact hx
  · exact (hchecks c hc).1
  · exact hx
  · exact (hchecks c hc).2
  · rcases hx with hx | hx <;> exact hx

/-- The pages whose registers have no checks beyond those of their rows. -/
theorem regRej_plainBlock {s : State} {p : Path} {b : Blk} {i a : Nat} {r : RegRow} {v : Word} (hpass : passes s p a)
    (hb : b ∈ [.host, .clk, .cmd, .vat, .mot, .edge, .zip, .cal, .nvm, .fuse, .jrnl]) (hro : r.acc ≠ .ro)
    (hpending : r.acc = .rws → scheduled s (pageOf a) = false)
    (hchecks : ∀ c ∈ r.checks, c.zeroRej v = none ∧ c.rangeRej v = none) : regRej s (some p) b i a r v = none := by
  obtain ⟨-, hgate, -⟩ := hpass
  have hfree : regPending s a r = false := by
    by_cases hrws : r.acc = .rws
    · simp [regPending, hpending hrws]
    · simp [regPending, hrws]
  simp only [List.mem_cons, List.not_mem_nil, or_false] at hb
  rcases hb with rfl | rfl | rfl | rfl | rfl | rfl | rfl | rfl | rfl | rfl | rfl <;>
    exact regRej_none (by simp [roNow, hro]) (by simp [partMissing]) hgate hfree rfl hchecks

-- reads

theorem exec_loRead {s : State} {p : Path} {a : Nat} (hready : hostReady s = true) (ha : a < 0x100000) (halign : a % 4 = 0) :
    exec (.loRead p a) s = .next (readReg s p a).1 := by
  show Host.Outcome.next (hostRead s p (a % 2 ^ 24)) = _
  rw [addr_mod ha]
  simp [hostRead, hready, readWord, halign, ha]

theorem readReg_latched {s : State} {p : Path} {a i : Nat} {b : Blk} {w : Word} (hb : blkOfPage (pageOf a) = some (b, i))
    (hchal : a ≠ FUSE.CHAL 0) (hlatched : sparseFind (pathOf s p).latched a = some w) :
    (readReg s p a).1 = onPath s p (fun t => { t with latched := sparseErase t.latched a }) := by
  simp [readReg, hb, hchal, hlatched]

theorem readReg_frozen {s : State} {p : Path} {a i : Nat} {b : Blk} {w : Word} (hb : blkOfPage (pageOf a) = some (b, i))
    (hfrozen : frozenAt s a = some w) (hlatched : sparseFind (pathOf s p).latched a = none) :
    (readReg s p a).1 = latchFor s p b a := by
  simp [readReg, hb, hfrozen, hlatched]

theorem readReg_present {s : State} {p : Path} {a i : Nat} {b : Blk} (hb : blkOfPage (pageOf a) = some (b, i))
    (hfrozen : frozenAt s a = none) (hchal : a ≠ FUSE.CHAL 0) (hlatched : sparseFind (pathOf s p).latched a = none) :
    (readReg s p a).1 = readEffect (latchFor s p b a) a := by
  simp [readReg, hb, hfrozen, hchal, hlatched]

-- the memory ports of the FLT pages

theorem rowAt_coefData : ∃ r, rowAt (FLT.COEF_DATA 0) = some r ∧ r.acc = .rw ∧ r.checks = [] := ⟨_, rfl, rfl, rfl⟩

theorem rowAt_polyData : ∃ r, rowAt (FLT.POLY_DATA 0) = some r ∧ r.acc = .rws ∧ r.checks = [] := ⟨_, rfl, rfl, rfl⟩

/-- A register of the first FLT page reached by its own command. -/
theorem hostWrite_accepted {s : State} {p : Path} {a i : Nat} {b : Blk} {r : RegRow} {v : Word} (ha : a < 0x100000)
    (halign : a % 4 = 0) (hb : blkOfPage (pageOf a) = some (b, i)) (ho : 0x40 ≤ offOf a) (hrow : rowAt a = some r)
    (hpass : passes s p a) (hrej : regRej s (some p) b i a r v = none) :
    hostWrite s p a v = regEffect (noteWrite s (some p) a v) (some p) b i a r v := by
  obtain ⟨hready, -, hentry⟩ := hpass
  rw [hostWrite, if_pos hready, writeWord_reg v ha halign hb ho hrow, writeReg_accepted hrej hentry]

theorem hostRead_reg {s : State} {p : Path} {a : Nat} (hready : hostReady s = true) (ha : a < 0x100000) (halign : a % 4 = 0) :
    hostRead s p a = (readReg s p a).1 := by
  simp [hostRead, hready, readWord, halign, ha]

theorem exec_coefDataWrite {s : State} {p : Path} {v : Word} (hpass : passes s p (FLT.COEF_DATA 0))
    (hset : setActive s (rdf s (FLT.COEF_ADDR 0) 0 15 / 256) = false)
    (hscale : rdf s (FLT.COEF_ADDR 0) 0 15 % 256 = 255 → fld v 0 4 ≤ 8) :
    exec (.coefDataWrite p v) s = .next (coefWrite (noteWrite s (some p) (FLT.COEF_DATA 0) v) v) := by
  obtain ⟨r, hrow, hacc, hchecks⟩ := rowAt_coefData
  have hblock : blockChk s (some p) .flt 0 (offOf (FLT.COEF_DATA 0)) v = {} := by
    show coefChk s v = {}
    have hrange : decide (rdf s (FLT.COEF_ADDR 0) 0 15 % 256 = 255 ∧ 8 < fld v 0 4) = false := by
      simp only [decide_eq_false_iff_not, not_and, Nat.not_lt]
      exact hscale
    simp only [coefChk, hset, hrange, rejIf_false]
  obtain ⟨-, hgate, -⟩ := id hpass
  refine congrArg Host.Outcome.next (hostWrite_accepted (by decide) (by decide) rfl (by decide) hrow hpass
    (regRej_none (by simp [roNow, hacc]) (by simp [partMissing]) hgate (by simp [regPending, hacc]) hblock ?_))
  simp [hchecks]

theorem exec_polyDataWrite {s : State} {p : Path} {v : Word} (hpass : passes s p (FLT.POLY_DATA 0))
    (hfree : scheduled s (pgFLT 0) = false) :
    exec (.polyDataWrite p 0 v) s = .next (polyWrite (noteWrite s (some p) (FLT.POLY_DATA 0) v) 0 v) := by
  obtain ⟨r, hrow, -, hchecks⟩ := rowAt_polyData
  have hacc : r.acc ≠ .ro := by cases hrow; decide
  have hpending : regPending s (FLT.POLY_DATA 0) r = false := by
    have hpage : pageOf (FLT.POLY_DATA 0) = pgFLT 0 := rfl
    simp [regPending, hpage, hfree]
  obtain ⟨-, hgate, -⟩ := id hpass
  refine congrArg Host.Outcome.next (hostWrite_accepted (by decide) (by decide) rfl (by decide) hrow hpass
    (regRej_none (by simp [roNow, hacc]) (by simp [partMissing]) hgate hpending rfl ?_))
  simp [hchecks]

/-- The addresses of POLY_DATA and CH_RED_MIN on the FLT pages. -/
theorem polyData_addr : ∀ g : Fin 40, FLT.POLY_DATA g < 0x100000 ∧ FLT.POLY_DATA g % 4 = 0 ∧
    blkOfPage (pageOf (FLT.POLY_DATA g)) = some (.flt, g.val) ∧ 0x40 ≤ offOf (FLT.POLY_DATA g) ∧
    latchedBy .flt (FLT.POLY_DATA g) = [] ∧ FLT.POLY_DATA g ≠ FUSE.CHAL 0 := by decide

theorem polyData_present : ∀ g : Fin 40, 0 < g.val → rowAt (FLT.POLY_DATA g) = none ∧ FLT.POLY_DATA g ≠ FLT.COEF_DATA 0 ∧
    FLT.POLY_DATA g ≠ LITE.LVL_DATA ∧ FLT.POLY_DATA g ≠ HKC.DATA ∧ FLT.POLY_DATA g ≠ FLT.POLY_DATA 0 := by decide

theorem redMin_addr : ∀ (g : Fin 40) (c : Fin 8), FLT.CH_RED_MIN g c < 0x100000 ∧ FLT.CH_RED_MIN g c % 4 = 0 ∧
    blkOfPage (pageOf (FLT.CH_RED_MIN g c)) = some (.flt, g.val) ∧ FLT.CH_RED_MIN g c ≠ FUSE.CHAL 0 ∧
    FLT.CH_RED_MIN g c ≠ FLT.COEF_DATA 0 ∧ FLT.CH_RED_MIN g c ≠ LITE.LVL_DATA ∧ FLT.CH_RED_MIN g c ≠ HKC.DATA ∧
    FLT.CH_RED_MIN g c ≠ FLT.POLY_DATA 0 := by decide

theorem exec_polyDataWrite_absent {s : State} {p : Path} {g : Fin 40} (v : Word) (hready : hostReady s = true) (hg : 0 < g.val) :
    exec (.polyDataWrite p g v) s = .next (refuse s (some p) (FLT.POLY_DATA g) ⟨Rsn.ADDR, none⟩) := by
  obtain ⟨hsmall, halign, hb, ho, -, -⟩ := polyData_addr g
  obtain ⟨hrow, -, -, -, -⟩ := polyData_present g hg
  show Host.Outcome.next (hostWrite s p (FLT.POLY_DATA (g.val % 40)) v) = _
  rw [Nat.mod_eq_of_lt g.isLt, hostWrite, if_pos hready, writeWord_noRow v hsmall halign hb ho hrow]

theorem exec_polyDataRead {s : State} {p : Path} (g : Fin 40) (hready : hostReady s = true)
    (hfrozen : frozenAt s (FLT.POLY_DATA g) = none) (hlatched : sparseFind (pathOf s p).latched (FLT.POLY_DATA g) = none) :
    exec (.polyDataRead p g) s = .next (readEffect s (FLT.POLY_DATA g)) := by
  obtain ⟨hsmall, halign, hb, -, hnone, hchal⟩ := polyData_addr g
  show Host.Outcome.next (hostRead s p (FLT.POLY_DATA (g.val % 40))) = _
  rw [Nat.mod_eq_of_lt g.isLt, hostRead_reg hready hsmall halign, readReg_present hb hfrozen hchal hlatched, latchFor, hnone]
  rfl

theorem exec_redMinRead {s : State} {p : Path} (g : Fin 40) (c : Fin 8) (hready : hostReady s = true)
    (hfrozen : frozenAt s (FLT.CH_RED_MIN g c) = none)
    (hlatched : sparseFind (pathOf s p).latched (FLT.CH_RED_MIN g c) = none) :
    exec (.redMinRead p g c) s = .next (latchFor s p .flt (FLT.CH_RED_MIN g c)) := by
  obtain ⟨hsmall, halign, hb, hchal, hcoef, hlvl, hhkc, hpoly⟩ := redMin_addr g c
  show Host.Outcome.next (hostRead s p (FLT.CH_RED_MIN (g.val % 40) c)) = _
  rw [Nat.mod_eq_of_lt g.isLt, hostRead_reg hready hsmall halign, readReg_present hb hfrozen hchal hlatched]
  simp [readEffect, hcoef, hlvl, hhkc, hpoly]

/-- Settles O15: a word by its address, accepted or refused, and a read by what is latched or frozen. -/
theorem registerWords : Obligations.RegisterWords := by
  unfold Obligations.RegisterWords
  intro s p hready
  refine ⟨fun a b i r v ha halign hb ho hrow => ?_, fun g b i v hg hb hpass => ?_, fun v a hpass ha hset hscale => ?_,
    fun hfrozen hlatched => ?_, fun v hpass hfree => exec_polyDataWrite hpass hfree, fun hfrozen hlatched => ?_,
    fun g v hg => exec_polyDataWrite_absent v hready hg, fun g hg hfrozen hlatched => ?_,
    fun g c hfrozen hlatched => exec_redMinRead g c hready hfrozen hlatched⟩
  · have hwrite := exec_registerWrite (s := s) (p := p) v hready (Nat.lt_trans ha (by decide))
    rw [writeWord_reg v ha halign hb ho hrow] at hwrite
    have hread := exec_loRead (p := p) hready ha halign
    rw [hwrite, hread]
    refine ⟨fun hrej hentry => congrArg _ (writeReg_unentered hrej hentry),
      fun hrej hentry => congrArg _ (writeReg_accepted hrej hentry), fun hpass hblock hro hpending hchecks => ?_,
      fun j hrej => congrArg _ (writeReg_refused hrej), fun w hchal hlatched => congrArg _ (readReg_latched hb hchal hlatched),
      fun w hfrozen hlatched => congrArg _ (readReg_frozen hb hfrozen hlatched),
      fun hfrozen hchal hlatched => congrArg _ (readReg_present hb hfrozen hchal hlatched)⟩
    obtain ⟨-, -, hentry⟩ := id hpass
    exact congrArg _ (writeReg_accepted (regRej_plainBlock hpass hblock hro hpending hchecks) hentry)
  · obtain ⟨-, hgate, hentry⟩ := hpass
    exact exec_errcodeClear_accepted v hready hg hb hgate hentry
  · subst ha
    exact exec_coefDataWrite hpass hset hscale
  · exact congrArg Host.Outcome.next ((hostRead_reg hready (by decide) (by decide)).trans
      (readReg_present rfl hfrozen (by decide) hlatched))
  · exact exec_polyDataRead 0 hready hfrozen hlatched
  · obtain ⟨-, hcoef, hlvl, hhkc, hpoly⟩ := polyData_present g hg
    refine (exec_polyDataRead g hready hfrozen hlatched).trans ?_
    simp only [readEffect, hcoef, hlvl, hhkc, hpoly, if_false]

end Sys2Proof.Machine
end

section
/-!
PROOF. What a write leaves (R22, R25, R135 to R138, R142, R146, R147): the access codes, the report of a refusal, a word of the Vat;
the settling of O17, O18 and O19.
-/
namespace Sys2Proof.Machine

-- access codes

theorem sparseGet_set_same {α : Type} (l : List (Nat × α)) (d : α) (a : Nat) (v : α) : sparseGet (sparseSet l a v) d a = v := by
  rw [sparseGet, sparseFind_set_same]
  rfl

theorem sparseGet_set_other {α : Type} {l : List (Nat × α)} {a c : Nat} (d v : α) (h : c ≠ a) :
    sparseGet (sparseSet l a v) d c = sparseGet l d c := by
  rw [sparseGet, sparseFind_set_other v h, sparseGet]

/-- A register written in force. -/
theorem wr_leaves {s : State} (a : Nat) (v : Word) (hwf : regsWf s = true) :
    SameBut [.regs] s (wr s a v) ∧ RegsBut [a] s (wr s a v) ∧ rd (wr s a v) a = v :=
  ⟨sameBut_wr s a v (by decide), regsBut_wr s a v, rd_wr_same a v hwf⟩

/-- A shadow written by a path. -/
theorem shadowWrite_leaves (s : State) (a : Nat) (v : Word) :
    SameBut [.shadow] s { s with shadow := sparseSet s.shadow a v } ∧
      rdShadow { s with shadow := sparseSet s.shadow a v } a = v ∧
      ∀ c, c ≠ a → rdShadow { s with shadow := sparseSet s.shadow a v } c = rdShadow s c :=
  ⟨SameBut.set_shadow (by decide) (SameBut.refl _ s), sparseGet_set_same _ _ a v, fun _ hc => sparseGet_set_other _ v hc⟩

/-- Settles O17: one case for each access code. -/
theorem accessCodes : Obligations.AccessCodes := by
  unfold Obligations.AccessCodes
  intro s p a r v hmem
  have hwf := regsWf_of_memoryWf hmem
  refine ⟨_, rfl, fun h => ?_, fun h => ?_, fun h => ?_, fun h => ?_⟩
  · rcases h with h | h
    all_goals
      rw [plainWrite, h]
      exact wr_leaves a _ hwf
  · rw [plainWrite, h]
    exact wr_leaves a _ hwf
  · rw [plainWrite, h]
    exact shadowWrite_leaves s a _
  · rcases h with h | h <;> rw [plainWrite, h]

-- the report of a refusal

/-- The report of a refusal on its page, before the port counts it. -/
def reported (s : State) (p a : Nat) (r : Rej) : State :=
  let t := wr (onPage s p (fun i => { i with errCount := min 15 ((pinfo s p).errCount + 1) })) (hdr p Hdr.ERRCODE)
    (errWord (pageType p) (offOf a) (min 15 ((pinfo s p).errCount + 1)) r)
  if p = pgHOST then wr t HOST.ERR_ADDR (word a) else t

/-- A path told of its refusal; the SPI port counts it. -/
def toldPath (s : State) (q : Path) (e : Word) (r : Rej) : State :=
  let t := onPath s q (fun t => { t with err := true, lastErr := e, lastNamed := r.detail.isSome })
  match q with
  | .spi => bumpSat t HOST.REFUSED_COUNT 0 16 1
  | .sess _ => t

theorem refuseOn_path (s : State) (q : Path) (p a : Nat) (r : Rej) : refuseOn s (some q) p a r =
    toldPath (reported s p a r) q (errWord (pageType p) (offOf a) (min 15 ((pinfo s p).errCount + 1)) r) r := rfl

theorem regsBut_toldPath (s : State) (q : Path) (e : Word) (r : Rej) : RegsBut [HOST.REFUSED_COUNT] s (toldPath s q e r) := by
  cases q with
  | spi => exact (regsBut_of_same _ rfl).trans (regsBut_bumpSat _ _ _ _ _)
  | sess i => exact regsBut_of_same _ rfl

theorem regsBut_reported (s : State) (p a : Nat) (r : Rej) :
    RegsBut [hdr p Hdr.ERRCODE, HOST.ERR_ADDR] s (reported s p a r) := by
  have hcode : RegsBut [hdr p Hdr.ERRCODE, HOST.ERR_ADDR] s (wr (onPage s p (fun i => { i with
      errCount := min 15 ((pinfo s p).errCount + 1) })) (hdr p Hdr.ERRCODE)
      (errWord (pageType p) (offOf a) (min 15 ((pinfo s p).errCount + 1)) r)) :=
    (regsBut_of_same _ rfl).trans ((regsBut_wr _ _ _).mono (by simp))
  unfold reported
  split
  · exact hcode.trans ((regsBut_wr _ _ _).mono (by simp))
  · exact hcode

theorem regsBut_refuseOn (s : State) (q : Path) (p a : Nat) (r : Rej) :
    RegsBut [hdr p Hdr.ERRCODE, HOST.ERR_ADDR, HOST.REFUSED_COUNT] s (refuseOn s (some q) p a r) :=
  ((regsBut_reported s p a r).mono (by simp)).trans ((regsBut_toldPath _ _ _ _).mono (by simp))

theorem rd_errcode_reported {s : State} (p a : Nat) (r : Rej) (hwf : regsWf s = true) : rd (reported s p a r) (hdr p Hdr.ERRCODE) =
    errWord (pageType p) (offOf a) (min 15 ((pinfo s p).errCount + 1)) r := by
  have hcode := rd_wr_same (s := onPage s p (fun i => { i with errCount := min 15 ((pinfo s p).errCount + 1) }))
    (hdr p Hdr.ERRCODE) (errWord (pageType p) (offOf a) (min 15 ((pinfo s p).errCount + 1)) r) hwf
  unfold reported
  split
  · exact (rd_wr_other _ (hdr_ne_of_off_ne (k := pgHOST) (q := 0x48) (by decide) (by decide) (by decide))).trans hcode
  · exact hcode

theorem rd_errcode_refuseOn {s : State} (q : Path) (p a : Nat) (r : Rej) (hwf : regsWf s = true) :
    rd (refuseOn s (some q) p a r) (hdr p Hdr.ERRCODE) =
      errWord (pageType p) (offOf a) (min 15 ((pinfo s p).errCount + 1)) r := by
  have hne : hdr p Hdr.ERRCODE ≠ HOST.REFUSED_COUNT :=
    hdr_ne_of_off_ne (o := Hdr.ERRCODE) (k := pgHOST) (q := 0x50) (by decide) (by decide) (by decide)
  rw [refuseOn_path, regsBut_toldPath _ _ _ _ _ (by simpa using hne), rd_errcode_reported p a r hwf]

/-- Settles O18: a refusal other than ADDR reports on the page of the register. -/
theorem refusedWrite : Obligations.RefusedWrite := by
  unfold Obligations.RefusedWrite
  intro s p a v b i r j hmem hready ha halign hb ho hrow hrej hreason
  have hexec : exec (.registerWrite p a v) s = .next (refuseOn s (some p) (pageOf a) a j) := by
    rw [exec_registerWrite v hready (Nat.lt_trans ha (by decide)), writeWord_reg v ha halign hb ho hrow, writeReg_refused hrej,
      refuse, if_neg hreason]
  exact ⟨_, hexec, frame_refuseOn s (some p) _ a j (by decide) (SameBut.refl _ _), regsBut_refuseOn _ _ _ _ _,
    rd_errcode_refuseOn p _ a j (regsWf_of_memoryWf hmem)⟩

-- a word of the Vat

/-- Where the memory of the Vat itself stands: behind the Felt and the histories of the reams. -/
theorem historyAt_of_reamEnd_le {s : State} {a : Nat} (h : reamEnd s ≤ a) : historyAt s a = none :=
  if_neg (Nat.not_lt.mpr h)

theorem feltEnd_le_of_reamEnd_le {s : State} {a : Nat} (h : reamEnd s ≤ a) : feltEnd s ≤ a :=
  Nat.le_trans (Nat.le_add_right _ _) h

theorem vatPutWord_eq (s : State) (a : Nat) (v : Word) : vatPutWord s a v =
    vatPut (vatPut (vatPut (vatPut s a (BitVec.ofNat 8 (fld v 0 8))) (a + 1) (BitVec.ofNat 8 (fld v 8 8)))
      (a + 2) (BitVec.ofNat 8 (fld v 16 8))) (a + 3) (BitVec.ofNat 8 (fld v 24 8)) := rfl

/-- A byte written behind the reams reads back. -/
theorem vatByte_put_table {s : State} {a : Nat} (b : Byte) (hwf : Memory.wf s.vat = true) (h : reamEnd s ≤ a) :
    vatByte (vatPut s a b) a = b :=
  vatByte_put_same a b hwf (feltEnd_le_of_reamEnd_le h) (historyAt_of_reamEnd_le h)

/-- The four bytes of a word spell it. -/
theorem word_of_bytes (v : Word) : word ((BitVec.ofNat 8 (fld v 0 8)).toNat + 2 ^ 8 * (BitVec.ofNat 8 (fld v 8 8)).toNat +
    2 ^ 16 * (BitVec.ofNat 8 (fld v 16 8)).toNat + 2 ^ 24 * (BitVec.ofNat 8 (fld v 24 8)).toNat) = v := by
  apply BitVec.eq_of_toNat_eq
  have hlt := v.isLt
  simp only [word, fld, BitVec.toNat_ofNat, Nat.shiftRight_eq_div_pow]
  omega

theorem vatByte_putWord_other {s : State} {a c : Nat} (v : Word) (h : c < a ∨ a + 4 ≤ c) :
    vatByte (vatPutWord s a v) c = vatByte s c := by
  rw [vatPutWord_eq, vatByte_put_other _ (by omega), vatByte_put_other _ (by omega), vatByte_put_other _ (by omega),
    vatByte_put_other _ (by omega)]

theorem vatWord_putWord {s : State} {a : Nat} (v : Word) (hwf : Memory.wf s.vat = true) (h : reamEnd s ≤ a) :
    vatWord (vatPutWord s a v) a = v := by
  have hwf1 := vatPut_wf a (BitVec.ofNat 8 (fld v 0 8)) hwf
  have hwf2 := vatPut_wf (a + 1) (BitVec.ofNat 8 (fld v 8 8)) hwf1
  have hwf3 := vatPut_wf (a + 2) (BitVec.ofNat 8 (fld v 16 8)) hwf2
  have hend (t : State) (x : Nat) (b : Byte) : reamEnd (vatPut t x b) = reamEnd t := rfl
  have hbyte0 : vatByte (vatPutWord s a v) a = BitVec.ofNat 8 (fld v 0 8) := by
    rw [vatPutWord_eq, vatByte_put_other _ (by omega), vatByte_put_other _ (by omega), vatByte_put_other _ (by omega),
      vatByte_put_table _ hwf h]
  have hbyte1 : vatByte (vatPutWord s a v) (a + 1) = BitVec.ofNat 8 (fld v 8 8) := by
    rw [vatPutWord_eq, vatByte_put_other _ (by omega), vatByte_put_other _ (by omega),
      vatByte_put_table _ hwf1 (by simp only [hend]; omega)]
  have hbyte2 : vatByte (vatPutWord s a v) (a + 2) = BitVec.ofNat 8 (fld v 16 8) := by
    rw [vatPutWord_eq, vatByte_put_other _ (by omega), vatByte_put_table _ hwf2 (by simp only [hend]; omega)]
  have hbyte3 : vatByte (vatPutWord s a v) (a + 3) = BitVec.ofNat 8 (fld v 24 8) := by
    rw [vatPutWord_eq, vatByte_put_table _ hwf3 (by simp only [hend]; omega)]
  rw [vatWord, hbyte0, hbyte1, hbyte2, hbyte3, word_of_bytes]

/-- A Vat address of the windows comes from an address above the register pages. -/
theorem winOf_vat_le {s : State} {a x : Nat} (h : winOf s a = some (.vat x)) : ¬ a < 0x100000 := by
  intro hlow
  have hnone : winOf s a = none := by
    unfold winOf
    rw [if_neg (by omega), if_neg (by omega), if_neg (by omega)]
  rw [hnone] at h
  cases h

theorem reamEnd_le_of_vatHostChk {s : State} {x : Nat} (h : vatHostChk s x = none) : reamEnd s ≤ x := by
  unfold vatHostChk at h
  split at h
  · cases h
  next =>
    split at h
    · cases h
    next htable =>
      simp only [inTable, Bool.not_eq_true, Bool.not_eq_false', decide_eq_true_eq] at htable
      exact htable.1

/-- Settles O19: the word's bytes stand behind the reams, where no record is read in their place. -/
theorem vatWindowWrite : Obligations.VatWindowWrite := by
  unfold Obligations.VatWindowWrite
  intro s p a x v hmem hready ha halign hwin hchk hbist
  have hexec : exec (.registerWrite p a v) s = .next (vatPutWord s x v) := by
    rw [exec_registerWrite v hready ha]
    simp [writeWord, halign, winOf_vat_le hwin, hwin, winWrite, hchk, hbist]
  have hwf : Memory.wf s.vat = true := by
    simp only [memoryWf, Bool.and_eq_true] at hmem
    exact hmem.1
  exact ⟨_, hexec, frame_vatPutWord s x v (by decide) (SameBut.refl _ _), vatWord_putWord v hwf (reamEnd_le_of_vatHostChk hchk),
    fun c hc => vatByte_putWord_other v hc⟩

end Sys2Proof.Machine
end

section
/-!
PROOF. Commits and PAGE_CTRL (R140, R144, R145, R147 to R154, R877): the checks of a header write, what a commit moves, the bits of
PAGE_CTRL; the settling of O16.
-/
namespace Sys2Proof.Machine

-- header writes of a path

theorem hostWrite_hdr {s : State} {p : Path} {g o i : Nat} {b : Blk} (v : Word) (hready : hostReady s = true) (hg : g < 256)
    (ho : o < 0x40) (halign : o % 4 = 0) (hb : blkOfPage g = some (b, i)) :
    hostWrite s p (hdr g o % 2 ^ 24) v = writeHeaderReg s (some p) b i g o v := by
  have haddr : hdr g o % 2 ^ 24 = hdr g o := addr_mod (hdr_lt hg (Nat.lt_trans ho (by decide)))
  rw [haddr, hostWrite, if_pos hready, writeWord_hdr v hg ho halign hb]

/-- A header write of a path that passes the gate and whose own checks let it pass. -/
theorem hostWrite_hdr_accepted {s : State} {p : Path} {g o i : Nat} {b : Blk} {v : Word} (hg : g < 256) (ho : o < 0x40)
    (halign : o % 4 = 0) (hb : blkOfPage g = some (b, i)) (hpass : passes s p (hdr g o))
    (hrej : headerRej s (some p) b i g o v = none) :
    hostWrite s p (hdr g o % 2 ^ 24) v = headerEffect (noteWrite s (some p) (hdr g o) v) (some p) b i g o v := by
  obtain ⟨hready, -, hentry⟩ := hpass
  rw [hostWrite_hdr v hready hg ho halign hb, writeHeaderReg_accepted hrej hentry]

theorem hostWrite_hdr_refused {s : State} {p : Path} {g o i : Nat} {b : Blk} {v : Word} {j : Rej} (hready : hostReady s = true)
    (hg : g < 256) (ho : o < 0x40) (halign : o % 4 = 0) (hb : blkOfPage g = some (b, i))
    (hrej : headerRej s (some p) b i g o v = some j) :
    hostWrite s p (hdr g o % 2 ^ 24) v = refuse s (some p) (hdr g o) j := by
  rw [hostWrite_hdr v hready hg ho halign hb, writeHeaderReg, hrej, checked_some]

-- the checks of COMMIT

theorem headerRej_commit {s : State} {p : Path} {b : Blk} {i g : Nat} {v : Word} (hgate : gateRej s (some p) (hdr g Hdr.COMMIT) = none) :
    headerRej s (some p) b i g Hdr.COMMIT v =
      if fld v 0 2 = 1 ∨ fld v 0 2 = 2 then commitRej s b i g (fld v 0 2) else none := by
  have hinside : ¬ Hdr.SHADOW_STAT < Hdr.COMMIT := by decide
  have hother : Hdr.COMMIT ≠ Hdr.PAGE_CTRL := by decide
  have hro : (decide (Hdr.COMMIT = Hdr.PAGE_ID ∨ Hdr.COMMIT = Hdr.PAGE_STAT ∨ Hdr.COMMIT = Hdr.ACCESS ∨
      Hdr.COMMIT = Hdr.SHADOW_STAT) : Bool) = false := by decide
  simp only [headerRej, firstSome, hgate, hinside, hro, hother, decide_false, Bool.false_and, Bool.or_self, rejIf_false, if_false,
    true_and]
  split <;> simp

/-- The blocks whose pages have no checks of their own at a commit. -/
theorem commitChk_free {s : State} {b : Blk} {i g : Nat} {at' : Option (Nat × Nat)}
    (hb : b ∈ [Blk.sys, .host, .pwr, .clk, .hkc, .ptp, .lane, .ring, .strm, .cmd, .capt, .lite, .zip, .cal, .nvm, .fuse, .jrnl,
      .twin]) : commitChk s b i g at' = {} := by
  simp only [List.mem_cons, List.not_mem_nil, or_false] at hb
  rcases hb with rfl | rfl | rfl | rfl | rfl | rfl | rfl | rfl | rfl | rfl | rfl | rfl | rfl | rfl | rfl | rfl | rfl | rfl <;> rfl

theorem commitRej_now {s : State} {b : Blk} {i g : Nat} (hfree : scheduled s g = false) (hchk : commitChk s b i g none = {}) :
    commitRej s b i g 1 = none := by
  simp [commitRej, hfree, hchk, firstSome, rejIf]

theorem commitRej_at {s : State} {b : Blk} {i g : Nat} (hfree : scheduled s g = false) (hgrid : gridValid s = true)
    (hahead : now s + 1 < rd64 s (hdr g Hdr.APPLY_AT_LO))
    (hchk : commitChk s b i g (some (now s, rd64 s (hdr g Hdr.APPLY_AT_LO))) = {}) : commitRej s b i g 2 = none := by
  have hpast : ¬ rd64 s (hdr g Hdr.APPLY_AT_LO) ≤ nextEdge s := Nat.not_le.mpr hahead
  simp [commitRej, hfree, hgrid, hchk, hpast, firstSome, rejIf]

theorem commitRej_pending {s : State} {b : Blk} {i g cmd : Nat} (hpending : scheduled s g = true) :
    commitRej s b i g cmd = some ⟨Rsn.PENDING, none⟩ := by
  simp [commitRej, hpending, firstSome, rejIf]

theorem headerEffect_commit (s : State) (p : Path) (b : Blk) (i g : Nat) (v : Word) :
    headerEffect s (some p) b i g Hdr.COMMIT v = commitWrite s b i g (fld v 0 2) := rfl

section
variable {s : State} {p : Path} {g i : Nat} {b : Blk} (hg : g < 256) (hb : blkOfPage g = some (b, i))
include hg hb

theorem exec_commitApplyNow_accepted (hpass : passes s p (hdr g Hdr.COMMIT)) (hfree : scheduled s g = false)
    (hchk : commitChk s b i g none = {}) : exec (.commitApplyNow p g) s =
      .next (onPage (commitSeen (noteWrite s (some p) (hdr g Hdr.COMMIT) 1) g) g (fun x => { x with soon := true })) := by
  obtain ⟨-, hgate, -⟩ := id hpass
  exact congrArg Host.Outcome.next (hostWrite_hdr_accepted (v := 1) hg (by decide) (by decide) hb hpass
    ((headerRej_commit hgate).trans ((if_pos (by decide)).trans (commitRej_now hfree hchk))))

theorem exec_commitApplyAt_accepted (hpass : passes s p (hdr g Hdr.COMMIT)) (hfree : scheduled s g = false)
    (hgrid : gridValid s = true) (hahead : now s + 1 < rd64 s (hdr g Hdr.APPLY_AT_LO))
    (hchk : commitChk s b i g (some (now s, rd64 s (hdr g Hdr.APPLY_AT_LO))) = {}) : exec (.commitApplyAt p g) s =
      .next (scheduleCommit (commitSeen (noteWrite s (some p) (hdr g Hdr.COMMIT) 2) g) b i g) := by
  obtain ⟨-, hgate, -⟩ := id hpass
  exact congrArg Host.Outcome.next (hostWrite_hdr_accepted (v := 2) hg (by decide) (by decide) hb hpass
    ((headerRej_commit hgate).trans ((if_pos (by decide)).trans (commitRej_at hfree hgrid hahead hchk))))

theorem exec_commitCancel_accepted (hpass : passes s p (hdr g Hdr.COMMIT)) : exec (.commitCancel p g) s =
    .next (cancelCommit (commitSeen (noteWrite s (some p) (hdr g Hdr.COMMIT) 3) g) b i g) := by
  obtain ⟨-, hgate, -⟩ := id hpass
  exact congrArg Host.Outcome.next (hostWrite_hdr_accepted (v := 3) hg (by decide) (by decide) hb hpass
    ((headerRej_commit hgate).trans (if_neg (by decide))))

theorem exec_commit_pending (hpass : passes s p (hdr g Hdr.COMMIT)) (hpending : scheduled s g = true) :
    exec (.commitApplyNow p g) s = .next (refuse s (some p) (hdr g Hdr.COMMIT) ⟨Rsn.PENDING, none⟩) ∧
      exec (.commitApplyAt p g) s = .next (refuse s (some p) (hdr g Hdr.COMMIT) ⟨Rsn.PENDING, none⟩) := by
  obtain ⟨hready, hgate, -⟩ := hpass
  exact ⟨congrArg Host.Outcome.next (hostWrite_hdr_refused (v := 1) hready hg (by decide) (by decide) hb
      ((headerRej_commit hgate).trans ((if_pos (by decide)).trans (commitRej_pending hpending)))),
    congrArg Host.Outcome.next (hostWrite_hdr_refused (v := 2) hready hg (by decide) (by decide) hb
      ((headerRej_commit hgate).trans ((if_pos (by decide)).trans (commitRej_pending hpending))))⟩
end

-- what the commands of COMMIT leave

theorem scheduleCommit_plain {s : State} {b : Blk} {i g : Nat} (hb : b ≠ .sprt) : scheduleCommit s b i g =
    onPage s g (fun x => { x with sched := some (rd64 s (hdr g Hdr.APPLY_AT_LO)), schedFrom := now s }) := by
  unfold scheduleCommit
  dsimp only
  split
  · exact absurd rfl hb
  · rfl

/-- The shadows and the scheduled index of a page dropped. -/
def shadowsDropped (s : State) (g : Nat) : State :=
  onPage { s with shadow := s.shadow.filter (fun e => decide (pageOf e.1 ≠ g)) } g (fun x => { x with sched := none })

theorem cancelCommit_plain {s : State} {b : Blk} {i g : Nat} (hb : b ≠ .flt) : cancelCommit s b i g = shadowsDropped s g := by
  unfold cancelCommit
  dsimp only
  split
  · exact absurd rfl hb
  · rfl

theorem rdShadow_of_none {s : State} {a : Nat} (h : sparseFind s.shadow a = none) : rdShadow s a = rd s a := by
  rw [rdShadow, sparseGet, h, Option.getD_none]

theorem sparseFind_filter_page {α : Type} {l : List (Nat × α)} {g a : Nat} (h : pageOf a = g) :
    sparseFind (l.filter (fun e => decide (pageOf e.1 ≠ g))) a = none :=
  sparseFind_filter_none (k := fun c => decide (pageOf c ≠ g)) (by simp [h])

theorem rdShadow_cancelCommit {s : State} {b : Blk} {i g a : Nat} (h : pageOf a = g) :
    rdShadow (cancelCommit s b i g) a = rd (cancelCommit s b i g) a := by
  refine rdShadow_of_none ?_
  have hshadow : (cancelCommit s b i g).shadow = s.shadow.filter (fun e => decide (pageOf e.1 ≠ g)) := by
    unfold cancelCommit
    dsimp only
    split <;> rfl
  rw [hshadow]
  exact sparseFind_filter_page h

-- commits at their edge

theorem edgeRej_free {s : State} {b : Blk} {i g n : Nat}
    (hb : b ∈ [Blk.sys, .host, .pwr, .clk, .hkc, .ptp, .lane, .ring, .strm, .cmd, .capt, .lite, .zip, .cal, .nvm, .fuse, .jrnl,
      .twin]) : edgeRej s b i g n = none := by
  rw [edgeRej, commitChk_free hb]
  rfl

theorem scheduledCommit_due {s : State} {b : Blk} {i g n : Nat} (hb : blkOfPage g = some (b, i)) (hsched : (pinfo s g).sched = some n)
    (htick : atTick s = true) (hdue : n ≤ now s) : scheduledCommit s g = match edgeRej s b i g n with
      | some r => refuse (onPage s g (fun x => { x with sched := none, applied := false })) none (hdr g Hdr.COMMIT) r
      | none => applyCommit (onPage s g (fun x => { x with sched := none })) b i g (now s) (decide (n < now s)) := by
  have hearly : ¬ now s < n := Nat.not_lt.mpr hdue
  simp only [scheduledCommit, hsched, hb, hearly, htick, decide_false, Bool.not_true, Bool.or_self, Bool.false_eq_true, if_false]
    <;> rfl

-- a commit moves the shadows of its page

/-- Registers written in turn read the last value written to each. -/
theorem rd_foldl_wr {l : List (Nat × Word)} {lo : Nat} {t : State} (hl : sparseAbove lo l = true) (hwf : regsWf t = true) (a : Nat) :
    rd (l.foldl (fun t e => wr t e.1 e.2) t) a = sparseGet l (rd t a) a := by
  induction l generalizing lo t with
  | nil => rfl
  | cons e l ih =>
    obtain ⟨c, v⟩ := e
    simp only [sparseAbove, Bool.and_eq_true, decide_eq_true_eq] at hl
    obtain ⟨-, habove⟩ := hl
    rw [List.foldl_cons, ih habove (regsWf_wr _ _ hwf)]
    by_cases hc : a = c
    · subst hc
      rw [rd_wr_same _ _ hwf, sparseGet, sparseGet, sparseFind_none_of_above habove (Nat.lt_succ_self a), sparseFind, if_pos rfl]
      rfl
    · rw [rd_wr_other _ hc, sparseGet, sparseGet, sparseFind, if_neg hc]

theorem sparseFind_filter_some {α : Type} {l : List (Nat × α)} {k : Nat → Bool} {a : Nat} (h : k a = true) :
    sparseFind (l.filter (fun e => k e.1)) a = sparseFind l a := by
  induction l with
  | nil => rfl
  | cons e t ih =>
    rw [List.filter_cons]
    split
    next => rw [sparseFind, sparseFind, ih]
    next hdropped =>
      have hne : a ≠ e.1 := fun heq => hdropped (by rw [← heq]; exact h)
      rw [ih, sparseFind, if_neg hne]

/-- The page's shadows dropped, before their values are written. -/
theorem copyShadows_frame (s : State) (g : Nat) : SameBut [.regs, .shadow] s (copyShadows s g) :=
  frame_copyShadows s g (List.Subset.refl _) (SameBut.refl _ _)

theorem rd_copyShadows {s : State} (g a : Nat) (hmem : memoryWf s = true) (hshadow : sparseAbove 0 s.shadow = true) :
    rd (copyShadows s g) a = sparseGet (pageShadow s g) (rd s a) a :=
  rd_foldl_wr (t := { s with shadow := s.shadow.filter (fun e => decide (pageOf e.1 ≠ g)) })
    (sparseAbove_filter (fun e => decide (pageOf e.1 = g)) hshadow) (regsWf_of_memoryWf hmem) a

theorem rd_copyShadows_page {s : State} {g a : Nat} (hmem : memoryWf s = true) (hshadow : sparseAbove 0 s.shadow = true)
    (ha : pageOf a = g) : rd (copyShadows s g) a = rdShadow s a := by
  have hfind : sparseFind (pageShadow s g) a = sparseFind s.shadow a :=
    sparseFind_filter_some (k := fun c => decide (pageOf c = g)) (by simp [ha])
  rw [rd_copyShadows g a hmem hshadow, rdShadow, sparseGet, hfind, sparseGet]

theorem rd_copyShadows_other {s : State} {g a : Nat} (hmem : memoryWf s = true) (hshadow : sparseAbove 0 s.shadow = true)
    (ha : pageOf a ≠ g) : rd (copyShadows s g) a = rd s a := by
  have hfind : sparseFind (pageShadow s g) a = none :=
    sparseFind_filter_none (k := fun c => decide (pageOf c = g)) (by simp [ha])
  rw [rd_copyShadows g a hmem hshadow, sparseGet, hfind, Option.getD_none]

theorem foldl_wr_shadow (l : List (Nat × Word)) (t : State) : (l.foldl (fun t e => wr t e.1 e.2) t).shadow = t.shadow := by
  induction l generalizing t with
  | nil => rfl
  | cons e l ih => rw [List.foldl_cons, ih, wr_shadow]

theorem rdShadow_copyShadows {s : State} {g a : Nat} (ha : pageOf a = g) :
    rdShadow (copyShadows s g) a = rd (copyShadows s g) a := by
  refine rdShadow_of_none ?_
  rw [copyShadows, foldl_wr_shadow]
  exact sparseFind_filter_page ha

-- PAGE_CTRL

/-- The word of PAGE_CTRL with its three bits. -/
def ctrlWord (enable reset freeze : Bool) : Word := word (b2n enable + 2 * b2n reset + 4 * b2n freeze)

theorem ctrlWord_bits (en rst fr : Bool) :
    bit (ctrlWord en rst fr) 0 = en ∧ bit (ctrlWord en rst fr) 1 = rst ∧ bit (ctrlWord en rst fr) 2 = fr := by
  cases en <;> cases rst <;> cases fr <;> decide

theorem headerRej_ctrl {s : State} {p : Path} {b : Blk} {i g : Nat} {v : Word} (hgate : gateRej s (some p) (hdr g Hdr.PAGE_CTRL) = none)
    (hfixed : (pageFixed b && ctrlStops s g v) = false) : headerRej s (some p) b i g Hdr.PAGE_CTRL v = ctrlBusy s b i g v := by
  have hinside : ¬ Hdr.SHADOW_STAT < Hdr.PAGE_CTRL := by decide
  have hro : (decide (Hdr.PAGE_CTRL = Hdr.PAGE_ID ∨ Hdr.PAGE_CTRL = Hdr.PAGE_STAT ∨ Hdr.PAGE_CTRL = Hdr.ACCESS ∨
      Hdr.PAGE_CTRL = Hdr.SHADOW_STAT) : Bool) = false := by decide
  have hcommit : Hdr.PAGE_CTRL ≠ Hdr.COMMIT := by decide
  simp only [headerRej, firstSome, hgate, hinside, hro, hcommit, hfixed, decide_false, decide_true, Bool.true_and, Bool.or_self,
    rejIf_false, if_true, false_and, if_false]
  cases ctrlBusy s b i g v <;> simp

theorem headerEffect_ctrl (s : State) (p : Path) (b : Blk) (i g : Nat) (v : Word) :
    headerEffect s (some p) b i g Hdr.PAGE_CTRL v = settleAttn (ctrlWrite s p b i g v) := rfl

theorem ctrlWrite_ctrlWord (s : State) (p : Path) (b : Blk) (i g : Nat) (en rst fr : Bool) :
    ctrlWrite s p b i g (ctrlWord en rst fr) = if rst then blockReset (setEnable (setFreeze s p g fr) b i g en) b i g
      else setEnable (setFreeze s p g fr) b i g en := by
  obtain ⟨hen, hrst, hfr⟩ := ctrlWord_bits en rst fr
  rw [ctrlWrite, hen, hrst, hfr]

section
variable {s : State} {p : Path} {g i : Nat} {b : Blk} (hg : g < 256) (hb : blkOfPage g = some (b, i))
  (hpass : passes s p (hdr g Hdr.PAGE_CTRL))
include hg hb hpass

/-- A write of PAGE_CTRL that neither a fixed page nor a block in use stops. -/
theorem ctrlPage_accepted {en fr rst : Bool} (hfixed : (pageFixed b && ctrlStops s g (ctrlWord en rst fr)) = false)
    (hbusy : ctrlBusy s b i g (ctrlWord en rst fr) = none) : ctrlPage s p g en fr rst =
      settleAttn (ctrlWrite (noteWrite s (some p) (hdr g Hdr.PAGE_CTRL) (ctrlWord en rst fr)) p b i g (ctrlWord en rst fr)) := by
  obtain ⟨-, hgate, -⟩ := id hpass
  exact hostWrite_hdr_accepted (v := ctrlWord en rst fr) hg (by decide) (by decide) hb hpass
    ((headerRej_ctrl hgate hfixed).trans hbusy)

/-- The enable written without a reset, where it does not stop a block in use. -/
theorem ctrlPage_enable {en fr : Bool} (h : en = true ∨ blkOn s g = false ∨ (pageFixed b = false ∧ blockInUse s b i = false)) :
    ctrlPage s p g en fr false = settleAttn (setEnable (setFreeze
      (noteWrite s (some p) (hdr g Hdr.PAGE_CTRL) (ctrlWord en false fr)) p g fr) b i g en) := by
  obtain ⟨hbit0, hbit1, -⟩ := ctrlWord_bits en false fr
  have hstops : ctrlStops s g (ctrlWord en false fr) = (!en && blkOn s g) := by simp [ctrlStops, hbit0, hbit1]
  rw [ctrlPage_accepted hg hb hpass (rst := false), ctrlWrite_ctrlWord, if_neg Bool.false_ne_true]
  · rw [hstops]
    rcases h with h | h | ⟨h, -⟩ <;> simp [h]
  · rw [ctrlBusy, hstops, hbit1]
    rcases h with h | h | ⟨-, h⟩ <;> simp [h]

theorem ctrlPage_reset {en fr : Bool} (hfixed : pageFixed b = false) (hidle : blockInUse s b i = false)
    (hband : bandHeld s b i = false) : ctrlPage s p g en fr true = settleAttn (blockReset (setEnable (setFreeze
      (noteWrite s (some p) (hdr g Hdr.PAGE_CTRL) (ctrlWord en true fr)) p g fr) b i g en) b i g) := by
  rw [ctrlPage_accepted hg hb hpass (rst := true) (by simp [hfixed]) (by simp [ctrlBusy, hidle, hband]), ctrlWrite_ctrlWord,
    if_pos rfl]

theorem ctrlPage_busy {fr : Bool} (hon : blkOn s g = true) (hfixed : pageFixed b = false) (huse : blockInUse s b i = true) :
    ctrlPage s p g false fr false = refuse s (some p) (hdr g Hdr.PAGE_CTRL) ⟨Rsn.BUSY, none⟩ := by
  obtain ⟨hready, hgate, -⟩ := hpass
  obtain ⟨hbit0, -, -⟩ := ctrlWord_bits false false fr
  refine hostWrite_hdr_refused (v := ctrlWord false false fr) hready hg (by decide) (by decide) hb
    ((headerRej_ctrl hgate (by simp [hfixed])).trans ?_)
  simp [ctrlBusy, ctrlStops, hbit0, hon, huse, rejIf]
end

/-- Settles O16: each command of COMMIT, the commit at its edge, what it moves, and each bit of PAGE_CTRL. -/
theorem pageHeaderCommands : Obligations.PageHeaderCommands := by
  unfold Obligations.PageHeaderCommands
  refine ⟨fun s g b i free hg hb hfree => ?_, fun s p g b i hg hb hpass => ?_⟩
  · subst hfree
    refine ⟨fun p hpass => ⟨fun hidle hchk => ⟨_, rfl, ?_⟩, fun hidle hgrid hahead hchk => ⟨_, rfl, ?_, scheduleCommit_plain⟩,
      ⟨_, rfl, exec_commitCancel_accepted hg hb hpass, cancelCommit_plain, fun a ha => rdShadow_cancelCommit ha⟩,
      exec_commit_pending hg hb hpass⟩, fun hsoon => ?_, fun n hsched htick hdue => ⟨fun hchk => ?_, fun j hrej => ?_⟩,
      fun _ _ => rfl, fun hmem hshadow => ⟨copyShadows_frame s g, fun a ha => rd_copyShadows_page hmem hshadow ha,
        fun a ha => rdShadow_copyShadows ha, fun a ha => rd_copyShadows_other hmem hshadow ha⟩⟩
    · exact exec_commitApplyNow_accepted hg hb hpass hidle (hchk.elim id commitChk_free)
    · exact exec_commitApplyAt_accepted hg hb hpass hidle hgrid hahead (hchk.elim id commitChk_free)
    · simp only [applySoon, hb]
    · refine congrArg Host.Outcome.next ((scheduledCommit_due hb hsched htick hdue).trans ?_)
      rw [hchk.elim id edgeRej_free]
    · refine congrArg Host.Outcome.next ((scheduledCommit_due hb hsched htick hdue).trans ?_)
      rw [hrej]
  · refine ⟨fun en h => ⟨_, rfl, congrArg Host.Outcome.next (ctrlPage_enable hg hb hpass h)⟩,
      fun hfixed hidle hband => ⟨_, rfl, congrArg Host.Outcome.next (ctrlPage_reset hg hb hpass hfixed hidle hband)⟩,
      fun on => ⟨_, rfl, congrArg Host.Outcome.next (ctrlPage_enable hg hb hpass ?_)⟩, fun en hen hon hfixed huse => ?_⟩
    · cases hon : blkOn s g <;> simp
    · subst hen
      exact congrArg Host.Outcome.next (ctrlPage_busy hg hb hpass hon hfixed huse)

end Sys2Proof.Machine
end

section
/-!
PROOF. Bytes on the wires: numbers and words read back from the bytes that spell them (R22, R23, R163 to R165, R178, Table 4.9).
-/
namespace Sys2Proof.Machine

-- numbers, most significant byte first

theorem netNat_append_byte (l : List Byte) (b : Byte) : netNat (l ++ [b]) = 256 * netNat l + b.toNat := by
  simp [netNat]

@[simp] theorem netBytes_length (n v : Nat) : (netBytes n v).length = n := by
  simp [netBytes]

theorem netBytes_succ (n v : Nat) : netBytes (n + 1) v = netBytes n (v / 256) ++ [BitVec.ofNat 8 v] := by
  have hhigh : ∀ i ∈ List.range n, v / 2 ^ (8 * (n + 1 - 1 - i)) = v / 256 / 2 ^ (8 * (n - 1 - i)) := by
    intro i hi
    have hlt : i < n := List.mem_range.mp hi
    have hexp : 8 * (n + 1 - 1 - i) = 8 + 8 * (n - 1 - i) := by omega
    rw [Nat.div_div_eq_div_mul, hexp, pow_add]
    rfl
  rw [netBytes, List.range_succ, List.map_append, List.map_congr_left (fun i hi => by rw [hhigh i hi])]
  simp [netBytes]

theorem netNat_netBytes (n v : Nat) : netNat (netBytes n v) = v % 256 ^ n := by
  induction n generalizing v with
  | zero => simp [netBytes, netNat, Nat.mod_one]
  | succ n ih =>
    rw [netBytes_succ, netNat_append_byte, ih, pow_succ, Nat.mul_comm (256 ^ n) 256, Nat.mod_mul]
    simp only [BitVec.toNat_ofNat]
    omega

theorem netNat_netBytes_of_lt {n v : Nat} (h : v < 256 ^ n) : netNat (netBytes n v) = v := by
  rw [netNat_netBytes, Nat.mod_eq_of_lt h]

theorem netField_front {n v : Nat} (t : List Byte) (h : v < 256 ^ n) : netField (netBytes n v ++ t) 0 n = v := by
  rw [netField, List.drop_zero, List.take_left' (netBytes_length n v), netNat_netBytes_of_lt h]

theorem netField_behind {m k n v : Nat} (t : List Byte) (h : m ≤ k) : netField (netBytes m v ++ t) k n = netField t (k - m) n := by
  rw [netField, netField, List.drop_append, List.drop_eq_nil_of_le (by simpa using h), netBytes_length, List.nil_append]

-- words, least significant byte first

theorem busWord_busBytes (w : Word) : busWord (w.extractLsb' 0 8) (w.extractLsb' 8 8) (w.extractLsb' 16 8) (w.extractLsb' 24 8) = w := by
  apply BitVec.eq_of_getLsbD_eq
  intro i hi
  rw [busWord]
  simp only [BitVec.getLsbD_append, BitVec.getLsbD_extractLsb']
  split_ifs
  all_goals
    rw [decide_eq_true (by omega), Bool.true_and]
    congr 1
    omega

theorem busWords_busBytes (w : Word) (t : List Byte) : busWords (busBytes w ++ t) = (w :: (busWords t).1, (busWords t).2) := by
  simp [busBytes, busWords, busWord_busBytes]

theorem busWords_flatMap (l : List Word) (t : List Byte) : busWords (l.flatMap busBytes ++ t) = (l ++ (busWords t).1, (busWords t).2) := by
  induction l with
  | nil => rfl
  | cons w l ih => rw [List.flatMap_cons, List.append_assoc, busWords_busBytes, ih, List.cons_append]

theorem busBytes_length (w : Word) : (busBytes w).length = 4 := rfl

-- the SPI port (Table 4.6)

/-- The number of address bytes in a profile. -/
def addrLen (wide : Bool) : Nat := if wide then 4 else 3

theorem spiParse_command (wide : Bool) (op : Byte) (t : List Byte) : spiParse wide (spiCommandBytes wide op ++ t) = spiRest wide op t := by
  cases wide
  · rfl
  · exact if_pos rfl

/-- The address and the data words that follow the command bytes. -/
theorem spiRest_addr {wide : Bool} {a : Nat} (t : List Byte) (h : a < 2 ^ (if wide then 32 else 24)) :
    netNat ((spiAddrBytes wide a ++ t).take (addrLen wide)) = a ∧ (spiAddrBytes wide a ++ t).drop (addrLen wide) = t ∧
      addrLen wide ≤ (spiAddrBytes wide a ++ t).length := by
  have hlen : (spiAddrBytes wide a).length = addrLen wide := netBytes_length _ _
  have hlt : a < 256 ^ addrLen wide := by
    cases wide
    · exact h
    · exact h
  rw [List.take_left' hlen, List.drop_left' hlen, List.length_append, hlen]
  exact ⟨netNat_netBytes_of_lt hlt, rfl, Nat.le_add_right _ _⟩

theorem spiRest_eq (wide : Bool) (op : Byte) (l : List Byte) : spiRest wide op l =
    if op = 0x0b ∧ addrLen wide ≤ l.length then some (.read (netNat (l.take (addrLen wide))))
    else if op = 0x02 ∧ addrLen wide ≤ l.length then
      some (.write (netNat (l.take (addrLen wide))) (busWords (l.drop (addrLen wide))).1 (busWords (l.drop (addrLen wide))).2)
    else if op = 0x3b ∧ addrLen wide ≤ l.length then some (.readReq (netNat (l.take (addrLen wide)))
      ((busWords (l.drop (addrLen wide))).1.headD 0).toNat (busWords (l.drop (addrLen wide))).1.isEmpty)
    else if op = 0x6b then some .fetch
    else if op = 0x05 then some .status
    else if op = 0x66 then some .resetFirst
    else if op = 0x99 then some .resetSecond
    else none := by
  simp only [spiRest, addrLen, decide_eq_true_eq]
  rfl

theorem spiParse_read {wide : Bool} {a : Nat} (h : a < 2 ^ (if wide then 32 else 24)) :
    spiParse wide (spiBytes wide (.read a)) = some (.read a) := by
  obtain ⟨haddr, -, hlen⟩ := spiRest_addr [] h
  rw [List.append_nil] at haddr hlen
  rw [spiBytes, spiParse_command, SpiCall.opcode, spiRest_eq, haddr, if_pos ⟨rfl, hlen⟩]

theorem spiParse_write {wide : Bool} {a : Nat} (l : List Word) (cut : Bool) (h : a < 2 ^ (if wide then 32 else 24)) :
    spiParse wide (spiBytes wide (.write a l cut)) = some (.write a l cut) := by
  have hwords : busWords (l.flatMap busBytes ++ (if cut then [0] else [])) = (l, cut) := by
    rw [busWords_flatMap]
    cases cut <;> simp [busWords]
  obtain ⟨haddr, hdata, hlen⟩ := spiRest_addr (l.flatMap busBytes ++ (if cut then [0] else [])) h
  have hother : ¬ ((0x02 : Byte) = 0x0b ∧ addrLen wide ≤ (spiAddrBytes wide a ++ (l.flatMap busBytes ++ (if cut then [0] else []))).length) :=
    fun hop => absurd hop.1 (by decide)
  rw [spiBytes, spiParse_command, SpiCall.opcode, List.append_assoc, spiRest_eq, if_neg hother, if_pos ⟨rfl, hlen⟩, haddr, hdata, hwords]

theorem spiParse_readReq {wide : Bool} {a n : Nat} {cut : Bool} {t : List Byte} (h : a < 2 ^ (if wide then 32 else 24))
    (ht : t = if cut then [0] else busBytes (word n)) (hn : ((busWords t).1.headD 0).toNat = n) (hcut : (busWords t).1.isEmpty = cut) :
    spiParse wide (spiBytes wide (.readReq a n cut)) = some (.readReq a n cut) := by
  obtain ⟨haddr, hdata, hlen⟩ := spiRest_addr t h
  have hread : ¬ ((0x3b : Byte) = 0x0b ∧ addrLen wide ≤ (spiAddrBytes wide a ++ t).length) := fun hop => absurd hop.1 (by decide)
  have hwrite : ¬ ((0x3b : Byte) = 0x02 ∧ addrLen wide ≤ (spiAddrBytes wide a ++ t).length) := fun hop => absurd hop.1 (by decide)
  rw [spiBytes, spiParse_command, SpiCall.opcode, ← ht, spiRest_eq, if_neg hread, if_neg hwrite, if_pos ⟨rfl, hlen⟩, haddr, hdata, hn, hcut]

theorem spiParse_readReq_whole {wide : Bool} {a n : Nat} (h : a < 2 ^ (if wide then 32 else 24)) (hn : n < 2 ^ 32) :
    spiParse wide (spiBytes wide (.readReq a n false)) = some (.readReq a n false) := by
  have hwords : busWords (busBytes (word n)) = ([word n], false) := by
    have hcons := busWords_busBytes (word n) []
    rwa [List.append_nil] at hcons
  refine spiParse_readReq h rfl ?_ ?_ <;> simp only [Bool.false_eq_true, if_false, hwords]
  · exact Nat.mod_eq_of_lt hn
  · rfl

theorem spiParse_bare (wide : Bool) {x : SpiCall} (hx : x ∈ [SpiCall.fetch, .status, .resetFirst, .resetSecond]) :
    spiParse wide (spiBytes wide x) = some x := by
  simp only [List.mem_cons, List.not_mem_nil, or_false] at hx
  rcases hx with rfl | rfl | rfl | rfl <;> cases wide <;> decide

/-- The bytes of a transaction spell it, in either profile. -/
theorem spiParse_spiBytes (wide : Bool) : (∀ a, a < 2 ^ (if wide then 32 else 24) →
      spiParse wide (spiBytes wide (.read a)) = some (.read a) ∧
      (∀ l cut, spiParse wide (spiBytes wide (.write a l cut)) = some (.write a l cut)) ∧
      (∀ n, n < 2 ^ 32 → spiParse wide (spiBytes wide (.readReq a n false)) = some (.readReq a n false)) ∧
      spiParse wide (spiBytes wide (.readReq a 0 true)) = some (.readReq a 0 true)) ∧
    ∀ x ∈ [SpiCall.fetch, .status, .resetFirst, .resetSecond], spiParse wide (spiBytes wide x) = some x :=
  ⟨fun _ ha => ⟨spiParse_read ha, fun l cut => spiParse_write l cut ha, fun _ hn => spiParse_readReq_whole ha hn,
    spiParse_readReq ha rfl rfl rfl⟩, fun _ hx => spiParse_bare wide hx⟩

-- register-access frames (Table 4.9)

theorem netWords_words4 (l : List Word) : netWords (words4 l) = l := by
  induction l with
  | nil => rfl
  | cons w l ih =>
    have hword : netBytes 4 w.toNat = [(netBytes 4 w.toNat)[0]!, (netBytes 4 w.toNat)[1]!, (netBytes 4 w.toNat)[2]!,
        (netBytes 4 w.toNat)[3]!] := rfl
    have hcons : words4 (w :: l) = netBytes 4 w.toNat ++ words4 l := rfl
    rw [hcons, hword, List.cons_append, List.cons_append, List.cons_append, List.cons_append, List.nil_append, netWords, ih, ← hword,
      netNat_netBytes_of_lt w.isLt]
    simp [word]

/-- The fields of the head of a frame, each at its offset. -/
theorem accessHead_fields {version op hub session count seq address : Nat} (t : List Byte) (hversion : version < 256) (hop : op < 256)
    (hhub : hub < 65536) (hsession : session < 256) (hcount : count < 256) (hseq : seq < 65536) (haddress : address < 2 ^ 32) :
    let b := accessHead version op hub session count seq address ++ t
    b.drop 12 = t ∧ netField b 0 1 = version ∧ netField b 1 1 = op ∧ netField b 2 2 = hub ∧ netField b 4 1 = session ∧
      netField b 5 1 = count ∧ netField b 6 2 = seq ∧ netField b 8 4 = address := by
  intro b
  have hb : b = netBytes 1 version ++ (netBytes 1 op ++ (netBytes 2 hub ++ (netBytes 1 session ++ (netBytes 1 count ++
      (netBytes 2 seq ++ (netBytes 4 address ++ t)))))) := by
    simp only [b, accessHead, List.append_assoc]
  have hdrop : b.drop 12 = t := List.drop_left' (by simp [accessHead])
  refine ⟨hdrop, ?_, ?_, ?_, ?_, ?_, ?_, ?_⟩ <;> rw [hb]
  · exact netField_front _ hversion
  · rw [netField_behind _ (by decide)]
    exact netField_front _ hop
  · rw [netField_behind _ (by decide), netField_behind _ (by decide)]
    exact netField_front _ hhub
  · rw [netField_behind _ (by decide), netField_behind _ (by decide), netField_behind _ (by decide)]
    exact netField_front _ hsession
  · rw [netField_behind _ (by decide), netField_behind _ (by decide), netField_behind _ (by decide), netField_behind _ (by decide)]
    exact netField_front _ hcount
  · rw [netField_behind _ (by decide), netField_behind _ (by decide), netField_behind _ (by decide), netField_behind _ (by decide),
      netField_behind _ (by decide)]
    exact netField_front _ hseq
  · rw [netField_behind _ (by decide), netField_behind _ (by decide), netField_behind _ (by decide), netField_behind _ (by decide),
      netField_behind _ (by decide), netField_behind _ (by decide)]
    exact netField_front _ haddress

/-- The bytes of a register-access frame spell it. -/
theorem accessOf_accessBytes {f : AccessFrame} (hversion : f.version < 256) (hop : f.op < 256) (hhub : f.hub < 65536)
    (hsession : f.session < 256) (hcount : f.count < 256) (haddress : f.address < 2 ^ 32)
    (hdata : f.data.length = (if f.op = 2 then f.count else 0)) : accessOf f.mac (accessBytes f) = some f := by
  obtain ⟨hrest, h0, h1, h2, h4, h5, h6, h8⟩ := accessHead_fields (if f.op = 2 then words4 f.data else []) hversion hop hhub hsession
    hcount f.seq.isLt haddress
  have hlen : ¬ (accessBytes f).length < 12 := by
    simp only [accessBytes, accessHead, List.length_append, netBytes_length]
    omega
  have hwords : (if f.op = 2 then (netWords (if f.op = 2 then words4 f.data else [])).take f.count else []) = f.data := by
    by_cases h : f.op = 2
    · rw [if_pos h] at hdata
      rw [if_pos h, if_pos h, netWords_words4, ← hdata, List.take_length]
    · rw [if_neg h] at hdata
      rw [if_neg h, List.eq_nil_of_length_eq_zero hdata]
  rw [accessOf, if_neg hlen, accessBytes]
  dsimp only
  rw [hrest, h0, h1, h2, h4, h5, h6, h8, hwords, BitVec.ofNat_toNat, BitVec.setWidth_eq]

end Sys2Proof.Machine
end

section
/-!
PROOF. The SPI port and register access by ring frames (R162 to R185): what each transaction and each frame leaves; the settling of
O20 and O21.
-/
namespace Sys2Proof.Machine

-- transactions

/-- A transaction outside a busy period, once host access is ready, acts on the counted port. -/
theorem spiCommand_idle {s : State} {a : Nat} (act : State → State) (hready : hostReady s = true) (hidle : s.host.busy = false) :
    spiCommand s a act = act (spiCount (spiStart s)) := by
  have hstart : (spiStart s).host.busy = false := hidle
  simp [spiCommand, hready, hstart]

theorem spiRead_served {s : State} {a n period : Nat} {ready : Bool} (hready : hostReady s = true) (hidle : s.host.busy = false)
    (hregs : readsWindow (spiCount (spiStart s)) a n = false) (htime : ready = true ∨ dummyLasts (spiCount (spiStart s)) period = true) :
    spiRead s a n false period ready = spiSend (spiCount (spiStart s)) (fun t => readWords t .spi a n) := by
  have hserved : (!ready && !dummyLasts (spiCount (spiStart s)) period) = false := by
    rcases htime with h | h <;> simp [h]
  rw [spiRead, spiCommand_idle _ hready hidle, hregs, hserved]
  rfl

theorem spiRead_late {s : State} {a n period : Nat} (hready : hostReady s = true) (hidle : s.host.busy = false)
    (hregs : readsWindow (spiCount (spiStart s)) a n = false) (htime : dummyLasts (spiCount (spiStart s)) period = false) :
    spiRead s a n false period false = spiLate (spiCount (spiStart s)) a n := by
  rw [spiRead, spiCommand_idle _ hready hidle, hregs, htime]
  rfl

/-- The words of a late READ are zero. -/
theorem flatMap_busBytes_zeros (n : Nat) : (List.replicate n (0 : Word)).flatMap busBytes = List.replicate (4 * n) 0 := by
  induction n with
  | zero => rfl
  | succ n ih =>
    rw [List.replicate_succ, List.flatMap_cons, ih]
    exact (List.replicate_add 4 (4 * n) (0 : Byte)).symm.trans (congrArg (List.replicate · 0) (by omega))

theorem spiLate_out (s : State) (a n : Nat) : (spiLate s a n).host.out.drop 4 = List.replicate (4 * n) 0 := by
  have hout : (spiLate s a n).host.out = (lateWord (statusWord (spiRefuse s a HErr.LATE) .spi) :: List.replicate n 0).flatMap busBytes :=
    rfl
  rw [hout, List.flatMap_cons, List.drop_left' (busBytes_length _), flatMap_busBytes_zeros]

theorem spiWrite_idle {s : State} {a : Nat} (l : List Word) (cut : Bool) (hready : hostReady s = true) (hidle : s.host.busy = false) :
    spiWrite s a l cut = onHost (cutWord (writeWords (spiCount (spiStart s)) .spi a l) (a + 4 * l.length) cut)
      (fun h => { h with busy := true }) :=
  spiCommand_idle _ hready hidle

theorem spiReadReq_idle {s : State} {a n : Nat} (hready : hostReady s = true) (hidle : s.host.busy = false) (hlow : 1 ≤ n)
    (hhigh : n ≤ 1024) : spiReadReq s a n false = onHost (readWords (spiCount (spiStart s)) .spi a n).1 (fun h => { h with
      busy := true, fetch := none, req := some (readWords (spiCount (spiStart s)) .spi a n).2 }) := by
  have hrange : ¬ (n < 1 ∨ 1024 < n) := by omega
  rw [spiReadReq, spiCommand_idle _ hready hidle, if_neg Bool.false_ne_true, if_neg hrange]

/-- What the port sends where the data words are at hand. -/
theorem spiSend_out (s : State) (data : State → State × List Word) :
    (spiSend s data).host.out = (statusWord s .spi :: (data (takeStatus s .spi)).2).flatMap busBytes := rfl

theorem spiFetch_buffered {s : State} {l : List Word} {n : Nat} (hready : hostReady s = true) (hidle : s.host.busy = false)
    (hfetch : s.host.fetch = some l) (hn : n ≤ l.length) : spiFetch s n false =
      onHost (spiSend (spiCount (spiStart s)) (fun t => (t, l.take n))) (fun h => { h with fetch := none }) := by
  have hbuffer : (spiCount (spiStart s)).host.fetch = some l := hfetch
  have hwhole : n - l.length = 0 := Nat.sub_eq_zero_of_le hn
  rw [spiFetch, spiCommand_idle _ hready hidle]
  dsimp only
  rw [hbuffer]
  simp only [hwhole, drawWords, List.append_nil]
  rfl

theorem spiStatus_ready {s : State} (hready : hostReady s = true) :
    spiStatus s = spiSend (spiCount (spiStart s)) (fun s => (s, [])) := if_pos hready

theorem shaped_spiCount_spiStart {s : State} (hs : Shaped s) : Shaped (spiCount (spiStart s)) :=
  shaped_spiCount _ (shaped_spiStart _ hs)

/-- STATUS reads the status and clears the path's refusal. -/
theorem spiSend_status_err {s : State} (hs : Shaped s) : (pathOf (spiSend s (fun s => (s, []))) .spi).err = false := by
  have hpath : pathOf (spiSend s (fun s => (s, []))) .spi = pathOf (takeStatus s .spi) .spi := rfl
  rw [hpath, takeStatus, pathOf_same _ _ hs]

/-- Settles O20: the bytes spell their transaction, and each transaction has its effect. -/
theorem spiTransactions : Obligations.SpiTransactions := by
  unfold Obligations.SpiTransactions
  refine ⟨spiParse_spiBytes, fun s t hshape hready ht => ?_⟩
  subst ht
  have hs := (shaped_iff s).1 hshape
  refine ⟨fun hidle => ⟨fun a n period ready hregs htime => congrArg _ (spiRead_served hready hidle hregs htime),
    fun a n period hregs htime => ⟨_, congrArg Host.Outcome.next (spiRead_late hready hidle hregs htime), rfl, spiLate_out _ _ _⟩,
    fun a l => ⟨congrArg _ (spiWrite_idle l false hready hidle), congrArg _ (spiWrite_idle l true hready hidle)⟩,
    fun a n hlow hhigh => congrArg _ (spiReadReq_idle hready hidle hlow hhigh),
    fun l n hfetch hn => ⟨_, congrArg Host.Outcome.next (spiFetch_buffered hready hidle hfetch hn),
      spiSend_out (spiCount (spiStart s)) (fun t => (t, l.take n)), rfl⟩,
    ⟨_, congrArg Host.Outcome.next (spiCommand_idle _ hready hidle), rfl⟩⟩,
    ⟨_, congrArg Host.Outcome.next (spiStatus_ready hready), ?_, spiSend_status_err (shaped_spiCount_spiStart hs)⟩, fun hbusy => ?_,
    fun hattn hidle hpulse hpulsed => congrArg _ (when_of (by simp [hready, hattn, hidle, hpulse, hpulsed])), rfl,
    fun hattn hrepeat hpulsed hidle hpulse => congrArg _ (when_of (by simp [hready, hattn, hrepeat, hpulsed, hidle, hpulse]))⟩
  · rw [spiSend_out]
    simp
  · exact congrArg Host.Outcome.next (if_neg (by simp [hbusy]))

-- ring frames

/-- A session frame that meets the form is executed where its sequence number is the next one. -/
theorem accessFrame_next {s : State} {f : AccessFrame} {k : Fin 8} {x : Session} (hversion : f.version = 1)
    (hring : rdb s HOST.RING_ACCESS 0 = true) (hform : frameForm f = none) (hsession : sessionOf s f = some k)
    (hopen : s.host.sessions.getD k none = some x) (hseq : f.seq = x.lastSeq + 1) : accessFrame s f =
      (setSession (runFrame s f k).1 k (some { x with lastSeq := f.seq, stored := (runFrame s f k).2 }), some (runFrame s f k).2) := by
  have hnew : x.lastSeq + 1 ≠ x.lastSeq := by bv_omega
  simp only [accessFrame, hversion, hring, hform, hsession, hopen, hseq, hnew]
  simp

theorem accessFrame_repeated {s : State} {f : AccessFrame} {k : Fin 8} {x : Session} (hversion : f.version = 1)
    (hring : rdb s HOST.RING_ACCESS 0 = true) (hform : frameForm f = none) (hsession : sessionOf s f = some k)
    (hopen : s.host.sessions.getD k none = some x) (hseq : f.seq = x.lastSeq) : accessFrame s f = (s, some x.stored) := by
  simp [accessFrame, hversion, hring, hform, hsession, -List.getD_eq_getElem?_getD, hopen, hseq]

/-- A frame for this hub, once host access is ready, is answered the way it came. -/
theorem accessHeard_answered {s t : State} {f : AccessFrame} {r : AccessResp} (hready : hostReady s = true)
    (haddr : s.ring.address = some f.hub) (h : accessFrame s f = (t, some r)) :
    accessHeard s f = sendRing t f.mac (.response r) := by
  simp [accessHeard, hready, haddr, h]

theorem frameForm_read {f : AccessFrame} (hlow : 1 ≤ f.count) (hhigh : f.count ≤ 64) (haddr : f.address < 2 ^ 24) :
    frameForm { f with op := 1, data := [] } = none := by
  have hzero : f.count ≠ 0 := by omega
  have hcount : ¬ 64 < f.count := by omega
  have hnear : f.address < 16777216 := haddr
  simp [frameForm, hzero, hcount, hnear]

theorem frameForm_write {f : AccessFrame} (hlow : 1 ≤ f.count) (hhigh : f.count ≤ 64) (haddr : f.address < 2 ^ 24)
    (hdata : f.count ≤ f.data.length) : frameForm { f with op := 2 } = none := by
  have hzero : f.count ≠ 0 := by omega
  have hcount : ¬ 64 < f.count := by omega
  have hnear : f.address < 16777216 := haddr
  have hshort : ¬ f.data.length < f.count := by omega
  simp [frameForm, hzero, hcount, hnear, hshort]

theorem sessionTimeout_open {s : State} {k : Fin 8} {x : Session} (hopen : s.host.sessions.getD k none = some x) :
    sessionTimeout s k = setSession (onPath (lapse s (.sess k)) (.sess k) (fun _ => {})) k none := by
  rw [sessionTimeout, hopen]
  rfl

theorem sessions_setSession_same {s : State} {k : Fin 8} {x : Option Session} (hs : Shaped s) :
    (setSession s k x).host.sessions.getD k none = x := by
  have hsessions : (setSession s k x).host.sessions = s.host.sessions.set k x := rfl
  have hlt : k.val < s.host.sessions.length := by rw [hs.host_sessions]; exact k.isLt
  rw [hsessions, List.getD_eq_getElem?_getD, List.getElem?_set_self hlt, Option.getD_some]

/-- Settles O21: the bytes spell their frame, and a session's frame is executed, repeated or timed out. -/
theorem ringAccess : Obligations.RingAccess := by
  unfold Obligations.RingAccess
  refine ⟨fun f hversion hop hhub hsession hcount haddress hdata =>
    accessOf_accessBytes hversion hop hhub hsession hcount haddress hdata,
    fun s f k x hshape hready haddr hversion hring hsession hopen => ?_⟩
  have hs := (shaped_iff s).1 hshape
  refine ⟨fun hlow hhigh haddress hseq => ?_, fun hlow hhigh haddress hdata hseq => ?_, fun hlow hhigh haddress hdata hseq => ?_,
    ⟨_, congrArg Host.Outcome.next (sessionTimeout_open hopen), ?_, ?_⟩⟩
  · exact congrArg _ (accessHeard_answered (f := { f with op := 1, data := [] }) hready haddr
      (accessFrame_next hversion hring (frameForm_read hlow hhigh haddress) hsession hopen hseq))
  · exact congrArg _ (accessHeard_answered (f := { f with op := 2 }) hready haddr
      (accessFrame_next hversion hring (frameForm_write hlow hhigh haddress hdata) hsession hopen hseq))
  · exact congrArg _ (accessHeard_answered (f := { f with op := 2 }) hready haddr
      (accessFrame_repeated hversion hring (frameForm_write hlow hhigh haddress hdata) hsession hopen hseq))
  · exact sessions_setSession_same (shaped_onPath _ _ _ (shaped_lapse _ _ hs))
  · have hpath : pathOf (setSession (onPath (lapse s (.sess k)) (.sess k) (fun _ => {})) k none) (.sess k) =
        pathOf (onPath (lapse s (.sess k)) (.sess k) (fun _ => {})) (.sess k) := rfl
    rw [hpath, pathOf_same _ _ (shaped_lapse _ _ hs)]

end Sys2Proof.Machine
end

section
/-!
PROOF. Axis slots (R607 to R621, R632, R633): what the legs' demand leaves of a slot, and each event of a slot; the settling of O22.
-/
namespace Sys2Proof.Machine

-- the legs of a slot

theorem slots_syncSlot (s : State) (r : Nat) : (syncSlot s r).slots = s.slots :=
  frame_syncSlot s r (List.Subset.refl _) (SameBut.refl _ _) .slots (by decide)

theorem slots_syncGroups (s : State) : (syncGroups s).slots = s.slots :=
  frame_syncGroups s (List.Subset.refl _) (SameBut.refl _ _) .slots (by decide)

theorem slotOf_congr {s t : State} (h : t.slots = s.slots) (r : Nat) : slotOf t r = slotOf s r := by
  rw [slotOf, h, slotOf]

theorem slotOf_setLegs_same {s : State} {r : Nat} (legs : List Bool) (hs : Shaped s) (hr : r < 48) :
    slotOf (setLegs s r legs) r = { slotOf s r with
      legs := legs
      holds := (List.range 3).map (fun j =>
        (slotOf s r).holds.getD j false || decide (legs.getD j false ≠ (slotOf s r).legs.getD j false)) } := by
  rw [setLegs, slotOf_congr (slots_syncSlot _ _), slotOf_same _ hs hr]

theorem slotOf_setLegs_other {s : State} {r o : Nat} (legs : List Bool) (ho : o ≠ r) : slotOf (setLegs s r legs) o = slotOf s o := by
  rw [setLegs, slotOf_congr (slots_syncSlot _ _), slotOf_other _ ho]

/-- A slot whose state changes while its legs go to 0. -/
def slotStopped (s : State) (r : Nat) (f : SlotState → SlotState) : State := syncGroups (setLegs (onSlot s r f) r [false, false, false])

theorem sameBut_slotStopped (s : State) (r : Nat) (f : SlotState → SlotState) : SameBut [.slots, .gc, .gen] s (slotStopped s r f) :=
  frame_syncGroups _ (by decide) (frame_setLegs _ _ _ (by decide) (frame_onSlot _ _ _ (by decide) (SameBut.refl _ _)))

theorem slotOf_slotStopped_same {s : State} {r : Nat} (f : SlotState → SlotState) (hs : Shaped s) (hr : r < 48) :
    slotOf (slotStopped s r f) r = { f (slotOf s r) with
      legs := [false, false, false]
      holds := (List.range 3).map (fun j => (f (slotOf s r)).holds.getD j false ||
        decide ([false, false, false].getD j false ≠ (f (slotOf s r)).legs.getD j false)) } := by
  rw [slotStopped, slotOf_congr (slots_syncGroups _), slotOf_setLegs_same _ (shaped_onSlot _ _ _ hs) hr, slotOf_same _ hs hr]

theorem slotOf_slotStopped_other {s : State} {r o : Nat} (f : SlotState → SlotState) (ho : o ≠ r) :
    slotOf (slotStopped s r f) o = slotOf s o := by
  rw [slotStopped, slotOf_congr (slots_syncGroups _), slotOf_setLegs_other _ ho, slotOf_other _ ho]

-- a fault cleared by the host

/-- The registers that an accepted clear writes. -/
def faultRegsCleared (s : State) (r : Nat) : State := wr s (MOT.AX_CFG r) (setFld (rd s (MOT.AX_CFG r)) 0 1 0)

/-- The slot after the clear of its fault, its group's flag cleared. -/
def faultSlotCleared (s : State) (r : Nat) : State :=
  let s := onSlot s r (fun x => { x with st := .disabled, cause := 0, reaction := 0, lawOn := false, imageEn := false })
  wr s MOT.GEN_STAT (setFld (rd s MOT.GEN_STAT) (16 + axGen s r) 1 0)

theorem motClearFault_fault {s : State} {w : Who} {r : Fin 48} (hfault : (slotOf s r).st = .fault) (hcause : causePresent s r = false)
    (heng : (engOf s (r / 4)).run ≠ .fault) :
    motClearFault s w r = clearBlock (syncGroups (faultSlotCleared (faultRegsCleared s r) r)) := by
  have hr : ¬ 47 < r.val := by omega
  have hchk : firstSome [
      rejIf (decide ((slotOf s r).st = .fault) && (causePresent s r || decide ((engOf s (r.val / 4)).run = .fault))) Rsn.BUSY,
      rejIf (decide (47 < r.val)) Rsn.RANGE] = none := by
    simp [firstSome, rejIf, hcause, heng, hr]
  rw [motClearFault, hchk, checked_none, if_pos hfault]
  rfl

theorem slots_clearBlock (s : State) : (clearBlock s).slots = s.slots :=
  frame_clearBlock s (List.Subset.refl _) (SameBut.refl _ _) .slots (by decide)

theorem regsBut_clearBlock (s : State) : RegsBut [PWR.FAULT_SRC] s (clearBlock s) := by
  unfold clearBlock
  split
  · exact RegsBut.refl _ _
  · exact regsBut_wr _ _ _

theorem regsBut_syncGroups (s : State) : RegsBut [] s (syncGroups s) :=
  regsBut_of_same _ (frame_syncGroups s (List.Subset.refl _) (SameBut.refl _ _) .regs (by decide))

theorem regsBut_faultSlotCleared (s : State) (r : Nat) : RegsBut [MOT.GEN_STAT] s (faultSlotCleared s r) :=
  (regsBut_of_same _ rfl).trans (regsBut_wr _ _ _)

theorem slotOf_faultSlotCleared {s : State} {r : Nat} (hs : Shaped s) (hr : r < 48) : slotOf (faultSlotCleared s r) r =
    { slotOf s r with st := .disabled, cause := 0, reaction := 0, lawOn := false, imageEn := false } :=
  slotOf_same _ hs hr

theorem motClearFault_leaves {s : State} {r : Fin 48} (hs : Shaped s) :
    let u := clearBlock (syncGroups (faultSlotCleared (faultRegsCleared s r) r))
    SameBut [.slots, .gc, .gen, .regs] s u ∧ (slotOf u r).st = .disabled ∧ (slotOf u r).cause = 0 ∧
      RegsBut [MOT.AX_CFG r, MOT.GEN_STAT, PWR.FAULT_SRC] s u := by
  intro u
  have hshaped : Shaped (faultRegsCleared s r) := shaped_wr hs
  have hslot : slotOf u r = { slotOf s r with st := .disabled, cause := 0, reaction := 0, lawOn := false, imageEn := false } := by
    rw [slotOf_congr (slots_clearBlock _), slotOf_congr (slots_syncGroups _),
      slotOf_faultSlotCleared hshaped r.isLt]
    rfl
  refine ⟨?_, by rw [hslot], by rw [hslot], ?_⟩
  · exact frame_clearBlock _ (by decide) (frame_syncGroups _ (by decide) (frame_wr (by decide)
      (frame_onSlot _ _ _ (by decide) (frame_wr (by decide) (SameBut.refl _ _)))))
  · exact ((regsBut_wr s _ _).mono (by simp)).trans (((regsBut_faultSlotCleared _ _).mono (by simp)).trans
      (((regsBut_syncGroups _).mono (by simp)).trans ((regsBut_clearBlock _).mono (by simp))))

/-- Settles O22: each slot event under the condition that lets it. -/
theorem motionSlotEvents : Obligations.MotionSlotEvents := by
  unfold Obligations.MotionSlotEvents
  intro s r hshape _
  have hs := (shaped_iff s).1 hshape
  refine ⟨fun leg hheld => congrArg _ (when_of hheld), fun hsampling hcfg hst hboundary hidx himage => ?_,
    fun hst hidx hboundary => congrArg _ (when_of (by simp [hst, hidx, hboundary])), fun hon hcfg hboundary hidx => ?_,
    fun hst hreaction => congrArg _ (when_of (by simp [hst, hreaction])), fun p hpass hfault hcause heng => ?_,
    fun p hpass hmark => ?_, fun m hmark hvalid hperiod hm hlost => congrArg _ (when_of ?_)⟩
  · refine ⟨slotStopped s r (fun x => { x with
        st := .arming, armIdx := now s, imageEn := false, cause := 0, reaction := 0, clips := [0, 0, 0], lawOn := false }),
      congrArg Host.Outcome.next (when_of (by simp [hsampling, hcfg, hst, hboundary, hidx, himage])), sameBut_slotStopped _ _ _,
      ?_, ?_, ?_, ?_, fun o ho => slotOf_slotStopped_other _ ho⟩ <;> rw [slotOf_slotStopped_same _ hs r.isLt]
  · refine ⟨slotStopped s r (fun x => { x with st := .disabled, lawOn := false }),
      congrArg Host.Outcome.next (when_of (by simp [hon, hcfg, hboundary, hidx])), sameBut_slotStopped _ _ _,
      ?_, ?_, fun o ho => slotOf_slotStopped_other _ ho⟩ <;> rw [slotOf_slotStopped_same _ hs r.isLt]
  · exact ⟨_, congrArg Host.Outcome.next ((gated_of_passes _ hpass).trans (motClearFault_fault hfault hcause heng)),
      motClearFault_leaves hs⟩
  · refine congrArg Host.Outcome.next ((gated_of_passes _ hpass).trans ?_)
    have hr : ¬ 47 < r.val := by omega
    simp only [cycleMark, hr, decide_false, rejIf_false, checked_none]
    exact if_pos hmark
  · simp [hmark, hvalid, hperiod, hm, hlost]

end Sys2Proof.Machine
end

section
/-!
PROOF. Records, SYNC and trigger edges, lanes (R303, R304, R317 to R323, R421 to R427, R521, R568); the settling of O23 and O24.
-/
namespace Sys2Proof.Machine

-- the field of a word that is set

/-- The number under the bits of a field, the field and the number above it. -/
theorem toNat_parts (w : Word) (lo n : Nat) :
    w.toNat = 2 ^ lo * (2 ^ n * (w.toNat / 2 ^ (lo + n)) + fld w lo n) + w.toNat % 2 ^ lo := by
  have hlow := Nat.div_add_mod w.toNat (2 ^ lo)
  have hhigh := Nat.div_add_mod (w.toNat / 2 ^ lo) (2 ^ n)
  rw [Nat.div_div_eq_div_mul, ← pow_add] at hhigh
  rw [fld, Nat.shiftRight_eq_div_pow, hhigh, hlow]

theorem toNat_setFld {w : Word} {lo n : Nat} (v : Nat) (h : lo + n ≤ 32) : (setFld w lo n v).toNat =
    2 ^ lo * (2 ^ n * (w.toNat / 2 ^ (lo + n)) + v % 2 ^ n) + w.toNat % 2 ^ lo := by
  have hparts := toNat_parts w lo n
  have hlt := w.isLt
  have hv : v % 2 ^ n < 2 ^ n := Nat.mod_lt _ (by positivity)
  have hlow : w.toNat % 2 ^ lo < 2 ^ lo := Nat.mod_lt _ (by positivity)
  have hsplit : (2 : Nat) ^ 32 = 2 ^ (lo + n) * 2 ^ (32 - (lo + n)) := by rw [← pow_add]; congr 1; omega
  have hq : w.toNat / 2 ^ (lo + n) < 2 ^ (32 - (lo + n)) := Nat.div_lt_of_lt_mul (by rw [← hsplit]; exact hlt)
  have hsum : w.toNat - fld w lo n * 2 ^ lo + v % 2 ^ n * 2 ^ lo =
      2 ^ lo * (2 ^ n * (w.toNat / 2 ^ (lo + n)) + v % 2 ^ n) + w.toNat % 2 ^ lo := by
    generalize w.toNat / 2 ^ (lo + n) = q at *
    generalize w.toNat % 2 ^ lo = r at *
    generalize fld w lo n = f at *
    rw [hparts, mul_add, mul_add, Nat.mul_comm f, Nat.mul_comm (v % 2 ^ n)]
    omega
  rw [setFld, hsum, BitVec.toNat_ofNat]
  refine Nat.mod_eq_of_lt ?_
  calc 2 ^ lo * (2 ^ n * (w.toNat / 2 ^ (lo + n)) + v % 2 ^ n) + w.toNat % 2 ^ lo
      < 2 ^ lo * (2 ^ n * (w.toNat / 2 ^ (lo + n)) + v % 2 ^ n + 1) := by rw [mul_add _ _ 1]; omega
    _ ≤ 2 ^ lo * (2 ^ n * (w.toNat / 2 ^ (lo + n) + 1)) := Nat.mul_le_mul_left _ (by rw [mul_add _ _ 1]; omega)
    _ ≤ 2 ^ lo * (2 ^ n * 2 ^ (32 - (lo + n))) := Nat.mul_le_mul_left _ (Nat.mul_le_mul_left _ hq)
    _ = 2 ^ 32 := by rw [hsplit, pow_add, mul_assoc]

/-- A field that is set reads back, cut to its width. -/
theorem fld_setFld_same {w : Word} {lo n : Nat} (v : Nat) (h : lo + n ≤ 32) : fld (setFld w lo n v) lo n = v % 2 ^ n := by
  have hlow : w.toNat % 2 ^ lo < 2 ^ lo := Nat.mod_lt _ (by positivity)
  rw [fld, toNat_setFld v h, Nat.shiftRight_eq_div_pow, Nat.mul_add_div (by positivity), Nat.div_eq_of_lt hlow, Nat.add_zero,
    Nat.mul_add_mod, Nat.mod_mod]

-- SYNC

theorem exec_syncEdge_armed {s : State} {falling : Bool} {stamp : Nat} (hon : rdb s (FLT.SYNC_CFG 0) 0 = true)
    (hpol : rdb s (FLT.SYNC_CFG 0) 1 = falling) : exec (.syncEdge falling stamp .sound) s = .next (
      if s.flt.syncPin.isSome ∨ s.flt.syncAt.isSome then evt (bumpSat s (FLT.SYNC_STAT 0) 8 8 1) (pgFLT 0) 17
      else { s with flt := { s.flt with syncPin := some (indexAt s ((stamp - 160) * 1024) + 2) } }) := by
  have hcfg : (bit (rd s (FLT.SYNC_CFG 0)) 0 && decide (bit (rd s (FLT.SYNC_CFG 0)) 1 = falling)) = true := by
    rw [rdb] at hon hpol
    simp [hon, hpol]
  exact congrArg Host.Outcome.next (when_of hcfg)

theorem syncChk_none {s : State} (hfree : s.flt.syncAt = none) (hgrid : gridValid s = true)
    (hahead : now s + 2 < rd64 s (FLT.SYNC_AT_LO 0)) : syncChk s = none := by
  have hpast : ¬ rd64 s (FLT.SYNC_AT_LO 0) ≤ now s + 2 := Nat.not_le.mpr hahead
  simp [syncChk, firstSome, rejIf, hfree, hgrid, hpast]

/-- The registers of a SYNC that takes effect. -/
theorem regsBut_syncNow (s : State) (n : Nat) :
    RegsBut [FLT.SYNC_LAST_LO 0, FLT.SYNC_LAST_LO 0 + 4, hdr (pgFLT 0) Hdr.EVT] s (syncNow s n) := by
  have hchains : RegsBut [] s (restartChains s (fun k => k.syncEn) n) :=
    regsBut_of_same _ (frame_restartChains s _ n (List.Subset.refl _) (SameBut.refl _ _) .regs (by decide))
  exact (hchains.mono (by simp)).trans (((regsBut_wr _ _ _).mono (by simp)).trans (((regsBut_wr _ _ _).mono (by simp)).trans
    ((regsBut_evt _ _ _).mono (by simp))))

theorem rd_syncLast_syncNow {s : State} (n : Nat) (hwf : regsWf s = true) : rd (syncNow s n) (FLT.SYNC_LAST_LO 0) = word n := by
  have hregs : (restartChains s (fun k => k.syncEn) n).regs = s.regs :=
    frame_restartChains s _ n (List.Subset.refl _) (SameBut.refl _ _) .regs (by decide)
  have hwf' : regsWf (restartChains s (fun k => k.syncEn) n) = true := (regsWf_congr hregs).trans hwf
  exact (rd_evt_other _ _ (by decide)).trans ((rd_wr_other _ (by decide)).trans (rd_wr_same _ _ hwf'))

/-- What is due no longer waits for its SYNC. -/
def syncTaken (s : State) : State :=
  let due (o : Option Nat) : Option Nat := if o.any (fun n => decide (n ≤ now s)) then none else o
  { s with flt := { s.flt with syncPin := due s.flt.syncPin, syncAt := due s.flt.syncAt } }

theorem regsBut_syncTaken {l : List Nat} (s : State) : RegsBut l s (syncTaken s) := regsBut_of_same l rfl

theorem sameBut_syncTaken (s : State) : SameBut [.flt] s (syncTaken s) := SameBut.set_flt (by decide) (SameBut.refl _ _)

/-- A SYNC that is due takes effect: what is due no longer waits, and the chains of SYNC restart. -/
def synced (s : State) : State :=
  let t := syncNow (syncTaken s) (now s)
  wr t (FLT.SYNC_STAT 0) (setFld (rd t (FLT.SYNC_STAT 0)) 1 1 (b2n (s.flt.syncAt.any (fun n => decide (n < now s)))))

theorem exec_syncEffect_due {s : State} {n : Nat} (h : s.flt.syncPin = some n ∨ s.flt.syncAt = some n) (hdue : n ≤ now s)
    (htick : atTick s = true) : exec .syncEffect s = .next (synced s) := by
  have hcond : (syncIsDue s && atTick s) = true := by
    rcases h with h | h <;> simp [syncIsDue, h, hdue, htick]
  exact congrArg Host.Outcome.next (when_of hcond)

theorem synced_leaves {s : State} (hwf : regsWf s = true) : SameBut [.regs, .chains, .flt] s (synced s) ∧
    RegsBut [FLT.SYNC_LAST_LO 0, FLT.SYNC_LAST_LO 0 + 4, FLT.SYNC_STAT 0, hdr (pgFLT 0) Hdr.EVT] s (synced s) ∧
    rd (synced s) (FLT.SYNC_LAST_LO 0) = word (now s) := by
  refine ⟨?_, ?_, ?_⟩
  · exact frame_wr (by decide) (frame_syncNow _ _ (by decide) ((sameBut_syncTaken s).mono (by decide)))
  · exact RegsBut.trans (t := syncNow (syncTaken s) (now s)) ((regsBut_syncTaken s).trans ((regsBut_syncNow _ _).mono (by simp)))
      ((regsBut_wr _ _ _).mono (by simp))
  · exact (rd_wr_other _ (by decide)).trans (rd_syncLast_syncNow (s := syncTaken s) _ hwf)

/-- Settles O23: boundaries, delivered outputs, SYNC and trigger edges, each by its own function. -/
theorem recordAndEdgeEvents : Obligations.RecordAndEdgeEvents := by
  unfold Obligations.RecordAndEdgeEvents
  intro s _ hmem
  refine ⟨fun k hsampling hboundary hready hrun => ?_, fun ch c o t hchain hqueue => ?_, fun falling stamp hon hpol => ?_,
    fun p hpass hfree hgrid hahead => ?_, fun p hpass => congrArg _ (gated_of_passes _ hpass), fun n h hdue htick =>
      ⟨_, exec_syncEffect_due h hdue htick, synced_leaves (regsWf_of_memoryWf hmem)⟩, fun pin falling stamp hsampling => ?_⟩
  · exact congrArg Host.Outcome.next ((when_of (by simp [hsampling, hboundary, hready])).trans (if_pos hrun))
  · show Host.Outcome.next (filteredRecord s ch) = _
    rw [filteredRecord, hchain]
    dsimp only
    rw [hqueue]
  · rw [exec_syncEdge_armed hon hpol]
    refine ⟨fun hfree => congrArg _ (if_neg ?_), fun hwaits => congrArg _ (if_pos ?_)⟩
    · simp [hfree]
    · simpa [Option.isSome_iff_ne_none] using hwaits
  · refine congrArg Host.Outcome.next ((gated_of_passes _ hpass).trans ?_)
    rw [syncSchedule, syncChk_none hfree hgrid hahead, checked_none]
  · exact ⟨_, _, _, rfl, rfl, rfl, congrArg Host.Outcome.next (if_pos hsampling)⟩

-- lanes

theorem laneIdx_lt (l : Lane) : laneIdx l < 4 := by
  cases l <;> decide

theorem laneOf_same {s : State} (l : Lane) (f : LaneState → LaneState) (hs : Shaped s) : laneOf (onLane s l f) l = f (laneOf s l) :=
  getD_modify_same f {} (hs.lanes ▸ laneIdx_lt l)

theorem laneOf_congr {s t : State} (h : t.lanes = s.lanes) (l : Lane) : laneOf t l = laneOf s l := by
  rw [laneOf, h, laneOf]

theorem dawnAdvance_of_ne {s : State} (h : s.pwr.st ≠ .dawn) : dawnAdvance s = s := if_neg (fun hd => h hd.1)

theorem linkRise_leaves {s : State} (l : Lane) (hs : Shaped s) : SameBut [.lanes, .regs] s (linkRise s l) ∧
    linkUpOn (linkRise s l) l = true ∧
    RegsBut [LANE.LINK_COUNT (laneIdx l), hdr (pgLANE (laneIdx l)) Hdr.EVT] s (linkRise s l) := by
  refine ⟨frame_linkRise s l (by decide) (SameBut.refl _ _), ?_, ?_⟩
  · have hlane : laneOf (linkRise s l) l =
        { laneOf s l with signal := true, blockLock := true, linkUp := true, hadLink := true } := laneOf_same l _ hs
    rw [linkUpOn, hlane]
  · exact (regsBut_of_same _ rfl).trans (((regsBut_bumpSat _ _ _ _ _).mono (by simp)).trans ((regsBut_evt _ _ _).mono (by simp)))

theorem linkUpOn_linkFall {s : State} {l : Lane} (hup : linkUpOn s l = true) (hs : Shaped s) : linkUpOn (linkFall s l) l = false := by
  have hlane : laneOf (linkFall s l) l = { laneOf s l with signal := false, blockLock := false, linkUp := false } := by
    rw [linkFall, if_pos hup]
    exact laneOf_same l _ hs
  rw [linkUpOn, hlane]

theorem lanes_partnerLost (s : State) : (partnerLost s).lanes = s.lanes :=
  frame_partnerLost s (List.Subset.refl _) (SameBut.refl _ _) .lanes (by decide)

theorem lanes_portsLost (s : State) : (portsLost s).lanes = s.lanes :=
  frame_portsLost s (List.Subset.refl _) (SameBut.refl _ _) .lanes (by decide)

/-- What follows the fall of a link touches no lane. -/
theorem lanes_linkLost {s : State} {l : Lane} (hup : linkUpOn s l = true) : (linkLost s l).lanes = (linkFall s l).lanes := by
  rw [linkLost, if_pos hup]
  dsimp only
  split
  · split
    · rw [lanes_partnerLost, lanes_portsLost]
    · rw [lanes_portsLost]
  · split
    · rw [lanes_partnerLost]
    · rfl

theorem linkUpOn_linkLost {s : State} {l : Lane} (hup : linkUpOn s l = true) (hs : Shaped s) : linkUpOn (linkLost s l) l = false := by
  rw [linkUpOn, laneOf_congr (lanes_linkLost hup)]
  exact linkUpOn_linkFall hup hs

/-- A wrong bit is counted and raises its event. -/
theorem bitCounted_leaves {s : State} (i : Nat) (hwf : regsWf s = true) :
    let u := evt (bumpSat s (LANE.PRBS_ERR i) 0 32 1) (pgLANE i) 2
    SameBut [.regs] s u ∧ RegsBut [LANE.PRBS_ERR i, hdr (pgLANE i) Hdr.EVT] s u ∧
      rdf u (LANE.PRBS_ERR i) 0 32 = min (rdf s (LANE.PRBS_ERR i) 0 32 + 1) (2 ^ 32 - 1) := by
  intro u
  refine ⟨frame_evt _ _ _ (by decide) (sameBut_bumpSat _ _ _ _ _ (by decide)),
    ((regsBut_bumpSat _ _ _ _ _).mono (by simp)).trans ((regsBut_evt _ _ _).mono (by simp)), ?_⟩
  have hpage : LANE.PRBS_ERR i ≠ hdr (pgLANE i) Hdr.EVT := by
    unfold hdr pgLANE Hdr.EVT LANE.PRBS_ERR
    omega
  rw [rdf, rd_evt_other _ _ hpage, rd_bumpSat_same _ _ _ _ hwf, fld_setFld_same _ (by decide)]
  exact Nat.mod_eq_of_lt (by omega)

theorem laneOfIdx_laneIdx (l : Lane) : laneOfIdx (laneIdx l) = l := by
  cases l <;> rfl

/-- The checker of a lane that is not in use, or that neither sends nor checks a pattern, may get an error. -/
theorem laneInject_allowed {s : State} {l : Lane} (h : laneInUse s l = false ∨
    (rdb s (LANE.PRBS_CFG (laneIdx l)) 4 = false ∧ rdb s (LANE.PRBS_CFG (laneIdx l)) 5 = false)) :
    (laneChk s (laneIdx l) 0x48 (rd s (LANE.PRBS_CFG (laneIdx l)))).busy = none := by
  have hbusy : (laneChk s (laneIdx l) 0x48 (rd s (LANE.PRBS_CFG (laneIdx l)))).busy = rejIf (laneInUse s (laneOfIdx (laneIdx l)) &&
      (rdb s (LANE.PRBS_CFG (laneIdx l)) 4 || rdb s (LANE.PRBS_CFG (laneIdx l)) 5)) Rsn.BUSY := rfl
  rw [hbusy, laneOfIdx_laneIdx, rejIf_eq_none]
  rcases h with h | ⟨h4, h5⟩
  · rw [h, Bool.false_and]
  · rw [h4, h5, Bool.or_self, Bool.and_false]

/-- Settles O24: each lane event by its condition. -/
theorem laneEvents : Obligations.LaneEvents := by
  unfold Obligations.LaneEvents
  intro s l hshape hmem
  have hs := (shaped_iff s).1 hshape
  refine ⟨fun hready hdown hst => ?_, fun hup hst => ⟨congrArg _ (dawnAdvance_of_ne ?_), linkUpOn_linkLost hup hs⟩,
    fun hsleep hwake => congrArg _ (when_of (by simp [hsleep, hwake])), fun hon hpoly => congrArg _ (when_of (by simp [hon, hpoly])),
    fun hlock hon => ⟨_, congrArg Host.Outcome.next (when_of (by simp [hlock, hon])),
      bitCounted_leaves _ (regsWf_of_memoryWf hmem)⟩, fun p hpass hfree => ?_⟩
  · have hpwr : (linkRise s l).pwr = s.pwr := frame_linkRise s l (List.Subset.refl _) (SameBut.refl _ _) .pwr (by decide)
    exact ⟨linkRise s l, congrArg Host.Outcome.next ((when_of (by simp [hready, hdown])).trans
      (dawnAdvance_of_ne (by rw [hpwr]; exact hst))), linkRise_leaves l hs⟩
  · have hpwr : (linkLost s l).pwr = s.pwr := frame_linkLost s l (List.Subset.refl _) (SameBut.refl _ _) .pwr (by decide)
    rw [hpwr]
    exact hst
  · refine congrArg Host.Outcome.next ((gated_of_passes _ hpass).trans ?_)
    rw [laneInject_allowed hfree, checked_none]

end Sys2Proof.Machine
end

section
/-!
PROOF. The ring (R431 to R466, R479, R849, R882): roles and addresses, admission traffic, received frames; the settling of O25, O26
and O27.
-/
namespace Sys2Proof.Machine

-- roles and addresses

theorem exec_assignmentSend_root {s : State} (hready : ringReady s = true) (hroot : s.ring.root = true) :
    exec .addressAssignmentSend s = .next (dawnAdvance (assignAddrs s)) := by
  refine congrArg Host.Outcome.next ((when_of hready).trans ?_)
  rw [assignmentSend, if_pos hroot]

theorem exec_assignmentSend_finder {s : State} (hready : ringReady s = true) (hroot : s.ring.root = false)
    (haddr : s.ring.address = none) (hfinds : findsRoot s = true) :
    exec .addressAssignmentSend s = .next (dawnAdvance (assignAddrs (takeRoot s true))) := by
  refine congrArg Host.Outcome.next ((when_of hready).trans ?_)
  simp [assignmentSend, hroot, haddr, hfinds]

/-- A hub whose root is lost, its ring cut. -/
def rootGone (s : State) : State :=
  onRing s (fun r => { r with
    cut := true, closed := false, eastAt := none, westAt := none, rootless := (rootCandidates s).isEmpty })

theorem exec_rootLost_other {s : State} (hruns : hubRuns s = true) (hroot : s.ring.root = false)
    (hheard : s.ring.eastAt.isSome = true ∨ s.ring.westAt.isSome = true) (hother : (rootCandidates s).contains s.serial = false) :
    exec .rootLost s = .next (rootGone s) := by
  have hcond : (hubRuns s && !s.ring.root && (s.ring.eastAt.isSome || s.ring.westAt.isSome)) = true := by
    rcases hheard with h | h <;> simp [hruns, hroot, h]
  refine congrArg Host.Outcome.next ((when_of hcond).trans (if_neg ?_))
  have hserial : (onRing s (fun r => { r with
      cut := true, closed := false, eastAt := none, westAt := none, rootless := (rootCandidates s).isEmpty })).serial = s.serial := rfl
  rw [hserial, hother]
  simp

theorem rootAlone_alone {s : State} (hruns : hubRuns s = true) (hphase : 3 ≤ s.pwr.dawnPhase) (hroot : s.ring.root = false)
    (haddr : s.ring.address = none) (hlink : ringLink s = false) : rootAlone s = assignAddrs (takeRoot s false) := by
  simp [rootAlone, hruns, hphase, hroot, haddr, hlink]

/-- The root's closed ring breaks. -/
def ringBroken (s : State) (w e : Nat) (m : Bool) : State :=
  evt (onAdm (onRing s (fun r => { r with closed := false })) (fun a => { a with
    breakStat := word (w % 64 + 2 ^ 8 * (e % 64) + 2 ^ 15 + 2 ^ 16 * b2n m) })) pgRING 2

theorem exec_ringBreak_root {s : State} {port : Lane} {w e : Nat} {m : Bool} (hclosed : s.ring.closed = true)
    (hroot : s.ring.root = true) : exec (.ringBreak port w e m) s = .next (ringBroken s w e m) := by
  refine congrArg Host.Outcome.next ((when_of (s := onRing s (fun r => { r with closed := false })) hroot).trans ?_)
  rw [hclosed]
  rfl

theorem ringBroken_leaves (s : State) (w e : Nat) (m : Bool) : SameBut [.ring, .adm, .regs] s (ringBroken s w e m) ∧
    RegsBut [hdr pgRING Hdr.EVT] s (ringBroken s w e m) ∧ (ringBroken s w e m).ring = { s.ring with closed := false } ∧
    (ringBroken s w e m).adm.breakStat = word (w % 64 + 2 ^ 8 * (e % 64) + 2 ^ 15 + 2 ^ 16 * b2n m) :=
  ⟨frame_evt _ _ _ (by decide) (SameBut.set_adm (by decide) (SameBut.set_ring (by decide) (SameBut.refl _ _))),
    (regsBut_of_same _ rfl).trans (regsBut_evt _ _ _), rfl, rfl⟩

/-- Settles O25: each event of discovery, addresses and the root by its condition. -/
theorem ringRoles : Obligations.RingRoles := by
  unfold Obligations.RingRoles
  intro s _
  refine ⟨fun hruns => congrArg _ (when_of hruns), fun port b hport hon => congrArg _ (when_of (by simp [hport, hon])),
    exec_assignmentSend_root, exec_assignmentSend_finder, fun a hruns hon => congrArg _ (when_of (by simp [hruns, hon])),
    fun hroot hruns => congrArg _ (when_of (by simp [hroot, hruns])),
    fun port b hport hon => congrArg _ (when_of (by simp [hport, hon])), fun hruns hroot hheard hother =>
      ⟨_, exec_rootLost_other hruns hroot hheard hother, SameBut.set_ring (by decide) (SameBut.refl _ _), rfl⟩,
    fun hruns hphase hroot haddr hlink => ?_, fun port w e m hclosed hroot =>
      ⟨_, exec_ringBreak_root hclosed hroot, ringBroken_leaves s w e m⟩⟩
  exact congrArg (fun t => Host.Outcome.next (dawnAdvance t)) (rootAlone_alone hruns hphase hroot haddr hlink)

-- admission traffic

theorem replyHeard_waiting {s : State} {r : AdmReply} {w : Nat × Nat × Nat}
    (hwaits : s.adm.waiting.find? (fun w => decide (w.1 = r.request)) = some w) (haddr : s.ring.address = some r.hub)
    (hstream : w.2.1 = r.stream) : replyHeard s r = admResult s r.stream r.request r.result := by
  have hrequest : w.1 = r.request := by simpa using List.find?_some hwaits
  rw [replyHeard, hwaits]
  dsimp only
  rw [if_pos ⟨haddr, hstream⟩, hstream, hrequest]

theorem exec_admissionRetry_waiting {s : State} {i : Fin 64} {w : Nat × Nat × Nat} (h : waitingFor s i = some w) :
    exec (.admissionRetry i) s = .next (sendAdm s (requestOf s i w.1 false)) := by
  show Host.Outcome.next _ = _
  rw [h]

theorem exec_enoroot_waiting {s : State} {i : Fin 64} {w : Nat × Nat × Nat} (h : waitingFor s i = some w) :
    exec (.enoroot i) s = .next (admResult s i w.1 2) := by
  show Host.Outcome.next _ = _
  rw [h]

/-- Settles O26: requests, releases and reports at the root, replies and their absence at a hub. -/
theorem admissionTraffic : Obligations.AdmissionTraffic := by
  unfold Obligations.AdmissionTraffic
  intro s
  refine ⟨fun r hroot => ⟨fun hready => ?_, fun hrebuilds => ?_, congrArg _ (when_of hroot)⟩,
    fun r w hwaits haddr hstream => congrArg Host.Outcome.next (replyHeard_waiting hwaits haddr hstream),
    fun i w h => ⟨exec_admissionRetry_waiting h, exec_enoroot_waiting h⟩, fun r hroot hrebuilds => ?_,
    fun hdue haddr hroot => congrArg _ (when_of (by simp [hdue, haddr, hroot])),
    fun hroot hrebuilds => congrArg _ (when_of (by simp [hroot, hrebuilds]))⟩
  · refine congrArg Host.Outcome.next ((when_of hroot).trans (if_neg ?_))
    rw [hready]
    exact Bool.false_ne_true
  · exact congrArg Host.Outcome.next ((when_of hroot).trans (if_pos hrebuilds))
  · exact congrArg Host.Outcome.next (if_pos (by simp [hroot, hrebuilds]))

-- received frames

theorem sameBut_countRx (s : State) (port : Lane) (ok : Bool) : SameBut [.regs] s (countRx s port ok) :=
  frame_countRx s port ok (List.Subset.refl _) (SameBut.refl _ _)

theorem countRx_good (s : State) (port : Lane) : countRx s port true = bumpWrap s (LANE.RX_FRAMES (laneIdx port)) 0 32 1 := rfl

theorem ringFrame_heard {s : State} {port : Lane} (f : RxFrame) (hruns : hubRuns s = true) (hlink : linkUpOn s port = true)
    (hport : port ≠ .l3) : ringFrame s port f = dawnAdvance (if port = .l2 then
        (if f.fcsOk then twinFrame (countRx s port f.fcsOk) f.body else countRx s port f.fcsOk)
      else if ringOn (countRx s port f.fcsOk) then ringPortFrame (countRx s port f.fcsOk) port f else countRx s port f.fcsOk) := by
  have hcond : (!hubRuns s || !linkUpOn s port || decide (port = .l3)) = false := by simp [hruns, hlink, hport]
  rw [ringFrame, hcond]
  rfl

theorem regsBut_bumpWrap (s : State) (a lo n k : Nat) : RegsBut [a] s (bumpWrap s a lo n k) := regsBut_wr s a _

theorem regsBut_countRx (s : State) (port : Lane) (ok : Bool) : RegsBut [LANE.RX_FRAMES (laneIdx port), LANE.FCS_ERR (laneIdx port),
    hdr (pgLANE (laneIdx port)) Hdr.EVT] s (countRx s port ok) := by
  have hframes := regsBut_bumpWrap s (LANE.RX_FRAMES (laneIdx port)) 0 32 1
  cases ok
  · exact (hframes.mono (by simp)).trans (((regsBut_bumpSat _ _ _ _ _).mono (by simp)).trans ((regsBut_evt _ _ _).mono (by simp)))
  · exact hframes.mono (by simp)

theorem ringOn_countRx (s : State) (port : Lane) (ok : Bool) : ringOn (countRx s port ok) = ringOn s := by
  have hcfg : rd (countRx s port ok) RING.CFG = rd s RING.CFG := regsBut_countRx s port ok _ (by cases port <;> decide)
  rw [ringOn, rdb, hcfg, ringOn, rdb]

theorem ringPort_cases {port : Lane} (h : isRingPort port = true) : port = .l0 ∨ port = .l1 := by
  cases port <;> simp_all [isRingPort]

theorem exec_ringFrame_port {s : State} {port : Lane} (f : RxFrame) (hruns : hubRuns s = true) (hport : isRingPort port = true)
    (hlink : linkUpOn s port = true) (hon : ringOn s = true) :
    exec (.ringFrame port f) s = .next (dawnAdvance (ringPortFrame (countRx s port f.fcsOk) port f)) := by
  have hon' : ringOn (countRx s port f.fcsOk) = true := (ringOn_countRx _ _ _).trans hon
  rcases ringPort_cases hport with rfl | rfl
  all_goals
    refine congrArg Host.Outcome.next ((ringFrame_heard f hruns hlink (by decide)).trans ?_)
    rw [if_neg (by decide), if_pos hon']

/-- A frame of this hub's own, not a root beacon, is removed. -/
theorem ringPortFrame_own {s : State} {port : Lane} {f : RxFrame} (hok : f.fcsOk = true) (hsrc : f.src = ownMac s)
    (hbody : ∀ b, f.body ≠ .rootBeacon b) : ringPortFrame s port f = s := by
  rw [ringPortFrame, hok, Bool.not_true, if_neg Bool.false_ne_true, if_pos hsrc]
  split
  next b hb => exact absurd hb (hbody b)
  next => rfl

theorem bumpWrap_word_leaves {s : State} (a : Nat) (hwf : regsWf s = true) :
    rd (bumpWrap s a 0 32 1) a = rd s a + 1 := by
  have hfld : fld (rd s a) 0 32 = (rd s a).toNat := Nat.mod_eq_of_lt (rd s a).isLt
  rw [rd_bumpWrap_same _ _ _ _ hwf, rdf, hfld]
  apply BitVec.eq_of_toNat_eq
  have hset := toNat_setFld (w := rd s a) (lo := 0) (n := 32) ((rd s a).toNat + 1) (by decide)
  have hlt := (rd s a).isLt
  rw [hset, BitVec.toNat_add, show (1 : Word).toNat = 1 from rfl]
  omega

/-- Settles O27: a frame is counted on its lane, then handled where it may be. -/
theorem receivedFrames : Obligations.ReceivedFrames := by
  unfold Obligations.ReceivedFrames
  intro s f _ hmem hst hruns
  refine ⟨fun port hport hlink hon => exec_ringFrame_port f hruns hport hlink hon,
    fun port hport hlink hon hok hsrc hbody => ?_, fun hlink hok => ?_, fun hlink hok hroot => ?_⟩
  · have hpwr : (countRx s port true).pwr = s.pwr := sameBut_countRx s port true .pwr (by decide)
    have hremoved : ringPortFrame (countRx s port true) port f = countRx s port true :=
      ringPortFrame_own hok (hsrc.trans (congrArg macOf (sameBut_countRx s port true .serial (by decide)).symm)) hbody
    have hexec := exec_ringFrame_port f hruns hport hlink hon
    rw [hok, hremoved, dawnAdvance_of_ne (by rw [hpwr]; exact hst)] at hexec
    exact ⟨_, hexec, sameBut_countRx s port true, regsBut_bumpWrap _ _ _ _ _, bumpWrap_word_leaves _ (regsWf_of_memoryWf hmem)⟩
  · refine congrArg Host.Outcome.next ((ringFrame_heard f hruns hlink (by decide)).trans ?_)
    rw [if_pos rfl, if_pos hok, hok]
  · have hroot' : (countRx s .l3 true).ring.root = true :=
      (congrArg RingState.root (sameBut_countRx s .l3 true .ring (by decide))).trans hroot
    have hcond : (!hubRuns s || !linkUpOn s .l3) = false := by simp [hruns, hlink]
    refine congrArg Host.Outcome.next ?_
    rw [l3Frame, hcond, if_neg Bool.false_ne_true]
    dsimp only
    rw [hok, hroot']
    rfl

end Sys2Proof.Machine
end

section
/-!
PROOF. Sync and delay messages (R366, R372, R373, R388 to R397): what a message does at the port it names; the settling of O28 and
O29.
-/
namespace Sys2Proof.Machine

-- domains and ports

theorem domOf_same {s : State} {d : Nat} (f : DomainState → DomainState) (hs : Shaped s) (hd : d < 2) :
    domOf (onDom s d f) d = f (domOf s d) := getD_modify_same f {} (hs.time_doms ▸ hd)

theorem domOf_other {s : State} {d o : Nat} (f : DomainState → DomainState) (h : o ≠ d) : domOf (onDom s d f) o = domOf s o :=
  getD_modify_other f {} h

theorem portOf_same {s : State} (l : Lane) (f : PortDelay → PortDelay) (hs : Shaped s) : portOf (onPort s l f) l = f (portOf s l) :=
  getD_modify_same f {} (hs.time_ports ▸ laneIdx_lt l)

/-- A change of a domain that changes nothing. -/
theorem onDom_self {s : State} {d : Nat} {f : DomainState → DomainState} (h : ∀ x, f x = x) : onDom s d f = s := by
  have hf : f = id := funext h
  rw [hf, onDom, onTime]
  simp

theorem domOfNumber_lt {s : State} {n d : Nat} (h : domOfNumber s n = some d) : d < 2 := by
  have hmem := List.mem_of_find?_eq_some h
  simp only [List.mem_cons, List.not_mem_nil, or_false] at hmem
  omega

-- Sync messages

/-- The offset that a complete Sync shows (R372). -/
def syncOffset (s : State) (m : SyncMsg) : Int := rxStamp s m.port m.rx - m.origin - m.corr - portDelay s m.port

theorem takeSync_new {s : State} {d : Nat} {m : SyncMsg} (hport : m.port ≠ .l3) (hnew : seqNew (domOf s d).lastSeq m.seq = true) :
    takeSync s d m = acceptSync s d m.seq (syncOffset s m) := by
  rw [takeSync, if_pos hnew]
  dsimp only
  rw [onDom_self (fun x => by rw [if_neg hport])]
  rfl

theorem takeSync_old {s : State} {d : Nat} {m : SyncMsg} (hold : seqNew (domOf s d).lastSeq m.seq = false) :
    takeSync s d m = bumpSat s (PTP.DISCARD d) 16 16 1 := by
  rw [takeSync, hold]
  rfl

theorem syncMessage_ring {s : State} {m : SyncMsg} {d : Nat} (hport : m.port = .l0 ∨ m.port = .l1)
    (hdom : domOfNumber s m.domain = some d) (hroot : s.ring.root = false) (hsource : m.source = s.ring.rootSerial)
    (htracked : m.port = trackedPort s) (hwarm : s.pwr.warm.running = false) : syncMessage s m = takeSync s d m := by
  have hcond : !s.ring.root ∧ m.source = s.ring.rootSerial ∧ m.port = trackedPort s ∧ !s.pwr.warm.running := by
    simp [hroot, hsource, htracked, hwarm]
  unfold syncMessage
  rcases hport with h | h
  all_goals
    rw [h]
    dsimp only
    rw [hdom]
    dsimp only
    rw [← h, if_pos hcond]

theorem syncMessage_l3 {s : State} {m : SyncMsg} {d : Nat} {a : AnnounceMsg} (hport : m.port = .l3)
    (hdom : domOfNumber s m.domain = some d) (hroot : s.ring.root = true) (hslave : (domOf s d).l3 = 3)
    (hmaster : (domOf s d).master = some a) (hsource : a.source = m.source) (htwo : m.twoStep = true) :
    syncMessage s m = onDom s d (fun x => { x with twoStep := some m }) := by
  simp [syncMessage, hport, hdom, hroot, hslave, hmaster, hsource, htwo]

theorem followUp_complete {s : State} {domain d : Nat} {seq : Seq16} {origin corr : Int} {m : SyncMsg} (hroot : s.ring.root = true)
    (hdom : domOfNumber s domain = some d) (hwaits : (domOf s d).twoStep = some m) (hseq : m.seq = seq) :
    followUp s domain seq origin corr =
      takeSync (onDom s d (fun x => { x with twoStep := none })) d { m with origin := origin, corr := m.corr + corr } := by
  simp [followUp, hroot, hdom, hwaits, hseq]

theorem servoUpdate_i (s : State) (d : Nat) (o : Int) : (servoUpdate s d o).time.i =
    s.time.i + rdf s (PTP.SERVO_KI d) 0 16 * (if (domOf s d).servo = .acquire then 16 else 1) * o := by
  have hi : (servoUpdate s d o).time.i =
      s.time.i + rdf s (PTP.SERVO_KI d) 0 16 * (if decide ((domOf s d).servo = .acquire) then 16 else 1) * o := rfl
  rw [hi]
  simp

/-- Settles O28: a Sync accepted, discarded or kept for its Follow_Up, and the integral after an update. -/
theorem syncMessages : Obligations.SyncMessages := by
  unfold Obligations.SyncMessages
  intro s _ _ hst
  refine ⟨fun m d hport hdom hroot hsource htracked hwarm => ?_, fun m d a hport hdom hroot hslave hmaster hsource htwo => ?_,
    fun domain seq origin corr d m hroot hdom hwaits hseq =>
      congrArg Host.Outcome.next (followUp_complete hroot hdom hwaits hseq),
    fun d o => ⟨_, rfl, frame_servoUpdate s d o (by decide) (SameBut.refl _ _), servoUpdate_i s d o⟩⟩
  · have hheard := syncMessage_ring hport hdom hroot hsource htracked hwarm
    have hring : m.port ≠ .l3 := by rcases hport with h | h <;> simp [h]
    refine ⟨fun hnew => ?_, rfl, fun hold =>
      ⟨bumpSat s (PTP.DISCARD d) 16 16 1, ?_, sameBut_bumpSat s _ _ _ _ (by decide), regsBut_bumpSat _ _ _ _ _⟩⟩
    · exact congrArg (fun t => Host.Outcome.next (dawnAdvance t)) (hheard.trans (takeSync_new hring hnew))
    · exact congrArg Host.Outcome.next ((congrArg dawnAdvance (hheard.trans (takeSync_old hold))).trans (dawnAdvance_of_ne hst))
  · exact congrArg Host.Outcome.next ((congrArg dawnAdvance
      (syncMessage_l3 hport hdom hroot hslave hmaster hsource htwo)).trans (dawnAdvance_of_ne hst))

-- delay messages

theorem delayReq_send {s : State} {domain d : Nat} (hroot : s.ring.root = true) (hdom : domOfNumber s domain = some d)
    (hslave : (domOf s d).l3 = 3) : delayReq s domain .send = emitOwn (onDom s d (fun x => { x with
      reqSeq := (domOf s d).reqSeq + 1, reqSent := some (txStamp s .l3) })) .l3 ptpMac
        (.delayReq domain ((domOf s d).reqSeq + 1) s.serial) := by
  simp only [delayReq, hdom, hroot, Bool.not_true, Bool.false_eq_true, if_false, hslave, if_true]
  rfl

theorem delayReq_answer {s : State} {domain d : Nat} {seq : Seq16} {requester : Nat} {rx : Int} (hroot : s.ring.root = true)
    (hdom : domOfNumber s domain = some d) (hmaster : (domOf s d).l3 = 2) : delayReq s domain (.answer seq requester rx) =
      emitOwn s .l3 ptpMac (.delayResp domain seq requester (rxStamp s .l3 rx) 0) := by
  simp only [delayReq, hdom, hroot, Bool.not_true, Bool.false_eq_true, if_false, hmaster, if_true]

/-- The path delay of L3 from a request and its answer (R388). -/
def pathDelay (s : State) (leg rx corr t3 : Int) : Int := (leg + (rx - corr - t3)) / 2 + asymOf s .l3

theorem delayResp_measured {s : State} {domain d : Nat} {seq : Seq16} {rx corr t3 leg : Int} (hroot : s.ring.root = true)
    (hdom : domOfNumber s domain = some d) (hslave : (domOf s d).l3 = 3) (hseq : (domOf s d).reqSeq = seq)
    (hsent : (domOf s d).reqSent = some t3) (hleg : (domOf s d).syncLeg = some leg) : delayResp s domain seq rx corr =
      setDelay (onDom s d (fun x => { x with reqSent := none })) .l3 (pathDelay s leg rx corr t3) := by
  simp only [delayResp, hdom, hsent, hleg, hroot, hslave, hseq, and_self, if_true]
  rfl

/-- A measured delay stands in its port and its register. -/
theorem setDelay_leaves {s : State} (l : Lane) (m : Int) (hs : Shaped s) (hwf : regsWf s = true) :
    SameBut [.time, .regs] s (setDelay s l m) ∧ RegsBut [TIME.PORT_DELAY (laneIdx l)] s (setDelay s l m) ∧
      portOf (setDelay s l m) l = { portOf s l with delay := m } ∧
      rd (setDelay s l m) (TIME.PORT_DELAY (laneIdx l)) = delayWord m :=
  ⟨frame_setDelay s l m (by decide) (SameBut.refl _ _), (regsBut_of_same _ rfl).trans (regsBut_wr _ _ _), portOf_same l _ hs,
    rd_wr_same _ _ hwf⟩

theorem pdelayResp_oneStep {s : State} {l : Lane} {seq : Seq16} {corr rx t1 : Int} (hport : isRingPort l = true)
    (hsent : (portOf s l).sent = some t1) (hseq : (portOf s l).seq = seq) :
    pdelayResp s l seq corr rx false = pdelayMeasured s l (rxStamp s l rx - t1 - corr) := by
  simp [pdelayResp, hsent, hport, hseq]

theorem pdelayResp_twoStep {s : State} {l : Lane} {seq : Seq16} {corr rx t1 : Int} (hport : isRingPort l = true)
    (hsent : (portOf s l).sent = some t1) (hseq : (portOf s l).seq = seq) : pdelayResp s l seq corr rx true =
      onPort s l (fun p => { p with waiting := some (seq, rxStamp s l rx - t1 - corr) }) := by
  simp [pdelayResp, hsent, hport, hseq]

/-- A measurement joins the last sixteen of its port. -/
def measurementKept (s : State) (l : Lane) (round : Int) : State :=
  onPort s l (fun p => { p with sent := none, waiting := none, meas := ((round / 2 + asymOf s l) :: p.meas).take 16 })

theorem pdelayMeasured_eq (s : State) (l : Lane) (round : Int) : ∃ m, pdelayMeasured s l round =
    setDelay (measurementKept s l round) l m := ⟨_, rfl⟩

theorem pdelayMeasured_leaves {s : State} (l : Lane) (round : Int) (hs : Shaped s) (hwf : regsWf s = true) :
    SameBut [.time, .regs] s (pdelayMeasured s l round) ∧ RegsBut [TIME.PORT_DELAY (laneIdx l)] s (pdelayMeasured s l round) ∧
      (portOf (pdelayMeasured s l round) l).meas = ((round / 2 + asymOf s l) :: (portOf s l).meas).take 16 := by
  obtain ⟨m, hm⟩ := pdelayMeasured_eq s l round
  have hkept : portOf (measurementKept s l round) l = { portOf s l with
      sent := none, waiting := none, meas := ((round / 2 + asymOf s l) :: (portOf s l).meas).take 16 } := portOf_same l _ hs
  obtain ⟨hsame, hregs, hport, -⟩ := setDelay_leaves (s := measurementKept s l round) l m (shaped_onPort _ _ _ hs) hwf
  rw [hm, hport, hkept]
  exact ⟨((frame_onPort s l _ (by decide) (SameBut.refl [.time, .regs] _))).trans hsame, (regsBut_of_same _ rfl).trans hregs, rfl⟩

/-- Settles O29: requests and answers on L3 and on the ring ports, and what a measurement leaves. -/
theorem delayMessages : Obligations.DelayMessages := by
  unfold Obligations.DelayMessages
  intro s hshape hmem
  have hs := (shaped_iff s).1 hshape
  have hwf := regsWf_of_memoryWf hmem
  refine ⟨fun domain d hroot hdom hslave => congrArg _ (delayReq_send hroot hdom hslave),
    fun domain d seq requester rx hroot hdom hmaster => congrArg _ (delayReq_answer hroot hdom hmaster),
    fun domain d seq rx corr t3 leg hroot hdom hslave hseq hsent hleg => ?_, fun l hport hlink => ⟨?_, fun seq r rx => ?_⟩,
    fun l seq corr rx t1 hport hsent hseq => ⟨⟨_, congrArg Host.Outcome.next (pdelayResp_oneStep hport hsent hseq),
      pdelayMeasured_leaves l _ hs hwf⟩, congrArg _ (pdelayResp_twoStep hport hsent hseq)⟩,
    fun l seq corr round hwaits => ?_⟩
  · obtain ⟨hsame, hregs, hport, hword⟩ := setDelay_leaves (s := onDom s d (fun x => { x with reqSent := none })) .l3
      (pathDelay s leg rx corr t3) (shaped_onDom _ _ _ hs) hwf
    refine ⟨_, pathDelay s leg rx corr t3, congrArg Host.Outcome.next (delayResp_measured hroot hdom hslave hseq hsent hleg),
      (frame_onDom s d _ (by decide) (SameBut.refl [.time, .regs] _)).trans hsame, (regsBut_of_same _ rfl).trans hregs, rfl, ?_, hword⟩
    rw [portDelay, hport]
  · refine congrArg Host.Outcome.next ((if_neg ?_).trans rfl)
    simp [hport, hlink]
  · refine congrArg Host.Outcome.next ((if_neg ?_).trans rfl)
    simp [hport, hlink]
  · show Host.Outcome.next _ = _
    rw [hwaits]
    exact congrArg _ (when_of (by simp))

end Sys2Proof.Machine
end

section
/-!
PROOF. Masters, losses and the grid (R381 to R391, R400 to R407): what the loss of the tracked domain leaves, the root's messages, the
start of the grid; the settling of O30 and O31.
-/
namespace Sys2Proof.Machine

-- the servo of a domain

theorem trackedIdx_lt (s : State) : trackedIdx s < 2 := by
  unfold trackedIdx
  cases s.time.tracked <;> decide

theorem servo_eq (s : State) : servo s = (domOf s (trackedIdx s)).servo := rfl

theorem domOf_congr {s t : State} (h : t.time = s.time) (d : Nat) : domOf t d = domOf s d := by
  rw [domOf, h, domOf]

theorem trackedIdx_congr {s t : State} (h : t.time = s.time) : trackedIdx t = trackedIdx s := by
  rw [trackedIdx, h, trackedIdx]

theorem time_evt (s : State) (p i : Nat) : (evt s p i).time = s.time := rfl

theorem time_evtIf (c : Bool) (s : State) (p i : Nat) : (evtIf c s p i).time = s.time := by
  cases c <;> rfl

/-- A servo's new state touches no time but its domain. -/
theorem time_setServo {s : State} {d : Nat} {v : Servo} (h : (domOf s d).servo ≠ v) :
    (setServo s d v).time = (onDom s d (fun x => { x with servo := v, near := 0, far := 0 })).time := by
  rw [setServo, if_neg h]
  dsimp only
  split
  · rw [time_evtIf, time_evtIf, time_evt, time_evtIf]
  · rw [time_evtIf]

theorem servo_setServo {s : State} {d : Nat} (v : Servo) (hs : Shaped s) (hd : d < 2) : (domOf (setServo s d v) d).servo = v := by
  by_cases h : (domOf s d).servo = v
  · rw [setServo, if_pos h, h]
  · rw [domOf_congr (time_setServo h), domOf_same _ hs hd]

theorem setServo_time_f (s : State) (d : Nat) (v : Servo) : (setServo s d v).time.f = s.time.f := by
  by_cases h : (domOf s d).servo = v
  · rw [setServo, if_pos h]
  · rw [time_setServo h]
    rfl

theorem setServo_time_tracked (s : State) (d : Nat) (v : Servo) : (setServo s d v).time.tracked = s.time.tracked := by
  by_cases h : (domOf s d).servo = v
  · rw [setServo, if_pos h]
  · rw [time_setServo h]
    rfl

-- the loss of the tracked domain

theorem domOf_markLost_same {s : State} {d : Nat} (hs : Shaped s) (hd : d < 2) :
    domOf (markLost s d) d = { domOf s d with lost := true, early := 0, late := 0 } := domOf_same _ hs hd

theorem servo_markLost {s : State} (hs : Shaped s) :
    (domOf (markLost s (trackedIdx s)) (trackedIdx s)).servo = (domOf s (trackedIdx s)).servo := by
  rw [domOf_markLost_same hs (trackedIdx_lt s)]

theorem domOf_markLost_other {s : State} {d o : Nat} (h : o ≠ d) : domOf (markLost s d) o = domOf s o := domOf_other _ h

theorem rd_markLost {s : State} {d a : Nat} (ha : a ≠ hdr (pgPTP d) Hdr.EVT) : rd (markLost s d) a = rd s a :=
  (rd_evt_other _ _ ha).trans rfl

theorem timeCfg_ne (d : Nat) : TIME.CFG ≠ hdr (pgPTP d) Hdr.EVT := by
  unfold TIME.CFG hdr pgPTP Hdr.EVT
  omega

theorem switchWindow_ne (d : Nat) : TIME.SWITCH_WINDOW ≠ hdr (pgPTP d) Hdr.EVT := by
  unfold TIME.SWITCH_WINDOW hdr pgPTP Hdr.EVT
  omega

theorem timeCfg_ne_syncCount (d : Nat) : TIME.CFG ≠ PTP.SYNC_COUNT d := by
  unfold TIME.CFG PTP.SYNC_COUNT
  omega

theorem switchWindow_ne_syncCount (d : Nat) : TIME.SWITCH_WINDOW ≠ PTP.SYNC_COUNT d := by
  unfold TIME.SWITCH_WINDOW PTP.SYNC_COUNT
  omega

/-- The condition of R400 looks at the other domain and at SWITCH_WINDOW. -/
theorem shadowOk_congr {s t : State} (hidx : trackedIdx t = trackedIdx s)
    (hdom : domOf t (1 - trackedIdx s) = domOf s (1 - trackedIdx s)) (hreg : rd t TIME.SWITCH_WINDOW = rd s TIME.SWITCH_WINDOW) :
    shadowOk t = shadowOk s := by
  rw [shadowOk, hidx, hdom, hreg, shadowOk]

theorem gmAble_congr {s t : State} (hring : t.ring = s.ring) (hreg : rd t TIME.CFG = rd s TIME.CFG) : gmAble t = gmAble s := by
  rw [gmAble, rdb, hring, hreg, gmAble, rdb]

theorem other_ne_tracked (s : State) : 1 - trackedIdx s ≠ trackedIdx s := by
  have hlt := trackedIdx_lt s
  omega

theorem shadowOk_markLost (s : State) : shadowOk (markLost s (trackedIdx s)) = shadowOk s :=
  shadowOk_congr rfl (domOf_markLost_other (other_ne_tracked s)) (rd_markLost (switchWindow_ne _))

theorem gmAble_markLost (s : State) (d : Nat) : gmAble (markLost s d) = gmAble s := gmAble_congr rfl (rd_markLost (timeCfg_ne _))

theorem rdb_timeCfg_markLost (s : State) (d i : Nat) : rdb (markLost s d) TIME.CFG i = rdb s TIME.CFG i := by
  rw [rdb, rd_markLost (timeCfg_ne d), rdb]

/-- A tracked servo that was locked or acquiring loses its domain: F = −I from here on. -/
theorem servoLost_leaves {s : State} (hs : Shaped s) (hservo : servo s = .locked ∨ servo s = .acquire) :
    (servoLost s).time.f = holdF s ∧ (domOf (servoLost s) (trackedIdx s)).servo =
      if servo s = .locked then .holdover else if gmAble s then .grandmaster else .freerun := by
  have hfrozen : Shaped (freezeServo s) := shaped_freezeServo _ hs
  have hgm : gmAble s = gmAble (freezeServo s) := gmAble_congr rfl rfl
  rw [servo_eq] at hservo ⊢
  rw [servoLost]
  rcases hservo with h | h <;> simp only [h]
  · exact ⟨setServo_time_f _ _ _, servo_setServo _ hfrozen (trackedIdx_lt s)⟩
  · exact ⟨setServo_time_f _ _ _, servo_setServo _ hfrozen (trackedIdx_lt s)⟩

theorem domainLost_held {s : State} (hs : Shaped s) (hservo : servo s = .locked ∨ servo s = .acquire)
    (hstay : (rdb s TIME.CFG 1 && shadowOk s) = false) : (domainLost s).time.f = holdF s ∧
      (domOf (domainLost s) (trackedIdx s)).servo =
        if servo s = .locked then .holdover else if gmAble s then .grandmaster else .freerun := by
  have hmarked : servo (markLost s (trackedIdx s)) = servo s := by
    rw [servo_eq, servo_eq]
    exact servo_markLost hs
  have hlost : domainLost s = servoLost (markLost s (trackedIdx s)) := by
    rw [servo_eq] at hservo
    rw [domainLost]
    dsimp only
    rw [if_pos hservo, rdb_timeCfg_markLost, shadowOk_markLost, hstay]
    rfl
  have hleaves := servoLost_leaves (s := markLost s (trackedIdx s)) (shaped_markLost _ _ hs) (by rw [hmarked]; exact hservo)
  rw [hmarked, gmAble_markLost] at hleaves
  rw [hlost]
  exact hleaves

theorem domainLost_switched {s : State} (hs : Shaped s) (hservo : servo s = .locked ∨ servo s = .acquire)
    (hswitch : (rdb s TIME.CFG 1 && shadowOk s) = true) : (domainLost s).time.f = s.time.f ∧
      (domainLost s).time.switchTo = some (decide (trackedIdx s = 0)) ∧
      (domOf (domainLost s) (trackedIdx s)).servo = servo s := by
  have hlost : domainLost s = onTime (nameDomain (markLost s (trackedIdx s)) (decide (trackedIdx s = 0)))
      (fun t => { t with switchTo := some (decide (trackedIdx s = 0)), slewing := false }) := by
    rw [servo_eq] at hservo
    rw [domainLost]
    dsimp only
    rw [if_pos hservo, rdb_timeCfg_markLost, shadowOk_markLost, hswitch]
    rfl
  rw [hlost]
  exact ⟨rfl, rfl, servo_markLost hs⟩

/-- The tracked domain's lost Syncs are counted before its loss is taken. -/
def lossCounted (s : State) : State := bumpSat s (PTP.SYNC_COUNT (trackedIdx s)) 16 16 3

theorem rdb_timeCfg_lossCounted (s : State) (i : Nat) : rdb (lossCounted s) TIME.CFG i = rdb s TIME.CFG i := by
  rw [rdb, lossCounted, rd_bumpSat_other _ _ _ (timeCfg_ne_syncCount _), rdb]

theorem shadowOk_lossCounted (s : State) : shadowOk (lossCounted s) = shadowOk s :=
  shadowOk_congr rfl rfl (rd_bumpSat_other _ _ _ (switchWindow_ne_syncCount _))

theorem gmAble_lossCounted (s : State) : gmAble (lossCounted s) = gmAble s :=
  gmAble_congr rfl (rd_bumpSat_other _ _ _ (timeCfg_ne_syncCount _))

theorem servo_lossCounted (s : State) : servo (lossCounted s) = servo s := rfl

theorem shaped_lossCounted {s : State} (hs : Shaped s) : Shaped (lossCounted s) := shaped_bumpSat _ _ _ _ _ hs

-- masters (R388, R391)

theorem announceHeard_l3 {s : State} {m : AnnounceMsg} {d : Nat} (hroot : s.ring.root = true) (hport : m.port = .l3)
    (hdom : domOfNumber s m.domain = some d) (hsource : m.source ≠ s.serial) (hsteps : m.stepsRemoved < 255) :
    announceHeard s m = decideL3 (noteForeign s d m) d := by
  have hfar : ¬ 255 ≤ m.stepsRemoved := Nat.not_le.mpr hsteps
  simp [announceHeard, hport, hroot, hdom, hsource, hfar]

theorem announceHeard_ring {s : State} {m : AnnounceMsg} {d : Nat} (hroot : s.ring.root = false)
    (hport : m.port = .l0 ∨ m.port = .l1) (hsource : m.source = s.ring.rootSerial) (hdom : domOfNumber s m.domain = some d) :
    announceHeard s m = setMaster s d m := by
  rcases hport with h | h <;> simp [announceHeard, h, hroot, hsource, hdom]

/-- The master of a domain gone, and its entry among the masters heard. -/
def masterGone (s : State) (d : Nat) : State :=
  onDom s d (fun x => { x with
    master := none
    foreign := x.foreign.filter (fun e => decide (some e.ann.source ≠ (domOf s d).master.map (fun m => m.source))) })

theorem announceTimeout_locked {s : State} {d : Nat} (hs : Shaped s) (hen : domEn s d = true) (hroot : s.ring.root = false)
    (htracked : d = trackedIdx s) (hlocked : (domOf s d).servo = .locked) : announceTimeout s d = domainLost (masterGone s d) := by
  have hservo : (domOf (masterGone s d) d).servo = .locked := by
    rw [masterGone, domOf_same _ hs (by rw [htracked]; exact trackedIdx_lt s)]
    exact hlocked
  have hring : ¬ (masterGone s d).ring.root = true := by
    rw [show (masterGone s d).ring.root = s.ring.root from rfl, hroot]
    exact Bool.false_ne_true
  unfold announceTimeout
  rw [hen, Bool.not_true, if_neg Bool.false_ne_true]
  extract_lets gone s1 s2 none'
  have hs1 : s1 = masterGone s d := rfl
  clear_value s1
  subst hs1
  have hs2 : s2 = masterGone s d := if_neg hring
  rw [hs2, if_pos (show d = trackedIdx (masterGone s d) from htracked), hservo]

/-- A hub that sends Sync with its L3 port not master sends it on the ring alone. -/
theorem exec_rootSyncSend_ring {s : State} {b : Bool} (hs : Shaped s) (hsends : sendsPtp s (b2n b) = true)
    (hl3 : (domOf s (b2n b)).l3 ≠ 2) : exec (.rootSyncSend b) s =
      .next (ptpPair (onDom s (b2n b) (fun x => { x with syncSeq := (domOf s (b2n b)).syncSeq + 1 }))
        (.sync ⟨.l0, domNumber s (b2n b), (domOf s (b2n b)).syncSeq + 1, s.serial, false, txStamp s .l0, 0, 0⟩)
        (.sync ⟨.l1, domNumber s (b2n b), (domOf s (b2n b)).syncSeq + 1, s.serial, false, txStamp s .l1, 0, 0⟩)) := by
  refine congrArg Host.Outcome.next ((when_of hsends).trans (if_neg ?_))
  have hb : b2n b < 2 := by cases b <;> decide
  have htime (t : State) (b0 b1 : FrameBody) : (ptpPair t b0 b1).time = t.time :=
    frame_ptpPair t b0 b1 (List.Subset.refl _) (SameBut.refl _ _) .time (by decide)
  rw [domOf_congr (htime _ _ _), domOf_same _ hs hb]
  exact hl3

theorem domSelChk_none {s : State} {v : Word}
    (h : bit v 0 = s.time.tracked ∨ ((domOf s (1 - trackedIdx s)).servo = .locked ∧ shadowOk s = true)) : domSelChk s v = none := by
  rcases h with h | ⟨hlocked, hok⟩
  · exact if_pos h
  · simp [domSelChk, firstSome, rejIf, hlocked, hok]

/-- TIME.CFG written and its switch asked for. -/
def domSelected (s : State) (v : Word) : State :=
  onTime (wr s TIME.CFG (v &&& 7)) (fun t => { t with switchTo := if bit v 0 = t.tracked then none else some (bit v 0) })

theorem timeCfgWrite_accepted {s : State} {w : Who} {v : Word}
    (h : bit v 0 = s.time.tracked ∨ ((domOf s (1 - trackedIdx s)).servo = .locked ∧ shadowOk s = true)) :
    timeCfgWrite s w v = domSelected s v := by
  rw [timeCfgWrite, domSelChk_none h, checked_none]
  rfl

theorem domSelected_leaves {s : State} (v : Word) (hwf : regsWf s = true) : SameBut [.regs, .time] s (domSelected s v) ∧
    RegsBut [TIME.CFG] s (domSelected s v) ∧ rd (domSelected s v) TIME.CFG = v &&& 7 ∧
    (domSelected s v).time = { s.time with switchTo := if bit v 0 = s.time.tracked then none else some (bit v 0) } :=
  ⟨frame_onTime _ _ (by decide) (sameBut_wr _ _ _ (by decide)), (regsBut_wr _ _ _).trans (regsBut_of_same _ rfl),
    (rd_onTime _ _ _).trans (rd_wr_same _ _ hwf), rfl⟩

theorem hubOn_refreshes {s : State} (h : hubOn s = true) : s.pwr.st ≠ .vbkAbsent ∧ s.pwr.st ≠ .midnight ∧ s.pwr.st ≠ .reset := by
  unfold hubOn at h
  refine ⟨?_, ?_, ?_⟩ <;> (intro hst; rw [hst] at h; cases h)

theorem holdLimit_leaves {s : State} (hs : Shaped s) (v : Servo) : SameBut [.time, .regs] s (setServo s (trackedIdx s) v) ∧
    servo (setServo s (trackedIdx s) v) = v := by
  refine ⟨frame_setServo s _ v (by decide) (SameBut.refl _ _), ?_⟩
  have hidx : trackedIdx (setServo s (trackedIdx s) v) = trackedIdx s := by
    rw [trackedIdx, setServo_time_tracked, trackedIdx]
  rw [servo_eq, hidx, servo_setServo v hs (trackedIdx_lt s)]

/-- Settles O30: masters heard, taken and lost, the servo after a loss, and what the root sends. -/
theorem mastersAndLosses : Obligations.MastersAndLosses := by
  unfold Obligations.MastersAndLosses
  intro s hshape hmem
  have hs := (shaped_iff s).1 hshape
  have hs' := shaped_lossCounted hs
  refine ⟨fun m d hroot hport hdom hsource hsteps => ⟨_, rfl, fun b hb => ?_, fun hb => ?_⟩,
    fun m d hroot hport hsource hdom => congrArg _ (announceHeard_ring hroot hport hsource hdom),
    fun b hen hroot htracked hlocked => ⟨_, rfl, congrArg _ (announceTimeout_locked hs hen hroot htracked hlocked)⟩,
    fun hservo hstay => ⟨_, _, rfl, rfl, rfl, ?_⟩, fun hservo hswitch => ⟨_, rfl, ?_⟩,
    fun hhold => ⟨_, congrArg Host.Outcome.next (when_of (by simp [hhold])), holdLimit_leaves hs _⟩,
    fun b hsends hl3 => ⟨_, _, rfl, rfl, exec_rootSyncSend_ring hs hsends hl3⟩, fun b hsends => ?_, fun p v hpass h =>
      ⟨_, congrArg Host.Outcome.next ((gated_of_passes _ hpass).trans (timeCfgWrite_accepted h)),
        domSelected_leaves v (regsWf_of_memoryWf hmem)⟩, fun hxlp hxtime hpll hon => congrArg _ (when_of ?_)⟩
  · refine congrArg Host.Outcome.next ((announceHeard_l3 hroot hport hdom hsource hsteps).trans ?_)
    rw [decideL3, hb]
  · refine congrArg Host.Outcome.next ((announceHeard_l3 hroot hport hdom hsource hsteps).trans ?_)
    rw [decideL3, hb]
  · have hheld := domainLost_held hs' hservo (by rw [rdb_timeCfg_lossCounted, shadowOk_lossCounted, hstay])
    rw [gmAble_lossCounted] at hheld
    exact hheld
  · exact domainLost_switched (s := lossCounted s) hs' hservo (by rw [rdb_timeCfg_lossCounted, shadowOk_lossCounted, hswitch])
  · refine ⟨_, _, congrArg Host.Outcome.next (when_of hsends), rfl, ?_⟩
    dsimp only
    split
    · exact Or.inr rfl
    · exact Or.inl rfl
  · simp [hxlp, hxtime, hpll, hubOn_refreshes hon]

-- the start of the sample grid (R406, R407)

/-- The message of the next whole second. -/
def nextGrid (s : State) : GridMsg :=
  ⟨((s.time.ht / secLen + 1) * 10000000 + (2 ^ 64 - epoch s)) % 2 ^ 64, epoch s, s.time.tracked, (servo s).code⟩

theorem exec_gridStartSend_root {s : State} (hroot : s.ring.root = true) :
    exec .gridStartSend s = .next (gridStartHeard (sendRing s ctlMac (.gridStart (nextGrid s))) (nextGrid s)) :=
  congrArg Host.Outcome.next (when_of hroot)

theorem gridStartHeard_otherEpoch {s : State} {m : GridMsg} (hgrid : s.time.gridStarted = false) (hepoch : m.epoch ≠ epoch s) :
    gridStartHeard s m = evt s pgTIME 6 := by
  simp [gridStartHeard, hgrid, hepoch]

theorem gridStartHeard_inTime {s : State} {m : GridMsg} (hgrid : s.time.gridStarted = false) (hepoch : m.epoch = epoch s)
    (hservo : servo s = .locked ∨ servo s = .grandmaster) (hslew : s.time.slewing = false)
    (hahead : s.time.ht + secLen / 10 ≤ (m.index + m.epoch) * tickLen) :
    gridStartHeard s m = onTime s (fun t => { t with gridAt := some m.index }) := by
  have hcond : (servo s = .locked ∨ servo s = .grandmaster) ∧ !s.time.slewing ∧
      s.time.ht + secLen / 10 ≤ (m.index + m.epoch) * tickLen := by
    simp only [hslew]
    exact ⟨hservo, rfl, hahead⟩
  rw [gridStartHeard, hgrid, if_neg Bool.false_ne_true, if_neg (not_not.mpr hepoch)]
  exact if_pos hcond

/-- The grid runs: its first index is shown. -/
def gridShown (s : State) (n : Nat) : State :=
  evt (wr64 (onTime s (fun t => { t with gridStarted := true, gridAt := none, held := false })) TIME.GRID_START_LO n) pgTIME 5

/-- The first index after a warm reset where no grid ran before it. -/
def gridResumed (s : State) (n : Nat) : State :=
  onPwr (if s.pwr.resumeDue then wr64 s PWR.RESUMED_LO n else s) (fun p => { p with resumeDue := false })

theorem gridStartIndex_due {s : State} {n : Nat} (hat : s.time.gridAt = some n) (hdue : n ≤ now s) (htick : atTick s = true)
    (hlost : s.pwr.warm.timeLost = false) :
    gridStartIndex s = restartChains (gridResumed (gridShown s n) n) (fun _ => true) n := by
  rw [gridStartIndex, hat]
  refine (when_of (by simp [hdue, htick, hlost])).trans ?_
  extract_lets lost last s1 s2 s3 p3 s4 s5 p5 s6
  have hno : lost = false := hlost
  clear_value lost last
  subst hno
  have hs2 : s2 = gridShown s n := rfl
  clear_value s2
  subst hs2
  have hs3 : s3 = if (gridShown s n).pwr.resumeDue then wr64 (gridShown s n) PWR.RESUMED_LO n else gridShown s n := by
    simp only [s3, Bool.false_eq_true, false_or]
  have hs4 : s4 = gridResumed (gridShown s n) n := by
    rw [gridResumed, ← hs3]
    rfl
  clear_value s4
  have hs5 : s5 = s4 := if_neg (fun h => Bool.false_ne_true h.1)
  have hs6 : s6 = s5 := if_neg Bool.false_ne_true
  rw [hs6, hs5, hs4]

theorem regs_restartChains (s : State) (p : ChainCfg → Bool) (n : Nat) : (restartChains s p n).regs = s.regs :=
  frame_restartChains s p n (List.Subset.refl _) (SameBut.refl _ _) .regs (by decide)

theorem regsBut_wr64 (s : State) (lo v : Nat) : RegsBut [lo, lo + 4] s (wr64 s lo v) :=
  ((regsBut_wr _ _ _).mono (by simp)).trans ((regsBut_wr _ _ _).mono (by simp))

theorem rd_wr64 {s : State} (lo v : Nat) (hwf : regsWf s = true) :
    rd (wr64 s lo v) lo = word v ∧ rd (wr64 s lo v) (lo + 4) = word (v / 2 ^ 32) :=
  ⟨(rd_wr_other _ (by omega)).trans (rd_wr_same _ _ hwf), rd_wr_same _ _ (regsWf_wr _ _ hwf)⟩

theorem regsBut_gridShown (s : State) (n : Nat) :
    RegsBut [TIME.GRID_START_LO, TIME.GRID_START_LO + 4, hdr pgTIME Hdr.EVT] s (gridShown s n) :=
  (regsBut_of_same _ rfl).trans (((regsBut_wr64 (onTime s _) _ _).mono (by simp)).trans ((regsBut_evt _ _ _).mono (by simp)))

theorem regsBut_gridResumed (s : State) (n : Nat) : RegsBut [PWR.RESUMED_LO, PWR.RESUMED_LO + 4] s (gridResumed s n) := by
  unfold gridResumed
  split
  · exact (regsBut_wr64 _ _ _).trans (regsBut_of_same _ rfl)
  · exact regsBut_of_same _ rfl

theorem rd_gridShown {s : State} (n : Nat) (hwf : regsWf s = true) : rd (gridShown s n) TIME.GRID_START_LO = word n ∧
    rd (gridShown s n) (TIME.GRID_START_LO + 4) = word (n / 2 ^ 32) := by
  obtain ⟨hlo, hhi⟩ := rd_wr64 (s := onTime s (fun t => { t with gridStarted := true, gridAt := none, held := false }))
    TIME.GRID_START_LO n hwf
  exact ⟨(rd_evt_other _ _ (by decide)).trans hlo, (rd_evt_other _ _ (by decide)).trans hhi⟩

theorem rd_gridResumed {s : State} (n : Nat) (hwf : regsWf s = true) (hdue : s.pwr.resumeDue = true) :
    rd (gridResumed s n) PWR.RESUMED_LO = word n ∧ rd (gridResumed s n) (PWR.RESUMED_LO + 4) = word (n / 2 ^ 32) := by
  rw [gridResumed, if_pos hdue]
  exact rd_wr64 _ _ hwf

theorem gridResumed_fields (s : State) (n : Nat) : (gridResumed s n).time = s.time ∧
    (gridResumed s n).pwr = { s.pwr with resumeDue := false } ∧ SameBut [.regs, .pwr] s (gridResumed s n) := by
  unfold gridResumed
  split
  · exact ⟨rfl, rfl, frame_onPwr _ _ (by decide) (frame_wr64 _ _ _ (by decide) (SameBut.refl _ _))⟩
  · exact ⟨rfl, rfl, frame_onPwr _ _ (by decide) (SameBut.refl _ _)⟩

theorem sameBut_gridShown (s : State) (n : Nat) : SameBut [.time, .regs] s (gridShown s n) :=
  frame_evt _ _ _ (by decide) (frame_wr64 _ _ _ (by decide) (frame_onTime _ _ (by decide) (SameBut.refl _ _)))

theorem exec_gridStartIndex_due {s : State} {n : Nat} (hat : s.time.gridAt = some n) (hdue : n ≤ now s) (htick : atTick s = true)
    (hlost : s.pwr.warm.timeLost = false) (hst : s.pwr.st ≠ .dawn) :
    exec .gridStartIndex s = .next (restartChains (gridResumed (gridShown s n) n) (fun _ => true) n) := by
  have hpwr : (gridStartIndex s).pwr = { s.pwr with resumeDue := false } := by
    rw [gridStartIndex_due hat hdue htick hlost]
    exact (frame_restartChains _ _ n (List.Subset.refl _) (SameBut.refl _ _) .pwr (by decide)).trans
      (gridResumed_fields (gridShown s n) n).2.1
  have hdawn : (gridStartIndex s).pwr.st ≠ .dawn := by
    rw [hpwr]
    exact hst
  rw [← gridStartIndex_due hat hdue htick hlost]
  refine congrArg Host.Outcome.next ?_
  rw [hlost, Bool.false_and, if_neg Bool.false_ne_true]
  exact dawnAdvance_of_ne hdawn

/-- What the start of the grid leaves, for O31. -/
theorem gridStarted_leaves {s : State} (n : Nat) (hwf : regsWf s = true) :
    let u := restartChains (gridResumed (gridShown s n) n) (fun _ => true) n
    SameBut [.time, .regs, .chains, .pwr] s u ∧
      u.time = { s.time with gridStarted := true, gridAt := none, held := false } ∧ u.pwr = { s.pwr with resumeDue := false } ∧
      RegsBut [TIME.GRID_START_LO, TIME.GRID_START_LO + 4, hdr pgTIME Hdr.EVT, PWR.RESUMED_LO, PWR.RESUMED_LO + 4] s u ∧
      (s.pwr.resumeDue = true → rd u PWR.RESUMED_LO = word n ∧ rd u (PWR.RESUMED_LO + 4) = word (n / 2 ^ 32)) ∧
      rd u TIME.GRID_START_LO = word n ∧ rd u (TIME.GRID_START_LO + 4) = word (n / 2 ^ 32) := by
  intro u
  have hchains : SameBut [.chains] (gridResumed (gridShown s n) n) u :=
    frame_restartChains _ _ _ (List.Subset.refl _) (SameBut.refl _ _)
  have hrd (a : Nat) : rd u a = rd (gridResumed (gridShown s n) n) a := rd_congr (regs_restartChains _ _ _) a
  obtain ⟨htime, hpwr, hsame⟩ := gridResumed_fields (gridShown s n) n
  have hutime : u.time = (gridResumed (gridShown s n) n).time := hchains .time (by decide)
  have hupwr : u.pwr = (gridResumed (gridShown s n) n).pwr := hchains .pwr (by decide)
  have hshown : regsWf (gridShown s n) = true := regsWf_evt _ _ (regsWf_wr _ _ (regsWf_wr _ _ hwf))
  obtain ⟨hlo, hhi⟩ := rd_gridShown n hwf
  have hresumed := regsBut_gridResumed (gridShown s n) n
  refine ⟨((sameBut_gridShown s n).mono (by decide)).trans ((hsame.mono (by decide)).trans (hchains.mono (by decide))),
    hutime.trans (htime.trans rfl), hupwr.trans (hpwr.trans rfl), ?_, fun hdue => ?_, ?_, ?_⟩
  · intro a ha
    rw [hrd]
    exact (((regsBut_gridShown s n).mono (by simp)).trans (hresumed.mono (by simp))) a ha
  · rw [hrd, hrd]
    exact rd_gridResumed n hshown hdue
  · rw [hrd, hresumed _ (by decide), hlo]
  · rw [hrd, hresumed _ (by decide), hhi]

/-- Settles O31: the root's message, what a hub takes from it, and the start at its index. -/
theorem gridStart : Obligations.GridStart := by
  unfold Obligations.GridStart
  intro s _ hmem
  refine ⟨fun hroot => ⟨nextGrid s, rfl, rfl, exec_gridStartSend_root hroot⟩, fun m hgrid =>
    ⟨fun hepoch => congrArg Host.Outcome.next (gridStartHeard_otherEpoch hgrid hepoch), fun hepoch hservo hslew hahead =>
      congrArg Host.Outcome.next (gridStartHeard_inTime hgrid hepoch hservo hslew hahead)⟩, fun n hat hdue htick hlost hst =>
    ⟨_, exec_gridStartIndex_due hat hdue htick hlost hst, gridStarted_leaves n (regsWf_of_memoryWf hmem)⟩⟩

end Sys2Proof.Machine
end

section
/-!
PROOF. O32 and O33: a stream from its opening to its end, and its quires on their way to the host.
-/
namespace Sys2Proof.Machine

-- the state of a stream (R477, Table 11.8)

theorem setSt_leaves {s : State} {i : Nat} (st : StrmSt) (hs : Shaped s) (hi : i < 64) : SameBut [.streams, .regs] s (setSt s i st) ∧
    strmOf (setSt s i st) i = { strmOf s i with st := st } ∧ (∀ o, o ≠ i → strmOf (setSt s i st) o = strmOf s o) ∧
    RegsBut [STRM.STREAM_EVT_LO, STRM.STREAM_EVT_HI] s (setSt s i st) := by
  have hregs (a : Nat) (v : Word) : RegsBut [a] s (onStrm (wr s a v) i (fun x => { x with st := st })) :=
    (regsBut_wr s a v).trans (regsBut_of_same _ rfl)
  refine ⟨frame_setSt s i st (by decide) (SameBut.refl _ _), strmOf_same _ (shaped_wr hs) hi,
    fun o ho => strmOf_other _ ho, ?_⟩
  unfold setSt
  dsimp only
  split
  · exact (hregs _ _).mono (by simp)
  · exact (hregs _ _).mono (by simp)

theorem setSt_adm (s : State) (i : Nat) (st : StrmSt) : (setSt s i st).adm = s.adm := rfl
theorem setSt_ring (s : State) (i : Nat) (st : StrmSt) : (setSt s i st).ring = s.ring := rfl
theorem setSt_time (s : State) (i : Nat) (st : StrmSt) : (setSt s i st).time = s.time := rfl

-- the opening (R477, R478)

theorem openChk_none {s : State} {i : Nat} (hi : i < 64) (hidle : (strmOf s i).st = .idle) (hdusk : s.pwr.st ≠ .dusk)
    (hrate : strmRate s i ≠ 0) (hsel : selOk s i = true)
    (hslow : strmSource s i = 2 ∨ (selRate s i).1 * 65536 ≤ strmRate s i * (selRate s i).2) (hfelt : shareUnits s i ≤ feltFree s) :
    openChk s i = none := by
  have hfast : ¬ (strmSource s i ≠ 2 ∧ strmRate s i * (selRate s i).2 < (selRate s i).1 * 65536) := by
    rintro ⟨hsource, hlt⟩
    rcases hslow with h | h
    · exact hsource h
    · omega
  rw [openChk, firstSome_eq_none]
  simp only [List.mem_cons, List.not_mem_nil, or_false, forall_eq_or_imp, forall_eq, rejIf_eq_none, decide_eq_false_iff_not,
    Bool.not_eq_false', not_or, Nat.not_le, Nat.not_lt]
  exact ⟨hi, ⟨not_not.mpr hidle, hdusk⟩, hrate, hsel, hfast, hfelt⟩

/-- The stream's share is booked and its admission asked for. -/
def streamBooked (s : State) (i : Nat) : State :=
  setSt (onStrm s i (fun x => { share := shareUnits s i, units := (freeUnits s).take (shareUnits s i), adm := x.adm
                                sent := 0xFFFFFFFF, acked := 0xFFFFFFFF, ackAt := s.time.now })) i .requesting

theorem streamBooked_adm (s : State) (i : Nat) : (streamBooked s i).adm = s.adm := rfl
theorem streamBooked_ring (s : State) (i : Nat) : (streamBooked s i).ring = s.ring := rfl
theorem streamBooked_time (s : State) (i : Nat) : (streamBooked s i).time = s.time := rfl

/-- The request stands among those that wait for an answer. -/
def requestWaits (s : State) (i : Nat) : State :=
  { s with adm := { s.adm with
      nextRequest := (s.adm.nextRequest + 1) % 65536, waiting := s.adm.waiting ++ [(s.adm.nextRequest, i, s.time.now)] } }

theorem openStream_noAddress {s : State} {i : Nat} (w : Who) (hchk : openChk s i = none) (haddr : s.ring.address = none) :
    openStream s w i = admResult (streamBooked s i) i s.adm.nextRequest 5 := by
  rw [openStream, hchk]
  refine (if_pos ?_).trans rfl
  show (streamBooked s i).ring.address.isNone = true
  rw [streamBooked_ring, haddr]
  rfl

theorem openStream_asks {s : State} {i : Nat} (w : Who) (hchk : openChk s i = none) (haddr : s.ring.address ≠ none) :
    openStream s w i = sendAdm (requestWaits (streamBooked s i) i)
      (requestOf (requestWaits (streamBooked s i) i) i s.adm.nextRequest false) := by
  rw [openStream, hchk]
  refine (if_neg ?_).trans rfl
  show ¬ (streamBooked s i).ring.address.isNone = true
  rw [streamBooked_ring, Option.isNone_iff_eq_none]
  exact haddr

-- the closing (R491)

theorem closeStream_held {s : State} {w : Who} {i : Nat} (hi : i < 64) (h : (strmOf s i).st = .running ∨ (strmOf s i).st = .admitted) :
    closeStream s w i = closingEnd (setSt (releaseAdm s i) i .closing) i := by
  have hfar : ¬ 64 ≤ i := Nat.not_le.mpr hi
  rw [closeStream, decide_eq_false hfar, rejIf_false, checked_none]
  rcases h with h | h <;> rw [h]

theorem closeStream_over {s : State} {w : Who} {i : Nat} (hi : i < 64)
    (h : (strmOf s i).st = .idle ∨ (strmOf s i).st = .closing ∨ (strmOf s i).st = .ended) : closeStream s w i = s := by
  have hfar : ¬ 64 ≤ i := Nat.not_le.mpr hi
  rw [closeStream, decide_eq_false hfar, rejIf_false, checked_none]
  rcases h with h | h | h <;> rw [h]

theorem clearStream_of_lt {s : State} {w : Who} {i : Nat} (hi : i < 64) :
    clearStream s w i = if (strmOf s i).st = .ended then
        onStrm (setSt s i .idle) i (fun x => { x with share := 0, felt := [], queue := [], cur := [], curEcc := 0, wait := [] })
      else s := by
  have hfar : ¬ 64 ≤ i := Nat.not_le.mpr hi
  rw [clearStream, decide_eq_false hfar, rejIf_false, checked_none]

theorem closeStream_outside {s : State} {w : Who} {i : Nat} (hi : 64 ≤ i) :
    closeStream s w i = refuse s w STRM.CTRL ⟨0x40, none⟩ := by
  rw [closeStream, decide_eq_true hi]
  rfl

theorem clearStream_outside {s : State} {w : Who} {i : Nat} (hi : 64 ≤ i) :
    clearStream s w i = refuse s w STRM.CTRL ⟨0x40, none⟩ := by
  rw [clearStream, decide_eq_true hi]
  rfl

/-- The request of a stream withdrawn. -/
def requestWithdrawn (s : State) (i : Nat) : State :=
  { releaseAdm s i with adm := { (releaseAdm s i).adm with
      waiting := (releaseAdm s i).adm.waiting.filter (fun x => decide (x.2.1 ≠ i)) } }

theorem closeStream_requesting {s : State} {w : Who} {i : Nat} (hi : i < 64) (h : (strmOf s i).st = .requesting) :
    closeStream s w i = onStrm (setSt (requestWithdrawn s i) i .idle) i (fun x => { x with share := 0 }) := by
  have hfar : ¬ 64 ≤ i := Nat.not_le.mpr hi
  rw [closeStream, decide_eq_false hfar, rejIf_false, checked_none, h]
  rfl

theorem shaped_requestWithdrawn {s : State} (i : Nat) (hs : Shaped s) : Shaped (requestWithdrawn s i) :=
  Shaped.set_adm (shaped_releaseAdm s i hs)

/-- A stream ended is IDLE again with nothing stored. -/
theorem cleared_leaves {s : State} {i : Nat} (hs : Shaped s) (hi : i < 64) :
    let u := onStrm (setSt s i .idle) i (fun x =>
      { x with share := 0, felt := [], queue := [], cur := [], curEcc := 0, wait := [] })
    SameBut [.streams, .regs] s u ∧ (strmOf u i).st = .idle ∧ (strmOf u i).share = 0 ∧ (strmOf u i).felt = [] ∧
      (∀ o, o ≠ i → strmOf u o = strmOf s o) ∧ RegsBut [STRM.STREAM_EVT_LO, STRM.STREAM_EVT_HI] s u := by
  intro u
  obtain ⟨hframe, hi', hother, hregs⟩ := setSt_leaves (i := i) .idle hs hi
  have hu : strmOf u i = { strmOf (setSt s i .idle) i with
      share := 0, felt := [], queue := [], cur := [], curEcc := 0, wait := [] } :=
    strmOf_same _ (shaped_setSt s i .idle hs) hi
  refine ⟨frame_onStrm _ _ _ (by decide) hframe, ?_, ?_, ?_, fun o ho => (strmOf_other _ ho).trans (hother o ho),
    hregs.trans (regsBut_of_same _ rfl)⟩
  · rw [hu, hi']
  · rw [hu]
  · rw [hu]

/-- Settles O32: the checks of OPEN, what it books and asks, and the end of each state by CLOSE, CLEAR and the start index. -/
theorem streamOpening : Obligations.StreamOpening := by
  unfold Obligations.StreamOpening
  intro s p i hshape _ hpass
  have hs := (shaped_iff s).1 hshape
  have hopen : exec (.openStream p i) s = .next (openStream s (some p) i) := congrArg _ (gated_of_passes _ hpass)
  have hclose : exec (.closeStream p i) s = .next (closeStream s (some p) i) := congrArg _ (gated_of_passes _ hpass)
  have hclear : exec (.clearStream p i) s = .next (clearStream s (some p) i) := congrArg _ (gated_of_passes _ hpass)
  rw [hopen, hclose, hclear]
  refine ⟨fun r hr => by rw [openStream, hr], fun hi hidle hdusk hrate hsel hslow hfelt => ?_,
    fun hi => ⟨congrArg _ (closeStream_outside hi), congrArg _ (clearStream_outside hi)⟩,
    fun hi => ⟨fun hst => ?_, fun hst => ?_, fun hst => ?_, fun hst => ?_, fun hst => ?_⟩, fun j hadm hstart => ?_⟩
  · have hchk := openChk_none hi hidle hdusk hrate hsel hslow hfelt
    refine ⟨streamBooked s i, rfl, fun haddr => congrArg _ (openStream_noAddress _ hchk haddr), fun haddr =>
      ⟨requestWaits (streamBooked s i) i, congrArg _ (openStream_asks _ hchk haddr),
        SameBut.set_adm (by decide) (SameBut.refl _ _), ?_⟩⟩
    rw [requestWaits, streamBooked_adm, streamBooked_time]
  · exact congrArg _ (closeStream_held hi hst)
  · refine ⟨_, congrArg _ (closeStream_requesting hi hst), ?_⟩
    have hwd := shaped_requestWithdrawn i hs
    have hidle := (setSt_leaves .idle hwd hi).2.1
    rw [strmOf_same _ (shaped_setSt _ i .idle hwd) hi, hidle]
    exact ⟨rfl, rfl⟩
  · exact congrArg _ (closeStream_over hi hst)
  · exact ⟨_, congrArg _ ((clearStream_of_lt hi).trans (if_pos hst)), cleared_leaves hs hi⟩
  · exact congrArg _ ((clearStream_of_lt hi).trans (if_neg hst))
  · exact ⟨_, congrArg Host.Outcome.next (when_of (by simp [hadm, hstart])), setSt_leaves .running hs j.isLt⟩

-- into the Felt and onto the ring (R53, R349, R461)

theorem storeQuire_clean {s : State} {i : Nat} {h : FeltQuire} {t : List FeltQuire} (hq : (strmOf s i).queue = h :: t) :
    storeQuire s i [] = onStrm s i (fun x => { x with queue := t, felt := x.felt ++ [h] }) := by
  rw [storeQuire, hq]
  rfl

theorem nextToSend_first {s : State} {x : StreamState} {f : FeltQuire} (hf : x.felt.find? (fun f => f.first.isNone) = some f)
    (hpace : mayPace s x f = true) : nextToSend s x = some f := by
  rw [nextToSend, hf]
  exact if_pos hpace

theorem nextToSend_again {s : State} {x : StreamState} {f : FeltQuire} (hall : ∀ f ∈ x.felt, f.first.isNone = false)
    (hf : x.felt.find? (·.again) = some f) (hdue : s.adm.retxAt ≤ s.time.now) : nextToSend s x = some f := by
  have hnone : x.felt.find? (fun f => f.first.isNone) = none := by
    rw [List.find?_eq_none]
    exact fun g hg => Bool.not_eq_true _ ▸ hall g hg
  rw [nextToSend, hnone]
  exact (if_pos hdue).trans hf

theorem exec_quireTransmit {s : State} {i : Fin 64} {f : FeltQuire} (errs : List QueueErr) (hsend : canSend s = true)
    (hunsent : (strmOf s i).felt.any (fun f => f.first.isNone) = true ∨ (strmOf s i).queue = [])
    (hnext : nextToSend s (strmOf s i) = some f) :
    exec (.quireTransmit i errs) s = .next (sendQuire (feltErrors s i errs f).1 i (feltErrors s i errs f).2) := by
  have hstored : (if (strmOf s i).felt.any (fun f => f.first.isNone) then s else storeQuire s i []) = s := by
    rcases hunsent with h | h
    · exact if_pos h
    · rw [storeQuire, h, ite_self]
  refine congrArg Host.Outcome.next ((when_of hsend).trans ?_)
  rw [hstored]
  dsimp only
  rw [hnext]

-- acknowledgement (R482 to R486)

theorem acknowledgement_own {s : State} {m : AckMsg} (haddr : s.ring.address = some m.hub) (hstream : m.stream < 64) :
    acknowledgement s m = hostAck s m.stream m.a (if m.nackValid then some m.nackMap else none) :=
  if_pos ⟨haddr, hstream⟩

/-- An acknowledgement beyond the last quire sent: counted, and nothing else. -/
theorem hostAck_outOfRange {s : State} {i : Nat} {a : Seq32} (nack : Option Word)
    (h : ((strmOf s i).sent - (strmOf s i).acked).toNat < (a - (strmOf s i).acked).toNat) :
    hostAck s i a nack = evt (bumpSat s STRM.ACK_REFUSED 0 32 1) pgSTRM 4 := by
  have hbad : ¬ ((a - (strmOf s i).acked).toNat = 0 ∨
      (a - (strmOf s i).acked).toNat ≤ ((strmOf s i).sent - (strmOf s i).acked).toNat) := by omega
  have hrefused : ackStream s i a nack = (evt (bumpSat s STRM.ACK_REFUSED 0 32 1) pgSTRM 4, false) := if_neg hbad
  rw [hostAck, hrefused]
  rfl

theorem ackRefused_leaves {s : State} (hwf : regsWf s = true) :
    let u := evt (bumpSat s STRM.ACK_REFUSED 0 32 1) pgSTRM 4
    SameBut [.regs] s u ∧ RegsBut [STRM.ACK_REFUSED, hdr pgSTRM Hdr.EVT] s u ∧
      rd u STRM.ACK_REFUSED = setFld (rd s STRM.ACK_REFUSED) 0 32 (min (rdf s STRM.ACK_REFUSED 0 32 + 1) (2 ^ 32 - 1)) :=
  ⟨frame_evt _ _ _ (by decide) (sameBut_bumpSat s _ _ _ _ (by decide)),
    ((regsBut_bumpSat s _ _ _ _).mono (by simp)).trans ((regsBut_evt _ _ _).mono (by simp)),
    (rd_evt_other _ _ (by decide)).trans (rd_wr_same _ _ hwf)⟩

theorem exec_retxAfter {s : State} {i : Fin 64} {f : FeltQuire} {t : List FeltQuire} (hfelt : (strmOf s i).felt = f :: t)
    (hfirst : f.first.isSome = true) : exec (.retxAfter i) s =
      .next (onStrm s i (fun x => { x with felt := { f with again := true } :: t, resent := true })) := by
  refine congrArg Host.Outcome.next ?_
  rw [hfelt]
  exact when_of hfirst

/-- Settles O33: a quire stored, sent, sent again and acknowledged, and the end of a stream whose host is silent. -/
theorem streamDelivery : Obligations.StreamDelivery := by
  unfold Obligations.StreamDelivery
  intro s i hshape hmem
  have hs := (shaped_iff s).1 hshape
  refine ⟨fun h t hq => congrArg Host.Outcome.next (storeQuire_clean hq), fun errs => rfl, fun f errs hsend hfind hpace => ?_,
    fun f => rfl,
    fun f errs hsend hall hq hfind hdue => exec_quireTransmit errs hsend (Or.inr hq) (nextToSend_again hall hfind hdue),
    fun m haddr hstream => congrArg Host.Outcome.next (acknowledgement_own haddr hstream),
    fun p a hpass => congrArg Host.Outcome.next (gated_of_passes _ hpass),
    fun a nack hout => ⟨_, hostAck_outOfRange nack hout, ackRefused_leaves (regsWf_of_memoryWf hmem)⟩,
    fun f t hfelt hfirst => ⟨_, exec_retxAfter hfelt hfirst, frame_onStrm _ _ _ (by decide) (SameBut.refl _ _), ?_⟩,
    fun hst hfelt => congrArg Host.Outcome.next (when_of (by simp [hst, hfelt]))⟩
  · have hany : (strmOf s i).felt.any (fun f => f.first.isNone) = true :=
      List.any_eq_true.2 ⟨f, List.mem_of_find?_eq_some hfind, List.find?_some (p := fun g : FeltQuire => g.first.isNone) hfind⟩
    exact exec_quireTransmit errs hsend (Or.inl hany) (nextToSend_first hfind hpace)
  · rw [strmOf_same _ hs i.isLt]
    exact ⟨rfl, rfl, fun o ho => strmOf_other _ ho⟩

end Sys2Proof.Machine
end

section
/-!
PROOF. O34 and O35: what each submission of a command does, and what the execution of one leaves.
-/
namespace Sys2Proof.Machine

-- submission (R495)

/-- Of an opcode the submission takes the low byte. -/
theorem submitAs_mod (s : State) (p : Path) (o : Nat) (q : Seq32) (args : List Word) :
    submitAs s p o q args = submitAs s p (o % 256) q args := by
  rw [submitAs, submitAs, Nat.mod_mod]

theorem submitCmd_unknown {s : State} {p : Path} {o : Nat} {args : List Word}
    (hregs : (pathOf s p).cmdRegs = word (o % 256) :: s.cmd.nextSeq :: args) (hunknown : opcKnown (o % 256) = false)
    (hdusk : s.pwr.st ≠ .dusk) (hroom : pendingCount s < 16) :
    submitCmd s p = refuse s (some p) CMD.SUBMIT ⟨0x42, none⟩ := by
  have hbyte : (word (o % 256)).toNat % 256 = o % 256 := by
    simp only [word, BitVec.toNat_ofNat]
    omega
  simp [submitCmd, hregs, hbyte, firstSome, rejIf, hunknown, hdusk, Nat.not_le.2 hroom]

section
variable {s : State} {p : Path} {o q : Word} {args : List Word} (hregs : (pathOf s p).cmdRegs = o :: q :: args)
  (hne : q ≠ s.cmd.nextSeq)
include hregs hne

/-- One of the last 256 sequences is selected in the journal and not repeated. -/
theorem submitCmd_repeated (hback : (s.cmd.nextSeq - 1 - q).toNat < 256) : submitCmd s p = wr s CMD.JSEL q := by
  simp only [submitCmd, hregs, List.getD_cons_zero, List.getD_cons_succ]
  rw [if_neg hne, if_pos hback]

theorem submitCmd_old (hback : 256 ≤ (s.cmd.nextSeq - 1 - q).toNat) (hpast : (s.cmd.nextSeq - 1 - q).toNat < 2 ^ 31) :
    submitCmd s p = refuse s (some p) CMD.SUBMIT ⟨0x41, none⟩ := by
  simp only [submitCmd, hregs, List.getD_cons_zero, List.getD_cons_succ]
  rw [if_neg hne, if_neg (Nat.not_lt.mpr hback), if_pos hpast]

theorem submitCmd_ahead (hahead : 2 ^ 31 ≤ (s.cmd.nextSeq - 1 - q).toNat) :
    submitCmd s p = refuse s (some p) CMD.SUBMIT ⟨0x40, some (s.cmd.nextSeq.toNat % 2 ^ 16)⟩ := by
  have hback : 256 ≤ (s.cmd.nextSeq - 1 - q).toNat := Nat.le_trans (by decide) hahead
  simp only [submitCmd, hregs, List.getD_cons_zero, List.getD_cons_succ]
  rw [if_neg hne, if_neg (Nat.not_lt.mpr hback), if_neg (Nat.not_lt.mpr hahead)]

end

/-- The command taken: its sequence, its entry, and for FUSE_WRITE the arguments cleared (R758). -/
def commandTaken (s : State) (p : Path) (o : Nat) (args : List Word) : State :=
  if o = Opc.FUSE_WRITE then
    onPath { s with cmd := ⟨s.cmd.nextSeq + 1, withNewest s.cmd.journal (acceptedEntry s p o args)⟩ } p
      (fun t => { t with cmdRegs := (((t.cmdRegs.set 3 0).set 4 0).set 5 0).set 6 0 })
  else { s with cmd := ⟨s.cmd.nextSeq + 1, withNewest s.cmd.journal (acceptedEntry s p o args)⟩ }

theorem submitCmd_accepted {s : State} {p : Path} {o : Nat} {args : List Word}
    (hregs : (pathOf s p).cmdRegs = word (o % 256) :: s.cmd.nextSeq :: args) (hknown : opcKnown o = true)
    (hlevel : opcLevel o args ≤ pathLevel s p) (hdusk : s.pwr.st ≠ .dusk) (hroom : pendingCount s < 16) :
    submitCmd s p = evt (commandTaken s p o args) pgCMD 0 := by
  have hbyte : (word (o % 256)).toNat % 256 = o := word_byte_toNat (opcKnown_lt hknown)
  have hchecks : firstSome [rejIf (opcKnown o && decide (pathLevel s p < opcLevel o args)) Rsn.LEVEL,
      rejIf (decide (s.pwr.st = .dusk)) Rsn.BUSY, rejIf (decide (16 ≤ pendingCount s)) 0x43,
      rejIf (!opcKnown o) 0x42] = none := by
    simp [firstSome, rejIf, hknown, hdusk, Nat.not_lt.2 hlevel, Nat.not_le.2 hroom]
  simp only [submitCmd, hregs, List.getD_cons_zero, List.getD_cons_succ, List.drop_succ_cons, List.drop_zero, hbyte,
    if_true, hchecks, checked_none]
  rfl

theorem commandTaken_leaves (s : State) (p : Path) (o : Nat) (args : List Word) : SameBut [.cmd, .host] s (commandTaken s p o args) := by
  unfold commandTaken
  split
  · exact frame_onPath _ _ _ (by decide) (SameBut.set_cmd (by decide) (SameBut.refl _ _))
  · exact SameBut.set_cmd (by decide) (SameBut.refl _ _)

theorem submitAs_accepted_leaves {s : State} {p : Path} {o : Nat} {args : List Word} (hs : Shaped s)
    (hpass : passes s p CMD.SUBMIT) (hknown : opcKnown o = true) (hlevel : opcLevel o (argCopies args) ≤ pathLevel s p)
    (hdusk : s.pwr.st ≠ .dusk) (hroom : pendingCount s < 16) :
    SameBut [.cmd, .host, .regs] s (submitAs s p o s.cmd.nextSeq args) ∧
      RegsBut [hdr pgCMD Hdr.EVT] s (submitAs s p o s.cmd.nextSeq args) := by
  have hlevel' : opcLevel o (argCopies args) ≤ pathLevel (copiesWritten s p o s.cmd.nextSeq args) p := by
    rw [pathLevel_copiesWritten _ _ hs]
    exact hlevel
  have hcopies : SameBut [.host] s (copiesWritten s p o s.cmd.nextSeq args) :=
    frame_onPath _ _ _ (List.Subset.refl _) (SameBut.refl _ _)
  have htaken : SameBut [.cmd, .host] s (commandTaken (copiesWritten s p o s.cmd.nextSeq args) p o (argCopies args)) :=
    (hcopies.mono (by decide)).trans (commandTaken_leaves _ _ _ _)
  rw [submitAs_pass _ _ _ hpass, submitCmd_accepted (cmdRegs_copiesWritten _ _ hs) hknown hlevel' hdusk hroom]
  exact ⟨frame_evt _ _ _ (by decide) (htaken.mono (by decide)),
    (RegsBut.of_sameBut htaken (by decide)).trans (regsBut_evt _ _ _)⟩

theorem exec_unknownOpcode {s : State} {p : Path} {o : Nat} {q : Seq32} (h : opcKnown (o % 256) = false) :
    exec (.unknownOpcode p o q) s = .next (submitAs s p o q []) := by
  refine congrArg Host.Outcome.next ?_
  rw [h, if_neg Bool.false_ne_true]

/-- Settles O34: the copies of a path, then one case for each place of the sequence relative to the next. -/
theorem commandSubmission : Obligations.CommandSubmission := by
  unfold Obligations.CommandSubmission
  intro s p o seq args hshape _ hpass
  have hs := (shaped_iff s).1 hshape
  have hcopies := cmdRegs_copiesWritten (p := p) (o := o) seq args hs
  refine ⟨⟨rfl, rfl, rfl, rfl, rfl, rfl, rfl⟩, fun hunknown => exec_unknownOpcode hunknown,
    copiesWritten s p o seq args, rfl, fun hseq hknown hlevel hdusk hroom => ?_, fun hseq hunknown hdusk hroom => ?_,
    fun hne hback => ?_, fun hne hback hpast => ?_, fun hne hahead => ?_⟩
  · subst hseq
    rw [pathLevel_copiesWritten _ _ hs] at hlevel
    have hcmd := cmd_submitAs_accepted (o := o % 256) args hs hpass hknown hlevel hdusk hroom
    obtain ⟨hsame, hregs⟩ := submitAs_accepted_leaves (o := o % 256) (args := args) hs hpass hknown hlevel hdusk hroom
    refine ⟨_, acceptedEntry s p (o % 256) (argCopies args), submitAs_mod _ _ _ _ _, hsame, hregs,
      congrArg CmdState.nextSeq hcmd, rfl, rfl, rfl, rfl, ?_⟩
    rw [hcmd]
    dsimp only
    rw [withNewest]
  · rw [submitAs_pass _ _ _ hpass]
    subst hseq
    exact submitCmd_unknown hcopies hunknown hdusk hroom
  · rw [submitAs_pass _ _ _ hpass]
    exact submitCmd_repeated hcopies hne hback
  · rw [submitAs_pass _ _ _ hpass]
    exact submitCmd_old hcopies hne hback hpast
  · rw [submitAs_pass _ _ _ hpass]
    exact submitCmd_ahead hcopies hne hahead

-- bytes of the Vat

theorem vatPutBytes_cons (s : State) (a : Nat) (b : Byte) (l : List Byte) :
    vatPutBytes s a (b :: l) = vatPutBytes (vatPut s a b) (a + 1) l := rfl

theorem vatByte_putBytes_other {c : Nat} (l : List Byte) : ∀ (s : State) (a : Nat), c < a ∨ a + l.length ≤ c →
    vatByte (vatPutBytes s a l) c = vatByte s c := by
  induction l with
  | nil => exact fun s a _ => rfl
  | cons b l ih =>
    intro s a h
    rw [List.length_cons] at h
    rw [vatPutBytes_cons, ih _ _ (by omega), vatByte_put_other _ (by omega)]

/-- Bytes written behind the reams read back. -/
theorem vatByte_putBytes {j : Nat} (l : List Byte) : ∀ (s : State) (a : Nat), Memory.wf s.vat = true → reamEnd s ≤ a →
    (h : j < l.length) → vatByte (vatPutBytes s a l) (a + j) = l[j] := by
  induction l generalizing j with
  | nil => exact fun s a _ _ h => absurd h (Nat.not_lt_zero _)
  | cons b l ih =>
    intro s a hwf hend h
    rw [vatPutBytes_cons]
    cases j with
    | zero => exact (vatByte_putBytes_other l _ _ (by omega)).trans (vatByte_put_table b hwf hend)
    | succ j =>
      have hnext := ih (vatPut s a b) (a + 1) (vatPut_wf a b hwf) (Nat.le_succ_of_le hend) (Nat.lt_of_succ_lt_succ h)
      rw [show a + (j + 1) = a + 1 + j by omega]
      exact hnext

-- the end of a command (R496, Table 18.4)

theorem regsBut_endCmd (s : State) (e : JEntry) (st : JState) (status detail : Nat) :
    RegsBut [hdr pgCMD Hdr.EVT, hdr pgJRNL Hdr.EVT] s (endCmd s e st status detail) := by
  have hchange (t : State) : RegsBut [hdr pgJRNL Hdr.EVT] t (changeCmd t e st 0) := by
    unfold changeCmd
    split
    · exact regsBut_changeEntry _ _ _ _ _ _ _ _
    · exact regsBut_of_same _ rfl
  exact ((regsBut_of_same (t := onEntry s e.seq (JEntry.ended st status detail)) _ rfl).trans
    ((hchange _).mono (by simp))).trans ((regsBut_evt _ _ _).mono (by simp))

/-- The end of a command leaves what stands in the Vat. -/
theorem vatByte_endCmd (s : State) (e : JEntry) (st : JState) (status detail a : Nat) :
    vatByte (endCmd s e st status detail) a = vatByte s a := by
  have hsame : SameBut [.regs, .cmd, .changes] s (endCmd s e st status detail) :=
    frame_endCmd s e st status detail (List.Subset.refl _) (SameBut.refl _ _)
  refine vatByte_congr (hsame .vat (by decide)) (hsame .streams (by decide)) (hsame .reams (by decide)) (fun b hb => ?_) a
  refine regsBut_endCmd s e st status detail b fun hin => ?_
  simp only [List.mem_cons, List.not_mem_nil, or_false] at hin
  rcases hin with rfl | rfl
  · exact absurd hb (by decide)
  · exact absurd hb (by decide)

-- what a command does (R498, R596, R728)

theorem startCmd_nop {s : State} {e : JEntry} (ho : e.opcode = 0x01) :
    startCmd s e = endCmd (started s e.seq) { e with st := .started } .done Res.OK 0 := by
  rw [startCmd]
  exact if_pos ho

/-- The bytes of a TRANSFER moved, and the command done. -/
def transferred (s : State) (e : JEntry) : State :=
  endCmd (vatPutBytes s (trDst e) (vatBytes s (trSrc e) (trLen e))) e .done Res.OK 0

theorem exec_transferDone {s : State} {e : JEntry} (hrun : runningOp s 0x02 = some e) :
    exec .transferDone s = .next (transferred s e) := by
  refine congrArg Host.Outcome.next ?_
  rw [hrun]
  rfl

theorem transferred_leaves {s : State} {e : JEntry} (hwf : Memory.wf s.vat = true) (hin : inTable s (trDst e) (trLen e) = true) :
    SameBut [.vat, .cmd, .regs, .changes, .freeCtr] s (transferred s e) ∧
      (∀ j, j < trLen e → vatByte (transferred s e) (trDst e + j) = vatByte s (trSrc e + j)) ∧
      ∀ a, a < trDst e ∨ trDst e + trLen e ≤ a → vatByte (transferred s e) a = vatByte s a := by
  have hlen : (vatBytes s (trSrc e) (trLen e)).length = trLen e := by simp [vatBytes]
  have hend : reamEnd s ≤ trDst e := by
    simp only [inTable, decide_eq_true_eq] at hin
    exact hin.1
  refine ⟨frame_endCmd _ _ _ _ _ (by decide) (frame_vatPutBytes _ _ _ (by decide) (SameBut.refl _ _)),
    fun j hj => ?_, fun a ha => ?_⟩
  · rw [transferred, vatByte_endCmd, vatByte_putBytes _ s _ hwf hend (by rw [hlen]; exact hj)]
    simp [vatBytes]
  · rw [transferred, vatByte_endCmd]
    exact vatByte_putBytes_other _ s _ (by rw [hlen]; exact ha)

/-- The staged table, kept in the engine's list where the command says so. -/
def tableStaged (s : State) (e : JEntry) : State :=
  if tsKeep e then onEng (stageCopy s (tsEng e) (tsSrc e) (tsDst e) (tsLen e)) (tsEng e) (fun x => { x with
    staging := (x.staging ++ [(⟨tsSrc e, tsDst e, tsLen e⟩ : Staged)]).take 16 })
  else stageCopy s (tsEng e) (tsSrc e) (tsDst e) (tsLen e)

theorem exec_tableStageDone {s : State} {e : JEntry} (hrun : runningOp s 0x21 = some e) :
    exec .tableStageDone s = .next (endCmd (tableEvent (tableStaged s e) (tsEng e)) e .done 0 0) := by
  refine congrArg Host.Outcome.next ?_
  rw [hrun]
  rfl

theorem exec_zipJobDone {s : State} {e : JEntry} (lost : Option Nat) (hrun : runningOp s 0x20 = some e) :
    exec (.zipJobDone lost) s = .next (zipFinish s e lost) := by
  refine congrArg Host.Outcome.next ?_
  rw [hrun]

/-- What a job into the Vat leaves before its end: its output and the registers of the run. -/
def zipStored (s : State) (e : JEntry) : State :=
  wr (wr (wr (vatPutBytes s (zArg e 2) ((zipRun s e).out.map (fun b => BitVec.ofNat 8 b))) ZIP.IN_USED
    (word (zipRun s e).used)) ZIP.OUT_LEN (word (zipRun s e).out.length)) ZIP.CHECK (word (zipRun s e).check)

theorem zipFinish_stored {s : State} {e : JEntry} (hruns : zipStreamRuns s e = true) (hpaced : zipPaced s e = false)
    (hvat : zStream e = false) (hfull : (zipRun s e).code ≠ ZErr.OUTFULL) (hecc : (zipRun s e).code ≠ ZErr.ECC) :
    zipFinish s e none = zipEnd (zipStored s e) e (zipRun s e).code := by
  have hout (t : State) : zipOut t e (zipRun s e) = (t, (zipRun s e).out) := if_neg (fun h => hecc h.1)
  have hloose : zipLoose e (zipRun s e) = false := by simp [zipLoose, hfull, hecc]
  have hstore (t : State) (out : List Nat) :
      zipStore t e out = vatPutBytes t (zArg e 2) (out.map (fun b => BitVec.ofNat 8 b)) := by
    rw [zipStore, hvat, if_neg Bool.false_ne_true]
  simp only [zipFinish, zipRunWith, hpaced, hruns, hecc, hout, hloose, hstore, Bool.false_eq_true, Bool.not_true, if_false]
  rfl

theorem abortJob_running {s : State} {e : JEntry} (hrun : runningOp s 0x20 = some e) :
    abortJob s = zipEnd (zipCut s e) e ZErr.ABORT := by
  rw [abortJob, hrun]

theorem abortJob_idle {s : State} (hrun : runningOp s 0x20 = none) : abortJob s = s := by
  rw [abortJob, hrun]

/-- Settles O35: the start of a command, and the completion of each that runs over time. -/
theorem commandExecution : Obligations.CommandExecution := by
  unfold Obligations.CommandExecution
  intro s hmem
  have hwf : Memory.wf s.vat = true := by
    simp only [memoryWf, Bool.and_eq_true] at hmem
    exact hmem.1
  refine ⟨fun e hidle hnext hmay => ⟨exec_commandExecute_start hidle hnext hmay, fun ho => startCmd_nop ho⟩,
    fun e hrun hin => ⟨_, exec_transferDone hrun, transferred_leaves hwf hin⟩, fun e ok hrun hpersistent => ?_,
    fun e hrun => ⟨tableStaged s e, exec_tableStageDone hrun, fun hkeep => if_neg (by simp [hkeep]), fun hkeep => if_pos hkeep⟩,
    fun e lost hrun => exec_zipJobDone lost hrun, fun e hrun hruns hpaced hvat hfull hecc => ⟨zipStored s e, ?_, rfl⟩,
    fun p e hpass hrun => congrArg Host.Outcome.next ((gated_of_passes _ hpass).trans (abortJob_running hrun)),
    fun p hpass hrun => congrArg Host.Outcome.next ((gated_of_passes _ hpass).trans (abortJob_idle hrun))⟩
  · refine congrArg Host.Outcome.next ?_
    rw [hrun]
    exact if_pos hpersistent
  · rw [exec_zipJobDone none hrun, zipFinish_stored hruns hpaced hvat hfull hecc]

end Sys2Proof.Machine
end

section
/-!
PROOF. O36 and O37: a ream from its arming to its clearing, the triggers that reach it, and what it writes of a segment.
-/
namespace Sys2Proof.Machine

-- the state of a ream (R517, Table 12.7)

theorem setReam_leaves {s : State} {r : Nat} (st : ReamSt) (hs : Shaped s) (hr : r < 16) :
    SameBut [.reams, .regs] s (setReam s r st) ∧ reamOf (setReam s r st) r = { reamOf s r with st := st } ∧
      ∀ o, o ≠ r → reamOf (setReam s r st) o = reamOf s o := by
  refine ⟨frame_setReam s r st (by decide) (SameBut.refl _ _), ?_, fun o ho => ?_⟩
  · unfold setReam
    split
    next h => rw [← h]
    next => exact reamOf_same _ hs hr
  · unfold setReam
    split
    · rfl
    · exact reamOf_other _ ho

/-- A ream with new contents, and with them the state `st`. -/
theorem setReam_onReam_leaves {s : State} {r : Nat} (f : ReamState → ReamState) (st : ReamSt) (hs : Shaped s) (hr : r < 16) :
    SameBut [.reams, .regs] s (setReam (onReam s r f) r st) ∧
      reamOf (setReam (onReam s r f) r st) r = { f (reamOf s r) with st := st } ∧
      ∀ o, o ≠ r → reamOf (setReam (onReam s r f) r st) o = reamOf s o := by
  obtain ⟨hframe, hsame, hother⟩ := setReam_leaves st (shaped_onReam s r f hs) hr
  have hinner : SameBut [.reams, .regs] s (onReam s r f) := frame_onReam _ _ _ (by decide) (SameBut.refl _ _)
  refine ⟨hinner.trans hframe, ?_, fun o ho => (hother o ho).trans (reamOf_other _ ho)⟩
  rw [hsame, reamOf_same _ hs hr]

-- arming (R517, R518)

/-- A ream whose settings need none of the further checks: kind 0, local, without spill and without mask. -/
def PlainReam (s : State) (r : Nat) : Prop :=
  (reamOf s r).st = .idle ∧ s.pwr.st ≠ .dusk ∧ reamChans s r ≠ [] ∧
    (∀ ch ∈ reamChans s r, ∃ x, chanRate s ch = some x ∧ x.1 * (reamRate s r).2 = (reamRate s r).1 * x.2) ∧
    reamUnits s r ≤ reamFree s ∧ reamPlace s (reamUnits s r) ≠ none ∧ (rmPre s r ≠ 0 ∨ rmPost s r ≠ 0) ∧
    rmKind s r = 0 ∧ rmRing s r = false ∧ rmSpill s r = false ∧ rmMaskLen s r = 0

theorem armChk_plain {s : State} {r : Nat} {at' : Option Nat} (h : PlainReam s r)
    (hat : ∀ n, at' = some n → gridValid s = true ∧ now s + 1 < n) : armChk s r at' = none := by
  obtain ⟨hidle, hdusk, hchans, hrates, hfree, hplace, hpart, hkind, hring, hspill, hmask⟩ := h
  have hrated : ((reamChans s r).map (chanRate s)).any (·.isNone) = false := by
    rw [List.any_eq_false]
    intro x hx
    obtain ⟨ch, hch, rfl⟩ := List.mem_map.1 hx
    obtain ⟨y, hy, -⟩ := hrates ch hch
    simp [hy]
  have hequal : ((reamChans s r).map (chanRate s)).any
      (fun x => decide (x.any (fun y => decide (y.1 * (reamRate s r).2 ≠ (reamRate s r).1 * y.2)))) = false := by
    rw [List.any_eq_false]
    intro x hx
    obtain ⟨ch, hch, rfl⟩ := List.mem_map.1 hx
    obtain ⟨y, hy, heq⟩ := hrates ch hch
    simp [hy, heq]
  have hgrid : (at'.isSome && !gridValid s) = false := by
    cases at' with
    | none => rfl
    | some n => simp [(hat n rfl).1]
  have hahead : at'.any (fun n => decide (n ≤ now s + 1)) = false := by
    cases at' with
    | none => rfl
    | some n => simpa using (hat n rfl).2
  have hempty : (reamChans s r).isEmpty = false := by simpa using hchans
  have hsize : (decide (reamFree s < reamUnits s r) || (reamPlace s (reamUnits s r)).isNone) = false := by
    simpa using ⟨hfree, Option.isSome_iff_ne_none.2 hplace⟩
  have hnothing : ¬ (rmPre s r = 0 ∧ rmPost s r = 0) := by omega
  unfold armChk
  dsimp only
  rw [hgrid, hahead, hempty, hrated, hequal, hsize, hring, hspill]
  simp [firstSome, rejIf, hidle, hdusk, hnothing, hkind, hmask]

/-- A ream armed for index `n`, with its place in the ream area. -/
def reamPlaced (s : State) (r n : Nat) : State :=
  setReam (onReam s r (fun _ => {
    armIdx := n, base := (reamPlace s (reamUnits s r)).getD 0, size := reamUnits s r, ring := histBytes s r })) r .prefill

theorem armReam_accepted {s : State} {w : Who} {r : Nat} {at' : Option Nat} (hchk : armChk s r at' = none) :
    armReam s w r at' = if at'.isNone then reamStart (reamPlaced s r (at'.getD (now s + 1))) r
      else reamPlaced s r (at'.getD (now s + 1)) := by
  rw [armReam, hchk, checked_none]
  rfl

theorem reamPlaced_leaves {s : State} {r : Nat} (n : Nat) (hs : Shaped s) (hr : r < 16) :
    SameBut [.reams, .regs] s (reamPlaced s r n) ∧ (reamOf (reamPlaced s r n) r).st = .prefill ∧
      (reamOf (reamPlaced s r n) r).armIdx = n ∧ (reamOf (reamPlaced s r n) r).size = reamUnits s r ∧
      ∀ o, o ≠ r → reamOf (reamPlaced s r n) o = reamOf s o := by
  obtain ⟨hframe, hsame, hother⟩ := setReam_onReam_leaves (s := s) (r := r) (fun _ => {
    armIdx := n, base := (reamPlace s (reamUnits s r)).getD 0, size := reamUnits s r, ring := histBytes s r }) .prefill hs hr
  refine ⟨hframe, ?_, ?_, ?_, hother⟩ <;> rw [reamPlaced, hsame]

-- stopping and clearing (R519)

theorem stopReam_leaves {s : State} {r : Nat} (cause : Nat) (hs : Shaped s) (hr : r < 16) :
    (reamOf (stopReam s r cause) r).st = .stopped ∧ (reamOf (stopReam s r cause) r).cause = cause := by
  have hsame := (setReam_onReam_leaves (r := r) (fun x => { x with cause := cause, cand := none }) .stopped
    (shaped_closeSegment s r true hs) hr).2.1
  have hevt : reamOf (stopReam s r cause) r = reamOf (setReam (onReam (closeSegment s r true) r
    (fun x => { x with cause := cause, cand := none })) r .stopped) r := rfl
  rw [hevt, hsame]
  exact ⟨rfl, rfl⟩

theorem clearReam_ended {s : State} {w : Who} {r : Nat} (h : (reamOf s r).st = .done ∨ (reamOf s r).st = .stopped) :
    clearReam s w r = setReam (onReam s r (fun x => { st := x.st })) r .idle := by
  rw [clearReam, decide_eq_false (not_not.mpr h), rejIf_false, checked_none]

theorem clearReam_busy {s : State} {w : Who} {r : Nat} (hdone : (reamOf s r).st ≠ .done) (hstopped : (reamOf s r).st ≠ .stopped) :
    clearReam s w r = refuse s w CAPT.CTRL ⟨Rsn.BUSY, none⟩ := by
  have hnot : ¬ ((reamOf s r).st = .done ∨ (reamOf s r).st = .stopped) := fun h => h.elim hdone hstopped
  rw [clearReam, decide_eq_true hnot]
  rfl

-- triggers (R524, R529, R533)

theorem reamArmed_waiting {x : ReamState} (h : x.st = .waiting) : reamArmed x = true := by simp [reamArmed, h]

theorem reamArmed_post {x : ReamState} (h : x.st = .post) : reamArmed x = true := by simp [reamArmed, h]

theorem fire_of_waiting {s : State} {r : Nat} (c : Cand) (h : (reamOf s r).st = .waiting) :
    fire s r c = if tooEarly s r c.idx then ignoredTrigger s else candidate (sendTrigger s r c) r c := by
  have hno : ¬ ((reamOf s r).st = .holdoff ∧ (!rmHoldEvents s r) = true ∧ holdEnd s r ≤ c.idx) := by simp [h]
  rw [fire, if_neg hno, h]

theorem fire_of_post {s : State} {r : Nat} (c : Cand) (h : (reamOf s r).st = .post) : fire s r c = ignoredTrigger s := by
  have hno : ¬ ((reamOf s r).st = .holdoff ∧ (!rmHoldEvents s r) = true ∧ holdEnd s r ≤ c.idx) := by simp [h]
  rw [fire, if_neg hno, h]

/-- What the host names as its trigger. -/
def hostCand (s : State) (r : Nat) : Cand := { localCand s r (now s + 1) 10 0 with pref := 2 }

theorem hostTrigger_armed {s : State} {r : Nat} (h : reamArmed (reamOf s r) = true) :
    hostTrigger s r = fire s r (hostCand s r) := if_pos h

theorem exec_triggerDecision {s : State} {r : Fin 16} {c : Cand} (hwait : (reamOf s r).st = .waiting)
    (hcand : (reamOf s r).cand = some c) (hdue : c.idx + ringWindow s ≤ now s) :
    exec (.triggerDecision r) s = .next (takeTrigger s r c) := by
  refine congrArg Host.Outcome.next ?_
  rw [hcand]
  exact when_of (by simp [hwait, hdue])

/-- Settles O36: arming, the start of the history, disarm, clear, the triggers and the hold-off. -/
theorem reamCommands : Obligations.ReamCommands := by
  unfold Obligations.ReamCommands
  intro s p r hshape _
  have hs := (shaped_iff s).1 hshape
  refine ⟨fun hpass h => ?_, fun hpass h => ?_, fun hst hidx hnot => congrArg Host.Outcome.next (when_of (by simp [hst, hidx, hnot])),
    fun hpass harmed => ⟨congrArg Host.Outcome.next ((gated_of_passes _ hpass).trans (if_pos harmed)), stopReam_leaves 1 hs r.isLt⟩,
    fun hpass hended => ⟨_, congrArg Host.Outcome.next ((gated_of_passes _ hpass).trans (clearReam_ended hended)),
      setReam_onReam_leaves _ .idle hs r.isLt⟩,
    fun hpass hdone hstopped => congrArg Host.Outcome.next ((gated_of_passes _ hpass).trans (clearReam_busy hdone hstopped)),
    fun hpass => ?_, fun c hlocal => ?_, fun c hwait hcand hdue => exec_triggerDecision hwait hcand hdue,
    fun hwait hms hdue => congrArg Host.Outcome.next (when_of (by simp [hwait, hms, hdue])), fun hst hend hevents => ?_⟩
  · have hchk : armChk s r none = none := h.elim id (fun hplain => armChk_plain hplain (by simp))
    exact ⟨reamPlaced s r (now s + 1), congrArg Host.Outcome.next ((gated_of_passes _ hpass).trans (armReam_accepted hchk)),
      reamPlaced_leaves _ hs r.isLt⟩
  · have hchk : armChk s r (some (rd64 s CAPT.ARM_AT_LO)) = none := by
      rcases h with h | ⟨hgrid, hahead, hplain⟩
      · exact h
      · exact armChk_plain hplain (fun n hn => by cases hn; exact ⟨hgrid, hahead⟩)
    obtain ⟨hframe, hst, hidx, -, hother⟩ := reamPlaced_leaves (rd64 s CAPT.ARM_AT_LO) hs r.isLt
    exact ⟨reamPlaced s r (rd64 s CAPT.ARM_AT_LO),
      congrArg Host.Outcome.next ((gated_of_passes _ hpass).trans (armReam_accepted hchk)), hframe, hst, hidx, hother⟩
  · have htrig : exec (.hostTrigger p r) s = .next (hostTrigger s r) := congrArg Host.Outcome.next (gated_of_passes _ hpass)
    rw [htrig]
    refine ⟨fun hwait hearly => ?_, fun hwait hlate => ?_, fun hpost => ?_,
      fun hnot => congrArg Host.Outcome.next (if_neg (by simp [hnot]))⟩
    · rw [hostTrigger_armed (reamArmed_waiting hwait), fire_of_waiting _ hwait]
      exact congrArg Host.Outcome.next (if_pos hearly)
    · rw [hostTrigger_armed (reamArmed_waiting hwait), fire_of_waiting _ hwait]
      exact congrArg Host.Outcome.next (if_neg (by simp [hostCand, localCand, hlate]))
    · rw [hostTrigger_armed (reamArmed_post hpost), fire_of_post _ hpost]
      rfl
  · rw [candidate, hlocal]
    rfl
  · obtain ⟨hframe, hsame, hother⟩ := setReam_onReam_leaves (s := s) (r := r)
      (fun x => { x with waitIdx := holdEnd s r, cand := none }) .waiting hs r.isLt
    refine ⟨_, congrArg Host.Outcome.next (when_of (by simp [hst, hend, hevents])), hframe, ?_, ?_, hother⟩
    · rw [reamWait, hsame]
    · rw [reamWait, hsame]

-- segments (R516)

/-- The oldest segment whose header was still to be written leaves that list. -/
def headerTaken (s : State) (r : Nat) (t : List Segment) : State := onReam s r (fun y => { y with headers := t })

theorem exec_segmentDone {s : State} {r : Fin 16} {g : Segment} {t : List Segment} (h : (reamOf s r).headers = g :: t) :
    exec (.segmentDone r []) s = .next (writeHeader (headerTaken s r t) r g) := by
  refine congrArg Host.Outcome.next ?_
  rw [h]
  rfl

/-- The words of a segment's header stand in the Vat, and the ream shows its number. -/
def headerStored (s : State) (r : Nat) (g : Segment) : State :=
  onReam (vatPutWords s (segAddr s r g.number) (segHeader s r g)) r
    (fun x => { x with segLast := g.number, segDone := min 65535 (x.segDone + 1) })

theorem writeHeader_eq (s : State) (r : Nat) (g : Segment) : writeHeader s r g = evt (headerStored s r g) pgCAPT 1 := rfl

theorem reamOf_evt (s : State) (p i r : Nat) : reamOf (evt s p i) r = reamOf s r := rfl

theorem headerStored_leaves {s : State} {r : Nat} (g : Segment) (hs : Shaped s) (hr : r < 16) :
    SameBut [.reams, .vat] s (headerStored s r g) ∧
      reamOf (headerStored s r g) r = { reamOf s r with segLast := g.number, segDone := min 65535 ((reamOf s r).segDone + 1) } := by
  have hput : SameBut [.vat] s (vatPutWords s (segAddr s r g.number) (segHeader s r g)) :=
    frame_vatPutWords _ _ _ (List.Subset.refl _) (SameBut.refl _ _)
  have hreams : reamOf (vatPutWords s (segAddr s r g.number) (segHeader s r g)) r = reamOf s r := by
    rw [reamOf, hput .reams (by decide), reamOf]
  refine ⟨frame_onReam _ _ _ (by decide) (hput.mono (by decide)), ?_⟩
  rw [headerStored, reamOf_same _ (shaped_vatPutWords _ _ _ hs) hr, hreams]

theorem writeHeader_leaves {s : State} {r : Nat} (g : Segment) (hs : Shaped s) (hr : r < 16) :
    SameBut [.reams, .regs, .vat] s (writeHeader s r g) ∧ (reamOf (writeHeader s r g) r).segLast = g.number ∧
      (reamOf (writeHeader s r g) r).segDone = min 65535 ((reamOf s r).segDone + 1) ∧
      RegsBut [hdr pgCAPT Hdr.EVT] s (writeHeader s r g) := by
  obtain ⟨hframe, hsame⟩ := headerStored_leaves g hs hr
  rw [writeHeader_eq, reamOf_evt, hsame]
  exact ⟨frame_evt _ _ _ (by decide) (hframe.mono (by decide)), rfl, rfl,
    (RegsBut.of_sameBut hframe (by decide)).trans (regsBut_evt _ _ _)⟩

-- ring triggers (R528 to R530)

theorem foldl_same {α β : Type} (f : β → α → β) (b : β) : ∀ l : List α, (∀ a ∈ l, f b a = b) → l.foldl f b = b
  | [], _ => rfl
  | a :: l, h => by
    rw [List.foldl_cons, h a List.mem_cons_self]
    exact foldl_same f b l fun x hx => h x (List.mem_cons_of_mem _ hx)

theorem ringTriggered_none {s : State} {t : RingTrigger}
    (h : ∀ r, r < 16 → rmRing s r = false ∨ (reamOf s r).st = .idle ∨ fld (rmCfg s r) 8 8 ≠ t.group) : ringTriggered s t = s := by
  refine foldl_same _ s _ fun r hr => if_neg ?_
  rintro ⟨hring, hst, hgroup⟩
  rcases h r (List.mem_range.1 hr) with hno | hidle | hother
  · exact absurd hring (by simp [hno])
  · exact hst hidle
  · exact hother hgroup

theorem ringTriggerFor_same {s : State} {r : Nat} {t : RingTrigger} (hwait : (reamOf s r).st = .waiting)
    (hseg : t.segment = (reamOf s r).decided) : ringTriggerFor s r t = candidate s r ⟨t.index, 8, t.hub, t.ream, 1, 0⟩ := by
  rw [ringTriggerFor]
  rw [if_pos ⟨hwait, Nat.le_of_eq hseg.symm⟩, if_neg (not_not.mpr hseg)]

theorem ringTriggerFor_later {s : State} {r : Nat} {t : RingTrigger} (hwait : (reamOf s r).st = .waiting)
    (hseg : (reamOf s r).decided < t.segment) : ringTriggerFor s r t = s := by
  rw [ringTriggerFor]
  rw [if_pos ⟨hwait, Nat.le_of_lt hseg⟩, if_pos (Nat.ne_of_gt hseg)]

theorem ringTriggerFor_stale {s : State} {r : Nat} {t : RingTrigger}
    (hpast : (reamOf s r).st ≠ .waiting ∨ t.segment < (reamOf s r).decided)
    (hstale : t.segment + 1 ≠ (reamOf s r).decided ∨ (reamOf s r).trigIdx ≤ t.index) :
    ringTriggerFor s r t = bumpSat s CAPT.RING_STAT 0 16 1 := by
  have hdecided : ¬ ((reamOf s r).st = .waiting ∧ (reamOf s r).decided ≤ t.segment) := fun h =>
    hpast.elim (fun hne => hne h.1) (fun hlt => Nat.not_lt.mpr h.2 hlt)
  have hlate : ¬ (t.segment + 1 = (reamOf s r).decided ∧ t.index < (reamOf s r).trigIdx) := fun h =>
    hstale.elim (fun hne => hne h.1) (fun hle => Nat.not_lt.mpr hle h.2)
  rw [ringTriggerFor]
  rw [if_neg hdecided, ringDecided]
  exact if_neg hlate

/-- Settles O37: the header written, and a ring trigger by the segment that it names. -/
theorem segmentsAndRingTriggers : Obligations.SegmentsAndRingTriggers := by
  unfold Obligations.SegmentsAndRingTriggers
  intro s hshape _
  have hs := (shaped_iff s).1 hshape
  refine ⟨fun r g t h => ⟨_, headerTaken s r t, exec_segmentDone h, rfl, rfl, ?_⟩, fun t => rfl,
    fun t h => congrArg Host.Outcome.next (ringTriggered_none h), fun r t => ringTriggerFor_same,
    fun r t => ringTriggerFor_later, fun r t => ringTriggerFor_stale⟩
  have hout : SameBut [.reams] s (headerTaken s r t) := frame_onReam _ _ _ (List.Subset.refl _) (SameBut.refl _ _)
  have hsame : reamOf (headerTaken s r t) r = { reamOf s r with headers := t } := reamOf_same _ hs r.isLt
  have htaken : Shaped (headerTaken s r t) := shaped_onReam s r _ hs
  obtain ⟨hframe, hlast, hdone, hregs⟩ := writeHeader_leaves g htaken r.isLt
  rw [hsame] at hdone
  exact ⟨(hout.mono (by decide)).trans hframe, hlast, hdone, (RegsBut.of_sameBut hout (by decide)).trans hregs⟩

end Sys2Proof.Machine
end

section
/-!
PROOF. O38 and O39: the issue of an instruction, then the scalar and the vector instructions on registers.
-/
namespace Sys2Proof.Machine

-- the issue of an instruction (R582)

/-- The context that an instruction which occupies `busy` cycles finds at its issue. -/
def issued (c : EngCtx) (reads : List Res) (busy : Nat) : EngCtx :=
  { c with pc := (c.pc + 1) % 2 ^ 15, free := issueCycle c reads + busy }

/-- An instruction that issues without a fault and writes no port. -/
theorem issue_done {s : State} {k : Nat} {c c' : EngCtx} {legal : Bool} {reads : List Res} {writes : List (Res × Nat)} {busy : Nat}
    {f : EngCtx → Nat → Issue} {stores : List (Nat × Word)} {user : Bool} (hcan : canIssue s k reads c) (hlegal : legal = true)
    (hf : f (issued c reads busy) (issueCycle c reads) = .done c' stores [] user)
    (hovf : c'.ovf = c.ovf ∨ rdb s (AE.CFG k) 0 = false) :
    issue s k legal reads writes busy f = evtIf user (onEng s k (fun e => stores.foldl (fun e w => sramWrite e w.1 w.2)
      { e with stage := some { c' with ready := markReady c'.ready writes (issueCycle c reads) } })) (pgAE k) 7 := by
  obtain ⟨hstage, hfree, hcyc, hbad⟩ := hcan
  have hgood : ¬ (c.pc < 0x4000 ∧ 4 * c.pc ∈ (engOf s k).bad) := fun h => hbad h.1 h.2
  have hover : ¬ (c'.ovf ≠ c.ovf ∧ rdb s (AE.CFG k) 0 = true) := by
    rintro ⟨hne, hcfg⟩
    rcases hovf with h | h
    · exact hne h
    · exact absurd hcfg (by simp [h])
  have hf' : f { c with pc := (c.pc + 1) % 2 ^ 15, free := issueCycle c reads + busy } (issueCycle c reads) =
      .done c' stores [] user := hf
  rw [issue, hstage]
  dsimp only
  rw [if_neg (Nat.not_le.mpr hfree), if_neg hgood, hlegal, Bool.not_true, if_neg Bool.false_ne_true,
    if_neg (Nat.not_le.mpr hcyc), hf']
  dsimp only
  rw [if_neg hover]
  rfl

/-- An instruction that changes its context alone goes on with it. -/
theorem goesOn_of_ctx {s : State} {k : Nat} {c c' : EngCtx} {i : Instr} {legal : Bool} {reads : List Res}
    {writes : List (Res × Nat)} {busy : Nat} {f : EngCtx → Nat → Issue} (hs : Shaped s) (hk : k < 12) (hcan : canIssue s k reads c)
    (hlegal : legal = true) (hovf : c'.ovf = c.ovf ∨ rdb s (AE.CFG k) 0 = false)
    (hexec : exec i s = .next (issue s k legal reads writes busy f))
    (hf : f (issued c reads busy) (issueCycle c reads) =
      .ctx { c' with pc := (c.pc + 1) % 2 ^ 15, free := issueCycle c reads + busy }) : GoesOnWith s k i reads busy c c' := by
  refine ⟨_, _, hexec.trans (congrArg Host.Outcome.next (issue_done hcan hlegal hf hovf)),
    frame_onEng _ _ _ (List.Subset.refl _) (SameBut.refl _ _), fun o ho => engOf_other _ ho, engOf_same _ hs hk⟩

-- scalar results (R545)

theorem setS_ovf (c : EngCtx) (d : Nat) (w : Word) : (setS c d w).ovf = c.ovf := by
  unfold setS
  split <;> rfl

theorem setS_issued (c : EngCtx) (reads : List Res) (busy d : Nat) (w : Word) : setS (issued c reads busy) d w =
    { setS c d w with pc := (c.pc + 1) % 2 ^ 15, free := issueCycle c reads + busy } := by
  unfold setS
  split <;> rfl

theorem goesOn_setS {s : State} {k : Nat} {c : EngCtx} {i : Instr} {reads : List Res} {writes : List (Res × Nat)} {d : Nat}
    (w : EngCtx → Nat → Word) (hs : Shaped s) (hk : k < 12) (hcan : canIssue s k reads c)
    (hexec : exec i s = .next (issue s k true reads writes 1 (fun c cyc => .ctx (setS c d (w c cyc))))) :
    GoesOnWith s k i reads 1 c (setS c d (w (issued c reads 1) (issueCycle c reads))) :=
  goesOn_of_ctx hs hk hcan rfl (Or.inl (setS_ovf _ _ _)) hexec (congrArg Issue.ctx (setS_issued c reads 1 d _))

/-- What LMASK reads and takes, by its source. -/
def lmaskReads (src : Nat) : List Res := if src = 0 then [] else if src = 3 then [.p, .m] else [.p]
def lmaskTakes (imm : BitVec 10) (src : Nat) (c : EngCtx) : BitVec 4 :=
  if src = 0 then imm.truncate 4 else if src = 1 then c.p else if src = 2 then ~~~c.p else c.m &&& c.p

theorem goesOn_lmask {s : State} {k : Fin 12} {c : EngCtx} {imm : BitVec 10} {reads : List Res} {src : Nat} {m : BitVec 4}
    (hs : Shaped s) (hcan : canIssue s k reads c) (hsrc : imm.toNat / 16 % 4 = src) (hreads : lmaskReads src = reads)
    (htakes : lmaskTakes imm src c = m) : GoesOnWith s k (.lmask k imm) reads 1 c { c with m := m } := by
  subst hsrc hreads htakes
  exact goesOn_of_ctx (f := fun c _ => .ctx { c with m := lmaskTakes imm (imm.toNat / 16 % 4) c }) hs k.isLt hcan rfl (Or.inl rfl)
    rfl rfl

/-- Settles O38: each scalar instruction through the result that it writes. -/
theorem engineScalar : Obligations.EngineScalar := by
  unfold Obligations.EngineScalar
  intro s k d a b hshape
  have hs := (shaped_iff s).1 hshape
  refine ⟨fun c hcan => goesOn_of_ctx (f := fun c _ => .ctx c) hs k.isLt hcan rfl (Or.inl rfl) rfl rfl,
    fun imm c hcan => goesOn_setS (fun _ _ => imm.signExtend 32) hs k.isLt hcan rfl,
    fun imm c hcan => goesOn_setS (fun _ _ => imm.zeroExtend 32 <<< 16) hs k.isLt hcan rfl,
    fun c hcan => goesOn_setS (fun c _ => sOf c a + sOf c b) hs k.isLt hcan rfl,
    fun c hcan => goesOn_setS (fun c _ => sOf c a - sOf c b) hs k.isLt hcan rfl,
    fun c hcan => goesOn_setS (fun c _ => sOf c a &&& sOf c b) hs k.isLt hcan rfl,
    fun c hcan => goesOn_setS (fun c _ => sOf c a ||| sOf c b) hs k.isLt hcan rfl,
    fun c hcan => goesOn_setS (fun c _ => sOf c a * sOf c b) hs k.isLt hcan rfl,
    fun imm c hcan => goesOn_setS (fun c _ => sOf c a + imm.signExtend 32) hs k.isLt hcan rfl,
    fun imm c hcan => goesOn_setS (fun c _ => sOf c a <<< (imm.toNat % 32)) hs k.isLt hcan rfl,
    fun imm c hcan => goesOn_setS (fun c _ => (sOf c a).sshiftRight (imm.toNat % 32)) hs k.isLt hcan rfl,
    fun sel c hcan => goesOn_setS (fun c cyc => sgetValue s k c cyc sel.toNat) hs k.isLt hcan rfl,
    fun imm hsrc c hcan => goesOn_lmask hs hcan hsrc rfl rfl, fun imm hsrc c hcan => goesOn_lmask hs hcan hsrc rfl rfl,
    fun imm hsrc c hcan => goesOn_lmask hs hcan hsrc rfl rfl, fun imm hsrc c hcan => goesOn_lmask hs hcan hsrc rfl rfl,
    fun c w => rfl⟩

-- vector results (R550 to R555)

section
variable {s : State} {k : Fin 12} {c : EngCtx} {i : Instr} {reads : List Res} (hs : Shaped s)
  (hcfg : rdb s (AE.CFG k) 0 = false) (hcan : canIssue s k reads c)
include hs hcfg hcan

/-- An instruction whose result is packed into register `d` under the mask. -/
theorem goesOn_setV {d busy : Nat} {writes : List (Res × Nat)} (xs : EngCtx → List Frac)
    (hexec : exec i s = .next (issue s k true reads writes busy (fun c _ => .ctx (setV c d c.m (xs c)))))
    (hxs : xs (issued c reads busy) = xs c) : GoesOnWith s k i reads busy c (setV c d c.m (xs c)) :=
  goesOn_of_ctx hs k.isLt hcan rfl (Or.inr hcfg) hexec (congrArg (fun x => Issue.ctx (setV (issued c reads busy) d c.m x)) hxs)

/-- A masked instruction on one register, and one on two. -/
theorem goesOn_vec1 {d a lat : Nat} (f : Frac → Frac) (hexec : exec i s = .next (vec1 s k d a lat f)) (hreads : reads = [.m, .v a]) :
    GoesOnWith s k i reads 1 c (setV c d c.m ((laneVals (vOf c a)).map f)) := by
  subst hreads
  exact goesOn_setV hs hcfg hcan (fun c => (laneVals (vOf c a)).map f) hexec rfl

theorem goesOn_vec2 {d a b lat : Nat} (f : Frac → Frac → Frac) (hexec : exec i s = .next (vec2 s k d a b lat f))
    (hreads : reads = [.m, .v a, .v b]) :
    GoesOnWith s k i reads 1 c (setV c d c.m (List.zipWith f (laneVals (vOf c a)) (laneVals (vOf c b)))) := by
  subst hreads
  exact goesOn_setV hs hcfg hcan (fun c => List.zipWith f (laneVals (vOf c a)) (laneVals (vOf c b))) hexec rfl

/-- An instruction that leaves the context `g c`, whatever the cycle. -/
theorem goesOn_ctx {legal : Bool} {writes : List (Res × Nat)} (g : EngCtx → EngCtx) (hlegal : legal = true)
    (hexec : exec i s = .next (issue s k legal reads writes 1 (fun c _ => .ctx (g c))))
    (hg : g (issued c reads 1) = { g c with pc := (c.pc + 1) % 2 ^ 15, free := issueCycle c reads + 1 }) :
    GoesOnWith s k i reads 1 c (g c) :=
  goesOn_of_ctx hs k.isLt hcan hlegal (Or.inr hcfg) hexec (congrArg Issue.ctx hg)

end

/-- Settles O39: each vector instruction through the lane values that it packs, or through the context that it leaves. -/
theorem engineVector : Obligations.EngineVector := by
  unfold Obligations.EngineVector
  intro s k d a b x hshape hcfg
  have hs := (shaped_iff s).1 hshape
  refine ⟨fun c hcan => goesOn_setV hs hcfg hcan (fun c => List.replicate 4 (Frac.ofInt (sOf c a).toInt)) rfl rfl,
    fun c hcan => goesOn_vec2 hs hcfg hcan Frac.add rfl rfl,
    fun c hcan => goesOn_vec2 hs hcfg hcan Frac.sub rfl rfl,
    fun c hcan => goesOn_vec2 hs hcfg hcan Frac.mul rfl rfl,
    fun neg hd c hcan => goesOn_ctx hs hcfg hcan (fun c => { c with
      acc := c.acc.set d (macLanes c d a b neg).1, ovf := c.ovf ||| laneBits (macLanes c d a b neg).2 }) (decide_eq_true hd) rfl rfl,
    fun e hd c hcan => goesOn_ctx hs hcfg hcan (fun c => { c with acc := c.acc.set d ⟨[0, 0, 0, 0], e.toInt⟩ })
      (decide_eq_true hd) rfl rfl,
    fun ha c hcan => goesOn_ctx hs hcfg hcan (fun c => setV c d c.m (accVals (aOf c a))) (decide_eq_true ha) rfl rfl,
    fun c hcan => goesOn_setV hs hcfg hcan (fun c => List.zipWith Frac.min
      (List.zipWith Frac.max (laneVals (vOf c a)) (laneVals (vOf c b))) (laneVals (vOf c x))) rfl rfl,
    fun c hcan => goesOn_vec1 hs hcfg hcan Frac.neg rfl rfl,
    fun c hcan => goesOn_vec1 hs hcfg hcan Frac.abs rfl rfl,
    fun e c hcan => goesOn_vec1 hs hcfg hcan (fun y => y.scale e.toInt) rfl rfl,
    fun c hcan => goesOn_vec1 hs hcfg hcan id rfl rfl,
    fun j c hcan => goesOn_setV hs hcfg hcan (fun c => List.replicate 4 ((laneVals (vOf c a)).getD j Frac.zero)) rfl rfl,
    fun cond hcond c hcan => goesOn_ctx hs hcfg hcan (fun c => { c with
      p := laneBits (List.zipWith (vcmpHolds cond) (laneVals (vOf c a)) (laneVals (vOf c b))) }) (decide_eq_true hcond) rfl rfl,
    fun c hcan => goesOn_setV hs hcfg hcan (fun c => (List.range 4).map (fun i =>
      (laneVals (vOf c (if c.p.getLsbD i then a else b))).getD i Frac.zero)) rfl rfl,
    fun imm c hcan => goesOn_ctx hs hcfg hcan (fun c => { c with p := laneBits ((List.range 4).map (fun i =>
      decide (c.tag.getD i 0 &&& imm.truncate 8 ≠ 0) || (imm.getLsbD 8 && c.nd.getLsbD i))) }) rfl rfl rfl,
    fun c hcan => goesOn_ctx hs hcfg hcan (fun c => setV c d 15 (laneVals (vOf c d))) rfl rfl rfl⟩

end Sys2Proof.Machine
end

section
/-!
PROOF. O40 to O42: loads and stores, the flow and the stages of an engine, and its control by the host.
-/
namespace Sys2Proof.Machine

-- a fault at the issue, and stores (R579, R585)

theorem issue_fault {s : State} {k : Nat} {c : EngCtx} {reads : List Res} {writes : List (Res × Nat)} {busy cause addr : Nat}
    {f : EngCtx → Nat → Issue} (hcan : canIssue s k reads c)
    (hf : f (issued c reads busy) (issueCycle c reads) = .fault cause addr) :
    issue s k true reads writes busy f = engFault s k cause c.pc addr := by
  obtain ⟨hstage, hfree, hcyc, hbad⟩ := hcan
  have hgood : ¬ (c.pc < 0x4000 ∧ 4 * c.pc ∈ (engOf s k).bad) := fun h => hbad h.1 h.2
  have hf' : f { c with pc := (c.pc + 1) % 2 ^ 15, free := issueCycle c reads + busy } (issueCycle c reads) =
      .fault cause addr := hf
  rw [issue, hstage]
  dsimp only
  rw [if_neg (Nat.not_le.mpr hfree), if_neg hgood, Bool.not_true, if_neg Bool.false_ne_true, if_neg (Nat.not_le.mpr hcyc), hf']

theorem issue_illegal {s : State} {k : Nat} {c : EngCtx} {reads : List Res} {writes : List (Res × Nat)} {busy : Nat}
    {f : EngCtx → Nat → Issue} (hcan : canIssue s k reads c) :
    issue s k false reads writes busy f = engFault s k EngCause.ILLEGAL c.pc 0 := by
  obtain ⟨hstage, hfree, hcyc, hbad⟩ := hcan
  have hgood : ¬ (c.pc < 0x4000 ∧ 4 * c.pc ∈ (engOf s k).bad) := fun h => hbad h.1 h.2
  rw [issue, hstage]
  dsimp only
  rw [if_neg (Nat.not_le.mpr hfree), if_neg hgood, Bool.not_false, if_pos rfl]

theorem sramWrite_sram (e : EngineState) (a : Nat) (w : Word) : (sramWrite e a w).sram = sparsePut e.sram (sramDefault a) a w := rfl

/-- What stands in local memory after words written to it depends on what stood there. -/
theorem sram_foldl_sramWrite {e e' : EngineState} (h : e.sram = e'.sram) (l : List (Nat × Word)) :
    (l.foldl (fun e w => sramWrite e w.1 w.2) e).sram = (l.foldl (fun e w => sramWrite e w.1 w.2) e').sram := by
  induction l generalizing e e' with
  | nil => exact h
  | cons w l ih =>
    refine ih ?_
    rw [sramWrite_sram, sramWrite_sram, h]

/-- An instruction without port words changes its engine only; a store writes its words to local memory. -/
theorem issue_done_leaves {s : State} {k : Nat} {c : EngCtx} {reads : List Res} {writes : List (Res × Nat)} {busy : Nat}
    {f : EngCtx → Nat → Issue} {stores : List (Nat × Word)} (hs : Shaped s) (hk : k < 12) (hcan : canIssue s k reads c)
    (hf : ∃ c', f (issued c reads busy) (issueCycle c reads) = .done c' stores [] false) (hcfg : rdb s (AE.CFG k) 0 = false) :
    let u := issue s k true reads writes busy f
    SameBut [.engines] s u ∧ (∀ o, o ≠ k → engOf u o = engOf s o) ∧
      (engOf u k).sram = (stores.foldl (fun e w => sramWrite e w.1 w.2) (engOf s k)).sram := by
  intro u
  obtain ⟨c', hf⟩ := hf
  have hu : u = onEng s k (fun e => stores.foldl (fun e w => sramWrite e w.1 w.2)
      { e with stage := some { c' with ready := markReady c'.ready writes (issueCycle c reads) } }) :=
    issue_done hcan rfl hf (Or.inr hcfg)
  clear_value u
  subst hu
  refine ⟨frame_onEng _ _ _ (List.Subset.refl _) (SameBut.refl _ _), fun o ho => engOf_other _ ho, ?_⟩
  rw [engOf_same _ hs hk]
  refine sram_foldl_sramWrite ?_ stores
  rfl

-- loads and stores (R555, R556, R566, R578, R579)

section
variable {s : State} {k : Fin 12} {m : MemOp} {c : EngCtx} (hs : Shaped s)

/-- The address of lane 0, and those of the active lanes. -/
def laneZero (c : EngCtx) (m : MemOp) : Nat := (sOf c m.a).toNat + 4 * m.off.toNat
def lanesOf (c : EngCtx) (m : MemOp) : List (Nat × Nat) := laneAddrs c (sOf c m.a).toNat m.off.toNat m.st

include hs

theorem sld_goesOn (hcan : canIssue s k [.s m.a] c)
    (hfault : accessFault (engOf s k) engReads true (sOf c m.a).toNat [laneZero c m] = none) :
    GoesOnWith s k (.sld k m) [.s m.a] 1 c (setS c m.d (engWord (engOf s k) c.block (laneZero c m))) := by
  refine goesOn_of_ctx hs k.isLt hcan rfl (Or.inl (setS_ovf _ _ _)) rfl ?_
  show orFault (accessFault (engOf s k) engReads true (sOf c m.a).toNat [laneZero c m]) _ = _
  rw [hfault]
  exact congrArg Issue.ctx (setS_issued c _ 1 _ _)

omit hs in
theorem sld_faults {f : Nat × Nat} (hcan : canIssue s k [.s m.a] c)
    (hfault : accessFault (engOf s k) engReads true (sOf c m.a).toNat [laneZero c m] = some f) :
    exec (.sld k m) s = .next (engFault s k f.1 c.pc f.2) := by
  refine congrArg Host.Outcome.next (issue_fault hcan ?_)
  show orFault (accessFault (engOf s k) engReads true (sOf c m.a).toNat [laneZero c m]) _ = _
  rw [hfault]
  rfl

variable (hcfg : rdb s (AE.CFG k) 0 = false)
include hcfg

theorem sst_stores (hcan : canIssue s k [.s m.a, .s m.d] c)
    (hfault : accessFault (engOf s k) engWrites false (sOf c m.a).toNat [laneZero c m] = none) :
    ∃ u, exec (.sst k m) s = .next u ∧ SameBut [.engines] s u ∧ (∀ o, o ≠ k.val → engOf u o = engOf s o) ∧
      (engOf u k).sram = (sramWrite (engOf s k) (laneZero c m) (sOf c m.d)).sram := by
  refine ⟨_, rfl, issue_done_leaves (stores := [(laneZero c m, sOf c m.d)]) hs k.isLt hcan ⟨issued c [.s m.a, .s m.d] 1, ?_⟩ hcfg⟩
  show orFault (accessFault (engOf s k) engWrites false (sOf c m.a).toNat [laneZero c m]) _ = _
  rw [hfault]
  rfl

/-- A vector load that notes nothing beside the lanes. -/
theorem vload_goesOn {i : Instr} {lane : Word → Frac} (hcan : canIssue s k [.s m.a, .m] c)
    (hexec : exec i s = .next (vload s k m lane (fun c _ _ => c) []))
    (hfault : accessFault (engOf s k) engReads true (sOf c m.a).toNat ((lanesOf c m).map (·.2)) = none) :
    GoesOnWith s k i [.s m.a, .m] 1 c
      (setV c m.d c.m (gather (lanesOf c m) (fun q => lane (engWord (engOf s k) c.block q)))) := by
  rw [vload] at hexec
  refine goesOn_of_ctx hs k.isLt hcan rfl (Or.inr hcfg) hexec ?_
  show orFault (accessFault (engOf s k) engReads true (sOf c m.a).toNat ((lanesOf c m).map (·.2))) _ = _
  rw [hfault]
  exact congrArg Issue.ctx (foldl_same _ _ _ (fun _ _ => rfl))

theorem vload_leaves {lane : Word → Frac} {after : EngCtx → Nat → Word → EngCtx} {ws : List (Res × Nat)}
    (hcan : canIssue s k [.s m.a, .m] c)
    (hfault : accessFault (engOf s k) engReads true (sOf c m.a).toNat ((lanesOf c m).map (·.2)) = none) :
    SameBut [.engines] s (vload s k m lane after ws) ∧ (∀ o, o ≠ k.val → engOf (vload s k m lane after ws) o = engOf s o) := by
  rw [vload]
  refine (issue_done_leaves (stores := []) hs k.isLt hcan ?_ hcfg).imp_right And.left
  show ∃ c', orFault (accessFault (engOf s k) engReads true (sOf c m.a).toNat ((lanesOf c m).map (·.2))) _ = _
  rw [hfault]
  exact ⟨_, rfl⟩

omit hs hcfg in
theorem exec_vldr (s : State) (k : Fin 12) (m : MemOp) : exec (.vldr k m) s = .next (vload s k m
    (fun w => if isNodata w then Frac.zero else (Frac.ofInt (recVal w)).scale (-23)) noteRecord [(.t, 4)]) := rfl

theorem vst_stores (hcan : canIssue s k [.s m.a, .v m.d, .m] c)
    (hfault : accessFault (engOf s k) engWrites false (sOf c m.a).toNat ((lanesOf c m).map (·.2)) = none) :
    ∃ u, exec (.vst k m) s = .next u ∧ SameBut [.engines] s u ∧ (∀ o, o ≠ k.val → engOf u o = engOf s o) ∧
      (engOf u k).sram = ((lanesOf c m).foldl (fun e q => sramWrite e q.2
        (bfpWord ((laneVals (vOf c m.d)).getD q.1 Frac.zero)).1) (engOf s k)).sram := by
  have hfold (e : EngineState) : ((lanesOf c m).map (fun q => (q.2, (bfpWord ((laneVals (vOf c m.d)).getD q.1 Frac.zero)).1))).foldl
      (fun e w => sramWrite e w.1 w.2) e = (lanesOf c m).foldl (fun e q => sramWrite e q.2
        (bfpWord ((laneVals (vOf c m.d)).getD q.1 Frac.zero)).1) e := List.foldl_map
  rw [← hfold]
  refine ⟨_, rfl, issue_done_leaves hs k.isLt hcan ?_ hcfg⟩
  show ∃ c', orFault (accessFault (engOf s k) engWrites false (sOf c m.a).toNat ((lanesOf c m).map (·.2))) _ = _
  rw [hfault]
  exact ⟨_, rfl⟩

/-- VSTE with every lane inactive sends no port word. -/
theorem vste_none (hcan : canIssue s k [.s m.a, .v m.d, .v (m.d.val + 1), .m] c) (heven : m.d.val % 2 = 0)
    (hfault : accessFault (engOf s k) engPorts false (sOf c m.a).toNat ((lanesOf c m).map (·.2)) = none)
    (hnone : lanesOf c m = []) : GoesOnWith s k (.vste k m) [.s m.a, .v m.d, .v (m.d.val + 1), .m] 1 c c := by
  refine goesOn_of_ctx hs k.isLt hcan (decide_eq_true heven) (Or.inr hcfg) rfl ?_
  show orFault (accessFault (engOf s k) engPorts false (sOf c m.a).toNat ((lanesOf c m).map (·.2)))
    (.done _ [] ((lanesOf c m).map _) false) = _
  rw [hfault, hnone]
  rfl

end

/-- Settles O40: each load and store whose access has no fault, and SLD with one. -/
theorem engineMemory : Obligations.EngineMemory := by
  unfold Obligations.EngineMemory
  intro s k m c hshape hcfg
  have hs := (shaped_iff s).1 hshape
  refine ⟨fun hcan hfault => sld_goesOn hs hcan hfault, fun f hcan hfault => sld_faults hcan hfault,
    fun hcan hfault => sst_stores hs hcfg hcan hfault, fun as has => ?_⟩
  have hlanes : as = lanesOf c m := has
  subst hlanes
  refine ⟨fun hcan hfault => ⟨vload_goesOn (lane := bfpVal) hs hcfg hcan rfl hfault,
      vload_goesOn (lane := fun w => Frac.ofInt w.toInt) hs hcfg hcan rfl hfault, _, exec_vldr s k m,
      vload_leaves hs hcfg hcan hfault⟩, fun hcan hfault => vst_stores hs hcfg hcan hfault,
    fun hcan heven hfault hnone => vste_none hs hcfg hcan heven hfault hnone, fun hcan heven hfault => exec_sameBut _ _⟩

-- branches, signals and the end of a stage (R546, R572, R574, R578, R580, R584)

/-- What BR reads, by its condition. -/
def brReads (cond : Fin 16) (a : Fin 16) : List Res := if cond.val = 0 then [] else if cond.val ≤ 4 then [Res.s a] else [Res.p]

/-- The context after SIGNAL. -/
def signalled (c : EngCtx) : EngCtx := { issued c [] 1 with ready := markReady c.ready [] (issueCycle c []) }

section
variable {s : State} {k : Fin 12} {c : EngCtx} (hs : Shaped s) (hcfg : rdb s (AE.CFG k) 0 = false)
include hs hcfg

theorem br_leaves {cond a : Fin 16} {target : BitVec 15} {reads : List Res} (hcond : cond.val ≤ 6) (hreads : brReads cond a = reads)
    (hcan : canIssue s k reads c) : ∃ u c', exec (.br k cond a target) s = .next u ∧ SameBut [.engines] s u ∧
      (engOf u k).stage = some c' ∧ c'.pc = (if brTaken c cond a then target.toNat else (c.pc + 1) % 2 ^ 15) ∧
      (brTaken c cond a = true → c'.free = issueCycle c reads + 3) ∧ c'.s = c.s ∧ c'.v = c.v := by
  subst hreads
  have hexec : exec (.br k cond a target) s = .next (issue s k (decide (cond.val ≤ 6)) (brReads cond a) [] 1 (fun c cyc =>
    .ctx (if brTaken c cond a then { c with pc := target.toNat, free := cyc + 3 } else c))) := rfl
  have htaken : brTaken (issued c (brReads cond a) 1) cond a = brTaken c cond a := rfl
  rw [hexec]
  cases hbr : brTaken c cond a with
  | true =>
    refine ⟨_, _, congrArg Host.Outcome.next (issue_done hcan (decide_eq_true hcond)
      (congrArg Issue.ctx (if_pos (htaken.trans hbr))) (Or.inr hcfg)),
      frame_onEng _ _ _ (List.Subset.refl _) (SameBut.refl _ _), congrArg EngineState.stage (engOf_same _ hs k.isLt), rfl,
      fun _ => rfl, rfl, rfl⟩
  | false =>
    refine ⟨_, _, congrArg Host.Outcome.next (issue_done hcan (decide_eq_true hcond)
      (congrArg Issue.ctx (if_neg (by rw [htaken, hbr]; exact Bool.false_ne_true))) (Or.inr hcfg)),
      frame_onEng _ _ _ (List.Subset.refl _) (SameBut.refl _ _), congrArg EngineState.stage (engOf_same _ hs k.isLt), rfl,
      fun h => absurd h Bool.false_ne_true, rfl, rfl⟩

theorem signal_leaves (hcan : canIssue s k [] c) : ∃ u v, exec (.signal k) s = .next (evt u (pgAE k) 7) ∧ SameBut [.engines] s u ∧
    engOf u k = { engOf s k with stage := some v } ∧ v.s = c.s ∧ v.pc = (c.pc + 1) % 2 ^ 15 := by
  have hissue : exec (.signal k) s = .next (evt (onEng s k (fun e => { e with stage := some (signalled c) })) (pgAE k) 7) :=
    congrArg Host.Outcome.next (issue_done (stores := []) (user := true) (f := fun c _ => .done c [] [] true) hcan rfl rfl
      (Or.inr hcfg))
  exact ⟨_, signalled c, hissue, frame_onEng _ _ _ (List.Subset.refl _) (SameBut.refl _ _), engOf_same _ hs k.isLt, rfl, rfl⟩

/-- VLDD packs the differences of the words at two bases. -/
theorem vldd_goesOn {d a b : Fin 16} {st : Fin 4} (hcan : canIssue s k [.s a, .s b, .m] c)
    (hfirst : accessFault (engOf s k) engReads true (sOf c a).toNat ((laneAddrs c (sOf c a).toNat 0 st).map (·.2)) = none)
    (hsecond : accessFault (engOf s k) engReads true (sOf c b).toNat ((laneAddrs c (sOf c b).toNat 0 st).map (·.2)) = none) :
    GoesOnWith s k (.vldd k d a b st) [.s a, .s b, .m] 1 c (setV c d c.m ((List.range 4).map (fun i =>
      Frac.ofInt (engWord (engOf s k) c.block ((sOf c a).toNat + i * strideOf st) -
        engWord (engOf s k) c.block ((sOf c b).toNat + i * strideOf st)).toInt))) := by
  refine goesOn_of_ctx hs k.isLt hcan rfl (Or.inr hcfg) rfl ?_
  show orFault (accessFault (engOf s k) engReads true (sOf c a).toNat ((laneAddrs c (sOf c a).toNat 0 st).map (·.2)))
    (orFault (accessFault (engOf s k) engReads true (sOf c b).toNat ((laneAddrs c (sOf c b).toNat 0 st).map (·.2))) _) = _
  rw [hfirst, hsecond]
  rfl

/-- The words of the table that VTAB reads for each lane. -/
def vtabAddrs (c : EngCtx) (a b x : Fin 16) (interp : Bool) (i : Nat) : List Nat :=
  tabAddrs ((laneVals (vOf c a)).getD i Frac.zero) (sOf c x).toNat (sOf c b).toNat i interp

theorem vtab_goesOn {d a b x : Fin 16} {interp : Bool} (hcan : canIssue s k [.v a, .s b, .s x, .m] c) (hpos : 0 < (sOf c x).toNat)
    (hmax : (sOf c x).toNat ≤ 16384)
    (hfault : accessFault (engOf s k) inTables true (sOf c b).toNat ((activeLanes c).flatMap (vtabAddrs c a b x interp)) = none) :
    GoesOnWith s k (.vtab k d a b x interp) [.v a, .s b, .s x, .m] 2 c (setV c d c.m ((List.range 4).map (fun i =>
      tabValue ((laneVals (vOf c a)).getD i Frac.zero)
        ((vtabAddrs c a b x interp i).map (fun q => bfpVal (engWord (engOf s k) c.block q)))))) := by
  have hsize : ¬ ((sOf c x).toNat = 0 ∨ 16384 < (sOf c x).toNat) := by omega
  refine goesOn_of_ctx hs k.isLt hcan rfl (Or.inr hcfg) rfl ?_
  refine (if_neg hsize).trans ?_
  show orFault (accessFault (engOf s k) inTables true (sOf c b).toNat ((activeLanes c).flatMap (vtabAddrs c a b x interp))) _ = _
  rw [hfault]
  rfl

end

theorem exec_limit {s : State} {k : Fin 12} {c : EngCtx} (hstage : (engOf s k).stage = some c) :
    exec (.limit k) s = .next (engFault s k EngCause.LIMIT c.pc 0) := by
  refine congrArg Host.Outcome.next ?_
  rw [hstage]

theorem exec_stop {s : State} {k : Fin 12} {c : EngCtx} (hstage : (engOf s k).stage = some c)
    (hlimit : c.free + 3 < rdf s (AE.LIMIT k) 0 16) (hgood : 4 * c.pc ∉ (engOf s k).bad) :
    exec (.stop k) s = .next (endStage s k c.event (c.free + 4) c.lastEdge c.ovf c.unf c.nodata) := by
  refine congrArg Host.Outcome.next ?_
  rw [hstage]
  dsimp only
  rw [if_neg (Nat.not_le.mpr hlimit), if_neg (fun h => hgood h.2)]

-- the start of a stage (R571)

/-- The event that starts the next stage is taken. -/
def eventTaken (s : State) (k ev : Nat) : State := onEng s k (fun e => { e with events := e.events &&& ~~~(BitVec.ofNat 6 (2 ^ ev)) })

/-- A stage of the program at `pc` for event `ev`, on the newest input block. -/
def stageBegun (s : State) (k ev pc : Nat) : State := onEng s k (fun e => { e with
  stage := some { event := ev, pc := pc, role := twinRole s k e.block.idx, block := e.block } })

theorem exec_stageStart {s : State} {k : Fin 12} {ev : Nat} (hrun : (engOf s k).run = .running) (hstage : (engOf s k).stage = none)
    (hpast : pastStart s k = true) (hev : nextEvent s k = some ev) :
    exec (.stageStart k) s = .next (if 0x4000 ≤ fld (vectOf s k ev) 0 15 then kernelStage (eventTaken s k ev) k ev
      else stageBegun (eventTaken s k ev) k ev (fld (vectOf s k ev) 0 15)) := by
  refine congrArg Host.Outcome.next ((when_of (by simp [hrun, hstage, hpast])).trans ?_)
  rw [hev]
  rfl

theorem stageStarted_leaves {s : State} {k : Fin 12} (ev pc : Nat) (hs : Shaped s) :
    let u := stageBegun (eventTaken s k ev) k ev pc
    SameBut [.engines] s u ∧ (∀ o, o ≠ k.val → engOf u o = engOf s o) ∧ engOf u k = { engOf s k with
      events := (engOf s k).events &&& ~~~(BitVec.ofNat 6 (2 ^ ev))
      stage := some { event := ev, pc := pc, role := twinRole s k (engOf s k).block.idx, block := (engOf s k).block } } := by
  intro u
  have htaken : engOf (eventTaken s k ev) k = { engOf s k with events := (engOf s k).events &&& ~~~(BitVec.ofNat 6 (2 ^ ev)) } :=
    engOf_same _ hs k.isLt
  have hu : engOf u k = _ := engOf_same _ (shaped_onEng s k _ hs : Shaped (eventTaken s k ev)) k.isLt
  refine ⟨frame_onEng _ _ _ (List.Subset.refl _) (frame_onEng _ _ _ (List.Subset.refl _) (SameBut.refl _ _)),
    fun o ho => (engOf_other _ ho).trans (engOf_other _ ho), ?_⟩
  rw [hu, htaken]
  rfl

/-- Settles O41: the branch by its condition, the end and the start of a stage, and the two reads of tables. -/
theorem engineFlow : Obligations.EngineFlow := by
  unfold Obligations.EngineFlow
  intro s k c hshape hcfg
  have hs := (shaped_iff s).1 hshape
  refine ⟨fun a target hcan => ?_, fun cond a target hlo hhi hcan => ?_, fun cond a target hlo hhi hcan => ?_,
    fun hcan => signal_leaves hs hcfg hcan, fun hcan => congrArg Host.Outcome.next (issue_illegal hcan),
    fun hstage => ⟨exec_limit hstage, fun hlimit hgood => exec_stop hstage hlimit hgood⟩,
    fun ev hrun hstage hpast hev => ⟨fun hkernel => ?_, fun hprogram => ?_⟩,
    fun d a b st hcan hfirst hsecond => vldd_goesOn hs hcfg hcan hfirst hsecond,
    fun d a b x interp adr hcan hpos hmax hadr hfault => ?_⟩
  · obtain ⟨u, c', hexec, hsame, hstage, hpc, hfree, hscalars, hvectors⟩ :=
      br_leaves (cond := 0) (a := a) (target := target) hs hcfg (by decide) rfl hcan
    exact ⟨u, c', hexec, hsame, hstage, hpc, hfree rfl, hscalars, hvectors⟩
  · have hreads : brReads cond a = [Res.s a] := by simp [brReads, hhi, Nat.ne_of_gt hlo]
    obtain ⟨u, c', hexec, hsame, hstage, hpc, -⟩ := br_leaves (target := target) hs hcfg (Nat.le_trans hhi (by decide)) hreads hcan
    exact ⟨u, c', hexec, hsame, hstage, hpc⟩
  · have hreads : brReads cond a = [Res.p] := by
      have hne : cond.val ≠ 0 := by omega
      have hgt : ¬ cond.val ≤ 4 := by omega
      rw [brReads, if_neg hne, if_neg hgt]
    obtain ⟨u, c', hexec, hsame, hstage, hpc, -⟩ := br_leaves (target := target) hs hcfg hhi hreads hcan
    exact ⟨u, c', hexec, hsame, hstage, hpc⟩
  · rw [exec_stageStart hrun hstage hpast hev, if_pos hkernel]
    rfl
  · refine ⟨_, ?_, stageStarted_leaves ev (fld (vectOf s k ev) 0 15) hs⟩
    rw [exec_stageStart hrun hstage hpast hev, if_neg (Nat.not_le.mpr hprogram)]
  · subst hadr
    exact vtab_goesOn hs hcfg hcan hpos hmax hfault

-- the host's control of an engine (R587, R589 to R593, R597)

/-- The registers of an engine that starts (R590). -/
def runRegs (s : State) (k : Nat) : State :=
  let t := wr s (AE.PROG_CRC k) (progCrc (engOf s k))
  let t := wr t (AE.CYCLES k) (setFld (rd t (AE.CYCLES k)) 16 16 0)
  wr t (AE.OCCUPANCY k) (setFld (rd t (AE.OCCUPANCY k)) 16 16 0)

/-- An engine RUNNING from this tick on. -/
def engineStarted (s : State) (k : Nat) : State := onEng (runRegs s k) k (fun e =>
  { stageOver e with run := .running, events := 0, startIdx := now (runRegs s k), offset := 0, chain := false })

theorem runEngine_halted {s : State} {w : Who} {k : Nat} (h : (engOf s k).run = .halted) : runEngine s w k = engineStarted s k := by
  have hfault : (engOf s k).run ≠ .fault := by simp [h]
  rw [runEngine, decide_eq_false hfault, rejIf_false, checked_none, if_pos h]
  extract_lets s1 s2 s3
  have hregs : s3 = runRegs s k := rfl
  clear_value s3
  rw [hregs, engineStarted]

theorem runEngine_fault {s : State} {w : Who} {k : Nat} (h : (engOf s k).run = .fault) :
    runEngine s w k = refuse s w (AE.CTRL k) ⟨Rsn.BUSY, none⟩ := by
  rw [runEngine, decide_eq_true h]
  rfl

theorem runRegs_leaves {s : State} (k : Nat) (hwf : regsWf s = true) : SameBut [.regs] s (runRegs s k) ∧
    RegsBut [AE.PROG_CRC k, AE.CYCLES k, AE.OCCUPANCY k] s (runRegs s k) ∧ rd (runRegs s k) (AE.PROG_CRC k) = progCrc (engOf s k) := by
  refine ⟨frame_wr (by decide) (frame_wr (by decide) (sameBut_wr _ _ _ (by decide))),
    ((regsBut_wr _ _ _).mono (by simp)).trans (((regsBut_wr _ _ _).mono (by simp)).trans ((regsBut_wr _ _ _).mono (by simp))), ?_⟩
  have hcycles : AE.PROG_CRC k ≠ AE.CYCLES k := by unfold AE.PROG_CRC AE.CYCLES; omega
  have hoccupancy : AE.PROG_CRC k ≠ AE.OCCUPANCY k := by unfold AE.PROG_CRC AE.OCCUPANCY; omega
  exact (rd_wr_other _ hoccupancy).trans ((rd_wr_other _ hcycles).trans (rd_wr_same _ _ hwf))

theorem now_congr {s t : State} (htime : t.time = s.time) (hlo : rd t TIME.GRID_EPOCH_LO = rd s TIME.GRID_EPOCH_LO)
    (hhi : rd t (TIME.GRID_EPOCH_LO + 4) = rd s (TIME.GRID_EPOCH_LO + 4)) : now t = now s := by
  rw [now, indexAt, epoch, rd64, htime, hlo, hhi, now, indexAt, epoch, rd64]

theorem now_runRegs {s : State} (k : Nat) (hwf : regsWf s = true) : now (runRegs s k) = now s := by
  obtain ⟨hframe, hregs, -⟩ := runRegs_leaves k hwf
  refine now_congr (hframe .time (by decide)) (hregs _ ?_) (hregs _ ?_)
  · simp only [List.mem_cons, List.not_mem_nil, or_false]
    unfold TIME.GRID_EPOCH_LO AE.PROG_CRC AE.CYCLES AE.OCCUPANCY
    omega
  · simp only [List.mem_cons, List.not_mem_nil, or_false]
    unfold TIME.GRID_EPOCH_LO AE.PROG_CRC AE.CYCLES AE.OCCUPANCY
    omega

theorem shaped_runRegs {s : State} (k : Nat) (hs : Shaped s) : Shaped (runRegs s k) := by
  unfold runRegs
  exact shaped_wr (shaped_wr (shaped_wr hs))

theorem engineStarted_regs (s : State) (k : Nat) : (engineStarted s k).regs = (runRegs s k).regs := onEng_regs _ _ _

theorem engineStarted_leaves {s : State} {k : Nat} (hs : Shaped s) (hwf : regsWf s = true) (hk : k < 12) :
    SameBut [.engines, .regs] s (engineStarted s k) ∧ (engOf (engineStarted s k) k).run = .running ∧
      (engOf (engineStarted s k) k).startIdx = now s ∧ (∀ o, o ≠ k → engOf (engineStarted s k) o = engOf s o) ∧
      RegsBut [AE.PROG_CRC k, AE.CYCLES k, AE.OCCUPANCY k] s (engineStarted s k) ∧
      rd (engineStarted s k) (AE.PROG_CRC k) = progCrc (engOf s k) := by
  obtain ⟨hframe, hregs, hcrc⟩ := runRegs_leaves k hwf
  have hshaped : Shaped (runRegs s k) := shaped_runRegs k hs
  have hsame : engOf (engineStarted s k) k = { stageOver (engOf (runRegs s k) k) with
    run := .running, events := 0, startIdx := now (runRegs s k), offset := 0, chain := false } := engOf_same _ hshaped hk
  have hengines : (runRegs s k).engines = s.engines := hframe .engines (by decide)
  refine ⟨frame_onEng _ _ _ (by decide) (hframe.mono (by decide)), congrArg EngineState.run hsame,
    (congrArg EngineState.startIdx hsame).trans (now_runRegs k hwf), fun o ho => (engOf_other _ ho).trans ?_,
    hregs.trans (regsBut_of_same _ (engineStarted_regs s k)),
    (rd_congr (engineStarted_regs s k) _).trans hcrc⟩
  rw [engOf, hengines, engOf]

theorem haltEngine_slots {s : State} {w : Who} {k : Nat} (h : engSlots s k ≠ 0) :
    haltEngine s w k = refuse s w (AE.CTRL k) ⟨0x41, none⟩ := by
  rw [haltEngine, decide_eq_true h]
  rfl

theorem clearFault_slots {s : State} {w : Who} {k : Nat} (h : engSlots s k ≠ 0) :
    clearFault s w k = refuse s w (AE.CTRL k) ⟨0x41, none⟩ := by
  rw [clearFault, decide_eq_true h]
  rfl

theorem haltEngine_running {s : State} {w : Who} {k : Nat} (hslots : engSlots s k = 0) (hrun : (engOf s k).run = .running) :
    haltEngine s w k = if (engOf s k).stage.isSome then onEng s k (fun e => { e with haltReq := true }) else haltNow s k := by
  rw [haltEngine, decide_eq_false (not_not.mpr hslots), rejIf_false, checked_none, if_pos hrun]

theorem clearFault_fault {s : State} {w : Who} {k : Nat} (hslots : engSlots s k = 0) (hrun : (engOf s k).run = .fault) :
    clearFault s w k = clearBlock (onEng s k (fun e => { e with run := .halted, cause := 0 })) := by
  rw [clearFault, decide_eq_false (not_not.mpr hslots), rejIf_false, checked_none, if_pos hrun]

theorem haltNow_leaves {s : State} {k : Nat} (hs : Shaped s) (hk : k < 12) : SameBut [.engines] s (haltNow s k) ∧
    (engOf (haltNow s k) k).run = .halted ∧ ∀ o, o ≠ k → engOf (haltNow s k) o = engOf s o :=
  ⟨frame_onEng _ _ _ (List.Subset.refl _) (SameBut.refl _ _), congrArg EngineState.run (engOf_same _ hs hk),
    fun _ ho => engOf_other _ ho⟩

theorem clearStaging_leaves {s : State} {k : Nat} (hs : Shaped s) (hk : k < 12) : SameBut [.engines] s (clearStaging s k) ∧
    (engOf (clearStaging s k) k).staging = [] ∧ ∀ o, o ≠ k → engOf (clearStaging s k) o = engOf s o :=
  ⟨frame_onEng _ _ _ (List.Subset.refl _) (SameBut.refl _ _), congrArg EngineState.staging (engOf_same _ hs hk),
    fun _ ho => engOf_other _ ho⟩

/-- An event raised while no other of its kind waits (R570). -/
theorem raiseEvent_alone {s : State} {k e : Nat} (hrun : (engOf s k).run = .running) (hvect : bit (vectOf s k e) 15 = true)
    (hnew : (engOf s k).events.getLsbD e = false) :
    raiseEvent s k e = onEng s k (fun x => { x with events := x.events ||| BitVec.ofNat 6 (2 ^ e) }) := by
  simp [raiseEvent, hrun, hvect, hnew]

-- scrubbing (R563, R589)

theorem modify_congr {α : Type} {l : List α} {i : Nat} {f g : α → α} (d : α) (h : f (l.getD i d) = g (l.getD i d)) :
    l.modify i f = l.modify i g := by
  refine List.ext_getElem (by simp) fun j hj _ => ?_
  rw [List.length_modify] at hj
  simp only [List.getElem_modify]
  split
  next heq =>
    subst heq
    simpa [List.getD_eq_getElem?_getD, hj] using h
  next => rfl

theorem onEng_congr {s : State} {k : Nat} {f g : EngineState → EngineState} (h : f (engOf s k) = g (engOf s k)) :
    onEng s k f = onEng s k g := by
  rw [onEng, onEng, modify_congr _ h]

theorem exec_sramScrub {s : State} {k : Fin 12} {addr : Nat} (hin : addr / 4 * 4 < 0x60000) :
    exec (.sramScrub k addr false) s = .next (bumpSat (evt s (pgAE k) 5) (AE.ECC_STAT k) 0 16 1) :=
  congrArg Host.Outcome.next (when_of (decide_eq_true hin))

/-- The scrubbing that finds an uncorrectable word: counted. -/
def scrubCounted (s : State) (k : Nat) : State := bumpSat (evt s (pgAE k) 5) (AE.ECC_STAT k) 16 16 1

theorem engOf_scrubCounted (s : State) (k o : Nat) : engOf (scrubCounted s k) o = engOf s o := rfl

theorem exec_sramScrub_program {s : State} {k : Fin 12} {addr : Nat} (hprog : addr / 4 * 4 < 0x10000)
    (hnew : (engOf s k).bad.contains (addr / 4 * 4) = false) :
    exec (.sramScrub k addr true) s = .next (engFault (onEng (scrubCounted s k) k
      (fun e => { e with bad := addr / 4 * 4 :: e.bad })) k EngCause.ECC_PROG (addr / 4 * 4 / 4) 0) := by
  have hblock : ¬ (0x10000 ≤ addr / 4 * 4 ∧ addr / 4 * 4 < 0x10100) := fun h => absurd h.1 (Nat.not_le.mpr hprog)
  have hbad : onEng (scrubCounted s k) k (fun e => { e with
      bad := if e.bad.contains (addr / 4 * 4) then e.bad else addr / 4 * 4 :: e.bad }) =
      onEng (scrubCounted s k) k (fun e => { e with bad := addr / 4 * 4 :: e.bad }) := by
    refine onEng_congr ?_
    rw [engOf_scrubCounted, hnew, if_neg Bool.false_ne_true]
  refine congrArg Host.Outcome.next ((when_of (decide_eq_true (Nat.lt_trans hprog (by decide)))).trans ?_)
  refine (if_pos rfl).trans ((if_neg hblock).trans ((if_pos hprog).trans ?_))
  rw [← hbad]
  rfl

/-- Settles O42: each control with its refusal, the events, the replay of the staging list, and scrubbing. -/
theorem engineControl : Obligations.EngineControl := by
  unfold Obligations.EngineControl
  intro s p k hshape hmem
  have hs := (shaped_iff s).1 hshape
  refine ⟨fun hpass => ?_, fun e _ hrun hvect hnew => raiseEvent_alone hrun hvect hnew, fun hreplay => ⟨_,
    congrArg Host.Outcome.next (when_of (decide_eq_true hreplay)), rfl⟩,
    fun addr hin => ⟨exec_sramScrub hin, fun hprog hnew => exec_sramScrub_program hprog hnew⟩⟩
  have hrun : exec (.runEngine p k) s = .next (runEngine s (some p) k) := congrArg Host.Outcome.next (gated_of_passes _ hpass)
  have hhalt : exec (.haltEngine p k) s = .next (haltEngine s (some p) k) := congrArg Host.Outcome.next (gated_of_passes _ hpass)
  have hclear : exec (.clearFault p k) s = .next (clearFault s (some p) k) := congrArg Host.Outcome.next (gated_of_passes _ hpass)
  rw [hrun, hhalt, hclear]
  refine ⟨fun hhalted => ⟨_, congrArg Host.Outcome.next (runEngine_halted hhalted),
      engineStarted_leaves hs (regsWf_of_memoryWf hmem) k.isLt⟩, fun hfault => congrArg Host.Outcome.next (runEngine_fault hfault),
    fun hslots => ⟨congrArg Host.Outcome.next (haltEngine_slots hslots), congrArg Host.Outcome.next (clearFault_slots hslots)⟩,
    fun hslots hrunning => ⟨fun hstage => ⟨haltNow s k, ?_, haltNow_leaves hs k.isLt⟩, fun hstage => ?_⟩,
    fun hslots hfault => congrArg Host.Outcome.next (clearFault_fault hslots hfault),
    congrArg Host.Outcome.next (gated_of_passes _ hpass),
    ⟨_, congrArg Host.Outcome.next (gated_of_passes _ hpass), clearStaging_leaves hs k.isLt⟩⟩
  · rw [haltEngine_running hslots hrunning, hstage]
    rfl
  · rw [haltEngine_running hslots hrunning, if_pos (Option.isSome_iff_ne_none.2 hstage)]

end Sys2Proof.Machine
end

section
/-!
PROOF. O43: the edges of an edge channel, its intervals, its SSI transfers, its records and its controls.
-/
namespace Sys2Proof.Machine

theorem evt_edgeOf (s : State) (p i n : Nat) : edgeOf (evt s p i) n = edgeOf s n := rfl

/-- A channel whose contents change: the others stay. -/
theorem onEdge_leaves {s : State} {n : Nat} (f : EdgeState → EdgeState) (hs : Shaped s) (hn : n < 64) :
    SameBut [.edges] s (onEdge s n f) ∧ edgeOf (onEdge s n f) n = f (edgeOf s n) ∧
      ∀ o, o ≠ n → edgeOf (onEdge s n f) o = edgeOf s o :=
  ⟨frame_onEdge _ _ _ (List.Subset.refl _) (SameBut.refl _ _), edgeOf_same _ hs hn, fun _ ho => edgeOf_other _ ho⟩

-- edges (R649, R652, R660)

/-- Edge records are off: no edge of a pin is queued. -/
theorem queueEdge_off {s : State} {n : Nat} (i : Nat) (falling : Bool) (t : Nat) (ecc : WordErr) (h : chRec s n ≠ 2) :
    queueEdge s n i falling t ecc = s := if_neg (fun hq => h hq.1)

theorem chRec_of_regs {s t : State} (n : Nat) (h : t.regs = s.regs) : chRec t n = chRec s n := by
  rw [chRec, chCfg, rd_congr h, chRec, chCfg]

/-- The time of an edge kept for its phase. -/
def phaseNoted (s : State) (n inp t : Nat) : State := onEdge s n (fun x => { x with phaseAt := x.phaseAt.set inp (some t) })

theorem phaseNoted_leaves {s : State} {n inp t : Nat} (hs : Shaped s) (hn : n < 64) : SameBut [.edges] s (phaseNoted s n inp t) ∧
    edgeOf (phaseNoted s n inp t) n = { edgeOf s n with phaseAt := (edgeOf s n).phaseAt.set inp (some t) } ∧
    ∀ o, o ≠ n → edgeOf (phaseNoted s n inp t) o = edgeOf s o := onEdge_leaves _ hs hn

theorem shaped_phaseNoted {s : State} (n inp t : Nat) (hs : Shaped s) : Shaped (phaseNoted s n inp t) := shaped_onEdge s n _ hs

theorem quadEdge_bad {s : State} {n inp t : Nat} {together : Bool} (a b : Bool) (hinp : inp ≠ 2)
    (hbad : together = true ∨ tooClose (edgeOf s n) inp t = true) :
    quadEdge s n inp t a b together = edgeError (phaseNoted s n inp t) n true := by
  have hcond : (together || tooClose (edgeOf s n) inp t) = true := by simpa using hbad
  rw [quadEdge, if_neg hinp, hcond]
  rfl

theorem chRec_edgeError (s : State) (n : Nat) (quad : Bool) : chRec (edgeError s n quad) n = chRec s n := by
  have hne : EDGE.CH_CFG (n / 8) (n % 8) ≠ hdr (pgEDGE (n / 8)) Hdr.EVT := by
    unfold EDGE.CH_CFG hdr pgEDGE Hdr.EVT
    omega
  rw [chRec, chCfg, edgeError, rd_evt_other _ _ hne, chRec, chCfg]
  rfl

theorem quadEdge_good {s : State} {n inp t : Nat} (a b : Bool) (hinp : inp ≠ 2)
    (hclose : tooClose (edgeOf s n) inp t = false) :
    quadEdge s n inp t a b false = countEdge (phaseNoted s n inp t) n t (if inp = 0 then a != b else a == b) := by
  rw [quadEdge, if_neg hinp, hclose]
  rfl

/-- The levels of A and B as the channel counts them. -/
def levelA (s : State) (n : Nat) (e : EncEdge) : Bool :=
  if e.input.val = 0 then e.level != bit (chCfg s n) (8 + e.input.val) else e.a != bit (chCfg s n) 8
def levelB (s : State) (n : Nat) (e : EncEdge) : Bool :=
  if e.input.val = 1 then e.level != bit (chCfg s n) (8 + e.input.val) else e.b != bit (chCfg s n) 9

/-- A phase edge in QUAD with edge records off. -/
theorem encEdge_quad {s t : State} {n : Nat} {e : EncEdge} (hmode : chMode s n = 1) (hrec : chRec s n ≠ 2) (hinp : e.input.val ≠ 2)
    (ht : quadEdge s n e.input.val (edgeStamp s n e) (levelA s n e) (levelB s n e) e.together = t)
    (hcfg : chRec t n = chRec s n) : encEdge s n e = t := by
  have hz : ¬ (e.input.val = 2 ∧ (e.level != bit (chCfg s n) (8 + e.input.val)) = true) := fun h => hinp h.1
  rw [encEdge, hmode]
  dsimp only
  rw [if_neg hz]
  exact (queueEdge_off _ _ _ _ (by rw [← ht] at hcfg; rw [hcfg]; exact hrec : chRec (quadEdge s n e.input.val (edgeStamp s n e)
    (levelA s n e) (levelB s n e) e.together) n ≠ 2)).trans ht

theorem countEdge_leaves {s : State} {n t : Nat} (up : Bool) (hs : Shaped s) (hn : n < 64) : SameBut [.edges] s (countEdge s n t up) ∧
    (edgeOf (countEdge s n t up) n).count = (if up then (edgeOf s n).count + 1 else (edgeOf s n).count - 1) ∧
    (edgeOf (countEdge s n t up) n).up = up ∧ ∀ o, o ≠ n → edgeOf (countEdge s n t up) o = edgeOf s o := by
  have hsame := edgeOf_same (fun e : EdgeState =>
    let c := if up then e.count + 1 else e.count - 1
    { e with count := c, up := up, edges := (t, c) :: (if e.edges.isEmpty then [(0, e.count)]
      else recentEdges (velWindow s n) t e.edges) }) hs hn
  exact ⟨frame_countEdge s n t up (List.Subset.refl _) (SameBut.refl _ _), congrArg EdgeState.count hsame,
    congrArg EdgeState.up hsame, fun o ho => edgeOf_other _ ho⟩

/-- A phase edge that counts. -/
theorem quadCounted_leaves {s : State} {n inp t : Nat} (up : Bool) (hs : Shaped s) (hn : n < 64) :
    let u := countEdge (phaseNoted s n inp t) n t up
    SameBut [.edges] s u ∧ (edgeOf u n).count = (if up then (edgeOf s n).count + 1 else (edgeOf s n).count - 1) ∧
      (edgeOf u n).up = up ∧ ∀ o, o ≠ n → edgeOf u o = edgeOf s o := by
  obtain ⟨hframe, hsame, hother⟩ := phaseNoted_leaves (inp := inp) (t := t) hs hn
  obtain ⟨hcframe, hcount, hup, hcother⟩ := countEdge_leaves (t := t) up (shaped_phaseNoted n inp t hs) hn
  rw [hsame] at hcount
  exact ⟨hframe.trans hcframe, hcount, hup, fun o ho => (hcother o ho).trans (hother o ho)⟩

/-- The stop of an interval whose records are off (R652). -/
def intervalEnded (s : State) (n t0 t : Nat) : State :=
  countEdge (onEdge s n (fun e => { e with start := none, interval := t - t0 })) n t true

theorem intervalEnded_regs (s : State) (n t0 t : Nat) : (intervalEnded s n t0 t).regs = s.regs :=
  frame_countEdge _ n t true (List.Subset.refl _) (frame_onEdge _ _ _ (List.Subset.refl _) (SameBut.refl _ _)) .regs (by decide)

theorem endInterval_stop {s : State} {n t0 t : Nat} {ecc : WordErr} (hstart : (edgeOf s n).start = some t0) (hrec : chRec s n ≠ 3) :
    endInterval s n (some t) ecc = intervalEnded s n t0 t := by
  have hcfg : chRec (intervalEnded s n t0 t) n ≠ 3 := by
    rw [chRec_of_regs n (intervalEnded_regs s n t0 t)]
    exact hrec
  rw [endInterval, hstart]
  exact if_neg hcfg

theorem intervalEnded_leaves {s : State} {n t0 t : Nat} (hs : Shaped s) (hn : n < 64) : SameBut [.edges] s (intervalEnded s n t0 t) ∧
    (edgeOf (intervalEnded s n t0 t) n).interval = t - t0 ∧ (edgeOf (intervalEnded s n t0 t) n).start = none ∧
    (edgeOf (intervalEnded s n t0 t) n).count = (edgeOf s n).count + 1 := by
  obtain ⟨hframe, hfirst, -⟩ := onEdge_leaves (n := n) (fun e => { e with start := none, interval := t - t0 }) hs hn
  have hshaped := shaped_onEdge s n (fun e => { e with start := none, interval := t - t0 }) hs
  have hcount := (countEdge_leaves (t := t) true hshaped hn).2.1
  have hedge : edgeOf (intervalEnded s n t0 t) n = _ := edgeOf_same _ hshaped hn
  refine ⟨frame_countEdge _ n t true (List.Subset.refl _) hframe, ?_, ?_, ?_⟩
  · rw [hedge, hfirst]
  · rw [hedge, hfirst]
  · rw [intervalEnded, hcount, hfirst]
    rfl

theorem encEdge_stop {s : State} {n t0 : Nat} {e : EncEdge} (hmode : chMode s n = 3) (hrec : chRec s n ≠ 2) (hrec3 : chRec s n ≠ 3)
    (hinp : e.input.val = 1) (hlevel : (e.level != bit (chCfg s n) 9) = true) (hstart : (edgeOf s n).start = some t0) :
    encEdge s n e = intervalEnded s n t0 (edgeStamp s n e) := by
  rw [encEdge, hmode]
  simp only [hinp, hlevel, hstart, if_true, Option.isSome_some, endInterval_stop hstart hrec3, Nat.reduceAdd, Nat.reduceEqDiff,
    one_ne_zero, if_false]
  exact queueEdge_off _ _ _ _ (by rw [chRec_of_regs n (intervalEnded_regs _ _ _ _)]; exact hrec)

-- SSI (R653, R655)

/-- The clock ball of an SSI channel for a transfer from now on. -/
def ssiClocked (s : State) (n : Nat) : State := onGc s (fld (chSsi s n) 8 8) (if drivesHub s then driveBall true else releaseBall)

theorem exec_ssiTransfer {s : State} {ch : Fin 64} (hmode : chMode s ch = 4)
    (hperiod : 0 < rdf s (EDGE.CH_SSI_T (ch / 8) (ch % 8)) 0 16) (hdue : now s % rdf s (EDGE.CH_SSI_T (ch / 8) (ch % 8)) 0 16 = 0) :
    exec (.ssiTransfer ch) s = .next (if (edgeOf s ch).ssi.isSome then ignoredEdge (ssiClocked s ch) ch
      else onEdge (ssiClocked s ch) ch (fun e => { e with ssi := some (now s) })) := by
  have hmax : max 1 (rdf s (EDGE.CH_SSI_T (ch / 8) (ch % 8)) 0 16) = rdf s (EDGE.CH_SSI_T (ch / 8) (ch % 8)) 0 16 :=
    Nat.max_eq_right hperiod
  exact congrArg Host.Outcome.next (when_of (by rw [hmax]; simp [hmode, hperiod, hdue]))

/-- The transfer that runs is over. -/
def ssiEnded (s : State) (n : Nat) : State := onEdge s n (fun e => { e with ssi := none })

theorem exec_ssiTransferDone_low {s : State} {ch : Fin 64} {at' : Nat} (bits : List Bool) (hmode : chMode s ch = 4)
    (hssi : (edgeOf s ch).ssi = some at') :
    exec (.ssiTransferDone ch false bits) s = .next (edgeError (ssiEnded s ch) ch false) := by
  refine congrArg Host.Outcome.next ?_
  rw [hmode, hssi]
  exact if_pos (Or.inl rfl)

/-- The word that the bits of a transfer carry. -/
def ssiWord (s : State) (n : Nat) (bits : List Bool) : Word :=
  word (bitsVal (if bit (chSsi s n) 6 then grayBits (bits.take (fld (chSsi s n) 0 6)) else bits.take (fld (chSsi s n) 0 6)))

def ssiTaken (s : State) (n at' : Nat) (bits : List Bool) : State :=
  onEdge (ssiEnded s n) n (fun e => { e with
    count := ssiWord s n bits, words := ssiWord s n bits :: e.words.take 1
    edges := [((at' + epoch (ssiEnded s n)) * stampTick, ssiWord s n bits)] })

theorem exec_ssiTransferDone_high {s : State} {ch : Fin 64} {at' : Nat} (bits : List Bool) (hmode : chMode s ch = 4)
    (hssi : (edgeOf s ch).ssi = some at') (hparity : bit (chSsi s ch) 7 = false) :
    exec (.ssiTransferDone ch true bits) s = .next (ssiTaken s ch at' bits) := by
  refine congrArg Host.Outcome.next ?_
  rw [hmode, hssi, hparity]
  refine if_neg ?_
  simp

theorem ssiTaken_leaves {s : State} {n at' : Nat} (bits : List Bool) (hs : Shaped s) (hn : n < 64) :
    SameBut [.edges] s (ssiTaken s n at' bits) ∧ (edgeOf (ssiTaken s n at' bits) n).ssi = none ∧
      (edgeOf (ssiTaken s n at' bits) n).count = ssiWord s n bits := by
  obtain ⟨hframe, hsame, -⟩ := onEdge_leaves (n := n) (fun e => { e with ssi := none }) hs hn
  have hedge : edgeOf (ssiTaken s n at' bits) n = _ := edgeOf_same _ (shaped_onEdge s n _ hs : Shaped (ssiEnded s n)) hn
  have hended : edgeOf (ssiEnded s n) n = { edgeOf s n with ssi := none } := hsame
  refine ⟨frame_onEdge _ _ _ (List.Subset.refl _) hframe, ?_, ?_⟩
  · rw [hedge, hended]
  · rw [hedge]

-- records and tables (R645, R646, R662)

/-- The table of an interpolator that has been measured. -/
def tableMeasured (s : State) (n : Nat) (i : Fin 3) (hits : List Nat) : State := onEdge s n (fun e => { e with
  calFail := e.calFail.set i (!tableOk hits), tables := if tableOk hits then e.tables.set i hits else e.tables })

theorem exec_interpolatorTable (s : State) (ch : Fin 64) (i : Fin 3) (hits : List Nat) : exec (.interpolatorTable ch i hits) s =
    .next (evtIf (!tableOk hits) (tableMeasured s ch i hits) (pgEDGE (ch / 8)) 24) := rfl

theorem tableMeasured_leaves {s : State} {n : Nat} (i : Fin 3) (hits : List Nat) (hs : Shaped s) (hn : n < 64) :
    SameBut [.edges] s (tableMeasured s n i hits) ∧ edgeOf (tableMeasured s n i hits) n = { edgeOf s n with
      calFail := (edgeOf s n).calFail.set i (!tableOk hits)
      tables := if tableOk hits then (edgeOf s n).tables.set i hits else (edgeOf s n).tables } :=
  ⟨frame_onEdge _ _ _ (List.Subset.refl _) (SameBut.refl _ _), edgeOf_same _ hs hn⟩

theorem tableFailed_leaves {s : State} {n g : Nat} (i : Fin 3) {hits : List Nat} (hbad : tableOk hits = false) (hs : Shaped s)
    (hn : n < 64) : let u := evtIf (!tableOk hits) (tableMeasured s n i hits) g 24
    SameBut [.edges, .regs] s u ∧ edgeOf u n = { edgeOf s n with calFail := (edgeOf s n).calFail.set i true } ∧
      RegsBut [hdr g Hdr.EVT] s u := by
  obtain ⟨hframe, hedge⟩ := tableMeasured_leaves i hits hs hn
  rw [hbad] at hedge ⊢
  exact ⟨frame_evtIf _ _ _ _ (by decide) (hframe.mono (by decide)), hedge,
    (RegsBut.of_sameBut hframe (by decide)).trans (regsBut_evtIf _ _ _ _)⟩

theorem tablePassed_leaves {s : State} {n g : Nat} (i : Fin 3) {hits : List Nat} (hok : tableOk hits = true) (hs : Shaped s)
    (hn : n < 64) : let u := evtIf (!tableOk hits) (tableMeasured s n i hits) g 24
    SameBut [.edges] s u ∧ edgeOf u n = { edgeOf s n with
      calFail := (edgeOf s n).calFail.set i false, tables := (edgeOf s n).tables.set i hits } := by
  obtain ⟨hframe, hedge⟩ := tableMeasured_leaves i hits hs hn
  rw [hok] at hedge ⊢
  exact ⟨hframe, hedge⟩

/-- Settles O43: each mode's edges, then what ends and delivers, then the controls. -/
theorem edgeChannels : Obligations.EdgeChannels := by
  unfold Obligations.EdgeChannels
  intro s p ch hshape _
  have hs := (shaped_iff s).1 hshape
  refine ⟨fun e hmode hrec hinp htog hclose => ?_, fun e hmode hrec hinp hbad => ?_,
    fun e t0 hmode hrec hrec3 hinp hlevel hstart => ⟨_, congrArg Host.Outcome.next (encEdge_stop hmode hrec hrec3 hinp hlevel hstart),
      intervalEnded_leaves hs ch.isLt⟩,
    fun hmode e => ?_, fun t0 hmode hstart => ⟨fun hover => ?_, fun hruns => ?_⟩, fun hmode hperiod hdue =>
      ⟨ssiClocked s ch, rfl, fun hnone => ?_, fun hsome => ?_⟩,
    fun at' bits hmode hssi hparity => ⟨⟨_, exec_ssiTransferDone_high bits hmode hssi hparity, ssiTaken_leaves bits hs ch.isLt⟩,
      exec_ssiTransferDone_low bits hmode hssi⟩,
    fun hsampling hmode hrec hdiv hdue => ?_, fun i hits => ?_, fun hpass => ⟨?_, ?_, ?_⟩⟩
  · have hup : (levelA s ch e != levelB s ch e) = ((e.level != bit (chCfg s ch) 8) != (e.b != bit (chCfg s ch) 9)) := by
      simp [levelA, levelB, hinp]
    have hquad : quadEdge s ch e.input.val (edgeStamp s ch e) (levelA s ch e) (levelB s ch e) e.together =
        countEdge (phaseNoted s ch 0 (edgeStamp s ch e)) ch (edgeStamp s ch e) (levelA s ch e != levelB s ch e) := by
      rw [htog, hinp]
      exact quadEdge_good _ _ (by decide) hclose
    obtain ⟨hframe, hcount, hcup, hother⟩ :=
      quadCounted_leaves (inp := 0) (t := edgeStamp s ch e) (levelA s ch e != levelB s ch e) hs ch.isLt
    exact ⟨_, _, congrArg Host.Outcome.next (encEdge_quad hmode hrec (by omega) hquad
      (chRec_of_regs _ (hframe .regs (by decide)))), hframe, hup, hcount, hcup, hother⟩
  · have hquad := quadEdge_bad (levelA s ch e) (levelB s ch e) hinp hbad
    refine congrArg Host.Outcome.next (encEdge_quad hmode hrec hinp hquad (chRec_edgeError _ _ _))
  · refine congrArg Host.Outcome.next ?_
    rw [encEdge, hmode]
    rfl
  · refine congrArg Host.Outcome.next (when_of ?_)
    simp [hmode, hstart, timedOut, hover]
  · refine congrArg Host.Outcome.next (when_not ?_)
    simp [hstart, timedOut, hruns]
  · rw [exec_ssiTransfer hmode hperiod hdue, hnone]
    rfl
  · rw [exec_ssiTransfer hmode hperiod hdue, if_pos (Option.isSome_iff_ne_none.2 hsome)]
  · have hmax : max 1 (rdf s (EDGE.CH_REC (ch / 8) (ch % 8)) 0 16) = rdf s (EDGE.CH_REC (ch / 8) (ch % 8)) 0 16 :=
      Nat.max_eq_right hdiv
    exact congrArg Host.Outcome.next (when_of (by rw [hmax]; simp [hsampling, hmode, hrec, hdiv, hdue]))
  · rw [exec_interpolatorTable]
    exact ⟨fun hbad => ⟨_, rfl, tableFailed_leaves i hbad hs ch.isLt⟩, fun hok => ⟨_, rfl, tablePassed_leaves i hok hs ch.isLt⟩⟩
  · exact ⟨_, congrArg Host.Outcome.next (gated_of_passes _ hpass), onEdge_leaves _ hs ch.isLt⟩
  · exact ⟨_, congrArg Host.Outcome.next (gated_of_passes _ hpass), onEdge_leaves _ hs ch.isLt⟩
  · exact ⟨_, congrArg Host.Outcome.next (gated_of_passes _ hpass), onEdge_leaves _ hs ch.isLt⟩

end Sys2Proof.Machine
end

section
/-!
PROOF. O44: the line code of the sensor ports spells the bytes of a frame, and what a frame, a command and a control do to a port.
-/
namespace Sys2Proof.Machine

-- the line code (R665)

theorem find?_sixCode : ∀ (pos : Bool) (x : Fin 32),
    (List.range 32).find? (fun y => decide (sixCode pos y = sixCode pos x)) = some x.val := by decide +kernel

theorem find?_fourCode : ∀ (pos : Bool) (x : Fin 32) (y : Fin 8),
    (List.range 8).find? (fun z => decide (fourCode pos x z = fourCode pos x y)) = some y.val := by decide +kernel

theorem sixCode_lt : ∀ (pos : Bool) (x : Fin 32), sixCode pos x < 64 := by decide +kernel

theorem fourCode_lt : ∀ (pos : Bool) (x : Fin 32) (y : Fin 8), fourCode pos x y < 16 := by decide +kernel

theorem codeComma_lt : ∀ pos : Bool, (codeComma pos).1 < 1024 := by decide

/-- The two codes of a byte's group, apart. -/
theorem codeData_split (pos : Bool) (b : Byte) : (codeData pos b).1 / 16 = sixCode pos (b.toNat % 32) ∧
    (codeData pos b).1 % 16 = fourCode (afterBlock pos 6 (sixCode pos (b.toNat % 32))) (b.toNat % 32) (b.toNat / 32) ∧
    (codeData pos b).1 < 1024 := by
  have hx : b.toNat % 32 < 32 := Nat.mod_lt _ (by decide)
  have hy : b.toNat / 32 < 8 := by omega
  have hsix := sixCode_lt pos ⟨_, hx⟩
  have hfour := fourCode_lt (afterBlock pos 6 (sixCode pos (b.toNat % 32))) ⟨_, hx⟩ ⟨_, hy⟩
  simp only [codeData]
  dsimp only at hsix hfour
  omega

theorem decodeData_codeData (pos : Bool) (b : Byte) : decodeData pos (codeData pos b).1 = some b := by
  have hx : b.toNat % 32 < 32 := Nat.mod_lt _ (by decide)
  have hy : b.toNat / 32 < 8 := by omega
  obtain ⟨hdiv, hmod, -⟩ := codeData_split pos b
  have hsix := find?_sixCode pos ⟨_, hx⟩
  have hfour := find?_fourCode (afterBlock pos 6 (sixCode pos (b.toNat % 32))) ⟨_, hx⟩ ⟨_, hy⟩
  rw [decodeData, hdiv, hmod, hsix]
  dsimp only at hfour ⊢
  rw [hfour, Option.map_some, Nat.div_add_mod, BitVec.ofNat_toNat, BitVec.setWidth_eq]

/-- The disparity goes on as the group itself says. -/
theorem afterGroup_codeData (pos : Bool) (b : Byte) : afterGroup pos (codeData pos b).1 = (codeData pos b).2 := by
  obtain ⟨hdiv, hmod, -⟩ := codeData_split pos b
  rw [afterGroup, hdiv, hmod]
  rfl

theorem decodeBytes_codeBytes (pos : Bool) (l : List Byte) : decodeBytes pos (codeBytes pos l) = some l := by
  induction l generalizing pos with
  | nil => rfl
  | cons b l ih =>
    have hrest := ih (codeData pos b).2
    rw [codeBytes, decodeBytes, decodeData_codeData, afterGroup_codeData, hrest]

theorem codeBytes_length (pos : Bool) (l : List Byte) : (codeBytes pos l).length = l.length := by
  induction l generalizing pos with
  | nil => rfl
  | cons b l ih => rw [codeBytes, List.length_cons, List.length_cons, ih]

theorem codeBytes_lt (pos : Bool) (l : List Byte) : ∀ g ∈ codeBytes pos l, g < 1024 := by
  induction l generalizing pos with
  | nil => exact fun g hg => absurd hg List.not_mem_nil
  | cons b l ih =>
    intro g hg
    rcases List.mem_cons.1 hg with rfl | hg
    · exact (codeData_split pos b).2.2
    · exact ih _ g hg

theorem portGroups_lt (pos : Bool) (l : List Byte) : ∀ g ∈ portGroups pos l, g < 1024 := by
  intro g hg
  rcases List.mem_cons.1 hg with rfl | hg
  · exact codeComma_lt pos
  · exact codeBytes_lt _ _ g hg

/-- A frame of code groups spells its 95 bytes, from either disparity (R665, R666). -/
theorem portBytes_portGroups (pos : Bool) {l : List Byte} (hl : l.length = 95) : portBytes pos (portGroups pos l) = some l := by
  have hcrc : (crcSymbols l).length = 4 := netBytes_length _ _
  have hlen : (codeBytes (codeComma pos).2 (l ++ crcSymbols l)).length = 99 := by
    rw [codeBytes_length, List.length_append, hl, hcrc]
  have hdrop : (l ++ crcSymbols l).drop 95 = crcSymbols l := List.drop_left' hl
  have htake : (l ++ crcSymbols l).take 95 = l := List.take_left' hl
  rw [portGroups, portBytes, if_pos ⟨rfl, hlen⟩, decodeBytes_codeBytes]
  dsimp only
  rw [hdrop, htake, if_pos rfl]

theorem map_toNat_ofNat {l : List Nat} {n : Nat} (h : ∀ g ∈ l, g < 2 ^ n) :
    (l.map (BitVec.ofNat n)).map (fun g => g.toNat) = l := by
  rw [List.map_map]
  refine (List.map_congr_left fun g hg => ?_).trans (List.map_id l)
  rw [Function.comp_apply, BitVec.toNat_ofNat, Nat.mod_eq_of_lt (h g hg), id]

/-- The groups of a frame on the line of a port are heard as its bytes. -/
theorem uplinkHeard_portGroups (s : State) (q : Nat) {l : List Byte} (rtt : Nat) (hl : l.length = 95) :
    uplinkHeard s q ((portGroups (sprtOf s q).upEnd l).map (BitVec.ofNat 10)) rtt = uplinkOf l rtt := by
  rw [uplinkHeard, map_toNat_ofNat (portGroups_lt _ l), portBytes_portGroups _ hl]

-- a port whose contents change

theorem onSprt_leaves {s : State} {q : Nat} (f : SprtState → SprtState) (hs : Shaped s) (hq : q < 8) :
    SameBut [.sports] s (onSprt s q f) ∧ sprtOf (onSprt s q f) q = f (sprtOf s q) ∧
      ∀ o, o ≠ q → sprtOf (onSprt s q f) o = sprtOf s o :=
  ⟨frame_onSprt _ _ _ (List.Subset.refl _) (SameBut.refl _ _), sprtOf_same _ hs hq, fun _ ho => sprtOf_other _ ho⟩

theorem sprtOf_evtIf (c : Bool) (s : State) (p i q : Nat) : sprtOf (evtIf c s p i) q = sprtOf s q := by
  cases c <;> rfl

-- frames (R669, R674, R679)

/-- The disparity of the uplink after a frame. -/
def uplinkEnd (s : State) (q : Nat) (g : List (BitVec 10)) : State :=
  onSprt s q (fun x => { x with upEnd := afterGroups x.upEnd (g.map (fun y => y.toNat)) })

theorem exec_uplinkFrame (s : State) (q : Fin 8) (g : List (BitVec 10)) (rtt : Nat) :
    exec (.uplinkFrame q g rtt) s = .next (uplinkFrame (uplinkEnd s q g) q (uplinkHeard s q g rtt)) := rfl

theorem uplinkEnd_leaves {s : State} {q : Nat} (g : List (BitVec 10)) (hs : Shaped s) (hq : q < 8) :
    SameBut [.sports] s (uplinkEnd s q g) ∧ Shaped (uplinkEnd s q g) ∧ sprtOf (uplinkEnd s q g) q =
      { sprtOf s q with upEnd := afterGroups (sprtOf s q).upEnd (g.map (fun y => y.toNat)) } :=
  ⟨frame_onSprt _ _ _ (List.Subset.refl _) (SameBut.refl _ _), shaped_onSprt s q _ hs, sprtOf_same _ hs hq⟩

theorem blkOn_uplinkEnd (s : State) (q : Nat) (g : List (BitVec 10)) (p : Nat) : blkOn (uplinkEnd s q g) p = blkOn s p := rfl

theorem uplinkFrame_off {s : State} {q : Nat} (u : Uplink) (h : blkOn s (pgSPRT q) = false) : uplinkFrame s q u = s := by
  simp [uplinkFrame, h]

theorem downlinkFrame_off {s : State} {q : Nat} (h : blkOn s (pgSPRT q) = false) : downlinkFrame s q = s := by
  simp [downlinkFrame, h]

theorem moveAdv_frame (x : SprtState) : (moveAdv x).frame = x.frame := by
  unfold moveAdv
  dsimp only
  split
  · rfl
  · split <;> rfl

theorem downlinkFrame_frame {s : State} {q : Nat} (hs : Shaped s) (hq : q < 8) (hon : blkOn s (pgSPRT q) = true) :
    (sprtOf (downlinkFrame s q) q).frame = now s / 10 + 1 := by
  rw [downlinkFrame, hon, Bool.not_true, if_neg Bool.false_ne_true]
  extract_lets f s1 x s2 s3
  have hs1 : Shaped s1 := by
    dsimp only [s1]
    split
    · exact shaped_enterTrain s q hs
    · exact hs
  have hs2 : Shaped s2 := by
    dsimp only [s2]
    split
    · exact shaped_enterRunSp s1 q hs1
    · exact hs1
  have hs3 : Shaped s3 := shaped_nextSet s2 q hs2
  rw [sprtOf_same _ hs3 hq]
  exact moveAdv_frame _

/-- A frame with a bad CRC in TRAIN. -/
def badCounted (s : State) (q : Nat) : State :=
  onSprt (bumpSat s (SPRT.CRC_ERR q) 0 32 1) q (fun x => { x with good := 0, bad := x.bad + 1 })

theorem uplinkFrame_bad {s : State} {q : Nat} {u : Uplink} (hon : blkOn s (pgSPRT q) = true) (hst : (sprtOf s q).st = Sp.TRAIN)
    (hbad : u.good = false) : uplinkFrame s q u = badCounted s q := by
  simp [uplinkFrame, hon, hst, hbad, badCounted]

theorem badCounted_leaves {s : State} {q : Nat} (hs : Shaped s) (hwf : regsWf s = true) (hq : q < 8) :
    SameBut [.regs, .sports] s (badCounted s q) ∧ RegsBut [SPRT.CRC_ERR q] s (badCounted s q) ∧
      rd (badCounted s q) (SPRT.CRC_ERR q) =
        setFld (rd s (SPRT.CRC_ERR q)) 0 32 (min (rdf s (SPRT.CRC_ERR q) 0 32 + 1) (2 ^ 32 - 1)) ∧
      sprtOf (badCounted s q) q = { sprtOf s q with good := 0, bad := (sprtOf s q).bad + 1 } :=
  ⟨frame_onSprt _ _ _ (by decide) (sameBut_bumpSat _ _ _ _ _ (by decide)), (regsBut_bumpSat s _ _ _ _).trans (regsBut_of_same _ rfl),
    rd_wr_same _ _ hwf, sprtOf_same _ (shaped_bumpSat _ _ _ _ _ hs) hq⟩

/-- A good frame counted, with its fault flag. -/
def goodCounted (s : State) (q : Nat) (u : Uplink) : State :=
  evtIf u.fault (onSprt s q (fun x => { x with bad := 0, good := if u.ready then x.good + 1 else 0, fault := u.fault })) (pgSPRT q) 4

/-- The end of TRAIN after 64 good frames in a row. -/
def trainStep (s : State) (q : Nat) : State :=
  if 64 ≤ (sprtOf s q).good then onSprt s q (fun x => { x with st := Sp.MEASURE, rttSum := 0, rttCount := 0 }) else s

theorem goodCounted_leaves {s : State} {q : Nat} (u : Uplink) (hs : Shaped s) (hq : q < 8) :
    SameBut [.regs, .sports] s (goodCounted s q u) ∧ RegsBut [hdr (pgSPRT q) Hdr.EVT] s (goodCounted s q u) ∧
      sprtOf (goodCounted s q u) q = { sprtOf s q with
        bad := 0, good := if u.ready then (sprtOf s q).good + 1 else 0, fault := u.fault } := by
  refine ⟨frame_evtIf _ _ _ _ (by decide) (frame_onSprt _ _ _ (by decide) (SameBut.refl _ _)),
    (regsBut_of_same _ rfl).trans (regsBut_evtIf _ (onSprt s q _) _ _), ?_⟩
  rw [goodCounted, sprtOf_evtIf]
  exact sprtOf_same _ hs hq

theorem shaped_goodCounted {s : State} (q : Nat) (u : Uplink) (hs : Shaped s) : Shaped (goodCounted s q u) :=
  shaped_evtIf _ _ _ _ (shaped_onSprt s q _ hs)

theorem trainStep_leaves {s : State} {q : Nat} (hs : Shaped s) (hq : q < 8) : SameBut [.sports] s (trainStep s q) ∧
    (sprtOf (trainStep s q) q).good = (sprtOf s q).good ∧ (sprtOf (trainStep s q) q).bad = (sprtOf s q).bad ∧
    (sprtOf (trainStep s q) q).fault = (sprtOf s q).fault ∧ (sprtOf (trainStep s q) q).cmd = (sprtOf s q).cmd ∧
    (sprtOf (trainStep s q) q).st = if 64 ≤ (sprtOf s q).good then Sp.MEASURE else (sprtOf s q).st := by
  unfold trainStep
  split
  · obtain ⟨hframe, hsame, -⟩ := onSprt_leaves (q := q) (fun x => { x with st := Sp.MEASURE, rttSum := 0, rttCount := 0 }) hs hq
    rw [hsame]
    exact ⟨hframe, rfl, rfl, rfl, rfl, rfl⟩
  · exact ⟨SameBut.refl _ _, rfl, rfl, rfl, rfl, rfl⟩

theorem sprtResponse_none {s : State} {q : Nat} {u : Uplink} (h : (sprtOf s q).cmd = none) : sprtResponse s q u = s := by
  rw [sprtResponse, h]

theorem uplinkFrame_good {s : State} {q : Nat} {u : Uplink} (hs : Shaped s) (hq : q < 8) (hon : blkOn s (pgSPRT q) = true)
    (hst : (sprtOf s q).st = Sp.TRAIN) (hgood : u.good = true) (hcmd : (sprtOf s q).cmd = none) :
    uplinkFrame s q u = trainStep (goodCounted s q u) q := by
  have hnone : (sprtOf (trainStep (goodCounted s q u) q) q).cmd = none := by
    rw [(trainStep_leaves (shaped_goodCounted q u hs) hq).2.2.2.2.1, (goodCounted_leaves u hs hq).2.2]
    exact hcmd
  have htaken : uplinkFrame s q u = sprtResponse (trainStep (goodCounted s q u) q) q u := by
    have hruns : ¬ ((!blkOn s (pgSPRT q)) = true ∨ (sprtOf s q).st = Sp.OFF) := by simp [hon, hst]
    have hseq : (u.good && (decide ((sprtOf s q).st = Sp.CONFIG ∨ (sprtOf s q).st = Sp.RUN) ||
        (decide ((sprtOf s q).st = Sp.HOLD) && identOk (sprtOf s q))) &&
        decide (u.fs ≠ BitVec.ofNat 16 ((sprtOf s q).frame - idLat (sprtOf s q)))) = false := by simp [hst]
    have hrun : ¬ (sprtOf s q).st = Sp.RUN := by simp [hst]
    rw [uplinkFrame]
    dsimp only
    rw [if_neg hruns, hseq, hgood, if_pos rfl, if_neg Bool.false_ne_true, if_neg (by simp), if_pos hst, if_neg hrun]
    rfl
  rw [htaken, sprtResponse_none hnone]

-- commands (R677)

theorem exec_commandResend_due {s : State} {q : Fin 8} {c : SprtCmd} (hcmd : (sprtOf s q).cmd = some c) (hdue : c.due = false)
    (hlate : c.sent + 100 ≤ (sprtOf s q).frame) : exec (.commandResend q) s = .next (
      if c.resends < 3 then onSprt s q (fun x => { x with cmd := some { c with due := true, resends := c.resends + 1 } })
      else
        let t := onSprt s q (fun x => { x with cmd := none, resp := word (c.tag + 2 ^ 17) })
        if c.op = 0x01 then evt (onSprt t q (fun x => { x with st := Sp.HOLD })) (pgSPRT q) 3
        else if c.op = 0x02 then setFailed t q c
        else evt t (pgSPRT q) 6) := by
  have hwait : ¬ (c.due = true ∨ (sprtOf s q).frame < c.sent + 100) := by
    rw [hdue]
    rintro (h | h)
    · exact Bool.false_ne_true h
    · omega
  refine congrArg Host.Outcome.next ?_
  rw [hcmd]
  exact if_neg hwait

/-- The command that SEND_COMMAND sends. -/
def hostCmd (s : State) (q : Nat) : SprtCmd :=
  { tag := (sprtOf s q).tag % 255 + 1, op := rdf s (SPRT.CMD_OP q) 0 8
    args := (List.range 8).map (fun i => rd s (SPRT.CMD_ARG q i)), host := true, chan := 0 }

def commandSent (s : State) (q : Nat) : State :=
  onSprt (newCmd s q (rdf s (SPRT.CMD_OP q) 0 8) ((List.range 8).map (fun i => rd s (SPRT.CMD_ARG q i))) true 0) q
    (fun x => { x with resp := 0 })

theorem sendCommand_busy {s : State} {w : Who} {q : Nat} (h : (sprtOf s q).cmd ≠ none) :
    sendCommand s w q = refuse s w (SPRT.CTRL q) ⟨Rsn.BUSY, none⟩ := by
  simp [sendCommand, firstSome, rejIf, Option.isSome_iff_ne_none.2 h]

theorem sendCommand_free {s : State} {w : Who} {q : Nat} (h : (sprtOf s q).cmd = none) (hone : rdf s (SPRT.CMD_OP q) 0 8 ≠ 1)
    (htwo : rdf s (SPRT.CMD_OP q) 0 8 ≠ 2) : sendCommand s w q = commandSent s q := by
  simp [sendCommand, firstSome, rejIf, h, hone, htwo, commandSent]

theorem commandSent_leaves {s : State} {q : Nat} (hs : Shaped s) (hq : q < 8) : SameBut [.sports] s (commandSent s q) ∧
    (sprtOf (commandSent s q) q).cmd = some (hostCmd s q) ∧ (sprtOf (commandSent s q) q).resp = 0 ∧
    ∀ o, o ≠ q → sprtOf (commandSent s q) o = sprtOf s o := by
  have hnew : Shaped (newCmd s q (rdf s (SPRT.CMD_OP q) 0 8) ((List.range 8).map (fun i => rd s (SPRT.CMD_ARG q i))) true 0) :=
    shaped_newCmd s q _ _ _ _ hs
  have hcmd : (sprtOf (newCmd s q (rdf s (SPRT.CMD_OP q) 0 8) ((List.range 8).map (fun i => rd s (SPRT.CMD_ARG q i))) true 0) q).cmd =
      some (hostCmd s q) := by
    rw [newCmd, sprtOf_same _ hs hq]
    rfl
  have hsame : sprtOf (commandSent s q) q = _ := sprtOf_same _ hnew hq
  refine ⟨frame_onSprt _ _ _ (List.Subset.refl _) (frame_newCmd _ _ _ _ _ _ (List.Subset.refl _) (SameBut.refl _ _)), ?_, ?_,
    fun o ho => (sprtOf_other _ ho).trans (sprtOf_other _ ho)⟩
  · rw [hsame]
    exact hcmd
  · rw [hsame]

/-- Settles O44: the code groups, then frames, commands and the three controls of a port. -/
theorem sensorPorts : Obligations.SensorPorts := by
  unfold Obligations.SensorPorts
  refine ⟨fun pos l hl => portBytes_portGroups pos hl, fun s q l rtt hl => uplinkHeard_portGroups s q rtt hl,
    fun s p q hshape hmem => ?_⟩
  have hs := (shaped_iff s).1 hshape
  have hwf := regsWf_of_memoryWf hmem
  refine ⟨fun hoff => ⟨congrArg Host.Outcome.next (downlinkFrame_off hoff), fun g rtt => ?_⟩, fun hon => ?_,
    fun g rtt hon hst hbad => ?_, fun g rtt u hu hon hst hgood hcmd => ?_,
    fun c hcmd hdue hlate => ⟨fun hfew => ?_, fun hmany hone htwo => ?_⟩,
    fun hpass => ⟨fun hbusy => ?_, fun hfree hone htwo => ?_, fun hhold => ?_, fun hhold => ?_, fun hoff => ?_, fun hoff => ?_⟩⟩
  · rw [exec_uplinkFrame, uplinkFrame_off _ ((blkOn_uplinkEnd s q g _).trans hoff)]
    rfl
  · exact ⟨_, rfl, sameBut_of_exec (c := .downlinkFrame q) rfl, downlinkFrame_frame hs q.isLt hon⟩
  · obtain ⟨hend, hshaped, hport⟩ := uplinkEnd_leaves g hs q.isLt
    have hwf' : regsWf (uplinkEnd s q g) = true := hwf
    obtain ⟨hframe, hregs, hcount, hsame⟩ := badCounted_leaves hshaped hwf' q.isLt
    rw [exec_uplinkFrame, uplinkFrame_bad ((blkOn_uplinkEnd s q g _).trans hon) (by rw [hport]; exact hst) hbad]
    rw [hport] at hsame
    refine ⟨_, rfl, (hend.mono (by decide)).trans hframe, (RegsBut.of_sameBut hend (by decide)).trans hregs, hcount, ?_⟩
    rw [hsame]
    exact ⟨rfl, rfl, hst⟩
  · subst hu
    obtain ⟨hend, hshaped, hport⟩ := uplinkEnd_leaves g hs q.isLt
    obtain ⟨hframe, hregs, hsame⟩ := goodCounted_leaves (uplinkHeard s q g rtt) hshaped q.isLt
    obtain ⟨htframe, htgood, htbad, htfault, -, htst⟩ := trainStep_leaves (shaped_goodCounted q (uplinkHeard s q g rtt) hshaped) q.isLt
    rw [exec_uplinkFrame, uplinkFrame_good hshaped q.isLt ((blkOn_uplinkEnd s q g _).trans hon) (by rw [hport]; exact hst) hgood
      (by rw [hport]; exact hcmd)]
    refine ⟨_, _, rfl, (hend.mono (by decide)).trans (hframe.trans (htframe.mono (by decide))),
      (RegsBut.of_sameBut hend (by decide)).trans (hregs.trans (RegsBut.of_sameBut htframe (by decide))), rfl, ?_⟩
    rw [htgood, htbad, htfault, htst, hsame, hport]
    exact ⟨rfl, rfl, rfl, by rw [hst]⟩
  · rw [exec_commandResend_due hcmd hdue hlate, if_pos hfew]
    exact ⟨_, rfl, onSprt_leaves _ hs q.isLt⟩
  · rw [exec_commandResend_due hcmd hdue hlate, if_neg (Nat.not_lt.mpr hmany)]
    dsimp only
    rw [if_neg hone, if_neg htwo]
  · exact congrArg Host.Outcome.next ((gated_of_passes _ hpass).trans (sendCommand_busy hbusy))
  · obtain ⟨hframe, hcmd, hresp, hother⟩ := commandSent_leaves hs q.isLt
    exact ⟨_, _, congrArg Host.Outcome.next ((gated_of_passes _ hpass).trans (sendCommand_free hfree hone htwo)), hframe, hcmd,
      rfl, rfl, rfl, rfl, hresp, hother⟩
  · refine ⟨_, congrArg Host.Outcome.next ((gated_of_passes _ hpass).trans (if_pos hhold)),
      frame_enterConfig s q (List.Subset.refl _) (SameBut.refl _ _), ?_⟩
    exact congrArg SprtState.st (sprtOf_same _ (shaped_drawn s hs) q.isLt)
  · exact congrArg Host.Outcome.next ((gated_of_passes _ hpass).trans (if_neg hhold))
  · obtain ⟨hframe, hsame, hother⟩ := onSprt_leaves (q := q) (fun x => { x with
      st := Sp.TRAIN, good := 0, bad := 0, rttSum := 0, rttCount := 0, sets := [], cmd := x.cmd.filter (·.host) }) hs q.isLt
    exact ⟨_, congrArg Host.Outcome.next ((gated_of_passes _ hpass).trans (if_neg hoff)), hframe, congrArg SprtState.st hsame, hother⟩
  · exact congrArg Host.Outcome.next ((gated_of_passes _ hpass).trans (if_pos hoff))

end Sys2Proof.Machine
end

section
/-!
PROOF. O45: a frame on the line of a lighting chain brings each driver its outputs; the sends and frames of a chain, the level
memory and the strobes.
-/
namespace Sys2Proof.Machine

-- the line of a chain (R686 to R691)

/-- The pulses of data bits. -/
def bitPulses (l : List Bool) : List Pulse := l.map (fun b => Pulse.sym (.bit b))

/-- The pulses of a whole frame of data bits. -/
def bitsFrame (l : List Bool) : List Pulse := .sym .start :: (bitPulses l ++ [.sym .apply])

theorem framePulses_eq (outs : List Nat) : framePulses outs = bitsFrame (outs.flatMap outBits) := by
  have hbit (b : Bool) : pulseOf (LineSym.bit b).lowNs = .sym (.bit b) := by cases b <;> rfl
  simp only [framePulses, frameSyms, bitsFrame, bitPulses, List.cons_append, List.map_cons, List.map_append, List.map_map,
    Function.comp_def, hbit, List.map_nil]
  rfl

theorem run_append (d : Driver) (a b : List Pulse) :
    d.run (a ++ b) = (((d.run a).1.run b).1, (d.run a).2 ++ ((d.run a).1.run b).2) := by
  induction a generalizing d with
  | nil => rfl
  | cons p a ih => simp only [List.cons_append, Driver.run, ih, List.append_assoc]

/-- A driver that has heard the start mark takes bits up to 48 and forwards the rest (R689, R690). -/
theorem run_bits {d : Driver} (l : List Bool) (hwaits : d.waits = false) (hbroken : d.broken = false) :
    d.run (bitPulses l) = ({ d with taken := d.taken ++ l.take (48 - d.taken.length) }, bitPulses (l.drop (48 - d.taken.length))) := by
  induction l generalizing d with
  | nil =>
    rw [List.take_nil, List.append_nil, List.drop_nil]
    rfl
  | cons b l ih =>
    have hhears : ¬ (d.waits = true ∨ d.broken = true) := by simp [hwaits, hbroken]
    rw [bitPulses, List.map_cons, Driver.run, Driver.pulse, if_neg hhears]
    split
    next hroom =>
      have hrest := ih (d := { d with taken := d.taken ++ [b] }) hwaits hbroken
      have hone : 48 - d.taken.length = (48 - (d.taken ++ [b]).length) + 1 := by
        rw [List.length_append, List.length_singleton]
        omega
      rw [bitPulses] at hrest
      rw [hone, List.take_succ_cons, List.drop_succ_cons, hrest]
      simp
    next hfull =>
      have hrest := ih hwaits hbroken
      have hnone : 48 - d.taken.length = 0 := by omega
      rw [bitPulses] at hrest
      rw [hrest, hnone]
      rfl

/-- A frame of at least 48 bits at a driver that has met no bit error: it takes the first 48, and the next driver hears a frame of
the rest. -/
theorem run_bitsFrame {d : Driver} {l : List Bool} (hbroken : d.broken = false) (hl : 48 ≤ l.length) :
    d.run (bitsFrame l) = (⟨[], true, false, l.take 48⟩, bitsFrame (l.drop 48)) := by
  have hstart : d.pulse (.sym .start) = ({ d with taken := [], waits := false }, some (.sym .start)) := by
    simp [Driver.pulse, hbroken]
  have hlen : (l.take 48).length = 48 := List.length_take_of_le hl
  rw [bitsFrame, Driver.run, hstart]
  dsimp only
  rw [run_append, run_bits (d := { d with taken := [], waits := false }) l rfl hbroken]
  simp [Driver.run, Driver.pulse, Driver.drop, bitsFrame, hlen, hbroken]

theorem length_outBits (v : Nat) : (outBits v).length = 16 := by simp [outBits]

theorem length_flatMap_outBits (l : List Nat) : (l.flatMap outBits).length = 16 * l.length := by
  simp [List.length_flatMap, length_outBits, Nat.mul_comm]

/-- The first 48 bits of a frame are the outputs of its first driver. -/
theorem outBits_split {outs : List Nat} (h : 3 ≤ outs.length) : (outs.flatMap outBits).take 48 = (outs.take 3).flatMap outBits ∧
    (outs.flatMap outBits).drop 48 = (outs.drop 3).flatMap outBits := by
  have hlen : ((outs.take 3).flatMap outBits).length = 48 := by
    rw [length_flatMap_outBits, List.length_take_of_le h]
  have hsplit : outs.flatMap outBits = (outs.take 3).flatMap outBits ++ (outs.drop 3).flatMap outBits := by
    rw [← List.flatMap_append, List.take_append_drop]
  rw [hsplit]
  exact ⟨List.take_left' hlen, List.drop_left' hlen⟩

/-- A frame brings each driver of the chain its three outputs (R691, R692). -/
theorem chainRun_frame (ds : List Driver) : ∀ outs : List Nat, (∀ d ∈ ds, d.broken = false) → outs.length = 3 * ds.length →
    chainRun ds (framePulses outs) =
      (List.range ds.length).map (fun i => ⟨[], true, false, ((outs.drop (3 * i)).take 3).flatMap outBits⟩) := by
  induction ds with
  | nil => exact fun _ _ _ => rfl
  | cons d ds ih =>
    intro outs hgood hlen
    rw [List.length_cons] at hlen
    have hthree : 3 ≤ outs.length := by omega
    obtain ⟨htake, hdrop⟩ := outBits_split hthree
    have hbits : 48 ≤ (outs.flatMap outBits).length := by
      rw [length_flatMap_outBits]
      omega
    have hrest := ih (outs.drop 3) (fun x hx => hgood x (List.mem_cons_of_mem _ hx)) (by rw [List.length_drop]; omega)
    rw [framePulses_eq] at hrest
    rw [framePulses_eq, chainRun, run_bitsFrame (hgood d List.mem_cons_self) hbits, htake, hdrop]
    dsimp only
    rw [hrest, List.length_cons, List.range_succ_eq_map, List.map_cons, List.map_map]
    refine congrArg₂ _ (by rw [Nat.mul_zero, List.drop_zero]) (List.map_congr_left fun i _ => ?_)
    rw [Function.comp_apply, List.drop_drop, show 3 + 3 * i = 3 * (i + 1) by omega]

-- sends (R698, R701)

theorem liteBusy_frame {s : State} {x : Nat} (h : (liteOf s x).frame ≠ none) : liteBusy s x = some ⟨Rsn.BUSY, none⟩ := by
  simp [liteBusy, rejIf, Option.isSome_iff_ne_none.2 h]

theorem liteBusy_free {s : State} {x : Nat} (hframe : (liteOf s x).frame = none) (hsched : (liteOf s x).sched = none)
    (hdue : (liteOf s x).due = none) : liteBusy s x = none := by
  simp [liteBusy, rejIf, hframe, hsched, hdue]

theorem sendNow_busy {s : State} {w : Who} {x : Nat} (h : (liteOf s x).frame ≠ none) :
    sendNow s w x = refuse s w LITE.CTRL ⟨Rsn.BUSY, none⟩ := by
  rw [sendNow, liteBusy_frame h, checked_some]

theorem sendToLatch_busy {s : State} {w : Who} {x : Nat} (h : (liteOf s x).frame ≠ none) :
    sendToLatch s w x = refuse s w LITE.CTRL ⟨Rsn.BUSY, none⟩ := by
  rw [sendToLatch, liteBusy_frame h]
  rfl

section
variable {s : State} {x : Nat} (hbusy : liteBusy s x = none)
include hbusy

theorem sendToLatch_noGrid {w : Who} (hgrid : gridValid s = false) :
    sendToLatch s w x = refuse s w LITE.CTRL ⟨Rsn.NOGRID, none⟩ := by
  rw [sendToLatch, hbusy, hgrid]
  rfl

variable (hlen : ldLength s x ≠ 0)
include hlen

theorem sendNow_free {w : Who} : sendNow s w x = onLite s x (fun l => { l with due := some (s.time.now + 1) }) := by
  rw [sendNow, hbusy, checked_none, if_neg hlen]

theorem sendToLatch_free {w : Who} (hgrid : gridValid s = true)
    (hahead : now s + 1 + (280 + 768 * ldLength s x) < rd64 s LITE.LATCH_AT_LO) : sendToLatch s w x =
      onLite s x (fun l => { l with sched := some (rd64 s LITE.LATCH_AT_LO - (280 + 768 * ldLength s x)) }) := by
  have hpast : ¬ rd64 s LITE.LATCH_AT_LO ≤ now s + 1 + (280 + 768 * ldLength s x) := Nat.not_le.mpr hahead
  rw [sendToLatch, hbusy, hgrid, decide_eq_false hpast]
  exact if_neg hlen

end

-- frames (R692, R693, R699)

theorem startFrame_leaves {s : State} {x : Nat} (hs : Shaped s) (hx : x < 8) : SameBut [.lites] s (startFrame s x) ∧
    (liteOf (startFrame s x) x).frame = some (frameOuts s x) ∧ (liteOf (startFrame s x) x).begun = some s.time.now := by
  have hsame : liteOf (startFrame s x) x = _ := liteOf_same _ hs hx
  rw [hsame]
  exact ⟨frame_onLite _ _ _ (List.Subset.refl _) (SameBut.refl _ _), rfl, rfl⟩

/-- The frame that ran is counted, and the line rests. -/
def frameEnded (s : State) (x : Nat) : State := evt (onLite s x (fun l => { l with
  frame := none, frames := (l.frames + 1) % 2 ^ 16, line := decide (ldLength s x ≠ 0), since := s.time.now })) pgLITE x

theorem exec_frameDone {s : State} {x : Fin 8} (h : frameOver s (liteOf s x) = true) :
    exec (.frameDone x) s = .next (frameEnded s x) := congrArg Host.Outcome.next (when_of h)

theorem frameEnded_leaves {s : State} {x : Nat} (hs : Shaped s) (hx : x < 8) : SameBut [.lites, .regs] s (frameEnded s x) ∧
    (liteOf (frameEnded s x) x).frame = none ∧ (liteOf (frameEnded s x) x).frames = ((liteOf s x).frames + 1) % 2 ^ 16 ∧
    (∀ o, o ≠ x → liteOf (frameEnded s x) o = liteOf s o) ∧ RegsBut [hdr pgLITE Hdr.EVT] s (frameEnded s x) := by
  have hsame : liteOf (frameEnded s x) x = _ := liteOf_same (fun l => { l with
    frame := none, frames := (l.frames + 1) % 2 ^ 16, line := decide (ldLength s x ≠ 0), since := s.time.now }) hs hx
  rw [hsame]
  exact ⟨frame_evt _ _ _ (by decide) (frame_onLite _ _ _ (by decide) (SameBut.refl _ _)), rfl, rfl,
    fun o ho => liteOf_other _ ho, (regsBut_of_same _ rfl).trans (regsBut_evt _ _ _)⟩

theorem frameOver_iff {s : State} {l : LiteState} {outs : List Nat} {t : Nat} (hframe : l.frame = some outs) (hbegun : l.begun = some t) :
    frameOver s l = decide (t + 280 + 256 * outs.length ≤ s.time.now) := by
  have hover : frameOver s l = decide (t + frameTicks outs ≤ s.time.now) := by
    rw [frameOver, hframe, hbegun]
    rfl
  rw [hover, frameTicks, ← Nat.add_assoc]

-- the level memory (R709)

theorem lvlAdvance_leaves (s : State) : SameBut [.regs] s (lvlAdvance s) ∧ RegsBut [LITE.LVL_ADDR] s (lvlAdvance s) :=
  ⟨sameBut_wr _ _ _ (by decide), regsBut_wr _ _ _⟩

theorem lvlWrite_leaves (s : State) (v : Word) : SameBut [.levels, .regs] s (lvlWrite s v) ∧
    (lvlWrite s v).levels = sparsePut s.levels 0 (lvlKey s) (fld v 0 16) ∧ RegsBut [LITE.LVL_ADDR] s (lvlWrite s v) :=
  ⟨frame_lvlWrite s v (by decide) (SameBut.refl _ _), rfl, (regsBut_of_same _ rfl).trans (lvlAdvance_leaves _).2⟩

-- strobes (R703 to R706)

theorem onStrobe_leaves {s : State} {x : Nat} (f : StrobeState → StrobeState) (hs : Shaped s) (hx : x < 8) :
    SameBut [.strobes] s (onStrobe s x f) ∧ strobeOf (onStrobe s x f) x = f (strobeOf s x) ∧
      ∀ o, o ≠ x → strobeOf (onStrobe s x f) o = strobeOf s o :=
  ⟨frame_onStrobe _ _ _ (List.Subset.refl _) (SameBut.refl _ _), strobeOf_same _ hs hx, fun _ ho => strobeOf_other _ ho⟩

/-- A strobe armed, with the firing that is known. -/
def strobeArmed (s : State) (x : Nat) : State := onStrobe s x (fun t => { t with
  armed := true, fires := if bit (stCfg s x) 1 then [] else [rd64 s (LITE.ST_AT_LO x)] })

theorem strobeArm_free {s : State} {w : Who} {x : Nat} (hperiod : stPeriod s x = 0)
    (h : bit (stCfg s x) 1 = true ∨ (gridValid s = true ∧ now s + 1 < rd64 s (LITE.ST_AT_LO x))) :
    strobeArm s w x = strobeArmed s x := by
  have hchecks : firstSome [rejIf (!bit (stCfg s x) 1 && !gridValid s) Rsn.NOGRID,
      rejIf (!bit (stCfg s x) 1 && decide (rd64 s (LITE.ST_AT_LO x) ≤ now s + 1)) Rsn.PAST,
      rejIf (decide (stPeriod s x ≠ 0 ∧ stPeriod s x * 80 < stWidth s x + 80)) 0x42] = none := by
    rcases h with hsrc | ⟨hgrid, hahead⟩
    · simp [firstSome, rejIf, hperiod, hsrc]
    · simp [firstSome, rejIf, hperiod, hgrid, Nat.not_le.mpr hahead]
  rw [strobeArm, hchecks, checked_none]
  rfl

theorem strobeArmed_leaves {s : State} {x : Nat} (hs : Shaped s) (hx : x < 8) : SameBut [.strobes] s (strobeArmed s x) ∧
    (strobeOf (strobeArmed s x) x).armed = true ∧
    (strobeOf (strobeArmed s x) x).fires = if bit (stCfg s x) 1 then [] else [rd64 s (LITE.ST_AT_LO x)] := by
  have hsame : strobeOf (strobeArmed s x) x = _ := strobeOf_same _ hs hx
  rw [hsame]
  exact ⟨frame_onStrobe _ _ _ (List.Subset.refl _) (SameBut.refl _ _), rfl, rfl⟩

/-- A strobe that fires at index `n`. -/
def strobeFired (s : State) (x n : Nat) (rest : List Nat) : State := evt (onStrobe (strobeNext s x n rest) x (fun t => { t with
  active := true, endsAt := strobeTime s x n + 81920 * stWidth s x, firings := (t.firings + 1) % 2 ^ 16 })) pgLITE (8 + x)

theorem exec_strobeFire {s : State} {x : Fin 8} {n : Nat} {rest : List Nat} (hfires : (strobeOf s x).fires = n :: rest)
    (hwidth : stWidth s x ≠ 0) (hdue : n ≤ now s) : exec (.strobeFire x) s = .next (
      if ((strobeOf s x).active ∧ strobeTime s x n < (strobeOf s x).endsAt) ∨ n < now s then strobeLate (strobeNext s x n rest) x
      else strobeFired s x n rest) := by
  refine congrArg Host.Outcome.next ?_
  rw [hfires]
  exact (if_neg (Nat.not_lt.mpr hdue)).trans (if_neg hwidth)

theorem strobeFired_leaves {s : State} {x : Nat} (n : Nat) (rest : List Nat) (hs : Shaped s) (hx : x < 8) :
    SameBut [.strobes, .regs] s (strobeFired s x n rest) ∧ (strobeOf (strobeFired s x n rest) x).active = true ∧
      (strobeOf (strobeFired s x n rest) x).endsAt = strobeTime s x n + 81920 * stWidth s x ∧
      (strobeOf (strobeFired s x n rest) x).firings = ((strobeOf s x).firings + 1) % 2 ^ 16 ∧
      RegsBut [hdr pgLITE Hdr.EVT] s (strobeFired s x n rest) := by
  have hnext : SameBut [.strobes] s (strobeNext s x n rest) := frame_strobeNext s x n rest (List.Subset.refl _) (SameBut.refl _ _)
  have hsame : strobeOf (strobeFired s x n rest) x = { strobeOf (strobeNext s x n rest) x with
      active := true, endsAt := strobeTime s x n + 81920 * stWidth s x
      firings := ((strobeOf (strobeNext s x n rest) x).firings + 1) % 2 ^ 16 } := strobeOf_same _ (shaped_strobeNext s x n rest hs) hx
  have hsteps : strobeOf (strobeNext s x n rest) x = { strobeOf s x with
      fires := if stPeriod s x ≠ 0 then addFire rest (n + stPeriod s x) else rest
      armed := (strobeOf s x).armed && (bit (stCfg s x) 1 || decide (stPeriod s x ≠ 0)) } := strobeOf_same _ hs hx
  rw [hsame, hsteps]
  exact ⟨frame_evt _ _ _ (by decide) (frame_onStrobe _ _ _ (by decide) (hnext.mono (by decide))), rfl, rfl, rfl,
    (RegsBut.of_sameBut hnext (by decide)).trans ((regsBut_of_same _ rfl).trans (regsBut_evt _ _ _))⟩

/-- Settles O45: the line of a chain, then sends, frames, levels and strobes. -/
theorem lightingAndStrobes : Obligations.LightingAndStrobes := by
  unfold Obligations.LightingAndStrobes
  refine ⟨fun ds outs hgood hlen => chainRun_frame ds outs hgood hlen, fun s p x hshape _ => ?_⟩
  have hs := (shaped_iff s).1 hshape
  refine ⟨fun hpass => ⟨fun hframe => ⟨?_, ?_⟩, fun hframe hsched hdue hlen => ⟨?_, fun hgrid hahead => ?_, fun hgrid => ?_⟩,
      congrArg Host.Outcome.next (gated_of_passes _ hpass)⟩,
    fun hframe hlen hrest => ⟨fun n hdue hn => ?_, fun hrefresh hsched => ?_, startFrame_leaves hs x.isLt⟩,
    fun outs t hframe hbegun => ⟨fun hearly => ?_, fun hover => ⟨_, exec_frameDone ?_, frameEnded_leaves hs x.isLt⟩⟩,
    fun v hpass => ⟨_, congrArg Host.Outcome.next (gated_of_passes _ hpass), lvlWrite_leaves s v⟩,
    fun hready => congrArg Host.Outcome.next (if_pos hready),
    fun hpass => ⟨fun hsrc hperiod => ?_, fun hsrc hgrid hahead hperiod => ?_, ?_⟩,
    fun n rest hfires hwidth => ⟨fun hnow hidle => ?_, fun hlate => ?_⟩, fun hend => ?_, fun hend => ?_⟩
  · exact congrArg Host.Outcome.next ((gated_of_passes _ hpass).trans (sendNow_busy hframe))
  · exact congrArg Host.Outcome.next ((gated_of_passes _ hpass).trans (sendToLatch_busy hframe))
  · exact congrArg Host.Outcome.next ((gated_of_passes _ hpass).trans (sendNow_free (liteBusy_free hframe hsched hdue) hlen))
  · exact congrArg Host.Outcome.next ((gated_of_passes _ hpass).trans
      (sendToLatch_free (liteBusy_free hframe hsched hdue) hlen hgrid hahead))
  · exact congrArg Host.Outcome.next ((gated_of_passes _ hpass).trans (sendToLatch_noGrid (liteBusy_free hframe hsched hdue) hgrid))
  · exact congrArg Host.Outcome.next (when_of (by simp [hframe, hlen, hrest, hdue, hn]))
  · exact congrArg Host.Outcome.next (when_of (by simp [hframe, hlen, hrest, hrefresh, hsched]))
  · refine congrArg Host.Outcome.next (when_not ?_)
    rw [frameOver_iff hframe hbegun, decide_eq_false (Nat.not_le.mpr hearly)]
  · rw [frameOver_iff hframe hbegun, decide_eq_true hover]
  · obtain ⟨hsame, harmed, hfires⟩ := strobeArmed_leaves hs x.isLt
    rw [if_pos hsrc] at hfires
    exact ⟨_, congrArg Host.Outcome.next ((gated_of_passes _ hpass).trans (strobeArm_free hperiod (Or.inl hsrc))), hsame,
      harmed, hfires⟩
  · obtain ⟨hsame, harmed, hfires⟩ := strobeArmed_leaves hs x.isLt
    rw [hsrc, if_neg Bool.false_ne_true] at hfires
    exact ⟨_, congrArg Host.Outcome.next ((gated_of_passes _ hpass).trans (strobeArm_free hperiod (Or.inr ⟨hgrid, hahead⟩))),
      hsame, harmed, hfires⟩
  · obtain ⟨hframe, hsame, -⟩ := onStrobe_leaves (x := x) (fun t => { t with armed := false, fires := [] }) hs x.isLt
    exact ⟨_, congrArg Host.Outcome.next (gated_of_passes _ hpass), hframe, congrArg StrobeState.armed hsame,
      congrArg StrobeState.fires hsame⟩
  · have hfree : ¬ (((strobeOf s x).active = true ∧ strobeTime s x n < (strobeOf s x).endsAt) ∨ n < now s) := by
      rintro (⟨hactive, hlt⟩ | hlt)
      · rcases hidle with h | h
        · exact absurd hactive (by simp [h])
        · omega
      · omega
    rw [exec_strobeFire hfires hwidth (Nat.le_of_eq hnow), if_neg hfree]
    exact ⟨_, rfl, strobeFired_leaves n rest hs x.isLt⟩
  · have hle : n ≤ now s := by omega
    have hcond : ((strobeOf s x).active = true ∧ strobeTime s x n < (strobeOf s x).endsAt) ∨ n < now s := by
      rcases hlate with h | ⟨-, hactive, hlt⟩
      · exact Or.inr h
      · exact Or.inl ⟨hactive, hlt⟩
    rw [exec_strobeFire hfires hwidth hle, if_pos hcond]
  · obtain ⟨hframe, hsame, hother⟩ := onStrobe_leaves (x := x) (fun t => { t with active := false }) hs x.isLt
    exact ⟨_, congrArg Host.Outcome.next (when_of (decide_eq_true hend)), hframe, congrArg StrobeState.active hsame, hother⟩
  · exact congrArg Host.Outcome.next (when_not (decide_eq_false (Nat.not_lt.mpr hend)))

end Sys2Proof.Machine
end

section
/-!
PROOF. O46: the triggers and the runs of the calibration, and the supervision slots of the housekeeping converter.
-/
namespace Sys2Proof.Machine

theorem rdf_congr {s t : State} {a : Nat} (h : rd t a = rd s a) (lo n : Nat) : rdf t a lo n = rdf s a lo n := by rw [rdf, h, rdf]

/-- A trigger starts a run only with the band-gap in agreement and none running (R738, R740). -/
theorem calTrigger_idle {s : State} (hbg : calBgFail s = false) (hrun : calRunning s = false) : calTrigger s = calStart s := by
  rw [calTrigger, hbg, hrun]
  rfl

theorem calTrigger_running {s : State} (hbg : calBgFail s = false) (hrun : calRunning s = true) :
    calTrigger s = wr s CAL.STAT (setFld (rd s CAL.STAT) 3 1 1) := by
  rw [calTrigger, hbg, hrun]
  rfl

theorem calTrigger_bgFail {s : State} (hbg : calBgFail s = true) : calTrigger s = s := if_pos hbg

/-- CAL.STAT at the start of a run: running, and nothing merged into it (R737, R738). -/
def calBegun (s : State) : State := setCalStat (setCalStat s 0 true) 3 false

theorem regsBut_calBegun (s : State) : RegsBut [CAL.STAT] s (calBegun s) := (regsBut_wr s _ _).trans (regsBut_wr _ _ _)

theorem now_calBegun (s : State) : now (calBegun s) = now s :=
  now_congr rfl (regsBut_calBegun s _ (by decide)) (regsBut_calBegun s _ (by decide))

/-- The start of a run records its index and the temperatures, and nothing else (R737, R773). -/
theorem calStart_leaves {s : State} (hwf : regsWf s = true) :
    SameBut [.regs] s (calStart s) ∧ RegsBut [CAL.STAT, CAL.LAST_LO, CAL.LAST_LO + 4, CAL.T_CAL] s (calStart s) ∧
      rd (calStart s) CAL.LAST_LO = word (now s) ∧ rd (calStart s) (CAL.LAST_LO + 4) = word (now s / 2 ^ 32) ∧
      rd (calStart s) CAL.T_CAL = word (rdf s (HKC.TEMP 0) 0 16 + 2 ^ 16 * rdf s (HKC.TEMP 1) 0 16) := by
  have hbegun : regsWf (calBegun s) = true := regsWf_wr _ _ (regsWf_wr _ _ hwf)
  have hdated : RegsBut [CAL.STAT, CAL.LAST_LO, CAL.LAST_LO + 4] s (wr64 (calBegun s) CAL.LAST_LO (now (calBegun s))) :=
    ((regsBut_calBegun s).mono (by simp)).trans ((regsBut_wr64 _ _ _).mono (by simp))
  have htemp (i : Nat) (hi : i < 2) (lo n : Nat) :
      rdf (wr64 (calBegun s) CAL.LAST_LO (now (calBegun s))) (HKC.TEMP i) lo n = rdf s (HKC.TEMP i) lo n := by
    refine rdf_congr (hdated _ ?_) lo n
    simp only [List.mem_cons, List.not_mem_nil, or_false]
    unfold HKC.TEMP CAL.STAT CAL.LAST_LO
    omega
  obtain ⟨hlo, hhi⟩ := rd_wr64 CAL.LAST_LO (now (calBegun s)) hbegun
  refine ⟨frame_calStart s (by decide) (SameBut.refl _ _),
    (hdated.mono (by simp)).trans ((regsBut_wr _ _ _).mono (by simp)), ?_, ?_, ?_⟩
  · exact (rd_wr_other _ (by decide)).trans (hlo.trans (congrArg word (now_calBegun s)))
  · exact (rd_wr_other _ (by decide)).trans (hhi.trans (congrArg (fun n => word (n / 2 ^ 32)) (now_calBegun s)))
  · refine (rd_wr_same _ _ (regsWf_wr _ _ (regsWf_wr _ _ hbegun))).trans (congrArg word ?_)
    exact congrArg₂ (fun a b => a + 2 ^ 16 * b) (htemp 0 (by omega) 0 16) (htemp 1 (by omega) 0 16)

theorem regsBut_calTrigger (s : State) (hwf : regsWf s = true) :
    RegsBut [CAL.STAT, CAL.LAST_LO, CAL.LAST_LO + 4, CAL.T_CAL] s (calTrigger s) := by
  unfold calTrigger
  split_ifs
  · exact RegsBut.refl _ _
  · exact (regsBut_wr s _ _).mono (by simp)
  · obtain ⟨-, hregs, -⟩ := calStart_leaves hwf
    exact hregs

-- the supervision slots (R270)

/-- A supervision slot has given a temperature: TEMP i and TEMP_MAX as `top` leaves it. -/
def tempShown (s : State) (i : Nat) (value : BitVec 16) (top : Word) : State :=
  wr (wr s (HKC.TEMP i) (word value.toNat)) HKC.TEMP_MAX top

/-- A temperature of the last seconds is kept. -/
def tempKept (s : State) (i : Nat) (value : BitVec 16) : State :=
  { s with hkc := { s.hkc with temps := s.hkc.temps.modify i (fun l => pruneTemps (now s) ((now s, value) :: l)) } }

/-- A temperature is kept, and a holdover notes how far the temperatures have moved. -/
def tempNoted (s : State) (i : Nat) (value : BitVec 16) : State := noteHoldTemp (tempKept s i value)

theorem tempNoted_leaves (s : State) (i : Nat) (value : BitVec 16) :
    SameBut [.hkc, .time] s (tempNoted s i value) ∧ (tempNoted s i value).hkc.last = s.hkc.last := by
  have hnote := frame_noteHoldTemp (tempKept s i value) (fp := [.time]) (by decide) (SameBut.refl _ _)
  have hhkc : (tempNoted s i value).hkc = (tempKept s i value).hkc := hnote .hkc (by decide)
  have hlast : (tempNoted s i value).hkc.last = (tempKept s i value).hkc.last := congrArg HkcState.last hhkc
  exact ⟨frame_noteHoldTemp _ (by decide) (SameBut.set_hkc (by decide) (SameBut.refl _ _)), hlast⟩

/-- A temperature slot shows its value, keeps it, and asks for a run where a temperature has moved far enough. -/
theorem hkcSupervision_ts (s : State) (i : Fin 4) (value : BitVec 16) (agree : Bool) : ∃ top t,
    t = tempNoted (tempShown s i value top) i value ∧
    hkcSupervision s (.ts i) value agree = if calTemp t then calTrigger t else t := ⟨_, _, rfl, rfl⟩

theorem hkcSupervision_ts_leaves {s : State} (hwf : regsWf s = true) (i : Fin 4) (value : BitVec 16) (agree : Bool) :
    ∃ u, hkcSupervision s (.ts i) value agree = u ∧ SameBut [.regs, .hkc, .time] s u ∧
      RegsBut [HKC.TEMP i, HKC.TEMP_MAX, CAL.STAT, CAL.LAST_LO, CAL.LAST_LO + 4, CAL.T_CAL] s u ∧
      rd u (HKC.TEMP i) = word value.toNat ∧ u.hkc.last = s.hkc.last := by
  obtain ⟨top, t, ht, hcase⟩ := hkcSupervision_ts s i value agree
  have hi := i.isLt
  have hmax : HKC.TEMP i ≠ HKC.TEMP_MAX := by
    unfold HKC.TEMP HKC.TEMP_MAX
    omega
  have hrun : HKC.TEMP i ∉ [CAL.STAT, CAL.LAST_LO, CAL.LAST_LO + 4, CAL.T_CAL] := by
    simp only [List.mem_cons, List.not_mem_nil, or_false]
    unfold HKC.TEMP CAL.STAT CAL.LAST_LO CAL.T_CAL
    omega
  have hshown : regsWf (tempShown s i value top) = true := regsWf_wr _ _ (regsWf_wr _ _ hwf)
  have hread : rd (tempShown s i value top) (HKC.TEMP i) = word value.toNat :=
    (rd_wr_other _ hmax).trans (rd_wr_same _ _ hwf)
  have hwrites : RegsBut [HKC.TEMP i, HKC.TEMP_MAX] s (tempShown s i value top) :=
    ((regsBut_wr s _ _).mono (by simp)).trans ((regsBut_wr _ _ _).mono (by simp))
  obtain ⟨hnote, hlast⟩ := tempNoted_leaves (tempShown s i value top) i value
  rw [← ht] at hnote hlast
  have hsame : SameBut [.regs, .hkc, .time] s t :=
    (frame_wr (by decide) (frame_wr (by decide) (SameBut.refl _ s))).trans (hnote.mono (by decide))
  have hregs : RegsBut [HKC.TEMP i, HKC.TEMP_MAX] s t := hwrites.trans (RegsBut.of_sameBut hnote (by decide))
  have htemp : rd t (HKC.TEMP i) = word value.toNat := (rd_of_sameBut hnote (by decide) _).trans hread
  have htwf : regsWf t = true := (regsWf_congr (hnote .regs (by decide))).trans hshown
  refine ⟨_, hcase, ?_⟩
  split_ifs
  · have htrig := frame_calTrigger t (fp := [.regs]) (by decide) (SameBut.refl _ t)
    have hbut := regsBut_calTrigger t htwf
    exact ⟨hsame.trans (htrig.mono (by decide)), (hregs.mono (by simp)).trans (hbut.mono (by simp)), (hbut _ hrun).trans htemp,
      (congrArg HkcState.last (htrig .hkc (by decide))).trans hlast⟩
  · exact ⟨hsame, hregs.mono (by simp), htemp, hlast⟩

/-- The AOREF slot shows its value, and flags one below 0.5 V (R237). -/
theorem hkcSupervision_aoref_leaves {s : State} (hwf : regsWf s = true) (value : BitVec 16) (agree : Bool) :
    ∃ u, hkcSupervision s .aoref value agree = u ∧ SameBut [.regs] s u ∧ RegsBut [AOUT.AOREF_STAT, hdr pgAOUT Hdr.EVT] s u ∧
      rd u AOUT.AOREF_STAT = word value.toNat :=
  ⟨_, rfl, (sameBut_wr s AOUT.AOREF_STAT _ (by decide)).trans (sameBut_evtIf _ _ _ _ (by decide)),
    ((regsBut_wr s _ _).mono (by simp)).trans ((regsBut_evtIf _ _ _ _).mono (by simp)),
    (regsBut_evtIf _ _ _ _ _ (by decide)).trans (rd_wr_same _ _ hwf)⟩

theorem bandGap_disagrees (s : State) :
    bandGap s false = faultSrc (evt (setCalStat { s with cal := { s.cal with agree := 0 } } 2 true) pgCAL 1) 15 := rfl

theorem bandGap_agrees {s : State} (hbg : calBgFail s = false) :
    bandGap s true = { s with cal := { s.cal with agree := min (s.cal.agree + 1) 1000 } } := by
  have hno : ¬ (calBgFail { s with cal := { s.cal with agree := min (s.cal.agree + 1) 1000 } } = true ∧
      1000 ≤ s.cal.agree + 1) := fun h => Bool.false_ne_true (hbg.symm.trans h.1)
  exact if_neg hno

/-- Settles O46: a trigger, a run's end and each supervision slot leave the registers that the rules name. -/
theorem calibrationRuns : Obligations.CalibrationRuns := by
  unfold Obligations.CalibrationRuns
  intro s p _ hmem
  have hwf := regsWf_of_memoryWf hmem
  refine ⟨fun hpass => congrArg Host.Outcome.next (gated_of_passes _ hpass),
    fun hperiod => congrArg Host.Outcome.next (when_of (decide_eq_true hperiod)),
    fun hperiod => congrArg Host.Outcome.next (when_not (decide_eq_false (not_not_intro hperiod))),
    calTrigger_bgFail, calTrigger_running, fun hbg hrun => ⟨_, calTrigger_idle hbg hrun, calStart_leaves hwf⟩,
    fun quads hrun => congrArg Host.Outcome.next (when_of hrun), fun quads hrun => congrArg Host.Outcome.next (when_not hrun),
    fun ch v b hslot => congrArg Host.Outcome.next (when_not hslot), fun i v b hslot => ?_, fun t ht => ?_⟩
  · obtain ⟨u, hcase, hsame, hregs, htemp, hlast⟩ :=
      hkcSupervision_ts_leaves (s := { s with hkc := { s.hkc with last := hkcEnded s } }) hwf i v b
    exact ⟨u, congrArg Host.Outcome.next ((when_of hslot).trans hcase),
      (SameBut.set_hkc (by decide) (SameBut.refl _ s)).trans hsame, hregs, htemp, hlast⟩
  · have hrun (ch : HkcSuper) (v : BitVec 16) (b : Bool) (hslot : superSlot s ch = true) :
        exec (.hkcSupervision ch v b) s = .next (hkcSupervision t ch v b) := by
      rw [ht]
      exact congrArg Host.Outcome.next (when_of hslot)
    have htwf : regsWf t = true := by
      rw [ht]
      exact hwf
    have htbg : calBgFail t = calBgFail s := by
      rw [ht]
      rfl
    refine ⟨fun v b hslot => ?_, fun v hslot => hrun .bgcap v false hslot, fun v hslot hbg => ?_,
      fun v b hslot => hrun .vddq v b hslot, fun v b hslot => hrun .agnd v b hslot⟩
    · obtain ⟨u, hcase, hleaves⟩ := hkcSupervision_aoref_leaves htwf v b
      exact ⟨u, (hrun .aoref v b hslot).trans (congrArg Host.Outcome.next hcase), hleaves⟩
    · exact (hrun .bgcap v true hslot).trans (congrArg Host.Outcome.next (bandGap_agrees (htbg.trans hbg)))

end Sys2Proof.Machine
end

section
/-!
PROOF. O47: the challenge and the response of a path, its Service level and its lapse, the lockout and nSCONF.
-/
namespace Sys2Proof.Machine

theorem pathOf_congr {s t : State} (h : t.host = s.host) (p : Path) : pathOf t p = pathOf s p := by rw [pathOf, h, pathOf]

/-- A read of CHAL0 draws four words for the path, and none for another (R763). -/
theorem chal0Read_leaves {s : State} (hs : Shaped s) (p : Path) : ∃ l, l.length = 4 ∧
    (pathOf (chal0Read s p) p).challenge = some l ∧ ∀ q, q ≠ p → pathOf (chal0Read s p) q = pathOf s q :=
  ⟨_, (List.length_map _).trans List.length_range,
    congrArg PathState.challenge (pathOf_same (s := drawn s) p _ (shaped_drawn s hs)),
    fun _ hq => pathOf_other (s := drawn s) _ hq⟩

/-- The state that the right response leaves before it is journalled (R764, R765). -/
def serviceEntered (s : State) (p : Path) : State :=
  let s := onPath s p (fun t => { t with challenge := none, service := true })
  wr s FUSE.AUTH_STAT (setFld (rd s FUSE.AUTH_STAT) 4 4 0)

theorem serviceEntered_leaves {s : State} (hs : Shaped s) (hwf : regsWf s = true) (p : Path) :
    SameBut [.host, .regs] s (serviceEntered s p) ∧ pathOf (serviceEntered s p) p =
      { pathOf s p with challenge := none, service := true } ∧
      (∀ q, q ≠ p → pathOf (serviceEntered s p) q = pathOf s q) ∧ RegsBut [FUSE.AUTH_STAT] s (serviceEntered s p) ∧
      rd (serviceEntered s p) FUSE.AUTH_STAT = setFld (rd s FUSE.AUTH_STAT) 4 4 0 :=
  ⟨frame_wr (by decide) (SameBut.set_host (by decide) (SameBut.refl _ s)), pathOf_same p _ hs, fun _ hq => pathOf_other _ hq,
    regsBut_wr _ _ _, rd_wr_same _ _ hwf⟩

/-- What an AUTH that is taken does (R764 to R766): the lockout, then the challenge, then the response. -/
theorem authEnter_locked {s : State} {p : Path} (hlock : rdb s FUSE.AUTH_STAT 2 = true) :
    authEnter s p = authRefused s p 0x42 := if_pos hlock

theorem authEnter_noChallenge {s : State} {p : Path} (hlock : rdb s FUSE.AUTH_STAT 2 = false)
    (hnone : (pathOf s p).challenge = none) : authEnter s p = authRefused s p 0x43 := by
  simp only [authEnter, hlock, hnone, Bool.false_eq_true, if_false]

theorem authEnter_wrong {s : State} {p : Path} {c : List Word} (hlock : rdb s FUSE.AUTH_STAT 2 = false)
    (hchal : (pathOf s p).challenge = some c) (hresp : (pathOf s p).response ≠ authResponse s p c) :
    authEnter s p = authRefused s p 0x41 := by
  simp only [authEnter, hlock, hchal, hresp, Bool.false_eq_true, if_false]

theorem authEnter_right {s : State} {p : Path} {c : List Word} (hlock : rdb s FUSE.AUTH_STAT 2 = false)
    (hchal : (pathOf s p).challenge = some c) (hresp : (pathOf s p).response = authResponse s p c) :
    ∃ l, authEnter s p = changeEntry (serviceEntered s p) 3 l p 0 FUSE.AUTH 0 0 := by
  refine ⟨pathLevel (serviceEntered s p) p, ?_⟩
  simp only [authEnter, hlock, hchal, hresp, Bool.false_eq_true, if_false, if_true]
  rfl

/-- A record in the change journal leaves the paths and every register but the flags of its page. -/
theorem authEnter_right_leaves {s : State} {p : Path} {c : List Word} (hs : Shaped s) (hwf : regsWf s = true)
    (hlock : rdb s FUSE.AUTH_STAT 2 = false) (hchal : (pathOf s p).challenge = some c)
    (hresp : (pathOf s p).response = authResponse s p c) :
    SameBut [.host, .regs, .changes] s (authEnter s p) ∧ (pathOf (authEnter s p) p).service = true ∧
      (pathOf (authEnter s p) p).challenge = none ∧ (∀ q, q ≠ p → pathOf (authEnter s p) q = pathOf s q) ∧
      RegsBut [FUSE.AUTH_STAT, hdr pgJRNL Hdr.EVT] s (authEnter s p) ∧
      rd (authEnter s p) FUSE.AUTH_STAT = setFld (rd s FUSE.AUTH_STAT) 4 4 0 := by
  obtain ⟨l, hcase⟩ := authEnter_right hlock hchal hresp
  obtain ⟨hsame, hpath, hother, hregs, hstat⟩ := serviceEntered_leaves hs hwf p
  have hentry := frame_changeEntry (serviceEntered s p) 3 l p 0 FUSE.AUTH 0 0 (fp := [.regs, .changes]) (by decide) (SameBut.refl _ _)
  have hbut := regsBut_changeEntry (serviceEntered s p) 3 l p 0 FUSE.AUTH 0 0
  rw [← hcase] at hentry hbut
  have hkeep (q : Path) : pathOf (authEnter s p) q = pathOf (serviceEntered s p) q := pathOf_congr (hentry .host (by decide)) q
  rw [hkeep, hpath]
  exact ⟨(hsame.mono (by decide)).trans (hentry.mono (by decide)), rfl, rfl, fun q hq => (hkeep q).trans (hother q hq),
    (hregs.mono (by simp)).trans (hbut.mono (by simp)), (hbut _ (by decide)).trans hstat⟩

/-- A lapse ends the Service level of the path (R767). -/
theorem lapse_service {s : State} (hs : Shaped s) {p : Path} (hsvc : (pathOf s p).service = true) :
    (pathOf (lapse s p) p).service = false ∧ SameBut [.host, .regs, .changes] s (lapse s p) := by
  refine ⟨?_, frame_lapse s p (by decide) (SameBut.refl _ _)⟩
  rw [lapse, if_pos hsvc]
  exact congrArg PathState.service (pathOf_same p _ (shaped_changeEntry _ _ _ _ _ _ _ _ hs))

theorem lapse_idle {s : State} {p : Path} (hsvc : (pathOf s p).service = false) : lapse s p = s := by
  rw [lapse, hsvc, if_neg Bool.false_ne_true]

/-- Settles O47: challenge, response, lapse and lockout of a path, case by case. -/
theorem serviceAccess : Obligations.ServiceAccess := by
  unfold Obligations.ServiceAccess
  intro s p hshape hmem
  have hs := (shaped_iff s).1 hshape
  have hwf := regsWf_of_memoryWf hmem
  refine ⟨fun hready => ?_, ⟨_, rfl, SameBut.set_host (by decide) (SameBut.refl _ s), ?_, fun q hq => pathOf_other _ hq⟩,
    fun hpass => ?_, rfl, lapse_service hs, lapse_idle, fun hlock => ?_,
    ⟨_, rfl, SameBut.set_pins (by decide) (SameBut.refl _ s), rfl⟩,
    ⟨_, rfl, SameBut.set_pins (by decide) (SameBut.refl _ s), rfl⟩⟩
  · obtain ⟨l, hlen, hchal, hother⟩ := chal0Read_leaves hs p
    exact ⟨_, l, congrArg Host.Outcome.next (if_pos hready), frame_chal0Read s p (by decide) (SameBut.refl _ _), rfl, hchal, hlen,
      hother⟩
  · exact congrArg PathState.challenge (pathOf_same p _ hs)
  · have hrun : exec (.authEnter p) s = .next (authEnter s p) := congrArg Host.Outcome.next (gated_of_passes _ hpass)
    refine ⟨fun hlock => hrun.trans (congrArg Host.Outcome.next (authEnter_locked hlock)),
      fun hlock hnone => hrun.trans (congrArg Host.Outcome.next (authEnter_noChallenge hlock hnone)),
      fun c hlock hchal => ⟨fun hresp => hrun.trans (congrArg Host.Outcome.next (authEnter_wrong hlock hchal hresp)),
        fun hresp => ⟨_, hrun, authEnter_right_leaves hs hwf hlock hchal hresp⟩⟩,
      congrArg Host.Outcome.next (gated_of_passes _ hpass)⟩
  · exact ⟨_, congrArg Host.Outcome.next (when_of hlock), sameBut_wr _ _ _ (by decide), regsBut_wr _ _ _, rd_wr_same _ _ hwf⟩

end Sys2Proof.Machine
end

section
/-!
PROOF. O48: the safe inputs with their test pulses, the SFC and the safe outputs with their switch tests.
-/
namespace Sys2Proof.Machine

theorem outSt_same {s : State} {x : Nat} (f : SafeOut → SafeOut) (hs : Shaped s) (h : x < 4) :
    outSt (onOut s x f) x = f (outSt s x) := getD_modify_same f {} (hs.safe_outs ▸ h)

theorem outSt_other {s : State} {x o : Nat} (f : SafeOut → SafeOut) (h : o ≠ x) : outSt (onOut s x f) o = outSt s o :=
  getD_modify_other f {} h

theorem sameBut_onSafe (s : State) (f : SafeState → SafeState) : SameBut [.safe] s (onSafe s f) :=
  SameBut.set_safe (List.Subset.refl _) (SameBut.refl _ s)

theorem onOut_leaves {s : State} {x : Nat} (f : SafeOut → SafeOut) (hs : Shaped s) (hx : x < 4) :
    SameBut [.safe] s (onOut s x f) ∧ outSt (onOut s x f) x = f (outSt s x) ∧
      ∀ o, o ≠ x → outSt (onOut s x f) o = outSt s o :=
  ⟨sameBut_onSafe s _, outSt_same f hs hx, fun _ ho => outSt_other f ho⟩

-- inputs

theorem held_free {s : State} {i : Nat} (h : s.safe.held.getD i none = none) : ¬ (s.safe.held.getD i none).isSome = true := by
  rw [h]
  exact Bool.false_ne_true

theorem safeInput_off {s : State} {i : Nat} {level : Bool} (hoff : safeOn s = false) :
    safeInput s i level = onSafe s (fun x => { x with si := x.si.set i level }) := by
  rw [safeInput, hoff]
  rfl

/-- A level of a channel whose value no test pulse holds is judged with its pair (R782, R785). -/
theorem safeInput_judged {s : State} {i : Nat} {level : Bool} (hon : safeOn s = true) (hheld : s.safe.held.getD i none = none) :
    safeInput s i level = pairChanged (onSafe s (fun x => { x with
      si := x.si.set i level, sawLow := if level then x.sawLow else x.sawLow.set i true })) (i / 2) := by
  rw [safeInput, hon]
  exact if_neg (held_free hheld)

/-- TP `k` goes inactive. -/
def pulseEnded (s : State) (k : Nat) : State := onSafe s (fun x => { x with tp := x.tp.set k false })

/-- Channel `i` at the end of its pulse: a fault of its pair where it has not read low (R785). -/
def pulseJudged (s : State) (i : Nat) : State :=
  if (s.safe.held.getD i none).isSome && !s.safe.sawLow.getD i false then
    allDemands (safeFault (onPair s (i / 2) (fun p => { p with fault := true, low := false })) (4 + i / 2))
  else s

/-- The held value of channel `i` is let go (R785). -/
def holdEnded (s : State) (i : Nat) : State :=
  if (s.safe.held.getD i none).isSome then pairChanged (onSafe s (fun x => { x with held := x.held.set i none })) (i / 2) else s

theorem exec_testPulseEnd {s : State} {k : Fin 4} (htp : s.safe.tp.getD k false = true) :
    exec (.testPulseEnd k) s = .next ((tpChannels s k).foldl pulseJudged (pulseEnded s k)) :=
  congrArg Host.Outcome.next (when_of htp)

theorem exec_pulseHoldEnd {s : State} {k : Fin 4} (htp : s.safe.tp.getD k false = false) :
    exec (.pulseHoldEnd k) s = .next ((tpChannels s k).foldl holdEnded s) :=
  congrArg Host.Outcome.next (when_of (by rw [htp]; rfl))

theorem pulseJudged_sawLow {s : State} {i : Nat} (h : s.safe.held.getD i none = none ∨ s.safe.sawLow.getD i false = true) :
    pulseJudged s i = s := by
  refine if_neg ?_
  rw [Bool.and_eq_true]
  rintro ⟨hheld, hmissed⟩
  rcases h with hfree | hlow
  · exact held_free hfree hheld
  · rw [hlow] at hmissed
    exact Bool.false_ne_true hmissed

theorem pulseJudged_missed {s : State} {i : Nat} (hheld : s.safe.held.getD i none ≠ none) (hlow : s.safe.sawLow.getD i false = false) :
    pulseJudged s i = allDemands (safeFault (onPair s (i / 2) (fun p => { p with fault := true, low := false })) (4 + i / 2)) :=
  if_pos (by rw [Option.isSome_iff_ne_none.2 hheld, hlow]; rfl)

theorem holdEnded_held {s : State} {i : Nat} (hheld : s.safe.held.getD i none ≠ none) :
    holdEnded s i = pairChanged (onSafe s (fun x => { x with held := x.held.set i none })) (i / 2) :=
  if_pos (Option.isSome_iff_ne_none.2 hheld)

theorem holdEnded_free {s : State} {i : Nat} (hheld : s.safe.held.getD i none = none) : holdEnded s i = s :=
  if_neg (held_free hheld)

-- outputs

/-- An output that goes off is off, whatever it waits for (R792). -/
theorem outSt_on_outOff {s : State} {x : Nat} (hs : Shaped s) (hx : x < 4) (hon : (outSt s x).on = true) (demand : Bool) :
    (outSt (outOff s x demand) x).on = false := by
  rw [outOff, if_pos hon]
  cases demand
  · exact congrArg SafeOut.on (outSt_same _ hs hx)
  · exact congrArg SafeOut.on (outSt_same _ hs hx)

theorem exec_switchTestEnd {s : State} {x : Fin 4} (htest : (outSt s x).test ≠ none) : exec (.switchTestEnd x) s =
    .next (if (outSt s x).hit then outOff s x true else onOut s x (fun o => { o with test := none })) :=
  congrArg Host.Outcome.next (when_of (Option.isSome_iff_ne_none.2 htest))

/-- Settles O48: each input, pulse, cycle and test acts where its condition holds. -/
theorem safeInputsAndOutputs : Obligations.SafeInputsAndOutputs := by
  unfold Obligations.SafeInputsAndOutputs
  intro s hshape _
  have hs := (shaped_iff s).1 hshape
  refine ⟨fun i level hoff => ⟨_, congrArg Host.Outcome.next (safeInput_off hoff), sameBut_onSafe s _, rfl⟩,
    fun i level hon hheld => congrArg Host.Outcome.next (safeInput_judged hon hheld),
    fun k hon hen hkind hdiff => congrArg Host.Outcome.next (when_of (by simp [hon, hen, hkind, hdiff])),
    fun k hon hnow => ⟨_, congrArg Host.Outcome.next (when_of (by simp [hon, hnow])), sameBut_onSafe s _, rfl, rfl, rfl, rfl⟩,
    fun k htp hlow => (exec_testPulseEnd htp).trans (congrArg Host.Outcome.next
      (foldl_same _ _ _ fun i hi => pulseJudged_sawLow (s := pulseEnded s k) (hlow i hi))),
    fun k i hchan hheld => ⟨fun htp hlow => ⟨_, rfl, ?_⟩, fun htp => ?_⟩,
    fun k htp hheld => (exec_pulseHoldEnd htp).trans (congrArg Host.Outcome.next
      (foldl_same _ _ _ fun i hi => holdEnded_free (hheld i hi))),
    fun f c hon => congrArg Host.Outcome.next (when_of hon),
    fun hon => ⟨congrArg Host.Outcome.next (when_of (by rw [hon]; rfl)), congrArg Host.Outcome.next (when_of hon)⟩,
    congrArg Host.Outcome.next (when_not (by simp)), fun x hon => ⟨fun hrun htest hnow => ?_, fun htest hhit => ?_,
      fun htest hhit => ?_, fun hback => congrArg Host.Outcome.next (when_of (by simp [hon, hback])),
      fun hback => congrArg Host.Outcome.next (when_of (by simp [hon, hback])),
      fun hss1 => congrArg Host.Outcome.next (when_of (by rw [hon, hss1]; rfl)), outSt_on_outOff hs x.isLt⟩, fun x level => ?_⟩
  · rw [exec_testPulseEnd htp, hchan]
    exact congrArg Host.Outcome.next (pulseJudged_missed (s := pulseEnded s k) hheld hlow)
  · rw [exec_pulseHoldEnd htp, hchan]
    exact congrArg Host.Outcome.next (holdEnded_held hheld)
  · obtain ⟨hsame, hout, hother⟩ := onOut_leaves (fun o => { o with test := some (!o.nextLow), nextLow := !o.nextLow }) hs x.isLt
    exact ⟨_, congrArg Host.Outcome.next (when_of (by simp [hon, hrun, htest, hnow])), hsame, congrArg SafeOut.test hout,
      (congrArg SafeOut.hit hout).trans rfl, hother⟩
  · exact ⟨_, (exec_switchTestEnd htest).trans (congrArg Host.Outcome.next (if_neg (by simp [hhit]))), onOut_leaves _ hs x.isLt⟩
  · exact (exec_switchTestEnd htest).trans (congrArg Host.Outcome.next (if_pos hhit))
  · exact ⟨_, _, rfl, rfl, sameBut_onSafe s _, sameBut_onSafe s _, outSt_same _ hs x.isLt, outSt_same _ hs x.isLt⟩

end Sys2Proof.Machine
end

section
/-!
PROOF. O49: SafeFrames sent and received with the checks of Table 19.5, and the resets of safety faults.
-/
namespace Sys2Proof.Machine

theorem connSt_same {s : State} {c : Nat} (f : SafeConn → SafeConn) (hs : Shaped s) (h : c < 32) :
    connSt (onConn s c f) c = f (connSt s c) := getD_modify_same f {} (hs.safe_conns ▸ h)

theorem connSt_other {s : State} {c o : Nat} (f : SafeConn → SafeConn) (h : o ≠ c) : connSt (onConn s c f) o = connSt s o :=
  getD_modify_other f {} h

theorem onConn_leaves {s : State} {c : Nat} (f : SafeConn → SafeConn) (hs : Shaped s) (hc : c < 32) :
    SameBut [.safe] s (onConn s c f) ∧ connSt (onConn s c f) c = f (connSt s c) ∧
      ∀ o, o ≠ c → connSt (onConn s c f) o = connSt s o :=
  ⟨sameBut_onSafe s _, connSt_same f hs hc, fun _ ho => connSt_other f ho⟩

/-- The frame that a producing connection sends next (R800, R801, R804). -/
def safeMsgOf (s : State) (c : Nat) : SafeMsg :=
  { conn := sfId s c, source := ownHubId s, dest := sfPeer s c, failSafe := sfCounterFails s c, timeValid := gridValid s
    seq := (connSt s c).seq + 1, sec := s.time.ht / secLen % 2 ^ 32, ns := s.time.ht % secLen / 65536
    data := if sfCounterFails s c then List.replicate 16 0 else safeData s, signature := sfSignature s c, crcOk := true }

theorem exec_safeframeSend {s : State} {c : Fin 32} (hon : safeOn s = true) (hen : sfEn s c = true) (hprod : sfProduces s c = true) :
    exec (.safeframeSend c) s = .next (sendRing (onConn s c (fun t => { t with seq := (connSt s c).seq + 1 }))
      (Config.peerMac (sfPeer s c)) (.safe (safeMsgOf s c))) :=
  congrArg Host.Outcome.next (when_of (by rw [hon, hen, hprod]; rfl))

/-- A connection after a frame that passes every check; the third one in a row ends a reset (R805, R807). -/
def connTaken (t : SafeConn) (m : SafeMsg) : SafeConn :=
  let n := t.reset.map (· + 1)
  let ends := n.any (fun k => decide (3 ≤ k))
  { t with
    last := some m.seq, data := if m.failSafe then 0 else (m.data.getD 0 0).toNat
    accepted := (t.accepted + 1) % 65536, reset := if ends then none else n, cause := if ends then 0 else t.cause }

theorem connTaken_of_noReset {t : SafeConn} {m : SafeMsg} (h : t.reset = none) : connTaken t m = { t with
    last := some m.seq, data := if m.failSafe then 0 else (m.data.getD 0 0).toNat, accepted := (t.accepted + 1) % 65536 } := by
  obtain ⟨seq, last, cause, data, accepted, crcAt, crc, dup, time, reset⟩ := t
  subst h
  rfl

-- the checks of Table 19.5, in their order

theorem safeFrame_wrongHub {s : State} {c : Nat} {m : SafeMsg} (hcrc : m.crcOk = true) (hdest : m.dest ≠ ownHubId s) :
    safeFrame s c m = failSafe s c 2 := by
  simp only [safeFrame, hcrc, Bool.not_true, Bool.false_eq_true, if_false]
  exact if_pos (Or.inl hdest)

section
variable {s : State} {c : Nat} {m : SafeMsg} {l : BitVec 32} (hcrc : m.crcOk = true)
  (hid : ¬ (m.dest ≠ ownHubId s ∨ m.source ≠ sfPeer s c ∨ m.conn ≠ sfId s c ∨ m.signature ≠ sfSignature s c))
  (hlast : (connSt s c).last = some l)
include hcrc hid hlast

theorem safeFrame_duplicate (hdiff : (m.seq - l).toNat = 0) :
    safeFrame s c m = sfDiscard s c (fun t => { t with dup := min 255 (t.dup + 1) }) := by
  simp only [safeFrame, hcrc, hid, hlast, hdiff, Bool.not_true, Bool.false_eq_true, if_false, if_true]

theorem safeFrame_gap (hdiff : 4 < (m.seq - l).toNat) : safeFrame s c m = failSafe s c 3 := by
  have hne : (m.seq - l).toNat ≠ 0 := by omega
  simp only [safeFrame, hcrc, hid, hlast, hne, hdiff, Bool.not_true, Bool.false_eq_true, if_false, if_true]

/-- A frame that passes every check, on a connection that no reset holds, is taken (R805). -/
theorem safeFrame_taken (hlow : 1 ≤ (m.seq - l).toNat) (hhigh : (m.seq - l).toNat ≤ 4) (htime : m.timeValid = true)
    (hgrid : gridValid s = true) (hearly : -10000 ≤ sfAge s m) (hlate : sfAge s m ≤ (rdf s (SAFE.SF_AGE c) 0 20 * 1000 : Nat)) :
    safeFrame s c m = allDemands (onConn s c (fun t => connTaken t m)) := by
  have hne : (m.seq - l).toNat ≠ 0 := by omega
  have hnear : ¬ 4 < (m.seq - l).toNat := by omega
  have hage : ¬ (sfAge s m < -10000 ∨ (rdf s (SAFE.SF_AGE c) 0 20 * 1000 : Nat) < sfAge s m) := by omega
  simp only [safeFrame, hcrc, hid, hlast, hne, hnear, htime, hgrid, hage, Bool.not_true, Bool.and_self, Bool.false_eq_true, if_false,
    connTaken]

end

theorem failSafe_first {s : State} {c cause : Nat} (hnone : (connSt s c).cause = 0) : failSafe s c cause =
    allDemands (evt (onConn s c (fun t => { t with cause := cause, reset := none })) pgSAFE 3) := if_pos hnone

/-- A consuming connection hears frames and its watchdog (R805, R806). -/
theorem when_consuming {s : State} {c : Nat} {f : State → State} (hon : safeOn s = true) (hen : sfEn s c = true)
    (hcons : sfProduces s c = false) : when (safeOn s && sfEn s c && !sfProduces s c) s f = f s :=
  when_of (by rw [hon, hen, hcons]; rfl)

/-- Settles O49: the frame sent, each check of a received one, the first cause and the resets. -/
theorem safeFramesAndResets : Obligations.SafeFramesAndResets := by
  unfold Obligations.SafeFramesAndResets
  intro s c hshape _
  have hs := (shaped_iff s).1 hshape
  refine ⟨fun hon hen hprod hok _ => ?_, fun m hon hen hcons => congrArg Host.Outcome.next (when_consuming hon hen hcons),
    fun m hcrc hdest => safeFrame_wrongHub hcrc hdest, fun m l hcrc hdest hsource hconn hsign hlast => ?_,
    fun hon hen hcons => congrArg Host.Outcome.next (when_consuming hon hen hcons), fun cause => failSafe_first,
    fun p hpass => ⟨congrArg Host.Outcome.next (hostAct_of_passes _ hpass rfl),
      congrArg Host.Outcome.next (hostAct_of_passes _ hpass rfl)⟩, ⟨_, rfl, onConn_leaves _ hs c.isLt⟩⟩
  · obtain ⟨hsame, hconn, hother⟩ := onConn_leaves (fun t => { t with seq := (connSt s c).seq + 1 }) hs c.isLt
    exact ⟨_, safeMsgOf s c, exec_safeframeSend hon hen hprod, hsame, hconn, hother, rfl, rfl, rfl, rfl,
      if_neg (by rw [hok]; exact Bool.false_ne_true), rfl⟩
  · have hid : ¬ (m.dest ≠ ownHubId s ∨ m.source ≠ sfPeer s c ∨ m.conn ≠ sfId s c ∨ m.signature ≠ sfSignature s c) := by
      simp [hdest, hsource, hconn, hsign]
    refine ⟨fun hdiff => ?_, safeFrame_gap hcrc hid hlast, fun hlow hhigh htime hgrid hearly hlate hreset => ?_⟩
    · obtain ⟨hsame, hc, -⟩ := onConn_leaves (fun t => { t with
        dup := min 255 (t.dup + 1), reset := t.reset.map (fun _ => 0) }) hs c.isLt
      exact ⟨_, safeFrame_duplicate hcrc hid hlast hdiff, hsame, congrArg SafeConn.dup hc, (congrArg SafeConn.data hc).trans rfl⟩
    · obtain ⟨hsame, hc, hother⟩ := onConn_leaves (fun t => connTaken t m) hs c.isLt
      exact ⟨_, safeFrame_taken hcrc hid hlast hlow hhigh htime hgrid hearly hlate, hsame, hc.trans (connTaken_of_noReset hreset),
        hother⟩

end Sys2Proof.Machine
end

section
/-!
PROOF. O50: pairing, heartbeats, mirror frames and the snapshot of twin operation.
-/
namespace Sys2Proof.Machine

theorem sameBut_onTwin (s : State) (f : TwinState → TwinState) : SameBut [.twin] s (onTwin s f) :=
  SameBut.set_twin (List.Subset.refl _) (SameBut.refl _ s)

theorem sameBut_sendTwin {l : List Part} (s : State) (b : FrameBody) (h : [.regs, .sent] ⊆ l) : SameBut l s (sendTwin s b) :=
  frame_sendTwin s b h (SameBut.refl _ s)

-- pairing (R816, R817)

/-- The partner's nonce answered, by a hub that holds TWIN_KEY (R816). -/
def nonceAnswered (s : State) (nonce : BitVec 128) : State :=
  if fuseWritten s 1 then sendTwin (drawn s) (.pairing (Config.challenge s.freeCtr) (pairAnswer s nonce)) else s

/-- What a retry shows of the partner: `f` is the refuse code. -/
def pairShown (s : State) (l : List Word) (f : Nat) : State :=
  onTwin s (fun t => { t with
    refuse := f, pair := if f = 0 then .pairing else .refused
    partnerAddr := if f = 0 then (remoteAt l 4).toNat % 256 else t.partnerAddr })

theorem pairingRetry_eq {s : State} {l : List Word} {nonce : BitVec 128} {answer : List Word} {f : Nat}
    (hf : f = pairRefuse s l (decide (answer = pairAnswer s (Config.challenge s.freeCtr)))) :
    pairingRetry s l nonce answer = pairShown (nonceAnswered s nonce) l f := by
  subst hf
  rfl

theorem nonceAnswered_leaves (s : State) (nonce : BitVec 128) :
    SameBut [.regs, .sent, .freeCtr] s (nonceAnswered s nonce) ∧ (nonceAnswered s nonce).twin = s.twin := by
  have hdrawn : SameBut [.regs, .sent, .freeCtr] s (drawn s) := SameBut.set_freeCtr (by decide) (SameBut.refl _ s)
  have hsame : SameBut [.regs, .sent, .freeCtr] s (nonceAnswered s nonce) :=
    sameBut_ite (frame_sendTwin _ _ (by decide) hdrawn) (SameBut.refl _ s)
  exact ⟨hsame, hsame .twin (by decide)⟩

theorem pairShown_leaves (s : State) (l : List Word) (nonce : BitVec 128) (f : Nat) :
    SameBut [.twin, .regs, .sent, .freeCtr] s (pairShown (nonceAnswered s nonce) l f) ∧
      (f = 0 → (pairShown (nonceAnswered s nonce) l f).twin =
        { s.twin with refuse := 0, pair := .pairing, partnerAddr := (remoteAt l 4).toNat % 256 }) ∧
      (f ≠ 0 → (pairShown (nonceAnswered s nonce) l f).twin = { s.twin with refuse := f, pair := .refused }) ∧
      (fuseWritten s 1 = false → SameBut [.twin] s (pairShown (nonceAnswered s nonce) l f)) := by
  obtain ⟨hsame, htwin⟩ := nonceAnswered_leaves s nonce
  refine ⟨(hsame.mono (by decide)).trans ((sameBut_onTwin _ _).mono (by decide)), fun hf => ?_, fun hf => ?_, fun hfuse => ?_⟩
  · rw [pairShown, hf, onTwin, htwin]
    rfl
  · rw [pairShown, onTwin, htwin, if_neg hf, if_neg hf]
  · have hno : nonceAnswered s nonce = s := if_neg (by rw [hfuse]; exact Bool.false_ne_true)
    rw [hno]
    exact sameBut_onTwin _ _

/-- A pairing completed by a member that drives nothing: a snapshot is awaited from an active partner (R817, R842). -/
def standbyPaired (s : State) : State :=
  let t := evt (onTwin s (fun t => { t with
    pair := if s.twin.partnerActive then .snapshot else .paired, pairedAt := s.time.now })) pgTWIN 0
  if s.twin.partnerActive then wr t TWIN.SNAP_STAT 0 else t

theorem pairUp_standby {s : State} (hact : s.twin.active = false) : pairUp s = standbyPaired s := by
  cases hpart : s.twin.partnerActive <;> simp [pairUp, standbyPaired, onTwin, evt, wr, hact, hpart]

theorem standbyPaired_leaves (s : State) : SameBut [.twin, .regs] s (standbyPaired s) ∧ (standbyPaired s).twin =
    { s.twin with pair := if s.twin.partnerActive then .snapshot else .paired, pairedAt := s.time.now } := by
  have hpair : SameBut [.twin, .regs] s (evt (onTwin s (fun t => { t with
      pair := if s.twin.partnerActive then .snapshot else .paired, pairedAt := s.time.now })) pgTWIN 0) :=
    frame_evt _ _ _ (by decide) ((sameBut_onTwin _ _).mono (by decide))
  refine ⟨sameBut_ite (frame_wr (by decide) hpair) hpair, ?_⟩
  rw [standbyPaired]
  split
  · rfl
  · rfl

-- heartbeats (R819, R821)

theorem heartbeatSend_leaves (s : State) : SameBut [.regs, .twin, .ring, .sent] s (heartbeatSend s) ∧
    (heartbeatSend s).twin = { s.twin with hbCount := (s.twin.hbCount + 1) % 65536 } := by
  have hcount := sameBut_onTwin s (fun t => { t with hbCount := (s.twin.hbCount + 1) % 65536 })
  have hword := sameBut_wr (l := [.regs, .ring, .sent]) (onTwin s (fun t => { t with hbCount := (s.twin.hbCount + 1) % 65536 }))
    TWIN.HB_WORD (hbWord s) (by decide)
  have hsent : SameBut [.regs, .ring, .sent] (onTwin s (fun t => { t with hbCount := (s.twin.hbCount + 1) % 65536 }))
      (heartbeatSend s) :=
    have hresp := sameBut_ite (frame_sendRing _ _ _ (by decide) hword) hword
    sameBut_ite (frame_sendTwin _ _ (by decide) hresp) hresp
  exact ⟨(hcount.mono (by decide)).trans (hsent.mono (by decide)), hsent .twin (by decide)⟩

theorem heartbeatHeard_paired {s : State} (hpair : isPaired s = true) (w : Word) : (heartbeatHeard s w).twin = { s.twin with
    hbAt := some s.time.now, offsetAt := some s.time.now, partnerActive := bit w 0, partnerReady := bit w 1 } := by
  rw [heartbeatHeard, if_pos (Or.inl hpair)]
  rfl

/-- The partner is dropped, and nothing waits for its quires (R821). -/
def partnerDropped (s : State) : State :=
  let s := if linkUpOn s .l2 then bumpSat s TWIN.HB_MISS 0 16 3 else s
  let s := evt (bumpSat s TWIN.COUNTS 16 16 1) pgTWIN 1
  let s := onTwin s (fun t => { t with
    pair := .lost, partnerReady := false, partnerActive := false, positions := [], hbAt := none, mirrorAt := none })
  { s with streams := s.streams.map (fun x => { x with joining := none }) }

theorem partnerLost_pair (s : State) : (partnerLost s).twin.pair = .lost := by
  have hcase : partnerLost s = if decide ((partnerDropped s).pwr.st = .twilight) &&
      selects (partnerDropped s) (partnerDropped s).pins.arbsel && (partnerDropped s).twin.handover.isNone then
      takeAlone (partnerDropped s) (max ((partnerDropped s).twin.takeAt.getD 0) (now (partnerDropped s)))
    else partnerDropped s := rfl
  rw [hcase]
  split
  · rfl
  · rfl

-- mirroring (R824, R826, R842)

theorem streamPositions_congr {s t : State} (h : t.streams = s.streams) : streamPositions t = streamPositions s := by
  have hstrm : strmOf t = strmOf s := funext (strmOf_congr h)
  simp only [streamPositions, hstrm]

theorem streamPositions_sendTwin (s : State) (b : FrameBody) : streamPositions (sendTwin s b) = streamPositions s :=
  streamPositions_congr (sameBut_sendTwin (l := [.regs, .sent]) s b (by decide) .streams (by decide))

theorem exec_mirrorFrameSend {s : State} {k : Fin 12} (hact : s.twin.active = true) (hpair : isPaired s = true) : ∃ t,
    t = (if mirrorMode s k ≠ 0 ∧ (engOf s k).stage.isNone then sendTwin s (.mirror ⟨k, mirrorMode s k,
      (mirrorAddrs (mirrorMode s k) (mirrorLen s k)).map (fun a => (a, sramRead (engOf s k) a))⟩) else s) ∧
    exec (.mirrorFrameSend k) s = .next (sendTwin t (.positions (streamPositions t))) :=
  ⟨_, rfl, congrArg Host.Outcome.next (when_of (by rw [hact, hpair]; rfl))⟩

theorem writeBetween_idle {e : EngineState} (l : List (Nat × Word)) (h : e.stage = none) :
    writeBetween e l = l.foldl (fun e w => sramWrite e w.1 w.2) e := if_neg (by rw [h]; exact Bool.false_ne_true)

/-- Words from the partner wait for the end of a stage (R567). -/
theorem sramRead_writeBetween_busy {e : EngineState} (l : List (Nat × Word)) (h : e.stage ≠ none) (a : Nat) :
    sramRead (writeBetween e l) a = sramRead e a := by
  rw [writeBetween, if_pos (Option.isSome_iff_ne_none.2 h)]
  rfl

/-- The state in which the standby of a pair has taken a mirror frame (R824). -/
def mirrorTaken (s : State) (m : MirrorMsg) : State :=
  onEng (onTwin s (fun t => { t with mirrorAt := some s.time.now })) m.engine (fun e => writeBetween e (mirrorWords m))

theorem mirrorTaken_leaves {s : State} (hs : Shaped s) (m : MirrorMsg) :
    SameBut [.twin, .engines] s (mirrorTaken s m) ∧ (mirrorTaken s m).twin = { s.twin with mirrorAt := some s.time.now } ∧
      engOf (mirrorTaken s m) m.engine = writeBetween (engOf s m.engine) (mirrorWords m) ∧
      ∀ k, k ≠ m.engine.val → engOf (mirrorTaken s m) k = engOf s k :=
  ⟨frame_onEng _ _ _ (by decide) ((sameBut_onTwin _ _).mono (by decide)), rfl,
    engOf_same (s := onTwin s _) _ (shaped_onTwin _ _ hs) m.engine.isLt, fun _ hk => engOf_other (s := onTwin s _) _ hk⟩

theorem positionsHeard_twin (s : State) (l : List StreamPos) :
    (positionsHeard s l).twin = { s.twin with positions := l } := by
  have hjoin : SameBut [.streams] (onTwin s (fun t => { t with positions := l })) (positionsHeard s l) :=
    sameBut_foldl (SameBut.refl _ _) fun x p hx => frame_joinStream x p (by decide) hx
  exact hjoin .twin (by decide)

/-- The words of a snapshot in the engines (R842). -/
def snapWritten (s : State) (m : SnapshotMsg) : State :=
  { s with engines := s.engines.zipIdx.map (fun x => writeBetween x.1 (snapWords m x.1 x.2)) }

theorem snapshotHeard_twin {s : State} (hsnap : s.twin.pair = .snapshot) (m : SnapshotMsg) :
    (snapshotHeard s m).twin = { s.twin with pair := .paired, positions := m.streams } := by
  have hpos := positionsHeard_twin (snapWritten s m) m.streams
  have hpaired : (snapshotHeard s m).twin = { (positionsHeard (snapWritten s m) m.streams).twin with pair := .paired } := by
    rw [snapshotHeard, if_pos hsnap]
    rfl
  rw [hpaired, hpos]
  rfl

/-- Settles O50: each exchange of the pair, by the lemma on the state that it leaves. -/
theorem twinPairing : Obligations.TwinPairing := by
  unfold Obligations.TwinPairing
  intro s
  refine ⟨fun l nonce answer f hpair hruns hlink hbist hf => ?_,
    fun hpair => congrArg Host.Outcome.next (when_of (decide_eq_true hpair)), fun hpair hst hact => ?_,
    fun hruns hperiod => ⟨_, congrArg Host.Outcome.next (when_of (by simp [hruns, hperiod])), heartbeatSend_leaves s⟩,
    fun w => rfl, fun w hpair => ⟨frame_heartbeatHeard s w (by decide) (SameBut.refl _ s), heartbeatHeard_paired hpair w⟩,
    fun hpair => ⟨congrArg Host.Outcome.next (when_of (by rw [hpair]; rfl)), partnerLost_pair s,
      frame_partnerLost s (by decide) (SameBut.refl _ s)⟩,
    fun k hact hpair => ?_, fun m hshape hpair hact => ?_,
    fun m hsnap => ⟨_, rfl, frame_snapshotHeard s m (by decide) (SameBut.refl _ s), snapshotHeard_twin hsnap m⟩⟩
  · exact ⟨_, congrArg Host.Outcome.next ((when_of (by simp [hpair, hruns, hlink, hbist])).trans (pairingRetry_eq hf)),
      pairShown_leaves s l nonce f⟩
  · obtain ⟨hsame, htwin⟩ := standbyPaired_leaves s
    have hstay : dawnAdvance (standbyPaired s) = standbyPaired s := dawnAdvance_of_ne (by rw [hsame .pwr (by decide)]; exact hst)
    refine ⟨_, congrArg Host.Outcome.next ((when_of (decide_eq_true hpair)).trans ?_), hsame, htwin⟩
    rw [pairUp_standby hact, hstay]
  · obtain ⟨t, ht, hrun⟩ := exec_mirrorFrameSend (k := k) hact hpair
    refine ⟨fun hmode hstage => ?_, fun hnot => ?_⟩
    · rw [if_pos ⟨hmode, Option.isNone_iff_eq_none.2 hstage⟩] at ht
      rw [hrun, ht, streamPositions_sendTwin]
    · rw [if_neg (by rw [Option.isNone_iff_eq_none]; tauto)] at ht
      rw [hrun, ht]
  · obtain ⟨hsame, htwin, heng, hother⟩ := mirrorTaken_leaves ((shaped_iff s).1 hshape) m
    refine ⟨mirrorTaken s m, congrArg Host.Outcome.next (if_pos (by rw [hpair, hact]; rfl)), hsame, htwin, fun hstage => ?_,
      fun hstage a => ?_, hother⟩
    · rw [heng, writeBetween_idle _ hstage]
    · rw [heng, sramRead_writeBetween_busy _ hstage]

end Sys2Proof.Machine
end

section
/-!
PROOF. O51: ARBSEL, the handover frame and the handover of the engines.
-/
namespace Sys2Proof.Machine

/-- ARBSEL has the level `level`, seen by the twin part. -/
def arbSeen (s : State) (level : Bool) : State :=
  onTwin { s with pins := { s.pins with arbsel := level } } (fun t => { t with arbsel := level })

theorem arbSeen_leaves (s : State) (level : Bool) : SameBut [.pins, .twin] s (arbSeen s level) :=
  (SameBut.set_pins (by decide) (SameBut.refl _ s)).trans ((sameBut_onTwin _ _).mono (by decide))

-- a bound of R828 reads the registers and the slots alone
theorem handoverOf_arbSeen (s : State) (level : Bool) (n : Nat) (losing : Bool) (l : List HandoverFault) :
    handoverOf (arbSeen s level) n losing l = handoverOf s n losing l := rfl

section
variable {s : State} {level : Bool} (hnone : s.twin.handover = none)
include hnone

/-- With no handover in progress a member acts on a new level at its own index (R828). -/
theorem arbChange_acts : arbChange s level = arbAct { s with pins := { s.pins with arbsel := level } } level (now s) :=
  if_neg (by rw [hnone]; exact Bool.false_ne_true)

/-- An active member that the level does not select (R828, R829). -/
theorem arbChange_loses (hst : s.pwr.st = .noon) (hsel : selects s level = false) : arbChange s level =
    if isPaired s && s.twin.partnerReady then
      sendTwin (onTwin (arbSeen s level) (fun t => { t with handover := some (handoverOf s (now s) true (faultList s)) }))
        (.handover ⟨now s, faultList s⟩)
    else evtIf (pairConfigured s) (arbSeen s level) pgTWIN 3 := by
  have hdrives : (decide (s.pwr.st = .noon ∨ (s.pwr.st = .dusk ∧ s.twin.active)) && !selects s level) = true := by
    rw [hst, hsel]
    rfl
  rw [arbChange_acts hnone]
  exact if_pos hdrives

/-- A standby that the level selects (R830). -/
theorem arbChange_takes (hst : s.pwr.st = .twilight) (hsel : selects s level = true) : arbChange s level =
    if isPaired s then onTwin (arbSeen s level) (fun t => { t with takeAt := some (now s) })
    else takeAlone (arbSeen s level) (now s) := by
  have hrest : ¬ (decide (s.pwr.st = .noon ∨ (s.pwr.st = .dusk ∧ s.twin.active)) && !selects s level) = true := by
    rw [hsel, Bool.not_true, Bool.and_false]
    exact Bool.false_ne_true
  have htakes : (decide (s.pwr.st = .twilight) && selects s level) = true := by
    rw [hst, hsel]
    rfl
  rw [arbChange_acts hnone]
  exact (if_neg hrest).trans (if_pos htakes)

theorem arbChange_hands (hst : s.pwr.st = .noon) (hsel : selects s level = false) (hpair : isPaired s = true)
    (hready : s.twin.partnerReady = true) : (arbChange s level).twin =
      { s.twin with arbsel := level, handover := some (handoverOf s (now s) true (faultList s)) } := by
  rw [arbChange_loses hnone hst hsel, if_pos (by rw [hpair, hready]; rfl)]
  exact sameBut_sendTwin (l := [.regs, .sent]) _ _ (by decide) .twin (by decide)

/-- Without a partner that is paired and ready the losing member keeps every output and flags the mismatch (R829). -/
theorem arbChange_keeps (hst : s.pwr.st = .noon) (hsel : selects s level = false)
    (hpartner : (isPaired s && s.twin.partnerReady) = false) (hcfg : pairConfigured s = true) :
    arbChange s level = evt (arbSeen s level) pgTWIN 3 := by
  rw [arbChange_loses hnone hst hsel, hpartner, hcfg, if_neg Bool.false_ne_true]
  rfl

theorem arbChange_waits (hst : s.pwr.st = .twilight) (hsel : selects s level = true) (hpair : isPaired s = true) :
    (arbChange s level).twin = { s.twin with arbsel := level, takeAt := some (now s) } := by
  rw [arbChange_takes hnone hst hsel, if_pos hpair]
  rfl

theorem arbChange_alone (hst : s.pwr.st = .twilight) (hsel : selects s level = true) (hpair : isPaired s = false) :
    (arbChange s level).twin = { s.twin with
      arbsel := level, takeAt := none
      handover := some { ns := now s, bounds := List.replicate 12 (now s), last := now s, losing := false } } := by
  rw [arbChange_takes hnone hst hsel, hpair, if_neg Bool.false_ne_true]
  rfl

theorem exec_handoverFrame_taken {m : HandoverMsg} (hst : s.pwr.st = .twilight) (hsel : selects s s.pins.arbsel = true) :
    exec (.handoverFrame m) s =
      .next (onTwin s (fun t => { t with takeAt := none, handover := some (handoverOf s m.ns false m.faults) })) :=
  congrArg Host.Outcome.next (if_pos (by rw [hst, hnone, hsel]; rfl))

end

-- an engine at its bound (R829, R831)

section
variable {s : State} {k : Fin 12} {h : Handover} (hhand : s.twin.handover = some h)
  (hbound : h.bounds.getD k 0 ≤ now s ∨ h.last ≤ now s) (hdone : h.done.contains k.val = false)
include hhand hbound hdone

theorem exec_handoverRelease_losing (hlose : h.losing = true) : exec (.handoverRelease k) s = .next (handoverRelease s h k) := by
  refine congrArg Host.Outcome.next ?_
  rw [hhand]
  exact if_pos ⟨hlose, hbound, by rw [hdone]; rfl⟩

theorem exec_handoverTake_selected (hlose : h.losing = false) : exec (.handoverTake k) s = .next (handoverTake s h k) := by
  refine congrArg Host.Outcome.next ?_
  rw [hhand]
  exact if_pos ⟨by rw [hlose]; rfl, hbound, by rw [hdone]; rfl⟩

end

/-- Settles O51: ARBSEL at a losing and at a selected member, the frame, the bounds of the engines and TWIN.CTRL. -/
theorem twinHandover : Obligations.TwinHandover := by
  unfold Obligations.TwinHandover
  intro s
  exact ⟨fun level => rfl,
    fun level hst hnone hsel => ⟨arbChange_hands hnone hst hsel,
      fun hpartner hcfg => ⟨_, arbChange_keeps hnone hst hsel hpartner hcfg, arbSeen_leaves s level, rfl, rfl⟩⟩,
    fun level hst hnone hsel => ⟨arbChange_waits hnone hst hsel,
      fun hpair => ⟨_, arbChange_alone hnone hst hsel hpair, rfl, rfl, rfl⟩⟩,
    fun m hst hnone hsel => ⟨_, exec_handoverFrame_taken hnone hst hsel, sameBut_onTwin _ _, rfl⟩,
    fun k h hhand hbound hdone => ⟨exec_handoverRelease_losing hhand hbound hdone, exec_handoverTake_selected hhand hbound hdone⟩,
    fun n htake hlate => congrArg Host.Outcome.next (when_of (by simp [htake, hlate])),
    fun hst hpair hsel hactive => congrArg Host.Outcome.next (when_of (by simp [hst, hpair, hsel, hactive])),
    fun p hpass => ⟨congrArg Host.Outcome.next (gated_of_passes _ hpass), congrArg Host.Outcome.next (gated_of_passes _ hpass)⟩⟩

end Sys2Proof.Machine
end

section
/-!
PROOF. O52: the two slots of an object of the NV store, and the phases of Dawn that commands end.
-/
namespace Sys2Proof.Machine

-- the two slots (R744 to R748)

section
variable {α : Type}

theorem filter_valid_eq_some {a : Option (NvSlot α)} {z : NvSlot α} (h : a.filter NvSlot.valid = some z) :
    a = some z ∧ z.valid = true := Option.filter_eq_some_iff.1 h

/-- The slot that a store writes is not the active one (R745). -/
theorem otherSlot_ne {l : List (Option (NvSlot α))} {i : Nat} (h : activeSlot l = some i) : otherSlot l ≠ i := by
  cases i with
  | zero => simp [otherSlot, h]
  | succ i => simp [otherSlot, h]

-- which of two slots is active, by which of them are valid (R744)

section
variable {a b : Option (NvSlot α)} {x z : NvSlot α}

theorem activeSlot_of_none (ha : a.filter NvSlot.valid = none) (hb : b.filter NvSlot.valid = none) : activeSlot [a, b] = none := by
  simp only [activeSlot, newestSlot, List.getD_cons_zero, List.getD_cons_succ, ha, hb]

theorem activeSlot_of_first (ha : a.filter NvSlot.valid = some x) (hb : b.filter NvSlot.valid = none) :
    activeSlot [a, b] = some 0 := by
  simp only [activeSlot, newestSlot, List.getD_cons_zero, List.getD_cons_succ, ha, hb]

theorem activeSlot_of_second (ha : a.filter NvSlot.valid = none) (hb : b.filter NvSlot.valid = some z) :
    activeSlot [a, b] = some 1 := by
  simp only [activeSlot, newestSlot, List.getD_cons_zero, List.getD_cons_succ, ha, hb]

theorem activeSlot_of_both (ha : a.filter NvSlot.valid = some x) (hb : b.filter NvSlot.valid = some z) : activeSlot [a, b] =
    if decide (1 ≤ (z.gen - x.gen).toNat ∧ (z.gen - x.gen).toNat < 2 ^ 31) then some 1 else some 0 := by
  simp only [activeSlot, newestSlot, List.getD_cons_zero, List.getD_cons_succ, ha, hb]

/-- Where two slots are valid, one of them is active. -/
theorem activeSlot_both_or (ha : a.filter NvSlot.valid = some x) (hb : b.filter NvSlot.valid = some z) :
    activeSlot [a, b] = some 0 ∨ activeSlot [a, b] = some 1 := by
  rw [activeSlot_of_both ha hb]
  split
  · exact Or.inr rfl
  · exact Or.inl rfl

theorem filter_valid_some (hx : x.valid = true) : (some x).filter NvSlot.valid = some x := by
  simp only [Option.filter, hx, if_true]

end

/-- A slot that is not valid, put beside the active one, serves for nothing. -/
theorem activeSlot_set_other {l : List (Option (NvSlot α))} (hl : l.length = 2) {y : Option (NvSlot α)}
    (hy : y.filter NvSlot.valid = none) : activeSlot (l.set (otherSlot l) y) = activeSlot l := by
  obtain ⟨a, b, rfl⟩ := List.length_eq_two.1 hl
  have hfirst (x : NvSlot α) (ha : a.filter NvSlot.valid = some x) (hact : activeSlot [a, b] = some 0) :
      activeSlot ([a, b].set (otherSlot [a, b]) y) = activeSlot [a, b] := by
    rw [otherSlot, hact]
    exact activeSlot_of_first ha hy
  have hsecond (z : NvSlot α) (hb : b.filter NvSlot.valid = some z) (hact : activeSlot [a, b] = some 1) :
      activeSlot ([a, b].set (otherSlot [a, b]) y) = activeSlot [a, b] := by
    rw [otherSlot, hact]
    exact activeSlot_of_second hy hb
  cases ha : a.filter NvSlot.valid with
  | none => cases hb : b.filter NvSlot.valid with
    | none =>
      have hact := activeSlot_of_none ha hb
      rw [otherSlot, hact]
      exact activeSlot_of_none hy hb
    | some z => exact hsecond z hb (activeSlot_of_second ha hb)
  | some x => cases hb : b.filter NvSlot.valid with
    | none => exact hfirst x ha (activeSlot_of_first ha hb)
    | some z =>
      rcases activeSlot_both_or ha hb with hact | hact
      · exact hfirst x ha hact
      · exact hsecond z hb hact

theorem activeOf_set_other {l : List (Option (NvSlot α))} (hl : l.length = 2) {y : Option (NvSlot α)}
    (hy : y.filter NvSlot.valid = none) : activeOf (l.set (otherSlot l) y) = activeOf l := by
  rw [activeOf, activeSlot_set_other hl hy, activeOf]
  cases hact : activeSlot l with
  | none => rfl
  | some i => simp [List.getElem?_set_ne (otherSlot_ne hact)]

/-- A slot one generation ahead of the other valid one is active, wherever it stands (R744). -/
theorem activeOf_newer_second {a : Option (NvSlot α)} {n : NvSlot α} (hn : n.valid = true)
    (hgen : ∀ z, a.filter NvSlot.valid = some z → n.gen = z.gen + 1) : activeOf [a, some n] = some n := by
  have hact : activeSlot [a, some n] = some 1 := by
    cases ha : a.filter NvSlot.valid with
    | none => exact activeSlot_of_second ha (filter_valid_some hn)
    | some z =>
      have hstep : n.gen - z.gen = 1#32 := by
        rw [hgen z ha]
        exact add_sub_cancel_left z.gen 1
      rw [activeSlot_of_both ha (filter_valid_some hn), hstep]
      rfl
  rw [activeOf, hact]
  rfl

theorem activeOf_newer_first {b : Option (NvSlot α)} {n : NvSlot α} (hn : n.valid = true)
    (hgen : ∀ z, b.filter NvSlot.valid = some z → n.gen = z.gen + 1) : activeOf [some n, b] = some n := by
  have hact : activeSlot [some n, b] = some 0 := by
    cases hb : b.filter NvSlot.valid with
    | none => exact activeSlot_of_first (filter_valid_some hn) hb
    | some z =>
      have hstep : z.gen - n.gen = -1#32 := by
        rw [hgen z hb]
        exact sub_add_cancel_left z.gen 1
      rw [activeSlot_of_both (filter_valid_some hn) hb, hstep]
      rfl
  rw [activeOf, hact]
  rfl

/-- The second slot is active where it is valid and the first one is not the active one. -/
theorem activeOf_second {a b : Option (NvSlot α)} {z : NvSlot α} (hb : b.filter NvSlot.valid = some z)
    (hnot : activeSlot [a, b] ≠ some 0) : activeOf [a, b] = some z := by
  have hact : activeSlot [a, b] = some 1 := by
    cases ha : a.filter NvSlot.valid with
    | none => exact activeSlot_of_second ha hb
    | some x => exact (activeSlot_both_or ha hb).resolve_left hnot
  obtain ⟨rfl, -⟩ := filter_valid_eq_some hb
  rw [activeOf, hact]
  rfl

theorem activeOf_set_newer {l : List (Option (NvSlot α))} (hl : l.length = 2) {n : NvSlot α} (hn : n.valid = true)
    (hgen : n.gen = (activeOf l).elim 0 (·.gen) + 1) : activeOf (l.set (otherSlot l) (some n)) = some n := by
  obtain ⟨a, b, rfl⟩ := List.length_eq_two.1 hl
  by_cases hact : activeSlot [a, b] = some 0
  · have hother : otherSlot [a, b] = 1 := by
      rw [otherSlot, hact]
      rfl
    have ha : activeOf [a, b] = a := by
      rw [activeOf, hact]
      rfl
    rw [ha] at hgen
    rw [hother]
    refine activeOf_newer_second hn fun z hz => ?_
    rw [hgen, (filter_valid_eq_some hz).1]
    rfl
  · have hother : otherSlot [a, b] = 0 := by
      rw [otherSlot]
      split
      · next h => exact absurd h hact
      · rfl
    rw [hother]
    refine activeOf_newer_first hn fun z hz => ?_
    rw [hgen, activeOf_second hz hact]
    rfl

/-- The header and content that step 1 of a store writes (R745). -/
def storedSlot (l : List (Option (NvSlot α))) (x : α) : NvSlot α := ⟨(activeOf l).elim 0 (·.gen) + 1, none, true, x⟩

theorem writeSlot_eq (l : List (Option (NvSlot α))) (x : α) : writeSlot l x = l.set (otherSlot l) (some (storedSlot l x)) := by
  rw [writeSlot, storedSlot]
  cases activeOf l <;> rfl

theorem otherSlot_lt {l : List (Option (NvSlot α))} (hl : l.length = 2) : otherSlot l < l.length := by
  rw [hl, otherSlot]
  split <;> decide

/-- Steps 2 and 3 of a store act on the slot that step 1 has written. -/
theorem onOther_writeSlot {l : List (Option (NvSlot α))} (hl : l.length = 2) (x : α) (f : NvSlot α → NvSlot α) :
    onOther (writeSlot l x) f = l.set (otherSlot l) (some (f (storedSlot l x))) := by
  have hother : otherSlot (writeSlot l x) = otherSlot l := by
    rw [otherSlot, writeSlot_eq, activeSlot_set_other hl rfl, otherSlot]
  rw [onOther, hother, writeSlot_eq, List.modify_eq_set_getElem?]
  simp [List.getElem?_set_self (otherSlot_lt hl)]

theorem activeSlot_valid {l : List (Option (NvSlot α))} {i : Nat} (h : activeSlot l = some i) :
    ∃ z, l.getD i none = some z ∧ z.valid = true := by
  have hslot : ∃ z, (l.getD i none).filter NvSlot.valid = some z := by
    unfold activeSlot newestSlot at h
    split at h
    · exact absurd h (by simp)
    · next x hx _ => exact Option.some.inj h ▸ ⟨x, hx⟩
    · next x _ hx => exact Option.some.inj h ▸ ⟨x, hx⟩
    · next x y hx hy =>
      split at h
      · exact Option.some.inj h ▸ ⟨y, hy⟩
      · exact Option.some.inj h ▸ ⟨x, hx⟩
  obtain ⟨z, hz⟩ := hslot
  exact ⟨z, filter_valid_eq_some hz⟩

/-- A slot that Dawn reads with a fault is not the active one (R748). -/
theorem activeSlot_readSlots {l : List (Option (NvSlot α))} {r : List NvRead} {i : Nat} {y : NvRead}
    (hact : activeSlot (readSlots l r) = some i) (hy : r[i]? = some y) : y.crcOk = true ∧ y.uncorrectable = 0 := by
  obtain ⟨z, hz, hvalid⟩ := activeSlot_valid hact
  have hread : ∃ w : NvSlot α, z = { w with crcOk := w.crcOk && y.crcOk && decide (y.uncorrectable = 0) } := by
    rw [readSlots, List.getD_eq_getElem?_getD, List.getElem?_zipWith, hy] at hz
    cases hl : l[i]? with
    | none => simp [hl] at hz
    | some x =>
      cases x with
      | none => simp [hl] at hz
      | some w => exact ⟨w, by simpa [hl] using hz.symm⟩
  obtain ⟨w, rfl⟩ := hread
  simp only [NvSlot.valid, Bool.and_eq_true, decide_eq_true_eq] at hvalid
  obtain ⟨-, ⟨-, hcrc⟩, hbad⟩ := hvalid
  exact ⟨hcrc, hbad⟩

end

-- phases of Dawn

theorem endPhase_pwr (s : State) : (endPhase s).pwr = { s.pwr with dawnPhase := s.pwr.dawnPhase + 1 } := by
  unfold endPhase
  dsimp only
  split
  · rfl
  · rfl

/-- The state at the end of BIST, before its phase ends (R848). -/
def bistRun (s : State) (r : BistResult) : State :=
  let s := wr s SYS.DAWN_STAT (rd s SYS.DAWN_STAT ||| word (bistBits s r))
  let s := bistCores s r.failedSlices
  let s : State := { s with badBands := r.failedBands.map (·.val) }
  let s := (List.finRange 64).foldl (fun s (n : Fin 64) =>
    let bad := r.failedEdges.contains n
    evtIf bad (onEdge s n (fun e => { e with calFail := List.replicate 3 bad })) (pgEDGE (n / 8)) 24) s
  bistRecal (calUnits (calMeasure (loadCalSet s [r.cal0, r.cal1]) (fun _ => true) false) (fun _ => true))

theorem bistDone_eq (s : State) (r : BistResult) : bistDone s r = endPhase (bistRun s r) := rfl

/-- BIST leaves the power part as it is: no test ends the phase by itself. -/
theorem bistRun_pwr (s : State) (r : BistResult) : (bistRun s r).pwr = s.pwr := by
  have hsame : SameBut [.regs, .cores, .badBands, .edges, .inCoefs, .cal, .nv, .freeCtr] s (bistRun s r) := by
    refine frame_bistRecal _ (by decide) (frame_calUnits _ _ (by decide) (frame_calMeasure _ _ _ (by decide)
      (frame_loadCalSet _ _ (by decide) (sameBut_foldl ?_ fun x n hx => ?_))))
    · exact SameBut.set_badBands (by decide) (frame_bistCores _ _ (by decide) (sameBut_wr _ _ _ (by decide)))
    · exact frame_evtIf _ _ _ _ (by decide) (frame_onEdge _ _ _ (by decide) hx)
  exact hsame .pwr (by decide)

theorem bistDone_phase {s : State} (hphase : s.pwr.dawnPhase = 2) (r : BistResult) : (bistDone s r).pwr.dawnPhase = 3 := by
  rw [bistDone_eq, endPhase_pwr, bistRun_pwr, hphase]

theorem exec_reamImageLoaded {s : State} (hst : s.pwr.st = .dawn) (hphase : s.pwr.dawnPhase = 3)
    (hheld : s.pwr.warm.running = false ∨ warmHeld s = false) (a c : NvRead) :
    exec (.reamImageLoaded a c) s = .next (reamLoaded (readImage s [a, c])) := by
  refine congrArg Host.Outcome.next (when_of ?_)
  rcases hheld with hrun | hfree
  · simp [hst, hphase, hrun]
  · simp [hst, hphase, hfree]

theorem readImage_pwr (s : State) (r : List NvRead) : (readImage s r).pwr = s.pwr :=
  frame_readImage (fp := [.regs, .nv]) s r (by decide) (SameBut.refl _ s) .pwr (by decide)

/-- After a warm reset the load ends at phase 4, with host access back (R120). -/
theorem reamLoaded_warm {s : State} (hrun : s.pwr.warm.running = true) : (reamLoaded s).pwr.dawnPhase = 4 ∧
    (reamLoaded s).pwr.warm.running = false ∧ (reamLoaded s).pwr.warm.imageLoaded = true ∧
    (reamLoaded s).pwr.tableDue = false := by
  rw [reamLoaded, hrun]
  exact ⟨rfl, rfl, rfl, rfl⟩

theorem dawnStall_leaves {s : State} (hwf : regsWf s = true) (cause : Nat) :
    SameBut [.regs] s (evt (setWait s cause) pgSYS 3) ∧
      RegsBut [SYS.DAWN_STAT, hdr pgSYS Hdr.EVT] s (evt (setWait s cause) pgSYS 3) ∧
      rd (evt (setWait s cause) pgSYS 3) SYS.DAWN_STAT = setFld (rd s SYS.DAWN_STAT) 8 4 cause ∧
      rd (evt (setWait s cause) pgSYS 3) (hdr pgSYS Hdr.EVT) = rd s (hdr pgSYS Hdr.EVT) ||| 8#32 := by
  have hwait : regsWf (setWait s cause) = true := regsWf_wr _ _ hwf
  refine ⟨frame_evt _ _ _ (by decide) (frame_setWait _ _ (by decide) (SameBut.refl _ s)),
    ((regsBut_wr s _ _).mono (by simp)).trans ((regsBut_evt _ _ _).mono (by simp)),
    (regsBut_evt _ _ _ _ (by decide)).trans (rd_wr_same _ _ hwf), ?_⟩
  rw [rd_evt pgSYS 3 hwait]
  exact congrArg (· ||| 8#32) (rd_wr_other _ (by decide))

/-- Settles O52: the phases that commands end, and the store of a slot. -/
theorem bringUp : Obligations.BringUp := by
  unfold Obligations.BringUp
  refine ⟨fun s hst => ⟨fun r hphase hclk => congrArg Host.Outcome.next (when_of (by simp [hst, hphase, hclk])),
      fun r hphase => bistDone_phase hphase r, fun hphase hrun a c => exec_reamImageLoaded hst hphase (Or.inl hrun) a c,
      fun hphase hrun hheld a c => ⟨_, exec_reamImageLoaded hst hphase (Or.inr hheld) a c,
        reamLoaded_warm (by rw [readImage_pwr]; exact hrun)⟩,
      fun hact hphase => ⟨?_, congrArg PwrState.dawnPhase (endPhase_pwr s)⟩,
      fun cause hact hcause hwf => ⟨_, congrArg Host.Outcome.next (when_of (by simp [hst, hact, hcause])),
        dawnStall_leaves hwf cause⟩⟩,
    fun l x g hl hg => ⟨?_, ?_, ?_, fun r i y => activeSlot_readSlots⟩⟩
  · refine congrArg Host.Outcome.next (when_of ?_)
    rcases hphase with hlink | ⟨htwin, hl2, hbist⟩
    · simp [hst, hact, hlink]
    · simp [hst, hact, htwin, hl2, hbist]
  · rw [writeSlot_eq]
    exact activeOf_set_other hl rfl
  · subst hg
    rw [commitSlot, onOther_writeSlot hl]
    exact activeOf_set_newer hl (by simp [NvSlot.valid, NvSlot.complete, storedSlot]) rfl
  · rw [spoilSlot, onOther_writeSlot hl]
    exact activeOf_set_other hl rfl

end Sys2Proof.Machine
end
